-- ==== Sys2Proof/Word.lean ====
section
/-! DEFINITION. The word types of the block and the plainest arithmetic on them. -/

namespace Sys2Proof

/-- A byte. -/
abbrev Byte := BitVec 8

/-- A register: 64 bits (R7). -/
abbrev Word := BitVec 64

/-- A run of bytes, lowest address first. -/
abbrev Bytes := List Byte

/-- A memory or a register file: keys strictly rising, no entry equal to what an unlisted key reads as. -/
abbrev SMap (α : Type) := List (Nat × α)

end Sys2Proof
end

