-- ==== Sys2Proof/Syntax.lean ====
section
/-! DEFINITION. The commands of the block: one constructor per row of the table of operations and events, with the
operands an outside party gives (addresses, values, frames, physical measurements). -/

namespace Sys2Proof

/-- Who makes a register access (`FLT_BAD_ACCESS_LAST.SRC`, R348). `tile` stands for the fabric register space
(R288), which the bad-access record does not name. -/
inductive Src where
  /-- The host, over BAR0. -/
  | host
  /-- The porter. -/
  | porter
  deriving DecidableEq, Repr

/-- An output of a packet-mesh stop (R32): a neighbour stop, a port die, or the stop's own block. -/
inductive Dir where
  | north | east | south | west | here
  deriving DecidableEq, Repr

/-- A frame: the fields of its cell header (Table 9-3), the full origin time (R218) and its payload bytes. -/
structure Frame where
  /-- KIND, Table 9-5. -/
  kind : Nat
  /-- Traffic class 0-7. -/
  cls : Nat
  /-- VC of arrival, 0 or 1 (R280). -/
  vc : Nat
  /-- Destination node ID. -/
  dest : Nat
  /-- Source node ID. -/
  src : Nat
  /-- Flow label, 20 bits. -/
  flow : Nat
  /-- Unordered traffic. -/
  unord : Bool
  /-- Congestion mark. -/
  ce : Bool
  /-- Congestion echo. -/
  ece : Bool
  /-- Fabric time at origin. -/
  origin : Nat
  /-- Payload bytes. -/
  payload : Bytes
  deriving DecidableEq, Repr

/-- A physical upset that a step meets in the storage it touches (R105, R117, R172, R327, R339). -/
inductive Upset where
  /-- Nothing is upset. -/
  | none
  /-- A correctable error of tile memory or of the operand cache, or of the stack that the step reaches: counted only (R342). -/
  | corrected
  /-- A correctable error of long-accumulator slot storage (R172). -/
  | correctedSlot
  /-- A correctable error of an HBM stack that a tile's step reaches (R342). -/
  | correctedHbm (stack : Nat)
  /-- An uncorrectable 64-bit word of tile memory that holds this byte address. -/
  | tileMem (addr : Nat)
  /-- An uncorrectable byte of the operand cache. -/
  | cache (byte : Nat)
  /-- An uncorrectable 64 B block of HBM at this device address. -/
  | hbm (devAddr : Nat)
  /-- An uncorrectable word of long-accumulator slot `l`. -/
  | accSlot (l : Nat)
  /-- The residue check of the long-accumulator unit fails for this many adds of the step, repeats included (R169, R170). -/
  | residue (mismatches : Nat)
  deriving DecidableEq, Repr

/-- The configuration that a scrubbed word belongs to (R59): the section of the die, the PACKAGE section, or the PARTITION section of an owner. -/
inductive ConfigPart where
  | die
  | package
  | partition (owner : Nat)
  deriving DecidableEq, Repr

/-- What the scrubber finds at one 64-bit word of a section that a die holds (R58, R59): the value of each copy and whether its ECC
fails uncorrectably. -/
structure ScrubUpset where
  /-- The section of the word. -/
  part : ConfigPart
  /-- Index of the 64-bit word within the section. -/
  word : Nat
  /-- The active copy fails ECC. -/
  activeBad : Bool
  /-- The check copy fails ECC. -/
  checkBad : Bool
  /-- The word the active copy now holds. -/
  active : Nat
  /-- The word the check copy now holds. -/
  check : Nat
  deriving DecidableEq, Repr

/-- A slot or window whose sum takes an add, and the residue mismatches that the add meets (R167, R169). -/
structure AddAt where
  at_ : Nat
  mismatches : Nat
  deriving DecidableEq, Repr

/-- What FEC has met on a lane in a window: bits corrected, and codewords that were not correctable (R228, R230). -/
structure LaneErrors where
  corrected : Nat
  lostWords : Nat
  deriving DecidableEq, Repr

/-- A PTP event message, and under one-step operation when the request that it answers came in (R215). -/
structure PtpSend where
  bytes : Bytes
  oneStep : Option Nat
  deriving DecidableEq, Repr

/-- Why a port retrains (`LNK_PORT_STATUS.CAUSE`, R227). -/
inductive RetrainCause where
  | alignment | replay | fecLock | software
  deriving DecidableEq, Repr

/-- The adaptive loops with a policy register (Table 13-6). -/
inductive Loop where
  | vf | refresh | serdes
  deriving DecidableEq, Repr

/-- An access that an HBM controller executes (R325, R327, R291). -/
inductive HbmOp where
  /-- Read of `len` bytes; speculative when a shadow descriptor made it (R326). -/
  | read (len : Nat) (spec : Bool)
  /-- Write of bytes. -/
  | write (data : Bytes)
  /-- 64-bit fetch-add. -/
  | fetchAdd (v : Nat)
  /-- 64-bit compare-and-swap. -/
  | cas (cmp swap : Nat)
  deriving DecidableEq, Repr

/-- A reset scope with the unit it covers (Table 15-5); the number of a tile is its physical number
die × 2,304 + p, of a block die × 32 + b, of a sector die × 4 + s. -/
inductive Scope where
  | tile (t : Nat) | block (b : Nat) | sector (s : Nat) | die (d : Nat) | partition (o : Nat)
  deriving DecidableEq, Repr

/-- The sender of a porter message (R382): the I3C controller, or an IPv6 address and UDP port. -/
inductive Sender where
  | i3c
  | udp (addr : Nat) (port : Nat)
  deriving DecidableEq, Repr


/-- The commands of the block: one constructor for each row of `spec/opcode_table.json`. -/
inductive Instr where
  /-- PLAIN_REGISTER_WRITE (R10): A host or porter write to a register that has no row of its own is applied under its access code. -/
  | plainRegisterWrite (src : Src) (addr : Nat) (width : Nat) (value : Nat)
  /-- RC_REGISTER_READ (R10): A read of an RC register returns its value and clears the half or whole that it addresses. -/
  | rcRegisterRead (src : Src) (addr : Nat) (width : Nat)
  /-- LATTICE_SLOT (R26): In each lattice slot, every tile router forwards, consumes or injects as its schedule entry states. -/
  | latticeSlot (owner : Nat)
  /-- MESH_FLIT_FORWARD (R32): A packet-mesh stop forwards a flit by dimension-ordered routing on its virtual channel. -/
  | meshFlitForward (st : Nat) (out : Dir)
  /-- START (R51): STR_COMMIT_CTRL.START begins a structure commit, or is refused as BUSY, after the STR_IMAGE_LEN check. -/
  | start (src : Src)
  /-- ABORT (R55): STR_COMMIT_CTRL.ABORT discards the staged pair, or sets ABORT_LATE once the latch lead has begun. -/
  | abort (src : Src)
  /-- TRANSFER_DONE (R52): When the image transfer completes, the device verifies, withdraws, zeroes and stages. -/
  | transferDone (image : Bytes) (failed : Bool)
  /-- PREPARE_COMPLETE (R53): PREPARE ends and the latch time is fixed, or the commit fails as LATCH_TOO_EARLY. -/
  | prepareComplete
  /-- LATCH_LEAD (R53): At latch time minus 50 µs (200 µs for a block commit), sequencers in scope stop issuing new work. -/
  | latchLead
  /-- LATCH (R53): Each affected die applies the staged pair, restarts schedules and takes new register values and epochs. -/
  | latch
  /-- TILE_STATE_COPY_END (R412): When the state copy ends, the schedules in scope restart at slot 0 and the hold ends. -/
  | tileStateCopyEnd
  /-- SCRUB_PASS (R58): Every 10 ms the scrubber compares both configuration copies of a die. -/
  | scrubPass (die : Nat) (upsets : List ScrubUpset)
  /-- DESCRIPTOR_FETCH (R130): A fetched descriptor arrives from tile memory or HBM. -/
  | descriptorFetch (t : Nat) (c : Nat) (which : Nat) (upset : Upset)
  /-- DESCRIPTOR_ISSUE (R129): The sequencer issues the ready descriptor of the lowest context to its engine. -/
  | descriptorIssue (t : Nat)
  /-- LOOP_ITERATION (R136): A descriptor runs one iteration of its loop nest, after its per-iteration wait. -/
  | loopIteration (t : Nat) (c : Nat) (upset : Upset)
  /-- DESCRIPTOR_COMPLETE (R128): A descriptor completes, signals, and lets its successor issue. -/
  | descriptorComplete (t : Nat) (c : Nat)
  /-- SUMMARY_SLOT_WRITE (R125): A pending summary slot takes its new values 8 FCLK after the last source element. -/
  | summarySlotWrite (t : Nat) (slot : Nat)
  /-- SELECT_RESOLVE (R142): The SELECT result becomes known and the taken successor proceeds. -/
  | selectResolve (t : Nat) (c : Nat)
  /-- GRAPH_START (R131): A start takes the lowest free context, loads its argument and issues the first descriptor. -/
  | graphStart (t : Nat)
  /-- PERIODIC_START (R147): A periodic timer reaches instance time and starts its graph or overruns. -/
  | periodicStart (t : Nat) (timer : Nat)
  /-- LATE_START (R148): A pending late periodic start runs once its cause clears. -/
  | lateStart (t : Nat) (timer : Nat)
  /-- HANDLER_START (R153): A recorded exception starts graph entry 63 in the next free context. -/
  | handlerStart (t : Nat)
  /-- STOP (R155): DSC_STATUS.STOP stops every running context at its next iteration boundary with SW_STOP. -/
  | stop (src : Src) (t : Nat)
  /-- DSC_CNT_SELECT (R155): DSC_CNT_ACCESS OP 0 selects a counter. -/
  | dscCntSelect (src : Src) (t : Nat) (id : Nat) (value : Nat)
  /-- DSC_CNT_ADD (R137): DSC_CNT_ACCESS OP 1 adds VALUE to the selected counter. -/
  | dscCntAdd (src : Src) (t : Nat) (id : Nat) (value : Nat)
  /-- DSC_CNT_SET (R137): DSC_CNT_ACCESS OP 2 sets the selected counter to VALUE. -/
  | dscCntSet (src : Src) (t : Nat) (id : Nat) (value : Nat)
  /-- NOP (R135): Control descriptor that only waits and signals. -/
  | nop (t : Nat) (c : Nat)
  /-- SELECT (R142): Control descriptor that reads a comparator to choose a successor. -/
  | select (t : Nat) (c : Nat)
  /-- SETMODE (R146): Writes DSC_NUM_MODE and holds issue for 3 FCLK, or raises BAD_MODE. -/
  | setmode (t : Nat) (c : Nat)
  /-- CMPSET (R141): Programs a comparator. -/
  | cmpset (t : Nat) (c : Nat)
  /-- CNTSET (R137): Sets a counter. -/
  | cntset (t : Nat) (c : Nat)
  /-- PERIODIC (R147): Arms or disarms a periodic timer. -/
  | periodic (t : Nat) (c : Nat)
  /-- TRIGGER (R150): Sends a remote procedure trigger and completes on its response. -/
  | trigger (t : Nat) (c : Nat)
  /-- MMA (R86): Matrix product run in lockstep by a gang from its origin tile. -/
  | mma (t : Nat) (c : Nat)
  /-- GANG_RESUME (R122): A held gang resumes in the FCLK after a finished-tile queue entry becomes free. -/
  | gangResume (t : Nat)
  /-- PRUNE (R101): Streams a dense operand through the pruning unit into doubly structured form. -/
  | prune (t : Nat) (c : Nat)
  /-- ADD (R108): Vector addition, rounded once. -/
  | add (t : Nat) (c : Nat)
  /-- SUB (R108): Vector subtraction, rounded once. -/
  | sub (t : Nat) (c : Nat)
  /-- MUL (R108): Vector multiplication, rounded once. -/
  | mul (t : Nat) (c : Nat)
  /-- FMA (R108): Vector fused multiply-add into D, rounded once. -/
  | fma (t : Nat) (c : Nat)
  /-- MIN (R109): Vector minimum. -/
  | min (t : Nat) (c : Nat)
  /-- MAX (R109): Vector maximum. -/
  | max (t : Nat) (c : Nat)
  /-- ABS (R108): Vector absolute value. -/
  | abs (t : Nat) (c : Nat)
  /-- NEG (R108): Vector negation. -/
  | neg (t : Nat) (c : Nat)
  /-- CMPEQ (R109): Vector compare for equal, writing INT8 masks. -/
  | cmpeq (t : Nat) (c : Nat)
  /-- CMPNE (R109): Vector compare for not equal. -/
  | cmpne (t : Nat) (c : Nat)
  /-- CMPLT (R109): Vector compare for less than. -/
  | cmplt (t : Nat) (c : Nat)
  /-- CMPLE (R109): Vector compare for less than or equal. -/
  | cmple (t : Nat) (c : Nat)
  /-- SELECT_VECTOR (R109): Vector select by an INT8 mask. -/
  | selectVector (t : Nat) (c : Nat)
  /-- EXP2 (R110): Vector base-2 exponential. -/
  | exp2 (t : Nat) (c : Nat)
  /-- LOG2 (R110): Vector base-2 logarithm. -/
  | log2 (t : Nat) (c : Nat)
  /-- RCP (R110): Vector reciprocal. -/
  | rcp (t : Nat) (c : Nat)
  /-- RSQRT (R110): Vector reciprocal square root. -/
  | rsqrt (t : Nat) (c : Nat)
  /-- CVT (R76): Vector format conversion, including two-level and MX destinations. -/
  | cvt (t : Nat) (c : Nat)
  /-- AND (R111): Bitwise AND. -/
  | and (t : Nat) (c : Nat)
  /-- OR (R111): Bitwise OR. -/
  | or (t : Nat) (c : Nat)
  /-- XOR (R111): Bitwise XOR. -/
  | xor (t : Nat) (c : Nat)
  /-- NOT (R111): Bitwise NOT. -/
  | not (t : Nat) (c : Nat)
  /-- SHL (R111): Element shift left. -/
  | shl (t : Nat) (c : Nat)
  /-- SHR (R111): Element shift right. -/
  | shr (t : Nat) (c : Nat)
  /-- POPCNT (R111): Element population count. -/
  | popcnt (t : Nat) (c : Nat)
  /-- GFMUL (R112): GF(2^8) element-wise product. -/
  | gfmul (t : Nat) (c : Nat)
  /-- GFMULC (R112): GF(2^8) product with a constant. -/
  | gfmulc (t : Nat) (c : Nat)
  /-- GFMAC (R112): GF(2^8) multiply-accumulate into D. -/
  | gfmac (t : Nat) (c : Nat)
  /-- GFINV (R112): GF(2^8) inverse. -/
  | gfinv (t : Nat) (c : Nat)
  /-- TOPK (R113): Writes the k largest values and their indices. -/
  | topk (t : Nat) (c : Nat)
  /-- STSUM (R126): Stores a summary slot as 32 B. -/
  | stsum (t : Nat) (c : Nat)
  /-- COPY (R134): Move-engine copy between spaces. -/
  | copy (t : Nat) (c : Nat)
  /-- FILL (R134): Fills D with a pattern. -/
  | fill (t : Nat) (c : Nat)
  /-- OCLOAD (R115): Fills operand-cache lines from tile memory. -/
  | ocload (t : Nat) (c : Nat)
  /-- OCEVICT (R116): Writes back or discards operand-cache lines. -/
  | ocevict (t : Nat) (c : Nat)
  /-- RLOAD (R290): Remote load in requests of at most 1 KiB. -/
  | rload (t : Nat) (c : Nat)
  /-- RSTORE (R290): Remote store in requests of at most 1 KiB. -/
  | rstore (t : Nat) (c : Nat)
  /-- RFADD (R291): Remote INT64 fetch-add. -/
  | rfadd (t : Nat) (c : Nat)
  /-- RCAS (R291): Remote compare-and-swap. -/
  | rcas (t : Nat) (c : Nat)
  /-- RACC (R173): Remote exact add into long-accumulator slots. -/
  | racc (t : Nat) (c : Nat)
  /-- RFPADD (R174): Remote plain FP32 atomic add, timing-dependent. -/
  | rfpadd (t : Nat) (c : Nat)
  /-- ACCSUM (R166): Adds operand A into long-accumulator slots. -/
  | accsum (t : Nat) (c : Nat) (mismatches : Nat)
  /-- ACCREAD (R162): Reads slots out to D, rounding once. -/
  | accread (t : Nat) (c : Nat)
  /-- ACCCLR (R165): Clears slots of a mask and sets their remote-open bits. -/
  | accclr (t : Nat) (c : Nat)
  /-- ACCSTORE (R161): Writes slots as raw long words. -/
  | accstore (t : Nat) (c : Nat)
  /-- ACCLOAD (R161): Replaces slots with raw long words. -/
  | accload (t : Nat) (c : Nat)
  /-- SSORT (R177): Sorts stream records. -/
  | ssort (t : Nat) (c : Nat)
  /-- SGATHER (R177): Orders stream records by source. -/
  | sgather (t : Nat) (c : Nat)
  /-- SFILTER (R177): Keeps stream records whose key passes a test. -/
  | sfilter (t : Nat) (c : Nat)
  /-- SMINMAX (R177): Selects the record with the least or greatest key. -/
  | sminmax (t : Nat) (c : Nat)
  /-- DEFERRED_EXACT_ADD (R167): A remote exact add deferred by a local add is applied in the slot's next free FCLK. -/
  | deferredExactAdd (t : Nat) (slot : AddAt)
  /-- ALLRED (R194): All-reduce collective descriptor. -/
  | allred (t : Nat) (c : Nat)
  /-- REDSCAT (R194): Reduce-scatter collective descriptor. -/
  | redscat (t : Nat) (c : Nat)
  /-- ALLGATH (R194): All-gather collective descriptor. -/
  | allgath (t : Nat) (c : Nat)
  /-- BCAST (R194): Broadcast collective descriptor. -/
  | bcast (t : Nat) (c : Nat)
  /-- BARRIER (R194): Barrier collective descriptor. -/
  | barrier (t : Nat) (c : Nat)
  /-- ALLTOALL (R194): All-to-all collective descriptor with equal sizes. -/
  | alltoall (t : Nat) (c : Nat)
  /-- ALLTOALLV (R195): All-to-all collective with a size phase and a data phase. -/
  | alltoallv (t : Nat) (c : Nat)
  /-- SORTMERGE (R196): Sort-merge collective descriptor. -/
  | sortmerge (t : Nat) (c : Nat)
  /-- FILTCOMP (R196): Filter-compact collective descriptor. -/
  | filtcomp (t : Nat) (c : Nat)
  /-- PARENC (R197): Parity-encode collective descriptor. -/
  | parenc (t : Nat) (c : Nat)
  /-- PARREB (R198): Parity-rebuild collective descriptor. -/
  | parreb (t : Nat) (c : Nat)
  /-- COMMIT_LIST (R184): COL_GRP_CTRL.COMMIT_LIST starts reading and checking a group's staged configuration. -/
  | commitList (src : Src) (e : Nat) (newEpoch : Nat)
  /-- LIST_COMMIT_DONE (R184): The list check ends, and the entry is committed or LIST_ERR is set. -/
  | listCommitDone (e : Nat) (readBad : Bool)
  /-- INVALIDATE (R185): COL_GRP_CTRL.INVALIDATE clears VALID and aborts instances in flight. -/
  | invalidate (src : Src) (e : Nat)
  /-- CONTRIBUTION (R199): A collective contribution message is received by a stage. -/
  | contribution (f : Frame)
  /-- PARTIAL (R188): A partial from a child stage is received. -/
  | partialMsg (f : Frame)
  /-- RESULT (R189): A result message is received, delivered and relayed down the tree. -/
  | result (f : Frame)
  /-- CREDIT (R187): A credit message grants buffer share or refuses a newer-epoch message. -/
  | credit (f : Frame)
  /-- ABORT_MESSAGE (R202): A collective abort message ends the instance and is relayed. -/
  | abortMessage (f : Frame)
  /-- HEARTBEAT_MESSAGE (R201): A heartbeat from a tree neighbour is received. -/
  | heartbeatMessage (f : Frame)
  /-- SIZE_COUNT_MESSAGE (R195): A size or count message of a two-phase collective is received. -/
  | sizeCountMessage (f : Frame)
  /-- BARRIER_MESSAGE (R199): A barrier message of a collective is received. -/
  | barrierMessage (f : Frame)
  /-- WINDOW_CLOSE (R187): A reducer closes a window once every expected input has arrived, and reads it out or forwards it. -/
  | windowClose (e : Nat) (seq : Nat) (w : AddAt)
  /-- INSTANCE_COMPLETE (R193): An instance completes at a member when its outputs are written and its contribution is accepted. -/
  | instanceComplete (e : Nat) (seq : Nat) (t : Nat)
  /-- MEMBER_LATE (R200): The instance watchdog expires and aborts the instance. -/
  | memberLate (e : Nat) (seq : Nat)
  /-- HEARTBEAT (R201): Each COL_HB_PERIOD, heartbeats are sent to parent and children. -/
  | heartbeat
  /-- MEMBER_LOST (R201): Three heartbeat periods pass without a message from a neighbour, and dependent instances abort. -/
  | memberLost (e : Nat) (node : Nat)
  /-- EPOCH_AHEAD_REPEAT (R204): A sender repeats a refused newer-epoch message every 1 µs. -/
  | epochAheadRepeat (e : Nat)
  /-- GROUP_RECEIVE (R224): A received group is checked by CRC and sequence and its cells, acknowledgement and credits are taken. -/
  | groupReceive (p : Nat) (block : Bytes)
  /-- TIME_SET_RECEIVE (R225): A TIME ordered set gives an offset and a delay and judges the neighbour. -/
  | timeSetReceive (p : Nat) (block : Bytes)
  /-- CREDIT_INIT (R221): A CREDIT_INIT ordered set sets the initial credits and the next GSEQ. -/
  | creditInit (p : Nat) (block : Bytes)
  /-- LINK_STATE (R228): A LINK_STATE ordered set requests or agrees a narrower width. -/
  | linkState (p : Nat) (block : Bytes)
  /-- TIME_SET_SEND (R225): Each LNK_TIME_PERIOD a TIME set is sent. -/
  | timeSetSend (p : Nat)
  /-- TIME_SET_TIMEOUT (R270): No valid TIME set for 4 periods marks the neighbour out of step. -/
  | timeSetTimeout (p : Nat)
  /-- REPLAY_TIMEOUT (R224): ACK_SEQ stalls for LNK_REPLAY_TIMEOUT and the transmitter replays. -/
  | replayTimeout (p : Nat)
  /-- HOLD_EXPIRY (R222): The hold timer of a class expires and releases it. -/
  | holdExpiry (p : Nat) (cls : Nat)
  /-- PAUSE_FRAME (R213): A PAUSE frame holds classes 0–6. -/
  | pauseFrame (p : Nat) (quanta : Nat)
  /-- PFC_FRAME (R213): A PFC frame holds the mapped classes except class 7. -/
  | pfcFrame (p : Nat) (enable : Nat) (quanta : List Nat)
  /-- PAUSE_EXPIRY (R213): A pause timer expires and releases the class. -/
  | pauseExpiry (p : Nat) (cls : Nat)
  /-- LINK_TRAINING_DONE (R226): PMA training, FEC lock and alignment complete and CREDIT_INIT is exchanged. -/
  | linkTrainingDone (p : Nat) (lanesInOrder : Bool) (preemptVerified : Bool)
  /-- TRAINING_TIMEOUT (R226): A port not UP within 1 s restarts training. -/
  | trainingTimeout (p : Nat)
  /-- RETRAIN (R227): A retrain keeps sequence, replay and credit state. -/
  | retrain (p : Nat) (cause : RetrainCause)
  /-- BER_WINDOW (R228): At the end of each 1 s window, lanes above LNK_BER_RETIRE are retired. -/
  | berWindow (n : Nat) (lanes : List LaneErrors) (bits : Nat)
  /-- FRAME_ARRIVAL (R234): A frame arrives at an ingress port and is classified and admitted or dropped. -/
  | frameArrival (p : Nat) (f : Frame) (fcsOk : Bool)
  /-- CELL_SLOT (R255): An egress port chooses the next cell or frame to send. -/
  | cellSlot (p : Nat)
  /-- LOCAL_DELIVERY (R233): A frame for this node is passed to the packet mesh. -/
  | localDelivery (p : Nat) (cls : Nat)
  /-- ECHO_RECEIVE (R243): An echo allocates or lowers a rate limiter. -/
  | echoReceive (n : Nat) (f : Frame)
  /-- RATE_INCREASE (R243): Each AI_PERIOD without an echo raises a limiter's rate. -/
  | rateIncrease (n : Nat)
  /-- PAUSE_REFRESH (R236): PFC or PAUSE is repeated every half pause time while a class stays above XON. -/
  | pauseRefresh (p : Nat)
  /-- HOLD_REFRESH (R236): A hold cell is repeated every 134 ms while a class stays above XON. -/
  | holdRefresh (p : Nat)
  /-- SAMPLE_CTRL_WRITE (R240): A write to SWI_SAMPLE_CTRL resets the sampler count. -/
  | sampleCtrlWrite (src : Src) (p : Nat) (value : Nat)
  /-- DIRTY_ZEROED (R249): A zeroed buffer leaves the dirty queue for its free list. -/
  | dirtyZeroed (unit : Nat)
  /-- PUN_PK_RETURN (R248): The host returns a packet buffer, with pointer checks. -/
  | punPkReturn (src : Src) (n : Nat) (ptr : Nat)
  /-- PUN_PK_QUAR_RELEASE (R248): Releases a quarantined packet buffer. -/
  | punPkQuarRelease (src : Src) (n : Nat) (ptr : Nat)
  /-- PUN_HM_ALLOC (R251): A read allocates a memory-punnet buffer. -/
  | punHmAlloc (src : Src) (k : Nat) (s : Nat)
  /-- PUN_HM_FREE (R251): Returns a memory-punnet buffer. -/
  | punHmFree (src : Src) (k : Nat) (addr : Nat)
  /-- PUN_HM_REF (R248): Adds a reference to a memory-punnet buffer. -/
  | punHmRef (src : Src) (k : Nat) (addr : Nat)
  /-- PUN_HM_QUAR_RELEASE (R251): Releases a quarantined memory-punnet buffer. -/
  | punHmQuarRelease (src : Src) (k : Nat) (addr : Nat)
  /-- PUNNET_ENABLE (R250): PUN_HM_CFG EN written to 1 checks and enables a memory punnet. -/
  | punnetEnable (src : Src) (k : Nat) (s : Nat) (value : Nat)
  /-- PUNNET_DISABLE (R250): PUN_HM_CFG EN written to 0 stops allocation. -/
  | punnetDisable (src : Src) (k : Nat) (s : Nat) (value : Nat)
  /-- SHUTTER_ARM (R262): SHU_CTRL.ARM checks the pending list and sets its takeover time. -/
  | shutterArm (src : Src) (p : Nat)
  /-- SHUTTER_CANCEL (R262): SHU_CTRL.CANCEL disarms the pending list. -/
  | shutterCancel (src : Src) (p : Nat)
  /-- SHUTTER_TAKEOVER (R262): At time T the pending list becomes active. -/
  | shutterTakeover (p : Nat)
  /-- SHUTTER_ENTRY (R261): A shutter entry or cycle boundary changes the open classes. -/
  | shutterEntry (p : Nat)
  /-- BUCKET_CONFIG_WRITE (R260): A shaper or policer write changes RATE, BURST or EN. -/
  | bucketConfigWrite (src : Src) (p : Nat) (policer : Bool) (c : Nat) (value : Nat)
  /-- FTM_STEP (R268): A write steps fabric time. -/
  | ftmStep (src : Src) (delta : Nat)
  /-- OBS_SAMPLE (R273): Each SCH_SAMPLE_PERIOD the depth and delay statistics are sampled. -/
  | obsSample (n : Nat)
  /-- SCH_OBS_CLEAR (R273): Zeroes the selected port's statistics. -/
  | schObsClear (src : Src) (n : Nat)
  /-- ROUTE_ARM (R282): RTE_CTRL.ARM checks the pending tables and arms a route latch. -/
  | routeArm (src : Src) (n : Nat)
  /-- ROUTE_CANCEL (R282): RTE_CTRL.CANCEL disarms the route latch. -/
  | routeCancel (src : Src) (n : Nat)
  /-- ROUTE_LATCH (R285): At RTE_LATCH_TIME the pending tables become active and parked frames are reclassified. -/
  | routeLatch (n : Nat)
  /-- RTE_DRAIN (R283): A drain write parks a class for a port, or releases its parked frames. -/
  | rteDrain (src : Src) (p : Nat) (value : Nat)
  /-- REQUEST_LOAD (R294): A remote load request is checked for duplicates and executed at the target. -/
  | requestLoad (f : Frame) (upset : Upset)
  /-- REQUEST_STORE (R294): A remote store request is executed once. -/
  | requestStore (f : Frame) (upset : Upset)
  /-- REQUEST_FETCH_ADD (R291): A fetch-add request executes at the word's bank or controller. -/
  | requestFetchAdd (f : Frame) (upset : Upset)
  /-- REQUEST_COMPARE_SWAP (R291): A compare-swap request executes at the word's home. -/
  | requestCompareSwap (f : Frame) (upset : Upset)
  /-- REQUEST_EXACT_ADD (R173): A remote exact add is checked and added to slots. -/
  | requestExactAdd (f : Frame) (mismatches : Nat) (localBusy : Bool)
  /-- REQUEST_FP32_ADD (R174): A plain FP32 atomic add rounds into the target word. -/
  | requestFp32Add (f : Frame) (upset : Upset)
  /-- REQUEST_SIGNAL (R140): A remote signal increments a counter or is rejected. -/
  | requestSignal (f : Frame)
  /-- REQUEST_TRIGGER (R150): A trigger is checked and queued at the target tile. -/
  | requestTrigger (f : Frame)
  /-- RESPONSE_RECEIVE (R297): A remote response completes a request, or raises its cause. -/
  | responseReceive (f : Frame)
  /-- REQUEST_RETRY (R293): A request without a response for 20 µs is resent. -/
  | requestRetry (t : Nat) (reqId : Nat)
  /-- DET_ENTER (R303): DET_CTRL.EN written 0 to 1 starts entry to deterministic mode. -/
  | detEnter (src : Src)
  /-- DET_ACTIVE (R303): Entry completes, ENTERING clears and ACTIVE sets. -/
  | detActive
  /-- DET_EXIT (R303): EN written 1 to 0 clears ACTIVE and resumes the adaptive loops. -/
  | detExit (src : Src)
  /-- BARRIER_ARM (R308): DET_BARRIER_CTRL.ARM arms the start barrier or is refused. -/
  | barrierArm (src : Src)
  /-- BARRIER_CANCEL (R308): DET_BARRIER_CTRL.CANCEL disarms the barrier. -/
  | barrierCancel (src : Src)
  /-- BARRIER_RELEASE (R309): At DET_BARRIER_TIME the counter of every active tile of the owner is incremented. -/
  | barrierRelease
  /-- POLICY_WRITE (R315): An adaptive-loop policy write is checked and takes effect within 1 ms, or is stored. -/
  | policyWrite (src : Src) (loop : Loop) (value : Nat)
  /-- POLICY_OVERRIDE (R314): A safety limit drives a loop beyond its bound, sets POLICY_OVERRIDDEN and counts. -/
  | policyOverride (loop : Loop) (unit : Nat)
  /-- HBM_TRAINED (R317): A stack completes training and HBM_PRESENT becomes 1. -/
  | hbmTrained (k : Nat) (passed : Bool)
  /-- HBM_ACCESS (R325): The controller executes an HBM read, write or atomic with ECC. -/
  | hbmAccess (k : Nat) (off : Nat) (op : HbmOp) (upset : Upset)
  /-- HBM_ROW_REPAIRED (R340): Post-package repair of a row ends after 50 µs and accesses resume. -/
  | hbmRowRepaired (k : Nat)
  /-- PATROL_READ (R328): Patrol scrub reads the next 64 B and writes back corrected data. -/
  | patrolRead (k : Nat) (upset : Upset)
  /-- REFRESH (R329): The controller refreshes at the rate set by temperature or by deterministic mode. -/
  | refresh (k : Nat) (temp : Nat)
  /-- CHK_ARM (R336): CHK_CTRL.ARM zeroes the unit's CRC, counts and alive baseline. -/
  | chkArm (src : Src) (unit : Nat) (value : Nat)
  /-- CHK_CLOSE (R333): CHK_CTRL.CLOSE ends a window block. -/
  | chkClose (src : Src) (unit : Nat) (value : Nat)
  /-- CHK_BLOCK_END (R335): At a block end the CRC is compared with the expected value and the interrupt is raised. -/
  | chkBlockEnd (unit : Nat) (upset : Upset)
  /-- TILE_RESET (R345): FLT_RESET_REQ at L2 resets a tile. -/
  | tileReset (src : Src) (unit : Nat)
  /-- BLOCK_RESET (R345): FLT_RESET_REQ at L3 resets a block. -/
  | blockReset (src : Src) (unit : Nat)
  /-- SECTOR_RESET (R345): FLT_RESET_REQ at L4 resets a sector. -/
  | sectorReset (src : Src) (unit : Nat)
  /-- DIE_RESET (R345): FLT_RESET_REQ at L5 warm-resets a die, which comes up unstructured and fenced. -/
  | dieReset (src : Src) (unit : Nat)
  /-- PARTITION_RESET (R345): FLT_PART_RESET resets every tile of an owner. -/
  | partitionReset (src : Src) (owner : Nat)
  /-- RESET_COMPLETE (R345): A scoped reset ends after its duration. -/
  | resetComplete (scope : Scope)
  /-- POP (R342): FLT_REC_CTRL.POP removes the oldest fault record. -/
  | pop (src : Src)
  /-- BLOCK_FENCED (R339): A block clock or mesh-stop fault fences the block. -/
  | blockFenced (block : Nat)
  /-- SECTOR_GATED (R339): A regulator fault gates the sector. -/
  | sectorGated (sector : Nat)
  /-- DIE_FENCED (R339): A die-to-die link fault fences the die. -/
  | dieFenced (die : Nat)
  /-- SPARE_LOST (R343): A spare that fails self-test is reported and never offered. -/
  | spareLost (die : Nat) (segment : Nat)
  /-- PACKAGE_RESET (R407): PKG_RESET_N asserted for long enough resets the whole package. -/
  | packageReset (ns : Nat)
  /-- PKG_RESET_DEASSERT (R365): PKG_RESET_N goes high, straps are sampled and phase KEEP_UP begins. -/
  | pkgResetDeassert (lands : Nat) (unstable : Nat)
  /-- KEEP_LOCK (R350): The keep PLL locks and KCLK starts. -/
  | keepLock
  /-- REF_LOST (R350): REFCLK shows no edge for 100 ns and the keep PLL enters holdover. -/
  | refLost
  /-- REFCLK_RETURN (R350): REFCLK returns and the PLL relocks by slewing. -/
  | refclkReturn
  /-- PORTER_RUNNING (R365): The porter runs from ROM and phase POWER begins. -/
  | porterRunning
  /-- REGULATOR_ENABLE (R365): VIN48 reaches 40 V and the porter enables the regulators. -/
  | regulatorEnable
  /-- PWR_GOOD (R365): All regulators are in regulation, PWR_GOOD asserts, and HBM and default ports begin training. -/
  | pwrGood
  /-- PCIE_PERST_DEASSERT (R365): PCIE_PERST_N deasserts and PCIe link training begins within 20 ms. -/
  | pciePerstDeassert
  /-- BOOT (R363): After TRAIN the boot action chosen by STRAP_BOOT begins. -/
  | boot (header : Bytes)
  /-- BOOT_TIMEOUT (R363): No neighbour image within 10 s of PWR_GOOD fails the boot with SRC_FAULT. -/
  | bootTimeout
  /-- IMAGE_SERVE_REQUEST (R385): A booting neighbour's request for the retained image is served or refused. -/
  | imageServeRequest (p : Nat)
  /-- VIN_LOW (R360): VIN48 below 38 V for 5 µs stops the regulators and enters STANDBY. -/
  | vinLow
  /-- REG_FAULT (R360): A regulator fault that gating cannot contain stops VIN48 power. -/
  | regFault
  /-- VAUX_LOW (R402): VAUX below 2.95 V for 1 µs stops the regulators and resets the package. -/
  | vauxLow
  /-- BLOCK_SLEEP (R353): A block idle for CLK_SLEEP_TIMEOUT gates its clock. -/
  | blockSleep (b : Nat)
  /-- BLOCK_DEEP_SLEEP (R353): After CLK_DEEP_AFTER asleep the block lowers to retention voltage. -/
  | blockDeepSleep (b : Nat)
  /-- BLOCK_WAKE (R355): A wake cause starts waking a sleeping block. -/
  | blockWake (b : Nat)
  /-- WAKE_COMPLETE (R355): The block runs again after 16 or 32 KCLK. -/
  | wakeComplete (b : Nat)
  /-- VF_STEP_UP (R356): Every 100 µs a running block within margins rises one 25 MHz step. -/
  | vfStepUp (b : Nat) (currentMargin : Bool)
  /-- VF_STEP_DOWN (R356): Every 10 µs over the cap, running blocks fall one step. -/
  | vfStepDown
  /-- POWER_SAMPLE (R357): Package power is measured every 10 µs and the issue rate is halved if needed. -/
  | powerSample (watts : Nat) (sectors : List Nat)
  /-- KEEP_REQUEST (R359): PWR_STATE.REQ = KEEP enters KEEP, or is refused. -/
  | keepRequest (src : Src)
  /-- RUN_REQUEST (R359): PWR_STATE.REQ = RUN restarts clocks, HBM and ports from KEEP. -/
  | runRequest (src : Src)
  /-- THERMAL_SAMPLE (R366): Every 10 µs the sensors are read for alert, throttle and trip. -/
  | thermalSample (temps : List Nat) (stackTemps : List Nat)
  /-- TEMP_MAX_CLEAR (R369): Restarts TEMP_MAX of a sector. -/
  | tempMaxClear (src : Src) (die : Nat) (sensor : Nat)
  /-- FUNCTION_LEVEL_RESET (R373): A PCIe FLR resets the host interface only. -/
  | functionLevelReset
  /-- SQ_TAIL (R374): The start-queue doorbell sets the new tail. -/
  | sqTail (q : Nat) (value : Nat)
  /-- START_QUEUE_ENTRY (R374): The device reads a start-queue entry, delivers its trigger and writes STATUS. -/
  | startQueueEntry (q : Nat) (entry : Bytes) (readFailed : Bool)
  /-- TRIG_BUSY_REOFFER (R374): An entry refused TRIG_BUSY is offered again every 1 µs. -/
  | trigBusyReoffer (q : Nat)
  /-- HRQ_HEAD (R376): The host advances a receive queue's head. -/
  | hrqHead (q : Nat) (value : Nat)
  /-- QUEUE_ENABLE (R377): EN of a start or receive queue is written and checked. -/
  | queueEnable (receive : Bool) (q : Nat) (value : Nat)
  /-- MSIX_UNMASK (R378): An unmasked vector with a pending bit sends one message. -/
  | msixUnmask (vector : Nat)
  /-- BAR2_ACCESS (R372): A host access reaches HBM at a device address. -/
  | bar2Access (off : Nat) (write : Bool) (len : Nat) (data : Bytes) (upset : Upset)
  /-- PORTER_MESSAGE (R381): A porter message is queued, checked for duplicates and answered. -/
  | porterMessage (sender : Sender) (msg : Bytes)
  /-- REG_READ (R381): Porter read of consecutive registers. -/
  | regRead (sender : Sender) (seq : Nat) (addr : Nat) (count : Nat)
  /-- REG_WRITE (R381): Porter write of consecutive registers. -/
  | regWrite (sender : Sender) (seq : Nat) (addr : Nat) (data : List Nat)
  /-- VIEW_READ (R386): Returns a unit's view record. -/
  | viewRead (sender : Sender) (seq : Nat) (unit : Nat)
  /-- VIEW_SET (R386): Records an advisory retire or return for a unit. -/
  | viewSet (sender : Sender) (seq : Nat) (unit : Nat) (retire : Bool)
  /-- KEY_PROGRAM (R384): Blows a key hash into an unprogrammed slot. -/
  | keyProgram (sender : Sender) (seq : Nat) (slot : Nat) (hash : Bytes)
  /-- KEY_REVOKE (R384): Revokes a key slot. -/
  | keyRevoke (sender : Sender) (seq : Nat) (slot : Nat)
  /-- TRACE_READ (R381): Reads records from a trace region. -/
  | traceRead (sender : Sender) (seq : Nat) (addr : Nat) (count : Nat)
  /-- NEIGHBOUR_DISCOVERY (R380): The porter answers IPv6 neighbour discovery for its address. -/
  | neighbourDiscovery (target : Nat)
  /-- PEE_FREEZE (R390): Freezes trace units after their buffered records are stored. -/
  | peeFreeze (src : Src) (dies : Nat)
  /-- BYPASS (R393): Boundary-scan BYPASS instruction. -/
  | bypass
  /-- IDCODE (R393): Boundary-scan IDCODE instruction. -/
  | idcode
  /-- SAMPLE_PRELOAD (R393): Boundary-scan SAMPLE/PRELOAD instruction. -/
  | samplePreload
  /-- EXTEST (R393): Boundary-scan EXTEST, effective only in reset. -/
  | extest
  /-- CLAMP (R393): Boundary-scan CLAMP, effective only in reset. -/
  | clamp
  /-- HIGHZ (R393): Boundary-scan HIGHZ, effective only in reset. -/
  | highz
  /-- EXTEST_PULSE (R393): IEEE 1149.6 EXTEST_PULSE on SerDes and PCIe lanes. -/
  | extestPulse
  /-- EXTEST_TRAIN (R393): IEEE 1149.6 EXTEST_TRAIN on SerDes and PCIe lanes. -/
  | extestTrain
  /-- TEST_LOGIC_RESET (R393): TRST_N low holds the TAP in Test-Logic-Reset. -/
  | testLogicReset
  /-- VAUX_RESTORED (R365): With PKG_RESET_N already high, VAUX staying at or above 2.95 V for 1 ms is taken as the deassertion of PKG_RESET_N, the straps are sampled and KEEP_UP begins. -/
  | vauxRestored (lands : Nat) (unstable : Nat)
  /-- TRACE_STORE (R389): A trace unit stores a buffered record to its HBM region in a reserved command slot, wrapping in circular mode, stopping and raising source 4 in stop mode, and completing a pending freeze. -/
  | traceStore (die : Nat)
  /-- IMAGE_SERVE_REFUSAL (R363): A booting package receives a neighbour's refusal to serve its image, and it moves on to the next default port under PORT_ANY or fails the boot with SRC_FAULT. -/
  | imageServeRefusal (p : Nat)
  /-- PTP_EVENT_MESSAGE_SEND (R215): The porter's PTP boundary-clock state machine sends its PTP event messages on its own intervals, and the port timestamps them on egress. -/
  | ptpEventMessageSend (p : Nat) (msg : PtpSend)
  deriving DecidableEq, Repr

end Sys2Proof
end

