-- ==== Sys2Proof/Config.lean ====
section
/-! DEFINITION. What one package fixes (its variant, its fuses) and the free values the manual leaves open. Every
constant here has no body: no proof can rest on its value. -/

namespace Sys2Proof

/-- The ordering variant (R1, R2): true on UBX-IM20-F768. -/
opaque Config.isF768 : Bool

/-- POR_SERIAL, the fused package number (Table 17-11). -/
opaque Config.serial : BitVec 64

/-- The porter's IPv6 link-local address, formed from its fused MAC address (R380). -/
opaque Config.porterAddress : Nat

/-- A fresh free value: an undefined strap level (R406), which of two allowed contents a 64 B block of an aborted
destination holds (R202), whether a pulse of 1 to 10 µs resets (R407), and every value the spec leaves unstated. -/
opaque Config.freeValue : Nat → BitVec 64

/-- PARAM of a collective message: the digest of the parameters of R192 (R199 states no function). -/
opaque Config.colDigest : List Nat → BitVec 32

/-- Term `k` of the parameters that PARAM stands for, as a stage without a local member reads them (R192 has every message carry them and
R199 states no coding; log entry 85): 0 the elements, bytes or records that pass the stage in all, 1 KEY_FMT, 2 DIR, 3 ALL, 4 RANK. -/
opaque Config.colTerm : Nat → Nat → Nat

/-- Bytes of the reducer buffer of the stage at a neighbour node: another package's configuration (R187). -/
opaque Config.stageBuffer : Nat → Nat

/-- Whether a bank group still has a spare row after this many repairs (R340 states no number). -/
opaque Config.spareRowLeft : Nat → Bool

/-- Messages that a mesh stop takes beyond the first on one link and VC before its credits are gone (R33 states no number). -/
opaque Config.meshDepth : Nat

/-- The first 8 bytes of a free memory-punnet buffer whose successor on the free list this is (R247 gives no coding). -/
opaque Config.freeLink : Nat → BitVec 64

/-- The state word of a memory-punnet buffer: its state and its reference count (R250 gives no coding). -/
opaque Config.stateWord : Nat → Nat → BitVec 32

/-- SRC of a register write that a tile makes over the fabric register space (R348 codes the host and the porter only). -/
opaque Config.fabricSrc : BitVec 1

/-- Initial credits of each VC of a default fabric port (R362 gives none). -/
opaque Config.defaultCredit : Nat

end Sys2Proof
end

