-- ==== Sys2Proof/Machine/Bits.lean ====
section
/-! DEFINITION. Sparse tables in canonical form, little-endian byte fields and bit fields. -/

namespace Sys2Proof.Machine

/-- The value a table holds at `k`; `d` is what an unlisted key reads as. -/
def mapGet {α : Type} (d : α) (k : Nat) : SMap α → α
  | [] => d
  | (a, x) :: m => if a = k then x else mapGet d k m

/-- Write `v` at `k`; `d` is what the key reads as when unlisted. Keeps keys rising and lists no default. -/
def mapPut {α : Type} [DecidableEq α] (d : α) (k : Nat) (v : α) : SMap α → SMap α
  | [] => if v = d then [] else [(k, v)]
  | (a, x) :: m =>
    if k < a then (if v = d then (a, x) :: m else (k, v) :: (a, x) :: m)
    else if k = a then (if v = d then m else (k, v) :: m)
    else (a, x) :: mapPut d k v m

/-- Every key lies above `lo` and keys rise. -/
def keysFrom {α : Type} : Nat → SMap α → Bool
  | _, [] => true
  | lo, (a, _) :: m => decide (lo ≤ a) && keysFrom (a + 1) m

/-- The canonical form: keys rise strictly and no entry equals what its key reads as when unlisted. -/
def mapWf {α : Type} [DecidableEq α] (d : Nat → α) (m : SMap α) : Bool :=
  keysFrom 0 m && m.all fun p => decide (p.2 ≠ d p.1)

/-- `n` bytes of a byte memory from `a`; an unlisted byte reads as zero (log entry 2). -/
def readBytes (m : SMap Byte) (a : Nat) : Nat → Bytes
  | 0 => []
  | n + 1 => mapGet 0 a m :: readBytes m (a + 1) n

/-- Write bytes at ascending addresses from `a`. -/
def writeBytes (m : SMap Byte) (a : Nat) : Bytes → SMap Byte
  | [] => m
  | b :: r => writeBytes (mapPut 0 a b m) (a + 1) r

/-- Zero the bytes from `lo` to `lo + n - 1`. -/
def zeroBytes (m : SMap Byte) (lo n : Nat) : SMap Byte :=
  m.filter fun p => !(decide (lo ≤ p.1) && decide (p.1 < lo + n))

/-- A little-endian number. -/
def leNat : Bytes → Nat
  | [] => 0
  | b :: r => b.toNat + 256 * leNat r

/-- A big-endian number. -/
def beNat (b : Bytes) : Nat := b.foldl (fun a x => 256 * a + x.toNat) 0

/-- The `n` low bytes of a number, little-endian. -/
def natLe : Nat → Nat → Bytes
  | 0, _ => []
  | n + 1, v => BitVec.ofNat 8 v :: natLe n (v / 256)

/-- The `n` low bytes of a number, big-endian. -/
def natBe (n v : Nat) : Bytes := (natLe n v).reverse

/-- `n` zero bytes. -/
def zeros (n : Nat) : Bytes := List.replicate n 0

/-- Bytes `off` to `off + n - 1`. -/
def slice (b : Bytes) (off n : Nat) : Bytes := (b.drop off).take n

/-- The little-endian number in bytes `off` to `off + n - 1`. -/
def rdLe (b : Bytes) (off n : Nat) : Nat := leNat (slice b off n)

/-- `b` with `new` in place from `off`. -/
def splice (b : Bytes) (off : Nat) (new : Bytes) : Bytes := b.take off ++ new ++ b.drop (off + new.length)

/-- `b` cut or extended with zeros to `n` bytes. -/
def padTo (n : Nat) (b : Bytes) : Bytes := b.take n ++ zeros (n - b.length)

/-- Bits `hi` to `lo` of a number. -/
def bits (v hi lo : Nat) : Nat := (v >>> lo) % 2 ^ (hi + 1 - lo)

/-- Bit `i` of a number. -/
def bit (v i : Nat) : Bool := (v >>> i) % 2 == 1

/-- `v` with bits `hi` to `lo` replaced by the low bits of `x`. -/
def putBits (v hi lo x : Nat) : Nat :=
  v - bits v hi lo <<< lo + (x % 2 ^ (hi + 1 - lo)) <<< lo

/-- Bits `hi` to `lo` of a word. -/
def wBits (w : Word) (hi lo : Nat) : Nat := Machine.bits w.toNat hi lo

/-- A word with bits `hi` to `lo` replaced. -/
def wPut (w : Word) (hi lo x : Nat) : Word := BitVec.ofNat 64 (putBits w.toNat hi lo x)

/-- One more, holding at 2^64 - 1 (R14). -/
def satAdd (w : Word) (n : Nat) : Word := BitVec.ofNat 64 (min (w.toNat + n) (2 ^ 64 - 1))

/-- 1 for true. -/
def b2n (b : Bool) : Nat := if b then 1 else 0

/-- A signed reading of an `n`-bit number. -/
def sgn (n v : Nat) : Int := if v % 2 ^ n < 2 ^ (n - 1) then (v % 2 ^ n : Nat) else (v % 2 ^ n : Nat) - (2 ^ n : Nat)

/-- The `n`-bit two's complement code of an integer. -/
def toTwos (n : Nat) (x : Int) : Nat := (x % ((2 ^ n : Nat) : Int)).toNat

/-- Divide, rounding up. -/
def ceilDiv (a b : Nat) : Nat := if b = 0 then 0 else (a + b - 1) / b

/-- Set bits of a mask below `n`, ascending. -/
def maskBits (m n : Nat) : List Nat := (List.range n).filter (bit m)

/-- The mask of a list of bit numbers. -/
def maskOf (l : List Nat) : Nat := l.foldl (fun m i => m ||| 1 <<< i) 0

/-- How many bits below `n` are set. -/
def popcount (m n : Nat) : Nat := (maskBits m n).length

/-- The first element, or a default. -/
def headOr {α : Type} (d : α) (l : List α) : α := l.headD d

/-- The `n`-th element, or a default. -/
def nth {α : Type} (l : List α) (n : Nat) (d : α) : α := (l[n]?).getD d

/-- Run `f` over a list of keys. -/
def forEach {α σ : Type} (l : List α) (f : α → σ → σ) (s : σ) : σ := l.foldl (fun s a => f a s) s

end Sys2Proof.Machine
end

