-- ==== Sys2Proof/Machine/RegTable.lean ====
section
/-! DEFINITION. The register tables of the spec: for every register its offset, the strides of its copies and its
fields with access code and reset value (Tables 1-9 to 1-11, 2-12, 3-6, 3-8, 4-6, 5-6, 6-11, 7-14, 8-1, 8-11, 9-8,
10-6, 10-7, 11-4, 12-8, 13-7, 14-4, 14-5, 15-6, 16-6 to 16-8, 17-4, 17-11, 17-12). A reset value that a strap, a fuse
or the variant gives stands as 0 here and is written where it is sampled (R11). -/

namespace Sys2Proof.Machine

/-- Access codes of Table 0-4. RWL appears in no register table. -/
inductive Access where
  | ro | rw | w1c | wo | rc
  deriving DecidableEq, Repr

/-- A field: high bit, low bit, access, reset value. -/
structure Fld where
  hi : Nat
  lo : Nat
  acc : Access
  rst : Nat
  deriving DecidableEq, Repr

/-- A register row: name, offset, strides with their counts, fields. -/
structure RegRow where
  name : String
  off : Nat
  strides : List (Nat × Nat)
  fields : List Fld
  deriving DecidableEq, Repr

/-- Part 0 of the package registers. -/
def packageRows0 : List RegRow := [
  ⟨"POR_DEVICE_ID", 0x0, [], [⟨15, 0, .ro, 0xe20⟩, ⟨19, 16, .ro, 0x1⟩, ⟨20, 20, .ro, 0⟩]⟩,
  ⟨"POR_SERIAL", 0x8, [], [⟨63, 0, .ro, 0⟩]⟩,
  ⟨"POR_STRAPS", 0x10, [], [⟨25, 0, .ro, 0⟩]⟩,
  ⟨"POR_BAD_UNIT_CNT", 0x18, [], [⟨63, 0, .rc, 0x0⟩]⟩,
  ⟨"POR_BAR2_BASE", 0x20, [], [⟨39, 30, .rw, 0x0⟩]⟩,
  ⟨"POR_KEY_STATUS", 0x28, [], [⟨3, 0, .ro, 0⟩]⟩,
  ⟨"POR_IMAGE_SERVE", 0x30, [], [⟨3, 0, .rw, 0x0⟩]⟩,
  ⟨"POR_IBI_MASK", 0x38, [], [⟨5, 0, .rw, 0x3⟩]⟩,
  ⟨"POR_IBI_PENDING", 0x40, [], [⟨5, 0, .rc, 0x0⟩]⟩,
  ⟨"POR_VIEW_STATUS", 0x48, [], [⟨8, 0, .ro, 0x0⟩]⟩,
  ⟨"POR_MSG_DUP_CNT", 0x50, [], [⟨63, 0, .rc, 0x0⟩]⟩,
  ⟨"POR_MSG_DROP_CNT", 0x58, [], [⟨63, 0, .rc, 0x0⟩]⟩,
  ⟨"POR_IRQ_MAP", 0x1000, [(0x8, 1024)], [⟨10, 0, .rw, 0x0⟩, ⟨11, 11, .rw, 0x0⟩, ⟨12, 12, .w1c, 0x0⟩]⟩,
  ⟨"CLK_STATUS", 0x10000, [], [⟨0, 0, .ro, 0x0⟩, ⟨1, 1, .ro, 0x0⟩, ⟨2, 2, .ro, 0x0⟩, ⟨4, 3, .ro, 0⟩, ⟨5, 5, .ro, 0⟩]⟩,
  ⟨"CLK_SLEEP_TIMEOUT", 0x10008, [], [⟨23, 0, .rw, 0x1000⟩]⟩,
  ⟨"CLK_DEEP_AFTER", 0x10010, [], [⟨23, 0, .rw, 0x10000⟩]⟩,
  ⟨"PWR_STATE", 0x20000, [], [⟨2, 0, .ro, 0x0⟩, ⟨4, 3, .wo, 0x0⟩]⟩,
  ⟨"PWR_CAP", 0x20008, [], [⟨12, 0, .rw, 0x11f8⟩]⟩,
  ⟨"PWR_NOW", 0x20010, [], [⟨12, 0, .ro, 0x0⟩]⟩,
  ⟨"PWR_CAP_CNT", 0x20018, [], [⟨63, 0, .rc, 0x0⟩]⟩]

/-- Part 1 of the package registers. -/
def packageRows1 : List RegRow := [
  ⟨"PWR_THERM", 0x20020, [], [⟨7, 0, .rw, 0x5f⟩, ⟨15, 8, .rw, 0x64⟩, ⟨23, 16, .ro, 0x73⟩]⟩,
  ⟨"PWR_EVENT", 0x20028, [], [⟨0, 0, .w1c, 0x0⟩, ⟨1, 1, .w1c, 0x0⟩, ⟨2, 2, .w1c, 0x0⟩, ⟨3, 3, .w1c, 0x0⟩, ⟨4, 4, .w1c, 0x0⟩, ⟨5, 5, .ro, 0x0⟩]⟩,
  ⟨"PWR_SEQ_STATUS", 0x20030, [], [⟨3, 0, .ro, 0x0⟩, ⟨11, 4, .ro, 0x0⟩]⟩,
  ⟨"PWR_TEMP_MAX", 0x20038, [], [⟨7, 0, .ro, 0x0⟩, ⟨14, 8, .ro, 0x0⟩]⟩,
  ⟨"DET_CTRL", 0x30000, [], [⟨0, 0, .rw, 0⟩]⟩,
  ⟨"DET_STATUS", 0x30008, [], [⟨0, 0, .ro, 0x0⟩, ⟨1, 1, .ro, 0x0⟩, ⟨2, 2, .w1c, 0x0⟩, ⟨3, 3, .w1c, 0x0⟩, ⟨4, 4, .w1c, 0x0⟩, ⟨5, 5, .w1c, 0x0⟩]⟩,
  ⟨"DET_BARRIER_TIME", 0x30010, [], [⟨63, 0, .rw, 0x0⟩]⟩,
  ⟨"DET_BARRIER_CFG", 0x30018, [], [⟨5, 0, .rw, 0x0⟩, ⟨9, 6, .rw, 0x0⟩, ⟨25, 10, .rw, 0x0⟩, ⟨26, 26, .rw, 0x0⟩]⟩,
  ⟨"DET_BARRIER_CTRL", 0x30020, [], [⟨0, 0, .wo, 0x0⟩, ⟨1, 1, .wo, 0x0⟩]⟩,
  ⟨"DET_BARRIER_STATUS", 0x30028, [], [⟨0, 0, .ro, 0x0⟩, ⟨1, 1, .w1c, 0x0⟩, ⟨2, 2, .w1c, 0x0⟩, ⟨3, 3, .w1c, 0x0⟩, ⟨4, 4, .w1c, 0x0⟩]⟩,
  ⟨"DET_D0", 0x30030, [], [⟨63, 0, .ro, 0x0⟩]⟩,
  ⟨"DET_RUN_FCLK", 0x30038, [], [⟨63, 0, .ro, 0x0⟩]⟩,
  ⟨"DET_EXT_CNT", 0x30040, [], [⟨63, 0, .rc, 0x0⟩]⟩,
  ⟨"DET_FOREIGN_CNT", 0x30048, [], [⟨63, 0, .rc, 0x0⟩]⟩,
  ⟨"DET_SLIP_CNT", 0x30050, [], [⟨63, 0, .rc, 0x0⟩]⟩,
  ⟨"DET_EXIT_CNT", 0x30058, [], [⟨63, 0, .rc, 0x0⟩]⟩,
  ⟨"DET_TDC_SUM", 0x30060, [], [⟨63, 0, .ro, 0x0⟩]⟩,
  ⟨"DET_OVERRIDE_CNT", 0x30068, [], [⟨63, 0, .rc, 0x0⟩]⟩,
  ⟨"DET_POLICY_VF", 0x30100, [], [⟨10, 0, .rw, 0x271⟩, ⟨26, 16, .rw, 0x5dc⟩]⟩,
  ⟨"DET_PINNED_VF", 0x30108, [], [⟨63, 0, .rc, 0x0⟩]⟩]

/-- Part 2 of the package registers. -/
def packageRows2 : List RegRow := [
  ⟨"DET_POLICY_REFRESH", 0x30110, [], [⟨2, 0, .rw, 0x0⟩, ⟨6, 4, .rw, 0x4⟩]⟩,
  ⟨"DET_PINNED_REFRESH", 0x30118, [], [⟨63, 0, .rc, 0x0⟩]⟩,
  ⟨"DET_POLICY_SERDES", 0x30120, [], [⟨3, 0, .rw, 0x0⟩, ⟨7, 4, .rw, 0xf⟩, ⟨8, 8, .rw, 0x0⟩]⟩,
  ⟨"DET_PINNED_SERDES", 0x30128, [], [⟨63, 0, .rc, 0x0⟩]⟩,
  ⟨"PEE_FREEZE", 0x40000, [], [⟨19, 0, .wo, 0x0⟩]⟩,
  ⟨"PEE_FROZEN", 0x40008, [], [⟨19, 0, .ro, 0x0⟩]⟩,
  ⟨"STR_COMMIT_CTRL", 0x50000, [], [⟨0, 0, .wo, 0x0⟩, ⟨1, 1, .wo, 0x0⟩]⟩,
  ⟨"STR_IMAGE_SRC", 0x50008, [], [⟨1, 0, .rw, 0⟩, ⟨8, 2, .rw, 0x0⟩, ⟨9, 9, .rw, 0x1⟩]⟩,
  ⟨"STR_IMAGE_ADDR", 0x50010, [], [⟨63, 0, .rw, 0x0⟩]⟩,
  ⟨"STR_IMAGE_LEN", 0x50018, [], [⟨63, 0, .rw, 0x0⟩]⟩,
  ⟨"STR_LATCH_TIME", 0x50020, [], [⟨63, 0, .rw, 0x0⟩]⟩,
  ⟨"STR_COMMIT_STATUS", 0x50028, [], [⟨2, 0, .ro, 0x0⟩, ⟨10, 3, .ro, 0x0⟩, ⟨11, 11, .w1c, 0x0⟩, ⟨12, 12, .w1c, 0x0⟩, ⟨13, 13, .ro, 0x0⟩, ⟨19, 14, .ro, 0x0⟩]⟩,
  ⟨"STR_COMMIT_ERR_DETAIL", 0x50030, [], [⟨5, 0, .ro, 0x0⟩, ⟨37, 6, .ro, 0x0⟩]⟩,
  ⟨"STR_PKG_EPOCH", 0x50038, [], [⟨31, 0, .ro, 0x0⟩]⟩,
  ⟨"STR_ACTIVE_SLOT", 0x50040, [], [⟨0, 0, .ro, 0x0⟩, ⟨1, 1, .ro, 0x0⟩]⟩,
  ⟨"STR_COMMIT_REJECT_CNT", 0x50048, [], [⟨63, 0, .rc, 0x0⟩]⟩,
  ⟨"STR_SCRUB_REPAIR", 0x50050, [], [⟨63, 0, .rc, 0x0⟩]⟩,
  ⟨"STR_SCRUB_BENIGN", 0x50058, [], [⟨63, 0, .rc, 0x0⟩]⟩,
  ⟨"STR_SCRUB_RELOAD", 0x50060, [], [⟨63, 0, .rc, 0x0⟩]⟩,
  ⟨"STR_SCRUB_FAIL", 0x50068, [], [⟨63, 0, .rc, 0x0⟩]⟩]

/-- Part 3 of the package registers. -/
def packageRows3 : List RegRow := [
  ⟨"STR_PART_EPOCH", 0x50100, [(0x8, 64)], [⟨31, 0, .ro, 0x0⟩]⟩,
  ⟨"FLT_BAD_ACCESS_CNT", 0x60000, [], [⟨63, 0, .rc, 0x0⟩]⟩,
  ⟨"FLT_BAD_ACCESS_LAST", 0x60008, [], [⟨25, 0, .ro, 0x0⟩, ⟨26, 26, .ro, 0x0⟩, ⟨27, 27, .ro, 0x0⟩, ⟨31, 28, .ro, 0x0⟩]⟩,
  ⟨"FLT_REC_STATUS", 0x60010, [], [⟨10, 0, .ro, 0x0⟩]⟩,
  ⟨"FLT_REC_CTRL", 0x60018, [], [⟨0, 0, .wo, 0x0⟩]⟩,
  ⟨"FLT_REC", 0x60020, [(0x8, 4)], [⟨63, 0, .ro, 0x0⟩]⟩,
  ⟨"FLT_REC_LOST_CNT", 0x60040, [], [⟨63, 0, .rc, 0x0⟩]⟩,
  ⟨"FLT_IRQ_CFG", 0x60048, [], [⟨1, 0, .rw, 0x1⟩]⟩,
  ⟨"FLT_RESET_REQ", 0x60050, [], [⟨63, 0, .wo, 0x0⟩]⟩,
  ⟨"FLT_PART_RESET", 0x60058, [], [⟨5, 0, .wo, 0x0⟩]⟩,
  ⟨"FLT_TRANSIENT_CNT", 0x60060, [], [⟨63, 0, .ro, 0x0⟩]⟩,
  ⟨"FLT_PERMANENT_CNT", 0x60068, [], [⟨63, 0, .ro, 0x0⟩]⟩,
  ⟨"FLT_MGMT_DISAGREE_CNT", 0x60070, [], [⟨63, 0, .rc, 0x0⟩]⟩,
  ⟨"FLT_BAD_ACCESS_HBM", 0x60078, [], [⟨39, 0, .ro, 0x0⟩, ⟨40, 40, .ro, 0x0⟩]⟩,
  ⟨"COL_GRP_CFG", 0x70000, [(0x40, 256)], [⟨0, 0, .ro, 0x0⟩, ⟨6, 1, .rw, 0x0⟩, ⟨21, 7, .rw, 0x0⟩, ⟨53, 22, .rw, 0x0⟩, ⟨55, 54, .rw, 0x0⟩, ⟨58, 56, .rw, 0x0⟩]⟩,
  ⟨"COL_GRP_LIST", 0x70008, [(0x40, 256)], [⟨39, 0, .rw, 0x0⟩, ⟨63, 40, .rw, 0x0⟩]⟩,
  ⟨"COL_GRP_REDUCE", 0x70010, [(0x40, 256)], [⟨14, 0, .rw, 0x0⟩, ⟨21, 15, .rw, 0x0⟩, ⟨41, 22, .rw, 0x0⟩, ⟨48, 42, .rw, 0x0⟩, ⟨62, 49, .rw, 0x0⟩]⟩,
  ⟨"COL_GRP_STATE", 0x70018, [(0x40, 256)], [⟨15, 0, .ro, 0x0⟩, ⟨47, 16, .ro, 0x0⟩, ⟨49, 48, .ro, 0x0⟩, ⟨52, 50, .ro, 0x0⟩, ⟨56, 53, .ro, 0x0⟩, ⟨57, 57, .ro, 0x0⟩, ⟨61, 58, .w1c, 0x0⟩]⟩,
  ⟨"COL_GRP_ABORT", 0x70020, [(0x40, 256)], [⟨13, 0, .ro, 0x0⟩, ⟨21, 14, .ro, 0x0⟩, ⟨53, 22, .ro, 0x0⟩, ⟨54, 54, .ro, 0x0⟩]⟩,
  ⟨"COL_GRP_CTRL", 0x70028, [(0x40, 256)], [⟨0, 0, .wo, 0x0⟩, ⟨1, 1, .wo, 0x0⟩, ⟨17, 2, .wo, 0x0⟩]⟩]

/-- Part 4 of the package registers. -/
def packageRows4 : List RegRow := [
  ⟨"COL_GRP_STALE_CNT", 0x70030, [(0x40, 256)], [⟨63, 0, .rc, 0x0⟩]⟩,
  ⟨"COL_GRP_ABORT_CNT", 0x70038, [(0x40, 256)], [⟨63, 0, .rc, 0x0⟩]⟩,
  ⟨"COL_HB_PERIOD", 0x78000, [], [⟨15, 0, .rw, 0x32⟩]⟩,
  ⟨"COL_UNKNOWN_GROUP_CNT", 0x78008, [], [⟨63, 0, .rc, 0x0⟩]⟩,
  ⟨"COL_EPOCH_AHEAD_CNT", 0x78010, [], [⟨63, 0, .rc, 0x0⟩]⟩]

/-- The package registers. -/
def packageRows : List RegRow :=
  packageRows0 ++ packageRows1 ++ packageRows2 ++ packageRows3 ++ packageRows4

/-- The anyDie registers. -/
def anyDieRows : List RegRow := [
  ⟨"STR_DIE_INFO", 0x0, [], [⟨4, 0, .ro, 0⟩, ⟨5, 5, .ro, 0⟩, ⟨7, 6, .ro, 0⟩, ⟨9, 8, .ro, 0⟩, ⟨13, 10, .ro, 0⟩, ⟨17, 14, .ro, 0⟩, ⟨18, 18, .ro, 0x0⟩, ⟨35, 20, .ro, 0⟩]⟩,
  ⟨"STR_DIE_EPOCH", 0x8, [], [⟨31, 0, .ro, 0x0⟩, ⟨63, 32, .ro, 0x0⟩]⟩,
  ⟨"FLT_DIE_TRANSIENT_CNT", 0xa000, [], [⟨63, 0, .ro, 0x0⟩]⟩,
  ⟨"FLT_DIE_PERMANENT_CNT", 0xa008, [], [⟨63, 0, .ro, 0x0⟩]⟩,
  ⟨"FLT_DIE_ECC_CORR_CNT", 0xa010, [], [⟨63, 0, .ro, 0x0⟩]⟩,
  ⟨"PEE_DIE_CFG", 0xc000, [], [⟨63, 0, .ro, 0x0⟩]⟩,
  ⟨"PEE_DIE_WRPTR", 0xc008, [], [⟨31, 0, .ro, 0x0⟩]⟩,
  ⟨"PEE_WRAP_CNT", 0xc010, [], [⟨63, 0, .ro, 0x0⟩]⟩,
  ⟨"PEE_DROP_CNT", 0xc018, [], [⟨63, 0, .ro, 0x0⟩]⟩]

/-- The tileDie registers. -/
def tileDieRows : List RegRow := [
  ⟨"STR_SEG_MAP", 0x100, [(0x8, 16)], [⟨63, 0, .ro, 0xffffffffffffffff⟩]⟩,
  ⟨"CLK_BLOCK", 0x2000, [(0x8, 32)], [⟨10, 0, .ro, 0x0⟩, ⟨12, 11, .ro, 0x0⟩, ⟨13, 13, .ro, 0x0⟩, ⟨14, 14, .ro, 0x0⟩]⟩,
  ⟨"CLK_WAKE_CNT", 0x2100, [], [⟨63, 0, .rc, 0x0⟩]⟩,
  ⟨"PWR_SECTOR", 0x2200, [(0x8, 4)], [⟨7, 0, .ro, 0x0⟩, ⟨15, 8, .ro, 0x0⟩, ⟨16, 16, .ro, 0x0⟩, ⟨17, 17, .ro, 0x0⟩, ⟨29, 18, .ro, 0x0⟩, ⟨63, 63, .wo, 0x0⟩]⟩]

/-- Part 0 of the perimeterDie registers. -/
def perimeterDieRows0 : List RegRow := [
  ⟨"MEM_STATUS", 0x4000, [], [⟨0, 0, .ro, 0x0⟩, ⟨10, 1, .ro, 0x0⟩, ⟨13, 11, .ro, 0x0⟩, ⟨21, 14, .ro, 0x0⟩]⟩,
  ⟨"MEM_PATROL", 0x4008, [], [⟨15, 0, .rw, 0x18⟩]⟩,
  ⟨"MEM_ECC_CORR_CNT", 0x4010, [], [⟨63, 0, .rc, 0x0⟩]⟩,
  ⟨"MEM_ECC_UNCORR_CNT", 0x4018, [], [⟨63, 0, .rc, 0x0⟩]⟩,
  ⟨"MEM_ECC_LAST", 0x4020, [], [⟨39, 0, .ro, 0x0⟩, ⟨41, 40, .ro, 0x0⟩]⟩,
  ⟨"MEM_RD_CNT", 0x4028, [], [⟨63, 0, .rc, 0x0⟩]⟩,
  ⟨"MEM_WR_CNT", 0x4030, [], [⟨63, 0, .rc, 0x0⟩]⟩,
  ⟨"MEM_SPEC_RD_CNT", 0x4038, [], [⟨63, 0, .rc, 0x0⟩]⟩,
  ⟨"MEM_PATROL_PASS_CNT", 0x4040, [], [⟨63, 0, .rc, 0x0⟩]⟩,
  ⟨"MEM_STREAM_UNDERRUN_CNT", 0x4048, [], [⟨63, 0, .rc, 0x0⟩]⟩,
  ⟨"MEM_STREAM_OVERRUN_CNT", 0x4050, [], [⟨63, 0, .rc, 0x0⟩]⟩,
  ⟨"CHK_CTRL", 0x6000, [(0x80, 16)], [⟨0, 0, .rw, 0x0⟩, ⟨1, 1, .wo, 0x0⟩, ⟨2, 2, .wo, 0x0⟩, ⟨3, 3, .rw, 0x0⟩, ⟨4, 4, .rw, 0x1⟩, ⟨5, 5, .rw, 0x0⟩, ⟨6, 6, .rw, 0x0⟩, ⟨15, 8, .rw, 0x0⟩, ⟨31, 16, .rw, 0x1⟩]⟩,
  ⟨"CHK_SEL", 0x6008, [(0x80, 16)], [⟨4, 0, .rw, 0x0⟩, ⟨5, 5, .rw, 0x0⟩, ⟨25, 6, .rw, 0x0⟩, ⟨39, 26, .rw, 0x0⟩, ⟨53, 40, .rw, 0x0⟩, ⟨54, 54, .rw, 0x0⟩, ⟨55, 55, .rw, 0x0⟩]⟩,
  ⟨"CHK_WIN", 0x6010, [(0x80, 16)], [⟨39, 0, .rw, 0x0⟩, ⟨45, 40, .rw, 0x0⟩]⟩,
  ⟨"CHK_WIN_LEN", 0x6018, [(0x80, 16)], [⟨18, 0, .rw, 0x0⟩]⟩,
  ⟨"CHK_EXPECT", 0x6020, [(0x80, 16)], [⟨63, 0, .rw, 0x0⟩]⟩,
  ⟨"CHK_RESULT", 0x6028, [(0x80, 16)], [⟨63, 0, .ro, 0x0⟩]⟩,
  ⟨"CHK_STATUS", 0x6030, [(0x80, 16)], [⟨0, 0, .ro, 0x0⟩, ⟨1, 1, .w1c, 0x0⟩, ⟨2, 2, .w1c, 0x0⟩, ⟨3, 3, .w1c, 0x0⟩, ⟨4, 4, .w1c, 0x0⟩, ⟨5, 5, .w1c, 0x0⟩, ⟨6, 6, .w1c, 0x0⟩, ⟨14, 7, .ro, 0x0⟩]⟩,
  ⟨"CHK_BLOCK_CNT", 0x6038, [(0x80, 16)], [⟨63, 0, .rc, 0x0⟩]⟩,
  ⟨"CHK_MISMATCH_CNT", 0x6040, [(0x80, 16)], [⟨63, 0, .rc, 0x0⟩]⟩]

/-- Part 1 of the perimeterDie registers. -/
def perimeterDieRows1 : List RegRow := [
  ⟨"CHK_REPEAT_CNT", 0x6048, [(0x80, 16)], [⟨63, 0, .rc, 0x0⟩]⟩,
  ⟨"CHK_LOSS_CNT", 0x6050, [(0x80, 16)], [⟨63, 0, .rc, 0x0⟩]⟩,
  ⟨"PUN_HM_CFG", 0x8000, [(0x40, 4)], [⟨0, 0, .rw, 0x0⟩, ⟨8, 1, .rw, 0x0⟩, ⟨31, 9, .rw, 0x0⟩, ⟨54, 32, .rw, 0x0⟩]⟩,
  ⟨"PUN_HM_ALLOC", 0x8008, [(0x40, 4)], [⟨63, 0, .ro, 0x0⟩]⟩,
  ⟨"PUN_HM_STATUS", 0x8010, [(0x40, 4)], [⟨23, 0, .ro, 0x0⟩, ⟨47, 24, .ro, 0x0⟩]⟩,
  ⟨"PUN_HM_FREE", 0x8100, [], [⟨47, 0, .wo, 0x0⟩]⟩,
  ⟨"PUN_HM_REF", 0x8108, [], [⟨47, 0, .wo, 0x0⟩]⟩,
  ⟨"PUN_HM_QUAR_RELEASE", 0x8110, [], [⟨47, 0, .wo, 0x0⟩]⟩,
  ⟨"PUN_HM_FAULT_CNT", 0x8118, [], [⟨63, 0, .rc, 0x0⟩]⟩,
  ⟨"PUN_HM_FAULT_LAST", 0x8120, [], [⟨47, 0, .ro, 0x0⟩, ⟨50, 48, .ro, 0x0⟩]⟩,
  ⟨"PUN_HM_DIRTY", 0x8128, [], [⟨31, 0, .ro, 0x0⟩]⟩,
  ⟨"PUN_HM_EMPTY_CNT", 0x8130, [], [⟨63, 0, .rc, 0x0⟩]⟩]

/-- The perimeterDie registers. -/
def perimeterDieRows : List RegRow :=
  perimeterDieRows0 ++ perimeterDieRows1

/-- The tileWindow registers. -/
def tileWindowRows : List RegRow := [
  ⟨"TIL_ID", 0x0, [], [⟨14, 0, .ro, 0x0⟩, ⟨15, 15, .ro, 0x0⟩, ⟨27, 16, .ro, 0⟩, ⟨31, 28, .ro, 0⟩, ⟨35, 32, .ro, 0x0⟩, ⟨37, 36, .ro, 0x0⟩]⟩,
  ⟨"DSC_STATUS", 0x40, [], [⟨7, 0, .ro, 0x0⟩, ⟨11, 8, .ro, 0x0⟩, ⟨13, 12, .ro, 0x0⟩, ⟨14, 14, .ro, 0x0⟩, ⟨15, 15, .ro, 0x0⟩, ⟨63, 63, .wo, 0x0⟩]⟩,
  ⟨"DSC_NUM_MODE", 0x48, [], [⟨2, 0, .ro, 0x0⟩, ⟨3, 3, .ro, 0x1⟩, ⟨4, 4, .ro, 0x0⟩]⟩,
  ⟨"DSC_EXC_0", 0x50, [], [⟨39, 0, .ro, 0x0⟩, ⟨41, 40, .ro, 0x0⟩, ⟨49, 42, .ro, 0x0⟩, ⟨51, 50, .ro, 0x0⟩, ⟨52, 52, .ro, 0x0⟩, ⟨53, 53, .ro, 0x0⟩, ⟨54, 54, .w1c, 0x0⟩, ⟨55, 55, .w1c, 0x0⟩]⟩,
  ⟨"DSC_EXC_1", 0x58, [], [⟨59, 0, .ro, 0x0⟩]⟩,
  ⟨"DSC_EXC_2", 0x60, [], [⟨11, 0, .ro, 0x0⟩, ⟨43, 12, .ro, 0x0⟩, ⟨47, 44, .ro, 0x0⟩]⟩,
  ⟨"DSC_PERIOD_OVERRUN", 0x68, [], [⟨63, 0, .rc, 0x0⟩]⟩,
  ⟨"DSC_SHADOW_FAULT_DROPPED", 0x70, [], [⟨63, 0, .rc, 0x0⟩]⟩,
  ⟨"DSC_CNT_ACCESS", 0x78, [], [⟨3, 0, .rw, 0x0⟩, ⟨5, 4, .wo, 0x0⟩, ⟨63, 32, .rw, 0x0⟩]⟩,
  ⟨"TIL_CNT", 0x80, [(0x8, 8)], [⟨63, 0, .ro, 0x0⟩]⟩,
  ⟨"MTX_STATUS", 0xc0, [], [⟨0, 0, .w1c, 0x0⟩, ⟨1, 1, .w1c, 0x0⟩, ⟨2, 2, .w1c, 0x0⟩]⟩,
  ⟨"MTX_CTRL", 0xc8, [], [⟨3, 0, .rw, 0x4⟩]⟩,
  ⟨"VEC_CVT_STATUS", 0xd0, [], [⟨0, 0, .w1c, 0x0⟩, ⟨1, 1, .w1c, 0x0⟩, ⟨2, 2, .w1c, 0x0⟩, ⟨3, 3, .w1c, 0x0⟩, ⟨4, 4, .w1c, 0x0⟩, ⟨5, 5, .w1c, 0x0⟩]⟩,
  ⟨"MTX_GANG", 0xd8, [], [⟨14, 0, .ro, 0x0⟩, ⟨17, 15, .ro, 0x0⟩, ⟨21, 18, .ro, 0x0⟩, ⟨25, 22, .ro, 0x0⟩, ⟨26, 26, .ro, 0x0⟩, ⟨27, 27, .ro, 0x0⟩]⟩,
  ⟨"VEC_STATUS", 0xe0, [], [⟨3, 0, .ro, 0x0⟩, ⟨4, 4, .w1c, 0x0⟩, ⟨5, 5, .w1c, 0x0⟩, ⟨6, 6, .w1c, 0x0⟩, ⟨10, 7, .ro, 0x0⟩]⟩,
  ⟨"VEC_OC_LIVE", 0xe8, [], [⟨63, 0, .ro, 0x0⟩]⟩,
  ⟨"ACC_STATUS", 0xf0, [], [⟨0, 0, .w1c, 0x0⟩, ⟨1, 1, .w1c, 0x0⟩, ⟨2, 2, .w1c, 0x0⟩, ⟨3, 3, .w1c, 0x0⟩, ⟨4, 4, .w1c, 0x0⟩, ⟨5, 5, .w1c, 0x0⟩, ⟨6, 6, .w1c, 0x0⟩, ⟨7, 7, .w1c, 0x0⟩, ⟨8, 8, .w1c, 0x0⟩]⟩,
  ⟨"ACC_SLOT_CTRL", 0xf8, [], [⟨15, 0, .rw, 0x0⟩, ⟨31, 16, .ro, 0x0⟩, ⟨47, 32, .ro, 0x0⟩]⟩]

/-- Part 0 of the portDie registers. -/
def portDieRows0 : List RegRow := [
  ⟨"LNK_DIE_MODE", 0x1000, [], [⟨0, 0, .ro, 0⟩]⟩,
  ⟨"LNK_BER_RETIRE", 0x1008, [], [⟨3, 0, .rw, 0x5⟩, ⟨8, 4, .rw, 0x5⟩]⟩,
  ⟨"LNK_TIME_PERIOD", 0x1010, [], [⟨15, 0, .rw, 0xa⟩]⟩,
  ⟨"LNK_REPLAY_TIMEOUT", 0x1018, [], [⟨15, 0, .rw, 0x14⟩]⟩,
  ⟨"LNK_PORT_STATUS", 0x10000, [(0x100, 32)], [⟨2, 0, .ro, 0x0⟩, ⟨4, 3, .ro, 0x0⟩, ⟨12, 5, .ro, 0x0⟩, ⟨20, 13, .ro, 0x0⟩, ⟨23, 21, .ro, 0x0⟩]⟩,
  ⟨"LNK_CRC_FAIL_CNT", 0x10008, [(0x100, 32)], [⟨63, 0, .rc, 0x0⟩]⟩,
  ⟨"LNK_REPLAY_CNT", 0x10010, [(0x100, 32)], [⟨63, 0, .rc, 0x0⟩]⟩,
  ⟨"LNK_DUP_GROUP_CNT", 0x10018, [(0x100, 32)], [⟨63, 0, .rc, 0x0⟩]⟩,
  ⟨"LNK_REPLAY_GT2_CNT", 0x10020, [(0x100, 32)], [⟨63, 0, .rc, 0x0⟩]⟩,
  ⟨"LNK_RETRAIN_CNT", 0x10028, [(0x100, 32)], [⟨63, 0, .rc, 0x0⟩]⟩,
  ⟨"LNK_RX_DROP_CNT", 0x10030, [(0x100, 32)], [⟨63, 0, .rc, 0x0⟩]⟩,
  ⟨"LNK_FLOWCTL_RX_CNT", 0x10038, [(0x100, 32)], [⟨63, 0, .rc, 0x0⟩]⟩,
  ⟨"LNK_EXPRESS_FC_IGNORED_CNT", 0x10040, [(0x100, 32)], [⟨63, 0, .rc, 0x0⟩]⟩,
  ⟨"LNK_OS_BAD_CNT", 0x10048, [(0x100, 32)], [⟨63, 0, .rc, 0x0⟩]⟩,
  ⟨"LNK_NARROW_CNT", 0x10050, [(0x100, 32)], [⟨63, 0, .rc, 0x0⟩]⟩,
  ⟨"LNK_PORT_CTRL", 0x10058, [(0x100, 32)], [⟨0, 0, .wo, 0x0⟩]⟩,
  ⟨"LNK_PFC_MAP", 0x10060, [(0x100, 32)], [⟨23, 0, .rw, 0xfac688⟩]⟩,
  ⟨"LNK_LANE_STATUS", 0x30000, [(0x20, 128)], [⟨0, 0, .ro, 0x0⟩, ⟨1, 1, .ro, 0x0⟩, ⟨6, 2, .ro, 0x0⟩]⟩,
  ⟨"LNK_LANE_BER", 0x30008, [(0x20, 128)], [⟨47, 0, .ro, 0x0⟩]⟩,
  ⟨"LNK_LANE_UNCORR_CNT", 0x30010, [(0x20, 128)], [⟨63, 0, .rc, 0x0⟩]⟩]

/-- Part 1 of the portDie registers. -/
def portDieRows1 : List RegRow := [
  ⟨"SWI_AGE_LIMIT_0_6", 0x40000, [(0x8, 7)], [⟨23, 0, .rw, 0x3e8⟩]⟩,
  ⟨"SWI_AGE_LIMIT_7", 0x40038, [], [⟨23, 0, .rw, 0x32⟩]⟩,
  ⟨"SWI_ECN_THRESH", 0x40040, [(0x8, 8)], [⟨15, 0, .rw, 0x40⟩]⟩,
  ⟨"SWI_VOQ_MAX", 0x40080, [(0x8, 8)], [⟨15, 0, .rw, 0x400⟩]⟩,
  ⟨"SWI_CC_CTRL", 0x400c0, [], [⟨7, 0, .rw, 0x40⟩, ⟨17, 8, .rw, 0xa⟩, ⟨27, 18, .rw, 0x5⟩, ⟨37, 28, .rw, 0x1⟩, ⟨47, 38, .rw, 0x2⟩]⟩,
  ⟨"SWI_DLB_OFF", 0x400c8, [], [⟨63, 0, .rw, 0x0⟩]⟩,
  ⟨"SWI_VOQ_SEL", 0x400d0, [], [⟨4, 0, .rw, 0x0⟩, ⟨11, 5, .rw, 0x0⟩, ⟨14, 12, .rw, 0x0⟩]⟩,
  ⟨"SWI_VOQ_DEPTH", 0x400d8, [], [⟨31, 0, .ro, 0x0⟩, ⟨63, 32, .ro, 0x0⟩]⟩,
  ⟨"SWI_CC_TABLE_FULL_CNT", 0x400e0, [], [⟨63, 0, .rc, 0x0⟩]⟩,
  ⟨"SWI_PORT_FC", 0x50000, [(0x100, 32)], [⟨15, 0, .rw, 0x40⟩, ⟨31, 16, .rw, 0x30⟩, ⟨32, 32, .rw, 0x0⟩]⟩,
  ⟨"SWI_SAMPLE_CTRL", 0x50008, [(0x100, 32)], [⟨0, 0, .rw, 0x0⟩, ⟨1, 1, .rw, 0x0⟩, ⟨2, 2, .rw, 0x0⟩, ⟨26, 3, .rw, 0x0⟩, ⟨30, 27, .rw, 0x2⟩, ⟨36, 31, .rw, 0x0⟩]⟩,
  ⟨"SWI_DROP_CNT", 0x50010, [(0x100, 32)], [⟨63, 0, .rc, 0x0⟩]⟩,
  ⟨"SWI_AGE_DROP_CNT", 0x50018, [(0x100, 32)], [⟨63, 0, .rc, 0x0⟩]⟩,
  ⟨"SWI_SAMPLE_DROP_CNT", 0x50020, [(0x100, 32)], [⟨63, 0, .rc, 0x0⟩]⟩,
  ⟨"SWI_ECN_MARK_CNT", 0x50028, [(0x100, 32)], [⟨63, 0, .rc, 0x0⟩]⟩,
  ⟨"SWI_ECN_NOT_ECT_CNT", 0x50030, [(0x100, 32)], [⟨63, 0, .rc, 0x0⟩]⟩,
  ⟨"SWI_STOMP_CNT", 0x50038, [(0x100, 32)], [⟨63, 0, .rc, 0x0⟩]⟩,
  ⟨"SWI_DLB_CNT", 0x50040, [(0x100, 32)], [⟨63, 0, .rc, 0x0⟩]⟩,
  ⟨"PUN_PK_STATUS", 0x60000, [(0x8, 4)], [⟨31, 0, .ro, 0x0⟩, ⟨63, 32, .ro, 0x0⟩]⟩,
  ⟨"PUN_PK_DIRTY", 0x60020, [], [⟨31, 0, .ro, 0x0⟩]⟩]

/-- Part 2 of the portDie registers. -/
def portDieRows2 : List RegRow := [
  ⟨"PUN_PK_RETURN", 0x60028, [], [⟨31, 0, .wo, 0x0⟩]⟩,
  ⟨"PUN_PK_FAULT_CNT", 0x60030, [], [⟨63, 0, .rc, 0x0⟩]⟩,
  ⟨"PUN_PK_FAULT_LAST", 0x60038, [], [⟨31, 0, .ro, 0x0⟩, ⟨34, 32, .ro, 0x0⟩]⟩,
  ⟨"PUN_PK_QUAR", 0x60040, [], [⟨31, 0, .ro, 0x0⟩]⟩,
  ⟨"PUN_PK_QUAR_RELEASE", 0x60048, [], [⟨31, 0, .wo, 0x0⟩]⟩,
  ⟨"PUN_PK_EMPTY_CNT", 0x60050, [], [⟨63, 0, .rc, 0x0⟩]⟩,
  ⟨"SCH_SAMPLE_PERIOD", 0x70000, [], [⟨23, 0, .rw, 0x3e8⟩]⟩,
  ⟨"SCH_OBS_SEL", 0x70008, [], [⟨4, 0, .rw, 0x0⟩, ⟨7, 5, .rw, 0x0⟩, ⟨8, 8, .rw, 0x0⟩]⟩,
  ⟨"SCH_OBS_MINMAX", 0x70010, [], [⟨31, 0, .ro, 0xffffffff⟩, ⟨63, 32, .ro, 0x0⟩]⟩,
  ⟨"SCH_OBS_SAMPLES", 0x70018, [], [⟨63, 0, .ro, 0x0⟩]⟩,
  ⟨"SCH_OBS_BIN", 0x70020, [(0x8, 16)], [⟨31, 0, .ro, 0x0⟩]⟩,
  ⟨"SCH_OBS_CLEAR", 0x700a0, [], [⟨0, 0, .wo, 0x0⟩]⟩,
  ⟨"SCH_WEIGHT", 0x80000, [(0x100, 32)], [⟨55, 0, .rw, 0x1010101010101⟩]⟩,
  ⟨"SCH_SHAPER", 0x80008, [(0x100, 32), (0x8, 8)], [⟨20, 0, .rw, 0x0⟩, ⟨45, 21, .rw, 0x0⟩, ⟨46, 46, .rw, 0x0⟩]⟩,
  ⟨"SCH_SHAPER_TOKENS", 0x80048, [(0x100, 32), (0x8, 8)], [⟨31, 0, .ro, 0x0⟩]⟩,
  ⟨"SCH_POLICER", 0x80088, [(0x100, 32), (0x8, 8)], [⟨20, 0, .rw, 0x0⟩, ⟨45, 21, .rw, 0x0⟩, ⟨46, 46, .rw, 0x0⟩]⟩,
  ⟨"SCH_POL_DROP_CNT", 0x800c8, [(0x100, 32)], [⟨63, 0, .rc, 0x0⟩]⟩,
  ⟨"SCH_EXP_DEMOTE_CNT", 0x800d0, [(0x100, 32)], [⟨63, 0, .rc, 0x0⟩]⟩,
  ⟨"SCH_OBS_CFG", 0x800d8, [(0x100, 32)], [⟨3, 0, .rw, 0x6⟩, ⟨7, 4, .rw, 0x3⟩]⟩,
  ⟨"SCH_EXP_OVERSIZE_CNT", 0x800e0, [(0x100, 32)], [⟨63, 0, .rc, 0x0⟩]⟩]

/-- Part 3 of the portDie registers. -/
def portDieRows3 : List RegRow := [
  ⟨"SCH_EXP_QUEUE_EXCESS_CNT", 0x800e8, [(0x100, 32)], [⟨63, 0, .rc, 0x0⟩]⟩,
  ⟨"SCH_EXP_NOPREEMPT_CNT", 0x800f0, [(0x100, 32)], [⟨63, 0, .rc, 0x0⟩]⟩,
  ⟨"SHU_STATUS", 0x100000, [(0x2000, 32)], [⟨0, 0, .ro, 0x0⟩, ⟨1, 1, .ro, 0x0⟩, ⟨2, 2, .w1c, 0x0⟩, ⟨10, 3, .ro, 0x0⟩, ⟨18, 11, .ro, 0xff⟩]⟩,
  ⟨"SHU_CTRL", 0x100008, [(0x2000, 32)], [⟨0, 0, .wo, 0x0⟩, ⟨1, 1, .wo, 0x0⟩]⟩,
  ⟨"SHU_PEND_BASE", 0x100010, [(0x2000, 32)], [⟨63, 0, .rw, 0x0⟩]⟩,
  ⟨"SHU_PEND_CYCLE", 0x100018, [(0x2000, 32)], [⟨33, 0, .rw, 0x0⟩]⟩,
  ⟨"SHU_PEND_COUNT", 0x100020, [(0x2000, 32)], [⟨8, 0, .rw, 0x0⟩]⟩,
  ⟨"SHU_TAKEOVER", 0x100028, [(0x2000, 32)], [⟨63, 0, .ro, 0x0⟩]⟩,
  ⟨"SHU_ACT_BASE", 0x100030, [(0x2000, 32)], [⟨63, 0, .ro, 0x0⟩]⟩,
  ⟨"SHU_ACT_CYCLE", 0x100038, [(0x2000, 32)], [⟨33, 0, .ro, 0x0⟩]⟩,
  ⟨"SHU_ACT_COUNT", 0x100040, [(0x2000, 32)], [⟨8, 0, .ro, 0x0⟩]⟩,
  ⟨"SHU_GUARD", 0x100048, [(0x2000, 32)], [⟨15, 0, .rw, 0x180⟩]⟩,
  ⟨"SHU_OVERRUN_CNT", 0x100050, [(0x2000, 32)], [⟨63, 0, .rc, 0x0⟩]⟩,
  ⟨"SHU_EXP_GATE_WAIT_CNT", 0x100058, [(0x2000, 32)], [⟨63, 0, .rc, 0x0⟩]⟩,
  ⟨"SHU_PEND_ENTRY", 0x100800, [(0x2000, 32), (0x8, 256)], [⟨63, 0, .rw, 0x0⟩]⟩,
  ⟨"SHU_ACT_ENTRY", 0x101000, [(0x2000, 32), (0x8, 256)], [⟨63, 0, .ro, 0x0⟩]⟩,
  ⟨"FTM_NBR_STATUS", 0x90000, [(0x40, 32)], [⟨0, 0, .ro, 0x0⟩, ⟨1, 1, .ro, 0x0⟩, ⟨63, 32, .ro, 0x0⟩]⟩,
  ⟨"FTM_NBR_DELAY", 0x90008, [(0x40, 32)], [⟨31, 0, .ro, 0x0⟩]⟩,
  ⟨"FTM_ASYM", 0x90010, [(0x40, 32)], [⟨15, 0, .rw, 0x0⟩]⟩,
  ⟨"FTM_DEMOTE_CNT", 0x90018, [(0x40, 32)], [⟨63, 0, .rc, 0x0⟩]⟩]

/-- Part 4 of the portDie registers. -/
def portDieRows4 : List RegRow := [
  ⟨"FTM_OUT_OF_STEP_CNT", 0x90020, [(0x40, 32)], [⟨63, 0, .rc, 0x0⟩]⟩,
  ⟨"RTE_NODE", 0x180000, [], [⟨13, 0, .ro, 0⟩]⟩,
  ⟨"RTE_CTRL", 0x180008, [], [⟨0, 0, .wo, 0x0⟩, ⟨1, 1, .wo, 0x0⟩]⟩,
  ⟨"RTE_STATUS", 0x180010, [], [⟨0, 0, .ro, 0x0⟩, ⟨1, 1, .w1c, 0x0⟩, ⟨2, 2, .w1c, 0x0⟩, ⟨3, 3, .w1c, 0x0⟩, ⟨4, 4, .w1c, 0x0⟩]⟩,
  ⟨"RTE_LATCH_TIME", 0x180018, [], [⟨63, 0, .rw, 0x0⟩]⟩,
  ⟨"RTE_PARKED", 0x180020, [], [⟨31, 0, .ro, 0x0⟩]⟩,
  ⟨"RTE_PARK_CNT", 0x180028, [], [⟨63, 0, .rc, 0x0⟩]⟩,
  ⟨"RTE_NO_ROUTE_CNT", 0x180030, [], [⟨63, 0, .rc, 0x0⟩]⟩,
  ⟨"RTE_STATION_MISS_CNT", 0x180038, [], [⟨63, 0, .rc, 0x0⟩]⟩,
  ⟨"RTE_MC_BAD_CNT", 0x180040, [], [⟨63, 0, .rc, 0x0⟩]⟩,
  ⟨"RTE_RETIRE_DROP_CNT", 0x180048, [], [⟨63, 0, .rc, 0x0⟩]⟩,
  ⟨"RTE_DRAIN", 0x190000, [(0x100, 32)], [⟨7, 0, .rw, 0x0⟩, ⟨15, 8, .ro, 0x0⟩]⟩,
  ⟨"RTE_RX_FRAMES", 0x190008, [(0x100, 32)], [⟨63, 0, .ro, 0x0⟩]⟩,
  ⟨"RTE_RX_CELLS", 0x190010, [(0x100, 32)], [⟨63, 0, .ro, 0x0⟩]⟩,
  ⟨"RTE_RX_BYTES", 0x190018, [(0x100, 32)], [⟨63, 0, .ro, 0x0⟩]⟩,
  ⟨"RTE_TX_FRAMES", 0x190020, [(0x100, 32)], [⟨63, 0, .ro, 0x0⟩]⟩,
  ⟨"RTE_TX_CELLS", 0x190028, [(0x100, 32)], [⟨63, 0, .ro, 0x0⟩]⟩,
  ⟨"RTE_TX_BYTES", 0x190030, [(0x100, 32)], [⟨63, 0, .ro, 0x0⟩]⟩,
  ⟨"RTE_STALL_CREDIT", 0x190038, [(0x100, 32)], [⟨63, 0, .rc, 0x0⟩]⟩,
  ⟨"RTE_STALL_HOLD", 0x190040, [(0x100, 32)], [⟨63, 0, .rc, 0x0⟩]⟩]

/-- Part 5 of the portDie registers. -/
def portDieRows5 : List RegRow := [
  ⟨"RTE_STALL_SHUTTER", 0x190048, [(0x100, 32)], [⟨63, 0, .rc, 0x0⟩]⟩,
  ⟨"RMA_STREAMS", 0x1a0000, [], [⟨11, 0, .ro, 0x0⟩]⟩,
  ⟨"RMA_DUP_CNT", 0x1a0008, [], [⟨63, 0, .rc, 0x0⟩]⟩,
  ⟨"RMA_STALE_CNT", 0x1a0010, [], [⟨63, 0, .rc, 0x0⟩]⟩,
  ⟨"RMA_BUSY_CNT", 0x1a0018, [], [⟨63, 0, .rc, 0x0⟩]⟩,
  ⟨"RMA_REJECT_CNT", 0x1a0020, [], [⟨63, 0, .rc, 0x0⟩]⟩,
  ⟨"RTE_PEND_NODE", 0x200000, [(0x8, 16384)], [⟨15, 0, .rw, 0x0⟩]⟩,
  ⟨"RTE_PEND_SET_LO", 0x220000, [(0x10, 256)], [⟨63, 0, .rw, 0x0⟩]⟩,
  ⟨"RTE_PEND_SET_HI", 0x220008, [(0x10, 256)], [⟨63, 0, .rw, 0x0⟩]⟩,
  ⟨"RTE_PEND_STATION_LO", 0x230000, [(0x10, 4096)], [⟨63, 0, .rw, 0x0⟩]⟩,
  ⟨"RTE_PEND_STATION_HI", 0x230008, [(0x10, 4096)], [⟨63, 0, .rw, 0x0⟩]⟩,
  ⟨"RTE_ACT_NODE", 0x280000, [(0x8, 16384)], [⟨15, 0, .ro, 0x0⟩]⟩,
  ⟨"RTE_ACT_SET_LO", 0x2a0000, [(0x10, 256)], [⟨63, 0, .ro, 0x0⟩]⟩,
  ⟨"RTE_ACT_SET_HI", 0x2a0008, [(0x10, 256)], [⟨63, 0, .ro, 0x0⟩]⟩,
  ⟨"RTE_ACT_STATION_LO", 0x2b0000, [(0x10, 4096)], [⟨63, 0, .ro, 0x0⟩]⟩,
  ⟨"RTE_ACT_STATION_HI", 0x2b0008, [(0x10, 4096)], [⟨63, 0, .ro, 0x0⟩]⟩,
  ⟨"DET_PORT_TDC", 0x300000, [(0x8, 32)], [⟨63, 0, .ro, 0x0⟩]⟩,
  ⟨"PEE_PORT_CNT", 0x310000, [(0x100, 32), (0x8, 28)], [⟨63, 0, .ro, 0x0⟩]⟩,
  ⟨"CHK_CTRL", 0x340000, [(0x80, 16)], [⟨0, 0, .rw, 0x0⟩, ⟨1, 1, .wo, 0x0⟩, ⟨2, 2, .wo, 0x0⟩, ⟨3, 3, .rw, 0x0⟩, ⟨4, 4, .rw, 0x0⟩, ⟨5, 5, .rw, 0x0⟩, ⟨6, 6, .rw, 0x0⟩, ⟨15, 8, .rw, 0x0⟩, ⟨31, 16, .rw, 0x1⟩]⟩,
  ⟨"CHK_SEL", 0x340008, [(0x80, 16)], [⟨4, 0, .rw, 0x0⟩, ⟨5, 5, .rw, 0x0⟩, ⟨25, 6, .rw, 0x0⟩, ⟨39, 26, .rw, 0x0⟩, ⟨53, 40, .rw, 0x0⟩, ⟨54, 54, .rw, 0x0⟩, ⟨55, 55, .rw, 0x0⟩]⟩]

/-- Part 6 of the portDie registers. -/
def portDieRows6 : List RegRow := [
  ⟨"CHK_WIN", 0x340010, [(0x80, 16)], [⟨39, 0, .rw, 0x0⟩, ⟨45, 40, .rw, 0x0⟩]⟩,
  ⟨"CHK_WIN_LEN", 0x340018, [(0x80, 16)], [⟨18, 0, .rw, 0x0⟩]⟩,
  ⟨"CHK_EXPECT", 0x340020, [(0x80, 16)], [⟨63, 0, .rw, 0x0⟩]⟩,
  ⟨"CHK_RESULT", 0x340028, [(0x80, 16)], [⟨63, 0, .ro, 0x0⟩]⟩,
  ⟨"CHK_STATUS", 0x340030, [(0x80, 16)], [⟨0, 0, .ro, 0x0⟩, ⟨1, 1, .w1c, 0x0⟩, ⟨2, 2, .w1c, 0x0⟩, ⟨3, 3, .w1c, 0x0⟩, ⟨4, 4, .w1c, 0x0⟩, ⟨5, 5, .w1c, 0x0⟩, ⟨6, 6, .w1c, 0x0⟩, ⟨14, 7, .ro, 0x0⟩]⟩,
  ⟨"CHK_BLOCK_CNT", 0x340038, [(0x80, 16)], [⟨63, 0, .rc, 0x0⟩]⟩,
  ⟨"CHK_MISMATCH_CNT", 0x340040, [(0x80, 16)], [⟨63, 0, .rc, 0x0⟩]⟩,
  ⟨"CHK_REPEAT_CNT", 0x340048, [(0x80, 16)], [⟨63, 0, .rc, 0x0⟩]⟩,
  ⟨"CHK_LOSS_CNT", 0x340050, [(0x80, 16)], [⟨63, 0, .rc, 0x0⟩]⟩,
  ⟨"PWR_PORT_SENSOR", 0x3000, [(0x8, 4)], [⟨7, 0, .ro, 0x0⟩, ⟨15, 8, .ro, 0x0⟩, ⟨63, 63, .wo, 0x0⟩]⟩]

/-- The portDie registers. -/
def portDieRows : List RegRow :=
  portDieRows0 ++ portDieRows1 ++ portDieRows2 ++ portDieRows3 ++ portDieRows4 ++ portDieRows5 ++ portDieRows6

/-- The portDieZero registers. -/
def portDieZeroRows : List RegRow := [
  ⟨"FTM_NOW", 0x2000, [], [⟨63, 0, .ro, 0x0⟩]⟩,
  ⟨"FTM_CTRL", 0x2008, [], [⟨1, 0, .rw, 0x0⟩, ⟨8, 2, .rw, 0x0⟩, ⟨9, 9, .rw, 0x0⟩]⟩,
  ⟨"FTM_RATE", 0x2010, [], [⟨31, 0, .rw, 0x0⟩]⟩,
  ⟨"FTM_STEP", 0x2018, [], [⟨63, 0, .wo, 0x0⟩]⟩,
  ⟨"FTM_STATUS", 0x2020, [], [⟨0, 0, .ro, 0x0⟩, ⟨1, 1, .ro, 0x0⟩, ⟨63, 32, .ro, 0x0⟩]⟩,
  ⟨"FTM_STEP_CNT", 0x2028, [], [⟨63, 0, .rc, 0x0⟩]⟩,
  ⟨"FTM_STEP_THRESH", 0x2030, [], [⟨31, 0, .rw, 0x3e80⟩]⟩]

/-- The bar4 registers. -/
def bar4Rows : List RegRow := [
  ⟨"SQ_BASE", 0x0, [(0x1000, 256)], [⟨63, 0, .rw, 0x0⟩]⟩,
  ⟨"SQ_CFG", 0x8, [(0x1000, 256)], [⟨3, 0, .rw, 0x0⟩, ⟨9, 4, .rw, 0x0⟩, ⟨10, 10, .rw, 0x0⟩]⟩,
  ⟨"SQ_TAIL", 0x10, [(0x1000, 256)], [⟨11, 0, .rw, 0x0⟩]⟩,
  ⟨"SQ_HEAD", 0x18, [(0x1000, 256)], [⟨11, 0, .ro, 0x0⟩]⟩,
  ⟨"SQ_ERR_CNT", 0x20, [(0x1000, 256)], [⟨63, 0, .rc, 0x0⟩]⟩,
  ⟨"HRQ_BASE", 0x100000, [(0x100, 64)], [⟨63, 0, .rw, 0x0⟩]⟩,
  ⟨"HRQ_CFG", 0x100008, [(0x100, 64)], [⟨3, 0, .rw, 0x0⟩, ⟨4, 4, .rw, 0x0⟩]⟩,
  ⟨"HRQ_TAIL", 0x100010, [(0x100, 64)], [⟨11, 0, .ro, 0x0⟩]⟩,
  ⟨"HRQ_HEAD", 0x100018, [(0x100, 64)], [⟨11, 0, .rw, 0x0⟩]⟩,
  ⟨"HRQ_ERR_CNT", 0x100020, [(0x100, 64)], [⟨63, 0, .rc, 0x0⟩]⟩,
  ⟨"MSIX_ADDR", 0x180000, [(0x10, 2048)], [⟨63, 0, .rw, 0x0⟩]⟩,
  ⟨"MSIX_DATA", 0x180008, [(0x10, 2048)], [⟨31, 0, .rw, 0x0⟩, ⟨32, 32, .rw, 0x0⟩]⟩,
  ⟨"MSIX_PBA", 0x190000, [(0x8, 32)], [⟨63, 0, .ro, 0x0⟩]⟩]

/-! Addresses. Package registers are absolute; die registers are offsets within their die range (R34). -/

/-- POR_DEVICE_ID (R394). -/
def Reg.porDeviceId : Nat := 0x0

/-- POR_SERIAL (R394). -/
def Reg.porSerial : Nat := 0x8

/-- POR_STRAPS (R394). -/
def Reg.porStraps : Nat := 0x10

/-- POR_BAD_UNIT_CNT (R16). -/
def Reg.porBadUnitCnt : Nat := 0x18

/-- POR_BAR2_BASE (R372). -/
def Reg.porBar2Base : Nat := 0x20

/-- POR_KEY_STATUS (R394). -/
def Reg.porKeyStatus : Nat := 0x28

/-- POR_IMAGE_SERVE (R385). -/
def Reg.porImageServe : Nat := 0x30

/-- POR_IBI_MASK (R379). -/
def Reg.porIbiMask : Nat := 0x38

/-- POR_IBI_PENDING (R379). -/
def Reg.porIbiPending : Nat := 0x40

/-- POR_VIEW_STATUS (R386). -/
def Reg.porViewStatus : Nat := 0x48

/-- POR_MSG_DUP_CNT (R382). -/
def Reg.porMsgDupCnt : Nat := 0x50

/-- POR_MSG_DROP_CNT (R381). -/
def Reg.porMsgDropCnt : Nat := 0x58

/-- POR_IRQ_MAP (R378). -/
def Reg.porIrqMap (i : Nat) : Nat := 0x1000 + 0x8 * i

/-- CLK_STATUS (R350). -/
def Reg.clkStatus : Nat := 0x10000

/-- CLK_SLEEP_TIMEOUT (R353). -/
def Reg.clkSleepTimeout : Nat := 0x10008

/-- CLK_DEEP_AFTER (R353). -/
def Reg.clkDeepAfter : Nat := 0x10010

/-- PWR_STATE (R359). -/
def Reg.pwrState : Nat := 0x20000

/-- PWR_CAP (R368). -/
def Reg.pwrCap : Nat := 0x20008

/-- PWR_NOW (R357). -/
def Reg.pwrNow : Nat := 0x20010

/-- PWR_CAP_CNT (R357). -/
def Reg.pwrCapCnt : Nat := 0x20018

/-- PWR_THERM (R368). -/
def Reg.pwrTherm : Nat := 0x20020

/-- PWR_EVENT (R366). -/
def Reg.pwrEvent : Nat := 0x20028

/-- PWR_SEQ_STATUS (R415). -/
def Reg.pwrSeqStatus : Nat := 0x20030

/-- PWR_TEMP_MAX (R366). -/
def Reg.pwrTempMax : Nat := 0x20038

/-- DET_CTRL (R302). -/
def Reg.detCtrl : Nat := 0x30000

/-- DET_STATUS (R303). -/
def Reg.detStatus : Nat := 0x30008

/-- DET_BARRIER_TIME (R308). -/
def Reg.detBarrierTime : Nat := 0x30010

/-- DET_BARRIER_CFG (R308). -/
def Reg.detBarrierCfg : Nat := 0x30018

/-- DET_BARRIER_CTRL (R308). -/
def Reg.detBarrierCtrl : Nat := 0x30020

/-- DET_BARRIER_STATUS (R308). -/
def Reg.detBarrierStatus : Nat := 0x30028

/-- DET_D0 (R309). -/
def Reg.detD0 : Nat := 0x30030

/-- DET_RUN_FCLK (R305). -/
def Reg.detRunFclk : Nat := 0x30038

/-- DET_EXT_CNT (R301). -/
def Reg.detExtCnt : Nat := 0x30040

/-- DET_FOREIGN_CNT (R306). -/
def Reg.detForeignCnt : Nat := 0x30048

/-- DET_SLIP_CNT (R305). -/
def Reg.detSlipCnt : Nat := 0x30050

/-- DET_EXIT_CNT (R303). -/
def Reg.detExitCnt : Nat := 0x30058

/-- DET_TDC_SUM (R307). -/
def Reg.detTdcSum : Nat := 0x30060

/-- DET_OVERRIDE_CNT (R314). -/
def Reg.detOverrideCnt : Nat := 0x30068

/-- DET_POLICY_VF (R315). -/
def Reg.detPolicyVf : Nat := 0x30100

/-- DET_PINNED_VF (R313). -/
def Reg.detPinnedVf : Nat := 0x30108

/-- DET_POLICY_REFRESH (R315). -/
def Reg.detPolicyRefresh : Nat := 0x30110

/-- DET_PINNED_REFRESH (R313). -/
def Reg.detPinnedRefresh : Nat := 0x30118

/-- DET_POLICY_SERDES (R315). -/
def Reg.detPolicySerdes : Nat := 0x30120

/-- DET_PINNED_SERDES (R313). -/
def Reg.detPinnedSerdes : Nat := 0x30128

/-- PEE_FREEZE (R395). -/
def Reg.peeFreeze : Nat := 0x40000

/-- PEE_FROZEN (R395). -/
def Reg.peeFrozen : Nat := 0x40008

/-- STR_COMMIT_CTRL (R62). -/
def Reg.strCommitCtrl : Nat := 0x50000

/-- STR_IMAGE_SRC (R62). -/
def Reg.strImageSrc : Nat := 0x50008

/-- STR_IMAGE_ADDR (R62). -/
def Reg.strImageAddr : Nat := 0x50010

/-- STR_IMAGE_LEN (R62). -/
def Reg.strImageLen : Nat := 0x50018

/-- STR_LATCH_TIME (R62). -/
def Reg.strLatchTime : Nat := 0x50020

/-- STR_COMMIT_STATUS (R62). -/
def Reg.strCommitStatus : Nat := 0x50028

/-- STR_COMMIT_ERR_DETAIL (R62). -/
def Reg.strCommitErrDetail : Nat := 0x50030

/-- STR_PKG_EPOCH (R62). -/
def Reg.strPkgEpoch : Nat := 0x50038

/-- STR_ACTIVE_SLOT (R62). -/
def Reg.strActiveSlot : Nat := 0x50040

/-- STR_COMMIT_REJECT_CNT (R62). -/
def Reg.strCommitRejectCnt : Nat := 0x50048

/-- STR_SCRUB_REPAIR (R58). -/
def Reg.strScrubRepair : Nat := 0x50050

/-- STR_SCRUB_BENIGN (R59). -/
def Reg.strScrubBenign : Nat := 0x50058

/-- STR_SCRUB_RELOAD (R59). -/
def Reg.strScrubReload : Nat := 0x50060

/-- STR_SCRUB_FAIL (R58). -/
def Reg.strScrubFail : Nat := 0x50068

/-- STR_PART_EPOCH (R62). -/
def Reg.strPartEpoch (i : Nat) : Nat := 0x50100 + 0x8 * i

/-- FLT_BAD_ACCESS_CNT (R8). -/
def Reg.fltBadAccessCnt : Nat := 0x60000

/-- FLT_BAD_ACCESS_LAST (R8). -/
def Reg.fltBadAccessLast : Nat := 0x60008

/-- FLT_REC_STATUS (R342). -/
def Reg.fltRecStatus : Nat := 0x60010

/-- FLT_REC_CTRL (R342). -/
def Reg.fltRecCtrl : Nat := 0x60018

/-- FLT_REC (R342). -/
def Reg.fltRec (i : Nat) : Nat := 0x60020 + 0x8 * i

/-- FLT_REC_LOST_CNT (R341). -/
def Reg.fltRecLostCnt : Nat := 0x60040

/-- FLT_IRQ_CFG (R342). -/
def Reg.fltIrqCfg : Nat := 0x60048

/-- FLT_RESET_REQ (R345). -/
def Reg.fltResetReq : Nat := 0x60050

/-- FLT_PART_RESET (R345). -/
def Reg.fltPartReset : Nat := 0x60058

/-- FLT_TRANSIENT_CNT (R342). -/
def Reg.fltTransientCnt : Nat := 0x60060

/-- FLT_PERMANENT_CNT (R342). -/
def Reg.fltPermanentCnt : Nat := 0x60068

/-- FLT_MGMT_DISAGREE_CNT (R347). -/
def Reg.fltMgmtDisagreeCnt : Nat := 0x60070

/-- FLT_BAD_ACCESS_HBM (R324). -/
def Reg.fltBadAccessHbm : Nat := 0x60078

/-- COL_GRP_CFG (R182). -/
def Reg.colGrpCfg (i : Nat) : Nat := 0x70000 + 0x40 * i

/-- COL_GRP_LIST (R182). -/
def Reg.colGrpList (i : Nat) : Nat := 0x70008 + 0x40 * i

/-- COL_GRP_REDUCE (R182). -/
def Reg.colGrpReduce (i : Nat) : Nat := 0x70010 + 0x40 * i

/-- COL_GRP_STATE (R182). -/
def Reg.colGrpState (i : Nat) : Nat := 0x70018 + 0x40 * i

/-- COL_GRP_ABORT (R182). -/
def Reg.colGrpAbort (i : Nat) : Nat := 0x70020 + 0x40 * i

/-- COL_GRP_CTRL (R182). -/
def Reg.colGrpCtrl (i : Nat) : Nat := 0x70028 + 0x40 * i

/-- COL_GRP_STALE_CNT (R204). -/
def Reg.colGrpStaleCnt (i : Nat) : Nat := 0x70030 + 0x40 * i

/-- COL_GRP_ABORT_CNT (R202). -/
def Reg.colGrpAbortCnt (i : Nat) : Nat := 0x70038 + 0x40 * i

/-- COL_HB_PERIOD (R206). -/
def Reg.colHbPeriod : Nat := 0x78000

/-- COL_UNKNOWN_GROUP_CNT (R206). -/
def Reg.colUnknownGroupCnt : Nat := 0x78008

/-- COL_EPOCH_AHEAD_CNT (R206). -/
def Reg.colEpochAheadCnt : Nat := 0x78010

/-- STR_DIE_INFO (R37). -/
def Reg.strDieInfo : Nat := 0x0

/-- STR_DIE_EPOCH (R62). -/
def Reg.strDieEpoch : Nat := 0x8

/-- FLT_DIE_TRANSIENT_CNT (R342). -/
def Reg.fltDieTransientCnt : Nat := 0xa000

/-- FLT_DIE_PERMANENT_CNT (R342). -/
def Reg.fltDiePermanentCnt : Nat := 0xa008

/-- FLT_DIE_ECC_CORR_CNT (R342). -/
def Reg.fltDieEccCorrCnt : Nat := 0xa010

/-- PEE_DIE_CFG (R395). -/
def Reg.peeDieCfg : Nat := 0xc000

/-- PEE_DIE_WRPTR (R395). -/
def Reg.peeDieWrptr : Nat := 0xc008

/-- PEE_WRAP_CNT (R388). -/
def Reg.peeWrapCnt : Nat := 0xc010

/-- PEE_DROP_CNT (R389). -/
def Reg.peeDropCnt : Nat := 0xc018

/-- STR_SEG_MAP (R38). -/
def Reg.strSegMap (i : Nat) : Nat := 0x100 + 0x8 * i

/-- CLK_BLOCK (R369). -/
def Reg.clkBlock (i : Nat) : Nat := 0x2000 + 0x8 * i

/-- CLK_WAKE_CNT (R355). -/
def Reg.clkWakeCnt : Nat := 0x2100

/-- PWR_SECTOR (R369). -/
def Reg.pwrSector (i : Nat) : Nat := 0x2200 + 0x8 * i

/-- MEM_STATUS (R337). -/
def Reg.memStatus : Nat := 0x4000

/-- MEM_PATROL (R328). -/
def Reg.memPatrol : Nat := 0x4008

/-- MEM_ECC_CORR_CNT (R327). -/
def Reg.memEccCorrCnt : Nat := 0x4010

/-- MEM_ECC_UNCORR_CNT (R327). -/
def Reg.memEccUncorrCnt : Nat := 0x4018

/-- MEM_ECC_LAST (R327). -/
def Reg.memEccLast : Nat := 0x4020

/-- MEM_RD_CNT (R337). -/
def Reg.memRdCnt : Nat := 0x4028

/-- MEM_WR_CNT (R337). -/
def Reg.memWrCnt : Nat := 0x4030

/-- MEM_SPEC_RD_CNT (R326). -/
def Reg.memSpecRdCnt : Nat := 0x4038

/-- MEM_PATROL_PASS_CNT (R328). -/
def Reg.memPatrolPassCnt : Nat := 0x4040

/-- MEM_STREAM_UNDERRUN_CNT (R321). -/
def Reg.memStreamUnderrunCnt : Nat := 0x4048

/-- MEM_STREAM_OVERRUN_CNT (R321). -/
def Reg.memStreamOverrunCnt : Nat := 0x4050

/-- CHK_CTRL (R338). -/
def Reg.chkCtrl (i : Nat) : Nat := 0x6000 + 0x80 * i

/-- CHK_SEL (R338). -/
def Reg.chkSel (i : Nat) : Nat := 0x6008 + 0x80 * i

/-- CHK_WIN (R338). -/
def Reg.chkWin (i : Nat) : Nat := 0x6010 + 0x80 * i

/-- CHK_WIN_LEN (R338). -/
def Reg.chkWinLen (i : Nat) : Nat := 0x6018 + 0x80 * i

/-- CHK_EXPECT (R338). -/
def Reg.chkExpect (i : Nat) : Nat := 0x6020 + 0x80 * i

/-- CHK_RESULT (R338). -/
def Reg.chkResult (i : Nat) : Nat := 0x6028 + 0x80 * i

/-- CHK_STATUS (R338). -/
def Reg.chkStatus (i : Nat) : Nat := 0x6030 + 0x80 * i

/-- CHK_BLOCK_CNT (R338). -/
def Reg.chkBlockCnt (i : Nat) : Nat := 0x6038 + 0x80 * i

/-- CHK_MISMATCH_CNT (R338). -/
def Reg.chkMismatchCnt (i : Nat) : Nat := 0x6040 + 0x80 * i

/-- CHK_REPEAT_CNT (R338). -/
def Reg.chkRepeatCnt (i : Nat) : Nat := 0x6048 + 0x80 * i

/-- CHK_LOSS_CNT (R338). -/
def Reg.chkLossCnt (i : Nat) : Nat := 0x6050 + 0x80 * i

/-- PUN_HM_CFG (R250). -/
def Reg.punHmCfg (i : Nat) : Nat := 0x8000 + 0x40 * i

/-- PUN_HM_ALLOC (R251). -/
def Reg.punHmAlloc (i : Nat) : Nat := 0x8008 + 0x40 * i

/-- PUN_HM_STATUS (R253). -/
def Reg.punHmStatus (i : Nat) : Nat := 0x8010 + 0x40 * i

/-- PUN_HM_FREE (R251). -/
def Reg.punHmFree : Nat := 0x8100

/-- PUN_HM_REF (R251). -/
def Reg.punHmRef : Nat := 0x8108

/-- PUN_HM_QUAR_RELEASE (R251). -/
def Reg.punHmQuarRelease : Nat := 0x8110

/-- PUN_HM_FAULT_CNT (R253). -/
def Reg.punHmFaultCnt : Nat := 0x8118

/-- PUN_HM_FAULT_LAST (R253). -/
def Reg.punHmFaultLast : Nat := 0x8120

/-- PUN_HM_DIRTY (R253). -/
def Reg.punHmDirty : Nat := 0x8128

/-- PUN_HM_EMPTY_CNT (R253). -/
def Reg.punHmEmptyCnt : Nat := 0x8130

/-- TIL_ID (R39). -/
def Reg.tilId : Nat := 0x0

/-- DSC_STATUS (R155). -/
def Reg.dscStatus : Nat := 0x40

/-- DSC_NUM_MODE (R77). -/
def Reg.dscNumMode : Nat := 0x48

/-- DSC_EXC_0 (R155). -/
def Reg.dscExc0 : Nat := 0x50

/-- DSC_EXC_1 (R155). -/
def Reg.dscExc1 : Nat := 0x58

/-- DSC_EXC_2 (R155). -/
def Reg.dscExc2 : Nat := 0x60

/-- DSC_PERIOD_OVERRUN (R148). -/
def Reg.dscPeriodOverrun : Nat := 0x68

/-- DSC_SHADOW_FAULT_DROPPED (R145). -/
def Reg.dscShadowFaultDropped : Nat := 0x70

/-- DSC_CNT_ACCESS (R155). -/
def Reg.dscCntAccess : Nat := 0x78

/-- TIL_CNT (R391). -/
def Reg.tilCnt (i : Nat) : Nat := 0x80 + 0x8 * i

/-- MTX_STATUS (R106). -/
def Reg.mtxStatus : Nat := 0xc0

/-- MTX_CTRL (R106). -/
def Reg.mtxCtrl : Nat := 0xc8

/-- VEC_CVT_STATUS (R80). -/
def Reg.vecCvtStatus : Nat := 0xd0

/-- MTX_GANG (R106). -/
def Reg.mtxGang : Nat := 0xd8

/-- VEC_STATUS (R127). -/
def Reg.vecStatus : Nat := 0xe0

/-- VEC_OC_LIVE (R127). -/
def Reg.vecOcLive : Nat := 0xe8

/-- ACC_STATUS (R181). -/
def Reg.accStatus : Nat := 0xf0

/-- ACC_SLOT_CTRL (R181). -/
def Reg.accSlotCtrl : Nat := 0xf8

/-- LNK_DIE_MODE (R208). -/
def Reg.lnkDieMode : Nat := 0x1000

/-- LNK_BER_RETIRE (R230). -/
def Reg.lnkBerRetire : Nat := 0x1008

/-- LNK_TIME_PERIOD (R230). -/
def Reg.lnkTimePeriod : Nat := 0x1010

/-- LNK_REPLAY_TIMEOUT (R230). -/
def Reg.lnkReplayTimeout : Nat := 0x1018

/-- LNK_PORT_STATUS (R230). -/
def Reg.lnkPortStatus (i : Nat) : Nat := 0x10000 + 0x100 * i

/-- LNK_CRC_FAIL_CNT (R224). -/
def Reg.lnkCrcFailCnt (i : Nat) : Nat := 0x10008 + 0x100 * i

/-- LNK_REPLAY_CNT (R224). -/
def Reg.lnkReplayCnt (i : Nat) : Nat := 0x10010 + 0x100 * i

/-- LNK_DUP_GROUP_CNT (R224). -/
def Reg.lnkDupGroupCnt (i : Nat) : Nat := 0x10018 + 0x100 * i

/-- LNK_REPLAY_GT2_CNT (R224). -/
def Reg.lnkReplayGt2Cnt (i : Nat) : Nat := 0x10020 + 0x100 * i

/-- LNK_RETRAIN_CNT (R227). -/
def Reg.lnkRetrainCnt (i : Nat) : Nat := 0x10028 + 0x100 * i

/-- LNK_RX_DROP_CNT (R219). -/
def Reg.lnkRxDropCnt (i : Nat) : Nat := 0x10030 + 0x100 * i

/-- LNK_FLOWCTL_RX_CNT (R230). -/
def Reg.lnkFlowctlRxCnt (i : Nat) : Nat := 0x10038 + 0x100 * i

/-- LNK_EXPRESS_FC_IGNORED_CNT (R213). -/
def Reg.lnkExpressFcIgnoredCnt (i : Nat) : Nat := 0x10040 + 0x100 * i

/-- LNK_OS_BAD_CNT (R225). -/
def Reg.lnkOsBadCnt (i : Nat) : Nat := 0x10048 + 0x100 * i

/-- LNK_NARROW_CNT (R228). -/
def Reg.lnkNarrowCnt (i : Nat) : Nat := 0x10050 + 0x100 * i

/-- LNK_PORT_CTRL (R227). -/
def Reg.lnkPortCtrl (i : Nat) : Nat := 0x10058 + 0x100 * i

/-- LNK_PFC_MAP (R230). -/
def Reg.lnkPfcMap (i : Nat) : Nat := 0x10060 + 0x100 * i

/-- LNK_LANE_STATUS (R228). -/
def Reg.lnkLaneStatus (i : Nat) : Nat := 0x30000 + 0x20 * i

/-- LNK_LANE_BER (R228). -/
def Reg.lnkLaneBer (i : Nat) : Nat := 0x30008 + 0x20 * i

/-- LNK_LANE_UNCORR_CNT (R230). -/
def Reg.lnkLaneUncorrCnt (i : Nat) : Nat := 0x30010 + 0x20 * i

/-- SWI_AGE_LIMIT_0_6 (R239). -/
def Reg.swiAgeLimit06 (i : Nat) : Nat := 0x40000 + 0x8 * i

/-- SWI_AGE_LIMIT_7 (R239). -/
def Reg.swiAgeLimit7 : Nat := 0x40038

/-- SWI_ECN_THRESH (R241). -/
def Reg.swiEcnThresh (i : Nat) : Nat := 0x40040 + 0x8 * i

/-- SWI_VOQ_MAX (R234). -/
def Reg.swiVoqMax (i : Nat) : Nat := 0x40080 + 0x8 * i

/-- SWI_CC_CTRL (R243). -/
def Reg.swiCcCtrl : Nat := 0x400c0

/-- SWI_DLB_OFF (R238). -/
def Reg.swiDlbOff : Nat := 0x400c8

/-- SWI_VOQ_SEL (R252). -/
def Reg.swiVoqSel : Nat := 0x400d0

/-- SWI_VOQ_DEPTH (R252). -/
def Reg.swiVoqDepth : Nat := 0x400d8

/-- SWI_CC_TABLE_FULL_CNT (R243). -/
def Reg.swiCcTableFullCnt : Nat := 0x400e0

/-- SWI_PORT_FC (R236). -/
def Reg.swiPortFc (i : Nat) : Nat := 0x50000 + 0x100 * i

/-- SWI_SAMPLE_CTRL (R240). -/
def Reg.swiSampleCtrl (i : Nat) : Nat := 0x50008 + 0x100 * i

/-- SWI_DROP_CNT (R234). -/
def Reg.swiDropCnt (i : Nat) : Nat := 0x50010 + 0x100 * i

/-- SWI_AGE_DROP_CNT (R239). -/
def Reg.swiAgeDropCnt (i : Nat) : Nat := 0x50018 + 0x100 * i

/-- SWI_SAMPLE_DROP_CNT (R240). -/
def Reg.swiSampleDropCnt (i : Nat) : Nat := 0x50020 + 0x100 * i

/-- SWI_ECN_MARK_CNT (R241). -/
def Reg.swiEcnMarkCnt (i : Nat) : Nat := 0x50028 + 0x100 * i

/-- SWI_ECN_NOT_ECT_CNT (R241). -/
def Reg.swiEcnNotEctCnt (i : Nat) : Nat := 0x50030 + 0x100 * i

/-- SWI_STOMP_CNT (R232). -/
def Reg.swiStompCnt (i : Nat) : Nat := 0x50038 + 0x100 * i

/-- SWI_DLB_CNT (R238). -/
def Reg.swiDlbCnt (i : Nat) : Nat := 0x50040 + 0x100 * i

/-- PUN_PK_STATUS (R252). -/
def Reg.punPkStatus (i : Nat) : Nat := 0x60000 + 0x8 * i

/-- PUN_PK_DIRTY (R252). -/
def Reg.punPkDirty : Nat := 0x60020

/-- PUN_PK_RETURN (R248). -/
def Reg.punPkReturn : Nat := 0x60028

/-- PUN_PK_FAULT_CNT (R248). -/
def Reg.punPkFaultCnt : Nat := 0x60030

/-- PUN_PK_FAULT_LAST (R248). -/
def Reg.punPkFaultLast : Nat := 0x60038

/-- PUN_PK_QUAR (R252). -/
def Reg.punPkQuar : Nat := 0x60040

/-- PUN_PK_QUAR_RELEASE (R248). -/
def Reg.punPkQuarRelease : Nat := 0x60048

/-- PUN_PK_EMPTY_CNT (R249). -/
def Reg.punPkEmptyCnt : Nat := 0x60050

/-- SCH_SAMPLE_PERIOD (R273). -/
def Reg.schSamplePeriod : Nat := 0x70000

/-- SCH_OBS_SEL (R273). -/
def Reg.schObsSel : Nat := 0x70008

/-- SCH_OBS_MINMAX (R273). -/
def Reg.schObsMinmax : Nat := 0x70010

/-- SCH_OBS_SAMPLES (R273). -/
def Reg.schObsSamples : Nat := 0x70018

/-- SCH_OBS_BIN (R273). -/
def Reg.schObsBin (i : Nat) : Nat := 0x70020 + 0x8 * i

/-- SCH_OBS_CLEAR (R273). -/
def Reg.schObsClear : Nat := 0x700a0

/-- SCH_WEIGHT (R256). -/
def Reg.schWeight (i : Nat) : Nat := 0x80000 + 0x100 * i

/-- SCH_SHAPER (R258). -/
def Reg.schShaper (i j : Nat) : Nat := 0x80008 + 0x100 * i + 0x8 * j

/-- SCH_SHAPER_TOKENS (R259). -/
def Reg.schShaperTokens (i j : Nat) : Nat := 0x80048 + 0x100 * i + 0x8 * j

/-- SCH_POLICER (R259). -/
def Reg.schPolicer (i j : Nat) : Nat := 0x80088 + 0x100 * i + 0x8 * j

/-- SCH_POL_DROP_CNT (R259). -/
def Reg.schPolDropCnt (i : Nat) : Nat := 0x800c8 + 0x100 * i

/-- SCH_EXP_DEMOTE_CNT (R259). -/
def Reg.schExpDemoteCnt (i : Nat) : Nat := 0x800d0 + 0x100 * i

/-- SCH_OBS_CFG (R273). -/
def Reg.schObsCfg (i : Nat) : Nat := 0x800d8 + 0x100 * i

/-- SCH_EXP_OVERSIZE_CNT (R271). -/
def Reg.schExpOversizeCnt (i : Nat) : Nat := 0x800e0 + 0x100 * i

/-- SCH_EXP_QUEUE_EXCESS_CNT (R271). -/
def Reg.schExpQueueExcessCnt (i : Nat) : Nat := 0x800e8 + 0x100 * i

/-- SCH_EXP_NOPREEMPT_CNT (R271). -/
def Reg.schExpNopreemptCnt (i : Nat) : Nat := 0x800f0 + 0x100 * i

/-- SHU_STATUS (R274). -/
def Reg.shuStatus (i : Nat) : Nat := 0x100000 + 0x2000 * i

/-- SHU_CTRL (R262). -/
def Reg.shuCtrl (i : Nat) : Nat := 0x100008 + 0x2000 * i

/-- SHU_PEND_BASE (R262). -/
def Reg.shuPendBase (i : Nat) : Nat := 0x100010 + 0x2000 * i

/-- SHU_PEND_CYCLE (R262). -/
def Reg.shuPendCycle (i : Nat) : Nat := 0x100018 + 0x2000 * i

/-- SHU_PEND_COUNT (R262). -/
def Reg.shuPendCount (i : Nat) : Nat := 0x100020 + 0x2000 * i

/-- SHU_TAKEOVER (R262). -/
def Reg.shuTakeover (i : Nat) : Nat := 0x100028 + 0x2000 * i

/-- SHU_ACT_BASE (R261). -/
def Reg.shuActBase (i : Nat) : Nat := 0x100030 + 0x2000 * i

/-- SHU_ACT_CYCLE (R261). -/
def Reg.shuActCycle (i : Nat) : Nat := 0x100038 + 0x2000 * i

/-- SHU_ACT_COUNT (R261). -/
def Reg.shuActCount (i : Nat) : Nat := 0x100040 + 0x2000 * i

/-- SHU_GUARD (R264). -/
def Reg.shuGuard (i : Nat) : Nat := 0x100048 + 0x2000 * i

/-- SHU_OVERRUN_CNT (R264). -/
def Reg.shuOverrunCnt (i : Nat) : Nat := 0x100050 + 0x2000 * i

/-- SHU_EXP_GATE_WAIT_CNT (R271). -/
def Reg.shuExpGateWaitCnt (i : Nat) : Nat := 0x100058 + 0x2000 * i

/-- SHU_PEND_ENTRY (R261). -/
def Reg.shuPendEntry (i j : Nat) : Nat := 0x100800 + 0x2000 * i + 0x8 * j

/-- SHU_ACT_ENTRY (R261). -/
def Reg.shuActEntry (i j : Nat) : Nat := 0x101000 + 0x2000 * i + 0x8 * j

/-- FTM_NOW (R265). -/
def Reg.ftmNow : Nat := 0x2000

/-- FTM_CTRL (R266). -/
def Reg.ftmCtrl : Nat := 0x2008

/-- FTM_RATE (R265). -/
def Reg.ftmRate : Nat := 0x2010

/-- FTM_STEP (R268). -/
def Reg.ftmStep : Nat := 0x2018

/-- FTM_STATUS (R266). -/
def Reg.ftmStatus : Nat := 0x2020

/-- FTM_STEP_CNT (R268). -/
def Reg.ftmStepCnt : Nat := 0x2028

/-- FTM_STEP_THRESH (R266). -/
def Reg.ftmStepThresh : Nat := 0x2030

/-- FTM_NBR_STATUS (R270). -/
def Reg.ftmNbrStatus (i : Nat) : Nat := 0x90000 + 0x40 * i

/-- FTM_NBR_DELAY (R225). -/
def Reg.ftmNbrDelay (i : Nat) : Nat := 0x90008 + 0x40 * i

/-- FTM_ASYM (R266). -/
def Reg.ftmAsym (i : Nat) : Nat := 0x90010 + 0x40 * i

/-- FTM_DEMOTE_CNT (R270). -/
def Reg.ftmDemoteCnt (i : Nat) : Nat := 0x90018 + 0x40 * i

/-- FTM_OUT_OF_STEP_CNT (R270). -/
def Reg.ftmOutOfStepCnt (i : Nat) : Nat := 0x90020 + 0x40 * i

/-- RTE_NODE (R275). -/
def Reg.rteNode : Nat := 0x180000

/-- RTE_CTRL (R282). -/
def Reg.rteCtrl : Nat := 0x180008

/-- RTE_STATUS (R285). -/
def Reg.rteStatus : Nat := 0x180010

/-- RTE_LATCH_TIME (R282). -/
def Reg.rteLatchTime : Nat := 0x180018

/-- RTE_PARKED (R283). -/
def Reg.rteParked : Nat := 0x180020

/-- RTE_PARK_CNT (R283). -/
def Reg.rteParkCnt : Nat := 0x180028

/-- RTE_NO_ROUTE_CNT (R278). -/
def Reg.rteNoRouteCnt : Nat := 0x180030

/-- RTE_STATION_MISS_CNT (R278). -/
def Reg.rteStationMissCnt : Nat := 0x180038

/-- RTE_MC_BAD_CNT (R281). -/
def Reg.rteMcBadCnt : Nat := 0x180040

/-- RTE_RETIRE_DROP_CNT (R279). -/
def Reg.rteRetireDropCnt : Nat := 0x180048

/-- RTE_DRAIN (R283). -/
def Reg.rteDrain (i : Nat) : Nat := 0x190000 + 0x100 * i

/-- RTE_RX_FRAMES (R286). -/
def Reg.rteRxFrames (i : Nat) : Nat := 0x190008 + 0x100 * i

/-- RTE_RX_CELLS (R286). -/
def Reg.rteRxCells (i : Nat) : Nat := 0x190010 + 0x100 * i

/-- RTE_RX_BYTES (R286). -/
def Reg.rteRxBytes (i : Nat) : Nat := 0x190018 + 0x100 * i

/-- RTE_TX_FRAMES (R286). -/
def Reg.rteTxFrames (i : Nat) : Nat := 0x190020 + 0x100 * i

/-- RTE_TX_CELLS (R286). -/
def Reg.rteTxCells (i : Nat) : Nat := 0x190028 + 0x100 * i

/-- RTE_TX_BYTES (R286). -/
def Reg.rteTxBytes (i : Nat) : Nat := 0x190030 + 0x100 * i

/-- RTE_STALL_CREDIT (R286). -/
def Reg.rteStallCredit (i : Nat) : Nat := 0x190038 + 0x100 * i

/-- RTE_STALL_HOLD (R286). -/
def Reg.rteStallHold (i : Nat) : Nat := 0x190040 + 0x100 * i

/-- RTE_STALL_SHUTTER (R286). -/
def Reg.rteStallShutter (i : Nat) : Nat := 0x190048 + 0x100 * i

/-- RMA_STREAMS (R295). -/
def Reg.rmaStreams : Nat := 0x1a0000

/-- RMA_DUP_CNT (R294). -/
def Reg.rmaDupCnt : Nat := 0x1a0008

/-- RMA_STALE_CNT (R294). -/
def Reg.rmaStaleCnt : Nat := 0x1a0010

/-- RMA_BUSY_CNT (R295). -/
def Reg.rmaBusyCnt : Nat := 0x1a0018

/-- RMA_REJECT_CNT (R297). -/
def Reg.rmaRejectCnt : Nat := 0x1a0020

/-- RTE_PEND_NODE (R298). -/
def Reg.rtePendNode (i : Nat) : Nat := 0x200000 + 0x8 * i

/-- RTE_PEND_SET_LO (R298). -/
def Reg.rtePendSetLo (i : Nat) : Nat := 0x220000 + 0x10 * i

/-- RTE_PEND_SET_HI (R298). -/
def Reg.rtePendSetHi (i : Nat) : Nat := 0x220008 + 0x10 * i

/-- RTE_PEND_STATION_LO (R298). -/
def Reg.rtePendStationLo (i : Nat) : Nat := 0x230000 + 0x10 * i

/-- RTE_PEND_STATION_HI (R298). -/
def Reg.rtePendStationHi (i : Nat) : Nat := 0x230008 + 0x10 * i

/-- RTE_ACT_NODE (R298). -/
def Reg.rteActNode (i : Nat) : Nat := 0x280000 + 0x8 * i

/-- RTE_ACT_SET_LO (R298). -/
def Reg.rteActSetLo (i : Nat) : Nat := 0x2a0000 + 0x10 * i

/-- RTE_ACT_SET_HI (R298). -/
def Reg.rteActSetHi (i : Nat) : Nat := 0x2a0008 + 0x10 * i

/-- RTE_ACT_STATION_LO (R298). -/
def Reg.rteActStationLo (i : Nat) : Nat := 0x2b0000 + 0x10 * i

/-- RTE_ACT_STATION_HI (R298). -/
def Reg.rteActStationHi (i : Nat) : Nat := 0x2b0008 + 0x10 * i

/-- DET_PORT_TDC (R307). -/
def Reg.detPortTdc (i : Nat) : Nat := 0x300000 + 0x8 * i

/-- PEE_PORT_CNT (R392). -/
def Reg.peePortCnt (i j : Nat) : Nat := 0x310000 + 0x100 * i + 0x8 * j

/-- CHK_CTRL (R338). -/
def Reg.chkCtrlP (i : Nat) : Nat := 0x340000 + 0x80 * i

/-- CHK_SEL (R338). -/
def Reg.chkSelP (i : Nat) : Nat := 0x340008 + 0x80 * i

/-- CHK_WIN (R338). -/
def Reg.chkWinP (i : Nat) : Nat := 0x340010 + 0x80 * i

/-- CHK_WIN_LEN (R338). -/
def Reg.chkWinLenP (i : Nat) : Nat := 0x340018 + 0x80 * i

/-- CHK_EXPECT (R338). -/
def Reg.chkExpectP (i : Nat) : Nat := 0x340020 + 0x80 * i

/-- CHK_RESULT (R338). -/
def Reg.chkResultP (i : Nat) : Nat := 0x340028 + 0x80 * i

/-- CHK_STATUS (R338). -/
def Reg.chkStatusP (i : Nat) : Nat := 0x340030 + 0x80 * i

/-- CHK_BLOCK_CNT (R338). -/
def Reg.chkBlockCntP (i : Nat) : Nat := 0x340038 + 0x80 * i

/-- CHK_MISMATCH_CNT (R338). -/
def Reg.chkMismatchCntP (i : Nat) : Nat := 0x340040 + 0x80 * i

/-- CHK_REPEAT_CNT (R338). -/
def Reg.chkRepeatCntP (i : Nat) : Nat := 0x340048 + 0x80 * i

/-- CHK_LOSS_CNT (R338). -/
def Reg.chkLossCntP (i : Nat) : Nat := 0x340050 + 0x80 * i

/-- PWR_PORT_SENSOR (R369). -/
def Reg.pwrPortSensor (i : Nat) : Nat := 0x3000 + 0x8 * i

/-- SQ_BASE (R374). -/
def Reg.sqBase (i : Nat) : Nat := 0x0 + 0x1000 * i

/-- SQ_CFG (R374). -/
def Reg.sqCfg (i : Nat) : Nat := 0x8 + 0x1000 * i

/-- SQ_TAIL (R374). -/
def Reg.sqTail (i : Nat) : Nat := 0x10 + 0x1000 * i

/-- SQ_HEAD (R374). -/
def Reg.sqHead (i : Nat) : Nat := 0x18 + 0x1000 * i

/-- SQ_ERR_CNT (R375). -/
def Reg.sqErrCnt (i : Nat) : Nat := 0x20 + 0x1000 * i

/-- HRQ_BASE (R376). -/
def Reg.hrqBase (i : Nat) : Nat := 0x100000 + 0x100 * i

/-- HRQ_CFG (R376). -/
def Reg.hrqCfg (i : Nat) : Nat := 0x100008 + 0x100 * i

/-- HRQ_TAIL (R376). -/
def Reg.hrqTail (i : Nat) : Nat := 0x100010 + 0x100 * i

/-- HRQ_HEAD (R376). -/
def Reg.hrqHead (i : Nat) : Nat := 0x100018 + 0x100 * i

/-- HRQ_ERR_CNT (R377). -/
def Reg.hrqErrCnt (i : Nat) : Nat := 0x100020 + 0x100 * i

end Sys2Proof.Machine
end

