-- ==== Sys2Proof/Machine/State.lean ====
section
/-! DEFINITION. The state of the package as plain data, the reasons a step can stop, and the state at power-on.
`INVENTORY.md`, heading State, lists every piece with the rule that names it. -/

namespace Sys2Proof.Machine

/-- Reasons for a fault. The block has none: every command of the table has an effect (or, when its event is not
due, none), so no meaning raises one. The constructor is kept so that the type is inhabited. -/
inductive Fault where
  /-- Raised by no meaning. Safe. -/
  | unreachable
  deriving DecidableEq, Repr

/-- Reasons for a refusal. -/
inductive Refusal where
  /-- A command whose meaning is not written, by its mnemonic. Safe: the machine stops. Raised by the arms of `exec` only. -/
  | notModelled (mnemonic : String)
  deriving DecidableEq, Repr

/-- What has left the package, in order: answers to reads, traffic, host writes and messages (log entry 6). -/
inductive Output where
  /-- Data of a register read. -/
  | readReply (src : Src) (addr : Nat) (data : Word)
  /-- Data of a BAR2 read; `poisoned` when a block was uncorrectable (R327). -/
  | bar2Reply (data : Bytes) (poisoned : Bool)
  /-- Answer of an HBM controller to a read or an atomic; `bad` when the block was uncorrectable. -/
  | hbmReply (stack : Nat) (data : Bytes) (bad : Bool)
  /-- Response to a porter message. -/
  | porterReply (sender : Sender) (msg : Bytes)
  /-- A whole frame started on an egress port; `fcsOk` false when it ends with an inverted FCS (R232). -/
  | frame (port : Nat) (f : Frame) (fcsOk : Bool)
  /-- A group of four cells with its trailer (R216). -/
  | group (port : Nat) (bytes : Bytes)
  /-- An ordered set (R225). -/
  | orderedSet (port : Nat) (bytes : Bytes)
  /-- A PFC or PAUSE frame: class mask and quanta (R236). -/
  | flowControl (port : Nat) (pfc : Bool) (classes : Nat) (quanta : Nat)
  /-- Bytes written to host memory at a bus address (R374, R376). -/
  | hostWrite (addr : Nat) (data : Bytes)
  /-- An MSI-X message (R378). -/
  | msix (vector : Nat)
  /-- An I3C in-band interrupt with its mandatory data byte (R379). -/
  | ibi (group : Nat)
  /-- A sample queued to the porter (R240). -/
  | sample (data : Bytes)
  /-- An answer to a booting neighbour: the active slot's bytes, or none when refused (R385). -/
  | imageServe (port : Nat) (image : Option Bytes)
  /-- A request of this package for a neighbour's image (R363). -/
  | imageAsk (port : Nat)
  /-- An Ethernet port starts auto-negotiation and advertises one PHY type: WIDTH code, CR, LANE100 (Table 9-2, R228). -/
  | advertise (port width : Nat) (cr lane100 : Bool)
  /-- A PTP event message with its egress timestamp (R215). -/
  | ptp (port : Nat) (msg : Bytes) (time : Nat)
  /-- A neighbour advertisement of the porter (R380). -/
  | neighbourAdvert (addr : Nat)
  /-- A message leaves the packet mesh at its destination stop: the command that its frame means is due (R32). -/
  | meshDeliver (stop : Nat) (f : Frame)
  deriving DecidableEq, Repr

/-- Time (R265): fabric time, the fraction below one unit in 2^-38, and a count of KCLK since the keep clock
started. `fresh` numbers the free values (log entry 7). -/
structure Clock where
  ftm : Word
  frac : Nat
  kclk : Nat
  fresh : Nat
  deriving DecidableEq, Repr

/-- Lands and supplies (R360, R365, R366, R367, R407). -/
structure Pins where
  /-- The package is in reset. -/
  pkgReset : Bool
  /-- PKG_RESET_N is high. -/
  resetN : Bool
  vauxOk : Bool
  /-- The porter has enabled the VIN48 regulators. -/
  regulators : Bool
  perstN : Bool
  pwrGood : Bool
  /-- THERM_TRIP_N asserted. -/
  thermTrip : Bool
  /-- The 26 sampled straps in the bit order of POR_STRAPS (Table 17-11). -/
  straps : Nat
  /-- KCLK count at which PWR_GOOD last rose (R363). -/
  goodAt : Nat
  /-- Boot in progress on the fabric-neighbour source: the default port asked now (R363). -/
  bootPort : Option Nat
  /-- Ports whose neighbour has refused the image in this boot (R363). -/
  bootRefused : List Nat
  /-- An automatic commit of R363 is in progress. -/
  autoBoot : Bool
  /-- Sequencers issue in one FCLK of two (R357). -/
  issueHalved : Bool
  /-- Onsets of safety overrides now in force, by loop and unit (R314). -/
  overridden : List (Nat × Nat)
  /-- Sensors whose last sample was at the trip temperature (R366). -/
  hot : List Nat
  /-- Units held at a policy bound, by loop and unit: they count each FCLK (R314). -/
  pinned : List (Nat × Nat)
  deriving DecidableEq, Repr

/-- One fused key slot (R50, R384). -/
structure KeySlot where
  hash : Bytes
  programmed : Bool
  revoked : Bool
  deriving DecidableEq, Repr

/-- A long-accumulator slot (Table 7-1). -/
structure Slot where
  a : BitVec 320
  e : BitVec 16
  terms : Nat
  pinf : Bool
  ninf : Bool
  nan : Bool
  poison : Bool
  /-- A term has passed the limit: every later term is discarded (R159). -/
  full : Bool
  deriving DecidableEq, Repr

/-- The zero slot (R156). -/
def Slot.zero : Slot := ⟨0, 0, 0, false, false, false, false, false⟩

/-- Line states of Table 5-3. -/
inductive LineState where
  | invalid | busy | valid | dirty
  deriving DecidableEq, Repr

/-- State and tag of an operand-cache line (R114). -/
structure OcLine where
  st : LineState
  tag : Option Nat
  /-- 64 B groups that lattice consumes, or vector writes after them, have written while a fill or write-back of the line goes on
  (R119). -/
  fed : List Nat
  deriving DecidableEq, Repr

/-- An invalid line with no tag. -/
def OcLine.empty : OcLine := ⟨.invalid, none, []⟩

/-- An entry of the finished-tile queue (R120, R121). -/
structure FtqEntry where
  /-- Element format: 0 BF16, 2 FP32. -/
  elem : Nat
  /-- Row-major 16 × 16 elements. -/
  data : Bytes
  /-- Every output is written. -/
  complete : Bool
  deriving DecidableEq, Repr

/-- A context is idle or has an instance. -/
inductive CtxState where
  | idle | running
  deriving DecidableEq, Repr

/-- A fetched or pending successor (R130). -/
structure Succ where
  addr : Nat
  space : Nat
  /-- The 128 bytes, once they have arrived. -/
  bytes : Option Bytes
  deriving DecidableEq, Repr

/-- An exception as it will be recorded: cause, whether before the first iteration, loop indices and detail. -/
structure ExcInfo where
  cause : Nat
  beforeFirst : Bool
  idx : List Nat
  detail : Nat
  deriving DecidableEq, Repr

/-- A shadow descriptor that has issued and is not confirmed (R143-R145). -/
structure Shadow where
  bytes : Bytes
  addr : Nat
  space : Nat
  /-- The numeric mode in force when it issued (R77). -/
  mode : BitVec 5
  /-- An exception it met in its first iteration, held until the SELECT resolves. -/
  exc : Option ExcInfo
  /-- The cache line that its exception makes INVALID, and the flags of VEC_CVT_STATUS that go with it (R80, R117, R145). -/
  line : Option Nat
  flags : Nat
  /-- Entries of the finished-tile queue that it has read and not released (R144). -/
  owed : Nat
  deriving DecidableEq, Repr

/-- One context of a sequencer (R128). -/
structure Ctx where
  st : CtxState
  args : List Word
  addr : Nat
  space : Nat
  /-- The current descriptor's 128 bytes, once fetched. -/
  desc : Option Bytes
  issued : Bool
  /-- Linear number of the next iteration (R136). -/
  iter : Nat
  /-- Every iteration is committed. -/
  allDone : Bool
  /-- The numeric mode in force when the descriptor issued (R77). -/
  mode : BitVec 5
  succ0 : Option Succ
  succ1 : Option Succ
  /-- Result of a SELECT once its comparator has been read (R142). -/
  result : Option Bool
  shadow : Option Shadow
  /-- Timer that started the instance, if any (R147). -/
  timer : Option Nat
  graph : Nat
  /-- Groups of 16 activation rows of the current MMA iteration already delivered (R120). -/
  part : Nat
  /-- The first iteration's reads were made as a shadow (R326). -/
  specRead : Bool
  /-- STOP was written while an iteration waits for responses: it takes effect at the next boundary (R155). -/
  stop : Bool
  /-- Data that responses have brought for the iteration in progress, by offset: written when all have come (R290). -/
  arrived : List (Nat × Bytes)
  /-- What the iteration in progress has read and keeps, in order: the reads of a shadow until its confirmation (R126, R144), the weights
  and activations that a gang holds in its cells (R87, R89), entries of the finished-tile queue already released (R121). -/
  seen : List Bytes
  /-- Number of the next read among `seen` when the iteration goes on. -/
  seenAt : Nat
  /-- Cache lines that the issue of this OCLOAD has made BUSY and that its iterations have not filled yet (R115). -/
  fills : List Nat
  deriving DecidableEq, Repr

/-- An idle context. -/
def Ctx.idle : Ctx :=
  ⟨.idle, [], 0, 0, none, false, 0, false, 0, none, none, none, none, none, 0, 0, false, false, [], [], 0, []⟩

/-- A comparator (R141). -/
structure Comparator where
  summary : Bool
  src : Nat
  field : Nat
  op : Nat
  refCounter : Bool
  refCnt : Nat
  refVal : BitVec 32
  deriving DecidableEq, Repr

/-- A periodic timer (R147, R148). -/
structure Timer where
  late : Bool
  graph : Nat
  t0 : Nat
  period : Nat
  next : Nat
  /-- A late start waits: instance number. -/
  pendingLate : Option Nat
  deriving DecidableEq, Repr

/-- The computed fields of a summary (Table 5-5). -/
structure SumVals where
  max : BitVec 32
  min : BitVec 32
  sum : BitVec 32
  nz : BitVec 32
  argmax : BitVec 32
  anynan : Bool
  deriving DecidableEq, Repr

/-- A summary slot (R124-R126), with the running values of the descriptor that names it. -/
structure Summary where
  vals : SumVals
  written : Bool
  /-- Elements gathered so far by the descriptor that names the slot: each as its FP32 code. -/
  gathered : List (BitVec 32)
  /-- The gathering descriptor has ended, and the slot takes its values at the summary write. -/
  ready : Bool
  deriving DecidableEq, Repr

/-- A slot never written. -/
def Summary.empty : Summary := ⟨⟨0, 0, 0, 0, 0, false⟩, false, [], false⟩

/-- What a remote request's response is used for (R289-R297, R140, R150). -/
inductive ReqUse where
  /-- Load data stands at this offset of the iteration's data. -/
  | load (off : Nat)
  | store
  | atomic
  | exactAdd
  | fp32Add
  | signal
  | trigger
  deriving DecidableEq, Repr

/-- A request without a response (R290, R293). -/
structure OutReq where
  id : Nat
  ctx : Nat
  iter : Nat
  use : ReqUse
  frame : Frame
  /-- Times it has been sent; 0 for a load answered DUP_RELOAD that waits to be issued anew (R296). -/
  attempts : Nat
  sentAt : Nat
  deriving DecidableEq, Repr

/-- A flit on its way to this tile: input side 1-4 (Table 2-8), slots still to run, 64 B. -/
structure Flit where
  side : Nat
  wait : Nat
  data : Bytes
  deriving DecidableEq, Repr

/-- A queued trigger: graph ID and argument. -/
structure Trig where
  graph : Nat
  /-- The graph-table entry, read when the trigger was accepted. -/
  entry : Nat
  args : List Word
  deriving DecidableEq, Repr

/-- A physical tile. -/
structure Tile where
  idState : Nat
  /-- Retired by a fault: it serves no logical tile again (R343). -/
  lost : Bool
  idRole : Nat
  idLogical : Option Nat
  mem : SMap Byte
  memBad : List Nat
  sliceEvt : SMap Nat
  oc : SMap Byte
  ocLines : SMap OcLine
  ocBad : List Nat
  ftq : List FtqEntry
  slots : SMap Slot
  remoteOpen : BitVec 16
  deferred : List (Nat × Slot)
  residueAt : Option Nat
  ctxs : SMap Ctx
  /-- Contexts on each engine in issue order, by engine code (R129). -/
  engines : SMap (List Nat)
  counters : SMap (BitVec 32)
  cmps : SMap (Option Comparator)
  timers : SMap (Option Timer)
  trigQ : List Trig
  /-- A pending handler start: the entry as it was read when the exception was recorded, and its argument. -/
  handler : Option (Nat × List Word)
  sums : SMap Summary
  numMode : BitVec 5
  exc0 : Word
  exc1 : Word
  exc2 : Word
  periodOverrun : Word
  shadowDropped : Word
  cntSel : Nat
  cvtStatus : Word
  mtxStatus : Word
  vecFlags : Word
  accStatus : Word
  rowSplit : BitVec 4
  mtxGang : Word
  staged : Bool
  gangHeld : Bool
  counts : SMap Word
  reqNext : Nat
  reqs : List OutReq
  portUse : SMap Nat
  rdBuf : Bytes
  wrBuf : Bytes
  linkIn : List Flit
  /-- Groups of 64 B of the oldest finished tile that ports of KIND 6 have sent (R120, R121). -/
  ftqPart : Nat
  /-- Carry words that arrived at the port of KIND 4 (R92, log entry 26). -/
  carryIn : Bytes
  /-- Bytes that arrived at the port of KIND 3 (R86, log entry 26). -/
  westIn : Bytes
  slotNo : Nat
  /-- An EDGE_FENCED notice was raised in this schedule period (R31). -/
  edgeNoted : Bool
  /-- A STREAM_RUN record was raised in this schedule period (R321). -/
  runNoted : Bool
  deriving DecidableEq, Repr

/-- A tile after package reset. -/
def Tile.reset : Tile :=
  { idState := 0, lost := false, idRole := 0, idLogical := none, mem := [], memBad := [], sliceEvt := [], oc := [], ocLines := [],
    ocBad := [], ftq := [], slots := [], remoteOpen := 0, deferred := [], residueAt := none, ctxs := [], engines := [],
    counters := [], cmps := [], timers := [], trigQ := [], handler := none, sums := [], numMode := 0b01000#5,
    exc0 := 0, exc1 := 0, exc2 := 0, periodOverrun := 0, shadowDropped := 0, cntSel := 0,
    cvtStatus := 0, mtxStatus := 0, vecFlags := 0, accStatus := 0, rowSplit := 4, mtxGang := 0, staged := false,
    gangHeld := false, counts := [], reqNext := 0, reqs := [], portUse := [], rdBuf := [], wrBuf := [],
    linkIn := [], ftqPart := 0, carryIn := [], westIn := [], slotNo := 0, edgeNoted := false, runNoted := false }

/-- A die: its configuration and its state (R58, R345, R346). -/
structure Die where
  /-- Section bytes of the active configuration; empty while the die has none. -/
  active : Bytes
  /-- The check copy. -/
  check : Bytes
  /-- The staged configuration of a commit in progress. -/
  staged : Option Bytes
  structured : Bool
  fenced : Bool
  inReset : Bool
  /-- The die lost its staged pair to a reset (R346). -/
  missed : Bool
  /-- A die-to-die link of the die has failed: it stays fenced, with its structure (R339). -/
  cut : Bool
  deriving DecidableEq, Repr

/-- A die after package reset. -/
def Die.reset : Die := ⟨[], [], none, false, false, false, false, false⟩

/-- A resource withdrawn by a commit (R52). -/
inductive Withdrawn where
  | tile (logical : Nat)
  | window (owner : Nat) (record : Word)
  | port (e : Nat)
  | punnet (stack : Nat) (s : Nat)
  deriving DecidableEq, Repr

/-- The commit engine and the configuration that belongs to no die (R51-R62). -/
structure Commit where
  /-- The image of the commit in progress. -/
  image : Bytes
  scope : Nat
  owner : Nat
  /-- Dies in scope (R54). -/
  dies : List Nat
  block : Bool
  latchAt : Nat
  withdrawn : List Withdrawn
  stagedPkg : Option Bytes
  stagedParts : SMap Bytes
  composite : Bool
  /-- Committed PACKAGE section. -/
  pkg : Bytes
  /-- Committed PARTITION sections by owner. -/
  parts : SMap Bytes
  /-- A package-scope commit has latched since package reset (R49). -/
  structured : Bool
  /-- Owners in the latch lead; 64 stands for every tile (package scope). -/
  lead : List Nat
  /-- A tile-state copy runs in this scope (R412). -/
  copying : Option Nat
  /-- Fabric time of START (R49 LATCH_RANGE). -/
  startTime : Nat
  deriving DecidableEq, Repr

/-- The commit engine at rest. -/
def Commit.reset : Commit :=
  ⟨[], 0, 0, [], false, 0, [], none, [], false, [], [], false, [], none, 0⟩

/-- A block's clock and containment (R353, R339). -/
structure Block where
  fenced : Bool
  idle : Nat
  asleep : Nat
  deriving DecidableEq, Repr

/-- A packet-mesh message (log entry 27): destination stop, VC, frame, and the input of the stop that it came in by: 0 to 3 for the link from
the north, east, south or west, 4 from a source at the stop. -/
structure MeshFlit where
  dst : Nat
  vc : Nat
  f : Frame
  via : Nat
  deriving DecidableEq, Repr

/-- A mesh stop (R32, R33): queued flits in order, round-robin pointer of each output, discards, isolation. -/
structure Stop where
  queue : List MeshFlit
  rr : SMap Nat
  discards : Nat
  isolated : Bool
  deriving DecidableEq, Repr

/-- A stop after reset. -/
def Stop.reset : Stop := ⟨[], [], 0, false⟩

/-- States of a punnet buffer (R248, R249). -/
inductive BufState where
  | free | allocated | dirty | quarantined | quarDirty
  deriving DecidableEq, Repr

/-- A punnet buffer: state and reference count (packet buffers: next in chain). -/
structure Buf where
  st : BufState
  cnt : Nat
  next : Option Nat
  deriving DecidableEq, Repr

/-- A punnet: region, number of buffers, buffers by index, and the free list (last in, first out): the buffers of
`free` first, then those from `fresh` up, which nothing has taken since the carving. `size` counts the buffers of the whole region, those of
the state array included (R250). -/
structure Punnet where
  en : Bool
  window : Nat
  owner : Nat
  base : Nat
  count : Nat
  bufs : SMap Buf
  free : List Nat
  fresh : Nat
  size : Nat
  deriving DecidableEq, Repr

/-- A punnet not carved. -/
def Punnet.off : Punnet := ⟨false, 0, 0, 0, 0, [], [], 0, 0⟩

/-- An HBM controller with its stack. -/
structure Ctrl where
  mem : SMap Byte
  /-- Uncorrectable 64 B blocks, by block number. -/
  bad : List Nat
  /-- Blocks written whole after an uncorrectable event (R339). -/
  rewritten : List Nat
  /-- Times (KCLK) of uncorrectable blocks of each pseudo-channel (R339). -/
  pchEvt : SMap (List Nat)
  /-- Retired pseudo-channels (R340). -/
  pchDead : List Nat
  /-- A row under repair: its pseudo-channel (R340). -/
  repair : Option Nat
  /-- Rows repaired so far. -/
  repaired : Nat
  patrolAt : Nat
  punnets : SMap Punnet
  /-- Dirty queue: (punnet, buffer). -/
  dirty : List (Nat × Nat)
  selfRefresh : Bool
  /-- The stack has failed training (R317, R364). -/
  failed : Bool
  deriving DecidableEq, Repr

/-- A controller after package reset. -/
def Ctrl.reset : Ctrl := ⟨[], [], [], [], [], none, 0, 0, [], [], false, false⟩

/-- A frame held in the switch (R233), with its buffers and bookkeeping. -/
structure QFrame where
  f : Frame
  /-- Ingress port 0-127, or 128 for a local source. -/
  ingress : Nat
  /-- Class now (after a demotion). -/
  cls : Nat
  /-- Buffer length in bytes. -/
  len : Nat
  /-- Fabric time of the enqueue. -/
  enq : Nat
  /-- Packet buffers: (pool, index). -/
  bufs : List (Nat × Nat)
  /-- Whether a VC credit is returned when the buffers are freed (R235). -/
  credit : Option Nat
  fcsOk : Bool
  /-- A class 7 frame that has met a closed shutter (Table 11-3). -/
  gated : Bool
  /-- Class 7 bytes that had left the egress port when the frame was queued (Table 11-3). -/
  mark7 : Nat
  /-- The last cell of the frame has not arrived: it is cut through (R232). -/
  growing : Bool
  deriving DecidableEq, Repr

/-- A frame in transmission: cells sent so far (R255). -/
structure TxOpen where
  q : QFrame
  sent : Nat
  vc : Nat
  /-- The class has closed since the frame started (R264). -/
  late : Bool
  /-- Start tag (R256). -/
  tag : Nat
  /-- Serial number of the frame at its port. -/
  no : Nat
  deriving DecidableEq, Repr

/-- Reassembly of one (CLASS, VC) stream (R219): bytes so far of the open frame. -/
structure Asm where
  head : Option Frame
  /-- Discarding the rest of a frame that broke a rule, or that was dropped after it was queued. -/
  skip : Bool
  /-- The open frame is classified and queued before its last cell: the bytes that its policer took for it (R232, R259). -/
  fwd : Option Nat
  deriving DecidableEq, Repr

/-- A stream with no frame open. -/
def Asm.idle : Asm := ⟨none, false, none⟩

/-- A stream that discards the rest of a frame. -/
def Asm.skipping : Asm := ⟨none, true, none⟩

/-- A sequenced group kept for replay (R224). -/
structure RGroup where
  seq : Nat
  cells : Bytes
  /-- Replays of this group so far. -/
  attempts : Nat
  classes : List Nat
  /-- Serial numbers of the frames that have a cell in the group. -/
  frames : List Nat
  deriving DecidableEq, Repr

/-- Statistics of one (port, class) and kind (R273). -/
structure Obs where
  min : Nat
  max : Nat
  count : Nat
  bins : SMap Nat
  deriving DecidableEq, Repr

/-- Statistics after a clear. -/
def Obs.empty : Obs := ⟨0xFFFFFFFF, 0, 0, []⟩

/-- A port. -/
structure Port where
  expSeq : Nat
  nextSeq : Nat
  replay : List RGroup
  /-- Last group accepted in order, once one is. -/
  ackSend : Option Nat
  nakDue : Bool
  goodRun : Nat
  badRun : Nat
  /-- Time (KCLK) of the last advance of the partner's ACK_SEQ. -/
  ackAt : Nat
  /-- Cells of the group being filled, with class and frame serial number of each data cell. -/
  filling : List (Bytes × Option (Nat × Nat))
  /-- Serial number of the next frame sent. -/
  frameNo : Nat
  /-- Frames already counted as needing more than 2 attempts. -/
  gt2 : List Nat
  /-- Credits this transmitter holds per VC. -/
  txCred : SMap Nat
  /-- Last cumulative count seen per VC. -/
  crSeen : SMap Nat
  /-- Cells freed here per VC since link-up. -/
  freed : SMap Nat
  /-- Cumulative counts last told to the partner. -/
  freedTold : SMap Nat
  /-- Credits left to the partner per VC (R219: a cell on a VC with no credit). -/
  rxCred : SMap Nat
  crNext : Nat
  asm : SMap Asm
  /-- Frames reassembled and waiting for classification. -/
  rxDone : List Frame
  /-- Fabric time until which each class is held. -/
  hold : SMap Nat
  /-- Classes for which this port has flow control asserted. -/
  fcOut : Nat
  /-- Hold cells to send: class mask and duration (R236). -/
  holdOut : List (Nat × Nat)
  preempt : Bool
  retrainAt : List Nat
  /-- T_TX and arrival time of the last TIME set. -/
  echoTx : Nat
  echoRx : Nat
  lastTime : Nat
  /-- Consecutive offsets beyond G; consecutive good TIME sets. -/
  badOffs : Nat
  goodSets : Nat
  /-- Trained, and waiting for the first TIME exchange (R226). -/
  firstTime : Bool
  /-- Credits were set at link-up; a retrain keeps them (R227). -/
  linked : Bool
  /-- LINK_STATE: narrower width that this end has requested. -/
  reqWidth : Option Nat
  /-- A good CREDIT_INIT has come in since training began (R226). -/
  credIn : Bool
  /-- A TIME set waits for its place between blocks (R225). -/
  timeOwed : Bool
  /-- Blocks sent since the last ordered set (R225). -/
  sinceOs : Nat
  /-- KCLK of the last TIME set asked for. -/
  timeAt : Nat
  /-- Class 7 bytes that have left the port (Table 11-3). -/
  sent7 : Nat
  sampled : Nat
  tx : SMap (Option TxOpen)
  rr : SMap Nat
  wfqV : Nat
  wfqF : SMap Nat
  /-- Each class's next frame: its queue of the round, and its fixed tag pair (S, F). -/
  tags : SMap (Option (Nat × Nat × Nat))
  /-- Tokens of the shapers (0-7) and policers (8-15). -/
  tokens : SMap Int
  obs : SMap Obs
  deriving DecidableEq, Repr

/-- A port after package reset. -/
def Port.reset : Port :=
  { expSeq := 0, nextSeq := 0, replay := [], ackSend := none, nakDue := false, goodRun := 0, badRun := 0, ackAt := 0,
    filling := [], frameNo := 0, gt2 := [], txCred := [], crSeen := [], freed := [], freedTold := [], rxCred := [], crNext := 0, asm := [],
    rxDone := [], hold := [], fcOut := 0, holdOut := [], preempt := false, retrainAt := [], echoTx := 0, echoRx := 0, lastTime := 0,
    badOffs := 0, goodSets := 0, firstTime := false, linked := false, reqWidth := none, credIn := false, timeOwed := false,
    sinceOs := 0, timeAt := 0, sent7 := 0, sampled := 0, tx := [], rr := [], wfqV := 0,
    wfqF := [], tags := [], tokens := [], obs := [] }

/-- A rate limiter (R243): rate in 1/256 Gb/s. -/
structure Limiter where
  dest : Nat
  cls : Nat
  rate : Nat
  egress : Nat
  lastEcho : Nat
  /-- Fabric time from which the next frame may leave. -/
  freeAt : Nat
  deriving DecidableEq, Repr

/-- Marked frames from one source since the last echo (R242). -/
structure EchoState where
  src : Nat
  count : Nat
  lastAt : Nat
  deriving DecidableEq, Repr

/-- A stream entry of the home port die (R294). -/
structure Stream where
  node : Nat
  tile : Nat
  high : Nat
  /-- IDs from HIGH - 255 to HIGH already accepted. -/
  accepted : List Nat
  /-- Response cache: (REQ_ID, STATUS, VALUE). -/
  cache : List (Nat × Nat × Word)
  lastAt : Nat
  deriving DecidableEq, Repr

/-- A frame parked by a drain (R283): the frame, its class and the hop it waited for. -/
structure Parked where
  q : QFrame
  hop : Nat
  deriving DecidableEq, Repr

/-- A port die's switch state. -/
structure PDie where
  pools : SMap Punnet
  dirty : List (Nat × Nat)
  limiters : List Limiter
  echoes : List EchoState
  streams : List Stream
  parked : List Parked
  /-- Fabric time of the last depth and delay sample (R273). -/
  obsAt : Nat
  deriving DecidableEq, Repr

/-- A port die after package reset. -/
def PDie.reset : PDie := ⟨[], [], [], [], [], [], 0⟩

/-- One message that a stage of a collective instance holds. -/
structure ColIn where
  /-- Message kind (Table 8-10). -/
  kind : Nat
  /-- Sender rank (kind 1) or node (others). -/
  src : Nat
  offset : Nat
  count : Nat
  data : Bytes
  deriving DecidableEq, Repr

/-- A member's part in an instance at this package. -/
structure ColMember where
  rank : Nat
  tile : Nat
  ctx : Nat
  desc : Bytes
  /-- Operand A as it was read; for ALLTOALLV, operand B's sizes stand in `sizes`. -/
  data : Bytes
  sizes : List Nat
  /-- Every byte of the contribution has been accepted by the stage. -/
  accepted : Bool
  done : Bool
  /-- Outputs received: byte offset in D and bytes (R202: D is written at the end). -/
  got : List (Nat × Bytes)
  /-- Bytes of D still to come; none while not known. -/
  need : Option Nat
  deriving DecidableEq, Repr

/-- A collective instance in flight (R192). -/
structure Inst where
  seq : Nat
  opcode : Nat
  param : Nat
  members : List ColMember
  inputs : List ColIn
  /-- Windows closed at this stage. -/
  closed : List Nat
  /-- Arrivals of the barrier or count phase have been passed on. -/
  arrived : Bool
  /-- The barrier or count phase has ended. -/
  released : Bool
  startedAt : Nat
  /-- Result bytes relayed by a package without members. -/
  relayed : Nat
  /-- Messages that wait for credit: input key and frame (R187). -/
  outbox : List (Nat × Frame)
  /-- Unacknowledged payload bytes by input key. -/
  unacked : SMap Nat
  /-- Records that the count phase found in all (R196). -/
  agreed : Nat
  deriving DecidableEq, Repr

/-- A record of the member list (R183). -/
structure Member where
  node : Nat
  tile : Nat
  kind : Nat
  deriving DecidableEq, Repr

/-- A group entry: the configuration in force and its instances. -/
structure Group where
  owner : Nat
  tag : Nat
  partialKind : Nat
  cls : Nat
  timeout : Nat
  redBase : Nat
  redCount : Nat
  bufBase : Nat
  buf4k : Nat
  root : Nat
  members : List Member
  insts : List Inst
  /-- Instances ended here, newest first: the cause of the abort, 0 for an instance that completed. -/
  ended : List (Nat × Nat)
  /-- Collective descriptors issued by each endpoint tile since the commit (R192). -/
  issued : SMap Nat
  /-- NEW_EPOCH of a running COMMIT_LIST. -/
  newEpoch : Nat
  /-- Times of the last message of each neighbour node. -/
  heard : SMap Nat
  /-- Messages sent, oldest first, each with the KCLK at which the sender's watchdog expires: kept against a refusal (R204). -/
  sent : List (Nat × Frame)
  /-- Own messages refused for a newer epoch, sent again every microsecond until that KCLK (R204). -/
  refused : List (Nat × Frame)
  /-- Nodes to which a message ended in NO_ROUTE (R201). -/
  lost : List Nat
  /-- INVALIDATE allowed any next epoch (R185). -/
  anyEpoch : Bool
  deriving DecidableEq, Repr

/-- A group entry never committed. -/
def Group.empty : Group := ⟨0, 0, 0, 0, 0, 0, 0, 0, 0, 0, [], [], [], [], 0, [], [], [], [], true⟩

/-- A fault record (Table 15-2). -/
structure FaultRec where
  unit : Nat
  time : Nat
  cause : Nat
  severity : Nat
  permanent : Bool
  spare : Nat
  epoch : Nat
  detail : Nat
  deriving DecidableEq, Repr

/-- Faults and resets of the package. -/
structure Faults where
  queue : List FaultRec
  /-- (unit, epoch) pairs for which MGMT_DATA_DISAGREE was raised (R347). -/
  disagreed : List (Nat × Nat)
  resets : List Scope
  deriving DecidableEq, Repr

/-- A view entry (R386). -/
structure View where
  unit : Nat
  retire : Bool
  epoch : Nat
  deriving DecidableEq, Repr

/-- The porter (R381, R382, R386). -/
structure Porter where
  queue : List (Sender × Bytes)
  senders : List (Sender × Nat × Bytes)
  views : List View
  keys : List KeySlot
  deriving DecidableEq, Repr

/-- A trace unit (R388-R390). -/
structure Trace where
  buffered : List Bytes
  dropped : Bool
  freezing : Bool
  /-- Stop mode has reached the end of the region. -/
  full : Bool
  deriving DecidableEq, Repr

/-- A check-value unit's running block (R331-R336). -/
structure Chk where
  bytes : Bytes
  frames : Nat
  written : Nat
  alive : Option Nat
  deriving DecidableEq, Repr

/-- Boundary-scan instructions (R393). -/
inductive Tap where
  | reset | bypass | idcode | samplePreload | extest | clamp | highz | extestPulse | extestTrain
  deriving DecidableEq, Repr

/-- The whole package. -/
structure State where
  pending : List Instr
  out : List Output
  clk : Clock
  pins : Pins
  regs : SMap Word
  bar4 : SMap Word
  /-- MSI-X vectors that are unmasked (log entry 8). -/
  unmasked : List Nat
  /-- MSI-X pending bits set. -/
  msixPending : List Nat
  tiles : SMap Tile
  dies : SMap Die
  commit : Commit
  blocks : SMap Block
  mesh : SMap Stop
  ctrls : SMap Ctrl
  pdies : SMap PDie
  ports : SMap Port
  voq : SMap (List QFrame)
  localQ : SMap (List QFrame)
  injQ : SMap (List QFrame)
  groups : SMap Group
  faults : Faults
  porter : Porter
  /-- Start-queue entries answered TRIG_BUSY, by queue (R374). -/
  sqHeld : SMap Bytes
  trace : SMap Trace
  chks : SMap Chk
  tap : Tap
  /-- Offsets to the time source: runs within 2 ns, and the last four (R266, R269). -/
  servo : Nat × List Int
  deriving DecidableEq, Repr

/-- The package held in package reset with fresh supplies: every register at its reset value, nothing stored
(log entries 2, 4, 5, 8). -/
def State.reset : State :=
  { pending := [], out := [], clk := ⟨0, 0, 0, 0⟩,
    pins := ⟨true, false, true, false, false, false, false, 0, 0, none, [], false, false, [], [], []⟩,
    regs := [], bar4 := [], unmasked := [], msixPending := [], tiles := [], dies := [], commit := Commit.reset,
    blocks := [], mesh := [], ctrls := [], pdies := [], ports := [], voq := [], localQ := [], injQ := [], groups := [],
    faults := ⟨[], [], []⟩, porter := ⟨[], [], [], [⟨[], false, false⟩, ⟨[], false, false⟩]⟩, sqHeld := [], trace := [], chks := [],
    tap := .reset, servo := (0, []) }

end Sys2Proof.Machine
end

