-- ==== Sys2Proof/Machine/Ops.lean ====
section
/-! DEFINITION. The named operations on the state: setters, registers, units and owners, bad accesses, interrupts,
fault records, trace events. -/

namespace Sys2Proof.Machine

/-- The outcomes of a command. -/
abbrev Out := Host.Outcome State Fault Refusal


/-- Replace `pending`. -/
def State.withPending (s : State) (x : List Instr) : State := { s with pending := x }

/-- Replace `out`. -/
def State.withOut (s : State) (x : List Output) : State := { s with out := x }

/-- Replace `clk`. -/
def State.withClk (s : State) (x : Clock) : State := { s with clk := x }

/-- Replace `pins`. -/
def State.withPins (s : State) (x : Pins) : State := { s with pins := x }

/-- Replace `regs`. -/
def State.withRegs (s : State) (x : SMap Word) : State := { s with regs := x }

/-- Replace `bar4`. -/
def State.withBar4 (s : State) (x : SMap Word) : State := { s with bar4 := x }

/-- Replace `unmasked`. -/
def State.withUnmasked (s : State) (x : List Nat) : State := { s with unmasked := x }

/-- Replace `msixPending`. -/
def State.withMsixPending (s : State) (x : List Nat) : State := { s with msixPending := x }

/-- Replace `tiles`. -/
def State.withTiles (s : State) (x : SMap Tile) : State := { s with tiles := x }

/-- Replace `dies`. -/
def State.withDies (s : State) (x : SMap Die) : State := { s with dies := x }

/-- Replace `commit`. -/
def State.withCommit (s : State) (x : Commit) : State := { s with commit := x }

/-- Replace `blocks`. -/
def State.withBlocks (s : State) (x : SMap Block) : State := { s with blocks := x }

/-- Replace `mesh`. -/
def State.withMesh (s : State) (x : SMap Stop) : State := { s with mesh := x }

/-- Replace `ctrls`. -/
def State.withCtrls (s : State) (x : SMap Ctrl) : State := { s with ctrls := x }

/-- Replace `pdies`. -/
def State.withPdies (s : State) (x : SMap PDie) : State := { s with pdies := x }

/-- Replace `ports`. -/
def State.withPorts (s : State) (x : SMap Port) : State := { s with ports := x }

/-- Replace `voq`. -/
def State.withVoq (s : State) (x : SMap (List QFrame)) : State := { s with voq := x }

/-- Replace `localQ`. -/
def State.withLocalQ (s : State) (x : SMap (List QFrame)) : State := { s with localQ := x }

/-- Replace `injQ`. -/
def State.withInjQ (s : State) (x : SMap (List QFrame)) : State := { s with injQ := x }

/-- Replace `groups`. -/
def State.withGroups (s : State) (x : SMap Group) : State := { s with groups := x }

/-- Replace `faults`. -/
def State.withFaults (s : State) (x : Faults) : State := { s with faults := x }

/-- Replace `porter`. -/
def State.withPorter (s : State) (x : Porter) : State := { s with porter := x }

/-- Replace `sqHeld`. -/
def State.withSqHeld (s : State) (x : SMap Bytes) : State := { s with sqHeld := x }

/-- Replace `trace`. -/
def State.withTrace (s : State) (x : SMap Trace) : State := { s with trace := x }

/-- Replace `chks`. -/
def State.withChks (s : State) (x : SMap Chk) : State := { s with chks := x }

/-- Replace `tap`. -/
def State.withTap (s : State) (x : Tap) : State := { s with tap := x }

/-- Replace `servo`. -/
def State.withServo (s : State) (x : Nat × List Int) : State := { s with servo := x }

/-- A physical tile die × 2,304 + p. -/
def State.tile (s : State) (k : Nat) : Tile := mapGet Tile.reset k s.tiles

/-- Replace a physical tile die × 2,304 + p. -/
def State.withTile (s : State) (k : Nat) (x : Tile) : State := s.withTiles (mapPut Tile.reset k x s.tiles)

/-- Change a physical tile die × 2,304 + p. -/
def State.modTile (s : State) (k : Nat) (g : Tile → Tile) : State := s.withTile k (g (s.tile k))

/-- A die, by DIE index. -/
def State.die (s : State) (k : Nat) : Die := mapGet Die.reset k s.dies

/-- A die is fenced: for its configuration, for a reset, or for a failed die-to-die link (R58, R339, R346). -/
def State.dieFenced (s : State) (d : Nat) : Bool := (s.die d).fenced || (s.die d).cut

/-- Replace a die, by DIE index. -/
def State.withDie (s : State) (k : Nat) (x : Die) : State := s.withDies (mapPut Die.reset k x s.dies)

/-- Change a die, by DIE index. -/
def State.modDie (s : State) (k : Nat) (g : Die → Die) : State := s.withDie k (g (s.die k))

/-- A block die × 32 + b. -/
def State.block (s : State) (k : Nat) : Block := mapGet ⟨false, 0, 0⟩ k s.blocks

/-- Replace a block die × 32 + b. -/
def State.withBlock (s : State) (k : Nat) (x : Block) : State := s.withBlocks (mapPut ⟨false, 0, 0⟩ k x s.blocks)

/-- Change a block die × 32 + b. -/
def State.modBlock (s : State) (k : Nat) (g : Block → Block) : State := s.withBlock k (g (s.block k))

/-- A mesh stop. -/
def State.stop (s : State) (k : Nat) : Stop := mapGet Stop.reset k s.mesh

/-- Replace a mesh stop. -/
def State.withStop (s : State) (k : Nat) (x : Stop) : State := s.withMesh (mapPut Stop.reset k x s.mesh)

/-- Change a mesh stop. -/
def State.modStop (s : State) (k : Nat) (g : Stop → Stop) : State := s.withStop k (g (s.stop k))

/-- A HBM controller. -/
def State.ctrl (s : State) (k : Nat) : Ctrl := mapGet Ctrl.reset k s.ctrls

/-- Replace a HBM controller. -/
def State.withCtrl (s : State) (k : Nat) (x : Ctrl) : State := s.withCtrls (mapPut Ctrl.reset k x s.ctrls)

/-- Change a HBM controller. -/
def State.modCtrl (s : State) (k : Nat) (g : Ctrl → Ctrl) : State := s.withCtrl k (g (s.ctrl k))

/-- A port die. -/
def State.pdie (s : State) (k : Nat) : PDie := mapGet PDie.reset k s.pdies

/-- Replace a port die. -/
def State.withPdie (s : State) (k : Nat) (x : PDie) : State := s.withPdies (mapPut PDie.reset k x s.pdies)

/-- Change a port die. -/
def State.modPdie (s : State) (k : Nat) (g : PDie → PDie) : State := s.withPdie k (g (s.pdie k))

/-- A port n × 32 + q. -/
def State.port (s : State) (k : Nat) : Port := mapGet Port.reset k s.ports

/-- Replace a port n × 32 + q. -/
def State.withPort (s : State) (k : Nat) (x : Port) : State := s.withPorts (mapPut Port.reset k x s.ports)

/-- Change a port n × 32 + q. -/
def State.modPort (s : State) (k : Nat) (g : Port → Port) : State := s.withPort k (g (s.port k))

/-- A group entry. -/
def State.group (s : State) (k : Nat) : Group := mapGet Group.empty k s.groups

/-- Replace a group entry. -/
def State.withGroup (s : State) (k : Nat) (x : Group) : State := s.withGroups (mapPut Group.empty k x s.groups)

/-- Change a group entry. -/
def State.modGroup (s : State) (k : Nat) (g : Group → Group) : State := s.withGroup k (g (s.group k))

/-- A trace unit. -/
def State.traceUnit (s : State) (k : Nat) : Trace := mapGet ⟨[], false, false, false⟩ k s.trace

/-- Replace a trace unit. -/
def State.withTraceUnit (s : State) (k : Nat) (x : Trace) : State := s.withTrace (mapPut ⟨[], false, false, false⟩ k x s.trace)

/-- Change a trace unit. -/
def State.modTraceUnit (s : State) (k : Nat) (g : Trace → Trace) : State := s.withTraceUnit k (g (s.traceUnit k))

/-- A check-value unit. -/
def State.chk (s : State) (k : Nat) : Chk := mapGet ⟨[], 0, 0, none⟩ k s.chks

/-- Replace a check-value unit. -/
def State.withChk (s : State) (k : Nat) (x : Chk) : State := s.withChks (mapPut ⟨[], 0, 0, none⟩ k x s.chks)

/-- Change a check-value unit. -/
def State.modChk (s : State) (k : Nat) (g : Chk → Chk) : State := s.withChk k (g (s.chk k))

/-- A virtual output queue (ingress × 128 + egress) × 8 + class. -/
def State.voqOf (s : State) (k : Nat) : List QFrame := mapGet [] k s.voq

/-- Replace a virtual output queue (ingress × 128 + egress) × 8 + class. -/
def State.withVoqOf (s : State) (k : Nat) (x : List QFrame) : State := s.withVoq (mapPut [] k x s.voq)

/-- Change a virtual output queue (ingress × 128 + egress) × 8 + class. -/
def State.modVoqOf (s : State) (k : Nat) (g : (List QFrame) → List QFrame) : State := s.withVoqOf k (g (s.voqOf k))

/-- A local queue ingress × 8 + class. -/
def State.localOf (s : State) (k : Nat) : List QFrame := mapGet [] k s.localQ

/-- Replace a local queue ingress × 8 + class. -/
def State.withLocalOf (s : State) (k : Nat) (x : List QFrame) : State := s.withLocalQ (mapPut [] k x s.localQ)

/-- Change a local queue ingress × 8 + class. -/
def State.modLocalOf (s : State) (k : Nat) (g : (List QFrame) → List QFrame) : State := s.withLocalOf k (g (s.localOf k))

/-- A injection queue egress × 8 + class. -/
def State.injOf (s : State) (k : Nat) : List QFrame := mapGet [] k s.injQ

/-- Replace a injection queue egress × 8 + class. -/
def State.withInjOf (s : State) (k : Nat) (x : List QFrame) : State := s.withInjQ (mapPut [] k x s.injQ)

/-- Change a injection queue egress × 8 + class. -/
def State.modInjOf (s : State) (k : Nat) (g : (List QFrame) → List QFrame) : State := s.withInjOf k (g (s.injOf k))
/-- Add to what leaves the package. -/
def State.emit (s : State) (o : Output) : State := s.withOut (s.out ++ [o])

/-- The next free value; the counter moves on (log entry 7). -/
def State.freeNow (s : State) : Word := Config.freeValue s.clk.fresh

/-- Move the free-value counter on. -/
def State.useFree (s : State) : State := s.withClk { s.clk with fresh := s.clk.fresh + 1 }

/-- `n` free bytes, each from its own free value. -/
def State.freeBytes (s : State) (n : Nat) : Bytes := (List.range n).map fun i => (Config.freeValue (s.clk.fresh + i)).truncate 8

/-- Move the free-value counter on by `n`. -/
def State.useFreeN (s : State) (n : Nat) : State := s.withClk { s.clk with fresh := s.clk.fresh + n }

/-! Registers. -/

/-- Whether a displacement is a sum of stride multiples within their counts. -/
def strideHit : List (Nat × Nat) → Nat → Bool
  | [], d => d == 0
  | (st, n) :: r, d => decide (d / st < n) && strideHit r (d % st)

/-- The row that an offset falls on. -/
def findRow (rows : List RegRow) (off : Nat) : Option RegRow :=
  rows.find? fun r => decide (r.off ≤ off) && strideHit r.strides (off - r.off)

/-- Base address of a die's register range (R34). -/
def dieBase (d : Nat) : Nat := if d < 16 then 0x1000000 + d * 0x100000 else 0x2000000 + (d - 16) * 0x400000

/-- The HBM stack of a tile die (Table 1-1). -/
def dieStack (d : Nat) : Option Nat :=
  match d with
  | 0 => some 0 | 1 => some 1 | 2 => some 2 | 3 => some 3 | 4 => some 11 | 7 => some 4 | 8 => some 10 | 11 => some 5
  | 12 => some 9 | 13 => some 8 | 14 => some 7 | 15 => some 6 | _ => none

/-- The perimeter die of a stack (Table 1-1). -/
def stackDie (k : Nat) : Nat := nth [0, 1, 2, 3, 7, 11, 15, 14, 13, 12, 8, 4] k 0

/-- Rows of a tile die's range below the tile windows (Table 1-8, R35). -/
def dieRow (d off : Nat) : Option RegRow :=
  match findRow anyDieRows off with
  | some r => some r
  | none =>
    match findRow tileDieRows off with
    | some r => some r
    | none => if (dieStack d).isSome then findRow perimeterDieRows off else none

/-- Rows of a port die's range (R34); some lie on P0 alone. -/
def portDieRow (n off : Nat) : Option RegRow :=
  match findRow anyDieRows off with
  | some r => some r
  | none =>
    match findRow portDieRows off with
    | some r => some r
    | none => if n = 0 then findRow portDieZeroRows off else none

/-- The register at an address of the 48 MiB space, if mapped (R34). An address inside a range of Tables 1-7 and 1-8 at which no register table
puts a register is taken as unmapped (DESIGN CHOICE, log entry 66). -/
def regRow (a : Nat) : Option RegRow :=
  if a < 0x80000 then findRow packageRows a
  else if a < 0x1000000 then none
  else if a < 0x2000000 then
    let d := (a - 0x1000000) / 0x100000
    let off := (a - 0x1000000) % 0x100000
    if off < 0x10000 then dieRow d off
    else if off < 0xA0000 then findRow tileWindowRows (off % 0x100) else none
  else if a < 0x3000000 then portDieRow ((a - 0x2000000) / 0x400000) ((a - 0x2000000) % 0x400000)
  else none

/-- The reset value its fields give a register. -/
def rowReset (r : RegRow) : Word := BitVec.ofNat 64 (r.fields.foldl (fun v f => v + f.rst <<< f.lo) 0)

/-- What a register that was never written holds (R11: a value from a strap or fuse is written when it is sampled). -/
def regReset (a : Nat) : Word := match regRow a with | some r => rowReset r | none => 0

/-- A stored register of BAR0. -/
def State.reg (s : State) (a : Nat) : Word := mapGet (regReset a) a s.regs

/-- Replace a stored register. -/
def State.withReg (s : State) (a : Nat) (w : Word) : State := s.withRegs (mapPut (regReset a) a w s.regs)

/-- A field of a stored register. -/
def State.fld (s : State) (a hi lo : Nat) : Nat := wBits (s.reg a) hi lo

/-- Replace a field of a stored register. -/
def State.withFld (s : State) (a hi lo v : Nat) : State := s.withReg a (wPut (s.reg a) hi lo v)

/-- Add to a counter, holding at 2^64 - 1 (R14). -/
def State.bumpBy (s : State) (a n : Nat) : State := s.withReg a (satAdd (s.reg a) n)

/-- Add one to a counter. -/
def State.bump (s : State) (a : Nat) : State := s.bumpBy a 1

/-- Address of a register of a die. -/
def dieReg (d off : Nat) : Nat := dieBase d + off

/-- Address of a register of a port die. -/
def pdReg (n off : Nat) : Nat := dieBase (16 + n) + off

/-- Address of a register of port n × 32 + q. -/
def portReg (e : Nat) (r : Nat → Nat) : Nat := pdReg (e / 32) (r (e % 32))

/-- Address of a register of the controller of stack k. -/
def memReg (k off : Nat) : Nat := dieReg (stackDie k) off

/-- A BAR4 register's row. -/
def bar4Row (a : Nat) : Option RegRow := findRow bar4Rows a

/-- What an unwritten BAR4 register holds. -/
def bar4Reset (a : Nat) : Word := match bar4Row a with | some r => rowReset r | none => 0

/-- A BAR4 register. -/
def State.b4 (s : State) (a : Nat) : Word := mapGet (bar4Reset a) a s.bar4

/-- Replace a BAR4 register. -/
def State.withB4 (s : State) (a : Nat) (w : Word) : State := s.withBar4 (mapPut (bar4Reset a) a w s.bar4)

/-- Fabric time (R265). -/
def State.now (s : State) : Nat := s.clk.ftm.toNat

/-- The node ID from the straps (R275). -/
def State.node (s : State) : Nat := s.pins.straps % 2 ^ 14

/-! Bad accesses (R8, Table 15-6). -/

/-- Causes of `FLT_BAD_ACCESS_LAST`. -/
inductive BadCause where
  | unmapped | locked | badValue | busy | noResponse | hbmRange
  deriving DecidableEq, Repr

/-- Code of a cause. -/
def BadCause.code : BadCause → Nat
  | .unmapped => 0 | .locked => 1 | .badValue => 2 | .busy => 3 | .noResponse => 4 | .hbmRange => 5

/-- SRC code. -/
def srcCode : Src → Nat
  | .host => 0 | .porter => 1

/-- Count and record a bad access (R8). -/
def State.badAccess (s : State) (src : Src) (write : Bool) (addr : Nat) (c : BadCause) : State :=
  (s.bump Reg.fltBadAccessCnt).withReg Reg.fltBadAccessLast
    (BitVec.ofNat 64 (addr % 2 ^ 26 + srcCode src <<< 26 + b2n write <<< 27 + c.code <<< 28))

/-- Count and record a write over the fabric register space that is discarded: SRC of the record is open (R250, R348, log entry 96). -/
def State.badFabric (s : State) (addr : Nat) (c : BadCause) : State :=
  (s.bump Reg.fltBadAccessCnt).withReg Reg.fltBadAccessLast
    (BitVec.ofNat 64 (addr % 2 ^ 26 + Config.fabricSrc.toNat <<< 26 + 1 <<< 27 + c.code <<< 28))

/-- Fabric time of a timer's next instance (R147). -/
def Timer.due (x : Timer) : Nat := x.t0 + x.next * x.period

/-- Count and record an HBM access beyond the capacity (R324). -/
def State.badHbm (s : State) (write : Bool) (devAddr : Nat) : State :=
  ((s.bump Reg.fltBadAccessCnt).withReg Reg.fltBadAccessLast
    (BitVec.ofNat 64 (b2n write <<< 27 + BadCause.hbmRange.code <<< 28))).withReg Reg.fltBadAccessHbm
      (BitVec.ofNat 64 (devAddr % 2 ^ 40 + b2n write <<< 40))

/-! Interrupts (R378, R379). -/

/-- I3C group of an interrupt source (Table 17-3). -/
def irqGroup (src : Nat) : Option Nat :=
  if src < 5 then some (src + 1) else if 16 ≤ src && src < 272 then some 6 else none

/-- Send an MSI-X message, or set the pending bit of a masked vector. -/
def State.msix (s : State) (v : Nat) : State :=
  if s.unmasked.contains v then s.emit (.msix v)
  else if s.msixPending.contains v then s else s.withMsixPending (s.msixPending ++ [v])

/-- Set a group's pending bit, with an in-band interrupt when it was clear and its mask bit is 1 (R379). -/
def State.raiseIbi (s : State) (g : Nat) : State :=
  let p := (s.reg Reg.porIbiPending).toNat
  if bit p (g - 1) then s
  else
    let s1 := s.withReg Reg.porIbiPending (BitVec.ofNat 64 (p ||| 1 <<< (g - 1)))
    if bit (s.reg Reg.porIbiMask).toNat (g - 1) then s1.emit (.ibi g) else s1

/-- An interrupt source is raised (R378). -/
def State.raiseIrq (s : State) (src : Nat) : State :=
  let a := Reg.porIrqMap src
  let s1 := s.withFld a 12 12 1
  let s2 := if s.fld a 11 11 = 1 then s1.msix (s.fld a 10 0) else s1
  match irqGroup src with
  | some g => s2.raiseIbi g
  | none => s2

/-! Units, owners and forms (R15-R19, R23-R25). -/

/-- A unit in native terms. -/
structure Unit6 where
  level : Nat
  die : Nat
  sector : Nat
  block : Nat
  tile : Nat
  slice : Nat
  cell : Nat
  deriving DecidableEq, Repr

/-- The package. -/
def Unit6.package : Unit6 := ⟨6, 0, 0, 0, 0, 0, 0⟩

/-- A die. -/
def Unit6.ofDie (d : Nat) : Unit6 := ⟨5, d, 0, 0, 0, 0, 0⟩

/-- A sector die × 4 + s. -/
def Unit6.ofSector (k : Nat) : Unit6 := ⟨4, k / 4, k % 4, 0, 0, 0, 0⟩

/-- A block die × 32 + block row × 8 + block column. -/
def Unit6.ofBlock (k : Nat) : Unit6 :=
  let r := k % 32 / 8
  let c := k % 8
  ⟨3, k / 32, r / 2 * 2 + c / 4, r % 2 * 4 + c % 4, 0, 0, 0⟩

/-- A logical tile (R23). -/
def Unit6.ofTile (l : Nat) : Unit6 :=
  let r := l / 64 % 32
  let c := l % 64
  ⟨2, l / 2048, r / 16 * 2 + c / 32, r / 8 % 2 * 4 + c / 8 % 4, r % 8 * 8 + c % 8, 0, 0⟩

/-- The logical tile a unit at L2 or below lies in. -/
def Unit6.logical (u : Unit6) : Nat :=
  let r := (u.sector / 2 * 2 + u.block / 4) * 8 + u.tile / 8
  let c := (u.sector % 2 * 4 + u.block % 4) * 8 + u.tile % 8
  u.die * 2048 + r * 64 + c

/-- The block a unit at L3 or below lies in, die × 32 + b. -/
def Unit6.blockOf (u : Unit6) : Nat := u.die * 32 + (u.sector / 2 * 2 + u.block / 4) * 8 + u.sector % 2 * 4 + u.block % 4

/-- Block of a logical tile. -/
def tileBlock (l : Nat) : Nat := l / 2048 * 32 + l / 64 % 32 / 8 * 8 + l % 64 / 8

/-- Sector of a block, die × 4 + s. -/
def blockSector (b : Nat) : Nat := b / 32 * 4 + b % 32 / 16 * 2 + b % 8 / 4

/-- Logical tiles of a block. -/
def blockTiles (b : Nat) : List Nat :=
  (List.range 64).map fun i => b / 32 * 2048 + (b % 32 / 8 * 8 + i / 8) * 64 + b % 8 * 8 + i % 8

/-- Blocks of a sector. -/
def sectorBlocks (k : Nat) : List Nat :=
  (List.range 8).map fun i => k / 4 * 32 + (k % 4 / 2 * 2 + i / 4) * 8 + k % 2 * 4 + i % 4

/-- Logical tiles of a die. -/
def dieTiles (d : Nat) : List Nat := (List.range 2048).map (d * 2048 + ·)

/-- Logical tiles of a tile-die unit. -/
def Unit6.tiles (u : Unit6) : List Nat :=
  if u.level ≤ 2 then [u.logical]
  else if u.level = 3 then blockTiles u.blockOf
  else if u.level = 4 then (sectorBlocks (u.die * 4 + u.sector)).flatMap blockTiles
  else if u.level = 5 then dieTiles u.die
  else []

/-- Bytes 0-255 of a logical tile's committed record (R42). -/
def State.tileRec (s : State) (l : Nat) : Bytes := slice (s.die (l / 2048)).active (128 + 256 * (l % 2048)) 256

/-- Role word of a logical tile (Table 2-4). -/
def State.roleWord (s : State) (l : Nat) : Nat := rdLe (s.die (l / 2048)).active (128 + 256 * (l % 2048)) 8

/-- Owner of a logical tile; 0 while its die is unstructured. -/
def State.tileOwner (s : State) (l : Nat) : Nat := bits (s.roleWord l) 9 4

/-- Role of a logical tile. -/
def State.tileRole (s : State) (l : Nat) : Nat := bits (s.roleWord l) 3 0

/-- Port record of a port: of the committed section, or of the default set of R362 before the first latch. -/
def State.portRec (s : State) (e : Nat) : Nat :=
  let d := s.die (16 + e / 32)
  if d.active.isEmpty then
    if e % 32 < 16 then 1 + 3 <<< 1 + (8 * (e % 32)) <<< 3 + 16384 <<< 23 else 0
  else rdLe d.active (64 + 16 * (e % 32)) 8

/-- Owner of a port. -/
def State.portOwner (s : State) (e : Nat) : Nat := bits (s.portRec e) 15 10

/-- Whether a port is enabled. -/
def State.portOn (s : State) (e : Nat) : Bool := bit (s.portRec e) 0

/-- Whether a port die runs fabric mode (R208). -/
def State.fabricMode (s : State) (n : Nat) : Bool := (s.reg (pdReg n Reg.lnkDieMode)).toNat % 2 == 1

/-- Owners of the parts of a unit (R17). -/
def State.unitOwners (s : State) (u : Unit6) : List Nat :=
  if u.level = 6 then [0]
  else if 16 ≤ u.die then (List.range 32).map fun q => s.portOwner ((u.die - 16) * 32 + q)
  else u.tiles.map s.tileOwner

/-- The owner that holds every part of a unit, or owner 0 (R17). -/
def State.unitOwner (s : State) (u : Unit6) : Nat :=
  match s.unitOwners u with
  | [] => 0
  | o :: r => if r.all (· == o) then o else 0

/-- PARTITION section of an owner. -/
def State.partSec (s : State) (o : Nat) : Bytes := mapGet [] o s.commit.parts

/-- Whether an owner runs the compatibility form; owner 0 follows STRAP_LEVELS (R17, R18). -/
def State.compat (s : State) (o : Nat) : Bool :=
  if o = 0 then bit s.pins.straps 20 else rdLe (s.partSec o) 0 1 % 2 == 1

/-- Epoch of an owner: the partition's, or the package's for owner 0 (R17, R341). -/
def State.ownerEpoch (s : State) (o : Nat) : Nat :=
  if o = 0 then s.fld Reg.strPkgEpoch 31 0 else s.fld (Reg.strPartEpoch o) 31 0

/-- A unit address in the native form (Table 1-3). -/
def nativeAddr (node : Nat) (u : Unit6) : Nat :=
  u.level + u.die <<< 8 + u.sector <<< 13 + u.block <<< 15 + u.tile <<< 18 + u.slice <<< 24 + u.cell <<< 28 + node <<< 48

/-- A unit address in the compatibility form: slices and cells fold into their unit (R19, Table 1-4). -/
def compatAddr (node : Nat) (u : Unit6) : Nat :=
  (u.level - 2) + 8 + u.die <<< 8 + u.sector <<< 13 + u.block <<< 15 + u.tile <<< 18 + node <<< 48

/-- A unit as the device reports it (R17). -/
def State.reportAddr (s : State) (u : Unit6) : Nat :=
  if s.compat (s.unitOwner u) then compatAddr s.node u else nativeAddr s.node u

/-- Fields below a level, which must be zero (R16). -/
def belowZero (lvl sector block tile slice cell : Nat) : Bool :=
  (decide (lvl < 5) || decide (sector = 0)) && (decide (lvl < 4) || decide (block = 0)) &&
    (decide (lvl < 3) || decide (tile = 0)) && (decide (lvl < 2) || decide (slice = 0)) && (decide (lvl < 1) || decide (cell = 0))

/-- The unit an address names, or none where R16 rejects it. A package or system address names the package. -/
def State.parseUnit (s : State) (w : Nat) : Option Unit6 :=
  let code := bits w 2 0
  let compat := bit w 3
  let die := bits w 12 8
  let sector := bits w 14 13
  let block := bits w 17 15
  let tile := bits w 23 18
  let slc := bits w 27 24
  let cell := bits w 39 28
  let lvl := if compat then min (code + 2) 6 else code
  let u : Unit6 := ⟨lvl, die, sector, block, tile, slc, cell⟩
  if bits w 7 4 ≠ 0 ∨ bits w 47 40 ≠ 0 ∨ bits w 63 62 ≠ 0 then none
  else if code = 7 ∨ (compat ∧ code = 6) then none
  else if die ≥ 20 then none
  else if lvl = 6 ∧ die ≠ 0 then none
  else if ¬ belowZero lvl sector block tile slc cell then none
  else if 16 ≤ die ∧ (lvl < 5 ∨ sector ≠ 0 ∨ block ≠ 0 ∨ tile ≠ 0 ∨ slc ≠ 0 ∨ cell ≠ 0) then none
  else if 0x50 ≤ cell ∧ cell ≤ 0x3FF then none
  else if compat = false ∧ lvl ≤ 1 ∧ s.tileOwner u.logical ≠ 0 ∧ s.compat (s.tileOwner u.logical) then none
  else if compat ∧ code = 5 ∧ bits w 61 48 ≠ s.node then none
  else some u

/-- The bypass position of the segment of a logical tile, 15 if none (R38). -/
def State.bypassOf (s : State) (l : Nat) : Nat :=
  let r := l / 64 % 32
  let sg := l % 64 / 8
  let j := r % 2 * 8 + sg
  s.fld (dieReg (l / 2048) (Reg.strSegMap (r / 2))) (4 * j + 3) (4 * j)

/-- Physical index of a logical tile under a bypass position (R25). -/
def physUnder (f l : Nat) : Nat :=
  let k := l % 8
  let pos := if k < f then k else k + 1
  l / 2048 * 2304 + l / 64 % 32 * 72 + l % 64 / 8 * 9 + pos

/-- Physical tile that serves a logical tile. -/
def State.phys (s : State) (l : Nat) : Nat := physUnder (s.bypassOf l) l

/-- The physical tile's state of a logical tile. -/
def State.ltile (s : State) (l : Nat) : Tile := s.tile (s.phys l)

/-- Change the tile that serves a logical tile. -/
def State.modLtile (s : State) (l : Nat) (g : Tile → Tile) : State := s.modTile (s.phys l) g

/-- The lowest logical tile of the segment of a physical tile: the unit that stands for the segment of an idle spare (R15; DESIGN CHOICE, log
entry 65). -/
def segFirst (t : Nat) : Nat := t / 2304 * 2048 + t % 2304 / 72 * 64 + t % 72 / 9 * 8

/-- The logical tile a physical tile serves or last served by its bypass position. A tile that serves none takes the place that its
position has in the segment, and an idle spare that of position 7 (DESIGN CHOICE, log entry 65); its SPARE_LOST record does not use it. -/
def State.logicalOf (s : State) (t : Nat) : Nat :=
  match (s.tile t).idLogical with
  | some l => l
  | none =>
    let f := s.bypassOf (segFirst t)
    let pos := t % 9
    segFirst t + (if pos ≤ f then min pos 7 else pos - 1)

/-- Physical tile's block. -/
def physBlock (t : Nat) : Nat := tileBlock (segFirst t)

/-- Register with the sensor and the gate of a tile die's sector. -/
def sectorReg (k : Nat) : Nat := dieReg (k / 4) (Reg.pwrSector (k % 4))

/-- A block is fenced, or its sector is gated (R339). -/
def State.blockDead (s : State) (b : Nat) : Bool := (s.block b).fenced || s.fld (sectorReg (blockSector b)) 16 16 == 1

/-! Trace events (R387-R390). -/

/-- Entry of a die in the peephole subsection of the committed PACKAGE section (Table 17-7). -/
def State.peeEntry (s : State) (d : Nat) : Bytes := slice s.commit.pkg (0x100 + 32 * d) 32

/-- Whether trace unit `d` records: enabled, not frozen, and not stopped at the end. -/
def State.traceOn (s : State) (d : Nat) : Bool :=
  bit (rdLe (s.peeEntry d) 0 2) 4 && !bit (s.reg Reg.peeFrozen).toNat d && !(s.traceUnit d).freezing && !(s.traceUnit d).full

/-- A 32 B trace record (R388). -/
def traceRecord (time source event die run : Nat) (dropped : Bool) (data : Bytes) : Bytes :=
  natLe 8 time ++ natLe 2 source ++ natLe 1 event ++ natLe 1 (die + b2n dropped * 32) ++ natLe 4 run ++ padTo 16 data

/-- An event reaches trace unit `d`: buffered, or dropped when 256 records wait (R389). -/
def State.traceEvent (s : State) (d source event owner : Nat) (data : Bytes) : State :=
  let e := s.peeEntry d
  let u := s.traceUnit d
  if ¬ s.traceOn d ∨ ¬ bit (rdLe e 8 4) event ∨ ¬ bit (rdLe e 16 8) owner then s
  else if 256 ≤ u.buffered.length then (s.bump (dieReg d Reg.peeDropCnt)).withTraceUnit d { u with dropped := true }
  else
    s.withTraceUnit d { u with
      buffered := u.buffered ++ [traceRecord s.now source event d (s.reg Reg.detRunFclk).toNat u.dropped data],
      dropped := false }

/-! Block clocks (R353, R355). -/

/-- CLK_BLOCK_b of a block. -/
def clkBlockA (b : Nat) : Nat := dieReg (b / 32) (Reg.clkBlock (b % 32))

/-- STATE of a block's clock: 0 retention, 1 clock-gated, 2 waking, 3 running. -/
def State.blockState (s : State) (b : Nat) : Nat := s.fld (clkBlockA b) 12 11

/-- Set a block's clock state, with its trace event. -/
def State.setBlockState (s : State) (b v : Nat) : State :=
  (s.withFld (clkBlockA b) 12 11 v).traceEvent (b / 32) 0xFFFF 6 (s.unitOwner (Unit6.ofBlock b)) (natLe 1 (b % 32) ++ natLe 1 v)

/-- A wake cause reaches a block (R355): a sleeping block starts to wake. -/
def State.wakeBlock (s : State) (b : Nat) : State :=
  if s.blockState b ≤ 1 ∧ ¬ s.blockDead b ∧ s.fld Reg.pwrState 2 0 = 2 then
    (s.setBlockState b 2).bump (dieReg (b / 32) Reg.clkWakeCnt)
  else s

/-! Fault records (R339-R343). -/

/-- A record as 32 bytes (Table 15-2). -/
def FaultRec.bytes (r : FaultRec) : Bytes :=
  natLe 8 r.unit ++ natLe 8 r.time ++ natLe 2 r.cause ++ natLe 1 (r.severity + b2n r.permanent * 4) ++ natLe 1 r.spare ++
    natLe 4 r.epoch ++ natLe 8 r.detail

/-- Remove the oldest notice record, if any. -/
def dropNotice : List FaultRec → Option (List FaultRec)
  | [] => none
  | r :: q => if r.severity = 0 then some q else (dropNotice q).map (r :: ·)

/-- A record enters the queue of 1,024, or is lost as R341 states; a record that enters raises the interrupt (R342). -/
def State.queueFault (s : State) (r : FaultRec) : State :=
  let q := s.faults.queue
  let irq := fun (s : State) => if s.fld Reg.fltIrqCfg 1 0 ≤ r.severity then s.raiseIrq 0 else s
  if q.length < 1024 then irq (s.withFaults { s.faults with queue := q ++ [r] })
  else if r.severity = 2 then
    match dropNotice q with
    | some q' => irq ((s.bump Reg.fltRecLostCnt).withFaults { s.faults with queue := q' ++ [r] })
    | none => s.bump Reg.fltRecLostCnt
  else s.bump Reg.fltRecLostCnt

/-- Where a record counts: its die, or the package's own count (R342). -/
def faultCounter (u : Unit6) (permanent : Bool) : Nat :=
  if u.level = 6 then (if permanent then Reg.fltPermanentCnt else Reg.fltTransientCnt)
  else dieReg u.die (if permanent then Reg.fltDiePermanentCnt else Reg.fltDieTransientCnt)

/-- Raise a fault record about a unit (R341, R342), with its trace event. -/
def State.raiseFault (s : State) (u : Unit6) (cause severity : Nat) (permanent : Bool) (spare detail : Nat) : State :=
  let o := s.unitOwner u
  let r : FaultRec := ⟨s.reportAddr u, s.now, cause, severity, permanent, spare, s.ownerEpoch o, detail⟩
  let s1 := (s.bump (faultCounter u permanent)).queueFault r
  if u.level = 6 then s1 else s1.traceEvent u.die 0xFFFF 13 o (r.bytes.take 16)

/-- A corrected ECC event counts at its die and raises no record (R342). -/
def State.eccCorrected (s : State) (d : Nat) : State := s.bump (dieReg d Reg.fltDieEccCorrCnt)

/-! Tile counters (R391). -/

/-- Selector of tile counter `i` of a logical tile (R391). -/
def State.cntSelector (s : State) (l i : Nat) : Nat := rdLe (s.die (l / 2048)).active (128 + 256 * (l % 2048) + 144 + i) 1

/-- A tile-counter event of a physical tile happens `n` times. -/
def State.tileCount (s : State) (t ev n : Nat) : State :=
  match (s.tile t).idLogical with
  | none => s
  | some l =>
    if s.tileRole l = 6 then s
    else
      forEach (List.range 7) (fun i s =>
        if s.cntSelector l i = ev then
          s.modTile t fun x => { x with counts := mapPut 0 i (satAdd (mapGet 0 i x.counts) n) x.counts }
        else s) s

/-- The timing-dependent choice counter of a tile, TIL_CNT_7, with DET_TDC_SUM, which keeps the choices of tiles since retired (R14, R307). -/
def State.tdcTile (s : State) (t n : Nat) : State :=
  (s.modTile t fun x => { x with counts := mapPut 0 7 (satAdd (mapGet 0 7 x.counts) n) x.counts }).bumpBy Reg.detTdcSum n

/-- The timing-dependent choice counter of a port (R307). -/
def State.tdcPort (s : State) (e n : Nat) : State := s.bumpBy (portReg e Reg.detPortTdc) n

/-- A selectable port counter event (R392): code, class where it counts by class, and how many. -/
def State.portCount (s : State) (e ev : Nat) (cls : Option Nat) (n : Nat) : State :=
  let a := (s.die (16 + e / 32)).active
  forEach (List.range 28) (fun k s =>
    let sel := rdLe a (0x2B000 + 64 * (e % 32) + 2 * k) 2
    let hit := match cls with | some c => bit sel (8 + c) | none => true
    if sel % 256 == ev && hit then s.bumpBy (portReg e fun q => Reg.peePortCnt q k) n else s) s

end Sys2Proof.Machine
end

