-- ==== Sys2Proof/Machine/Fields.lean ====
section
/-! DEFINITION. What a write does to a register field by field (R7, R9, R10). -/

namespace Sys2Proof.Machine

/-- Bits of a field. -/
def Fld.mask (f : Fld) : Nat := (2 ^ (f.hi + 1 - f.lo) - 1) <<< f.lo

/-- Bits of a register with an access code. -/
def RegRow.mask (r : RegRow) (a : Access) : Nat := (r.fields.filter fun f => f.acc == a).foldl (fun m f => m ||| f.mask) 0

/-- The register after a write of `v` to the bits of `m`: RW bits take the value, W1C bits written as 1 clear. -/
def RegRow.write (r : RegRow) (old v m : Nat) : Nat :=
  let rw := r.mask .rw &&& m
  let clr := r.mask .w1c &&& m &&& v
  ((old &&& (2 ^ 64 - 1 - rw)) &&& (2 ^ 64 - 1 - clr)) ||| (v &&& rw)

/-- The whole value that a write of `v` to the bits of `m` means: RW bits not addressed keep what they hold. -/
def RegRow.whole (r : RegRow) (old v m : Nat) : Nat := (old &&& r.mask .rw &&& (2 ^ 64 - 1 - m)) ||| (v &&& m)

/-- Store a whole value in a register of BAR0 under its access codes. -/
def State.store (s : State) (a v : Nat) : State :=
  match regRow a with
  | some r => s.withReg a (BitVec.ofNat 64 (r.write (s.reg a).toNat v (2 ^ 64 - 1)))
  | none => s

/-- A discarded write (R8). -/
def State.refuse (s : State) (src : Src) (a : Nat) (c : BadCause) : State := s.badAccess src true a c

/-- A bit of PWR_EVENT is set (R367). -/
def State.powerEvent (s : State) (i : Nat) : State :=
  if s.fld Reg.pwrEvent i i = 1 then s else (s.withFld Reg.pwrEvent i i 1).raiseIrq 1

/-- RELEASED (1), LATE (2) or CANCELLED (3) of the start barrier is set (Table 17-3). -/
def State.barrierEvent (s : State) (i : Nat) : State := (s.withFld Reg.detBarrierStatus i i 1).raiseIrq 3

/-- DET_BARRIER_STATUS.ARMED. -/
def State.barrierArmed (s : State) : Bool := s.fld Reg.detBarrierStatus 0 0 == 1

/-- OWNER of the barrier. -/
def State.barrierOwner (s : State) : Nat := s.fld Reg.detBarrierCfg 5 0

/-- An armed barrier is not released (R310). -/
def State.barrierDropped (s : State) : State := (s.withFld Reg.detBarrierStatus 0 0 0).barrierEvent 3

end Sys2Proof.Machine
end

