-- ==== Sys2Proof/Machine/Crypto.lean ====
section
/-! DEFINITION. The published functions the spec names: SHA-384, ECDSA over P-384 (R49), CRC-32C, CRC-64 and GF(2^8).
The constants of SHA-384 and P-384 are those of FIPS 180-4 and FIPS 186-5 (log entry 25). -/

namespace Sys2Proof.Machine

/-- The largest number of at most `i` bits above `r`, a multiple of 2^i, whose `k`-th power does not exceed `n`. -/
def rootBits (k n : Nat) : Nat → Nat → Nat
  | 0, r => r
  | i + 1, r => rootBits k n i (if (r + 2 ^ i) ^ k ≤ n then r + 2 ^ i else r)

/-- The first 64 bits of the fractional part of the `k`-th root of a number below 2^16. -/
def rootFraction (k p : Nat) : Nat := rootBits k (p * 2 ^ (64 * k)) 80 0 % 2 ^ 64

/-- The 80 primes up to 409, in order. -/
def shaPrimes : List Nat :=
  (List.range 410).filter fun n => decide (2 ≤ n) && (List.range 20).all fun d => decide (d < 2) || d == n || n % d != 0

/-- Round constants of SHA-384: FIPS 180-4 takes them from the cube roots of the first 80 primes. -/
def shaK : List Nat := shaPrimes.map (rootFraction 3)

/-- Initial hash value of SHA-384: from the square roots of the 9th to the 16th prime. -/
def shaInit : List Nat := ((shaPrimes.drop 8).take 8).map (rootFraction 2)

/-- Rotate a 64-bit number right. -/
def rotr64 (x n : Nat) : Nat := (x >>> n ||| x <<< (64 - n)) % 2 ^ 64

/-- The message schedule: `n` more words after the last 16 (newest first). -/
def shaSchedule : Nat → List Nat → List Nat
  | 0, w => w
  | n + 1, w =>
    let a := nth w 1 0
    let b := nth w 14 0
    let s1 := rotr64 a 19 ^^^ rotr64 a 61 ^^^ a >>> 6
    let s0 := rotr64 b 1 ^^^ rotr64 b 8 ^^^ b >>> 7
    shaSchedule n ((nth w 15 0 + s0 + nth w 6 0 + s1) % 2 ^ 64 :: w)

/-- One round on (a..h). -/
def shaRound (st : List Nat) (kw : Nat) : List Nat :=
  match st with
  | [a, b, c, d, e, f, g, h] =>
    let s1 := rotr64 e 14 ^^^ rotr64 e 18 ^^^ rotr64 e 41
    let ch := (e &&& f) ^^^ ((2 ^ 64 - 1 - e) &&& g)
    let t1 := h + s1 + ch + kw
    let s0 := rotr64 a 28 ^^^ rotr64 a 34 ^^^ rotr64 a 39
    let mj := (a &&& b) ^^^ (a &&& c) ^^^ (b &&& c)
    [(t1 + s0 + mj) % 2 ^ 64, a, b, c, (d + t1) % 2 ^ 64, e, f, g]
  | s => s

/-- One 128 B block. -/
def shaBlock (h : List Nat) (blk : Bytes) : List Nat :=
  let w := (List.range 16).map fun i => beNat (slice blk (8 * i) 8)
  let ws := (shaSchedule 64 w.reverse).reverse
  let r := (List.zipWith (· + ·) shaK ws).foldl shaRound h
  List.zipWith (fun x y => (x + y) % 2 ^ 64) h r

/-- Blocks of 128 B in order. -/
def shaBlocks : Nat → List Nat → Bytes → List Nat
  | 0, h, _ => h
  | n + 1, h, b => shaBlocks n (shaBlock h (b.take 128)) (b.drop 128)

/-- SHA-384 of bytes. -/
def sha384 (m : Bytes) : Bytes :=
  let padLen := (239 - m.length % 128) % 128
  let p := m ++ [(0x80 : Byte)] ++ zeros padLen ++ natBe 16 (8 * m.length)
  ((shaBlocks (p.length / 128) shaInit p).take 6).flatMap (natBe 8)

/-! P-384 (y² = x³ - 3x + b), in Jacobian coordinates. -/

/-- The prime of P-384. -/
def p384P : Nat := 2 ^ 384 - 2 ^ 128 - 2 ^ 96 + 2 ^ 32 - 1
/-- The coefficient b. -/
def p384B : Nat := 0xb3312fa7e23ee7e4988e056be3f82d19181d9c6efe8141120314088f5013875ac656398d8a2ed19d2a85c8edd3ec2aef
/-- The order of the base point. -/
def p384N : Nat := 0xffffffffffffffffffffffffffffffffffffffffffffffffc7634d81f4372ddf581a0db248b0a77aecec196accc52973
/-- Base point x. -/
def p384Gx : Nat := 0xaa87ca22be8b05378eb1c71ef320ad746e1d3b628ba79b9859f741e082542a385502f25dbf55296c3a545e3872760ab7
/-- Base point y. -/
def p384Gy : Nat := 0x3617de4a96262c6f5d9e98bf9292dc29f8f41dbd289a147ce9da3113b5f0b8c00a60b1ce1d7e819d7a431d7c90ea0e5f

/-- b^e modulo m, over the low `n` bits of e. -/
def powModBits (m b e : Nat) : Nat → Nat
  | 0 => 1 % m
  | n + 1 =>
    let h := powModBits m b e n
    let s := h * h % m
    if bit e (384 - (n + 1)) then s * b % m else s

/-- Inverse modulo a 384-bit prime. -/
def invMod (m a : Nat) : Nat := powModBits m (a % m) (m - 2) 384

/-- A point: none at infinity. -/
abbrev JPoint := Option (Nat × Nat × Nat)

/-- a - b modulo the prime. -/
def subP (a b : Nat) : Nat := (a + p384P - b % p384P) % p384P

/-- Double a point. -/
def jDouble : JPoint → JPoint
  | none => none
  | some (x, y, z) =>
    if y = 0 then none
    else
      let y2 := y * y % p384P
      let s := 4 * x * y2 % p384P
      let z2 := z * z % p384P
      let m := 3 * subP x z2 * (x + z2) % p384P
      let x3 := subP (m * m) (2 * s)
      let y3 := subP (m * subP s x3) (8 * y2 * y2)
      some (x3, y3, 2 * y * z % p384P)

/-- Add two points. -/
def jAdd : JPoint → JPoint → JPoint
  | none, q => q
  | p, none => p
  | some (x1, y1, z1), some (x2, y2, z2) =>
    let a := z1 * z1 % p384P
    let b := z2 * z2 % p384P
    let u1 := x1 * b % p384P
    let u2 := x2 * a % p384P
    let s1 := y1 * b * z2 % p384P
    let s2 := y2 * a * z1 % p384P
    if u1 = u2 then (if s1 = s2 then jDouble (some (x1, y1, z1)) else none)
    else
      let h := subP u2 u1
      let r := subP s2 s1
      let h2 := h * h % p384P
      let h3 := h * h2 % p384P
      let v := u1 * h2 % p384P
      let x3 := subP (subP (r * r) h3) (2 * v)
      let y3 := subP (r * subP v x3) (s1 * h3)
      some (x3, y3, h * z1 * z2 % p384P)

/-- k times a point, over the high `n` bits of k. -/
def jMul (k : Nat) (q : JPoint) : Nat → JPoint
  | 0 => none
  | n + 1 =>
    let d := jDouble (jMul k q n)
    if bit k (384 - (n + 1)) then jAdd d q else d

/-- Whether a point in affine coordinates lies on the curve. -/
def onCurve (x y : Nat) : Bool :=
  decide (x < p384P) && decide (y < p384P) && decide (y * y % p384P = subP (x * x * x + p384B) (3 * x))

/-- ECDSA verification of SHA-384 hash bytes under an uncompressed public key of 97 B (FIPS 186-5). -/
def ecdsaVerify (pub hash r48 s48 : Bytes) : Bool :=
  let r := beNat r48
  let s := beNat s48
  let x := beNat (slice pub 1 48)
  let y := beNat (slice pub 49 48)
  if pub.head? ≠ some 4 ∨ ¬ onCurve x y ∨ r = 0 ∨ p384N ≤ r ∨ s = 0 ∨ p384N ≤ s then false
  else
    let w := invMod p384N s
    let u1 := beNat hash * w % p384N
    let u2 := r * w % p384N
    match jAdd (jMul u1 (some (p384Gx, p384Gy, 1)) 384) (jMul u2 (some (x, y, 1)) 384) with
    | none => false
    | some (px, _, pz) =>
      let zi := invMod p384P pz
      decide (px * (zi * zi % p384P) % p384P % p384N = r)

/-! CRCs. -/

/-- Eight steps of a reflected CRC. -/
def crcBits (poly : Nat) : Nat → Nat → Nat
  | 0, c => c
  | n + 1, c => crcBits poly n (if c % 2 = 1 then c >>> 1 ^^^ poly else c >>> 1)

/-- CRC-32C: reflected, initial value and final inversion all ones (R223). -/
def crc32c (b : Bytes) : Nat :=
  b.foldl (fun c x => crcBits 0x82F63B78 8 (c ^^^ x.toNat)) 0xFFFFFFFF ^^^ 0xFFFFFFFF

/-! GF(2^8) with polynomial 0x11D (R112). -/

/-- Multiply by x. -/
def gfX (a : Nat) : Nat := let d := a <<< 1; if d < 256 then d else d ^^^ 0x11D

/-- Product over the low `n` bits of `b`. -/
def gfMulBits : Nat → Nat → Nat → Nat
  | 0, _, _ => 0
  | n + 1, a, b => (if b % 2 = 1 then a else 0) ^^^ gfMulBits n (gfX a) (b >>> 1)

/-- Product in GF(2^8). -/
def gfMul (a b : Nat) : Nat := gfMulBits 8 a b

/-- a^n in GF(2^8). -/
def gfPow (a : Nat) : Nat → Nat
  | 0 => 1
  | n + 1 => gfMul a (gfPow a n)

/-- Inverse in GF(2^8); that of 0 is 0 (R112). -/
def gfInv (a : Nat) : Nat := if a = 0 then 0 else gfPow a 254

end Sys2Proof.Machine
end

