-- ==== Sys2Proof/Machine/Hbm.lean ====
section
/-! DEFINITION. HBM: capacity, windows and addresses (R318, R322-R324), and the controllers' reads and writes with ECC
(R327, R339, R340). -/

namespace Sys2Proof.Machine

/-- Whether a stack has trained (R317). -/
def State.trained (s : State) (k : Nat) : Bool := decide (k < 12) && bit (s.reg (memReg k Reg.memStatus)).toNat 0

/-- Capacity of a stack in 64 MiB units; 0 while it has not trained (R317, R318). -/
def State.capUnits (s : State) (k : Nat) : Nat := if k < 12 then s.fld (memReg k Reg.memStatus) 10 1 else 0

/-- Units a stack holds once trained (R318). -/
def fullUnits : Nat := if Config.isF768 then 953 else 476

/-- 64 MiB. -/
def unitBytes : Nat := 67108864

/-- Capacity in bytes. -/
def State.capBytes (s : State) (k : Nat) : Nat := s.capUnits k * unitBytes

/-- A window record (Table 2-9). -/
structure Window where
  id : Nat
  mask : Nat
  base : Nat
  size : Nat
  deriving DecidableEq, Repr

/-- A window record from its word. -/
def windowOf (w : Nat) : Window := ⟨bits w 7 0, bits w 19 8, bits w 35 20, bits w 51 36⟩

/-- Windows a PARTITION section lists. -/
def sectionWindows (sec : Bytes) : List Window :=
  (List.range (rdLe sec 2 1)).map fun i => windowOf (rdLe sec (64 + 16 * i) 8)

/-- Member stacks, ascending. -/
def Window.stacks (w : Window) : List Nat := maskBits w.mask 12

/-- Bytes a window spans (R322). -/
def Window.bytes (w : Window) : Nat := w.stacks.length * w.size * unitBytes

/-- Insert a window by ascending WINDOW_ID. -/
def insertWindow (w : Window) : List Window → List Window
  | [] => [w]
  | x :: r => if w.id < x.id then w :: x :: r else x :: insertWindow w r

/-- An owner's committed windows in ascending WINDOW_ID. -/
def State.windows (s : State) (o : Nat) : List Window :=
  (sectionWindows (s.partSec o)).foldl (fun l w => insertWindow w l) []

/-- The window that holds a whole range of owner addresses, with the offset in it (R322, R324). -/
def findWindow : List Window → Nat → Nat → Option (Window × Nat)
  | [], _, _ => none
  | w :: r, a, n =>
    if a < w.bytes then (if a + n ≤ w.bytes then some (w, a) else none) else findWindow r (a - w.bytes) n

/-- Stack and stack offset of offset `o` in a window (R323). -/
def Window.locate (w : Window) (o : Nat) : Nat × Nat :=
  let k := w.stacks.length
  let c := o / 4096
  (nth w.stacks (c % k) 0, w.base * unitBytes + c / k * 4096 + o % 4096)

/-- Pieces of a range that stay within one 4 KiB chunk: (stack, stack offset, length). -/
def Window.pieces (w : Window) : Nat → Nat → Nat → List (Nat × Nat × Nat)
  | 0, _, _ => []
  | fuel + 1, o, n =>
    if n = 0 then []
    else
      let m := min n (4096 - o % 4096)
      let p := w.locate o
      (p.1, p.2, m) :: w.pieces fuel (o + m) (n - m)

/-- Pieces of a range of owner addresses, or none outside one window of the owner (R324). -/
def State.ownerPieces (s : State) (o a n : Nat) : Option (List (Nat × Nat × Nat)) :=
  match findWindow (s.windows o) a n with
  | none => none
  | some (w, x) => some (w.pieces (n / 4096 + 2) x n)

/-- A range lies in a window that a commit in progress has withdrawn from its owner (R52). -/
def State.windowGone (s : State) (o a n : Nat) : Bool :=
  match findWindow (s.windows o) a n with
  | none => false
  | some (w, _) => s.commit.withdrawn.any fun x => match x with | .window o' r => o' == o && windowOf r.toNat == w | _ => false

/-- A logical tile that a commit in progress has withdrawn from its owner (R52). -/
def State.tileGone (s : State) (l : Nat) : Bool := s.commit.withdrawn.contains (.tile l)

/-- A logical tile is withdrawn from this owner, whose accesses end as NO_ROUTE (R52). -/
def State.goneFrom (s : State) (l o : Nat) : Bool := s.tileGone l && s.tileOwner l == o

/-- Pseudo-channel of a stack offset: consecutive 256 B go to consecutive pseudo-channels (R323). -/
def pchOf (off : Nat) : Nat := off / 256 % 64

/-- 64 B blocks that a range touches. -/
def blocksOf (off n : Nat) : List Nat :=
  if n = 0 then [] else (List.range ((off + n - 1) / 64 - off / 64 + 1)).map (off / 64 + ·)

/-- The range touches a pseudo-channel under repair: its accesses are held (R340). -/
def State.hbmHeld (s : State) (k off n : Nat) : Bool :=
  match (s.ctrl k).repair with
  | none => false
  | some p => (blocksOf off n).any fun b => pchOf (b * 64) == p

/-- Retire a pseudo-channel (R340). -/
def State.retirePch (s : State) (k p : Nat) : State :=
  (s.modCtrl k fun c => { c with pchDead := c.pchDead ++ [p], repair := none }).raiseFault
    (Unit6.ofDie (stackDie k)) 0x1B 2 true 15 p

/-- Begin the repair of a row, or retire its pseudo-channel when no spare row is left (R340). The data of the row is lost:
the block named is marked by a free value (log entry 12). -/
def State.beginRepair (s : State) (k blk : Nat) : State :=
  let p := pchOf (blk * 64)
  let c := s.ctrl k
  if Config.spareRowLeft c.repaired then
    (s.withCtrl k { c with
      repair := some p, repaired := c.repaired + 1, bad := c.bad.erase blk, rewritten := c.rewritten.erase blk,
      mem := writeBytes c.mem (blk * 64) (s.freeBytes 64) }).useFreeN 64
  else s.retirePch k p

/-- Word of MEM_ECC_LAST. -/
def eccLast (k blk source : Nat) : Nat := (k <<< 36) + blk * 64 + source <<< 40

/-- Count and record an uncorrectable block (R327). -/
def State.countUncorr (s : State) (k blk source : Nat) : State :=
  (s.bump (memReg k Reg.memEccUncorrCnt)).withReg (memReg k Reg.memEccLast) (BitVec.ofNat 64 (eccLast k blk source))

/-- An uncorrectable block is met: counted, recorded, and judged permanent or not (R327, R339, R340). -/
def State.hbmUncorr (s : State) (k blk source : Nat) : State :=
  let s1 := (s.countUncorr k blk source).raiseFault (Unit6.ofDie (stackDie k)) (if source = 1 then 0x19 else 0x18)
    (if source = 1 then 2 else 1) false 15 (eccLast k blk source)
  let p := pchOf (blk * 64)
  let c := s1.ctrl k
  if c.pchDead.contains p then s1
  else if c.rewritten.contains blk then s1.beginRepair k blk
  else
    let evs := (mapGet [] p c.pchEvt).filter fun t => s1.clk.kclk < t + 900000000000
    let evs' := evs ++ [s1.clk.kclk]
    let s2 := s1.withCtrl k { c with pchEvt := mapPut [] p evs' c.pchEvt }
    if 64 ≤ evs'.length then s2.retirePch k p else s2

/-- A block becomes uncorrectable by a physical upset. -/
def State.hbmBreak (s : State) (k blk : Nat) : State :=
  if (s.ctrl k).bad.contains blk then s else s.modCtrl k fun c => { c with bad := c.bad ++ [blk] }

/-- A block reads as uncorrectable: broken, or on a retired pseudo-channel (R340). -/
def State.blockBad (s : State) (k blk : Nat) : Bool :=
  (s.ctrl k).bad.contains blk || (s.ctrl k).pchDead.contains (pchOf (blk * 64))

/-- A read of stack bytes: counts, data, and whether a block was uncorrectable (R326, R327). -/
def State.hbmRead (s : State) (k off n : Nat) (spec : Bool) (source : Nat) : State × Bytes × Bool :=
  let bl := blocksOf off n
  let s1 := s.bumpBy (memReg k (if spec then Reg.memSpecRdCnt else Reg.memRdCnt)) bl.length
  let bad := bl.filter (s1.blockBad k)
  let s2 := forEach bad (fun b s => s.hbmUncorr k b source) s1
  (s2, readBytes (s.ctrl k).mem off n, !bad.isEmpty)

/-- Bytes `data` written from `off`: the part in block `b`. -/
def blockPart (off : Nat) (data : Bytes) (b : Nat) : Nat × Bytes :=
  let lo := max off (b * 64)
  let hi := min (off + data.length) (b * 64 + 64)
  (lo, slice data (lo - off) (hi - lo))

/-- A write of one block's part: replaces a whole block, discards a part of an uncorrectable one (R327); discards on a
retired pseudo-channel (R340). -/
def State.writeBlock (s : State) (k off : Nat) (data : Bytes) (b : Nat) : State × Bool :=
  let s0 := s.bump (memReg k Reg.memWrCnt)
  let p := blockPart off data b
  let c := s.ctrl k
  if c.pchDead.contains (pchOf (b * 64)) then (s0.bump (memReg k Reg.memEccUncorrCnt), false)
  else if c.bad.contains b then
    if p.2.length = 64 then
      (s0.withCtrl k { c with
        mem := writeBytes c.mem p.1 p.2, bad := c.bad.erase b,
        rewritten := if c.rewritten.contains b then c.rewritten else c.rewritten ++ [b] }, false)
    else (s0.hbmUncorr k b 0, true)
  else (s0.withCtrl k { c with mem := writeBytes c.mem p.1 p.2 }, false)

/-- A write of stack bytes; true when a part was discarded at an uncorrectable block. -/
def State.hbmWrite (s : State) (k off : Nat) (data : Bytes) : State × Bool :=
  (blocksOf off data.length).foldl
    (fun r b => let x := r.1.writeBlock k off data b; (x.1, r.2 || x.2)) (s, false)

/-! Check-value units on writes (R333). -/

/-- Address of a check unit's register: flow units 16 × n + u, window units 64 + 16 × stack + u (R338). -/
def chkReg (u : Nat) (port mem : Nat → Nat) : Nat :=
  if u < 64 then pdReg (u / 16) (port (u % 16)) else memReg ((u - 64) / 16) (mem ((u - 64) % 16))

/-- CHK_CTRL of a unit. -/
def chkCtrlA (u : Nat) : Nat := chkReg u Reg.chkCtrlP Reg.chkCtrl
/-- CHK_STATUS of a unit. -/
def chkStatusA (u : Nat) : Nat := chkReg u Reg.chkStatusP Reg.chkStatus
/-- CHK_WIN of a unit. -/
def chkWinA (u : Nat) : Nat := chkReg u Reg.chkWinP Reg.chkWin
/-- CHK_WIN_LEN of a unit. -/
def chkWinLenA (u : Nat) : Nat := chkReg u Reg.chkWinLenP Reg.chkWinLen

/-- Whether a unit is on and armed. -/
def State.chkActive (s : State) (u : Nat) : Bool := bit (s.reg (chkCtrlA u)).toNat 0 && bit (s.reg (chkStatusA u)).toNat 0

/-- Window units whose status register is listed: only those can be armed. -/
def State.windowUnits (s : State) : List Nat :=
  (List.range 192).map (64 + ·) |>.filter fun u => s.regs.any fun p => p.1 == chkStatusA u && bit p.2.toNat 0

/-- A write of an owner lands at owner address `a`: window units that watch it count the bytes (R333). -/
def State.chkWrite (s : State) (o a n : Nat) : State :=
  forEach s.windowUnits (fun u s =>
    let w := (s.reg (chkWinA u)).toNat
    let lo := bits w 39 0
    let hi := lo + 64 * s.fld (chkWinLenA u) 18 0
    if s.chkActive u && bits w 45 40 == o then
      let x := min hi (a + n) - max lo a
      s.modChk u fun c => { c with written := c.written + x }
    else s) s

/-! Owner accesses. -/

/-- Read a range of owner addresses that lies in one window: state, data, uncorrectable. -/
def State.readPieces (s : State) (ps : List (Nat × Nat × Nat)) (spec : Bool) (source : Nat) : State × Bytes × Bool :=
  ps.foldl (fun r p =>
    let x := r.1.hbmRead p.1 p.2.1 p.2.2 spec source
    (x.1, r.2.1 ++ x.2.1, r.2.2 || x.2.2)) (s, [], false)

/-- Write a range of owner addresses that lies in one window: state, and whether a part was discarded. -/
def State.writePieces (s : State) (ps : List (Nat × Nat × Nat)) (data : Bytes) : State × Bool :=
  let r := ps.foldl (fun (r : State × Bytes × Bool) p =>
    let x := r.1.hbmWrite p.1 p.2.1 (r.2.1.take p.2.2)
    (x.1, r.2.1.drop p.2.2, r.2.2 || x.2)) (s, data, false)
  (r.1, r.2.2)

/-- Whether any piece is held by a row repair. -/
def State.piecesHeld (s : State) (ps : List (Nat × Nat × Nat)) : Bool := ps.any fun p => s.hbmHeld p.1 p.2.1 p.2.2

/-- A write of an owner to its windows: check units see it. -/
def State.ownerWrite (s : State) (o a : Nat) (ps : List (Nat × Nat × Nat)) (data : Bytes) : State × Bool :=
  let r := s.writePieces ps data
  (r.1.chkWrite o a data.length, r.2)

end Sys2Proof.Machine
end

