-- ==== Sys2Proof/Machine/Punnet.lean ====
section
/-! DEFINITION. Punnets: packet buffers and memory punnets (R244-R253). -/

namespace Sys2Proof.Machine

/-- Buffer size of PK0-PK3. -/
def pkSize (i : Nat) : Nat := 256 * 4 ^ i
/-- Buffer size of HM0-HM3. -/
def hmSize (i : Nat) : Nat := 65536 * 4 ^ i

/-- A buffer nobody holds. -/
def Buf.empty : Buf := ⟨.free, 0, none⟩

/-- Packet punnet i of a port die before any carving: all of the packet buffer as PK0 (log entry 13). -/
def defaultPool (i : Nat) : Punnet := if i = 0 then ⟨true, 0, 0, 0, 393216, [], [], 0, 393216⟩ else Punnet.off

/-- Packet punnet i of port die n. -/
def State.pool (s : State) (n i : Nat) : Punnet := mapGet (defaultPool i) i (s.pdie n).pools

/-- Replace a packet punnet. -/
def State.withPool (s : State) (n i : Nat) (p : Punnet) : State :=
  s.modPdie n fun d => { d with pools := mapPut (defaultPool i) i p d.pools }

/-- Memory punnet i of controller k. -/
def State.hmPool (s : State) (k i : Nat) : Punnet := mapGet Punnet.off i (s.ctrl k).punnets

/-- Replace a memory punnet. -/
def State.withHmPool (s : State) (k i : Nat) (p : Punnet) : State :=
  s.modCtrl k fun c => { c with punnets := mapPut Punnet.off i p c.punnets }

/-- A buffer of a punnet. -/
def Punnet.buf (p : Punnet) (b : Nat) : Buf := mapGet Buf.empty b p.bufs

/-- Replace a buffer. -/
def Punnet.withBuf (p : Punnet) (b : Nat) (x : Buf) : Punnet := { p with bufs := mapPut Buf.empty b x p.bufs }

/-- Free buffers: those of the list that are not quarantined, and those never taken. -/
def Punnet.freeCount (p : Punnet) : Nat := (p.free.filter fun b => (p.buf b).st == .free).length + (p.count - p.fresh)

/-- Hand out a buffer with count 1; a quarantined buffer at the head of the list is skipped (R247, R248). -/
def Punnet.take (p : Punnet) : Option (Nat × Punnet) :=
  match p.free.dropWhile (fun b => (p.buf b).st != .free) with
  | b :: r => some (b, { p with free := r }.withBuf b ⟨.allocated, 1, none⟩)
  | [] =>
    if p.fresh < p.count then some (p.fresh, { p with free := [], fresh := p.fresh + 1 }.withBuf p.fresh ⟨.allocated, 1, none⟩)
    else none

/-- List a buffer that was never taken, with all below it, so that it can change state. -/
def Punnet.touch (p : Punnet) (b : Nat) : Punnet :=
  if p.fresh ≤ b ∧ b < p.count then
    { p with free := p.free ++ (List.range (b + 1 - p.fresh)).map (p.fresh + ·), fresh := b + 1 }
  else p

/-- Quarantine a buffer (R248, R249). The state array is no buffer of the punnet (R250). -/
def Punnet.quarantine (p : Punnet) (b : Nat) : Punnet :=
  let q := p.touch b
  let x := q.buf b
  if p.count ≤ b then p
  else q.withBuf b { x with st := match x.st with | .dirty | .quarDirty => .quarDirty | _ => .quarantined, cnt := 0 }

/-- Result of an operation on a buffer: the punnet, and whether the buffer enters the dirty queue. -/
def Punnet.drop (p : Punnet) (b : Nat) : Punnet × Bool :=
  let x := p.buf b
  if x.cnt ≤ 1 then (p.withBuf b ⟨.dirty, 0, none⟩, true) else (p.withBuf b { x with cnt := x.cnt - 1 }, false)

/-- Release a quarantined buffer into the dirty queue; one still dirty is there already. -/
def Punnet.release (p : Punnet) (b : Nat) : Punnet × Bool :=
  ({ p with free := p.free.erase b }.withBuf b ⟨.dirty, 0, none⟩, (p.buf b).st == .quarantined)

/-- A zeroed buffer leaves the dirty queue: onto the free list, or it stays quarantined (R249). -/
def Punnet.zeroed (p : Punnet) (b : Nat) : Punnet :=
  match (p.buf b).st with
  | .dirty => { p with free := b :: p.free }.withBuf b Buf.empty
  | .quarDirty => p.withBuf b ⟨.quarantined, 0, none⟩
  | _ => p

/-- Causes of a pointer fault (Tables 10-6, 10-7). -/
inductive PtrCause where
  | range | align | state | foreign | refOvf
  deriving DecidableEq, Repr

/-- Code of a cause. -/
def PtrCause.code : PtrCause → Nat
  | .range => 1 | .align => 2 | .state => 3 | .foreign => 4 | .refOvf => 5

/-- Pointer operations (R248). -/
inductive PtrOp where
  | ret | ref | release
  deriving DecidableEq, Repr

/-- The checks of R248 on a pointer at byte offset `o` of a punnet with buffers of `sz` bytes; `none` when all hold. -/
def ptrCheck (p : Punnet) (sz o : Nat) (op : PtrOp) (foreign : Bool) : Option PtrCause :=
  let b := o / sz
  let st := (p.buf b).st
  if o % sz ≠ 0 then some .align
  else if op = .release ∧ st ≠ .quarantined ∧ st ≠ .quarDirty then some .state
  else if op ≠ .release ∧ st ≠ .allocated then some .state
  else if foreign then some .foreign
  else if op = .ref ∧ 65535 ≤ (p.buf b).cnt then some .refOvf
  else none

/-- The punnet after an operation that passed, and whether the buffer enters the dirty queue. -/
def ptrApply (p : Punnet) (b : Nat) : PtrOp → Punnet × Bool
  | .ret => p.drop b
  | .ref => (p.withBuf b { p.buf b with cnt := (p.buf b).cnt + 1 }, false)
  | .release => p.release b

/-- Whether a failure quarantines the buffer (R248). -/
def quarantines (op : PtrOp) (c : PtrCause) : Bool := op != .release && (c == .align || c == .state)

/-! Packet punnets. -/

/-- Base of packet punnet i in the packet buffer: carved in order, each aligned to its buffer size (R244, log entry 13). -/
def State.pkBase (s : State) (n : Nat) : Nat → Nat
  | 0 => 0
  | i + 1 => ceilDiv (s.pkBase n i + (s.pool n i).count * pkSize i) (pkSize (i + 1)) * pkSize (i + 1)

/-- The punnet and offset a 32-bit pointer lies in. -/
def State.pkFind (s : State) (n ptr : Nat) : Option (Nat × Nat) :=
  ((List.range 4).find? fun i => decide (s.pkBase n i ≤ ptr) && decide (ptr < s.pkBase n i + (s.pool n i).count * pkSize i)).map
    fun i => (i, ptr - s.pkBase n i)

/-- Count and record a packet-pointer fault. -/
def State.pkFault (s : State) (n ptr : Nat) (c : PtrCause) : State :=
  (s.bump (pdReg n Reg.punPkFaultCnt)).withReg (pdReg n Reg.punPkFaultLast) (BitVec.ofNat 64 (ptr % 2 ^ 32 + c.code <<< 32))

/-- Put a packet buffer into the dirty queue. -/
def State.pkDirty (s : State) (n i b : Nat) : State := s.modPdie n fun d => { d with dirty := d.dirty ++ [(i, b)] }

/-- A pointer operation on a port die (R248). -/
def State.pkPtr (s : State) (n ptr : Nat) (op : PtrOp) : State :=
  match s.pkFind n ptr with
  | none => s.pkFault n ptr .range
  | some (i, o) =>
    let p := s.pool n i
    let b := o / pkSize i
    match ptrCheck p (pkSize i) o op false with
    | some c =>
      let s1 := if quarantines op c then s.withPool n i (p.quarantine b) else s
      s1.pkFault n ptr c
    | none =>
      let r := ptrApply p b op
      let s1 := s.withPool n i r.1
      if r.2 then s1.pkDirty n i b else s1

/-- Credits of the port records of a port die's committed punnet subsection (Table 10-5). -/
def State.portCredit (s : State) (e vc : Nat) : Nat :=
  let a := (s.die (16 + e / 32)).active
  if a.isEmpty then (if s.fabricMode (e / 32) && s.portOn e then Config.defaultCredit else 0)
  else rdLe a (0x280 + 64 * (e % 32) + 2 * vc) 2

/-- Credits the partner of a port still holds on a VC. -/
def State.rxCredit (s : State) (e vc : Nat) : Nat := mapGet (s.portCredit e vc) vc (s.port e).rxCred

/-- Fabric credits of a die that partners have not used (R245). -/
def State.unusedCredits (s : State) (n : Nat) : Nat :=
  ((List.range 32).map fun q => ((List.range 16).map (s.rxCredit (n * 32 + q))).sum).sum

/-- Take `k` PK0 buffers as a chain. -/
def State.takeChain (s : State) (n : Nat) : Nat → List (Nat × Nat) → Option (List (Nat × Nat) × State)
  | 0, l => some (l, s)
  | k + 1, l =>
    match (s.pool n 0).take with
    | none => none
    | some (b, p) => (s.withPool n 0 p).takeChain n k (l ++ [(0, b)])

/-- Link the buffers of a chain (R246). -/
def State.linkChain (s : State) (n : Nat) : List (Nat × Nat) → State
  | (i, a) :: (j, b) :: r =>
    let p := s.pool n i
    (s.withPool n i (p.withBuf a { p.buf a with next := some b })).linkChain n ((j, b) :: r)
  | _ => s

/-- Cells of a frame of `len` bytes. -/
def cellsOf (len : Nat) : Nat := max 1 (ceilDiv len 256)

/-- A packet buffer was asked of a free list that is empty (R249). -/
def State.pkEmpty (s : State) (n : Nat) : State := s.bump (pdReg n Reg.punPkEmptyCnt)

/-- Buffers for a transit or class 7 frame: a PK0 chain; `shared` when the express reserve and the unused fabric credits
must stay free (R245, R246). An empty list is counted (R249). -/
def State.transitAlloc (s : State) (n len : Nat) (shared : Bool) : State × Option (List (Nat × Nat)) :=
  let k := cellsOf len
  let free := (s.pool n 0).freeCount
  if shared ∧ k ≤ free ∧ free < 16384 + s.unusedCredits n + k then (s, none)
  else
    match s.takeChain n k [] with
    | none => (s.pkEmpty n, none)
    | some r => (r.2.linkChain n r.1, some r.1)

/-- One buffer of the first of these punnets that has one, else a PK0 chain; each empty list that is met is counted (R246, R249). -/
def State.fitAlloc (s : State) (n len : Nat) : List Nat → State × Option (List (Nat × Nat))
  | [] => s.transitAlloc n len true
  | i :: r =>
    match (s.pool n i).take with
    | some (b, p) => (s.withPool n i p, some [(i, b)])
    | none => (s.pkEmpty n).fitAlloc n len r

/-- Buffers for a local-source frame of class `c`, or for a sample (class 0): one buffer of the smallest fit, or a PK0 chain; a class 7 frame
is a PK0 chain that may take the express reserve (R245, R246). -/
def State.localAlloc (s : State) (n c len : Nat) : State × Option (List (Nat × Nat)) :=
  if c = 7 then s.transitAlloc n len false
  else if len ≤ 256 then s.transitAlloc n len true
  else s.fitAlloc n len ([1, 2, 3].filter fun i => decide (len ≤ pkSize i) && (s.pool n i).count != 0)

/-- Pointer of a packet buffer. -/
def State.pkAddr (s : State) (n : Nat) (ib : Nat × Nat) : Nat := s.pkBase n ib.1 + ib.2 * pkSize ib.1

/-- Give back the buffers of a frame: each pointer is checked as any that is handed back (R248). -/
def State.freeBufs (s : State) (n : Nat) (l : List (Nat × Nat)) : State := forEach l (fun ib s => s.pkPtr n (s.pkAddr n ib) .ret) s

/-- A return of this buffer frees it: its only holder gives it back (R248). -/
def State.lastHold (s : State) (n : Nat) (ib : Nat × Nat) : Bool :=
  let x := (s.pool n ib.1).buf ib.2
  x.st == .allocated && decide (x.cnt ≤ 1)

/-! Memory punnets. -/

/-- Start of a window in its owner's address space (R322). -/
def windowStart : List Window → Nat → Option Nat
  | [], _ => none
  | w :: r, id => if w.id = id then some 0 else (windowStart r id).map (w.bytes + ·)

/-- Owner of a committed window (WINDOW_ID is unique in the package). -/
def State.windowOwner (s : State) (id : Nat) : Option Nat :=
  (List.range 64).find? fun o => (s.windows o).any fun w => w.id == id

/-- A committed window by ID. -/
def State.windowById (s : State) (id : Nat) : Option Window :=
  match s.windowOwner id with
  | none => none
  | some o => (s.windows o).find? fun w => w.id == id

/-- Owner address of the region of a memory punnet. -/
def State.hmStart (s : State) (p : Punnet) : Option Nat := (windowStart (s.windows p.owner) p.window).map (· + p.base * 65536)

/-- Stack offset of the region of a memory punnet. -/
def State.hmOffset (s : State) (p : Punnet) : Nat :=
  match s.windowById p.window with
  | some w => w.base * unitBytes + p.base * 65536
  | none => 0

/-- The offset of an owner address in the region of memory punnet i, its state array included (R248, R250). -/
def State.hmHit (s : State) (k a i : Nat) : Option (Nat × Nat) :=
  let p := s.hmPool k i
  match s.hmStart p with
  | some b => if b ≤ a ∧ a < b + p.size * hmSize i then some (i, a - b) else none
  | none => none

/-- The memory punnet and offset that an owner address lies in: one in a window of the requester, whose address space it is (R322), before any
other, the lower number first (log entry 88). -/
def State.hmFind (s : State) (k a owner : Nat) : Option (Nat × Nat) :=
  (((List.range 4).filter fun i => (s.hmPool k i).owner == owner) ++ List.range 4).findSome? (s.hmHit k a)

/-- Code of a buffer state in its state word. -/
def bufCode : BufState → Nat
  | .free => 0 | .allocated => 1 | .dirty => 2 | .quarantined => 3 | .quarDirty => 4

/-- The state words of some buffers of a memory punnet are written, 4 B each, in the buffers after the last (R250, log entry 89). -/
def State.hmShow (s : State) (k i : Nat) (l : List Nat) : State :=
  let p := s.hmPool k i
  let at_ := s.hmOffset p + p.count * hmSize i
  s.modCtrl k fun c => { c with
    mem := l.foldl (fun m b => writeBytes m (at_ + 4 * b) (natLe 4 (Config.stateWord (bufCode (p.buf b).st) (p.buf b).cnt).toNat)) c.mem }

/-- One buffer of memory punnet i has changed: the punnet, and the buffer's state word. -/
def State.hmPut (s : State) (k i : Nat) (p : Punnet) (b : Nat) : State := (s.withHmPool k i p).hmShow k i [b]

/-- The first 8 bytes of a memory buffer: the link while it is free, zero when it is handed out (R247, log entry 89). -/
def State.hmLink (s : State) (k i b w : Nat) : State :=
  let o := s.hmOffset (s.hmPool k i) + b * hmSize i
  s.modCtrl k fun c => { c with mem := writeBytes c.mem o (natLe 8 w) }

/-- Count and record a memory-pointer fault, with its warning record (R253). -/
def State.hmFault (s : State) (k a i : Nat) (c : PtrCause) : State :=
  ((s.bump (memReg k Reg.punHmFaultCnt)).withReg (memReg k Reg.punHmFaultLast)
    (BitVec.ofNat 64 (a % 2 ^ 48 + c.code <<< 48))).raiseFault (Unit6.ofDie (stackDie k)) 0x1D 1 false 15 i

/-- Put a memory buffer into the dirty queue. -/
def State.hmDirty (s : State) (k i b : Nat) : State := s.modCtrl k fun c => { c with dirty := c.dirty ++ [(i, b)] }

/-- A pointer operation on a controller by an owner; owner 0 may act on every region (R248, R251). -/
def State.hmPtr (s : State) (k a owner : Nat) (op : PtrOp) : State :=
  match s.hmFind k a owner with
  | none => s.hmFault k a 0 .range
  | some (i, o) =>
    let p := s.hmPool k i
    let b := o / hmSize i
    match ptrCheck p (hmSize i) o op (owner != 0 && owner != p.owner) with
    | some c =>
      let s1 := if quarantines op c ∧ b < p.count then s.hmPut k i (p.quarantine b) b else s
      s1.hmFault k a i c
    | none =>
      let r := ptrApply p b op
      let s1 := s.hmPut k i r.1 b
      if r.2 then s1.hmDirty k i b else s1

/-- Allocate from the smallest enabled punnet of at least HMs with a free buffer: its answer and the state (R251). -/
def State.hmAlloc (s : State) (k sz : Nat) : Nat × State :=
  let try1 (i : Nat) : Option (Nat × State) :=
    let p := s.hmPool k i
    if i < sz ∨ ¬ p.en then none
    else
      match p.take, s.hmStart p with
      | some (b, p'), some st => some (st + b * hmSize i + i, (s.hmPut k i p' b).hmLink k i b 0)
      | _, _ => none
  match (List.range 4).findSome? try1 with
  | some r => r
  | none => (0, s.bump (memReg k Reg.punHmEmptyCnt))

/-- Whether two regions of a stack overlap. -/
def overlap (a n b m : Nat) : Bool := decide (a < b + m) && decide (b < a + n)

/-- Stack region of a punnet: offset and bytes. -/
def State.hmRegion (s : State) (k i : Nat) : Nat × Nat :=
  (s.hmOffset (s.hmPool k i), s.fld (memReg k (Reg.punHmCfg i)) 54 32 * 65536)

/-- The conditions of R250 on enabling memory punnet i with a configuration word. -/
def State.hmEnableOk (s : State) (k i w : Nat) : Bool :=
  let base := bits w 31 9 * 65536
  let size := bits w 54 32 * 65536
  match s.windowById (bits w 8 1) with
  | none => false
  | some win =>
    let off := win.base * unitBytes + base
    win.stacks == [k] && decide (base + size ≤ win.bytes) && decide (0 < size) && base % hmSize i == 0 && size % hmSize i == 0 &&
      off % hmSize i == 0 &&
      (List.range 4).all fun j => j == i || !(s.hmPool k j).en || !overlap off size (s.hmRegion k j).1 (s.hmRegion k j).2

/-- Buffers of an enabled region: those after the state array are not handed out (R250). -/
def hmCount (size b : Nat) : Nat := let n := size / b; n - ceilDiv (4 * n) b

/-- Enable memory punnet i: every buffer enters the dirty queue (R250). -/
def State.hmEnable (s : State) (k i w : Nat) : State :=
  let size := bits w 54 32 * 65536
  let n := hmCount size (hmSize i)
  let o := (s.windowOwner (bits w 8 1)).getD 0
  let bufs := (List.range n).foldl (fun m b => mapPut Buf.empty b ⟨.dirty, 0, none⟩ m) []
  let s1 := (s.withHmPool k i ⟨true, bits w 8 1, o, bits w 31 9, n, bufs, [], n, size / hmSize i⟩).hmShow k i (List.range n)
  s1.modCtrl k fun c => { c with dirty := (c.dirty.filter fun d => d.1 != i) ++ (List.range n).map fun b => (i, b) }

end Sys2Proof.Machine
end

