-- ==== Sys2Proof/Machine/Net.lean ====
section
/-! DEFINITION. Frames on the package: cell headers (Table 9-3), the packet mesh (R32, R33), remote-memory headers
(Table 12-5) and how a local source sends. -/

namespace Sys2Proof.Machine

/-! Cells. -/

/-- Cell types of Table 9-4. -/
def cellType (i n : Nat) : Nat := if n = 1 then 4 else if i = 0 then 1 else if i + 1 = n then 3 else 2

/-- A cell header (Table 9-3). -/
def cellHeader (f : Frame) (ty len vc : Nat) : Bytes :=
  natLe 1 (0x50 + ty) ++ natLe 1 (f.cls + vc <<< 3 + f.kind <<< 4) ++ natLe 2 len ++ natLe 2 f.dest ++ natLe 2 f.src ++
    natLe 4 (f.flow + b2n f.unord <<< 20 + b2n f.ce <<< 21 + b2n f.ece <<< 22) ++
    natLe 4 (if ty = 1 ∨ ty = 4 then bits f.origin 35 4 else 0)

/-- Cell `i` of a frame of `n` cells on a VC: 272 bytes. -/
def frameCell (f : Frame) (i n vc : Nat) : Bytes :=
  let p := slice f.payload (256 * i) 256
  cellHeader f (cellType i n) p.length vc ++ padTo 256 p

/-- An idle cell. -/
def idleCell : Bytes := natLe 1 0x50 ++ zeros 271

/-- A hold cell (R222). -/
def holdCellBytes (mask dur : Nat) : Bytes := natLe 1 0x55 ++ natLe 1 mask ++ zeros 2 ++ natLe 4 (dur % 2 ^ 24) ++ zeros 264

/-- First cell header of a frame as trace data (Table 17-8). -/
def frameHead (f : Frame) : Bytes := cellHeader f (cellType 0 (cellsOf f.payload.length)) (min 256 f.payload.length) f.vc

/-- The fabric time rebuilt from ORIGIN_TS: 64 bits, in the 2^36 units that end now (R218). -/
def rebuildOrigin (now ts : Nat) : Nat :=
  let t := now - now % 2 ^ 36 + ts * 16
  if t ≤ now then t else (t + 2 ^ 64 - 2 ^ 36) % 2 ^ 64

/-! Remote-memory headers (Table 12-5). -/

/-- REQ_ID. -/
def rqId (p : Bytes) : Nat := rdLe p 0 2
/-- OP. -/
def rqOp (p : Bytes) : Nat := rdLe p 2 1 % 16
/-- RSP_CLASS. -/
def rqRsp (p : Bytes) : Nat := rdLe p 2 1 / 32
/-- OWNER. -/
def rqOwner (p : Bytes) : Nat := rdLe p 3 1 % 64
/-- Requester tile. -/
def rqTile (p : Bytes) : Nat := rdLe p 4 2 % 2 ^ 15
/-- LEN. -/
def rqLen (p : Bytes) : Nat := rdLe p 6 2
/-- Fabric address. -/
def rqAddr (p : Bytes) : Nat := rdLe p 8 8
/-- ARG0. -/
def rqArg0 (p : Bytes) : Nat := rdLe p 16 8
/-- ARG1. -/
def rqArg1 (p : Bytes) : Nat := rdLe p 24 8

/-- A request header with its data. -/
def requestBytes (id op rsp owner tile len addr arg0 arg1 : Nat) (data : Bytes) : Bytes :=
  natLe 2 id ++ natLe 1 (op + rsp <<< 5) ++ natLe 1 owner ++ natLe 2 tile ++ natLe 2 len ++ natLe 8 addr ++ natLe 8 arg0 ++
    natLe 8 arg1 ++ data

/-- A response header with its data. -/
def responseBytes (id op status tile value : Nat) (data : Bytes) : Bytes :=
  natLe 2 id ++ natLe 1 op ++ natLe 1 status ++ natLe 2 tile ++ natLe 2 data.length ++ natLe 8 value ++ data

/-- The response to a request frame (R292). -/
def responseFrame (f : Frame) (node now status value : Nat) (data : Bytes) : Frame :=
  { kind := 2, cls := rqRsp f.payload, vc := 0, dest := f.src, src := node, flow := rqTile f.payload, unord := false, ce := false,
    ece := false, origin := now, payload := responseBytes (rqId f.payload) (rqOp f.payload) status (rqTile f.payload) value data }

/-! The packet mesh. Block stops are the blocks, die × 32 + b; then 16 stops on P0, 32 on P1, 16 on P2, 32 on P3. -/

/-- Row and column of a stop, one more than on the block grid: rows 1-16 and columns 1-32 are blocks. -/
def stopXY (k : Nat) : Nat × Nat :=
  if k < 512 then (k / 128 * 4 + k % 32 / 8 + 1, k / 32 % 4 * 8 + k % 8 + 1)
  else if k < 528 then (k - 512 + 1, 0)
  else if k < 560 then (0, k - 528 + 1)
  else if k < 576 then (k - 560 + 1, 33)
  else (17, k - 576 + 1)

/-- The stop at a row and column. -/
def stopAt (r c : Nat) : Nat :=
  if c = 0 then 512 + (r - 1)
  else if r = 0 then 528 + (c - 1)
  else if c = 33 then 560 + (r - 1)
  else if r = 17 then 576 + (c - 1)
  else (r - 1) / 4 * 128 + (c - 1) / 8 * 32 + (r - 1) % 4 * 8 + (c - 1) % 8

/-- The neighbour of a stop in a direction. -/
def stopNext (k : Nat) (d : Dir) : Nat :=
  let p := stopXY k
  match d with
  | .north => stopAt (p.1 - 1) p.2
  | .south => stopAt (p.1 + 1) p.2
  | .west => stopAt p.1 (p.2 - 1)
  | .east => stopAt p.1 (p.2 + 1)
  | .here => k

/-- Dimension order: along the row to the destination column, then along the column; a port stop has one link (R32). -/
def stopRoute (k dst : Nat) : Dir :=
  let p := stopXY k
  let q := stopXY dst
  let col := max 1 (min 32 q.2)
  if k = dst then .here
  else if p.2 = 0 then .east
  else if p.2 = 33 then .west
  else if p.1 = 0 then .south
  else if p.1 = 17 then .north
  else if p.2 < col then .east
  else if col < p.2 then .west
  else if p.1 < q.1 then .south
  else if q.1 < p.1 then .north
  else if q.2 = 0 then .west
  else .east

/-- The port-die stop of Pn that lies on the row (P0, P2) or column (P1, P3) of a stop. -/
def portStop (n k : Nat) : Nat :=
  let p := stopXY k
  let r := max 1 (min 16 p.1)
  let c := max 1 (min 32 p.2)
  match n with
  | 0 => stopAt r 0 | 1 => stopAt 0 c | 2 => stopAt r 33 | _ => stopAt 17 c

/-- The port die of a stop, if it is one of a port die. -/
def stopPortDie (k : Nat) : Option Nat :=
  if k < 512 then none else if k < 528 then some 0 else if k < 560 then some 1 else if k < 576 then some 2 else some 3

/-- VC of a frame (Table 1-6). A remote request or response of class 7 fits two rows of the table and takes VC0 (DESIGN CHOICE, log entry
67). -/
def meshVc (f : Frame) : Nat :=
  if f.cls = 7 ∨ (f.kind = 1 ∧ rqOp f.payload = 8) then 0
  else if f.kind = 1 ∨ (f.kind = 3 ∧ rdLe f.payload 6 1 = 1) then 1
  else if f.kind = 2 then 2
  else 3

/-- A message for a block that reaches the block's stop wakes it (R355). -/
def State.wakeAt (s : State) (k dst : Nat) : State := if k = dst ∧ k < 512 then s.wakeBlock k else s

/-- A frame enters the mesh at a stop. -/
def State.meshPut (s : State) (k dst : Nat) (f : Frame) : State :=
  (s.modStop k fun x => { x with queue := x.queue ++ [⟨dst, meshVc f, f, 4⟩] }).wakeAt k dst

/-- Where a frame for this node goes from a stop: a request to its home port die Pn, n = requester tile [1:0] (R294); a
response to the block of its tile; a collective message to the port die's collective stage of the group tag (log entry 27). -/
def localStop (k : Nat) (f : Frame) : Nat :=
  if f.kind = 1 then portStop (rqTile f.payload % 4) k
  else if f.kind = 2 then tileBlock (f.flow % 2 ^ 15)
  else portStop (f.flow % 4) k

/-- A local source at a stop sends a frame: to its home port die, or straight to a unit of this node (log entry 27). -/
def State.sendFrame (s : State) (k home : Nat) (f : Frame) : State :=
  s.meshPut k (if f.dest = s.node then localStop k f else portStop (home % 4) k) f

/-- A tile sends a frame. -/
def State.tileSend (s : State) (l : Nat) (f : Frame) : State := s.sendFrame (tileBlock l) l f

/-- A collective message of this node ended in NO_ROUTE: every entry of its tag has lost that neighbour (R201). -/
def State.colUnreached (s : State) (f : Frame) : State :=
  s.withGroups (s.groups.map fun x =>
    (x.1, if x.2.tag = rdLe f.payload 0 4 ∧ ¬ x.2.lost.contains f.dest then { x.2 with lost := x.2.lost ++ [f.dest] } else x.2))

/-- A stop answers a request that cannot go on (R33, R278); the end of a collective message of this node is noted (R201). -/
def State.answerNoRoute (s : State) (k : Nat) (f : Frame) : State :=
  if f.kind = 1 then s.sendFrame k (rqTile f.payload) (responseFrame f s.node s.now 5 0 [])
  else if f.kind = 3 ∧ f.src = s.node then s.colUnreached f
  else s

/-- A message is discarded at a live stop, which counts it and answers a request NO_ROUTE (R33). -/
def State.discardAt (s : State) (k : Nat) (f : Frame) : State :=
  (s.modStop k fun x => { x with discards := x.discards + 1 }).answerNoRoute k f

/-- Code of an output of a stop. -/
def dirCode : Dir → Nat
  | .north => 0 | .east => 1 | .south => 2 | .west => 3 | .here => 4

/-- The input of the next stop on which a message sent by an output comes in. -/
def viaOf (d : Dir) : Nat := (dirCode d + 2) % 4

/-- A message passes over a link to the next stop. -/
def State.meshPass (s : State) (k : Nat) (d : Dir) (m : MeshFlit) : State :=
  (s.modStop (stopNext k d) fun x => { x with queue := x.queue ++ [{ m with via := viaOf d }] }).wakeAt (stopNext k d) m.dst

end Sys2Proof.Machine
end

