-- ==== Sys2Proof/Machine/Switch.lean ====
section
/-! DEFINITION. The switch of a port die: lookup and path choice (R237, R238, R277-R281), admission (R234), queues (R233),
flow control (R236), ageing (R239), sampling (R240), marking and echo (R241, R242), and flow-mode check units (R332, R334). -/

namespace Sys2Proof.Machine

/-! Ports and queues. -/

/-- LNK_PORT_STATUS.STATE of a port. -/
def State.linkState (s : State) (e : Nat) : Nat := s.fld (portReg e Reg.lnkPortStatus) 2 0

/-- Whether a port is up. -/
def State.portUp (s : State) (e : Nat) : Bool := s.portOn e && s.linkState e == 2

/-- Whether a port may stay in a next-hop set: enabled and not retired (R278, R279). -/
def State.portLive (s : State) (e : Nat) : Bool := s.portOn e && s.linkState e != 5

/-- A port runs fabric mode. -/
def State.fabricPort (s : State) (e : Nat) : Bool := s.fabricMode (e / 32)

/-- MAX_FRAME of a port. -/
def State.maxFrame (s : State) (e : Nat) : Nat := bits (s.portRec e) 37 23

/-- Length of a frame on a port: an Ethernet frame has its FCS (R211). -/
def State.wireLen (s : State) (e : Nat) (f : Frame) : Nat := f.payload.length + (if s.fabricPort e then 0 else 4)

/-- Key of a VOQ. -/
def voqKey (ingress e c : Nat) : Nat := (ingress * 128 + e) * 8 + c
/-- Key of a local-delivery queue. -/
def localKey (ingress c : Nat) : Nat := ingress * 8 + c
/-- Key of an injection queue. -/
def injKey (e c : Nat) : Nat := e * 8 + c

/-- Bytes in a queue. -/
def queueBytes (q : List QFrame) : Nat := (q.map (·.len)).sum

/-- Length of a frame for the scheduler: MAX_FRAME of its ingress port while its last cell has not arrived (R257). -/
def State.schedLen (s : State) (e : Nat) (q : QFrame) : Nat := if q.growing then s.maxFrame q.ingress else s.wireLen e q.f

/-- Frames parked on any die. -/
def State.parkedAll (s : State) : List Parked := (List.range 4).flatMap fun n => (s.pdie n).parked

/-- Frames that have arrived: queued, parked or in transmission. -/
def State.heldFrames (s : State) : List QFrame :=
  (s.voq.flatMap fun x => x.2) ++ (s.localQ.flatMap fun x => x.2) ++ s.parkedAll.map (·.q) ++
    s.ports.flatMap fun x => x.2.tx.filterMap fun y => y.2.map (·.q)

/-- Buffer bytes held by an ingress port's frames of a class (R236); a buffer that two copies share counts once. -/
def State.heldBytes (s : State) (p c : Nat) : Nat :=
  ((((s.heldFrames.filter fun q => q.ingress == p && q.cls == c).flatMap (·.bufs)).dedup).map fun b => pkSize b.1).sum

/-- Change frames wherever the packet buffer of die `n` holds them for a port or for local delivery. -/
def State.mapFrames (s : State) (n : Nat) (f : QFrame → QFrame) : State :=
  let s1 := (s.withVoq (s.voq.map fun p => (p.1, p.2.map f))).withLocalQ (s.localQ.map fun p => (p.1, p.2.map f))
  let s2 := s1.modPdie n fun d => { d with parked := d.parked.map fun x => { x with q := f x.q } }
  forEach (List.range 128) (fun k s => s.modPort k fun p => { p with
    tx := p.tx.map fun x => (x.1, x.2.map fun t => { t with q := f t.q }) }) s2

/-- Queue `i` of the round of an egress port and class: ingress ports in order, the injection queue last (R233). -/
def State.roundQueue (s : State) (e c i : Nat) : List QFrame := if i < 128 then s.voqOf (voqKey i e c) else s.injOf (injKey e c)

/-- Replace a queue of the round. -/
def State.withRoundQueue (s : State) (e c i : Nat) (q : List QFrame) : State :=
  if i < 128 then s.withVoqOf (voqKey i e c) q else s.withInjOf (injKey e c) q

/-- Queues of the round in the order of service from a pointer. -/
def roundOrder (start : Nat) : List Nat := (List.range 129).map fun i => (start + i) % 129

/-- The class's next frame at a port, with its queue: fixed once it has a tag pair (R256). -/
def State.nextFrame (s : State) (e c : Nat) : Option (Nat × QFrame) :=
  match mapGet none c (s.port e).tags with
  | some x => (s.roundQueue e c x.1).head?.map fun q => (x.1, q)
  | none => (roundOrder (mapGet 0 c (s.port e).rr)).findSome? fun i => (s.roundQueue e c i).head?.map fun q => (i, q)

/-- An open transmission of a class. -/
def State.txOpen (s : State) (e c : Nat) : Option TxOpen := mapGet none c (s.port e).tx

/-- Classes open now, as SHU_STATUS.OPEN holds them. -/
def State.shuOpen (s : State) (e : Nat) : Nat := s.fld (portReg e Reg.shuStatus) 18 11

/-! Counting. -/

/-- DET_STATUS.ACTIVE. -/
def State.detOn (s : State) : Bool := s.fld Reg.detStatus 0 0 == 1

/-- An external arrival in a run (R301). -/
def State.external (s : State) (n : Nat) : State := if s.detOn then s.bumpBy Reg.detExtCnt n else s

/-- A trace event of a port (R388). -/
def State.tracePort (s : State) (e event : Nat) (data : Bytes) : State :=
  s.traceEvent (16 + e / 32) (0x1000 + e) event (s.portOwner e) data

/-- A frame is dropped at a port: a counter of the port, by its offset, and the trace event (R392, Table 17-8). -/
def State.dropAt (s : State) (e : Nat) (r : Nat → Nat) (f : Frame) : State :=
  (s.bump (portReg e r)).tracePort e 10 ((frameHead f).take 12 ++ natLe 4 (r (e % 32)))

/-! Flow control sent (R236). -/

/-- SWI_PORT_FC fields in bytes: XOFF, XON. -/
def State.xoff (s : State) (p : Nat) : Nat × Nat :=
  (s.fld (portReg p Reg.swiPortFc) 15 0 * 4096, s.fld (portReg p Reg.swiPortFc) 31 16 * 4096)

/-- Priorities that LNK_PFC_MAP maps to a class (R213). -/
def State.pfcPrios (s : State) (p c : Nat) : Nat :=
  maskOf ((List.range 8).filter fun i => s.fld (portReg p Reg.lnkPfcMap) (3 * i + 2) (3 * i) == c)

/-- Send flow control for a set of classes of a port with a time of zero or the longest; a hold cell waits for the port's next
cell slot (log entry 28). -/
def State.sendFlow (s : State) (p mask : Nat) (on : Bool) : State :=
  if s.fabricPort p then s.modPort p fun t => { t with holdOut := t.holdOut ++ [(mask, if on then 0xFFFFFF else 0)] }
  else if bit (s.portRec p) 19 then
    s.emit (.flowControl p true (maskOf ((maskBits mask 7).flatMap fun c => maskBits (s.pfcPrios p c) 8)) (if on then 0xFFFF else 0))
  else s.emit (.flowControl p false mask (if on then 0xFFFF else 0))

/-- Whether a port sends flow control at all. -/
def State.flowOn (s : State) (p : Nat) : Bool :=
  if s.fabricPort p then s.fld (portReg p Reg.swiPortFc) 32 32 == 1 else bit (s.portRec p) 19 || bit (s.portRec p) 20

/-- The bytes of a class of an ingress port rose or fell: flow control where a threshold is crossed. A new hold cell names
every class then above XOFF. -/
def State.flowCheck (s : State) (p c : Nat) : State :=
  if 128 ≤ p ∨ c = 7 ∨ ¬ s.flowOn p then s
  else
    let h := s.heldBytes p c
    let x := s.xoff p
    let out := (s.port p).fcOut
    if x.1 < h ∧ ¬ bit out c then
      let mask := if s.fabricPort p then maskOf ((List.range 7).filter fun c => decide (x.1 < s.heldBytes p c)) else 1 <<< c
      (s.modPort p fun t => { t with fcOut := t.fcOut ||| mask }).sendFlow p mask true
    else if h ≤ x.2 ∧ bit out c then
      (s.modPort p fun t => { t with fcOut := t.fcOut - 1 <<< c }).sendFlow p (1 <<< c) false
    else s

/-- Return the credits of cells whose buffers were never taken or are given up (R221, R235). -/
def State.returnCells (s : State) (p v n : Nat) : State :=
  s.modPort p fun t => { t with
    freed := mapPut 0 v (mapGet 0 v t.freed + n) t.freed,
    rxCred := mapPut (s.portCredit p v) v (mapGet (s.portCredit p v) v t.rxCred + n) t.rxCred }

/-- Replace the reassembly of a stream. -/
def State.withAsm (s : State) (p v : Nat) (a : Asm) : State := s.modPort p fun t => { t with asm := mapPut Asm.idle v a t.asm }

/-- A frame gives up its buffers: a credit goes back to the VC of arrival for each that is freed, and flow control may end (R235, R236). The
cells to come of a frame that was cut through are discarded. -/
def State.release (s : State) (die : Nat) (q : QFrame) : State :=
  let n := (q.bufs.filter (s.lastHold die)).length
  let s1 := s.freeBufs die q.bufs
  let s2 := match q.credit with
    | some v => s1.returnCells q.ingress v n
    | none => s1
  let s3 := if q.growing then s2.withAsm q.ingress (2 * q.f.cls + q.f.vc) Asm.skipping else s2
  s3.flowCheck q.ingress q.cls

/-- Die whose packet buffer holds a frame bound for port `e`. -/
def QFrame.die (q : QFrame) (e : Nat) : Nat := if q.ingress < 128 then q.ingress / 32 else e / 32

/-! Check-value units in flow mode (R332, R334, R335). -/

/-- CRC-64 of R331. -/
def crc64 (b : Bytes) : Nat :=
  b.foldl (fun c x => (List.range 8).foldl (fun c _ =>
    if bit c 63 then (c <<< 1 ^^^ 0x42F0E1EBA9EA3693) % 2 ^ 64 else c <<< 1 % 2 ^ 64) (c ^^^ x.toNat <<< 56)) 0

/-- Set a status bit of a unit that raises its interrupt and a notice record (R335). -/
def State.chkFlag (s : State) (u b : Nat) : State :=
  ((s.withFld (chkStatusA u) b b 1).raiseIrq (16 + u)).raiseFault
    (Unit6.ofDie (if u < 64 then 16 + u / 16 else stackDie ((u - 64) / 16))) 0x1E 0 false 15 (u % 16)

/-- The alive test of Table 14-3 on a value: whether it is accepted. -/
def State.chkAlive (s : State) (u a : Nat) : State × Bool :=
  let acc (s : State) : State := (s.modChk u fun c => { c with alive := some a }).withFld (chkStatusA u) 14 7 a
  match (s.chk u).alive with
  | none => (acc s, true)
  | some p =>
    let d := (a + 256 - p) % 256
    if d = 1 then (acc s, true)
    else if d = 0 then ((s.bump (chkReg u Reg.chkRepeatCntP Reg.chkRepeatCnt)).chkFlag u 2, false)
    else (acc ((s.bumpBy (chkReg u Reg.chkLossCntP Reg.chkLossCnt) (d - 1)).chkFlag u 3), true)

/-- End a block over covered bytes `b`: result, comparison, interrupt (R335). -/
def State.chkCompare (s : State) (u : Nat) (b : Bytes) : State :=
  let ctl := (s.reg (chkCtrlA u)).toNat
  let n := if bit ctl 3 then 8 else 4
  let body := if bit ctl 5 then b.take (b.length - n) else b
  let want := if bit ctl 5 then leNat (b.drop (b.length - n)) else (s.reg (chkReg u Reg.chkExpectP Reg.chkExpect)).toNat % 256 ^ n
  let got := if bit ctl 3 then crc64 body else crc32c body
  let s1 := ((s.withReg (chkReg u Reg.chkResultP Reg.chkResult) (BitVec.ofNat 64 got)).withFld (chkStatusA u) 4 4 1).bump
    (chkReg u Reg.chkBlockCntP Reg.chkBlockCnt)
  let s2 := if got = want then s1 else (s1.bump (chkReg u Reg.chkMismatchCntP Reg.chkMismatchCnt)).chkFlag u 1
  s2.traceEvent (if u < 64 then 16 + u / 16 else stackDie ((u - 64) / 16)) 0xFFFF 15 0 (natLe 8 u ++ natLe 8 got)

/-- BLOCK_FRAMES of a unit. -/
def State.chkFrames (s : State) (u : Nat) : Nat := s.fld (chkCtrlA u) 31 16

/-- End a flow block that is complete. -/
def State.chkFlowEnd (s : State) (u : Nat) : State :=
  let c := s.chk u
  if s.chkFrames u ≤ c.frames ∧ 0 < c.frames then
    (s.modChk u fun c => { c with bytes := [], frames := 0 }).chkCompare u c.bytes
  else s

/-- A frame passes a watching unit: taken, excluded as a repeat, or counted as a loss. -/
def State.chkTake (s : State) (u : Nat) (f : Frame) : State :=
  let s0 := s.chkFlowEnd u
  let ctl := (s0.reg (chkCtrlA u)).toNat
  let ofs := bits ctl 15 8
  let r := if ¬ bit ctl 6 then (s0, true)
    else if f.payload.length < ofs + 1 then (s0.withFld (chkStatusA u) 5 5 1, true)
    else s0.chkAlive u (nth f.payload ofs 0).toNat
  if r.2 then r.1.modChk u fun c => { c with bytes := c.bytes ++ f.payload, frames := c.frames + 1 } else r.1

/-- A frame passes port `e` in a direction: the units of its die that match take it (R332). -/
def State.chkFrame (s : State) (e dir : Nat) (f : Frame) : State :=
  forEach ((List.range 16).map (16 * (e / 32) + ·)) (fun u s =>
    let w := (s.reg (chkReg u Reg.chkSelP Reg.chkSel)).toNat
    if s.chkActive u && bits w 4 0 == e % 32 && bits w 5 5 == dir && bits w 25 6 == f.flow &&
        (!bit w 54 || bits w 39 26 == f.src) && (!bit w 55 || bits w 53 40 == f.dest) then s.chkTake u f
    else s) s

/-! Sampling (R240). -/

/-- Room in a host receive queue (R376). -/
def State.hrqRoom (s : State) (q : Nat) : Bool :=
  let cfg := (s.b4 (Reg.hrqCfg q)).toNat
  let n := 2 ^ bits cfg 3 0
  bit cfg 4 && decide (((s.b4 (Reg.hrqTail q)).toNat + 1) % n ≠ (s.b4 (Reg.hrqHead q)).toNat % n)

/-- Write a sample into a host receive queue and advance its tail (R376). -/
def State.hrqPut (s : State) (q : Nat) (data : Bytes) : State :=
  let n := 2 ^ bits (s.b4 (Reg.hrqCfg q)).toNat 3 0
  let t := (s.b4 (Reg.hrqTail q)).toNat % n
  ((s.emit (.hostWrite ((s.b4 (Reg.hrqBase q)).toNat + 1024 * t) data)).withB4 (Reg.hrqTail q)
    (BitVec.ofNat 64 ((t + 1) % n))).raiseIrq (768 + q)

/-- A frame passes the sampler of a port (R240). -/
def State.sample (s : State) (e dir : Nat) (f : Frame) (len : Nat) : State :=
  let w := (s.reg (portReg e Reg.swiSampleCtrl)).toNat
  if ¬ bit w 0 ∨ bits w 1 1 ≠ dir then s
  else
    let n := (s.port e).sampled + 1
    if n < bits w 26 3 + 1 then s.modPort e fun t => { t with sampled := n }
    else
      let s1 := s.modPort e fun t => { t with sampled := 0 }
      let snap := f.payload.take (64 * bits w 30 27)
      let rec_ := natLe 8 f.origin ++ natLe 8 s.now ++ natLe 1 (e / 32) ++ natLe 1 (e % 32) ++ natLe 1 f.cls ++ natLe 1 dir ++
        natLe 4 len ++ zeros 8 ++ snap
      let q := bits w 36 31
      match s1.localAlloc (e / 32) 0 rec_.length with
      | (s2, none) => s2.bump (portReg e Reg.swiSampleDropCnt)
      | (s2, some b) =>
        if bits w 2 2 = 0 then (s2.emit (.sample rec_)).freeBufs (e / 32) b
        else if s1.hrqRoom q then (s2.hrqPut q rec_).freeBufs (e / 32) b
        else (s2.bump (portReg e Reg.swiSampleDropCnt)).freeBufs (e / 32) b

/-! Lookup (R237, R238, R277-R281). -/

/-- Path hash (R237). -/
def pathHash (f : Frame) : Nat := crc32c (natLe 2 f.src ++ natLe 2 f.dest ++ natLe 3 f.flow)

/-- Header of an Ethernet payload: outermost VLAN ID, EtherType, offset of what follows. -/
def etherHead (p : Bytes) : Nat × Nat × Nat :=
  let et := beNat (slice p 12 2)
  if et = 0x8100 ∨ et = 0x88A8 then (beNat (slice p 14 2) % 4096, beNat (slice p 16 2), 18) else (0, et, 14)

/-- FLOW of a frame from an Ethernet port (R237). -/
def etherFlow (p : Bytes) : Nat :=
  let h := etherHead p
  let o := h.2.2
  let l4 (proto off : Nat) : Bytes := if proto = 6 ∨ proto = 17 then slice p off 4 else []
  let b := if h.2.1 = 0x0800 then
      let pr := rdLe p (o + 9) 1
      slice p (o + 12) 8 ++ natLe 1 pr ++ l4 pr (o + 4 * (rdLe p o 1 % 16))
    else if h.2.1 = 0x86DD then
      let pr := rdLe p (o + 6) 1
      slice p (o + 8) 32 ++ natLe 1 pr ++ l4 pr (o + 40)
    else slice p 0 12 ++ natLe 2 h.1
  crc32c b % 2 ^ 20

/-- The station entry that matches a MAC address and VLAN on a die, lowest index first: its second word. -/
def State.station (s : State) (n : Nat) (p : Bytes) : Option Nat :=
  let key := rdLe p 0 6 + ((etherHead p).1 + 4096) <<< 48
  (s.regs.find? fun x =>
    decide (pdReg n (Reg.rteActStationLo 0) ≤ x.1) && decide (x.1 < pdReg n (Reg.rteActStationLo 4096)) &&
      (x.1 - pdReg n (Reg.rteActStationLo 0)) % 16 == 0 && x.2.toNat % 2 ^ 61 == key).map fun x => (s.reg (x.1 + 8)).toNat

/-- Next hops of a node on a die: live ports of the named set, ascending; none when the entry is not valid (R278). -/
def State.hops (s : State) (n dest : Nat) : Option (List Nat) :=
  let w := (s.reg (pdReg n (Reg.rteActNode dest))).toNat
  if ¬ bit w 8 then none
  else
    let set := (s.reg (pdReg n (Reg.rteActSetLo (w % 256)))).toNat + (s.reg (pdReg n (Reg.rteActSetHi (w % 256)))).toNat <<< 64
    some ((maskBits set 128).filter s.portLive)

/-- Routing word of an egress port: DIM, SIGN, DATELINE (Table 12-1). -/
def State.portDir (s : State) (e : Nat) : Nat := rdLe s.commit.pkg (128 + e) 1

/-- The VC of a frame on a fabric egress port (R280). -/
def State.egressVc (s : State) (ingress e : Nat) (f : Frame) : Nat :=
  if bit (s.portDir e) 3 then 1
  else if ingress < 128 && s.fabricPort ingress && s.portDir ingress % 8 == s.portDir e % 8 then f.vc
  else 0

/-- The port with the fewest queued bytes for a class, the lower number on a tie (R238). -/
def State.leastLoaded (s : State) (ingress c : Nat) : List Nat → Option Nat
  | [] => none
  | e :: r =>
    match s.leastLoaded ingress c r with
    | none => some e
    | some x =>
      let b (e : Nat) : Nat := queueBytes (s.roundQueue e c (min ingress 128))
      if b e ≤ b x then some e else some x

/-- A frame may take a dynamic choice (R238, R302). -/
def State.dynamic (s : State) (n owner c : Nat) (f : Frame) : Bool :=
  f.unord && c != 7 && s.fld Reg.detCtrl 0 0 == 0 && !bit (s.reg (pdReg n Reg.swiDlbOff)).toNat owner

/-- Coordinates of a node. -/
def coords (n : Nat) : List Nat := [bits n 4 0, bits n 9 5, bits n 13 10]

/-- Dimensions in which two nodes differ. -/
def dimsApart (a b : Nat) : List Nat := (List.range 3).filter fun i => nth (coords a) i 0 != nth (coords b) i 0

/-- A multicast frame (R281). -/
def isMulticast (f : Frame) : Bool := f.kind == 3 && bits f.flow 19 16 == 15

/-- Where a frame goes. -/
inductive Route where
  | drop (counter : Nat)
  /-- Deliver here. -/
  | deliver
  /-- Leave by a port; `dyn` when chosen by load. -/
  | out (e : Nat) (dyn : Bool)
  /-- Deliver a copy here and forward by a port. -/
  | both (e : Nat)
  /-- No hop for a request: it is answered NO_ROUTE (R278). -/
  | answer
  /-- A multicast with an empty bundle on the way: a copy here, none onward. -/
  | last (counter : Nat)
  deriving DecidableEq, Repr

/-- Route of a multicast at this package (R281). -/
def State.routeMulticast (s : State) (n : Nat) (f : Frame) : Route :=
  match dimsApart f.src f.dest with
  | [d] =>
    if d = 2 ∨ ¬ (dimsApart f.src s.node).all (· == d) then .drop (pdReg n Reg.rteMcBadCnt)
    else
      let bundle := (List.range 128).filter fun e => s.portLive e && s.portDir e % 8 == d + 1 + b2n (bit f.flow 15) * 4
      if s.node = f.dest then .deliver
      else
        match bundle[pathHash f % max 1 bundle.length]? with
        | none => if s.node = f.src then .drop (pdReg n Reg.rteNoRouteCnt) else .last (pdReg n Reg.rteNoRouteCnt)
        | some e => if s.node = f.src then .out e false else .both e
  | _ => .drop (pdReg n Reg.rteMcBadCnt)

/-- Route of a frame on die `n` from an ingress (128 for a local source), R278. -/
def State.route (s : State) (n ingress owner c : Nat) (f : Frame) : Route :=
  if isMulticast f then s.routeMulticast n f
  else if f.dest = s.node then
    if f.kind = 0 then
      match s.station n f.payload with
      | some w => .out (bits w 22 16) false
      | none => .drop (pdReg n Reg.rteStationMissCnt)
    else .deliver
  else
    match s.hops n f.dest with
    | none | some [] => if f.kind = 1 then .answer else .drop (pdReg n Reg.rteNoRouteCnt)
    | some l =>
      if s.dynamic n owner c f then
        match s.leastLoaded ingress c l with
        | some e => .out e true
        | none => .drop (pdReg n Reg.rteNoRouteCnt)
      else .out (nth l (pathHash f % l.length) 0) false

/-! Scheduling tags (R256). -/

/-- Weight of a class. -/
def State.weight (s : State) (e c : Nat) : Nat := s.fld (portReg e Reg.schWeight) (8 * c + 7) (8 * c)

/-- `max` of 48-bit tags by their signed difference. -/
def tagMax (a b : Nat) : Nat := if sgn 48 ((b + 2 ^ 48 - a) % 2 ^ 48) < 0 then a else b

/-- Finish tag of a frame of `len` bytes from its start tag (R256). -/
def State.finishTag (s : State) (e c start len : Nat) : Nat := (start + ceilDiv (len * 256) (s.weight e c)) % 2 ^ 48

/-- Replace the tags of a class's next frame. -/
def State.withTag (s : State) (e c : Nat) (x : Option (Nat × Nat × Nat)) : State :=
  s.modPort e fun t => { t with tags := mapPut none c x t.tags }

/-- Give the class's next frame its tag pair, if it has none. -/
def State.retag (s : State) (e c : Nat) : State :=
  if c = 7 then s
  else
    let t := s.port e
    match mapGet none c t.tags, s.nextFrame e c with
    | none, some (i, q) =>
      let st := tagMax t.wfqV (mapGet 0 c t.wfqF)
      s.withTag e c (some (i, st, s.finishTag e c st (s.schedLen e q)))
    | _, _ => s

/-- V and every F_c return to 0 when no frame of classes 0-6 is queued or in transmission (R256). -/
def State.wfqIdle (s : State) (e : Nat) : State :=
  if (List.range 7).all fun c => (s.nextFrame e c).isNone && (s.txOpen e c).isNone then
    s.modPort e fun t => { t with wfqV := 0, wfqF := [], tags := [] }
  else s

/-- The head of queue `i` of a class has gone without being granted: the class has its next frame anew (R256). -/
def State.headGone (s : State) (e c i : Nat) : State :=
  let s1 := match mapGet none c (s.port e).tags with
    | some x => if x.1 = i then s.withTag e c none else s
    | none => s
  (s1.retag e c).wfqIdle e

/-! Ageing (R239). -/

/-- Age limit of a class on a die in fabric-time units. -/
def State.ageLimit (s : State) (n c : Nat) : Nat :=
  s.fld (if c = 7 then pdReg n Reg.swiAgeLimit7 else pdReg n (Reg.swiAgeLimit06 c)) 23 0 * 1600

/-- Age of a frame: fabric time less its origin time, both of 64 bits. -/
def State.age (s : State) (f : Frame) : Int := sgn 64 ((s.now + 2 ^ 64 - f.origin) % 2 ^ 64)

/-- A frame is over the age limit of its class. -/
def State.aged (s : State) (n : Nat) (q : QFrame) : Bool :=
  let l := s.ageLimit n q.cls
  l != 0 && decide ((l : Int) < s.age q.f)

/-- An aged frame is discarded; the port `e` counts it. -/
def State.dropOld (s : State) (e die : Nat) (q : QFrame) : State :=
  ((s.dropAt e Reg.swiAgeDropCnt q.f).portCount e 0x08 (some q.cls) 1).release die q

/-- Discard the aged frames that reach the head of queue `i` of a class, whose frames are listed. -/
def State.ageOut (s : State) (e c i : Nat) : List QFrame → State
  | [] => s
  | q :: r =>
    if s.aged (e / 32) q then (((s.withRoundQueue e c i r).dropOld e (q.die e) q).headGone e c i).ageOut e c i r else s

/-- The frame at the head of queue `i` is tested for its age. -/
def State.headTest (s : State) (e c i : Nat) : State := s.ageOut e c i (s.roundQueue e c i)

/-- Discard the aged frames that reach the head of a local-delivery queue, whose frames are listed. -/
def State.ageLocal (s : State) (p c : Nat) : List QFrame → State
  | [] => s
  | q :: r =>
    if s.aged (p / 32) q then ((s.withLocalOf (localKey p c) r).dropOld p (p / 32) q).ageLocal p c r else s

/-! Enqueue. -/

/-- Depth at which classes are marked (R241). -/
def State.marks (s : State) (n c depth : Nat) : Bool :=
  let th := s.fld (pdReg n (Reg.swiEcnThresh c)) 15 0
  c != 7 && th != 0 && decide (th * 4096 < depth)

/-- Append a frame to its VOQ or injection queue, marking it where the queue is deep (R241). A class 7 frame that finds its class closed is
counted (Table 11-3). A frame that is at once at the head is tested for its age (R239). -/
def State.enqueue (s : State) (e : Nat) (q : QFrame) : State :=
  let i := min q.ingress 128
  let old := s.roundQueue e q.cls i
  let mark := s.marks (q.die e) q.cls (queueBytes old)
  let gate := q.cls == 7 && !q.gated && !bit (s.shuOpen e) 7
  let s1 := if mark then
      if i < 128 then (s.bump (portReg i Reg.swiEcnMarkCnt)).portCount i 0x07 (some q.cls) 1
      else s.bump (portReg e Reg.swiEcnMarkCnt)
    else s
  let s2 := if gate then s1.bump (portReg e Reg.shuExpGateWaitCnt) else s1
  let q' : QFrame := { q with f := { q.f with ce := q.f.ce || mark }, gated := q.gated || gate, mark7 := (s.port e).sent7 }
  let s3 := (s2.withRoundQueue e q.cls i (old ++ [q'])).retag e q.cls
  if old.isEmpty then s3.headTest e q.cls i else s3

/-- Append a frame to the local-delivery queue of its ingress port; one that is at once at the head is tested for its age (R239). -/
def State.enqueueLocal (s : State) (q : QFrame) : State :=
  let key := localKey q.ingress q.cls
  let s1 := s.modLocalOf key (· ++ [q])
  if (s.localOf key).isEmpty then s1.ageLocal q.ingress q.cls (s1.localOf key) else s1

/-- One more holder of each buffer of a frame (R248). -/
def State.shareBufs (s : State) (n : Nat) (l : List (Nat × Nat)) : State :=
  forEach l (fun ib s =>
    let p := s.pool n ib.1
    s.withPool n ib.1 (p.withBuf ib.2 { p.buf ib.2 with cnt := (p.buf ib.2).cnt + 1 })) s

/-- A class is being drained toward a port (R283). -/
def State.draining (s : State) (e c : Nat) : Bool := bit (s.fld (portReg e Reg.rteDrain) 7 0) c

/-- Park a frame (R283). -/
def State.park (s : State) (e : Nat) (q : QFrame) : State :=
  ((s.modPdie (q.die e) fun d => { d with parked := d.parked ++ [⟨q, e⟩] }).bump (pdReg (q.die e) Reg.rteParkCnt)).portCount
    (if q.ingress < 128 then q.ingress else e) 0x0E none 1

/-- Queue or park a frame for a port. -/
def State.toPort (s : State) (e : Nat) (q : QFrame) : State := if s.draining e q.cls then s.park e q else s.enqueue e q

/-- Bytes that rule 4 of R234 compares: the VOQ, and the park queue counted with it (R283). -/
def State.admitBytes (s : State) (p e c : Nat) : Nat :=
  queueBytes (s.voqOf (voqKey p e c)) +
    ((s.pdie (p / 32)).parked.map fun x => if x.q.ingress = p ∧ x.hop = e ∧ x.q.cls = c then x.q.len else 0).sum

/-- Buffers for a frame that arrives at an ingress port (R234). -/
def State.admits (s : State) (p c voq len : Nat) : State × Option (List (Nat × Nat)) :=
  let n := p / 32
  if c = 7 ∨ s.fabricPort p then s.transitAlloc n len false
  else if bit (s.portRec p) 19 ∧ bit (s.port p).fcOut c then s.transitAlloc n len true
  else if voq < s.fld (pdReg n (Reg.swiVoqMax c)) 15 0 * 4096 then s.transitAlloc n len true
  else (s, none)

/-! Local sources. -/

/-- Owner of a frame of a local source: of its request, or of the group whose tag it carries (R292, R199). -/
def State.sourceOwner (s : State) (f : Frame) : Nat :=
  if f.kind = 1 then rqOwner f.payload
  else if f.kind = 3 then ((s.groups.find? fun x => x.2.tag == rdLe f.payload 0 4).map fun x => x.2.owner).getD 0
  else 0

/-- A rate limiter holds a frame of a local source on die `n` (R243, log entry 30). -/
def State.limited (s : State) (n : Nat) (f : Frame) : Bool :=
  (s.pdie n).limiters.any fun x => x.dest == f.dest && x.cls == f.cls && (x.rate == 0 || decide (s.now < x.freeAt))

/-- A frame leaves under its limiter: the next waits the time of its bytes at the rate, in units of 1/256 Gb/s (log entry 30). -/
def State.limitTake (s : State) (n : Nat) (f : Frame) : State :=
  s.modPdie n fun d => { d with limiters := d.limiters.map fun x =>
    if x.dest = f.dest ∧ x.cls = f.cls then { x with freeAt := s.now + ceilDiv (f.payload.length * 32768) x.rate } else x }

/-- A frame takes a dynamic choice: counted at port `p` (R238). -/
def State.countDyn (s : State) (p c : Nat) : State :=
  ((s.bump (portReg p Reg.swiDlbCnt)).tdcPort p 1).portCount p 0x0D (some c) 1

/-- A frame of a local source is classified on die `n` and queued, and whether it is taken: the mesh holds one that finds no buffer, or that
its rate limiter holds. A dynamic choice counts at the egress port (log entry 87). -/
def State.inject (s : State) (n stop : Nat) (f : Frame) : State × Bool :=
  let f := { f with origin := s.now }
  let r := s.route n 128 (s.sourceOwner f) f.cls f
  match r with
  | .drop a => (s.bump a, true)
  | .answer => (s.answerNoRoute stop f, true)
  | .deliver => (s.meshPut stop (localStop stop f) f, true)
  | .last a => ((s.bump a).meshPut stop (localStop stop f) f, true)
  | .out e _ | .both e =>
    if ¬ s.portLive e then (s.bump (pdReg n Reg.rteNoRouteCnt), true)
    else if s.limited n f then (s, false)
    else
      match s.localAlloc (e / 32) f.cls f.payload.length with
      | (s1, none) => (s1, false)
      | (s1, some b) =>
        let s2 := (if r = .out e true then s1.countDyn e f.cls else s1).limitTake n f
        (s2.toPort e ⟨f, 128, f.cls, f.payload.length, s.now, b, none, true, false, 0, false⟩, true)

/-- Send an echo to the source of a marked frame, at most one in each ECHO_INTERVAL; the frames marked since the last echo wait for one that is
sent (R242). -/
def State.echo (s : State) (n : Nat) (f : Frame) : State :=
  let gap := s.fld (pdReg n Reg.swiCcCtrl) 47 38 * 16000
  let es := (s.pdie n).echoes
  let old := (es.find? fun x => x.src == f.src).getD ⟨f.src, 0, 0⟩
  let known := es.any fun x => x.src == f.src
  let others := es.filter fun x => x.src != f.src
  let held : EchoState := { old with count := old.count + 1 }
  if known ∧ s.now < old.lastAt + gap then s.modPdie n fun d => { d with echoes := held :: others }
  else
    let e : Frame :=
      { kind := 2, cls := f.cls, vc := 0, dest := f.src, src := s.node, flow := f.flow, unord := false, ce := false, ece := true,
        origin := s.now, payload := natLe 4 (old.count + 1) ++ zeros 12 }
    let r := s.inject n (portStop n 0) e
    r.1.modPdie n fun d => { d with echoes := (if r.2 then ⟨f.src, 0, s.now⟩ else held) :: others }

end Sys2Proof.Machine
end

