-- ==== Sys2Proof/Machine/Sched.lean ====
section
/-! DEFINITION. The egress scheduler: shutters (R261, R264), shapers and policers (R258-R260), weighted fair queueing
(R256), the cell slot (R220, R254, R255) and the group that carries cells (R216, R223, R224). -/

namespace Sys2Proof.Machine

/-! Buckets. Tokens are kept in 1/10,000 of a byte, so that RATE is the refill of one FCLK (R258). -/

/-- Register of a shaper or policer. -/
def bucketReg (e c : Nat) (policer : Bool) : Nat :=
  if policer then portReg e (fun q => Reg.schPolicer q c) else portReg e (fun q => Reg.schShaper q c)

/-- Key of a bucket's tokens. -/
def bucketKey (c : Nat) (policer : Bool) : Nat := c + b2n policer * 8

/-- Tokens of a bucket. -/
def State.tokens (s : State) (e k : Nat) : Int := mapGet 0 k (s.port e).tokens

/-- Replace the tokens of a bucket. -/
def State.withTokens (s : State) (e k : Nat) (v : Int) : State :=
  s.modPort e fun t => { t with tokens := mapPut 0 k v t.tokens }

/-- Whether a bucket is enabled. -/
def State.bucketOn (s : State) (e c : Nat) (policer : Bool) : Bool := s.fld (bucketReg e c policer) 46 46 == 1

/-- BURST of a bucket in token units. -/
def State.burst (s : State) (e c : Nat) (policer : Bool) : Nat := s.fld (bucketReg e c policer) 45 21 * 10000

/-- A shaper allows its class (R259). -/
def State.shaperAllows (s : State) (e c : Nat) : Bool := !s.bucketOn e c false || decide (0 ≤ s.tokens e c)

/-- Take a frame's length from a shaper, down to -MAX_FRAME (R259). -/
def State.shaperTake (s : State) (e c len : Nat) : State :=
  if s.bucketOn e c false then s.withTokens e c (max (s.tokens e c - len * 10000) (-((s.maxFrame e * 10000 : Nat) : Int))) else s

/-- Test a frame of `len` bytes at a policer, `est` of which stand for its length at its first cell: the state and whether it conforms. The
tokens are those of the true length, where it is known (R259, log entry 90). -/
def State.police (s : State) (e c est len : Nat) : State × Bool :=
  if ¬ s.bucketOn e c true then (s, true)
  else
    let t := s.tokens e (c + 8)
    if (est * 10000 : Nat) ≤ t ∧ est * 10000 ≤ s.burst e c true ∧ len * 10000 ≤ s.burst e c true then
      (s.withTokens e (c + 8) (t - (len * 10000 : Nat)), true)
    else (s, false)

/-- Tokens of a bucket are corrected by a number of bytes, up to BURST (R259). -/
def State.correct (s : State) (e c : Nat) (policer : Bool) (d : Int) : State :=
  if s.bucketOn e c policer then
    let k := bucketKey c policer
    s.withTokens e k (min (s.burst e c policer : Int) (s.tokens e k + d * 10000))
  else s

/-! Shutter lists (R261). -/

/-- Entry `i` of a list of a port: the pending or the active one. -/
def State.shuEntry (s : State) (e : Nat) (pend : Bool) (i : Nat) : Nat :=
  (s.reg (portReg e fun q => if pend then Reg.shuPendEntry q i else Reg.shuActEntry q i)).toNat

/-- Entries of a list; 0 where none is active. -/
def State.shuCount (s : State) (e : Nat) (pend : Bool) : Nat :=
  if pend then (s.reg (portReg e Reg.shuPendCount)).toNat % 512
  else if s.fld (portReg e Reg.shuStatus) 0 0 = 1 then (s.reg (portReg e Reg.shuActCount)).toNat % 512 else 0

/-- CYCLE of a list. -/
def State.shuCycle (s : State) (e : Nat) (pend : Bool) : Nat :=
  max 1 ((s.reg (portReg e (if pend then Reg.shuPendCycle else Reg.shuActCycle))).toNat % 2 ^ 34)

/-- Place of a fabric time in the cycle of a list. -/
def State.shuPos (s : State) (e : Nat) (pend : Bool) (t : Nat) : Nat :=
  (((t : Int) - (s.reg (portReg e (if pend then Reg.shuPendBase else Reg.shuActBase))).toNat) % (s.shuCycle e pend : Int)).toNat

/-- Walk the entries to the one that holds a place of the cycle; the last holds to the end. -/
def State.shuWalk (s : State) (e : Nat) (pend : Bool) : Nat → Nat → Nat → Nat
  | 0, i, _ => i
  | fuel + 1, i, pos =>
    let d := bits (s.shuEntry e pend i) 41 8
    if i + 1 = s.shuCount e pend ∨ pos < d then i else s.shuWalk e pend fuel (i + 1) (pos - d)

/-- Entry of a list in force at a fabric time. -/
def State.shuAt (s : State) (e : Nat) (pend : Bool) (t : Nat) : Nat :=
  if s.shuCount e pend = 0 then 0 else s.shuWalk e pend (s.shuCount e pend) 0 (s.shuPos e pend t)

/-- Classes that a list opens at a fabric time. -/
def State.shuOpenAt (s : State) (e : Nat) (pend : Bool) (t : Nat) : Nat :=
  if s.shuCount e pend = 0 then 0xFF else bits (s.shuEntry e pend (s.shuAt e pend t)) 7 0

/-- Ends of the entries of one cycle, cut at CYCLE: (end, mask of the next entry). -/
def State.shuEdges (s : State) (e : Nat) (pend : Bool) : Nat → Nat → Nat → List (Nat × Nat)
  | 0, _, _ => []
  | fuel + 1, i, acc =>
    let cycle := s.shuCycle e pend
    let stop := if i + 1 = s.shuCount e pend then cycle else min cycle (acc + bits (s.shuEntry e pend i) 41 8)
    if stop = cycle then [(cycle, bits (s.shuEntry e pend 0) 7 0)]
    else (stop, bits (s.shuEntry e pend (i + 1)) 7 0) :: s.shuEdges e pend fuel (i + 1) stop

/-- The first time after `t` at which a list closes a class: at the end of an entry or of a cycle (R264). -/
def State.listClose (s : State) (e c : Nat) (pend : Bool) (t : Nat) : Option Nat :=
  if s.shuCount e pend = 0 then none
  else
    let pos := s.shuPos e pend t
    let ed := s.shuEdges e pend (s.shuCount e pend) 0 0
    ((ed ++ ed.map fun x => (x.1 + s.shuCycle e pend, x.2)).find? fun x => decide (pos < x.1) && !bit x.2 c).map fun x => t + x.1 - pos

/-- The next time after `t` at which a class closes: by the active list, which governs until the takeover time of an armed one, or by that one
from its takeover on (R262, R264). -/
def State.nextClose (s : State) (e c t : Nat) : Option Nat :=
  let old := s.listClose e c false t
  let at_ := (s.reg (portReg e Reg.shuTakeover)).toNat
  if s.fld (portReg e Reg.shuStatus) 1 1 = 0 then old
  else
    match old with
    | some x => if x < at_ then some x else if bit (s.shuOpenAt e true at_) c then s.listClose e c true at_ else some at_
    | none => if bit (s.shuOpenAt e true at_) c then s.listClose e c true at_ else some at_

/-- Lanes in use of a port. -/
def State.portWidth (s : State) (e : Nat) : Nat := 2 ^ s.fld (portReg e Reg.lnkPortStatus) 4 3

/-- MAC rate of an Ethernet port in Gb/s (Table 9-2). -/
def State.macRate (s : State) (e : Nat) : Nat := if bit (s.portRec e) 17 then 100 else 200 * s.portWidth e

/-- SHU_GUARD of a port. -/
def State.guard (s : State) (e : Nat) : Nat := (s.reg (portReg e Reg.shuGuard)).toNat % 65536

/-- A frame of this length passes the admission test (R264). -/
def State.admitted (s : State) (e c len : Nat) : Bool :=
  match s.nextClose e c s.now with
  | none => true
  | some close =>
    let room := close - s.now - s.guard e
    if s.fabricPort e then decide (cellsOf len * 17664 ≤ room * 100 * s.portWidth e)
    else decide ((len + 20) * 128 ≤ room * s.macRate e)

/-! Eligibility (R254). -/

/-- A class is held at a port by received flow control. -/
def State.isHeld (s : State) (e c : Nat) : Bool := c != 7 && mapGet 0 c (s.port e).hold != 0

/-- Credits of the transmitter of a port on a VC. -/
def State.txCredit (s : State) (e v : Nat) : Nat := mapGet 0 v (s.port e).txCred

/-- VC index of a frame's cells on an egress port. -/
def State.vcIndex (s : State) (e : Nat) (q : QFrame) : Nat := 2 * q.f.cls + s.egressVc q.ingress e q.f

/-- Why a class with a frame cannot start one. -/
inductive Stall where
  | credit | hold | shutter | shaper
  deriving DecidableEq, Repr

/-- The replay buffer has room for a sequenced group (R224). -/
def State.replayRoom (s : State) (e : Nat) : Bool := decide ((s.port e).replay.length < 512)

/-- Whether a class may start its next frame, and why not (R254). -/
def State.startBlock (s : State) (e c : Nat) (q : QFrame) : Option Stall :=
  if s.isHeld e c then some .hold
  else if ¬ bit (s.shuOpen e) c ∨ ¬ s.admitted e c (s.schedLen e q) then some .shutter
  else if c ≠ 7 ∧ ¬ (s.shaperAllows e c ∧ s.shaperAllows e 7) then some .shaper
  else if s.fabricPort e ∧ (s.txCredit e (s.vcIndex e q) = 0 ∨ ¬ s.replayRoom e) then some .credit
  else none

/-- A class may start a frame now. -/
def State.canStart (s : State) (e c : Nat) : Bool :=
  (s.txOpen e c).isNone &&
    match s.nextFrame e c with
    | none => false
    | some (_, q) => (s.startBlock e c q).isNone

/-- Cells of a frame that have arrived. -/
def QFrame.arrived (q : QFrame) : Nat := if q.growing then q.f.payload.length / 256 else cellsOf q.len

/-- Cells of a frame, one more than have arrived while its last has not. -/
def QFrame.cells (q : QFrame) : Nat := q.arrived + b2n q.growing

/-- The next cell of a transmission has arrived (R232). -/
def TxOpen.ready (t : TxOpen) : Bool := decide (t.sent < t.q.arrived)

/-- The class of an open transmission is not held and its VC has a credit (R255). -/
def State.mayContinue (s : State) (e c : Nat) (t : TxOpen) : Bool :=
  !s.isHeld e c && (!s.fabricPort e || (decide (0 < s.txCredit e t.vc) && s.replayRoom e))

/-- An open transmission may send its next cell. -/
def State.canContinue (s : State) (e c : Nat) (t : TxOpen) : Bool := s.mayContinue e c t && t.ready

/-- The class that weighted fair queueing chooses (R256). -/
def State.wfqChoice (s : State) (e : Nat) : Option Nat :=
  let cs := (List.range 7).filter (s.canStart e)
  let fin (c : Nat) : Nat := ((mapGet none c (s.port e).tags).getD (0, 0, 0)).2.2
  cs.foldl (fun best c =>
    match best with
    | none => some c
    | some b => if sgn 48 ((fin c + 2 ^ 48 - fin b) % 2 ^ 48) < 0 then some c else some b) none

/-- The class 0-6 transmission that goes on: the one that started first (R255). -/
def State.openChoice (s : State) (e : Nat) : Option Nat :=
  let cs := (List.range 7).filter fun c => match s.txOpen e c with | some t => s.canContinue e c t | none => false
  let no (c : Nat) : Nat := match s.txOpen e c with | some t => t.no | none => 0
  cs.foldl (fun best c => match best with | none => some c | some b => if no c < no b then some c else some b) none

/-- A transmission of classes 0-6 waits for its next cell to arrive: no other of them may start (R255). -/
def State.openWaits (s : State) (e : Nat) : Bool :=
  (List.range 7).any fun c => match s.txOpen e c with | some t => s.mayContinue e c t && !t.ready | none => false

/-- The class that would start a frame in this slot (R255). -/
def State.nextGrant (s : State) (e : Nat) : Option Nat :=
  if (match s.txOpen e 7 with | some t => s.canContinue e 7 t | none => false) then none
  else if s.canStart e 7 then some 7
  else if (s.openChoice e).isSome || s.openWaits e then none
  else s.wfqChoice e

/-- A frame that is over its age at its grant is discarded, and another takes its turn (R239). -/
def State.settle (s : State) (e : Nat) : Nat → State
  | 0 => s
  | k + 1 =>
    match s.nextGrant e with
    | none => s
    | some c =>
      match s.nextFrame e c with
      | some (i, q) => if s.aged (e / 32) q then (s.headTest e c i).settle e k else s
      | none => s

/-! Groups (R216, R223, R224). -/

/-- VC to return credits for next: the first from the pointer whose count has changed, else the pointer (R221). -/
def creditVc (p : Port) : Nat :=
  let l := (List.range 16).map fun i => (p.crNext + i) % 16
  (l.find? fun v => mapGet 0 v p.freed != mapGet 0 v p.freedTold).getD p.crNext

/-- Take the next credit return. -/
def takeCredit (p : Port) : Nat × Port :=
  let v := creditVc p
  (v + (mapGet 0 v p.freed % 4096) <<< 4,
    { p with freedTold := mapPut 0 v (mapGet 0 v p.freed) p.freedTold, crNext := (v + 1) % 16 })

/-- A group of four cells with its trailer; the port's credit and acknowledgement state moves on. -/
def buildGroup (p : Port) (cells : Bytes) (seq : Option Nat) : Bytes × Port :=
  let a := takeCredit p
  let b := takeCredit a.2
  let w0 := match seq with | some q => q | none => 1 <<< 12
  let w0 := w0 + b2n p.nakDue <<< 13
  let w1 := match p.ackSend with | some q => q + 1 <<< 12 | none => 0
  let body := cells ++ natLe 2 w0 ++ natLe 2 w1 ++ natLe 2 a.1 ++ natLe 2 b.1 ++ zeros 4
  (body ++ natLe 4 (crc32c body), { b.2 with nakDue := false })

/-! Ordered sets (R225). -/

/-- An ordered set with its CRC. -/
def orderedSet (ty : Nat) (body : Bytes) : Bytes :=
  let b := padTo 60 (natLe 1 (0xA0 + ty) ++ zeros 7 ++ body)
  b ++ natLe 4 (crc32c b)

/-- A received set has its type and a good CRC. -/
def setOk (b : Bytes) (ty : Nat) : Bool := rdLe b 0 1 == 0xA0 + ty && crc32c (b.take 60) == rdLe b 60 4

/-- The package is in step (R269). -/
def State.inStep (s : State) : Bool :=
  let c := (s.reg (pdReg 0 Reg.ftmCtrl)).toNat
  if bits c 1 0 = 1 then
    decide (4 ≤ s.servo.2.length) && s.servo.2.all fun o => decide (2 * o.natAbs ≤ s.guard (bits c 8 2))
  else bit c 9

/-- The TIME set of a port that leaves now. -/
def State.timeSet (s : State) (e : Nat) : Bytes :=
  let p := s.port e
  orderedSet 1 (natLe 8 s.now ++ natLe 8 p.echoTx ++ natLe 8 p.echoRx ++ natLe 1 (b2n s.inStep))

/-- An ordered set leaves a port. -/
def State.putSet (s : State) (e : Nat) (b : Bytes) : State := (s.modPort e fun p => { p with sinceOs := 0 }).emit (.orderedSet e b)

/-- A TIME set that waits leaves between blocks; on a port that is up, 15 blocks or more after the last ordered set (R225). -/
def State.timeSlot (s : State) (e : Nat) : State :=
  let p := s.port e
  if p.timeOwed && (!s.portUp e || (p.filling.isEmpty && decide (15 ≤ p.sinceOs))) then
    (s.modPort e fun p => { p with timeOwed := false }).putSet e (s.timeSet e)
  else s

/-- A group leaves a port, and a TIME set may follow it. -/
def State.putGroup (s : State) (e : Nat) (r : Bytes × Port) : State :=
  ((s.withPort e { r.2 with sinceOs := min 15 (r.2.sinceOs + 1) }).emit (.group e r.1)).timeSlot e

/-- One more cell leaves a port; the fourth closes a group, sequenced where it carries a data or hold cell. -/
def State.sendCell (s : State) (e : Nat) (cell : Bytes) (mark : Option (Nat × Nat)) (seqd : Bool) : State :=
  let p := s.port e
  let fill := p.filling ++ [(cell, mark)]
  if fill.length < 4 then s.withPort e { p with filling := fill }
  else
    let cells := fill.flatMap (·.1)
    let sq := seqd || fill.any fun x => x.2.isSome || nth x.1 0 0 == 0x55
    let r := buildGroup { p with filling := [] } cells (if sq then some p.nextSeq else none)
    let marks := fill.filterMap (·.2)
    let p' := if sq then { r.2 with
        nextSeq := (p.nextSeq + 1) % 4096,
        ackAt := if p.replay.isEmpty then s.clk.kclk else p.ackAt,
        replay := r.2.replay ++ [⟨p.nextSeq, cells, 0, marks.map (·.1), marks.map (·.2)⟩] } else r.2
    s.putGroup e (r.1, p')

/-! Transmission. -/

/-- Modes of Table 10-2: a frame is cut through. -/
def State.cutThrough (s : State) (ingress e : Nat) : Bool :=
  ingress < 128 && (if s.fabricPort ingress then s.fabricPort e else !s.fabricPort e && decide (s.macRate e ≤ s.macRate ingress))

/-- Preemption is active on an Ethernet port: enabled and verified (R212). -/
def State.preempts (s : State) (e : Nat) : Bool := !s.fabricPort e && bit (s.portRec e) 18 && (s.port e).preempt

/-- CE rewriting of an Ethernet payload (R241): the payload, and whether the packet was ECN-capable. -/
def markPacket (p : Bytes) : Bytes × Bool :=
  let h := etherHead p
  let o := h.2.2
  if h.2.1 = 0x0800 then
    let tos := rdLe p (o + 1) 1
    if tos % 4 = 0 then (p, false)
    else if tos % 4 = 3 then (p, true)
    else
      let q := splice p (o + 1) (natLe 1 (tos / 4 * 4 + 3))
      let n := 4 * (rdLe p o 1 % 16)
      let hd := splice (slice q o n) 10 (zeros 2)
      let sum := ((List.range (n / 2)).map fun i => beNat (slice hd (2 * i) 2)).sum
      let f1 := sum % 65536 + sum / 65536
      let f2 := f1 % 65536 + f1 / 65536
      (splice q (o + 10) (natBe 2 (65535 - f2)), true)
  else if h.2.1 = 0x86DD then
    let b := rdLe p (o + 1) 1
    let ecn := bits b 5 4
    if ecn = 0 then (p, false) else (splice p (o + 1) (natLe 1 (putBits b 5 4 3)), true)
  else (p, false)

/-- Class 7 does not stay open until G after now (Table 11-3). -/
def State.closesSoon (s : State) (e : Nat) : Bool :=
  !bit (s.shuOpen e) 7 || match s.nextClose e 7 s.now with | some t => decide (t < s.now + s.guard e) | none => false

/-- A frame has left a port whole: counters, sampler, check units, trace, buffers, fabric exit of a mark; `late` where its class has closed
since it started (R264). -/
def State.frameSent (s : State) (e : Nat) (q : QFrame) (late : Bool) : State :=
  let len := s.wireLen e q.f
  let s1 := ((s.bump (portReg e Reg.rteTxFrames)).bumpBy (portReg e Reg.rteTxCells) (cellsOf q.len)).bumpBy (portReg e Reg.rteTxBytes) len
  let s2 := (s1.portCount e 0x02 (some q.cls) 1).portCount e 0x04 (some q.cls) len
  let s3 := if q.ingress < 128 then s2.portCount e (if s.cutThrough q.ingress e then 0x0B else 0x0C) none 1 else s2
  let s4 := ((s3.sample e 1 q.f len).chkFrame e 1 q.f).tracePort e 9 (frameHead q.f)
  let s5 := if late then s4.bump (portReg e Reg.shuOverrunCnt) else s4
  let s6 := if q.cls = 7 ∧ ¬ q.gated ∧ s.closesSoon e then s5.bump (portReg e Reg.shuExpGateWaitCnt) else s5
  let s7 := if q.f.ce ∧ ¬ s.fabricPort e ∧ q.ingress < 128 ∧ s.fabricPort q.ingress then s6.echo (q.ingress / 32) q.f else s6
  s7.release (q.die e) q

/-- Bytes of class 7 that have left the port since a frame was queued: those it found ahead (Table 11-3, log entry 91). -/
def State.aheadExpress (s : State) (e : Nat) (q : QFrame) : Nat := (s.port e).sent7 - q.mark7

/-- A class 7 frame longer than 2,048 B is counted (Table 11-3). -/
def State.oversize (s : State) (e : Nat) (f : Frame) : State :=
  if 2048 < s.wireLen e f then s.bump (portReg e Reg.schExpOversizeCnt) else s

/-- Conditions of the express bound counted when a class 7 frame starts (Table 11-3); the length of one that is cut through is judged at its
last cell. -/
def State.expressChecks (s : State) (e : Nat) (q : QFrame) : State :=
  let s1 := if q.growing then s else s.oversize e q.f
  let s2 := if 4096 < s.aheadExpress e q then s1.bump (portReg e Reg.schExpQueueExcessCnt) else s1
  let bad (p : Nat) : Bool := p < 128 && !s.fabricPort p && !s.preempts p
  if bad e || bad q.ingress then s2.bump (portReg e Reg.schExpNopreemptCnt) else s2

/-- Class 7 bytes leave a port. -/
def State.expressLeft (s : State) (e c n : Nat) : State := if c = 7 then s.modPort e fun p => { p with sent7 := p.sent7 + n } else s

/-- Take the next frame of a class: round robin, tags, shapers (R233, R256, R259). Its queue, the frame, and its start tag. -/
def State.grant (s : State) (e c : Nat) : Option ((Nat × QFrame × Nat) × State) :=
  match s.nextFrame e c with
  | none => none
  | some (i, q) =>
    let s1 := (s.withRoundQueue e c i ((s.roundQueue e c i).drop 1)).modPort e fun t => { t with
      rr := mapPut 0 c ((i + 1) % 129) t.rr }
    let tag := (mapGet none c (s1.port e).tags).getD (0, 0, 0)
    let s2 := if c = 7 then s1.expressChecks e q
      else
        ((s1.modPort e fun t => { t with
          wfqV := tagMax t.wfqV tag.2.1, wfqF := mapPut 0 c tag.2.2 t.wfqF, tags := mapPut none c none t.tags }).shaperTake e c
            (s.schedLen e q)).shaperTake e 7 (s.schedLen e q)
    some ((i, q, tag.2.1), s2.retag e c)

/-- Replace the open transmission of a class. -/
def State.withTx (s : State) (e c : Nat) (t : Option TxOpen) : State := s.modPort e fun p => { p with tx := mapPut none c t p.tx }

/-- Send the next cell of an open transmission of a fabric port. -/
def State.nextCell (s : State) (e c : Nat) (t : TxOpen) : State :=
  let cell := frameCell t.q.f t.sent t.q.cells (t.vc % 2)
  let s1 := s.modPort e fun p => { p with txCred := mapPut 0 t.vc (mapGet 0 t.vc p.txCred - 1) p.txCred }
  let s2 := (s1.sendCell e cell (some (c, t.no)) true).expressLeft e c (min 256 (t.q.f.payload.length - 256 * t.sent))
  if t.sent + 1 = t.q.cells then ((s2.withTx e c none).frameSent e t.q t.late).wfqIdle e
  else s2.withTx e c (some { t with sent := t.sent + 1 })

/-- A whole frame leaves an Ethernet port, marked where the packet can be (R232, R241). -/
def State.sendWhole (s : State) (e : Nat) (q : QFrame) (late : Bool) : State :=
  let m := if q.f.ce ∧ q.f.kind = 0 then markPacket q.f.payload else (q.f.payload, true)
  let s1 := if m.2 then s else s.bump (portReg e Reg.swiEcnNotEctCnt)
  let f := { q.f with payload := m.1 }
  let s2 := (s1.emit (.frame e f q.fcsOk)).expressLeft e q.cls (s.wireLen e f)
  let s3 := if q.fcsOk ∨ 128 ≤ q.ingress then s2 else s2.bump (portReg q.ingress Reg.swiStompCnt)
  (s3.frameSent e { q with f := f } late).wfqIdle e

/-- Start a frame of a class: a fabric port sends its first cell; an Ethernet port sends it whole, or, when it may be
preempted, opens it (R212, R255). The frame that is then at the head of its queue is tested for its age (R239). -/
def State.startFrame (s : State) (e c : Nat) : State :=
  match s.grant e c with
  | none => s
  | some ((i, q, tag), s1) =>
    let no := (s1.port e).frameNo
    let s2 := s1.modPort e fun p => { p with frameNo := no + 1 }
    let t : TxOpen := ⟨q, 0, s.vcIndex e q, false, tag, no⟩
    let s3 := if s.fabricPort e then (s2.withTx e c (some t)).nextCell e c t
      else if c ≠ 7 ∧ s.preempts e then s2.withTx e c (some t)
      else s2.sendWhole e q false
    s3.headTest e c i

/-- The rest of a preemptable frame leaves an Ethernet port. -/
def State.finishFrame (s : State) (e c : Nat) (t : TxOpen) : State :=
  (s.withTx e c none).sendWhole e t.q t.late

/-- Why a class with a frame sends nothing. -/
def State.stallOf (s : State) (e c : Nat) : Option Stall :=
  match s.txOpen e c with
  | some t => if s.isHeld e c then some .hold else if s.mayContinue e c t then none else some .credit
  | none => match s.nextFrame e c with | some (_, q) => s.startBlock e c q | none => none

/-- Nothing starts although a frame is queued: stall counters by cause (R286), the run's external waits (R301). -/
def State.countStall (s : State) (e : Nat) : State :=
  let of (x : Stall) : List Nat := (List.range 8).filter fun c => s.stallOf e c == some x
  let tileWaits := (List.range 8).any fun c =>
    match (s.injOf (injKey e c)).head? with
    | some q => match s.startBlock e c q with | some .credit | some .hold => true | _ => false
    | none => false
  let s1 := if (of .credit).isEmpty then s
    else forEach (of .credit) (fun c s => s.portCount e 0x06 (some c) 1) (s.bump (portReg e Reg.rteStallCredit))
  let s2 := if (of .hold).isEmpty then s1 else s1.bump (portReg e Reg.rteStallHold)
  let s3 := if (of .shutter).isEmpty then s2 else s2.bump (portReg e Reg.rteStallShutter)
  if tileWaits then s3.external 1 else s3

/-- Class 7 has closed: each of its frames that waits for the port or is in transmission is counted once (Table 11-3). -/
def State.gateWait (s : State) (e : Nat) : State :=
  if bit (s.shuOpen e) 7 then s
  else
    let s1 := (List.range 129).foldl (fun (s : State) i =>
      let l := s.roundQueue e 7 i
      let n := (l.filter fun q => !q.gated).length
      if n = 0 then s
      else (s.withRoundQueue e 7 i (l.map fun q => { q with gated := true })).bumpBy (portReg e Reg.shuExpGateWaitCnt) n) s
    match s1.txOpen e 7 with
    | some t => if t.q.gated then s1
      else (s1.withTx e 7 (some { t with q := { t.q with gated := true } })).bump (portReg e Reg.shuExpGateWaitCnt)
    | none => s1

/-- Slots with a shutter closed, by class (R392). -/
def State.countClosed (s : State) (e : Nat) : State :=
  forEach (List.range 8) (fun c s => if bit (s.shuOpen e) c then s else s.portCount e 0x09 (some c) 1) s

/-- The class that has the slot, express first (R255). -/
def State.slotChoice (s : State) (e : Nat) : State :=
  let fab := s.fabricPort e
  let open7 := match s.txOpen e 7 with | some t => if s.canContinue e 7 t then some t else none | none => none
  match open7 with
  | some t => s.nextCell e 7 t
  | none =>
    if s.canStart e 7 then
      (if (List.range 7).any (fun c => (s.txOpen e c).isSome) && !fab then s.portCount e 0x0A none 1 else s).startFrame e 7
    else
      match s.openChoice e with
      | some c =>
        match s.txOpen e c with
        | some t => if fab then s.nextCell e c t else s.finishFrame e c t
        | none => s
      | none =>
        match (if s.openWaits e then none else s.wfqChoice e) with
        | some c => s.startFrame e c
        | none =>
          let s2 := s.countStall e
          if fab then s2.sendCell e idleCell none false else s2

/-- One cell slot, or one frame or fragment boundary (R255). A waiting hold cell takes the slot (log entry 28). -/
def State.cellSlot (s : State) (e : Nat) : State :=
  if ¬ s.portUp e then s
  else
    let s1 := s.countClosed e
    match (s1.port e).holdOut with
    | h :: r =>
      if s1.fabricPort e && s1.replayRoom e then
        (s1.modPort e fun t => { t with holdOut := r }).sendCell e (holdCellBytes h.1 h.2) none true
      else (s1.settle e 1032).slotChoice e
    | [] => (s1.settle e 1032).slotChoice e

end Sys2Proof.Machine
end

