-- ==== Sys2Proof/Machine/Ingress.lean ====
section
/-! DEFINITION. Arrival of a frame at a port (R234, R278), local delivery (R233), and the packet mesh's forwarding (R32, R33). -/

namespace Sys2Proof.Machine

/-- The mesh stop at which a port's frames enter and leave the mesh (log entry 27). -/
def portEntryStop (e : Nat) : Nat :=
  let q := e % 32
  match e / 32 with
  | 0 => 512 + q % 16 | 1 => 528 + q | 2 => 560 + q % 16 | _ => 576 + q

/-- A KIND 0x2 frame that is an echo (R242). -/
def isEcho (f : Frame) : Bool := f.kind == 2 && f.ece && f.payload.length == 16 && rdLe f.payload 4 12 == 0



/-- Charge a frame's cells to its VC of arrival. -/
def State.chargeCells (s : State) (p v n : Nat) : State :=
  s.modPort p fun t => { t with
    rxCred := mapPut (s.portCredit p v) v (mapGet (s.portCredit p v) v t.rxCred - n) t.rxCred }

/-- A PTP event message (R215): EtherType 0x88F7, or UDP to port 319. -/
def isPtp (p : Bytes) : Bool :=
  let h := etherHead p
  let o := h.2.2
  (h.2.1 == 0x88F7 && decide (rdLe p o 1 % 16 < 4)) ||
    (h.2.1 == 0x0800 && rdLe p (o + 9) 1 == 17 && beNat (slice p (o + 4 * (rdLe p o 1 % 16) + 2) 2) == 319) ||
    (h.2.1 == 0x86DD && rdLe p (o + 6) 1 == 17 && beNat (slice p (o + 42) 2) == 319)

/-- The tile a frame for this node addresses, if it addresses one. -/
def frameTile (f : Frame) : Option Nat :=
  if f.kind = 2 then some (f.flow % 2 ^ 15)
  else if f.kind = 1 ∧ bits (rqAddr f.payload) 49 48 = 1 then some (bits (rqAddr f.payload) 33 19)
  else none

/-- Key of a unit in the porter's view: its native address without the node. -/
def viewKey (u : Unit6) : Nat := nativeAddr 0 u

/-- The porter marks a unit retired. -/
def State.viewRetired (s : State) (u : Unit6) : Bool := s.porter.views.any fun v => v.unit == viewKey u && v.retire

/-- A delivery to a tile that the porter marks retired and the data path holds active (R347). -/
def State.disagreeTile (s : State) (l : Nat) : State :=
  let u := Unit6.ofTile l
  if ¬ s.viewRetired u ∨ (s.ltile l).idState ≠ 1 then s
  else
    let s1 := s.bump Reg.fltMgmtDisagreeCnt
    let key := (viewKey u, s.ownerEpoch (s.tileOwner l))
    if s.faults.disagreed.contains key then s1
    else (s1.withFaults { s1.faults with disagreed := s1.faults.disagreed ++ [key] }).raiseFault u 0x21 1 false 15 0

/-- A frame that addresses such a tile. -/
def State.disagree (s : State) (f : Frame) : State :=
  match frameTile f with
  | none => s
  | some l => s.disagreeTile l

/-- A dropped frame gives back its credits. -/
def State.dropArrival (s : State) (p : Nat) (credit : Option Nat) (len : Nat) : State :=
  match credit with
  | some v => s.returnCells p v (cellsOf len)
  | none => s

/-- A frame that is not queued: the counter at `a` and the trace event name it. -/
def State.dropCounted (s : State) (p a : Nat) (f : Frame) (credit : Option Nat) : State :=
  ((s.bump a).tracePort p 10 ((frameHead f).take 12 ++ natLe 4 (a - dieBase (16 + p / 32)))).dropArrival p credit f.payload.length

/-- Admission failed: the arriving frame is dropped, with the cells to come of one that is cut through (R234). -/
def State.dropAdmission (s : State) (p c : Nat) (f : Frame) (credit : Option Nat) (growing : Bool) : State :=
  let s1 := ((s.dropAt p Reg.swiDropCnt f).portCount p 0x05 (some c) 1).dropArrival p credit f.payload.length
  if growing then s1.withAsm p (2 * f.cls + f.vc) Asm.skipping else s1

/-- Admit a frame of class `c` and queue it (R234); `growing` where its last cell has not arrived (R232). -/
def State.queueArrival (s : State) (p c : Nat) (f : Frame) (credit : Option Nat) (fcsOk growing : Bool) (r : Route) : State :=
  let e := match r with | .out e _ | .both e => e | _ => 0
  let voq := match r with | .out e _ | .both e => s.admitBytes p e c | _ => queueBytes (s.localOf (localKey p c))
  match s.admits p c voq f.payload.length with
  | (s1, none) => s1.dropAdmission p c f credit growing
  | (s1, some b) =>
    let q : QFrame := ⟨f, p, c, f.payload.length, s.now, b, credit, fcsOk, false, 0, growing⟩
    let s2 := match r with
      | .out _ _ => s1.toPort e q
      | .both _ => (((s1.shareBufs (p / 32) b).toPort e q).enqueueLocal q).external 1
      | _ => (s1.enqueueLocal q).external 1
    s2.flowCheck p c

/-- Classify and queue a frame whose class in the package is `c` (R237, R278). -/
def State.classify (s : State) (p c : Nat) (f : Frame) (credit : Option Nat) (fcsOk growing : Bool) : State :=
  let n := p / 32
  let r := s.route n p (s.portOwner p) c f
  match r with
  | .drop a => s.dropCounted p a f credit
  | .answer => (s.answerNoRoute (portEntryStop p) f).dropArrival p credit f.payload.length
  | .out e dyn =>
    if ¬ s.portLive e then s.dropCounted p (pdReg n Reg.rteRetireDropCnt) f credit
    else if ¬ fcsOk ∧ ¬ s.cutThrough p e then s.dropCounted p (portReg p Reg.lnkRxDropCnt) f credit
    else
      (if dyn then s.countDyn p c else s).queueArrival p c f credit fcsOk growing r
  | .last a =>
    if fcsOk then (s.bump a).queueArrival p c f credit fcsOk growing .deliver else s.dropCounted p (portReg p Reg.lnkRxDropCnt) f credit
  | _ => if fcsOk then s.queueArrival p c f credit fcsOk growing r else s.dropCounted p (portReg p Reg.lnkRxDropCnt) f credit

/-- The length that a policer tests at the first cell of a frame: its own where that cell is its only one (R259). -/
def State.policeLen (s : State) (p len : Nat) (f : Frame) : Nat := if f.payload.length ≤ 256 then len else min (s.maxFrame p) 2048

/-- The class of a frame in the package after the judgement of the neighbour (R270) and the policer, which takes `est` at the first cell (R259);
none where it is dropped. A class 7 frame that comes while the package itself is out of step is counted (Table 11-3). -/
def State.ingressClass (s : State) (p est len : Nat) (f : Frame) : State × Option Nat :=
  if f.cls = 7 ∧ s.fabricPort p ∧ s.fld (portReg p Reg.ftmNbrStatus) 0 0 = 0 then (s.bump (portReg p Reg.ftmDemoteCnt), some 6)
  else
    let s1 := if f.cls = 7 ∧ ¬ s.inStep then s.bump (portReg p Reg.ftmDemoteCnt) else s
    let r := s1.police p f.cls est len
    if r.2 then (r.1, some f.cls)
    else if f.cls = 7 then (r.1.bump (portReg p Reg.schExpDemoteCnt), some 6)
    else (r.1, none)

/-- Fields that an Ethernet port gives a frame (R237): the station hit's DEST, or none. -/
def State.etherFrame (s : State) (p : Nat) (f : Frame) : Option Frame :=
  (s.station (p / 32) f.payload).map fun w =>
    { f with kind := 0, vc := 0, src := s.node, dest := w % 2 ^ 14, flow := etherFlow f.payload, unord := false, ce := false,
             ece := false, origin := s.now }

/-- Counts of a frame received by a port. -/
def State.frameReceived (s : State) (p len : Nat) (f : Frame) : State :=
  let s1 := ((s.bump (portReg p Reg.rteRxFrames)).bumpBy (portReg p Reg.rteRxCells) (cellsOf f.payload.length)).bumpBy
    (portReg p Reg.rteRxBytes) len
  (((s1.portCount p 0x01 (some f.cls) 1).portCount p 0x03 (some f.cls) len).sample p 0 f len).tracePort p 8 (frameHead f)

/-- A whole frame has arrived at a port and goes through the pipeline of Table 10-1. -/
def State.ingress (s : State) (p : Nat) (f : Frame) (credit : Option Nat) (fcsOk : Bool) : State :=
  let len := s.wireLen p f
  let s1 := (s.frameReceived p len f).chkFrame p 0 f
  let r := s1.ingressClass p (s.policeLen p len f) len f
  match r.2 with
  | none => r.1.dropCounted p (portReg p Reg.schPolDropCnt) f credit
  | some c => r.1.classify p c f credit fcsOk false

/-! Cut-through from fabric port to fabric port (R232, R257, R259). -/

/-- A frame that is cut through from a stream of a port: its last cell has not arrived. -/
def QFrame.grows (q : QFrame) (p v : Nat) : Bool := q.growing && q.ingress == p && 2 * q.f.cls + q.f.vc == v

/-- The frame of a stream of a port that is cut through. -/
def State.cutFrame (s : State) (p v : Nat) : Option QFrame := s.heldFrames.find? (·.grows p v)

/-- The port and class that transmit it. -/
def State.cutTx (s : State) (p v : Nat) : Option (Nat × Nat × TxOpen) :=
  s.ports.findSome? fun x => x.2.tx.findSome? fun y =>
    match y.2 with
    | some t => if t.q.grows p v then some (x.1, y.1, t) else none
    | none => none

/-- The port and class that it is queued for. -/
def State.cutQueue (s : State) (p v : Nat) : Option (Nat × Nat) :=
  (s.voq.find? fun x => x.2.any (·.grows p v)).map fun x => (x.1 / 8 % 128, x.1 % 8)

/-- Where the first cells of a frame go at once: to a fabric port. -/
def State.cutsTo (s : State) (p c : Nat) (f : Frame) : Bool :=
  match s.route (p / 32) p (s.portOwner p) c f with
  | .out e _ => s.portLive e && s.fabricPort e
  | _ => false

/-- FRAME_ARRIVAL of a frame whose last cell has not arrived: one that leaves by a fabric port is classified and queued at its first cell; any
other waits for its last (R232, log entry 90). -/
def State.cutStart (s : State) (p v : Nat) (f : Frame) : State :=
  let est := min (s.maxFrame p) 2048
  let r := s.ingressClass p est est f
  match r.2 with
  | none => s
  | some c =>
    if s.cutsTo p c f then (r.1.withAsm p v ⟨some f, false, some est⟩).classify p c f (some v) true true else s

/-- A frame that is cut through is dropped wherever it is: its buffers are given up, and no more of it is sent. -/
def State.cutDrop (s : State) (p v : Nat) : State :=
  match s.cutFrame p v with
  | none => s
  | some q =>
    let keep (x : QFrame) : Bool := !x.grows p v
    let gone : QFrame := { q with growing := false }
    match s.cutTx p v, s.cutQueue p v with
    | some (e, c, _), _ => ((s.withTx e c none).release (p / 32) gone).wfqIdle e
    | none, some (e, c) =>
      let s1 := (s.modVoqOf (voqKey p e c) fun l => l.filter keep).release (p / 32) gone
      if (s.voqOf (voqKey p e c)).head? = some q then s1.headGone e c p else s1.wfqIdle e
    | none, none => (s.modPdie (p / 32) fun d => { d with parked := d.parked.filter fun x => keep x.q }).release (p / 32) gone

/-- One more cell of a frame that is cut through: it takes a PK0 buffer and joins the frame; without a buffer the frame is dropped. -/
def State.growCut (s : State) (p v : Nat) (f : Frame) (data : Bytes) : State :=
  match s.transitAlloc (p / 32) 256 false with
  | (s1, none) => (((s1.cutDrop p v).dropAt p Reg.swiDropCnt f).portCount p 0x05 (some f.cls) 1).returnCells p v 1 |>.withAsm p v Asm.skipping
  | (s1, some b) =>
    let last := ((s.cutFrame p v).map fun q => q.bufs.getLast?.toList).getD []
    let s2 := (s1.linkChain (p / 32) (last ++ b)).mapFrames (p / 32) fun q =>
      if q.grows p v then { q with f := { q.f with payload := q.f.payload ++ data }, len := q.len + data.length, bufs := q.bufs ++ b } else q
    s2.flowCheck p ((s.cutFrame p v).map (·.cls) |>.getD f.cls)

/-- The true length of a frame that was cut through is known: its tag, its shapers and the length condition of the express bound take it
(R257, R259, Table 11-3, log entry 90). -/
def State.cutTags (s : State) (p v len : Nat) : State :=
  match s.cutTx p v with
  | some (e, c, t) =>
    if c = 7 then s.oversize e t.q.f
    else
      let d : Int := (s.maxFrame p : Int) - len
      ((s.modPort e fun x => { x with wfqF := mapPut 0 c (s.finishTag e c t.tag len) x.wfqF }).correct e c false d).correct e 7 false d
  | none =>
    match s.cutQueue p v with
    | some (e, c) =>
      match mapGet none c (s.port e).tags, (s.voqOf (voqKey p e c)).head? with
      | some x, some q => if x.1 = p ∧ q.grows p v then s.withTag e c (some (p, x.2.1, s.finishTag e c x.2.1 len)) else s
      | _, _ => s
    | none => s

/-- The last cell of a frame that is cut through has joined it: what its length decides is corrected, and the port counts the frame. -/
def State.endCut (s : State) (p v est : Nat) (f : Frame) : State :=
  let len := f.payload.length
  let s1 := (s.cutTags p v len).correct p f.cls true ((est : Int) - len)
  let s2 := s1.mapFrames (p / 32) fun q => if q.grows p v then { q with growing := false } else q
  (s2.frameReceived p len f).chkFrame p 0 f

/-! Arrival. -/

/-- Nothing is queued for a port or in transmission. -/
def State.portQuiet (s : State) (e : Nat) : Bool := (List.range 8).all fun c => (s.nextFrame e c).isNone && (s.txOpen e c).isNone

/-- The transmission of an arriving Ethernet frame begins before its FCS is known: it is cut through to a port with nothing else to send
(R232, log entry 86). -/
def State.beginsNow (s : State) (p : Nat) (g : Frame) : Bool :=
  match s.route (p / 32) p (s.portOwner p) g.cls g with
  | .out e _ => s.cutThrough p e && s.portUp e && s.portQuiet e &&
      (s.startBlock e g.cls ⟨g, p, g.cls, g.payload.length, s.now, [], none, true, false, 0, false⟩).isNone
  | _ => false

/-- FRAME_ARRIVAL. A fabric frame is one a port has reassembled, one it is reassembling, or one whose cells are charged now (log entry 28). An
Ethernet frame with an FCS error is dropped by the MAC, unless its transmission has begun (R211, R232). -/
def State.frameArrival (s : State) (p : Nat) (f : Frame) (fcsOk : Bool) : State :=
  if ¬ s.portUp p then s
  else if s.fabricPort p then
    let v := 2 * f.cls + f.vc
    let done := (s.port p).rxDone
    let a := mapGet Asm.idle v (s.port p).asm
    if done.contains f then (s.modPort p fun t => { t with rxDone := done.erase f }).ingress p f (some v) true
    else if a.head = some f then (if a.fwd.isNone then s.cutStart p v f else s)
    else (s.chargeCells p v (cellsOf f.payload.length)).ingress p f (some v) true
  else
    let len := s.wireLen p f
    if len < 64 ∨ s.maxFrame p < len then s.bump (portReg p Reg.lnkRxDropCnt)
    else if isPtp f.payload then
      if fcsOk then (s.frameReceived p len { f with origin := s.now }).emit (.ptp p f.payload s.now) else s.bump (portReg p Reg.lnkRxDropCnt)
    else
      match s.etherFrame p f with
      | some g => if fcsOk ∨ s.beginsNow p g then s.ingress p g none fcsOk else s.bump (portReg p Reg.lnkRxDropCnt)
      | none =>
        if fcsOk then (s.frameReceived p len { f with origin := s.now }).dropCounted p (pdReg (p / 32) Reg.rteStationMissCnt) f none
        else s.bump (portReg p Reg.lnkRxDropCnt)

/-- LOCAL_DELIVERY: the head of a local-delivery queue passes to the packet mesh (R232, R233). -/
def State.localDelivery (s : State) (p c : Nat) : State :=
  let key := localKey p c
  let s0 := s.ageLocal p c (s.localOf key)
  match s0.localOf key with
  | [] => s0
  | q :: rest =>
    let s1 := s0.withLocalOf key rest
    let k := portEntryStop p
    let s2 := if isEcho q.f then s1.emit (.meshDeliver k q.f) else (s1.meshPut k (localStop k q.f) q.f).disagree q.f
    let s3 := if q.f.ce then s2.echo (p / 32) q.f else s2
    let s4 := s3.release (p / 32) q
    s4.ageLocal p c (s4.localOf key)

/-! The packet mesh. -/

/-- Remove the first element that satisfies a test. -/
def removeFirst {α : Type} (f : α → Bool) : List α → List α
  | [] => []
  | a :: l => if f a then l else a :: removeFirst f l

/-- The message an output serves next: VC0 first, then the other three in round robin (R33); the oldest of a VC goes, where the far side takes
it. -/
def Stop.pick (x : Stop) (k : Nat) (d : Dir) (takes : MeshFlit → Bool) : Option MeshFlit :=
  let rr := mapGet 0 (dirCode d) x.rr
  ([0] ++ (List.range 3).map fun i => 1 + (rr + i) % 3).findSome? fun v =>
    (x.queue.find? fun (m : MeshFlit) => stopRoute k m.dst == d && m.vc == v).filter takes

/-- The stop after a message has left: the queue without it, and the round robin of the output moved on. -/
def Stop.take (x : Stop) (k : Nat) (d : Dir) (m : MeshFlit) : Stop :=
  { x with queue := removeFirst (fun y => stopRoute k y.dst == d && y.vc == m.vc) x.queue,
           rr := if m.vc = 0 then x.rr else mapPut 0 (dirCode d) (m.vc % 3) x.rr }

/-- A message reaches its destination stop: a frame for another node enters the switch of a port die; any other is
delivered. The flag is false where the switch does not take it. -/
def State.meshArrive (s : State) (k : Nat) (f : Frame) : State × Bool :=
  match stopPortDie k with
  | some n => if f.dest = s.node then (s.emit (.meshDeliver k f), true) else s.inject n k f
  | none => (s.emit (.meshDeliver k f), true)

/-- The far side of an output takes a message: a link has credit for its VC, or leads to an isolated stop; the switch of a port die has a buffer
(R33). -/
def State.meshTakes (s : State) (k : Nat) (d : Dir) (m : MeshFlit) : Bool :=
  if d = .here then (s.meshArrive k m.f).2
  else
    let x := s.stop (stopNext k d)
    x.isolated || decide ((x.queue.filter fun y => y.via == viaOf d && y.vc == m.vc).length ≤ Config.meshDepth)

/-- The message that leaves a stop by an output. -/
def State.meshPick (s : State) (k : Nat) (d : Dir) : Option MeshFlit := (s.stop k).pick k d (s.meshTakes k d)

/-- No message is taken at its destination stop: the try of the first is counted where a free list was empty (R249). -/
def State.meshMiss (s : State) (k : Nat) (d : Dir) : State :=
  match (s.stop k).pick k d (fun _ => true) with
  | some m => if d = .here then (s.meshArrive k m.f).1 else s
  | none => s

/-- MESH_FLIT_FORWARD: one message leaves a stop by an output, is delivered, or is discarded at the last live stop. -/
def State.meshForward (s : State) (k : Nat) (d : Dir) : State :=
  let x := s.stop k
  if x.isolated then s
  else
    match s.meshPick k d with
    | none => s.meshMiss k d
    | some m =>
      let s1 := s.withStop k (x.take k d m)
      if d = .here then (s1.meshArrive k m.f).1
      else if (s.stop (stopNext k d)).isolated then s1.discardAt k m.f
      else s1.meshPass k d m

end Sys2Proof.Machine
end

