-- ==== Sys2Proof/Machine/Link.lean ====
section
/-! DEFINITION. The Ubrix link (R216-R225), training, retraining and retirement of ports (R226-R229), received flow control
(R213, R222), and how ports discipline and judge fabric time (R266, R269, R270). -/

namespace Sys2Proof.Machine

/-- A port that time follows stops being up: LOCKED becomes 0 (R266). -/
def State.unlock (s : State) (e : Nat) : State :=
  if s.fld (pdReg 0 Reg.ftmCtrl) 1 0 = 1 ∧ s.fld (pdReg 0 Reg.ftmCtrl) 8 2 = e then
    (s.withFld (pdReg 0 Reg.ftmStatus) 1 1 0).withServo (0, s.servo.2)
  else s

/-- Replace LNK_PORT_STATUS.STATE; a port that time follows and that is not up leaves LOCKED at 0 (R266). -/
def State.withLinkState (s : State) (e v : Nat) : State :=
  let s1 := s.withFld (portReg e Reg.lnkPortStatus) 2 0 v
  if v = 2 then s1 else s1.unlock e

/-- An Ethernet port advertises its PHY type: that of its width, or of the width it has narrowed to (R211, R228, log entry 93). -/
def State.advertise (s : State) (e : Nat) : State :=
  let r := s.portRec e
  let a := portReg e Reg.lnkPortStatus
  if s.fabricPort e then s
  else s.emit (.advertise e (if s.fld a 12 5 = 0 then bits r 2 1 else s.fld a 4 3) (bit r 16) (bit r 17))

/-- Retire record, narrow record and the like: a fault that names a port (Table 15-3). -/
def State.portFault (s : State) (e cause sev : Nat) (perm : Bool) : State :=
  s.raiseFault (Unit6.ofDie (16 + e / 32)) cause sev perm 15 (e % 32)

/-! Flow control received. -/

/-- Hold a class for a time in KCLK, or release it where the time is 0 (R213, R222). -/
def State.holdClass (s : State) (e c kclks : Nat) : State :=
  let v := if kclks = 0 then 0 else s.clk.kclk + kclks
  let s1 := s.modPort e fun t => { t with hold := mapPut 0 c v t.hold }
  s1.withFld (portReg e Reg.lnkPortStatus) (13 + c) (13 + c) (b2n (kclks != 0))

/-- A hold cell (R222). -/
def State.holdCell (s : State) (e mask dur : Nat) : State :=
  let s1 := s.bump (portReg e Reg.lnkFlowctlRxCnt)
  let s2 := if bit mask 7 then s1.bump (portReg e Reg.lnkExpressFcIgnoredCnt) else s1
  forEach (maskBits mask 7) (fun c s => s.holdClass e c (4 * dur)) s2

/-- A PAUSE frame (R213). -/
def State.pauseFrame (s : State) (e quanta : Nat) : State :=
  let s1 := s.bump (portReg e Reg.lnkFlowctlRxCnt)
  if ¬ bit (s.portRec e) 20 ∨ bit (s.portRec e) 19 then s1.bump (portReg e Reg.lnkRxDropCnt)
  else
    let s2 := if quanta = 0 then s1 else s1.bump (portReg e Reg.lnkExpressFcIgnoredCnt)
    forEach (List.range 7) (fun c s => s.holdClass e c (if quanta = 0 then 0 else max 1 (quanta * 128 / s.macRate e))) s2

/-- A PFC frame (R213). -/
def State.pfcFrame (s : State) (e enable : Nat) (quanta : List Nat) : State :=
  let s1 := s.bump (portReg e Reg.lnkFlowctlRxCnt)
  if ¬ bit (s.portRec e) 19 then s1.bump (portReg e Reg.lnkRxDropCnt)
  else
    let cls (p : Nat) : Nat := s.fld (portReg e Reg.lnkPfcMap) (3 * p + 2) (3 * p)
    let s2 := if (maskBits enable 8).any fun p => cls p == 7 then s1.bump (portReg e Reg.lnkExpressFcIgnoredCnt) else s1
    forEach (maskBits enable 8) (fun p s =>
      let q := nth quanta p 0
      if cls p = 7 then s else s.holdClass e (cls p) (if q = 0 then 0 else max 1 (q * 128 / s.macRate e))) s2

/-! Retirement, retraining. -/

/-- Discard the frames queued for a retired port, and its open transmissions (R279). -/
def State.dropQueued (s : State) (e : Nat) : State :=
  let s1 := (List.range 8).foldl (fun s c => (List.range 129).foldl (fun s i =>
    match s.roundQueue e c i with
    | [] => s
    | l =>
      forEach l (fun q s => s.release (q.die e) q)
        ((s.withRoundQueue e c i []).bumpBy (pdReg (e / 32) Reg.rteRetireDropCnt) l.length)) s) s
  let open_ := (s1.port e).tx.filterMap (·.2)
  (forEach open_ (fun t s => s.release (t.q.die e) t.q)
    ((s1.modPort e fun p => { p with tx := [], tags := [] }).bumpBy (pdReg (e / 32) Reg.rteRetireDropCnt) open_.length)).wfqIdle e

/-- Discard the open frame of a stream: counted once, its cells' buffers given back; one that was cut through is dropped wherever it is
(R219). -/
def State.dropAsm (s : State) (e v : Nat) (skip : Bool) : State :=
  let a := mapGet Asm.idle v (s.port e).asm
  let next := if skip then Asm.skipping else Asm.idle
  match a.head with
  | none => s.withAsm e v next
  | some f =>
    let n := cellsOf f.payload.length
    let s1 := (s.withAsm e v next).bump (portReg e Reg.lnkRxDropCnt)
    match a.fwd with
    | none => s1.returnCells e v n
    | some est =>
      let held := ((s.cutFrame e v).map fun q => q.bufs.length).getD 0
      (((s1.correct e f.cls true ((est : Int) - f.payload.length)).cutDrop e v).returnCells e v (n - held)).withAsm e v next

/-- Discard every open frame that a port receives. -/
def State.dropStreams (s : State) (e : Nat) : State :=
  forEach (List.range 16) (fun v s => if (mapGet Asm.idle v (s.port e).asm).head.isSome then s.dropAsm e v false else s) s

/-- A port is retired (R229). -/
def State.retirePort (s : State) (e : Nat) : State :=
  let lost := (s.port e).replay.length
  let s1 := (((s.withLinkState e 5).bumpBy (portReg e Reg.lnkRxDropCnt) lost).modPort e fun p => { p with
    replay := [], filling := [], linked := false, firstTime := false, credIn := false, timeOwed := false }).portFault e 0x11 2 true
  (s1.dropStreams e).dropQueued e

/-- CAUSE codes of LNK_PORT_STATUS. -/
def causeCode : RetrainCause → Nat
  | .alignment => 1 | .replay => 2 | .fecLock => 3 | .software => 4

/-- A retrain with a cause code; the third within 1 s retires the port (R227). -/
def State.retrain (s : State) (e cause : Nat) : State :=
  let p := s.port e
  let recent := (p.retrainAt.filter fun t => s.clk.kclk < t + 250000000) ++ [s.clk.kclk]
  let s1 := (s.bump (portReg e Reg.lnkRetrainCnt)).withFld (portReg e Reg.lnkPortStatus) 23 21 cause
  let s2 := s1.withPort e { p with retrainAt := recent, firstTime := false, credIn := false, goodRun := 0, badRun := 0 }
  if 3 ≤ recent.length then s2.retirePort e else (s2.withLinkState e 1).advertise e

/-! Groups received (R224). -/

/-- Send every unacknowledged group again (R224). -/
def State.replay (s : State) (e : Nat) : State :=
  let p := s.port e
  if p.replay.isEmpty then s
  else if p.replay.any fun g => decide (8 ≤ g.attempts) then s.retrain e 2
  else
    let again := p.replay.map fun g => { g with attempts := g.attempts + 1 }
    let hot := (again.filter fun g => decide (2 < g.attempts)).flatMap (·.frames) |>.filter fun n => !p.gt2.contains n
    let new := hot.eraseDups
    let s1 := (s.bumpBy (portReg e Reg.lnkReplayCnt) again.length).bumpBy (portReg e Reg.lnkReplayGt2Cnt) new.length
    let s2 := s1.withPort e { p with replay := again, gt2 := p.gt2 ++ new, ackAt := s.clk.kclk }
    let s3 := forEach again (fun g s => s.putGroup e (buildGroup (s.port e) g.cells (some g.seq))) s2
    if new.isEmpty then s3 else s3.portFault e 0x12 1 false

/-- Drop the groups up to an acknowledged sequence number. -/
def ackGroups (ack : Nat) (l : List RGroup) : List RGroup :=
  if l.any fun g => g.seq == ack then (l.dropWhile fun g => g.seq != ack).drop 1 else l

/-- Acknowledgement and credits of a trailer (R221, R224). -/
def State.takeTrailer (s : State) (e : Nat) (t : Bytes) : State :=
  let p := s.port e
  let w1 := rdLe t 2 2
  let left := if bit w1 12 then ackGroups (w1 % 4096) p.replay else p.replay
  let cr (p : Port) (w : Nat) : Port :=
    let v := w % 16
    let d := (w / 16 + 4096 - mapGet 0 v p.crSeen) % 4096
    { p with txCred := mapPut 0 v (mapGet 0 v p.txCred + d) p.txCred, crSeen := mapPut 0 v (w / 16) p.crSeen }
  let p1 := { p with
    replay := left, ackAt := if left.length = p.replay.length then p.ackAt else s.clk.kclk,
    gt2 := p.gt2.filter fun n => left.any fun g => g.frames.contains n }
  let s1 := s.withPort e (cr (cr p1 (rdLe t 4 2)) (rdLe t 6 2))
  if bit (rdLe t 0 2) 13 then s1.replay e else s1

/-- The header of a cell as a frame without payload (Table 9-3, R218). -/
def cellFrame (now : Nat) (h : Bytes) : Frame :=
  let w := rdLe h 8 4
  { kind := rdLe h 1 1 / 16, cls := rdLe h 1 1 % 8, vc := rdLe h 1 1 / 8 % 2, dest := rdLe h 4 2 % 16384, src := rdLe h 6 2 % 16384,
    flow := w % 2 ^ 20, unord := bit w 20, ce := bit w 21, ece := bit w 22, origin := rebuildOrigin now (rdLe h 12 4), payload := [] }

/-- Reserved fields of a data cell header and its LEN are legal (Tables 9-3, 9-4). -/
def cellOk (h : Bytes) (ty : Nat) : Bool :=
  let len := rdLe h 2 2
  let w := rdLe h 8 4
  rdLe h 4 2 < 16384 && rdLe h 6 2 < 16384 && w < 2 ^ 23 &&
    (if ty = 1 ∨ ty = 2 then len == 256 else decide (1 ≤ len) && decide (len ≤ 256)) && (ty == 1 || ty == 4 || rdLe h 12 4 == 0)

/-- A frame of a stream is whole: it waits for classification, or its last cell joins what is cut through. -/
def State.asmDone (s : State) (e v : Nat) (f : Frame) (fwd : Option Nat) : State :=
  match fwd with
  | some est => (s.withAsm e v Asm.idle).endCut e v est f
  | none => (s.withAsm e v Asm.idle).modPort e fun p => { p with rxDone := p.rxDone ++ [f] }

/-- A cell that no frame takes: its credit is used, and its buffer freed at once (R219, R221). -/
def State.wasteCell (s : State) (e v : Nat) : State := (s.chargeCells e v 1).returnCells e v 1

/-- Bytes of a cell join the frame of its stream, which is dropped where it grows too long (R219). -/
def State.asmCell (s : State) (e v ty : Nat) (f : Frame) (data : Bytes) (fwd : Option Nat) : State :=
  let g := { f with payload := f.payload ++ data }
  let s1 := (s.chargeCells e v 1).withAsm e v ⟨some g, false, fwd⟩
  if s.maxFrame e < g.payload.length then s1.dropAsm e v (ty == 1 || ty == 2)
  else
    let s2 := if fwd.isSome then s1.growCut e v f data else s1
    if (ty = 3 ∨ ty = 4) ∧ (mapGet Asm.idle v (s2.port e).asm).skip then s2.withAsm e v Asm.idle
    else if ty = 3 ∨ ty = 4 then s2.asmDone e v g fwd
    else s2

/-- A cell that breaks a rule of R219: the frame it belongs to is discarded and counted; its own buffer is freed, where its VC had a credit. -/
def State.badCell (s : State) (e v ty : Nat) : State :=
  let s1 := if s.rxCredit e v = 0 then s else s.wasteCell e v
  let skip := ty == 1 || ty == 2
  if (mapGet Asm.idle v (s.port e).asm).head.isSome then s1.dropAsm e v skip else (s1.bump (portReg e Reg.lnkRxDropCnt)).dropAsm e v skip

/-- A data cell of an accepted group (R219). -/
def State.dataCell (s : State) (e : Nat) (cell : Bytes) : State :=
  let h := cell.take 16
  let ty := rdLe h 0 1 % 16
  let f := cellFrame s.now h
  let v := 2 * f.cls + f.vc
  let data := slice cell 16 (min 256 (rdLe h 2 2))
  let a := mapGet Asm.idle v (s.port e).asm
  if ¬ cellOk h ty ∨ 4 ≤ f.kind ∨ s.rxCredit e v = 0 then s.badCell e v ty
  else if ty = 1 ∨ ty = 4 then (if a.head.isSome then s.dropAsm e v false else s).asmCell e v ty f data none
  else
    match a.head with
    | none =>
      if a.skip then (s.wasteCell e v).withAsm e v (if ty = 3 then Asm.idle else a)
      else s.badCell e v ty
    | some g => if g.kind ≠ f.kind then s.badCell e v ty else s.asmCell e v ty g data a.fwd

/-- A cell of an accepted group (Table 9-4). One of an invalid TYPE ends the open frame of the stream that its header names (R219). -/
def State.takeCell (s : State) (e : Nat) (cell : Bytes) : State :=
  let b0 := rdLe cell 0 1
  let ty := b0 % 16
  if ty = 0 then (if rdLe cell 1 15 = 0 then s else s.bump (portReg e Reg.lnkRxDropCnt))
  else if ty = 5 then
    if rdLe cell 2 2 = 0 ∧ rdLe cell 7 9 = 0 then s.holdCell e (rdLe cell 1 1) (rdLe cell 4 3) else s.bump (portReg e Reg.lnkRxDropCnt)
  else if ty ≤ 4 then s.dataCell e cell
  else
    let v := 2 * (rdLe cell 1 1 % 8) + rdLe cell 1 1 / 8 % 2
    if (mapGet Asm.idle v (s.port e).asm).head.isSome then s.dropAsm e v true else s.bump (portReg e Reg.lnkRxDropCnt)

/-- Whether a link is trained far enough to carry groups: up, or waiting for the first TIME exchange. -/
def State.linkLive (s : State) (e : Nat) : Bool := s.fabricPort e && (s.portUp e || (s.port e).firstTime)

/-- A bad block: the fourth in a row loses alignment (R216). -/
def State.badBlock (s : State) (e : Nat) : State :=
  let s1 := s.modPort e fun p => { p with badRun := p.badRun + 1, goodRun := 0 }
  if s.linkLive e ∧ 4 ≤ (s1.port e).badRun then s1.retrain e 1 else s1

/-- A good ordered set: a run of bad blocks ends (R216). -/
def State.goodSet (s : State) (e : Nat) : State := s.modPort e fun p => { p with badRun := 0 }

/-- An ordered set that is discarded: counted, and a bad block where its mark or its CRC is bad (R216, R225). -/
def State.badSet (s : State) (e : Nat) (b : Bytes) : State :=
  let s1 := s.bump (portReg e Reg.lnkOsBadCnt)
  if rdLe b 0 1 / 16 = 10 ∧ crc32c (b.take 60) = rdLe b 60 4 then s1.goodSet e else s1.badBlock e

/-- CREDIT_INIT of a port: its credits and the next GSEQ it expects (R221). -/
def State.creditInitSet (s : State) (e : Nat) : Bytes :=
  orderedSet 2 ((List.range 16).flatMap (fun v => natLe 2 (s.portCredit e v)) ++ natLe 2 (s.port e).expSeq)

/-- A fabric port trains. -/
def State.linkTrains (s : State) (e : Nat) : Bool := s.fabricPort e && s.portOn e && (s.linkState e == 1 || s.linkState e == 3)

/-- A group received while a port trains: the fourth good one in a row declares alignment, and CREDIT_INIT goes out (R216, R226). -/
def State.alignGroup (s : State) (e : Nat) (good : Bool) : State :=
  let s1 := s.modPort e fun p => { p with goodRun := if good then min 4 (p.goodRun + 1) else 0 }
  if good ∧ (s.port e).goodRun = 3 then s1.putSet e (s.creditInitSet e) else s1

/-- Mark and CRC of a group are good (R216, R223). -/
def groupOk (b : Bytes) : Bool := rdLe b 0 1 / 16 == 5 && crc32c (b.take 1100) == rdLe b 1100 4

/-- GROUP_RECEIVE (R224). -/
def State.groupReceive (s : State) (e : Nat) (b : Bytes) : State :=
  if ¬ s.linkLive e then (if s.linkTrains e then s.alignGroup e (groupOk b) else s)
  else if ¬ groupOk b then
    ((s.bump (portReg e Reg.lnkCrcFailCnt)).modPort e fun p => { p with nakDue := true }).badBlock e
  else
    let t := slice b 1088 16
    let w := rdLe t 0 2
    let s1 := (s.modPort e fun p => { p with badRun := 0, goodRun := min 4 (p.goodRun + 1) }).takeTrailer e t
    let p := s1.port e
    if bit w 12 then s1
    else if w % 4096 = p.expSeq then
      let s2 := s1.withPort e { p with expSeq := (p.expSeq + 1) % 4096, ackSend := some p.expSeq }
      forEach (List.range 4) (fun i s => s.takeCell e (slice b (272 * i) 272)) s2
    else if sgn 12 ((w % 4096 + 4096 - p.expSeq) % 4096) < 0 then s1.bump (portReg e Reg.lnkDupGroupCnt)
    else s1

/-! Ordered sets (R225). -/

/-- A port may take an ordered set of link-up: enabled, fabric mode, training, up or narrowing. -/
def State.setTaker (s : State) (e : Nat) : Bool :=
  s.fabricPort e && s.portOn e && decide (1 ≤ s.linkState e) && decide (s.linkState e ≤ 3)

/-- CREDIT_INIT received: initial credits at link-up; after a retrain the transmitter resumes from the group named (R226, R227). -/
def State.creditInit (s : State) (e : Nat) (b : Bytes) : State :=
  if ¬ s.setTaker e then s
  else if ¬ setOk b 2 then s.badSet e b
  else
    let s1 := s.goodSet e
    let p := s1.port e
    if ¬ p.linked then
      s1.withPort e { p with
        linked := true, credIn := true, crSeen := [],
        txCred := (List.range 16).foldl (fun m v => mapPut 0 v (rdLe b (8 + 2 * v) 2) m) [] }
    else
      let nx := rdLe b 40 2 % 4096
      let left := if p.replay.any fun g => g.seq == nx then p.replay.dropWhile fun g => g.seq != nx else []
      let fresh := left.map fun g => { g with attempts := 0 }
      forEach fresh (fun g s => s.putGroup e (buildGroup (s.port e) g.cells (some g.seq)))
        (s1.withPort e { p with replay := fresh, credIn := true })

/-! Lanes and widths (R207, R228). -/

/-- First lane of a port. -/
def State.firstLane (s : State) (e : Nat) : Nat := bits (s.portRec e) 9 3

/-- A lane of a port is retired. -/
def State.laneRetired (s : State) (e i : Nat) : Bool := s.fld (pdReg (e / 32) (Reg.lnkLaneStatus (s.firstLane e + i))) 0 0 == 1

/-- Mask of a port's good lanes. -/
def State.goodLanes (s : State) (e : Nat) : Nat :=
  maskOf ((List.range (2 ^ bits (s.portRec e) 2 1)).filter fun i => !s.laneRetired e i)

/-- The lowest aligned group of good lanes of the largest width below `w` lanes: width code and mask (R228). -/
def narrower (good w : Nat) : Option (Nat × Nat) :=
  ([2, 1, 0] : List Nat).findSome? fun code =>
    let k := 2 ^ code
    if w ≤ k then none
    else ((List.range (8 / k)).find? fun g => (List.range k).all fun i => bit good (g * k + i)).map
      fun g => (code, maskOf ((List.range k).map (g * k + ·)))

/-- Lanes of a port in use. -/
def State.activeLanes (s : State) (e : Nat) : Nat := s.fld (portReg e Reg.lnkPortStatus) 12 5

/-- Narrow a port to a group of lanes that both ends have, or retire it (R228, R229). -/
def State.narrow (s : State) (e good : Nat) : State :=
  match narrower good (s.portWidth e) with
  | none => s.retirePort e
  | some (code, mask) =>
    let a := portReg e Reg.lnkPortStatus
    let s1 := ((((s.withFld a 4 3 code).withFld a 12 5 mask).withLinkState e 3).bump (portReg e Reg.lnkNarrowCnt)).portFault e 0x10 1 false
    let s2 := s1.modPort e fun p => { p with reqWidth := none, firstTime := false, credIn := false, goodRun := 0 }
    if s.fabricPort e then s2
    else
      let open_ := (s2.port e).tx.filterMap (·.2)
      ((forEach open_ (fun t s => s.release (t.q.die e) t.q)
        ((s2.modPort e fun p => { p with tx := [] }).bumpBy (portReg e Reg.lnkRxDropCnt) open_.length)).wfqIdle e).advertise e

/-- LINK_STATE of a port: its good lanes, the width it can run at, and whether it asks or agrees (R228). -/
def State.linkStateSet (s : State) (e : Nat) (request : Bool) : Bytes :=
  let w := match narrower (s.goodLanes e) (s.portWidth e) with | some (c, _) => c | none => 0
  orderedSet 3 (natLe 1 (s.goodLanes e) ++ natLe 1 w ++ natLe 1 (b2n request))

/-- LINK_STATE received: a request is answered by an agreement. Where one end has asked, and a lane in use is not good at both, both ends take
the group that is: once, though their requests cross (R228). -/
def State.linkStateReceive (s : State) (e : Nat) (b : Bytes) : State :=
  if ¬ s.setTaker e then s
  else if ¬ setOk b 3 then s.badSet e b
  else
    let asked := bit (rdLe b 10 1) 0
    let good := s.goodLanes e &&& rdLe b 8 1
    let s1 := if asked then (s.goodSet e).putSet e (s.linkStateSet e false) else s.goodSet e
    if (asked || (s.port e).reqWidth.isSome) && s.activeLanes e &&& good != s.activeLanes e then s1.narrow e good else s1

/-- A port has lost one of the lanes it uses: with no group left it is retired; else a fabric port asks its partner, an Ethernet port restarts at
once, and one that is down stays down (R228, R229). -/
def State.laneLost (s : State) (e : Nat) : State :=
  match narrower (s.goodLanes e) (s.portWidth e) with
  | none => s.retirePort e
  | some (code, _) =>
    if s.linkState e = 4 then s
    else if s.fabricPort e then
      ((s.modPort e fun p => { p with reqWidth := some code }).withLinkState e 3).putSet e (s.linkStateSet e true)
    else s.narrow e (s.goodLanes e)

/-- BER_WINDOW: bits corrected per lane over a window of `bitCount` bits, and codewords that were not correctable (R228, R230). -/
def State.berWindow (s : State) (n : Nat) (lanes : List LaneErrors) (bitCount : Nat) : State :=
  let r := (s.reg (pdReg n Reg.lnkBerRetire)).toNat
  let mant := bits r 3 0
  let ex := bits r 8 4
  let s1 := forEach (List.range 128) (fun l s =>
    let x := nth lanes l ⟨0, 0⟩
    let c := x.corrected
    let a := pdReg n (Reg.lnkLaneStatus l)
    let s' := (s.withReg (pdReg n (Reg.lnkLaneBer l)) (BitVec.ofNat 64 (c % 2 ^ 48))).bumpBy (pdReg n (Reg.lnkLaneUncorrCnt l)) x.lostWords
    if mant * bitCount < c * 10 ^ ex then s'.withFld a 0 0 1 else s') s
  forEach ((List.range 32).map (32 * n + ·)) (fun e s =>
    if s.portOn e && s.linkState e != 5 && s.linkState e != 0 && (maskBits (s.activeLanes e) 8).any (s1.laneRetired e) then s.laneLost e
    else s) s1

/-! Time sets (R225, R266-R270). -/

/-- A frame in transmission whose class has closed ends late (R264). -/
def State.markLate (s : State) (e : Nat) : State :=
  let o := s.shuOpen e
  s.modPort e fun p => { p with tx := p.tx.map fun x => (x.1, x.2.map fun t => { t with late := t.late || !bit o x.1 }) }

/-- The entry of a port's shutter list that fabric time selects, and the classes it opens (R261). -/
def State.shutterNow (s : State) (e : Nat) : State :=
  let a := portReg e Reg.shuStatus
  if s.fld a 0 0 = 0 then s
  else (((s.withFld a 10 3 (s.shuAt e false s.now)).withFld a 18 11 (s.shuOpenAt e false s.now)).markLate e).gateWait e

/-- Instances of a timer that a step of fabric time to `t` passes over (R268, log entry 92). -/
def Timer.skips (x : Timer) (t : Nat) : Nat :=
  if x.due < t then (t - x.due - 1) / max 1 x.period + 1 else 0

/-- A timer after a step of fabric time: it waits for its next time, and a late timer with instances skipped starts the first of them late. -/
def Timer.stepped (x : Timer) (t : Nat) : Timer :=
  let k := x.skips t
  { x with next := x.next + k, pendingLate := if x.late ∧ 0 < k ∧ x.pendingLate.isNone then some x.next else x.pendingLate }

/-- The timers of a tile after a forward step of fabric time (R268). -/
def Tile.stepTimers (y : Tile) (t : Nat) : Tile :=
  let n := (y.timers.map fun x => match x.2 with | some z => z.skips t | none => 0).sum
  { y with timers := y.timers.map (fun x => (x.1, x.2.map fun z => z.stepped t)), periodOverrun := satAdd y.periodOverrun n }

/-- Step fabric time: shutter lists resume at the entry that the new time selects, periodic instances passed over are skipped, sampling goes on
from the new time, and an armed barrier whose time is passed over is LATE (R268, R273, R310). -/
def State.stepTime (s : State) (d : Int) : State :=
  let s1 := (s.withClk { s.clk with ftm := BitVec.ofNat 64 (toTwos 64 ((s.clk.ftm.toNat : Int) + d)) }).bump (pdReg 0 Reg.ftmStepCnt)
  let t := (s.reg Reg.detBarrierTime).toNat
  let s2 := if s.barrierArmed && decide (s.now < t) && decide (t < s1.now) then s1.barrierEvent 2 else s1
  let s3 := if s.now < s1.now then forEach (s.tiles.map (·.1)) (fun x s => s.modTile x (·.stepTimers s1.now)) s2 else s2
  let s4 := forEach (List.range 4) (fun n s => s.modPdie n fun d => { d with obsAt := s1.now }) s3
  forEach (List.range 128) (fun e s => s.shutterNow e) s4

/-- The servo of SOURCE 1 takes an offset of its port: a step, or a slew by a rate the spec leaves open (R266). -/
def State.servoTake (s : State) (e : Nat) (off : Int) : State :=
  let c := (s.reg (pdReg 0 Reg.ftmCtrl)).toNat
  if bits c 1 0 ≠ 1 ∨ bits c 8 2 ≠ e then s
  else
    let x := off - sgn 16 (s.reg (portReg e Reg.ftmAsym)).toNat
    let run := if x.natAbs ≤ 32 then min 16 (s.servo.1 + 1) else 0
    let last := (s.servo.2 ++ [x]).drop (s.servo.2.length + 1 - 4)
    let st := pdReg 0 Reg.ftmStatus
    let locked := s.fld st 1 1 = 1
    let s1 := (((s.withServo (run, last)).withFld st 1 1 (b2n (decide (16 ≤ run)))).withFld st 63 32 (toTwos 32 x))
    if (s.reg (pdReg 0 Reg.ftmStepThresh)).toNat % 2 ^ 32 < x.natAbs ∧ ¬ locked then s1.stepTime x
    else (s1.withFld (pdReg 0 Reg.ftmRate) 31 0 (s1.freeNow.toNat % 2 ^ 32)).useFree

/-- A neighbour falls out of step (R270). -/
def State.outOfStep (s : State) (e : Nat) : State :=
  let a := portReg e Reg.ftmNbrStatus
  if s.fld a 0 0 = 1 then (s.withFld a 0 0 0).bump (portReg e Reg.ftmOutOfStepCnt) else s

/-- Judge a neighbour on a TIME set: its flag, and the offset where one was measured (R270). -/
def State.judge (s : State) (e : Nat) (flag : Bool) (off : Option Int) : State :=
  let g := s.guard e
  let p := s.port e
  let far := match off with | some o => decide (g < o.natAbs) | none => false
  let fine := flag && match off with | some o => decide (2 * o.natAbs ≤ g) | none => false
  let p1 := { p with badOffs := if far then p.badOffs + 1 else 0, goodSets := if fine then min 4 (p.goodSets + 1) else 0 }
  let a := portReg e Reg.ftmNbrStatus
  let s1 := (s.withPort e p1).withFld a 1 1 (b2n flag)
  if ¬ flag ∨ 2 ≤ p1.badOffs then s1.outOfStep e else if 4 ≤ p1.goodSets then s1.withFld a 0 0 1 else s1

/-- TIME_SET_RECEIVE: offset and delay, the servo, the neighbour, and the port's coming up (R225, R226). -/
def State.timeSetReceive (s : State) (e : Nat) (b : Bytes) : State :=
  if ¬ s.linkLive e then s
  else if ¬ setOk b 1 then s.badSet e b
  else
    let t1 := rdLe b 16 8
    let t2 := rdLe b 24 8
    let t3 := rdLe b 8 8
    let t4 := s.now
    let sd (a b : Nat) : Int := sgn 64 ((a + 2 ^ 64 - b) % 2 ^ 64)
    let s1 := (s.goodSet e).modPort e fun p => { p with echoTx := t3, echoRx := t4, lastTime := s.clk.kclk }
    let s2 := if (s.port e).firstTime ∧ (s.port e).credIn then (s1.modPort e fun p => { p with firstTime := false }).withLinkState e 2 else s1
    let flag := bit (rdLe b 32 1) 0
    if t1 = 0 ∧ t2 = 0 then s2.judge e flag none
    else
      let off := (sd t2 t1 + sd t3 t4) / 2
      let dly := (sd t4 t1 - sd t3 t2) / 2
      (((s2.withFld (portReg e Reg.ftmNbrStatus) 63 32 (toTwos 32 off)).withFld (portReg e Reg.ftmNbrDelay) 31 0
        (toTwos 32 dly)).judge e flag (some off)).servoTake e off

/-- TIME_SET_SEND: a TIME set leaves at the next place between blocks that R225 allows it. -/
def State.timeSetSend (s : State) (e : Nat) : State :=
  if ¬ s.linkLive e then s else (s.modPort e fun p => { p with timeOwed := true, timeAt := s.clk.kclk }).timeSlot e

/-! Coming up (R210, R212, R226). -/

/-- Training, FEC lock, alignment and the exchange of CREDIT_INIT are done. -/
def State.trainingDone (s : State) (e : Nat) (inOrder verified : Bool) : State :=
  let st := s.linkState e
  if ¬ s.portOn e ∨ (st ≠ 1 ∧ st ≠ 3) then s
  else
    let a := portReg e Reg.lnkPortStatus
    let w := bits (s.portRec e) 2 1
    let s0 := if s.activeLanes e = 0 then (s.withFld a 4 3 w).withFld a 12 5 (2 ^ 2 ^ w - 1) else s
    if s.fabricPort e then
      if ¬ inOrder then (s0.withLinkState e 4).withFld a 23 21 5
      else
        let s1 := s0.modPort e fun p => { p with firstTime := true, goodRun := 4, badRun := 0 }
        if (s.port e).goodRun < 4 then s1.putSet e (s.creditInitSet e) else s1
    else (s0.withLinkState e 2).modPort e fun p => { p with preempt := bit (s.portRec e) 18 && verified }

/-- A port that trains and is not up within 1 s starts training again (R226); one that is down for LANE_ORDER stays down (R210). -/
def State.trainingTimeout (s : State) (e : Nat) : State :=
  if ¬ s.portOn e ∨ (s.linkState e ≠ 1 ∧ s.linkState e ≠ 3) then s
  else ((((s.bump (portReg e Reg.lnkRetrainCnt)).withFld (portReg e Reg.lnkPortStatus) 23 21 6).modPort e fun p => { p with
    firstTime := false, credIn := false, goodRun := 0 }).withLinkState e 1).advertise e

/-- A port begins to train, on the lowest group of its good lanes that is wide enough where some are retired (R226, R228, R229). -/
def State.trainPort (s : State) (e : Nat) : State :=
  let a := portReg e Reg.lnkPortStatus
  let w := 2 ^ bits (s.portRec e) 2 1
  let s1 := (s.withReg a 1).unlock e
  let good := s1.goodLanes e
  if good = 2 ^ w - 1 then s1.advertise e
  else
    match narrower good w with
    | some x => ((s1.withFld a 4 3 x.1).withFld a 12 5 x.2).advertise e
    | none => s1.retirePort e

/-- Begin the training of every enabled port of a die, each lane named to its port; the others are disabled (R207, R226). Lanes and ports that are
retired stay so (R229). -/
def State.startPorts (s : State) (n : Nat) : State :=
  let lane (l : Nat) : Nat := pdReg n (Reg.lnkLaneStatus l)
  let s0 := forEach (List.range 128) (fun l s => s.withReg (lane l) (BitVec.ofNat 64 ((s.reg (lane l)).toNat % 2))) s
  forEach ((List.range 32).map (32 * n + ·)) (fun e s =>
    if s.portOn e then
      let s1 := forEach (List.range (2 ^ bits (s.portRec e) 2 1)) (fun i s =>
        s.withReg (lane (s.firstLane e + i)) (BitVec.ofNat 64 ((s.reg (lane (s.firstLane e + i))).toNat % 2 + 2 + (e % 32) <<< 2))) s
      if s.linkState e = 5 then s1 else (s1.withPort e Port.reset).trainPort e
    else ((s.withPort e Port.reset).withReg (portReg e Reg.lnkPortStatus) 0).unlock e) s0

end Sys2Proof.Machine
end

