-- ==== Sys2Proof/Machine/Numeric.lean ====
section
/-! DEFINITION. Number formats, exact values, rounding and flags (chapter 03). -/

namespace Sys2Proof.Machine

/-- An exact value: NaN, an infinity, or the finite (-1)^neg × num / den with den > 0; zero keeps its sign. -/
inductive Num where
  | nan
  | inf (neg : Bool)
  | fin (neg : Bool) (num den : Nat)
  deriving DecidableEq, Repr

/-- +0. -/
def Num.zero : Num := .fin false 0 1

/-- 1. -/
def Num.one : Num := .fin false 1 1

/-- Whether the value is a NaN. -/
def Num.isNan : Num → Bool
  | .nan => true
  | _ => false

/-- Whether the value is finite. -/
def Num.isFin : Num → Bool
  | .fin _ _ _ => true
  | _ => false

/-- Whether the value is ±0. -/
def Num.isZero : Num → Bool
  | .fin _ 0 _ => true
  | _ => false

/-- The sign bit. -/
def Num.neg? : Num → Bool
  | .nan => false
  | .inf s => s
  | .fin s _ _ => s

/-- Flip the sign. -/
def Num.negate : Num → Num
  | .nan => .nan
  | .inf s => .inf !s
  | .fin s n d => .fin (!s) n d

/-- Magnitude. -/
def Num.abs : Num → Num
  | .nan => .nan
  | .inf _ => .inf false
  | .fin _ n d => .fin false n d

/-- m × 2^e with a sign. -/
def dyadic (s : Bool) (m : Nat) (e : Int) : Num :=
  if 0 ≤ e then .fin s (m <<< e.toNat) 1 else .fin s m (1 <<< (-e).toNat)

/-- Element formats of Table 3-2 by ELEM code: floating widths, bias, largest finite code, and what exists. -/
structure Fmt where
  width : Nat
  ebits : Nat
  fbits : Nat
  bias : Nat
  maxCode : Nat
  hasInf : Bool
  /-- The canonical NaN code, where the format has one (R79). -/
  nanCode : Option Nat
  deriving DecidableEq, Repr

/-- Table 3-2 and R66, by ELEM. -/
def fmtOf : Nat → Fmt
  | 0 => ⟨16, 8, 7, 127, 0x7F7F, true, some 0x7FC0⟩
  | 1 => ⟨16, 5, 10, 15, 0x7BFF, true, some 0x7E00⟩
  | 2 => ⟨32, 8, 23, 127, 0x7F7FFFFF, true, some 0x7FC00000⟩
  | 3 => ⟨8, 4, 3, 7, 0x7E, false, some 0x7F⟩
  | 4 => ⟨8, 5, 2, 15, 0x7B, true, some 0x7E⟩
  | 5 => ⟨6, 3, 2, 3, 0x1F, false, none⟩
  | 6 => ⟨6, 2, 3, 1, 0x1F, false, none⟩
  | 7 => ⟨4, 2, 1, 1, 0x7, false, none⟩
  | 8 => ⟨8, 0, 7, 0, 127, false, none⟩
  | 9 => ⟨4, 0, 3, 0, 7, false, none⟩
  | 10 => ⟨8, 8, 0, 127, 0xFE, false, some 0xFF⟩
  | _ => ⟨8, 5, 3, 15, 0xFE, false, some 0xFF⟩

/-- Bits of an element. -/
def elemBits (e : Nat) : Nat := (fmtOf e).width

/-- INT8 or INT4. -/
def isIntElem (e : Nat) : Bool := e == 8 || e == 9

/-- E8M0 or UE5M3. -/
def isScaleElem (e : Nat) : Bool := e == 10 || e == 11

/-- The exact value of a code (R64, R66). -/
def decodeElem (e code : Nat) : Num :=
  let f := fmtOf e
  if isIntElem e then
    let v := sgn f.width code
    .fin (decide (v < 0)) v.natAbs 1
  else if e = 10 then
    if code = 0xFF then .nan else dyadic false 1 ((code : Int) - 127)
  else
    let s := if e = 11 then false else bit code (f.width - 1)
    let ex := (code >>> f.fbits) % 2 ^ f.ebits
    let fr := code % 2 ^ f.fbits
    if e = 11 ∧ code = 0xFF then .nan
    else if e = 3 ∧ code % 128 = 0x7F then .nan
    else if f.hasInf ∧ ex = 2 ^ f.ebits - 1 then (if fr = 0 then .inf s else .nan)
    else if ex = 0 then dyadic s fr (1 - (f.bias : Int) - f.fbits)
    else dyadic s (2 ^ f.fbits + fr) ((ex : Int) - f.bias - f.fbits)

/-! Flags of VEC_CVT_STATUS (Table 3-8). -/

/-- INEXACT. -/
def fInexact : Nat := 1
/-- OVF. -/
def fOvf : Nat := 2
/-- SAT. -/
def fSat : Nat := 4
/-- UNF. -/
def fUnf : Nat := 8
/-- NAN_GEN. -/
def fNanGen : Nat := 16
/-- NAN_LOST. -/
def fNanLost : Nat := 32

/-- Numeric mode of a conversion: rounding mode, SAT, and the 24-bit u of stochastic rounding (R77, R81). -/
structure Rnd where
  mode : Nat
  sat : Bool
  u : Nat
  deriving DecidableEq, Repr

/-- RNE, saturating. -/
def Rnd.rne : Rnd := ⟨0, true, 0⟩

/-- The 24-bit u of an element (R81). -/
def stochasticU (seed index : Nat) : Nat :=
  let m := 2 ^ 64
  let z0 := seed ^^^ (index * 0x9E3779B97F4A7C15) % m
  let z1 := ((z0 ^^^ z0 >>> 30) * 0xBF58476D1CE4E5B9) % m
  let z2 := ((z1 ^^^ z1 >>> 27) * 0x94D049BB133111EB) % m
  let z3 := z2 ^^^ z2 >>> 31
  z3 >>> 40

/-- ⌊log2 (num / den)⌋ of a positive fraction. -/
def log2Frac (num den : Nat) : Int :=
  let e : Int := (Nat.log2 num : Int) - Nat.log2 den
  let ok := if 0 ≤ e then den <<< e.toNat ≤ num else den ≤ num <<< (-e).toNat
  if ok then e else e - 1

/-- num / den × 2^-k as a fraction. -/
def scaleFrac (num den : Nat) (k : Int) : Nat × Nat :=
  if 0 ≤ k then (num, den <<< k.toNat) else (num <<< (-k).toNat, den)

/-- Whether a magnitude with whole part `t` and remainder `r / den` rounds up (Table 3-5, R81). -/
def roundsUp (rd : Rnd) (neg : Bool) (t r den : Nat) : Bool :=
  match rd.mode with
  | 0 => decide (den < 2 * r) || (decide (2 * r = den) && decide (t % 2 = 1))
  | 1 => false
  | 2 => decide (0 < r) && !neg
  | 3 => decide (0 < r) && neg
  | _ => decide (2 ^ 24 ≤ (r <<< 24) / den + rd.u)

/-- Whether an overflow takes the first column of Table 3-7. -/
def overflowAway (rd : Rnd) (neg : Bool) : Bool :=
  match rd.mode with
  | 1 => false
  | 2 => !neg
  | 3 => neg
  | _ => true

/-- A code with a sign. -/
def signCode (e : Nat) (neg : Bool) (code : Nat) : Nat :=
  if isScaleElem e then code else b2n neg <<< (elemBits e - 1) ||| code

/-- The largest finite code of a sign; integers in two's complement. -/
def maxOf (e : Nat) (neg : Bool) : Nat :=
  if isIntElem e then (if neg then 2 ^ (elemBits e - 1) else (fmtOf e).maxCode) else signCode e neg (fmtOf e).maxCode

/-- The infinity code of a sign. -/
def infCode (e : Nat) (neg : Bool) : Nat := signCode e neg ((2 ^ (fmtOf e).ebits - 1) <<< (fmtOf e).fbits)

/-- Result and flags of an overflow (Table 3-7, R78): it differs from its source, so INEXACT is set beside OVF or SAT (Table 3-8). For E8M0
and UE5M3 R414 names SAT alone and gives INEXACT to every other inexact result (log entry 80). -/
def overflow (e : Nat) (rd : Rnd) (neg : Bool) : Nat × Nat :=
  if isScaleElem e then (0xFE, fSat)
  else if isIntElem e then (maxOf e neg, fSat ||| fInexact)
  else if ¬ overflowAway rd neg then (maxOf e neg, fSat ||| fInexact)
  else if e = 3 then
    if rd.sat then (maxOf e neg, fSat ||| fInexact) else (0x7F, fOvf ||| fNanGen ||| fInexact)
  else if e = 4 ∧ rd.sat then (maxOf e neg, fSat ||| fInexact)
  else if (fmtOf e).hasInf then (infCode e neg, fOvf ||| fInexact)
  else (maxOf e neg, fSat ||| fInexact)

/-- One rounding of a finite magnitude to a floating or scale format: R76, R78, R79, R414. -/
def roundFinite (e : Nat) (rd : Rnd) (neg : Bool) (num den : Nat) : Nat × Nat :=
  let f := fmtOf e
  let emin : Int := 1 - (f.bias : Int)
  let lg := log2Frac num den
  let k : Int := (if e = 10 then lg else max lg emin) - f.fbits
  let q := scaleFrac num den k
  let t := q.1 / q.2
  let r := q.1 % q.2
  let up := if e = 10 ∧ rd.mode = 0 ∧ 2 * r = q.2 then decide ((lg + 127) % 2 ≠ 0) else roundsUp rd neg t r q.2
  let t' := t + b2n up
  let fx := if r = 0 then 0 else fInexact
  if e = 10 then
    let c := lg + 127 + b2n up
    if c < 0 then (0, fInexact ||| fUnf) else if 0xFE < c then overflow e rd neg else (c.toNat, fx)
  else
    let code := (k + f.fbits - emin).toNat <<< f.fbits + t'
    if code = 0 then (signCode e neg 0, if e = 11 then fUnf else fx ||| fUnf)
    else if f.maxCode < code then overflow e rd neg
    else (signCode e neg code, fx)

/-- One rounding of a finite magnitude to INT8 or INT4. -/
def roundInt (e : Nat) (rd : Rnd) (neg : Bool) (num den : Nat) : Nat × Nat :=
  let t := num / den
  let r := num % den
  let t' := t + b2n (roundsUp rd neg t r den)
  let w := elemBits e
  let lim := if neg then 2 ^ (w - 1) else 2 ^ (w - 1) - 1
  if lim < t' then overflow e rd neg
  else
    (toTwos w (if neg then -(t' : Int) else t'),
      (if r = 0 then 0 else fInexact) ||| (if t' = 0 then fUnf else 0))

/-- A conversion of an exact value to a format, rounding once: code and flags (R76-R79, R414). -/
def encodeNum (e : Nat) (rd : Rnd) : Num → Nat × Nat
  | .nan => match (fmtOf e).nanCode with | some c => (c, 0) | none => (0, fNanLost)
  | .inf neg =>
    if isScaleElem e then (if neg then (0xFF, fNanGen) else (0xFE, fSat))
    else if (fmtOf e).hasInf then (infCode e neg, 0)
    else overflow e rd neg
  | .fin neg num den =>
    if num = 0 then (if isIntElem e || isScaleElem e then (0, 0) else (signCode e neg 0, 0))
    else if isScaleElem e && neg then (0xFF, fNanGen)
    else if isIntElem e then roundInt e rd neg num den
    else roundFinite e rd neg num den

/-! Exact arithmetic (R108). Each answers the value and whether a NaN came from non-NaN inputs. -/

/-- Compare magnitudes of two fractions. -/
def magLt (n1 d1 n2 d2 : Nat) : Bool := decide (n1 * d2 < n2 * d1)

/-- Exact sum; a sum of zeros is -0 only where both are -0 in IEEE terms, and +0 here in every mode (R79). -/
def Num.add : Num → Num → Num × Bool
  | .nan, _ => (.nan, false)
  | _, .nan => (.nan, false)
  | .inf a, .inf b => if a = b then (.inf a, false) else (.nan, true)
  | .inf a, .fin _ _ _ => (.inf a, false)
  | .fin _ _ _, .inf b => (.inf b, false)
  | .fin a n1 d1, .fin b n2 d2 =>
    let d := if d2 % d1 = 0 then d2 else if d1 % d2 = 0 then d1 else d1 * d2
    let x : Int := (if a then -(n1 : Int) else n1) * (d / d1 : Nat) + (if b then -(n2 : Int) else n2) * (d / d2 : Nat)
    (.fin (decide (x < 0)) x.natAbs d, false)

/-- Exact difference. -/
def Num.sub (x y : Num) : Num × Bool := x.add y.negate

/-- Exact product. -/
def Num.mul : Num → Num → Num × Bool
  | .nan, _ => (.nan, false)
  | _, .nan => (.nan, false)
  | .inf a, .inf b => (.inf (a != b), false)
  | .inf a, .fin b n _ => if n = 0 then (.nan, true) else (.inf (a != b), false)
  | .fin a n _, .inf b => if n = 0 then (.nan, true) else (.inf (a != b), false)
  | .fin a n1 d1, .fin b n2 d2 => (.fin (a != b) (n1 * n2) (d1 * d2), false)

/-- Exact product and sum. -/
def Num.fma (x y z : Num) : Num × Bool :=
  let p := x.mul y
  let r := p.1.add z
  (r.1, (p.2 && !z.isNan) || r.2)

/-- An exact product of many factors: a NaN that no factor is comes from an infinity times zero (R75, R79). -/
def Num.product (l : List Num) : Num × Bool :=
  let x := l.foldl (fun a y => (a.mul y).1) .one
  (x, x.isNan && !l.any Num.isNan)

/-- Exact quotient by a finite non-zero divisor. -/
def Num.divFin (x : Num) (neg : Bool) (n d : Nat) : Num :=
  match x with
  | .nan => .nan
  | .inf s => .inf (s != neg)
  | .fin s a b => .fin (s != neg) (a * d) (b * n)

/-- The order of finite values and infinities, -0 equal to +0. -/
def Num.lt : Num → Num → Bool
  | .nan, _ => false
  | _, .nan => false
  | .inf a, .inf b => a && !b
  | .inf a, .fin _ _ _ => a
  | .fin _ _ _, .inf b => !b
  | .fin a n1 d1, .fin b n2 d2 =>
    decide ((if a then -(n1 : Int) else n1) * d2 < (if b then -(n2 : Int) else n2) * d1)

/-- Equality of values, -0 equal to +0, NaN equal to nothing. -/
def Num.eqv : Num → Num → Bool
  | .nan, _ => false
  | _, .nan => false
  | x, y => !x.lt y && !y.lt x

/-- The order of MIN, MAX and TOPK: values in order, and -0 below +0. -/
def Num.ltZ (x y : Num) : Bool := x.lt y || (x.isZero && y.isZero && x.neg? && !y.neg?)

/-- MIN (R109). -/
def Num.min (x y : Num) : Num := if x.isNan then y else if y.isNan then x else if y.ltZ x then y else x

/-- MAX (R109). -/
def Num.max (x y : Num) : Num := if x.isNan then y else if y.isNan then x else if x.ltZ y then y else x

/-! Functions (R110): correctly rounded in FP32 RNE. Irrational results are formed to 2^-200 (log entry 24). -/

/-- ⌊ln 2 × 2^256⌋. -/
def ln2Fix : Nat := 0xb17217f7d1cf79abc9e3b39803f2f6af40f343267298b62d8a0d175b8baafa2b

/-- Σ y^i / i! in units of 2^-256, from term `t` = y^i / i! on. -/
def expSeries (y : Nat) : Nat → Nat → Nat → Nat
  | 0, _, _ => 0
  | fuel + 1, i, t => t + expSeries y fuel (i + 1) (((t * y) >>> 256) / (i + 1))

/-- 2^f × 2^256 for f / 2^256 in [0, 1). -/
def exp2Fix (f : Nat) : Nat := expSeries ((f * ln2Fix) >>> 256) 64 0 (1 <<< 256)

/-- Σ z^(2i+1) / (2i+1) in units of 2^-256. -/
def atanhSeries (z2 : Nat) : Nat → Nat → Nat → Nat
  | 0, _, _ => 0
  | fuel + 1, i, t => t / (2 * i + 1) + atanhSeries z2 fuel (i + 1) ((t * z2) >>> 256)

/-- ln m × 2^256 for m = n / 2^k in [1, 2). -/
def lnFix (n k : Nat) : Nat :=
  let one := 1 <<< k
  let z := ((n - one) <<< 256) / (n + one)
  2 * atanhSeries ((z * z) >>> 256) 90 0 z

/-- ⌊√n⌋ by bits from `i - 1` down. -/
def isqrtBits (n : Nat) : Nat → Nat → Nat
  | 0, r => r
  | i + 1, r => isqrtBits n i (if (r + 1 <<< i) * (r + 1 <<< i) ≤ n then r + 1 <<< i else r)

/-- ⌊√n⌋. -/
def isqrt (n : Nat) : Nat := isqrtBits n (Nat.log2 n / 2 + 1) 0

/-- EXP2 of an exact value, as a value that rounds to the correctly rounded FP32 (Table 5-2); beyond the range of FP32
it stands at 2^200 or 2^-200, which round as the exact power does. -/
def Num.exp2 : Num → Num
  | .nan => .nan
  | .inf s => if s then .zero else .inf false
  | .fin s n d =>
    if n = 0 then .one
    else
      let q := n / d
      if 128 ≤ q ∧ ¬ s then dyadic false 1 200
      else if 150 ≤ q ∧ s then dyadic false 1 (-200)
      else
        let fl : Int := if s then -((ceilDiv n d : Nat) : Int) else q
        let fr := if s then ceilDiv n d * d - n else n % d
        if fr = 0 then dyadic false 1 fl
        else
          let m := exp2Fix ((fr <<< 256) / d)
          dyadic false (2 * m + 1) (fl - 257)

/-- LOG2 of an exact value and whether a NaN was made (Table 5-2). -/
def Num.log2 : Num → Num × Bool
  | .nan => (.nan, false)
  | .inf s => if s then (.nan, true) else (.inf false, false)
  | .fin s n d =>
    if n = 0 then (.inf true, false)
    else if s then (.nan, true)
    else
      let e := log2Frac n d
      let q := scaleFrac n d e
      if q.1 = q.2 then (.fin (decide (e < 0)) e.natAbs 1, false)
      else
        let k := 200
        let l := ((lnFix ((q.1 <<< k) / q.2) k) <<< 256) / ln2Fix
        let x : Int := e * ((1 : Int) <<< 256) + l
        (.fin (decide (x < 0)) x.natAbs (1 <<< 256), false)

/-- RCP (Table 5-2). -/
def Num.rcp : Num → Num
  | .nan => .nan
  | .inf s => .fin s 0 1
  | .fin s n d => if n = 0 then .inf s else .fin s d n

/-- RSQRT and whether a NaN was made (Table 5-2). -/
def Num.rsqrt : Num → Num × Bool
  | .nan => (.nan, false)
  | .inf s => if s then (.nan, true) else (.zero, false)
  | .fin s n d =>
    if n = 0 then (.inf s, false)
    else if s then (.nan, true)
    else
      let k := 256
      let v := (d <<< (2 * k)) / n
      let r := isqrt v
      let exact := decide (r * r * n = d <<< (2 * k))
      (.fin false (2 * r + b2n !exact) (1 <<< (k + 1)), false)

/-- A function result: one RNE rounding to FP32, then one to the destination (R110). -/
def encodeFn (e : Nat) (rd : Rnd) (x : Num) : Nat × Nat :=
  let a := encodeNum 2 .rne x
  if e = 2 then a
  else
    let b := encodeNum e rd (decodeElem 2 a.1)
    (b.1, a.2 ||| b.2)

/-! Elements in bytes (R65). -/

/-- Split a number into `n` codes of `w` bits, low first. -/
def splitCodes (w : Nat) : Nat → Nat → List Nat
  | 0, _ => []
  | n + 1, v => v % 2 ^ w :: splitCodes w n (v >>> w)

/-- Codes of packed bytes: `w` bits each. -/
def unpack (w : Nat) (b : Bytes) : List Nat := splitCodes w (b.length * 8 / w) (leNat b)

/-- Join codes of `w` bits, low first. -/
def joinCodes (w : Nat) : List Nat → Nat
  | [] => 0
  | c :: r => c % 2 ^ w + joinCodes w r <<< w

/-- Packed bytes of codes. -/
def pack (w : Nat) (l : List Nat) : Bytes := natLe (ceilDiv (l.length * w) 8) (joinCodes w l)

/-! Block scaling of a vector conversion (R82). -/

/-- Largest finite value of an element format as a fraction. -/
def maxFinite (e : Nat) : Nat × Nat :=
  match decodeElem e (fmtOf e).maxCode with
  | .fin _ n d => (n, d)
  | _ => (1, 1)

/-- Largest magnitude among finite elements, as a fraction. -/
def blockMax (l : List Num) : Nat × Nat :=
  l.foldl (fun a x => match x with | .fin _ n d => if magLt a.1 a.2 n d then (n, d) else a | _ => a) (0, 1)

/-- Whether a coarse scale is a finite non-zero value. -/
def goodCoarse (c : Num) : Bool := c.isFin && !c.isZero

/-- Fine scale of a block and flags: mode 1 two-level, 2 MX (R82). The exponent of the largest normal of INT8 and INT4 is taken as 6 and 2,
those of 127 and 7 (DESIGN CHOICE, log entry 79). -/
def fineScale (e mode : Nat) (c : Num) (l : List Num) : Nat × Nat :=
  if mode = 1 ∧ ¬ goodCoarse c then (0xFF, if c.isNan then 0 else fNanGen)
  else if l.any Num.isNan then (0xFF, 0)
  else
    let a := blockMax l
    if a.1 = 0 then (0, 0)
    else
      let q := maxFinite e
      if mode = 2 then
        let x := log2Frac a.1 a.2 - log2Frac q.1 q.2 + 127
        ((max 0 (min 0xFE x)).toNat, 0)
      else
        match c with
        | .fin _ n d =>
          let num := a.1 * d * q.2
          let den := a.2 * n * q.1
          ((encodeNum 11 ⟨2, true, 0⟩ (.fin false num den)).1, 0)
        | _ => (0xFF, 0)

/-- Convert the elements of one block under its fine scale: codes and flags; `rnd i` is the rounding of element i. In a block whose F is NaN
every element is +0, an infinite one too (R82; DESIGN CHOICE, log entry 78). -/
def convertBlock (e mode : Nat) (rnd : Nat → Rnd) (c : Num) (l : List Num) : Nat × List Nat × Nat :=
  let fs := fineScale e mode c l
  if fs.1 = 0xFF then (0xFF, l.map fun _ => 0, fs.2 ||| (if (fmtOf e).nanCode.isNone then fNanLost else 0))
  else
    let scale := if mode = 1 then (decodeElem 11 fs.1).mul c |>.1 else decodeElem 10 fs.1
    let rs := l.mapIdx fun i x =>
      match x, scale with
      | .inf s, _ => encodeNum e (rnd i) (.inf s)
      | .fin _ _ _, .fin sn n d => if n = 0 then (0, 0) else encodeNum e (rnd i) (x.divFin sn n d)
      | _, _ => (0, 0)
    (fs.1, rs.map (·.1), rs.foldl (fun a r => a ||| r.2) fs.2)

end Sys2Proof.Machine
end

