-- ==== Sys2Proof/Machine/Acc.lean ====
section
/-! DEFINITION. The long accumulator (R156-R164, R169-R172): slots, terms, raw long words, read-out. -/

namespace Sys2Proof.Machine

/-- Slot `l` of a tile. -/
def Tile.slot (t : Tile) (l : Nat) : Slot := mapGet Slot.zero l t.slots

/-- Replace a slot. -/
def Tile.withSlot (t : Tile) (l : Nat) (x : Slot) : Tile := { t with slots := mapPut Slot.zero l x t.slots }

/-- V of a slot modulo 2^336, in units of 2^-160 (R156). -/
def Slot.v336 (x : Slot) : Nat := toTwos 336 (x.a.toInt + ((x.e.toNat * 2 ^ 320 : Nat) : Int))

/-- V of a slot as a signed integer (R156). -/
def Slot.value (x : Slot) : Int := sgn 336 x.v336

/-- The slot fields (A, E) of a value modulo 2^336 (R160). -/
def splitV (v : Nat) : BitVec 320 × BitVec 16 :=
  let a : BitVec 320 := BitVec.ofNat 320 v
  (a, BitVec.ofNat 16 (toTwos 336 ((v : Int) - a.toInt) / 2 ^ 320))

/-- What a term brings: its value modulo 2^336, its count and its flags. -/
structure Term where
  v : Nat
  n : Nat
  pinf : Bool
  ninf : Bool
  nan : Bool
  poison : Bool
  deriving DecidableEq, Repr

/-- ACC_STATUS flags. -/
def aOvf : Nat := 1
/-- INEXACT. -/
def aInexact : Nat := 2
/-- SAT. -/
def aSat : Nat := 4
/-- NAN_LOST. -/
def aNanLost : Nat := 8
/-- TERM_INEXACT. -/
def aTermInexact : Nat := 16
/-- TERM_BIG. -/
def aTermBig : Nat := 32
/-- TERM_LIMIT. -/
def aTermLimit : Nat := 64
/-- RESIDUE_RETRY. -/
def aRetry : Nat := 128
/-- SLOT_ECC. -/
def aEcc : Nat := 256

/-- A term of an exact value, with its ACC_STATUS flags (R157, R158). -/
def termOf (x : Num) : Term × Nat :=
  match x with
  | .nan => (⟨0, 1, false, false, true, false⟩, 0)
  | .inf neg => (⟨0, 1, !neg, neg, false, false⟩, 0)
  | .fin neg num den =>
    if den * 2 ^ 135 ≤ num then (⟨0, 1, !neg, neg, false, false⟩, aTermBig)
    else
      let n := num * 2 ^ 160
      let t := n / den
      let r := n % den
      let t' := t + b2n (roundsUp Rnd.rne neg t r den)
      (⟨toTwos 336 (if neg then -(t' : Int) else t'), 1, false, false, false, false⟩, if r = 0 then 0 else aTermInexact)

/-- An integer term (INT32, INT64). -/
def termInt (x : Int) : Term := ⟨toTwos 336 (x * 2 ^ 160), 1, false, false, false, false⟩

/-- A raw long word is well formed (R161). -/
def rawOk (b : Bytes) : Bool := rdLe b 42 6 < 2 ^ 45 && rdLe b 48 16 == 0 && rdLe b 42 6 % 2 ^ 41 ≤ 2 ^ 40

/-- The slot a raw long word describes (Table 7-4). -/
def rawSlot (b : Bytes) : Slot :=
  let w := rdLe b 42 6
  ⟨BitVec.ofNat 320 (rdLe b 0 40), BitVec.ofNat 16 (rdLe b 40 2), w % 2 ^ 41, bit w 41, bit w 42, bit w 43, bit w 44, false⟩

/-- A slot as a raw long word. -/
def Slot.raw (x : Slot) : Bytes :=
  natLe 40 x.a.toNat ++ natLe 2 x.e.toNat ++
    natLe 6 (x.terms + b2n x.pinf <<< 41 + b2n x.ninf <<< 42 + b2n x.nan <<< 43 + b2n x.poison <<< 44) ++ zeros 16

/-- The term a slot's state is (R161). -/
def Slot.term (x : Slot) : Term := ⟨x.v336, x.terms, x.pinf, x.ninf, x.nan, x.poison⟩

/-- Add a term to a slot: the slot and ACC_STATUS flags (R159, R160). -/
def Slot.add (x : Slot) (t : Term) : Slot × Nat :=
  if x.full then (x, 0)
  else if 2 ^ 40 < x.terms + t.n then ({ x with poison := true, full := true }, aTermLimit)
  else
    let r := splitV ((x.v336 + t.v) % 2 ^ 336)
    ({ a := r.1, e := r.2, terms := x.terms + t.n, pinf := x.pinf || t.pinf, ninf := x.ninf || t.ninf, nan := x.nan || t.nan,
       poison := x.poison || t.poison, full := false }, 0)

/-! Read-out (R162-R164). -/

/-- Bits of a destination of Table 7-5. -/
def destBits (dest : Nat) : Nat := nth [32, 16, 16, 8, 8, 8, 32, 64, 512] dest 32

/-- The element format of a floating destination. -/
def destElem (dest : Nat) : Nat := nth [2, 0, 1, 3, 4] dest 2

/-- Read an integer destination of `w` bits. -/
def readInt (w rnd : Nat) (x : Slot) : Nat × Nat :=
  let lim (neg : Bool) : Nat := if neg then 2 ^ (w - 1) else 2 ^ (w - 1) - 1
  if x.nan ∨ (x.pinf ∧ x.ninf) then (0, aNanLost)
  else if x.pinf ∨ x.ninf then (lim x.ninf, aSat)
  else
    let neg := decide (x.value < 0)
    let m := x.value.natAbs
    let t := m / 2 ^ 160
    let r := m % 2 ^ 160
    let t' := t + b2n (roundsUp ⟨rnd, true, 0⟩ neg t r (2 ^ 160))
    if x.e ≠ 0 ∨ lim neg < t' then (lim neg, aOvf ||| aSat)
    else (toTwos w (if neg then -(t' : Int) else t'), if r = 0 then 0 else aInexact)

/-- Read a floating destination. -/
def readFloat (e rnd : Nat) (x : Slot) : Nat × Nat :=
  let nan := ((fmtOf e).nanCode).getD 0
  let infty (neg : Bool) : Nat := if e = 3 then maxOf e neg else infCode e neg
  let neg := decide (x.value < 0)
  if x.nan ∨ (x.pinf ∧ x.ninf) then (nan, 0)
  else if x.pinf ∨ x.ninf then (infty x.ninf, if e = 3 then aSat else 0)
  else if x.e ≠ 0 then (infty neg, if e = 3 then aOvf ||| aSat else aOvf)
  else if x.value = 0 then (0, 0)
  else
    let r := roundFinite e ⟨rnd, true, 0⟩ neg x.value.natAbs (2 ^ 160)
    if r.2 &&& (fOvf ||| fSat) ≠ 0 then (infty neg, if e = 3 then aOvf ||| aSat else aOvf)
    else (r.1, if r.2 &&& fInexact ≠ 0 then aInexact else 0)

/-- Read a slot out: bytes and ACC_STATUS flags. A poisoned slot gives the NaN code or 0 (R163). -/
def Slot.read (x : Slot) (dest rnd : Nat) : Bytes × Nat :=
  if dest = 8 then (x.raw, 0)
  else if x.poison then (natLe (destBits dest / 8) (if dest ≤ 4 then ((fmtOf (destElem dest)).nanCode).getD 0 else 0), 0)
  else
    let r := if dest ≤ 4 then readFloat (destElem dest) rnd x else readInt (destBits dest) rnd x
    (natLe (destBits dest / 8) r.1, r.2)

/-- OR flags into ACC_STATUS. -/
def Tile.accFlag (t : Tile) (f : Nat) : Tile := { t with accStatus := t.accStatus ||| BitVec.ofNat 64 f }

/-- Add a term to a slot of a tile: flags, and the count of terms (Table 17-9, 0x0F). -/
def State.addTerm (s : State) (t l : Nat) (x : Term) : State :=
  let r := ((s.tile t).slot l).add x
  (s.modTile t fun y => (y.withSlot l r.1).accFlag r.2).tileCount t 0x0F x.n

/-- Poison a slot whose storage failed (R172). -/
def State.poisonSlot (s : State) (t l : Nat) : State :=
  s.modTile t fun y => (y.withSlot l { y.slot l with poison := true }).accFlag aEcc

end Sys2Proof.Machine
end

