-- ==== Sys2Proof/Machine/Desc.lean ====
section
/-! DEFINITION. Descriptors: fields, operands, loop nests and the checks made before the first iteration (chapter 06). -/

namespace Sys2Proof.Machine

/-- Word `i` of a descriptor (R132). -/
def dWord (d : Bytes) (i : Nat) : Nat := rdLe d (8 * i) 8

/-- Bits of a word of a descriptor. -/
def dBits (d : Bytes) (i hi lo : Nat) : Nat := bits (dWord d i) hi lo

/-- OPCODE. -/
def dOp (d : Bytes) : Nat := dBits d 0 7 0
/-- WAIT_EACH. -/
def dWaitEach (d : Bytes) : Bool := dBits d 0 8 8 == 1
/-- SIG_EACH. -/
def dSigEach (d : Bytes) : Bool := dBits d 0 9 9 == 1
/-- SUM_EN. -/
def dSumEn (d : Bytes) : Bool := dBits d 0 10 10 == 1
/-- SUM_SLOT. -/
def dSumSlot (d : Bytes) : Nat := dBits d 0 12 11
/-- SUBOP. -/
def dSubop (d : Bytes) : Nat := dBits d 0 15 13
/-- SEED. -/
def dSeed (d : Bytes) : Nat := dBits d 0 63 32
/-- IMM. -/
def dImm (d : Bytes) : Nat := dBits d 1 31 0
/-- Bits of IMM. -/
def dImmBits (d : Bytes) (hi lo : Nat) : Nat := bits (dImm d) hi lo
/-- COUNT of loop level `l`. -/
def dCount (d : Bytes) (l : Nat) : Nat := dBits d (10 + l) 11 0

/-- An operand reference (Table 6-2); the fabric fields are read from the same words. -/
structure Opnd where
  space : Nat
  base : Nat
  fmt : Nat
  unit : Nat
  sparse : Nat
  argRel : Nat
  rows : Nat
  cols : Nat
  stride : Nat
  node : Nat
  fspace : Nat
  offHi : Nat
  length : Nat
  /-- Signed increments by loop level. -/
  incs : List Int
  deriving DecidableEq, Repr

/-- The operand whose words start at `w` and whose increments start at bit `b` of the loop words. -/
def opnd (d : Bytes) (w b : Nat) : Opnd :=
  let x := dWord d w
  let y := dWord d (w + 1)
  { space := bits x 43 40, base := bits x 39 0, fmt := bits x 51 44, unit := bits x 56 52, sparse := bits x 58 57,
    argRel := bits x 61 59, rows := bits y 19 0, cols := bits y 39 20, stride := bits y 63 40, node := bits y 13 0,
    fspace := bits y 15 14, offHi := bits y 23 16, length := bits y 63 24,
    incs := (List.range 6).map fun l => sgn 16 (dBits d (10 + l) (b + 15) b) }

/-- Operand A. -/
def opA (d : Bytes) : Opnd := opnd d 4 16
/-- Operand B. -/
def opB (d : Bytes) : Opnd := opnd d 6 32
/-- Operand D. -/
def opD (d : Bytes) : Opnd := opnd d 8 48

/-- ELEM of a format byte. -/
def fmtElem (f : Nat) : Nat := bits f 3 0
/-- SCALE of a format byte. -/
def fmtScale (f : Nat) : Nat := bits f 5 4
/-- ELEM of an operand. -/
def Opnd.elem (o : Opnd) : Nat := fmtElem o.fmt
/-- SCALE of an operand. -/
def Opnd.scale (o : Opnd) : Nat := fmtScale o.fmt
/-- Elements of an iteration. -/
def Opnd.count (o : Opnd) : Nat := o.rows * o.cols
/-- Bytes of a row. -/
def Opnd.rowBytes (o : Opnd) : Nat := o.cols * elemBits o.elem / 8
/-- Bytes of an iteration's elements. -/
def Opnd.bytes (o : Opnd) : Nat := o.rows * o.rowBytes

/-! Loop nests (R136). -/

/-- Iterations of the nest. -/
def dIters (d : Bytes) : Nat := (List.range 6).foldl (fun p l => p * (dCount d l + 1)) 1

/-- Loop indices of linear iteration `j`, level 0 first. -/
def dIdx (d : Bytes) (j : Nat) : List Nat :=
  ((List.range 6).foldl (fun (r : List Nat × Nat) l => (r.1 ++ [r.2 % (dCount d l + 1)], r.2 / (dCount d l + 1))) ([], j)).1

/-- Address of an operand in an iteration, in exact signed arithmetic. -/
def Opnd.addr (o : Opnd) (args : List Word) (idx : List Nat) : Int :=
  let base : Int := o.base + (if o.argRel = 0 then 0 else ((nth args (o.argRel - 1) 0).toNat : Int))
  base + (List.zipWith (fun (i : Nat) (c : Int) => (i : Int) * c) idx o.incs).foldl (· + ·) 0 * (2 ^ o.unit : Nat)

/-- Row starts and lengths of an iteration. -/
def Opnd.runs (o : Opnd) (a : Int) : List (Int × Nat) :=
  let st := if o.stride = 0 then o.rowBytes else o.stride
  (List.range o.rows).map fun r => (a + ((r * st : Nat) : Int), o.rowBytes)

/-! Scale regions (R70, R71). -/

/-- Round up to 64 B. -/
def up64 (a : Int) : Int := (a + 63) / 64 * 64

/-- Bytes from the start of a row to the start of the next. -/
def Opnd.pitch (o : Opnd) : Nat := if o.stride = 0 then o.rowBytes else o.stride

/-- Bytes from the first byte of an iteration's rows to the end of the last. -/
def Opnd.span (o : Opnd) : Nat := (o.rows - 1) * o.pitch + o.rowBytes

/-- Bytes that one step of loop level `l` moves an operand by. -/
def Opnd.step (o : Opnd) (l : Nat) : Int := nth o.incs l 0 * (2 ^ o.unit : Nat)

/-- The scale region of an operand whose iterations span `n` bytes each: the first 64 B boundary after its last element over the whole
loop nest (R71; log entry 74). -/
def Opnd.region (o : Opnd) (d : Bytes) (args : List Word) (n : Nat) : Int :=
  up64 (o.addr args [] + ((List.range 6).map fun l => max 0 ((dCount d l : Int) * o.step l)).foldl (· + ·) 0 + (n : Int))

/-- Where the elements of an iteration stand in the whole operand: its first row, its first column, and the blocks of a row. -/
structure Grid where
  row : Nat
  col : Nat
  blocks : Nat
  deriving DecidableEq, Repr

/-- How far loop indices have walked by steps `f`, counted from the lowest place that the nest reaches. -/
def walked (d : Bytes) (idx : List Nat) (f : Nat → Int) : Nat :=
  (((List.range 6).map fun l => (nth idx l 0 : Int) * f l - min 0 ((dCount d l : Int) * f l)).foldl (· + ·) 0).toNat

/-- Elements in a number of bytes. -/
def Opnd.elems (o : Opnd) (n : Nat) : Nat := n * 8 / elemBits o.elem

/-- The place of an iteration in its operand: a step of a level is so many rows, and the rest is a walk along the row (log entry 74). -/
def Opnd.grid (o : Opnd) (d : Bytes) (idx : List Nat) : Grid :=
  let p : Int := max 1 o.pitch
  let along (l : Nat) : Int := (o.step l).tmod p
  let width := ((List.range 6).map fun l => dCount d l * (along l).natAbs).foldl (· + ·) 0
  ⟨walked d idx fun l => (o.step l).tdiv p, o.elems (walked d idx along), ceilDiv (o.cols + o.elems width) 32⟩

/-- The first block of 32 that an iteration's columns touch, and how many it touches. -/
def Grid.cover (g : Grid) (cols : Nat) : Nat × Nat := (g.col / 32, (g.col + cols - 1) / 32 - g.col / 32 + 1)

/-- Where the fine scales of an iteration's rows stand in the scale region at `base`: the blocks that its columns touch, row by row (R71). -/
def Grid.cells (g : Grid) (base : Int) (rows cols : Nat) : List (Int × Nat) :=
  (List.range rows).map fun r => (base + 64 + (((g.row + r) * g.blocks + (g.cover cols).1 : Nat) : Int), (g.cover cols).2)

/-- Number of the fine scale of element (r, c) of an iteration among those of its cells. -/
def Grid.number (g : Grid) (cols r c : Nat) : Nat := r * (g.cover cols).2 + ((g.col + c) / 32 - (g.cover cols).1)

/-- Rows and columns exchanged: blocks run along the rows of an operand that is stored K × N, so many that `k` rows take (R71, R96). -/
def Grid.turned (g : Grid) (k : Nat) : Grid := ⟨g.col, g.row, ceilDiv k 32⟩

/-- Rows of an operand over the whole nest. -/
def Opnd.depth (o : Opnd) (d : Bytes) : Nat :=
  o.rows + ((List.range 6).map fun l => dCount d l * ((o.step l).tdiv (max 1 o.pitch : Nat)).natAbs).foldl (· + ·) 0

/-! What each opcode uses (Tables 6-5 to 6-7, 7-8, 7-9, 7-12, 8-6, 12-4). -/

/-- Whether an operand is unused, required or optional. -/
inductive Use where
  | no | yes | opt
  deriving DecidableEq, Repr

/-- Engines of a tile (R129, Table 6-5). -/
inductive Engine where
  | sequencer | gang | vector | move | mesh | acc
  deriving DecidableEq, Repr

/-- Code of an engine in the tile's engine table. -/
def Engine.code : Engine → Nat
  | .sequencer => 0 | .gang => 1 | .vector => 2 | .move => 3 | .mesh => 4 | .acc => 5

/-- Uses of an opcode: engine, operands, IMM and SUBOP masks, SEED. -/
structure OpInfo where
  engine : Engine
  a : Use
  b : Use
  d : Use
  imm : Nat
  subop : Nat
  seed : Bool
  deriving DecidableEq, Repr

/-- Operand uses of the vector opcodes. -/
def vectorInfo (op : Nat) : OpInfo :=
  let v (a b d : Use) (imm : Nat) (seed : Bool) : OpInfo := ⟨.vector, a, b, d, imm, 0, seed⟩
  if op = 0x26 ∨ op = 0x27 ∨ (0x2D ≤ op ∧ op ≤ 0x31) then v .yes .no .yes 0 true
  else if op ≤ 0x27 ∨ op = 0x2C then v .yes .yes .yes 0 true
  else if op ≤ 0x2B then v .yes .yes .yes 0 false
  else if op = 0x35 ∨ op = 0x38 ∨ op = 0x3C then v .yes .no .yes 0 false
  else if op = 0x3A ∨ op = 0x3B then v .yes .no .yes 0xFF false
  else if op = 0x3D then v .yes .yes .yes 0x1FF true
  else if op = 0x3E then v .no .no .yes 0 false
  else v .yes .yes .yes 0 false

/-- What an opcode uses; none for an invalid opcode (BAD_OPCODE). -/
def opInfo (op : Nat) : Option OpInfo :=
  let z (e : Engine) (a b d : Use) (imm subop : Nat) : Option OpInfo := some ⟨e, a, b, d, imm, subop, false⟩
  match op with
  | 0x01 => z .sequencer .no .no .no 0 0
  | 0x02 => z .sequencer .no .no .no 0 0
  | 0x03 => z .sequencer .no .no .no 0xFFFFFFFF 0
  | 0x04 => z .sequencer .no .no .no 0x7FFFF 0
  | 0x05 => z .sequencer .no .no .no 0xF 0
  | 0x06 => z .sequencer .no .no .no 0xFF 0
  | 0x07 => z .mesh .no .no .no 0 0
  | 0x10 => some ⟨.gang, .yes, .yes, .yes, 0xF, 0, true⟩
  | 0x11 => z .gang .yes .no .yes 0 0
  | 0x50 => some ⟨.move, .yes, .no, .yes, 0, 0, true⟩
  | 0x51 => z .move .no .no .yes 0xFFFFFFFF 0
  | 0x52 => z .move .yes .no .yes 0 0
  | 0x53 => z .move .no .no .yes 0 1
  | 0x60 => z .mesh .yes .no .yes 0x3F 0
  | 0x61 => z .mesh .yes .no .yes 0x3F 0
  | 0x62 => z .mesh .yes .opt .yes 0x3F 0
  | 0x63 => z .mesh .yes .opt .yes 0x3F 0
  | 0x64 => z .mesh .yes .no .yes 0xFF 0
  | 0x65 => z .mesh .yes .no .yes 0x3F 0
  | 0x70 => z .acc .yes .no .opt 0xFFF 3
  | 0x71 => z .acc .no .no .yes 0xFCF 1
  | 0x72 => z .acc .no .no .no 0xFFFFFFFF 0
  | 0x73 => z .acc .no .no .yes 0xF 1
  | 0x74 => z .acc .yes .no .no 0xF 0
  | 0x78 => z .acc .yes .no .yes 0x1FF 0
  | 0x79 => z .acc .yes .no .yes 0x1FF 0
  | 0x7A => z .acc .yes .no .yes 0xFFF 0
  | 0x7B => z .acc .yes .no .yes 0xFFF 0
  | 0x80 => z .mesh .yes .no .yes 0xFC000FF 0
  | 0x81 => z .mesh .yes .no .yes 0xFC000FF 0
  | 0x82 => z .mesh .yes .no .yes 0xFF 0
  | 0x83 => z .mesh .opt .no .opt 0x3FFFFF 0
  | 0x84 => z .mesh .no .no .no 0xFF 0
  | 0x85 => z .mesh .yes .no .yes 0xFF 0
  | 0x86 => z .mesh .yes .yes .yes 0xFF 0
  | 0x87 => z .mesh .yes .no .opt 0xF3FFFFFF 1
  | 0x88 => z .mesh .yes .no .opt 0xFFFFFFFF 1
  | 0x89 => z .mesh .opt .no .opt 0xFF 0
  | 0x8A => z .mesh .opt .no .opt 0xFFFFFF 0
  | _ => if 0x20 ≤ op ∧ op ≤ 0x3E then some (vectorInfo op) else none

/-- Control opcodes (Table 6-5). -/
def isControl (op : Nat) : Bool := 1 ≤ op && op ≤ 7
/-- Vector opcodes. -/
def isVector (op : Nat) : Bool := 0x20 ≤ op && op ≤ 0x3E
/-- Arithmetic, function and conversion opcodes, which may name a summary slot (R124). -/
def mayName (op : Nat) : Bool := (0x20 ≤ op && op ≤ 0x27) || (0x2D ≤ op && op ≤ 0x31)
/-- Collective opcodes. -/
def isCollective (op : Nat) : Bool := 0x80 ≤ op && op ≤ 0x8A
/-- Remote opcodes. -/
def isRemote (op : Nat) : Bool := 0x60 ≤ op && op ≤ 0x65

/-- Whether a shadow may be of this opcode (R143): matrix, vector or memory. -/
def mayShadow (op : Nat) : Bool := op == 0x10 || op == 0x11 || isVector op || (0x50 ≤ op && op ≤ 0x53)

/-! Field checks (R132-R135, R63). -/

/-- The two words and the increments (from bit `b` of the loop words) of an operand are well formed for its use; `lax` where the space is
judged at the iteration (R117). -/
def opndOk (d : Bytes) (w b : Nat) (u : Use) (mma lax : Bool) : Bool :=
  let x := dWord d w
  let y := dWord d (w + 1)
  let o := opnd d w b
  if o.space = 0 then decide (x = 0) && decide (y = 0) && (o.incs.all fun i => decide (i = 0)) && u != .yes
  else
    u != .no && (lax || decide (o.space ≤ 7)) && decide (bits x 63 62 = 0) && decide (o.argRel ≤ 4) && decide (o.sparse ≤ 2) &&
      (o.sparse == 0 || mma) &&
      (if o.space = 6 then decide (1 ≤ o.length) else decide (1 ≤ o.rows) && decide (1 ≤ o.cols)) &&
      (o.space != 3 || o.base == 0) && (o.space != 5 || decide (o.base < 16))

/-- Row-length rule of R65. -/
def rowOk (elem cols : Nat) : Bool :=
  (elemBits elem != 4 || cols % 2 == 0) && (elemBits elem != 6 || cols % 4 == 0)

/-- A format byte keeps Table 3-1 and R70; per-channel only where `weight` (R72). -/
def fmtOk (f : Nat) (weight : Bool) : Bool :=
  let e := fmtElem f
  let sc := fmtScale f
  decide (e ≤ 11) && bits f 7 7 == 0 && (bits f 6 6 == 0 || sc == 3) &&
    (sc == 0 || (sc != 3 && decide (3 ≤ e) && decide (e ≤ 9)) ||
      (sc == 3 && weight && (e == 8 || e == 9 || e == 3 || e == 4)))

/-- FP32, BF16 or FP16, unscaled. -/
def wideFmt (f : Nat) : Bool := decide (f ≤ 2)

/-- An unscaled element format that carries numbers. -/
def plainFmt (f : Nat) : Bool := decide (f ≤ 9)

/-- Operands of a descriptor whose words give a shape: FILTCOMP's second operand is its reference value (Table 8-6). -/
def usedOps (d : Bytes) : List Opnd :=
  ((if dOp d = 0x88 then [opA d, opD d] else [opA d, opB d, opD d])).filter fun o => o.space != 0 && o.space != 6 && decide (o.space ≤ 7)

/-- Format rules of the vector opcodes (Table 5-1, R108-R113). The bit and GF opcodes, like the move and remote opcodes, carry E8M0 and UE5M3
codes as bytes: arrays of scales (R66; DESIGN CHOICE, log entry 82). -/
def vectorFmtOk (d : Bytes) : Bool :=
  let op := dOp d
  let a := opA d
  let b := opB d
  let o := opD d
  if op = 0x3E then true
  else if op = 0x3D then
    wideFmt a.fmt && plainFmt o.fmt && decide (1 ≤ a.count) && decide (a.count ≤ 65536) && decide (1 ≤ dImmBits d 8 0) &&
      decide (dImmBits d 8 0 ≤ 256) && decide (dImmBits d 8 0 ≤ a.count) && o.count == dImmBits d 8 0 &&
      b.bytes == 4 * dImmBits d 8 0
  else if op = 0x31 then decide (a.count = o.count) && a.scale != 3 && o.scale != 3 && (o.scale == 0 || o.cols == a.cols)
  else if op ≤ 0x27 then
    wideFmt a.fmt && plainFmt o.fmt && (op != 0x23 || wideFmt o.fmt) && a.count == o.count && (b.space == 0 || (wideFmt b.fmt && b.count == o.count))
  else if op ≤ 0x2B then wideFmt a.fmt && wideFmt b.fmt && o.fmt == 8 && a.count == o.count && b.count == o.count
  else if op = 0x2C then wideFmt a.fmt && wideFmt b.fmt && plainFmt o.fmt && a.count == o.count && b.count == o.count
  else if op ≤ 0x30 then wideFmt a.fmt && plainFmt o.fmt && a.count == o.count
  else if op = 0x36 ∨ op = 0x37 then
    elemBits a.elem == elemBits o.elem && a.count == o.count && b.fmt == 8 && b.count == o.count
  else elemBits a.elem == elemBits o.elem && a.bytes == o.bytes && (b.space == 0 || b.bytes == o.bytes)

/-- Format bytes and row lengths of every operand of a descriptor (Table 3-1, R65, R70, R72). -/
def formatBytesOk (d : Bytes) : Bool :=
  (usedOps d).all (fun o => rowOk o.elem o.cols) &&
    fmtOk (opA d).fmt false && (dOp d == 0x88 || fmtOk (opB d).fmt (dOp d == 0x10)) && fmtOk (opD d).fmt false

/-- An unscaled or block-scaled element format that carries numbers. -/
def prunable (f : Nat) : Bool := decide (fmtElem f ≤ 9) && fmtElem f != 2 && fmtScale f != 3

/-- Pairing rules of a descriptor's operands. -/
def pairsOk (d : Bytes) : Bool :=
  let op := dOp d
  let a := opA d
  let o := opD d
  if isVector op then vectorFmtOk d
  else if op = 0x50 then (if a.fmt = o.fmt then a.bytes == o.bytes else plainFmt a.fmt && plainFmt o.fmt && a.count == o.count)
  else if op = 0x11 then prunable a.fmt && a.rows % 8 == 0 && a.cols % 8 == 0 && o.fmt == a.fmt
  else if op = 0x52 then a.bytes == o.bytes
  else if op = 0x82 ∨ op = 0x83 ∨ op = 0x85 ∨ op = 0x86 then
    a.scale == 0 && o.scale == 0 && (a.space == 0 || o.space == 0 || a.fmt == o.fmt)
  else true

/-- Fields that every opcode shares (R132, R135, R138). -/
def commonOk (d : Bytes) (i : OpInfo) : Bool :=
  let op := dOp d
  let simm := dBits d 0 63 16 % 65536
  decide (simm = 0) && (i.seed || dSeed d == 0) &&
    (op == 0x03 || dImm d &&& (0xFFFFFFFF - i.imm) == 0) && dSubop d &&& (7 - i.subop) == 0 &&
    (!dSumEn d || mayName op) && (dSumSlot d == 0 || dSumEn d || op == 0x3E) &&
    dBits d 2 5 4 != 3 && dBits d 2 11 10 != 3 && dBits d 2 63 57 == 0 && dBits d 3 63 42 == 0 && dBits d 3 41 40 != 3 &&
    !(dWaitEach d && dBits d 2 5 4 == 2) &&
    (List.range 6).all (fun l => dBits d (10 + l) 15 12 == 0) &&
    (!(isControl op || isCollective op) || (List.range 6).all fun l => dWord d (10 + l) == 0)

/-- Parameter words of the control opcodes (Table 6-7, R135, R141, R142). -/
def controlOk (d : Bytes) : Bool :=
  let w (i : Nat) : Nat := dWord d i
  match dOp d with
  | 0x01 => (List.range 6).all fun i => w (4 + i) == 0
  | 0x02 => bits (w 4) 63 45 == 0 && bits (w 4) 41 40 != 3 && (List.range 5).all fun i => w (5 + i) == 0
  | 0x03 => (List.range 6).all fun i => w (4 + i) == 0
  | 0x04 =>
    let sum := dImmBits d 3 3 == 1
    (List.range 5).all (fun i => w (5 + i) == 0) && bits (w 4) 63 32 == 0 && decide (dImmBits d 13 11 ≤ 5) &&
      (if sum then dImmBits d 7 6 == 0 && decide (dImmBits d 10 8 ≤ 5) && dImmBits d 14 14 == 0 else dImmBits d 10 8 == 0)
  | 0x05 => (List.range 5).all (fun i => w (5 + i) == 0) && bits (w 4) 63 32 == 0
  | 0x06 =>
    let p := bits (w 5) 47 0
    (List.range 4).all (fun i => w (6 + i) == 0) && bits (w 5) 63 48 == 0 && dImmBits d 7 2 != 63 && (p == 0 || decide (16000 ≤ p))
  | _ =>
    (List.range 4).all (fun i => w (6 + i) == 0) && bits (w 4) 63 35 == 0 && bits (w 5) 63 40 == 0 && bits (w 4) 34 29 != 63

/-- Local operand spaces of the accumulator, stream, remote and collective opcodes: tile memory, HBM, and the context
argument as a source (R134). -/
def localOk (o : Opnd) (dst : Bool) : Bool := o.space == 0 || o.space == 1 || o.space == 4 || (o.space == 7 && !dst)

/-- Spaces the opcode admits (R133, R134, R86); vector spaces are judged at the iteration (R117). -/
def spacesOk (d : Bytes) : Bool :=
  let op := dOp d
  let a := opA d
  let b := opB d
  let o := opD d
  if op = 0x10 then (a.space == 1 || a.space == 5) && b.space == 1 && o.space == 3
  else if op = 0x11 then (a.space == 1 || a.space == 4 || a.space == 5) && (o.space == 1 || o.space == 4)
  else if isVector op ∨ op = 0x52 ∨ op = 0x53 then true
  else if op = 0x50 then
    (a.space == 1 || a.space == 4 || a.space == 5 || a.space == 7) && (o.space == 1 || o.space == 4 || o.space == 5)
  else if op = 0x51 then o.space == 1 || o.space == 4 || o.space == 5
  else if op = 0x60 then a.space == 6 && localOk o true
  else if isRemote op then localOk a false && localOk b true && o.space == 6
  else localOk a false && localOk b (op != 0x86) && localOk o true

/-- IMM values of the accumulator and stream opcodes (Tables 7-9, 7-12, R176, R180). -/
def accImmOk (d : Bytes) : Bool :=
  let op := dOp d
  let a := opA d
  match op with
  | 0x70 =>
    let ra := bits (dSubop d) 1 1 == 1
    (dImmBits d 5 4 == 0 || a.fmt == 0) &&
      (if ra then decide (dImmBits d 9 6 ≤ 8) && decide (dImmBits d 11 10 ≤ 3) && (opD d).space != 0
       else dImmBits d 11 6 == 0 && (opD d).space == 0)
  | 0x71 => decide (dImmBits d 9 6 ≤ 8) && (opD d).fmt == 0 && (opD d).rows == 1
  | 0x73 => (opD d).fmt == 0 && (opD d).rows == 1
  | 0x74 => a.fmt == 0
  | 0x78 | 0x79 => decide (dImmBits d 2 0 ≤ 4) && dImmBits d 4 3 != 3 && decide (a.rows ≤ 4096) && a.cols == 1 && (opD d).cols == 1
  | 0x7A =>
    decide (dImmBits d 2 0 ≤ 4) && dImmBits d 4 3 != 3 && decide (dImmBits d 11 9 ≤ 5) && decide (a.rows ≤ 4096) && a.cols == 1 &&
      (opD d).cols == 1
  | 0x7B =>
    decide (dImmBits d 2 0 ≤ 4) && decide (dImmBits d 4 3 ≤ 1) && decide (dImmBits d 11 9 ≤ 1) && decide (a.rows ≤ 4096) &&
      a.cols == 1 && (opD d).cols == 1
  | _ => true

/-- Bytes of one accumulator term of TERM_FMT; 0 is per the FMT of the operand (Table 7-9). -/
def termBytes (tf : Nat) : Nat := match tf with | 0 => 4 | 1 => 4 | 2 => 8 | _ => 64

/-- Bytes of the terms of an RACC row. -/
def raccBytes (d : Bytes) : Nat :=
  if dImmBits d 7 6 = 0 then (opA d).bytes else (opA d).cols * termBytes (dImmBits d 7 6)

/-- Table 12-4: fabric space, length and alignment; the class rules of R289. -/
def remoteOk (d : Bytes) (mask : Nat) : Bool :=
  let op := dOp d
  let a := opA d
  let o := opD d
  let f := if op = 0x60 then a else o
  let l := if op = 0x60 then o else a
  let q := dImmBits d 2 0
  let r := dImmBits d 5 3
  let cls := bit mask q && bit mask r && q != r
  let sp := f.fspace
  cls && (
    if op ≤ 0x61 then
      decide (sp ≤ 2) && f.length % 8 == 0 && decide (f.length ≤ 1048576) && f.base % 8 == 0 && (sp != 2 || f.length == 8) &&
        l.bytes == f.length
    else if op = 0x64 then
      sp == 1 && bits f.base 18 4 == 0 && a.rows == 1 && decide (a.cols ≤ 16) && f.length == raccBytes d &&
        (dImmBits d 7 6 == 0 || a.fmt == 0)
    else if op = 0x65 then decide (sp ≤ 1) && f.length == 4 && f.base % 4 == 0 && a.fmt == 2 && a.count == 1
    else decide (sp ≤ 1) && f.length == 8 && f.base % 8 == 0 && a.bytes == (if op = 0x63 then 16 else 8))

/-- The operand of an exact sum is of a number format (R66, R73). -/
def sumFmtOk (d : Bytes) : Bool :=
  let op := dOp d
  !(op == 0x70 || op == 0x64 || op == 0x80 || op == 0x81) || (decide ((opA d).elem ≤ 9) && (opA d).scale != 3)

/-- Parameters of the collective opcodes (Tables 8-6, 8-7, R191, R194, R198) for a group of `n` members and own rank `r`. -/
def collectiveOk (d : Bytes) (n r : Nat) : Bool :=
  let op := dOp d
  let a := opA d
  let o := opD d
  let redOk := decide (dImmBits d 25 22 ≤ 8) && o.fmt == 0
  match op with
  | 0x80 => redOk && a.count == o.count
  | 0x81 => redOk && a.count == n * o.count
  | 0x82 => o.count == n * a.count
  | 0x83 => decide (dImmBits d 21 8 < n) && (if dImmBits d 21 8 = r then a.space != 0 else a.space == 0 && o.space != 0)
  | 0x84 => true
  | 0x85 => a.count == o.count && a.count % n == 0
  | 0x86 => (opB d).fmt == 0 && (opB d).count == 2 * n
  | 0x87 => (dSubop d == 1 || decide (dImmBits d 21 8 < n)) && decide (dImmBits d 24 22 ≤ 4) && a.cols == 1 && decide (a.rows ≤ 4096)
  | 0x88 =>
    (dSubop d == 1 || decide (dImmBits d 21 8 < n)) && decide (dImmBits d 24 22 ≤ 4) && decide (dImmBits d 27 25 ≤ 5) && a.cols == 1 &&
      decide (a.rows ≤ 4096) && dWord d 7 == 0
  | 0x89 =>
    decide (3 ≤ n) && decide (n ≤ 255) &&
      (if r + 2 < n then a.space != 0 && o.space == 0 && a.bytes % 64 == 0 else a.space == 0 && o.space != 0 && o.bytes % 64 == 0)
  | _ =>
    let x := dImmBits d 15 8
    let y := dImmBits d 23 16
    decide (3 ≤ n) && decide (n ≤ 255) && x != 0xFF && x != y && decide (x < n) && (y == 0xFF || decide (y < n)) &&
      (if r = x ∨ r = y then a.space == 0 && o.space != 0 && o.bytes % 64 == 0
       else a.space != 0 && o.space == 0 && a.bytes % 64 == 0)

end Sys2Proof.Machine
end

