-- ==== Sys2Proof/Machine/Tiles.lean ====
section
/-! DEFINITION. Operations on tiles that many commands share: contexts (R128), counters (R137), exceptions (R151-R153),
triggers and starts (R131, R150), gangs (R45, R84, R85, R105), spares (R343). -/

namespace Sys2Proof.Machine

/-! Contexts. -/

/-- Context `c` of a tile. -/
def Tile.ctx (t : Tile) (c : Nat) : Ctx := mapGet Ctx.idle c t.ctxs

/-- Replace a context. -/
def Tile.withCtx (t : Tile) (c : Nat) (x : Ctx) : Tile := { t with ctxs := mapPut Ctx.idle c x t.ctxs }

/-- Context `c` of tile `t`. -/
def State.ctx (s : State) (t c : Nat) : Ctx := (s.tile t).ctx c

/-- Replace a context. -/
def State.withCtx (s : State) (t c : Nat) (x : Ctx) : State := s.modTile t (·.withCtx c x)

/-- Change a context. -/
def State.modCtx (s : State) (t c : Nat) (f : Ctx → Ctx) : State := s.withCtx t c (f (s.ctx t c))

/-- Counter `i` of a tile (R137). -/
def Tile.counter (t : Tile) (i : Nat) : BitVec 32 := mapGet 0 i t.counters

/-- Replace a counter. -/
def Tile.withCounter (t : Tile) (i : Nat) (v : BitVec 32) : Tile := { t with counters := mapPut 0 i v t.counters }

/-- Add to a counter modulo 2^32 (R137). -/
def State.addCounter (s : State) (t i n : Nat) : State :=
  s.modTile t fun x => x.withCounter i (x.counter i + BitVec.ofNat 32 n)

/-- The tile serves a logical tile at the current epoch (TIL_ID.STATE 1). -/
def State.active (s : State) (t : Nat) : Bool := (s.tile t).idState == 1

/-- Owner of the logical tile a physical tile serves. -/
def State.physOwner (s : State) (t : Nat) : Nat := s.tileOwner (s.logicalOf t)

/-- CLASS_MASK of an owner's partition (R47). -/
def State.classMask (s : State) (o : Nat) : Nat := rdLe (s.partSec o) 1 1

/-- Lowest class of a mask; class 0 where it is empty. -/
def lowClass (m : Nat) : Nat := (maskBits m 8).headD 0

/-- Highest class of a mask below 7, or the mask's lowest where it holds no other (R289). -/
def highClass (m : Nat) : Nat :=
  match (maskBits m 7).getLast? with
  | some c => c
  | none => lowClass m

/-! Graph table (R149). -/

/-- Byte address of an entry. -/
def graphAddr (g : Nat) : Nat := 0x5FE00 + 8 * g

/-- Entry `g` of a tile's graph table. -/
def Tile.graph (t : Tile) (g : Nat) : Nat := leNat (readBytes t.mem (graphAddr g) 8)

/-- SPACE of an entry. -/
def graphSpace (w : Nat) : Nat := bits w 41 40

/-- An entry is enabled. -/
def graphOn (w : Nat) : Bool := graphSpace w == 1 || graphSpace w == 2

/-! Ends and exceptions. -/

/-- Bytes of an engine list without a context, its shadow included. -/
def dropCtx (c : Nat) (l : List Nat) : List Nat := l.filter fun x => x != c && x != c + 8

/-- Release the engines a context holds. -/
def Tile.freeEngines (t : Tile) (c : Nat) : Tile :=
  { t with engines := (t.engines.map fun x => (x.1, dropCtx c x.2)).filter fun x => !x.2.isEmpty }

/-- Discard the summary that a context's descriptor gathers, if it has begun to (R126). -/
def Tile.dropSummary (t : Tile) (x : Ctx) : Tile :=
  match x.desc with
  | none => t
  | some d =>
    if dSumEn d && x.issued && (x.allDone || decide (0 < x.iter)) then
      let m := mapGet Summary.empty (dSumSlot d) t.sums
      { t with sums := mapPut Summary.empty (dSumSlot d) { m with gathered := [], ready := false } t.sums }
    else t

/-- BUSY lines of a list become INVALID; one that a consume has taken meanwhile stays as it stands. -/
def Tile.dropBusy (t : Tile) (ls : List Nat) : Tile :=
  forEach ls (fun i y => if (mapGet OcLine.empty i y.ocLines).st = .busy then
    { y with ocLines := mapPut OcLine.empty i OcLine.empty y.ocLines } else y) t

/-- A context ends: idle, engines free, a gang that it held released, its requests no longer awaited but for signals (R297). Lines that
its OCLOAD holds BUSY and has not filled become INVALID (log entry 76). -/
def Tile.endCtx (t : Tile) (c : Nat) : Tile :=
  let t1 := ((t.freeEngines c).dropBusy (t.ctx c).fills).withCtx c Ctx.idle
  { t1 with
    reqs := t1.reqs.filter fun r => r.ctx != c || r.use == .signal,
    gangHeld := t.gangHeld && (mapGet [] Engine.gang.code t.engines).head? != some c }

/-- A context ends (R128). -/
def State.endCtx (s : State) (t c : Nat) : State := s.modTile t (·.endCtx c)

/-- Words of an exception record (Table 6-11). -/
def excWords (addr space cause c before shadow : Nat) (idx : List Nat) (epoch detail : Nat) : Word × Word × Word :=
  (BitVec.ofNat 64 (addr % 2 ^ 40 + (space % 4) <<< 40 + cause <<< 42 + c <<< 50 + before <<< 52 + shadow <<< 53 + 1 <<< 54),
    BitVec.ofNat 64 ((List.range 5).foldl (fun w i => w + nth idx i 0 <<< (12 * i)) 0),
    BitVec.ofNat 64 (nth idx 5 0 + (epoch % 2 ^ 32) <<< 12 + (detail % 16) <<< 44))

/-- Record an exception of a context (R152, R153): the registers or LOST, the handler, the counts and the fault record. -/
def State.recordExc (s : State) (t c : Nat) (addr space : Nat) (e : ExcInfo) (shadow : Bool) : State :=
  let x := s.tile t
  let l := s.logicalOf t
  let o := s.tileOwner l
  let w := excWords addr space e.cause c (b2n e.beforeFirst) (b2n shadow) (if e.beforeFirst then [] else e.idx) (s.ownerEpoch o)
    e.detail
  let held := wBits x.exc0 54 54 = 1
  let x1 : Tile := if held then { x with exc0 := wPut x.exc0 55 55 1 }
    else { x with exc0 := wPut w.1 55 55 (wBits x.exc0 55 55), exc1 := w.2.1, exc2 := w.2.2 }
  let x2 : Tile := if ¬ held ∧ graphOn (x.graph 63) ∧ x.handler.isNone then { x1 with handler := some (x.graph 63, [w.1, w.2.1, w.2.2, 0]) } else x1
  let s1 := ((s.withTile t x2).tileCount t 0x03 1).traceEvent (t / 2304) (t % 2304) 2 o (natLe 8 w.1.toNat ++ natLe 8 w.2.1.toNat)
  s1.raiseFault (Unit6.ofTile l) 0x04 1 false 15 w.1.toNat

/-- The running descriptor of a context raises an exception: the record, and the context ends (R151). -/
def State.raiseExc (s : State) (t c : Nat) (e : ExcInfo) (shadow : Bool) : State :=
  let x := s.ctx t c
  ((s.modTile t (·.dropSummary x)).recordExc t c x.addr x.space e shadow).endCtx t c

/-! Gangs (R45, R84, R85). -/

/-- Gang records of a tile die's committed section. -/
def gangRecords (sec : Bytes) : List Nat :=
  (List.range (rdLe sec 524416 8)).map fun i => rdLe sec (524424 + 8 * i) 8

/-- The gang of a logical tile, if it is a member: its record. -/
def State.gangOf (s : State) (l : Nat) : Option Nat :=
  if s.tileRole l = 1 then (gangRecords (s.die (l / 2048)).active).find? fun g => bits g 14 0 == bits (s.roleWord l) 24 10 else none

/-- Side of a gang in tiles. -/
def gangSide (g : Nat) : Nat := 2 ^ bits g 17 15

/-- Logical tile at a row and column of a gang on die `d`. -/
def gangTile (d g r c : Nat) : Nat := d * 2048 + (bits g 22 18 + r) * 64 + bits g 28 23 + c

/-- A logical tile is the origin of its gang. -/
def State.isOrigin (s : State) (l : Nat) : Bool := s.tileRole l == 1 && bits (s.roleWord l) 32 25 == 0

/-- Columns that a matrix descriptor's stationary operand gives the gang: rows where it is stored N × K (R98). -/
def dCols (d : Bytes) : Nat := if (opB d).sparse = 2 then (opB d).rows else (opB d).cols

/-- The finished tiles of the iteration that a held gang has in progress leave the queues of the south members (R105, R123). -/
def State.dropHeld (s : State) (l g c : Nat) (d : Bytes) : State :=
  let o := s.phys (gangTile (l / 2048) g 0 0)
  let n := (s.ctx o c).part
  forEach ((List.range (gangSide g)).filter fun j => 16 * j < dCols d) (fun j s =>
    s.modTile (s.phys (gangTile (l / 2048) g (gangSide g - 1) j)) fun y => { y with ftq := y.ftq.take (y.ftq.length - n) }) s

/-- The gang of a lost member stops: its running matrix descriptor raises GANG_MEMBER at its current iteration, of which no output stays
(R105). -/
def State.gangLost (s : State) (l : Nat) : State :=
  match s.gangOf l with
  | none => s
  | some g =>
    let o := s.phys (gangTile (l / 2048) g 0 0)
    match (mapGet [] Engine.gang.code (s.tile o).engines).head? with
    | none => s
    | some c =>
      if 8 ≤ c then s
      else
        match (s.ctx o c).desc with
        | none => s
        | some d =>
          if ¬ (s.ctx o c).issued then s
          else if dOp d = 0x10 then (s.dropHeld l g c d).raiseExc o c ⟨0x12, false, dIdx d (s.ctx o c).iter, 0⟩ false
          else if dOp d = 0x11 then s.raiseExc o c ⟨0x12, false, dIdx d (s.ctx o c).iter, 0⟩ false
          else s

/-- The gangs of tiles that are fenced or reset stop (R105). -/
def State.stopGangs (s : State) (ts : List Nat) : State :=
  forEach ts (fun t s => if s.active t then s.gangLost (s.logicalOf t) else s) s

/-! Retirement (R171, R339, R343). -/

/-- First physical tile of the segment of a physical tile. -/
def segBase (t : Nat) : Nat := t - t % 9

/-- Position offered when a tile of a segment retires: 8 where no bypass is set and the spare is idle, else none. -/
def State.spareOf (s : State) (t : Nat) : Nat :=
  if s.bypassOf (segFirst t) = 15 ∧ (s.tile (segBase t + 8)).idState = 2 then 8 else 15

/-- Every context of a tile ends without a record. -/
def State.endAll (s : State) (t : Nat) : State := forEach (List.range 4) (fun c s => s.endCtx t c) s

/-- Activity of another owner in a deterministic run (R306). -/
def State.foreignActivity (s : State) (owner : Nat) : State :=
  if s.detOn ∧ s.fld Reg.detBarrierStatus 1 1 = 1 ∧ owner ≠ s.fld Reg.detBarrierCfg 5 0 then
    (s.withFld Reg.detStatus 3 3 1).bump Reg.detForeignCnt
  else s

/-! Triggers (R150). -/

/-- Response of Table 6-9 to a trigger for a logical tile. -/
def State.triggerCheck (s : State) (l g owner : Nat) (bad : Bool) : Nat :=
  let t := s.phys l
  if bad then 1
  else if ¬ s.active t ∨ s.tileRole l = 0 ∨ s.tileRole l = 6 ∨ 32768 ≤ l then 2
  else if s.tileOwner l ≠ owner then 3
  else if g = 63 ∨ ¬ graphOn ((s.tile t).graph g) then 4
  else if 8 ≤ (s.tile t).trigQ.length then 5
  else 0

/-- Offer a trigger: the response, and the trigger queued where it is accepted. -/
def State.offerTrigger (s : State) (l g owner : Nat) (bad : Bool) (arg : Bytes) : State × Nat :=
  let r := s.triggerCheck l g owner bad
  if r ≠ 0 then (s, r)
  else
    let args := (List.range 4).map fun i => BitVec.ofNat 64 (rdLe arg (8 * i) 8)
    let t := s.phys l
    ((s.modTile t fun x => { x with trigQ := x.trigQ ++ [⟨g, x.graph g, args⟩] }).tileCount t 0x17 1, 0)

/-! Remote requests sent by a tile (R290, R293). -/

/-- A new request may be issued: fewer than 256 outstanding, within 256 REQ_IDs of the oldest (R290). -/
def Tile.mayRequest (t : Tile) : Bool :=
  let l := t.reqs.filter (·.attempts != 0)
  decide (l.length < 256) &&
    match l.head? with
    | none => true
    | some r => decide ((t.reqNext + 65536 - r.id) % 65536 < 256)

/-- Send a request from a tile: header, frame, bookkeeping (R292, R293). -/
def State.sendRequest (s : State) (t c iter : Nat) (use : ReqUse) (qcls rcls op node : Nat) (addr arg0 arg1 len : Nat)
    (data : Bytes) : State :=
  let x := s.tile t
  let l := s.logicalOf t
  let id := x.reqNext
  let f : Frame :=
    { kind := 1, cls := qcls, vc := 0, dest := node, src := s.node, flow := l, unord := false, ce := false, ece := false,
      origin := s.now, payload := requestBytes id op rcls (s.tileOwner l) l len addr arg0 arg1 data }
  let s1 := s.withTile t { x with
    reqNext := (id + 1) % 65536, reqs := x.reqs ++ [⟨id, c, iter, use, f, 1, s.clk.kclk⟩] }
  (s1.tileSend l f).tileCount t 0x13 1

/-- Fabric address (R287). -/
def fabricAddr (node space off : Nat) : Nat := off % 2 ^ 48 + (space % 4) <<< 48 + node <<< 50

/-- Send the signal of a descriptor (R139, R140). A remote signal is posted. -/
def State.signal (s : State) (t c : Nat) (d : Bytes) : State :=
  let mode := dBits d 2 11 10
  let cnt := dBits d 2 9 6
  let inc := dBits d 2 27 12
  let l := s.logicalOf t
  let tr (s : State) (k tile : Nat) : State :=
    s.traceEvent (t / 2304) (t % 2304) 4 (s.tileOwner l) (natLe 4 cnt ++ natLe 4 inc ++ natLe 4 k ++ natLe 4 tile)
  if mode = 1 then tr (s.addCounter t cnt inc) 0 l
  else if mode = 2 then
    let tile := dBits d 2 42 28
    let m := s.classMask (s.tileOwner l)
    tr (s.sendRequest t c 0 .signal (lowClass m) (highClass m) 7 (dBits d 2 56 43) (fabricAddr (dBits d 2 56 43) 1 (tile <<< 19))
      (cnt + inc <<< 16) 0 0 []) 1 tile
  else s

end Sys2Proof.Machine
end

