-- ==== Sys2Proof/Machine/Store.lean ====
section
/-! DEFINITION. Tile memory with its error state (R22, R105, R117, R339), owner ranges of HBM, reducer buffers (R187). -/

namespace Sys2Proof.Machine

/-- Bytes of tile memory (R22). -/
def tileBytes : Nat := 393216

/-- Slice of a tile-memory byte: banks of 24 KiB. -/
def memSlice (a : Nat) : Nat := a / 24576

/-- 64-bit words a range touches. -/
def wordsOf (a n : Nat) : List Nat := if n = 0 then [] else (List.range ((a + n - 1) / 8 - a / 8 + 1)).map (a / 8 + ·)

/-- A range of tile memory holds a word that does not read. -/
def Tile.memHurt (t : Tile) (a n : Nat) : Bool := !t.memBad.isEmpty && (wordsOf a n).any t.memBad.contains

/-- Read tile memory. -/
def Tile.readMem (t : Tile) (a n : Nat) : Bytes := readBytes t.mem a n

/-- Write tile memory: a word that did not read is rewritten (Table 15-1). -/
def Tile.writeMem (t : Tile) (a : Nat) (data : Bytes) : Tile :=
  { t with mem := writeBytes t.mem a data, memBad := t.memBad.filter fun w => !(wordsOf a data.length).contains w }

/-- Device address parts (R322): stack and stack offset. -/
def devStack (a : Nat) : Nat := bits a 39 36
/-- Offset of a device address in its stack. -/
def devOff (a : Nat) : Nat := a % 2 ^ 36

/-- The valid group entry that names a logical tile as a reducer, if any (R187). -/
def State.reducerEntry (s : State) (l : Nat) : Option Group :=
  (s.groups.find? fun x => s.fld (Reg.colGrpCfg x.1) 0 0 == 1 && decide (x.2.redBase ≤ l) && decide (l < x.2.redBase + x.2.redCount)).map
    (·.2)

/-- A range of tile memory touches the reducer buffer of a logical tile (R187). -/
def State.inReducerBuffer (s : State) (l a n : Nat) : Bool :=
  match s.reducerEntry l with
  | none => false
  | some g => decide (a < g.bufBase + 4096 * g.buf4k) && decide (g.bufBase < a + n)

end Sys2Proof.Machine
end

