-- ==== Sys2Proof/Machine/Cache.lean ====
section
/-! DEFINITION. The operand cache, the finished-tile queue and the stream ports of a tile (R46, R114-R121, R320, R321). -/

namespace Sys2Proof.Machine

/-! The operand cache (R114-R119). -/

/-- Bytes of the operand cache. -/
def cacheBytes : Nat := 32768

/-- Line `i` of a tile's operand cache. -/
def Tile.line (t : Tile) (i : Nat) : OcLine := mapGet OcLine.empty i t.ocLines

/-- Replace a line's state and tag. -/
def Tile.withLine (t : Tile) (i : Nat) (x : OcLine) : Tile := { t with ocLines := mapPut OcLine.empty i x t.ocLines }

/-- Lines that `n` bytes from `a` touch. -/
def linesOf (a n : Nat) : List Nat := if n = 0 then [] else (List.range ((a + n - 1) / 512 - a / 512 + 1)).map (a / 512 + ·)

/-- Bytes of the cache. -/
def Tile.readOc (t : Tile) (a n : Nat) : Bytes := readBytes t.oc a n

/-- Store bytes in the cache; a byte that did not read is rewritten. -/
def Tile.putOc (t : Tile) (a : Nat) (data : Bytes) : Tile :=
  { t with oc := writeBytes t.oc a data, ocBad := t.ocBad.filter fun b => decide (b < a) || decide (a + data.length ≤ b) }

/-- A line after a vector write: DIRTY, keeping its tag (R117). -/
def OcLine.written (x : OcLine) : OcLine := if x.st = .invalid then ⟨.dirty, none, []⟩ else { x with st := .dirty }

/-- 64 B groups of line `i` that `n` bytes from `a` touch. -/
def groupsOf (i a n : Nat) : List Nat :=
  (List.range 8).filter fun g => decide (a < 512 * i + 64 * (g + 1)) && decide (512 * i + 64 * g < a + n)

/-- Groups written beside a fill that a consume has overtaken (R119, log entry 76). -/
def OcLine.feed (x : OcLine) (gs : List Nat) : OcLine := if x.fed.isEmpty then x else { x with fed := x.fed ++ gs }

/-- A vector write to the cache (R117). -/
def Tile.vecWriteOc (t : Tile) (a : Nat) (data : Bytes) : Tile :=
  forEach (linesOf a data.length) (fun i x => x.withLine i ((x.line i).written.feed (groupsOf i a data.length))) (t.putOc a data)

/-- VEC_STATUS bits that are stored: OC_CLOBBER, FTQ_STALLED, GF_INV_ZERO. -/
def Tile.vecFlag (t : Tile) (b : Nat) : Tile := { t with vecFlags := t.vecFlags ||| BitVec.ofNat 64 (1 <<< b) }

/-- A lattice consume into the cache: the line is VALID with no tag, and earlier contents are clobbered (R119). A write-back in
progress keeps its address until it ends; a fill in progress goes on in the other groups of the line. -/
def Tile.portWriteOc (t : Tile) (a : Nat) (data : Bytes) : Tile :=
  let old := t.line (a / 512)
  let gs := groupsOf (a / 512) a data.length
  let x : OcLine :=
    if old.st = .busy then ⟨.valid, old.tag, gs⟩ else if old.fed.isEmpty then ⟨.valid, none, []⟩ else ⟨.valid, old.tag, old.fed ++ gs⟩
  let t1 := (t.putOc a data).withLine (a / 512) x
  if old.st = .dirty ∨ old.st = .busy then t1.vecFlag 4 else t1

/-- A line that did not read becomes INVALID (OC_ECC). -/
def Tile.spoil (t : Tile) (i : Nat) : Tile := { t with ocBad := t.ocBad.filter fun b => b / 512 != i }.withLine i OcLine.empty

/-! The finished-tile queue (R120, R121). -/

/-- Bytes of an entry. -/
def FtqEntry.bytes (x : FtqEntry) : Nat := if x.elem = 2 then 1024 else 512

/-- The complete entries at the head of the queue. -/
def Tile.readyTiles (t : Tile) : List FtqEntry := t.ftq.takeWhile (·.complete)

/-! Stream ports (R46, R413). -/

/-- Record of stream port `p` of a logical tile. -/
def State.streamPort (s : State) (l p : Nat) : Nat := rdLe (s.tileRec l) (16 + 8 * p) 8

/-- KIND of a port. -/
def State.portKind (s : State) (l p : Nat) : Nat := bits (s.streamPort l p) 3 0

/-- A tile's record defines a port of a kind. -/
def State.hasPort (s : State) (l k : Nat) : Bool := (List.range 16).any fun p => s.portKind l p == k

/-- The first port of a kind. -/
def State.findPort (s : State) (l k : Nat) : Option Nat := (List.range 16).find? fun p => s.portKind l p == k

/-- Byte address of use `n` of a port of KIND 1 or 2 (R413). -/
def portAddr (rec n : Nat) : Nat := bits rec 23 4 + 64 * bits rec 39 24 * (n % bits rec 55 40)

/-- Uses of a port so far. -/
def Tile.uses (t : Tile) (p : Nat) : Nat := mapGet 0 p t.portUse

/-- One more use of a port. -/
def Tile.use (t : Tile) (p : Nat) : Tile := { t with portUse := mapPut 0 p (t.uses p + 1) t.portUse }

/-- Bytes of an edge stream buffer (R320). -/
def streamBytes : Nat := 32768

/-- The HBM stack whose controller a helper tile faces (Table 14-1). -/
def helperStack (l : Nat) : Nat := (dieStack (l / 2048)).getD 0

/-- An edge stream ran empty or full: the count, and one record in each schedule period (R321). -/
def State.streamRun (s : State) (t l reg : Nat) : State :=
  let s1 := s.bump (memReg (helperStack l) reg)
  if (s.tile t).runNoted then s1
  else (s1.modTile t fun x => { x with runNoted := true }).raiseFault (Unit6.ofTile l) 0x1C 1 false 15 0

/-- The 64 B that an inject takes from a port. A word that does not read gives free bytes; an empty finished-tile queue and an
empty read buffer give a zero flit (R321). -/
def State.portTake (s : State) (t l p : Nat) : State × Bytes :=
  let r := s.streamPort l p
  let x := s.tile t
  let n := x.uses p
  let used := s.modTile t (·.use p)
  match bits r 3 0 with
  | 1 =>
    if x.memHurt (portAddr r n) 64 then (used.useFreeN 64, s.freeBytes 64) else (used, x.readMem (portAddr r n) 64)
  | 2 => (used, x.readOc (portAddr r n) 64)
  | 5 =>
    if x.memHurt (64 * n) 64 then (used.useFreeN 64, s.freeBytes 64) else (used, x.readMem (64 * n) 64)
  | 6 =>
    match x.readyTiles with
    | [] => (s, zeros 64)
    | e :: _ =>
      let y := x.use p
      let k := x.ftqPart + 1
      (s.withTile t (if e.bytes / 64 ≤ k then { y with ftq := y.ftq.drop 1, ftqPart := 0 } else { y with ftqPart := k }),
        slice e.data (64 * x.ftqPart) 64)
  | 7 =>
    if x.rdBuf.length < 64 then (s.streamRun t l Reg.memStreamUnderrunCnt, zeros 64)
    else (s.modTile t fun y => { y with rdBuf := y.rdBuf.drop 64 }, x.rdBuf.take 64)
  | _ => (s, zeros 64)

/-- A consume writes 64 B into a port (R119, R320, R321, log entry 26). -/
def State.portGive (s : State) (t l p : Nat) (data : Bytes) : State :=
  let r := s.streamPort l p
  let n := (s.tile t).uses p
  match bits r 3 0 with
  | 1 => s.modTile t fun x => (x.use p).writeMem (portAddr r n) data
  | 2 => s.modTile t fun x => (x.use p).portWriteOc (portAddr r n) data
  | 3 => s.modTile t fun x => { x with westIn := x.westIn ++ data }
  | 4 => s.modTile t fun x => { x with carryIn := x.carryIn ++ data }
  | 7 =>
    if streamBytes < (s.tile t).wrBuf.length + 64 then s.streamRun t l Reg.memStreamOverrunCnt
    else s.modTile t fun x => { x with wrBuf := x.wrBuf ++ data }
  | _ => s

end Sys2Proof.Machine
end

