-- ==== Sys2Proof/Machine/Flags.lean ====
section
/-! DEFINITION. Sticky flags of a tile: VEC_CVT_STATUS (Table 3-8), MTX_STATUS (Table 4-6), and NAN_TRAP (R77). -/

namespace Sys2Proof.Machine

/-- Set flags of VEC_CVT_STATUS (R80). -/
def Tile.cvtFlags (t : Tile) (f : Nat) : Tile := { t with cvtStatus := t.cvtStatus ||| BitVec.ofNat 64 f }

/-- MTX_STATUS.SAT. -/
def mSat : Nat := 1
/-- MTX_STATUS.CARRY_OVF. -/
def mOvf : Nat := 2
/-- MTX_STATUS.CARRY_NAN. -/
def mNan : Nat := 4

/-- Set flags of MTX_STATUS (R94). -/
def Tile.mtxFlags (t : Tile) (f : Nat) : Tile := { t with mtxStatus := t.mtxStatus ||| BitVec.ofNat 64 f }

/-- Flags that a conversion raised call for NAN_TRAP under a numeric mode (R77, R79). -/
def nanTraps (mode : BitVec 5) (f : Nat) : Bool := mode.getLsbD 4 && f &&& (fNanGen ||| fNanLost) != 0

/-- Rounding of element `i` of a descriptor under a numeric mode (R77, R81). -/
def rndOf (mode : BitVec 5) (seed i : Nat) : Rnd :=
  let m := mode.toNat % 8
  ⟨m, mode.getLsbD 3, if m = 4 then stochasticU seed i else 0⟩

end Sys2Proof.Machine
end

