-- ==== Sys2Proof/Machine/Carry.lean ====
section
/-! DEFINITION. How a gang computes: products, chunk sums, the carry format, sparse blocks (R67, R68, R90-R93, R96-R99, R101,
R102). -/

namespace Sys2Proof.Machine

/-! The carry format (Table 4-3). -/

/-- One RNE rounding into the carry format, with MTX_STATUS flags. -/
def carryRound (x : Num) : Num × Nat :=
  match x with
  | .nan => (.nan, mNan)
  | .inf s => (.inf s, 0)
  | .fin s n d =>
    if n = 0 then (x, 0)
    else
      let k : Int := max (log2Frac n d - 35) (-545)
      let q := scaleFrac n d k
      let t := q.1 / q.2
      let t' := t + b2n (roundsUp Rnd.rne s t (q.1 % q.2) q.2)
      if 476 < k ∨ (k = 476 ∧ 2 ^ 36 ≤ t') then (.inf s, mOvf) else (dyadic s t' k, 0)

/-- A value of the carry format as its word (R91). -/
def carryWord (x : Num) : Word :=
  match x with
  | .nan => BitVec.ofNat 64 (1023 <<< 36 + 0x800000000)
  | .inf s => BitVec.ofNat 64 (1023 <<< 36 + b2n s <<< 46)
  | .fin s n d =>
    let lg := log2Frac n d
    if n = 0 then BitVec.ofNat 64 (b2n s <<< 46)
    else if lg < -510 then
      let q := scaleFrac n d (-545)
      BitVec.ofNat 64 (q.1 / q.2 + b2n s <<< 46)
    else
      let q := scaleFrac n d (lg - 35)
      BitVec.ofNat 64 (q.1 / q.2 + (lg - 35 + 546).toNat <<< 36 + b2n s <<< 46)

/-- The value of a carry word. -/
def wordCarry (w : Nat) : Num :=
  let m := bits w 35 0
  let e := bits w 45 36
  let s := bit w 46
  if e = 1023 then (if m = 0 then .inf s else .nan)
  else if e = 0 then dyadic s m (-545)
  else dyadic s m ((e : Int) - 546)

/-- How a gang accumulates: integers (R93), exact narrow sums, or aligned sums (R90). -/
inductive GangKind where
  | int | narrow | wide
  deriving DecidableEq, Repr

/-- Close a sum at a member or pass boundary: saturation to 48 bits, or one carry rounding. -/
def closeSumTo (k : GangKind) (x : Num) : Num × Nat :=
  match k with
  | .int =>
    match x with
    | .fin s n _ =>
      let lim := if s then 2 ^ 47 else 2 ^ 47 - 1
      if lim < n then (.fin s lim 1, mSat) else (x, 0)
    | _ => (x, 0)
  | _ => carryRound x

/-- The word of a held partial or carry. -/
def partWord (k : GangKind) (x : Num) : Word :=
  match k, x with
  | .int, .fin s n _ => BitVec.ofNat 64 (toTwos 64 (if s then -(n : Int) else n))
  | _, _ => carryWord x

/-- The value of a held partial or carry word. -/
def wordPart (k : GangKind) (w : Nat) : Num :=
  match k with
  | .int =>
    let v := sgn 48 w
    .fin (decide (v < 0)) v.natAbs 1
  | _ => wordCarry w

/-! Products and chunks. -/

/-- An element as the array takes it: its value, and the lo part of an FP32 element (R68). -/
structure Elt where
  v : Num
  lo : Num
  deriving DecidableEq, Repr

/-- An element of a code. -/
def eltOf (elem code : Nat) : Elt :=
  let ex := bits code 30 23
  let m := (if ex = 0 then 0 else 2 ^ 23) + bits code 22 0
  ⟨decodeElem elem code, if elem = 2 then dyadic (bit code 31) (m % 4) (((max ex 1 : Nat) : Int) - 150) else .zero⟩

/-- A product: exact, but for the term lo · lo of two FP32 elements. -/
def eltMul (a b : Elt) : Num :=
  let p := (a.v.mul b.v).1
  if p.isFin ∧ ¬ a.lo.isZero ∧ ¬ b.lo.isZero then (p.sub (a.lo.mul b.lo).1).1 else p

/-- Exact sum of values. -/
def sumNums (l : List Num) : Num := l.foldl (fun a x => (a.add x).1) .zero

/-- The greatest ⌊log2⌋ of non-zero finite terms. -/
def leadingBit (l : List Num) : Option Int :=
  l.foldl (fun m x => match x with
    | .fin _ n d => if n = 0 then m else match m with | none => some (log2Frac n d) | some k => some (max k (log2Frac n d))
    | _ => m) none

/-- A term truncated in magnitude below 2^(L - 63). -/
def truncTerm (l : Int) (x : Num) : Num :=
  match x with
  | .fin s n d =>
    let q := scaleFrac n d (l - 63)
    dyadic s (q.1 / q.2) (l - 63)
  | _ => x

/-- The aligned sum of R90. -/
def alignedSum (l : List Num) : Num :=
  match leadingBit l with
  | none => sumNums l
  | some k => sumNums (l.map (truncTerm k))

/-- A member's carry out: carry of c_in and its chunk (R90). `f` is the fine-scale product of the chunk's block. An infinite element under a
zero fine scale gives NaN, as an infinity times zero (R75; DESIGN CHOICE, log entry 81). -/
def memberCarry (k : GangKind) (f c : Num) (ps : List Num) : Num × Nat :=
  match k with
  | .wide => closeSumTo k (alignedSum (c :: ps.map fun p => (p.mul f).1))
  | _ => closeSumTo k (c.add ((sumNums ps).mul f).1).1

/-- Cut a list into parts of 16. -/
def chunks16 {α : Type} : Nat → List α → List (List α)
  | 0, _ => []
  | n + 1, l => if l.isEmpty then [] else l.take 16 :: chunks16 n (l.drop 16)

/-- The value of an unstructured row from c_in: each chunk of 16 scaled products is rounded, then added (R102). -/
def rowCarry (k : GangKind) (c : Num) (ps : List Num) : Num × Nat :=
  (chunks16 (ps.length / 16 + 1) ps).foldl (fun r ch =>
    let s := closeSumTo k (if k = .wide then alignedSum ch else sumNums ch)
    let x := closeSumTo k (r.1.add s.1).1
    (x.1, r.2 ||| s.2 ||| x.2)) (c, 0)

/-! Sparse blocks. -/

/-- Every row and column of a bitmap has at most four bits (R99). -/
def blockStructured (bm : Nat) : Bool :=
  (List.range 8).all fun i => decide (((List.range 8).filter fun j => bit bm (8 * i + j)).length ≤ 4) &&
    decide (((List.range 8).filter fun j => bit bm (8 * j + i)).length ≤ 4)

/-- Positions of set bits with the values of a packed region. -/
def blockValues (elem bm : Nat) (packed : Bytes) : List (Nat × Nat) := (maskBits bm 64).zip (unpack (elemBits elem) packed)

/-- Bytes of a doubly structured block (R97). -/
def blockBytes (elem : Nat) : Nat := 8 + 4 * elemBits elem

/-! Pruning (R101). -/

/-- `x` comes before `y` in the pruning order: NaN, then magnitude; positions decide the rest. -/
def pruneBefore (x y : Nat × Num) : Bool :=
  if x.2.isNan || y.2.isNan then x.2.isNan && (!y.2.isNan || decide (x.1 < y.1))
  else y.2.abs.lt x.2.abs || (y.2.abs.eqv x.2.abs && decide (x.1 < y.1))

/-- Insert by the pruning order. -/
def pruneInsert (x : Nat × Num) : List (Nat × Num) → List (Nat × Num)
  | [] => [x]
  | y :: l => if pruneBefore x y then x :: y :: l else y :: pruneInsert x l

/-- The bitmap that the pruning unit keeps of an 8 × 8 block. -/
def pruneBitmap (v : List Num) : Nat :=
  let order := (v.zipIdx.map fun x => (x.2, x.1)).foldl (fun l x => pruneInsert x l) []
  order.foldl (fun bm x =>
    let i := x.1 / 8
    let j := x.1 % 8
    let row := ((List.range 8).filter fun k => bit bm (8 * i + k)).length
    let col := ((List.range 8).filter fun k => bit bm (8 * k + j)).length
    if x.2.isZero ∨ 4 ≤ row ∨ 4 ≤ col then bm else bm ||| 1 <<< x.1) 0

/-- A pruned block: the bitmap, the kept codes, zero slots up to 32. -/
def pruneBlock (elem : Nat) (c : List Nat) : Bytes :=
  let bm := pruneBitmap (c.map (decodeElem elem))
  let kept := (maskBits bm 64).map fun p => nth c p 0
  natLe 8 bm ++ padTo (4 * elemBits elem) (pack (elemBits elem) kept)

/-- The block grid of a dense K × N operand, pruned in block order. -/
def pruneAll (elem k n : Nat) (c : List Nat) : Bytes :=
  (List.range (k / 8)).flatMap fun bi => (List.range (n / 8)).flatMap fun bj =>
    pruneBlock elem ((List.range 64).map fun p => nth c ((8 * bi + p / 8) * n + 8 * bj + p % 8) 0)

end Sys2Proof.Machine
end

