-- ==== Sys2Proof/Machine/Operands.lean ====
section
/-! DEFINITION. What one iteration reads and writes: the operand spaces (Tables 6-2 and 6-3, R117, R121, R134, R320, R324),
elements and scales (R65, R71). -/

namespace Sys2Proof.Machine

/-- Why an iteration does not commit: it waits as it stood, waits with what it has done so far kept, or raises an exception of a
cause and DETAIL. -/
inductive Halt where
  | wait
  | hold
  | exc (cause detail : Nat)
  deriving DecidableEq, Repr

/-- A computation that reads the state, may consume from queues, and may halt. -/
abbrev It := EStateM Halt State

/-- Raise an exception. -/
def fail {α : Type} (cause : Nat) : It α := throw (.exc cause 0)

/-- Go on only where a condition holds. -/
def need (c : Bool) (cause : Nat) : It Unit := if c then pure () else fail cause

/-- An iteration in progress. -/
structure Run where
  /-- The tile of the context. -/
  home : Nat
  /-- The tile whose operands are read: a member of the gang, or the tile of the context. -/
  t : Nat
  c : Nat
  /-- Logical tile. -/
  l : Nat
  owner : Nat
  d : Bytes
  /-- Linear iteration number and loop indices (R136). -/
  j : Nat
  idx : List Nat
  args : List Word
  mode : BitVec 5
  /-- A shadow reads (R144, R326). -/
  spec : Bool
  /-- What the iteration reads is kept, and read once. -/
  keeps : Bool
  deriving DecidableEq, Repr

/-- Address of an operand in this iteration. -/
def Run.at (e : Run) (o : Opnd) : Int := o.addr e.args e.idx

/-- Row ranges of an operand in this iteration. -/
def Run.rows (e : Run) (o : Opnd) : List (Int × Nat) := o.runs (e.at o)

/-- A range lies in a space of `size` bytes. -/
def inSpace (size : Nat) (r : Int × Nat) : Bool := decide (0 ≤ r.1) && decide (r.1 + r.2 ≤ size)

/-! Reads. -/

/-- A read that the iteration keeps until it commits: made before, it answers as it did. -/
def remember (e : Run) (act : It Bytes) : It Bytes := do
  let s ← get
  let x := s.ctx e.home e.c
  match x.seen[x.seenAt]? with
  | some b =>
    set (s.modCtx e.home e.c fun y => { y with seenAt := y.seenAt + 1 })
    pure b
  | none =>
    let b ← act
    modify fun s => s.modCtx e.home e.c fun y => { y with seen := y.seen ++ [b], seenAt := y.seen.length + 1 }
    pure b

/-- A read of an addressed space: kept where the iteration keeps its reads (R87, R89, R126, R144; log entry 17). -/
def keepRead (e : Run) (act : It Bytes) : It Bytes := if e.keeps then remember e act else act

/-- The iteration waits with what it has done so far. -/
def holdOn {α : Type} (e : Run) : It α := do
  modify fun s => s.modCtx e.home e.c fun y => { y with seenAt := 0 }
  throw .hold

/-- Read ranges of tile memory. -/
def readTileRuns (e : Run) (rs : List (Int × Nat)) : It Bytes := keepRead e do
  need (rs.all (inSpace tileBytes)) 0x05
  let s ← get
  need (!rs.any fun r => (s.tile e.t).memHurt r.1.toNat r.2) 0x08
  pure (rs.flatMap fun r => (s.tile e.t).readMem r.1.toNat r.2)

/-- Cache lines of ranges. -/
def runLines (rs : List (Int × Nat)) : List Nat := rs.flatMap fun r => linesOf r.1.toNat r.2

/-- Read ranges of the operand cache (Table 5-4). -/
def readCacheRuns (e : Run) (rs : List (Int × Nat)) : It Bytes := keepRead e do
  need (rs.all fun r => decide (0 ≤ r.1)) 0x05
  need (rs.all (inSpace cacheBytes)) 0x1B
  let s ← get
  let x := s.tile e.t
  need ((runLines rs).all fun i => (x.line i).st != .invalid) 0x18
  if (runLines rs).any fun i => (x.line i).st == .busy then throw .wait
  match x.ocBad.find? fun b => rs.any fun r => decide (r.1.toNat ≤ b) && decide (b < r.1.toNat + r.2) with
  | some b =>
    set (s.modTile e.t (·.spoil (b / 512)))
    fail 0x1C
  | none => pure (rs.flatMap fun r => x.readOc r.1.toNat r.2)



/-- Pieces of one row of HBM: RANGE, NO_ROUTE at a withdrawn window, FOREIGN_ACCESS, or a wait on a repair (R52, R324, R340). -/
def hbmPieces (e : Run) (r : Int × Nat) : It (List (Nat × Nat × Nat)) := do
  need (inSpace (2 ^ 40) r) 0x05
  let s ← get
  if s.windowGone e.owner r.1.toNat r.2 then
    set (s.modStop (tileBlock e.l) fun x => { x with discards := x.discards + 1 })
    throw (.exc 0x33 5)
  match s.ownerPieces e.owner r.1.toNat r.2 with
  | none => fail 0x06
  | some ps => if s.piecesHeld ps then throw .wait else pure ps

/-- Read one row of HBM. -/
def readHbmRun (e : Run) (r : Int × Nat) : It Bytes := keepRead e do
  let ps ← hbmPieces e r
  let s ← get
  let x := s.readPieces ps e.spec 0
  set x.1
  need (!x.2.2) 0x08
  pure x.2.1

/-- Read rows of HBM in order. -/
def readHbmRuns (e : Run) : List (Int × Nat) → It Bytes
  | [] => pure []
  | r :: rs => do
    let b ← readHbmRun e r
    let q ← readHbmRuns e rs
    pure (b ++ q)

/-- Read the context argument (R134). -/
def readArgRuns (e : Run) (rs : List (Int × Nat)) : It Bytes := do
  need (rs.all (inSpace 32)) 0x05
  let b := e.args.flatMap fun w => natLe 8 w.toNat
  pure (rs.flatMap fun r => slice (padTo 32 b) r.1.toNat r.2)

/-- Read ranges of an addressed space. -/
def readRuns (e : Run) (space : Nat) (rs : List (Int × Nat)) : It Bytes :=
  match space with
  | 1 => readTileRuns e rs
  | 2 => readCacheRuns e rs
  | 4 => readHbmRuns e rs
  | 7 => readArgRuns e rs
  | _ => fail 0x02

/-- The oldest entry of the finished-tile queue, once it is complete: it is released (R121). An iteration that is no shadow keeps what it
has read and waits for the next entry. -/
def readTile (e : Run) (o : Opnd) : It Bytes := remember e do
  let s ← get
  let x := s.tile e.t
  match x.readyTiles with
  | [] => if e.spec then throw .wait else holdOn e
  | q :: _ =>
    need (q.elem == o.fmt) 0x03
    set (s.withTile e.t { x with ftq := x.ftq.drop 1 })
    pure q.data

/-- `n` entries, one after the other. -/
def readTileN (e : Run) (o : Opnd) : Nat → It Bytes
  | 0 => pure []
  | n + 1 => do
    let b ← readTile e o
    let q ← readTileN e o n
    pure (b ++ q)

/-- Whole entries of the finished-tile queue, oldest first (R121). -/
def readTiles (e : Run) (o : Opnd) : It Bytes := do
  need ((o.fmt == 0 || o.fmt == 2) && o.count % 256 == 0) 0x03
  readTileN e o (o.count / 256)

/-- `n` uses of a port as a source. -/
def takeMany (t l p : Nat) : Nat → State → State × Bytes
  | 0, s => (s, [])
  | n + 1, s =>
    let r := s.portTake t l p
    let q := takeMany t l p n r.1
    (q.1, r.2 ++ q.2)

/-- Read a stream port as a source (R320, log entry 31): the write buffer of an edge stream, or 64 B for each use. -/
def readPort (e : Run) (o : Opnd) : It Bytes := do
  let s ← get
  if e.spec then throw .wait
  let k := s.portKind e.l o.base
  if k = 7 then
    let x := s.tile e.t
    if x.wrBuf.length < o.bytes then throw .wait
    set (s.withTile e.t { x with wrBuf := x.wrBuf.drop o.bytes })
    pure (x.wrBuf.take o.bytes)
  else
    need ((k == 1 || k == 2 || k == 5 || k == 6) && o.bytes % 64 == 0) 0x02
    if k = 6 ∧ (s.tile e.t).readyTiles.isEmpty then throw .wait
    let r := takeMany e.t e.l o.base (o.bytes / 64) s
    set r.1
    pure r.2

/-- Elements of an operand in this iteration, row-major. -/
def readOpnd (e : Run) (o : Opnd) : It Bytes :=
  match o.space with
  | 3 => readTiles e o
  | 5 => readPort e o
  | _ => readRuns e o.space (e.rows o)

/-! Scale regions (R70-R72). -/

/-- The scale region of an operand (R71). -/
def Run.region (e : Run) (o : Opnd) : Int := o.region e.d e.args o.span

/-- Where the fine scales of an iteration's rows stand in the region. -/
def Run.fineRuns (e : Run) (o : Opnd) : List (Int × Nat) := (o.grid e.d e.idx).cells (e.region o) o.rows o.cols

/-- Format of a fine scale code under a SCALE mode. -/
def fineElem (scale : Nat) : Nat := if scale = 1 then 11 else 10

/-- The scales of an iteration's elements: C, 1.0 in MX mode, and F of each block that its rows touch. -/
structure Scales where
  coarse : Num
  fine : List Num
  deriving DecidableEq, Repr

/-- Scales of an operand that is read. -/
def readScales (e : Run) (o : Opnd) : It Scales := do
  if o.scale = 0 then pure ⟨.one, []⟩
  else
    let c ← if o.scale = 1 then readRuns e o.space [(e.region o, 4)] else pure []
    let f ← readRuns e o.space (e.fineRuns o)
    pure ⟨if o.scale = 1 then decodeElem 2 (leNat c) else .one, f.map fun b => decodeElem (fineElem o.scale) b.toNat⟩

/-- Element codes of packed bytes. -/
def codes (elem : Nat) (b : Bytes) : List Nat := unpack (elemBits elem) b

/-- Values of an operand's elements without scales. -/
def readVals (e : Run) (o : Opnd) : It (List Num) := do
  let b ← readOpnd e o
  pure ((codes o.elem b).map (decodeElem o.elem))

/-- The value of element `i` of an iteration under its scales: x × F × C (R70, R75), with whether a NaN came from non-NaN inputs. -/
def Run.scaled (e : Run) (o : Opnd) (sc : Scales) (i : Nat) (x : Num) : Num × Bool :=
  if o.scale = 0 then (x, false)
  else Num.product [x, nth sc.fine ((o.grid e.d e.idx).number o.cols (i / o.cols) (i % o.cols)) .zero, sc.coarse]

/-- Values of a scaled operand. -/
def readScaled (e : Run) (o : Opnd) : It (List (Num × Bool)) := do
  let v ← readVals e o
  let sc ← readScales e o
  pure (v.mapIdx (e.scaled o sc))

/-! Writes. A check that may halt, and the write itself. -/

/-- Check rows of HBM that will be written. -/
def checkHbmRuns (e : Run) : List (Int × Nat) → It Unit
  | [] => pure ()
  | r :: rs => do
    discard (hbmPieces e r)
    checkHbmRuns e rs

/-- Check ranges that will be written to an addressed space. -/
def canWrite (e : Run) (space : Nat) (rs : List (Int × Nat)) : It Unit := do
  match space with
  | 1 =>
    need (rs.all (inSpace tileBytes)) 0x05
    let s ← get
    need (!rs.any fun r => s.inReducerBuffer e.l r.1.toNat r.2) 0x05
  | 2 =>
    need (rs.all fun r => decide (0 ≤ r.1)) 0x05
    need (rs.all (inSpace cacheBytes)) 0x1B
    let s ← get
    if (runLines rs).any fun i => ((s.tile e.t).line i).st == .busy then throw .wait
  | 4 => checkHbmRuns e rs
  | _ => fail 0x02

/-- Write one range. -/
def writeRun (e : Run) (space : Nat) (r : Int × Nat) (data : Bytes) (s : State) : State :=
  match space with
  | 1 => s.modTile e.t (·.writeMem r.1.toNat data)
  | 2 => s.modTile e.t (·.vecWriteOc r.1.toNat data)
  | 4 =>
    match s.ownerPieces e.owner r.1.toNat r.2 with
    | some ps => (s.ownerWrite e.owner r.1.toNat ps data).1
    | none => s
  | _ => s

/-- Write rows in order. -/
def writeRuns (e : Run) (space : Nat) : List (Int × Nat) → Bytes → State → State
  | [], _, s => s
  | r :: rs, data, s => writeRuns e space rs (data.drop r.2) (writeRun e space r (data.take r.2) s)

/-- Uses of a port as a destination. -/
def giveMany (t l p : Nat) : Nat → Bytes → State → State
  | 0, _, s => s
  | n + 1, data, s => giveMany t l p n (data.drop 64) (s.portGive t l p (data.take 64))

/-- Write a stream port as a destination (R320, log entry 31): the read buffer of an edge stream, or 64 B for each use. -/
def writePort (e : Run) (o : Opnd) (data : Bytes) : It (State → State) := do
  let s ← get
  let k := s.portKind e.l o.base
  if k = 7 then
    if streamBytes < (s.tile e.t).rdBuf.length + data.length then throw .wait
    pure fun s => s.modTile e.t fun x => { x with rdBuf := x.rdBuf ++ data }
  else
    need ((k == 1 || k == 2 || k == 3 || k == 4) && data.length % 64 == 0) 0x02
    pure (giveMany e.t e.l o.base (data.length / 64) data)

/-- A write of bytes over ranges of a space. -/
def writeRows (e : Run) (space : Nat) (rs : List (Int × Nat)) (data : Bytes) : It (State → State) := do
  canWrite e space rs
  pure (writeRuns e space rs data)

/-- Write an operand's elements, row-major. -/
def writeOpnd (e : Run) (o : Opnd) (data : Bytes) : It (State → State) := do
  match o.space with
  | 5 => writePort e o data
  | _ => writeRows e o.space (e.rows o) data

/-- A write of bytes at one place of a space. -/
def writeAt (e : Run) (space : Nat) (a : Int) (data : Bytes) : It (State → State) := do
  canWrite e space [(a, data.length)]
  pure (writeRun e space (a, data.length) data)

end Sys2Proof.Machine
end

