-- ==== Sys2Proof/Machine/Records.lean ====
section
/-! DEFINITION. GF(2^8) arithmetic (R112) and stream records (R175-R179). -/

namespace Sys2Proof.Machine

/-! GF(2^8) with polynomial 0x11D and generator 2 (R112). -/

/-- Product of every byte with a constant. -/
def gfScale (c : Nat) (b : Bytes) : Bytes := b.map fun x => BitVec.ofNat 8 (gfMul c x.toNat)

/-- XOR of two byte runs of one length. -/
def xorBytes (a b : Bytes) : Bytes := List.zipWith (· ^^^ ·) a b

/-! Stream records (Table 7-11). -/

/-- Bytes of a record of a PLEN. -/
def recordBytes (plen : Nat) : Nat := 32 + 32 * plen

/-- KEY. -/
def recKey (r : Bytes) : Nat := rdLe r 0 8
/-- ORIGIN_TIME. -/
def recTime (r : Bytes) : Nat := rdLe r 8 8
/-- SEQ. -/
def recSeq (r : Bytes) : Nat := rdLe r 16 4
/-- RANK. -/
def recRank (r : Bytes) : Nat := rdLe r 20 2 % 2 ^ 14
/-- Payload. -/
def recPayload (r : Bytes) : Bytes := r.drop 32

/-- Significant bits of a key of a KEY_FMT. -/
def keyBits (kf : Nat) : Nat := match kf with | 0 => 64 | 1 => 64 | 2 => 32 | _ => 16

/-- Unused bits of a key are zero. -/
def keyOk (kf key : Nat) : Bool := decide (key < 2 ^ keyBits kf)

/-- A record keeps its reserved bits zero. -/
def recordOk (kf : Nat) (r : Bytes) : Bool := keyOk kf (recKey r) && bits (rdLe r 20 2) 15 14 == 0 && rdLe r 22 10 == 0

/-- Element format of a floating key. -/
def keyElem (kf : Nat) : Nat := match kf with | 2 => 2 | 3 => 0 | _ => 1

/-- Whether a key is a NaN. -/
def keyNan (kf key : Nat) : Bool := decide (2 ≤ kf) && (decodeElem (keyElem kf) key).isNan

/-- A key's place in the order of R176: equal exactly for keys that the order calls equal. -/
def keyRank (kf key : Nat) : Int :=
  match kf with
  | 0 => (key : Int)
  | 1 => sgn 64 key
  | _ =>
    let w := keyBits kf
    let m := key % 2 ^ (w - 1)
    if keyNan kf key then ((2 ^ 40 : Nat) : Int) else if bit key (w - 1) then -(m : Int) - 1 else (m : Int)

/-- Strict lexicographic order. -/
def lexLt : List Int → List Int → Bool
  | _, [] => false
  | [], _ :: _ => true
  | a :: l, b :: m => decide (a < b) || (decide (a = b) && lexLt l m)

/-- Insert behind every record that does not come after it. -/
def insertRec (key : Bytes → List Int) (x : Bytes) : List Bytes → List Bytes
  | [] => [x]
  | y :: l => if lexLt (key x) (key y) then x :: y :: l else y :: insertRec key x l

/-- Sort records; records that the order calls equal keep their order of reading. -/
def sortRecs (key : Bytes → List Int) (l : List Bytes) : List Bytes := l.foldl (fun a x => insertRec key x a) []

/-- Payload bytes as the last key of an order. -/
def payloadKey (r : Bytes) : List Int := (recPayload r).map fun b => (b.toNat : Int)

/-- RANK, SEQ, payload. -/
def sourceKey (r : Bytes) : List Int := (recRank r : Int) :: (recSeq r : Int) :: payloadKey r

/-- Order of SSORT: key, RANK, SEQ, payload; or ORIGIN_TIME first (R177, R179). -/
def sortKey (kf order : Nat) (r : Bytes) : List Int :=
  (if order = 2 then (recTime r : Int) else if order = 1 then -(keyRank kf (recKey r)) else keyRank kf (recKey r)) :: sourceKey r

/-- Order of SGATHER and SFILTER: RANK, SEQ, payload; or ORIGIN_TIME first. -/
def gatherKey (order : Nat) (r : Bytes) : List Int := if order = 2 then (recTime r : Int) :: sourceKey r else sourceKey r

/-- KEY OP REF: 0 EQ, 1 NE, 2 LT, 3 LE, 4 GT, 5 GE; a NaN key passes only NE. -/
def keyTest (kf op ref key : Nat) : Bool :=
  let a := keyRank kf key
  let b := keyRank kf ref
  if keyNan kf key then op == 1
  else
    match op with
    | 0 => decide (a = b) | 1 => decide (a ≠ b) | 2 => decide (a < b) | 3 => decide (a ≤ b) | 4 => decide (b < a)
    | _ => decide (b ≤ a)

/-- The record with the least (or greatest) key; ties go to the lowest (RANK, SEQ). -/
def bestRec (kf : Nat) (greatest : Bool) (l : List Bytes) : Option Bytes :=
  (sortRecs (fun r => [if greatest then -(keyRank kf (recKey r)) else keyRank kf (recKey r), (recRank r : Int), (recSeq r : Int)]) l).head?

/-- Cut bytes into parts of `w`. -/
def cutEvery (w : Nat) : Nat → Bytes → List Bytes
  | 0, _ => []
  | n + 1, b => b.take w :: cutEvery w n (b.drop w)

end Sys2Proof.Machine
end

