-- ==== Sys2Proof/Machine/Collect.lean ====
section
/-! DEFINITION. Collective groups: entries, trees, messages, sending, aborts (R182-R192, R199-R205; log entry 32). -/

namespace Sys2Proof.Machine

/-- KCLK in a microsecond. -/
def kclkPerUs : Nat := 250

/-! Trees (R186). Nodes are z[13:10], y[9:5], x[4:0]. -/

/-- x of a node. -/
def nodeX (n : Nat) : Nat := bits n 4 0
/-- y of a node. -/
def nodeY (n : Nat) : Nat := bits n 9 5
/-- z of a node. -/
def nodeZ (n : Nat) : Nat := bits n 13 10
/-- Node at coordinates. -/
def nodeAt (x y z : Nat) : Nat := x + y <<< 5 + z <<< 10

/-- The next package on the path of Table 8-4; the root itself at the root. -/
def treeNext (root n : Nat) : Nat :=
  if nodeZ n ≠ nodeZ root then nodeAt (nodeX n) (nodeY n) (nodeZ root)
  else if nodeY n ≠ nodeY root then nodeAt (nodeX n) (nodeY root) (nodeZ root)
  else root

/-- Add a node to a list once. -/
def addOnce (n : Nat) (l : List Nat) : List Nat := if l.contains n then l else l ++ [n]

/-- Node of the root of a group. -/
def Group.rootNode (g : Group) : Nat := (nth g.members g.root ⟨0, 0, 0⟩).node

/-- Every package of a group's tree. -/
def Group.treeNodes (g : Group) : List Nat :=
  g.members.foldl (fun l m =>
    let a := treeNext g.rootNode m.node
    let b := treeNext g.rootNode a
    addOnce g.rootNode (addOnce b (addOnce a (addOnce m.node l)))) []

/-- Packages whose partials a package receives. -/
def Group.children (g : Group) (n : Nat) : List Nat :=
  g.treeNodes.filter fun k => k != n && k != g.rootNode && treeNext g.rootNode k == n

/-- A package is a reduction point: it receives partials, or is the root. -/
def Group.reduces (g : Group) (n : Nat) : Bool := n == g.rootNode || !(g.children n).isEmpty

/-- Ranks on a package, ascending. -/
def Group.ranksOn (g : Group) (n : Nat) : List Nat :=
  (List.range g.members.length).filter fun r => (nth g.members r ⟨0, 0, 0⟩).node == n

/-- Packages at or below a package in the tree: those whose path passes it. -/
def Group.below (g : Group) (n : Nat) : List Nat :=
  g.treeNodes.filter fun k =>
    let a := treeNext g.rootNode k
    k == n || a == n || treeNext g.rootNode a == n

/-- Lowest rank on a package or below it. -/
def Group.lowestRank (g : Group) (n : Nat) : Option Nat :=
  ((List.range g.members.length).filter fun r => (g.below n).contains (nth g.members r ⟨0, 0, 0⟩).node).head?

/-! Entries. -/

/-- An entry is valid. -/
def State.groupOn (s : State) (e : Nat) : Bool := s.fld (Reg.colGrpCfg e) 0 0 == 1

/-- EPOCH of an entry. -/
def State.groupEpoch (s : State) (e : Nat) : Nat := s.fld (Reg.colGrpState e) 15 0

/-- The valid entry of a tag: the lowest. -/
def State.tagEntry (s : State) (tag : Nat) : Option Nat :=
  (s.groups.find? fun x => s.groupOn x.1 && x.2.tag == tag).map (·.1)

/-- The rank of an endpoint tile of this package in a group. -/
def State.rankOf (s : State) (g : Group) (tile : Nat) : Option Nat :=
  (g.ranksOn s.node).find? fun r => (nth g.members r ⟨0, 0, 0⟩).tile == tile

/-- An instance of an entry. -/
def Group.inst (g : Group) (seq : Nat) : Option Inst := g.insts.find? (·.seq == seq)

/-- Replace an instance. -/
def Group.withInst (g : Group) (x : Inst) : Group := { g with insts := g.insts.map fun y => if y.seq = x.seq then x else y }

/-- Change an instance of an entry. -/
def State.modInst (s : State) (e seq : Nat) (f : Inst → Inst) : State :=
  s.modGroup e fun g => { g with insts := g.insts.map fun y => if y.seq = seq then f y else y }

/-- Change a member's part. -/
def Inst.modMember (x : Inst) (tile : Nat) (f : ColMember → ColMember) : Inst :=
  { x with members := x.members.map fun m => if m.tile = tile then f m else m }

/-- A new instance. -/
def Inst.fresh (seq op param now : Nat) : Inst :=
  ⟨seq, op, param, [], [], [], false, false, now, 0, [], [], 0⟩

/-! Messages (Table 8-10). -/

/-- TAG. -/
def cmTag (p : Bytes) : Nat := rdLe p 0 4
/-- EPOCH. -/
def cmEpoch (p : Bytes) : Nat := rdLe p 4 2
/-- KIND. -/
def cmKind (p : Bytes) : Nat := rdLe p 6 1
/-- OPCODE. -/
def cmOp (p : Bytes) : Nat := rdLe p 7 1
/-- SEQ. -/
def cmSeq (p : Bytes) : Nat := rdLe p 8 4
/-- SRC. -/
def cmSrc (p : Bytes) : Nat := rdLe p 12 2
/-- STATUS. -/
def cmStatus (p : Bytes) : Nat := rdLe p 14 2
/-- OFFSET. -/
def cmOffset (p : Bytes) : Nat := rdLe p 16 8
/-- COUNT. -/
def cmCount (p : Bytes) : Nat := rdLe p 24 4
/-- PARAM. -/
def cmParam (p : Bytes) : Nat := rdLe p 28 4

/-- Bytes of a message. -/
def colBytes (tag epoch kind op seq src status offset count param : Nat) (data : Bytes) : Bytes :=
  natLe 4 tag ++ natLe 2 epoch ++ natLe 1 kind ++ natLe 1 op ++ natLe 4 seq ++ natLe 2 src ++ natLe 2 status ++ natLe 8 offset ++
    natLe 4 count ++ natLe 4 param ++ data

/-- A message frame of an entry from this package. `flow` is the endpoint tile of a message to one endpoint, or the multicast
label. -/
def State.colFrame (s : State) (e : Nat) (x : Inst) (kind src dest flow status offset count : Nat) (data : Bytes) : Frame :=
  let g := s.group e
  { kind := 3, cls := g.cls, vc := 0, dest := dest, src := s.node, flow := flow, unord := false, ce := false, ece := false,
    origin := s.now,
    payload := colBytes g.tag (s.groupEpoch e) kind x.opcode x.seq src status offset count x.param data }

/-- Where an entry's messages leave from: the block of its first reducer. -/
def State.groupStop (s : State) (e : Nat) : Nat := tileBlock (s.group e).redBase

/-- The KCLK at which the sender's watchdog of a message's instance expires (R200, R204). -/
def State.keptUntil (s : State) (e : Nat) (f : Frame) : Nat :=
  let g := s.group e
  (match g.inst (cmSeq f.payload) with | some x => x.startedAt | none => s.clk.kclk) + g.timeout * kclkPerUs

/-- Send a message and keep it against a refusal until a KCLK; the messages whose time has passed are dropped (R204). -/
def State.colSendTill (s : State) (e till : Nat) (f : Frame) : State :=
  (s.sendFrame (s.groupStop e) (s.group e).redBase f).modGroup e fun g =>
    { g with sent := (g.sent.filter fun x => decide (s.clk.kclk < x.1)) ++ [(till, f)] }

/-- Send a message of an entry now. -/
def State.colSend (s : State) (e : Nat) (f : Frame) : State := s.colSendTill e (s.keptUntil e f) f

/-! Credit (R187; log entry 75). An input of a stage is a local rank, key 2 × rank + 1, or a child package, key 2 × node. -/

/-- Inputs of the stage at a node. -/
def Group.stageInputs (g : Group) (n : Nat) : Nat := (g.ranksOn n).length + (g.children n).length

/-- The equal share of a stage's reducer buffer that the input of a key holds: a local rank's of this package's buffer, a partial's of
the parent's. A stage without reducer tiles has no buffer and bounds nothing. -/
def State.share (s : State) (g : Group) (key : Nat) : Option Nat :=
  if key % 2 = 1 then if g.redCount = 0 then none else some (g.redCount * g.buf4k * 4096 / max 1 (g.stageInputs s.node))
  else some (Config.stageBuffer (key / 2) / max 1 (g.stageInputs (key / 2)))

/-- Unacknowledged payload bytes that a sender holds, over every instance of the entry. -/
def Group.heldBy (g : Group) (key : Nat) : Nat := g.insts.foldl (fun a x => a + mapGet 0 key x.unacked) 0

/-- Whether a payload of `n` bytes fits the share beside what the sender holds. -/
def State.fits (s : State) (g : Group) (key n : Nat) : Bool :=
  match s.share g key with
  | none => true
  | some k => decide (g.heldBy key + n ≤ k)

/-- Send a message within its share, or queue it. -/
def State.colOffer (s : State) (e seq key : Nat) (f : Frame) : State :=
  match (s.group e).inst seq with
  | none => s
  | some x =>
    let n := f.payload.length - 32
    if x.outbox.any (·.1 == key) ∨ ¬ s.fits (s.group e) key n then
      s.modInst e seq fun x => { x with outbox := x.outbox ++ [(key, f)] }
    else (s.modInst e seq fun x => { x with unacked := mapPut 0 key (mapGet 0 key x.unacked + n) x.unacked }).colSend e f

/-- Send what the credit of a key now lets through of an instance: at most as many as wait. -/
def State.colDrain (s : State) (e seq key : Nat) : Nat → State
  | 0 => s
  | n + 1 =>
    match (s.group e).inst seq with
    | none => s
    | some x =>
      match x.outbox.find? (·.1 == key) with
      | none => s
      | some q =>
        let len := q.2.payload.length - 32
        if ¬ s.fits (s.group e) key len then s
        else
          ((s.modInst e seq fun x => { x with outbox := x.outbox.erase q, unacked := mapPut 0 key (mapGet 0 key x.unacked + len) x.unacked }).colSend
            e q.2).colDrain e seq key n

/-- Every instance of an entry sends what its credit now lets through. -/
def State.colDrainAll (s : State) (e : Nat) : State :=
  forEach (s.group e).insts (fun x s => forEach (x.outbox.map (·.1)).dedup (fun k s => s.colDrain e x.seq k x.outbox.length) s) s

/-- Largest payload of a message of `unit`-byte parts under a key. -/
def State.chunkOf (s : State) (g : Group) (key unit : Nat) : Nat := max unit (min 4096 ((s.share g key).getD 4096) / unit * unit)

/-- Cut bytes into parts: (byte offset, part). -/
def cutBytes (size : Nat) : Nat → Nat → Bytes → List (Nat × Bytes)
  | 0, _, _ => []
  | fuel + 1, off, b => if b.isEmpty then [] else (off, b.take size) :: cutBytes size fuel (off + size) (b.drop size)

/-- Send a partial of `unit`-byte parts to the parent, in messages within the share: OFFSET and COUNT in parts (R187). -/
def State.offerUp (s : State) (e : Nat) (x : Inst) (unit lo : Nat) (data : Bytes) : State :=
  let g := s.group e
  let p := treeNext g.rootNode s.node
  let size := s.chunkOf g (2 * p) unit
  forEach (cutBytes size (data.length / size + 1) 0 data)
    (fun y s => s.colOffer e x.seq (2 * p) (s.colFrame e x 2 s.node p g.redBase 0 (lo + y.1 / unit) (y.2.length / unit) y.2)) s

/-- Grant credit to an input: COUNT bytes, OFFSET the rank of a local member (R187). -/
def State.colGrant (s : State) (e : Nat) (x : Inst) (i : ColIn) (n : Nat) : State :=
  if n = 0 then s
  else if i.kind = 1 then s.colSend e (s.colFrame e x 4 s.node s.node (nth (s.group e).members i.src ⟨0, 0, 0⟩).tile 0 i.src n [])
  else s.colSend e (s.colFrame e x 4 s.node i.src (s.group e).redBase 0 (2 ^ 14) n [])

/-! Results (R189). -/

/-- Nodes of a tree along the x ring of the root, or along the y ring of a column. -/
def ringFrames (self : Nat) (pos : Nat → Nat) (size : Nat) (open_ : Bool) (l : List Nat) : List (Nat × Nat) :=
  let away (n : Nat) : Nat := (pos n + size - pos self) % size
  let far (m : List Nat) (d : Nat → Nat) : Option Nat := m.foldl (fun b n => match b with
    | none => some n
    | some k => if d k < d n then some n else some k) none
  let one (o : Option Nat) (dir : Nat) : List (Nat × Nat) := match o with | some n => [(n, 0xF0000 + dir <<< 15)] | none => []
  if open_ then
    one (far (l.filter fun n => decide (pos self < pos n)) pos) 0 ++
      one (far (l.filter fun n => decide (pos n < pos self)) fun n => size - pos n) 1
  else one (far l away) 0

/-- Destinations and flow labels of the copies that a package sends down the tree. -/
def State.downCopies (s : State) (g : Group) : List (Nat × Nat) :=
  let me := s.node
  let r := g.rootNode
  let w := rdLe s.commit.pkg 0 4
  let open_ := w % 4 == 2
  let nodes := g.treeNodes.filter (· != me)
  let row := if me = r then nodes.filter fun n => nodeY n == nodeY r && nodeZ n == nodeZ r else []
  let col := if nodeY me = nodeY r ∧ nodeZ me = nodeZ r then
      nodes.filter fun n => nodeX n == nodeX me && nodeZ n == nodeZ r && nodeY n != nodeY me else []
  let deep := if nodeZ me = nodeZ r then nodes.filter fun n => nodeX n == nodeX me && nodeY n == nodeY me && nodeZ n != nodeZ r else []
  ringFrames me nodeX (bits w 6 2 + 1) open_ row ++ ringFrames me nodeY (bits w 11 7 + 1) open_ col ++ deep.map fun n => (n, g.redBase)

/-- Send a message of a kind down the tree. -/
def State.sendDown (s : State) (e seq kind status offset count : Nat) (data : Bytes) : State :=
  match (s.group e).inst seq with
  | none => s
  | some x => forEach (s.downCopies (s.group e)) (fun c s => s.colSend e (s.colFrame e x kind s.node c.1 c.2 status offset count data)) s

/-! Ends. -/

/-- Instances in flight at this package: issued by a local member, or at a package without members (R192). -/
def State.inflight (s : State) (e : Nat) : List Inst :=
  let g := s.group e
  if (g.ranksOn s.node).isEmpty then g.insts else g.insts.filter fun x => !x.members.isEmpty

/-- INFLIGHT of an entry. -/
def State.showInflight (s : State) (e : Nat) : State := s.withFld (Reg.colGrpState e) 52 50 (min 7 (s.inflight e).length)

/-- An instance ends here, with the cause of its abort or 0; what it held of the senders' shares is free. -/
def State.endInst (s : State) (e seq cause : Nat) : State :=
  ((s.modGroup e fun g => { g with insts := g.insts.filter (·.seq != seq), ended := (seq, cause) :: g.ended }).showInflight e).colDrainAll e

/-- Each 64 B of an aborted destination holds its prior contents or its final value (R202): a free bit chooses for each block of which
every byte has come. `l` is cut at 64 B boundaries, and `size` is the length of D. -/
def keepFree (free : Nat → Word) (base size : Nat) (l : List (Nat × Bytes)) : List Nat → List (Nat × Bytes)
  | [] => []
  | b :: bs =>
    let mine := l.filter fun x => x.1 / 64 == b
    let rest := keepFree free (base + 1) size l bs
    if (free base).getLsbD 0 ∧ min 64 (size - 64 * b) ≤ mine.foldl (fun n x => n + x.2.length) 0 then mine ++ rest else rest

/-- The 64 B blocks that cut outputs fall on. -/
def touched64 (l : List (Nat × Bytes)) : List Nat := (l.map (·.1 / 64)).dedup

/-- Split received outputs at 64 B boundaries of D. -/
def split64 (g : List (Nat × Bytes)) : List (Nat × Bytes) :=
  g.flatMap fun x =>
    let head := x.2.take (64 - x.1 % 64)
    (x.1, head) :: cutBytes 64 (x.2.length / 64 + 1) (x.1 + head.length) (x.2.drop head.length)

/-- Bytes of one element of a member's D (R194). -/
def colDestBytes (d : Bytes) : Nat := if dOp d ≤ 0x81 then destBits (dImmBits d 25 22) / 8 else elemBits (opD d).elem / 8

/-- Ranges of `n` rows of an operand whose rows hold `rb` bytes. -/
def Opnd.rowsOf (o : Opnd) (a : Int) (rb n : Nat) : List (Int × Nat) :=
  (List.range n).map fun r => (a + ((r * (if o.stride = 0 then rb else o.stride) : Nat) : Int), rb)

/-- Row ranges of D under the element size that the operation gives. -/
def colRows (s : State) (t c : Nat) (d : Bytes) : List (Int × Nat) :=
  let o := opD d
  let rb := if dOp d ≤ 0x81 then o.cols * colDestBytes d
    else if dOp d = 0x87 ∨ dOp d = 0x88 then recordBytes (dImmBits d 31 28) else o.rowBytes
  let st := if o.stride = 0 then rb else o.stride
  let a := o.addr (s.ctx t c).args [0, 0, 0, 0, 0, 0]
  let rows := o.rowsOf a rb o.rows
  if dOp d = 0x87 ∨ dOp d = 0x88 then rows ++ [(a + (((o.rows - 1) * st + rb : Nat) : Int), 32)] else rows

/-- The part of D that bytes at an offset fall on, row by row. -/
def placeRows : List (Int × Nat) → Nat → Bytes → List (Int × Bytes)
  | [], _, _ => []
  | r :: rs, off, b =>
    if b.isEmpty then []
    else if r.2 ≤ off then placeRows rs (off - r.2) b
    else (r.1 + (off : Int), b.take (r.2 - off)) :: placeRows rs 0 (b.drop (r.2 - off))

/-- A run that stands for a member's descriptor. -/
def State.memberRun (s : State) (m : ColMember) : Run :=
  let t := s.phys m.tile
  ⟨t, t, m.ctx, m.tile, s.tileOwner m.tile, m.desc, 0, [0, 0, 0, 0, 0, 0], (s.ctx t m.ctx).args, 0, false, false⟩

/-- Write outputs to a member's D. -/
def State.writeGot (s : State) (m : ColMember) (l : List (Nat × Bytes)) : State :=
  let e := s.memberRun m
  let rows := colRows s e.t m.ctx m.desc
  forEach l (fun x s => forEach (placeRows rows x.1 x.2) (fun y s => writeRun e (opD m.desc).space (y.1, y.2.length) y.2 s) s) s

/-- An aborted instance ends at a member: some outputs are written, and its descriptor raises the cause (R202, R151). -/
def State.abortMember (s : State) (cause : Nat) (m : ColMember) : State :=
  if m.done then s
  else
    let l := split64 m.got
    let bs := touched64 l
    let size := (colRows s (s.phys m.tile) m.ctx m.desc).foldl (fun n r => n + r.2) 0
    let s1 := (s.writeGot m (keepFree Config.freeValue s.clk.fresh size l bs)).useFreeN bs.length
    let t := s.phys m.tile
    match (s1.ctx t m.ctx).desc with
    | some d => if d = m.desc then s1.raiseExc t m.ctx ⟨cause, false, [], 0⟩ false else s1
    | none => s1

/-- Record an abort in COL_GRP_ABORT (R202). -/
def State.recordAbort (s : State) (e seq cause : Nat) (rank : Option Nat) : State :=
  s.withReg (Reg.colGrpAbort e)
    (BitVec.ofNat 64 (rank.getD 0 + cause <<< 14 + seq <<< 22 + b2n (rank.isSome && (cause == 0x51 || cause == 0x52)) <<< 54))

/-- Abort an instance here: members, record, count, messages to the parent and the children, or from the root down the tree. -/
def State.abortInst (s : State) (e seq cause : Nat) (rank : Option Nat) : State :=
  match (s.group e).inst seq with
  | none => s
  | some x =>
    let g := s.group e
    let up := if s.node = g.rootNode then s.sendDown e seq 5 cause 0 0 []
      else
        forEach (treeNext g.rootNode s.node :: g.children s.node)
          (fun n s => s.colSend e (s.colFrame e x 5 s.node n g.redBase cause 0 0 [])) s
    -- a context that has gone on to a later instance is not this instance's any more
    let mine := x.members.filter fun m => !g.insts.any fun y => decide (seq < y.seq) && y.members.any fun k => k.tile == m.tile && k.ctx == m.ctx
    let s1 := forEach mine (fun m s => s.abortMember cause m) up
    ((s1.recordAbort e seq cause rank).bump (Reg.colGrpAbortCnt e)).endInst e seq cause

/-- Abort every instance of an entry. -/
def State.abortAll (s : State) (e cause : Nat) : State := forEach ((s.group e).insts.map (·.seq)) (fun q s => s.abortInst e q cause none) s

/-- Every instance that uses a reducer tile aborts (R203): of every entry that names the tile, those whose data pass its stage. BARRIER,
ALLTOALL and ALLTOALLV send none there. -/
def State.reducerLost (s : State) (l : Nat) : State :=
  forEach (List.range 256) (fun e s =>
    let g := s.group e
    if s.groupOn e && decide (g.redBase ≤ l) && decide (l < g.redBase + g.redCount) then
      forEach ((g.insts.filter fun x => x.opcode < 0x84 || 0x87 ≤ x.opcode).map (·.seq)) (fun q s => s.abortInst e q 0x55 none) s
    else s) s

end Sys2Proof.Machine
end

