-- ==== Sys2Proof/Machine/Retire.lean ====
section
/-! DEFINITION. Retirement of tiles (R171, R203, R339, R343) and the upsets that a step meets. -/

namespace Sys2Proof.Machine

/-- A tile is retired: TIL_ID.STATE, the record with the spare offered, its gang stops; an idle spare is SPARE_LOST. -/
def State.retireTile (s : State) (t cause detail : Nat) : State :=
  let l := s.logicalOf t
  let was := (s.tile t).idState
  let s1 := s.modTile t fun x => { x with idState := 3, lost := true, slots := [] }
  if was = 3 then s
  else if was = 2 then s1.raiseFault (Unit6.ofTile (segFirst t)) 0x0D 1 true 15 0
  else (((s1.raiseFault (Unit6.ofTile l) cause 2 true (s.spareOf t) detail).gangLost l).endAll t).reducerLost l

/-- A 64-bit word of a logical tile's memory as a unit (Table 1-3): slice, and its word index in the slice's bank. -/
def Unit6.ofWord (l a : Nat) : Unit6 := { Unit6.ofTile l with level := 0, slice := memSlice a, cell := 0x400 + a % 24576 / 8 }

/-- An uncorrectable word of a tile's storage in slice `b`, which the unit `u` names: the record, and retirement on the second within 1 s
(R339). -/
def State.sliceFault (s : State) (t b : Nat) (u : Unit6) : State :=
  let last := mapGet 0 b (s.tile t).sliceEvt
  let s1 := (s.modTile t fun x => { x with sliceEvt := mapPut 0 b (s.clk.kclk + 1) x.sliceEvt }).raiseFault u 0x01 1 false 15 0
  if last ≠ 0 ∧ s.clk.kclk < last - 1 + 250000000 then s1.retireTile t 0x02 0x01 else s1

/-- A residue mismatch sets RESIDUE_RETRY and is counted (R170); the second within 1 ms, the repeat's own included, retires the tile (R171).
Whether the add goes on. -/
def State.residue (s : State) (t : Nat) : Nat → State × Bool
  | 0 => (s, true)
  | n + 1 =>
    let s1 := (s.modTile t fun x => { x.accFlag aRetry with residueAt := some s.clk.kclk }).tileCount t 0x10 1
    if (s.tile t).residueAt.any fun w => s.clk.kclk < w + 250000 then (s1.retireTile t 0x03 0, false) else s1.residue t n

/-- What a step's upset does to the storage of tile `t` or to HBM (R117, R172, R327, R339). The record of a tile-memory word names the word
(R15, R341); a word of the operand cache or of a slot has no address, and its record names the tile. Which slice counts an event of the
operand cache or of a slot is the model's choice (DESIGN CHOICE, log entry 63). -/
def State.upset (s : State) (t : Nat) (u : Upset) : State :=
  match u with
  | .none => s
  | .corrected => (s.eccCorrected (t / 2304)).tileCount t 0x18 1
  | .correctedSlot => (s.eccCorrected (t / 2304)).tileCount t 0x11 1
  | .correctedHbm k => (s.bump (memReg k Reg.memEccCorrCnt)).eccCorrected (stackDie k)
  | .tileMem a => (s.modTile t fun x => { x with memBad := x.memBad ++ [a / 8] }).sliceFault t (memSlice a) (Unit6.ofWord (s.logicalOf t) a)
  | .cache b => (s.modTile t fun x => { x with ocBad := x.ocBad ++ [b] }).sliceFault t (b % 32768 / 2048) (Unit6.ofTile (s.logicalOf t))
  | .hbm a => s.hbmBreak (devStack a) (devOff a / 64)
  | .residue _ => s
  | .accSlot l => (s.poisonSlot t l).sliceFault t l (Unit6.ofTile (s.logicalOf t))

end Sys2Proof.Machine
end

