-- ==== Sys2Proof/Machine/Stage.lean ====
section
/-! DEFINITION. The stage of a collective instance: issue, contributions, inputs, windows, results, phases (R187-R198; log
entry 32). -/

namespace Sys2Proof.Machine

/-! Parameters of a member's descriptor. -/

/-- Whether an opcode sums. -/
def colSums (op : Nat) : Bool := op == 0x80 || op == 0x81
/-- Whether an opcode copies up the tree and down again. -/
def colCopies (op : Nat) : Bool := op == 0x82 || op == 0x83
/-- Whether an opcode goes straight from source to destination. -/
def colDirect (op : Nat) : Bool := op == 0x85 || op == 0x86
/-- Whether an opcode merges records. -/
def colMerges (op : Nat) : Bool := op == 0x87 || op == 0x88
/-- Whether an opcode forms parity. -/
def colParity (op : Nat) : Bool := op == 0x89 || op == 0x8A

/-- RANK of BCAST, SORTMERGE and FILTCOMP. -/
def dRank (d : Bytes) : Nat := dImmBits d 21 8
/-- ALL of SORTMERGE and FILTCOMP. -/
def dAll (d : Bytes) : Bool := dSubop d == 1
/-- PLEN of SORTMERGE and FILTCOMP. -/
def dColPlen (d : Bytes) : Nat := dImmBits d 31 28
/-- KEY_FMT of SORTMERGE and FILTCOMP. -/
def dColKey (d : Bytes) : Nat := dImmBits d 24 22
/-- Bytes of a shard. -/
def shardBytes (d : Bytes) : Nat := if (opA d).space = 0 then (opD d).bytes else (opA d).bytes

/-- Parameters and tied sizes of R192. -/
def colParams (d : Bytes) : List Nat :=
  let op := dOp d
  let tied : List Nat :=
    if colSums op ∨ op = 0x85 then [(opA d).count]
    else if op = 0x82 then [(opA d).count, (opA d).fmt]
    else if op = 0x83 then (if (opA d).space = 0 then [(opD d).count, (opD d).fmt] else [(opA d).count, (opA d).fmt])
    else if colMerges op then (if dAll d then [(opD d).rows] else [])
    else if colParity op then [shardBytes d]
    else []
  [op, dImm d / 256, dSubop d, if op = 0x88 then dWord d 6 else 0] ++ tied

/-- PARAM of an instance: the digest of its parameters. -/
def colParam (d : Bytes) : Nat := (Config.colDigest (colParams d)).toNat

/-- The parity coefficients of rank `r` for the outputs of PARENC or PARREB: (destination rank, coefficient), R197, R198. -/
def parityRows (d : Bytes) (n r : Nat) : List (Nat × Nat) :=
  let k := n - 2
  let g (i : Nat) : Nat := gfPow 2 i
  if dOp d = 0x89 then [(k, 1), (k + 1, g r)]
  else
    let x := dImmBits d 15 8
    let y := dImmBits d 23 16
    -- a lost data shard beside a lost parity is rebuilt from the other parity
    let one (z other : Nat) : Nat :=
      if z = k then (if r < k then 1 else 0)
      else if z = k + 1 then (if r < k then g r else 0)
      else if other < k then
        let dl := gfInv (g z ^^^ g other)
        if r < k then gfMul (g r ^^^ g other) dl else if r = k then gfMul (g other) dl else dl
      else if other = k then
        -- from Q
        let v := gfInv (g z)
        if r < k then gfMul (g r) v else if r = k + 1 then v else 0
      else (if r < k ∨ r = k then 1 else 0)
    -- a lost parity is re-encoded from every data shard, the rebuilt one included
    let enc (z : Nat) (c : Nat → Nat) (lost : Nat) : Nat :=
      if z < k ∨ k ≤ lost then one z lost else one z lost ^^^ gfMul (if z = k then 1 else g lost) (c lost)
    let c1 := enc x (fun l => one l x) y
    if y = 0xFF then [(x, one x 0xFF)] else [(x, c1), (y, enc y (fun l => one l y) x)]

/-! Delivery to members. -/

/-- Outputs arrive for a member: byte offset in D. -/
def State.deliver (s : State) (e seq tile off : Nat) (data : Bytes) : State :=
  s.modInst e seq fun x => x.modMember tile fun m =>
    if (opD m.desc).space = 0 then m
    else { m with got := m.got ++ [(off, data)], need := m.need.map fun k => k - data.length }

/-- Deliver to one endpoint; outputs for one that has not issued yet wait (R192). -/
def State.deliverOne (s : State) (e seq tile off : Nat) (data : Bytes) : State :=
  match (s.group e).inst seq with
  | none => s
  | some x =>
    if x.members.any (·.tile == tile) then s.deliver e seq tile off data
    else s.modInst e seq fun y => { y with inputs := y.inputs ++ [⟨10, tile, off, data.length, data⟩] }

/-- Deliver to every local member; outputs for a member that has not issued yet wait (R192). -/
def State.deliverAll (s : State) (e seq off : Nat) (data : Bytes) : State :=
  match (s.group e).inst seq with
  | none => s
  | some x =>
    let s1 := if x.members.length < ((s.group e).ranksOn s.node).length then
        s.modInst e seq fun y => { y with inputs := y.inputs ++ [⟨3, 0, off, data.length, data⟩] }
      else s
    forEach x.members (fun m s => s.deliver e seq m.tile off data) s1

/-- Bits of one CHUNK of ALLTOALL: COUNT / N elements (R194). -/
def chunkBits (d : Bytes) (n : Nat) : Nat := (opA d).count / max 1 n * elemBits (opA d).elem

/-- Bits `lo` to `lo + n - 1` of a byte run, from bit 0 of the first byte on. -/
def bitSlice (b : Bytes) (lo n : Nat) : Bytes := natLe (ceilDiv n 8) (leNat (slice b (lo / 8) (ceilDiv (lo % 8 + n) 8)) / 2 ^ (lo % 8) % 2 ^ n)

/-- The byte that outputs received so far leave at an offset. -/
def byteOf (got : List (Nat × Bytes)) (k : Nat) : Nat :=
  got.foldl (fun b x => if x.1 ≤ k ∧ k < x.1 + x.2.length then rdLe x.2 (k - x.1) 1 else b) 0

/-- The bytes of D that take `n` bits of data at bit `lo`: what they share with bits received before is kept (R194). -/
def placeBits (got : List (Nat × Bytes)) (lo n : Nat) (data : Bytes) : Nat × Bytes :=
  let len := ceilDiv (lo % 8 + n) 8
  let new := leNat data % 2 ^ n * 2 ^ (lo % 8)
  let first := byteOf got (lo / 8)
  let last := if len ≤ 1 then 0 else byteOf got (lo / 8 + len - 1) * 2 ^ (8 * (len - 1))
  (lo / 8, natLe len (new ||| first ||| last))

/-- Place of ALLTOALLV's data from rank `r` in a member's D: the sum of the sizes that lower ranks send it (R195). -/
def directBase (r : Nat) (received : List ColIn) : Nat :=
  (received.filter fun i => i.kind == 7 && decide (i.src < r)).foldl (fun a i => a + i.count) 0

/-- Direct data of rank `src` arrive for a member: ALLTOALL's at element src × CHUNK, ALLTOALLV's after those of the lower ranks (R194,
R195). -/
def State.deliverDirect (s : State) (e seq : Nat) (m : ColMember) (i : ColIn) : State :=
  match (s.group e).inst seq with
  | none => s
  | some x =>
    if dOp m.desc = 0x85 then
      let w := chunkBits m.desc (s.group e).members.length
      let n := min (8 * i.data.length) (w - 8 * i.offset)
      s.modInst e seq fun x => x.modMember m.tile fun k =>
        { k with got := k.got ++ [placeBits k.got (i.src * w + 8 * i.offset) n i.data], need := k.need.map fun z => z - i.data.length }
    else s.deliver e seq m.tile (directBase i.src (x.inputs.filter fun y => y.offset == m.rank) + i.offset) i.data

/-- Outputs that waited for a member. -/
def State.deliverWaiting (s : State) (e seq : Nat) (m : ColMember) : State :=
  match (s.group e).inst seq with
  | none => s
  | some x =>
    forEach x.inputs (fun i s =>
      if i.kind = 3 then s.deliver e seq m.tile i.offset i.data
      else if i.kind = 9 ∧ i.count = m.tile then s.deliverDirect e seq m i
      else if i.kind = 10 ∧ i.src = m.tile then s.deliver e seq m.tile i.offset i.data
      else s) s

/-- Bytes of D that a member expects; none until a count or size phase tells. -/
def needOf (d : Bytes) (r n : Nat) : Option Nat :=
  let o := opD d
  if o.space = 0 then some 0
  else if colSums (dOp d) then some (o.count * colDestBytes d)
  else if dOp d = 0x85 then some (n * ceilDiv (chunkBits d n) 8)
  else if dOp d = 0x86 ∨ colMerges (dOp d) then none
  else if dOp d = 0x83 ∧ dRank d = r then some o.bytes
  else some (if n = 0 then 0 else o.bytes)

/-- OR read-out flags into RES_FLAGS (R194). -/
def State.resFlags (s : State) (e f : Nat) : State :=
  s.withFld (Reg.colGrpState e) 61 58 (s.fld (Reg.colGrpState e) 61 58 ||| f % 16)

/-! Issue (R192). -/

/-- The instance that an endpoint's next descriptor joins. -/
def Group.nextSeq (g : Group) (tile : Nat) : Nat := mapGet 0 tile g.issued

/-- A collective descriptor can be taken: it does not make a fifth instance (R192). -/
def State.colReady (s : State) (l : Nat) (d : Bytes) : Bool :=
  let e := dImmBits d 7 0
  let g := s.group e
  (s.inflight e).any (·.seq == g.nextSeq l) || decide ((s.inflight e).length < 4)

/-- A collective descriptor issues: it joins its instance; a difference of parameters aborts the instance, and one that has
aborted here ends the descriptor with the recorded cause (R192, R202, log entry 32). -/
def State.colJoin (s : State) (t c l : Nat) (d : Bytes) : State :=
  let e := dImmBits d 7 0
  let g := s.group e
  let q := g.nextSeq l
  let r := (s.rankOf g l).getD 0
  let m : ColMember := ⟨r, l, c, d, [], [], false, false, [], needOf d r g.members.length⟩
  let s1 := s.withGroup e { g with issued := mapPut 0 l (q + 1) g.issued }
  let s2 := s1.withFld (Reg.colGrpState e) 47 16 (max (s.fld (Reg.colGrpState e) 47 16) ((q + 1) % 2 ^ 32))
  match g.ended.find? (·.1 == q) with
  | some z => s2.raiseExc t c ⟨z.2, true, [], 0⟩ false
  | none =>
    match g.inst q with
    | none =>
      (s2.modGroup e fun g => { g with insts := g.insts ++ [{ Inst.fresh q (dOp d) (colParam d) s.clk.kclk with members := [m] }] }).showInflight e
    | some x =>
      let from_ := if x.members.isEmpty then s.clk.kclk else x.startedAt
      let s3 := (s2.modInst e q fun y => { y with members := y.members ++ [m], startedAt := from_ }).showInflight e
      if x.opcode ≠ dOp d ∨ x.param ≠ colParam d then s3.abortInst e q 0x53 none else s3.deliverWaiting e q m

/-! What members send. -/

/-- Send parts of a run to the member's own stage: contribution messages of `unit`-byte parts; OFFSET and COUNT in parts. -/
def State.contribute (s : State) (e : Nat) (x : Inst) (m : ColMember) (unit base : Nat) (data : Bytes) : State :=
  let size := s.chunkOf (s.group e) (2 * m.rank + 1) unit
  forEach (cutBytes size (data.length / size + 1) 0 data)
    (fun p s => s.colOffer e x.seq (2 * m.rank + 1)
      (s.colFrame e x 1 m.rank s.node m.tile 0 (base + p.1 / unit) (p.2.length / unit) p.2)) s

/-- Send bytes straight to the endpoint of rank `j` (R194, R195). -/
def State.sendTo (s : State) (e : Nat) (x : Inst) (m : ColMember) (j : Nat) (data : Bytes) : State :=
  let dst := nth (s.group e).members j ⟨0, 0, 0⟩
  forEach (cutBytes 4096 (data.length / 4096 + 1) 0 data)
    (fun p s => s.colSend e (s.colFrame e x 1 m.rank dst.node dst.tile 0 p.1 p.2.length p.2)) s

/-- The member's part is accepted, or it sends nothing. -/
def State.accept (s : State) (e seq tile : Nat) : State := s.modInst e seq fun x => x.modMember tile fun m => { m with accepted := true }

/-- Sum of the first `j` sizes. -/
def sizePrefix (l : List Nat) (j : Nat) : Nat := (l.take j).foldl (· + ·) 0

/-- Records of a byte run. -/
def cutRecords (plen : Nat) (b : Bytes) : List Bytes := (cutBytes (recordBytes plen) (b.length / recordBytes plen + 1) 0 b).map (·.2)

/-- Records that a member brings: filtered at its own stage for FILTCOMP (R196). -/
def memberRecords (d : Bytes) (b : Bytes) : List Bytes :=
  let l := cutRecords (dColPlen d) b
  if dOp d = 0x88 then l.filter fun r => keyTest (dColKey d) (dImmBits d 27 25) (dWord d 6) (recKey r) else l

/-- Order of a merge. -/
def mergeKey (d : Bytes) (r : Bytes) : List Int :=
  if dOp d = 0x87 then sortKey (dColKey d) (dImmBits d 25 25) r else sourceKey r

/-- A member's data phase of ALLTOALLV or of a merge, after the release. -/
def State.dataPhase (s : State) (e seq : Nat) (m : ColMember) : State :=
  match (s.group e).inst seq with
  | none => s
  | some x =>
    if x.opcode = 0x86 then
      let n := (s.group e).members.length
      let s1 := forEach (List.range n) (fun j s => s.sendTo e x m j (slice m.data (sizePrefix m.sizes j) (nth m.sizes j 0))) s
      s1.accept e seq m.tile
    else
      let rs := memberRecords m.desc m.data
      if rs.isEmpty then s.accept e seq m.tile else s.contribute e x m (recordBytes (dColPlen m.desc)) 0 rs.flatten

/-! Phases: arrivals go up the tree, the release comes down (R195, R196). -/

/-- Capacity that a member's D gives a merge; 2^32 - 1 where it is no destination. -/
def mergeCap (m : ColMember) : Nat := if dAll m.desc ∨ dRank m.desc = m.rank then (opD m.desc).rows else 2 ^ 32 - 1

/-- The barrier or count phase ends here with an overflow bit, or a total and a capacity. -/
def State.phaseEnd (s : State) (e seq : Nat) (kind count cap : Nat) : State :=
  match (s.group e).inst seq with
  | none => s
  | some x =>
    if x.released then s
    else
      let s1 := (s.sendDown e seq kind 0 0 count (if kind = 7 then natLe 8 cap else [])).modInst e seq fun y =>
        { y with released := true, agreed := count }
      if x.opcode = 0x84 then s1
      else if (kind = 7 ∧ cap < count) ∨ (kind = 8 ∧ count ≠ 0) then s1.abortInst e seq 0x54 none
      else
        let s2 := if kind = 7 then
            s1.modInst e seq fun y => { y with members := y.members.map fun m =>
              if (opD m.desc).space = 0 ∨ (¬ dAll m.desc ∧ dRank m.desc ≠ m.rank) then { m with need := some 0 }
              else
                let rb := recordBytes (dColPlen m.desc)
                { m with need := some (count * rb),
                         got := [(count * rb, zeros (((opD m.desc).rows - count) * rb) ++ natLe 4 count ++ zeros 28)] } }
          else s1
        match (s2.group e).inst seq with
        | none => s2
        | some y => forEach y.members (fun m s => s.dataPhase e seq m) s2

/-- Every arrival of a phase is in: pass it on, or release at the root. Arrivals of local ranks carry OFFSET rank + 1. -/
def State.arrive (s : State) (e seq kind : Nat) : State :=
  match (s.group e).inst seq with
  | none => s
  | some x =>
    let g := s.group e
    let ins := x.inputs.filter (·.kind == kind)
    let all := (g.ranksOn s.node).all (fun r => ins.any fun i => i.offset == r + 1) &&
      (g.children s.node).all fun n => ins.any fun i => i.offset == 0 && i.src == n
    if x.arrived ∨ ¬ all then s
    else
      let total := if kind = 7 then ins.foldl (fun a i => a + i.count) 0 else ins.foldl (fun a i => max a i.count) 0
      let cap := ins.foldl (fun a i => min a (leNat i.data)) (2 ^ 32 - 1)
      let s1 := s.modInst e seq fun y => { y with arrived := true }
      if s.node = g.rootNode then s1.phaseEnd e seq kind total cap
      else s1.colSend e (s.colFrame e x kind s.node (treeNext g.rootNode s.node) g.redBase 0 0 total (if kind = 7 then natLe 8 cap else []))

/-- A member announces itself to its own stage in a phase. -/
def State.announce (s : State) (e seq : Nat) (m : ColMember) (kind count : Nat) : State :=
  match (s.group e).inst seq with
  | none => s
  | some x =>
    s.colSend e (s.colFrame e x kind s.node s.node m.tile 0 (m.rank + 1) count (if kind = 7 then natLe 8 (mergeCap m) else []))

/-! Sums. -/

/-- Bytes of an input's element. -/
def inputUnit (g : Group) (op : Nat) (i : ColIn) : Nat := if colSums op then (if i.kind = 1 ∨ g.partialKind = 0 then 64 else 4) else 1

/-- Element `n` of an input source, if it has arrived. -/
def Inst.part (x : Inst) (g : Group) (kind src n : Nat) : Option Bytes :=
  match x.inputs.find? fun i => i.kind == kind && i.src == src && decide (i.offset ≤ n) && decide (n < i.offset + i.count) with
  | none => none
  | some i => some (slice i.data ((n - i.offset) * inputUnit g x.opcode i) (inputUnit g x.opcode i))

/-- Whether a rank contributes data to an instance: parity takes none from the ranks that receive (R197, R198). -/
def Inst.gives (x : Inst) (n r : Nat) : Bool :=
  match x.members with
  | [] => true
  | m :: _ => !(colParity x.opcode && (parityRows m.desc n 0).any fun o => o.1 == r)

/-- Sources of a stage: local ranks that contribute, and children. -/
def State.sources (s : State) (g : Group) (x : Inst) : List (Nat × Nat) :=
  ((g.ranksOn s.node).filter (x.gives g.members.length)).map (1, ·) ++ (g.children s.node).map (2, ·)

/-- Elements of a sum, bytes of parity or bytes of a copy that an instance has in all: a local member's descriptor tells, or the
parameters that the messages carry (R192). -/
def Inst.total (x : Inst) (n : Nat) : Nat :=
  match x.members with
  | [] => Config.colTerm x.param 0
  | m :: _ =>
    if colSums x.opcode then (opA m.desc).count
    else if colParity x.opcode then (parityRows m.desc n m.rank).length * shardBytes m.desc
    else if x.opcode = 0x82 then n * (opA m.desc).bytes
    else if x.opcode = 0x83 then shardBytes m.desc
    else 0

/-- Indices of a window: 16 elements of a sum, 64 bytes of parity. -/
def Inst.window (x : Inst) (g : Group) (w : Nat) : List Nat :=
  let k := if colSums x.opcode then 16 else 64
  ((List.range k).map (k * w + ·)).filter fun i => decide (i < x.total g.members.length)

/-- A term of an input's element. -/
def partTerm (b : Bytes) : Term := if b.length = 64 then (rawSlot b).term else (termOf (decodeElem 2 (leNat b))).1

/-- Send bytes to rank `j` as a result, or deliver them here. -/
def State.resultTo (s : State) (e : Nat) (x : Inst) (j status off place : Nat) (data : Bytes) (count : Nat) : State :=
  let dst := nth (s.group e).members j ⟨0, 0, 0⟩
  if dst.node = s.node then s.deliverOne e x.seq dst.tile place data
  else s.colSend e (s.colFrame e x 3 s.node dst.node dst.tile status off count data)

/-- Read-out bytes of a summed window go to the members (R189, R194). A reduce-scatter's flags go to every member package, without data. -/
def State.sumResult (s : State) (e : Nat) (x : Inst) (lo db flags : Nat) (data : Bytes) : State :=
  let n := (s.group e).members.length
  let count := data.length / max 1 db
  let s0 := s.resFlags e flags
  if x.opcode = 0x80 then (s0.deliverAll e x.seq (lo * db) data).sendDown e x.seq 3 flags lo count data
  else
    let chunk := x.total n / max 1 n
    let s1 := s0.sendDown e x.seq 3 flags lo count []
    forEach (List.range n) (fun j s =>
      let a := max lo (j * chunk)
      let b := min (lo + count) ((j + 1) * chunk)
      if a < b then s.resultTo e x j flags a ((a - j * chunk) * db) (slice data ((a - lo) * db) ((b - a) * db)) (b - a) else s) s1

/-- Inputs that cover a window return their credit (R187). -/
def State.grantWindow (s : State) (e : Nat) (x : Inst) (g : Group) (idx : List Nat) : State :=
  forEach (s.sources g x) (fun k s =>
    match x.inputs.find? fun i => i.kind == k.1 && i.src == k.2 with
    | none => s
    | some i => s.colGrant e x i (idx.length * inputUnit g x.opcode i)) s

/-- Close a window of a sum: exact sum in the reducer's slots, read out at the root, or a partial for the parent (R187, R188). A poisoned
sum aborts the instance (R203). A residue mismatch is a retry, or retires the reducer and ends the instances that use it (R170, R171). -/
def State.closeSum (s0 : State) (e : Nat) (x : Inst) (w : Nat) (idx : List Nat) (mismatches : Nat) : State :=
  let g := s0.group e
  let red := g.redBase + w % max 1 g.redCount
  let t := s0.phys red
  let checked := s0.residue t mismatches
  let s := checked.1
  if ¬ checked.2 then s else
  let sums : List (Slot × Nat) := idx.map fun i =>
    ((s.sources g x).filterMap fun k => x.part g k.1 k.2 i).foldl
      (fun r b => let a := r.1.add (partTerm b); (a.1, r.2 ||| a.2)) ({ Slot.zero with poison := ((s.tile t).slot (i % 16)).poison }, 0)
  let terms := sums.foldl (fun a r => a + r.1.terms) 0
  let s1 := ((s.modTile t fun y => (y.accFlag (sums.foldl (fun a r => a ||| r.2) 0))).tileCount t 0x0F terms).modInst e x.seq fun y =>
    { y with closed := w :: y.closed }
  let s2 := s1.grantWindow e x g idx
  if sums.any fun r => r.1.poison then
    (s2.modTile t fun y => { y with slots := [] }).abortInst e x.seq 0x58 none
  else
    let lo := idx.headD 0
    if s.node = g.rootNode then
      match x.members with
      | [] => s2
      | m :: _ =>
        let r := sums.map fun q => q.1.read (dImmBits m.desc 25 22) (dImmBits m.desc 27 26)
        let fl := r.foldl (fun a q => a ||| q.2) 0
        (s2.modTile t fun y => y.accFlag fl).sumResult e x lo (colDestBytes m.desc) fl (r.flatMap (·.1))
    else
      let r := sums.map fun q => if g.partialKind = 0 then (q.1.raw, 0) else q.1.read 0 0
      let fl := r.foldl (fun a q => a ||| q.2) 0
      (s2.modTile t fun y => y.accFlag fl).offerUp e x (if g.partialKind = 0 then 64 else 4) lo (r.flatMap (·.1))

/-- Close 64 bytes of parity: XOR of the inputs (R197, R198). -/
def State.closeParity (s : State) (e : Nat) (x : Inst) (w : Nat) (idx : List Nat) : State :=
  let g := s.group e
  let data : Bytes := idx.map fun i => ((s.sources g x).filterMap fun k => x.part g k.1 k.2 i).foldl (fun a b => a ^^^ b.headD 0) 0
  let s1 := (s.modInst e x.seq fun y => { y with closed := w :: y.closed }).grantWindow e x g idx
  let lo := idx.headD 0
  if s.node = g.rootNode then
    match x.members with
    | [] => s1
    | m :: _ =>
      let len := max 1 (shardBytes m.desc)
      match (parityRows m.desc g.members.length m.rank)[lo / len]? with
      | none => s1
      | some o => s1.resultTo e x o.1 0 (lo % len) (lo % len) data data.length
  else s1.offerUp e x 1 lo data

/-- Bytes of records that a source has sent. -/
def Inst.recordsFrom (x : Inst) (k : Nat × Nat) : Bytes := (x.inputs.filter fun i => i.kind == k.1 && i.src == k.2).flatMap (·.data)

/-- Records a source has announced. -/
def Inst.announced (x : Inst) (k : Nat × Nat) : Option Nat :=
  (x.inputs.find? fun i => i.kind == 7 && (if k.1 = 1 then i.offset == k.2 + 1 else i.offset == 0 && i.src == k.2)).map (·.count)

/-- Bytes of a record of a merge: PLEN of a local member, or what the messages' COUNT and length tell. -/
def Inst.recordLen (x : Inst) : Nat :=
  match x.members with
  | m :: _ => recordBytes (dColPlen m.desc)
  | [] =>
    match x.inputs.find? fun i => i.kind == 2 && decide (0 < i.count) with
    | some i => i.data.length / i.count
    | none => 32

/-- Order in which an instance's stage merges records: by a local member's descriptor, or by the parameters that the messages carry. -/
def Inst.order (x : Inst) (r : Bytes) : List Int :=
  match x.members with
  | m :: _ => mergeKey m.desc r
  | [] => if x.opcode = 0x87 then sortKey (Config.colTerm x.param 1) (Config.colTerm x.param 2) r else sourceKey r

/-- Whether a merge delivers to every member. -/
def Inst.toAll (x : Inst) : Bool :=
  match x.members with
  | m :: _ => dAll m.desc
  | [] => Config.colTerm x.param 3 == 1

/-- Close the one window of a merge: every source's records are in; merged, and sent on or to the destinations (R196). -/
def State.closeMerge (s : State) (e : Nat) (x : Inst) : State :=
  let g := s.group e
  let rb := x.recordLen
  let src := s.sources g x
  let all := src.all fun k => x.announced k == some ((x.recordsFrom k).length / rb)
  if ¬ x.released ∨ ¬ all ∨ x.closed.contains 0 then s
  else
    let rs := (sortRecs x.order (src.flatMap fun k => cutEvery rb ((x.recordsFrom k).length / rb) (x.recordsFrom k))).flatten
    let s1 := s.modInst e x.seq fun y => { y with closed := [0] }
    let s2 := forEach x.inputs (fun i s => if i.kind ≤ 2 then s.colGrant e x i i.data.length else s) s1
    if s.node ≠ g.rootNode then s2.offerUp e x rb 0 rs
    else
      forEach (cutBytes (4096 / rb * rb) (rs.length / rb + 1) 0 rs) (fun p s =>
        if x.toAll then (s.deliverAll e x.seq p.1 p.2).sendDown e x.seq 3 0 p.1 (p.2.length / rb) p.2
        else
          match x.members with
          | m :: _ => s.resultTo e x (dRank m.desc) 0 p.1 p.1 p.2 (p.2.length / rb)
          | [] => s) s2

/-- WINDOW_CLOSE, with the residue mismatches that a sum's adds meet: nothing happens where an input is missing or the window is closed. -/
def State.windowClose (s : State) (e seq w mismatches : Nat) : State :=
  match (s.group e).inst seq with
  | none => s
  | some x =>
    let g := s.group e
    if ¬ s.groupOn e then s
    else if colMerges x.opcode then if w = 0 then s.closeMerge e x else s
    else if ¬ (colSums x.opcode ∨ colParity x.opcode) ∨ x.closed.contains w then s
    else
      let idx := x.window g w
      let full := idx.all fun i => (s.sources g x).all fun k => (x.part g k.1 k.2 i).isSome
      let known := (g.ranksOn s.node).isEmpty || !x.members.isEmpty
      if idx.isEmpty ∨ ¬ full ∨ ¬ known then s
      else if colSums x.opcode then s.closeSum e x w idx mismatches
      else s.closeParity e x w idx

end Sys2Proof.Machine
end

