-- ==== Sys2Proof/Machine/Collectives.lean ====
section
/-! DEFINITION. Collectives: group commits (R182-R185), messages (R199, R204), windows, completion and loss (R187, R193,
R200-R203). -/

namespace Sys2Proof.Machine

/-! Group commits. -/

/-- A write of COL_GRP_CTRL (R182, R184, R185). -/
def State.colGrpCtrl (s : State) (src : Src) (e v : Nat) : State :=
  let a := Reg.colGrpCtrl e
  if bits v 1 0 = 0 ∨ bits v 1 0 = 3 then s.badAccess src true a .badValue
  else if s.fld (Reg.colGrpState e) 57 57 = 1 then s.badAccess src true a .busy
  else if bit v 0 then (s.withFld (Reg.colGrpState e) 57 57 1).modGroup e fun g => { g with newEpoch := bits v 17 2 }
  else if s.groupOn e then ((s.abortAll e 0x56).withFld (Reg.colGrpCfg e) 0 0 0).modGroup e fun g => { g with anyEpoch := true }
  else s.modGroup e fun g => { g with anyEpoch := true }

/-- COMMIT_LIST. -/
def execCommitList (src : Src) (e newEpoch : Nat) (s : State) : Out :=
  .next ((s.external 1).colGrpCtrl src e (1 + (newEpoch % 2 ^ 16) <<< 2))

/-- INVALIDATE. -/
def execInvalidate (src : Src) (e : Nat) (s : State) : Out := .next ((s.external 1).colGrpCtrl src e 2)

/-- The configuration that an entry stages (Table 8-1), with the members of a list. -/
def State.staged (s : State) (e : Nat) (members : List Member) : Group :=
  let c := (s.reg (Reg.colGrpCfg e)).toNat
  let l := (s.reg (Reg.colGrpList e)).toNat
  let r := (s.reg (Reg.colGrpReduce e)).toNat
  { Group.empty with
    owner := bits c 6 1, tag := bits c 53 22, partialKind := bits c 55 54, cls := bits c 58 56, timeout := bits l 63 40,
    redBase := bits r 14 0, redCount := bits r 21 15, bufBase := bits r 41 22, buf4k := bits r 48 42, root := bits r 62 49,
    members := members }

/-- A member record (R183). -/
def memberOf (w : Nat) : Member := ⟨bits w 13 0, bits w 28 14, bits w 29 29⟩

/-- A list without two equal elements. -/
def noRepeats : List (Nat × Nat) → Bool
  | [] => true
  | x :: l => !l.contains x && noRepeats l

/-- Reducer tiles of a staged entry are good (Table 8-3, 0x8). -/
def State.reducersOk (s : State) (g : Group) : Bool :=
  let l := (List.range g.redCount).map (g.redBase + ·)
  decide (g.redCount ≤ 64) && l.all (fun k => decide (k / 2048 = g.redBase / 2048) && decide (k < 32768) && s.tileRole k == 2 &&
    s.tileOwner k == g.owner && s.active (s.phys k)) &&
    (g.redCount == 0 || (decide (1 ≤ g.buf4k) && decide (g.buf4k ≤ 96) && g.bufBase % 4096 == 0 &&
      decide (g.bufBase + 4096 * g.buf4k ≤ 0x5FE00))) && (!g.reduces s.node || g.redCount != 0)

/-- The first failed check of Table 8-3 on an entry with the words of its list; 0 for none. -/
def State.listError (s : State) (e : Nat) (words : Option (List Nat)) : Nat :=
  let old := s.group e
  let ne := old.newEpoch
  let c := (s.reg (Reg.colGrpCfg e)).toNat
  let n := bits c 21 7
  let g0 := s.staged e []
  if ne = 0 ∨ (s.groupOn e ∧ ¬ old.anyEpoch ∧ ne ≠ (if s.groupEpoch e = 0xFFFF then 1 else s.groupEpoch e + 1)) then 1
  else if g0.owner = 0 ∨ (s.partSec g0.owner).isEmpty ∨ n = 0 ∨ 16384 < n ∨ g0.timeout = 0 ∨ 1 < g0.partialKind ∨ n ≤ g0.root then 2
  else if ¬ bit (s.classMask g0.owner) g0.cls then 3
  else
    match words with
    | none => 4
    | some ws =>
      let ms := ws.map memberOf
      let g := s.staged e ms
      if ws.any (fun w => bits w 63 30 != 0) ∨ ms.any fun m => m.kind == 0 && (ms.filter fun k => k.node == m.node).length != 1 then 5
      else if ¬ noRepeats (ms.map fun m => (m.node, m.tile)) then 6
      else if ms.any fun m => m.node == s.node && !(decide (m.tile < 32768) && s.active (s.phys m.tile) && s.tileRole m.tile != 0 &&
          s.tileOwner m.tile == g.owner) then 7
      else if ¬ s.reducersOk g then 8
      else if (g.ranksOn s.node).isEmpty ∧ ¬ g.reduces s.node then 9
      else if (List.range 256).any fun k => k != e && s.groupOn k && (s.group k).owner == g.owner && (s.group k).tag == g.tag then 10
      else 0

/-- Words of a byte run. -/
def cutWords (b : Bytes) : List Nat := (List.range (b.length / 8)).map fun i => rdLe b (8 * i) 8

/-- The words of the list that an entry names, as its owner reads them; none where the read fails (R184). -/
def State.listRead (s : State) (e : Nat) (readBad : Bool) (owner : Nat) : State × Option (List Nat) :=
  let a := s.fld (Reg.colGrpList e) 39 0
  match s.ownerPieces owner a (8 * s.fld (Reg.colGrpCfg e) 21 7) with
  | none => (s, none)
  | some ps =>
    let x := s.readPieces ps false 0
    (x.1, if x.2.2 ∨ readBad ∨ a % 8 ≠ 0 then none else some (cutWords x.2.1))

/-- LIST_COMMIT_DONE: the list is read, checked and committed, or LIST_ERR is set (R184). A held read waits. -/
def execListCommitDone (e : Nat) (readBad : Bool) (s : State) : Out :=
  if s.fld (Reg.colGrpState e) 57 57 = 0 then .next s
  else
    let g0 := s.staged e []
    let r := s.listRead e readBad g0.owner
    let err := r.1.listError e r.2
    let s1 := (r.1.withFld (Reg.colGrpState e) 57 57 0).withFld (Reg.colGrpState e) 56 53 err
    if err ≠ 0 then .next s1
    else
      let g := s1.staged e ((r.2.getD []).map memberOf)
      let s2 := (s1.abortAll e 0x56).withGroup e { g with anyEpoch := false, newEpoch := (s1.group e).newEpoch }
      let role := b2n (!(g.ranksOn s.node).isEmpty) + b2n (g.reduces s.node) * 2
      let st := Reg.colGrpState e
      .next ((((((s2.withFld st 15 0 g.newEpoch).withFld st 15 0 (s1.group e).newEpoch).withFld st 47 16 0).withFld st 49 48 role).withFld st
        52 50 0).withFld (Reg.colGrpCfg e) 0 0 1)

/-! Messages. -/

/-- A header keeps Table 8-10, for a kind. -/
def colHeaderOk (kind : Nat) (f : Frame) : Bool :=
  let p := f.payload
  f.kind == 3 && decide (32 ≤ p.length) && decide (p.length ≤ 4128) && cmKind p == kind && decide (0x80 ≤ cmOp p) && decide (cmOp p ≤ 0x8A) &&
    decide (cmSrc p < 16384) &&
    (match kind with
      | 3 => decide (cmStatus p < 16)
      | 4 => decide (cmStatus p ≤ 1)
      | 5 => decide (0x50 ≤ cmStatus p) && decide (cmStatus p ≤ 0x58)
      | _ => cmStatus p == 0)

/-- A newer epoch is refused: the message's header goes back as a credit message of STATUS 1 (R204). -/
def State.refuseEpoch (s : State) (e : Nat) (f : Frame) : State :=
  let p := f.payload
  let q := splice (splice (splice (p.take 32) 6 (natLe 1 4)) 12 (natLe 2 s.node)) 14 (natLe 2 1)
  (s.bump Reg.colEpochAheadCnt).sendFrame (s.groupStop e) (s.group e).redBase { f with dest := f.src, src := s.node, flow := (s.group e).redBase, payload := q }

/-- A message from a tree neighbour is heard (R201). -/
def State.hear (s : State) (e : Nat) (f : Frame) : State :=
  s.modGroup e fun g => { g with heard := mapPut 0 f.src (s.clk.kclk + 1) g.heard }

/-- What every message meets first: header, tag, epoch, instance, parameters (R192, R199, R204). `run` acts on the entry and
sequence number; the instance exists where `make` asks for one. -/
def State.colReceive (s : State) (f : Frame) (kind : Nat) (make : Bool) (run : State → Nat → Nat → State) : State :=
  let p := f.payload
  let s0 := if f.src = s.node then s else s.external 1
  if ¬ colHeaderOk kind f then s0.bump Reg.colUnknownGroupCnt
  else
    match s0.tagEntry (cmTag p) with
    | none => if isMulticast f then s0 else s0.bump Reg.colUnknownGroupCnt
    | some e =>
      let g := s0.group e
      let s1 := ((s0.foreignActivity g.owner).traceEvent (16 + f.flow % 4) 0xFFFF 12 g.owner (p.take 16)).hear e f
      let d := (s1.groupEpoch e + 65536 - cmEpoch p) % 65536
      if d ≠ 0 ∧ d < 32768 then s1.bump (Reg.colGrpStaleCnt e)
      else if d ≠ 0 then s1.refuseEpoch e f
      else
        let q := cmSeq p
        let seen := g.ended.find? (·.1 == q)
        match g.inst q with
        | some x =>
          if make ∧ (x.opcode ≠ cmOp p ∨ x.param ≠ cmParam p) then s1.abortInst e q 0x53 none else run s1 e q
        | none =>
          if kind = 5 ∨ (kind = 4 ∧ cmStatus p = 1) then run s1 e q
          else if seen.isSome then s1.bump (Reg.colGrpStaleCnt e)
          else if kind = 6 then run s1 e q
          else if make then
            run ((s1.modGroup e fun g => { g with insts := g.insts ++ [Inst.fresh q (cmOp p) (cmParam p) s1.clk.kclk] }).showInflight e) e q
          else s1.bump (Reg.colGrpStaleCnt e)

/-- A stage takes an input; a member's contribution is accepted when the whole of it is in (R193). -/
def State.stageTake (s : State) (e seq : Nat) (i : ColIn) : State :=
  let s1 := s.modInst e seq fun x => { x with inputs := x.inputs ++ [i] }
  match (s1.group e).inst seq with
  | none => s1
  | some x =>
    if i.kind ≠ 1 then s1
    else
      let n := (s.group e).members.length
      match x.members.find? (·.rank == i.src) with
      | none => s1
      | some m =>
        let sum := (x.inputs.filter fun j => j.kind == 1 && j.src == i.src).foldl (fun a j => a + j.count) 0
        let due := if colSums x.opcode then (opA m.desc).count
          else if colParity x.opcode then (parityRows m.desc n m.rank).length * shardBytes m.desc
          else if colMerges x.opcode then (x.announced (1, i.src)).getD (2 ^ 40)
          else (opA m.desc).bytes
        if due ≤ sum then s1.accept e seq m.tile else s1

/-- ORIGIN_TIME of the records that a frame brings: the origin time of the frame (R175; log entry 83). -/
def stampRecords (rb t : Nat) (b : Bytes) : Bytes := (cutEvery rb (b.length / rb) b).flatMap fun r => splice r 8 (natLe 8 t)

/-- A copying stage passes an input on: results at the root, else a partial for the parent (R194). -/
def State.copyOn (s : State) (e seq off count : Nat) (data : Bytes) : State :=
  match (s.group e).inst seq with
  | none => s
  | some x =>
    let g := s.group e
    if s.node = g.rootNode then (s.deliverAll e seq off data).sendDown e seq 3 0 off count data
    else s.offerUp e x 1 off data

/-- An input that a stage does not hold returns its credit at once. -/
def State.grantNow (s : State) (e seq : Nat) (i : ColIn) : State :=
  match (s.group e).inst seq with
  | none => s
  | some x => s.colGrant e x i i.data.length

/-- Every window of the stage is closed. -/
def Inst.stageDone (x : Inst) (n : Nat) : Bool :=
  if colSums x.opcode ∨ colParity x.opcode then decide (ceilDiv (x.total n) (if colSums x.opcode then 16 else 64) ≤ x.closed.length)
  else if colMerges x.opcode then x.closed.contains 0
  else true

/-- At a package without members an instance ends once its stage has closed and it has relayed every result that comes by it (log entry
32). -/
def State.endIfQuiet (s : State) (e seq : Nat) : State :=
  match (s.group e).inst seq with
  | none => s
  | some x =>
    let g := s.group e
    let n := g.members.length
    let passed :=
      if colSums x.opcode ∨ colCopies x.opcode then decide (x.total n ≤ x.relayed)
      else if colParity x.opcode then true
      else x.released && (!colMerges x.opcode || !x.toAll || decide (x.agreed ≤ x.relayed))
    if (g.ranksOn s.node).isEmpty && x.outbox.isEmpty && x.unacked.isEmpty && x.stageDone n && passed then s.endInst e seq 0 else s

/-- The instance ends here when every local member is done, the stage has closed and its credit is back (log entry 32). -/
def State.endIfDone (s : State) (e seq : Nat) : State :=
  match (s.group e).inst seq with
  | none => s
  | some x =>
    let g := s.group e
    if !(g.ranksOn s.node).isEmpty && (g.ranksOn s.node).all (fun r => x.members.any fun m => m.rank == r && m.done) &&
        x.stageDone g.members.length && x.outbox.isEmpty && x.unacked.isEmpty then s.endInst e seq 0
    else s

/-- CONTRIBUTION. -/
def State.contribution (s : State) (f : Frame) : State :=
  s.colReceive f 1 true fun s e q =>
    let p := f.payload
    let i : ColIn := ⟨1, cmSrc p, cmOffset p, cmCount p, p.drop 32⟩
    let op := cmOp p
    let l := f.flow % 2 ^ 15
    match (s.group e).inst q with
    | none => s
    | some x =>
      if colDirect op then
        let s1 := s.modInst e q fun y => { y with inputs := y.inputs ++ [⟨11, i.src, l, i.data.length, []⟩] }
        match x.members.find? (·.tile == l) with
        | some m => s1.deliverDirect e q m i
        | none => s1.modInst e q fun y => { y with inputs := y.inputs ++ [{ i with kind := 9, count := l }] }
      else if colCopies op then ((s.stageTake e q { i with data := [] }).grantNow e q i).copyOn e q i.offset i.count i.data
      else if colMerges op then s.stageTake e q { i with data := stampRecords x.recordLen f.origin i.data }
      else s.stageTake e q i

/-- PARTIAL. -/
def State.partialIn (s : State) (f : Frame) : State :=
  s.colReceive f 2 true fun s e q =>
    let p := f.payload
    let i : ColIn := ⟨2, cmSrc p, cmOffset p, cmCount p, p.drop 32⟩
    if colCopies (cmOp p) then
      (((s.stageTake e q { i with data := [] }).grantNow e q i).copyOn e q i.offset i.count i.data).endIfQuiet e q
    else s.stageTake e q i

/-- A result message is for every member of the group: not a chunk of a reduce-scatter, a parity or the records of one destination. -/
def forAll (x : Inst) (data : Bytes) : Bool :=
  data.isEmpty || x.opcode == 0x80 || colCopies x.opcode || (colMerges x.opcode && x.toAll)

/-- RESULT: delivered to the members it is for, its flags kept at a member package, and relayed down the tree where it is for every member
(R189, R194). -/
def State.resultIn (s : State) (f : Frame) : State :=
  s.colReceive f 3 true fun s e q =>
    let p := f.payload
    let data := p.drop 32
    let s1 := if ((s.group e).ranksOn s.node).isEmpty then s else s.resFlags e (cmStatus p)
    match (s1.group e).inst q with
    | none => s1
    | some x =>
      let g := s1.group e
      let s2 := if forAll x data then s1.sendDown e q 3 (cmStatus p) (cmOffset p) (cmCount p) data else s1
      let s3 := s2.modInst e q fun y => { y with relayed := y.relayed + max 1 (cmCount p) }
      let off := cmOffset p
      let one := x.members.find? fun m => m.tile == f.flow % 2 ^ 15
      let s4 :=
        if data.isEmpty then s3
        else if x.opcode = 0x80 then
          match x.members with
          | m :: _ => s3.deliverAll e q (off * colDestBytes m.desc) data
          | [] => s3
        else if x.opcode = 0x81 then
          match one with
          | some m => s3.deliver e q m.tile ((off - m.rank * ((opA m.desc).count / max 1 g.members.length)) * colDestBytes m.desc) data
          | none => s3
        else if colParity x.opcode ∨ (colMerges x.opcode ∧ ¬ x.toAll) then s3.deliverOne e q (f.flow % 2 ^ 15) off data
        else s3.deliverAll e q off data
      s4.endIfQuiet e q

/-- A refusal can mean this message: same receiver, opcode, instance, OFFSET and COUNT, with KIND, SRC and STATUS overwritten (R204). -/
def refusedBy (f m : Frame) : Bool :=
  (m.dest == f.src || isMulticast m) && cmOp m.payload == cmOp f.payload && cmSeq m.payload == cmSeq f.payload &&
    cmOffset m.payload == cmOffset f.payload && cmCount m.payload == cmCount f.payload

/-- CREDIT: a grant lets queued messages of the entry go; a refusal marks the oldest message it can mean for repetition, to the refusing
package alone (R187, R204; log entry 84). -/
def State.creditIn (s : State) (f : Frame) : State :=
  s.colReceive f 4 false fun s e q =>
    let p := f.payload
    if cmStatus p = 0 then
      let key := if cmOffset p < 2 ^ 14 then 2 * cmOffset p + 1 else 2 * cmSrc p
      let s1 := s.modInst e q fun x => { x with unacked := mapPut 0 key (mapGet 0 key x.unacked - cmCount p) x.unacked }
      ((s1.colDrainAll e).endIfDone e q).endIfQuiet e q
    else
      match (s.group e).sent.find? fun m => refusedBy f m.2 with
      | none => s
      | some m => s.modGroup e fun g =>
          { g with sent := g.sent.erase m, refused := g.refused ++ [(m.1, if isMulticast m.2 then { m.2 with dest := f.src, flow := g.redBase } else m.2)] }

/-- The neighbours that an abort goes on to from a package that has completed the instance: the root's whole tree is relayed to by
`sendDown`; another package passes it to its parent and children, but not back (R202). -/
def State.relayAbort (s : State) (e q : Nat) (f : Frame) : State :=
  let g := s.group e
  let x := Inst.fresh q (cmOp f.payload) (cmParam f.payload) s.clk.kclk
  let outs := if s.node = g.rootNode then s.downCopies g
    else (((treeNext g.rootNode s.node :: g.children s.node).filter fun n => n != f.src).map fun n => (n, g.redBase))
  forEach outs (fun c s => s.colSend e (s.colFrame e x 5 s.node c.1 c.2 (cmStatus f.payload) 0 0 [])) s

/-- ABORT_MESSAGE: the instance ends here with the cause; a package that has completed it records the abort and passes it on, once (R202). -/
def State.abortIn (s : State) (f : Frame) : State :=
  s.colReceive f 5 false fun s e q =>
    let g := s.group e
    match g.inst q with
    | some _ => s.abortInst e q (cmStatus f.payload) none
    | none =>
      match g.ended.find? (·.1 == q) with
      | some (_, 0) => ((s.recordAbort e q (cmStatus f.payload) none).relayAbort e q f).modGroup e fun g =>
          { g with ended := (q, cmStatus f.payload) :: g.ended }
      | some _ => s.bump (Reg.colGrpStaleCnt e)
      | none =>
        -- not yet begun here: it has aborted before any local issue
        (((s.modGroup e fun g => { g with insts := g.insts ++ [Inst.fresh q (cmOp f.payload) (cmParam f.payload) s.clk.kclk] })).abortInst e q
          (cmStatus f.payload) none)

/-- HEARTBEAT_MESSAGE: only hearing it counts. -/
def State.heartbeatIn (s : State) (f : Frame) : State := s.colReceive f 6 false fun s _ _ => s

/-- Rows of operand B of ALLTOALLV: its elements are 32 bits wide (R195). -/
def sizeRows (b : Opnd) (a : Int) : List (Int × Nat) := b.rowsOf a (4 * b.cols) b.rows

/-- A member that has every size writes them to B and announces itself with its overflow bit (R195). -/
def State.sizesIn (s : State) (e seq : Nat) (m : ColMember) : State :=
  match (s.group e).inst seq with
  | none => s
  | some x =>
    let n := (s.group e).members.length
    let got := (List.range n).map fun r => (x.inputs.find? fun i => i.kind == 7 && i.offset == m.rank && i.src == r).map (·.count)
    if ¬ got.all Option.isSome then s
    else
      let sizes := got.map fun o => o.getD 0
      let b := opB m.desc
      let run := s.memberRun m
      let data := sizes.flatMap (natLe 4)
      let s1 := forEach (placeRows (sizeRows b (b.addr run.args [0, 0, 0, 0, 0, 0])) (4 * n) data)
        (fun y s => writeRun run b.space (y.1, y.2.length) y.2 s) s
      let total := sizePrefix sizes n
      let spill := decide ((opD m.desc).bytes < total) || decide ((opA m.desc).bytes < sizePrefix m.sizes n)
      (s1.modInst e seq fun y => y.modMember m.tile fun k => { k with need := some total }).announce e seq m 8 (b2n spill)

/-- SIZE_COUNT_MESSAGE: a size for an endpoint, a count for the stage, or the total coming down (R195, R196). -/
def State.sizeIn (s : State) (f : Frame) : State :=
  s.colReceive f 7 true fun s e q =>
    let p := f.payload
    let g := s.group e
    if cmOp p = 0x86 then
      match (g.ranksOn s.node).find? fun r => (nth g.members r ⟨0, 0, 0⟩).tile == f.flow % 2 ^ 15 with
      | none => s
      | some r =>
        let s1 := s.modInst e q fun x => { x with inputs := x.inputs ++ [⟨7, cmOffset p, r, cmCount p, []⟩] }
        match (s1.group e).inst q with
        | none => s1
        | some x => match x.members.find? (·.rank == r) with | some m => s1.sizesIn e q m | none => s1
    else if f.src = s.node ∨ (g.children s.node).contains f.src then
      (s.modInst e q fun x => { x with inputs := x.inputs ++ [⟨7, cmSrc p, cmOffset p, cmCount p, p.drop 32⟩] }).arrive e q 7
    else (s.phaseEnd e q 7 (cmCount p) (rdLe p 32 8)).endIfQuiet e q

/-- BARRIER_MESSAGE: an arrival from below, or the release from above. -/
def State.barrierIn (s : State) (f : Frame) : State :=
  s.colReceive f 8 true fun s e q =>
    let p := f.payload
    let g := s.group e
    if f.src = s.node ∨ (g.children s.node).contains f.src then
      (s.modInst e q fun x => { x with inputs := x.inputs ++ [⟨8, cmSrc p, cmOffset p, cmCount p, []⟩] }).arrive e q 8
    else (s.phaseEnd e q 8 (cmCount p) 0).endIfQuiet e q

/-- CONTRIBUTION. -/
def execContribution (f : Frame) (s : State) : Out := .next (s.contribution f)
/-- PARTIAL. -/
def execPartialMsg (f : Frame) (s : State) : Out := .next (s.partialIn f)
/-- RESULT. -/
def execResult (f : Frame) (s : State) : Out := .next (s.resultIn f)
/-- CREDIT. -/
def execCredit (f : Frame) (s : State) : Out := .next (s.creditIn f)
/-- ABORT_MESSAGE. -/
def execAbortMessage (f : Frame) (s : State) : Out := .next (s.abortIn f)
/-- HEARTBEAT_MESSAGE. -/
def execHeartbeatMessage (f : Frame) (s : State) : Out := .next (s.heartbeatIn f)
/-- SIZE_COUNT_MESSAGE. -/
def execSizeCountMessage (f : Frame) (s : State) : Out := .next (s.sizeIn f)
/-- BARRIER_MESSAGE. -/
def execBarrierMessage (f : Frame) (s : State) : Out := .next (s.barrierIn f)
/-- WINDOW_CLOSE. -/
def execWindowClose (e seq : Nat) (w : AddAt) (s : State) : Out := .next ((s.windowClose e seq w.at_ w.mismatches).endIfQuiet e seq)

/-! Completion and loss. -/

/-- INSTANCE_COMPLETE at a member: outputs received and contribution accepted; D is written and the descriptor's iteration is
committed (R193). -/
def execInstanceComplete (e seq t : Nat) (s : State) : Out :=
  match (s.group e).inst seq with
  | none => .next s
  | some x =>
    match x.members.find? fun m => s.phys m.tile == t with
    | none => .next s
    | some m =>
      if m.done ∨ ¬ m.accepted ∨ m.need ≠ some 0 ∨ (x.opcode = 0x84 ∧ ¬ x.released) then .next s
      else
        let s1 := (s.writeGot m m.got).modInst e seq fun y => y.modMember m.tile fun k => { k with done := true }
        let s2 := if (s1.ctx t m.ctx).desc = some m.desc then
            (s1.modCtx t m.ctx fun c => { c with allDone := true }).tileCount t 0x04 1
          else s1
        .next (s2.endIfDone e seq)

/-- Ranks on a package of the tree or below it. -/
def Group.ranksBelow (g : Group) (n : Nat) : List Nat :=
  (List.range g.members.length).filter fun r => (g.below n).contains (nth g.members r ⟨0, 0, 0⟩).node

/-- Source rank of a broadcast: by a local member's descriptor, or by the parameters that the messages carry. -/
def Inst.source (x : Inst) : Nat := match x.members with | m :: _ => dRank m.desc | [] => Config.colTerm x.param 4

/-- The whole input of child package `n` is in (R200). -/
def Inst.childIn (x : Inst) (g : Group) (n : Nat) : Bool :=
  let k := g.members.length
  let had := (x.inputs.filter fun i => i.kind == 2 && i.src == n).foldl (fun a i => a + i.count) 0
  if colSums x.opcode ∨ colParity x.opcode then decide (x.total k ≤ had)
  else if x.opcode = 0x82 then decide ((g.ranksBelow n).length * (x.total k / max 1 k) ≤ had)
  else if x.opcode = 0x83 then !(g.ranksBelow n).contains x.source || decide (x.total k ≤ had)
  else if colMerges x.opcode then x.announced (2, n) == some had
  else if x.opcode = 0x85 then true
  else x.inputs.any fun i => i.kind == 8 && i.offset == 0 && i.src == n

/-- Direct data of rank `r` have not all come for a local member (R200). -/
def Inst.directMissing (x : Inst) (n : Nat) (m : ColMember) (r : Nat) : Bool :=
  let had := (x.inputs.filter fun i => i.kind == 11 && i.src == r && i.offset == m.tile).foldl (fun a i => a + i.count) 0
  if x.opcode = 0x85 then decide (had < ceilDiv (chunkBits m.desc n) 8)
  else
    match x.inputs.find? fun i => i.kind == 7 && i.offset == m.rank && i.src == r with
    | none => true
    | some i => x.released && decide (had < i.count)

/-- The lowest rank whose input is still missing at this package (R200). -/
def State.missingRank (s : State) (e seq : Nat) : Option Nat :=
  match (s.group e).inst seq with
  | none => none
  | some x =>
    let g := s.group e
    let n := g.members.length
    let here := (g.ranksOn s.node).filter fun r => !x.members.any fun m => m.rank == r && m.accepted
    let below := (g.children s.node).filterMap fun k => if x.childIn g k then none else g.lowestRank k
    let direct := if colDirect x.opcode then (List.range n).filter fun r => x.members.any fun m => x.directMissing n m r else []
    (here ++ below ++ direct).foldl (fun m r => match m with | none => some r | some k => some (min k r)) none

/-- MEMBER_LATE: the watchdog of an instance expires (R200). -/
def execMemberLate (e seq : Nat) (s : State) : Out := .next (s.abortInst e seq 0x51 (s.missingRank e seq))

/-- Heartbeats of an entry with instances in flight. -/
def State.heartbeatOf (s : State) (e : Nat) : State :=
  match s.groupOn e, (s.inflight e).head? with
  | true, some x =>
    let g := s.group e
    let up := if s.node = g.rootNode then [] else [treeNext g.rootNode s.node]
    forEach (up ++ g.children s.node) (fun n s => s.colSend e (s.colFrame e x 6 s.node n g.redBase 0 0 0 [])) s
  | _, _ => s

/-- HEARTBEAT: to the tree parent and children of every entry with instances in flight (R201). -/
def execHeartbeat (s : State) : Out := .next (forEach (List.range 256) (fun e s => s.heartbeatOf e) s)

/-- MEMBER_LOST: the instances of an entry that depend on a lost tree neighbour abort (R201). -/
def execMemberLost (e node : Nat) (s : State) : Out :=
  let g := s.group e
  let near := (s.node != g.rootNode && treeNext g.rootNode s.node == node) || (g.children s.node).contains node
  let s1 := s.modGroup e fun g => { g with lost := g.lost.filter (· != node) }
  if s.groupOn e && near then
    .next (forEach (g.insts.map (·.seq)) (fun q s => s.abortInst e q 0x52 (g.lowestRank node)) s1)
  else .next s1

/-- EPOCH_AHEAD_REPEAT: refused messages are sent again, but for those whose sender's watchdog has expired (R204). -/
def execEpochAheadRepeat (e : Nat) (s : State) : Out :=
  .next (forEach ((s.group e).refused.filter fun x => decide (s.clk.kclk < x.1)) (fun x s => s.colSendTill e x.1 x.2)
    (s.modGroup e fun g => { g with refused := [] }))

/-! Iterations of the collective descriptors: what a member reads and sends. -/

/-- Contributions of a member (Table 8-7). -/
def colBody (e : Run) : It (State → State) := do
  let d := e.d
  let a := opA d
  let o := opD d
  let op := dOp d
  let en := dImmBits d 7 0
  let s0 ← get
  let g := s0.group en
  let n := g.members.length
  if o.space ≠ 0 then canWrite e o.space (colRows s0 e.t e.c d)
  let part (s : State) (f : State → Inst → ColMember → State) : State :=
    match (s.group en).inst (g.nextSeq e.l - 1) with
    | none => s
    | some x => match x.members.find? (·.tile == e.l) with | some m => f s x m | none => s
  let seqOf := g.nextSeq e.l - 1
  if colSums op then
    let v ← readScaled e a
    let ts := v.map fun x => termOf x.1
    let raw := ts.flatMap fun x => (Slot.zero.add x.1).1.raw
    pure fun s =>
      let s1 := forEach ((List.range (ceilDiv v.length 16))) (fun w s =>
        let f := ((ts.drop (16 * w)).take 16).foldl (fun f x => f ||| x.2) 0
        s.modTile (s.phys (g.redBase + w % max 1 g.redCount)) (·.accFlag f)) s
      part s1 fun s x m => s.contribute en x m 64 0 raw
  else if colCopies op then
    if a.space = 0 then pure fun s => s.accept en seqOf e.l
    else
      let b ← readOpnd e a
      let r := (s0.rankOf g e.l).getD 0
      pure fun s => part s fun s x m => s.contribute en x m 1 (if op = 0x82 then r * b.length else 0) b
  else if op = 0x84 then
    pure fun s => part s fun s _ m => (s.announce en seqOf m 8 0).accept en seqOf e.l
  else if op = 0x85 then
    let b ← readOpnd e a
    let k := chunkBits d n
    pure fun s => part s fun s x m =>
      (forEach (List.range n) (fun j s => s.sendTo en x m j (bitSlice b (j * k) k)) s).accept en seqOf e.l
  else if op = 0x86 then
    let b ← readOpnd e a
    let bo := opB d
    let bs ← readRuns e bo.space (sizeRows bo (e.at bo))
    canWrite e bo.space (sizeRows bo (e.at bo))
    let sizes := (List.range n).map fun j => rdLe bs (4 * j) 4
    need (sizes.all fun z => z % 64 == 0) 0x02
    pure fun s =>
      let s1 := s.modInst en seqOf fun x => x.modMember e.l fun m => { m with data := b, sizes := sizes }
      part s1 fun s x m =>
        let s2 := forEach (List.range n) (fun j s =>
          let dst := nth g.members j ⟨0, 0, 0⟩
          s.colSend en (s.colFrame en x 7 s.node dst.node dst.tile 0 m.rank (nth sizes j 0) [])) s
        s2.sizesIn en seqOf m
  else if colMerges op then
    let rb := recordBytes (dColPlen d)
    let st := if a.stride = 0 then rb else a.stride
    let b ← readRuns e a.space ((List.range a.rows).map fun r => (e.at a + ((r * st : Nat) : Int), rb))
    need ((cutRecords (dColPlen d) b).all (recordOk (dColKey d))) 0x43
    pure fun s =>
      let s1 := s.modInst en seqOf fun x => x.modMember e.l fun m => { m with data := b }
      part s1 fun s _ m => s.announce en seqOf m 7 (memberRecords d b).length
  else
    if a.space = 0 then pure fun s => s.accept en seqOf e.l
    else
      let b ← readOpnd e a
      let r := (s0.rankOf g e.l).getD 0
      pure fun s => part s fun s x m => s.contribute en x m 1 0 ((parityRows d n r).flatMap fun c => gfScale c.2 b)

end Sys2Proof.Machine
end

