-- ==== Sys2Proof/Machine/Blocks.lean ====
section
/-! DEFINITION. When a tile runs: block clocks (R353-R355), the latch lead (R53), resets (Table 15-5), and writes to tile
registers (R36, R355), and the mesh stops that resets and fences close. -/

namespace Sys2Proof.Machine

/-- A reset scope covers a physical tile (Table 15-5). -/
def State.covers (s : State) (t : Nat) : Scope → Bool
  | .tile k => k == t
  | .block b => physBlock t == b
  | .sector k => blockSector (physBlock t) == k
  | .die d => t / 2304 == d
  | .partition o => s.physOwner t == o

/-- A reset of a tile is in progress. -/
def State.tileInReset (s : State) (t : Nat) : Bool := s.faults.resets.any (s.covers t)

/-- A tile is in the latch lead of a commit, or held by its state copy (R53, R412). -/
def State.inLead (s : State) (t : Nat) : Bool := s.commit.lead.any fun o => o == 64 || o == s.physOwner t

/-- A tile serves a logical tile and its block runs. -/
def State.clocked (s : State) (t : Nat) : Bool :=
  let b := physBlock t
  s.active t && s.blockState b == 3 && !s.blockDead b && !s.dieFenced (t / 2304) && !(s.die (t / 2304)).inReset &&
    !s.tileInReset t && !s.tileGone (s.logicalOf t)

/-- The sequencer of a tile may issue descriptors and iterations. -/
def State.mayRun (s : State) (t : Nat) : Bool := s.clocked t && !s.inLead t

/-- Address of a register of a physical tile's window. -/
def tileReg (t off : Nat) : Nat := dieReg (t / 2304) (0x10000 + t % 2304 * 256 + off)

/-- A tile register does not answer (R36). -/
def State.tileMute (s : State) (t : Nat) : Bool := (s.tile t).idState == 3 || (s.die (t / 2304)).inReset

/-- A write to a register of a tile: refused where the tile does not answer, without effect in a reset; else it wakes the block
and acts (R36, R355). -/
def State.tileWrite (s : State) (src : Src) (t off : Nat) (f : State → State) : State :=
  let s0 := s.external 1
  if s.tileMute t then s0.badAccess src true (tileReg t off) .noResponse
  else if s.tileInReset t then s0
  else f (s0.wakeBlock (physBlock t))

/-! Mesh stops that resets and fences close (R13, R33, R339, Table 15-5). -/

/-- Neighbours of a block stop. -/
def stopSides (k : Nat) : List Dir := if k < 512 then [.north, .east, .south, .west] else [stopRoute k 0]

/-- A mesh stop is drained and reached no more: messages on their way to other stops leave it; a message for it, or for a stop that it
cannot reach, is discarded at the last live stop, a neighbour (R33, Table 15-5); where no neighbour lives, nothing answers. -/
def State.closeStop (s : State) (k : Nat) : State :=
  let q := (s.stop k).queue
  let s1 := s.modStop k fun x => { x with queue := [], isolated := true }
  let near := (stopSides k).map (stopNext k) |>.find? fun n => !(s1.stop n).isolated
  forEach q (fun m s =>
    let d := stopRoute k m.dst
    if m.dst ≠ k ∧ ¬ (s.stop (stopNext k d)).isolated then s.meshPass k d m
    else
      match near with
      | some n => s.discardAt n m.f
      | none => s) s1

/-- Resets in progress, and fences of blocks, sectors and dies, that keep a stop closed (Table 1-2). -/
def State.stopClosed (s : State) (k : Nat) : Bool :=
  if k < 512 then
    s.blockDead k || s.dieFenced (k / 32) || s.faults.resets.any fun r =>
      match r with
      | .block b => b == k
      | .sector x => blockSector k == x
      | .die d => k / 32 == d
      | _ => false
  else
    match stopPortDie k with
    | some n => s.dieFenced (16 + n) || s.faults.resets.contains (.die (16 + n))
    | none => false

/-- A stop opens again where nothing keeps it closed. -/
def State.openStop (s : State) (k : Nat) : State := if s.stopClosed k then s else s.modStop k fun x => { x with isolated := false }

/-- Stops of a die. -/
def dieStops (d : Nat) : List Nat :=
  if d < 16 then (List.range 32).map (32 * d + ·)
  else
    match d with
    | 16 => (List.range 16).map (512 + ·)
    | 17 => (List.range 32).map (528 + ·)
    | 18 => (List.range 16).map (560 + ·)
    | _ => (List.range 32).map (576 + ·)

/-- The stops of a fenced die are isolated (Table 1-2). -/
def State.closeDie (s : State) (d : Nat) : State := forEach (dieStops d) (fun k s => s.closeStop k) s

/-- The stops of a die open again where nothing keeps them closed. -/
def State.openDie (s : State) (d : Nat) : State := forEach (dieStops d) (fun k s => s.openStop k) s

end Sys2Proof.Machine
end

