-- ==== Sys2Proof/Machine/Issue.lean ====
section
/-! DEFINITION. The checks made before a descriptor's first iteration (R63, R85, R96, R102, R132-R135, R146, R165, R187). -/

namespace Sys2Proof.Machine

/-- INT8 or INT4 with SCALE 0 or 3: an operand of an integer gang (R93). -/
def intOperand (o : Opnd) : Bool := isIntElem o.elem && (o.scale == 0 || o.scale == 3)

/-- Shapes and formats of MMA on a gang of `side` tiles (R66, R69, R86, R92, R96, R102; log entry 33): A is the gang's M × K of a pass,
B its K × N, or N × K where it is unstructured. -/
def mmaFormatOk (d : Bytes) (side : Nat) : Bool :=
  let a := opA d
  let b := opB d
  let o := opD d
  let k := a.cols
  (o.fmt == 0 || o.fmt == 2) && decide (a.elem ≤ 9) && decide (b.elem ≤ 9) &&
    (match b.sparse with
      | 0 => b.rows == k && decide (k ≤ 16 * side) && decide (b.cols ≤ 16 * side)
      | 1 => b.rows == k && decide (k ≤ 32 * side) && decide (b.cols ≤ 16 * side) && k % 8 == 0 && b.cols % 8 == 0 && b.elem != 2 &&
          a.elem != 2
      | _ => side == 1 && b.cols == k && k % 8 == 0 && b.rows % 8 == 0 && b.elem != 2 && a.elem != 2)

/-- The slots that an accumulator descriptor names end at L15 (R165). -/
def slotsOk (d : Bytes) : Bool :=
  let base := dImmBits d 3 0
  match dOp d with
  | 0x70 => decide (base + (opA d).cols ≤ 16)
  | 0x71 | 0x73 => decide (base + (opD d).cols ≤ 16)
  | 0x74 => decide (base + (opA d).count ≤ 16)
  | _ => true

/-- Vector and cache opcodes, whose spaces are judged at the iteration (R117). -/
def judgesSpaces (op : Nat) : Bool := isVector op || op == 0x52 || op == 0x53

/-- The operand words of a descriptor are well formed (R133). -/
def operandsOk (d : Bytes) (i : OpInfo) : Bool :=
  let op := dOp d
  let lax := judgesSpaces op
  let use (u : Use) : Use := if lax && u == .yes then .opt else u
  opndOk d 4 16 (use i.a) false lax && (op == 0x88 || opndOk d 6 32 (use i.b) (op == 0x10) lax) && opndOk d 8 48 (use i.d) false lax

/-- Every operand that a vector or cache opcode needs stands in a space whose operands have a shape: others raise VEC_SPACE at the
iteration (R117, R133), and their shapes are not paired. -/
def operandsShaped (d : Bytes) (i : OpInfo) : Bool :=
  let shaped (u : Use) (o : Opnd) : Bool := u != .yes || (o.space != 0 && o.space != 6 && decide (o.space ≤ 7))
  !judgesSpaces (dOp d) || (shaped i.a (opA d) && shaped i.b (opB d) && shaped i.d (opD d))

/-- Rows of an operand lie one behind the other. -/
def Opnd.solid (o : Opnd) : Bool := o.rows == 1 || o.stride == 0 || o.stride == o.rowBytes

/-- D of the cache opcodes names whole lines (Table 6-6). -/
def linesNamed (d : Bytes) : Bool :=
  let o := opD d
  !(dOp d == 0x52 || dOp d == 0x53) || o.space != 2 || (o.base % 512 == 0 && o.bytes % 512 == 0 && o.solid)

/-- Fields that keep the rules of R132 to R135, R141, R176, R289: BAD_DESCRIPTOR where they do not. -/
def State.fieldsOk (s : State) (t : Nat) (d : Bytes) (i : OpInfo) : Bool :=
  let op := dOp d
  commonOk d i && (if isControl op then controlOk d else operandsOk d i && spacesOk d) && accImmOk d && linesNamed d &&
    (op != 0x10 || dImmBits d 2 0 != 6) && (!isRemote op || remoteOk d (s.classMask (s.physOwner t)))

/-- The group entry of a collective descriptor serves the tile: valid, of its owner, with the tile as an endpoint (Table 8-9). -/
def State.colGroupOk (s : State) (t : Nat) (d : Bytes) : Bool :=
  let e := dImmBits d 7 0
  let g := s.group e
  s.groupOn e && g.owner == s.physOwner t && (s.rankOf g (s.logicalOf t)).isSome

/-- The parameters of a collective descriptor suit its group. -/
def State.colFieldsOk (s : State) (t : Nat) (d : Bytes) : Bool :=
  let g := s.group (dImmBits d 7 0)
  collectiveOk d g.members.length ((s.rankOf g (s.logicalOf t)).getD 0)

/-- Formats keep chapters 03 to 05: BAD_FORMAT where they do not. -/
def State.formatsFit (s : State) (t : Nat) (d : Bytes) : Bool :=
  let l := s.logicalOf t
  isControl (dOp d) || (pairsOk d && sumFmtOk d &&
    (dOp d != 0x10 || mmaFormatOk d (match s.gangOf l with | some g => gangSide g | none => 1)))

/-- The cause that a descriptor raises before its first iteration, if any. A vector operand in a space without shapes is judged at the
iteration, and its shape is paired with no other. -/
def State.issueCause (s : State) (t : Nat) (d : Bytes) : Option Nat :=
  match opInfo (dOp d) with
  | none => some 0x01
  | some i =>
    let op := dOp d
    if ¬ s.fieldsOk t d i then some 0x02
    else if isCollective op ∧ ¬ s.colGroupOk t d then some 0x50
    else if isCollective op ∧ ¬ s.colFieldsOk t d then some 0x02
    else if op = 0x03 ∧ (32 ≤ dImm d ∨ 5 ≤ dImm d % 8) then some 0x04
    else if (¬ isControl op ∧ ¬ formatBytesOk d) ∨ (operandsShaped d i ∧ ¬ s.formatsFit t d) then some 0x03
    else if (op = 0x10 ∨ op = 0x11) ∧ ¬ s.isOrigin (s.logicalOf t) then some 0x10
    else if ¬ slotsOk d then some 0x40
    else if 0x70 ≤ op ∧ op ≤ 0x7B ∧ (s.reducerEntry (s.logicalOf t)).isSome then some 0x57
    else none

end Sys2Proof.Machine
end

