-- ==== Sys2Proof/Machine/Iterate.lean ====
section
/-! DEFINITION. How a descriptor runs: waits (R138), issue and shadows (R129, R143), iterations (R136, R139, R144, R151),
completion and successors (R128, R130, R142). -/

namespace Sys2Proof.Machine

/-! Waits and engines. -/

/-- A wait test on a counter (R138). -/
def counterHolds (op v w : Nat) : Bool :=
  match op with
  | 0 => true
  | 1 => decide (0 ≤ sgn 32 (v + 2 ^ 32 - w % 2 ^ 32))
  | _ => v == w % 2 ^ 32

/-- WAIT_OP. -/
def dWaitOp (d : Bytes) : Nat := dBits d 2 5 4

/-- WAIT_VAL. -/
def dWaitVal (d : Bytes) : Nat := dBits d 1 63 32

/-- The wait of iteration `j`, or of the issue, holds: the counter against WAIT_VAL + `j`. -/
def Tile.waitHolds (t : Tile) (d : Bytes) (j : Nat) : Bool :=
  counterHolds (dWaitOp d) (t.counter (dBits d 2 3 0)).toNat (dWaitVal d + j)

/-- Contexts on an engine, in issue order; a shadow stands as its context plus 8. -/
def Tile.engine (t : Tile) (e : Engine) : List Nat := mapGet [] e.code t.engines

/-- Engine of an opcode. -/
def dEngine (d : Bytes) : Engine := match opInfo (dOp d) with | some i => i.engine | none => .sequencer

/-- Put an entry on an engine. -/
def Tile.enter (t : Tile) (e : Engine) (k : Nat) : Tile := { t with engines := mapPut [] e.code (t.engine e ++ [k]) t.engines }

/-- Remove an entry from an engine. -/
def Tile.leave (t : Tile) (e : Engine) (k : Nat) : Tile :=
  { t with engines := mapPut [] e.code ((t.engine e).filter (· != k)) t.engines }

/-- A tile's engine can take a descriptor (R129, R192): one runs and one waits; the mesh interface takes one of each context. -/
def State.canTake (s : State) (t : Nat) (d : Bytes) : Bool :=
  if dEngine d = .mesh then !isCollective (dOp d) || s.colReady (s.logicalOf t) d
  else decide (((s.tile t).engine (dEngine d)).length < 2)

/-- The four contexts. -/
def ctxIds : List Nat := [0, 1, 2, 3]

/-- A SETMODE has issued and is not complete: no descriptor of the tile issues (R146). -/
def Tile.modeHeld (t : Tile) : Bool :=
  ctxIds.any fun c => (t.ctx c).issued && match (t.ctx c).desc with | some d => dOp d == 0x03 | none => false

/-- A summary slot is pending (R125): from the issue of a descriptor that names it until its write. -/
def Tile.sumPending (t : Tile) (k : Nat) : Bool :=
  (mapGet Summary.empty k t.sums).ready ||
    ctxIds.any fun c => (t.ctx c).issued && !(t.ctx c).allDone &&
      match (t.ctx c).desc with | some d => dSumEn d && dSumSlot d == k | none => false

/-! Issue. -/

/-- DATA of DESC_ISSUE and DESC_DONE (Table 17-8). -/
def descTrace (addr space c op : Nat) : Bytes := natLe 5 addr ++ natLe 1 space ++ natLe 1 c ++ natLe 1 op

/-- Trace an event of a tile. -/
def State.traceTile (s : State) (t event : Nat) (data : Bytes) : State :=
  s.traceEvent (t / 2304) (t % 2304) event (s.physOwner t) data

/-- A successor pointer of a word, if it names one. -/
def succOf (w : Nat) : Option Succ := if bits w 41 40 = 0 then none else some ⟨bits w 39 0, bits w 41 40, none⟩

/-- Where a context stands with its current descriptor, as far as an issue is concerned. -/
inductive Ready where
  | no
  | issue (d : Bytes)
  | refuse (cause : Nat)
  | shadow (d : Bytes)
  deriving DecidableEq, Repr

/-- The descriptor of a fetched successor. -/
def Succ.fetched (x : Option Succ) : Option Bytes :=
  match x with
  | some u => match u.bytes with | some b => if b.length = 128 then some b else none | none => none
  | none => none

/-- What a context can issue now: its current descriptor, or the shadow behind its SELECT (R129, R143). -/
def State.ready (s : State) (t c : Nat) : Ready :=
  let y := s.tile t
  let x := y.ctx c
  match x.desc with
  | none => .no
  | some d =>
    if ¬ x.issued then
      match s.issueCause t d with
      | some k => .refuse k
      | none => if (dWaitEach d || y.waitHolds d 0) && s.canTake t d && !y.modeHeld then .issue d else .no
    else if dOp d = 0x02 ∧ x.shadow.isNone then
      match Succ.fetched x.succ0 with
      | some b => if mayShadow (dOp b) && (dWaitEach b || y.waitHolds b 0) && s.canTake t b && !y.modeHeld then .shadow b else .no
      | none => .no
    else .no

/-- Lines that an iteration's D names in the operand cache. -/
def lineOf (d : Bytes) (args : List Word) (j : Nat) : List Nat :=
  let o := opD d
  let a := o.addr args (dIdx d j)
  if o.space = 2 ∧ 0 ≤ a ∧ a + (o.bytes : Int) ≤ cacheBytes then linesOf a.toNat o.bytes else []

/-- Lines that OCLOAD makes BUSY at its issue: those that its loop nest names and that are neither BUSY nor DIRTY (R115). -/
def Tile.toFill (y : Tile) (args : List Word) (d : Bytes) : List Nat :=
  if dOp d ≠ 0x52 then []
  else
    let named := (List.range (dIters d)).flatMap (lineOf d args)
    (List.range 64).filter fun i => named.contains i && (y.line i).st != .busy && (y.line i).st != .dirty

/-- Lines go BUSY with no tag. -/
def Tile.busyLines (y : Tile) (ls : List Nat) : Tile := forEach ls (fun i y => y.withLine i ⟨.busy, none, []⟩) y

/-- Issue a descriptor (R128-R130, R115): it takes its engine and its mode, and its successors are to be fetched. -/
def State.issueDesc (s : State) (t c : Nat) (d : Bytes) : State :=
  let y := s.tile t
  let x := y.ctx c
  let x1 : Ctx := { x with
    issued := true, iter := 0, allDone := false, mode := y.numMode, part := 0, specRead := false, result := none, shadow := none,
    seen := [], seenAt := 0, fills := y.toFill x.args d,
    succ0 := succOf (dWord d 3), succ1 := if dOp d = 0x02 then succOf (dWord d 4) else none }
  let s1 := ((s.withTile t (((y.withCtx c x1).enter (dEngine d) c).busyLines x1.fills)).tileCount t 0x02 1).traceTile t 0
    (descTrace x.addr x.space c (dOp d))
  if isCollective (dOp d) then s1.colJoin t c (s.logicalOf t) d else s1

/-- Issue a shadow (R143, R145): an exception before its first iteration is held. -/
def State.issueShadow (s : State) (t c : Nat) (d : Bytes) : State :=
  let y := s.tile t
  let x := y.ctx c
  let u := x.succ0.getD ⟨0, 0, none⟩
  let e : Option ExcInfo := (s.issueCause t d).map fun k => ⟨k, true, [], 0⟩
  (s.withTile t ((y.withCtx c { x with shadow := some ⟨d, u.addr, u.space, y.numMode, e, none, 0, 0⟩, specRead := false, seen := [], seenAt := 0 }).enter (dEngine d)
    (c + 8))).tileCount t 0x0C 1

/-- The lowest context that can issue does (R129). -/
def State.issueFrom (s : State) (t : Nat) : List Nat → State
  | [] => s
  | c :: l =>
    match s.ready t c with
    | .no => s.issueFrom t l
    | .issue d => s.issueDesc t c d
    | .refuse k => s.raiseExc t c ⟨k, true, [], 0⟩ false
    | .shadow d => s.issueShadow t c d

/-- DESCRIPTOR_ISSUE (R129). -/
def State.descIssue (s : State) (t : Nat) : State := if s.mayRun t then s.issueFrom t ctxIds else s

/-! Iterations. -/

/-- The descriptor that an iteration of a context runs, and whether it is a shadow: the current one, or the shadow behind a
SELECT; of a given opcode where one is named. -/
def Ctx.runner (x : Ctx) (op : Option Nat) : Option (Bytes × Bool) :=
  match x.desc with
  | none => none
  | some d =>
    if ¬ x.issued then none
    else if op.all (· == dOp d) && !x.allDone && !(isCollective (dOp d) && x.iter == 1) then some (d, false)
    else
      match x.shadow with
      | some h =>
        if dOp d = 0x02 ∧ op.all (· == dOp h.bytes) ∧ ¬ x.specRead ∧ h.exc.isNone then some (h.bytes, true) else none
      | none => none

/-- The run of a context's next iteration. -/
def State.runOf (s : State) (t c : Nat) (d : Bytes) (shadow : Bool) : Run :=
  let x := s.ctx t c
  let l := s.logicalOf t
  let j := if shadow then 0 else x.iter
  { home := t, t := t, c := c, l := l, owner := s.tileOwner l, d := d, j := j, idx := dIdx d j, args := x.args,
    mode := (match x.shadow, shadow with | some h, true => h.mode | _, _ => x.mode), spec := shadow,
    keeps := shadow || dOp d == 0x10 || (x.specRead && x.iter == 0) }

/-- Whether a tile's engine and the wait let a descriptor's next iteration go; one that has begun goes on. -/
def State.iterReady (s : State) (t c : Nat) (d : Bytes) (shadow : Bool) : Bool :=
  let y := s.tile t
  let x := y.ctx c
  let begun := !shadow && (x.part != 0 || !x.seen.isEmpty)
  s.clocked t && (begun || !s.inLead t) && (dEngine d == .mesh || (y.engine (dEngine d)).head? == some (if shadow then c + 8 else c)) &&
    (begun || !dWaitEach d || y.waitHolds d (if shadow then 0 else x.iter)) &&
    !(dSumEn d && !shadow && (mapGet Summary.empty (dSumSlot d) y.sums).ready) &&
    !(dSigEach d && dBits d 2 11 10 == 2 && !y.mayRequest)

/-- The queues of a tile as they were: an iteration that halts consumes nothing. -/
def State.unread (s old : State) (t : Nat) : State :=
  let o := old.tile t
  s.modTile t fun y => { y with
    ftq := o.ftq, wrBuf := o.wrBuf, rdBuf := o.rdBuf, portUse := o.portUse, westIn := o.westIn, carryIn := o.carryIn }

/-- What a shadow's reads have changed beside what it keeps: nothing (R144). -/
def State.unseen (s old : State) (t : Nat) : State :=
  (s.unread old t).modTile t fun y => { y with ocLines := (old.tile t).ocLines, ocBad := (old.tile t).ocBad, cvtStatus := (old.tile t).cvtStatus }

/-- An iteration is committed (R128, R139): the count, its signal, and an engine that is done is free. A STOP that waited for it
takes effect (R155). -/
def State.commitIteration (s : State) (t c : Nat) : State :=
  let x := s.ctx t c
  match x.desc with
  | none => s
  | some d =>
    if isCollective (dOp d) then s.modCtx t c fun y => { y with iter := 1 }
    else
      let last := x.iter + 1 == dIters d
      let s1 := (s.modCtx t c fun y => { y with
        iter := y.iter + 1, part := 0, arrived := [], specRead := false, seen := [], seenAt := 0, allDone := last }).tileCount t 0x04 1
      let s2 := if dSigEach d then s1.signal t c d else s1
      let s3 := if last ∧ dEngine d ≠ .mesh ∧ dOp d ≠ 0x02 then s2.modTile t (·.leave (dEngine d) c) else s2
      if x.stop then s3.raiseExc t c ⟨0x29, false, dIdx d (min (x.iter + 1) (dIters d - 1)), 0⟩ false else s3

/-- A shadow has read its first iteration, and keeps what it has read: what it would do is held, the release of `n` entries of the
finished-tile queue too (R144). -/
def State.shadowRead (s : State) (t c n : Nat) (d : Bytes) : State :=
  (s.modCtx t c fun x => { x with specRead := true, seenAt := 0, shadow := x.shadow.map fun h => { h with owed := n } }).modTile t fun y =>
    if dOp d = 0x10 then { y with staged := true } else y

/-- A shadow has met an exception: it is held, with the line that it spoils and its flags (R145). -/
def State.shadowExc (s old : State) (t c : Nat) (e : ExcInfo) : State :=
  let y := s.tile t
  let o := old.tile t
  (s.unseen old t).modCtx t c fun x => { x with shadow := x.shadow.map fun h => { h with
    exc := some e, line := (o.ocBad.find? fun b => !y.ocBad.contains b).map (· / 512), flags := y.cvtStatus.toNat } }

/-- A shadow's flags are gathered apart. -/
def State.unflagged (s : State) (t : Nat) : State := s.modTile t fun y => { y with cvtStatus := 0 }

/-- Run one iteration of a descriptor with its body. -/
def State.runBody (s : State) (t c : Nat) (d : Bytes) (shadow : Bool) (body : Run → It (State → State)) : State :=
  let e := s.runOf t c d shadow
  match body e (if shadow then s.unflagged t else s) with
  | .ok f s' =>
    if shadow then (s'.unseen s t).shadowRead t c ((s.tile t).ftq.length - (s'.tile t).ftq.length) d else (f s').commitIteration t c
  | .error .wait _ => s
  | .error .hold s' => s'
  | .error (.exc k w) s' =>
    if shadow then s'.shadowExc s t c ⟨k, false, dIdx d 0, w⟩ else (s'.unread s t).raiseExc t c ⟨k, false, e.idx, w⟩ false

/-- One iteration of the descriptor of an opcode that runs in a context; nothing where none can run. -/
def State.iterate (s : State) (t c op : Nat) (body : Run → It (State → State)) : State :=
  match (s.ctx t c).runner (some op) with
  | none => s
  | some (d, sh) => if s.iterReady t c d sh then s.runBody t c d sh body else s

/-- A commit that changes nothing but what the engine itself does. -/
def noEffect : It (State → State) := pure id

/-! Completion and successors (R128, R130, R142, R154). -/

/-- A context goes on to a successor, or ends. -/
def State.follow (s : State) (t c : Nat) (u : Option Succ) : State :=
  match u with
  | none => s.endCtx t c
  | some u =>
    let s1 := s.modCtx t c fun x => { x with
      addr := u.addr, space := u.space, desc := u.bytes, issued := false, iter := 0, allDone := false, succ0 := none, succ1 := none,
      result := none, shadow := none, part := 0, specRead := false, seen := [], seenAt := 0, fills := [] }
    if u.bytes = some [] then s1.raiseExc t c ⟨0x07, true, [], 0⟩ false else s1

/-- Requests of a context that its descriptor still waits for: remote signals are posted (R140). -/
def Tile.awaits (t : Tile) (c : Nat) : Bool := t.reqs.any fun r => r.ctx == c && r.use != .signal

/-- A descriptor has done all that R128 asks for but its signal. -/
def Tile.finished (t : Tile) (c : Nat) (d : Bytes) : Bool :=
  let x := t.ctx c
  x.issued && x.allDone && dOp d != 0x02 && !t.awaits c && !(dSumEn d && (mapGet Summary.empty (dSumSlot d) t.sums).ready)

/-- The completion signal of a descriptor: once, where it did not signal with its iterations. -/
def State.endSignal (s : State) (t c : Nat) (d : Bytes) : State :=
  if dSigEach d ∧ ¬ isCollective (dOp d) then s else s.signal t c d

/-- A signal can be sent: a remote one needs a request (R290). -/
def Tile.maySignal (t : Tile) (d : Bytes) : Bool := dBits d 2 11 10 != 2 || t.mayRequest

/-- DESCRIPTOR_COMPLETE (R128): trace, signal, engines, successor. -/
def State.descComplete (s : State) (t c : Nat) : State :=
  let y := s.tile t
  let x := y.ctx c
  match x.desc with
  | none => s
  | some d =>
    if ¬ y.finished c d ∨ ¬ y.maySignal d ∨ ¬ s.clocked t then s
    else if x.stop then s.raiseExc t c ⟨0x29, false, dIdx d (dIters d - 1), 0⟩ false
    else (((s.traceTile t 1 (descTrace x.addr x.space c (dOp d))).endSignal t c d).modTile t (·.freeEngines c)).follow t c x.succ0

/-- A shadow that is not taken (R144, R145). -/
def State.dropShadow (s : State) (t c : Nat) : State :=
  match (s.ctx t c).shadow with
  | none => s
  | some h =>
    let s1 := (s.modTile t fun y => { (y.leave (dEngine h.bytes) (c + 8)) with
      staged := y.staged && dOp h.bytes != 0x10,
      shadowDropped := if h.exc.isSome then satAdd y.shadowDropped 1 else y.shadowDropped }).tileCount t 0x0D 1
    s1.modCtx t c fun x => { x with shadow := none, specRead := false, seen := [], seenAt := 0 }

/-- A shadow that is taken goes on as if it had issued normally: it releases the entries it has read, and its first iteration goes on
with what it has read; an exception it met is reported (R144, R145). -/
def State.confirmShadow (s : State) (t c : Nat) (h : Shadow) : State :=
  let y := s.tile t
  let d := h.bytes
  let put (l : List Nat) : List Nat := l.map fun k => if k = c + 8 then c else k
  let y1 := y.leave .sequencer c
  let y2 : Tile := { y1 with engines := mapPut [] (dEngine d).code (put (y1.engine (dEngine d))) y1.engines }
  let x1 : Ctx := { y.ctx c with
    addr := h.addr, space := h.space, desc := some d, issued := true, iter := 0, allDone := false, mode := h.mode, result := none,
    shadow := none, part := 0, fills := y.toFill (y.ctx c).args d, succ0 := succOf (dWord d 3), succ1 := none }
  match h.exc with
  | some e =>
    let y3 := (match h.line with | some i => y2.spoil i | none => y2).cvtFlags h.flags
    (s.withTile t (y3.withCtx c { x1 with fills := [] })).raiseExc t c e true
  | none =>
    ((s.withTile t (({ y2 with ftq := y2.ftq.drop h.owed }.withCtx c x1).busyLines x1.fills)).tileCount t 0x02 1).traceTile t 0
      (descTrace h.addr h.space c (dOp d))

/-- SELECT_RESOLVE (R142, R144): the SELECT completes; the shadow is confirmed or dropped; the taken side goes on. -/
def State.selectResolve (s : State) (t c : Nat) : State :=
  let y := s.tile t
  let x := y.ctx c
  match x.desc, x.result with
  | some d, some r =>
    if dOp d ≠ 0x02 ∨ ¬ x.issued ∨ ¬ x.allDone ∨ ¬ y.maySignal d ∨ ¬ s.clocked t then s
    else
      let s1 := (s.traceTile t 3 (natLe 5 x.addr ++ natLe 1 (dBits d 4 44 42) ++ natLe 1 (b2n r))).traceTile t 1
        (descTrace x.addr x.space c 0x02)
      let s2 := s1.endSignal t c d
      if r then ((s2.dropShadow t c).modTile t (·.freeEngines c)).follow t c x.succ1
      else
        match x.shadow with
        | some h => s2.confirmShadow t c h
        | none => (s2.modTile t (·.freeEngines c)).follow t c x.succ0
  | _, _ => s

end Sys2Proof.Machine
end

