-- ==== Sys2Proof/Machine/Vector.lean ====
section
/-! DEFINITION. The vector engine (R107-R113, R117, R120, R124-R126): one iteration of each vector opcode. -/

namespace Sys2Proof.Machine

/-! Operands. -/

/-- A source of a vector descriptor stands in the operand cache or the finished-tile queue (R117, R120). -/
def vecSource (s : State) (e : Run) (o : Opnd) : Bool := o.space == 2 || (o.space == 3 && !s.hasPort e.l 6)

/-- A destination stands in the operand cache or tile memory (R117). -/
def vecDest (o : Opnd) : Bool := o.space == 1 || o.space == 2

/-- VEC_SPACE where an operand that the opcode uses stands elsewhere. TOPK writes its indices to B (R134). -/
def vecSpaces (e : Run) : It Unit := do
  let s ← get
  let i := vectorInfo (dOp e.d)
  need ((i.a == .no || vecSource s e (opA e.d)) && (i.b == .no || (if dOp e.d = 0x3D then vecDest (opB e.d) else vecSource s e (opB e.d))) &&
    vecDest (opD e.d)) 0x1D

/-- The elements of the first operand join the summary that the descriptor gathers (R124); the last iteration makes it ready. -/
def gatherSum (e : Run) (src : List Nat) (s : State) : State :=
  if dSumEn e.d then
    s.modTile e.t fun y =>
      let k := dSumSlot e.d
      let m := mapGet Summary.empty k y.sums
      let wide := src.map fun c => BitVec.ofNat 32 (encodeNum 2 Rnd.rne (decodeElem (opA e.d).elem c)).1
      let old := if e.j = 0 then [] else m.gathered
      { y with sums := mapPut Summary.empty k { m with gathered := old ++ wide, ready := e.j + 1 == dIters e.d } y.sums }
  else s

/-- Results of an iteration, each encoded once, with its flags (R77). A mark says that a NaN came from non-NaN inputs. -/
def encoded (e : Run) (enc : Rnd → Num → Nat × Nat) (vals : List (Num × Bool)) : List (Nat × Nat) :=
  vals.mapIdx fun i v =>
    let r := enc (rndOf e.mode (dSeed e.d) (e.j * (opD e.d).count + i)) v.1
    (r.1, r.2 ||| (if v.2 then fNanGen else 0))

/-- The flags of results. -/
def flagsOf (rs : List (Nat × Nat)) : Nat := rs.foldl (fun f r => f ||| r.2) 0

/-- Results as the bytes of D. -/
def packed (e : Run) (rs : List (Nat × Nat)) : Bytes := pack (elemBits (opD e.d).elem) (rs.map (·.1))

/-- NAN_TRAP: a conversion that calls for it sets its flags, and the exception suppresses its results (R77, R79, R80). -/
def trapNan (e : Run) (t fl : Nat) : It Unit :=
  if nanTraps e.mode fl then do
    modify fun s => s.modTile t (·.cvtFlags fl)
    fail 0x09
  else pure ()

/-- Write results, each encoded once; flags and NAN_TRAP (R77, R80, R108). -/
def emit (e : Run) (enc : Rnd → Num → Nat × Nat) (vals : List (Num × Bool)) : It (State → State) := do
  let rs := encoded e enc vals
  trapNan e e.t (flagsOf rs)
  let w ← writeOpnd e (opD e.d) (packed e rs)
  pure fun s => (w s).modTile e.t (·.cvtFlags (flagsOf rs))

/-- Codes of an operand's elements. -/
def readCodes (e : Run) (o : Opnd) : It (List Nat) := do
  let b ← readOpnd e o
  pure (codes o.elem b)

/-- Values of codes of an operand. -/
def valuesOf (o : Opnd) (l : List Nat) : List Num := l.map (decodeElem o.elem)

/-! Arithmetic and functions (R108-R110). -/

/-- An operation on one source. -/
def unaryBody (enc : Rnd → Num → Nat × Nat) (f : Num → Num × Bool) (e : Run) : It (State → State) := do
  vecSpaces e
  let a ← readCodes e (opA e.d)
  let w ← emit e enc ((valuesOf (opA e.d) a).map f)
  pure fun s => gatherSum e a (w s)

/-- An operation on two sources. -/
def binaryBody (f : Num → Num → Num × Bool) (e : Run) : It (State → State) := do
  vecSpaces e
  let a ← readCodes e (opA e.d)
  let b ← readCodes e (opB e.d)
  let w ← emit e (encodeNum (opD e.d).elem) (List.zipWith f (valuesOf (opA e.d) a) (valuesOf (opB e.d) b))
  pure fun s => gatherSum e a (w s)

/-- FMA: c is the prior content of D (R134). -/
def fmaBody (e : Run) : It (State → State) := do
  vecSpaces e
  let a ← readCodes e (opA e.d)
  let b ← readCodes e (opB e.d)
  let c ← readCodes e (opD e.d)
  let ab := (valuesOf (opA e.d) a).zip (valuesOf (opB e.d) b)
  let w ← emit e (encodeNum (opD e.d).elem) (List.zipWith (fun x z => x.1.fma x.2 z) ab (valuesOf (opD e.d) c))
  pure fun s => gatherSum e a (w s)

/-- One operation of FP32 result, rounded again where D is not FP32 (R110). -/
def functionBody (f : Num → Num × Bool) (e : Run) : It (State → State) := unaryBody (encodeFn (opD e.d).elem) f e

/-- A compare writes INT8 masks (R109). -/
def compareBody (f : Num → Num → Bool) (e : Run) : It (State → State) := do
  vecSpaces e
  let a ← readCodes e (opA e.d)
  let b ← readCodes e (opB e.d)
  let m := List.zipWith (fun x y => BitVec.ofNat 8 (b2n (f x y))) (valuesOf (opA e.d) a) (valuesOf (opB e.d) b)
  writeOpnd e (opD e.d) m

/-- An operand read as INT8 elements of its rows and columns. -/
def Opnd.asMask (o : Opnd) : Opnd := { o with fmt := 8 }

/-- SELECT (vector): the INT8 mask is the prior content of D, read as INT8 elements of D's rows and columns (R109, log entry 34). -/
def selectBody (e : Run) : It (State → State) := do
  vecSpaces e
  let a ← readCodes e (opA e.d)
  let b ← readCodes e (opB e.d)
  let m ← readOpnd e (opD e.d).asMask
  let ab := (valuesOf (opA e.d) a).zip (valuesOf (opB e.d) b)
  emit e (encodeNum (opD e.d).elem) (List.zipWith (fun x k => (if k = 0 then x.2 else x.1, false)) ab m)

/-! Conversion (R70, R76, R82). -/

/-- C of a scaled destination: supplied in its scale region in two-level mode, 1.0 in MX mode (R82). -/
def destCoarse (e : Run) (o : Opnd) : It Num := do
  if o.scale = 1 then
    let b ← readRuns e o.space [(e.region o, 4)]
    pure (decodeElem 2 (leNat b))
  else pure .one

/-- The elements of an iteration's rows by blocks of 32 of the whole operand, whose first column is `c0`: a block that begins before the
iteration, or ends after it, stands with the elements that the iteration has (log entry 74). Each with the position of its first. -/
def blocksOfRows (c0 cols : Nat) (v : List Num) : List (Nat × List Num) :=
  let lo := c0 % 32
  (List.range (v.length / max 1 cols)).flatMap fun r =>
    (List.range (ceilDiv (lo + cols) 32)).map fun k =>
      let a := 32 * k - lo
      (r * cols + a, ((v.drop (r * cols)).take cols |>.drop a).take (32 * (k + 1) - lo - a))

/-- CVT (R76, R82, R414). -/
def cvtBody (e : Run) : It (State → State) := do
  vecSpaces e
  let a := opA e.d
  let o := opD e.d
  let src ← readCodes e a
  let sc ← readScales e a
  let v := (valuesOf a src).mapIdx (e.scaled a sc)
  if o.scale = 0 then
    let w ← emit e (encodeNum o.elem) v
    pure fun s => gatherSum e src (w s)
  else
    let c ← destCoarse e o
    let bs := (blocksOfRows (o.grid e.d e.idx).col o.cols (v.map (·.1))).map fun b =>
      convertBlock o.elem o.scale (fun i => rndOf e.mode (dSeed e.d) (e.j * o.count + b.1 + i)) c b.2
    let fl := bs.foldl (fun f b => f ||| b.2.2) (if v.any (·.2) then fNanGen else 0)
    trapNan e e.t fl
    let w ← writeOpnd e o (pack (elemBits o.elem) (bs.flatMap (·.2.1)))
    let f ← writeRows e o.space (e.fineRuns o) (bs.map fun b => BitVec.ofNat 8 b.1)
    pure fun s => gatherSum e src ((f (w s)).modTile e.t (·.cvtFlags fl))

/-! Bits and GF(2^8) (R111, R112). -/

/-- A bytewise operation on one source. -/
def rawUnary (f : Bytes → Bytes) (e : Run) : It (State → State) := do
  vecSpaces e
  let a ← readOpnd e (opA e.d)
  writeOpnd e (opD e.d) (f a)

/-- A bytewise operation on two sources. -/
def rawBinary (f : Bytes → Bytes → Bytes) (e : Run) : It (State → State) := do
  vecSpaces e
  let a ← readOpnd e (opA e.d)
  let b ← readOpnd e (opB e.d)
  writeOpnd e (opD e.d) (f a b)

/-- Shift each element by an INT8 count modulo the element width. -/
def shiftBytes (elem : Nat) (left : Bool) (a b : Bytes) : Bytes :=
  let w := elemBits elem
  pack w (List.zipWith (fun c (n : Byte) =>
    let k := (n.toInt % (w : Int)).toNat
    if left then (c <<< k) % 2 ^ w else c >>> k) (codes elem a) b)

/-- GFMAC: d is the prior content of D (R134). -/
def gfmacBody (e : Run) : It (State → State) := do
  vecSpaces e
  let a ← readOpnd e (opA e.d)
  let d ← readOpnd e (opD e.d)
  writeOpnd e (opD e.d) (xorBytes d (gfScale (dImmBits e.d 7 0) a))

/-- GFINV: the inverse of 0 is 0 and sets GF_INV_ZERO. -/
def gfinvBody (e : Run) : It (State → State) := do
  vecSpaces e
  let a ← readOpnd e (opA e.d)
  let w ← writeOpnd e (opD e.d) (a.map fun x => BitVec.ofNat 8 (gfInv x.toNat))
  pure fun s => if a.contains 0 then (w s).modTile e.t (·.vecFlag 6) else w s

/-! TOPK (R113). -/

/-- `x` ranks above `y`: NaN, then values in order with +0 above -0. -/
def ranksAbove (x y : Num) : Bool := if x.isNan then !y.isNan else !y.isNan && y.ltZ x

/-- Insert an indexed value behind every value that is not below it. -/
def insertTop (x : Nat × Num) : List (Nat × Num) → List (Nat × Num)
  | [] => [x]
  | y :: l => if ranksAbove x.2 y.2 then x :: y :: l else y :: insertTop x l

/-- The `k` largest values with their indices, largest first, equal values lowest index first. -/
def topK (k : Nat) (v : List Num) : List (Nat × Num) := (v.zipIdx.foldl (fun l x => (insertTop (x.2, x.1) l).take k) [])

/-- TOPK: values to D, indices to B. -/
def topkBody (e : Run) : It (State → State) := do
  vecSpaces e
  let a ← readCodes e (opA e.d)
  let l := topK (dImmBits e.d 8 0) (valuesOf (opA e.d) a)
  let w ← emit e (encodeNum (opD e.d).elem) (l.map fun x => (x.2, false))
  let x ← writeOpnd e (opB e.d) (l.flatMap fun x => natLe 4 x.1)
  pure fun s => x (w s)

/-! Summaries (R124-R126). -/

/-- Fields of Table 5-5 over gathered FP32 codes. -/
def sumVals (l : List (BitVec 32)) : SumVals :=
  let v := l.map fun c => decodeElem 2 c.toNat
  let code (x : Num) : BitVec 32 := BitVec.ofNat 32 (encodeNum 2 Rnd.rne x).1
  let nums := v.filter fun x => !x.isNan
  let mx := nums.foldl (fun m x => if m.ltZ x then x else m) (.inf true)
  let mn := nums.foldl (fun m x => if x.ltZ m then x else m) (.inf false)
  let arg := (v.zipIdx.find? fun x => !x.1.isNan && !x.1.ltZ mx && !mx.ltZ x.1).map (·.2)
  { max := code mx, min := code mn, sum := code (v.foldl (fun a x => (a.add x).1) .zero),
    nz := BitVec.ofNat 32 (v.filter fun x => !x.isZero).length,
    argmax := match arg with | some i => BitVec.ofNat 32 i | none => 0xFFFFFFFF, anynan := v.any Num.isNan }

/-- SUMMARY_SLOT_WRITE: a slot whose gathering has ended takes its values (R125). -/
def State.summaryWrite (s : State) (t k : Nat) : State :=
  let m := mapGet Summary.empty k (s.tile t).sums
  if m.ready then
    s.modTile t fun y => { y with sums := mapPut Summary.empty k ⟨sumVals m.gathered, true, [], false⟩ y.sums }
  else s

/-- The 32 bytes of STSUM. -/
def Summary.bytes (m : Summary) : Bytes :=
  natLe 4 m.vals.max.toNat ++ natLe 4 m.vals.min.toNat ++ natLe 4 m.vals.sum.toNat ++ natLe 4 m.vals.nz.toNat ++
    natLe 4 m.vals.argmax.toNat ++ natLe 1 (b2n m.vals.anynan + 2 * b2n m.written) ++ zeros 11

/-- STSUM: waits for a slot whose write is due (R126, log entry 35). -/
def stsumBody (e : Run) : It (State → State) := do
  vecSpaces e
  let s ← get
  let m := mapGet Summary.empty (dSumSlot e.d) (s.tile e.t).sums
  if m.ready then throw .wait
  writeAt e (opD e.d).space (e.at (opD e.d)) m.bytes

/-! The commands. -/

/-- A total function as one that makes no NaN. -/
def quiet (f : Num → Num) (x : Num) : Num × Bool := (f x, false)

/-- Encode to the format of D. -/
def encD (e : Run) : Rnd → Num → Nat × Nat := encodeNum (opD e.d).elem

/-- Body of a vector opcode. -/
def vectorBody (op : Nat) (e : Run) : It (State → State) :=
  match op with
  | 0x20 => binaryBody Num.add e
  | 0x21 => binaryBody Num.sub e
  | 0x22 => binaryBody Num.mul e
  | 0x23 => fmaBody e
  | 0x24 => binaryBody (fun x y => (x.min y, false)) e
  | 0x25 => binaryBody (fun x y => (x.max y, false)) e
  | 0x26 => unaryBody (encD e) (quiet Num.abs) e
  | 0x27 => unaryBody (encD e) (quiet Num.negate) e
  | 0x28 => compareBody Num.eqv e
  | 0x29 => compareBody (fun x y => !x.eqv y) e
  | 0x2A => compareBody Num.lt e
  | 0x2B => compareBody (fun x y => x.lt y || x.eqv y) e
  | 0x2C => selectBody e
  | 0x2D => functionBody (quiet Num.exp2) e
  | 0x2E => functionBody Num.log2 e
  | 0x2F => functionBody (quiet Num.rcp) e
  | 0x30 => functionBody Num.rsqrt e
  | 0x31 => cvtBody e
  | 0x32 => rawBinary (List.zipWith (· &&& ·)) e
  | 0x33 => rawBinary (List.zipWith (· ||| ·)) e
  | 0x34 => rawBinary xorBytes e
  | 0x35 => rawUnary (List.map (~~~ ·)) e
  | 0x36 => rawBinary (shiftBytes (opA e.d).elem true) e
  | 0x37 => rawBinary (shiftBytes (opA e.d).elem false) e
  | 0x38 => rawUnary (fun b => pack (elemBits (opA e.d).elem) ((codes (opA e.d).elem b).map fun c => popcount c (elemBits (opA e.d).elem))) e
  | 0x39 => rawBinary (List.zipWith fun x y => BitVec.ofNat 8 (gfMul x.toNat y.toNat)) e
  | 0x3A => rawUnary (gfScale (dImmBits e.d 7 0)) e
  | 0x3B => gfmacBody e
  | 0x3C => gfinvBody e
  | 0x3D => topkBody e
  | _ => stsumBody e

/-- ADD (R108). -/
def execAdd (t c : Nat) (s : State) : Out := .next (s.iterate t c 0x20 (vectorBody 0x20))
/-- SUB (R108). -/
def execSub (t c : Nat) (s : State) : Out := .next (s.iterate t c 0x21 (vectorBody 0x21))
/-- MUL (R108). -/
def execMul (t c : Nat) (s : State) : Out := .next (s.iterate t c 0x22 (vectorBody 0x22))
/-- FMA (R108). -/
def execFma (t c : Nat) (s : State) : Out := .next (s.iterate t c 0x23 (vectorBody 0x23))
/-- MIN (R109). -/
def execMin (t c : Nat) (s : State) : Out := .next (s.iterate t c 0x24 (vectorBody 0x24))
/-- MAX (R109). -/
def execMax (t c : Nat) (s : State) : Out := .next (s.iterate t c 0x25 (vectorBody 0x25))
/-- ABS (R108). -/
def execAbs (t c : Nat) (s : State) : Out := .next (s.iterate t c 0x26 (vectorBody 0x26))
/-- NEG (R108). -/
def execNeg (t c : Nat) (s : State) : Out := .next (s.iterate t c 0x27 (vectorBody 0x27))
/-- CMPEQ (R109). -/
def execCmpeq (t c : Nat) (s : State) : Out := .next (s.iterate t c 0x28 (vectorBody 0x28))
/-- CMPNE (R109). -/
def execCmpne (t c : Nat) (s : State) : Out := .next (s.iterate t c 0x29 (vectorBody 0x29))
/-- CMPLT (R109). -/
def execCmplt (t c : Nat) (s : State) : Out := .next (s.iterate t c 0x2A (vectorBody 0x2A))
/-- CMPLE (R109). -/
def execCmple (t c : Nat) (s : State) : Out := .next (s.iterate t c 0x2B (vectorBody 0x2B))
/-- SELECT (vector) (R109). -/
def execSelectVector (t c : Nat) (s : State) : Out := .next (s.iterate t c 0x2C (vectorBody 0x2C))
/-- EXP2 (R110). -/
def execExp2 (t c : Nat) (s : State) : Out := .next (s.iterate t c 0x2D (vectorBody 0x2D))
/-- LOG2 (R110). -/
def execLog2 (t c : Nat) (s : State) : Out := .next (s.iterate t c 0x2E (vectorBody 0x2E))
/-- RCP (R110). -/
def execRcp (t c : Nat) (s : State) : Out := .next (s.iterate t c 0x2F (vectorBody 0x2F))
/-- RSQRT (R110). -/
def execRsqrt (t c : Nat) (s : State) : Out := .next (s.iterate t c 0x30 (vectorBody 0x30))
/-- CVT (R76). -/
def execCvt (t c : Nat) (s : State) : Out := .next (s.iterate t c 0x31 (vectorBody 0x31))
/-- AND (R111). -/
def execAnd (t c : Nat) (s : State) : Out := .next (s.iterate t c 0x32 (vectorBody 0x32))
/-- OR (R111). -/
def execOr (t c : Nat) (s : State) : Out := .next (s.iterate t c 0x33 (vectorBody 0x33))
/-- XOR (R111). -/
def execXor (t c : Nat) (s : State) : Out := .next (s.iterate t c 0x34 (vectorBody 0x34))
/-- NOT (R111). -/
def execNot (t c : Nat) (s : State) : Out := .next (s.iterate t c 0x35 (vectorBody 0x35))
/-- SHL (R111). -/
def execShl (t c : Nat) (s : State) : Out := .next (s.iterate t c 0x36 (vectorBody 0x36))
/-- SHR (R111). -/
def execShr (t c : Nat) (s : State) : Out := .next (s.iterate t c 0x37 (vectorBody 0x37))
/-- POPCNT (R111). -/
def execPopcnt (t c : Nat) (s : State) : Out := .next (s.iterate t c 0x38 (vectorBody 0x38))
/-- GFMUL (R112). -/
def execGfmul (t c : Nat) (s : State) : Out := .next (s.iterate t c 0x39 (vectorBody 0x39))
/-- GFMULC (R112). -/
def execGfmulc (t c : Nat) (s : State) : Out := .next (s.iterate t c 0x3A (vectorBody 0x3A))
/-- GFMAC (R112). -/
def execGfmac (t c : Nat) (s : State) : Out := .next (s.iterate t c 0x3B (vectorBody 0x3B))
/-- GFINV (R112). -/
def execGfinv (t c : Nat) (s : State) : Out := .next (s.iterate t c 0x3C (vectorBody 0x3C))
/-- TOPK (R113). -/
def execTopk (t c : Nat) (s : State) : Out := .next (s.iterate t c 0x3D (vectorBody 0x3D))
/-- STSUM (R126). -/
def execStsum (t c : Nat) (s : State) : Out := .next (s.iterate t c 0x3E (vectorBody 0x3E))
/-- SUMMARY_SLOT_WRITE (R125). -/
def execSummarySlotWrite (t slot : Nat) (s : State) : Out := .next (s.summaryWrite t slot)

end Sys2Proof.Machine
end

