-- ==== Sys2Proof/Machine/Moves.lean ====
section
/-! DEFINITION. The move engine (R114-R119, R134): one iteration of COPY and FILL, and fills and write-backs of the operand cache,
which hold their lines BUSY from one command to the next. -/

namespace Sys2Proof.Machine

/-- COPY: bytes move as they are between equal formats; other formats convert with one rounding (R76). -/
def copyBody (e : Run) : It (State → State) := do
  let a := opA e.d
  let o := opD e.d
  if a.fmt = o.fmt then
    let b ← readOpnd e a
    writeOpnd e o b
  else
    let src ← readCodes e a
    emit e (encodeNum o.elem) ((valuesOf a src).map fun x => (x, false))

/-- `n` bytes of a repeated 32-bit pattern. -/
def patternBytes (w n : Nat) : Bytes := (List.range n).map fun i => BitVec.ofNat 8 (w >>> (8 * (i % 4)))

/-- FILL (Table 6-6). -/
def fillBody (e : Run) : It (State → State) := writeOpnd e (opD e.d) (patternBytes (dImm e.d) (opD e.d).bytes)

/-- Lines that D names in this iteration (Table 6-6, R117). -/
def namedLines (e : Run) : It (List Nat) := do
  let o := opD e.d
  need (o.space == 2) 0x1D
  let a := e.at o
  need (decide (0 ≤ a)) 0x05
  need (decide (a + o.bytes ≤ cacheBytes)) 0x1B
  need (decide (a % 512 = 0)) 0x02
  pure (linesOf a.toNat o.bytes)

/-- The command has begun a fill or write-back, which goes on with the next one; it fills lines `ls`. -/
def beginLines (e : Run) (ls : List Nat) (f : Tile → Tile) : It (State → State) := do
  if e.spec then pure id
  else
    modify fun s => (s.modTile e.t f).modCtx e.t e.c fun x => { x with part := 1, seenAt := 0, fills := x.fills ++ ls }
    throw .hold

/-- A line takes its 512 bytes: one that is still BUSY with its tag; one that a consume has taken meanwhile only where nothing has been
written since (R115, R119). -/
def Tile.fillLine (t : Tile) (i tag : Nat) (data : Bytes) : Tile :=
  let x := t.line i
  if x.st = .busy then (t.putOc (512 * i) data).withLine i ⟨.valid, some tag, []⟩
  else if x.fed.isEmpty then t
  else (forEach ((List.range 8).filter fun g => !x.fed.contains g) (fun g y => y.putOc (512 * i + 64 * g) (slice data (64 * g) 64)) t).withLine i
    { x with fed := [] }

/-- OCLOAD accepts a tile-memory source at 512 B boundaries: its first byte, and each row where rows do not follow each other (R115; log
entry 76). -/
def ocSource (e : Run) (a : Opnd) : Bool := a.space == 1 && decide (e.at a % 512 = 0) && (a.solid || a.stride % 512 == 0)

/-- Address that byte `n` of a source's rows comes from. -/
def sourceAt (e : Run) (a : Opnd) (n : Nat) : Nat := (e.at a).toNat + n / max 1 a.rowBytes * a.pitch + n % max 1 a.rowBytes

/-- OCLOAD: lines that are not BUSY since its issue go BUSY, then all take their data (R115). -/
def ocloadBody (e : Run) : It (State → State) := do
  let a := opA e.d
  need (ocSource e a) 0x1D
  let ls ← namedLines e
  let s ← get
  let y := s.tile e.t
  let own := (y.ctx e.c).fills
  if (y.ctx e.c).part = 0 then
    let new := ls.filter fun i => !own.contains i
    need (new.all fun i => (y.line i).st != .busy && (y.line i).st != .dirty) 0x19
    discard (readTileRuns e (e.rows a))
    beginLines e new fun y => y.busyLines new
  else
    let data ← readTileRuns e (e.rows a)
    pure fun s =>
      ((s.modTile e.t fun y => forEach ls.zipIdx (fun x y => y.fillLine x.1 (sourceAt e a (512 * x.2)) (slice data (512 * x.2) 512)) y).modCtx
        e.t e.c fun x => { x with fills := x.fills.filter fun i => !ls.contains i }).tileCount e.t 0x09 ls.length

/-- A write-back ends: the bytes go to the tag address; the line is INVALID, or, where a lattice consume has taken it, VALID with
no tag. -/
def Tile.writeBack (t : Tile) (i : Nat) : Tile :=
  match (t.line i).tag with
  | none => t
  | some a =>
    let y := t.writeMem a (t.readOc (512 * i) 512)
    if (t.line i).st = .busy then y.withLine i OcLine.empty else y.withLine i { t.line i with tag := none, fed := [] }

/-- OCEVICT: discard at once; or write back DIRTY lines, held BUSY meanwhile (R116). -/
def ocevictBody (e : Run) : It (State → State) := do
  let ls ← namedLines e
  let s ← get
  let y := s.tile e.t
  if (y.ctx e.c).part = 0 then
    need (ls.all fun i => (y.line i).st != .busy) 0x19
    if dSubop e.d = 1 then pure fun s => s.modTile e.t fun y => forEach ls (fun i y => y.withLine i OcLine.empty) y
    else
      let dirty := ls.filter fun i => (y.line i).st == .dirty
      need (dirty.all fun i => (y.line i).tag.isSome) 0x1A
      canWrite e 1 (dirty.map fun i => ((((y.line i).tag.getD 0 : Nat) : Int), 512))
      match y.ocBad.find? fun b => dirty.contains (b / 512) with
      | some b =>
        modify fun s => s.modTile e.t (·.spoil (b / 512))
        fail 0x1C
      | none =>
        beginLines e [] fun y => forEach ls (fun i y =>
          if (y.line i).st = .dirty then y.withLine i { y.line i with st := .busy } else y.withLine i OcLine.empty) y
  else pure fun s => s.modTile e.t fun y => forEach ls (fun i y => y.writeBack i) y

/-- COPY (R134). -/
def execCopy (t c : Nat) (s : State) : Out := .next (s.iterate t c 0x50 copyBody)
/-- FILL (R134). -/
def execFill (t c : Nat) (s : State) : Out := .next (s.iterate t c 0x51 fillBody)
/-- OCLOAD (R115). -/
def execOcload (t c : Nat) (s : State) : Out := .next (s.iterate t c 0x52 ocloadBody)
/-- OCEVICT (R116). -/
def execOcevict (t c : Nat) (s : State) : Out := .next (s.iterate t c 0x53 ocevictBody)

end Sys2Proof.Machine
end

