-- ==== Sys2Proof/Machine/Gang.lean ====
section
/-! DEFINITION. Matrix descriptors: MMA on a gang (R83-R95, R100, R102, R105, R120, R122; log entries 26, 33) and PRUNE (R101). -/

namespace Sys2Proof.Machine

/-! Members. -/

/-- Gang record and side of an origin's gang. -/
def State.gangRec (s : State) (l : Nat) : Nat := (s.gangOf l).getD 0

/-- The run of a matrix descriptor as member (row, column) of its gang makes it. -/
def State.memberOf (s : State) (e : Run) (row col : Nat) : Run :=
  let l := gangTile (e.l / 2048) (s.gangRec e.l) row col
  { e with l := l, t := s.phys l }

/-- Members by gang row. -/
def State.gangRows (s : State) (e : Run) : List (List Run) :=
  let g := gangSide (s.gangRec e.l)
  (List.range g).map fun i => (List.range g).map fun j => s.memberOf e i j

/-- A member that is retired, fenced or in reset stops the gang (R105). -/
def State.memberLost (s : State) (t : Nat) : Bool :=
  !s.active t || s.blockDead (physBlock t) || s.dieFenced (t / 2304) || (s.die (t / 2304)).inReset || s.tileInReset t

/-! What a member takes of the operands (R83, R86, R92, R100). -/

/-- K indices that a gang row takes of a pass: 16, or 32 where the pass is doubly structured; all where the operand is unstructured. -/
def passK (d : Bytes) : Nat := match (opB d).sparse with | 0 => 16 | 1 => 32 | _ => (opA d).cols

/-- K indices of gang row `i`: beyond K the operand is padded with zero weights. -/
def rowK (d : Bytes) (i : Nat) : Nat := min (passK d) ((opA d).cols - passK d * i)

/-- Output columns of gang column `j`: columns beyond N are not written. -/
def colN (d : Bytes) (j : Nat) : Nat := if (opB d).sparse = 2 then dCols d else min 16 (dCols d - 16 * j)

/-- The part of the moving operand that gang row `i` reads. -/
def shareA (d : Bytes) (i : Nat) : Opnd := { opA d with cols := rowK d i }

/-- The part of the stationary operand that member (i, j) loads from its own tile memory. -/
def shareB (d : Bytes) (i j : Nat) : Opnd :=
  let o := opB d
  if o.sparse = 2 then o else if rowK d i = 0 ∨ colN d j = 0 then { o with rows := 0, cols := 0 } else { o with rows := rowK d i, cols := colN d j }

/-- K_LEVEL; none for a single pass. -/
def kLevel (d : Bytes) : Option Nat := if dImmBits d 2 0 = 7 then none else some (dImmBits d 2 0)

/-- First, last: where iteration indices stand among the K-passes. -/
def passEnds (d : Bytes) (idx : List Nat) : Bool × Bool :=
  match kLevel d with
  | none => (true, true)
  | some l => (nth idx l 0 == 0, nth idx l 0 == dCount d l)

/-- Number of the output block among those that stand between two K-passes. -/
def heldBlock (d : Bytes) (j : Nat) : Nat :=
  match kLevel d with
  | none => 0
  | some l => j % (List.range l).foldl (fun p i => p * (dCount d i + 1)) 1

/-- Number of an operand's block in the nest, by the levels that move it and are no K-passes. -/
def blockNo (d : Bytes) (o : Opnd) (idx : List Nat) : Nat :=
  ((List.range 6).foldl (fun (r : Nat × Nat) l =>
    if kLevel d ≠ some l ∧ nth o.incs l 0 ≠ 0 then (r.1 + nth idx l 0 * r.2, r.2 * (dCount d l + 1)) else r) (0, 1)).1

/-- K-passes of the nest, and the pass of an iteration. -/
def passNo (d : Bytes) (idx : List Nat) : Nat × Nat :=
  match kLevel d with
  | none => (1, 0)
  | some l => (dCount d l + 1, nth idx l 0)

/-- The place of gang row `i` along K of the whole operand, with line `r` of the block in front: the grid of its fine scales (R70, R71, R74; log
entry 74). -/
def kGrid (d : Bytes) (idx : List Nat) (side i r : Nat) : Grid :=
  let w := passK d * side
  ⟨r, w * (passNo d idx).2 + passK d * i, ceilDiv (w * ((passNo d idx).1 - 1) + (opA d).cols) 32⟩

/-! Stationary operand. -/

/-- The weights of a member: by output column, the (k, element) pairs that its cells hold; fine scales of each column's blocks. -/
structure Weights where
  cols : List (List (Nat × Elt))
  fine : List Num
  grid : Grid
  /-- First 64 B boundary after the operand. -/
  region : Int
  deriving DecidableEq, Repr

/-- No weights. -/
def Weights.empty : Weights := ⟨[], [], ⟨0, 0, 0⟩, 0⟩

/-- Fine scales of a scaled operand of the gang. -/
def readFine (e : Run) (o : Opnd) (cells : List (Int × Nat)) : It (List Num) := do
  if (o.scale = 1 ∨ o.scale = 2) ∧ o.rows ≠ 0 then
    let b ← readTileRuns e cells
    pure (b.map fun x => decodeElem (fineElem o.scale) x.toNat)
  else pure []

/-- Dense K × N weights. -/
def readDense (e : Run) (o : Opnd) (g : Grid) : It Weights := do
  let b ← readTileRuns e (e.rows o)
  let c := codes o.elem b
  let f ← readFine e o (g.cells (e.region o) o.cols o.rows)
  pure ⟨(List.range o.cols).map fun n => (List.range o.rows).map fun k => (k, eltOf o.elem (nth c (k * o.cols + n) 0)), f, g, e.region o⟩

/-- A doubly structured block: its bitmap, SPARSE_PATTERN where it breaks R99, and the slots that its set bits occupy; padding is not read
(R97). -/
def readBlock (e : Run) (elem : Nat) (a : Int) : It (List (Nat × Nat)) := do
  let h ← readTileRuns e [(a, 8)]
  need (blockStructured (leNat h)) 0x11
  let v ← readTileRuns e [(a + 8, ceilDiv (popcount (leNat h) 64 * elemBits elem) 8)]
  pure (blockValues elem (leNat h) v)

/-- `n` doubly structured blocks from an address on. -/
def readBlocks (e : Run) (elem : Nat) : Nat → Int → It (List (List (Nat × Nat)))
  | 0, _ => pure []
  | n + 1, a => do
    let b ← readBlock e elem a
    let l ← readBlocks e elem n (a + blockBytes elem)
    pure (b :: l)

/-- Doubly structured K × N weights (R97, R99). -/
def readDoubly (e : Run) (o : Opnd) (g : Grid) : It Weights := do
  let gn := o.cols / 8
  let total := o.rows / 8 * gn
  let bl ← readBlocks e o.elem total (e.at o)
  let r := o.region e.d e.args (total * blockBytes o.elem)
  let f ← readFine e o (g.cells r o.cols o.rows)
  let col (n : Nat) : List (Nat × Elt) := (List.range (o.rows / 8)).flatMap fun bi =>
    ((nth bl (bi * gn + n / 8) []).filter fun x => x.1 % 8 == n % 8).map fun x => (8 * bi + x.1 / 8, eltOf o.elem x.2)
  pure ⟨(List.range o.cols).map col, f, g, r⟩

/-- Blocks of one strip of an unstructured operand, and where the strip ends: a block's values are padded to 8 B (R98). -/
def readStrip (e : Run) (elem : Nat) : Nat → Int → It (List (List (Nat × Nat)) × Int)
  | 0, a => pure ([], a)
  | n + 1, a => do
    let h ← readTileRuns e [(a, 8)]
    let bm := leNat h
    let len := ceilDiv (popcount bm 64 * elemBits elem) 8
    let v ← readTileRuns e [(a + 8, len)]
    let r ← readStrip e elem n (a + 8 + (ceilDiv len 8 * 8 : Nat))
    pure (blockValues elem bm v :: r.1, r.2)

/-- Strips of an unstructured operand, by the strip table. -/
def readStrips (e : Run) (o : Opnd) (table : Bytes) : Nat → It (List (List (List (Nat × Nat))) × Int)
  | 0 => pure ([], e.at o)
  | n + 1 => do
    let l ← readStrips e o table n
    let r ← readStrip e o.elem (o.cols / 8) (e.at o + (rdLe table (4 * n) 4 : Int))
    pure (l.1 ++ [r.1], max l.2 r.2)

/-- Unstructured N × K weights (R98): row `i` of the operand is output column `i`. Its scale region follows the last strip of the iteration
(log entry 74). -/
def readUnstructured (e : Run) (o : Opnd) : It Weights := do
  let strips := o.rows / 8
  let table ← readTileRuns e [(e.at o, 4 * strips)]
  let l ← readStrips e o table strips
  let r := up64 l.2
  let g : Grid := ⟨0, 0, ceilDiv o.cols 32⟩
  let f ← readFine e o (g.cells r o.rows o.cols)
  let row (i : Nat) : List (Nat × Elt) := ((nth l.1 (i / 8) []).zipIdx).flatMap fun x =>
    (x.1.filter fun p => p.1 / 8 == i % 8).map fun p => (8 * x.2 + p.1 % 8, eltOf o.elem p.2)
  pure ⟨(List.range o.rows).map row, f, g, r⟩

/-- The weights of member (i, j), which its run reads. -/
def readWeights (side i : Nat) (x : Run × Nat) : It Weights :=
  let o := shareB x.1.d i x.2
  let g := kGrid x.1.d x.1.idx side i (dCols x.1.d * blockNo x.1.d o x.1.idx + 16 * x.2)
  match o.sparse with
  | 0 => readDense x.1 o g
  | 1 => readDoubly x.1 o g
  | _ => readUnstructured x.1 o

/-- Weights of every member, by gang row, from row `i` on. -/
def readAllWeights (side : Nat) : Nat → List (List Run) → It (List (List Weights))
  | _, [] => pure []
  | i, r :: rs => do
    let w ← r.zipIdx.mapM (readWeights side i)
    let l ← readAllWeights side (i + 1) rs
    pure (w :: l)

/-- Per-column scales s_n of south member `j` (R72): those of its columns in the whole operand. -/
def readChannel (x : (Run × Nat) × Weights) : It (List Num) := do
  let o := opB x.1.1.d
  let w := x.2
  if o.scale = 3 ∧ w.cols.length ≠ 0 then
    let size := if bit o.fmt 6 then 2 else 4
    let b ← readTileRuns x.1.1 [(w.region + ((w.grid.row * size : Nat) : Int), w.cols.length * size)]
    pure ((unpack (8 * size) b).map (decodeElem (if bit o.fmt 6 then 0 else 2)))
  else pure []

/-! Moving operand. -/

/-- The activations of a gang row: elements row-major, `k` to a row, fine scales, coarse scale, and the bytes taken from the port of KIND 3. -/
structure Moving where
  elts : List Elt
  k : Nat
  fine : List Num
  grid : Grid
  coarse : Num
  taken : Nat
  deriving DecidableEq, Repr

/-- No activations. -/
def Moving.empty : Moving := ⟨[], 0, [], ⟨0, 0, 0⟩, .one, 0⟩

/-- Bytes of an operand in a stream: the elements, then, where it has scale blocks, its region with `n` fine scales from the next 64 B on (R71). -/
def streamedBytes (o : Opnd) (n : Nat) : Nat := if o.scale = 0 then o.bytes else ceilDiv o.bytes 64 * 64 + 64 + ceilDiv n 64 * 64

/-- C and the fine scales of a streamed operand. -/
def streamedScales (o : Opnd) (n : Nat) (b : Bytes) : Scales :=
  let r := ceilDiv o.bytes 64 * 64
  ⟨if o.scale = 1 then decodeElem 2 (rdLe b r 4) else .one,
    if o.scale = 0 then [] else (slice b (r + 64) n).map fun x => decodeElem (fineElem o.scale) x.toNat⟩

/-- The moving operand of the member of gang column 0 in gang row `i` (R86): its tile memory, or the port of KIND 3. -/
def readMoving (side : Nat) (x : Run × Nat) : It Moving := do
  let e := x.1
  let o := shareA e.d x.2
  if o.cols = 0 then pure Moving.empty
  else if o.space = 1 then
    let b ← readTileRuns e (e.rows o)
    let g := kGrid e.d e.idx side x.2 (o.rows * blockNo e.d o e.idx)
    let f ← readFine e o (g.cells (e.region o) o.rows o.cols)
    let c ← if o.scale = 1 then readTileRuns e [(e.region o, 4)] else pure []
    pure ⟨(codes o.elem b).map (eltOf o.elem), o.cols, f, g, if o.scale = 1 then decodeElem 2 (leNat c) else .one, 0⟩
  else
    let s ← get
    need (s.portKind e.l o.base == 3) 0x02
    let fines := o.rows * ceilDiv o.cols 32
    let n := streamedBytes o fines
    let w := (s.tile e.t).westIn
    if w.length < n then throw .wait
    let sc := streamedScales o fines w
    pure ⟨(codes o.elem (w.take o.bytes)).map (eltOf o.elem), o.cols, sc.fine, ⟨0, 0, ceilDiv o.cols 32⟩, sc.coarse, n⟩

/-! One pass. -/

/-- Accumulation of the formats of A and B (R90, R93). -/
def gangKindOf (d : Bytes) : GangKind :=
  let a := opA d
  let b := opB d
  if intOperand a && intOperand b then .int else if a.elem ≤ 2 ∨ b.elem ≤ 2 then .wide else .narrow

/-- A scale of a list; 1.0 where the operand has none. -/
def scaleAt (l : List Num) (i : Nat) : Num := nth l i .one

/-- What a pass works on. -/
structure Pass where
  kind : GangKind
  moving : List Moving
  weights : List (List Weights)
  sparse : Nat
  deriving DecidableEq, Repr

/-- Carry out of one member for output (m, n) of its column. -/
def Pass.memberStep (p : Pass) (mv : Moving) (w : Weights) (m n : Nat) (c : Num) : Num × Nat :=
  let col := nth w.cols n []
  let el (k : Nat) : Elt := nth mv.elts (m * mv.k + k) ⟨.zero, .zero⟩
  let f (k : Nat) : Num := ((scaleAt mv.fine (mv.grid.number mv.k m k)).mul (scaleAt w.fine (w.grid.number mv.k n k))).1
  if p.sparse = 2 then rowCarry p.kind c (col.map fun x => ((eltMul (el x.1) x.2).mul (f x.1)).1)
  else memberCarry p.kind (f 0) c (col.map fun x => eltMul (el x.1) x.2)

/-- Carry out of the south member of gang column `jc`, down the gang rows from c_in (R90). -/
def Pass.output (p : Pass) (jc m n : Nat) (cin : Num) : Num × Nat :=
  (p.moving.zip p.weights).foldl (fun r x =>
    let y := p.memberStep x.1 (nth x.2 jc Weights.empty) m n r.1
    (y.1, r.2 ||| y.2)) (cin, 0)

/-! K-passes and held partials (R92). -/

/-- Where the held partials of south member `j` stand in its tile memory for an iteration: the port of KIND 5 (log entry 26). -/
def heldRun (d : Bytes) (it j : Nat) : Int × Nat :=
  let n := (opA d).rows * colN d j
  (((8 * heldBlock d it * n : Nat) : Int), 8 * n)

/-- Held partials of a south member, in a pass that is not the first. -/
def readHeld (x : Run × Nat) : It Bytes :=
  if (passEnds x.1.d x.1.idx).1 then pure [] else readTileRuns x.1 [heldRun x.1.d x.1.j x.2]

/-- Everything one iteration of MMA needs. -/
structure MmaRun where
  pass : Pass
  rows : List (List Run)
  /-- South members that write outputs, with their gang columns. -/
  south : List (Run × Nat)
  /-- C_A and C_B. -/
  scales : List Num
  channel : List (List Num)
  held : List Bytes
  deriving DecidableEq, Repr

/-- One output of an iteration: its carry or held partial and flags, before conversion. -/
structure OutVal where
  jc : Nat
  m : Nat
  n : Nat
  v : Num
  flags : Nat
  deriving DecidableEq, Repr

/-- Output (m, n) of a south member, with carry-in and held partial. -/
def MmaRun.value (x : MmaRun) (e : Run) (top : Tile) (jc m n : Nat) : OutVal :=
  let p := x.pass
  let ends := passEnds e.d e.idx
  let i := m * colN e.d jc + n
  let r := p.output jc m n (if ends.1 ∧ bit (dImm e.d) 3 then wordPart p.kind (rdLe top.carryIn (8 * i) 8) else .zero)
  if ends.1 then ⟨jc, m, n, r.1, r.2⟩
  else
    let y := closeSumTo p.kind ((wordPart p.kind (rdLe (nth x.held jc []) (8 * i) 8)).add r.1).1
    ⟨jc, m, n, y.1, r.2 ||| y.2⟩

/-- All outputs of an iteration, row-major, by south member. -/
def mmaOutputs (x : MmaRun) (e : Run) (s : State) : List (Run × List OutVal) :=
  x.south.map fun r =>
    let top := s.tile (nth (nth x.rows 0 []) r.2 e).t
    (r.1, (List.range (opA e.d).rows).flatMap fun m => (List.range (colN e.d r.2)).map fun n => x.value e top r.2 m n)

/-- The outputs of one 16-row, 16-column unit. -/
def mmaUnit (all : List (Run × List OutVal)) (mg ng : Nat) : List (Run × List OutVal) :=
  all.map fun r => (r.1, r.2.filter fun o => o.m / 16 == mg && o.n / 16 == ng)

/-- The element of D that an output becomes, with conversion flags (R74 step 5, R81, R92). -/
def convertOut (x : MmaRun) (e : Run) (o : OutVal) : Nat × Nat :=
  let d := opD e.d
  let v := Num.product ([o.v, scaleAt (nth x.channel o.jc []) o.n] ++ x.scales)
  let i := e.j * d.count + o.m * d.cols + 16 * o.jc + o.n
  let r := encodeNum d.elem (rndOf e.mode (dSeed e.d) i) v.1
  (r.1, r.2 ||| (if v.2 then fNanGen else 0))

/-- A finished tile of outputs; elements that are not written hold free values (log entry 33). -/
def finishedTile (elem n0 : Nat) (free : Bytes) (l : List (OutVal × Nat)) : FtqEntry :=
  let w := elemBits elem / 8
  ⟨elem, l.foldl (fun b x => splice b (((x.1.m % 16) * 16 + (x.1.n - n0)) * w) (natLe w x.2)) (free.take (256 * w)), true⟩

/-- The held partials of an iteration go to the south members' tile memories (R92, R93). -/
def storeHeld (x : MmaRun) (e : Run) (all : List (Run × List OutVal)) (s : State) : State :=
  if (kLevel e.d).isSome then
    forEach (x.south.zip all) (fun r s => s.modTile r.1.1.t fun y =>
      y.writeMem (heldRun e.d e.j r.1.2).1.toNat (r.2.2.flatMap fun o => natLe 8 (partWord x.pass.kind o.v).toNat)) s
  else s

/-- Flags of outputs. -/
def outFlags (l : List (Run × List OutVal)) : Nat := l.foldl (fun f r => r.2.foldl (fun f o => f ||| o.flags) f) 0

/-- Conversions of outputs, by south member. -/
def mmaConvert (x : MmaRun) (e : Run) (l : List (Run × List OutVal)) : List (Run × List (OutVal × Nat × Nat)) :=
  l.map fun r => (r.1, r.2.map fun o => (o, convertOut x e o))

/-- Conversion flags of a south member's outputs. -/
def convertFlags (l : List (OutVal × Nat × Nat)) : Nat := l.foldl (fun f y => f ||| y.2.2) 0

/-- Deliver a unit: finished tiles in the queues of the south members, flags (R80, R92, R94). -/
def deliverUnit (x : MmaRun) (e : Run) (ng : Nat) (l : List (Run × List OutVal)) (s : State) : State :=
  let s1 := s.modTile e.t (·.mtxFlags (outFlags l))
  if (passEnds e.d e.idx).2 then
    forEach (mmaConvert x e l) (fun r s =>
      let whole := r.2.length == 256
      let free := if whole then zeros 1024 else s.freeBytes 1024
      let q := finishedTile (opD e.d).elem (16 * ng) free (r.2.map fun y => (y.1, y.2.1))
      let s' := if whole then s else s.useFreeN 1024
      s'.modTile r.1.t fun y => { y with ftq := y.ftq ++ [q] }.cvtFlags (convertFlags r.2)) s1
  else s1

/-- The queue of a south member is full: FTQ_STALLED there, and the gang holds before unit `i` (R122). -/
def State.holdGang (s : State) (e : Run) (south : List (Run × Nat)) (i : Nat) : State :=
  let full := south.filter fun r => 8 ≤ (s.tile r.1.t).ftq.length
  let s1 := forEach full (fun r s => (s.modTile r.1.t (·.vecFlag 5)).traceTile r.1.t 5 (natLe 1 1 ++ natLe 1 8)) s
  (s1.modTile e.t fun y => { y with gangHeld := true }).modCtx e.home e.c fun y => { y with part := i }

/-- Deliver the units of a pass from number `i` on, as far as the queues take them (R120, R122). -/
def deliverFrom (x : MmaRun) (e : Run) (all : List (Run × List OutVal)) (ngs : Nat) : Nat → Nat → It Unit
  | 0, _ => pure ()
  | n + 1, i => do
    let s ← get
    if (passEnds e.d e.idx).2 && x.south.any fun r => decide (8 ≤ (s.tile r.1.t).ftq.length) then
      modify fun s => s.holdGang e x.south i
      holdOn e
    else
      modify (deliverUnit x e (i % ngs) (mmaUnit all (i / ngs) (i % ngs)))
      deliverFrom x e all ngs n (i + 1)

/-- Bytes that an iteration has taken from the ports of KIND 3 and 4 leave them. -/
def takeStreams (x : MmaRun) (e : Run) (s : State) : State :=
  let s1 := forEach (x.rows.zip x.pass.moving) (fun r s =>
    match r.1.head? with
    | some m => s.modTile m.t fun y => { y with westIn := y.westIn.drop r.2.taken }
    | none => s) s
  if (passEnds e.d e.idx).1 ∧ bit (dImm e.d) 3 then
    forEach (nth x.rows 0 []).zipIdx (fun m s => s.modTile m.1.t fun y =>
      { y with carryIn := y.carryIn.drop (8 * (opA e.d).rows * colN e.d m.2) }) s1
  else s1

/-- Read the operands of every member. The coarse scales come from the origin's regions, s_n from the south members'. -/
def mmaRead (e : Run) (rows : List (List Run)) : It MmaRun := do
  let side := rows.length
  let ws ← readAllWeights side 0 rows
  let mv ← ((rows.map fun r => r.headD e).zipIdx).mapM (readMoving side)
  let o := opB e.d
  let w0 := nth (nth ws 0 []) 0 Weights.empty
  let cb ← if o.scale = 1 then readTileRuns e [(w0.region, 4)] else pure []
  let last := (nth rows (side - 1) []).zipIdx
  let ch ← (last.zip (nth ws (side - 1) [])).mapM readChannel
  let south := last.filter fun r => colN e.d r.2 != 0
  let held ← south.mapM readHeld
  pure ⟨⟨gangKindOf e.d, mv, ws, o.sparse⟩, rows, south,
    [(mv.headD Moving.empty).coarse, if o.scale = 1 then decodeElem 2 (leNat cb) else .one], ch, held⟩

/-- The uses of the KIND 5 port of south members start anew. -/
def resetHeldPorts (rows : List (List Run)) (s : State) : State :=
  forEach (nth rows (rows.length - 1) []) (fun r s =>
    match s.findPort r.l 5 with
    | some p => s.modTile r.t fun y => { y with portUse := mapPut 0 p 0 y.portUse }
    | none => s) s

/-- NAN_TRAP at output conversion: the south members set their flags (R77, R79, R80). -/
def trapOutputs (e : Run) (l : List (Run × List (OutVal × Nat × Nat))) : It Unit :=
  if l.any fun r => nanTraps e.mode (convertFlags r.2) then do
    modify (forEach l fun r s => s.modTile r.1.t (·.cvtFlags (convertFlags r.2)))
    fail 0x09
  else pure ()

/-- One iteration of MMA: one pass of M activation rows on the gang (R86-R95). -/
def mmaBody (e : Run) : It (State → State) := do
  let s ← get
  let rows := s.gangRows e
  need (!rows.any fun r => r.any fun m => s.memberLost m.t) 0x12
  if (s.tile e.t).gangHeld || rows.any fun r => r.any fun m => !s.mayRun m.t then throw .wait
  if e.spec then
    discard (readAllWeights rows.length 0 rows)
    pure id
  else
    let x ← mmaRead e rows
    let m := (opA e.d).rows
    let ends := passEnds e.d e.idx
    if (ends.1 ∧ bit (dImm e.d) 3) ∧ x.south.any fun r => (s.tile (nth (nth rows 0 []) r.2 e).t).carryIn.length < 8 * m * colN e.d r.2 then
      throw .wait
    if (kLevel e.d).isSome then discard (x.south.mapM fun r => canWrite r.1 1 [heldRun e.d e.j r.2])
    let all := mmaOutputs x e s
    let ngs := if (opB e.d).sparse = 2 then max 1 (ceilDiv (dCols e.d) 16) else 1
    let units := ceilDiv m 16 * ngs
    let from_ := (s.ctx e.home e.c).part
    if ends.2 then
      trapOutputs e (mmaConvert x e (all.map fun r => (r.1, r.2.filter fun o => from_ ≤ o.m / 16 * ngs + o.n / 16)))
    if e.j = 0 ∧ from_ = 0 then modify (resetHeldPorts rows)
    deliverFrom x e all ngs (units - from_) from_
    pure fun s => (storeHeld x e all (takeStreams x e s)).modTile e.t fun y => { y with staged := false }

/-- MMA (R86). -/
def execMma (t c : Nat) (s : State) : Out := .next (s.iterate t c 0x10 mmaBody)

/-- The descriptor that runs on the gang of an origin. -/
def State.gangDesc (s : State) (t : Nat) : Bytes :=
  match ((s.tile t).engine .gang).head? with
  | some c => ((s.ctx t c).desc).getD []
  | none => []

/-- GANG_RESUME: a held gang goes on once the queue of every south member that writes outputs has room (R122). -/
def State.gangResume (s : State) (t : Nat) : State :=
  let l := s.logicalOf t
  let g := s.gangRec l
  let side := gangSide g
  let south := ((List.range side).filter fun j => colN (s.gangDesc t) j != 0).map fun j => s.phys (gangTile (l / 2048) g (side - 1) j)
  if (s.tile t).gangHeld ∧ south.all fun k => (s.tile k).ftq.length < 8 then
    forEach south (fun k s => s.traceTile k 5 (natLe 1 0 ++ natLe 1 (s.tile k).ftq.length)) (s.modTile t fun y => { y with gangHeld := false })
  else s

/-- GANG_RESUME (R122). -/
def execGangResume (t : Nat) (s : State) : Out := .next (s.gangResume t)

/-- Fine scales of a K × N operand by columns. -/
def pruneFines (a : Opnd) : Nat := a.cols * ceilDiv a.rows 32

/-- `n` bytes of a port: the west input, or a port that is a source (R101, R320). -/
def readStream (e : Run) (o : Opnd) (n : Nat) : It Bytes := do
  let s ← get
  if s.portKind e.l o.base = 3 then
    let w := (s.tile e.t).westIn
    if e.spec || decide (w.length < n) then throw .wait
    set (s.modTile e.t fun y => { y with westIn := y.westIn.drop n })
    pure (w.take n)
  else readPort e { o with fmt := 8, rows := 1, cols := n }

/-- A dense operand with the bytes of its scale region: C, and its fine scales by columns. -/
def readDenseOperand (e : Run) (a : Opnd) : It (Bytes × Bytes × Bytes) := do
  if a.space = 5 then
    let b ← readStream e a (streamedBytes a (pruneFines a))
    let r := ceilDiv a.bytes 64 * 64
    pure (b.take a.bytes, slice b r 4, slice b (r + 64) (pruneFines a))
  else
    let b ← readRuns e a.space (e.rows a)
    let c ← if a.scale = 1 then readRuns e a.space [(e.region a, 4)] else pure []
    let f ← if a.scale = 0 then pure []
      else readRuns e a.space (((a.grid e.d e.idx).turned (a.depth e.d)).cells (e.region a) a.cols a.rows)
    pure (b, c, f)

/-- PRUNE: a dense operand leaves in doubly structured form, and its scales follow the last block (R97, R101; log entry 77). -/
def pruneBody (e : Run) : It (State → State) := do
  let s ← get
  let rows := s.gangRows e
  need (!rows.any fun r => r.any fun m => s.memberLost m.t) 0x12
  let a := opA e.d
  let o := opD e.d
  let x ← readDenseOperand e a
  let out := pruneAll a.elem a.rows a.cols (codes a.elem x.1)
  let w ← writeAt e o.space (e.at o) out
  if a.scale = 0 then pure w
  else
    let base := o.region e.d e.args out.length
    let c ← if a.scale = 1 then writeAt e o.space base x.2.1 else pure id
    let f ← writeRows e o.space (((a.grid e.d e.idx).turned (a.depth e.d)).cells base a.cols a.rows) x.2.2
    pure fun s => f (c (w s))

/-- PRUNE (R101). -/
def execPrune (t c : Nat) (s : State) : Out := .next (s.iterate t c 0x11 pruneBody)

end Sys2Proof.Machine
end

