-- ==== Sys2Proof/Machine/AccUnit.lean ====
section
/-! DEFINITION. The long-accumulator unit: one iteration of its descriptors (R161-R167, R170, R175-R179) and deferred adds. -/

namespace Sys2Proof.Machine

/-- Row ranges of an operand whose rows hold `rb` bytes, `n` rows. -/
def Run.rowsOf (e : Run) (o : Opnd) (rb n : Nat) : List (Int × Nat) := o.rowsOf (e.at o) rb n

/-- Write rows after checking them. -/
def writeRowsOf (e : Run) (o : Opnd) (rs : List (Int × Nat)) (data : Bytes) : It (State → State) := do
  canWrite e o.space rs
  pure (writeRuns e o.space rs data)

/-- SLOT_BASE. -/
def slotBase (d : Bytes) : Nat := dImmBits d 3 0

/-! Terms. -/

/-- The terms of operand A of ACCSUM with their ACC_STATUS flags, row-major (R157, R158, R161). -/
def readTerms (e : Run) : It (List (Term × Nat)) := do
  let a := opA e.d
  let tf := dImmBits e.d 5 4
  if tf = 0 then
    let v ← readScaled e a
    pure (v.map fun x => termOf x.1)
  else
    let w := termBytes tf
    let b ← readRuns e a.space (e.rowsOf a (a.cols * w) a.rows)
    let l := cutEvery w a.count b
    need (tf != 3 || l.all rawOk) 0x42
    pure (l.map fun x =>
      if tf = 3 then ((rawSlot x).term, 0) else (termInt (sgn (8 * w) (leNat x)), 0))

/-- Slots base to base + cols - 1 of a tile. -/
def Tile.slotsFrom (t : Tile) (base cols : Nat) : List Slot := (List.range cols).map fun c => t.slot (base + c)

/-- Put slots back from `base` on. -/
def Tile.putSlots (t : Tile) (base : Nat) (l : List Slot) : Tile :=
  forEach l.zipIdx (fun x y => y.withSlot (base + x.2) x.1) t

/-- Add a row-major list of terms, element `c` of every row to slot `c` (R166): slots, flags and the number of terms. -/
def addTerms (cols : Nat) (l : List (Term × Nat)) (slots : List Slot) : List Slot × Nat :=
  slots.zipIdx.foldl (fun r x =>
    let mine := l.zipIdx.filter fun y => y.2 % cols == x.2
    let s := mine.foldl (fun (q : Slot × Nat) y => let a := q.1.add y.1.1; (a.1, q.2 ||| a.2 ||| y.1.2)) (x.1, 0)
    (r.1 ++ [s.1], r.2 ||| s.2)) ([], 0)

/-- Read slots out to bytes with flags; ACC_POISONED at a poisoned one (R163, R166). -/
def readOut (dest rnd : Nat) (slots : List Slot) : It (Bytes × Nat) := do
  need (!slots.any (·.poison)) 0x41
  let r := slots.map fun x => x.read dest rnd
  pure (r.flatMap (·.1), r.foldl (fun f x => f ||| x.2) 0)

/-- ACCSUM (R166, R167), with the residue mismatches that its adds meet (R170, R171). -/
def accsumBody (mismatches : Nat) (e : Run) : It (State → State) := do
  let a := opA e.d
  let o := opD e.d
  let base := slotBase e.d
  let ts ← readTerms e
  let s ← get
  let old := (s.tile e.t).slotsFrom base a.cols
  let sum := addTerms a.cols ts (if bit (dSubop e.d) 0 then old.map fun _ => Slot.zero else old)
  let n := ts.foldl (fun n x => n + x.1.n) 0
  let write ← if bit (dSubop e.d) 1 then do
      let r ← readOut (dImmBits e.d 9 6) (dImmBits e.d 11 10) sum.1
      let w ← writeRowsOf e o (e.rowsOf o r.1.length 1) r.1
      pure fun (s : State) => (w s).modTile e.t (·.accFlag r.2)
    else pure id
  pure fun s =>
    let r := s.residue e.t mismatches
    if r.2 then write ((r.1.modTile e.t fun y => (y.putSlots base sum.1).accFlag sum.2).tileCount e.t 0x0F n) else r.1

/-- ACCREAD (R162, R166). -/
def accreadBody (e : Run) : It (State → State) := do
  let o := opD e.d
  let base := slotBase e.d
  let s ← get
  let r ← readOut (dImmBits e.d 9 6) (dImmBits e.d 11 10) ((s.tile e.t).slotsFrom base o.cols)
  let w ← writeRowsOf e o (e.rowsOf o r.1.length 1) r.1
  pure fun s => (w s).modTile e.t fun y =>
    (if bit (dSubop e.d) 0 then y.putSlots base ((List.range o.cols).map fun _ => Slot.zero) else y).accFlag r.2

/-- ACCCLR: slots of the mask are cleared and take their remote-open bits (Table 7-9). -/
def accclrBody (e : Run) : It (State → State) :=
  pure fun s => s.modTile e.t fun y =>
    let m := dImmBits e.d 15 0
    let y1 := forEach (maskBits m 16) (fun i y => y.withSlot i Slot.zero) y
    { y1 with remoteOpen := BitVec.ofNat 16 ((y.remoteOpen.toNat &&& (0xFFFF - m)) ||| (m &&& dImmBits e.d 31 16)) }

/-- ACCSTORE: raw long words, POISON copied (R161). -/
def accstoreBody (e : Run) : It (State → State) := do
  let o := opD e.d
  let base := slotBase e.d
  let s ← get
  let w ← writeRowsOf e o (e.rowsOf o (64 * o.cols) 1) (((s.tile e.t).slotsFrom base o.cols).flatMap Slot.raw)
  pure fun s => (w s).modTile e.t fun y =>
    if bit (dSubop e.d) 0 then y.putSlots base ((List.range o.cols).map fun _ => Slot.zero) else y

/-- ACCLOAD: slots are replaced with raw long words (R161). -/
def accloadBody (e : Run) : It (State → State) := do
  let a := opA e.d
  let b ← readRuns e a.space (e.rowsOf a (64 * a.cols) a.rows)
  let l := cutEvery 64 a.count b
  need (l.all rawOk) 0x42
  pure fun s => s.modTile e.t (·.putSlots (slotBase e.d) (l.map rawSlot))

/-! Streams (R175-R179). -/

/-- KEY_FMT. -/
def dKeyFmt (d : Bytes) : Nat := dImmBits d 2 0
/-- ORDER. -/
def dOrder (d : Bytes) : Nat := dImmBits d 4 3
/-- PLEN. -/
def dPlen (d : Bytes) : Nat := dImmBits d 8 5

/-- The records of an iteration: STREAM_BAD_RECORD where one breaks Table 7-11. -/
def readRecords (e : Run) : It (List Bytes) := do
  let a := opA e.d
  let rb := recordBytes (dPlen e.d)
  let b ← readRuns e a.space (e.rowsOf a rb a.rows)
  let l := cutEvery rb a.rows b
  need (l.all (recordOk (dKeyFmt e.d))) 0x43
  pure l

/-- Write records to D, padded with zero records to the rows of A; timestamp order counts a timing-dependent choice (R179). -/
def writeRecords (e : Run) (l : List Bytes) : It (State → State) := do
  let n := (opA e.d).rows
  let rb := recordBytes (dPlen e.d)
  let w ← writeRowsOf e (opD e.d) (e.rowsOf (opD e.d) rb n) (padTo (n * rb) l.flatten)
  pure fun s => if dOrder e.d = 2 then (w s).tdcTile e.t 1 else w s

/-- SSORT (R177). -/
def ssortBody (e : Run) : It (State → State) := do
  let l ← readRecords e
  writeRecords e (sortRecs (sortKey (dKeyFmt e.d) (dOrder e.d)) l)

/-- SGATHER (R177). -/
def sgatherBody (e : Run) : It (State → State) := do
  let l ← readRecords e
  writeRecords e (sortRecs (gatherKey (dOrder e.d)) l)

/-- SFILTER: REF is the key in W4 (Table 7-12, log entry 36). -/
def sfilterBody (e : Run) : It (State → State) := do
  let l ← readRecords e
  let kf := dKeyFmt e.d
  let ref := dWord e.d 4 % 2 ^ keyBits kf
  let kept := l.filter fun r => keyTest kf (dImmBits e.d 11 9) ref (recKey r)
  writeRecords e (sortRecs (gatherKey (dOrder e.d)) kept)

/-- SMINMAX: the record and, after it, the count of records (R177). -/
def sminmaxBody (e : Run) : It (State → State) := do
  let l ← readRecords e
  let r := (bestRec (dKeyFmt e.d) (dImmBits e.d 11 9 == 1) l).getD []
  let data := r ++ natLe 4 l.length ++ zeros 28
  writeRowsOf e (opD e.d) [(e.at (opD e.d), data.length)] data

/-- ACCSUM (R166). -/
def execAccsum (t c mismatches : Nat) (s : State) : Out := .next (s.iterate t c 0x70 (accsumBody mismatches))
/-- ACCREAD (R162). -/
def execAccread (t c : Nat) (s : State) : Out := .next (s.iterate t c 0x71 accreadBody)
/-- ACCCLR (R165). -/
def execAccclr (t c : Nat) (s : State) : Out := .next (s.iterate t c 0x72 accclrBody)
/-- ACCSTORE (R161). -/
def execAccstore (t c : Nat) (s : State) : Out := .next (s.iterate t c 0x73 accstoreBody)
/-- ACCLOAD (R161). -/
def execAccload (t c : Nat) (s : State) : Out := .next (s.iterate t c 0x74 accloadBody)
/-- SSORT (R177). -/
def execSsort (t c : Nat) (s : State) : Out := .next (s.iterate t c 0x78 ssortBody)
/-- SGATHER (R177). -/
def execSgather (t c : Nat) (s : State) : Out := .next (s.iterate t c 0x79 sgatherBody)
/-- SFILTER (R177). -/
def execSfilter (t c : Nat) (s : State) : Out := .next (s.iterate t c 0x7A sfilterBody)
/-- SMINMAX (R177). -/
def execSminmax (t c : Nat) (s : State) : Out := .next (s.iterate t c 0x7B sminmaxBody)

/-- DEFERRED_EXACT_ADD: the oldest deferred term of a slot is added (R167), unless its residue mismatches retire the tile (R170, R171). -/
def State.deferredAdd (s : State) (t slot mismatches : Nat) : State :=
  match (s.tile t).deferred.find? fun x => x.1 == slot with
  | none => s
  | some x =>
    let r := (s.modTile t fun y => { y with deferred := y.deferred.erase x }).residue t mismatches
    if r.2 then r.1.addTerm t slot x.2.term else r.1

/-- DEFERRED_EXACT_ADD (R167). -/
def execDeferredExactAdd (t : Nat) (slot : AddAt) (s : State) : Out := .next (s.deferredAdd t slot.at_ slot.mismatches)

end Sys2Proof.Machine
end

