-- ==== Sys2Proof/Machine/Links.lean ====
section
/-! DEFINITION. The meanings of the link commands (chapter 09). -/

namespace Sys2Proof.Machine

/-- GROUP_RECEIVE (R224). -/
def execGroupReceive (p : Nat) (block : Bytes) (s : State) : Out := .next (s.groupReceive p block)

/-- Ports over which a boot may ask a neighbour, in order (R363): the default ports of fabric-mode port dies that have not been refused,
or the one port that STR_IMAGE_SRC names. -/
def State.bootPorts (s : State) : List Nat :=
  let src := (s.reg Reg.strImageSrc).toNat
  if bit src 9 then (List.range 128).filter fun e => e % 32 < 16 && s.fabricMode (e / 32) && !s.pins.bootRefused.contains e
  else [bits src 8 2]

/-- A boot from a neighbour asks over the first such port that is up, while it has no answer due (R363). -/
def State.bootScan (s : State) : State :=
  if ¬ s.pins.autoBoot ∨ bits s.pins.straps 15 14 ≠ 2 ∨ s.pins.bootPort.isSome ∨
      (1 ≤ s.fld Reg.strCommitStatus 2 0 ∧ s.fld Reg.strCommitStatus 2 0 ≤ 5) then s
  else
    match s.bootPorts.find? fun e => s.portUp e && s.fabricPort e with
    | some e => (s.withPins { s.pins with bootPort := some e }).emit (.imageAsk e)
    | none => s

/-- TIME_SET_RECEIVE (R225, R266, R270). A port that comes up may be one that a boot waits for (R363). -/
def execTimeSetReceive (p : Nat) (block : Bytes) (s : State) : Out := .next (s.timeSetReceive p block).bootScan

/-- CREDIT_INIT (R221, R227). -/
def execCreditInit (p : Nat) (block : Bytes) (s : State) : Out := .next (s.creditInit p block)

/-- LINK_STATE (R228). -/
def execLinkState (p : Nat) (block : Bytes) (s : State) : Out := .next (s.linkStateReceive p block)

/-- TIME_SET_SEND (R225). -/
def execTimeSetSend (p : Nat) (s : State) : Out := .next (s.timeSetSend p)

/-- No valid TIME set came for 4 periods: the neighbour of an enabled fabric port, up or not, is out of step (R270). -/
def State.timeSetTimeout (s : State) (p : Nat) : State :=
  if s.portOn p && s.fabricPort p then (s.modPort p fun t => { t with goodSets := 0 }).outOfStep p else s

/-- TIME_SET_TIMEOUT (R270). -/
def execTimeSetTimeout (p : Nat) (s : State) : Out := .next (s.timeSetTimeout p)

/-- REPLAY_TIMEOUT: every unacknowledged group of a live link is sent again (R224). -/
def execReplayTimeout (p : Nat) (s : State) : Out := .next (if s.linkLive p then s.replay p else s)

/-- A hold or pause timer of a class expires (R213, R222). -/
def State.holdEnds (s : State) (p c : Nat) : State := if mapGet 0 c (s.port p).hold = 0 then s else s.holdClass p c 0

/-- HOLD_EXPIRY (R222). -/
def execHoldExpiry (p : Nat) (cls : Nat) (s : State) : Out := .next (if s.fabricPort p then s.holdEnds p cls else s)

/-- PAUSE_EXPIRY (R213). -/
def execPauseExpiry (p : Nat) (cls : Nat) (s : State) : Out := .next (if s.fabricPort p then s else s.holdEnds p cls)

/-- A port that receives MAC frames: up, in Ethernet mode. -/
def State.macLive (s : State) (p : Nat) : Bool := s.portUp p && !s.fabricPort p

/-- PAUSE_FRAME (R213). -/
def execPauseFrame (p : Nat) (quanta : Nat) (s : State) : Out := .next (if s.macLive p then s.pauseFrame p quanta else s)

/-- PFC_FRAME (R213). -/
def execPfcFrame (p : Nat) (enable : Nat) (quanta : List Nat) (s : State) : Out :=
  .next (if s.macLive p then s.pfcFrame p enable quanta else s)

/-- LINK_TRAINING_DONE (R226). -/
def execLinkTrainingDone (p : Nat) (lanesInOrder : Bool) (preemptVerified : Bool) (s : State) : Out :=
  .next (s.trainingDone p lanesInOrder preemptVerified)

/-- TRAINING_TIMEOUT (R226). -/
def execTrainingTimeout (p : Nat) (s : State) : Out := .next (s.trainingTimeout p)

/-- A retrain of an enabled port that is not retired; software asks for one by a register write (R227). -/
def State.retrainBy (s : State) (p : Nat) (cause : RetrainCause) : State :=
  let s1 := if cause = .software then s.external 1 else s
  if s.portOn p && s.linkState p != 5 && s.linkState p != 0 then s1.retrain p (causeCode cause) else s1

/-- RETRAIN (R227). -/
def execRetrain (p : Nat) (cause : RetrainCause) (s : State) : Out := .next (s.retrainBy p cause)

/-- BER_WINDOW (R228). -/
def execBerWindow (n : Nat) (lanes : List LaneErrors) (bits : Nat) (s : State) : Out := .next (s.berWindow n lanes bits)

end Sys2Proof.Machine
end

