-- ==== Sys2Proof/Machine/Requests.lean ====
section
/-! DEFINITION. Remote requests at their target (R288, R291-R297, R140, R150, R173, R174). -/

namespace Sys2Proof.Machine

/-! Punnet registers (Table 10-7), shared by BAR0, the porter and the fabric register space (R251). -/

/-- A register of Table 10-7 by its die offset: an access. -/
inductive PunReg where
  | cfg (i : Nat) | alloc (i : Nat) | status (i : Nat) | free | ref | release | other
  deriving DecidableEq, Repr

/-- The memory-punnet register at an offset of a die, if any. -/
def punReg (off : Nat) : Option PunReg :=
  if off < 0x8000 ∨ 0x8138 ≤ off then none
  else if off < 0x8100 then
    match off % 0x40 with
    | 0 => some (.cfg ((off - 0x8000) / 0x40))
    | 8 => some (.alloc ((off - 0x8000) / 0x40))
    | 16 => some (.status ((off - 0x8000) / 0x40))
    | _ => none
  else if off = 0x8100 then some .free
  else if off = 0x8108 then some .ref
  else if off = 0x8110 then some .release
  else if off % 8 = 0 then some .other
  else none

/-- Free and carved buffers of a memory punnet: PUN_HM_STATUS. -/
def State.hmStatus (s : State) (k i : Nat) : Word :=
  let p := s.hmPool k i
  BitVec.ofNat 64 (p.freeCount % 2 ^ 24 + (p.count % 2 ^ 24) <<< 24)

/-- A write of PUN_HM_CFG_i: enable, disable or configure (R250). The flag is false where the write is refused; the cause
follows. -/
def State.hmConfig (s : State) (k i w : Nat) : State × Option BadCause :=
  let a := memReg k (Reg.punHmCfg i)
  let old := (s.reg a).toNat
  if bit old 0 then
    if bits w 54 1 ≠ bits old 54 1 then (s, some .busy)
    else if bit w 0 then (s, none)
    else ((s.withFld a 0 0 0).withHmPool k i { s.hmPool k i with en := false }, none)
  else
    let s1 := s.withReg a (BitVec.ofNat 64 (bits w 54 1 <<< 1))
    if ¬ bit w 0 then (s1, none)
    else if s1.hmEnableOk k i w then ((s1.hmEnable k i w).withFld a 0 0 1, none)
    else (s1, some .badValue)

/-- Owner of the window that a memory punnet is configured in. -/
def State.hmOwner (s : State) (k i : Nat) : Option Nat :=
  let w := (s.reg (memReg k (Reg.punHmCfg i))).toNat
  s.windowOwner (bits w 8 1)

/-- An owner may reach a register of Table 10-7 (R288). -/
def State.punAllowed (s : State) (k o : Nat) : PunReg → Bool
  | .cfg i | .alloc i | .status i => s.hmOwner k i == some o
  | _ => (List.range 4).any fun i => s.hmOwner k i == some o

/-- A register of Table 10-7 belongs to a memory punnet that a commit in progress has withdrawn from an owner (R52); one of no single punnet,
where the owner holds withdrawn punnets alone. -/
def State.punGone (s : State) (k o : Nat) (r : PunReg) : Bool :=
  let mine := (List.range 4).filter fun i => s.hmOwner k i == some o
  let gone (i : Nat) : Bool := mine.contains i && s.commit.withdrawn.contains (.punnet k i)
  match r with
  | .cfg i | .alloc i | .status i => gone i
  | _ => !mine.isEmpty && mine.all gone

/-- The stack, register and owner's tile that a fabric register address names. -/
inductive FabReg where
  | pun (k : Nat) (r : PunReg) (a : Nat)
  | tilId (t : Nat)
  deriving DecidableEq, Repr

/-- What a register address of Table 1-7 names in the fabric register space (R288). -/
def fabReg (a : Nat) : Option FabReg :=
  if a < 0x1000000 ∨ 0x2000000 ≤ a then none
  else
    let d := (a - 0x1000000) / 0x100000
    let off := (a - 0x1000000) % 0x100000
    if off < 0x10000 then
      match dieStack d, punReg off with
      | some k, some r => some (.pun k r a)
      | _, _ => none
    else if off < 0xA0000 ∧ (off - 0x10000) % 256 = 0 then some (.tilId (d * 2304 + (off - 0x10000) / 256))
    else none

/-- TIL_ID of a physical tile (Table 1-11). -/
def State.tilId (s : State) (t : Nat) : Word :=
  let x := s.tile t
  let l := match x.idLogical with | some l => l + 1 <<< 15 | none => 0
  BitVec.ofNat 64 (l + (t % 2304) <<< 16 + (t % 9) <<< 28 + x.idRole <<< 32 + x.idState <<< 36)

/-! Target checks and execution. -/

/-- An answer: status, value, load data; none where the access is held and the request waits. -/
structure Answer where
  status : Nat
  value : Nat
  data : Bytes
  deriving DecidableEq, Repr

/-- An answer without value or data. -/
def Answer.of (st : Nat) : Answer := ⟨st, 0, []⟩

/-- Where a checked request acts. -/
inductive Target where
  | hbm (pieces : List (Nat × Nat × Nat)) (addr : Nat)
  | tile (t a : Nat)
  | reg (r : FabReg)
  | bad (status : Nat)
  deriving DecidableEq, Repr

/-- The checks of R287 and R288 on a fabric address, for `n` bytes and an owner. -/
def State.target (s : State) (addr n owner : Nat) : Target :=
  let off := addr % 2 ^ 48
  match bits addr 49 48 with
  | 0 =>
    if 2 ^ 40 < off + n then .bad 3
    else if s.windowGone owner off n then .bad 5
    else match s.ownerPieces owner off n with | some p => .hbm p off | none => .bad 2
  | 1 =>
    let l := bits off 33 19
    let a := bits off 18 0
    if bits off 47 34 ≠ 0 ∨ tileBytes < a + n then .bad 3
    else if s.goneFrom l owner then .bad 5
    else if s.active (s.phys l) && s.tileOwner l == owner then .tile (s.phys l) a
    else .bad 2
  | 2 =>
    if bits off 47 26 ≠ 0 then .bad 3
    else if n ≠ 8 then .bad 9
    else
      match fabReg off with
      | some (.pun k r a) =>
        if s.punGone k owner r then .bad 5 else if s.punAllowed k owner r then .reg (.pun k r a) else .bad 9
      | some (.tilId t) => if s.active t && s.physOwner t == owner then .reg (.tilId t) else .bad 9
      | none => .bad 9
  | _ => .bad 3

/-- Load from a register of the fabric space. -/
def State.fabRead (s : State) : FabReg → State × Word
  | .tilId t => (s, s.tilId t)
  | .pun k r a =>
    match r with
    | .alloc i => let x := s.hmAlloc k i; (x.2, BitVec.ofNat 64 x.1)
    | .status i => (s, s.hmStatus k i)
    | .free | .ref | .release => (s, 0)
    | _ =>
      if a % 0x100000 = 0x8118 ∨ a % 0x100000 = 0x8130 then (s.withReg a 0, s.reg a)
      else if a % 0x100000 = 0x8128 then (s, BitVec.ofNat 64 (s.ctrl k).dirty.length)
      else (s, s.reg a)

/-- Store to a register of the fabric space. -/
def State.fabWrite (s : State) (owner v : Nat) : FabReg → State
  | .tilId _ => s
  | .pun k r a =>
    match r with
    | .cfg i =>
      let x := s.hmConfig k i v
      match x.2 with
      | some c => x.1.badFabric a c
      | none => x.1
    | .free => s.hmPtr k (bits v 47 0) owner .ret
    | .ref => s.hmPtr k (bits v 47 0) owner .ref
    | .release => s.hmPtr k (bits v 47 0) owner .release
    | _ => s

/-- Accesses held by a row repair (R340). -/
def State.targetHeld (s : State) : Target → Bool
  | .hbm p _ => s.piecesHeld p
  | _ => false

/-- Execute a load of `n` bytes. -/
def State.execLoad (s : State) (tg : Target) (n : Nat) : State × Answer :=
  let done (s : State) (b : Bytes) : State × Answer := (s, if n ≤ 8 then ⟨0, leNat b, []⟩ else ⟨0, 0, b⟩)
  match tg with
  | .bad st => (s, .of st)
  | .hbm p _ =>
    let r := s.readPieces p false 0
    if r.2.2 then (r.1, .of 8) else done r.1 r.2.1
  | .tile t a =>
    if (s.tile t).memHurt a n then (s, .of 8) else done s ((s.tile t).readMem a n)
  | .reg r =>
    let x := s.fabRead r
    (x.1, ⟨0, x.2.toNat, []⟩)

/-- Execute a store: one that a controller must discard, at an uncorrectable block, answers MEM_ECC (R327). -/
def State.execStore (s : State) (tg : Target) (owner : Nat) (data : Bytes) : State × Answer :=
  match tg with
  | .bad st => (s, .of st)
  | .hbm p a =>
    let r := s.ownerWrite owner a p data
    (r.1, .of (if r.2 then 8 else 0))
  | .tile t a => (s.modTile t (·.writeMem a data), .of 0)
  | .reg r => (s.fabWrite owner (leNat data) r, .of 0)

/-- Execute an atomic on a word of `n` bytes: the new word as a function of the old (R291). -/
def State.execAtomic (s : State) (tg : Target) (owner n : Nat) (f : Nat → Nat) : State × Answer :=
  match tg with
  | .bad st => (s, .of st)
  | .reg _ => (s, .of 9)
  | .hbm p a =>
    let r := s.readPieces p false 0
    if r.2.2 then (r.1, .of 8)
    else ((r.1.ownerWrite owner a p (natLe n (f (leNat r.2.1)))).1, ⟨0, leNat r.2.1, []⟩)
  | .tile t a =>
    if (s.tile t).memHurt a n then (s, .of 8)
    else
      let old := leNat ((s.tile t).readMem a n)
      (s.modTile t (·.writeMem a (natLe n (f old))), ⟨0, old, []⟩)

/-- FP32 sum rounded once, RNE (R174). -/
def fp32Sum (a b : Nat) : Nat := (encodeNum 2 Rnd.rne ((decodeElem 2 a).add (decodeElem 2 b)).1).1

/-- Terms of a payload of a TERM_FMT; 0 is read as FP32 (log entry 29). None where a raw word is broken. -/
def exactTerms (tf : Nat) (data : Bytes) : Nat → Option (List (Term × Nat))
  | 0 => some []
  | n + 1 =>
    let b := data.take (termBytes tf)
    let one : Option (Term × Nat) := match tf with
      | 0 => some (termOf (decodeElem 2 (leNat b)))
      | 1 => some (termInt (sgn 32 (leNat b)), 0)
      | 2 => some (termInt (sgn 64 (leNat b)), 0)
      | _ => if rawOk b then some ((rawSlot b).term, 0) else none
    match one, exactTerms tf (data.drop (termBytes tf)) n with
    | some x, some l => some (x :: l)
    | _, _ => none

/-- A term waiting for its slot's next free FCLK (R167). -/
def Term.slot (t : Term) : Slot :=
  let v := splitV t.v
  ⟨v.1, v.2, t.n, t.pinf, t.ninf, t.nan, t.poison, false⟩

/-- Checks of Table 7-10 on an exact add. -/
def State.exactCheck (s : State) (p : Bytes) : Nat :=
  let off := rqAddr p % 2 ^ 48
  let l := bits off 33 19
  let slot := off % 16
  let n := bits (rqArg0 p) 5 2 + 1
  let tf := rqArg0 p % 4
  let data := p.drop 32
  let t := s.phys l
  if bits (rqAddr p) 49 48 ≠ 1 ∨ bits off 47 34 ≠ 0 ∨ bits off 18 4 ≠ 0 ∨ bits (rqArg0 p) 63 6 ≠ 0 ∨ rqArg1 p ≠ 0 ∨ 16 < slot + n ∨
      data.length ≠ n * termBytes tf ∨ rqLen p ≠ data.length ∨ (exactTerms tf data n).isNone then 1
  else if ¬ s.active t ∨ s.tileRole l = 0 ∨ s.tileRole l = 6 then 2
  else if s.tileOwner l ≠ rqOwner p then 3
  else if (s.reducerEntry l).isSome then 4
  else if (List.range n).any fun i => !(s.tile t).remoteOpen.getLsbD (slot + i) then 4
  else 0

/-- Execute an exact add: every term added, or deferred where a local add holds the slots (R167, R173); one of the old owner of a withdrawn tile
ends NO_ROUTE (R52). -/
def State.execExact (s : State) (p : Bytes) (mismatches : Nat) (busy : Bool) : State × Answer :=
  let off := rqAddr p % 2 ^ 48
  let t := s.phys (bits off 33 19)
  let slot := off % 16
  let c := s.exactCheck p
  if c ≠ 1 ∧ s.goneFrom (bits off 33 19) (rqOwner p) then (s, .of 5)
  else if c ≠ 0 then (s.tileCount t 0x12 1, ⟨0, c, []⟩)
  else
    let r := s.residue t mismatches
    if ¬ r.2 then (r.1.tileCount t 0x12 1, ⟨0, 2, []⟩)
    else
      let n := bits (rqArg0 p) 5 2 + 1
      let ts := (exactTerms (rqArg0 p % 4) (p.drop 32) n).getD []
      let add (s : State) (i : Nat) (x : Term × Nat) : State :=
        let s1 := s.modTile t (·.accFlag x.2)
        if busy then s1.modTile t fun y => { y with deferred := y.deferred ++ [(slot + i, x.1.slot)] } else s1.addTerm t (slot + i) x.1
      (((List.range n).zip ts).foldl (fun s x => add s x.1 x.2) r.1, ⟨0, 0, []⟩)

/-- Execute a signal: VALUE 1 where it is dropped (R140); RANGE for a reserved offset bit, MALFORMED for any other broken field (R288, R292);
NO_ROUTE for the old owner of a withdrawn tile (R52). -/
def State.execSignal (s : State) (p : Bytes) : State × Answer :=
  let off := rqAddr p % 2 ^ 48
  let l := bits off 33 19
  let a := rqArg0 p
  if bits (rqAddr p) 49 48 ≠ 1 ∨ bits off 18 0 ≠ 0 ∨ bits a 15 4 ≠ 0 ∨ bits a 63 32 ≠ 0 then (s, .of 4)
  else if bits off 47 34 ≠ 0 then (s, .of 3)
  else if s.goneFrom l (rqOwner p) then (s, .of 5)
  else
    let t := s.phys l
    if ¬ s.active t ∨ s.tileRole l = 0 ∨ s.tileRole l = 6 ∨ s.tileOwner l ≠ rqOwner p then (s.tileCount t 0x0E 1, ⟨0, 1, []⟩)
    else (s.addCounter t (a % 16) (bits a 31 16), ⟨0, 0, []⟩)

/-- A trigger's address, length or data is broken (R150). -/
def triggerBad (p : Bytes) : Bool :=
  bits (rqAddr p) 49 48 != 3 || bits (rqAddr p % 2 ^ 48) 47 21 != 0 || (p.drop 32).length != 32 || rqLen p != 32

/-- Execute a trigger (R150); one of the old owner of a withdrawn tile ends NO_ROUTE (R52). -/
def State.execTrigger (s : State) (p : Bytes) : State × Answer :=
  let off := rqAddr p % 2 ^ 48
  let bad := triggerBad p
  if !bad && s.goneFrom (bits off 14 0) (rqOwner p) then (s, .of 5)
  else
    let r := s.offerTrigger (bits off 14 0) (bits off 20 15) (rqOwner p) bad (p.drop 32)
    (r.1, ⟨0, r.2, []⟩)

/-! Streams (R294-R296). -/

/-- Outcome of the check of a request against its stream. -/
inductive Verdict where
  | fresh (st : Stream)
  | dup (status value : Nat)
  | stale
  | busy
  deriving DecidableEq, Repr

/-- Whether a stream entry is that of a requester. -/
def Stream.is (x : Stream) (node tile : Nat) : Bool := x.node == node && x.tile == tile

/-- Distance of an ID below the newest of a stream. -/
def idBelow (high id : Nat) : Nat := (high + 65536 - id) % 65536

/-- Check a request ID against a stream entry (R294). -/
def Stream.check (x : Stream) (id : Nat) : Verdict :=
  let d := sgn 16 ((id + 65536 - x.high) % 65536)
  if 0 < d then
    .fresh { x with
      high := id, accepted := id :: x.accepted.filter (fun i => decide (idBelow id i < 256)),
      cache := x.cache.filter fun c => decide (idBelow id c.1 < 256) }
  else if d < -255 then .stale
  else if x.accepted.contains id then
    match x.cache.find? fun c => c.1 == id with
    | some c => .dup c.2.1 c.2.2.toNat
    | none => .dup 0 0
  else .fresh { x with accepted := id :: x.accepted }

/-- Check a request at its home die: the stream's entry, a free one, or one idle for 100 ms (R294, R295). -/
def State.streamCheck (s : State) (n node tile id : Nat) : Verdict :=
  let l := (s.pdie n).streams
  match l.find? (·.is node tile) with
  | some x => x.check id
  | none =>
    if l.length < 2048 ∨ l.any (fun x => decide (x.lastAt + 25000000 ≤ s.clk.kclk)) then
      (Stream.mk node tile ((id + 65535) % 65536) [] [] s.clk.kclk).check id
    else .busy

/-- Store a stream entry, in place of its old one or of one idle for 100 ms where the table is full. -/
def State.putStream (s : State) (n : Nat) (x : Stream) : State :=
  s.modPdie n fun d =>
    let others := d.streams.filter fun y => !y.is x.node x.tile
    let room := if others.length < 2048 then others
      else removeFirst (fun y => decide (y.lastAt + 25000000 ≤ s.clk.kclk)) others
    { d with streams := { x with lastAt := s.clk.kclk } :: room }

/-- A stream's entry has seen a request (R295). -/
def State.touchStream (s : State) (n node tile : Nat) : State :=
  s.modPdie n fun d => { d with streams := d.streams.map fun y => if y.is node tile then { y with lastAt := s.clk.kclk } else y }

/-- LEN of a request and the data behind its header agree: bytes to load for a load, else the bytes that follow, of which an atomic and a signal
have none (Table 12-5). An exact add and a trigger answer their own codes. -/
def dataOk (p : Bytes) (op : Nat) : Bool :=
  let n := (p.drop 32).length
  match op with
  | 1 => n == 0
  | 2 => n == rqLen p
  | 5 | 8 => true
  | _ => n == 0 && rqLen p == 0

/-- ARG1 is zero outside a compare-swap (Table 12-5); an exact add answers its own code. -/
def argOk (p : Bytes) (op : Nat) : Bool := op == 4 || op == 5 || rqArg1 p == 0

/-- A request header is valid (R292). -/
def requestOk (f : Frame) (op : Nat) : Bool :=
  let p := f.payload
  f.kind == 1 && decide (32 ≤ p.length) && rqOp p == op && bits (rdLe p 3 1) 7 6 == 0 && bits (rdLe p 4 2) 15 15 == 0 &&
    decide (rqLen p ≤ 1024) && dataOk p op && argOk p op

/-- A word access is aligned and of its width; other requests pass (Table 12-4, log entry 29). -/
def alignOk (p : Bytes) (op : Nat) : Bool :=
  match op with
  | 1 | 2 => rqAddr p % 8 == 0 && rqLen p % 8 == 0 && decide (0 < rqLen p)
  | 3 | 4 => rqAddr p % 8 == 0
  | 6 => rqAddr p % 4 == 0
  | _ => true

/-- Home port die of a request. -/
def homeDie (f : Frame) : Nat := rqTile f.payload % 4

/-- Answer a request from its home die. -/
def State.answer (s : State) (f : Frame) (a : Answer) : State :=
  let k := portStop (homeDie f) (tileBlock (rqTile f.payload))
  s.sendFrame k (homeDie f) (responseFrame f s.node s.now a.status a.value a.data)

/-- Count a refused request (R297), or at the issuing stop one that ends as NO_ROUTE at a withdrawn resource (R52, log entry 69). -/
def State.countReject (s : State) (n status : Nat) (f : Frame) : State :=
  if status = 5 then s.modStop (portStop n (tileBlock (rqTile f.payload))) fun x => { x with discards := x.discards + 1 } else
  if status = 2 ∨ status = 3 ∨ status = 4 ∨ status = 9 then s.bump (pdReg n Reg.rmaRejectCnt) else s

/-- A request for a tile wakes its block (R355). -/
def State.wakeTarget (s : State) (addr : Nat) : State :=
  match bits addr 49 48 with
  | 1 => s.wakeBlock (tileBlock (bits addr 33 19))
  | 3 => s.wakeBlock (tileBlock (bits addr 14 0))
  | _ => s

/-- OP of a request is one of Table 12-5. -/
def rqOpValid (p : Bytes) : Bool := decide (1 ≤ rqOp p) && decide (rqOp p ≤ 8)

/-- A request arrives at its home die: header, duplicates, execution by `run`, answer (R292-R297). A request of another command's OP is not its
concern, one of an invalid OP is malformed. `run` gives none where the access is held, and the request then waits. -/
def State.request (s : State) (f : Frame) (op : Nat) (run : State → Bytes → Option (State × Answer)) : State :=
  let p := f.payload
  let n := homeDie f
  if f.kind ≠ 1 ∨ (rqOp p ≠ op ∧ rqOpValid p) then s
  else
    let s1 := (s.traceEvent (16 + n) 0xFFFF 11 (rqOwner p) (p.take 16))
    let s2 := if f.src = s.node then s1 else s1.external 1
    if ¬ requestOk f op ∨ ¬ alignOk p op then (s2.countReject n 4 f).answer f (.of 4)
    else
      match s.streamCheck n f.src (rqTile p) (rqId p) with
      | .busy => (s2.bump (pdReg n Reg.rmaBusyCnt)).answer f (.of 7)
      | .stale => ((s2.bump (pdReg n Reg.rmaStaleCnt)).touchStream n f.src (rqTile p)).answer f (.of 6)
      | .dup st v =>
        let a := if op = 1 ∧ 8 < rqLen p ∧ st = 0 then Answer.of 1 else ⟨st, v, []⟩
        ((s2.bump (pdReg n Reg.rmaDupCnt)).touchStream n f.src (rqTile p)).answer f a
      | .fresh x =>
        match run ((s2.foreignActivity (rqOwner p)).wakeTarget (rqAddr p)) p with
        | none => s
        | some (s3, a) =>
          ((s3.putStream n { x with cache := (rqId p, a.status, BitVec.ofNat 64 a.value) :: x.cache }).countReject n a.status f).answer f a

/-- A run that waits while the target's pseudo-channel is under repair. -/
def unlessHeld (s : State) (tg : Target) (r : State × Answer) : Option (State × Answer) := if s.targetHeld tg then none else some r

/-- The physical tile that an upset of a request would be in. -/
def State.upsetTile (s : State) (p : Bytes) : Nat := s.phys (bits (rqAddr p) 33 19)

/-- A load request. -/
def State.requestLoad (s : State) (f : Frame) (u : Upset) : State :=
  s.request f 1 fun s p =>
    let s := s.upset (s.upsetTile p) u
    let tg := s.target (rqAddr p) (rqLen p) (rqOwner p)
    unlessHeld s tg (s.execLoad tg (rqLen p))

/-- A store request. -/
def State.requestStore (s : State) (f : Frame) (u : Upset) : State :=
  s.request f 2 fun s p =>
    let s := s.upset (s.upsetTile p) u
    let tg := s.target (rqAddr p) (rqLen p) (rqOwner p)
    unlessHeld s tg (s.execStore tg (rqOwner p) (p.drop 32))

/-- A fetch-add request: modulo 2^64. -/
def State.requestFetchAdd (s : State) (f : Frame) (u : Upset) : State :=
  s.request f 3 fun s p =>
    let s := s.upset (s.upsetTile p) u
    let tg := s.target (rqAddr p) 8 (rqOwner p)
    unlessHeld s tg (s.execAtomic tg (rqOwner p) 8 fun old => (old + rqArg0 p) % 2 ^ 64)

/-- A compare-swap request. -/
def State.requestCas (s : State) (f : Frame) (u : Upset) : State :=
  s.request f 4 fun s p =>
    let s := s.upset (s.upsetTile p) u
    let tg := s.target (rqAddr p) 8 (rqOwner p)
    unlessHeld s tg (s.execAtomic tg (rqOwner p) 8 fun old => if old = rqArg0 p then rqArg1 p else old)

/-- A plain FP32 add request. -/
def State.requestFp32 (s : State) (f : Frame) (u : Upset) : State :=
  s.request f 6 fun s p =>
    let s := s.upset (s.upsetTile p) u
    let tg := s.target (rqAddr p) 4 (rqOwner p)
    unlessHeld s tg (s.execAtomic tg (rqOwner p) 4 fun old => fp32Sum old (rqArg0 p % 2 ^ 32))

/-- An exact-add request. -/
def State.requestExact (s : State) (f : Frame) (mismatches : Nat) (busy : Bool) : State :=
  s.request f 5 fun s p => some (s.execExact p mismatches busy)

/-- A signal request. -/
def State.requestSignal (s : State) (f : Frame) : State := s.request f 7 fun s p => some (s.execSignal p)

/-- A trigger request. -/
def State.requestTrigger (s : State) (f : Frame) : State := s.request f 8 fun s p => some (s.execTrigger p)

end Sys2Proof.Machine
end

