-- ==== Sys2Proof/Machine/Switching.lean ====
section
/-! DEFINITION. The meanings of the switching and punnet commands (chapter 10) and of the packet mesh (chapter 01). -/

namespace Sys2Proof.Machine

/-- FRAME_ARRIVAL (R234). -/
def execFrameArrival (p : Nat) (f : Frame) (fcsOk : Bool) (s : State) : Out := .next (s.frameArrival p f fcsOk)

/-- LOCAL_DELIVERY (R233). -/
def execLocalDelivery (p : Nat) (cls : Nat) (s : State) : Out := .next (s.localDelivery p cls)

/-- MESH_FLIT_FORWARD (R32, R33). -/
def execMeshFlitForward (st : Nat) (out : Dir) (s : State) : Out := .next (s.meshForward st out)

/-! Congestion (R242, R243). Rates are in 1/256 Gb/s (log entry 30). -/

/-- Rate of an egress port. -/
def State.portRate (s : State) (e : Nat) : Nat := s.macRate e * 256

/-- Egress port that a node's traffic of a flow takes from here. -/
def State.limiterPort (s : State) (n dest flow : Nat) : Option Nat :=
  match s.hops n dest with
  | none | some [] => none
  | some l =>
    some (nth l (crc32c (natLe 2 s.node ++ natLe 2 dest ++ natLe 3 flow) % l.length) 0)

/-- MD of a die. -/
def State.ccMd (s : State) (n : Nat) : Nat := s.fld (pdReg n Reg.swiCcCtrl) 7 0

/-- A rate after an echo: × (1 − MD/256), rounded down. -/
def State.cutRate (s : State) (n r : Nat) : Nat := r * (256 - s.ccMd n) / 256

/-- An echo lowers the limiter of its key, or allocates one (R243). -/
def State.echoReceive (s : State) (n : Nat) (f : Frame) : State :=
  if ¬ isEcho f then s
  else
    let mine (x : Limiter) : Bool := x.dest == f.src && x.cls == f.cls
    let l := (s.pdie n).limiters
    if l.any mine then
      let floor := s.fld (pdReg n Reg.swiCcCtrl) 37 28 * 256
      s.modPdie n fun d => { d with
        limiters := l.map fun x => if mine x then { x with rate := max floor (s.cutRate n x.rate), lastEcho := s.clk.kclk } else x }
    else if 1024 ≤ l.length then s.bump (pdReg n Reg.swiCcTableFullCnt)
    else
      match s.limiterPort n f.src f.flow with
      | none => s
      | some e => s.modPdie n fun d => { d with limiters := l ++ [⟨f.src, f.cls, s.cutRate n (s.portRate e), e, s.clk.kclk, 0⟩] }

/-- ECHO_RECEIVE (R243). -/
def execEchoReceive (n : Nat) (f : Frame) (s : State) : Out := .next (s.echoReceive n f)

/-- Limiters without an echo for AI_PERIOD rise by AI_STEP; one that reaches its port's rate is freed (R243). -/
def State.rateIncrease (s : State) (n : Nat) : State :=
  let c := (s.reg (pdReg n Reg.swiCcCtrl)).toNat
  let up (x : Limiter) : Limiter :=
    if x.lastEcho + bits c 27 18 * 250 ≤ s.clk.kclk then { x with rate := x.rate + bits c 17 8 * 256, lastEcho := s.clk.kclk } else x
  s.modPdie n fun d => { d with limiters := (d.limiters.map up).filter fun x => decide (x.rate < s.portRate x.egress) }

/-- RATE_INCREASE (R243). -/
def execRateIncrease (n : Nat) (s : State) : Out := .next (s.rateIncrease n)

/-! Flow control repeated (R236). -/

/-- Flow control is repeated for the classes that are still above XON, while the port sends flow control. -/
def State.flowRefresh (s : State) (p : Nat) : State :=
  let m := maskOf ((maskBits (s.port p).fcOut 7).filter fun c => decide ((s.xoff p).2 < s.heldBytes p c))
  if m = 0 ∨ ¬ s.portUp p ∨ ¬ s.flowOn p then s else s.sendFlow p m true

/-- PAUSE_REFRESH (R236). -/
def execPauseRefresh (p : Nat) (s : State) : Out := .next (if s.fabricPort p then s else s.flowRefresh p)

/-- HOLD_REFRESH (R236). -/
def execHoldRefresh (p : Nat) (s : State) : Out := .next (if s.fabricPort p then s.flowRefresh p else s)

/-! Sampling (R240). -/

/-- A write of SWI_SAMPLE_CTRL: the count returns to 0; SNAP 0 is refused (R252). -/
def State.sampleCtrlWrite (s : State) (src : Src) (p v : Nat) : State :=
  if bits v 30 27 = 0 then s.refuse src (portReg p Reg.swiSampleCtrl) .badValue
  else (s.store (portReg p Reg.swiSampleCtrl) v).modPort p fun t => { t with sampled := 0 }

/-- SAMPLE_CTRL_WRITE (R240). -/
def execSampleCtrlWrite (src : Src) (p : Nat) (value : Nat) (s : State) : Out := .next ((s.external 1).sampleCtrlWrite src p value)

/-! Punnets (R248-R251). -/

/-- A range of a stack is zeroed by whole blocks: blocks that did not read are rewritten. -/
def State.zeroHbm (s : State) (k off n : Nat) : State :=
  s.modCtrl k fun c =>
    let hit (b : Nat) : Bool := decide (off ≤ b * 64) && decide (b * 64 < off + n)
    { c with
      mem := zeroBytes c.mem off n, bad := c.bad.filter fun b => !hit b,
      rewritten := c.rewritten ++ (c.bad.filter hit).filter fun b => !c.rewritten.contains b }

/-- The buffer at the head of a controller's dirty queue is zeroed and joins its free list, linked to the one before it (R247, R249). -/
def State.hmZeroed (s : State) (k : Nat) : State :=
  match (s.ctrl k).dirty with
  | [] => s
  | (i, b) :: r =>
    let p := s.hmPool k i
    let s1 := (s.zeroHbm k (s.hmOffset p + b * hmSize i) (hmSize i)).modCtrl k fun c => { c with dirty := r }
    let s2 := s1.hmPut k i (p.zeroed b) b
    if (p.buf b).st = .dirty then s2.hmLink k i b (Config.freeLink (p.free.headD p.fresh)).toNat else s2

/-- The buffer at the head of a port die's dirty queue is zeroed and joins its free list (R249). -/
def State.pkZeroed (s : State) (n : Nat) : State :=
  match (s.pdie n).dirty with
  | [] => s
  | (i, b) :: r => (s.modPdie n fun d => { d with dirty := r }).withPool n i ((s.pool n i).zeroed b)

/-- DIRTY_ZEROED: units 0-3 are the port dies, 4-15 the controllers (R249). -/
def execDirtyZeroed (unit : Nat) (s : State) : Out := .next (if unit < 4 then s.pkZeroed unit else s.hmZeroed (unit - 4))

/-- PUN_PK_RETURN (R248). -/
def execPunPkReturn (_src : Src) (n : Nat) (ptr : Nat) (s : State) : Out := .next ((s.external 1).pkPtr n (ptr % 2 ^ 32) .ret)

/-- PUN_PK_QUAR_RELEASE (R248). -/
def execPunPkQuarRelease (_src : Src) (n : Nat) (ptr : Nat) (s : State) : Out :=
  .next ((s.external 1).pkPtr n (ptr % 2 ^ 32) .release)

/-- A read of PUN_HM_ALLOC_s allocates and answers the buffer's address (R251). -/
def State.hmAllocRead (s : State) (src : Src) (k i : Nat) : State :=
  let r := s.hmAlloc k i
  r.2.emit (.readReply src (memReg k (Reg.punHmAlloc i)) (BitVec.ofNat 64 r.1))

/-- PUN_HM_ALLOC (R251). -/
def execPunHmAlloc (src : Src) (k : Nat) (i : Nat) (s : State) : Out := .next (s.hmAllocRead src k i)

/-- PUN_HM_FREE: the host and the porter act as owner 0 (R248, R251). -/
def execPunHmFree (_src : Src) (k : Nat) (addr : Nat) (s : State) : Out := .next ((s.external 1).hmPtr k (addr % 2 ^ 48) 0 .ret)

/-- PUN_HM_REF (R248). -/
def execPunHmRef (_src : Src) (k : Nat) (addr : Nat) (s : State) : Out := .next ((s.external 1).hmPtr k (addr % 2 ^ 48) 0 .ref)

/-- PUN_HM_QUAR_RELEASE (R251). -/
def execPunHmQuarRelease (_src : Src) (k : Nat) (addr : Nat) (s : State) : Out :=
  .next ((s.external 1).hmPtr k (addr % 2 ^ 48) 0 .release)

/-- A write of PUN_HM_CFG_s, counted where it is refused (R250). -/
def State.hmConfigWrite (s : State) (src : Src) (k i v : Nat) : State :=
  let r := s.hmConfig k i v
  match r.2 with
  | some c => r.1.refuse src (memReg k (Reg.punHmCfg i)) c
  | none => r.1

/-- PUNNET_ENABLE (R250). -/
def execPunnetEnable (src : Src) (k : Nat) (i : Nat) (value : Nat) (s : State) : Out :=
  .next ((s.external 1).hmConfigWrite src k i (value ||| 1))

/-- PUNNET_DISABLE (R250). -/
def execPunnetDisable (src : Src) (k : Nat) (i : Nat) (value : Nat) (s : State) : Out :=
  .next ((s.external 1).hmConfigWrite src k i (value - value % 2))

end Sys2Proof.Machine
end

