-- ==== Sys2Proof/Machine/Remote.lean ====
section
/-! DEFINITION. Remote memory (R289-R297): the remote opcodes and TRIGGER at the issuing tile, responses, repeats; and the
requests that arrive at a target. -/

namespace Sys2Proof.Machine

/-! Requests that an iteration sends. -/

/-- One request of an iteration. -/
structure Req where
  use : ReqUse
  op : Nat
  /-- Fabric address. -/
  addr : Nat
  arg0 : Nat
  arg1 : Nat
  len : Nat
  /-- The part of operand A that goes along, by offset and length in the iteration's data. -/
  src : Nat × Nat
  deriving DecidableEq, Repr

/-- Cut a range of `n` bytes from fabric offset `a` at 1 KiB boundaries (R290): offsets in the range, and lengths. -/
def cutKib : Nat → Nat → Nat → Nat → List (Nat × Nat)
  | 0, _, _, _ => []
  | fuel + 1, a, o, n =>
    if n = 0 then []
    else
      let m := min n (1024 - a % 1024)
      (o, m) :: cutKib fuel (a + m) (o + m) (n - m)

/-- The part of row ranges that holds bytes `o` to `o + n - 1` of their data. -/
def cutRuns : List (Int × Nat) → Nat → Nat → List (Int × Nat)
  | [], _, _ => []
  | r :: rs, o, n =>
    if n = 0 then []
    else if r.2 ≤ o then cutRuns rs (o - r.2) n
    else
      let m := min n (r.2 - o)
      (r.1 + (o : Int), m) :: cutRuns rs 0 (n - m)

/-- Check ranges that will be read. -/
def canRead (e : Run) (space : Nat) (rs : List (Int × Nat)) : It Unit :=
  match space with
  | 1 => need (rs.all (inSpace tileBytes)) 0x05
  | 4 => checkHbmRuns e rs
  | _ => need (rs.all (inSpace 32)) 0x05

/-- Fabric address of an operand in this iteration (R287, R289): its offset stays in [39:0] and aligned. -/
def fabricAt (e : Run) (o : Opnd) (align : Nat) : It Nat := do
  let a := e.at o
  need (decide (0 ≤ a) && decide (a + o.length ≤ 2 ^ 40)) 0x05
  need (a.toNat % align == 0) 0x02
  pure (fabricAddr o.node o.fspace (a.toNat + o.offHi <<< 40))

/-- The data of a request. -/
def reqData (e : Run) (q : Req) : It Bytes :=
  if q.op = 2 then readRuns e (opA e.d).space (cutRuns (e.rows (opA e.d)) q.src.1 q.src.2) else pure []

/-- Send one request, or stop with what has been sent where the tile may send no more (R290). -/
def sendReq (e : Run) (q : Req) (data : Bytes) (qc rc node : Nat) : It Unit := do
  let s ← get
  if ¬ (s.tile e.t).mayRequest then throw .hold
  let s1 := (s.sendRequest e.t e.c e.j q.use qc rc q.op node q.addr q.arg0 q.arg1 q.len data).modCtx e.t e.c fun x =>
    { x with part := x.part + 1 }
  set (if q.use = .fp32Add then s1.tdcTile e.t 1 else s1)

/-- Send requests in order. -/
def sendReqs (e : Run) (qc rc node : Nat) : List Req → It Unit
  | [] => pure ()
  | q :: l => do
    let s ← get
    if ¬ (s.tile e.t).mayRequest then throw .hold
    let b ← reqData e q
    sendReq e q b qc rc node
    sendReqs e qc rc node l

/-- Wait for the responses of the iteration. -/
def awaitAll (e : Run) : It Unit := do
  let s ← get
  if (s.tile e.t).awaits e.c then throw .hold

/-- How many requests the iteration has sent. -/
def sentSoFar (e : Run) : It Nat := do
  let s ← get
  pure (s.ctx e.t e.c).part

/-- The data that responses have brought, `n` bytes. -/
def arrivedData (e : Run) (n : Nat) : It Bytes := do
  let s ← get
  pure ((s.ctx e.t e.c).arrived.foldl (fun b x => splice b x.1 x.2) (zeros n))

/-- Run the requests of an iteration: those not yet sent, then the wait for every response. -/
def runReqs (e : Run) (node : Nat) (qs : List Req) : It Unit := do
  let n ← sentSoFar e
  sendReqs e (dImmBits e.d 2 0) (dImmBits e.d 5 3) node (qs.drop n)
  awaitAll e

/-- RLOAD (R290): the local writes are made when every request has its response. -/
def rloadBody (e : Run) : It (State → State) := do
  let a := opA e.d
  let o := opD e.d
  let f ← fabricAt e a 8
  canWrite e o.space (e.rows o)
  runReqs e a.node ((cutKib (a.length / 1024 + 2) f 0 a.length).map fun x => ⟨.load x.1, 1, f + x.1, 0, 0, x.2, (0, 0)⟩)
  let b ← arrivedData e a.length
  writeOpnd e o b

/-- RSTORE (R290). -/
def rstoreBody (e : Run) : It (State → State) := do
  let a := opA e.d
  let o := opD e.d
  let f ← fabricAt e o 8
  canRead e a.space (e.rows a)
  runReqs e o.node ((cutKib (o.length / 1024 + 2) f 0 o.length).map fun x => ⟨.store, 2, f + x.1, 0, 0, x.2, x⟩)
  pure id

/-- The operands of an atomic, read once: before its request is sent. -/
def atomicArgs (e : Run) (n : Nat) : It Bytes := do
  let k ← sentSoFar e
  if k = 0 then readRuns e (opA e.d).space (e.rows (opA e.d)) else pure (zeros n)

/-- The old value of an atomic can go to B, if B takes it. -/
def canReturn (e : Run) : It Unit :=
  let b := opB e.d
  if b.space = 0 then pure () else canWrite e b.space [(e.at b, 8)]

/-- The old value of an atomic goes to B, if B takes it. -/
def returnOld (e : Run) (old : Bytes) : It (State → State) :=
  let b := opB e.d
  if b.space = 0 then pure id else writeAt e b.space (e.at b) old

/-- An atomic that returns the old value to B (R291). -/
def atomicBody (e : Run) (op n : Nat) : It (State → State) := do
  let o := opD e.d
  let f ← fabricAt e o 8
  canReturn e
  let v ← atomicArgs e n
  runReqs e o.node [⟨.atomic, op, f, rdLe v 0 8, rdLe v 8 8, 0, (0, 0)⟩]
  let old ← arrivedData e 8
  returnOld e old

/-- RFADD (R291). -/
def rfaddBody (e : Run) : It (State → State) := atomicBody e 3 8

/-- RCAS (R291). -/
def rcasBody (e : Run) : It (State → State) := atomicBody e 4 16

/-- The TERM_FMT and the terms of an RACC as they travel, and the ACC_STATUS flags that forming them sets: as they stand; of a number
format, as FP32 where FP32 holds every term, else as raw long words, so that each term is added exactly (R157, R158, R173; log entry 29). -/
def raccData (e : Run) : It (Nat × Bytes × Nat) := do
  let a := opA e.d
  let tf := dImmBits e.d 7 6
  if tf = 0 then
    let v ← readScaled e a
    let w := v.map fun x => encodeNum 2 Rnd.rne x.1
    let ts := v.map fun x => termOf x.1
    pure (if w.all fun x => x.2 == 0 then (0, w.flatMap fun x => natLe 4 x.1, 0)
      else (3, ts.flatMap fun x => (Slot.zero.add x.1).1.raw, ts.foldl (fun f x => f ||| x.2) 0))
  else
    let b ← readRuns e a.space [(e.at a, a.cols * termBytes tf)]
    pure (tf, b, 0)

/-- RACC (R173). -/
def raccBody (e : Run) : It (State → State) := do
  let a := opA e.d
  let o := opD e.d
  let f ← fabricAt e o 1
  need (bits f 18 4 == 0) 0x02
  let k ← sentSoFar e
  if k = 0 then
    let b ← raccData e
    sendReq e ⟨.exactAdd, 5, f, b.1 + (a.cols - 1) <<< 2, 0, b.2.1.length, (0, 0)⟩ b.2.1 (dImmBits e.d 2 0) (dImmBits e.d 5 3) o.node
    modify fun s => s.modTile e.t (·.accFlag b.2.2)
  awaitAll e
  pure id

/-- RFPADD (R174, R291). -/
def rfpaddBody (e : Run) : It (State → State) := do
  let a := opA e.d
  let o := opD e.d
  let f ← fabricAt e o 4
  let k ← sentSoFar e
  let v ← if k = 0 then readRuns e a.space (e.rows a) else pure []
  runReqs e o.node [⟨.fp32Add, 6, f, rdLe v 0 4, 0, 0, (0, 0)⟩]
  pure id

/-- TRIGGER (R150): one request with the 32 B argument; it completes on the response. -/
def triggerBody (e : Run) : It (State → State) := do
  let w := dWord e.d 4
  let a := dBits e.d 5 39 0
  need (a % 32 == 0 && decide (a + 32 ≤ tileBytes)) 0x05
  let k ← sentSoFar e
  if k = 0 then
    let b ← readTileRuns e [((a : Int), 32)]
    let s ← get
    let m := s.classMask e.owner
    sendReq e ⟨.trigger, 8, fabricAddr (bits w 13 0) 3 (bits w 28 14 + (bits w 34 29) <<< 15), 0, 0, 32, (0, 0)⟩ b (lowClass m)
      (highClass m) (bits w 13 0)
  awaitAll e
  pure id

/-- RLOAD (R290). -/
def execRload (t c : Nat) (s : State) : Out := .next (s.iterate t c 0x60 rloadBody)
/-- RSTORE (R290). -/
def execRstore (t c : Nat) (s : State) : Out := .next (s.iterate t c 0x61 rstoreBody)
/-- RFADD (R291). -/
def execRfadd (t c : Nat) (s : State) : Out := .next (s.iterate t c 0x62 rfaddBody)
/-- RCAS (R291). -/
def execRcas (t c : Nat) (s : State) : Out := .next (s.iterate t c 0x63 rcasBody)
/-- RACC (R173). -/
def execRacc (t c : Nat) (s : State) : Out := .next (s.iterate t c 0x64 raccBody)
/-- RFPADD (R174). -/
def execRfpadd (t c : Nat) (s : State) : Out := .next (s.iterate t c 0x65 rfpaddBody)
/-- TRIGGER (R150). -/
def execTrigger (t c : Nat) (s : State) : Out := .next (s.iterate t c 0x07 triggerBody)

/-! Responses (R292, R293, R296, R297). -/

/-- STATUS of a response. -/
def rsStatus (p : Bytes) : Nat := rdLe p 3 1
/-- VALUE of a response. -/
def rsValue (p : Bytes) : Nat := rdLe p 8 8

/-- A response header is valid (Tables 12-5 and 12-6). -/
def responseOk (p : Bytes) : Bool :=
  decide (16 ≤ p.length) && bits (rdLe p 2 1) 7 4 == 0 && decide (1 ≤ rqOp p) && decide (rqOp p ≤ 8) && bits (rdLe p 4 2) 15 15 == 0 &&
    bits (rdLe p 6 2) 15 11 == 0 && p.length == 16 + rdLe p 6 2 && decide (rsStatus p ≤ 9)

/-- A response answers a request: its OP, the data of a load of more than 8 B, DUP_RELOAD to such a load alone. -/
def answers (p : Bytes) (r : OutReq) : Bool :=
  rqOp p == rqOp r.frame.payload && (rsStatus p != 1 || (rqOp p == 1 && decide (8 < rqLen r.frame.payload))) &&
    (rdLe p 6 2 == if rqOp p = 1 ∧ 8 < rqLen r.frame.payload ∧ rsStatus p = 0 then rqLen r.frame.payload else 0)

/-- The cause of a status (Table 12-7). -/
def statusCause (st : Nat) : Nat :=
  match st with
  | 2 => 0x30 | 3 => 0x31 | 4 => 0x32 | 5 => 0x33 | 6 => 0x34 | 8 => 0x36 | 9 => 0x37 | _ => 0x35

/-- Cause and DETAIL that a response raises for a request, if any (R150, R173, R297). -/
def responseCause (use : ReqUse) (st v : Nat) : Option (Nat × Nat) :=
  let own (cause noRoute : Nat) : Option (Nat × Nat) :=
    if st = 0 then (if v = 0 then none else some (cause, v % 16))
    else if st = 5 then some (cause, noRoute) else some (statusCause st, st)
  match use with
  | .signal => none
  | .trigger => own 0x20 6
  | .exactAdd => own 0x38 5
  | _ => if st ≤ 1 then none else some (statusCause st, st)

/-- The request `id` of a tile is no longer awaited. -/
def Tile.dropReq (t : Tile) (id : Nat) : Tile := { t with reqs := t.reqs.filter (·.id != id) }

/-- A request raises its cause at its iteration (R297). -/
def State.raiseReq (s : State) (t : Nat) (r : OutReq) (k : Nat × Nat) : State :=
  match (s.ctx t r.ctx).desc with
  | none => s
  | some d => s.raiseExc t r.ctx ⟨k.1, false, dIdx d r.iter, k.2⟩ false

/-- A load is issued again as a new request (R296). -/
def State.reload (s : State) (t : Nat) (r : OutReq) : State :=
  let p := r.frame.payload
  (s.tileCount t 0x15 1).sendRequest t r.ctx r.iter r.use r.frame.cls (rqRsp p) (rqOp p) r.frame.dest (rqAddr p) (rqArg0 p) (rqArg1 p)
    (rqLen p) (p.drop 32)

/-- The data of a good response goes to the iteration that waits for it. -/
def State.bring (s : State) (t : Nat) (r : OutReq) (p : Bytes) : State :=
  let put (o : Nat) (b : Bytes) : State := s.modCtx t r.ctx fun x => { x with arrived := x.arrived ++ [(o, b)] }
  match r.use with
  | .load o => put o (if rqLen r.frame.payload ≤ 8 then natLe 8 (rsValue p) else p.drop 16)
  | .atomic => put 0 (natLe 8 (rsValue p))
  | _ => s

/-- Loads answered DUP_RELOAD are issued anew, oldest first, while the tile may send requests (R290, R296). -/
def State.reissue (s : State) (t : Nat) : State :=
  forEach ((s.tile t).reqs.filter (·.attempts == 0)) (fun r s =>
    if (s.tile t).mayRequest then (s.modTile t (·.dropReq r.id)).reload t r else s) s

/-- A request answered DUP_RELOAD has its response; it waits to be issued anew. -/
def Tile.again (x : Tile) (id : Nat) : Tile :=
  { x with reqs := x.reqs.map fun q => if q.id = id then { q with attempts := 0 } else q }

/-- A response to a request that the tile awaits. A BUSY answer leaves it to be repeated, but for the last attempt. -/
def State.respond (s : State) (t : Nat) (r : OutReq) (p : Bytes) : State :=
  let st := rsStatus p
  let s1 := s.modTile t (·.dropReq r.id)
  if st = 7 ∧ r.attempts < 4 then s
  else if r.use = .signal then if st ≠ 0 ∨ rsValue p = 1 then s1.tileCount t 0x16 1 else s1
  else if st = 1 then s.modTile t (·.again r.id)
  else
    match responseCause r.use st (rsValue p) with
    | some k => s1.raiseReq t r k
    | none => s1.bring t r p

/-- RESPONSE_RECEIVE (R297): an invalid response is dropped and counted (R292); one that is not awaited is discarded (R293). -/
def execResponseReceive (f : Frame) (s : State) : Out :=
  let p := f.payload
  let t := s.phys (rqTile p)
  let s1 := if f.src = s.node then s else s.external 1
  if f.kind ≠ 2 ∨ f.dest ≠ s.node then .next s
  else if ¬ responseOk p then .next (s1.bump (pdReg (rqTile p % 4) Reg.rmaRejectCnt))
  else
    match (s.tile t).reqs.find? (fun q => q.id == rqId p && q.attempts != 0) with
    | none => .next s1
    | some r => .next (if answers p r then (s1.respond t r p).reissue t else s1.bump (pdReg (rqTile p % 4) Reg.rmaRejectCnt))

/-- A request frame with RETRY set. -/
def retryFrame (f : Frame) (now : Nat) : Frame :=
  { f with origin := now, payload := splice f.payload 2 (natLe 1 (rdLe f.payload 2 1 ||| 16)) }

/-- REQUEST_RETRY (R293): 20 µs without a response. The request is sent again, or after 4 attempts the descriptor raises
RMA_TIMEOUT; a signal counts as SIGNAL_LOST. A load that waits to be issued anew is issued if it now may be (R296). -/
def execRequestRetry (t reqId : Nat) (s : State) : Out :=
  match (s.tile t).reqs.find? (·.id == reqId) with
  | none => .next s
  | some r =>
    if r.attempts = 0 then .next (s.reissue t)
    else if r.attempts < 4 then
      let f := retryFrame r.frame s.now
      let s1 := s.modTile t fun x => { x with
        reqs := x.reqs.map fun q => if q.id = reqId then { q with attempts := q.attempts + 1, sentAt := s.clk.kclk } else q }
      .next ((s1.tileSend (s.logicalOf t) f).tileCount t 0x14 1)
    else
      let s1 := s.modTile t (·.dropReq reqId)
      .next ((if r.use = .signal then s1.tileCount t 0x16 1 else s1.raiseReq t r (0x35, 0)).reissue t)

/-! Requests at their target. -/

/-- REQUEST_LOAD (R294). -/
def execRequestLoad (f : Frame) (upset : Upset) (s : State) : Out := .next (s.requestLoad f upset)
/-- REQUEST_STORE (R294). -/
def execRequestStore (f : Frame) (upset : Upset) (s : State) : Out := .next (s.requestStore f upset)
/-- REQUEST_FETCH_ADD (R291). -/
def execRequestFetchAdd (f : Frame) (upset : Upset) (s : State) : Out := .next (s.requestFetchAdd f upset)
/-- REQUEST_COMPARE_SWAP (R291). -/
def execRequestCompareSwap (f : Frame) (upset : Upset) (s : State) : Out := .next (s.requestCas f upset)
/-- REQUEST_EXACT_ADD (R173). -/
def execRequestExactAdd (f : Frame) (mismatches : Nat) (localBusy : Bool) (s : State) : Out :=
  .next (s.requestExact f mismatches localBusy)
/-- REQUEST_FP32_ADD (R174). -/
def execRequestFp32Add (f : Frame) (upset : Upset) (s : State) : Out := .next (s.requestFp32 f upset)
/-- REQUEST_SIGNAL (R140). -/
def execRequestSignal (f : Frame) (s : State) : Out := .next (s.requestSignal f)
/-- REQUEST_TRIGGER (R150). -/
def execRequestTrigger (f : Frame) (s : State) : Out := .next (s.requestTrigger f)

end Sys2Proof.Machine
end

