-- ==== Sys2Proof/Machine/Control.lean ====
section
/-! DEFINITION. The control opcodes (R135, R137, R141, R142, R146, R147), the collective opcodes (R194-R198), and LOOP_ITERATION
over every opcode (R136). -/

namespace Sys2Proof.Machine

/-! Comparators (R141). -/

/-- A test on an order: whether the value equals, and lies below, the reference. -/
def orderTest (op : Nat) (eq lt : Bool) : Bool :=
  match op with
  | 0 => eq | 1 => !eq | 2 => lt | 3 => lt || eq | 4 => !lt && !eq | _ => !lt

/-- A test on a counter: the signed difference of R138. -/
def counterTest (op : Nat) (v w : BitVec 32) : Bool :=
  orderTest op (v == w) (decide (sgn 32 (v - w).toNat < 0))

/-- A test on an FP32 summary field: false with a NaN operand, but for NE. -/
def floatTest (op : Nat) (v w : BitVec 32) : Bool :=
  let x := decodeElem 2 v.toNat
  let y := decodeElem 2 w.toNat
  if x.isNan || y.isNan then op == 1 else orderTest op (x.eqv y) (x.lt y)

/-- A field of a summary slot by its code (Table 5-5). -/
def SumVals.field (v : SumVals) (f : Nat) : BitVec 32 :=
  match f with
  | 0 => v.max | 1 => v.min | 2 => v.sum | 3 => v.nz | 4 => v.argmax | _ => BitVec.ofNat 32 (b2n v.anynan)

/-- Result of a comparator at a tile. -/
def Comparator.result (k : Comparator) (t : Tile) : Bool :=
  if k.summary then
    let v := (mapGet Summary.empty k.src t.sums).vals.field k.field
    if k.field ≤ 2 then floatTest k.op v k.refVal else orderTest k.op (v == k.refVal) (decide (v.toNat < k.refVal.toNat))
  else counterTest k.op (t.counter k.src) (if k.refCounter then t.counter k.refCnt else k.refVal)

/-! Bodies of the control opcodes. -/

/-- NOP (R135). -/
def nopBody (_e : Run) : It (State → State) := noEffect

/-- SELECT: the comparator is read, once no summary of it is pending (R142). -/
def selectorBody (e : Run) : It (State → State) := do
  let s ← get
  let y := s.tile e.t
  match mapGet none (dBits e.d 4 44 42) y.cmps with
  | none => fail 0x02
  | some k =>
    if k.summary && y.sumPending k.src then throw .wait
    pure fun s => s.modCtx e.t e.c fun x => { x with result := some (k.result (s.tile e.t)) }

/-- SETMODE (R146). -/
def setmodeBody (e : Run) : It (State → State) :=
  pure fun s => s.modTile e.t fun y => { y with numMode := BitVec.ofNat 5 (dImm e.d) }

/-- The comparator that a CMPSET programs (Table 6-7). -/
def cmpOf (d : Bytes) : Comparator :=
  let sum := dImmBits d 3 3 == 1
  { summary := sum, src := if sum then dImmBits d 5 4 else dImmBits d 7 4, field := dImmBits d 10 8, op := dImmBits d 13 11,
    refCounter := dImmBits d 14 14 == 1, refCnt := dImmBits d 18 15, refVal := BitVec.ofNat 32 (dBits d 4 31 0) }

/-- CMPSET (R141). -/
def cmpsetBody (e : Run) : It (State → State) :=
  pure fun s => s.modTile e.t fun y => { y with cmps := mapPut none (dImmBits e.d 2 0) (some (cmpOf e.d)) y.cmps }

/-- CNTSET (R137). -/
def cntsetBody (e : Run) : It (State → State) :=
  pure fun s => s.modTile e.t (·.withCounter (dImmBits e.d 3 0) (BitVec.ofNat 32 (dBits e.d 4 31 0)))

/-- First instance of a timer armed at `now` (R147). -/
def firstInstance (t0 period now : Nat) : Nat := if now ≤ t0 then 0 else (now - t0) / max 1 period + 1

/-- PERIODIC (R147): arms a timer, or with PERIOD 0 disarms it. -/
def periodicBody (e : Run) : It (State → State) :=
  let t0 := dWord e.d 4
  let p := dBits e.d 5 47 0
  pure fun s =>
    let x : Option Timer := if p = 0 then none
      else some ⟨dImmBits e.d 1 1 == 1, dImmBits e.d 7 2, t0, p, firstInstance t0 p s.now, none⟩
    s.modTile e.t fun y => { y with timers := mapPut none (dImmBits e.d 0 0) x y.timers }

/-- NOP (R135). -/
def execNop (t c : Nat) (s : State) : Out := .next (s.iterate t c 0x01 nopBody)
/-- SELECT (R142). -/
def execSelect (t c : Nat) (s : State) : Out := .next (s.iterate t c 0x02 selectorBody)
/-- SETMODE (R146). -/
def execSetmode (t c : Nat) (s : State) : Out := .next (s.iterate t c 0x03 setmodeBody)
/-- CMPSET (R141). -/
def execCmpset (t c : Nat) (s : State) : Out := .next (s.iterate t c 0x04 cmpsetBody)
/-- CNTSET (R137). -/
def execCntset (t c : Nat) (s : State) : Out := .next (s.iterate t c 0x05 cntsetBody)
/-- PERIODIC (R147). -/
def execPeriodic (t c : Nat) (s : State) : Out := .next (s.iterate t c 0x06 periodicBody)

/-! Collective opcodes (R194-R198). -/

/-- ALLRED. -/
def execAllred (t c : Nat) (s : State) : Out := .next (s.iterate t c 0x80 colBody)
/-- REDSCAT. -/
def execRedscat (t c : Nat) (s : State) : Out := .next (s.iterate t c 0x81 colBody)
/-- ALLGATH. -/
def execAllgath (t c : Nat) (s : State) : Out := .next (s.iterate t c 0x82 colBody)
/-- BCAST. -/
def execBcast (t c : Nat) (s : State) : Out := .next (s.iterate t c 0x83 colBody)
/-- BARRIER. -/
def execBarrier (t c : Nat) (s : State) : Out := .next (s.iterate t c 0x84 colBody)
/-- ALLTOALL. -/
def execAlltoall (t c : Nat) (s : State) : Out := .next (s.iterate t c 0x85 colBody)
/-- ALLTOALLV. -/
def execAlltoallv (t c : Nat) (s : State) : Out := .next (s.iterate t c 0x86 colBody)
/-- SORTMERGE. -/
def execSortmerge (t c : Nat) (s : State) : Out := .next (s.iterate t c 0x87 colBody)
/-- FILTCOMP. -/
def execFiltcomp (t c : Nat) (s : State) : Out := .next (s.iterate t c 0x88 colBody)
/-- PARENC. -/
def execParenc (t c : Nat) (s : State) : Out := .next (s.iterate t c 0x89 colBody)
/-- PARREB. -/
def execParreb (t c : Nat) (s : State) : Out := .next (s.iterate t c 0x8A colBody)

/-! LOOP_ITERATION. -/

/-- The residue mismatches among a step's upset. -/
def mismatchesOf : Upset → Nat
  | .residue n => n
  | _ => 0

/-- What an iteration of an opcode does, with the residue mismatches that its adds meet. -/
def bodyOf (op mismatches : Nat) : Run → It (State → State) :=
  match op with
  | 0x01 => nopBody | 0x02 => selectorBody | 0x03 => setmodeBody | 0x04 => cmpsetBody | 0x05 => cntsetBody | 0x06 => periodicBody
  | 0x07 => triggerBody
  | 0x10 => mmaBody | 0x11 => pruneBody
  | 0x50 => copyBody | 0x51 => fillBody | 0x52 => ocloadBody | 0x53 => ocevictBody
  | 0x60 => rloadBody | 0x61 => rstoreBody | 0x62 => rfaddBody | 0x63 => rcasBody | 0x64 => raccBody | 0x65 => rfpaddBody
  | 0x70 => accsumBody mismatches | 0x71 => accreadBody | 0x72 => accclrBody | 0x73 => accstoreBody | 0x74 => accloadBody
  | 0x78 => ssortBody | 0x79 => sgatherBody | 0x7A => sfilterBody | 0x7B => sminmaxBody
  | _ => if isCollective op then colBody else vectorBody op

/-- LOOP_ITERATION (R136), with an upset that the step meets. -/
def State.loopIteration (s : State) (t c : Nat) (u : Upset) : State :=
  let s1 := s.upset t u
  match (s1.ctx t c).runner none with
  | none => s1
  | some (d, sh) => if s1.iterReady t c d sh then s1.runBody t c d sh (bodyOf (dOp d) (mismatchesOf u)) else s1

/-- LOOP_ITERATION (R136). -/
def execLoopIteration (t c : Nat) (upset : Upset) (s : State) : Out := .next (s.loopIteration t c upset)

end Sys2Proof.Machine
end

