-- ==== Sys2Proof/Machine/Sequencer.lean ====
section
/-! DEFINITION. The sequencer (R128-R131, R142, R147-R155): fetches, issue, completion, starts, and its register writes. -/

namespace Sys2Proof.Machine

/-! Fetches (R130, R154). -/

/-- The bytes at a descriptor pointer: none where the access is held, an empty list where the fetch fails. -/
def State.fetchBytes (s : State) (t addr space : Nat) : State × Option Bytes :=
  if addr % 128 ≠ 0 then (s, some [])
  else if space = 1 then
    let y := s.tile t
    (s, some (if addr + 128 ≤ tileBytes ∧ ¬ y.memHurt addr 128 then y.readMem addr 128 else []))
  else
    match s.ownerPieces (s.physOwner t) addr 128 with
    | none => (s, some [])
    | some ps =>
      if s.windowGone (s.physOwner t) addr 128 then (s, some [])
      else if s.piecesHeld ps then (s, none)
      else
        let r := s.readPieces ps false 0
        (r.1, some (if r.2.2 then [] else r.2.1))

/-- The current descriptor's fetch ends. -/
def State.fetchCurrent (s : State) (t c : Nat) : State :=
  let x := s.ctx t c
  if x.st = .idle ∨ x.desc.isSome then s
  else
    let r := s.fetchBytes t x.addr x.space
    match r.2 with
    | none => s
    | some [] => r.1.raiseExc t c ⟨0x07, true, [], 0⟩ false
    | some b => r.1.modCtx t c fun x => { x with desc := some b }

/-- A successor's fetch ends. -/
def State.fetchSucc (s : State) (t c : Nat) (u : Option Succ) (put : Ctx → Option Succ → Ctx) : State :=
  match u with
  | none => s
  | some v =>
    if v.bytes.isSome then s
    else
      let r := s.fetchBytes t v.addr v.space
      match r.2 with
      | none => s
      | some b => r.1.modCtx t c fun x => put x (some { v with bytes := some b })

/-- DESCRIPTOR_FETCH (R130): the current descriptor (0), its successor (1), or the taken successor of a SELECT (2). -/
def execDescriptorFetch (t c which : Nat) (upset : Upset) (s : State) : Out :=
  let s1 := s.upset t upset
  if ¬ s1.clocked t then .next s1
  else
    match which with
    | 0 => .next (s1.fetchCurrent t c)
    | 1 => .next (s1.fetchSucc t c (s1.ctx t c).succ0 fun x u => { x with succ0 := u })
    | _ => .next (s1.fetchSucc t c (s1.ctx t c).succ1 fun x u => { x with succ1 := u })

/-- DESCRIPTOR_ISSUE (R129). -/
def execDescriptorIssue (t : Nat) (s : State) : Out := .next (s.descIssue t)
/-- DESCRIPTOR_COMPLETE (R128). -/
def execDescriptorComplete (t c : Nat) (s : State) : Out := .next (s.descComplete t c)
/-- SELECT_RESOLVE (R142). -/
def execSelectResolve (t c : Nat) (s : State) : Out := .next (s.selectResolve t c)

/-! Starts (R131, R147, R148, R150, R153). -/

/-- The lowest idle context. -/
def Tile.freeCtx (t : Tile) : Option Nat := ctxIds.find? fun c => (t.ctx c).st == .idle

/-- Start an instance in a context, from a graph-table entry; kinds: 0 trigger, 1 periodic, 2 handler (log entry 37). -/
def State.startIn (s : State) (t c graph entry kind : Nat) (args : List Word) (timer : Option Nat) : State :=
  (s.withCtx t c { Ctx.idle with
    st := .running, args := args, addr := bits entry 39 0, space := graphSpace entry, timer := timer, graph := graph }).traceTile t 7
    (natLe 1 graph ++ natLe 1 c ++ natLe 1 kind)

/-- A timer's previous instance has not ended. -/
def Tile.timerBusy (t : Tile) (k : Nat) : Bool := ctxIds.any fun c => (t.ctx c).st != .idle && (t.ctx c).timer == some k

/-- Timer `k`. -/
def Tile.timer (t : Tile) (k : Nat) : Option Timer := mapGet none k t.timers

/-- Replace timer `k`. -/
def Tile.withTimer (t : Tile) (k : Nat) (x : Timer) : Tile := { t with timers := mapPut none k (some x) t.timers }

/-- A late start of timer `k` waits for nothing but a context. -/
def Tile.lateDue (t : Tile) (k : Nat) : Bool :=
  match t.timer k with
  | some x => x.pendingLate.isSome && !t.timerBusy k
  | none => false

/-- GRAPH_START (R131): the oldest queued trigger takes the lowest free context, behind the handler and late starts. -/
def execGraphStart (t : Nat) (s : State) : Out :=
  let y := s.tile t
  match y.trigQ, y.freeCtx with
  | q :: l, some c =>
    if ¬ s.mayRun t ∨ y.handler.isSome ∨ y.lateDue 0 ∨ y.lateDue 1 then .next s
    else .next ((s.modTile t fun x => { x with trigQ := l }).startIn t c q.graph q.entry 0 q.args none)
  | _, _ => .next s

/-- Argument of a periodic instance: its number and its start time. -/
def Timer.args (x : Timer) (n : Nat) : List Word := [BitVec.ofNat 64 n, BitVec.ofNat 64 (x.t0 + n * x.period), 0, 0]

/-- PERIODIC_START (R147, R148): once its time has come the instance starts, or overruns. -/
def execPeriodicStart (t timer : Nat) (s : State) : Out :=
  let y := s.tile t
  match y.timer timer with
  | none => .next s
  | some x =>
    if s.now < x.due then .next s
    else if ¬ s.clocked t then .next (if s.active t then s.wakeBlock (physBlock t) else s)
    else
      let n := x.next
      let entry := y.graph x.graph
      let late := x.pendingLate.isSome
      match (if y.timerBusy timer ∨ late ∨ s.inLead t ∨ ¬ graphOn entry then none else y.freeCtx) with
      | some c => .next ((s.modTile t (·.withTimer timer { x with next := n + 1 })).startIn t c x.graph entry 1 (x.args n) (some timer))
      | none =>
        .next (s.modTile t fun z => { (z.withTimer timer { x with
          next := n + 1, pendingLate := if x.late ∧ graphOn entry ∧ ¬ late then some n else x.pendingLate }) with
          periodOverrun := satAdd z.periodOverrun 1 })

/-- LATE_START (R148). A disabled entry always skips. -/
def execLateStart (t timer : Nat) (s : State) : Out :=
  let y := s.tile t
  match y.timer timer, y.freeCtx with
  | some x, some c =>
    match x.pendingLate with
    | none => .next s
    | some n =>
      let s1 := s.modTile t (·.withTimer timer { x with pendingLate := none })
      if ¬ s.mayRun t ∨ y.handler.isSome ∨ y.timerBusy timer then .next s
      else if ¬ graphOn (y.graph x.graph) then .next s1
      else .next (s1.startIn t c x.graph (y.graph x.graph) 1 (x.args n) (some timer))
  | _, _ => .next s

/-- HANDLER_START (R153). -/
def execHandlerStart (t : Nat) (s : State) : Out :=
  let y := s.tile t
  match y.handler, y.freeCtx with
  | some h, some c =>
    if s.mayRun t then .next ((s.modTile t fun x => { x with handler := none }).startIn t c 63 h.1 2 h.2 none) else .next s
  | _, _ => .next s

/-! Register writes (R137, R155). -/

/-- STOP reaches a context: at an iteration boundary it ends with SW_STOP; an iteration that has begun goes on to its end. -/
def State.stopCtx (s : State) (t c : Nat) : State :=
  let y := s.tile t
  let x := y.ctx c
  let s1 := s.dropShadow t c
  if x.st = .idle then s
  else
    match x.desc with
    | none => s1.raiseExc t c ⟨0x29, true, [], 0⟩ false
    | some d =>
      if ¬ x.issued then s1.raiseExc t c ⟨0x29, true, [], 0⟩ false
      else if x.part ≠ 0 ∨ y.awaits c ∨ (isCollective (dOp d) ∧ ¬ x.allDone) then s.modCtx t c fun z => { z with stop := true }
      else if x.iter = 0 ∧ ¬ x.allDone then s1.raiseExc t c ⟨0x29, true, [], 0⟩ false
      else s1.raiseExc t c ⟨0x29, false, dIdx d (min x.iter (dIters d - 1)), 0⟩ false

/-- STOP reaches every context of a tile. -/
def State.stopTile (s : State) (t : Nat) : State := forEach ctxIds (fun c s => s.stopCtx t c) s

/-- STOP (R155). -/
def execStop (src : Src) (t : Nat) (s : State) : Out := .next (s.tileWrite src t 0x40 (·.stopTile t))

/-- A write of DSC_CNT_ACCESS: the selection, then add or set (R137, R155). -/
def State.cntAccess (s : State) (t id op value : Nat) : State :=
  let s1 := s.modTile t fun x => { x with cntSel := id % 16 }
  match op with
  | 1 => s1.addCounter t (id % 16) value
  | 2 => s1.modTile t (·.withCounter (id % 16) (BitVec.ofNat 32 value))
  | _ => s1

/-- DSC_CNT_SELECT (R155). -/
def execDscCntSelect (src : Src) (t id value : Nat) (s : State) : Out := .next (s.tileWrite src t 0x78 (·.cntAccess t id 0 value))
/-- DSC_CNT_ADD (R137). -/
def execDscCntAdd (src : Src) (t id value : Nat) (s : State) : Out := .next (s.tileWrite src t 0x78 (·.cntAccess t id 1 value))
/-- DSC_CNT_SET (R137). -/
def execDscCntSet (src : Src) (t id value : Nat) (s : State) : Out := .next (s.tileWrite src t 0x78 (·.cntAccess t id 2 value))

end Sys2Proof.Machine
end

