-- ==== Sys2Proof/Machine/Lattice.lean ====
section
/-! DEFINITION. The lattice (R26-R31, R46): one slot of an owner's schedule. -/

namespace Sys2Proof.Machine

/-- PERIOD of a logical tile's schedule; 0 where its role reads none (R43, R44). -/
def State.schedPeriod (s : State) (l : Nat) : Nat :=
  if 1 ≤ s.tileRole l ∧ s.tileRole l ≤ 5 then bits (rdLe (s.tileRec l) 8 8) 10 0 else 0

/-- Schedule entry of a logical tile in a slot (R46). -/
def State.schedEntry (s : State) (l slot : Nat) : Nat :=
  rdLe (s.die (l / 2048)).active (bits (rdLe (s.tileRec l) 8 8) 42 11 + 4 * (slot % max 1 (s.schedPeriod l))) 4

/-- Row and column of a logical tile on the package. -/
def tileXY (l : Nat) : Nat × Nat := (l / 8192 * 32 + l / 64 % 32, l / 2048 % 4 * 64 + l % 64)

/-- The logical tile at a row and column of the package. -/
def tileAt (r c : Nat) : Nat := (r / 32 * 4 + c / 64) * 2048 + r % 32 * 64 + c % 64

/-- The neighbour of a logical tile on a side: 1 north, 2 east, 3 south, 4 west; none past the package edge (R28). -/
def latNext (l side : Nat) : Option Nat :=
  let p := tileXY l
  match side with
  | 1 => if p.1 = 0 then none else some (tileAt (p.1 - 1) p.2)
  | 2 => if p.2 = 255 then none else some (tileAt p.1 (p.2 + 1))
  | 3 => if p.1 = 127 then none else some (tileAt (p.1 + 1) p.2)
  | _ => if p.2 = 0 then none else some (tileAt p.1 (p.2 - 1))

/-- The side on which a flit sent towards `side` arrives. -/
def facing (side : Nat) : Nat := (side + 1) % 4 + 1

/-- Slots that a flit between two tiles waits before it can be used: 1 FCLK of hop on a die, 3 across an edge (R27). -/
def hopWait (l m : Nat) : Nat := if l / 2048 = m / 2048 then 0 else 2

/-- A die drives no lattice link (R31). -/
def State.dieSilent (s : State) (d : Nat) : Bool := s.dieFenced d || (s.die d).inReset

/-- A flit on its way to a physical tile. -/
abbrev Sent := Nat × Flit

/-- The side of a tile is an edge of its die towards a die that drives no link (R31). -/
def State.edgeSilent (s : State) (l side : Nat) : Bool :=
  match latNext l side with
  | some m => m / 2048 != l / 2048 && s.dieSilent (m / 2048)
  | none => false

/-- The data on an input of a tile in this slot: zero from a fenced edge, whatever was under way; else what arrived; else the link is idle and its
data is a free value. -/
def State.latIn (s : State) (l side : Nat) (here : List Flit) : State × Bytes :=
  if s.edgeSilent l side then (s, zeros 64)
  else
    match here.find? (·.side == side) with
    | some f => (s, f.data)
    | none => (s.useFreeN 64, s.freeBytes 64)

/-- A consume from a fenced edge counts, and is recorded once in each schedule period (R31). -/
def State.edgeFenced (s : State) (t l side : Nat) : State :=
  if s.edgeSilent l side then
    let s1 := s.tileCount t 0x19 1
    if (s1.tile t).edgeNoted then s1
    else (s1.modTile t fun x => { x with edgeNoted := true }).raiseFault (Unit6.ofTile l) 0x05 0 false 15 0
  else s

/-- What a tile drives towards a side: forwarded or injected data. -/
def State.latOut (s : State) (l code : Nat) (here : List Flit) (inj : Bytes) : State × Option Bytes :=
  if code = 5 then (s, some inj)
  else if 1 ≤ code ∧ code ≤ 4 then
    let r := s.latIn l code here
    (r.1, some r.2)
  else (s, none)

/-- The frame that a tile injects in a slot: 64 bytes of its port, or zeros in reset. -/
def State.latInject (s : State) (t l e : Nat) (code : Nat → Nat) : State × Bytes :=
  if [1, 2, 3, 4].any (fun side => code side == 5) then
    if s.tileInReset t then (s, zeros 64) else s.portTake t l (bits e 18 15)
  else (s, [])

/-- The frames that a tile puts on its links in a slot. -/
def State.latSend (s : State) (l : Nat) (here : List Flit) (inj : Bytes) (code : Nat → Nat) : State × List Sent :=
  [1, 2, 3, 4].foldl (fun (r : State × List Sent) side =>
    let o := r.1.latOut l (code side) here inj
    match o.2, latNext l side with
    | some b, some m => (o.1, r.2 ++ [(o.1.phys m, ⟨facing side, hopWait l m, b⟩)])
    | _, _ => (o.1, r.2)) (s, [])

/-- The frame that a tile consumes in a slot. -/
def State.latConsume (s : State) (t l e : Nat) (here : List Flit) : State :=
  let con := bits e 14 12
  if con = 0 ∨ 4 < con ∨ s.tileInReset t then s
  else
    let i := s.latIn l con here
    (i.1.portGive t l (bits e 22 19) i.2).edgeFenced t l con

/-- One slot of one tile: the state and the flits it sends. -/
def State.latTile (s : State) (t : Nat) : State × List Sent :=
  let l := s.logicalOf t
  let y := s.tile t
  let wraps := y.slotNo + 1 == s.schedPeriod l
  let e := s.schedEntry l y.slotNo
  let here := y.linkIn.filter (·.wait == 0)
  let code (side : Nat) : Nat := bits e (3 * side - 1) (3 * side - 3)
  let s0 := s.modTile t fun x => { x with
    linkIn := (x.linkIn.filter (·.wait != 0)).map fun f => { f with wait := f.wait - 1 } }
  let inj := s0.latInject t l e code
  let outs := inj.1.latSend l here inj.2 code
  ((outs.1.latConsume t l e here).modTile t fun x => { x with
    slotNo := if wraps then 0 else x.slotNo + 1, edgeNoted := x.edgeNoted && !wraps, runNoted := x.runNoted && !wraps }, outs.2)

/-- Tiles of an owner that run a schedule. -/
def State.latTiles (s : State) (owner : Nat) : List Nat :=
  (s.tiles.map (·.1)).filter fun t =>
    s.active t && s.physOwner t == owner && s.schedPeriod (s.logicalOf t) != 0 && !s.dieSilent (t / 2304)

/-- One lattice slot of an owner: every tile acts on what has arrived, then the flits it sent are on their links. A schedule that a
commit's state copy holds does not run (R412). -/
def State.latticeSlot (s : State) (owner : Nat) : State :=
  let r := (s.latTiles owner).foldl (fun (r : State × List Sent) t =>
    let x := r.1.latTile t
    (x.1, r.2 ++ x.2)) (s, [])
  r.2.foldl (fun s x => s.modTile x.1 fun y => { y with linkIn := y.linkIn ++ [x.2] }) r.1

/-- LATTICE_SLOT (R26). -/
def execLatticeSlot (owner : Nat) (s : State) : Out := .next (if s.commit.copying.any fun o => o == 64 || o == owner then s else s.latticeSlot owner)

end Sys2Proof.Machine
end

