-- ==== Sys2Proof/Machine/Routing.lean ====
section
/-! DEFINITION. Route tables on a live fabric (R277, R282-R285). -/

namespace Sys2Proof.Machine

/-! Checks of route tables (R277). -/

/-- A port may stand in a next-hop set: enabled and in fabric mode. -/
def setOkBy (ok : Nat → Bool) (set : Nat) : Bool := set != 0 && (maskBits set 128).all ok

/-- A node entry is legal. -/
def nodeEntryOk (ok : Nat → Bool) (set : Nat → Nat) (w : Nat) : Bool := decide (w < 512) && (!bit w 8 || setOkBy ok (set (w % 256)))

/-- A station entry is legal: `eth` tells an enabled Ethernet port. -/
def stationOk (node : Nat) (eth : Nat → Bool) (w : Nat) : Bool :=
  bits w 63 61 == 0 && bits w 79 78 == 0 && bits w 87 87 == 0 && bits w 127 88 == 0 &&
    (!bit w 60 || bits w 77 64 != node || eth (bits w 86 80))

/-- Stored registers of a port die between two offsets, with their offset from the first. -/
def State.regsIn (s : State) (n lo hi : Nat) : List (Nat × Word) :=
  (s.regs.filter fun p => decide (pdReg n lo ≤ p.1) && decide (p.1 < pdReg n hi)).map fun p => (p.1 - pdReg n lo, p.2)

/-- The pending tables keep R277. -/
def State.pendTablesOk (s : State) (n : Nat) : Bool :=
  let fab (e : Nat) : Bool := s.portOn e && s.fabricPort e
  let eth (e : Nat) : Bool := s.portOn e && !s.fabricPort e
  let set (i : Nat) : Nat :=
    (s.reg (pdReg n (Reg.rtePendSetLo i))).toNat + (s.reg (pdReg n (Reg.rtePendSetHi i))).toNat <<< 64
  let st := (s.regsIn n (Reg.rtePendStationLo 0) (Reg.rtePendStationLo 4096)).map fun p => p.1 / 16
  (s.regsIn n (Reg.rtePendNode 0) (Reg.rtePendNode 16384)).all (fun p => nodeEntryOk fab set p.2.toNat) &&
    st.all fun i => stationOk s.node eth
      ((s.reg (pdReg n (Reg.rtePendStationLo i))).toNat + (s.reg (pdReg n (Reg.rtePendStationHi i))).toNat <<< 64)

/-- The pending tables become active; they lie 0x8_0000 below the active ones (R298). -/
def State.tablesTake (s : State) (n : Nat) : State :=
  let lo := pdReg n 0x200000
  let act := pdReg n 0x280000
  let hi := pdReg n 0x300000
  let new := (s.regs.filter fun p => decide (lo ≤ p.1) && decide (p.1 < act)).map fun p => (p.1 + 0x80000, p.2)
  s.withRegs ((s.regs.filter fun p => decide (p.1 < act)) ++ new ++ s.regs.filter fun p => decide (hi ≤ p.1))

/-! Parked frames. -/

/-- A frame leaves a park queue and is classified again on die `n` under the active tables; a copy already delivered is not
delivered again (R283, R285). -/
def State.reclassify (s : State) (n : Nat) (q : QFrame) : State :=
  let owner := if q.ingress < 128 then s.portOwner q.ingress else s.sourceOwner q.f
  match s.route n q.ingress owner q.cls q.f with
  | .out e dyn =>
    if ¬ s.portLive e then (s.bump (pdReg n Reg.rteRetireDropCnt)).release n q
    else
      (if dyn then s.countDyn (if q.ingress < 128 then q.ingress else e) q.cls else s).toPort e q
  | .both e => if s.portLive e then s.toPort e q else (s.bump (pdReg n Reg.rteRetireDropCnt)).release n q
  | .drop a | .last a => (s.bump a).release n q
  | .answer => (s.answerNoRoute (portStop n 0) q.f).release n q
  | .deliver => s.enqueueLocal q

/-- Take the parked frames of a die that satisfy a test out of its park queues. -/
def State.unpark (s : State) (n : Nat) (f : Parked → Bool) : State × List QFrame :=
  (s.modPdie n fun d => { d with parked := d.parked.filter fun x => !f x }, ((s.pdie n).parked.filter f).map (·.q))

/-- Release the parked frames of a die that satisfy a test, in ingress-port order, oldest first. -/
def State.unparkAll (s : State) (n : Nat) (f : Parked → Bool) : State :=
  let r := s.unpark n f
  forEach ((List.range 129).flatMap fun i => r.2.filter fun q => q.ingress == i) (fun q s => s.reclassify n q) r.1

/-- DRAINED of a class of a port (R284). -/
def State.drained (s : State) (e c : Nat) : Bool :=
  s.draining e c && (List.range 129).all (fun i => (s.roundQueue e c i).isEmpty) && (s.txOpen e c).isNone &&
    (!s.fabricPort e || ((s.port e).replay.all (fun g => !g.classes.contains c) &&
      (s.port e).filling.all fun x => match x.2 with | some m => m.1 != c | none => true))

/-- A write of RTE_DRAIN: a cleared bit releases that class's frames on all four dies (R283). -/
def State.drainWrite (s : State) (p v : Nat) : State :=
  let a := portReg p Reg.rteDrain
  let gone := (maskBits (s.fld a 7 0) 8).filter fun c => !bit v c
  let s1 := s.withFld a 7 0 (v % 256)
  forEach (List.range 4) (fun n s => s.unparkAll n fun x => x.hop == p && gone.contains x.q.cls) s1

/-- RTE_DRAIN (R283). -/
def execRteDrain (_src : Src) (p : Nat) (value : Nat) (s : State) : Out := .next ((s.external 1).drainWrite p value)

/-! The route latch (R282, R285). -/

/-- RTE_CTRL.ARM: the pending tables and the latch time are checked (R282). -/
def State.routeArm (s : State) (n : Nat) : State :=
  let st := pdReg n Reg.rteStatus
  let t := (s.reg (pdReg n Reg.rteLatchTime)).toNat
  if s.pendTablesOk n && decide (t ≤ s.now + 160000000000) then
    let s1 := s.withFld st 0 0 1
    if t < s.now then s1.withFld st 1 1 1 else s1
  else s.withFld st 4 4 1

/-- RTE_CTRL.CANCEL (R282). -/
def State.routeCancel (s : State) (n : Nat) : State := s.withFld (pdReg n Reg.rteStatus) 0 0 0

/-- Ports of a die. -/
def diePorts (n : Nat) : List Nat := (List.range 32).map (32 * n + ·)

/-- Every drain bit of a die clears, and parked frames are classified again: those of the die, and those elsewhere that waited
for its ports (R285). -/
def State.drainsEnd (s : State) (n : Nat) : State :=
  let s1 := forEach (diePorts n) (fun e s => s.withFld (portReg e Reg.rteDrain) 7 0 0) s
  forEach (List.range 4) (fun m s => s.unparkAll m fun x => m == n || x.hop / 32 == n) s1

/-- The armed route latch of a die takes effect (R285). -/
def State.routeLatch (s : State) (n : Nat) : State :=
  let st := pdReg n Reg.rteStatus
  if s.fld st 0 0 = 0 then s
  else
    let undrained := (diePorts n).any fun e => (List.range 8).any fun c => s.draining e c && !s.drained e c
    let s1 := (s.tablesTake n).withFld st 0 0 0
    (if undrained then s1.withFld st 3 3 1 else s1).drainsEnd n

/-- ROUTE_ARM (R282). -/
def execRouteArm (_src : Src) (n : Nat) (s : State) : Out := .next ((s.external 1).routeArm n)

/-- ROUTE_CANCEL (R282). -/
def execRouteCancel (_src : Src) (n : Nat) (s : State) : Out := .next ((s.external 1).routeCancel n)

/-- ROUTE_LATCH (R285). -/
def execRouteLatch (n : Nat) (s : State) : Out := .next (s.routeLatch n)

end Sys2Proof.Machine
end

