-- ==== Sys2Proof/Machine/Schedule.lean ====
section
/-! DEFINITION. The meanings of the scheduling, shutter and time commands (chapter 11). -/

namespace Sys2Proof.Machine

/-- CELL_SLOT (R255). -/
def execCellSlot (p : Nat) (s : State) : Out := .next (s.cellSlot p)

/-! Shutter lists (R261, R262). -/

/-- Entry `i` of the pending list. -/
def State.pendEntry (s : State) (p i : Nat) : Nat := (s.reg (portReg p fun q => Reg.shuPendEntry q i)).toNat

/-- A shutter entry keeps Table 11-1. -/
def shutterEntryOk (w : Nat) : Bool := bits w 63 42 == 0 && decide (256 ≤ bits w 41 8) && decide (bits w 41 8 ≤ 16000000000)

/-- CYCLE and COUNT keep R261. -/
def shutterListOk (cycle count : Nat) : Bool :=
  decide (count ≤ 256) && (count == 0 || (decide (256 ≤ cycle) && decide (cycle ≤ 16000000000)))

/-- Every field of the pending list is valid. -/
def State.pendOk (s : State) (p : Nat) : Bool :=
  let n := (s.reg (portReg p Reg.shuPendCount)).toNat % 512
  shutterListOk ((s.reg (portReg p Reg.shuPendCycle)).toNat % 2 ^ 34) n && (List.range n).all fun i => shutterEntryOk (s.pendEntry p i)

/-- Takeover time of a list armed with a lead (R262). -/
def takeover (base cycle count now lead : Nat) : Nat :=
  if count = 0 then max base (now + lead)
  else if now + lead ≤ base then base
  else base + ceilDiv (now + lead - base) cycle * cycle

/-- Arm the pending list with a lead. -/
def State.armList (s : State) (p lead : Nat) : State :=
  let t := takeover (s.reg (portReg p Reg.shuPendBase)).toNat ((s.reg (portReg p Reg.shuPendCycle)).toNat % 2 ^ 34)
    ((s.reg (portReg p Reg.shuPendCount)).toNat % 512) s.now lead
  (s.withReg (portReg p Reg.shuTakeover) (BitVec.ofNat 64 t)).withFld (portReg p Reg.shuStatus) 1 1 1

/-- SHU_CTRL.ARM (R262). -/
def State.shutterArm (s : State) (src : Src) (p : Nat) : State :=
  if s.pendOk p then s.armList p 160000
  else (s.withFld (portReg p Reg.shuStatus) 2 2 1).refuse src (portReg p Reg.shuCtrl) .badValue

/-- SHU_CTRL.CANCEL (R262). -/
def State.shutterCancel (s : State) (p : Nat) : State := s.withFld (portReg p Reg.shuStatus) 1 1 0

/-- The pending list of an armed port becomes active (R262). -/
def State.shutterTakeover (s : State) (p : Nat) : State :=
  let st := portReg p Reg.shuStatus
  if s.fld st 1 1 = 0 then s
  else
    let n := (s.reg (portReg p Reg.shuPendCount)).toNat % 512
    let s1 := ((s.withReg (portReg p Reg.shuActBase) (s.reg (portReg p Reg.shuPendBase))).withReg (portReg p Reg.shuActCycle)
      (s.reg (portReg p Reg.shuPendCycle))).withReg (portReg p Reg.shuActCount) (s.reg (portReg p Reg.shuPendCount))
    let s2 := forEach (List.range n) (fun i s => s.withReg (portReg p fun q => Reg.shuActEntry q i)
      (BitVec.ofNat 64 (s.pendEntry p i))) s1
    let s3 := (s2.withFld st 1 1 0).withFld st 0 0 (b2n (0 < n))
    if n = 0 then (s3.withFld st 10 3 0).withFld st 18 11 0xFF else s3.shutterNow p

/-- SHUTTER_ARM (R262). -/
def execShutterArm (src : Src) (p : Nat) (s : State) : Out := .next ((s.external 1).shutterArm src p)

/-- SHUTTER_CANCEL (R262). -/
def execShutterCancel (_src : Src) (p : Nat) (s : State) : Out := .next ((s.external 1).shutterCancel p)

/-- SHUTTER_TAKEOVER (R262). -/
def execShutterTakeover (p : Nat) (s : State) : Out := .next (s.shutterTakeover p)

/-- SHUTTER_ENTRY: the entry that fabric time selects takes force (R261). -/
def execShutterEntry (p : Nat) (s : State) : Out := .next (s.shutterNow p)

/-! Shapers and policers (R258, R260). -/

/-- A write of SCH_SHAPER_c or SCH_POLICER_c (R260). -/
def State.bucketWrite (s : State) (src : Src) (p : Nat) (policer : Bool) (c v : Nat) : State :=
  let a := bucketReg p c policer
  let rate := bits v 20 0
  let burst := bits v 45 21
  if rate < 1 ∨ 1600000 < rate ∨ burst < 64 ∨ 16777216 < burst then s.refuse src a .badValue
  else
    let k := bucketKey c policer
    let s1 := s.store a v
    if bit v 46 then
      s1.withTokens p k (if s.bucketOn p c policer then min (s.tokens p k) (burst * 10000 : Nat) else (burst * 10000 : Nat))
    else s1

/-- BUCKET_CONFIG_WRITE (R260). -/
def execBucketConfigWrite (src : Src) (p : Nat) (policer : Bool) (c : Nat) (value : Nat) (s : State) : Out :=
  .next ((s.external 1).bucketWrite src p policer c value)

/-! Fabric time (R266, R268). -/

/-- A write of FTM_STEP (R266, R268). -/
def State.ftmStep (s : State) (src : Src) (delta : Nat) : State :=
  if s.fld (pdReg 0 Reg.ftmCtrl) 1 0 = 1 then s.refuse src (pdReg 0 Reg.ftmStep) .busy else s.stepTime (sgn 64 delta)

/-- FTM_STEP (R268). -/
def execFtmStep (src : Src) (delta : Nat) (s : State) : Out := .next ((s.external 1).ftmStep src delta)

/-! Depth and delay sampling (R273). -/

/-- One sample of a value with bins of `w`. -/
def Obs.take (o : Obs) (v w : Nat) : Obs :=
  let i := Nat.min 15 (v / w)
  let x := Nat.min v (2 ^ 32 - 1)
  ⟨Nat.min o.min x, Nat.max o.max x, Nat.min (o.count + 1) (2 ^ 32 - 1), mapPut 0 i (Nat.min (mapGet 0 i o.bins + 1) (2 ^ 32 - 1)) o.bins⟩

/-- Frames queued for a port and class: all VOQs and the injection queue. -/
def State.queued (s : State) (e c : Nat) : List QFrame := (List.range 129).flatMap (s.roundQueue e c)

/-- Depth in bytes and delay in ns of a port and class. -/
def State.depthDelay (s : State) (e c : Nat) : Nat × Nat :=
  let l := s.queued e c
  let oldest := l.foldl (fun m q => min m q.enq) s.now
  (queueBytes l, (s.now - oldest) / 16)

/-- Sample one port and class; kind 0 is depth, kind 1 delay. -/
def State.obsOne (s : State) (e c : Nat) : State :=
  let cfg := (s.reg (portReg e Reg.schObsCfg)).toNat
  let d := s.depthDelay e c
  let old (k : Nat) : Obs := mapGet Obs.empty k (s.port e).obs
  let depth := (old c).take d.1 (64 * 2 ^ bits cfg 3 0)
  let delay := (old (c + 8)).take d.2 (16 * 2 ^ bits cfg 7 4)
  s.modPort e fun p => { p with obs := mapPut Obs.empty (c + 8) delay (mapPut Obs.empty c depth p.obs) }

/-- SCH_SAMPLE_PERIOD of a die in fabric-time units. -/
def State.obsPeriod (s : State) (n : Nat) : Nat := max 1 (s.fld (pdReg n Reg.schSamplePeriod) 23 0 * 16)

/-- Fabric time has reached a multiple of the period since the last sample (R273). -/
def State.obsDue (s : State) (n : Nat) : Bool := decide ((s.pdie n).obsAt < s.now / s.obsPeriod n * s.obsPeriod n)

/-- Every port and class of a die is sampled. -/
def State.obsSample (s : State) (n : Nat) : State :=
  forEach ((List.range 32).map (32 * n + ·)) (fun e s => forEach (List.range 8) (fun c s => s.obsOne e c) s)
    (s.modPdie n fun d => { d with obsAt := s.now })

/-- OBS_SAMPLE (R273): where its time has come. -/
def execObsSample (n : Nat) (s : State) : Out := .next (if s.obsDue n then s.obsSample n else s)

/-- SCH_OBS_CLEAR: the statistics of the selected port return to their start. -/
def State.obsClear (s : State) (n : Nat) : State :=
  s.modPort (n * 32 + (s.reg (pdReg n Reg.schObsSel)).toNat % 32) fun p => { p with obs := [] }

/-- SCH_OBS_CLEAR (R273). -/
def execSchObsClear (_src : Src) (n : Nat) (s : State) : Out := .next ((s.external 1).obsClear n)

end Sys2Proof.Machine
end

