-- ==== Sys2Proof/Machine/Image.lean ====
section
/-! DEFINITION. The structure image (R40-R50, R61): header, directory, sections, and the configuration that a commit would leave. -/

namespace Sys2Proof.Machine

/-! Header and directory (Tables 2-1 and 2-2). -/

/-- Every byte is zero. -/
def allZero (b : Bytes) : Bool := b.all (· == 0)

/-- SCOPE. -/
def imgScope (b : Bytes) : Nat := rdLe b 6 1
/-- OWNER. -/
def imgOwner (b : Bytes) : Nat := rdLe b 7 1
/-- TARGET_EPOCH. -/
def imgEpoch (b : Bytes) : Nat := rdLe b 8 4
/-- IMAGE_LEN. -/
def imgLen (b : Bytes) : Nat := rdLe b 0xC 4
/-- SECTION_COUNT. -/
def imgCount (b : Bytes) : Nat := rdLe b 0x10 2
/-- NODE_BIND. -/
def imgBind (b : Bytes) : Nat := rdLe b 0x12 2
/-- CAP_REQ. -/
def imgCap (b : Bytes) : Nat := rdLe b 0x14 1
/-- PUBLIC_KEY. -/
def imgKey (b : Bytes) : Bytes := slice b 0xF00 97
/-- The image is a composite (R61). -/
def imgComposite (b : Bytes) : Bool := bit (rdLe b 0x15 1) 0

/-- A length keeps R40. -/
def imgLenOk (n : Nat) : Bool := n % 4096 == 0 && decide (8192 ≤ n) && decide (n ≤ 536870912)

/-- BAD_HEADER is not met (Table 2-10). -/
def headerOk (b : Bytes) (len : Nat) : Bool :=
  slice b 0 4 == [0x55, 0x42, 0x53, 0x49] && rdLe b 4 2 == 0x0100 && decide (imgScope b ≤ 1) &&
    (if imgScope b = 0 then imgOwner b == 0 else decide (1 ≤ imgOwner b) && decide (imgOwner b ≤ 63)) &&
    decide (1 ≤ imgCount b) && decide (imgCount b ≤ 58) && (imgBind b == 0xFFFF || decide (imgBind b < 2 ^ 14)) && decide (imgCap b ≤ 1) &&
    allZero (slice b 0x15 11) && allZero (slice b 0x40 64) && allZero (slice b 0xFC1 63) && imgLen b == len && imgLenOk len

/-- A directory entry. -/
structure Entry where
  kind : Nat
  index : Nat
  off : Nat
  len : Nat
  hash : Bytes
  /-- Reserved bytes are zero. -/
  clean : Bool
  deriving DecidableEq, Repr

/-- Directory entry `i`. -/
def imgEntry (b : Bytes) (i : Nat) : Entry :=
  let e := slice b (0x80 + 64 * i) 64
  ⟨rdLe e 0 1, rdLe e 2 2, rdLe e 4 4, rdLe e 8 4, e.drop 16, rdLe e 1 1 == 0 && rdLe e 12 4 == 0⟩

/-- Entries of an image, in directory order. -/
def imgEntries (b : Bytes) : List Entry := (List.range (imgCount b)).map (imgEntry b)

/-- Bytes of a section. -/
def Entry.bytes (e : Entry) (b : Bytes) : Bytes := slice b e.off e.len

/-- INDEX is legal for the TYPE, with a PARTITION of an owner 1-63. -/
def Entry.indexOk (e : Entry) : Bool :=
  match e.kind with
  | 1 => e.index == 0
  | 2 => decide (e.index < 16)
  | 3 => decide (16 ≤ e.index) && decide (e.index < 20)
  | 4 => decide (1 ≤ e.index) && decide (e.index < 64)
  | _ => false

/-- An entry stands in its image as R40 says. -/
def Entry.placeOk (e : Entry) (len : Nat) : Bool :=
  e.clean && e.indexOk && e.off % 4096 == 0 && decide (4096 ≤ e.off) && decide (0 < e.len) && e.len % 64 == 0 && decide (e.off + e.len ≤ len)

/-- Two entries claim one byte, or one (TYPE, INDEX). -/
def Entry.clash (a b : Entry) : Bool :=
  (a.kind == b.kind && a.index == b.index) || (decide (a.off < b.off + b.len) && decide (b.off < a.off + a.len))

/-- Directory index of the first entry that breaks R40 or R41 by itself or with an earlier one. -/
def badEntry (len : Nat) : List Entry → Nat → List Entry → Option Nat
  | _, _, [] => none
  | seen, i, e :: l => if ¬ e.placeOk len ∨ seen.any e.clash then some i else badEntry len (e :: seen) (i + 1) l

/-- Sections of a TYPE. -/
def countKind (l : List Entry) (k : Nat) : Nat := (l.filter fun e => e.kind == k).length

/-- Counts of Table 2-3. -/
def countsOk (b : Bytes) : Bool :=
  let l := imgEntries b
  if imgScope b = 0 then
    countKind l 1 == 1 && countKind l 2 == 16 && countKind l 3 == 4 && decide (countKind l 4 ≤ 32)
  else countKind l 1 == 0 && countKind l 4 == 1 && l.all fun e => e.kind != 4 || e.index == imgOwner b

/-! Sections of a tile die (R42-R46). -/

/-- Offset of a tile record. -/
def recOff (i : Nat) : Nat := 128 + 256 * i
/-- A tile record. -/
def recOf (sec : Bytes) (i : Nat) : Bytes := slice sec (recOff i) 256
/-- ROLE of a record. -/
def recRole (r : Bytes) : Nat := bits (rdLe r 0 8) 3 0
/-- OWNER of a record. -/
def recOwner (r : Bytes) : Nat := bits (rdLe r 0 8) 9 4
/-- PERIOD of a record. -/
def recPeriod (r : Bytes) : Nat := bits (rdLe r 8 8) 10 0
/-- SCHED_OFFSET of a record. -/
def recSched (r : Bytes) : Nat := bits (rdLe r 8 8) 42 11
/-- The record's role reads a schedule. -/
def recRuns (r : Bytes) : Bool := decide (1 ≤ recRole r) && decide (recRole r ≤ 5) && recPeriod r != 0
/-- Stream-port record `p` of a record. -/
def recPort (r : Bytes) (p : Nat) : Nat := rdLe r (16 + 8 * p) 8
/-- Schedule entry `i` of a record. -/
def recEntry (sec r : Bytes) (i : Nat) : Nat := rdLe sec (recSched r + 4 * i) 4
/-- Offset of the gang records. -/
def gangOff : Nat := 524424
/-- Bypass position of a row and segment. -/
def mapPos (sec : Bytes) (row seg : Nat) : Nat := bits (rdLe sec (4 * row) 4) (4 * seg + 3) (4 * seg)
/-- The free pool holds a tile with this record (R47). -/
def recFree (r : Bytes) : Bool := recOwner r == 0 && recRole r == 6
/-- A schedule entry's code towards a side. -/
def entryOut (e side : Nat) : Nat := bits e (3 * side - 1) (3 * side - 3)
/-- A schedule entry injects. -/
def entryInjects (e : Nat) : Bool := [1, 2, 3, 4].any fun k => entryOut e k == 5
/-- A schedule entry uses the input of a side. -/
def entryUses (e side : Nat) : Bool := bits e 14 12 == side || [1, 2, 3, 4].any fun k => entryOut e k == side

/-! What a commit would leave (R54, R61). -/

/-- A die in the plan: DIE index, the image's section, the section to be staged, its directory index. -/
structure PlanDie where
  die : Nat
  raw : Bytes
  sec : Bytes
  entry : Nat
  deriving DecidableEq, Repr

/-- The configuration that a commit would leave. -/
structure Plan where
  scope : Nat
  owner : Nat
  dies : List PlanDie
  /-- Dies in the scope of the commit, those without a section of their own among them. -/
  scopeDies : List Nat
  pkg : Bytes
  pkgEntry : Nat
  /-- Partitions of the image: owner, section, directory index. -/
  parts : List (Nat × Bytes × Nat)
  /-- Partitions that stand after the latch. -/
  standing : List (Nat × Bytes)
  deriving DecidableEq, Repr

/-- Sections of a TYPE with their directory indices. -/
def sectionsOf (b : Bytes) (k : Nat) : List (Nat × Bytes × Nat) :=
  ((imgEntries b).zipIdx.filter fun x => x.1.kind == k).map fun x => (x.1.index, x.1.bytes b, x.2)

/-- A record with its SCHED_OFFSET replaced. -/
def recMoved (r : Bytes) (off : Nat) : Bytes :=
  if recPeriod r = 0 then r else splice r 8 (natLe 8 (putBits (rdLe r 8 8) 42 11 off))

/-- Entries of a record's schedule. -/
def recTable (sec r : Bytes) : Bytes := slice sec (recSched r) (4 * recPeriod r)

/-- Insert a gang record by ascending GANG_ID. -/
def insertGang (g : Nat) : List Nat → List Nat
  | [] => [g]
  | x :: r => if bits g 14 0 ≤ bits x 14 0 then g :: x :: r else x :: insertGang g r

/-- Records and schedule table laid out from an offset: each record points at its entries. -/
def layTiles : List (Bytes × Bytes) → Nat → Bytes × Bytes
  | [], _ => ([], [])
  | (sec, r) :: l, off =>
    let tb := recTable sec r
    let q := layTiles l (off + tb.length)
    (recMoved r off ++ q.1, tb ++ q.2)

/-- Bytes up to the next multiple of 64. -/
def padUp (b : Bytes) : Bytes := b ++ zeros ((64 - b.length % 64) % 64)

/-- A staged TILE_DIE section of a partition-scope commit (R61). -/
def mergeTileDie (owner : Nat) (img old : Bytes) : Bytes :=
  let recs := (List.range 2048).map fun i => let r := recOf img i; if recRole r = 15 then (old, recOf old i) else (img, r)
  let gs := ((gangRecords old).filter fun g => bits g 34 29 != owner) ++ (gangRecords img).filter fun g => bits g 34 29 == owner
  let gangs := gs.foldl (fun l g => insertGang g l) []
  let q := layTiles recs (gangOff + 8 * gangs.length)
  padUp (img.take 128 ++ q.1 ++ natLe 8 gangs.length ++ gangs.flatMap (natLe 8) ++ q.2)

/-- First 8 B of a port record in a section. -/
def portWord (sec : Bytes) (q : Nat) : Nat := rdLe sec (64 + 16 * q) 8

/-- Ports of a die that an owner holds or takes. -/
def portsNamed (owner : Nat) (img old : Bytes) : List Nat :=
  (List.range 32).filter fun q => bits (portWord old q) 15 10 == owner || bits (portWord img q) 15 10 == owner

/-- The fields of one port in a PORT_DIE section: offset and length. -/
def portFields (q : Nat) : List (Nat × Nat) := [(64 + 16 * q, 16), (0x240 + 0x40 + 64 * q, 32), (0xA80 + 2112 * q, 2112), (0x2B000 + 64 * q, 64)]

/-- A staged PORT_DIE section of a partition-scope commit (R54, R61). -/
def mergePortDie (owner : Nat) (img old : Bytes) : Bytes :=
  (portsNamed owner img old).foldl (fun b q => (portFields q).foldl (fun b f => splice b f.1 (slice img f.1 f.2)) b) old

/-- Whether a die holds a tile, window or port of an owner (R54). -/
def dieHolds (owner d : Nat) (sec : Bytes) (part : Bytes) : Bool :=
  if d < 16 then
    (List.range 2048).any (fun i => recOwner (recOf sec i) == owner) ||
      match dieStack d with | some k => (sectionWindows part).any fun w => bit w.mask k | none => false
  else (List.range 32).any fun q => bits (portWord sec q) 15 10 == owner

/-- First 64 MiB unit of the reservations of R48. -/
def reservedUnit : Nat := fullUnits - 16

/-- Stack offset of an image slot in either reservation (R48). -/
def slotOff (slot : Nat) : Nat := reservedUnit * unitBytes + slot * 536870912

/-- The active slot. -/
def State.activeSlot (s : State) : Nat := s.fld Reg.strActiveSlot 0 0

/-- The section of a die in the active slot of M0, or of M6 (R61): the first that holds one whose SHA-384 is right. -/
def State.slotSection (s : State) (d : Nat) : Bytes :=
  ([0, 6].findSome? fun k =>
    let m := (s.ctrl k).mem
    let base := slotOff s.activeSlot
    match (imgEntries (readBytes m base 4096)).find? fun e => e.kind == (if d < 16 then 2 else 3) && e.index == d with
    | none => none
    | some e =>
      let b := readBytes m (base + e.off) e.len
      if sha384 b == e.hash then some b else none).getD []

/-- The committed section of a die: its active one, or, where a die reset has taken that, the one of the active slot (R61). -/
def State.committedSec (s : State) (d : Nat) : Bytes := if (s.die d).structured then (s.die d).active else s.slotSection d

/-- The plan of an image. -/
def State.plan (s : State) (b : Bytes) : Plan :=
  let o := imgOwner b
  let parts := sectionsOf b 4
  let secs := sectionsOf b 2 ++ sectionsOf b 3
  if imgScope b = 0 then
    let pk := (sectionsOf b 1).headD (0, [], 0)
    { scope := 0, owner := 0, dies := secs.map fun x => ⟨x.1, x.2.1, x.2.1, x.2.2⟩, scopeDies := List.range 20, pkg := pk.2.1, pkgEntry := pk.2.2,
      parts := parts, standing := parts.map fun x => (x.1, x.2.1) }
  else
    let dies := secs.map fun x =>
      let old := s.committedSec x.1
      ({ die := x.1, raw := x.2.1, sec := if x.1 < 16 then mergeTileDie o x.2.1 old else mergePortDie o x.2.1 old, entry := x.2.2 } : PlanDie)
    let part := (parts.headD (o, [], 0)).2.1
    let inScope (d : Nat) : Bool :=
      let old := s.committedSec d
      dieHolds o d old (s.partSec o) || dieHolds o d ((dies.find? (·.die == d)).elim old (·.sec)) part
    { scope := 1, owner := o, dies := dies, scopeDies := (List.range 20).filter inScope, pkg := s.commit.pkg, pkgEntry := 0, parts := parts,
      standing := (s.commit.parts.filter fun x => x.1 != o) ++ [(o, part)] }

/-- The section of a die after the latch: the staged one in scope (a tile die without a section of its own is laid out anew, R61), else the
committed one. -/
def State.planSec (s : State) (p : Plan) (d : Nat) : Bytes :=
  let old := s.committedSec d
  if ¬ p.scopeDies.contains d then old
  else
    match p.dies.find? (·.die == d) with
    | some x => x.sec
    | none => if p.scope = 1 ∧ d < 16 then mergeTileDie p.owner old old else old

/-- The record of a logical tile after the latch. -/
def State.planRec (s : State) (p : Plan) (l : Nat) : Bytes := recOf (s.planSec p (l / 2048)) (l % 2048)

/-- Tile dies of the plan. -/
def Plan.tileDies (p : Plan) : List PlanDie := p.dies.filter fun x => decide (x.die < 16)

/-- Port dies of the plan. -/
def Plan.portDies (p : Plan) : List PlanDie := p.dies.filter fun x => decide (16 ≤ x.die)

/-- PARTITION section of an owner after the latch. -/
def Plan.part (p : Plan) (o : Nat) : Bytes := (p.standing.find? (·.1 == o)).elim [] (·.2)

/-! The composite image (R61). -/

/-- Sections laid out on 4 KiB boundaries from an offset: directory and bytes. -/
def laySections : List (Nat × Nat × Bytes) → Nat → Bytes × Bytes
  | [], _ => ([], [])
  | (k, i, b) :: l, off =>
    let body := b ++ zeros ((4096 - b.length % 4096) % 4096)
    let q := laySections l (off + body.length)
    (natLe 1 k ++ zeros 1 ++ natLe 2 i ++ natLe 4 off ++ natLe 4 b.length ++ zeros 4 ++ sha384 b ++ q.1, body ++ q.2)

/-- Insert a partition by ascending owner. -/
def insertPart (x : Nat × Bytes) : List (Nat × Bytes) → List (Nat × Bytes)
  | [] => [x]
  | y :: r => if x.1 ≤ y.1 then x :: y :: r else y :: insertPart x r

/-- The composite of a plan. -/
def State.compositeImage (s : State) (b : Bytes) (p : Plan) : Bytes :=
  let secs : List (Nat × Nat × Bytes) := (1, 0, p.pkg) :: (List.range 16).map (fun d => (2, d, s.planSec p d)) ++
    (List.range 4).map (fun n => (3, 16 + n, s.planSec p (16 + n))) ++
    (p.standing.foldl (fun l x => insertPart x l) []).map fun x => (4, x.1, x.2)
  let q := laySections secs 4096
  let len := 4096 + q.2.length
  let head := slice b 0 6 ++ [0, 0] ++ natLe 4 (imgEpoch b) ++ natLe 4 len ++ natLe 2 secs.length ++ natLe 2 s.node ++
    natLe 1 (b2n Config.isF768) ++ [1] ++ zeros 10 ++ slice b 0x20 32 ++ zeros 64
  padTo 4096 (head ++ padTo 3712 q.1) ++ q.2

end Sys2Proof.Machine
end

