-- ==== Sys2Proof/Machine/Verify.lean ====
section
/-! DEFINITION. Verification of a structure image (R44, R45, R49, R54, R244, R263, R276, R277, R343, R387, R391, R392, R413). -/

namespace Sys2Proof.Machine

/-- Where an image first fails a check: directory index and offset in the section. -/
abbrev Where := Nat × Nat

/-! Walks over the image. -/

/-- First failure over the tile records that the image itself gives (Keep leaves a record as committed). -/
def Plan.firstTile (p : Plan) (f : PlanDie → Nat → Bytes → Option Nat) : Option Where :=
  p.tileDies.findSome? fun x => (List.range 2048).findSome? fun i =>
    let r := recOf x.raw i
    if p.scope = 1 ∧ recRole r = 15 then none else (f x i r).map fun o => (x.entry, o)

/-- First failure over the schedule entries of a record of the image. -/
def firstEntry (sec r : Bytes) (f : Nat → Nat → Bool) : Option Nat :=
  (List.range (recPeriod r)).findSome? fun j => if f j (recEntry sec r j) then some (recSched r + 4 * j) else none

/-! 0x10 ROLE_INVALID. -/

/-- A logical tile stands on the edge that faces its die's controller (R44, Table 14-1). -/
def onEdge (d i : Nat) : Bool :=
  match dieStack d with
  | none => false
  | some k => if k ≤ 3 then i / 64 == 0 else if k ≤ 5 then i % 64 == 63 else if k ≤ 9 then i / 64 == 31 else i % 64 == 0

/-- A record's stream ports are all zero. -/
def noPorts (r : Bytes) : Bool := allZero (slice r 16 128)

/-- The tile that serves a logical tile under a section's bypass map is lost to a fault (R343). -/
def State.tileLost (s : State) (sec : Bytes) (d i : Nat) : Bool := (s.tile (physUnder (mapPos sec (i / 64) (i % 64 / 8)) (d * 2048 + i))).lost

/-- ROLE_INVALID. -/
def State.badRole (s : State) (p : Plan) : Option Where :=
  p.firstTile fun x i r =>
    let role := recRole r
    let bad := role == 0 || decide (7 ≤ role) || (role == 4 && !onEdge x.die i) || (role == 6 && (rdLe r 8 8 != 0 || !noPorts r)) ||
      (role == 5 && (!noPorts r || (firstEntry x.raw r fun _ e => entryInjects e || bits e 14 12 != 0).isSome)) ||
      (role != 6 && s.tileLost x.raw x.die i)
    if bad then some (recOff i) else none

/-! 0x11 GANG_SHAPE, 0x12 COMPAT_GANG. -/

/-- A gang record with its tiles keeps R45. -/
def gangOk (sec : Bytes) (g : Nat) : Bool :=
  let side := gangSide g
  let r0 := bits g 22 18
  let c0 := bits g 28 23
  bits g 63 35 == 0 && decide (bits g 17 15 ≤ 4) && r0 % side == 0 && c0 % side == 0 && decide (r0 + side ≤ 32) && decide (c0 + side ≤ 64) &&
    (List.range side).all fun a => (List.range side).all fun b =>
      let w := rdLe (recOf sec ((r0 + a) * 64 + c0 + b)) 0 8
      bits w 3 0 == 1 && bits w 24 10 == bits g 14 0 && bits w 28 25 == a && bits w 32 29 == b && bits w 9 4 == bits g 34 29

/-- A gang covers a tile of its die. -/
def gangCovers (g i : Nat) : Bool :=
  decide (bits g 22 18 ≤ i / 64) && decide (i / 64 < bits g 22 18 + gangSide g) && decide (bits g 28 23 ≤ i % 64) &&
    decide (i % 64 < bits g 28 23 + gangSide g)

/-- The ID of record `j` of an image's die is that of an earlier record of the image, of a gang that stands on another die, or of one of the
same die that the image does not list. -/
def State.gangTwice (s : State) (p : Plan) (x : PlanDie) (j g : Nat) : Bool :=
  let raw := gangRecords x.raw
  let same (h : Nat) : Bool := bits h 14 0 == bits g 14 0
  (raw.take j).any same || ((gangRecords x.sec).any fun h => same h && !raw.contains h) ||
    (List.range 16).any fun e => e != x.die && (gangRecords (s.planSec p e)).any same

/-- GANG_SHAPE: a gang record of the image, a gang of another owner whose tiles the image changes, or a gang member outside every gang. -/
def State.badGang (s : State) (p : Plan) : Option Where :=
  p.tileDies.findSome? fun x =>
    let raw := gangRecords x.raw
    let l := gangRecords x.sec
    let a := raw.zipIdx.findSome? fun g =>
      if ¬ gangOk x.sec g.1 ∨ s.gangTwice p x g.2 g.1 then some (x.entry, gangOff + 8 * g.2) else none
    let broken (i : Nat) : Bool := l.any fun g => !raw.contains g && gangCovers g i && !gangOk x.sec g
    let b := (List.range 2048).findSome? fun i =>
      let r := recOf x.sec i
      let lone := recRole r == 1 && !l.any fun g => gangCovers g i && bits g 14 0 == bits (rdLe r 0 8) 24 10
      if lone || (recRole (recOf x.raw i) != 15 && broken i) then some (x.entry, recOff i) else none
    a.orElse fun _ => b

/-- COMPAT_GANG (R20): a 16×16 gang of a partition of compatibility form, listed by the image, or standing where the image makes its
partition one of that form. -/
def State.badCompat (s : State) (p : Plan) : Option Where :=
  let compat (o : Nat) : Bool := rdLe (p.part o) 0 1 % 2 == 1
  let big (g : Nat) : Bool := bits g 17 15 == 4
  let a := p.tileDies.findSome? fun x => (gangRecords x.raw).zipIdx.findSome? fun g =>
    if big g.1 && compat (bits g.1 34 29) then some (x.entry, gangOff + 8 * g.2) else none
  a.orElse fun _ => p.parts.findSome? fun x =>
    if compat x.1 && (List.range 16).any fun d => (gangRecords (s.planSec p d)).any fun g => big g && bits g 34 29 == x.1 then
      some (x.2.2, 0)
    else none

/-! 0x13 SCHEDULE_CONFLICT (R44, R46, R413). -/

/-- A stream-port record keeps R413. -/
def portRecOk (w : Nat) : Bool :=
  let base := bits w 23 4
  let step := bits w 39 24
  let wrap := bits w 55 40
  match bits w 3 0 with
  | 0 => w == 0
  | 1 => bits w 63 56 == 0 && base % 64 == 0 && decide (1 ≤ wrap) && decide (base + 64 * step * (wrap - 1) + 64 ≤ 393216)
  | 2 => bits w 63 56 == 0 && base % 64 == 0 && decide (1 ≤ wrap) && decide (base + 64 * step * (wrap - 1) + 64 ≤ 32768)
  | k => decide (k ≤ 7) && bits w 63 4 == 0

/-- A schedule entry keeps Table 2-7 and names ports of fitting KIND. -/
def entryOk (r : Bytes) (e : Nat) : Bool :=
  let inj := bits (recPort r (bits e 18 15)) 3 0
  let con := bits (recPort r (bits e 22 19)) 3 0
  bits e 31 23 == 0 && [1, 2, 3, 4].all (fun k => decide (entryOut e k ≤ 5)) && decide (bits e 14 12 ≤ 4) &&
    (!entryInjects e || [1, 2, 5, 6, 7].contains inj) && (bits e 14 12 == 0 || [1, 2, 3, 4, 7].contains con)

/-- Uses of a port by one entry. -/
def entryPortUses (e p : Nat) : Nat := b2n (entryInjects e && bits e 18 15 == p) + b2n (bits e 14 12 != 0 && bits e 22 19 == p)

/-- Uses of a port in the entries before entry `j`. -/
def usesBefore (sec r : Bytes) (p j : Nat) : Nat := ((List.range j).map fun i => entryPortUses (recEntry sec r i) p).foldl (· + ·) 0

/-- Periods after which the addresses of a port repeat. -/
def portCycle (uses wrap : Nat) : Nat := if uses = 0 then 1 else wrap / Nat.gcd uses wrap

/-- In some slot a tile injects from and consumes into one tile-memory bank. -/
def bankClash (sec r : Bytes) (j e : Nat) : Bool :=
  let p := bits e 18 15
  let q := bits e 22 19
  let wp := recPort r p
  let wq := recPort r q
  if ¬ entryInjects e ∨ bits e 14 12 = 0 ∨ bits wp 3 0 ≠ 1 ∨ bits wq 3 0 ≠ 1 then false
  else
    let up := usesBefore sec r p (recPeriod r)
    let uq := usesBefore sec r q (recPeriod r)
    let cycles := Nat.lcm (portCycle up (bits wp 55 40)) (portCycle uq (bits wq 55 40))
    let np := usesBefore sec r p j
    let nq := usesBefore sec r q j + b2n (p == q)
    (List.range cycles).any fun k => memSlice (portAddr wp (np + k * up)) == memSlice (portAddr wq (nq + k * uq))

/-- SCHEDULE_CONFLICT. -/
def badSchedule (p : Plan) : Option Where :=
  p.firstTile fun x i r =>
    let w := rdLe r 8 8
    let per := bits w 10 0
    if bits w 63 43 ≠ 0 ∨ 1024 < per ∨ recSched r % 4 ≠ 0 ∨ (per ≠ 0 ∧ (recSched r < gangOff + 8 * rdLe x.raw 524416 8 ∨ x.raw.length < recSched r + 4 * per)) then
      some (recOff i + 8)
    else
      match (List.range 16).find? fun k => !portRecOk (recPort r k) with
      | some k => some (recOff i + 16 + 8 * k)
      | none => firstEntry x.raw r fun j e => !entryOk r e || bankClash x.raw r j e

/-! 0x14 LATTICE_ORPHAN, 0x15 SCHEDULE_PERIOD. -/

/-- An entry test holds in every slot of a neighbour's schedule that meets slot `j` of a period, `hop` slots on. -/
def meetsAll (per per' j : Nat) (f : Nat → Bool) : Bool :=
  let g := Nat.gcd per per'
  decide (0 < per') && (List.range per').all fun k => k % g != j % g || f k

/-- A record's schedule entry, where its role reads one. -/
def runEntry (sec r : Bytes) (j : Nat) : Nat := if recRuns r then recEntry sec r j else 0

/-- Entry `j` of a tile takes or drives a link without its counterpart. -/
def State.orphanAt (s : State) (p : Plan) (l per j e : Nat) : Bool :=
  [1, 2, 3, 4].any fun side =>
    let far (f : Bytes → Bytes → Nat → Bool) : Bool :=
      match latNext l side with
      | none => true
      | some m => !f (s.planSec p (m / 2048)) (s.planRec p m) (hopWait l m + 1)
    let per' (r : Bytes) : Nat := if recRuns r then recPeriod r else 0
    (entryUses e side &&
      far fun sec r hop => meetsAll per (per' r) (j + 3 * Nat.gcd per (per' r) - hop) fun k => entryOut (runEntry sec r k) (facing side) != 0) ||
    (entryOut e side != 0 && far fun sec r hop => meetsAll per (per' r) (j + hop) fun k => entryUses (runEntry sec r k) (facing side))

/-- Tile dies in the order in which faults of the lattice are sought: those of the image in directory order, then the others. -/
def Plan.walk (p : Plan) : List Nat :=
  let l := p.tileDies.map (·.die)
  l ++ (List.range 16).filter fun d => !l.contains d

/-- Where the image gives schedule entry `j` of a tile: in its schedule, or at a record that keeps the committed one. A die without a
section has no place in the image (log entry 68). -/
def Plan.entryPlace (p : Plan) (d i j : Nat) : Where :=
  match p.tileDies.find? (·.die == d) with
  | none => (0, 0)
  | some x =>
    let r := recOf x.raw i
    (x.entry, if p.scope = 1 ∧ recRole r = 15 then recOff i else recSched r + 4 * j)

/-- First failure over the schedule entries that run after the latch, on every tile die: by tile, record, index and entry. -/
def State.firstRun (s : State) (p : Plan) (f : Nat → Bytes → Nat → Nat → Bool) : Option Where :=
  p.walk.findSome? fun d =>
    let sec := s.planSec p d
    (List.range 2048).findSome? fun i =>
      let r := recOf sec i
      if recRuns r then
        ((List.range (recPeriod r)).find? fun j => f (d * 2048 + i) r j (recEntry sec r j)).map fun j => p.entryPlace d i j
      else none

/-- LATTICE_ORPHAN. -/
def State.badLattice (s : State) (p : Plan) : Option Where := s.firstRun p fun l r j e => s.orphanAt p l (recPeriod r) j e

/-- SCHEDULE_PERIOD. -/
def State.badPeriod (s : State) (p : Plan) : Option Where :=
  let recs := (List.range 16).flatMap fun d => (List.range 2048).map (recOf (s.planSec p d))
  p.tileDies.findSome? fun x => (List.range 2048).findSome? fun i =>
    let r := recOf x.sec i
    if recOwner r ≠ 0 ∧ recPeriod r ≠ 0 ∧ recs.any (fun q => recOwner q == recOwner r && recPeriod q != 0 && recPeriod q != recPeriod r) then
      some (x.entry, recOff i + 8)
    else none

/-! 0x16 FOREIGN_RESOURCE (R47, R54). -/

/-- A lattice transfer crosses an owner boundary. -/
def State.crossing (s : State) (p : Plan) : Option Where :=
  s.firstRun p fun l r _ e => [1, 2, 3, 4].any fun side => entryOut e side != 0 &&
    match latNext l side with
    | some m => recOwner (s.planRec p m) != recOwner r
    | none => false

/-- A record of a partition image names a tile that the partition may not change. -/
def State.takesTile (s : State) (p : Plan) : Option Where :=
  p.firstTile fun x i r =>
    let old := recOf (s.die x.die).active i
    let mine := recOwner old == p.owner || recFree old
    if ¬ mine ∨ ¬ (recOwner r = p.owner ∨ recFree r) then some (recOff i) else none

/-- A bypass that a partition image changes beside tiles of another partition. -/
def State.takesBypass (s : State) (p : Plan) : Option Where :=
  p.tileDies.findSome? fun x => (List.range 256).findSome? fun j =>
    let old := (s.die x.die).active
    let a := mapPos old (j / 8) (j % 8)
    let b := mapPos x.raw (j / 8) (j % 8)
    let other := (List.range 8).any fun k =>
      let r := recOf old (j / 8 * 64 + j % 8 * 8 + k)
      decide (min a b ≤ k) && recOwner r != p.owner && !recFree r
    if a ≠ b ∧ other then some (x.entry, j / 2) else none

/-- A gang record of another owner that is not committed. -/
def State.takesGang (s : State) (p : Plan) : Option Where :=
  p.tileDies.findSome? fun x => (gangRecords x.raw).zipIdx.findSome? fun g =>
    if bits g.1 34 29 ≠ p.owner ∧ ¬ (gangRecords (s.die x.die).active).contains g.1 then some (x.entry, gangOff + 8 * g.2) else none

/-- A port that a partition image may not change. -/
def State.takesPort (s : State) (p : Plan) : Option Where :=
  p.portDies.findSome? fun x => (portsNamed p.owner x.raw (s.die x.die).active).findSome? fun q =>
    let old := portWord (s.die x.die).active q
    let new := portWord x.raw q
    let held := bits old 15 10 == p.owner
    let free := bits old 15 10 == 0 && !bit old 0
    let fits := bits new 15 10 == p.owner || (bits new 15 10 == 0 && !bit new 0)
    if (held ∨ free) ∧ fits then none else some (x.entry, 64 + 16 * q)

/-- Two windows overlap. -/
def Window.meets (a b : Window) : Bool := a.mask &&& b.mask != 0 && decide (a.base < b.base + b.size) && decide (b.base < a.base + a.size)

/-- Windows of a partition image over those of another partition. -/
def State.takesWindow (s : State) (p : Plan) : Option Where :=
  p.parts.findSome? fun x => (sectionWindows x.2.1).zipIdx.findSome? fun w =>
    if s.commit.parts.any fun y => y.1 != p.owner && (sectionWindows y.2).any w.1.meets then some (x.2.2, 64 + 16 * w.2) else none

/-- FOREIGN_RESOURCE. -/
def State.badForeign (s : State) (p : Plan) : Option Where :=
  if p.scope = 0 then s.crossing p
  else
    [s.crossing p, s.takesTile p, s.takesBypass p, s.takesGang p, s.takesPort p, s.takesWindow p].findSome? id

/-! 0x17 WINDOW_RANGE, 0x18 WINDOW_OVERLAP, 0x19 PARTITION_LIMIT. -/

/-- First failure over the windows of the image. -/
def Plan.firstWindow (p : Plan) (f : Nat → Nat → Window → Bool) : Option Where :=
  p.parts.findSome? fun x => (sectionWindows x.2.1).zipIdx.findSome? fun w => if f x.1 w.2 w.1 then some (x.2.2, 64 + 16 * w.2) else none

/-- WINDOW_RANGE. -/
def State.badRange (s : State) (p : Plan) : Option Where :=
  p.firstWindow fun _ _ w => w.stacks.any fun k => decide (s.capUnits k < w.base + w.size)

/-- The trace region of a die entry (Table 17-7), as a window of one stack. -/
def peeRegion (e : Bytes) : Option Window :=
  if bit (rdLe e 0 2) 4 then some ⟨0, 1 <<< (rdLe e 0 1 % 16), rdLe e 2 2, rdLe e 4 1⟩ else none

/-- The enabled trace regions of a PACKAGE section, with their dies. -/
def traceRegions (pkg : Bytes) : List (Nat × Window) :=
  (List.range 20).filterMap fun d => (peeRegion (slice pkg (0x100 + 32 * d) 32)).map fun w => (d, w)

/-- A window reaches a reservation of R48. -/
def Window.reserved (w : Window) : Bool := (bit w.mask 0 || bit w.mask 6) && decide (reservedUnit < w.base + w.size)

/-- WINDOW_OVERLAP. -/
def badOverlap (p : Plan) : Option Where :=
  p.firstWindow fun o j w =>
    w.reserved || (traceRegions p.pkg).any (fun r => w.meets r.2) ||
      p.standing.any fun y => (sectionWindows y.2).zipIdx.any fun v => (y.1 != o || v.2 != j) && w.meets v.1

/-- PARTITION_LIMIT. -/
def badCount (p : Plan) : Option Where := if 32 < p.standing.length then some (0, 0) else none

/-! 0x1A BAD_CONTENT. -/

/-- Selectors of the tile counters are valid (R391). -/
def counterSelOk (r : Bytes) : Bool := rdLe r 151 1 == 0x1F && (List.range 7).all fun i => decide (rdLe r (144 + i) 1 ≤ 0x19)

/-- Content of the tile dies (R42, R49, R319, R391). -/
def badTileContent (p : Plan) : Option Where :=
  let maps := p.tileDies.findSome? fun x =>
    if 2048 < rdLe x.raw 524416 8 then some (x.entry, 524416)
    else (List.range 256).findSome? fun j =>
      let f := mapPos x.raw (j / 8) (j % 8)
      if 9 ≤ f ∧ f ≠ 15 then some (x.entry, j / 2) else none
  maps.orElse fun _ => p.firstTile fun _ i r =>
    let w := rdLe r 0 8
    if bits w 63 34 ≠ 0 ∨ (recRole r ≠ 1 ∧ bits w 24 10 ≠ 0) then some (recOff i)
    else if ¬ counterSelOk r then some (recOff i + 144)
    else if ¬ allZero (slice r 152 104) then some (recOff i + 152)
    else
      match (List.range 16).find? fun k => bits (recPort r k) 3 0 == 7 && recRole r != 4 with
      | some k => some (recOff i + 16 + 8 * k)
      | none => none

/-- Mode that a PORT_DIE section gives die Pn: its own, or the strap's. -/
def State.secFabric (s : State) (n : Nat) (sec : Bytes) : Bool :=
  if bit (rdLe sec 0 1) 1 then bit (rdLe sec 0 1) 0 else bit s.pins.straps (16 + n)

/-- Lanes of a port record: first and count. -/
def portLanes (w : Nat) : Nat × Nat := (bits w 9 3, 2 ^ bits w 2 1)

/-- A port record keeps R207 and Table 9-1. -/
def portWordOk (fabric : Bool) (w : Nat) : Bool :=
  if ¬ bit w 0 then w == 0
  else
    let ln := portLanes w
    ln.1 % ln.2 == 0 && decide (ln.1 + ln.2 ≤ 128) && bits w 63 46 == 0 && decide (64 ≤ bits w 37 23) && decide (bits w 37 23 ≤ 16384) &&
      !(bit w 19 && bit w 20) && (if fabric then !bit w 16 && !bit w 17 && !bit w 18 else !bit w 17 || ln.2 == 1)

/-- Two enabled ports share a lane. -/
def lanesMeet (a b : Nat) : Bool :=
  let x := portLanes a
  let y := portLanes b
  bit a 0 && bit b 0 && decide (x.1 < y.1 + y.2) && decide (y.1 < x.1 + x.2)

/-- The link subsection (R209). -/
def State.badLinks (s : State) (x : PlanDie) : Option Nat :=
  let fab := s.secFabric (x.die - 16) x.sec
  if rdLe x.sec 0 1 ≥ 4 ∨ ¬ allZero (slice x.sec 1 63) then some 0
  else
    (List.range 32).findSome? fun q =>
      let w := portWord x.sec q
      if ¬ portWordOk fab w ∨ ¬ allZero (slice x.sec (64 + 16 * q + 8) 8) ∨ (List.range q).any (fun r => lanesMeet w (portWord x.sec r)) then
        some (64 + 16 * q)
      else none

/-- Initial credit of a VC of a port. -/
def secCredit (sec : Bytes) (q v : Nat) : Nat := rdLe sec (0x240 + 0x40 + 64 * q + 2 * v) 2

/-- COUNT_i of the punnet subsection. -/
def secPunnet (sec : Bytes) (i : Nat) : Nat := rdLe sec (0x240 + 4 * i) 4

/-- The punnet subsection (R244). -/
def State.badCarving (s : State) (x : PlanDie) : Option Nat :=
  let fab := s.secFabric (x.die - 16) x.sec
  let pairs := (List.range 32).flatMap fun q => (List.range 16).map fun v => (q, v)
  let total (l : List (Nat × Nat)) : Nat := (l.map fun y => secCredit x.sec y.1 y.2).foldl (· + ·) 0
  let wrong := pairs.find? fun y =>
    let c := secCredit x.sec y.1 y.2
    !(if fab && bit (portWord x.sec y.1) 0 then decide (1 ≤ c) && decide (c ≤ 2047) else c == 0)
  match wrong with
  | some y => some (0x240 + 0x40 + 64 * y.1 + 2 * y.2)
  | none =>
    if ¬ allZero (slice x.sec 0x250 48) then some 0x250
    else if 100663296 < secPunnet x.sec 0 * 256 + secPunnet x.sec 1 * 1024 + secPunnet x.sec 2 * 4096 + secPunnet x.sec 3 * 16384 ∨
        secPunnet x.sec 0 < 16384 + total pairs ∨ 16384 < total (pairs.filter fun y => decide (14 ≤ y.2)) then some 0x240
    else
      ((List.range 32).find? fun q => !allZero (slice x.sec (0x2A0 + 64 * q) 32)).map fun q => 0x2A0 + 64 * q

/-- The shutter subsection (R261, R263). -/
def badShutters (x : PlanDie) : Option Nat :=
  (List.range 32).findSome? fun q =>
    let o := 0xA80 + 2112 * q
    let n := rdLe x.sec (o + 16) 2
    if ¬ shutterListOk (rdLe x.sec (o + 8) 8) n ∨ ¬ allZero (slice x.sec (o + 18) 46) then some o
    else ((List.range n).find? fun i => !shutterEntryOk (rdLe x.sec (o + 64 + 8 * i) 8)).map fun i => o + 64 + 8 * i

/-- The port record of egress E after the latch, with the mode of its die. -/
def State.planPort (s : State) (p : Plan) (e : Nat) : Nat × Bool :=
  let sec := s.planSec p (16 + e / 32)
  (portWord sec (e % 32), s.secFabric (e / 32) sec)

/-- The route subsection (R277). -/
def State.badRoutes (s : State) (p : Plan) (x : PlanDie) : Option Nat :=
  let fab (e : Nat) : Bool := let w := s.planPort p e; bit w.1 0 && w.2
  let eth (e : Nat) : Bool := let w := s.planPort p e; bit w.1 0 && !w.2
  let set (i : Nat) : Nat := rdLe x.sec (0x12000 + 16 * i) 16
  let node := (List.range 16384).findSome? fun i =>
    if nodeEntryOk fab set (rdLe x.sec (0x13000 + 2 * i) 2) then none else some (0x13000 + 2 * i)
  node.orElse fun _ => (List.range 4096).findSome? fun k =>
    if stationOk s.node eth (rdLe x.sec (0x1B000 + 16 * k) 16) then none else some (0x1B000 + 16 * k)

/-- A selector of a port counter is valid (R392). -/
def portSelOk (w : Nat) : Bool :=
  let e := w % 256
  decide (e ≤ 0x0E) && ((1 ≤ e && e ≤ 9) || e == 0x0D || w / 256 == 0)

/-- The counter subsection (R392). -/
def badSelectors (x : PlanDie) : Option Nat :=
  (List.range 32).findSome? fun q =>
    let o := 0x2B000 + 64 * q
    if ¬ allZero (slice x.sec (o + 56) 8) then some (o + 56)
    else ((List.range 28).find? fun k => !portSelOk (rdLe x.sec (o + 2 * k) 2)).map fun k => o + 2 * k

/-- Content of the port dies. A partition image's route subsection is not read. -/
def State.badPortContent (s : State) (p : Plan) : Option Where :=
  p.portDies.findSome? fun x =>
    let l := [s.badLinks x, s.badCarving x, badShutters x, if p.scope = 0 then s.badRoutes p x else none, badSelectors x]
    (l.findSome? id).map fun o => (x.entry, o)

/-- The routing subsection (R276). -/
def State.badTopology (s : State) (p : Plan) : Option Nat :=
  let w := rdLe p.pkg 0 4
  let n := s.node
  let kind := bits w 1 0
  if kind = 3 ∨ bits w 31 16 ≠ 0 ∨ bits w 6 2 < bits n 4 0 ∨ bits w 11 7 < bits n 9 5 ∨ bits w 15 12 < bits n 13 10 ∨
      (kind = 1 ∧ bits w 15 12 ≠ 0) then some 0
  else if ¬ allZero (slice p.pkg 4 124) then some 4
  else
    ((List.range 128).find? fun e =>
      let b := rdLe p.pkg (128 + e) 1
      let port := s.planPort p e
      decide (16 ≤ b) || (kind == 1 && b % 4 == 3) || (b % 4 != 0 && !(bit port.1 0 && port.2)) ||
        (bit b 3 && (kind == 2 || b % 4 == 0))).map (128 + ·)

/-- A die entry of the peephole subsection keeps Table 17-7. -/
def peeEntryOk (e : Bytes) : Bool :=
  decide (rdLe e 0 1 % 16 ≤ 11) && decide (rdLe e 0 2 < 64) && allZero (slice e 5 3) && decide (rdLe e 8 4 < 65536) && allZero (slice e 12 4) &&
    allZero (slice e 24 8) && (!bit (rdLe e 0 2) 4 || (decide (1 ≤ rdLe e 4 1) && decide (rdLe e 4 1 ≤ 16)))

/-- The peephole subsection (R387). -/
def State.badPeephole (s : State) (p : Plan) : Option Nat :=
  let rs := traceRegions p.pkg
  let bad (d : Nat) : Bool :=
    !peeEntryOk (slice p.pkg (0x100 + 32 * d) 32) ||
      rs.any fun r => r.1 == d && (r.2.reserved || r.2.stacks.any (fun k => decide (s.capUnits k < r.2.base + r.2.size)) ||
        rs.any fun q => q.1 != d && r.2.meets q.2)
  match (List.range 20).find? bad with
  | some d => some (0x100 + 32 * d)
  | none => if allZero (slice p.pkg (0x100 + 640) 384) then none else some (0x100 + 640)

/-- Windows of a PARTITION section keep R47 and Table 2-9. -/
def badPartition (p : Plan) : Option Where :=
  p.parts.findSome? fun x =>
    let sec := x.2.1
    if 2 ≤ rdLe sec 0 1 ∨ ¬ allZero (slice sec 3 61) then some (x.2.2, 0)
    else
      (List.range (rdLe sec 2 1)).findSome? fun j =>
        let w := rdLe sec (64 + 16 * j) 8
        let v := windowOf w
        let twice := p.standing.any fun y => (sectionWindows y.2).zipIdx.any fun u => (y.1 != x.1 || u.2 != j) && u.1.id == v.id
        if bits w 63 52 ≠ 0 ∨ v.mask = 0 ∨ v.size = 0 ∨ ¬ allZero (slice sec (64 + 16 * j + 8) 8) ∨ twice then some (x.2.2, 64 + 16 * j) else none

/-- BAD_CONTENT. -/
def State.badContent (s : State) (p : Plan) : Option Where :=
  let pk := if p.scope = 0 then ((s.badTopology p).orElse fun _ => s.badPeephole p).map fun o => (p.pkgEntry, o) else none
  [badTileContent p, s.badPortContent p, pk, badPartition p].findSome? id

/-! The order of Table 2-10. -/

/-- Epoch of the scope of an image. -/
def State.scopeEpoch (s : State) (b : Bytes) : Nat :=
  if imgScope b = 0 then s.fld Reg.strPkgEpoch 31 0 else s.fld (Reg.strPartEpoch (imgOwner b)) 31 0

/-- A fused slot holds the hash of a key and is not revoked (R50). -/
def State.keyKnown (s : State) (key : Bytes) : Bool := s.porter.keys.any fun k => k.programmed && !k.revoked && k.hash == sha384 key

/-- The signature over the header holds. -/
def signatureOk (b : Bytes) : Bool := ecdsaVerify (imgKey b) (sha384 (b.take 0xF00)) (slice b 0xF61 48) (slice b 0xF91 48)

/-- A non-zero latch time lies in the past at START, or more than 10 s after it. -/
def State.latchRange (s : State) : Bool :=
  let t := (s.reg Reg.strLatchTime).toNat
  t != 0 && (decide (t < s.commit.startTime) || decide (s.commit.startTime + 160000000000 < t))

/-- NOT_STRUCTURED: a die that the image has a section for, or that the commit would affect. -/
def State.notStructured (s : State) (p : Plan) : Bool :=
  p.scope == 1 && (!s.commit.structured || (p.dies.map (·.die) ++ p.scopeDies).any fun d => !(s.die d).structured || (s.die d).fenced)

/-- The checks on the image by itself, up to LATCH_RANGE: a code with the entry it names. -/
def State.checkImage (s : State) (b : Bytes) : Option (Nat × Where) :=
  if ¬ headerOk b (s.reg Reg.strImageLen).toNat then some (2, (0, 0))
  else if s.fld Reg.strImageSrc 1 0 = 2 ∧ 16777216 < imgLen b then some (3, (0, 0))
  else if ¬ s.keyKnown (imgKey b) then some (4, (0, 0))
  else if ¬ signatureOk b then some (5, (0, 0))
  else
    let es := imgEntries b
    match badEntry (imgLen b) [] 0 es with
    | some i => some (6, (i, 0))
    | none =>
      if ¬ countsOk b ∨ ¬ allZero (slice b (0x80 + 64 * es.length) (64 * (58 - es.length))) then some (6, (0, 0))
      else
        match es.zipIdx.find? fun e => sha384 (e.1.bytes b) != e.1.hash with
        | some e => some (7, (e.2, 0))
        | none =>
          if (imgBind b ≠ 0xFFFF ∧ imgBind b ≠ s.node) ∨ (imgCap b = 1 ∧ Config.isF768 = false) then some (8, (0, 0))
          else if s.scopeEpoch b = 0xFFFFFFFF then some (10, (0, 0))
          else if imgEpoch b ≠ s.scopeEpoch b + 1 then some (9, (0, 0))
          else if s.latchRange then some (12, (0, 0))
          else none

/-- The checks on the configuration that the image would leave, in the order of Table 2-10. -/
def State.checkPlan (s : State) (b : Bytes) (p : Plan) : Option (Nat × Where) :=
  let c (code : Nat) (w : Option Where) : Option (Nat × Where) := w.map fun x => (code, x)
  if s.notStructured p then some (13, (0, 0))
  else
    (c 0x10 (s.badRole p)).orElse fun _ => (c 0x11 (s.badGang p)).orElse fun _ => (c 0x12 (s.badCompat p)).orElse fun _ =>
    (c 0x13 (badSchedule p)).orElse fun _ => (c 0x14 (s.badLattice p)).orElse fun _ => (c 0x15 (s.badPeriod p)).orElse fun _ =>
    (c 0x16 (s.badForeign p)).orElse fun _ => (c 0x17 (s.badRange p)).orElse fun _ => (c 0x18 (badOverlap p)).orElse fun _ =>
    (c 0x19 (badCount p)).orElse fun _ => (c 0x1A (s.badContent p)).orElse fun _ =>
    if p.scope = 1 ∧ 536870912 < (s.compositeImage b p).length then some (0x1B, (0, 0)) else none

/-- Verification (R49): the first failure, if any. -/
def State.verify (s : State) (b : Bytes) : Option (Nat × Where) := (s.checkImage b).orElse fun _ => s.checkPlan b (s.plan b)

end Sys2Proof.Machine
end

