-- ==== Sys2Proof/Machine/Carve.lean ====
section
/-! DEFINITION. What a latch and a reset do to port dies: frames lost, ports that start again, carving, lists and tables
(R53, R208, R229, R244, R263, R282, R285). -/

namespace Sys2Proof.Machine

/-- Transmissions of every port whose frame the packet buffer of die `n` holds. -/
def State.openOn (s : State) (n : Nat) : List (Nat × TxOpen) :=
  (List.range 128).flatMap fun e => ((s.port e).tx.filterMap (·.2)).filterMap fun t => if t.q.die e = n then some (e, t) else none

/-- Frames that the packet buffer of die `n` holds: queued, parked and in transmission. -/
def State.storedFrames (s : State) (n : Nat) : List QFrame :=
  ((s.voq.filter (fun p => p.1 / 32768 == n) ++ s.injQ.filter (fun p => p.1 / 256 == n) ++ s.localQ.filter fun p => p.1 / 256 == n).flatMap
    (·.2)) ++ (s.pdie n).parked.map (·.q) ++ (s.openOn n).map (·.2.q)

/-- The queues, parked frames and transmissions of die `n` are emptied, and their buffers given back. A port that loses its class's next frame
takes another, and V and its F_c return to 0 where nothing is left (R256). -/
def State.emptyStored (s : State) (n : Nat) : State :=
  let open_ := s.openOn n
  let gone := s.storedFrames n
  let s1 := ((s.withVoq (s.voq.filter fun p => p.1 / 32768 != n)).withInjQ (s.injQ.filter fun p => p.1 / 256 != n)).withLocalQ
    (s.localQ.filter fun p => p.1 / 256 != n)
  let s2 := s1.modPdie n fun d => { d with parked := [] }
  let s3 := forEach open_ (fun x s => s.modPort x.1 fun p => { p with
    tx := p.tx.filter fun y => match y.2 with | some t => t.q.die x.1 != n | none => false }) s2
  let s4 := forEach (List.range 128) (fun e s => s.modPort e fun p => { p with
    tags := p.tags.filter fun t => (s.nextFrame e t.1).isSome }) s3
  let s5 := forEach (List.range 128) (fun e s => (forEach (List.range 7) (fun c s => s.retag e c) s).wfqIdle e) s4
  forEach gone (fun q s => s.release n q) s5

/-- Every frame that the packet buffer of die `n` holds is lost, counted in RTE_RETIRE_DROP_CNT (log entry 40). -/
def State.dropStored (s : State) (n : Nat) : State :=
  (s.emptyStored n).bumpBy (pdReg n Reg.rteRetireDropCnt) (s.storedFrames n).length

/-- Areas of the packet buffer of a die that are not free: offset, bytes, and whether they are quarantined. -/
def State.staleAreas (s : State) (n : Nat) : List (Nat × Nat × Bool) :=
  (List.range 4).flatMap fun i => (s.pool n i).bufs.filterMap fun x =>
    if x.2.st = .free then none
    else some (s.pkBase n i + x.1 * pkSize i, pkSize i, x.2.st == .quarantined || x.2.st == .quarDirty)

/-- A buffer of a new carving that lies over an area not yet zeroed: dirty, and quarantined where the area was (R249, log entry 95). -/
def Punnet.soil (p : Punnet) (b : Nat) (quar : Bool) : Punnet :=
  let q := p.touch b
  { q with free := q.free.erase b }.withBuf b ⟨if quar || (p.buf b).st == BufState.quarDirty then BufState.quarDirty else BufState.dirty, 0, none⟩

/-- The buffers of packet punnet `i` that an area covers in part. -/
def State.soiled (s : State) (n i : Nat) (area : Nat × Nat × Bool) : List Nat :=
  let b := s.pkBase n i
  let lo := (area.1 - b) / pkSize i
  let hi := min (s.pool n i).count (ceilDiv (area.1 + area.2.1 - b) (pkSize i))
  (List.range (hi - lo)).map (lo + ·)

/-- The packet buffer of a die is carved anew: no frame stays in it, and what is not zeroed yet is dirty in the new carving (R244, R249, log
entries 40, 95). -/
def State.carve (s : State) (n : Nat) (counts : List Nat) : State :=
  let s1 := s.dropStored n
  let old := s1.staleAreas n
  let s2 := forEach (List.range 4) (fun i s => s.withPool n i ⟨true, 0, 0, 0, nth counts i 0, [], [], 0, nth counts i 0⟩)
    (s1.modPdie n fun d => { d with pools := [], dirty := [] })
  forEach (List.range 4) (fun i s => forEach old (fun x s => forEach (s.soiled n i x) (fun b s =>
    let s3 := s.withPool n i ((s.pool n i).soil b x.2.2)
    if (s.pdie n).dirty.contains (i, b) then s3 else s3.pkDirty n i b) s) s) s2

/-- Frames of an ingress port no longer hold a credit of its partner. -/
def State.forgetCredit (s : State) (e : Nat) : State :=
  s.mapFrames (e / 32) fun q => if q.ingress = e then { q with credit := none } else q

/-- Lanes of a port record. -/
def recLanes (w : Nat) : List Nat := if bit w 0 then (List.range (portLanes w).2).map ((portLanes w).1 + ·) else []

/-- LNK_LANE_STATUS of a lane. -/
def State.laneWord (s : State) (n l : Nat) : Nat := (s.reg (pdReg n (Reg.lnkLaneStatus l))).toNat

/-- A lane of a die is retired. -/
def State.laneGone (s : State) (n l : Nat) : Bool := bit (s.laneWord n l) 0

/-- Give every lane of a die to the port that its records name. A retired lane of a port that trains afresh is good again for
that port; it stays retired, and that port's, for every other (R229). -/
def State.layLanes (s : State) (n : Nat) (fresh : List Nat) : State :=
  let owner (l : Nat) : Option Nat := (List.range 32).find? fun q => (recLanes (s.portRec (32 * n + q))).contains l
  forEach (List.range 128) (fun l s =>
    let w := s.laneWord n l
    match owner l with
    | some q => s.withReg (pdReg n (Reg.lnkLaneStatus l))
        (BitVec.ofNat 64 (if bit w 0 ∧ bits w 6 2 ≠ q then 1 + bits w 6 2 <<< 2
          else b2n (bit w 0 && !fresh.contains q) + 2 + q <<< 2))
    | none => s.withReg (pdReg n (Reg.lnkLaneStatus l)) (BitVec.ofNat 64 (if bit w 0 then w % 2 + bits w 6 2 <<< 2 else 0))) s

/-- A port is taken down by a latch. One that stays enabled trains again on its good lanes; frames queued for it wait. A frame being
sent or received, and every frame queued for a port that is disabled, is lost and counted (R208, R229, log entry 40). -/
def State.restartPort (s : State) (e : Nat) : State :=
  let s0 := s.dropStreams e
  let p := s0.port e
  let open_ := p.tx.filterMap (·.2)
  let s1 := forEach open_ (fun t s => s.release (t.q.die e) t.q)
    (((s0.bumpBy (portReg e Reg.lnkRxDropCnt) p.replay.length).bumpBy (pdReg (e / 32) Reg.rteRetireDropCnt) open_.length).withPort e
      { Port.reset with
        frameNo := p.frameNo, wfqV := p.wfqV, wfqF := p.wfqF, tags := p.tags, rr := p.rr, tokens := p.tokens, obs := p.obs,
        sampled := p.sampled, sent7 := p.sent7 })
  let s2 := s1.forgetCredit e
  let w := s2.portRec e
  if ¬ bit w 0 then ((s2.withReg (portReg e Reg.lnkPortStatus) 0).unlock e).dropQueued e else (s2.trainPort e).wfqIdle e

/-- Fields of a port record that fix its lanes and its PHY. -/
def linkFields (w : Nat) : List Nat := [bits w 9 0, bits w 18 16, bits w 22 21, bits w 45 38]

/-- The image's shutter list of a port becomes pending and is armed with no lead; a pending list is cancelled (R263). -/
def State.imageList (s : State) (e : Nat) (sec : Bytes) : State :=
  let o := 0xA80 + 2112 * (e % 32)
  let word (x n : Nat) : Word := BitVec.ofNat 64 (rdLe sec (o + x) n)
  let s1 := (((s.withReg (portReg e Reg.shuPendBase) (word 0 8)).withReg (portReg e Reg.shuPendCycle) (word 8 8)).withReg
    (portReg e Reg.shuPendCount) (word 16 2))
  (forEach (List.range (rdLe sec (o + 16) 2)) (fun i s => s.withReg (portReg e fun q => Reg.shuPendEntry q i) (word (64 + 8 * i) 8)) s1).armList e 0

/-- The table rows of a section, each at the address of its pending register. -/
def imageRows (n : Nat) (sec : Bytes) : List (Nat × Word) :=
  let r (off len : Nat) : Word := BitVec.ofNat 64 (rdLe sec off len)
  (List.range 16384).map (fun i => (pdReg n (Reg.rtePendNode i), r (0x13000 + 2 * i) 2)) ++
    (List.range 512).map (fun i => (pdReg n (Reg.rtePendSetLo 0) + 8 * i, r (0x12000 + 8 * i) 8)) ++
    (List.range 8192).map fun i => (pdReg n (Reg.rtePendStationLo 0) + 8 * i, r (0x1B000 + 8 * i) 8)

/-- The image's route tables become pending and active; an armed route latch is cancelled, and parked frames are classified again
(R282, R285). -/
def State.imageTables (s : State) (n : Nat) (sec : Bytes) : State :=
  let s1 := (s.withRegs ((s.regs.filter fun p => decide (p.1 < pdReg n 0x200000)) ++ ((imageRows n sec).filter fun p => p.2 != 0) ++
    s.regs.filter fun p => decide (pdReg n 0x280000 ≤ p.1))).tablesTake n
  let st := pdReg n Reg.rteStatus
  let s2 := if s1.fld st 0 0 = 1 then (s1.withFld st 0 0 0).withFld st 2 2 1 else s1
  s2.unparkAll n fun _ => true

/-- Selectors of a port's counters that a section changes: those counters restart (R391, R392). -/
def State.clearPortCounts (s : State) (e : Nat) (old new : Bytes) : State :=
  forEach (List.range 28) (fun k s =>
    let o := 0x2B000 + 64 * (e % 32) + 2 * k
    if rdLe old o 2 = rdLe new o 2 then s else s.withReg (portReg e fun q => Reg.peePortCnt q k) 0) s

/-- A port die takes a section at a latch: its mode, ports, carving, lists, counters and, in package scope, its route tables. `named`
lists the ports whose fields the image carries. -/
def State.latchPortDie (s : State) (n : Nat) (sec : Bytes) (package : Bool) (named : List Nat) : State :=
  let d := 16 + n
  let old := (s.die d).active
  let mode := s.secFabric n sec
  let turned := s.fabricMode n != mode
  let credits (s : State) (e : Nat) : List Nat := (List.range 16).map (s.portCredit e)
  let before := diePorts n |>.map fun e => (s.portRec e, credits s e)
  let counts := (List.range 4).map fun i => (s.pool n i).count
  let counts' := (List.range 4).map (secPunnet sec)
  let s1 := (s.modDie d fun x => { x with active := sec, check := sec }).withFld (pdReg n Reg.lnkDieMode) 0 0 (b2n mode)
  let fresh := named.filter fun q =>
    bit (s1.portRec (32 * n + q)) 0 && (s.linkState (32 * n + q) == 5 ||
      (List.range 128).any fun l => s.laneGone n l && bits (s.laneWord n l) 6 2 == q)
  let s2 := if counts = counts' then s1 else s1.carve n counts'
  let s3 := s2.layLanes n fresh
  let s4 := forEach (List.range 32) (fun q s =>
    let e := 32 * n + q
    let b := nth before q (0, [])
    if turned || fresh.contains q || linkFields b.1 != linkFields (s.portRec e) || b.2 != credits s e then s.restartPort e else s) s3
  let s5 := forEach named (fun q s => (s.imageList (32 * n + q) sec).clearPortCounts (32 * n + q) old sec) s4
  if package then s5.imageTables n sec else s5

end Sys2Proof.Machine
end

