-- ==== Sys2Proof/Machine/Commit.lean ====
section
/-! DEFINITION. The structure commit (R49-R57, R61, R344, R346, R412): start, transfer, verification, withdrawal, zeroing, staging,
the latch lead and the latch. -/

namespace Sys2Proof.Machine

/-! Phases and ends. -/

/-- STR_COMMIT_STATUS.PHASE. -/
def State.phase (s : State) : Nat := s.fld Reg.strCommitStatus 2 0

/-- Replace PHASE. -/
def State.withPhase (s : State) (v : Nat) : State := s.withFld Reg.strCommitStatus 2 0 v

/-- A commit is in progress (R51). -/
def State.committing (s : State) : Bool := decide (1 ≤ s.phase) && decide (s.phase ≤ 5)

/-- PREPARE is in progress: from START to PREPARE completion (R346). -/
def State.preparing (s : State) : Bool := decide (1 ≤ s.phase) && decide (s.phase ≤ 3)

/-- PWR_SEQ_STATUS.PHASE. -/
def State.seqPhase (s : State) : Nat := s.fld Reg.pwrSeqStatus 3 0

/-- The scope of the commit: an owner, or 64 for the package. -/
def Commit.scopeCode (c : Commit) : Nat := if c.scope = 0 then 64 else c.owner

/-- A tile of this owner is in the scope of the commit. -/
def Commit.includes (c : Commit) (o : Nat) : Bool := c.scope == 0 || c.owner == o

/-- Nothing is staged or withdrawn. -/
def State.dropStaged (s : State) : State :=
  (forEach (List.range 20) (fun d s => s.modDie d fun x => { x with staged := none, missed := false }) s).withCommit { s.commit with
    image := [], dies := [], block := false, latchAt := 0, withdrawn := [], stagedPkg := none, stagedParts := [], composite := false,
    lead := [] }

/-- The boot or the start-up phase sees a commit fail (R363, R415). -/
def State.bootFails (s : State) (code : Nat) : State :=
  let s1 := if s.seqPhase = 5 then s.withFld Reg.pwrSeqStatus 3 0 8 else s
  if s.pins.autoBoot then
    ((s1.powerEvent 4).withFld Reg.pwrSeqStatus 11 4 code).withPins { s.pins with autoBoot := false, bootPort := none, bootRefused := [] }
  else s1

/-- The commit fails with a code that names an entry and an offset in its section (R49). -/
def State.commitFails (s : State) (code : Nat) (w : Nat × Nat) : State :=
  ((((s.dropStaged.withPhase 7).withFld Reg.strCommitStatus 10 3 code).withReg Reg.strCommitErrDetail
    (BitVec.ofNat 64 (w.1 % 64 + (w.2 % 2 ^ 32) <<< 6))).raiseIrq 2).bootFails code

/-- An abort (R55). -/
def State.commitAbort (s : State) (code : Nat) : State :=
  (if s.commit.withdrawn.isEmpty then s else s.withFld Reg.strCommitStatus 11 11 1).commitFails code (0, 0)

/-! START and ABORT (R49, R51). -/

/-- A commit starts. -/
def State.commitStarts (s : State) : State :=
  let s1 := if s.seqPhase = 7 ∨ s.seqPhase = 8 then s.withFld Reg.pwrSeqStatus 3 0 5 else s
  let s2 := (((s1.withPhase 1).withFld Reg.strCommitStatus 10 3 0).withReg Reg.strCommitErrDetail 0).withCommit { s1.commit with
    startTime := s.now }
  if imgLenOk (s.reg Reg.strImageLen).toNat then s2 else s2.commitFails 2 (0, 0)

/-- STR_COMMIT_CTRL.START. -/
def State.commitStart (s : State) : State := if s.committing then s.bump Reg.strCommitRejectCnt else s.commitStarts

/-- STR_COMMIT_CTRL.ABORT (R53, R55). -/
def State.abortWrite (s : State) : State :=
  if s.phase = 5 then s.withFld Reg.strCommitStatus 12 12 1 else if s.committing then s.commitAbort 0x21 else s

/-- A write of STR_COMMIT_CTRL is judged on the state before it (R51). -/
def State.commitCtrl (s : State) (v : Nat) : State :=
  let s1 := if bit v 1 then s.abortWrite else s
  if ¬ bit v 0 then s1 else if s.committing then s1.bump Reg.strCommitRejectCnt else s1.commitStarts

/-- START. -/
def execStart (_src : Src) (s : State) : Out := .next ((s.external 1).commitCtrl 1)

/-- ABORT. -/
def execAbort (_src : Src) (s : State) : Out := .next ((s.external 1).commitCtrl 2)

/-! Transfer (R52, R364). -/

/-- Bytes go to the inactive slot of both reservations. -/
def State.writeSlots (s : State) (b : Bytes) : State :=
  forEach [0, 6] (fun k s => (s.hbmWrite k (slotOff (1 - s.activeSlot)) b).1) s

/-- The image of an HBM source: its bytes, or none where the read fails (SRC_FAULT, Table 2-10). -/
def State.readImage (s : State) : State × Option Bytes :=
  let a := (s.reg Reg.strImageAddr).toNat
  let len := (s.reg Reg.strImageLen).toNat
  let k := a / 2 ^ 36
  let off := a % 2 ^ 36
  if 11 < k ∨ ¬ s.trained k ∨ s.capBytes k < off + len then (s, none)
  else
    let r := s.hbmRead k off len false 0
    (r.1, if r.2.2 then none else some r.2.1)

/-- The bytes that the transfer brings, from HBM or from outside. -/
def State.takeImage (s : State) (image : Bytes) (failed : Bool) : State × Option Bytes :=
  if failed ∨ (s.reg Reg.strImageAddr).toNat % 4096 ≠ 0 then (s, none)
  else if s.fld Reg.strImageSrc 1 0 = 1 then s.readImage
  else (s, some (padTo (s.reg Reg.strImageLen).toNat image))

/-! Withdrawal (R52). -/

/-- Owner of a 64 MiB unit of a stack under a set of partitions; 0 where no window covers it. -/
def unitHolder (parts : SMap Bytes) (k u : Nat) : Nat :=
  match parts.find? fun x => (sectionWindows x.2).any fun w => bit w.mask k && decide (w.base ≤ u) && decide (u < w.base + w.size) with
  | some x => x.1
  | none => 0

/-- Units of a stack whose owner changes. -/
def movedUnits (old new : SMap Bytes) (k : Nat) : List Nat :=
  (List.range fullUnits).filter fun u => unitHolder old k u != unitHolder new k u

/-- Windows that lose a unit, by owner and record. One of which only some units change owner is withdrawn as a whole, and the units that change
are zeroed: the model's choice (log entry 73). -/
def lostWindows (old new : SMap Bytes) : List (Nat × Nat) :=
  old.flatMap fun x => ((List.range (rdLe x.2 2 1)).filterMap fun i =>
    let r := rdLe x.2 (64 + 16 * i) 8
    let w := windowOf r
    if w.stacks.any fun k => (List.range w.size).any fun j => unitHolder new k (w.base + j) != x.1 then some (x.1, r) else none)

/-- Logical tiles whose owner changes. -/
def State.lostTiles (s : State) (p : Plan) : List Nat :=
  p.tileDies.flatMap fun x => ((List.range 2048).filter fun i => recOwner (recOf (s.die x.die).active i) != recOwner (recOf x.sec i)).map
    (x.die * 2048 + ·)

/-- Ports whose owner changes. -/
def State.lostPorts (s : State) (p : Plan) : List Nat :=
  p.portDies.flatMap fun x => (diePorts (x.die - 16)).filter fun e => s.portOwner e != bits (portWord x.sec (e % 32)) 15 10

/-- Enabled memory punnets whose window is among those withdrawn. -/
def State.lostPunnets (s : State) (ws : List (Nat × Nat)) : List (Nat × Nat) :=
  (List.range 12).flatMap fun k => ((List.range 4).filter fun i =>
    let q := s.hmPool k i
    q.en && ws.any fun w => w.1 == q.owner && (windowOf w.2).id == q.window).map fun i => (k, i)

/-- Everything that the plan withdraws. -/
def State.withdrawals (s : State) (p : Plan) : List Withdrawn :=
  let ws := lostWindows s.commit.parts p.standing
  (s.lostTiles p).map .tile ++ ws.map (fun w => .window w.1 (BitVec.ofNat 64 w.2)) ++ (s.lostPorts p).map .port ++
    (s.lostPunnets ws).map fun x => .punnet x.1 x.2

/-! Zeroing (R52). -/

/-- What a latch that changes a tile's record clears: operand cache, finished-tile queue, slots, sequencer and summaries, with the flags
of the accumulators and the numeric mode (R77, R123, R155, R156, R181). -/
def Tile.cleared (x : Tile) : Tile :=
  { x with
    oc := [], ocLines := [], ocBad := [], ftq := [], slots := [], remoteOpen := 0, deferred := [], ctxs := [], engines := [],
    counters := [], cmps := [], timers := [], trigQ := [], sums := [], numMode := 0b01000#5, accStatus := 0, staged := false,
    gangHeld := false, reqs := x.reqs.filter fun r => r.use == .signal, rdBuf := [], wrBuf := [], ftqPart := 0, carryIn := [],
    westIn := [] }

/-- A tile that is withdrawn: its sequencer stops and its storage is zeroed. -/
def Tile.zeroed (x : Tile) : Tile := { x.cleared with mem := [], memBad := [], handler := none, periodOverrun := 0, shadowDropped := 0 }

/-- Trace regions whose entry changes, before and after (R387). -/
def movedRegions (old new : Bytes) : List (Nat × Window) :=
  let e (sec : Bytes) (d : Nat) : Bytes := slice sec (0x100 + 32 * d) 32
  (traceRegions old ++ traceRegions new).filter fun r => e old r.1 != e new r.1

/-- All withdrawn storage, and the trace regions whose entry changes, are zeroed. -/
def State.zeroPlan (s : State) (p : Plan) : State :=
  let s1 := forEach (s.lostTiles p) (fun l s => s.modLtile l Tile.zeroed) s
  let s2 := forEach (List.range 12) (fun k s =>
    forEach (movedUnits s.commit.parts p.standing k) (fun u s => s.zeroHbm k (u * unitBytes) unitBytes) s) s1
  forEach (movedRegions s.commit.pkg p.pkg) (fun r s =>
    forEach r.2.stacks (fun k s => s.zeroHbm k (r.2.base * unitBytes) (r.2.size * unitBytes)) s) s2

/-! Block commits (R344). -/

/-- A tile record without its pointer into the schedule table, which the staging of R61 moves (log entry 39). -/
def recCore (r : Bytes) : Bytes := splice r 8 (natLe 8 (putBits (rdLe r 8 8) 42 11 0))

/-- Record `i` is the same in two sections. -/
def recSame (old new : Bytes) (i : Nat) : Bool := recCore (recOf old i) == recCore (recOf new i)

/-- Segments of a tile die, row × 8 + segment, whose bypass two sections place apart. -/
def movedSegments (old new : Bytes) : List Nat := (List.range 256).filter fun j => mapPos old (j / 8) (j % 8) != mapPos new (j / 8) (j % 8)

/-- Block, within its die, of a segment. -/
def segmentBlock (j : Nat) : Nat := j / 8 / 8 * 8 + j % 8

/-- A section differs from the committed one as a block commit may: bypasses set at retired tiles, and records in their blocks. -/
def State.blockDie (s : State) (d : Nat) (new : Bytes) : Bool :=
  let old := (s.die d).active
  let segs := movedSegments old new
  let blocks := segs.map segmentBlock
  segs.all (fun j =>
    let f := mapPos new (j / 8) (j % 8)
    mapPos old (j / 8) (j % 8) == 15 && decide (f ≤ 8) && (s.tile (d * 2304 + j * 9 + f)).lost) &&
  (gangRecords old).all (gangRecords new).contains && (gangRecords new).all (gangRecords old).contains &&
  (List.range 2048).all fun i => blocks.contains (i / 64 / 8 * 8 + i % 64 / 8) ||
    (recSame old new i && recTable old (recOf old i) == recTable new (recOf new i))

/-- The image makes a block commit. -/
def State.isBlock (s : State) (p : Plan) : Bool :=
  p.scope == 1 && p.part p.owner == s.partSec p.owner && (p.portDies.all fun x => x.sec == (s.die x.die).active) &&
    (p.tileDies.all fun x => s.blockDie x.die x.sec) && p.tileDies.any fun x => !(movedSegments (s.die x.die).active x.sec).isEmpty

/-- Latch lead in units of fabric time: 50 µs, or 200 µs for a block commit (R53, R344). -/
def Commit.leadTime (c : Commit) : Nat := if c.block then 3200000 else 800000

/-! TRANSFER_DONE. -/

/-- SCOPE and OWNER of a header that has passed check 0x02 (R62). -/
def State.showHeader (s : State) (b : Bytes) : State :=
  (s.withFld Reg.strCommitStatus 13 13 (imgScope b)).withFld Reg.strCommitStatus 19 14 (if imgScope b = 1 then imgOwner b else 0)

/-- Withdraw, zero and stage a plan that has passed verification (R52, R61). -/
def State.stagePlan (s : State) (b : Bytes) (p : Plan) : State :=
  let s1 := s.withCommit { s.commit with
    image := b, scope := p.scope, owner := p.owner, dies := p.scopeDies, block := s.isBlock p, withdrawn := s.withdrawals p,
    stagedPkg := if p.scope = 0 then some p.pkg else none, stagedParts := p.standing.foldl (fun l x => insertPart x l) [],
    composite := p.scope == 1 }
  let s2 := forEach p.scopeDies (fun d s => s.modDie d fun x => { x with staged := some (s.planSec p d), missed := false }) s1
  let s3 := s2.zeroPlan p
  (if p.scope = 1 then s3.writeSlots (s.compositeImage b p) else s3).withPhase 3

/-- The image has come: it is retained and verified; a failure ends the commit, else it is prepared. -/
def State.transferred (s : State) (b : Bytes) : State :=
  let s1 := s.writeSlots b
  match s1.verify b with
  | some (code, w) => (if code = 2 then s1 else s1.showHeader b).commitFails code w
  | none => (s1.showHeader b).stagePlan b (s1.plan b)

/-- TRANSFER_DONE: not due before M0 and M6 have trained, and a fault where one of them has failed (R364). -/
def State.transferDone (s : State) (image : Bytes) (failed : Bool) : State :=
  if s.phase ≠ 1 then s
  else if (s.ctrl 0).failed ∨ (s.ctrl 6).failed then s.commitFails 1 (0, 0)
  else if ¬ s.trained 0 ∨ ¬ s.trained 6 then s
  else
    match s.takeImage image failed with
    | (s1, none) => s1.commitFails 1 (0, 0)
    | (s1, some b) => s1.transferred b

/-- TRANSFER_DONE (R52). -/
def execTransferDone (image : Bytes) (failed : Bool) (s : State) : Out := .next (s.transferDone image failed)

/-! PREPARE_COMPLETE and LATCH_LEAD (R53). -/

/-- PREPARE ends. -/
def State.prepareDone (s : State) : State :=
  let t := (s.reg Reg.strLatchTime).toNat
  let soon := s.now + s.commit.leadTime
  if s.phase ≠ 3 then s
  else if t ≠ 0 ∧ t < soon then s.commitAbort 0x20
  else (s.withPhase 4).withCommit { s.commit with latchAt := if t = 0 then soon else t }

/-- PREPARE_COMPLETE. -/
def execPrepareComplete (s : State) : Out := .next s.prepareDone

/-- The latch lead begins: blocks in scope are kept awake for it (R354, log entry 41). -/
def State.latchLead (s : State) : State :=
  if s.phase = 4 then
    let tiles (d : Nat) : Bool := s.commit.dies.contains d
    forEach ((List.range 512).filter fun b => tiles (b / 32) && (blockTiles b).any fun l => s.commit.includes (s.tileOwner l))
      (fun b s => s.wakeBlock b) ((s.withPhase 5).withCommit { s.commit with lead := [s.commit.scopeCode] })
  else s

/-- LATCH_LEAD. -/
def execLatchLead (s : State) : Out := .next s.latchLead

/-! The latch on a tile die (R53, R412). -/

/-- Descriptors held in a tile whose record changes are abandoned (STRUCTURE_LATCH, R53). -/
def State.abandon (s : State) (t : Nat) : State :=
  forEach (List.range 4) (fun c s =>
    let x := s.ctx t c
    if x.st = .idle then s
    else s.raiseExc t c ⟨0x28, x.iter == 0, match x.desc with | some d => dIdx d x.iter | none => [], 0⟩ false) s

/-- Tile counters whose selector changes restart (R391). -/
def Tile.newSelectors (old new : Bytes) (i : Nat) (x : Tile) : Tile :=
  { x with counts := (List.range 7).foldl (fun m k =>
      if rdLe (recOf old i) (144 + k) 1 = rdLe (recOf new i) (144 + k) 1 then m else mapPut 0 k 0 m) x.counts }

/-- State that belongs to a physical tile, whichever logical tile it serves. -/
def Tile.placedOn (x y : Tile) : Tile :=
  { x with
    idState := y.idState, lost := y.lost, idRole := y.idRole, idLogical := y.idLogical, sliceEvt := y.sliceEvt, residueAt := y.residueAt,
    linkIn := y.linkIn, slotNo := y.slotNo, edgeNoted := y.edgeNoted, runNoted := y.runNoted }

/-- Position of the `k`-th tile of a segment under a bypass. -/
def segPos (f k : Nat) : Nat := if k < f then k else k + 1

/-- The tiles of a segment move to the places of a new bypass; the one whose tile is bypassed starts zeroed (R412). Its registers DSC_NUM_MODE and
MTX_CTRL start at their reset values, which are not zero: the model's choice (log entry 70). -/
def State.moveSegment (s : State) (d j old new : Nat) : State :=
  let base := d * 2304 + j * 9
  let s1 := forEach (List.range 8) (fun k r =>
    if segPos old k = segPos new k then r
    else
      let x := if segPos old k = new then Tile.reset else s.tile (base + segPos old k)
      r.modTile (base + segPos new k) x.placedOn) s
  let free := if new ≤ 8 then new else 8
  s1.modTile (base + free) Tile.reset.placedOn

/-- TIL_ID of a physical tile after the latch (R39). ROLE of a tile at the bypass position shows 0, that of a failed idle spare 7: the model's
choices (log entry 71). -/
def State.nameTile (s : State) (d q : Nat) : State :=
  let sec := (s.die d).active
  let f := mapPos sec (q / 72) (q % 72 / 9)
  let pos := q % 9
  s.modTile (d * 2304 + q) fun x =>
    if pos = f then { x with idState := 3, idRole := 0, idLogical := none }
    else if f = 15 ∧ pos = 8 then { x with idState := if x.lost then 3 else 2, idRole := 7, idLogical := none }
    else
      let i := q / 72 * 64 + q % 72 / 9 * 8 + (if pos < f then pos else pos - 1)
      { x with
        idState := if x.lost then 3 else 1, idRole := recRole (recOf sec i), idLogical := if x.lost then none else some (d * 2048 + i) }

/-- MTX_GANG of a logical tile from its record (R106). -/
def State.gangWord (s : State) (l : Nat) : Word :=
  match s.gangOf l with
  | none => 0
  | some g =>
    let w := s.roleWord l
    BitVec.ofNat 64 (bits w 24 10 + bits g 17 15 <<< 15 + bits w 28 25 <<< 18 + bits w 32 29 <<< 22 + b2n (bits w 32 25 == 0) <<< 26 + 1 <<< 27)

/-- Segment map registers of a tile die (R38). -/
def State.segMaps (s : State) (d : Nat) : State :=
  forEach (List.range 16) (fun i s => s.withReg (dieReg d (Reg.strSegMap i)) (BitVec.ofNat 64 (rdLe (s.die d).active (8 * i) 8))) s

/-- A logical tile whose record changes loses what the latch clears. -/
def State.clearChanged (s : State) (d : Nat) (old new : Bytes) : State :=
  forEach ((List.range 2048).filter fun i => !recSame old new i) (fun i s =>
    (s.modLtile (d * 2048 + i) Tile.cleared).modLtile (d * 2048 + i) (Tile.newSelectors old new i)) s

/-- Logical tiles of a die whose owner is in scope before or after. -/
def scopeTiles (c : Commit) (old new : Bytes) : List Nat :=
  (List.range 2048).filter fun i => c.includes (recOwner (recOf old i)) || c.includes (recOwner (recOf new i))

/-- A schedule restarts at slot 0 (R46, R53). -/
def Tile.restart (x : Tile) : Tile := { x with slotNo := 0, portUse := [], linkIn := [], edgeNoted := false, runNoted := false }

/-- A tile die takes a section at a latch. -/
def State.latchTileDie (s : State) (d : Nat) (new : Bytes) : State :=
  let old := (s.die d).active
  let segs := (List.range 256).filter fun j => s.bypassOf (d * 2048 + j * 8) != mapPos new (j / 8) (j % 8)
  let from_ := segs.map fun j => (j, s.bypassOf (d * 2048 + j * 8))
  let tiles := scopeTiles s.commit old new
  let s1 := s.clearChanged d old new
  let s2 := (s1.modDie d fun x => { x with active := new, check := new }).segMaps d
  let s3 := forEach from_ (fun x s => s.moveSegment d x.1 x.2 (mapPos new (x.1 / 8) (x.1 % 8))) s2
  let s4 := forEach (List.range 2304) (fun q s => s.nameTile d q) s3
  let s5 := forEach tiles (fun i s => (s.modLtile (d * 2048 + i) Tile.restart).modLtile (d * 2048 + i) fun x => { x with
    mtxGang := s.gangWord (d * 2048 + i) }) s4
  if segs.isEmpty then s5 else s5.withCommit { s5.commit with copying := some s5.commit.scopeCode }

/-! The latch (R53, R57). -/

/-- A die applies its staged section. -/
def State.applies (s : State) (d : Nat) : Bool := (s.die d).staged.isSome && !(s.die d).missed && !(s.die d).inReset

/-- Ports of a port die whose fields the image carries (R54). -/
def State.namedPorts (s : State) (n : Nat) : List Nat :=
  if s.commit.scope = 0 then List.range 32
  else
    match (sectionsOf s.commit.image 3).find? fun x => x.1 == 16 + n with
    | some x => portsNamed s.commit.owner x.2.1 (s.die (16 + n)).active
    | none => []

/-- A die takes its staged section, with its epochs and trace event. -/
def State.latchDie (s : State) (d pkgEpoch : Nat) : State :=
  let new := (s.die d).staged.getD []
  let package := s.commit.scope == 0
  let s1 := if d < 16 then s.latchTileDie d new else s.latchPortDie (d - 16) new package (s.namedPorts (d - 16))
  let s2 := (s1.modDie d fun x => { x with structured := true, fenced := x.fenced && !package }).openDie d
  let a := dieReg d Reg.strDieEpoch
  let s3 := s2.withFld a 31 0 (s2.fld a 31 0 + 1)
  let s4 := if package then s3.withFld a 63 32 pkgEpoch else s3
  s4.traceEvent d 0xFFFF 14 (s4.unitOwner (Unit6.ofDie d)) (natLe 4 (s4.fld a 31 0) ++ natLe 4 (s4.fld a 63 32))

/-- A die that misses the latch (R346). -/
def State.missLatch (s : State) (d epoch : Nat) : State := s.raiseFault (Unit6.ofDie d) 0x0C 2 false 15 epoch

/-- Exceptions of every tile whose record the latch changes, at the epoch before it (R152). -/
def State.abandonDie (s : State) (d : Nat) : State :=
  match (s.die d).staged with
  | none => s
  | some new =>
    forEach ((List.range 2048).filter fun i => !recSame (s.die d).active new i) (fun i s => s.abandon (s.phys (d * 2048 + i))) s

/-- Epochs of the scope (R57): each owner the image describes, and the package in package scope. The epoch of a partition that a package image
describes at 0xFFFF_FFFF wraps to 0: the model's choice (log entry 72). -/
def State.stepEpochs (s : State) : State :=
  let owners := if s.commit.scope = 0 then (sectionsOf s.commit.image 4).map (·.1) else [s.commit.owner]
  let s1 := forEach owners (fun o s => s.withFld (Reg.strPartEpoch o) 31 0 (s.fld (Reg.strPartEpoch o) 31 0 + 1)) s
  if s.commit.scope = 0 then s1.withFld Reg.strPkgEpoch 31 0 (s1.fld Reg.strPkgEpoch 31 0 + 1) else s1

/-- An entry is invalidated as INVALIDATE does (R182, R185). -/
def State.invalidate (s : State) (e : Nat) : State :=
  if s.groupOn e then ((s.abortAll e 0x56).withFld (Reg.colGrpCfg e) 0 0 0).modGroup e fun g => { g with anyEpoch := true } else s

/-- Owners whose partition the latch dissolves: their groups are invalidated, and a barrier armed for one is cancelled (R182, R310). -/
def State.dissolve (s : State) (gone : List Nat) : State :=
  let s1 := forEach (List.range 256) (fun e s => if s.groupOn e && gone.contains (s.group e).owner then s.invalidate e else s) s
  if s1.barrierArmed && gone.contains s1.barrierOwner then s1.barrierDropped else s1

/-- Check-value units of a withdrawn window clear EN (R336). -/
def State.chkWithdraw (s : State) : State :=
  forEach s.windowUnits (fun u s =>
    let w := (s.reg (chkWinA u)).toNat
    if s.windowGone (bits w 45 40) (bits w 39 0) (64 * s.fld (chkWinLenA u) 18 0) then s.withFld (chkCtrlA u) 0 0 0 else s) s

/-- A memory punnet whose window is withdrawn, or no longer stands, is disabled, and its buffers are no more, though it was disabled before
(R250). -/
def State.punnetsEnd (s : State) : State :=
  forEach ((List.range 12).flatMap fun k => (List.range 4).map fun i => (k, i)) (fun x s =>
    let p := s.hmPool x.1 x.2
    let stands := s.windowOwner p.window == some p.owner && !s.commit.withdrawn.contains (.punnet x.1 x.2)
    if (p.en || p.count != 0) && !stands then
      ((s.withHmPool x.1 x.2 Punnet.off).modCtrl x.1 fun c => { c with dirty := c.dirty.filter fun y => y.1 != x.2 }).withFld
        (memReg x.1 (Reg.punHmCfg x.2)) 0 0 0
    else s) s

/-- Trace units thaw; one whose entry changes starts its region again (R390). -/
def State.thaw (s : State) (old : Bytes) : State :=
  forEach (List.range 20) (fun d s =>
    let same := slice old (0x100 + 32 * d) 32 == s.peeEntry d
    let s1 := s.modTraceUnit d fun u => { u with freezing := false, full := u.full && same }
    if same then s1 else s1.withReg (dieReg d Reg.peeDieWrptr) 0) (s.withReg Reg.peeFrozen 0)

/-- View entries that the latch includes and outdates are removed (R386). -/
def State.dropViews (s : State) : State :=
  let stale (v : View) : Bool :=
    match s.parseUnit v.unit with
    | none => false
    | some u => s.commit.includes (s.unitOwner u) && decide (v.epoch < s.ownerEpoch (s.unitOwner u))
  s.withPorter { s.porter with views := s.porter.views.filter fun v => !stale v }

/-- The commit is done: the slot flips, PHASE and start-up follow (R53, R61, R415). -/
def State.commitDone (s : State) : State :=
  let a := Reg.strActiveSlot
  let lead := if s.commit.copying.isSome then [s.commit.scopeCode] else []
  let s1 := ((s.withFld a 0 0 (1 - s.activeSlot)).withFld a 1 1 (b2n s.commit.composite)).withPhase 6
  let s2 := if s1.seqPhase = 5 then s1.withFld Reg.pwrSeqStatus 3 0 6 else s1
  let s3 := (s2.withPins { s2.pins with autoBoot := false, bootPort := none, bootRefused := [] }).dropStaged
  (s3.withCommit { s3.commit with lead := lead, structured := s3.commit.structured || s3.commit.scope == 0 }).raiseIrq 2

/-- Every die in scope takes or misses the latch. -/
def State.latch (s : State) : State :=
  let ds := s.commit.dies
  let parts := s.commit.stagedParts
  let gone := (s.commit.parts.map (·.1)).filter fun o => !parts.any (·.1 == o)
  let oldPkg := s.commit.pkg
  let epoch := imgEpoch s.commit.image
  let live := ds.filter s.applies
  let s1 := forEach (ds.filter fun d => !s.applies d) (fun d s => s.missLatch d epoch) s
  let s2 := forEach (live.filter fun d => decide (d < 16)) (fun d s => s.abandonDie d) s1
  let s3 := s2.chkWithdraw
  let s4 := (s3.stepEpochs).withCommit { s3.commit with pkg := s3.commit.stagedPkg.getD oldPkg, parts := parts }
  let s5 := forEach live (fun d s => s.latchDie d (s.fld Reg.strPkgEpoch 31 0)) s4
  let s6 := (s5.punnetsEnd.dissolve gone).dropViews
  (if s6.commit.scope = 0 then s6.thaw oldPkg else s6).commitDone

/-- LATCH. -/
def execLatch (s : State) : Out := .next (if s.phase = 5 then s.latch else s)

/-- The state copy ends: schedules in scope restart at slot 0 and the hold ends (R412). -/
def State.copyEnds (s : State) : State :=
  match s.commit.copying with
  | none => s
  | some o =>
    let s1 := forEach (s.tiles.map (·.1)) (fun t s => if o = 64 ∨ s.physOwner t = o then s.modTile t Tile.restart else s) s
    s1.withCommit { s1.commit with copying := none, lead := s1.commit.lead.filter fun x => x != o }

/-- TILE_STATE_COPY_END. -/
def execTileStateCopyEnd (s : State) : Out := .next s.copyEnds

end Sys2Proof.Machine
end

