-- ==== Sys2Proof/Machine/Scrub.lean ====
section
/-! DEFINITION. Check copies and scrubbing (R58-R60). -/

namespace Sys2Proof.Machine

/-! Use masks (R43, R59): bits of a 64-bit word of a section whose difference is not benign. -/

/-- The low `n` bits. -/
def lowMask (n : Nat) : Nat := 2 ^ n - 1

/-- Mask of a word of a tile record of a role; `o` is its offset in the record. -/
def recordMask (role o : Nat) : Nat :=
  if o = 0 then lowMask 10 + 1 <<< 33 + (if role = 1 then lowMask 23 <<< 10 else 0)
  else if o = 8 then (if 1 ≤ role ∧ role ≤ 5 then lowMask 43 else 0)
  else if o < 144 then (if 1 ≤ role ∧ role ≤ 4 then lowMask 56 else 0)
  else if o = 144 then (if 1 ≤ role ∧ role ≤ 5 then lowMask 64 else 0)
  else 0

/-- The tile of a section whose schedule names the entry at an offset. -/
def entryTile (sec : Bytes) (o : Nat) : Option Nat :=
  (List.range 2048).find? fun i =>
    let r := recOf sec i
    recRuns r && decide (recSched r ≤ o) && decide (o < recSched r + 4 * recPeriod r)

/-- Mask of a word of a tile-die section, and the tile it belongs to. -/
def tileWordMask (sec : Bytes) (o : Nat) : Nat × Option Nat :=
  if o < 128 then (lowMask 64, none)
  else if o < 524416 then
    let i := (o - 128) / 256
    (recordMask (recRole (recOf sec i)) ((o - 128) % 256), some i)
  else if o = 524416 then (lowMask 64, none)
  else if o < gangOff + 8 * rdLe sec 524416 8 then (lowMask 35, none)
  else
    let a := entryTile sec o
    let b := entryTile sec (o + 4)
    ((if a.isSome then lowMask 32 else 0) + (if b.isSome then lowMask 32 <<< 32 else 0), a.orElse fun _ => b)

/-- Mask of a word of a port-die section: every field that is not reserved. -/
def portWordMask (o : Nat) : Nat :=
  if o = 0 then 3
  else if o < 64 then 0
  else if o < 0x240 then (if o % 16 = 0 then lowMask 46 else 0)
  else if o < 0x250 then lowMask 64
  else if o < 0x280 then 0
  else if o < 0xA80 then (if (o - 0x280) % 64 < 32 then lowMask 64 else 0)
  else if o < 0x11280 then
    let x := (o - 0xA80) % 2112
    if x = 0 then lowMask 64 else if x = 8 then lowMask 34 else if x = 16 then lowMask 16 else if x < 64 then 0 else lowMask 42
  else if o < 0x12000 then 0
  else if o < 0x13000 then lowMask 64
  else if o < 0x1B000 then lowMask 9 + lowMask 9 <<< 16 + lowMask 9 <<< 32 + lowMask 9 <<< 48
  else if o < 0x2B000 then (if o % 16 = 0 then lowMask 61 else lowMask 14 + lowMask 7 <<< 16)
  else if o < 0x2B800 then (if o % 64 < 56 then lowMask 64 else 0)
  else 0

/-- Mask of a word of a PACKAGE section: the topology word, the egress ports' directions, the peephole entries (Tables 12-1 and 17-7). -/
def packageWordMask (o : Nat) : Nat :=
  if o = 0 then lowMask 16
  else if o < 128 then 0
  else if o < 256 then 0x0F0F0F0F0F0F0F0F
  else if o < 0x100 + 640 then
    match (o - 0x100) % 32 with
    | 0 => lowMask 6 + lowMask 24 <<< 16
    | 8 => lowMask 16
    | 16 => lowMask 64
    | _ => 0
  else 0

/-- Mask of a word of a PARTITION section: FORM, CLASS_MASK and WINDOW_COUNT, the window records (Table 2-9), and the compatibility subsection. -/
def partitionWordMask (sec : Bytes) (o : Nat) : Nat :=
  let windows := 64 + 16 * rdLe sec 2 1
  if o = 0 then 1 + lowMask 16 <<< 8
  else if o < 64 then 0
  else if o < windows then (if o % 16 = 0 then lowMask 52 else 0)
  else if rdLe sec 0 1 % 2 = 1 then lowMask 64 else 0

/-- The committed section that a part of a die's configuration names. -/
def State.confSec (s : State) (d : Nat) : ConfigPart → Bytes
  | .die => (s.die d).active
  | .package => s.commit.pkg
  | .partition o => s.partSec o

/-- Mask of a word of a die's configuration, and the logical tile it belongs to. -/
def State.wordMask (s : State) (d : Nat) (c : ConfigPart) (o : Nat) : Nat × Option Nat :=
  match c with
  | .die =>
    if d < 16 then
      let m := tileWordMask (s.die d).active o
      (m.1, m.2.map (d * 2048 + ·))
    else (portWordMask o, none)
  | .package => (packageWordMask o, none)
  | .partition p => (partitionWordMask (s.partSec p) o, none)

/-! Reload (R58). -/

/-- TYPE and INDEX of a part of a die's configuration (Table 2-2). -/
def confEntry (d : Nat) : ConfigPart → Nat × Nat
  | .die => (if d < 16 then 2 else 3, d)
  | .package => (1, 0)
  | .partition o => (4, o)

/-- A section in the active slot of a reservation, if it passes its SHA-384 check. -/
def State.retained (s : State) (k d : Nat) (c : ConfigPart) : State × Option Bytes :=
  if ¬ s.trained k then (s, none)
  else
    let base := slotOff s.activeSlot
    let h := s.hbmRead k base 4096 false 0
    match (imgEntries h.2.1).find? fun e => e.kind == (confEntry d c).1 && e.index == (confEntry d c).2 with
    | none => (h.1, none)
    | some e =>
      if h.2.2 ∨ 536870912 < e.off + e.len then (h.1, none)
      else
        let r := h.1.hbmRead k (base + e.off) e.len false 0
        (r.1, if r.2.2 || sha384 r.2.1 != e.hash then none else some r.2.1)

/-- Both copies of a section take bytes. -/
def State.withSection (s : State) (d : Nat) (c : ConfigPart) (b : Bytes) : State :=
  match c with
  | .die => s.modDie d fun x => { x with active := b, check := b }
  | .package => s.withCommit { s.commit with pkg := b }
  | .partition o => s.withCommit { s.commit with parts := s.commit.parts.map fun x => if x.1 = o then (o, b) else x }

/-- Reload a section from M0, or from M6; where both fail, the die is fenced with its stops isolated (R13, R58). True when the reload
succeeded. -/
def State.reloadSec (s : State) (d : Nat) (c : ConfigPart) : State × Bool :=
  match s.retained 0 d c with
  | (s1, some b) => (s1.withSection d c b, true)
  | (s1, none) =>
    match s1.retained 6 d c with
    | (s2, some b) => (s2.withSection d c b, true)
    | (s2, none) =>
      ((((s2.modDie d fun x => { x with fenced := true }).closeDie d).bump Reg.strScrubFail).raiseFault (Unit6.ofDie d) 0x08 2 true 15 0, false)

/-! One word of a pass. -/

/-- Unit that a scrub record names. -/
def scrubUnit (d : Nat) : Option Nat → Unit6
  | some l => Unit6.ofTile l
  | none => Unit6.ofDie d

/-- The scrubber acts on one word whose copies have been upset (R58, R59). -/
def State.scrubWord (s : State) (d : Nat) (u : ScrubUpset) : State :=
  let o := 8 * u.word
  let act := s.confSec d u.part
  if act.length ≤ o then s
  else
    let set (v : Nat) : State := s.withSection d u.part (splice act o (natLe 8 v))
    if u.activeBad && u.checkBad then (s.reloadSec d u.part).1
    else if u.activeBad then (set u.check).bump Reg.strScrubRepair
    else if u.checkBad then (set u.active).bump Reg.strScrubRepair
    else if u.active % 2 ^ 64 = u.check % 2 ^ 64 then s
    else
      let m := s.wordMask d u.part o
      if (u.active ^^^ u.check) % 2 ^ 64 &&& m.1 = 0 then (s.bump Reg.strScrubBenign).raiseFault (scrubUnit d m.2) 0x06 0 false 15 0
      else ((s.reloadSec d u.part).1.bump Reg.strScrubReload).raiseFault (scrubUnit d m.2) 0x07 2 false 15 0

/-- Scrubbing of a die pauses from START until the latch or the abort (R60). -/
def State.scrubPaused (s : State) (d : Nat) : Bool := s.committing && (s.phase == 1 || s.commit.dies.contains d)

/-- A pass over a die. -/
def State.scrubPass (s : State) (d : Nat) (l : List ScrubUpset) : State :=
  if 20 ≤ d ∨ s.scrubPaused d ∨ (s.die d).inReset then s else forEach l (fun u s => s.scrubWord d u) s

/-- SCRUB_PASS (R58). -/
def execScrubPass (die : Nat) (upsets : List ScrubUpset) (s : State) : Out := .next (s.scrubPass die upsets)

end Sys2Proof.Machine
end

