-- ==== Sys2Proof/Machine/Adaptive.lean ====
section
/-! DEFINITION. Adaptive loops and their bounds (R312-R315, R329), the voltage-frequency loop (R351, R352, R356, R357), block sleep
and wake (R353-R355), and the power cap. -/

namespace Sys2Proof.Machine

/-! Safety overrides (R314). -/

/-- Deterministic mode is selected: the loops are frozen (R302). -/
def State.detFrozen (s : State) : Bool := s.fld Reg.detCtrl 0 0 == 1

/-- Onset of a safety override of a loop (0 voltage-frequency, 1 refresh) at a unit; none while it is already in force. -/
def State.override (s : State) (loop k : Nat) (u : Unit6) : State :=
  if s.pins.overridden.contains (loop, k) then s
  else
    let s1 := (((s.withPins { s.pins with overridden := s.pins.overridden ++ [(loop, k)] }).withFld Reg.detStatus 5 5 1).bump
      Reg.detOverrideCnt).raiseFault u 0x20 0 false 15 0
    if s1.detOn then s1.withFld Reg.detStatus 2 2 1 else s1

/-- An override ends. -/
def State.overrideEnds (s : State) (loop k : Nat) : State :=
  s.withPins { s.pins with overridden := s.pins.overridden.filter fun x => x != (loop, k) }

/-- A unit is held at a bound, or no longer is (R313). -/
def State.pin (s : State) (loop k : Nat) (held : Bool) : State :=
  let l := s.pins.pinned.filter fun x => x != (loop, k)
  s.withPins { s.pins with pinned := if held then l ++ [(loop, k)] else l }

/-! Frequency (R351, R352). -/

/-- FREQ of a block. -/
def State.freq (s : State) (b : Nat) : Nat := s.fld (clkBlockA b) 10 0

/-- Replace FREQ. -/
def State.withFreq (s : State) (b f : Nat) : State := s.withFld (clkBlockA b) 10 0 f

/-- Owners of the lattice domains that a block belongs to: those of its tiles with a schedule, or in a gang of several blocks. -/
def State.domainOwners (s : State) (b : Nat) : List Nat :=
  ((blockTiles b).filter fun l => s.tileOwner l != 0 && (s.schedPeriod l != 0 ||
    match s.gangOf l with | some g => decide (8 < gangSide g) | none => false)).map s.tileOwner |>.eraseDups

/-- Every block of the lattice domains of a list of owners, and of the domains those blocks share. -/
def State.domainBlocks (s : State) : Nat → List Nat → List Nat
  | 0, _ => []
  | n + 1, os =>
    let bs := (List.range 512).filter fun b => (s.domainOwners b).any os.contains
    let os' := (bs.flatMap s.domainOwners).eraseDups
    if os'.all os.contains then bs else s.domainBlocks n os'

/-- Blocks that change frequency with a block. -/
def State.domainOf (s : State) (b : Nat) : List Nat :=
  let os := s.domainOwners b
  if os.isEmpty then [b] else s.domainBlocks 64 os

/-- FLOOR and CEIL in force: 1,250 MHz in deterministic mode. -/
def State.vfBounds (s : State) : Nat × Nat :=
  if s.detFrozen then (1250, 1250) else (s.fld Reg.detPolicyVf 10 0, s.fld Reg.detPolicyVf 26 16)

/-- A running block takes one step down; below the floor that is an override. -/
def State.lowerOne (s : State) (b : Nat) : State :=
  let f := s.freq b
  if s.blockState b ≠ 3 ∨ f ≤ 625 then s
  else
    let s1 := (s.withFreq b (f - 25)).pin 0 b false
    if f - 25 < s.vfBounds.1 then s1.override 0 b (Unit6.ofBlock b) else s1

/-- Blocks take one step down, each with its lattice domain, at the same time. -/
def State.lowerBlocks (s : State) (l : List Nat) : State := forEach (l.flatMap s.domainOf).eraseDups (fun b s => s.lowerOne b) s

/-- Conditions of R356 on the package and on a block's sector. -/
def State.mayRaise (s : State) (b : Nat) : Bool :=
  decide (100 * s.fld Reg.pwrNow 12 0 ≤ 98 * s.fld Reg.pwrCap 12 0) &&
    decide (s.fld (sectorReg (blockSector b)) 7 0 + 5 ≤ s.fld Reg.pwrTherm 15 8)

/-- A running block takes one step up. -/
def State.raiseOne (s : State) (b : Nat) : State :=
  let f := s.freq b
  if s.blockState b ≠ 3 then s
  else
    let s1 := s.withFreq b (f + 25)
    if s.vfBounds.1 ≤ f + 25 then s1.overrideEnds 0 b else s1

/-- One step up of a block with its lattice domain. At the ceiling the block is held (R313). -/
def State.raiseBlock (s : State) (b : Nat) (margin : Bool) : State :=
  let l := s.domainOf b
  if s.blockState b ≠ 3 ∨ ¬ margin ∨ ¬ l.all s.mayRaise then s
  else if (l.filter fun x => s.blockState x == 3).any fun x => decide (s.vfBounds.2 < s.freq x + 25) then
    if s.detFrozen then s else s.pin 0 b true
  else forEach l (fun x s => s.raiseOne x) s

/-- VF_STEP_UP (R356). -/
def execVfStepUp (b : Nat) (currentMargin : Bool) (s : State) : Out := .next (s.raiseBlock b currentMargin)

/-- Every running block of the package. -/
def State.runningBlocks (s : State) : List Nat := (List.range 512).filter fun b => s.blockState b == 3

/-- Power exceeds the cap. -/
def State.aboveCap (s : State) : Bool := decide (s.fld Reg.pwrCap 12 0 < s.fld Reg.pwrNow 12 0)

/-- VF_STEP_DOWN: while power exceeds the cap, every running block takes a step down at the same time (R356, R357). -/
def execVfStepDown (s : State) : Out := .next (if s.aboveCap then s.lowerBlocks s.runningBlocks else s)

/-! Refresh (R329). -/

/-- Code of Table 14-2. -/
def refreshCode (temp : Nat) : Nat := if temp ≤ 85 then 0 else if temp ≤ 90 then 1 else if temp ≤ 95 then 2 else if temp ≤ 100 then 3 else 4

/-- The refresh rate in force at a stack temperature: the floor raises it and is counted, the ceiling yields to temperature. -/
def State.refreshAt (s : State) (k temp : Nat) : State :=
  let target := refreshCode temp
  let lo := s.fld Reg.detPolicyRefresh 2 0
  let hi := s.fld Reg.detPolicyRefresh 6 4
  let a := memReg k Reg.memStatus
  if s.detFrozen then ((s.withFld a 13 11 4).pin 1 k false).overrideEnds 1 k
  else
    let s1 := (s.withFld a 13 11 (max lo target)).pin 1 k (decide (target < lo))
    if hi < target then s1.override 1 k (Unit6.ofDie (stackDie k)) else s1.overrideEnds 1 k

/-- REFRESH (R329). -/
def execRefresh (k : Nat) (temp : Nat) (s : State) : Out :=
  .next (if s.trained k && !(s.ctrl k).selfRefresh then s.refreshAt k temp else s)

/-! Policies (R314, R315). -/

/-- A frequency of the loop: 625-1,500 MHz in steps of 25. -/
def vfOk (f : Nat) : Bool := decide (625 ≤ f) && decide (f ≤ 1500) && f % 25 == 0

/-- Register and check of a policy write. -/
def policyRow (loop : Loop) (v : Nat) : Nat × Bool :=
  match loop with
  | .vf => (Reg.detPolicyVf, vfOk (bits v 10 0) && vfOk (bits v 26 16) && decide (bits v 10 0 ≤ bits v 26 16))
  | .refresh => (Reg.detPolicyRefresh, decide (bits v 6 4 ≤ 4) && decide (bits v 2 0 ≤ bits v 6 4))
  | .serdes => (Reg.detPolicySerdes, decide (bits v 3 0 ≤ bits v 7 4))

/-- A policy write (R315). In deterministic mode it is stored, and the loop follows it when the mode ends. -/
def State.policyWrite (s : State) (src : Src) (loop : Loop) (v : Nat) : State :=
  let r := policyRow loop v
  if r.2 then s.store r.1 v else s.refuse src r.1 .badValue

/-- POLICY_WRITE. -/
def execPolicyWrite (src : Src) (loop : Loop) (value : Nat) (s : State) : Out := .next ((s.external 1).policyWrite src loop value)

/-- A safety limit acts on a loop: a block takes a step down, a controller takes the rate that its temperature needs; the SerDes loop has
no override (Table 13-6). -/
def State.policyOverride (s : State) (loop : Loop) (k : Nat) : State :=
  match loop with
  | .vf => s.lowerBlocks [k]
  | .refresh => if s.trained k then s.refreshAt k (s.fld (memReg k Reg.memStatus) 21 14) else s
  | .serdes => s

/-- POLICY_OVERRIDE (R314). -/
def execPolicyOverride (loop : Loop) (unit : Nat) (s : State) : Out := .next (s.policyOverride loop unit)

/-! Sleep and wake (R353-R355). -/

/-- Nothing of a block is at work (R353). -/
def State.blockQuiet (s : State) (b : Nat) : Bool :=
  (blockTiles b).all (fun l =>
    let x := s.ltile l
    (x.ctxs.all fun c => c.2.st == .idle) && x.trigQ.isEmpty && x.ftq.isEmpty && x.handler.isNone) &&
  !(s.stop b).queue.any fun m => m.dst == b

/-- A tile forwards lattice slots. -/
def State.forwards (s : State) (l : Nat) : Bool :=
  (List.range (s.schedPeriod l)).any fun j => let e := s.schedEntry l j; [1, 2, 3, 4].any fun k => decide (1 ≤ entryOut e k) && decide (entryOut e k ≤ 4)

/-- A block is held open (R354). -/
def State.heldOpen (s : State) (b : Nat) : Bool :=
  (blockTiles b).any fun l => bit (s.roleWord l) 33 || s.forwards l || (s.barrierArmed && s.tileOwner l == s.barrierOwner) ||
    s.inLead (s.phys l)

/-- BLOCK_SLEEP: an idle block gates its clock (R353). -/
def State.blockSleep (s : State) (b : Nat) : State :=
  if s.blockState b = 3 ∧ s.fld Reg.clkSleepTimeout 23 0 ≠ 0 ∧ s.blockQuiet b ∧ ¬ s.heldOpen b then (s.withFreq b 0).setBlockState b 1 else s

/-- BLOCK_SLEEP. -/
def execBlockSleep (b : Nat) (s : State) : Out := .next (s.blockSleep b)

/-- BLOCK_DEEP_SLEEP: a gated block lowers its supply (R353). -/
def execBlockDeepSleep (b : Nat) (s : State) : Out := .next (if s.blockState b = 1 then s.setBlockState b 0 else s)

/-- BLOCK_WAKE: a timer or a barrier falls due soon (R355). -/
def execBlockWake (b : Nat) (s : State) : Out := .next (s.wakeBlock b)

/-- Frequency of a block that has woken: that of its lattice domain, else 1,250 MHz within the policy (log entry 41). -/
def State.wakeFreq (s : State) (b : Nat) : Nat :=
  match (s.domainOf b).find? fun x => x != b && s.blockState x == 3 with
  | some x => s.freq x
  | none => max s.vfBounds.1 (min 1250 s.vfBounds.2)

/-- WAKE_COMPLETE: a waking block runs (R355). -/
def State.wakeComplete (s : State) (b : Nat) : State :=
  if s.blockState b = 2 then ((s.withFreq b (s.wakeFreq b)).modBlock b fun x => { x with idle := 0, asleep := 0 }).setBlockState b 3 else s

/-- WAKE_COMPLETE. -/
def execWakeComplete (b : Nat) (s : State) : Out := .next (s.wakeComplete b)

/-! Power samples (R357). -/

/-- POWER_SAMPLE: PWR_NOW and sector powers; sequencers issue at half rate while the cap cannot be met otherwise (R357). -/
def State.powerSample (s : State) (watts : Nat) (sectors : List Nat) : State :=
  let s1 := forEach (List.range 64) (fun k s => s.withFld (sectorReg k) 29 18 (min 4095 (nth sectors k 0)))
    (s.withFld Reg.pwrNow 12 0 (min 8191 watts))
  let cap := s1.fld Reg.pwrCap 12 0
  let halved := if s.pins.issueHalved then decide (98 * cap < 100 * watts)
    else decide (cap < watts) && s1.runningBlocks.all fun b => decide (s1.freq b ≤ 625)
  s1.withPins { s1.pins with issueHalved := halved }

/-- POWER_SAMPLE. -/
def execPowerSample (watts : Nat) (sectors : List Nat) (s : State) : Out := .next (s.powerSample watts sectors)

end Sys2Proof.Machine
end

