-- ==== Sys2Proof/Machine/Determinism.lean ====
section
/-! DEFINITION. Deterministic mode (R302, R303, R305, R306) and the start barrier (R308-R310). -/

namespace Sys2Proof.Machine

/-! Deterministic mode. -/

/-- DET_STATUS.ENTERING. -/
def State.entering (s : State) : Bool := s.fld Reg.detStatus 1 1 == 1

/-- A write of DET_CTRL.EN (R303). -/
def State.detWrite (s : State) (src : Src) (en : Bool) : State :=
  if s.entering then s.refuse src Reg.detCtrl .busy
  else if en && !s.detFrozen then (s.withFld Reg.detCtrl 0 0 1).withFld Reg.detStatus 1 1 1
  else if !en && s.detFrozen then
    let s1 := ((s.withFld Reg.detCtrl 0 0 0).withFld Reg.detStatus 0 0 0).bump Reg.detExitCnt
    if s.detOn ∧ s.fld Reg.detBarrierStatus 1 1 = 1 then s1.withFld Reg.detStatus 2 2 1 else s1
  else s

/-- DET_ENTER. -/
def execDetEnter (src : Src) (s : State) : Out := .next ((s.external 1).detWrite src true)

/-- DET_EXIT. -/
def execDetExit (src : Src) (s : State) : Out := .next ((s.external 1).detWrite src false)

/-- Entry ends: every running block at 1.25 GHz, refresh at 2.00×, ACTIVE (R303). -/
def State.detActive (s : State) : State :=
  if ¬ s.entering then s
  else
    let s1 := forEach s.runningBlocks (fun b s => (s.withFreq b 1250).pin 0 b false) s
    let s2 := forEach ((List.range 12).filter s.trained) (fun k s => s.refreshAt k 0) s1
    (s2.withFld Reg.detStatus 1 1 0).withFld Reg.detStatus 0 0 1

/-- DET_ACTIVE. -/
def execDetActive (s : State) : Out := .next s.detActive

/-! The start barrier. -/

/-- ARM is legal (R308). -/
def State.armOk (s : State) : Bool :=
  let cfg := (s.reg Reg.detBarrierCfg).toNat
  let o := bits cfg 5 0
  let t := (s.reg Reg.detBarrierTime).toNat
  o != 0 && (s.commit.parts.any fun p => p.1 == o) && bits cfg 25 10 != 0 && decide (s.now + 320000 ≤ t) &&
    decide (t ≤ s.now + 160000000000)

/-- DET_BARRIER_CTRL.ARM. -/
def State.barrierArm (s : State) (src : Src) : State :=
  if s.armOk then s.withFld Reg.detBarrierStatus 0 0 1
  else (s.withFld Reg.detBarrierStatus 4 4 1).refuse src Reg.detBarrierCtrl .badValue

/-- BARRIER_ARM. -/
def execBarrierArm (src : Src) (s : State) : Out := .next ((s.external 1).barrierArm src)

/-- DET_BARRIER_CTRL.CANCEL. -/
def State.barrierCancel (s : State) : State := s.withFld Reg.detBarrierStatus 0 0 0

/-- BARRIER_CANCEL. -/
def execBarrierCancel (_src : Src) (s : State) : Out := .next (s.external 1).barrierCancel

/-- The phase reset: refresh restarts, round-robin pointers return to their first position, idle timers and DET_RUN_FCLK to zero
(R305). -/
def State.phaseReset (s : State) : State :=
  let s1 := s.withMesh (s.mesh.filterMap fun p =>
    let x := { p.2 with rr := [] }
    if x = Stop.reset then none else some (p.1, x))
  let s2 := s1.withPorts (s1.ports.filterMap fun p =>
    let x := { p.2 with rr := [] }
    if x = Port.reset then none else some (p.1, x))
  let s3 := s2.withBlocks (s2.blocks.filterMap fun p =>
    let x := { p.2 with idle := 0 }
    if x = ⟨false, 0, 0⟩ then none else some (p.1, x))
  s3.withReg Reg.detRunFclk 0

/-- Tiles of an owner that are active. -/
def State.activeTiles (s : State) (o : Nat) : List Nat :=
  (s.tiles.map (·.1)).filter fun t => s.active t && s.physOwner t == o

/-- A tile of an owner other than the barrier's has a context in a state other than idle (R306). -/
def State.foreignBusy (s : State) : Bool :=
  s.tiles.any fun p => s.active p.1 && s.physOwner p.1 != s.barrierOwner && p.2.ctxs.any fun c => c.2.st != .idle

/-- `n` FCLK of a run in which another owner is active (R306). -/
def State.countForeign (s : State) (n : Nat) : State :=
  if s.detOn && s.fld Reg.detBarrierStatus 1 1 == 1 && s.foreignBusy then (s.withFld Reg.detStatus 3 3 1).bumpBy Reg.detForeignCnt n else s

/-- The barrier releases (R309). -/
def State.released (s : State) : State :=
  let cfg := (s.reg Reg.detBarrierCfg).toNat
  let t := (s.reg Reg.detBarrierTime).toNat
  let s1 := forEach (s.activeTiles s.barrierOwner) (fun x s => s.addCounter x (bits cfg 9 6) (bits cfg 25 10)) s
  let s2 := if ¬ bit cfg 26 then s1 else if s.detOn then s1.phaseReset else s1.withFld Reg.detStatus 2 2 1
  let s3 := if s.inStep then s2 else s2.withFld Reg.detStatus 4 4 1
  (((s3.withReg Reg.detD0 (BitVec.ofNat 64 (max s.now t))).withFld Reg.detBarrierStatus 0 0 0).barrierEvent 1).countForeign 1

/-- The release time comes: an armed barrier releases, or is cancelled by the latch lead of a commit that includes its owner (R310). -/
def State.barrierRelease (s : State) : State :=
  if ¬ s.barrierArmed then s
  else if s.commit.lead.any fun o => o == 64 || o == s.barrierOwner then s.barrierDropped
  else s.released

/-- BARRIER_RELEASE. -/
def execBarrierRelease (s : State) : Out := .next s.barrierRelease

end Sys2Proof.Machine
end

