-- ==== Sys2Proof/Machine/Memory.lean ====
section
/-! DEFINITION. HBM controllers (R317, R325, R327, R328, R340) and the window side of the check-value units (R333-R336). -/

namespace Sys2Proof.Machine

/-! Training (R317, R364). -/

/-- STR_DIE_INFO.HBM_PRESENT of a stack's die. -/
def State.withPresent (s : State) (k : Nat) : State := s.withFld (memReg k Reg.strDieInfo) 18 18 1

/-- A stack trains or fails to. -/
def State.hbmTrained (s : State) (k : Nat) (passed : Bool) : State :=
  if 12 ≤ k ∨ ¬ s.pins.pwrGood ∨ s.trained k then s
  else if passed then
    let a := memReg k Reg.memStatus
    (((((s.withFld a 0 0 1).withFld a 10 1 fullUnits).withPresent k).modCtrl k fun c => { c with failed := false })).refreshAt k
      (s.fld a 21 14)
  else s.modCtrl k fun c => { c with failed := true }

/-- HBM_TRAINED. -/
def execHbmTrained (k : Nat) (passed : Bool) (s : State) : Out := .next (s.hbmTrained k passed)

/-! Accesses that a controller executes (R325-R327). -/

/-- A correctable error that a controller meets. -/
def State.hbmCorrected (s : State) (k : Nat) : State := (s.bump (memReg k Reg.memEccCorrCnt)).eccCorrected (stackDie k)

/-- What an upset does to a stack's storage. -/
def State.hbmUpset (s : State) (k : Nat) (u : Upset) : State :=
  match u with
  | .corrected => s.hbmCorrected k
  | .hbm a => if devStack a = k then s.hbmBreak k (devOff a / 64) else s
  | _ => s

/-- A 64-bit atomic: the old word, and the write unless its block is uncorrectable (R291, R327). -/
def State.hbmAtomic (s : State) (k off : Nat) (f : Nat → Nat) : State × Bytes × Bool :=
  let r := s.hbmRead k off 8 false 0
  if r.2.2 then r else ((r.1.hbmWrite k off (natLe 8 (f (leNat r.2.1)))).1, r.2.1, false)

/-- Bytes an access touches. -/
def opLength : HbmOp → Nat
  | .read n _ => n
  | .write d => d.length
  | _ => 8

/-- An access of a trained stack within its capacity; one to a pseudo-channel under repair waits (R340). -/
def State.hbmAccess (s : State) (k off : Nat) (op : HbmOp) (u : Upset) : State :=
  if ¬ s.trained k ∨ s.capBytes k < off + opLength op ∨ s.hbmHeld k off (opLength op) then s
  else
    let s0 := s.hbmUpset k u
    match op with
    | .read n spec => let r := s0.hbmRead k off n spec (if spec then 2 else 0); r.1.emit (.hbmReply k r.2.1 r.2.2)
    | .write d => (s0.hbmWrite k off d).1
    | .fetchAdd v => let r := s0.hbmAtomic k off (fun x => (x + v) % 2 ^ 64); r.1.emit (.hbmReply k r.2.1 r.2.2)
    | .cas a b => let r := s0.hbmAtomic k off (fun x => if x = a then b % 2 ^ 64 else x); r.1.emit (.hbmReply k r.2.1 r.2.2)

/-- HBM_ACCESS. -/
def execHbmAccess (k : Nat) (off : Nat) (op : HbmOp) (upset : Upset) (s : State) : Out := .next (s.hbmAccess k off op upset)

/-- A row repair ends: accesses go on, with a notice record (R340). -/
def State.hbmRowRepaired (s : State) (k : Nat) : State :=
  match (s.ctrl k).repair with
  | none => s
  | some p => (s.modCtrl k fun c => { c with repair := none }).raiseFault (Unit6.ofDie (stackDie k)) 0x1A 0 false 15 p

/-- HBM_ROW_REPAIRED. -/
def execHbmRowRepaired (k : Nat) (s : State) : Out := .next (if k < 12 then s.hbmRowRepaired k else s)

/-- Patrol reads the next block of a stack and wraps at its end (R328). -/
def State.patrolRead (s : State) (k : Nat) (u : Upset) : State :=
  let b := (s.ctrl k).patrolAt
  if ¬ s.trained k ∨ (s.ctrl k).selfRefresh ∨ s.fld (memReg k Reg.memPatrol) 15 0 = 0 ∨ s.hbmHeld k (64 * b) 64 then s
  else
    let s0 := s.hbmUpset k u
    let s1 := if s0.blockBad k b then s0.hbmUncorr k b 1 else s0
    let last := s1.capBytes k ≤ 64 * (b + 1)
    let s2 := s1.modCtrl k fun c => { c with patrolAt := if last then 0 else b + 1 }
    if last then s2.bump (memReg k Reg.memPatrolPassCnt) else s2

/-- PATROL_READ. -/
def execPatrolRead (k : Nat) (upset : Upset) (s : State) : Out := .next (s.patrolRead k upset)

/-! Check-value units (R333-R336). -/

/-- A unit exists. -/
def chkUnit (u : Nat) : Bool := decide (u < 256)

/-- Values of CHK_CTRL that R336 rejects. -/
def chkCtrlOk (u v : Nat) : Bool := (bit v 4 == decide (64 ≤ u)) && bits v 31 16 != 0

/-- ARM zeroes the CRC, the counts and the alive baseline (R336). -/
def State.chkArm (s : State) (u : Nat) : State := (s.withChk u ⟨[], 0, 0, none⟩).withFld (chkStatusA u) 0 0 1

/-- Bytes of a unit's window. -/
def State.chkLen (s : State) (u : Nat) : Nat := 64 * s.fld (chkWinLenA u) 18 0

/-- CLOSE ends the window block in progress: its length counts as written (R333). -/
def State.chkClose (s : State) (u : Nat) : State :=
  if 64 ≤ u ∧ s.chkActive u then s.modChk u fun c => { c with written := max c.written (s.chkLen u) } else s

/-- A write of CHK_CTRL: the configuration only while EN is 0, then ARM and CLOSE (R336). -/
def State.chkCtrlWrite (s : State) (src : Src) (u v : Nat) : State :=
  let a := chkCtrlA u
  let old := (s.reg a).toNat
  if bit old 0 ∧ bits old 31 3 ≠ bits v 31 3 then s.refuse src a .busy
  else if ¬ chkCtrlOk u v then s.refuse src a .badValue
  else
    let s1 := s.store a v
    let s2 := if bit v 1 then s1.chkArm u else s1
    if bit v 2 then s2.chkClose u else s2

/-- CHK_ARM. -/
def execChkArm (src : Src) (unit : Nat) (value : Nat) (s : State) : Out :=
  .next (if chkUnit unit then (s.external 1).chkCtrlWrite src unit (value ||| 2) else s)

/-- CHK_CLOSE. -/
def execChkClose (src : Src) (unit : Nat) (value : Nat) (s : State) : Out :=
  .next (if chkUnit unit then (s.external 1).chkCtrlWrite src unit (value ||| 4) else s)

/-- The alive test of a window block: one counter in the window; too short a window sets SHORT (R334). -/
def State.chkWindowAlive (s : State) (u : Nat) (b : Bytes) : State :=
  let ctl := (s.reg (chkCtrlA u)).toNat
  let ofs := bits ctl 15 8
  if ¬ bit ctl 6 then s
  else if b.length < ofs + 1 then s.withFld (chkStatusA u) 5 5 1
  else (s.chkAlive u (nth b ofs 0).toNat).1

/-- A window block ends: the range is read back and compared; an uncorrectable block ends it without a comparison (R333, R335). -/
def State.chkWindowEnd (s : State) (u : Nat) (x : Upset) : State :=
  let w := (s.reg (chkWinA u)).toNat
  let len := s.chkLen u
  if ¬ s.chkActive u ∨ len = 0 ∨ (s.chk u).written < len then s
  else
    let s1 := (s.modChk u fun c => { c with written := c.written - len }).hbmUpset ((u - 64) / 16) x
    match s1.ownerPieces (bits w 45 40) (bits w 39 0) len with
    | none => s1.bump (chkReg u Reg.chkBlockCntP Reg.chkBlockCnt)
    | some ps =>
      let r := s1.readPieces ps false 3
      if r.2.2 then (r.1.withFld (chkStatusA u) 6 6 1).bump (chkReg u Reg.chkBlockCntP Reg.chkBlockCnt)
      else (r.1.chkWindowAlive u r.2.1).chkCompare u r.2.1

/-- CHK_BLOCK_END (R335). -/
def execChkBlockEnd (unit : Nat) (upset : Upset) (s : State) : Out :=
  .next (if ¬ chkUnit unit then s
    else if unit < 64 then (if s.chkActive unit then s.chkFlowEnd unit else s) else s.chkWindowEnd unit upset)

end Sys2Proof.Machine
end

