-- ==== Sys2Proof/Machine/Resets.lean ====
section
/-! DEFINITION. Resets (R345, R346), permanent faults of blocks, sectors, dies and spares (R339, R343), and the fault queue (R342). -/

namespace Sys2Proof.Machine

/-! What each scope clears (Table 15-5). -/

/-- A tile reset: role, owner, schedule, memory and counters stay (log entry 42). -/
def Tile.cleaned (x : Tile) : Tile :=
  { x.cleared with
    handler := none, exc0 := 0, exc1 := 0, exc2 := 0, cntSel := 0, cvtStatus := 0, mtxStatus := 0, vecFlags := 0, rowSplit := 4, mtxGang := 0 }

/-- A tile after a reset of its die: retirement and the counters that only a package reset clears stay. -/
def Tile.dieReset (x : Tile) : Tile :=
  { Tile.reset with
    idState := if x.lost then 3 else 0, lost := x.lost, sliceEvt := x.sliceEvt, residueAt := x.residueAt, counts := x.counts,
    reqNext := x.reqNext }

/-- Physical tiles of a block. -/
def blockPhys (b : Nat) : List Nat :=
  (List.range 72).map fun i => b / 32 * 2304 + (b % 32 / 8 * 8 + i / 9) * 72 + b % 8 * 9 + i % 9

/-- Stops that a scope covers. -/
def scopeStops : Scope → List Nat
  | .block b => [b]
  | .sector k => sectorBlocks k
  | .die d => dieStops d
  | _ => []

/-- Offsets of a die's registers that a die reset keeps: identity and epoch, the fault counts, the link state and fabric time of the keep
domain, sensors, and counters that only a package reset clears (Table 15-5, R307, R346, R392). -/
def keptReg (d off : Nat) : Bool :=
  off == 0 || off == 8 || (decide (0xA000 ≤ off) && decide (off < 0xA018)) ||
    if d < 16 then off == 0x4000 || (decide (0x2200 ≤ off) && decide (off < 0x2220))
    else
      off == 0x1000 || (decide (0x3000 ≤ off) && decide (off < 0x3020)) || (decide (0x10000 ≤ off) && decide (off < 0x12000) && off % 256 == 0) ||
        (decide (0x30000 ≤ off) && decide (off < 0x31000) && off % 32 == 0) || (d == 16 && decide (0x2000 ≤ off) && decide (off < 0x2038)) ||
        off == 0x180000 || (decide (0x300000 ≤ off) && decide (off < 0x312000))

/-- Bytes of a die's register range. -/
def dieSpan (d : Nat) : Nat := if d < 16 then 0x100000 else 0x400000

/-- Registers of a die return to their reset values. -/
def State.resetRegs (s : State) (d : Nat) : State :=
  s.withRegs (s.regs.filter fun p => !(decide (dieBase d ≤ p.1) && decide (p.1 < dieBase d + dieSpan d)) || keptReg d (p.1 - dieBase d))

/-- A controller keeps its stack's contents in self-refresh, with its retirements (Table 15-5). -/
def Ctrl.dieReset (c : Ctrl) : Ctrl := { c with repair := none, patrolAt := 0, punnets := [], dirty := [], selfRefresh := true }

/-- All other state of a tile die. -/
def State.clearTileDie (s : State) (d : Nat) : State :=
  let s1 := forEach (List.range 2304) (fun q s => s.modTile (2304 * d + q) Tile.dieReset) s
  let s2 := match dieStack d with
    | some k => forEach ((List.range 16).map fun i => 64 + 16 * k + i) (fun u s => s.withChk u ⟨[], 0, 0, none⟩) (s1.modCtrl k Ctrl.dieReset)
    | none => s1
  forEach ((List.range 32).map (32 * d + ·)) (fun b s => s.modBlock b fun x => { x with idle := 0, asleep := 0 }) s2

/-- All other state of a port die: every port retrains, and queued frames are lost and counted. -/
def State.clearPortDie (s : State) (n : Nat) : State :=
  let s1 := (s.dropStored n).withPdie n PDie.reset
  let s2 := forEach ((List.range 16).map (16 * n + ·)) (fun u s => s.withChk u ⟨[], 0, 0, none⟩) s1
  forEach (diePorts n) (fun e s =>
    let gone := s.linkState e == 5
    let s3 := s.withPort e Port.reset
    if gone then s3 else s3.withReg (portReg e Reg.lnkPortStatus) (if s3.portOn e then 1 else 0)) s2

/-- A die reset: the die comes up unstructured and fenced; a staged pair is lost (R345, R346). A port die keeps its link records, since
retired lanes and ports stay (log entry 42). -/
def State.clearDie (s : State) (d : Nat) : State :=
  let missed := s.committing && s.commit.dies.contains d
  let s1 := (s.resetRegs d).modDie d fun x => { x with
    active := if d < 16 then [] else x.active.take 0x240, check := [], staged := none, structured := false, fenced := true, missed := missed }
  let s2 := if d < 16 then s1.clearTileDie d else s1.clearPortDie (d - 16)
  s2.withTraceUnit d ⟨[], false, false, false⟩

/-! Requests (R345). -/

/-- A scope lies in another. -/
def State.inside (s : State) (a b : Scope) : Bool :=
  a == b ||
  match a, b with
  | .tile t, _ => s.covers t b
  | .block k, .sector x => blockSector k == x
  | .block k, .die d => k / 32 == d
  | .sector x, .die d => x / 4 == d
  | _, _ => false

/-- Blocks that a reset wakes (R355). -/
def State.scopeBlocks (s : State) : Scope → List Nat
  | .tile t => [physBlock t]
  | .block b => [b]
  | .sector k => sectorBlocks k
  | .die _ => []
  | .partition o => (List.range 512).filter fun b => (blockTiles b).any fun l => s.tileOwner l == o

/-- Physical tiles that a scope below a die resets. -/
def State.scopeTiles (s : State) : Scope → List Nat
  | .tile t => [t]
  | .block b => blockPhys b
  | .sector k => (sectorBlocks k).flatMap blockPhys
  | .die _ => []
  | .partition o => s.activeTiles o

/-- State that a scope clears at once (Table 15-5). -/
def State.clearScope (s : State) (x : Scope) : State :=
  let s1 := forEach (s.scopeTiles x) (fun t s => s.modTile t Tile.cleaned) s
  match x with
  | .die d => (s1.clearDie d).modDie d fun y => { y with inReset := true }
  | .sector k => (s1.withFld (sectorReg k) 16 16 0).withFld (sectorReg k) 29 17 0
  | .partition o => forEach (List.range 256) (fun e s => if s.groupOn e && (s.group e).owner == o then s.abortAll e 0x56 else s) s1
  | _ => s1

/-- Physical tiles of a die. -/
def diePhys (d : Nat) : List Nat := if d < 16 then (List.range 2304).map (2304 * d + ·) else []

/-- A reset begins: it aborts a commit in PREPARE, stops the gangs of the tiles it covers, and one inside a wider reset is absorbed (R105,
R345, R346). -/
def State.beginReset (s : State) (x : Scope) : State :=
  if s.faults.resets.any (s.inside x) then s
  else
    let s1 := if s.preparing then s.commitAbort 0x22 else s
    let lost := match x with | .die d => diePhys d | _ => s1.scopeTiles x
    let s2 := (forEach (s1.scopeBlocks x) (fun b s => s.wakeBlock b) (s1.stopGangs lost)).clearScope x
    forEach (scopeStops x) (fun k s => s.closeStop k) (s2.withFaults { s2.faults with resets := s2.faults.resets ++ [x] })

/-- Scope of a unit of level L2 to L5. -/
def State.unitScope (s : State) (u : Unit6) : Option Scope :=
  match u.level with
  | 2 => some (.tile (s.phys u.logical))
  | 3 => some (.block u.blockOf)
  | 4 => some (.sector (4 * u.die + u.sector))
  | 5 => some (.die u.die)
  | _ => none

/-- A write of FLT_RESET_REQ (R345). -/
def State.resetWrite (s : State) (src : Src) (w : Nat) : State :=
  match s.parseUnit w with
  | none => (s.bump Reg.porBadUnitCnt).refuse src Reg.fltResetReq .badValue
  | some u =>
    match s.unitScope u with
    | none => s.refuse src Reg.fltResetReq .badValue
    | some x => s.beginReset x

/-- TILE_RESET. -/
def execTileReset (src : Src) (unit : Nat) (s : State) : Out := .next ((s.external 1).resetWrite src unit)
/-- BLOCK_RESET. -/
def execBlockReset (src : Src) (unit : Nat) (s : State) : Out := .next ((s.external 1).resetWrite src unit)
/-- SECTOR_RESET. -/
def execSectorReset (src : Src) (unit : Nat) (s : State) : Out := .next ((s.external 1).resetWrite src unit)
/-- DIE_RESET. -/
def execDieReset (src : Src) (unit : Nat) (s : State) : Out := .next ((s.external 1).resetWrite src unit)

/-- A write of FLT_PART_RESET (R345). -/
def State.partitionReset (s : State) (src : Src) (o : Nat) : State :=
  if s.commit.parts.any fun p => p.1 == o then s.beginReset (.partition o) else s.refuse src Reg.fltPartReset .badValue

/-- PARTITION_RESET. -/
def execPartitionReset (src : Src) (owner : Nat) (s : State) : Out := .next ((s.external 1).partitionReset src (owner % 64))

/-- A reset ends after its duration: its stops open, and a die leaves reset and self-refresh. -/
def State.endReset (s : State) (x : Scope) : State :=
  if ¬ s.faults.resets.contains x then s
  else
    let s1 := s.withFaults { s.faults with resets := s.faults.resets.erase x }
    let s2 := match x with
      | .die d =>
        let s3 := s1.modDie d fun y => { y with inReset := false }
        (match dieStack d with
        | some k => s3.modCtrl k fun c => { c with selfRefresh := s3.fld Reg.pwrState 2 0 == 1 }
        | none => s3)
      | _ => s1
    forEach (scopeStops x) (fun k s => s.openStop k) s2

/-- RESET_COMPLETE. -/
def execResetComplete (scope : Scope) (s : State) : Out := .next (s.endReset scope)

/-! The fault queue (R342). -/

/-- FLT_REC_CTRL.POP. -/
def State.pop (s : State) (src : Src) : State :=
  match s.faults.queue with
  | [] => s.refuse src Reg.fltRecCtrl .badValue
  | _ :: q => s.withFaults { s.faults with queue := q }

/-- POP. -/
def execPop (src : Src) (s : State) : Out := .next ((s.external 1).pop src)

/-! Permanent faults (R339, R343). -/

/-- A block is fenced: its clock stops, its stop is isolated and its gangs stop. -/
def State.fenceBlock (s : State) (b : Nat) : State :=
  if 512 ≤ b ∨ (s.block b).fenced then s
  else
    let s1 := (s.modBlock b fun x => { x with fenced := true }).withFld (clkBlockA b) 12 0 0
    ((s1.closeStop b).stopGangs (blockPhys b)).raiseFault (Unit6.ofBlock b) 0x09 2 true 15 0

/-- BLOCK_FENCED. -/
def execBlockFenced (block : Nat) (s : State) : Out := .next (s.fenceBlock block)

/-- A sector is gated: its blocks lose their clock, their stops are isolated, and their gangs stop. -/
def State.gateSector (s : State) (k : Nat) : State :=
  if 64 ≤ k ∨ s.fld (sectorReg k) 16 16 = 1 then s
  else
    let s1 := s.withFld (sectorReg k) 16 16 1
    (forEach (sectorBlocks k) (fun b s => ((s.withFld (clkBlockA b) 12 0 0).closeStop b).stopGangs (blockPhys b)) s1).raiseFault
      (Unit6.ofSector k) 0x0A 2 true 15 0

/-- SECTOR_GATED. -/
def execSectorGated (sector : Nat) (s : State) : Out := .next (s.gateSector sector)

/-- A die is fenced for a die-to-die link: it drives no lattice link, its stops are isolated, and its gangs stop. -/
def State.cutDie (s : State) (d : Nat) : State :=
  if 20 ≤ d ∨ (s.die d).cut then s
  else
    let s1 := s.modDie d fun x => { x with cut := true }
    ((s1.closeDie d).stopGangs (diePhys d)).raiseFault (Unit6.ofDie d) 0x0B 2 true 15 0

/-- DIE_FENCED. -/
def execDieFenced (die : Nat) (s : State) : Out := .next (s.cutDie die)

/-- The spare of a segment (row × 8 + segment) fails: it is never offered (R343). Where it serves a logical tile, that tile is retired
with it and the record names it; the record of an idle spare names the lowest logical tile of its segment (R15; log entry 65). -/
def State.spareLost (s : State) (d j : Nat) : State :=
  let t := 2304 * d + 9 * j + 8
  let x := s.tile t
  if 16 ≤ d ∨ 256 ≤ j ∨ x.lost then s
  else
    let s1 := s.modTile t fun y => { y with idState := 3, lost := true, slots := [] }
    let l := s.logicalOf t
    let s2 := if x.idState = 1 then ((s1.gangLost l).endAll t).reducerLost l else s1
    s2.raiseFault (Unit6.ofTile (if x.idState = 1 then l else segFirst t)) 0x0D 1 true 15 0

/-- SPARE_LOST. -/
def execSpareLost (die segment : Nat) (s : State) : Out := .next (s.spareLost die segment)

end Sys2Proof.Machine
end

