-- ==== Sys2Proof/Machine/Startup.lean ====
section
/-! DEFINITION. Straps, start-up and boot (R350, R361-R365, R385, R402, R407, R415). -/

namespace Sys2Proof.Machine

/-! Reset of the package (R402, R407). -/

/-- The package enters reset: everything returns to its reset value but what has left the package, fuses, lands and the TAP. -/
def State.packageReset (s : State) : State :=
  { State.reset with
    pending := s.pending, out := s.out, clk := { State.reset.clk with fresh := s.clk.fresh },
    pins := { State.reset.pins with resetN := s.pins.resetN, vauxOk := s.pins.vauxOk, perstN := s.pins.perstN },
    porter := { State.reset.porter with keys := s.porter.keys }, tap := s.tap }

/-- PKG_RESET_N is low for `ns`: ignored below 1 µs; from 10 µs on the package is reset and stays so until the land goes high; in between,
either (R407). -/
def State.resetPulse (s : State) (ns : Nat) : State :=
  let hit := if ns < 1000 then false else if 10000 ≤ ns then true else bit s.freeNow.toNat 0
  let s1 := if 1000 ≤ ns ∧ ns < 10000 then s.useFree else s
  if hit then (s1.withPins { s1.pins with resetN := false }).packageReset else s1

/-- PACKAGE_RESET. -/
def execPackageReset (ns : Nat) (s : State) : Out := .next (s.resetPulse ns)

/-- Straps in the order of Table 17-11; a land that is not stable reads an undefined value (R406). -/
def State.strapsRead (s : State) (lands unstable : Nat) : Nat :=
  ((lands &&& (2 ^ 26 - 1 - unstable % 2 ^ 26)) ||| (s.freeNow.toNat &&& unstable)) % 2 ^ 26

/-- STR_IMAGE_SRC.KIND of STRAP_BOOT (Table 16-3). -/
def bootKind (b : Nat) : Nat := nth [2, 0, 3, 0] b 0

/-- The device leaves reset: straps set their defaults and phase KEEP_UP begins (R349, R361, R365). -/
def State.leaveReset (s : State) (lands unstable : Nat) : State :=
  let w := s.strapsRead lands unstable
  let ref := bits w 23 22
  let s1 := if unstable % 2 ^ 26 = 0 then s else s.useFree
  let s2 := (s1.withPins { s1.pins with pkgReset := false, straps := w }).withReg Reg.porStraps (BitVec.ofNat 64 w)
  let s3 := (s2.withFld Reg.strImageSrc 1 0 (bootKind (bits w 15 14))).withFld Reg.clkStatus 5 3 ((if ref < 2 then ref else 0) + b2n (2 ≤ ref) <<< 2)
  let s4 := forEach (List.range 4) (fun n s => s.withFld (pdReg n Reg.lnkDieMode) 0 0 (bits w (16 + n) (16 + n))) s3
  let s5 := if bit w 21 then (s4.withFld Reg.detCtrl 0 0 1).withFld Reg.detStatus 1 1 1 else s4
  s5.withFld Reg.pwrSeqStatus 3 0 1

/-- PKG_RESET_N goes high. While VAUX is low the device stays in reset (R365). -/
def State.resetHigh (s : State) (lands unstable : Nat) : State :=
  let s1 := s.withPins { s.pins with resetN := true }
  if s.pins.pkgReset ∧ s.pins.vauxOk then s1.leaveReset lands unstable else s1

/-- PKG_RESET_DEASSERT. -/
def execPkgResetDeassert (lands unstable : Nat) (s : State) : Out := .next (s.resetHigh lands unstable)

/-- VAUX_LOW: the regulators stop, and the package resets (R402). -/
def execVauxLow (s : State) : Out := .next (s.withPins { s.pins with vauxOk := false }).packageReset

/-- VAUX has been back for 1 ms: taken as the deassertion of PKG_RESET_N where that is high (R365). -/
def State.vauxBack (s : State) (lands unstable : Nat) : State :=
  let s1 := s.withPins { s.pins with vauxOk := true }
  if ¬ s.pins.vauxOk ∧ s.pins.resetN ∧ s.pins.pkgReset then s1.leaveReset lands unstable else s1

/-- VAUX_RESTORED. -/
def execVauxRestored (lands unstable : Nat) (s : State) : Out := .next (s.vauxBack lands unstable)

/-! Reference and keep clock (R350). -/

/-- CLK_STATUS.KEEP_LOCK. -/
def State.keepLocked (s : State) : Bool := s.fld Reg.clkStatus 0 0 == 1

/-- KEEP_LOCK: the keep PLL locks and fabric time counts from 0 (Table 16-5). -/
def execKeepLock (s : State) : Out :=
  .next (if s.seqPhase = 1 then ((s.withFld Reg.clkStatus 1 0 3).withClk { s.clk with ftm := 0, frac := 0, kclk := 0 }).withFld
    Reg.pwrSeqStatus 3 0 2 else s)

/-- REF_LOST: holdover, once the PLL has locked. -/
def execRefLost (s : State) : Out :=
  .next (if s.keepLocked then (s.withFld Reg.clkStatus 2 1 2).powerEvent 1 else s.withFld Reg.clkStatus 1 1 0)

/-- REFCLK_RETURN. -/
def execRefclkReturn (s : State) : Out := .next (s.withFld Reg.clkStatus 2 1 1)

/-! Start-up (R365, Table 16-4). -/

/-- PORTER_RUNNING. -/
def execPorterRunning (s : State) : Out := .next (if s.seqPhase = 2 then s.withFld Reg.pwrSeqStatus 3 0 3 else s)

/-- REGULATOR_ENABLE: never after a trip without a package reset (R366). -/
def execRegulatorEnable (s : State) : Out :=
  .next (if s.seqPhase = 3 ∧ ¬ s.pins.thermTrip then s.withPins { s.pins with regulators := true } else s)

/-- PWR_GOOD rises: RUN, and default ports begin to train (R351, R362, R365). -/
def State.powerGood (s : State) : State :=
  if s.seqPhase = 3 ∧ s.pins.regulators then
    let s1 := ((s.withPins { s.pins with pwrGood := true, goodAt := s.clk.kclk }).withFld Reg.pwrSeqStatus 3 0 4).withFld Reg.pwrState 2 0 2
    forEach (List.range 4) (fun n s => s.startPorts n) s1
  else s

/-- PWR_GOOD. -/
def execPwrGood (s : State) : Out := .next s.powerGood

/-- PCIE_PERST_DEASSERT: the land is held as the rule says; what the host link does then is PCIe's (R365). -/
def execPciePerstDeassert (s : State) : Out := .next (s.withPins { s.pins with perstN := true })

/-! Boot (R363). -/

/-- A boot ends without a commit. -/
def State.bootEnds (s : State) (code : Nat) : State := (s.withFld Reg.pwrSeqStatus 3 0 5).bootFails code

/-- The boot's image has a header: its length is set and the commit starts. -/
def State.bootCommit (s : State) (header : Bytes) : State :=
  ((s.withReg Reg.strImageLen (BitVec.ofNat 64 (imgLen header))).withReg Reg.strLatchTime 0).commitStarts

/-- A neighbour that was asked serves its image, and PORT shows the port used. -/
def State.bootServed (s : State) (e : Nat) (header : Bytes) : State := (s.withFld Reg.strImageSrc 8 2 e).bootCommit header

/-- The boot action of STRAP_BOOT, where no commit has come first. -/
def State.bootAction (s : State) (header : Bytes) : State :=
  let w := s.pins.straps
  let auto (s : State) : State :=
    (s.withPins { s.pins with autoBoot := true, bootPort := none, bootRefused := [] }).withFld Reg.pwrSeqStatus 3 0 5
  let hold := s.withFld Reg.pwrSeqStatus 3 0 7
  match bits w 15 14 with
  | 0 => ((auto s).withReg Reg.strImageAddr 0).bootCommit header
  | 1 => if bits w 25 24 = 3 then hold.powerEvent 4 else hold
  | 2 =>
    let src := (s.reg Reg.strImageSrc).toNat
    if ¬ bit src 9 ∧ ¬ s.fabricMode (bits src 8 7) then (auto s).bootEnds 1 else (auto s).bootScan
  | _ => hold

/-- Every stack has trained, or has failed to (Table 16-4). -/
def State.trainOver (s : State) : Bool := (List.range 12).all fun k => s.trained k || (s.ctrl k).failed

/-- BOOT: phase TRAIN ends and the boot action begins; while a boot asks a neighbour, the header that the neighbour serves (R363). -/
def State.boot (s : State) (header : Bytes) : State :=
  if s.seqPhase = 4 ∧ s.trainOver then
    if s.committing then s.withFld Reg.pwrSeqStatus 3 0 5
    else if (s.die 0).structured then s.withFld Reg.pwrSeqStatus 3 0 6
    else s.bootAction header
  else if s.pins.autoBoot ∧ ¬ s.committing ∧ ¬ header.isEmpty then
    match s.pins.bootPort with
    | some e => s.bootServed e header
    | none => s
  else s

/-- BOOT. -/
def execBoot (header : Bytes) (s : State) : Out := .next (s.boot header)

/-- BOOT_TIMEOUT: no image has arrived (R363). -/
def execBootTimeout (s : State) : Out :=
  .next (if ¬ s.pins.autoBoot ∨ bits s.pins.straps 15 14 ≠ 2 then s
    else if s.phase = 1 then s.commitFails 1 (0, 0)
    else if s.committing then s
    else s.bootEnds 1)

/-- A neighbour refuses: the boot fails on a named port, or goes on to the next (R363). -/
def State.bootRefusal (s : State) (e : Nat) : State :=
  if ¬ s.pins.autoBoot ∨ s.committing ∨ s.pins.bootPort ≠ some e then s
  else if s.fld Reg.strImageSrc 9 9 = 0 then s.bootEnds 1
  else (s.withPins { s.pins with bootPort := none, bootRefused := s.pins.bootRefused ++ [e] }).bootScan

/-- IMAGE_SERVE_REFUSAL. -/
def execImageServeRefusal (p : Nat) (s : State) : Out := .next (s.bootRefusal p)

/-- The active image of a reservation's stack, where it is a signed package-scope image (R48, R61, R385). -/
def State.retainedImage (s : State) (k : Nat) : State × Option Bytes :=
  let off := slotOff s.activeSlot
  let head := s.hbmRead k off 4096 false 0
  if ¬ s.trained k ∨ head.2.2 ∨ s.fld Reg.strActiveSlot 1 1 = 1 then (s, none)
  else if ¬ headerOk head.2.1 (imgLen head.2.1) ∨ imgScope head.2.1 ≠ 0 ∨ imgComposite head.2.1 then (s, none)
  else
    let r := head.1.hbmRead k off (imgLen head.2.1) false 0
    (r.1, if r.2.2 then none else some r.2.1)

/-- A booting neighbour asks on a port: the image is served where the port die permits it, from M0 or its mirror M6 (R385). -/
def State.imageServe (s : State) (e : Nat) : State :=
  if ¬ bit (s.reg Reg.porImageServe).toNat (e / 32) then s.emit (.imageServe e none)
  else
    match s.retainedImage 0 with
    | (s1, some b) => s1.emit (.imageServe e (some b))
    | (s1, none) =>
      let r := s1.retainedImage 6
      r.1.emit (.imageServe e r.2)

/-- IMAGE_SERVE_REQUEST. -/
def execImageServeRequest (p : Nat) (s : State) : Out := .next (s.imageServe p)

end Sys2Proof.Machine
end

