-- ==== Sys2Proof/Machine/Power.lean ====
section
/-! DEFINITION. Power states (R359), loss of power (R360), thermal sensing and trip (R366, R369). -/

namespace Sys2Proof.Machine

/-! Loss of VIN48 (R360). -/

/-- A stack without power: contents and training are lost, retired pseudo-channels and repaired rows stay. -/
def Ctrl.powerLost (c : Ctrl) : Ctrl := { Ctrl.reset with pchEvt := c.pchEvt, pchDead := c.pchDead, repaired := c.repaired }

/-- Messages in the mesh are lost; stops that a fence keeps closed stay closed. -/
def State.meshLost (s : State) : State :=
  s.withMesh ((s.mesh.filter fun p => p.2.isolated).map fun p => (p.1, { Stop.reset with isolated := true }))

/-- Every regulator stops: STANDBY, a die reset of every die, HBM lost, and start-up waits in phase POWER (R360, R415). -/
def State.powerLost (s : State) : State :=
  let s1 := if s.preparing then s.commitAbort 0x22 else s
  let s2 := ((s1.withPins { s1.pins with pwrGood := false, regulators := false }).withFld Reg.pwrState 2 0 0).withFld Reg.pwrSeqStatus 3 0 3
  let s3 := (forEach (List.range 20) (fun d s => s.clearDie d) s2).meshLost
  let s4 := forEach (List.range 12) (fun k s => (s.modCtrl k Ctrl.powerLost).withFld (memReg k Reg.memStatus) 13 0 0) s3
  forEach (List.range 128) (fun e s => if s.linkState e = 5 then s else s.withReg (portReg e Reg.lnkPortStatus) 0) s4

/-- VIN_LOW: VIN48 falls while the regulators run. -/
def execVinLow (s : State) : Out := .next (if s.pins.regulators then (s.powerEvent 2).powerLost else s)

/-- REG_FAULT: a regulator fault that gating a sector cannot contain. -/
def execRegFault (s : State) : Out := .next (if s.pins.regulators then (s.powerEvent 3).powerLost else s)

/-! KEEP and RUN (R359). -/

/-- What refuses KEEP. -/
def State.keepBusy (s : State) : Bool :=
  (s.tiles.any fun t => t.2.ctxs.any fun c => c.2.st != .idle) || (s.groups.any fun g => !g.2.insts.isEmpty) || s.committing ||
    ((List.range 4).any fun n => s.fld (pdReg n Reg.rteStatus) 0 0 == 1) || s.barrierArmed

/-- A port goes down with its power: its link forgets all but statistics and buckets. -/
def Port.down (p : Port) : Port := { Port.reset with frameNo := p.frameNo, tokens := p.tokens, obs := p.obs, sampled := p.sampled }

/-- Frames still queued at a port die are discarded, counted at their ingress port, and its ports go down. -/
def State.portsDown (s : State) (n : Nat) : State :=
  let s1 := forEach (s.storedFrames n) (fun q s => if q.ingress < 128 then s.bump (portReg q.ingress Reg.swiDropCnt) else s) (s.emptyStored n)
  forEach (diePorts n) (fun e s =>
    if s.linkState e = 5 then s else (s.modPort e Port.down).withFld (portReg e Reg.lnkPortStatus) 2 0 0) s1

/-- Entry to KEEP: ports down, HBM in self-refresh, blocks at retention. -/
def State.enterKeep (s : State) : State :=
  let s1 := forEach (List.range 4) (fun n s => s.portsDown n) s
  let s2 := forEach (List.range 12) (fun k s => s.modCtrl k fun c => { c with selfRefresh := true }) s1
  let s3 := forEach (List.range 512) (fun b s => if s.blockState b = 0 then s else (s.withFreq b 0).setBlockState b 0) s2
  s3.withFld Reg.pwrState 2 0 1

/-- Return to RUN: HBM leaves self-refresh and every enabled port trains. -/
def State.enterRun (s : State) : State :=
  let s1 := (forEach (List.range 12) (fun k s => if (s.die (stackDie k)).inReset then s else s.modCtrl k fun c => { c with selfRefresh := false })
    s).withFld Reg.pwrState 2 0 2
  forEach (List.range 128) (fun e s => if s.portOn e && s.linkState e != 5 then (s.withLinkState e 1).advertise e else s) s1

/-- A write of PWR_STATE.REQ (R359). -/
def State.powerRequest (s : State) (src : Src) (req : Nat) : State :=
  let st := s.fld Reg.pwrState 2 0
  if req = 0 ∨ req = 3 then s.refuse src Reg.pwrState .badValue
  else if st = 0 then s.refuse src Reg.pwrState .busy
  else if st = req then s
  else if req = 2 then s.enterRun
  else if s.keepBusy then s.refuse src Reg.pwrState .busy
  else s.enterKeep

/-- KEEP_REQUEST. -/
def execKeepRequest (src : Src) (s : State) : Out := .next ((s.external 1).powerRequest src 1)

/-- RUN_REQUEST. -/
def execRunRequest (src : Src) (s : State) : Out := .next ((s.external 1).powerRequest src 2)

/-! Thermal sensing (R366, R369). -/

/-- Register of a sensor: 4d + sector, or 64 + 4n + i for a port die (Table 16-7). -/
def sensorReg (k : Nat) : Nat := if k < 64 then sectorReg k else pdReg ((k - 64) / 4) (Reg.pwrPortSensor ((k - 64) % 4))

/-- A sensor is read. -/
def State.senseOne (s : State) (k t : Nat) : State :=
  let a := sensorReg k
  (s.withFld a 7 0 (min 255 t)).withFld a 15 8 (max (s.fld a 15 8) (min 255 t))

/-- The hottest of 80 readings and its sensor, the lowest index on a tie. -/
def hottest (l : List Nat) : Nat × Nat := l.zipIdx.foldl (fun m x => if m.1 < x.1 then x else m) (nth l 0 0, 0)

/-- The throttle of a sector: on at THROTTLE, off 3 °C below (R366). -/
def State.throttleOf (s : State) (k t : Nat) : State :=
  let lim := s.fld Reg.pwrTherm 15 8
  let on := decide (lim ≤ t) || (s.fld (sectorReg k) 17 17 == 1 && decide (lim < t + 3))
  let s1 := s.withFld (sectorReg k) 17 17 (b2n on)
  if on then s1.lowerBlocks ((sectorBlocks k).filter fun b => s1.blockState b == 3) else s1

/-- ALERT_N is asserted: a bit of PWR_EVENT is set (R367). The land is no state of its own. -/
def State.alertAsserted (s : State) : Bool := decide (s.reg Reg.pwrEvent ≠ 0)

/-- The package trips: THERM_TRIP_N and THERM_TRIP until a package reset, and power stops (R360, R366). -/
def State.trip (s : State) : State := (((s.withPins { s.pins with thermTrip := true }).powerEvent 5)).powerLost

/-- A sample of every sensor and stack (R366). -/
def State.thermal (s : State) (temps hbm : List Nat) : State :=
  if ¬ s.pins.pwrGood then s
  else
    let h := hottest (temps.take 80)
    let hot := (List.range 80).filter fun k => decide (115 ≤ nth temps k 0)
    let s1 := forEach (List.range 80) (fun k s => s.senseOne k (nth temps k 0)) s
    let s2 := forEach (List.range 12) (fun k s => s.withFld (memReg k Reg.memStatus) 21 14 (min 255 (nth hbm k 0))) s1
    let s3 := (s2.withFld Reg.pwrTempMax 7 0 (min 255 h.1)).withFld Reg.pwrTempMax 14 8 h.2
    let alert := decide (s.fld Reg.pwrTherm 7 0 ≤ h.1) || (hbm.take 12).any fun t => decide (100 < t)
    let s4 := if alert then s3.powerEvent 0 else s3
    let s5 := forEach (List.range 64) (fun k s => s.throttleOf k (nth temps k 0)) s4
    let s6 := s5.withPins { s5.pins with hot := hot }
    if hot.any s.pins.hot.contains then s6.trip else s6

/-- THERMAL_SAMPLE. -/
def execThermalSample (temps stackTemps : List Nat) (s : State) : Out := .next (s.thermal temps stackTemps)

/-- TEMP_MAX_CLEAR: TEMP_MAX becomes TEMP (R369). -/
def State.tempMaxClear (s : State) (k : Nat) : State := s.withFld (sensorReg k) 15 8 (s.fld (sensorReg k) 7 0)

/-- Sensor of a die. -/
def dieSensor (d i : Nat) : Nat := if d < 16 then 4 * d + i else 64 + 4 * (d - 16) + i

/-- TEMP_MAX_CLEAR. -/
def execTempMaxClear (_src : Src) (die sensor : Nat) (s : State) : Out := .next ((s.external 1).tempMaxClear (dieSensor die sensor))

end Sys2Proof.Machine
end

