-- ==== Sys2Proof/Machine/Live.lean ====
section
/-! DEFINITION. What registers show: views of state that no register stores (R14, R35-R39, R127, R155, R181, R252, R253, R273, R284,
R295, R354, R386, R395). -/

namespace Sys2Proof.Machine

/-- A register value. -/
def word (n : Nat) : Word := BitVec.ofNat 64 n

/-! Package. -/

/-- Key slots: programmed and revoked bits (R50). -/
def keyBitsOf (l : List KeySlot) : Nat := (l.zipIdx.map fun x => (b2n x.1.programmed + b2n x.1.revoked * 2) <<< (2 * x.2)).sum

/-- A sum of counters, saturating (R14). -/
def satSum (l : List Nat) : Word := word (min (2 ^ 64 - 1) l.sum)

/-- A package roll-up: the package's own count and those of its dies. -/
def State.rollUp (s : State) (own die : Nat) : Word := satSum ((s.reg own).toNat :: (List.range 20).map fun d => (s.reg (dieReg d die)).toNat)

/-- Bytes of the oldest fault record; none where the queue is empty (R342). -/
def State.oldestRec (s : State) : Bytes := match s.faults.queue with | r :: _ => r.bytes | [] => zeros 32

/-- Package registers that show other state. -/
def State.livePackage (s : State) (a : Nat) : Word :=
  if a = Reg.porDeviceId then regReset a ||| word (b2n Config.isF768 <<< 20)
  else if a = Reg.porSerial then Config.serial
  else if a = Reg.porKeyStatus then word (keyBitsOf s.porter.keys)
  else if a = Reg.porViewStatus then word s.porter.views.length
  else if a = Reg.fltRecStatus then word s.faults.queue.length
  else if Reg.fltRec 0 ≤ a ∧ a ≤ Reg.fltRec 3 then word (rdLe s.oldestRec (a - Reg.fltRec 0) 8)
  else if a = Reg.fltTransientCnt then s.rollUp a Reg.fltDieTransientCnt
  else if a = Reg.fltPermanentCnt then s.rollUp a Reg.fltDiePermanentCnt
  else s.reg a

/-! Dies. -/

/-- PORT_ATTACH of a tile die (Table 1-1): west, north, east and south edges of the 4 × 4 grid. -/
def portAttach (d : Nat) : Nat := b2n (d % 4 == 0) + b2n (d / 4 == 0) * 2 + b2n (d % 4 == 3) * 4 + b2n (d / 4 == 3) * 8

/-- STR_DIE_INFO but HBM_PRESENT (Tables 1-1, 1-9). -/
def dieInfo (d : Nat) : Nat :=
  if d < 16 then d + (d / 4) <<< 6 + (d % 4) <<< 8 + (dieStack d).getD 15 <<< 10 + portAttach d <<< 14
  else d + 1 <<< 5 + 15 <<< 10 + ((List.range 16).map fun t => if bit (portAttach t) (d - 16) then 2 ^ (20 + t) else 0).sum

/-- HELD and DOMAIN of a block (R352, R354). -/
def State.blockWord (s : State) (b : Nat) : Word :=
  s.reg (clkBlockA b) ||| word (b2n (s.heldOpen b) <<< 13 + b2n (!(s.domainOwners b).isEmpty) <<< 14)

/-- Registers of a tile die below its tile windows, and of any die. -/
def State.liveDie (s : State) (d off : Nat) : Word :=
  let a := dieReg d off
  if off = Reg.strDieInfo then s.reg a ||| word (dieInfo d)
  else if off = Reg.peeDieCfg then word (rdLe (s.peeEntry d) 0 8)
  else if d < 16 ∧ Reg.clkBlock 0 ≤ off ∧ off < Reg.clkBlock 32 then s.blockWord (32 * d + (off - Reg.clkBlock 0) / 8)
  else if d < 16 ∧ 0x8000 ≤ off ∧ off < 0x8100 ∧ off % 0x40 = 0x10 then
    s.hmStatus ((dieStack d).getD 0) ((off - 0x8000) / 0x40)
  else if d < 16 ∧ off = Reg.punHmDirty then word (s.ctrl ((dieStack d).getD 0)).dirty.length
  else s.reg a

/-! Tile windows. -/

/-- CTX_STATE of a context (Table 6-11). -/
def State.ctxCode (s : State) (t c : Nat) : Nat :=
  let y := s.tile t
  let x := y.ctx c
  if x.st = .idle then 0
  else if s.inLead t ∨ (y.modeHeld ∧ ¬ x.issued) then 3
  else
    match x.desc with
    | none => 1
    | some d =>
      let waits := dWaitEach d && !x.allDone && x.part == 0 && x.seen.isEmpty && !y.waitHolds d x.iter
      if x.issued then
        (if (dEngine d = .mesh ∨ (y.engine (dEngine d)).head? = some c ∨ ¬ (y.engine (dEngine d)).contains c) ∧ ¬ waits then 1 else 2)
      else if y.waitHolds d 0 ∧ s.canTake t d then 1 else 2

/-- DSC_STATUS. -/
def State.dscStatus (s : State) (t : Nat) : Nat :=
  let y := s.tile t
  ((List.range 4).map fun c => s.ctxCode t c <<< (2 * c)).sum + y.trigQ.length <<< 8 +
    b2n (y.timer 0).isSome <<< 12 + b2n (y.timer 1).isSome <<< 13 + b2n ((List.range 4).any fun c => (y.ctx c).shadow.isSome) <<< 14 +
    b2n y.handler.isSome <<< 15

/-- One bit for each index. -/
def bitsWhere (n : Nat) (f : Nat → Bool) : Nat := ((List.range n).map fun i => b2n (f i) <<< i).sum

/-- ACC_SLOT_CTRL: REMOTE_OPEN reads 0 on a reducer (R181, R187). -/
def State.slotCtrl (s : State) (t : Nat) : Nat :=
  let y := s.tile t
  let isRed := match y.idLogical with | some l => (s.reducerEntry l).isSome | none => false
  (if isRed then 0 else y.remoteOpen.toNat) + bitsWhere 16 (fun l => (y.slot l).terms != 0) <<< 16 +
    bitsWhere 16 (fun l => (y.slot l).poison) <<< 32

/-- VEC_OC_LIVE: lines that are VALID or DIRTY. -/
def Tile.liveLines (y : Tile) : Nat := bitsWhere 64 fun i => (y.line i).st == .valid || (y.line i).st == .dirty

/-- Registers of a tile window (R39, R77, R80, R106, R127, R155, R181, R391). -/
def State.tileShows (s : State) (t off : Nat) : Word :=
  let y := s.tile t
  if 0x80 ≤ off ∧ off < 0xC0 then mapGet 0 ((off - 0x80) / 8) y.counts
  else
    match off with
    | 0x00 => s.tilId t
    | 0x40 => word (s.dscStatus t)
    | 0x48 => word y.numMode.toNat
    | 0x50 => y.exc0
    | 0x58 => y.exc1
    | 0x60 => y.exc2
    | 0x68 => y.periodOverrun
    | 0x70 => y.shadowDropped
    | 0x78 => word (y.cntSel + (y.counter y.cntSel).toNat <<< 32)
    | 0xC0 => y.mtxStatus
    | 0xC8 => word y.rowSplit.toNat
    | 0xD0 => y.cvtStatus
    | 0xD8 => y.mtxGang
    | 0xE0 => word (y.ftq.length + y.vecFlags.toNat % 128 + bitsWhere 4 y.sumPending <<< 7)
    | 0xE8 => word y.liveLines
    | 0xF0 => y.accStatus
    | 0xF8 => word (s.slotCtrl t)
    | _ => 0

/-- The reset value that a register shows while its tile is in a reset: all but TIL_ID (R36). -/
def State.liveTile (s : State) (t off : Nat) : Word :=
  if s.tileInReset t ∧ 0x40 ≤ off then regReset (tileReg t off) else s.tileShows t off

/-! Port dies. -/

/-- Tokens of a shaper as a signed byte count (R259). -/
def State.tokenBytes (s : State) (e k : Nat) : Nat := toTwos 32 (s.tokens e k / 10000)

/-- Statistics that SCH_OBS_SEL selects (R273). -/
def State.obsShown (s : State) (n : Nat) : Obs :=
  let w := (s.reg (pdReg n Reg.schObsSel)).toNat
  mapGet Obs.empty (bits w 7 5 + 8 * bits w 8 8) (s.port (32 * n + bits w 4 0)).obs

/-- SWI_VOQ_DEPTH of the queue that SWI_VOQ_SEL selects (R252). -/
def State.voqShown (s : State) (n : Nat) : Word :=
  let w := (s.reg (pdReg n Reg.swiVoqSel)).toNat
  let l := s.voqOf (((32 * n + bits w 4 0) * 128 + bits w 11 5) * 8 + bits w 14 12)
  word (queueBytes l % 2 ^ 32 + l.length <<< 32)

/-- Buffers of a punnet in quarantine. -/
def Punnet.quarCount (p : Punnet) : Nat := (p.bufs.filter fun b => b.2.st == .quarantined || b.2.st == .quarDirty).length

/-- Registers of a port die. -/
def State.livePort (s : State) (n off : Nat) : Word :=
  let a := pdReg n off
  if off < 0x10000 then
    if off = Reg.ftmNow ∧ n = 0 then s.clk.ftm
    else if off = Reg.ftmStatus ∧ n = 0 then s.reg a ||| word (b2n s.inStep)
    else s.liveDie (16 + n) off
  else if off = Reg.swiVoqDepth then s.voqShown n
  else if 0x60000 ≤ off ∧ off < 0x60020 then
    let p := s.pool n ((off - 0x60000) / 8)
    word (p.freeCount + p.count <<< 32)
  else if off = Reg.punPkDirty then word (s.pdie n).dirty.length
  else if off = Reg.punPkQuar then word ((List.range 4).map fun i => (s.pool n i).quarCount).sum
  else if off = Reg.schObsMinmax then word ((s.obsShown n).min + (s.obsShown n).max <<< 32)
  else if off = Reg.schObsSamples then word (s.obsShown n).count
  else if Reg.schObsBin 0 ≤ off ∧ off < Reg.schObsBin 16 then word (mapGet 0 ((off - Reg.schObsBin 0) / 8) (s.obsShown n).bins)
  else if 0x80000 ≤ off ∧ off < 0x82000 ∧ 0x48 ≤ off % 0x100 ∧ off % 0x100 < 0x88 then
    word (s.tokenBytes (32 * n + (off - 0x80000) / 0x100) ((off % 0x100 - 0x48) / 8))
  else if off = Reg.rteNode then word s.node
  else if off = Reg.rteParked then word (s.pdie n).parked.length
  else if 0x190000 ≤ off ∧ off < 0x192000 ∧ off % 0x100 = 0 then
    s.reg a ||| word (bitsWhere 8 (fun c => s.drained (32 * n + (off - 0x190000) / 0x100) c) <<< 8)
  else if off = Reg.rmaStreams then word (s.pdie n).streams.length
  else s.reg a

/-- What a mapped register of the 48 MiB space shows. -/
def State.shows (s : State) (a : Nat) : Word :=
  if a < 0x1000000 then s.livePackage a
  else if a < 0x2000000 then
    let d := (a - 0x1000000) / 0x100000
    let off := (a - 0x1000000) % 0x100000
    if off < 0x10000 then s.liveDie d off else s.liveTile (2304 * d + (off - 0x10000) / 256) (off % 256)
  else s.livePort ((a - 0x2000000) / 0x400000) ((a - 0x2000000) % 0x400000)

end Sys2Proof.Machine
end

