-- ==== Sys2Proof/Machine/Peephole.lean ====
section
/-! DEFINITION. The peephole's trace units (R387-R390, R395), PTP messages (R215) and boundary scan (R393). -/

namespace Sys2Proof.Machine

/-! Trace units. -/

/-- Records of a unit's region. -/
def regionRecords (w : Window) : Nat := w.size * unitBytes / 32

/-- A freeze that has nothing more to store is done: PEE_FROZEN, and source 4 is raised. -/
def State.freezeEnds (s : State) (d : Nat) : State :=
  let u := s.traceUnit d
  if u.freezing ∧ (u.buffered.isEmpty ∨ u.full) then
    ((s.withTraceUnit d { u with freezing := false }).withFld Reg.peeFrozen d d 1).raiseIrq 4
  else s

/-- The oldest buffered record is stored at the write position; the region wraps, or stops at its end. -/
def State.traceStore (s : State) (d : Nat) : State :=
  let u := s.traceUnit d
  match u.buffered, peeRegion (s.peeEntry d) with
  | r :: l, some w =>
    let k := nth w.stacks 0 0
    let a := dieReg d Reg.peeDieWrptr
    let i := s.fld a 31 0
    let off := w.base * unitBytes + 32 * i
    if u.full ∨ 20 ≤ d ∨ s.hbmHeld k off 32 then s
    else
      let s1 := (s.hbmWrite k off r).1.withTraceUnit d { u with buffered := l }
      if i + 1 < regionRecords w then (s1.withFld a 31 0 (i + 1)).freezeEnds d
      else if bit (rdLe (s.peeEntry d) 0 2) 5 then
        (((s1.withFld a 31 0 (i + 1)).modTraceUnit d fun x => { x with full := true }).raiseIrq 4).freezeEnds d
      else ((s1.withFld a 31 0 0).bump (dieReg d Reg.peeWrapCnt)).freezeEnds d
  | _, _ => s.freezeEnds d

/-- TRACE_STORE (R389). -/
def execTraceStore (die : Nat) (s : State) : Out := .next (s.traceStore die)

/-- A write of PEE_FREEZE: each named unit stops once its buffered records are stored (R390). -/
def State.freeze (s : State) (dies : Nat) : State :=
  forEach ((maskBits dies 20).filter fun d => !bit (s.reg Reg.peeFrozen).toNat d) (fun d s =>
    (s.modTraceUnit d fun u => { u with freezing := true }).freezeEnds d) s

/-- PEE_FREEZE. -/
def execPeeFreeze (_src : Src) (dies : Nat) (s : State) : Out := .next ((s.external 1).freeze dies)

/-! PTP. -/

/-- Offset of the PTP header in a frame, and whether UDP carries it (R215). -/
def ptpOffset (b : Bytes) : Nat × Bool :=
  let h := etherHead b
  let o := h.2.2
  if h.2.1 = 0x0800 then (o + 4 * (rdLe b o 1 % 16) + 8, true) else if h.2.1 = 0x86DD then (o + 48, true) else (o, false)

/-- Sum of the 16-bit words of some bytes. -/
def wordSum (b : Bytes) : Nat := ((List.range (ceilDiv b.length 2)).map fun i => beNat (padTo 2 (slice b (2 * i) 2))).sum

/-- The checksum of a UDP datagram anew, over its pseudo-header; over IPv4 one of zero stays (log entry 94). -/
def udpFix (b : Bytes) : Bytes :=
  let h := etherHead b
  let o := h.2.2
  let v4 := h.2.1 == 0x0800
  let u := (ptpOffset b).1 - 8
  let len := beNat (slice b (u + 4) 2)
  let addrs := if v4 then slice b (o + 12) 8 else slice b (o + 8) 32
  let dgram := splice (slice b u len) 6 (zeros 2)
  let n := wordSum addrs + 17 + len + wordSum dgram
  let f1 := n % 65536 + n / 65536
  let f2 := f1 % 65536 + f1 / 65536
  if v4 && beNat (slice b (u + 6) 2) == 0 then b
  else splice b (u + 6) (natBe 2 (if f2 = 65535 then 65535 else 65535 - f2))

/-- A correctionField moved on by some units of fabric time, 2^12 of its own each (log entry 94). -/
def correctPtp (b : Bytes) (o : Nat) (units : Int) : Bytes :=
  splice b (o + 8) (natBe 8 (toTwos 64 (sgn 64 (beNat (slice b (o + 8) 8)) + units * 4096)))

/-- A message that leaves under one-step operation at a time: a Sync carries it, a Pdelay_Resp the time since the request came in; every other is
sent as it is (R215, log entry 94). -/
def oneStepPtp (b : Bytes) (t asked : Nat) : Bytes :=
  let x := ptpOffset b
  let o := x.1
  let b1 := match rdLe b o 1 % 16 with
    | 0 => correctPtp (splice b (o + 34) (natBe 6 (t / 16000000000) ++ natBe 4 (t % 16000000000 / 16))) o (t % 16 : Nat)
    | 3 => correctPtp b o ((t : Int) - asked)
    | _ => b
  if x.2 && b1 != b then udpFix b1 else b1

/-- PTP_EVENT_MESSAGE_SEND: the port of an Ethernet-mode die stamps the message as it leaves; under one-step operation the message itself carries
the time (R215, log entry 94). -/
def execPtpEventMessageSend (p : Nat) (msg : PtpSend) (s : State) : Out :=
  let sent := match msg.oneStep with | some asked => oneStepPtp msg.bytes s.now asked | none => msg.bytes
  .next (if s.macLive p then s.emit (.ptp p sent s.now) else s)

/-! Boundary scan (R393). -/

/-- An instruction that takes effect only in reset loads as BYPASS at other times. -/
def State.tapInReset (s : State) (x : Tap) : State := s.withTap (if s.pins.pkgReset then x else .bypass)

/-- BYPASS. -/
def execBypass (s : State) : Out := .next (s.withTap .bypass)
/-- IDCODE. -/
def execIdcode (s : State) : Out := .next (s.withTap .idcode)
/-- SAMPLE_PRELOAD. -/
def execSamplePreload (s : State) : Out := .next (s.withTap .samplePreload)
/-- EXTEST. -/
def execExtest (s : State) : Out := .next (s.tapInReset .extest)
/-- CLAMP. -/
def execClamp (s : State) : Out := .next (s.tapInReset .clamp)
/-- HIGHZ. -/
def execHighz (s : State) : Out := .next (s.tapInReset .highz)
/-- EXTEST_PULSE. -/
def execExtestPulse (s : State) : Out := .next (s.tapInReset .extestPulse)
/-- EXTEST_TRAIN. -/
def execExtestTrain (s : State) : Out := .next (s.tapInReset .extestTrain)
/-- TEST_LOGIC_RESET. -/
def execTestLogicReset (s : State) : Out := .next (s.withTap .reset)

end Sys2Proof.Machine
end

