-- ==== Sys2Proof/Machine/Host.lean ====
section
/-! DEFINITION. The host interface: BAR2 (R372, R324, R327), start and receive queues (R374-R377), MSI-X (R378), function-level reset
(R373). -/

namespace Sys2Proof.Machine

/-! BAR4. -/

/-- Add one to a BAR4 counter. -/
def State.bumpB4 (s : State) (a : Nat) : State := s.withB4 a (satAdd (s.b4 a) 1)

/-- Replace a field of a BAR4 register. -/
def State.withB4Fld (s : State) (a hi lo v : Nat) : State := s.withB4 a (wPut (s.b4 a) hi lo v)

/-- CFG, base, error counter and EN bit of a queue. -/
def queueCfg (receive : Bool) (q : Nat) : Nat := if receive then Reg.hrqCfg q else Reg.sqCfg q
/-- Base register of a queue. -/
def queueBase (receive : Bool) (q : Nat) : Nat := if receive then Reg.hrqBase q else Reg.sqBase q
/-- Error counter of a queue. -/
def queueErr (receive : Bool) (q : Nat) : Nat := if receive then Reg.hrqErrCnt q else Reg.sqErrCnt q
/-- Bit of EN in CFG. -/
def enBit (receive : Bool) : Nat := if receive then 4 else 10

/-- A queue is enabled. -/
def State.queueOn (s : State) (receive : Bool) (q : Nat) : Bool := bit (s.b4 (queueCfg receive q)).toNat (enBit receive)

/-- Entries of a queue's ring. -/
def State.ringSize (s : State) (receive : Bool) (q : Nat) : Nat := 2 ^ bits (s.b4 (queueCfg receive q)).toNat 3 0

/-- A configuration that EN accepts (R377). -/
def State.queueOk (s : State) (receive : Bool) (q v : Nat) : Bool :=
  decide (4 ≤ bits v 3 0) && decide (bits v 3 0 ≤ 12) && (s.b4 (queueBase receive q)).toNat % 4096 == 0 && (receive || bits v 9 4 != 0)

/-- A discarded write of a queue's register. -/
def State.queueErrs (s : State) (receive : Bool) (q : Nat) : State := s.bumpB4 (queueErr receive q)

/-- A write of CFG: fields only while EN is 0, and EN where the configuration allows it (R377). -/
def State.queueWrite (s : State) (receive : Bool) (q v : Nat) : State :=
  let e := enBit receive
  let a := queueCfg receive q
  let old := (s.b4 a).toNat
  let en := bit v e
  if bit old e then
    if bits v (e - 1) 0 ≠ bits old (e - 1) 0 then s.queueErrs receive q
    else if en then s
    else (s.withB4Fld a e e 0).withSqHeld (if receive then s.sqHeld else s.sqHeld.filter fun x => x.1 != q)
  else s.withB4 a (BitVec.ofNat 64 (bits v (e - 1) 0 + b2n (en && s.queueOk receive q v) <<< e))

/-- QUEUE_ENABLE. -/
def execQueueEnable (receive : Bool) (q value : Nat) (s : State) : Out := .next ((s.external 1).queueWrite receive q value)

/-- A doorbell: the new tail of a start queue or head of a receive queue, in bits [11:0]; the others are reserved (R9, R377, Table 17-4). -/
def State.doorbell (s : State) (receive : Bool) (q v : Nat) : State :=
  if s.ringSize receive q ≤ v % 4096 then s.queueErrs receive q
  else s.withB4 (if receive then Reg.hrqHead q else Reg.sqTail q) (BitVec.ofNat 64 (v % 4096))

/-- SQ_TAIL. -/
def execSqTail (q value : Nat) (s : State) : Out := .next ((s.external 1).doorbell false q value)
/-- HRQ_HEAD. -/
def execHrqHead (q value : Nat) (s : State) : Out := .next ((s.external 1).doorbell true q value)

/-! Start queues (R374, R375). -/

/-- A reserved bit of an entry is set (Table 17-2). -/
def entryBad (e : Bytes) : Bool := bit (rdLe e 0 2) 15 || bits (rdLe e 2 1) 7 6 != 0 || (slice e 4 28).any (· != 0)

/-- An entry's outcome is written to its STATUS byte, the head moves on, and a code other than ACCEPTED raises the queue's source. -/
def State.entryDone (s : State) (q code : Nat) : State :=
  let h := (s.b4 (Reg.sqHead q)).toNat
  let s1 := ((s.withSqHeld (s.sqHeld.filter fun x => x.1 != q)).emit (.hostWrite ((s.b4 (Reg.sqBase q)).toNat + 64 * h + 3) (natLe 1 code))).withB4
    (Reg.sqHead q) (BitVec.ofNat 64 ((h + 1) % s.ringSize false q))
  if code = 0 then s1 else s1.raiseIrq (512 + q)

/-- An entry's trigger is delivered to a tile of this node; a block whose stop is isolated is unreachable. -/
def State.deliverEntry (s : State) (q : Nat) (e : Bytes) : State × Nat :=
  let l := bits (rdLe e 0 2) 14 0
  if entryBad e then (s, 0x10)
  else if (s.stop (tileBlock l)).isolated ∨ s.goneFrom l (bits (s.b4 (Reg.sqCfg q)).toNat 9 4) then (s, 6)
  else ((s.wakeBlock (tileBlock l)).disagreeTile l).offerTrigger l (bits (rdLe e 2 1) 5 0)
    (bits (s.b4 (Reg.sqCfg q)).toNat 9 4) false (e.drop 32)

/-- Serve an entry; one answered TRIG_BUSY waits. -/
def State.serveEntry (s : State) (q : Nat) (e : Bytes) : State :=
  let r := s.deliverEntry q e
  if r.2 = 5 then r.1.withSqHeld (mapPut [] q (padTo 64 e) r.1.sqHeld) else r.1.entryDone q r.2

/-- A start queue has an entry to serve. -/
def State.entryDue (s : State) (q : Nat) : Bool :=
  s.queueOn false q && s.b4 (Reg.sqHead q) != s.b4 (Reg.sqTail q)

/-- The next entry of a queue is read from host memory and served, or the read fails (R375). -/
def State.startEntry (s : State) (q : Nat) (e : Bytes) (failed : Bool) : State :=
  if ¬ s.entryDue q ∨ s.sqHeld.any (fun x => x.1 == q) then s
  else if failed then ((s.withB4Fld (Reg.sqCfg q) 10 10 0).bumpB4 (Reg.sqErrCnt q)).raiseIrq (512 + q)
  else s.serveEntry q (padTo 64 e)

/-- START_QUEUE_ENTRY. -/
def execStartQueueEntry (q : Nat) (entry : Bytes) (readFailed : Bool) (s : State) : Out := .next (s.startEntry q entry readFailed)

/-- An entry answered TRIG_BUSY is offered again (R374). -/
def State.reoffer (s : State) (q : Nat) : State :=
  match s.sqHeld.find? fun x => x.1 == q with
  | some x => if s.entryDue q then s.serveEntry q x.2 else s
  | none => s

/-- TRIG_BUSY_REOFFER. -/
def execTrigBusyReoffer (q : Nat) (s : State) : Out := .next (s.reoffer q)

/-! MSI-X (R378). -/

/-- A vector is unmasked: a pending one sends its message. -/
def State.unmask (s : State) (v : Nat) : State :=
  if s.unmasked.contains v then s
  else
    let s1 := s.withUnmasked (s.unmasked ++ [v])
    if s.msixPending.contains v then (s1.withMsixPending (s.msixPending.filter (· != v))).emit (.msix v) else s1

/-- MSIX_UNMASK. -/
def execMsixUnmask (vector : Nat) (s : State) : Out := .next ((s.external 1).unmask (vector % 2048))

/-! Plain BAR4 accesses. -/

/-- A mask of the pending bits of 64 vectors from `v`. -/
def State.pendingBits (s : State) (v : Nat) : Nat := maskOf ((List.range 64).filter fun i => s.msixPending.contains (v + i))

/-- What a BAR4 register shows: in the MSI-X table the mask bit of its vector beside the message data, and the pending bits (R378, R394). -/
def State.bar4Shows (s : State) (a : Nat) : Word :=
  if 0x190000 ≤ a then BitVec.ofNat 64 (s.pendingBits ((a - 0x190000) * 8))
  else if 0x180000 ≤ a ∧ a % 16 = 8 then
    BitVec.ofNat 64 ((s.b4 a).toNat % 2 ^ 32 + b2n (!s.unmasked.contains ((a - 0x180000) / 16)) <<< 32)
  else s.b4 a

/-- A host write in BAR4: queue registers, and the MSI-X table with its mask bits (R374, R377, R378, R394). -/
def State.bar4Write (s : State) (a w : Nat) : State :=
  if a < 0x100000 then
    let q := a / 0x1000
    match a % 0x1000 with
    | 0x00 => if s.queueOn false q then s.queueErrs false q else s.withB4 a (BitVec.ofNat 64 w)
    | 0x08 => s.queueWrite false q w
    | 0x10 => s.doorbell false q w
    | _ => s
  else if a < 0x104000 then
    let q := (a - 0x100000) / 0x100
    match a % 0x100 with
    | 0x00 => if s.queueOn true q then s.queueErrs true q else s.withB4 a (BitVec.ofNat 64 w)
    | 0x08 => s.queueWrite true q w
    | 0x18 => s.doorbell true q w
    | _ => s
  else if 0x180000 ≤ a ∧ a < 0x188000 then
    let v := (a - 0x180000) / 16
    if a % 16 = 8 then
      let s1 := s.withB4 a (BitVec.ofNat 64 (w % 2 ^ 32))
      if bit w 32 then s1.withUnmasked (s1.unmasked.filter (· != v)) else s1.unmask v
    else s.withB4 a (BitVec.ofNat 64 w)
  else s

/-! BAR2 (R372). -/

/-- The part of a range that lies in one 64 B block: address and length. -/
def rangeParts (a n : Nat) : List (Nat × Nat) :=
  (blocksOf a n).map fun b => let lo := max a (64 * b); (lo, min (a + n) (64 * b + 64) - lo)

/-- A device address that a stack serves (R324). -/
def State.devServed (s : State) (a : Nat) : Bool := decide (a < 12 * 2 ^ 36) && decide (devOff a < s.capBytes (devStack a))

/-- One access through BAR2: bytes within capacity are served, the others read as zero or are discarded and counted once. -/
def State.bar2 (s : State) (off : Nat) (write : Bool) (len : Nat) (data : Bytes) (u : Upset) : State :=
  let a := s.fld Reg.porBar2Base 39 30 <<< 30 + off
  let n := if write then data.length else len
  let parts := rangeParts a n
  if parts.any fun p => s.devServed p.1 && s.hbmHeld (devStack p.1) (devOff p.1) p.2 then s
  else
    let s0 := if s.devServed a then (s.external 1).hbmUpset (devStack a) u else s.external 1
    let s1 := match parts.find? fun p => !s.devServed p.1 with
      | some p => s0.badHbm write p.1
      | none => s0
    if write then
      parts.foldl (fun s p => if s.devServed p.1 then (s.hbmWrite (devStack p.1) (devOff p.1) (slice data (p.1 - a) p.2)).1 else s) s1
    else
      let r := parts.foldl (fun (r : State × Bytes × Bool) p =>
        if r.1.devServed p.1 then
          let x := r.1.hbmRead (devStack p.1) (devOff p.1) p.2 false 0
          (x.1, r.2.1 ++ x.2.1, r.2.2 || x.2.2)
        else (r.1, r.2.1 ++ zeros p.2, r.2.2)) (s1, [], false)
      r.1.emit (.bar2Reply r.2.1 r.2.2)

/-- BAR2_ACCESS. -/
def execBar2Access (off : Nat) (write : Bool) (len : Nat) (data : Bytes) (upset : Upset) (s : State) : Out :=
  .next (s.bar2 off write len data upset)

/-! Function-level reset (R373). -/

/-- EN of every queue becomes 0, with heads and tails at 0. -/
def State.queuesOff (s : State) : State :=
  let s1 := forEach (List.range 256) (fun q s =>
    ((s.withB4Fld (Reg.sqCfg q) 10 10 0).withB4 (Reg.sqHead q) 0).withB4 (Reg.sqTail q) 0) s
  forEach (List.range 64) (fun q s =>
    ((s.withB4Fld (Reg.hrqCfg q) 4 4 0).withB4 (Reg.hrqHead q) 0).withB4 (Reg.hrqTail q) 0) (s1.withSqHeld [])

/-- FUNCTION_LEVEL_RESET. -/
def State.hostReset (s : State) : State :=
  let s1 := ((s.queuesOff.withUnmasked []).withMsixPending []).withReg Reg.porBar2Base 0
  let s2 := forEach (List.range 1024) (fun i s => s.withReg (Reg.porIrqMap i) 0) s1
  if s2.phase = 1 ∧ s2.fld Reg.strImageSrc 1 0 = 0 then s2.commitFails 1 (0, 0) else s2

/-- FUNCTION_LEVEL_RESET. -/
def execFunctionLevelReset (s : State) : Out := .next s.hostReset

end Sys2Proof.Machine
end

