-- ==== Sys2Proof/Machine/Access.lean ====
section
/-! DEFINITION. Register accesses of the host and the porter (R7-R10, R34-R36): what a read returns and clears, and what a write does to
each register. -/

namespace Sys2Proof.Machine

/-! Reads. -/

/-- Bits of a register that an access addresses; none where it is misaligned or of another width (R7). -/
def accessMask (a width : Nat) : Option Nat :=
  if width = 8 ∧ a % 8 = 0 then some (2 ^ 64 - 1)
  else if width = 4 ∧ a % 8 = 0 then some (2 ^ 32 - 1)
  else if width = 4 ∧ a % 8 = 4 then some (2 ^ 64 - 2 ^ 32)
  else none

/-- Registers that accept 64-bit accesses only (R7). -/
def wideOnly : List String := ["FLT_RESET_REQ", "FTM_STEP", "PUN_HM_ALLOC", "PUN_HM_FREE", "PUN_HM_REF", "PUN_HM_QUAR_RELEASE"]

/-- The physical tile of a tile-window address. -/
def windowTile (a : Nat) : Option Nat :=
  if a < 0x1000000 ∨ 0x2000000 ≤ a then none
  else
    let off := (a - 0x1000000) % 0x100000
    if 0x10000 ≤ off ∧ off < 0xA0000 then some (2304 * ((a - 0x1000000) / 0x100000) + (off - 0x10000) / 256) else none

/-- A register does not answer (R36): TIL_ID answers outside die reset. -/
def State.mute (s : State) (a : Nat) : Bool :=
  match windowTile a with
  | some t => if a % 256 = 0 then (s.die (t / 2304)).inReset else s.tileMute t
  | none => false

/-- Read-clear of the bits of `m` (R7, R10). -/
def State.readClear (s : State) (a : Nat) (r : RegRow) (m : Nat) : State :=
  let gone := r.mask .rc &&& m
  let cut (w : Word) : Word := word (w.toNat &&& (2 ^ 64 - 1 - gone))
  if gone = 0 then s
  else
    match windowTile a with
    | some t =>
      if a % 256 = 0x68 then s.modTile t fun x => { x with periodOverrun := cut x.periodOverrun }
      else s.modTile t fun x => { x with shadowDropped := cut x.shadowDropped }
    | none => s.withReg a (cut (s.reg a))

/-- The stack and the allocator of a PUN_HM_ALLOC register. -/
def allocOf (b : Nat) : Nat × Nat :=
  ((dieStack ((b - 0x1000000) / 0x100000)).getD 0, (b - 0x1000000) % 0x100000 % 0x1000 / 0x40)

/-- A read of a PUN_HM_ALLOC register allocates (R251). -/
def State.allocRead (s : State) (k i : Nat) : State × Word := ((s.hmAlloc k i).2, word (s.hmAlloc k i).1)

/-- A read of a row of the register map, at the 8-byte word `b` of the access. -/
def State.readRow (s : State) (src : Src) (a b width m : Nat) (r : RegRow) : State × Word :=
  if s.mute b then (s.badAccess src false a .noResponse, 0)
  else if wideOnly.contains r.name ∧ width ≠ 8 then (s.badAccess src false a .badValue, 0)
  else if r.name == "PUN_HM_ALLOC" then s.allocRead (allocOf b).1 (allocOf b).2
  else (s.readClear b r m, word ((s.shows b).toNat >>> (8 * (a % 8)) % 2 ^ (8 * width)))

/-- A read of the register space: the answer, and what it clears or allocates (R7, R8, R10, R36, R251). -/
def State.regRead (s : State) (src : Src) (a width : Nat) : State × Word :=
  match accessMask a width, regRow (a - a % 8) with
  | some m, some r => s.readRow src a (a - a % 8) width m r
  | _, _ => (s.badAccess src false a .unmapped, 0)

/-- A host read in BAR4: queue registers; error counters clear (R394). -/
def State.bar4Read (s : State) (a width : Nat) : State × Word :=
  let b := a - a % 8
  match accessMask a width, bar4Row b with
  | some m, some r =>
    let gone := r.mask .rc &&& m
    let s1 := if gone = 0 then s else s.withB4 b (word ((s.b4 b).toNat &&& (2 ^ 64 - 1 - gone)))
    let s2 := if r.mask .rw = 0 then s1 else s1.external 1
    (s2, word ((s.bar4Shows b).toNat >>> (8 * (a % 8)) % 2 ^ (8 * width)))
  | _, _ => (s.external 1, 0)

/-- First address that stands for BAR4 in a host access (log entry 45). -/
def bar4Base : Nat := 2 ^ 32

/-- RC_REGISTER_READ (R10). -/
def execRcRegisterRead (src : Src) (addr width : Nat) (s : State) : Out :=
  let r := if src = .host ∧ bar4Base ≤ addr then s.bar4Read (addr - bar4Base) width else s.regRead src addr width
  .next (r.1.emit (.readReply src addr r.2))

/-! Writes. -/

/-- A checked register: stored where its value is legal, else counted as in R8 with cause BAD_VALUE. -/
def State.storeIf (s : State) (src : Src) (a w : Nat) (ok : Bool) : State := if ok then s.store a w else s.refuse src a .badValue

/-- Registers of a commit in progress (R51). -/
def State.imageWrite (s : State) (a w : Nat) : State := if s.committing then s.bump Reg.strCommitRejectCnt else s.store a w

/-- A write of DET_BARRIER_CTRL: ARM, then CANCEL. -/
def State.barrierCtrl (s : State) (src : Src) (w : Nat) : State :=
  let s1 := if bit w 0 then s.barrierArm src else s
  if bit w 1 then s1.barrierCancel else s1

/-- A write of a package register. -/
def State.writePackage (s : State) (src : Src) (a w : Nat) : State :=
  if a = Reg.strCommitCtrl then s.commitCtrl (w % 4)
  else if a = Reg.strImageSrc ∨ a = Reg.strImageAddr ∨ a = Reg.strImageLen ∨ a = Reg.strLatchTime then s.imageWrite a w
  else if a = Reg.porImageServe then (if src = .host then s.refuse src a .locked else s.store a w)
  else if a = Reg.clkDeepAfter then s.storeIf src a w (bits w 23 0 != 0)
  else if a = Reg.pwrState then s.powerRequest src (bits w 4 3)
  else if a = Reg.pwrCap then s.storeIf src a w (decide (1000 ≤ bits w 12 0) && decide (bits w 12 0 ≤ 4600))
  else if a = Reg.pwrTherm then s.storeIf src a w (decide (bits w 7 0 ≤ bits w 15 8) && decide (bits w 15 8 ≤ 110))
  else if a = Reg.detCtrl then s.detWrite src (bit w 0)
  else if a = Reg.detBarrierTime ∨ a = Reg.detBarrierCfg then (if s.barrierArmed then s.refuse src a .busy else s.store a w)
  else if a = Reg.detBarrierCtrl then s.barrierCtrl src w
  else if a = Reg.detPolicyVf then s.policyWrite src .vf w
  else if a = Reg.detPolicyRefresh then s.policyWrite src .refresh w
  else if a = Reg.detPolicySerdes then s.policyWrite src .serdes w
  else if a = Reg.peeFreeze then s.freeze w
  else if a = Reg.fltRecCtrl then (if bit w 0 then s.pop src else s)
  else if a = Reg.fltResetReq then s.resetWrite src w
  else if a = Reg.fltPartReset then s.partitionReset src (bits w 5 0)
  else if 0x70000 ≤ a ∧ a < 0x74000 ∧ a % 0x40 = 0x28 then s.colGrpCtrl src ((a - 0x70000) / 0x40) w
  else if a = Reg.colHbPeriod then s.storeIf src a w (bits w 15 0 != 0)
  else s.store a w

/-- A write of a register of a check-value unit, `r` its offset in the unit (R336). -/
def State.chkWrites (s : State) (src : Src) (u r a w : Nat) : State :=
  let on := bit (s.reg (chkCtrlA u)).toNat 0
  match r with
  | 0x00 => s.chkCtrlWrite src u w
  | 0x08 => if on then s.refuse src a .busy else s.store a w
  | 0x10 => if on then s.refuse src a .busy else s.storeIf src a w (bits w 39 0 % 64 == 0)
  | 0x18 => if on then s.refuse src a .busy else s.storeIf src a w (bits w 18 0 != 0 && decide (bits w 18 0 ≤ 262144))
  | 0x20 => if on then s.refuse src a .busy else s.store a w
  | _ => s.store a w

/-- A write of a tile-die register below the tile windows. -/
def State.writeTileDie (s : State) (src : Src) (d off a w : Nat) : State :=
  let k := (dieStack d).getD 0
  if 0x2200 ≤ off ∧ off < 0x2220 then (if bit w 63 then s.tempMaxClear (4 * d + (off - 0x2200) / 8) else s)
  else if 0x6000 ≤ off ∧ off < 0x6800 then s.chkWrites src (64 + 16 * k + (off - 0x6000) / 0x80) (off % 0x80) a w
  else if 0x8000 ≤ off ∧ off < 0x8100 then s.hmConfigWrite src k ((off - 0x8000) / 0x40) w
  else if off = Reg.punHmFree then s.hmPtr k (w % 2 ^ 48) 0 .ret
  else if off = Reg.punHmRef then s.hmPtr k (w % 2 ^ 48) 0 .ref
  else if off = Reg.punHmQuarRelease then s.hmPtr k (w % 2 ^ 48) 0 .release
  else s.store a w

/-- A write of FTM_CTRL (R266, R269, R274): a new source or port starts its offsets anew, and a port that time follows and that is not up leaves
LOCKED at 0. -/
def State.ftmCtrlWrite (s : State) (src : Src) (a w : Nat) : State :=
  let e := bits w 8 2
  if bits w 1 0 = 3 ∨ (bits w 1 0 = 1 ∧ ¬ s.fabricMode (e / 32)) then s.refuse src a .badValue
  else
    let s1 := if bits w 8 0 = bits (s.reg a).toNat 8 0 then s.store a w
      else ((s.store a w).withFld (pdReg 0 Reg.ftmStatus) 1 1 0).withServo (0, [])
    if s.portUp e then s1 else s1.unlock e

/-- A write of SWI_PORT_FC: a fabric port whose HOLD_EN is 0 sends no hold cell, and holds no class (R236). -/
def State.portFcWrite (s : State) (src : Src) (e a w : Nat) : State :=
  let s1 := s.storeIf src a w (decide (bits w 31 16 ≤ bits w 15 0))
  if s1.fabricPort e && !s1.flowOn e then s1.modPort e fun p => { p with holdOut := [], fcOut := 0 } else s1

/-- A write of SHU_CTRL: ARM, then CANCEL. -/
def State.shutterCtrl (s : State) (src : Src) (e w : Nat) : State :=
  let s1 := if bit w 0 then s.shutterArm src e else s
  if bit w 1 then s1.shutterCancel e else s1

/-- A write in the shutter block of a port, `r` its offset there (R262). -/
def State.writeShutter (s : State) (src : Src) (e r a w : Nat) : State :=
  if r = 0x08 then s.shutterCtrl src e w
  else if (r = 0x10 ∨ r = 0x18 ∨ r = 0x20 ∨ (0x800 ≤ r ∧ r < 0x1000)) ∧ s.fld (portReg e Reg.shuStatus) 1 1 = 1 then s.refuse src a .busy
  else s.store a w

/-- A write in the scheduler block of a port, `r` its offset there (R260, R273, R274). -/
def State.writeSched (s : State) (src : Src) (e r a w : Nat) : State :=
  if r = 0 then s.storeIf src a w ((List.range 7).all fun c => bits w (8 * c + 7) (8 * c) != 0)
  else if r < 0x48 then s.bucketWrite src e false ((r - 8) / 8) w
  else if 0x88 ≤ r ∧ r < 0xC8 then s.bucketWrite src e true ((r - 0x88) / 8) w
  else if r = 0xD8 then
    if bits w 3 0 ≤ 12 ∧ bits w 7 4 ≤ 12 then (s.store a w).modPort e fun p => { p with obs := [] } else s.refuse src a .badValue
  else s.store a w

/-- A write of RTE_CTRL: ARM, then CANCEL. -/
def State.routeCtrl (s : State) (n w : Nat) : State :=
  let s1 := if bit w 0 then s.routeArm n else s
  if bit w 1 then s1.routeCancel n else s1

/-- A write of a link, switch or scheduler register of a port die. -/
def State.writePortLow (s : State) (src : Src) (n off a w : Nat) : State :=
  let port (base stride : Nat) : Nat := 32 * n + (off - base) / stride
  if 0x3000 ≤ off ∧ off < 0x3020 then (if bit w 63 then s.tempMaxClear (64 + 4 * n + (off - 0x3000) / 8) else s)
  else if off = Reg.lnkBerRetire then s.storeIf src a w (bits w 3 0 != 0 && bits w 8 4 != 0)
  else if off = Reg.lnkTimePeriod ∨ off = Reg.lnkReplayTimeout then s.storeIf src a w (bits w 15 0 != 0)
  else if off = Reg.ftmCtrl then s.ftmCtrlWrite src a w
  else if off = Reg.ftmRate then (if s.fld (pdReg 0 Reg.ftmCtrl) 1 0 = 1 then s.refuse src a .busy else s.store a w)
  else if off = Reg.ftmStep then s.ftmStep src w
  else if 0x10000 ≤ off ∧ off < 0x12000 ∧ off % 0x100 = 0x58 then
    let e := port 0x10000 0x100
    if bit w 0 && s.portOn e && s.linkState e != 5 && s.linkState e != 0 then s.retrain e (causeCode .software) else s
  else if Reg.swiVoqMax 0 ≤ off ∧ off ≤ Reg.swiVoqMax 7 then s.storeIf src a w (bits w 15 0 != 0)
  else if 0x50000 ≤ off ∧ off < 0x52000 ∧ off % 0x100 = 0 then s.portFcWrite src (port 0x50000 0x100) a w
  else if 0x50000 ≤ off ∧ off < 0x52000 ∧ off % 0x100 = 8 then s.sampleCtrlWrite src (port 0x50000 0x100) w
  else if off = Reg.punPkReturn then s.pkPtr n (w % 2 ^ 32) .ret
  else if off = Reg.punPkQuarRelease then s.pkPtr n (w % 2 ^ 32) .release
  else if off = Reg.schSamplePeriod then s.storeIf src a w (decide (100 ≤ bits w 23 0))
  else if off = Reg.schObsClear then (if bit w 0 then s.obsClear n else s)
  else if 0x80000 ≤ off ∧ off < 0x82000 then s.writeSched src (port 0x80000 0x100) (off % 0x100) a w
  else s.store a w

/-- A write of a register of a port die. -/
def State.writePortDie (s : State) (src : Src) (n off a w : Nat) : State :=
  if off < 0x100000 then s.writePortLow src n off a w
  else if off < 0x140000 then s.writeShutter src (32 * n + (off - 0x100000) / 0x2000) (off % 0x2000) a w
  else if off = Reg.rteCtrl then s.routeCtrl n w
  else if 0x190000 ≤ off ∧ off < 0x192000 ∧ off % 0x100 = 0 then s.drainWrite (32 * n + (off - 0x190000) / 0x100) w
  else if 0x200000 ≤ off ∧ off < 0x280000 then
    (if s.fld (pdReg n Reg.rteStatus) 0 0 = 1 then s.refuse src a .busy else s.store a w)
  else if 0x340000 ≤ off ∧ off < 0x340800 then s.chkWrites src (16 * n + (off - 0x340000) / 0x80) (off % 0x80) a w
  else s.store a w

/-- Bits written as 1 are cleared. -/
def clearOnes (x : Word) (w : Nat) : Word := x &&& ~~~ (word w)

/-- A write of a tile register; `m` holds the bits addressed (R155, R181, Tables 3-8, 4-6, 5-6). -/
def State.writeTile (s : State) (src : Src) (t off w m : Nat) : State :=
  let v := w &&& m
  let set (g : Tile → Tile) : State := s.modTile t g
  match off with
  | 0x40 => if bit v 63 then s.stopTile t else s
  | 0x50 => set fun x => { x with exc0 := clearOnes x.exc0 (v &&& 3 <<< 54) }
  | 0x78 => if bits w 5 4 = 3 then s.refuse src (tileReg t off) .badValue else s.cntAccess t (bits w 3 0) (bits w 5 4) (bits w 63 32)
  | 0xC0 => set fun x => { x with mtxStatus := clearOnes x.mtxStatus (v &&& 7) }
  | 0xC8 => set fun x => { x with rowSplit := BitVec.ofNat 4 w }
  | 0xD0 => set fun x => { x with cvtStatus := clearOnes x.cvtStatus (v &&& 63) }
  | 0xE0 => set fun x => { x with vecFlags := clearOnes x.vecFlags (v &&& 0x70) }
  | 0xF0 => set fun x => { x with accStatus := clearOnes x.accStatus (v &&& 0x1FF) }
  | 0xF8 =>
    match (s.tile t).idLogical with
    | some l => if (s.reducerEntry l).isSome then s else set fun x => { x with remoteOpen := BitVec.ofNat 16 w }
    | none => set fun x => { x with remoteOpen := BitVec.ofNat 16 w }
  | _ => s

/-- Bits of a register that a write may act on. -/
def RegRow.writable (r : RegRow) : Nat := r.mask .rw ||| r.mask .w1c ||| r.mask .wo

/-- A write that reaches its register. -/
def State.regEffect (s : State) (src : Src) (a : Nat) (r : RegRow) (v m : Nat) : State :=
  let w := r.whole (s.shows a).toNat v m
  if r.writable &&& m = 0 then s
  else if a < 0x1000000 then s.writePackage src a w
  else if a < 0x2000000 then
    match windowTile a with
    | some t => s.writeTile src t (a % 256) w m
    | none => s.writeTileDie src ((a - 0x1000000) / 0x100000) ((a - 0x1000000) % 0x100000) a w
  else s.writePortDie src ((a - 0x2000000) / 0x400000) ((a - 0x2000000) % 0x400000) a w

/-- A write of the register space (R7-R10, R36). -/
def State.regWrite (s : State) (src : Src) (a width v : Nat) : State :=
  let b := a - a % 8
  let x := (v % 2 ^ (8 * width)) <<< (8 * (a % 8))
  match accessMask a width, regRow b with
  | some m, some r =>
    match windowTile b with
    | some t => if a % 256 < 8 then (if s.mute b then (s.external 1).badAccess src true a .noResponse else s.external 1)
      else s.tileWrite src t (a % 256) fun s => s.regEffect src b r x m
    | none =>
      if wideOnly.contains r.name ∧ width ≠ 8 then (s.external 1).refuse src a .badValue else (s.external 1).regEffect src b r x m
  | _, _ => (s.external 1).badAccess src true a .unmapped

/-- A host write of a BAR4 register: bits not addressed keep what they hold, and a write that addresses no writable bit does nothing (R7). -/
def State.bar4Access (s : State) (a width v : Nat) : State :=
  let b := a - a % 8
  let x := (v % 2 ^ (8 * width)) <<< (8 * (a % 8))
  match accessMask a width, bar4Row b with
  | some m, some r =>
    if r.mask .rw &&& m = 0 then s.external 1
    else (s.external 1).bar4Write b (((s.bar4Shows b).toNat &&& (2 ^ 64 - 1 - m)) ||| (x &&& m))
  | _, _ => s.external 1

/-- PLAIN_REGISTER_WRITE (R10). -/
def execPlainRegisterWrite (src : Src) (addr width value : Nat) (s : State) : Out :=
  .next (if src = .host ∧ bar4Base ≤ addr then s.bar4Access (addr - bar4Base) width value else s.regWrite src addr width value)

end Sys2Proof.Machine
end

