-- ==== Sys2Proof/Machine/Porter.lean ====
section
/-! DEFINITION. The porter's messages (R380-R384) and the management view (R386). -/

namespace Sys2Proof.Machine

/-! Messages (R381, Tables 17-5 and 17-6). -/

/-- The porter runs (R365). -/
def State.porterOn (s : State) : Bool := decide (3 ≤ s.seqPhase)

/-- A request: header with STATUS zero, then the payload. -/
def porterMsg (seq op len count addr : Nat) (payload : Bytes) : Bytes :=
  natLe 2 seq ++ natLe 1 op ++ natLe 1 0 ++ natLe 2 len ++ natLe 2 count ++ natLe 8 addr ++ payload

/-- The fields of a message; the payload is what follows the header. -/
structure PorterReq where
  seq : Nat
  op : Nat
  len : Nat
  count : Nat
  addr : Nat
  payload : Bytes
  deriving DecidableEq, Repr

/-- Read a message. -/
def porterReq (m : Bytes) : PorterReq := ⟨rdLe m 0 2, rdLe m 2 1, rdLe m 4 2, rdLe m 6 2, rdLe m 8 8, m.drop 16⟩

/-- LEN and COUNT agree with Table 17-6, and the payload has LEN bytes. -/
def PorterReq.sized (r : PorterReq) : Bool :=
  let some1 (n : Nat) : Bool := decide (1 ≤ r.count) && decide (r.count ≤ n)
  r.payload.length == r.len &&
    match r.op with
    | 1 => r.len == 0 && some1 32
    | 2 => r.len == 8 * r.count && some1 32
    | 4 => r.len == 8 && r.count == 0
    | 5 => r.len == 48 && r.count == 0
    | 7 => r.len == 0 && some1 8
    | _ => r.len == 0 && r.count == 0

/-- A response: the request's header with STATUS, and the response payload. -/
def porterAnswer (m : Bytes) (status : Nat) (payload : Bytes) : Bytes :=
  padTo 3 m ++ natLe 1 status ++ padTo 12 (m.drop 4) ++ payload

/-! Register accesses. -/

/-- REG_READ: `count` registers from `addr`. -/
def State.porterRead (s : State) (addr count : Nat) : State × Bytes :=
  (List.range count).foldl (fun (r : State × Bytes) i =>
    let x := r.1.regRead .porter (addr + 8 * i) 8
    (x.1, r.2 ++ natLe 8 x.2.toNat)) (s, [])

/-- REG_WRITE: words to consecutive registers. -/
def State.porterWrite (s : State) (addr count : Nat) (payload : Bytes) : State :=
  forEach (List.range count) (fun i s => s.regWrite .porter (addr + 8 * i) 8 (rdLe payload (8 * i) 8)) s

/-! Management view (R386). -/

/-- Units that have a view entry: level L2 to L5. -/
def State.viewUnit (s : State) (w : Nat) : Option Unit6 :=
  match s.parseUnit w with
  | some u => if 2 ≤ u.level ∧ u.level ≤ 5 then some u else none
  | none => none

/-- The entry of a unit. -/
def State.viewOf (s : State) (u : Unit6) : Option View := s.porter.views.find? fun v => v.unit == viewKey u

/-- The sector of a unit is gated. -/
def State.unitGated (s : State) (u : Unit6) : Bool := decide (u.level ≤ 4) && s.fld (sectorReg (u.die * 4 + u.sector)) 16 16 == 1

/-- The unit's block or die is fenced. -/
def State.unitFenced (s : State) (u : Unit6) : Bool := s.dieFenced u.die || (decide (u.level ≤ 3) && (s.block u.blockOf).fenced)

/-- Data-path state: 0 unstructured, 1 active, 2 idle spare, 3 retired, 4 fenced, 5 gated. -/
def State.unitState (s : State) (u : Unit6) : Nat :=
  if u.level = 2 ∧ (s.ltile u.logical).idState = 3 then 3
  else if s.unitGated u then 5
  else if s.unitFenced u then 4
  else if u.level = 2 then (s.ltile u.logical).idState
  else b2n (s.die u.die).structured

/-- The record that VIEW_READ returns. -/
def State.viewRecord (s : State) (u : Unit6) : Bytes :=
  let st := s.unitState u
  let e := s.viewOf u
  let view := match e with | none => 0 | some v => if v.retire then 1 else 2
  let disagree := match e with
    | none => false
    | some v => if v.retire then st == 1 else st == 3 || st == 4 || st == 5
  natLe 8 (s.reportAddr u) ++ natLe 1 view ++ zeros 3 ++ natLe 4 ((e.map View.epoch).getD 0) ++ natLe 1 st ++ zeros 3 ++
    natLe 4 (if (s.die u.die).structured then s.ownerEpoch (s.unitOwner u) else 0) ++ natLe 1 (b2n disagree) ++ zeros 7

/-- VIEW_SET: the entry of a unit is written or replaced; none where the table is full. -/
def State.viewPut (s : State) (u : Unit6) (retire : Bool) : Option State :=
  let v : View := ⟨viewKey u, retire, s.ownerEpoch (s.unitOwner u)⟩
  let l := s.porter.views
  if l.any fun x => x.unit == v.unit then
    some (s.withPorter { s.porter with views := l.map fun x => if x.unit == v.unit then v else x })
  else if 256 ≤ l.length then none
  else some (s.withPorter { s.porter with views := l ++ [v] })

/-! Keys (R384). -/

/-- Replace a key slot. -/
def State.withKey (s : State) (k : Nat) (x : KeySlot) : State := s.withPorter { s.porter with keys := s.porter.keys.set k x }

/-- KEY_PROGRAM, or KEY_REVOKE without a hash: STATUS. -/
def State.keyStatus (s : State) (sender : Sender) (k : Nat) (program : Bool) : Nat :=
  let x := nth s.porter.keys k ⟨[], false, false⟩
  if sender ≠ .i3c then 4
  else if 2 ≤ k then 6
  else if s.committing then 5
  else if program then (if x.programmed then 4 else 0)
  else if ¬ x.programmed ∨ x.revoked then 4
  else 0

/-- Blow the fuses of a slot. -/
def State.keyBlow (s : State) (k : Nat) (hash : Option Bytes) : State :=
  let x := nth s.porter.keys k ⟨[], false, false⟩
  match hash with
  | some h => s.withKey k { x with hash := h, programmed := true }
  | none => s.withKey k { x with revoked := true }

/-! Trace regions. -/

/-- A range of device addresses lies in a committed trace region. -/
def State.inTrace (s : State) (a n : Nat) : Bool :=
  decide (a < 2 ^ 40) && (traceRegions s.commit.pkg).any fun x =>
    x.2.stacks.contains (devStack a) && decide (x.2.base * unitBytes ≤ devOff a) &&
      decide (devOff a + n ≤ (x.2.base + x.2.size) * unitBytes)

/-! Serving (R381, R382). -/

/-- A view command on a unit: `f` is its effect, `g` its response payload; BUSY where there is no room, BAD_ADDRESS where the unit has no
entry. -/
def State.porterView (s : State) (w : Nat) (f : Unit6 → Option State) (g : Unit6 → Bytes) : State × Nat × Bytes :=
  match s.viewUnit w with
  | some u =>
    match f u with
    | some t => (t, 0, g u)
    | none => (s, 5, [])
  | none => (if (s.parseUnit w).isNone then s.bump Reg.porBadUnitCnt else s, 3, [])

/-- A key command on a slot. -/
def State.porterKey (s : State) (sender : Sender) (k : Nat) (hash : Option Bytes) : State × Nat × Bytes :=
  let st := s.keyStatus sender k hash.isSome
  (if st = 0 then s.keyBlow k hash else s, st, [])

/-- TRACE_READ. -/
def State.porterTrace (s : State) (a n : Nat) : State × Nat × Bytes :=
  if a % 32 = 0 ∧ s.inTrace a n then
    let x := s.hbmRead (devStack a) (devOff a) n false 0
    (x.1, 0, x.2.1)
  else (s, 6, [])

/-- What a request of legal size answers: state, STATUS, response payload. -/
def State.porterDo (s : State) (sender : Sender) (r : PorterReq) : State × Nat × Bytes :=
  match r.op with
  | 1 => ((s.porterRead r.addr r.count).1, 0, (s.porterRead r.addr r.count).2)
  | 2 => (s.porterWrite r.addr r.count r.payload, 0, [])
  | 3 => s.porterView r.addr (fun _ => some s) s.viewRecord
  | 4 => s.porterView r.addr (fun u => s.viewPut u (bit (rdLe r.payload 0 8) 0)) (fun _ => [])
  | 5 => s.porterKey sender r.addr (some r.payload)
  | 6 => s.porterKey sender r.addr none
  | _ => s.porterTrace r.addr (32 * r.count)

/-- A request of any form. -/
def State.porterRun (s : State) (sender : Sender) (r : PorterReq) : State × Nat × Bytes :=
  if r.op = 0 ∨ 8 ≤ r.op then (s, 1, []) else if r.sized then s.porterDo sender r else (s, 2, [])

/-- Keep a sender's last SEQ and response; of 16 senders the oldest gives way. -/
def keepSender (l : List (Sender × Nat × Bytes)) (sender : Sender) (seq : Nat) (ans : Bytes) : List (Sender × Nat × Bytes) :=
  let rest := l.filter fun x => x.1 != sender
  (if 16 ≤ rest.length then rest.drop 1 else rest) ++ [(sender, seq, ans)]

/-- The response kept for a sender whose last SEQ this was. -/
def State.keptAnswer (s : State) (sender : Sender) (seq : Nat) : Option Bytes :=
  (s.porter.senders.find? fun x => x.1 == sender && x.2.1 == seq).map (·.2.2)

/-- A message is served: a repeat is answered with the kept response, any other is executed. -/
def State.porterServe (s : State) (sender : Sender) (m : Bytes) : State :=
  let r := porterReq m
  match s.keptAnswer sender r.seq with
  | some a => (s.bump Reg.porMsgDupCnt).emit (.porterReply sender a)
  | none =>
    let x := s.porterRun sender r
    let a := porterAnswer m x.2.1 x.2.2
    (x.1.withPorter { x.1.porter with senders := keepSender x.1.porter.senders sender r.seq a }).emit (.porterReply sender a)

/-- A TRACE_READ of bytes under repair waits (R340). -/
def State.porterWaits (s : State) (m : Bytes) : Bool :=
  let r := porterReq m
  r.op == 7 && s.hbmHeld (devStack r.addr) (devOff r.addr) (32 * r.count)

/-- The oldest waiting message is served, if any and if it need not wait. -/
def State.porterTurn (s : State) : State :=
  match s.porter.queue with
  | [] => s
  | (sender, m) :: q => if s.porterWaits m then s else (s.withPorter { s.porter with queue := q }).porterServe sender m

/-- Every message that waited is served, in order. -/
def State.porterDrain (s : State) : State := forEach (List.range s.porter.queue.length) (fun _ s => s.porterTurn) s

/-- A message arrives: while 8 wait, a datagram is discarded and counted, and the I3C target does not acknowledge. -/
def State.porterArrives (s : State) (sender : Sender) (m : Bytes) : State :=
  if s.porter.queue.length < 8 then s.withPorter { s.porter with queue := s.porter.queue ++ [(sender, m)] }
  else if sender = .i3c then s
  else s.bump Reg.porMsgDropCnt

/-- A request that is served at once, after those that waited. -/
def State.porterRequest (s : State) (sender : Sender) (m : Bytes) : State :=
  if s.porterOn then (s.porterDrain.porterArrives sender m).porterTurn else s

/-- PORTER_MESSAGE: a message waits for the porter. -/
def execPorterMessage (sender : Sender) (msg : Bytes) (s : State) : Out :=
  .next (if s.porterOn then s.porterArrives sender msg else s)

/-- REG_READ. -/
def execRegRead (sender : Sender) (seq addr count : Nat) (s : State) : Out :=
  .next (s.porterRequest sender (porterMsg seq 1 0 count addr []))

/-- REG_WRITE. -/
def execRegWrite (sender : Sender) (seq addr : Nat) (data : List Nat) (s : State) : Out :=
  .next (s.porterRequest sender (porterMsg seq 2 (8 * data.length) data.length addr (data.flatMap (natLe 8))))

/-- VIEW_READ. -/
def execViewRead (sender : Sender) (seq unit : Nat) (s : State) : Out := .next (s.porterRequest sender (porterMsg seq 3 0 0 unit []))

/-- VIEW_SET. -/
def execViewSet (sender : Sender) (seq unit : Nat) (retire : Bool) (s : State) : Out :=
  .next (s.porterRequest sender (porterMsg seq 4 8 0 unit (natLe 8 (b2n retire))))

/-- KEY_PROGRAM. -/
def execKeyProgram (sender : Sender) (seq slot : Nat) (hash : Bytes) (s : State) : Out :=
  .next (s.porterRequest sender (porterMsg seq 5 hash.length 0 slot hash))

/-- KEY_REVOKE. -/
def execKeyRevoke (sender : Sender) (seq slot : Nat) (s : State) : Out := .next (s.porterRequest sender (porterMsg seq 6 0 0 slot []))

/-- TRACE_READ. -/
def execTraceRead (sender : Sender) (seq addr count : Nat) (s : State) : Out :=
  .next (s.porterRequest sender (porterMsg seq 7 0 count addr []))

/-- NEIGHBOUR_DISCOVERY: the porter answers for its own address. -/
def execNeighbourDiscovery (target : Nat) (s : State) : Out :=
  .next (if s.porterOn ∧ target = Config.porterAddress then s.emit (.neighbourAdvert target) else s)

end Sys2Proof.Machine
end

