-- ==== Sys2Proof/Machine/Dispatch.lean ====
section
/-! DEFINITION. One arm per command: its meaning, or its refusal by name. -/

namespace Sys2Proof.Machine

def exec (i : Instr) (s : State) : Host.Outcome State Fault Refusal :=
  match i with
  | .plainRegisterWrite src addr width value => Sys2Proof.Machine.execPlainRegisterWrite src addr width value s
  | .rcRegisterRead src addr width => Sys2Proof.Machine.execRcRegisterRead src addr width s
  | .latticeSlot owner => Sys2Proof.Machine.execLatticeSlot owner s
  | .meshFlitForward st out => Sys2Proof.Machine.execMeshFlitForward st out s
  | .start src => Sys2Proof.Machine.execStart src s
  | .abort src => Sys2Proof.Machine.execAbort src s
  | .transferDone image failed => Sys2Proof.Machine.execTransferDone image failed s
  | .prepareComplete => Sys2Proof.Machine.execPrepareComplete s
  | .latchLead => Sys2Proof.Machine.execLatchLead s
  | .latch => Sys2Proof.Machine.execLatch s
  | .tileStateCopyEnd => Sys2Proof.Machine.execTileStateCopyEnd s
  | .scrubPass die upsets => Sys2Proof.Machine.execScrubPass die upsets s
  | .descriptorFetch t c which upset => Sys2Proof.Machine.execDescriptorFetch t c which upset s
  | .descriptorIssue t => Sys2Proof.Machine.execDescriptorIssue t s
  | .loopIteration t c upset => Sys2Proof.Machine.execLoopIteration t c upset s
  | .descriptorComplete t c => Sys2Proof.Machine.execDescriptorComplete t c s
  | .summarySlotWrite t slot => Sys2Proof.Machine.execSummarySlotWrite t slot s
  | .selectResolve t c => Sys2Proof.Machine.execSelectResolve t c s
  | .graphStart t => Sys2Proof.Machine.execGraphStart t s
  | .periodicStart t timer => Sys2Proof.Machine.execPeriodicStart t timer s
  | .lateStart t timer => Sys2Proof.Machine.execLateStart t timer s
  | .handlerStart t => Sys2Proof.Machine.execHandlerStart t s
  | .stop src t => Sys2Proof.Machine.execStop src t s
  | .dscCntSelect src t id value => Sys2Proof.Machine.execDscCntSelect src t id value s
  | .dscCntAdd src t id value => Sys2Proof.Machine.execDscCntAdd src t id value s
  | .dscCntSet src t id value => Sys2Proof.Machine.execDscCntSet src t id value s
  | .nop t c => Sys2Proof.Machine.execNop t c s
  | .select t c => Sys2Proof.Machine.execSelect t c s
  | .setmode t c => Sys2Proof.Machine.execSetmode t c s
  | .cmpset t c => Sys2Proof.Machine.execCmpset t c s
  | .cntset t c => Sys2Proof.Machine.execCntset t c s
  | .periodic t c => Sys2Proof.Machine.execPeriodic t c s
  | .trigger t c => Sys2Proof.Machine.execTrigger t c s
  | .mma t c => Sys2Proof.Machine.execMma t c s
  | .gangResume t => Sys2Proof.Machine.execGangResume t s
  | .prune t c => Sys2Proof.Machine.execPrune t c s
  | .add t c => Sys2Proof.Machine.execAdd t c s
  | .sub t c => Sys2Proof.Machine.execSub t c s
  | .mul t c => Sys2Proof.Machine.execMul t c s
  | .fma t c => Sys2Proof.Machine.execFma t c s
  | .min t c => Sys2Proof.Machine.execMin t c s
  | .max t c => Sys2Proof.Machine.execMax t c s
  | .abs t c => Sys2Proof.Machine.execAbs t c s
  | .neg t c => Sys2Proof.Machine.execNeg t c s
  | .cmpeq t c => Sys2Proof.Machine.execCmpeq t c s
  | .cmpne t c => Sys2Proof.Machine.execCmpne t c s
  | .cmplt t c => Sys2Proof.Machine.execCmplt t c s
  | .cmple t c => Sys2Proof.Machine.execCmple t c s
  | .selectVector t c => Sys2Proof.Machine.execSelectVector t c s
  | .exp2 t c => Sys2Proof.Machine.execExp2 t c s
  | .log2 t c => Sys2Proof.Machine.execLog2 t c s
  | .rcp t c => Sys2Proof.Machine.execRcp t c s
  | .rsqrt t c => Sys2Proof.Machine.execRsqrt t c s
  | .cvt t c => Sys2Proof.Machine.execCvt t c s
  | .and t c => Sys2Proof.Machine.execAnd t c s
  | .or t c => Sys2Proof.Machine.execOr t c s
  | .xor t c => Sys2Proof.Machine.execXor t c s
  | .not t c => Sys2Proof.Machine.execNot t c s
  | .shl t c => Sys2Proof.Machine.execShl t c s
  | .shr t c => Sys2Proof.Machine.execShr t c s
  | .popcnt t c => Sys2Proof.Machine.execPopcnt t c s
  | .gfmul t c => Sys2Proof.Machine.execGfmul t c s
  | .gfmulc t c => Sys2Proof.Machine.execGfmulc t c s
  | .gfmac t c => Sys2Proof.Machine.execGfmac t c s
  | .gfinv t c => Sys2Proof.Machine.execGfinv t c s
  | .topk t c => Sys2Proof.Machine.execTopk t c s
  | .stsum t c => Sys2Proof.Machine.execStsum t c s
  | .copy t c => Sys2Proof.Machine.execCopy t c s
  | .fill t c => Sys2Proof.Machine.execFill t c s
  | .ocload t c => Sys2Proof.Machine.execOcload t c s
  | .ocevict t c => Sys2Proof.Machine.execOcevict t c s
  | .rload t c => Sys2Proof.Machine.execRload t c s
  | .rstore t c => Sys2Proof.Machine.execRstore t c s
  | .rfadd t c => Sys2Proof.Machine.execRfadd t c s
  | .rcas t c => Sys2Proof.Machine.execRcas t c s
  | .racc t c => Sys2Proof.Machine.execRacc t c s
  | .rfpadd t c => Sys2Proof.Machine.execRfpadd t c s
  | .accsum t c mismatches => Sys2Proof.Machine.execAccsum t c mismatches s
  | .accread t c => Sys2Proof.Machine.execAccread t c s
  | .accclr t c => Sys2Proof.Machine.execAccclr t c s
  | .accstore t c => Sys2Proof.Machine.execAccstore t c s
  | .accload t c => Sys2Proof.Machine.execAccload t c s
  | .ssort t c => Sys2Proof.Machine.execSsort t c s
  | .sgather t c => Sys2Proof.Machine.execSgather t c s
  | .sfilter t c => Sys2Proof.Machine.execSfilter t c s
  | .sminmax t c => Sys2Proof.Machine.execSminmax t c s
  | .deferredExactAdd t slot => Sys2Proof.Machine.execDeferredExactAdd t slot s
  | .allred t c => Sys2Proof.Machine.execAllred t c s
  | .redscat t c => Sys2Proof.Machine.execRedscat t c s
  | .allgath t c => Sys2Proof.Machine.execAllgath t c s
  | .bcast t c => Sys2Proof.Machine.execBcast t c s
  | .barrier t c => Sys2Proof.Machine.execBarrier t c s
  | .alltoall t c => Sys2Proof.Machine.execAlltoall t c s
  | .alltoallv t c => Sys2Proof.Machine.execAlltoallv t c s
  | .sortmerge t c => Sys2Proof.Machine.execSortmerge t c s
  | .filtcomp t c => Sys2Proof.Machine.execFiltcomp t c s
  | .parenc t c => Sys2Proof.Machine.execParenc t c s
  | .parreb t c => Sys2Proof.Machine.execParreb t c s
  | .commitList src e newEpoch => Sys2Proof.Machine.execCommitList src e newEpoch s
  | .listCommitDone e readBad => Sys2Proof.Machine.execListCommitDone e readBad s
  | .invalidate src e => Sys2Proof.Machine.execInvalidate src e s
  | .contribution f => Sys2Proof.Machine.execContribution f s
  | .partialMsg f => Sys2Proof.Machine.execPartialMsg f s
  | .result f => Sys2Proof.Machine.execResult f s
  | .credit f => Sys2Proof.Machine.execCredit f s
  | .abortMessage f => Sys2Proof.Machine.execAbortMessage f s
  | .heartbeatMessage f => Sys2Proof.Machine.execHeartbeatMessage f s
  | .sizeCountMessage f => Sys2Proof.Machine.execSizeCountMessage f s
  | .barrierMessage f => Sys2Proof.Machine.execBarrierMessage f s
  | .windowClose e seq w => Sys2Proof.Machine.execWindowClose e seq w s
  | .instanceComplete e seq t => Sys2Proof.Machine.execInstanceComplete e seq t s
  | .memberLate e seq => Sys2Proof.Machine.execMemberLate e seq s
  | .heartbeat => Sys2Proof.Machine.execHeartbeat s
  | .memberLost e node => Sys2Proof.Machine.execMemberLost e node s
  | .epochAheadRepeat e => Sys2Proof.Machine.execEpochAheadRepeat e s
  | .groupReceive p block => Sys2Proof.Machine.execGroupReceive p block s
  | .timeSetReceive p block => Sys2Proof.Machine.execTimeSetReceive p block s
  | .creditInit p block => Sys2Proof.Machine.execCreditInit p block s
  | .linkState p block => Sys2Proof.Machine.execLinkState p block s
  | .timeSetSend p => Sys2Proof.Machine.execTimeSetSend p s
  | .timeSetTimeout p => Sys2Proof.Machine.execTimeSetTimeout p s
  | .replayTimeout p => Sys2Proof.Machine.execReplayTimeout p s
  | .holdExpiry p cls => Sys2Proof.Machine.execHoldExpiry p cls s
  | .pauseFrame p quanta => Sys2Proof.Machine.execPauseFrame p quanta s
  | .pfcFrame p enable quanta => Sys2Proof.Machine.execPfcFrame p enable quanta s
  | .pauseExpiry p cls => Sys2Proof.Machine.execPauseExpiry p cls s
  | .linkTrainingDone p lanesInOrder preemptVerified => Sys2Proof.Machine.execLinkTrainingDone p lanesInOrder preemptVerified s
  | .trainingTimeout p => Sys2Proof.Machine.execTrainingTimeout p s
  | .retrain p cause => Sys2Proof.Machine.execRetrain p cause s
  | .berWindow n lanes bits => Sys2Proof.Machine.execBerWindow n lanes bits s
  | .frameArrival p f fcsOk => Sys2Proof.Machine.execFrameArrival p f fcsOk s
  | .cellSlot p => Sys2Proof.Machine.execCellSlot p s
  | .localDelivery p cls => Sys2Proof.Machine.execLocalDelivery p cls s
  | .echoReceive n f => Sys2Proof.Machine.execEchoReceive n f s
  | .rateIncrease n => Sys2Proof.Machine.execRateIncrease n s
  | .pauseRefresh p => Sys2Proof.Machine.execPauseRefresh p s
  | .holdRefresh p => Sys2Proof.Machine.execHoldRefresh p s
  | .sampleCtrlWrite src p value => Sys2Proof.Machine.execSampleCtrlWrite src p value s
  | .dirtyZeroed unit => Sys2Proof.Machine.execDirtyZeroed unit s
  | .punPkReturn src n ptr => Sys2Proof.Machine.execPunPkReturn src n ptr s
  | .punPkQuarRelease src n ptr => Sys2Proof.Machine.execPunPkQuarRelease src n ptr s
  | .punHmAlloc src k ix => Sys2Proof.Machine.execPunHmAlloc src k ix s
  | .punHmFree src k addr => Sys2Proof.Machine.execPunHmFree src k addr s
  | .punHmRef src k addr => Sys2Proof.Machine.execPunHmRef src k addr s
  | .punHmQuarRelease src k addr => Sys2Proof.Machine.execPunHmQuarRelease src k addr s
  | .punnetEnable src k ix value => Sys2Proof.Machine.execPunnetEnable src k ix value s
  | .punnetDisable src k ix value => Sys2Proof.Machine.execPunnetDisable src k ix value s
  | .shutterArm src p => Sys2Proof.Machine.execShutterArm src p s
  | .shutterCancel src p => Sys2Proof.Machine.execShutterCancel src p s
  | .shutterTakeover p => Sys2Proof.Machine.execShutterTakeover p s
  | .shutterEntry p => Sys2Proof.Machine.execShutterEntry p s
  | .bucketConfigWrite src p policer c value => Sys2Proof.Machine.execBucketConfigWrite src p policer c value s
  | .ftmStep src delta => Sys2Proof.Machine.execFtmStep src delta s
  | .obsSample n => Sys2Proof.Machine.execObsSample n s
  | .schObsClear src n => Sys2Proof.Machine.execSchObsClear src n s
  | .routeArm src n => Sys2Proof.Machine.execRouteArm src n s
  | .routeCancel src n => Sys2Proof.Machine.execRouteCancel src n s
  | .routeLatch n => Sys2Proof.Machine.execRouteLatch n s
  | .rteDrain src p value => Sys2Proof.Machine.execRteDrain src p value s
  | .requestLoad f upset => Sys2Proof.Machine.execRequestLoad f upset s
  | .requestStore f upset => Sys2Proof.Machine.execRequestStore f upset s
  | .requestFetchAdd f upset => Sys2Proof.Machine.execRequestFetchAdd f upset s
  | .requestCompareSwap f upset => Sys2Proof.Machine.execRequestCompareSwap f upset s
  | .requestExactAdd f mismatches localBusy => Sys2Proof.Machine.execRequestExactAdd f mismatches localBusy s
  | .requestFp32Add f upset => Sys2Proof.Machine.execRequestFp32Add f upset s
  | .requestSignal f => Sys2Proof.Machine.execRequestSignal f s
  | .requestTrigger f => Sys2Proof.Machine.execRequestTrigger f s
  | .responseReceive f => Sys2Proof.Machine.execResponseReceive f s
  | .requestRetry t reqId => Sys2Proof.Machine.execRequestRetry t reqId s
  | .detEnter src => Sys2Proof.Machine.execDetEnter src s
  | .detActive => Sys2Proof.Machine.execDetActive s
  | .detExit src => Sys2Proof.Machine.execDetExit src s
  | .barrierArm src => Sys2Proof.Machine.execBarrierArm src s
  | .barrierCancel src => Sys2Proof.Machine.execBarrierCancel src s
  | .barrierRelease => Sys2Proof.Machine.execBarrierRelease s
  | .policyWrite src loop value => Sys2Proof.Machine.execPolicyWrite src loop value s
  | .policyOverride loop unit => Sys2Proof.Machine.execPolicyOverride loop unit s
  | .hbmTrained k passed => Sys2Proof.Machine.execHbmTrained k passed s
  | .hbmAccess k off op upset => Sys2Proof.Machine.execHbmAccess k off op upset s
  | .hbmRowRepaired k => Sys2Proof.Machine.execHbmRowRepaired k s
  | .patrolRead k upset => Sys2Proof.Machine.execPatrolRead k upset s
  | .refresh k temp => Sys2Proof.Machine.execRefresh k temp s
  | .chkArm src unit value => Sys2Proof.Machine.execChkArm src unit value s
  | .chkClose src unit value => Sys2Proof.Machine.execChkClose src unit value s
  | .chkBlockEnd unit upset => Sys2Proof.Machine.execChkBlockEnd unit upset s
  | .tileReset src unit => Sys2Proof.Machine.execTileReset src unit s
  | .blockReset src unit => Sys2Proof.Machine.execBlockReset src unit s
  | .sectorReset src unit => Sys2Proof.Machine.execSectorReset src unit s
  | .dieReset src unit => Sys2Proof.Machine.execDieReset src unit s
  | .partitionReset src owner => Sys2Proof.Machine.execPartitionReset src owner s
  | .resetComplete scope => Sys2Proof.Machine.execResetComplete scope s
  | .pop src => Sys2Proof.Machine.execPop src s
  | .blockFenced block => Sys2Proof.Machine.execBlockFenced block s
  | .sectorGated sector => Sys2Proof.Machine.execSectorGated sector s
  | .dieFenced die => Sys2Proof.Machine.execDieFenced die s
  | .spareLost die segment => Sys2Proof.Machine.execSpareLost die segment s
  | .packageReset ns => Sys2Proof.Machine.execPackageReset ns s
  | .pkgResetDeassert lands unstable => Sys2Proof.Machine.execPkgResetDeassert lands unstable s
  | .keepLock => Sys2Proof.Machine.execKeepLock s
  | .refLost => Sys2Proof.Machine.execRefLost s
  | .refclkReturn => Sys2Proof.Machine.execRefclkReturn s
  | .porterRunning => Sys2Proof.Machine.execPorterRunning s
  | .regulatorEnable => Sys2Proof.Machine.execRegulatorEnable s
  | .pwrGood => Sys2Proof.Machine.execPwrGood s
  | .pciePerstDeassert => Sys2Proof.Machine.execPciePerstDeassert s
  | .boot header => Sys2Proof.Machine.execBoot header s
  | .bootTimeout => Sys2Proof.Machine.execBootTimeout s
  | .imageServeRequest p => Sys2Proof.Machine.execImageServeRequest p s
  | .vinLow => Sys2Proof.Machine.execVinLow s
  | .regFault => Sys2Proof.Machine.execRegFault s
  | .vauxLow => Sys2Proof.Machine.execVauxLow s
  | .blockSleep b => Sys2Proof.Machine.execBlockSleep b s
  | .blockDeepSleep b => Sys2Proof.Machine.execBlockDeepSleep b s
  | .blockWake b => Sys2Proof.Machine.execBlockWake b s
  | .wakeComplete b => Sys2Proof.Machine.execWakeComplete b s
  | .vfStepUp b currentMargin => Sys2Proof.Machine.execVfStepUp b currentMargin s
  | .vfStepDown => Sys2Proof.Machine.execVfStepDown s
  | .powerSample watts sectors => Sys2Proof.Machine.execPowerSample watts sectors s
  | .keepRequest src => Sys2Proof.Machine.execKeepRequest src s
  | .runRequest src => Sys2Proof.Machine.execRunRequest src s
  | .thermalSample temps stackTemps => Sys2Proof.Machine.execThermalSample temps stackTemps s
  | .tempMaxClear src die sensor => Sys2Proof.Machine.execTempMaxClear src die sensor s
  | .functionLevelReset => Sys2Proof.Machine.execFunctionLevelReset s
  | .sqTail q value => Sys2Proof.Machine.execSqTail q value s
  | .startQueueEntry q entry readFailed => Sys2Proof.Machine.execStartQueueEntry q entry readFailed s
  | .trigBusyReoffer q => Sys2Proof.Machine.execTrigBusyReoffer q s
  | .hrqHead q value => Sys2Proof.Machine.execHrqHead q value s
  | .queueEnable receive q value => Sys2Proof.Machine.execQueueEnable receive q value s
  | .msixUnmask vector => Sys2Proof.Machine.execMsixUnmask vector s
  | .bar2Access off write len data upset => Sys2Proof.Machine.execBar2Access off write len data upset s
  | .porterMessage sender msg => Sys2Proof.Machine.execPorterMessage sender msg s
  | .regRead sender seq addr count => Sys2Proof.Machine.execRegRead sender seq addr count s
  | .regWrite sender seq addr data => Sys2Proof.Machine.execRegWrite sender seq addr data s
  | .viewRead sender seq unit => Sys2Proof.Machine.execViewRead sender seq unit s
  | .viewSet sender seq unit retire => Sys2Proof.Machine.execViewSet sender seq unit retire s
  | .keyProgram sender seq slot hash => Sys2Proof.Machine.execKeyProgram sender seq slot hash s
  | .keyRevoke sender seq slot => Sys2Proof.Machine.execKeyRevoke sender seq slot s
  | .traceRead sender seq addr count => Sys2Proof.Machine.execTraceRead sender seq addr count s
  | .neighbourDiscovery target => Sys2Proof.Machine.execNeighbourDiscovery target s
  | .peeFreeze src dies => Sys2Proof.Machine.execPeeFreeze src dies s
  | .bypass => Sys2Proof.Machine.execBypass s
  | .idcode => Sys2Proof.Machine.execIdcode s
  | .samplePreload => Sys2Proof.Machine.execSamplePreload s
  | .extest => Sys2Proof.Machine.execExtest s
  | .clamp => Sys2Proof.Machine.execClamp s
  | .highz => Sys2Proof.Machine.execHighz s
  | .extestPulse => Sys2Proof.Machine.execExtestPulse s
  | .extestTrain => Sys2Proof.Machine.execExtestTrain s
  | .testLogicReset => Sys2Proof.Machine.execTestLogicReset s
  | .vauxRestored lands unstable => Sys2Proof.Machine.execVauxRestored lands unstable s
  | .traceStore die => Sys2Proof.Machine.execTraceStore die s
  | .imageServeRefusal p => Sys2Proof.Machine.execImageServeRefusal p s
  | .ptpEventMessageSend p msg => Sys2Proof.Machine.execPtpEventMessageSend p msg s

end Sys2Proof.Machine
end

