-- ==== Sys2Proof/Machine/Tick.lean ====
section
/-! DEFINITION. One KCLK period with no command waiting: fabric time, counters of time, token buckets, one porter
message, and the events whose time has come (log entry 1). -/

namespace Sys2Proof.Machine

/-! Clocks (R265). -/



/-- Fabric time advances by 64 units, corrected by ADJ / 2^38 of a unit. -/
def State.timePasses (s : State) : State :=
  let x : Int := (s.clk.frac : Int) + sgn 32 (s.fld (pdReg 0 Reg.ftmRate) 31 0)
  s.withClk { s.clk with
    ftm := s.clk.ftm + 64 + BitVec.ofInt 64 (x / (2 ^ 38 : Nat)), frac := (x % (2 ^ 38 : Nat)).toNat, kclk := s.clk.kclk + 1 }

/-! Token buckets (R258): 5 FCLK of refill. -/

/-- One bucket is refilled. -/
def State.refill (s : State) (e c : Nat) (policer : Bool) : State :=
  if s.bucketOn e c policer then
    let k := bucketKey c policer
    s.withTokens e k (min (s.burst e c policer : Int) (s.tokens e k + (5 * s.fld (bucketReg e c policer) 20 0 : Nat)))
  else s

/-- Every bucket of every port. -/
def State.refillAll (s : State) : State :=
  forEach (List.range 128) (fun e s => forEach (List.range 8) (fun c s => (s.refill e c false).refill e c true) s) s

/-! Counters of time. -/

/-- DET_RUN_FCLK counts after a release (R300), and FCLK shared with another owner count (R306). -/
def State.runCounts (s : State) : State :=
  (if s.fld Reg.detBarrierStatus 1 1 = 1 then s.bumpBy Reg.detRunFclk 5 else s).countForeign 5

/-- A loop held at a bound counts the KCLK (R313). -/
def State.pinnedCounts (s : State) : State :=
  forEach [(0, Reg.detPinnedVf), (1, Reg.detPinnedRefresh), (2, Reg.detPinnedSerdes)] (fun x s =>
    if s.pins.pinned.any fun y => y.1 == x.1 then s.bump x.2 else s) s

/-- A KCLK above the power cap, or held at it (R357). -/
def State.capCounts (s : State) : State :=
  if s.pins.issueHalved ∨ s.fld Reg.pwrCap 12 0 ≤ s.fld Reg.pwrNow 12 0 then s.bump Reg.pwrCapCnt else s

/-- Idle and sleep timers of a block (R353). -/
def State.blockCounts (s : State) (b : Nat) : State :=
  s.modBlock b fun x => { x with
    idle := if s.blockState b = 3 ∧ s.blockQuiet b ∧ ¬ s.heldOpen b then x.idle + 1 else 0
    asleep := if s.blockState b ≤ 1 then x.asleep + 1 else 0 }

/-- What a KCLK in state RUN counts. -/
def State.counts (s : State) : State :=
  forEach (List.range 512) (fun b s => s.blockCounts b) s.refillAll.runCounts.pinnedCounts.capCounts

/-! Events that fall due: those whose deadline the state holds. -/

/-- Blocks that sleep or deepen their sleep (R353). -/
def State.dueBlocks (s : State) : List Instr :=
  (s.blocks.filter fun x => s.fld Reg.clkSleepTimeout 23 0 != 0 && decide (s.fld Reg.clkSleepTimeout 23 0 ≤ x.2.idle)).map
      (fun x => .blockSleep x.1) ++
    (s.blocks.filter fun x => s.blockState x.1 == 1 && decide (s.fld Reg.clkDeepAfter 23 0 ≤ x.2.asleep)).map
      fun x => .blockDeepSleep x.1



/-- Periodic starts, wakes 32 KCLK ahead of them, and requests without a response for 20 µs (R147, R293, R355). -/
def State.dueTiles (s : State) : List Instr :=
  s.tiles.flatMap fun y =>
    [0, 1].flatMap (fun k =>
      match y.2.timer k with
      | none => []
      | some x =>
        if x.due ≤ s.now then [.periodicStart y.1 k]
        else if x.due ≤ s.now + 2048 ∧ s.blockState (physBlock y.1) ≤ 1 then [.blockWake (physBlock y.1)]
        else []) ++
    (y.2.reqs.filter fun q => decide (q.sentAt + 20 * kclkPerUs ≤ s.clk.kclk)).map fun q => .requestRetry y.1 q.id

/-- Hold and pause timers, the replay timer, and the TIME sets of a port that are due or missing (R213, R222, R224, R225, R270). -/
def State.duePorts (s : State) : List Instr :=
  s.ports.flatMap fun y =>
    ((List.range 8).filter fun c => decide (0 < mapGet 0 c y.2.hold) && decide (mapGet 0 c y.2.hold ≤ s.clk.kclk)).map
        (fun c => if s.fabricPort y.1 then .holdExpiry y.1 c else .pauseExpiry y.1 c) ++
      (if ¬ y.2.replay.isEmpty ∧ y.2.ackAt + 25 * s.fld (pdReg (y.1 / 32) Reg.lnkReplayTimeout) 15 0 ≤ s.clk.kclk then
        [.replayTimeout y.1] else []) ++
      (if s.linkLive y.1 ∧ y.2.timeAt + s.fld (pdReg (y.1 / 32) Reg.lnkTimePeriod) 15 0 * kclkPerUs ≤ s.clk.kclk then
        [.timeSetSend y.1] else []) ++
      if s.portOn y.1 ∧ s.fabricPort y.1 ∧ s.fld (portReg y.1 Reg.ftmNbrStatus) 0 0 = 1 ∧
          y.2.lastTime + 4 * s.fld (pdReg (y.1 / 32) Reg.lnkTimePeriod) 15 0 * kclkPerUs ≤ s.clk.kclk then
        [.timeSetTimeout y.1] else []

/-- Neighbours of an entry in the tree. -/
def State.treeNear (s : State) (e : Nat) : List Nat :=
  let g := s.group e
  (if s.node = g.rootNode then [] else [treeNext g.rootNode s.node]) ++ g.children s.node

/-- Instances in flight whose watchdog expires, and neighbours silent for three heartbeat periods of one of them or not reached (R200,
R201). -/
def State.dueGroups (s : State) : List Instr :=
  s.groups.flatMap fun y =>
    ((s.inflight y.1).filter fun x => decide (x.startedAt + y.2.timeout * kclkPerUs ≤ s.clk.kclk)).map (fun x => .memberLate y.1 x.seq) ++
      ((s.treeNear y.1).filter fun n => y.2.lost.contains n || (s.inflight y.1).any fun x =>
        decide (max x.startedAt (mapGet 0 n y.2.heard - 1) + 3 * s.fld Reg.colHbPeriod 15 0 * kclkPerUs ≤ s.clk.kclk)).map
          fun n => .memberLost y.1 n

/-- The active shutter list of a port has come to another entry (R261). -/
def State.shutterDue (s : State) (p : Nat) : Bool :=
  let a := portReg p Reg.shuStatus
  s.fld a 0 0 == 1 && (s.fld a 10 3 != s.shuAt p false s.now || s.fld a 18 11 != s.shuOpenAt p false s.now)

/-- Takeovers, shutter entries, samples, route latches and the limiters' increase (R243, R261, R262, R273, R285). -/
def State.dueSwitch (s : State) : List Instr :=
  ((List.range 128).filter fun p => s.fld (portReg p Reg.shuStatus) 1 1 == 1 && decide ((s.reg (portReg p Reg.shuTakeover)).toNat ≤ s.now)).map
      Instr.shutterTakeover ++
    ((List.range 128).filter s.shutterDue).map Instr.shutterEntry ++
    ((List.range 4).filter fun n => s.fld Reg.pwrState 2 0 == 2 && s.obsDue n).map Instr.obsSample ++
    ((List.range 4).filter fun n => s.fld (pdReg n Reg.rteStatus) 0 0 == 1 && decide ((s.reg (pdReg n Reg.rteLatchTime)).toNat ≤ s.now)).map
      Instr.routeLatch ++
    ((List.range 4).filter fun n => (s.pdie n).limiters.any fun x =>
      decide (x.lastEcho + s.fld (pdReg n Reg.swiCcCtrl) 27 18 * kclkPerUs ≤ s.clk.kclk)).map Instr.rateIncrease

/-- The commit's lead and latch, the start barrier and the boot's limit (R53, R309, R355, R363). -/
def State.duePackage (s : State) : List Instr :=
  let lead := if s.commit.block then 3200000 else 800000
  let bar := (s.reg Reg.detBarrierTime).toNat
  (if s.phase = 4 ∧ s.commit.latchAt ≤ s.now + lead then [.latchLead] else []) ++
    (if s.phase = 5 ∧ s.commit.latchAt ≤ s.now then [.latch] else []) ++
    (if s.barrierArmed ∧ bar ≤ s.now then [.barrierRelease] else []) ++
    (if s.barrierArmed ∧ s.now < bar ∧ bar ≤ s.now + 2048 then
      ((s.activeTiles s.barrierOwner).map physBlock).dedup.filterMap fun b => if s.blockState b ≤ 1 then some (.blockWake b) else none
      else []) ++
    if s.pins.autoBoot ∧ bits s.pins.straps 15 14 = 2 ∧ s.pins.goodAt + 2500000000 ≤ s.clk.kclk then [.bootTimeout] else []

/-- Every event that is due. -/
def State.due (s : State) : List Instr :=
  s.duePackage ++ s.dueSwitch ++ s.duePorts ++ s.dueGroups ++ s.dueTiles ++ s.dueBlocks

/-! The period. -/

/-- What happens in one KCLK period: time passes, the counters of state RUN count, and the porter serves one message. -/
def State.period (s : State) : State :=
  let s1 := s.timePasses
  let s2 := if s1.fld Reg.pwrState 2 0 = 2 then s1.counts else s1
  if s2.porterOn then s2.porterTurn else s2

/-- One KCLK period passes, and the commands that are then due wait in the queue. Before the keep PLL locks there is no KCLK. -/
def tick (s : State) : State := if ¬ s.keepLocked then s else s.period.withPending s.period.due

end Sys2Proof.Machine
end

