-- ==== Sys2Proof/Safety.lean ====
section
/-! DEFINITION. What a safe run is, and the form that every reachable state keeps, in the terms the statements use. -/

namespace Sys2Proof.Machine

/-- A state from which a step answers a next state: neither a fault nor a refusal. -/
def Goes (s : State) : Prop := ∃ t, step s = .next t

/-- The canonical form of a byte memory: addresses strictly rising, no entry equal to what an unlisted address reads as (log entry 2). -/
def Memory.wf (m : SMap Byte) : Bool := mapWf (fun _ => 0) m

/-- The tables of the state list their keys in rising order. -/
def State.ordered (s : State) : Bool :=
  keysFrom 0 s.regs && keysFrom 0 s.bar4 && keysFrom 0 s.tiles && keysFrom 0 s.dies && keysFrom 0 s.blocks && keysFrom 0 s.mesh &&
    keysFrom 0 s.ctrls && keysFrom 0 s.pdies && keysFrom 0 s.ports && keysFrom 0 s.voq && keysFrom 0 s.localQ && keysFrom 0 s.injQ &&
    keysFrom 0 s.groups && keysFrom 0 s.sqHeld && keysFrom 0 s.trace && keysFrom 0 s.chks

/-- The memories of tiles and HBM stacks are in canonical form. -/
def State.memories (s : State) : Bool := s.tiles.all (fun p => Memory.wf p.2.mem) && s.ctrls.all fun p => Memory.wf p.2.mem

/-- Queues and tables hold no more than the manual gives them: 1,024 fault records (R342), 8 porter messages (R381), 16 senders (R382),
256 view entries (R386), two key slots (R50), 256 buffered trace records of each unit (R389). -/
def State.bounded (s : State) : Bool :=
  decide (s.faults.queue.length ≤ 1024) && decide (s.porter.queue.length ≤ 8) && decide (s.porter.senders.length ≤ 16) &&
    decide (s.porter.views.length ≤ 256) && decide (s.porter.keys.length = 2) && s.trace.all fun p => decide (p.2.buffered.length ≤ 256)

/-- The form of a state: ordered tables, canonical memories, bounded queues. -/
def State.wf (s : State) : Bool := s.ordered && s.memories && s.bounded

/-- A key slot keeps what is blown: a programmed slot its hash, a revoked slot its revocation (R384). -/
def KeySlot.keeps (x y : KeySlot) : Bool := (!x.programmed || (y.programmed && y.hash == x.hash)) && (!x.revoked || y.revoked)

/-- Every slot of `a` is kept by the slot of `b` in its place. -/
def keysKept (a b : List KeySlot) : Bool := a.length == b.length && (a.zip b).all fun p => p.1.keeps p.2

/-! Registers. -/

/-- Access code of a bit of a register; none where the bit is reserved (R9, R10). -/
def RegRow.codeAt (r : RegRow) (i : Nat) : Option Access := (r.fields.find? fun f => decide (f.lo ≤ i) && decide (i ≤ f.hi)).map (·.acc)

/-- A bit after a write of `new` under an access code (Table 0-4). -/
def Access.after (c : Option Access) (old new : Bool) : Bool :=
  match c with
  | some .rw => new
  | some .w1c => old && !new
  | _ => old

/-- Package registers that a write acts on by their access codes alone. -/
def plainPackage : List Nat :=
  [Reg.porBar2Base, Reg.porIbiMask, Reg.clkSleepTimeout, Reg.pwrEvent, Reg.detStatus, Reg.detBarrierStatus, Reg.strCommitStatus, Reg.fltIrqCfg] ++
    (List.range 1024).map Reg.porIrqMap ++ (List.range 256).map Reg.colGrpCfg ++ (List.range 256).map Reg.colGrpList ++
    (List.range 256).map Reg.colGrpReduce

/-- Offsets of registers of a port die that a write acts on by their access codes alone. -/
def plainPortDie : List Nat :=
  [Reg.swiCcCtrl, Reg.swiDlbOff, Reg.swiVoqSel, Reg.schObsSel, Reg.rteStatus, Reg.rteLatchTime] ++ (List.range 8).map Reg.swiEcnThresh ++
    (List.range 32).map Reg.lnkPfcMap ++ (List.range 32).map Reg.shuStatus ++ (List.range 32).map Reg.shuGuard

/-- Addresses of the plain registers. -/
def plainRegister (a : Nat) : Prop := a ∈ plainPackage ∨ ∃ n, n < 4 ∧ ∃ off, off ∈ plainPortDie ∧ a = pdReg n off

/-! The two on-package networks. -/

/-- An owner's schedule is held by the state copy of a commit (R412). -/
def State.heldSchedule (s : State) (owner : Nat) : Bool := s.commit.copying.any fun o => o == 64 || o == owner

/-- The flits on the links of a tile, each one slot further on; those that could be used in this slot are gone. -/
def State.slotLinks (s : State) (t : Nat) : State :=
  s.modTile t fun x => { x with linkIn := (x.linkIn.filter (·.wait != 0)).map fun f => { f with wait := f.wait - 1 } }

/-- The end of a tile's slot: the next slot of its period, whose first slot clears what is noted once in a period. -/
def State.slotEnd (s : State) (t : Nat) (x : Tile) : Tile :=
  let wraps := (s.tile t).slotNo + 1 == s.schedPeriod (s.logicalOf t)
  { x with slotNo := if wraps then 0 else x.slotNo + 1, edgeNoted := x.edgeNoted && !wraps, runNoted := x.runNoted && !wraps }

/-- A tile after a slot in which it took nothing from a port and gave nothing to one. -/
def State.slotPassed (s : State) (t : Nat) : Tile :=
  s.slotEnd t { s.tile t with linkIn := ((s.tile t).linkIn.filter (·.wait != 0)).map fun f => { f with wait := f.wait - 1 } }

/-- The stop that a message for `dst` at stop `k` has reached after `n` hops. -/
def meshWalk : Nat → Nat → Nat → Nat
  | 0, k, _ => k
  | n + 1, k, dst => meshWalk n (stopNext k (stopRoute k dst)) dst

/-! Structure commits. -/

/-- The commit after its image has come: staged, or failed with the code and place of the first check that fails (R49, R52). -/
def State.judged (s : State) (b : Bytes) : State :=
  match s.verify b with
  | none => (s.showHeader b).stagePlan b (s.plan b)
  | some (2, w) => s.commitFails 2 w
  | some (code, w) => (s.showHeader b).commitFails code w

/-! Descriptors. -/

/-- A context runs the descriptor `d`, and the next iteration of it can go: its engine, its wait and its signal allow it (R129, R136,
R138). -/
abbrev State.iterates (s : State) (t c : Nat) (d : Bytes) : Prop :=
  (s.ctx t c).runner (some (dOp d)) = some (d, false) ∧ s.iterReady t c d false = true

/-- The iteration that a context runs next. -/
abbrev State.runNow (s : State) (t c : Nat) (d : Bytes) : Run := s.runOf t c d false

/-- Tile, context and opcode of the commands that run an iteration (Table 6-5); of ACCSUM's that with `n` residue mismatches. -/
def Instr.runs (n : Nat) : Instr → Option (Nat × Nat × Nat)
  | .accsum t c k => if k = n then some (t, c, 0x70) else none
  | .nop t c => some (t, c, 0x01) | .select t c => some (t, c, 0x02) | .setmode t c => some (t, c, 0x03)
  | .cmpset t c => some (t, c, 0x04) | .cntset t c => some (t, c, 0x05) | .periodic t c => some (t, c, 0x06)
  | .trigger t c => some (t, c, 0x07) | .mma t c => some (t, c, 0x10) | .prune t c => some (t, c, 0x11)
  | .add t c => some (t, c, 0x20) | .sub t c => some (t, c, 0x21) | .mul t c => some (t, c, 0x22)
  | .fma t c => some (t, c, 0x23) | .min t c => some (t, c, 0x24) | .max t c => some (t, c, 0x25)
  | .abs t c => some (t, c, 0x26) | .neg t c => some (t, c, 0x27) | .cmpeq t c => some (t, c, 0x28)
  | .cmpne t c => some (t, c, 0x29) | .cmplt t c => some (t, c, 0x2A) | .cmple t c => some (t, c, 0x2B)
  | .selectVector t c => some (t, c, 0x2C) | .exp2 t c => some (t, c, 0x2D) | .log2 t c => some (t, c, 0x2E)
  | .rcp t c => some (t, c, 0x2F) | .rsqrt t c => some (t, c, 0x30) | .cvt t c => some (t, c, 0x31)
  | .and t c => some (t, c, 0x32) | .or t c => some (t, c, 0x33) | .xor t c => some (t, c, 0x34)
  | .not t c => some (t, c, 0x35) | .shl t c => some (t, c, 0x36) | .shr t c => some (t, c, 0x37)
  | .popcnt t c => some (t, c, 0x38) | .gfmul t c => some (t, c, 0x39) | .gfmulc t c => some (t, c, 0x3A)
  | .gfmac t c => some (t, c, 0x3B) | .gfinv t c => some (t, c, 0x3C) | .topk t c => some (t, c, 0x3D)
  | .stsum t c => some (t, c, 0x3E) | .copy t c => some (t, c, 0x50) | .fill t c => some (t, c, 0x51)
  | .ocload t c => some (t, c, 0x52) | .ocevict t c => some (t, c, 0x53) | .rload t c => some (t, c, 0x60)
  | .rstore t c => some (t, c, 0x61) | .rfadd t c => some (t, c, 0x62) | .rcas t c => some (t, c, 0x63)
  | .racc t c => some (t, c, 0x64) | .rfpadd t c => some (t, c, 0x65) | .accread t c => some (t, c, 0x71)
  | .accclr t c => some (t, c, 0x72) | .accstore t c => some (t, c, 0x73) | .accload t c => some (t, c, 0x74)
  | .ssort t c => some (t, c, 0x78) | .sgather t c => some (t, c, 0x79) | .sfilter t c => some (t, c, 0x7A)
  | .sminmax t c => some (t, c, 0x7B) | .allred t c => some (t, c, 0x80) | .redscat t c => some (t, c, 0x81)
  | .allgath t c => some (t, c, 0x82) | .bcast t c => some (t, c, 0x83) | .barrier t c => some (t, c, 0x84)
  | .alltoall t c => some (t, c, 0x85) | .alltoallv t c => some (t, c, 0x86) | .sortmerge t c => some (t, c, 0x87)
  | .filtcomp t c => some (t, c, 0x88) | .parenc t c => some (t, c, 0x89) | .parreb t c => some (t, c, 0x8A)
  | _ => none

/-! Vector opcodes. -/

/-- The vector engine's operands stand where R117 admits them. -/
abbrev vecPlaced (s : State) (e : Run) : Prop := vecSpaces e s = .ok () s

/-- Encoded results `rs` are in the destination that `w` writes, their flags are set, the first source joins a summary, and the iteration is
committed. -/
def State.delivered (s : State) (e : Run) (src : List Nat) (w : State → State) (rs : List (Nat × Nat)) : State :=
  (gatherSum e src ((w s).modTile e.t (·.cvtFlags (flagsOf rs)))).commitIteration e.t e.c

/-- The command of an opcode on one source gives each element's result `f`, encoded once by `enc`. -/
def UnaryRow (row : Nat → Nat → Instr) (op : Nat) (enc : Nat → Rnd → Num → Nat × Nat) (f : Num → Num × Bool) : Prop :=
  ∀ (s s1 s2 : State) (t c : Nat) (d a : Bytes) (w : State → State), dOp d = op → s.iterates t c d →
    let e := s.runNow t c d
    let rs := encoded e (enc (opD d).elem) ((valuesOf (opA d) (codes (opA d).elem a)).map f)
    vecPlaced s e → readOpnd e (opA d) s = .ok a s1 → nanTraps e.mode (flagsOf rs) = false → writeOpnd e (opD d) (packed e rs) s1 = .ok w s2 →
    exec (row t c) s = .next (s2.delivered e (codes (opA d).elem a) w rs)

/-- The command of an opcode on two sources gives each pair's result `f`, encoded once to the format of D. -/
def BinaryRow (row : Nat → Nat → Instr) (op : Nat) (f : Num → Num → Num × Bool) : Prop :=
  ∀ (s s1 s2 s3 : State) (t c : Nat) (d a b : Bytes) (w : State → State), dOp d = op → s.iterates t c d →
    let e := s.runNow t c d
    let rs := encoded e (encodeNum (opD d).elem) (List.zipWith f (valuesOf (opA d) (codes (opA d).elem a)) (valuesOf (opB d) (codes (opB d).elem b)))
    vecPlaced s e → readOpnd e (opA d) s = .ok a s1 → readOpnd e (opB d) s1 = .ok b s2 → nanTraps e.mode (flagsOf rs) = false →
    writeOpnd e (opD d) (packed e rs) s2 = .ok w s3 → exec (row t c) s = .next (s3.delivered e (codes (opA d).elem a) w rs)

/-- The command of a bytewise opcode on one source writes `f d a` to D. -/
def RawUnaryRow (row : Nat → Nat → Instr) (op : Nat) (f : Bytes → Bytes → Bytes) : Prop :=
  ∀ (s s1 s2 : State) (t c : Nat) (d a : Bytes) (w : State → State), dOp d = op → s.iterates t c d → vecPlaced s (s.runNow t c d) →
    readOpnd (s.runNow t c d) (opA d) s = .ok a s1 → writeOpnd (s.runNow t c d) (opD d) (f d a) s1 = .ok w s2 →
    exec (row t c) s = .next ((w s2).commitIteration t c)

/-- The command of a bytewise opcode on two sources writes `f d a b` to D. -/
def RawBinaryRow (row : Nat → Nat → Instr) (op : Nat) (f : Bytes → Bytes → Bytes → Bytes) : Prop :=
  ∀ (s s1 s2 s3 : State) (t c : Nat) (d a b : Bytes) (w : State → State), dOp d = op → s.iterates t c d → vecPlaced s (s.runNow t c d) →
    readOpnd (s.runNow t c d) (opA d) s = .ok a s1 → readOpnd (s.runNow t c d) (opB d) s1 = .ok b s2 →
    writeOpnd (s.runNow t c d) (opD d) (f d a b) s2 = .ok w s3 → exec (row t c) s = .next ((w s3).commitIteration t c)

/-- The masks of a compare (R109). -/
def masks (f : Num → Num → Bool) (d a b : Bytes) : Bytes :=
  List.zipWith (fun x y => if f x y then 1 else 0) (valuesOf (opA d) (codes (opA d).elem a)) (valuesOf (opB d) (codes (opB d).elem b))

/-- The bytes of codes of the format of A. -/
def packA (d : Bytes) (l : List Nat) : Bytes := pack (elemBits (opA d).elem) l

/-! Collectives. -/

/-- A message of a group as it is heard at entry `e`: counted when it comes from outside, recorded by the trace, and its sender heard (R199, R201). -/
def State.messageIn (s : State) (f : Frame) (e : Nat) : State :=
  (((if f.src = s.node then s else s.external 1).foreignActivity (s.group e).owner).traceEvent (16 + f.flow % 4) 0xFFFF 12 (s.group e).owner
    (f.payload.take 16)).hear e f

/-- A message of `kind` keeps the header form and its tag is the entry's (R192, R199). -/
abbrev State.addressed (s : State) (f : Frame) (kind e : Nat) : Prop := colHeaderOk kind f = true ∧ s.tagEntry (cmTag f.payload) = some e

/-- Such a message of the entry's epoch, for the instance `x` with its parameters. -/
abbrev State.meets (s : State) (f : Frame) (kind e : Nat) (x : Inst) : Prop :=
  s.addressed f kind e ∧ s.groupEpoch e = cmEpoch f.payload ∧ (s.group e).inst (cmSeq f.payload) = some x ∧ x.opcode = cmOp f.payload ∧
    x.param = cmParam f.payload

/-! The switch. -/

/-- A port before it chooses what takes a cell slot: its closed shutters are counted, and a frame over its age at its grant is gone (R239, R255, R392). -/
def State.slotReady (s : State) (e : Nat) : State := (s.countClosed e).settle e 1032

/-! Remote memory, at the target. -/

/-- A request as its home die has taken it: recorded by the trace, counted when it comes from outside, its block woken (R294, R310, R355). -/
def State.requested (s : State) (f : Frame) : State :=
  let u := s.traceEvent (16 + homeDie f) 0xFFFF 11 (rqOwner f.payload) (f.payload.take 16)
  ((if f.src = s.node then u else u.external 1).foreignActivity (rqOwner f.payload)).wakeTarget (rqAddr f.payload)

/-- A request of an opcode is in order, and new to its stream, which becomes `x` (R292, R294). -/
abbrev State.asks (s : State) (f : Frame) (op : Nat) (x : Stream) : Prop :=
  f.kind = 1 ∧ rqOp f.payload = op ∧ requestOk f op = true ∧ alignOk f.payload op = true ∧
    s.streamCheck (homeDie f) f.src (rqTile f.payload) (rqId f.payload) = .fresh x

/-- A request that has run: its stream keeps the answer, a refusal is counted, and the answer goes back (R294, R297). -/
def State.served (f : Frame) (x : Stream) (s : State) (a : Answer) : State :=
  ((s.putStream (homeDie f) { x with cache := (rqId f.payload, a.status, BitVec.ofNat 64 a.value) :: x.cache }).countReject (homeDie f) a.status f).answer f a

end Sys2Proof.Machine
end

