-- ==== Sys2Proof/Certificates/Slice0/Obligations.lean ====
section
/-! DEFINITION. The statements about the block. A statement of a command's effect says which next state the command answers, so it
says what changes, and that nothing else does. -/

open Sys2Proof Sys2Proof.Machine

/-! The whole block. -/

/-- The state at reset keeps the form, holds no command, is in package reset, and has no supply good.
Some registers show at reset what their tables give (Tables 1-9, 13-7, 15-6, 16-6, 16-8, 17-4). -/
def Obligations.StateAtReset : Prop :=
  (State.reset.wf = true ∧ State.reset.pending = [] ∧ State.reset.pins.pkgReset = true ∧ State.reset.pins.pwrGood = false) ∧
  (State.reset.shows Reg.pwrCap = 4600 ∧ State.reset.shows Reg.clkSleepTimeout = 0x1000 ∧ State.reset.shows Reg.clkDeepAfter = 0x10000 ∧
     State.reset.shows Reg.pwrTherm = 0x73645F ∧ State.reset.shows Reg.porIbiMask = 3 ∧ State.reset.shows Reg.detPolicyVf = 0x5DC0271 ∧
     State.reset.shows Reg.fltBadAccessCnt = 0 ∧ State.reset.shows Reg.fltRecStatus = 0)

/-- Every step keeps the form of a state: ordered tables, canonical memories, bounded queues. -/
def Obligations.StepKeepsForm : Prop := ∀ s t : State, s.wf = true → step s = .next t → t.wf = true

/-- No step takes anything back: what has left the package stays, and a fused key slot keeps its hash and its revocation (R384). -/
def Obligations.StepKeepsFusesAndOutputs : Prop :=
  ∀ s t : State, s.wf = true → step s = .next t → keysKept s.porter.keys t.porter.keys = true ∧ ∃ more, t.out = s.out ++ more

/-- A step runs the command at the front of the queue, with the rest of the queue. -/
def Obligations.StepRunsFront : Prop := ∀ (c : Instr) (rest : List Instr) (s : State), step (s.withPending (c :: rest)) = exec c (s.withPending rest)

/-- A step on an empty queue (the model's choice, log entry 1): nothing before the keep clock locks, then one KCLK period. -/
def Obligations.IdleStep : Prop :=
  ∀ s : State, s.pending = [] → (s.keepLocked = false → step s = .next s) ∧ (s.keepLocked = true → ∃ t, step s = .next t ∧ t.clk.kclk = s.clk.kclk + 1)

/-- Every command answers a next state, and leaves the queue of commands as it was. -/
def Obligations.CommandsCompleteAndKeepQueue : Prop := ∀ (c : Instr) (s : State), ∃ t, exec c s = .next t ∧ t.pending = s.pending

/-- Only the boundary-scan commands change the instruction that the test access port holds (R393). -/
def Obligations.ScanStateFrame : Prop :=
  ∀ (c : Instr) (s t : State),
    c ∉ [.bypass, .idcode, .samplePreload, .extest, .clamp, .highz, .extestPulse, .extestTrain, .testLogicReset] → exec c s = .next t → t.tap = s.tap

/-! Register accesses. -/

/-- A read answers what the register shows and clears the RC bits that it addresses; an unmapped or misaligned read answers zero and is
counted (R7, R8, R10). -/
def Obligations.RegisterRead : Prop :=
  ∀ (s : State) (src : Src) (a width : Nat), s.wf = true → (src = .host → a < bar4Base) →
    (∀ (m : Nat) (r : RegRow), accessMask a width = some m → regRow (a - a % 8) = some r → windowTile (a - a % 8) = none →
      r.name ≠ "PUN_HM_ALLOC" → (width = 8 ∨ r.name ∉ wideOnly) →
      ∃ t, exec (.rcRegisterRead src a width) s = .next t ∧
        t.out = s.out ++ [.readReply src a (word ((s.shows (a - a % 8)).toNat >>> (8 * (a % 8)) % 2 ^ (8 * width)))] ∧
        (∀ i, i < 64 → (t.reg (a - a % 8)).getLsbD i =
          ((s.reg (a - a % 8)).getLsbD i && !(r.codeAt i == some .rc && m.testBit i))) ∧
        (∀ b, b ≠ a - a % 8 → t.reg b = s.reg b) ∧ (t.withRegs s.regs).withOut s.out = s) ∧
    (∀ (m : Nat) (r : RegRow) (k : Nat), accessMask a width = some m → regRow (a - a % 8) = some r → windowTile (a - a % 8) = some k →
      (s.mute (a - a % 8) = true → exec (.rcRegisterRead src a width) s = .next ((s.badAccess src false a .noResponse).emit (.readReply src a 0))) ∧
      (s.mute (a - a % 8) = false →
        ∃ t, exec (.rcRegisterRead src a width) s = .next t ∧
          t.out = s.out ++ [.readReply src a (word ((s.shows (a - a % 8)).toNat >>> (8 * (a % 8)) % 2 ^ (8 * width)))] ∧
          (t.tile k).periodOverrun =
            (if (a - a % 8) % 256 = 0x68 then (s.tile k).periodOverrun &&& ~~~ word (r.mask .rc &&& m) else (s.tile k).periodOverrun) ∧
          (t.tile k).shadowDropped =
            (if (a - a % 8) % 256 = 0x70 then (s.tile k).shadowDropped &&& ~~~ word (r.mask .rc &&& m) else (s.tile k).shadowDropped) ∧
          (∀ j, j ≠ k → t.tile j = s.tile j) ∧ (t.withTiles s.tiles).withOut s.out = s)) ∧
    (accessMask a width = none ∨ regRow (a - a % 8) = none →
      exec (.rcRegisterRead src a width) s = .next ((s.badAccess src false a .unmapped).emit (.readReply src a 0)))

/-- A write of a plain register acts on the bits it addresses, each by its access code; reserved and read-only bits keep what they hold. A write
that is misaligned or unmapped is discarded and counted (R7-R10). -/
def Obligations.PlainRegisterWrite : Prop :=
  ∀ (s : State) (src : Src) (a width v : Nat), s.wf = true → (src = .host → a < bar4Base) →
    (∀ (m : Nat) (r : RegRow), accessMask a width = some m → plainRegister (a - a % 8) → regRow (a - a % 8) = some r →
      ∃ t, exec (.plainRegisterWrite src a width v) s = .next t ∧
        (∀ i, i < 64 → (t.reg (a - a % 8)).getLsbD i =
          if m.testBit i then Access.after (r.codeAt i) ((s.reg (a - a % 8)).getLsbD i) (((v % 2 ^ (8 * width)) <<< (8 * (a % 8))).testBit i)
          else (s.reg (a - a % 8)).getLsbD i) ∧
        (∀ b, b ≠ a - a % 8 → t.reg b = (s.external 1).reg b) ∧ t.withRegs s.regs = s) ∧
    (accessMask a width = none ∨ regRow (a - a % 8) = none →
      exec (.plainRegisterWrite src a width v) s = .next ((s.external 1).badAccess src true a .unmapped))

/-! The two on-package networks. -/

/-- A slot in which a tile forwards a flit from one side to another: the flit is on the neighbour's link, one slot on at once or two later across a die
edge, and the tile's slot number moves on in its period; from a fenced edge it forwards zero, whatever was under way (R26, R27, R31).
A slot in which a tile consumes: the flit goes to the port that the entry names; from a fenced edge the tile receives zero, counts the slot,
and raises a notice once in each period; from an idle link it receives a free value (R26, R31).
A slot in which a tile injects 64 bytes of a port towards a side; in a reset it injects zero (R26).
A slot reaches a tile outside the owner's schedule by flits on its links alone. -/
def Obligations.LatticeSlots : Prop :=
  (∀ (s : State) (owner t a b m : Nat) (f : Flit), s.wf = true → s.heldSchedule owner = false → s.latTiles owner = [t] →
     1 ≤ a → a ≤ 4 → 1 ≤ b → b ≤ 4 → s.schedEntry (s.logicalOf t) (s.tile t).slotNo = a <<< (3 * b - 3) →
     latNext (s.logicalOf t) b = some m → s.phys m ≠ t → ((s.tile t).linkIn.filter (·.wait == 0)).find? (·.side == a) = some f →
     ∃ u, exec (.latticeSlot owner) s = .next u ∧
       u.tile (s.phys m) = { s.tile (s.phys m) with
         linkIn := (s.tile (s.phys m)).linkIn ++ [⟨facing b, if s.logicalOf t / 2048 = m / 2048 then 0 else 2,
           if s.edgeSilent (s.logicalOf t) a then zeros 64 else f.data⟩] } ∧
       u.tile t = s.slotPassed t ∧ (∀ k, k ≠ t → k ≠ s.phys m → u.tile k = s.tile k) ∧ u.withTiles s.tiles = s) ∧
  (∀ (s : State) (owner t a p : Nat), s.heldSchedule owner = false → s.latTiles owner = [t] → 1 ≤ a → a ≤ 4 → p < 16 → s.tileInReset t = false →
     s.schedEntry (s.logicalOf t) (s.tile t).slotNo = a <<< 12 + p <<< 19 →
     (∀ f, s.edgeSilent (s.logicalOf t) a = false → ((s.tile t).linkIn.filter (·.wait == 0)).find? (·.side == a) = some f →
       exec (.latticeSlot owner) s = .next (((s.slotLinks t).portGive t (s.logicalOf t) p f.data).modTile t (s.slotEnd t))) ∧
     (s.edgeSilent (s.logicalOf t) a = false → ((s.tile t).linkIn.filter (·.wait == 0)).find? (·.side == a) = none →
       exec (.latticeSlot owner) s =
         .next ((((s.slotLinks t).useFreeN 64).portGive t (s.logicalOf t) p ((s.slotLinks t).freeBytes 64)).modTile t (s.slotEnd t))) ∧
     (∀ m, latNext (s.logicalOf t) a = some m → m / 2048 ≠ s.logicalOf t / 2048 →
       s.dieSilent (m / 2048) = true → exec (.latticeSlot owner) s =
         .next ((((s.slotLinks t).portGive t (s.logicalOf t) p (zeros 64)).edgeFenced t (s.logicalOf t) a).modTile t (s.slotEnd t)))) ∧
  (∀ (s : State) (owner t b p m : Nat), s.heldSchedule owner = false → s.latTiles owner = [t] → 1 ≤ b → b ≤ 4 → p < 16 →
     s.schedEntry (s.logicalOf t) (s.tile t).slotNo = 5 <<< (3 * b - 3) + p <<< 15 → latNext (s.logicalOf t) b = some m →
     let r := if s.tileInReset t then (s.slotLinks t, zeros 64) else (s.slotLinks t).portTake t (s.logicalOf t) p
     exec (.latticeSlot owner) s = .next ((r.1.modTile t (s.slotEnd t)).modTile (r.1.phys m) fun y =>
       { y with linkIn := y.linkIn ++ [⟨facing b, hopWait (s.logicalOf t) m, r.2⟩] })) ∧
  (∀ (s u : State) (owner k : Nat), s.wf = true → exec (.latticeSlot owner) s = .next u → k ∉ s.latTiles owner →
     ∃ fs, u.tile k = { s.tile k with linkIn := (s.tile k).linkIn ++ fs })

/-- A stop serves the message that its output's order names, among those that the far side takes: it goes to the next stop, or is discarded at the last
live stop when the next is isolated, with NO_ROUTE for a request; at its destination it is delivered. Where the far side takes none, all stay (R32, R33).
Mesh routing goes along the row first, then along the column, and ends: from every stop of the 608 every other is reached within 48 hops (R32). -/
def Obligations.MeshStops : Prop :=
  (∀ (s : State) (k : Nat) (d : Dir), (s.stop k).isolated = true → exec (.meshFlitForward k d) s = .next s) ∧
  (∀ (s : State) (k : Nat) (d : Dir), d ≠ .here → s.meshPick k d = none → exec (.meshFlitForward k d) s = .next s) ∧
  (∀ (s : State) (k : Nat) (d : Dir) (m : MeshFlit), d ≠ .here → (s.stop (stopNext k d)).isolated = false →
     ((s.stop (stopNext k d)).queue.filter fun y => y.via == viaOf d && y.vc == m.vc).length > Config.meshDepth → s.meshTakes k d m = false) ∧
  (∀ (s : State) (k : Nat) (d : Dir) (m : MeshFlit), (s.stop k).isolated = false → s.meshPick k d = some m →
     (∀ y, (s.stop k).queue.find? (fun y => stopRoute k y.dst == d && y.vc == 0) = some y → s.meshTakes k d y = true → m = y) ∧
     (d ≠ .here → (s.stop (stopNext k d)).isolated = false →
       exec (.meshFlitForward k d) s =
         .next (((s.withStop k ((s.stop k).take k d m)).modStop (stopNext k d) fun x =>
           { x with queue := x.queue ++ [{ m with via := viaOf d }] }).wakeAt (stopNext k d) m.dst)) ∧
     (d ≠ .here → (s.stop (stopNext k d)).isolated = true →
       exec (.meshFlitForward k d) s =
         .next (((s.withStop k ((s.stop k).take k d m)).modStop k fun x => { x with discards := x.discards + 1 }).answerNoRoute k m.f)) ∧
     (d = .here → stopPortDie k = none ∨ m.f.dest = s.node →
       exec (.meshFlitForward k d) s = .next ((s.withStop k ((s.stop k).take k d m)).emit (.meshDeliver k m.f))) ∧
     (∀ n, d = .here → stopPortDie k = some n → m.f.dest ≠ s.node →
       exec (.meshFlitForward k d) s = .next ((s.withStop k ((s.stop k).take k d m)).inject n k m.f).1)) ∧
  ((∀ k dst, k < 608 → dst < 608 → ∃ n, n ≤ 48 ∧ meshWalk n k dst = dst) ∧
     ∀ k dst, k < 512 → dst < 512 → ((stopXY k).2 ≠ (stopXY dst).2 → stopRoute k dst = .east ∨ stopRoute k dst = .west) ∧
       ((stopXY k).2 = (stopXY dst).2 → k ≠ dst → stopRoute k dst = .north ∨ stopRoute k dst = .south))

/-! Structure commits. -/

/-- START begins a commit: PHASE 1 with no error, or BUSY while one runs, or phase 7 with error 2 on a bad length (R49, R51).
ABORT discards the staged pair with error 0x21, keeps every active configuration, and says whether something was withdrawn; once the latch
lead has begun it sets ABORT_LATE alone (R53, R55). -/
def Obligations.CommitStartAndAbort : Prop :=
  (∀ (s : State) (src : Src), s.wf = true →
     (s.committing = true → exec (.start src) s = .next ((s.external 1).bump Reg.strCommitRejectCnt)) ∧
     (s.committing = false → imgLenOk (s.reg Reg.strImageLen).toNat = true →
       ∃ t, exec (.start src) s = .next t ∧ t.phase = 1 ∧ t.fld Reg.strCommitStatus 10 3 = 0 ∧ t.reg Reg.strCommitErrDetail = 0 ∧
         t.seqPhase = (if s.seqPhase = 7 ∨ s.seqPhase = 8 then 5 else s.seqPhase) ∧
         (∀ a, a ∉ [Reg.strCommitStatus, Reg.strCommitErrDetail, Reg.pwrSeqStatus, Reg.detExtCnt] → t.reg a = s.reg a) ∧
         (t.withRegs s.regs).withCommit s.commit = s ∧ t.commit = { s.commit with startTime := s.now }) ∧
     (s.committing = false → imgLenOk (s.reg Reg.strImageLen).toNat = false →
       ∃ t, exec (.start src) s = .next t ∧ t.phase = 7 ∧ t.fld Reg.strCommitStatus 10 3 = 2 ∧ t.tiles = s.tiles ∧ t.commit.parts = s.commit.parts)) ∧
  (∀ (s : State) (src : Src), s.wf = true →
     (s.phase = 5 → exec (.abort src) s = .next ((s.external 1).withFld Reg.strCommitStatus 12 12 1)) ∧
     (1 ≤ s.phase → s.phase ≤ 4 →
       ∃ t, exec (.abort src) s = .next t ∧ t.phase = 7 ∧ t.fld Reg.strCommitStatus 10 3 = 0x21 ∧
         (∀ d, d < 20 → (t.die d).staged = none ∧ (t.die d).active = (s.die d).active ∧ (t.die d).check = (s.die d).check) ∧
         t.commit.withdrawn = [] ∧ t.commit.pkg = s.commit.pkg ∧ t.commit.parts = s.commit.parts ∧ t.tiles = s.tiles ∧
         t.fld Reg.strCommitStatus 11 11 = (if s.commit.withdrawn = [] then s.fld Reg.strCommitStatus 11 11 else 1)) ∧
     (s.committing = false → exec (.abort src) s = .next (s.external 1)))

/-- An image that has come is retained in both reservations and judged: a failed check ends the commit with its code, a good image is withdrawn for,
zeroed for and staged; an image that does not come ends it with error 1, and a wrong magic number with error 2 (R49, R52, R364). -/
def Obligations.TransferDone : Prop :=
  ∀ (s s1 : State) (image : Bytes) (failed : Bool), s.wf = true → s.phase = 1 →
    ((s.ctrl 0).failed = true ∨ (s.ctrl 6).failed = true → exec (.transferDone image failed) s = .next (s.commitFails 1 (0, 0))) ∧
    ((s.ctrl 0).failed = false → (s.ctrl 6).failed = false → s.trained 0 = true → s.trained 6 = true →
      (s.takeImage image failed = (s1, none) → exec (.transferDone image failed) s = .next (s1.commitFails 1 (0, 0))) ∧
      (∀ b, s.takeImage image failed = (s1, some b) →
        ∃ t, exec (.transferDone image failed) s = .next t ∧ t = (s1.writeSlots b).judged b ∧ (t.phase = 3 ∨ t.phase = 7) ∧
          (t.phase = 3 → t.commit.image = b) ∧
          (slice b 0 4 ≠ [0x55, 0x42, 0x53, 0x49] → t.phase = 7 ∧ t.fld Reg.strCommitStatus 10 3 = 2)))

/-- PREPARE ends: the latch stands 50 µs on, or 200 µs for a block commit, or at STR_LATCH_TIME where that is not sooner; a sooner time aborts
with 0x20 (R53). Fabric time counts in 1/16 ns.
The latch lead: PHASE 5, and no tile in scope issues a descriptor or an iteration (R53).
The end of the tile-state copy: schedules in scope restart at slot 0, and the hold ends (R412). -/
def Obligations.PrepareAndLead : Prop :=
  (∀ s : State, s.wf = true → s.phase = 3 →
     let soon := s.now + (if s.commit.block then 3200000 else 800000)
     ((s.reg Reg.strLatchTime).toNat = 0 ∨ soon ≤ (s.reg Reg.strLatchTime).toNat →
       exec .prepareComplete s = .next ((s.withFld Reg.strCommitStatus 2 0 4).withCommit { s.commit with
         latchAt := if (s.reg Reg.strLatchTime).toNat = 0 then soon else (s.reg Reg.strLatchTime).toNat })) ∧
     ((s.reg Reg.strLatchTime).toNat ≠ 0 → (s.reg Reg.strLatchTime).toNat < soon →
       ∃ t, exec .prepareComplete s = .next t ∧ t.phase = 7 ∧ t.fld Reg.strCommitStatus 10 3 = 0x20)) ∧
  (∀ s : State, s.wf = true → s.phase = 4 →
     ∃ t, exec .latchLead s = .next t ∧ t.phase = 5 ∧ (∀ k, t.commit.includes (t.physOwner k) = true → t.mayRun k = false) ∧
       t.tiles = s.tiles ∧ t.dies = s.dies ∧ t.commit = { s.commit with lead := [s.commit.scopeCode] }) ∧
  (∀ s : State, s.wf = true → (s.commit.copying = none → exec .tileStateCopyEnd s = .next s) ∧
     ∀ o, s.commit.copying = some o →
       ∃ t, exec .tileStateCopyEnd s = .next t ∧ t.commit = { s.commit with copying := none, lead := s.commit.lead.filter (· != o) } ∧
         (∀ k, (t.tile k).mem = (s.tile k).mem ∧ (t.tile k).ctxs = (s.tile k).ctxs) ∧
         (∀ k, o = 64 ∨ s.physOwner k = o → (t.tile k).slotNo = 0 ∧ (t.tile k).linkIn = []) ∧
         (t.withTiles s.tiles).withCommit s.commit = s)

/-- The latch ends the commit: every die in scope that holds its staged section runs it, in both copies, with its structure; the slots turn over; the
package section and the partitions are those of the plan (R53, R57, R58, R61). -/
def Obligations.LatchTakesStaged : Prop :=
  ∀ s : State, s.wf = true → s.phase = 5 →
    ∃ t, exec .latch s = .next t ∧ t.phase = 6 ∧ t.activeSlot = 1 - s.activeSlot ∧ t.commit.parts = s.commit.stagedParts ∧
      t.commit.pkg = s.commit.stagedPkg.getD s.commit.pkg ∧ t.commit.withdrawn = [] ∧
      (∀ d, d < 20 → (t.die d).staged = none) ∧
      (∀ d b, d < 20 → d ∈ s.commit.dies → s.applies d = true → (s.die d).staged = some b →
        (t.die d).active = b ∧ (t.die d).check = b ∧ (t.die d).structured = true) ∧
      ∀ d, d < 20 → d ∉ s.commit.dies ∨ s.applies d = false → (t.die d).active = (s.die d).active

/-- The scrubber on one word of a part of a die's configuration (R58, R59): one bad copy is rewritten from the other; two clean copies that differ outside
the use mask count and raise a notice; a difference inside it, or two bad copies, reload the section from M0, or from M6, or fence the die with its stops
isolated (R13). -/
def Obligations.ScrubWord : Prop :=
  ∀ (s : State) (d : Nat) (u : ScrubUpset), d < 20 → s.scrubPaused d = false → (s.die d).inReset = false → 8 * u.word < (s.confSec d u.part).length →
    (∀ l, exec (.scrubPass d l) s = .next (forEach l (fun u s => s.scrubWord d u) s)) ∧
    (u.activeBad = true → u.checkBad = false → exec (.scrubPass d [u]) s =
      .next ((s.withSection d u.part (splice (s.confSec d u.part) (8 * u.word) (natLe 8 u.check))).bump Reg.strScrubRepair)) ∧
    (u.activeBad = false → u.checkBad = true → exec (.scrubPass d [u]) s =
      .next ((s.withSection d u.part (splice (s.confSec d u.part) (8 * u.word) (natLe 8 u.active))).bump Reg.strScrubRepair)) ∧
    (u.activeBad = false → u.checkBad = false → u.active % 2 ^ 64 ≠ u.check % 2 ^ 64 →
      let m := s.wordMask d u.part (8 * u.word)
      ((u.active ^^^ u.check) % 2 ^ 64 &&& m.1 = 0 → exec (.scrubPass d [u]) s =
        .next ((s.bump Reg.strScrubBenign).raiseFault (scrubUnit d m.2) 0x06 0 false 15 0)) ∧
      ((u.active ^^^ u.check) % 2 ^ 64 &&& m.1 ≠ 0 → exec (.scrubPass d [u]) s =
        .next (((s.reloadSec d u.part).1.bump Reg.strScrubReload).raiseFault (scrubUnit d m.2) 0x07 2 false 15 0))) ∧
    (u.activeBad = true → u.checkBad = true → exec (.scrubPass d [u]) s = .next (s.reloadSec d u.part).1) ∧
    (∀ s1 s2, s.retained 0 d u.part = (s1, none) → s1.retained 6 d u.part = (s2, none) → s.reloadSec d u.part =
      ((((s2.modDie d fun x => { x with fenced := true }).closeDie d).bump Reg.strScrubFail).raiseFault (Unit6.ofDie d) 0x08 2 true 15 0, false)) ∧
    ((s.reloadSec d u.part).2 = false ∨
      ∃ s1 b, (s.retained 0 d u.part = (s1, some b) ∨ (s.retained 0 d u.part).1.retained 6 d u.part = (s1, some b)) ∧
        s.reloadSec d u.part = (s1.withSection d u.part b, true))

/-! Descriptor graphs. -/

/-- A fetch brings 128 bytes to the context, or to its successor; a current descriptor that cannot be read raises cause 0x07 (R130, R154).
The lowest context that can issue does: it takes its engine's next place, the tile's numeric mode and its successors, and OCLOAD makes its lines BUSY; a
descriptor that breaks a rule raises its cause before the first iteration (R115, R128, R129, R130, R134). -/
def Obligations.FetchAndIssue : Prop :=
  (∀ (s s1 : State) (t c : Nat),
     (∀ w u, exec (.descriptorFetch t c w u) s = exec (.descriptorFetch t c w .none) (s.upset t u)) ∧
     (s.clocked t = true → (s.ctx t c).st ≠ .idle → (s.ctx t c).desc = none →
       (∀ b, b ≠ [] → s.fetchBytes t (s.ctx t c).addr (s.ctx t c).space = (s1, some b) →
         exec (.descriptorFetch t c 0 .none) s = .next (s1.modCtx t c fun x => { x with desc := some b })) ∧
       (s.fetchBytes t (s.ctx t c).addr (s.ctx t c).space = (s1, some []) →
         exec (.descriptorFetch t c 0 .none) s = .next (s1.raiseExc t c ⟨0x07, true, [], 0⟩ false))) ∧
     (s.clocked t = true → ∀ v b, v.bytes = none → s.fetchBytes t v.addr v.space = (s1, some b) →
       ((s.ctx t c).succ0 = some v → exec (.descriptorFetch t c 1 .none) s =
         .next (s1.modCtx t c fun x => { x with succ0 := some { v with bytes := some b } })) ∧
       ((s.ctx t c).succ1 = some v → exec (.descriptorFetch t c 2 .none) s =
         .next (s1.modCtx t c fun x => { x with succ1 := some { v with bytes := some b } }))) ∧
     ∀ a, (a % 128 ≠ 0 → s.fetchBytes t a 1 = (s, some [])) ∧
       (a % 128 = 0 → a + 128 ≤ 393216 → (s.tile t).memHurt a 128 = false → s.fetchBytes t a 1 = (s, some (readBytes (s.tile t).mem a 128)))) ∧
  (∀ (s : State) (t c : Nat) (d : Bytes), s.wf = true → s.mayRun t = true → c < 4 → (∀ k, k < c → s.ready t k = .no) →
     (s.ready t c = .issue d → isCollective (dOp d) = false →
       ∃ u, exec (.descriptorIssue t) s = .next u ∧
         (u.tile t).ctxs = mapPut Ctx.idle c { s.ctx t c with
           issued := true, iter := 0, allDone := false, mode := (s.tile t).numMode, part := 0, specRead := false, result := none, shadow := none,
           seen := [], seenAt := 0, fills := (s.tile t).toFill (s.ctx t c).args d,
           succ0 := succOf (dWord d 3), succ1 := if dOp d = 0x02 then succOf (dWord d 4) else none } (s.tile t).ctxs ∧
         (∀ i ∈ (s.tile t).toFill (s.ctx t c).args d, (u.tile t).line i = ⟨.busy, none, []⟩) ∧
         (u.tile t).engines = mapPut [] (dEngine d).code ((s.tile t).engine (dEngine d) ++ [c]) (s.tile t).engines ∧
         (u.tile t).mem = (s.tile t).mem ∧ (u.tile t).counters = (s.tile t).counters ∧ (∀ k, k ≠ t → u.tile k = s.tile k)) ∧
     (s.ready t c = .issue d → exec (.descriptorIssue t) s = .next (s.issueDesc t c d)) ∧
     (∀ k, s.ready t c = .refuse k → exec (.descriptorIssue t) s = .next (s.raiseExc t c ⟨k, true, [], 0⟩ false)) ∧
     (s.ready t c = .shadow d → exec (.descriptorIssue t) s = .next (s.issueShadow t c d)))

/-- An iteration of a context does what the command of its opcode does, with the same upset, and where its descriptor cannot run nothing (R136).
An iteration whose body ends is committed. One that meets an exception commits nothing, gives back what it took from queues, and raises the cause at its
loop indices; one that must wait changes nothing; one that holds for responses or for a full queue keeps what it has sent (R128, R151, R290).
The first iteration of a shadow commits nothing: it keeps what it has read, and holds an exception that it meets (R144, R145). -/
def Obligations.IterationOutcomes : Prop :=
  (∀ (s : State) (t c n : Nat) (u : Upset) (d : Bytes) (sh : Bool) (i : Instr),
     ((s.upset t u).ctx t c).runner none = some (d, sh) → Instr.runs n i = some (t, c, dOp d) → n = mismatchesOf u →
       ∃ v, exec (.loopIteration t c u) s = .next v ∧ exec i (s.upset t u) = .next v) ∧
  (∀ (s : State) (t c : Nat) (u : Upset), ((s.upset t u).ctx t c).runner none = none → exec (.loopIteration t c u) s = .next (s.upset t u)) ∧
  (∀ (s s1 : State) (t c n : Nat) (d : Bytes) (i : Instr), Instr.runs n i = some (t, c, dOp d) → s.iterates t c d →
     let step := bodyOf (dOp d) n (s.runNow t c d) s
     (∀ f, step = .ok f s1 → exec i s = .next ((f s1).commitIteration t c) ∧
       exec (.loopIteration t c (.residue n)) s = .next ((f s1).commitIteration t c)) ∧
     (∀ k w, step = .error (.exc k w) s1 →
       let met := (s1.unread s t).raiseExc t c ⟨k, false, dIdx d (s.ctx t c).iter, w⟩ false
       exec i s = .next met ∧ exec (.loopIteration t c (.residue n)) s = .next met) ∧
     (step = .error .wait s1 → exec i s = .next s ∧ exec (.loopIteration t c (.residue n)) s = .next s) ∧
     (step = .error .hold s1 → exec i s = .next s1 ∧ exec (.loopIteration t c (.residue n)) s = .next s1)) ∧
  (∀ (s s1 : State) (t c : Nat) (d : Bytes), (s.ctx t c).runner none = some (d, true) → s.iterReady t c d true = true →
     let step := bodyOf (dOp d) 0 (s.runOf t c d true) (s.unflagged t)
     (∀ f, step = .ok f s1 → exec (.loopIteration t c .none) s =
       .next ((s1.unseen s t).shadowRead t c ((s.tile t).ftq.length - (s1.tile t).ftq.length) d)) ∧
     (∀ k w, step = .error (.exc k w) s1 → exec (.loopIteration t c .none) s = .next (s1.shadowExc s t c ⟨k, false, dIdx d 0, w⟩)) ∧
     (step = .error .wait s1 → exec (.loopIteration t c .none) s = .next s))

/-- A committed iteration moves the context to the next, or marks its descriptor done, frees its engine, and signals where it signals with each (R128,
R136, R139).
A descriptor that has done all completes: its trace and signal, its engines free, and the context goes on to the successor or ends; a SELECT goes on
to the side that its comparator takes, with its shadow confirmed or dropped (R128, R130, R142, R144).
A summary slot whose gathering has ended takes its values; another stays (R125). -/
def Obligations.DescriptorEnds : Prop :=
  (∀ (s : State) (t c : Nat) (d : Bytes), s.wf = true → (s.ctx t c).desc = some d → isCollective (dOp d) = false → dSigEach d = false →
     (s.ctx t c).stop = false →
     ((s.commitIteration t c).tile t).ctxs = mapPut Ctx.idle c { s.ctx t c with
         iter := (s.ctx t c).iter + 1, part := 0, arrived := [], specRead := false, seen := [], seenAt := 0,
         allDone := (s.ctx t c).iter + 1 == dIters d } (s.tile t).ctxs ∧
       ((s.commitIteration t c).tile t).mem = (s.tile t).mem ∧
       ((s.commitIteration t c).tile t).engines = (if (s.ctx t c).iter + 1 = dIters d ∧ dEngine d ≠ .mesh ∧ dOp d ≠ 0x02 then
         mapPut [] (dEngine d).code (((s.tile t).engine (dEngine d)).filter (· != c)) (s.tile t).engines else (s.tile t).engines) ∧
       ∀ k, k ≠ t → (s.commitIteration t c).tile k = s.tile k) ∧
  (∀ (s : State) (t c : Nat) (d : Bytes), (s.ctx t c).desc = some d →
     let signalled := ((s.modCtx t c fun x => { x with
       iter := x.iter + 1, part := 0, arrived := [], specRead := false, seen := [], seenAt := 0,
       allDone := (s.ctx t c).iter + 1 == dIters d }).tileCount t 0x04 1).signal t c d
     (isCollective (dOp d) = false → dSigEach d = true → (s.ctx t c).stop = false →
       s.commitIteration t c = if (s.ctx t c).iter + 1 = dIters d ∧ dEngine d ≠ .mesh ∧ dOp d ≠ 0x02 then
         signalled.modTile t (·.leave (dEngine d) c) else signalled) ∧
     (dSigEach d = false → s.endSignal t c d = s.signal t c d) ∧
     (s.wf = true → dBits d 2 11 10 = 1 → ((s.signal t c d).tile t).counters =
       mapPut 0 (dBits d 2 9 6) ((s.tile t).counter (dBits d 2 9 6) + BitVec.ofNat 32 (dBits d 2 27 12)) (s.tile t).counters) ∧
     (dBits d 2 11 10 = 0 → s.signal t c d = s)) ∧
  (∀ (s : State) (t c : Nat) (d : Bytes), s.clocked t = true → (s.ctx t c).desc = some d → (s.tile t).maySignal d = true →
     ((s.tile t).finished c d = true → (s.ctx t c).stop = false →
       exec (.descriptorComplete t c) s = .next ((((s.traceTile t 1 (descTrace (s.ctx t c).addr (s.ctx t c).space c (dOp d))).endSignal t c d).modTile t
         (·.freeEngines c)).follow t c (s.ctx t c).succ0)) ∧
     ((s.tile t).finished c d = true → (s.ctx t c).stop = true →
       exec (.descriptorComplete t c) s = .next (s.raiseExc t c ⟨0x29, false, dIdx d (dIters d - 1), 0⟩ false)) ∧
     ((s.tile t).finished c d = false → exec (.descriptorComplete t c) s = .next s) ∧
     (dOp d = 0x02 → (s.ctx t c).issued = true → (s.ctx t c).allDone = true →
       let s2 := ((s.traceTile t 3 (natLe 5 (s.ctx t c).addr ++ natLe 1 (dBits d 4 44 42) ++ natLe 1 (b2n ((s.ctx t c).result == some true)))).traceTile t 1
         (descTrace (s.ctx t c).addr (s.ctx t c).space c 0x02)).endSignal t c d
       ((s.ctx t c).result = some true →
         exec (.selectResolve t c) s = .next (((s2.dropShadow t c).modTile t (·.freeEngines c)).follow t c (s.ctx t c).succ1)) ∧
       ((s.ctx t c).result = some false → (s.ctx t c).shadow = none →
         exec (.selectResolve t c) s = .next ((s2.modTile t (·.freeEngines c)).follow t c (s.ctx t c).succ0)) ∧
       (∀ h, (s.ctx t c).result = some false → (s.ctx t c).shadow = some h → exec (.selectResolve t c) s = .next (s2.confirmShadow t c h))) ∧
     s.follow t c none = s.endCtx t c ∧
     ∀ v : Succ, v.bytes ≠ some [] → s.follow t c (some v) = s.modCtx t c fun x => { x with
       addr := v.addr, space := v.space, desc := v.bytes, issued := false, iter := 0, allDone := false, succ0 := none, succ1 := none, result := none,
       shadow := none, part := 0, specRead := false, seen := [], seenAt := 0, fills := [] }) ∧
  (∀ (s : State) (t k : Nat), ((mapGet Summary.empty k (s.tile t).sums).ready = false → exec (.summarySlotWrite t k) s = .next s) ∧
     ((mapGet Summary.empty k (s.tile t).sums).ready = true → exec (.summarySlotWrite t k) s = .next (s.modTile t fun y => { y with
       sums := mapPut Summary.empty k ⟨sumVals (mapGet Summary.empty k (s.tile t).sums).gathered, true, [], false⟩ y.sums })))

/-- Instances start in the lowest idle context: the oldest trigger behind a handler and late starts, a periodic instance once its time has come or as an
overrun, a late one when it can, a handler first (R131, R147, R148, R153). -/
def Obligations.InstanceStarts : Prop :=
  ∀ (s : State) (t c : Nat), (s.tile t).freeCtx = some c → s.mayRun t = true →
    (∀ q l, (s.tile t).trigQ = q :: l → (s.tile t).handler = none → (s.tile t).lateDue 0 = false → (s.tile t).lateDue 1 = false →
      exec (.graphStart t) s = .next ((s.modTile t fun x => { x with trigQ := l }).startIn t c q.graph q.entry 0 q.args none)) ∧
    (∀ k x, (s.tile t).timer k = some x → s.now < x.due → exec (.periodicStart t k) s = .next s) ∧
    (∀ k x, (s.tile t).timer k = some x → s.clocked t = true → x.due ≤ s.now →
      ((s.tile t).timerBusy k = false → x.pendingLate = none → graphOn ((s.tile t).graph x.graph) = true →
        exec (.periodicStart t k) s = .next ((s.modTile t (·.withTimer k { x with next := x.next + 1 })).startIn t c x.graph ((s.tile t).graph x.graph) 1
          [BitVec.ofNat 64 x.next, BitVec.ofNat 64 (x.t0 + x.next * x.period), 0, 0] (some k))) ∧
      ((s.tile t).timerBusy k = true → exec (.periodicStart t k) s = .next (s.modTile t fun z => { (z.withTimer k { x with
          next := x.next + 1,
          pendingLate := if x.late ∧ graphOn ((s.tile t).graph x.graph) ∧ ¬ x.pendingLate.isSome then some x.next else x.pendingLate }) with
            periodOverrun := satAdd z.periodOverrun 1 })) ∧
      (∀ n, x.pendingLate = some n → (s.tile t).handler = none → (s.tile t).timerBusy k = false → graphOn ((s.tile t).graph x.graph) = true →
        exec (.lateStart t k) s = .next ((s.modTile t (·.withTimer k { x with pendingLate := none })).startIn t c x.graph ((s.tile t).graph x.graph) 1
          [BitVec.ofNat 64 n, BitVec.ofNat 64 (x.t0 + n * x.period), 0, 0] (some k)))) ∧
    (∀ h, (s.tile t).handler = some h →
      exec (.handlerStart t) s = .next ((s.modTile t fun x => { x with handler := none }).startIn t c 63 h.1 2 h.2 none))

/-- Writes of DSC_CNT_ACCESS select, add to and set a counter modulo 2^32; STOP ends every context, or marks it to end at its next boundary (R137,
R155). -/
def Obligations.SequencerWrites : Prop :=
  ∀ (s : State) (src : Src) (t id v : Nat), s.wf = true → s.tileMute t = false → s.tileInReset t = false →
    let s0 := (s.external 1).wakeBlock (physBlock t)
    exec (.dscCntSelect src t id v) s = .next (s0.modTile t fun x => { x with cntSel := id % 16 }) ∧
    (∃ u, exec (.dscCntAdd src t id v) s = .next u ∧ (u.withTiles s0.tiles) = s0 ∧ (∀ k, k ≠ t → u.tile k = s.tile k) ∧ u.tile t = { s.tile t with
      cntSel := id % 16, counters := mapPut 0 (id % 16) ((s.tile t).counter (id % 16) + BitVec.ofNat 32 v) (s.tile t).counters }) ∧
    (∃ u, exec (.dscCntSet src t id v) s = .next u ∧ (u.withTiles s0.tiles) = s0 ∧ (∀ k, k ≠ t → u.tile k = s.tile k) ∧ u.tile t = { s.tile t with
      cntSel := id % 16, counters := mapPut 0 (id % 16) (BitVec.ofNat 32 v) (s.tile t).counters }) ∧
    exec (.stop src t) s = .next (forEach [0, 1, 2, 3] (fun c s => s.stopCtx t c) s0) ∧
    ∀ c, ((s.ctx t c).st = .idle → s.stopCtx t c = s) ∧
      ((s.ctx t c).st ≠ .idle → (s.ctx t c).shadow = none →
        ((s.ctx t c).desc = none ∨ (s.ctx t c).issued = false → s.stopCtx t c = s.raiseExc t c ⟨0x29, true, [], 0⟩ false) ∧
        (∀ d, (s.ctx t c).desc = some d → (s.ctx t c).issued = true →
          ((s.ctx t c).part ≠ 0 ∨ (s.tile t).awaits c = true → s.stopCtx t c = s.modCtx t c fun z => { z with stop := true }) ∧
          ((s.ctx t c).part = 0 → (s.tile t).awaits c = false → isCollective (dOp d) = false → 0 < (s.ctx t c).iter →
            s.stopCtx t c = s.raiseExc t c ⟨0x29, false, dIdx d (min (s.ctx t c).iter (dIters d - 1)), 0⟩ false)))

/-! Control opcodes. -/

/-- The control opcodes that compute: NOP changes nothing, SETMODE the numeric mode, CMPSET a comparator, CNTSET a counter, PERIODIC arms or disarms a
timer, SELECT reads its comparator once no summary of it is pending; each commits its iteration (R135, R137, R141, R142, R146, R147). -/
def Obligations.ControlOpcodes : Prop :=
  ∀ (s : State) (t c : Nat) (d : Bytes), s.iterates t c d →
    (dOp d = 0x01 → exec (.nop t c) s = .next (s.commitIteration t c)) ∧
    (dOp d = 0x03 → exec (.setmode t c) s = .next ((s.modTile t fun y => { y with numMode := BitVec.ofNat 5 (dImm d) }).commitIteration t c)) ∧
    (dOp d = 0x04 → exec (.cmpset t c) s =
      .next ((s.modTile t fun y => { y with cmps := mapPut none (dImmBits d 2 0) (some (cmpOf d)) y.cmps }).commitIteration t c)) ∧
    (dOp d = 0x05 → exec (.cntset t c) s =
      .next ((s.modTile t (·.withCounter (dImmBits d 3 0) (BitVec.ofNat 32 (dBits d 4 31 0)))).commitIteration t c)) ∧
    (let x : Option Timer := if dBits d 5 47 0 = 0 then none
      else some ⟨dImmBits d 1 1 == 1, dImmBits d 7 2, dWord d 4, dBits d 5 47 0, firstInstance (dWord d 4) (dBits d 5 47 0) s.now, none⟩
    dOp d = 0x06 → exec (.periodic t c) s =
      .next ((s.modTile t fun y => { y with timers := mapPut none (dImmBits d 0 0) x y.timers }).commitIteration t c)) ∧
    (∀ k, dOp d = 0x02 → mapGet none (dBits d 4 44 42) (s.tile t).cmps = some k → (k.summary = false ∨ (s.tile t).sumPending k.src = false) →
      exec (.select t c) s = .next ((s.modCtx t c fun x => { x with result := some (k.result (s.tile t)) }).commitIteration t c))

/-! Iterations and the vector engine. -/

/-- Bytes that an operand writes to a row of tile memory stand there, and every other byte stays (R22, R134).
COPY moves bytes of one format unchanged and converts others element by element; FILL repeats its pattern; OCLOAD makes lines that are not BUSY since its
issue BUSY and then fills all of them; OCEVICT marks its lines BUSY and then writes back each of them; OCEVICT.DROP empties them (R114-R117, Table 6-6). -/
def Obligations.MoveOpcodes : Prop :=
  (∀ (s : State) (e : Run) (a n : Nat) (data : Bytes), s.wf = true → data.length = n →
     let u := writeRuns e 1 [((a : Int), n)] data s
     (∀ i, i < n → readBytes (u.tile e.t).mem (a + i) 1 = [data.getD i 0]) ∧
       (∀ k, k < a ∨ a + n ≤ k → readBytes (u.tile e.t).mem k 1 = readBytes (s.tile e.t).mem k 1) ∧ (∀ j, j ≠ e.t → u.tile j = s.tile j) ∧
       u.withTiles s.tiles = s ∧ (u.tile e.t).ctxs = (s.tile e.t).ctxs ∧ (u.tile e.t).oc = (s.tile e.t).oc) ∧
  (∀ (s s1 s2 : State) (t c : Nat) (d a : Bytes) (ls : List Nat) (w : State → State), s.iterates t c d →
     let e := s.runNow t c d
     (dOp d = 0x50 → (opA d).fmt = (opD d).fmt → readOpnd e (opA d) s = .ok a s1 → writeOpnd e (opD d) a s1 = .ok w s2 →
       exec (.copy t c) s = .next ((w s2).commitIteration t c)) ∧
     (let rs := encoded e (encodeNum (opD d).elem) ((valuesOf (opA d) (codes (opA d).elem a)).map fun x => (x, false))
     dOp d = 0x50 → (opA d).fmt ≠ (opD d).fmt → readOpnd e (opA d) s = .ok a s1 → nanTraps e.mode (flagsOf rs) = false →
       writeOpnd e (opD d) (packed e rs) s1 = .ok w s2 →
       exec (.copy t c) s = .next (((w s2).modTile t (·.cvtFlags (flagsOf rs))).commitIteration t c)) ∧
     (dOp d = 0x51 → writeOpnd e (opD d) (patternBytes (dImm d) (opD d).bytes) s = .ok w s1 →
       exec (.fill t c) s = .next ((w s1).commitIteration t c)) ∧
     (let new := ls.filter fun i => !(s.ctx t c).fills.contains i
     dOp d = 0x52 → ocSource e (opA d) = true → namedLines e s = .ok ls s → readTileRuns e (e.rows (opA d)) s = .ok a s1 →
       ((s.ctx t c).part = 0 → (∀ i ∈ new, ((s.tile t).line i).st ≠ .busy ∧ ((s.tile t).line i).st ≠ .dirty) → exec (.ocload t c) s =
         .next ((s1.modTile t fun y => forEach new (fun i y => y.withLine i ⟨.busy, none, []⟩) y).modCtx t c fun x =>
           { x with part := 1, seenAt := 0, fills := x.fills ++ new })) ∧
       ((s.ctx t c).part ≠ 0 → exec (.ocload t c) s = .next ((((s1.modTile t fun y => forEach ls.zipIdx (fun x y =>
           y.fillLine x.1 (sourceAt e (opA d) (512 * x.2)) (slice a (512 * x.2) 512)) y).modCtx t c fun x =>
             { x with fills := x.fills.filter fun i => !ls.contains i }).tileCount t 0x09 ls.length).commitIteration t c))) ∧
     (dOp d = 0x53 → namedLines e s = .ok ls s →
       ((s.ctx t c).part = 0 → (∀ i ∈ ls, ((s.tile t).line i).st ≠ .busy) →
         (dSubop d = 1 → exec (.ocevict t c) s =
           .next ((s.modTile t fun y => forEach ls (fun i y => y.withLine i OcLine.empty) y).commitIteration t c)) ∧
         (let dirty := ls.filter fun i => ((s.tile t).line i).st == .dirty
         dSubop d ≠ 1 → (∀ i ∈ dirty, ((s.tile t).line i).tag.isSome = true) →
           canWrite e 1 (dirty.map fun i => (((((s.tile t).line i).tag.getD 0 : Nat) : Int), 512)) s = .ok () s →
           (∀ b ∈ (s.tile t).ocBad, b / 512 ∉ dirty) → exec (.ocevict t c) s =
             .next ((s.modTile t fun y => forEach ls (fun i y =>
               if (y.line i).st = .dirty then y.withLine i { y.line i with st := .busy } else y.withLine i OcLine.empty) y).modCtx t c fun x =>
                 { x with part := 1, seenAt := 0 }))) ∧
       ((s.ctx t c).part ≠ 0 → exec (.ocevict t c) s =
         .next ((s.modTile t fun y => forEach ls (fun i y => y.writeBack i) y).commitIteration t c))))

/-- ADD, SUB, MUL, MIN and MAX: one exact operation on each pair, rounded once to the format of D (R108, R110).
ABS and NEG; EXP2, LOG2, RCP and RSQRT, whose result is an FP32 value rounded again to a narrower D; and FMA, with the prior content of D as its
addend and one rounding (R108, R110, R134). -/
def Obligations.VectorArithmetic : Prop :=
  (BinaryRow .add 0x20 Machine.Num.add ∧ BinaryRow .sub 0x21 Machine.Num.sub ∧ BinaryRow .mul 0x22 Machine.Num.mul ∧
     BinaryRow .min 0x24 (fun x y => (x.min y, false)) ∧ BinaryRow .max 0x25 (fun x y => (x.max y, false))) ∧
  (UnaryRow .abs 0x26 encodeNum (fun x => (x.abs, false)) ∧ UnaryRow .neg 0x27 encodeNum (fun x => (x.negate, false)) ∧
     UnaryRow .exp2 0x2D encodeFn (fun x => (x.exp2, false)) ∧ UnaryRow .log2 0x2E encodeFn Machine.Num.log2 ∧
     UnaryRow .rcp 0x2F encodeFn (fun x => (x.rcp, false)) ∧ UnaryRow .rsqrt 0x30 encodeFn Machine.Num.rsqrt ∧
     ∀ (s s1 s2 s3 s4 : State) (t c : Nat) (d a b x : Bytes) (w : State → State), dOp d = 0x23 → s.iterates t c d →
       let e := s.runNow t c d
       let rs := encoded e (encodeNum (opD d).elem) (List.zipWith (fun p z => p.1.fma p.2 z)
         ((valuesOf (opA d) (codes (opA d).elem a)).zip (valuesOf (opB d) (codes (opB d).elem b))) (valuesOf (opD d) (codes (opD d).elem x)))
       vecPlaced s e → readOpnd e (opA d) s = .ok a s1 → readOpnd e (opB d) s1 = .ok b s2 → readOpnd e (opD d) s2 = .ok x s3 →
       nanTraps e.mode (flagsOf rs) = false → writeOpnd e (opD d) (packed e rs) s3 = .ok w s4 →
       exec (.fma t c) s = .next (s4.delivered e (codes (opA d).elem a) w rs))

/-- The compares write INT8 masks of 1 and 0; SELECT (vector) takes A where the INT8 element in the prior content of D is not 0 (R109).
The bitwise and GF(2^8) opcodes: bytes and elements of D from those of the sources; GFMAC adds to the prior content of D, and GFINV of 0 is 0 with
GF_INV_ZERO (R111, R112). In the field every other element has its inverse. -/
def Obligations.VectorMasksAndBits : Prop :=
  (RawBinaryRow .cmpeq 0x28 (masks Machine.Num.eqv) ∧ RawBinaryRow .cmpne 0x29 (masks fun x y => !x.eqv y) ∧ RawBinaryRow .cmplt 0x2A (masks Machine.Num.lt) ∧
     RawBinaryRow .cmple 0x2B (masks fun x y => x.lt y || x.eqv y) ∧
     ∀ (s s1 s2 s3 s4 : State) (t c : Nat) (d a b m : Bytes) (w : State → State), dOp d = 0x2C → s.iterates t c d →
       let e := s.runNow t c d
       let rs := encoded e (encodeNum (opD d).elem) (List.zipWith (fun p k => (if k = 0 then p.2 else p.1, false))
         ((valuesOf (opA d) (codes (opA d).elem a)).zip (valuesOf (opB d) (codes (opB d).elem b))) m)
       vecPlaced s e → readOpnd e (opA d) s = .ok a s1 → readOpnd e (opB d) s1 = .ok b s2 → readOpnd e { opD d with fmt := 8 } s2 = .ok m s3 →
       nanTraps e.mode (flagsOf rs) = false → writeOpnd e (opD d) (packed e rs) s3 = .ok w s4 →
       exec (.selectVector t c) s = .next ((w s4).modTile t (·.cvtFlags (flagsOf rs)) |>.commitIteration t c)) ∧
  (RawBinaryRow .and 0x32 (fun _ => List.zipWith fun x y => x &&& y) ∧ RawBinaryRow .or 0x33 (fun _ => List.zipWith fun x y => x ||| y) ∧
     RawBinaryRow .xor 0x34 (fun _ => List.zipWith fun x y => x ^^^ y) ∧ RawUnaryRow .not 0x35 (fun _ => List.map fun x => ~~~ x) ∧
     RawBinaryRow .shl 0x36 (fun d a b => packA d (List.zipWith (fun x (n : Byte) =>
       x <<< (n.toInt % (elemBits (opA d).elem : Int)).toNat % 2 ^ elemBits (opA d).elem) (codes (opA d).elem a) b)) ∧
     RawBinaryRow .shr 0x37 (fun d a b => packA d (List.zipWith (fun x (n : Byte) =>
       x >>> (n.toInt % (elemBits (opA d).elem : Int)).toNat) (codes (opA d).elem a) b)) ∧
     RawUnaryRow .popcnt 0x38 (fun d a => packA d ((codes (opA d).elem a).map fun x => popcount x (elemBits (opA d).elem))) ∧
     RawBinaryRow .gfmul 0x39 (fun _ => List.zipWith fun x y => BitVec.ofNat 8 (gfMul x.toNat y.toNat)) ∧
     RawUnaryRow .gfmulc 0x3A (fun d a => gfScale (dImmBits d 7 0) a) ∧
     (∀ (s s1 s2 s3 : State) (t c : Nat) (d a x : Bytes) (w : State → State), dOp d = 0x3B → s.iterates t c d → vecPlaced s (s.runNow t c d) →
       readOpnd (s.runNow t c d) (opA d) s = .ok a s1 → readOpnd (s.runNow t c d) (opD d) s1 = .ok x s2 →
       writeOpnd (s.runNow t c d) (opD d) (xorBytes x (gfScale (dImmBits d 7 0) a)) s2 = .ok w s3 →
       exec (.gfmac t c) s = .next ((w s3).commitIteration t c)) ∧
     (∀ (s s1 s2 : State) (t c : Nat) (d a : Bytes) (w : State → State), dOp d = 0x3C → s.iterates t c d → vecPlaced s (s.runNow t c d) →
       readOpnd (s.runNow t c d) (opA d) s = .ok a s1 →
       writeOpnd (s.runNow t c d) (opD d) (a.map fun x => BitVec.ofNat 8 (gfInv x.toNat)) s1 = .ok w s2 →
       exec (.gfinv t c) s = .next ((if a.contains 0 then (w s2).modTile t (·.vecFlag 6) else w s2).commitIteration t c)) ∧
     gfInv 0 = 0 ∧ ∀ x, x < 256 → 0 < x → gfMul x (gfInv x) = 1)

/-- CVT rounds each element once, after its scale, to an unscaled format, or block by block to a scaled one, whose fine scales go to their places in the
region; a conversion that traps sets its flags and writes nothing; TOPK gives the values largest first, with their indices; STSUM stores a slot that is not
due for a write (R71, R76, R80, R82, R113, R126, R414). -/
def Obligations.VectorConversions : Prop :=
  (∀ (s s1 s2 s3 : State) (t c : Nat) (d a : Bytes) (sc : Scales) (w : State → State), dOp d = 0x31 → s.iterates t c d →
    let e := s.runNow t c d
    let rs := encoded e (encodeNum (opD d).elem) ((valuesOf (opA d) (codes (opA d).elem a)).mapIdx (e.scaled (opA d) sc))
    (opD d).scale = 0 → vecPlaced s e → readOpnd e (opA d) s = .ok a s1 → readScales e (opA d) s1 = .ok sc s2 →
    (nanTraps e.mode (flagsOf rs) = false → writeOpnd e (opD d) (packed e rs) s2 = .ok w s3 →
      exec (.cvt t c) s = .next (s3.delivered e (codes (opA d).elem a) w rs)) ∧
    (nanTraps e.mode (flagsOf rs) = true → exec (.cvt t c) s =
      .next (((s2.modTile t (·.cvtFlags (flagsOf rs))).unread s t).raiseExc t c ⟨0x09, false, dIdx d (s.ctx t c).iter, 0⟩ false))) ∧
  (∀ (s s1 s2 s3 s4 s5 : State) (t c : Nat) (d a : Bytes) (sc : Scales) (x : Machine.Num) (w f : State → State), dOp d = 0x31 →
    s.iterates t c d →
    let e := s.runNow t c d
    let v := (valuesOf (opA d) (codes (opA d).elem a)).mapIdx (e.scaled (opA d) sc)
    let bs := (blocksOfRows ((opD d).grid d e.idx).col (opD d).cols (v.map (·.1))).map fun b =>
      convertBlock (opD d).elem (opD d).scale (fun i => rndOf e.mode (dSeed d) (e.j * (opD d).count + b.1 + i)) x b.2
    let fl := bs.foldl (fun f b => f ||| b.2.2) (if v.any (·.2) then fNanGen else 0)
    (opD d).scale ≠ 0 → vecPlaced s e → readOpnd e (opA d) s = .ok a s1 → readScales e (opA d) s1 = .ok sc s2 → destCoarse e (opD d) s2 = .ok x s3 →
    nanTraps e.mode fl = false → writeOpnd e (opD d) (pack (elemBits (opD d).elem) (bs.flatMap (·.2.1))) s3 = .ok w s4 →
    writeRows e (opD d).space (e.fineRuns (opD d)) (bs.map fun b => BitVec.ofNat 8 b.1) s4 = .ok f s5 →
    exec (.cvt t c) s = .next ((gatherSum e (codes (opA d).elem a) ((f (w s5)).modTile t (·.cvtFlags fl))).commitIteration t c)) ∧
  (∀ (s s1 s2 s3 : State) (t c : Nat) (d a : Bytes) (w x : State → State), dOp d = 0x3D → s.iterates t c d →
    let e := s.runNow t c d
    let l := topK (dImmBits d 8 0) (valuesOf (opA d) (codes (opA d).elem a))
    let rs := encoded e (encodeNum (opD d).elem) (l.map fun x => (x.2, false))
    vecPlaced s e → readOpnd e (opA d) s = .ok a s1 → nanTraps e.mode (flagsOf rs) = false → writeOpnd e (opD d) (packed e rs) s1 = .ok w s2 →
    writeOpnd e (opB d) (l.flatMap fun x => natLe 4 x.1) s2 = .ok x s3 →
    exec (.topk t c) s = .next ((x ((w s3).modTile t (·.cvtFlags (flagsOf rs)))).commitIteration t c)) ∧
  (∀ (s s1 : State) (t c : Nat) (d : Bytes) (w : State → State), dOp d = 0x3E → s.iterates t c d →
    let e := s.runNow t c d
    let m := mapGet Summary.empty (dSumSlot d) (s.tile t).sums
    vecPlaced s e → m.ready = false → writeAt e (opD d).space (e.at (opD d)) m.bytes s = .ok w s1 →
    exec (.stsum t c) s = .next ((w s1).commitIteration t c)) ∧
  ∀ (k : Nat) (v : List Machine.Num), ((topK k v).length = min k v.length ∧ ∀ p ∈ topK k v, v[p.1]? = some p.2) ∧
    ((∀ x ∈ v, ∀ a n m, x = .fin a n m → 0 < m) →
      ((topK k v).Pairwise fun p q => ranksAbove p.2 q.2 = true ∨ (ranksAbove q.2 p.2 = false ∧ p.1 < q.1)) ∧
      ∀ i x, v[i]? = some x → (∀ p ∈ topK k v, p.1 ≠ i) → ∀ p ∈ topK k v, ranksAbove x p.2 = false)

/-! The gang engine. -/

/-- MMA on a gang whose members run and whose operands can be read: it delivers its units of outputs, stores held partials in the south members' tile
memories, and commits (R86, R92, R120). PRUNE writes its operand in doubly structured form, with its scales behind it (R97, R101). A held gang goes on once
the finished-tile queue of every south member that writes outputs has room (R122). -/
def Obligations.GangOpcodes : Prop :=
  ∀ (s s1 s2 s3 s4 : State) (t c : Nat) (d : Bytes),
    (∀ x : MmaRun, s.iterates t c d → dOp d = 0x10 →
      let e := s.runNow t c d
      let rows := s.gangRows e
      let ends := passEnds d (dIdx d (s.ctx t c).iter)
      let ngs := if (opB d).sparse = 2 then max 1 (ceilDiv (dCols d) 16) else 1
      let units := ceilDiv (opA d).rows 16 * ngs
      let part := (s.ctx t c).part
      let all := mmaOutputs x e s
      (∀ r ∈ rows, ∀ m ∈ r, s.memberLost m.t = false ∧ s.mayRun m.t = true) → (s.tile t).gangHeld = false → mmaRead e rows s = .ok x s1 →
      (ends.1 = true → bit (dImm d) 3 = true → ∀ r ∈ x.south,
        8 * (opA d).rows * colN d r.2 ≤ (s.tile (nth (nth rows 0 []) r.2 e).t).carryIn.length) →
      ((kLevel d).isSome = true → ∀ r ∈ x.south, canWrite r.1 1 [heldRun d (s.ctx t c).iter r.2] s1 = .ok () s1) →
      (ends.2 = true → ∀ r ∈ mmaConvert x e (all.map fun r => (r.1, r.2.filter fun o => part ≤ o.m / 16 * ngs + o.n / 16)),
        nanTraps e.mode (convertFlags r.2) = false) →
      deliverFrom x e all ngs (units - part) part (if e.j = 0 ∧ part = 0 then resetHeldPorts rows s1 else s1) = .ok () s2 →
      exec (.mma t c) s = .next (((storeHeld x e all (takeStreams x e s2)).modTile t fun y => { y with staged := false }).commitIteration t c)) ∧
    (∀ (x : Bytes × Bytes × Bytes) (w : State → State), s.iterates t c d → dOp d = 0x11 →
      let e := s.runNow t c d
      let out := pruneAll (opA d).elem (opA d).rows (opA d).cols (codes (opA d).elem x.1)
      (∀ r ∈ s.gangRows e, ∀ m ∈ r, s.memberLost m.t = false) → readDenseOperand e (opA d) s = .ok x s1 →
      writeAt e (opD d).space (e.at (opD d)) out s1 = .ok w s2 →
      ((opA d).scale = 0 → exec (.prune t c) s = .next ((w s2).commitIteration t c)) ∧
      (let base := (opD d).region d e.args out.length
      let cells := (((opA d).grid d e.idx).turned ((opA d).depth d)).cells base (opA d).cols (opA d).rows
      ((opA d).scale = 1 → ∀ f g, writeAt e (opD d).space base x.2.1 s2 = .ok f s3 → writeRows e (opD d).space cells x.2.2 s3 = .ok g s4 →
        exec (.prune t c) s = .next ((g (f (w s4))).commitIteration t c)) ∧
      ((opA d).scale ≠ 0 → (opA d).scale ≠ 1 → ∀ g, writeRows e (opD d).space cells x.2.2 s2 = .ok g s3 →
        exec (.prune t c) s = .next ((g (w s3)).commitIteration t c)))) ∧
    (let g := s.gangRec (s.logicalOf t)
    let south := ((List.range (gangSide g)).filter fun j => colN (s.gangDesc t) j != 0).map fun j =>
      s.phys (gangTile (s.logicalOf t / 2048) g (gangSide g - 1) j)
    ((s.tile t).gangHeld = true → (∀ k ∈ south, (s.tile k).ftq.length < 8) → exec (.gangResume t) s =
      .next (forEach south (fun k s => s.traceTile k 5 (natLe 1 0 ++ natLe 1 (s.tile k).ftq.length)) (s.modTile t fun y => { y with gangHeld := false }))) ∧
    ((s.tile t).gangHeld = false ∨ (∃ k ∈ south, 8 ≤ (s.tile k).ftq.length) → exec (.gangResume t) s = .next s))

/-! Remote memory, from the requester. -/

/-- The first half of a remote iteration: each request goes out once with its operands, and the iteration holds for its responses (R173, R174, R289 to
R291, R150).
The second half: with every response in, a load writes what came, an atomic returns the old value to B, and each iteration commits (R290, R291). -/
def Obligations.RemoteOpcodes : Prop :=
  (∀ (s s1 : State) (t c f : Nat) (d v : Bytes), s.wf = true → s.iterates t c d → (s.ctx t c).part = 0 → (s.tile t).mayRequest = true →
     (s1.tile t).mayRequest = true →
     let e := s.runNow t c d
     let send (use : ReqUse) (op node addr arg0 arg1 len : Nat) (data : Bytes) (s : State) : State :=
       (s.sendRequest t c (s.ctx t c).iter use (dImmBits d 2 0) (dImmBits d 5 3) op node addr arg0 arg1 len data).modCtx t c fun x =>
         { x with part := x.part + 1 }
     (fabricAt e (opD d) 8 s = .ok f s → canReturn e s = .ok () s → readRuns e (opA d).space (e.rows (opA d)) s = .ok v s1 →
       (dOp d = 0x62 → exec (.rfadd t c) s = .next (send .atomic 3 (opD d).node f (rdLe v 0 8) (rdLe v 8 8) 0 [] s1)) ∧
       (dOp d = 0x63 → exec (.rcas t c) s = .next (send .atomic 4 (opD d).node f (rdLe v 0 8) (rdLe v 8 8) 0 [] s1))) ∧
     (dOp d = 0x65 → fabricAt e (opD d) 4 s = .ok f s → readRuns e (opA d).space (e.rows (opA d)) s = .ok v s1 →
       exec (.rfpadd t c) s = .next ((send .fp32Add 6 (opD d).node f (rdLe v 0 4) 0 0 [] s1).tdcTile t 1)) ∧
     (∀ tf fl, dOp d = 0x64 → fabricAt e (opD d) 1 s = .ok f s → bits f 18 4 = 0 → raccData e s = .ok (tf, v, fl) s1 →
       exec (.racc t c) s = .next ((send .exactAdd 5 (opD d).node f (tf + ((opA d).cols - 1) <<< 2) 0 v.length v s1).modTile t (·.accFlag fl))) ∧
     (dOp d = 0x07 → dBits d 5 39 0 % 32 = 0 → dBits d 5 39 0 + 32 ≤ 393216 → readTileRuns e [((dBits d 5 39 0 : Int), 32)] s = .ok v s1 →
       let w := dWord d 4
       exec (.trigger t c) s = .next ((s1.sendRequest t c (s.ctx t c).iter .trigger (lowClass (s1.classMask e.owner)) (highClass (s1.classMask e.owner)) 8
         (bits w 13 0) (fabricAddr (bits w 13 0) 3 (bits w 28 14 + (bits w 34 29) <<< 15)) 0 0 32 v).modCtx t c fun x => { x with part := x.part + 1 })) ∧
     (∀ qs, dOp d = 0x60 → fabricAt e (opA d) 8 s = .ok f s → canWrite e (opD d).space (e.rows (opD d)) s = .ok () s →
       qs = ((cutKib ((opA d).length / 1024 + 2) f 0 (opA d).length).map fun x => (⟨.load x.1, 1, f + x.1, 0, 0, x.2, (0, 0)⟩ : Req)) →
       sendReqs e (dImmBits d 2 0) (dImmBits d 5 3) (opA d).node qs s = .ok () s1 → (s1.tile t).awaits c = true → exec (.rload t c) s = .next s1) ∧
     (∀ qs, dOp d = 0x61 → fabricAt e (opD d) 8 s = .ok f s → canRead e (opA d).space (e.rows (opA d)) s = .ok () s →
       qs = ((cutKib ((opD d).length / 1024 + 2) f 0 (opD d).length).map fun x => (⟨.store, 2, f + x.1, 0, 0, x.2, x⟩ : Req)) →
       sendReqs e (dImmBits d 2 0) (dImmBits d 5 3) (opD d).node qs s = .ok () s1 → (s1.tile t).awaits c = true → exec (.rstore t c) s = .next s1)) ∧
  (∀ (s s1 : State) (t c f : Nat) (d : Bytes) (w : State → State), s.iterates t c d → (s.tile t).awaits c = false →
     let e := s.runNow t c d
     let came (n : Nat) : Bytes := (s.ctx t c).arrived.foldl (fun b x => splice b x.1 x.2) (zeros n)
     (dOp d = 0x60 → fabricAt e (opA d) 8 s = .ok f s → canWrite e (opD d).space (e.rows (opD d)) s = .ok () s →
       (s.ctx t c).part = (cutKib ((opA d).length / 1024 + 2) f 0 (opA d).length).length → writeOpnd e (opD d) (came (opA d).length) s = .ok w s1 →
       exec (.rload t c) s = .next ((w s1).commitIteration t c)) ∧
     (dOp d = 0x61 → fabricAt e (opD d) 8 s = .ok f s → canRead e (opA d).space (e.rows (opA d)) s = .ok () s →
       (s.ctx t c).part = (cutKib ((opD d).length / 1024 + 2) f 0 (opD d).length).length → exec (.rstore t c) s = .next (s.commitIteration t c)) ∧
     ((s.ctx t c).part = 1 → fabricAt e (opD d) 8 s = .ok f s → canReturn e s = .ok () s →
       ((opB d).space = 0 → (dOp d = 0x62 → exec (.rfadd t c) s = .next (s.commitIteration t c)) ∧
         (dOp d = 0x63 → exec (.rcas t c) s = .next (s.commitIteration t c))) ∧
       ((opB d).space ≠ 0 → writeAt e (opB d).space (e.at (opB d)) (came 8) s = .ok w s1 →
         (dOp d = 0x62 → exec (.rfadd t c) s = .next ((w s1).commitIteration t c)) ∧
         (dOp d = 0x63 → exec (.rcas t c) s = .next ((w s1).commitIteration t c)))) ∧
     ((s.ctx t c).part = 1 →
       (dOp d = 0x65 → fabricAt e (opD d) 4 s = .ok f s → exec (.rfpadd t c) s = .next (s.commitIteration t c)) ∧
       (dOp d = 0x64 → fabricAt e (opD d) 1 s = .ok f s → bits f 18 4 = 0 → exec (.racc t c) s = .next (s.commitIteration t c)) ∧
       (dOp d = 0x07 → dBits d 5 39 0 % 32 = 0 → dBits d 5 39 0 + 32 ≤ 393216 → exec (.trigger t c) s = .next (s.commitIteration t c))))

/-! Exact accumulators and stream records. -/

/-- Adding terms to a slot is addition modulo 2^336: A and E after one term, its flags and count, and the same slot for every order of the terms (R160). -/
def Obligations.ExactSumOrderFree : Prop :=
  (∀ (x : Slot) (t : Term), x.full = false → x.terms + t.n ≤ 2 ^ 40 → t.v < 2 ^ 336 →
    let y := (x.add t).1
    let lo := (BitVec.ofNat 320 t.v).toInt
    let hi := (sgn 336 t.v - lo) / 2 ^ 320
    ((x.add t).2 = 0 ∧ y.terms = x.terms + t.n ∧ y.pinf = (x.pinf || t.pinf) ∧ y.ninf = (x.ninf || t.ninf) ∧ y.nan = (x.nan || t.nan) ∧
      y.poison = (x.poison || t.poison) ∧ y.full = false) ∧
    (∃ w : Int, -1 ≤ w ∧ w ≤ 1 ∧ y.a.toInt = x.a.toInt + lo - w * 2 ^ 320 ∧ y.e = BitVec.ofInt 16 (x.e.toNat + w + hi)) ∧
    y.v336 = (x.v336 + t.v) % 2 ^ 336) ∧
  ∀ (x : Slot) (ts us : List Term), x.full = false → x.terms + (ts.map (·.n)).sum ≤ 2 ^ 40 → ts.Perm us →
    ts.foldl (fun y t => (y.add t).1) x = us.foldl (fun y t => (y.add t).1) x

/-- The term that would take TERMS past 2^40 is not added: POISON and TERM_LIMIT are set, and every later term is discarded (R159). -/
def Obligations.TermLimit : Prop :=
  ∀ (x : Slot) (t u : Term), x.full = false → 2 ^ 40 < x.terms + t.n →
    x.add t = ({ x with poison := true, full := true }, aTermLimit) ∧ (x.add t).1.add u = ((x.add t).1, 0) ∧ (x.add t).1.v336 = x.v336 ∧
      (x.add t).1.terms = x.terms

/-- The accumulator opcodes: ACCSUM adds the terms it reads, from zero and with a read-out where it is asked; ACCREAD, ACCSTORE and ACCLOAD move slots;
ACCCLR clears and opens slots; a deferred term is added in turn. A residue mismatch of an add is a retry that is flagged and counted, and the second within
1 ms retires the tile and ends the add (R161, R162, R165 to R167, R170, R171). -/
def Obligations.AccumulatorOpcodes : Prop :=
  ∀ (s s1 s2 : State) (t c n : Nat) (d a : Bytes) (w : State → State),
    let e := s.runNow t c d
    let base := slotBase d
    let y := s.tile t
    (s.iterates t c d →
      (∀ ts, dOp d = 0x70 → readTerms e s = .ok ts s1 →
        let old := (s1.tile t).slotsFrom base (opA d).cols
        let sum := addTerms (opA d).cols ts (if bit (dSubop d) 0 then old.map fun _ => Slot.zero else old)
        let put (w : State → State) (s : State) : State :=
          let r := s.residue t n
          if r.2 then w ((r.1.modTile t fun y => (y.putSlots base sum.1).accFlag sum.2).tileCount t 0x0F (ts.foldl (fun n x => n + x.1.n) 0)) else r.1
        (bit (dSubop d) 1 = false → exec (.accsum t c n) s = .next ((put id s1).commitIteration t c)) ∧
        (∀ r s3, bit (dSubop d) 1 = true → readOut (dImmBits d 9 6) (dImmBits d 11 10) sum.1 s1 = .ok r s2 →
          writeRowsOf e (opD d) (e.rowsOf (opD d) r.1.length 1) r.1 s2 = .ok w s3 →
          exec (.accsum t c n) s = .next ((put (fun s => (w s).modTile t (·.accFlag r.2)) s3).commitIteration t c))) ∧
      (∀ r, dOp d = 0x71 → readOut (dImmBits d 9 6) (dImmBits d 11 10) (y.slotsFrom base (opD d).cols) s = .ok r s1 →
        writeRowsOf e (opD d) (e.rowsOf (opD d) r.1.length 1) r.1 s1 = .ok w s2 →
        exec (.accread t c) s = .next (((w s2).modTile t fun y =>
          (if bit (dSubop d) 0 then y.putSlots base ((List.range (opD d).cols).map fun _ => Slot.zero) else y).accFlag r.2).commitIteration t c)) ∧
      (dOp d = 0x72 → exec (.accclr t c) s = .next ((s.modTile t fun y =>
        { forEach (maskBits (dImmBits d 15 0) 16) (fun i y => y.withSlot i Slot.zero) y with
          remoteOpen := BitVec.ofNat 16 ((y.remoteOpen.toNat &&& (0xFFFF - dImmBits d 15 0)) ||| (dImmBits d 15 0 &&& dImmBits d 31 16)) }).commitIteration
        t c)) ∧
      (dOp d = 0x73 → writeRowsOf e (opD d) (e.rowsOf (opD d) (64 * (opD d).cols) 1) ((y.slotsFrom base (opD d).cols).flatMap Slot.raw) s = .ok w s1 →
        exec (.accstore t c) s = .next (((w s1).modTile t fun y =>
          if bit (dSubop d) 0 then y.putSlots base ((List.range (opD d).cols).map fun _ => Slot.zero) else y).commitIteration t c)) ∧
      (dOp d = 0x74 → readRuns e (opA d).space (e.rowsOf (opA d) (64 * (opA d).cols) (opA d).rows) s = .ok a s1 →
        (∀ b ∈ cutEvery 64 (opA d).count a, rawOk b = true) →
        exec (.accload t c) s = .next ((s1.modTile t (·.putSlots base ((cutEvery 64 (opA d).count a).map rawSlot))).commitIteration t c))) ∧
    (∀ x k, y.deferred.find? (fun x => x.1 == n) = some x →
      let r := (s.modTile t fun y => { y with deferred := y.deferred.erase x }).residue t k
      (r.2 = true → exec (.deferredExactAdd t ⟨n, k⟩) s = .next (r.1.addTerm t n x.2.term)) ∧
        (r.2 = false → exec (.deferredExactAdd t ⟨n, k⟩) s = .next r.1)) ∧
    (∀ k, y.deferred.find? (fun x => x.1 == n) = none → exec (.deferredExactAdd t ⟨n, k⟩) s = .next s) ∧
    s.residue t 0 = (s, true) ∧
    (y.residueAt = none → s.residue t 1 =
      ((s.modTile t fun x => { x.accFlag aRetry with residueAt := some s.clk.kclk }).tileCount t 0x10 1, true)) ∧
    (∀ w, y.residueAt = some w → s.clk.kclk < w + 250000 → s.residue t (n + 1) =
      (((s.modTile t fun x => { x.accFlag aRetry with residueAt := some s.clk.kclk }).tileCount t 0x10 1).retireTile t 0x03 0, false))

/-- The stream opcodes on records that are well formed: SSORT sorts by key, SGATHER by rank and sequence, SFILTER keeps what its test keeps, in that order,
and SMINMAX gives the best record and the count (R175 to R179). Sorting keeps every record. -/
def Obligations.StreamOpcodes : Prop :=
  (∀ (s s1 s2 : State) (t c : Nat) (d : Bytes) (l : List Bytes) (w : State → State), s.iterates t c d →
    let e := s.runNow t c d
    let kf := dKeyFmt d
    readRecords e s = .ok l s1 →
    (dOp d = 0x78 → writeRecords e (sortRecs (sortKey kf (dOrder d)) l) s1 = .ok w s2 → exec (.ssort t c) s = .next ((w s2).commitIteration t c)) ∧
    (dOp d = 0x79 → writeRecords e (sortRecs (gatherKey (dOrder d)) l) s1 = .ok w s2 → exec (.sgather t c) s = .next ((w s2).commitIteration t c)) ∧
    (dOp d = 0x7A → writeRecords e (sortRecs (gatherKey (dOrder d)) (l.filter fun r =>
        keyTest kf (dImmBits d 11 9) (dWord d 4 % 2 ^ keyBits kf) (recKey r))) s1 = .ok w s2 →
      exec (.sfilter t c) s = .next ((w s2).commitIteration t c)) ∧
    (let data := (bestRec kf (dImmBits d 11 9 == 1) l).getD [] ++ natLe 4 l.length ++ zeros 28
    dOp d = 0x7B → writeRowsOf e (opD d) [(e.at (opD d), data.length)] data s1 = .ok w s2 →
      exec (.sminmax t c) s = .next ((w s2).commitIteration t c))) ∧
  ∀ (key : Bytes → List Int) (l : List Bytes), (sortRecs key l).Perm l

/-! Collectives. -/

/-- An iteration of a collective opcode reads the member's operands and sends its part to the stage, to the other endpoints, or announces it, and is
committed (R194 to R198). `x` and `m` are the instance and the member that the issue of the descriptor made. -/
def Obligations.CollectiveOpcodes : Prop :=
  ∀ (s s1 s2 : State) (t c : Nat) (d b z : Bytes) (x : Inst) (m : ColMember), s.iterates t c d →
    let e := s.runNow t c d
    let en := dImmBits d 7 0
    let g := s.group en
    let q := g.nextSeq e.l - 1
    let n := g.members.length
    let r := (s.rankOf g e.l).getD 0
    let member (s : State) : Prop := (s.group en).inst q = some x ∧ x.members.find? (·.tile == e.l) = some m
    let ends (s : State) : State := s.commitIteration t c
    let accepted : State := s.accept en q e.l
    let parity : Bytes := (parityRows d n r).flatMap fun y => gfScale y.2 b
    let all (f : Nat → State → State) (s : State) : State := forEach (List.range n) f s
    ((opD d).space = 0 ∨ canWrite e (opD d).space (colRows s t c d) s = .ok () s) →
    (∀ v, readScaled e (opA d) s = .ok v s1 →
      let ts := v.map fun y => termOf y.1
      let u := forEach (List.range (ceilDiv v.length 16)) (fun w s =>
        s.modTile (s.phys (g.redBase + w % max 1 g.redCount)) (·.accFlag (((ts.drop (16 * w)).take 16).foldl (fun f y => f ||| y.2) 0))) s1
      member u →
      let sent := u.contribute en x m 64 0 (ts.flatMap fun y => (Slot.zero.add y.1).1.raw)
      (dOp d = 0x80 → exec (.allred t c) s = .next (ends sent)) ∧ (dOp d = 0x81 → exec (.redscat t c) s = .next (ends sent))) ∧
    ((opA d).space ≠ 0 → readOpnd e (opA d) s = .ok b s1 → member s1 →
      (dOp d = 0x82 → exec (.allgath t c) s = .next (ends (s1.contribute en x m 1 (r * b.length) b))) ∧
      (dOp d = 0x83 → exec (.bcast t c) s = .next (ends (s1.contribute en x m 1 0 b))) ∧
      (dOp d = 0x89 → exec (.parenc t c) s = .next (ends (s1.contribute en x m 1 0 parity))) ∧
      (dOp d = 0x8A → exec (.parreb t c) s = .next (ends (s1.contribute en x m 1 0 parity)))) ∧
    ((opA d).space = 0 →
      (dOp d = 0x82 → exec (.allgath t c) s = .next (ends accepted)) ∧ (dOp d = 0x83 → exec (.bcast t c) s = .next (ends accepted)) ∧
      (dOp d = 0x89 → exec (.parenc t c) s = .next (ends accepted)) ∧ (dOp d = 0x8A → exec (.parreb t c) s = .next (ends accepted))) ∧
    (dOp d = 0x84 → member s → exec (.barrier t c) s = .next (ends ((s.announce en q m 8 0).accept en q e.l))) ∧
    (let k := chunkBits d n
    dOp d = 0x85 → readOpnd e (opA d) s = .ok b s1 → member s1 → exec (.alltoall t c) s =
      .next (ends ((all (fun j s => s.sendTo en x m j (bitSlice b (j * k) k)) s1).accept en q e.l))) ∧
    (let rows := sizeRows (opB d) (e.at (opB d))
      let sizes := (List.range n).map fun j => rdLe z (4 * j) 4
      let u := s2.modInst en q fun y => y.modMember e.l fun k => { k with data := b, sizes := sizes };
      dOp d = 0x86 → readOpnd e (opA d) s = .ok b s1 → readRuns e (opB d).space rows s1 = .ok z s2 → canWrite e (opB d).space rows s2 = .ok () s2 →
      (∀ k ∈ sizes, k % 64 = 0) → member u → exec (.alltoallv t c) s =
        .next (ends ((all (fun j s => s.colSend en (s.colFrame en x 7 s.node (nth g.members j ⟨0, 0, 0⟩).node (nth g.members j ⟨0, 0, 0⟩).tile 0 m.rank
          (nth sizes j 0) [])) u).sizesIn en q m))) ∧
    (let rb := recordBytes (dColPlen d)
      let rows := (List.range (opA d).rows).map fun k => (e.at (opA d) + ((k * (if (opA d).stride = 0 then rb else (opA d).stride) : Nat) : Int), rb)
      let u := s1.modInst en q fun y => y.modMember e.l fun k => { k with data := b }
      readRuns e (opA d).space rows s = .ok b s1 → (cutRecords (dColPlen d) b).all (recordOk (dColKey d)) = true → member u →
      (dOp d = 0x87 → exec (.sortmerge t c) s = .next (ends (u.announce en q m 7 (memberRecords d b).length))) ∧
      (dOp d = 0x88 → exec (.filtcomp t c) s = .next (ends (u.announce en q m 7 (memberRecords d b).length))))

/-- Groups: COMMIT_LIST sets BUSY and keeps the epoch asked for, INVALIDATE aborts and ends an entry, and LIST_COMMIT_DONE puts a list that passes every
check of Table 8-3 in force, or sets LIST_ERR and changes nothing of the group (R182, R184, R185).
A stage's window closes once every input of it is in, an instance completes at a member whose outputs are in and whose part is accepted, late or
lost members abort what depends on them, and refused messages go again until the sender's watchdog expires (R187, R193, R196, R200, R201, R204). -/
def Obligations.GroupsAndInstances : Prop :=
  (∀ (s : State) (src : Src) (e k : Nat), e < 256 →
     (s.fld (Reg.colGrpState e) 57 57 = 1 → (s.external 1).fld (Reg.colGrpState e) 57 57 = 1 ∧
       exec (.commitList src e k) s = .next ((s.external 1).badAccess src true (Reg.colGrpCtrl e) .busy) ∧
       exec (.invalidate src e) s = .next ((s.external 1).badAccess src true (Reg.colGrpCtrl e) .busy)) ∧
     (s.fld (Reg.colGrpState e) 57 57 = 0 →
       exec (.commitList src e k) s =
         .next (((s.external 1).withFld (Reg.colGrpState e) 57 57 1).modGroup e fun g => { g with newEpoch := k % 65536 }) ∧
       (s.groupOn e = true → exec (.invalidate src e) s =
         .next ((((s.external 1).abortAll e 0x56).withFld (Reg.colGrpCfg e) 0 0 0).modGroup e fun g => { g with anyEpoch := true })) ∧
       (s.groupOn e = false → exec (.invalidate src e) s = .next ((s.external 1).modGroup e fun g => { g with anyEpoch := true })) ∧
       ∀ bad, exec (.listCommitDone e bad) s = .next s) ∧
     (∀ bad s1 words, s.fld (Reg.colGrpState e) 57 57 = 1 → s.listRead e bad (s.staged e []).owner = (s1, words) →
       let ended := (s1.withFld (Reg.colGrpState e) 57 57 0).withFld (Reg.colGrpState e) 56 53 (s1.listError e words)
       (s1.listError e words ≠ 0 → exec (.listCommitDone e bad) s = .next ended) ∧
       (∀ ws, words = some ws → s1.listError e words = 0 → ∃ t, exec (.listCommitDone e bad) s = .next t ∧ t.groupOn e = true ∧
         t.groupEpoch e = (ended.group e).newEpoch % 65536 ∧ t.fld (Reg.colGrpState e) 47 16 = 0 ∧
         (s1.wf = true → (t.group e).members = ws.map memberOf ∧ (t.group e).insts = [] ∧ (t.group e).issued = [] ∧
           (t.group e).owner = (ended.staged e []).owner)))) ∧
  (∀ (s : State) (e q : Nat) (x : Inst), (s.group e).inst q = some x →
     let g := s.group e
     (∀ w n, s.groupOn e = true → colMerges x.opcode = false →
       let idx := x.window g w
       let open_ := x.closed.contains w = false ∧ idx ≠ [] ∧ ((g.ranksOn s.node).isEmpty || !x.members.isEmpty) = true ∧
         ∀ i ∈ idx, ∀ k ∈ s.sources g x, (x.part g k.1 k.2 i).isSome = true
       (colSums x.opcode = true → open_ → exec (.windowClose e q ⟨w, n⟩) s = .next ((s.closeSum e x w idx n).endIfQuiet e q)) ∧
       (colSums x.opcode = false → colParity x.opcode = true → open_ →
         exec (.windowClose e q ⟨w, n⟩) s = .next ((s.closeParity e x w idx).endIfQuiet e q)) ∧
       (¬ open_ → exec (.windowClose e q ⟨w, n⟩) s = .next (s.endIfQuiet e q))) ∧
     (∀ n, s.groupOn e = true → colMerges x.opcode = true → exec (.windowClose e q ⟨0, n⟩) s = .next ((s.closeMerge e x).endIfQuiet e q)) ∧
     (∀ t m, x.members.find? (fun m => s.phys m.tile == t) = some m →
       let due := m.done = false ∧ m.accepted = true ∧ m.need = some 0 ∧ (x.opcode = 0x84 → x.released = true)
       let w := (s.writeGot m m.got).modInst e q fun y => y.modMember m.tile fun k => { k with done := true }
       (due → (w.ctx t m.ctx).desc = some m.desc → exec (.instanceComplete e q t) s =
         .next (((w.modCtx t m.ctx fun c => { c with allDone := true }).tileCount t 0x04 1).endIfDone e q)) ∧
       (due → (w.ctx t m.ctx).desc ≠ some m.desc → exec (.instanceComplete e q t) s = .next (w.endIfDone e q)) ∧
       (¬ due → exec (.instanceComplete e q t) s = .next s)) ∧
     exec (.memberLate e q) s = .next (s.abortInst e q 0x51 (s.missingRank e q)) ∧
     (∀ node, s.groupOn e = true →
       let near := (s.node ≠ g.rootNode ∧ treeNext g.rootNode s.node = node) ∨ (g.children s.node).contains node = true
       let u := s.modGroup e fun g => { g with lost := g.lost.filter (· != node) }
       (near → g.insts = [x] → exec (.memberLost e node) s = .next (u.abortInst e q 0x52 (g.lowestRank node))) ∧
       (¬ near → exec (.memberLost e node) s = .next u)) ∧
     (let u := s.modGroup e fun g => { g with refused := [] }
     (∀ k f, g.refused = [(k, f)] → s.clk.kclk < k → exec (.epochAheadRepeat e) s = .next (u.colSendTill e k f)) ∧
       ((∀ y ∈ g.refused, y.1 ≤ s.clk.kclk) → exec (.epochAheadRepeat e) s = .next u)) ∧
     exec .heartbeat s = .next ((List.range 256).foldl (fun s k => s.heartbeatOf k) s) ∧
     (let near := (if s.node = g.rootNode then [] else [treeNext g.rootNode s.node]) ++ g.children s.node
     (s.groupOn e = true → (s.inflight e).head? = some x →
       s.heartbeatOf e = near.foldl (fun s n => s.colSend e (s.colFrame e x 6 s.node n g.redBase 0 0 0 [])) s) ∧
       (s.groupOn e = false → s.heartbeatOf e = s)))

/-- What every group message meets before its effect: a bad header or an unknown tag is counted, an older epoch and a message for an instance that has ended
are counted as stale, a newer epoch goes back to its sender, and a message whose opcode or parameters differ from the instance's aborts it with cause 0x53
(R192, R199, R204).
The effect of each group message on an instance that it meets: a stage takes contributions and partials or passes them on, results are delivered,
credit lets queued messages go and a refusal marks the message it means, an abort ends the instance, or is recorded and passed on where the instance has
completed, sizes, counts and arrivals advance its phases (R187, R189, R193 to R196, R202, R204). -/
def Obligations.GroupMessages : Prop :=
  (∀ (s : State) (f : Frame) (row : Frame → Instr) (kind : Nat),
     (row, kind) ∈ [(Instr.contribution, 1), (.partialMsg, 2), (.result, 3), (.credit, 4), (.abortMessage, 5), (.heartbeatMessage, 6), (.sizeCountMessage, 7),
       (.barrierMessage, 8)] →
     let s0 := if f.src = s.node then s else s.external 1
     let p := f.payload
     (colHeaderOk kind f = false → exec (row f) s = .next (s0.bump Reg.colUnknownGroupCnt)) ∧
     (colHeaderOk kind f = true → s.tagEntry (cmTag p) = none → exec (row f) s = .next (if isMulticast f then s0 else s0.bump Reg.colUnknownGroupCnt)) ∧
     (∀ e, s.addressed f kind e → e < 256 →
       let d := (s.groupEpoch e + 65536 - cmEpoch p) % 65536
       (d ≠ 0 → d < 32768 → exec (row f) s = .next ((s.messageIn f e).bump (Reg.colGrpStaleCnt e))) ∧
       (32768 ≤ d → exec (row f) s = .next ((s.messageIn f e).refuseEpoch e f)) ∧
       (∀ x, kind ∈ [1, 2, 3, 7, 8] → d = 0 → (s.group e).inst (cmSeq p) = some x → (x.opcode ≠ cmOp p ∨ x.param ≠ cmParam p) →
         exec (row f) s = .next ((s.messageIn f e).abortInst e (cmSeq p) 0x53 none)) ∧
       (d = 0 → (s.group e).inst (cmSeq p) = none → ∀ b, (s.group e).ended.find? (·.1 == cmSeq p) = some (cmSeq p, b) →
         kind ≠ 5 → (kind = 4 → cmStatus p = 0) → exec (row f) s = .next ((s.messageIn f e).bump (Reg.colGrpStaleCnt e))))) ∧
  (∀ (s : State) (f : Frame) (e : Nat) (x : Inst),
     let p := f.payload
     let q := cmSeq p
     let u := s.messageIn f e
     let g := s.group e
     let op := cmOp p
     let data := p.drop 32
     let input (kind : Nat) (b : Bytes) : ColIn := ⟨kind, cmSrc p, cmOffset p, cmCount p, b⟩
     let passed (kind : Nat) := ((u.stageTake e q (input kind [])).grantNow e q (input kind data)).copyOn e q (cmOffset p) (cmCount p) data
     let fromBelow : Prop := f.src = s.node ∨ (g.children s.node).contains f.src = true
     e < 256 →
     (s.meets f 1 e x →
       (colDirect op = false → colCopies op = false → colMerges op = false → exec (.contribution f) s = .next (u.stageTake e q (input 1 data))) ∧
       (colMerges op = true → exec (.contribution f) s = .next (u.stageTake e q (input 1 (stampRecords x.recordLen f.origin data)))) ∧
       (colCopies op = true → exec (.contribution f) s = .next (passed 1)) ∧
       (let v := u.modInst e q fun y => { y with inputs := y.inputs ++ [⟨11, cmSrc p, f.flow % 2 ^ 15, data.length, []⟩] }
       colDirect op = true →
         (∀ m, x.members.find? (·.tile == f.flow % 2 ^ 15) = some m → exec (.contribution f) s = .next (v.deliverDirect e q m (input 1 data))) ∧
         (x.members.find? (·.tile == f.flow % 2 ^ 15) = none → exec (.contribution f) s =
           .next (v.modInst e q fun y => { y with inputs := y.inputs ++ [⟨9, cmSrc p, cmOffset p, f.flow % 2 ^ 15, data⟩] })))) ∧
     (s.meets f 2 e x →
       (colCopies op = true → exec (.partialMsg f) s = .next ((passed 2).endIfQuiet e q)) ∧
       (colCopies op = false → exec (.partialMsg f) s = .next (u.stageTake e q (input 2 data)))) ∧
     (s.meets f 3 e x →
       let v := if (g.ranksOn s.node).isEmpty then u else u.resFlags e (cmStatus p)
       let v := if forAll x data then v.sendDown e q 3 (cmStatus p) (cmOffset p) (cmCount p) data else v
       let w := v.modInst e q fun y => { y with relayed := y.relayed + max 1 (cmCount p) }
       let one := x.members.find? fun m => m.tile == f.flow % 2 ^ 15
       (data = [] ∨ (op = 0x80 ∧ x.members = []) ∨ (op = 0x81 ∧ one = none) → exec (.result f) s = .next (w.endIfQuiet e q)) ∧
       (data ≠ [] → op ∈ [0x82, 0x83, 0x84, 0x85, 0x86] → exec (.result f) s = .next ((w.deliverAll e q (cmOffset p) data).endIfQuiet e q)) ∧
       (∀ m, data ≠ [] → op = 0x80 → x.members.head? = some m →
         exec (.result f) s = .next ((w.deliverAll e q (cmOffset p * colDestBytes m.desc) data).endIfQuiet e q)) ∧
       (∀ m, data ≠ [] → op = 0x81 → one = some m → exec (.result f) s = .next ((w.deliver e q m.tile
         ((cmOffset p - m.rank * ((opA m.desc).count / max 1 g.members.length)) * colDestBytes m.desc) data).endIfQuiet e q)) ∧
       (data ≠ [] → colParity op = true ∨ (colMerges op = true ∧ x.toAll = false) →
         exec (.result f) s = .next ((w.deliverOne e q (f.flow % 2 ^ 15) (cmOffset p) data).endIfQuiet e q)) ∧
       (data ≠ [] → colMerges op = true → x.toAll = true →
         exec (.result f) s = .next ((w.deliverAll e q (cmOffset p) data).endIfQuiet e q))) ∧
     (s.meets f 4 e x →
       let key := if cmOffset p < 2 ^ 14 then 2 * cmOffset p + 1 else 2 * cmSrc p
       let v := u.modInst e q fun x => { x with unacked := mapPut 0 key (mapGet 0 key x.unacked - cmCount p) x.unacked }
       (cmStatus p = 0 → exec (.credit f) s = .next (((v.colDrainAll e).endIfDone e q).endIfQuiet e q)) ∧
       (∀ m, cmStatus p = 1 → g.sent.find? (fun m => refusedBy f m.2) = some m → exec (.credit f) s = .next (u.modGroup e fun g => { g with
         sent := g.sent.erase m,
         refused := g.refused ++ [(m.1, if isMulticast m.2 then { m.2 with dest := f.src, flow := g.redBase } else m.2)] })) ∧
       (cmStatus p = 1 → g.sent.find? (fun m => refusedBy f m.2) = none → exec (.credit f) s = .next u)) ∧
     (s.meets f 5 e x → exec (.abortMessage f) s = .next (u.abortInst e q (cmStatus p) none)) ∧
     (s.addressed f 5 e → s.groupEpoch e = cmEpoch p → g.inst q = none → g.ended.find? (·.1 == q) = some (q, 0) → exec (.abortMessage f) s =
       .next (((u.recordAbort e q (cmStatus p) none).relayAbort e q f).modGroup e fun g => { g with ended := (q, cmStatus p) :: g.ended })) ∧
     (s.addressed f 6 e → s.groupEpoch e = cmEpoch p → (g.inst q).isSome = true ∨ g.ended.find? (·.1 == q) = none →
       exec (.heartbeatMessage f) s = .next u ∧ (s.wf = true → (u.group e).insts = g.insts)) ∧
     (s.meets f 7 e x →
       (op ≠ 0x86 → fromBelow → exec (.sizeCountMessage f) s =
         .next ((u.modInst e q fun x => { x with inputs := x.inputs ++ [input 7 data] }).arrive e q 7)) ∧
       (op ≠ 0x86 → ¬ fromBelow → exec (.sizeCountMessage f) s = .next ((u.phaseEnd e q 7 (cmCount p) (rdLe p 32 8)).endIfQuiet e q)) ∧
       (∀ r y m, op = 0x86 → (g.ranksOn s.node).find? (fun r => (nth g.members r ⟨0, 0, 0⟩).tile == f.flow % 2 ^ 15) = some r →
         let v := u.modInst e q fun x => { x with inputs := x.inputs ++ [⟨7, cmOffset p, r, cmCount p, []⟩] }
         (v.group e).inst q = some y → y.members.find? (·.rank == r) = some m → exec (.sizeCountMessage f) s = .next (v.sizesIn e q m))) ∧
     (s.meets f 8 e x →
       (fromBelow → exec (.barrierMessage f) s = .next ((u.modInst e q fun x => { x with inputs := x.inputs ++ [input 8 []] }).arrive e q 8)) ∧
       (¬ fromBelow → exec (.barrierMessage f) s = .next ((u.phaseEnd e q 8 (cmCount p) 0).endIfQuiet e q))))

/-! Ports and the Ubrix link. -/

/-- A group that a live link receives: a bad one asks for a replay and may lose alignment; a good one acknowledges, and is taken when it is the next, counted
when it is old, and left when it is ahead; on a port that trains, four good ones in a row declare alignment and CREDIT_INIT goes out; a replay sends every
unacknowledged group again, or retrains after eight attempts; CREDIT_INIT gives the first credits, or the group to go on from; a bad one is counted, and is a
bad block where its mark or CRC is bad (R216, R221, R224, R226, R227).
TIME sets: a bad one is counted; a good one leaves its times to be echoed, measures offset and delay, judges the neighbour, and brings up a port that waits for
it and has had its CREDIT_INIT; a sent one carries the time, the echo and whether the package is in step, and on a port that is up waits for a place between
groups 15 blocks after the last ordered set; four periods without one put the neighbour of an enabled port out of step, up or not (R225, R226, R266, R270). -/
def Obligations.LinkTraffic : Prop :=
  ((∀ (s : State) (p : Nat) (b : Bytes),
     let bad := rdLe b 0 1 / 16 ≠ 5 ∨ crc32c (b.take 1100) ≠ rdLe b 1100 4
     let trains := s.portOn p = true ∧ s.fabricPort p = true ∧ (s.linkState p = 1 ∨ s.linkState p = 3)
     let runs (n : Nat) := s.modPort p fun x => { x with goodRun := n }
     let u := ((s.bump (portReg p Reg.lnkCrcFailCnt)).modPort p fun x => { x with nakDue := true }).modPort p fun x =>
       { x with badRun := x.badRun + 1, goodRun := 0 }
     let t := slice b 1088 16
     let w := rdLe t 0 2
     let v := (s.modPort p fun x => { x with badRun := 0, goodRun := min 4 (x.goodRun + 1) }).takeTrailer p t
     let next := (v.port p).expSeq
     let taker := s.fabricPort p = true ∧ s.portOn p = true ∧ 1 ≤ s.linkState p ∧ s.linkState p ≤ 3
     let run := s.modPort p fun x => { x with badRun := 0 }
     (s.linkLive p = false → ¬ trains → exec (.groupReceive p b) s = .next s) ∧
     (s.linkLive p = false → trains →
       (bad → exec (.groupReceive p b) s = .next (runs 0)) ∧
       (¬ bad → (s.port p).goodRun ≠ 3 → exec (.groupReceive p b) s = .next (runs (min 4 ((s.port p).goodRun + 1)))) ∧
       (¬ bad → (s.port p).goodRun = 3 → exec (.groupReceive p b) s = .next ((runs 4).putSet p (s.creditInitSet p)))) ∧
     (s.linkLive p = true → bad → ((u.port p).badRun < 4 → exec (.groupReceive p b) s = .next u) ∧
       (4 ≤ (u.port p).badRun → exec (.groupReceive p b) s = .next (u.retrain p 1))) ∧
     (s.linkLive p = true → ¬ bad →
       (bit w 12 = true → exec (.groupReceive p b) s = .next v) ∧
       (bit w 12 = false → w % 4096 = next → exec (.groupReceive p b) s = .next ((List.range 4).foldl (fun s i => s.takeCell p (slice b (272 * i) 272))
         (v.withPort p { v.port p with expSeq := (next + 1) % 4096, ackSend := some next }))) ∧
       (bit w 12 = false → w % 4096 ≠ next → sgn 12 ((w % 4096 + 4096 - next) % 4096) < 0 →
         exec (.groupReceive p b) s = .next (v.bump (portReg p Reg.lnkDupGroupCnt))) ∧
       (bit w 12 = false → w % 4096 ≠ next → 0 ≤ sgn 12 ((w % 4096 + 4096 - next) % 4096) → exec (.groupReceive p b) s = .next v)) ∧
     (s.linkLive p = false ∨ (s.port p).replay = [] → exec (.replayTimeout p) s = .next s) ∧
     (s.linkLive p = true → (∃ g ∈ (s.port p).replay, 8 ≤ g.attempts) → exec (.replayTimeout p) s = .next (s.retrain p 2)) ∧
     (s.linkLive p = true → s.wf = true → p < 128 → (s.port p).timeOwed = false → (s.port p).replay ≠ [] → (∀ g ∈ (s.port p).replay, g.attempts < 2) →
       ∃ t, exec (.replayTimeout p) s = .next t ∧
       (t.port p).replay = (s.port p).replay.map (fun g => { g with attempts := g.attempts + 1 }) ∧
       t.out.length = s.out.length + (s.port p).replay.length ∧ t.tiles = s.tiles ∧ t.ctrls = s.ctrls) ∧
     (¬ taker → exec (.creditInit p b) s = .next s) ∧
     (taker → s.wf = true → p < 128 →
       (setOk b 2 = false → let z := s.bump (portReg p Reg.lnkOsBadCnt)
         (rdLe b 0 1 / 16 = 10 → crc32c (b.take 60) = rdLe b 60 4 → exec (.creditInit p b) s = .next (z.modPort p fun x => { x with badRun := 0 })) ∧
         (rdLe b 0 1 / 16 ≠ 10 ∨ crc32c (b.take 60) ≠ rdLe b 60 4 →
           let k := z.modPort p fun x => { x with badRun := x.badRun + 1, goodRun := 0 }
           (s.linkLive p = false ∨ (s.port p).badRun < 3 → exec (.creditInit p b) s = .next k) ∧
           (s.linkLive p = true → 3 ≤ (s.port p).badRun → exec (.creditInit p b) s = .next (k.retrain p 1)))) ∧
       (setOk b 2 = true → (s.port p).linked = false → exec (.creditInit p b) s = .next (run.withPort p { run.port p with
         linked := true, credIn := true, crSeen := [], txCred := (List.range 16).foldl (fun m v => mapPut 0 v (rdLe b (8 + 2 * v) 2) m) [] })) ∧
       (setOk b 2 = true → (s.port p).linked = true → (∀ g ∈ (s.port p).replay, g.seq ≠ rdLe b 40 2 % 4096) →
         exec (.creditInit p b) s = .next (run.withPort p { run.port p with replay := [], credIn := true })) ∧
       (∀ l g r, setOk b 2 = true → (s.port p).linked = true → (s.port p).timeOwed = false → (s.port p).replay = l ++ g :: r →
         g.seq = rdLe b 40 2 % 4096 → (∀ x ∈ l, x.seq ≠ g.seq) → ∃ t, exec (.creditInit p b) s = .next t ∧
           (t.port p).replay = (g :: r).map (fun x => { x with attempts := 0 }) ∧ t.out.length = s.out.length + r.length + 1))) ∧
   (∀ (ack : Nat) (l r : List RGroup) (g : RGroup), g.seq = ack → (∀ x ∈ l, x.seq ≠ ack) → ackGroups ack (l ++ g :: r) = r) ∧
   ∀ (ack : Nat) (l : List RGroup), (∀ x ∈ l, x.seq ≠ ack) → ackGroups ack l = l) ∧
  (∀ (s : State) (p : Nat) (b : Bytes), p < 128 →
     let t1 := rdLe b 16 8
     let t2 := rdLe b 24 8
     let t3 := rdLe b 8 8
     let sd (x y : Nat) : Int := sgn 64 ((x + 2 ^ 64 - y) % 2 ^ 64)
     let off := (sd t2 t1 + sd t3 s.now) / 2
     let dly := (sd s.now t1 - sd t3 t2) / 2
     let flag := bit (rdLe b 32 1) 0
     let u := (s.modPort p fun x => { x with badRun := 0 }).modPort p fun x => { x with echoTx := t3, echoRx := s.now, lastTime := s.clk.kclk }
     let v := if (s.port p).firstTime = true ∧ (s.port p).credIn = true then
       (u.modPort p fun x => { x with firstTime := false }).withFld (portReg p Reg.lnkPortStatus) 2 0 2 else u
     let owed := s.modPort p fun x => { x with timeOwed := true, timeAt := s.clk.kclk }
     (s.linkLive p = false → exec (.timeSetSend p) s = .next s ∧ exec (.timeSetReceive p b) s = .next s.bootScan) ∧
     (s.fabricPort p = true → s.portOn p = true → ∃ t, exec (.timeSetTimeout p) s = .next t ∧ t.fld (portReg p Reg.ftmNbrStatus) 0 0 = 0 ∧
       t.out = s.out ∧ t.tiles = s.tiles ∧ t.voq = s.voq ∧ (s.wf = true → (t.port p).goodSets = 0)) ∧
     (s.fabricPort p = false ∨ s.portOn p = false → exec (.timeSetTimeout p) s = .next s) ∧
     (s.linkLive p = true →
       (s.portUp p = false ∨ ((s.port p).filling = [] ∧ 15 ≤ (s.port p).sinceOs) →
         exec (.timeSetSend p) s = .next ((((owed.modPort p fun x => { x with timeOwed := false }).modPort p fun x => { x with sinceOs := 0 })).emit
           (.orderedSet p (orderedSet 1 (natLe 8 s.now ++ natLe 8 (s.port p).echoTx ++ natLe 8 (s.port p).echoRx ++ natLe 1 (if s.inStep then 1 else 0)))))) ∧
       (s.portUp p = true → (s.port p).filling ≠ [] ∨ (s.port p).sinceOs < 15 → exec (.timeSetSend p) s = .next owed) ∧
       (setOk b 1 = false → exec (.timeSetReceive p b) s = .next (s.badSet p b).bootScan) ∧
       (setOk b 1 = true → t1 = 0 → t2 = 0 → exec (.timeSetReceive p b) s = .next (v.judge p flag none).bootScan) ∧
       (setOk b 1 = true → ¬ (t1 = 0 ∧ t2 = 0) → exec (.timeSetReceive p b) s = .next (((((v.withFld (portReg p Reg.ftmNbrStatus) 63 32 (toTwos 32 off)).withFld
         (portReg p Reg.ftmNbrDelay) 31 0 (toTwos 32 dly)).judge p flag (some off)).servoTake p off).bootScan))) ∧
     (∀ o, (s.judge p false o).fld (portReg p Reg.ftmNbrStatus) 1 0 = 0) ∧
     (s.pins.autoBoot = false → s.bootScan = s) ∧
     ∀ body, body.length ≤ 52 → setOk (orderedSet 1 body) 1 = true)

/-- Training, retraining and narrowing: what each event does to STATE and the causes and counts it leaves, that a LINK_STATE narrows a port once, and only where
one end asked and a lane in use is not good at both, and that an event for a port that is off, retired or not in its state does nothing (R226 to R230).
Flow control received: a class is held for its time or released, by hold cells in quarter units of KCLK, by PAUSE and PFC in bit times of the rate; express is never
held; an expiry ends a hold and nothing else (R213, R222). -/
def Obligations.PortStates : Prop :=
  (∀ (s : State) (p : Nat), p < 128 →
     let a := portReg p Reg.lnkPortStatus
     let w := bits (s.portRec p) 2 1
     (∀ i v, s.portOn p = false ∨ (s.linkState p ≠ 1 ∧ s.linkState p ≠ 3) → exec (.linkTrainingDone p i v) s = .next s) ∧
     (∀ i v, s.portOn p = true → (s.linkState p = 1 ∨ s.linkState p = 3) →
       let z := if s.activeLanes p = 0 then (s.withFld a 4 3 w).withFld a 12 5 (2 ^ 2 ^ w - 1) else s
       (s.fabricPort p = false → exec (.linkTrainingDone p i v) s =
         .next ((z.withFld a 2 0 2).modPort p fun x => { x with preempt := bit (s.portRec p) 18 && v })) ∧
       (s.fabricPort p = true → i = false → exec (.linkTrainingDone p i v) s = .next ((z.withLinkState p 4).withFld a 23 21 5)) ∧
       (s.fabricPort p = true → i = true →
         let y := z.modPort p fun x => { x with firstTime := true, goodRun := 4, badRun := 0 }
         ((s.port p).goodRun < 4 → exec (.linkTrainingDone p i v) s = .next (y.putSet p (s.creditInitSet p))) ∧
         (4 ≤ (s.port p).goodRun → exec (.linkTrainingDone p i v) s = .next y))) ∧
     (s.portOn p = true → s.linkState p = 1 ∨ s.linkState p = 3 → ∃ t, exec (.trainingTimeout p) s = .next t ∧ t.linkState p = 1 ∧ t.fld a 23 21 = 6 ∧
       t.tiles = s.tiles ∧ t.voq = s.voq ∧ (s.fabricPort p = true → t.out = s.out) ∧ (s.fabricPort p = false → ∃ w k n, t.out = s.out ++ [.advertise p w k n]) ∧
       (s.wf = true → (t.port p).firstTime = false ∧ (t.port p).credIn = false)) ∧
     (s.portOn p = false ∨ (s.linkState p ≠ 1 ∧ s.linkState p ≠ 3) → exec (.trainingTimeout p) s = .next s) ∧
     (∀ c, let z := if c = RetrainCause.software then s.external 1 else s
       let recent := (s.port p).retrainAt.filter fun t => s.clk.kclk < t + 250000000
       (s.portOn p = false ∨ s.linkState p = 5 ∨ s.linkState p = 0 → exec (.retrain p c) s = .next z) ∧
       (s.portOn p = true → s.linkState p ≠ 5 → s.linkState p ≠ 0 → recent.length < 2 → ∃ t, exec (.retrain p c) s = .next t ∧ t.linkState p = 1 ∧
         t.fld a 23 21 = causeCode c ∧ (s.fabricPort p = true → t.out = s.out) ∧ t.tiles = s.tiles ∧ t.voq = s.voq ∧
         (s.wf = true → (t.port p).retrainAt = recent ++ [s.clk.kclk] ∧ (t.port p).replay = (s.port p).replay)) ∧
       (s.portOn p = true → s.linkState p ≠ 5 → s.linkState p ≠ 0 → 2 ≤ recent.length → ∃ t : State, exec (.retrain p c) s = .next (t.retirePort p) ∧
         t.fld a 23 21 = causeCode c)) ∧
     (∀ b, s.fabricPort p = false ∨ s.portOn p = false ∨ s.linkState p = 0 ∨ 4 ≤ s.linkState p → exec (.linkState p b) s = .next s) ∧
     (∀ b, s.fabricPort p = true → s.portOn p = true → 1 ≤ s.linkState p → s.linkState p ≤ 3 →
       (setOk b 3 = false → exec (.linkState p b) s = .next (s.badSet p b)) ∧
       (setOk b 3 = true →
         let asked := bit (rdLe b 10 1) 0
         let run := s.modPort p fun x => { x with badRun := 0 }
         let z := if asked then run.putSet p (s.linkStateSet p false) else run
         let good := s.goodLanes p &&& rdLe b 8 1
         let held := s.activeLanes p &&& good = s.activeLanes p
         ((asked = false ∧ (s.port p).reqWidth = none) ∨ held → exec (.linkState p b) s = .next z) ∧
         (asked = true ∨ (s.port p).reqWidth.isSome = true → ¬ held →
           (narrower good (s.portWidth p) = none → exec (.linkState p b) s = .next (z.retirePort p)) ∧
           (∀ code mask, narrower good (s.portWidth p) = some (code, mask) → exec (.linkState p b) s =
             .next ((((((z.withFld a 4 3 code).withFld a 12 5 mask).withLinkState p 3).bump (portReg p Reg.lnkNarrowCnt)).portFault p 0x10 1 false).modPort p
               fun x => { x with reqWidth := none, firstTime := false, credIn := false, goodRun := 0 }))))) ∧
     (∀ n l k, n < 4 → (∀ e, e < 32 → s.portOn (32 * n + e) = false) → ∃ t, exec (.berWindow n l k) s = .next t ∧ ∀ i, i < 128 →
       let x := nth l i ⟨0, 0⟩
       t.reg (pdReg n (Reg.lnkLaneBer i)) = BitVec.ofNat 64 (x.corrected % 2 ^ 48) ∧
       t.reg (pdReg n (Reg.lnkLaneUncorrCnt i)) = satAdd (s.reg (pdReg n (Reg.lnkLaneUncorrCnt i))) x.lostWords ∧
       let r := (s.reg (pdReg n Reg.lnkBerRetire)).toNat
       t.fld (pdReg n (Reg.lnkLaneStatus i)) 0 0 =
         if bits r 3 0 * k < x.corrected * 10 ^ bits r 8 4 then 1 else s.fld (pdReg n (Reg.lnkLaneStatus i)) 0 0) ∧
     ∀ good width code mask, narrower good width = some (code, mask) → 2 ^ code < width ∧ mask % 256 = mask ∧ mask &&& good = mask) ∧
  (∀ (s : State) (p c : Nat), p < 128 →
     let a := portReg p Reg.lnkPortStatus
     let up := s.portUp p = true ∧ s.fabricPort p = false
     let ticks (q : Nat) : Nat := if q = 0 then 0 else max 1 (q * 128 / s.macRate p)
     let counted := s.bump (portReg p Reg.lnkFlowctlRxCnt)
     (s.fabricPort p = false ∨ mapGet 0 c (s.port p).hold = 0 → exec (.holdExpiry p c) s = .next s) ∧
     (s.fabricPort p = true ∨ mapGet 0 c (s.port p).hold = 0 → exec (.pauseExpiry p c) s = .next s) ∧
     (s.fabricPort p = true → mapGet 0 c (s.port p).hold ≠ 0 →
       exec (.holdExpiry p c) s = .next ((s.modPort p fun t => { t with hold := mapPut 0 c 0 t.hold }).withFld a (13 + c) (13 + c) 0)) ∧
     (s.fabricPort p = false → mapGet 0 c (s.port p).hold ≠ 0 →
       exec (.pauseExpiry p c) s = .next ((s.modPort p fun t => { t with hold := mapPut 0 c 0 t.hold }).withFld a (13 + c) (13 + c) 0)) ∧
     (∀ q, ¬ up → exec (.pauseFrame p q) s = .next s) ∧ (∀ m l, ¬ up → exec (.pfcFrame p m l) s = .next s) ∧
     (∀ q, up → bit (s.portRec p) 20 = false ∨ bit (s.portRec p) 19 = true →
       exec (.pauseFrame p q) s = .next (counted.bump (portReg p Reg.lnkRxDropCnt))) ∧
     (∀ q, up → bit (s.portRec p) 20 = true → bit (s.portRec p) 19 = false →
       let z := if q = 0 then counted else counted.bump (portReg p Reg.lnkExpressFcIgnoredCnt)
       exec (.pauseFrame p q) s = .next ((List.range 7).foldl (fun s c => s.holdClass p c (ticks q)) z)) ∧
     (∀ m l, up → bit (s.portRec p) 19 = false → exec (.pfcFrame p m l) s = .next (counted.bump (portReg p Reg.lnkRxDropCnt))) ∧
     (∀ i q, up → bit (s.portRec p) 19 = true → i < 8 →
       let k := s.fld (portReg p Reg.lnkPfcMap) (3 * i + 2) (3 * i)
       (k ≠ 7 → exec (.pfcFrame p (1 <<< i) (List.replicate 8 q)) s = .next (counted.holdClass p k (ticks q))) ∧
       (k = 7 → exec (.pfcFrame p (1 <<< i) (List.replicate 8 q)) s = .next (counted.bump (portReg p Reg.lnkExpressFcIgnoredCnt)))) ∧
     (∀ k n, s.holdClass p k n = (s.modPort p fun t => { t with hold := mapPut 0 k (if n = 0 then 0 else s.clk.kclk + n) t.hold }).withFld a (13 + k) (13 + k)
       (if n = 0 then 0 else 1)))

/-! The switch. -/

/-- Frames that arrive, and the head of a local-delivery queue: what is counted, charged, classified, delivered or dropped. A fabric frame whose last cell has not
arrived is classified and queued at its first cell where it leaves by a fabric port, and else waits for its last; an Ethernet frame with an FCS error is dropped
unless its transmission has begun (R211, R232 to R234, R239, R274). -/
def Obligations.FrameArrivals : Prop :=
  ∀ (s : State) (p : Nat) (f : Frame) (ok : Bool),
    let v := 2 * f.cls + f.vc
    let len := s.wireLen p f
    let short := len < 64 ∨ s.maxFrame p < len
    let dropped := s.bump (portReg p Reg.lnkRxDropCnt)
    let ether := s.portUp p = true ∧ s.fabricPort p = false
    (s.portUp p = false → exec (.frameArrival p f ok) s = .next s) ∧
    (s.portUp p = true → s.fabricPort p = true →
      let a := mapGet Asm.idle v (s.port p).asm
      let est := min (s.maxFrame p) 2048
      let r := s.ingressClass p est est f
      (f ∈ (s.port p).rxDone →
        exec (.frameArrival p f ok) s = .next ((s.modPort p fun t => { t with rxDone := t.rxDone.erase f }).ingress p f (some v) true)) ∧
      (f ∉ (s.port p).rxDone → a.head ≠ some f →
        exec (.frameArrival p f ok) s = .next ((s.chargeCells p v (cellsOf f.payload.length)).ingress p f (some v) true)) ∧
      (f ∉ (s.port p).rxDone → a.head = some f →
        (a.fwd.isSome = true → exec (.frameArrival p f ok) s = .next s) ∧
        (a.fwd = none → r.2 = none → exec (.frameArrival p f ok) s = .next s) ∧
        (∀ c, a.fwd = none → r.2 = some c → s.cutsTo p c f = false → exec (.frameArrival p f ok) s = .next s) ∧
        (∀ c, a.fwd = none → r.2 = some c → s.cutsTo p c f = true → exec (.frameArrival p f ok) s =
          .next ((r.1.withAsm p v ⟨some f, false, some est⟩).classify p c f (some v) true true)))) ∧
    (ether → short → exec (.frameArrival p f ok) s = .next dropped) ∧
    (ether → ¬ short → isPtp f.payload = true →
      exec (.frameArrival p f true) s = .next ((s.frameReceived p len { f with origin := s.now }).emit (.ptp p f.payload s.now)) ∧
      exec (.frameArrival p f false) s = .next dropped) ∧
    (ether → ¬ short → isPtp f.payload = false →
      (∀ g, s.etherFrame p f = some g →
        (ok = true ∨ s.beginsNow p g = true → exec (.frameArrival p f ok) s = .next (s.ingress p g none ok)) ∧
        (s.beginsNow p g = false → exec (.frameArrival p f false) s = .next dropped)) ∧
      (s.etherFrame p f = none → exec (.frameArrival p f true) s =
          .next ((s.frameReceived p len { f with origin := s.now }).dropCounted p (pdReg (p / 32) Reg.rteStationMissCnt) f none) ∧
        exec (.frameArrival p f false) s = .next dropped)) ∧
    (∀ credit, let first := if f.payload.length ≤ 256 then len else min (s.maxFrame p) 2048
      let r := ((s.frameReceived p len f).chkFrame p 0 f).ingressClass p first len f
      (r.2 = none → s.ingress p f credit ok = r.1.dropCounted p (portReg p Reg.schPolDropCnt) f credit) ∧
      ∀ c, r.2 = some c → s.ingress p f credit ok = r.1.classify p c f credit ok false) ∧
    (∀ c q rest, s.localOf (localKey p c) = q :: rest → s.aged (p / 32) q = false →
      let u := s.withLocalOf (localKey p c) rest
      let k := portEntryStop p
      let w := if isEcho q.f then u.emit (.meshDeliver k q.f) else (u.meshPut k (localStop k q.f) q.f).disagree q.f
      let x := (if q.f.ce then w.echo (p / 32) q.f else w).release (p / 32) q
      exec (.localDelivery p c) s = .next (x.ageLocal p c (x.localOf (localKey p c)))) ∧
    (∀ c, s.localOf (localKey p c) = [] → exec (.localDelivery p c) s = .next s) ∧
    (∀ c q, s.wf = true → s.localOf (localKey p c) = [q] → s.aged (p / 32) q = true → exec (.localDelivery p c) s =
      .next ((((s.withLocalOf (localKey p c) []).dropAt p Reg.swiAgeDropCnt q.f).portCount p 0x08 (some q.cls) 1).release (p / 32) q))

/-- A cell slot: a waiting hold cell, then an express frame in transmission, an express frame that may start, the oldest open frame of another class, the class
that weighted fair queueing chooses unless an open frame waits for its next cell, and else a counted stall and an idle cell. Four cells close a group, and a TIME
set that waits leaves 15 blocks after the last ordered set (R222, R225, R255, R256, R286). -/
def Obligations.CellSlots : Prop :=
  ∀ (s : State) (e : Nat),
    let z := s.countClosed e
    let u := s.slotReady e
    let fab := u.fabricPort e
    let free := (z.port e).holdOut = [] ∨ z.fabricPort e = false ∨ z.replayRoom e = false
    let on7 (t : TxOpen) : Prop := u.txOpen e 7 = some t ∧ u.canContinue e 7 t = true
    (s.portUp e = false → exec (.cellSlot e) s = .next s) ∧
    (s.portUp e = true →
      (∀ h r, (z.port e).holdOut = h :: r → z.fabricPort e = true → z.replayRoom e = true →
        exec (.cellSlot e) s = .next ((z.modPort e fun t => { t with holdOut := r }).sendCell e (holdCellBytes h.1 h.2) none true)) ∧
      (∀ t, free → on7 t → exec (.cellSlot e) s = .next (u.nextCell e 7 t)) ∧
      (free → (¬ ∃ t, on7 t) →
        (u.canStart e 7 = true → ((∃ c, c < 7 ∧ (u.txOpen e c).isSome = true) ∧ fab = false →
            exec (.cellSlot e) s = .next ((u.portCount e 0x0A none 1).startFrame e 7)) ∧
          (¬ ((∃ c, c < 7 ∧ (u.txOpen e c).isSome = true) ∧ fab = false) → exec (.cellSlot e) s = .next (u.startFrame e 7))) ∧
        (u.canStart e 7 = false →
          (∀ c t, u.openChoice e = some c → u.txOpen e c = some t →
            exec (.cellSlot e) s = .next (if fab then u.nextCell e c t else u.finishFrame e c t)) ∧
          (∀ c, u.openChoice e = none → u.openWaits e = false → u.wfqChoice e = some c → exec (.cellSlot e) s = .next (u.startFrame e c)) ∧
          (u.openChoice e = none → u.openWaits e = true ∨ u.wfqChoice e = none →
            exec (.cellSlot e) s = .next (if fab then (u.countStall e).sendCell e idleCell none false else u.countStall e))))) ∧
    (∀ c, s.wfqChoice e = some c → c < 7 ∧ s.canStart e c = true ∧ s.isHeld e c = false) ∧
    (∀ c, s.openChoice e = some c → c < 7 ∧ ∃ t, s.txOpen e c = some t ∧ s.canContinue e c t = true) ∧
    (∀ cell m b, (s.port e).filling.length < 3 →
      s.sendCell e cell m b = s.withPort e { s.port e with filling := (s.port e).filling ++ [(cell, m)] }) ∧
    (∀ cell m b, s.wf = true → 3 ≤ (s.port e).filling.length → ∃ g, (s.sendCell e cell m b).voq = s.voq ∧
      ((s.port e).timeOwed = false → (s.sendCell e cell m b).out = s.out ++ [.group e g]) ∧
      (s.portUp e = true → (s.port e).timeOwed = true → (s.port e).sinceOs < 14 → (s.sendCell e cell m b).out = s.out ++ [.group e g]) ∧
      (s.portUp e = true → (s.port e).timeOwed = true → 14 ≤ (s.port e).sinceOs → ∃ x, (s.sendCell e cell m b).out = s.out ++ [.group e g, .orderedSet e x]))

/-- Congestion and flow control sent: an echo cuts or allocates a limiter, a rise frees those at their port's rate, flow control is repeated for the classes that
assert it, and a write of SWI_SAMPLE_CTRL restarts its count (R236, R240, R242, R243).
Pointers to punnet buffers: a return drops the count and sends a free buffer to be zeroed, a release ends a quarantine, a bad pointer is counted and recorded
with its cause and quarantines the buffer where the rule says so; allocation, configuration and zeroing, a memory buffer's state word and link kept in its region
(R247 to R251). The word's layout and the link are the model's free values (log entry 89). -/
def Obligations.CongestionAndPunnets : Prop :=
  (∀ (s : State) (n : Nat) (f : Frame),
     let l := (s.pdie n).limiters
     let mine (x : Limiter) : Bool := x.dest == f.src && x.cls == f.cls
     let md := s.fld (pdReg n Reg.swiCcCtrl) 7 0
     let floor := s.fld (pdReg n Reg.swiCcCtrl) 37 28 * 256
     let cut (x : Limiter) : Limiter := if mine x then { x with rate := max floor (x.rate * (256 - md) / 256), lastEcho := s.clk.kclk } else x
     (isEcho f = false → exec (.echoReceive n f) s = .next s) ∧
     (isEcho f = true → l.any mine = true → exec (.echoReceive n f) s = .next (s.modPdie n fun d => { d with limiters := l.map cut })) ∧
     (isEcho f = true → l.any mine = false → 1024 ≤ l.length → exec (.echoReceive n f) s = .next (s.bump (pdReg n Reg.swiCcTableFullCnt))) ∧
     (∀ e, isEcho f = true → l.any mine = false → l.length < 1024 → s.limiterPort n f.src f.flow = some e → exec (.echoReceive n f) s =
       .next (s.modPdie n fun d => { d with limiters := l ++ [⟨f.src, f.cls, s.portRate e * (256 - md) / 256, e, s.clk.kclk, 0⟩] })) ∧
     (isEcho f = true → l.any mine = false → l.length < 1024 → s.limiterPort n f.src f.flow = none → exec (.echoReceive n f) s = .next s) ∧
     (∃ t, exec (.rateIncrease n) s = .next t ∧ (s.wf = true → n < 4 → ∀ x ∈ (t.pdie n).limiters, x.rate < s.portRate x.egress ∧ ∃ y ∈ l,
       x.dest = y.dest ∧ x.cls = y.cls ∧ x.egress = y.egress ∧ x.freeAt = y.freeAt ∧ (x = y ∨ (y.lastEcho + s.fld (pdReg n Reg.swiCcCtrl) 27 18 * 250 ≤ s.clk.kclk ∧
         x.rate = y.rate + s.fld (pdReg n Reg.swiCcCtrl) 17 8 * 256 ∧ x.lastEcho = s.clk.kclk)))) ∧
     (∀ p, let m := maskOf ((maskBits (s.port p).fcOut 7).filter fun c => decide (s.fld (portReg p Reg.swiPortFc) 31 16 * 4096 < s.heldBytes p c))
       (m = 0 ∨ s.portUp p = false ∨ s.flowOn p = false → exec (.pauseRefresh p) s = .next s ∧ exec (.holdRefresh p) s = .next s) ∧
       (m ≠ 0 → s.portUp p = true → s.flowOn p = true → s.fabricPort p = true →
         exec (.holdRefresh p) s = .next (s.sendFlow p m true) ∧ exec (.pauseRefresh p) s = .next s) ∧
       (m ≠ 0 → s.portUp p = true → s.flowOn p = true → s.fabricPort p = false →
         exec (.pauseRefresh p) s = .next (s.sendFlow p m true) ∧ exec (.holdRefresh p) s = .next s)) ∧
     (∀ src p v, let u := s.external 1
       (bits v 30 27 = 0 → exec (.sampleCtrlWrite src p v) s = .next (u.badAccess src true (portReg p Reg.swiSampleCtrl) .badValue)) ∧
       (bits v 30 27 ≠ 0 → exec (.sampleCtrlWrite src p v) s = .next ((u.store (portReg p Reg.swiSampleCtrl) v).modPort p fun t => { t with sampled := 0 })))) ∧
  ((∀ (s : State) (src : Src) (n ptr i o : Nat), ptr < 2 ^ 32 →
     let u := s.external 1
     let p := u.pool n i
     let b := o / pkSize i
     let x := p.buf b
     let fault (s : State) (c : PtrCause) : State := (s.bump (pdReg n Reg.punPkFaultCnt)).withReg (pdReg n Reg.punPkFaultLast)
       (BitVec.ofNat 64 (ptr + c.code <<< 32))
     let dirty (s : State) : State := s.modPdie n fun d => { d with dirty := d.dirty ++ [(i, b)] }
     (u.pkFind n ptr = none → exec (.punPkReturn src n ptr) s = .next (fault u .range) ∧ exec (.punPkQuarRelease src n ptr) s = .next (fault u .range)) ∧
     (u.pkFind n ptr = some (i, o) →
       (o % pkSize i ≠ 0 → exec (.punPkReturn src n ptr) s = .next (fault (u.withPool n i (p.quarantine b)) .align) ∧
         exec (.punPkQuarRelease src n ptr) s = .next (fault u .align)) ∧
       (o % pkSize i = 0 → x.st = .allocated → 1 < x.cnt →
         exec (.punPkReturn src n ptr) s = .next (u.withPool n i (p.withBuf b { x with cnt := x.cnt - 1 }))) ∧
       (o % pkSize i = 0 → x.st = .allocated → x.cnt ≤ 1 →
         exec (.punPkReturn src n ptr) s = .next (dirty (u.withPool n i (p.withBuf b ⟨.dirty, 0, none⟩)))) ∧
       (o % pkSize i = 0 → x.st ≠ .allocated → exec (.punPkReturn src n ptr) s = .next (fault (u.withPool n i (p.quarantine b)) .state)) ∧
       (o % pkSize i = 0 → x.st ≠ .quarantined → x.st ≠ .quarDirty → exec (.punPkQuarRelease src n ptr) s = .next (fault u .state)) ∧
       (o % pkSize i = 0 → x.st = .quarantined → exec (.punPkQuarRelease src n ptr) s =
         .next (dirty (u.withPool n i ({ p with free := p.free.erase b }.withBuf b ⟨.dirty, 0, none⟩)))) ∧
       (o % pkSize i = 0 → x.st = .quarDirty → exec (.punPkQuarRelease src n ptr) s =
         .next (u.withPool n i ({ p with free := p.free.erase b }.withBuf b ⟨.dirty, 0, none⟩))))) ∧
   (∀ (s : State) (src : Src) (k a i o : Nat), a < 2 ^ 48 →
     let u := s.external 1
     let p := u.hmPool k i
     let b := o / hmSize i
     let x := p.buf b
     let dirty (s : State) : State := s.modCtrl k fun c => { c with dirty := c.dirty ++ [(i, b)] }
     let wrong := if o % hmSize i ≠ 0 then PtrCause.align else .state
     let put (q : Punnet) : State := (u.withHmPool k i q).hmShow k i [b]
     (u.hmFind k a 0 = none → exec (.punHmFree src k a) s = .next (u.hmFault k a 0 .range) ∧ exec (.punHmRef src k a) s = .next (u.hmFault k a 0 .range) ∧
       exec (.punHmQuarRelease src k a) s = .next (u.hmFault k a 0 .range)) ∧
     (u.hmFind k a 0 = some (i, o) →
       (o % hmSize i ≠ 0 ∨ x.st ≠ .allocated →
         let t := (if b < p.count then put (p.quarantine b) else u).hmFault k a i wrong
         exec (.punHmFree src k a) s = .next t ∧ exec (.punHmRef src k a) s = .next t) ∧
       (o % hmSize i = 0 → x.st = .allocated → x.cnt < 65535 →
         exec (.punHmRef src k a) s = .next (put (p.withBuf b { x with cnt := x.cnt + 1 }))) ∧
       (o % hmSize i = 0 → x.st = .allocated → 65535 ≤ x.cnt → exec (.punHmRef src k a) s = .next (u.hmFault k a i .refOvf)) ∧
       (o % hmSize i = 0 → x.st = .allocated → 1 < x.cnt →
         exec (.punHmFree src k a) s = .next (put (p.withBuf b { x with cnt := x.cnt - 1 }))) ∧
       (o % hmSize i = 0 → x.st = .allocated → x.cnt ≤ 1 →
         exec (.punHmFree src k a) s = .next (dirty (put (p.withBuf b ⟨.dirty, 0, none⟩)))) ∧
       (o % hmSize i ≠ 0 ∨ (x.st ≠ .quarantined ∧ x.st ≠ .quarDirty) → exec (.punHmQuarRelease src k a) s = .next (u.hmFault k a i wrong)) ∧
       (o % hmSize i = 0 → x.st = .quarantined → exec (.punHmQuarRelease src k a) s =
         .next (dirty (put ({ p with free := p.free.erase b }.withBuf b ⟨.dirty, 0, none⟩)))) ∧
       (o % hmSize i = 0 → x.st = .quarDirty → exec (.punHmQuarRelease src k a) s =
         .next (put ({ p with free := p.free.erase b }.withBuf b ⟨.dirty, 0, none⟩))))) ∧
   (∀ (s : State) (src : Src) (k i : Nat),
     let answer (s : State) (v : Nat) : State := s.emit (.readReply src (memReg k (Reg.punHmAlloc i)) (BitVec.ofNat 64 v))
     ((∀ j, i ≤ j → j < 4 → (s.hmPool k j).en = false ∨ (s.hmPool k j).take = none) →
       exec (.punHmAlloc src k i) s = .next (answer (s.bump (memReg k Reg.punHmEmptyCnt)) 0)) ∧
     (∀ j b p' st, i ≤ j → j < 4 → (s.hmPool k j).en = true → (s.hmPool k j).take = some (b, p') → s.hmStart (s.hmPool k j) = some st →
       (∀ m, i ≤ m → m < j → (s.hmPool k m).en = false ∨ (s.hmPool k m).take = none) →
       exec (.punHmAlloc src k i) s = .next (answer (((s.withHmPool k j p').hmShow k j [b]).hmLink k j b 0) (st + b * hmSize j + j)))) ∧
   (∀ (s : State) (src : Src) (k i v : Nat),
     let a := memReg k (Reg.punHmCfg i)
     let u := s.external 1
     let on := bit (u.reg a).toNat 0
     let same := bits v 54 1 = bits (u.reg a).toNat 54 1
     let w := u.withReg a (BitVec.ofNat 64 (bits v 54 1 <<< 1))
     (on = true → ¬ same → v % 2 = 1 → exec (.punnetEnable src k i v) s = .next (u.badAccess src true a .busy)) ∧
     (on = true → ¬ same → v % 2 = 0 → exec (.punnetDisable src k i v) s = .next (u.badAccess src true a .busy)) ∧
     (on = true → same → v % 2 = 1 → exec (.punnetEnable src k i v) s = .next u) ∧
     (on = true → same → v % 2 = 0 →
       exec (.punnetDisable src k i v) s = .next ((u.withFld a 0 0 0).withHmPool k i { u.hmPool k i with en := false })) ∧
     (on = false → v % 2 = 0 → exec (.punnetDisable src k i v) s = .next w) ∧
     (on = false → v % 2 = 1 → w.hmEnableOk k i v = false → exec (.punnetEnable src k i v) s = .next (w.badAccess src true a .badValue)) ∧
     (on = false → v % 2 = 1 → w.hmEnableOk k i v = true → exec (.punnetEnable src k i v) s = .next ((w.hmEnable k i v).withFld a 0 0 1))) ∧
   (∀ (s : State) (n i b : Nat) (r : List (Nat × Nat)), n < 4 →
     ((s.pdie n).dirty = [] → exec (.dirtyZeroed n) s = .next s) ∧
     ((s.pdie n).dirty = (i, b) :: r →
       exec (.dirtyZeroed n) s = .next ((s.modPdie n fun d => { d with dirty := r }).withPool n i ((s.pool n i).zeroed b)))) ∧
   (∀ (s : State) (k i b : Nat) (r : List (Nat × Nat)),
     ((s.ctrl k).dirty = [] → exec (.dirtyZeroed (k + 4)) s = .next s) ∧
     ((s.ctrl k).dirty = (i, b) :: r → let p := s.hmPool k i
       let t := ((((s.zeroHbm k (s.hmOffset p + b * hmSize i) (hmSize i)).modCtrl k fun c => { c with dirty := r }).withHmPool k i (p.zeroed b))).hmShow k i [b]
       ((p.buf b).st = .dirty → exec (.dirtyZeroed (k + 4)) s = .next (t.hmLink k i b (Config.freeLink (p.free.headD p.fresh)).toNat)) ∧
       ((p.buf b).st ≠ .dirty → exec (.dirtyZeroed (k + 4)) s = .next t))) ∧
   ∀ (p q : Punnet) (b : Nat), p.take = some (b, q) → q.buf b = ⟨.allocated, 1, none⟩ ∧ q.count = p.count ∧
     ((b ∈ p.free ∧ (p.buf b).st = .free) ∨ (b = p.fresh ∧ p.fresh < p.count)))

/-! Scheduling, shutters, time and routes. -/

/-- Shutter lists: arming checks the pending list and names the takeover, the first start of a cycle that leaves the lead; cancelling disarms; the takeover copies
the pending list; an entry takes force as fabric time selects it, and what waits or is sent at a class it closes is marked (R261, R262, R264).
Buckets, fabric-time steps and statistics: a bucket written with a rate or burst out of range is refused, else its tokens are limited to the burst or filled; a
step moves fabric time unless a port disciplines it, and timers skip what it passes over (skipping is the model's reading, log entry 92); a sample that is due takes
the depth and the delay of every port and class (R260, R266, R268, R273). -/
def Obligations.ShuttersAndBuckets : Prop :=
  ((∀ (s : State) (src : Src) (p : Nat), p < 128 →
     let u := s.external 1
     let st := portReg p Reg.shuStatus
     let n := (s.reg (portReg p Reg.shuPendCount)).toNat % 512
     let at_ := takeover (u.reg (portReg p Reg.shuPendBase)).toNat ((u.reg (portReg p Reg.shuPendCycle)).toNat % 2 ^ 34)
       ((u.reg (portReg p Reg.shuPendCount)).toNat % 512) u.now 160000
     (u.pendOk p = true → exec (.shutterArm src p) s = .next ((u.withReg (portReg p Reg.shuTakeover) (BitVec.ofNat 64 at_)).withFld st 1 1 1)) ∧
     (u.pendOk p = false → exec (.shutterArm src p) s = .next ((u.withFld st 2 2 1).badAccess src true (portReg p Reg.shuCtrl) .badValue)) ∧
     exec (.shutterCancel src p) s = .next (u.withFld st 1 1 0) ∧
     (s.fld st 1 1 = 0 → exec (.shutterTakeover p) s = .next s) ∧
     (s.fld st 1 1 = 1 → n ≤ 256 → ∃ t, exec (.shutterTakeover p) s = .next t ∧ t.fld st 1 1 = 0 ∧ t.fld st 0 0 = (if 0 < n then 1 else 0) ∧
       t.reg (portReg p Reg.shuActBase) = s.reg (portReg p Reg.shuPendBase) ∧ t.reg (portReg p Reg.shuActCycle) = s.reg (portReg p Reg.shuPendCycle) ∧
       t.reg (portReg p Reg.shuActCount) = s.reg (portReg p Reg.shuPendCount) ∧
       (∀ i, i < n → t.reg (portReg p fun q => Reg.shuActEntry q i) = s.reg (portReg p fun q => Reg.shuPendEntry q i)) ∧
       (n = 0 → t.fld st 18 11 = 0xFF) ∧ t.out = s.out ∧ t.localQ = s.localQ ∧ t.tiles = s.tiles ∧ (bit (t.fld st 18 11) 7 = true → t.voq = s.voq)) ∧
     (s.fld st 0 0 = 0 → exec (.shutterEntry p) s = .next s) ∧
     (s.fld st 0 0 = 1 → exec (.shutterEntry p) s =
       .next ((((s.withFld st 10 3 (s.shuAt p false s.now)).withFld st 18 11 (s.shuOpenAt p false s.now)).markLate p).gateWait p)) ∧
     (bit (s.shuOpen p) 7 = true → s.gateWait p = s)) ∧
   ∀ base cycle count now lead : Nat, 0 < count → 0 < cycle →
     let t := takeover base cycle count now lead
     base ≤ t ∧ now + lead ≤ t ∧ (t - base) % cycle = 0 ∧ ∀ x, base ≤ x → now + lead ≤ x → (x - base) % cycle = 0 → t ≤ x) ∧
  (∀ (s : State) (src : Src),
     let u := s.external 1
     (∀ p pol c v,
       let a := bucketReg p c pol
       let bad := bits v 20 0 < 1 ∨ 1600000 < bits v 20 0 ∨ bits v 45 21 < 64 ∨ 16777216 < bits v 45 21
       let burst : Int := (bits v 45 21 * 10000 : Nat)
       (bad → exec (.bucketConfigWrite src p pol c v) s = .next (u.badAccess src true a .badValue)) ∧
       (¬ bad → bit v 46 = false → exec (.bucketConfigWrite src p pol c v) s = .next (u.store a v)) ∧
       (¬ bad → bit v 46 = true → u.bucketOn p c pol = true →
         exec (.bucketConfigWrite src p pol c v) s = .next ((u.store a v).withTokens p (bucketKey c pol) (min (u.tokens p (bucketKey c pol)) burst))) ∧
       (¬ bad → bit v 46 = true → u.bucketOn p c pol = false →
         exec (.bucketConfigWrite src p pol c v) s = .next ((u.store a v).withTokens p (bucketKey c pol) burst))) ∧
     (∀ delta, u.fld (pdReg 0 Reg.ftmCtrl) 1 0 = 1 → exec (.ftmStep src delta) s = .next (u.badAccess src true (pdReg 0 Reg.ftmStep) .busy)) ∧
     (∀ delta, u.fld (pdReg 0 Reg.ftmCtrl) 1 0 ≠ 1 → ∃ t, exec (.ftmStep src delta) s = .next t ∧
       t.clk = { s.clk with ftm := BitVec.ofNat 64 (toTwos 64 ((s.clk.ftm.toNat : Int) + sgn 64 delta)) } ∧ t.localQ = s.localQ ∧ t.ctrls = s.ctrls ∧
       ((∀ p, p < 128 → s.fld (portReg p Reg.shuStatus) 0 0 = 0) → t.voq = s.voq) ∧
       (s.wf = true → (∀ n, n < 4 → (t.pdie n).obsAt = t.now) ∧ ∀ x, t.tile x = if s.now < t.now then (s.tile x).stepTimers t.now else s.tile x)) ∧
     (∀ n, n < 4 → exec (.schObsClear src n) s = .next (u.modPort (n * 32 + (u.reg (pdReg n Reg.schObsSel)).toNat % 32) fun p => { p with obs := [] })) ∧
     (∀ n, s.obsDue n = false → exec (.obsSample n) s = .next s) ∧
     (∀ n, n < 4 → s.obsDue n = true → ∃ t, exec (.obsSample n) s = .next t ∧ t.regs = s.regs ∧ t.voq = s.voq ∧ t.out = s.out ∧ (s.wf = true →
       (t.pdie n).obsAt = s.now ∧ ∀ e c, e / 32 = n → c < 8 →
       let d := s.depthDelay e c
       let w := (s.reg (portReg e Reg.schObsCfg)).toNat
       mapGet Obs.empty c (t.port e).obs = (mapGet Obs.empty c (s.port e).obs).take d.1 (64 * 2 ^ bits w 3 0) ∧
       mapGet Obs.empty (c + 8) (t.port e).obs = (mapGet Obs.empty (c + 8) (s.port e).obs).take d.2 (16 * 2 ^ bits w 7 4))))

/-- Route tables: arming checks tables and time, cancelling disarms, the latch puts every pending entry in force, and a drain bit that is cleared releases its parked
frames (R277, R282 to R285). -/
def Obligations.RouteLatches : Prop :=
  ∀ (s : State) (src : Src) (n : Nat), n < 4 →
    let u := s.external 1
    let st := pdReg n Reg.rteStatus
    let time := (u.reg (pdReg n Reg.rteLatchTime)).toNat
    (u.pendTablesOk n = true → time ≤ u.now + 160000000000 → u.now ≤ time → exec (.routeArm src n) s = .next (u.withFld st 0 0 1)) ∧
    (u.pendTablesOk n = true → time < u.now → exec (.routeArm src n) s = .next ((u.withFld st 0 0 1).withFld st 1 1 1)) ∧
    (u.pendTablesOk n = false ∨ u.now + 160000000000 < time → exec (.routeArm src n) s = .next (u.withFld st 4 4 1)) ∧
    exec (.routeCancel src n) s = .next (u.withFld st 0 0 0) ∧
    (s.fld st 0 0 = 0 → exec (.routeLatch n) s = .next s) ∧
    (s.fld st 0 0 = 1 →
      let v := (s.tablesTake n).withFld st 0 0 0
      let drained : Prop := ∀ e c, e / 32 = n → c < 8 → s.draining e c = true → s.drained e c = true
      (drained → exec (.routeLatch n) s = .next (v.drainsEnd n)) ∧
      (¬ drained → exec (.routeLatch n) s = .next ((v.withFld st 3 3 1).drainsEnd n))) ∧
    (s.wf = true → (∀ i, i < 16384 → (s.tablesTake n).reg (pdReg n (Reg.rteActNode i)) = s.reg (pdReg n (Reg.rtePendNode i))) ∧
      (∀ i, i < 256 → (s.tablesTake n).reg (pdReg n (Reg.rteActSetLo i)) = s.reg (pdReg n (Reg.rtePendSetLo i)) ∧
        (s.tablesTake n).reg (pdReg n (Reg.rteActSetHi i)) = s.reg (pdReg n (Reg.rtePendSetHi i))) ∧
      ∀ a, a < pdReg n 0x280000 → (s.tablesTake n).reg a = s.reg a) ∧
    (∀ p v, p < 128 →
      let a := portReg p Reg.rteDrain
      let gone := (maskBits (u.fld a 7 0) 8).filter fun c => !bit v c
      exec (.rteDrain src p v) s = .next ((List.range 4).foldl (fun s n => s.unparkAll n fun x => x.hop == p && gone.contains x.q.cls)
        (u.withFld a 7 0 (v % 256)))) ∧
    ∀ f, s.unparkAll n f = (((s.pdie n).parked.filter f).map (·.q) |> fun l => (List.range 129).flatMap fun i => l.filter fun q => q.ingress == i).foldl
      (fun s q => s.reclassify n q) (s.modPdie n fun d => { d with parked := d.parked.filter fun x => !f x })

/-! Remote memory, at the target and back. -/

/-- A request that is not in order, or of no valid OP, answers MALFORMED; one of a full table, an old one and a repeated one are counted and answered without
running again, the last two renewing their stream's entry; all eight rows (R292, R294, R295).
What a request does where it acts: loads answer the bytes, stores put them, atomics replace a word by its new value and answer the old one, in tile memory and in HBM;
a request with no such target, or on a word that cannot be read or replaced, answers its status and changes nothing there; one of the old owner of a withdrawn
tile answers NO_ROUTE (R52, R140, R150, R173, R174, R287, R288, R291, R327). -/
def Obligations.RequestsAtTiles : Prop :=
  (∀ (s : State) (f : Frame) (u : Upset) (m : Nat) (b : Bool) (row : Instr) (op : Nat),
     (row, op) ∈ [(Instr.requestLoad f u, 1), (.requestStore f u, 2), (.requestFetchAdd f u, 3), (.requestCompareSwap f u, 4), (.requestExactAdd f m b, 5),
       (.requestFp32Add f u, 6), (.requestSignal f, 7), (.requestTrigger f, 8)] →
     let p := f.payload
     let n := homeDie f
     let v := s.traceEvent (16 + n) 0xFFFF 11 (rqOwner p) (p.take 16)
     let v := if f.src = s.node then v else v.external 1
     let check := s.streamCheck n f.src (rqTile p) (rqId p)
     let seen := (v.touchStream n f.src (rqTile p))
     (f.kind ≠ 1 ∨ (rqOp p ≠ op ∧ 1 ≤ rqOp p ∧ rqOp p ≤ 8) → exec row s = .next s) ∧
     (f.kind = 1 → rqOp p = 0 ∨ 8 < rqOp p → exec row s = .next ((v.bump (pdReg n Reg.rmaRejectCnt)).answer f ⟨4, 0, []⟩)) ∧
     (f.kind = 1 → rqOp p = op →
       (requestOk f op = false ∨ alignOk p op = false → exec row s = .next ((v.bump (pdReg n Reg.rmaRejectCnt)).answer f ⟨4, 0, []⟩)) ∧
       (requestOk f op = true → alignOk p op = true →
         (check = .busy → exec row s = .next ((v.bump (pdReg n Reg.rmaBusyCnt)).answer f ⟨7, 0, []⟩)) ∧
         (check = .stale → exec row s = .next (((v.bump (pdReg n Reg.rmaStaleCnt)).touchStream n f.src (rqTile p)).answer f ⟨6, 0, []⟩)) ∧
         (∀ st a, check = .dup st a → ¬ (op = 1 ∧ 8 < rqLen p ∧ st = 0) →
           exec row s = .next (((v.bump (pdReg n Reg.rmaDupCnt)).touchStream n f.src (rqTile p)).answer f ⟨st, a, []⟩)) ∧
         (∀ st a, check = .dup st a → op = 1 → 8 < rqLen p → st = 0 →
           exec row s = .next (((v.bump (pdReg n Reg.rmaDupCnt)).touchStream n f.src (rqTile p)).answer f ⟨1, 0, []⟩))) ∧
       (s.wf = true → n < 4 → (seen.pdie n).streams = (s.pdie n).streams.map fun y =>
         if y.node = f.src ∧ y.tile = rqTile p then { y with lastAt := s.clk.kclk } else y))) ∧
  (∀ (s : State) (f : Frame) (u : Upset) (x : Stream),
     let p := f.payload
     let o := rqOwner p
     let v := (s.requested f).upset ((s.requested f).upsetTile p) u
     let tg (n : Nat) := v.target (rqAddr p) n o
     let len := rqLen p
     let cas (old : Nat) : Nat := if old = rqArg0 p then rqArg1 p else old
     let rows : List (Instr × Nat × Nat × (Nat → Nat)) := [(.requestFetchAdd f u, 3, 8, fun old => (old + rqArg0 p) % 2 ^ 64), (.requestCompareSwap f u, 4, 8, cas),
       (.requestFp32Add f u, 6, 4, fun old => fp32Sum old (rqArg0 p % 2 ^ 32))]
     let loaded (b : Bytes) : Answer := if len ≤ 8 then ⟨0, leNat b, []⟩ else ⟨0, 0, b⟩
     (s.asks f 1 x →
       (v.targetHeld (tg len) = true → exec (.requestLoad f u) s = .next s) ∧
       (∀ st, tg len = .bad st → exec (.requestLoad f u) s = .next (v.served f x ⟨st, 0, []⟩)) ∧
       (∀ t a, tg len = .tile t a → (v.tile t).memHurt a len = true → exec (.requestLoad f u) s = .next (v.served f x ⟨8, 0, []⟩)) ∧
       (∀ t a, tg len = .tile t a → (v.tile t).memHurt a len = false → exec (.requestLoad f u) s = .next (v.served f x (loaded ((v.tile t).readMem a len)))) ∧
       (∀ q a w b, tg len = .hbm q a → v.piecesHeld q = false → v.readPieces q false 0 = (w, b, false) →
         exec (.requestLoad f u) s = .next (w.served f x (loaded b))) ∧
       (∀ q a w b, tg len = .hbm q a → v.piecesHeld q = false → v.readPieces q false 0 = (w, b, true) →
         exec (.requestLoad f u) s = .next (w.served f x ⟨8, 0, []⟩)) ∧
       (∀ r, tg len = .reg r → exec (.requestLoad f u) s = .next ((v.fabRead r).1.served f x ⟨0, (v.fabRead r).2.toNat, []⟩))) ∧
     (s.asks f 2 x →
       (v.targetHeld (tg len) = true → exec (.requestStore f u) s = .next s) ∧
       (∀ st, tg len = .bad st → exec (.requestStore f u) s = .next (v.served f x ⟨st, 0, []⟩)) ∧
       (∀ t a, tg len = .tile t a → exec (.requestStore f u) s = .next ((v.modTile t (·.writeMem a (p.drop 32))).served f x ⟨0, 0, []⟩)) ∧
       (∀ q a w, tg len = .hbm q a → v.piecesHeld q = false → v.ownerWrite o a q (p.drop 32) = (w, false) →
         exec (.requestStore f u) s = .next (w.served f x ⟨0, 0, []⟩)) ∧
       (∀ q a w, tg len = .hbm q a → v.piecesHeld q = false → v.ownerWrite o a q (p.drop 32) = (w, true) →
         exec (.requestStore f u) s = .next (w.served f x ⟨8, 0, []⟩)) ∧
       (∀ r, tg len = .reg r → exec (.requestStore f u) s = .next ((v.fabWrite o (leNat (p.drop 32)) r).served f x ⟨0, 0, []⟩))) ∧
     (∀ row op n g, (row, op, n, g) ∈ rows → s.asks f op x →
       (v.targetHeld (tg n) = true → exec row s = .next s) ∧
       (∀ st, tg n = .bad st → exec row s = .next (v.served f x ⟨st, 0, []⟩)) ∧
       (∀ r, tg n = .reg r → exec row s = .next (v.served f x ⟨9, 0, []⟩)) ∧
       (∀ t a, tg n = .tile t a → (v.tile t).memHurt a n = true → exec row s = .next (v.served f x ⟨8, 0, []⟩)) ∧
       (∀ t a, tg n = .tile t a → (v.tile t).memHurt a n = false → let old := leNat ((v.tile t).readMem a n)
         exec row s = .next ((v.modTile t (·.writeMem a (natLe n (g old)))).served f x ⟨0, old, []⟩)) ∧
       (∀ q a w b, tg n = .hbm q a → v.piecesHeld q = false → v.readPieces q false 0 = (w, b, true) → exec row s = .next (w.served f x ⟨8, 0, []⟩)) ∧
       (∀ q a w b, tg n = .hbm q a → v.piecesHeld q = false → v.readPieces q false 0 = (w, b, false) →
         exec row s = .next ((w.ownerWrite o a q (natLe n (g (leNat b)))).1.served f x ⟨0, leNat b, []⟩))) ∧
     (let w := s.requested f
     let off := rqAddr p % 2 ^ 48
     let t := w.phys (bits off 33 19)
     let formed : Prop := bits (rqAddr p) 49 48 = 1 ∧ bits off 18 0 = 0 ∧ bits (rqArg0 p) 15 4 = 0 ∧ bits (rqArg0 p) 63 32 = 0
     let gone := w.goneFrom (bits off 33 19) o
     let good : Prop := formed ∧ bits off 47 34 = 0 ∧ gone = false
     let there : Prop := w.active t = true ∧ w.tileRole (bits off 33 19) ≠ 0 ∧ w.tileRole (bits off 33 19) ≠ 6 ∧ w.tileOwner (bits off 33 19) = o
     s.asks f 7 x →
       (¬ formed → exec (.requestSignal f) s = .next (w.served f x ⟨4, 0, []⟩)) ∧
       (formed → bits off 47 34 ≠ 0 → exec (.requestSignal f) s = .next (w.served f x ⟨3, 0, []⟩)) ∧
       (formed → bits off 47 34 = 0 → gone = true → exec (.requestSignal f) s = .next (w.served f x ⟨5, 0, []⟩)) ∧
       (good → there → exec (.requestSignal f) s =
         .next ((w.addCounter t (rqArg0 p % 16) (bits (rqArg0 p) 31 16)).served f x ⟨0, 0, []⟩)) ∧
       (good → ¬ there → exec (.requestSignal f) s = .next ((w.tileCount t 0x0E 1).served f x ⟨0, 1, []⟩))) ∧
     (let w := s.requested f
     let off := rqAddr p % 2 ^ 48
     let bad := bits (rqAddr p) 49 48 != 3 || bits off 47 21 != 0 || (p.drop 32).length != 32 || len != 32
     let gone := w.goneFrom (bits off 14 0) o
     s.asks f 8 x →
       (bad = false → gone = true → exec (.requestTrigger f) s = .next (w.served f x ⟨5, 0, []⟩)) ∧
       (∀ t c, bad = true ∨ gone = false → w.offerTrigger (bits off 14 0) (bits off 20 15) o bad (p.drop 32) = (t, c) →
         exec (.requestTrigger f) s = .next (t.served f x ⟨0, c, []⟩))) ∧
     (let w := s.requested f
     let off := rqAddr p % 2 ^ 48
     let t := w.phys (bits off 33 19)
     let n := bits (rqArg0 p) 5 2 + 1
     s.asks f 5 x →
       let gone := w.goneFrom (bits off 33 19) o
       (∀ m busy, w.exactCheck p ≠ 1 → gone = true → exec (.requestExactAdd f m busy) s = .next (w.served f x ⟨5, 0, []⟩)) ∧
       (∀ m busy, w.exactCheck p ≠ 0 → w.exactCheck p = 1 ∨ gone = false →
         exec (.requestExactAdd f m busy) s = .next ((w.tileCount t 0x12 1).served f x ⟨0, w.exactCheck p, []⟩)) ∧
       (∀ m busy v, w.exactCheck p = 0 → gone = false → w.residue t m = (v, false) →
         exec (.requestExactAdd f m busy) s = .next ((v.tileCount t 0x12 1).served f x ⟨0, 2, []⟩)) ∧
       (∀ y, w.exactCheck p = 0 → gone = false → n = 1 → exactTerms (rqArg0 p % 4) (p.drop 32) n = some [y] →
         exec (.requestExactAdd f 0 false) s = .next (((w.modTile t (·.accFlag y.2)).addTerm t (off % 16) y.1).served f x ⟨0, 0, []⟩) ∧
         exec (.requestExactAdd f 0 true) s = .next (((w.modTile t (·.accFlag y.2)).modTile t fun z =>
           { z with deferred := z.deferred ++ [(off % 16, y.1.slot)] }).served f x ⟨0, 0, []⟩))))

/-- Responses and repeated requests: an awaited response drops its request and brings its data, or raises the cause of its status; a busy one leaves the request for its
repetition, a lost load waits to be sent anew and is as soon as the tile may send; after 20 µs a request is sent again, and after the last attempt raises
RMA_TIMEOUT; a lost signal is counted (R292, R293, R295 to R297). -/
def Obligations.ResponsesAndRetries : Prop :=
  ∀ (s : State) (f : Frame) (r : OutReq),
    let p := f.payload
    let t := s.phys (rqTile p)
    let u := if f.src = s.node then s else s.external 1
    let reject := u.bump (pdReg (rqTile p % 4) Reg.rmaRejectCnt)
    let st := rsStatus p
    let w := u.modTile t (·.dropReq r.id)
    let mine : Prop := f.kind = 2 ∧ f.dest = s.node
    let sent (q : OutReq) : Bool := q.id == rqId p && q.attempts != 0
    let awaited : Prop := mine ∧ responseOk p = true ∧ (s.tile t).reqs.find? sent = some r ∧ answers p r = true
    (¬ mine → exec (.responseReceive f) s = .next s) ∧
    (mine → responseOk p = false → exec (.responseReceive f) s = .next reject) ∧
    (mine → responseOk p = true → (s.tile t).reqs.find? sent = none → exec (.responseReceive f) s = .next u) ∧
    (mine → responseOk p = true → (s.tile t).reqs.find? sent = some r → answers p r = false → exec (.responseReceive f) s = .next reject) ∧
    (awaited →
      (st = 7 → r.attempts < 4 → exec (.responseReceive f) s = .next (u.reissue t)) ∧
      (r.use = .signal → st = 0 → rsValue p ≠ 1 → exec (.responseReceive f) s = .next (w.reissue t)) ∧
      (r.use = .signal → (st ≠ 0 ∧ (st = 7 → 4 ≤ r.attempts)) ∨ (st = 0 ∧ rsValue p = 1) →
        exec (.responseReceive f) s = .next ((w.tileCount t 0x16 1).reissue t)) ∧
      (r.use ≠ .signal → st = 1 → exec (.responseReceive f) s = .next ((u.modTile t fun y =>
        { y with reqs := y.reqs.map fun q => if q.id = r.id then { q with attempts := 0 } else q }).reissue t)) ∧
      (r.use ≠ .signal → st ≠ 1 → (st = 7 → 4 ≤ r.attempts) →
        (∀ k d, responseCause r.use st (rsValue p) = some k → (w.ctx t r.ctx).desc = some d →
          exec (.responseReceive f) s = .next ((w.raiseExc t r.ctx ⟨k.1, false, dIdx d r.iter, k.2⟩ false).reissue t)) ∧
        (∀ o, responseCause r.use st (rsValue p) = none → r.use = .load o → exec (.responseReceive f) s =
          .next ((w.modCtx t r.ctx fun y => { y with arrived := y.arrived ++
            [(o, if rqLen r.frame.payload ≤ 8 then natLe 8 (rsValue p) else p.drop 16)] }).reissue t)) ∧
        (responseCause r.use st (rsValue p) = none → r.use = .atomic → exec (.responseReceive f) s =
          .next ((w.modCtx t r.ctx fun y => { y with arrived := y.arrived ++ [(0, natLe 8 (rsValue p))] }).reissue t)) ∧
        (responseCause r.use st (rsValue p) = none → r.use ∈ [.store, .exactAdd, .fp32Add, .trigger] →
          exec (.responseReceive f) s = .next (w.reissue t)))) ∧
    (∀ t, (∀ q ∈ (s.tile t).reqs, q.attempts ≠ 0) → s.reissue t = s) ∧
    (∀ t, (s.tile t).reqs.filter (·.attempts == 0) = [r] →
      ((s.tile t).mayRequest = false → s.reissue t = s) ∧
      ((s.tile t).mayRequest = true → let q := r.frame.payload
        s.reissue t = ((s.modTile t (·.dropReq r.id)).tileCount t 0x15 1).sendRequest t r.ctx r.iter r.use r.frame.cls (rqRsp q) (rqOp q) r.frame.dest (rqAddr q)
          (rqArg0 q) (rqArg1 q) (rqLen q) (q.drop 32))) ∧
    (∀ t id, (s.tile t).reqs.find? (·.id == id) = none → exec (.requestRetry t id) s = .next s) ∧
    (∀ t id, (s.tile t).reqs.find? (·.id == id) = some r →
      (r.attempts = 0 → exec (.requestRetry t id) s = .next (s.reissue t)) ∧
      (0 < r.attempts → r.attempts < 4 → exec (.requestRetry t id) s = .next (((s.modTile t fun x => { x with
        reqs := x.reqs.map fun q => if q.id = id then { q with attempts := q.attempts + 1, sentAt := s.clk.kclk } else q }).tileSend (s.logicalOf t)
          (retryFrame r.frame s.now)).tileCount t 0x14 1)) ∧
      (4 ≤ r.attempts → r.use = .signal → exec (.requestRetry t id) s = .next (((s.modTile t (·.dropReq id)).tileCount t 0x16 1).reissue t)) ∧
      (∀ d, 4 ≤ r.attempts → r.use ≠ .signal → ((s.modTile t (·.dropReq id)).ctx t r.ctx).desc = some d →
        exec (.requestRetry t id) s = .next (((s.modTile t (·.dropReq id)).raiseExc t r.ctx ⟨0x35, false, dIdx d r.iter, 0⟩ false).reissue t))) ∧
    (∀ st, 1 < st → st < 10 → ∀ use ∈ [ReqUse.store, .atomic, .fp32Add, .load 0], ∃ k, responseCause use st 0 = some k ∧ 0x30 ≤ k.1 ∧ k.1 ≤ 0x37 ∧ k.2 = st)

/-! Determinism, policies, power steps. -/

/-- Deterministic mode and the start barrier: when they are entered, left, armed and released, and the registers and statuses after each (R303, R305, R308 to R310). -/
def Obligations.DeterminismAndBarrier : Prop :=
  ∀ (s : State) (src : Src),
    let u := s.external 1
    let entering := u.fld Reg.detStatus 1 1 = 1
    let on := u.fld Reg.detCtrl 0 0 = 1
    let running := u.detOn = true ∧ u.fld Reg.detBarrierStatus 1 1 = 1
    let cfg := (s.reg Reg.detBarrierCfg).toNat
    let time := (s.reg Reg.detBarrierTime).toNat
    (entering → exec (.detEnter src) s = .next (u.badAccess src true Reg.detCtrl .busy) ∧ exec (.detExit src) s = .next (u.badAccess src true Reg.detCtrl .busy)) ∧
    (¬ entering → ¬ on → exec (.detEnter src) s = .next ((u.withFld Reg.detCtrl 0 0 1).withFld Reg.detStatus 1 1 1) ∧ exec (.detExit src) s = .next u) ∧
    (¬ entering → on → exec (.detEnter src) s = .next u ∧
      let v := ((u.withFld Reg.detCtrl 0 0 0).withFld Reg.detStatus 0 0 0).bump Reg.detExitCnt
      (running → exec (.detExit src) s = .next (v.withFld Reg.detStatus 2 2 1)) ∧ (¬ running → exec (.detExit src) s = .next v)) ∧
    (s.entering = false → exec .detActive s = .next s) ∧
    (s.entering = true → ∃ t, exec .detActive s = .next t ∧ t.fld Reg.detStatus 1 0 = 1 ∧ (∀ b, b < 512 → s.blockState b = 3 → t.freq b = 1250) ∧
      (∀ b, b < 512 → s.blockState b ≠ 3 → t.freq b = s.freq b) ∧ t.tiles = s.tiles ∧ t.ports = s.ports ∧ t.out = s.out) ∧
    (u.armOk = true → exec (.barrierArm src) s = .next (u.withFld Reg.detBarrierStatus 0 0 1)) ∧
    (u.armOk = false → exec (.barrierArm src) s = .next ((u.withFld Reg.detBarrierStatus 4 4 1).badAccess src true Reg.detBarrierCtrl .badValue)) ∧
    exec (.barrierCancel src) s = .next (u.withFld Reg.detBarrierStatus 0 0 0) ∧
    (s.barrierArmed = false → exec .barrierRelease s = .next s) ∧
    (s.barrierArmed = true → (s.commit.lead.any fun o => o == 64 || o == s.barrierOwner) = true →
      exec .barrierRelease s = .next (((s.withFld Reg.detBarrierStatus 0 0 0).withFld Reg.detBarrierStatus 3 3 1).raiseIrq 3)) ∧
    (s.barrierArmed = true → (s.commit.lead.any fun o => o == 64 || o == s.barrierOwner) = false → ∃ t, exec .barrierRelease s = .next t ∧
      t.reg Reg.detD0 = BitVec.ofNat 64 (max s.now time) ∧ t.fld Reg.detBarrierStatus 1 0 = 2 ∧
      (bit cfg 26 = true → s.detOn = true → t.reg Reg.detRunFclk = 0) ∧ (s.inStep = false → t.fld Reg.detStatus 4 4 = 1)) ∧
    (u.armOk = true ↔ bits (u.reg Reg.detBarrierCfg).toNat 5 0 ≠ 0 ∧ (u.commit.parts.any fun p => p.1 == bits (u.reg Reg.detBarrierCfg).toNat 5 0) = true ∧
      bits (u.reg Reg.detBarrierCfg).toNat 25 10 ≠ 0 ∧ u.now + 320000 ≤ (u.reg Reg.detBarrierTime).toNat ∧
      (u.reg Reg.detBarrierTime).toNat ≤ u.now + 160000000000)

/-- The adaptive loops: a policy is stored when it keeps its bounds, a step up raises a whole lattice domain unless a block is at the ceiling, a step down lowers it by
25 MHz, and the refresh rate follows the stack temperature within its bounds (R314, R315, R329, R351, R356).
Sleep, wake and power samples: the conditions and the state, frequency and supply of a block after each, and PWR_NOW with the sector powers (R353 to R355, R357). -/
def Obligations.AdaptiveAndPower : Prop :=
  (∀ (s : State) (b : Nat), b < 512 →
     let u := s.external 1
     let ready (m : Bool) : Prop := s.blockState b = 3 ∧ m = true ∧ ∀ x ∈ s.domainOf b, s.mayRaise x = true
     let atTop : Prop := ∃ x ∈ s.domainOf b, s.blockState x = 3 ∧ s.vfBounds.2 < s.freq x + 25
     (∀ src loop v,
       ((policyRow loop v).2 = false → exec (.policyWrite src loop v) s = .next (u.badAccess src true (policyRow loop v).1 .badValue)) ∧
       ((policyRow loop v).2 = true → exec (.policyWrite src loop v) s = .next (u.store (policyRow loop v).1 v))) ∧
     (∀ v, (policyRow .vf v).2 = true ↔ (625 ≤ bits v 10 0 ∧ bits v 10 0 % 25 = 0 ∧ bits v 10 0 ≤ bits v 26 16 ∧ bits v 26 16 % 25 = 0 ∧ bits v 26 16 ≤ 1500)) ∧
     (∀ m, ¬ ready m → exec (.vfStepUp b m) s = .next s) ∧
     (∀ m, ready m → atTop → s.detFrozen = true → exec (.vfStepUp b m) s = .next s) ∧
     (∀ m, ready m → atTop → s.detFrozen = false → ∃ t, exec (.vfStepUp b m) s = .next t ∧ (0, b) ∈ t.pins.pinned ∧ t.regs = s.regs) ∧
     (∀ m, ready m → ¬ atTop → s.domainOf b = [b] → ∃ t, exec (.vfStepUp b m) s = .next t ∧ t.freq b = s.freq b + 25 ∧
       (∀ x, x < 512 → x ≠ b → t.freq x = s.freq x) ∧ t.tiles = s.tiles ∧ t.out = s.out) ∧
     (s.aboveCap = false → exec .vfStepDown s = .next s) ∧
     (s.aboveCap = true → (∀ x, x < 512 → s.domainOf x = [x]) → s.detOn = false → ∃ t, exec .vfStepDown s = .next t ∧
       ∀ x, x < 512 → t.freq x = if s.blockState x = 3 ∧ 625 < s.freq x then s.freq x - 25 else s.freq x) ∧
     (∀ k temp, k < 12 → (s.trained k = false ∨ (s.ctrl k).selfRefresh = true → exec (.refresh k temp) s = .next s) ∧
       (s.trained k = true → (s.ctrl k).selfRefresh = false → ∃ t, exec (.refresh k temp) s = .next t ∧ t.ctrls = s.ctrls ∧
         t.fld (memReg k Reg.memStatus) 13 11 = if s.detFrozen then 4 else max (s.fld Reg.detPolicyRefresh 2 0) (refreshCode temp) % 8)) ∧
     (exec (.policyOverride .vf b) s = .next (s.lowerBlocks [b])) ∧
     (∀ k, k < 12 → s.trained k = true →
       exec (.policyOverride .refresh k) s = .next (s.refreshAt k (s.fld (memReg k Reg.memStatus) 21 14))) ∧
     (∀ k, s.trained k = false → exec (.policyOverride .refresh k) s = .next s) ∧ (∀ k, exec (.policyOverride .serdes k) s = .next s)) ∧
  (∀ (s : State) (b : Nat), b < 512 →
     let sleeps : Prop := s.blockState b = 3 ∧ s.fld Reg.clkSleepTimeout 23 0 ≠ 0 ∧ s.blockQuiet b = true ∧ s.heldOpen b = false
     (¬ sleeps → exec (.blockSleep b) s = .next s) ∧
     (sleeps → ∃ t, exec (.blockSleep b) s = .next t ∧ t.blockState b = 1 ∧ t.freq b = 0 ∧ (∀ x, x < 512 → x ≠ b → t.blockState x = s.blockState x) ∧
       t.tiles = s.tiles ∧ t.out = s.out) ∧
     (s.blockState b ≠ 1 → exec (.blockDeepSleep b) s = .next s) ∧
     (s.blockState b = 1 → ∃ t, exec (.blockDeepSleep b) s = .next t ∧ t.blockState b = 0 ∧ t.freq b = s.freq b ∧ t.tiles = s.tiles) ∧
     (∃ t, exec (.blockWake b) s = .next t ∧ (s.blockState b ≤ 1 → s.blockDead b = false → s.fld Reg.pwrState 2 0 = 2 → t.blockState b = 2) ∧
       (2 ≤ s.blockState b → t.blockState b = s.blockState b) ∧ t.tiles = s.tiles) ∧
     (s.blockState b ≠ 2 → exec (.wakeComplete b) s = .next s) ∧
     (s.blockState b = 2 → ∃ t, exec (.wakeComplete b) s = .next t ∧ t.blockState b = 3 ∧ t.freq b = s.wakeFreq b % 2048 ∧ t.tiles = s.tiles ∧ t.out = s.out) ∧
     (∀ w l, ∃ t, exec (.powerSample w l) s = .next t ∧ t.fld Reg.pwrNow 12 0 = min 8191 w ∧
       (∀ k, k < 64 → t.fld (sectorReg k) 29 18 = min 4095 (nth l k 0)) ∧ t.tiles = s.tiles ∧ t.out = s.out ∧
       (s.pins.issueHalved = true → (t.pins.issueHalved = true ↔ 98 * s.fld Reg.pwrCap 12 0 < 100 * w)) ∧
       (s.pins.issueHalved = false → w ≤ s.fld Reg.pwrCap 12 0 → t.pins.issueHalved = false)))

/-! HBM and check values. -/

/-- HBM controllers: training, reads, writes and atomics with their replies, repairs, and the patrol; an access out of the capacity, to an untrained stack or to a channel under repair
does nothing (R317, R325 to R328, R340). -/
def Obligations.HbmControllers : Prop :=
  ∀ (s : State) (k : Nat), k < 12 →
    let idle (off n : Nat) : Prop := s.trained k = true ∧ off + n ≤ s.capBytes k ∧ s.hbmHeld k off n = false
    (s.pins.pwrGood = false ∨ s.trained k = true → ∀ p, exec (.hbmTrained k p) s = .next s) ∧
    (s.pins.pwrGood = true → s.trained k = false → exec (.hbmTrained k false) s = .next (s.modCtrl k fun c => { c with failed := true }) ∧
      ∃ t, exec (.hbmTrained k true) s = .next t ∧ t.trained k = true ∧ t.fld (memReg k Reg.strDieInfo) 18 18 = 1 ∧ t.tiles = s.tiles) ∧
    (∀ off op u, ¬ idle off (opLength op) → exec (.hbmAccess k off op u) s = .next s) ∧
    (∀ off n sp u, idle off n → let r := (s.hbmUpset k u).hbmRead k off n sp (if sp then 2 else 0)
      exec (.hbmAccess k off (.read n sp) u) s = .next (r.1.emit (.hbmReply k r.2.1 r.2.2))) ∧
    (∀ off d u, idle off d.length → exec (.hbmAccess k off (.write d) u) s = .next ((s.hbmUpset k u).hbmWrite k off d).1) ∧
    (∀ off v u s1 b, idle off 8 → (s.hbmUpset k u).hbmRead k off 8 false 0 = (s1, b, false) →
      exec (.hbmAccess k off (.fetchAdd v) u) s =
        .next ((s1.hbmWrite k off (natLe 8 ((leNat b + v) % 2 ^ 64))).1.emit (.hbmReply k b false))) ∧
    (∀ off x y u s1 b, idle off 8 → (s.hbmUpset k u).hbmRead k off 8 false 0 = (s1, b, false) →
      exec (.hbmAccess k off (.cas x y) u) s =
        .next ((s1.hbmWrite k off (natLe 8 (if leNat b = x then y % 2 ^ 64 else leNat b))).1.emit (.hbmReply k b false))) ∧
    (∀ off v x y u s1 b, idle off 8 → (s.hbmUpset k u).hbmRead k off 8 false 0 = (s1, b, true) →
      exec (.hbmAccess k off (.fetchAdd v) u) s = .next (s1.emit (.hbmReply k b true)) ∧
      exec (.hbmAccess k off (.cas x y) u) s = .next (s1.emit (.hbmReply k b true))) ∧
    (∀ off n src, (s.ctrl k).bad = [] → (s.ctrl k).pchDead = [] → (s.hbmRead k off n false src).2 = (readBytes (s.ctrl k).mem off n, false)) ∧
    (∀ off d, s.wf = true → (s.ctrl k).bad = [] → (s.ctrl k).pchDead = [] → 0 < d.length →
      ∀ a, readBytes ((s.hbmWrite k off d).1.ctrl k).mem a 1 = if off ≤ a ∧ a < off + d.length then [nth d (a - off) 0] else readBytes (s.ctrl k).mem a 1) ∧
    ((s.ctrl k).repair = none → exec (.hbmRowRepaired k) s = .next s) ∧
    (∀ p, (s.ctrl k).repair = some p → exec (.hbmRowRepaired k) s =
      .next ((s.modCtrl k fun c => { c with repair := none }).raiseFault (Unit6.ofDie (stackDie k)) 0x1A 0 false 15 p)) ∧
    (let n := (s.ctrl k).patrolAt
    let off : Prop := s.trained k = false ∨ (s.ctrl k).selfRefresh = true ∨ s.fld (memReg k Reg.memPatrol) 15 0 = 0 ∨ s.hbmHeld k (64 * n) 64 = true
    (off → ∀ u, exec (.patrolRead k u) s = .next s) ∧
      (¬ off → s.blockBad k n = false → (64 * (n + 1) < s.capBytes k → exec (.patrolRead k .none) s = .next (s.modCtrl k fun c => { c with patrolAt := n + 1 })) ∧
        (s.capBytes k ≤ 64 * (n + 1) → exec (.patrolRead k .none) s =
          .next ((s.modCtrl k fun c => { c with patrolAt := 0 }).bump (memReg k Reg.memPatrolPassCnt)))))

/-- Check-value units: CHK_CTRL is written when its configuration is free and good, ARM zeroes the unit, CLOSE ends a block, and the end of a window block reads the range back and
compares it (R333 to R336). -/
def Obligations.CheckUnits : Prop :=
  ∀ (s : State) (src : Src) (n v : Nat), n < 256 →
    let u := s.external 1
    let a := chkCtrlA n
    let old := (u.reg a).toNat
    let busy (v : Nat) : Prop := bit old 0 = true ∧ bits old 31 3 ≠ bits v 31 3
    let armed (v : Nat) : State := ((u.store a v).withChk n ⟨[], 0, 0, none⟩).withFld (chkStatusA n) 0 0 1
    let block := chkReg n Reg.chkBlockCntP Reg.chkBlockCnt
    let w := (s.reg (chkWinA n)).toNat
    let len := 64 * s.fld (chkWinLenA n) 18 0
    let z := s.modChk n fun c => { c with written := c.written - len }
    (busy (v ||| 2) → exec (.chkArm src n v) s = .next (u.badAccess src true a .busy)) ∧
    (busy (v ||| 4) → exec (.chkClose src n v) s = .next (u.badAccess src true a .busy)) ∧
    (¬ busy (v ||| 2) → chkCtrlOk n (v ||| 2) = false → exec (.chkArm src n v) s = .next (u.badAccess src true a .badValue)) ∧
    (¬ busy (v ||| 4) → chkCtrlOk n (v ||| 4) = false → exec (.chkClose src n v) s = .next (u.badAccess src true a .badValue)) ∧
    (¬ busy (v ||| 2) → chkCtrlOk n (v ||| 2) = true → bit v 2 = false → exec (.chkArm src n v) s = .next (armed (v ||| 2))) ∧
    (¬ busy (v ||| 4) → chkCtrlOk n (v ||| 4) = true → bit v 1 = false → exec (.chkClose src n v) s = .next ((u.store a (v ||| 4)).chkClose n)) ∧
    (∀ x, n < 64 → exec (.chkBlockEnd n x) s = .next (if s.chkActive n then s.chkFlowEnd n else s)) ∧
    (∀ x, 64 ≤ n → s.chkActive n = false ∨ len = 0 ∨ (s.chk n).written < len → exec (.chkBlockEnd n x) s = .next s) ∧
    (64 ≤ n → s.chkActive n = true → len ≠ 0 → len ≤ (s.chk n).written →
      (z.ownerPieces (bits w 45 40) (bits w 39 0) len = none → exec (.chkBlockEnd n .none) s = .next (z.bump block)) ∧
      (∀ ps t b, z.ownerPieces (bits w 45 40) (bits w 39 0) len = some ps → z.readPieces ps false 3 = (t, b, true) →
        exec (.chkBlockEnd n .none) s = .next ((t.withFld (chkStatusA n) 6 6 1).bump block)) ∧
      (∀ ps t b, z.ownerPieces (bits w 45 40) (bits w 39 0) len = some ps → z.readPieces ps false 3 = (t, b, false) →
        exec (.chkBlockEnd n .none) s = .next ((t.chkWindowAlive n b).chkCompare n b)))

/-! Resets, faults and power. -/

/-- A reset request names a unit of level L2 to L5 by any of the four commands: its scope enters the list of resets, its state is cleared and its mesh stops close;
one inside a wider reset is absorbed, and one in PREPARE ends the commit with 0x22. A partition reset names a committed owner, and a reset that has lasted its time ends
(R345, R346, Table 15-5). -/
def Obligations.ScopeResets : Prop :=
  ∀ (s : State) (src : Src), s.wf = true →
    let u := s.external 1
    let out (x : Scope) : Prop := u.faults.resets.any (u.inside x) = false
    let all (w : Nat) (t : State) : Prop := exec (.tileReset src w) s = .next t ∧ exec (.blockReset src w) s = .next t ∧
      exec (.sectorReset src w) s = .next t ∧ exec (.dieReset src w) s = .next t
    let lone (l : List Nat) : Prop := ∀ q ∈ l, u.active q = true → u.gangOf (u.logicalOf q) = none
    (∀ w, u.parseUnit w = none → all w ((u.bump Reg.porBadUnitCnt).badAccess src true Reg.fltResetReq .badValue)) ∧
    (∀ w x, u.parseUnit w = some x → x.level < 2 ∨ 5 < x.level → all w (u.badAccess src true Reg.fltResetReq .badValue)) ∧
    (∀ w x y, u.parseUnit w = some x → u.unitScope x = some y → u.faults.resets.any (u.inside y) = true → all w u) ∧
    (∀ w x, u.parseUnit w = some x → x.level = 2 → s.preparing = false → out (.tile (u.phys x.logical)) →
      let q := u.phys x.logical
      ∃ t, all w t ∧ t.faults.resets = s.faults.resets ++ [.tile q] ∧ (t.tile q).ctxs = [] ∧ (t.tile q).engines = [] ∧ (t.tile q).exc0 = 0 ∧ (t.tile q).slots = [] ∧
        (t.tile q).numMode = 8 ∧ (t.tile q).mem = (s.tile q).mem ∧ (t.tile q).idState = (s.tile q).idState ∧ t.mesh = s.mesh ∧ t.dies = s.dies ∧
        t.ports = s.ports ∧ t.ctrls = s.ctrls ∧ (lone [q] → ∀ k, k ≠ q → t.tile k = s.tile k)) ∧
    (∀ w x, u.parseUnit w = some x → x.level = 3 → s.preparing = false → out (.block x.blockOf) →
      ∃ t, all w t ∧ t.faults.resets = s.faults.resets ++ [.block x.blockOf] ∧ (t.stop x.blockOf).isolated = true ∧
        (∀ q ∈ blockPhys x.blockOf, (t.tile q).ctxs = [] ∧ (t.tile q).mem = (s.tile q).mem) ∧
        (lone (blockPhys x.blockOf) → ∀ q, q ∉ blockPhys x.blockOf → t.tile q = s.tile q)) ∧
    (∀ w x, u.parseUnit w = some x → x.level = 5 → x.die < 16 → s.preparing = false → out (.die x.die) →
      ∃ t, all w t ∧ t.faults.resets = s.faults.resets ++ [.die x.die] ∧ (t.die x.die).structured = false ∧ (t.die x.die).fenced = true ∧
        (t.die x.die).inReset = true ∧ (t.die x.die).active = [] ∧ (t.die x.die).staged = none ∧
        (∀ i, i < 2304 → (t.tile (2304 * x.die + i)).mem = [] ∧ (t.tile (2304 * x.die + i)).lost = (s.tile (2304 * x.die + i)).lost) ∧
        (∀ k ∈ dieStops x.die, (t.stop k).isolated = true) ∧ (lone (diePhys x.die) → ∀ q, q / 2304 ≠ x.die → t.tile q = s.tile q)) ∧
    (∀ w x, u.parseUnit w = some x → x.level = 2 → s.preparing = true → out (.tile (u.phys x.logical)) →
      ∃ t, all w t ∧ t.phase = 7 ∧ t.fld Reg.strCommitStatus 10 3 = 0x22) ∧
    (∀ o, (u.commit.parts.any fun p => p.1 == o % 64) = false →
      exec (.partitionReset src o) s = .next (u.badAccess src true Reg.fltPartReset .badValue)) ∧
    (∀ o, (u.commit.parts.any fun p => p.1 == o % 64) = true → s.preparing = false → out (.partition (o % 64)) →
      ∃ t, exec (.partitionReset src o) s = .next t ∧ t.faults.resets = s.faults.resets ++ [.partition (o % 64)] ∧ ∀ e, e < 256 → s.groupOn e = true →
        (s.group e).owner = o % 64 → (t.group e).insts = []) ∧
    (∀ x, s.faults.resets.contains x = false → exec (.resetComplete x) s = .next s) ∧
    (∀ x, s.faults.resets.contains x = true → ∃ t, exec (.resetComplete x) s = .next t ∧ t.faults.resets = s.faults.resets.erase x ∧ t.tiles = s.tiles ∧
      t.regs = s.regs ∧ (∀ d, d < 20 → x = .die d → (t.die d).inReset = false) ∧ (∀ d, x ≠ .die d → t.die d = s.die d) ∧
      ∀ k ∈ scopeStops x, t.stopClosed k = false → (t.stop k).isolated = false)

/-- Permanent faults: a block, a sector, a die or a spare is taken out once, its stops are isolated, its clocks stop, a gang that has a member there stops with GANG_MEMBER at its iteration,
and a record with its cause and severity is queued while there is room; POP removes the oldest record, and on an empty queue is a bad access (R105, R339, R342, R343). -/
def Obligations.PermanentFaults : Prop :=
  ∀ (s : State) (src : Src), s.wf = true →
    let u := s.external 1
    let recorded (t : State) (cause severity : Nat) : Prop := s.faults.queue.length < 1024 →
      ∃ r, t.faults.queue = s.faults.queue ++ [r] ∧ r.cause = cause ∧ r.severity = severity ∧ r.permanent = true ∧ r.time = s.now
    let lone (l : List Nat) : Prop := ∀ q ∈ l, s.active q = true → s.gangOf (s.logicalOf q) = none
    (∀ b, 512 ≤ b ∨ (s.block b).fenced = true → exec (.blockFenced b) s = .next s) ∧
    (∀ b, b < 512 → (s.block b).fenced = false → ∃ t, exec (.blockFenced b) s = .next t ∧ (t.block b).fenced = true ∧ (t.stop b).isolated = true ∧
      t.fld (clkBlockA b) 12 0 = 0 ∧ (lone (blockPhys b) → recorded t 0x09 2 ∧ t.tiles = s.tiles ∧ ∀ x, x ≠ b → t.block x = s.block x)) ∧
    (∀ k, 64 ≤ k ∨ s.fld (sectorReg k) 16 16 = 1 → exec (.sectorGated k) s = .next s) ∧
    (∀ k, k < 64 → s.fld (sectorReg k) 16 16 = 0 → ∃ t, exec (.sectorGated k) s = .next t ∧ t.fld (sectorReg k) 16 16 = 1 ∧
      (∀ b ∈ sectorBlocks k, (t.stop b).isolated = true ∧ t.fld (clkBlockA b) 12 0 = 0) ∧
      (lone ((sectorBlocks k).flatMap blockPhys) → recorded t 0x0A 2 ∧ t.tiles = s.tiles)) ∧
    (∀ d, 20 ≤ d ∨ (s.die d).cut = true → exec (.dieFenced d) s = .next s) ∧
    (∀ d, d < 20 → (s.die d).cut = false → ∃ t, exec (.dieFenced d) s = .next t ∧ (t.die d).cut = true ∧ (∀ k ∈ dieStops d, (t.stop k).isolated = true) ∧
      (∀ x, x ≠ d → t.die x = s.die x) ∧ (lone (diePhys d) → recorded t 0x0B 2 ∧ t.tiles = s.tiles)) ∧
    (∀ l g c r y, s.gangOf l = some g → let o := s.phys (gangTile (l / 2048) g 0 0)
      mapGet [] Engine.gang.code (s.tile o).engines = c :: r → c < 8 → (s.ctx o c).issued = true → (s.ctx o c).desc = some y →
      let stopped (s : State) : State := s.raiseExc o c ⟨0x12, false, dIdx y (s.ctx o c).iter, 0⟩ false
      (dOp y = 0x11 → s.gangLost l = stopped s) ∧ (dOp y ≠ 0x10 → dOp y ≠ 0x11 → s.gangLost l = s) ∧
      (dOp y = 0x10 → (s.ctx o c).part = 0 → s.wf = true → ∃ t, s.gangLost l = stopped t ∧ ∀ q, t.tile q = s.tile q)) ∧
    (∀ d j, 16 ≤ d ∨ 256 ≤ j ∨ (s.tile (2304 * d + 9 * j + 8)).lost = true → exec (.spareLost d j) s = .next s) ∧
    (∀ d j, d < 16 → j < 256 → (s.tile (2304 * d + 9 * j + 8)).lost = false → (s.tile (2304 * d + 9 * j + 8)).idState ≠ 1 →
      ∃ t, exec (.spareLost d j) s = .next t ∧ t.tile (2304 * d + 9 * j + 8) = { s.tile (2304 * d + 9 * j + 8) with idState := 3, lost := true, slots := [] } ∧
        (∀ k, k ≠ 2304 * d + 9 * j + 8 → t.tile k = s.tile k) ∧ recorded t 0x0D 1) ∧
    (u.faults.queue = [] → exec (.pop src) s = .next (u.badAccess src true Reg.fltRecCtrl .badValue)) ∧
    (∀ r q, u.faults.queue = r :: q → exec (.pop src) s = .next (u.withFaults { u.faults with queue := q }))

/-- The package's reset land and its auxiliary supply: a pulse of 10 µs resets everything but fuses, lands, the scan state and what has left the package; one below 1 µs is ignored, and between
the two either happens. On release the straps set their defaults and phase KEEP_UP begins, with 0 for a strap that is low and stable (R361, R365, R402, R407). -/
def Obligations.PackageResets : Prop :=
  ∀ s : State,
    let kept (t : State) : Prop := t.tap = s.tap ∧ t.porter.keys = s.porter.keys ∧ t.out = s.out ∧ t.pending = s.pending ∧ t.pins.perstN = s.pins.perstN
    let cleared (t : State) : Prop := t.regs = [] ∧ t.tiles = [] ∧ t.dies = [] ∧ t.ports = [] ∧ t.ctrls = [] ∧ t.mesh = [] ∧ t.groups = [] ∧ t.faults = State.reset.faults ∧
      t.commit = State.reset.commit ∧ t.porter.views = [] ∧ t.pins.pkgReset = true ∧ t.pins.pwrGood = false ∧ t.pins.thermTrip = false ∧ kept t
    (∀ n, n < 1000 → exec (.packageReset n) s = .next s) ∧
    (∀ n, 10000 ≤ n → ∃ t, exec (.packageReset n) s = .next t ∧ cleared t ∧ t.pins.resetN = false ∧ t.pins.vauxOk = s.pins.vauxOk) ∧
    (∀ n, 1000 ≤ n → n < 10000 → exec (.packageReset n) s = .next s.useFree ∨ ∃ t, exec (.packageReset n) s = .next t ∧ cleared t ∧ t.pins.resetN = false) ∧
    (∃ t, exec .vauxLow s = .next t ∧ cleared t ∧ t.pins.vauxOk = false ∧ t.pins.resetN = s.pins.resetN) ∧
    (∀ l m, s.pins.pkgReset = false ∨ s.pins.vauxOk = false →
      exec (.pkgResetDeassert l m) s = .next (s.withPins { s.pins with resetN := true })) ∧
    (∀ l m, s.pins.vauxOk = true ∨ s.pins.resetN = false ∨ s.pins.pkgReset = false → exec (.vauxRestored l m) s = .next (s.withPins { s.pins with vauxOk := true })) ∧
    (∀ l, s.wf = true → s.pins.pkgReset = true → s.pins.vauxOk = true → ∃ t, exec (.pkgResetDeassert l 0) s = .next t ∧ t.pins.pkgReset = false ∧ t.pins.resetN = true ∧
      t.pins.straps = l % 2 ^ 26 ∧ t.reg Reg.porStraps = BitVec.ofNat 64 (l % 2 ^ 26) ∧ t.seqPhase = 1 ∧ t.fld Reg.strImageSrc 1 0 = nth [2, 0, 3, 0] (bits l 15 14) 0 ∧
      (∀ n, n < 4 → t.fld (pdReg n Reg.lnkDieMode) 0 0 = bits l (16 + n) (16 + n)) ∧ (bit l 21 = true → t.fld Reg.detCtrl 0 0 = 1 ∧ t.fld Reg.detStatus 1 1 = 1) ∧
      t.tiles = s.tiles ∧ t.dies = s.dies ∧ t.out = s.out) ∧
    (∀ l, s.wf = true → s.pins.vauxOk = false → s.pins.resetN = true → s.pins.pkgReset = true → ∃ t, exec (.vauxRestored l 0) s = .next t ∧ t.pins.pkgReset = false ∧
      t.pins.vauxOk = true ∧ t.seqPhase = 1 ∧ t.pins.straps = l % 2 ^ 26 ∧ t.tiles = s.tiles ∧ t.dies = s.dies)

/-- Start-up, phase by phase: the keep clock locks, the porter runs, the regulators start, the supplies are good and the default ports train; the reference is lost and returns. Each event has its
effect in its phase, and none outside it (R350, R351, R362, R365, R366). -/
def Obligations.StartUpPhases : Prop :=
  ∀ s : State, s.wf = true →
    (s.seqPhase ≠ 1 → exec .keepLock s = .next s) ∧
    (s.seqPhase = 1 → ∃ t, exec .keepLock s = .next t ∧ t.seqPhase = 2 ∧ t.fld Reg.clkStatus 1 0 = 3 ∧ t.clk = { s.clk with ftm := 0, frac := 0, kclk := 0 } ∧
      (∀ a, a ≠ Reg.clkStatus → a ≠ Reg.pwrSeqStatus → t.reg a = s.reg a) ∧ (t.withRegs s.regs).withClk s.clk = s) ∧
    (s.fld Reg.clkStatus 0 0 = 0 → exec .refLost s = .next (s.withFld Reg.clkStatus 1 1 0)) ∧
    (s.fld Reg.clkStatus 0 0 = 1 → ∃ t, exec .refLost s = .next t ∧ t.fld Reg.clkStatus 2 1 = 2 ∧ t.fld Reg.pwrEvent 1 1 = 1 ∧ t.tiles = s.tiles ∧ t.clk = s.clk) ∧
    (∃ t, exec .refclkReturn s = .next t ∧ t.fld Reg.clkStatus 2 1 = 1 ∧ (∀ a, a ≠ Reg.clkStatus → t.reg a = s.reg a) ∧ t.withRegs s.regs = s) ∧
    (s.seqPhase ≠ 2 → exec .porterRunning s = .next s) ∧
    (s.seqPhase = 2 → ∃ t, exec .porterRunning s = .next t ∧ t.seqPhase = 3 ∧ (∀ a, a ≠ Reg.pwrSeqStatus → t.reg a = s.reg a) ∧ t.withRegs s.regs = s) ∧
    (s.seqPhase ≠ 3 ∨ s.pins.thermTrip = true → exec .regulatorEnable s = .next s) ∧
    (s.seqPhase = 3 → s.pins.thermTrip = false → exec .regulatorEnable s = .next (s.withPins { s.pins with regulators := true })) ∧
    (s.seqPhase ≠ 3 ∨ s.pins.regulators = false → exec .pwrGood s = .next s) ∧
    (s.seqPhase = 3 → s.pins.regulators = true → ∃ t, exec .pwrGood s = .next t ∧ t.seqPhase = 4 ∧ t.fld Reg.pwrState 2 0 = 2 ∧
      t.pins = { s.pins with pwrGood := true, goodAt := s.clk.kclk } ∧ t.tiles = s.tiles ∧ t.dies = s.dies ∧ ∀ e, e < 128 →
        (s.portOn e = false → t.linkState e = 0) ∧ (s.portOn e = true → s.linkState e = 5 → t.linkState e = 5) ∧
        (s.portOn e = true → s.linkState e ≠ 5 → s.goodLanes e = 2 ^ 2 ^ bits (s.portRec e) 2 1 - 1 → t.linkState e = 1)) ∧
    exec .pciePerstDeassert s = .next (s.withPins { s.pins with perstN := true })

/-- The boot action of STRAP_BOOT: at the end of TRAIN, a commit from HBM or from a neighbour begins, or the device holds; a neighbour that is asked serves the image, refuses it or is too
late. A package that serves its own image does so from M0 or M6 where the port die permits it (R363, R385, Table 16-4). -/
def Obligations.BootActions : Prop :=
  ∀ (s : State) (h : Bytes), s.wf = true →
    let w := s.pins.straps
    let fresh : Prop := s.seqPhase = 4 ∧ s.trainOver = true ∧ s.committing = false ∧ (s.die 0).structured = false
    (s.seqPhase = 4 → s.trainOver = false → s.pins.autoBoot = false → exec (.boot h) s = .next s) ∧
    (s.seqPhase = 4 → s.trainOver = true → s.committing = true → exec (.boot h) s = .next (s.withFld Reg.pwrSeqStatus 3 0 5)) ∧
    (s.seqPhase = 4 → s.trainOver = true → s.committing = false → (s.die 0).structured = true → exec (.boot h) s = .next (s.withFld Reg.pwrSeqStatus 3 0 6)) ∧
    (fresh → bits w 15 14 = 0 → imgLenOk (imgLen h) = true → imgLen h < 2 ^ 64 → ∃ t, exec (.boot h) s = .next t ∧ t.phase = 1 ∧ t.seqPhase = 5 ∧ t.pins.autoBoot = true ∧
      t.reg Reg.strImageAddr = 0 ∧ t.reg Reg.strImageLen = BitVec.ofNat 64 (imgLen h) ∧ t.reg Reg.strLatchTime = 0 ∧ t.tiles = s.tiles ∧ t.dies = s.dies) ∧
    (fresh → bits w 15 14 = 3 ∨ (bits w 15 14 = 1 ∧ bits w 25 24 ≠ 3) → exec (.boot h) s = .next (s.withFld Reg.pwrSeqStatus 3 0 7)) ∧
    (fresh → bits w 15 14 = 1 → bits w 25 24 = 3 → ∃ t, exec (.boot h) s = .next t ∧ t.seqPhase = 7 ∧ t.fld Reg.pwrEvent 4 4 = 1 ∧ t.tiles = s.tiles) ∧
    (s.seqPhase ≠ 4 → s.pins.autoBoot = false → exec (.boot h) s = .next s) ∧
    (∀ e, s.seqPhase ≠ 4 → s.pins.autoBoot = true → s.committing = false → h ≠ [] → s.pins.bootPort = some e →
      exec (.boot h) s = .next ((((s.withFld Reg.strImageSrc 8 2 e).withReg Reg.strImageLen (BitVec.ofNat 64 (imgLen h))).withReg Reg.strLatchTime 0).commitStarts)) ∧
    (s.pins.autoBoot = false ∨ bits w 15 14 ≠ 2 → exec .bootTimeout s = .next s) ∧
    (s.pins.autoBoot = true → bits w 15 14 = 2 → s.phase = 1 → ∃ t, exec .bootTimeout s = .next t ∧ t.phase = 7 ∧ t.fld Reg.strCommitStatus 10 3 = 1 ∧
      t.fld Reg.pwrSeqStatus 11 4 = 1 ∧ t.pins.autoBoot = false) ∧
    (s.pins.autoBoot = true → bits w 15 14 = 2 → s.committing = false → ∃ t, exec .bootTimeout s = .next t ∧ t.seqPhase = 8 ∧ t.fld Reg.pwrSeqStatus 11 4 = 1 ∧
      t.fld Reg.pwrEvent 4 4 = 1 ∧ t.pins.autoBoot = false ∧ t.tiles = s.tiles) ∧
    (∀ e, s.pins.autoBoot = false ∨ s.committing = true ∨ s.pins.bootPort ≠ some e → exec (.imageServeRefusal e) s = .next s) ∧
    (∀ e, s.pins.autoBoot = true → s.committing = false → s.pins.bootPort = some e → s.fld Reg.strImageSrc 9 9 = 0 →
      ∃ t, exec (.imageServeRefusal e) s = .next t ∧ t.seqPhase = 8 ∧ t.fld Reg.pwrSeqStatus 11 4 = 1 ∧ t.pins.autoBoot = false) ∧
    (∀ e, s.pins.autoBoot = true → s.committing = false → s.pins.bootPort = some e → s.fld Reg.strImageSrc 9 9 = 1 → exec (.imageServeRefusal e) s =
      .next (s.withPins { s.pins with bootPort := none, bootRefused := s.pins.bootRefused ++ [e] }).bootScan) ∧
    (∀ e, bit (s.reg Reg.porImageServe).toNat (e / 32) = false → exec (.imageServeRequest e) s = .next (s.emit (.imageServe e none))) ∧
    (∀ e s1 b, bit (s.reg Reg.porImageServe).toNat (e / 32) = true → s.retainedImage 0 = (s1, some b) →
      exec (.imageServeRequest e) s = .next (s1.emit (.imageServe e (some b)))) ∧
    (∀ e s1 s2 o, bit (s.reg Reg.porImageServe).toNat (e / 32) = true → s.retainedImage 0 = (s1, none) → s1.retainedImage 6 = (s2, o) →
      exec (.imageServeRequest e) s = .next (s2.emit (.imageServe e o)))

/-- Power states and temperatures: loss of power resets every die and all stacks, KEEP and RUN are taken or refused, a sample reads every sensor, keeps the highest, throttles sectors and
trips on two successive readings, and a clear takes the present reading (R359, R360, R366, R369, R415). -/
def Obligations.PowerAndTemperature : Prop :=
  ∀ (s : State) (src : Src), s.wf = true →
    let u := s.external 1
    let st := u.fld Reg.pwrState 2 0
    let cut (t : State) : Prop := t.pins.pwrGood = false ∧ t.pins.regulators = false ∧ t.fld Reg.pwrState 2 0 = 0 ∧ t.seqPhase = 3 ∧
      (∀ d, d < 20 → (t.die d).structured = false ∧ (t.die d).fenced = true) ∧ (∀ k, k < 12 → t.trained k = false ∧ (t.ctrl k).mem = [])
    (s.pins.regulators = false → exec .vinLow s = .next s ∧ exec .regFault s = .next s) ∧
    (s.pins.regulators = true → (∃ t, exec .vinLow s = .next t ∧ cut t ∧ t.fld Reg.pwrEvent 2 2 = 1) ∧ ∃ t, exec .regFault s = .next t ∧ cut t ∧ t.fld Reg.pwrEvent 3 3 = 1) ∧
    (st = 0 → exec (.keepRequest src) s = .next (u.badAccess src true Reg.pwrState .busy) ∧ exec (.runRequest src) s = .next (u.badAccess src true Reg.pwrState .busy)) ∧
    (st = 1 → exec (.keepRequest src) s = .next u) ∧ (st = 2 → exec (.runRequest src) s = .next u) ∧
    (st = 2 → u.keepBusy = true → exec (.keepRequest src) s = .next (u.badAccess src true Reg.pwrState .busy)) ∧
    (st = 2 → u.keepBusy = false → ∃ t, exec (.keepRequest src) s = .next t ∧ t.fld Reg.pwrState 2 0 = 1 ∧ (∀ k, k < 12 → (t.ctrl k).selfRefresh = true) ∧
      (∀ b, b < 512 → t.blockState b = 0) ∧ (∀ e, e < 128 → s.linkState e ≠ 5 → t.linkState e = 0) ∧ t.tiles = s.tiles) ∧
    (st = 1 → ∃ t, exec (.runRequest src) s = .next t ∧ t.fld Reg.pwrState 2 0 = 2 ∧ (∀ k, k < 12 → (s.die (stackDie k)).inReset = false → (t.ctrl k).selfRefresh = false) ∧
      (∀ e, e < 128 → s.portOn e = true → s.linkState e ≠ 5 → t.linkState e = 1) ∧ t.tiles = s.tiles) ∧
    (∀ l m, s.pins.pwrGood = false → exec (.thermalSample l m) s = .next s) ∧
    (∀ l m, s.pins.pwrGood = true → (∀ k ∈ s.pins.hot, nth l k 0 < 115) → ∃ t, exec (.thermalSample l m) s = .next t ∧ t.pins.thermTrip = s.pins.thermTrip ∧
      (∀ k, k < 80 → t.fld (sensorReg k) 7 0 = min 255 (nth l k 0) ∧ t.fld (sensorReg k) 15 8 = max (s.fld (sensorReg k) 15 8) (min 255 (nth l k 0))) ∧
      (∀ k, k < 12 → t.fld (memReg k Reg.memStatus) 21 14 = min 255 (nth m k 0)) ∧
      t.pins.hot = ((List.range 80).filter fun k => decide (115 ≤ nth l k 0)) ∧
      (∀ k, k < 64 → (t.fld (sectorReg k) 17 17 = 1 ↔ s.fld Reg.pwrTherm 15 8 ≤ nth l k 0 ∨
        (s.fld (sectorReg k) 17 17 = 1 ∧ s.fld Reg.pwrTherm 15 8 < nth l k 0 + 3))) ∧
      (s.fld Reg.pwrTherm 7 0 ≤ (hottest (l.take 80)).1 → t.fld Reg.pwrEvent 0 0 = 1)) ∧
    (∀ l m k, s.pins.pwrGood = true → k ∈ s.pins.hot → k < 80 → 115 ≤ nth l k 0 → ∃ t, exec (.thermalSample l m) s = .next t ∧ cut t ∧ t.pins.thermTrip = true) ∧
    (∀ d i, let a := sensorReg (dieSensor d i)
      exec (.tempMaxClear src d i) s = .next (u.withFld a 15 8 (u.fld a 7 0)))

/-! The host, the porter, trace units and boundary scan. -/

/-- Registers of the start and receive queues: an enabled queue keeps its configuration, EN is set only on a good one, and a doorbell within the ring moves a tail or a head; what breaks a rule is
discarded and counted. A function-level reset disables every queue, and ends the transfer of a host image (R373, R374, R377, R378). -/
def Obligations.HostQueues : Prop :=
  ∀ (s : State) (rx : Bool) (q v : Nat), s.wf = true →
    let u := s.external 1
    let e := enBit rx
    let old := (s.b4 (queueCfg rx q)).toNat
    let counted := u.withB4 (queueErr rx q) (satAdd (s.b4 (queueErr rx q)) 1)
    (s.queueOn rx q = true → bits v (e - 1) 0 ≠ bits old (e - 1) 0 → exec (.queueEnable rx q v) s = .next counted) ∧
    (s.queueOn rx q = true → bits v (e - 1) 0 = bits old (e - 1) 0 → bit v e = true → exec (.queueEnable rx q v) s = .next u) ∧
    (s.queueOn rx q = true → bits v (e - 1) 0 = bits old (e - 1) 0 → bit v e = false → ∃ t, exec (.queueEnable rx q v) s = .next t ∧ t.queueOn rx q = false ∧
      (∀ a, a ≠ queueCfg rx q → t.b4 a = s.b4 a) ∧ (rx = false → t.sqHeld = s.sqHeld.filter fun x => x.1 != q) ∧ (rx = true → t.sqHeld = s.sqHeld)) ∧
    (s.queueOn rx q = false → ∃ t, exec (.queueEnable rx q v) s = .next t ∧ bits (t.b4 (queueCfg rx q)).toNat (e - 1) 0 = bits v (e - 1) 0 ∧
      (t.queueOn rx q = true ↔ bit v e = true ∧ 4 ≤ bits v 3 0 ∧ bits v 3 0 ≤ 12 ∧ (s.b4 (queueBase rx q)).toNat % 4096 = 0 ∧ (rx = true ∨ bits v 9 4 ≠ 0)) ∧
      (∀ a, a ≠ queueCfg rx q → t.b4 a = s.b4 a) ∧ t.withBar4 s.bar4 = u) ∧
    (2 ^ bits (s.b4 (Reg.sqCfg q)).toNat 3 0 ≤ v % 4096 → exec (.sqTail q v) s = .next (u.withB4 (Reg.sqErrCnt q) (satAdd (s.b4 (Reg.sqErrCnt q)) 1))) ∧
    (v % 4096 < 2 ^ bits (s.b4 (Reg.sqCfg q)).toNat 3 0 → exec (.sqTail q v) s = .next (u.withB4 (Reg.sqTail q) (BitVec.ofNat 64 (v % 4096)))) ∧
    (2 ^ bits (s.b4 (Reg.hrqCfg q)).toNat 3 0 ≤ v % 4096 → exec (.hrqHead q v) s = .next (u.withB4 (Reg.hrqErrCnt q) (satAdd (s.b4 (Reg.hrqErrCnt q)) 1))) ∧
    (v % 4096 < 2 ^ bits (s.b4 (Reg.hrqCfg q)).toNat 3 0 → exec (.hrqHead q v) s = .next (u.withB4 (Reg.hrqHead q) (BitVec.ofNat 64 (v % 4096)))) ∧
    (∃ t, exec .functionLevelReset s = .next t ∧ (∀ n, n < 256 → t.queueOn false n = false ∧ t.b4 (Reg.sqHead n) = 0 ∧ t.b4 (Reg.sqTail n) = 0) ∧
      (∀ n, n < 64 → t.queueOn true n = false ∧ t.b4 (Reg.hrqHead n) = 0 ∧ t.b4 (Reg.hrqTail n) = 0) ∧ t.sqHeld = [] ∧ t.unmasked = [] ∧ t.reg Reg.porBar2Base = 0 ∧
      (s.phase = 1 → s.fld Reg.strImageSrc 1 0 = 0 → t.phase = 7 ∧ t.fld Reg.strCommitStatus 10 3 = 1) ∧
      (s.phase ≠ 1 ∨ s.fld Reg.strImageSrc 1 0 ≠ 0 → (∀ i, i < 1024 → t.reg (Reg.porIrqMap i) = 0) ∧ t.msixPending = [] ∧ t.tiles = s.tiles ∧ t.phase = s.phase)) ∧
    (s.unmasked.contains (v % 2048) = true → exec (.msixUnmask v) s = .next u) ∧
    (s.unmasked.contains (v % 2048) = false → s.msixPending.contains (v % 2048) = false →
      exec (.msixUnmask v) s = .next (u.withUnmasked (s.unmasked ++ [v % 2048]))) ∧
    (s.unmasked.contains (v % 2048) = false → s.msixPending.contains (v % 2048) = true → exec (.msixUnmask v) s =
      .next (((u.withUnmasked (s.unmasked ++ [v % 2048])).withMsixPending (s.msixPending.filter (· != v % 2048))).emit (.msix (v % 2048))))

/-- The host starts graphs and reads memory: the next entry of a start queue is read and served, its outcome is written to its STATUS byte and the head moves on; a tile that has no room makes it
wait; and BAR2 shows HBM, with zeros for what no stack serves (R324, R372, R374, R375). -/
def Obligations.HostAccesses : Prop :=
  ∀ (s : State) (q : Nat) (b : Bytes), s.wf = true → b.length = 64 →
    let ended (u : State) (code : Nat) : State :=
      let h := (u.b4 (Reg.sqHead q)).toNat
      let v := ((u.withSqHeld (u.sqHeld.filter fun x => x.1 != q)).emit (.hostWrite ((u.b4 (Reg.sqBase q)).toNat + 64 * h + 3) [BitVec.ofNat 8 code])).withB4 (Reg.sqHead q)
        (BitVec.ofNat 64 ((h + 1) % 2 ^ bits (u.b4 (Reg.sqCfg q)).toNat 3 0))
      if code = 0 then v else v.raiseIrq (512 + q)
    let due : Prop := s.queueOn false q = true ∧ s.b4 (Reg.sqHead q) ≠ s.b4 (Reg.sqTail q)
    let idle : Prop := s.sqHeld.any (fun x => x.1 == q) = false
    (∀ f, ¬ due ∨ ¬ idle → exec (.startQueueEntry q b f) s = .next s) ∧
    (due → idle → exec (.startQueueEntry q b true) s =
      .next (((s.withB4Fld (Reg.sqCfg q) 10 10 0).bumpB4 (Reg.sqErrCnt q)).raiseIrq (512 + q))) ∧
    (due → idle → bit (rdLe b 0 2) 15 = true ∨ bits (rdLe b 2 1) 7 6 ≠ 0 ∨ (∃ x ∈ slice b 4 28, x ≠ 0) → exec (.startQueueEntry q b false) s = .next (ended s 0x10)) ∧
    (due → idle → entryBad b = false → (s.stop (tileBlock (bits (rdLe b 0 2) 14 0))).isolated = true → exec (.startQueueEntry q b false) s = .next (ended s 6)) ∧
    (∀ u c, due → idle → s.deliverEntry q b = (u, c) → c ≠ 5 → exec (.startQueueEntry q b false) s = .next (ended u c)) ∧
    (∀ u, due → idle → s.deliverEntry q b = (u, 5) → ∃ t, exec (.startQueueEntry q b false) s = .next t ∧ t.withSqHeld u.sqHeld = u ∧ mapGet [] q t.sqHeld = b) ∧
    ((s.sqHeld.find? fun x => x.1 == q) = none ∨ ¬ due → exec (.trigBusyReoffer q) s = .next s) ∧
    (∀ x u c, (s.sqHeld.find? fun x => x.1 == q) = some x → due → s.deliverEntry q x.2 = (u, c) → c ≠ 5 → exec (.trigBusyReoffer q) s = .next (ended u c)) ∧
    (∀ x u, (s.sqHeld.find? fun x => x.1 == q) = some x → due → s.deliverEntry q x.2 = (u, 5) → x.2.length = 64 →
      ∃ t, exec (.trigBusyReoffer q) s = .next t ∧ t.withSqHeld u.sqHeld = u ∧ mapGet [] q t.sqHeld = x.2) ∧
    (∀ off n w, 0 < n → off % 64 + n ≤ 64 →
      let a := s.fld Reg.porBar2Base 39 30 <<< 30 + off
      let u := s.external 1
      (s.devServed a = true → s.hbmHeld (devStack a) (devOff a) n = true → exec (.bar2Access off false n [] w) s = .next s) ∧
      (s.devServed a = true → s.hbmHeld (devStack a) (devOff a) n = false → ∀ t d f, (u.hbmUpset (devStack a) w).hbmRead (devStack a) (devOff a) n false 0 = (t, d, f) →
        exec (.bar2Access off false n [] w) s = .next (t.emit (.bar2Reply d f))) ∧
      (∀ d, d.length = n → s.devServed a = true → s.hbmHeld (devStack a) (devOff a) n = false →
        exec (.bar2Access off true 0 d w) s = .next ((u.hbmUpset (devStack a) w).hbmWrite (devStack a) (devOff a) d).1) ∧
      (s.devServed a = false → exec (.bar2Access off false n [] w) s = .next ((u.badHbm false a).emit (.bar2Reply (List.replicate n 0) false))) ∧
      ∀ d, d.length = n → s.devServed a = false → exec (.bar2Access off true 0 d w) s = .next (u.badHbm true a))

/-- The porter answers a request: one whose SEQ its sender has just used with the response that it kept, any other with what it does. Accesses to registers, the management view, fused keys and trace
regions each have their STATUS, an ill-sized request changes nothing, and a read of trace bytes under repair waits (R340, R381, R382, R384, R386).
Messages wait for a porter that runs, 8 at most; one that does not run takes none, and it answers neighbour discovery for its own address alone (R365, R380, R381). -/
def Obligations.Porter : Prop :=
  (∀ (s : State) (who : Sender) (seq addr count : Nat), 3 ≤ s.seqPhase → s.porter.queue = [] → seq < 65536 → addr < 2 ^ 64 → count < 65536 →
     let answered (m : Bytes) (x : State) (status : Nat) (payload : Bytes) : State :=
       let a := m.take 3 ++ [BitVec.ofNat 8 status] ++ (m.drop 4).take 12 ++ payload
       (x.withPorter { x.porter with senders := keepSender x.porter.senders who seq a }).emit (.porterReply who a)
     let msg (op len n w : Nat) (p : Bytes) : Bytes := natLe 2 seq ++ natLe 1 op ++ [0] ++ natLe 2 len ++ natLe 2 n ++ natLe 8 w ++ p
     let new : Prop := s.keptAnswer who seq = none
     (∀ a, s.keptAnswer who seq = some a → let again : State := (s.bump Reg.porMsgDupCnt).emit (.porterReply who a)
       exec (.regRead who seq addr count) s = .next again ∧ exec (.viewRead who seq addr) s = .next again ∧ exec (.keyRevoke who seq addr) s = .next again ∧
         (∀ r, exec (.viewSet who seq addr r) s = .next again) ∧ (∀ h, exec (.keyProgram who seq addr h) s = .next again) ∧ (∀ l, exec (.regWrite who seq addr l) s = .next again)) ∧
     (new → 1 ≤ count → count ≤ 32 → ∀ t b, s.porterRead addr count = (t, b) → exec (.regRead who seq addr count) s = .next (answered (msg 1 0 count addr []) t 0 b)) ∧
     (new → count = 0 ∨ 32 < count → exec (.regRead who seq addr count) s = .next (answered (msg 1 0 count addr []) s 2 [])) ∧
     (new → ∀ l, 1 ≤ l.length → l.length ≤ 32 → exec (.regWrite who seq addr l) s = .next (answered (msg 2 (8 * l.length) l.length addr (l.flatMap (natLe 8)))
       (forEach (List.range l.length) (fun i s => s.regWrite .porter (addr + 8 * i) 8 (l.getD i 0 % 2 ^ 64)) s) 0 [])) ∧
     (new → s.parseUnit addr = none → exec (.viewRead who seq addr) s = .next (answered (msg 3 0 0 addr []) (s.bump Reg.porBadUnitCnt) 3 [])) ∧
     (∀ x, new → s.parseUnit addr = some x → x.level < 2 ∨ 5 < x.level → exec (.viewRead who seq addr) s = .next (answered (msg 3 0 0 addr []) s 3 [])) ∧
     (∀ x, new → s.parseUnit addr = some x → 2 ≤ x.level → x.level ≤ 5 → exec (.viewRead who seq addr) s = .next (answered (msg 3 0 0 addr []) s 0 (s.viewRecord x))) ∧
     (∀ x r, new → s.parseUnit addr = some x → 2 ≤ x.level → x.level ≤ 5 →
       let v : View := ⟨viewKey x, r, s.ownerEpoch (s.unitOwner x)⟩
       let m := msg 4 8 0 addr (natLe 8 (b2n r))
       ((∃ y ∈ s.porter.views, y.unit = v.unit) → exec (.viewSet who seq addr r) s =
         .next (answered m (s.withPorter { s.porter with views := s.porter.views.map fun y => if y.unit = v.unit then v else y }) 0 [])) ∧
       ((∀ y ∈ s.porter.views, y.unit ≠ v.unit) → s.porter.views.length < 256 →
         exec (.viewSet who seq addr r) s = .next (answered m (s.withPorter { s.porter with views := s.porter.views ++ [v] }) 0 [])) ∧
       ((∀ y ∈ s.porter.views, y.unit ≠ v.unit) → 256 ≤ s.porter.views.length → exec (.viewSet who seq addr r) s = .next (answered m s 5 []))) ∧
     (∀ h, new → h.length = 48 →
       let k := nth s.porter.keys addr ⟨[], false, false⟩
       let m := msg 5 48 0 addr h
       (who ≠ .i3c → exec (.keyProgram who seq addr h) s = .next (answered m s 4 []) ∧ exec (.keyRevoke who seq addr) s = .next (answered (msg 6 0 0 addr []) s 4 [])) ∧
       (who = .i3c → 2 ≤ addr → exec (.keyProgram who seq addr h) s = .next (answered m s 6 []) ∧ exec (.keyRevoke who seq addr) s = .next (answered (msg 6 0 0 addr []) s 6 [])) ∧
       (who = .i3c → addr < 2 → s.committing = true →
         exec (.keyProgram who seq addr h) s = .next (answered m s 5 []) ∧ exec (.keyRevoke who seq addr) s = .next (answered (msg 6 0 0 addr []) s 5 [])) ∧
       (who = .i3c → addr < 2 → s.committing = false → k.programmed = true → exec (.keyProgram who seq addr h) s = .next (answered m s 4 [])) ∧
       (who = .i3c → addr < 2 → s.committing = false → k.programmed = false → exec (.keyProgram who seq addr h) s =
         .next (answered m (s.withPorter { s.porter with keys := s.porter.keys.set addr { k with hash := h, programmed := true } }) 0 [])) ∧
       (who = .i3c → addr < 2 → s.committing = false → k.programmed = false ∨ k.revoked = true → exec (.keyRevoke who seq addr) s = .next (answered (msg 6 0 0 addr []) s 4 [])) ∧
       (who = .i3c → addr < 2 → s.committing = false → k.programmed = true → k.revoked = false → exec (.keyRevoke who seq addr) s =
         .next (answered (msg 6 0 0 addr []) (s.withPorter { s.porter with keys := s.porter.keys.set addr { k with revoked := true } }) 0 []))) ∧
     (s.hbmHeld (devStack addr) (devOff addr) (32 * count) = true → exec (.traceRead who seq addr count) s =
       .next (s.withPorter { s.porter with queue := [(who, msg 7 0 count addr [])] })) ∧
     (∀ a, s.hbmHeld (devStack addr) (devOff addr) (32 * count) = false → s.keptAnswer who seq = some a →
       exec (.traceRead who seq addr count) s = .next ((s.bump Reg.porMsgDupCnt).emit (.porterReply who a))) ∧
     (new → s.hbmHeld (devStack addr) (devOff addr) (32 * count) = false →
       let m := msg 7 0 count addr []
       (count = 0 ∨ 8 < count → exec (.traceRead who seq addr count) s = .next (answered m s 2 [])) ∧
       (1 ≤ count → count ≤ 8 → addr % 32 ≠ 0 ∨ s.inTrace addr (32 * count) = false → exec (.traceRead who seq addr count) s = .next (answered m s 6 [])) ∧
       (∀ t b f, 1 ≤ count → count ≤ 8 → addr % 32 = 0 → s.inTrace addr (32 * count) = true → s.hbmRead (devStack addr) (devOff addr) (32 * count) false 0 = (t, b, f) →
         exec (.traceRead who seq addr count) s = .next (answered m t 0 b)))) ∧
  (∀ (s : State) (who : Sender) (m : Bytes),
     (s.seqPhase < 3 → exec (.porterMessage who m) s = .next s ∧ (∀ q a n, exec (.regRead who q a n) s = .next s) ∧ ∀ a, exec (.neighbourDiscovery a) s = .next s) ∧
     (3 ≤ s.seqPhase → s.porter.queue.length < 8 → exec (.porterMessage who m) s = .next (s.withPorter { s.porter with queue := s.porter.queue ++ [(who, m)] })) ∧
     (3 ≤ s.seqPhase → 8 ≤ s.porter.queue.length → who = .i3c → exec (.porterMessage who m) s = .next s) ∧
     (3 ≤ s.seqPhase → 8 ≤ s.porter.queue.length → who ≠ .i3c → exec (.porterMessage who m) s = .next (s.bump Reg.porMsgDropCnt)) ∧
     (3 ≤ s.seqPhase → exec (.neighbourDiscovery Config.porterAddress) s = .next (s.emit (.neighbourAdvert Config.porterAddress))) ∧
     (∀ a, a ≠ Config.porterAddress → exec (.neighbourDiscovery a) s = .next s))

/-- A trace unit stores its oldest record at the write position: a circular region wraps and counts, a stopping one is full at its end and raises source 4, and a freeze ends once nothing is left to
store. A PTP message leaves a live Ethernet port with its time, under one-step operation corrected in the message itself (its layout is IEEE 1588's, log entry 94), and the scan register holds the
instruction last loaded; one that acts only in reset loads as BYPASS at other times (R215, R389, R390, R393). -/
def Obligations.TraceAndScan : Prop :=
  ∀ (s : State) (d : Nat), s.wf = true → d < 20 →
    let u := s.traceUnit d
    let a := dieReg d Reg.peeDieWrptr
    let i := s.fld a 31 0
    let alive : Prop := u.full = false ∧ u.freezing = false
    let scanned (c : Instr) (x : Tap) : Prop := exec c s = .next (s.withTap (if s.pins.pkgReset then x else .bypass))
    (u.buffered = [] → u.freezing = false → exec (.traceStore d) s = .next s) ∧
    (∀ r l w, u.buffered = r :: l → peeRegion (s.peeEntry d) = some w →
      let k := nth w.stacks 0 0
      let off := w.base * unitBytes + 32 * i
      let v := (s.hbmWrite k off r).1.withTraceUnit d { u with buffered := l }
      (alive → s.hbmHeld k off 32 = true → exec (.traceStore d) s = .next s) ∧
      (alive → s.hbmHeld k off 32 = false → i + 1 < regionRecords w → exec (.traceStore d) s = .next (v.withFld a 31 0 (i + 1))) ∧
      (alive → s.hbmHeld k off 32 = false → regionRecords w ≤ i + 1 → bit (rdLe (s.peeEntry d) 0 2) 5 = false →
        exec (.traceStore d) s = .next ((v.withFld a 31 0 0).bump (dieReg d Reg.peeWrapCnt))) ∧
      (alive → s.hbmHeld k off 32 = false → regionRecords w ≤ i + 1 → bit (rdLe (s.peeEntry d) 0 2) 5 = true →
        ∃ t, exec (.traceStore d) s = .next t ∧ t.traceUnit d = { u with buffered := l, full := true } ∧ t.fld a 31 0 = (i + 1) % 2 ^ 32 ∧
          t.fld (Reg.porIrqMap 4) 12 12 = 1)) ∧
    (∀ src m, bit m d = true → bit (s.reg Reg.peeFrozen).toNat d = false → ∃ t, exec (.peeFreeze src m) s = .next t ∧
      (u.buffered = [] ∨ u.full = true → t.fld Reg.peeFrozen d d = 1 ∧ (t.traceUnit d).freezing = false ∧ t.fld (Reg.porIrqMap 4) 12 12 = 1) ∧
      (u.buffered ≠ [] → u.full = false → t.traceUnit d = { u with freezing := true } ∧ t.fld Reg.peeFrozen d d = 0)) ∧
    (∀ src, exec (.peeFreeze src 0) s = .next (s.external 1)) ∧
    (∀ p b, (s.macLive p = true → exec (.ptpEventMessageSend p ⟨b, none⟩) s = .next (s.emit (.ptp p b s.now)) ∧
        ∀ asked, exec (.ptpEventMessageSend p ⟨b, some asked⟩) s = .next (s.emit (.ptp p (oneStepPtp b s.now asked) s.now))) ∧
      (s.macLive p = false → ∀ m, exec (.ptpEventMessageSend p m) s = .next s)) ∧
    (∀ b t asked o, ptpOffset b = (o, false) →
      (rdLe b o 1 % 16 = 3 → oneStepPtp b t asked = splice b (o + 8) (natBe 8 (toTwos 64 (sgn 64 (beNat (slice b (o + 8) 8)) + ((t : Int) - asked) * 4096)))) ∧
      (rdLe b o 1 % 16 ≠ 0 → rdLe b o 1 % 16 ≠ 3 → oneStepPtp b t asked = b)) ∧
    exec .bypass s = .next (s.withTap .bypass) ∧ exec .idcode s = .next (s.withTap .idcode) ∧ exec .samplePreload s = .next (s.withTap .samplePreload) ∧
    exec .testLogicReset s = .next (s.withTap .reset) ∧ scanned .extest .extest ∧ scanned .clamp .clamp ∧ scanned .highz .highz ∧
    scanned .extestPulse .extestPulse ∧ scanned .extestTrain .extestTrain

/-! Completion. -/

/-- The sequencer's own commands complete (R125, R128, R130, R136, R142, R144), and so does every iteration of CVT, TOPK, STSUM and the collective opcodes whose
body ends, by its own command and by LOOP_ITERATION alike. -/
def Obligations.SequencerCompletes : Prop :=
  (∀ (s : State) (t c : Nat) (d : Bytes), s.iterates t c d →
     (dOp d = 0x01 → exec (.loopIteration t c .none) s = .next (s.commitIteration t c)) ∧
     (dOp d = 0x03 → exec (.loopIteration t c .none) s =
       .next ((s.modTile t fun y => { y with numMode := BitVec.ofNat 5 (dImm d) }).commitIteration t c)) ∧
     ∀ row op, (row, op) ∈ [(Instr.cvt, 0x31), (Instr.topk, 0x3D), (Instr.stsum, 0x3E), (Instr.allred, 0x80), (Instr.redscat, 0x81), (Instr.allgath, 0x82),
         (Instr.bcast, 0x83), (Instr.barrier, 0x84), (Instr.alltoall, 0x85), (Instr.alltoallv, 0x86), (Instr.sortmerge, 0x87), (Instr.filtcomp, 0x88),
         (Instr.parenc, 0x89), (Instr.parreb, 0x8A)] →
       dOp d = op → ∀ f s1, bodyOf op 0 (s.runNow t c d) s = .ok f s1 →
         exec (row t c) s = .next ((f s1).commitIteration t c) ∧ exec (.loopIteration t c .none) s = .next ((f s1).commitIteration t c)) ∧
  (∀ (s : State) (t c : Nat) (d : Bytes), s.wf = true → s.clocked t = true → (s.ctx t c).desc = some d → dBits d 2 11 10 = 0 →
     let same (u : State) : Prop := (u.tile t).mem = (s.tile t).mem ∧ (u.tile t).counters = (s.tile t).counters ∧ ∀ k, k ≠ t → u.tile k = s.tile k
     let wentTo (u : State) (v : Succ) : Prop := (u.ctx t c).st = (s.ctx t c).st ∧ (u.ctx t c).addr = v.addr ∧ (u.ctx t c).space = v.space ∧
       (u.ctx t c).desc = v.bytes ∧ (u.ctx t c).issued = false ∧ (u.ctx t c).args = (s.ctx t c).args ∧ same u
     ((s.tile t).finished c d = true → (s.ctx t c).stop = false →
       ((s.ctx t c).succ0 = none → ∃ u, exec (.descriptorComplete t c) s = .next u ∧ (u.ctx t c).st = .idle ∧ same u) ∧
       ∀ v, (s.ctx t c).succ0 = some v → v.bytes ≠ some [] → ∃ u, exec (.descriptorComplete t c) s = .next u ∧ wentTo u v) ∧
     (dOp d = 0x02 → (s.ctx t c).issued = true → (s.ctx t c).allDone = true →
       (∀ v, (s.ctx t c).result = some true → (s.ctx t c).succ1 = some v → v.bytes ≠ some [] → ∃ u, exec (.selectResolve t c) s = .next u ∧ wentTo u v) ∧
       (∀ v, (s.ctx t c).result = some false → (s.ctx t c).shadow = none → (s.ctx t c).succ0 = some v → v.bytes ≠ some [] →
         ∃ u, exec (.selectResolve t c) s = .next u ∧ wentTo u v) ∧
       ∀ h, (s.ctx t c).result = some false → (s.ctx t c).shadow = some h → h.exc = none → ∃ u, exec (.selectResolve t c) s = .next u ∧
         (u.ctx t c).addr = h.addr ∧ (u.ctx t c).desc = some h.bytes ∧ (u.ctx t c).issued = true ∧ (u.ctx t c).iter = 0 ∧ (u.ctx t c).mode = h.mode ∧ same u)) ∧
  ∀ (s : State) (t k : Nat), s.wf = true → (mapGet Summary.empty k (s.tile t).sums).ready = true → ∃ u, exec (.summarySlotWrite t k) s = .next u ∧
    mapGet Summary.empty k (u.tile t).sums = ⟨sumVals (mapGet Summary.empty k (s.tile t).sums).gathered, true, [], false⟩ ∧
    (u.tile t).mem = (s.tile t).mem ∧ ∀ j, j ≠ t → u.tile j = s.tile j

/-- The commands of groups, the group messages and the porter's requests complete: each reaches the effect that its rule gives it (R182, R184, R185, R187, R193, R200 to
R202, R204, R381, R384, R386). -/
def Obligations.GroupAndPorterCompletions : Prop :=
  (∀ (s : State) (src : Src) (e k : Nat), s.wf = true → e < 256 → s.fld (Reg.colGrpState e) 57 57 = 0 →
     (∃ u, exec (.commitList src e k) s = .next u ∧ u.fld (Reg.colGrpState e) 57 57 = 1 ∧ (u.group e).newEpoch = k % 65536 ∧ u.tiles = s.tiles) ∧
     (s.groupOn e = false → ∃ u, exec (.invalidate src e) s = .next u ∧ (u.group e).anyEpoch = true ∧ u.tiles = s.tiles) ∧
     (s.groupOn e = true → (s.group e).insts = [] → ∃ u, exec (.invalidate src e) s = .next u ∧ u.groupOn e = false ∧ (u.group e).anyEpoch = true)) ∧
  (∀ (s s1 : State) (e : Nat) (bad : Bool) (ws : List Nat), e < 256 → s.fld (Reg.colGrpState e) 57 57 = 1 →
     s.listRead e bad (s.staged e []).owner = (s1, some ws) → s1.listError e (some ws) = 0 →
     ∃ u, exec (.listCommitDone e bad) s = .next u ∧ u.groupOn e = true) ∧
  (∀ (s : State) (e q : Nat) (x : Inst), s.wf = true → (s.group e).inst q = some x →
     (∃ u, exec (.memberLate e q) s = .next u ∧ (u.group e).inst q = none) ∧
     (∀ node, s.groupOn e = true → (s.group e).insts = [x] →
       (s.node ≠ (s.group e).rootNode ∧ treeNext (s.group e).rootNode s.node = node) ∨ ((s.group e).children s.node).contains node = true →
       ∃ u, exec (.memberLost e node) s = .next u ∧ (u.group e).inst q = none) ∧
     (∀ w, s.groupOn e = true → colSums x.opcode = true → x.closed.contains w = false → x.window (s.group e) w ≠ [] →
       ((s.group e).ranksOn s.node).isEmpty = true ∨ x.members ≠ [] →
       (∀ i ∈ x.window (s.group e) w, ∀ k ∈ s.sources (s.group e) x, (x.part (s.group e) k.1 k.2 i).isSome = true) →
       exec (.windowClose e q ⟨w, 0⟩) s = .next ((s.closeSum e x w (x.window (s.group e) w) 0).endIfQuiet e q)) ∧
     (∀ t m, x.members.find? (fun m => s.phys m.tile == t) = some m → m.done = false → m.accepted = true → m.need = some 0 → m.got = [] → x.opcode ≠ 0x84 →
       (s.ctx t m.ctx).desc = some m.desc → exec (.instanceComplete e q t) s =
         .next (((((s.modInst e q fun y => y.modMember m.tile fun k => { k with done := true }).modCtx t m.ctx fun c => { c with allDone := true }).tileCount t 0x04 1)).endIfDone
           e q))) ∧
  (∀ (s : State) (e : Nat), s.wf = true → ((∀ y ∈ (s.group e).refused, y.1 ≤ s.clk.kclk) →
       ∃ u, exec (.epochAheadRepeat e) s = .next u ∧ (u.group e).refused = [] ∧ u.out = s.out ∧ u.tiles = s.tiles) ∧
     ∀ k f, (s.group e).refused = [(k, f)] → s.clk.kclk < k →
       exec (.epochAheadRepeat e) s = .next ((s.modGroup e fun g => { g with refused := [] }).colSendTill e k f)) ∧
  (∀ s : State, exec .heartbeat s = .next ((List.range 256).foldl (fun s k => s.heartbeatOf k) s)) ∧
  (∀ (s : State) (f : Frame) (e : Nat) (x : Inst), s.wf = true → e < 256 →
     let p := f.payload
     let q := cmSeq p
     let u := s.messageIn f e
     let fromBelow : Prop := f.src = s.node ∨ ((s.group e).children s.node).contains f.src = true
     let input (kind : Nat) (b : Bytes) : ColIn := ⟨kind, cmSrc p, cmOffset p, cmCount p, b⟩
     (s.meets f 1 e x → colSums (cmOp p) = true → exec (.contribution f) s = .next (u.stageTake e q (input 1 (p.drop 32)))) ∧
     (s.meets f 2 e x → colCopies (cmOp p) = false → exec (.partialMsg f) s = .next (u.stageTake e q (input 2 (p.drop 32)))) ∧
     (∀ m, s.meets f 3 e x → cmOp p = 0x81 → p.drop 32 ≠ [] → (s.group e).ranksOn s.node ≠ [] → x.members.find? (fun m => m.tile == f.flow % 2 ^ 15) = some m →
       exec (.result f) s = .next ((((u.resFlags e (cmStatus p)).modInst e q fun y => { y with relayed := y.relayed + max 1 (cmCount p) }).deliver e q m.tile
         ((cmOffset p - m.rank * ((opA m.desc).count / max 1 (s.group e).members.length)) * colDestBytes m.desc) (p.drop 32)).endIfQuiet e q)) ∧
     (s.meets f 4 e x → cmStatus p = 0 →
       let key := if cmOffset p < 2 ^ 14 then 2 * cmOffset p + 1 else 2 * cmSrc p
       exec (.credit f) s = .next ((((u.modInst e q fun x => { x with unacked := mapPut 0 key (mapGet 0 key x.unacked - cmCount p) x.unacked }).colDrainAll e).endIfDone
         e q).endIfQuiet e q)) ∧
     (s.meets f 5 e x → ∃ v, exec (.abortMessage f) s = .next v ∧ (v.group e).inst q = none) ∧
     (s.meets f 6 e x → ∃ v, exec (.heartbeatMessage f) s = .next v ∧ (v.group e).insts = (s.group e).insts) ∧
     (s.meets f 7 e x → cmOp p ≠ 0x86 → ¬ fromBelow → exec (.sizeCountMessage f) s = .next ((u.phaseEnd e q 7 (cmCount p) (rdLe p 32 8)).endIfQuiet e q)) ∧
     (s.meets f 8 e x → ¬ fromBelow → exec (.barrierMessage f) s = .next ((u.phaseEnd e q 8 (cmCount p) 0).endIfQuiet e q))) ∧
  ∀ (s : State) (who : Sender) (seq addr count : Nat), 3 ≤ s.seqPhase → s.porter.queue = [] → seq < 65536 → addr < 2 ^ 64 → s.keptAnswer who seq = none →
    let served (u : State) (payload : Bytes) : Prop := ∃ a, u.out.getLast? = some (.porterReply who a) ∧ a.take 2 = natLe 2 seq ∧ slice a 3 1 = [0] ∧ a.drop 16 = payload
    (1 ≤ count → count ≤ 32 → ∃ u, exec (.regRead who seq addr count) s = .next u ∧ served u (s.porterRead addr count).2) ∧
    (∀ l, 1 ≤ l.length → l.length ≤ 32 → ∃ u, exec (.regWrite who seq addr l) s = .next u ∧ served u [] ∧
      u.withPorter s.porter = ((forEach (List.range l.length) (fun i s => s.regWrite .porter (addr + 8 * i) 8 (l.getD i 0 % 2 ^ 64)) s).withPorter s.porter).withOut u.out) ∧
    (∀ x, s.parseUnit addr = some x → 2 ≤ x.level → x.level ≤ 5 →
      (∃ u, exec (.viewRead who seq addr) s = .next u ∧ served u (s.viewRecord x) ∧ u.tiles = s.tiles) ∧
      ∀ r, (∃ y ∈ s.porter.views, y.unit = viewKey x) ∨ s.porter.views.length < 256 → ∃ u, exec (.viewSet who seq addr r) s = .next u ∧ served u [] ∧
        (⟨viewKey x, r, s.ownerEpoch (s.unitOwner x)⟩ : View) ∈ u.porter.views) ∧
    (∀ h k, h.length = 48 → who = .i3c → addr < 2 → s.committing = false → s.porter.keys[addr]? = some k →
      (k.programmed = false → ∃ u, exec (.keyProgram who seq addr h) s = .next u ∧ served u [] ∧ u.porter.keys[addr]? = some { k with hash := h, programmed := true }) ∧
      (k.programmed = true → k.revoked = false → ∃ u, exec (.keyRevoke who seq addr) s = .next u ∧ served u [] ∧ u.porter.keys[addr]? = some { k with revoked := true })) ∧
    (∀ t b f, 1 ≤ count → count ≤ 8 → addr % 32 = 0 → s.inTrace addr (32 * count) = true → s.hbmHeld (devStack addr) (devOff addr) (32 * count) = false →
      s.hbmRead (devStack addr) (devOff addr) (32 * count) false 0 = (t, b, f) → ∃ u, exec (.traceRead who seq addr count) s = .next u ∧ served u b)
end

