-- ==== Sys2Proof/Laws/Iterate.lean ====
section
/-! SUPPORT. Laws of iterations: what an iteration that succeeds answers, and how its actions follow one another. -/

namespace Sys2Proof.Machine

/-- An iteration whose body succeeds applies what the body gives, and is committed. -/
theorem iterate_ok {s s' : State} {t c op : Nat} {d : Bytes} {body : Run → It (State → State)} {f : State → State}
    (h : s.iterates t c d) (ho : dOp d = op) (hb : body (s.runNow t c d) s = .ok f s') :
    s.iterate t c op body = (f s').commitIteration t c := by
  subst ho
  unfold State.iterate State.runBody
  rw [h.1]
  simp only [h.2, if_true, Bool.false_eq_true, if_false]
  rw [hb]

/-- An action that succeeds hands on its value and its state. -/
theorem bind_ok {α β : Type} {m : It α} {k : α → It β} {s s' : State} {a : α} (h : m s = .ok a s') : (m >>= k) s = k a s' := by
  show EStateM.bind m k s = _
  unfold EStateM.bind
  rw [h]

/-- A condition that holds stops nothing. -/
theorem need_ok {c : Bool} {k : Nat} {s : State} (h : c = true) : need c k s = .ok () s := by
  unfold need
  rw [if_pos h]
  rfl

/-- Codes of an operand that can be read. -/
theorem readCodes_ok {e : Run} {o : Opnd} {s s' : State} {a : Bytes} (h : readOpnd e o s = .ok a s') :
    readCodes e o s = .ok (codes o.elem a) s' :=
  (bind_ok h).trans rfl

/-- Flags that NAN_TRAP does not take stop nothing. -/
theorem trapNan_ok {e : Run} {t fl : Nat} {s : State} (h : nanTraps e.mode fl = false) : trapNan e t fl s = .ok () s := by
  unfold trapNan
  rw [h]
  rfl

/-- Results whose flags raise nothing and that D has room for. -/
theorem emit_ok {e : Run} {enc : Rnd → Num → Nat × Nat} {v : List (Num × Bool)} {s s' : State} {w : State → State}
    (h : nanTraps e.mode (flagsOf (encoded e enc v)) = false) (hw : writeOpnd e (opD e.d) (packed e (encoded e enc v)) s = .ok w s') :
    emit e enc v s = .ok (fun s => (w s).modTile e.t (·.cvtFlags (flagsOf (encoded e enc v)))) s' :=
  (bind_ok (trapNan_ok h)).trans ((bind_ok hw).trans rfl)

end Sys2Proof.Machine
end

