-- ==== Sys2Proof/Laws/Maps.lean ====
section
/-! SUPPORT. Laws of the tables: a read after a write, and that every operation keeps the order and the canonical form. -/

namespace Sys2Proof.Machine

/-! Order of keys. -/

theorem keysFrom_mono {α : Type} : ∀ {m : SMap α} {a b : Nat}, a ≤ b → keysFrom b m = true → keysFrom a m = true
  | [], _, _, _, _ => rfl
  | (k, _) :: m, a, b, h, hm => by
    simp only [keysFrom, Bool.and_eq_true, decide_eq_true_eq] at hm ⊢
    exact ⟨h.trans hm.1, hm.2⟩

theorem keysFrom_le {α : Type} : ∀ {m : SMap α} {a : Nat} {p : Nat × α}, keysFrom a m = true → p ∈ m → a ≤ p.1
  | (k, _) :: m, a, p, hm, hp => by
    simp only [keysFrom, Bool.and_eq_true, decide_eq_true_eq] at hm
    rcases List.mem_cons.1 hp with rfl | hp
    · exact hm.1
    · exact le_trans (by omega) (keysFrom_le hm.2 hp)

theorem keysFrom_mapPut {α : Type} [DecidableEq α] (d : α) (k : Nat) (v : α) :
    ∀ {m : SMap α} {a : Nat}, a ≤ k → keysFrom a m = true → keysFrom a (mapPut d k v m) = true
  | [], a, h, _ => by
    unfold mapPut
    split <;> simp [keysFrom, h]
  | (j, x) :: m, a, h, hm => by
    simp only [keysFrom, Bool.and_eq_true, decide_eq_true_eq] at hm
    obtain ⟨h1, h2⟩ := hm
    unfold mapPut
    split
    · split
      · simp [keysFrom, h1, h2]
      · simp only [keysFrom, Bool.and_eq_true, decide_eq_true_eq]
        exact ⟨h, by omega, h2⟩
    · split
      · rename_i _ he
        split
        · exact keysFrom_mono (by omega) h2
        · subst he
          simp [keysFrom, h, h2]
      · simp only [keysFrom, Bool.and_eq_true, decide_eq_true_eq]
        exact ⟨h1, keysFrom_mapPut d k v (by omega) h2⟩

theorem mem_mapPut {α : Type} [DecidableEq α] {d : α} {k : Nat} {v : α} {p : Nat × α} :
    ∀ {m : SMap α}, p ∈ mapPut d k v m → (p = (k, v) ∧ v ≠ d) ∨ p ∈ m
  | [], h => by
    unfold mapPut at h
    split at h <;> simp_all
  | (j, x) :: m, h => by
    unfold mapPut at h
    split at h
    · split at h
      · exact .inr h
      · rcases List.mem_cons.1 h with rfl | h
        · exact .inl ⟨rfl, ‹_›⟩
        · exact .inr h
    · split at h
      · split at h
        · exact .inr (List.mem_cons_of_mem _ h)
        · rcases List.mem_cons.1 h with rfl | h
          · exact .inl ⟨rfl, ‹_›⟩
          · exact .inr (List.mem_cons_of_mem _ h)
      · rcases List.mem_cons.1 h with rfl | h
        · exact .inr (List.mem_cons_self ..)
        · exact (mem_mapPut h).imp id (List.mem_cons_of_mem _)

theorem mapGet_of_lt {α : Type} (d : α) (k : Nat) : ∀ {m : SMap α}, keysFrom (k + 1) m = true → mapGet d k m = d
  | [], _ => rfl
  | (j, x) :: m, h => by
    simp only [keysFrom, Bool.and_eq_true, decide_eq_true_eq] at h
    unfold mapGet
    rw [if_neg (by omega)]
    exact mapGet_of_lt d k (keysFrom_mono (by omega) h.2)

/-- A read of the key written gives what was written. -/
theorem mapGet_mapPut_self {α : Type} [DecidableEq α] (d : α) (k : Nat) (v : α) :
    ∀ {m : SMap α} {a : Nat}, keysFrom a m = true → mapGet d k (mapPut d k v m) = v
  | [], _, _ => by
    unfold mapPut
    split <;> simp_all [mapGet]
  | (j, x) :: m, a, h => by
    simp only [keysFrom, Bool.and_eq_true, decide_eq_true_eq] at h
    unfold mapPut
    split
    · split
      · rename_i hk hv
        unfold mapGet
        rw [if_neg (by omega), hv]
        exact mapGet_of_lt d k (keysFrom_mono (by omega) h.2)
      · simp [mapGet]
    · split
      · rename_i hk
        subst hk
        split
        · rename_i hv
          rw [hv]
          exact mapGet_of_lt d _ h.2
        · simp [mapGet]
      · unfold mapGet
        rw [if_neg (by omega)]
        exact mapGet_mapPut_self d k v h.2

/-- A write leaves every other key alone. -/
theorem mapGet_mapPut_ne {α : Type} [DecidableEq α] (d e : α) {k j : Nat} (v : α) (h : j ≠ k) :
    ∀ (m : SMap α), mapGet e j (mapPut d k v m) = mapGet e j m
  | [] => by
    unfold mapPut
    split
    · rfl
    · simp [mapGet, h.symm]
  | (i, x) :: m => by
    unfold mapPut
    split
    · split
      · rfl
      · simp [mapGet, h.symm]
    · split
      · rename_i _ hi
        split
        · subst hi
          simp [mapGet, h.symm]
        · subst hi
          simp [mapGet, h.symm]
      · unfold mapGet
        split
        · rfl
        · exact mapGet_mapPut_ne d e v h m

theorem keysFrom_filter {α : Type} (f : Nat × α → Bool) : ∀ {m : SMap α} {a : Nat}, keysFrom a m = true → keysFrom a (m.filter f) = true
  | [], _, _ => rfl
  | (k, x) :: m, a, h => by
    simp only [keysFrom, Bool.and_eq_true, decide_eq_true_eq] at h
    rw [List.filter_cons]
    split
    · simp only [keysFrom, Bool.and_eq_true, decide_eq_true_eq]
      exact ⟨h.1, keysFrom_filter f h.2⟩
    · exact keysFrom_mono (by omega) (keysFrom_filter f h.2)

theorem keysFrom_map {α β : Type} (f : Nat × α → β) : ∀ {m : SMap α} {a : Nat}, keysFrom a m = true →
    keysFrom a (m.map fun p => (p.1, f p)) = true
  | [], _, _ => rfl
  | (k, x) :: m, a, h => by
    simp only [keysFrom, Bool.and_eq_true, decide_eq_true_eq, List.map_cons] at h ⊢
    exact ⟨h.1, keysFrom_map f h.2⟩

/-- Keys moved up together stay in order. -/
theorem keysFrom_shift {α : Type} (n : Nat) : ∀ {m : SMap α} {a : Nat}, keysFrom a m = true →
    keysFrom (a + n) (m.map fun p => (p.1 + n, p.2)) = true
  | [], _, _ => rfl
  | (k, x) :: m, a, h => by
    simp only [keysFrom, Bool.and_eq_true, decide_eq_true_eq, List.map_cons] at h ⊢
    refine ⟨by omega, ?_⟩
    have := keysFrom_shift n h.2
    rwa [show k + 1 + n = k + n + 1 by omega] at this

theorem keysFrom_filterMap {α β : Type} (f : Nat × α → Option β) : ∀ {m : SMap α} {a : Nat}, keysFrom a m = true →
    keysFrom a (m.filterMap fun p => (f p).map fun y => (p.1, y)) = true
  | [], _, _ => rfl
  | (k, x) :: m, a, h => by
    simp only [keysFrom, Bool.and_eq_true, decide_eq_true_eq] at h
    rw [List.filterMap_cons]
    cases f (k, x) with
    | none => exact keysFrom_mono (by omega) (keysFrom_filterMap f h.2)
    | some y =>
      simp only [Option.map_some, keysFrom, Bool.and_eq_true, decide_eq_true_eq]
      exact ⟨h.1, keysFrom_filterMap f h.2⟩

/-- Two tables, the first below `b` and the second from `b` on. -/
theorem keysFrom_append {α : Type} {b : Nat} {n : SMap α} (hn : keysFrom b n = true) : ∀ {m : SMap α} {a : Nat}, a ≤ b →
    keysFrom a m = true → (∀ p ∈ m, p.1 < b) → keysFrom a (m ++ n) = true
  | [], _, hab, _, _ => keysFrom_mono hab hn
  | (k, x) :: m, a, hab, h, hb => by
    simp only [keysFrom, Bool.and_eq_true, decide_eq_true_eq, List.cons_append] at h ⊢
    have hk := hb (k, x) (List.mem_cons_self ..)
    exact ⟨h.1, keysFrom_append hn (by simpa using hk) h.2 fun p hp => hb p (List.mem_cons_of_mem _ hp)⟩

/-- A table of consecutive registers, 8 B apart. -/
theorem keysFrom_range {α : Type} (base : Nat) (f : Nat → α) (n : Nat) :
    keysFrom base ((List.range n).map fun i => (base + 8 * i, f i)) = true := by
  induction n with
  | zero => rfl
  | succ n ih =>
    rw [List.range_succ, List.map_append]
    refine keysFrom_append (b := base + 8 * n) (by simp [keysFrom]) (by omega) ih ?_
    intro p hp
    simp only [List.mem_map, List.mem_range] at hp
    obtain ⟨i, hi, rfl⟩ := hp
    show base + 8 * i < base + 8 * n
    omega

/-- What lies from `b` on, cut to those keys. -/
theorem keysFrom_from {α : Type} (b : Nat) : ∀ {m : SMap α} {a : Nat}, keysFrom a m = true →
    keysFrom b (m.filter fun p => decide (b ≤ p.1)) = true
  | [], _, _ => rfl
  | (k, x) :: m, a, h => by
    simp only [keysFrom, Bool.and_eq_true, decide_eq_true_eq] at h
    rw [List.filter_cons]
    split
    · rename_i hk
      simp only [decide_eq_true_eq] at hk
      simp only [keysFrom, Bool.and_eq_true, decide_eq_true_eq]
      exact ⟨hk, keysFrom_filter _ h.2⟩
    · exact keysFrom_from b h.2

/-! Byte memories. -/

@[simp] theorem Memory.wf_nil : Memory.wf [] = true := rfl

@[simp] theorem Memory.wf_mapPut {m : SMap Byte} (k : Nat) (v : Byte) (h : Memory.wf m = true) : Memory.wf (mapPut 0 k v m) = true := by
  simp only [Memory.wf, mapWf, Bool.and_eq_true, List.all_eq_true, decide_eq_true_eq] at h ⊢
  refine ⟨keysFrom_mapPut 0 k v (by omega) h.1, fun p hp => ?_⟩
  rcases mem_mapPut hp with ⟨rfl, hv⟩ | hp
  · exact hv
  · exact h.2 p hp

/-- A store of bytes keeps the canonical form. -/
@[simp] theorem Memory.wf_writeBytes : ∀ (b : Bytes) {m : SMap Byte} (a : Nat), Memory.wf m = true → Memory.wf (writeBytes m a b) = true
  | [], _, _, h => h
  | _ :: r, _, _, h => Memory.wf_writeBytes r _ (Memory.wf_mapPut _ _ h)

/-- Zeroing a range keeps the canonical form. -/
@[simp] theorem Memory.wf_zeroBytes {m : SMap Byte} (lo n : Nat) (h : Memory.wf m = true) : Memory.wf (zeroBytes m lo n) = true := by
  simp only [Memory.wf, mapWf, Bool.and_eq_true, List.all_eq_true, decide_eq_true_eq, zeroBytes] at h ⊢
  exact ⟨keysFrom_filter _ h.1, fun p hp => h.2 p (List.mem_filter.1 hp).1⟩

/-- A store leaves every byte outside it alone. -/
theorem mapGet_writeBytes_out : ∀ (b : Bytes) (m : SMap Byte) (a k : Nat), k < a ∨ a + b.length ≤ k →
    mapGet 0 k (writeBytes m a b) = mapGet 0 k m
  | [], _, _, _, _ => rfl
  | x :: r, m, a, k, h => by
    simp only [List.length_cons] at h
    rw [writeBytes, mapGet_writeBytes_out r _ _ _ (by omega), mapGet_mapPut_ne _ _ _ (by omega)]

/-- A store puts its bytes in place. -/
theorem mapGet_writeBytes_in : ∀ (b : Bytes) (m : SMap Byte) (a i : Nat) (d : Byte), Memory.wf m = true → i < b.length →
    mapGet 0 (a + i) (writeBytes m a b) = b.getD i d
  | x :: r, m, a, 0, d, h, _ => by
    rw [writeBytes, mapGet_writeBytes_out r _ _ _ (by omega)]
    simp only [Memory.wf, mapWf, Bool.and_eq_true] at h
    exact mapGet_mapPut_self 0 a x h.1
  | x :: r, m, a, i + 1, d, h, hi => by
    have := mapGet_writeBytes_in r (mapPut 0 a x m) (a + 1) i d (Memory.wf_mapPut _ _ h) (by simpa using hi)
    rw [writeBytes, show a + (i + 1) = a + 1 + i by omega, this]
    rfl

end Sys2Proof.Machine
end

