-- ==== Sys2Proof/Laws/State.lean ====
section
/-! SUPPORT. What every named update of the state does to each field. -/

namespace Sys2Proof.Machine

/-! `withPending` -/

@[simp] theorem State.withPending_pending {s : State} {x} : (s.withPending x).pending = x := (rfl)
@[simp] theorem State.withPending_out {s : State} {x} : (s.withPending x).out = s.out := (rfl)
@[simp] theorem State.withPending_clk {s : State} {x} : (s.withPending x).clk = s.clk := (rfl)
@[simp] theorem State.withPending_pins {s : State} {x} : (s.withPending x).pins = s.pins := (rfl)
@[simp] theorem State.withPending_regs {s : State} {x} : (s.withPending x).regs = s.regs := (rfl)
@[simp] theorem State.withPending_bar4 {s : State} {x} : (s.withPending x).bar4 = s.bar4 := (rfl)
@[simp] theorem State.withPending_unmasked {s : State} {x} : (s.withPending x).unmasked = s.unmasked := (rfl)
@[simp] theorem State.withPending_msixPending {s : State} {x} : (s.withPending x).msixPending = s.msixPending := (rfl)
@[simp] theorem State.withPending_tiles {s : State} {x} : (s.withPending x).tiles = s.tiles := (rfl)
@[simp] theorem State.withPending_dies {s : State} {x} : (s.withPending x).dies = s.dies := (rfl)
@[simp] theorem State.withPending_commit {s : State} {x} : (s.withPending x).commit = s.commit := (rfl)
@[simp] theorem State.withPending_blocks {s : State} {x} : (s.withPending x).blocks = s.blocks := (rfl)
@[simp] theorem State.withPending_mesh {s : State} {x} : (s.withPending x).mesh = s.mesh := (rfl)
@[simp] theorem State.withPending_ctrls {s : State} {x} : (s.withPending x).ctrls = s.ctrls := (rfl)
@[simp] theorem State.withPending_pdies {s : State} {x} : (s.withPending x).pdies = s.pdies := (rfl)
@[simp] theorem State.withPending_ports {s : State} {x} : (s.withPending x).ports = s.ports := (rfl)
@[simp] theorem State.withPending_voq {s : State} {x} : (s.withPending x).voq = s.voq := (rfl)
@[simp] theorem State.withPending_localQ {s : State} {x} : (s.withPending x).localQ = s.localQ := (rfl)
@[simp] theorem State.withPending_injQ {s : State} {x} : (s.withPending x).injQ = s.injQ := (rfl)
@[simp] theorem State.withPending_groups {s : State} {x} : (s.withPending x).groups = s.groups := (rfl)
@[simp] theorem State.withPending_faults {s : State} {x} : (s.withPending x).faults = s.faults := (rfl)
@[simp] theorem State.withPending_porter {s : State} {x} : (s.withPending x).porter = s.porter := (rfl)
@[simp] theorem State.withPending_sqHeld {s : State} {x} : (s.withPending x).sqHeld = s.sqHeld := (rfl)
@[simp] theorem State.withPending_trace {s : State} {x} : (s.withPending x).trace = s.trace := (rfl)
@[simp] theorem State.withPending_chks {s : State} {x} : (s.withPending x).chks = s.chks := (rfl)
@[simp] theorem State.withPending_tap {s : State} {x} : (s.withPending x).tap = s.tap := (rfl)
@[simp] theorem State.withPending_servo {s : State} {x} : (s.withPending x).servo = s.servo := (rfl)
@[simp] theorem State.withPending_reg {s : State} {x} {b} : (s.withPending x).reg b = s.reg b := (rfl)
@[simp] theorem State.withPending_fld {s : State} {x} {b c d} : (s.withPending x).fld b c d = s.fld b c d := (rfl)
@[simp] theorem State.withPending_b4 {s : State} {x} {b} : (s.withPending x).b4 b = s.b4 b := (rfl)
@[simp] theorem State.withPending_tile {s : State} {x} {b} : (s.withPending x).tile b = s.tile b := (rfl)

/-! `withOut` -/

@[simp] theorem State.withOut_pending {s : State} {x} : (s.withOut x).pending = s.pending := (rfl)
@[simp] theorem State.withOut_out {s : State} {x} : (s.withOut x).out = x := (rfl)
@[simp] theorem State.withOut_clk {s : State} {x} : (s.withOut x).clk = s.clk := (rfl)
@[simp] theorem State.withOut_pins {s : State} {x} : (s.withOut x).pins = s.pins := (rfl)
@[simp] theorem State.withOut_regs {s : State} {x} : (s.withOut x).regs = s.regs := (rfl)
@[simp] theorem State.withOut_bar4 {s : State} {x} : (s.withOut x).bar4 = s.bar4 := (rfl)
@[simp] theorem State.withOut_unmasked {s : State} {x} : (s.withOut x).unmasked = s.unmasked := (rfl)
@[simp] theorem State.withOut_msixPending {s : State} {x} : (s.withOut x).msixPending = s.msixPending := (rfl)
@[simp] theorem State.withOut_tiles {s : State} {x} : (s.withOut x).tiles = s.tiles := (rfl)
@[simp] theorem State.withOut_dies {s : State} {x} : (s.withOut x).dies = s.dies := (rfl)
@[simp] theorem State.withOut_commit {s : State} {x} : (s.withOut x).commit = s.commit := (rfl)
@[simp] theorem State.withOut_blocks {s : State} {x} : (s.withOut x).blocks = s.blocks := (rfl)
@[simp] theorem State.withOut_mesh {s : State} {x} : (s.withOut x).mesh = s.mesh := (rfl)
@[simp] theorem State.withOut_ctrls {s : State} {x} : (s.withOut x).ctrls = s.ctrls := (rfl)
@[simp] theorem State.withOut_pdies {s : State} {x} : (s.withOut x).pdies = s.pdies := (rfl)
@[simp] theorem State.withOut_ports {s : State} {x} : (s.withOut x).ports = s.ports := (rfl)
@[simp] theorem State.withOut_voq {s : State} {x} : (s.withOut x).voq = s.voq := (rfl)
@[simp] theorem State.withOut_localQ {s : State} {x} : (s.withOut x).localQ = s.localQ := (rfl)
@[simp] theorem State.withOut_injQ {s : State} {x} : (s.withOut x).injQ = s.injQ := (rfl)
@[simp] theorem State.withOut_groups {s : State} {x} : (s.withOut x).groups = s.groups := (rfl)
@[simp] theorem State.withOut_faults {s : State} {x} : (s.withOut x).faults = s.faults := (rfl)
@[simp] theorem State.withOut_porter {s : State} {x} : (s.withOut x).porter = s.porter := (rfl)
@[simp] theorem State.withOut_sqHeld {s : State} {x} : (s.withOut x).sqHeld = s.sqHeld := (rfl)
@[simp] theorem State.withOut_trace {s : State} {x} : (s.withOut x).trace = s.trace := (rfl)
@[simp] theorem State.withOut_chks {s : State} {x} : (s.withOut x).chks = s.chks := (rfl)
@[simp] theorem State.withOut_tap {s : State} {x} : (s.withOut x).tap = s.tap := (rfl)
@[simp] theorem State.withOut_servo {s : State} {x} : (s.withOut x).servo = s.servo := (rfl)
@[simp] theorem State.withOut_reg {s : State} {x} {b} : (s.withOut x).reg b = s.reg b := (rfl)
@[simp] theorem State.withOut_fld {s : State} {x} {b c d} : (s.withOut x).fld b c d = s.fld b c d := (rfl)
@[simp] theorem State.withOut_b4 {s : State} {x} {b} : (s.withOut x).b4 b = s.b4 b := (rfl)
@[simp] theorem State.withOut_tile {s : State} {x} {b} : (s.withOut x).tile b = s.tile b := (rfl)

/-! `withClk` -/

@[simp] theorem State.withClk_pending {s : State} {x} : (s.withClk x).pending = s.pending := (rfl)
@[simp] theorem State.withClk_out {s : State} {x} : (s.withClk x).out = s.out := (rfl)
@[simp] theorem State.withClk_clk {s : State} {x} : (s.withClk x).clk = x := (rfl)
@[simp] theorem State.withClk_pins {s : State} {x} : (s.withClk x).pins = s.pins := (rfl)
@[simp] theorem State.withClk_regs {s : State} {x} : (s.withClk x).regs = s.regs := (rfl)
@[simp] theorem State.withClk_bar4 {s : State} {x} : (s.withClk x).bar4 = s.bar4 := (rfl)
@[simp] theorem State.withClk_unmasked {s : State} {x} : (s.withClk x).unmasked = s.unmasked := (rfl)
@[simp] theorem State.withClk_msixPending {s : State} {x} : (s.withClk x).msixPending = s.msixPending := (rfl)
@[simp] theorem State.withClk_tiles {s : State} {x} : (s.withClk x).tiles = s.tiles := (rfl)
@[simp] theorem State.withClk_dies {s : State} {x} : (s.withClk x).dies = s.dies := (rfl)
@[simp] theorem State.withClk_commit {s : State} {x} : (s.withClk x).commit = s.commit := (rfl)
@[simp] theorem State.withClk_blocks {s : State} {x} : (s.withClk x).blocks = s.blocks := (rfl)
@[simp] theorem State.withClk_mesh {s : State} {x} : (s.withClk x).mesh = s.mesh := (rfl)
@[simp] theorem State.withClk_ctrls {s : State} {x} : (s.withClk x).ctrls = s.ctrls := (rfl)
@[simp] theorem State.withClk_pdies {s : State} {x} : (s.withClk x).pdies = s.pdies := (rfl)
@[simp] theorem State.withClk_ports {s : State} {x} : (s.withClk x).ports = s.ports := (rfl)
@[simp] theorem State.withClk_voq {s : State} {x} : (s.withClk x).voq = s.voq := (rfl)
@[simp] theorem State.withClk_localQ {s : State} {x} : (s.withClk x).localQ = s.localQ := (rfl)
@[simp] theorem State.withClk_injQ {s : State} {x} : (s.withClk x).injQ = s.injQ := (rfl)
@[simp] theorem State.withClk_groups {s : State} {x} : (s.withClk x).groups = s.groups := (rfl)
@[simp] theorem State.withClk_faults {s : State} {x} : (s.withClk x).faults = s.faults := (rfl)
@[simp] theorem State.withClk_porter {s : State} {x} : (s.withClk x).porter = s.porter := (rfl)
@[simp] theorem State.withClk_sqHeld {s : State} {x} : (s.withClk x).sqHeld = s.sqHeld := (rfl)
@[simp] theorem State.withClk_trace {s : State} {x} : (s.withClk x).trace = s.trace := (rfl)
@[simp] theorem State.withClk_chks {s : State} {x} : (s.withClk x).chks = s.chks := (rfl)
@[simp] theorem State.withClk_tap {s : State} {x} : (s.withClk x).tap = s.tap := (rfl)
@[simp] theorem State.withClk_servo {s : State} {x} : (s.withClk x).servo = s.servo := (rfl)
@[simp] theorem State.withClk_reg {s : State} {x} {b} : (s.withClk x).reg b = s.reg b := (rfl)
@[simp] theorem State.withClk_fld {s : State} {x} {b c d} : (s.withClk x).fld b c d = s.fld b c d := (rfl)
@[simp] theorem State.withClk_b4 {s : State} {x} {b} : (s.withClk x).b4 b = s.b4 b := (rfl)
@[simp] theorem State.withClk_tile {s : State} {x} {b} : (s.withClk x).tile b = s.tile b := (rfl)

/-! `withPins` -/

@[simp] theorem State.withPins_pending {s : State} {x} : (s.withPins x).pending = s.pending := (rfl)
@[simp] theorem State.withPins_out {s : State} {x} : (s.withPins x).out = s.out := (rfl)
@[simp] theorem State.withPins_clk {s : State} {x} : (s.withPins x).clk = s.clk := (rfl)
@[simp] theorem State.withPins_pins {s : State} {x} : (s.withPins x).pins = x := (rfl)
@[simp] theorem State.withPins_regs {s : State} {x} : (s.withPins x).regs = s.regs := (rfl)
@[simp] theorem State.withPins_bar4 {s : State} {x} : (s.withPins x).bar4 = s.bar4 := (rfl)
@[simp] theorem State.withPins_unmasked {s : State} {x} : (s.withPins x).unmasked = s.unmasked := (rfl)
@[simp] theorem State.withPins_msixPending {s : State} {x} : (s.withPins x).msixPending = s.msixPending := (rfl)
@[simp] theorem State.withPins_tiles {s : State} {x} : (s.withPins x).tiles = s.tiles := (rfl)
@[simp] theorem State.withPins_dies {s : State} {x} : (s.withPins x).dies = s.dies := (rfl)
@[simp] theorem State.withPins_commit {s : State} {x} : (s.withPins x).commit = s.commit := (rfl)
@[simp] theorem State.withPins_blocks {s : State} {x} : (s.withPins x).blocks = s.blocks := (rfl)
@[simp] theorem State.withPins_mesh {s : State} {x} : (s.withPins x).mesh = s.mesh := (rfl)
@[simp] theorem State.withPins_ctrls {s : State} {x} : (s.withPins x).ctrls = s.ctrls := (rfl)
@[simp] theorem State.withPins_pdies {s : State} {x} : (s.withPins x).pdies = s.pdies := (rfl)
@[simp] theorem State.withPins_ports {s : State} {x} : (s.withPins x).ports = s.ports := (rfl)
@[simp] theorem State.withPins_voq {s : State} {x} : (s.withPins x).voq = s.voq := (rfl)
@[simp] theorem State.withPins_localQ {s : State} {x} : (s.withPins x).localQ = s.localQ := (rfl)
@[simp] theorem State.withPins_injQ {s : State} {x} : (s.withPins x).injQ = s.injQ := (rfl)
@[simp] theorem State.withPins_groups {s : State} {x} : (s.withPins x).groups = s.groups := (rfl)
@[simp] theorem State.withPins_faults {s : State} {x} : (s.withPins x).faults = s.faults := (rfl)
@[simp] theorem State.withPins_porter {s : State} {x} : (s.withPins x).porter = s.porter := (rfl)
@[simp] theorem State.withPins_sqHeld {s : State} {x} : (s.withPins x).sqHeld = s.sqHeld := (rfl)
@[simp] theorem State.withPins_trace {s : State} {x} : (s.withPins x).trace = s.trace := (rfl)
@[simp] theorem State.withPins_chks {s : State} {x} : (s.withPins x).chks = s.chks := (rfl)
@[simp] theorem State.withPins_tap {s : State} {x} : (s.withPins x).tap = s.tap := (rfl)
@[simp] theorem State.withPins_servo {s : State} {x} : (s.withPins x).servo = s.servo := (rfl)
@[simp] theorem State.withPins_reg {s : State} {x} {b} : (s.withPins x).reg b = s.reg b := (rfl)
@[simp] theorem State.withPins_fld {s : State} {x} {b c d} : (s.withPins x).fld b c d = s.fld b c d := (rfl)
@[simp] theorem State.withPins_b4 {s : State} {x} {b} : (s.withPins x).b4 b = s.b4 b := (rfl)
@[simp] theorem State.withPins_tile {s : State} {x} {b} : (s.withPins x).tile b = s.tile b := (rfl)

/-! `withRegs` -/

@[simp] theorem State.withRegs_pending {s : State} {x} : (s.withRegs x).pending = s.pending := (rfl)
@[simp] theorem State.withRegs_out {s : State} {x} : (s.withRegs x).out = s.out := (rfl)
@[simp] theorem State.withRegs_clk {s : State} {x} : (s.withRegs x).clk = s.clk := (rfl)
@[simp] theorem State.withRegs_pins {s : State} {x} : (s.withRegs x).pins = s.pins := (rfl)
@[simp] theorem State.withRegs_regs {s : State} {x} : (s.withRegs x).regs = x := (rfl)
@[simp] theorem State.withRegs_bar4 {s : State} {x} : (s.withRegs x).bar4 = s.bar4 := (rfl)
@[simp] theorem State.withRegs_unmasked {s : State} {x} : (s.withRegs x).unmasked = s.unmasked := (rfl)
@[simp] theorem State.withRegs_msixPending {s : State} {x} : (s.withRegs x).msixPending = s.msixPending := (rfl)
@[simp] theorem State.withRegs_tiles {s : State} {x} : (s.withRegs x).tiles = s.tiles := (rfl)
@[simp] theorem State.withRegs_dies {s : State} {x} : (s.withRegs x).dies = s.dies := (rfl)
@[simp] theorem State.withRegs_commit {s : State} {x} : (s.withRegs x).commit = s.commit := (rfl)
@[simp] theorem State.withRegs_blocks {s : State} {x} : (s.withRegs x).blocks = s.blocks := (rfl)
@[simp] theorem State.withRegs_mesh {s : State} {x} : (s.withRegs x).mesh = s.mesh := (rfl)
@[simp] theorem State.withRegs_ctrls {s : State} {x} : (s.withRegs x).ctrls = s.ctrls := (rfl)
@[simp] theorem State.withRegs_pdies {s : State} {x} : (s.withRegs x).pdies = s.pdies := (rfl)
@[simp] theorem State.withRegs_ports {s : State} {x} : (s.withRegs x).ports = s.ports := (rfl)
@[simp] theorem State.withRegs_voq {s : State} {x} : (s.withRegs x).voq = s.voq := (rfl)
@[simp] theorem State.withRegs_localQ {s : State} {x} : (s.withRegs x).localQ = s.localQ := (rfl)
@[simp] theorem State.withRegs_injQ {s : State} {x} : (s.withRegs x).injQ = s.injQ := (rfl)
@[simp] theorem State.withRegs_groups {s : State} {x} : (s.withRegs x).groups = s.groups := (rfl)
@[simp] theorem State.withRegs_faults {s : State} {x} : (s.withRegs x).faults = s.faults := (rfl)
@[simp] theorem State.withRegs_porter {s : State} {x} : (s.withRegs x).porter = s.porter := (rfl)
@[simp] theorem State.withRegs_sqHeld {s : State} {x} : (s.withRegs x).sqHeld = s.sqHeld := (rfl)
@[simp] theorem State.withRegs_trace {s : State} {x} : (s.withRegs x).trace = s.trace := (rfl)
@[simp] theorem State.withRegs_chks {s : State} {x} : (s.withRegs x).chks = s.chks := (rfl)
@[simp] theorem State.withRegs_tap {s : State} {x} : (s.withRegs x).tap = s.tap := (rfl)
@[simp] theorem State.withRegs_servo {s : State} {x} : (s.withRegs x).servo = s.servo := (rfl)
@[simp] theorem State.withRegs_b4 {s : State} {x} {b} : (s.withRegs x).b4 b = s.b4 b := (rfl)
@[simp] theorem State.withRegs_tile {s : State} {x} {b} : (s.withRegs x).tile b = s.tile b := (rfl)

/-! `withBar4` -/

@[simp] theorem State.withBar4_pending {s : State} {x} : (s.withBar4 x).pending = s.pending := (rfl)
@[simp] theorem State.withBar4_out {s : State} {x} : (s.withBar4 x).out = s.out := (rfl)
@[simp] theorem State.withBar4_clk {s : State} {x} : (s.withBar4 x).clk = s.clk := (rfl)
@[simp] theorem State.withBar4_pins {s : State} {x} : (s.withBar4 x).pins = s.pins := (rfl)
@[simp] theorem State.withBar4_regs {s : State} {x} : (s.withBar4 x).regs = s.regs := (rfl)
@[simp] theorem State.withBar4_bar4 {s : State} {x} : (s.withBar4 x).bar4 = x := (rfl)
@[simp] theorem State.withBar4_unmasked {s : State} {x} : (s.withBar4 x).unmasked = s.unmasked := (rfl)
@[simp] theorem State.withBar4_msixPending {s : State} {x} : (s.withBar4 x).msixPending = s.msixPending := (rfl)
@[simp] theorem State.withBar4_tiles {s : State} {x} : (s.withBar4 x).tiles = s.tiles := (rfl)
@[simp] theorem State.withBar4_dies {s : State} {x} : (s.withBar4 x).dies = s.dies := (rfl)
@[simp] theorem State.withBar4_commit {s : State} {x} : (s.withBar4 x).commit = s.commit := (rfl)
@[simp] theorem State.withBar4_blocks {s : State} {x} : (s.withBar4 x).blocks = s.blocks := (rfl)
@[simp] theorem State.withBar4_mesh {s : State} {x} : (s.withBar4 x).mesh = s.mesh := (rfl)
@[simp] theorem State.withBar4_ctrls {s : State} {x} : (s.withBar4 x).ctrls = s.ctrls := (rfl)
@[simp] theorem State.withBar4_pdies {s : State} {x} : (s.withBar4 x).pdies = s.pdies := (rfl)
@[simp] theorem State.withBar4_ports {s : State} {x} : (s.withBar4 x).ports = s.ports := (rfl)
@[simp] theorem State.withBar4_voq {s : State} {x} : (s.withBar4 x).voq = s.voq := (rfl)
@[simp] theorem State.withBar4_localQ {s : State} {x} : (s.withBar4 x).localQ = s.localQ := (rfl)
@[simp] theorem State.withBar4_injQ {s : State} {x} : (s.withBar4 x).injQ = s.injQ := (rfl)
@[simp] theorem State.withBar4_groups {s : State} {x} : (s.withBar4 x).groups = s.groups := (rfl)
@[simp] theorem State.withBar4_faults {s : State} {x} : (s.withBar4 x).faults = s.faults := (rfl)
@[simp] theorem State.withBar4_porter {s : State} {x} : (s.withBar4 x).porter = s.porter := (rfl)
@[simp] theorem State.withBar4_sqHeld {s : State} {x} : (s.withBar4 x).sqHeld = s.sqHeld := (rfl)
@[simp] theorem State.withBar4_trace {s : State} {x} : (s.withBar4 x).trace = s.trace := (rfl)
@[simp] theorem State.withBar4_chks {s : State} {x} : (s.withBar4 x).chks = s.chks := (rfl)
@[simp] theorem State.withBar4_tap {s : State} {x} : (s.withBar4 x).tap = s.tap := (rfl)
@[simp] theorem State.withBar4_servo {s : State} {x} : (s.withBar4 x).servo = s.servo := (rfl)
@[simp] theorem State.withBar4_reg {s : State} {x} {b} : (s.withBar4 x).reg b = s.reg b := (rfl)
@[simp] theorem State.withBar4_fld {s : State} {x} {b c d} : (s.withBar4 x).fld b c d = s.fld b c d := (rfl)
@[simp] theorem State.withBar4_tile {s : State} {x} {b} : (s.withBar4 x).tile b = s.tile b := (rfl)

/-! `withUnmasked` -/

@[simp] theorem State.withUnmasked_pending {s : State} {x} : (s.withUnmasked x).pending = s.pending := (rfl)
@[simp] theorem State.withUnmasked_out {s : State} {x} : (s.withUnmasked x).out = s.out := (rfl)
@[simp] theorem State.withUnmasked_clk {s : State} {x} : (s.withUnmasked x).clk = s.clk := (rfl)
@[simp] theorem State.withUnmasked_pins {s : State} {x} : (s.withUnmasked x).pins = s.pins := (rfl)
@[simp] theorem State.withUnmasked_regs {s : State} {x} : (s.withUnmasked x).regs = s.regs := (rfl)
@[simp] theorem State.withUnmasked_bar4 {s : State} {x} : (s.withUnmasked x).bar4 = s.bar4 := (rfl)
@[simp] theorem State.withUnmasked_unmasked {s : State} {x} : (s.withUnmasked x).unmasked = x := (rfl)
@[simp] theorem State.withUnmasked_msixPending {s : State} {x} : (s.withUnmasked x).msixPending = s.msixPending := (rfl)
@[simp] theorem State.withUnmasked_tiles {s : State} {x} : (s.withUnmasked x).tiles = s.tiles := (rfl)
@[simp] theorem State.withUnmasked_dies {s : State} {x} : (s.withUnmasked x).dies = s.dies := (rfl)
@[simp] theorem State.withUnmasked_commit {s : State} {x} : (s.withUnmasked x).commit = s.commit := (rfl)
@[simp] theorem State.withUnmasked_blocks {s : State} {x} : (s.withUnmasked x).blocks = s.blocks := (rfl)
@[simp] theorem State.withUnmasked_mesh {s : State} {x} : (s.withUnmasked x).mesh = s.mesh := (rfl)
@[simp] theorem State.withUnmasked_ctrls {s : State} {x} : (s.withUnmasked x).ctrls = s.ctrls := (rfl)
@[simp] theorem State.withUnmasked_pdies {s : State} {x} : (s.withUnmasked x).pdies = s.pdies := (rfl)
@[simp] theorem State.withUnmasked_ports {s : State} {x} : (s.withUnmasked x).ports = s.ports := (rfl)
@[simp] theorem State.withUnmasked_voq {s : State} {x} : (s.withUnmasked x).voq = s.voq := (rfl)
@[simp] theorem State.withUnmasked_localQ {s : State} {x} : (s.withUnmasked x).localQ = s.localQ := (rfl)
@[simp] theorem State.withUnmasked_injQ {s : State} {x} : (s.withUnmasked x).injQ = s.injQ := (rfl)
@[simp] theorem State.withUnmasked_groups {s : State} {x} : (s.withUnmasked x).groups = s.groups := (rfl)
@[simp] theorem State.withUnmasked_faults {s : State} {x} : (s.withUnmasked x).faults = s.faults := (rfl)
@[simp] theorem State.withUnmasked_porter {s : State} {x} : (s.withUnmasked x).porter = s.porter := (rfl)
@[simp] theorem State.withUnmasked_sqHeld {s : State} {x} : (s.withUnmasked x).sqHeld = s.sqHeld := (rfl)
@[simp] theorem State.withUnmasked_trace {s : State} {x} : (s.withUnmasked x).trace = s.trace := (rfl)
@[simp] theorem State.withUnmasked_chks {s : State} {x} : (s.withUnmasked x).chks = s.chks := (rfl)
@[simp] theorem State.withUnmasked_tap {s : State} {x} : (s.withUnmasked x).tap = s.tap := (rfl)
@[simp] theorem State.withUnmasked_servo {s : State} {x} : (s.withUnmasked x).servo = s.servo := (rfl)
@[simp] theorem State.withUnmasked_reg {s : State} {x} {b} : (s.withUnmasked x).reg b = s.reg b := (rfl)
@[simp] theorem State.withUnmasked_fld {s : State} {x} {b c d} : (s.withUnmasked x).fld b c d = s.fld b c d := (rfl)
@[simp] theorem State.withUnmasked_b4 {s : State} {x} {b} : (s.withUnmasked x).b4 b = s.b4 b := (rfl)
@[simp] theorem State.withUnmasked_tile {s : State} {x} {b} : (s.withUnmasked x).tile b = s.tile b := (rfl)

/-! `withMsixPending` -/

@[simp] theorem State.withMsixPending_pending {s : State} {x} : (s.withMsixPending x).pending = s.pending := (rfl)
@[simp] theorem State.withMsixPending_out {s : State} {x} : (s.withMsixPending x).out = s.out := (rfl)
@[simp] theorem State.withMsixPending_clk {s : State} {x} : (s.withMsixPending x).clk = s.clk := (rfl)
@[simp] theorem State.withMsixPending_pins {s : State} {x} : (s.withMsixPending x).pins = s.pins := (rfl)
@[simp] theorem State.withMsixPending_regs {s : State} {x} : (s.withMsixPending x).regs = s.regs := (rfl)
@[simp] theorem State.withMsixPending_bar4 {s : State} {x} : (s.withMsixPending x).bar4 = s.bar4 := (rfl)
@[simp] theorem State.withMsixPending_unmasked {s : State} {x} : (s.withMsixPending x).unmasked = s.unmasked := (rfl)
@[simp] theorem State.withMsixPending_msixPending {s : State} {x} : (s.withMsixPending x).msixPending = x := (rfl)
@[simp] theorem State.withMsixPending_tiles {s : State} {x} : (s.withMsixPending x).tiles = s.tiles := (rfl)
@[simp] theorem State.withMsixPending_dies {s : State} {x} : (s.withMsixPending x).dies = s.dies := (rfl)
@[simp] theorem State.withMsixPending_commit {s : State} {x} : (s.withMsixPending x).commit = s.commit := (rfl)
@[simp] theorem State.withMsixPending_blocks {s : State} {x} : (s.withMsixPending x).blocks = s.blocks := (rfl)
@[simp] theorem State.withMsixPending_mesh {s : State} {x} : (s.withMsixPending x).mesh = s.mesh := (rfl)
@[simp] theorem State.withMsixPending_ctrls {s : State} {x} : (s.withMsixPending x).ctrls = s.ctrls := (rfl)
@[simp] theorem State.withMsixPending_pdies {s : State} {x} : (s.withMsixPending x).pdies = s.pdies := (rfl)
@[simp] theorem State.withMsixPending_ports {s : State} {x} : (s.withMsixPending x).ports = s.ports := (rfl)
@[simp] theorem State.withMsixPending_voq {s : State} {x} : (s.withMsixPending x).voq = s.voq := (rfl)
@[simp] theorem State.withMsixPending_localQ {s : State} {x} : (s.withMsixPending x).localQ = s.localQ := (rfl)
@[simp] theorem State.withMsixPending_injQ {s : State} {x} : (s.withMsixPending x).injQ = s.injQ := (rfl)
@[simp] theorem State.withMsixPending_groups {s : State} {x} : (s.withMsixPending x).groups = s.groups := (rfl)
@[simp] theorem State.withMsixPending_faults {s : State} {x} : (s.withMsixPending x).faults = s.faults := (rfl)
@[simp] theorem State.withMsixPending_porter {s : State} {x} : (s.withMsixPending x).porter = s.porter := (rfl)
@[simp] theorem State.withMsixPending_sqHeld {s : State} {x} : (s.withMsixPending x).sqHeld = s.sqHeld := (rfl)
@[simp] theorem State.withMsixPending_trace {s : State} {x} : (s.withMsixPending x).trace = s.trace := (rfl)
@[simp] theorem State.withMsixPending_chks {s : State} {x} : (s.withMsixPending x).chks = s.chks := (rfl)
@[simp] theorem State.withMsixPending_tap {s : State} {x} : (s.withMsixPending x).tap = s.tap := (rfl)
@[simp] theorem State.withMsixPending_servo {s : State} {x} : (s.withMsixPending x).servo = s.servo := (rfl)
@[simp] theorem State.withMsixPending_reg {s : State} {x} {b} : (s.withMsixPending x).reg b = s.reg b := (rfl)
@[simp] theorem State.withMsixPending_fld {s : State} {x} {b c d} : (s.withMsixPending x).fld b c d = s.fld b c d := (rfl)
@[simp] theorem State.withMsixPending_b4 {s : State} {x} {b} : (s.withMsixPending x).b4 b = s.b4 b := (rfl)
@[simp] theorem State.withMsixPending_tile {s : State} {x} {b} : (s.withMsixPending x).tile b = s.tile b := (rfl)

/-! `withTiles` -/

@[simp] theorem State.withTiles_pending {s : State} {x} : (s.withTiles x).pending = s.pending := (rfl)
@[simp] theorem State.withTiles_out {s : State} {x} : (s.withTiles x).out = s.out := (rfl)
@[simp] theorem State.withTiles_clk {s : State} {x} : (s.withTiles x).clk = s.clk := (rfl)
@[simp] theorem State.withTiles_pins {s : State} {x} : (s.withTiles x).pins = s.pins := (rfl)
@[simp] theorem State.withTiles_regs {s : State} {x} : (s.withTiles x).regs = s.regs := (rfl)
@[simp] theorem State.withTiles_bar4 {s : State} {x} : (s.withTiles x).bar4 = s.bar4 := (rfl)
@[simp] theorem State.withTiles_unmasked {s : State} {x} : (s.withTiles x).unmasked = s.unmasked := (rfl)
@[simp] theorem State.withTiles_msixPending {s : State} {x} : (s.withTiles x).msixPending = s.msixPending := (rfl)
@[simp] theorem State.withTiles_tiles {s : State} {x} : (s.withTiles x).tiles = x := (rfl)
@[simp] theorem State.withTiles_dies {s : State} {x} : (s.withTiles x).dies = s.dies := (rfl)
@[simp] theorem State.withTiles_commit {s : State} {x} : (s.withTiles x).commit = s.commit := (rfl)
@[simp] theorem State.withTiles_blocks {s : State} {x} : (s.withTiles x).blocks = s.blocks := (rfl)
@[simp] theorem State.withTiles_mesh {s : State} {x} : (s.withTiles x).mesh = s.mesh := (rfl)
@[simp] theorem State.withTiles_ctrls {s : State} {x} : (s.withTiles x).ctrls = s.ctrls := (rfl)
@[simp] theorem State.withTiles_pdies {s : State} {x} : (s.withTiles x).pdies = s.pdies := (rfl)
@[simp] theorem State.withTiles_ports {s : State} {x} : (s.withTiles x).ports = s.ports := (rfl)
@[simp] theorem State.withTiles_voq {s : State} {x} : (s.withTiles x).voq = s.voq := (rfl)
@[simp] theorem State.withTiles_localQ {s : State} {x} : (s.withTiles x).localQ = s.localQ := (rfl)
@[simp] theorem State.withTiles_injQ {s : State} {x} : (s.withTiles x).injQ = s.injQ := (rfl)
@[simp] theorem State.withTiles_groups {s : State} {x} : (s.withTiles x).groups = s.groups := (rfl)
@[simp] theorem State.withTiles_faults {s : State} {x} : (s.withTiles x).faults = s.faults := (rfl)
@[simp] theorem State.withTiles_porter {s : State} {x} : (s.withTiles x).porter = s.porter := (rfl)
@[simp] theorem State.withTiles_sqHeld {s : State} {x} : (s.withTiles x).sqHeld = s.sqHeld := (rfl)
@[simp] theorem State.withTiles_trace {s : State} {x} : (s.withTiles x).trace = s.trace := (rfl)
@[simp] theorem State.withTiles_chks {s : State} {x} : (s.withTiles x).chks = s.chks := (rfl)
@[simp] theorem State.withTiles_tap {s : State} {x} : (s.withTiles x).tap = s.tap := (rfl)
@[simp] theorem State.withTiles_servo {s : State} {x} : (s.withTiles x).servo = s.servo := (rfl)
@[simp] theorem State.withTiles_reg {s : State} {x} {b} : (s.withTiles x).reg b = s.reg b := (rfl)
@[simp] theorem State.withTiles_fld {s : State} {x} {b c d} : (s.withTiles x).fld b c d = s.fld b c d := (rfl)
@[simp] theorem State.withTiles_b4 {s : State} {x} {b} : (s.withTiles x).b4 b = s.b4 b := (rfl)

/-! `withDies` -/

@[simp] theorem State.withDies_pending {s : State} {x} : (s.withDies x).pending = s.pending := (rfl)
@[simp] theorem State.withDies_out {s : State} {x} : (s.withDies x).out = s.out := (rfl)
@[simp] theorem State.withDies_clk {s : State} {x} : (s.withDies x).clk = s.clk := (rfl)
@[simp] theorem State.withDies_pins {s : State} {x} : (s.withDies x).pins = s.pins := (rfl)
@[simp] theorem State.withDies_regs {s : State} {x} : (s.withDies x).regs = s.regs := (rfl)
@[simp] theorem State.withDies_bar4 {s : State} {x} : (s.withDies x).bar4 = s.bar4 := (rfl)
@[simp] theorem State.withDies_unmasked {s : State} {x} : (s.withDies x).unmasked = s.unmasked := (rfl)
@[simp] theorem State.withDies_msixPending {s : State} {x} : (s.withDies x).msixPending = s.msixPending := (rfl)
@[simp] theorem State.withDies_tiles {s : State} {x} : (s.withDies x).tiles = s.tiles := (rfl)
@[simp] theorem State.withDies_dies {s : State} {x} : (s.withDies x).dies = x := (rfl)
@[simp] theorem State.withDies_commit {s : State} {x} : (s.withDies x).commit = s.commit := (rfl)
@[simp] theorem State.withDies_blocks {s : State} {x} : (s.withDies x).blocks = s.blocks := (rfl)
@[simp] theorem State.withDies_mesh {s : State} {x} : (s.withDies x).mesh = s.mesh := (rfl)
@[simp] theorem State.withDies_ctrls {s : State} {x} : (s.withDies x).ctrls = s.ctrls := (rfl)
@[simp] theorem State.withDies_pdies {s : State} {x} : (s.withDies x).pdies = s.pdies := (rfl)
@[simp] theorem State.withDies_ports {s : State} {x} : (s.withDies x).ports = s.ports := (rfl)
@[simp] theorem State.withDies_voq {s : State} {x} : (s.withDies x).voq = s.voq := (rfl)
@[simp] theorem State.withDies_localQ {s : State} {x} : (s.withDies x).localQ = s.localQ := (rfl)
@[simp] theorem State.withDies_injQ {s : State} {x} : (s.withDies x).injQ = s.injQ := (rfl)
@[simp] theorem State.withDies_groups {s : State} {x} : (s.withDies x).groups = s.groups := (rfl)
@[simp] theorem State.withDies_faults {s : State} {x} : (s.withDies x).faults = s.faults := (rfl)
@[simp] theorem State.withDies_porter {s : State} {x} : (s.withDies x).porter = s.porter := (rfl)
@[simp] theorem State.withDies_sqHeld {s : State} {x} : (s.withDies x).sqHeld = s.sqHeld := (rfl)
@[simp] theorem State.withDies_trace {s : State} {x} : (s.withDies x).trace = s.trace := (rfl)
@[simp] theorem State.withDies_chks {s : State} {x} : (s.withDies x).chks = s.chks := (rfl)
@[simp] theorem State.withDies_tap {s : State} {x} : (s.withDies x).tap = s.tap := (rfl)
@[simp] theorem State.withDies_servo {s : State} {x} : (s.withDies x).servo = s.servo := (rfl)
@[simp] theorem State.withDies_reg {s : State} {x} {b} : (s.withDies x).reg b = s.reg b := (rfl)
@[simp] theorem State.withDies_fld {s : State} {x} {b c d} : (s.withDies x).fld b c d = s.fld b c d := (rfl)
@[simp] theorem State.withDies_b4 {s : State} {x} {b} : (s.withDies x).b4 b = s.b4 b := (rfl)
@[simp] theorem State.withDies_tile {s : State} {x} {b} : (s.withDies x).tile b = s.tile b := (rfl)

/-! `withCommit` -/

@[simp] theorem State.withCommit_pending {s : State} {x} : (s.withCommit x).pending = s.pending := (rfl)
@[simp] theorem State.withCommit_out {s : State} {x} : (s.withCommit x).out = s.out := (rfl)
@[simp] theorem State.withCommit_clk {s : State} {x} : (s.withCommit x).clk = s.clk := (rfl)
@[simp] theorem State.withCommit_pins {s : State} {x} : (s.withCommit x).pins = s.pins := (rfl)
@[simp] theorem State.withCommit_regs {s : State} {x} : (s.withCommit x).regs = s.regs := (rfl)
@[simp] theorem State.withCommit_bar4 {s : State} {x} : (s.withCommit x).bar4 = s.bar4 := (rfl)
@[simp] theorem State.withCommit_unmasked {s : State} {x} : (s.withCommit x).unmasked = s.unmasked := (rfl)
@[simp] theorem State.withCommit_msixPending {s : State} {x} : (s.withCommit x).msixPending = s.msixPending := (rfl)
@[simp] theorem State.withCommit_tiles {s : State} {x} : (s.withCommit x).tiles = s.tiles := (rfl)
@[simp] theorem State.withCommit_dies {s : State} {x} : (s.withCommit x).dies = s.dies := (rfl)
@[simp] theorem State.withCommit_commit {s : State} {x} : (s.withCommit x).commit = x := (rfl)
@[simp] theorem State.withCommit_blocks {s : State} {x} : (s.withCommit x).blocks = s.blocks := (rfl)
@[simp] theorem State.withCommit_mesh {s : State} {x} : (s.withCommit x).mesh = s.mesh := (rfl)
@[simp] theorem State.withCommit_ctrls {s : State} {x} : (s.withCommit x).ctrls = s.ctrls := (rfl)
@[simp] theorem State.withCommit_pdies {s : State} {x} : (s.withCommit x).pdies = s.pdies := (rfl)
@[simp] theorem State.withCommit_ports {s : State} {x} : (s.withCommit x).ports = s.ports := (rfl)
@[simp] theorem State.withCommit_voq {s : State} {x} : (s.withCommit x).voq = s.voq := (rfl)
@[simp] theorem State.withCommit_localQ {s : State} {x} : (s.withCommit x).localQ = s.localQ := (rfl)
@[simp] theorem State.withCommit_injQ {s : State} {x} : (s.withCommit x).injQ = s.injQ := (rfl)
@[simp] theorem State.withCommit_groups {s : State} {x} : (s.withCommit x).groups = s.groups := (rfl)
@[simp] theorem State.withCommit_faults {s : State} {x} : (s.withCommit x).faults = s.faults := (rfl)
@[simp] theorem State.withCommit_porter {s : State} {x} : (s.withCommit x).porter = s.porter := (rfl)
@[simp] theorem State.withCommit_sqHeld {s : State} {x} : (s.withCommit x).sqHeld = s.sqHeld := (rfl)
@[simp] theorem State.withCommit_trace {s : State} {x} : (s.withCommit x).trace = s.trace := (rfl)
@[simp] theorem State.withCommit_chks {s : State} {x} : (s.withCommit x).chks = s.chks := (rfl)
@[simp] theorem State.withCommit_tap {s : State} {x} : (s.withCommit x).tap = s.tap := (rfl)
@[simp] theorem State.withCommit_servo {s : State} {x} : (s.withCommit x).servo = s.servo := (rfl)
@[simp] theorem State.withCommit_reg {s : State} {x} {b} : (s.withCommit x).reg b = s.reg b := (rfl)
@[simp] theorem State.withCommit_fld {s : State} {x} {b c d} : (s.withCommit x).fld b c d = s.fld b c d := (rfl)
@[simp] theorem State.withCommit_b4 {s : State} {x} {b} : (s.withCommit x).b4 b = s.b4 b := (rfl)
@[simp] theorem State.withCommit_tile {s : State} {x} {b} : (s.withCommit x).tile b = s.tile b := (rfl)

/-! `withBlocks` -/

@[simp] theorem State.withBlocks_pending {s : State} {x} : (s.withBlocks x).pending = s.pending := (rfl)
@[simp] theorem State.withBlocks_out {s : State} {x} : (s.withBlocks x).out = s.out := (rfl)
@[simp] theorem State.withBlocks_clk {s : State} {x} : (s.withBlocks x).clk = s.clk := (rfl)
@[simp] theorem State.withBlocks_pins {s : State} {x} : (s.withBlocks x).pins = s.pins := (rfl)
@[simp] theorem State.withBlocks_regs {s : State} {x} : (s.withBlocks x).regs = s.regs := (rfl)
@[simp] theorem State.withBlocks_bar4 {s : State} {x} : (s.withBlocks x).bar4 = s.bar4 := (rfl)
@[simp] theorem State.withBlocks_unmasked {s : State} {x} : (s.withBlocks x).unmasked = s.unmasked := (rfl)
@[simp] theorem State.withBlocks_msixPending {s : State} {x} : (s.withBlocks x).msixPending = s.msixPending := (rfl)
@[simp] theorem State.withBlocks_tiles {s : State} {x} : (s.withBlocks x).tiles = s.tiles := (rfl)
@[simp] theorem State.withBlocks_dies {s : State} {x} : (s.withBlocks x).dies = s.dies := (rfl)
@[simp] theorem State.withBlocks_commit {s : State} {x} : (s.withBlocks x).commit = s.commit := (rfl)
@[simp] theorem State.withBlocks_blocks {s : State} {x} : (s.withBlocks x).blocks = x := (rfl)
@[simp] theorem State.withBlocks_mesh {s : State} {x} : (s.withBlocks x).mesh = s.mesh := (rfl)
@[simp] theorem State.withBlocks_ctrls {s : State} {x} : (s.withBlocks x).ctrls = s.ctrls := (rfl)
@[simp] theorem State.withBlocks_pdies {s : State} {x} : (s.withBlocks x).pdies = s.pdies := (rfl)
@[simp] theorem State.withBlocks_ports {s : State} {x} : (s.withBlocks x).ports = s.ports := (rfl)
@[simp] theorem State.withBlocks_voq {s : State} {x} : (s.withBlocks x).voq = s.voq := (rfl)
@[simp] theorem State.withBlocks_localQ {s : State} {x} : (s.withBlocks x).localQ = s.localQ := (rfl)
@[simp] theorem State.withBlocks_injQ {s : State} {x} : (s.withBlocks x).injQ = s.injQ := (rfl)
@[simp] theorem State.withBlocks_groups {s : State} {x} : (s.withBlocks x).groups = s.groups := (rfl)
@[simp] theorem State.withBlocks_faults {s : State} {x} : (s.withBlocks x).faults = s.faults := (rfl)
@[simp] theorem State.withBlocks_porter {s : State} {x} : (s.withBlocks x).porter = s.porter := (rfl)
@[simp] theorem State.withBlocks_sqHeld {s : State} {x} : (s.withBlocks x).sqHeld = s.sqHeld := (rfl)
@[simp] theorem State.withBlocks_trace {s : State} {x} : (s.withBlocks x).trace = s.trace := (rfl)
@[simp] theorem State.withBlocks_chks {s : State} {x} : (s.withBlocks x).chks = s.chks := (rfl)
@[simp] theorem State.withBlocks_tap {s : State} {x} : (s.withBlocks x).tap = s.tap := (rfl)
@[simp] theorem State.withBlocks_servo {s : State} {x} : (s.withBlocks x).servo = s.servo := (rfl)
@[simp] theorem State.withBlocks_reg {s : State} {x} {b} : (s.withBlocks x).reg b = s.reg b := (rfl)
@[simp] theorem State.withBlocks_fld {s : State} {x} {b c d} : (s.withBlocks x).fld b c d = s.fld b c d := (rfl)
@[simp] theorem State.withBlocks_b4 {s : State} {x} {b} : (s.withBlocks x).b4 b = s.b4 b := (rfl)
@[simp] theorem State.withBlocks_tile {s : State} {x} {b} : (s.withBlocks x).tile b = s.tile b := (rfl)

/-! `withMesh` -/

@[simp] theorem State.withMesh_pending {s : State} {x} : (s.withMesh x).pending = s.pending := (rfl)
@[simp] theorem State.withMesh_out {s : State} {x} : (s.withMesh x).out = s.out := (rfl)
@[simp] theorem State.withMesh_clk {s : State} {x} : (s.withMesh x).clk = s.clk := (rfl)
@[simp] theorem State.withMesh_pins {s : State} {x} : (s.withMesh x).pins = s.pins := (rfl)
@[simp] theorem State.withMesh_regs {s : State} {x} : (s.withMesh x).regs = s.regs := (rfl)
@[simp] theorem State.withMesh_bar4 {s : State} {x} : (s.withMesh x).bar4 = s.bar4 := (rfl)
@[simp] theorem State.withMesh_unmasked {s : State} {x} : (s.withMesh x).unmasked = s.unmasked := (rfl)
@[simp] theorem State.withMesh_msixPending {s : State} {x} : (s.withMesh x).msixPending = s.msixPending := (rfl)
@[simp] theorem State.withMesh_tiles {s : State} {x} : (s.withMesh x).tiles = s.tiles := (rfl)
@[simp] theorem State.withMesh_dies {s : State} {x} : (s.withMesh x).dies = s.dies := (rfl)
@[simp] theorem State.withMesh_commit {s : State} {x} : (s.withMesh x).commit = s.commit := (rfl)
@[simp] theorem State.withMesh_blocks {s : State} {x} : (s.withMesh x).blocks = s.blocks := (rfl)
@[simp] theorem State.withMesh_mesh {s : State} {x} : (s.withMesh x).mesh = x := (rfl)
@[simp] theorem State.withMesh_ctrls {s : State} {x} : (s.withMesh x).ctrls = s.ctrls := (rfl)
@[simp] theorem State.withMesh_pdies {s : State} {x} : (s.withMesh x).pdies = s.pdies := (rfl)
@[simp] theorem State.withMesh_ports {s : State} {x} : (s.withMesh x).ports = s.ports := (rfl)
@[simp] theorem State.withMesh_voq {s : State} {x} : (s.withMesh x).voq = s.voq := (rfl)
@[simp] theorem State.withMesh_localQ {s : State} {x} : (s.withMesh x).localQ = s.localQ := (rfl)
@[simp] theorem State.withMesh_injQ {s : State} {x} : (s.withMesh x).injQ = s.injQ := (rfl)
@[simp] theorem State.withMesh_groups {s : State} {x} : (s.withMesh x).groups = s.groups := (rfl)
@[simp] theorem State.withMesh_faults {s : State} {x} : (s.withMesh x).faults = s.faults := (rfl)
@[simp] theorem State.withMesh_porter {s : State} {x} : (s.withMesh x).porter = s.porter := (rfl)
@[simp] theorem State.withMesh_sqHeld {s : State} {x} : (s.withMesh x).sqHeld = s.sqHeld := (rfl)
@[simp] theorem State.withMesh_trace {s : State} {x} : (s.withMesh x).trace = s.trace := (rfl)
@[simp] theorem State.withMesh_chks {s : State} {x} : (s.withMesh x).chks = s.chks := (rfl)
@[simp] theorem State.withMesh_tap {s : State} {x} : (s.withMesh x).tap = s.tap := (rfl)
@[simp] theorem State.withMesh_servo {s : State} {x} : (s.withMesh x).servo = s.servo := (rfl)
@[simp] theorem State.withMesh_reg {s : State} {x} {b} : (s.withMesh x).reg b = s.reg b := (rfl)
@[simp] theorem State.withMesh_fld {s : State} {x} {b c d} : (s.withMesh x).fld b c d = s.fld b c d := (rfl)
@[simp] theorem State.withMesh_b4 {s : State} {x} {b} : (s.withMesh x).b4 b = s.b4 b := (rfl)
@[simp] theorem State.withMesh_tile {s : State} {x} {b} : (s.withMesh x).tile b = s.tile b := (rfl)

/-! `withCtrls` -/

@[simp] theorem State.withCtrls_pending {s : State} {x} : (s.withCtrls x).pending = s.pending := (rfl)
@[simp] theorem State.withCtrls_out {s : State} {x} : (s.withCtrls x).out = s.out := (rfl)
@[simp] theorem State.withCtrls_clk {s : State} {x} : (s.withCtrls x).clk = s.clk := (rfl)
@[simp] theorem State.withCtrls_pins {s : State} {x} : (s.withCtrls x).pins = s.pins := (rfl)
@[simp] theorem State.withCtrls_regs {s : State} {x} : (s.withCtrls x).regs = s.regs := (rfl)
@[simp] theorem State.withCtrls_bar4 {s : State} {x} : (s.withCtrls x).bar4 = s.bar4 := (rfl)
@[simp] theorem State.withCtrls_unmasked {s : State} {x} : (s.withCtrls x).unmasked = s.unmasked := (rfl)
@[simp] theorem State.withCtrls_msixPending {s : State} {x} : (s.withCtrls x).msixPending = s.msixPending := (rfl)
@[simp] theorem State.withCtrls_tiles {s : State} {x} : (s.withCtrls x).tiles = s.tiles := (rfl)
@[simp] theorem State.withCtrls_dies {s : State} {x} : (s.withCtrls x).dies = s.dies := (rfl)
@[simp] theorem State.withCtrls_commit {s : State} {x} : (s.withCtrls x).commit = s.commit := (rfl)
@[simp] theorem State.withCtrls_blocks {s : State} {x} : (s.withCtrls x).blocks = s.blocks := (rfl)
@[simp] theorem State.withCtrls_mesh {s : State} {x} : (s.withCtrls x).mesh = s.mesh := (rfl)
@[simp] theorem State.withCtrls_ctrls {s : State} {x} : (s.withCtrls x).ctrls = x := (rfl)
@[simp] theorem State.withCtrls_pdies {s : State} {x} : (s.withCtrls x).pdies = s.pdies := (rfl)
@[simp] theorem State.withCtrls_ports {s : State} {x} : (s.withCtrls x).ports = s.ports := (rfl)
@[simp] theorem State.withCtrls_voq {s : State} {x} : (s.withCtrls x).voq = s.voq := (rfl)
@[simp] theorem State.withCtrls_localQ {s : State} {x} : (s.withCtrls x).localQ = s.localQ := (rfl)
@[simp] theorem State.withCtrls_injQ {s : State} {x} : (s.withCtrls x).injQ = s.injQ := (rfl)
@[simp] theorem State.withCtrls_groups {s : State} {x} : (s.withCtrls x).groups = s.groups := (rfl)
@[simp] theorem State.withCtrls_faults {s : State} {x} : (s.withCtrls x).faults = s.faults := (rfl)
@[simp] theorem State.withCtrls_porter {s : State} {x} : (s.withCtrls x).porter = s.porter := (rfl)
@[simp] theorem State.withCtrls_sqHeld {s : State} {x} : (s.withCtrls x).sqHeld = s.sqHeld := (rfl)
@[simp] theorem State.withCtrls_trace {s : State} {x} : (s.withCtrls x).trace = s.trace := (rfl)
@[simp] theorem State.withCtrls_chks {s : State} {x} : (s.withCtrls x).chks = s.chks := (rfl)
@[simp] theorem State.withCtrls_tap {s : State} {x} : (s.withCtrls x).tap = s.tap := (rfl)
@[simp] theorem State.withCtrls_servo {s : State} {x} : (s.withCtrls x).servo = s.servo := (rfl)
@[simp] theorem State.withCtrls_reg {s : State} {x} {b} : (s.withCtrls x).reg b = s.reg b := (rfl)
@[simp] theorem State.withCtrls_fld {s : State} {x} {b c d} : (s.withCtrls x).fld b c d = s.fld b c d := (rfl)
@[simp] theorem State.withCtrls_b4 {s : State} {x} {b} : (s.withCtrls x).b4 b = s.b4 b := (rfl)
@[simp] theorem State.withCtrls_tile {s : State} {x} {b} : (s.withCtrls x).tile b = s.tile b := (rfl)

/-! `withPdies` -/

@[simp] theorem State.withPdies_pending {s : State} {x} : (s.withPdies x).pending = s.pending := (rfl)
@[simp] theorem State.withPdies_out {s : State} {x} : (s.withPdies x).out = s.out := (rfl)
@[simp] theorem State.withPdies_clk {s : State} {x} : (s.withPdies x).clk = s.clk := (rfl)
@[simp] theorem State.withPdies_pins {s : State} {x} : (s.withPdies x).pins = s.pins := (rfl)
@[simp] theorem State.withPdies_regs {s : State} {x} : (s.withPdies x).regs = s.regs := (rfl)
@[simp] theorem State.withPdies_bar4 {s : State} {x} : (s.withPdies x).bar4 = s.bar4 := (rfl)
@[simp] theorem State.withPdies_unmasked {s : State} {x} : (s.withPdies x).unmasked = s.unmasked := (rfl)
@[simp] theorem State.withPdies_msixPending {s : State} {x} : (s.withPdies x).msixPending = s.msixPending := (rfl)
@[simp] theorem State.withPdies_tiles {s : State} {x} : (s.withPdies x).tiles = s.tiles := (rfl)
@[simp] theorem State.withPdies_dies {s : State} {x} : (s.withPdies x).dies = s.dies := (rfl)
@[simp] theorem State.withPdies_commit {s : State} {x} : (s.withPdies x).commit = s.commit := (rfl)
@[simp] theorem State.withPdies_blocks {s : State} {x} : (s.withPdies x).blocks = s.blocks := (rfl)
@[simp] theorem State.withPdies_mesh {s : State} {x} : (s.withPdies x).mesh = s.mesh := (rfl)
@[simp] theorem State.withPdies_ctrls {s : State} {x} : (s.withPdies x).ctrls = s.ctrls := (rfl)
@[simp] theorem State.withPdies_pdies {s : State} {x} : (s.withPdies x).pdies = x := (rfl)
@[simp] theorem State.withPdies_ports {s : State} {x} : (s.withPdies x).ports = s.ports := (rfl)
@[simp] theorem State.withPdies_voq {s : State} {x} : (s.withPdies x).voq = s.voq := (rfl)
@[simp] theorem State.withPdies_localQ {s : State} {x} : (s.withPdies x).localQ = s.localQ := (rfl)
@[simp] theorem State.withPdies_injQ {s : State} {x} : (s.withPdies x).injQ = s.injQ := (rfl)
@[simp] theorem State.withPdies_groups {s : State} {x} : (s.withPdies x).groups = s.groups := (rfl)
@[simp] theorem State.withPdies_faults {s : State} {x} : (s.withPdies x).faults = s.faults := (rfl)
@[simp] theorem State.withPdies_porter {s : State} {x} : (s.withPdies x).porter = s.porter := (rfl)
@[simp] theorem State.withPdies_sqHeld {s : State} {x} : (s.withPdies x).sqHeld = s.sqHeld := (rfl)
@[simp] theorem State.withPdies_trace {s : State} {x} : (s.withPdies x).trace = s.trace := (rfl)
@[simp] theorem State.withPdies_chks {s : State} {x} : (s.withPdies x).chks = s.chks := (rfl)
@[simp] theorem State.withPdies_tap {s : State} {x} : (s.withPdies x).tap = s.tap := (rfl)
@[simp] theorem State.withPdies_servo {s : State} {x} : (s.withPdies x).servo = s.servo := (rfl)
@[simp] theorem State.withPdies_reg {s : State} {x} {b} : (s.withPdies x).reg b = s.reg b := (rfl)
@[simp] theorem State.withPdies_fld {s : State} {x} {b c d} : (s.withPdies x).fld b c d = s.fld b c d := (rfl)
@[simp] theorem State.withPdies_b4 {s : State} {x} {b} : (s.withPdies x).b4 b = s.b4 b := (rfl)
@[simp] theorem State.withPdies_tile {s : State} {x} {b} : (s.withPdies x).tile b = s.tile b := (rfl)

/-! `withPorts` -/

@[simp] theorem State.withPorts_pending {s : State} {x} : (s.withPorts x).pending = s.pending := (rfl)
@[simp] theorem State.withPorts_out {s : State} {x} : (s.withPorts x).out = s.out := (rfl)
@[simp] theorem State.withPorts_clk {s : State} {x} : (s.withPorts x).clk = s.clk := (rfl)
@[simp] theorem State.withPorts_pins {s : State} {x} : (s.withPorts x).pins = s.pins := (rfl)
@[simp] theorem State.withPorts_regs {s : State} {x} : (s.withPorts x).regs = s.regs := (rfl)
@[simp] theorem State.withPorts_bar4 {s : State} {x} : (s.withPorts x).bar4 = s.bar4 := (rfl)
@[simp] theorem State.withPorts_unmasked {s : State} {x} : (s.withPorts x).unmasked = s.unmasked := (rfl)
@[simp] theorem State.withPorts_msixPending {s : State} {x} : (s.withPorts x).msixPending = s.msixPending := (rfl)
@[simp] theorem State.withPorts_tiles {s : State} {x} : (s.withPorts x).tiles = s.tiles := (rfl)
@[simp] theorem State.withPorts_dies {s : State} {x} : (s.withPorts x).dies = s.dies := (rfl)
@[simp] theorem State.withPorts_commit {s : State} {x} : (s.withPorts x).commit = s.commit := (rfl)
@[simp] theorem State.withPorts_blocks {s : State} {x} : (s.withPorts x).blocks = s.blocks := (rfl)
@[simp] theorem State.withPorts_mesh {s : State} {x} : (s.withPorts x).mesh = s.mesh := (rfl)
@[simp] theorem State.withPorts_ctrls {s : State} {x} : (s.withPorts x).ctrls = s.ctrls := (rfl)
@[simp] theorem State.withPorts_pdies {s : State} {x} : (s.withPorts x).pdies = s.pdies := (rfl)
@[simp] theorem State.withPorts_ports {s : State} {x} : (s.withPorts x).ports = x := (rfl)
@[simp] theorem State.withPorts_voq {s : State} {x} : (s.withPorts x).voq = s.voq := (rfl)
@[simp] theorem State.withPorts_localQ {s : State} {x} : (s.withPorts x).localQ = s.localQ := (rfl)
@[simp] theorem State.withPorts_injQ {s : State} {x} : (s.withPorts x).injQ = s.injQ := (rfl)
@[simp] theorem State.withPorts_groups {s : State} {x} : (s.withPorts x).groups = s.groups := (rfl)
@[simp] theorem State.withPorts_faults {s : State} {x} : (s.withPorts x).faults = s.faults := (rfl)
@[simp] theorem State.withPorts_porter {s : State} {x} : (s.withPorts x).porter = s.porter := (rfl)
@[simp] theorem State.withPorts_sqHeld {s : State} {x} : (s.withPorts x).sqHeld = s.sqHeld := (rfl)
@[simp] theorem State.withPorts_trace {s : State} {x} : (s.withPorts x).trace = s.trace := (rfl)
@[simp] theorem State.withPorts_chks {s : State} {x} : (s.withPorts x).chks = s.chks := (rfl)
@[simp] theorem State.withPorts_tap {s : State} {x} : (s.withPorts x).tap = s.tap := (rfl)
@[simp] theorem State.withPorts_servo {s : State} {x} : (s.withPorts x).servo = s.servo := (rfl)
@[simp] theorem State.withPorts_reg {s : State} {x} {b} : (s.withPorts x).reg b = s.reg b := (rfl)
@[simp] theorem State.withPorts_fld {s : State} {x} {b c d} : (s.withPorts x).fld b c d = s.fld b c d := (rfl)
@[simp] theorem State.withPorts_b4 {s : State} {x} {b} : (s.withPorts x).b4 b = s.b4 b := (rfl)
@[simp] theorem State.withPorts_tile {s : State} {x} {b} : (s.withPorts x).tile b = s.tile b := (rfl)

/-! `withVoq` -/

@[simp] theorem State.withVoq_pending {s : State} {x} : (s.withVoq x).pending = s.pending := (rfl)
@[simp] theorem State.withVoq_out {s : State} {x} : (s.withVoq x).out = s.out := (rfl)
@[simp] theorem State.withVoq_clk {s : State} {x} : (s.withVoq x).clk = s.clk := (rfl)
@[simp] theorem State.withVoq_pins {s : State} {x} : (s.withVoq x).pins = s.pins := (rfl)
@[simp] theorem State.withVoq_regs {s : State} {x} : (s.withVoq x).regs = s.regs := (rfl)
@[simp] theorem State.withVoq_bar4 {s : State} {x} : (s.withVoq x).bar4 = s.bar4 := (rfl)
@[simp] theorem State.withVoq_unmasked {s : State} {x} : (s.withVoq x).unmasked = s.unmasked := (rfl)
@[simp] theorem State.withVoq_msixPending {s : State} {x} : (s.withVoq x).msixPending = s.msixPending := (rfl)
@[simp] theorem State.withVoq_tiles {s : State} {x} : (s.withVoq x).tiles = s.tiles := (rfl)
@[simp] theorem State.withVoq_dies {s : State} {x} : (s.withVoq x).dies = s.dies := (rfl)
@[simp] theorem State.withVoq_commit {s : State} {x} : (s.withVoq x).commit = s.commit := (rfl)
@[simp] theorem State.withVoq_blocks {s : State} {x} : (s.withVoq x).blocks = s.blocks := (rfl)
@[simp] theorem State.withVoq_mesh {s : State} {x} : (s.withVoq x).mesh = s.mesh := (rfl)
@[simp] theorem State.withVoq_ctrls {s : State} {x} : (s.withVoq x).ctrls = s.ctrls := (rfl)
@[simp] theorem State.withVoq_pdies {s : State} {x} : (s.withVoq x).pdies = s.pdies := (rfl)
@[simp] theorem State.withVoq_ports {s : State} {x} : (s.withVoq x).ports = s.ports := (rfl)
@[simp] theorem State.withVoq_voq {s : State} {x} : (s.withVoq x).voq = x := (rfl)
@[simp] theorem State.withVoq_localQ {s : State} {x} : (s.withVoq x).localQ = s.localQ := (rfl)
@[simp] theorem State.withVoq_injQ {s : State} {x} : (s.withVoq x).injQ = s.injQ := (rfl)
@[simp] theorem State.withVoq_groups {s : State} {x} : (s.withVoq x).groups = s.groups := (rfl)
@[simp] theorem State.withVoq_faults {s : State} {x} : (s.withVoq x).faults = s.faults := (rfl)
@[simp] theorem State.withVoq_porter {s : State} {x} : (s.withVoq x).porter = s.porter := (rfl)
@[simp] theorem State.withVoq_sqHeld {s : State} {x} : (s.withVoq x).sqHeld = s.sqHeld := (rfl)
@[simp] theorem State.withVoq_trace {s : State} {x} : (s.withVoq x).trace = s.trace := (rfl)
@[simp] theorem State.withVoq_chks {s : State} {x} : (s.withVoq x).chks = s.chks := (rfl)
@[simp] theorem State.withVoq_tap {s : State} {x} : (s.withVoq x).tap = s.tap := (rfl)
@[simp] theorem State.withVoq_servo {s : State} {x} : (s.withVoq x).servo = s.servo := (rfl)
@[simp] theorem State.withVoq_reg {s : State} {x} {b} : (s.withVoq x).reg b = s.reg b := (rfl)
@[simp] theorem State.withVoq_fld {s : State} {x} {b c d} : (s.withVoq x).fld b c d = s.fld b c d := (rfl)
@[simp] theorem State.withVoq_b4 {s : State} {x} {b} : (s.withVoq x).b4 b = s.b4 b := (rfl)
@[simp] theorem State.withVoq_tile {s : State} {x} {b} : (s.withVoq x).tile b = s.tile b := (rfl)

/-! `withLocalQ` -/

@[simp] theorem State.withLocalQ_pending {s : State} {x} : (s.withLocalQ x).pending = s.pending := (rfl)
@[simp] theorem State.withLocalQ_out {s : State} {x} : (s.withLocalQ x).out = s.out := (rfl)
@[simp] theorem State.withLocalQ_clk {s : State} {x} : (s.withLocalQ x).clk = s.clk := (rfl)
@[simp] theorem State.withLocalQ_pins {s : State} {x} : (s.withLocalQ x).pins = s.pins := (rfl)
@[simp] theorem State.withLocalQ_regs {s : State} {x} : (s.withLocalQ x).regs = s.regs := (rfl)
@[simp] theorem State.withLocalQ_bar4 {s : State} {x} : (s.withLocalQ x).bar4 = s.bar4 := (rfl)
@[simp] theorem State.withLocalQ_unmasked {s : State} {x} : (s.withLocalQ x).unmasked = s.unmasked := (rfl)
@[simp] theorem State.withLocalQ_msixPending {s : State} {x} : (s.withLocalQ x).msixPending = s.msixPending := (rfl)
@[simp] theorem State.withLocalQ_tiles {s : State} {x} : (s.withLocalQ x).tiles = s.tiles := (rfl)
@[simp] theorem State.withLocalQ_dies {s : State} {x} : (s.withLocalQ x).dies = s.dies := (rfl)
@[simp] theorem State.withLocalQ_commit {s : State} {x} : (s.withLocalQ x).commit = s.commit := (rfl)
@[simp] theorem State.withLocalQ_blocks {s : State} {x} : (s.withLocalQ x).blocks = s.blocks := (rfl)
@[simp] theorem State.withLocalQ_mesh {s : State} {x} : (s.withLocalQ x).mesh = s.mesh := (rfl)
@[simp] theorem State.withLocalQ_ctrls {s : State} {x} : (s.withLocalQ x).ctrls = s.ctrls := (rfl)
@[simp] theorem State.withLocalQ_pdies {s : State} {x} : (s.withLocalQ x).pdies = s.pdies := (rfl)
@[simp] theorem State.withLocalQ_ports {s : State} {x} : (s.withLocalQ x).ports = s.ports := (rfl)
@[simp] theorem State.withLocalQ_voq {s : State} {x} : (s.withLocalQ x).voq = s.voq := (rfl)
@[simp] theorem State.withLocalQ_localQ {s : State} {x} : (s.withLocalQ x).localQ = x := (rfl)
@[simp] theorem State.withLocalQ_injQ {s : State} {x} : (s.withLocalQ x).injQ = s.injQ := (rfl)
@[simp] theorem State.withLocalQ_groups {s : State} {x} : (s.withLocalQ x).groups = s.groups := (rfl)
@[simp] theorem State.withLocalQ_faults {s : State} {x} : (s.withLocalQ x).faults = s.faults := (rfl)
@[simp] theorem State.withLocalQ_porter {s : State} {x} : (s.withLocalQ x).porter = s.porter := (rfl)
@[simp] theorem State.withLocalQ_sqHeld {s : State} {x} : (s.withLocalQ x).sqHeld = s.sqHeld := (rfl)
@[simp] theorem State.withLocalQ_trace {s : State} {x} : (s.withLocalQ x).trace = s.trace := (rfl)
@[simp] theorem State.withLocalQ_chks {s : State} {x} : (s.withLocalQ x).chks = s.chks := (rfl)
@[simp] theorem State.withLocalQ_tap {s : State} {x} : (s.withLocalQ x).tap = s.tap := (rfl)
@[simp] theorem State.withLocalQ_servo {s : State} {x} : (s.withLocalQ x).servo = s.servo := (rfl)
@[simp] theorem State.withLocalQ_reg {s : State} {x} {b} : (s.withLocalQ x).reg b = s.reg b := (rfl)
@[simp] theorem State.withLocalQ_fld {s : State} {x} {b c d} : (s.withLocalQ x).fld b c d = s.fld b c d := (rfl)
@[simp] theorem State.withLocalQ_b4 {s : State} {x} {b} : (s.withLocalQ x).b4 b = s.b4 b := (rfl)
@[simp] theorem State.withLocalQ_tile {s : State} {x} {b} : (s.withLocalQ x).tile b = s.tile b := (rfl)

/-! `withInjQ` -/

@[simp] theorem State.withInjQ_pending {s : State} {x} : (s.withInjQ x).pending = s.pending := (rfl)
@[simp] theorem State.withInjQ_out {s : State} {x} : (s.withInjQ x).out = s.out := (rfl)
@[simp] theorem State.withInjQ_clk {s : State} {x} : (s.withInjQ x).clk = s.clk := (rfl)
@[simp] theorem State.withInjQ_pins {s : State} {x} : (s.withInjQ x).pins = s.pins := (rfl)
@[simp] theorem State.withInjQ_regs {s : State} {x} : (s.withInjQ x).regs = s.regs := (rfl)
@[simp] theorem State.withInjQ_bar4 {s : State} {x} : (s.withInjQ x).bar4 = s.bar4 := (rfl)
@[simp] theorem State.withInjQ_unmasked {s : State} {x} : (s.withInjQ x).unmasked = s.unmasked := (rfl)
@[simp] theorem State.withInjQ_msixPending {s : State} {x} : (s.withInjQ x).msixPending = s.msixPending := (rfl)
@[simp] theorem State.withInjQ_tiles {s : State} {x} : (s.withInjQ x).tiles = s.tiles := (rfl)
@[simp] theorem State.withInjQ_dies {s : State} {x} : (s.withInjQ x).dies = s.dies := (rfl)
@[simp] theorem State.withInjQ_commit {s : State} {x} : (s.withInjQ x).commit = s.commit := (rfl)
@[simp] theorem State.withInjQ_blocks {s : State} {x} : (s.withInjQ x).blocks = s.blocks := (rfl)
@[simp] theorem State.withInjQ_mesh {s : State} {x} : (s.withInjQ x).mesh = s.mesh := (rfl)
@[simp] theorem State.withInjQ_ctrls {s : State} {x} : (s.withInjQ x).ctrls = s.ctrls := (rfl)
@[simp] theorem State.withInjQ_pdies {s : State} {x} : (s.withInjQ x).pdies = s.pdies := (rfl)
@[simp] theorem State.withInjQ_ports {s : State} {x} : (s.withInjQ x).ports = s.ports := (rfl)
@[simp] theorem State.withInjQ_voq {s : State} {x} : (s.withInjQ x).voq = s.voq := (rfl)
@[simp] theorem State.withInjQ_localQ {s : State} {x} : (s.withInjQ x).localQ = s.localQ := (rfl)
@[simp] theorem State.withInjQ_injQ {s : State} {x} : (s.withInjQ x).injQ = x := (rfl)
@[simp] theorem State.withInjQ_groups {s : State} {x} : (s.withInjQ x).groups = s.groups := (rfl)
@[simp] theorem State.withInjQ_faults {s : State} {x} : (s.withInjQ x).faults = s.faults := (rfl)
@[simp] theorem State.withInjQ_porter {s : State} {x} : (s.withInjQ x).porter = s.porter := (rfl)
@[simp] theorem State.withInjQ_sqHeld {s : State} {x} : (s.withInjQ x).sqHeld = s.sqHeld := (rfl)
@[simp] theorem State.withInjQ_trace {s : State} {x} : (s.withInjQ x).trace = s.trace := (rfl)
@[simp] theorem State.withInjQ_chks {s : State} {x} : (s.withInjQ x).chks = s.chks := (rfl)
@[simp] theorem State.withInjQ_tap {s : State} {x} : (s.withInjQ x).tap = s.tap := (rfl)
@[simp] theorem State.withInjQ_servo {s : State} {x} : (s.withInjQ x).servo = s.servo := (rfl)
@[simp] theorem State.withInjQ_reg {s : State} {x} {b} : (s.withInjQ x).reg b = s.reg b := (rfl)
@[simp] theorem State.withInjQ_fld {s : State} {x} {b c d} : (s.withInjQ x).fld b c d = s.fld b c d := (rfl)
@[simp] theorem State.withInjQ_b4 {s : State} {x} {b} : (s.withInjQ x).b4 b = s.b4 b := (rfl)
@[simp] theorem State.withInjQ_tile {s : State} {x} {b} : (s.withInjQ x).tile b = s.tile b := (rfl)

/-! `withGroups` -/

@[simp] theorem State.withGroups_pending {s : State} {x} : (s.withGroups x).pending = s.pending := (rfl)
@[simp] theorem State.withGroups_out {s : State} {x} : (s.withGroups x).out = s.out := (rfl)
@[simp] theorem State.withGroups_clk {s : State} {x} : (s.withGroups x).clk = s.clk := (rfl)
@[simp] theorem State.withGroups_pins {s : State} {x} : (s.withGroups x).pins = s.pins := (rfl)
@[simp] theorem State.withGroups_regs {s : State} {x} : (s.withGroups x).regs = s.regs := (rfl)
@[simp] theorem State.withGroups_bar4 {s : State} {x} : (s.withGroups x).bar4 = s.bar4 := (rfl)
@[simp] theorem State.withGroups_unmasked {s : State} {x} : (s.withGroups x).unmasked = s.unmasked := (rfl)
@[simp] theorem State.withGroups_msixPending {s : State} {x} : (s.withGroups x).msixPending = s.msixPending := (rfl)
@[simp] theorem State.withGroups_tiles {s : State} {x} : (s.withGroups x).tiles = s.tiles := (rfl)
@[simp] theorem State.withGroups_dies {s : State} {x} : (s.withGroups x).dies = s.dies := (rfl)
@[simp] theorem State.withGroups_commit {s : State} {x} : (s.withGroups x).commit = s.commit := (rfl)
@[simp] theorem State.withGroups_blocks {s : State} {x} : (s.withGroups x).blocks = s.blocks := (rfl)
@[simp] theorem State.withGroups_mesh {s : State} {x} : (s.withGroups x).mesh = s.mesh := (rfl)
@[simp] theorem State.withGroups_ctrls {s : State} {x} : (s.withGroups x).ctrls = s.ctrls := (rfl)
@[simp] theorem State.withGroups_pdies {s : State} {x} : (s.withGroups x).pdies = s.pdies := (rfl)
@[simp] theorem State.withGroups_ports {s : State} {x} : (s.withGroups x).ports = s.ports := (rfl)
@[simp] theorem State.withGroups_voq {s : State} {x} : (s.withGroups x).voq = s.voq := (rfl)
@[simp] theorem State.withGroups_localQ {s : State} {x} : (s.withGroups x).localQ = s.localQ := (rfl)
@[simp] theorem State.withGroups_injQ {s : State} {x} : (s.withGroups x).injQ = s.injQ := (rfl)
@[simp] theorem State.withGroups_groups {s : State} {x} : (s.withGroups x).groups = x := (rfl)
@[simp] theorem State.withGroups_faults {s : State} {x} : (s.withGroups x).faults = s.faults := (rfl)
@[simp] theorem State.withGroups_porter {s : State} {x} : (s.withGroups x).porter = s.porter := (rfl)
@[simp] theorem State.withGroups_sqHeld {s : State} {x} : (s.withGroups x).sqHeld = s.sqHeld := (rfl)
@[simp] theorem State.withGroups_trace {s : State} {x} : (s.withGroups x).trace = s.trace := (rfl)
@[simp] theorem State.withGroups_chks {s : State} {x} : (s.withGroups x).chks = s.chks := (rfl)
@[simp] theorem State.withGroups_tap {s : State} {x} : (s.withGroups x).tap = s.tap := (rfl)
@[simp] theorem State.withGroups_servo {s : State} {x} : (s.withGroups x).servo = s.servo := (rfl)
@[simp] theorem State.withGroups_reg {s : State} {x} {b} : (s.withGroups x).reg b = s.reg b := (rfl)
@[simp] theorem State.withGroups_fld {s : State} {x} {b c d} : (s.withGroups x).fld b c d = s.fld b c d := (rfl)
@[simp] theorem State.withGroups_b4 {s : State} {x} {b} : (s.withGroups x).b4 b = s.b4 b := (rfl)
@[simp] theorem State.withGroups_tile {s : State} {x} {b} : (s.withGroups x).tile b = s.tile b := (rfl)

/-! `withFaults` -/

@[simp] theorem State.withFaults_pending {s : State} {x} : (s.withFaults x).pending = s.pending := (rfl)
@[simp] theorem State.withFaults_out {s : State} {x} : (s.withFaults x).out = s.out := (rfl)
@[simp] theorem State.withFaults_clk {s : State} {x} : (s.withFaults x).clk = s.clk := (rfl)
@[simp] theorem State.withFaults_pins {s : State} {x} : (s.withFaults x).pins = s.pins := (rfl)
@[simp] theorem State.withFaults_regs {s : State} {x} : (s.withFaults x).regs = s.regs := (rfl)
@[simp] theorem State.withFaults_bar4 {s : State} {x} : (s.withFaults x).bar4 = s.bar4 := (rfl)
@[simp] theorem State.withFaults_unmasked {s : State} {x} : (s.withFaults x).unmasked = s.unmasked := (rfl)
@[simp] theorem State.withFaults_msixPending {s : State} {x} : (s.withFaults x).msixPending = s.msixPending := (rfl)
@[simp] theorem State.withFaults_tiles {s : State} {x} : (s.withFaults x).tiles = s.tiles := (rfl)
@[simp] theorem State.withFaults_dies {s : State} {x} : (s.withFaults x).dies = s.dies := (rfl)
@[simp] theorem State.withFaults_commit {s : State} {x} : (s.withFaults x).commit = s.commit := (rfl)
@[simp] theorem State.withFaults_blocks {s : State} {x} : (s.withFaults x).blocks = s.blocks := (rfl)
@[simp] theorem State.withFaults_mesh {s : State} {x} : (s.withFaults x).mesh = s.mesh := (rfl)
@[simp] theorem State.withFaults_ctrls {s : State} {x} : (s.withFaults x).ctrls = s.ctrls := (rfl)
@[simp] theorem State.withFaults_pdies {s : State} {x} : (s.withFaults x).pdies = s.pdies := (rfl)
@[simp] theorem State.withFaults_ports {s : State} {x} : (s.withFaults x).ports = s.ports := (rfl)
@[simp] theorem State.withFaults_voq {s : State} {x} : (s.withFaults x).voq = s.voq := (rfl)
@[simp] theorem State.withFaults_localQ {s : State} {x} : (s.withFaults x).localQ = s.localQ := (rfl)
@[simp] theorem State.withFaults_injQ {s : State} {x} : (s.withFaults x).injQ = s.injQ := (rfl)
@[simp] theorem State.withFaults_groups {s : State} {x} : (s.withFaults x).groups = s.groups := (rfl)
@[simp] theorem State.withFaults_faults {s : State} {x} : (s.withFaults x).faults = x := (rfl)
@[simp] theorem State.withFaults_porter {s : State} {x} : (s.withFaults x).porter = s.porter := (rfl)
@[simp] theorem State.withFaults_sqHeld {s : State} {x} : (s.withFaults x).sqHeld = s.sqHeld := (rfl)
@[simp] theorem State.withFaults_trace {s : State} {x} : (s.withFaults x).trace = s.trace := (rfl)
@[simp] theorem State.withFaults_chks {s : State} {x} : (s.withFaults x).chks = s.chks := (rfl)
@[simp] theorem State.withFaults_tap {s : State} {x} : (s.withFaults x).tap = s.tap := (rfl)
@[simp] theorem State.withFaults_servo {s : State} {x} : (s.withFaults x).servo = s.servo := (rfl)
@[simp] theorem State.withFaults_reg {s : State} {x} {b} : (s.withFaults x).reg b = s.reg b := (rfl)
@[simp] theorem State.withFaults_fld {s : State} {x} {b c d} : (s.withFaults x).fld b c d = s.fld b c d := (rfl)
@[simp] theorem State.withFaults_b4 {s : State} {x} {b} : (s.withFaults x).b4 b = s.b4 b := (rfl)
@[simp] theorem State.withFaults_tile {s : State} {x} {b} : (s.withFaults x).tile b = s.tile b := (rfl)

/-! `withPorter` -/

@[simp] theorem State.withPorter_pending {s : State} {x} : (s.withPorter x).pending = s.pending := (rfl)
@[simp] theorem State.withPorter_out {s : State} {x} : (s.withPorter x).out = s.out := (rfl)
@[simp] theorem State.withPorter_clk {s : State} {x} : (s.withPorter x).clk = s.clk := (rfl)
@[simp] theorem State.withPorter_pins {s : State} {x} : (s.withPorter x).pins = s.pins := (rfl)
@[simp] theorem State.withPorter_regs {s : State} {x} : (s.withPorter x).regs = s.regs := (rfl)
@[simp] theorem State.withPorter_bar4 {s : State} {x} : (s.withPorter x).bar4 = s.bar4 := (rfl)
@[simp] theorem State.withPorter_unmasked {s : State} {x} : (s.withPorter x).unmasked = s.unmasked := (rfl)
@[simp] theorem State.withPorter_msixPending {s : State} {x} : (s.withPorter x).msixPending = s.msixPending := (rfl)
@[simp] theorem State.withPorter_tiles {s : State} {x} : (s.withPorter x).tiles = s.tiles := (rfl)
@[simp] theorem State.withPorter_dies {s : State} {x} : (s.withPorter x).dies = s.dies := (rfl)
@[simp] theorem State.withPorter_commit {s : State} {x} : (s.withPorter x).commit = s.commit := (rfl)
@[simp] theorem State.withPorter_blocks {s : State} {x} : (s.withPorter x).blocks = s.blocks := (rfl)
@[simp] theorem State.withPorter_mesh {s : State} {x} : (s.withPorter x).mesh = s.mesh := (rfl)
@[simp] theorem State.withPorter_ctrls {s : State} {x} : (s.withPorter x).ctrls = s.ctrls := (rfl)
@[simp] theorem State.withPorter_pdies {s : State} {x} : (s.withPorter x).pdies = s.pdies := (rfl)
@[simp] theorem State.withPorter_ports {s : State} {x} : (s.withPorter x).ports = s.ports := (rfl)
@[simp] theorem State.withPorter_voq {s : State} {x} : (s.withPorter x).voq = s.voq := (rfl)
@[simp] theorem State.withPorter_localQ {s : State} {x} : (s.withPorter x).localQ = s.localQ := (rfl)
@[simp] theorem State.withPorter_injQ {s : State} {x} : (s.withPorter x).injQ = s.injQ := (rfl)
@[simp] theorem State.withPorter_groups {s : State} {x} : (s.withPorter x).groups = s.groups := (rfl)
@[simp] theorem State.withPorter_faults {s : State} {x} : (s.withPorter x).faults = s.faults := (rfl)
@[simp] theorem State.withPorter_porter {s : State} {x} : (s.withPorter x).porter = x := (rfl)
@[simp] theorem State.withPorter_sqHeld {s : State} {x} : (s.withPorter x).sqHeld = s.sqHeld := (rfl)
@[simp] theorem State.withPorter_trace {s : State} {x} : (s.withPorter x).trace = s.trace := (rfl)
@[simp] theorem State.withPorter_chks {s : State} {x} : (s.withPorter x).chks = s.chks := (rfl)
@[simp] theorem State.withPorter_tap {s : State} {x} : (s.withPorter x).tap = s.tap := (rfl)
@[simp] theorem State.withPorter_servo {s : State} {x} : (s.withPorter x).servo = s.servo := (rfl)
@[simp] theorem State.withPorter_reg {s : State} {x} {b} : (s.withPorter x).reg b = s.reg b := (rfl)
@[simp] theorem State.withPorter_fld {s : State} {x} {b c d} : (s.withPorter x).fld b c d = s.fld b c d := (rfl)
@[simp] theorem State.withPorter_b4 {s : State} {x} {b} : (s.withPorter x).b4 b = s.b4 b := (rfl)
@[simp] theorem State.withPorter_tile {s : State} {x} {b} : (s.withPorter x).tile b = s.tile b := (rfl)

/-! `withSqHeld` -/

@[simp] theorem State.withSqHeld_pending {s : State} {x} : (s.withSqHeld x).pending = s.pending := (rfl)
@[simp] theorem State.withSqHeld_out {s : State} {x} : (s.withSqHeld x).out = s.out := (rfl)
@[simp] theorem State.withSqHeld_clk {s : State} {x} : (s.withSqHeld x).clk = s.clk := (rfl)
@[simp] theorem State.withSqHeld_pins {s : State} {x} : (s.withSqHeld x).pins = s.pins := (rfl)
@[simp] theorem State.withSqHeld_regs {s : State} {x} : (s.withSqHeld x).regs = s.regs := (rfl)
@[simp] theorem State.withSqHeld_bar4 {s : State} {x} : (s.withSqHeld x).bar4 = s.bar4 := (rfl)
@[simp] theorem State.withSqHeld_unmasked {s : State} {x} : (s.withSqHeld x).unmasked = s.unmasked := (rfl)
@[simp] theorem State.withSqHeld_msixPending {s : State} {x} : (s.withSqHeld x).msixPending = s.msixPending := (rfl)
@[simp] theorem State.withSqHeld_tiles {s : State} {x} : (s.withSqHeld x).tiles = s.tiles := (rfl)
@[simp] theorem State.withSqHeld_dies {s : State} {x} : (s.withSqHeld x).dies = s.dies := (rfl)
@[simp] theorem State.withSqHeld_commit {s : State} {x} : (s.withSqHeld x).commit = s.commit := (rfl)
@[simp] theorem State.withSqHeld_blocks {s : State} {x} : (s.withSqHeld x).blocks = s.blocks := (rfl)
@[simp] theorem State.withSqHeld_mesh {s : State} {x} : (s.withSqHeld x).mesh = s.mesh := (rfl)
@[simp] theorem State.withSqHeld_ctrls {s : State} {x} : (s.withSqHeld x).ctrls = s.ctrls := (rfl)
@[simp] theorem State.withSqHeld_pdies {s : State} {x} : (s.withSqHeld x).pdies = s.pdies := (rfl)
@[simp] theorem State.withSqHeld_ports {s : State} {x} : (s.withSqHeld x).ports = s.ports := (rfl)
@[simp] theorem State.withSqHeld_voq {s : State} {x} : (s.withSqHeld x).voq = s.voq := (rfl)
@[simp] theorem State.withSqHeld_localQ {s : State} {x} : (s.withSqHeld x).localQ = s.localQ := (rfl)
@[simp] theorem State.withSqHeld_injQ {s : State} {x} : (s.withSqHeld x).injQ = s.injQ := (rfl)
@[simp] theorem State.withSqHeld_groups {s : State} {x} : (s.withSqHeld x).groups = s.groups := (rfl)
@[simp] theorem State.withSqHeld_faults {s : State} {x} : (s.withSqHeld x).faults = s.faults := (rfl)
@[simp] theorem State.withSqHeld_porter {s : State} {x} : (s.withSqHeld x).porter = s.porter := (rfl)
@[simp] theorem State.withSqHeld_sqHeld {s : State} {x} : (s.withSqHeld x).sqHeld = x := (rfl)
@[simp] theorem State.withSqHeld_trace {s : State} {x} : (s.withSqHeld x).trace = s.trace := (rfl)
@[simp] theorem State.withSqHeld_chks {s : State} {x} : (s.withSqHeld x).chks = s.chks := (rfl)
@[simp] theorem State.withSqHeld_tap {s : State} {x} : (s.withSqHeld x).tap = s.tap := (rfl)
@[simp] theorem State.withSqHeld_servo {s : State} {x} : (s.withSqHeld x).servo = s.servo := (rfl)
@[simp] theorem State.withSqHeld_reg {s : State} {x} {b} : (s.withSqHeld x).reg b = s.reg b := (rfl)
@[simp] theorem State.withSqHeld_fld {s : State} {x} {b c d} : (s.withSqHeld x).fld b c d = s.fld b c d := (rfl)
@[simp] theorem State.withSqHeld_b4 {s : State} {x} {b} : (s.withSqHeld x).b4 b = s.b4 b := (rfl)
@[simp] theorem State.withSqHeld_tile {s : State} {x} {b} : (s.withSqHeld x).tile b = s.tile b := (rfl)

/-! `withTrace` -/

@[simp] theorem State.withTrace_pending {s : State} {x} : (s.withTrace x).pending = s.pending := (rfl)
@[simp] theorem State.withTrace_out {s : State} {x} : (s.withTrace x).out = s.out := (rfl)
@[simp] theorem State.withTrace_clk {s : State} {x} : (s.withTrace x).clk = s.clk := (rfl)
@[simp] theorem State.withTrace_pins {s : State} {x} : (s.withTrace x).pins = s.pins := (rfl)
@[simp] theorem State.withTrace_regs {s : State} {x} : (s.withTrace x).regs = s.regs := (rfl)
@[simp] theorem State.withTrace_bar4 {s : State} {x} : (s.withTrace x).bar4 = s.bar4 := (rfl)
@[simp] theorem State.withTrace_unmasked {s : State} {x} : (s.withTrace x).unmasked = s.unmasked := (rfl)
@[simp] theorem State.withTrace_msixPending {s : State} {x} : (s.withTrace x).msixPending = s.msixPending := (rfl)
@[simp] theorem State.withTrace_tiles {s : State} {x} : (s.withTrace x).tiles = s.tiles := (rfl)
@[simp] theorem State.withTrace_dies {s : State} {x} : (s.withTrace x).dies = s.dies := (rfl)
@[simp] theorem State.withTrace_commit {s : State} {x} : (s.withTrace x).commit = s.commit := (rfl)
@[simp] theorem State.withTrace_blocks {s : State} {x} : (s.withTrace x).blocks = s.blocks := (rfl)
@[simp] theorem State.withTrace_mesh {s : State} {x} : (s.withTrace x).mesh = s.mesh := (rfl)
@[simp] theorem State.withTrace_ctrls {s : State} {x} : (s.withTrace x).ctrls = s.ctrls := (rfl)
@[simp] theorem State.withTrace_pdies {s : State} {x} : (s.withTrace x).pdies = s.pdies := (rfl)
@[simp] theorem State.withTrace_ports {s : State} {x} : (s.withTrace x).ports = s.ports := (rfl)
@[simp] theorem State.withTrace_voq {s : State} {x} : (s.withTrace x).voq = s.voq := (rfl)
@[simp] theorem State.withTrace_localQ {s : State} {x} : (s.withTrace x).localQ = s.localQ := (rfl)
@[simp] theorem State.withTrace_injQ {s : State} {x} : (s.withTrace x).injQ = s.injQ := (rfl)
@[simp] theorem State.withTrace_groups {s : State} {x} : (s.withTrace x).groups = s.groups := (rfl)
@[simp] theorem State.withTrace_faults {s : State} {x} : (s.withTrace x).faults = s.faults := (rfl)
@[simp] theorem State.withTrace_porter {s : State} {x} : (s.withTrace x).porter = s.porter := (rfl)
@[simp] theorem State.withTrace_sqHeld {s : State} {x} : (s.withTrace x).sqHeld = s.sqHeld := (rfl)
@[simp] theorem State.withTrace_trace {s : State} {x} : (s.withTrace x).trace = x := (rfl)
@[simp] theorem State.withTrace_chks {s : State} {x} : (s.withTrace x).chks = s.chks := (rfl)
@[simp] theorem State.withTrace_tap {s : State} {x} : (s.withTrace x).tap = s.tap := (rfl)
@[simp] theorem State.withTrace_servo {s : State} {x} : (s.withTrace x).servo = s.servo := (rfl)
@[simp] theorem State.withTrace_reg {s : State} {x} {b} : (s.withTrace x).reg b = s.reg b := (rfl)
@[simp] theorem State.withTrace_fld {s : State} {x} {b c d} : (s.withTrace x).fld b c d = s.fld b c d := (rfl)
@[simp] theorem State.withTrace_b4 {s : State} {x} {b} : (s.withTrace x).b4 b = s.b4 b := (rfl)
@[simp] theorem State.withTrace_tile {s : State} {x} {b} : (s.withTrace x).tile b = s.tile b := (rfl)

/-! `withChks` -/

@[simp] theorem State.withChks_pending {s : State} {x} : (s.withChks x).pending = s.pending := (rfl)
@[simp] theorem State.withChks_out {s : State} {x} : (s.withChks x).out = s.out := (rfl)
@[simp] theorem State.withChks_clk {s : State} {x} : (s.withChks x).clk = s.clk := (rfl)
@[simp] theorem State.withChks_pins {s : State} {x} : (s.withChks x).pins = s.pins := (rfl)
@[simp] theorem State.withChks_regs {s : State} {x} : (s.withChks x).regs = s.regs := (rfl)
@[simp] theorem State.withChks_bar4 {s : State} {x} : (s.withChks x).bar4 = s.bar4 := (rfl)
@[simp] theorem State.withChks_unmasked {s : State} {x} : (s.withChks x).unmasked = s.unmasked := (rfl)
@[simp] theorem State.withChks_msixPending {s : State} {x} : (s.withChks x).msixPending = s.msixPending := (rfl)
@[simp] theorem State.withChks_tiles {s : State} {x} : (s.withChks x).tiles = s.tiles := (rfl)
@[simp] theorem State.withChks_dies {s : State} {x} : (s.withChks x).dies = s.dies := (rfl)
@[simp] theorem State.withChks_commit {s : State} {x} : (s.withChks x).commit = s.commit := (rfl)
@[simp] theorem State.withChks_blocks {s : State} {x} : (s.withChks x).blocks = s.blocks := (rfl)
@[simp] theorem State.withChks_mesh {s : State} {x} : (s.withChks x).mesh = s.mesh := (rfl)
@[simp] theorem State.withChks_ctrls {s : State} {x} : (s.withChks x).ctrls = s.ctrls := (rfl)
@[simp] theorem State.withChks_pdies {s : State} {x} : (s.withChks x).pdies = s.pdies := (rfl)
@[simp] theorem State.withChks_ports {s : State} {x} : (s.withChks x).ports = s.ports := (rfl)
@[simp] theorem State.withChks_voq {s : State} {x} : (s.withChks x).voq = s.voq := (rfl)
@[simp] theorem State.withChks_localQ {s : State} {x} : (s.withChks x).localQ = s.localQ := (rfl)
@[simp] theorem State.withChks_injQ {s : State} {x} : (s.withChks x).injQ = s.injQ := (rfl)
@[simp] theorem State.withChks_groups {s : State} {x} : (s.withChks x).groups = s.groups := (rfl)
@[simp] theorem State.withChks_faults {s : State} {x} : (s.withChks x).faults = s.faults := (rfl)
@[simp] theorem State.withChks_porter {s : State} {x} : (s.withChks x).porter = s.porter := (rfl)
@[simp] theorem State.withChks_sqHeld {s : State} {x} : (s.withChks x).sqHeld = s.sqHeld := (rfl)
@[simp] theorem State.withChks_trace {s : State} {x} : (s.withChks x).trace = s.trace := (rfl)
@[simp] theorem State.withChks_chks {s : State} {x} : (s.withChks x).chks = x := (rfl)
@[simp] theorem State.withChks_tap {s : State} {x} : (s.withChks x).tap = s.tap := (rfl)
@[simp] theorem State.withChks_servo {s : State} {x} : (s.withChks x).servo = s.servo := (rfl)
@[simp] theorem State.withChks_reg {s : State} {x} {b} : (s.withChks x).reg b = s.reg b := (rfl)
@[simp] theorem State.withChks_fld {s : State} {x} {b c d} : (s.withChks x).fld b c d = s.fld b c d := (rfl)
@[simp] theorem State.withChks_b4 {s : State} {x} {b} : (s.withChks x).b4 b = s.b4 b := (rfl)
@[simp] theorem State.withChks_tile {s : State} {x} {b} : (s.withChks x).tile b = s.tile b := (rfl)

/-! `withTap` -/

@[simp] theorem State.withTap_pending {s : State} {x} : (s.withTap x).pending = s.pending := (rfl)
@[simp] theorem State.withTap_out {s : State} {x} : (s.withTap x).out = s.out := (rfl)
@[simp] theorem State.withTap_clk {s : State} {x} : (s.withTap x).clk = s.clk := (rfl)
@[simp] theorem State.withTap_pins {s : State} {x} : (s.withTap x).pins = s.pins := (rfl)
@[simp] theorem State.withTap_regs {s : State} {x} : (s.withTap x).regs = s.regs := (rfl)
@[simp] theorem State.withTap_bar4 {s : State} {x} : (s.withTap x).bar4 = s.bar4 := (rfl)
@[simp] theorem State.withTap_unmasked {s : State} {x} : (s.withTap x).unmasked = s.unmasked := (rfl)
@[simp] theorem State.withTap_msixPending {s : State} {x} : (s.withTap x).msixPending = s.msixPending := (rfl)
@[simp] theorem State.withTap_tiles {s : State} {x} : (s.withTap x).tiles = s.tiles := (rfl)
@[simp] theorem State.withTap_dies {s : State} {x} : (s.withTap x).dies = s.dies := (rfl)
@[simp] theorem State.withTap_commit {s : State} {x} : (s.withTap x).commit = s.commit := (rfl)
@[simp] theorem State.withTap_blocks {s : State} {x} : (s.withTap x).blocks = s.blocks := (rfl)
@[simp] theorem State.withTap_mesh {s : State} {x} : (s.withTap x).mesh = s.mesh := (rfl)
@[simp] theorem State.withTap_ctrls {s : State} {x} : (s.withTap x).ctrls = s.ctrls := (rfl)
@[simp] theorem State.withTap_pdies {s : State} {x} : (s.withTap x).pdies = s.pdies := (rfl)
@[simp] theorem State.withTap_ports {s : State} {x} : (s.withTap x).ports = s.ports := (rfl)
@[simp] theorem State.withTap_voq {s : State} {x} : (s.withTap x).voq = s.voq := (rfl)
@[simp] theorem State.withTap_localQ {s : State} {x} : (s.withTap x).localQ = s.localQ := (rfl)
@[simp] theorem State.withTap_injQ {s : State} {x} : (s.withTap x).injQ = s.injQ := (rfl)
@[simp] theorem State.withTap_groups {s : State} {x} : (s.withTap x).groups = s.groups := (rfl)
@[simp] theorem State.withTap_faults {s : State} {x} : (s.withTap x).faults = s.faults := (rfl)
@[simp] theorem State.withTap_porter {s : State} {x} : (s.withTap x).porter = s.porter := (rfl)
@[simp] theorem State.withTap_sqHeld {s : State} {x} : (s.withTap x).sqHeld = s.sqHeld := (rfl)
@[simp] theorem State.withTap_trace {s : State} {x} : (s.withTap x).trace = s.trace := (rfl)
@[simp] theorem State.withTap_chks {s : State} {x} : (s.withTap x).chks = s.chks := (rfl)
@[simp] theorem State.withTap_tap {s : State} {x} : (s.withTap x).tap = x := (rfl)
@[simp] theorem State.withTap_servo {s : State} {x} : (s.withTap x).servo = s.servo := (rfl)
@[simp] theorem State.withTap_reg {s : State} {x} {b} : (s.withTap x).reg b = s.reg b := (rfl)
@[simp] theorem State.withTap_fld {s : State} {x} {b c d} : (s.withTap x).fld b c d = s.fld b c d := (rfl)
@[simp] theorem State.withTap_b4 {s : State} {x} {b} : (s.withTap x).b4 b = s.b4 b := (rfl)
@[simp] theorem State.withTap_tile {s : State} {x} {b} : (s.withTap x).tile b = s.tile b := (rfl)

/-! `withServo` -/

@[simp] theorem State.withServo_pending {s : State} {x} : (s.withServo x).pending = s.pending := (rfl)
@[simp] theorem State.withServo_out {s : State} {x} : (s.withServo x).out = s.out := (rfl)
@[simp] theorem State.withServo_clk {s : State} {x} : (s.withServo x).clk = s.clk := (rfl)
@[simp] theorem State.withServo_pins {s : State} {x} : (s.withServo x).pins = s.pins := (rfl)
@[simp] theorem State.withServo_regs {s : State} {x} : (s.withServo x).regs = s.regs := (rfl)
@[simp] theorem State.withServo_bar4 {s : State} {x} : (s.withServo x).bar4 = s.bar4 := (rfl)
@[simp] theorem State.withServo_unmasked {s : State} {x} : (s.withServo x).unmasked = s.unmasked := (rfl)
@[simp] theorem State.withServo_msixPending {s : State} {x} : (s.withServo x).msixPending = s.msixPending := (rfl)
@[simp] theorem State.withServo_tiles {s : State} {x} : (s.withServo x).tiles = s.tiles := (rfl)
@[simp] theorem State.withServo_dies {s : State} {x} : (s.withServo x).dies = s.dies := (rfl)
@[simp] theorem State.withServo_commit {s : State} {x} : (s.withServo x).commit = s.commit := (rfl)
@[simp] theorem State.withServo_blocks {s : State} {x} : (s.withServo x).blocks = s.blocks := (rfl)
@[simp] theorem State.withServo_mesh {s : State} {x} : (s.withServo x).mesh = s.mesh := (rfl)
@[simp] theorem State.withServo_ctrls {s : State} {x} : (s.withServo x).ctrls = s.ctrls := (rfl)
@[simp] theorem State.withServo_pdies {s : State} {x} : (s.withServo x).pdies = s.pdies := (rfl)
@[simp] theorem State.withServo_ports {s : State} {x} : (s.withServo x).ports = s.ports := (rfl)
@[simp] theorem State.withServo_voq {s : State} {x} : (s.withServo x).voq = s.voq := (rfl)
@[simp] theorem State.withServo_localQ {s : State} {x} : (s.withServo x).localQ = s.localQ := (rfl)
@[simp] theorem State.withServo_injQ {s : State} {x} : (s.withServo x).injQ = s.injQ := (rfl)
@[simp] theorem State.withServo_groups {s : State} {x} : (s.withServo x).groups = s.groups := (rfl)
@[simp] theorem State.withServo_faults {s : State} {x} : (s.withServo x).faults = s.faults := (rfl)
@[simp] theorem State.withServo_porter {s : State} {x} : (s.withServo x).porter = s.porter := (rfl)
@[simp] theorem State.withServo_sqHeld {s : State} {x} : (s.withServo x).sqHeld = s.sqHeld := (rfl)
@[simp] theorem State.withServo_trace {s : State} {x} : (s.withServo x).trace = s.trace := (rfl)
@[simp] theorem State.withServo_chks {s : State} {x} : (s.withServo x).chks = s.chks := (rfl)
@[simp] theorem State.withServo_tap {s : State} {x} : (s.withServo x).tap = s.tap := (rfl)
@[simp] theorem State.withServo_servo {s : State} {x} : (s.withServo x).servo = x := (rfl)
@[simp] theorem State.withServo_reg {s : State} {x} {b} : (s.withServo x).reg b = s.reg b := (rfl)
@[simp] theorem State.withServo_fld {s : State} {x} {b c d} : (s.withServo x).fld b c d = s.fld b c d := (rfl)
@[simp] theorem State.withServo_b4 {s : State} {x} {b} : (s.withServo x).b4 b = s.b4 b := (rfl)
@[simp] theorem State.withServo_tile {s : State} {x} {b} : (s.withServo x).tile b = s.tile b := (rfl)

/-! `withTile` -/

@[simp] theorem State.withTile_pending {s : State} {k x} : (s.withTile k x).pending = s.pending := (rfl)
@[simp] theorem State.withTile_out {s : State} {k x} : (s.withTile k x).out = s.out := (rfl)
@[simp] theorem State.withTile_clk {s : State} {k x} : (s.withTile k x).clk = s.clk := (rfl)
@[simp] theorem State.withTile_pins {s : State} {k x} : (s.withTile k x).pins = s.pins := (rfl)
@[simp] theorem State.withTile_regs {s : State} {k x} : (s.withTile k x).regs = s.regs := (rfl)
@[simp] theorem State.withTile_bar4 {s : State} {k x} : (s.withTile k x).bar4 = s.bar4 := (rfl)
@[simp] theorem State.withTile_unmasked {s : State} {k x} : (s.withTile k x).unmasked = s.unmasked := (rfl)
@[simp] theorem State.withTile_msixPending {s : State} {k x} : (s.withTile k x).msixPending = s.msixPending := (rfl)
@[simp] theorem State.withTile_dies {s : State} {k x} : (s.withTile k x).dies = s.dies := (rfl)
@[simp] theorem State.withTile_commit {s : State} {k x} : (s.withTile k x).commit = s.commit := (rfl)
@[simp] theorem State.withTile_blocks {s : State} {k x} : (s.withTile k x).blocks = s.blocks := (rfl)
@[simp] theorem State.withTile_mesh {s : State} {k x} : (s.withTile k x).mesh = s.mesh := (rfl)
@[simp] theorem State.withTile_ctrls {s : State} {k x} : (s.withTile k x).ctrls = s.ctrls := (rfl)
@[simp] theorem State.withTile_pdies {s : State} {k x} : (s.withTile k x).pdies = s.pdies := (rfl)
@[simp] theorem State.withTile_ports {s : State} {k x} : (s.withTile k x).ports = s.ports := (rfl)
@[simp] theorem State.withTile_voq {s : State} {k x} : (s.withTile k x).voq = s.voq := (rfl)
@[simp] theorem State.withTile_localQ {s : State} {k x} : (s.withTile k x).localQ = s.localQ := (rfl)
@[simp] theorem State.withTile_injQ {s : State} {k x} : (s.withTile k x).injQ = s.injQ := (rfl)
@[simp] theorem State.withTile_groups {s : State} {k x} : (s.withTile k x).groups = s.groups := (rfl)
@[simp] theorem State.withTile_faults {s : State} {k x} : (s.withTile k x).faults = s.faults := (rfl)
@[simp] theorem State.withTile_porter {s : State} {k x} : (s.withTile k x).porter = s.porter := (rfl)
@[simp] theorem State.withTile_sqHeld {s : State} {k x} : (s.withTile k x).sqHeld = s.sqHeld := (rfl)
@[simp] theorem State.withTile_trace {s : State} {k x} : (s.withTile k x).trace = s.trace := (rfl)
@[simp] theorem State.withTile_chks {s : State} {k x} : (s.withTile k x).chks = s.chks := (rfl)
@[simp] theorem State.withTile_tap {s : State} {k x} : (s.withTile k x).tap = s.tap := (rfl)
@[simp] theorem State.withTile_servo {s : State} {k x} : (s.withTile k x).servo = s.servo := (rfl)
@[simp] theorem State.withTile_reg {s : State} {k x} {b} : (s.withTile k x).reg b = s.reg b := (rfl)
@[simp] theorem State.withTile_fld {s : State} {k x} {b c d} : (s.withTile k x).fld b c d = s.fld b c d := (rfl)
@[simp] theorem State.withTile_b4 {s : State} {k x} {b} : (s.withTile k x).b4 b = s.b4 b := (rfl)

/-! `modTile` -/

@[simp] theorem State.modTile_pending {s : State} {k x} : (s.modTile k x).pending = s.pending := (rfl)
@[simp] theorem State.modTile_out {s : State} {k x} : (s.modTile k x).out = s.out := (rfl)
@[simp] theorem State.modTile_clk {s : State} {k x} : (s.modTile k x).clk = s.clk := (rfl)
@[simp] theorem State.modTile_pins {s : State} {k x} : (s.modTile k x).pins = s.pins := (rfl)
@[simp] theorem State.modTile_regs {s : State} {k x} : (s.modTile k x).regs = s.regs := (rfl)
@[simp] theorem State.modTile_bar4 {s : State} {k x} : (s.modTile k x).bar4 = s.bar4 := (rfl)
@[simp] theorem State.modTile_unmasked {s : State} {k x} : (s.modTile k x).unmasked = s.unmasked := (rfl)
@[simp] theorem State.modTile_msixPending {s : State} {k x} : (s.modTile k x).msixPending = s.msixPending := (rfl)
@[simp] theorem State.modTile_dies {s : State} {k x} : (s.modTile k x).dies = s.dies := (rfl)
@[simp] theorem State.modTile_commit {s : State} {k x} : (s.modTile k x).commit = s.commit := (rfl)
@[simp] theorem State.modTile_blocks {s : State} {k x} : (s.modTile k x).blocks = s.blocks := (rfl)
@[simp] theorem State.modTile_mesh {s : State} {k x} : (s.modTile k x).mesh = s.mesh := (rfl)
@[simp] theorem State.modTile_ctrls {s : State} {k x} : (s.modTile k x).ctrls = s.ctrls := (rfl)
@[simp] theorem State.modTile_pdies {s : State} {k x} : (s.modTile k x).pdies = s.pdies := (rfl)
@[simp] theorem State.modTile_ports {s : State} {k x} : (s.modTile k x).ports = s.ports := (rfl)
@[simp] theorem State.modTile_voq {s : State} {k x} : (s.modTile k x).voq = s.voq := (rfl)
@[simp] theorem State.modTile_localQ {s : State} {k x} : (s.modTile k x).localQ = s.localQ := (rfl)
@[simp] theorem State.modTile_injQ {s : State} {k x} : (s.modTile k x).injQ = s.injQ := (rfl)
@[simp] theorem State.modTile_groups {s : State} {k x} : (s.modTile k x).groups = s.groups := (rfl)
@[simp] theorem State.modTile_faults {s : State} {k x} : (s.modTile k x).faults = s.faults := (rfl)
@[simp] theorem State.modTile_porter {s : State} {k x} : (s.modTile k x).porter = s.porter := (rfl)
@[simp] theorem State.modTile_sqHeld {s : State} {k x} : (s.modTile k x).sqHeld = s.sqHeld := (rfl)
@[simp] theorem State.modTile_trace {s : State} {k x} : (s.modTile k x).trace = s.trace := (rfl)
@[simp] theorem State.modTile_chks {s : State} {k x} : (s.modTile k x).chks = s.chks := (rfl)
@[simp] theorem State.modTile_tap {s : State} {k x} : (s.modTile k x).tap = s.tap := (rfl)
@[simp] theorem State.modTile_servo {s : State} {k x} : (s.modTile k x).servo = s.servo := (rfl)
@[simp] theorem State.modTile_reg {s : State} {k x} {b} : (s.modTile k x).reg b = s.reg b := (rfl)
@[simp] theorem State.modTile_fld {s : State} {k x} {b c d} : (s.modTile k x).fld b c d = s.fld b c d := (rfl)
@[simp] theorem State.modTile_b4 {s : State} {k x} {b} : (s.modTile k x).b4 b = s.b4 b := (rfl)

/-! `withDie` -/

@[simp] theorem State.withDie_pending {s : State} {k x} : (s.withDie k x).pending = s.pending := (rfl)
@[simp] theorem State.withDie_out {s : State} {k x} : (s.withDie k x).out = s.out := (rfl)
@[simp] theorem State.withDie_clk {s : State} {k x} : (s.withDie k x).clk = s.clk := (rfl)
@[simp] theorem State.withDie_pins {s : State} {k x} : (s.withDie k x).pins = s.pins := (rfl)
@[simp] theorem State.withDie_regs {s : State} {k x} : (s.withDie k x).regs = s.regs := (rfl)
@[simp] theorem State.withDie_bar4 {s : State} {k x} : (s.withDie k x).bar4 = s.bar4 := (rfl)
@[simp] theorem State.withDie_unmasked {s : State} {k x} : (s.withDie k x).unmasked = s.unmasked := (rfl)
@[simp] theorem State.withDie_msixPending {s : State} {k x} : (s.withDie k x).msixPending = s.msixPending := (rfl)
@[simp] theorem State.withDie_tiles {s : State} {k x} : (s.withDie k x).tiles = s.tiles := (rfl)
@[simp] theorem State.withDie_commit {s : State} {k x} : (s.withDie k x).commit = s.commit := (rfl)
@[simp] theorem State.withDie_blocks {s : State} {k x} : (s.withDie k x).blocks = s.blocks := (rfl)
@[simp] theorem State.withDie_mesh {s : State} {k x} : (s.withDie k x).mesh = s.mesh := (rfl)
@[simp] theorem State.withDie_ctrls {s : State} {k x} : (s.withDie k x).ctrls = s.ctrls := (rfl)
@[simp] theorem State.withDie_pdies {s : State} {k x} : (s.withDie k x).pdies = s.pdies := (rfl)
@[simp] theorem State.withDie_ports {s : State} {k x} : (s.withDie k x).ports = s.ports := (rfl)
@[simp] theorem State.withDie_voq {s : State} {k x} : (s.withDie k x).voq = s.voq := (rfl)
@[simp] theorem State.withDie_localQ {s : State} {k x} : (s.withDie k x).localQ = s.localQ := (rfl)
@[simp] theorem State.withDie_injQ {s : State} {k x} : (s.withDie k x).injQ = s.injQ := (rfl)
@[simp] theorem State.withDie_groups {s : State} {k x} : (s.withDie k x).groups = s.groups := (rfl)
@[simp] theorem State.withDie_faults {s : State} {k x} : (s.withDie k x).faults = s.faults := (rfl)
@[simp] theorem State.withDie_porter {s : State} {k x} : (s.withDie k x).porter = s.porter := (rfl)
@[simp] theorem State.withDie_sqHeld {s : State} {k x} : (s.withDie k x).sqHeld = s.sqHeld := (rfl)
@[simp] theorem State.withDie_trace {s : State} {k x} : (s.withDie k x).trace = s.trace := (rfl)
@[simp] theorem State.withDie_chks {s : State} {k x} : (s.withDie k x).chks = s.chks := (rfl)
@[simp] theorem State.withDie_tap {s : State} {k x} : (s.withDie k x).tap = s.tap := (rfl)
@[simp] theorem State.withDie_servo {s : State} {k x} : (s.withDie k x).servo = s.servo := (rfl)
@[simp] theorem State.withDie_reg {s : State} {k x} {b} : (s.withDie k x).reg b = s.reg b := (rfl)
@[simp] theorem State.withDie_fld {s : State} {k x} {b c d} : (s.withDie k x).fld b c d = s.fld b c d := (rfl)
@[simp] theorem State.withDie_b4 {s : State} {k x} {b} : (s.withDie k x).b4 b = s.b4 b := (rfl)
@[simp] theorem State.withDie_tile {s : State} {k x} {b} : (s.withDie k x).tile b = s.tile b := (rfl)

/-! `modDie` -/

@[simp] theorem State.modDie_pending {s : State} {k x} : (s.modDie k x).pending = s.pending := (rfl)
@[simp] theorem State.modDie_out {s : State} {k x} : (s.modDie k x).out = s.out := (rfl)
@[simp] theorem State.modDie_clk {s : State} {k x} : (s.modDie k x).clk = s.clk := (rfl)
@[simp] theorem State.modDie_pins {s : State} {k x} : (s.modDie k x).pins = s.pins := (rfl)
@[simp] theorem State.modDie_regs {s : State} {k x} : (s.modDie k x).regs = s.regs := (rfl)
@[simp] theorem State.modDie_bar4 {s : State} {k x} : (s.modDie k x).bar4 = s.bar4 := (rfl)
@[simp] theorem State.modDie_unmasked {s : State} {k x} : (s.modDie k x).unmasked = s.unmasked := (rfl)
@[simp] theorem State.modDie_msixPending {s : State} {k x} : (s.modDie k x).msixPending = s.msixPending := (rfl)
@[simp] theorem State.modDie_tiles {s : State} {k x} : (s.modDie k x).tiles = s.tiles := (rfl)
@[simp] theorem State.modDie_commit {s : State} {k x} : (s.modDie k x).commit = s.commit := (rfl)
@[simp] theorem State.modDie_blocks {s : State} {k x} : (s.modDie k x).blocks = s.blocks := (rfl)
@[simp] theorem State.modDie_mesh {s : State} {k x} : (s.modDie k x).mesh = s.mesh := (rfl)
@[simp] theorem State.modDie_ctrls {s : State} {k x} : (s.modDie k x).ctrls = s.ctrls := (rfl)
@[simp] theorem State.modDie_pdies {s : State} {k x} : (s.modDie k x).pdies = s.pdies := (rfl)
@[simp] theorem State.modDie_ports {s : State} {k x} : (s.modDie k x).ports = s.ports := (rfl)
@[simp] theorem State.modDie_voq {s : State} {k x} : (s.modDie k x).voq = s.voq := (rfl)
@[simp] theorem State.modDie_localQ {s : State} {k x} : (s.modDie k x).localQ = s.localQ := (rfl)
@[simp] theorem State.modDie_injQ {s : State} {k x} : (s.modDie k x).injQ = s.injQ := (rfl)
@[simp] theorem State.modDie_groups {s : State} {k x} : (s.modDie k x).groups = s.groups := (rfl)
@[simp] theorem State.modDie_faults {s : State} {k x} : (s.modDie k x).faults = s.faults := (rfl)
@[simp] theorem State.modDie_porter {s : State} {k x} : (s.modDie k x).porter = s.porter := (rfl)
@[simp] theorem State.modDie_sqHeld {s : State} {k x} : (s.modDie k x).sqHeld = s.sqHeld := (rfl)
@[simp] theorem State.modDie_trace {s : State} {k x} : (s.modDie k x).trace = s.trace := (rfl)
@[simp] theorem State.modDie_chks {s : State} {k x} : (s.modDie k x).chks = s.chks := (rfl)
@[simp] theorem State.modDie_tap {s : State} {k x} : (s.modDie k x).tap = s.tap := (rfl)
@[simp] theorem State.modDie_servo {s : State} {k x} : (s.modDie k x).servo = s.servo := (rfl)
@[simp] theorem State.modDie_reg {s : State} {k x} {b} : (s.modDie k x).reg b = s.reg b := (rfl)
@[simp] theorem State.modDie_fld {s : State} {k x} {b c d} : (s.modDie k x).fld b c d = s.fld b c d := (rfl)
@[simp] theorem State.modDie_b4 {s : State} {k x} {b} : (s.modDie k x).b4 b = s.b4 b := (rfl)
@[simp] theorem State.modDie_tile {s : State} {k x} {b} : (s.modDie k x).tile b = s.tile b := (rfl)

/-! `withBlock` -/

@[simp] theorem State.withBlock_pending {s : State} {k x} : (s.withBlock k x).pending = s.pending := (rfl)
@[simp] theorem State.withBlock_out {s : State} {k x} : (s.withBlock k x).out = s.out := (rfl)
@[simp] theorem State.withBlock_clk {s : State} {k x} : (s.withBlock k x).clk = s.clk := (rfl)
@[simp] theorem State.withBlock_pins {s : State} {k x} : (s.withBlock k x).pins = s.pins := (rfl)
@[simp] theorem State.withBlock_regs {s : State} {k x} : (s.withBlock k x).regs = s.regs := (rfl)
@[simp] theorem State.withBlock_bar4 {s : State} {k x} : (s.withBlock k x).bar4 = s.bar4 := (rfl)
@[simp] theorem State.withBlock_unmasked {s : State} {k x} : (s.withBlock k x).unmasked = s.unmasked := (rfl)
@[simp] theorem State.withBlock_msixPending {s : State} {k x} : (s.withBlock k x).msixPending = s.msixPending := (rfl)
@[simp] theorem State.withBlock_tiles {s : State} {k x} : (s.withBlock k x).tiles = s.tiles := (rfl)
@[simp] theorem State.withBlock_dies {s : State} {k x} : (s.withBlock k x).dies = s.dies := (rfl)
@[simp] theorem State.withBlock_commit {s : State} {k x} : (s.withBlock k x).commit = s.commit := (rfl)
@[simp] theorem State.withBlock_mesh {s : State} {k x} : (s.withBlock k x).mesh = s.mesh := (rfl)
@[simp] theorem State.withBlock_ctrls {s : State} {k x} : (s.withBlock k x).ctrls = s.ctrls := (rfl)
@[simp] theorem State.withBlock_pdies {s : State} {k x} : (s.withBlock k x).pdies = s.pdies := (rfl)
@[simp] theorem State.withBlock_ports {s : State} {k x} : (s.withBlock k x).ports = s.ports := (rfl)
@[simp] theorem State.withBlock_voq {s : State} {k x} : (s.withBlock k x).voq = s.voq := (rfl)
@[simp] theorem State.withBlock_localQ {s : State} {k x} : (s.withBlock k x).localQ = s.localQ := (rfl)
@[simp] theorem State.withBlock_injQ {s : State} {k x} : (s.withBlock k x).injQ = s.injQ := (rfl)
@[simp] theorem State.withBlock_groups {s : State} {k x} : (s.withBlock k x).groups = s.groups := (rfl)
@[simp] theorem State.withBlock_faults {s : State} {k x} : (s.withBlock k x).faults = s.faults := (rfl)
@[simp] theorem State.withBlock_porter {s : State} {k x} : (s.withBlock k x).porter = s.porter := (rfl)
@[simp] theorem State.withBlock_sqHeld {s : State} {k x} : (s.withBlock k x).sqHeld = s.sqHeld := (rfl)
@[simp] theorem State.withBlock_trace {s : State} {k x} : (s.withBlock k x).trace = s.trace := (rfl)
@[simp] theorem State.withBlock_chks {s : State} {k x} : (s.withBlock k x).chks = s.chks := (rfl)
@[simp] theorem State.withBlock_tap {s : State} {k x} : (s.withBlock k x).tap = s.tap := (rfl)
@[simp] theorem State.withBlock_servo {s : State} {k x} : (s.withBlock k x).servo = s.servo := (rfl)
@[simp] theorem State.withBlock_reg {s : State} {k x} {b} : (s.withBlock k x).reg b = s.reg b := (rfl)
@[simp] theorem State.withBlock_fld {s : State} {k x} {b c d} : (s.withBlock k x).fld b c d = s.fld b c d := (rfl)
@[simp] theorem State.withBlock_b4 {s : State} {k x} {b} : (s.withBlock k x).b4 b = s.b4 b := (rfl)
@[simp] theorem State.withBlock_tile {s : State} {k x} {b} : (s.withBlock k x).tile b = s.tile b := (rfl)

/-! `modBlock` -/

@[simp] theorem State.modBlock_pending {s : State} {k x} : (s.modBlock k x).pending = s.pending := (rfl)
@[simp] theorem State.modBlock_out {s : State} {k x} : (s.modBlock k x).out = s.out := (rfl)
@[simp] theorem State.modBlock_clk {s : State} {k x} : (s.modBlock k x).clk = s.clk := (rfl)
@[simp] theorem State.modBlock_pins {s : State} {k x} : (s.modBlock k x).pins = s.pins := (rfl)
@[simp] theorem State.modBlock_regs {s : State} {k x} : (s.modBlock k x).regs = s.regs := (rfl)
@[simp] theorem State.modBlock_bar4 {s : State} {k x} : (s.modBlock k x).bar4 = s.bar4 := (rfl)
@[simp] theorem State.modBlock_unmasked {s : State} {k x} : (s.modBlock k x).unmasked = s.unmasked := (rfl)
@[simp] theorem State.modBlock_msixPending {s : State} {k x} : (s.modBlock k x).msixPending = s.msixPending := (rfl)
@[simp] theorem State.modBlock_tiles {s : State} {k x} : (s.modBlock k x).tiles = s.tiles := (rfl)
@[simp] theorem State.modBlock_dies {s : State} {k x} : (s.modBlock k x).dies = s.dies := (rfl)
@[simp] theorem State.modBlock_commit {s : State} {k x} : (s.modBlock k x).commit = s.commit := (rfl)
@[simp] theorem State.modBlock_mesh {s : State} {k x} : (s.modBlock k x).mesh = s.mesh := (rfl)
@[simp] theorem State.modBlock_ctrls {s : State} {k x} : (s.modBlock k x).ctrls = s.ctrls := (rfl)
@[simp] theorem State.modBlock_pdies {s : State} {k x} : (s.modBlock k x).pdies = s.pdies := (rfl)
@[simp] theorem State.modBlock_ports {s : State} {k x} : (s.modBlock k x).ports = s.ports := (rfl)
@[simp] theorem State.modBlock_voq {s : State} {k x} : (s.modBlock k x).voq = s.voq := (rfl)
@[simp] theorem State.modBlock_localQ {s : State} {k x} : (s.modBlock k x).localQ = s.localQ := (rfl)
@[simp] theorem State.modBlock_injQ {s : State} {k x} : (s.modBlock k x).injQ = s.injQ := (rfl)
@[simp] theorem State.modBlock_groups {s : State} {k x} : (s.modBlock k x).groups = s.groups := (rfl)
@[simp] theorem State.modBlock_faults {s : State} {k x} : (s.modBlock k x).faults = s.faults := (rfl)
@[simp] theorem State.modBlock_porter {s : State} {k x} : (s.modBlock k x).porter = s.porter := (rfl)
@[simp] theorem State.modBlock_sqHeld {s : State} {k x} : (s.modBlock k x).sqHeld = s.sqHeld := (rfl)
@[simp] theorem State.modBlock_trace {s : State} {k x} : (s.modBlock k x).trace = s.trace := (rfl)
@[simp] theorem State.modBlock_chks {s : State} {k x} : (s.modBlock k x).chks = s.chks := (rfl)
@[simp] theorem State.modBlock_tap {s : State} {k x} : (s.modBlock k x).tap = s.tap := (rfl)
@[simp] theorem State.modBlock_servo {s : State} {k x} : (s.modBlock k x).servo = s.servo := (rfl)
@[simp] theorem State.modBlock_reg {s : State} {k x} {b} : (s.modBlock k x).reg b = s.reg b := (rfl)
@[simp] theorem State.modBlock_fld {s : State} {k x} {b c d} : (s.modBlock k x).fld b c d = s.fld b c d := (rfl)
@[simp] theorem State.modBlock_b4 {s : State} {k x} {b} : (s.modBlock k x).b4 b = s.b4 b := (rfl)
@[simp] theorem State.modBlock_tile {s : State} {k x} {b} : (s.modBlock k x).tile b = s.tile b := (rfl)

/-! `withStop` -/

@[simp] theorem State.withStop_pending {s : State} {k x} : (s.withStop k x).pending = s.pending := (rfl)
@[simp] theorem State.withStop_out {s : State} {k x} : (s.withStop k x).out = s.out := (rfl)
@[simp] theorem State.withStop_clk {s : State} {k x} : (s.withStop k x).clk = s.clk := (rfl)
@[simp] theorem State.withStop_pins {s : State} {k x} : (s.withStop k x).pins = s.pins := (rfl)
@[simp] theorem State.withStop_regs {s : State} {k x} : (s.withStop k x).regs = s.regs := (rfl)
@[simp] theorem State.withStop_bar4 {s : State} {k x} : (s.withStop k x).bar4 = s.bar4 := (rfl)
@[simp] theorem State.withStop_unmasked {s : State} {k x} : (s.withStop k x).unmasked = s.unmasked := (rfl)
@[simp] theorem State.withStop_msixPending {s : State} {k x} : (s.withStop k x).msixPending = s.msixPending := (rfl)
@[simp] theorem State.withStop_tiles {s : State} {k x} : (s.withStop k x).tiles = s.tiles := (rfl)
@[simp] theorem State.withStop_dies {s : State} {k x} : (s.withStop k x).dies = s.dies := (rfl)
@[simp] theorem State.withStop_commit {s : State} {k x} : (s.withStop k x).commit = s.commit := (rfl)
@[simp] theorem State.withStop_blocks {s : State} {k x} : (s.withStop k x).blocks = s.blocks := (rfl)
@[simp] theorem State.withStop_ctrls {s : State} {k x} : (s.withStop k x).ctrls = s.ctrls := (rfl)
@[simp] theorem State.withStop_pdies {s : State} {k x} : (s.withStop k x).pdies = s.pdies := (rfl)
@[simp] theorem State.withStop_ports {s : State} {k x} : (s.withStop k x).ports = s.ports := (rfl)
@[simp] theorem State.withStop_voq {s : State} {k x} : (s.withStop k x).voq = s.voq := (rfl)
@[simp] theorem State.withStop_localQ {s : State} {k x} : (s.withStop k x).localQ = s.localQ := (rfl)
@[simp] theorem State.withStop_injQ {s : State} {k x} : (s.withStop k x).injQ = s.injQ := (rfl)
@[simp] theorem State.withStop_groups {s : State} {k x} : (s.withStop k x).groups = s.groups := (rfl)
@[simp] theorem State.withStop_faults {s : State} {k x} : (s.withStop k x).faults = s.faults := (rfl)
@[simp] theorem State.withStop_porter {s : State} {k x} : (s.withStop k x).porter = s.porter := (rfl)
@[simp] theorem State.withStop_sqHeld {s : State} {k x} : (s.withStop k x).sqHeld = s.sqHeld := (rfl)
@[simp] theorem State.withStop_trace {s : State} {k x} : (s.withStop k x).trace = s.trace := (rfl)
@[simp] theorem State.withStop_chks {s : State} {k x} : (s.withStop k x).chks = s.chks := (rfl)
@[simp] theorem State.withStop_tap {s : State} {k x} : (s.withStop k x).tap = s.tap := (rfl)
@[simp] theorem State.withStop_servo {s : State} {k x} : (s.withStop k x).servo = s.servo := (rfl)
@[simp] theorem State.withStop_reg {s : State} {k x} {b} : (s.withStop k x).reg b = s.reg b := (rfl)
@[simp] theorem State.withStop_fld {s : State} {k x} {b c d} : (s.withStop k x).fld b c d = s.fld b c d := (rfl)
@[simp] theorem State.withStop_b4 {s : State} {k x} {b} : (s.withStop k x).b4 b = s.b4 b := (rfl)
@[simp] theorem State.withStop_tile {s : State} {k x} {b} : (s.withStop k x).tile b = s.tile b := (rfl)

/-! `modStop` -/

@[simp] theorem State.modStop_pending {s : State} {k x} : (s.modStop k x).pending = s.pending := (rfl)
@[simp] theorem State.modStop_out {s : State} {k x} : (s.modStop k x).out = s.out := (rfl)
@[simp] theorem State.modStop_clk {s : State} {k x} : (s.modStop k x).clk = s.clk := (rfl)
@[simp] theorem State.modStop_pins {s : State} {k x} : (s.modStop k x).pins = s.pins := (rfl)
@[simp] theorem State.modStop_regs {s : State} {k x} : (s.modStop k x).regs = s.regs := (rfl)
@[simp] theorem State.modStop_bar4 {s : State} {k x} : (s.modStop k x).bar4 = s.bar4 := (rfl)
@[simp] theorem State.modStop_unmasked {s : State} {k x} : (s.modStop k x).unmasked = s.unmasked := (rfl)
@[simp] theorem State.modStop_msixPending {s : State} {k x} : (s.modStop k x).msixPending = s.msixPending := (rfl)
@[simp] theorem State.modStop_tiles {s : State} {k x} : (s.modStop k x).tiles = s.tiles := (rfl)
@[simp] theorem State.modStop_dies {s : State} {k x} : (s.modStop k x).dies = s.dies := (rfl)
@[simp] theorem State.modStop_commit {s : State} {k x} : (s.modStop k x).commit = s.commit := (rfl)
@[simp] theorem State.modStop_blocks {s : State} {k x} : (s.modStop k x).blocks = s.blocks := (rfl)
@[simp] theorem State.modStop_ctrls {s : State} {k x} : (s.modStop k x).ctrls = s.ctrls := (rfl)
@[simp] theorem State.modStop_pdies {s : State} {k x} : (s.modStop k x).pdies = s.pdies := (rfl)
@[simp] theorem State.modStop_ports {s : State} {k x} : (s.modStop k x).ports = s.ports := (rfl)
@[simp] theorem State.modStop_voq {s : State} {k x} : (s.modStop k x).voq = s.voq := (rfl)
@[simp] theorem State.modStop_localQ {s : State} {k x} : (s.modStop k x).localQ = s.localQ := (rfl)
@[simp] theorem State.modStop_injQ {s : State} {k x} : (s.modStop k x).injQ = s.injQ := (rfl)
@[simp] theorem State.modStop_groups {s : State} {k x} : (s.modStop k x).groups = s.groups := (rfl)
@[simp] theorem State.modStop_faults {s : State} {k x} : (s.modStop k x).faults = s.faults := (rfl)
@[simp] theorem State.modStop_porter {s : State} {k x} : (s.modStop k x).porter = s.porter := (rfl)
@[simp] theorem State.modStop_sqHeld {s : State} {k x} : (s.modStop k x).sqHeld = s.sqHeld := (rfl)
@[simp] theorem State.modStop_trace {s : State} {k x} : (s.modStop k x).trace = s.trace := (rfl)
@[simp] theorem State.modStop_chks {s : State} {k x} : (s.modStop k x).chks = s.chks := (rfl)
@[simp] theorem State.modStop_tap {s : State} {k x} : (s.modStop k x).tap = s.tap := (rfl)
@[simp] theorem State.modStop_servo {s : State} {k x} : (s.modStop k x).servo = s.servo := (rfl)
@[simp] theorem State.modStop_reg {s : State} {k x} {b} : (s.modStop k x).reg b = s.reg b := (rfl)
@[simp] theorem State.modStop_fld {s : State} {k x} {b c d} : (s.modStop k x).fld b c d = s.fld b c d := (rfl)
@[simp] theorem State.modStop_b4 {s : State} {k x} {b} : (s.modStop k x).b4 b = s.b4 b := (rfl)
@[simp] theorem State.modStop_tile {s : State} {k x} {b} : (s.modStop k x).tile b = s.tile b := (rfl)

/-! `withCtrl` -/

@[simp] theorem State.withCtrl_pending {s : State} {k x} : (s.withCtrl k x).pending = s.pending := (rfl)
@[simp] theorem State.withCtrl_out {s : State} {k x} : (s.withCtrl k x).out = s.out := (rfl)
@[simp] theorem State.withCtrl_clk {s : State} {k x} : (s.withCtrl k x).clk = s.clk := (rfl)
@[simp] theorem State.withCtrl_pins {s : State} {k x} : (s.withCtrl k x).pins = s.pins := (rfl)
@[simp] theorem State.withCtrl_regs {s : State} {k x} : (s.withCtrl k x).regs = s.regs := (rfl)
@[simp] theorem State.withCtrl_bar4 {s : State} {k x} : (s.withCtrl k x).bar4 = s.bar4 := (rfl)
@[simp] theorem State.withCtrl_unmasked {s : State} {k x} : (s.withCtrl k x).unmasked = s.unmasked := (rfl)
@[simp] theorem State.withCtrl_msixPending {s : State} {k x} : (s.withCtrl k x).msixPending = s.msixPending := (rfl)
@[simp] theorem State.withCtrl_tiles {s : State} {k x} : (s.withCtrl k x).tiles = s.tiles := (rfl)
@[simp] theorem State.withCtrl_dies {s : State} {k x} : (s.withCtrl k x).dies = s.dies := (rfl)
@[simp] theorem State.withCtrl_commit {s : State} {k x} : (s.withCtrl k x).commit = s.commit := (rfl)
@[simp] theorem State.withCtrl_blocks {s : State} {k x} : (s.withCtrl k x).blocks = s.blocks := (rfl)
@[simp] theorem State.withCtrl_mesh {s : State} {k x} : (s.withCtrl k x).mesh = s.mesh := (rfl)
@[simp] theorem State.withCtrl_pdies {s : State} {k x} : (s.withCtrl k x).pdies = s.pdies := (rfl)
@[simp] theorem State.withCtrl_ports {s : State} {k x} : (s.withCtrl k x).ports = s.ports := (rfl)
@[simp] theorem State.withCtrl_voq {s : State} {k x} : (s.withCtrl k x).voq = s.voq := (rfl)
@[simp] theorem State.withCtrl_localQ {s : State} {k x} : (s.withCtrl k x).localQ = s.localQ := (rfl)
@[simp] theorem State.withCtrl_injQ {s : State} {k x} : (s.withCtrl k x).injQ = s.injQ := (rfl)
@[simp] theorem State.withCtrl_groups {s : State} {k x} : (s.withCtrl k x).groups = s.groups := (rfl)
@[simp] theorem State.withCtrl_faults {s : State} {k x} : (s.withCtrl k x).faults = s.faults := (rfl)
@[simp] theorem State.withCtrl_porter {s : State} {k x} : (s.withCtrl k x).porter = s.porter := (rfl)
@[simp] theorem State.withCtrl_sqHeld {s : State} {k x} : (s.withCtrl k x).sqHeld = s.sqHeld := (rfl)
@[simp] theorem State.withCtrl_trace {s : State} {k x} : (s.withCtrl k x).trace = s.trace := (rfl)
@[simp] theorem State.withCtrl_chks {s : State} {k x} : (s.withCtrl k x).chks = s.chks := (rfl)
@[simp] theorem State.withCtrl_tap {s : State} {k x} : (s.withCtrl k x).tap = s.tap := (rfl)
@[simp] theorem State.withCtrl_servo {s : State} {k x} : (s.withCtrl k x).servo = s.servo := (rfl)
@[simp] theorem State.withCtrl_reg {s : State} {k x} {b} : (s.withCtrl k x).reg b = s.reg b := (rfl)
@[simp] theorem State.withCtrl_fld {s : State} {k x} {b c d} : (s.withCtrl k x).fld b c d = s.fld b c d := (rfl)
@[simp] theorem State.withCtrl_b4 {s : State} {k x} {b} : (s.withCtrl k x).b4 b = s.b4 b := (rfl)
@[simp] theorem State.withCtrl_tile {s : State} {k x} {b} : (s.withCtrl k x).tile b = s.tile b := (rfl)

/-! `modCtrl` -/

@[simp] theorem State.modCtrl_pending {s : State} {k x} : (s.modCtrl k x).pending = s.pending := (rfl)
@[simp] theorem State.modCtrl_out {s : State} {k x} : (s.modCtrl k x).out = s.out := (rfl)
@[simp] theorem State.modCtrl_clk {s : State} {k x} : (s.modCtrl k x).clk = s.clk := (rfl)
@[simp] theorem State.modCtrl_pins {s : State} {k x} : (s.modCtrl k x).pins = s.pins := (rfl)
@[simp] theorem State.modCtrl_regs {s : State} {k x} : (s.modCtrl k x).regs = s.regs := (rfl)
@[simp] theorem State.modCtrl_bar4 {s : State} {k x} : (s.modCtrl k x).bar4 = s.bar4 := (rfl)
@[simp] theorem State.modCtrl_unmasked {s : State} {k x} : (s.modCtrl k x).unmasked = s.unmasked := (rfl)
@[simp] theorem State.modCtrl_msixPending {s : State} {k x} : (s.modCtrl k x).msixPending = s.msixPending := (rfl)
@[simp] theorem State.modCtrl_tiles {s : State} {k x} : (s.modCtrl k x).tiles = s.tiles := (rfl)
@[simp] theorem State.modCtrl_dies {s : State} {k x} : (s.modCtrl k x).dies = s.dies := (rfl)
@[simp] theorem State.modCtrl_commit {s : State} {k x} : (s.modCtrl k x).commit = s.commit := (rfl)
@[simp] theorem State.modCtrl_blocks {s : State} {k x} : (s.modCtrl k x).blocks = s.blocks := (rfl)
@[simp] theorem State.modCtrl_mesh {s : State} {k x} : (s.modCtrl k x).mesh = s.mesh := (rfl)
@[simp] theorem State.modCtrl_pdies {s : State} {k x} : (s.modCtrl k x).pdies = s.pdies := (rfl)
@[simp] theorem State.modCtrl_ports {s : State} {k x} : (s.modCtrl k x).ports = s.ports := (rfl)
@[simp] theorem State.modCtrl_voq {s : State} {k x} : (s.modCtrl k x).voq = s.voq := (rfl)
@[simp] theorem State.modCtrl_localQ {s : State} {k x} : (s.modCtrl k x).localQ = s.localQ := (rfl)
@[simp] theorem State.modCtrl_injQ {s : State} {k x} : (s.modCtrl k x).injQ = s.injQ := (rfl)
@[simp] theorem State.modCtrl_groups {s : State} {k x} : (s.modCtrl k x).groups = s.groups := (rfl)
@[simp] theorem State.modCtrl_faults {s : State} {k x} : (s.modCtrl k x).faults = s.faults := (rfl)
@[simp] theorem State.modCtrl_porter {s : State} {k x} : (s.modCtrl k x).porter = s.porter := (rfl)
@[simp] theorem State.modCtrl_sqHeld {s : State} {k x} : (s.modCtrl k x).sqHeld = s.sqHeld := (rfl)
@[simp] theorem State.modCtrl_trace {s : State} {k x} : (s.modCtrl k x).trace = s.trace := (rfl)
@[simp] theorem State.modCtrl_chks {s : State} {k x} : (s.modCtrl k x).chks = s.chks := (rfl)
@[simp] theorem State.modCtrl_tap {s : State} {k x} : (s.modCtrl k x).tap = s.tap := (rfl)
@[simp] theorem State.modCtrl_servo {s : State} {k x} : (s.modCtrl k x).servo = s.servo := (rfl)
@[simp] theorem State.modCtrl_reg {s : State} {k x} {b} : (s.modCtrl k x).reg b = s.reg b := (rfl)
@[simp] theorem State.modCtrl_fld {s : State} {k x} {b c d} : (s.modCtrl k x).fld b c d = s.fld b c d := (rfl)
@[simp] theorem State.modCtrl_b4 {s : State} {k x} {b} : (s.modCtrl k x).b4 b = s.b4 b := (rfl)
@[simp] theorem State.modCtrl_tile {s : State} {k x} {b} : (s.modCtrl k x).tile b = s.tile b := (rfl)

/-! `withPdie` -/

@[simp] theorem State.withPdie_pending {s : State} {k x} : (s.withPdie k x).pending = s.pending := (rfl)
@[simp] theorem State.withPdie_out {s : State} {k x} : (s.withPdie k x).out = s.out := (rfl)
@[simp] theorem State.withPdie_clk {s : State} {k x} : (s.withPdie k x).clk = s.clk := (rfl)
@[simp] theorem State.withPdie_pins {s : State} {k x} : (s.withPdie k x).pins = s.pins := (rfl)
@[simp] theorem State.withPdie_regs {s : State} {k x} : (s.withPdie k x).regs = s.regs := (rfl)
@[simp] theorem State.withPdie_bar4 {s : State} {k x} : (s.withPdie k x).bar4 = s.bar4 := (rfl)
@[simp] theorem State.withPdie_unmasked {s : State} {k x} : (s.withPdie k x).unmasked = s.unmasked := (rfl)
@[simp] theorem State.withPdie_msixPending {s : State} {k x} : (s.withPdie k x).msixPending = s.msixPending := (rfl)
@[simp] theorem State.withPdie_tiles {s : State} {k x} : (s.withPdie k x).tiles = s.tiles := (rfl)
@[simp] theorem State.withPdie_dies {s : State} {k x} : (s.withPdie k x).dies = s.dies := (rfl)
@[simp] theorem State.withPdie_commit {s : State} {k x} : (s.withPdie k x).commit = s.commit := (rfl)
@[simp] theorem State.withPdie_blocks {s : State} {k x} : (s.withPdie k x).blocks = s.blocks := (rfl)
@[simp] theorem State.withPdie_mesh {s : State} {k x} : (s.withPdie k x).mesh = s.mesh := (rfl)
@[simp] theorem State.withPdie_ctrls {s : State} {k x} : (s.withPdie k x).ctrls = s.ctrls := (rfl)
@[simp] theorem State.withPdie_ports {s : State} {k x} : (s.withPdie k x).ports = s.ports := (rfl)
@[simp] theorem State.withPdie_voq {s : State} {k x} : (s.withPdie k x).voq = s.voq := (rfl)
@[simp] theorem State.withPdie_localQ {s : State} {k x} : (s.withPdie k x).localQ = s.localQ := (rfl)
@[simp] theorem State.withPdie_injQ {s : State} {k x} : (s.withPdie k x).injQ = s.injQ := (rfl)
@[simp] theorem State.withPdie_groups {s : State} {k x} : (s.withPdie k x).groups = s.groups := (rfl)
@[simp] theorem State.withPdie_faults {s : State} {k x} : (s.withPdie k x).faults = s.faults := (rfl)
@[simp] theorem State.withPdie_porter {s : State} {k x} : (s.withPdie k x).porter = s.porter := (rfl)
@[simp] theorem State.withPdie_sqHeld {s : State} {k x} : (s.withPdie k x).sqHeld = s.sqHeld := (rfl)
@[simp] theorem State.withPdie_trace {s : State} {k x} : (s.withPdie k x).trace = s.trace := (rfl)
@[simp] theorem State.withPdie_chks {s : State} {k x} : (s.withPdie k x).chks = s.chks := (rfl)
@[simp] theorem State.withPdie_tap {s : State} {k x} : (s.withPdie k x).tap = s.tap := (rfl)
@[simp] theorem State.withPdie_servo {s : State} {k x} : (s.withPdie k x).servo = s.servo := (rfl)
@[simp] theorem State.withPdie_reg {s : State} {k x} {b} : (s.withPdie k x).reg b = s.reg b := (rfl)
@[simp] theorem State.withPdie_fld {s : State} {k x} {b c d} : (s.withPdie k x).fld b c d = s.fld b c d := (rfl)
@[simp] theorem State.withPdie_b4 {s : State} {k x} {b} : (s.withPdie k x).b4 b = s.b4 b := (rfl)
@[simp] theorem State.withPdie_tile {s : State} {k x} {b} : (s.withPdie k x).tile b = s.tile b := (rfl)

/-! `modPdie` -/

@[simp] theorem State.modPdie_pending {s : State} {k x} : (s.modPdie k x).pending = s.pending := (rfl)
@[simp] theorem State.modPdie_out {s : State} {k x} : (s.modPdie k x).out = s.out := (rfl)
@[simp] theorem State.modPdie_clk {s : State} {k x} : (s.modPdie k x).clk = s.clk := (rfl)
@[simp] theorem State.modPdie_pins {s : State} {k x} : (s.modPdie k x).pins = s.pins := (rfl)
@[simp] theorem State.modPdie_regs {s : State} {k x} : (s.modPdie k x).regs = s.regs := (rfl)
@[simp] theorem State.modPdie_bar4 {s : State} {k x} : (s.modPdie k x).bar4 = s.bar4 := (rfl)
@[simp] theorem State.modPdie_unmasked {s : State} {k x} : (s.modPdie k x).unmasked = s.unmasked := (rfl)
@[simp] theorem State.modPdie_msixPending {s : State} {k x} : (s.modPdie k x).msixPending = s.msixPending := (rfl)
@[simp] theorem State.modPdie_tiles {s : State} {k x} : (s.modPdie k x).tiles = s.tiles := (rfl)
@[simp] theorem State.modPdie_dies {s : State} {k x} : (s.modPdie k x).dies = s.dies := (rfl)
@[simp] theorem State.modPdie_commit {s : State} {k x} : (s.modPdie k x).commit = s.commit := (rfl)
@[simp] theorem State.modPdie_blocks {s : State} {k x} : (s.modPdie k x).blocks = s.blocks := (rfl)
@[simp] theorem State.modPdie_mesh {s : State} {k x} : (s.modPdie k x).mesh = s.mesh := (rfl)
@[simp] theorem State.modPdie_ctrls {s : State} {k x} : (s.modPdie k x).ctrls = s.ctrls := (rfl)
@[simp] theorem State.modPdie_ports {s : State} {k x} : (s.modPdie k x).ports = s.ports := (rfl)
@[simp] theorem State.modPdie_voq {s : State} {k x} : (s.modPdie k x).voq = s.voq := (rfl)
@[simp] theorem State.modPdie_localQ {s : State} {k x} : (s.modPdie k x).localQ = s.localQ := (rfl)
@[simp] theorem State.modPdie_injQ {s : State} {k x} : (s.modPdie k x).injQ = s.injQ := (rfl)
@[simp] theorem State.modPdie_groups {s : State} {k x} : (s.modPdie k x).groups = s.groups := (rfl)
@[simp] theorem State.modPdie_faults {s : State} {k x} : (s.modPdie k x).faults = s.faults := (rfl)
@[simp] theorem State.modPdie_porter {s : State} {k x} : (s.modPdie k x).porter = s.porter := (rfl)
@[simp] theorem State.modPdie_sqHeld {s : State} {k x} : (s.modPdie k x).sqHeld = s.sqHeld := (rfl)
@[simp] theorem State.modPdie_trace {s : State} {k x} : (s.modPdie k x).trace = s.trace := (rfl)
@[simp] theorem State.modPdie_chks {s : State} {k x} : (s.modPdie k x).chks = s.chks := (rfl)
@[simp] theorem State.modPdie_tap {s : State} {k x} : (s.modPdie k x).tap = s.tap := (rfl)
@[simp] theorem State.modPdie_servo {s : State} {k x} : (s.modPdie k x).servo = s.servo := (rfl)
@[simp] theorem State.modPdie_reg {s : State} {k x} {b} : (s.modPdie k x).reg b = s.reg b := (rfl)
@[simp] theorem State.modPdie_fld {s : State} {k x} {b c d} : (s.modPdie k x).fld b c d = s.fld b c d := (rfl)
@[simp] theorem State.modPdie_b4 {s : State} {k x} {b} : (s.modPdie k x).b4 b = s.b4 b := (rfl)
@[simp] theorem State.modPdie_tile {s : State} {k x} {b} : (s.modPdie k x).tile b = s.tile b := (rfl)

/-! `withPort` -/

@[simp] theorem State.withPort_pending {s : State} {k x} : (s.withPort k x).pending = s.pending := (rfl)
@[simp] theorem State.withPort_out {s : State} {k x} : (s.withPort k x).out = s.out := (rfl)
@[simp] theorem State.withPort_clk {s : State} {k x} : (s.withPort k x).clk = s.clk := (rfl)
@[simp] theorem State.withPort_pins {s : State} {k x} : (s.withPort k x).pins = s.pins := (rfl)
@[simp] theorem State.withPort_regs {s : State} {k x} : (s.withPort k x).regs = s.regs := (rfl)
@[simp] theorem State.withPort_bar4 {s : State} {k x} : (s.withPort k x).bar4 = s.bar4 := (rfl)
@[simp] theorem State.withPort_unmasked {s : State} {k x} : (s.withPort k x).unmasked = s.unmasked := (rfl)
@[simp] theorem State.withPort_msixPending {s : State} {k x} : (s.withPort k x).msixPending = s.msixPending := (rfl)
@[simp] theorem State.withPort_tiles {s : State} {k x} : (s.withPort k x).tiles = s.tiles := (rfl)
@[simp] theorem State.withPort_dies {s : State} {k x} : (s.withPort k x).dies = s.dies := (rfl)
@[simp] theorem State.withPort_commit {s : State} {k x} : (s.withPort k x).commit = s.commit := (rfl)
@[simp] theorem State.withPort_blocks {s : State} {k x} : (s.withPort k x).blocks = s.blocks := (rfl)
@[simp] theorem State.withPort_mesh {s : State} {k x} : (s.withPort k x).mesh = s.mesh := (rfl)
@[simp] theorem State.withPort_ctrls {s : State} {k x} : (s.withPort k x).ctrls = s.ctrls := (rfl)
@[simp] theorem State.withPort_pdies {s : State} {k x} : (s.withPort k x).pdies = s.pdies := (rfl)
@[simp] theorem State.withPort_voq {s : State} {k x} : (s.withPort k x).voq = s.voq := (rfl)
@[simp] theorem State.withPort_localQ {s : State} {k x} : (s.withPort k x).localQ = s.localQ := (rfl)
@[simp] theorem State.withPort_injQ {s : State} {k x} : (s.withPort k x).injQ = s.injQ := (rfl)
@[simp] theorem State.withPort_groups {s : State} {k x} : (s.withPort k x).groups = s.groups := (rfl)
@[simp] theorem State.withPort_faults {s : State} {k x} : (s.withPort k x).faults = s.faults := (rfl)
@[simp] theorem State.withPort_porter {s : State} {k x} : (s.withPort k x).porter = s.porter := (rfl)
@[simp] theorem State.withPort_sqHeld {s : State} {k x} : (s.withPort k x).sqHeld = s.sqHeld := (rfl)
@[simp] theorem State.withPort_trace {s : State} {k x} : (s.withPort k x).trace = s.trace := (rfl)
@[simp] theorem State.withPort_chks {s : State} {k x} : (s.withPort k x).chks = s.chks := (rfl)
@[simp] theorem State.withPort_tap {s : State} {k x} : (s.withPort k x).tap = s.tap := (rfl)
@[simp] theorem State.withPort_servo {s : State} {k x} : (s.withPort k x).servo = s.servo := (rfl)
@[simp] theorem State.withPort_reg {s : State} {k x} {b} : (s.withPort k x).reg b = s.reg b := (rfl)
@[simp] theorem State.withPort_fld {s : State} {k x} {b c d} : (s.withPort k x).fld b c d = s.fld b c d := (rfl)
@[simp] theorem State.withPort_b4 {s : State} {k x} {b} : (s.withPort k x).b4 b = s.b4 b := (rfl)
@[simp] theorem State.withPort_tile {s : State} {k x} {b} : (s.withPort k x).tile b = s.tile b := (rfl)

/-! `modPort` -/

@[simp] theorem State.modPort_pending {s : State} {k x} : (s.modPort k x).pending = s.pending := (rfl)
@[simp] theorem State.modPort_out {s : State} {k x} : (s.modPort k x).out = s.out := (rfl)
@[simp] theorem State.modPort_clk {s : State} {k x} : (s.modPort k x).clk = s.clk := (rfl)
@[simp] theorem State.modPort_pins {s : State} {k x} : (s.modPort k x).pins = s.pins := (rfl)
@[simp] theorem State.modPort_regs {s : State} {k x} : (s.modPort k x).regs = s.regs := (rfl)
@[simp] theorem State.modPort_bar4 {s : State} {k x} : (s.modPort k x).bar4 = s.bar4 := (rfl)
@[simp] theorem State.modPort_unmasked {s : State} {k x} : (s.modPort k x).unmasked = s.unmasked := (rfl)
@[simp] theorem State.modPort_msixPending {s : State} {k x} : (s.modPort k x).msixPending = s.msixPending := (rfl)
@[simp] theorem State.modPort_tiles {s : State} {k x} : (s.modPort k x).tiles = s.tiles := (rfl)
@[simp] theorem State.modPort_dies {s : State} {k x} : (s.modPort k x).dies = s.dies := (rfl)
@[simp] theorem State.modPort_commit {s : State} {k x} : (s.modPort k x).commit = s.commit := (rfl)
@[simp] theorem State.modPort_blocks {s : State} {k x} : (s.modPort k x).blocks = s.blocks := (rfl)
@[simp] theorem State.modPort_mesh {s : State} {k x} : (s.modPort k x).mesh = s.mesh := (rfl)
@[simp] theorem State.modPort_ctrls {s : State} {k x} : (s.modPort k x).ctrls = s.ctrls := (rfl)
@[simp] theorem State.modPort_pdies {s : State} {k x} : (s.modPort k x).pdies = s.pdies := (rfl)
@[simp] theorem State.modPort_voq {s : State} {k x} : (s.modPort k x).voq = s.voq := (rfl)
@[simp] theorem State.modPort_localQ {s : State} {k x} : (s.modPort k x).localQ = s.localQ := (rfl)
@[simp] theorem State.modPort_injQ {s : State} {k x} : (s.modPort k x).injQ = s.injQ := (rfl)
@[simp] theorem State.modPort_groups {s : State} {k x} : (s.modPort k x).groups = s.groups := (rfl)
@[simp] theorem State.modPort_faults {s : State} {k x} : (s.modPort k x).faults = s.faults := (rfl)
@[simp] theorem State.modPort_porter {s : State} {k x} : (s.modPort k x).porter = s.porter := (rfl)
@[simp] theorem State.modPort_sqHeld {s : State} {k x} : (s.modPort k x).sqHeld = s.sqHeld := (rfl)
@[simp] theorem State.modPort_trace {s : State} {k x} : (s.modPort k x).trace = s.trace := (rfl)
@[simp] theorem State.modPort_chks {s : State} {k x} : (s.modPort k x).chks = s.chks := (rfl)
@[simp] theorem State.modPort_tap {s : State} {k x} : (s.modPort k x).tap = s.tap := (rfl)
@[simp] theorem State.modPort_servo {s : State} {k x} : (s.modPort k x).servo = s.servo := (rfl)
@[simp] theorem State.modPort_reg {s : State} {k x} {b} : (s.modPort k x).reg b = s.reg b := (rfl)
@[simp] theorem State.modPort_fld {s : State} {k x} {b c d} : (s.modPort k x).fld b c d = s.fld b c d := (rfl)
@[simp] theorem State.modPort_b4 {s : State} {k x} {b} : (s.modPort k x).b4 b = s.b4 b := (rfl)
@[simp] theorem State.modPort_tile {s : State} {k x} {b} : (s.modPort k x).tile b = s.tile b := (rfl)

/-! `withGroup` -/

@[simp] theorem State.withGroup_pending {s : State} {k x} : (s.withGroup k x).pending = s.pending := (rfl)
@[simp] theorem State.withGroup_out {s : State} {k x} : (s.withGroup k x).out = s.out := (rfl)
@[simp] theorem State.withGroup_clk {s : State} {k x} : (s.withGroup k x).clk = s.clk := (rfl)
@[simp] theorem State.withGroup_pins {s : State} {k x} : (s.withGroup k x).pins = s.pins := (rfl)
@[simp] theorem State.withGroup_regs {s : State} {k x} : (s.withGroup k x).regs = s.regs := (rfl)
@[simp] theorem State.withGroup_bar4 {s : State} {k x} : (s.withGroup k x).bar4 = s.bar4 := (rfl)
@[simp] theorem State.withGroup_unmasked {s : State} {k x} : (s.withGroup k x).unmasked = s.unmasked := (rfl)
@[simp] theorem State.withGroup_msixPending {s : State} {k x} : (s.withGroup k x).msixPending = s.msixPending := (rfl)
@[simp] theorem State.withGroup_tiles {s : State} {k x} : (s.withGroup k x).tiles = s.tiles := (rfl)
@[simp] theorem State.withGroup_dies {s : State} {k x} : (s.withGroup k x).dies = s.dies := (rfl)
@[simp] theorem State.withGroup_commit {s : State} {k x} : (s.withGroup k x).commit = s.commit := (rfl)
@[simp] theorem State.withGroup_blocks {s : State} {k x} : (s.withGroup k x).blocks = s.blocks := (rfl)
@[simp] theorem State.withGroup_mesh {s : State} {k x} : (s.withGroup k x).mesh = s.mesh := (rfl)
@[simp] theorem State.withGroup_ctrls {s : State} {k x} : (s.withGroup k x).ctrls = s.ctrls := (rfl)
@[simp] theorem State.withGroup_pdies {s : State} {k x} : (s.withGroup k x).pdies = s.pdies := (rfl)
@[simp] theorem State.withGroup_ports {s : State} {k x} : (s.withGroup k x).ports = s.ports := (rfl)
@[simp] theorem State.withGroup_voq {s : State} {k x} : (s.withGroup k x).voq = s.voq := (rfl)
@[simp] theorem State.withGroup_localQ {s : State} {k x} : (s.withGroup k x).localQ = s.localQ := (rfl)
@[simp] theorem State.withGroup_injQ {s : State} {k x} : (s.withGroup k x).injQ = s.injQ := (rfl)
@[simp] theorem State.withGroup_faults {s : State} {k x} : (s.withGroup k x).faults = s.faults := (rfl)
@[simp] theorem State.withGroup_porter {s : State} {k x} : (s.withGroup k x).porter = s.porter := (rfl)
@[simp] theorem State.withGroup_sqHeld {s : State} {k x} : (s.withGroup k x).sqHeld = s.sqHeld := (rfl)
@[simp] theorem State.withGroup_trace {s : State} {k x} : (s.withGroup k x).trace = s.trace := (rfl)
@[simp] theorem State.withGroup_chks {s : State} {k x} : (s.withGroup k x).chks = s.chks := (rfl)
@[simp] theorem State.withGroup_tap {s : State} {k x} : (s.withGroup k x).tap = s.tap := (rfl)
@[simp] theorem State.withGroup_servo {s : State} {k x} : (s.withGroup k x).servo = s.servo := (rfl)
@[simp] theorem State.withGroup_reg {s : State} {k x} {b} : (s.withGroup k x).reg b = s.reg b := (rfl)
@[simp] theorem State.withGroup_fld {s : State} {k x} {b c d} : (s.withGroup k x).fld b c d = s.fld b c d := (rfl)
@[simp] theorem State.withGroup_b4 {s : State} {k x} {b} : (s.withGroup k x).b4 b = s.b4 b := (rfl)
@[simp] theorem State.withGroup_tile {s : State} {k x} {b} : (s.withGroup k x).tile b = s.tile b := (rfl)

/-! `modGroup` -/

@[simp] theorem State.modGroup_pending {s : State} {k x} : (s.modGroup k x).pending = s.pending := (rfl)
@[simp] theorem State.modGroup_out {s : State} {k x} : (s.modGroup k x).out = s.out := (rfl)
@[simp] theorem State.modGroup_clk {s : State} {k x} : (s.modGroup k x).clk = s.clk := (rfl)
@[simp] theorem State.modGroup_pins {s : State} {k x} : (s.modGroup k x).pins = s.pins := (rfl)
@[simp] theorem State.modGroup_regs {s : State} {k x} : (s.modGroup k x).regs = s.regs := (rfl)
@[simp] theorem State.modGroup_bar4 {s : State} {k x} : (s.modGroup k x).bar4 = s.bar4 := (rfl)
@[simp] theorem State.modGroup_unmasked {s : State} {k x} : (s.modGroup k x).unmasked = s.unmasked := (rfl)
@[simp] theorem State.modGroup_msixPending {s : State} {k x} : (s.modGroup k x).msixPending = s.msixPending := (rfl)
@[simp] theorem State.modGroup_tiles {s : State} {k x} : (s.modGroup k x).tiles = s.tiles := (rfl)
@[simp] theorem State.modGroup_dies {s : State} {k x} : (s.modGroup k x).dies = s.dies := (rfl)
@[simp] theorem State.modGroup_commit {s : State} {k x} : (s.modGroup k x).commit = s.commit := (rfl)
@[simp] theorem State.modGroup_blocks {s : State} {k x} : (s.modGroup k x).blocks = s.blocks := (rfl)
@[simp] theorem State.modGroup_mesh {s : State} {k x} : (s.modGroup k x).mesh = s.mesh := (rfl)
@[simp] theorem State.modGroup_ctrls {s : State} {k x} : (s.modGroup k x).ctrls = s.ctrls := (rfl)
@[simp] theorem State.modGroup_pdies {s : State} {k x} : (s.modGroup k x).pdies = s.pdies := (rfl)
@[simp] theorem State.modGroup_ports {s : State} {k x} : (s.modGroup k x).ports = s.ports := (rfl)
@[simp] theorem State.modGroup_voq {s : State} {k x} : (s.modGroup k x).voq = s.voq := (rfl)
@[simp] theorem State.modGroup_localQ {s : State} {k x} : (s.modGroup k x).localQ = s.localQ := (rfl)
@[simp] theorem State.modGroup_injQ {s : State} {k x} : (s.modGroup k x).injQ = s.injQ := (rfl)
@[simp] theorem State.modGroup_faults {s : State} {k x} : (s.modGroup k x).faults = s.faults := (rfl)
@[simp] theorem State.modGroup_porter {s : State} {k x} : (s.modGroup k x).porter = s.porter := (rfl)
@[simp] theorem State.modGroup_sqHeld {s : State} {k x} : (s.modGroup k x).sqHeld = s.sqHeld := (rfl)
@[simp] theorem State.modGroup_trace {s : State} {k x} : (s.modGroup k x).trace = s.trace := (rfl)
@[simp] theorem State.modGroup_chks {s : State} {k x} : (s.modGroup k x).chks = s.chks := (rfl)
@[simp] theorem State.modGroup_tap {s : State} {k x} : (s.modGroup k x).tap = s.tap := (rfl)
@[simp] theorem State.modGroup_servo {s : State} {k x} : (s.modGroup k x).servo = s.servo := (rfl)
@[simp] theorem State.modGroup_reg {s : State} {k x} {b} : (s.modGroup k x).reg b = s.reg b := (rfl)
@[simp] theorem State.modGroup_fld {s : State} {k x} {b c d} : (s.modGroup k x).fld b c d = s.fld b c d := (rfl)
@[simp] theorem State.modGroup_b4 {s : State} {k x} {b} : (s.modGroup k x).b4 b = s.b4 b := (rfl)
@[simp] theorem State.modGroup_tile {s : State} {k x} {b} : (s.modGroup k x).tile b = s.tile b := (rfl)

/-! `withTraceUnit` -/

@[simp] theorem State.withTraceUnit_pending {s : State} {k x} : (s.withTraceUnit k x).pending = s.pending := (rfl)
@[simp] theorem State.withTraceUnit_out {s : State} {k x} : (s.withTraceUnit k x).out = s.out := (rfl)
@[simp] theorem State.withTraceUnit_clk {s : State} {k x} : (s.withTraceUnit k x).clk = s.clk := (rfl)
@[simp] theorem State.withTraceUnit_pins {s : State} {k x} : (s.withTraceUnit k x).pins = s.pins := (rfl)
@[simp] theorem State.withTraceUnit_regs {s : State} {k x} : (s.withTraceUnit k x).regs = s.regs := (rfl)
@[simp] theorem State.withTraceUnit_bar4 {s : State} {k x} : (s.withTraceUnit k x).bar4 = s.bar4 := (rfl)
@[simp] theorem State.withTraceUnit_unmasked {s : State} {k x} : (s.withTraceUnit k x).unmasked = s.unmasked := (rfl)
@[simp] theorem State.withTraceUnit_msixPending {s : State} {k x} : (s.withTraceUnit k x).msixPending = s.msixPending := (rfl)
@[simp] theorem State.withTraceUnit_tiles {s : State} {k x} : (s.withTraceUnit k x).tiles = s.tiles := (rfl)
@[simp] theorem State.withTraceUnit_dies {s : State} {k x} : (s.withTraceUnit k x).dies = s.dies := (rfl)
@[simp] theorem State.withTraceUnit_commit {s : State} {k x} : (s.withTraceUnit k x).commit = s.commit := (rfl)
@[simp] theorem State.withTraceUnit_blocks {s : State} {k x} : (s.withTraceUnit k x).blocks = s.blocks := (rfl)
@[simp] theorem State.withTraceUnit_mesh {s : State} {k x} : (s.withTraceUnit k x).mesh = s.mesh := (rfl)
@[simp] theorem State.withTraceUnit_ctrls {s : State} {k x} : (s.withTraceUnit k x).ctrls = s.ctrls := (rfl)
@[simp] theorem State.withTraceUnit_pdies {s : State} {k x} : (s.withTraceUnit k x).pdies = s.pdies := (rfl)
@[simp] theorem State.withTraceUnit_ports {s : State} {k x} : (s.withTraceUnit k x).ports = s.ports := (rfl)
@[simp] theorem State.withTraceUnit_voq {s : State} {k x} : (s.withTraceUnit k x).voq = s.voq := (rfl)
@[simp] theorem State.withTraceUnit_localQ {s : State} {k x} : (s.withTraceUnit k x).localQ = s.localQ := (rfl)
@[simp] theorem State.withTraceUnit_injQ {s : State} {k x} : (s.withTraceUnit k x).injQ = s.injQ := (rfl)
@[simp] theorem State.withTraceUnit_groups {s : State} {k x} : (s.withTraceUnit k x).groups = s.groups := (rfl)
@[simp] theorem State.withTraceUnit_faults {s : State} {k x} : (s.withTraceUnit k x).faults = s.faults := (rfl)
@[simp] theorem State.withTraceUnit_porter {s : State} {k x} : (s.withTraceUnit k x).porter = s.porter := (rfl)
@[simp] theorem State.withTraceUnit_sqHeld {s : State} {k x} : (s.withTraceUnit k x).sqHeld = s.sqHeld := (rfl)
@[simp] theorem State.withTraceUnit_chks {s : State} {k x} : (s.withTraceUnit k x).chks = s.chks := (rfl)
@[simp] theorem State.withTraceUnit_tap {s : State} {k x} : (s.withTraceUnit k x).tap = s.tap := (rfl)
@[simp] theorem State.withTraceUnit_servo {s : State} {k x} : (s.withTraceUnit k x).servo = s.servo := (rfl)
@[simp] theorem State.withTraceUnit_reg {s : State} {k x} {b} : (s.withTraceUnit k x).reg b = s.reg b := (rfl)
@[simp] theorem State.withTraceUnit_fld {s : State} {k x} {b c d} : (s.withTraceUnit k x).fld b c d = s.fld b c d := (rfl)
@[simp] theorem State.withTraceUnit_b4 {s : State} {k x} {b} : (s.withTraceUnit k x).b4 b = s.b4 b := (rfl)
@[simp] theorem State.withTraceUnit_tile {s : State} {k x} {b} : (s.withTraceUnit k x).tile b = s.tile b := (rfl)

/-! `modTraceUnit` -/

@[simp] theorem State.modTraceUnit_pending {s : State} {k x} : (s.modTraceUnit k x).pending = s.pending := (rfl)
@[simp] theorem State.modTraceUnit_out {s : State} {k x} : (s.modTraceUnit k x).out = s.out := (rfl)
@[simp] theorem State.modTraceUnit_clk {s : State} {k x} : (s.modTraceUnit k x).clk = s.clk := (rfl)
@[simp] theorem State.modTraceUnit_pins {s : State} {k x} : (s.modTraceUnit k x).pins = s.pins := (rfl)
@[simp] theorem State.modTraceUnit_regs {s : State} {k x} : (s.modTraceUnit k x).regs = s.regs := (rfl)
@[simp] theorem State.modTraceUnit_bar4 {s : State} {k x} : (s.modTraceUnit k x).bar4 = s.bar4 := (rfl)
@[simp] theorem State.modTraceUnit_unmasked {s : State} {k x} : (s.modTraceUnit k x).unmasked = s.unmasked := (rfl)
@[simp] theorem State.modTraceUnit_msixPending {s : State} {k x} : (s.modTraceUnit k x).msixPending = s.msixPending := (rfl)
@[simp] theorem State.modTraceUnit_tiles {s : State} {k x} : (s.modTraceUnit k x).tiles = s.tiles := (rfl)
@[simp] theorem State.modTraceUnit_dies {s : State} {k x} : (s.modTraceUnit k x).dies = s.dies := (rfl)
@[simp] theorem State.modTraceUnit_commit {s : State} {k x} : (s.modTraceUnit k x).commit = s.commit := (rfl)
@[simp] theorem State.modTraceUnit_blocks {s : State} {k x} : (s.modTraceUnit k x).blocks = s.blocks := (rfl)
@[simp] theorem State.modTraceUnit_mesh {s : State} {k x} : (s.modTraceUnit k x).mesh = s.mesh := (rfl)
@[simp] theorem State.modTraceUnit_ctrls {s : State} {k x} : (s.modTraceUnit k x).ctrls = s.ctrls := (rfl)
@[simp] theorem State.modTraceUnit_pdies {s : State} {k x} : (s.modTraceUnit k x).pdies = s.pdies := (rfl)
@[simp] theorem State.modTraceUnit_ports {s : State} {k x} : (s.modTraceUnit k x).ports = s.ports := (rfl)
@[simp] theorem State.modTraceUnit_voq {s : State} {k x} : (s.modTraceUnit k x).voq = s.voq := (rfl)
@[simp] theorem State.modTraceUnit_localQ {s : State} {k x} : (s.modTraceUnit k x).localQ = s.localQ := (rfl)
@[simp] theorem State.modTraceUnit_injQ {s : State} {k x} : (s.modTraceUnit k x).injQ = s.injQ := (rfl)
@[simp] theorem State.modTraceUnit_groups {s : State} {k x} : (s.modTraceUnit k x).groups = s.groups := (rfl)
@[simp] theorem State.modTraceUnit_faults {s : State} {k x} : (s.modTraceUnit k x).faults = s.faults := (rfl)
@[simp] theorem State.modTraceUnit_porter {s : State} {k x} : (s.modTraceUnit k x).porter = s.porter := (rfl)
@[simp] theorem State.modTraceUnit_sqHeld {s : State} {k x} : (s.modTraceUnit k x).sqHeld = s.sqHeld := (rfl)
@[simp] theorem State.modTraceUnit_chks {s : State} {k x} : (s.modTraceUnit k x).chks = s.chks := (rfl)
@[simp] theorem State.modTraceUnit_tap {s : State} {k x} : (s.modTraceUnit k x).tap = s.tap := (rfl)
@[simp] theorem State.modTraceUnit_servo {s : State} {k x} : (s.modTraceUnit k x).servo = s.servo := (rfl)
@[simp] theorem State.modTraceUnit_reg {s : State} {k x} {b} : (s.modTraceUnit k x).reg b = s.reg b := (rfl)
@[simp] theorem State.modTraceUnit_fld {s : State} {k x} {b c d} : (s.modTraceUnit k x).fld b c d = s.fld b c d := (rfl)
@[simp] theorem State.modTraceUnit_b4 {s : State} {k x} {b} : (s.modTraceUnit k x).b4 b = s.b4 b := (rfl)
@[simp] theorem State.modTraceUnit_tile {s : State} {k x} {b} : (s.modTraceUnit k x).tile b = s.tile b := (rfl)

/-! `withChk` -/

@[simp] theorem State.withChk_pending {s : State} {k x} : (s.withChk k x).pending = s.pending := (rfl)
@[simp] theorem State.withChk_out {s : State} {k x} : (s.withChk k x).out = s.out := (rfl)
@[simp] theorem State.withChk_clk {s : State} {k x} : (s.withChk k x).clk = s.clk := (rfl)
@[simp] theorem State.withChk_pins {s : State} {k x} : (s.withChk k x).pins = s.pins := (rfl)
@[simp] theorem State.withChk_regs {s : State} {k x} : (s.withChk k x).regs = s.regs := (rfl)
@[simp] theorem State.withChk_bar4 {s : State} {k x} : (s.withChk k x).bar4 = s.bar4 := (rfl)
@[simp] theorem State.withChk_unmasked {s : State} {k x} : (s.withChk k x).unmasked = s.unmasked := (rfl)
@[simp] theorem State.withChk_msixPending {s : State} {k x} : (s.withChk k x).msixPending = s.msixPending := (rfl)
@[simp] theorem State.withChk_tiles {s : State} {k x} : (s.withChk k x).tiles = s.tiles := (rfl)
@[simp] theorem State.withChk_dies {s : State} {k x} : (s.withChk k x).dies = s.dies := (rfl)
@[simp] theorem State.withChk_commit {s : State} {k x} : (s.withChk k x).commit = s.commit := (rfl)
@[simp] theorem State.withChk_blocks {s : State} {k x} : (s.withChk k x).blocks = s.blocks := (rfl)
@[simp] theorem State.withChk_mesh {s : State} {k x} : (s.withChk k x).mesh = s.mesh := (rfl)
@[simp] theorem State.withChk_ctrls {s : State} {k x} : (s.withChk k x).ctrls = s.ctrls := (rfl)
@[simp] theorem State.withChk_pdies {s : State} {k x} : (s.withChk k x).pdies = s.pdies := (rfl)
@[simp] theorem State.withChk_ports {s : State} {k x} : (s.withChk k x).ports = s.ports := (rfl)
@[simp] theorem State.withChk_voq {s : State} {k x} : (s.withChk k x).voq = s.voq := (rfl)
@[simp] theorem State.withChk_localQ {s : State} {k x} : (s.withChk k x).localQ = s.localQ := (rfl)
@[simp] theorem State.withChk_injQ {s : State} {k x} : (s.withChk k x).injQ = s.injQ := (rfl)
@[simp] theorem State.withChk_groups {s : State} {k x} : (s.withChk k x).groups = s.groups := (rfl)
@[simp] theorem State.withChk_faults {s : State} {k x} : (s.withChk k x).faults = s.faults := (rfl)
@[simp] theorem State.withChk_porter {s : State} {k x} : (s.withChk k x).porter = s.porter := (rfl)
@[simp] theorem State.withChk_sqHeld {s : State} {k x} : (s.withChk k x).sqHeld = s.sqHeld := (rfl)
@[simp] theorem State.withChk_trace {s : State} {k x} : (s.withChk k x).trace = s.trace := (rfl)
@[simp] theorem State.withChk_tap {s : State} {k x} : (s.withChk k x).tap = s.tap := (rfl)
@[simp] theorem State.withChk_servo {s : State} {k x} : (s.withChk k x).servo = s.servo := (rfl)
@[simp] theorem State.withChk_reg {s : State} {k x} {b} : (s.withChk k x).reg b = s.reg b := (rfl)
@[simp] theorem State.withChk_fld {s : State} {k x} {b c d} : (s.withChk k x).fld b c d = s.fld b c d := (rfl)
@[simp] theorem State.withChk_b4 {s : State} {k x} {b} : (s.withChk k x).b4 b = s.b4 b := (rfl)
@[simp] theorem State.withChk_tile {s : State} {k x} {b} : (s.withChk k x).tile b = s.tile b := (rfl)

/-! `modChk` -/

@[simp] theorem State.modChk_pending {s : State} {k x} : (s.modChk k x).pending = s.pending := (rfl)
@[simp] theorem State.modChk_out {s : State} {k x} : (s.modChk k x).out = s.out := (rfl)
@[simp] theorem State.modChk_clk {s : State} {k x} : (s.modChk k x).clk = s.clk := (rfl)
@[simp] theorem State.modChk_pins {s : State} {k x} : (s.modChk k x).pins = s.pins := (rfl)
@[simp] theorem State.modChk_regs {s : State} {k x} : (s.modChk k x).regs = s.regs := (rfl)
@[simp] theorem State.modChk_bar4 {s : State} {k x} : (s.modChk k x).bar4 = s.bar4 := (rfl)
@[simp] theorem State.modChk_unmasked {s : State} {k x} : (s.modChk k x).unmasked = s.unmasked := (rfl)
@[simp] theorem State.modChk_msixPending {s : State} {k x} : (s.modChk k x).msixPending = s.msixPending := (rfl)
@[simp] theorem State.modChk_tiles {s : State} {k x} : (s.modChk k x).tiles = s.tiles := (rfl)
@[simp] theorem State.modChk_dies {s : State} {k x} : (s.modChk k x).dies = s.dies := (rfl)
@[simp] theorem State.modChk_commit {s : State} {k x} : (s.modChk k x).commit = s.commit := (rfl)
@[simp] theorem State.modChk_blocks {s : State} {k x} : (s.modChk k x).blocks = s.blocks := (rfl)
@[simp] theorem State.modChk_mesh {s : State} {k x} : (s.modChk k x).mesh = s.mesh := (rfl)
@[simp] theorem State.modChk_ctrls {s : State} {k x} : (s.modChk k x).ctrls = s.ctrls := (rfl)
@[simp] theorem State.modChk_pdies {s : State} {k x} : (s.modChk k x).pdies = s.pdies := (rfl)
@[simp] theorem State.modChk_ports {s : State} {k x} : (s.modChk k x).ports = s.ports := (rfl)
@[simp] theorem State.modChk_voq {s : State} {k x} : (s.modChk k x).voq = s.voq := (rfl)
@[simp] theorem State.modChk_localQ {s : State} {k x} : (s.modChk k x).localQ = s.localQ := (rfl)
@[simp] theorem State.modChk_injQ {s : State} {k x} : (s.modChk k x).injQ = s.injQ := (rfl)
@[simp] theorem State.modChk_groups {s : State} {k x} : (s.modChk k x).groups = s.groups := (rfl)
@[simp] theorem State.modChk_faults {s : State} {k x} : (s.modChk k x).faults = s.faults := (rfl)
@[simp] theorem State.modChk_porter {s : State} {k x} : (s.modChk k x).porter = s.porter := (rfl)
@[simp] theorem State.modChk_sqHeld {s : State} {k x} : (s.modChk k x).sqHeld = s.sqHeld := (rfl)
@[simp] theorem State.modChk_trace {s : State} {k x} : (s.modChk k x).trace = s.trace := (rfl)
@[simp] theorem State.modChk_tap {s : State} {k x} : (s.modChk k x).tap = s.tap := (rfl)
@[simp] theorem State.modChk_servo {s : State} {k x} : (s.modChk k x).servo = s.servo := (rfl)
@[simp] theorem State.modChk_reg {s : State} {k x} {b} : (s.modChk k x).reg b = s.reg b := (rfl)
@[simp] theorem State.modChk_fld {s : State} {k x} {b c d} : (s.modChk k x).fld b c d = s.fld b c d := (rfl)
@[simp] theorem State.modChk_b4 {s : State} {k x} {b} : (s.modChk k x).b4 b = s.b4 b := (rfl)
@[simp] theorem State.modChk_tile {s : State} {k x} {b} : (s.modChk k x).tile b = s.tile b := (rfl)

/-! `withVoqOf` -/

@[simp] theorem State.withVoqOf_pending {s : State} {k x} : (s.withVoqOf k x).pending = s.pending := (rfl)
@[simp] theorem State.withVoqOf_out {s : State} {k x} : (s.withVoqOf k x).out = s.out := (rfl)
@[simp] theorem State.withVoqOf_clk {s : State} {k x} : (s.withVoqOf k x).clk = s.clk := (rfl)
@[simp] theorem State.withVoqOf_pins {s : State} {k x} : (s.withVoqOf k x).pins = s.pins := (rfl)
@[simp] theorem State.withVoqOf_regs {s : State} {k x} : (s.withVoqOf k x).regs = s.regs := (rfl)
@[simp] theorem State.withVoqOf_bar4 {s : State} {k x} : (s.withVoqOf k x).bar4 = s.bar4 := (rfl)
@[simp] theorem State.withVoqOf_unmasked {s : State} {k x} : (s.withVoqOf k x).unmasked = s.unmasked := (rfl)
@[simp] theorem State.withVoqOf_msixPending {s : State} {k x} : (s.withVoqOf k x).msixPending = s.msixPending := (rfl)
@[simp] theorem State.withVoqOf_tiles {s : State} {k x} : (s.withVoqOf k x).tiles = s.tiles := (rfl)
@[simp] theorem State.withVoqOf_dies {s : State} {k x} : (s.withVoqOf k x).dies = s.dies := (rfl)
@[simp] theorem State.withVoqOf_commit {s : State} {k x} : (s.withVoqOf k x).commit = s.commit := (rfl)
@[simp] theorem State.withVoqOf_blocks {s : State} {k x} : (s.withVoqOf k x).blocks = s.blocks := (rfl)
@[simp] theorem State.withVoqOf_mesh {s : State} {k x} : (s.withVoqOf k x).mesh = s.mesh := (rfl)
@[simp] theorem State.withVoqOf_ctrls {s : State} {k x} : (s.withVoqOf k x).ctrls = s.ctrls := (rfl)
@[simp] theorem State.withVoqOf_pdies {s : State} {k x} : (s.withVoqOf k x).pdies = s.pdies := (rfl)
@[simp] theorem State.withVoqOf_ports {s : State} {k x} : (s.withVoqOf k x).ports = s.ports := (rfl)
@[simp] theorem State.withVoqOf_localQ {s : State} {k x} : (s.withVoqOf k x).localQ = s.localQ := (rfl)
@[simp] theorem State.withVoqOf_injQ {s : State} {k x} : (s.withVoqOf k x).injQ = s.injQ := (rfl)
@[simp] theorem State.withVoqOf_groups {s : State} {k x} : (s.withVoqOf k x).groups = s.groups := (rfl)
@[simp] theorem State.withVoqOf_faults {s : State} {k x} : (s.withVoqOf k x).faults = s.faults := (rfl)
@[simp] theorem State.withVoqOf_porter {s : State} {k x} : (s.withVoqOf k x).porter = s.porter := (rfl)
@[simp] theorem State.withVoqOf_sqHeld {s : State} {k x} : (s.withVoqOf k x).sqHeld = s.sqHeld := (rfl)
@[simp] theorem State.withVoqOf_trace {s : State} {k x} : (s.withVoqOf k x).trace = s.trace := (rfl)
@[simp] theorem State.withVoqOf_chks {s : State} {k x} : (s.withVoqOf k x).chks = s.chks := (rfl)
@[simp] theorem State.withVoqOf_tap {s : State} {k x} : (s.withVoqOf k x).tap = s.tap := (rfl)
@[simp] theorem State.withVoqOf_servo {s : State} {k x} : (s.withVoqOf k x).servo = s.servo := (rfl)
@[simp] theorem State.withVoqOf_reg {s : State} {k x} {b} : (s.withVoqOf k x).reg b = s.reg b := (rfl)
@[simp] theorem State.withVoqOf_fld {s : State} {k x} {b c d} : (s.withVoqOf k x).fld b c d = s.fld b c d := (rfl)
@[simp] theorem State.withVoqOf_b4 {s : State} {k x} {b} : (s.withVoqOf k x).b4 b = s.b4 b := (rfl)
@[simp] theorem State.withVoqOf_tile {s : State} {k x} {b} : (s.withVoqOf k x).tile b = s.tile b := (rfl)

/-! `modVoqOf` -/

@[simp] theorem State.modVoqOf_pending {s : State} {k x} : (s.modVoqOf k x).pending = s.pending := (rfl)
@[simp] theorem State.modVoqOf_out {s : State} {k x} : (s.modVoqOf k x).out = s.out := (rfl)
@[simp] theorem State.modVoqOf_clk {s : State} {k x} : (s.modVoqOf k x).clk = s.clk := (rfl)
@[simp] theorem State.modVoqOf_pins {s : State} {k x} : (s.modVoqOf k x).pins = s.pins := (rfl)
@[simp] theorem State.modVoqOf_regs {s : State} {k x} : (s.modVoqOf k x).regs = s.regs := (rfl)
@[simp] theorem State.modVoqOf_bar4 {s : State} {k x} : (s.modVoqOf k x).bar4 = s.bar4 := (rfl)
@[simp] theorem State.modVoqOf_unmasked {s : State} {k x} : (s.modVoqOf k x).unmasked = s.unmasked := (rfl)
@[simp] theorem State.modVoqOf_msixPending {s : State} {k x} : (s.modVoqOf k x).msixPending = s.msixPending := (rfl)
@[simp] theorem State.modVoqOf_tiles {s : State} {k x} : (s.modVoqOf k x).tiles = s.tiles := (rfl)
@[simp] theorem State.modVoqOf_dies {s : State} {k x} : (s.modVoqOf k x).dies = s.dies := (rfl)
@[simp] theorem State.modVoqOf_commit {s : State} {k x} : (s.modVoqOf k x).commit = s.commit := (rfl)
@[simp] theorem State.modVoqOf_blocks {s : State} {k x} : (s.modVoqOf k x).blocks = s.blocks := (rfl)
@[simp] theorem State.modVoqOf_mesh {s : State} {k x} : (s.modVoqOf k x).mesh = s.mesh := (rfl)
@[simp] theorem State.modVoqOf_ctrls {s : State} {k x} : (s.modVoqOf k x).ctrls = s.ctrls := (rfl)
@[simp] theorem State.modVoqOf_pdies {s : State} {k x} : (s.modVoqOf k x).pdies = s.pdies := (rfl)
@[simp] theorem State.modVoqOf_ports {s : State} {k x} : (s.modVoqOf k x).ports = s.ports := (rfl)
@[simp] theorem State.modVoqOf_localQ {s : State} {k x} : (s.modVoqOf k x).localQ = s.localQ := (rfl)
@[simp] theorem State.modVoqOf_injQ {s : State} {k x} : (s.modVoqOf k x).injQ = s.injQ := (rfl)
@[simp] theorem State.modVoqOf_groups {s : State} {k x} : (s.modVoqOf k x).groups = s.groups := (rfl)
@[simp] theorem State.modVoqOf_faults {s : State} {k x} : (s.modVoqOf k x).faults = s.faults := (rfl)
@[simp] theorem State.modVoqOf_porter {s : State} {k x} : (s.modVoqOf k x).porter = s.porter := (rfl)
@[simp] theorem State.modVoqOf_sqHeld {s : State} {k x} : (s.modVoqOf k x).sqHeld = s.sqHeld := (rfl)
@[simp] theorem State.modVoqOf_trace {s : State} {k x} : (s.modVoqOf k x).trace = s.trace := (rfl)
@[simp] theorem State.modVoqOf_chks {s : State} {k x} : (s.modVoqOf k x).chks = s.chks := (rfl)
@[simp] theorem State.modVoqOf_tap {s : State} {k x} : (s.modVoqOf k x).tap = s.tap := (rfl)
@[simp] theorem State.modVoqOf_servo {s : State} {k x} : (s.modVoqOf k x).servo = s.servo := (rfl)
@[simp] theorem State.modVoqOf_reg {s : State} {k x} {b} : (s.modVoqOf k x).reg b = s.reg b := (rfl)
@[simp] theorem State.modVoqOf_fld {s : State} {k x} {b c d} : (s.modVoqOf k x).fld b c d = s.fld b c d := (rfl)
@[simp] theorem State.modVoqOf_b4 {s : State} {k x} {b} : (s.modVoqOf k x).b4 b = s.b4 b := (rfl)
@[simp] theorem State.modVoqOf_tile {s : State} {k x} {b} : (s.modVoqOf k x).tile b = s.tile b := (rfl)

/-! `withLocalOf` -/

@[simp] theorem State.withLocalOf_pending {s : State} {k x} : (s.withLocalOf k x).pending = s.pending := (rfl)
@[simp] theorem State.withLocalOf_out {s : State} {k x} : (s.withLocalOf k x).out = s.out := (rfl)
@[simp] theorem State.withLocalOf_clk {s : State} {k x} : (s.withLocalOf k x).clk = s.clk := (rfl)
@[simp] theorem State.withLocalOf_pins {s : State} {k x} : (s.withLocalOf k x).pins = s.pins := (rfl)
@[simp] theorem State.withLocalOf_regs {s : State} {k x} : (s.withLocalOf k x).regs = s.regs := (rfl)
@[simp] theorem State.withLocalOf_bar4 {s : State} {k x} : (s.withLocalOf k x).bar4 = s.bar4 := (rfl)
@[simp] theorem State.withLocalOf_unmasked {s : State} {k x} : (s.withLocalOf k x).unmasked = s.unmasked := (rfl)
@[simp] theorem State.withLocalOf_msixPending {s : State} {k x} : (s.withLocalOf k x).msixPending = s.msixPending := (rfl)
@[simp] theorem State.withLocalOf_tiles {s : State} {k x} : (s.withLocalOf k x).tiles = s.tiles := (rfl)
@[simp] theorem State.withLocalOf_dies {s : State} {k x} : (s.withLocalOf k x).dies = s.dies := (rfl)
@[simp] theorem State.withLocalOf_commit {s : State} {k x} : (s.withLocalOf k x).commit = s.commit := (rfl)
@[simp] theorem State.withLocalOf_blocks {s : State} {k x} : (s.withLocalOf k x).blocks = s.blocks := (rfl)
@[simp] theorem State.withLocalOf_mesh {s : State} {k x} : (s.withLocalOf k x).mesh = s.mesh := (rfl)
@[simp] theorem State.withLocalOf_ctrls {s : State} {k x} : (s.withLocalOf k x).ctrls = s.ctrls := (rfl)
@[simp] theorem State.withLocalOf_pdies {s : State} {k x} : (s.withLocalOf k x).pdies = s.pdies := (rfl)
@[simp] theorem State.withLocalOf_ports {s : State} {k x} : (s.withLocalOf k x).ports = s.ports := (rfl)
@[simp] theorem State.withLocalOf_voq {s : State} {k x} : (s.withLocalOf k x).voq = s.voq := (rfl)
@[simp] theorem State.withLocalOf_injQ {s : State} {k x} : (s.withLocalOf k x).injQ = s.injQ := (rfl)
@[simp] theorem State.withLocalOf_groups {s : State} {k x} : (s.withLocalOf k x).groups = s.groups := (rfl)
@[simp] theorem State.withLocalOf_faults {s : State} {k x} : (s.withLocalOf k x).faults = s.faults := (rfl)
@[simp] theorem State.withLocalOf_porter {s : State} {k x} : (s.withLocalOf k x).porter = s.porter := (rfl)
@[simp] theorem State.withLocalOf_sqHeld {s : State} {k x} : (s.withLocalOf k x).sqHeld = s.sqHeld := (rfl)
@[simp] theorem State.withLocalOf_trace {s : State} {k x} : (s.withLocalOf k x).trace = s.trace := (rfl)
@[simp] theorem State.withLocalOf_chks {s : State} {k x} : (s.withLocalOf k x).chks = s.chks := (rfl)
@[simp] theorem State.withLocalOf_tap {s : State} {k x} : (s.withLocalOf k x).tap = s.tap := (rfl)
@[simp] theorem State.withLocalOf_servo {s : State} {k x} : (s.withLocalOf k x).servo = s.servo := (rfl)
@[simp] theorem State.withLocalOf_reg {s : State} {k x} {b} : (s.withLocalOf k x).reg b = s.reg b := (rfl)
@[simp] theorem State.withLocalOf_fld {s : State} {k x} {b c d} : (s.withLocalOf k x).fld b c d = s.fld b c d := (rfl)
@[simp] theorem State.withLocalOf_b4 {s : State} {k x} {b} : (s.withLocalOf k x).b4 b = s.b4 b := (rfl)
@[simp] theorem State.withLocalOf_tile {s : State} {k x} {b} : (s.withLocalOf k x).tile b = s.tile b := (rfl)

/-! `modLocalOf` -/

@[simp] theorem State.modLocalOf_pending {s : State} {k x} : (s.modLocalOf k x).pending = s.pending := (rfl)
@[simp] theorem State.modLocalOf_out {s : State} {k x} : (s.modLocalOf k x).out = s.out := (rfl)
@[simp] theorem State.modLocalOf_clk {s : State} {k x} : (s.modLocalOf k x).clk = s.clk := (rfl)
@[simp] theorem State.modLocalOf_pins {s : State} {k x} : (s.modLocalOf k x).pins = s.pins := (rfl)
@[simp] theorem State.modLocalOf_regs {s : State} {k x} : (s.modLocalOf k x).regs = s.regs := (rfl)
@[simp] theorem State.modLocalOf_bar4 {s : State} {k x} : (s.modLocalOf k x).bar4 = s.bar4 := (rfl)
@[simp] theorem State.modLocalOf_unmasked {s : State} {k x} : (s.modLocalOf k x).unmasked = s.unmasked := (rfl)
@[simp] theorem State.modLocalOf_msixPending {s : State} {k x} : (s.modLocalOf k x).msixPending = s.msixPending := (rfl)
@[simp] theorem State.modLocalOf_tiles {s : State} {k x} : (s.modLocalOf k x).tiles = s.tiles := (rfl)
@[simp] theorem State.modLocalOf_dies {s : State} {k x} : (s.modLocalOf k x).dies = s.dies := (rfl)
@[simp] theorem State.modLocalOf_commit {s : State} {k x} : (s.modLocalOf k x).commit = s.commit := (rfl)
@[simp] theorem State.modLocalOf_blocks {s : State} {k x} : (s.modLocalOf k x).blocks = s.blocks := (rfl)
@[simp] theorem State.modLocalOf_mesh {s : State} {k x} : (s.modLocalOf k x).mesh = s.mesh := (rfl)
@[simp] theorem State.modLocalOf_ctrls {s : State} {k x} : (s.modLocalOf k x).ctrls = s.ctrls := (rfl)
@[simp] theorem State.modLocalOf_pdies {s : State} {k x} : (s.modLocalOf k x).pdies = s.pdies := (rfl)
@[simp] theorem State.modLocalOf_ports {s : State} {k x} : (s.modLocalOf k x).ports = s.ports := (rfl)
@[simp] theorem State.modLocalOf_voq {s : State} {k x} : (s.modLocalOf k x).voq = s.voq := (rfl)
@[simp] theorem State.modLocalOf_injQ {s : State} {k x} : (s.modLocalOf k x).injQ = s.injQ := (rfl)
@[simp] theorem State.modLocalOf_groups {s : State} {k x} : (s.modLocalOf k x).groups = s.groups := (rfl)
@[simp] theorem State.modLocalOf_faults {s : State} {k x} : (s.modLocalOf k x).faults = s.faults := (rfl)
@[simp] theorem State.modLocalOf_porter {s : State} {k x} : (s.modLocalOf k x).porter = s.porter := (rfl)
@[simp] theorem State.modLocalOf_sqHeld {s : State} {k x} : (s.modLocalOf k x).sqHeld = s.sqHeld := (rfl)
@[simp] theorem State.modLocalOf_trace {s : State} {k x} : (s.modLocalOf k x).trace = s.trace := (rfl)
@[simp] theorem State.modLocalOf_chks {s : State} {k x} : (s.modLocalOf k x).chks = s.chks := (rfl)
@[simp] theorem State.modLocalOf_tap {s : State} {k x} : (s.modLocalOf k x).tap = s.tap := (rfl)
@[simp] theorem State.modLocalOf_servo {s : State} {k x} : (s.modLocalOf k x).servo = s.servo := (rfl)
@[simp] theorem State.modLocalOf_reg {s : State} {k x} {b} : (s.modLocalOf k x).reg b = s.reg b := (rfl)
@[simp] theorem State.modLocalOf_fld {s : State} {k x} {b c d} : (s.modLocalOf k x).fld b c d = s.fld b c d := (rfl)
@[simp] theorem State.modLocalOf_b4 {s : State} {k x} {b} : (s.modLocalOf k x).b4 b = s.b4 b := (rfl)
@[simp] theorem State.modLocalOf_tile {s : State} {k x} {b} : (s.modLocalOf k x).tile b = s.tile b := (rfl)

/-! `withInjOf` -/

@[simp] theorem State.withInjOf_pending {s : State} {k x} : (s.withInjOf k x).pending = s.pending := (rfl)
@[simp] theorem State.withInjOf_out {s : State} {k x} : (s.withInjOf k x).out = s.out := (rfl)
@[simp] theorem State.withInjOf_clk {s : State} {k x} : (s.withInjOf k x).clk = s.clk := (rfl)
@[simp] theorem State.withInjOf_pins {s : State} {k x} : (s.withInjOf k x).pins = s.pins := (rfl)
@[simp] theorem State.withInjOf_regs {s : State} {k x} : (s.withInjOf k x).regs = s.regs := (rfl)
@[simp] theorem State.withInjOf_bar4 {s : State} {k x} : (s.withInjOf k x).bar4 = s.bar4 := (rfl)
@[simp] theorem State.withInjOf_unmasked {s : State} {k x} : (s.withInjOf k x).unmasked = s.unmasked := (rfl)
@[simp] theorem State.withInjOf_msixPending {s : State} {k x} : (s.withInjOf k x).msixPending = s.msixPending := (rfl)
@[simp] theorem State.withInjOf_tiles {s : State} {k x} : (s.withInjOf k x).tiles = s.tiles := (rfl)
@[simp] theorem State.withInjOf_dies {s : State} {k x} : (s.withInjOf k x).dies = s.dies := (rfl)
@[simp] theorem State.withInjOf_commit {s : State} {k x} : (s.withInjOf k x).commit = s.commit := (rfl)
@[simp] theorem State.withInjOf_blocks {s : State} {k x} : (s.withInjOf k x).blocks = s.blocks := (rfl)
@[simp] theorem State.withInjOf_mesh {s : State} {k x} : (s.withInjOf k x).mesh = s.mesh := (rfl)
@[simp] theorem State.withInjOf_ctrls {s : State} {k x} : (s.withInjOf k x).ctrls = s.ctrls := (rfl)
@[simp] theorem State.withInjOf_pdies {s : State} {k x} : (s.withInjOf k x).pdies = s.pdies := (rfl)
@[simp] theorem State.withInjOf_ports {s : State} {k x} : (s.withInjOf k x).ports = s.ports := (rfl)
@[simp] theorem State.withInjOf_voq {s : State} {k x} : (s.withInjOf k x).voq = s.voq := (rfl)
@[simp] theorem State.withInjOf_localQ {s : State} {k x} : (s.withInjOf k x).localQ = s.localQ := (rfl)
@[simp] theorem State.withInjOf_groups {s : State} {k x} : (s.withInjOf k x).groups = s.groups := (rfl)
@[simp] theorem State.withInjOf_faults {s : State} {k x} : (s.withInjOf k x).faults = s.faults := (rfl)
@[simp] theorem State.withInjOf_porter {s : State} {k x} : (s.withInjOf k x).porter = s.porter := (rfl)
@[simp] theorem State.withInjOf_sqHeld {s : State} {k x} : (s.withInjOf k x).sqHeld = s.sqHeld := (rfl)
@[simp] theorem State.withInjOf_trace {s : State} {k x} : (s.withInjOf k x).trace = s.trace := (rfl)
@[simp] theorem State.withInjOf_chks {s : State} {k x} : (s.withInjOf k x).chks = s.chks := (rfl)
@[simp] theorem State.withInjOf_tap {s : State} {k x} : (s.withInjOf k x).tap = s.tap := (rfl)
@[simp] theorem State.withInjOf_servo {s : State} {k x} : (s.withInjOf k x).servo = s.servo := (rfl)
@[simp] theorem State.withInjOf_reg {s : State} {k x} {b} : (s.withInjOf k x).reg b = s.reg b := (rfl)
@[simp] theorem State.withInjOf_fld {s : State} {k x} {b c d} : (s.withInjOf k x).fld b c d = s.fld b c d := (rfl)
@[simp] theorem State.withInjOf_b4 {s : State} {k x} {b} : (s.withInjOf k x).b4 b = s.b4 b := (rfl)
@[simp] theorem State.withInjOf_tile {s : State} {k x} {b} : (s.withInjOf k x).tile b = s.tile b := (rfl)

/-! `modInjOf` -/

@[simp] theorem State.modInjOf_pending {s : State} {k x} : (s.modInjOf k x).pending = s.pending := (rfl)
@[simp] theorem State.modInjOf_out {s : State} {k x} : (s.modInjOf k x).out = s.out := (rfl)
@[simp] theorem State.modInjOf_clk {s : State} {k x} : (s.modInjOf k x).clk = s.clk := (rfl)
@[simp] theorem State.modInjOf_pins {s : State} {k x} : (s.modInjOf k x).pins = s.pins := (rfl)
@[simp] theorem State.modInjOf_regs {s : State} {k x} : (s.modInjOf k x).regs = s.regs := (rfl)
@[simp] theorem State.modInjOf_bar4 {s : State} {k x} : (s.modInjOf k x).bar4 = s.bar4 := (rfl)
@[simp] theorem State.modInjOf_unmasked {s : State} {k x} : (s.modInjOf k x).unmasked = s.unmasked := (rfl)
@[simp] theorem State.modInjOf_msixPending {s : State} {k x} : (s.modInjOf k x).msixPending = s.msixPending := (rfl)
@[simp] theorem State.modInjOf_tiles {s : State} {k x} : (s.modInjOf k x).tiles = s.tiles := (rfl)
@[simp] theorem State.modInjOf_dies {s : State} {k x} : (s.modInjOf k x).dies = s.dies := (rfl)
@[simp] theorem State.modInjOf_commit {s : State} {k x} : (s.modInjOf k x).commit = s.commit := (rfl)
@[simp] theorem State.modInjOf_blocks {s : State} {k x} : (s.modInjOf k x).blocks = s.blocks := (rfl)
@[simp] theorem State.modInjOf_mesh {s : State} {k x} : (s.modInjOf k x).mesh = s.mesh := (rfl)
@[simp] theorem State.modInjOf_ctrls {s : State} {k x} : (s.modInjOf k x).ctrls = s.ctrls := (rfl)
@[simp] theorem State.modInjOf_pdies {s : State} {k x} : (s.modInjOf k x).pdies = s.pdies := (rfl)
@[simp] theorem State.modInjOf_ports {s : State} {k x} : (s.modInjOf k x).ports = s.ports := (rfl)
@[simp] theorem State.modInjOf_voq {s : State} {k x} : (s.modInjOf k x).voq = s.voq := (rfl)
@[simp] theorem State.modInjOf_localQ {s : State} {k x} : (s.modInjOf k x).localQ = s.localQ := (rfl)
@[simp] theorem State.modInjOf_groups {s : State} {k x} : (s.modInjOf k x).groups = s.groups := (rfl)
@[simp] theorem State.modInjOf_faults {s : State} {k x} : (s.modInjOf k x).faults = s.faults := (rfl)
@[simp] theorem State.modInjOf_porter {s : State} {k x} : (s.modInjOf k x).porter = s.porter := (rfl)
@[simp] theorem State.modInjOf_sqHeld {s : State} {k x} : (s.modInjOf k x).sqHeld = s.sqHeld := (rfl)
@[simp] theorem State.modInjOf_trace {s : State} {k x} : (s.modInjOf k x).trace = s.trace := (rfl)
@[simp] theorem State.modInjOf_chks {s : State} {k x} : (s.modInjOf k x).chks = s.chks := (rfl)
@[simp] theorem State.modInjOf_tap {s : State} {k x} : (s.modInjOf k x).tap = s.tap := (rfl)
@[simp] theorem State.modInjOf_servo {s : State} {k x} : (s.modInjOf k x).servo = s.servo := (rfl)
@[simp] theorem State.modInjOf_reg {s : State} {k x} {b} : (s.modInjOf k x).reg b = s.reg b := (rfl)
@[simp] theorem State.modInjOf_fld {s : State} {k x} {b c d} : (s.modInjOf k x).fld b c d = s.fld b c d := (rfl)
@[simp] theorem State.modInjOf_b4 {s : State} {k x} {b} : (s.modInjOf k x).b4 b = s.b4 b := (rfl)
@[simp] theorem State.modInjOf_tile {s : State} {k x} {b} : (s.modInjOf k x).tile b = s.tile b := (rfl)

/-! `emit` -/

@[simp] theorem State.emit_pending {s : State} {x} : (s.emit x).pending = s.pending := (rfl)
@[simp] theorem State.emit_clk {s : State} {x} : (s.emit x).clk = s.clk := (rfl)
@[simp] theorem State.emit_pins {s : State} {x} : (s.emit x).pins = s.pins := (rfl)
@[simp] theorem State.emit_regs {s : State} {x} : (s.emit x).regs = s.regs := (rfl)
@[simp] theorem State.emit_bar4 {s : State} {x} : (s.emit x).bar4 = s.bar4 := (rfl)
@[simp] theorem State.emit_unmasked {s : State} {x} : (s.emit x).unmasked = s.unmasked := (rfl)
@[simp] theorem State.emit_msixPending {s : State} {x} : (s.emit x).msixPending = s.msixPending := (rfl)
@[simp] theorem State.emit_tiles {s : State} {x} : (s.emit x).tiles = s.tiles := (rfl)
@[simp] theorem State.emit_dies {s : State} {x} : (s.emit x).dies = s.dies := (rfl)
@[simp] theorem State.emit_commit {s : State} {x} : (s.emit x).commit = s.commit := (rfl)
@[simp] theorem State.emit_blocks {s : State} {x} : (s.emit x).blocks = s.blocks := (rfl)
@[simp] theorem State.emit_mesh {s : State} {x} : (s.emit x).mesh = s.mesh := (rfl)
@[simp] theorem State.emit_ctrls {s : State} {x} : (s.emit x).ctrls = s.ctrls := (rfl)
@[simp] theorem State.emit_pdies {s : State} {x} : (s.emit x).pdies = s.pdies := (rfl)
@[simp] theorem State.emit_ports {s : State} {x} : (s.emit x).ports = s.ports := (rfl)
@[simp] theorem State.emit_voq {s : State} {x} : (s.emit x).voq = s.voq := (rfl)
@[simp] theorem State.emit_localQ {s : State} {x} : (s.emit x).localQ = s.localQ := (rfl)
@[simp] theorem State.emit_injQ {s : State} {x} : (s.emit x).injQ = s.injQ := (rfl)
@[simp] theorem State.emit_groups {s : State} {x} : (s.emit x).groups = s.groups := (rfl)
@[simp] theorem State.emit_faults {s : State} {x} : (s.emit x).faults = s.faults := (rfl)
@[simp] theorem State.emit_porter {s : State} {x} : (s.emit x).porter = s.porter := (rfl)
@[simp] theorem State.emit_sqHeld {s : State} {x} : (s.emit x).sqHeld = s.sqHeld := (rfl)
@[simp] theorem State.emit_trace {s : State} {x} : (s.emit x).trace = s.trace := (rfl)
@[simp] theorem State.emit_chks {s : State} {x} : (s.emit x).chks = s.chks := (rfl)
@[simp] theorem State.emit_tap {s : State} {x} : (s.emit x).tap = s.tap := (rfl)
@[simp] theorem State.emit_servo {s : State} {x} : (s.emit x).servo = s.servo := (rfl)
@[simp] theorem State.emit_reg {s : State} {x} {b} : (s.emit x).reg b = s.reg b := (rfl)
@[simp] theorem State.emit_fld {s : State} {x} {b c d} : (s.emit x).fld b c d = s.fld b c d := (rfl)
@[simp] theorem State.emit_b4 {s : State} {x} {b} : (s.emit x).b4 b = s.b4 b := (rfl)
@[simp] theorem State.emit_tile {s : State} {x} {b} : (s.emit x).tile b = s.tile b := (rfl)

/-! `withReg` -/

@[simp] theorem State.withReg_pending {s : State} {k x} : (s.withReg k x).pending = s.pending := (rfl)
@[simp] theorem State.withReg_out {s : State} {k x} : (s.withReg k x).out = s.out := (rfl)
@[simp] theorem State.withReg_clk {s : State} {k x} : (s.withReg k x).clk = s.clk := (rfl)
@[simp] theorem State.withReg_pins {s : State} {k x} : (s.withReg k x).pins = s.pins := (rfl)
@[simp] theorem State.withReg_bar4 {s : State} {k x} : (s.withReg k x).bar4 = s.bar4 := (rfl)
@[simp] theorem State.withReg_unmasked {s : State} {k x} : (s.withReg k x).unmasked = s.unmasked := (rfl)
@[simp] theorem State.withReg_msixPending {s : State} {k x} : (s.withReg k x).msixPending = s.msixPending := (rfl)
@[simp] theorem State.withReg_tiles {s : State} {k x} : (s.withReg k x).tiles = s.tiles := (rfl)
@[simp] theorem State.withReg_dies {s : State} {k x} : (s.withReg k x).dies = s.dies := (rfl)
@[simp] theorem State.withReg_commit {s : State} {k x} : (s.withReg k x).commit = s.commit := (rfl)
@[simp] theorem State.withReg_blocks {s : State} {k x} : (s.withReg k x).blocks = s.blocks := (rfl)
@[simp] theorem State.withReg_mesh {s : State} {k x} : (s.withReg k x).mesh = s.mesh := (rfl)
@[simp] theorem State.withReg_ctrls {s : State} {k x} : (s.withReg k x).ctrls = s.ctrls := (rfl)
@[simp] theorem State.withReg_pdies {s : State} {k x} : (s.withReg k x).pdies = s.pdies := (rfl)
@[simp] theorem State.withReg_ports {s : State} {k x} : (s.withReg k x).ports = s.ports := (rfl)
@[simp] theorem State.withReg_voq {s : State} {k x} : (s.withReg k x).voq = s.voq := (rfl)
@[simp] theorem State.withReg_localQ {s : State} {k x} : (s.withReg k x).localQ = s.localQ := (rfl)
@[simp] theorem State.withReg_injQ {s : State} {k x} : (s.withReg k x).injQ = s.injQ := (rfl)
@[simp] theorem State.withReg_groups {s : State} {k x} : (s.withReg k x).groups = s.groups := (rfl)
@[simp] theorem State.withReg_faults {s : State} {k x} : (s.withReg k x).faults = s.faults := (rfl)
@[simp] theorem State.withReg_porter {s : State} {k x} : (s.withReg k x).porter = s.porter := (rfl)
@[simp] theorem State.withReg_sqHeld {s : State} {k x} : (s.withReg k x).sqHeld = s.sqHeld := (rfl)
@[simp] theorem State.withReg_trace {s : State} {k x} : (s.withReg k x).trace = s.trace := (rfl)
@[simp] theorem State.withReg_chks {s : State} {k x} : (s.withReg k x).chks = s.chks := (rfl)
@[simp] theorem State.withReg_tap {s : State} {k x} : (s.withReg k x).tap = s.tap := (rfl)
@[simp] theorem State.withReg_servo {s : State} {k x} : (s.withReg k x).servo = s.servo := (rfl)
@[simp] theorem State.withReg_b4 {s : State} {k x} {b} : (s.withReg k x).b4 b = s.b4 b := (rfl)
@[simp] theorem State.withReg_tile {s : State} {k x} {b} : (s.withReg k x).tile b = s.tile b := (rfl)

/-! `withFld` -/

@[simp] theorem State.withFld_pending {s : State} {a hi lo v} : (s.withFld a hi lo v).pending = s.pending := (rfl)
@[simp] theorem State.withFld_out {s : State} {a hi lo v} : (s.withFld a hi lo v).out = s.out := (rfl)
@[simp] theorem State.withFld_clk {s : State} {a hi lo v} : (s.withFld a hi lo v).clk = s.clk := (rfl)
@[simp] theorem State.withFld_pins {s : State} {a hi lo v} : (s.withFld a hi lo v).pins = s.pins := (rfl)
@[simp] theorem State.withFld_bar4 {s : State} {a hi lo v} : (s.withFld a hi lo v).bar4 = s.bar4 := (rfl)
@[simp] theorem State.withFld_unmasked {s : State} {a hi lo v} : (s.withFld a hi lo v).unmasked = s.unmasked := (rfl)
@[simp] theorem State.withFld_msixPending {s : State} {a hi lo v} : (s.withFld a hi lo v).msixPending = s.msixPending := (rfl)
@[simp] theorem State.withFld_tiles {s : State} {a hi lo v} : (s.withFld a hi lo v).tiles = s.tiles := (rfl)
@[simp] theorem State.withFld_dies {s : State} {a hi lo v} : (s.withFld a hi lo v).dies = s.dies := (rfl)
@[simp] theorem State.withFld_commit {s : State} {a hi lo v} : (s.withFld a hi lo v).commit = s.commit := (rfl)
@[simp] theorem State.withFld_blocks {s : State} {a hi lo v} : (s.withFld a hi lo v).blocks = s.blocks := (rfl)
@[simp] theorem State.withFld_mesh {s : State} {a hi lo v} : (s.withFld a hi lo v).mesh = s.mesh := (rfl)
@[simp] theorem State.withFld_ctrls {s : State} {a hi lo v} : (s.withFld a hi lo v).ctrls = s.ctrls := (rfl)
@[simp] theorem State.withFld_pdies {s : State} {a hi lo v} : (s.withFld a hi lo v).pdies = s.pdies := (rfl)
@[simp] theorem State.withFld_ports {s : State} {a hi lo v} : (s.withFld a hi lo v).ports = s.ports := (rfl)
@[simp] theorem State.withFld_voq {s : State} {a hi lo v} : (s.withFld a hi lo v).voq = s.voq := (rfl)
@[simp] theorem State.withFld_localQ {s : State} {a hi lo v} : (s.withFld a hi lo v).localQ = s.localQ := (rfl)
@[simp] theorem State.withFld_injQ {s : State} {a hi lo v} : (s.withFld a hi lo v).injQ = s.injQ := (rfl)
@[simp] theorem State.withFld_groups {s : State} {a hi lo v} : (s.withFld a hi lo v).groups = s.groups := (rfl)
@[simp] theorem State.withFld_faults {s : State} {a hi lo v} : (s.withFld a hi lo v).faults = s.faults := (rfl)
@[simp] theorem State.withFld_porter {s : State} {a hi lo v} : (s.withFld a hi lo v).porter = s.porter := (rfl)
@[simp] theorem State.withFld_sqHeld {s : State} {a hi lo v} : (s.withFld a hi lo v).sqHeld = s.sqHeld := (rfl)
@[simp] theorem State.withFld_trace {s : State} {a hi lo v} : (s.withFld a hi lo v).trace = s.trace := (rfl)
@[simp] theorem State.withFld_chks {s : State} {a hi lo v} : (s.withFld a hi lo v).chks = s.chks := (rfl)
@[simp] theorem State.withFld_tap {s : State} {a hi lo v} : (s.withFld a hi lo v).tap = s.tap := (rfl)
@[simp] theorem State.withFld_servo {s : State} {a hi lo v} : (s.withFld a hi lo v).servo = s.servo := (rfl)
@[simp] theorem State.withFld_b4 {s : State} {a hi lo v} {b} : (s.withFld a hi lo v).b4 b = s.b4 b := (rfl)
@[simp] theorem State.withFld_tile {s : State} {a hi lo v} {b} : (s.withFld a hi lo v).tile b = s.tile b := (rfl)

/-! `withB4` -/

@[simp] theorem State.withB4_pending {s : State} {k x} : (s.withB4 k x).pending = s.pending := (rfl)
@[simp] theorem State.withB4_out {s : State} {k x} : (s.withB4 k x).out = s.out := (rfl)
@[simp] theorem State.withB4_clk {s : State} {k x} : (s.withB4 k x).clk = s.clk := (rfl)
@[simp] theorem State.withB4_pins {s : State} {k x} : (s.withB4 k x).pins = s.pins := (rfl)
@[simp] theorem State.withB4_regs {s : State} {k x} : (s.withB4 k x).regs = s.regs := (rfl)
@[simp] theorem State.withB4_unmasked {s : State} {k x} : (s.withB4 k x).unmasked = s.unmasked := (rfl)
@[simp] theorem State.withB4_msixPending {s : State} {k x} : (s.withB4 k x).msixPending = s.msixPending := (rfl)
@[simp] theorem State.withB4_tiles {s : State} {k x} : (s.withB4 k x).tiles = s.tiles := (rfl)
@[simp] theorem State.withB4_dies {s : State} {k x} : (s.withB4 k x).dies = s.dies := (rfl)
@[simp] theorem State.withB4_commit {s : State} {k x} : (s.withB4 k x).commit = s.commit := (rfl)
@[simp] theorem State.withB4_blocks {s : State} {k x} : (s.withB4 k x).blocks = s.blocks := (rfl)
@[simp] theorem State.withB4_mesh {s : State} {k x} : (s.withB4 k x).mesh = s.mesh := (rfl)
@[simp] theorem State.withB4_ctrls {s : State} {k x} : (s.withB4 k x).ctrls = s.ctrls := (rfl)
@[simp] theorem State.withB4_pdies {s : State} {k x} : (s.withB4 k x).pdies = s.pdies := (rfl)
@[simp] theorem State.withB4_ports {s : State} {k x} : (s.withB4 k x).ports = s.ports := (rfl)
@[simp] theorem State.withB4_voq {s : State} {k x} : (s.withB4 k x).voq = s.voq := (rfl)
@[simp] theorem State.withB4_localQ {s : State} {k x} : (s.withB4 k x).localQ = s.localQ := (rfl)
@[simp] theorem State.withB4_injQ {s : State} {k x} : (s.withB4 k x).injQ = s.injQ := (rfl)
@[simp] theorem State.withB4_groups {s : State} {k x} : (s.withB4 k x).groups = s.groups := (rfl)
@[simp] theorem State.withB4_faults {s : State} {k x} : (s.withB4 k x).faults = s.faults := (rfl)
@[simp] theorem State.withB4_porter {s : State} {k x} : (s.withB4 k x).porter = s.porter := (rfl)
@[simp] theorem State.withB4_sqHeld {s : State} {k x} : (s.withB4 k x).sqHeld = s.sqHeld := (rfl)
@[simp] theorem State.withB4_trace {s : State} {k x} : (s.withB4 k x).trace = s.trace := (rfl)
@[simp] theorem State.withB4_chks {s : State} {k x} : (s.withB4 k x).chks = s.chks := (rfl)
@[simp] theorem State.withB4_tap {s : State} {k x} : (s.withB4 k x).tap = s.tap := (rfl)
@[simp] theorem State.withB4_servo {s : State} {k x} : (s.withB4 k x).servo = s.servo := (rfl)
@[simp] theorem State.withB4_reg {s : State} {k x} {b} : (s.withB4 k x).reg b = s.reg b := (rfl)
@[simp] theorem State.withB4_fld {s : State} {k x} {b c d} : (s.withB4 k x).fld b c d = s.fld b c d := (rfl)
@[simp] theorem State.withB4_tile {s : State} {k x} {b} : (s.withB4 k x).tile b = s.tile b := (rfl)

end Sys2Proof.Machine
end

