-- ==== Sys2Proof/Laws/Regs.lean ====
section
/-! SUPPORT. Fields of words and registers: what is read after a write. -/

namespace Sys2Proof.Machine

/-! Fields of a number. -/

/-- A number is what lies above a field, the field, and what lies below it. -/
theorem bits_split (v hi lo : Nat) (h : lo ≤ hi + 1) :
    v = v / 2 ^ (hi + 1) * 2 ^ (hi + 1) + bits v hi lo * 2 ^ lo + v % 2 ^ lo := by
  obtain ⟨k, hk⟩ : ∃ k, hi + 1 = lo + k := ⟨hi + 1 - lo, by omega⟩
  have e : v / 2 ^ (lo + k) = v / 2 ^ lo / 2 ^ k := by rw [Nat.pow_add, Nat.div_div_eq_div_mul]
  have h1 := Nat.div_add_mod v (2 ^ lo)
  have h2 := Nat.div_add_mod (v / 2 ^ lo) (2 ^ k)
  have hb : bits v hi lo = v / 2 ^ lo % 2 ^ k := by rw [bits, Nat.shiftRight_eq_div_pow, hk, Nat.add_sub_cancel_left]
  rw [hb, hk, e, Nat.pow_add]
  calc v = 2 ^ lo * (v / 2 ^ lo) + v % 2 ^ lo := h1.symm
    _ = 2 ^ lo * (2 ^ k * (v / 2 ^ lo / 2 ^ k) + v / 2 ^ lo % 2 ^ k) + v % 2 ^ lo := by rw [h2]
    _ = _ := by ring

/-- A number with a field replaced. -/
theorem putBits_eq (v hi lo x : Nat) (h : lo ≤ hi + 1) :
    putBits v hi lo x = v / 2 ^ (hi + 1) * 2 ^ (hi + 1) + x % 2 ^ (hi + 1 - lo) * 2 ^ lo + v % 2 ^ lo := by
  have hs := bits_split v hi lo h
  rw [putBits, Nat.shiftLeft_eq, Nat.shiftLeft_eq]
  omega

/-- The field that was written. -/
theorem bits_putBits_self (v hi lo x : Nat) (h : lo ≤ hi + 1) : bits (putBits v hi lo x) hi lo = x % 2 ^ (hi + 1 - lo) := by
  obtain ⟨k, hk⟩ : ∃ k, hi + 1 = lo + k := ⟨hi + 1 - lo, by omega⟩
  rw [putBits_eq v hi lo x h, bits, Nat.shiftRight_eq_div_pow, hk, Nat.add_sub_cancel_left]
  have e : v / 2 ^ (lo + k) * 2 ^ (lo + k) + x % 2 ^ k * 2 ^ lo + v % 2 ^ lo = v % 2 ^ lo + 2 ^ lo * (v / 2 ^ (lo + k) * 2 ^ k + x % 2 ^ k) := by
    rw [Nat.pow_add]
    ring
  rw [e, Nat.add_mul_div_left _ _ (Nat.two_pow_pos lo), Nat.div_eq_of_lt (Nat.mod_lt _ (Nat.two_pow_pos lo)), Nat.zero_add,
    Nat.mul_comm, Nat.add_comm, Nat.add_mul_mod_self_left, Nat.mod_mod]

/-- A field above the one that was written. -/
theorem bits_putBits_above (v hi lo x h' l' : Nat) (h : lo ≤ hi + 1) (hl : hi < l') : bits (putBits v hi lo x) h' l' = bits v h' l' := by
  obtain ⟨k, hk⟩ : ∃ k, hi + 1 = lo + k := ⟨hi + 1 - lo, by omega⟩
  obtain ⟨j, rfl⟩ : ∃ j, l' = hi + 1 + j := ⟨l' - (hi + 1), by omega⟩
  have key : putBits v hi lo x / 2 ^ (hi + 1) = v / 2 ^ (hi + 1) := by
    have hx : x % 2 ^ (hi + 1 - lo) * 2 ^ lo + v % 2 ^ lo < 2 ^ (hi + 1) := by
      rw [hk, Nat.add_sub_cancel_left, Nat.pow_add]
      have h1 : x % 2 ^ k + 1 ≤ 2 ^ k := Nat.mod_lt _ (Nat.two_pow_pos k)
      have h2 : v % 2 ^ lo < 2 ^ lo := Nat.mod_lt _ (Nat.two_pow_pos lo)
      have h3 := Nat.mul_le_mul_right (2 ^ lo) h1
      rw [Nat.add_mul] at h3
      rw [Nat.mul_comm (2 ^ lo)]
      omega
    rw [putBits_eq v hi lo x h, Nat.add_assoc, Nat.mul_comm, Nat.mul_add_div (Nat.two_pow_pos _), Nat.div_eq_of_lt hx, Nat.add_zero]
  simp only [bits, Nat.shiftRight_eq_div_pow, Nat.pow_add 2 (hi + 1) j, ← Nat.div_div_eq_div_mul, key]

/-- A field below the one that was written. -/
theorem bits_putBits_below (v hi lo x h' l' : Nat) (h : lo ≤ hi + 1) (hl : h' < lo) : bits (putBits v hi lo x) h' l' = bits v h' l' := by
  by_cases hc : l' ≤ h'
  · obtain ⟨j, hj⟩ : ∃ j, lo = h' + 1 + j := ⟨lo - (h' + 1), by omega⟩
    obtain ⟨k, hk⟩ : ∃ k, hi + 1 = lo + k := ⟨hi + 1 - lo, by omega⟩
    have key : putBits v hi lo x % 2 ^ lo = v % 2 ^ lo := by
      have e : putBits v hi lo x = v % 2 ^ lo + 2 ^ lo * (v / 2 ^ (hi + 1) * 2 ^ k + x % 2 ^ (hi + 1 - lo)) := by
        rw [putBits_eq v hi lo x h, hk, Nat.pow_add]
        ring
      rw [e, Nat.add_mul_mod_self_left, Nat.mod_mod]
    have cut (w : Nat) : bits w h' l' = bits (w % 2 ^ lo) h' l' := by
      obtain ⟨m, hm⟩ : ∃ m, h' + 1 = l' + m := ⟨h' + 1 - l', by omega⟩
      have e1 : h' + 1 - l' = m := by omega
      have e2 : lo = l' + (m + j) := by omega
      simp only [bits, Nat.shiftRight_eq_div_pow, e1]
      rw [e2, Nat.pow_add 2 l', Nat.mod_mul_right_div_self, Nat.pow_add 2 m, Nat.mod_mul_right_mod]
    rw [cut, key, ← cut]
  · have e1 : h' + 1 - l' = 0 := by omega
    simp [bits, e1, Nat.mod_one]

/-- A field of a word stays within 64 bits. -/
theorem putBits_lt (v hi lo x : Nat) (h : lo ≤ hi + 1) (hh : hi < 64) (hv : v < 2 ^ 64) : putBits v hi lo x < 2 ^ 64 := by
  obtain ⟨k, hk⟩ : ∃ k, hi + 1 = lo + k := ⟨hi + 1 - lo, by omega⟩
  obtain ⟨j, hj⟩ : ∃ j, 64 = hi + 1 + j := ⟨64 - (hi + 1), by omega⟩
  have hx : x % 2 ^ (hi + 1 - lo) * 2 ^ lo + v % 2 ^ lo < 2 ^ (hi + 1) := by
    rw [hk, Nat.add_sub_cancel_left, Nat.pow_add]
    have h1 : x % 2 ^ k + 1 ≤ 2 ^ k := Nat.mod_lt _ (Nat.two_pow_pos k)
    have h2 : v % 2 ^ lo < 2 ^ lo := Nat.mod_lt _ (Nat.two_pow_pos lo)
    have h3 := Nat.mul_le_mul_right (2 ^ lo) h1
    rw [Nat.add_mul] at h3
    rw [Nat.mul_comm (2 ^ lo)]
    omega
  have hd : v / 2 ^ (hi + 1) + 1 ≤ 2 ^ j := by
    have : v / 2 ^ (hi + 1) < 2 ^ j := Nat.div_lt_of_lt_mul (by rw [← Nat.pow_add, ← hj]; exact hv)
    omega
  have h4 := Nat.mul_le_mul_right (2 ^ (hi + 1)) hd
  have e : (2 : Nat) ^ 64 = 2 ^ j * 2 ^ (hi + 1) := by rw [← Nat.pow_add, Nat.add_comm j, ← hj]
  rw [putBits_eq v hi lo x h, e]
  rw [Nat.add_mul] at h4
  omega

/-! Fields of a word. -/

theorem wPut_toNat (w : Word) (hi lo x : Nat) (h : lo ≤ hi + 1) (hh : hi < 64) : (wPut w hi lo x).toNat = putBits w.toNat hi lo x := by
  rw [wPut, BitVec.toNat_ofNat, Nat.mod_eq_of_lt (putBits_lt _ _ _ _ h hh w.isLt)]

theorem wBits_wPut_self (w : Word) (hi lo x : Nat) (h : lo ≤ hi + 1) (hh : hi < 64) : wBits (wPut w hi lo x) hi lo = x % 2 ^ (hi + 1 - lo) := by
  rw [wBits, wPut_toNat w hi lo x h hh, bits_putBits_self _ _ _ _ h]

theorem wBits_wPut_ne (w : Word) (hi lo x h' l' : Nat) (h : lo ≤ hi + 1) (hh : hi < 64) (hd : hi < l' ∨ h' < lo) :
    wBits (wPut w hi lo x) h' l' = wBits w h' l' := by
  rw [wBits, wPut_toNat w hi lo x h hh]
  rcases hd with hd | hd
  · exact bits_putBits_above _ _ _ _ _ _ h hd
  · exact bits_putBits_below _ _ _ _ _ _ h hd

/-! Registers. -/

/-- A register reads what was written to it. -/
theorem State.reg_withReg_self {s : State} (hs : keysFrom 0 s.regs = true) (a : Nat) (w : Word) : (s.withReg a w).reg a = w :=
  mapGet_mapPut_self _ _ _ hs

/-- Another register reads as before. -/
theorem State.reg_withReg_ne {s : State} {a b : Nat} (w : Word) (h : b ≠ a) : (s.withReg a w).reg b = s.reg b :=
  mapGet_mapPut_ne _ _ _ h _

/-- The table of registers stays ordered. -/
@[simp] theorem State.withReg_ordered {s : State} {a : Nat} {w : Word} (hs : keysFrom 0 s.regs = true) : keysFrom 0 (s.withReg a w).regs = true :=
  keysFrom_mapPut _ _ _ (Nat.zero_le _) hs

@[simp] theorem State.withFld_ordered {s : State} {a hi lo v : Nat} (hs : keysFrom 0 s.regs = true) :
    keysFrom 0 (s.withFld a hi lo v).regs = true := State.withReg_ordered hs

/-- A field reads what was written to it. -/
theorem State.fld_withFld_self {s : State} (hs : keysFrom 0 s.regs = true) (a hi lo v : Nat) (h : lo ≤ hi + 1) (hh : hi < 64) :
    (s.withFld a hi lo v).fld a hi lo = v % 2 ^ (hi + 1 - lo) := by
  rw [State.fld, State.withFld, State.reg_withReg_self hs, wBits_wPut_self _ _ _ _ h hh]

/-- Another field of the same register reads as before. -/
theorem State.fld_withFld_ne {s : State} (hs : keysFrom 0 s.regs = true) (a hi lo v h' l' : Nat) (h : lo ≤ hi + 1) (hh : hi < 64)
    (hd : hi < l' ∨ h' < lo) : (s.withFld a hi lo v).fld a h' l' = s.fld a h' l' := by
  rw [State.fld, State.withFld, State.reg_withReg_self hs, wBits_wPut_ne _ _ _ _ _ _ h hh hd, State.fld]

/-- A field of another register reads as before. -/
theorem State.fld_withFld_other {s : State} {a b : Nat} (hi lo v h' l' : Nat) (h : b ≠ a) :
    (s.withFld a hi lo v).fld b h' l' = s.fld b h' l' := by
  rw [State.fld, State.withFld, State.reg_withReg_ne _ h, State.fld]

/-- A register of BAR4 reads what was written to it. -/
theorem State.b4_withB4_self {s : State} (hs : keysFrom 0 s.bar4 = true) (a : Nat) (w : Word) : (s.withB4 a w).b4 a = w :=
  mapGet_mapPut_self _ _ _ hs

/-- Another register of BAR4 reads as before. -/
theorem State.b4_withB4_ne {s : State} {a b : Nat} (w : Word) (h : b ≠ a) : (s.withB4 a w).b4 b = s.b4 b :=
  mapGet_mapPut_ne _ _ _ h _

/-! Tiles. -/

/-- A tile is what was put there. -/
theorem State.tile_withTile_self {s : State} (hs : keysFrom 0 s.tiles = true) (k : Nat) (x : Tile) : (s.withTile k x).tile k = x :=
  mapGet_mapPut_self _ _ _ hs

/-- Another tile is as before. -/
theorem State.tile_withTile_ne {s : State} {k j : Nat} (x : Tile) (h : j ≠ k) : (s.withTile k x).tile j = s.tile j :=
  mapGet_mapPut_ne _ _ _ h _

end Sys2Proof.Machine
end

