-- ==== Sys2Proof/Laws/Since.lean ====
section
/-! SUPPORT. What every operation on the state keeps, as a relation between an earlier state `o` and a later one, and its proof for the
named setters. -/

namespace Sys2Proof.Machine

/-- The state `s` comes from `o` by operations that leave the queue of commands and the TAP alone, take back nothing that has left the
package, use no free value twice, undo no fuse, and keep every table in order, every memory canonical and every queue bounded. -/
structure Since (o s : State) : Prop where
  pending : s.pending = o.pending
  tap : s.tap = o.tap
  out : o.out <+: s.out
  fresh : o.clk.fresh ≤ s.clk.fresh
  keys : keysKept o.porter.keys s.porter.keys = true
  regsOrd : keysFrom 0 s.regs = true
  bar4Ord : keysFrom 0 s.bar4 = true
  tilesOrd : keysFrom 0 s.tiles = true
  diesOrd : keysFrom 0 s.dies = true
  blocksOrd : keysFrom 0 s.blocks = true
  meshOrd : keysFrom 0 s.mesh = true
  ctrlsOrd : keysFrom 0 s.ctrls = true
  pdiesOrd : keysFrom 0 s.pdies = true
  portsOrd : keysFrom 0 s.ports = true
  voqOrd : keysFrom 0 s.voq = true
  localQOrd : keysFrom 0 s.localQ = true
  injQOrd : keysFrom 0 s.injQ = true
  groupsOrd : keysFrom 0 s.groups = true
  sqHeldOrd : keysFrom 0 s.sqHeld = true
  traceOrd : keysFrom 0 s.trace = true
  chksOrd : keysFrom 0 s.chks = true
  tileMem : ∀ p ∈ s.tiles, Memory.wf p.2.mem = true
  ctrlMem : ∀ p ∈ s.ctrls, Memory.wf p.2.mem = true
  faultsLe : s.faults.queue.length ≤ 1024
  queueLe : s.porter.queue.length ≤ 8
  sendersLe : s.porter.senders.length ≤ 16
  viewsLe : s.porter.views.length ≤ 256
  keysLen : s.porter.keys.length = 2
  traceLe : ∀ p ∈ s.trace, p.2.buffered.length ≤ 256

theorem KeySlot.keeps_refl (x : KeySlot) : x.keeps x = true := by
  simp [KeySlot.keeps, Bool.or_comm]

theorem keysKept_refl (l : List KeySlot) : keysKept l l = true := by
  simp only [keysKept, beq_self_eq_true, Bool.true_and]
  induction l with
  | nil => rfl
  | cons x l ih => simp [KeySlot.keeps_refl, ih]

/-- A state in its form has come from itself. -/
theorem Since.refl {s : State} (h : s.wf = true) : Since s s := by
  simp only [State.wf, State.ordered, State.memories, State.bounded, Bool.and_eq_true, decide_eq_true_eq, List.all_eq_true] at h
  obtain ⟨⟨⟨⟨⟨⟨⟨⟨⟨⟨⟨⟨⟨⟨⟨⟨⟨h1, h2⟩, h3⟩, h4⟩, h5⟩, h6⟩, h7⟩, h8⟩, h9⟩, h10⟩, h11⟩, h12⟩, h13⟩, h14⟩, h15⟩, h16⟩, h17, h18⟩, ⟨⟨⟨⟨h19, h20⟩, h21⟩, h22⟩, h23⟩, h24⟩ := h
  exact ⟨rfl, rfl, List.prefix_refl _, le_refl _, keysKept_refl _, h1, h2, h3, h4, h5, h6, h7, h8, h9, h10, h11, h12, h13, h14, h15, h16,
    h17, h18, h19, h20, h21, h22, h23, h24⟩

/-- Such a state is in its form. -/
theorem Since.wf {o s : State} (h : Since o s) : s.wf = true := by
  simp only [State.wf, State.ordered, State.memories, State.bounded, Bool.and_eq_true, decide_eq_true_eq, List.all_eq_true]
  exact ⟨⟨⟨⟨⟨⟨⟨⟨⟨⟨⟨⟨⟨⟨⟨⟨⟨h.regsOrd, h.bar4Ord⟩, h.tilesOrd⟩, h.diesOrd⟩, h.blocksOrd⟩, h.meshOrd⟩, h.ctrlsOrd⟩, h.pdiesOrd⟩, h.portsOrd⟩, h.voqOrd⟩, h.localQOrd⟩, h.injQOrd⟩, h.groupsOrd⟩, h.sqHeldOrd⟩, h.traceOrd⟩, h.chksOrd⟩, h.tileMem, h.ctrlMem⟩,
    ⟨⟨⟨⟨h.faultsLe, h.queueLe⟩, h.sendersLe⟩, h.viewsLe⟩, h.keysLen⟩, h.traceLe⟩

/-! Fields without a bound or an order. -/

@[simp] theorem State.withPins_since {o s : State} {x} (h : Since o s) : Since o (s.withPins x) := { h with }
@[simp] theorem State.withUnmasked_since {o s : State} {x} (h : Since o s) : Since o (s.withUnmasked x) := { h with }
@[simp] theorem State.withMsixPending_since {o s : State} {x} (h : Since o s) : Since o (s.withMsixPending x) := { h with }
@[simp] theorem State.withCommit_since {o s : State} {x} (h : Since o s) : Since o (s.withCommit x) := { h with }
@[simp] theorem State.withServo_since {o s : State} {x} (h : Since o s) : Since o (s.withServo x) := { h with }

/-! Tables replaced whole. -/

theorem State.withRegs_since {o s : State} {x} (h : Since o s) (hx : keysFrom 0 x = true) : Since o (s.withRegs x) :=
  { h with regsOrd := hx }
theorem State.withBar4_since {o s : State} {x} (h : Since o s) (hx : keysFrom 0 x = true) : Since o (s.withBar4 x) :=
  { h with bar4Ord := hx }
theorem State.withDies_since {o s : State} {x} (h : Since o s) (hx : keysFrom 0 x = true) : Since o (s.withDies x) :=
  { h with diesOrd := hx }
theorem State.withBlocks_since {o s : State} {x} (h : Since o s) (hx : keysFrom 0 x = true) : Since o (s.withBlocks x) :=
  { h with blocksOrd := hx }
theorem State.withMesh_since {o s : State} {x} (h : Since o s) (hx : keysFrom 0 x = true) : Since o (s.withMesh x) :=
  { h with meshOrd := hx }
theorem State.withPdies_since {o s : State} {x} (h : Since o s) (hx : keysFrom 0 x = true) : Since o (s.withPdies x) :=
  { h with pdiesOrd := hx }
theorem State.withPorts_since {o s : State} {x} (h : Since o s) (hx : keysFrom 0 x = true) : Since o (s.withPorts x) :=
  { h with portsOrd := hx }
theorem State.withVoq_since {o s : State} {x} (h : Since o s) (hx : keysFrom 0 x = true) : Since o (s.withVoq x) :=
  { h with voqOrd := hx }
theorem State.withLocalQ_since {o s : State} {x} (h : Since o s) (hx : keysFrom 0 x = true) : Since o (s.withLocalQ x) :=
  { h with localQOrd := hx }
theorem State.withInjQ_since {o s : State} {x} (h : Since o s) (hx : keysFrom 0 x = true) : Since o (s.withInjQ x) :=
  { h with injQOrd := hx }
theorem State.withGroups_since {o s : State} {x} (h : Since o s) (hx : keysFrom 0 x = true) : Since o (s.withGroups x) :=
  { h with groupsOrd := hx }
theorem State.withSqHeld_since {o s : State} {x} (h : Since o s) (hx : keysFrom 0 x = true) : Since o (s.withSqHeld x) :=
  { h with sqHeldOrd := hx }
theorem State.withChks_since {o s : State} {x} (h : Since o s) (hx : keysFrom 0 x = true) : Since o (s.withChks x) :=
  { h with chksOrd := hx }

/-! One entry of a table. -/

@[simp] theorem State.withReg_since {o s : State} {k x} (h : Since o s) : Since o (s.withReg k x) :=
  { h with regsOrd := keysFrom_mapPut _ _ _ (Nat.zero_le _) h.regsOrd }
@[simp] theorem State.withB4_since {o s : State} {k x} (h : Since o s) : Since o (s.withB4 k x) :=
  { h with bar4Ord := keysFrom_mapPut _ _ _ (Nat.zero_le _) h.bar4Ord }
@[simp] theorem State.withDie_since {o s : State} {k x} (h : Since o s) : Since o (s.withDie k x) :=
  { h with diesOrd := keysFrom_mapPut _ _ _ (Nat.zero_le _) h.diesOrd }
@[simp] theorem State.modDie_since {o s : State} {k g} (h : Since o s) : Since o (s.modDie k g) := State.withDie_since h
@[simp] theorem State.withBlock_since {o s : State} {k x} (h : Since o s) : Since o (s.withBlock k x) :=
  { h with blocksOrd := keysFrom_mapPut _ _ _ (Nat.zero_le _) h.blocksOrd }
@[simp] theorem State.modBlock_since {o s : State} {k g} (h : Since o s) : Since o (s.modBlock k g) := State.withBlock_since h
@[simp] theorem State.withStop_since {o s : State} {k x} (h : Since o s) : Since o (s.withStop k x) :=
  { h with meshOrd := keysFrom_mapPut _ _ _ (Nat.zero_le _) h.meshOrd }
@[simp] theorem State.modStop_since {o s : State} {k g} (h : Since o s) : Since o (s.modStop k g) := State.withStop_since h
@[simp] theorem State.withPdie_since {o s : State} {k x} (h : Since o s) : Since o (s.withPdie k x) :=
  { h with pdiesOrd := keysFrom_mapPut _ _ _ (Nat.zero_le _) h.pdiesOrd }
@[simp] theorem State.modPdie_since {o s : State} {k g} (h : Since o s) : Since o (s.modPdie k g) := State.withPdie_since h
@[simp] theorem State.withPort_since {o s : State} {k x} (h : Since o s) : Since o (s.withPort k x) :=
  { h with portsOrd := keysFrom_mapPut _ _ _ (Nat.zero_le _) h.portsOrd }
@[simp] theorem State.modPort_since {o s : State} {k g} (h : Since o s) : Since o (s.modPort k g) := State.withPort_since h
@[simp] theorem State.withGroup_since {o s : State} {k x} (h : Since o s) : Since o (s.withGroup k x) :=
  { h with groupsOrd := keysFrom_mapPut _ _ _ (Nat.zero_le _) h.groupsOrd }
@[simp] theorem State.modGroup_since {o s : State} {k g} (h : Since o s) : Since o (s.modGroup k g) := State.withGroup_since h
@[simp] theorem State.withChk_since {o s : State} {k x} (h : Since o s) : Since o (s.withChk k x) :=
  { h with chksOrd := keysFrom_mapPut _ _ _ (Nat.zero_le _) h.chksOrd }
@[simp] theorem State.modChk_since {o s : State} {k g} (h : Since o s) : Since o (s.modChk k g) := State.withChk_since h
@[simp] theorem State.withVoqOf_since {o s : State} {k x} (h : Since o s) : Since o (s.withVoqOf k x) :=
  { h with voqOrd := keysFrom_mapPut _ _ _ (Nat.zero_le _) h.voqOrd }
@[simp] theorem State.modVoqOf_since {o s : State} {k g} (h : Since o s) : Since o (s.modVoqOf k g) := State.withVoqOf_since h
@[simp] theorem State.withLocalOf_since {o s : State} {k x} (h : Since o s) : Since o (s.withLocalOf k x) :=
  { h with localQOrd := keysFrom_mapPut _ _ _ (Nat.zero_le _) h.localQOrd }
@[simp] theorem State.modLocalOf_since {o s : State} {k g} (h : Since o s) : Since o (s.modLocalOf k g) := State.withLocalOf_since h
@[simp] theorem State.withInjOf_since {o s : State} {k x} (h : Since o s) : Since o (s.withInjOf k x) :=
  { h with injQOrd := keysFrom_mapPut _ _ _ (Nat.zero_le _) h.injQOrd }
@[simp] theorem State.modInjOf_since {o s : State} {k g} (h : Since o s) : Since o (s.modInjOf k g) := State.withInjOf_since h

/-! Tiles, controllers, trace units. -/

theorem forall_mapPut {α : Type} [DecidableEq α] {P : α → Prop} {d : α} {k : Nat} {v : α} {m : SMap α} (hm : ∀ p ∈ m, P p.2) (hv : P v) :
    ∀ p ∈ mapPut d k v m, P p.2 := fun p hp => by
  rcases mem_mapPut hp with ⟨rfl, -⟩ | hp
  · exact hv
  · exact hm p hp

theorem mapGet_all {α : Type} {P : α → Prop} {d : α} (hd : P d) (k : Nat) : ∀ {m : SMap α}, (∀ p ∈ m, P p.2) → P (mapGet d k m)
  | [], _ => hd
  | (a, x) :: m, h => by
    unfold mapGet
    split
    · exact h (a, x) (List.mem_cons_self ..)
    · exact mapGet_all hd k fun p hp => h p (List.mem_cons_of_mem _ hp)

/-- A tile's memory is canonical. -/
theorem Since.memTile {o s : State} (h : Since o s) (k : Nat) : Memory.wf (s.tile k).mem = true :=
  mapGet_all (P := fun t : Tile => Memory.wf t.mem = true) rfl k h.tileMem

/-- A stack's memory is canonical. -/
theorem Since.memCtrl {o s : State} (h : Since o s) (k : Nat) : Memory.wf (s.ctrl k).mem = true :=
  mapGet_all (P := fun t : Ctrl => Memory.wf t.mem = true) rfl k h.ctrlMem

/-- A trace unit buffers at most 256 records. -/
theorem Since.bufTrace {o s : State} (h : Since o s) (k : Nat) : (s.traceUnit k).buffered.length ≤ 256 :=
  mapGet_all (P := fun t : Trace => t.buffered.length ≤ 256) (by simp) k h.traceLe

@[simp] theorem State.withTile_since {o s : State} {k} {x : Tile} (h : Since o s) (hx : Memory.wf x.mem = true) : Since o (s.withTile k x) :=
  { h with tilesOrd := keysFrom_mapPut _ _ _ (Nat.zero_le _) h.tilesOrd, tileMem := forall_mapPut (P := fun t : Tile => Memory.wf t.mem = true) h.tileMem hx }

@[simp] theorem State.modTile_since {o s : State} {k} {g : Tile → Tile} (h : Since o s)
    (hg : ∀ x : Tile, Memory.wf x.mem = true → Memory.wf (g x).mem = true) : Since o (s.modTile k g) :=
  State.withTile_since h (hg _ (h.memTile k))

@[simp] theorem State.modLtile_since {o s : State} {k} {g : Tile → Tile} (h : Since o s)
    (hg : ∀ x : Tile, Memory.wf x.mem = true → Memory.wf (g x).mem = true) : Since o (s.modLtile k g) := State.modTile_since h hg

@[simp] theorem State.withCtrl_since {o s : State} {k} {x : Ctrl} (h : Since o s) (hx : Memory.wf x.mem = true) : Since o (s.withCtrl k x) :=
  { h with ctrlsOrd := keysFrom_mapPut _ _ _ (Nat.zero_le _) h.ctrlsOrd, ctrlMem := forall_mapPut (P := fun t : Ctrl => Memory.wf t.mem = true) h.ctrlMem hx }

@[simp] theorem State.modCtrl_since {o s : State} {k} {g : Ctrl → Ctrl} (h : Since o s)
    (hg : ∀ x : Ctrl, Memory.wf x.mem = true → Memory.wf (g x).mem = true) : Since o (s.modCtrl k g) :=
  State.withCtrl_since h (hg _ (h.memCtrl k))

@[simp] theorem State.withTraceUnit_since {o s : State} {k} {x : Trace} (h : Since o s) (hx : x.buffered.length ≤ 256) :
    Since o (s.withTraceUnit k x) :=
  { h with traceOrd := keysFrom_mapPut _ _ _ (Nat.zero_le _) h.traceOrd, traceLe := forall_mapPut (P := fun t : Trace => t.buffered.length ≤ 256) h.traceLe hx }

@[simp] theorem State.modTraceUnit_since {o s : State} {k} {g : Trace → Trace} (h : Since o s)
    (hg : ∀ x : Trace, x.buffered.length ≤ 256 → (g x).buffered.length ≤ 256) : Since o (s.modTraceUnit k g) :=
  State.withTraceUnit_since h (hg _ (h.bufTrace k))

/-! Output, clock, faults, porter. -/

@[simp] theorem State.emit_since {o s : State} {x} (h : Since o s) : Since o (s.emit x) :=
  { h with out := h.out.trans (List.prefix_append _ _) }

@[simp] theorem State.withClk_since {o s : State} {x : Clock} (h : Since o s) (hx : s.clk.fresh ≤ x.fresh) : Since o (s.withClk x) :=
  { h with fresh := h.fresh.trans hx }

@[simp] theorem State.withFaults_since {o s : State} {x : Faults} (h : Since o s) (hx : x.queue.length ≤ 1024) : Since o (s.withFaults x) :=
  { h with faultsLe := hx }

theorem State.withPorter_since {o s : State} {x : Porter} (h : Since o s) (hk : keysKept o.porter.keys x.keys = true)
    (h1 : x.queue.length ≤ 8) (h2 : x.senders.length ≤ 16) (h3 : x.views.length ≤ 256) (h4 : x.keys.length = 2) : Since o (s.withPorter x) :=
  { h with keys := hk, queueLe := h1, sendersLe := h2, viewsLe := h3, keysLen := h4 }

/-! Choice and repetition. -/

@[simp] theorem ite_since {o a b : State} {c : Prop} [Decidable c] (ha : Since o a) (hb : Since o b) : Since o (if c then a else b) := by
  split <;> assumption

@[simp] theorem ite_since_fst {β : Type} {o : State} {a b : State × β} {c : Prop} [Decidable c] (ha : Since o a.1) (hb : Since o b.1) :
    Since o (if c then a else b).1 := by
  split <;> assumption

@[simp] theorem ite_since_snd {β : Type} {o : State} {a b : β × State} {c : Prop} [Decidable c] (ha : Since o a.2) (hb : Since o b.2) :
    Since o (if c then a else b).2 := by
  split <;> assumption

@[simp] theorem forEach_since {α : Type} {o : State} {f : α → State → State} (hf : ∀ a s, Since o s → Since o (f a s)) :
    ∀ (l : List α) {s : State}, Since o s → Since o (forEach l f s)
  | [], _, h => h
  | a :: l, _, h => forEach_since hf l (hf a _ h)

/-- A fold that carries a value beside the state. -/
@[simp] theorem foldl_since {α β : Type} {o : State} {f : State × β → α → State × β} (hf : ∀ r a, Since o r.1 → Since o (f r a).1) :
    ∀ (l : List α) {r : State × β}, Since o r.1 → Since o (l.foldl f r).1
  | [], _, h => h
  | a :: l, r, h => foldl_since hf l (hf r a h)

/-- A fold over states. -/
@[simp] theorem foldl_since' {α : Type} {o : State} {f : State → α → State} (hf : ∀ r a, Since o r → Since o (f r a)) :
    ∀ (l : List α) {r : State}, Since o r → Since o (l.foldl f r)
  | [], _, h => h
  | a :: l, r, h => foldl_since' hf l (hf r a h)

end Sys2Proof.Machine
end

