-- ==== Sys2Proof/Laws/TileMem.lean ====
section
/-! SUPPORT. What operations on a tile do to its memory: all but stores and zeroing leave it alone. -/

namespace Sys2Proof.Machine

@[simp] theorem forEach_mem {α : Type} {f : α → Tile → Tile} (hf : ∀ a t, (f a t).mem = t.mem) :
    ∀ (l : List α) {t : Tile}, (forEach l f t).mem = t.mem
  | [], _ => rfl
  | a :: l, t => (forEach_mem hf l).trans (hf a t)

@[simp] theorem forEach_memWf {α : Type} {f : α → Tile → Tile} (hf : ∀ a t, Memory.wf t.mem = true → Memory.wf (f a t).mem = true) :
    ∀ (l : List α) {t : Tile}, Memory.wf t.mem = true → Memory.wf (forEach l f t).mem = true
  | [], _, h => h
  | a :: l, _, h => forEach_memWf hf l (hf a _ h)

@[simp] theorem ite_mem {c : Prop} [Decidable c] {a b : Tile} {m : SMap Byte} (ha : c → a.mem = m) (hb : ¬c → b.mem = m) :
    (if c then a else b).mem = m := by
  split
  · exact ha ‹_›
  · exact hb ‹_›

@[simp] theorem ite_memWf {c : Prop} [Decidable c] {a b : Tile} (ha : c → Memory.wf a.mem = true) (hb : ¬c → Memory.wf b.mem = true) :
    Memory.wf (if c then a else b).mem = true := by
  split
  · exact ha ‹_›
  · exact hb ‹_›

@[simp] theorem Tile.withSlot_mem {a0 a1 a2} : (Tile.withSlot a0 a1 a2).mem = a0.mem := (rfl)

@[simp] theorem Tile.accFlag_mem {a0 a1} : (Tile.accFlag a0 a1).mem = a0.mem := (rfl)

@[simp] theorem Tile.withCtx_mem {a0 a1 a2} : (Tile.withCtx a0 a1 a2).mem = a0.mem := (rfl)

@[simp] theorem Tile.withCounter_mem {a0 a1 a2} : (Tile.withCounter a0 a1 a2).mem = a0.mem := (rfl)

@[simp] theorem Tile.freeEngines_mem {a0 a1} : (Tile.freeEngines a0 a1).mem = a0.mem := (rfl)

@[simp] theorem Tile.dropSummary_mem {a0 a1} : (Tile.dropSummary a0 a1).mem = a0.mem := by
  unfold Tile.dropSummary
  (repeat' split) <;> rfl

@[simp] theorem Tile.writeMem_mem {a0 a1 a2} (h : Memory.wf a0.mem = true) : Memory.wf (Tile.writeMem a0 a1 a2).mem = true := Memory.wf_writeBytes _ _ h

@[simp] theorem Tile.withLine_mem {a0 a1 a2} : (Tile.withLine a0 a1 a2).mem = a0.mem := (rfl)

@[simp] theorem Tile.putOc_mem {a0 a1 a2} : (Tile.putOc a0 a1 a2).mem = a0.mem := (rfl)

@[simp] theorem Tile.dropBusy_mem {a0 a1} : (Tile.dropBusy a0 a1).mem = a0.mem := by
  unfold Tile.dropBusy
  refine forEach_mem (fun i x => ?_) _
  split <;> rfl

@[simp] theorem Tile.endCtx_mem {a0 a1} : (Tile.endCtx a0 a1).mem = a0.mem := by
  show ((Tile.freeEngines a0 a1).dropBusy (a0.ctx a1).fills).mem = a0.mem
  simp

@[simp] theorem Tile.busyLines_mem {a0 a1} : (Tile.busyLines a0 a1).mem = a0.mem := by
  unfold Tile.busyLines
  refine forEach_mem (fun _ _ => ?_) _
  rfl

@[simp] theorem Tile.spoil_mem {a0 a1} : (Tile.spoil a0 a1).mem = a0.mem := (rfl)

@[simp] theorem Tile.again_mem {a0 a1} : (Tile.again a0 a1).mem = a0.mem := (rfl)

@[simp] theorem Tile.stepTimers_mem {a0 a1} : (Tile.stepTimers a0 a1).mem = a0.mem := (rfl)

@[simp] theorem Tile.vecWriteOc_mem {a0 a1 a2} : (Tile.vecWriteOc a0 a1 a2).mem = a0.mem := by
  unfold Tile.vecWriteOc
  refine forEach_mem (fun _ _ => ?_) _
  rfl

@[simp] theorem Tile.vecFlag_mem {a0 a1} : (Tile.vecFlag a0 a1).mem = a0.mem := (rfl)

@[simp] theorem Tile.portWriteOc_mem {a0 a1 a2} : (Tile.portWriteOc a0 a1 a2).mem = a0.mem := by
  unfold Tile.portWriteOc
  simp only []
  (repeat' split) <;> simp

@[simp] theorem Tile.use_mem {a0 a1} : (Tile.use a0 a1).mem = a0.mem := (rfl)

@[simp] theorem Tile.cvtFlags_mem {a0 a1} : (Tile.cvtFlags a0 a1).mem = a0.mem := (rfl)

@[simp] theorem Tile.mtxFlags_mem {a0 a1} : (Tile.mtxFlags a0 a1).mem = a0.mem := (rfl)

@[simp] theorem Tile.enter_mem {a0 a1 a2} : (Tile.enter a0 a1 a2).mem = a0.mem := (rfl)

@[simp] theorem Tile.leave_mem {a0 a1 a2} : (Tile.leave a0 a1 a2).mem = a0.mem := (rfl)

@[simp] theorem Tile.fillLine_mem {a0 a1 a2 a3} : (Tile.fillLine a0 a1 a2 a3).mem = a0.mem := by
  unfold Tile.fillLine
  simp only []
  (repeat' split) <;> first | rfl | (simp only [Tile.withLine_mem]; refine forEach_mem (fun _ _ => ?_) _; rfl)

@[simp] theorem Tile.writeBack_mem {a0 a1} (h : Memory.wf a0.mem = true) : Memory.wf (Tile.writeBack a0 a1).mem = true := by
  have hw (a : Nat) (b : Bytes) : Memory.wf (a0.writeMem a b).mem = true := Tile.writeMem_mem h
  unfold Tile.writeBack
  split
  · exact h
  · simp only []
    split <;> simp only [Tile.withLine_mem, hw]

@[simp] theorem Tile.putSlots_mem {a0 a1 a2} : (Tile.putSlots a0 a1 a2).mem = a0.mem := by
  unfold Tile.putSlots
  refine forEach_mem (fun _ _ => ?_) _
  rfl

@[simp] theorem Tile.dropReq_mem {a0 a1} : (Tile.dropReq a0 a1).mem = a0.mem := (rfl)

@[simp] theorem Tile.withTimer_mem {a0 a1 a2} : (Tile.withTimer a0 a1 a2).mem = a0.mem := (rfl)

@[simp] theorem Tile.cleared_mem {a0} : (Tile.cleared a0).mem = a0.mem := (rfl)

@[simp] theorem Tile.zeroed_mem {a0} : Memory.wf (Tile.zeroed a0).mem = true := (rfl)

@[simp] theorem Tile.newSelectors_mem {a0 a1 a2 a3} : (Tile.newSelectors a0 a1 a2 a3).mem = a3.mem := (rfl)

@[simp] theorem Tile.placedOn_mem {a0 a1} (h : Memory.wf a0.mem = true) : Memory.wf (Tile.placedOn a0 a1).mem = true := h

@[simp] theorem Tile.restart_mem {a0} : (Tile.restart a0).mem = a0.mem := (rfl)

@[simp] theorem Tile.cleaned_mem {a0} (h : Memory.wf a0.mem = true) : Memory.wf (Tile.cleaned a0).mem = true := h

@[simp] theorem Tile.dieReset_mem {a0} : Memory.wf (Tile.dieReset a0).mem = true := (rfl)

end Sys2Proof.Machine
end

