-- ==== Sys2Proof/Laws/SinceOps.lean ====
section
/-! SUPPORT. What the operations of `Machine/Ops.lean` keep. -/

namespace Sys2Proof.Machine

set_option linter.unusedSimpArgs false
set_option linter.unusedTactic false
set_option linter.unreachableTactic false
set_option linter.unnecessarySeqFocus false

theorem dropNotice_length : ∀ {l m : List FaultRec}, dropNotice l = some m → m.length + 1 = l.length
  | r :: q, m, h => by
    unfold dropNotice at h
    split at h
    · cases h
      rfl
    · simp only [Option.map_eq_some_iff] at h
      obtain ⟨n, hn, rfl⟩ := h
      simp [dropNotice_length hn]

@[simp] theorem State.useFree_since {o s : State}  (h : Since o s) : Since o (State.useFree s) := by
  unfold State.useFree
  simp (maxDischargeDepth := 99) [h]

@[simp] theorem State.useFreeN_since {o s : State} {a1} (h : Since o s) : Since o (State.useFreeN s a1) := by
  unfold State.useFreeN
  simp (maxDischargeDepth := 99) [h]

@[simp] theorem State.withFld_since {o s : State} {a1} {a2} {a3} {a4} (h : Since o s) : Since o (State.withFld s a1 a2 a3 a4) := by
  unfold State.withFld
  simp (maxDischargeDepth := 99) [h]

@[simp] theorem State.bumpBy_since {o s : State} {a1} {a2} (h : Since o s) : Since o (State.bumpBy s a1 a2) := by
  unfold State.bumpBy
  simp (maxDischargeDepth := 99) [h]

@[simp] theorem State.bump_since {o s : State} {a1} (h : Since o s) : Since o (State.bump s a1) := by
  unfold State.bump
  simp (maxDischargeDepth := 99) [h]

@[simp] theorem State.badAccess_since {o s : State} {a1} {a2} {a3} {a4} (h : Since o s) : Since o (State.badAccess s a1 a2 a3 a4) := by
  unfold State.badAccess
  simp (maxDischargeDepth := 99) [h]

@[simp] theorem State.badFabric_since {o s : State} {a1} {a2} (h : Since o s) : Since o (State.badFabric s a1 a2) := by
  unfold State.badFabric
  try simp only []
  (repeat' split) <;> simp (maxDischargeDepth := 99) +contextual [*, Since.memCtrl (o := o), Since.memTile (o := o)]

@[simp] theorem State.badHbm_since {o s : State} {a1} {a2} (h : Since o s) : Since o (State.badHbm s a1 a2) := by
  unfold State.badHbm
  simp (maxDischargeDepth := 99) [h]

@[simp] theorem State.msix_since {o s : State} {a1} (h : Since o s) : Since o (State.msix s a1) := by
  unfold State.msix
  simp (maxDischargeDepth := 99) [h]

@[simp] theorem State.raiseIbi_since {o s : State} {a1} (h : Since o s) : Since o (State.raiseIbi s a1) := by
  unfold State.raiseIbi
  simp (maxDischargeDepth := 99) [h]

@[simp] theorem State.raiseIrq_since {o s : State} {a1} (h : Since o s) : Since o (State.raiseIrq s a1) := by
  unfold State.raiseIrq
  simp only []
  split <;> simp (maxDischargeDepth := 99) [h]

@[simp] theorem State.traceEvent_since {o s : State} {a1} {a2} {a3} {a4} {a5} (h : Since o s) : Since o (State.traceEvent s a1 a2 a3 a4 a5) := by
  unfold State.traceEvent
  have hb := h.bufTrace a1
  simp only []
  split
  · exact h
  · split
    · exact State.withTraceUnit_since (by simp [h]) (by simpa using hb)
    · exact State.withTraceUnit_since h (by simp; omega)

@[simp] theorem State.setBlockState_since {o s : State} {a1} {a2} (h : Since o s) : Since o (State.setBlockState s a1 a2) := by
  unfold State.setBlockState
  simp (maxDischargeDepth := 99) [h]

@[simp] theorem State.wakeBlock_since {o s : State} {a1} (h : Since o s) : Since o (State.wakeBlock s a1) := by
  unfold State.wakeBlock
  simp (maxDischargeDepth := 99) [h]

@[simp] theorem State.queueFault_since {o s : State} {a1} (h : Since o s) : Since o (State.queueFault s a1) := by
  unfold State.queueFault
  have hq := h.faultsLe
  have hi (u : State) (hu : Since o u) : Since o (if u.fld Reg.fltIrqCfg 1 0 ≤ a1.severity then u.raiseIrq 0 else u) := by simp [hu]
  simp only []
  split
  · exact hi _ (State.withFaults_since h (by simp; omega))
  · split
    · split
      · rename_i q' hd
        exact hi _ (State.withFaults_since (by simp [h]) (by simp; have := dropNotice_length hd; omega))
      · simp [h]
    · simp [h]

@[simp] theorem State.raiseFault_since {o s : State} {a1} {a2} {a3} {a4} {a5} {a6} (h : Since o s) : Since o (State.raiseFault s a1 a2 a3 a4 a5 a6) := by
  unfold State.raiseFault
  simp only []
  split <;> simp (maxDischargeDepth := 99) [h]

@[simp] theorem State.eccCorrected_since {o s : State} {a1} (h : Since o s) : Since o (State.eccCorrected s a1) := by
  unfold State.eccCorrected
  simp (maxDischargeDepth := 99) [h]

@[simp] theorem State.tileCount_since {o s : State} {a1} {a2} {a3} (h : Since o s) : Since o (State.tileCount s a1 a2 a3) := by
  unfold State.tileCount
  split
  · exact h
  · split
    · exact h
    · refine forEach_since (fun i s hs => ?_) _ h
      split
      · exact State.modTile_since hs fun x hx => hx
      · exact hs

@[simp] theorem State.tdcTile_since {o s : State} {a1} {a2} (h : Since o s) : Since o (State.tdcTile s a1 a2) := by
  unfold State.tdcTile
  simp (maxDischargeDepth := 99) [h]

@[simp] theorem State.tdcPort_since {o s : State} {a1} {a2} (h : Since o s) : Since o (State.tdcPort s a1 a2) := by
  unfold State.tdcPort
  simp (maxDischargeDepth := 99) [h]

@[simp] theorem State.portCount_since {o s : State} {a1} {a2} {a3} {a4} (h : Since o s) : Since o (State.portCount s a1 a2 a3 a4) := by
  unfold State.portCount
  refine forEach_since (fun i s hs => ?_) _ h
  simp only []
  generalize (match a3 with | some c => _ | none => _ : Bool) = b
  split <;> simp [hs]

end Sys2Proof.Machine
end

