-- ==== Sys2Proof/Laws/SinceHbm.lean ====
section
/-! SUPPORT. What the operations of `Machine/Hbm.lean` keep. -/

namespace Sys2Proof.Machine

set_option linter.unusedSimpArgs false
set_option linter.unusedTactic false
set_option linter.unreachableTactic false
set_option linter.unnecessarySeqFocus false

@[simp] theorem State.retirePch_since {o s : State} {a1} {a2} (h : Since o s) : Since o (State.retirePch s a1 a2) := by
  unfold State.retirePch
  simp (maxDischargeDepth := 99) [h]

@[simp] theorem State.beginRepair_since {o s : State} {a1} {a2} (h : Since o s) : Since o (State.beginRepair s a1 a2) := by
  unfold State.beginRepair
  (repeat' split) <;> simp (maxDischargeDepth := 99) +contextual [h, Since.memCtrl (o := o), Since.memTile (o := o)]

@[simp] theorem State.countUncorr_since {o s : State} {a1} {a2} {a3} (h : Since o s) : Since o (State.countUncorr s a1 a2 a3) := by
  unfold State.countUncorr
  simp (maxDischargeDepth := 99) [h]

@[simp] theorem State.hbmUncorr_since {o s : State} {a1} {a2} {a3} (h : Since o s) : Since o (State.hbmUncorr s a1 a2 a3) := by
  unfold State.hbmUncorr
  (repeat' split) <;> simp (maxDischargeDepth := 99) +contextual [h, Since.memCtrl (o := o), Since.memTile (o := o)]

@[simp] theorem State.hbmBreak_since {o s : State} {a1} {a2} (h : Since o s) : Since o (State.hbmBreak s a1 a2) := by
  unfold State.hbmBreak
  simp (maxDischargeDepth := 99) [h]

@[simp] theorem State.hbmRead_since {o s : State} {a1} {a2} {a3} {a4} {a5} (h : Since o s) : Since o (State.hbmRead s a1 a2 a3 a4 a5).1 := by
  unfold State.hbmRead
  simp (maxDischargeDepth := 99) +contextual [h]

@[simp] theorem State.writeBlock_since {o s : State} {a1} {a2} {a3} {a4} (h : Since o s) : Since o (State.writeBlock s a1 a2 a3 a4).1 := by
  unfold State.writeBlock
  (repeat' split) <;> simp (maxDischargeDepth := 99) +contextual [h, Since.memCtrl (o := o), Since.memTile (o := o)]

@[simp] theorem State.hbmWrite_since {o s : State} {a1} {a2} {a3} (h : Since o s) : Since o (State.hbmWrite s a1 a2 a3).1 := by
  unfold State.hbmWrite
  simp (maxDischargeDepth := 99) +contextual [h]

@[simp] theorem State.chkWrite_since {o s : State} {a1} {a2} {a3} (h : Since o s) : Since o (State.chkWrite s a1 a2 a3) := by
  unfold State.chkWrite
  simp (maxDischargeDepth := 99) +contextual [h]

@[simp] theorem State.readPieces_since {o s : State} {a1} {a2} {a3} (h : Since o s) : Since o (State.readPieces s a1 a2 a3).1 := by
  unfold State.readPieces
  simp (maxDischargeDepth := 99) +contextual [h]

@[simp] theorem State.writePieces_since {o s : State} {a1} {a2} (h : Since o s) : Since o (State.writePieces s a1 a2).1 := by
  unfold State.writePieces
  simp (maxDischargeDepth := 99) +contextual [h]

@[simp] theorem State.ownerWrite_since {o s : State} {a1} {a2} {a3} {a4} (h : Since o s) : Since o (State.ownerWrite s a1 a2 a3 a4).1 := by
  unfold State.ownerWrite
  simp (maxDischargeDepth := 99) [h]

end Sys2Proof.Machine
end

