-- ==== Sys2Proof/Laws/SincePunnet.lean ====
section
/-! SUPPORT. What the operations of `Machine/Punnet.lean` keep. -/

namespace Sys2Proof.Machine

set_option linter.unusedSimpArgs false
set_option linter.unusedTactic false
set_option linter.unreachableTactic false
set_option linter.unnecessarySeqFocus false

@[simp] theorem State.withPool_since {o s : State} {a1} {a2} {a3} (h : Since o s) : Since o (State.withPool s a1 a2 a3) := by
  unfold State.withPool
  simp (maxDischargeDepth := 99) [h]

@[simp] theorem State.withHmPool_since {o s : State} {a1} {a2} {a3} (h : Since o s) : Since o (State.withHmPool s a1 a2 a3) := by
  unfold State.withHmPool
  simp (maxDischargeDepth := 99) [h]

@[simp] theorem State.pkFault_since {o s : State} {a1} {a2} {a3} (h : Since o s) : Since o (State.pkFault s a1 a2 a3) := by
  unfold State.pkFault
  simp (maxDischargeDepth := 99) [h]

@[simp] theorem State.pkDirty_since {o s : State} {a1} {a2} {a3} (h : Since o s) : Since o (State.pkDirty s a1 a2 a3) := by
  unfold State.pkDirty
  simp (maxDischargeDepth := 99) [h]

@[simp] theorem State.pkPtr_since {o s : State} {a1} {a2} {a3} (h : Since o s) : Since o (State.pkPtr s a1 a2 a3) := by
  unfold State.pkPtr
  simp only []
  (repeat' split) <;> simp (maxDischargeDepth := 99) +contextual [*, Since.memCtrl (o := o), Since.memTile (o := o)]

theorem State.takeChain_since {o : State} {n : Nat} : ∀ (k : Nat) {s : State} {l : List (Nat × Nat)} {t}, Since o s →
    s.takeChain n k l = some t → Since o t.2
  | 0, _, _, _, h, e => by
    cases e
    exact h
  | k + 1, s, l, t, h, e => by
    unfold State.takeChain at e
    split at e
    · cases e
    · exact State.takeChain_since k (State.withPool_since h) e

@[simp] theorem State.linkChain_since {o : State} {n : Nat} : ∀ (l : List (Nat × Nat)) {s : State}, Since o s → Since o (s.linkChain n l)
  | [], _, h => h
  | [_], _, h => h
  | (_, _) :: (_, _) :: r, _, h => State.linkChain_since (_ :: r) (State.withPool_since h)

@[simp] theorem State.pkEmpty_since {o s : State} {a1} (h : Since o s) : Since o (State.pkEmpty s a1) := by
  unfold State.pkEmpty
  try simp only []
  (repeat' split) <;> simp (maxDischargeDepth := 99) +contextual [*, Since.memCtrl (o := o), Since.memTile (o := o)]

@[simp] theorem State.transitAlloc_since {o s : State} {a1} {a2} {a3} (h : Since o s) : Since o (State.transitAlloc s a1 a2 a3).1 := by
  unfold State.transitAlloc
  simp only []
  split
  · exact h
  · split
    · simp [h]
    · rename_i r hr
      exact State.linkChain_since _ (State.takeChain_since _ h hr)

@[simp] theorem State.fitAlloc_since {o : State} {n len : Nat} : ∀ (l : List Nat) {s : State}, Since o s → Since o (s.fitAlloc n len l).1
  | [], _, h => State.transitAlloc_since h
  | i :: r, s, h => by
    unfold State.fitAlloc
    split
    · exact State.withPool_since h
    · exact State.fitAlloc_since r (State.pkEmpty_since h)

@[simp] theorem State.localAlloc_since {o s : State} {a1} {a2} {a3} (h : Since o s) : Since o (State.localAlloc s a1 a2 a3).1 := by
  unfold State.localAlloc
  (repeat' split) <;> simp [h]

@[simp] theorem State.freeBufs_since {o s : State} {a1} {a2} (h : Since o s) : Since o (State.freeBufs s a1 a2) := by
  unfold State.freeBufs
  simp (maxDischargeDepth := 99) +contextual [h]

/-- Writing a list of words in turn keeps a memory canonical. -/
theorem wf_foldWords (at_ : Nat) (w : Nat → Bytes) : ∀ (l : List Nat) {m : SMap Byte}, Memory.wf m = true →
    Memory.wf (l.foldl (fun m b => writeBytes m (at_ + 4 * b) (w b)) m) = true
  | [], _, h => h
  | _ :: l, _, h => wf_foldWords at_ w l (Memory.wf_writeBytes _ _ h)

@[simp] theorem State.hmShow_since {o s : State} {a1} {a2} {a3} (h : Since o s) : Since o (State.hmShow s a1 a2 a3) := by
  unfold State.hmShow
  exact State.modCtrl_since h fun x hx => wf_foldWords _ _ _ hx

@[simp] theorem State.hmPut_since {o s : State} {a1} {a2} {a3} {a4} (h : Since o s) : Since o (State.hmPut s a1 a2 a3 a4) := by
  unfold State.hmPut
  try simp only []
  (repeat' split) <;> simp (maxDischargeDepth := 99) +contextual [*, Since.memCtrl (o := o), Since.memTile (o := o)]

@[simp] theorem State.hmLink_since {o s : State} {a1} {a2} {a3} {a4} (h : Since o s) : Since o (State.hmLink s a1 a2 a3 a4) := by
  unfold State.hmLink
  simp only []
  (repeat' split) <;> simp (maxDischargeDepth := 99) +contextual [*, Since.memCtrl (o := o), Since.memTile (o := o)]

@[simp] theorem State.hmFault_since {o s : State} {a1} {a2} {a3} {a4} (h : Since o s) : Since o (State.hmFault s a1 a2 a3 a4) := by
  unfold State.hmFault
  simp (maxDischargeDepth := 99) [h]

@[simp] theorem State.hmDirty_since {o s : State} {a1} {a2} {a3} (h : Since o s) : Since o (State.hmDirty s a1 a2 a3) := by
  unfold State.hmDirty
  simp (maxDischargeDepth := 99) [h]

@[simp] theorem State.hmPtr_since {o s : State} {a1} {a2} {a3} {a4} (h : Since o s) : Since o (State.hmPtr s a1 a2 a3 a4) := by
  unfold State.hmPtr
  simp only []
  (repeat' split) <;> simp (maxDischargeDepth := 99) +contextual [*, Since.memCtrl (o := o), Since.memTile (o := o)]

@[simp] theorem State.hmAlloc_since {o s : State} {a1} {a2} (h : Since o s) : Since o (State.hmAlloc s a1 a2).2 := by
  unfold State.hmAlloc
  simp only []
  split
  · rename_i r hr
    obtain ⟨i, -, hi⟩ := List.exists_of_findSome?_eq_some hr
    split at hi
    · cases hi
    · split at hi
      · cases hi
        exact State.hmLink_since (State.hmPut_since h)
      · cases hi
  · simp [h]

@[simp] theorem State.hmEnable_since {o s : State} {a1} {a2} {a3} (h : Since o s) : Since o (State.hmEnable s a1 a2 a3) := by
  unfold State.hmEnable
  simp (maxDischargeDepth := 99) [h]

end Sys2Proof.Machine
end

