-- ==== Sys2Proof/Laws/SinceNet.lean ====
section
/-! SUPPORT. What the operations of `Machine/Net.lean` keep. -/

namespace Sys2Proof.Machine

set_option linter.unusedSimpArgs false
set_option linter.unusedTactic false
set_option linter.unreachableTactic false
set_option linter.unnecessarySeqFocus false

@[simp] theorem State.wakeAt_since {o s : State} {a1} {a2} (h : Since o s) : Since o (State.wakeAt s a1 a2) := by
  unfold State.wakeAt
  simp (maxDischargeDepth := 99) [h]

@[simp] theorem State.meshPut_since {o s : State} {a1} {a2} {a3} (h : Since o s) : Since o (State.meshPut s a1 a2 a3) := by
  unfold State.meshPut
  simp (maxDischargeDepth := 99) [h]

@[simp] theorem State.sendFrame_since {o s : State} {a1} {a2} {a3} (h : Since o s) : Since o (State.sendFrame s a1 a2 a3) := by
  unfold State.sendFrame
  simp (maxDischargeDepth := 99) [h]

@[simp] theorem State.tileSend_since {o s : State} {a1} {a2} (h : Since o s) : Since o (State.tileSend s a1 a2) := by
  unfold State.tileSend
  simp (maxDischargeDepth := 99) [h]

@[simp] theorem State.colUnreached_since {o s : State} {a1} (h : Since o s) : Since o (State.colUnreached s a1) := by
  unfold State.colUnreached
  exact State.withGroups_since h (keysFrom_map _ h.groupsOrd)

@[simp] theorem State.answerNoRoute_since {o s : State} {a1} {a2} (h : Since o s) : Since o (State.answerNoRoute s a1 a2) := by
  unfold State.answerNoRoute
  simp (maxDischargeDepth := 99) [h]

@[simp] theorem State.discardAt_since {o s : State} {a1} {a2} (h : Since o s) : Since o (State.discardAt s a1 a2) := by
  unfold State.discardAt
  try simp only []
  (repeat' split) <;> simp (maxDischargeDepth := 99) +contextual [*, Since.memCtrl (o := o), Since.memTile (o := o)]

@[simp] theorem State.meshPass_since {o s : State} {a1} {a2} {a3} (h : Since o s) : Since o (State.meshPass s a1 a2 a3) := by
  unfold State.meshPass
  try simp only []
  (repeat' split) <;> simp (maxDischargeDepth := 99) +contextual [*, Since.memCtrl (o := o), Since.memTile (o := o)]

end Sys2Proof.Machine
end

