-- ==== Sys2Proof/Laws/SinceSwitch.lean ====
section
/-! SUPPORT. What the operations of `Machine/Switch.lean` keep. -/

namespace Sys2Proof.Machine

set_option linter.unusedSimpArgs false
set_option linter.unusedTactic false
set_option linter.unreachableTactic false
set_option linter.unnecessarySeqFocus false

@[simp] theorem State.mapFrames_since {o s : State} {a1} {a2} (h : Since o s) : Since o (State.mapFrames s a1 a2) := by
  unfold State.mapFrames
  refine forEach_since (fun k s hs => by simp [hs]) _ (State.modPdie_since ?_)
  exact State.withLocalQ_since (State.withVoq_since h (keysFrom_map _ h.voqOrd)) (keysFrom_map _ h.localQOrd)

@[simp] theorem State.withRoundQueue_since {o s : State} {a1} {a2} {a3} {a4} (h : Since o s) : Since o (State.withRoundQueue s a1 a2 a3 a4) := by
  unfold State.withRoundQueue
  simp (maxDischargeDepth := 99) [h]

@[simp] theorem State.external_since {o s : State} {a1} (h : Since o s) : Since o (State.external s a1) := by
  unfold State.external
  simp (maxDischargeDepth := 99) [h]

@[simp] theorem State.tracePort_since {o s : State} {a1} {a2} {a3} (h : Since o s) : Since o (State.tracePort s a1 a2 a3) := by
  unfold State.tracePort
  simp (maxDischargeDepth := 99) [h]

@[simp] theorem State.dropAt_since {o s : State} {a1} {a2} {a3} (h : Since o s) : Since o (State.dropAt s a1 a2 a3) := by
  unfold State.dropAt
  simp (maxDischargeDepth := 99) [h]

@[simp] theorem State.sendFlow_since {o s : State} {a1} {a2} {a3} (h : Since o s) : Since o (State.sendFlow s a1 a2 a3) := by
  unfold State.sendFlow
  simp (maxDischargeDepth := 99) [h]

@[simp] theorem State.flowCheck_since {o s : State} {a1} {a2} (h : Since o s) : Since o (State.flowCheck s a1 a2) := by
  unfold State.flowCheck
  simp (maxDischargeDepth := 99) [h]

@[simp] theorem State.returnCells_since {o s : State} {a1} {a2} {a3} (h : Since o s) : Since o (State.returnCells s a1 a2 a3) := by
  unfold State.returnCells
  simp (maxDischargeDepth := 99) [h]

@[simp] theorem State.withAsm_since {o s : State} {a1} {a2} {a3} (h : Since o s) : Since o (State.withAsm s a1 a2 a3) := by
  unfold State.withAsm
  try simp only []
  (repeat' split) <;> simp (maxDischargeDepth := 99) +contextual [*, Since.memCtrl (o := o), Since.memTile (o := o)]

@[simp] theorem State.release_since {o s : State} {a1} {a2} (h : Since o s) : Since o (State.release s a1 a2) := by
  unfold State.release
  split <;> simp (maxDischargeDepth := 99) +contextual [h]

@[simp] theorem State.chkFlag_since {o s : State} {a1} {a2} (h : Since o s) : Since o (State.chkFlag s a1 a2) := by
  unfold State.chkFlag
  simp (maxDischargeDepth := 99) [h]

@[simp] theorem State.chkAlive_since {o s : State} {a1} {a2} (h : Since o s) : Since o (State.chkAlive s a1 a2).1 := by
  unfold State.chkAlive
  split <;> simp (maxDischargeDepth := 99) +contextual [h]

@[simp] theorem State.chkCompare_since {o s : State} {a1} {a2} (h : Since o s) : Since o (State.chkCompare s a1 a2) := by
  unfold State.chkCompare
  simp (maxDischargeDepth := 99) [h]

@[simp] theorem State.chkFlowEnd_since {o s : State} {a1} (h : Since o s) : Since o (State.chkFlowEnd s a1) := by
  unfold State.chkFlowEnd
  simp (maxDischargeDepth := 99) [h]

@[simp] theorem State.chkTake_since {o s : State} {a1} {a2} (h : Since o s) : Since o (State.chkTake s a1 a2) := by
  unfold State.chkTake
  simp (maxDischargeDepth := 99) [h]

@[simp] theorem State.chkFrame_since {o s : State} {a1} {a2} {a3} (h : Since o s) : Since o (State.chkFrame s a1 a2 a3) := by
  unfold State.chkFrame
  simp (maxDischargeDepth := 99) +contextual [h]

@[simp] theorem State.hrqPut_since {o s : State} {a1} {a2} (h : Since o s) : Since o (State.hrqPut s a1 a2) := by
  unfold State.hrqPut
  simp (maxDischargeDepth := 99) [h]

@[simp] theorem State.sample_since {o s : State} {a1} {a2} {a3} {a4} (h : Since o s) : Since o (State.sample s a1 a2 a3 a4) := by
  unfold State.sample
  simp only []
  generalize hx : State.localAlloc _ _ _ _ = x
  have h2 : Since o x.1 := hx ▸ State.localAlloc_since (State.modPort_since h)
  obtain ⟨s2, b⟩ := x
  simp only at h2
  cases b <;> simp (maxDischargeDepth := 99) [h, h2]

@[simp] theorem State.withTag_since {o s : State} {a1} {a2} {a3} (h : Since o s) : Since o (State.withTag s a1 a2 a3) := by
  unfold State.withTag
  try simp only []
  (repeat' split) <;> simp (maxDischargeDepth := 99) +contextual [*, Since.memCtrl (o := o), Since.memTile (o := o)]

@[simp] theorem State.retag_since {o s : State} {a1} {a2} (h : Since o s) : Since o (State.retag s a1 a2) := by
  unfold State.retag
  simp only []
  (repeat' split) <;> simp (maxDischargeDepth := 99) +contextual [*, Since.memCtrl (o := o), Since.memTile (o := o)]

@[simp] theorem State.wfqIdle_since {o s : State} {a1} (h : Since o s) : Since o (State.wfqIdle s a1) := by
  unfold State.wfqIdle
  simp (maxDischargeDepth := 99) [h]

@[simp] theorem State.headGone_since {o s : State} {a1} {a2} {a3} (h : Since o s) : Since o (State.headGone s a1 a2 a3) := by
  unfold State.headGone
  simp only []
  (repeat' split) <;> simp (maxDischargeDepth := 99) +contextual [*, Since.memCtrl (o := o), Since.memTile (o := o)]

@[simp] theorem State.dropOld_since {o s : State} {a1} {a2} {a3} (h : Since o s) : Since o (State.dropOld s a1 a2 a3) := by
  unfold State.dropOld
  try simp only []
  (repeat' split) <;> simp (maxDischargeDepth := 99) +contextual [*, Since.memCtrl (o := o), Since.memTile (o := o)]

@[simp] theorem State.ageOut_since {o : State} {e c i : Nat} : ∀ (l : List QFrame) {s : State}, Since o s → Since o (s.ageOut e c i l)
  | [], _, h => h
  | q :: r, s, h => by
    unfold State.ageOut
    split
    · exact State.ageOut_since r (by simp (maxDischargeDepth := 99) [h])
    · exact h

@[simp] theorem State.headTest_since {o s : State} {a1} {a2} {a3} (h : Since o s) : Since o (State.headTest s a1 a2 a3) := by
  unfold State.headTest
  try simp only []
  (repeat' split) <;> simp (maxDischargeDepth := 99) +contextual [*, Since.memCtrl (o := o), Since.memTile (o := o)]

@[simp] theorem State.ageLocal_since {o : State} {p c : Nat} : ∀ (l : List QFrame) {s : State}, Since o s → Since o (s.ageLocal p c l)
  | [], _, h => h
  | q :: r, s, h => by
    unfold State.ageLocal
    split
    · exact State.ageLocal_since r (by simp (maxDischargeDepth := 99) [h])
    · exact h

@[simp] theorem State.enqueue_since {o s : State} {a1} {a2} (h : Since o s) : Since o (State.enqueue s a1 a2) := by
  unfold State.enqueue
  simp (maxDischargeDepth := 99) [h]

@[simp] theorem State.enqueueLocal_since {o s : State} {a1} (h : Since o s) : Since o (State.enqueueLocal s a1) := by
  unfold State.enqueueLocal
  simp (maxDischargeDepth := 99) [h]

@[simp] theorem State.shareBufs_since {o s : State} {a1} {a2} (h : Since o s) : Since o (State.shareBufs s a1 a2) := by
  unfold State.shareBufs
  simp (maxDischargeDepth := 99) +contextual [h]

@[simp] theorem State.park_since {o s : State} {a1} {a2} (h : Since o s) : Since o (State.park s a1 a2) := by
  unfold State.park
  simp (maxDischargeDepth := 99) [h]

@[simp] theorem State.toPort_since {o s : State} {a1} {a2} (h : Since o s) : Since o (State.toPort s a1 a2) := by
  unfold State.toPort
  simp (maxDischargeDepth := 99) [h]

@[simp] theorem State.admits_since {o s : State} {a1} {a2} {a3} {a4} (h : Since o s) : Since o (State.admits s a1 a2 a3 a4).1 := by
  unfold State.admits
  simp only []
  (repeat' split) <;> simp [h]

@[simp] theorem State.limitTake_since {o s : State} {a1} {a2} (h : Since o s) : Since o (State.limitTake s a1 a2) := by
  unfold State.limitTake
  try simp only []
  (repeat' split) <;> simp (maxDischargeDepth := 99) +contextual [*, Since.memCtrl (o := o), Since.memTile (o := o)]

@[simp] theorem State.countDyn_since {o s : State} {a1} {a2} (h : Since o s) : Since o (State.countDyn s a1 a2) := by
  unfold State.countDyn
  try simp only []
  (repeat' split) <;> simp (maxDischargeDepth := 99) +contextual [*, Since.memCtrl (o := o), Since.memTile (o := o)]

@[simp] theorem State.inject_since {o s : State} {a1} {a2} {a3} (h : Since o s) : Since o (State.inject s a1 a2 a3).1 := by
  unfold State.inject
  simp only []
  split
  any_goals simp (maxDischargeDepth := 99) [h]; done
  all_goals
    split
    · simp [h]
    split
    · exact h
    generalize hx : State.localAlloc _ _ _ _ = x
    have h2 : Since o x.1 := hx ▸ State.localAlloc_since h
    obtain ⟨y, b⟩ := x
    cases b <;> simp (maxDischargeDepth := 99) at h2 ⊢ <;> simp (maxDischargeDepth := 99) [h2]

@[simp] theorem State.echo_since {o s : State} {a1} {a2} (h : Since o s) : Since o (State.echo s a1 a2) := by
  unfold State.echo
  simp only []
  split <;> simp (maxDischargeDepth := 99) [h]

end Sys2Proof.Machine
end

