-- ==== Sys2Proof/Laws/SinceSched.lean ====
section
/-! SUPPORT. What the operations of `Machine/Sched.lean` keep. -/

namespace Sys2Proof.Machine

set_option linter.unusedSimpArgs false
set_option linter.unusedTactic false
set_option linter.unreachableTactic false
set_option linter.unnecessarySeqFocus false

@[simp] theorem State.withTokens_since {o s : State} {a1} {a2} {a3} (h : Since o s) : Since o (State.withTokens s a1 a2 a3) := by
  unfold State.withTokens
  simp (maxDischargeDepth := 99) [h]

@[simp] theorem State.shaperTake_since {o s : State} {a1} {a2} {a3} (h : Since o s) : Since o (State.shaperTake s a1 a2 a3) := by
  unfold State.shaperTake
  simp (maxDischargeDepth := 99) [h]

@[simp] theorem State.police_since {o s : State} {a1} {a2} {a3} {a4} (h : Since o s) : Since o (State.police s a1 a2 a3 a4).1 := by
  unfold State.police
  simp only []
  (repeat' split) <;> simp [h]

@[simp] theorem State.correct_since {o s : State} {a1} {a2} {a3} {a4} (h : Since o s) : Since o (State.correct s a1 a2 a3 a4) := by
  unfold State.correct
  simp only []
  (repeat' split) <;> simp (maxDischargeDepth := 99) +contextual [*, Since.memCtrl (o := o), Since.memTile (o := o)]

@[simp] theorem State.settle_since {o : State} {e : Nat} : ∀ (k : Nat) {s : State}, Since o s → Since o (s.settle e k)
  | 0, _, h => h
  | k + 1, s, h => by
    unfold State.settle
    (repeat' split)
    any_goals exact h
    exact State.settle_since k (State.headTest_since h)

@[simp] theorem State.putSet_since {o s : State} {a1} {a2} (h : Since o s) : Since o (State.putSet s a1 a2) := by
  unfold State.putSet
  try simp only []
  (repeat' split) <;> simp (maxDischargeDepth := 99) +contextual [*, Since.memCtrl (o := o), Since.memTile (o := o)]

@[simp] theorem State.timeSlot_since {o s : State} {a1} (h : Since o s) : Since o (State.timeSlot s a1) := by
  unfold State.timeSlot
  simp only []
  (repeat' split) <;> simp (maxDischargeDepth := 99) +contextual [*, Since.memCtrl (o := o), Since.memTile (o := o)]

@[simp] theorem State.putGroup_since {o s : State} {a1} {a2} (h : Since o s) : Since o (State.putGroup s a1 a2) := by
  unfold State.putGroup
  simp only []
  (repeat' split) <;> simp (maxDischargeDepth := 99) +contextual [*, Since.memCtrl (o := o), Since.memTile (o := o)]

@[simp] theorem State.sendCell_since {o s : State} {a1} {a2} {a3} {a4} (h : Since o s) : Since o (State.sendCell s a1 a2 a3 a4) := by
  unfold State.sendCell
  simp (maxDischargeDepth := 99) [h]

@[simp] theorem State.frameSent_since {o s : State} {a1} {a2} {a3} (h : Since o s) : Since o (State.frameSent s a1 a2 a3) := by
  unfold State.frameSent
  simp (maxDischargeDepth := 99) [h]

@[simp] theorem State.oversize_since {o s : State} {a1} {a2} (h : Since o s) : Since o (State.oversize s a1 a2) := by
  unfold State.oversize
  try simp only []
  (repeat' split) <;> simp (maxDischargeDepth := 99) +contextual [*, Since.memCtrl (o := o), Since.memTile (o := o)]

@[simp] theorem State.expressChecks_since {o s : State} {a1} {a2} (h : Since o s) : Since o (State.expressChecks s a1 a2) := by
  unfold State.expressChecks
  simp (maxDischargeDepth := 99) [h]

@[simp] theorem State.expressLeft_since {o s : State} {a1} {a2} {a3} (h : Since o s) : Since o (State.expressLeft s a1 a2 a3) := by
  unfold State.expressLeft
  try simp only []
  (repeat' split) <;> simp (maxDischargeDepth := 99) +contextual [*, Since.memCtrl (o := o), Since.memTile (o := o)]

theorem State.grant_since {o s : State} {a1} {a2} (h : Since o s) : ∀ {t}, State.grant s a1 a2 = some t → Since o t.2 := by
  intro t e
  unfold State.grant at e
  split at e
  · cases e
  · simp only [Option.some.injEq] at e
    subst e
    simp (maxDischargeDepth := 99) [h]

@[simp] theorem State.withTx_since {o s : State} {a1} {a2} {a3} (h : Since o s) : Since o (State.withTx s a1 a2 a3) := by
  unfold State.withTx
  try simp only []
  (repeat' split) <;> simp (maxDischargeDepth := 99) +contextual [*, Since.memCtrl (o := o), Since.memTile (o := o)]

@[simp] theorem State.nextCell_since {o s : State} {a1} {a2} {a3} (h : Since o s) : Since o (State.nextCell s a1 a2 a3) := by
  unfold State.nextCell
  simp (maxDischargeDepth := 99) [h]

@[simp] theorem State.sendWhole_since {o s : State} {a1} {a2} {a3} (h : Since o s) : Since o (State.sendWhole s a1 a2 a3) := by
  unfold State.sendWhole
  simp (maxDischargeDepth := 99) [h]

@[simp] theorem State.startFrame_since {o s : State} {a1} {a2} (h : Since o s) : Since o (State.startFrame s a1 a2) := by
  unfold State.startFrame
  split
  · exact h
  · rename_i q s1 hg
    have h1 : Since o s1 := State.grant_since h hg
    simp only []
    (repeat' split) <;> simp (maxDischargeDepth := 99) [h1]

@[simp] theorem State.finishFrame_since {o s : State} {a1} {a2} {a3} (h : Since o s) : Since o (State.finishFrame s a1 a2 a3) := by
  unfold State.finishFrame
  simp (maxDischargeDepth := 99) [h]

@[simp] theorem State.countStall_since {o s : State} {a1} (h : Since o s) : Since o (State.countStall s a1) := by
  unfold State.countStall
  simp only []
  (repeat' split) <;> simp (maxDischargeDepth := 99) +contextual [*, Since.memCtrl (o := o), Since.memTile (o := o)]

@[simp] theorem State.gateWait_since {o s : State} {a1} (h : Since o s) : Since o (State.gateWait s a1) := by
  unfold State.gateWait
  simp only []
  split
  · exact h
  · generalize hx : List.foldl _ _ _ = x
    have hx : Since o x := by
      rw [← hx]
      refine foldl_since' (fun s i hs => ?_) _ h
      split <;> simp [hs]
    (repeat' split) <;> simp [hx]

@[simp] theorem State.countClosed_since {o s : State} {a1} (h : Since o s) : Since o (State.countClosed s a1) := by
  unfold State.countClosed
  simp (maxDischargeDepth := 99) +contextual [h]

@[simp] theorem State.slotChoice_since {o s : State} {a1} (h : Since o s) : Since o (State.slotChoice s a1) := by
  unfold State.slotChoice
  (repeat' split) <;> simp (maxDischargeDepth := 99) +contextual [h]

@[simp] theorem State.cellSlot_since {o s : State} {a1} (h : Since o s) : Since o (State.cellSlot s a1) := by
  unfold State.cellSlot
  simp only []
  (repeat' split) <;> simp (maxDischargeDepth := 99) +contextual [*, Since.memCtrl (o := o), Since.memTile (o := o)]

end Sys2Proof.Machine
end

