-- ==== Sys2Proof/Laws/SinceIngress.lean ====
section
/-! SUPPORT. What the operations of `Machine/Ingress.lean` keep. -/

namespace Sys2Proof.Machine

set_option linter.unusedSimpArgs false
set_option linter.unusedTactic false
set_option linter.unreachableTactic false
set_option linter.unnecessarySeqFocus false

@[simp] theorem State.chargeCells_since {o s : State} {a1} {a2} {a3} (h : Since o s) : Since o (State.chargeCells s a1 a2 a3) := by
  unfold State.chargeCells
  simp (maxDischargeDepth := 99) [h]

@[simp] theorem State.disagreeTile_since {o s : State} {a1} (h : Since o s) : Since o (State.disagreeTile s a1) := by
  unfold State.disagreeTile
  simp only []
  split
  · exact h
  · split
    · simp [h]
    · have hb : Since o (s.bump Reg.fltMgmtDisagreeCnt) := by simp [h]
      exact State.raiseFault_since (State.withFaults_since hb hb.faultsLe)

@[simp] theorem State.disagree_since {o s : State} {a1} (h : Since o s) : Since o (State.disagree s a1) := by
  unfold State.disagree
  split <;> simp (maxDischargeDepth := 99) +contextual [h]

@[simp] theorem State.dropArrival_since {o s : State} {a1} {a2} {a3} (h : Since o s) : Since o (State.dropArrival s a1 a2 a3) := by
  unfold State.dropArrival
  split <;> simp (maxDischargeDepth := 99) +contextual [h]

@[simp] theorem State.dropCounted_since {o s : State} {a1} {a2} {a3} {a4} (h : Since o s) : Since o (State.dropCounted s a1 a2 a3 a4) := by
  unfold State.dropCounted
  simp (maxDischargeDepth := 99) [h]

@[simp] theorem State.dropAdmission_since {o s : State} {a1} {a2} {a3} {a4} {a5} (h : Since o s) : Since o (State.dropAdmission s a1 a2 a3 a4 a5) := by
  unfold State.dropAdmission
  simp (maxDischargeDepth := 99) [h]

@[simp] theorem State.queueArrival_since {o s : State} {a1} {a2} {a3} {a4} {a5} {a6} {a7} (h : Since o s) :
    Since o (State.queueArrival s a1 a2 a3 a4 a5 a6 a7) := by
  unfold State.queueArrival
  simp only []
  generalize hx : State.admits _ _ _ _ _ = x
  have h1 : Since o x.1 := hx ▸ State.admits_since h
  obtain ⟨s1, b⟩ := x
  cases b
  · simp only at h1 ⊢
    simp [h1]
  · simp only at h1 ⊢
    refine State.flowCheck_since ?_
    (repeat' split) <;> simp (maxDischargeDepth := 99) [h1]

@[simp] theorem State.classify_since {o s : State} {a1} {a2} {a3} {a4} {a5} {a6} (h : Since o s) : Since o (State.classify s a1 a2 a3 a4 a5 a6) := by
  unfold State.classify
  simp only []
  (repeat' split) <;> simp (maxDischargeDepth := 99) +contextual [*, Since.memCtrl (o := o), Since.memTile (o := o)]

@[simp] theorem State.ingressClass_since {o s : State} {a1} {a2} {a3} {a4} (h : Since o s) : Since o (State.ingressClass s a1 a2 a3 a4).1 := by
  unfold State.ingressClass
  simp (maxDischargeDepth := 99) [h]

@[simp] theorem State.frameReceived_since {o s : State} {a1} {a2} {a3} (h : Since o s) : Since o (State.frameReceived s a1 a2 a3) := by
  unfold State.frameReceived
  simp (maxDischargeDepth := 99) [h]

@[simp] theorem State.ingress_since {o s : State} {a1} {a2} {a3} {a4} (h : Since o s) : Since o (State.ingress s a1 a2 a3 a4) := by
  unfold State.ingress
  simp only []
  split <;> simp (maxDischargeDepth := 99) [h]

@[simp] theorem State.cutStart_since {o s : State} {a1} {a2} {a3} (h : Since o s) : Since o (State.cutStart s a1 a2 a3) := by
  unfold State.cutStart
  simp only []
  (repeat' split) <;> simp (maxDischargeDepth := 99) [h]

@[simp] theorem State.cutDrop_since {o s : State} {a1} {a2} (h : Since o s) : Since o (State.cutDrop s a1 a2) := by
  unfold State.cutDrop
  simp only []
  (repeat' split) <;> simp (maxDischargeDepth := 99) +contextual [*, Since.memCtrl (o := o), Since.memTile (o := o)]

@[simp] theorem State.growCut_since {o s : State} {a1} {a2} {a3} {a4} (h : Since o s) : Since o (State.growCut s a1 a2 a3 a4) := by
  unfold State.growCut
  simp only []
  generalize hx : State.transitAlloc _ _ _ _ = x
  have h1 : Since o x.1 := hx ▸ State.transitAlloc_since h
  obtain ⟨s1, b⟩ := x
  cases b <;> simp only at h1 ⊢ <;> simp (maxDischargeDepth := 99) [h1]

@[simp] theorem State.cutTags_since {o s : State} {a1} {a2} {a3} (h : Since o s) : Since o (State.cutTags s a1 a2 a3) := by
  unfold State.cutTags
  simp only []
  (repeat' split) <;> simp (maxDischargeDepth := 99) +contextual [*, Since.memCtrl (o := o), Since.memTile (o := o)]

@[simp] theorem State.endCut_since {o s : State} {a1} {a2} {a3} {a4} (h : Since o s) : Since o (State.endCut s a1 a2 a3 a4) := by
  unfold State.endCut
  simp only []
  (repeat' split) <;> simp (maxDischargeDepth := 99) +contextual [*, Since.memCtrl (o := o), Since.memTile (o := o)]

@[simp] theorem State.frameArrival_since {o s : State} {a1} {a2} {a3} (h : Since o s) : Since o (State.frameArrival s a1 a2 a3) := by
  unfold State.frameArrival
  (repeat' split) <;> simp (maxDischargeDepth := 99) +contextual [h]

@[simp] theorem State.localDelivery_since {o s : State} {a1} {a2} (h : Since o s) : Since o (State.localDelivery s a1 a2) := by
  unfold State.localDelivery
  simp only []
  (repeat' split) <;> simp (maxDischargeDepth := 99) +contextual [*, Since.memCtrl (o := o), Since.memTile (o := o)]

@[simp] theorem State.meshArrive_since {o s : State} {a1} {a2} (h : Since o s) : Since o (State.meshArrive s a1 a2).1 := by
  unfold State.meshArrive
  (repeat' split) <;> simp [h]

@[simp] theorem State.meshMiss_since {o s : State} {a1} {a2} (h : Since o s) : Since o (State.meshMiss s a1 a2) := by
  unfold State.meshMiss
  (repeat' split) <;> simp [h]

@[simp] theorem State.meshForward_since {o s : State} {a1} {a2} (h : Since o s) : Since o (State.meshForward s a1 a2) := by
  unfold State.meshForward
  simp only []
  (repeat' split) <;> simp (maxDischargeDepth := 99) [h]

end Sys2Proof.Machine
end

