-- ==== Sys2Proof/Laws/SinceFields.lean ====
section
/-! SUPPORT. What the operations of `Machine/Fields.lean` keep. -/

namespace Sys2Proof.Machine

set_option linter.unusedSimpArgs false
set_option linter.unusedTactic false
set_option linter.unreachableTactic false
set_option linter.unnecessarySeqFocus false

@[simp] theorem State.store_since {o s : State} {a1} {a2} (h : Since o s) : Since o (State.store s a1 a2) := by
  unfold State.store
  split <;> simp (maxDischargeDepth := 99) +contextual [h]

@[simp] theorem State.refuse_since {o s : State} {a1} {a2} {a3} (h : Since o s) : Since o (State.refuse s a1 a2 a3) := by
  unfold State.refuse
  simp (maxDischargeDepth := 99) [h]

@[simp] theorem State.powerEvent_since {o s : State} {a1} (h : Since o s) : Since o (State.powerEvent s a1) := by
  unfold State.powerEvent
  simp (maxDischargeDepth := 99) [h]

@[simp] theorem State.barrierEvent_since {o s : State} {a1} (h : Since o s) : Since o (State.barrierEvent s a1) := by
  unfold State.barrierEvent
  simp (maxDischargeDepth := 99) [h]

@[simp] theorem State.barrierDropped_since {o s : State}  (h : Since o s) : Since o (State.barrierDropped s) := by
  unfold State.barrierDropped
  simp (maxDischargeDepth := 99) [h]

end Sys2Proof.Machine
end

