-- ==== Sys2Proof/Laws/SinceLink.lean ====
section
/-! SUPPORT. What the operations of `Machine/Link.lean` keep. -/

namespace Sys2Proof.Machine

set_option linter.unusedSimpArgs false
set_option linter.unusedTactic false
set_option linter.unreachableTactic false
set_option linter.unnecessarySeqFocus false

@[simp] theorem State.unlock_since {o s : State} {a1} (h : Since o s) : Since o (State.unlock s a1) := by
  unfold State.unlock
  simp (maxDischargeDepth := 99) [h]

@[simp] theorem State.withLinkState_since {o s : State} {a1} {a2} (h : Since o s) : Since o (State.withLinkState s a1 a2) := by
  unfold State.withLinkState
  simp (maxDischargeDepth := 99) [h]

@[simp] theorem State.advertise_since {o s : State} {a1} (h : Since o s) : Since o (State.advertise s a1) := by
  unfold State.advertise
  simp only []
  (repeat' split) <;> simp (maxDischargeDepth := 99) +contextual [*, Since.memCtrl (o := o), Since.memTile (o := o)]

@[simp] theorem State.portFault_since {o s : State} {a1} {a2} {a3} {a4} (h : Since o s) : Since o (State.portFault s a1 a2 a3 a4) := by
  unfold State.portFault
  simp (maxDischargeDepth := 99) [h]

@[simp] theorem State.holdClass_since {o s : State} {a1} {a2} {a3} (h : Since o s) : Since o (State.holdClass s a1 a2 a3) := by
  unfold State.holdClass
  simp (maxDischargeDepth := 99) [h]

@[simp] theorem State.holdCell_since {o s : State} {a1} {a2} {a3} (h : Since o s) : Since o (State.holdCell s a1 a2 a3) := by
  unfold State.holdCell
  simp (maxDischargeDepth := 99) +contextual [h]

@[simp] theorem State.pauseFrame_since {o s : State} {a1} {a2} (h : Since o s) : Since o (State.pauseFrame s a1 a2) := by
  unfold State.pauseFrame
  simp (maxDischargeDepth := 99) +contextual [h]

@[simp] theorem State.pfcFrame_since {o s : State} {a1} {a2} {a3} (h : Since o s) : Since o (State.pfcFrame s a1 a2 a3) := by
  unfold State.pfcFrame
  simp (maxDischargeDepth := 99) +contextual [h]

@[simp] theorem State.dropQueued_since {o s : State} {a1} (h : Since o s) : Since o (State.dropQueued s a1) := by
  unfold State.dropQueued
  simp only []
  have h1 := foldl_since' (o := o) (fun (s : State) c hs => foldl_since' (o := o) (f := fun s i =>
    match s.roundQueue a1 c i with
    | [] => s
    | l =>
      forEach l (fun q s => s.release (q.die a1) q)
        ((s.withRoundQueue a1 c i []).bumpBy (pdReg (a1 / 32) Reg.rteRetireDropCnt) l.length)) (fun (s : State) (i : Nat) hs => by
      split
      · exact hs
      · exact forEach_since (fun q s hs => State.release_since hs) _ (State.bumpBy_since (State.withRoundQueue_since hs))) (List.range 129) hs) (List.range 8) h
  exact State.wfqIdle_since (forEach_since (fun q s hs => State.release_since hs) _ (State.bumpBy_since (State.modPort_since h1)))

@[simp] theorem State.dropAsm_since {o s : State} {a1} {a2} {a3} (h : Since o s) : Since o (State.dropAsm s a1 a2 a3) := by
  unfold State.dropAsm
  simp only []
  split
  · simp [h]
  · split <;> simp (maxDischargeDepth := 99) [h]

@[simp] theorem State.dropStreams_since {o s : State} {a1} (h : Since o s) : Since o (State.dropStreams s a1) := by
  unfold State.dropStreams
  try simp only []
  (repeat' split) <;> simp (maxDischargeDepth := 99) +contextual [*, Since.memCtrl (o := o), Since.memTile (o := o)]

@[simp] theorem State.retirePort_since {o s : State} {a1} (h : Since o s) : Since o (State.retirePort s a1) := by
  unfold State.retirePort
  simp (maxDischargeDepth := 99) [h]

@[simp] theorem State.retrain_since {o s : State} {a1} {a2} (h : Since o s) : Since o (State.retrain s a1 a2) := by
  unfold State.retrain
  simp (maxDischargeDepth := 99) [h]

@[simp] theorem State.replay_since {o s : State} {a1} (h : Since o s) : Since o (State.replay s a1) := by
  unfold State.replay
  simp (maxDischargeDepth := 99) +contextual [h]

@[simp] theorem State.takeTrailer_since {o s : State} {a1} {a2} (h : Since o s) : Since o (State.takeTrailer s a1 a2) := by
  unfold State.takeTrailer
  simp (maxDischargeDepth := 99) [h]

@[simp] theorem State.asmDone_since {o s : State} {a1} {a2} {a3} {a4} (h : Since o s) : Since o (State.asmDone s a1 a2 a3 a4) := by
  unfold State.asmDone
  split <;> simp (maxDischargeDepth := 99) [h]

@[simp] theorem State.wasteCell_since {o s : State} {a1} {a2} (h : Since o s) : Since o (State.wasteCell s a1 a2) := by
  unfold State.wasteCell
  try simp only []
  (repeat' split) <;> simp (maxDischargeDepth := 99) +contextual [*, Since.memCtrl (o := o), Since.memTile (o := o)]

@[simp] theorem State.asmCell_since {o s : State} {a1} {a2} {a3} {a4} {a5} {a6} (h : Since o s) : Since o (State.asmCell s a1 a2 a3 a4 a5 a6) := by
  unfold State.asmCell
  simp (maxDischargeDepth := 99) [h]

@[simp] theorem State.badCell_since {o s : State} {a1} {a2} {a3} (h : Since o s) : Since o (State.badCell s a1 a2 a3) := by
  unfold State.badCell
  simp only []
  (repeat' split) <;> simp (maxDischargeDepth := 99) +contextual [*, Since.memCtrl (o := o), Since.memTile (o := o)]

@[simp] theorem State.dataCell_since {o s : State} {a1} {a2} (h : Since o s) : Since o (State.dataCell s a1 a2) := by
  unfold State.dataCell
  simp only []
  (repeat' split) <;> simp (maxDischargeDepth := 99) [h]

@[simp] theorem State.takeCell_since {o s : State} {a1} {a2} (h : Since o s) : Since o (State.takeCell s a1 a2) := by
  unfold State.takeCell
  simp (maxDischargeDepth := 99) [h]

@[simp] theorem State.badBlock_since {o s : State} {a1} (h : Since o s) : Since o (State.badBlock s a1) := by
  unfold State.badBlock
  simp (maxDischargeDepth := 99) [h]

@[simp] theorem State.goodSet_since {o s : State} {a1} (h : Since o s) : Since o (State.goodSet s a1) := by
  unfold State.goodSet
  try simp only []
  (repeat' split) <;> simp (maxDischargeDepth := 99) +contextual [*, Since.memCtrl (o := o), Since.memTile (o := o)]

@[simp] theorem State.badSet_since {o s : State} {a1} {a2} (h : Since o s) : Since o (State.badSet s a1 a2) := by
  unfold State.badSet
  simp only []
  (repeat' split) <;> simp (maxDischargeDepth := 99) +contextual [*, Since.memCtrl (o := o), Since.memTile (o := o)]

@[simp] theorem State.alignGroup_since {o s : State} {a1} {a2} (h : Since o s) : Since o (State.alignGroup s a1 a2) := by
  unfold State.alignGroup
  simp only []
  (repeat' split) <;> simp (maxDischargeDepth := 99) +contextual [*, Since.memCtrl (o := o), Since.memTile (o := o)]

@[simp] theorem State.groupReceive_since {o s : State} {a1} {a2} (h : Since o s) : Since o (State.groupReceive s a1 a2) := by
  unfold State.groupReceive
  simp (maxDischargeDepth := 99) +contextual [h]

@[simp] theorem State.creditInit_since {o s : State} {a1} {a2} (h : Since o s) : Since o (State.creditInit s a1 a2) := by
  unfold State.creditInit
  simp (maxDischargeDepth := 99) +contextual [h]

@[simp] theorem State.narrow_since {o s : State} {a1} {a2} (h : Since o s) : Since o (State.narrow s a1 a2) := by
  unfold State.narrow
  split <;> simp (maxDischargeDepth := 99) +contextual [h]

@[simp] theorem State.linkStateReceive_since {o s : State} {a1} {a2} (h : Since o s) : Since o (State.linkStateReceive s a1 a2) := by
  unfold State.linkStateReceive
  simp (maxDischargeDepth := 99) [h]

@[simp] theorem State.laneLost_since {o s : State} {a1} (h : Since o s) : Since o (State.laneLost s a1) := by
  unfold State.laneLost
  split <;> simp (maxDischargeDepth := 99) [h]

@[simp] theorem State.berWindow_since {o s : State} {a1} {a2} {a3} (h : Since o s) : Since o (State.berWindow s a1 a2 a3) := by
  unfold State.berWindow
  simp (maxDischargeDepth := 99) +contextual [h]

@[simp] theorem State.markLate_since {o s : State} {a1} (h : Since o s) : Since o (State.markLate s a1) := by
  unfold State.markLate
  simp only []
  (repeat' split) <;> simp (maxDischargeDepth := 99) +contextual [*, Since.memCtrl (o := o), Since.memTile (o := o)]

@[simp] theorem State.shutterNow_since {o s : State} {a1} (h : Since o s) : Since o (State.shutterNow s a1) := by
  unfold State.shutterNow
  simp (maxDischargeDepth := 99) [h]

@[simp] theorem State.stepTime_since {o s : State} {a1} (h : Since o s) : Since o (State.stepTime s a1) := by
  unfold State.stepTime
  simp (maxDischargeDepth := 99) +contextual [h]

@[simp] theorem State.servoTake_since {o s : State} {a1} {a2} (h : Since o s) : Since o (State.servoTake s a1 a2) := by
  unfold State.servoTake
  simp (maxDischargeDepth := 99) [h]

@[simp] theorem State.outOfStep_since {o s : State} {a1} (h : Since o s) : Since o (State.outOfStep s a1) := by
  unfold State.outOfStep
  simp (maxDischargeDepth := 99) [h]

@[simp] theorem State.judge_since {o s : State} {a1} {a2} {a3} (h : Since o s) : Since o (State.judge s a1 a2 a3) := by
  unfold State.judge
  simp (maxDischargeDepth := 99) [h]

@[simp] theorem State.timeSetReceive_since {o s : State} {a1} {a2} (h : Since o s) : Since o (State.timeSetReceive s a1 a2) := by
  unfold State.timeSetReceive
  simp (maxDischargeDepth := 99) [h]

@[simp] theorem State.timeSetSend_since {o s : State} {a1} (h : Since o s) : Since o (State.timeSetSend s a1) := by
  unfold State.timeSetSend
  simp (maxDischargeDepth := 99) [h]

@[simp] theorem State.trainingDone_since {o s : State} {a1} {a2} {a3} (h : Since o s) : Since o (State.trainingDone s a1 a2 a3) := by
  unfold State.trainingDone
  simp (maxDischargeDepth := 99) [h]

@[simp] theorem State.trainingTimeout_since {o s : State} {a1} (h : Since o s) : Since o (State.trainingTimeout s a1) := by
  unfold State.trainingTimeout
  simp (maxDischargeDepth := 99) [h]

@[simp] theorem State.trainPort_since {o s : State} {a1} (h : Since o s) : Since o (State.trainPort s a1) := by
  unfold State.trainPort
  simp only []
  (repeat' split) <;> simp (maxDischargeDepth := 99) +contextual [*, Since.memCtrl (o := o), Since.memTile (o := o)]

@[simp] theorem State.startPorts_since {o s : State} {a1} (h : Since o s) : Since o (State.startPorts s a1) := by
  unfold State.startPorts
  simp (maxDischargeDepth := 99) +contextual [h]

end Sys2Proof.Machine
end

