-- ==== Sys2Proof/Laws/SinceAcc.lean ====
section
/-! SUPPORT. What the operations of `Machine/Acc.lean` keep. -/

namespace Sys2Proof.Machine

set_option linter.unusedSimpArgs false
set_option linter.unusedTactic false
set_option linter.unreachableTactic false
set_option linter.unnecessarySeqFocus false

@[simp] theorem State.addTerm_since {o s : State} {a1} {a2} {a3} (h : Since o s) : Since o (State.addTerm s a1 a2 a3) := by
  unfold State.addTerm
  simp (maxDischargeDepth := 99) +contextual [h]

@[simp] theorem State.poisonSlot_since {o s : State} {a1} {a2} (h : Since o s) : Since o (State.poisonSlot s a1 a2) := by
  unfold State.poisonSlot
  simp (maxDischargeDepth := 99) +contextual [h]

end Sys2Proof.Machine
end

