-- ==== Sys2Proof/Laws/SinceTiles.lean ====
section
/-! SUPPORT. What the operations of `Machine/Tiles.lean` keep. -/

namespace Sys2Proof.Machine

set_option linter.unusedSimpArgs false
set_option linter.unusedTactic false
set_option linter.unreachableTactic false
set_option linter.unnecessarySeqFocus false

@[simp] theorem State.withCtx_since {o s : State} {a1} {a2} {a3} (h : Since o s) : Since o (State.withCtx s a1 a2 a3) := by
  unfold State.withCtx
  simp (maxDischargeDepth := 99) +contextual [h]

@[simp] theorem State.modCtx_since {o s : State} {a1} {a2} {a3} (h : Since o s) : Since o (State.modCtx s a1 a2 a3) := by
  unfold State.modCtx
  simp (maxDischargeDepth := 99) [h]

@[simp] theorem State.addCounter_since {o s : State} {a1} {a2} {a3} (h : Since o s) : Since o (State.addCounter s a1 a2 a3) := by
  unfold State.addCounter
  simp (maxDischargeDepth := 99) +contextual [h]

@[simp] theorem State.endCtx_since {o s : State} {a1} {a2} (h : Since o s) : Since o (State.endCtx s a1 a2) := by
  unfold State.endCtx
  simp (maxDischargeDepth := 99) +contextual [h]

@[simp] theorem State.recordExc_since {o s : State} {a1} {a2} {a3} {a4} {a5} {a6} (h : Since o s) : Since o (State.recordExc s a1 a2 a3 a4 a5 a6) := by
  unfold State.recordExc
  simp only []
  (repeat' split) <;> simp (maxDischargeDepth := 99) +contextual [*, Since.memCtrl (o := o), Since.memTile (o := o)]

@[simp] theorem State.raiseExc_since {o s : State} {a1} {a2} {a3} {a4} (h : Since o s) : Since o (State.raiseExc s a1 a2 a3 a4) := by
  unfold State.raiseExc
  simp (maxDischargeDepth := 99) [h]

@[simp] theorem State.dropHeld_since {o s : State} {a1} {a2} {a3} {a4} (h : Since o s) : Since o (State.dropHeld s a1 a2 a3 a4) := by
  unfold State.dropHeld
  simp only []
  (repeat' split) <;> simp (maxDischargeDepth := 99) +contextual [*, Since.memCtrl (o := o), Since.memTile (o := o)]

@[simp] theorem State.gangLost_since {o s : State} {a1} (h : Since o s) : Since o (State.gangLost s a1) := by
  unfold State.gangLost
  simp only []
  (repeat' split) <;> simp (maxDischargeDepth := 99) +contextual [*, Since.memCtrl (o := o), Since.memTile (o := o)]

@[simp] theorem State.stopGangs_since {o s : State} {a1} (h : Since o s) : Since o (State.stopGangs s a1) := by
  unfold State.stopGangs
  try simp only []
  (repeat' split) <;> simp (maxDischargeDepth := 99) +contextual [*, Since.memCtrl (o := o), Since.memTile (o := o)]

@[simp] theorem State.endAll_since {o s : State} {a1} (h : Since o s) : Since o (State.endAll s a1) := by
  unfold State.endAll
  simp (maxDischargeDepth := 99) +contextual [h]

@[simp] theorem State.foreignActivity_since {o s : State} {a1} (h : Since o s) : Since o (State.foreignActivity s a1) := by
  unfold State.foreignActivity
  simp (maxDischargeDepth := 99) [h]

@[simp] theorem State.offerTrigger_since {o s : State} {a1} {a2} {a3} {a4} {a5} (h : Since o s) : Since o (State.offerTrigger s a1 a2 a3 a4 a5).1 := by
  unfold State.offerTrigger
  simp (maxDischargeDepth := 99) [h]

@[simp] theorem State.sendRequest_since {o s : State} {a1} {a2} {a3} {a4} {a5} {a6} {a7} {a8} {a9} {a10} {a11} {a12} {a13} (h : Since o s) : Since o (State.sendRequest s a1 a2 a3 a4 a5 a6 a7 a8 a9 a10 a11 a12 a13) := by
  unfold State.sendRequest
  (repeat' split) <;> simp (maxDischargeDepth := 99) +contextual [h, Since.memCtrl (o := o), Since.memTile (o := o)]

@[simp] theorem State.signal_since {o s : State} {a1} {a2} {a3} (h : Since o s) : Since o (State.signal s a1 a2 a3) := by
  unfold State.signal
  simp (maxDischargeDepth := 99) [h]

end Sys2Proof.Machine
end

