-- ==== Sys2Proof/Laws/SinceCache.lean ====
section
/-! SUPPORT. What the operations of `Machine/Cache.lean` keep. -/

namespace Sys2Proof.Machine

set_option linter.unusedSimpArgs false
set_option linter.unusedTactic false
set_option linter.unreachableTactic false
set_option linter.unnecessarySeqFocus false

@[simp] theorem State.streamRun_since {o s : State} {a1} {a2} {a3} (h : Since o s) : Since o (State.streamRun s a1 a2 a3) := by
  unfold State.streamRun
  simp (maxDischargeDepth := 99) [h]

@[simp] theorem State.portTake_since {o s : State} {a1} {a2} {a3} (h : Since o s) : Since o (State.portTake s a1 a2 a3).1 := by
  unfold State.portTake
  simp only []
  (repeat' split) <;> simp (maxDischargeDepth := 99) +contextual [*, Since.memCtrl (o := o), Since.memTile (o := o)]

@[simp] theorem State.portGive_since {o s : State} {a1} {a2} {a3} {a4} (h : Since o s) : Since o (State.portGive s a1 a2 a3 a4) := by
  unfold State.portGive
  simp only []
  (repeat' split) <;> simp (maxDischargeDepth := 99) +contextual [*, Since.memCtrl (o := o), Since.memTile (o := o)]

end Sys2Proof.Machine
end

