-- ==== Sys2Proof/Laws/SinceOperands.lean ====
section
/-! SUPPORT. What the operations of `Machine/Operands.lean` keep. -/

namespace Sys2Proof.Machine

set_option linter.unusedSimpArgs false
set_option linter.unusedTactic false
set_option linter.unreachableTactic false
set_option linter.unnecessarySeqFocus false

/-! Computations of an iteration. -/

/-- What a computation keeps, whether it answers or halts; its answer satisfies `Q`. -/
structure ItSince {α : Type} (o : State) (m : It α) (Q : α → Prop) : Prop where
  run : ∀ s, Since o s → match m s with
    | .ok a s' => Since o s' ∧ Q a
    | .error _ s' => Since o s'

/-- A commit that keeps what every operation keeps. -/
def Keeps (o : State) (f : State → State) : Prop := ∀ s, Since o s → Since o (f s)

theorem itSince_pure {α : Type} {o : State} {a : α} {Q : α → Prop} (h : Q a) : ItSince o (pure a : It α) Q :=
  ⟨fun _ hs => ⟨hs, h⟩⟩

theorem itSince_pureT {α : Type} {o : State} {a : α} : ItSince o (pure a : It α) (fun _ => True) := itSince_pure trivial

theorem itSince_pureF {o : State} {f : State → State} (h : ∀ s, Since o s → Since o (f s)) : ItSince o (pure f : It (State → State)) (Keeps o) :=
  itSince_pure h

theorem itSince_bind {α β : Type} {o : State} {m : It α} {k : α → It β} {P : α → Prop} {Q : β → Prop} (hm : ItSince o m P)
    (hk : ∀ a, P a → ItSince o (k a) Q) : ItSince o (m >>= k) Q := by
  refine ⟨fun s hs => ?_⟩
  have h := hm.run s hs
  show match (EStateM.bind m k) s with | .ok a s' => Since o s' ∧ Q a | .error _ s' => Since o s'
  unfold EStateM.bind
  cases hr : m s with
  | ok a s' =>
    rw [hr] at h
    exact (hk a h.2).run s' h.1
  | error e s' =>
    rw [hr] at h
    exact h

theorem itSince_throw {α : Type} {o : State} {e : Halt} {Q : α → Prop} : ItSince o (throw e : It α) Q := ⟨fun _ hs => hs⟩

theorem itSince_throwT {α : Type} {o : State} {e : Halt} : ItSince o (throw e : It α) (fun _ => True) := itSince_throw

theorem itSince_throwF {o : State} {e : Halt} : ItSince o (throw e : It (State → State)) (Keeps o) := itSince_throw

theorem itSince_get {o : State} : ItSince o (get : It State) (Since o) := ⟨fun _ hs => ⟨hs, hs⟩⟩

theorem itSince_set {o s : State} (h : Since o s) : ItSince o (set s : It PUnit) (fun _ => True) := ⟨fun _ _ => ⟨h, trivial⟩⟩

theorem itSince_modify {o : State} {f : State → State} (h : ∀ s, Since o s → Since o (f s)) : ItSince o (modify f : It PUnit) (fun _ => True) :=
  ⟨fun s hs => ⟨h s hs, trivial⟩⟩

theorem itSince_ite {α : Type} {o : State} {c : Prop} [Decidable c] {m n : It α} {Q : α → Prop} (hm : ItSince o m Q) (hn : ItSince o n Q) :
    ItSince o (if c then m else n) Q := by
  split <;> assumption

theorem itSince_weaken {α : Type} {o : State} {m : It α} {Q : α → Prop} (hm : ItSince o m Q) : ItSince o m (fun _ => True) := by
  refine ⟨fun s hs => ?_⟩
  have h := hm.run s hs
  cases hr : m s with
  | ok a s' =>
    rw [hr] at h
    exact ⟨h.1, trivial⟩
  | error e s' =>
    rw [hr] at h
    exact h

theorem itSince_discard {α : Type} {o : State} {m : It α} {Q : α → Prop} (hm : ItSince o m Q) : ItSince o (discard m) (fun _ => True) :=
  itSince_bind (m := m) (k := fun _ => pure PUnit.unit) hm fun _ _ => itSince_pureT

theorem itSince_mapM {α β : Type} {o : State} {f : α → It β} (hf : ∀ a, ItSince o (f a) (fun _ => True)) :
    ∀ (l : List α), ItSince o (l.mapM f) (fun _ => True)
  | [] => by simpa using itSince_pureT
  | a :: l => by
    rw [List.mapM_cons]
    exact itSince_bind (hf a) fun _ _ => itSince_bind (itSince_mapM hf l) fun _ _ => itSince_pureT

theorem fail_it {α : Type} {o : State} {a0} {Q : α → Prop} : ItSince o (fail a0 : It α) Q := itSince_throw

theorem fail_itT {α : Type} {o : State} {a0} : ItSince o (fail a0 : It α) (fun _ => True) := itSince_throw

@[simp] theorem need_it {o : State} {a0} {a1} : ItSince o (need a0 a1) (fun _ => True) := by
  unfold need
  repeat' first | exact fail_itT | exact fail_it | exact itSince_get | exact itSince_throwT | exact itSince_throw | exact itSince_pureT | assumption | apply itSince_bind | intro _ _ | refine itSince_ite ?_ ?_ | refine itSince_pureF (fun _ _ => ?_) | refine itSince_set ?_ | refine itSince_modify (fun _ _ => ?_) | (simp (maxDischargeDepth := 99) +contextual [*, Keeps, Since.memCtrl (o := o), Since.memTile (o := o)]; done) | split

@[simp] theorem remember_it {o : State} {a0} {a1} (h1 : ItSince o a1 (fun _ => True)) : ItSince o (remember a0 a1) (fun _ => True) := by
  unfold remember
  repeat' first | exact fail_itT | exact fail_it | exact itSince_get | exact itSince_throwT | exact itSince_throw | exact itSince_pureT | assumption | apply itSince_bind | intro _ _ | refine itSince_ite ?_ ?_ | refine itSince_pureF (fun _ _ => ?_) | refine itSince_set ?_ | refine itSince_modify (fun _ _ => ?_) | (simp (maxDischargeDepth := 99) +contextual [*, Keeps, Since.memCtrl (o := o), Since.memTile (o := o)]; done) | split | dsimp only

@[simp] theorem keepRead_it {o : State} {a0} {a1} (h1 : ItSince o a1 (fun _ => True)) : ItSince o (keepRead a0 a1) (fun _ => True) := by
  unfold keepRead
  repeat' first | exact remember_it | exact fail_itT | exact fail_it | exact itSince_get | exact itSince_throwT | exact itSince_throw | exact itSince_pureT | assumption | apply itSince_bind | intro _ _ | refine itSince_ite ?_ ?_ | refine itSince_pureF (fun _ _ => ?_) | refine itSince_set ?_ | refine itSince_modify (fun _ _ => ?_) | (simp (maxDischargeDepth := 99) +contextual [*, Keeps, Since.memCtrl (o := o), Since.memTile (o := o)]; done) | split | dsimp only

@[simp] theorem holdOn_it {o : State} {α : Type} {a1} {Q : α → Prop} : ItSince o (holdOn a1 : It α) Q := by
  unfold holdOn
  exact itSince_bind (itSince_modify fun _ h => by simp [h]) fun _ _ => itSince_throw

@[simp] theorem readTileRuns_it {o : State} {a0} {a1} : ItSince o (readTileRuns a0 a1) (fun _ => True) := by
  unfold readTileRuns
  repeat' first | exact keepRead_it | exact need_it | exact fail_itT | exact fail_it | exact itSince_get | exact itSince_throwT | exact itSince_throw | exact itSince_pureT | assumption | apply itSince_bind | intro _ _ | refine itSince_ite ?_ ?_ | refine itSince_pureF (fun _ _ => ?_) | refine itSince_set ?_ | refine itSince_modify (fun _ _ => ?_) | (simp (maxDischargeDepth := 99) +contextual [*, Keeps, Since.memCtrl (o := o), Since.memTile (o := o)]; done) | split | dsimp only

@[simp] theorem readCacheRuns_it {o : State} {a0} {a1} : ItSince o (readCacheRuns a0 a1) (fun _ => True) := by
  unfold readCacheRuns
  repeat' first | exact fail_it | exact keepRead_it | exact need_it | exact fail_itT | exact fail_it | exact itSince_get | exact itSince_throwT | exact itSince_throw | exact itSince_pureT | assumption | apply itSince_bind | intro _ _ | refine itSince_ite ?_ ?_ | refine itSince_pureF (fun _ _ => ?_) | refine itSince_set ?_ | refine itSince_modify (fun _ _ => ?_) | (simp (maxDischargeDepth := 99) +contextual [*, Keeps, Since.memCtrl (o := o), Since.memTile (o := o)]; done) | split | dsimp only

@[simp] theorem hbmPieces_it {o : State} {a0} {a1} : ItSince o (hbmPieces a0 a1) (fun _ => True) := by
  unfold hbmPieces
  repeat' first | exact need_it | exact fail_itT | exact fail_it | exact itSince_get | exact itSince_throwT | exact itSince_throw | exact itSince_pureT | assumption | apply itSince_bind | intro _ _ | refine itSince_ite ?_ ?_ | refine itSince_pureF (fun _ _ => ?_) | refine itSince_set ?_ | refine itSince_modify (fun _ _ => ?_) | (simp (maxDischargeDepth := 99) +contextual [*, Keeps, Since.memCtrl (o := o), Since.memTile (o := o)]; done) | split

@[simp] theorem readHbmRun_it {o : State} {a0} {a1} : ItSince o (readHbmRun a0 a1) (fun _ => True) := by
  unfold readHbmRun
  repeat' first | exact hbmPieces_it | exact keepRead_it | exact need_it | exact fail_itT | exact fail_it | exact itSince_get | exact itSince_throwT | exact itSince_throw | exact itSince_pureT | assumption | apply itSince_bind | intro _ _ | refine itSince_ite ?_ ?_ | refine itSince_pureF (fun _ _ => ?_) | refine itSince_set ?_ | refine itSince_modify (fun _ _ => ?_) | (simp (maxDischargeDepth := 99) +contextual [*, Keeps, Since.memCtrl (o := o), Since.memTile (o := o)]; done) | split | dsimp only

theorem readHbmRuns_it {o : State} {e : Run} : ∀ {rs : List (Int × Nat)}, ItSince o (readHbmRuns e rs) (fun _ => True)
  | [] => itSince_pureT
  | _ :: _ => itSince_bind (readHbmRun_it) fun _ _ => itSince_bind readHbmRuns_it fun _ _ => itSince_pureT

@[simp] theorem readArgRuns_it {o : State} {a0} {a1} : ItSince o (readArgRuns a0 a1) (fun _ => True) := by
  unfold readArgRuns
  repeat' first | exact need_it | exact itSince_get | exact itSince_throwT | exact itSince_throw | exact itSince_pureT | assumption | apply itSince_bind | intro _ _ | refine itSince_ite ?_ ?_ | refine itSince_pureF (fun _ _ => ?_) | refine itSince_set ?_ | refine itSince_modify (fun _ _ => ?_) | (simp (maxDischargeDepth := 99) +contextual [*, Keeps, Since.memCtrl (o := o), Since.memTile (o := o)]; done) | split

@[simp] theorem readRuns_it {o : State} {a0} {a1} {a2} : ItSince o (readRuns a0 a1 a2) (fun _ => True) := by
  unfold readRuns
  repeat' first | exact readTileRuns_it | exact readCacheRuns_it | exact readHbmRuns_it | exact readArgRuns_it | exact fail_itT | exact fail_it | exact itSince_get | exact itSince_throwT | exact itSince_throw | exact itSince_pureT | assumption | apply itSince_bind | intro _ _ | refine itSince_ite ?_ ?_ | refine itSince_pureF (fun _ _ => ?_) | refine itSince_set ?_ | refine itSince_modify (fun _ _ => ?_) | (simp (maxDischargeDepth := 99) +contextual [*, Keeps, Since.memCtrl (o := o), Since.memTile (o := o)]; done) | split

@[simp] theorem readTile_it {o : State} {a0} {a1} : ItSince o (readTile a0 a1) (fun _ => True) := by
  unfold readTile
  repeat' first | exact keepRead_it | exact need_it | exact fail_itT | exact fail_it | exact itSince_get | exact itSince_throwT | exact itSince_throw | exact itSince_pureT | assumption | apply itSince_bind | intro _ _ | refine itSince_ite ?_ ?_ | refine itSince_pureF (fun _ _ => ?_) | refine itSince_set ?_ | refine itSince_modify (fun _ _ => ?_) | (simp (maxDischargeDepth := 99) +contextual [*, Keeps, Since.memCtrl (o := o), Since.memTile (o := o)]; done) | split | dsimp only

theorem readTileN_it {o : State} {e : Run} {x : Opnd} : ∀ {n : Nat}, ItSince o (readTileN e x n) (fun _ => True)
  | 0 => itSince_pureT
  | _ + 1 => itSince_bind readTile_it fun _ _ => itSince_bind readTileN_it fun _ _ => itSince_pureT

@[simp] theorem readTiles_it {o : State} {a0} {a1} : ItSince o (readTiles a0 a1) (fun _ => True) := by
  unfold readTiles
  repeat' first | exact readTileN_it | exact need_it | exact fail_itT | exact fail_it | exact itSince_get | exact itSince_throwT | exact itSince_throw | exact itSince_pureT | assumption | apply itSince_bind | intro _ _ | refine itSince_ite ?_ ?_ | refine itSince_pureF (fun _ _ => ?_) | refine itSince_set ?_ | refine itSince_modify (fun _ _ => ?_) | (simp (maxDischargeDepth := 99) +contextual [*, Keeps, Since.memCtrl (o := o), Since.memTile (o := o)]; done) | split | dsimp only

@[simp] theorem takeMany_since {o : State} {t l p : Nat} : ∀ (n : Nat) {s : State}, Since o s → Since o (takeMany t l p n s).1
  | 0, _, h => h
  | n + 1, _, h => takeMany_since n (State.portTake_since h)

@[simp] theorem readPort_it {o : State} {a0} {a1} : ItSince o (readPort a0 a1) (fun _ => True) := by
  unfold readPort
  repeat' first | exact need_it | exact itSince_get | exact itSince_throwT | exact itSince_throw | exact itSince_pureT | assumption | apply itSince_bind | intro _ _ | refine itSince_ite ?_ ?_ | refine itSince_pureF (fun _ _ => ?_) | refine itSince_set ?_ | refine itSince_modify (fun _ _ => ?_) | (simp (maxDischargeDepth := 99) +contextual [*, Keeps, Since.memCtrl (o := o), Since.memTile (o := o)]; done) | split

@[simp] theorem readOpnd_it {o : State} {a0} {a1} : ItSince o (readOpnd a0 a1) (fun _ => True) := by
  unfold readOpnd
  repeat' first | exact readTiles_it | exact readPort_it | exact readRuns_it | exact itSince_get | exact itSince_throwT | exact itSince_throw | exact itSince_pureT | assumption | apply itSince_bind | intro _ _ | refine itSince_ite ?_ ?_ | refine itSince_pureF (fun _ _ => ?_) | refine itSince_set ?_ | refine itSince_modify (fun _ _ => ?_) | (simp (maxDischargeDepth := 99) +contextual [*, Keeps, Since.memCtrl (o := o), Since.memTile (o := o)]; done) | split

@[simp] theorem readScales_it {o : State} {a0} {a1} : ItSince o (readScales a0 a1) (fun _ => True) := by
  unfold readScales
  repeat' first | exact readRuns_it | exact itSince_get | exact itSince_throwT | exact itSince_throw | exact itSince_pureT | assumption | apply itSince_bind | intro _ _ | refine itSince_ite ?_ ?_ | refine itSince_pureF (fun _ _ => ?_) | refine itSince_set ?_ | refine itSince_modify (fun _ _ => ?_) | (simp (maxDischargeDepth := 99) +contextual [*, Keeps, Since.memCtrl (o := o), Since.memTile (o := o)]; done) | split

@[simp] theorem readVals_it {o : State} {a0} {a1} : ItSince o (readVals a0 a1) (fun _ => True) := by
  unfold readVals
  repeat' first | exact readOpnd_it | exact itSince_get | exact itSince_throwT | exact itSince_throw | exact itSince_pureT | assumption | apply itSince_bind | intro _ _ | refine itSince_ite ?_ ?_ | refine itSince_pureF (fun _ _ => ?_) | refine itSince_set ?_ | refine itSince_modify (fun _ _ => ?_) | (simp (maxDischargeDepth := 99) +contextual [*, Keeps, Since.memCtrl (o := o), Since.memTile (o := o)]; done) | split

@[simp] theorem readScaled_it {o : State} {a0} {a1} : ItSince o (readScaled a0 a1) (fun _ => True) := by
  unfold readScaled
  repeat' first | exact readVals_it | exact readScales_it | exact itSince_get | exact itSince_throwT | exact itSince_throw | exact itSince_pureT | assumption | apply itSince_bind | intro _ _ | refine itSince_ite ?_ ?_ | refine itSince_pureF (fun _ _ => ?_) | refine itSince_set ?_ | refine itSince_modify (fun _ _ => ?_) | (simp (maxDischargeDepth := 99) +contextual [*, Keeps, Since.memCtrl (o := o), Since.memTile (o := o)]; done) | split

theorem checkHbmRuns_it {o : State} {e : Run} : ∀ {rs : List (Int × Nat)}, ItSince o (checkHbmRuns e rs) (fun _ => True)
  | [] => itSince_pureT
  | _ :: _ => itSince_bind (itSince_discard hbmPieces_it) fun _ _ => checkHbmRuns_it

@[simp] theorem canWrite_it {o : State} {a0} {a1} {a2} : ItSince o (canWrite a0 a1 a2) (fun _ => True) := by
  unfold canWrite
  repeat' first | exact need_it | exact checkHbmRuns_it | exact fail_itT | exact fail_it | exact itSince_get | exact itSince_throwT | exact itSince_throw | exact itSince_pureT | assumption | apply itSince_bind | intro _ _ | refine itSince_ite ?_ ?_ | refine itSince_pureF (fun _ _ => ?_) | refine itSince_set ?_ | refine itSince_modify (fun _ _ => ?_) | (simp (maxDischargeDepth := 99) +contextual [*, Keeps, Since.memCtrl (o := o), Since.memTile (o := o)]; done) | split

@[simp] theorem writeRun_since {o s : State} {a0} {a1} {a2} {a3} (h : Since o s) : Since o (writeRun a0 a1 a2 a3 s) := by
  unfold writeRun
  (repeat' split) <;> simp (maxDischargeDepth := 99) +contextual [h]

@[simp] theorem writeRuns_since {o : State} {e : Run} {space : Nat} : ∀ (rs : List (Int × Nat)) {data : Bytes} {s : State}, Since o s →
    Since o (writeRuns e space rs data s)
  | [], _, _, h => h
  | _ :: rs, _, _, h => writeRuns_since rs (writeRun_since h)

@[simp] theorem giveMany_since {o : State} {t l p : Nat} : ∀ (n : Nat) {data : Bytes} {s : State}, Since o s →
    Since o (giveMany t l p n data s)
  | 0, _, _, h => h
  | n + 1, _, _, h => giveMany_since n (State.portGive_since h)

@[simp] theorem writePort_it {o : State} {a0} {a1} {a2} : ItSince o (writePort a0 a1 a2) (Keeps o) := by
  unfold writePort
  repeat' first | exact need_it | exact itSince_get | exact itSince_throwT | exact itSince_throw | exact itSince_pureT | assumption | apply itSince_bind | intro _ _ | refine itSince_ite ?_ ?_ | refine itSince_pureF (fun _ _ => ?_) | refine itSince_set ?_ | refine itSince_modify (fun _ _ => ?_) | (simp (maxDischargeDepth := 99) +contextual [*, Keeps, Since.memCtrl (o := o), Since.memTile (o := o)]; done) | split

@[simp] theorem writeRows_it {o : State} {a0} {a1} {a2} {a3} : ItSince o (writeRows a0 a1 a2 a3) (Keeps o) := by
  unfold writeRows
  repeat' first | exact canWrite_it | exact fail_itT | exact fail_it | exact itSince_get | exact itSince_throwT | exact itSince_throw | exact itSince_pureT | assumption | apply itSince_bind | intro _ _ | refine itSince_ite ?_ ?_ | refine itSince_pureF (fun _ _ => ?_) | refine itSince_set ?_ | refine itSince_modify (fun _ _ => ?_) | (simp (maxDischargeDepth := 99) +contextual [*, Keeps, Since.memCtrl (o := o), Since.memTile (o := o)]; done) | split | dsimp only

@[simp] theorem writeOpnd_it {o : State} {a0} {a1} {a2} : ItSince o (writeOpnd a0 a1 a2) (Keeps o) := by
  unfold writeOpnd
  repeat' first | exact writePort_it | exact canWrite_it | exact itSince_get | exact itSince_throwT | exact itSince_throw | exact itSince_pureT | assumption | apply itSince_bind | intro _ _ | refine itSince_ite ?_ ?_ | refine itSince_pureF (fun _ _ => ?_) | refine itSince_set ?_ | refine itSince_modify (fun _ _ => ?_) | (simp (maxDischargeDepth := 99) +contextual [*, Keeps, Since.memCtrl (o := o), Since.memTile (o := o)]; done) | split

@[simp] theorem writeAt_it {o : State} {a0} {a1} {a2} {a3} : ItSince o (writeAt a0 a1 a2 a3) (Keeps o) := by
  unfold writeAt
  repeat' first | exact canWrite_it | exact itSince_get | exact itSince_throwT | exact itSince_throw | exact itSince_pureT | assumption | apply itSince_bind | intro _ _ | refine itSince_ite ?_ ?_ | refine itSince_pureF (fun _ _ => ?_) | refine itSince_set ?_ | refine itSince_modify (fun _ _ => ?_) | (simp (maxDischargeDepth := 99) +contextual [*, Keeps, Since.memCtrl (o := o), Since.memTile (o := o)]; done) | split

end Sys2Proof.Machine
end

