-- ==== Sys2Proof/Laws/SinceCollect.lean ====
section
/-! SUPPORT. What the operations of `Machine/Collect.lean` keep. -/

namespace Sys2Proof.Machine

set_option linter.unusedSimpArgs false
set_option linter.unusedTactic false
set_option linter.unreachableTactic false
set_option linter.unnecessarySeqFocus false

@[simp] theorem State.modInst_since {o s : State} {a1} {a2} {a3} (h : Since o s) : Since o (State.modInst s a1 a2 a3) := by
  unfold State.modInst
  simp (maxDischargeDepth := 99) [h]

@[simp] theorem State.colSendTill_since {o s : State} {a1} {a2} {a3} (h : Since o s) : Since o (State.colSendTill s a1 a2 a3) := by
  unfold State.colSendTill
  try simp only []
  (repeat' split) <;> simp (maxDischargeDepth := 99) +contextual [*, Since.memCtrl (o := o), Since.memTile (o := o)]

@[simp] theorem State.colSend_since {o s : State} {a1} {a2} (h : Since o s) : Since o (State.colSend s a1 a2) := by
  unfold State.colSend
  simp (maxDischargeDepth := 99) [h]

@[simp] theorem State.colOffer_since {o s : State} {a1} {a2} {a3} {a4} (h : Since o s) : Since o (State.colOffer s a1 a2 a3 a4) := by
  unfold State.colOffer
  split <;> simp (maxDischargeDepth := 99) +contextual [h]

@[simp] theorem State.colDrain_since {o : State} {e seq key : Nat} : ∀ (n : Nat) {s : State}, Since o s → Since o (s.colDrain e seq key n)
  | 0, _, h => h
  | n + 1, s, h => by
    unfold State.colDrain
    split
    · exact h
    · split
      · exact h
      · simp only []
        split
        · exact h
        · exact State.colDrain_since n (by simp (maxDischargeDepth := 99) [h])

@[simp] theorem State.colDrainAll_since {o s : State} {a1} (h : Since o s) : Since o (State.colDrainAll s a1) := by
  unfold State.colDrainAll
  try simp only []
  (repeat' split) <;> simp (maxDischargeDepth := 99) +contextual [*, Since.memCtrl (o := o), Since.memTile (o := o)]

@[simp] theorem State.offerUp_since {o s : State} {a1} {a2} {a3} {a4} {a5} (h : Since o s) : Since o (State.offerUp s a1 a2 a3 a4 a5) := by
  unfold State.offerUp
  simp only []
  (repeat' split) <;> simp (maxDischargeDepth := 99) +contextual [*, Since.memCtrl (o := o), Since.memTile (o := o)]

@[simp] theorem State.colGrant_since {o s : State} {a1} {a2} {a3} {a4} (h : Since o s) : Since o (State.colGrant s a1 a2 a3 a4) := by
  unfold State.colGrant
  simp (maxDischargeDepth := 99) [h]

@[simp] theorem State.sendDown_since {o s : State} {a1} {a2} {a3} {a4} {a5} {a6} {a7} (h : Since o s) : Since o (State.sendDown s a1 a2 a3 a4 a5 a6 a7) := by
  unfold State.sendDown
  split <;> simp (maxDischargeDepth := 99) +contextual [h]

@[simp] theorem State.showInflight_since {o s : State} {a1} (h : Since o s) : Since o (State.showInflight s a1) := by
  unfold State.showInflight
  simp (maxDischargeDepth := 99) [h]

@[simp] theorem State.endInst_since {o s : State} {a1} {a2} {a3} (h : Since o s) : Since o (State.endInst s a1 a2 a3) := by
  unfold State.endInst
  simp (maxDischargeDepth := 99) [h]

@[simp] theorem State.writeGot_since {o s : State} {a1} {a2} (h : Since o s) : Since o (State.writeGot s a1 a2) := by
  unfold State.writeGot
  simp (maxDischargeDepth := 99) +contextual [h]

@[simp] theorem State.abortMember_since {o s : State} {a1} {a2} (h : Since o s) : Since o (State.abortMember s a1 a2) := by
  unfold State.abortMember
  simp only []
  (repeat' split) <;> simp (maxDischargeDepth := 99) +contextual [*, Since.memCtrl (o := o), Since.memTile (o := o)]

@[simp] theorem State.recordAbort_since {o s : State} {a1} {a2} {a3} {a4} (h : Since o s) : Since o (State.recordAbort s a1 a2 a3 a4) := by
  unfold State.recordAbort
  simp (maxDischargeDepth := 99) [h]

@[simp] theorem State.abortInst_since {o s : State} {a1} {a2} {a3} {a4} (h : Since o s) : Since o (State.abortInst s a1 a2 a3 a4) := by
  unfold State.abortInst
  split <;> simp (maxDischargeDepth := 99) +contextual [h]

@[simp] theorem State.abortAll_since {o s : State} {a1} {a2} (h : Since o s) : Since o (State.abortAll s a1 a2) := by
  unfold State.abortAll
  simp (maxDischargeDepth := 99) +contextual [h]

@[simp] theorem State.reducerLost_since {o s : State} {a1} (h : Since o s) : Since o (State.reducerLost s a1) := by
  unfold State.reducerLost
  simp (maxDischargeDepth := 99) +contextual [h]

end Sys2Proof.Machine
end

