-- ==== Sys2Proof/Laws/SinceRetire.lean ====
section
/-! SUPPORT. What the operations of `Machine/Retire.lean` keep. -/

namespace Sys2Proof.Machine

set_option linter.unusedSimpArgs false
set_option linter.unusedTactic false
set_option linter.unreachableTactic false
set_option linter.unnecessarySeqFocus false

@[simp] theorem State.retireTile_since {o s : State} {a1} {a2} {a3} (h : Since o s) : Since o (State.retireTile s a1 a2 a3) := by
  unfold State.retireTile
  simp (maxDischargeDepth := 99) [h]

@[simp] theorem State.sliceFault_since {o s : State} {a1} {a2} {a3} (h : Since o s) : Since o (State.sliceFault s a1 a2 a3) := by
  unfold State.sliceFault
  simp (maxDischargeDepth := 99) [h]

@[simp] theorem State.residue_since {o : State} {t : Nat} : ∀ (n : Nat) {s : State}, Since o s → Since o (s.residue t n).1
  | 0, _, h => h
  | n + 1, s, h => by
    have h1 : Since o ((s.modTile t fun x => { x.accFlag aRetry with residueAt := some s.clk.kclk }).tileCount t 0x10 1) :=
      State.tileCount_since (State.modTile_since h fun x hx => hx)
    have hn := State.residue_since (o := o) (t := t) n h1
    unfold State.residue
    simp only []
    split <;> first | exact hn | exact State.retireTile_since h1

@[simp] theorem State.upset_since {o s : State} {a1} {a2} (h : Since o s) : Since o (State.upset s a1 a2) := by
  unfold State.upset
  split <;> simp (maxDischargeDepth := 99) +contextual [h]

end Sys2Proof.Machine
end

