-- ==== Sys2Proof/Laws/SinceStage.lean ====
section
/-! SUPPORT. What the operations of `Machine/Stage.lean` keep. -/

namespace Sys2Proof.Machine

set_option linter.unusedSimpArgs false
set_option linter.unusedTactic false
set_option linter.unreachableTactic false
set_option linter.unnecessarySeqFocus false

@[simp] theorem State.deliver_since {o s : State} {a1} {a2} {a3} {a4} {a5} (h : Since o s) : Since o (State.deliver s a1 a2 a3 a4 a5) := by
  unfold State.deliver
  simp (maxDischargeDepth := 99) [h]

@[simp] theorem State.deliverOne_since {o s : State} {a1} {a2} {a3} {a4} {a5} (h : Since o s) : Since o (State.deliverOne s a1 a2 a3 a4 a5) := by
  unfold State.deliverOne
  try simp only []
  (repeat' split) <;> simp (maxDischargeDepth := 99) +contextual [*, Since.memCtrl (o := o), Since.memTile (o := o)]

@[simp] theorem State.deliverAll_since {o s : State} {a1} {a2} {a3} {a4} (h : Since o s) : Since o (State.deliverAll s a1 a2 a3 a4) := by
  unfold State.deliverAll
  split <;> simp (maxDischargeDepth := 99) +contextual [h]

@[simp] theorem State.deliverDirect_since {o s : State} {a1} {a2} {a3} {a4} (h : Since o s) : Since o (State.deliverDirect s a1 a2 a3 a4) := by
  unfold State.deliverDirect
  simp only []
  (repeat' split) <;> simp (maxDischargeDepth := 99) +contextual [*, Since.memCtrl (o := o), Since.memTile (o := o)]

@[simp] theorem State.deliverWaiting_since {o s : State} {a1} {a2} {a3} (h : Since o s) : Since o (State.deliverWaiting s a1 a2 a3) := by
  unfold State.deliverWaiting
  split <;> simp (maxDischargeDepth := 99) +contextual [h]

@[simp] theorem State.resFlags_since {o s : State} {a1} {a2} (h : Since o s) : Since o (State.resFlags s a1 a2) := by
  unfold State.resFlags
  simp (maxDischargeDepth := 99) [h]

@[simp] theorem State.colJoin_since {o s : State} {a1} {a2} {a3} {a4} (h : Since o s) : Since o (State.colJoin s a1 a2 a3 a4) := by
  unfold State.colJoin
  simp only []
  (repeat' split) <;> simp (maxDischargeDepth := 99) +contextual [*, Since.memCtrl (o := o), Since.memTile (o := o)]

@[simp] theorem State.contribute_since {o s : State} {a1} {a2} {a3} {a4} {a5} {a6} (h : Since o s) : Since o (State.contribute s a1 a2 a3 a4 a5 a6) := by
  unfold State.contribute
  simp (maxDischargeDepth := 99) +contextual [h]

@[simp] theorem State.sendTo_since {o s : State} {a1} {a2} {a3} {a4} {a5} (h : Since o s) : Since o (State.sendTo s a1 a2 a3 a4 a5) := by
  unfold State.sendTo
  simp (maxDischargeDepth := 99) +contextual [h]

@[simp] theorem State.accept_since {o s : State} {a1} {a2} {a3} (h : Since o s) : Since o (State.accept s a1 a2 a3) := by
  unfold State.accept
  simp (maxDischargeDepth := 99) [h]

@[simp] theorem State.dataPhase_since {o s : State} {a1} {a2} {a3} (h : Since o s) : Since o (State.dataPhase s a1 a2 a3) := by
  unfold State.dataPhase
  split <;> simp (maxDischargeDepth := 99) +contextual [h]

@[simp] theorem State.phaseEnd_since {o s : State} {a1} {a2} {a3} {a4} {a5} (h : Since o s) : Since o (State.phaseEnd s a1 a2 a3 a4 a5) := by
  unfold State.phaseEnd
  simp only []
  (repeat' split) <;> simp (maxDischargeDepth := 99) +contextual [*, Since.memCtrl (o := o), Since.memTile (o := o)]

@[simp] theorem State.arrive_since {o s : State} {a1} {a2} {a3} (h : Since o s) : Since o (State.arrive s a1 a2 a3) := by
  unfold State.arrive
  split <;> simp (maxDischargeDepth := 99) +contextual [h]

@[simp] theorem State.announce_since {o s : State} {a1} {a2} {a3} {a4} {a5} (h : Since o s) : Since o (State.announce s a1 a2 a3 a4 a5) := by
  unfold State.announce
  split <;> simp (maxDischargeDepth := 99) +contextual [h]

@[simp] theorem State.resultTo_since {o s : State} {a1} {a2} {a3} {a4} {a5} {a6} {a7} {a8} (h : Since o s) : Since o (State.resultTo s a1 a2 a3 a4 a5 a6 a7 a8) := by
  unfold State.resultTo
  simp (maxDischargeDepth := 99) [h]

@[simp] theorem State.sumResult_since {o s : State} {a1} {a2} {a3} {a4} {a5} {a6} (h : Since o s) : Since o (State.sumResult s a1 a2 a3 a4 a5 a6) := by
  unfold State.sumResult
  simp (maxDischargeDepth := 99) +contextual [h]

@[simp] theorem State.grantWindow_since {o s : State} {a1} {a2} {a3} {a4} (h : Since o s) : Since o (State.grantWindow s a1 a2 a3 a4) := by
  unfold State.grantWindow
  refine forEach_since (fun k s hs => ?_) _ h
  split <;> simp [hs]

@[simp] theorem State.closeSum_since {o s : State} {a1} {a2} {a3} {a4} {a5} (h : Since o s) : Since o (State.closeSum s a1 a2 a3 a4 a5) := by
  unfold State.closeSum
  simp only []
  split
  · simp [h]
  · (repeat' split) <;> simp (maxDischargeDepth := 99) +contextual [h]

@[simp] theorem State.closeParity_since {o s : State} {a1} {a2} {a3} {a4} (h : Since o s) : Since o (State.closeParity s a1 a2 a3 a4) := by
  unfold State.closeParity
  simp only []
  (repeat' split) <;> simp (maxDischargeDepth := 99) +contextual [*, Since.memCtrl (o := o), Since.memTile (o := o)]

@[simp] theorem State.closeMerge_since {o s : State} {a1} {a2} (h : Since o s) : Since o (State.closeMerge s a1 a2) := by
  unfold State.closeMerge
  simp only []
  (repeat' split) <;> simp (maxDischargeDepth := 99) +contextual [h]
  all_goals
    refine forEach_since (fun p s hs => ?_) _ ?_
    · (repeat' split) <;> simp (maxDischargeDepth := 99) [hs]
    · simp (maxDischargeDepth := 99) +contextual [h]

@[simp] theorem State.windowClose_since {o s : State} {a1} {a2} {a3} {a4} (h : Since o s) : Since o (State.windowClose s a1 a2 a3 a4) := by
  unfold State.windowClose
  simp only []
  (repeat' split) <;> simp (maxDischargeDepth := 99) +contextual [h]

end Sys2Proof.Machine
end

