-- ==== Sys2Proof/Laws/SinceCollectives.lean ====
section
/-! SUPPORT. What the operations of `Machine/Collectives.lean` keep. -/

namespace Sys2Proof.Machine

set_option linter.unusedSimpArgs false
set_option linter.unusedTactic false
set_option linter.unreachableTactic false
set_option linter.unnecessarySeqFocus false

@[simp] theorem State.colGrpCtrl_since {o s : State} {a1} {a2} {a3} (h : Since o s) : Since o (State.colGrpCtrl s a1 a2 a3) := by
  unfold State.colGrpCtrl
  simp (maxDischargeDepth := 99) [h]

theorem execCommitList_since {o s : State} {a0} {a1} {a2} (h : Since o s) : ∀ {t}, execCommitList a0 a1 a2 s = .next t → Since o t := by
  intro t e
  unfold execCommitList at e
  cases e
  simp (maxDischargeDepth := 99) [h]

theorem execInvalidate_since {o s : State} {a0} {a1} (h : Since o s) : ∀ {t}, execInvalidate a0 a1 s = .next t → Since o t := by
  intro t e
  unfold execInvalidate at e
  cases e
  simp (maxDischargeDepth := 99) [h]

@[simp] theorem State.listRead_since {o s : State} {a1} {a2} {a3} (h : Since o s) : Since o (State.listRead s a1 a2 a3).1 := by
  unfold State.listRead
  simp only []
  (repeat' split) <;> simp (maxDischargeDepth := 99) +contextual [*, Since.memCtrl (o := o), Since.memTile (o := o)]

theorem execListCommitDone_since {o s : State} {a0} {a1} (h : Since o s) : ∀ {t}, execListCommitDone a0 a1 s = .next t → Since o t := by
  intro t e
  unfold execListCommitDone at e
  simp only [] at e
  split at e
  · cases e
    exact h
  · split at e <;> (injection e with e; subst e; simp (maxDischargeDepth := 99) [h])

@[simp] theorem State.refuseEpoch_since {o s : State} {a1} {a2} (h : Since o s) : Since o (State.refuseEpoch s a1 a2) := by
  unfold State.refuseEpoch
  simp (maxDischargeDepth := 99) [h]

@[simp] theorem State.hear_since {o s : State} {a1} {a2} (h : Since o s) : Since o (State.hear s a1 a2) := by
  unfold State.hear
  simp (maxDischargeDepth := 99) [h]

theorem State.colReceive_since {o s : State} {f : Frame} {kind : Nat} {make : Bool} {run : State → Nat → Nat → State}
    (hr : ∀ s e q, Since o s → Since o (run s e q)) (h : Since o s) : Since o (s.colReceive f kind make run) := by
  unfold State.colReceive
  simp only []
  (repeat' split) <;> simp (maxDischargeDepth := 99) +contextual [h, hr]

@[simp] theorem State.stageTake_since {o s : State} {a1} {a2} {a3} (h : Since o s) : Since o (State.stageTake s a1 a2 a3) := by
  unfold State.stageTake
  simp only []
  (repeat' split) <;> simp (maxDischargeDepth := 99) +contextual [*, Since.memCtrl (o := o), Since.memTile (o := o)]

@[simp] theorem State.copyOn_since {o s : State} {a1} {a2} {a3} {a4} {a5} (h : Since o s) : Since o (State.copyOn s a1 a2 a3 a4 a5) := by
  unfold State.copyOn
  split <;> simp (maxDischargeDepth := 99) +contextual [h]

@[simp] theorem State.grantNow_since {o s : State} {a1} {a2} {a3} (h : Since o s) : Since o (State.grantNow s a1 a2 a3) := by
  unfold State.grantNow
  split <;> simp (maxDischargeDepth := 99) +contextual [h]

@[simp] theorem State.endIfQuiet_since {o s : State} {a1} {a2} (h : Since o s) : Since o (State.endIfQuiet s a1 a2) := by
  unfold State.endIfQuiet
  split <;> simp (maxDischargeDepth := 99) +contextual [h]

@[simp] theorem State.endIfDone_since {o s : State} {a1} {a2} (h : Since o s) : Since o (State.endIfDone s a1 a2) := by
  unfold State.endIfDone
  split <;> simp (maxDischargeDepth := 99) +contextual [h]

@[simp] theorem State.contribution_since {o s : State} {a1} (h : Since o s) : Since o (State.contribution s a1) := by
  unfold State.contribution
  refine State.colReceive_since (fun s e q hs => ?_) h
  simp only []
  repeat' first | (simp (maxDischargeDepth := 99) +contextual [*, hs]; done) | split | intro _

@[simp] theorem State.partialIn_since {o s : State} {a1} (h : Since o s) : Since o (State.partialIn s a1) := by
  unfold State.partialIn
  refine State.colReceive_since (fun s e q hs => ?_) h
  simp only []
  repeat' first | (simp (maxDischargeDepth := 99) +contextual [*, hs]; done) | split | intro _

@[simp] theorem State.resultIn_since {o s : State} {a1} (h : Since o s) : Since o (State.resultIn s a1) := by
  unfold State.resultIn
  refine State.colReceive_since (fun s e q hs => ?_) h
  simp only []
  have h1 : Since o (if ((s.group e).ranksOn s.node).isEmpty = true then s else s.resFlags e (cmStatus a1.payload)) := by
    split <;> simp [hs]
  generalize (if ((s.group e).ranksOn s.node).isEmpty = true then _ else _ : State) = s1 at h1 ⊢
  split
  · exact h1
  · repeat' first | (simp (maxDischargeDepth := 99) +contextual [h1]; done) | split | intro _

@[simp] theorem State.creditIn_since {o s : State} {a1} (h : Since o s) : Since o (State.creditIn s a1) := by
  unfold State.creditIn
  refine State.colReceive_since (fun s e q hs => ?_) h
  simp only []
  repeat' first | (simp (maxDischargeDepth := 99) +contextual [*, hs]; done) | split | intro _

@[simp] theorem State.relayAbort_since {o s : State} {a1} {a2} {a3} (h : Since o s) : Since o (State.relayAbort s a1 a2 a3) := by
  unfold State.relayAbort
  simp only []
  (repeat' split) <;> simp (maxDischargeDepth := 99) +contextual [*, Since.memCtrl (o := o), Since.memTile (o := o)]

@[simp] theorem State.abortIn_since {o s : State} {a1} (h : Since o s) : Since o (State.abortIn s a1) := by
  unfold State.abortIn
  refine State.colReceive_since (fun s e q hs => ?_) h
  simp only []
  repeat' first | (simp (maxDischargeDepth := 99) +contextual [*, hs]; done) | split | intro _

@[simp] theorem State.heartbeatIn_since {o s : State} {a1} (h : Since o s) : Since o (State.heartbeatIn s a1) := by
  unfold State.heartbeatIn
  exact State.colReceive_since (fun s _ _ hs => hs) h

@[simp] theorem State.sizesIn_since {o s : State} {a1} {a2} {a3} (h : Since o s) : Since o (State.sizesIn s a1 a2 a3) := by
  unfold State.sizesIn
  split <;> simp (maxDischargeDepth := 99) +contextual [h]

@[simp] theorem State.sizeIn_since {o s : State} {a1} (h : Since o s) : Since o (State.sizeIn s a1) := by
  unfold State.sizeIn
  refine State.colReceive_since (fun s e q hs => ?_) h
  simp only []
  repeat' first | (simp (maxDischargeDepth := 99) +contextual [*, hs]; done) | split | intro _

@[simp] theorem State.barrierIn_since {o s : State} {a1} (h : Since o s) : Since o (State.barrierIn s a1) := by
  unfold State.barrierIn
  refine State.colReceive_since (fun s e q hs => ?_) h
  simp only []
  repeat' first | (simp (maxDischargeDepth := 99) +contextual [*, hs]; done) | split | intro _

theorem execContribution_since {o s : State} {a0} (h : Since o s) : ∀ {t}, execContribution a0 s = .next t → Since o t := by
  intro t e
  unfold execContribution at e
  cases e
  simp (maxDischargeDepth := 99) [h]

theorem execPartialMsg_since {o s : State} {a0} (h : Since o s) : ∀ {t}, execPartialMsg a0 s = .next t → Since o t := by
  intro t e
  unfold execPartialMsg at e
  cases e
  simp (maxDischargeDepth := 99) [h]

theorem execResult_since {o s : State} {a0} (h : Since o s) : ∀ {t}, execResult a0 s = .next t → Since o t := by
  intro t e
  unfold execResult at e
  cases e
  simp (maxDischargeDepth := 99) [h]

theorem execCredit_since {o s : State} {a0} (h : Since o s) : ∀ {t}, execCredit a0 s = .next t → Since o t := by
  intro t e
  unfold execCredit at e
  cases e
  simp (maxDischargeDepth := 99) [h]

theorem execAbortMessage_since {o s : State} {a0} (h : Since o s) : ∀ {t}, execAbortMessage a0 s = .next t → Since o t := by
  intro t e
  unfold execAbortMessage at e
  cases e
  simp (maxDischargeDepth := 99) [h]

theorem execHeartbeatMessage_since {o s : State} {a0} (h : Since o s) : ∀ {t}, execHeartbeatMessage a0 s = .next t → Since o t := by
  intro t e
  unfold execHeartbeatMessage at e
  cases e
  simp (maxDischargeDepth := 99) [h]

theorem execSizeCountMessage_since {o s : State} {a0} (h : Since o s) : ∀ {t}, execSizeCountMessage a0 s = .next t → Since o t := by
  intro t e
  unfold execSizeCountMessage at e
  cases e
  simp (maxDischargeDepth := 99) [h]

theorem execBarrierMessage_since {o s : State} {a0} (h : Since o s) : ∀ {t}, execBarrierMessage a0 s = .next t → Since o t := by
  intro t e
  unfold execBarrierMessage at e
  cases e
  simp (maxDischargeDepth := 99) [h]

theorem execWindowClose_since {o s : State} {a0} {a1} {a2} (h : Since o s) : ∀ {t}, execWindowClose a0 a1 a2 s = .next t → Since o t := by
  intro t e
  unfold execWindowClose at e
  cases e
  simp (maxDischargeDepth := 99) [h]

theorem execInstanceComplete_since {o s : State} {a0} {a1} {a2} (h : Since o s) : ∀ {t}, execInstanceComplete a0 a1 a2 s = .next t → Since o t := by
  intro t e
  unfold execInstanceComplete at e
  (repeat' split at e) <;> (cases e; simp (maxDischargeDepth := 99) +contextual [h, Since.memCtrl (o := o), Since.memTile (o := o)])

theorem execMemberLate_since {o s : State} {a0} {a1} (h : Since o s) : ∀ {t}, execMemberLate a0 a1 s = .next t → Since o t := by
  intro t e
  unfold execMemberLate at e
  cases e
  simp (maxDischargeDepth := 99) [h]

@[simp] theorem State.heartbeatOf_since {o s : State} {a1} (h : Since o s) : Since o (State.heartbeatOf s a1) := by
  unfold State.heartbeatOf
  split <;> simp (maxDischargeDepth := 99) +contextual [h]

theorem execHeartbeat_since {o s : State}  (h : Since o s) : ∀ {t}, execHeartbeat s = .next t → Since o t := by
  intro t e
  unfold execHeartbeat at e
  injection e with e
  subst e
  exact forEach_since (fun e s hs => State.heartbeatOf_since hs) _ h

theorem execMemberLost_since {o s : State} {a0} {a1} (h : Since o s) : ∀ {t}, execMemberLost a0 a1 s = .next t → Since o t := by
  intro t e
  unfold execMemberLost at e
  simp only [] at e
  split at e <;> cases e
  · exact forEach_since (fun q s hs => State.abortInst_since hs) _ (State.modGroup_since h)
  · exact State.modGroup_since h

theorem execEpochAheadRepeat_since {o s : State} {a0} (h : Since o s) : ∀ {t}, execEpochAheadRepeat a0 s = .next t → Since o t := by
  intro t e
  unfold execEpochAheadRepeat at e
  cases e
  simp (maxDischargeDepth := 99) +contextual [h]

@[simp] theorem colBody_it {o : State} {a0} : ItSince o (colBody a0) (Keeps o) := by
  unfold colBody
  dsimp only
  repeat' first | exact readScaled_it | exact readOpnd_it | exact readRuns_it | exact canWrite_it | exact need_it | exact itSince_get | exact itSince_throwT | exact itSince_throw | exact itSince_pureT | assumption | apply itSince_bind | intro _ _ | refine itSince_ite ?_ ?_ | refine itSince_pureF (fun _ _ => ?_) | refine itSince_set ?_ | refine itSince_modify (fun _ _ => ?_) | (simp (maxDischargeDepth := 99) +contextual [*, Keeps, Since.memCtrl (o := o), Since.memTile (o := o)]; done) | (simp only [Keeps] at *; simp (maxDischargeDepth := 99) +contextual [*, Since.memCtrl (o := o), Since.memTile (o := o)]; done) | split

end Sys2Proof.Machine
end

