-- ==== Sys2Proof/Laws/SinceBlocks.lean ====
section
/-! SUPPORT. What the operations of `Machine/Blocks.lean` keep. -/

namespace Sys2Proof.Machine

set_option linter.unusedSimpArgs false
set_option linter.unusedTactic false
set_option linter.unreachableTactic false
set_option linter.unnecessarySeqFocus false

@[simp] theorem State.tileWrite_since {o s : State} {src : Src} {t off : Nat} {f : State → State} (hf : ∀ s, Since o s → Since o (f s))
    (h : Since o s) : Since o (s.tileWrite src t off f) := by
  unfold State.tileWrite
  simp only []
  (repeat' split) <;> simp (maxDischargeDepth := 99) [h, hf]

@[simp] theorem Tile.dieReset_wf (x : Tile) : Memory.wf x.dieReset.mem = true := by rfl

@[simp] theorem State.closeStop_since {o s : State} {a1} (h : Since o s) : Since o (State.closeStop s a1) := by
  unfold State.closeStop
  simp only []
  (repeat' split) <;> simp (maxDischargeDepth := 99) +contextual [*, Since.memCtrl (o := o), Since.memTile (o := o)]

@[simp] theorem State.openStop_since {o s : State} {a1} (h : Since o s) : Since o (State.openStop s a1) := by
  unfold State.openStop
  simp (maxDischargeDepth := 99) [h]

@[simp] theorem State.closeDie_since {o s : State} {a1} (h : Since o s) : Since o (State.closeDie s a1) := by
  unfold State.closeDie
  try simp only []
  (repeat' split) <;> simp (maxDischargeDepth := 99) +contextual [*, Since.memCtrl (o := o), Since.memTile (o := o)]

@[simp] theorem State.openDie_since {o s : State} {a1} (h : Since o s) : Since o (State.openDie s a1) := by
  unfold State.openDie
  try simp only []
  (repeat' split) <;> simp (maxDischargeDepth := 99) +contextual [*, Since.memCtrl (o := o), Since.memTile (o := o)]

end Sys2Proof.Machine
end

