-- ==== Sys2Proof/Laws/SinceIterate.lean ====
section
/-! SUPPORT. What the operations of `Machine/Iterate.lean` keep. -/

namespace Sys2Proof.Machine

set_option linter.unusedSimpArgs false
set_option linter.unusedTactic false
set_option linter.unreachableTactic false
set_option linter.unnecessarySeqFocus false

@[simp] theorem State.traceTile_since {o s : State} {a1} {a2} {a3} (h : Since o s) : Since o (State.traceTile s a1 a2 a3) := by
  unfold State.traceTile
  simp (maxDischargeDepth := 99) [h]

@[simp] theorem State.issueDesc_since {o s : State} {a1} {a2} {a3} (h : Since o s) : Since o (State.issueDesc s a1 a2 a3) := by
  unfold State.issueDesc
  (repeat' split) <;> simp (maxDischargeDepth := 99) +contextual [h, Since.memCtrl (o := o), Since.memTile (o := o)]

@[simp] theorem State.issueShadow_since {o s : State} {a1} {a2} {a3} (h : Since o s) : Since o (State.issueShadow s a1 a2 a3) := by
  unfold State.issueShadow
  (repeat' split) <;> simp (maxDischargeDepth := 99) +contextual [h, Since.memCtrl (o := o), Since.memTile (o := o)]

@[simp] theorem State.issueFrom_since {o : State} {t : Nat} : ∀ (l : List Nat) {s : State}, Since o s → Since o (s.issueFrom t l)
  | [], _, h => h
  | _ :: l, _, h => by
    unfold State.issueFrom
    split
    · exact State.issueFrom_since l h
    all_goals simp [h]

@[simp] theorem State.descIssue_since {o s : State} {a1} (h : Since o s) : Since o (State.descIssue s a1) := by
  unfold State.descIssue
  simp (maxDischargeDepth := 99) [h]

@[simp] theorem State.unread_since {o s : State} {a1} {a2} (h : Since o s) : Since o (State.unread s a1 a2) := by
  unfold State.unread
  simp (maxDischargeDepth := 99) [h]

@[simp] theorem State.unseen_since {o s : State} {a1} {a2} (h : Since o s) : Since o (State.unseen s a1 a2) := by
  unfold State.unseen
  try simp only []
  (repeat' split) <;> simp (maxDischargeDepth := 99) +contextual [*, Since.memCtrl (o := o), Since.memTile (o := o)]

@[simp] theorem State.commitIteration_since {o s : State} {a1} {a2} (h : Since o s) : Since o (State.commitIteration s a1 a2) := by
  unfold State.commitIteration
  simp only []
  (repeat' split) <;> simp (maxDischargeDepth := 99) +contextual [*, Since.memCtrl (o := o), Since.memTile (o := o)]

@[simp] theorem State.shadowRead_since {o s : State} {a1} {a2} {a3} {a4} (h : Since o s) : Since o (State.shadowRead s a1 a2 a3 a4) := by
  unfold State.shadowRead
  refine State.modTile_since (State.modCtx_since h) fun x hx => ?_
  split <;> exact hx

@[simp] theorem State.shadowExc_since {o s : State} {a1} {a2} {a3} {a4} (h : Since o s) : Since o (State.shadowExc s a1 a2 a3 a4) := by
  unfold State.shadowExc
  simp only []
  (repeat' split) <;> simp (maxDischargeDepth := 99) +contextual [*, Since.memCtrl (o := o), Since.memTile (o := o)]

@[simp] theorem State.unflagged_since {o s : State} {a1} (h : Since o s) : Since o (State.unflagged s a1) := by
  unfold State.unflagged
  try simp only []
  (repeat' split) <;> simp (maxDischargeDepth := 99) +contextual [*, Since.memCtrl (o := o), Since.memTile (o := o)]

@[simp] theorem State.runBody_since {o s : State} {t c : Nat} {d : Bytes} {sh : Bool} {body : Run → It (State → State)}
    (hb : ∀ e, ItSince o (body e) (Keeps o)) (h : Since o s) : Since o (s.runBody t c d sh body) := by
  unfold State.runBody
  simp only []
  have hr := (hb (s.runOf t c d sh)).run (if sh then s.unflagged t else s) (by split <;> simp [h])
  split
  · rename_i f s' hm
    rw [hm] at hr
    split
    · simp (maxDischargeDepth := 99) [hr.1, h.memTile]
    · simp [hr.2 s' hr.1]
  · exact h
  · rename_i hm
    rw [hm] at hr
    exact hr
  · rename_i hm
    rw [hm] at hr
    split <;> simp (maxDischargeDepth := 99) [hr]

@[simp] theorem State.iterate_since {o s : State} {t c op : Nat} {body : Run → It (State → State)}
    (hb : ∀ e, ItSince o (body e) (Keeps o)) (h : Since o s) : Since o (s.iterate t c op body) := by
  unfold State.iterate
  split
  · exact h
  · split
    · exact State.runBody_since hb h
    · exact h

@[simp] theorem noEffect_it {o : State}  : ItSince o (noEffect ) (Keeps o) := by
  unfold noEffect
  repeat' first | exact itSince_get | exact itSince_throwT | exact itSince_throw | exact itSince_pureT | assumption | apply itSince_bind | intro _ _ | refine itSince_ite ?_ ?_ | refine itSince_pureF (fun _ _ => ?_) | refine itSince_set ?_ | refine itSince_modify (fun _ _ => ?_) | (simp (maxDischargeDepth := 99) +contextual [*, Keeps, Since.memCtrl (o := o), Since.memTile (o := o)]; done) | (simp only [Keeps] at *; simp (maxDischargeDepth := 99) +contextual [*, Since.memCtrl (o := o), Since.memTile (o := o)]; done) | split

@[simp] theorem State.follow_since {o s : State} {a1} {a2} {a3} (h : Since o s) : Since o (State.follow s a1 a2 a3) := by
  unfold State.follow
  split <;> simp (maxDischargeDepth := 99) +contextual [h]

@[simp] theorem State.endSignal_since {o s : State} {a1} {a2} {a3} (h : Since o s) : Since o (State.endSignal s a1 a2 a3) := by
  unfold State.endSignal
  simp (maxDischargeDepth := 99) [h]

@[simp] theorem State.descComplete_since {o s : State} {a1} {a2} (h : Since o s) : Since o (State.descComplete s a1 a2) := by
  unfold State.descComplete
  simp only []
  (repeat' split) <;> simp (maxDischargeDepth := 99) +contextual [*, Since.memCtrl (o := o), Since.memTile (o := o)]

@[simp] theorem State.dropShadow_since {o s : State} {a1} {a2} (h : Since o s) : Since o (State.dropShadow s a1 a2) := by
  unfold State.dropShadow
  split <;> simp (maxDischargeDepth := 99) +contextual [h]

@[simp] theorem State.confirmShadow_since {o s : State} {a1} {a2} {a3} (h : Since o s) : Since o (State.confirmShadow s a1 a2 a3) := by
  unfold State.confirmShadow
  (repeat' split) <;> simp (maxDischargeDepth := 99) +contextual [h, Since.memCtrl (o := o), Since.memTile (o := o)]

@[simp] theorem State.selectResolve_since {o s : State} {a1} {a2} (h : Since o s) : Since o (State.selectResolve s a1 a2) := by
  unfold State.selectResolve
  simp only []
  (repeat' split) <;> simp (maxDischargeDepth := 99) +contextual [*, Since.memCtrl (o := o), Since.memTile (o := o)]

end Sys2Proof.Machine
end

