-- ==== Sys2Proof/Laws/SinceVector.lean ====
section
/-! SUPPORT. What the operations of `Machine/Vector.lean` keep. -/

namespace Sys2Proof.Machine

set_option linter.unusedSimpArgs false
set_option linter.unusedTactic false
set_option linter.unreachableTactic false
set_option linter.unnecessarySeqFocus false

@[simp] theorem vecSpaces_it {o : State} {a0} : ItSince o (vecSpaces a0) (fun _ => True) := by
  unfold vecSpaces
  repeat' first | exact need_it | exact itSince_get | exact itSince_throwT | exact itSince_throw | exact itSince_pureT | assumption | apply itSince_bind | intro _ _ | refine itSince_ite ?_ ?_ | refine itSince_pureF (fun _ _ => ?_) | refine itSince_set ?_ | refine itSince_modify (fun _ _ => ?_) | (simp (maxDischargeDepth := 99) +contextual [*, Keeps, Since.memCtrl (o := o), Since.memTile (o := o)]; done) | (simp only [Keeps] at *; simp (maxDischargeDepth := 99) +contextual [*, Since.memCtrl (o := o), Since.memTile (o := o)]; done) | split

@[simp] theorem gatherSum_since {o s : State} {a0} {a1} (h : Since o s) : Since o (gatherSum a0 a1 s) := by
  unfold gatherSum
  simp (maxDischargeDepth := 99) [h]

@[simp] theorem trapNan_it {o : State} {a1} {a2} {a3} : ItSince o (trapNan a1 a2 a3) (fun _ => True) := by
  unfold trapNan
  repeat' first | exact itSince_get | exact itSince_throwT | exact itSince_throw | exact itSince_pureT | assumption | apply itSince_bind | intro _ _ | refine itSince_ite ?_ ?_ | refine itSince_pureF (fun _ _ => ?_) | refine itSince_set ?_ | refine itSince_modify (fun _ _ => ?_) | (simp (maxDischargeDepth := 99) +contextual [*, Keeps, Since.memCtrl (o := o), Since.memTile (o := o)]; done) | (simp only [Keeps] at *; simp (maxDischargeDepth := 99) +contextual [*, Since.memCtrl (o := o), Since.memTile (o := o)]; done) | split

@[simp] theorem emit_it {o : State} {a0} {a1} {a2} : ItSince o (emit a0 a1 a2) (Keeps o) := by
  unfold emit
  repeat' first | exact trapNan_it | exact writeOpnd_it | exact fail_itT | exact fail_it | exact itSince_get | exact itSince_throwT | exact itSince_throw | exact itSince_pureT | assumption | apply itSince_bind | intro _ _ | refine itSince_ite ?_ ?_ | refine itSince_pureF (fun _ _ => ?_) | refine itSince_set ?_ | refine itSince_modify (fun _ _ => ?_) | (simp (maxDischargeDepth := 99) +contextual [*, Keeps, Since.memCtrl (o := o), Since.memTile (o := o)]; done) | (simp only [Keeps] at *; simp (maxDischargeDepth := 99) +contextual [*, Since.memCtrl (o := o), Since.memTile (o := o)]; done) | split | dsimp only

@[simp] theorem readCodes_it {o : State} {a0} {a1} : ItSince o (readCodes a0 a1) (fun _ => True) := by
  unfold readCodes
  repeat' first | exact readOpnd_it | exact itSince_get | exact itSince_throwT | exact itSince_throw | exact itSince_pureT | assumption | apply itSince_bind | intro _ _ | refine itSince_ite ?_ ?_ | refine itSince_pureF (fun _ _ => ?_) | refine itSince_set ?_ | refine itSince_modify (fun _ _ => ?_) | (simp (maxDischargeDepth := 99) +contextual [*, Keeps, Since.memCtrl (o := o), Since.memTile (o := o)]; done) | (simp only [Keeps] at *; simp (maxDischargeDepth := 99) +contextual [*, Since.memCtrl (o := o), Since.memTile (o := o)]; done) | split

@[simp] theorem unaryBody_it {o : State} {a0} {a1} {a2} : ItSince o (unaryBody a0 a1 a2) (Keeps o) := by
  unfold unaryBody
  repeat' first | exact vecSpaces_it | exact readCodes_it | exact emit_it | exact itSince_get | exact itSince_throwT | exact itSince_throw | exact itSince_pureT | assumption | apply itSince_bind | intro _ _ | refine itSince_ite ?_ ?_ | refine itSince_pureF (fun _ _ => ?_) | refine itSince_set ?_ | refine itSince_modify (fun _ _ => ?_) | (simp (maxDischargeDepth := 99) +contextual [*, Keeps, Since.memCtrl (o := o), Since.memTile (o := o)]; done) | (simp only [Keeps] at *; simp (maxDischargeDepth := 99) +contextual [*, Since.memCtrl (o := o), Since.memTile (o := o)]; done) | split

@[simp] theorem binaryBody_it {o : State} {a0} {a1} : ItSince o (binaryBody a0 a1) (Keeps o) := by
  unfold binaryBody
  repeat' first | exact vecSpaces_it | exact readCodes_it | exact emit_it | exact itSince_get | exact itSince_throwT | exact itSince_throw | exact itSince_pureT | assumption | apply itSince_bind | intro _ _ | refine itSince_ite ?_ ?_ | refine itSince_pureF (fun _ _ => ?_) | refine itSince_set ?_ | refine itSince_modify (fun _ _ => ?_) | (simp (maxDischargeDepth := 99) +contextual [*, Keeps, Since.memCtrl (o := o), Since.memTile (o := o)]; done) | (simp only [Keeps] at *; simp (maxDischargeDepth := 99) +contextual [*, Since.memCtrl (o := o), Since.memTile (o := o)]; done) | split

@[simp] theorem fmaBody_it {o : State} {a0} : ItSince o (fmaBody a0) (Keeps o) := by
  unfold fmaBody
  repeat' first | exact vecSpaces_it | exact readCodes_it | exact emit_it | exact itSince_get | exact itSince_throwT | exact itSince_throw | exact itSince_pureT | assumption | apply itSince_bind | intro _ _ | refine itSince_ite ?_ ?_ | refine itSince_pureF (fun _ _ => ?_) | refine itSince_set ?_ | refine itSince_modify (fun _ _ => ?_) | (simp (maxDischargeDepth := 99) +contextual [*, Keeps, Since.memCtrl (o := o), Since.memTile (o := o)]; done) | (simp only [Keeps] at *; simp (maxDischargeDepth := 99) +contextual [*, Since.memCtrl (o := o), Since.memTile (o := o)]; done) | split

@[simp] theorem functionBody_it {o : State} {a0} {a1} : ItSince o (functionBody a0 a1) (Keeps o) := by
  unfold functionBody
  repeat' first | exact unaryBody_it | exact itSince_get | exact itSince_throwT | exact itSince_throw | exact itSince_pureT | assumption | apply itSince_bind | intro _ _ | refine itSince_ite ?_ ?_ | refine itSince_pureF (fun _ _ => ?_) | refine itSince_set ?_ | refine itSince_modify (fun _ _ => ?_) | (simp (maxDischargeDepth := 99) +contextual [*, Keeps, Since.memCtrl (o := o), Since.memTile (o := o)]; done) | (simp only [Keeps] at *; simp (maxDischargeDepth := 99) +contextual [*, Since.memCtrl (o := o), Since.memTile (o := o)]; done) | split

@[simp] theorem compareBody_it {o : State} {a0} {a1} : ItSince o (compareBody a0 a1) (Keeps o) := by
  unfold compareBody
  repeat' first | exact vecSpaces_it | exact readCodes_it | exact writeOpnd_it | exact itSince_get | exact itSince_throwT | exact itSince_throw | exact itSince_pureT | assumption | apply itSince_bind | intro _ _ | refine itSince_ite ?_ ?_ | refine itSince_pureF (fun _ _ => ?_) | refine itSince_set ?_ | refine itSince_modify (fun _ _ => ?_) | (simp (maxDischargeDepth := 99) +contextual [*, Keeps, Since.memCtrl (o := o), Since.memTile (o := o)]; done) | (simp only [Keeps] at *; simp (maxDischargeDepth := 99) +contextual [*, Since.memCtrl (o := o), Since.memTile (o := o)]; done) | split

@[simp] theorem selectBody_it {o : State} {a0} : ItSince o (selectBody a0) (Keeps o) := by
  unfold selectBody
  repeat' first | exact vecSpaces_it | exact readCodes_it | exact readOpnd_it | exact emit_it | exact itSince_get | exact itSince_throwT | exact itSince_throw | exact itSince_pureT | assumption | apply itSince_bind | intro _ _ | refine itSince_ite ?_ ?_ | refine itSince_pureF (fun _ _ => ?_) | refine itSince_set ?_ | refine itSince_modify (fun _ _ => ?_) | (simp (maxDischargeDepth := 99) +contextual [*, Keeps, Since.memCtrl (o := o), Since.memTile (o := o)]; done) | (simp only [Keeps] at *; simp (maxDischargeDepth := 99) +contextual [*, Since.memCtrl (o := o), Since.memTile (o := o)]; done) | split

@[simp] theorem destCoarse_it {o : State} {a0} {a1} : ItSince o (destCoarse a0 a1) (fun _ => True) := by
  unfold destCoarse
  repeat' first | exact readRuns_it | exact itSince_get | exact itSince_throwT | exact itSince_throw | exact itSince_pureT | assumption | apply itSince_bind | intro _ _ | refine itSince_ite ?_ ?_ | refine itSince_pureF (fun _ _ => ?_) | refine itSince_set ?_ | refine itSince_modify (fun _ _ => ?_) | (simp (maxDischargeDepth := 99) +contextual [*, Keeps, Since.memCtrl (o := o), Since.memTile (o := o)]; done) | (simp only [Keeps] at *; simp (maxDischargeDepth := 99) +contextual [*, Since.memCtrl (o := o), Since.memTile (o := o)]; done) | split

@[simp] theorem cvtBody_it {o : State} {a0} : ItSince o (cvtBody a0) (Keeps o) := by
  unfold cvtBody
  repeat' first | exact destCoarse_it | exact emit_it | exact readCodes_it | exact readScales_it | exact trapNan_it | exact vecSpaces_it | exact writeOpnd_it | exact writeRows_it | exact fail_itT | exact fail_it | exact itSince_get | exact itSince_throwT | exact itSince_throw | exact itSince_pureT | assumption | apply itSince_bind | intro _ _ | refine itSince_ite ?_ ?_ | refine itSince_pureF (fun _ _ => ?_) | refine itSince_set ?_ | refine itSince_modify (fun _ _ => ?_) | (simp (maxDischargeDepth := 99) +contextual [*, Keeps, Since.memCtrl (o := o), Since.memTile (o := o)]; done) | (simp only [Keeps] at *; simp (maxDischargeDepth := 99) +contextual [*, Since.memCtrl (o := o), Since.memTile (o := o)]; done) | split | dsimp only

@[simp] theorem rawUnary_it {o : State} {a0} {a1} : ItSince o (rawUnary a0 a1) (Keeps o) := by
  unfold rawUnary
  repeat' first | exact vecSpaces_it | exact readOpnd_it | exact writeOpnd_it | exact itSince_get | exact itSince_throwT | exact itSince_throw | exact itSince_pureT | assumption | apply itSince_bind | intro _ _ | refine itSince_ite ?_ ?_ | refine itSince_pureF (fun _ _ => ?_) | refine itSince_set ?_ | refine itSince_modify (fun _ _ => ?_) | (simp (maxDischargeDepth := 99) +contextual [*, Keeps, Since.memCtrl (o := o), Since.memTile (o := o)]; done) | (simp only [Keeps] at *; simp (maxDischargeDepth := 99) +contextual [*, Since.memCtrl (o := o), Since.memTile (o := o)]; done) | split

@[simp] theorem rawBinary_it {o : State} {a0} {a1} : ItSince o (rawBinary a0 a1) (Keeps o) := by
  unfold rawBinary
  repeat' first | exact vecSpaces_it | exact readOpnd_it | exact writeOpnd_it | exact itSince_get | exact itSince_throwT | exact itSince_throw | exact itSince_pureT | assumption | apply itSince_bind | intro _ _ | refine itSince_ite ?_ ?_ | refine itSince_pureF (fun _ _ => ?_) | refine itSince_set ?_ | refine itSince_modify (fun _ _ => ?_) | (simp (maxDischargeDepth := 99) +contextual [*, Keeps, Since.memCtrl (o := o), Since.memTile (o := o)]; done) | (simp only [Keeps] at *; simp (maxDischargeDepth := 99) +contextual [*, Since.memCtrl (o := o), Since.memTile (o := o)]; done) | split

@[simp] theorem gfmacBody_it {o : State} {a0} : ItSince o (gfmacBody a0) (Keeps o) := by
  unfold gfmacBody
  repeat' first | exact vecSpaces_it | exact readOpnd_it | exact writeOpnd_it | exact itSince_get | exact itSince_throwT | exact itSince_throw | exact itSince_pureT | assumption | apply itSince_bind | intro _ _ | refine itSince_ite ?_ ?_ | refine itSince_pureF (fun _ _ => ?_) | refine itSince_set ?_ | refine itSince_modify (fun _ _ => ?_) | (simp (maxDischargeDepth := 99) +contextual [*, Keeps, Since.memCtrl (o := o), Since.memTile (o := o)]; done) | (simp only [Keeps] at *; simp (maxDischargeDepth := 99) +contextual [*, Since.memCtrl (o := o), Since.memTile (o := o)]; done) | split

@[simp] theorem gfinvBody_it {o : State} {a0} : ItSince o (gfinvBody a0) (Keeps o) := by
  unfold gfinvBody
  repeat' first | exact vecSpaces_it | exact readOpnd_it | exact writeOpnd_it | exact itSince_get | exact itSince_throwT | exact itSince_throw | exact itSince_pureT | assumption | apply itSince_bind | intro _ _ | refine itSince_ite ?_ ?_ | refine itSince_pureF (fun _ _ => ?_) | refine itSince_set ?_ | refine itSince_modify (fun _ _ => ?_) | (simp (maxDischargeDepth := 99) +contextual [*, Keeps, Since.memCtrl (o := o), Since.memTile (o := o)]; done) | (simp only [Keeps] at *; simp (maxDischargeDepth := 99) +contextual [*, Since.memCtrl (o := o), Since.memTile (o := o)]; done) | split

@[simp] theorem topkBody_it {o : State} {a0} : ItSince o (topkBody a0) (Keeps o) := by
  unfold topkBody
  repeat' first | exact vecSpaces_it | exact readCodes_it | exact emit_it | exact writeOpnd_it | exact itSince_get | exact itSince_throwT | exact itSince_throw | exact itSince_pureT | assumption | apply itSince_bind | intro _ _ | refine itSince_ite ?_ ?_ | refine itSince_pureF (fun _ _ => ?_) | refine itSince_set ?_ | refine itSince_modify (fun _ _ => ?_) | (simp (maxDischargeDepth := 99) +contextual [*, Keeps, Since.memCtrl (o := o), Since.memTile (o := o)]; done) | (simp only [Keeps] at *; simp (maxDischargeDepth := 99) +contextual [*, Since.memCtrl (o := o), Since.memTile (o := o)]; done) | split

@[simp] theorem State.summaryWrite_since {o s : State} {a1} {a2} (h : Since o s) : Since o (State.summaryWrite s a1 a2) := by
  unfold State.summaryWrite
  simp (maxDischargeDepth := 99) [h]

@[simp] theorem stsumBody_it {o : State} {a0} : ItSince o (stsumBody a0) (Keeps o) := by
  unfold stsumBody
  repeat' first | exact vecSpaces_it | exact writeAt_it | exact itSince_get | exact itSince_throwT | exact itSince_throw | exact itSince_pureT | assumption | apply itSince_bind | intro _ _ | refine itSince_ite ?_ ?_ | refine itSince_pureF (fun _ _ => ?_) | refine itSince_set ?_ | refine itSince_modify (fun _ _ => ?_) | (simp (maxDischargeDepth := 99) +contextual [*, Keeps, Since.memCtrl (o := o), Since.memTile (o := o)]; done) | (simp only [Keeps] at *; simp (maxDischargeDepth := 99) +contextual [*, Since.memCtrl (o := o), Since.memTile (o := o)]; done) | split

@[simp] theorem vectorBody_it {o : State} {a0} {a1} : ItSince o (vectorBody a0 a1) (Keeps o) := by
  unfold vectorBody
  split <;> first | exact noEffect_it | simp

theorem execAdd_since {o s : State} {a0} {a1} (h : Since o s) : ∀ {t}, execAdd a0 a1 s = .next t → Since o t := by
  intro t e
  unfold execAdd at e
  cases e
  simp (maxDischargeDepth := 99) [h]

theorem execSub_since {o s : State} {a0} {a1} (h : Since o s) : ∀ {t}, execSub a0 a1 s = .next t → Since o t := by
  intro t e
  unfold execSub at e
  cases e
  simp (maxDischargeDepth := 99) [h]

theorem execMul_since {o s : State} {a0} {a1} (h : Since o s) : ∀ {t}, execMul a0 a1 s = .next t → Since o t := by
  intro t e
  unfold execMul at e
  cases e
  simp (maxDischargeDepth := 99) [h]

theorem execFma_since {o s : State} {a0} {a1} (h : Since o s) : ∀ {t}, execFma a0 a1 s = .next t → Since o t := by
  intro t e
  unfold execFma at e
  cases e
  simp (maxDischargeDepth := 99) [h]

theorem execMin_since {o s : State} {a0} {a1} (h : Since o s) : ∀ {t}, execMin a0 a1 s = .next t → Since o t := by
  intro t e
  unfold execMin at e
  cases e
  simp (maxDischargeDepth := 99) [h]

theorem execMax_since {o s : State} {a0} {a1} (h : Since o s) : ∀ {t}, execMax a0 a1 s = .next t → Since o t := by
  intro t e
  unfold execMax at e
  cases e
  simp (maxDischargeDepth := 99) [h]

theorem execAbs_since {o s : State} {a0} {a1} (h : Since o s) : ∀ {t}, execAbs a0 a1 s = .next t → Since o t := by
  intro t e
  unfold execAbs at e
  cases e
  simp (maxDischargeDepth := 99) [h]

theorem execNeg_since {o s : State} {a0} {a1} (h : Since o s) : ∀ {t}, execNeg a0 a1 s = .next t → Since o t := by
  intro t e
  unfold execNeg at e
  cases e
  simp (maxDischargeDepth := 99) [h]

theorem execCmpeq_since {o s : State} {a0} {a1} (h : Since o s) : ∀ {t}, execCmpeq a0 a1 s = .next t → Since o t := by
  intro t e
  unfold execCmpeq at e
  cases e
  simp (maxDischargeDepth := 99) [h]

theorem execCmpne_since {o s : State} {a0} {a1} (h : Since o s) : ∀ {t}, execCmpne a0 a1 s = .next t → Since o t := by
  intro t e
  unfold execCmpne at e
  cases e
  simp (maxDischargeDepth := 99) [h]

theorem execCmplt_since {o s : State} {a0} {a1} (h : Since o s) : ∀ {t}, execCmplt a0 a1 s = .next t → Since o t := by
  intro t e
  unfold execCmplt at e
  cases e
  simp (maxDischargeDepth := 99) [h]

theorem execCmple_since {o s : State} {a0} {a1} (h : Since o s) : ∀ {t}, execCmple a0 a1 s = .next t → Since o t := by
  intro t e
  unfold execCmple at e
  cases e
  simp (maxDischargeDepth := 99) [h]

theorem execSelectVector_since {o s : State} {a0} {a1} (h : Since o s) : ∀ {t}, execSelectVector a0 a1 s = .next t → Since o t := by
  intro t e
  unfold execSelectVector at e
  cases e
  simp (maxDischargeDepth := 99) [h]

theorem execExp2_since {o s : State} {a0} {a1} (h : Since o s) : ∀ {t}, execExp2 a0 a1 s = .next t → Since o t := by
  intro t e
  unfold execExp2 at e
  cases e
  simp (maxDischargeDepth := 99) [h]

theorem execLog2_since {o s : State} {a0} {a1} (h : Since o s) : ∀ {t}, execLog2 a0 a1 s = .next t → Since o t := by
  intro t e
  unfold execLog2 at e
  cases e
  simp (maxDischargeDepth := 99) [h]

theorem execRcp_since {o s : State} {a0} {a1} (h : Since o s) : ∀ {t}, execRcp a0 a1 s = .next t → Since o t := by
  intro t e
  unfold execRcp at e
  cases e
  simp (maxDischargeDepth := 99) [h]

theorem execRsqrt_since {o s : State} {a0} {a1} (h : Since o s) : ∀ {t}, execRsqrt a0 a1 s = .next t → Since o t := by
  intro t e
  unfold execRsqrt at e
  cases e
  simp (maxDischargeDepth := 99) [h]

theorem execCvt_since {o s : State} {a0} {a1} (h : Since o s) : ∀ {t}, execCvt a0 a1 s = .next t → Since o t := by
  intro t e
  unfold execCvt at e
  cases e
  simp (maxDischargeDepth := 99) [h]

theorem execAnd_since {o s : State} {a0} {a1} (h : Since o s) : ∀ {t}, execAnd a0 a1 s = .next t → Since o t := by
  intro t e
  unfold execAnd at e
  cases e
  simp (maxDischargeDepth := 99) [h]

theorem execOr_since {o s : State} {a0} {a1} (h : Since o s) : ∀ {t}, execOr a0 a1 s = .next t → Since o t := by
  intro t e
  unfold execOr at e
  cases e
  simp (maxDischargeDepth := 99) [h]

theorem execXor_since {o s : State} {a0} {a1} (h : Since o s) : ∀ {t}, execXor a0 a1 s = .next t → Since o t := by
  intro t e
  unfold execXor at e
  cases e
  simp (maxDischargeDepth := 99) [h]

theorem execNot_since {o s : State} {a0} {a1} (h : Since o s) : ∀ {t}, execNot a0 a1 s = .next t → Since o t := by
  intro t e
  unfold execNot at e
  cases e
  simp (maxDischargeDepth := 99) [h]

theorem execShl_since {o s : State} {a0} {a1} (h : Since o s) : ∀ {t}, execShl a0 a1 s = .next t → Since o t := by
  intro t e
  unfold execShl at e
  cases e
  simp (maxDischargeDepth := 99) [h]

theorem execShr_since {o s : State} {a0} {a1} (h : Since o s) : ∀ {t}, execShr a0 a1 s = .next t → Since o t := by
  intro t e
  unfold execShr at e
  cases e
  simp (maxDischargeDepth := 99) [h]

theorem execPopcnt_since {o s : State} {a0} {a1} (h : Since o s) : ∀ {t}, execPopcnt a0 a1 s = .next t → Since o t := by
  intro t e
  unfold execPopcnt at e
  cases e
  simp (maxDischargeDepth := 99) [h]

theorem execGfmul_since {o s : State} {a0} {a1} (h : Since o s) : ∀ {t}, execGfmul a0 a1 s = .next t → Since o t := by
  intro t e
  unfold execGfmul at e
  cases e
  simp (maxDischargeDepth := 99) [h]

theorem execGfmulc_since {o s : State} {a0} {a1} (h : Since o s) : ∀ {t}, execGfmulc a0 a1 s = .next t → Since o t := by
  intro t e
  unfold execGfmulc at e
  cases e
  simp (maxDischargeDepth := 99) [h]

theorem execGfmac_since {o s : State} {a0} {a1} (h : Since o s) : ∀ {t}, execGfmac a0 a1 s = .next t → Since o t := by
  intro t e
  unfold execGfmac at e
  cases e
  simp (maxDischargeDepth := 99) [h]

theorem execGfinv_since {o s : State} {a0} {a1} (h : Since o s) : ∀ {t}, execGfinv a0 a1 s = .next t → Since o t := by
  intro t e
  unfold execGfinv at e
  cases e
  simp (maxDischargeDepth := 99) [h]

theorem execTopk_since {o s : State} {a0} {a1} (h : Since o s) : ∀ {t}, execTopk a0 a1 s = .next t → Since o t := by
  intro t e
  unfold execTopk at e
  cases e
  simp (maxDischargeDepth := 99) [h]

theorem execStsum_since {o s : State} {a0} {a1} (h : Since o s) : ∀ {t}, execStsum a0 a1 s = .next t → Since o t := by
  intro t e
  unfold execStsum at e
  cases e
  simp (maxDischargeDepth := 99) [h]

theorem execSummarySlotWrite_since {o s : State} {a0} {a1} (h : Since o s) : ∀ {t}, execSummarySlotWrite a0 a1 s = .next t → Since o t := by
  intro t e
  unfold execSummarySlotWrite at e
  cases e
  simp (maxDischargeDepth := 99) [h]

end Sys2Proof.Machine
end

