-- ==== Sys2Proof/Laws/SinceMoves.lean ====
section
/-! SUPPORT. What the operations of `Machine/Moves.lean` keep. -/

namespace Sys2Proof.Machine

set_option linter.unusedSimpArgs false
set_option linter.unusedTactic false
set_option linter.unreachableTactic false
set_option linter.unnecessarySeqFocus false

@[simp] theorem copyBody_it {o : State} {a0} : ItSince o (copyBody a0) (Keeps o) := by
  unfold copyBody
  repeat' first | exact readOpnd_it | exact writeOpnd_it | exact readCodes_it | exact emit_it | exact itSince_get | exact itSince_throwT | exact itSince_throw | exact itSince_pureT | assumption | apply itSince_bind | intro _ _ | refine itSince_ite ?_ ?_ | refine itSince_pureF (fun _ _ => ?_) | refine itSince_set ?_ | refine itSince_modify (fun _ _ => ?_) | (simp (maxDischargeDepth := 99) +contextual [*, Keeps, Since.memCtrl (o := o), Since.memTile (o := o)]; done) | (simp only [Keeps] at *; simp (maxDischargeDepth := 99) +contextual [*, Since.memCtrl (o := o), Since.memTile (o := o)]; done) | split

@[simp] theorem fillBody_it {o : State} {a0} : ItSince o (fillBody a0) (Keeps o) := by
  unfold fillBody
  repeat' first | exact writeOpnd_it | exact itSince_get | exact itSince_throwT | exact itSince_throw | exact itSince_pureT | assumption | apply itSince_bind | intro _ _ | refine itSince_ite ?_ ?_ | refine itSince_pureF (fun _ _ => ?_) | refine itSince_set ?_ | refine itSince_modify (fun _ _ => ?_) | (simp (maxDischargeDepth := 99) +contextual [*, Keeps, Since.memCtrl (o := o), Since.memTile (o := o)]; done) | (simp only [Keeps] at *; simp (maxDischargeDepth := 99) +contextual [*, Since.memCtrl (o := o), Since.memTile (o := o)]; done) | split

@[simp] theorem namedLines_it {o : State} {a0} : ItSince o (namedLines a0) (fun _ => True) := by
  unfold namedLines
  repeat' first | exact need_it | exact itSince_get | exact itSince_throwT | exact itSince_throw | exact itSince_pureT | assumption | apply itSince_bind | intro _ _ | refine itSince_ite ?_ ?_ | refine itSince_pureF (fun _ _ => ?_) | refine itSince_set ?_ | refine itSince_modify (fun _ _ => ?_) | (simp (maxDischargeDepth := 99) +contextual [*, Keeps, Since.memCtrl (o := o), Since.memTile (o := o)]; done) | (simp only [Keeps] at *; simp (maxDischargeDepth := 99) +contextual [*, Since.memCtrl (o := o), Since.memTile (o := o)]; done) | split

@[simp] theorem beginLines_it {o : State} {e : Run} {ls : List Nat} {f : Tile → Tile}
    (hf : ∀ x : Tile, Memory.wf x.mem = true → Memory.wf (f x).mem = true) : ItSince o (beginLines e ls f) (Keeps o) := by
  unfold beginLines
  split
  · exact itSince_pureF fun _ hs => hs
  · exact itSince_bind (itSince_modify fun s hs => by simp (maxDischargeDepth := 99) +contextual [hs, hf]) fun _ _ => itSince_throw

@[simp] theorem ocloadBody_it {o : State} {a0} : ItSince o (ocloadBody a0) (Keeps o) := by
  unfold ocloadBody
  repeat' first | exact need_it | exact namedLines_it | exact readTileRuns_it | exact beginLines_it | exact fail_itT | exact fail_it | exact itSince_get | exact itSince_throwT | exact itSince_throw | exact itSince_pureT | assumption | apply itSince_bind | intro _ _ | refine itSince_ite ?_ ?_ | refine itSince_pureF (fun _ _ => ?_) | refine itSince_set ?_ | refine itSince_modify (fun _ _ => ?_) | (simp (maxDischargeDepth := 99) +contextual [*, Keeps, Since.memCtrl (o := o), Since.memTile (o := o)]; done) | (simp only [Keeps] at *; simp (maxDischargeDepth := 99) +contextual [*, Since.memCtrl (o := o), Since.memTile (o := o)]; done) | split

@[simp] theorem ocevictBody_it {o : State} {a0} : ItSince o (ocevictBody a0) (Keeps o) := by
  unfold ocevictBody
  repeat' first | exact namedLines_it | exact need_it | exact canWrite_it | exact beginLines_it | exact fail_itT | exact fail_it | exact itSince_get | exact itSince_throwT | exact itSince_throw | exact itSince_pureT | assumption | apply itSince_bind | intro _ _ | refine itSince_ite ?_ ?_ | refine itSince_pureF (fun _ _ => ?_) | refine itSince_set ?_ | refine itSince_modify (fun _ _ => ?_) | (simp (maxDischargeDepth := 99) +contextual [*, Keeps, Since.memCtrl (o := o), Since.memTile (o := o)]; done) | (simp only [Keeps] at *; simp (maxDischargeDepth := 99) +contextual [*, Since.memCtrl (o := o), Since.memTile (o := o)]; done) | split

theorem execCopy_since {o s : State} {a0} {a1} (h : Since o s) : ∀ {t}, execCopy a0 a1 s = .next t → Since o t := by
  intro t e
  unfold execCopy at e
  cases e
  simp (maxDischargeDepth := 99) [h]

theorem execFill_since {o s : State} {a0} {a1} (h : Since o s) : ∀ {t}, execFill a0 a1 s = .next t → Since o t := by
  intro t e
  unfold execFill at e
  cases e
  simp (maxDischargeDepth := 99) [h]

theorem execOcload_since {o s : State} {a0} {a1} (h : Since o s) : ∀ {t}, execOcload a0 a1 s = .next t → Since o t := by
  intro t e
  unfold execOcload at e
  cases e
  simp (maxDischargeDepth := 99) [h]

theorem execOcevict_since {o s : State} {a0} {a1} (h : Since o s) : ∀ {t}, execOcevict a0 a1 s = .next t → Since o t := by
  intro t e
  unfold execOcevict at e
  cases e
  simp (maxDischargeDepth := 99) [h]

end Sys2Proof.Machine
end

