-- ==== Sys2Proof/Laws/SinceGang.lean ====
section
/-! SUPPORT. What the operations of `Machine/Gang.lean` keep. -/

namespace Sys2Proof.Machine

set_option linter.unusedSimpArgs false
set_option linter.unusedTactic false
set_option linter.unreachableTactic false
set_option linter.unnecessarySeqFocus false

@[simp] theorem readFine_it {o : State} {a0} {a1} {a2} : ItSince o (readFine a0 a1 a2) (fun _ => True) := by
  unfold readFine
  repeat' first | exact readTileRuns_it | exact fail_itT | exact fail_it | exact itSince_get | exact itSince_throwT | exact itSince_throw | exact itSince_pureT | assumption | apply itSince_bind | intro _ _ | refine itSince_ite ?_ ?_ | refine itSince_pureF (fun _ _ => ?_) | refine itSince_set ?_ | refine itSince_modify (fun _ _ => ?_) | (simp (maxDischargeDepth := 99) +contextual [*, Keeps, Since.memCtrl (o := o), Since.memTile (o := o)]; done) | (simp only [Keeps] at *; simp (maxDischargeDepth := 99) +contextual [*, Since.memCtrl (o := o), Since.memTile (o := o)]; done) | split | dsimp only

@[simp] theorem readDense_it {o : State} {a0} {a1} {a2} : ItSince o (readDense a0 a1 a2) (fun _ => True) := by
  unfold readDense
  repeat' first | exact readFine_it | exact readTileRuns_it | exact fail_itT | exact fail_it | exact itSince_get | exact itSince_throwT | exact itSince_throw | exact itSince_pureT | assumption | apply itSince_bind | intro _ _ | refine itSince_ite ?_ ?_ | refine itSince_pureF (fun _ _ => ?_) | refine itSince_set ?_ | refine itSince_modify (fun _ _ => ?_) | (simp (maxDischargeDepth := 99) +contextual [*, Keeps, Since.memCtrl (o := o), Since.memTile (o := o)]; done) | (simp only [Keeps] at *; simp (maxDischargeDepth := 99) +contextual [*, Since.memCtrl (o := o), Since.memTile (o := o)]; done) | split | dsimp only

@[simp] theorem readBlock_it {o : State} {a0} {a1} {a2} : ItSince o (readBlock a0 a1 a2) (fun _ => True) := by
  unfold readBlock
  repeat' first | exact need_it | exact readTileRuns_it | exact fail_itT | exact fail_it | exact itSince_get | exact itSince_throwT | exact itSince_throw | exact itSince_pureT | assumption | apply itSince_bind | intro _ _ | refine itSince_ite ?_ ?_ | refine itSince_pureF (fun _ _ => ?_) | refine itSince_set ?_ | refine itSince_modify (fun _ _ => ?_) | (simp (maxDischargeDepth := 99) +contextual [*, Keeps, Since.memCtrl (o := o), Since.memTile (o := o)]; done) | (simp only [Keeps] at *; simp (maxDischargeDepth := 99) +contextual [*, Since.memCtrl (o := o), Since.memTile (o := o)]; done) | split | dsimp only

@[simp] theorem readBlocks_it {o : State} {e : Run} {elem : Nat} : ∀ {n : Nat} {a : Int}, ItSince o (readBlocks e elem n a) (fun _ => True)
  | 0, _ => itSince_pureT
  | _ + 1, _ => itSince_bind readBlock_it fun _ _ => itSince_bind readBlocks_it fun _ _ => itSince_pureT

@[simp] theorem readDoubly_it {o : State} {a0} {a1} {a2} : ItSince o (readDoubly a0 a1 a2) (fun _ => True) := by
  unfold readDoubly
  repeat' first | exact readBlocks_it | exact readFine_it | exact fail_itT | exact fail_it | exact itSince_get | exact itSince_throwT | exact itSince_throw | exact itSince_pureT | assumption | apply itSince_bind | intro _ _ | refine itSince_ite ?_ ?_ | refine itSince_pureF (fun _ _ => ?_) | refine itSince_set ?_ | refine itSince_modify (fun _ _ => ?_) | (simp (maxDischargeDepth := 99) +contextual [*, Keeps, Since.memCtrl (o := o), Since.memTile (o := o)]; done) | (simp only [Keeps] at *; simp (maxDischargeDepth := 99) +contextual [*, Since.memCtrl (o := o), Since.memTile (o := o)]; done) | split | dsimp only

@[simp] theorem readStrip_it {o : State} {e : Run} {elem : Nat} : ∀ {n : Nat} {a : Int}, ItSince o (readStrip e elem n a) (fun _ => True)
  | 0, _ => itSince_pureT
  | _ + 1, _ => itSince_bind readTileRuns_it fun _ _ => itSince_bind readTileRuns_it fun _ _ =>
    itSince_bind readStrip_it fun _ _ => itSince_pureT

@[simp] theorem readStrips_it {o : State} {e : Run} {p : Opnd} {b : Bytes} : ∀ {n : Nat}, ItSince o (readStrips e p b n) (fun _ => True)
  | 0 => itSince_pureT
  | _ + 1 => itSince_bind readStrips_it fun _ _ => itSince_bind readStrip_it fun _ _ => itSince_pureT

@[simp] theorem readUnstructured_it {o : State} {a0} {a1} : ItSince o (readUnstructured a0 a1) (fun _ => True) := by
  unfold readUnstructured
  repeat' first | exact readFine_it | exact readStrips_it | exact readTileRuns_it | exact fail_itT | exact fail_it | exact itSince_get | exact itSince_throwT | exact itSince_throw | exact itSince_pureT | assumption | apply itSince_bind | intro _ _ | refine itSince_ite ?_ ?_ | refine itSince_pureF (fun _ _ => ?_) | refine itSince_set ?_ | refine itSince_modify (fun _ _ => ?_) | (simp (maxDischargeDepth := 99) +contextual [*, Keeps, Since.memCtrl (o := o), Since.memTile (o := o)]; done) | (simp only [Keeps] at *; simp (maxDischargeDepth := 99) +contextual [*, Since.memCtrl (o := o), Since.memTile (o := o)]; done) | split | dsimp only

@[simp] theorem readWeights_it {o : State} {a0} {a1} {a2} : ItSince o (readWeights a0 a1 a2) (fun _ => True) := by
  unfold readWeights
  repeat' first | exact readDense_it | exact readDoubly_it | exact readUnstructured_it | exact fail_itT | exact fail_it | exact itSince_get | exact itSince_throwT | exact itSince_throw | exact itSince_pureT | assumption | apply itSince_bind | intro _ _ | refine itSince_ite ?_ ?_ | refine itSince_pureF (fun _ _ => ?_) | refine itSince_set ?_ | refine itSince_modify (fun _ _ => ?_) | (simp (maxDischargeDepth := 99) +contextual [*, Keeps, Since.memCtrl (o := o), Since.memTile (o := o)]; done) | (simp only [Keeps] at *; simp (maxDischargeDepth := 99) +contextual [*, Since.memCtrl (o := o), Since.memTile (o := o)]; done) | split | dsimp only

@[simp] theorem readAllWeights_it {o : State} {side : Nat} : ∀ {i : Nat} {l : List (List Run)}, ItSince o (readAllWeights side i l) (fun _ => True)
  | _, [] => itSince_pureT
  | _, r :: _ => itSince_bind (itSince_mapM (fun _ => readWeights_it) r.zipIdx) fun _ _ => itSince_bind readAllWeights_it fun _ _ => itSince_pureT

@[simp] theorem readChannel_it {o : State} {a0} : ItSince o (readChannel a0) (fun _ => True) := by
  unfold readChannel
  repeat' first | exact readTileRuns_it | exact fail_itT | exact fail_it | exact itSince_get | exact itSince_throwT | exact itSince_throw | exact itSince_pureT | assumption | apply itSince_bind | intro _ _ | refine itSince_ite ?_ ?_ | refine itSince_pureF (fun _ _ => ?_) | refine itSince_set ?_ | refine itSince_modify (fun _ _ => ?_) | (simp (maxDischargeDepth := 99) +contextual [*, Keeps, Since.memCtrl (o := o), Since.memTile (o := o)]; done) | (simp only [Keeps] at *; simp (maxDischargeDepth := 99) +contextual [*, Since.memCtrl (o := o), Since.memTile (o := o)]; done) | split | dsimp only

@[simp] theorem readMoving_it {o : State} {a0} {a1} : ItSince o (readMoving a0 a1) (fun _ => True) := by
  unfold readMoving
  repeat' first | exact need_it | exact readFine_it | exact readTileRuns_it | exact fail_itT | exact fail_it | exact itSince_get | exact itSince_throwT | exact itSince_throw | exact itSince_pureT | assumption | apply itSince_bind | intro _ _ | refine itSince_ite ?_ ?_ | refine itSince_pureF (fun _ _ => ?_) | refine itSince_set ?_ | refine itSince_modify (fun _ _ => ?_) | (simp (maxDischargeDepth := 99) +contextual [*, Keeps, Since.memCtrl (o := o), Since.memTile (o := o)]; done) | (simp only [Keeps] at *; simp (maxDischargeDepth := 99) +contextual [*, Since.memCtrl (o := o), Since.memTile (o := o)]; done) | split | dsimp only

@[simp] theorem readHeld_it {o : State} {a0} : ItSince o (readHeld a0) (fun _ => True) := by
  unfold readHeld
  repeat' first | exact readTileRuns_it | exact fail_itT | exact fail_it | exact itSince_get | exact itSince_throwT | exact itSince_throw | exact itSince_pureT | assumption | apply itSince_bind | intro _ _ | refine itSince_ite ?_ ?_ | refine itSince_pureF (fun _ _ => ?_) | refine itSince_set ?_ | refine itSince_modify (fun _ _ => ?_) | (simp (maxDischargeDepth := 99) +contextual [*, Keeps, Since.memCtrl (o := o), Since.memTile (o := o)]; done) | (simp only [Keeps] at *; simp (maxDischargeDepth := 99) +contextual [*, Since.memCtrl (o := o), Since.memTile (o := o)]; done) | split | dsimp only

@[simp] theorem storeHeld_since {o s : State} {a1} {a2} {a3} (h : Since o s) : Since o (storeHeld a1 a2 a3 s) := by
  unfold storeHeld
  split
  · exact forEach_since (fun r s hs => State.modTile_since hs fun _ hx => Tile.writeMem_mem hx) _ h
  · exact h

@[simp] theorem deliverUnit_since {o s : State} {a0} {a1} {a2} {a3} (h : Since o s) : Since o (deliverUnit a0 a1 a2 a3 s) := by
  unfold deliverUnit
  simp (maxDischargeDepth := 99) +contextual [h]

@[simp] theorem State.holdGang_since {o s : State} {a1} {a2} {a3} (h : Since o s) : Since o (State.holdGang s a1 a2 a3) := by
  unfold State.holdGang
  simp (maxDischargeDepth := 99) +contextual [h]

@[simp] theorem deliverFrom_it {o : State} {x : MmaRun} {e : Run} {all : List (Run × List OutVal)} {ngs : Nat} : ∀ {n i : Nat},
    ItSince o (deliverFrom x e all ngs n i) (fun _ => True)
  | 0, _ => itSince_pureT
  | n + 1, i => by
    unfold deliverFrom
    refine itSince_bind itSince_get fun s hs => ?_
    split
    · exact itSince_bind (itSince_modify fun s hs => by simp [hs]) fun _ _ => holdOn_it
    · exact itSince_bind (itSince_modify fun s hs => by simp [hs]) fun _ _ => deliverFrom_it

@[simp] theorem takeStreams_since {o s : State} {a0} {a1} (h : Since o s) : Since o (takeStreams a0 a1 s) := by
  unfold takeStreams
  simp only []
  have h1 := forEach_since (o := o) (f := fun (r : List Run × Moving) (s : State) =>
    match r.1.head? with
    | some m => s.modTile m.t fun y => { y with westIn := y.westIn.drop r.2.taken }
    | none => s) (fun r s hs => by
      split
      · simp +contextual [hs]
      · exact hs) (a0.rows.zip a0.pass.moving) h
  split
  · exact forEach_since (fun m s hs => by simp +contextual [hs]) _ h1
  · exact h1

@[simp] theorem mmaRead_it {o : State} {a0} {a1} : ItSince o (mmaRead a0 a1) (fun _ => True) := by
  unfold mmaRead
  refine itSince_bind readAllWeights_it fun _ _ => itSince_bind (itSince_mapM (fun _ => readMoving_it) _) fun _ _ => ?_
  dsimp only
  split
  · exact itSince_bind readTileRuns_it fun _ _ => itSince_bind (itSince_mapM (fun _ => readChannel_it) _) fun _ _ =>
      itSince_bind (itSince_mapM (fun _ => readHeld_it) _) fun _ _ => itSince_pureT
  · exact itSince_bind itSince_pureT fun _ _ => itSince_bind (itSince_mapM (fun _ => readChannel_it) _) fun _ _ =>
      itSince_bind (itSince_mapM (fun _ => readHeld_it) _) fun _ _ => itSince_pureT

@[simp] theorem resetHeldPorts_since {o s : State} {a0} (h : Since o s) : Since o (resetHeldPorts a0 s) := by
  unfold resetHeldPorts
  refine forEach_since (fun r s hs => ?_) _ h
  split
  · simp +contextual [hs]
  · exact hs

@[simp] theorem trapOutputs_it {o : State} {a1} {a2} : ItSince o (trapOutputs a1 a2) (fun _ => True) := by
  unfold trapOutputs
  repeat' first | exact itSince_get | exact itSince_throwT | exact itSince_throw | exact itSince_pureT | assumption | apply itSince_bind | intro _ _ | refine itSince_ite ?_ ?_ | refine itSince_pureF (fun _ _ => ?_) | refine itSince_set ?_ | refine itSince_modify (fun _ _ => ?_) | (simp (maxDischargeDepth := 99) +contextual [*, Keeps, Since.memCtrl (o := o), Since.memTile (o := o)]; done) | (simp only [Keeps] at *; simp (maxDischargeDepth := 99) +contextual [*, Since.memCtrl (o := o), Since.memTile (o := o)]; done) | split

@[simp] theorem mmaBody_it {o : State} {a0} : ItSince o (mmaBody a0) (Keeps o) := by
  unfold mmaBody
  repeat' first | exact need_it | exact itSince_discard readAllWeights_it | exact itSince_discard (itSince_mapM (fun _ => canWrite_it) _) | exact trapOutputs_it | exact mmaRead_it | exact deliverFrom_it | exact itSince_get | exact itSince_throwT | exact itSince_throw | exact itSince_pureT | assumption | apply itSince_bind | intro _ _ | refine itSince_ite ?_ ?_ | refine itSince_pureF (fun _ _ => ?_) | refine itSince_set ?_ | refine itSince_modify (fun _ _ => ?_) | (simp (maxDischargeDepth := 99) +contextual [*, Keeps, Since.memCtrl (o := o), Since.memTile (o := o)]; done) | split | dsimp only

theorem execMma_since {o s : State} {a0} {a1} (h : Since o s) : ∀ {t}, execMma a0 a1 s = .next t → Since o t := by
  intro t e
  unfold execMma at e
  cases e
  simp (maxDischargeDepth := 99) [h]

@[simp] theorem State.gangResume_since {o s : State} {a1} (h : Since o s) : Since o (State.gangResume s a1) := by
  unfold State.gangResume
  simp (maxDischargeDepth := 99) +contextual [h]

theorem execGangResume_since {o s : State} {a0} (h : Since o s) : ∀ {t}, execGangResume a0 s = .next t → Since o t := by
  intro t e
  unfold execGangResume at e
  cases e
  simp (maxDischargeDepth := 99) [h]

@[simp] theorem readStream_it {o : State} {a0} {a1} {a2} : ItSince o (readStream a0 a1 a2) (fun _ => True) := by
  unfold readStream
  repeat' first | exact readPort_it | exact fail_itT | exact fail_it | exact itSince_get | exact itSince_throwT | exact itSince_throw | exact itSince_pureT | assumption | apply itSince_bind | intro _ _ | refine itSince_ite ?_ ?_ | refine itSince_pureF (fun _ _ => ?_) | refine itSince_set ?_ | refine itSince_modify (fun _ _ => ?_) | (simp (maxDischargeDepth := 99) +contextual [*, Keeps, Since.memCtrl (o := o), Since.memTile (o := o)]; done) | (simp only [Keeps] at *; simp (maxDischargeDepth := 99) +contextual [*, Since.memCtrl (o := o), Since.memTile (o := o)]; done) | split | dsimp only

@[simp] theorem readDenseOperand_it {o : State} {a0} {a1} : ItSince o (readDenseOperand a0 a1) (fun _ => True) := by
  unfold readDenseOperand
  repeat' first | exact readRuns_it | exact readStream_it | exact fail_itT | exact fail_it | exact itSince_get | exact itSince_throwT | exact itSince_throw | exact itSince_pureT | assumption | apply itSince_bind | intro _ _ | refine itSince_ite ?_ ?_ | refine itSince_pureF (fun _ _ => ?_) | refine itSince_set ?_ | refine itSince_modify (fun _ _ => ?_) | (simp (maxDischargeDepth := 99) +contextual [*, Keeps, Since.memCtrl (o := o), Since.memTile (o := o)]; done) | (simp only [Keeps] at *; simp (maxDischargeDepth := 99) +contextual [*, Since.memCtrl (o := o), Since.memTile (o := o)]; done) | split | dsimp only

@[simp] theorem pruneBody_it {o : State} {a0} : ItSince o (pruneBody a0) (Keeps o) := by
  unfold pruneBody
  refine itSince_bind itSince_get fun s hs => itSince_bind need_it fun _ _ => itSince_bind readDenseOperand_it fun x _ =>
    itSince_bind writeAt_it fun w hw => ?_
  dsimp only
  split
  · exact itSince_pure hw
  · split
    · exact itSince_bind writeAt_it fun c hc => itSince_bind writeRows_it fun f hf => itSince_pureF fun s hs => hf _ (hc _ (hw _ hs))
    · exact itSince_bind (itSince_pureF (f := id) fun _ hs => hs) fun c hc => itSince_bind writeRows_it fun f hf =>
        itSince_pureF fun s hs => hf _ (hc _ (hw _ hs))

theorem execPrune_since {o s : State} {a0} {a1} (h : Since o s) : ∀ {t}, execPrune a0 a1 s = .next t → Since o t := by
  intro t e
  unfold execPrune at e
  cases e
  simp (maxDischargeDepth := 99) [h]

end Sys2Proof.Machine
end

