-- ==== Sys2Proof/Laws/SinceAccUnit.lean ====
section
/-! SUPPORT. What the operations of `Machine/AccUnit.lean` keep. -/

namespace Sys2Proof.Machine

set_option linter.unusedSimpArgs false
set_option linter.unusedTactic false
set_option linter.unreachableTactic false
set_option linter.unnecessarySeqFocus false

@[simp] theorem writeRowsOf_it {o : State} {a0} {a1} {a2} {a3} : ItSince o (writeRowsOf a0 a1 a2 a3) (Keeps o) := by
  unfold writeRowsOf
  repeat' first | exact canWrite_it | exact itSince_get | exact itSince_throwT | exact itSince_throw | exact itSince_pureT | assumption | apply itSince_bind | intro _ _ | refine itSince_ite ?_ ?_ | refine itSince_pureF (fun _ _ => ?_) | refine itSince_set ?_ | refine itSince_modify (fun _ _ => ?_) | (simp (maxDischargeDepth := 99) +contextual [*, Keeps, Since.memCtrl (o := o), Since.memTile (o := o)]; done) | (simp only [Keeps] at *; simp (maxDischargeDepth := 99) +contextual [*, Since.memCtrl (o := o), Since.memTile (o := o)]; done) | split

@[simp] theorem readTerms_it {o : State} {a0} : ItSince o (readTerms a0) (fun _ => True) := by
  unfold readTerms
  repeat' first | exact readScaled_it | exact readRuns_it | exact need_it | exact itSince_get | exact itSince_throwT | exact itSince_throw | exact itSince_pureT | assumption | apply itSince_bind | intro _ _ | refine itSince_ite ?_ ?_ | refine itSince_pureF (fun _ _ => ?_) | refine itSince_set ?_ | refine itSince_modify (fun _ _ => ?_) | (simp (maxDischargeDepth := 99) +contextual [*, Keeps, Since.memCtrl (o := o), Since.memTile (o := o)]; done) | (simp only [Keeps] at *; simp (maxDischargeDepth := 99) +contextual [*, Since.memCtrl (o := o), Since.memTile (o := o)]; done) | split

@[simp] theorem readOut_it {o : State} {a0} {a1} {a2} : ItSince o (readOut a0 a1 a2) (fun _ => True) := by
  unfold readOut
  repeat' first | exact need_it | exact itSince_get | exact itSince_throwT | exact itSince_throw | exact itSince_pureT | assumption | apply itSince_bind | intro _ _ | refine itSince_ite ?_ ?_ | refine itSince_pureF (fun _ _ => ?_) | refine itSince_set ?_ | refine itSince_modify (fun _ _ => ?_) | (simp (maxDischargeDepth := 99) +contextual [*, Keeps, Since.memCtrl (o := o), Since.memTile (o := o)]; done) | (simp only [Keeps] at *; simp (maxDischargeDepth := 99) +contextual [*, Since.memCtrl (o := o), Since.memTile (o := o)]; done) | split

@[simp] theorem accsumBody_it {o : State} {a0} {a1} : ItSince o (accsumBody a0 a1) (Keeps o) := by
  unfold accsumBody
  simp only []
  refine itSince_bind readTerms_it fun ts _ => itSince_bind itSince_get fun s _ => ?_
  have hfin : ∀ {w : State → State} {g : Tile → Tile}, Keeps o w → (∀ x : Tile, (g x).mem = x.mem) → ∀ {n}, ItSince o (pure fun s : State =>
      if (s.residue a1.t a0).2 then w (((s.residue a1.t a0).1.modTile a1.t g).tileCount a1.t 0x0F n) else (s.residue a1.t a0).1) (Keeps o) := by
    intro w g hw hg n
    refine itSince_pureF fun s hs => ?_
    split
    · exact hw _ (by simp (maxDischargeDepth := 99) +contextual [hs, hg])
    · simp [hs]
  split
  · refine itSince_bind readOut_it fun r _ => itSince_bind writeRowsOf_it fun w hw => itSince_bind (P := Keeps o) (itSince_pureF fun s hs => ?_) fun w hw =>
      hfin hw fun x => ?_
    · simp [hw s hs]
    · simp
  · exact itSince_bind (P := Keeps o) (itSince_pureF fun s hs => hs) fun w hw => hfin hw fun x => by simp

@[simp] theorem accreadBody_it {o : State} {a0} : ItSince o (accreadBody a0) (Keeps o) := by
  unfold accreadBody
  repeat' first | exact readOut_it | exact writeRowsOf_it | exact itSince_get | exact itSince_throwT | exact itSince_throw | exact itSince_pureT | assumption | apply itSince_bind | intro _ _ | refine itSince_ite ?_ ?_ | refine itSince_pureF (fun _ _ => ?_) | refine itSince_set ?_ | refine itSince_modify (fun _ _ => ?_) | (simp (maxDischargeDepth := 99) +contextual [*, Keeps, Since.memCtrl (o := o), Since.memTile (o := o)]; done) | (simp only [Keeps] at *; simp (maxDischargeDepth := 99) +contextual [*, Since.memCtrl (o := o), Since.memTile (o := o)]; done) | split

@[simp] theorem accclrBody_it {o : State} {a0} : ItSince o (accclrBody a0) (Keeps o) := by
  unfold accclrBody
  repeat' first | exact itSince_get | exact itSince_throwT | exact itSince_throw | exact itSince_pureT | assumption | apply itSince_bind | intro _ _ | refine itSince_ite ?_ ?_ | refine itSince_pureF (fun _ _ => ?_) | refine itSince_set ?_ | refine itSince_modify (fun _ _ => ?_) | (simp (maxDischargeDepth := 99) +contextual [*, Keeps, Since.memCtrl (o := o), Since.memTile (o := o)]; done) | (simp only [Keeps] at *; simp (maxDischargeDepth := 99) +contextual [*, Since.memCtrl (o := o), Since.memTile (o := o)]; done) | split

@[simp] theorem accstoreBody_it {o : State} {a0} : ItSince o (accstoreBody a0) (Keeps o) := by
  unfold accstoreBody
  repeat' first | exact writeRowsOf_it | exact itSince_get | exact itSince_throwT | exact itSince_throw | exact itSince_pureT | assumption | apply itSince_bind | intro _ _ | refine itSince_ite ?_ ?_ | refine itSince_pureF (fun _ _ => ?_) | refine itSince_set ?_ | refine itSince_modify (fun _ _ => ?_) | (simp (maxDischargeDepth := 99) +contextual [*, Keeps, Since.memCtrl (o := o), Since.memTile (o := o)]; done) | (simp only [Keeps] at *; simp (maxDischargeDepth := 99) +contextual [*, Since.memCtrl (o := o), Since.memTile (o := o)]; done) | split

@[simp] theorem accloadBody_it {o : State} {a0} : ItSince o (accloadBody a0) (Keeps o) := by
  unfold accloadBody
  repeat' first | exact readRuns_it | exact need_it | exact itSince_get | exact itSince_throwT | exact itSince_throw | exact itSince_pureT | assumption | apply itSince_bind | intro _ _ | refine itSince_ite ?_ ?_ | refine itSince_pureF (fun _ _ => ?_) | refine itSince_set ?_ | refine itSince_modify (fun _ _ => ?_) | (simp (maxDischargeDepth := 99) +contextual [*, Keeps, Since.memCtrl (o := o), Since.memTile (o := o)]; done) | (simp only [Keeps] at *; simp (maxDischargeDepth := 99) +contextual [*, Since.memCtrl (o := o), Since.memTile (o := o)]; done) | split

@[simp] theorem readRecords_it {o : State} {a0} : ItSince o (readRecords a0) (fun _ => True) := by
  unfold readRecords
  repeat' first | exact readRuns_it | exact need_it | exact itSince_get | exact itSince_throwT | exact itSince_throw | exact itSince_pureT | assumption | apply itSince_bind | intro _ _ | refine itSince_ite ?_ ?_ | refine itSince_pureF (fun _ _ => ?_) | refine itSince_set ?_ | refine itSince_modify (fun _ _ => ?_) | (simp (maxDischargeDepth := 99) +contextual [*, Keeps, Since.memCtrl (o := o), Since.memTile (o := o)]; done) | (simp only [Keeps] at *; simp (maxDischargeDepth := 99) +contextual [*, Since.memCtrl (o := o), Since.memTile (o := o)]; done) | split

@[simp] theorem writeRecords_it {o : State} {a0} {a1} : ItSince o (writeRecords a0 a1) (Keeps o) := by
  unfold writeRecords
  repeat' first | exact writeRowsOf_it | exact itSince_get | exact itSince_throwT | exact itSince_throw | exact itSince_pureT | assumption | apply itSince_bind | intro _ _ | refine itSince_ite ?_ ?_ | refine itSince_pureF (fun _ _ => ?_) | refine itSince_set ?_ | refine itSince_modify (fun _ _ => ?_) | (simp (maxDischargeDepth := 99) +contextual [*, Keeps, Since.memCtrl (o := o), Since.memTile (o := o)]; done) | (simp only [Keeps] at *; simp (maxDischargeDepth := 99) +contextual [*, Since.memCtrl (o := o), Since.memTile (o := o)]; done) | split

@[simp] theorem ssortBody_it {o : State} {a0} : ItSince o (ssortBody a0) (Keeps o) := by
  unfold ssortBody
  repeat' first | exact readRecords_it | exact writeRecords_it | exact itSince_get | exact itSince_throwT | exact itSince_throw | exact itSince_pureT | assumption | apply itSince_bind | intro _ _ | refine itSince_ite ?_ ?_ | refine itSince_pureF (fun _ _ => ?_) | refine itSince_set ?_ | refine itSince_modify (fun _ _ => ?_) | (simp (maxDischargeDepth := 99) +contextual [*, Keeps, Since.memCtrl (o := o), Since.memTile (o := o)]; done) | (simp only [Keeps] at *; simp (maxDischargeDepth := 99) +contextual [*, Since.memCtrl (o := o), Since.memTile (o := o)]; done) | split

@[simp] theorem sgatherBody_it {o : State} {a0} : ItSince o (sgatherBody a0) (Keeps o) := by
  unfold sgatherBody
  repeat' first | exact readRecords_it | exact writeRecords_it | exact itSince_get | exact itSince_throwT | exact itSince_throw | exact itSince_pureT | assumption | apply itSince_bind | intro _ _ | refine itSince_ite ?_ ?_ | refine itSince_pureF (fun _ _ => ?_) | refine itSince_set ?_ | refine itSince_modify (fun _ _ => ?_) | (simp (maxDischargeDepth := 99) +contextual [*, Keeps, Since.memCtrl (o := o), Since.memTile (o := o)]; done) | (simp only [Keeps] at *; simp (maxDischargeDepth := 99) +contextual [*, Since.memCtrl (o := o), Since.memTile (o := o)]; done) | split

@[simp] theorem sfilterBody_it {o : State} {a0} : ItSince o (sfilterBody a0) (Keeps o) := by
  unfold sfilterBody
  repeat' first | exact readRecords_it | exact writeRecords_it | exact itSince_get | exact itSince_throwT | exact itSince_throw | exact itSince_pureT | assumption | apply itSince_bind | intro _ _ | refine itSince_ite ?_ ?_ | refine itSince_pureF (fun _ _ => ?_) | refine itSince_set ?_ | refine itSince_modify (fun _ _ => ?_) | (simp (maxDischargeDepth := 99) +contextual [*, Keeps, Since.memCtrl (o := o), Since.memTile (o := o)]; done) | (simp only [Keeps] at *; simp (maxDischargeDepth := 99) +contextual [*, Since.memCtrl (o := o), Since.memTile (o := o)]; done) | split

@[simp] theorem sminmaxBody_it {o : State} {a0} : ItSince o (sminmaxBody a0) (Keeps o) := by
  unfold sminmaxBody
  repeat' first | exact readRecords_it | exact writeRowsOf_it | exact itSince_get | exact itSince_throwT | exact itSince_throw | exact itSince_pureT | assumption | apply itSince_bind | intro _ _ | refine itSince_ite ?_ ?_ | refine itSince_pureF (fun _ _ => ?_) | refine itSince_set ?_ | refine itSince_modify (fun _ _ => ?_) | (simp (maxDischargeDepth := 99) +contextual [*, Keeps, Since.memCtrl (o := o), Since.memTile (o := o)]; done) | (simp only [Keeps] at *; simp (maxDischargeDepth := 99) +contextual [*, Since.memCtrl (o := o), Since.memTile (o := o)]; done) | split

theorem execAccsum_since {o s : State} {a0} {a1} {a2} (h : Since o s) : ∀ {t}, execAccsum a0 a1 a2 s = .next t → Since o t := by
  intro t e
  unfold execAccsum at e
  cases e
  simp (maxDischargeDepth := 99) [h]

theorem execAccread_since {o s : State} {a0} {a1} (h : Since o s) : ∀ {t}, execAccread a0 a1 s = .next t → Since o t := by
  intro t e
  unfold execAccread at e
  cases e
  simp (maxDischargeDepth := 99) [h]

theorem execAccclr_since {o s : State} {a0} {a1} (h : Since o s) : ∀ {t}, execAccclr a0 a1 s = .next t → Since o t := by
  intro t e
  unfold execAccclr at e
  cases e
  simp (maxDischargeDepth := 99) [h]

theorem execAccstore_since {o s : State} {a0} {a1} (h : Since o s) : ∀ {t}, execAccstore a0 a1 s = .next t → Since o t := by
  intro t e
  unfold execAccstore at e
  cases e
  simp (maxDischargeDepth := 99) [h]

theorem execAccload_since {o s : State} {a0} {a1} (h : Since o s) : ∀ {t}, execAccload a0 a1 s = .next t → Since o t := by
  intro t e
  unfold execAccload at e
  cases e
  simp (maxDischargeDepth := 99) [h]

theorem execSsort_since {o s : State} {a0} {a1} (h : Since o s) : ∀ {t}, execSsort a0 a1 s = .next t → Since o t := by
  intro t e
  unfold execSsort at e
  cases e
  simp (maxDischargeDepth := 99) [h]

theorem execSgather_since {o s : State} {a0} {a1} (h : Since o s) : ∀ {t}, execSgather a0 a1 s = .next t → Since o t := by
  intro t e
  unfold execSgather at e
  cases e
  simp (maxDischargeDepth := 99) [h]

theorem execSfilter_since {o s : State} {a0} {a1} (h : Since o s) : ∀ {t}, execSfilter a0 a1 s = .next t → Since o t := by
  intro t e
  unfold execSfilter at e
  cases e
  simp (maxDischargeDepth := 99) [h]

theorem execSminmax_since {o s : State} {a0} {a1} (h : Since o s) : ∀ {t}, execSminmax a0 a1 s = .next t → Since o t := by
  intro t e
  unfold execSminmax at e
  cases e
  simp (maxDischargeDepth := 99) [h]

@[simp] theorem State.deferredAdd_since {o s : State} {a1} {a2} {a3} (h : Since o s) : Since o (State.deferredAdd s a1 a2 a3) := by
  unfold State.deferredAdd
  split <;> simp (maxDischargeDepth := 99) +contextual [h]

theorem execDeferredExactAdd_since {o s : State} {a0} {a1} (h : Since o s) : ∀ {t}, execDeferredExactAdd a0 a1 s = .next t → Since o t := by
  intro t e
  unfold execDeferredExactAdd at e
  cases e
  simp (maxDischargeDepth := 99) [h]

end Sys2Proof.Machine
end

