-- ==== Sys2Proof/Laws/SinceRequests.lean ====
section
/-! SUPPORT. What the operations of `Machine/Requests.lean` keep. -/

namespace Sys2Proof.Machine

set_option linter.unusedSimpArgs false
set_option linter.unusedTactic false
set_option linter.unreachableTactic false
set_option linter.unnecessarySeqFocus false

@[simp] theorem State.hmConfig_since {o s : State} {a1} {a2} {a3} (h : Since o s) : Since o (State.hmConfig s a1 a2 a3).1 := by
  unfold State.hmConfig
  simp (maxDischargeDepth := 99) [h]

@[simp] theorem State.fabRead_since {o s : State} {a1} (h : Since o s) : Since o (State.fabRead s a1).1 := by
  unfold State.fabRead
  (repeat' split) <;> simp (maxDischargeDepth := 99) +contextual [h]

@[simp] theorem State.fabWrite_since {o s : State} {a1} {a2} {a3} (h : Since o s) : Since o (State.fabWrite s a1 a2 a3) := by
  unfold State.fabWrite
  simp only []
  (repeat' split) <;> simp (maxDischargeDepth := 99) +contextual [h]

@[simp] theorem State.execLoad_since {o s : State} {a1} {a2} (h : Since o s) : Since o (State.execLoad s a1 a2).1 := by
  unfold State.execLoad
  (repeat' split) <;> simp (maxDischargeDepth := 99) +contextual [h]

@[simp] theorem State.execStore_since {o s : State} {a1} {a2} {a3} (h : Since o s) : Since o (State.execStore s a1 a2 a3).1 := by
  unfold State.execStore
  split <;> simp (maxDischargeDepth := 99) +contextual [h]

@[simp] theorem State.execAtomic_since {o s : State} {a1} {a2} {a3} {a4} (h : Since o s) : Since o (State.execAtomic s a1 a2 a3 a4).1 := by
  unfold State.execAtomic
  split <;> simp (maxDischargeDepth := 99) +contextual [h]

@[simp] theorem State.execExact_since {o s : State} {a1} {a2} {a3} (h : Since o s) : Since o (State.execExact s a1 a2 a3).1 := by
  unfold State.execExact
  simp (maxDischargeDepth := 99) +contextual [h]

@[simp] theorem State.execSignal_since {o s : State} {a1} (h : Since o s) : Since o (State.execSignal s a1).1 := by
  unfold State.execSignal
  simp (maxDischargeDepth := 99) [h]

@[simp] theorem State.execTrigger_since {o s : State} {a1} (h : Since o s) : Since o (State.execTrigger s a1).1 := by
  unfold State.execTrigger
  simp (maxDischargeDepth := 99) [h]

@[simp] theorem State.putStream_since {o s : State} {a1} {a2} (h : Since o s) : Since o (State.putStream s a1 a2) := by
  unfold State.putStream
  simp (maxDischargeDepth := 99) [h]

@[simp] theorem State.touchStream_since {o s : State} {a1} {a2} {a3} (h : Since o s) : Since o (State.touchStream s a1 a2 a3) := by
  unfold State.touchStream
  try simp only []
  (repeat' split) <;> simp (maxDischargeDepth := 99) +contextual [*, Since.memCtrl (o := o), Since.memTile (o := o)]

@[simp] theorem State.answer_since {o s : State} {a1} {a2} (h : Since o s) : Since o (State.answer s a1 a2) := by
  unfold State.answer
  simp (maxDischargeDepth := 99) [h]

@[simp] theorem State.countReject_since {o s : State} {a1} {a2} {a3} (h : Since o s) : Since o (State.countReject s a1 a2 a3) := by
  unfold State.countReject
  simp (maxDischargeDepth := 99) [h]

@[simp] theorem State.wakeTarget_since {o s : State} {a1} (h : Since o s) : Since o (State.wakeTarget s a1) := by
  unfold State.wakeTarget
  split <;> simp (maxDischargeDepth := 99) +contextual [h]

theorem State.request_since {o s : State} {f : Frame} {op : Nat} {run : State → Bytes → Option (State × Answer)}
    (hr : ∀ s p t, Since o s → run s p = some t → Since o t.1) (h : Since o s) : Since o (s.request f op run) := by
  unfold State.request
  extract_lets p n s1 s2
  have h1 : Since o s1 := State.traceEvent_since h
  have h2 : Since o s2 := by
    unfold s2
    split
    · exact h1
    · exact State.external_since h1
  split
  · exact h
  · split
    · exact State.answer_since (State.countReject_since h2)
    · split
      · exact State.answer_since (State.bump_since h2)
      · exact State.answer_since (State.touchStream_since (State.bump_since h2))
      · exact State.answer_since (State.touchStream_since (State.bump_since h2))
      · split
        · exact h
        · rename_i s3 a hs3
          have h3 := hr _ _ _ (State.wakeTarget_since (State.foreignActivity_since h2)) hs3
          simp (maxDischargeDepth := 99) [h3]

theorem unlessHeld_since {o s : State} {tg : Target} {r t : State × Answer} (h : Since o r.1) (e : unlessHeld s tg r = some t) :
    Since o t.1 := by
  unfold unlessHeld at e
  split at e
  · cases e
  · cases e
    exact h

@[simp] theorem State.requestLoad_since {o s : State} {a1} {a2} (h : Since o s) : Since o (State.requestLoad s a1 a2) := by
  unfold State.requestLoad
  exact State.request_since (fun s p t hs e => unlessHeld_since (by simp (maxDischargeDepth := 99) [hs]) e) h

@[simp] theorem State.requestStore_since {o s : State} {a1} {a2} (h : Since o s) : Since o (State.requestStore s a1 a2) := by
  unfold State.requestStore
  exact State.request_since (fun s p t hs e => unlessHeld_since (by simp (maxDischargeDepth := 99) [hs]) e) h

@[simp] theorem State.requestFetchAdd_since {o s : State} {a1} {a2} (h : Since o s) : Since o (State.requestFetchAdd s a1 a2) := by
  unfold State.requestFetchAdd
  exact State.request_since (fun s p t hs e => unlessHeld_since (by simp (maxDischargeDepth := 99) [hs]) e) h

@[simp] theorem State.requestCas_since {o s : State} {a1} {a2} (h : Since o s) : Since o (State.requestCas s a1 a2) := by
  unfold State.requestCas
  exact State.request_since (fun s p t hs e => unlessHeld_since (by simp (maxDischargeDepth := 99) [hs]) e) h

@[simp] theorem State.requestFp32_since {o s : State} {a1} {a2} (h : Since o s) : Since o (State.requestFp32 s a1 a2) := by
  unfold State.requestFp32
  exact State.request_since (fun s p t hs e => unlessHeld_since (by simp (maxDischargeDepth := 99) [hs]) e) h

@[simp] theorem State.requestExact_since {o s : State} {a1} {a2} {a3} (h : Since o s) : Since o (State.requestExact s a1 a2 a3) := by
  unfold State.requestExact
  refine State.request_since (fun s p t hs e => ?_) h
  simp only [Option.some.injEq] at e
  subst e
  simp [hs]

@[simp] theorem State.requestSignal_since {o s : State} {a1} (h : Since o s) : Since o (State.requestSignal s a1) := by
  unfold State.requestSignal
  refine State.request_since (fun s p t hs e => ?_) h
  simp only [Option.some.injEq] at e
  subst e
  simp [hs]

@[simp] theorem State.requestTrigger_since {o s : State} {a1} (h : Since o s) : Since o (State.requestTrigger s a1) := by
  unfold State.requestTrigger
  refine State.request_since (fun s p t hs e => ?_) h
  simp only [Option.some.injEq] at e
  subst e
  simp [hs]

end Sys2Proof.Machine
end

