-- ==== Sys2Proof/Laws/SinceRemote.lean ====
section
/-! SUPPORT. What the operations of `Machine/Remote.lean` keep. -/

namespace Sys2Proof.Machine

set_option linter.unusedSimpArgs false
set_option linter.unusedTactic false
set_option linter.unreachableTactic false
set_option linter.unnecessarySeqFocus false

@[simp] theorem canRead_it {o : State} {a0} {a1} {a2} : ItSince o (canRead a0 a1 a2) (fun _ => True) := by
  unfold canRead
  repeat' first | exact need_it | exact checkHbmRuns_it | exact itSince_get | exact itSince_throwT | exact itSince_throw | exact itSince_pureT | assumption | apply itSince_bind | intro _ _ | refine itSince_ite ?_ ?_ | refine itSince_pureF (fun _ _ => ?_) | refine itSince_set ?_ | refine itSince_modify (fun _ _ => ?_) | (simp (maxDischargeDepth := 99) +contextual [*, Keeps, Since.memCtrl (o := o), Since.memTile (o := o)]; done) | (simp only [Keeps] at *; simp (maxDischargeDepth := 99) +contextual [*, Since.memCtrl (o := o), Since.memTile (o := o)]; done) | split

@[simp] theorem fabricAt_it {o : State} {a0} {a1} {a2} : ItSince o (fabricAt a0 a1 a2) (fun _ => True) := by
  unfold fabricAt
  exact itSince_bind need_it fun _ _ => itSince_bind need_it fun _ _ => itSince_pureT

@[simp] theorem reqData_it {o : State} {a0} {a1} : ItSince o (reqData a0 a1) (fun _ => True) := by
  unfold reqData
  repeat' first | exact readRuns_it | exact itSince_get | exact itSince_throwT | exact itSince_throw | exact itSince_pureT | assumption | apply itSince_bind | intro _ _ | refine itSince_ite ?_ ?_ | refine itSince_pureF (fun _ _ => ?_) | refine itSince_set ?_ | refine itSince_modify (fun _ _ => ?_) | (simp (maxDischargeDepth := 99) +contextual [*, Keeps, Since.memCtrl (o := o), Since.memTile (o := o)]; done) | (simp only [Keeps] at *; simp (maxDischargeDepth := 99) +contextual [*, Since.memCtrl (o := o), Since.memTile (o := o)]; done) | split

@[simp] theorem sendReq_it {o : State} {a0} {a1} {a2} {a3} {a4} {a5} : ItSince o (sendReq a0 a1 a2 a3 a4 a5) (fun _ => True) := by
  unfold sendReq
  repeat' first | exact itSince_get | exact itSince_throwT | exact itSince_throw | exact itSince_pureT | assumption | apply itSince_bind | intro _ _ | refine itSince_ite ?_ ?_ | refine itSince_pureF (fun _ _ => ?_) | refine itSince_set ?_ | refine itSince_modify (fun _ _ => ?_) | (simp (maxDischargeDepth := 99) +contextual [*, Keeps, Since.memCtrl (o := o), Since.memTile (o := o)]; done) | (simp only [Keeps] at *; simp (maxDischargeDepth := 99) +contextual [*, Since.memCtrl (o := o), Since.memTile (o := o)]; done) | split

@[simp] theorem sendReqs_it {o : State} {e : Run} {q r n : Nat} : ∀ {l : List Req}, ItSince o (sendReqs e q r n l) (fun _ => True)
  | [] => itSince_pureT
  | x :: l => by
    unfold sendReqs
    refine itSince_bind itSince_get fun s _ => ?_
    simp only []
    split
    · exact itSince_bind itSince_throwT fun _ _ => itSince_bind reqData_it fun _ _ => itSince_bind sendReq_it fun _ _ => sendReqs_it
    · exact itSince_bind reqData_it fun _ _ => itSince_bind sendReq_it fun _ _ => sendReqs_it

@[simp] theorem awaitAll_it {o : State} {a0} : ItSince o (awaitAll a0) (fun _ => True) := by
  unfold awaitAll
  repeat' first | exact itSince_get | exact itSince_throwT | exact itSince_throw | exact itSince_pureT | assumption | apply itSince_bind | intro _ _ | refine itSince_ite ?_ ?_ | refine itSince_pureF (fun _ _ => ?_) | refine itSince_set ?_ | refine itSince_modify (fun _ _ => ?_) | (simp (maxDischargeDepth := 99) +contextual [*, Keeps, Since.memCtrl (o := o), Since.memTile (o := o)]; done) | (simp only [Keeps] at *; simp (maxDischargeDepth := 99) +contextual [*, Since.memCtrl (o := o), Since.memTile (o := o)]; done) | split

@[simp] theorem sentSoFar_it {o : State} {a0} : ItSince o (sentSoFar a0) (fun _ => True) := by
  unfold sentSoFar
  repeat' first | exact itSince_get | exact itSince_throwT | exact itSince_throw | exact itSince_pureT | assumption | apply itSince_bind | intro _ _ | refine itSince_ite ?_ ?_ | refine itSince_pureF (fun _ _ => ?_) | refine itSince_set ?_ | refine itSince_modify (fun _ _ => ?_) | (simp (maxDischargeDepth := 99) +contextual [*, Keeps, Since.memCtrl (o := o), Since.memTile (o := o)]; done) | (simp only [Keeps] at *; simp (maxDischargeDepth := 99) +contextual [*, Since.memCtrl (o := o), Since.memTile (o := o)]; done) | split

@[simp] theorem arrivedData_it {o : State} {a0} {a1} : ItSince o (arrivedData a0 a1) (fun _ => True) := by
  unfold arrivedData
  repeat' first | exact itSince_get | exact itSince_throwT | exact itSince_throw | exact itSince_pureT | assumption | apply itSince_bind | intro _ _ | refine itSince_ite ?_ ?_ | refine itSince_pureF (fun _ _ => ?_) | refine itSince_set ?_ | refine itSince_modify (fun _ _ => ?_) | (simp (maxDischargeDepth := 99) +contextual [*, Keeps, Since.memCtrl (o := o), Since.memTile (o := o)]; done) | (simp only [Keeps] at *; simp (maxDischargeDepth := 99) +contextual [*, Since.memCtrl (o := o), Since.memTile (o := o)]; done) | split

@[simp] theorem runReqs_it {o : State} {a0} {a1} {a2} : ItSince o (runReqs a0 a1 a2) (fun _ => True) := by
  unfold runReqs
  repeat' first | exact sentSoFar_it | exact sendReqs_it | exact awaitAll_it | exact itSince_get | exact itSince_throwT | exact itSince_throw | exact itSince_pureT | assumption | apply itSince_bind | intro _ _ | refine itSince_ite ?_ ?_ | refine itSince_pureF (fun _ _ => ?_) | refine itSince_set ?_ | refine itSince_modify (fun _ _ => ?_) | (simp (maxDischargeDepth := 99) +contextual [*, Keeps, Since.memCtrl (o := o), Since.memTile (o := o)]; done) | (simp only [Keeps] at *; simp (maxDischargeDepth := 99) +contextual [*, Since.memCtrl (o := o), Since.memTile (o := o)]; done) | split

@[simp] theorem rloadBody_it {o : State} {a0} : ItSince o (rloadBody a0) (Keeps o) := by
  unfold rloadBody
  exact itSince_bind fabricAt_it fun _ _ => itSince_bind canWrite_it fun _ _ => itSince_bind runReqs_it fun _ _ =>
    itSince_bind arrivedData_it fun _ _ => writeOpnd_it

@[simp] theorem rstoreBody_it {o : State} {a0} : ItSince o (rstoreBody a0) (Keeps o) := by
  unfold rstoreBody
  repeat' first | exact fabricAt_it | exact canRead_it | exact runReqs_it | exact itSince_get | exact itSince_throwT | exact itSince_throw | exact itSince_pureT | assumption | apply itSince_bind | intro _ _ | refine itSince_ite ?_ ?_ | refine itSince_pureF (fun _ _ => ?_) | refine itSince_set ?_ | refine itSince_modify (fun _ _ => ?_) | (simp (maxDischargeDepth := 99) +contextual [*, Keeps, Since.memCtrl (o := o), Since.memTile (o := o)]; done) | (simp only [Keeps] at *; simp (maxDischargeDepth := 99) +contextual [*, Since.memCtrl (o := o), Since.memTile (o := o)]; done) | split

@[simp] theorem atomicArgs_it {o : State} {a0} {a1} : ItSince o (atomicArgs a0 a1) (fun _ => True) := by
  unfold atomicArgs
  repeat' first | exact sentSoFar_it | exact readRuns_it | exact itSince_get | exact itSince_throwT | exact itSince_throw | exact itSince_pureT | assumption | apply itSince_bind | intro _ _ | refine itSince_ite ?_ ?_ | refine itSince_pureF (fun _ _ => ?_) | refine itSince_set ?_ | refine itSince_modify (fun _ _ => ?_) | (simp (maxDischargeDepth := 99) +contextual [*, Keeps, Since.memCtrl (o := o), Since.memTile (o := o)]; done) | (simp only [Keeps] at *; simp (maxDischargeDepth := 99) +contextual [*, Since.memCtrl (o := o), Since.memTile (o := o)]; done) | split

@[simp] theorem canReturn_it {o : State} {a0} : ItSince o (canReturn a0) (fun _ => True) := by
  unfold canReturn
  repeat' first | exact canWrite_it | exact itSince_get | exact itSince_throwT | exact itSince_throw | exact itSince_pureT | assumption | apply itSince_bind | intro _ _ | refine itSince_ite ?_ ?_ | refine itSince_pureF (fun _ _ => ?_) | refine itSince_set ?_ | refine itSince_modify (fun _ _ => ?_) | (simp (maxDischargeDepth := 99) +contextual [*, Keeps, Since.memCtrl (o := o), Since.memTile (o := o)]; done) | (simp only [Keeps] at *; simp (maxDischargeDepth := 99) +contextual [*, Since.memCtrl (o := o), Since.memTile (o := o)]; done) | split

@[simp] theorem returnOld_it {o : State} {a0} {a1} : ItSince o (returnOld a0 a1) (Keeps o) := by
  unfold returnOld
  repeat' first | exact writeAt_it | exact itSince_get | exact itSince_throwT | exact itSince_throw | exact itSince_pureT | assumption | apply itSince_bind | intro _ _ | refine itSince_ite ?_ ?_ | refine itSince_pureF (fun _ _ => ?_) | refine itSince_set ?_ | refine itSince_modify (fun _ _ => ?_) | (simp (maxDischargeDepth := 99) +contextual [*, Keeps, Since.memCtrl (o := o), Since.memTile (o := o)]; done) | (simp only [Keeps] at *; simp (maxDischargeDepth := 99) +contextual [*, Since.memCtrl (o := o), Since.memTile (o := o)]; done) | split

@[simp] theorem atomicBody_it {o : State} {a0} {a1} {a2} : ItSince o (atomicBody a0 a1 a2) (Keeps o) := by
  unfold atomicBody
  exact itSince_bind fabricAt_it fun _ _ => itSince_bind canReturn_it fun _ _ => itSince_bind atomicArgs_it fun _ _ =>
    itSince_bind runReqs_it fun _ _ => itSince_bind arrivedData_it fun _ _ => returnOld_it

@[simp] theorem rfaddBody_it {o : State} {a0} : ItSince o (rfaddBody a0) (Keeps o) := by
  unfold rfaddBody
  repeat' first | exact atomicBody_it | exact itSince_get | exact itSince_throwT | exact itSince_throw | exact itSince_pureT | assumption | apply itSince_bind | intro _ _ | refine itSince_ite ?_ ?_ | refine itSince_pureF (fun _ _ => ?_) | refine itSince_set ?_ | refine itSince_modify (fun _ _ => ?_) | (simp (maxDischargeDepth := 99) +contextual [*, Keeps, Since.memCtrl (o := o), Since.memTile (o := o)]; done) | (simp only [Keeps] at *; simp (maxDischargeDepth := 99) +contextual [*, Since.memCtrl (o := o), Since.memTile (o := o)]; done) | split

@[simp] theorem rcasBody_it {o : State} {a0} : ItSince o (rcasBody a0) (Keeps o) := by
  unfold rcasBody
  repeat' first | exact atomicBody_it | exact itSince_get | exact itSince_throwT | exact itSince_throw | exact itSince_pureT | assumption | apply itSince_bind | intro _ _ | refine itSince_ite ?_ ?_ | refine itSince_pureF (fun _ _ => ?_) | refine itSince_set ?_ | refine itSince_modify (fun _ _ => ?_) | (simp (maxDischargeDepth := 99) +contextual [*, Keeps, Since.memCtrl (o := o), Since.memTile (o := o)]; done) | (simp only [Keeps] at *; simp (maxDischargeDepth := 99) +contextual [*, Since.memCtrl (o := o), Since.memTile (o := o)]; done) | split

@[simp] theorem raccData_it {o : State} {a0} : ItSince o (raccData a0) (fun _ => True) := by
  unfold raccData
  repeat' first | exact readScaled_it | exact readRuns_it | exact itSince_get | exact itSince_throwT | exact itSince_throw | exact itSince_pureT | assumption | apply itSince_bind | intro _ _ | refine itSince_ite ?_ ?_ | refine itSince_pureF (fun _ _ => ?_) | refine itSince_set ?_ | refine itSince_modify (fun _ _ => ?_) | (simp (maxDischargeDepth := 99) +contextual [*, Keeps, Since.memCtrl (o := o), Since.memTile (o := o)]; done) | (simp only [Keeps] at *; simp (maxDischargeDepth := 99) +contextual [*, Since.memCtrl (o := o), Since.memTile (o := o)]; done) | split

@[simp] theorem raccBody_it {o : State} {a0} : ItSince o (raccBody a0) (Keeps o) := by
  unfold raccBody
  repeat' first | exact fabricAt_it | exact need_it | exact sentSoFar_it | exact awaitAll_it | exact raccData_it | exact sendReq_it | exact itSince_get | exact itSince_throwT | exact itSince_throw | exact itSince_pureT | assumption | apply itSince_bind | intro _ _ | refine itSince_ite ?_ ?_ | refine itSince_pureF (fun _ _ => ?_) | refine itSince_set ?_ | refine itSince_modify (fun _ _ => ?_) | (simp (maxDischargeDepth := 99) +contextual [*, Keeps, Since.memCtrl (o := o), Since.memTile (o := o)]; done) | (simp only [Keeps] at *; simp (maxDischargeDepth := 99) +contextual [*, Since.memCtrl (o := o), Since.memTile (o := o)]; done) | split

@[simp] theorem rfpaddBody_it {o : State} {a0} : ItSince o (rfpaddBody a0) (Keeps o) := by
  unfold rfpaddBody
  repeat' first | exact fabricAt_it | exact sentSoFar_it | exact runReqs_it | exact readRuns_it | exact itSince_get | exact itSince_throwT | exact itSince_throw | exact itSince_pureT | assumption | apply itSince_bind | intro _ _ | refine itSince_ite ?_ ?_ | refine itSince_pureF (fun _ _ => ?_) | refine itSince_set ?_ | refine itSince_modify (fun _ _ => ?_) | (simp (maxDischargeDepth := 99) +contextual [*, Keeps, Since.memCtrl (o := o), Since.memTile (o := o)]; done) | (simp only [Keeps] at *; simp (maxDischargeDepth := 99) +contextual [*, Since.memCtrl (o := o), Since.memTile (o := o)]; done) | split

@[simp] theorem triggerBody_it {o : State} {a0} : ItSince o (triggerBody a0) (Keeps o) := by
  unfold triggerBody
  simp only []
  have tail : ItSince o (do
      awaitAll a0
      pure id) (Keeps o) := itSince_bind awaitAll_it fun _ _ => itSince_pureF fun _ hs => hs
  refine itSince_bind need_it fun _ _ => itSince_bind sentSoFar_it fun _ _ => ?_
  split
  · exact itSince_bind readTileRuns_it fun _ _ => itSince_bind itSince_get fun _ _ => itSince_bind sendReq_it fun _ _ => tail
  · exact tail

theorem execRload_since {o s : State} {a0} {a1} (h : Since o s) : ∀ {t}, execRload a0 a1 s = .next t → Since o t := by
  intro t e
  unfold execRload at e
  cases e
  simp (maxDischargeDepth := 99) [h]

theorem execRstore_since {o s : State} {a0} {a1} (h : Since o s) : ∀ {t}, execRstore a0 a1 s = .next t → Since o t := by
  intro t e
  unfold execRstore at e
  cases e
  simp (maxDischargeDepth := 99) [h]

theorem execRfadd_since {o s : State} {a0} {a1} (h : Since o s) : ∀ {t}, execRfadd a0 a1 s = .next t → Since o t := by
  intro t e
  unfold execRfadd at e
  cases e
  simp (maxDischargeDepth := 99) [h]

theorem execRcas_since {o s : State} {a0} {a1} (h : Since o s) : ∀ {t}, execRcas a0 a1 s = .next t → Since o t := by
  intro t e
  unfold execRcas at e
  cases e
  simp (maxDischargeDepth := 99) [h]

theorem execRacc_since {o s : State} {a0} {a1} (h : Since o s) : ∀ {t}, execRacc a0 a1 s = .next t → Since o t := by
  intro t e
  unfold execRacc at e
  cases e
  simp (maxDischargeDepth := 99) [h]

theorem execRfpadd_since {o s : State} {a0} {a1} (h : Since o s) : ∀ {t}, execRfpadd a0 a1 s = .next t → Since o t := by
  intro t e
  unfold execRfpadd at e
  cases e
  simp (maxDischargeDepth := 99) [h]

theorem execTrigger_since {o s : State} {a0} {a1} (h : Since o s) : ∀ {t}, execTrigger a0 a1 s = .next t → Since o t := by
  intro t e
  unfold execTrigger at e
  cases e
  simp (maxDischargeDepth := 99) [h]

@[simp] theorem State.raiseReq_since {o s : State} {a1} {a2} {a3} (h : Since o s) : Since o (State.raiseReq s a1 a2 a3) := by
  unfold State.raiseReq
  split <;> simp (maxDischargeDepth := 99) +contextual [h]

@[simp] theorem State.reload_since {o s : State} {a1} {a2} (h : Since o s) : Since o (State.reload s a1 a2) := by
  unfold State.reload
  simp (maxDischargeDepth := 99) [h]

@[simp] theorem State.bring_since {o s : State} {a1} {a2} {a3} (h : Since o s) : Since o (State.bring s a1 a2 a3) := by
  unfold State.bring
  split <;> simp (maxDischargeDepth := 99) +contextual [h]

@[simp] theorem State.reissue_since {o s : State} {a1} (h : Since o s) : Since o (State.reissue s a1) := by
  unfold State.reissue
  try simp only []
  (repeat' split) <;> simp (maxDischargeDepth := 99) +contextual [*, Since.memCtrl (o := o), Since.memTile (o := o)]

@[simp] theorem State.respond_since {o s : State} {a1} {a2} {a3} (h : Since o s) : Since o (State.respond s a1 a2 a3) := by
  unfold State.respond
  simp only []
  (repeat' split) <;> simp (maxDischargeDepth := 99) +contextual [*, Since.memCtrl (o := o), Since.memTile (o := o)]

theorem execResponseReceive_since {o s : State} {a0} (h : Since o s) : ∀ {t}, execResponseReceive a0 s = .next t → Since o t := by
  intro t e
  unfold execResponseReceive at e
  simp only [] at e
  have h1 : Since o (if a0.src = s.node then s else s.external 1) := by split <;> simp [h]
  generalize (if a0.src = s.node then s else s.external 1) = s1 at h1 e
  split at e
  · injection e with e
    exact e ▸ h
  · split at e
    · injection e with e
      subst e
      simp [h1]
    · split at e
      · injection e with e
        exact e ▸ h1
      · injection e with e
        subst e
        split <;> simp [h1]

theorem execRequestRetry_since {o s : State} {a0} {a1} (h : Since o s) : ∀ {t}, execRequestRetry a0 a1 s = .next t → Since o t := by
  intro t e
  unfold execRequestRetry at e
  (repeat' split at e) <;> (cases e; simp (maxDischargeDepth := 99) +contextual [h, Since.memCtrl (o := o), Since.memTile (o := o)])

theorem execRequestLoad_since {o s : State} {a0} {a1} (h : Since o s) : ∀ {t}, execRequestLoad a0 a1 s = .next t → Since o t := by
  intro t e
  unfold execRequestLoad at e
  cases e
  simp (maxDischargeDepth := 99) [h]

theorem execRequestStore_since {o s : State} {a0} {a1} (h : Since o s) : ∀ {t}, execRequestStore a0 a1 s = .next t → Since o t := by
  intro t e
  unfold execRequestStore at e
  cases e
  simp (maxDischargeDepth := 99) [h]

theorem execRequestFetchAdd_since {o s : State} {a0} {a1} (h : Since o s) : ∀ {t}, execRequestFetchAdd a0 a1 s = .next t → Since o t := by
  intro t e
  unfold execRequestFetchAdd at e
  cases e
  simp (maxDischargeDepth := 99) [h]

theorem execRequestCompareSwap_since {o s : State} {a0} {a1} (h : Since o s) : ∀ {t}, execRequestCompareSwap a0 a1 s = .next t → Since o t := by
  intro t e
  unfold execRequestCompareSwap at e
  cases e
  simp (maxDischargeDepth := 99) [h]

theorem execRequestExactAdd_since {o s : State} {a0} {a1} {a2} (h : Since o s) : ∀ {t}, execRequestExactAdd a0 a1 a2 s = .next t → Since o t := by
  intro t e
  unfold execRequestExactAdd at e
  cases e
  simp (maxDischargeDepth := 99) [h]

theorem execRequestFp32Add_since {o s : State} {a0} {a1} (h : Since o s) : ∀ {t}, execRequestFp32Add a0 a1 s = .next t → Since o t := by
  intro t e
  unfold execRequestFp32Add at e
  cases e
  simp (maxDischargeDepth := 99) [h]

theorem execRequestSignal_since {o s : State} {a0} (h : Since o s) : ∀ {t}, execRequestSignal a0 s = .next t → Since o t := by
  intro t e
  unfold execRequestSignal at e
  cases e
  simp (maxDischargeDepth := 99) [h]

theorem execRequestTrigger_since {o s : State} {a0} (h : Since o s) : ∀ {t}, execRequestTrigger a0 s = .next t → Since o t := by
  intro t e
  unfold execRequestTrigger at e
  cases e
  simp (maxDischargeDepth := 99) [h]

end Sys2Proof.Machine
end

