-- ==== Sys2Proof/Laws/SinceControl.lean ====
section
/-! SUPPORT. What the operations of `Machine/Control.lean` keep. -/

namespace Sys2Proof.Machine

set_option linter.unusedSimpArgs false
set_option linter.unusedTactic false
set_option linter.unreachableTactic false
set_option linter.unnecessarySeqFocus false

@[simp] theorem nopBody_it {o : State} {a0} : ItSince o (nopBody a0) (Keeps o) := by
  unfold nopBody
  repeat' first | exact noEffect_it | exact itSince_get | exact itSince_throwT | exact itSince_throw | exact itSince_pureT | assumption | apply itSince_bind | intro _ _ | refine itSince_ite ?_ ?_ | refine itSince_pureF (fun _ _ => ?_) | refine itSince_set ?_ | refine itSince_modify (fun _ _ => ?_) | (simp (maxDischargeDepth := 99) +contextual [*, Keeps, Since.memCtrl (o := o), Since.memTile (o := o)]; done) | (simp only [Keeps] at *; simp (maxDischargeDepth := 99) +contextual [*, Since.memCtrl (o := o), Since.memTile (o := o)]; done) | split

@[simp] theorem selectorBody_it {o : State} {a0} : ItSince o (selectorBody a0) (Keeps o) := by
  unfold selectorBody
  dsimp only
  repeat' first | exact fail_itT | exact fail_it | exact itSince_get | exact itSince_throwT | exact itSince_throw | exact itSince_pureT | assumption | apply itSince_bind | intro _ _ | refine itSince_ite ?_ ?_ | refine itSince_pureF (fun _ _ => ?_) | refine itSince_set ?_ | refine itSince_modify (fun _ _ => ?_) | (simp (maxDischargeDepth := 99) +contextual [*, Keeps, Since.memCtrl (o := o), Since.memTile (o := o)]; done) | (simp only [Keeps] at *; simp (maxDischargeDepth := 99) +contextual [*, Since.memCtrl (o := o), Since.memTile (o := o)]; done) | split

@[simp] theorem setmodeBody_it {o : State} {a0} : ItSince o (setmodeBody a0) (Keeps o) := by
  unfold setmodeBody
  repeat' first | exact itSince_get | exact itSince_throwT | exact itSince_throw | exact itSince_pureT | assumption | apply itSince_bind | intro _ _ | refine itSince_ite ?_ ?_ | refine itSince_pureF (fun _ _ => ?_) | refine itSince_set ?_ | refine itSince_modify (fun _ _ => ?_) | (simp (maxDischargeDepth := 99) +contextual [*, Keeps, Since.memCtrl (o := o), Since.memTile (o := o)]; done) | (simp only [Keeps] at *; simp (maxDischargeDepth := 99) +contextual [*, Since.memCtrl (o := o), Since.memTile (o := o)]; done) | split

@[simp] theorem cmpsetBody_it {o : State} {a0} : ItSince o (cmpsetBody a0) (Keeps o) := by
  unfold cmpsetBody
  repeat' first | exact itSince_get | exact itSince_throwT | exact itSince_throw | exact itSince_pureT | assumption | apply itSince_bind | intro _ _ | refine itSince_ite ?_ ?_ | refine itSince_pureF (fun _ _ => ?_) | refine itSince_set ?_ | refine itSince_modify (fun _ _ => ?_) | (simp (maxDischargeDepth := 99) +contextual [*, Keeps, Since.memCtrl (o := o), Since.memTile (o := o)]; done) | (simp only [Keeps] at *; simp (maxDischargeDepth := 99) +contextual [*, Since.memCtrl (o := o), Since.memTile (o := o)]; done) | split

@[simp] theorem cntsetBody_it {o : State} {a0} : ItSince o (cntsetBody a0) (Keeps o) := by
  unfold cntsetBody
  repeat' first | exact itSince_get | exact itSince_throwT | exact itSince_throw | exact itSince_pureT | assumption | apply itSince_bind | intro _ _ | refine itSince_ite ?_ ?_ | refine itSince_pureF (fun _ _ => ?_) | refine itSince_set ?_ | refine itSince_modify (fun _ _ => ?_) | (simp (maxDischargeDepth := 99) +contextual [*, Keeps, Since.memCtrl (o := o), Since.memTile (o := o)]; done) | (simp only [Keeps] at *; simp (maxDischargeDepth := 99) +contextual [*, Since.memCtrl (o := o), Since.memTile (o := o)]; done) | split

@[simp] theorem periodicBody_it {o : State} {a0} : ItSince o (periodicBody a0) (Keeps o) := by
  unfold periodicBody
  repeat' first | exact itSince_get | exact itSince_throwT | exact itSince_throw | exact itSince_pureT | assumption | apply itSince_bind | intro _ _ | refine itSince_ite ?_ ?_ | refine itSince_pureF (fun _ _ => ?_) | refine itSince_set ?_ | refine itSince_modify (fun _ _ => ?_) | (simp (maxDischargeDepth := 99) +contextual [*, Keeps, Since.memCtrl (o := o), Since.memTile (o := o)]; done) | (simp only [Keeps] at *; simp (maxDischargeDepth := 99) +contextual [*, Since.memCtrl (o := o), Since.memTile (o := o)]; done) | split

theorem execNop_since {o s : State} {a0} {a1} (h : Since o s) : ∀ {t}, execNop a0 a1 s = .next t → Since o t := by
  intro t e
  unfold execNop at e
  cases e
  simp (maxDischargeDepth := 99) [h]

theorem execSelect_since {o s : State} {a0} {a1} (h : Since o s) : ∀ {t}, execSelect a0 a1 s = .next t → Since o t := by
  intro t e
  unfold execSelect at e
  cases e
  simp (maxDischargeDepth := 99) [h]

theorem execSetmode_since {o s : State} {a0} {a1} (h : Since o s) : ∀ {t}, execSetmode a0 a1 s = .next t → Since o t := by
  intro t e
  unfold execSetmode at e
  cases e
  simp (maxDischargeDepth := 99) [h]

theorem execCmpset_since {o s : State} {a0} {a1} (h : Since o s) : ∀ {t}, execCmpset a0 a1 s = .next t → Since o t := by
  intro t e
  unfold execCmpset at e
  cases e
  simp (maxDischargeDepth := 99) [h]

theorem execCntset_since {o s : State} {a0} {a1} (h : Since o s) : ∀ {t}, execCntset a0 a1 s = .next t → Since o t := by
  intro t e
  unfold execCntset at e
  cases e
  simp (maxDischargeDepth := 99) [h]

theorem execPeriodic_since {o s : State} {a0} {a1} (h : Since o s) : ∀ {t}, execPeriodic a0 a1 s = .next t → Since o t := by
  intro t e
  unfold execPeriodic at e
  cases e
  simp (maxDischargeDepth := 99) [h]

theorem execAllred_since {o s : State} {a0} {a1} (h : Since o s) : ∀ {t}, execAllred a0 a1 s = .next t → Since o t := by
  intro t e
  unfold execAllred at e
  cases e
  simp (maxDischargeDepth := 99) [h]

theorem execRedscat_since {o s : State} {a0} {a1} (h : Since o s) : ∀ {t}, execRedscat a0 a1 s = .next t → Since o t := by
  intro t e
  unfold execRedscat at e
  cases e
  simp (maxDischargeDepth := 99) [h]

theorem execAllgath_since {o s : State} {a0} {a1} (h : Since o s) : ∀ {t}, execAllgath a0 a1 s = .next t → Since o t := by
  intro t e
  unfold execAllgath at e
  cases e
  simp (maxDischargeDepth := 99) [h]

theorem execBcast_since {o s : State} {a0} {a1} (h : Since o s) : ∀ {t}, execBcast a0 a1 s = .next t → Since o t := by
  intro t e
  unfold execBcast at e
  cases e
  simp (maxDischargeDepth := 99) [h]

theorem execBarrier_since {o s : State} {a0} {a1} (h : Since o s) : ∀ {t}, execBarrier a0 a1 s = .next t → Since o t := by
  intro t e
  unfold execBarrier at e
  cases e
  simp (maxDischargeDepth := 99) [h]

theorem execAlltoall_since {o s : State} {a0} {a1} (h : Since o s) : ∀ {t}, execAlltoall a0 a1 s = .next t → Since o t := by
  intro t e
  unfold execAlltoall at e
  cases e
  simp (maxDischargeDepth := 99) [h]

theorem execAlltoallv_since {o s : State} {a0} {a1} (h : Since o s) : ∀ {t}, execAlltoallv a0 a1 s = .next t → Since o t := by
  intro t e
  unfold execAlltoallv at e
  cases e
  simp (maxDischargeDepth := 99) [h]

theorem execSortmerge_since {o s : State} {a0} {a1} (h : Since o s) : ∀ {t}, execSortmerge a0 a1 s = .next t → Since o t := by
  intro t e
  unfold execSortmerge at e
  cases e
  simp (maxDischargeDepth := 99) [h]

theorem execFiltcomp_since {o s : State} {a0} {a1} (h : Since o s) : ∀ {t}, execFiltcomp a0 a1 s = .next t → Since o t := by
  intro t e
  unfold execFiltcomp at e
  cases e
  simp (maxDischargeDepth := 99) [h]

theorem execParenc_since {o s : State} {a0} {a1} (h : Since o s) : ∀ {t}, execParenc a0 a1 s = .next t → Since o t := by
  intro t e
  unfold execParenc at e
  cases e
  simp (maxDischargeDepth := 99) [h]

theorem execParreb_since {o s : State} {a0} {a1} (h : Since o s) : ∀ {t}, execParreb a0 a1 s = .next t → Since o t := by
  intro t e
  unfold execParreb at e
  cases e
  simp (maxDischargeDepth := 99) [h]

@[simp] theorem bodyOf_it {o : State} {a0} {a1} {a2} : ItSince o (bodyOf a0 a1 a2) (Keeps o) := by
  unfold bodyOf
  split <;> first | simp | (split <;> simp)

@[simp] theorem State.loopIteration_since {o s : State} {a1} {a2} {a3} (h : Since o s) : Since o (State.loopIteration s a1 a2 a3) := by
  unfold State.loopIteration
  simp only []
  (repeat' split) <;> simp (maxDischargeDepth := 99) [h]

theorem execLoopIteration_since {o s : State} {a0} {a1} {a2} (h : Since o s) : ∀ {t}, execLoopIteration a0 a1 a2 s = .next t → Since o t := by
  intro t e
  unfold execLoopIteration at e
  cases e
  simp (maxDischargeDepth := 99) [h]

end Sys2Proof.Machine
end

