-- ==== Sys2Proof/Laws/SinceSequencer.lean ====
section
/-! SUPPORT. What the operations of `Machine/Sequencer.lean` keep. -/

namespace Sys2Proof.Machine

set_option linter.unusedSimpArgs false
set_option linter.unusedTactic false
set_option linter.unreachableTactic false
set_option linter.unnecessarySeqFocus false

@[simp] theorem State.fetchBytes_since {o s : State} {a1} {a2} {a3} (h : Since o s) : Since o (State.fetchBytes s a1 a2 a3).1 := by
  unfold State.fetchBytes
  (repeat' split) <;> simp (maxDischargeDepth := 99) +contextual [h]

@[simp] theorem State.fetchCurrent_since {o s : State} {a1} {a2} (h : Since o s) : Since o (State.fetchCurrent s a1 a2) := by
  unfold State.fetchCurrent
  simp only []
  (repeat' split) <;> simp (maxDischargeDepth := 99) +contextual [*, Since.memCtrl (o := o), Since.memTile (o := o)]

@[simp] theorem State.fetchSucc_since {o s : State} {a1} {a2} {a3} {a4} (h : Since o s) : Since o (State.fetchSucc s a1 a2 a3 a4) := by
  unfold State.fetchSucc
  simp only []
  (repeat' split) <;> simp (maxDischargeDepth := 99) +contextual [*, Since.memCtrl (o := o), Since.memTile (o := o)]

theorem execDescriptorFetch_since {o s : State} {a0} {a1} {a2} {a3} (h : Since o s) : ∀ {t}, execDescriptorFetch a0 a1 a2 a3 s = .next t → Since o t := by
  intro t e
  unfold execDescriptorFetch at e
  try simp only [] at e
  repeat' split at e
  all_goals
    injection e with e
    subst e
    simp (maxDischargeDepth := 99) +contextual [h, Since.memCtrl (o := o), Since.memTile (o := o)]

theorem execDescriptorIssue_since {o s : State} {a0} (h : Since o s) : ∀ {t}, execDescriptorIssue a0 s = .next t → Since o t := by
  intro t e
  unfold execDescriptorIssue at e
  cases e
  simp (maxDischargeDepth := 99) [h]

theorem execDescriptorComplete_since {o s : State} {a0} {a1} (h : Since o s) : ∀ {t}, execDescriptorComplete a0 a1 s = .next t → Since o t := by
  intro t e
  unfold execDescriptorComplete at e
  cases e
  simp (maxDischargeDepth := 99) [h]

theorem execSelectResolve_since {o s : State} {a0} {a1} (h : Since o s) : ∀ {t}, execSelectResolve a0 a1 s = .next t → Since o t := by
  intro t e
  unfold execSelectResolve at e
  cases e
  simp (maxDischargeDepth := 99) [h]

@[simp] theorem State.startIn_since {o s : State} {a1} {a2} {a3} {a4} {a5} {a6} {a7} (h : Since o s) : Since o (State.startIn s a1 a2 a3 a4 a5 a6 a7) := by
  unfold State.startIn
  simp (maxDischargeDepth := 99) [h]

theorem execGraphStart_since {o s : State} {a0} (h : Since o s) : ∀ {t}, execGraphStart a0 s = .next t → Since o t := by
  intro t e
  unfold execGraphStart at e
  try simp only [] at e
  repeat' split at e
  all_goals
    injection e with e
    subst e
    simp (maxDischargeDepth := 99) +contextual [h, Since.memCtrl (o := o), Since.memTile (o := o)]

theorem execPeriodicStart_since {o s : State} {a0} {a1} (h : Since o s) : ∀ {t}, execPeriodicStart a0 a1 s = .next t → Since o t := by
  intro t e
  unfold execPeriodicStart at e
  try simp only [] at e
  repeat' split at e
  all_goals
    injection e with e
    subst e
    simp (maxDischargeDepth := 99) +contextual [h, Since.memCtrl (o := o), Since.memTile (o := o)]

theorem execLateStart_since {o s : State} {a0} {a1} (h : Since o s) : ∀ {t}, execLateStart a0 a1 s = .next t → Since o t := by
  intro t e
  unfold execLateStart at e
  try simp only [] at e
  repeat' split at e
  all_goals
    injection e with e
    subst e
    simp (maxDischargeDepth := 99) +contextual [h, Since.memCtrl (o := o), Since.memTile (o := o)]

theorem execHandlerStart_since {o s : State} {a0} (h : Since o s) : ∀ {t}, execHandlerStart a0 s = .next t → Since o t := by
  intro t e
  unfold execHandlerStart at e
  try simp only [] at e
  repeat' split at e
  all_goals
    injection e with e
    subst e
    simp (maxDischargeDepth := 99) +contextual [h, Since.memCtrl (o := o), Since.memTile (o := o)]

@[simp] theorem State.stopCtx_since {o s : State} {a1} {a2} (h : Since o s) : Since o (State.stopCtx s a1 a2) := by
  unfold State.stopCtx
  simp only []
  (repeat' split) <;> simp (maxDischargeDepth := 99) +contextual [*, Since.memCtrl (o := o), Since.memTile (o := o)]

@[simp] theorem State.stopTile_since {o s : State} {a1} (h : Since o s) : Since o (State.stopTile s a1) := by
  unfold State.stopTile
  simp (maxDischargeDepth := 99) +contextual [h]

theorem execStop_since {o s : State} {a0} {a1} (h : Since o s) : ∀ {t}, execStop a0 a1 s = .next t → Since o t := by
  intro t e
  unfold execStop at e
  cases e
  simp (maxDischargeDepth := 99) +contextual [h]

@[simp] theorem State.cntAccess_since {o s : State} {a1} {a2} {a3} {a4} (h : Since o s) : Since o (State.cntAccess s a1 a2 a3 a4) := by
  unfold State.cntAccess
  split <;> simp (maxDischargeDepth := 99) +contextual [h]

theorem execDscCntSelect_since {o s : State} {a0} {a1} {a2} {a3} (h : Since o s) : ∀ {t}, execDscCntSelect a0 a1 a2 a3 s = .next t → Since o t := by
  intro t e
  unfold execDscCntSelect at e
  cases e
  simp (maxDischargeDepth := 99) +contextual [h]

theorem execDscCntAdd_since {o s : State} {a0} {a1} {a2} {a3} (h : Since o s) : ∀ {t}, execDscCntAdd a0 a1 a2 a3 s = .next t → Since o t := by
  intro t e
  unfold execDscCntAdd at e
  cases e
  simp (maxDischargeDepth := 99) +contextual [h]

theorem execDscCntSet_since {o s : State} {a0} {a1} {a2} {a3} (h : Since o s) : ∀ {t}, execDscCntSet a0 a1 a2 a3 s = .next t → Since o t := by
  intro t e
  unfold execDscCntSet at e
  cases e
  simp (maxDischargeDepth := 99) +contextual [h]

end Sys2Proof.Machine
end

