-- ==== Sys2Proof/Laws/SinceLattice.lean ====
section
/-! SUPPORT. What the operations of `Machine/Lattice.lean` keep. -/

namespace Sys2Proof.Machine

set_option linter.unusedSimpArgs false
set_option linter.unusedTactic false
set_option linter.unreachableTactic false
set_option linter.unnecessarySeqFocus false

@[simp] theorem State.latIn_since {o s : State} {a1} {a2} {a3} (h : Since o s) : Since o (State.latIn s a1 a2 a3).1 := by
  unfold State.latIn
  (repeat' split) <;> simp (maxDischargeDepth := 99) +contextual [h]

@[simp] theorem State.edgeFenced_since {o s : State} {a1} {a2} {a3} (h : Since o s) : Since o (State.edgeFenced s a1 a2 a3) := by
  unfold State.edgeFenced
  split <;> simp (maxDischargeDepth := 99) +contextual [h]

@[simp] theorem State.latOut_since {o s : State} {a1} {a2} {a3} {a4} (h : Since o s) : Since o (State.latOut s a1 a2 a3 a4).1 := by
  unfold State.latOut
  simp (maxDischargeDepth := 99) [h]

@[simp] theorem State.latInject_since {o s : State} {a1} {a2} {a3} {a4} (h : Since o s) : Since o (State.latInject s a1 a2 a3 a4).1 := by
  unfold State.latInject
  simp (maxDischargeDepth := 99) [h]

@[simp] theorem State.latSend_since {o s : State} {a1} {a2} {a3} {a4} (h : Since o s) : Since o (State.latSend s a1 a2 a3 a4).1 := by
  unfold State.latSend
  have key : ∀ (l : List Nat) {r : State × List Sent}, Since o r.1 → Since o (l.foldl (fun (r : State × List Sent) side =>
      match (r.1.latOut a1 (a4 side) a2 a3).2, latNext a1 side with
      | some b, some m => ((r.1.latOut a1 (a4 side) a2 a3).1, r.2 ++ [((r.1.latOut a1 (a4 side) a2 a3).1.phys m, ⟨facing side, hopWait a1 m, b⟩)])
      | _, _ => ((r.1.latOut a1 (a4 side) a2 a3).1, r.2)) r).1 := by
    intro l
    induction l with
    | nil => exact fun h => h
    | cons side l ih =>
      intro r hr
      refine ih ?_
      beta_reduce
      split <;> exact State.latOut_since hr
  exact key _ h

@[simp] theorem State.latConsume_since {o s : State} {a1} {a2} {a3} {a4} (h : Since o s) : Since o (State.latConsume s a1 a2 a3 a4) := by
  unfold State.latConsume
  simp (maxDischargeDepth := 99) [h]

@[simp] theorem State.latTile_since {o s : State} {a1} (h : Since o s) : Since o (State.latTile s a1).1 := by
  unfold State.latTile
  simp (maxDischargeDepth := 99) [h]

@[simp] theorem State.latticeSlot_since {o s : State} {a1} (h : Since o s) : Since o (State.latticeSlot s a1) := by
  unfold State.latticeSlot
  simp (maxDischargeDepth := 99) +contextual [h]

theorem execLatticeSlot_since {o s : State} {a0} (h : Since o s) : ∀ {t}, execLatticeSlot a0 s = .next t → Since o t := by
  intro t e
  unfold execLatticeSlot at e
  cases e
  simp (maxDischargeDepth := 99) [h]

end Sys2Proof.Machine
end

