-- ==== Sys2Proof/Laws/SinceRouting.lean ====
section
/-! SUPPORT. What the operations of `Machine/Routing.lean` keep. -/

namespace Sys2Proof.Machine

set_option linter.unusedSimpArgs false
set_option linter.unusedTactic false
set_option linter.unreachableTactic false
set_option linter.unnecessarySeqFocus false

@[simp] theorem State.tablesTake_since {o s : State} {a1} (h : Since o s) : Since o (State.tablesTake s a1) := by
  have e1 : pdReg a1 0x200000 + 0x80000 = pdReg a1 0x280000 := by simp only [pdReg, Nat.add_assoc]
  have e2 : pdReg a1 0x280000 + 0x80000 = pdReg a1 0x300000 := by simp only [pdReg, Nat.add_assoc]
  unfold State.tablesTake
  generalize pdReg a1 0x200000 = lo at e1 ⊢
  generalize pdReg a1 0x280000 = act at e1 e2 ⊢
  generalize pdReg a1 0x300000 = hi at e2 ⊢
  subst e1
  subst e2
  refine State.withRegs_since h ?_
  rw [List.append_assoc]
  have h2 := keysFrom_shift 0x80000 (keysFrom_from lo (keysFrom_filter (fun p => decide (p.1 < lo + 0x80000)) h.regsOrd))
  refine keysFrom_append (b := lo + 0x80000) (keysFrom_append (keysFrom_from _ h.regsOrd) (by omega) ?_ ?_) (Nat.zero_le _)
    (keysFrom_filter _ h.regsOrd) ?_
  · simpa [List.filter_filter] using h2
  · intro p hp
    obtain ⟨q, hq, rfl⟩ := List.mem_map.1 hp
    have := (List.mem_filter.1 hq).2
    simp only [Bool.and_eq_true, decide_eq_true_eq] at this
    simp only []
    omega
  · intro p hp
    exact of_decide_eq_true (List.mem_filter.1 hp).2

@[simp] theorem State.reclassify_since {o s : State} {a1} {a2} (h : Since o s) : Since o (State.reclassify s a1 a2) := by
  unfold State.reclassify
  simp only []
  (repeat' split) <;> simp (maxDischargeDepth := 99) +contextual [*, Since.memCtrl (o := o), Since.memTile (o := o)]

@[simp] theorem State.unpark_since {o s : State} {a1} {a2} (h : Since o s) : Since o (State.unpark s a1 a2).1 := by
  unfold State.unpark
  simp (maxDischargeDepth := 99) [h]

@[simp] theorem State.unparkAll_since {o s : State} {a1} {a2} (h : Since o s) : Since o (State.unparkAll s a1 a2) := by
  unfold State.unparkAll
  simp (maxDischargeDepth := 99) +contextual [h]

@[simp] theorem State.drainWrite_since {o s : State} {a1} {a2} (h : Since o s) : Since o (State.drainWrite s a1 a2) := by
  unfold State.drainWrite
  simp (maxDischargeDepth := 99) +contextual [h]

theorem execRteDrain_since {o s : State} {a0} {a1} {a2} (h : Since o s) : ∀ {t}, execRteDrain a0 a1 a2 s = .next t → Since o t := by
  intro t e
  unfold execRteDrain at e
  try simp only [] at e
  repeat' split at e
  all_goals
    injection e with e
    subst e
    simp (maxDischargeDepth := 99) +contextual [h, Since.memCtrl (o := o), Since.memTile (o := o)]

@[simp] theorem State.routeArm_since {o s : State} {a1} (h : Since o s) : Since o (State.routeArm s a1) := by
  unfold State.routeArm
  simp (maxDischargeDepth := 99) [h]

@[simp] theorem State.routeCancel_since {o s : State} {a1} (h : Since o s) : Since o (State.routeCancel s a1) := by
  unfold State.routeCancel
  simp (maxDischargeDepth := 99) [h]

@[simp] theorem State.drainsEnd_since {o s : State} {a1} (h : Since o s) : Since o (State.drainsEnd s a1) := by
  unfold State.drainsEnd
  simp (maxDischargeDepth := 99) +contextual [h]

@[simp] theorem State.routeLatch_since {o s : State} {a1} (h : Since o s) : Since o (State.routeLatch s a1) := by
  unfold State.routeLatch
  simp (maxDischargeDepth := 99) [h]

theorem execRouteArm_since {o s : State} {a0} {a1} (h : Since o s) : ∀ {t}, execRouteArm a0 a1 s = .next t → Since o t := by
  intro t e
  unfold execRouteArm at e
  cases e
  simp (maxDischargeDepth := 99) [h]

theorem execRouteCancel_since {o s : State} {a0} {a1} (h : Since o s) : ∀ {t}, execRouteCancel a0 a1 s = .next t → Since o t := by
  intro t e
  unfold execRouteCancel at e
  cases e
  simp (maxDischargeDepth := 99) [h]

theorem execRouteLatch_since {o s : State} {a0} (h : Since o s) : ∀ {t}, execRouteLatch a0 s = .next t → Since o t := by
  intro t e
  unfold execRouteLatch at e
  cases e
  simp (maxDischargeDepth := 99) [h]

end Sys2Proof.Machine
end

