-- ==== Sys2Proof/Laws/SinceSchedule.lean ====
section
/-! SUPPORT. What the operations of `Machine/Schedule.lean` keep. -/

namespace Sys2Proof.Machine

set_option linter.unusedSimpArgs false
set_option linter.unusedTactic false
set_option linter.unreachableTactic false
set_option linter.unnecessarySeqFocus false

theorem execCellSlot_since {o s : State} {a0} (h : Since o s) : ∀ {t}, execCellSlot a0 s = .next t → Since o t := by
  intro t e
  unfold execCellSlot at e
  cases e
  simp (maxDischargeDepth := 99) [h]

@[simp] theorem State.armList_since {o s : State} {a1} {a2} (h : Since o s) : Since o (State.armList s a1 a2) := by
  unfold State.armList
  simp (maxDischargeDepth := 99) [h]

@[simp] theorem State.shutterArm_since {o s : State} {a1} {a2} (h : Since o s) : Since o (State.shutterArm s a1 a2) := by
  unfold State.shutterArm
  simp (maxDischargeDepth := 99) [h]

@[simp] theorem State.shutterCancel_since {o s : State} {a1} (h : Since o s) : Since o (State.shutterCancel s a1) := by
  unfold State.shutterCancel
  simp (maxDischargeDepth := 99) [h]

@[simp] theorem State.shutterTakeover_since {o s : State} {a1} (h : Since o s) : Since o (State.shutterTakeover s a1) := by
  unfold State.shutterTakeover
  simp (maxDischargeDepth := 99) +contextual [h]

theorem execShutterArm_since {o s : State} {a0} {a1} (h : Since o s) : ∀ {t}, execShutterArm a0 a1 s = .next t → Since o t := by
  intro t e
  unfold execShutterArm at e
  cases e
  simp (maxDischargeDepth := 99) [h]

theorem execShutterCancel_since {o s : State} {a0} {a1} (h : Since o s) : ∀ {t}, execShutterCancel a0 a1 s = .next t → Since o t := by
  intro t e
  unfold execShutterCancel at e
  cases e
  simp (maxDischargeDepth := 99) [h]

theorem execShutterTakeover_since {o s : State} {a0} (h : Since o s) : ∀ {t}, execShutterTakeover a0 s = .next t → Since o t := by
  intro t e
  unfold execShutterTakeover at e
  cases e
  simp (maxDischargeDepth := 99) [h]

theorem execShutterEntry_since {o s : State} {a0} (h : Since o s) : ∀ {t}, execShutterEntry a0 s = .next t → Since o t := by
  intro t e
  unfold execShutterEntry at e
  cases e
  simp (maxDischargeDepth := 99) [h]

@[simp] theorem State.bucketWrite_since {o s : State} {a1} {a2} {a3} {a4} {a5} (h : Since o s) : Since o (State.bucketWrite s a1 a2 a3 a4 a5) := by
  unfold State.bucketWrite
  simp (maxDischargeDepth := 99) [h]

theorem execBucketConfigWrite_since {o s : State} {a0} {a1} {a2} {a3} {a4} (h : Since o s) : ∀ {t}, execBucketConfigWrite a0 a1 a2 a3 a4 s = .next t → Since o t := by
  intro t e
  unfold execBucketConfigWrite at e
  cases e
  simp (maxDischargeDepth := 99) [h]

@[simp] theorem State.ftmStep_since {o s : State} {a1} {a2} (h : Since o s) : Since o (State.ftmStep s a1 a2) := by
  unfold State.ftmStep
  simp (maxDischargeDepth := 99) [h]

theorem execFtmStep_since {o s : State} {a0} {a1} (h : Since o s) : ∀ {t}, execFtmStep a0 a1 s = .next t → Since o t := by
  intro t e
  unfold execFtmStep at e
  cases e
  simp (maxDischargeDepth := 99) [h]

@[simp] theorem State.obsOne_since {o s : State} {a1} {a2} (h : Since o s) : Since o (State.obsOne s a1 a2) := by
  unfold State.obsOne
  simp (maxDischargeDepth := 99) [h]

@[simp] theorem State.obsSample_since {o s : State} {a1} (h : Since o s) : Since o (State.obsSample s a1) := by
  unfold State.obsSample
  simp (maxDischargeDepth := 99) +contextual [h]

theorem execObsSample_since {o s : State} {a0} (h : Since o s) : ∀ {t}, execObsSample a0 s = .next t → Since o t := by
  intro t e
  unfold execObsSample at e
  try simp only [] at e
  repeat' split at e
  all_goals
    injection e with e
    subst e
    simp (maxDischargeDepth := 99) +contextual [h, Since.memCtrl (o := o), Since.memTile (o := o)]

@[simp] theorem State.obsClear_since {o s : State} {a1} (h : Since o s) : Since o (State.obsClear s a1) := by
  unfold State.obsClear
  simp (maxDischargeDepth := 99) [h]

theorem execSchObsClear_since {o s : State} {a0} {a1} (h : Since o s) : ∀ {t}, execSchObsClear a0 a1 s = .next t → Since o t := by
  intro t e
  unfold execSchObsClear at e
  cases e
  simp (maxDischargeDepth := 99) [h]

end Sys2Proof.Machine
end

