-- ==== Sys2Proof/Laws/SinceSwitching.lean ====
section
/-! SUPPORT. What the operations of `Machine/Switching.lean` keep. -/

namespace Sys2Proof.Machine

set_option linter.unusedSimpArgs false
set_option linter.unusedTactic false
set_option linter.unreachableTactic false
set_option linter.unnecessarySeqFocus false

theorem execFrameArrival_since {o s : State} {a0} {a1} {a2} (h : Since o s) : ∀ {t}, execFrameArrival a0 a1 a2 s = .next t → Since o t := by
  intro t e
  unfold execFrameArrival at e
  cases e
  simp (maxDischargeDepth := 99) [h]

theorem execLocalDelivery_since {o s : State} {a0} {a1} (h : Since o s) : ∀ {t}, execLocalDelivery a0 a1 s = .next t → Since o t := by
  intro t e
  unfold execLocalDelivery at e
  cases e
  simp (maxDischargeDepth := 99) [h]

theorem execMeshFlitForward_since {o s : State} {a0} {a1} (h : Since o s) : ∀ {t}, execMeshFlitForward a0 a1 s = .next t → Since o t := by
  intro t e
  unfold execMeshFlitForward at e
  cases e
  simp (maxDischargeDepth := 99) [h]

@[simp] theorem State.echoReceive_since {o s : State} {a1} {a2} (h : Since o s) : Since o (State.echoReceive s a1 a2) := by
  unfold State.echoReceive
  (repeat' split) <;> simp (maxDischargeDepth := 99) +contextual [h]

theorem execEchoReceive_since {o s : State} {a0} {a1} (h : Since o s) : ∀ {t}, execEchoReceive a0 a1 s = .next t → Since o t := by
  intro t e
  unfold execEchoReceive at e
  cases e
  simp (maxDischargeDepth := 99) [h]

@[simp] theorem State.rateIncrease_since {o s : State} {a1} (h : Since o s) : Since o (State.rateIncrease s a1) := by
  unfold State.rateIncrease
  simp (maxDischargeDepth := 99) [h]

theorem execRateIncrease_since {o s : State} {a0} (h : Since o s) : ∀ {t}, execRateIncrease a0 s = .next t → Since o t := by
  intro t e
  unfold execRateIncrease at e
  cases e
  simp (maxDischargeDepth := 99) [h]

@[simp] theorem State.flowRefresh_since {o s : State} {a1} (h : Since o s) : Since o (State.flowRefresh s a1) := by
  unfold State.flowRefresh
  simp (maxDischargeDepth := 99) [h]

theorem execPauseRefresh_since {o s : State} {a0} (h : Since o s) : ∀ {t}, execPauseRefresh a0 s = .next t → Since o t := by
  intro t e
  unfold execPauseRefresh at e
  cases e
  simp (maxDischargeDepth := 99) [h]

theorem execHoldRefresh_since {o s : State} {a0} (h : Since o s) : ∀ {t}, execHoldRefresh a0 s = .next t → Since o t := by
  intro t e
  unfold execHoldRefresh at e
  cases e
  simp (maxDischargeDepth := 99) [h]

@[simp] theorem State.sampleCtrlWrite_since {o s : State} {a1} {a2} {a3} (h : Since o s) : Since o (State.sampleCtrlWrite s a1 a2 a3) := by
  unfold State.sampleCtrlWrite
  simp (maxDischargeDepth := 99) [h]

theorem execSampleCtrlWrite_since {o s : State} {a0} {a1} {a2} (h : Since o s) : ∀ {t}, execSampleCtrlWrite a0 a1 a2 s = .next t → Since o t := by
  intro t e
  unfold execSampleCtrlWrite at e
  cases e
  simp (maxDischargeDepth := 99) [h]

@[simp] theorem State.zeroHbm_since {o s : State} {a1} {a2} {a3} (h : Since o s) : Since o (State.zeroHbm s a1 a2 a3) := by
  unfold State.zeroHbm
  simp (maxDischargeDepth := 99) +contextual [h]

@[simp] theorem State.hmZeroed_since {o s : State} {a1} (h : Since o s) : Since o (State.hmZeroed s a1) := by
  unfold State.hmZeroed
  split <;> simp (maxDischargeDepth := 99) +contextual [h]

@[simp] theorem State.pkZeroed_since {o s : State} {a1} (h : Since o s) : Since o (State.pkZeroed s a1) := by
  unfold State.pkZeroed
  split <;> simp (maxDischargeDepth := 99) +contextual [h]

theorem execDirtyZeroed_since {o s : State} {a0} (h : Since o s) : ∀ {t}, execDirtyZeroed a0 s = .next t → Since o t := by
  intro t e
  unfold execDirtyZeroed at e
  cases e
  simp (maxDischargeDepth := 99) [h]

theorem execPunPkReturn_since {o s : State} {a0} {a1} {a2} (h : Since o s) : ∀ {t}, execPunPkReturn a0 a1 a2 s = .next t → Since o t := by
  intro t e
  unfold execPunPkReturn at e
  cases e
  simp (maxDischargeDepth := 99) [h]

theorem execPunPkQuarRelease_since {o s : State} {a0} {a1} {a2} (h : Since o s) : ∀ {t}, execPunPkQuarRelease a0 a1 a2 s = .next t → Since o t := by
  intro t e
  unfold execPunPkQuarRelease at e
  cases e
  simp (maxDischargeDepth := 99) [h]

@[simp] theorem State.hmAllocRead_since {o s : State} {a1} {a2} {a3} (h : Since o s) : Since o (State.hmAllocRead s a1 a2 a3) := by
  unfold State.hmAllocRead
  simp (maxDischargeDepth := 99) [h]

theorem execPunHmAlloc_since {o s : State} {a0} {a1} {a2} (h : Since o s) : ∀ {t}, execPunHmAlloc a0 a1 a2 s = .next t → Since o t := by
  intro t e
  unfold execPunHmAlloc at e
  cases e
  simp (maxDischargeDepth := 99) [h]

theorem execPunHmFree_since {o s : State} {a0} {a1} {a2} (h : Since o s) : ∀ {t}, execPunHmFree a0 a1 a2 s = .next t → Since o t := by
  intro t e
  unfold execPunHmFree at e
  cases e
  simp (maxDischargeDepth := 99) [h]

theorem execPunHmRef_since {o s : State} {a0} {a1} {a2} (h : Since o s) : ∀ {t}, execPunHmRef a0 a1 a2 s = .next t → Since o t := by
  intro t e
  unfold execPunHmRef at e
  cases e
  simp (maxDischargeDepth := 99) [h]

theorem execPunHmQuarRelease_since {o s : State} {a0} {a1} {a2} (h : Since o s) : ∀ {t}, execPunHmQuarRelease a0 a1 a2 s = .next t → Since o t := by
  intro t e
  unfold execPunHmQuarRelease at e
  cases e
  simp (maxDischargeDepth := 99) [h]

@[simp] theorem State.hmConfigWrite_since {o s : State} {a1} {a2} {a3} {a4} (h : Since o s) : Since o (State.hmConfigWrite s a1 a2 a3 a4) := by
  unfold State.hmConfigWrite
  simp only []
  (repeat' split) <;> simp (maxDischargeDepth := 99) +contextual [*, Since.memCtrl (o := o), Since.memTile (o := o)]

theorem execPunnetEnable_since {o s : State} {a0} {a1} {a2} {a3} (h : Since o s) : ∀ {t}, execPunnetEnable a0 a1 a2 a3 s = .next t → Since o t := by
  intro t e
  unfold execPunnetEnable at e
  cases e
  simp (maxDischargeDepth := 99) [h]

theorem execPunnetDisable_since {o s : State} {a0} {a1} {a2} {a3} (h : Since o s) : ∀ {t}, execPunnetDisable a0 a1 a2 a3 s = .next t → Since o t := by
  intro t e
  unfold execPunnetDisable at e
  cases e
  simp (maxDischargeDepth := 99) [h]

end Sys2Proof.Machine
end

