-- ==== Sys2Proof/Laws/SinceCarve.lean ====
section
/-! SUPPORT. What the operations of `Machine/Carve.lean` keep. -/

namespace Sys2Proof.Machine

set_option linter.unusedSimpArgs false
set_option linter.unusedTactic false
set_option linter.unreachableTactic false
set_option linter.unnecessarySeqFocus false

theorem imageRows_from (n : Nat) (sec : Bytes) : keysFrom (pdReg n 0x200000) (imageRows n sec) = true := by
  have e1 (i : Nat) : pdReg n (Reg.rtePendNode i) = dieBase (16 + n) + 0x200000 + 8 * i := by simp only [pdReg, Reg.rtePendNode, Nat.add_assoc]
  have e2 : pdReg n (Reg.rtePendSetLo 0) = dieBase (16 + n) + 0x220000 := by simp only [pdReg, Reg.rtePendSetLo, Nat.mul_zero, Nat.add_zero]
  have e3 : pdReg n (Reg.rtePendStationLo 0) = dieBase (16 + n) + 0x230000 := by
    simp only [pdReg, Reg.rtePendStationLo, Nat.mul_zero, Nat.add_zero]
  have e4 : pdReg n 0x200000 = dieBase (16 + n) + 0x200000 := by simp only [pdReg]
  simp only [imageRows, e1, e2, e3, e4]
  generalize dieBase (16 + n) = b
  refine keysFrom_append (b := b + 0x230000) (keysFrom_range _ _ _) (by omega) (keysFrom_append (b := b + 0x220000) (keysFrom_range _ _ _) (by omega)
    (keysFrom_range _ _ _) ?_) ?_
  · intro p hp
    obtain ⟨i, hi, rfl⟩ := List.mem_map.1 hp
    have := List.mem_range.1 hi
    simp only []
    omega
  · intro p hp
    rcases List.mem_append.1 hp with hp | hp
    all_goals
      obtain ⟨i, hi, rfl⟩ := List.mem_map.1 hp
      have := List.mem_range.1 hi
      simp only []
      omega

theorem imageRows_below (n : Nat) (sec : Bytes) : ∀ p ∈ imageRows n sec, p.1 < pdReg n 0x280000 := by
  have e1 (i : Nat) : pdReg n (Reg.rtePendNode i) = dieBase (16 + n) + 0x200000 + 8 * i := by simp only [pdReg, Reg.rtePendNode, Nat.add_assoc]
  have e2 : pdReg n (Reg.rtePendSetLo 0) = dieBase (16 + n) + 0x220000 := by simp only [pdReg, Reg.rtePendSetLo, Nat.mul_zero, Nat.add_zero]
  have e3 : pdReg n (Reg.rtePendStationLo 0) = dieBase (16 + n) + 0x230000 := by
    simp only [pdReg, Reg.rtePendStationLo, Nat.mul_zero, Nat.add_zero]
  have e4 : pdReg n 0x280000 = dieBase (16 + n) + 0x280000 := by simp only [pdReg]
  simp only [imageRows, e1, e2, e3, e4]
  generalize dieBase (16 + n) = b
  intro p hp
  rcases List.mem_append.1 hp with hp | hp
  · rcases List.mem_append.1 hp with hp | hp
    all_goals
      obtain ⟨i, hi, rfl⟩ := List.mem_map.1 hp
      have := List.mem_range.1 hi
      simp only []
      omega
  · obtain ⟨i, hi, rfl⟩ := List.mem_map.1 hp
    have := List.mem_range.1 hi
    simp only []
    omega

@[simp] theorem State.emptyStored_since {o s : State} {a1} (h : Since o s) : Since o (State.emptyStored s a1) := by
  unfold State.emptyStored
  extract_lets l gone s1 s2 s3 s4 s5
  have h1 : Since o s1 :=
    State.withLocalQ_since (State.withInjQ_since (State.withVoq_since h (keysFrom_filter _ h.voqOrd)) (keysFrom_filter _ h.injQOrd))
      (keysFrom_filter _ h.localQOrd)
  have h3 : Since o s3 := forEach_since (fun _ _ hs => State.modPort_since hs) _ (State.modPdie_since h1)
  have h4 : Since o s4 := forEach_since (fun _ _ hs => State.modPort_since hs) _ h3
  have h5 : Since o s5 :=
    forEach_since (fun _ _ hs => State.wfqIdle_since (forEach_since (fun _ _ hs => State.retag_since hs) _ hs)) _ h4
  exact forEach_since (fun _ _ hs => State.release_since hs) _ h5

@[simp] theorem State.dropStored_since {o s : State} {a1} (h : Since o s) : Since o (State.dropStored s a1) := by
  unfold State.dropStored
  simp (maxDischargeDepth := 99) [h]

@[simp] theorem State.carve_since {o s : State} {a1} {a2} (h : Since o s) : Since o (State.carve s a1 a2) := by
  unfold State.carve
  simp (maxDischargeDepth := 99) +contextual [h]

@[simp] theorem State.forgetCredit_since {o s : State} {a1} (h : Since o s) : Since o (State.forgetCredit s a1) := by
  unfold State.forgetCredit
  try simp only []
  refine forEach_since (fun k s hs => by simp [hs]) _ (State.modPdie_since ?_)
  exact State.withLocalQ_since (State.withVoq_since h (keysFrom_map _ h.voqOrd)) (keysFrom_map _ h.localQOrd)

@[simp] theorem State.layLanes_since {o s : State} {a1} {a2} (h : Since o s) : Since o (State.layLanes s a1 a2) := by
  unfold State.layLanes
  refine forEach_since (fun l s hs => ?_) _ h
  split <;> simp [hs]

@[simp] theorem State.restartPort_since {o s : State} {a1} (h : Since o s) : Since o (State.restartPort s a1) := by
  unfold State.restartPort
  simp only []
  (repeat' split) <;> simp (maxDischargeDepth := 99) +contextual [*, Since.memCtrl (o := o), Since.memTile (o := o)]

@[simp] theorem State.imageList_since {o s : State} {a1} {a2} (h : Since o s) : Since o (State.imageList s a1 a2) := by
  unfold State.imageList
  simp (maxDischargeDepth := 99) +contextual [h]

@[simp] theorem State.imageTables_since {o s : State} {a1} {a2} (h : Since o s) : Since o (State.imageTables s a1 a2) := by
  unfold State.imageTables
  simp only []
  have h1 : Since o (s.withRegs ((s.regs.filter fun p => decide (p.1 < pdReg a1 0x200000)) ++ ((imageRows a1 a2).filter fun p => p.2 != 0) ++
      s.regs.filter fun p => decide (pdReg a1 0x280000 ≤ p.1))) := by
    refine State.withRegs_since h ?_
    refine keysFrom_append (keysFrom_from (pdReg a1 0x280000) h.regsOrd) (Nat.zero_le _) (keysFrom_append
      (keysFrom_filter (fun p => p.2 != 0) (imageRows_from a1 a2)) (Nat.zero_le _) (keysFrom_filter _ h.regsOrd) ?_) ?_
    · intro p hp
      exact of_decide_eq_true (List.mem_filter.1 hp).2
    · intro p hp
      rcases List.mem_append.1 hp with hp | hp
      · have h3 := of_decide_eq_true (List.mem_filter.1 hp).2
        refine Nat.lt_trans h3 ?_
        simp only [pdReg]
        omega
      · exact imageRows_below _ _ _ (List.mem_filter.1 hp).1
  have h2 := State.tablesTake_since (a1 := a1) h1
  refine State.unparkAll_since ?_
  generalize State.tablesTake _ _ = u at h2 ⊢
  split <;> simp (maxDischargeDepth := 99) [h2]

@[simp] theorem State.clearPortCounts_since {o s : State} {a1} {a2} {a3} (h : Since o s) : Since o (State.clearPortCounts s a1 a2 a3) := by
  unfold State.clearPortCounts
  simp (maxDischargeDepth := 99) +contextual [h]

@[simp] theorem State.latchPortDie_since {o s : State} {a1} {a2} {a3} {a4} (h : Since o s) : Since o (State.latchPortDie s a1 a2 a3 a4) := by
  unfold State.latchPortDie
  simp (maxDischargeDepth := 99) +contextual [h]

end Sys2Proof.Machine
end

