-- ==== Sys2Proof/Laws/SinceCommit.lean ====
section
/-! SUPPORT. What the operations of `Machine/Commit.lean` keep. -/

namespace Sys2Proof.Machine

set_option linter.unusedSimpArgs false
set_option linter.unusedTactic false
set_option linter.unreachableTactic false
set_option linter.unnecessarySeqFocus false

@[simp] theorem State.withPhase_since {o s : State} {a1} (h : Since o s) : Since o (State.withPhase s a1) := by
  unfold State.withPhase
  simp (maxDischargeDepth := 99) [h]

@[simp] theorem State.dropStaged_since {o s : State}  (h : Since o s) : Since o (State.dropStaged s) := by
  unfold State.dropStaged
  simp (maxDischargeDepth := 99) +contextual [h]

@[simp] theorem State.bootFails_since {o s : State} {a1} (h : Since o s) : Since o (State.bootFails s a1) := by
  unfold State.bootFails
  simp (maxDischargeDepth := 99) [h]

@[simp] theorem State.commitFails_since {o s : State} {a1} {a2} (h : Since o s) : Since o (State.commitFails s a1 a2) := by
  unfold State.commitFails
  simp (maxDischargeDepth := 99) [h]

@[simp] theorem State.commitAbort_since {o s : State} {a1} (h : Since o s) : Since o (State.commitAbort s a1) := by
  unfold State.commitAbort
  simp (maxDischargeDepth := 99) [h]

@[simp] theorem State.commitStarts_since {o s : State}  (h : Since o s) : Since o (State.commitStarts s) := by
  unfold State.commitStarts
  simp (maxDischargeDepth := 99) [h]

@[simp] theorem State.commitStart_since {o s : State}  (h : Since o s) : Since o (State.commitStart s) := by
  unfold State.commitStart
  simp (maxDischargeDepth := 99) [h]

@[simp] theorem State.abortWrite_since {o s : State}  (h : Since o s) : Since o (State.abortWrite s) := by
  unfold State.abortWrite
  simp (maxDischargeDepth := 99) [h]

@[simp] theorem State.commitCtrl_since {o s : State} {a1} (h : Since o s) : Since o (State.commitCtrl s a1) := by
  unfold State.commitCtrl
  simp (maxDischargeDepth := 99) [h]

theorem execStart_since {o s : State} {a0} (h : Since o s) : ∀ {t}, execStart a0 s = .next t → Since o t := by
  intro t e
  unfold execStart at e
  cases e
  simp (maxDischargeDepth := 99) [h]

theorem execAbort_since {o s : State} {a0} (h : Since o s) : ∀ {t}, execAbort a0 s = .next t → Since o t := by
  intro t e
  unfold execAbort at e
  cases e
  simp (maxDischargeDepth := 99) [h]

@[simp] theorem State.writeSlots_since {o s : State} {a1} (h : Since o s) : Since o (State.writeSlots s a1) := by
  unfold State.writeSlots
  simp (maxDischargeDepth := 99) +contextual [h]

@[simp] theorem State.readImage_since {o s : State}  (h : Since o s) : Since o (State.readImage s).1 := by
  unfold State.readImage
  simp (maxDischargeDepth := 99) [h]

@[simp] theorem State.takeImage_since {o s : State} {a1} {a2} (h : Since o s) : Since o (State.takeImage s a1 a2).1 := by
  unfold State.takeImage
  simp (maxDischargeDepth := 99) [h]

@[simp] theorem State.zeroPlan_since {o s : State} {a1} (h : Since o s) : Since o (State.zeroPlan s a1) := by
  unfold State.zeroPlan
  simp (maxDischargeDepth := 99) +contextual [h]

@[simp] theorem State.showHeader_since {o s : State} {a1} (h : Since o s) : Since o (State.showHeader s a1) := by
  unfold State.showHeader
  simp (maxDischargeDepth := 99) [h]

@[simp] theorem State.stagePlan_since {o s : State} {a1} {a2} (h : Since o s) : Since o (State.stagePlan s a1 a2) := by
  unfold State.stagePlan
  simp (maxDischargeDepth := 99) +contextual [h]

@[simp] theorem State.transferred_since {o s : State} {a1} (h : Since o s) : Since o (State.transferred s a1) := by
  unfold State.transferred
  simp only []
  (repeat' split) <;> simp (maxDischargeDepth := 99) +contextual [*, Since.memCtrl (o := o), Since.memTile (o := o)]

@[simp] theorem State.transferDone_since {o s : State} {a1} {a2} (h : Since o s) : Since o (State.transferDone s a1 a2) := by
  unfold State.transferDone
  split
  · exact h
  · split
    · simp [h]
    · split
      · exact h
      · have hi := State.takeImage_since (a1 := a1) (a2 := a2) h
        split
        · rename_i s1 e
          rw [e] at hi
          exact State.commitFails_since hi
        · rename_i s1 b e
          rw [e] at hi
          exact State.transferred_since hi

theorem execTransferDone_since {o s : State} {a0} {a1} (h : Since o s) : ∀ {t}, execTransferDone a0 a1 s = .next t → Since o t := by
  intro t e
  unfold execTransferDone at e
  cases e
  simp (maxDischargeDepth := 99) [h]

@[simp] theorem State.prepareDone_since {o s : State}  (h : Since o s) : Since o (State.prepareDone s) := by
  unfold State.prepareDone
  simp (maxDischargeDepth := 99) [h]

theorem execPrepareComplete_since {o s : State}  (h : Since o s) : ∀ {t}, execPrepareComplete s = .next t → Since o t := by
  intro t e
  unfold execPrepareComplete at e
  cases e
  simp (maxDischargeDepth := 99) [h]

@[simp] theorem State.latchLead_since {o s : State}  (h : Since o s) : Since o (State.latchLead s) := by
  unfold State.latchLead
  simp (maxDischargeDepth := 99) +contextual [h]

theorem execLatchLead_since {o s : State}  (h : Since o s) : ∀ {t}, execLatchLead s = .next t → Since o t := by
  intro t e
  unfold execLatchLead at e
  cases e
  simp (maxDischargeDepth := 99) [h]

@[simp] theorem State.abandon_since {o s : State} {a1} (h : Since o s) : Since o (State.abandon s a1) := by
  unfold State.abandon
  simp (maxDischargeDepth := 99) +contextual [h]

@[simp] theorem State.moveSegment_since {o s : State} {a1} {a2} {a3} {a4} (h : Since o s) : Since o (State.moveSegment s a1 a2 a3 a4) := by
  unfold State.moveSegment
  simp only []
  have h1 : Since o (forEach (List.range 8) (fun k (r : State) =>
      if segPos a3 k = segPos a4 k then r
      else r.modTile (a1 * 2304 + a2 * 9 + segPos a4 k)
        (if segPos a3 k = a4 then Tile.reset else s.tile (a1 * 2304 + a2 * 9 + segPos a3 k)).placedOn) s) := by
    refine forEach_since (fun k r hr => ?_) _ h
    split
    · exact hr
    · refine State.modTile_since hr fun x _ => ?_
      show Memory.wf (if segPos a3 k = a4 then Tile.reset else s.tile (a1 * 2304 + a2 * 9 + segPos a3 k)).mem = true
      split
      · rfl
      · exact h.memTile _
  exact State.modTile_since h1 fun x _ => rfl

@[simp] theorem State.nameTile_since {o s : State} {a1} {a2} (h : Since o s) : Since o (State.nameTile s a1 a2) := by
  unfold State.nameTile
  simp only []
  (repeat' split) <;> simp (maxDischargeDepth := 99) +contextual [*, Since.memCtrl (o := o), Since.memTile (o := o)]

@[simp] theorem State.segMaps_since {o s : State} {a1} (h : Since o s) : Since o (State.segMaps s a1) := by
  unfold State.segMaps
  simp (maxDischargeDepth := 99) +contextual [h]

@[simp] theorem State.clearChanged_since {o s : State} {a1} {a2} {a3} (h : Since o s) : Since o (State.clearChanged s a1 a2 a3) := by
  unfold State.clearChanged
  simp (maxDischargeDepth := 99) +contextual [h]

@[simp] theorem State.latchTileDie_since {o s : State} {a1} {a2} (h : Since o s) : Since o (State.latchTileDie s a1 a2) := by
  unfold State.latchTileDie
  simp (maxDischargeDepth := 99) +contextual [h]

@[simp] theorem State.latchDie_since {o s : State} {a1} {a2} (h : Since o s) : Since o (State.latchDie s a1 a2) := by
  unfold State.latchDie
  simp (maxDischargeDepth := 99) [h]

@[simp] theorem State.missLatch_since {o s : State} {a1} {a2} (h : Since o s) : Since o (State.missLatch s a1 a2) := by
  unfold State.missLatch
  simp (maxDischargeDepth := 99) [h]

@[simp] theorem State.abandonDie_since {o s : State} {a1} (h : Since o s) : Since o (State.abandonDie s a1) := by
  unfold State.abandonDie
  split <;> simp (maxDischargeDepth := 99) +contextual [h]

@[simp] theorem State.stepEpochs_since {o s : State}  (h : Since o s) : Since o (State.stepEpochs s) := by
  unfold State.stepEpochs
  simp (maxDischargeDepth := 99) +contextual [h]

@[simp] theorem State.invalidate_since {o s : State} {a1} (h : Since o s) : Since o (State.invalidate s a1) := by
  unfold State.invalidate
  simp (maxDischargeDepth := 99) [h]

@[simp] theorem State.dissolve_since {o s : State} {a1} (h : Since o s) : Since o (State.dissolve s a1) := by
  unfold State.dissolve
  simp (maxDischargeDepth := 99) +contextual [h]

@[simp] theorem State.chkWithdraw_since {o s : State}  (h : Since o s) : Since o (State.chkWithdraw s) := by
  unfold State.chkWithdraw
  simp (maxDischargeDepth := 99) +contextual [h]

@[simp] theorem State.punnetsEnd_since {o s : State}  (h : Since o s) : Since o (State.punnetsEnd s) := by
  unfold State.punnetsEnd
  simp (maxDischargeDepth := 99) +contextual [h]

@[simp] theorem State.thaw_since {o s : State} {a1} (h : Since o s) : Since o (State.thaw s a1) := by
  unfold State.thaw
  simp (maxDischargeDepth := 99) +contextual [h]

@[simp] theorem State.dropViews_since {o s : State}  (h : Since o s) : Since o (State.dropViews s) := by
  unfold State.dropViews
  exact State.withPorter_since h h.keys h.queueLe h.sendersLe ((List.length_filter_le _ _).trans h.viewsLe) h.keysLen

@[simp] theorem State.commitDone_since {o s : State}  (h : Since o s) : Since o (State.commitDone s) := by
  unfold State.commitDone
  simp (maxDischargeDepth := 99) [h]

@[simp] theorem State.latch_since {o s : State}  (h : Since o s) : Since o (State.latch s) := by
  unfold State.latch
  simp (maxDischargeDepth := 99) +contextual [h]

theorem execLatch_since {o s : State}  (h : Since o s) : ∀ {t}, execLatch s = .next t → Since o t := by
  intro t e
  unfold execLatch at e
  cases e
  simp (maxDischargeDepth := 99) [h]

@[simp] theorem State.copyEnds_since {o s : State}  (h : Since o s) : Since o (State.copyEnds s) := by
  unfold State.copyEnds
  split <;> simp (maxDischargeDepth := 99) +contextual [h]

theorem execTileStateCopyEnd_since {o s : State}  (h : Since o s) : ∀ {t}, execTileStateCopyEnd s = .next t → Since o t := by
  intro t e
  unfold execTileStateCopyEnd at e
  cases e
  simp (maxDischargeDepth := 99) [h]

end Sys2Proof.Machine
end

