-- ==== Sys2Proof/Laws/SinceScrub.lean ====
section
/-! SUPPORT. What the operations of `Machine/Scrub.lean` keep. -/

namespace Sys2Proof.Machine

set_option linter.unusedSimpArgs false
set_option linter.unusedTactic false
set_option linter.unreachableTactic false
set_option linter.unnecessarySeqFocus false

@[simp] theorem State.retained_since {o s : State} {a1} {a2} {a3} (h : Since o s) : Since o (State.retained s a1 a2 a3).1 := by
  unfold State.retained
  simp only []
  (repeat' split) <;> simp (maxDischargeDepth := 99) +contextual [*, Since.memCtrl (o := o), Since.memTile (o := o)]

@[simp] theorem State.withSection_since {o s : State} {a1} {a2} {a3} (h : Since o s) : Since o (State.withSection s a1 a2 a3) := by
  unfold State.withSection
  split <;> simp (maxDischargeDepth := 99) [h]

@[simp] theorem State.reloadSec_since {o s : State} {a1} {a2} (h : Since o s) : Since o (State.reloadSec s a1 a2).1 := by
  unfold State.reloadSec
  generalize hx : State.retained s _ _ _ = x
  have h1 : Since o x.1 := hx ▸ State.retained_since h
  obtain ⟨s1, b⟩ := x
  cases b
  · simp only at h1 ⊢
    generalize hy : State.retained s1 _ _ _ = y
    have h2 : Since o y.1 := hy ▸ State.retained_since h1
    obtain ⟨s2, b⟩ := y
    cases b <;> simp only at h2 ⊢ <;> simp (maxDischargeDepth := 99) [h2]
  · simp only at h1 ⊢
    simp [h1]

@[simp] theorem State.scrubWord_since {o s : State} {a1} {a2} (h : Since o s) : Since o (State.scrubWord s a1 a2) := by
  unfold State.scrubWord
  simp only []
  (repeat' split) <;> simp (maxDischargeDepth := 99) [h]

@[simp] theorem State.scrubPass_since {o s : State} {a1} {a2} (h : Since o s) : Since o (State.scrubPass s a1 a2) := by
  unfold State.scrubPass
  simp (maxDischargeDepth := 99) +contextual [h]

theorem execScrubPass_since {o s : State} {a0} {a1} (h : Since o s) : ∀ {t}, execScrubPass a0 a1 s = .next t → Since o t := by
  intro t e
  unfold execScrubPass at e
  cases e
  simp (maxDischargeDepth := 99) [h]

end Sys2Proof.Machine
end

