-- ==== Sys2Proof/Laws/SinceAdaptive.lean ====
section
/-! SUPPORT. What the operations of `Machine/Adaptive.lean` keep. -/

namespace Sys2Proof.Machine

set_option linter.unusedSimpArgs false
set_option linter.unusedTactic false
set_option linter.unreachableTactic false
set_option linter.unnecessarySeqFocus false

@[simp] theorem State.override_since {o s : State} {a1} {a2} {a3} (h : Since o s) : Since o (State.override s a1 a2 a3) := by
  unfold State.override
  simp (maxDischargeDepth := 99) [h]

@[simp] theorem State.overrideEnds_since {o s : State} {a1} {a2} (h : Since o s) : Since o (State.overrideEnds s a1 a2) := by
  unfold State.overrideEnds
  simp (maxDischargeDepth := 99) [h]

@[simp] theorem State.pin_since {o s : State} {a1} {a2} {a3} (h : Since o s) : Since o (State.pin s a1 a2 a3) := by
  unfold State.pin
  simp (maxDischargeDepth := 99) [h]

@[simp] theorem State.withFreq_since {o s : State} {a1} {a2} (h : Since o s) : Since o (State.withFreq s a1 a2) := by
  unfold State.withFreq
  simp (maxDischargeDepth := 99) [h]

@[simp] theorem State.lowerOne_since {o s : State} {a1} (h : Since o s) : Since o (State.lowerOne s a1) := by
  unfold State.lowerOne
  simp (maxDischargeDepth := 99) [h]

@[simp] theorem State.lowerBlocks_since {o s : State} {a1} (h : Since o s) : Since o (State.lowerBlocks s a1) := by
  unfold State.lowerBlocks
  simp (maxDischargeDepth := 99) +contextual [h]

@[simp] theorem State.raiseOne_since {o s : State} {a1} (h : Since o s) : Since o (State.raiseOne s a1) := by
  unfold State.raiseOne
  simp (maxDischargeDepth := 99) [h]

@[simp] theorem State.raiseBlock_since {o s : State} {a1} {a2} (h : Since o s) : Since o (State.raiseBlock s a1 a2) := by
  unfold State.raiseBlock
  simp (maxDischargeDepth := 99) +contextual [h]

theorem execVfStepUp_since {o s : State} {a0} {a1} (h : Since o s) : ∀ {t}, execVfStepUp a0 a1 s = .next t → Since o t := by
  intro t e
  unfold execVfStepUp at e
  cases e
  simp (maxDischargeDepth := 99) [h]

theorem execVfStepDown_since {o s : State}  (h : Since o s) : ∀ {t}, execVfStepDown s = .next t → Since o t := by
  intro t e
  unfold execVfStepDown at e
  cases e
  simp (maxDischargeDepth := 99) [h]

@[simp] theorem State.refreshAt_since {o s : State} {a1} {a2} (h : Since o s) : Since o (State.refreshAt s a1 a2) := by
  unfold State.refreshAt
  simp (maxDischargeDepth := 99) [h]

theorem execRefresh_since {o s : State} {a0} {a1} (h : Since o s) : ∀ {t}, execRefresh a0 a1 s = .next t → Since o t := by
  intro t e
  unfold execRefresh at e
  cases e
  simp (maxDischargeDepth := 99) [h]

@[simp] theorem State.policyWrite_since {o s : State} {a1} {a2} {a3} (h : Since o s) : Since o (State.policyWrite s a1 a2 a3) := by
  unfold State.policyWrite
  simp (maxDischargeDepth := 99) [h]

theorem execPolicyWrite_since {o s : State} {a0} {a1} {a2} (h : Since o s) : ∀ {t}, execPolicyWrite a0 a1 a2 s = .next t → Since o t := by
  intro t e
  unfold execPolicyWrite at e
  cases e
  simp (maxDischargeDepth := 99) [h]

@[simp] theorem State.policyOverride_since {o s : State} {a1} {a2} (h : Since o s) : Since o (State.policyOverride s a1 a2) := by
  unfold State.policyOverride
  split <;> simp (maxDischargeDepth := 99) +contextual [h]

theorem execPolicyOverride_since {o s : State} {a0} {a1} (h : Since o s) : ∀ {t}, execPolicyOverride a0 a1 s = .next t → Since o t := by
  intro t e
  unfold execPolicyOverride at e
  cases e
  simp (maxDischargeDepth := 99) [h]

@[simp] theorem State.blockSleep_since {o s : State} {a1} (h : Since o s) : Since o (State.blockSleep s a1) := by
  unfold State.blockSleep
  simp (maxDischargeDepth := 99) [h]

theorem execBlockSleep_since {o s : State} {a0} (h : Since o s) : ∀ {t}, execBlockSleep a0 s = .next t → Since o t := by
  intro t e
  unfold execBlockSleep at e
  cases e
  simp (maxDischargeDepth := 99) [h]

theorem execBlockDeepSleep_since {o s : State} {a0} (h : Since o s) : ∀ {t}, execBlockDeepSleep a0 s = .next t → Since o t := by
  intro t e
  unfold execBlockDeepSleep at e
  cases e
  simp (maxDischargeDepth := 99) [h]

theorem execBlockWake_since {o s : State} {a0} (h : Since o s) : ∀ {t}, execBlockWake a0 s = .next t → Since o t := by
  intro t e
  unfold execBlockWake at e
  cases e
  simp (maxDischargeDepth := 99) [h]

@[simp] theorem State.wakeComplete_since {o s : State} {a1} (h : Since o s) : Since o (State.wakeComplete s a1) := by
  unfold State.wakeComplete
  simp (maxDischargeDepth := 99) [h]

theorem execWakeComplete_since {o s : State} {a0} (h : Since o s) : ∀ {t}, execWakeComplete a0 s = .next t → Since o t := by
  intro t e
  unfold execWakeComplete at e
  cases e
  simp (maxDischargeDepth := 99) [h]

@[simp] theorem State.powerSample_since {o s : State} {a1} {a2} (h : Since o s) : Since o (State.powerSample s a1 a2) := by
  unfold State.powerSample
  simp (maxDischargeDepth := 99) +contextual [h]

theorem execPowerSample_since {o s : State} {a0} {a1} (h : Since o s) : ∀ {t}, execPowerSample a0 a1 s = .next t → Since o t := by
  intro t e
  unfold execPowerSample at e
  cases e
  simp (maxDischargeDepth := 99) [h]

end Sys2Proof.Machine
end

