-- ==== Sys2Proof/Laws/SinceDeterminism.lean ====
section
/-! SUPPORT. What the operations of `Machine/Determinism.lean` keep. -/

namespace Sys2Proof.Machine

set_option linter.unusedSimpArgs false
set_option linter.unusedTactic false
set_option linter.unreachableTactic false
set_option linter.unnecessarySeqFocus false

theorem keysFrom_keep {α : Type} {f : Nat × α → Option (Nat × α)} (hf : ∀ p q, f p = some q → q.1 = p.1) :
    ∀ {m : SMap α} {a : Nat}, keysFrom a m = true → keysFrom a (m.filterMap f) = true
  | [], _, _ => rfl
  | (k, x) :: m, a, h => by
    simp only [keysFrom, Bool.and_eq_true, decide_eq_true_eq] at h
    rw [List.filterMap_cons]
    split
    · exact keysFrom_mono (by omega) (keysFrom_keep hf h.2)
    · rename_i q hq
      obtain ⟨j, y⟩ := q
      have hj : j = k := hf _ _ hq
      subst hj
      simp only [keysFrom, Bool.and_eq_true, decide_eq_true_eq]
      exact ⟨h.1, keysFrom_keep hf h.2⟩

@[simp] theorem State.detWrite_since {o s : State} {a1} {a2} (h : Since o s) : Since o (State.detWrite s a1 a2) := by
  unfold State.detWrite
  simp (maxDischargeDepth := 99) [h]

theorem execDetEnter_since {o s : State} {a0} (h : Since o s) : ∀ {t}, execDetEnter a0 s = .next t → Since o t := by
  intro t e
  unfold execDetEnter at e
  cases e
  simp (maxDischargeDepth := 99) [h]

theorem execDetExit_since {o s : State} {a0} (h : Since o s) : ∀ {t}, execDetExit a0 s = .next t → Since o t := by
  intro t e
  unfold execDetExit at e
  cases e
  simp (maxDischargeDepth := 99) [h]

@[simp] theorem State.detActive_since {o s : State}  (h : Since o s) : Since o (State.detActive s) := by
  unfold State.detActive
  simp (maxDischargeDepth := 99) +contextual [h]

theorem execDetActive_since {o s : State}  (h : Since o s) : ∀ {t}, execDetActive s = .next t → Since o t := by
  intro t e
  unfold execDetActive at e
  cases e
  simp (maxDischargeDepth := 99) [h]

@[simp] theorem State.barrierArm_since {o s : State} {a1} (h : Since o s) : Since o (State.barrierArm s a1) := by
  unfold State.barrierArm
  simp (maxDischargeDepth := 99) [h]

theorem execBarrierArm_since {o s : State} {a0} (h : Since o s) : ∀ {t}, execBarrierArm a0 s = .next t → Since o t := by
  intro t e
  unfold execBarrierArm at e
  cases e
  simp (maxDischargeDepth := 99) [h]

@[simp] theorem State.barrierCancel_since {o s : State}  (h : Since o s) : Since o (State.barrierCancel s) := by
  unfold State.barrierCancel
  simp (maxDischargeDepth := 99) [h]

theorem execBarrierCancel_since {o s : State} {a0} (h : Since o s) : ∀ {t}, execBarrierCancel a0 s = .next t → Since o t := by
  intro t e
  unfold execBarrierCancel at e
  cases e
  simp (maxDischargeDepth := 99) [h]

@[simp] theorem State.phaseReset_since {o s : State}  (h : Since o s) : Since o (State.phaseReset s) := by
  unfold State.phaseReset
  have h1 := State.withMesh_since h (x := s.mesh.filterMap fun p =>
    let x := { p.2 with rr := [] }
    if x = Stop.reset then none else some (p.1, x)) (keysFrom_keep (fun p q e => by
      simp only [] at e
      split at e <;> cases e
      rfl) h.meshOrd)
  have h2 := State.withPorts_since h1 (x := s.ports.filterMap fun p =>
    let x := { p.2 with rr := [] }
    if x = Port.reset then none else some (p.1, x)) (keysFrom_keep (fun p q e => by
      simp only [] at e
      split at e <;> cases e
      rfl) h.portsOrd)
  exact State.withReg_since (State.withBlocks_since h2 (keysFrom_keep (fun p q e => by
      simp only [] at e
      split at e <;> cases e
      rfl) h.blocksOrd))

@[simp] theorem State.countForeign_since {o s : State} {a1} (h : Since o s) : Since o (State.countForeign s a1) := by
  unfold State.countForeign
  simp (maxDischargeDepth := 99) [h]

@[simp] theorem State.released_since {o s : State}  (h : Since o s) : Since o (State.released s) := by
  unfold State.released
  simp (maxDischargeDepth := 99) +contextual [h]

@[simp] theorem State.barrierRelease_since {o s : State}  (h : Since o s) : Since o (State.barrierRelease s) := by
  unfold State.barrierRelease
  simp (maxDischargeDepth := 99) [h]

theorem execBarrierRelease_since {o s : State}  (h : Since o s) : ∀ {t}, execBarrierRelease s = .next t → Since o t := by
  intro t e
  unfold execBarrierRelease at e
  cases e
  simp (maxDischargeDepth := 99) [h]

end Sys2Proof.Machine
end

