-- ==== Sys2Proof/Laws/SinceMemory.lean ====
section
/-! SUPPORT. What the operations of `Machine/Memory.lean` keep. -/

namespace Sys2Proof.Machine

set_option linter.unusedSimpArgs false
set_option linter.unusedTactic false
set_option linter.unreachableTactic false
set_option linter.unnecessarySeqFocus false

@[simp] theorem State.withPresent_since {o s : State} {a1} (h : Since o s) : Since o (State.withPresent s a1) := by
  unfold State.withPresent
  simp (maxDischargeDepth := 99) [h]

@[simp] theorem State.hbmTrained_since {o s : State} {a1} {a2} (h : Since o s) : Since o (State.hbmTrained s a1 a2) := by
  unfold State.hbmTrained
  simp (maxDischargeDepth := 99) [h]

theorem execHbmTrained_since {o s : State} {a0} {a1} (h : Since o s) : ∀ {t}, execHbmTrained a0 a1 s = .next t → Since o t := by
  intro t e
  unfold execHbmTrained at e
  cases e
  simp (maxDischargeDepth := 99) [h]

@[simp] theorem State.hbmCorrected_since {o s : State} {a1} (h : Since o s) : Since o (State.hbmCorrected s a1) := by
  unfold State.hbmCorrected
  simp (maxDischargeDepth := 99) [h]

@[simp] theorem State.hbmUpset_since {o s : State} {a1} {a2} (h : Since o s) : Since o (State.hbmUpset s a1 a2) := by
  unfold State.hbmUpset
  split <;> simp (maxDischargeDepth := 99) +contextual [h]

@[simp] theorem State.hbmAtomic_since {o s : State} {a1} {a2} {a3} (h : Since o s) : Since o (State.hbmAtomic s a1 a2 a3).1 := by
  unfold State.hbmAtomic
  simp (maxDischargeDepth := 99) [h]

@[simp] theorem State.hbmAccess_since {o s : State} {a1} {a2} {a3} {a4} (h : Since o s) : Since o (State.hbmAccess s a1 a2 a3 a4) := by
  unfold State.hbmAccess
  (repeat' split) <;> simp (maxDischargeDepth := 99) +contextual [h]

theorem execHbmAccess_since {o s : State} {a0} {a1} {a2} {a3} (h : Since o s) : ∀ {t}, execHbmAccess a0 a1 a2 a3 s = .next t → Since o t := by
  intro t e
  unfold execHbmAccess at e
  cases e
  simp (maxDischargeDepth := 99) [h]

@[simp] theorem State.hbmRowRepaired_since {o s : State} {a1} (h : Since o s) : Since o (State.hbmRowRepaired s a1) := by
  unfold State.hbmRowRepaired
  split <;> simp (maxDischargeDepth := 99) +contextual [h]

theorem execHbmRowRepaired_since {o s : State} {a0} (h : Since o s) : ∀ {t}, execHbmRowRepaired a0 s = .next t → Since o t := by
  intro t e
  unfold execHbmRowRepaired at e
  cases e
  simp (maxDischargeDepth := 99) [h]

@[simp] theorem State.patrolRead_since {o s : State} {a1} {a2} (h : Since o s) : Since o (State.patrolRead s a1 a2) := by
  unfold State.patrolRead
  simp (maxDischargeDepth := 99) [h]

theorem execPatrolRead_since {o s : State} {a0} {a1} (h : Since o s) : ∀ {t}, execPatrolRead a0 a1 s = .next t → Since o t := by
  intro t e
  unfold execPatrolRead at e
  cases e
  simp (maxDischargeDepth := 99) [h]

@[simp] theorem State.chkArm_since {o s : State} {a1} (h : Since o s) : Since o (State.chkArm s a1) := by
  unfold State.chkArm
  simp (maxDischargeDepth := 99) [h]

@[simp] theorem State.chkClose_since {o s : State} {a1} (h : Since o s) : Since o (State.chkClose s a1) := by
  unfold State.chkClose
  simp (maxDischargeDepth := 99) [h]

@[simp] theorem State.chkCtrlWrite_since {o s : State} {a1} {a2} {a3} (h : Since o s) : Since o (State.chkCtrlWrite s a1 a2 a3) := by
  unfold State.chkCtrlWrite
  simp (maxDischargeDepth := 99) [h]

theorem execChkArm_since {o s : State} {a0} {a1} {a2} (h : Since o s) : ∀ {t}, execChkArm a0 a1 a2 s = .next t → Since o t := by
  intro t e
  unfold execChkArm at e
  cases e
  simp (maxDischargeDepth := 99) [h]

theorem execChkClose_since {o s : State} {a0} {a1} {a2} (h : Since o s) : ∀ {t}, execChkClose a0 a1 a2 s = .next t → Since o t := by
  intro t e
  unfold execChkClose at e
  cases e
  simp (maxDischargeDepth := 99) [h]

@[simp] theorem State.chkWindowAlive_since {o s : State} {a1} {a2} (h : Since o s) : Since o (State.chkWindowAlive s a1 a2) := by
  unfold State.chkWindowAlive
  simp (maxDischargeDepth := 99) [h]

@[simp] theorem State.chkWindowEnd_since {o s : State} {a1} {a2} (h : Since o s) : Since o (State.chkWindowEnd s a1 a2) := by
  unfold State.chkWindowEnd
  simp only []
  (repeat' split) <;> simp (maxDischargeDepth := 99) +contextual [*, Since.memCtrl (o := o), Since.memTile (o := o)]

theorem execChkBlockEnd_since {o s : State} {a0} {a1} (h : Since o s) : ∀ {t}, execChkBlockEnd a0 a1 s = .next t → Since o t := by
  intro t e
  unfold execChkBlockEnd at e
  cases e
  simp (maxDischargeDepth := 99) [h]

end Sys2Proof.Machine
end

