-- ==== Sys2Proof/Laws/SinceResets.lean ====
section
/-! SUPPORT. What the operations of `Machine/Resets.lean` keep. -/

namespace Sys2Proof.Machine

set_option linter.unusedSimpArgs false
set_option linter.unusedTactic false
set_option linter.unreachableTactic false
set_option linter.unnecessarySeqFocus false

@[simp] theorem State.resetRegs_since {o s : State} {a1} (h : Since o s) : Since o (State.resetRegs s a1) := by
  unfold State.resetRegs
  exact State.withRegs_since h (keysFrom_filter _ h.regsOrd)

@[simp] theorem State.clearTileDie_since {o s : State} {a1} (h : Since o s) : Since o (State.clearTileDie s a1) := by
  unfold State.clearTileDie
  have h1 : Since o (forEach (List.range 2304) (fun q s => s.modTile (2304 * a1 + q) Tile.dieReset) s) :=
    forEach_since (fun q s hs => State.modTile_since hs fun x _ => Tile.dieReset_wf x) _ h
  simp only []
  refine forEach_since (fun b s hs => State.modBlock_since hs) _ ?_
  split
  · exact forEach_since (fun u s hs => State.withChk_since hs) _ (State.modCtrl_since h1 fun x hx => by first | exact hx | simp | rfl)
  · exact h1

@[simp] theorem State.clearPortDie_since {o s : State} {a1} (h : Since o s) : Since o (State.clearPortDie s a1) := by
  unfold State.clearPortDie
  simp (maxDischargeDepth := 99) +contextual [h]

@[simp] theorem State.clearDie_since {o s : State} {a1} (h : Since o s) : Since o (State.clearDie s a1) := by
  unfold State.clearDie
  simp (maxDischargeDepth := 99) [h]

@[simp] theorem State.clearScope_since {o s : State} {a1} (h : Since o s) : Since o (State.clearScope s a1) := by
  unfold State.clearScope
  split <;> simp (maxDischargeDepth := 99) +contextual [h]

@[simp] theorem State.beginReset_since {o s : State} {a1} (h : Since o s) : Since o (State.beginReset s a1) := by
  unfold State.beginReset
  split
  · exact h
  · extract_lets s1 lost s2
    have h1 : Since o s1 := by
      unfold s1
      split <;> simp [h]
    have h2 : Since o s2 :=
      State.clearScope_since (forEach_since (fun b s hs => State.wakeBlock_since hs) _ (State.stopGangs_since h1))
    exact forEach_since (fun k s hs => by simp (maxDischargeDepth := 99) [hs]) _ (State.withFaults_since h2 h2.faultsLe)

@[simp] theorem State.resetWrite_since {o s : State} {a1} {a2} (h : Since o s) : Since o (State.resetWrite s a1 a2) := by
  unfold State.resetWrite
  (repeat' split) <;> simp (maxDischargeDepth := 99) +contextual [h]

theorem execTileReset_since {o s : State} {a0} {a1} (h : Since o s) : ∀ {t}, execTileReset a0 a1 s = .next t → Since o t := by
  intro t e
  unfold execTileReset at e
  cases e
  simp (maxDischargeDepth := 99) [h]

theorem execBlockReset_since {o s : State} {a0} {a1} (h : Since o s) : ∀ {t}, execBlockReset a0 a1 s = .next t → Since o t := by
  intro t e
  unfold execBlockReset at e
  cases e
  simp (maxDischargeDepth := 99) [h]

theorem execSectorReset_since {o s : State} {a0} {a1} (h : Since o s) : ∀ {t}, execSectorReset a0 a1 s = .next t → Since o t := by
  intro t e
  unfold execSectorReset at e
  cases e
  simp (maxDischargeDepth := 99) [h]

theorem execDieReset_since {o s : State} {a0} {a1} (h : Since o s) : ∀ {t}, execDieReset a0 a1 s = .next t → Since o t := by
  intro t e
  unfold execDieReset at e
  cases e
  simp (maxDischargeDepth := 99) [h]

@[simp] theorem State.partitionReset_since {o s : State} {a1} {a2} (h : Since o s) : Since o (State.partitionReset s a1 a2) := by
  unfold State.partitionReset
  simp (maxDischargeDepth := 99) [h]

theorem execPartitionReset_since {o s : State} {a0} {a1} (h : Since o s) : ∀ {t}, execPartitionReset a0 a1 s = .next t → Since o t := by
  intro t e
  unfold execPartitionReset at e
  cases e
  simp (maxDischargeDepth := 99) [h]

@[simp] theorem State.endReset_since {o s : State} {a1} (h : Since o s) : Since o (State.endReset s a1) := by
  unfold State.endReset
  split
  · exact h
  · simp only []
    have h1 : Since o (s.withFaults { s.faults with resets := s.faults.resets.erase a1 }) := State.withFaults_since h h.faultsLe
    generalize s.withFaults { s.faults with resets := s.faults.resets.erase a1 } = s1 at h1 ⊢
    refine forEach_since (fun k s hs => by simp [hs]) _ ?_
    split
    · split
      · exact State.modCtrl_since (State.modDie_since h1) fun x hx => hx
      · exact State.modDie_since h1
    · exact h1

theorem execResetComplete_since {o s : State} {a0} (h : Since o s) : ∀ {t}, execResetComplete a0 s = .next t → Since o t := by
  intro t e
  unfold execResetComplete at e
  cases e
  simp (maxDischargeDepth := 99) [h]

@[simp] theorem State.pop_since {o s : State} {a1} (h : Since o s) : Since o (State.pop s a1) := by
  unfold State.pop
  split
  · simp [h]
  · rename_i q hq
    exact State.withFaults_since h (by
      have := h.faultsLe
      rw [hq] at this
      exact (Nat.le_succ _).trans this)

theorem execPop_since {o s : State} {a0} (h : Since o s) : ∀ {t}, execPop a0 s = .next t → Since o t := by
  intro t e
  unfold execPop at e
  cases e
  simp (maxDischargeDepth := 99) [h]

@[simp] theorem State.fenceBlock_since {o s : State} {a1} (h : Since o s) : Since o (State.fenceBlock s a1) := by
  unfold State.fenceBlock
  simp (maxDischargeDepth := 99) [h]

theorem execBlockFenced_since {o s : State} {a0} (h : Since o s) : ∀ {t}, execBlockFenced a0 s = .next t → Since o t := by
  intro t e
  unfold execBlockFenced at e
  cases e
  simp (maxDischargeDepth := 99) [h]

@[simp] theorem State.gateSector_since {o s : State} {a1} (h : Since o s) : Since o (State.gateSector s a1) := by
  unfold State.gateSector
  simp (maxDischargeDepth := 99) +contextual [h]

theorem execSectorGated_since {o s : State} {a0} (h : Since o s) : ∀ {t}, execSectorGated a0 s = .next t → Since o t := by
  intro t e
  unfold execSectorGated at e
  cases e
  simp (maxDischargeDepth := 99) [h]

@[simp] theorem State.cutDie_since {o s : State} {a1} (h : Since o s) : Since o (State.cutDie s a1) := by
  unfold State.cutDie
  simp (maxDischargeDepth := 99) +contextual [h]

theorem execDieFenced_since {o s : State} {a0} (h : Since o s) : ∀ {t}, execDieFenced a0 s = .next t → Since o t := by
  intro t e
  unfold execDieFenced at e
  cases e
  simp (maxDischargeDepth := 99) [h]

@[simp] theorem State.spareLost_since {o s : State} {a1} {a2} (h : Since o s) : Since o (State.spareLost s a1 a2) := by
  unfold State.spareLost
  simp (maxDischargeDepth := 99) [h]

theorem execSpareLost_since {o s : State} {a0} {a1} (h : Since o s) : ∀ {t}, execSpareLost a0 a1 s = .next t → Since o t := by
  intro t e
  unfold execSpareLost at e
  cases e
  simp (maxDischargeDepth := 99) [h]

end Sys2Proof.Machine
end

