-- ==== Sys2Proof/Laws/SinceLinks.lean ====
section
/-! SUPPORT. What the operations of `Machine/Links.lean` keep. -/

namespace Sys2Proof.Machine

set_option linter.unusedSimpArgs false
set_option linter.unusedTactic false
set_option linter.unreachableTactic false
set_option linter.unnecessarySeqFocus false

theorem execGroupReceive_since {o s : State} {a0} {a1} (h : Since o s) : ∀ {t}, execGroupReceive a0 a1 s = .next t → Since o t := by
  intro t e
  unfold execGroupReceive at e
  cases e
  simp (maxDischargeDepth := 99) [h]

@[simp] theorem State.bootScan_since {o s : State}  (h : Since o s) : Since o (State.bootScan s) := by
  unfold State.bootScan
  (repeat' split) <;> simp (maxDischargeDepth := 99) +contextual [h]

theorem execTimeSetReceive_since {o s : State} {a0} {a1} (h : Since o s) : ∀ {t}, execTimeSetReceive a0 a1 s = .next t → Since o t := by
  intro t e
  unfold execTimeSetReceive at e
  cases e
  simp (maxDischargeDepth := 99) [h]

theorem execCreditInit_since {o s : State} {a0} {a1} (h : Since o s) : ∀ {t}, execCreditInit a0 a1 s = .next t → Since o t := by
  intro t e
  unfold execCreditInit at e
  cases e
  simp (maxDischargeDepth := 99) [h]

theorem execLinkState_since {o s : State} {a0} {a1} (h : Since o s) : ∀ {t}, execLinkState a0 a1 s = .next t → Since o t := by
  intro t e
  unfold execLinkState at e
  cases e
  simp (maxDischargeDepth := 99) [h]

theorem execTimeSetSend_since {o s : State} {a0} (h : Since o s) : ∀ {t}, execTimeSetSend a0 s = .next t → Since o t := by
  intro t e
  unfold execTimeSetSend at e
  cases e
  simp (maxDischargeDepth := 99) [h]

@[simp] theorem State.timeSetTimeout_since {o s : State} {a1} (h : Since o s) : Since o (State.timeSetTimeout s a1) := by
  unfold State.timeSetTimeout
  simp (maxDischargeDepth := 99) [h]

theorem execTimeSetTimeout_since {o s : State} {a0} (h : Since o s) : ∀ {t}, execTimeSetTimeout a0 s = .next t → Since o t := by
  intro t e
  unfold execTimeSetTimeout at e
  cases e
  simp (maxDischargeDepth := 99) [h]

theorem execReplayTimeout_since {o s : State} {a0} (h : Since o s) : ∀ {t}, execReplayTimeout a0 s = .next t → Since o t := by
  intro t e
  unfold execReplayTimeout at e
  cases e
  simp (maxDischargeDepth := 99) [h]

@[simp] theorem State.holdEnds_since {o s : State} {a1} {a2} (h : Since o s) : Since o (State.holdEnds s a1 a2) := by
  unfold State.holdEnds
  simp (maxDischargeDepth := 99) [h]

theorem execHoldExpiry_since {o s : State} {a0} {a1} (h : Since o s) : ∀ {t}, execHoldExpiry a0 a1 s = .next t → Since o t := by
  intro t e
  unfold execHoldExpiry at e
  cases e
  simp (maxDischargeDepth := 99) [h]

theorem execPauseExpiry_since {o s : State} {a0} {a1} (h : Since o s) : ∀ {t}, execPauseExpiry a0 a1 s = .next t → Since o t := by
  intro t e
  unfold execPauseExpiry at e
  cases e
  simp (maxDischargeDepth := 99) [h]

theorem execPauseFrame_since {o s : State} {a0} {a1} (h : Since o s) : ∀ {t}, execPauseFrame a0 a1 s = .next t → Since o t := by
  intro t e
  unfold execPauseFrame at e
  cases e
  simp (maxDischargeDepth := 99) [h]

theorem execPfcFrame_since {o s : State} {a0} {a1} {a2} (h : Since o s) : ∀ {t}, execPfcFrame a0 a1 a2 s = .next t → Since o t := by
  intro t e
  unfold execPfcFrame at e
  cases e
  simp (maxDischargeDepth := 99) [h]

theorem execLinkTrainingDone_since {o s : State} {a0} {a1} {a2} (h : Since o s) : ∀ {t}, execLinkTrainingDone a0 a1 a2 s = .next t → Since o t := by
  intro t e
  unfold execLinkTrainingDone at e
  cases e
  simp (maxDischargeDepth := 99) [h]

theorem execTrainingTimeout_since {o s : State} {a0} (h : Since o s) : ∀ {t}, execTrainingTimeout a0 s = .next t → Since o t := by
  intro t e
  unfold execTrainingTimeout at e
  cases e
  simp (maxDischargeDepth := 99) [h]

@[simp] theorem State.retrainBy_since {o s : State} {a1} {a2} (h : Since o s) : Since o (State.retrainBy s a1 a2) := by
  unfold State.retrainBy
  simp (maxDischargeDepth := 99) [h]

theorem execRetrain_since {o s : State} {a0} {a1} (h : Since o s) : ∀ {t}, execRetrain a0 a1 s = .next t → Since o t := by
  intro t e
  unfold execRetrain at e
  cases e
  simp (maxDischargeDepth := 99) [h]

theorem execBerWindow_since {o s : State} {a0} {a1} {a2} (h : Since o s) : ∀ {t}, execBerWindow a0 a1 a2 s = .next t → Since o t := by
  intro t e
  unfold execBerWindow at e
  try simp only [] at e
  repeat' split at e
  all_goals
    injection e with e
    subst e
    simp (maxDischargeDepth := 99) +contextual [h, Since.memCtrl (o := o), Since.memTile (o := o)]

end Sys2Proof.Machine
end

