-- ==== Sys2Proof/Laws/SinceStartup.lean ====
section
/-! SUPPORT. What the operations of `Machine/Startup.lean` keep. -/

namespace Sys2Proof.Machine

set_option linter.unusedSimpArgs false
set_option linter.unusedTactic false
set_option linter.unreachableTactic false
set_option linter.unnecessarySeqFocus false

@[simp] theorem State.packageReset_since {o s : State}  (h : Since o s) : Since o (State.packageReset s) := by
  unfold State.packageReset
  exact { h with
    regsOrd := (by decide : keysFrom 0 State.reset.regs = true)
    bar4Ord := (by decide : keysFrom 0 State.reset.bar4 = true)
    tilesOrd := rfl
    diesOrd := rfl
    blocksOrd := rfl
    meshOrd := rfl
    ctrlsOrd := rfl
    pdiesOrd := rfl
    portsOrd := rfl
    voqOrd := rfl
    localQOrd := rfl
    injQOrd := rfl
    groupsOrd := rfl
    sqHeldOrd := rfl
    traceOrd := rfl
    chksOrd := rfl
    tileMem := fun p hp => nomatch hp
    ctrlMem := fun p hp => nomatch hp
    faultsLe := Nat.zero_le _
    queueLe := Nat.zero_le _
    sendersLe := Nat.zero_le _
    viewsLe := Nat.zero_le _
    traceLe := fun p hp => nomatch hp }

@[simp] theorem State.resetPulse_since {o s : State} {a1} (h : Since o s) : Since o (State.resetPulse s a1) := by
  unfold State.resetPulse
  simp (maxDischargeDepth := 99) [h]

theorem execPackageReset_since {o s : State} {a0} (h : Since o s) : ∀ {t}, execPackageReset a0 s = .next t → Since o t := by
  intro t e
  unfold execPackageReset at e
  cases e
  simp (maxDischargeDepth := 99) [h]

@[simp] theorem State.leaveReset_since {o s : State} {a1} {a2} (h : Since o s) : Since o (State.leaveReset s a1 a2) := by
  unfold State.leaveReset
  simp (maxDischargeDepth := 99) +contextual [h]

@[simp] theorem State.resetHigh_since {o s : State} {a1} {a2} (h : Since o s) : Since o (State.resetHigh s a1 a2) := by
  unfold State.resetHigh
  simp (maxDischargeDepth := 99) [h]

theorem execPkgResetDeassert_since {o s : State} {a0} {a1} (h : Since o s) : ∀ {t}, execPkgResetDeassert a0 a1 s = .next t → Since o t := by
  intro t e
  unfold execPkgResetDeassert at e
  cases e
  simp (maxDischargeDepth := 99) [h]

theorem execVauxLow_since {o s : State}  (h : Since o s) : ∀ {t}, execVauxLow s = .next t → Since o t := by
  intro t e
  unfold execVauxLow at e
  cases e
  simp (maxDischargeDepth := 99) [h]

@[simp] theorem State.vauxBack_since {o s : State} {a1} {a2} (h : Since o s) : Since o (State.vauxBack s a1 a2) := by
  unfold State.vauxBack
  simp (maxDischargeDepth := 99) [h]

theorem execVauxRestored_since {o s : State} {a0} {a1} (h : Since o s) : ∀ {t}, execVauxRestored a0 a1 s = .next t → Since o t := by
  intro t e
  unfold execVauxRestored at e
  cases e
  simp (maxDischargeDepth := 99) [h]

theorem execKeepLock_since {o s : State}  (h : Since o s) : ∀ {t}, execKeepLock s = .next t → Since o t := by
  intro t e
  unfold execKeepLock at e
  injection e with e
  subst e
  split
  · exact State.withFld_since (State.withClk_since (State.withFld_since h) (Nat.le_refl s.clk.fresh))
  · exact h

theorem execRefLost_since {o s : State}  (h : Since o s) : ∀ {t}, execRefLost s = .next t → Since o t := by
  intro t e
  unfold execRefLost at e
  cases e
  simp (maxDischargeDepth := 99) [h]

theorem execRefclkReturn_since {o s : State}  (h : Since o s) : ∀ {t}, execRefclkReturn s = .next t → Since o t := by
  intro t e
  unfold execRefclkReturn at e
  cases e
  simp (maxDischargeDepth := 99) [h]

theorem execPorterRunning_since {o s : State}  (h : Since o s) : ∀ {t}, execPorterRunning s = .next t → Since o t := by
  intro t e
  unfold execPorterRunning at e
  cases e
  simp (maxDischargeDepth := 99) [h]

theorem execRegulatorEnable_since {o s : State}  (h : Since o s) : ∀ {t}, execRegulatorEnable s = .next t → Since o t := by
  intro t e
  unfold execRegulatorEnable at e
  cases e
  simp (maxDischargeDepth := 99) [h]

@[simp] theorem State.powerGood_since {o s : State}  (h : Since o s) : Since o (State.powerGood s) := by
  unfold State.powerGood
  simp (maxDischargeDepth := 99) +contextual [h]

theorem execPwrGood_since {o s : State}  (h : Since o s) : ∀ {t}, execPwrGood s = .next t → Since o t := by
  intro t e
  unfold execPwrGood at e
  cases e
  simp (maxDischargeDepth := 99) [h]

theorem execPciePerstDeassert_since {o s : State}  (h : Since o s) : ∀ {t}, execPciePerstDeassert s = .next t → Since o t := by
  intro t e
  unfold execPciePerstDeassert at e
  cases e
  simp (maxDischargeDepth := 99) [h]

@[simp] theorem State.bootEnds_since {o s : State} {a1} (h : Since o s) : Since o (State.bootEnds s a1) := by
  unfold State.bootEnds
  simp (maxDischargeDepth := 99) [h]

@[simp] theorem State.bootCommit_since {o s : State} {a1} (h : Since o s) : Since o (State.bootCommit s a1) := by
  unfold State.bootCommit
  simp (maxDischargeDepth := 99) [h]

@[simp] theorem State.bootServed_since {o s : State} {a1} {a2} (h : Since o s) : Since o (State.bootServed s a1 a2) := by
  unfold State.bootServed
  simp (maxDischargeDepth := 99) [h]

@[simp] theorem State.bootAction_since {o s : State} {a1} (h : Since o s) : Since o (State.bootAction s a1) := by
  unfold State.bootAction
  simp only []
  (repeat' split) <;> simp (maxDischargeDepth := 99) +contextual [*, Since.memCtrl (o := o), Since.memTile (o := o)]

@[simp] theorem State.boot_since {o s : State} {a1} (h : Since o s) : Since o (State.boot s a1) := by
  unfold State.boot
  (repeat' split) <;> simp (maxDischargeDepth := 99) +contextual [h]

theorem execBoot_since {o s : State} {a0} (h : Since o s) : ∀ {t}, execBoot a0 s = .next t → Since o t := by
  intro t e
  unfold execBoot at e
  cases e
  simp (maxDischargeDepth := 99) [h]

theorem execBootTimeout_since {o s : State}  (h : Since o s) : ∀ {t}, execBootTimeout s = .next t → Since o t := by
  intro t e
  unfold execBootTimeout at e
  cases e
  simp (maxDischargeDepth := 99) [h]

@[simp] theorem State.bootRefusal_since {o s : State} {a1} (h : Since o s) : Since o (State.bootRefusal s a1) := by
  unfold State.bootRefusal
  simp (maxDischargeDepth := 99) [h]

theorem execImageServeRefusal_since {o s : State} {a0} (h : Since o s) : ∀ {t}, execImageServeRefusal a0 s = .next t → Since o t := by
  intro t e
  unfold execImageServeRefusal at e
  cases e
  simp (maxDischargeDepth := 99) [h]

@[simp] theorem State.retainedImage_since {o s : State} {a1} (h : Since o s) : Since o (State.retainedImage s a1).1 := by
  unfold State.retainedImage
  simp (maxDischargeDepth := 99) [h]

@[simp] theorem State.imageServe_since {o s : State} {a1} (h : Since o s) : Since o (State.imageServe s a1) := by
  unfold State.imageServe
  split
  · simp [h]
  · have h1 := State.retainedImage_since (a1 := 0) h
    split
    · rename_i e
      rw [e] at h1
      exact State.emit_since h1
    · rename_i e
      rw [e] at h1
      exact State.emit_since (State.retainedImage_since h1)

theorem execImageServeRequest_since {o s : State} {a0} (h : Since o s) : ∀ {t}, execImageServeRequest a0 s = .next t → Since o t := by
  intro t e
  unfold execImageServeRequest at e
  cases e
  simp (maxDischargeDepth := 99) [h]

end Sys2Proof.Machine
end

