-- ==== Sys2Proof/Laws/SincePower.lean ====
section
/-! SUPPORT. What the operations of `Machine/Power.lean` keep. -/

namespace Sys2Proof.Machine

set_option linter.unusedSimpArgs false
set_option linter.unusedTactic false
set_option linter.unreachableTactic false
set_option linter.unnecessarySeqFocus false

@[simp] theorem State.meshLost_since {o s : State}  (h : Since o s) : Since o (State.meshLost s) := by
  unfold State.meshLost
  exact State.withMesh_since h (keysFrom_map _ (keysFrom_filter _ h.meshOrd))

@[simp] theorem State.powerLost_since {o s : State}  (h : Since o s) : Since o (State.powerLost s) := by
  unfold State.powerLost
  simp only []
  have h1 : Since o (if s.preparing then s.commitAbort 0x22 else s) := by split <;> simp [h]
  generalize (if s.preparing then s.commitAbort 0x22 else s) = s1 at h1 ⊢
  refine forEach_since (fun e s hs => ?_) _ (forEach_since (fun k s hs => State.withFld_since (State.modCtrl_since hs fun x hx => ?_)) _
    (State.meshLost_since (forEach_since (fun d s hs => State.clearDie_since hs) _ (State.withFld_since (State.withFld_since
      (State.withPins_since h1))))))
  · split <;> simp [hs]
  · first | exact hx | simp | rfl

theorem execVinLow_since {o s : State}  (h : Since o s) : ∀ {t}, execVinLow s = .next t → Since o t := by
  intro t e
  unfold execVinLow at e
  cases e
  simp (maxDischargeDepth := 99) [h]

theorem execRegFault_since {o s : State}  (h : Since o s) : ∀ {t}, execRegFault s = .next t → Since o t := by
  intro t e
  unfold execRegFault at e
  cases e
  simp (maxDischargeDepth := 99) [h]

@[simp] theorem State.portsDown_since {o s : State} {a1} (h : Since o s) : Since o (State.portsDown s a1) := by
  unfold State.portsDown
  simp (maxDischargeDepth := 99) +contextual [h]

@[simp] theorem State.enterKeep_since {o s : State}  (h : Since o s) : Since o (State.enterKeep s) := by
  unfold State.enterKeep
  simp (maxDischargeDepth := 99) +contextual [h]

@[simp] theorem State.enterRun_since {o s : State}  (h : Since o s) : Since o (State.enterRun s) := by
  unfold State.enterRun
  simp (maxDischargeDepth := 99) +contextual [h]

@[simp] theorem State.powerRequest_since {o s : State} {a1} {a2} (h : Since o s) : Since o (State.powerRequest s a1 a2) := by
  unfold State.powerRequest
  simp (maxDischargeDepth := 99) [h]

theorem execKeepRequest_since {o s : State} {a0} (h : Since o s) : ∀ {t}, execKeepRequest a0 s = .next t → Since o t := by
  intro t e
  unfold execKeepRequest at e
  cases e
  simp (maxDischargeDepth := 99) [h]

theorem execRunRequest_since {o s : State} {a0} (h : Since o s) : ∀ {t}, execRunRequest a0 s = .next t → Since o t := by
  intro t e
  unfold execRunRequest at e
  cases e
  simp (maxDischargeDepth := 99) [h]

@[simp] theorem State.senseOne_since {o s : State} {a1} {a2} (h : Since o s) : Since o (State.senseOne s a1 a2) := by
  unfold State.senseOne
  simp (maxDischargeDepth := 99) [h]

@[simp] theorem State.throttleOf_since {o s : State} {a1} {a2} (h : Since o s) : Since o (State.throttleOf s a1 a2) := by
  unfold State.throttleOf
  simp (maxDischargeDepth := 99) [h]

@[simp] theorem State.trip_since {o s : State}  (h : Since o s) : Since o (State.trip s) := by
  unfold State.trip
  simp (maxDischargeDepth := 99) [h]

@[simp] theorem State.thermal_since {o s : State} {a1} {a2} (h : Since o s) : Since o (State.thermal s a1 a2) := by
  unfold State.thermal
  simp (maxDischargeDepth := 99) +contextual [h]

theorem execThermalSample_since {o s : State} {a0} {a1} (h : Since o s) : ∀ {t}, execThermalSample a0 a1 s = .next t → Since o t := by
  intro t e
  unfold execThermalSample at e
  cases e
  simp (maxDischargeDepth := 99) [h]

@[simp] theorem State.tempMaxClear_since {o s : State} {a1} (h : Since o s) : Since o (State.tempMaxClear s a1) := by
  unfold State.tempMaxClear
  simp (maxDischargeDepth := 99) [h]

theorem execTempMaxClear_since {o s : State} {a0} {a1} {a2} (h : Since o s) : ∀ {t}, execTempMaxClear a0 a1 a2 s = .next t → Since o t := by
  intro t e
  unfold execTempMaxClear at e
  cases e
  simp (maxDischargeDepth := 99) [h]

end Sys2Proof.Machine
end

