-- ==== Sys2Proof/Laws/SincePeephole.lean ====
section
/-! SUPPORT. What the operations of `Machine/Peephole.lean` keep. -/

namespace Sys2Proof.Machine

set_option linter.unusedSimpArgs false
set_option linter.unusedTactic false
set_option linter.unreachableTactic false
set_option linter.unnecessarySeqFocus false

@[simp] theorem State.freezeEnds_since {o s : State} {a1} (h : Since o s) : Since o (State.freezeEnds s a1) := by
  unfold State.freezeEnds
  simp only []
  split
  · exact State.raiseIrq_since (State.withFld_since (State.withTraceUnit_since h (h.bufTrace a1)))
  · exact h

@[simp] theorem State.traceStore_since {o s : State} {a1} (h : Since o s) : Since o (State.traceStore s a1) := by
  unfold State.traceStore
  simp only []
  split
  · rename_i r l w hb hw
    split
    · exact h
    · have hl : l.length ≤ 256 := by
        have := h.bufTrace a1
        rw [hb] at this
        exact (Nat.le_succ _).trans this
      have h1 := State.withTraceUnit_since (k := a1) (x := { s.traceUnit a1 with buffered := l }) (State.hbmWrite_since
        (a1 := nth w.stacks 0 0) (a2 := w.base * unitBytes + 32 * s.fld (dieReg a1 Reg.peeDieWrptr) 31 0) (a3 := r) h) hl
      split
      · exact State.freezeEnds_since (State.withFld_since h1)
      · split
        · exact State.freezeEnds_since (State.raiseIrq_since (State.modTraceUnit_since (State.withFld_since h1) fun x hx => hx))
        · exact State.freezeEnds_since (State.bump_since (State.withFld_since h1))
  · simp [h]

theorem execTraceStore_since {o s : State} {a0} (h : Since o s) : ∀ {t}, execTraceStore a0 s = .next t → Since o t := by
  intro t e
  unfold execTraceStore at e
  cases e
  simp (maxDischargeDepth := 99) [h]

@[simp] theorem State.freeze_since {o s : State} {a1} (h : Since o s) : Since o (State.freeze s a1) := by
  unfold State.freeze
  simp (maxDischargeDepth := 99) +contextual [h]

theorem execPeeFreeze_since {o s : State} {a0} {a1} (h : Since o s) : ∀ {t}, execPeeFreeze a0 a1 s = .next t → Since o t := by
  intro t e
  unfold execPeeFreeze at e
  cases e
  simp (maxDischargeDepth := 99) [h]

theorem execPtpEventMessageSend_since {o s : State} {a0} {a1} (h : Since o s) : ∀ {t}, execPtpEventMessageSend a0 a1 s = .next t → Since o t := by
  intro t e
  unfold execPtpEventMessageSend at e
  cases e
  simp (maxDischargeDepth := 99) [h]

end Sys2Proof.Machine
end

