-- ==== Sys2Proof/Laws/SinceHost.lean ====
section
/-! SUPPORT. What the operations of `Machine/Host.lean` keep. -/

namespace Sys2Proof.Machine

set_option linter.unusedSimpArgs false
set_option linter.unusedTactic false
set_option linter.unreachableTactic false
set_option linter.unnecessarySeqFocus false

@[simp] theorem State.bumpB4_since {o s : State} {a1} (h : Since o s) : Since o (State.bumpB4 s a1) := by
  unfold State.bumpB4
  simp (maxDischargeDepth := 99) [h]

@[simp] theorem State.withB4Fld_since {o s : State} {a1} {a2} {a3} {a4} (h : Since o s) : Since o (State.withB4Fld s a1 a2 a3 a4) := by
  unfold State.withB4Fld
  simp (maxDischargeDepth := 99) [h]

@[simp] theorem State.queueErrs_since {o s : State} {a1} {a2} (h : Since o s) : Since o (State.queueErrs s a1 a2) := by
  unfold State.queueErrs
  simp (maxDischargeDepth := 99) [h]

@[simp] theorem State.queueWrite_since {o s : State} {a1} {a2} {a3} (h : Since o s) : Since o (State.queueWrite s a1 a2 a3) := by
  unfold State.queueWrite
  simp only []
  split
  · split
    · simp [h]
    · split
      · exact h
      · refine State.withSqHeld_since (by simp [h]) ?_
        split
        · exact h.sqHeldOrd
        · exact keysFrom_filter _ h.sqHeldOrd
  · simp [h]

theorem execQueueEnable_since {o s : State} {a0} {a1} {a2} (h : Since o s) : ∀ {t}, execQueueEnable a0 a1 a2 s = .next t → Since o t := by
  intro t e
  unfold execQueueEnable at e
  cases e
  simp (maxDischargeDepth := 99) [h]

@[simp] theorem State.doorbell_since {o s : State} {a1} {a2} {a3} (h : Since o s) : Since o (State.doorbell s a1 a2 a3) := by
  unfold State.doorbell
  simp (maxDischargeDepth := 99) [h]

theorem execSqTail_since {o s : State} {a0} {a1} (h : Since o s) : ∀ {t}, execSqTail a0 a1 s = .next t → Since o t := by
  intro t e
  unfold execSqTail at e
  cases e
  simp (maxDischargeDepth := 99) [h]

theorem execHrqHead_since {o s : State} {a0} {a1} (h : Since o s) : ∀ {t}, execHrqHead a0 a1 s = .next t → Since o t := by
  intro t e
  unfold execHrqHead at e
  cases e
  simp (maxDischargeDepth := 99) [h]

@[simp] theorem State.entryDone_since {o s : State} {a1} {a2} (h : Since o s) : Since o (State.entryDone s a1 a2) := by
  unfold State.entryDone
  simp only []
  have h1 := State.withSqHeld_since h (keysFrom_filter (fun x => x.1 != a1) h.sqHeldOrd)
  split
  · exact State.withB4_since (State.emit_since h1)
  · exact State.raiseIrq_since (State.withB4_since (State.emit_since h1))

@[simp] theorem State.deliverEntry_since {o s : State} {a1} {a2} (h : Since o s) : Since o (State.deliverEntry s a1 a2).1 := by
  unfold State.deliverEntry
  simp (maxDischargeDepth := 99) [h]

@[simp] theorem State.serveEntry_since {o s : State} {a1} {a2} (h : Since o s) : Since o (State.serveEntry s a1 a2) := by
  unfold State.serveEntry
  simp only []
  have h1 := State.deliverEntry_since (a1 := a1) (a2 := a2) h
  split
  · exact State.withSqHeld_since h1 (keysFrom_mapPut _ _ _ (Nat.zero_le _) h1.sqHeldOrd)
  · exact State.entryDone_since h1

@[simp] theorem State.startEntry_since {o s : State} {a1} {a2} {a3} (h : Since o s) : Since o (State.startEntry s a1 a2 a3) := by
  unfold State.startEntry
  simp (maxDischargeDepth := 99) [h]

theorem execStartQueueEntry_since {o s : State} {a0} {a1} {a2} (h : Since o s) : ∀ {t}, execStartQueueEntry a0 a1 a2 s = .next t → Since o t := by
  intro t e
  unfold execStartQueueEntry at e
  cases e
  simp (maxDischargeDepth := 99) [h]

@[simp] theorem State.reoffer_since {o s : State} {a1} (h : Since o s) : Since o (State.reoffer s a1) := by
  unfold State.reoffer
  split <;> simp (maxDischargeDepth := 99) +contextual [h]

theorem execTrigBusyReoffer_since {o s : State} {a0} (h : Since o s) : ∀ {t}, execTrigBusyReoffer a0 s = .next t → Since o t := by
  intro t e
  unfold execTrigBusyReoffer at e
  cases e
  simp (maxDischargeDepth := 99) [h]

@[simp] theorem State.unmask_since {o s : State} {a1} (h : Since o s) : Since o (State.unmask s a1) := by
  unfold State.unmask
  simp (maxDischargeDepth := 99) [h]

theorem execMsixUnmask_since {o s : State} {a0} (h : Since o s) : ∀ {t}, execMsixUnmask a0 s = .next t → Since o t := by
  intro t e
  unfold execMsixUnmask at e
  cases e
  simp (maxDischargeDepth := 99) [h]

@[simp] theorem State.bar4Write_since {o s : State} {a1} {a2} (h : Since o s) : Since o (State.bar4Write s a1 a2) := by
  unfold State.bar4Write
  (repeat' split) <;> simp (maxDischargeDepth := 99) +contextual [h]

@[simp] theorem State.bar2_since {o s : State} {a1} {a2} {a3} {a4} {a5} (h : Since o s) : Since o (State.bar2 s a1 a2 a3 a4 a5) := by
  unfold State.bar2
  simp only []
  (repeat' split) <;> simp (maxDischargeDepth := 99) +contextual [*, Since.memCtrl (o := o), Since.memTile (o := o)]

theorem execBar2Access_since {o s : State} {a0} {a1} {a2} {a3} {a4} (h : Since o s) : ∀ {t}, execBar2Access a0 a1 a2 a3 a4 s = .next t → Since o t := by
  intro t e
  unfold execBar2Access at e
  cases e
  simp (maxDischargeDepth := 99) [h]

@[simp] theorem State.queuesOff_since {o s : State}  (h : Since o s) : Since o (State.queuesOff s) := by
  unfold State.queuesOff
  refine forEach_since (fun q s hs => by simp (maxDischargeDepth := 99) [hs]) _ (State.withSqHeld_since (forEach_since (fun q s hs => by simp (maxDischargeDepth := 99) [hs]) _ h) rfl)

@[simp] theorem State.hostReset_since {o s : State}  (h : Since o s) : Since o (State.hostReset s) := by
  unfold State.hostReset
  simp (maxDischargeDepth := 99) +contextual [h]

theorem execFunctionLevelReset_since {o s : State}  (h : Since o s) : ∀ {t}, execFunctionLevelReset s = .next t → Since o t := by
  intro t e
  unfold execFunctionLevelReset at e
  try simp only [] at e
  repeat' split at e
  all_goals
    injection e with e
    subst e
    simp (maxDischargeDepth := 99) +contextual [h, Since.memCtrl (o := o), Since.memTile (o := o)]

end Sys2Proof.Machine
end

