-- ==== Sys2Proof/Laws/SinceAccess.lean ====
section
/-! SUPPORT. What the operations of `Machine/Access.lean` keep. -/

namespace Sys2Proof.Machine

set_option linter.unusedSimpArgs false
set_option linter.unusedTactic false
set_option linter.unreachableTactic false
set_option linter.unnecessarySeqFocus false

@[simp] theorem State.readClear_since {o s : State} {a1} {a2} {a3} (h : Since o s) : Since o (State.readClear s a1 a2 a3) := by
  unfold State.readClear
  split <;> simp (maxDischargeDepth := 99) +contextual [h]

@[simp] theorem State.allocRead_since {o s : State} {a1} {a2} (h : Since o s) : Since o (State.allocRead s a1 a2).1 := by
  unfold State.allocRead
  exact State.hmAlloc_since (a1 := a1) (a2 := a2) h

@[simp] theorem State.readRow_since {o s : State} {a1} {a2} {a3} {a4} {a5} {a6} (h : Since o s) : Since o (State.readRow s a1 a2 a3 a4 a5 a6).1 := by
  unfold State.readRow
  exact ite_since_fst (State.badAccess_since h) (ite_since_fst (State.badAccess_since h) (ite_since_fst (State.allocRead_since h) (State.readClear_since h)))

@[simp] theorem State.regRead_since {o s : State} {a1} {a2} {a3} (h : Since o s) : Since o (State.regRead s a1 a2 a3).1 := by
  unfold State.regRead
  split
  · exact State.readRow_since h
  · exact State.badAccess_since h

@[simp] theorem State.bar4Read_since {o s : State} {a1} {a2} (h : Since o s) : Since o (State.bar4Read s a1 a2).1 := by
  unfold State.bar4Read
  simp only []
  (repeat' split) <;> simp (maxDischargeDepth := 99) +contextual [*, Since.memCtrl (o := o), Since.memTile (o := o)]

theorem execRcRegisterRead_since {o s : State} {a0} {a1} {a2} (h : Since o s) : ∀ {t}, execRcRegisterRead a0 a1 a2 s = .next t → Since o t := by
  intro t e
  unfold execRcRegisterRead at e
  cases e
  simp (maxDischargeDepth := 99) [h]

@[simp] theorem State.storeIf_since {o s : State} {a1} {a2} {a3} {a4} (h : Since o s) : Since o (State.storeIf s a1 a2 a3 a4) := by
  unfold State.storeIf
  simp (maxDischargeDepth := 99) [h]

@[simp] theorem State.imageWrite_since {o s : State} {a1} {a2} (h : Since o s) : Since o (State.imageWrite s a1 a2) := by
  unfold State.imageWrite
  simp (maxDischargeDepth := 99) [h]

@[simp] theorem State.barrierCtrl_since {o s : State} {a1} {a2} (h : Since o s) : Since o (State.barrierCtrl s a1 a2) := by
  unfold State.barrierCtrl
  simp (maxDischargeDepth := 99) [h]

@[simp] theorem State.writePackage_since {o s : State} {a1} {a2} {a3} (h : Since o s) : Since o (State.writePackage s a1 a2 a3) := by
  unfold State.writePackage
  simp (maxDischargeDepth := 99) [h]

@[simp] theorem State.chkWrites_since {o s : State} {a1} {a2} {a3} {a4} {a5} (h : Since o s) : Since o (State.chkWrites s a1 a2 a3 a4 a5) := by
  unfold State.chkWrites
  split <;> simp (maxDischargeDepth := 99) +contextual [h]

@[simp] theorem State.writeTileDie_since {o s : State} {a1} {a2} {a3} {a4} {a5} (h : Since o s) : Since o (State.writeTileDie s a1 a2 a3 a4 a5) := by
  unfold State.writeTileDie
  simp (maxDischargeDepth := 99) [h]

@[simp] theorem State.ftmCtrlWrite_since {o s : State} {a1} {a2} {a3} (h : Since o s) : Since o (State.ftmCtrlWrite s a1 a2 a3) := by
  unfold State.ftmCtrlWrite
  simp (maxDischargeDepth := 99) [h]

@[simp] theorem State.portFcWrite_since {o s : State} {a1} {a2} {a3} {a4} (h : Since o s) : Since o (State.portFcWrite s a1 a2 a3 a4) := by
  unfold State.portFcWrite
  simp only []
  (repeat' split) <;> simp (maxDischargeDepth := 99) +contextual [*, Since.memCtrl (o := o), Since.memTile (o := o)]

@[simp] theorem State.shutterCtrl_since {o s : State} {a1} {a2} {a3} (h : Since o s) : Since o (State.shutterCtrl s a1 a2 a3) := by
  unfold State.shutterCtrl
  simp (maxDischargeDepth := 99) [h]

@[simp] theorem State.writeShutter_since {o s : State} {a1} {a2} {a3} {a4} {a5} (h : Since o s) : Since o (State.writeShutter s a1 a2 a3 a4 a5) := by
  unfold State.writeShutter
  simp (maxDischargeDepth := 99) [h]

@[simp] theorem State.writeSched_since {o s : State} {a1} {a2} {a3} {a4} {a5} (h : Since o s) : Since o (State.writeSched s a1 a2 a3 a4 a5) := by
  unfold State.writeSched
  simp (maxDischargeDepth := 99) [h]

@[simp] theorem State.routeCtrl_since {o s : State} {a1} {a2} (h : Since o s) : Since o (State.routeCtrl s a1 a2) := by
  unfold State.routeCtrl
  simp (maxDischargeDepth := 99) [h]

@[simp] theorem State.writePortLow_since {o s : State} {a1} {a2} {a3} {a4} {a5} (h : Since o s) : Since o (State.writePortLow s a1 a2 a3 a4 a5) := by
  unfold State.writePortLow
  simp (maxDischargeDepth := 99) [h]

@[simp] theorem State.writePortDie_since {o s : State} {a1} {a2} {a3} {a4} {a5} (h : Since o s) : Since o (State.writePortDie s a1 a2 a3 a4 a5) := by
  unfold State.writePortDie
  simp (maxDischargeDepth := 99) [h]

@[simp] theorem State.writeTile_since {o s : State} {a1} {a2} {a3} {a4} {a5} (h : Since o s) : Since o (State.writeTile s a1 a2 a3 a4 a5) := by
  unfold State.writeTile
  (repeat' split) <;> simp (maxDischargeDepth := 99) +contextual [h]

@[simp] theorem State.regEffect_since {o s : State} {a1} {a2} {a3} {a4} {a5} (h : Since o s) : Since o (State.regEffect s a1 a2 a3 a4 a5) := by
  unfold State.regEffect
  (repeat' split) <;> simp (maxDischargeDepth := 99) +contextual [h]

@[simp] theorem State.regWrite_since {o s : State} {a1} {a2} {a3} {a4} (h : Since o s) : Since o (State.regWrite s a1 a2 a3 a4) := by
  unfold State.regWrite
  simp only []
  (repeat' split) <;> simp (maxDischargeDepth := 99) +contextual [*, Since.memCtrl (o := o), Since.memTile (o := o)]

@[simp] theorem State.bar4Access_since {o s : State} {a1} {a2} {a3} (h : Since o s) : Since o (State.bar4Access s a1 a2 a3) := by
  unfold State.bar4Access
  simp only []
  (repeat' split) <;> simp (maxDischargeDepth := 99) [h]

theorem execPlainRegisterWrite_since {o s : State} {a0} {a1} {a2} {a3} (h : Since o s) : ∀ {t}, execPlainRegisterWrite a0 a1 a2 a3 s = .next t → Since o t := by
  intro t e
  unfold execPlainRegisterWrite at e
  cases e
  simp (maxDischargeDepth := 99) [h]

end Sys2Proof.Machine
end

