-- ==== Sys2Proof/Laws/SincePorter.lean ====
section
/-! SUPPORT. What the operations of `Machine/Porter.lean` keep. -/

namespace Sys2Proof.Machine

set_option linter.unusedSimpArgs false
set_option linter.unusedTactic false
set_option linter.unreachableTactic false
set_option linter.unnecessarySeqFocus false

theorem KeySlot.keeps_trans {x y z : KeySlot} (h : x.keeps y = true) (k : y.keeps z = true) : x.keeps z = true := by
  simp only [KeySlot.keeps, Bool.and_eq_true, Bool.or_eq_true, Bool.not_eq_true', beq_iff_eq] at *
  refine ⟨?_, ?_⟩
  · rcases h.1 with h1 | h1
    · exact .inl h1
    · rcases k.1 with k1 | k1
      · rw [h1.1] at k1
        cases k1
      · exact .inr ⟨k1.1, k1.2.trans h1.2⟩
  · rcases h.2 with h1 | h1
    · exact .inl h1
    · rcases k.2 with k1 | k1
      · rw [h1] at k1
        cases k1
      · exact .inr k1

theorem keysKept_set {y : KeySlot} : ∀ {a b : List KeySlot} {k : Nat}, keysKept a b = true → (∀ x, b[k]? = some x → x.keeps y = true) →
    keysKept a (b.set k y) = true
  | [], b, k, h, _ => by
    have hb : b = [] := by
      cases b with
      | nil => rfl
      | cons _ _ => cases h
    subst hb
    exact h
  | x :: a, [], k, h, _ => by cases h
  | x :: a, z :: b, 0, h, hk => by
    simp only [keysKept, List.length_cons, Nat.add_right_cancel_iff, List.zip_cons_cons, List.all_cons, Bool.and_eq_true, beq_iff_eq,
      List.set_cons_zero] at h ⊢
    exact ⟨h.1, KeySlot.keeps_trans h.2.1 (hk z rfl), h.2.2⟩
  | x :: a, z :: b, k + 1, h, hk => by
    have ih := keysKept_set (y := y) (a := a) (b := b) (k := k)
    simp only [keysKept, List.length_cons, Nat.add_right_cancel_iff, List.zip_cons_cons, List.all_cons, Bool.and_eq_true, beq_iff_eq,
      List.set_cons_succ] at h ih ⊢
    have := ih ⟨h.1, h.2.2⟩ fun w hw => hk w (by simpa using hw)
    exact ⟨this.1, h.2.1, this.2⟩

@[simp] theorem State.porterRead_since {o s : State} {a1} {a2} (h : Since o s) : Since o (State.porterRead s a1 a2).1 := by
  unfold State.porterRead
  simp (maxDischargeDepth := 99) +contextual [h]

@[simp] theorem State.porterWrite_since {o s : State} {a1} {a2} {a3} (h : Since o s) : Since o (State.porterWrite s a1 a2 a3) := by
  unfold State.porterWrite
  simp (maxDischargeDepth := 99) +contextual [h]

theorem State.viewPut_since {o s : State} {a1} {a2} (h : Since o s) : ∀ {t}, State.viewPut s a1 a2 = some t → Since o t := by
  intro t e
  unfold State.viewPut at e
  simp only [] at e
  split at e
  · injection e with e
    subst e
    exact State.withPorter_since h h.keys h.queueLe h.sendersLe ((List.length_map _).trans_le h.viewsLe) h.keysLen
  · split at e
    · cases e
    · injection e with e
      subst e
      exact State.withPorter_since h h.keys h.queueLe h.sendersLe (by
        simp only [List.length_append, List.length_singleton]
        omega) h.keysLen

theorem State.withKey_since {o s : State} {k : Nat} {y : KeySlot} (hy : ∀ x, s.porter.keys[k]? = some x → x.keeps y = true) (h : Since o s) :
    Since o (s.withKey k y) := by
  unfold State.withKey
  exact State.withPorter_since h (keysKept_set h.keys hy) h.queueLe h.sendersLe h.viewsLe ((List.length_set ..).trans h.keysLen)

theorem State.keyBlow_since {o s : State} {k : Nat} {hash : Option Bytes}
    (hp : hash.isSome = true → (nth s.porter.keys k ⟨[], false, false⟩).programmed = false) (h : Since o s) : Since o (s.keyBlow k hash) := by
  unfold State.keyBlow
  simp only []
  have hn (x : KeySlot) (hx : s.porter.keys[k]? = some x) : nth s.porter.keys k ⟨[], false, false⟩ = x := by
    unfold nth
    rw [hx]
    rfl
  split
  · refine State.withKey_since (fun x hx => ?_) h
    have hp := hp rfl
    rw [hn x hx] at hp ⊢
    simp [KeySlot.keeps, hp, Bool.or_comm]
  · refine State.withKey_since (fun x hx => ?_) h
    rw [hn x hx]
    simp [KeySlot.keeps, Bool.or_comm]

theorem State.porterView_since {o s : State} {w : Nat} {f : Unit6 → Option State} {g : Unit6 → Bytes}
    (hf : ∀ u t, f u = some t → Since o t) (h : Since o s) : Since o (s.porterView w f g).1 := by
  unfold State.porterView
  split
  · split
    · rename_i e
      exact hf _ _ e
    · exact h
  · split <;> simp [h]

@[simp] theorem State.porterKey_since {o s : State} {a1} {a2} {a3} (h : Since o s) : Since o (State.porterKey s a1 a2 a3).1 := by
  unfold State.porterKey
  simp only []
  split
  · rename_i h0
    refine State.keyBlow_since (fun hs => ?_) h
    unfold State.keyStatus at h0
    rw [hs] at h0
    simp only [] at h0
    generalize nth s.porter.keys a2 ⟨[], false, false⟩ = x at h0 ⊢
    cases hx : x.programmed with
    | false => rfl
    | true =>
      simp only [hx, if_true] at h0
      (repeat' split at h0) <;> cases h0
  · exact h

@[simp] theorem State.porterTrace_since {o s : State} {a1} {a2} (h : Since o s) : Since o (State.porterTrace s a1 a2).1 := by
  unfold State.porterTrace
  simp (maxDischargeDepth := 99) [h]

@[simp] theorem State.porterDo_since {o s : State} {a1} {a2} (h : Since o s) : Since o (State.porterDo s a1 a2).1 := by
  unfold State.porterDo
  split
  · simp [h]
  · simp [h]
  · exact State.porterView_since (fun u t e => by
      cases e
      exact h) h
  · exact State.porterView_since (fun u t e => State.viewPut_since h e) h
  · exact State.porterKey_since h
  · exact State.porterKey_since h
  · exact State.porterTrace_since h

@[simp] theorem State.porterRun_since {o s : State} {a1} {a2} (h : Since o s) : Since o (State.porterRun s a1 a2).1 := by
  unfold State.porterRun
  simp (maxDischargeDepth := 99) [h]

@[simp] theorem State.porterServe_since {o s : State} {a1} {a2} (h : Since o s) : Since o (State.porterServe s a1 a2) := by
  unfold State.porterServe
  simp only []
  split
  · simp [h]
  · have h1 := State.porterRun_since (a1 := a1) (a2 := porterReq a2) h
    refine State.emit_since (State.withPorter_since h1 h1.keys h1.queueLe ?_ h1.viewsLe h1.keysLen)
    have hl := (List.length_filter_le (fun x : Sender × Nat × Bytes => x.1 != a1) (s.porterRun a1 (porterReq a2)).1.porter.senders).trans h1.sendersLe
    unfold keepSender
    simp only []
    split <;> simp only [List.length_append, List.length_drop, List.length_singleton] <;> omega

@[simp] theorem State.porterTurn_since {o s : State}  (h : Since o s) : Since o (State.porterTurn s) := by
  unfold State.porterTurn
  split
  · exact h
  · rename_i e
    split
    · exact h
    · refine State.porterServe_since (State.withPorter_since h h.keys ?_ h.sendersLe h.viewsLe h.keysLen)
      have := h.queueLe
      rw [e] at this
      exact (Nat.le_succ _).trans this

@[simp] theorem State.porterDrain_since {o s : State}  (h : Since o s) : Since o (State.porterDrain s) := by
  unfold State.porterDrain
  simp (maxDischargeDepth := 99) +contextual [h]

@[simp] theorem State.porterArrives_since {o s : State} {a1} {a2} (h : Since o s) : Since o (State.porterArrives s a1 a2) := by
  unfold State.porterArrives
  split
  · refine State.withPorter_since h h.keys ?_ h.sendersLe h.viewsLe h.keysLen
    simp only [List.length_append, List.length_singleton]
    omega
  · split <;> simp [h]

@[simp] theorem State.porterRequest_since {o s : State} {a1} {a2} (h : Since o s) : Since o (State.porterRequest s a1 a2) := by
  unfold State.porterRequest
  simp (maxDischargeDepth := 99) [h]

theorem execPorterMessage_since {o s : State} {a0} {a1} (h : Since o s) : ∀ {t}, execPorterMessage a0 a1 s = .next t → Since o t := by
  intro t e
  unfold execPorterMessage at e
  cases e
  simp (maxDischargeDepth := 99) [h]

theorem execRegRead_since {o s : State} {a0} {a1} {a2} {a3} (h : Since o s) : ∀ {t}, execRegRead a0 a1 a2 a3 s = .next t → Since o t := by
  intro t e
  unfold execRegRead at e
  cases e
  simp (maxDischargeDepth := 99) [h]

theorem execRegWrite_since {o s : State} {a0} {a1} {a2} {a3} (h : Since o s) : ∀ {t}, execRegWrite a0 a1 a2 a3 s = .next t → Since o t := by
  intro t e
  unfold execRegWrite at e
  cases e
  simp (maxDischargeDepth := 99) [h]

theorem execViewRead_since {o s : State} {a0} {a1} {a2} (h : Since o s) : ∀ {t}, execViewRead a0 a1 a2 s = .next t → Since o t := by
  intro t e
  unfold execViewRead at e
  cases e
  simp (maxDischargeDepth := 99) [h]

theorem execViewSet_since {o s : State} {a0} {a1} {a2} {a3} (h : Since o s) : ∀ {t}, execViewSet a0 a1 a2 a3 s = .next t → Since o t := by
  intro t e
  unfold execViewSet at e
  cases e
  simp (maxDischargeDepth := 99) [h]

theorem execKeyProgram_since {o s : State} {a0} {a1} {a2} {a3} (h : Since o s) : ∀ {t}, execKeyProgram a0 a1 a2 a3 s = .next t → Since o t := by
  intro t e
  unfold execKeyProgram at e
  cases e
  simp (maxDischargeDepth := 99) [h]

theorem execKeyRevoke_since {o s : State} {a0} {a1} {a2} (h : Since o s) : ∀ {t}, execKeyRevoke a0 a1 a2 s = .next t → Since o t := by
  intro t e
  unfold execKeyRevoke at e
  cases e
  simp (maxDischargeDepth := 99) [h]

theorem execTraceRead_since {o s : State} {a0} {a1} {a2} {a3} (h : Since o s) : ∀ {t}, execTraceRead a0 a1 a2 a3 s = .next t → Since o t := by
  intro t e
  unfold execTraceRead at e
  cases e
  simp (maxDischargeDepth := 99) [h]

theorem execNeighbourDiscovery_since {o s : State} {a0} (h : Since o s) : ∀ {t}, execNeighbourDiscovery a0 s = .next t → Since o t := by
  intro t e
  unfold execNeighbourDiscovery at e
  cases e
  simp (maxDischargeDepth := 99) [h]

end Sys2Proof.Machine
end

