-- ==== Sys2Proof/Laws/SinceTick.lean ====
section
/-! SUPPORT. What the operations of `Machine/Tick.lean` keep. -/

namespace Sys2Proof.Machine

set_option linter.unusedSimpArgs false
set_option linter.unusedTactic false
set_option linter.unreachableTactic false
set_option linter.unnecessarySeqFocus false

@[simp] theorem State.timePasses_since {o s : State}  (h : Since o s) : Since o (State.timePasses s) := by
  unfold State.timePasses
  simp (maxDischargeDepth := 99) [h]

@[simp] theorem State.refill_since {o s : State} {a1} {a2} {a3} (h : Since o s) : Since o (State.refill s a1 a2 a3) := by
  unfold State.refill
  simp (maxDischargeDepth := 99) [h]

@[simp] theorem State.refillAll_since {o s : State}  (h : Since o s) : Since o (State.refillAll s) := by
  unfold State.refillAll
  simp (maxDischargeDepth := 99) +contextual [h]

@[simp] theorem State.runCounts_since {o s : State}  (h : Since o s) : Since o (State.runCounts s) := by
  unfold State.runCounts
  simp (maxDischargeDepth := 99) [h]

@[simp] theorem State.pinnedCounts_since {o s : State}  (h : Since o s) : Since o (State.pinnedCounts s) := by
  unfold State.pinnedCounts
  simp (maxDischargeDepth := 99) +contextual [h]

@[simp] theorem State.capCounts_since {o s : State}  (h : Since o s) : Since o (State.capCounts s) := by
  unfold State.capCounts
  simp (maxDischargeDepth := 99) [h]

@[simp] theorem State.blockCounts_since {o s : State} {a1} (h : Since o s) : Since o (State.blockCounts s a1) := by
  unfold State.blockCounts
  simp (maxDischargeDepth := 99) [h]

@[simp] theorem State.counts_since {o s : State}  (h : Since o s) : Since o (State.counts s) := by
  unfold State.counts
  simp (maxDischargeDepth := 99) +contextual [h]

@[simp] theorem State.period_since {o s : State}  (h : Since o s) : Since o (State.period s) := by
  unfold State.period
  simp (maxDischargeDepth := 99) [h]

end Sys2Proof.Machine
end

