-- ==== Sys2Proof/WellFormed.lean ====
section
/-! DEFINITION. When a command's operands name units that exist. Accesses carry any address and value: an unmapped
address is a legal access (R8). -/

namespace Sys2Proof

/-- A physical tile number: 16 dies of 2,304 physical tiles (R24). -/
def okTile (t : Nat) : Bool := decide (t < 36864)

/-- A context number (R128). -/
def okCtx (c : Nat) : Bool := decide (c < 4)

/-- A group entry (R182). -/
def okGroup (e : Nat) : Bool := decide (e < 256)

/-- A port number n × 32 + q (R233). -/
def okPort (p : Nat) : Bool := decide (p < 128)

/-- A port die. -/
def okPortDie (n : Nat) : Bool := decide (n < 4)

/-- An HBM stack (R317). -/
def okStack (k : Nat) : Bool := decide (k < 12)

/-- A die index (R12). -/
def okDie (d : Nat) : Bool := decide (d < 20)

/-- A part of a die's configuration: a PARTITION section is one of an owner other than the device (R47). -/
def okPart : ConfigPart → Bool
  | .partition o => decide (1 ≤ o) && decide (o < 64)
  | _ => true

/-- A traffic class. -/
def okClass (c : Nat) : Bool := decide (c < 8)

/-- A width of an access in bits; other widths are unmapped accesses (R7). -/
def okWidth (w : Nat) : Bool := decide (0 < w)

/-- A check-value unit: 16 × port die + u, or 64 + 16 × stack + u (R331). -/
def okChk (u : Nat) : Bool := decide (u < 256)

/-- A frame whose header fields fit their widths (Table 9-3). -/
def okFrame (f : Frame) : Bool :=
  decide (f.kind < 16) && decide (f.cls < 8) && decide (f.vc < 2) && decide (f.dest < 16384) && decide (f.src < 16384) &&
    decide (f.flow < 2 ^ 20) && decide (f.origin < 2 ^ 64)

/-- An HBM access: a read is at most 1,024 B, atomics act on 64-bit values (R290, R291). -/
def okHbmOp : HbmOp → Bool
  | .read len _ => decide (len ≤ 1024)
  | .write data => decide (data.length ≤ 1024)
  | .fetchAdd v => decide (v < 2 ^ 64)
  | .cas cmp swap => decide (cmp < 2 ^ 64) && decide (swap < 2 ^ 64)

/-- A scope that names a unit of the package. -/
def okScope : Scope → Bool
  | .tile t => okTile t
  | .block b => decide (b < 512)
  | .sector s => decide (s < 64)
  | .die d => okDie d
  | .partition o => decide (o < 64)

/-- SEQ of a porter message. -/
def okSeq (n : Nat) : Bool := decide (n < 65536)

/-- The command's operands name units that exist. -/
def Instr.wf : Instr → Bool
  | .plainRegisterWrite _ _ width _ => okWidth width
  | .rcRegisterRead _ _ width => okWidth width
  | .latticeSlot owner => decide (owner < 64)
  | .meshFlitForward st _ => decide (st < 608)
  | .start _ => true
  | .abort _ => true
  | .transferDone _ _ => true
  | .prepareComplete => true
  | .latchLead => true
  | .latch => true
  | .tileStateCopyEnd => true
  | .scrubPass die l => okDie die && l.all fun u => okPart u.part
  | .descriptorFetch t c which _ => okTile t && okCtx c && decide (which < 3)
  | .descriptorIssue t => okTile t
  | .loopIteration t c _ => okTile t && okCtx c
  | .descriptorComplete t c => okTile t && okCtx c
  | .summarySlotWrite t slot => okTile t && decide (slot < 4)
  | .selectResolve t c => okTile t && okCtx c
  | .graphStart t => okTile t
  | .periodicStart t timer => okTile t && decide (timer < 2)
  | .lateStart t timer => okTile t && decide (timer < 2)
  | .handlerStart t => okTile t
  | .stop _ t => okTile t
  | .dscCntSelect _ t id _ => okTile t && decide (id < 16)
  | .dscCntAdd _ t id _ => okTile t && decide (id < 16)
  | .dscCntSet _ t id _ => okTile t && decide (id < 16)
  | .nop t c => okTile t && okCtx c
  | .select t c => okTile t && okCtx c
  | .setmode t c => okTile t && okCtx c
  | .cmpset t c => okTile t && okCtx c
  | .cntset t c => okTile t && okCtx c
  | .periodic t c => okTile t && okCtx c
  | .trigger t c => okTile t && okCtx c
  | .mma t c => okTile t && okCtx c
  | .gangResume t => okTile t
  | .prune t c => okTile t && okCtx c
  | .add t c => okTile t && okCtx c
  | .sub t c => okTile t && okCtx c
  | .mul t c => okTile t && okCtx c
  | .fma t c => okTile t && okCtx c
  | .min t c => okTile t && okCtx c
  | .max t c => okTile t && okCtx c
  | .abs t c => okTile t && okCtx c
  | .neg t c => okTile t && okCtx c
  | .cmpeq t c => okTile t && okCtx c
  | .cmpne t c => okTile t && okCtx c
  | .cmplt t c => okTile t && okCtx c
  | .cmple t c => okTile t && okCtx c
  | .selectVector t c => okTile t && okCtx c
  | .exp2 t c => okTile t && okCtx c
  | .log2 t c => okTile t && okCtx c
  | .rcp t c => okTile t && okCtx c
  | .rsqrt t c => okTile t && okCtx c
  | .cvt t c => okTile t && okCtx c
  | .and t c => okTile t && okCtx c
  | .or t c => okTile t && okCtx c
  | .xor t c => okTile t && okCtx c
  | .not t c => okTile t && okCtx c
  | .shl t c => okTile t && okCtx c
  | .shr t c => okTile t && okCtx c
  | .popcnt t c => okTile t && okCtx c
  | .gfmul t c => okTile t && okCtx c
  | .gfmulc t c => okTile t && okCtx c
  | .gfmac t c => okTile t && okCtx c
  | .gfinv t c => okTile t && okCtx c
  | .topk t c => okTile t && okCtx c
  | .stsum t c => okTile t && okCtx c
  | .copy t c => okTile t && okCtx c
  | .fill t c => okTile t && okCtx c
  | .ocload t c => okTile t && okCtx c
  | .ocevict t c => okTile t && okCtx c
  | .rload t c => okTile t && okCtx c
  | .rstore t c => okTile t && okCtx c
  | .rfadd t c => okTile t && okCtx c
  | .rcas t c => okTile t && okCtx c
  | .racc t c => okTile t && okCtx c
  | .rfpadd t c => okTile t && okCtx c
  | .accsum t c _ => okTile t && okCtx c
  | .accread t c => okTile t && okCtx c
  | .accclr t c => okTile t && okCtx c
  | .accstore t c => okTile t && okCtx c
  | .accload t c => okTile t && okCtx c
  | .ssort t c => okTile t && okCtx c
  | .sgather t c => okTile t && okCtx c
  | .sfilter t c => okTile t && okCtx c
  | .sminmax t c => okTile t && okCtx c
  | .deferredExactAdd t slot => okTile t && decide (slot.at_ < 16)
  | .allred t c => okTile t && okCtx c
  | .redscat t c => okTile t && okCtx c
  | .allgath t c => okTile t && okCtx c
  | .bcast t c => okTile t && okCtx c
  | .barrier t c => okTile t && okCtx c
  | .alltoall t c => okTile t && okCtx c
  | .alltoallv t c => okTile t && okCtx c
  | .sortmerge t c => okTile t && okCtx c
  | .filtcomp t c => okTile t && okCtx c
  | .parenc t c => okTile t && okCtx c
  | .parreb t c => okTile t && okCtx c
  | .commitList _ e newEpoch => okGroup e && decide (newEpoch < 65536)
  | .listCommitDone e _ => okGroup e
  | .invalidate _ e => okGroup e
  | .contribution f => okFrame f
  | .partialMsg f => okFrame f
  | .result f => okFrame f
  | .credit f => okFrame f
  | .abortMessage f => okFrame f
  | .heartbeatMessage f => okFrame f
  | .sizeCountMessage f => okFrame f
  | .barrierMessage f => okFrame f
  | .windowClose e _ _ => okGroup e
  | .instanceComplete e _ t => okGroup e && okTile t
  | .memberLate e _ => okGroup e
  | .heartbeat => true
  | .memberLost e _ => okGroup e
  | .epochAheadRepeat e => okGroup e
  | .groupReceive p block => okPort p && decide (block.length = 1104)
  | .timeSetReceive p block => okPort p && decide (block.length = 64)
  | .creditInit p block => okPort p && decide (block.length = 64)
  | .linkState p block => okPort p && decide (block.length = 64)
  | .timeSetSend p => okPort p
  | .timeSetTimeout p => okPort p
  | .replayTimeout p => okPort p
  | .holdExpiry p cls => okPort p && okClass cls
  | .pauseFrame p _ => okPort p
  | .pfcFrame p _ quanta => okPort p && decide (quanta.length = 8)
  | .pauseExpiry p cls => okPort p && okClass cls
  | .linkTrainingDone p _ _ => okPort p
  | .trainingTimeout p => okPort p
  | .retrain p _ => okPort p
  | .berWindow n lanes _ => okPortDie n && decide (lanes.length = 128)
  | .frameArrival p f _ => okPort p && okFrame f
  | .cellSlot p => okPort p
  | .localDelivery p cls => okPort p && okClass cls
  | .echoReceive n f => okPortDie n && okFrame f
  | .rateIncrease n => okPortDie n
  | .pauseRefresh p => okPort p
  | .holdRefresh p => okPort p
  | .sampleCtrlWrite _ p _ => okPort p
  | .dirtyZeroed unit => decide (unit < 16)
  | .punPkReturn _ n _ => okPortDie n
  | .punPkQuarRelease _ n _ => okPortDie n
  | .punHmAlloc _ k s => okStack k && decide (s < 4)
  | .punHmFree _ k _ => okStack k
  | .punHmRef _ k _ => okStack k
  | .punHmQuarRelease _ k _ => okStack k
  | .punnetEnable _ k s _ => okStack k && decide (s < 4)
  | .punnetDisable _ k s _ => okStack k && decide (s < 4)
  | .shutterArm _ p => okPort p
  | .shutterCancel _ p => okPort p
  | .shutterTakeover p => okPort p
  | .shutterEntry p => okPort p
  | .bucketConfigWrite _ p _ c _ => okPort p && decide (c < 8)
  | .ftmStep _ _ => true
  | .obsSample n => okPortDie n
  | .schObsClear _ n => okPortDie n
  | .routeArm _ n => okPortDie n
  | .routeCancel _ n => okPortDie n
  | .routeLatch n => okPortDie n
  | .rteDrain _ p _ => okPort p
  | .requestLoad f _ => okFrame f
  | .requestStore f _ => okFrame f
  | .requestFetchAdd f _ => okFrame f
  | .requestCompareSwap f _ => okFrame f
  | .requestExactAdd f _ _ => okFrame f
  | .requestFp32Add f _ => okFrame f
  | .requestSignal f => okFrame f
  | .requestTrigger f => okFrame f
  | .responseReceive f => okFrame f
  | .requestRetry t _ => okTile t
  | .detEnter _ => true
  | .detActive => true
  | .detExit _ => true
  | .barrierArm _ => true
  | .barrierCancel _ => true
  | .barrierRelease => true
  | .policyWrite _ _ _ => true
  | .policyOverride _ _ => true
  | .hbmTrained k _ => okStack k
  | .hbmAccess k _ op _ => okStack k && okHbmOp op
  | .hbmRowRepaired k => okStack k
  | .patrolRead k _ => okStack k
  | .refresh k _ => okStack k
  | .chkArm _ unit _ => okChk unit
  | .chkClose _ unit _ => okChk unit
  | .chkBlockEnd unit _ => okChk unit
  | .tileReset _ _ => true
  | .blockReset _ _ => true
  | .sectorReset _ _ => true
  | .dieReset _ _ => true
  | .partitionReset _ owner => decide (owner < 64)
  | .resetComplete scope => okScope scope
  | .pop _ => true
  | .blockFenced block => decide (block < 512)
  | .sectorGated sector => decide (sector < 64)
  | .dieFenced die => okDie die
  | .spareLost die segment => decide (die < 16) && decide (segment < 256)
  | .packageReset _ => true
  | .pkgResetDeassert lands _ => decide (lands < 2 ^ 26)
  | .keepLock => true
  | .refLost => true
  | .refclkReturn => true
  | .porterRunning => true
  | .regulatorEnable => true
  | .pwrGood => true
  | .pciePerstDeassert => true
  | .boot _ => true
  | .bootTimeout => true
  | .imageServeRequest p => okPort p
  | .vinLow => true
  | .regFault => true
  | .vauxLow => true
  | .blockSleep b => decide (b < 512)
  | .blockDeepSleep b => decide (b < 512)
  | .blockWake b => decide (b < 512)
  | .wakeComplete b => decide (b < 512)
  | .vfStepUp b _ => decide (b < 512)
  | .vfStepDown => true
  | .powerSample _ sectors => decide (sectors.length = 64)
  | .keepRequest _ => true
  | .runRequest _ => true
  | .thermalSample temps stackTemps => decide (temps.length = 80) && decide (stackTemps.length = 12)
  | .tempMaxClear _ die sensor => okDie die && decide (sensor < 4)
  | .functionLevelReset => true
  | .sqTail q _ => decide (q < 256)
  | .startQueueEntry q _ _ => decide (q < 256)
  | .trigBusyReoffer q => decide (q < 256)
  | .hrqHead q _ => decide (q < 64)
  | .queueEnable receive q _ => decide (q < (if receive then 64 else 256))
  | .msixUnmask vector => decide (vector < 2048)
  | .bar2Access off _ _ _ _ => decide (off < 2 ^ 36)
  | .porterMessage _ _ => true
  | .regRead _ seq _ _ => okSeq seq
  | .regWrite _ seq _ data => okSeq seq && decide (data.length ≤ 32)
  | .viewRead _ seq _ => okSeq seq
  | .viewSet _ seq _ _ => okSeq seq
  | .keyProgram _ seq slot hash => okSeq seq && decide (slot < 256) && decide (hash.length = 48)
  | .keyRevoke _ seq slot => okSeq seq && decide (slot < 256)
  | .traceRead _ seq _ _ => okSeq seq
  | .neighbourDiscovery _ => true
  | .peeFreeze _ _ => true
  | .bypass => true
  | .idcode => true
  | .samplePreload => true
  | .extest => true
  | .clamp => true
  | .highz => true
  | .extestPulse => true
  | .extestTrain => true
  | .testLogicReset => true
  | .vauxRestored lands _ => decide (lands < 2 ^ 26)
  | .traceStore die => okDie die
  | .imageServeRefusal p => okPort p
  | .ptpEventMessageSend p _ => okPort p

end Sys2Proof
end

