-- ==== Sys2Proof/Tests/Slice0.lean ====
section
/-! SUPPORT. Tests: ill-formed commands that the checks refuse, states that meet the premises of each statement, and small
checks of single steps with results worked out by hand from the spec. -/

namespace Sys2Proof.Tests

open Sys2Proof.Machine

-- One theorem is checked at a time: every pending kernel check holds a thread of its own.
set_option Elab.async false

/-! The whole block. -/

/-- Premises of `StepKeepsForm`, `StepKeepsFusesAndOutputs`, `ScanStateFrame` and `IdleStep`: a state of the form, steps from it with a command and without, and the
keep clock locked and not. -/
theorem test_step_state_premises :
    let s := State.reset.withPending [.pop .host]
    s.wf = true ∧ (∃ t, step s = .next t) ∧ (∃ t, exec (.pop .host) s = .next t) ∧ State.reset.pending = [] ∧ State.reset.keepLocked = false ∧
      (State.reset.withReg Reg.clkStatus 1).keepLocked = true := by
  refine ⟨by decide +kernel, ⟨_, rfl⟩, ⟨_, rfl⟩, by decide +kernel, by decide +kernel, by decide +kernel⟩

/-! Register accesses. -/

/-- Premises of `RegisterRead` and `PlainRegisterWrite` at a package register, on both widths and both halves. -/
theorem test_register_premises :
    State.reset.wf = true ∧ accessMask Reg.porIbiMask 8 = some (2 ^ 64 - 1) ∧ accessMask Reg.porIbiMask 4 = some (2 ^ 32 - 1) ∧
      accessMask (Reg.porIbiMask + 4) 4 = some (2 ^ 64 - 2 ^ 32) ∧ (regRow Reg.porIbiMask).isSome = true ∧ windowTile Reg.porIbiMask = none ∧
      (regRow Reg.porIbiMask).map (·.name) = some "POR_IBI_MASK" ∧ Reg.porIbiMask ∈ plainPackage ∧ Reg.porIbiMask < bar4Base := by
  decide +kernel

/-- Premises of the clauses about tile windows: a tile that answers, and one that does not. -/
theorem test_register_window_premises :
    (regRow 0x1010068).isSome = true ∧ windowTile 0x1010068 = some 0 ∧ State.reset.mute 0x1010068 = false ∧
      (State.reset.withTile 0 { Tile.reset with idState := 3 }).mute 0x1010068 = true := by
  decide +kernel

/-- Premises of the clauses about accesses that reach no register. -/
theorem test_register_unmapped_premises : accessMask 0x20008 2 = none ∧ accessMask 0x2000C 8 = none ∧ regRow 0x80000 = none := by decide +kernel

/-- R10: a read of FLT_BAD_ACCESS_CNT after one unmapped read answers 1 and clears it. -/
theorem test_read_clears :
    (match exec (.rcRegisterRead .host 0x80000 8) State.reset with
    | .next s => match exec (.rcRegisterRead .host Reg.fltBadAccessCnt 8) s with
      | .next t => (s.reg Reg.fltBadAccessCnt, t.reg Reg.fltBadAccessCnt, t.out.getLast?)
      | _ => (0, 0, none)
    | _ => (0, 0, none)) = (1, 0, some (.readReply .host Reg.fltBadAccessCnt 1)) := by
  decide +kernel

/-! The two on-package networks. -/

/-- A section of a tile die whose logical tiles 0 and 1 have role 1 and owner 1; tile 0 runs a schedule of one slot with entry `e`. -/
def section0 (e : Nat) : Bytes := zeros 128 ++ natLe 8 0x11 ++ natLe 8 (1 + 640 <<< 11) ++ zeros 240 ++ natLe 8 0x11 ++ zeros 248 ++ natLe 4 e

/-- Die 0 with that section, and physical tile 0, with the flits `l` on its links, in service as logical tile 0. -/
def lattice (e : Nat) (l : List Flit) : State :=
  { State.reset with
    dies := [(0, { Die.reset with structured := true, active := section0 e })],
    tiles := [(0, { Tile.reset with idState := 1, idLogical := some 0, linkIn := l })] }

/-- Premises of `LatticeSlots`: a flit from the west is forwarded to the east. -/
theorem test_lattice_forward_premises :
    let s := lattice (4 <<< 3) [⟨4, 0, zeros 64⟩]
    s.wf = true ∧ s.heldSchedule 1 = false ∧ s.latTiles 1 = [0] ∧ s.schedEntry (s.logicalOf 0) (s.tile 0).slotNo = 4 <<< (3 * 2 - 3) ∧
      latNext (s.logicalOf 0) 2 = some 1 ∧ s.phys 1 ≠ 0 ∧
      (((s.tile 0).linkIn.filter (·.wait == 0)).find? (·.side == 4)) = some ⟨4, 0, zeros 64⟩ := by
  decide +kernel

/-- R26, R27: the flit forwarded to the east stands on the west input of tile 1. -/
theorem test_lattice_forward :
    (match exec (.latticeSlot 1) (lattice (4 <<< 3) [⟨4, 0, natLe 64 5⟩]) with
    | .next u => (u.tile 1).linkIn
    | _ => []) = [⟨4, 0, natLe 64 5⟩] := by
  decide +kernel

/-- Premises of `LatticeSlots`: a flit that arrived. -/
theorem test_lattice_consume_premises :
    let s := lattice (4 <<< 12 + 3 <<< 19) [⟨4, 0, zeros 64⟩]
    s.heldSchedule 1 = false ∧ s.latTiles 1 = [0] ∧ s.tileInReset 0 = false ∧
      s.schedEntry (s.logicalOf 0) (s.tile 0).slotNo = 4 <<< 12 + 3 <<< 19 ∧
      (((s.tile 0).linkIn.filter (·.wait == 0)).find? (·.side == 4)) = some ⟨4, 0, zeros 64⟩ ∧ s.edgeSilent (s.logicalOf 0) 4 = false ∧
      (((lattice (4 <<< 12 + 3 <<< 19) []).tile 0).linkIn.filter (·.wait == 0)).find? (·.side == 4) = none := by
  decide +kernel

/-- The same tile as logical tile 63 of die 0, at the die's east edge, with die 1 fenced. -/
def latticeEdge (e : Nat) : State :=
  let a := zeros (128 + 63 * 256) ++ natLe 8 0x11 ++ natLe 8 (1 + 16768 <<< 11) ++ zeros 496 ++ natLe 4 e
  { State.reset with
    dies := [(0, { Die.reset with structured := true, active := a }), (1, { Die.reset with fenced := true })],
    tiles := [(0, { Tile.reset with idState := 1, idLogical := some 63 })] }

/-- Premises of `LatticeSlots`: the input of a fenced edge. -/
theorem test_lattice_edge_premises :
    let s := latticeEdge (2 <<< 12 + 3 <<< 19)
    s.heldSchedule 1 = false ∧ s.latTiles 1 = [0] ∧ s.tileInReset 0 = false ∧
      s.schedEntry (s.logicalOf 0) (s.tile 0).slotNo = 2 <<< 12 + 3 <<< 19 ∧
      (((s.tile 0).linkIn.filter (·.wait == 0)).find? (·.side == 2)) = none ∧ latNext (s.logicalOf 0) 2 = some 2048 ∧
      2048 / 2048 ≠ s.logicalOf 0 / 2048 ∧ s.dieSilent (2048 / 2048) = true := by
  decide +kernel

/-- Premises of `LatticeSlots`. -/
theorem test_lattice_inject_premises :
    let s := lattice (5 <<< 3 + 2 <<< 15) []
    s.heldSchedule 1 = false ∧ s.latTiles 1 = [0] ∧ s.schedEntry (s.logicalOf 0) (s.tile 0).slotNo = 5 <<< (3 * 2 - 3) + 2 <<< 15 ∧
      latNext (s.logicalOf 0) 2 = some 1 := by
  decide +kernel

/-- Premises of `LatticeSlots`. -/
theorem test_lattice_frame_premises :
    let s := lattice (4 <<< 3) [⟨4, 0, zeros 64⟩]
    s.wf = true ∧ 1 ∉ s.latTiles 1 ∧ ∃ u, exec (.latticeSlot 1) s = .next u := by
  refine ⟨by decide +kernel, by decide +kernel, _, rfl⟩

/-- A frame of no content. -/
def frame0 : Frame :=
  { kind := 0, cls := 0, vc := 0, dest := 0, src := 0, flow := 0, unord := false, ce := false, ece := false, origin := 0, payload := [] }

/-- A package out of reset whose stop `k` holds the messages `q`. -/
def meshWith (k : Nat) (q : List MeshFlit) : State := State.reset.withStop k { Stop.reset with queue := q }

/-- Premises of `MeshStops`: to a live stop, to an isolated stop, and at the destination. -/
theorem test_mesh_premises :
    let m : MeshFlit := ⟨5, 0, frame0, 4⟩
    let n : MeshFlit := ⟨5, 2, frame0, 4⟩
    ((meshWith 4 [n, m]).stop 4).isolated = false ∧ (meshWith 4 [n, m]).meshPick 4 .east = some m ∧
      ((meshWith 4 [n, m]).stop 4).queue.find? (fun y => stopRoute 4 y.dst == .east && y.vc == 0) = some m ∧ (meshWith 4 [n, m]).meshTakes 4 .east m = true ∧
      stopRoute 4 m.dst = .east ∧ ((meshWith 4 [n, m]).stop (stopNext 4 .east)).isolated = false ∧
      ((meshWith 4 [m]).withStop 5 { Stop.reset with isolated := true }).stop (stopNext 4 .east) = { Stop.reset with isolated := true } ∧
      ((meshWith 4 [m]).withStop 5 { Stop.reset with isolated := true }).meshPick 4 .east = some m ∧
      (meshWith 5 [m]).meshPick 5 .here = some m ∧ stopPortDie 5 = none ∧ (meshWith 4 []).meshPick 4 .east = none := by
  decide +kernel

/-- Premises of `MeshStops`: a live stop that holds from the west more than the depth of a virtual channel takes no other there. -/
theorem test_mesh_full_premises :
    let m : MeshFlit := ⟨5, 0, frame0, 4⟩
    let s := (meshWith 4 [m]).withStop 5 { Stop.reset with queue := List.replicate (Config.meshDepth + 1) ⟨5, 0, frame0, viaOf .east⟩ }
    (s.stop (stopNext 4 .east)).isolated = false ∧
      Config.meshDepth < ((s.stop (stopNext 4 .east)).queue.filter fun y => y.via == viaOf .east && y.vc == m.vc).length := by
  have h (q : List MeshFlit) : ((meshWith 4 [⟨5, 0, frame0, 4⟩]).withStop 5 { Stop.reset with queue := q }).stop (stopNext 4 .east) =
      { Stop.reset with queue := q } := mapGet_mapPut_self _ _ _ (a := 0) (by decide +kernel)
  intro m s
  rw [show s.stop (stopNext 4 .east) = _ from h _]
  refine ⟨rfl, ?_⟩
  simp [m]

/-- Premises of `MeshStops`: at a stop of a port die, for this node and for another. -/
theorem test_mesh_port_premises :
    let m : MeshFlit := ⟨512, 0, frame0, 4⟩
    let n : MeshFlit := ⟨512, 0, { frame0 with dest := 3 }, 4⟩
    (meshWith 512 [m]).meshPick 512 .here = some m ∧ m.f.dest = (meshWith 512 [m]).node ∧
      (meshWith 512 [n]).meshPick 512 .here = some n ∧ n.f.dest ≠ (meshWith 512 [n]).node ∧ stopPortDie 512 = some 0 := by
  decide +kernel

/-! Structure commits. -/

/-- A commit in phase `v`. -/
def atPhase (v : Nat) : State := State.reset.withPhase v

/-- Premises of `CommitStartAndAbort`: none in progress with a legal and an illegal length, and one in progress. -/
theorem test_start_premises :
    let s := State.reset.withReg Reg.strImageLen 8192
    s.wf = true ∧ s.committing = false ∧ imgLenOk (s.reg Reg.strImageLen).toNat = true ∧ State.reset.wf = true ∧
      State.reset.committing = false ∧ imgLenOk (State.reset.reg Reg.strImageLen).toNat = false ∧ (atPhase 1).wf = true ∧ (atPhase 1).committing = true := by
  decide +kernel

/-- Premises of `CommitStartAndAbort`, at both ends of the phases that ABORT ends, and with nothing to end. -/
theorem test_abort_premises :
    (atPhase 5).wf = true ∧ (atPhase 5).phase = 5 ∧ (atPhase 1).phase = 1 ∧ (atPhase 4).wf = true ∧ (atPhase 4).phase = 4 ∧
      State.reset.committing = false := by
  decide +kernel

/-- A commit in phase 1 with stacks 0 and 6 trained. -/
def transferring : State := ((atPhase 1).withReg (memReg 0 Reg.memStatus) 0x7FF).withReg (memReg 6 Reg.memStatus) 0x7FF

/-- Premises of `TransferDone`: a failed stack, a failed transfer, and an image that has come. -/
theorem test_transfer_premises :
    transferring.wf = true ∧ transferring.phase = 1 ∧ (transferring.ctrl 0).failed = false ∧ (transferring.ctrl 6).failed = false ∧
      transferring.trained 0 = true ∧ transferring.trained 6 = true ∧ (transferring.takeImage [] true).2 = none ∧
      (transferring.takeImage [] false).2 = some [] ∧ slice [] 0 4 ≠ ([0x55, 0x42, 0x53, 0x49] : Bytes) ∧
      ((transferring.withCtrl 0 { Ctrl.reset with failed := true }).ctrl 0).failed = true := by
  decide +kernel

/-- Premises of `PrepareAndLead`: with no latch time and with one that is too soon; of `PrepareAndLead` and `PrepareAndLead`. -/
theorem test_prepare_premises :
    (atPhase 3).wf = true ∧ (atPhase 3).phase = 3 ∧ ((atPhase 3).reg Reg.strLatchTime).toNat = 0 ∧
      (((atPhase 3).withReg Reg.strLatchTime 5).reg Reg.strLatchTime).toNat ≠ 0 ∧
      (((atPhase 3).withReg Reg.strLatchTime 5).reg Reg.strLatchTime).toNat < ((atPhase 3).withReg Reg.strLatchTime 5).now + 800000 ∧
      (((atPhase 3).withReg Reg.strLatchTime 5).withReg Reg.strLatchTime 5).phase = 3 ∧ (atPhase 4).phase = 4 := by
  decide +kernel

/-- A commit in phase 5 that stages an empty section on die 3. -/
def latching : State :=
  ((atPhase 5).withDie 3 { Die.reset with staged := some [] }).withCommit { (atPhase 5).commit with dies := [3], copying := some 2 }

/-- Premises of `LatchTakesStaged` and `PrepareAndLead`. -/
theorem test_latch_premises :
    latching.wf = true ∧ latching.phase = 5 ∧ 3 ∈ latching.commit.dies ∧ latching.applies 3 = true ∧ (latching.die 3).staged = some [] ∧
      4 ∉ latching.commit.dies ∧ latching.commit.copying = some 2 ∧ State.reset.commit.copying = none := by
  decide +kernel

/-- A die with a section of one word, under package and partition sections of one word. -/
def scrubbing : State :=
  (State.reset.withDie 0 { Die.reset with active := zeros 8, check := zeros 8 }).withCommit { State.reset.commit with pkg := zeros 8, parts := [(1, zeros 8)] }

/-- Premises of `ScrubWord`: a word of the spare map, all of which is in use, and a word of a tile record with bits outside the use mask. -/
theorem test_scrub_premises :
    scrubbing.scrubPaused 0 = false ∧ (scrubbing.die 0).inReset = false ∧ 1 % 2 ^ 64 ≠ 0 % 2 ^ 64 ∧
      (∀ c ∈ [ConfigPart.die, .package, .partition 1], 8 * 0 < (scrubbing.confSec 0 c).length ∧ (1 ^^^ 0) % 2 ^ 64 &&& (scrubbing.wordMask 0 c 0).1 ≠ 0) ∧
      (2 ^ 63 ^^^ 0) % 2 ^ 64 &&& ((lattice 0 []).wordMask 0 .die (8 * 16)).1 = 0 ∧ (lattice 0 []).scrubPaused 0 = false ∧
      ((lattice 0 []).die 0).inReset = false ∧ 8 * 16 < ((lattice 0 []).confSec 0 .die).length := by
  decide +kernel

/-- Premises of `ScrubWord` where no reservation can be read. -/
theorem test_scrub_fence_premises : ∀ c ∈ [ConfigPart.die, .package, .partition 1],
    scrubbing.retained 0 0 c = (scrubbing, none) ∧ scrubbing.retained 6 0 c = (scrubbing, none) := by
  decide +kernel

/-! Descriptor graphs. -/

/-- A descriptor with these words, the others zero. -/
def desc (l : List (Nat × Nat)) : Bytes := l.foldl (fun b x => splice b (8 * x.1) (natLe 8 x.2)) (zeros 128)

/-- Tile 0 in service as logical tile 0 with its block running and the descriptor `d` issued in context 0, on engine `e`; `f` sets the rest. -/
def running (d : Bytes) (e : Nat) (f : Tile → Tile) : State :=
  let x : Ctx := { Ctx.idle with st := .running, desc := some d, issued := true }
  let y : Tile := { Tile.reset with idState := 1, idLogical := some 0, ctxs := [(0, x)], engines := [(e, [0])] }
  ({ State.reset with dies := [(0, { Die.reset with structured := true, active := section0 0 })], tiles := [(0, f y)] }).withFld (clkBlockA 0) 12 11 3

/-- The same with the context in another state. -/
def runningCtx (d : Bytes) (e : Nat) (g : Ctx → Ctx) : State := running d e fun y => y.withCtx 0 (g (y.ctx 0))

/-- Premises of `FetchAndIssue`: the current descriptor from tile memory, one that is misaligned, and the successors. -/
theorem test_fetch_premises :
    let s := runningCtx [] 0 fun x => { x with desc := none, issued := false, addr := 128, space := 1 }
    s.clocked 0 = true ∧ (s.ctx 0 0).st ≠ .idle ∧ (s.ctx 0 0).desc = none ∧ s.fetchBytes 0 128 1 = (s, some (zeros 128)) ∧ zeros 128 ≠ [] ∧
      s.fetchBytes 0 64 1 = (s, some []) ∧ 128 % 128 = 0 ∧ 393088 + 128 ≤ 393216 ∧ (s.tile 0).memHurt 393088 128 = false := by
  decide +kernel

/-- Premises of `FetchAndIssue` for successors. -/
theorem test_fetch_succ_premises :
    let v : Succ := ⟨128, 1, none⟩
    let s := runningCtx (desc [(0, 2)]) 0 fun x => { x with succ0 := some v, succ1 := some v }
    s.clocked 0 = true ∧ v.bytes = none ∧ s.fetchBytes 0 v.addr v.space = (s, some (zeros 128)) ∧ (s.ctx 0 0).succ0 = some v ∧ (s.ctx 0 0).succ1 = some v := by
  decide +kernel

/-- A context 0 whose descriptor has not issued. -/
def waiting (d : Bytes) : State :=
  (runningCtx d 0 fun x => { x with issued := false }).modTile 0 fun y => { y with engines := [] }

/-- Premises of `FetchAndIssue`: an issue and a refused descriptor. -/
theorem test_issue_premises :
    (waiting (desc [(0, 1)])).wf = true ∧ (waiting (desc [(0, 1)])).mayRun 0 = true ∧ (waiting (desc [(0, 1)])).ready 0 0 = .issue (desc [(0, 1)]) ∧
      isCollective (dOp (desc [(0, 1)])) = false ∧ (waiting (desc [(0, 0)])).mayRun 0 = true ∧ (waiting (desc [(0, 0)])).ready 0 0 = .refuse 1 := by
  decide +kernel

/-- A SELECT whose fetched successor can go as its shadow. -/
def shadowing : State :=
  runningCtx (desc [(0, 2)]) 0 fun x => { x with succ0 := some ⟨128, 1, some (desc [(0, 0x20)])⟩ }

/-- Premises of `FetchAndIssue`: a shadow, behind a context that can issue nothing. -/
theorem test_issue_shadow_premises :
    shadowing.wf = true ∧ shadowing.mayRun 0 = true ∧ shadowing.ready 0 0 = .shadow (desc [(0, 0x20)]) := by
  decide +kernel

/-- Premises of `FetchAndIssue` for OCLOAD: its issue makes line 0 BUSY. -/
theorem test_issue_load_premises :
    let d := desc [(0, 0x52), (4, 2 <<< 44 + 1 <<< 40), (5, 1 + 128 <<< 20), (8, 2 <<< 44 + 2 <<< 40), (9, 1 + 128 <<< 20)]
    (waiting d).mayRun 0 = true ∧ (waiting d).ready 0 0 = .issue d ∧ ((waiting d).tile 0).toFill [] d = [0] ∧ isCollective (dOp d) = false := by
  decide +kernel

/-- A descriptor that signals counter 3 of its tile by 2: with each iteration, or at its end. -/
def signalDesc (each : Nat) : Bytes := desc [(0, 1 + each <<< 9), (2, 1 <<< 10 + 3 <<< 6 + 2 <<< 12)]

/-- Premises of `DescriptorEnds` and `SequencerCompletes` for signals. -/
theorem test_signal_each_premises :
    let s := running (signalDesc 0) 0 id
    s.wf = true ∧ (s.ctx 0 0).desc = some (signalDesc 0) ∧ dSigEach (signalDesc 0) = false ∧ dBits (signalDesc 0) 2 11 10 = 1 ∧
      ((running (signalDesc 1) 0 id).ctx 0 0).desc = some (signalDesc 1) ∧ dSigEach (signalDesc 1) = true ∧ isCollective (dOp (signalDesc 1)) = false ∧
      dBits (desc [(0, 1)]) 2 11 10 = 0 := by
  decide +kernel

/-- Premises of `IterationOutcomes` and `DescriptorEnds`. -/
theorem test_iteration_premises :
    let s := running (desc [(0, 1)]) 0 id
    s.wf = true ∧ ((s.upset 0 .none).ctx 0 0).runner none = some (desc [(0, 1)], false) ∧ Instr.runs 0 (.nop 0 0) = some (0, 0, dOp (desc [(0, 1)])) ∧
      (s.ctx 0 0).desc = some (desc [(0, 1)]) ∧ isCollective (dOp (desc [(0, 1)])) = false ∧ dSigEach (desc [(0, 1)]) = false ∧ (s.ctx 0 0).stop = false := by
  decide +kernel

/-- Premises of `DescriptorEnds` for a NOP. -/
theorem test_complete_premises :
    let s := runningCtx (desc [(0, 1)]) 0 fun x => { x with allDone := true }
    s.clocked 0 = true ∧ (s.ctx 0 0).desc = some (desc [(0, 1)]) ∧ (s.tile 0).maySignal (desc [(0, 1)]) = true ∧
      (s.tile 0).finished 0 (desc [(0, 1)]) = true ∧ (s.ctx 0 0).stop = false := by
  decide +kernel

/-- A SELECT that has read its comparator, with the shadow `h`. -/
def selected (r : Bool) (h : Option Shadow) : State :=
  runningCtx (desc [(0, 2)]) 0 fun x => { x with allDone := true, result := some r, shadow := h }

/-- Premises of `DescriptorEnds` for a SELECT: taken, not taken, and not taken with a shadow. -/
theorem test_select_premises :
    let h : Shadow := ⟨desc [(0, 0x20)], 0, 1, 0, none, none, 0, 0⟩
    (selected true none).clocked 0 = true ∧ ((selected true none).ctx 0 0).desc = some (desc [(0, 2)]) ∧
      ((selected true none).tile 0).maySignal (desc [(0, 2)]) = true ∧ dOp (desc [(0, 2)]) = 0x02 ∧ ((selected true none).ctx 0 0).issued = true ∧
      ((selected true none).ctx 0 0).allDone = true ∧ ((selected true none).ctx 0 0).result = some true ∧
      ((selected false none).ctx 0 0).result = some false ∧ ((selected false none).ctx 0 0).shadow = none ∧
      ((selected false (some h)).ctx 0 0).shadow = some h ∧ (selected false (some h)).clocked 0 = true := by
  decide +kernel

/-- Premises of `DescriptorEnds` and `SequencerCompletes`: STOP at a descriptor that is done, one that is not done, and fetched successors. -/
theorem test_successor_premises :
    let v : Succ := ⟨128, 1, some (zeros 128)⟩
    let s := runningCtx (desc [(0, 1)]) 0 fun x => { x with allDone := true, succ0 := some v }
    let z := runningCtx (desc [(0, 2)]) 0 fun x => { x with allDone := true, result := some true, succ1 := some v }
    let k := runningCtx (desc [(0, 1)]) 0 fun x => { x with allDone := true, stop := true }
    s.wf = true ∧ s.clocked 0 = true ∧ (s.tile 0).finished 0 (desc [(0, 1)]) = true ∧ (s.ctx 0 0).stop = false ∧ (s.ctx 0 0).succ0 = some v ∧
      v.bytes ≠ some [] ∧ z.wf = true ∧ (z.ctx 0 0).result = some true ∧ (z.ctx 0 0).succ1 = some v ∧ (z.ctx 0 0).issued = true ∧
      (k.ctx 0 0).stop = true ∧ (k.tile 0).finished 0 (desc [(0, 1)]) = true ∧ ((running (desc [(0, 1)]) 0 id).tile 0).finished 0 (desc [(0, 1)]) = false := by
  decide +kernel

/-- Premises of `DescriptorEnds` and `SequencerCompletes`. -/
theorem test_summary_premises :
    State.reset.wf = true ∧ (mapGet Summary.empty 0 (State.reset.tile 0).sums).ready = false ∧
      (mapGet Summary.empty 1 ((running (desc [(0, 1)]) 0 fun y => { y with sums := [(1, { Summary.empty with ready := true })] }).tile 0).sums).ready =
        true := by
  decide +kernel

/-- Premises of `InstanceStarts`: a trigger and a handler; a timer on time, late and overrunning. -/
theorem test_start_instance_premises :
    let s := running (desc [(0, 1)]) 0 fun y => { y with trigQ := [⟨3, 0, []⟩] }
    let h := running (desc [(0, 1)]) 0 fun y => { y with handler := some (0, []) }
    (s.tile 0).freeCtx = some 1 ∧ s.mayRun 0 = true ∧ (s.tile 0).trigQ = [⟨3, 0, []⟩] ∧ (s.tile 0).handler = none ∧ (s.tile 0).lateDue 0 = false ∧
      (s.tile 0).lateDue 1 = false ∧ (h.tile 0).freeCtx = some 1 ∧ h.mayRun 0 = true ∧ (h.tile 0).handler = some (0, []) := by
  decide +kernel

/-- Timer 0 armed for graph 2, whose entry is enabled; `p` is its late instance, and `b` says whether its instance runs. -/
def timed (p : Option Nat) (b : Bool) : State :=
  running (desc [(0, 1)]) 0 fun y => { y with
    mem := writeBytes [] (graphAddr 2) (natLe 8 (1 <<< 40)), timers := [(0, some ⟨true, 2, 100, 50, 4, p⟩)],
    ctxs := if b then [(0, { y.ctx 0 with timer := some 0 })] else y.ctxs }

/-- Premises of `InstanceStarts` for timers. -/
theorem test_timer_premises :
    ((timed none false).tile 0).freeCtx = some 1 ∧ (timed none false).mayRun 0 = true ∧ (timed none false).clocked 0 = true ∧
      ((timed none false).tile 0).timer 0 = some ⟨true, 2, 100, 50, 4, none⟩ ∧ ((timed none false).tile 0).timerBusy 0 = false ∧
      graphOn (((timed none false).tile 0).graph 2) = true ∧ ((timed none true).tile 0).timerBusy 0 = true ∧ (timed none true).clocked 0 = true ∧
      ((timed (some 3) false).tile 0).timer 0 = some ⟨true, 2, 100, 50, 4, some 3⟩ ∧ (timed (some 3) false).mayRun 0 = true := by
  decide +kernel

/-- Premises of `SequencerWrites`, with each kind of context that STOP meets. -/
theorem test_stop_premises :
    let s := running (desc [(0, 1)]) 0 id
    s.wf = true ∧ s.tileMute 0 = false ∧ s.tileInReset 0 = false ∧ (s.ctx 0 1).st = .idle ∧ (s.ctx 0 0).st ≠ .idle ∧ (s.ctx 0 0).shadow = none ∧
      ((waiting (desc [(0, 1)])).ctx 0 0).issued = false ∧ ((runningCtx (desc [(0, 1)]) 0 fun x => { x with part := 1 }).ctx 0 0).part ≠ 0 ∧
      ((runningCtx (desc [(0, 1)]) 0 fun x => { x with iter := 1 }).tile 0).awaits 0 = false := by
  decide +kernel

/-- Premises of `ControlOpcodes` for an opcode without operands. -/
theorem test_control_premises : ∀ op ∈ [1, 3, 4, 5, 6], (running (desc [(0, op)]) 0 id).iterates 0 0 (desc [(0, op)]) ∧ dOp (desc [(0, op)]) = op := by
  decide +kernel

/-- Premises of `ControlOpcodes` for SELECT: a comparator of a counter. -/
theorem test_selector_premises :
    let k := cmpOf (desc [])
    let s := running (desc [(0, 2)]) 0 fun y => { y with cmps := [(0, some k)] }
    s.iterates 0 0 (desc [(0, 2)]) ∧ mapGet none (dBits (desc [(0, 2)]) 4 44 42) (s.tile 0).cmps = some k ∧ k.summary = false := by
  decide +kernel

/-! Iterations and the vector engine. -/

/-- The state after an action that succeeds, and whether it does. -/
def after {α : Type} : EStateM.Result Halt State α → Option (α × State)
  | .ok a s => some (a, s)
  | .error _ _ => none

/-- Premises of `IterationOutcomes`: an exception, a wait, and a hold is met by `test_remote_premises`. -/
theorem test_outcome_premises :
    let s := running (desc [(0, 2)]) 0 id
    let e := s.runNow 0 0 (desc [(0, 2)])
    Instr.runs 0 (.select 0 0) = some (0, 0, dOp (desc [(0, 2)])) ∧ s.iterates 0 0 (desc [(0, 2)]) ∧
      (match bodyOf 2 0 e s with | .error (.exc k _) _ => k | _ => 0) = 2 := by
  decide +kernel

/-- How a step of an iteration ends: with results, by an exception, waiting as it stood, waiting with what it has done kept. -/
def ending {α : Type} : EStateM.Result Halt State α → Nat
  | .ok _ _ => 0
  | .error (.exc _ _) _ => 1
  | .error .wait _ => 2
  | .error .hold _ => 3

/-- A SELECT that is done, with the shadow `d` first on its engine. -/
def shadowed (d : Bytes) : State :=
  (runningCtx (desc [(0, 2)]) 0 fun x => { x with allDone := true, shadow := some ⟨d, 0, 1, 0, none, none, 0, 0⟩ }).modTile 0 fun y =>
    { y with engines := [((dEngine d).code, [8])] }

/-- Premises of `MoveOpcodes`, at the last byte of tile memory. -/
theorem test_stored_premises : (running (desc []) 0 id).wf = true ∧ [(5 : Byte)].length = 1 := by decide +kernel

/-- A descriptor of opcode `op` on one element of format `f`: A and B in the operand cache, D in tile memory. -/
def vec (op f : Nat) : Bytes :=
  desc [(0, op), (4, f <<< 44 + 2 <<< 40), (5, 1 + 1 <<< 20), (6, f <<< 44 + 2 <<< 40), (7, 1 + 1 <<< 20), (8, f <<< 44 + 1 <<< 40 + 1024),
    (9, 1 + 1 <<< 20)]

/-- Tile 0 running `vec op f`, with line 0 of its operand cache valid. -/
def vector (op f : Nat) : State := running (vec op f) 2 fun y => { y with ocLines := [(0, ⟨.valid, none, []⟩)] }

/-- What `vector op f` reads: the bytes of A and B, where every operand is placed and D can be written. -/
def vectorReads (op f : Nat) : Option (Bytes × Bytes) :=
  let s := vector op f
  let d := vec op f
  let e := s.runNow 0 0 d
  match after (vecSpaces e s), after (readOpnd e (opA d) s) with
  | some _, some (a, s1) =>
    match after (readOpnd e (opB d) s1) with
    | some (b, s2) => match after (writeOpnd e (opD d) a s2), after (readOpnd e (opD d) s2) with | some _, some _ => some (a, b) | _, _ => none
    | none => none
  | _, _ => none

/-- Premises of `VectorArithmetic` for two sources, on FP32 and BF16. -/
theorem test_vector_pair_premises :
    (∀ op ∈ [0x20, 0x21, 0x22, 0x23, 0x24, 0x25], (vector op 2).iterates 0 0 (vec op 2) ∧ dOp (vec op 2) = op ∧ vectorReads op 2 = some (zeros 4, zeros 4)) ∧
      nanTraps ((vector 0x20 2).runNow 0 0 (vec 0x20 2)).mode (flagsOf []) = false ∧ vectorReads 0x20 0 = some (zeros 2, zeros 2) := by
  decide +kernel

/-- Premises of `VectorArithmetic` and `VectorMasksAndBits` for one source. -/
theorem test_vector_one_premises :
    ∀ op ∈ [0x26, 0x27, 0x2D, 0x2E, 0x2F, 0x30, 0x35, 0x38, 0x3A, 0x3B, 0x3C], (vector op 2).iterates 0 0 (vec op 2) ∧ dOp (vec op 2) = op ∧
      vectorReads op 2 = some (zeros 4, zeros 4) := by
  decide +kernel

/-- Premises of `VectorMasksAndBits` for compares, masks and bytes. -/
theorem test_vector_byte_premises :
    ∀ op ∈ [0x28, 0x29, 0x2A, 0x2B, 0x2C, 0x32, 0x33, 0x34, 0x36, 0x37, 0x39], (vector op 2).iterates 0 0 (vec op 2) ∧ dOp (vec op 2) = op ∧
      vectorReads op 2 = some (zeros 4, zeros 4) := by
  decide +kernel

/-- Premises of `VectorConversions` for CVT without scales and for STSUM. -/
theorem test_vector_convert_premises :
    (vector 0x31 2).iterates 0 0 (vec 0x31 2) ∧ (opD (vec 0x31 2)).scale = 0 ∧ vectorReads 0x31 2 = some (zeros 4, zeros 4) ∧
      (after (readScales ((vector 0x31 2).runNow 0 0 (vec 0x31 2)) (opA (vec 0x31 2)) (vector 0x31 2))).isSome = true ∧
      (vector 0x3E 2).iterates 0 0 (vec 0x3E 2) ∧ (mapGet Summary.empty 0 ((vector 0x3E 2).tile 0).sums).ready = false ∧
      (after (vecSpaces ((vector 0x3E 2).runNow 0 0 (vec 0x3E 2)) (vector 0x3E 2))).isSome = true ∧
      (after (writeAt ((vector 0x3E 2).runNow 0 0 (vec 0x3E 2)) 1 1024 (zeros 32) (vector 0x3E 2))).isSome = true := by
  decide +kernel

/-- A TOPK of one FP32 element whose indices go to tile memory, and a CVT of one FP32 element to a scaled FP8 row. -/
def topDesc : Bytes := splice (vec 0x3D 2) 48 (natLe 8 (4 + 1 <<< 40 + 2048))
def scaledDesc : Bytes := splice (vec 0x31 2) 64 (natLe 8 ((3 + 2 <<< 4) <<< 44 + 1 <<< 40 + 1024))

/-- Premises of `VectorConversions` for TOPK and for CVT to a scaled format. -/
theorem test_vector_special_premises :
    let s := running topDesc 2 fun y => { y with ocLines := [(0, ⟨.valid, none, []⟩)] }
    let z := running scaledDesc 2 fun y => { y with ocLines := [(0, ⟨.valid, none, []⟩)] }
    let e := s.runNow 0 0 topDesc
    let g := z.runNow 0 0 scaledDesc
    s.iterates 0 0 topDesc ∧ dOp topDesc = 0x3D ∧ (after (vecSpaces e s)).isSome = true ∧ (after (readOpnd e (opA topDesc) s)).isSome = true ∧
      (after (writeOpnd e (opD topDesc) (zeros 4) s)).isSome = true ∧ (after (writeOpnd e (opB topDesc) (zeros 4) s)).isSome = true ∧
      z.iterates 0 0 scaledDesc ∧ (opD scaledDesc).scale = 2 ∧ (after (vecSpaces g z)).isSome = true ∧
      (after (readOpnd g (opA scaledDesc) z)).isSome = true ∧ (after (readScales g (opA scaledDesc) z)).isSome = true ∧
      (after (destCoarse g (opD scaledDesc) z)).isSome = true ∧ (after (writeOpnd g (opD scaledDesc) (zeros 1) z)).isSome = true ∧
      (after (writeRows g 1 (g.fineRuns (opD scaledDesc)) (zeros 1) z)).isSome = true := by
  decide +kernel

/-- Premises of `VectorConversions` where a NaN traps, and of its clause about the order of TOPK. -/
theorem test_convert_trap_premises :
    let s := runningCtx (vec 0x31 0) 2 fun x => { x with mode := 0x1F }
    nanTraps (s.runNow 0 0 (vec 0x31 0)).mode fNanGen = true ∧ (∀ x ∈ [Machine.Num.fin false 1 1, .nan], ∀ a n m, x = .fin a n m → 0 < m) := by
  refine ⟨by decide +kernel, ?_⟩
  rintro x hx a n m rfl
  simp at hx
  omega

/-- The two values of R113's order: the larger first, whatever its place. -/
theorem test_topk_order :
    (topK 2 [.fin false 1 1, .fin true 3 1, .fin false 2 1, .fin false 2 1]).map (·.1) = [2, 3] := by
  decide +kernel

/-! The move engine and the gang engine. -/

/-- A move of opcode `op` from tile memory at 0, format `f`, to tile memory at 1,024, format `g`, one element. -/
def move (op f g : Nat) : Bytes :=
  desc [(0, op), (4, f <<< 44 + 1 <<< 40), (5, 1 + 1 <<< 20), (8, g <<< 44 + 1 <<< 40 + 1024), (9, 1 + 1 <<< 20)]

/-- Premises of `MoveOpcodes` for COPY, of one format and of two, and for FILL. -/
theorem test_move_premises :
    ∀ x ∈ [(0x50, 2, 2), (0x50, 0, 2), (0x51, 2, 2)],
      let d := move x.1 x.2.1 x.2.2
      let s := running d 3 id
      let e := s.runNow 0 0 d
      s.iterates 0 0 d ∧ dOp d = x.1 ∧ (after (readOpnd e (opA d) s)).isSome = true ∧ (after (writeOpnd e (opD d) (zeros 4) s)).isSome = true ∧
        nanTraps e.mode (flagsOf []) = false := by
  decide +kernel

/-- A COPY that waits for the finished-tile queue, and a FILL past the end of tile memory. -/
def waitDesc : Bytes := desc [(0, 0x50), (4, 2 <<< 44 + 3 <<< 40), (5, 16 + 16 <<< 20), (8, 2 <<< 44 + 1 <<< 40 + 1024), (9, 16 + 16 <<< 20)]
def farDesc : Bytes := splice (move 0x51 2 2) 64 (natLe 8 (2 <<< 44 + 1 <<< 40 + 393215))

/-- A SELECT whose comparator reads a summary that is pending. -/
def pendingSelect : State :=
  running (desc [(0, 2)]) 0 fun y => { y with cmps := [(0, some { cmpOf (desc []) with summary := true, src := 0 })], sums := [(0, { Summary.empty with ready := true })] }

/-- Premises of `IterationOutcomes` and `SequencerCompletes`: an iteration that commits, waits and holds; a shadow that reads, meets an exception and waits; and
a descriptor that cannot run. -/
theorem test_ending_premises :
    let out (s : State) (d : Bytes) : Nat := ending (bodyOf (dOp d) 0 (s.runNow 0 0 d) s)
    let past (d : Bytes) : Prop := ((shadowed d).ctx 0 0).runner none = some (d, true) ∧ (shadowed d).iterReady 0 0 d true = true
    let spec (d : Bytes) : Nat := ending (bodyOf (dOp d) 0 ((shadowed d).runOf 0 0 d true) ((shadowed d).unflagged 0))
    out (running (desc [(0, 1)]) 0 id) (desc [(0, 1)]) = 0 ∧ (running waitDesc 3 id).iterates 0 0 waitDesc ∧ out (running waitDesc 3 id) waitDesc = 3 ∧
      pendingSelect.iterates 0 0 (desc [(0, 2)]) ∧ out pendingSelect (desc [(0, 2)]) = 2 ∧
      past (move 0x50 2 2) ∧ spec (move 0x50 2 2) = 0 ∧ past farDesc ∧ spec farDesc = 1 ∧ past waitDesc ∧ spec waitDesc = 2 ∧
      ((State.reset.upset 0 .none).ctx 0 0).runner none = none := by
  decide +kernel

/-- A cache opcode on line 0, with a source at 0 in tile memory. -/
def lineDesc (op sub : Nat) : Bytes :=
  desc [(0, op + sub <<< 13), (4, 2 <<< 44 + 1 <<< 40), (5, 1 + 128 <<< 20), (8, 2 <<< 44 + 2 <<< 40), (9, 1 + 128 <<< 20)]

/-- Premises of `MoveOpcodes` for the cache opcodes: both phases, and DROP. -/
theorem test_line_premises :
    ∀ x ∈ [(0x52, 0), (0x53, 0), (0x53, 1)],
      let d := lineDesc x.1 x.2
      let s := running d 3 id
      let e := s.runNow 0 0 d
      s.iterates 0 0 d ∧ dOp d = x.1 ∧ dSubop d = x.2 ∧ (opA d).space = 1 ∧ e.at (opA d) % 512 = 0 ∧ (after (namedLines e s)).map (·.1) = some [0] ∧
        (s.ctx 0 0).part = 0 ∧ ((s.tile 0).line 0).st = .invalid ∧ (after (readTileRuns e (e.rows (opA d)) s)).isSome = true ∧
        (s.tile 0).memHurt 0 512 = false ∧ (s.tile 0).ocBad = [] := by
  decide +kernel

/-- Premises of the second phases. -/
theorem test_line_second_premises :
    ∀ x ∈ [0x52, 0x53],
      let s := runningCtx (lineDesc x 0) 3 fun y => { y with part := 1 }
      s.iterates 0 0 (lineDesc x 0) ∧ (s.ctx 0 0).part ≠ 0 ∧ (after (namedLines (s.runNow 0 0 (lineDesc x 0)) s)).map (·.1) = some [0] := by
  decide +kernel

/-- One product on a gang of one tile, in one pass: BF16 A and B in tile memory, an FP32 result to the finished-tile queue. -/
def mmaDesc : Bytes :=
  desc [(0, 0x10), (1, 7), (4, 1 <<< 40), (5, 1 + 1 <<< 20), (6, 1 <<< 40 + 64), (7, 1 + 1 <<< 20), (8, 3 <<< 40 + 2 <<< 44), (9, 1 + 1 <<< 20)]

/-- A tile about to run it, with A = 2.0 and B = 3.0. -/
def multiplying : State := running mmaDesc 1 fun y => { y with mem := writeBytes (writeBytes [] 0 [0x00, 0x40]) 64 [0x40, 0x40] }

/-- R74, R92: 2.0 × 3.0 stands in the finished-tile queue as FP32 6.0. -/
theorem test_mma_product :
    (match exec (.mma 0 0) multiplying with
    | .next u => ((u.tile 0).ftq.map fun (x : FtqEntry) => (x.elem, x.complete, x.data.take 4))
    | _ => []) = [(2, true, [0x00, 0x00, 0xC0, 0x40])] := by
  decide +kernel

/-- Premises of `GangOpcodes` for MMA. -/
theorem test_mma_premises :
    let s := multiplying
    let e := s.runNow 0 0 mmaDesc
    s.iterates 0 0 mmaDesc ∧ dOp mmaDesc = 0x10 ∧ (∀ r ∈ s.gangRows e, ∀ m ∈ r, s.memberLost m.t = false ∧ s.mayRun m.t = true) ∧
      (s.tile 0).gangHeld = false ∧ bit (dImm mmaDesc) 3 = false ∧
      (kLevel mmaDesc).isSome = false ∧ (passEnds mmaDesc (dIdx mmaDesc 0)).2 = true ∧
      (match after (mmaRead e (s.gangRows e) s) with
        | some (x, s1) => x.south.length == 1 && (after (deliverFrom x e (mmaOutputs x e s) 1 1 0 (resetHeldPorts (s.gangRows e) s1))).isSome &&
            (mmaConvert x e (mmaOutputs x e s)).all fun r => !nanTraps e.mode (convertFlags r.2)
        | none => false) = true := by
  decide +kernel

/-- Premises of `GangOpcodes` for PRUNE and GANG_RESUME. -/
theorem test_prune_premises :
    let d := desc [(0, 0x11), (4, 1 <<< 40), (5, 8 + 8 <<< 20), (8, 1 <<< 40 + 1024), (9, 8 + 8 <<< 20)]
    let s := running d 1 fun y => { y with gangHeld := true }
    let e := s.runNow 0 0 d
    s.iterates 0 0 d ∧ dOp d = 0x11 ∧ (∀ r ∈ s.gangRows e, ∀ m ∈ r, s.memberLost m.t = false) ∧ (after (readOpnd e (opA d) s)).isSome = true ∧
      (after (writeAt e 1 1024 (zeros 128) s)).isSome = true ∧ (s.tile 0).gangHeld = true ∧ gangSide (s.gangRec 0) = 1 ∧
      (s.tile (s.phys (gangTile 0 (s.gangRec 0) 0 0))).ftq.length < 8 ∧ (State.reset.tile 0).gangHeld = false := by
  decide +kernel

/-! Remote memory, from the requester. -/

/-- A remote opcode on 16 bytes of node 5, with operand A in tile memory. -/
def remote (op : Nat) : Bytes :=
  desc [(0, op), (4, 1 <<< 40), (5, 1 + (if op = 0x64 then 1 else 8) <<< 20), (8, 6 <<< 40), (9, 5 + 1 <<< 14 + 16 <<< 24)]

/-- Premises of `RemoteOpcodes` for the atomics and the exact add. -/
theorem test_remote_premises :
    ([0x62, 0x63, 0x64, 0x65].all fun op =>
      let d := remote op
      let s := running d 4 id
      let e := s.runNow 0 0 d
      decide (s.wf = true ∧ s.iterates 0 0 d ∧ dOp d = op ∧ (s.ctx 0 0).part = 0 ∧ (s.tile 0).mayRequest = true ∧
        (after (fabricAt e (opD d) 8 s)).map (·.1) = some 5910974510923776 ∧ bits 5910974510923776 18 4 = 0 ∧ (after (canReturn e s)).isSome = true ∧
        (after (readRuns e (opA d).space (e.rows (opA d)) s)).isSome = true ∧ (after (raccData e s)).isSome = true)) = true := by
  decide +kernel

/-- Premises of `RemoteOpcodes` for TRIGGER: the command holds after its request. -/
theorem test_trigger_premises :
    let s := running (desc [(0, 7), (5, 64)]) 4 id
    s.iterates 0 0 (desc [(0, 7), (5, 64)]) ∧ 64 % 32 = 0 ∧ 64 + 32 ≤ 393216 ∧
      (after (readTileRuns (s.runNow 0 0 (desc [(0, 7), (5, 64)])) [(64, 32)] s)).isSome = true := by
  decide +kernel

/-- A load of 16 bytes from node 5 into tile memory, and a store of 16 bytes to it. -/
def remoteLoad : Bytes := desc [(0, 0x60), (4, 6 <<< 40), (5, 5 + 1 <<< 14 + 16 <<< 24), (8, 1 <<< 40), (9, 1 + 16 <<< 20)]

/-- Premises of `RemoteOpcodes` for RLOAD and RSTORE. -/
theorem test_load_premises :
    let s := running remoteLoad 4 id
    let e := s.runNow 0 0 remoteLoad
    let z := running (remote 0x61) 4 id
    let g := z.runNow 0 0 (remote 0x61)
    s.iterates 0 0 remoteLoad ∧ (after (fabricAt e (opA remoteLoad) 8 s)).map (·.1) = some 5910974510923776 ∧
      (after (canWrite e 1 (e.rows (opD remoteLoad)) s)).isSome = true ∧
      (match after (sendReqs e 0 0 5 [⟨.load 0, 1, 5910974510923776, 0, 0, 16, (0, 0)⟩] s) with | some (_, u) => (u.tile 0).awaits 0 | none => false) = true ∧
      (cutKib 2 5910974510923776 0 16) = [(0, 16)] ∧ z.iterates 0 0 (remote 0x61) ∧ (after (canRead g 1 (g.rows (opA (remote 0x61))) z)).isSome = true ∧
      (match after (sendReqs g 0 0 5 [⟨.store, 2, 5910974510923776, 0, 0, 16, (0, 16)⟩] z) with | some (_, u) => (u.tile 0).awaits 0 | none => false) = true := by
  decide +kernel

/-- Premises of `RemoteOpcodes`. -/
theorem test_remote_complete_premises :
    ([0x61, 0x62, 0x63, 0x64, 0x65].all fun op =>
      let s := runningCtx (remote op) 4 fun x => { x with part := 1 }
      decide (s.iterates 0 0 (remote op) ∧ (s.tile 0).awaits 0 = false ∧ (s.ctx 0 0).part = 1 ∧ (opB (remote op)).space = 0 ∧
        (after (fabricAt (s.runNow 0 0 (remote op)) (opD (remote op)) 8 s)).isSome = true)) = true := by
  decide +kernel

/-- Premises of `RemoteOpcodes` where a value comes back: RLOAD, and RFADD with B in tile memory. -/
theorem test_remote_value_premises :
    let d := splice (remote 0x62) 48 (natLe 8 (1 <<< 40 + 64))
    let s := runningCtx d 4 fun x => { x with part := 1 }
    let z := runningCtx remoteLoad 4 fun x => { x with part := 1, arrived := [(0, zeros 16)] }
    s.iterates 0 0 d ∧ (opB d).space ≠ 0 ∧ (after (writeAt (s.runNow 0 0 d) 1 64 (zeros 8) s)).isSome = true ∧ z.iterates 0 0 remoteLoad ∧
      (z.tile 0).awaits 0 = false ∧ (after (writeOpnd (z.runNow 0 0 remoteLoad) (opD remoteLoad) (zeros 16) z)).isSome = true := by
  decide +kernel

/-! Exact accumulators and stream records. -/

/-- An accumulator opcode on one element of A at 0, of slot 0, with D at 1024. -/
def accDesc (op sub : Nat) : Bytes := desc [(0, op + sub <<< 13), (4, 1 <<< 40), (5, 1 + 1 <<< 20), (8, 1 <<< 40 + 1024), (9, 1 + 1 <<< 20)]

/-- Premises of `ExactSumOrderFree` and `TermLimit`: a slot that takes a term, one that is at the limit, and two terms in either order. -/
theorem test_slot_premises :
    let x := Slot.zero
    let y := { Slot.zero with terms := 2 ^ 40 }
    let p := (termOf (.fin false 1 1)).1
    let q := (termOf (.fin true 3 1)).1
    x.full = false ∧ x.terms + p.n ≤ 2 ^ 40 ∧ p.v < 2 ^ 336 ∧ q.v < 2 ^ 336 ∧ [p, q].Perm [q, p] ∧ p.v ≠ q.v ∧ y.full = false ∧ 2 ^ 40 < y.terms + p.n := by
  decide +kernel

/-- Premises of `AccumulatorOpcodes` for ACCSUM, without and with a read-out. -/
theorem test_accsum_premises :
    let d := accDesc 0x70 0
    let s := running d 5 id
    let r := accDesc 0x70 2
    let z := running r 5 id
    s.iterates 0 0 d ∧ dOp d = 0x70 ∧ (after (readTerms (s.runNow 0 0 d) s)).isSome = true ∧ bit (dSubop d) 1 = false ∧ z.iterates 0 0 r ∧
      dOp r = 0x70 ∧ bit (dSubop r) 1 = true ∧
      (match after (readTerms (z.runNow 0 0 r) z) with
        | some (ts, s1) => (match after (readOut (dImmBits r 9 6) (dImmBits r 11 10) (addTerms (opA r).cols ts ((s1.tile 0).slotsFrom 0 1)).1 s1) with
          | some (x, s2) => (after (writeRowsOf (z.runNow 0 0 r) (opD r) ((z.runNow 0 0 r).rowsOf (opD r) x.1.length 1) x.1 s2)).isSome
          | none => false)
        | none => false) = true := by
  decide +kernel

/-- Premises of `AccumulatorOpcodes` for ACCREAD, ACCCLR, ACCSTORE and ACCLOAD. -/
theorem test_accread_premises :
    let s (op : Nat) := running (accDesc op 0) 5 id
    let e (op : Nat) := (s op).runNow 0 0 (accDesc op 0)
    (s 0x71).iterates 0 0 (accDesc 0x71 0) ∧
      (match after (readOut 0 0 [Slot.zero] (s 0x71)) with
        | some (x, s1) => (after (writeRowsOf (e 0x71) (opD (accDesc 0x71 0)) ((e 0x71).rowsOf (opD (accDesc 0x71 0)) x.1.length 1) x.1 s1)).isSome
        | none => false) = true ∧
      (s 0x72).iterates 0 0 (accDesc 0x72 0) ∧ (s 0x73).iterates 0 0 (accDesc 0x73 0) ∧
      (after (writeRowsOf (e 0x73) (opD (accDesc 0x73 0)) ((e 0x73).rowsOf (opD (accDesc 0x73 0)) 64 1) Slot.zero.raw (s 0x73))).isSome = true ∧
      (s 0x74).iterates 0 0 (accDesc 0x74 0) ∧
      (match after (readRuns (e 0x74) 1 ((e 0x74).rowsOf (opA (accDesc 0x74 0)) 64 1) (s 0x74)) with
        | some (a, _) => (cutEvery 64 1 a).all rawOk
        | none => false) = true := by
  decide +kernel

/-- Premises of `StreamOpcodes`: a record of zeros is well formed, and D has room. -/
theorem test_stream_premises :
    ([0x78, 0x79, 0x7A, 0x7B].all fun op =>
      let d := accDesc op 0
      let s := running d 5 id
      let e := s.runNow 0 0 d
      decide (s.iterates 0 0 d ∧ dOp d = op) && (match after (readRecords e s) with
        | some (l, s1) => l.length == 1 && (after (writeRecords e l s1)).isSome &&
            (after (writeRowsOf e (opD d) [(e.at (opD d), 64)] (zeros 64) s1)).isSome
        | none => false)) = true := by
  decide +kernel

/-! Collectives. -/

/-- Entry 0 valid with tile 0 of this package as its one endpoint and root, and an instance that the descriptor `d` of context 0 has joined. -/
def joined (d : Bytes) (f : Inst → Inst) : State :=
  let m : ColMember := ⟨0, 0, 0, d, [], [], false, false, [], some 0⟩
  let x := f { Inst.fresh 0 (dOp d) 7 0 with members := [m] }
  ({ running d 4 id with groups := [(0, { Group.empty with owner := 1, members := [⟨0, 0, 0⟩], issued := [(0, 1)], insts := [x], anyEpoch := false })] }).withFld
    (Reg.colGrpCfg 0) 0 0 1

/-- The instance and its member are found. -/
def joins (s : State) : Bool :=
  match (s.group 0).inst 0 with
  | some x => (x.members.find? (·.tile == 0)).isSome
  | none => false

/-- Premises of `CollectiveOpcodes` where a run of A is read, and where none is. -/
theorem test_collective_premises :
    ([0x80, 0x81, 0x82, 0x83, 0x84, 0x85, 0x87, 0x88, 0x89, 0x8A].all fun op =>
      let d := desc [(0, op), (4, 1 <<< 40), (5, 1 + 1 <<< 20)]
      let s := joined d id
      let e := s.runNow 0 0 d
      decide (s.iterates 0 0 d ∧ dOp d = op ∧ (opD d).space = 0 ∧ (opA d).space ≠ 0) && joins s &&
        (match after (readOpnd e (opA d) s) with | some (_, s1) => joins s1 | none => false) &&
        (match after (readScaled e (opA d) s) with
          | some (v, s1) => v.length == 1 && joins (s1.modTile (s1.phys 0) (·.accFlag 0))
          | none => false) &&
        (match after (readRuns e 1 [(e.at (opA d), 64)] s) with
          | some (b, s1) => (cutRecords 0 b).all (recordOk 0) && joins (s1.modInst 0 0 fun y => y.modMember 0 fun k => { k with data := b })
          | none => false)) = true := by
  decide +kernel

/-- Premises of `CollectiveOpcodes` for ALLTOALLV, and for a rank without A. -/
theorem test_alltoallv_premises :
    let d := desc [(0, 0x86), (4, 1 <<< 40), (5, 1 + 1 <<< 20), (6, 1 <<< 40), (7, 1 + 2 <<< 20)]
    let s := joined d id
    let e := s.runNow 0 0 d
    let k := desc [(0, 0x83)]
    s.iterates 0 0 d ∧ dOp d = 0x86 ∧ (opD d).space = 0 ∧
      (match after (readOpnd e (opA d) s) with
        | some (b, s1) =>
          let rows := sizeRows (opB d) (e.at (opB d))
          (match after (readRuns e 1 rows s1) with
            | some (z, s2) => rdLe z 0 4 == 0 && (after (canWrite e 1 rows s2)).isSome &&
                joins (s2.modInst 0 0 fun y => y.modMember 0 fun k => { k with data := b, sizes := [0] })
            | none => false)
        | none => false) = true ∧ (joined k id).iterates 0 0 k ∧ (opA k).space = 0 := by
  decide +kernel

/-- Premises of `GroupsAndInstances`: an entry idle, one busy, and the list of an entry whose checks fail. -/
theorem test_group_commit_premises :
    State.reset.fld (Reg.colGrpState 0) 57 57 = 0 ∧ State.reset.groupOn 0 = false ∧ (joined (desc [(0, 0x84)]) id).groupOn 0 = true ∧
      (let s := State.reset.withFld (Reg.colGrpState 0) 57 57 1
      s.fld (Reg.colGrpState 0) 57 57 = 1 ∧ (s.listRead 0 false (s.staged 0 []).owner).1.listError 0 (s.listRead 0 false (s.staged 0 []).owner).2 ≠ 0) := by
  decide +kernel

/-- Entry 3 asked to commit: owner 1, one member, logical tile 0, in a list of one word of zeros in HBM, and logical tile 1 as its reducer. -/
def committing : State :=
  let r := running (desc []) 0 id
  let y : Tile := { Tile.reset with idState := 1, idLogical := some 1 }
  let s := { r with
    groups := [(3, { Group.empty with newEpoch := 1 })], tiles := r.tiles ++ [(1, y)],
    dies := [(0, { Die.reset with structured := true, active := splice (section0 0) (128 + 256) [0x12] })],
    commit := { r.commit with parts := [(1, natLe 64 (1 <<< 8 + 1 <<< 16) ++ natLe 8 (1 <<< 8 + 1 <<< 36))] } }
  let u := forEach [(Reg.colGrpCfg 3, 1 <<< 1 + 1 <<< 7), (Reg.colGrpList 3, 1 <<< 40), (Reg.colGrpReduce 3, 1 + 1 <<< 15 + 1 <<< 42)]
    (fun x s => s.withReg x.1 (word x.2)) s
  u.withFld (Reg.colGrpState 3) 57 57 1

/-- Premises of `GroupsAndInstances` for a list that passes. -/
theorem test_group_list_premises :
    committing.fld (Reg.colGrpState 3) 57 57 = 1 ∧ committing.wf = true ∧
      (let r := committing.listRead 3 false (committing.staged 3 []).owner
      r.2 = some [0] ∧ r.1.listError 3 r.2 = 0 ∧ r.1.wf = true) := by
  decide +kernel

/-- A message of entry 0 and instance 0 with a header of 32 bytes, from node `src`, with `data` behind it. -/
def message (kind op status off count src : Nat) (data : Bytes) : Frame :=
  { kind := 3, cls := 0, vc := 0, dest := 0, src := src, flow := 0, unord := false, ce := false, ece := false, origin := 0,
    payload := colBytes 0 0 kind op 0 0 status off count 7 data }

/-- Premises of `GroupMessages`: a header that is none, an unknown tag, an older and a newer epoch, other parameters, and an ended instance. -/
theorem test_group_refusal_premises :
    let s := joined (desc [(0, 0x80)]) id
    let f := message 1 0x80 0 0 1 0 (zeros 64)
    colHeaderOk 2 f = false ∧ State.reset.tagEntry 0 = none ∧ s.addressed f 1 0 ∧ ((s.withFld (Reg.colGrpState 0) 15 0 1).groupEpoch 0 = 1) ∧
      ((s.withFld (Reg.colGrpState 0) 15 0 0xFFFF).groupEpoch 0 = 0xFFFF) ∧ cmEpoch f.payload = 0 ∧
      ((s.group 0).inst 0).map (·.opcode) = some 0x80 ∧ cmOp (message 1 0x81 0 0 1 0 []).payload = 0x81 ∧
      (let z := s.modGroup 0 fun g => { g with insts := [], ended := [(0, 0)] }
      let a := s.modGroup 0 fun g => { g with insts := [], ended := [(0, 0x51)] }
      z.addressed f 1 0 ∧ (z.group 0).inst 0 = none ∧ (z.group 0).ended.find? (·.1 == 0) = some (0, 0) ∧ z.addressed (message 5 0x80 0x51 0 1 0 []) 5 0 ∧
        (a.group 0).ended.find? (·.1 == 0) = some (0, 0x51) ∧ a.addressed (message 4 0x80 0 0 1 0 []) 4 0 ∧ cmStatus (message 4 0x80 0 0 1 0 []).payload = 0) := by
  decide +kernel

/-- Premises of `GroupMessages`: every kind meets the instance, at its opcode. -/
theorem test_group_message_premises :
    ([(1, 0x80), (1, 0x83), (1, 0x85), (2, 0x80), (2, 0x82), (3, 0x80), (3, 0x81), (3, 0x83), (3, 0x87), (3, 0x89), (4, 0x80), (5, 0x80), (7, 0x87),
        (7, 0x86), (8, 0x84)].all fun k =>
      let d := desc [(0, k.2)]
      let s := joined d id
      let f := message k.1 k.2 (if k.1 = 5 then 0x51 else 0) 0 1 0 (zeros 64)
      let x := { Inst.fresh 0 k.2 7 0 with members := [⟨0, 0, 0, d, [], [], false, false, [], some 0⟩] }
      decide (s.wf = true ∧ s.meets f k.1 0 x ∧ f.src = s.node ∧ x.members.find? (·.tile == f.flow % 2 ^ 15) ≠ none)) = true := by
  decide +kernel

/-- Premises of `GroupMessages` for credit that refuses: of a message that was sent, and of none; and results, counts and aborts that need no data or no instance. -/
theorem test_group_refused_premises :
    let d := desc [(0, 0x80)]
    let c := message 4 0x80 1 0 1 0 []
    let m := message 1 0x80 0 0 1 0 (zeros 64)
    let s := (joined d id).modGroup 0 fun g => { g with sent := [(9, m)] }
    let x := { Inst.fresh 0 0x80 7 0 with members := [⟨0, 0, 0, d, [], [], false, false, [], some 0⟩] }
    s.meets c 4 0 x ∧ cmStatus c.payload = 1 ∧ (s.group 0).sent.find? (fun m => refusedBy c m.2) = some (9, m) ∧
      ((joined d id).group 0).sent.find? (fun m => refusedBy c m.2) = none ∧ (message 3 0x80 0 0 1 0 []).payload.drop 32 = [] ∧
      forAll x [] = true ∧ ((s.modGroup 0 fun g => { g with refused := [(9, m)] }).group 0).refused = [(9, m)] ∧ s.clk.kclk < 9 ∧ (s.group 0).refused = [] := by
  decide +kernel

/-- Premises of `SequencerCompletes`: the bodies of CVT, TOPK, STSUM and the collective opcodes that end. -/
theorem test_body_premises :
    let out (s : State) (d : Bytes) : Nat := ending (bodyOf (dOp d) 0 (s.runNow 0 0 d) s)
    let t := running topDesc 2 fun y => { y with ocLines := [(0, ⟨.valid, none, []⟩)] }
    out (vector 0x31 2) (vec 0x31 2) = 0 ∧ out t topDesc = 0 ∧ out (vector 0x3E 2) (vec 0x3E 2) = 0 ∧
      (∀ op ∈ [0x80, 0x81, 0x82, 0x83, 0x84, 0x85, 0x87, 0x88, 0x89, 0x8A],
        out (joined (desc [(0, op), (4, 1 <<< 40), (5, 1 + 1 <<< 20)]) id) (desc [(0, op), (4, 1 <<< 40), (5, 1 + 1 <<< 20)]) = 0) ∧
      out (joined (desc [(0, 0x86), (4, 1 <<< 40), (5, 1 + 1 <<< 20), (6, 1 <<< 40), (7, 1 + 2 <<< 20)]) id)
        (desc [(0, 0x86), (4, 1 <<< 40), (5, 1 + 1 <<< 20), (6, 1 <<< 40), (7, 1 + 2 <<< 20)]) = 0 := by
  decide +kernel

/-- Premises of `GroupAndPorterCompletions`: an instance that is complete, a result for one member, and an entry that is on with no instance. -/
theorem test_group_complete_premises :
    let z := joined (desc [(0, 0x80)]) fun x => { x with members := x.members.map fun m => { m with accepted := true } }
    let s := joined (desc [(0, 0x81)]) id
    let f := message 3 0x81 0 0 1 0 (zeros 64)
    let x := { Inst.fresh 0 0x81 7 0 with members := [⟨0, 0, 0, desc [(0, 0x81)], [], [], false, false, [], some 0⟩] }
    let k := s.modGroup 0 fun g => { g with insts := [] }
    (match (z.group 0).inst 0 with
      | some y => (match y.members.find? fun m => z.phys m.tile == 0 with
        | some m => !m.done && m.accepted && m.need == some 0 && m.got == [] && y.opcode != 0x84 && (z.ctx 0 m.ctx).desc == some m.desc
        | none => false)
      | none => false) = true ∧
      s.meets f 3 0 x ∧ f.payload.drop 32 ≠ [] ∧ (s.group 0).ranksOn s.node ≠ [] ∧ (x.members.find? fun m => m.tile == f.flow % 2 ^ 15).isSome = true ∧
      s.wf = true ∧ (s.group 0).insts = [x] ∧ k.groupOn 0 = true ∧ (k.group 0).insts = [] ∧ k.fld (Reg.colGrpState 0) 57 57 = 0 := by
  decide +kernel

/-- Premises of `GroupMessages` for a heartbeat, and for the release of a phase from another package. -/
theorem test_group_release_premises :
    let s := joined (desc [(0, 0x84)]) id
    let f := message 8 0x84 0 0 0 9 []
    s.addressed (message 6 0x84 0 0 0 9 []) 6 0 ∧ s.groupEpoch 0 = 0 ∧ s.addressed f 8 0 ∧ f.src ≠ s.node ∧ ((s.group 0).children s.node).contains f.src = false := by
  decide +kernel

/-- Premises of `GroupsAndInstances`: a window that is open and one that is not, a merge, a member that is done, and a lost neighbour. -/
theorem test_instance_premises :
    let d := desc [(0, 0x80), (4, 1 <<< 40), (5, 1 + 1 <<< 20)]
    let s := joined d fun x => { x with inputs := [⟨1, 0, 0, 1, zeros 64⟩] }
    let z := joined (desc [(0, 0x84)]) fun x => { x with released := true, members := x.members.map fun m => { m with accepted := true } }
    s.groupOn 0 = true ∧
      (match (s.group 0).inst 0, (z.group 0).inst 0, (joined d id |>.group 0).inst 0 with
        | some x, some y, some v => x.window (s.group 0) 0 == [0] && !x.closed.contains 0 && !x.members.isEmpty && v.closed == [] &&
            (s.sources (s.group 0) x).all (fun k => (x.part (s.group 0) k.1 k.2 0).isSome && (v.part (s.group 0) k.1 k.2 0).isNone) &&
            (match y.members.find? fun m => z.phys m.tile == 0 with
              | some m => !m.done && m.accepted && m.need == some 0 && (z.ctx 0 m.ctx).desc == some m.desc
              | none => false)
        | _, _, _ => false) = true ∧ (s.group 0).rootNode = s.node ∧
      (let g := { s.group 0 with members := [⟨0, 0, 0⟩, ⟨1, 0, 0⟩] }
      (g.children 0).contains 1 = true) := by
  decide +kernel


/-! Ports and the Ubrix link. -/

/-- A package with port 0 of a die in fabric mode or not, at a link state, and with the record `r` of port 0 where one is given. -/
def portAt (fab : Bool) (st : Nat) (r : Nat) (f : Port → Port) : State :=
  let s := ((State.reset.withReg (pdReg 0 Reg.lnkDieMode) (if fab then 1 else 0)).withReg (portReg 0 Reg.lnkPortStatus) (BitVec.ofNat 64 st)).modPort 0 f
  if r = 0 then s else s.withDie 16 { Die.reset with active := zeros 64 ++ natLe 8 r ++ zeros 568, structured := true }

/-- A group of sequence number `seq` with idle cells and its check value. -/
def group0 (seq : Nat) : Bytes :=
  let b := [0x50] ++ zeros 1087 ++ natLe 2 seq ++ zeros 10
  b ++ natLe 4 (crc32c b)

/-- Premises of `LinkTraffic`: bad groups, with and without loss of alignment, on a live link and on none. -/
theorem test_group_bad_premises :
    State.reset.linkLive 0 = false ∧ (portAt true 2 0 id).linkLive 0 = true ∧ rdLe (zeros 1104) 0 1 / 16 ≠ 5 ∧
      ((portAt true 2 0 id).port 0).badRun + 1 < 4 ∧ 4 ≤ ((portAt true 2 0 fun x => { x with badRun := 3 }).port 0).badRun + 1 := by
  decide +kernel

/-- A CRC step keeps within 32 bits. -/
theorem crcBits_lt (n c : Nat) (h : c < 2 ^ 32) : crcBits 0x82F63B78 n c < 2 ^ 32 := by
  induction n generalizing c with
  | zero => exact h
  | succ n ih =>
    have hs : c >>> 1 < 2 ^ 32 := by simp only [Nat.shiftRight_succ, Nat.shiftRight_zero]; omega
    unfold crcBits
    split
    · exact ih _ (Nat.xor_lt_two_pow hs (by decide))
    · exact ih _ hs

/-- The check value of bytes followed by their check value is that value. -/
theorem crc32c_appended (c : Bytes) : crc32c ((c ++ natLe 4 (crc32c c)).take c.length) = rdLe (c ++ natLe 4 (crc32c c)) c.length 4 := by
  have hc : crc32c c < 2 ^ 32 := by
    unfold crc32c
    refine Nat.xor_lt_two_pow ?_ (by decide)
    generalize h0 : (0xFFFFFFFF : Nat) = a
    have ha : a < 2 ^ 32 := by omega
    clear h0
    induction c generalizing a with
    | nil => exact ha
    | cons x l ih => exact ih _ (crcBits_lt _ _ (Nat.xor_lt_two_pow ha (by have := x.isLt; omega)))
  rw [List.take_left]
  generalize crc32c c = v at hc ⊢
  simp only [rdLe, slice, List.drop_left, natLe, List.take, leNat, BitVec.toNat_ofNat]
  omega

/-- Premises of `LinkTraffic`: a good group that is the next one. -/
theorem test_group_good_premises :
    let b := group0 0
    rdLe b 0 1 / 16 = 5 ∧ crc32c (b.take 1100) = rdLe b 1100 4 ∧ bit (rdLe (slice b 1088 16) 0 2) 12 = false ∧
      rdLe (slice b 1088 16) 0 2 % 4096 = ((portAt true 2 0 id).port 0).expSeq := by
  refine ⟨by decide +kernel, ?_, by decide +kernel, by decide +kernel⟩
  have h : (([0x50] : Bytes) ++ zeros 1087 ++ natLe 2 0 ++ zeros 10).length = 1100 := by decide +kernel
  have := crc32c_appended ([0x50] ++ zeros 1087 ++ natLe 2 0 ++ zeros 10)
  rwa [h] at this

/-- Premises of `LinkTraffic`: old and early sequence numbers. -/
theorem test_group_order_premises :
    sgn 12 ((5 + 4096 - 6) % 4096) < 0 ∧ 0 ≤ sgn 12 ((7 + 4096 - 6) % 4096) ∧ sgn 12 ((4095 + 4096 - 0) % 4096) < 0 := by
  decide +kernel

/-- A group kept for replay. -/
def kept (seq attempts : Nat) : RGroup := ⟨seq, [], attempts, [], []⟩

/-- Premises of `LinkTraffic`: replays, and CREDIT_INIT at link-up and after. -/
theorem test_replay_premises :
    let s := portAt true 2 0 fun x => { x with replay := [kept 3 0, kept 4 1], linked := true }
    s.wf = true ∧ s.linkLive 0 = true ∧ (s.port 0).replay ≠ [] ∧ (∀ g ∈ (s.port 0).replay, g.attempts < 2) ∧
      (∃ g ∈ ((portAt true 2 0 fun x => { x with replay := [kept 3 8] }).port 0).replay, 8 ≤ g.attempts) ∧ s.fabricPort 0 = true ∧ s.portOn 0 = true ∧
      (s.port 0).linked = true ∧ setOk (orderedSet 2 (zeros 32 ++ natLe 2 4)) 2 = true ∧ rdLe (orderedSet 2 (zeros 32 ++ natLe 2 4)) 40 2 % 4096 = 4 ∧
      (s.port 0).replay = [kept 3 0] ++ kept 4 1 :: [] ∧ setOk (orderedSet 2 (zeros 32 ++ natLe 2 9)) 2 = true ∧
      (∀ g ∈ (s.port 0).replay, g.seq ≠ 9) ∧ setOk (zeros 64) 2 = false ∧ ((portAt true 2 0 id).port 0).linked = false := by
  decide +kernel

/-- Premises of `LinkTraffic` on a port that trains: the third and the fourth good group; and a CREDIT_INIT that is another set, and one that is no block. -/
theorem test_training_group_premises :
    let s := portAt true 1 0 id
    let b := orderedSet 3 []
    s.linkLive 0 = false ∧ s.portOn 0 = true ∧ s.fabricPort 0 = true ∧ s.linkState 0 = 1 ∧ (s.port 0).goodRun ≠ 3 ∧
      ((portAt true 1 0 fun x => { x with goodRun := 3 }).port 0).goodRun = 3 ∧ State.reset.linkState 0 = 0 ∧ (State.reset.port 0).replay = [] ∧
      setOk b 2 = false ∧ rdLe b 0 1 / 16 = 10 ∧ crc32c (b.take 60) = rdLe b 60 4 ∧ rdLe (zeros 64) 0 1 / 16 ≠ 10 ∧ (s.port 0).badRun < 3 ∧
      3 ≤ ((portAt true 2 0 fun x => { x with badRun := 3 }).port 0).badRun ∧ (s.port 0).timeOwed = false ∧ State.reset.fabricPort 0 = false := by
  decide +kernel

/-- Premises of `LinkTraffic` for a TIME set that is sent: at once while the port is not up, at its place, and later. -/
theorem test_time_send_premises :
    let a := portAt true 1 0 fun x => { x with firstTime := true, credIn := true }
    let b := portAt true 2 0 fun x => { x with sinceOs := 15 }
    let c := portAt true 2 0 fun x => { x with filling := [([], none)] }
    a.linkLive 0 = true ∧ a.portUp 0 = false ∧ (a.port 0).firstTime = true ∧ (a.port 0).credIn = true ∧ b.linkLive 0 = true ∧ b.portUp 0 = true ∧
      (b.port 0).filling = [] ∧ 15 ≤ (b.port 0).sinceOs ∧ c.portUp 0 = true ∧ (c.port 0).filling ≠ [] ∧ (portAt false 2 0 id).fabricPort 0 = false := by
  decide +kernel

/-- Premises of `LinkTraffic`: TIME sets, before and after the first exchange. -/
theorem test_time_premises :
    let a := orderedSet 1 (zeros 52)
    let b := orderedSet 1 (natLe 8 9 ++ natLe 8 7 ++ natLe 8 8 ++ natLe 1 1)
    setOk a 1 = true ∧ rdLe a 16 8 = 0 ∧ rdLe a 24 8 = 0 ∧ setOk b 1 = true ∧ rdLe b 16 8 = 7 ∧ setOk (zeros 64) 1 = false ∧ State.reset.pins.autoBoot = false ∧
      ((portAt true 4 0 fun x => { x with firstTime := true }).linkLive 0) = true := by
  decide +kernel

/-- Premises of `PortStates`: the states that each event meets. -/
theorem test_port_state_premises :
    let s (fab : Bool) (st : Nat) := portAt fab st 0 id
    State.reset.portOn 31 = false ∧ (s true 1).portOn 0 = true ∧ (s true 1).linkState 0 = 1 ∧ (s false 3).linkState 0 = 3 ∧ (s true 1).fabricPort 0 = true ∧
      (s false 1).fabricPort 0 = false ∧ (s true 5).linkState 0 = 5 ∧ (s true 2).linkState 0 = 2 ∧ (s true 0).linkState 0 = 0 ∧
      ((s true 2).port 0).retrainAt.length < 2 ∧ ((portAt true 2 0 fun x => { x with retrainAt := [0, 0] }).port 0).retrainAt.filter (0 < · + 250000000) = [0, 0] ∧
      ((s true 1).port 0).goodRun < 4 ∧ 4 ≤ ((portAt true 1 0 fun x => { x with goodRun := 4 }).port 0).goodRun ∧ (s true 4).linkState 0 = 4 := by
  decide +kernel

/-- Premises of `PortStates`: LINK_STATE sets that narrow a port of eight lanes, that leave it no width, that answer a request, and that change nothing; and a die
whose ports are off. -/
theorem test_narrow_premises :
    let s := portAt true (2 + 3 <<< 3 + 0xFF <<< 5) 0 id
    let set (m asks : Nat) := orderedSet 3 (natLe 1 m ++ [0] ++ natLe 1 asks)
    s.linkState 0 = 2 ∧ s.portOn 0 = true ∧ setOk (set 0x0F 1) 3 = true ∧ setOk (zeros 64) 3 = false ∧ bit (rdLe (set 0x0F 1) 10 1) 0 = true ∧
      bit (rdLe (set 0x0F 0) 10 1) 0 = false ∧ s.activeLanes 0 &&& (s.goodLanes 0 &&& rdLe (set 0x0F 1) 8 1) ≠ s.activeLanes 0 ∧
      s.activeLanes 0 &&& (s.goodLanes 0 &&& rdLe (set 0xFF 1) 8 1) = s.activeLanes 0 ∧
      narrower (s.goodLanes 0 &&& rdLe (set 0x0F 1) 8 1) (s.portWidth 0) = some (2, 0x0F) ∧
      narrower (s.goodLanes 0 &&& rdLe (set 0 1) 8 1) (s.portWidth 0) = none ∧ (s.port 0).reqWidth = none ∧
      ((portAt true 2 0 fun x => { x with reqWidth := some 2 }).port 0).reqWidth.isSome = true ∧
      ((List.range 32).all fun e => !(State.reset.withDie 17 { Die.reset with active := zeros 0x240 }).portOn (32 * 1 + e)) = true := by
  decide +kernel

/-- Premises of `PortStates`: flow control received on an Ethernet port, with PAUSE and with PFC, and classes that are held. -/
theorem test_flow_premises :
    let s (r : Nat) := portAt false 2 (1 + r) fun x => { x with hold := [(3, 100)] }
    (s 0).portUp 0 = true ∧ (s 0).fabricPort 0 = false ∧ bit ((s 0).portRec 0) 20 = false ∧ bit ((s (1 <<< 20)).portRec 0) 20 = true ∧
      bit ((s (1 <<< 20)).portRec 0) 19 = false ∧ bit ((s (1 <<< 19)).portRec 0) 19 = true ∧ mapGet 0 3 ((s 0).port 0).hold ≠ 0 ∧
      mapGet 0 3 ((portAt true 2 0 fun x => { x with hold := [(3, 100)] }).port 0).hold ≠ 0 ∧ mapGet 0 2 ((s 0).port 0).hold = 0 ∧
      ((s 0).withReg (portReg 0 Reg.lnkPfcMap) 7).fld (portReg 0 Reg.lnkPfcMap) 2 0 = 7 ∧ (s 0).fld (portReg 0 Reg.lnkPfcMap) 2 0 ≠ 7 := by
  decide +kernel

/-! The switch. -/

/-- A frame of `n` bytes of class `c` for another node. -/
def data0 (n c : Nat) : Frame := { frame0 with cls := c, payload := zeros n }

/-- A frame in a queue. -/
def queued (f : Frame) : QFrame := ⟨f, 1, f.cls, f.payload.length, 0, [], none, true, false, 0, false⟩

/-- Premises of `FrameArrivals`: fabric ports, short, long and PTP frames, and a station that is not known. -/
theorem test_arrival_premises :
    let s := portAt false 2 0 id
    let ptp : Frame := { frame0 with payload := zeros 12 ++ [0x88, 0xF7] ++ zeros 60 }
    data0 64 0 ∈ ((portAt true 2 0 fun x => { x with rxDone := [data0 64 0] }).port 0).rxDone ∧ data0 64 0 ∉ ((portAt true 2 0 id).port 0).rxDone ∧
      s.portUp 0 = true ∧ s.fabricPort 0 = false ∧ s.wireLen 0 (data0 8 0) < 64 ∧ ¬ s.wireLen 0 ptp < 64 ∧ ¬ s.maxFrame 0 < s.wireLen 0 ptp ∧
      isPtp ptp.payload = true ∧ isPtp (zeros 76) = false ∧ s.etherFrame 0 (data0 76 0) = none := by
  decide +kernel

/-- Ports 0 and 1 of a die, with node 5 behind the ports of `set` and its station at every address 0. -/
def routed (fab : Bool) (set : Nat) (f : Port → Port) : State :=
  forEach [(portReg 1 Reg.lnkPortStatus, 2), (pdReg 0 (Reg.rteActNode 5), 0x103), (pdReg 0 (Reg.rteActSetLo 3), set),
    (pdReg 0 (Reg.rteActStationLo 0), 2 ^ 60), (pdReg 0 (Reg.rteActStationLo 0) + 8, 5)] (fun x s => s.withReg x.1 (BitVec.ofNat 64 x.2)) (portAt fab 2 0 f)

/-- Premises of `FrameArrivals` for a frame whose last cell has not arrived: one that goes to port 1, one that goes nowhere, one that a policer takes, and one that
is cut through already. -/
theorem test_assembling_premises :
    let f : Frame := { data0 600 2 with dest := 5 }
    let s (fwd : Option Nat) := routed true 2 fun x => { x with asm := [(4, ⟨some f, false, fwd⟩)] }
    (s none).portUp 0 = true ∧ (s none).fabricPort 0 = true ∧ f ∉ ((s none).port 0).rxDone ∧ mapGet Asm.idle (2 * f.cls + f.vc) ((s none).port 0).asm = ⟨some f, false, none⟩ ∧
      (mapGet Asm.idle (2 * f.cls + f.vc) ((s (some 9)).port 0).asm).fwd.isSome = true ∧ ((s none).ingressClass 0 1000 1000 f).2 = some 2 ∧
      (s none).cutsTo 0 2 f = true ∧ (routed true 0 id).cutsTo 0 2 f = false ∧
      (((s none).withReg (bucketReg 0 2 true) (BitVec.ofNat 64 (1 <<< 46 + 64 <<< 21 + 1))).ingressClass 0 800 800 f).2 = none := by
  decide +kernel

/-- Premises of `FrameArrivals` for an FCS error: a frame whose transmission has begun, and one that waits. -/
theorem test_begins_premises :
    ((routed false 2 id).etherFrame 0 (data0 76 0)).map (fun g => (g.dest, (routed false 2 id).beginsNow 0 g)) = some (5, true) ∧
      ((routed false 0 id).etherFrame 0 (data0 76 0)).map (fun g => (routed false 0 id).beginsNow 0 g) = some false := by
  decide +kernel

/-- Premises of `FrameArrivals`: a station that is known, and a frame that a policer takes. -/
theorem test_station_premises :
    let s := (portAt false 2 0 id).withReg (pdReg 0 (Reg.rteActStationLo 0)) (BitVec.ofNat 64 (2 ^ 60))
    (s.etherFrame 0 (data0 76 0)).isSome = true ∧ (s.ingressClass 0 80 80 (data0 76 0)).2 = some 0 ∧
      ((s.withReg (bucketReg 0 0 true) (BitVec.ofNat 64 (1 <<< 46 + 64 <<< 21 + 1))).ingressClass 0 800 800 (data0 76 0)).2 = none := by
  decide +kernel

/-- Premises of `FrameArrivals`: heads of local-delivery queues, young and old, with and without a mark. -/
theorem test_local_premises :
    let s := (portAt true 2 0 id).withLocalOf (localKey 0 2) [queued (data0 16 2)]
    let old := (s.withClk { s.clk with ftm := 2 ^ 40 }).withReg (pdReg 0 (Reg.swiAgeLimit06 2)) 0xFFFF
    s.localOf (localKey 0 2) = queued (data0 16 2) :: [] ∧ s.aged (0 / 32) (queued (data0 16 2)) = false ∧ (data0 16 2).ce = false ∧
      ({ data0 16 2 with ce := true } : Frame).ce = true ∧ old.aged (0 / 32) (queued (data0 16 2)) = true := by
  decide +kernel


/-- Nothing is aged or stalls at a shutter: the port is as it was before its cell slot. -/
def calm (s : State) : Bool := s.countClosed 0 == s && s.slotReady 0 == s

/-- A fabric port with credits. -/
def credited (f : Port → Port) : State := portAt true 2 0 fun x => f { x with txCred := [(0, 9), (4, 9)] }

/-- Frames of classes 7 and 2 in transmission. -/
def open7 : TxOpen := ⟨queued (data0 600 7), 1, 4, false, 0, 0⟩
def open2 : TxOpen := ⟨queued (data0 600 2), 1, 4, false, 0, 0⟩

/-- An Ethernet port with a frame of class `c` waiting for it, from port 1, and another in transmission where `o` says so. -/
def sending (c : Nat) (o : Bool) : State :=
  ((portAt false 2 0 fun x => if o then { x with tx := [(2, some open2)] } else x).withVoqOf (voqKey 1 0 c) [queued (data0 96 c)]).retag 0 c

/-- Premises of `CellSlots`: the states below are calm. -/
theorem test_slot_calm : calm (credited id) = true ∧ calm (credited fun x => { x with holdOut := [(4, 8)] }) = true := by decide +kernel

/-- The same, with frames in transmission. -/
theorem test_slot_calm_open :
    calm (credited fun x => { x with tx := [(7, some open7)] }) = true ∧ calm (credited fun x => { x with tx := [(2, some open2)] }) = true := by
  decide +kernel

/-- The same, with frames that wait. -/
theorem test_slot_calm_sending : calm (sending 7 false) = true ∧ calm (sending 7 true) = true ∧ calm (sending 3 false) = true := by decide +kernel

/-- Premises of `CellSlots`: a hold cell, frames in transmission, and none. -/
theorem test_cell_slot_premises :
    let u := credited id
    u.portUp 0 = true ∧ ((credited fun x => { x with holdOut := [(4, 8)] }).port 0).holdOut = (4, 8) :: [] ∧ u.fabricPort 0 = true ∧ u.replayRoom 0 = true ∧
      (u.port 0).holdOut = [] ∧ (credited fun x => { x with tx := [(7, some open7)] }).txOpen 0 7 = some open7 ∧
      (credited fun x => { x with tx := [(7, some open7)] }).canContinue 0 7 open7 = true ∧ u.txOpen 0 7 = none ∧
      (credited fun x => { x with tx := [(2, some open2)] }).openChoice 0 = some 2 ∧ u.openChoice 0 = none ∧
      3 ≤ ((credited fun x => { x with filling := [([], none), ([], none), ([], none)] }).port 0).filling.length ∧ (u.port 0).filling.length < 3 := by
  decide +kernel

/-- Premises of `CellSlots`: an open frame that waits for its next cell, and a TIME set that waits for its place. -/
theorem test_slot_wait_premises :
    let s := credited fun x => { x with tx := [(2, some { open2 with q := { queued (data0 600 2) with growing := true }, sent := 9 })] }
    let t (n : Nat) := (credited fun x => { x with timeOwed := true, sinceOs := n, filling := [([], none), ([], none), ([], none)] }).port 0
    calm s = true ∧ s.openWaits 0 = true ∧ s.openChoice 0 = none ∧ s.canStart 0 7 = false ∧ (t 0).timeOwed = true ∧ (t 0).sinceOs < 14 ∧ 14 ≤ (t 14).sinceOs ∧
      3 ≤ (t 14).filling.length ∧ ((credited id).port 0).timeOwed = false ∧ (credited id).wf = true ∧ (credited id).openWaits 0 = false := by
  decide +kernel

/-- Premises of `CellSlots`: classes that may start, express or not, preemption, and none. -/
theorem test_slot_start_premises :
    (credited id).canStart 0 7 = false ∧ (sending 7 false).canStart 0 7 = true ∧ (sending 7 true).canStart 0 7 = true ∧
      ((sending 7 true).txOpen 0 2).isSome = true ∧ (sending 3 false).openChoice 0 = none ∧ (sending 3 false).canStart 0 7 = false := by
  decide +kernel

/-- The class that weighted fair queueing chooses. -/
theorem test_slot_wfq_premises : (sending 3 false).wfqChoice 0 = some 3 := by decide +kernel

/-- No class to choose. -/
theorem test_slot_idle_premises : (credited id).wfqChoice 0 = none := by decide +kernel

/-- An echo from node 5 of class 3. -/
def echo5 : Frame := { frame0 with kind := 2, ece := true, src := 5, cls := 3, payload := zeros 16 }

/-- Premises of `CongestionAndPunnets`: echoes with and without a limiter, a full table, and flow control that is asserted. -/
theorem test_congestion_premises :
    let l : Limiter := ⟨5, 3, 100, 0, 0, 0⟩
    let s := State.reset.modPdie 0 fun d => { d with limiters := [l] }
    let r := ((portAt true 2 0 id).withReg (pdReg 0 (Reg.rteActNode 5)) 0x103).withReg (pdReg 0 (Reg.rteActSetLo 3)) 1
    isEcho echo5 = true ∧ isEcho frame0 = false ∧ ((s.pdie 0).limiters.any fun x => x.dest == echo5.src && x.cls == echo5.cls) = true ∧ s.wf = true ∧
      (State.reset.pdie 0).limiters.any (fun x => x.dest == echo5.src && x.cls == echo5.cls) = false ∧
      ((State.reset.modPdie 0 fun d => { d with limiters := List.replicate 1024 { l with dest := 9 } }).pdie 0).limiters.length = 1024 ∧
      r.limiterPort 0 5 echo5.flow = some 0 ∧ State.reset.limiterPort 0 5 echo5.flow = none ∧
      bits (1 <<< 27) 30 27 ≠ 0 := by
  decide +kernel

/-- Port 0 asserts flow control for class 3, of which it holds 40 buffers of pool 3. -/
def flowing (fab : Bool) : State :=
  ((portAt fab 2 (1 + 1 <<< 19) fun x => { x with fcOut := 8 }).withReg (portReg 0 Reg.swiPortFc) (BitVec.ofNat 64 (1 <<< 32 + 1 <<< 16))).withVoqOf (voqKey 0 1 3)
    [{ queued (data0 96 3) with ingress := 0, bufs := (List.range 40).map fun i => (3, i) }]

/-- Premises of `CongestionAndPunnets`: flow control that is asserted and on, on both kinds of port, and none. -/
theorem test_flow_sent_premises :
    let m (s : State) := maskOf ((maskBits (s.port 0).fcOut 7).filter fun c => decide (s.fld (portReg 0 Reg.swiPortFc) 31 16 * 4096 < s.heldBytes 0 c))
    (∀ b, m (flowing b) ≠ 0 ∧ (flowing b).portUp 0 = true ∧ (flowing b).flowOn 0 = true ∧ (flowing b).fabricPort 0 = b) ∧ m (portAt true 2 0 id) = 0 ∧
      (portAt false 2 0 id).flowOn 0 = false := by
  decide +kernel

/-- Port die 0 with pool 0 of four buffers of which buffer 1 is in state `x`. -/
def pooled (x : Buf) : State :=
  State.reset.modPdie 0 fun d => { d with pools := [(0, { defaultPool 0 with count := 4, bufs := [(1, x)] })] }

/-- Premises of `CongestionAndPunnets`: pointers to packet buffers. -/
theorem test_pointer_premises :
    let s (st : BufState) (n : Nat) := pooled ⟨st, n, none⟩
    let a := State.reset.pkBase 0 0
    (s .allocated 1).pkFind 0 (a + 256) = some (0, 256) ∧ (s .allocated 1).pkFind 0 (a + 257) = some (0, 257) ∧ 257 % pkSize 0 ≠ 0 ∧ 256 % pkSize 0 = 0 ∧
      (s .allocated 1).pkFind 0 0xFFFFFFFF = none ∧ (((s .allocated 2).pool 0 0).buf (256 / pkSize 0)) = ⟨.allocated, 2, none⟩ ∧
      (((s .quarDirty 0).pool 0 0).buf 1).st = .quarDirty ∧ (((s .quarantined 0).pool 0 0).buf 1).st = .quarantined ∧
      (((s .free 0).pool 0 0).buf 1).st ≠ .allocated ∧
      ((State.reset.modPdie 0 fun d => { d with dirty := [(0, 1)] }).pdie 0).dirty = (0, 1) :: [] := by
  decide +kernel

/-- A package whose owner 1 has a window of 1 GiB in stack 0, with punnet 0 of two buffers in it. -/
def carved (x : Buf) (fresh : Nat) : State :=
  let w := natLe 3 65536 ++ zeros 61 ++ natLe 8 (5 + 1 <<< 8 + 32 <<< 20 + 16 <<< 36) ++ zeros 8
  let s := State.reset.withCommit { State.reset.commit with parts := [(1, w)] }
  (s.withReg (memReg 0 Reg.memStatus) 0x7FF).modCtrl 0 fun c => { c with punnets := [(0, ⟨true, 5, 1, 0, 2, [(1, x)], [], fresh, 3⟩)] }

/-- Premises of `CongestionAndPunnets`: buffers in HBM. -/
theorem test_memory_pointer_premises :
    let s (st : BufState) (n : Nat) := carved ⟨st, n, none⟩ 2
    (s .allocated 1).hmFind 0 65536 0 = some (0, 65536) ∧ (s .allocated 1).hmFind 0 65537 0 = some (0, 65537) ∧ (s .allocated 1).hmFind 0 (4 * 65536) 0 = none ∧
      (((s .quarDirty 0).hmPool 0 0).buf 1).st = .quarDirty ∧ (((s .quarantined 0).hmPool 0 0).buf 1).st = .quarantined ∧
      (((s .allocated 65535).hmPool 0 0).buf (65536 / hmSize 0)) = ⟨.allocated, 65535, none⟩ ∧ ((s .allocated 1).hmPool 0 0).en = true ∧
      ((s .allocated 1).hmPool 0 0).take = none ∧ (State.reset.hmPool 0 0).en = false ∧
      (((carved ⟨.free, 0, none⟩ 0).hmPool 0 0).take).map (·.1) = some 0 ∧ (carved ⟨.free, 0, none⟩ 0).hmStart ((carved ⟨.free, 0, none⟩ 0).hmPool 0 0) = some 0 := by
  decide +kernel

/-- Premises of `CongestionAndPunnets`: enabling and disabling a punnet in HBM, and one to be zeroed. -/
theorem test_punnet_premises :
    let a := memReg 0 (Reg.punHmCfg 0)
    let v := 1 + 5 <<< 1 + 2 <<< 32
    let s := (carved ⟨.free, 0, none⟩ 0).withReg a (BitVec.ofNat 64 v)
    let w (v : Nat) := (carved ⟨.free, 0, none⟩ 0).withReg a (BitVec.ofNat 64 (bits v 54 1 <<< 1))
    bit (s.reg a).toNat 0 = true ∧ bits v 54 1 = bits (s.reg a).toNat 54 1 ∧ bits (v + 512) 54 1 ≠ bits (s.reg a).toNat 54 1 ∧
      bit (State.reset.reg a).toNat 0 = false ∧ (w v).hmEnableOk 0 0 v = true ∧ (w 1).hmEnableOk 0 0 1 = false ∧
      ((State.reset.modCtrl 0 fun c => { c with dirty := [(0, 1)] }).ctrl 0).dirty = (0, 1) :: [] ∧
      (((carved ⟨.dirty, 0, none⟩ 2).hmPool 0 0).buf 1).st = .dirty ∧ (((carved ⟨.quarDirty, 0, none⟩ 2).hmPool 0 0).buf 1).st ≠ .dirty := by
  decide +kernel

/-! Scheduling, shutters, time and routes. -/

/-- Premises of `ShuttersAndBuckets`: a pending list that keeps its limits, one that does not, and lists in each state. -/
theorem test_shutter_premises :
    let s (n e : Nat) := (((State.reset.withReg (portReg 0 Reg.shuPendCount) (BitVec.ofNat 64 n)).withReg (portReg 0 Reg.shuPendCycle) 1000).withReg
      (portReg 0 fun q => Reg.shuPendEntry q 0) (BitVec.ofNat 64 e))
    (s 1 (0xFF + 256 <<< 8)).pendOk 0 = true ∧ (s 1 0xFF).pendOk 0 = false ∧ (s 257 0).pendOk 0 = false ∧ State.reset.fld (portReg 0 Reg.shuStatus) 1 1 = 0 ∧
      ((s 1 0).withReg (portReg 0 Reg.shuStatus) 3).fld (portReg 0 Reg.shuStatus) 1 1 = 1 ∧ ((s 1 0).withReg (portReg 0 Reg.shuStatus) 3).fld (portReg 0 Reg.shuStatus) 0 0 = 1 ∧
      ((s 1 0).reg (portReg 0 Reg.shuPendCount)).toNat % 512 ≤ 256 := by
  decide +kernel

/-- Premises of `ShuttersAndBuckets`: buckets at the ends of their ranges, and steps that a port disciplines. -/
theorem test_bucket_premises :
    let v := 1 + 64 <<< 21 + 1 <<< 46
    let x := 1600000 + 16777216 <<< 21
    ¬ (bits v 20 0 < 1 ∨ 1600000 < bits v 20 0 ∨ bits v 45 21 < 64 ∨ 16777216 < bits v 45 21) ∧
      ¬ (bits x 20 0 < 1 ∨ 1600000 < bits x 20 0 ∨ bits x 45 21 < 64 ∨ 16777216 < bits x 45 21) ∧ bits 0 20 0 < 1 ∧ bit v 46 = true ∧ bit x 46 = false ∧
      (State.reset.withReg (bucketReg 0 3 true) (BitVec.ofNat 64 v)).bucketOn 0 3 true = true ∧ State.reset.bucketOn 0 3 true = false ∧
      (State.reset.withReg (pdReg 0 Reg.ftmCtrl) 1).fld (pdReg 0 Reg.ftmCtrl) 1 0 = 1 ∧ State.reset.fld (pdReg 0 Reg.ftmCtrl) 1 0 ≠ 1 := by
  decide +kernel

/-- Premises of `ShuttersAndBuckets`: a sample that is due and one that is not, and a list whose express class is open. -/
theorem test_sample_premises :
    (State.reset.withClk { State.reset.clk with ftm := 2 ^ 40 }).obsDue 0 = true ∧ State.reset.obsDue 0 = false ∧ bit (State.reset.shuOpen 0) 7 = true := by
  decide +kernel

/-- Premises of `RouteLatches`: tables that are good and bad, times at their limits, and classes that are drained and not. -/
theorem test_route_premises :
    let s := (State.reset.withReg (pdReg 0 Reg.rteStatus) 1).withReg (portReg 0 Reg.rteDrain) 4
    let busy := s.withVoqOf (voqKey 1 0 2) [queued (data0 96 2)]
    State.reset.pendTablesOk 0 = true ∧ (State.reset.withReg (pdReg 0 (Reg.rtePendNode 3)) 512).pendTablesOk 0 = false ∧
      (State.reset.reg (pdReg 0 Reg.rteLatchTime)).toNat ≤ State.reset.now + 160000000000 ∧ s.fld (pdReg 0 Reg.rteStatus) 0 0 = 1 ∧
      State.reset.fld (pdReg 0 Reg.rteStatus) 0 0 = 0 ∧ s.draining 0 2 = true ∧ s.drained 0 2 = true ∧ busy.drained 0 2 = false := by
  decide +kernel


/-! Remote memory, at the target and back. -/

/-- A request of tile 9 of node 7. -/
def request0 (id op owner len addr arg0 : Nat) (data : Bytes) : Frame :=
  { frame0 with kind := 1, src := 7, payload := natLe 2 id ++ natLe 1 op ++ natLe 1 owner ++ natLe 2 9 ++ natLe 2 len ++ natLe 8 addr ++ natLe 8 arg0 ++ zeros 8 ++ data }

/-- A fabric address in a space. -/
def inSpace (k off : Nat) : Nat := k * 2 ^ 48 + off

/-- The stream that a first request of ID 3 leaves. -/
def stream0 : Stream := ⟨7, 9, 3, [3], [], 0⟩

/-- Premises of `RequestsAtTiles`: requests that are not in order, and IDs that are new, old and repeated. -/
theorem test_request_premises :
    let f := request0 3 1 1 8 (inSpace 1 64) 0 []
    let s (x : Stream) := State.reset.modPdie 1 fun d => { d with streams := [x] }
    f.kind = 1 ∧ rqOp f.payload = 1 ∧ requestOk f 1 = true ∧ alignOk f.payload 1 = true ∧ requestOk (request0 3 1 1 1032 0 0 []) 1 = false ∧
      alignOk (request0 3 1 1 12 0 0 []).payload 1 = false ∧ homeDie f = 1 ∧ State.reset.streamCheck 1 7 9 3 = .fresh stream0 ∧
      (s { stream0 with high := 300 }).streamCheck 1 7 9 3 = .stale ∧ (s { stream0 with cache := [(3, 0, 5)] }).streamCheck 1 7 9 3 = .dup 0 5 ∧
      rqLen (request0 3 1 1 16 0 0 []).payload = 16 := by
  decide +kernel

/-- Premises of `RequestsAtTiles`: an OP of no row, and one of another row. -/
theorem test_request_op_premises :
    rqOp (request0 3 9 1 8 0 0 []).payload = 9 ∧ rqOp (request0 3 0 1 8 0 0 []).payload = 0 ∧ (request0 3 9 1 8 0 0 []).kind = 1 ∧ frame0.kind ≠ 1 := by decide +kernel

/-- Premises of `RequestsAtTiles`: a table of streams that is full. -/
theorem test_request_full_premises :
    (State.reset.modPdie 1 fun d => { d with streams := List.replicate 2048 stream0 }).streamCheck 1 7 8 3 = .busy := by decide +kernel

/-- The target of a request on a state, after it has been taken and its tile has met an upset. -/
def targeted (s : State) (f : Frame) (u : Upset) (n : Nat) : Target :=
  ((s.requested f).upset ((s.requested f).upsetTile f.payload) u).target (rqAddr f.payload) n (rqOwner f.payload)

/-- Premises of `RequestsAtTiles`: targets in tile memory, whole and hurt, none, and a register. -/
theorem test_target_premises :
    let s := lattice 0 []
    let f := request0 3 1 1 8 (inSpace 1 64) 0 []
    s.asks f 1 stream0 ∧ targeted s f .none 8 = .tile 0 64 ∧ (s.tile 0).memHurt 64 8 = false ∧ ({ s.tile 0 with memBad := [8] } : Tile).memHurt 64 8 = true ∧
      targeted s (request0 3 1 2 8 (inSpace 1 64) 0 []) .none 8 = .bad 2 ∧ targeted s (request0 3 1 1 8 (inSpace 3 0) 0 []) .none 8 = .bad 3 ∧
      (match targeted s (request0 3 1 1 8 (inSpace 2 0x100000) 0 []) .none 8 with | .bad n => n | _ => 0) = 9 := by
  decide +kernel

/-- Premises of `RequestsAtTiles`: the other rows in order, on the same tile. -/
theorem test_target_row_premises :
    let s := lattice 0 []
    s.asks (request0 3 2 1 8 (inSpace 1 64) 0 (zeros 8)) 2 stream0 ∧ s.asks (request0 3 3 1 0 (inSpace 1 64) 5 []) 3 stream0 ∧
      s.asks (request0 3 4 1 0 (inSpace 1 64) 5 []) 4 stream0 ∧ s.asks (request0 3 6 1 0 (inSpace 1 64) 5 []) 6 stream0 ∧
      targeted s (request0 3 6 1 0 (inSpace 1 64) 5 []) .none 4 = .tile 0 64 := by
  decide +kernel

/-- Premises of `RequestsAtTiles`: targets in HBM, good, broken and under repair. -/
theorem test_target_memory_premises :
    let s := carved ⟨.free, 0, none⟩ 0
    let f := request0 3 1 1 8 (inSpace 0 128) 0 []
    let q := [(0, 32 * unitBytes + 128, 8)]
    s.asks f 1 stream0 ∧ targeted s f .none 8 = .hbm q 128 ∧ s.piecesHeld q = false ∧ (s.readPieces q false 0).2.2 = false ∧
      ((s.hbmBreak 0 (32 * unitBytes / 64 + 2)).readPieces q false 0).2.2 = true ∧ (s.modCtrl 0 fun c => { c with repair := some 0 }).piecesHeld q = true ∧
      (s.ownerWrite 1 128 q (zeros 8)).2 = false ∧ ((s.hbmBreak 0 (32 * unitBytes / 64 + 2)).ownerWrite 1 128 q (zeros 8)).2 = true := by
  decide +kernel

/-- Premises of `RequestsAtTiles`: a register in the fabric space. -/
theorem test_target_register_premises :
    targeted (lattice 0 []) (request0 3 1 1 8 (inSpace 2 0x1010000) 0 []) .none 8 = .reg (.tilId 0) := by decide +kernel

/-- Premises of `RequestsAtTiles`: signals that count, that meet no tile, and that are out of order; triggers and exact adds. -/
theorem test_signal_premises :
    let s := lattice 0 []
    let f := request0 3 7 1 0 (inSpace 1 0) (5 + 1 <<< 16) []
    let add := request0 3 5 1 8 (inSpace 1 0) 2 (natLe 8 7)
    let z := s.modTile 0 fun x => { x with remoteOpen := 1 }
    s.asks f 7 stream0 ∧ (s.requested f).active 0 = true ∧ (s.requested f).tileRole 0 ≠ 0 ∧ (s.requested f).tileRole 0 ≠ 6 ∧ (s.requested f).tileOwner 0 = 1 ∧
      bits (rqArg0 f.payload) 15 4 = 0 ∧ bits (rqArg0 f.payload) 63 32 = 0 ∧ State.reset.active 0 = false ∧
      s.asks (request0 3 8 1 32 (inSpace 3 0) 0 (zeros 32)) 8 stream0 ∧ z.asks add 5 stream0 ∧ (z.requested add).exactCheck add.payload = 0 ∧
      (s.requested add).exactCheck add.payload ≠ 0 ∧ bits (rqArg0 add.payload) 5 2 + 1 = 1 ∧
      exactTerms (rqArg0 add.payload % 4) (add.payload.drop 32) 1 = some [(termInt 7, 0)] := by
  decide +kernel

/-- Premises of `RequestsAtTiles`: a withdrawn tile asked by its old owner, and an exact add whose retry is the second within 1 ms. -/
theorem test_withdrawn_premises :
    let s := (lattice 0 []).withCommit { (lattice 0 []).commit with withdrawn := [.tile 0] }
    let z := (lattice 0 []).modTile 0 fun x => { x with remoteOpen := 1, residueAt := some 0 }
    let add := request0 3 5 1 8 (inSpace 1 0) 2 (natLe 8 7)
    s.asks (request0 3 7 1 0 (inSpace 1 0) (5 + 1 <<< 16) []) 7 stream0 ∧ (s.requested (request0 3 7 1 0 (inSpace 1 0) (5 + 1 <<< 16) [])).goneFrom 0 1 = true ∧
      (s.requested add).exactCheck add.payload ≠ 1 ∧ (s.requested add).goneFrom 0 1 = true ∧ (z.requested add).exactCheck add.payload = 0 ∧
      (z.requested add).goneFrom 0 1 = false ∧ ((z.requested add).tile 0).residueAt = some 0 := by
  decide +kernel

/-- A tile with a request that has no response yet. -/
def asked (use : ReqUse) (op len attempts : Nat) : State :=
  (running (desc []) 0 id).modTile 0 fun x => { x with reqs := [⟨3, 0, 0, use, { request0 3 op 1 len 0 0 [] with dest := 7 }, attempts, 0⟩] }

/-- A response of a status and a value to tile 0. -/
def response0 (op st v : Nat) (data : Bytes) : Frame :=
  { frame0 with kind := 2, src := 7, payload := natLe 2 3 ++ natLe 1 op ++ natLe 1 st ++ natLe 2 0 ++ natLe 2 data.length ++ natLe 8 v ++ data }

/-- Premises of `ResponsesAndRetries`: responses that are awaited and that are not. -/
theorem test_response_premises :
    let f := response0 2 0 0 []
    let s := asked .store 2 8 1
    let t := s.phys (rqTile f.payload)
    let sent (q : OutReq) : Bool := q.id == rqId f.payload && q.attempts != 0
    f.kind = 2 ∧ f.dest = s.node ∧ responseOk f.payload = true ∧ ((s.tile t).reqs.find? sent).isSome = true ∧
      (∀ r ∈ (s.tile t).reqs, answers f.payload r = true) ∧ (∀ r ∈ ((asked .store 3 8 1).tile t).reqs, answers f.payload r = false) ∧
      responseOk (response0 0 0 0 []).payload = false ∧ (State.reset.tile 0).reqs.find? sent = none ∧ ((asked .store 2 8 0).tile t).reqs.find? sent = none := by
  decide +kernel

/-- Premises of `ResponsesAndRetries`: a request that waits to be sent anew, while the tile may send and while it may not. -/
theorem test_reissue_premises :
    let s := asked (.load 0) 1 16 0
    let full := s.modTile 0 fun x => { x with reqs := x.reqs ++ (List.range 63).map fun i => ⟨4 + i, 0, 0, .store, frame0, 1, 0⟩ }
    (∀ q ∈ ((asked .store 2 8 1).tile 0).reqs, q.attempts ≠ 0) ∧ ((s.tile 0).reqs.filter (·.attempts == 0)).length = 1 ∧ (s.tile 0).mayRequest = true ∧
      ((full.tile 0).reqs.filter (·.attempts == 0)).length = 1 ∧ (full.tile 0).mayRequest = false := by
  decide +kernel

/-- Premises of `ResponsesAndRetries`: the statuses with their causes, a load that is lost, and the last attempt. -/
theorem test_response_status_premises :
    let s := asked (.load 0) 1 16 4
    responseCause .store 5 0 = some (statusCause 5, 5) ∧ responseCause .store 0 0 = none ∧ responseCause (.load 0) 0 0 = none ∧ responseCause .atomic 0 9 = none ∧
      responseCause .trigger 0 4 ≠ none ∧ (∀ r ∈ (s.tile 0).reqs, answers (response0 1 1 0 []).payload r = true ∧ 4 ≤ r.attempts) ∧
      ((s.modTile 0 (·.dropReq 3)).tile 0).mayRequest = true ∧ (s.ctx 0 0).desc = some (desc []) ∧ ((asked .signal 7 0 4).tile 0).reqs.length = 1 := by
  decide +kernel


/-! Determinism, policies and power. -/

/-- A package in deterministic mode with an armed barrier of owner 1. -/
def armed (time : Nat) : State :=
  let s := (State.reset.withReg Reg.detBarrierCfg (BitVec.ofNat 64 (1 + 1 <<< 10 + 1 <<< 26))).withReg Reg.detBarrierTime (BitVec.ofNat 64 time)
  ((s.withCommit { s.commit with parts := [(1, [])] }).withReg Reg.detStatus 1).withReg Reg.detBarrierStatus 1

/-- Premises of `DeterminismAndBarrier`: each state of the mode and of the barrier, with times at their limits. -/
theorem test_determinism_premises :
    let r := State.reset
    (r.withReg Reg.detStatus 2).fld Reg.detStatus 1 1 = 1 ∧ r.fld Reg.detStatus 1 1 ≠ 1 ∧ r.fld Reg.detCtrl 0 0 ≠ 1 ∧ (r.withReg Reg.detCtrl 1).fld Reg.detCtrl 0 0 = 1 ∧
      ((r.withReg Reg.detStatus 1).withReg Reg.detBarrierStatus 2).detOn = true ∧ (r.withReg Reg.detBarrierStatus 2).fld Reg.detBarrierStatus 1 1 = 1 ∧
      (r.withReg Reg.detStatus 2).entering = true ∧ r.entering = false ∧ (armed 320000).armOk = true ∧ (armed 160000000000).armOk = true ∧
      (armed 319999).armOk = false ∧ (armed 160000000001).armOk = false ∧ (armed 320000).barrierArmed = true ∧ r.barrierArmed = false ∧
      ((armed 320000).commit.lead.any fun o => o == 64 || o == (armed 320000).barrierOwner) = false ∧
      (([64] : List Nat).any fun o => o == 64 || o == (armed 320000).barrierOwner) = true ∧ (armed 0).detOn = true ∧ r.inStep = false := by
  decide +kernel

/-- A block at a state and a frequency, with the supply running. -/
def blockAt (st f : Nat) : State := (State.reset.withReg (clkBlockA 0) (BitVec.ofNat 64 (f + st <<< 11))).withReg Reg.pwrState 2

/-- Premises of `AdaptiveAndPower`: steps up, at the ceiling and below, in deterministic mode and outside it. -/
theorem test_step_premises :
    let s := blockAt 3 1000
    let top := blockAt 3 1500
    (policyRow .vf (625 + 1500 <<< 16)).2 = true ∧ (policyRow .vf (624 + 1500 <<< 16)).2 = false ∧ s.blockState 0 = 3 ∧ s.domainOf 0 = [0] ∧
      (∀ x ∈ s.domainOf 0, s.mayRaise x = true) ∧ ¬ s.vfBounds.2 < s.freq 0 + 25 ∧ top.vfBounds.2 < top.freq 0 + 25 ∧
      (∀ x ∈ top.domainOf 0, top.mayRaise x = true) ∧ top.detFrozen = false ∧ (top.withReg Reg.detCtrl 1).detFrozen = true ∧
      (∀ x ∈ (top.withReg Reg.detCtrl 1).domainOf 0, (top.withReg Reg.detCtrl 1).mayRaise x = true) ∧ State.reset.aboveCap = false ∧
      (s.withReg Reg.pwrNow 5000).aboveCap = true ∧ ((List.range 512).all fun x => s.domainOf x == [x]) = true ∧ s.detOn = false ∧ State.reset.trained 0 = false ∧
      (State.reset.withReg (memReg 0 Reg.memStatus) 1).trained 0 = true ∧ (State.reset.ctrl 0).selfRefresh = false := by
  decide +kernel

/-- Premises of `AdaptiveAndPower`: sleep, deep sleep and wake. -/
theorem test_sleep_premises :
    let s := blockAt 3 1000
    s.blockState 0 = 3 ∧ s.fld Reg.clkSleepTimeout 23 0 ≠ 0 ∧ s.blockQuiet 0 = true ∧ s.heldOpen 0 = false ∧ (blockAt 1 0).blockState 0 = 1 ∧
      (blockAt 1 0).blockDead 0 = false ∧ (blockAt 1 0).fld Reg.pwrState 2 0 = 2 ∧ (blockAt 2 0).blockState 0 = 2 ∧ State.reset.pins.issueHalved = false ∧
      0 ≤ State.reset.fld Reg.pwrCap 12 0 := by
  decide +kernel

/-! HBM and check values. -/

/-- Premises of `HbmControllers`: a trained stack, its capacity, broken and retired blocks, and a repair. -/
theorem test_hbm_premises :
    let s := carved ⟨.free, 0, none⟩ 0
    let p := State.reset.withPins { State.reset.pins with pwrGood := true }
    s.trained 0 = true ∧ 128 + 64 ≤ s.capBytes 0 ∧ s.hbmHeld 0 128 64 = false ∧ State.reset.capBytes 0 = 0 ∧ State.reset.pins.pwrGood = false ∧
      p.trained 0 = false ∧ p.pins.pwrGood = true ∧ (s.ctrl 0).bad = [] ∧ (s.ctrl 0).pchDead = [] ∧ (s.ctrl 0).repair = none ∧
      (s.hbmRead 0 128 8 false 0).2.2 = false ∧ ((s.hbmBreak 0 2).hbmRead 0 128 8 false 0).2.2 = true ∧
      ((s.modCtrl 0 fun c => { c with repair := some 3 }).ctrl 0).repair = some 3 := by
  decide +kernel

/-- Premises of `HbmControllers`: the patrol, off, within the stack and at its end. -/
theorem test_patrol_premises :
    let s := (carved ⟨.free, 0, none⟩ 0).withReg (memReg 0 Reg.memPatrol) 1
    let z := s.modCtrl 0 fun c => { c with patrolAt := s.capBytes 0 / 64 - 1 }
    s.trained 0 = true ∧ (s.ctrl 0).selfRefresh = false ∧ s.fld (memReg 0 Reg.memPatrol) 15 0 ≠ 0 ∧ s.hbmHeld 0 0 64 = false ∧ s.blockBad 0 0 = false ∧
      64 * ((s.ctrl 0).patrolAt + 1) < s.capBytes 0 ∧ z.capBytes 0 ≤ 64 * ((z.ctrl 0).patrolAt + 1) ∧ z.blockBad 0 (z.ctrl 0).patrolAt = false ∧
      State.reset.trained 0 = false := by
  decide +kernel

/-- Premises of `CheckUnits`: configurations that are free, busy, good and bad; a block that ends, with its range good, broken and gone. -/
theorem test_check_premises :
    let v := 1 <<< 16 + 16
    let s := (((carved ⟨.free, 0, none⟩ 0).withReg (chkCtrlA 64) (BitVec.ofNat 64 (v + 1))).withReg (chkStatusA 64) 1).withReg (chkWinLenA 64) 1
    let own := (s.withReg (chkWinA 64) (BitVec.ofNat 64 (1 <<< 40))).modChk 64 fun c => { c with written := 64 }
    chkCtrlOk 64 (v ||| 2) = true ∧ chkCtrlOk 64 (2 ||| 2) = false ∧ bit v 2 = false ∧ bit v 1 = false ∧ bit (s.reg (chkCtrlA 64)).toNat 0 = true ∧
      bits (s.reg (chkCtrlA 64)).toNat 31 3 ≠ bits 0 31 3 ∧ State.reset.chkActive 64 = false ∧ own.chkActive 64 = true ∧ own.fld (chkWinLenA 64) 18 0 = 1 ∧
      64 ≤ (own.chk 64).written ∧ s.ownerPieces 0 0 64 = none ∧ own.ownerPieces 1 0 64 = some [(0, 32 * unitBytes, 64)] ∧
      (own.readPieces [(0, 32 * unitBytes, 64)] false 3).2.2 = false ∧ ((own.hbmBreak 0 (32 * unitBytes / 64)).readPieces [(0, 32 * unitBytes, 64)] false 3).2.2 = true := by
  decide +kernel


/-! Ill-formed commands. -/

/-- Units of a tile die that do not exist, in each command that names one. -/
theorem test_ill_formed_tile :
    ∀ i ∈ [Instr.descriptorIssue 36864, .add 36864 0, .add 0 4, .descriptorFetch 0 0 3 .none, .summarySlotWrite 0 4, .periodicStart 0 2, .lateStart 0 2,
      .dscCntSelect .host 0 16 0, .dscCntAdd .host 0 16 0, .dscCntSet .host 0 16 0, .deferredExactAdd 0 ⟨16, 0⟩, .latticeSlot 64, .meshFlitForward 608 .here,
      .requestRetry 36864 0, .loopIteration 0 4 .none], i.wf = false := by
  decide

/-- Ports, port dies, classes, groups, blocks of a wrong length and frames that do not fit. -/
theorem test_ill_formed_port :
    ∀ i ∈ [Instr.cellSlot 128, .rateIncrease 4, .holdExpiry 0 8, .localDelivery 0 8, .bucketConfigWrite .host 0 false 8 0, .heartbeatMessage { frame0 with cls := 8 },
      .credit { frame0 with vc := 2 }, .result { frame0 with dest := 16384 }, .responseReceive { frame0 with src := 16384 }, .contribution { frame0 with flow := 2 ^ 20 },
      .requestSignal { frame0 with kind := 16 }, .abortMessage { frame0 with origin := 2 ^ 64 }, .windowClose 256 0 ⟨0, 0⟩, .commitList .host 0 65536,
      .timeSetReceive 0 [], .groupReceive 0 [], .creditInit 0 [], .linkState 0 [], .pfcFrame 0 0 [], .berWindow 0 [] 0, .dirtyZeroed 16], i.wf = false := by
  decide

/-- Stacks, dies, check units, scopes and accesses that do not exist. -/
theorem test_ill_formed_package :
    ∀ i ∈ [Instr.hbmRowRepaired 12, .punHmAlloc .host 0 4, .punnetEnable .host 0 4 0, .scrubPass 20 [], .chkClose .host 256 0, .hbmAccess 0 0 (.read 1025 false) .none,
      .hbmAccess 0 0 (.fetchAdd (2 ^ 64)) .none, .hbmAccess 0 0 (.cas (2 ^ 64) 0) .none, .hbmAccess 0 0 (.cas 0 (2 ^ 64)) .none, .resetComplete (.tile 36864),
      .resetComplete (.block 512), .resetComplete (.sector 64), .resetComplete (.die 20), .resetComplete (.partition 64), .partitionReset .host 64,
      .blockFenced 512, .sectorGated 64, .dieFenced 20, .spareLost 16 0, .spareLost 0 256, .plainRegisterWrite .host 0 0 0, .rcRegisterRead .host 0 0], i.wf = false := by
  decide

/-- Lands, samples, queues and porter requests out of range. -/
theorem test_ill_formed_host :
    ∀ i ∈ [Instr.pkgResetDeassert (2 ^ 26) 0, .vauxRestored (2 ^ 26) 0, .blockSleep 512, .vfStepUp 512 true, .powerSample 0 [], .thermalSample [] [],
      .tempMaxClear .host 0 4, .sqTail 256 0, .hrqHead 64 0, .queueEnable true 64 0, .queueEnable false 256 0, .msixUnmask 2048, .bar2Access (2 ^ 36) false 0 [] .none,
      .regRead .i3c 65536 0 0, .regWrite .i3c 0 0 (List.replicate 33 0), .keyProgram .i3c 0 256 (zeros 48), .keyProgram .i3c 0 0 [], .keyRevoke .i3c 0 256,
      .traceStore 20, .startQueueEntry 256 [] false], i.wf = false := by
  decide +kernel

/-- Commands with every operand in range. -/
theorem test_well_formed :
    ∀ i ∈ [Instr.add 36863 3, .descriptorFetch 0 0 2 .none, .meshFlitForward 607 .here, .cellSlot 127, .heartbeatMessage frame0, .queueEnable false 255 0,
      .chkArm .host 255 0], i.wf = true := by
  decide


/-! Resets, faults and power. -/

/-- A unit word: level, die, sector, block, tile. -/
def unitWord (level die sector block tile : Nat) : Nat := level + die <<< 8 + sector <<< 13 + block <<< 15 + tile <<< 18

/-- Premises of `ScopeResets`: units of each level, one that is not valid, and resets that are absorbed or end a commit. -/
theorem test_reset_premises :
    let r := State.reset
    let s (x : Scope) := r.withFaults { r.faults with resets := [x] }
    r.wf = true ∧ r.parseUnit 7 = none ∧ (r.parseUnit (unitWord 2 3 1 2 5)).map (·.level) = some 2 ∧ (r.parseUnit (unitWord 6 0 0 0 0)).map (·.level) = some 6 ∧
      r.parseUnit (unitWord 3 1 0 2 0) = some ⟨3, 1, 0, 2, 0, 0, 0⟩ ∧ r.unitScope ⟨3, 1, 0, 2, 0, 0, 0⟩ = some (.block 34) ∧
      (r.parseUnit (unitWord 5 15 0 0 0)).map (·.die) = some 15 ∧ (r.parseUnit (unitWord 4 1 2 0 0)).map (·.level) = some 4 ∧
      ((s (.die 1)).faults.resets.any ((s (.die 1)).inside (.block 34))) = true ∧ ((s (.die 0)).faults.resets.any ((s (.die 0)).inside (.block 34))) = false ∧
      r.preparing = false ∧ (atPhase 3).preparing = true ∧ (s (.die 1)).faults.resets.contains (.die 1) = true ∧ (s (.die 1)).faults.resets.contains (.tile 0) = false := by
  decide +kernel

/-- Premises of `ScopeResets`: a committed owner with a group, one without, and a stop that nothing keeps closed. -/
theorem test_partition_reset_premises :
    let s := armed 0
    let g := (s.withReg (Reg.colGrpCfg 0) 1).modGroup 0 fun g => { g with owner := 1 }
    ((s.external 1).commit.parts.any fun p => p.1 == 1 % 64) = true ∧ (State.reset.commit.parts.any fun p => p.1 == 1 % 64) = false ∧ g.groupOn 0 = true ∧
      (g.group 0).owner = 1 ∧ s.stopClosed 34 = false := by
  decide +kernel

/-- Premises of `PermanentFaults`: units that are whole, and a queue with a record. -/
theorem test_fault_premises :
    let r := State.reset
    (r.block 511).fenced = false ∧ ((r.modBlock 0 fun b => { b with fenced := true }).block 0).fenced = true ∧ r.fld (sectorReg 63) 16 16 = 0 ∧
      (r.withFld (sectorReg 0) 16 16 1).fld (sectorReg 0) 16 16 = 1 ∧ (r.die 19).cut = false ∧ (r.tile (2304 * 15 + 9 * 255 + 8)).lost = false ∧
      (r.tile (2304 * 15 + 9 * 255 + 8)).idState ≠ 1 ∧ r.faults.queue = [] ∧ r.faults.queue.length < 1024 ∧
      (r.raiseFault (Unit6.ofDie 3) 0x0B 2 true 15 0).faults.queue.length = 1 := by
  decide +kernel

/-- Premises of `PackageResets`: each of the two lands low, in reset and out of it. -/
theorem test_package_premises :
    let r := State.reset
    let low := r.withPins { r.pins with vauxOk := false, resetN := true }
    r.wf = true ∧ r.pins.pkgReset = true ∧ r.pins.vauxOk = true ∧ r.pins.resetN = false ∧ low.pins.vauxOk = false ∧ low.pins.resetN = true ∧ low.pins.pkgReset = true ∧ low.wf = true ∧
      bit (1 <<< 21) 21 = true := by
  decide +kernel

/-- A package in a phase of start-up. -/
def inPhase (n : Nat) (f : Pins → Pins) : State := (State.reset.withReg Reg.pwrSeqStatus (BitVec.ofNat 64 n)).withPins (f State.reset.pins)

/-- Premises of `StartUpPhases`: every phase, with and without the regulators, the trip and the lock. -/
theorem test_phase_premises :
    (inPhase 1 id).wf = true ∧ (inPhase 1 id).seqPhase = 1 ∧ (inPhase 2 id).seqPhase = 2 ∧ (inPhase 3 id).seqPhase = 3 ∧ (inPhase 3 id).pins.thermTrip = false ∧
      (inPhase 3 fun p => { p with thermTrip := true }).pins.thermTrip = true ∧ (inPhase 3 fun p => { p with regulators := true }).pins.regulators = true ∧
      (inPhase 3 id).pins.regulators = false ∧ State.reset.fld Reg.clkStatus 0 0 = 0 ∧ (State.reset.withReg Reg.clkStatus 1).fld Reg.clkStatus 0 0 = 1 := by
  decide +kernel

/-- A package whose stacks have failed to train, at the end of TRAIN, with straps `w`. -/
def trainedOut (w : Nat) : State := forEach (List.range 12) (fun k s => s.modCtrl k fun c => { c with failed := true }) (inPhase 4 fun p => { p with straps := w })

/-- An image header of a length. -/
def header0 (n : Nat) : Bytes := zeros 8 ++ natLe 8 n ++ zeros 48

/-- Premises of `BootActions`: each boot action at the end of TRAIN. -/
theorem test_boot_premises :
    (trainedOut 0).seqPhase = 4 ∧ (trainedOut 0).trainOver = true ∧ (trainedOut 0).committing = false ∧ ((trainedOut 0).die 0).structured = false ∧
      (inPhase 4 id).trainOver = false ∧ ((trainedOut 0).withPhase 1).committing = true ∧
      (((trainedOut 0).withDie 0 { Die.reset with structured := true }).die 0).structured = true ∧ bits (trainedOut (1 <<< 14)).pins.straps 15 14 = 1 ∧
      bits (trainedOut (1 <<< 14 + 3 <<< 24)).pins.straps 25 24 = 3 ∧ bits (trainedOut (3 <<< 14)).pins.straps 15 14 = 3 ∧ (trainedOut 0).wf = true := by
  decide +kernel

/-- A boot from a neighbour that has asked on port 0, with PORT_ANY or not. -/
def booting (any : Bool) : State :=
  (inPhase 5 fun p => { p with straps := 2 <<< 14, autoBoot := true, bootPort := some 0 }).withReg Reg.strImageSrc (if any then 0x200 else 0)

/-- Premises of `BootActions`: a boot from a neighbour, its refusal and its time limit, and images that are served or not. -/
theorem test_neighbour_premises :
    let s := booting false
    s.seqPhase ≠ 4 ∧ s.pins.autoBoot = true ∧ s.committing = false ∧ s.pins.bootPort = some 0 ∧ bits s.pins.straps 15 14 = 2 ∧ (s.withPhase 1).phase = 1 ∧
      s.fld Reg.strImageSrc 9 9 = 0 ∧ (booting true).fld Reg.strImageSrc 9 9 = 1 ∧ (header0 8192) ≠ [] ∧ bit (State.reset.reg Reg.porImageServe).toNat 0 = false ∧
      bit ((State.reset.withReg Reg.porImageServe 1).reg Reg.porImageServe).toNat (31 / 32) = true ∧ State.reset.retainedImage 0 = (State.reset, none) ∧
      State.reset.retainedImage 6 = (State.reset, none) ∧ s.wf = true := by
  decide +kernel

/-- Premises of `PowerAndTemperature`: the power states, a package that is busy and one that is not, and sensors that were hot. -/
theorem test_power_premises :
    let s (n : Nat) := State.reset.withReg Reg.pwrState (BitVec.ofNat 64 n)
    let on := State.reset.withPins { State.reset.pins with pwrGood := true, regulators := true, hot := [0] }
    (s 0).fld Reg.pwrState 2 0 = 0 ∧ (s 1).fld Reg.pwrState 2 0 = 1 ∧ (s 2).fld Reg.pwrState 2 0 = 2 ∧ (s 2).keepBusy = false ∧ ((s 2).withPhase 1).keepBusy = true ∧
      on.pins.pwrGood = true ∧ on.pins.regulators = true ∧ (∀ k ∈ on.pins.hot, nth (List.replicate 80 114) k 0 < 115) ∧ 0 ∈ on.pins.hot ∧
      115 ≤ nth (List.replicate 80 115) 0 0 ∧ on.wf = true ∧ State.reset.pins.regulators = false := by
  decide +kernel

/-! The host, the porter, trace units and boundary scan. -/

/-- Premises of `HostQueues`: queues that are enabled and not, rings at their limits, and vectors in each state. -/
theorem test_queue_premises :
    let on := State.reset.withB4 (Reg.sqCfg 3) (BitVec.ofNat 64 (1 <<< 10 + 1 <<< 4 + 4))
    on.wf = true ∧ on.queueOn false 3 = true ∧ State.reset.queueOn true 3 = false ∧ bits 5 9 0 ≠ bits (on.b4 (Reg.sqCfg 3)).toNat 9 0 ∧
      bits (1 <<< 4 + 4) 9 0 = bits (on.b4 (Reg.sqCfg 3)).toNat 9 0 ∧ 2 ^ bits (on.b4 (Reg.sqCfg 3)).toNat 3 0 = 16 ∧ (atPhase 1).phase = 1 ∧
      (atPhase 1).fld Reg.strImageSrc 1 0 = 0 ∧ State.reset.phase ≠ 1 ∧ (State.reset.withUnmasked [7]).unmasked.contains (7 % 2048) = true ∧
      (State.reset.withMsixPending [7]).msixPending.contains (7 % 2048) = true ∧ State.reset.unmasked.contains (7 % 2048) = false := by
  decide +kernel

/-- A tile in service with a graph 0, and start queue 3 with an entry that waits. -/
def queueing : State :=
  let s := (lattice 0 []).withB4 (Reg.sqCfg 3) (BitVec.ofNat 64 (1 <<< 10 + 1 <<< 4 + 4))
  s.withB4 (Reg.sqTail 3) 1

/-- Premises of `HostAccesses`: entries that are good, bad and unreachable, and one that was held. -/
theorem test_entry_premises :
    let s := queueing
    let b := zeros 64
    let w := s.withSqHeld [(3, b)]
    s.wf = true ∧ s.queueOn false 3 = true ∧ s.b4 (Reg.sqHead 3) ≠ s.b4 (Reg.sqTail 3) ∧ s.sqHeld.any (fun x => x.1 == 3) = false ∧ entryBad b = false ∧
      bit (rdLe (natLe 64 32768) 0 2) 15 = true ∧ ((s.withStop 0 { Stop.reset with isolated := true }).stop (tileBlock 0)).isolated = true ∧
      (s.deliverEntry 3 b).2 = 4 ∧ (w.sqHeld.find? fun x => x.1 == 3) = some (3, b) ∧ State.reset.sqHeld.find? (fun x => x.1 == 3) = none := by
  decide +kernel

/-- Premises of `HostAccesses`: a tile that takes a trigger, and one that has no room. -/
theorem test_entry_busy_premises :
    let s := queueing.modTile 0 fun x => { x with mem := writeBytes x.mem (graphAddr 0) (natLe 8 (1 <<< 40)) }
    (s.deliverEntry 3 (zeros 64)).2 = 0 ∧ ((s.modTile 0 fun x => { x with trigQ := List.replicate 8 ⟨0, 0, []⟩ }).deliverEntry 3 (zeros 64)).2 = 5 := by
  decide +kernel

/-- Premises of `HostAccesses`: addresses that a stack serves, up to the end of a block, and that none serves. -/
theorem test_bar2_premises :
    let s := carved ⟨.free, 0, none⟩ 0
    s.devServed 0 = true ∧ 63 % 64 + 1 ≤ 64 ∧ s.devServed (2 ^ 36) = false ∧ s.hbmHeld 0 0 64 = false ∧ (s.modCtrl 0 fun c => { c with repair := some 0 }).hbmHeld 0 0 64 = true := by
  decide +kernel

/-- A package whose porter runs. -/
def served (f : Porter → Porter) : State := (inPhase 6 id).withPorter (f State.reset.porter)

/-- Premises of `Porter`: requests that are new and repeated, views, keys in each state, and the sizes at their limits. -/
theorem test_porter_premises :
    let s := served id
    3 ≤ s.seqPhase ∧ s.porter.queue = [] ∧ s.keptAnswer .i3c 4 = none ∧ (served fun p => { p with senders := [(.i3c, 4, [])] }).keptAnswer .i3c 4 = some [] ∧
      s.parseUnit 7 = none ∧ s.parseUnit (unitWord 3 1 0 2 0) = some ⟨3, 1, 0, 2, 0, 0, 0⟩ ∧ (s.parseUnit 6).map (·.level) = some 6 ∧ s.porter.views.length < 256 ∧
      (served fun p => { p with views := List.replicate 256 ⟨0, true, 0⟩ }).porter.views.length = 256 ∧ (zeros 48).length = 48 ∧ s.committing = false ∧
      (nth s.porter.keys 1 ⟨[], false, false⟩).programmed = false ∧
      (nth (served fun p => { p with keys := [⟨[], true, false⟩, ⟨[], true, true⟩] }).porter.keys 1 ⟨[], false, false⟩).revoked = true ∧
      s.hbmHeld (devStack 32) (devOff 32) 256 = false ∧ s.inTrace 32 256 = false ∧ State.reset.seqPhase < 3 ∧
      (served fun p => { p with queue := List.replicate 8 (.i3c, []) }).porter.queue.length = 8 := by
  decide +kernel

/-- A package whose trace unit 0 records into 1 MiB units of stack 0 and holds a record. -/
def tracing (e : Nat) (at_ : Nat) : State :=
  let s := State.reset.withCommit { State.reset.commit with pkg := zeros 0x100 ++ natLe 2 (16 + e <<< 5) ++ natLe 2 64 ++ natLe 1 1 ++ zeros 600 }
  (s.withTraceUnit 0 ⟨[zeros 32], false, false, false⟩).withFld (dieReg 0 Reg.peeDieWrptr) 31 0 at_

/-- Premises of `TraceAndScan`: a record within the region and at its end, circular and stopping, and a trace region that the porter may read. -/
theorem test_trace_premises :
    let s := tracing 0 0
    let n := unitBytes / 32
    s.wf = true ∧ (s.traceUnit 0).buffered = zeros 32 :: [] ∧ peeRegion (s.peeEntry 0) = some ⟨0, 1, 64, 1⟩ ∧ (s.traceUnit 0).full = false ∧
      (s.traceUnit 0).freezing = false ∧ s.hbmHeld 0 (64 * unitBytes) 32 = false ∧ regionRecords ⟨0, 1, 64, 1⟩ = n ∧ s.fld (dieReg 0 Reg.peeDieWrptr) 31 0 + 1 < n ∧
      n ≤ (tracing 0 (n - 1)).fld (dieReg 0 Reg.peeDieWrptr) 31 0 + 1 ∧ bit (rdLe (s.peeEntry 0) 0 2) 5 = false ∧ bit (rdLe ((tracing 1 0).peeEntry 0) 0 2) 5 = true ∧
      bit (s.reg Reg.peeFrozen).toNat 0 = false ∧ (State.reset.traceUnit 0).buffered = [] ∧ (portAt false 2 0 id).macLive 0 = true ∧ State.reset.macLive 0 = false ∧
      s.inTrace (64 * unitBytes) 256 = true := by
  decide +kernel

/-- ALERT_N is released at reset and asserted by a power event (R366, R367). -/
theorem test_alert : State.reset.alertAsserted = false ∧ (State.reset.powerEvent 5).alertAsserted = true := by
  decide +kernel

/-- A tile die's section whose gang list holds one gang, of tile 0 alone (R45). -/
def gangSection : Bytes := (section0 0 ++ zeros 523772) ++ (natLe 8 1 ++ natLe 8 0)

/-- Tile 0 as the one member of gang 0, with a descriptor of opcode `op` on its gang engine. -/
def ganged (op : Nat) : State :=
  (running (desc [(0, op)]) Engine.gang.code id).modDie 0 fun d => { d with active := gangSection }

/-- A slice that lies in the first of two lists. -/
theorem slice_left (a b : Bytes) (off n : Nat) (h : off + n ≤ a.length) : slice (a ++ b) off n = slice a off n := by
  have h1 : off ≤ a.length := by omega
  simp only [slice, List.drop_append_of_le_length h1]
  exact List.take_append_of_le_length (by simp; omega)

/-- A slice that lies in the second of two lists. -/
theorem slice_right (a b : Bytes) (off n : Nat) (h : a.length ≤ off) : slice (a ++ b) off n = slice b (off - a.length) n := by
  simp [slice, List.drop_append, List.drop_of_length_le h]

/-- The gang list of `gangSection` begins with its GANG_COUNT. -/
theorem gangSection_left : (section0 0 ++ zeros 523772).length = 524416 := by
  have h : (section0 0).length = 644 := by decide +kernel
  rw [List.length_append, h, zeros, List.length_replicate]

/-- Premises of `PermanentFaults`: a tile that is a member of a gang. -/
theorem test_gang_member (op : Nat) : (ganged op).gangOf 0 = some 0 := by
  have ha : ((ganged op).die (0 / 2048)).active = gangSection := rfl
  have h1 : rdLe gangSection 128 8 = 0x11 := by
    have : slice (section0 0) 128 8 = natLe 8 0x11 := by decide +kernel
    rw [rdLe, gangSection, slice_left _ _ _ _ (by rw [gangSection_left]; omega), slice_left _ _ _ _ (by decide +kernel), this]
    decide
  have h2 : ∀ k, 524416 ≤ k → rdLe gangSection k 8 = rdLe (natLe 8 1 ++ natLe 8 0) (k - 524416) 8 := by
    intro k h
    rw [rdLe, gangSection, slice_right _ _ _ _ (by rw [gangSection_left]; exact h), gangSection_left]
    rfl
  have hg : gangRecords gangSection = [0] := by
    rw [gangRecords, h2 _ (by omega), show rdLe (natLe 8 1 ++ natLe 8 0) (524416 - 524416) 8 = 1 from by decide]
    show [rdLe gangSection 524424 8] = [0]
    rw [h2 _ (by omega)]
    decide
  have hr : (ganged op).roleWord 0 = 0x11 := by rw [State.roleWord, ha]; exact h1
  rw [State.gangOf, State.tileRole, ha, hg, hr]
  decide

/-- Premises of `PermanentFaults`: the gang's descriptor, of each opcode that a lost member may stop. -/
theorem test_gang_lost_premises : ∀ op ∈ [0x10, 0x11, 0x12],
    let s := ganged op
    let o := s.phys (gangTile 0 0 0 0)
    o = 0 ∧ mapGet [] Engine.gang.code (s.tile o).engines = [0] ∧ (s.ctx o 0).issued = true ∧ (s.ctx o 0).desc = some (desc [(0, op)]) ∧
      dOp (desc [(0, op)]) = op ∧ (s.ctx o 0).part = 0 := by
  decide +kernel

/-- Premises of `PermanentFaults`: the gang's state is well formed. -/
theorem test_ganged_wf : (ganged 0x10).wf = true := by decide +kernel

/-- Premises of `ScopeResets` and `PermanentFaults`: scopes without a gang member in service. -/
theorem test_lone_premises :
    let r := State.reset
    let none (l : List Nat) : Bool := l.all fun q => !r.active q || r.gangOf (r.logicalOf q) == none
    none [5] = true ∧ none (blockPhys 34) = true ∧ none ((sectorBlocks 63).flatMap blockPhys) = true ∧ none (diePhys 15) = true := by
  decide +kernel

/-- Premises of `TraceAndScan`: a PTP frame on Ethernet of each type whose layout holds no checksum. -/
theorem test_one_step_premises :
    let f (ty : Byte) : Bytes := zeros 12 ++ [0x88, 0xF7, ty] ++ zeros 33
    ptpOffset (f 3) = (14, false) ∧ rdLe (f 3) 14 1 % 16 = 3 ∧ rdLe (f 1) 14 1 % 16 = 1 ∧ (f 3).length = 48 ∧
      oneStepPtp (f 3) 5 2 = splice (f 3) 22 (natBe 8 (3 * 4096)) := by
  decide +kernel

/-- Premises of `Porter`: a request for trace bytes under repair, one that was answered before, and one that is new. -/
theorem test_trace_read_premises :
    let s := served id
    let w := served fun p => { p with senders := [(.i3c, 4, [1])] }
    (s.modCtrl 0 fun c => { c with repair := some 0 }).hbmHeld (devStack 0) (devOff 0) 64 = true ∧ s.hbmHeld (devStack 0) (devOff 0) 64 = false ∧
      w.hbmHeld (devStack 0) (devOff 0) 64 = false ∧ w.keptAnswer .i3c 4 = some [1] ∧ s.keptAnswer .i3c 4 = none := by
  decide +kernel

/-- Premises of `AccumulatorOpcodes`: a deferred term, with its add right at once, wrong once, and wrong where the tile was wrong within 1 ms. -/
theorem test_deferred_premises :
    let s := (lattice 0 []).modTile 0 fun x => { x with deferred := [(3, Slot.zero)] }
    let w := s.modTile 0 fun x => { x with residueAt := some 0 }
    (s.tile 0).deferred.find? (fun x => x.1 == 3) = some (3, Slot.zero) ∧ (s.tile 0).deferred.find? (fun x => x.1 == 4) = none ∧
      (s.tile 0).residueAt = none ∧ (s.residue 0 1).2 = true ∧ (w.tile 0).residueAt = some 0 ∧ w.clk.kclk < 0 + 250000 ∧ (w.residue 0 1).2 = false := by
  decide +kernel

end Sys2Proof.Tests
end

section
/-! PROOFS. Fields of a register by their access codes, and the rows of the register map (R7, R9, R10, R34). -/

namespace Sys2Proof.Machine

/-! Bits of a register and its access codes (R7, R9, R10). -/

/-- The fields of a register rise and do not overlap. -/
abbrev RegRow.disjoint (r : RegRow) : Prop := r.fields.Pairwise fun f g => f.hi < g.lo

/-- Whether a bit lies in a field. -/
def Fld.covers (f : Fld) (i : Nat) : Bool := decide (f.lo ≤ i) && decide (i ≤ f.hi)

theorem Fld.testBit_mask (f : Fld) (i : Nat) : f.mask.testBit i = f.covers i := by
  rw [Fld.mask, Nat.testBit_shiftLeft, Nat.testBit_two_pow_sub_one, Fld.covers, Bool.eq_iff_iff]
  simp only [Bool.and_eq_true, decide_eq_true_eq, ge_iff_le]
  omega

theorem testBit_foldl_mask (l : List Fld) (m i : Nat) :
    (l.foldl (fun m f => m ||| f.mask) m).testBit i = (m.testBit i || l.any (·.covers i)) := by
  induction l generalizing m with
  | nil => simp
  | cons f l ih => rw [List.foldl_cons, ih, Nat.testBit_or, Fld.testBit_mask, List.any_cons, Bool.or_assoc]

/-- The first field that covers a bit has an access code exactly if some field with that code covers it. -/
theorem find_acc_eq_any {acc : Access} {i : Nat} : ∀ {l : List Fld}, l.Pairwise (fun f g => f.hi < g.lo) →
    ((l.find? (·.covers i)).map (·.acc) == some acc) = (l.filter (·.acc == acc)).any (·.covers i)
  | [], _ => rfl
  | f :: l, h => by
    obtain ⟨hf, hl⟩ := List.pairwise_cons.1 h
    by_cases hc : f.covers i = true
    · have hi : i ≤ f.hi := by
        simp only [Fld.covers, Bool.and_eq_true, decide_eq_true_eq] at hc
        exact hc.2
      have hrest : ∀ g ∈ l, g.covers i = false := by
        intro g hg
        have := hf g hg
        simp only [Fld.covers, Bool.and_eq_false_iff, decide_eq_false_iff_not]
        omega
      have hany : (l.filter (·.acc == acc)).any (·.covers i) = false := by
        rw [List.any_eq_false]
        intro g hg
        simp [hrest g (List.mem_of_mem_filter hg)]
      simp only [List.find?_cons, hc, List.filter_cons]
      by_cases ha : f.acc = acc
      · simp [ha, hc]
      · simp [ha, hany]
    · rw [List.find?_cons_of_neg (by simpa using hc), find_acc_eq_any hl, List.filter_cons]
      split
      · simp [hc]
      · rfl

/-- A bit is in the mask of an access code exactly if its code is that one. -/
theorem RegRow.testBit_mask {r : RegRow} (h : r.disjoint) (acc : Access) (i : Nat) : (r.mask acc).testBit i = (r.codeAt i == some acc) := by
  rw [RegRow.mask, testBit_foldl_mask, Nat.zero_testBit, Bool.false_or, ← find_acc_eq_any h]
  rfl

/-- The bits of a word that a mask leaves out. -/
theorem testBit_compl {x i : Nat} (hx : x < 2 ^ 64) (hi : i < 64) : (2 ^ 64 - 1 - x).testBit i = !x.testBit i := by
  rw [Nat.sub_sub, Nat.add_comm 1, Nat.testBit_two_pow_sub_succ hx]
  simp [hi]

theorem testBit_ones {i : Nat} (hi : i < 64) : (2 ^ 64 - 1).testBit i = true := by
  rw [Nat.testBit_two_pow_sub_one, decide_eq_true hi]

/-- A bit of a register after a write of the whole value `v`. -/
theorem RegRow.testBit_write {r : RegRow} (h : r.disjoint) (old v : Nat) {i : Nat} (hi : i < 64) :
    (r.write old v (2 ^ 64 - 1)).testBit i = Access.after (r.codeAt i) (old.testBit i) (v.testBit i) := by
  have hm (x : Nat) : x &&& (2 ^ 64 - 1) < 2 ^ 64 := Nat.lt_of_le_of_lt Nat.and_le_right (by decide)
  have hc (x : Nat) : x &&& (2 ^ 64 - 1) &&& v < 2 ^ 64 := Nat.lt_of_le_of_lt Nat.and_le_left (hm x)
  simp only [RegRow.write, Nat.testBit_or, Nat.testBit_and, testBit_compl (hm _) hi, testBit_compl (hc _) hi, testBit_ones hi,
    RegRow.testBit_mask h]
  rcases r.codeAt i with _ | acc
  · simp [Access.after]
  · cases acc <;> cases old.testBit i <;> cases v.testBit i <;> rfl

/-- A bit of the whole value that a write of `v` to the bits of `m` means. -/
theorem RegRow.testBit_whole {r : RegRow} (h : r.disjoint) (old v : Nat) {m i : Nat} (hm : m < 2 ^ 64) (hi : i < 64) :
    (r.whole old v m).testBit i = if m.testBit i then v.testBit i else old.testBit i && r.codeAt i == some .rw := by
  simp only [RegRow.whole, Nat.testBit_or, Nat.testBit_and, testBit_compl hm hi, RegRow.testBit_mask h]
  cases m.testBit i <;> simp

/-- A write of the whole value that an access means acts on the bits that the access addresses. -/
theorem RegRow.testBit_write_whole {r : RegRow} (h : r.disjoint) (old v : Nat) {m i : Nat} (hm : m < 2 ^ 64) (hi : i < 64) :
    (r.write old (r.whole old v m) (2 ^ 64 - 1)).testBit i =
      if m.testBit i then Access.after (r.codeAt i) (old.testBit i) (v.testBit i) else old.testBit i := by
  rw [RegRow.testBit_write h _ _ hi, RegRow.testBit_whole h _ _ hm hi]
  split
  · rfl
  · rcases r.codeAt i with _ | acc
    · rfl
    · cases acc <;> simp [Access.after]

/-- A write that addresses no writable bit means nothing for any bit. -/
theorem RegRow.after_of_unwritable {r : RegRow} (h : r.disjoint) {m i : Nat} (hw : r.writable &&& m = 0) (hi : m.testBit i = true) (old new : Bool) :
    Access.after (r.codeAt i) old new = old := by
  have hb := congrArg (·.testBit i) hw
  simp only [RegRow.writable, Nat.testBit_and, Nat.testBit_or, RegRow.testBit_mask h, hi, Nat.zero_testBit, Bool.and_true] at hb
  rcases hc : r.codeAt i with _ | acc
  · rfl
  · cases acc <;> simp_all [Access.after]

/-- A bit of a word whose bits of `g` are cleared. -/
theorem getLsbD_and_not_word (w : Word) (g : Nat) {i : Nat} (hi : i < 64) : (w &&& ~~~word g).getLsbD i = (w.getLsbD i && !g.testBit i) := by
  rw [BitVec.getLsbD_and, BitVec.getLsbD_not, word, BitVec.getLsbD_ofNat, decide_eq_true hi, Bool.true_and, Bool.true_and]

@[simp] theorem and_not_word_zero (w : Word) : w &&& ~~~word 0 = w :=
  BitVec.eq_of_getLsbD_eq fun i hi => by rw [getLsbD_and_not_word w 0 hi, Nat.zero_testBit, Bool.not_false, Bool.and_true]

/-- Bits cut from a word's number. -/
theorem word_cut (w : Word) {g : Nat} (hg : g < 2 ^ 64) : word (w.toNat &&& (2 ^ 64 - 1 - g)) = w &&& ~~~word g := by
  refine BitVec.eq_of_getLsbD_eq fun i hi => ?_
  rw [getLsbD_and_not_word w g hi, word, BitVec.getLsbD_ofNat, decide_eq_true hi, Bool.true_and, Nat.testBit_and, testBit_compl hg hi,
    BitVec.testBit_toNat]

/-! Rows of the register map (R34). -/

/-- The row that an offset falls on is one of the table's, and the offset lies on it or on one of its copies. -/
theorem findRow_some {rows : List RegRow} {off : Nat} {r : RegRow} (h : findRow rows off = some r) :
    r ∈ rows ∧ r.off ≤ off ∧ strideHit r.strides (off - r.off) = true := by
  have hp := List.find?_some h
  simp only [Bool.and_eq_true, decide_eq_true_eq] at hp
  exact ⟨List.mem_of_find?_eq_some h, hp⟩

/-- A row without copies is found at its own offset. -/
theorem findRow_off {rows : List RegRow} {off : Nat} {r : RegRow} (h : findRow rows off = some r) (hs : r.strides = []) : off = r.off := by
  obtain ⟨-, hle, hhit⟩ := findRow_some h
  simp only [hs, strideHit, beq_iff_eq] at hhit
  omega

/-- A row of a tile die is found in one of the tables of a die. -/
theorem dieRow_some {d off : Nat} {r : RegRow} (h : dieRow d off = some r) :
    findRow anyDieRows off = some r ∨ findRow tileDieRows off = some r ∨ findRow perimeterDieRows off = some r := by
  unfold dieRow at h
  split at h
  · exact .inl (h ▸ ‹_›)
  · split at h
    · exact .inr (.inl (h ▸ ‹_›))
    · split at h
      · exact .inr (.inr h)
      · cases h

/-- A row of a port die is found in one of the tables of a port die. -/
theorem portDieRow_some {n off : Nat} {r : RegRow} (h : portDieRow n off = some r) :
    findRow anyDieRows off = some r ∨ findRow portDieRows off = some r ∨ findRow portDieZeroRows off = some r := by
  unfold portDieRow at h
  split at h
  · exact .inl (h ▸ ‹_›)
  · split at h
    · exact .inr (.inl (h ▸ ‹_›))
    · split at h
      · exact .inr (.inr h)
      · cases h

/-- The tables of the registers of BAR0. -/
def bar0Tables : List (List RegRow) :=
  [packageRows, anyDieRows, tileDieRows, perimeterDieRows, tileWindowRows, portDieRows, portDieZeroRows]

/-- A mapped address has its row in one of the tables. -/
theorem regRow_some {a : Nat} {r : RegRow} (h : regRow a = some r) : ∃ rows ∈ bar0Tables, r ∈ rows := by
  have table {rows : List RegRow} {off : Nat} (ht : rows ∈ bar0Tables) (h : findRow rows off = some r) : ∃ rows ∈ bar0Tables, r ∈ rows :=
    ⟨rows, ht, (findRow_some h).1⟩
  unfold regRow at h
  dsimp only at h
  split_ifs at h
  · exact table (by simp [bar0Tables]) h
  · rcases dieRow_some h with h | h | h <;> exact table (by simp [bar0Tables]) h
  · exact table (by simp [bar0Tables]) h
  · rcases portDieRow_some h with h | h | h <;> exact table (by simp [bar0Tables]) h

theorem bar0Tables_disjoint : ∀ rows ∈ bar0Tables, ∀ r ∈ rows, r.disjoint := by decide +kernel

/-- No two fields of a register share a bit. -/
theorem regRow_disjoint {a : Nat} {r : RegRow} (h : regRow a = some r) : r.disjoint := by
  obtain ⟨rows, ht, hr⟩ := regRow_some h
  exact bar0Tables_disjoint rows ht r hr

/-- An address in a tile window has the row of its offset there. -/
theorem regRow_of_windowTile {a k : Nat} (h : windowTile a = some k) : regRow a = findRow tileWindowRows (a % 256) := by
  unfold windowTile at h
  dsimp only at h
  split_ifs at h with h1 h2
  have e : (a - 0x1000000) % 0x100000 % 0x100 = a % 256 := by omega
  unfold regRow
  dsimp only
  rw [if_neg (by omega), if_neg (by omega), if_pos (by omega), if_neg (by omega), if_pos (by omega), e]

/-- Bits that an access addresses lie in a word. -/
theorem accessMask_lt {a width m : Nat} (h : accessMask a width = some m) : m < 2 ^ 64 := by
  unfold accessMask at h
  split_ifs at h <;> cases h <;> decide

/-- Of a well-formed state, the tables of registers and of tiles are ordered. -/
theorem State.ordered_of_wf {s : State} (h : s.wf = true) : keysFrom 0 s.regs = true ∧ keysFrom 0 s.tiles = true := by
  simp only [State.wf, State.ordered, Bool.and_eq_true] at h
  tauto

end Sys2Proof.Machine
end

section
/-! PROOFS. Register reads: what a read answers and what it clears (R7, R8, R10, R36). -/

namespace Sys2Proof.Machine

/-! Read-clear (R10). -/

/-- RC bits that an access addresses. -/
theorem rcBits_lt (r : RegRow) {m : Nat} (hm : m < 2 ^ 64) : r.mask .rc &&& m < 2 ^ 64 := Nat.lt_of_le_of_lt Nat.and_le_right hm

/-- A read outside the tile windows clears the RC bits of its register. -/
theorem State.readClear_register {s : State} {a m : Nat} (r : RegRow) (hw : windowTile a = none) (hm : m < 2 ^ 64) :
    s.readClear a r m = if r.mask .rc &&& m = 0 then s else s.withReg a (s.reg a &&& ~~~word (r.mask .rc &&& m)) := by
  rw [State.readClear, hw]
  simp only [word_cut _ (rcBits_lt r hm)]

/-- Bits of a register after a read of it. -/
theorem State.readClear_reg_self {s : State} {a m i : Nat} {r : RegRow} (hs : keysFrom 0 s.regs = true) (hr : r.disjoint)
    (hw : windowTile a = none) (hm : m < 2 ^ 64) (hi : i < 64) :
    ((s.readClear a r m).reg a).getLsbD i = ((s.reg a).getLsbD i && !(r.codeAt i == some .rc && m.testBit i)) := by
  have hg : (r.mask .rc &&& m).testBit i = (r.codeAt i == some .rc && m.testBit i) := by rw [Nat.testBit_and, RegRow.testBit_mask hr]
  rw [State.readClear_register r hw hm, ← hg]
  split
  · rename_i h0
    simp [h0]
  · rw [State.reg_withReg_self hs, getLsbD_and_not_word _ _ hi]

/-- A read clears nothing in another register. -/
theorem State.readClear_reg_ne {s : State} {a b m : Nat} (r : RegRow) (hw : windowTile a = none) (hm : m < 2 ^ 64) (hb : b ≠ a) :
    (s.readClear a r m).reg b = s.reg b := by
  rw [State.readClear_register r hw hm]
  split
  · rfl
  · exact State.reg_withReg_ne _ hb

/-- A read outside the tile windows clears in the table of registers alone. -/
theorem State.readClear_register_frame {s : State} {a m : Nat} (r : RegRow) (hw : windowTile a = none) (hm : m < 2 ^ 64) :
    (s.readClear a r m).withRegs s.regs = s := by
  rw [State.readClear_register r hw hm]
  split <;> rfl

/-- The registers of a tile window that hold RC bits are DSC_PERIOD_OVERRUN and DSC_SHADOW_FAULT_DROPPED. -/
theorem tileWindowRows_rc : ∀ r ∈ tileWindowRows, r.mask .rc = 0 ∨ r.strides = [] ∧ (r.off = 0x68 ∨ r.off = 0x70) := by decide +kernel

/-- No register of a tile window is one that takes 64-bit accesses only. -/
theorem tileWindowRows_narrow : ∀ r ∈ tileWindowRows, r.name ∉ wideOnly := by decide +kernel

/-- The tile after a read of its window clears the RC bits of `m`. -/
def Tile.readCleared (x : Tile) (off : Nat) (m : Nat) : Tile :=
  { x with
    periodOverrun := if off = 0x68 then x.periodOverrun &&& ~~~word m else x.periodOverrun
    shadowDropped := if off = 0x70 then x.shadowDropped &&& ~~~word m else x.shadowDropped }

@[simp] theorem Tile.readCleared_zero (x : Tile) (off : Nat) : x.readCleared off 0 = x := by
  simp [Tile.readCleared]

/-- A read in a tile window clears the RC bits of its register. -/
theorem State.readClear_window {s : State} {a k m : Nat} {r : RegRow} (hs : keysFrom 0 s.tiles = true) (hw : windowTile a = some k)
    (hr : regRow a = some r) (hm : m < 2 ^ 64) :
    (s.readClear a r m).tile k = (s.tile k).readCleared (a % 256) (r.mask .rc &&& m) ∧
      (∀ j, j ≠ k → (s.readClear a r m).tile j = s.tile j) ∧ (s.readClear a r m).withTiles s.tiles = s := by
  rw [regRow_of_windowTile hw] at hr
  rw [State.readClear, hw]
  simp only [word_cut _ (rcBits_lt r hm)]
  by_cases h0 : r.mask .rc &&& m = 0
  · rw [if_pos h0, h0]
    exact ⟨(Tile.readCleared_zero ..).symm, fun _ _ => rfl, rfl⟩
  · rw [if_neg h0]
    have hoff : a % 256 = 0x68 ∨ a % 256 = 0x70 := by
      rcases tileWindowRows_rc r (findRow_some hr).1 with hz | ⟨hst, ho⟩
      · exact absurd (by rw [hz, Nat.zero_and]) h0
      · rwa [findRow_off hr hst]
    rcases hoff with ho | ho
    all_goals
      simp only [ho, if_true, Nat.reduceEqDiff, if_false, State.modTile]
      exact ⟨by rw [State.tile_withTile_self hs]; rfl, fun j hj => State.tile_withTile_ne _ hj, rfl⟩

/-! Reads. -/

/-- Addresses of BAR0, from either source. -/
theorem exec_rcRegisterRead {s : State} {src : Src} {a width : Nat} (h : src = .host → a < bar4Base) :
    exec (.rcRegisterRead src a width) s =
      .next ((s.regRead src a width).1.emit (.readReply src a (s.regRead src a width).2)) := by
  have hb : ¬(src = .host ∧ bar4Base ≤ a) := fun ⟨hh, hle⟩ => absurd (h hh) (Nat.not_lt.2 hle)
  show execRcRegisterRead src a width s = _
  rw [execRcRegisterRead, if_neg hb]

theorem State.regRead_mapped {s : State} {a width m : Nat} {r : RegRow} (src : Src) (hm : accessMask a width = some m)
    (hr : regRow (a - a % 8) = some r) : s.regRead src a width = s.readRow src a (a - a % 8) width m r := by
  rw [State.regRead, hm, hr]

theorem State.regRead_unmapped {s : State} {a width : Nat} (src : Src) (h : accessMask a width = none ∨ regRow (a - a % 8) = none) :
    s.regRead src a width = (s.badAccess src false a .unmapped, 0) := by
  rw [State.regRead]
  rcases h with h | h
  · rw [h]
  · rw [h]
    cases accessMask a width <;> rfl

/-- A register that answers, of a width it takes, answers what it shows; PUN_HM_ALLOC allocates. -/
theorem State.readRow_answers {s : State} {b width : Nat} {r : RegRow} (src : Src) (a m : Nat) (hmute : s.mute b = false)
    (hwide : width = 8 ∨ r.name ∉ wideOnly) (halloc : r.name ≠ "PUN_HM_ALLOC") :
    s.readRow src a b width m r = (s.readClear b r m, word ((s.shows b).toNat >>> (8 * (a % 8)) % 2 ^ (8 * width))) := by
  have hw : ¬(wideOnly.contains r.name = true ∧ width ≠ 8) := by
    rw [List.contains_iff_mem]
    tauto
  rw [State.readRow, if_neg (by simp [hmute]), if_neg hw, if_neg (by simpa using halloc)]

/-- A register that does not answer answers zero, and the read is counted. -/
theorem State.readRow_mute {s : State} {b : Nat} (src : Src) (a width m : Nat) (r : RegRow) (hmute : s.mute b = true) :
    s.readRow src a b width m r = (s.badAccess src false a .noResponse, 0) := by
  rw [State.readRow, if_pos hmute]

/-- Only registers of tile windows may not answer. -/
theorem State.mute_of_windowTile_none {s : State} {b : Nat} (h : windowTile b = none) : s.mute b = false := by
  rw [State.mute, h]

/-- Settles O8: outside and inside the tile windows by what a read clears there, and the accesses that reach no register. -/
theorem registerRead : Obligations.RegisterRead := by
  intro s src a width hwf hsrc
  obtain ⟨hregs, htiles⟩ := State.ordered_of_wf hwf
  rw [exec_rcRegisterRead hsrc]
  refine ⟨fun m r hm hr hw halloc hwide => ?_, fun m r k hm hr hw => ⟨fun hmute => ?_, fun hmute => ?_⟩, fun h => ?_⟩
  · have hlt := accessMask_lt hm
    have hd := regRow_disjoint hr
    rw [State.regRead_mapped src hm hr, State.readRow_answers src a m (State.mute_of_windowTile_none hw) hwide halloc]
    have hframe := State.readClear_register_frame (s := s) r hw hlt
    refine ⟨_, rfl, ?_, fun i hi => ?_, fun b hb => ?_, ?_⟩
    · rw [State.emit, State.withOut_out, ← congrArg State.out hframe]
      rfl
    · exact State.readClear_reg_self hregs hd hw hlt hi
    · exact State.readClear_reg_ne r hw hlt hb
    · exact congrArg (·.withOut s.out) hframe
  · rw [State.regRead_mapped src hm hr, State.readRow_mute src a width m r hmute]
  · have hname : r.name ∉ wideOnly := tileWindowRows_narrow r (findRow_some (regRow_of_windowTile hw ▸ hr)).1
    have halloc : r.name ≠ "PUN_HM_ALLOC" := fun h => hname (by simp [h, wideOnly])
    rw [State.regRead_mapped src hm hr, State.readRow_answers src a m hmute (.inr hname) halloc]
    obtain ⟨hself, hother, hframe⟩ := State.readClear_window htiles hw hr (accessMask_lt hm)
    refine ⟨_, rfl, ?_, ?_, ?_, hother, ?_⟩
    · rw [State.emit, State.withOut_out, ← congrArg State.out hframe]
      rfl
    · exact congrArg Tile.periodOverrun hself
    · exact congrArg Tile.shadowDropped hself
    · exact congrArg (·.withOut s.out) hframe
  · rw [State.regRead_unmapped src h]

end Sys2Proof.Machine
end

section
/-! PROOFS. Writes of plain registers (R7-R10). -/

namespace Sys2Proof.Machine

/-! Plain registers: a write acts on them by their access codes alone. -/

/-- Where the plain registers of the package lie. -/
theorem mem_plainPackage {a : Nat} (h : a ∈ plainPackage) :
    a = 0x20 ∨ a = 0x38 ∨ a = 0x10008 ∨ a = 0x20028 ∨ a = 0x30008 ∨ a = 0x30028 ∨ a = 0x50028 ∨ a = 0x60048 ∨
      (0x1000 ≤ a ∧ a < 0x3000) ∨ (0x70000 ≤ a ∧ a < 0x74000 ∧ a % 0x40 ≤ 0x10) := by
  simp only [plainPackage, List.mem_append, List.mem_cons, List.not_mem_nil, or_false, List.mem_map, List.mem_range, Reg.porBar2Base,
    Reg.porIbiMask, Reg.clkSleepTimeout, Reg.pwrEvent, Reg.detStatus, Reg.detBarrierStatus, Reg.strCommitStatus, Reg.fltIrqCfg, Reg.porIrqMap,
    Reg.colGrpCfg, Reg.colGrpList, Reg.colGrpReduce] at h
  rcases h with (((h | ⟨i, hi, rfl⟩) | ⟨i, hi, rfl⟩) | ⟨i, hi, rfl⟩) | ⟨i, hi, rfl⟩ <;> omega

/-- Where the plain registers of a port die lie. -/
theorem mem_plainPortDie {off : Nat} (h : off ∈ plainPortDie) :
    off = 0x400C0 ∨ off = 0x400C8 ∨ off = 0x400D0 ∨ off = 0x70008 ∨ off = 0x180010 ∨ off = 0x180018 ∨ (0x40040 ≤ off ∧ off < 0x40080) ∨
      (0x10000 ≤ off ∧ off < 0x12000 ∧ off % 0x100 = 0x60) ∨ (0x100000 ≤ off ∧ off < 0x140000 ∧ (off % 0x2000 = 0 ∨ off % 0x2000 = 0x48)) := by
  simp only [plainPortDie, List.mem_append, List.mem_cons, List.not_mem_nil, or_false, List.mem_map, List.mem_range, Reg.swiCcCtrl, Reg.swiDlbOff,
    Reg.swiVoqSel, Reg.schObsSel, Reg.rteStatus, Reg.rteLatchTime, Reg.swiEcnThresh, Reg.lnkPfcMap, Reg.shuStatus, Reg.shuGuard] at h
  rcases h with (((h | ⟨i, hi, rfl⟩) | ⟨i, hi, rfl⟩) | ⟨i, hi, rfl⟩) | ⟨i, hi, rfl⟩ <;> omega

theorem plainPortDie_lt {off : Nat} (h : off ∈ plainPortDie) : off < 0x400000 := by
  have := mem_plainPortDie h
  omega

/-- The range of a port die in BAR0, and the die and the offset of an address there (R34). -/
theorem pdReg_split {n off : Nat} (hn : n < 4) (h : off < 0x400000) :
    (0x2000000 ≤ pdReg n off ∧ pdReg n off < 0x3000000) ∧ (pdReg n off - 0x2000000) / 0x400000 = n ∧
      (pdReg n off - 0x2000000) % 0x400000 = off := by
  have he : pdReg n off = 0x2000000 + n * 0x400000 + off := by rw [pdReg, dieBase, if_neg (by omega), Nat.add_sub_cancel_left]
  omega

/-- A write of a plain register of the package stores its value. -/
theorem State.writePackage_plain {s : State} {src : Src} {a w : Nat} (h : a ∈ plainPackage) : s.writePackage src a w = s.store a w := by
  have := mem_plainPackage h
  unfold State.writePackage Reg.strCommitCtrl Reg.strImageSrc Reg.strImageAddr Reg.strImageLen Reg.strLatchTime Reg.porImageServe
    Reg.clkDeepAfter Reg.pwrState Reg.pwrCap Reg.pwrTherm Reg.detCtrl Reg.detBarrierTime Reg.detBarrierCfg
    Reg.detBarrierCtrl Reg.detPolicyVf Reg.detPolicyRefresh Reg.detPolicySerdes Reg.peeFreeze Reg.fltRecCtrl Reg.fltResetReq
    Reg.fltPartReset Reg.colHbPeriod
  simp (disch := omega) only [if_neg]

/-- A plain register of the package shows what it holds. -/
theorem State.livePackage_plain {s : State} {a : Nat} (h : a ∈ plainPackage) : s.livePackage a = s.reg a := by
  have := mem_plainPackage h
  unfold State.livePackage Reg.porDeviceId Reg.porSerial Reg.porKeyStatus Reg.porViewStatus Reg.fltRecStatus Reg.fltRec
    Reg.fltTransientCnt Reg.fltPermanentCnt
  simp (disch := omega) only [if_neg]

/-- A write of a plain register of a port die stores its value. -/
theorem State.writePortDie_plain {s : State} {src : Src} {n off a w : Nat} (h : off ∈ plainPortDie) :
    s.writePortDie src n off a w = s.store a w := by
  have := mem_plainPortDie h
  unfold State.writePortDie
  by_cases hl : off < 0x100000
  · unfold State.writePortLow Reg.lnkBerRetire Reg.lnkTimePeriod Reg.lnkReplayTimeout Reg.ftmCtrl Reg.ftmRate Reg.ftmStep Reg.swiVoqMax
      Reg.punPkReturn Reg.punPkQuarRelease Reg.schSamplePeriod Reg.schObsClear
    simp (disch := omega) only [if_neg, if_pos]
  · by_cases hs : off < 0x140000
    · unfold State.writeShutter
      simp (disch := omega) only [if_neg, if_pos]
    · unfold Reg.rteCtrl
      simp (disch := omega) only [if_neg]

/-- A plain register of a port die shows what it holds. -/
theorem State.livePort_plain {s : State} {n off : Nat} (h : off ∈ plainPortDie) : s.livePort n off = s.reg (pdReg n off) := by
  have := mem_plainPortDie h
  unfold State.livePort Reg.swiVoqDepth Reg.punPkDirty Reg.punPkQuar Reg.schObsMinmax Reg.schObsSamples Reg.schObsBin Reg.rteNode
    Reg.rteParked Reg.rmaStreams
  simp (disch := omega) only [if_neg]

/-- A plain register shows what it holds. -/
theorem State.shows_plain {s : State} {a : Nat} (h : plainRegister a) : s.shows a = s.reg a := by
  rcases h with h | ⟨n, hn, off, h, rfl⟩
  · have := mem_plainPackage h
    rw [State.shows, if_pos (by omega), State.livePackage_plain h]
  · obtain ⟨hrange, hq, ho⟩ := pdReg_split hn (plainPortDie_lt h)
    rw [State.shows, if_neg (by omega), if_neg (by omega), hq, ho, State.livePort_plain h]

/-- A write that reaches a plain register stores the whole value that it means. -/
theorem State.regEffect_plain {s : State} {src : Src} {a v m : Nat} (r : RegRow) (h : plainRegister a) :
    s.regEffect src a r v m = if r.writable &&& m = 0 then s else s.store a (r.whole (s.reg a).toNat v m) := by
  rw [State.regEffect, State.shows_plain h]
  congr 1
  rcases h with h | ⟨n, hn, off, h, rfl⟩
  · have := mem_plainPackage h
    rw [if_pos (by omega), State.writePackage_plain h]
  · obtain ⟨hrange, hq, ho⟩ := pdReg_split hn (plainPortDie_lt h)
    rw [if_neg (by omega), if_neg (by omega), hq, ho, State.writePortDie_plain h]

/-- No plain register lies in a tile window, and none is DET_EXT_CNT. -/
theorem plainRegister_place {a : Nat} (h : plainRegister a) : windowTile a = none ∧ a ≠ Reg.detExtCnt := by
  have hp : a < 0x1000000 ∧ a ≠ 0x30040 ∨ 0x2000000 ≤ a := by
    rcases h with h | ⟨n, hn, off, h, rfl⟩
    · have := mem_plainPackage h
      omega
    · obtain ⟨hrange, -⟩ := pdReg_split hn (plainPortDie_lt h)
      exact .inr hrange.1
  refine ⟨?_, ?_⟩
  · rw [windowTile, if_pos (by omega)]
  · rw [Reg.detExtCnt]
    omega

/-- The one register of the package that takes 64-bit accesses only is FLT_RESET_REQ. -/
theorem packageRows_wideOnly : ∀ r ∈ packageRows, r.name ∈ wideOnly → r.strides = [] ∧ r.off = Reg.fltResetReq := by decide +kernel

/-- The one register of a port die that takes 64-bit accesses only is FTM_STEP. -/
theorem portDieTables_wideOnly :
    ∀ rows ∈ [anyDieRows, portDieRows, portDieZeroRows], ∀ r ∈ rows, r.name ∈ wideOnly → r.strides = [] ∧ r.off = Reg.ftmStep := by
  decide +kernel

/-- A plain register takes accesses of both widths. -/
theorem plainRegister_narrow {a : Nat} {r : RegRow} (h : plainRegister a) (hr : regRow a = some r) : r.name ∉ wideOnly := by
  intro hw
  rcases h with h | ⟨n, hn, off, h, rfl⟩
  · have := mem_plainPackage h
    rw [regRow, if_pos (by omega)] at hr
    obtain ⟨hst, ho⟩ := packageRows_wideOnly r (findRow_some hr).1 hw
    have := findRow_off hr hst
    rw [Reg.fltResetReq] at ho
    omega
  · have := mem_plainPortDie h
    obtain ⟨hrange, hq, ho⟩ := pdReg_split hn (plainPortDie_lt h)
    rw [regRow, if_neg (by omega), if_neg (by omega), if_neg (by omega), if_pos (by omega), hq, ho] at hr
    have away {rows : List RegRow} (ht : rows ∈ [anyDieRows, portDieRows, portDieZeroRows]) (hf : findRow rows off = some r) : False := by
      obtain ⟨hst, ho⟩ := portDieTables_wideOnly rows ht r (findRow_some hf).1 hw
      have := findRow_off hf hst
      rw [Reg.ftmStep] at ho
      omega
    rcases portDieRow_some hr with hf | hf | hf <;> exact away (by simp) hf

/-! Writes. -/

/-- Addresses of BAR0, from either source. -/
theorem exec_plainRegisterWrite {s : State} {src : Src} {a width : Nat} (v : Nat) (h : src = .host → a < bar4Base) :
    exec (.plainRegisterWrite src a width v) s = .next (s.regWrite src a width v) := by
  have hb : ¬(src = .host ∧ bar4Base ≤ a) := fun ⟨hh, hle⟩ => absurd (h hh) (Nat.not_lt.2 hle)
  show execPlainRegisterWrite src a width v s = _
  rw [execPlainRegisterWrite, if_neg hb]

theorem State.regWrite_unmapped {s : State} {a width : Nat} (src : Src) (v : Nat) (h : accessMask a width = none ∨ regRow (a - a % 8) = none) :
    s.regWrite src a width v = (s.external 1).badAccess src true a .unmapped := by
  rw [State.regWrite]
  rcases h with h | h
  · rw [h]
  · rw [h]
    cases accessMask a width <;> rfl

/-- The value of a write, at the bits of its register that it addresses. -/
abbrev writtenBits (a width v : Nat) : Nat := (v % 2 ^ (8 * width)) <<< (8 * (a % 8))

/-- A write that reaches a plain register stores the whole value that it means, where it addresses a writable bit. -/
theorem State.regWrite_plain {s : State} {a width m : Nat} {r : RegRow} (src : Src) (v : Nat) (hm : accessMask a width = some m)
    (hr : regRow (a - a % 8) = some r) (h : plainRegister (a - a % 8)) :
    s.regWrite src a width v =
      if r.writable &&& m = 0 then s.external 1
      else (s.external 1).store (a - a % 8) (r.whole ((s.external 1).reg (a - a % 8)).toNat (writtenBits a width v) m) := by
  have hw : ¬(wideOnly.contains r.name = true ∧ width ≠ 8) := by
    rw [List.contains_iff_mem]
    exact fun hc => plainRegister_narrow h hr hc.1
  rw [State.regWrite, hm, hr, (plainRegister_place h).1]
  dsimp only
  rw [if_neg hw, State.regEffect_plain r h]

/-- Counting an arrival changes DET_EXT_CNT alone. -/
theorem State.external_frame (s : State) (n : Nat) :
    (∀ b, b ≠ Reg.detExtCnt → (s.external n).reg b = s.reg b) ∧ (s.external n).withRegs s.regs = s := by
  rw [State.external]
  split
  · exact ⟨fun b hb => State.reg_withReg_ne _ hb, rfl⟩
  · exact ⟨fun _ _ => rfl, rfl⟩

theorem State.external_ordered {s : State} (n : Nat) (h : keysFrom 0 s.regs = true) : keysFrom 0 (s.external n).regs = true := by
  rw [State.external]
  split
  · exact State.withReg_ordered h
  · exact h

/-- A store changes its register alone. -/
theorem State.store_frame (s : State) (a v : Nat) :
    (∀ b, b ≠ a → (s.store a v).reg b = s.reg b) ∧ ∀ m, (s.store a v).withRegs m = s.withRegs m := by
  rw [State.store]
  split
  · exact ⟨fun b hb => State.reg_withReg_ne _ hb, fun _ => rfl⟩
  · exact ⟨fun _ _ => rfl, fun _ => rfl⟩

/-- Bits of a register after a store of the whole value that an access means. -/
theorem State.store_whole_reg {s : State} {a v m i : Nat} {r : RegRow} (hs : keysFrom 0 s.regs = true) (hr : regRow a = some r)
    (hm : m < 2 ^ 64) (hi : i < 64) :
    ((s.store a (r.whole (s.reg a).toNat v m)).reg a).getLsbD i =
      if m.testBit i then Access.after (r.codeAt i) ((s.reg a).getLsbD i) (v.testBit i) else (s.reg a).getLsbD i := by
  rw [State.store, hr]
  dsimp only
  rw [State.reg_withReg_self hs, BitVec.getLsbD_ofNat, decide_eq_true hi, Bool.true_and,
    RegRow.testBit_write_whole (regRow_disjoint hr) _ _ hm hi, BitVec.testBit_toNat]

/-- A write of a plain register, bit by bit, after the arrival has been counted. -/
theorem State.regWrite_plain_spec {s : State} {a width m : Nat} {r : RegRow} (src : Src) (v : Nat) (hs : keysFrom 0 s.regs = true)
    (hm : accessMask a width = some m) (hr : regRow (a - a % 8) = some r) (h : plainRegister (a - a % 8)) :
    (∀ i, i < 64 → ((s.regWrite src a width v).reg (a - a % 8)).getLsbD i =
      if m.testBit i then Access.after (r.codeAt i) (((s.external 1).reg (a - a % 8)).getLsbD i) ((writtenBits a width v).testBit i)
      else ((s.external 1).reg (a - a % 8)).getLsbD i) ∧
    (∀ b, b ≠ a - a % 8 → (s.regWrite src a width v).reg b = (s.external 1).reg b) ∧
      ∀ x, (s.regWrite src a width v).withRegs x = (s.external 1).withRegs x := by
  rw [State.regWrite_plain src v hm hr h]
  split
  · rename_i hw
    refine ⟨fun i _ => ?_, fun _ _ => rfl, fun _ => rfl⟩
    split
    · rw [RegRow.after_of_unwritable (regRow_disjoint hr) hw ‹_›]
    · rfl
  · obtain ⟨hother, hframe⟩ := State.store_frame (s.external 1) (a - a % 8)
      (r.whole ((s.external 1).reg (a - a % 8)).toNat (writtenBits a width v) m)
    exact ⟨fun i hi => State.store_whole_reg (State.external_ordered 1 hs) hr (accessMask_lt hm) hi, hother, hframe⟩

/-- Settles O9: the arrival is counted in DET_EXT_CNT, which is not plain, and the write then acts bit by bit. -/
theorem plainRegisterWrite : Obligations.PlainRegisterWrite := by
  intro s src a width v hwf hsrc
  rw [exec_plainRegisterWrite v hsrc]
  refine ⟨fun m r hm hp hr => ?_, fun h => ?_⟩
  · obtain ⟨hself, hother, hframe⟩ := State.regWrite_plain_spec src v (State.ordered_of_wf hwf).1 hm hr hp
    obtain ⟨hreg, hext⟩ := State.external_frame s 1
    rw [hreg _ (plainRegister_place hp).2] at hself
    exact ⟨_, rfl, hself, hother, (hframe s.regs).trans hext⟩
  · rw [State.regWrite_unmapped src v h]

end Sys2Proof.Machine
end

section
/-! PROOFS. Stores to tile memory, and the move engine: COPY, FILL, OCLOAD and OCEVICT (R22, R114-R117, R134). -/

namespace Sys2Proof.Machine

/-! Stores to tile memory. -/

/-- Reading one byte of a tile's memory. -/
theorem readBytes_one (m : SMap Byte) (a : Nat) : readBytes m a 1 = [mapGet 0 a m] := rfl

/-- A row written to tile memory is one store. -/
theorem writeRuns_tile (e : Run) (a : Nat) (data : Bytes) (s : State) :
    writeRuns e 1 [((a : Int), data.length)] data s = s.modTile e.t (·.writeMem a data) := by
  show s.modTile e.t (·.writeMem a (data.take data.length)) = _
  rw [List.take_length]

/-- A tile that was changed. -/
theorem State.tile_modTile_self {s : State} (hs : keysFrom 0 s.tiles = true) (k : Nat) (g : Tile → Tile) :
    (s.modTile k g).tile k = g (s.tile k) :=
  State.tile_withTile_self hs _ _

/-- A change of one tile leaves the others. -/
theorem State.tile_modTile_ne {s : State} {k j : Nat} (g : Tile → Tile) (h : j ≠ k) : (s.modTile k g).tile j = s.tile j :=
  State.tile_withTile_ne _ h

/-- Of a well-formed state, every tile's memory is canonical. -/
theorem State.memory_of_wf {s : State} (h : s.wf = true) (k : Nat) : Memory.wf (s.tile k).mem = true := (Since.refl h).memTile k

/-- A row written to tile memory: its bytes stand there, and all else stays. -/
theorem writeRuns_tile_spec {s : State} (hwf : s.wf = true) (e : Run) (a : Nat) (data : Bytes) :
    let u := writeRuns e 1 [((a : Int), data.length)] data s
    (∀ i, i < data.length → readBytes (u.tile e.t).mem (a + i) 1 = [data.getD i 0]) ∧
      (∀ k, k < a ∨ a + data.length ≤ k → readBytes (u.tile e.t).mem k 1 = readBytes (s.tile e.t).mem k 1) ∧
      (∀ j, j ≠ e.t → u.tile j = s.tile j) ∧
      u.withTiles s.tiles = s ∧ (u.tile e.t).ctxs = (s.tile e.t).ctxs ∧ (u.tile e.t).oc = (s.tile e.t).oc := by
  rw [writeRuns_tile]
  have hself := State.tile_modTile_self (State.ordered_of_wf hwf).2 e.t (·.writeMem a data)
  have hmem : ((s.modTile e.t (·.writeMem a data)).tile e.t).mem = writeBytes (s.tile e.t).mem a data := congrArg Tile.mem hself
  refine ⟨fun i hi => ?_, fun k hk => ?_, fun j hj => State.tile_modTile_ne _ hj, rfl, (congrArg Tile.ctxs hself).trans rfl,
    (congrArg Tile.oc hself).trans rfl⟩
  · rw [readBytes_one, hmem, mapGet_writeBytes_in _ _ _ _ _ (State.memory_of_wf hwf _) hi]
  · rw [readBytes_one, readBytes_one, hmem, mapGet_writeBytes_out _ _ _ _ hk]

/-! COPY and FILL. -/

/-- An iteration whose body holds keeps what the body has done so far. -/
theorem iterate_hold {s s' : State} {t c op : Nat} {d : Bytes} {body : Run → It (State → State)} (h : s.iterates t c d) (ho : dOp d = op)
    (hb : body (s.runNow t c d) s = .error .hold s') : s.iterate t c op body = s' := by
  obtain ⟨hrun, hready⟩ := h
  subst ho
  unfold State.iterate State.runBody
  rw [hrun]
  simp only [hready, if_true, Bool.false_eq_true, if_false]
  rw [hb]

/-- An action that looks at the state goes on with it. -/
theorem get_bind {β : Type} (k : State → It β) (s : State) : ((get : It State) >>= k) s = k s s := rfl

/-- An action whose value is not used goes on with its state. -/
theorem discard_ok {α : Type} {m : It α} {s s' : State} {a : α} (h : m s = .ok a s') : (discard m : It PUnit) s = .ok ⟨⟩ s' := by
  show EStateM.map _ m s = _
  unfold EStateM.map
  rw [h]

/-- COPY between equal formats writes the bytes that it reads. -/
theorem copyBody_same {e : Run} {s s1 s2 : State} {b : Bytes} {w : State → State} (hf : (opA e.d).fmt = (opD e.d).fmt)
    (hr : readOpnd e (opA e.d) s = .ok b s1) (hw : writeOpnd e (opD e.d) b s1 = .ok w s2) : copyBody e s = .ok w s2 := by
  show (ite ((opA e.d).fmt = (opD e.d).fmt) _ _ : It (State → State)) s = _
  rw [if_pos hf]
  exact (bind_ok hr).trans hw

/-- COPY between different formats encodes each element once, and gathers the flags. -/
theorem copyBody_convert {e : Run} {s s1 s2 : State} {b : Bytes} {w : State → State} (hf : (opA e.d).fmt ≠ (opD e.d).fmt)
    (hr : readOpnd e (opA e.d) s = .ok b s1) :
    let rs := encoded e (encodeNum (opD e.d).elem) ((valuesOf (opA e.d) (codes (opA e.d).elem b)).map fun x => (x, false))
    nanTraps e.mode (flagsOf rs) = false → writeOpnd e (opD e.d) (packed e rs) s1 = .ok w s2 →
      copyBody e s = .ok (fun s => (w s).modTile e.t (·.cvtFlags (flagsOf rs))) s2 := by
  intro rs hn hw
  show (ite ((opA e.d).fmt = (opD e.d).fmt) _ _ : It (State → State)) s = _
  rw [if_neg hf]
  exact (bind_ok (readCodes_ok hr)).trans (emit_ok hn hw)

/-! OCLOAD and OCEVICT. -/

/-- A fill or write-back that begins changes its lines and its context, and goes on with the next command. -/
theorem beginLines_holds {e : Run} (he : e.spec = false) (ls : List Nat) (f : Tile → Tile) (s : State) :
    beginLines e ls f s =
      .error .hold ((s.modTile e.t f).modCtx e.t e.c fun x => { x with part := 1, seenAt := 0, fills := x.fills ++ ls }) := by
  unfold beginLines
  rw [if_neg (by simp [he])]
  rfl

/-- The first phase of OCLOAD: lines that are new to it, none of them BUSY or DIRTY, go BUSY. -/
theorem ocloadBody_begins {e : Run} {s s1 : State} {a : Bytes} {ls : List Nat} (he : e.spec = false) (hsrc : ocSource e (opA e.d) = true)
    (hl : namedLines e s = .ok ls s) (hr : readTileRuns e (e.rows (opA e.d)) s = .ok a s1) (hp : ((s.tile e.t).ctx e.c).part = 0) :
    let new := ls.filter fun i => !((s.tile e.t).ctx e.c).fills.contains i
    (∀ i ∈ new, ((s.tile e.t).line i).st ≠ .busy ∧ ((s.tile e.t).line i).st ≠ .dirty) →
      ocloadBody e s = .error .hold ((s1.modTile e.t (·.busyLines new)).modCtx e.t e.c fun x =>
        { x with part := 1, seenAt := 0, fills := x.fills ++ new }) := by
  intro new hnew
  have hfree : (new.all fun i => ((s.tile e.t).line i).st != .busy && ((s.tile e.t).line i).st != .dirty) = true :=
    List.all_eq_true.2 fun i hi => by simp [hnew i hi]
  unfold ocloadBody
  dsimp only
  rw [bind_ok (need_ok hsrc), bind_ok hl, get_bind, if_pos hp, bind_ok (need_ok hfree), bind_ok (discard_ok hr)]
  exact beginLines_holds he _ _ _

/-- The second phase of OCLOAD fills its lines. -/
theorem ocloadBody_fills {e : Run} {s s1 : State} {a : Bytes} {ls : List Nat} (hsrc : ocSource e (opA e.d) = true)
    (hl : namedLines e s = .ok ls s) (hr : readTileRuns e (e.rows (opA e.d)) s = .ok a s1) (hp : ((s.tile e.t).ctx e.c).part ≠ 0) :
    ocloadBody e s = .ok (fun s => ((s.modTile e.t fun y => forEach ls.zipIdx (fun x y =>
        y.fillLine x.1 (sourceAt e (opA e.d) (512 * x.2)) (slice a (512 * x.2) 512)) y).modCtx e.t e.c fun x =>
          { x with fills := x.fills.filter fun i => !ls.contains i }).tileCount e.t 0x09 ls.length) s1 := by
  unfold ocloadBody
  dsimp only
  rw [bind_ok (need_ok hsrc), bind_ok hl, get_bind, if_neg hp]
  exact (bind_ok hr).trans rfl

/-- OCEVICT.DROP empties its lines, none of them BUSY. -/
theorem ocevictBody_drops {e : Run} {s : State} {ls : List Nat} (hl : namedLines e s = .ok ls s) (hp : ((s.tile e.t).ctx e.c).part = 0)
    (hb : ∀ i ∈ ls, ((s.tile e.t).line i).st ≠ .busy) (hd : dSubop e.d = 1) :
    ocevictBody e s = .ok (fun s => s.modTile e.t fun y => forEach ls (fun i y => y.withLine i OcLine.empty) y) s := by
  have hfree : (ls.all fun i => ((s.tile e.t).line i).st != .busy) = true := List.all_eq_true.2 fun i hi => by simp [hb i hi]
  unfold ocevictBody
  rw [bind_ok hl, get_bind, if_pos hp, bind_ok (need_ok hfree), if_pos hd]
  rfl

/-- The first phase of a write-back: its DIRTY lines, with tags that can be written and bytes that read, go BUSY; the others become INVALID. -/
theorem ocevictBody_begins {e : Run} {s : State} {ls : List Nat} (he : e.spec = false) (hl : namedLines e s = .ok ls s)
    (hp : ((s.tile e.t).ctx e.c).part = 0) (hb : ∀ i ∈ ls, ((s.tile e.t).line i).st ≠ .busy) (hd : dSubop e.d ≠ 1) :
    let dirty := ls.filter fun i => ((s.tile e.t).line i).st == .dirty
    (∀ i ∈ dirty, ((s.tile e.t).line i).tag.isSome = true) →
      canWrite e 1 (dirty.map fun i => (((((s.tile e.t).line i).tag.getD 0 : Nat) : Int), 512)) s = .ok () s →
      (∀ b ∈ (s.tile e.t).ocBad, b / 512 ∉ dirty) →
      ocevictBody e s = .error .hold ((s.modTile e.t fun y => forEach ls (fun i y =>
        if (y.line i).st = .dirty then y.withLine i { y.line i with st := .busy } else y.withLine i OcLine.empty) y).modCtx e.t e.c fun x =>
          { x with part := 1, seenAt := 0 }) := by
  intro dirty htag hcan hbad
  have hfree : (ls.all fun i => ((s.tile e.t).line i).st != .busy) = true := List.all_eq_true.2 fun i hi => by simp [hb i hi]
  have hread : (s.tile e.t).ocBad.find? (fun b => dirty.contains (b / 512)) = none :=
    List.find?_eq_none.2 fun b hm => by simpa using hbad b hm
  unfold ocevictBody
  rw [bind_ok hl, get_bind, if_pos hp, bind_ok (need_ok hfree), if_neg hd]
  dsimp only
  rw [bind_ok (need_ok (List.all_eq_true.2 htag)), bind_ok hcan, hread]
  dsimp only
  rw [beginLines_holds he]
  simp only [List.append_nil]

/-- The second phase of a write-back writes back each of its lines. -/
theorem ocevictBody_writes {e : Run} {s : State} {ls : List Nat} (hl : namedLines e s = .ok ls s) (hp : ((s.tile e.t).ctx e.c).part ≠ 0) :
    ocevictBody e s = .ok (fun s => s.modTile e.t fun y => forEach ls (fun i y => y.writeBack i) y) s := by
  unfold ocevictBody
  rw [bind_ok hl, get_bind, if_neg hp]
  rfl

/-- Settles O23: by what the body of each opcode answers in each of its phases. -/
theorem moveOpcodes : Obligations.MoveOpcodes := by
  refine ⟨fun s e a n data hwf hn => hn ▸ writeRuns_tile_spec hwf e a data, fun s s1 s2 t c d a ls w hit => ?_⟩
  refine ⟨fun ho hf hr hw => ?_, fun ho hf hr hn hw => ?_, fun ho hw => ?_, fun ho hsrc hl hr => ⟨fun hp hnew => ?_, fun hp => ?_⟩,
    fun ho hl => ⟨fun hp hb => ⟨fun hd => ?_, fun hd htag hcan hbad => ?_⟩, fun hp => ?_⟩⟩
  · exact congrArg _ (iterate_ok hit ho (copyBody_same hf hr hw))
  · exact congrArg _ (iterate_ok hit ho (copyBody_convert hf hr hn hw))
  · exact congrArg _ (iterate_ok hit ho hw)
  · exact congrArg _ (iterate_hold hit ho (ocloadBody_begins rfl hsrc hl hr hp hnew))
  · exact congrArg _ (iterate_ok hit ho (ocloadBody_fills hsrc hl hr hp))
  · exact congrArg _ (iterate_ok hit ho (ocevictBody_drops hl hp hb hd))
  · exact congrArg _ (iterate_hold hit ho (ocevictBody_begins rfl hl hp hb hd htag hcan hbad))
  · exact congrArg _ (iterate_ok hit ho (ocevictBody_writes hl hp))

end Sys2Proof.Machine
end

section
/-! PROOFS. The packet mesh: what a stop does with its messages, and that routing arrives (R32, R33). -/

namespace Sys2Proof.Machine

/-! What a stop forwards (R33). -/

/-- MESH_FLIT_FORWARD answers a next state. -/
theorem exec_meshFlitForward (s : State) (k : Nat) (d : Dir) : exec (.meshFlitForward k d) s = .next (s.meshForward k d) := rfl

/-- An isolated stop forwards nothing. -/
theorem State.meshForward_isolated {s : State} {k : Nat} (d : Dir) (h : (s.stop k).isolated = true) : s.meshForward k d = s := by
  unfold State.meshForward
  exact if_pos h

/-- A link of which the far side takes no message carries none. -/
theorem State.meshForward_none {s : State} {k : Nat} {d : Dir} (hd : d ≠ .here) (h : s.meshPick k d = none) : s.meshForward k d = s := by
  unfold State.meshForward
  dsimp only
  split
  · rfl
  · rw [h]
    dsimp only
    unfold State.meshMiss
    split
    · exact if_neg hd
    · rfl

/-- A live stop that holds more than the depth of a virtual channel from one link takes no more of it there. -/
theorem State.meshTakes_full {s : State} {k : Nat} {d : Dir} {m : MeshFlit} (hd : d ≠ .here) (hi : (s.stop (stopNext k d)).isolated = false)
    (h : ((s.stop (stopNext k d)).queue.filter fun y => y.via == viaOf d && y.vc == m.vc).length > Config.meshDepth) :
    s.meshTakes k d m = false := by
  unfold State.meshTakes
  rw [if_neg hd]
  dsimp only
  rw [hi, Bool.false_or, decide_eq_false (Nat.not_le.2 h)]

/-- The oldest message of VC0 goes before all others, where the far side takes it. -/
theorem Stop.pick_first {x : Stop} {k : Nat} {d : Dir} {takes : MeshFlit → Bool} {y : MeshFlit}
    (h : x.queue.find? (fun y => stopRoute k y.dst == d && y.vc == 0) = some y) (ht : takes y = true) : x.pick k d takes = some y := by
  unfold Stop.pick
  dsimp only
  rw [List.singleton_append, List.findSome?_cons, h, Option.filter_some, if_pos ht]

/-- A live stop takes the message that is picked from its queue, and it is delivered, discarded or passed on. -/
theorem State.meshForward_some {s : State} {k : Nat} {d : Dir} {m : MeshFlit} (hi : (s.stop k).isolated = false) (h : s.meshPick k d = some m) :
    s.meshForward k d =
      if d = .here then ((s.withStop k ((s.stop k).take k d m)).meshArrive k m.f).1
      else if (s.stop (stopNext k d)).isolated then (s.withStop k ((s.stop k).take k d m)).discardAt k m.f
      else (s.withStop k ((s.stop k).take k d m)).meshPass k d m := by
  unfold State.meshForward
  dsimp only
  rw [if_neg (by simp [hi]), h]

/-- A message that does not enter the switch of a port die is delivered. -/
theorem State.meshArrive_deliver {s : State} {k : Nat} {f : Frame} (h : stopPortDie k = none ∨ f.dest = s.node) :
    (s.meshArrive k f).1 = s.emit (.meshDeliver k f) := by
  unfold State.meshArrive
  split
  · rename_i n hn
    rw [if_pos (h.resolve_left (by simp [hn]))]
  · rfl

/-- A frame for another node enters the switch of its port die. -/
theorem State.meshArrive_inject {s : State} {k n : Nat} {f : Frame} (hn : stopPortDie k = some n) (hf : f.dest ≠ s.node) :
    (s.meshArrive k f).1 = (s.inject n k f).1 := by
  unfold State.meshArrive
  rw [hn]
  dsimp only
  rw [if_neg hf]

/-! Rows and columns of stops (R32). -/

/-- A row and column of the blocks. -/
def IsBlock (p : Nat × Nat) : Prop := 1 ≤ p.1 ∧ p.1 ≤ 16 ∧ 1 ≤ p.2 ∧ p.2 ≤ 32

/-- A row and column at which a stop stands: of the blocks, or beside them. -/
def IsStop (p : Nat × Nat) : Prop := (1 ≤ p.1 ∧ p.1 ≤ 16 ∧ p.2 ≤ 33) ∨ (p.1 ≤ 17 ∧ 1 ≤ p.2 ∧ p.2 ≤ 32)

theorem stopXY_block {k : Nat} (h : k < 512) : stopXY k = (k / 128 * 4 + k % 32 / 8 + 1, k / 32 % 4 * 8 + k % 8 + 1) := if_pos h

theorem isBlock_stopXY {k : Nat} (h : k < 512) : IsBlock (stopXY k) := by
  rw [stopXY_block h, IsBlock]
  omega

theorem isStop_stopXY {k : Nat} (h : k < 608) : IsStop (stopXY k) := by
  unfold stopXY IsStop
  split_ifs <;> dsimp only <;> omega

theorem not_isBlock_stopXY {k : Nat} (h : 512 ≤ k) : ¬ IsBlock (stopXY k) := by
  unfold stopXY IsBlock
  split_ifs <;> dsimp only <;> omega

theorem stopAt_block {r c : Nat} (h : IsBlock (r, c)) :
    stopAt r c = (r - 1) / 4 * 128 + (c - 1) / 8 * 32 + (r - 1) % 4 * 8 + (c - 1) % 8 := by
  unfold IsBlock at h
  dsimp only at h
  unfold stopAt
  rw [if_neg (by omega), if_neg (by omega), if_neg (by omega), if_neg (by omega)]

/-- The stop of a block is one of the first 512. -/
theorem stopAt_block_lt {r c : Nat} (h : IsBlock (r, c)) : stopAt r c < 512 := by
  rw [stopAt_block h]
  unfold IsBlock at h
  omega

/-- The stop at the row and column of a block. -/
theorem stopXY_stopAt {r c : Nat} (h : IsBlock (r, c)) : stopXY (stopAt r c) = (r, c) := by
  rw [stopXY_block (stopAt_block_lt h), stopAt_block h]
  unfold IsBlock at h
  dsimp only at h
  obtain ⟨a, b, rfl, hb⟩ : ∃ a b, r = 4 * a + b + 1 ∧ b < 4 := ⟨(r - 1) / 4, (r - 1) % 4, by omega, by omega⟩
  obtain ⟨x, y, rfl, hy⟩ : ∃ x y, c = 8 * x + y + 1 ∧ y < 8 := ⟨(c - 1) / 8, (c - 1) % 8, by omega, by omega⟩
  rw [show (4 * a + b + 1 - 1) / 4 = a by omega, show (4 * a + b + 1 - 1) % 4 = b by omega, show (8 * x + y + 1 - 1) / 8 = x by omega,
    show (8 * x + y + 1 - 1) % 8 = y by omega, Prod.mk.injEq]
  omega

/-- The stop at the row and column of a stop. -/
theorem stopAt_stopXY {k : Nat} (h : k < 608) : stopAt (stopXY k).1 (stopXY k).2 = k := by
  unfold stopXY
  split
  · rename_i hk
    have hr : k / 128 * 4 + k % 32 / 8 < 16 := by omega
    have hc : k / 32 % 4 * 8 + k % 8 < 32 := by omega
    unfold stopAt
    dsimp only
    rw [if_neg (by omega), if_neg (by omega), if_neg (by omega), if_neg (by omega), Nat.add_sub_cancel, Nat.add_sub_cancel]
    omega
  split
  · unfold stopAt
    rw [if_pos rfl]
    omega
  split
  · unfold stopAt
    rw [if_neg (by omega), if_pos rfl]
    dsimp only
    omega
  split
  · unfold stopAt
    rw [if_neg (by omega), if_neg (by omega), if_pos rfl]
    dsimp only
    omega
  · unfold stopAt
    rw [if_neg (by omega), if_neg (by omega), if_neg (by omega), if_pos rfl]
    dsimp only
    omega

/-! Hops (R32). -/

/-- Rows and columns between two places. -/
def gridDistance (p q : Nat × Nat) : Nat := (p.1 - q.1) + (q.1 - p.1) + ((p.2 - q.2) + (q.2 - p.2))

theorem gridDistance_le {p q : Nat × Nat} (hp : IsBlock p) (hq : IsStop q) : gridDistance p q ≤ 47 := by
  unfold IsBlock at hp
  unfold IsStop at hq
  unfold gridDistance
  omega

/-- A port stop's one link leads to a block. -/
theorem stopNext_port {k dst : Nat} (hk : 512 ≤ k) (hlt : k < 608) (hne : k ≠ dst) : stopNext k (stopRoute k dst) < 512 := by
  have hs := isStop_stopXY hlt
  have hb := not_isBlock_stopXY hk
  have enters {d : Dir} {r c : Nat} (hn : stopNext k d = stopAt r c) (h : IsBlock (r, c)) : stopNext k d < 512 :=
    hn ▸ stopAt_block_lt h
  unfold IsStop at hs
  unfold IsBlock at hb enters
  unfold stopRoute
  dsimp only
  rw [if_neg hne]
  split_ifs
  case pos | pos | pos | pos => exact enters rfl (by omega)
  all_goals omega

/-- From a block, each hop of the route comes to a block or to the destination, one row or column nearer. -/
theorem stopNext_block {k dst : Nat} (hk : k < 512) (hd : dst < 608) (hne : k ≠ dst) :
    (stopNext k (stopRoute k dst) < 512 ∨ stopNext k (stopRoute k dst) = dst) ∧
      gridDistance (stopXY (stopNext k (stopRoute k dst))) (stopXY dst) + 1 = gridDistance (stopXY k) (stopXY dst) := by
  have hp := isBlock_stopXY hk
  have hq := isStop_stopXY hd
  have hpq : stopXY k ≠ stopXY dst := fun h => hne (by rw [← stopAt_stopXY (by omega : k < 608), h, stopAt_stopXY hd])
  have nears {d : Dir} {r c : Nat} (hn : stopNext k d = stopAt r c)
      (hs : IsBlock (r, c) ∨ (r, c) = stopXY dst)
      (hh : gridDistance (r, c) (stopXY dst) + 1 = gridDistance (stopXY k) (stopXY dst)) :
      (stopNext k d < 512 ∨ stopNext k d = dst) ∧
        gridDistance (stopXY (stopNext k d)) (stopXY dst) + 1 = gridDistance (stopXY k) (stopXY dst) := by
    rw [hn]
    rcases hs with hs | hs
    · rw [stopXY_stopAt hs]
      exact ⟨.inl (stopAt_block_lt hs), hh⟩
    · have hat : stopAt r c = dst := by rw [← stopAt_stopXY hd, ← hs]
      rw [hat, ← hs]
      exact ⟨.inr rfl, hs ▸ hh⟩
  unfold IsBlock at hp
  unfold IsStop at hq
  simp only [ne_eq, Prod.ext_iff] at hpq
  unfold stopRoute
  dsimp only
  rw [if_neg hne, if_neg (by omega), if_neg (by omega), if_neg (by omega), if_neg (by omega)]
  simp only [IsBlock, gridDistance, Prod.ext_iff] at nears
  split_ifs
  all_goals exact nears rfl (by omega) (by omega)

/-- From a block the route arrives after the rows and columns that lie between. -/
theorem meshWalk_block : ∀ {n k dst : Nat}, k < 512 ∨ k = dst → dst < 608 → gridDistance (stopXY k) (stopXY dst) = n → meshWalk n k dst = dst
  | 0, k, dst, hk, hd, h => by
    by_contra hne
    have := (stopNext_block (hk.resolve_right hne) hd hne).2
    omega
  | n + 1, k, dst, hk, hd, h => by
    have hne : k ≠ dst := by
      rintro rfl
      unfold gridDistance at h
      omega
    obtain ⟨hnext, hnear⟩ := stopNext_block (hk.resolve_right hne) hd hne
    show meshWalk n (stopNext k (stopRoute k dst)) dst = dst
    exact meshWalk_block hnext hd (by omega)

/-- Every stop is reached from every other within 48 hops. -/
theorem meshWalk_arrives {k dst : Nat} (hk : k < 608) (hd : dst < 608) : ∃ n, n ≤ 48 ∧ meshWalk n k dst = dst := by
  have block {j : Nat} (hj : j < 512) : ∃ n, n ≤ 47 ∧ meshWalk n j dst = dst :=
    ⟨_, gridDistance_le (isBlock_stopXY hj) (isStop_stopXY hd), meshWalk_block (.inl hj) hd rfl⟩
  by_cases hb : k < 512
  · obtain ⟨n, hn, hw⟩ := block hb
    exact ⟨n, by omega, hw⟩
  · by_cases hne : k = dst
    · exact ⟨0, by omega, hne⟩
    · obtain ⟨n, hn, hw⟩ := block (stopNext_port (by omega) hk hne)
      exact ⟨n + 1, by omega, hw⟩

/-- From a block to another: along the row to its column, then along the column. -/
theorem stopRoute_block {k dst : Nat} (hk : k < 512) (hd : dst < 512) (hne : k ≠ dst) :
    stopRoute k dst =
      if (stopXY k).2 < (stopXY dst).2 then .east else if (stopXY dst).2 < (stopXY k).2 then .west
      else if (stopXY k).1 < (stopXY dst).1 then .south else .north := by
  have hp := isBlock_stopXY hk
  have hq := isBlock_stopXY hd
  have hpq : ¬((stopXY k).1 = (stopXY dst).1 ∧ (stopXY k).2 = (stopXY dst).2) := fun h =>
    hne (by rw [← stopAt_stopXY (by omega : k < 608), h.1, h.2, stopAt_stopXY (by omega)])
  unfold IsBlock at hp hq
  have hcol : max 1 (min 32 (stopXY dst).2) = (stopXY dst).2 := by omega
  unfold stopRoute
  dsimp only
  rw [hcol, if_neg hne, if_neg (by omega), if_neg (by omega), if_neg (by omega), if_neg (by omega)]
  exact ite_congr rfl (fun _ => rfl) fun _ => ite_congr rfl (fun _ => rfl) fun _ => ite_congr rfl (fun _ => rfl) fun _ => if_pos (by omega)

/-- Between blocks of two columns the route goes along the row. -/
theorem stopRoute_row {k dst : Nat} (hk : k < 512) (hd : dst < 512) (h : (stopXY k).2 ≠ (stopXY dst).2) :
    stopRoute k dst = .east ∨ stopRoute k dst = .west := by
  rw [stopRoute_block hk hd fun he => h (he ▸ rfl)]
  rcases Nat.lt_or_gt_of_ne h with hlt | hgt
  · exact .inl (if_pos hlt)
  · rw [if_neg (by omega), if_pos hgt]
    exact .inr rfl

/-- Between blocks of one column the route goes along the column. -/
theorem stopRoute_column {k dst : Nat} (hk : k < 512) (hd : dst < 512) (h : (stopXY k).2 = (stopXY dst).2) (hne : k ≠ dst) :
    stopRoute k dst = .north ∨ stopRoute k dst = .south := by
  rw [stopRoute_block hk hd hne, if_neg (by omega), if_neg (by omega)]
  split
  · exact .inr rfl
  · exact .inl rfl

/-- Settles O11: by what a stop does with the message it picks, and by the rows and columns that each hop leaves to go. -/
theorem meshStops : Obligations.MeshStops := by
  refine ⟨fun s k d h => ?_, fun s k d hd h => ?_, fun s k d m hd hi h => State.meshTakes_full hd hi h, fun s k d m hi hm => ?_,
    fun k dst hk hd => meshWalk_arrives hk hd, fun k dst hk hd => ⟨stopRoute_row hk hd, stopRoute_column hk hd⟩⟩
  · rw [exec_meshFlitForward, State.meshForward_isolated d h]
  · rw [exec_meshFlitForward, State.meshForward_none hd h]
  · rw [exec_meshFlitForward, State.meshForward_some hi hm]
    refine ⟨fun y hy ht => ?_, fun hd hn => ?_, fun hd hn => ?_, fun hd h => ?_, fun n hd hn hf => ?_⟩
    · have hp : s.meshPick k d = some y := Stop.pick_first hy ht
      exact Option.some_inj.1 (hm.symm.trans hp)
    · rw [if_neg hd, if_neg (by simp [hn])]
      rfl
    · rw [if_neg hd, if_pos hn]
      rfl
    · rw [if_pos hd]
      exact congrArg _ (State.meshArrive_deliver h)
    · rw [if_pos hd]
      exact congrArg _ (State.meshArrive_inject hn hf)

end Sys2Proof.Machine
end

section
/-! PROOFS. The lattice: one slot of an owner's schedule (R26, R27, R31). -/

namespace Sys2Proof.Machine

/-! What operations on one tile leave alone. -/

/-- `u` comes from `s` by changes that leave the dies, and every tile but `t`, alone. -/
structure OthersKept (t : Nat) (s u : State) : Prop where
  dies : u.dies = s.dies
  tiles : ∀ k, k ≠ t → u.tile k = s.tile k

theorem OthersKept.refl (t : Nat) (s : State) : OthersKept t s s := ⟨rfl, fun _ _ => rfl⟩

theorem OthersKept.trans {t : Nat} {s u v : State} (h : OthersKept t s u) (h' : OthersKept t u v) : OthersKept t s v :=
  ⟨h'.dies.trans h.dies, fun k hk => (h'.tiles k hk).trans (h.tiles k hk)⟩

theorem State.modTile_others (s : State) (t : Nat) (g : Tile → Tile) : OthersKept t s (s.modTile t g) :=
  ⟨rfl, fun _ hk => State.tile_withTile_ne _ hk⟩

theorem State.msix_others (s : State) (t v : Nat) : OthersKept t s (s.msix v) := by
  unfold State.msix
  split_ifs <;> exact ⟨rfl, fun _ _ => rfl⟩

theorem State.raiseIbi_others (s : State) (t g : Nat) : OthersKept t s (s.raiseIbi g) := by
  unfold State.raiseIbi
  dsimp only
  split_ifs <;> exact ⟨rfl, fun _ _ => rfl⟩

theorem State.raiseIrq_others (s : State) (t src : Nat) : OthersKept t s (s.raiseIrq src) := by
  have hirq (u : State) : OthersKept t u (match irqGroup src with | some g => u.raiseIbi g | none => u) := by
    split
    · exact State.raiseIbi_others u t _
    · exact .refl t u
  have hmsix (u : State) (c : Prop) [Decidable c] (v : Nat) : OthersKept t u (if c then u.msix v else u) := by
    split
    · exact State.msix_others u t v
    · exact .refl t u
  have hbit : OthersKept t s (s.withFld (Reg.porIrqMap src) 12 12 1) := ⟨rfl, fun _ _ => rfl⟩
  exact (hbit.trans (hmsix _ _ _)).trans (hirq _)

theorem State.traceEvent_others (s : State) (t d source event owner : Nat) (data : Bytes) :
    OthersKept t s (s.traceEvent d source event owner data) := by
  unfold State.traceEvent
  dsimp only
  split_ifs <;> exact ⟨rfl, fun _ _ => rfl⟩

theorem State.queueFault_others (s : State) (t : Nat) (r : FaultRec) : OthersKept t s (s.queueFault r) := by
  have hirq {u : State} (h : OthersKept t s u) : OthersKept t s (if u.fld Reg.fltIrqCfg 1 0 ≤ r.severity then u.raiseIrq 0 else u) := by
    split
    · exact h.trans (State.raiseIrq_others u t 0)
    · exact h
  unfold State.queueFault
  dsimp only
  by_cases hroom : s.faults.queue.length < 1024
  · rw [if_pos hroom]
    exact hirq ⟨rfl, fun _ _ => rfl⟩
  · rw [if_neg hroom]
    by_cases hsev : r.severity = 2
    · rw [if_pos hsev]
      split
      · exact hirq ⟨rfl, fun _ _ => rfl⟩
      · exact ⟨rfl, fun _ _ => rfl⟩
    · rw [if_neg hsev]
      exact ⟨rfl, fun _ _ => rfl⟩

theorem State.raiseFault_others (s : State) (t : Nat) (u : Unit6) (cause severity : Nat) (permanent : Bool) (spare detail : Nat) :
    OthersKept t s (s.raiseFault u cause severity permanent spare detail) := by
  have hbump : OthersKept t s (s.bump (faultCounter u permanent)) := ⟨rfl, fun _ _ => rfl⟩
  have hqueue := hbump.trans (State.queueFault_others _ t
    ⟨s.reportAddr u, s.now, cause, severity, permanent, spare, s.ownerEpoch (s.unitOwner u), detail⟩)
  unfold State.raiseFault
  dsimp only
  split
  · exact hqueue
  · exact hqueue.trans (State.traceEvent_others ..)

theorem State.tileCount_others (s : State) (t ev n : Nat) : OthersKept t s (s.tileCount t ev n) := by
  have hfold (f : Nat → State → State) (hf : ∀ i u, OthersKept t u (f i u)) : ∀ (l : List Nat) (u : State), OthersKept t u (forEach l f u) := by
    intro l
    induction l with
    | nil => exact fun u => .refl t u
    | cons i l ih => exact fun u => (hf i u).trans (ih (f i u))
  unfold State.tileCount
  split
  · exact .refl t s
  · split
    · exact .refl t s
    · refine hfold _ (fun i u => ?_) _ s
      split
      · exact State.modTile_others u t _
      · exact .refl t u

/-! What a slot does to other tiles. -/

theorem State.streamRun_others (s : State) (t l reg : Nat) : OthersKept t s (s.streamRun t l reg) := by
  have hbump : OthersKept t s (s.bump (memReg (helperStack l) reg)) := ⟨rfl, fun _ _ => rfl⟩
  unfold State.streamRun
  dsimp only
  split
  · exact hbump
  · exact (hbump.trans (State.modTile_others _ t _)).trans (State.raiseFault_others ..)

theorem State.portGive_others (s : State) (t l p : Nat) (data : Bytes) : OthersKept t s (s.portGive t l p data) := by
  unfold State.portGive
  dsimp only
  split
  case h_5 =>
    split
    · exact State.streamRun_others ..
    · exact State.modTile_others ..
  case h_6 => exact .refl t s
  all_goals exact State.modTile_others ..

theorem State.useFreeN_others (s : State) (t n : Nat) : OthersKept t s (s.useFreeN n) := ⟨rfl, fun _ _ => rfl⟩

theorem State.portTake_others (s : State) (t l p : Nat) : OthersKept t s (s.portTake t l p).1 := by
  have hused := State.modTile_others s t (·.use p)
  have hread (c : Prop) [Decidable c] (b b' : Bytes) :
      OthersKept t s (if c then ((s.modTile t (·.use p)).useFreeN 64, b) else (s.modTile t (·.use p), b')).1 := by
    split
    · exact hused.trans (State.useFreeN_others ..)
    · exact hused
  unfold State.portTake
  dsimp only
  split
  · exact hread ..
  · exact hused
  · exact hread ..
  · split
    · exact .refl t s
    · exact State.modTile_others s t fun _ => _
  · split
    · exact State.streamRun_others ..
    · exact State.modTile_others s t fun y => { y with rdBuf := y.rdBuf.drop 64 }
  · exact .refl t s

theorem State.latIn_others (s : State) (t l side : Nat) (here : List Flit) : OthersKept t s (s.latIn l side here).1 := by
  unfold State.latIn
  split
  · exact .refl t s
  · split
    · exact .refl t s
    · exact State.useFreeN_others ..

theorem State.edgeFenced_others (s : State) (t l side : Nat) : OthersKept t s (s.edgeFenced t l side) := by
  have hcount := State.tileCount_others s t 0x19 1
  unfold State.edgeFenced
  dsimp only
  split
  · split
    · exact hcount
    · exact (hcount.trans (State.modTile_others ..)).trans (State.raiseFault_others ..)
  · exact .refl t s

theorem State.latOut_others (s : State) (t l code : Nat) (here : List Flit) (inj : Bytes) : OthersKept t s (s.latOut l code here inj).1 := by
  unfold State.latOut
  split
  · exact .refl t s
  · split
    · exact State.latIn_others ..
    · exact .refl t s

theorem State.latInject_others (s : State) (t l e : Nat) (code : Nat → Nat) : OthersKept t s (s.latInject t l e code).1 := by
  unfold State.latInject
  split
  · split
    · exact .refl t s
    · exact State.portTake_others ..
  · exact .refl t s

/-- A fold over states that carries a value, each step of which leaves other tiles alone. -/
theorem foldl_others {α β : Type} {t : Nat} {f : State × β → α → State × β} (hf : ∀ r a, OthersKept t r.1 (f r a).1) :
    ∀ (l : List α) (r : State × β), OthersKept t r.1 (l.foldl f r).1
  | [], r => .refl t r.1
  | a :: l, r => (hf r a).trans (foldl_others hf l (f r a))

theorem State.latSend_others (s : State) (t l : Nat) (here : List Flit) (inj : Bytes) (code : Nat → Nat) :
    OthersKept t s (s.latSend l here inj code).1 := by
  unfold State.latSend
  refine foldl_others (fun r side => ?_) _ (s, [])
  dsimp only
  split <;> exact State.latOut_others ..

theorem State.latConsume_others (s : State) (t l e : Nat) (here : List Flit) : OthersKept t s (s.latConsume t l e here) := by
  unfold State.latConsume
  dsimp only
  split
  · exact .refl t s
  · exact ((State.latIn_others ..).trans (State.portGive_others ..)).trans (State.edgeFenced_others ..)

/-! One slot of one tile. -/

/-- The flits that a tile can use in this slot. -/
def Tile.arrived (x : Tile) : List Flit := x.linkIn.filter (·.wait == 0)

/-- What a schedule entry drives towards a side: nothing, the input of a side, or an injected frame (R26). -/
def sideCode (e side : Nat) : Nat := bits e (3 * side - 1) (3 * side - 3)

/-- A slot of a tile by its parts: it injects, sends, consumes, and moves on in its period. -/
theorem State.latTile_parts {s : State} {t e : Nat} {inj : State × Bytes} {outs : State × List Sent}
    (he : s.schedEntry (s.logicalOf t) (s.tile t).slotNo = e)
    (hinj : (s.slotLinks t).latInject t (s.logicalOf t) e (sideCode e) = inj)
    (hsend : inj.1.latSend (s.logicalOf t) (s.tile t).arrived inj.2 (sideCode e) = outs) :
    s.latTile t = ((outs.1.latConsume t (s.logicalOf t) e (s.tile t).arrived).modTile t (s.slotEnd t), outs.2) := by
  subst he hinj hsend
  rfl

/-- A tile's slot leaves every other tile alone. -/
theorem State.latTile_others (s : State) (t : Nat) : OthersKept t s (s.latTile t).1 := by
  rw [State.latTile_parts rfl rfl rfl]
  exact ((((State.modTile_others ..).trans (State.latInject_others ..)).trans (State.latSend_others ..)).trans
    (State.latConsume_others ..)).trans (State.modTile_others ..)

/-- An entry that injects towards no side takes nothing from a port. -/
theorem State.latInject_none {s : State} {t l e : Nat} {code : Nat → Nat} (h : ∀ side ∈ [1, 2, 3, 4], code side ≠ 5) :
    s.latInject t l e code = (s, []) := by
  unfold State.latInject
  rw [if_neg]
  rw [List.any_eq_true]
  rintro ⟨side, hs, hc⟩
  exact h side hs (by simpa using hc)

/-- An entry that injects towards a side takes 64 bytes of its port; a tile in reset injects zero. -/
theorem State.latInject_some {s : State} {t l e b : Nat} {code : Nat → Nat} (hb : b ∈ [1, 2, 3, 4]) (h : code b = 5) :
    s.latInject t l e code = if s.tileInReset t then (s, zeros 64) else s.portTake t l (bits e 18 15) := by
  unfold State.latInject
  rw [if_pos (List.any_eq_true.2 ⟨b, hb, by simp [h]⟩)]

/-- An input that arrived is zero from a fenced edge. -/
theorem State.latIn_arrived {s : State} {l side : Nat} {here : List Flit} {f : Flit} (h : here.find? (·.side == side) = some f) :
    s.latIn l side here = (s, if s.edgeSilent l side then zeros 64 else f.data) := by
  unfold State.latIn
  rw [h]
  split <;> rfl

/-- The input of a fenced edge is zero. -/
theorem State.latIn_silent {s : State} {l side : Nat} (here : List Flit) (h : s.edgeSilent l side = true) : s.latIn l side here = (s, zeros 64) := by
  unfold State.latIn
  rw [if_pos h]

/-- The input of an idle link is free. -/
theorem State.latIn_idle {s : State} {l side : Nat} {here : List Flit} (he : s.edgeSilent l side = false)
    (h : here.find? (·.side == side) = none) : s.latIn l side here = (s.useFreeN 64, s.freeBytes 64) := by
  unfold State.latIn
  rw [if_neg (by simp [he]), h]

/-- Nothing is driven where the entry names nothing. -/
theorem State.latOut_zero (s : State) (l : Nat) (here : List Flit) (inj : Bytes) : s.latOut l 0 here inj = (s, none) := rfl

/-- An injected frame is driven. -/
theorem State.latOut_inject (s : State) (l : Nat) (here : List Flit) (inj : Bytes) : s.latOut l 5 here inj = (s, some inj) := rfl

/-- An input is driven on. -/
theorem State.latOut_forward {s : State} {l a : Nat} {here : List Flit} {inj : Bytes} (h1 : 1 ≤ a) (h4 : a ≤ 4) :
    s.latOut l a here inj = ((s.latIn l a here).1, some (s.latIn l a here).2) := by
  unfold State.latOut
  rw [if_neg (by omega), if_pos ⟨h1, h4⟩]

/-- A tile that drives nothing sends nothing. -/
theorem State.latSend_none {s : State} {l : Nat} {here : List Flit} {inj : Bytes} {code : Nat → Nat}
    (h : ∀ side ∈ [1, 2, 3, 4], code side = 0) : s.latSend l here inj code = (s, []) := by
  simp [State.latSend, State.latOut_zero, h]

/-- A tile that drives one side sends one flit to the neighbour there. -/
theorem State.latSend_one {s : State} {l b m : Nat} {here : List Flit} {inj data : Bytes} {code : Nat → Nat} (hb : b ∈ [1, 2, 3, 4])
    (h : ∀ side ∈ [1, 2, 3, 4], side ≠ b → code side = 0) (ho : s.latOut l (code b) here inj = (s, some data)) (hm : latNext l b = some m) :
    s.latSend l here inj code = (s, [(s.phys m, ⟨facing b, hopWait l m, data⟩)]) := by
  simp only [List.mem_cons, List.not_mem_nil, or_false] at hb
  rcases hb with rfl | rfl | rfl | rfl <;> simp [State.latSend, State.latOut_zero, h, ho, hm]

/-- An entry that consumes nothing changes nothing. -/
theorem State.latConsume_none {s : State} {t l e : Nat} {here : List Flit} (h : bits e 14 12 = 0) : s.latConsume t l e here = s := by
  unfold State.latConsume
  dsimp only
  rw [if_pos (.inl h)]

/-- A tile out of reset gives the port of its entry what comes in on a side. -/
theorem State.latConsume_some {s : State} {t l e a : Nat} {here : List Flit} (h : bits e 14 12 = a) (h1 : 1 ≤ a) (h4 : a ≤ 4)
    (hr : s.tileInReset t = false) :
    s.latConsume t l e here = ((s.latIn l a here).1.portGive t l (bits e 22 19) (s.latIn l a here).2).edgeFenced t l a := by
  subst h
  unfold State.latConsume
  dsimp only
  rw [if_neg (by simp [hr]; omega)]

/-- A read of the key written gives what was written, if that is listed: in any table. -/
theorem mapGet_mapPut_listed {α : Type} [DecidableEq α] {d v : α} (k : Nat) (hv : v ≠ d) : ∀ (m : SMap α), mapGet d k (mapPut d k v m) = v
  | [] => by simp [mapPut, mapGet, hv]
  | (j, x) :: m => by
    unfold mapPut
    rw [if_neg hv, if_neg hv]
    split_ifs with hlt heq
    · simp [mapGet]
    · simp [mapGet]
    · rw [mapGet, if_neg (Ne.symm heq)]
      exact mapGet_mapPut_listed k hv m

/-- A tile in service after its links have moved on. -/
theorem State.tile_slotLinks {s : State} {t : Nat} (h : s.active t = true) :
    (s.slotLinks t).tile t = { s.tile t with linkIn := ((s.tile t).linkIn.filter (·.wait != 0)).map fun f => { f with wait := f.wait - 1 } } := by
  refine mapGet_mapPut_listed t (fun hd => ?_) s.tiles
  have hid : (s.tile t).idState = 0 := congrArg Tile.idState hd
  simp [State.active, hid] at h

/-- A tile in service is in reset as before its links have moved on. -/
theorem State.tileInReset_slotLinks {s : State} {t : Nat} (h : s.active t = true) : (s.slotLinks t).tileInReset t = s.tileInReset t := by
  have hl : (s.slotLinks t).logicalOf t = s.logicalOf t := by
    unfold State.logicalOf
    rw [State.tile_slotLinks h]
    rfl
  have hc : (s.slotLinks t).covers t = s.covers t := by
    funext scope
    cases scope
    case partition o =>
      show ((s.slotLinks t).tileOwner ((s.slotLinks t).logicalOf t) == o) = _
      rw [hl]
      rfl
    all_goals rfl
  unfold State.tileInReset
  rw [hc]
  rfl

/-! Entries of a schedule (R26). -/

/-- An entry that forwards from side `a` to side `b`. -/
theorem forward_entry {a b : Nat} (ha : a ≤ 4) (hb : b ∈ [1, 2, 3, 4]) :
    (∀ side ∈ [1, 2, 3, 4], sideCode (a <<< (3 * b - 3)) side = if side = b then a else 0) ∧ bits (a <<< (3 * b - 3)) 14 12 = 0 := by
  have key : ∀ a < 5, ∀ b ∈ [1, 2, 3, 4],
      (∀ side ∈ [1, 2, 3, 4], sideCode (a <<< (3 * b - 3)) side = if side = b then a else 0) ∧ bits (a <<< (3 * b - 3)) 14 12 = 0 := by decide
  exact key a (by omega) b hb

/-- An entry that consumes from side `a` into port `p`. -/
theorem consume_entry {a p : Nat} (ha : a ≤ 4) (hp : p < 16) :
    (∀ side ∈ [1, 2, 3, 4], sideCode (a <<< 12 + p <<< 19) side = 0) ∧ bits (a <<< 12 + p <<< 19) 14 12 = a ∧
      bits (a <<< 12 + p <<< 19) 22 19 = p := by
  have key : ∀ a < 5, ∀ p < 16, (∀ side ∈ [1, 2, 3, 4], sideCode (a <<< 12 + p <<< 19) side = 0) ∧ bits (a <<< 12 + p <<< 19) 14 12 = a ∧
      bits (a <<< 12 + p <<< 19) 22 19 = p := by decide
  exact key a (by omega) p hp

/-- An entry that injects from port `p` towards side `b`. -/
theorem inject_entry {b p : Nat} (hb : b ∈ [1, 2, 3, 4]) (hp : p < 16) :
    (∀ side ∈ [1, 2, 3, 4], sideCode (5 <<< (3 * b - 3) + p <<< 15) side = if side = b then 5 else 0) ∧
      bits (5 <<< (3 * b - 3) + p <<< 15) 14 12 = 0 ∧ bits (5 <<< (3 * b - 3) + p <<< 15) 18 15 = p := by
  have key : ∀ b ∈ [1, 2, 3, 4], ∀ p < 16,
      (∀ side ∈ [1, 2, 3, 4], sideCode (5 <<< (3 * b - 3) + p <<< 15) side = if side = b then 5 else 0) ∧
        bits (5 <<< (3 * b - 3) + p <<< 15) 14 12 = 0 ∧ bits (5 <<< (3 * b - 3) + p <<< 15) 18 15 = p := by decide
  exact key b hb p hp

theorem mem_sides {b : Nat} (h1 : 1 ≤ b) (h4 : b ≤ 4) : b ∈ [1, 2, 3, 4] := by
  simp only [List.mem_cons, List.not_mem_nil, or_false]
  omega

/-- A tile's slot whose entry forwards a flit that arrived on side `a` to side `b`. -/
theorem State.latTile_forward {s : State} {t e a b m : Nat} {f : Flit} (h1 : 1 ≤ a) (h4 : a ≤ 4) (hb : b ∈ [1, 2, 3, 4])
    (he : s.schedEntry (s.logicalOf t) (s.tile t).slotNo = e) (hcode : ∀ side ∈ [1, 2, 3, 4], sideCode e side = if side = b then a else 0)
    (hcon : bits e 14 12 = 0) (hm : latNext (s.logicalOf t) b = some m) (hf : (s.tile t).arrived.find? (·.side == a) = some f) :
    s.latTile t = ((s.slotLinks t).modTile t (s.slotEnd t),
      [(s.phys m, ⟨facing b, hopWait (s.logicalOf t) m, if s.edgeSilent (s.logicalOf t) a then zeros 64 else f.data⟩)]) := by
  have hinj : (s.slotLinks t).latInject t (s.logicalOf t) e (sideCode e) = (s.slotLinks t, []) :=
    State.latInject_none fun side hs => by rw [hcode side hs]; split <;> omega
  have hout : (s.slotLinks t).latOut (s.logicalOf t) (sideCode e b) (s.tile t).arrived [] =
      (s.slotLinks t, some (if s.edgeSilent (s.logicalOf t) a then zeros 64 else f.data)) := by
    rw [hcode b hb, if_pos rfl, State.latOut_forward h1 h4, State.latIn_arrived hf]
    rfl
  rw [State.latTile_parts he hinj (State.latSend_one hb (fun side hs hne => by rw [hcode side hs, if_neg hne]) hout hm),
    State.latConsume_none hcon]
  rfl

/-- A tile's slot whose entry consumes from side `a` into port `p`. -/
theorem State.latTile_consume {s : State} {t e a p : Nat} (h1 : 1 ≤ a) (h4 : a ≤ 4) (ht : s.active t = true)
    (hr : s.tileInReset t = false) (he : s.schedEntry (s.logicalOf t) (s.tile t).slotNo = e)
    (hcode : ∀ side ∈ [1, 2, 3, 4], sideCode e side = 0) (hcon : bits e 14 12 = a) (hport : bits e 22 19 = p) :
    let i := (s.slotLinks t).latIn (s.logicalOf t) a (s.tile t).arrived
    s.latTile t = (((i.1.portGive t (s.logicalOf t) p i.2).edgeFenced t (s.logicalOf t) a).modTile t (s.slotEnd t), []) := by
  intro i
  have hinj : (s.slotLinks t).latInject t (s.logicalOf t) e (sideCode e) = (s.slotLinks t, []) :=
    State.latInject_none fun side hs => by rw [hcode side hs]; omega
  rw [State.latTile_parts he hinj (State.latSend_none hcode),
    State.latConsume_some hcon h1 h4 ((State.tileInReset_slotLinks ht).trans hr), hport]

/-- An edge towards a die that drives no link is silent. -/
theorem State.edgeSilent_of_die {s : State} {l a m : Nat} (hm : latNext l a = some m) (hd : m / 2048 ≠ l / 2048)
    (hs : s.dieSilent (m / 2048) = true) : s.edgeSilent l a = true := by
  unfold State.edgeSilent
  rw [hm]
  simp [hd, hs]

/-- A consume from an edge that is not fenced ends with the port. -/
theorem State.edgeFenced_live {s u : State} {t l a : Nat} (hd : u.dies = s.dies) (h : s.edgeSilent l a = false) : u.edgeFenced t l a = u := by
  have hu : u.edgeSilent l a = false := by
    rw [← h]
    unfold State.edgeSilent State.dieSilent State.dieFenced State.die
    rw [hd]
  unfold State.edgeFenced
  rw [if_neg (by simp [hu])]

/-- A tile's slot whose entry consumes from a side that is no fenced edge. -/
theorem State.latTile_consume_live {s : State} {t e a p : Nat} (h1 : 1 ≤ a) (h4 : a ≤ 4) (ht : s.active t = true)
    (hr : s.tileInReset t = false) (he : s.schedEntry (s.logicalOf t) (s.tile t).slotNo = e)
    (hcode : ∀ side ∈ [1, 2, 3, 4], sideCode e side = 0) (hcon : bits e 14 12 = a) (hport : bits e 22 19 = p)
    (hs : s.edgeSilent (s.logicalOf t) a = false) :
    let i := (s.slotLinks t).latIn (s.logicalOf t) a (s.tile t).arrived
    s.latTile t = ((i.1.portGive t (s.logicalOf t) p i.2).modTile t (s.slotEnd t), []) := by
  intro i
  have hgive : OthersKept t s (i.1.portGive t (s.logicalOf t) p i.2) :=
    ((State.modTile_others s t _).trans (State.latIn_others ..)).trans (State.portGive_others ..)
  rw [State.latTile_consume h1 h4 ht hr he hcode hcon hport, State.edgeFenced_live hgive.dies hs]

/-- A tile's slot whose entry injects from port `p` towards side `b`. -/
theorem State.latTile_inject {s : State} {t e b p m : Nat} (hb : b ∈ [1, 2, 3, 4]) (ht : s.active t = true)
    (he : s.schedEntry (s.logicalOf t) (s.tile t).slotNo = e) (hcode : ∀ side ∈ [1, 2, 3, 4], sideCode e side = if side = b then 5 else 0)
    (hcon : bits e 14 12 = 0) (hport : bits e 18 15 = p) (hm : latNext (s.logicalOf t) b = some m) :
    let r := if s.tileInReset t then (s.slotLinks t, zeros 64) else (s.slotLinks t).portTake t (s.logicalOf t) p
    s.latTile t = (r.1.modTile t (s.slotEnd t), [(r.1.phys m, ⟨facing b, hopWait (s.logicalOf t) m, r.2⟩)]) := by
  intro r
  have hb5 : sideCode e b = 5 := by rw [hcode b hb, if_pos rfl]
  have hinj : (s.slotLinks t).latInject t (s.logicalOf t) e (sideCode e) = r := by
    rw [State.latInject_some hb hb5, State.tileInReset_slotLinks ht, hport]
  have hout : r.1.latOut (s.logicalOf t) (sideCode e b) (s.tile t).arrived r.2 = (r.1, some r.2) := by
    rw [hb5, State.latOut_inject]
  rw [State.latTile_parts he hinj (State.latSend_one hb (fun side hs hne => by rw [hcode side hs, if_neg hne]) hout hm),
    State.latConsume_none hcon]

/-! One slot of an owner's schedule. -/

/-- A flit is put on the link of the tile it was sent to. -/
def State.addFlit (s : State) (x : Sent) : State := s.modTile x.1 fun y => { y with linkIn := y.linkIn ++ [x.2] }

/-- The slots of a list of tiles, one after the other, with the flits they send. -/
def State.latTilesRun (r : State × List Sent) (l : List Nat) : State × List Sent :=
  l.foldl (fun (r : State × List Sent) t => ((r.1.latTile t).1, r.2 ++ (r.1.latTile t).2)) r

/-- A lattice slot: the slots of the owner's tiles, then the flits they sent. -/
theorem exec_latticeSlot {s : State} {owner : Nat} (h : s.heldSchedule owner = false) :
    exec (.latticeSlot owner) s =
      .next ((State.latTilesRun (s, []) (s.latTiles owner)).2.foldl State.addFlit (State.latTilesRun (s, []) (s.latTiles owner)).1) := by
  show execLatticeSlot owner s = _
  unfold execLatticeSlot
  exact congrArg _ (if_neg fun hh => Bool.false_ne_true (h.symm.trans hh))

/-- A schedule that a commit holds does not run. -/
theorem exec_latticeSlot_held {s : State} {owner : Nat} (h : s.heldSchedule owner = true) : exec (.latticeSlot owner) s = .next s := by
  show execLatticeSlot owner s = _
  unfold execLatticeSlot
  exact congrArg _ (if_pos h)

/-- A lattice slot of a schedule of one tile. -/
theorem exec_latticeSlot_one {s u : State} {owner t : Nat} {fs : List Sent} (h : s.heldSchedule owner = false) (ht : s.latTiles owner = [t])
    (hx : s.latTile t = (u, fs)) : exec (.latticeSlot owner) s = .next (fs.foldl State.addFlit u) := by
  rw [exec_latticeSlot h, ht]
  show Host.Outcome.next (([] ++ (s.latTile t).2).foldl State.addFlit (s.latTile t).1) = _
  rw [hx, List.nil_append]

/-- A tile of an owner's schedule is in service. -/
theorem State.active_of_latTiles {s : State} {owner t : Nat} (h : t ∈ s.latTiles owner) : s.active t = true := by
  have hf := (List.mem_filter.1 h).2
  simp only [Bool.and_eq_true] at hf
  exact hf.1.1.1

theorem State.modTile_ordered {s : State} (hs : keysFrom 0 s.tiles = true) (k : Nat) (g : Tile → Tile) : keysFrom 0 (s.modTile k g).tiles = true :=
  keysFrom_mapPut _ _ _ (Nat.zero_le _) hs

theorem State.slotLinks_ordered {s : State} (hs : keysFrom 0 s.tiles = true) (t : Nat) : keysFrom 0 (s.slotLinks t).tiles = true :=
  State.modTile_ordered hs t _

/-- Flits that are delivered are added to the links of a tile. -/
theorem State.tile_addFlits (k : Nat) : ∀ (l : List Sent) {s : State}, keysFrom 0 s.tiles = true →
    ∃ fs, (l.foldl State.addFlit s).tile k = { s.tile k with linkIn := (s.tile k).linkIn ++ fs }
  | [], s, _ => ⟨[], by simp⟩
  | x :: l, s, hs => by
    obtain ⟨fs, h⟩ := State.tile_addFlits k l (State.modTile_ordered hs x.1 fun y => { y with linkIn := y.linkIn ++ [x.2] })
    rw [List.foldl_cons, State.addFlit, h]
    by_cases hk : k = x.1
    · subst hk
      rw [State.tile_modTile_self hs]
      exact ⟨[x.2] ++ fs, by simp⟩
    · rw [State.tile_modTile_ne _ hk]
      exact ⟨fs, rfl⟩

/-- The slots of tiles leave every other tile alone, and the table of tiles in order. -/
theorem State.latTilesRun_keeps {o : State} {k : Nat} : ∀ (l : List Nat) {r : State × List Sent}, k ∉ l → Since o r.1 →
    (State.latTilesRun r l).1.tile k = r.1.tile k ∧ Since o (State.latTilesRun r l).1
  | [], _, _, hr => ⟨rfl, hr⟩
  | t :: l, r, hk, hr => by
    rw [List.mem_cons, not_or] at hk
    obtain ⟨hne, hl⟩ := hk
    obtain ⟨htile, hsince⟩ := State.latTilesRun_keeps l (r := ((r.1.latTile t).1, r.2 ++ (r.1.latTile t).2)) hl (State.latTile_since hr)
    exact ⟨htile.trans ((State.latTile_others r.1 t).tiles k hne), hsince⟩

/-- Settles O10: by what the slot of one tile does for each entry, and by what it leaves alone. -/
theorem latticeSlots : Obligations.LatticeSlots := by
  refine ⟨fun s owner t a b m f hwf hh ht ha1 ha4 hb1 hb4 he hm hne hf => ?_, fun s owner t a p hh ht ha1 ha4 hp hr he => ?_,
    fun s owner t b p m hh ht hb1 hb4 hp he hm => ?_, fun s u owner k hwf hu hk => ?_⟩
  · have hb := mem_sides hb1 hb4
    obtain ⟨hcode, hcon⟩ := forward_entry ha4 hb
    rw [exec_latticeSlot_one hh ht (State.latTile_forward ha1 ha4 hb he hcode hcon hm hf)]
    have hact : s.active t = true := State.active_of_latTiles (ht ▸ List.mem_singleton_self t)
    have hlinks := State.slotLinks_ordered (State.ordered_of_wf hwf).2 t
    have hself : ((s.slotLinks t).modTile t (s.slotEnd t)).tile t = s.slotPassed t := by
      rw [State.tile_modTile_self hlinks, State.tile_slotLinks hact]
      rfl
    have hrest {k : Nat} (hk : k ≠ t) : ((s.slotLinks t).modTile t (s.slotEnd t)).tile k = s.tile k :=
      (State.tile_modTile_ne _ hk).trans (State.tile_modTile_ne _ hk)
    rw [List.foldl_cons, List.foldl_nil, State.addFlit]
    refine ⟨_, rfl, ?_, ?_, fun k hkt hkm => ?_, rfl⟩
    · rw [State.tile_modTile_self (State.modTile_ordered hlinks t _), hrest hne]
      rfl
    · rw [State.tile_modTile_ne _ hne.symm, hself]
    · rw [State.tile_modTile_ne _ hkm, hrest hkt]
  · have hact : s.active t = true := State.active_of_latTiles (ht ▸ List.mem_singleton_self t)
    obtain ⟨hcode, hcon, hport⟩ := consume_entry ha4 hp
    refine ⟨fun f hs hf => ?_, fun hs hf => ?_, fun m hm hd hs => ?_⟩
    · have hin : (s.slotLinks t).latIn (s.logicalOf t) a (s.tile t).arrived = (s.slotLinks t, f.data) :=
        (State.latIn_arrived hf).trans (congrArg _ (if_neg fun h => Bool.false_ne_true (hs.symm.trans h)))
      rw [exec_latticeSlot_one hh ht (State.latTile_consume_live ha1 ha4 hact hr he hcode hcon hport hs), hin]
      rfl
    · have hin : (s.slotLinks t).latIn (s.logicalOf t) a (s.tile t).arrived = ((s.slotLinks t).useFreeN 64, (s.slotLinks t).freeBytes 64) :=
        State.latIn_idle hs hf
      rw [exec_latticeSlot_one hh ht (State.latTile_consume_live ha1 ha4 hact hr he hcode hcon hport hs), hin]
      rfl
    · have hin : (s.slotLinks t).latIn (s.logicalOf t) a (s.tile t).arrived = (s.slotLinks t, zeros 64) :=
        State.latIn_silent _ (State.edgeSilent_of_die hm hd hs)
      rw [exec_latticeSlot_one hh ht (State.latTile_consume ha1 ha4 hact hr he hcode hcon hport), hin]
      rfl
  · have hact : s.active t = true := State.active_of_latTiles (ht ▸ List.mem_singleton_self t)
    have hb := mem_sides hb1 hb4
    obtain ⟨hcode, hcon, hport⟩ := inject_entry hb hp
    rw [exec_latticeSlot_one hh ht (State.latTile_inject hb hact he hcode hcon hport hm)]
    rfl
  · by_cases hh : s.heldSchedule owner = true
    · rw [exec_latticeSlot_held hh] at hu
      cases hu
      exact ⟨[], by simp⟩
    · rw [exec_latticeSlot (Bool.not_eq_true _ ▸ hh)] at hu
      cases hu
      obtain ⟨htile, hsince⟩ := State.latTilesRun_keeps (s.latTiles owner) hk (r := (s, [])) (Since.refl hwf)
      obtain ⟨fs, h⟩ := State.tile_addFlits k (State.latTilesRun (s, []) (s.latTiles owner)).2 hsince.tilesOrd
      exact ⟨fs, by rw [h, htile]⟩

end Sys2Proof.Machine
end

section
/-! PROOFS. What the operations of a latch leave alone: the dies' records, the commit, and the registers of a commit's course (R53). -/

namespace Sys2Proof.Machine

/-! Registers of a commit's course. -/

/-- STR_COMMIT_STATUS and STR_ACTIVE_SLOT, which only the commit itself writes. -/
def ofCommit (a : Nat) : Bool := a == Reg.strCommitStatus || a == Reg.strActiveSlot

/-- Every register above STR_ACTIVE_SLOT is another one. -/
theorem ofCommit_of_lt {a : Nat} (h : Reg.strActiveSlot < a) : ofCommit a = false := by
  have hs : Reg.strActiveSlot = 0x50040 := rfl
  have hc : Reg.strCommitStatus = 0x50028 := rfl
  simp only [ofCommit, Bool.or_eq_false_iff, beq_eq_false_iff_ne]
  omega

/-- The ranges of the dies lie above the registers of the package. -/
theorem slot_lt_dieBase (d : Nat) : Reg.strActiveSlot < dieBase d := by
  have hs : Reg.strActiveSlot = 0x50040 := rfl
  unfold dieBase
  split <;> omega

@[simp] theorem ofCommit_dieReg (d off : Nat) : ofCommit (dieReg d off) = false :=
  ofCommit_of_lt ((slot_lt_dieBase d).trans_le (Nat.le_add_right _ _))

@[simp] theorem ofCommit_pdReg (n off : Nat) : ofCommit (pdReg n off) = false := ofCommit_dieReg (16 + n) off

@[simp] theorem ofCommit_portReg (e : Nat) (r : Nat → Nat) : ofCommit (portReg e r) = false := ofCommit_pdReg _ _

@[simp] theorem ofCommit_memReg (k off : Nat) : ofCommit (memReg k off) = false := ofCommit_dieReg _ _

@[simp] theorem ofCommit_clkBlockA (b : Nat) : ofCommit (clkBlockA b) = false := ofCommit_dieReg _ _

@[simp] theorem ofCommit_chkCtrlA (u : Nat) : ofCommit (chkCtrlA u) = false := by
  unfold chkCtrlA chkReg
  split
  · exact ofCommit_pdReg _ _
  · exact ofCommit_memReg _ _

@[simp] theorem ofCommit_faultCounter (u : Unit6) (permanent : Bool) : ofCommit (faultCounter u permanent) = false := by
  unfold faultCounter
  split
  · cases permanent <;> rfl
  · exact ofCommit_dieReg _ _

/-- The registers of group entries lie above. -/
theorem ofCommit_group (base e : Nat) (h : 0x70000 ≤ base) : ofCommit (base + 0x40 * e) = false :=
  ofCommit_of_lt (by have hs : Reg.strActiveSlot = 0x50040 := rfl; omega)

@[simp] theorem ofCommit_colGrpCfg (e : Nat) : ofCommit (Reg.colGrpCfg e) = false := ofCommit_group _ e (by decide)
@[simp] theorem ofCommit_colGrpState (e : Nat) : ofCommit (Reg.colGrpState e) = false := ofCommit_group _ e (by decide)
@[simp] theorem ofCommit_colGrpAbort (e : Nat) : ofCommit (Reg.colGrpAbort e) = false := ofCommit_group _ e (by decide)
@[simp] theorem ofCommit_colGrpAbortCnt (e : Nat) : ofCommit (Reg.colGrpAbortCnt e) = false := ofCommit_group _ e (by decide)

/-- The interrupt sources 0 to 4 (Table 17-3) map through registers of their own. -/
theorem ofCommit_porIrqMap {src : Nat} (h : src < 5) : ofCommit (Reg.porIrqMap src) = false := by
  revert src
  decide

@[simp] theorem ofCommit_porIbiPending : ofCommit Reg.porIbiPending = false := rfl
@[simp] theorem ofCommit_detBarrierStatus : ofCommit Reg.detBarrierStatus = false := rfl
@[simp] theorem ofCommit_pwrSeqStatus : ofCommit Reg.pwrSeqStatus = false := rfl
@[simp] theorem ofCommit_pwrEvent : ofCommit Reg.pwrEvent = false := rfl
@[simp] theorem ofCommit_peeFrozen : ofCommit Reg.peeFrozen = false := rfl
@[simp] theorem ofCommit_strPkgEpoch : ofCommit Reg.strPkgEpoch = false := rfl
@[simp] theorem ofCommit_fltRecLostCnt : ofCommit Reg.fltRecLostCnt = false := rfl

@[simp] theorem ofCommit_strPartEpoch (o : Nat) : ofCommit (Reg.strPartEpoch o) = false :=
  ofCommit_of_lt (by show 0x50040 < 0x50100 + 8 * o; omega)

/-- A multicast that is dropped counts in a register of its port die. -/
theorem routeMulticast_counter {s : State} {n : Nat} {f : Frame} {a : Nat} {r : Route} (hr : s.routeMulticast n f = r)
    (h : r = .drop a ∨ r = .last a) : ofCommit a = false := by
  have hdrop {off : Nat} (hd : Route.drop (pdReg n off) = r) : ofCommit a = false := by
    subst hd
    rcases h with h | h <;> cases h
    exact ofCommit_pdReg ..
  have hbundle (b : Option Nat) : (match b with
      | none => if s.node = f.src then Route.drop (pdReg n Reg.rteNoRouteCnt) else .last (pdReg n Reg.rteNoRouteCnt)
      | some e => if s.node = f.src then .out e false else .both e) = r → ofCommit a = false := by
    cases b <;> dsimp only <;> split <;> intro hb <;> subst hb <;> rcases h with h | h <;> cases h <;> exact ofCommit_pdReg ..
  unfold State.routeMulticast at hr
  split at hr
  · split at hr
    · exact hdrop hr
    · dsimp only at hr
      by_cases hn : s.node = f.dest
      · rw [if_pos hn] at hr
        subst hr
        rcases h with h | h <;> cases h
      · rw [if_neg hn] at hr
        exact hbundle _ hr
  · exact hdrop hr

/-- A frame that is dropped counts in a register of its port die. -/
theorem route_counter {s : State} {n ingress owner c : Nat} {f : Frame} {a : Nat}
    (h : s.route n ingress owner c f = .drop a ∨ s.route n ingress owner c f = .last a) : ofCommit a = false := by
  generalize hr : s.route n ingress owner c f = r at h
  unfold State.route at hr
  split at hr
  · exact routeMulticast_counter hr h
  · (repeat' split at hr) <;> subst hr <;> rcases h with h | h <;> cases h <;> exact ofCommit_pdReg ..

theorem slot_lt_pdReg (n off : Nat) : Reg.strActiveSlot < pdReg n off := (slot_lt_dieBase _).trans_le (Nat.le_add_right _ _)

/-- The rows of an image's tables are registers of a port die. -/
theorem slot_lt_imageRows {n : Nat} {sec : Bytes} {p : Nat × Word} (h : p ∈ imageRows n sec) : Reg.strActiveSlot < p.1 := by
  simp only [imageRows, List.mem_append, List.mem_map] at h
  rcases h with (⟨i, -, rfl⟩ | ⟨i, -, rfl⟩) | ⟨i, -, rfl⟩
  · exact slot_lt_pdReg ..
  · exact (slot_lt_pdReg ..).trans_le (Nat.le_add_right _ _)
  · exact (slot_lt_pdReg ..).trans_le (Nat.le_add_right _ _)

/-- A key that is not listed reads as the default. -/
theorem mapGet_of_all_gt {α : Type} (d : α) {k : Nat} : ∀ {m : SMap α}, (∀ p ∈ m, k < p.1) → mapGet d k m = d
  | [], _ => rfl
  | (j, x) :: m, h => by
    have hj : k < j := h (j, x) (List.mem_cons_self ..)
    rw [mapGet, if_neg (by omega)]
    exact mapGet_of_all_gt d fun p hp => h p (List.mem_cons_of_mem _ hp)

/-- What lies below a bound is read as before, where all else lies above. -/
theorem mapGet_filter_append {α : Type} (d : α) {k n : Nat} {l : SMap α} (hk : k < n) (hl : ∀ p ∈ l, k < p.1) :
    ∀ m : SMap α, mapGet d k ((m.filter fun p => decide (p.1 < n)) ++ l) = mapGet d k m
  | [] => mapGet_of_all_gt d hl
  | (j, x) :: m => by
    by_cases hj : j < n
    · simp only [List.filter_cons, hj, decide_true, if_true, List.cons_append, mapGet, mapGet_filter_append d hk hl m]
    · simp only [List.filter_cons, hj, decide_false, Bool.false_eq_true, if_false, mapGet, mapGet_filter_append d hk hl m]
      rw [if_neg (by omega)]

/-! The relation. -/

/-- `s` comes from `o` by changes that leave the dies' records, the commit and its registers alone. -/
structure CommitKept (o s : State) : Prop where
  dies : s.dies = o.dies
  commit : s.commit = o.commit
  regs : ∀ a, ofCommit a = true → s.reg a = o.reg a

namespace CommitKept

theorem refl (s : State) : CommitKept s s := ⟨rfl, rfl, fun _ _ => rfl⟩

theorem trans {o s u : State} (h : CommitKept o s) (h' : CommitKept s u) : CommitKept o u :=
  ⟨h'.dies.trans h.dies, h'.commit.trans h.commit, fun a ha => (h'.regs a ha).trans (h.regs a ha)⟩

/-- Another field of the state changes. -/
theorem same {o s u : State} (h : CommitKept o s) (hd : u.dies = s.dies) (hc : u.commit = s.commit) (hr : u.regs = s.regs) : CommitKept o u :=
  h.trans ⟨hd, hc, fun a _ => by rw [State.reg, hr, State.reg]⟩

theorem die {o s : State} (h : CommitKept o s) (d : Nat) : s.die d = o.die d := by
  rw [State.die, h.dies, State.die]

theorem fld {o s : State} (h : CommitKept o s) {a : Nat} (ha : ofCommit a = true) (hi lo : Nat) : s.fld a hi lo = o.fld a hi lo := by
  rw [State.fld, h.regs a ha, State.fld]

theorem phase {o s : State} (h : CommitKept o s) : s.phase = o.phase := h.fld rfl 2 0

theorem activeSlot {o s : State} (h : CommitKept o s) : s.activeSlot = o.activeSlot := h.fld rfl 0 0

/-! Choice and repetition. -/

theorem ite {o a b : State} {c : Prop} [Decidable c] (ha : CommitKept o a) (hb : CommitKept o b) : CommitKept o (if c then a else b) := by
  split <;> assumption

theorem each {α : Type} {o : State} {f : α → State → State} (hf : ∀ a s, CommitKept o s → CommitKept o (f a s)) :
    ∀ {l : List α} {s : State}, CommitKept o s → CommitKept o (forEach l f s)
  | [], _, h => h
  | a :: l, s, h => each hf (l := l) (hf a s h)

theorem fold {α : Type} {o : State} {f : State → α → State} (hf : ∀ s a, CommitKept o s → CommitKept o (f s a)) :
    ∀ {l : List α} {s : State}, CommitKept o s → CommitKept o (l.foldl f s)
  | [], _, h => h
  | a :: l, s, h => fold hf (l := l) (hf s a h)

/-- A fold that carries a value beside the state. -/
theorem foldFst {α β : Type} {o : State} {f : State × β → α → State × β} (hf : ∀ r a, CommitKept o r.1 → CommitKept o (f r a).1) :
    ∀ {l : List α} {r : State × β}, CommitKept o r.1 → CommitKept o (l.foldl f r).1
  | [], _, h => h
  | a :: l, r, h => foldFst hf (l := l) (hf r a h)

section
variable {o s : State}

/-! Setters and registers. -/

theorem withOut {x} (h : CommitKept o s) : CommitKept o (s.withOut x) := h.same rfl rfl rfl
theorem withPins {x} (h : CommitKept o s) : CommitKept o (s.withPins x) := h.same rfl rfl rfl
theorem withMsixPending {x} (h : CommitKept o s) : CommitKept o (s.withMsixPending x) := h.same rfl rfl rfl
theorem withGroups {x} (h : CommitKept o s) : CommitKept o (s.withGroups x) := h.same rfl rfl rfl
theorem withFaults {x} (h : CommitKept o s) : CommitKept o (s.withFaults x) := h.same rfl rfl rfl
theorem withPorter {x} (h : CommitKept o s) : CommitKept o (s.withPorter x) := h.same rfl rfl rfl
theorem withServo {x} (h : CommitKept o s) : CommitKept o (s.withServo x) := h.same rfl rfl rfl
theorem withVoq {x} (h : CommitKept o s) : CommitKept o (s.withVoq x) := h.same rfl rfl rfl
theorem withLocalQ {x} (h : CommitKept o s) : CommitKept o (s.withLocalQ x) := h.same rfl rfl rfl
theorem withInjQ {x} (h : CommitKept o s) : CommitKept o (s.withInjQ x) := h.same rfl rfl rfl
theorem withTile {k x} (h : CommitKept o s) : CommitKept o (s.withTile k x) := h.same rfl rfl rfl
theorem modTile {k g} (h : CommitKept o s) : CommitKept o (s.modTile k g) := h.same rfl rfl rfl
theorem modLtile {k g} (h : CommitKept o s) : CommitKept o (s.modLtile k g) := h.modTile
theorem modStop {k g} (h : CommitKept o s) : CommitKept o (s.modStop k g) := h.same rfl rfl rfl
theorem withCtrl {k x} (h : CommitKept o s) : CommitKept o (s.withCtrl k x) := h.same rfl rfl rfl
theorem modCtrl {k g} (h : CommitKept o s) : CommitKept o (s.modCtrl k g) := h.same rfl rfl rfl
theorem modPdie {k g} (h : CommitKept o s) : CommitKept o (s.modPdie k g) := h.same rfl rfl rfl
theorem withPort {k x} (h : CommitKept o s) : CommitKept o (s.withPort k x) := h.same rfl rfl rfl
theorem modPort {k g} (h : CommitKept o s) : CommitKept o (s.modPort k g) := h.same rfl rfl rfl
theorem modGroup {k g} (h : CommitKept o s) : CommitKept o (s.modGroup k g) := h.same rfl rfl rfl
theorem withTraceUnit {k x} (h : CommitKept o s) : CommitKept o (s.withTraceUnit k x) := h.same rfl rfl rfl
theorem modTraceUnit {k g} (h : CommitKept o s) : CommitKept o (s.modTraceUnit k g) := h.same rfl rfl rfl
theorem modChk {k g} (h : CommitKept o s) : CommitKept o (s.modChk k g) := h.same rfl rfl rfl
theorem withVoqOf {k x} (h : CommitKept o s) : CommitKept o (s.withVoqOf k x) := h.same rfl rfl rfl
theorem modVoqOf {k g} (h : CommitKept o s) : CommitKept o (s.modVoqOf k g) := h.same rfl rfl rfl
theorem withLocalOf {k x} (h : CommitKept o s) : CommitKept o (s.withLocalOf k x) := h.same rfl rfl rfl
theorem modLocalOf {k g} (h : CommitKept o s) : CommitKept o (s.modLocalOf k g) := h.same rfl rfl rfl
theorem withInjOf {k x} (h : CommitKept o s) : CommitKept o (s.withInjOf k x) := h.same rfl rfl rfl
theorem emit {x} (h : CommitKept o s) : CommitKept o (s.emit x) := h.withOut
theorem useFreeN {n} (h : CommitKept o s) : CommitKept o (s.useFreeN n) := h.same rfl rfl rfl

/-- A register that is none of the commit's is written. -/
theorem withReg {a w} (h : CommitKept o s) (ha : ofCommit a = false) : CommitKept o (s.withReg a w) :=
  h.trans ⟨rfl, rfl, fun _ hb => State.reg_withReg_ne _ fun he => Bool.false_ne_true (ha.symm.trans (he ▸ hb))⟩

theorem withFld {a hi lo v} (h : CommitKept o s) (ha : ofCommit a = false) : CommitKept o (s.withFld a hi lo v) := h.withReg ha

theorem bumpBy {a n} (h : CommitKept o s) (ha : ofCommit a = false) : CommitKept o (s.bumpBy a n) := h.withReg ha

theorem bump {a} (h : CommitKept o s) (ha : ofCommit a = false) : CommitKept o (s.bump a) := h.bumpBy ha

/-- The registers above a bound are replaced; the commit's lie below it. -/
theorem withRegs {n : Nat} {l : SMap Word} (h : CommitKept o s) (hn : Reg.strActiveSlot < n) (hl : ∀ p ∈ l, Reg.strActiveSlot < p.1) :
    CommitKept o (s.withRegs ((s.regs.filter fun p => decide (p.1 < n)) ++ l)) := by
  refine h.trans ⟨rfl, rfl, fun a ha => ?_⟩
  have hle : a ≤ Reg.strActiveSlot := by
    by_contra hlt
    exact Bool.false_ne_true ((ofCommit_of_lt (Nat.lt_of_not_le hlt)).symm.trans ha)
  exact mapGet_filter_append _ (hle.trans_lt hn) (fun p hp => hle.trans_lt (hl p hp)) s.regs

/-! Interrupts, faults and trace events. -/

theorem msix {v} (h : CommitKept o s) : CommitKept o (s.msix v) := ite h.emit (ite h h.withMsixPending)

theorem raiseIbi {g} (h : CommitKept o s) : CommitKept o (s.raiseIbi g) := ite h (ite (h.withReg (by simp)).emit (h.withReg (by simp)))

theorem raiseIrq {src} (h : CommitKept o s) (hs : src < 5) : CommitKept o (s.raiseIrq src) := by
  have hm := h.withFld (hi := 12) (lo := 12) (v := 1) (ofCommit_porIrqMap hs)
  unfold State.raiseIrq
  dsimp only
  split
  · exact (ite hm.msix hm).raiseIbi
  · exact ite hm.msix hm

theorem traceEvent {d source event owner data} (h : CommitKept o s) : CommitKept o (s.traceEvent d source event owner data) :=
  ite h (ite (h.bump (by simp)).withTraceUnit h.withTraceUnit)

theorem setBlockState {b v} (h : CommitKept o s) : CommitKept o (s.setBlockState b v) := (h.withFld (by simp)).traceEvent

theorem wakeBlock {b} (h : CommitKept o s) : CommitKept o (s.wakeBlock b) := ite (h.setBlockState.bump (by simp)) h

theorem queueFault {r} (h : CommitKept o s) : CommitKept o (s.queueFault r) := by
  have irq {u : State} (hu : CommitKept o u) : CommitKept o (if u.fld Reg.fltIrqCfg 1 0 ≤ r.severity then u.raiseIrq 0 else u) := ite (hu.raiseIrq (by decide)) hu
  unfold State.queueFault
  dsimp only
  split
  · exact irq h.withFaults
  · split
    · split
      · exact irq (h.bump (by simp)).withFaults
      · exact h.bump (by simp)
    · exact h.bump (by simp)

theorem raiseFault {u cause severity permanent spare detail} (h : CommitKept o s) :
    CommitKept o (s.raiseFault u cause severity permanent spare detail) :=
  ite (h.bump (by simp)).queueFault (h.bump (by simp)).queueFault.traceEvent

theorem tileCount {t ev n} (h : CommitKept o s) : CommitKept o (s.tileCount t ev n) := by
  unfold State.tileCount
  split
  · exact h
  · exact ite h (h.each fun _ _ hu => ite hu.modTile hu)

theorem tdcPort {e n} (h : CommitKept o s) : CommitKept o (s.tdcPort e n) := h.bumpBy (by simp)

theorem portCount {e ev cls n} (h : CommitKept o s) : CommitKept o (s.portCount e ev cls n) := h.each fun _ _ hu => ite (hu.bumpBy (by simp)) hu

theorem barrierEvent {i} (h : CommitKept o s) : CommitKept o (s.barrierEvent i) := (h.withFld (by simp)).raiseIrq (by decide)

theorem barrierDropped (h : CommitKept o s) : CommitKept o s.barrierDropped := (h.withFld (by simp)).barrierEvent

/-! HBM. -/

theorem retirePch {k p} (h : CommitKept o s) : CommitKept o (s.retirePch k p) := h.modCtrl.raiseFault

theorem beginRepair {k blk} (h : CommitKept o s) : CommitKept o (s.beginRepair k blk) := ite h.withCtrl.useFreeN h.retirePch

theorem countUncorr {k blk source} (h : CommitKept o s) : CommitKept o (s.countUncorr k blk source) := (h.bump (by simp)).withReg (by simp)

theorem hbmUncorr {k blk source} (h : CommitKept o s) : CommitKept o (s.hbmUncorr k blk source) := by
  have hf := h.countUncorr (k := k) (blk := blk) (source := source) |>.raiseFault (u := Unit6.ofDie (stackDie k))
    (cause := if source = 1 then 0x19 else 0x18) (severity := if source = 1 then 2 else 1) (permanent := false) (spare := 15)
    (detail := eccLast k blk source)
  exact ite hf (ite hf.beginRepair (ite hf.withCtrl.retirePch hf.withCtrl))

theorem writeBlock {k off data b} (h : CommitKept o s) : CommitKept o (s.writeBlock k off data b).1 := by
  unfold State.writeBlock
  dsimp only
  split
  · exact (h.bump (by simp)).bump (by simp)
  · split
    · split
      · exact (h.bump (by simp)).withCtrl
      · exact (h.bump (by simp)).hbmUncorr
    · exact (h.bump (by simp)).withCtrl

theorem hbmWrite {k off data} (h : CommitKept o s) : CommitKept o (s.hbmWrite k off data).1 := by
  unfold State.hbmWrite
  refine foldFst (r := (s, false)) (fun _ _ hr => ?_) h
  exact hr.writeBlock

theorem chkWrite {p a n} (h : CommitKept o s) : CommitKept o (s.chkWrite p a n) := h.each fun _ _ hu => ite hu.modChk hu

theorem writePieces {ps data} (h : CommitKept o s) : CommitKept o (s.writePieces ps data).1 := by
  unfold State.writePieces
  refine foldFst (r := (s, data, false)) (fun _ _ hr => ?_) h
  exact hr.hbmWrite

theorem ownerWrite {p a ps data} (h : CommitKept o s) : CommitKept o (s.ownerWrite p a ps data).1 := h.writePieces.chkWrite

/-! Punnets and the packet mesh. -/

theorem withPool {n i p} (h : CommitKept o s) : CommitKept o (s.withPool n i p) := h.modPdie

theorem withHmPool {k i p} (h : CommitKept o s) : CommitKept o (s.withHmPool k i p) := h.modCtrl

theorem pkFault {n ptr c} (h : CommitKept o s) : CommitKept o (s.pkFault n ptr c) := (h.bump (by simp)).withReg (by simp)

theorem pkDirty {n i b} (h : CommitKept o s) : CommitKept o (s.pkDirty n i b) := h.modPdie

theorem pkPtr {n ptr op} (h : CommitKept o s) : CommitKept o (s.pkPtr n ptr op) := by
  unfold State.pkPtr
  split
  · exact h.pkFault
  · dsimp only
    split
    · exact (ite h.withPool h).pkFault
    · exact ite h.withPool.pkDirty h.withPool

theorem freeBufs {n l} (h : CommitKept o s) : CommitKept o (s.freeBufs n l) := h.each fun _ _ hu => hu.pkPtr

theorem wakeAt {k dst} (h : CommitKept o s) : CommitKept o (s.wakeAt k dst) := ite h.wakeBlock h

theorem meshPut {k dst f} (h : CommitKept o s) : CommitKept o (s.meshPut k dst f) := h.modStop.wakeAt

theorem sendFrame {k home f} (h : CommitKept o s) : CommitKept o (s.sendFrame k home f) := h.meshPut

theorem answerNoRoute {k f} (h : CommitKept o s) : CommitKept o (s.answerNoRoute k f) := ite h.sendFrame (ite h.withGroups h)

/-! Frames in the switch. -/

theorem mapFrames {n f} (h : CommitKept o s) : CommitKept o (s.mapFrames n f) := h.withVoq.withLocalQ.modPdie.each fun _ _ hu => hu.modPort

theorem withRoundQueue {e c i q} (h : CommitKept o s) : CommitKept o (s.withRoundQueue e c i q) := ite h.withVoqOf h.withInjOf

theorem dropAt {e r f} (h : CommitKept o s) : CommitKept o (s.dropAt e r f) := (h.bump (by simp)).traceEvent

theorem sendFlow {p mask on} (h : CommitKept o s) : CommitKept o (s.sendFlow p mask on) := ite h.modPort (ite h.emit h.emit)

theorem flowCheck {p c} (h : CommitKept o s) : CommitKept o (s.flowCheck p c) :=
  ite h (ite h.modPort.sendFlow (ite h.modPort.sendFlow h))

theorem returnCells {p v n} (h : CommitKept o s) : CommitKept o (s.returnCells p v n) := h.modPort

theorem withAsm {p v a} (h : CommitKept o s) : CommitKept o (s.withAsm p v a) := h.modPort

theorem release {die q} (h : CommitKept o s) : CommitKept o (s.release die q) := by
  unfold State.release
  cases q.credit with
  | some v => exact flowCheck (ite h.freeBufs.returnCells.withAsm h.freeBufs.returnCells)
  | none => exact flowCheck (ite h.freeBufs.withAsm h.freeBufs)

theorem withTag {e c x} (h : CommitKept o s) : CommitKept o (s.withTag e c x) := h.modPort

theorem retag {e c} (h : CommitKept o s) : CommitKept o (s.retag e c) := by
  unfold State.retag
  dsimp only
  split
  · exact h
  · split
    · exact h.withTag
    · exact h

theorem wfqIdle {e} (h : CommitKept o s) : CommitKept o (s.wfqIdle e) := ite h.modPort h

theorem headGone {e c i} (h : CommitKept o s) : CommitKept o (s.headGone e c i) := by
  unfold State.headGone
  dsimp only
  split
  · exact (ite h.withTag h).retag.wfqIdle
  · exact h.retag.wfqIdle

theorem dropOld {e die q} (h : CommitKept o s) : CommitKept o (s.dropOld e die q) := h.dropAt.portCount.release

theorem ageOut {e c i} : ∀ {l : List QFrame} {s : State}, CommitKept o s → CommitKept o (s.ageOut e c i l)
  | [], _, h => h
  | _ :: _, _, h => ite (ageOut h.withRoundQueue.dropOld.headGone) h

theorem ageLocal {p c} : ∀ {l : List QFrame} {s : State}, CommitKept o s → CommitKept o (s.ageLocal p c l)
  | [], _, h => h
  | _ :: _, _, h => ite (ageLocal h.withLocalOf.dropOld) h

theorem enqueue {e q} (h : CommitKept o s) : CommitKept o (s.enqueue e q) := by
  have hmark {b : Bool} {i : Nat} : CommitKept o (if b then
      if i < 128 then (s.bump (portReg i Reg.swiEcnMarkCnt)).portCount i 0x07 (some q.cls) 1 else s.bump (portReg e Reg.swiEcnMarkCnt)
    else s) := ite (ite (h.bump (by simp)).portCount (h.bump (by simp))) h
  unfold State.enqueue State.headTest
  exact ite (ageOut (retag (withRoundQueue (ite (hmark.bump (by simp)) hmark)))) (retag (withRoundQueue (ite (hmark.bump (by simp)) hmark)))

theorem enqueueLocal {q} (h : CommitKept o s) : CommitKept o (s.enqueueLocal q) := ite h.modLocalOf.ageLocal h.modLocalOf

theorem park {e q} (h : CommitKept o s) : CommitKept o (s.park e q) := (h.modPdie.bump (by simp)).portCount

theorem toPort {e q} (h : CommitKept o s) : CommitKept o (s.toPort e q) := ite h.park h.enqueue

theorem countDyn {p c} (h : CommitKept o s) : CommitKept o (s.countDyn p c) := (h.bump (by simp)).tdcPort.portCount

theorem correct {e c policer d} (h : CommitKept o s) : CommitKept o (s.correct e c policer d) := ite h.modPort h

theorem withTx {e c t} (h : CommitKept o s) : CommitKept o (s.withTx e c t) := h.modPort

theorem cutDrop {p v} (h : CommitKept o s) : CommitKept o (s.cutDrop p v) := by
  unfold State.cutDrop
  split
  · exact h
  · dsimp only
    split
    · exact h.withTx.release.wfqIdle
    · exact ite h.modVoqOf.release.headGone h.modVoqOf.release.wfqIdle
    · exact h.modPdie.release

/-! Ports. -/

theorem unlock {e} (h : CommitKept o s) : CommitKept o (s.unlock e) := ite (h.withFld (by simp)).withServo h

theorem withLinkState {e v} (h : CommitKept o s) : CommitKept o (s.withLinkState e v) := ite (h.withFld (by simp)) (h.withFld (by simp)).unlock

theorem advertise {e} (h : CommitKept o s) : CommitKept o (s.advertise e) := ite h h.emit

theorem dropQueued {e} (h : CommitKept o s) : CommitKept o (s.dropQueued e) := by
  unfold State.dropQueued
  refine wfqIdle (each (fun _ _ hu => hu.release) (bumpBy (modPort ?_) (by simp)))
  refine fold (fun u c hu => fold (fun v i hv => ?_) hu) h
  split
  · exact hv
  · exact (hv.withRoundQueue.bumpBy (by simp)).each fun _ _ hw => hw.release

theorem dropAsm {e v skip} (h : CommitKept o s) : CommitKept o (s.dropAsm e v skip) := by
  unfold State.dropAsm
  dsimp only
  split
  · exact h.withAsm
  · split
    · exact (h.withAsm.bump (by simp)).returnCells
    · exact (h.withAsm.bump (by simp)).correct.cutDrop.returnCells.withAsm

theorem dropStreams {e} (h : CommitKept o s) : CommitKept o (s.dropStreams e) := h.each fun _ _ hu => ite hu.dropAsm hu

theorem retirePort {e} (h : CommitKept o s) : CommitKept o (s.retirePort e) :=
  (h.withLinkState.bumpBy (by simp)).modPort.raiseFault.dropStreams.dropQueued

theorem trainPort {e} (h : CommitKept o s) : CommitKept o (s.trainPort e) := by
  unfold State.trainPort
  dsimp only
  split
  · exact (h.withReg (by simp)).unlock.advertise
  · split
    · exact (((h.withReg (by simp)).unlock.withFld (by simp)).withFld (by simp)).advertise
    · exact (h.withReg (by simp)).unlock.retirePort

/-! Exceptions. -/

theorem recordExc {t c addr space e shadow} (h : CommitKept o s) : CommitKept o (s.recordExc t c addr space e shadow) := by
  unfold State.recordExc
  exact h.withTile.tileCount.traceEvent.raiseFault

theorem raiseExc {t c e shadow} (h : CommitKept o s) : CommitKept o (s.raiseExc t c e shadow) := by
  unfold State.raiseExc State.endCtx
  exact h.modTile.recordExc.modTile

/-! Groups. -/

theorem writeRun {e space r data} (h : CommitKept o s) : CommitKept o (writeRun e space r data s) := by
  unfold Machine.writeRun
  split
  · exact h.modTile
  · exact h.modTile
  · split
    · exact h.ownerWrite
    · exact h
  · exact h

theorem modInst {e seq f} (h : CommitKept o s) : CommitKept o (s.modInst e seq f) := h.modGroup

theorem colSend {e f} (h : CommitKept o s) : CommitKept o (s.colSend e f) := by
  unfold State.colSend State.colSendTill
  exact h.sendFrame.modGroup

theorem colDrain {e seq key} : ∀ {n : Nat} {s : State}, CommitKept o s → CommitKept o (s.colDrain e seq key n)
  | 0, _, h => h
  | n + 1, _, h => by
    unfold State.colDrain
    split
    · exact h
    · split
      · exact h
      · exact ite h (colDrain h.modInst.colSend)

theorem colDrainAll {e} (h : CommitKept o s) : CommitKept o (s.colDrainAll e) := h.each fun _ _ hu => hu.each fun _ _ hv => hv.colDrain

theorem sendDown {e seq kind status offset count data} (h : CommitKept o s) : CommitKept o (s.sendDown e seq kind status offset count data) := by
  unfold State.sendDown
  split
  · exact h
  · exact h.each fun _ _ hu => hu.colSend

theorem endInst {e seq cause} (h : CommitKept o s) : CommitKept o (s.endInst e seq cause) := (h.modGroup.withFld (by simp)).colDrainAll

theorem writeGot {m l} (h : CommitKept o s) : CommitKept o (s.writeGot m l) := h.each fun _ _ hu => hu.each fun _ _ hv => hv.writeRun

theorem abortMember {cause m} (h : CommitKept o s) : CommitKept o (s.abortMember cause m) := by
  unfold State.abortMember
  dsimp only
  split
  · exact h
  · split
    · exact ite h.writeGot.useFreeN.raiseExc h.writeGot.useFreeN
    · exact h.writeGot.useFreeN

theorem abortInst {e seq cause rank} (h : CommitKept o s) : CommitKept o (s.abortInst e seq cause rank) := by
  unfold State.abortInst
  split
  · exact h
  · exact ((((ite h.sendDown (h.each fun _ _ hu => hu.colSend)).each fun _ _ hu => hu.abortMember).withReg (by simp)).bump (by simp)).endInst

theorem abortAll {e cause} (h : CommitKept o s) : CommitKept o (s.abortAll e cause) := h.each fun _ _ hu => hu.abortInst

theorem openDie {d} (h : CommitKept o s) : CommitKept o (s.openDie d) := h.each fun _ _ hu => ite hu hu.modStop

/-! Route tables and parked frames. -/

theorem tablesTake {n} (h : CommitKept o s) : CommitKept o (s.tablesTake n) := by
  unfold State.tablesTake
  dsimp only
  rw [List.append_assoc]
  refine h.withRegs (slot_lt_pdReg ..) fun p hp => ?_
  simp only [List.mem_append, List.mem_map, List.mem_filter, Bool.and_eq_true, decide_eq_true_eq] at hp
  rcases hp with ⟨q, ⟨-, hq, -⟩, rfl⟩ | ⟨-, hp⟩
  · exact ((slot_lt_pdReg ..).trans_le hq).trans_le (Nat.le_add_right _ _)
  · exact (slot_lt_pdReg ..).trans_le hp

theorem reclassify {n q} (h : CommitKept o s) : CommitKept o (s.reclassify n q) := by
  unfold State.reclassify
  dsimp only
  split
  case h_1 => exact ite (h.bump (by simp)).release (ite h.countDyn h).toPort
  case h_2 => exact ite h.toPort (h.bump (by simp)).release
  case h_3 a hr => exact (h.bump (route_counter (.inl hr))).release
  case h_4 a hr => exact (h.bump (route_counter (.inr hr))).release
  case h_5 => exact h.answerNoRoute.release
  case h_6 => exact h.enqueueLocal

theorem unparkAll {n f} (h : CommitKept o s) : CommitKept o (s.unparkAll n f) := by
  unfold State.unparkAll State.unpark
  dsimp only
  exact h.modPdie.each fun _ _ hu => hu.reclassify

/-! Port dies at a latch. -/

theorem armList {p lead} (h : CommitKept o s) : CommitKept o (s.armList p lead) := (h.withReg (by simp)).withFld (by simp)

theorem emptyStored {n} (h : CommitKept o s) : CommitKept o (s.emptyStored n) :=
  (((h.withVoq.withInjQ.withLocalQ.modPdie.each fun _ _ hu => hu.modPort).each fun _ _ hu => hu.modPort).each fun _ _ hu =>
    (hu.each fun _ _ hv => hv.retag).wfqIdle).each fun _ _ hu => hu.release

theorem dropStored {n} (h : CommitKept o s) : CommitKept o (s.dropStored n) := h.emptyStored.bumpBy (by simp)

theorem carve {n counts} (h : CommitKept o s) : CommitKept o (s.carve n counts) :=
  (h.dropStored.modPdie.each fun _ _ hu => hu.withPool).each fun _ _ hu => hu.each fun _ _ hv => hv.each fun _ _ hw =>
    ite hw.withPool hw.withPool.pkDirty

theorem layLanes {n fresh} (h : CommitKept o s) : CommitKept o (s.layLanes n fresh) := by
  unfold State.layLanes
  refine each (fun l u hu => ?_) h
  dsimp only
  split <;> exact hu.withReg (by simp)

theorem restartPort {e} (h : CommitKept o s) : CommitKept o (s.restartPort e) := by
  unfold State.restartPort
  have hdown := (h.dropStreams (e := e)).bumpBy (n := ((s.dropStreams e).port e).replay.length) (ofCommit_portReg e Reg.lnkRxDropCnt)
  exact ite ((((hdown.bumpBy (by simp)).withPort.each fun _ _ hu => hu.release).mapFrames.withReg (by simp)).unlock.dropQueued)
    (((hdown.bumpBy (by simp)).withPort.each fun _ _ hu => hu.release).mapFrames.trainPort.wfqIdle)

theorem imageList {e sec} (h : CommitKept o s) : CommitKept o (s.imageList e sec) :=
  ((((h.withReg (by simp)).withReg (by simp)).withReg (by simp)).each fun _ _ hu => (hu.withReg (by simp))).armList

theorem imageTables {n sec} (h : CommitKept o s) : CommitKept o (s.imageTables n sec) := by
  have hrows : CommitKept o (s.withRegs ((s.regs.filter fun p => decide (p.1 < pdReg n 0x200000)) ++ ((imageRows n sec).filter fun p => p.2 != 0) ++
      s.regs.filter fun p => decide (pdReg n 0x280000 ≤ p.1))) := by
    rw [List.append_assoc]
    refine h.withRegs (slot_lt_pdReg ..) fun p hp => ?_
    simp only [List.mem_append, List.mem_filter, decide_eq_true_eq] at hp
    rcases hp with ⟨hp, -⟩ | ⟨-, hp⟩
    · exact slot_lt_imageRows hp
    · exact (slot_lt_pdReg ..).trans_le hp
  exact (ite ((hrows.tablesTake.withFld (by simp)).withFld (by simp)) hrows.tablesTake).unparkAll

theorem clearPortCounts {e old new} (h : CommitKept o s) : CommitKept o (s.clearPortCounts e old new) := h.each fun _ _ hu => ite hu (hu.withReg (by simp))

/-! Tile dies at a latch. -/

theorem abandonDie {d} (h : CommitKept o s) : CommitKept o (s.abandonDie d) := by
  unfold State.abandonDie
  split
  · exact h
  · exact h.each fun _ _ hu => hu.each fun _ _ hv => ite hv hv.raiseExc

theorem moveSegment {d j old new} (h : CommitKept o s) : CommitKept o (s.moveSegment d j old new) :=
  (h.each fun _ _ hu => ite hu hu.modTile).modTile

theorem nameTile {d q} (h : CommitKept o s) : CommitKept o (s.nameTile d q) := by
  unfold State.nameTile
  exact h.modTile

theorem segMaps {d} (h : CommitKept o s) : CommitKept o (s.segMaps d) := h.each fun _ _ hu => hu.withReg (by simp)

theorem clearChanged {d old new} (h : CommitKept o s) : CommitKept o (s.clearChanged d old new) := h.each fun _ _ hu => hu.modLtile.modLtile

/-! The package at a latch. -/

theorem stepEpochs (h : CommitKept o s) : CommitKept o s.stepEpochs := by
  unfold State.stepEpochs
  exact ite (withFld (h.each fun _ _ hu => hu.withFld (by simp)) (by simp)) (h.each fun _ _ hu => hu.withFld (by simp))

theorem invalidate {e} (h : CommitKept o s) : CommitKept o (s.invalidate e) := ite (h.abortAll.withFld (by simp)).modGroup h

theorem dissolve {gone} (h : CommitKept o s) : CommitKept o (s.dissolve gone) := by
  unfold State.dissolve
  exact ite (barrierDropped (h.each fun _ _ hu => ite hu.invalidate hu)) (h.each fun _ _ hu => ite hu.invalidate hu)

theorem chkWithdraw (h : CommitKept o s) : CommitKept o s.chkWithdraw := h.each fun _ _ hu => ite (hu.withFld (by simp)) hu

theorem punnetsEnd (h : CommitKept o s) : CommitKept o s.punnetsEnd := h.each fun _ _ hu => ite (hu.withHmPool.modCtrl.withFld (by simp)) hu

theorem thaw {old} (h : CommitKept o s) : CommitKept o (s.thaw old) := (h.withReg (by simp)).each fun _ _ hu => ite hu.modTraceUnit (hu.modTraceUnit.withReg (by simp))

theorem dropViews (h : CommitKept o s) : CommitKept o s.dropViews := h.withPorter

end

end CommitKept

end Sys2Proof.Machine
end

section
/-! PROOFS. The records of the dies, and what ends a commit (R49, R53, R55). -/

namespace Sys2Proof.Machine

/-! Dies. -/

theorem State.dies_ordered_of_wf {s : State} (h : s.wf = true) : keysFrom 0 s.dies = true := (Since.refl h).diesOrd

theorem State.modDie_ordered {s : State} (hs : keysFrom 0 s.dies = true) (d : Nat) (g : Die → Die) : keysFrom 0 (s.modDie d g).dies = true :=
  keysFrom_mapPut _ _ _ (Nat.zero_le _) hs

theorem State.die_modDie_self {s : State} (hs : keysFrom 0 s.dies = true) (d : Nat) (g : Die → Die) : (s.modDie d g).die d = g (s.die d) :=
  mapGet_mapPut_self _ _ _ hs

theorem State.die_modDie_ne {s : State} {d k : Nat} (g : Die → Die) (h : k ≠ d) : (s.modDie d g).die k = s.die k :=
  mapGet_mapPut_ne _ _ _ h _

@[simp] theorem State.withCommit_die (s : State) (c : Commit) (d : Nat) : (s.withCommit c).die d = s.die d := rfl

/-- Dies change one after another, each in a way that a second time leaves alone. -/
theorem State.die_forEach_modDie {g : Die → Die} (hg : ∀ x, g (g x) = g x) (k : Nat) : ∀ (l : List Nat) {s : State}, keysFrom 0 s.dies = true →
    (forEach l (fun d s => s.modDie d g) s).die k = if k ∈ l then g (s.die k) else s.die k
  | [], _, _ => rfl
  | d :: l, s, hs => by
    have ih := State.die_forEach_modDie hg k l (State.modDie_ordered hs d g)
    have hcons : forEach (d :: l) (fun d s => State.modDie s d g) s = forEach l (fun d s => s.modDie d g) (s.modDie d g) := rfl
    rw [hcons, ih]
    by_cases hk : k = d
    · subst hk
      simp [State.die_modDie_self hs, hg]
    · simp [State.die_modDie_ne g hk, hk]

/-- Changes of dies leave the commit, registers and tiles alone. -/
theorem State.forEach_modDie_rest (g : Die → Die) : ∀ (l : List Nat) (s : State),
    ∃ m, forEach l (fun d s => s.modDie d g) s = s.withDies m
  | [], s => ⟨s.dies, rfl⟩
  | d :: l, s => by
    obtain ⟨m, hm⟩ := State.forEach_modDie_rest g l (s.modDie d g)
    exact ⟨m, hm⟩

/-! The commit at its end. -/

/-- A die whose staged section is dropped. -/
def Die.dropped (x : Die) : Die := { x with staged := none, missed := false }

/-- A commit that stages nothing. -/
def Commit.dropped (c : Commit) : Commit :=
  { c with image := [], dies := [], block := false, latchAt := 0, withdrawn := [], stagedPkg := none, stagedParts := [], composite := false, lead := [] }

theorem State.dropStaged_eq_forEach (s : State) :
    s.dropStaged = (forEach (List.range 20) (fun d s => s.modDie d Die.dropped) s).withCommit s.commit.dropped := by
  unfold State.dropStaged
  rfl

/-- Dropping what is staged changes the dies' records and the commit. -/
theorem State.dropStaged_eq (s : State) : ∃ m, s.dropStaged = (s.withDies m).withCommit s.commit.dropped := by
  obtain ⟨m, hm⟩ := State.forEach_modDie_rest Die.dropped (List.range 20) s
  rw [State.dropStaged_eq_forEach, hm]
  exact ⟨m, rfl⟩

@[simp] theorem State.dropStaged_regs (s : State) : s.dropStaged.regs = s.regs := by
  obtain ⟨m, hm⟩ := s.dropStaged_eq
  rw [hm]
  rfl

@[simp] theorem State.dropStaged_tiles (s : State) : s.dropStaged.tiles = s.tiles := by
  obtain ⟨m, hm⟩ := s.dropStaged_eq
  rw [hm]
  rfl

@[simp] theorem State.dropStaged_commit (s : State) : s.dropStaged.commit = s.commit.dropped := by
  obtain ⟨m, hm⟩ := s.dropStaged_eq
  rw [hm]
  rfl

@[simp] theorem State.dropStaged_fld (s : State) (a hi lo : Nat) : s.dropStaged.fld a hi lo = s.fld a hi lo := by
  rw [State.fld, State.reg, State.dropStaged_regs, State.fld, State.reg]

theorem State.die_dropStaged {s : State} (hs : keysFrom 0 s.dies = true) {d : Nat} (hd : d < 20) : s.dropStaged.die d = (s.die d).dropped := by
  have h := State.die_forEach_modDie (g := Die.dropped) (fun _ => rfl) d (List.range 20) hs
  rw [if_pos (List.mem_range.2 hd)] at h
  rw [State.dropStaged_eq_forEach, State.withCommit_die, h]

/-- Dropping what is staged after changes beside the commit. -/
theorem CommitKept.dropStaged {o s : State} (h : CommitKept o s) : CommitKept o.dropStaged s.dropStaged := by
  have hdies (l : List Nat) : ∀ {o s : State}, s.dies = o.dies →
      (forEach l (fun d s => s.modDie d Die.dropped) s).dies = (forEach l (fun d s => s.modDie d Die.dropped) o).dies := by
    induction l with
    | nil => exact id
    | cons d l ih =>
      intro o s hs
      refine ih (o := o.modDie d Die.dropped) (s := s.modDie d Die.dropped) ?_
      show mapPut Die.reset d (Die.dropped (s.die d)) s.dies = mapPut Die.reset d (Die.dropped (o.die d)) o.dies
      rw [State.die, hs, State.die]
  refine ⟨?_, ?_, fun a ha => ?_⟩
  · rw [State.dropStaged_eq_forEach, State.dropStaged_eq_forEach, State.withCommit_dies, State.withCommit_dies]
    exact hdies _ h.dies
  · rw [State.dropStaged_commit, State.dropStaged_commit, h.commit]
  · rw [State.reg, State.dropStaged_regs, State.reg, State.dropStaged_regs]
    exact h.regs a ha

/-- Another commit after changes beside it. -/
theorem CommitKept.withCommit {o s : State} {c : Commit} (h : CommitKept o s) : CommitKept (o.withCommit c) (s.withCommit c) :=
  ⟨h.dies, rfl, h.regs⟩

/-- A die changes after changes beside it. -/
theorem CommitKept.modDie {o s : State} {d : Nat} {g : Die → Die} (h : CommitKept o s) : CommitKept (o.modDie d g) (s.modDie d g) := by
  refine ⟨?_, h.commit, h.regs⟩
  show mapPut Die.reset d (g (s.die d)) s.dies = mapPut Die.reset d (g (o.die d)) o.dies
  rw [h.die, h.dies]

end Sys2Proof.Machine
end

section
/-! PROOFS. The latch: every die in scope takes its staged section (R53, R57, R58, R61). -/

namespace Sys2Proof.Machine

/-! One die. -/

/-- A die that runs a section in both copies. -/
def Die.running (x : Die) (b : Bytes) : Die := { x with active := b, check := b }

/-- A die that is structured; a package-scope commit ends its fence. -/
def Die.opened (x : Die) (package : Bool) : Die := { x with structured := true, fenced := x.fenced && !package }

/-- A die that has taken its staged section. -/
def Die.latched (x : Die) (package : Bool) : Die := (x.running (x.staged.getD [])).opened package

/-- A second latch of the same section changes nothing. -/
theorem Die.latched_latched (x : Die) (package : Bool) : (x.latched package).latched package = x.latched package := by
  simp [Die.latched, Die.running, Die.opened]

/-- A port die takes a section: its record changes, and nothing else of the dies and the commit. -/
theorem State.latchPortDie_kept (s : State) (n : Nat) (sec : Bytes) (package : Bool) (named : List Nat) :
    CommitKept (s.modDie (16 + n) (·.running sec)) (s.latchPortDie n sec package named) := by
  have hrun {mode : Bool} : CommitKept (s.modDie (16 + n) (·.running sec))
      ((s.modDie (16 + n) (·.running sec)).withFld (pdReg n Reg.lnkDieMode) 0 0 (b2n mode)) := (CommitKept.refl _).withFld (by simp)
  unfold State.latchPortDie
  refine .ite (CommitKept.imageTables ?_) ?_ <;>
  · refine CommitKept.each (fun _ _ hu => hu.imageList.clearPortCounts) ?_
    refine CommitKept.each (fun _ _ hu => .ite hu.restartPort hu) ?_
    exact CommitKept.layLanes (.ite hrun hrun.carve)

/-- The state copy of a commit starts after changes beside the commit. -/
theorem CommitKept.copies {o s : State} (h : CommitKept o s) : CommitKept
    (o.withCommit { o.commit with copying := some o.commit.scopeCode }) (s.withCommit { s.commit with copying := some s.commit.scopeCode }) := by
  rw [h.commit]
  exact h.withCommit

/-- A tile die takes a section: its record changes, and of the commit the scope of the state copy. -/
theorem State.latchTileDie_kept (s : State) (d : Nat) (new : Bytes) :
    ∃ c, CommitKept ((s.modDie d (·.running new)).withCommit { s.commit with copying := c }) (s.latchTileDie d new) := by
  have hrun := ((CommitKept.refl s).clearChanged (d := d) (old := (s.die d).active) (new := new)).modDie (d := d) (g := (·.running new))
  unfold State.latchTileDie
  dsimp only
  split
  · exact ⟨s.commit.copying, ((hrun.segMaps.each fun _ _ hu => hu.moveSegment).each fun _ _ hu => hu.nameTile).each fun _ _ hu =>
      hu.modLtile.modLtile⟩
  · exact ⟨_, CommitKept.copies (((hrun.segMaps.each fun _ _ hu => hu.moveSegment).each fun _ _ hu => hu.nameTile).each fun _ _ hu =>
      hu.modLtile.modLtile)⟩

/-- `t` comes from `s` by the latch of the dies of `l`: each takes its staged section, and of the commit only the scope of the state copy and
of the registers none of the commit's changes. -/
structure DiesLatched (l : List Nat) (s t : State) : Prop where
  dies : ∀ k, t.die k = if k ∈ l then (s.die k).latched (s.commit.scope == 0) else s.die k
  commit : ∃ c, t.commit = { s.commit with copying := c }
  regs : ∀ a, ofCommit a = true → t.reg a = s.reg a

theorem DiesLatched.nil (s : State) : DiesLatched [] s s := ⟨fun _ => rfl, ⟨_, rfl⟩, fun _ _ => rfl⟩

theorem DiesLatched.kept {l : List Nat} {s t u : State} (h : DiesLatched l s t) (h' : CommitKept t u) : DiesLatched l s u := by
  obtain ⟨c, hc⟩ := h.commit
  exact ⟨fun k => (h'.die k).trans (h.dies k), ⟨c, h'.commit.trans hc⟩, fun a ha => (h'.regs a ha).trans (h.regs a ha)⟩

theorem DiesLatched.cons {d : Nat} {l : List Nat} {s t u : State} (h : DiesLatched [d] s t) (h' : DiesLatched l t u) : DiesLatched (d :: l) s u := by
  obtain ⟨c, hc⟩ := h.commit
  obtain ⟨c', hc'⟩ := h'.commit
  refine ⟨fun k => ?_, ⟨c', by rw [hc', hc]⟩, fun a ha => (h'.regs a ha).trans (h.regs a ha)⟩
  have hscope : t.commit.scope = s.commit.scope := by rw [hc]
  rw [h'.dies, h.dies, hscope]
  by_cases hd : k = d <;> by_cases hl : k ∈ l <;> simp [hd, hl, Die.latched_latched]

/-- The section that a die takes, before it counts as structured. -/
theorem State.dieSection_kept (s : State) (d : Nat) (new : Bytes) (package : Bool) : ∃ c, CommitKept
    ((s.modDie d (·.running new)).withCommit { s.commit with copying := c })
    (if d < 16 then s.latchTileDie d new else s.latchPortDie (d - 16) new package (s.namedPorts (d - 16))) := by
  split
  · exact s.latchTileDie_kept d new
  next hd =>
    have h := s.latchPortDie_kept (d - 16) new package (s.namedPorts (d - 16))
    rw [show 16 + (d - 16) = d by omega] at h
    exact ⟨s.commit.copying, h⟩

/-- A die takes its staged section. -/
theorem State.latchDie_latched {s : State} (hs : keysFrom 0 s.dies = true) (d e : Nat) : DiesLatched [d] s (s.latchDie d e) := by
  obtain ⟨c, hc⟩ := s.dieSection_kept d ((s.die d).staged.getD []) (s.commit.scope == 0)
  have hord : keysFrom 0 ((s.modDie d (·.running ((s.die d).staged.getD []))).withCommit { s.commit with copying := c }).dies = true :=
    State.modDie_ordered hs d (·.running _)
  have hlatched : DiesLatched [d] s (((s.modDie d (·.running ((s.die d).staged.getD []))).withCommit { s.commit with copying := c }).modDie d
      (·.opened (s.commit.scope == 0))) := by
    refine ⟨fun k => ?_, ⟨c, rfl⟩, fun _ _ => rfl⟩
    by_cases hk : k = d
    · subst hk
      rw [State.die_modDie_self hord, State.withCommit_die, State.die_modDie_self hs, if_pos (List.mem_singleton_self k)]
      rfl
    · rw [State.die_modDie_ne _ hk, State.withCommit_die, State.die_modDie_ne _ hk, if_neg (by simpa using hk)]
  have hopen := hlatched.kept (hc.modDie.openDie (d := d))
  unfold State.latchDie
  dsimp only
  split
  · exact hopen.kept (((CommitKept.refl _).withFld (by simp)).withFld (by simp)).traceEvent
  · exact hopen.kept ((CommitKept.refl _).withFld (by simp)).traceEvent

/-- Dies take their staged sections. -/
theorem State.latchDies_latched {o : State} (f : State → Nat) : ∀ (l : List Nat) {s : State}, Since o s →
    DiesLatched l s (forEach l (fun d s => s.latchDie d (f s)) s)
  | [], s, _ => .nil s
  | d :: l, _, h => (State.latchDie_latched h.diesOrd d _).cons (State.latchDies_latched f l (State.latchDie_since h))

/-! The whole latch. -/

/-- The latch, up to the epochs: dies that miss it, descriptors abandoned, and check-value units of withdrawn windows. -/
def State.latchBegun (s : State) : State :=
  (forEach ((s.commit.dies.filter s.applies).filter fun d => decide (d < 16)) (fun d u => u.abandonDie d)
    (forEach (s.commit.dies.filter fun d => !s.applies d) (fun d u => u.missLatch d (imgEpoch s.commit.image)) s)).chkWithdraw

/-- The latch, up to the epochs, the package section and the partitions. -/
def State.latchPlanned (s : State) : State :=
  s.latchBegun.stepEpochs.withCommit { s.latchBegun.commit with
    pkg := s.latchBegun.commit.stagedPkg.getD s.commit.pkg, parts := s.commit.stagedParts }

/-- The latch, up to the dies that take their sections. -/
def State.latchTaken (s : State) : State :=
  forEach (s.commit.dies.filter s.applies) (fun d u => u.latchDie d (u.fld Reg.strPkgEpoch 31 0)) s.latchPlanned

/-- The latch, up to what it ends with the resources that are withdrawn. -/
def State.latchSwept (s : State) : State :=
  let gone := (s.commit.parts.map (·.1)).filter fun o => !s.commit.stagedParts.any (·.1 == o)
  let u := (s.latchTaken.punnetsEnd.dissolve gone).dropViews
  if u.commit.scope = 0 then u.thaw s.commit.pkg else u

theorem State.latch_eq (s : State) : s.latch = s.latchSwept.commitDone := by
  unfold State.latch State.latchSwept State.latchTaken State.latchPlanned State.latchBegun
  rfl

theorem State.latchBegun_kept (s : State) : CommitKept s s.latchBegun :=
  (((CommitKept.refl s).each fun _ _ hu => hu.raiseFault).each fun _ _ hu => hu.abandonDie).chkWithdraw

theorem State.latchPlanned_kept (s : State) : CommitKept
    (s.withCommit { s.commit with pkg := s.commit.stagedPkg.getD s.commit.pkg, parts := s.commit.stagedParts }) s.latchPlanned := by
  rw [State.latchPlanned, s.latchBegun_kept.commit]
  exact s.latchBegun_kept.stepEpochs.withCommit

theorem State.latchPlanned_since {s : State} (hwf : s.wf = true) : Since s s.latchPlanned := by
  have hmiss := forEach_since (f := fun d (u : State) => u.missLatch d (imgEpoch s.commit.image)) (fun _ _ hu => State.missLatch_since hu)
    (s.commit.dies.filter fun d => !s.applies d) (Since.refl hwf)
  exact State.withCommit_since (State.stepEpochs_since (State.chkWithdraw_since (forEach_since (fun _ _ hu => State.abandonDie_since hu) _ hmiss)))

theorem State.latchTaken_since {s : State} (hwf : s.wf = true) : Since s s.latchTaken :=
  forEach_since (fun _ _ hu => State.latchDie_since hu) _ (State.latchPlanned_since hwf)

theorem State.latchSwept_since {s : State} (hwf : s.wf = true) : Since s s.latchSwept := by
  have h := State.dropViews_since (State.dissolve_since (a1 := (s.commit.parts.map (·.1)).filter fun o => !s.commit.stagedParts.any (·.1 == o))
    (State.punnetsEnd_since (State.latchTaken_since hwf)))
  unfold State.latchSwept
  exact ite_since (State.thaw_since h) h

/-- The dies in scope that hold their staged sections have taken them. -/
theorem State.latchSwept_latched {s : State} (hwf : s.wf = true) : DiesLatched (s.commit.dies.filter s.applies) s.latchPlanned s.latchSwept := by
  have htaken := State.latchDies_latched (fun u => u.fld Reg.strPkgEpoch 31 0) (s.commit.dies.filter s.applies) (State.latchPlanned_since hwf)
  have hswept := (CommitKept.refl s.latchTaken).punnetsEnd.dissolve
    (gone := (s.commit.parts.map (·.1)).filter fun o => !s.commit.stagedParts.any (·.1 == o)) |>.dropViews
  unfold State.latchSwept
  exact htaken.kept (.ite hswept.thaw hswept)

/-- A die at the end of the latch, before what is staged is dropped. -/
theorem State.die_latchSwept {s : State} (hwf : s.wf = true) (k : Nat) : s.latchSwept.die k =
    if k ∈ s.commit.dies ∧ s.applies k = true then (s.die k).latched (s.commit.scope == 0) else s.die k := by
  simp only [(State.latchSwept_latched hwf).dies, List.mem_filter, s.latchPlanned_kept.die, s.latchPlanned_kept.commit, State.withCommit_die,
    State.withCommit_commit]

theorem State.commit_latchSwept {s : State} (hwf : s.wf = true) : ∃ c, s.latchSwept.commit =
    { s.commit with pkg := s.commit.stagedPkg.getD s.commit.pkg, parts := s.commit.stagedParts, copying := c } := by
  obtain ⟨c, hc⟩ := (State.latchSwept_latched hwf).commit
  exact ⟨c, by rw [hc, s.latchPlanned_kept.commit]; rfl⟩

theorem State.activeSlot_latchSwept {s : State} (hwf : s.wf = true) : s.latchSwept.activeSlot = s.activeSlot := by
  rw [State.activeSlot, State.fld, (State.latchSwept_latched hwf).regs _ rfl, s.latchPlanned_kept.regs _ rfl]
  rfl

/-! The end of the commit. -/

/-- The slots turn over and PHASE is 6. -/
def State.turned (u : State) : State :=
  ((u.withFld Reg.strActiveSlot 0 0 (1 - u.activeSlot)).withFld Reg.strActiveSlot 1 1 (b2n u.commit.composite)).withPhase 6

/-- Beside the interrupt, start-up and pins, the slots turn over and what is staged is dropped. -/
theorem State.commitDone_kept (u : State) : ∃ l st, CommitKept
    (u.turned.dropStaged.withCommit { u.commit.dropped with lead := l, structured := st }) u.commitDone := by
  have hseq : CommitKept u.turned (if u.turned.seqPhase = 5 then u.turned.withFld Reg.pwrSeqStatus 3 0 6 else u.turned) :=
    .ite ((CommitKept.refl _).withFld (by simp)) (.refl _)
  have hcommit {x : Pins} : ((if u.turned.seqPhase = 5 then u.turned.withFld Reg.pwrSeqStatus 3 0 6 else u.turned).withPins x).dropStaged.commit =
      u.commit.dropped := (State.dropStaged_commit _).trans (congrArg Commit.dropped hseq.commit)
  refine ⟨if u.commit.copying.isSome then [u.commit.scopeCode] else [], u.commit.dropped.structured || u.commit.dropped.scope == 0, ?_⟩
  have hdone := hseq.withPins (x := { (if u.turned.seqPhase = 5 then u.turned.withFld Reg.pwrSeqStatus 3 0 6 else u.turned).pins with
    autoBoot := false, bootPort := none, bootRefused := [] }) |>.dropStaged
  rw [← hcommit]
  exact hdone.withCommit.raiseIrq (src := 2) (by decide)

theorem State.phase_commitDone {u : State} (hs : keysFrom 0 u.regs = true) : u.commitDone.phase = 6 := by
  obtain ⟨l, st, h⟩ := u.commitDone_kept
  have hset : u.turned.phase = 6 := State.fld_withFld_self (State.withFld_ordered (State.withFld_ordered hs)) _ _ _ _ (by decide) (by decide)
  rw [h.phase, State.phase, State.withCommit_fld, State.dropStaged_fld]
  exact hset

theorem State.activeSlot_commitDone {u : State} (hs : keysFrom 0 u.regs = true) : u.commitDone.activeSlot = 1 - u.activeSlot := by
  obtain ⟨l, st, h⟩ := u.commitDone_kept
  calc u.commitDone.activeSlot = u.turned.activeSlot := by
        rw [h.activeSlot, State.activeSlot, State.withCommit_fld, State.dropStaged_fld, State.activeSlot]
    _ = (u.withFld Reg.strActiveSlot 0 0 (1 - u.activeSlot)).activeSlot :=
      (State.fld_withFld_other _ _ _ _ _ (by decide)).trans
        (State.fld_withFld_ne (State.withFld_ordered hs) _ _ _ _ _ _ (by decide) (by decide) (by decide))
    _ = (1 - u.activeSlot) % 2 := State.fld_withFld_self hs _ _ _ _ (by decide) (by decide)
    _ = 1 - u.activeSlot := Nat.mod_eq_of_lt (by omega)

theorem State.die_commitDone {u : State} (hs : keysFrom 0 u.dies = true) {k : Nat} (hk : k < 20) : u.commitDone.die k = (u.die k).dropped := by
  obtain ⟨l, st, h⟩ := u.commitDone_kept
  rw [h.die, State.withCommit_die]
  exact State.die_dropStaged (s := u.turned) hs hk

theorem State.commit_commitDone (u : State) : ∃ l st, u.commitDone.commit = { u.commit.dropped with lead := l, structured := st } := by
  obtain ⟨l, st, h⟩ := u.commitDone_kept
  exact ⟨l, st, h.commit⟩

/-- Settles O15: by what the latch leaves alone and what each die takes. -/
theorem latchTakesStaged : Obligations.LatchTakesStaged := by
  unfold Obligations.LatchTakesStaged
  intro s hwf hp
  have hs := State.latchSwept_since hwf
  obtain ⟨c, hc⟩ := State.commit_latchSwept hwf
  obtain ⟨l, st, hdone⟩ := s.latchSwept.commit_commitDone
  have hdie {k : Nat} (hk : k < 20) := (State.die_commitDone hs.diesOrd hk).trans (congrArg Die.dropped (State.die_latchSwept hwf k))
  refine ⟨s.latch, ?_, ?_, ?_, ?_, ?_, ?_, fun d hd => ?_, fun d b hd hin happ hb => ?_, fun d hd hout => ?_⟩
  · show execLatch s = _
    rw [execLatch, if_pos hp]
  all_goals rw [State.latch_eq]
  · exact State.phase_commitDone hs.regsOrd
  · rw [State.activeSlot_commitDone hs.regsOrd, State.activeSlot_latchSwept hwf]
  · rw [hdone, hc]
    rfl
  · rw [hdone, hc]
    rfl
  · rw [hdone]
    rfl
  · rw [hdie hd]
    rfl
  · rw [hdie hd, if_pos ⟨hin, happ⟩]
    simp [Die.dropped, Die.latched, Die.opened, Die.running, hb]
  · rw [hdie hd, if_neg (by rintro ⟨hin, happ⟩; rcases hout with h | h <;> simp_all)]
    rfl

end Sys2Proof.Machine
end

section
/-! PROOFS. START and ABORT, the end of the transfer, PREPARE, the latch lead and the end of the state copy (R49, R51-R55, R364, R412). -/

namespace Sys2Proof.Machine

/-! A commit that fails. -/

@[simp] theorem State.msix_tiles (s : State) (v : Nat) : (s.msix v).tiles = s.tiles := by
  unfold State.msix
  split_ifs <;> rfl

@[simp] theorem State.raiseIbi_tiles (s : State) (g : Nat) : (s.raiseIbi g).tiles = s.tiles := by
  unfold State.raiseIbi
  dsimp only
  split_ifs <;> rfl

@[simp] theorem State.raiseIrq_tiles (s : State) (src : Nat) : (s.raiseIrq src).tiles = s.tiles := by
  unfold State.raiseIrq
  dsimp only
  split <;> split_ifs <;> simp

@[simp] theorem State.bootFails_tiles (s : State) (code : Nat) : (s.bootFails code).tiles = s.tiles := by
  unfold State.bootFails State.powerEvent
  dsimp only
  split_ifs <;> simp

theorem CommitKept.powerEvent {o s : State} {i : Nat} (h : CommitKept o s) : CommitKept o (s.powerEvent i) := .ite h ((h.withFld (by simp)).raiseIrq (by decide))

theorem CommitKept.bootFails {o s : State} {code : Nat} (h : CommitKept o s) : CommitKept o (s.bootFails code) := by
  have hseq : CommitKept o (if s.seqPhase = 5 then s.withFld Reg.pwrSeqStatus 3 0 8 else s) := .ite (h.withFld (by simp)) h
  exact .ite (hseq.powerEvent.withFld (by simp)).withPins hseq

/-- PHASE and CODE of a commit that has failed. -/
def State.failed (s : State) (code : Nat) : State :=
  (s.withFld Reg.strCommitStatus 2 0 7).withFld Reg.strCommitStatus 10 3 code

@[simp] theorem State.failed_die (s : State) (code d : Nat) : (s.failed code).die d = s.die d := rfl

/-- Beside STR_COMMIT_ERR_DETAIL, interrupts and the boot, a failed commit drops what is staged and shows its code. -/
theorem State.commitFails_kept (s : State) (code : Nat) (w : Nat × Nat) : CommitKept (s.dropStaged.failed code) (s.commitFails code w) :=
  (((CommitKept.refl (s.dropStaged.failed code)).withReg (a := Reg.strCommitErrDetail) rfl).raiseIrq (by decide)).bootFails

@[simp] theorem State.commitFails_tiles (s : State) (code : Nat) (w : Nat × Nat) : (s.commitFails code w).tiles = s.tiles := by
  unfold State.commitFails
  simp [State.withPhase]

@[simp] theorem State.commitFails_commit (s : State) (code : Nat) (w : Nat × Nat) : (s.commitFails code w).commit = s.commit.dropped :=
  (s.commitFails_kept code w).commit.trans s.dropStaged_commit

theorem State.die_commitFails {s : State} (hs : keysFrom 0 s.dies = true) (code : Nat) (w : Nat × Nat) {d : Nat} (hd : d < 20) :
    (s.commitFails code w).die d = (s.die d).dropped := by
  rw [(s.commitFails_kept code w).die, State.failed_die, State.die_dropStaged hs hd]

theorem State.dropStaged_ordered {s : State} (hs : keysFrom 0 s.regs = true) : keysFrom 0 s.dropStaged.regs = true := by
  rwa [State.dropStaged_regs]

theorem State.phase_commitFails {s : State} (hs : keysFrom 0 s.regs = true) (code : Nat) (w : Nat × Nat) : (s.commitFails code w).phase = 7 := by
  have hord := State.dropStaged_ordered hs
  rw [(s.commitFails_kept code w).phase, State.failed, State.phase,
    State.fld_withFld_ne (State.withFld_ordered hord) _ _ _ _ _ _ (by decide) (by decide) (by decide)]
  exact State.fld_withFld_self hord _ _ _ _ (by decide) (by decide)

theorem State.code_commitFails {s : State} (hs : keysFrom 0 s.regs = true) {code : Nat} (hc : code < 256) (w : Nat × Nat) :
    (s.commitFails code w).fld Reg.strCommitStatus 10 3 = code := by
  rw [(s.commitFails_kept code w).fld rfl, State.failed,
    State.fld_withFld_self (State.withFld_ordered (State.dropStaged_ordered hs)) _ _ _ _ (by decide) (by decide)]
  exact Nat.mod_eq_of_lt hc

/-- ABORTED, ABORT_LATE, SCOPE and OWNER stay where the commit fails. -/
theorem State.status_commitFails {s : State} (hs : keysFrom 0 s.regs = true) (code : Nat) (w : Nat × Nat) {hi lo : Nat} (hlo : 10 < lo) :
    (s.commitFails code w).fld Reg.strCommitStatus hi lo = s.fld Reg.strCommitStatus hi lo := by
  have hord := State.dropStaged_ordered hs
  rw [(s.commitFails_kept code w).fld rfl, State.failed,
    State.fld_withFld_ne (State.withFld_ordered hord) _ _ _ _ _ _ (by decide) (by decide) (.inl hlo),
    State.fld_withFld_ne hord _ _ _ _ _ _ (by decide) (by decide) (.inl (by omega)), State.dropStaged_fld]

/-! START and ABORT (R49, R51, R53, R55). -/

theorem State.external_kept (s : State) (n : Nat) : CommitKept s (s.external n) := .ite ((CommitKept.refl s).bumpBy rfl) (.refl s)

theorem CommitKept.committing {o s : State} (h : CommitKept o s) : s.committing = o.committing := by
  rw [State.committing, h.phase, State.committing]

theorem State.exec_start (s : State) (src : Src) : exec (.start src) s =
    .next (if s.committing then (s.external 1).bump Reg.strCommitRejectCnt else (s.external 1).commitStarts) := by
  rw [← (s.external_kept 1).committing]
  rfl

theorem State.exec_abort (s : State) (src : Src) : exec (.abort src) s = .next (s.external 1).abortWrite := rfl

/-- Start-up returns to its phase 5 where it stood at 7 or 8. -/
def State.seqStarted (s : State) : State := if s.seqPhase = 7 ∨ s.seqPhase = 8 then s.withFld Reg.pwrSeqStatus 3 0 5 else s

/-- A commit has begun, before its length is judged. -/
def State.started (s : State) : State :=
  (((s.seqStarted.withPhase 1).withFld Reg.strCommitStatus 10 3 0).withReg Reg.strCommitErrDetail 0).withCommit { s.commit with startTime := s.now }

theorem State.seqStarted_commit (s : State) : s.seqStarted.commit = s.commit := by
  unfold State.seqStarted
  split <;> rfl

theorem State.commitStarts_eq (s : State) :
    s.commitStarts = if imgLenOk (s.reg Reg.strImageLen).toNat then s.started else s.started.commitFails 2 (0, 0) := by
  rw [State.started, ← s.seqStarted_commit]
  rfl

theorem State.seqStarted_ordered {s : State} (hs : keysFrom 0 s.regs = true) : keysFrom 0 s.seqStarted.regs = true := by
  unfold State.seqStarted
  split
  · exact State.withFld_ordered hs
  · exact hs

theorem State.started_ordered {s : State} (hs : keysFrom 0 s.regs = true) : keysFrom 0 s.started.regs = true :=
  State.withReg_ordered (State.withFld_ordered (State.withFld_ordered (State.seqStarted_ordered hs)))

/-- A commit that begins shows PHASE 1 with no error. -/
theorem State.started_status {s : State} (hs : keysFrom 0 s.regs = true) :
    s.started.phase = 1 ∧ s.started.fld Reg.strCommitStatus 10 3 = 0 ∧ s.started.reg Reg.strCommitErrDetail = 0 := by
  have h0 := State.seqStarted_ordered hs
  have h1 : keysFrom 0 (s.seqStarted.withPhase 1).regs = true := State.withFld_ordered h0
  have hdetail (hi lo : Nat) : s.started.fld Reg.strCommitStatus hi lo =
      ((s.seqStarted.withPhase 1).withFld Reg.strCommitStatus 10 3 0).fld Reg.strCommitStatus hi lo := by
    rw [State.fld, State.fld]
    exact congrArg (wBits · hi lo) (State.reg_withReg_ne _ (by decide))
  refine ⟨?_, ?_, State.reg_withReg_self (State.withFld_ordered h1) _ _⟩
  · rw [State.phase, hdetail, State.fld_withFld_ne h1 _ _ _ _ _ _ (by decide) (by decide) (by decide)]
    exact State.fld_withFld_self h0 _ _ _ _ (by decide) (by decide)
  · rw [hdetail]
    exact State.fld_withFld_self h1 _ _ _ _ (by decide) (by decide)

theorem State.reg_started {s : State} {a : Nat} (h1 : a ≠ Reg.strCommitStatus) (h2 : a ≠ Reg.strCommitErrDetail) :
    s.started.reg a = s.seqStarted.reg a :=
  (State.reg_withReg_ne _ h2).trans ((State.reg_withReg_ne _ h1).trans (State.reg_withReg_ne _ h1))

theorem State.seqPhase_started {s : State} (hs : keysFrom 0 s.regs = true) :
    s.started.seqPhase = if s.seqPhase = 7 ∨ s.seqPhase = 8 then 5 else s.seqPhase := by
  rw [State.seqPhase, State.fld, State.reg_started (by decide) (by decide)]
  unfold State.seqStarted
  split
  · exact State.fld_withFld_self hs _ _ _ _ (by decide) (by decide)
  · rfl

theorem State.external_now (s : State) (n : Nat) : (s.external n).now = s.now := by
  unfold State.external
  split <;> rfl

theorem State.external_tiles (s : State) (n : Nat) : (s.external n).tiles = s.tiles := by
  unfold State.external
  split <;> rfl

@[simp] theorem State.withReg_withRegs (s : State) (a : Nat) (w : Word) (r : SMap Word) : (s.withReg a w).withRegs r = s.withRegs r := rfl
@[simp] theorem State.withFld_withRegs (s : State) (a hi lo v : Nat) (r : SMap Word) : (s.withFld a hi lo v).withRegs r = s.withRegs r := rfl
@[simp] theorem State.withPhase_withRegs (s : State) (v : Nat) (r : SMap Word) : (s.withPhase v).withRegs r = s.withRegs r := rfl
@[simp] theorem State.withCommit_withRegs (s : State) (c : Commit) (r : SMap Word) : (s.withCommit c).withRegs r = (s.withRegs r).withCommit c := rfl
@[simp] theorem State.withCommit_withCommit (s : State) (c d : Commit) : (s.withCommit c).withCommit d = s.withCommit d := rfl

/-- Beside registers and the time of START, a commit that begins changes nothing. -/
theorem State.started_rest (s : State) (r : SMap Word) (c : Commit) : (s.started.withRegs r).withCommit c = (s.withRegs r).withCommit c := by
  have hseq : s.seqStarted.withRegs r = s.withRegs r := by
    unfold State.seqStarted
    split <;> rfl
  simp [State.started, hseq]

/-- A commit that begins with a legal image length. -/
theorem State.start_legal {s : State} (hs : keysFrom 0 s.regs = true) :
    let t := (s.external 1).started
    t.phase = 1 ∧ t.fld Reg.strCommitStatus 10 3 = 0 ∧ t.reg Reg.strCommitErrDetail = 0 ∧
      t.seqPhase = (if s.seqPhase = 7 ∨ s.seqPhase = 8 then 5 else s.seqPhase) ∧
      (∀ a, a ∉ [Reg.strCommitStatus, Reg.strCommitErrDetail, Reg.pwrSeqStatus, Reg.detExtCnt] → t.reg a = s.reg a) ∧
      (t.withRegs s.regs).withCommit s.commit = s ∧ t.commit = { s.commit with startTime := s.now } := by
  have hext := State.external_ordered 1 hs
  obtain ⟨hregs, hrest⟩ := s.external_frame 1
  obtain ⟨hphase, hcode, hdetail⟩ := State.started_status hext
  have hseq : (s.external 1).seqPhase = s.seqPhase := congrArg (wBits · 3 0) (hregs Reg.pwrSeqStatus (by decide))
  refine ⟨hphase, hcode, hdetail, ?_, fun a ha => ?_, ?_, ?_⟩
  · rw [State.seqPhase_started hext, hseq]
  · simp only [List.mem_cons, List.not_mem_nil, or_false, not_or] at ha
    obtain ⟨h1, h2, h3, h4⟩ := ha
    rw [State.reg_started h1 h2]
    refine Eq.trans ?_ (hregs a h4)
    unfold State.seqStarted
    split
    · exact State.reg_withReg_ne _ h3
    · rfl
  · rw [State.started_rest, hrest]
    rfl
  · rw [State.started, State.withCommit_commit, State.external_now, (s.external_kept 1).commit]

theorem State.started_tiles (s : State) : s.started.tiles = s.tiles := by
  unfold State.started State.seqStarted
  split <;> rfl

/-- A commit that begins with an illegal image length. -/
theorem State.start_illegal {s : State} (hs : keysFrom 0 s.regs = true) :
    let t := (s.external 1).started.commitFails 2 (0, 0)
    t.phase = 7 ∧ t.fld Reg.strCommitStatus 10 3 = 2 ∧ t.tiles = s.tiles ∧ t.commit.parts = s.commit.parts := by
  have hord := State.started_ordered (State.external_ordered 1 hs)
  refine ⟨State.phase_commitFails hord _ _, State.code_commitFails hord (by decide) _, ?_, ?_⟩
  · rw [State.commitFails_tiles, State.started_tiles, State.external_tiles]
  · rw [State.commitFails_commit, State.started, State.withCommit_commit, (s.external_kept 1).commit]
    rfl

/-- ABORTED shows whether something was withdrawn (R55). -/
def State.noted (s : State) : State := if s.commit.withdrawn.isEmpty then s else s.withFld Reg.strCommitStatus 11 11 1

theorem State.commitAbort_eq (s : State) (code : Nat) : s.commitAbort code = s.noted.commitFails code (0, 0) := rfl

theorem State.noted_ordered {s : State} (hs : keysFrom 0 s.regs = true) : keysFrom 0 s.noted.regs = true := by
  unfold State.noted
  split
  · exact hs
  · exact State.withFld_ordered hs

theorem State.noted_rest (s : State) : s.noted.dies = s.dies ∧ s.noted.commit = s.commit ∧ s.noted.tiles = s.tiles := by
  unfold State.noted
  split <;> exact ⟨rfl, rfl, rfl⟩

theorem State.fld_noted {s : State} (hs : keysFrom 0 s.regs = true) : s.noted.fld Reg.strCommitStatus 11 11 =
    if s.commit.withdrawn = [] then s.fld Reg.strCommitStatus 11 11 else 1 := by
  unfold State.noted
  by_cases hw : s.commit.withdrawn = []
  · simp [hw]
  · rw [if_neg (by simpa using hw), if_neg hw]
    exact State.fld_withFld_self hs _ _ _ _ (by decide) (by decide)

/-- An abort shows its code and drops what is staged, and whether something was withdrawn. -/
theorem State.commitAbort_effect {s : State} (hr : keysFrom 0 s.regs = true) (hd : keysFrom 0 s.dies = true) {code : Nat} (hc : code < 256) :
    (s.commitAbort code).phase = 7 ∧ (s.commitAbort code).fld Reg.strCommitStatus 10 3 = code ∧
      (∀ d, d < 20 → (s.commitAbort code).die d = (s.die d).dropped) ∧ (s.commitAbort code).commit = s.commit.dropped ∧
      (s.commitAbort code).tiles = s.tiles ∧ (s.commitAbort code).fld Reg.strCommitStatus 11 11 =
        if s.commit.withdrawn = [] then s.fld Reg.strCommitStatus 11 11 else 1 := by
  obtain ⟨hdies, hcommit, htiles⟩ := s.noted_rest
  have hord := State.noted_ordered hr
  rw [State.commitAbort_eq]
  refine ⟨State.phase_commitFails hord _ _, State.code_commitFails hord hc _, fun d h20 => ?_, ?_, ?_, ?_⟩
  · rw [State.die_commitFails (hdies ▸ hd) _ _ h20, State.die, hdies, State.die]
  · rw [State.commitFails_commit, hcommit]
  · rw [State.commitFails_tiles, htiles]
  · rw [State.status_commitFails hord _ _ (by decide), State.fld_noted hr]

/-- Settles O12: START by the state that it begins with, ABORT by what a failed commit drops and shows. -/
theorem commitStartAndAbort : Obligations.CommitStartAndAbort := by
  unfold Obligations.CommitStartAndAbort
  refine ⟨fun s src hwf => ⟨fun hrun => ?_, fun hidle hlen => ?_, fun hidle hlen => ?_⟩,
    fun s src hwf => ⟨fun hp => ?_, fun h1 h4 => ?_, fun hidle => ?_⟩⟩
  · rw [State.exec_start, if_pos hrun]
  · refine ⟨_, ?_, State.start_legal (State.ordered_of_wf hwf).1⟩
    rw [State.exec_start, hidle, State.commitStarts_eq, (s.external_frame 1).1 _ (by decide), hlen]
    rfl
  · refine ⟨_, ?_, State.start_illegal (State.ordered_of_wf hwf).1⟩
    rw [State.exec_start, hidle, State.commitStarts_eq, (s.external_frame 1).1 _ (by decide), hlen]
    rfl
  · rw [State.exec_abort, State.abortWrite, (s.external_kept 1).phase, if_pos hp]
  · have hext := State.external_kept s 1
    obtain ⟨hphase, hcode, hdies, hcommit, htiles, hnoted⟩ := State.commitAbort_effect (State.external_ordered 1 (State.ordered_of_wf hwf).1)
      (hext.dies ▸ State.dies_ordered_of_wf hwf) (code := 0x21) (by decide)
    refine ⟨(s.external 1).commitAbort 0x21, ?_, hphase, hcode, fun d hd => ?_, ?_, ?_, ?_, ?_, ?_⟩
    · have hrun : s.committing = true := by
        simp only [State.committing, Bool.and_eq_true, decide_eq_true_eq]
        omega
      rw [State.exec_abort, State.abortWrite, hext.phase, if_neg (by omega), hext.committing, if_pos hrun]
    · rw [hdies d hd, hext.die]
      exact ⟨rfl, rfl, rfl⟩
    · rw [hcommit]
      rfl
    · rw [hcommit, hext.commit]
      rfl
    · rw [hcommit, hext.commit]
      rfl
    · rw [htiles, State.external_tiles]
    · rw [hnoted, hext.commit, hext.fld rfl]
  · have hp : s.phase ≠ 5 := by
      intro hp
      rw [State.committing, hp] at hidle
      exact absurd hidle (by decide)
    rw [State.exec_abort, State.abortWrite, (s.external_kept 1).phase, if_neg hp, (s.external_kept 1).committing, hidle]
    rfl

end Sys2Proof.Machine
end

section
/-! PROOFS. The end of the transfer: what is retained, judged and staged (R49, R52, R364). -/

namespace Sys2Proof.Machine

/-! Staging (R52, R61). -/

theorem CommitKept.writeSlots {o s : State} {b : Bytes} (h : CommitKept o s) : CommitKept o (s.writeSlots b) := by
  unfold State.writeSlots
  exact h.each fun _ _ hu => hu.hbmWrite

/-- Withdrawn storage and moved trace regions are zeroed beside the commit. -/
theorem CommitKept.zeroPlan {o s : State} {p : Plan} (h : CommitKept o s) : CommitKept o (s.zeroPlan p) := by
  unfold State.zeroPlan
  exact ((h.each fun _ _ hu => hu.modLtile).each fun _ _ hu => hu.each fun _ _ hv => hv.modCtrl).each fun _ _ hu => hu.each fun _ _ hv => hv.modCtrl

/-- Dies change; the commit does not. -/
theorem State.forEach_commit {α : Type} {f : α → State → State} (hf : ∀ a s, (f a s).commit = s.commit) : ∀ (l : List α) (s : State),
    (forEach l f s).commit = s.commit
  | [], _ => rfl
  | a :: l, s => (State.forEach_commit hf l (f a s)).trans (hf a s)

/-- A plan in force, before PHASE: the commit in progress is that of the image. -/
def State.planned (s : State) (b : Bytes) (p : Plan) : State :=
  s.withCommit { s.commit with
    image := b, scope := p.scope, owner := p.owner, dies := p.scopeDies, block := s.isBlock p, withdrawn := s.withdrawals p,
    stagedPkg := if p.scope = 0 then some p.pkg else none, stagedParts := p.standing.foldl (fun l x => insertPart x l) [],
    composite := p.scope == 1 }

/-- Dies in scope hold their staged sections, and withdrawn storage is zeroed. -/
def State.stagedDies (s : State) (b : Bytes) (p : Plan) : State :=
  (forEach p.scopeDies (fun d u => u.modDie d fun x => { x with staged := some (u.planSec p d), missed := false }) (s.planned b p)).zeroPlan p

theorem State.stagePlan_eq (s : State) (b : Bytes) (p : Plan) : s.stagePlan b p =
    (if p.scope = 1 then (s.stagedDies b p).writeSlots (s.compositeImage b p) else s.stagedDies b p).withPhase 3 := rfl

theorem State.stagedDies_commit (s : State) (b : Bytes) (p : Plan) : (s.stagedDies b p).commit = (s.planned b p).commit :=
  (CommitKept.refl _).zeroPlan.commit.trans (State.forEach_commit (by exact fun _ _ => rfl) _ _)

theorem State.stagedDies_since {o s : State} (h : Since o s) (b : Bytes) (p : Plan) : Since o (s.stagedDies b p) :=
  State.zeroPlan_since (forEach_since (fun _ _ hu => State.modDie_since hu) _ (State.withCommit_since h))

/-- The image is staged: PHASE 3, and the image is that of the commit in progress. -/
theorem State.stagePlan_effect {o s : State} (h : Since o s) (b : Bytes) (p : Plan) :
    (s.stagePlan b p).phase = 3 ∧ (s.stagePlan b p).commit.image = b := by
  have hs := State.stagedDies_since h b p
  have hkept : CommitKept (s.stagedDies b p) (if p.scope = 1 then (s.stagedDies b p).writeSlots (s.compositeImage b p) else s.stagedDies b p) :=
    .ite (CommitKept.refl _).writeSlots (.refl _)
  rw [State.stagePlan_eq]
  refine ⟨State.fld_withFld_self (ite_since (State.writeSlots_since hs) hs).regsOrd _ _ _ _ (by decide) (by decide), ?_⟩
  rw [State.withPhase, State.withFld_commit, hkept.commit, State.stagedDies_commit]
  rfl

/-! The judgement (R49). -/

theorem State.transferred_eq (s : State) (b : Bytes) : s.transferred b = (s.writeSlots b).judged b := by
  unfold State.transferred State.judged
  dsimp only
  rcases (s.writeSlots b).verify b with _ | ⟨code, w⟩
  · rfl
  · by_cases hcode : code = 2
    · subst hcode
      rfl
    · simp [hcode]

/-- A failed check ends the commit with its code; else the image is staged. -/
theorem State.judged_cases {o s : State} (h : Since o s) (b : Bytes) :
    ((s.judged b).phase = 3 ∧ (s.judged b).commit.image = b) ∨ (s.judged b).phase = 7 := by
  unfold State.judged
  split
  · exact .inl (State.stagePlan_effect (State.showHeader_since h) b _)
  · exact .inr (State.phase_commitFails h.regsOrd _ _)
  · exact .inr (State.phase_commitFails (State.showHeader_since h).regsOrd _ _)

/-- An image with a wrong magic number fails the first check. -/
theorem State.verify_magic (s : State) {b : Bytes} (hm : slice b 0 4 ≠ [0x55, 0x42, 0x53, 0x49]) : s.verify b = some (2, (0, 0)) := by
  have hheader : headerOk b (s.reg Reg.strImageLen).toNat = false := by
    simp only [headerOk, beq_eq_false_iff_ne.2 hm, Bool.false_and]
  have himage : s.checkImage b = some (2, (0, 0)) := by
    rw [State.checkImage, if_pos (by simp [hheader])]
  rw [State.verify, himage, Option.orElse_some]

/-- A header that fails its check shows neither scope nor owner. -/
theorem State.judged_header {s : State} {b : Bytes} {w : Nat × Nat} (h : s.verify b = some (2, w)) : s.judged b = s.commitFails 2 w := by
  unfold State.judged
  split
  next hnone =>
    rw [hnone] at h
    cases h
  next hw =>
    rw [hw] at h
    cases h
    rfl
  next hne hw =>
    rw [hw] at h
    cases h
    exact (hne rfl).elim

/-- An image with a wrong magic number ends the commit with error 2. -/
theorem State.judged_magic {o s : State} (h : Since o s) {b : Bytes} (hm : slice b 0 4 ≠ [0x55, 0x42, 0x53, 0x49]) :
    (s.judged b).phase = 7 ∧ (s.judged b).fld Reg.strCommitStatus 10 3 = 2 := by
  rw [State.judged_header (s.verify_magic hm)]
  exact ⟨State.phase_commitFails h.regsOrd _ _, State.code_commitFails h.regsOrd (by decide) _⟩

/-- An image that comes while both stacks are trained. -/
theorem State.transferDone_trained {s : State} {image : Bytes} {failed : Bool} (hp : s.phase = 1) (h0 : (s.ctrl 0).failed = false)
    (h6 : (s.ctrl 6).failed = false) (ht0 : s.trained 0 = true) (ht6 : s.trained 6 = true) {s1 : State} {r : Option Bytes}
    (htake : s.takeImage image failed = (s1, r)) :
    s.transferDone image failed = match (motive := Option Bytes → State) r with
      | none => s1.commitFails 1 (0, 0)
      | some b => (s1.writeSlots b).judged b := by
  rw [State.transferDone, if_neg (not_not.2 hp), if_neg (by simp [h0, h6]), if_neg (by simp [ht0, ht6]), htake]
  cases r with
  | none => rfl
  | some b => exact s1.transferred_eq b

/-- Settles O13: by what the checks leave of an image that has come. -/
theorem transferDone : Obligations.TransferDone := by
  unfold Obligations.TransferDone
  intro s s1 image failed hwf hp
  have hexec : exec (.transferDone image failed) s = .next (s.transferDone image failed) := rfl
  refine ⟨fun hf => ?_, fun h0 h6 ht0 ht6 => ⟨fun htake => ?_, fun b htake => ?_⟩⟩
  · rw [hexec, State.transferDone, if_neg (not_not.2 hp), if_pos hf]
  · rw [hexec, State.transferDone_trained hp h0 h6 ht0 ht6 htake]
  · have hs : Since s (s1.writeSlots b) := by
      have htaken := State.takeImage_since (a1 := image) (a2 := failed) (Since.refl hwf)
      rw [htake] at htaken
      exact State.writeSlots_since htaken
    have hcases := State.judged_cases hs b
    refine ⟨_, ?_, rfl, hcases.imp And.left id, fun h3 => ?_, fun hm => State.judged_magic hs hm⟩
    · rw [hexec, State.transferDone_trained hp h0 h6 ht0 ht6 htake]
    · rcases hcases with ⟨-, himage⟩ | h7
      · exact himage
      · omega

end Sys2Proof.Machine
end

section
/-! PROOFS. PREPARE, the latch lead and the end of the state copy (R53, R412). -/

namespace Sys2Proof.Machine

/-! PREPARE ends. -/

/-- PREPARE ends with the latch at `STR_LATCH_TIME`, or the lead time on where that is 0. -/
theorem State.prepareDone_in_time {s : State} (hp : s.phase = 3)
    (ht : (s.reg Reg.strLatchTime).toNat = 0 ∨ s.now + s.commit.leadTime ≤ (s.reg Reg.strLatchTime).toNat) :
    s.prepareDone = (s.withPhase 4).withCommit { s.commit with
      latchAt := if (s.reg Reg.strLatchTime).toNat = 0 then s.now + s.commit.leadTime else (s.reg Reg.strLatchTime).toNat } := by
  unfold State.prepareDone
  dsimp only
  rw [if_neg (not_not.2 hp), if_neg (by omega)]

/-- A latch time within the lead aborts. -/
theorem State.prepareDone_too_soon {s : State} (hp : s.phase = 3) (h0 : (s.reg Reg.strLatchTime).toNat ≠ 0)
    (ht : (s.reg Reg.strLatchTime).toNat < s.now + s.commit.leadTime) : s.prepareDone = s.commitAbort 0x20 := by
  unfold State.prepareDone
  dsimp only
  rw [if_neg (not_not.2 hp), if_pos ⟨h0, ht⟩]

/-! The latch lead. -/

@[simp] theorem State.traceEvent_tiles (s : State) (d source event owner : Nat) (data : Bytes) :
    (s.traceEvent d source event owner data).tiles = s.tiles := by
  unfold State.traceEvent
  dsimp only
  split_ifs <;> rfl

@[simp] theorem State.wakeBlock_tiles (s : State) (b : Nat) : (s.wakeBlock b).tiles = s.tiles := by
  unfold State.wakeBlock
  split
  · exact State.traceEvent_tiles ..
  · rfl

theorem State.forEach_wakeBlock_tiles : ∀ (l : List Nat) (s : State), (forEach l (fun b s => s.wakeBlock b) s).tiles = s.tiles
  | [], _ => rfl
  | b :: l, s => (State.forEach_wakeBlock_tiles l (s.wakeBlock b)).trans (s.wakeBlock_tiles b)

/-- The state in which the latch lead wakes blocks. -/
def State.leading (s : State) : State := (s.withPhase 5).withCommit { s.commit with lead := [s.commit.scopeCode] }

/-- Beside the blocks that it wakes, the latch lead shows PHASE 5 and holds the commit's scope. -/
theorem State.latchLead_kept {s : State} (hp : s.phase = 4) : CommitKept s.leading s.latchLead ∧ s.latchLead.tiles = s.tiles := by
  unfold State.latchLead
  rw [if_pos hp]
  exact ⟨(CommitKept.refl _).each fun _ _ hu => hu.wakeBlock, State.forEach_wakeBlock_tiles _ _⟩

/-- A tile in the scope that leads does not issue. -/
theorem State.mayRun_of_lead {s : State} {k : Nat} (hl : s.commit.lead = [s.commit.scopeCode]) (hin : s.commit.includes (s.physOwner k) = true) :
    s.mayRun k = false := by
  have hlead : s.inLead k = true := by
    simp only [State.inLead, hl, List.any_cons, List.any_nil, Bool.or_false, Commit.scopeCode, Commit.includes] at hin ⊢
    split
    · rfl
    next hscope =>
      rw [beq_false_of_ne hscope, Bool.false_or] at hin
      rw [hin, Bool.or_true]
  rw [State.mayRun, hlead, Bool.not_true, Bool.and_false]

/-! The end of the state copy. -/

/-- The schedule of a tile in the scope that has been copied restarts. -/
def State.restartTile (o t : Nat) (s : State) : State := if o = 64 ∨ s.physOwner t = o then s.modTile t Tile.restart else s

/-- The schedules of all tiles in the scope restart. -/
def State.restarted (s : State) (o : Nat) : State := forEach (s.tiles.map (·.1)) (State.restartTile o) s

theorem State.copyEnds_eq {s : State} {o : Nat} (ho : s.commit.copying = some o) : s.copyEnds =
    (s.restarted o).withCommit { (s.restarted o).commit with copying := none, lead := (s.restarted o).commit.lead.filter (· != o) } := by
  unfold State.copyEnds
  rw [ho]
  rfl

theorem State.restartTile_ordered {s : State} (hs : keysFrom 0 s.tiles = true) (o t : Nat) : keysFrom 0 (s.restartTile o t).tiles = true := by
  unfold State.restartTile
  split
  · exact keysFrom_mapPut _ _ _ (Nat.zero_le _) hs
  · exact hs

theorem Tile.restart_restart (x : Tile) : x.restart.restart = x.restart := rfl

/-- A restart of one tile, as each tile shows it. -/
theorem State.tile_restartTile {s : State} (hs : keysFrom 0 s.tiles = true) (o t k : Nat) :
    (s.restartTile o t).tile k = if k = t ∧ (o = 64 ∨ s.physOwner k = o) then (s.tile k).restart else s.tile k := by
  by_cases hk : k = t
  · subst hk
    by_cases ho : o = 64 ∨ s.physOwner k = o
    · rw [State.restartTile, if_pos ho, State.tile_modTile_self hs, if_pos ⟨rfl, ho⟩]
    · rw [State.restartTile, if_neg ho, if_neg (by simp [ho])]
  · have hout : ¬ (k = t ∧ (o = 64 ∨ s.physOwner k = o)) := fun hc => hk hc.1
    rw [if_neg hout, State.restartTile]
    split
    · exact State.tile_modTile_ne _ hk
    · rfl

theorem State.restartTile_rest (s : State) (o t : Nat) : ∃ m, s.restartTile o t = s.withTiles m := by
  unfold State.restartTile
  split
  · exact ⟨_, rfl⟩
  · exact ⟨s.tiles, rfl⟩

/-- Of its tiles, the owner of a tile depends on the logical tile that it serves. -/
theorem State.physOwner_withTiles {s : State} {m : SMap Tile} {k : Nat} (h : ((s.withTiles m).tile k).idLogical = (s.tile k).idLogical) :
    (s.withTiles m).physOwner k = s.physOwner k := by
  have hlogical : (s.withTiles m).logicalOf k = s.logicalOf k := by
    unfold State.logicalOf
    rw [h]
    rfl
  rw [State.physOwner, hlogical]
  rfl

/-- A restart leaves the owners of tiles. -/
theorem State.physOwner_restartTile {s : State} (hs : keysFrom 0 s.tiles = true) (o t k : Nat) :
    (s.restartTile o t).physOwner k = s.physOwner k := by
  have hid : ((s.restartTile o t).tile k).idLogical = (s.tile k).idLogical := by
    rw [State.tile_restartTile hs]
    split <;> rfl
  obtain ⟨m, hm⟩ := s.restartTile_rest o t
  rw [hm] at hid ⊢
  exact State.physOwner_withTiles hid

/-- Schedules restart one after another. -/
theorem State.tile_forEach_restartTile (o k : Nat) : ∀ (l : List Nat) {s : State}, keysFrom 0 s.tiles = true →
    (forEach l (State.restartTile o) s).tile k = if k ∈ l ∧ (o = 64 ∨ s.physOwner k = o) then (s.tile k).restart else s.tile k
  | [], _, _ => by simp [forEach]
  | t :: l, s, hs => by
    have ih := State.tile_forEach_restartTile o k l (State.restartTile_ordered hs o t)
    have hcons : forEach (t :: l) (State.restartTile o) s = forEach l (State.restartTile o) (s.restartTile o t) := rfl
    rw [hcons, ih, State.physOwner_restartTile hs, State.tile_restartTile hs]
    by_cases ho : o = 64 ∨ s.physOwner k = o
    · by_cases hk : k = t
      · subst hk
        simp [ho, Tile.restart_restart]
      · simp [ho, hk]
    · simp [ho]

/-- Restarts of schedules change tiles only. -/
theorem State.forEach_restartTile_rest (o : Nat) : ∀ (l : List Nat) (s : State), ∃ m, forEach l (State.restartTile o) s = s.withTiles m
  | [], s => ⟨s.tiles, rfl⟩
  | t :: l, s => by
    obtain ⟨m, hm⟩ := State.forEach_restartTile_rest o l (s.restartTile o t)
    obtain ⟨m', hm'⟩ := s.restartTile_rest o t
    refine ⟨m, hm.trans ?_⟩
    rw [hm']
    rfl

/-- A key that a map does not list reads as the default. -/
theorem mapGet_of_not_key {α : Type} (d : α) {k : Nat} : ∀ {m : SMap α}, k ∉ m.map (·.1) → mapGet d k m = d
  | [], _ => rfl
  | (a, _) :: _, h => by
    rw [List.map_cons, List.mem_cons, not_or] at h
    obtain ⟨hne, hm⟩ := h
    rw [mapGet, if_neg (Ne.symm hne), mapGet_of_not_key d hm]

/-- A tile that no key names is as at reset. -/
theorem State.tile_of_not_key {s : State} {k : Nat} (hk : k ∉ s.tiles.map (·.1)) : s.tile k = Tile.reset :=
  mapGet_of_not_key _ hk

/-- A tile after the end of the state copy: in the scope its schedule has restarted. -/
theorem State.tile_restarted {s : State} (hs : keysFrom 0 s.tiles = true) (o k : Nat) :
    (s.restarted o).tile k = if o = 64 ∨ s.physOwner k = o then (s.tile k).restart else s.tile k := by
  rw [State.restarted, State.tile_forEach_restartTile o k _ hs]
  by_cases hk : k ∈ s.tiles.map (·.1)
  · simp only [hk, true_and]
  · have hreset : (s.tile k).restart = s.tile k := by
      rw [State.tile_of_not_key hk]
      rfl
    simp only [hreset, ite_self]

/-- Settles O14: the three commands one by one. -/
theorem prepareAndLead : Obligations.PrepareAndLead := by
  unfold Obligations.PrepareAndLead
  refine ⟨fun s hwf hp => ⟨fun ht => ?_, fun h0 ht => ?_⟩, fun s hwf hp => ?_, fun s hwf => ⟨fun ho => ?_, fun o ho => ?_⟩⟩
  · show Host.Outcome.next s.prepareDone = _
    rw [State.prepareDone_in_time hp ht]
    rfl
  · obtain ⟨hphase, hcode, -⟩ := State.commitAbort_effect (State.ordered_of_wf hwf).1 (State.dies_ordered_of_wf hwf) (code := 0x20) (by decide)
    refine ⟨_, ?_, hphase, hcode⟩
    show Host.Outcome.next s.prepareDone = _
    rw [State.prepareDone_too_soon hp h0 ht]
  · obtain ⟨hkept, htiles⟩ := State.latchLead_kept hp
    have hlead : s.latchLead.commit.lead = [s.latchLead.commit.scopeCode] := by
      rw [hkept.commit]
      rfl
    refine ⟨s.latchLead, rfl, ?_, fun k hin => State.mayRun_of_lead hlead hin, htiles, hkept.dies, hkept.commit⟩
    rw [hkept.phase]
    exact State.fld_withFld_self (State.ordered_of_wf hwf).1 _ _ _ _ (by decide) (by decide)
  · show Host.Outcome.next s.copyEnds = _
    rw [State.copyEnds, ho]
  · have htile (k : Nat) : s.copyEnds.tile k = if o = 64 ∨ s.physOwner k = o then (s.tile k).restart else s.tile k := by
      rw [State.copyEnds_eq ho]
      exact State.tile_restarted (State.ordered_of_wf hwf).2 o k
    obtain ⟨m, hm⟩ : ∃ m, s.restarted o = s.withTiles m := State.forEach_restartTile_rest o _ s
    refine ⟨s.copyEnds, rfl, ?_, fun k => ?_, fun k hk => ?_, ?_⟩
    · rw [State.copyEnds_eq ho, hm]
      rfl
    · rw [htile]
      split <;> exact ⟨rfl, rfl⟩
    · rw [htile, if_pos hk]
      exact ⟨rfl, rfl⟩
    · rw [State.copyEnds_eq ho, hm]
      rfl

end Sys2Proof.Machine
end

section
/-! PROOFS. The scrubber on one word, and the reload of a section (R13, R58, R59). -/

namespace Sys2Proof.Machine

/-! A pass. -/

theorem State.exec_scrubPass {s : State} {d : Nat} (hd : d < 20) (hp : s.scrubPaused d = false) (hr : (s.die d).inReset = false)
    (l : List ScrubUpset) : exec (.scrubPass d l) s = .next (forEach l (fun u s => s.scrubWord d u) s) := by
  have hdue : ¬ (20 ≤ d ∨ s.scrubPaused d ∨ (s.die d).inReset) := by
    simp [hp, hr, hd]
  show Host.Outcome.next (s.scrubPass d l) = _
  rw [State.scrubPass, if_neg hdue]

/-! One word, by its upset copies. -/

section
variable {s : State} {d : Nat} {u : ScrubUpset} (hlen : 8 * u.word < (s.confSec d u.part).length)
include hlen

theorem State.scrubWord_both_bad (ha : u.activeBad = true) (hc : u.checkBad = true) : s.scrubWord d u = (s.reloadSec d u.part).1 := by
  unfold State.scrubWord
  dsimp only
  rw [if_neg (Nat.not_le.2 hlen), if_pos (by simp [ha, hc])]

theorem State.scrubWord_active_bad (ha : u.activeBad = true) (hc : u.checkBad = false) : s.scrubWord d u =
    (s.withSection d u.part (splice (s.confSec d u.part) (8 * u.word) (natLe 8 u.check))).bump Reg.strScrubRepair := by
  unfold State.scrubWord
  dsimp only
  rw [if_neg (Nat.not_le.2 hlen), if_neg (by simp [hc]), if_pos ha]

theorem State.scrubWord_check_bad (ha : u.activeBad = false) (hc : u.checkBad = true) : s.scrubWord d u =
    (s.withSection d u.part (splice (s.confSec d u.part) (8 * u.word) (natLe 8 u.active))).bump Reg.strScrubRepair := by
  unfold State.scrubWord
  dsimp only
  rw [if_neg (Nat.not_le.2 hlen), if_neg (by simp [ha]), if_neg (by simp [ha]), if_pos hc]

/-- Two clean copies that differ, inside or outside the use mask of the word. -/
theorem State.scrubWord_clean (ha : u.activeBad = false) (hc : u.checkBad = false) (hne : u.active % 2 ^ 64 ≠ u.check % 2 ^ 64) :
    s.scrubWord d u =
      let m := s.wordMask d u.part (8 * u.word)
      if (u.active ^^^ u.check) % 2 ^ 64 &&& m.1 = 0 then (s.bump Reg.strScrubBenign).raiseFault (scrubUnit d m.2) 0x06 0 false 15 0
      else ((s.reloadSec d u.part).1.bump Reg.strScrubReload).raiseFault (scrubUnit d m.2) 0x07 2 false 15 0 := by
  unfold State.scrubWord
  dsimp only
  rw [if_neg (Nat.not_le.2 hlen), if_neg (by simp [ha]), if_neg (by simp [ha]), if_neg (by simp [hc]), if_neg hne]

end

/-! Reload. -/

/-- Neither stack holds the section: the die is fenced with its stops isolated. -/
theorem State.reloadSec_lost {s s1 s2 : State} {d : Nat} {c : ConfigPart} (h0 : s.retained 0 d c = (s1, none))
    (h6 : s1.retained 6 d c = (s2, none)) : s.reloadSec d c =
      ((((s2.modDie d fun x => { x with fenced := true }).closeDie d).bump Reg.strScrubFail).raiseFault (Unit6.ofDie d) 0x08 2 true 15 0, false) := by
  rw [State.reloadSec, h0]
  dsimp only
  rw [h6]

/-- A reload fails, or puts in both copies what M0 or else M6 holds. -/
theorem State.reloadSec_cases (s : State) (d : Nat) (c : ConfigPart) : (s.reloadSec d c).2 = false ∨
    ∃ s1 b, (s.retained 0 d c = (s1, some b) ∨ (s.retained 0 d c).1.retained 6 d c = (s1, some b)) ∧
      s.reloadSec d c = (s1.withSection d c b, true) := by
  rcases h0 : s.retained 0 d c with ⟨s1, _ | b⟩
  · rcases h6 : s1.retained 6 d c with ⟨s2, _ | b⟩
    · left
      rw [State.reloadSec_lost h0 h6]
    · refine .inr ⟨s2, b, .inr rfl, ?_⟩
      simp only [State.reloadSec, h0, h6]
  · refine .inr ⟨s1, b, .inl rfl, ?_⟩
    simp only [State.reloadSec, h0]

/-- Settles O16: the upset copies of the word case by case, then the reload. -/
theorem scrubWord : Obligations.ScrubWord := by
  unfold Obligations.ScrubWord
  intro s d u hd hp hr hlen
  have hpass : exec (.scrubPass d [u]) s = .next (s.scrubWord d u) := State.exec_scrubPass hd hp hr [u]
  refine ⟨State.exec_scrubPass hd hp hr, fun ha hc => ?_, fun ha hc => ?_, fun ha hc hne => ⟨fun hm => ?_, fun hm => ?_⟩, fun ha hc => ?_,
    fun s1 s2 h0 h6 => State.reloadSec_lost h0 h6, s.reloadSec_cases d u.part⟩
  · rw [hpass, State.scrubWord_active_bad hlen ha hc]
  · rw [hpass, State.scrubWord_check_bad hlen ha hc]
  · rw [hpass, State.scrubWord_clean hlen ha hc hne]
    exact congrArg Host.Outcome.next (if_pos hm)
  · rw [hpass, State.scrubWord_clean hlen ha hc hne]
    exact congrArg Host.Outcome.next (if_neg hm)
  · rw [hpass, State.scrubWord_both_bad hlen ha hc]

end Sys2Proof.Machine
end

section
/-! PROOFS. The order of TOPK: values by rank, and the ranking of which it keeps the first values (R113). -/

namespace Sys2Proof.Machine

/-! The order of values (R113). -/

/-- Where a value stands in the order of TOPK: infinities around the finite values, those by their value and -0 below +0, and NaN above all. -/
def Num.rank : Num → ℤ ×ₗ ℚ ×ₗ Bool
  | .nan => toLex (2, toLex (0, true))
  | .inf neg => toLex (if neg then -1 else 1, toLex (0, true))
  | .fin neg n d => toLex (0, toLex ((if neg then -(n : ℚ) else n) / d, !(neg && n == 0)))

/-- A finite value is a fraction of a positive denominator. -/
def Num.Proper (x : Num) : Prop := ∀ a n d, x = .fin a n d → 0 < d

/-- Signed fractions compare as their cross products. -/
theorem signedFrac_lt (a b : Bool) (n m : Nat) {d k : Nat} (hd : 0 < d) (hk : 0 < k) :
    (if a then -(n : ℚ) else n) / d < (if b then -(m : ℚ) else m) / k ↔
      (if a then -(n : Int) else n) * k < (if b then -(m : Int) else m) * d := by
  rw [div_lt_div_iff₀ (Nat.cast_pos.2 hd) (Nat.cast_pos.2 hk)]
  cases a <;> cases b <;> exact_mod_cast Iff.rfl

/-- Of equal signed fractions, both are zero or none is. -/
theorem signedFrac_zero {a b : Bool} {n m d k : Nat} (hd : 0 < d) (hk : 0 < k)
    (h : (if a then -(n : ℚ) else n) / d = (if b then -(m : ℚ) else m) / k) : n = 0 ↔ m = 0 := by
  rw [div_eq_div_iff (Nat.cast_ne_zero.2 hd.ne') (Nat.cast_ne_zero.2 hk.ne')] at h
  constructor
  · rintro rfl
    cases b <;> simpa [hd.ne'] using h
  · rintro rfl
    cases a <;> simpa [hk.ne'] using h

/-- Finite values are in order by value, and -0 is below +0. -/
theorem Num.ltZ_fin_iff {a b : Bool} {n m d k : Nat} (hd : 0 < d) (hk : 0 < k) :
    (Num.fin a n d).ltZ (.fin b m k) = true ↔ (Num.fin a n d).rank < (Num.fin b m k).rank := by
  have hzero : ((Num.fin a n d).isZero && (Num.fin b m k).isZero && a && !b) = true ↔ n = 0 ∧ m = 0 ∧ a = true ∧ b = false := by
    rcases n with _ | n <;> rcases m with _ | m <;> simp [Num.isZero]
  simp only [Num.rank, Prod.Lex.toLex_lt_toLex, lt_irrefl, false_or, true_and, signedFrac_lt a b n m hd hk]
  rw [Num.ltZ, Bool.or_eq_true]
  refine or_congr (by simp [Num.lt]) (hzero.trans ⟨?_, fun ⟨heq, hlt⟩ => ?_⟩)
  · rintro ⟨rfl, rfl, rfl, rfl⟩
    simp
  · have hnm := signedFrac_zero hd hk heq
    obtain ⟨⟨ha, hn⟩, hb⟩ : (a = true ∧ n = 0) ∧ (b = false ∨ m ≠ 0) := by simpa [Bool.lt_iff] using hlt
    exact ⟨hn, hnm.1 hn, ha, hb.resolve_right (not_not.2 (hnm.1 hn))⟩

/-- The order of MIN, MAX and TOPK is that of the ranks, where no value is NaN. -/
theorem Num.ltZ_iff {x y : Num} (hx : x.Proper) (hy : y.Proper) (hnx : x ≠ .nan) (hny : y ≠ .nan) :
    x.ltZ y = true ↔ x.rank < y.rank := by
  match x, y with
  | .inf a, .inf b => cases a <;> cases b <;> simp [Num.ltZ, Num.lt, Num.isZero, Num.rank, Prod.Lex.toLex_lt_toLex]
  | .inf a, .fin _ _ _ => cases a <;> simp [Num.ltZ, Num.lt, Num.isZero, Num.rank, Prod.Lex.toLex_lt_toLex]
  | .fin _ _ _, .inf b => cases b <;> simp [Num.ltZ, Num.lt, Num.isZero, Num.rank, Prod.Lex.toLex_lt_toLex]
  | .fin _ _ _, .fin _ _ _ => exact Num.ltZ_fin_iff (hx _ _ _ rfl) (hy _ _ _ rfl)

/-- Every value but NaN ranks below NaN. -/
theorem Num.rank_lt_nan (x : Num) : x.rank < Num.nan.rank ↔ x ≠ .nan := by
  rcases x with _ | (_ | _) | _ <;> simp [Num.rank, Prod.Lex.toLex_lt_toLex]

theorem Num.isNan_iff {x : Num} : x.isNan = true ↔ x = .nan := by
  cases x <;> simp [Num.isNan]

/-- TOPK's order of values is the order of their ranks. -/
theorem ranksAbove_iff {x y : Num} (hx : x.Proper) (hy : y.Proper) : ranksAbove x y = true ↔ y.rank < x.rank := by
  by_cases hnx : x = .nan
  · subst hnx
    rw [Num.rank_lt_nan, ranksAbove, if_pos (Num.isNan_iff.2 rfl), Bool.not_eq_true', ← Bool.not_eq_true, Num.isNan_iff]
  · rw [ranksAbove, if_neg (Num.isNan_iff.not.2 hnx), Bool.and_eq_true, Bool.not_eq_true', ← Bool.not_eq_true, Num.isNan_iff]
    by_cases hny : y = .nan
    · subst hny
      simpa using ((Num.rank_lt_nan x).2 hnx).le
    · rw [Num.ltZ_iff hy hx hny hnx]
      exact and_iff_right hny

theorem ranksAbove_eq_false_iff {x y : Num} (hx : x.Proper) (hy : y.Proper) : ranksAbove x y = false ↔ x.rank ≤ y.rank := by
  rw [← Bool.not_eq_true, ranksAbove_iff hx hy, not_lt]

/-! The ranking of all values, of which TOPK keeps the first `k` (R113). -/

/-- All values with their indices, largest first. -/
def ranking (v : List Num) : List (Nat × Num) := v.zipIdx.foldl (fun l x => insertTop (x.2, x.1) l) []

/-- `p` stands before `q`: it ranks above `q`, or as `q` with a lower index. -/
def Ahead (p q : Nat × Num) : Prop := ranksAbove p.2 q.2 = true ∨ (ranksAbove q.2 p.2 = false ∧ p.1 < q.1)

theorem ranking_nil : ranking [] = [] := rfl

/-- The last value is inserted in the ranking of those before it. -/
theorem ranking_concat (v : List Num) (x : Num) : ranking (v ++ [x]) = insertTop (v.length, x) (ranking v) := by
  simp [ranking, List.zipIdx_append, List.foldl_append]

/-- What the first `k` are after an insertion depends only on what they were. -/
theorem insertTop_take (x : Nat × Num) (k : Nat) (l : List (Nat × Num)) : (insertTop x (l.take k)).take k = (insertTop x l).take k := by
  induction l generalizing k with
  | nil => simp
  | cons y l ih =>
    cases k with
    | zero => rfl
    | succ k =>
      rw [List.take_succ_cons, insertTop, insertTop]
      split
      · cases k <;> simp [List.take_take]
      · rw [List.take_succ_cons, List.take_succ_cons, ih]

/-- TOPK keeps the first `k` of the ranking. -/
theorem topK_eq_take (k : Nat) (v : List Num) : topK k v = (ranking v).take k := by
  induction v using List.reverseRecOn with
  | nil => simp [topK, ranking_nil]
  | append_singleton v x ih =>
    rw [ranking_concat, ← insertTop_take, ← ih]
    simp [topK, List.zipIdx_append, List.foldl_append]

/-- An insertion adds its value, and no other. -/
theorem insertTop_perm (x : Nat × Num) (l : List (Nat × Num)) : (insertTop x l).Perm (x :: l) := by
  induction l with
  | nil => exact .refl _
  | cons y l ih =>
    rw [insertTop]
    split
    · exact .refl _
    · exact (ih.cons y).trans (.swap x y l)

/-- The ranking holds each value once, with its index. -/
theorem ranking_perm (v : List Num) : (ranking v).Perm (v.zipIdx.map Prod.swap) := by
  induction v using List.reverseRecOn with
  | nil => exact .refl _
  | append_singleton v x ih =>
    rw [ranking_concat, List.zipIdx_append, List.map_append]
    refine (insertTop_perm _ _).trans ((ih.cons _).trans ?_)
    simpa using (List.perm_append_singleton _ _).symm

theorem length_ranking (v : List Num) : (ranking v).length = v.length := by
  simpa using (ranking_perm v).length_eq

theorem mem_ranking {v : List Num} {p : Nat × Num} : p ∈ ranking v ↔ v[p.1]? = some p.2 := by
  rw [(ranking_perm v).mem_iff, List.mem_map_swap, List.mem_zipIdx_iff_getElem?]

/-- What stands behind a value ranks no higher. -/
theorem Ahead.rank_le {p q : Nat × Num} (hp : p.2.Proper) (hq : q.2.Proper) (h : Ahead p q) : q.2.rank ≤ p.2.rank := by
  rcases h with h | ⟨h, -⟩
  · exact ((ranksAbove_iff hp hq).1 h).le
  · exact (ranksAbove_eq_false_iff hq hp).1 h

/-- The value of a higher index goes behind those that it does not rank above. -/
theorem insertTop_pairwise {x : Nat × Num} {l : List (Nat × Num)} (hl : l.Pairwise Ahead) (hidx : ∀ y ∈ l, y.1 < x.1)
    (hx : x.2.Proper) (hp : ∀ y ∈ l, y.2.Proper) : (insertTop x l).Pairwise Ahead := by
  induction l with
  | nil => exact List.pairwise_singleton _ _
  | cons y l ih =>
    obtain ⟨hy, hl'⟩ := List.pairwise_cons.1 hl
    obtain ⟨hxy, hidx'⟩ := List.forall_mem_cons.1 hidx
    obtain ⟨hpy, hp'⟩ := List.forall_mem_cons.1 hp
    rw [insertTop]
    split
    case isTrue habove =>
      refine List.pairwise_cons.2 ⟨List.forall_mem_cons.2 ⟨.inl habove, fun z hz => .inl ?_⟩, hl⟩
      have hle := (hy z hz).rank_le hpy (hp' z hz)
      exact (ranksAbove_iff hx (hp' z hz)).2 (hle.trans_lt ((ranksAbove_iff hx hpy).1 habove))
    case isFalse hnot =>
      refine List.pairwise_cons.2 ⟨fun z hz => ?_, ih hl' hidx' hp'⟩
      rcases List.mem_cons.1 ((insertTop_perm x l).mem_iff.1 hz) with rfl | hz
      · exact .inr ⟨by simpa using hnot, hxy⟩
      · exact hy z hz

/-- The ranking of proper values is in order. -/
theorem ranking_pairwise {v : List Num} (hv : ∀ x ∈ v, x.Proper) : (ranking v).Pairwise Ahead := by
  induction v using List.reverseRecOn with
  | nil => exact .nil
  | append_singleton v x ih =>
    rw [List.forall_mem_append, List.forall_mem_singleton] at hv
    rw [ranking_concat]
    refine insertTop_pairwise (ih hv.1) (fun y hy => ?_) hv.2 fun y hy => ?_
    · exact (List.getElem?_eq_some_iff.1 (mem_ranking.1 hy)).1
    · exact hv.1 _ (List.mem_of_getElem? (mem_ranking.1 hy))

/-- TOPK gives `k` of the values with their indices, or all where there are fewer. -/
theorem topK_spec (k : Nat) (v : List Num) : (topK k v).length = min k v.length ∧ ∀ p ∈ topK k v, v[p.1]? = some p.2 := by
  rw [topK_eq_take]
  exact ⟨by rw [List.length_take, length_ranking], fun p hp => mem_ranking.1 (List.mem_of_mem_take hp)⟩

/-- TOPK gives proper values in order. -/
theorem topK_pairwise (k : Nat) {v : List Num} (hv : ∀ x ∈ v, x.Proper) : (topK k v).Pairwise Ahead := by
  rw [topK_eq_take]
  exact (ranking_pairwise hv).sublist (List.take_sublist _ _)

/-- A proper value that TOPK leaves out ranks above none that it gives. -/
theorem topK_left_out {k i : Nat} {v : List Num} {x : Num} (hv : ∀ x ∈ v, x.Proper) (hx : v[i]? = some x)
    (hi : ∀ p ∈ topK k v, p.1 ≠ i) : ∀ p ∈ topK k v, ranksAbove x p.2 = false := by
  intro p hp
  have hpv : p.2.Proper := hv _ (List.mem_of_getElem? ((topK_spec k v).2 p hp))
  have hxv : x.Proper := hv x (List.mem_of_getElem? hx)
  have hmem : (i, x) ∈ ranking v := mem_ranking.2 hx
  have hord := ranking_pairwise hv
  rw [← List.take_append_drop k (ranking v), ← topK_eq_take] at hmem hord
  have hdrop : (i, x) ∈ (ranking v).drop k := (List.mem_append.1 hmem).resolve_left fun h => hi _ h rfl
  obtain ⟨-, -, hbehind⟩ := List.pairwise_append.1 hord
  exact (ranksAbove_eq_false_iff hxv hpv).2 ((hbehind p hp _ hdrop).rank_le hpv hxv)

end Sys2Proof.Machine
end

section
/-! PROOFS. The conversions of the vector engine: CVT, TOPK and STSUM (R76, R80, R82, R113, R126, R414). -/

namespace Sys2Proof.Machine

/-! How iterations and actions end where they raise an exception. -/

/-- An iteration whose body raises an exception gives the queues back, keeps what else the body did, and raises it. -/
theorem iterate_exc {s s' : State} {t c op k w : Nat} {d : Bytes} {body : Run → It (State → State)} (h : s.iterates t c d) (ho : dOp d = op)
    (hb : body (s.runNow t c d) s = .error (.exc k w) s') :
    s.iterate t c op body = (s'.unread s t).raiseExc t c ⟨k, false, dIdx d (s.ctx t c).iter, w⟩ false := by
  obtain ⟨hrun, hready⟩ := h
  subst ho
  unfold State.iterate State.runBody
  rw [hrun]
  simp only [hready, if_true, Bool.false_eq_true, if_false]
  rw [hb]
  rfl

/-- An action that halts ends there. -/
theorem bind_error {α β : Type} {m : It α} {k : α → It β} {s s' : State} {x : Halt} (h : m s = .error x s') :
    (m >>= k) s = .error x s' := by
  show EStateM.bind m k s = _
  unfold EStateM.bind
  rw [h]

/-- Flags that NAN_TRAP takes are set, and raise its exception. -/
theorem trapNan_traps {e : Run} {t fl : Nat} {s : State} (h : nanTraps e.mode fl = true) :
    trapNan e t fl s = .error (.exc 0x09 0) (s.modTile t (·.cvtFlags fl)) := by
  unfold trapNan
  rw [if_pos h]
  rfl

/-- Results whose flags NAN_TRAP takes are not written. -/
theorem emit_traps {e : Run} {enc : Rnd → Num → Nat × Nat} {v : List (Num × Bool)} {s : State}
    (h : nanTraps e.mode (flagsOf (encoded e enc v)) = true) :
    emit e enc v s = .error (.exc 0x09 0) (s.modTile e.t (·.cvtFlags (flagsOf (encoded e enc v)))) :=
  bind_error (trapNan_traps h)

/-! CVT (R76, R82). -/

/-- CVT to an unscaled format encodes the scaled values of its source, and what it read joins the summary; where NAN_TRAP takes the flags, it
writes nothing. -/
theorem cvtBody_unscaled {e : Run} {s s1 s2 : State} {a : Bytes} {sc : Scales} (hp : vecPlaced s e) (h0 : (opD e.d).scale = 0)
    (hr : readOpnd e (opA e.d) s = .ok a s1) (hs : readScales e (opA e.d) s1 = .ok sc s2) :
    let rs := encoded e (encodeNum (opD e.d).elem) ((valuesOf (opA e.d) (codes (opA e.d).elem a)).mapIdx (e.scaled (opA e.d) sc))
    (nanTraps e.mode (flagsOf rs) = false → ∀ {w s3}, writeOpnd e (opD e.d) (packed e rs) s2 = .ok w s3 →
      cvtBody e s = .ok (fun s => gatherSum e (codes (opA e.d).elem a) ((w s).modTile e.t (·.cvtFlags (flagsOf rs)))) s3) ∧
    (nanTraps e.mode (flagsOf rs) = true → cvtBody e s = .error (.exc 0x09 0) (s2.modTile e.t (·.cvtFlags (flagsOf rs)))) := by
  intro rs
  unfold cvtBody
  dsimp only
  rw [bind_ok hp, bind_ok (readCodes_ok hr), bind_ok hs, if_pos h0]
  exact ⟨fun hn _ _ hw => bind_ok (emit_ok hn hw), fun hn => bind_error (emit_traps hn)⟩

/-- CVT to a scaled format converts block by block, and writes the codes and the fine scales, where NAN_TRAP takes no flag. -/
theorem cvtBody_scaled {e : Run} {s s1 s2 s3 s4 s5 : State} {a : Bytes} {sc : Scales} {x : Num} {w f : State → State}
    (hp : vecPlaced s e) (h0 : (opD e.d).scale ≠ 0) (hr : readOpnd e (opA e.d) s = .ok a s1) (hs : readScales e (opA e.d) s1 = .ok sc s2)
    (hx : destCoarse e (opD e.d) s2 = .ok x s3) :
    let v := (valuesOf (opA e.d) (codes (opA e.d).elem a)).mapIdx (e.scaled (opA e.d) sc)
    let bs := (blocksOfRows ((opD e.d).grid e.d e.idx).col (opD e.d).cols (v.map (·.1))).map fun b =>
      convertBlock (opD e.d).elem (opD e.d).scale (fun i => rndOf e.mode (dSeed e.d) (e.j * (opD e.d).count + b.1 + i)) x b.2
    let fl := bs.foldl (fun f b => f ||| b.2.2) (if v.any (·.2) then fNanGen else 0)
    nanTraps e.mode fl = false → writeOpnd e (opD e.d) (pack (elemBits (opD e.d).elem) (bs.flatMap (·.2.1))) s3 = .ok w s4 →
      writeRows e (opD e.d).space (e.fineRuns (opD e.d)) (bs.map fun b => BitVec.ofNat 8 b.1) s4 = .ok f s5 →
      cvtBody e s = .ok (fun s => gatherSum e (codes (opA e.d).elem a) ((f (w s)).modTile e.t (·.cvtFlags fl))) s5 := by
  intro v bs fl hn hw hf
  unfold cvtBody
  dsimp only
  rw [bind_ok hp, bind_ok (readCodes_ok hr), bind_ok hs, if_neg h0, bind_ok hx]
  exact (bind_ok (trapNan_ok hn)).trans ((bind_ok hw).trans (bind_ok hf))

/-! TOPK and STSUM (R113, R126). -/

/-- TOPK writes the values that it gives to D, encoded once, and their indices to B. -/
theorem topkBody_ok {e : Run} {s s1 s2 s3 : State} {a : Bytes} {w x : State → State} (hp : vecPlaced s e)
    (hr : readOpnd e (opA e.d) s = .ok a s1) :
    let l := topK (dImmBits e.d 8 0) (valuesOf (opA e.d) (codes (opA e.d).elem a))
    let rs := encoded e (encodeNum (opD e.d).elem) (l.map fun x => (x.2, false))
    nanTraps e.mode (flagsOf rs) = false → writeOpnd e (opD e.d) (packed e rs) s1 = .ok w s2 →
      writeOpnd e (opB e.d) (l.flatMap fun x => natLe 4 x.1) s2 = .ok x s3 →
      topkBody e s = .ok (fun s => x ((w s).modTile e.t (·.cvtFlags (flagsOf rs)))) s3 := by
  intro l rs hn hw hx
  unfold topkBody
  rw [bind_ok hp, bind_ok (readCodes_ok hr)]
  exact (bind_ok (emit_ok hn hw)).trans (bind_ok hx)

/-- STSUM stores a slot that is not due for a write. -/
theorem stsumBody_ok {e : Run} {s s1 : State} {w : State → State} (hp : vecPlaced s e)
    (hm : (mapGet Summary.empty (dSumSlot e.d) (s.tile e.t).sums).ready = false)
    (hw : writeAt e (opD e.d).space (e.at (opD e.d)) (mapGet Summary.empty (dSumSlot e.d) (s.tile e.t).sums).bytes s = .ok w s1) :
    stsumBody e s = .ok w s1 := by
  unfold stsumBody
  rw [bind_ok hp, get_bind]
  dsimp only
  rw [if_neg (by simp [hm])]
  exact hw

/-- Settles O26: by what the body of each opcode answers, and by the ranking of which TOPK keeps the first values. -/
theorem vectorConversions : Obligations.VectorConversions := by
  refine ⟨fun s s1 s2 s3 t c d a sc w ho hit h0 hp hr hs => ⟨fun hn hw => ?_, fun hn => ?_⟩,
    fun s s1 s2 s3 s4 s5 t c d a sc x w f ho hit h0 hp hr hs hx hn hw hf => ?_,
    fun s s1 s2 s3 t c d a w x ho hit hp hr hn hw hx => ?_, fun s s1 t c d w ho hit hp hm hw => ?_,
    fun k v => ⟨topK_spec k v, fun hv => ⟨topK_pairwise k hv, fun i x => topK_left_out hv⟩⟩⟩
  · exact congrArg _ (iterate_ok hit ho ((cvtBody_unscaled hp h0 hr hs).1 hn hw))
  · exact congrArg _ (iterate_exc hit ho ((cvtBody_unscaled hp h0 hr hs).2 hn))
  · exact congrArg _ (iterate_ok hit ho (cvtBody_scaled hp h0 hr hs hx hn hw hf))
  · exact congrArg _ (iterate_ok hit ho (topkBody_ok hp hr hn hw hx))
  · exact congrArg _ (iterate_ok hit ho (stsumBody_ok hp hm hw))

end Sys2Proof.Machine
end

section
/-! PROOFS. The gang engine: MMA, PRUNE and the resumption of a held gang (R86, R92, R97, R101, R105, R120, R122). -/

namespace Sys2Proof.Machine

/-! Actions over lists. -/

/-- An action that changes nothing and succeeds on each element of a list succeeds on the list. -/
theorem mapM_ok {α : Type} {f : α → It Unit} {s : State} : ∀ {l : List α}, (∀ a ∈ l, f a s = .ok () s) → ∃ b, l.mapM f s = .ok b s
  | [], _ => ⟨[], by rw [List.mapM_nil]; rfl⟩
  | a :: l, h => by
    obtain ⟨b, hb⟩ := mapM_ok fun x hx => h x (List.mem_cons_of_mem a hx)
    refine ⟨() :: b, ?_⟩
    rw [List.mapM_cons, bind_ok (h a (List.mem_cons_self ..)), bind_ok hb]
    rfl

/-- A check that an iteration makes in some cases only, and that passes, stops nothing. -/
theorem check_ok {β : Type} {c : Prop} [Decidable c] {m : It PUnit} {k : It β} {s : State} (h : c → m s = .ok ⟨⟩ s) :
    (if c then m >>= fun _ => k else k) s = k s := by
  split
  · exact bind_ok (h ‹c›)
  · rfl

/-- A change of the state that an iteration makes in some cases only. -/
theorem change_ok {β : Type} {c : Prop} [Decidable c] {f : State → State} {k : It β} {s : State} :
    (if c then (modify f : It PUnit) >>= fun _ => k else k) s = k (if c then f s else s) := by
  split <;> rfl

/-! Members. -/

/-- What holds of no member of any row holds of none of the gang. -/
theorem any_rows_false {rows : List (List Run)} {p : Run → Bool} (h : ∀ r ∈ rows, ∀ m ∈ r, p m = false) :
    (rows.any fun r => r.any p) = false := by
  simp only [List.any_eq_false, Bool.not_eq_true]
  exact h

/-! MMA. -/

/-- Outputs whose conversion NAN_TRAP does not take stop nothing. -/
theorem trapOutputs_ok {e : Run} {l : List (Run × List (OutVal × Nat × Nat))} {s : State}
    (h : ∀ r ∈ l, nanTraps e.mode (convertFlags r.2) = false) : trapOutputs e l s = .ok () s := by
  unfold trapOutputs
  rw [if_neg (by simpa using h)]
  rfl

/-- The number of 16-column units beside each other in a pass (R98). -/
def columnUnits (d : Bytes) : Nat := if (opB d).sparse = 2 then max 1 (ceilDiv (dCols d) 16) else 1

/-- An iteration of MMA that reads its operands, finds its carries, may hold its partials and traps no NaN delivers its units. -/
theorem mmaBody_ok {e : Run} {s s1 s2 : State} {x : MmaRun} (hspec : e.spec = false)
    (hm : ∀ r ∈ s.gangRows e, ∀ m ∈ r, s.memberLost m.t = false ∧ s.mayRun m.t = true) (hh : (s.tile e.t).gangHeld = false)
    (hr : mmaRead e (s.gangRows e) s = .ok x s1)
    (hcarry : (passEnds e.d e.idx).1 = true → bit (dImm e.d) 3 = true → ∀ r ∈ x.south,
      8 * (opA e.d).rows * colN e.d r.2 ≤ (s.tile (nth (nth (s.gangRows e) 0 []) r.2 e).t).carryIn.length)
    (hcan : (kLevel e.d).isSome = true → ∀ r ∈ x.south, canWrite r.1 1 [heldRun e.d e.j r.2] s1 = .ok () s1)
    (hnan : (passEnds e.d e.idx).2 = true → ∀ r ∈ mmaConvert x e ((mmaOutputs x e s).map fun r =>
      (r.1, r.2.filter fun o => (s.ctx e.home e.c).part ≤ o.m / 16 * columnUnits e.d + o.n / 16)), nanTraps e.mode (convertFlags r.2) = false)
    (hd : deliverFrom x e (mmaOutputs x e s) (columnUnits e.d) (ceilDiv (opA e.d).rows 16 * columnUnits e.d - (s.ctx e.home e.c).part)
      (s.ctx e.home e.c).part (if e.j = 0 ∧ (s.ctx e.home e.c).part = 0 then resetHeldPorts (s.gangRows e) s1 else s1) = .ok () s2) :
    mmaBody e s = .ok (fun s' => (storeHeld x e (mmaOutputs x e s) (takeStreams x e s')).modTile e.t fun y => { y with staged := false }) s2 := by
  have hwhole : (!(s.gangRows e).any fun r => r.any fun m => s.memberLost m.t) = true := by
    rw [any_rows_false fun r hr m hm' => (hm r hr m hm').1]
    rfl
  have hrun : ((s.tile e.t).gangHeld || (s.gangRows e).any fun r => r.any fun m => !s.mayRun m.t) = false := by
    rw [hh, any_rows_false fun r hr m hm' => by rw [(hm r hr m hm').2]; rfl]
    rfl
  have hcarries : ¬ (((passEnds e.d e.idx).1 = true ∧ bit (dImm e.d) 3 = true) ∧ (x.south.any fun r =>
      decide ((s.tile (nth (nth (s.gangRows e) 0 []) r.2 e).t).carryIn.length < 8 * (opA e.d).rows * colN e.d r.2)) = true) := by
    rintro ⟨⟨hfirst, hbit⟩, hshort⟩
    obtain ⟨r, hr, hlt⟩ := List.any_eq_true.1 hshort
    exact absurd (of_decide_eq_true hlt) (Nat.not_lt.2 (hcarry hfirst hbit r hr))
  unfold columnUnits at hnan hd
  unfold mmaBody
  rw [get_bind]
  dsimp only
  rw [bind_ok (need_ok hwhole), if_neg (by simp [hrun]), if_neg (by simp [hspec]), bind_ok hr, if_neg hcarries,
    check_ok fun hk => discard_ok (mapM_ok (hcan hk)).choose_spec, check_ok fun hlast => trapOutputs_ok (hnan hlast), change_ok]
  exact (bind_ok hd).trans rfl

/-! PRUNE. -/

/-- PRUNE whose operand can be read writes it in doubly structured form, with its scales, if it has any, behind it (R97, R101). -/
theorem pruneBody_ok {e : Run} {s s1 s2 s3 : State} {x : Bytes × Bytes × Bytes} {w : State → State}
    (hm : ∀ r ∈ s.gangRows e, ∀ m ∈ r, s.memberLost m.t = false) (hr : readDenseOperand e (opA e.d) s = .ok x s1) :
    let out := pruneAll (opA e.d).elem (opA e.d).rows (opA e.d).cols (codes (opA e.d).elem x.1)
    let base := (opD e.d).region e.d e.args out.length
    let cells := (((opA e.d).grid e.d e.idx).turned ((opA e.d).depth e.d)).cells base (opA e.d).cols (opA e.d).rows
    writeAt e (opD e.d).space (e.at (opD e.d)) out s1 = .ok w s2 →
    ((opA e.d).scale = 0 → pruneBody e s = .ok w s2) ∧
      ((opA e.d).scale = 1 → ∀ {f g s4}, writeAt e (opD e.d).space base x.2.1 s2 = .ok f s3 → writeRows e (opD e.d).space cells x.2.2 s3 = .ok g s4 →
        pruneBody e s = .ok (fun s => g (f (w s))) s4) ∧
      ((opA e.d).scale ≠ 0 → (opA e.d).scale ≠ 1 → ∀ {g}, writeRows e (opD e.d).space cells x.2.2 s2 = .ok g s3 →
        pruneBody e s = .ok (fun s => g (w s)) s3) := by
  intro out base cells hw
  have hwhole : (!(s.gangRows e).any fun r => r.any fun m => s.memberLost m.t) = true := by
    rw [any_rows_false hm]
    rfl
  unfold pruneBody
  rw [get_bind]
  dsimp only
  rw [bind_ok (need_ok hwhole), bind_ok hr, bind_ok hw]
  refine ⟨fun h0 => ?_, fun h1 {f g s4} hf hg => ?_, fun h0 h1 {g} hg => ?_⟩
  · rw [if_pos h0]
    rfl
  · rw [if_neg (by omega), if_pos h1]
    exact (bind_ok hf).trans ((bind_ok hg).trans rfl)
  · rw [if_neg h0, if_neg h1]
    exact (bind_ok hg).trans rfl

/-! The resumption of a held gang. -/

/-- The south members of the gang of an origin that write outputs of its descriptor. -/
def State.southTiles (s : State) (t : Nat) : List Nat :=
  let g := s.gangRec (s.logicalOf t)
  ((List.range (gangSide g)).filter fun j => colN (s.gangDesc t) j != 0).map fun j => s.phys (gangTile (s.logicalOf t / 2048) g (gangSide g - 1) j)

/-- A held gang goes on once the queues of those members have room. -/
theorem State.gangResume_goes {s : State} {t : Nat} (hh : (s.tile t).gangHeld = true) (hroom : ∀ k ∈ s.southTiles t, (s.tile k).ftq.length < 8) :
    s.gangResume t =
      forEach (s.southTiles t) (fun k s => s.traceTile k 5 (natLe 1 0 ++ natLe 1 (s.tile k).ftq.length)) (s.modTile t fun y => { y with gangHeld := false }) :=
  if_pos ⟨hh, List.all_eq_true.2 fun k hk => decide_eq_true (hroom k hk)⟩

/-- A gang that is not held, or one of whose south members has no room, does nothing. -/
theorem State.gangResume_stays {s : State} {t : Nat} (h : (s.tile t).gangHeld = false ∨ ∃ k ∈ s.southTiles t, 8 ≤ (s.tile k).ftq.length) :
    s.gangResume t = s := by
  refine if_neg ?_
  rintro ⟨hh, hroom⟩
  rcases h with hfree | ⟨k, hk, hfull⟩
  · exact Bool.false_ne_true (hfree.symm.trans hh)
  · exact absurd (of_decide_eq_true (List.all_eq_true.1 hroom k hk)) (Nat.not_lt.2 hfull)

/-- Settles O27: by what the body of MMA and of PRUNE answers, and by the test that GANG_RESUME makes. -/
theorem gangOpcodes : Obligations.GangOpcodes := by
  refine fun s s1 s2 s3 s4 t c d => ⟨fun x hit ho hm hh hr hcarry hcan hnan hd => ?_,
    fun x w hit ho hm hr hw => ?_, ⟨fun hh hroom => ?_, fun hfull => ?_⟩⟩
  · exact congrArg _ (iterate_ok hit ho (mmaBody_ok rfl hm hh hr hcarry hcan hnan hd))
  · obtain ⟨hplain, hcoarse, hfine⟩ := pruneBody_ok (s3 := s3) hm hr hw
    exact ⟨fun h0 => congrArg _ (iterate_ok hit ho (hplain h0)), fun h1 f g hf hg => congrArg _ (iterate_ok hit ho (hcoarse h1 hf hg)),
      fun h0 h1 g hg => congrArg _ (iterate_ok hit ho (hfine h0 h1 hg))⟩
  · exact congrArg _ (State.gangResume_goes hh hroom)
  · exact congrArg _ (State.gangResume_stays hfull)

end Sys2Proof.Machine
end

section
/-! PROOFS. Permanent faults: fences of blocks, sectors and dies, lost spares, and POP (R105, R339, R342, R343). -/

namespace Sys2Proof.Machine

/-! Registers that a fence does not count in. -/

/-- A register that is neither the gate of a sector, nor the clock of a block, nor a map of bypasses. -/
structure Passing (a : Nat) : Prop where
  gate : ∀ k, k < 64 → sectorReg k ≠ a
  clock : ∀ b, b < 512 → clkBlockA b ≠ a
  bypass : ∀ d i, d < 16 → i < 16 → dieReg d (Reg.strSegMap i) ≠ a

theorem dieBase_tile {d : Nat} (h : d < 16) : dieBase d = 0x1000000 + d * 0x100000 := if_pos h

theorem sectorReg_eq {k : Nat} (h : k < 64) : sectorReg k = 0x1000000 + k / 4 * 0x100000 + (0x2200 + 8 * (k % 4)) := by
  rw [sectorReg, dieReg, dieBase_tile (by omega), Reg.pwrSector]

theorem clkBlockA_eq {b : Nat} (h : b < 512) : clkBlockA b = 0x1000000 + b / 32 * 0x100000 + (0x2000 + 8 * (b % 32)) := by
  rw [clkBlockA, dieReg, dieBase_tile (by omega), Reg.clkBlock]

theorem segMapReg_eq {d : Nat} (h : d < 16) (i : Nat) : dieReg d (Reg.strSegMap i) = 0x1000000 + d * 0x100000 + (0x100 + 8 * i) := by
  rw [dieReg, dieBase_tile h, Reg.strSegMap]

/-- Registers of the package are below those of the dies. -/
theorem passing_package {a : Nat} (h : a < 0x1000000) : Passing a where
  gate k hk := by rw [sectorReg_eq hk]; omega
  clock b hb := by rw [clkBlockA_eq hb]; omega
  bypass d i hd _ := by rw [segMapReg_eq hd]; omega

/-- The counters of a die that a fence counts in. -/
def dieCounters : List Nat := [Reg.clkWakeCnt, Reg.fltDieTransientCnt, Reg.fltDiePermanentCnt, Reg.peeDropCnt]

theorem passing_dieCounter {off : Nat} (h : off ∈ dieCounters) (d : Nat) : Passing (dieReg d off) := by
  have ho : off = 0x2100 ∨ 0xA000 ≤ off ∧ off < 0x10000 := by
    simp only [dieCounters, List.mem_cons, List.not_mem_nil, or_false] at h
    rcases h with rfl | rfl | rfl | rfl <;> decide
  have hd : dieReg d off = 0x1000000 + d * 0x100000 + off ∨ 0x2000000 ≤ dieReg d off := by
    unfold dieReg dieBase
    split <;> omega
  exact ⟨fun k hk => by rw [sectorReg_eq hk]; omega, fun b hb => by rw [clkBlockA_eq hb]; omega,
    fun e i he hi => by rw [segMapReg_eq he]; omega⟩

theorem passing_faultCounter (u : Unit6) (permanent : Bool) : Passing (faultCounter u permanent) := by
  unfold faultCounter
  split
  · exact passing_package (by cases permanent <;> decide)
  · exact passing_dieCounter (by cases permanent <;> decide) _

theorem clkBlockA_ne {b x : Nat} (hb : b < 512) (hx : x < 512) (h : x ≠ b) : clkBlockA x ≠ clkBlockA b := by
  rw [clkBlockA_eq hb, clkBlockA_eq hx]
  omega

theorem sectorReg_ne_clkBlockA {k b : Nat} (hk : k < 64) (hb : b < 512) : sectorReg k ≠ clkBlockA b := by
  rw [sectorReg_eq hk, clkBlockA_eq hb]
  omega

theorem segMapReg_ne_clkBlockA {d i b : Nat} (hd : d < 16) (hi : i < 16) (hb : b < 512) : dieReg d (Reg.strSegMap i) ≠ clkBlockA b := by
  rw [segMapReg_eq hd, clkBlockA_eq hb]
  omega

theorem segMapReg_ne_sectorReg {d i k : Nat} (hd : d < 16) (hi : i < 16) (hk : k < 64) : dieReg d (Reg.strSegMap i) ≠ sectorReg k := by
  rw [segMapReg_eq hd, sectorReg_eq hk]
  omega

theorem blockSector_lt {b : Nat} (h : b < 512) : blockSector b < 64 := by
  unfold blockSector
  omega

/-! A stop that closes. -/

/-- A stop that has closed, before the messages that it held leave it. -/
def State.shutStop (s : State) (k : Nat) : State := s.modStop k fun x => { x with queue := [], isolated := true }

/-- A message that stop `k` held passes on, or is discarded at a neighbour `near` (R33). -/
def State.messageLeaves (s : State) (k : Nat) (near : Option Nat) (m : MeshFlit) : State :=
  if m.dst ≠ k ∧ ¬ (s.stop (stopNext k (stopRoute k m.dst))).isolated then s.meshPass k (stopRoute k m.dst) m
  else
    match near with
    | some n => s.discardAt n m.f
    | none => s

theorem State.closeStop_eq (s : State) (k : Nat) :
    ∃ near, s.closeStop k = forEach (s.stop k).queue (fun m s => s.messageLeaves k near m) (s.shutStop k) := ⟨_, rfl⟩

/-! The relation. -/

/-- `s` comes from `o` by operations that undo no fence: the dies, the fences of blocks and the gates of sectors stay, the clock of a dead block that
stands stays so, and no stop opens. In a `still` stretch the tiles and the fault records stay too. -/
structure FenceKept (still : Prop) (o s : State) : Prop where
  regsOrd : keysFrom 0 s.regs = true
  meshOrd : keysFrom 0 s.mesh = true
  dies : s.dies = o.dies
  blocks : s.blocks = o.blocks
  clk : s.clk = o.clk
  gate : ∀ k, k < 64 → s.reg (sectorReg k) = o.reg (sectorReg k)
  bypass : ∀ d i, d < 16 → i < 16 → s.reg (dieReg d (Reg.strSegMap i)) = o.reg (dieReg d (Reg.strSegMap i))
  stopped : ∀ b, b < 512 → o.blockDead b = true → o.fld (clkBlockA b) 12 0 = 0 → s.fld (clkBlockA b) 12 0 = 0
  isolated : ∀ k, (o.stop k).isolated = true → (s.stop k).isolated = true
  tiles : still → s.tiles = o.tiles
  faults : still → s.faults = o.faults

namespace FenceKept

section
variable {q : Prop} {o s : State}

theorem refl (hr : keysFrom 0 s.regs = true) (hm : keysFrom 0 s.mesh = true) : FenceKept q s s :=
  ⟨hr, hm, rfl, rfl, rfl, fun _ _ => rfl, fun _ _ _ _ => rfl, fun _ _ _ h => h, fun _ h => h, fun _ => rfl, fun _ => rfl⟩

theorem block (h : FenceKept q o s) (b : Nat) : s.block b = o.block b := by
  rw [State.block, h.blocks, State.block]

theorem die (h : FenceKept q o s) (d : Nat) : s.die d = o.die d := by
  rw [State.die, h.dies, State.die]

theorem now (h : FenceKept q o s) : s.now = o.now := by
  rw [State.now, h.clk, State.now]

theorem gated (h : FenceKept q o s) {k : Nat} (hk : k < 64) : s.fld (sectorReg k) 16 16 = o.fld (sectorReg k) 16 16 := by
  rw [State.fld, h.gate k hk, State.fld]

theorem blockDead (h : FenceKept q o s) {b : Nat} (hb : b < 512) : s.blockDead b = o.blockDead b := by
  rw [State.blockDead, h.block, h.gated (blockSector_lt hb), State.blockDead]

theorem trans {u : State} (h : FenceKept q o s) (h' : FenceKept q s u) : FenceKept q o u where
  regsOrd := h'.regsOrd
  meshOrd := h'.meshOrd
  dies := h'.dies.trans h.dies
  blocks := h'.blocks.trans h.blocks
  clk := h'.clk.trans h.clk
  gate k hk := (h'.gate k hk).trans (h.gate k hk)
  bypass d i hd hi := (h'.bypass d i hd hi).trans (h.bypass d i hd hi)
  stopped b hb hdead h0 := h'.stopped b hb ((h.blockDead hb).trans hdead) (h.stopped b hb hdead h0)
  isolated k hk := h'.isolated k (h.isolated k hk)
  tiles hq := (h'.tiles hq).trans (h.tiles hq)
  faults hq := (h'.faults hq).trans (h.faults hq)

/-- A still stretch undoes no fence. -/
theorem weaken (h : FenceKept True o s) : FenceKept False o s :=
  { h with tiles := False.elim, faults := False.elim }

theorem ite {a b : State} {c : Prop} [Decidable c] (ha : FenceKept q o a) (hb : FenceKept q o b) : FenceKept q o (if c then a else b) := by
  split <;> assumption

theorem each {α : Type} {f : α → State → State} : ∀ {l : List α} {s : State}, (∀ a ∈ l, ∀ s, FenceKept q o s → FenceKept q o (f a s)) →
    FenceKept q o s → FenceKept q o (forEach l f s)
  | [], _, _, h => h
  | a :: l, s, hf, h => each (l := l) (fun x hx => hf x (List.mem_cons_of_mem a hx)) (hf a (List.mem_cons_self ..) s h)

/-! Setters and registers. -/

/-- A field of the state that no fence speaks of changes. -/
theorem same {u : State} (h : FenceKept q o s) (hr : u.regs = s.regs) (hm : u.mesh = s.mesh) (hd : u.dies = s.dies) (hb : u.blocks = s.blocks)
    (hc : u.clk = s.clk) (ht : q → u.tiles = s.tiles) (hf : q → u.faults = s.faults) : FenceKept q o u := by
  have hreg (a : Nat) : u.reg a = s.reg a := by rw [State.reg, hr, State.reg]
  refine h.trans ⟨hr ▸ h.regsOrd, hm ▸ h.meshOrd, hd, hb, hc, fun _ _ => hreg _, fun _ _ _ _ => hreg _, fun b _ _ h0 => ?_, fun k hk => ?_, ht, hf⟩
  · rw [State.fld, hreg]
    exact h0
  · rw [State.stop, hm]
    exact hk

theorem withOut {x} (h : FenceKept q o s) : FenceKept q o (s.withOut x) := h.same rfl rfl rfl rfl rfl (fun _ => rfl) fun _ => rfl
theorem emit {x} (h : FenceKept q o s) : FenceKept q o (s.emit x) := h.withOut
theorem withMsixPending {x} (h : FenceKept q o s) : FenceKept q o (s.withMsixPending x) := h.same rfl rfl rfl rfl rfl (fun _ => rfl) fun _ => rfl
theorem withGroups {x} (h : FenceKept q o s) : FenceKept q o (s.withGroups x) := h.same rfl rfl rfl rfl rfl (fun _ => rfl) fun _ => rfl
theorem withTraceUnit {k x} (h : FenceKept q o s) : FenceKept q o (s.withTraceUnit k x) := h.same rfl rfl rfl rfl rfl (fun _ => rfl) fun _ => rfl
theorem withTile {k x} (h : FenceKept False o s) : FenceKept False o (s.withTile k x) := h.same rfl rfl rfl rfl rfl False.elim False.elim
theorem modTile {k g} (h : FenceKept False o s) : FenceKept False o (s.modTile k g) := h.withTile
theorem withFaults {x} (h : FenceKept False o s) : FenceKept False o (s.withFaults x) := h.same rfl rfl rfl rfl rfl False.elim False.elim

theorem withReg {a w} (h : FenceKept q o s) (ha : Passing a) : FenceKept q o (s.withReg a w) := by
  refine h.trans ⟨State.withReg_ordered h.regsOrd, h.meshOrd, rfl, rfl, rfl, fun k hk => State.reg_withReg_ne _ (ha.gate k hk),
    fun d i hd hi => State.reg_withReg_ne _ (ha.bypass d i hd hi), fun b hb _ h0 => ?_, fun _ hk => hk, fun _ => rfl, fun _ => rfl⟩
  rw [State.fld, State.reg_withReg_ne _ (ha.clock b hb)]
  exact h0

theorem withFld {a hi lo v} (h : FenceKept q o s) (ha : Passing a) : FenceKept q o (s.withFld a hi lo v) := h.withReg ha

theorem bump {a} (h : FenceKept q o s) (ha : Passing a) : FenceKept q o (s.bump a) := h.withReg ha

/-- The clock of a block changes, which is not dead, or whose clock stands then. -/
theorem withClock {b hi lo v} (h : FenceKept q o s) (hb : b < 512)
    (hc : s.blockDead b = false ∨ (s.withFld (clkBlockA b) hi lo v).fld (clkBlockA b) 12 0 = 0) : FenceKept q o (s.withFld (clkBlockA b) hi lo v) := by
  refine h.trans ⟨State.withFld_ordered h.regsOrd, h.meshOrd, rfl, rfl, rfl, fun k hk => State.reg_withReg_ne _ (sectorReg_ne_clkBlockA hk hb),
    fun d i hd hi => State.reg_withReg_ne _ (segMapReg_ne_clkBlockA hd hi hb), fun x hx hdead h0 => ?_, fun _ hk => hk, fun _ => rfl, fun _ => rfl⟩
  by_cases he : x = b
  · subst he
    exact hc.resolve_left (by simp [hdead])
  · rw [State.fld_withFld_other _ _ _ _ _ (clkBlockA_ne hb hx he)]
    exact h0

/-- The clock of a block stops. -/
theorem stopClock {b} (h : FenceKept q o s) (hb : b < 512) : FenceKept q o (s.withFld (clkBlockA b) 12 0 0) :=
  h.withClock hb (.inr (State.fld_withFld_self h.regsOrd _ _ _ _ (by decide) (by decide)))

theorem modStop {k g} (h : FenceKept q o s) (hg : ∀ x : Stop, x.isolated = true → (g x).isolated = true) : FenceKept q o (s.modStop k g) := by
  refine h.trans ⟨h.regsOrd, keysFrom_mapPut _ _ _ (Nat.zero_le _) h.meshOrd, rfl, rfl, rfl, fun _ _ => rfl, fun _ _ _ _ => rfl, fun _ _ _ h0 => h0,
    fun j hj => ?_, fun _ => rfl, fun _ => rfl⟩
  by_cases he : j = k
  · subst he
    rw [show (s.modStop j g).stop j = g (s.stop j) from mapGet_mapPut_self _ _ _ h.meshOrd]
    exact hg _ hj
  · rw [show (s.modStop k g).stop j = s.stop j from mapGet_mapPut_ne _ _ _ he _]
    exact hj

/-! Interrupts, trace events and fault records. -/

theorem msix {v} (h : FenceKept q o s) : FenceKept q o (s.msix v) := ite h.emit (ite h h.withMsixPending)

theorem raiseIbi {g} (h : FenceKept q o s) : FenceKept q o (s.raiseIbi g) := by
  have hp := h.withReg (a := Reg.porIbiPending) (w := BitVec.ofNat 64 ((s.reg Reg.porIbiPending).toNat ||| 1 <<< (g - 1))) (passing_package (by decide))
  exact ite h (ite hp.emit hp)

theorem raiseFaultIrq (h : FenceKept q o s) : FenceKept q o (s.raiseIrq 0) := by
  have hm := h.withFld (a := Reg.porIrqMap 0) (hi := 12) (lo := 12) (v := 1) (passing_package (by decide))
  exact (ite hm.msix hm).raiseIbi

theorem traceEvent {d source event owner data} (h : FenceKept q o s) : FenceKept q o (s.traceEvent d source event owner data) :=
  ite h (ite (h.bump (passing_dieCounter (by decide) _)).withTraceUnit h.withTraceUnit)

theorem queueFault {r} (h : FenceKept False o s) : FenceKept False o (s.queueFault r) := by
  have irq {u : State} (hu : FenceKept False o u) : FenceKept False o (if u.fld Reg.fltIrqCfg 1 0 ≤ r.severity then u.raiseIrq 0 else u) :=
    ite hu.raiseFaultIrq hu
  have hlost := h.bump (a := Reg.fltRecLostCnt) (passing_package (by decide))
  unfold State.queueFault
  dsimp only
  split
  · exact irq h.withFaults
  · split
    · split
      · exact irq hlost.withFaults
      · exact hlost
    · exact hlost

theorem raiseFault {u cause severity permanent spare detail} (h : FenceKept False o s) :
    FenceKept False o (s.raiseFault u cause severity permanent spare detail) :=
  ite (h.bump (passing_faultCounter ..)).queueFault (h.bump (passing_faultCounter ..)).queueFault.traceEvent

/-! The packet mesh. -/

/-- A message wakes a block that is not dead. -/
theorem wakeBlock {b} (h : FenceKept q o s) (hb : b < 512) : FenceKept q o (s.wakeBlock b) := by
  unfold State.wakeBlock
  split
  · rename_i hw
    obtain ⟨-, hlive, -⟩ := hw
    exact (h.withClock hb (.inl (by simpa using hlive))).traceEvent.bump (passing_dieCounter (by decide) _)
  · exact h

theorem wakeAt {k dst} (h : FenceKept q o s) : FenceKept q o (s.wakeAt k dst) := by
  unfold State.wakeAt
  split
  · rename_i hk
    exact h.wakeBlock hk.2
  · exact h

theorem meshPut {k dst f} (h : FenceKept q o s) : FenceKept q o (s.meshPut k dst f) :=
  wakeAt (modStop h fun _ hx => hx)

theorem meshPass {k d m} (h : FenceKept q o s) : FenceKept q o (s.meshPass k d m) :=
  wakeAt (modStop h fun _ hx => hx)

theorem answerNoRoute {k f} (h : FenceKept q o s) : FenceKept q o (s.answerNoRoute k f) := ite h.meshPut (ite h.withGroups h)

theorem discardAt {k f} (h : FenceKept q o s) : FenceKept q o (s.discardAt k f) :=
  answerNoRoute (modStop h fun _ hx => hx)

theorem messageLeaves {k near m} (h : FenceKept q o s) : FenceKept q o (s.messageLeaves k near m) := by
  refine ite h.meshPass ?_
  cases near with
  | some n => exact h.discardAt
  | none => exact h

theorem shutStop {k} (h : FenceKept q o s) : FenceKept q o (s.shutStop k) := h.modStop fun _ _ => rfl

theorem closeStop {k} (h : FenceKept q o s) : FenceKept q o (s.closeStop k) := by
  obtain ⟨near, hclose⟩ := s.closeStop_eq k
  rw [hclose]
  exact each (fun _ _ _ hu => hu.messageLeaves) h.shutStop

/-! Gangs. -/

theorem tileCount {t ev n} (h : FenceKept False o s) : FenceKept False o (s.tileCount t ev n) := by
  unfold State.tileCount
  split
  · exact h
  · exact ite h (each (fun _ _ _ hu => ite hu.modTile hu) h)

theorem raiseExc {t c e shadow} (h : FenceKept False o s) : FenceKept False o (s.raiseExc t c e shadow) := by
  unfold State.raiseExc State.recordExc
  exact h.modTile.withTile.tileCount.traceEvent.raiseFault.modTile

theorem dropHeld {l g c d} (h : FenceKept False o s) : FenceKept False o (s.dropHeld l g c d) := each (fun _ _ _ hu => hu.modTile) h

theorem gangLost {l} (h : FenceKept False o s) : FenceKept False o (s.gangLost l) := by
  unfold State.gangLost
  split
  · exact h
  · dsimp only
    split
    · exact h
    · split
      · exact h
      · split
        · exact h
        · exact ite h (ite h.dropHeld.raiseExc (ite h.raiseExc h))

theorem stopGangs {l} (h : FenceKept False o s) : FenceKept False o (s.stopGangs l) := each (fun _ _ _ hu => ite hu.gangLost hu) h

end

end FenceKept

/-- A stop that has closed is isolated. -/
theorem State.isolated_closeStop {s : State} (hr : keysFrom 0 s.regs = true) (hm : keysFrom 0 s.mesh = true) (k : Nat) :
    ((s.closeStop k).stop k).isolated = true := by
  have hshut := (FenceKept.refl (q := True) hr hm).shutStop (k := k)
  have hself : ((s.shutStop k).stop k).isolated = true := congrArg Stop.isolated (mapGet_mapPut_self _ _ _ hm)
  obtain ⟨near, hclose⟩ := s.closeStop_eq k
  rw [hclose]
  exact (FenceKept.each (fun _ _ _ hu => hu.messageLeaves) (FenceKept.refl (q := True) hshut.regsOrd hshut.meshOrd)).isolated k hself

/-- Stops that close one after another are isolated. -/
theorem State.isolated_closeStops : ∀ {l : List Nat} {s : State}, keysFrom 0 s.regs = true → keysFrom 0 s.mesh = true →
    ∀ k ∈ l, ((forEach l (fun k s => s.closeStop k) s).stop k).isolated = true
  | [], _, _, _, k, hk => absurd hk List.not_mem_nil
  | j :: l, s, hr, hm, k, hk => by
    have hstep := (FenceKept.refl (q := True) hr hm).closeStop (k := j)
    rcases List.mem_cons.1 hk with rfl | hk
    · have hrest := FenceKept.each (l := l) (f := fun k s => State.closeStop s k) (fun _ _ _ hu => hu.closeStop)
        (FenceKept.refl (q := True) hstep.regsOrd hstep.meshOrd)
      exact hrest.isolated k (State.isolated_closeStop hr hm k)
    · exact State.isolated_closeStops (l := l) hstep.regsOrd hstep.meshOrd k hk

/-! Records. -/

@[simp] theorem State.raiseFault_tiles (s : State) (u : Unit6) (cause severity : Nat) (permanent : Bool) (spare detail : Nat) :
    (s.raiseFault u cause severity permanent spare detail).tiles = s.tiles := by
  have irq (r : FaultRec) (v : State) : (if v.fld Reg.fltIrqCfg 1 0 ≤ r.severity then v.raiseIrq 0 else v).tiles = v.tiles := by
    split <;> simp
  have queue (r : FaultRec) (v : State) : (v.queueFault r).tiles = v.tiles := by
    unfold State.queueFault
    dsimp only
    split
    · exact irq ..
    · split
      · split
        · exact irq ..
        · rfl
      · rfl
  unfold State.raiseFault
  dsimp only
  split
  · exact queue ..
  · rw [State.traceEvent_tiles]
    exact queue ..

/-- A record that the queue has room for comes last in it (R341, R342). -/
theorem State.raiseFault_record {s : State} (hr : keysFrom 0 s.regs = true) (hm : keysFrom 0 s.mesh = true) (h : s.faults.queue.length < 1024) (u : Unit6)
    (cause severity : Nat) (permanent : Bool) (spare detail : Nat) :
    ∃ r, (s.raiseFault u cause severity permanent spare detail).faults.queue = s.faults.queue ++ [r] ∧
      r.cause = cause ∧ r.severity = severity ∧ r.permanent = permanent ∧ r.time = s.now := by
  refine ⟨⟨s.reportAddr u, s.now, cause, severity, permanent, spare, s.ownerEpoch (s.unitOwner u), detail⟩, ?_, rfl, rfl, rfl, rfl⟩
  generalize hrec : FaultRec.mk (s.reportAddr u) s.now cause severity permanent spare (s.ownerEpoch (s.unitOwner u)) detail = r
  let v := (s.bump (faultCounter u permanent)).withFaults { s.faults with queue := s.faults.queue ++ [r] }
  have hv : FenceKept True v v := FenceKept.refl (State.withReg_ordered hr) hm
  have hirq : FenceKept True v (if v.fld Reg.fltIrqCfg 1 0 ≤ r.severity then v.raiseIrq 0 else v) := .ite hv.raiseFaultIrq hv
  have hqueue : (s.bump (faultCounter u permanent)).queueFault r = if v.fld Reg.fltIrqCfg 1 0 ≤ r.severity then v.raiseIrq 0 else v := if_pos h
  unfold State.raiseFault
  dsimp only
  rw [hrec, hqueue]
  exact congrArg Faults.queue ((FenceKept.ite hirq hirq.traceEvent).faults trivial)

/-! Tiles without a gang. -/

/-- Tiles of which none in service is a member of a gang. -/
def State.lone (s : State) (l : List Nat) : Prop := ∀ q ∈ l, s.active q = true → s.gangOf (s.logicalOf q) = none

/-- `u` has the tiles of `s`, in the same places and gangs. -/
structure SamePlaces (s u : State) : Prop where
  tiles : u.tiles = s.tiles
  sections : ∀ d, (u.die d).active = (s.die d).active
  bypass : ∀ d i, d < 16 → i < 16 → u.reg (dieReg d (Reg.strSegMap i)) = s.reg (dieReg d (Reg.strSegMap i))

theorem SamePlaces.trans {s u v : State} (h : SamePlaces s u) (h' : SamePlaces u v) : SamePlaces s v :=
  ⟨h'.tiles.trans h.tiles, fun d => (h'.sections d).trans (h.sections d), fun d i hd hi => (h'.bypass d i hd hi).trans (h.bypass d i hd hi)⟩

theorem FenceKept.places {o s : State} (h : FenceKept True o s) : SamePlaces o s := ⟨h.tiles trivial, fun d => congrArg Die.active (h.die d), h.bypass⟩

theorem SamePlaces.tile {s u : State} (h : SamePlaces s u) (q : Nat) : u.tile q = s.tile q := by
  rw [State.tile, h.tiles, State.tile]

theorem SamePlaces.gangOf {s u : State} (h : SamePlaces s u) (l : Nat) : u.gangOf l = s.gangOf l := by
  unfold State.gangOf State.tileRole State.roleWord
  rw [h.sections]

theorem SamePlaces.logicalOf {s u : State} (h : SamePlaces s u) {q : Nat} (hq : q < 36864) : u.logicalOf q = s.logicalOf q := by
  have hb : u.bypassOf (segFirst q) = s.bypassOf (segFirst q) := by
    have hd : segFirst q / 2048 < 16 := by
      unfold segFirst
      omega
    rw [State.bypassOf, State.fld, h.bypass _ _ hd (by omega), State.bypassOf, State.fld]
  rw [State.logicalOf, h.tile, hb, State.logicalOf]

theorem SamePlaces.lone {s u : State} (h : SamePlaces s u) {l : List Nat} (hl : ∀ q ∈ l, q < 36864) (hs : s.lone l) : u.lone l := by
  intro q hq ha
  rw [h.gangOf, h.logicalOf (hl q hq)]
  exact hs q hq (by rwa [State.active, h.tile, ← State.active] at ha)

/-- A tile that is a member of no gang stops none. -/
theorem State.gangLost_none {s : State} {l : Nat} (h : s.gangOf l = none) : s.gangLost l = s := by
  unfold State.gangLost
  rw [h]

theorem State.stopGangs_lone : ∀ {l : List Nat} {s : State}, s.lone l → s.stopGangs l = s
  | [], _, _ => rfl
  | q :: l, s, h => by
    have hfirst : (if s.active q then s.gangLost (s.logicalOf q) else s) = s := by
      split
      · rename_i ha
        exact State.gangLost_none (h q (List.mem_cons_self ..) ha)
      · rfl
    show State.stopGangs (if s.active q then s.gangLost (s.logicalOf q) else s) l = s
    rw [hfirst]
    exact State.stopGangs_lone fun x hx => h x (List.mem_cons_of_mem q hx)

/-! Places of blocks, sectors and dies. -/

theorem blockPhys_lt {b q : Nat} (hb : b < 512) (h : q ∈ blockPhys b) : q < 36864 := by
  obtain ⟨i, hi, rfl⟩ := List.mem_map.1 h
  have := List.mem_range.1 hi
  omega

theorem diePhys_lt {d q : Nat} (h : q ∈ diePhys d) : q < 36864 := by
  unfold diePhys at h
  split at h
  · obtain ⟨i, hi, rfl⟩ := List.mem_map.1 h
    have := List.mem_range.1 hi
    omega
  · exact absurd h List.not_mem_nil

theorem mem_sectorBlocks {k b : Nat} (hk : k < 64) (h : b ∈ sectorBlocks k) : b < 512 ∧ blockSector b = k := by
  obtain ⟨i, hi, rfl⟩ := List.mem_map.1 h
  have := List.mem_range.1 hi
  unfold blockSector
  omega

/-! What the faults take out. -/

theorem forEach_cons {α σ : Type} (a : α) (l : List α) (f : α → σ → σ) (s : σ) : forEach (a :: l) f s = forEach l f (f a s) := rfl

/-- A block that is fenced, before its gangs stop. -/
def State.blockFenced (s : State) (b : Nat) : State := (s.modBlock b fun x => { x with fenced := true }).withFld (clkBlockA b) 12 0 0

theorem State.fenceBlock_eq {s : State} {b : Nat} (hb : b < 512) (hf : (s.block b).fenced = false) :
    s.fenceBlock b = (((s.blockFenced b).closeStop b).stopGangs (blockPhys b)).raiseFault (Unit6.ofBlock b) 0x09 2 true 15 0 :=
  if_neg (by simp [hb, hf])

/-- A sector that is gated, before its blocks stop. -/
def State.sectorGated (s : State) (k : Nat) : State := s.withFld (sectorReg k) 16 16 1

/-- A block of a gated sector loses its clock, and its stop is isolated. -/
def State.shutBlock (s : State) (b : Nat) : State := (s.withFld (clkBlockA b) 12 0 0).closeStop b

/-- A block of a gated sector is shut, and its gangs stop. -/
def State.loseBlock (s : State) (b : Nat) : State := (s.shutBlock b).stopGangs (blockPhys b)

/-- Blocks that are lost one after another. -/
def State.loseBlocks (s : State) (l : List Nat) : State := forEach l (fun b s => s.loseBlock b) s

theorem State.loseBlocks_cons (s : State) (b : Nat) (l : List Nat) : s.loseBlocks (b :: l) = (s.loseBlock b).loseBlocks l := forEach_cons ..

theorem State.gateSector_eq {s : State} {k : Nat} (hk : k < 64) (h : s.fld (sectorReg k) 16 16 = 0) :
    s.gateSector k = ((s.sectorGated k).loseBlocks (sectorBlocks k)).raiseFault (Unit6.ofSector k) 0x0A 2 true 15 0 :=
  if_neg (by simp [hk, h])

/-- A die that is fenced, before its stops close. -/
def State.dieCut (s : State) (d : Nat) : State := s.modDie d fun x => { x with cut := true }

theorem State.die_dieCut {s : State} (hs : keysFrom 0 s.dies = true) (d : Nat) : (s.dieCut d).die d = { s.die d with cut := true } :=
  mapGet_mapPut_self _ _ _ hs

theorem State.die_dieCut_ne {s : State} {d e : Nat} (h : e ≠ d) : (s.dieCut d).die e = s.die e := mapGet_mapPut_ne _ _ _ h _

theorem State.cutDie_eq {s : State} {d : Nat} (hd : d < 20) (h : (s.die d).cut = false) :
    s.cutDie d = (((s.dieCut d).closeDie d).stopGangs (diePhys d)).raiseFault (Unit6.ofDie d) 0x0B 2 true 15 0 :=
  if_neg (by simp [hd, h])

theorem FenceKept.shutBlock {q : Prop} {o s : State} (h : FenceKept q o s) {b : Nat} (hb : b < 512) : FenceKept q o (s.shutBlock b) :=
  (h.stopClock hb).closeStop

/-- What a block that is shut shows, while it is dead. -/
theorem State.shutBlock_shows {s : State} (hr : keysFrom 0 s.regs = true) (hm : keysFrom 0 s.mesh = true) {b : Nat} (hb : b < 512)
    (hdead : s.blockDead b = true) : ((s.shutBlock b).stop b).isolated = true ∧ (s.shutBlock b).fld (clkBlockA b) 12 0 = 0 := by
  have hclock := (FenceKept.refl (q := True) hr hm).stopClock hb
  have hclose := (FenceKept.refl (q := True) hclock.regsOrd hclock.meshOrd).closeStop (k := b)
  exact ⟨State.isolated_closeStop hclock.regsOrd hclock.meshOrd b,
    hclose.stopped b hb ((hclock.blockDead hb).trans hdead) (State.fld_withFld_self hr _ _ _ _ (by decide) (by decide))⟩

/-- Dead blocks that are lost one after another stay shut. -/
theorem State.loseBlocks_show : ∀ {l : List Nat} {s : State}, keysFrom 0 s.regs = true → keysFrom 0 s.mesh = true →
    (∀ b ∈ l, b < 512 ∧ s.blockDead b = true) →
    FenceKept False s (s.loseBlocks l) ∧ ∀ b ∈ l, ((s.loseBlocks l).stop b).isolated = true ∧ (s.loseBlocks l).fld (clkBlockA b) 12 0 = 0
  | [], s, hr, hm, _ => ⟨FenceKept.refl hr hm, fun _ hb => absurd hb List.not_mem_nil⟩
  | a :: l, s, hr, hm, hl => by
    obtain ⟨ha, hdead⟩ := hl a (List.mem_cons_self ..)
    have hfirst := (FenceKept.refl (q := False) hr hm).shutBlock ha
    have hstep : FenceKept False s (s.loseBlock a) := hfirst.stopGangs
    obtain ⟨hrest, hshut⟩ := State.loseBlocks_show (l := l) hstep.regsOrd hstep.meshOrd fun b hb => by
      obtain ⟨hlt, hd⟩ := hl b (List.mem_cons_of_mem a hb)
      exact ⟨hlt, (hstep.blockDead hlt).trans hd⟩
    rw [State.loseBlocks_cons]
    refine ⟨hstep.trans hrest, fun b hb => ?_⟩
    rcases List.mem_cons.1 hb with rfl | hb
    · obtain ⟨hiso, hclk⟩ := State.shutBlock_shows hr hm ha hdead
      have hgangs : FenceKept False (s.shutBlock b) (s.loseBlock b) :=
        (FenceKept.refl hfirst.regsOrd hfirst.meshOrd).stopGangs
      have hafter := hgangs.trans hrest
      exact ⟨hafter.isolated b hiso, hafter.stopped b ha ((hfirst.blockDead ha).trans hdead) hclk⟩
    · exact hshut b hb

/-- Where none of their tiles is a member of a gang, the tiles and the records stay. -/
theorem State.loseBlocks_lone : ∀ {l : List Nat} {s : State}, keysFrom 0 s.regs = true → keysFrom 0 s.mesh = true → (∀ b ∈ l, b < 512) →
    s.lone (l.flatMap blockPhys) → FenceKept True s (s.loseBlocks l)
  | [], _, hr, hm, _, _ => FenceKept.refl hr hm
  | a :: l, s, hr, hm, hl, hlone => by
    have ha := hl a (List.mem_cons_self ..)
    have hshut := (FenceKept.refl (q := True) hr hm).shutBlock ha
    have hplaces : (s.shutBlock a).lone ((a :: l).flatMap blockPhys) := hshut.places.lone (fun q hq => by
      obtain ⟨b, hb, hq⟩ := List.mem_flatMap.1 hq
      exact blockPhys_lt (hl b hb) hq) hlone
    rw [List.flatMap_cons] at hplaces
    rw [State.loseBlocks_cons, State.loseBlock, State.stopGangs_lone fun q hq => hplaces q (List.mem_append_left _ hq)]
    exact hshut.trans (State.loseBlocks_lone hshut.regsOrd hshut.meshOrd (fun b hb => hl b (List.mem_cons_of_mem a hb))
      fun q hq => hplaces q (List.mem_append_right _ hq))

/-! The gang of a lost member. -/

/-- Changes of tiles that give each tile back as it was. -/
theorem State.tile_forEach_same {f : Nat → State → Nat} {g : Tile → Tile} (hg : ∀ y, g y = y) (q : Nat) :
    ∀ (l : List Nat) {s : State}, keysFrom 0 s.tiles = true → (forEach l (fun j s => s.modTile (f j s) g) s).tile q = s.tile q
  | [], _, _ => rfl
  | j :: l, s, hs => by
    rw [forEach_cons, State.tile_forEach_same hg q l (keysFrom_mapPut _ _ _ (Nat.zero_le _) hs)]
    by_cases hj : q = f j s
    · subst hj
      rw [State.tile_modTile_self hs, hg]
    · exact State.tile_modTile_ne _ hj

/-- The tile of a gang's origin, by a member of the gang. -/
def State.originTile (s : State) (l g : Nat) : Nat := s.phys (gangTile (l / 2048) g 0 0)

/-- Of an iteration of which nothing is delivered yet, nothing leaves the queues. -/
theorem State.tile_dropHeld {s : State} (hs : keysFrom 0 s.tiles = true) {l g c : Nat} {d : Bytes}
    (h : (s.ctx (s.originTile l g) c).part = 0) (q : Nat) : (s.dropHeld l g c d).tile q = s.tile q := by
  have hnone (y : Tile) : { y with ftq := y.ftq.take (y.ftq.length - 0) } = y := by rw [Nat.sub_zero, List.take_length]
  unfold State.originTile at h
  unfold State.dropHeld
  dsimp only
  rw [h]
  exact State.tile_forEach_same (f := fun j s => s.phys (gangTile (l / 2048) g (gangSide g - 1) j)) hnone q _ hs

/-- The gang of a lost member, whose origin runs a descriptor, stops by its opcode (R105). -/
theorem State.gangLost_eq {s : State} {l g c : Nat} {r : List Nat} {y : Bytes} (hg : s.gangOf l = some g)
    (he : mapGet [] Engine.gang.code (s.tile (s.originTile l g)).engines = c :: r) (hc : c < 8)
    (hi : (s.ctx (s.originTile l g) c).issued = true) (hd : (s.ctx (s.originTile l g) c).desc = some y) :
    let o := s.originTile l g
    let x : ExcInfo := ⟨0x12, false, dIdx y (s.ctx o c).iter, 0⟩
    s.gangLost l = if dOp y = 0x10 then (s.dropHeld l g c y).raiseExc o c x false else if dOp y = 0x11 then s.raiseExc o c x false else s := by
  unfold State.originTile at *
  unfold State.gangLost
  rw [hg]
  dsimp only
  rw [he]
  dsimp only [List.head?_cons]
  rw [if_neg (by omega), hd]
  dsimp only
  rw [if_neg (by simp [hi])]

/-! What each fault does. -/

/-- A fence of a block (R105, R339). -/
theorem State.fenceBlock_effect {s : State} (hwf : s.wf = true) {b : Nat} (hb : b < 512) (hf : (s.block b).fenced = false) :
    FenceKept False (s.blockFenced b) (s.fenceBlock b) ∧ ((s.fenceBlock b).stop b).isolated = true ∧
      (s.lone (blockPhys b) → ∃ u, FenceKept True (s.blockFenced b) u ∧ s.fenceBlock b = u.raiseFault (Unit6.ofBlock b) 0x09 2 true 15 0) := by
  have hs := Since.refl hwf
  have hr : keysFrom 0 (s.blockFenced b).regs = true := State.withFld_ordered hs.regsOrd
  have hclose := (FenceKept.refl (q := True) (s := s.blockFenced b) hr hs.meshOrd).closeStop (k := b)
  have hafter : FenceKept False ((s.blockFenced b).closeStop b) (s.fenceBlock b) := by
    rw [State.fenceBlock_eq hb hf]
    exact (FenceKept.refl hclose.regsOrd hclose.meshOrd).stopGangs.raiseFault
  refine ⟨hclose.weaken.trans hafter, hafter.isolated b (State.isolated_closeStop hr hs.meshOrd b), fun hl => ⟨_, hclose, ?_⟩⟩
  have hplaces : SamePlaces s (s.blockFenced b) :=
    ⟨rfl, fun _ => rfl, fun d i hd hi => State.reg_withReg_ne _ (segMapReg_ne_clkBlockA hd hi hb)⟩
  rw [State.fenceBlock_eq hb hf, State.stopGangs_lone ((hplaces.trans hclose.places).lone (fun q hq => blockPhys_lt hb hq) hl)]

/-- A gate of a sector (R105, R339). -/
theorem State.gateSector_effect {s : State} (hwf : s.wf = true) {k : Nat} (hk : k < 64) (h : s.fld (sectorReg k) 16 16 = 0) :
    FenceKept False (s.sectorGated k) (s.gateSector k) ∧
      (∀ b ∈ sectorBlocks k, ((s.gateSector k).stop b).isolated = true ∧ (s.gateSector k).fld (clkBlockA b) 12 0 = 0) ∧
      (s.lone ((sectorBlocks k).flatMap blockPhys) →
        ∃ u, FenceKept True (s.sectorGated k) u ∧ s.gateSector k = u.raiseFault (Unit6.ofSector k) 0x0A 2 true 15 0) := by
  have hs := Since.refl hwf
  have hr : keysFrom 0 (s.sectorGated k).regs = true := State.withFld_ordered hs.regsOrd
  have hgate : (s.sectorGated k).fld (sectorReg k) 16 16 = 1 := State.fld_withFld_self hs.regsOrd _ _ _ _ (by decide) (by decide)
  have hblocks (b : Nat) (hb : b ∈ sectorBlocks k) : b < 512 ∧ (s.sectorGated k).blockDead b = true := by
    obtain ⟨hlt, hsec⟩ := mem_sectorBlocks hk hb
    exact ⟨hlt, by rw [State.blockDead, hsec, hgate]; simp⟩
  obtain ⟨hkept, hshut⟩ := State.loseBlocks_show hr hs.meshOrd hblocks
  rw [State.gateSector_eq hk h]
  have hrec := (FenceKept.refl hkept.regsOrd hkept.meshOrd).raiseFault (u := Unit6.ofSector k) (cause := 0x0A) (severity := 2) (permanent := true)
    (spare := 15) (detail := 0)
  refine ⟨hkept.trans hrec, fun b hb => ?_, fun hl => ⟨_, ?_, rfl⟩⟩
  · obtain ⟨hlt, hdead⟩ := hblocks b hb
    obtain ⟨hiso, hclk⟩ := hshut b hb
    exact ⟨hrec.isolated b hiso, hrec.stopped b hlt ((hkept.blockDead hlt).trans hdead) hclk⟩
  · have hplaces : SamePlaces s (s.sectorGated k) :=
      ⟨rfl, fun _ => rfl, fun d i hd hi => State.reg_withReg_ne _ (segMapReg_ne_sectorReg hd hi hk)⟩
    refine State.loseBlocks_lone hr hs.meshOrd (fun b hb => (hblocks b hb).1) (hplaces.lone (fun q hq => ?_) hl)
    obtain ⟨b, hb, hq⟩ := List.mem_flatMap.1 hq
    exact blockPhys_lt (hblocks b hb).1 hq

/-- A fence of a die (R105, R339). -/
theorem State.cutDie_effect {s : State} (hwf : s.wf = true) {d : Nat} (hd : d < 20) (h : (s.die d).cut = false) :
    FenceKept False (s.dieCut d) (s.cutDie d) ∧ (∀ k ∈ dieStops d, ((s.cutDie d).stop k).isolated = true) ∧
      (s.lone (diePhys d) → ∃ u, FenceKept True (s.dieCut d) u ∧ s.cutDie d = u.raiseFault (Unit6.ofDie d) 0x0B 2 true 15 0) := by
  have hs := Since.refl hwf
  have hclose : FenceKept True (s.dieCut d) ((s.dieCut d).closeDie d) :=
    .each (fun _ _ _ hu => hu.closeStop) (FenceKept.refl hs.regsOrd hs.meshOrd)
  have hafter : FenceKept False ((s.dieCut d).closeDie d) (s.cutDie d) := by
    rw [State.cutDie_eq hd h]
    exact (FenceKept.refl hclose.regsOrd hclose.meshOrd).stopGangs.raiseFault
  have hiso := State.isolated_closeStops (l := dieStops d) (s := s.dieCut d) hs.regsOrd hs.meshOrd
  refine ⟨hclose.weaken.trans hafter, fun k hk => hafter.isolated k (hiso k hk), fun hl => ⟨_, hclose, ?_⟩⟩
  have hplaces : SamePlaces s (s.dieCut d) := by
    refine ⟨rfl, fun e => ?_, fun _ _ _ _ => rfl⟩
    by_cases he : e = d
    · rw [he, State.die_dieCut hs.diesOrd]
    · rw [State.die_dieCut_ne he]
  rw [State.cutDie_eq hd h, State.stopGangs_lone ((hplaces.trans hclose.places).lone (fun q hq => diePhys_lt hq) hl)]

/-- A record that a still stretch is followed by. -/
theorem FenceKept.record {o u : State} (h : FenceKept True o u) (w : Unit6) (cause severity spare detail : Nat) :
    (u.raiseFault w cause severity true spare detail).tiles = o.tiles ∧ (o.faults.queue.length < 1024 →
      ∃ r, (u.raiseFault w cause severity true spare detail).faults.queue = o.faults.queue ++ [r] ∧ r.cause = cause ∧ r.severity = severity ∧
        r.permanent = true ∧ r.time = o.now) := by
  refine ⟨(State.raiseFault_tiles ..).trans (h.tiles trivial), fun hroom => ?_⟩
  rw [← h.faults trivial] at hroom ⊢
  rw [← h.now]
  exact State.raiseFault_record h.regsOrd h.meshOrd hroom ..

/-- The physical tile of the spare of a segment (R25). -/
def segSpare (d j : Nat) : Nat := 2304 * d + 9 * j + 8

/-- A spare that is lost. -/
def Tile.spareGone (y : Tile) : Tile := { y with idState := 3, lost := true, slots := [] }

/-- The loss of a spare that serves no tile (R343). -/
theorem State.spareLost_eq {s : State} {d j : Nat} (hd : d < 16) (hj : j < 256) (hl : (s.tile (segSpare d j)).lost = false)
    (hi : (s.tile (segSpare d j)).idState ≠ 1) :
    s.spareLost d j = (s.modTile (segSpare d j) Tile.spareGone).raiseFault (Unit6.ofTile (segFirst (segSpare d j))) 0x0D 1 true 15 0 := by
  unfold segSpare at *
  unfold State.spareLost
  dsimp only
  rw [if_neg (by simp [hl, hd, hj]), if_neg hi, if_neg hi]
  rfl

theorem State.pop_nil {s : State} (src : Src) (h : s.faults.queue = []) : s.pop src = s.badAccess src true Reg.fltRecCtrl .badValue := by
  rw [State.pop, h]
  rfl

theorem State.pop_cons {s : State} {r : FaultRec} {q : List FaultRec} (src : Src) (h : s.faults.queue = r :: q) :
    s.pop src = s.withFaults { s.faults with queue := q } := by
  rw [State.pop, h]

/-- Settles O50: what each fault takes out at once, and that nothing that follows undoes it. -/
theorem permanentFaults : Obligations.PermanentFaults := by
  intro s src hwf
  have hs := Since.refl hwf
  refine ⟨fun b h => congrArg _ (if_pos h), fun b hb hf => ?_, fun k h => congrArg _ (if_pos h), fun k hk h => ?_, fun d h => congrArg _ (if_pos h),
    fun d hd h => ?_, fun l g c r y hg he hc hi hd => ?_, fun d j h => congrArg _ (if_pos h), fun d j hd hj hl hi => ?_, fun hq => ?_, fun r q hq => ?_⟩
  · obtain ⟨hkept, hiso, hlone⟩ := State.fenceBlock_effect hwf hb hf
    have hself : ((s.blockFenced b).block b).fenced = true := congrArg Block.fenced (mapGet_mapPut_self _ _ _ hs.blocksOrd)
    refine ⟨_, rfl, (congrArg Block.fenced (hkept.block b)).trans hself, hiso,
      hkept.stopped b hb (by rw [State.blockDead, hself]; rfl) (State.fld_withFld_self hs.regsOrd _ _ _ _ (by decide) (by decide)), fun hl => ?_⟩
    obtain ⟨u, hu, hfence⟩ := hlone hl
    obtain ⟨htiles, hrec⟩ := hu.record (Unit6.ofBlock b) 0x09 2 15 0
    refine ⟨?_, ?_, fun x hx => (hkept.block x).trans (mapGet_mapPut_ne _ _ _ hx _)⟩
    · rw [hfence]
      exact hrec
    · rw [hfence]
      exact htiles
  · obtain ⟨hkept, hshut, hlone⟩ := State.gateSector_effect hwf hk h
    refine ⟨_, rfl, (hkept.gated hk).trans (State.fld_withFld_self hs.regsOrd _ _ _ _ (by decide) (by decide)), hshut, fun hl => ?_⟩
    obtain ⟨u, hu, hgate⟩ := hlone hl
    obtain ⟨htiles, hrec⟩ := hu.record (Unit6.ofSector k) 0x0A 2 15 0
    rw [hgate]
    exact ⟨hrec, htiles⟩
  · obtain ⟨hkept, hiso, hlone⟩ := State.cutDie_effect hwf hd h
    refine ⟨_, rfl, congrArg Die.cut ((hkept.die d).trans (State.die_dieCut hs.diesOrd d)), hiso,
      fun x hx => (hkept.die x).trans (State.die_dieCut_ne hx), fun hl => ?_⟩
    obtain ⟨u, hu, hcut⟩ := hlone hl
    obtain ⟨htiles, hrec⟩ := hu.record (Unit6.ofDie d) 0x0B 2 15 0
    rw [hcut]
    exact ⟨hrec, htiles⟩
  · have hlost := State.gangLost_eq hg he hc hi hd
    refine ⟨fun h => hlost.trans ((if_neg (by omega)).trans (if_pos h)), fun h h' => hlost.trans ((if_neg h).trans (if_neg h')), fun h hp _ =>
      ⟨s.dropHeld l g c y, ?_, State.tile_dropHeld hs.tilesOrd hp⟩⟩
    rw [hlost, if_pos h]
    show _ = (s.dropHeld l g c y).raiseExc _ c ⟨0x12, false, dIdx y (((s.dropHeld l g c y).tile _).ctx c).iter, 0⟩ false
    rw [State.tile_dropHeld hs.tilesOrd hp]
    rfl
  · have hspare := State.spareLost_eq hd hj hl hi
    refine ⟨_, congrArg Host.Outcome.next hspare, ?_, fun k hk => ?_, fun hroom => ?_⟩
    · rw [State.tile, State.raiseFault_tiles]
      exact State.tile_modTile_self hs.tilesOrd _ _
    · rw [State.tile, State.raiseFault_tiles]
      exact State.tile_modTile_ne _ hk
    · exact State.raiseFault_record (s := s.modTile (segSpare d j) Tile.spareGone) hs.regsOrd hs.meshOrd hroom ..
  · exact congrArg Host.Outcome.next (State.pop_nil src hq)
  · exact congrArg Host.Outcome.next (State.pop_cons src hq)

end Sys2Proof.Machine
end

section
/-! PROOFS. The arithmetic of the vector engine: operations on one and two sources, functions and FMA (R108, R110, R134). -/

namespace Sys2Proof.Machine

/-! What the bodies answer. -/

/-- An operation on one source delivers each element's result, encoded once, and its source joins a summary. -/
theorem unaryBody_ok {enc : Rnd → Num → Nat × Nat} {f : Num → Num × Bool} {e : Run} {s s1 s2 : State} {a : Bytes} {w : State → State}
    (hp : vecPlaced s e) (ha : readOpnd e (opA e.d) s = .ok a s1) :
    let rs := encoded e enc ((valuesOf (opA e.d) (codes (opA e.d).elem a)).map f)
    nanTraps e.mode (flagsOf rs) = false → writeOpnd e (opD e.d) (packed e rs) s1 = .ok w s2 →
      unaryBody enc f e s = .ok (fun s => gatherSum e (codes (opA e.d).elem a) ((w s).modTile e.t (·.cvtFlags (flagsOf rs)))) s2 := by
  intro rs hn hw
  unfold unaryBody
  rw [bind_ok hp, bind_ok (readCodes_ok ha)]
  exact bind_ok (emit_ok hn hw)

/-- An operation on two sources delivers each pair's result, encoded once to the format of D, and its first source joins a summary. -/
theorem binaryBody_ok {f : Num → Num → Num × Bool} {e : Run} {s s1 s2 s3 : State} {a b : Bytes} {w : State → State} (hp : vecPlaced s e)
    (ha : readOpnd e (opA e.d) s = .ok a s1) (hb : readOpnd e (opB e.d) s1 = .ok b s2) :
    let rs := encoded e (encodeNum (opD e.d).elem)
      (List.zipWith f (valuesOf (opA e.d) (codes (opA e.d).elem a)) (valuesOf (opB e.d) (codes (opB e.d).elem b)))
    nanTraps e.mode (flagsOf rs) = false → writeOpnd e (opD e.d) (packed e rs) s2 = .ok w s3 →
      binaryBody f e s = .ok (fun s => gatherSum e (codes (opA e.d).elem a) ((w s).modTile e.t (·.cvtFlags (flagsOf rs)))) s3 := by
  intro rs hn hw
  unfold binaryBody
  rw [bind_ok hp, bind_ok (readCodes_ok ha), bind_ok (readCodes_ok hb)]
  exact bind_ok (emit_ok hn hw)

/-- FMA reads its addend from D, and delivers each result, encoded once to the format of D. -/
theorem fmaBody_ok {e : Run} {s s1 s2 s3 s4 : State} {a b x : Bytes} {w : State → State} (hp : vecPlaced s e)
    (ha : readOpnd e (opA e.d) s = .ok a s1) (hb : readOpnd e (opB e.d) s1 = .ok b s2) (hx : readOpnd e (opD e.d) s2 = .ok x s3) :
    let rs := encoded e (encodeNum (opD e.d).elem) (List.zipWith (fun p z => p.1.fma p.2 z)
      ((valuesOf (opA e.d) (codes (opA e.d).elem a)).zip (valuesOf (opB e.d) (codes (opB e.d).elem b))) (valuesOf (opD e.d) (codes (opD e.d).elem x)))
    nanTraps e.mode (flagsOf rs) = false → writeOpnd e (opD e.d) (packed e rs) s3 = .ok w s4 →
      fmaBody e s = .ok (fun s => gatherSum e (codes (opA e.d).elem a) ((w s).modTile e.t (·.cvtFlags (flagsOf rs)))) s4 := by
  intro rs hn hw
  unfold fmaBody
  rw [bind_ok hp, bind_ok (readCodes_ok ha), bind_ok (readCodes_ok hb), bind_ok (readCodes_ok hx)]
  exact bind_ok (emit_ok hn hw)

/-! The commands. -/

/-- A command that iterates a body, where the body succeeds. -/
theorem exec_of_body {i : Instr} {s s' : State} {t c op : Nat} {d : Bytes} {body : Run → It (State → State)} {f : State → State}
    (hrow : exec i s = .next (s.iterate t c op body)) (hit : s.iterates t c d) (ho : dOp d = op)
    (hb : body (s.runNow t c d) s = .ok f s') : exec i s = .next ((f s').commitIteration t c) :=
  hrow.trans (congrArg Host.Outcome.next (iterate_ok hit ho hb))

/-- A command that iterates an operation on one source. -/
theorem UnaryRow.of_body {row : Nat → Nat → Instr} {op : Nat} {enc : Nat → Rnd → Num → Nat × Nat} {f : Num → Num × Bool}
    (hrow : ∀ s t c, exec (row t c) s = .next (s.iterate t c op fun e => unaryBody (enc (opD e.d).elem) f e)) : UnaryRow row op enc f :=
  fun s _ _ t c _ _ _ ho hit hp ha hn hw => (exec_of_body (hrow s t c) hit ho (unaryBody_ok hp ha hn hw) :)

/-- A command that iterates an operation on two sources. -/
theorem BinaryRow.of_body {row : Nat → Nat → Instr} {op : Nat} {f : Num → Num → Num × Bool}
    (hrow : ∀ s t c, exec (row t c) s = .next (s.iterate t c op (binaryBody f))) : BinaryRow row op f :=
  fun s _ _ _ t c _ _ _ _ ho hit hp ha hb hn hw => (exec_of_body (hrow s t c) hit ho (binaryBody_ok hp ha hb hn hw) :)

/-- Settles O24: every command iterates the body of its opcode, and by what that body answers. -/
theorem vectorArithmetic : Obligations.VectorArithmetic := by
  refine ⟨⟨.of_body fun _ _ _ => rfl, .of_body fun _ _ _ => rfl, .of_body fun _ _ _ => rfl, .of_body fun _ _ _ => rfl, .of_body fun _ _ _ => rfl⟩,
    .of_body fun _ _ _ => rfl, .of_body fun _ _ _ => rfl, .of_body fun _ _ _ => rfl, .of_body fun _ _ _ => rfl, .of_body fun _ _ _ => rfl,
    .of_body fun _ _ _ => rfl, fun s s1 s2 s3 s4 t c d a b x w ho hit hp ha hb hx hn hw => ?_⟩
  exact (exec_of_body (i := .fma t c) rfl hit ho (fmaBody_ok hp ha hb hx hn hw) :)

end Sys2Proof.Machine
end

section
/-! PROOFS. Multiplication in GF(2^8): the powers of 2 are all elements but 0, so each of these has its inverse (R112). -/

namespace Sys2Proof.Machine

/-- The step to the next power of 2 shifts, and reduces by the polynomial where a bit leaves the byte. -/
theorem gfX_eq {a : Nat} (ha : a < 256) : gfX a = a <<< 1 ^^^ if a.testBit 7 then 0x11D else 0 := by
  have hbit : a.testBit 7 = decide (128 ≤ a) := by
    rw [Nat.testBit_eq_decide_div_mod_eq]
    exact decide_eq_decide.2 (by omega)
  rw [gfX, hbit, Nat.shiftLeft_eq]
  by_cases h : 128 ≤ a
  · simp [h, show ¬ a * 2 < 256 by omega]
  · simp [h, show a * 2 < 256 by omega]

/-- That step is additive. -/
theorem gfX_xor {a b : Nat} (ha : a < 256) (hb : b < 256) : gfX (a ^^^ b) = gfX a ^^^ gfX b := by
  rw [gfX_eq ha, gfX_eq hb, gfX_eq (Nat.xor_lt_two_pow (n := 8) ha hb), Nat.shiftLeft_xor_distrib, Nat.testBit_xor]
  cases a.testBit 7 <;> cases b.testBit 7 <;> simp [Nat.xor_assoc, Nat.xor_left_comm, Nat.xor_comm]

theorem gfX_lt {a : Nat} (ha : a < 256) : gfX a < 256 := by
  revert a
  decide +kernel

theorem gfMulBits_lt : ∀ (n : Nat) {a : Nat} (b : Nat), a < 256 → gfMulBits n a b < 256
  | 0, _, _, _ => Nat.zero_lt_succ _
  | n + 1, a, b, ha => by
    rw [gfMulBits]
    refine Nat.xor_lt_two_pow (n := 8) ?_ (gfMulBits_lt n _ (gfX_lt ha))
    split
    · exact ha
    · decide

/-- A product's step is the product of the step. -/
theorem gfMulBits_gfX : ∀ (n : Nat) {a : Nat} (b : Nat), a < 256 → gfMulBits n (gfX a) b = gfX (gfMulBits n a b)
  | 0, _, _, _ => rfl
  | n + 1, a, b, ha => by
    have hhead : (if b % 2 = 1 then a else 0) < 256 := by split <;> omega
    rw [gfMulBits, gfMulBits, gfX_xor hhead (gfMulBits_lt n _ (gfX_lt ha)), gfMulBits_gfX n _ (gfX_lt ha)]
    split <;> rfl

/-- The powers of 2. -/
def gfExp (j : Nat) : Nat := gfX^[j] 1

theorem gfExp_succ (j : Nat) : gfExp (j + 1) = gfX (gfExp j) := Function.iterate_succ_apply' ..

theorem gfExp_lt : ∀ j, gfExp j < 256
  | 0 => by decide
  | j + 1 => by
    rw [gfExp_succ]
    exact gfX_lt (gfExp_lt j)

theorem gfMul_one_left {b : Nat} (hb : b < 256) : gfMul 1 b = b := by
  revert b
  decide +kernel

/-- A product of powers of 2 adds their exponents. -/
theorem gfMul_gfExp (j k : Nat) : gfMul (gfExp j) (gfExp k) = gfExp (j + k) := by
  induction j with
  | zero => rw [Nat.zero_add]; exact gfMul_one_left (gfExp_lt k)
  | succ j ih => rw [gfExp_succ, gfMul, gfMulBits_gfX 8 _ (gfExp_lt j), ← gfMul, ih, Nat.succ_add, gfExp_succ]

theorem gfPow_gfExp (j n : Nat) : gfPow (gfExp j) n = gfExp (j * n) := by
  induction n with
  | zero => rfl
  | succ n ih => rw [gfPow, ih, gfMul_gfExp, Nat.mul_succ, Nat.add_comm]

/-- The 255th power of 2 is 1. -/
theorem gfExp_period (j : Nat) : gfExp (255 * j) = 1 := by
  induction j with
  | zero => rfl
  | succ j ih => rw [Nat.mul_succ, ← gfMul_gfExp, ih]; decide +kernel

/-- The first 255 powers of 2 are the elements but 0. -/
theorem gfExp_perm : (List.iterate gfX 1 255).Perm (List.range' 1 255) := by decide +kernel

theorem exists_gfExp {x : Nat} (hx : x < 256) (h0 : 0 < x) : ∃ j, gfExp j = x := by
  obtain ⟨j, -, hj⟩ := List.mem_iterate.1 (gfExp_perm.mem_iff.2 (List.mem_range'_1.2 ⟨h0, hx⟩))
  exact ⟨j, hj.symm⟩

/-- Every element but 0 has its inverse. -/
theorem gfMul_gfInv {x : Nat} (hx : x < 256) (h0 : 0 < x) : gfMul x (gfInv x) = 1 := by
  obtain ⟨j, rfl⟩ := exists_gfExp hx h0
  rw [gfInv, if_neg (Nat.ne_of_gt h0), gfPow_gfExp, gfMul_gfExp, Nat.add_comm, ← Nat.mul_succ, Nat.mul_comm, gfExp_period]

end Sys2Proof.Machine
end

section
/-! PROOFS. The masks and bits of the vector engine: compares, SELECT, bitwise and GF(2^8) opcodes (R109, R111, R112). -/

namespace Sys2Proof.Machine

/-! What the bodies answer. -/

/-- A bytewise operation on one source writes its bytes. -/
theorem rawUnary_ok {f : Bytes → Bytes} {e : Run} {s s1 s2 : State} {a : Bytes} {w : State → State} (hp : vecPlaced s e)
    (ha : readOpnd e (opA e.d) s = .ok a s1) (hw : writeOpnd e (opD e.d) (f a) s1 = .ok w s2) : rawUnary f e s = .ok w s2 := by
  unfold rawUnary
  rw [bind_ok hp, bind_ok ha, hw]

/-- A bytewise operation on two sources writes its bytes. -/
theorem rawBinary_ok {f : Bytes → Bytes → Bytes} {e : Run} {s s1 s2 s3 : State} {a b : Bytes} {w : State → State} (hp : vecPlaced s e)
    (ha : readOpnd e (opA e.d) s = .ok a s1) (hb : readOpnd e (opB e.d) s1 = .ok b s2)
    (hw : writeOpnd e (opD e.d) (f a b) s2 = .ok w s3) : rawBinary f e s = .ok w s3 := by
  unfold rawBinary
  rw [bind_ok hp, bind_ok ha, bind_ok hb, hw]

/-- A compare is the operation on two sources that forms their masks. -/
theorem compareBody_eq (f : Num → Num → Bool) : compareBody f = fun e => rawBinary (masks f e.d) e := by
  have hmask : (fun x y => BitVec.ofNat 8 (b2n (f x y))) = fun x y => if f x y then 1 else 0 := by
    funext x y
    cases f x y <;> rfl
  funext e
  simp only [compareBody, rawBinary, readCodes, masks, bind_assoc, pure_bind, hmask]

/-- SELECT takes A where its mask, read from D, is not 0, and encodes once. -/
theorem selectBody_ok {e : Run} {s s1 s2 s3 s4 : State} {a b m : Bytes} {w : State → State} (hp : vecPlaced s e)
    (ha : readOpnd e (opA e.d) s = .ok a s1) (hb : readOpnd e (opB e.d) s1 = .ok b s2) (hm : readOpnd e (opD e.d).asMask s2 = .ok m s3) :
    let rs := encoded e (encodeNum (opD e.d).elem) (List.zipWith (fun p k => (if k = 0 then p.2 else p.1, false))
      ((valuesOf (opA e.d) (codes (opA e.d).elem a)).zip (valuesOf (opB e.d) (codes (opB e.d).elem b))) m)
    nanTraps e.mode (flagsOf rs) = false → writeOpnd e (opD e.d) (packed e rs) s3 = .ok w s4 →
      selectBody e s = .ok (fun s => (w s).modTile e.t (·.cvtFlags (flagsOf rs))) s4 := by
  intro rs hn hw
  unfold selectBody
  rw [bind_ok hp, bind_ok (readCodes_ok ha), bind_ok (readCodes_ok hb), bind_ok hm]
  exact emit_ok hn hw

/-- GFMAC adds to what it reads from D. -/
theorem gfmacBody_ok {e : Run} {s s1 s2 s3 : State} {a x : Bytes} {w : State → State} (hp : vecPlaced s e)
    (ha : readOpnd e (opA e.d) s = .ok a s1) (hx : readOpnd e (opD e.d) s1 = .ok x s2)
    (hw : writeOpnd e (opD e.d) (xorBytes x (gfScale (dImmBits e.d 7 0) a)) s2 = .ok w s3) : gfmacBody e s = .ok w s3 := by
  unfold gfmacBody
  rw [bind_ok hp, bind_ok ha, bind_ok hx, hw]

/-- GFINV writes the inverses, and sets GF_INV_ZERO where its source holds a 0. -/
theorem gfinvBody_ok {e : Run} {s s1 s2 : State} {a : Bytes} {w : State → State} (hp : vecPlaced s e)
    (ha : readOpnd e (opA e.d) s = .ok a s1)
    (hw : writeOpnd e (opD e.d) (a.map fun x => BitVec.ofNat 8 (gfInv x.toNat)) s1 = .ok w s2) :
    gfinvBody e s = .ok (fun s => if a.contains 0 then (w s).modTile e.t (·.vecFlag 6) else w s) s2 := by
  unfold gfinvBody
  rw [bind_ok hp, bind_ok ha, bind_ok hw]
  rfl

/-! The commands. -/

/-- A command that iterates a bytewise operation on one source. -/
theorem RawUnaryRow.of_body {row : Nat → Nat → Instr} {op : Nat} {f : Bytes → Bytes → Bytes}
    (hrow : ∀ s t c, exec (row t c) s = .next (s.iterate t c op fun e => rawUnary (f e.d) e)) : RawUnaryRow row op f :=
  fun s _ _ t c _ _ _ ho hit hp ha hw => exec_of_body (hrow s t c) hit ho (rawUnary_ok hp ha hw)

/-- A command that iterates a bytewise operation on two sources. -/
theorem RawBinaryRow.of_body {row : Nat → Nat → Instr} {op : Nat} {f : Bytes → Bytes → Bytes → Bytes}
    (hrow : ∀ s t c, exec (row t c) s = .next (s.iterate t c op fun e => rawBinary (f e.d) e)) : RawBinaryRow row op f :=
  fun s _ _ _ t c _ _ _ _ ho hit hp ha hb hw => exec_of_body (hrow s t c) hit ho (rawBinary_ok hp ha hb hw)

/-- A command that iterates a compare. -/
theorem RawBinaryRow.of_compare {row : Nat → Nat → Instr} {op : Nat} {f : Num → Num → Bool}
    (hrow : ∀ s t c, exec (row t c) s = .next (s.iterate t c op (compareBody f))) : RawBinaryRow row op (masks f) :=
  .of_body fun s t c => (hrow s t c).trans (by rw [compareBody_eq])

/-- Settles O25: every command iterates the body of its opcode, by what that body answers, and by the inverses of the field. -/
theorem vectorMasksAndBits : Obligations.VectorMasksAndBits := by
  refine ⟨⟨.of_compare fun _ _ _ => rfl, .of_compare fun _ _ _ => rfl, .of_compare fun _ _ _ => rfl, .of_compare fun _ _ _ => rfl,
      fun s s1 s2 s3 s4 t c d a b m w ho hit hp ha hb hm hn hw => ?select⟩,
    .of_body fun _ _ _ => rfl, .of_body fun _ _ _ => rfl, .of_body fun _ _ _ => rfl, .of_body fun _ _ _ => rfl, .of_body fun _ _ _ => rfl,
    .of_body fun _ _ _ => rfl, .of_body fun _ _ _ => rfl, .of_body fun _ _ _ => rfl, .of_body fun _ _ _ => rfl,
    fun s s1 s2 s3 t c d a x w ho hit hp ha hx hw => ?gfmac, fun s s1 s2 t c d a w ho hit hp ha hw => ?gfinv, rfl, fun x hx h0 => gfMul_gfInv hx h0⟩
  case select => exact (exec_of_body (i := .selectVector t c) rfl hit ho (selectBody_ok hp ha hb hm hn hw) :)
  case gfmac => exact (exec_of_body (i := .gfmac t c) rfl hit ho (gfmacBody_ok hp ha hx hw) :)
  case gfinv => exact (exec_of_body (i := .gfinv t c) rfl hit ho (gfinvBody_ok hp ha hw) :)

end Sys2Proof.Machine
end

section
/-! PROOFS. The completion of the sequencer's commands fails: a context that its tile's table lists twice does not end (R128). -/

namespace Sys2Proof.Machine

/-- A context that runs the NOP of byte 1, with every iteration committed and no successor named. -/
def Ctx.spent : Ctx := { Ctx.idle with st := .running, desc := some [1], issued := true, allDone := true }

/-- Tile 0 in service as logical tile 0, with its block running. `State.wf` orders the table of tiles and not the tables inside a tile, and the
table of contexts of this one lists context 0 twice. -/
def State.listedTwice : State :=
  ({ State.reset with
    dies := [(0, { Die.reset with structured := true })],
    tiles := [(0, { Tile.reset with idState := 1, idLogical := some 0, ctxs := [(0, Ctx.spent), (0, Ctx.spent)] })] }).withFld (clkBlockA 0) 12 11 3

/-- It meets the premises for a descriptor that completes with no successor. -/
theorem State.listedTwice_premises :
    State.listedTwice.wf = true ∧ State.listedTwice.clocked 0 = true ∧ State.listedTwice.ctx 0 0 = Ctx.spent ∧ dBits [1] 2 11 10 = 0 ∧
      (State.listedTwice.tile 0).finished 0 [1] = true := by
  decide +kernel

/-- The end of the context takes its first entry out of the table, and the second still runs. -/
theorem State.listedTwice_runs_on : (State.listedTwice.descComplete 0 0).ctx 0 0 = Ctx.spent := by decide +kernel

/-- Refutes O59: the context of a descriptor that completes with no successor is not idle where the tile's table lists it twice. -/
theorem not_sequencerCompletes : ¬ Obligations.SequencerCompletes := by
  rintro ⟨-, hends, -⟩
  obtain ⟨hwf, hclk, hctx, hsig, hfin⟩ := State.listedTwice_premises
  obtain ⟨hcomplete, -⟩ := hends State.listedTwice 0 0 [1] hwf hclk (congrArg Ctx.desc hctx) hsig
  obtain ⟨hlast, -⟩ := hcomplete hfin (congrArg Ctx.stop hctx)
  obtain ⟨u, hu, hidle, -⟩ := hlast (congrArg Ctx.succ0 hctx)
  have hnext : State.listedTwice.descComplete 0 0 = u := Host.Outcome.next.inj hu
  rw [← hnext, State.listedTwice_runs_on] at hidle
  exact absurd hidle (by decide)

end Sys2Proof.Machine
end

section
/-! PROOFS. The outcomes of an iteration, by the command of its opcode or by LOOP_ITERATION (R128, R136, R144, R145, R151). -/

namespace Sys2Proof.Machine

/-! The descriptor that an iteration runs. -/

/-- A context has an iteration of its current descriptor left. -/
def Ctx.hasIteration (x : Ctx) (d : Bytes) : Bool := !x.allDone && !(isCollective (dOp d) && x.iter == 1)

theorem Ctx.runner_current_iff {x : Ctx} {op : Option Nat} {d : Bytes} :
    x.runner op = some (d, false) ↔ x.desc = some d ∧ x.issued = true ∧ op.all (· == dOp d) = true ∧ x.hasIteration d = true := by
  unfold Ctx.runner Ctx.hasIteration
  cases x.desc with
  | none => simp
  | some d' =>
    cases x.issued with
    | false => simp
    | true => cases x.shadow <;> aesop

theorem Ctx.runner_shadow_iff {x : Ctx} {op : Option Nat} {d : Bytes} :
    x.runner op = some (d, true) ↔ ∃ d' h, x.desc = some d' ∧ x.issued = true ∧ (op.all (· == dOp d') && x.hasIteration d') = false ∧
      x.shadow = some h ∧ dOp d' = 0x02 ∧ op.all (· == dOp h.bytes) = true ∧ x.specRead = false ∧ h.exc.isNone = true ∧ h.bytes = d := by
  unfold Ctx.runner Ctx.hasIteration
  cases x.desc with
  | none => simp
  | some d' =>
    cases x.issued with
    | false => simp
    | true => cases x.shadow <;> aesop

/-- What a context iterates whatever the opcode, it iterates by its own: where a shadow goes, the SELECT before it has no iteration left. -/
theorem Ctx.runner_opcode {x : Ctx} {d : Bytes} {sh : Bool} (h : x.runner none = some (d, sh)) : x.runner (some (dOp d)) = some (d, sh) := by
  cases sh with
  | false =>
    obtain ⟨hd, hi, -, hleft⟩ := Ctx.runner_current_iff.1 h
    exact Ctx.runner_current_iff.2 ⟨hd, hi, beq_self_eq_true _, hleft⟩
  | true =>
    obtain ⟨d', b, hd, hi, hleft, hsh, hsel, -, hread, hexc, rfl⟩ := Ctx.runner_shadow_iff.1 h
    have hnone : x.hasIteration d' = false := hleft
    exact Ctx.runner_shadow_iff.2 ⟨d', b, hd, hi, by rw [hnone, Bool.and_false], hsh, hsel, beq_self_eq_true _, hread, hexc, rfl⟩

/-- A current descriptor that iterates by an opcode does so whatever the opcode. -/
theorem Ctx.runner_of_current {x : Ctx} {op : Nat} {d : Bytes} (h : x.runner (some op) = some (d, false)) : x.runner none = some (d, false) := by
  obtain ⟨hd, hi, -, hleft⟩ := Ctx.runner_current_iff.1 h
  exact Ctx.runner_current_iff.2 ⟨hd, hi, rfl, hleft⟩

/-! Commands and LOOP_ITERATION. -/

/-- Each command of Table 6-5 iterates the body of its opcode. -/
theorem Instr.exec_of_runs {n t c op : Nat} {i : Instr} (h : Instr.runs n i = some (t, c, op)) (s : State) :
    exec i s = .next (s.iterate t c op (bodyOf op n)) := by
  unfold Instr.runs at h
  split at h
  case h_1 =>
    split at h
    case isTrue hk =>
      cases h
      subst hk
      rfl
    case isFalse => cases h
  all_goals cases h <;> rfl

/-- LOOP_ITERATION iterates the descriptor that the context runs, by its opcode. -/
theorem State.loopIteration_eq_iterate {s : State} {t c : Nat} {u : Upset} {d : Bytes} {sh : Bool}
    (h : ((s.upset t u).ctx t c).runner none = some (d, sh)) :
    s.loopIteration t c u = (s.upset t u).iterate t c (dOp d) (bodyOf (dOp d) (mismatchesOf u)) := by
  unfold State.loopIteration State.iterate
  dsimp only
  rw [h, Ctx.runner_opcode h]

/-! An iteration that does not commit. -/

/-- An iteration whose body waits changes nothing. -/
theorem iterate_wait {s s' : State} {t c op : Nat} {d : Bytes} {body : Run → It (State → State)} (h : s.iterates t c d) (ho : dOp d = op)
    (hb : body (s.runNow t c d) s = .error .wait s') : s.iterate t c op body = s := by
  obtain ⟨hrun, hready⟩ := h
  subst ho
  unfold State.iterate State.runBody
  rw [hrun]
  simp only [hready, if_true, Bool.false_eq_true, if_false]
  rw [hb]

/-! The first iteration of a shadow (R144, R145). -/

/-- A shadow behind a SELECT runs, and its iteration can go. -/
def State.shadowIterates (s : State) (t c : Nat) (d : Bytes) : Prop := (s.ctx t c).runner none = some (d, true) ∧ s.iterReady t c d true = true

section Shadow
variable {s s' : State} {t c : Nat} {d : Bytes} {body : Run → It (State → State)}

/-- It runs its body as a shadow. -/
theorem iterate_shadow (h : s.shadowIterates t c d) : s.iterate t c (dOp d) body = s.runBody t c d true body := by
  obtain ⟨hrun, hready⟩ := h
  unfold State.iterate
  rw [Ctx.runner_opcode hrun]
  exact if_pos hready

theorem iterate_shadow_ok {f : State → State} (h : s.shadowIterates t c d) (hb : body (s.runOf t c d true) (s.unflagged t) = .ok f s') :
    s.iterate t c (dOp d) body = (s'.unseen s t).shadowRead t c ((s.tile t).ftq.length - (s'.tile t).ftq.length) d := by
  simp only [iterate_shadow h, State.runBody, if_true, hb]

theorem iterate_shadow_exc {k w : Nat} (h : s.shadowIterates t c d) (hb : body (s.runOf t c d true) (s.unflagged t) = .error (.exc k w) s') :
    s.iterate t c (dOp d) body = s'.shadowExc s t c ⟨k, false, dIdx d 0, w⟩ := by
  simp only [iterate_shadow h, State.runBody, if_true, hb]

theorem iterate_shadow_wait (h : s.shadowIterates t c d) (hb : body (s.runOf t c d true) (s.unflagged t) = .error .wait s') :
    s.iterate t c (dOp d) body = s := by
  simp only [iterate_shadow h, State.runBody, if_true, hb]

end Shadow

/-- Settles O18: a command and LOOP_ITERATION iterate the same body, and by what that body answers. -/
theorem iterationOutcomes : Obligations.IterationOutcomes := by
  refine ⟨fun s t c n u d sh i hrun hi hn => ?same, fun s t c u hnone => ?idle, fun s s1 t c n d i hi hit => ?current,
    fun s s1 t c d hrun hready => ?shadow⟩
  case same =>
    subst hn
    exact ⟨_, congrArg Host.Outcome.next (State.loopIteration_eq_iterate hrun), Instr.exec_of_runs hi _⟩
  case idle =>
    refine congrArg Host.Outcome.next ?_
    unfold State.loopIteration
    dsimp only
    rw [hnone]
  case current =>
    have hloop : exec (.loopIteration t c (.residue n)) s = .next (s.iterate t c (dOp d) (bodyOf (dOp d) n)) :=
      congrArg Host.Outcome.next (State.loopIteration_eq_iterate (u := .residue n) (Ctx.runner_of_current hit.1))
    have both {v : State} (h : s.iterate t c (dOp d) (bodyOf (dOp d) n) = v) :
        exec i s = .next v ∧ exec (.loopIteration t c (.residue n)) s = .next v := h ▸ ⟨Instr.exec_of_runs hi s, hloop⟩
    exact ⟨fun f hb => both (iterate_ok hit rfl hb), fun k w hb => both (iterate_exc hit rfl hb), fun hb => both (iterate_wait hit rfl hb),
      fun hb => both (iterate_hold hit rfl hb)⟩
  case shadow =>
    have hloop {v : State} (h : s.iterate t c (dOp d) (bodyOf (dOp d) 0) = v) : exec (.loopIteration t c .none) s = .next v :=
      h ▸ congrArg Host.Outcome.next (State.loopIteration_eq_iterate (u := .none) hrun)
    have hsh : s.shadowIterates t c d := ⟨hrun, hready⟩
    exact ⟨fun f hb => hloop (iterate_shadow_ok hsh hb), fun k w hb => hloop (iterate_shadow_exc hsh hb),
      fun hb => hloop (iterate_shadow_wait hsh hb)⟩

end Sys2Proof.Machine
end

section
/-! PROOFS. The control opcodes (R135, R137, R141, R142, R146, R147). -/

namespace Sys2Proof.Machine

/-- SELECT reads its comparator, where no summary that it reads is pending. -/
theorem selectorBody_ok {e : Run} {s : State} {k : Comparator} (hk : mapGet none (dBits e.d 4 44 42) (s.tile e.t).cmps = some k)
    (hp : k.summary = false ∨ (s.tile e.t).sumPending k.src = false) :
    selectorBody e s = .ok (fun s => s.modCtx e.t e.c fun x => { x with result := some (k.result (s.tile e.t)) }) s := by
  have hpend : (k.summary && (s.tile e.t).sumPending k.src) = false := by
    rw [Bool.and_eq_false_iff]
    exact hp
  unfold selectorBody
  rw [get_bind]
  simp only [hk, hpend]
  rfl

/-- Settles O22: every command iterates the body of its opcode, which succeeds. -/
theorem controlOpcodes : Obligations.ControlOpcodes := by
  intro s t c d hit
  refine ⟨fun ho => ?nop, fun ho => ?setmode, fun ho => ?cmpset, fun ho => ?cntset, fun ho => ?periodic, fun k ho hk hp => ?select⟩
  case nop => exact (exec_of_body (i := .nop t c) rfl hit ho rfl :)
  case setmode => exact (exec_of_body (i := .setmode t c) rfl hit ho rfl :)
  case cmpset => exact (exec_of_body (i := .cmpset t c) rfl hit ho rfl :)
  case cntset => exact (exec_of_body (i := .cntset t c) rfl hit ho rfl :)
  case periodic => exact (exec_of_body (i := .periodic t c) rfl hit ho rfl :)
  case select => exact (exec_of_body (i := .select t c) rfl hit ho (selectorBody_ok hk hp) :)

end Sys2Proof.Machine
end

section
/-! PROOFS. Starts of graphs, and the sequencer's register writes (R131, R137, R147, R148, R153, R155). -/

namespace Sys2Proof.Machine

/-! Starts. -/

section Starts
variable {s : State} {t c : Nat} (hfree : (s.tile t).freeCtx = some c)
include hfree

/-- A queued trigger starts where nothing goes before it. -/
theorem State.graphStart_oldest {q : Trig} {l : List Trig} (hrun : s.mayRun t = true) (hq : (s.tile t).trigQ = q :: l)
    (hh : (s.tile t).handler = none) (h0 : (s.tile t).lateDue 0 = false) (h1 : (s.tile t).lateDue 1 = false) :
    execGraphStart t s = .next ((s.modTile t fun x => { x with trigQ := l }).startIn t c q.graph q.entry 0 q.args none) := by
  unfold execGraphStart
  simp [hq, hfree, hrun, hh, h0, h1]

/-- A periodic start whose time has come takes the free context. -/
theorem State.periodicStart_starts {k : Nat} {x : Timer} (hrun : s.mayRun t = true) (hx : (s.tile t).timer k = some x) (hdue : x.due ≤ s.now)
    (hbusy : (s.tile t).timerBusy k = false) (hlate : x.pendingLate = none) (hon : graphOn ((s.tile t).graph x.graph) = true) :
    execPeriodicStart t k s = .next ((s.modTile t (·.withTimer k { x with next := x.next + 1 })).startIn t c x.graph
      ((s.tile t).graph x.graph) 1 (x.args x.next) (some k)) := by
  obtain ⟨hclk, hlead⟩ : s.clocked t = true ∧ s.inLead t = false := by simpa [State.mayRun] using hrun
  unfold execPeriodicStart
  simp [hx, hfree, hclk, hlead, hbusy, hlate, hon, Nat.not_lt.2 hdue]

/-- A late start goes once the timer's run before it has ended, behind a handler. -/
theorem State.lateStart_starts {k n : Nat} {x : Timer} (hrun : s.mayRun t = true) (hx : (s.tile t).timer k = some x)
    (hlate : x.pendingLate = some n) (hh : (s.tile t).handler = none) (hbusy : (s.tile t).timerBusy k = false)
    (hon : graphOn ((s.tile t).graph x.graph) = true) :
    execLateStart t k s = .next ((s.modTile t (·.withTimer k { x with pendingLate := none })).startIn t c x.graph
      ((s.tile t).graph x.graph) 1 (x.args n) (some k)) := by
  unfold execLateStart
  simp [hx, hfree, hrun, hlate, hh, hbusy, hon]

/-- A handler starts. -/
theorem State.handlerStart_starts {h : Nat × List Word} (hrun : s.mayRun t = true) (hh : (s.tile t).handler = some h) :
    execHandlerStart t s = .next ((s.modTile t fun x => { x with handler := none }).startIn t c 63 h.1 2 h.2 none) := by
  unfold execHandlerStart
  simp [hfree, hrun, hh]

end Starts

/-- Nothing happens before a timer's time. -/
theorem State.periodicStart_early {s : State} {t k : Nat} {x : Timer} (hx : (s.tile t).timer k = some x) (hearly : s.now < x.due) :
    execPeriodicStart t k s = .next s := by
  unfold execPeriodicStart
  simp [hx, hearly]

/-- A start overruns while the timer's run before it goes on: it is counted, and kept as late where the timer keeps late ones. -/
theorem State.periodicStart_overruns {s : State} {t k : Nat} {x : Timer} (hclk : s.clocked t = true) (hx : (s.tile t).timer k = some x)
    (hdue : x.due ≤ s.now) (hbusy : (s.tile t).timerBusy k = true) :
    execPeriodicStart t k s = .next (s.modTile t fun z => { (z.withTimer k { x with
      next := x.next + 1,
      pendingLate := if x.late ∧ graphOn ((s.tile t).graph x.graph) ∧ ¬ x.pendingLate.isSome then some x.next else x.pendingLate }) with
        periodOverrun := satAdd z.periodOverrun 1 }) := by
  unfold execPeriodicStart
  simp only [hx, hclk, hbusy, if_neg (Nat.not_lt.2 hdue), not_true_eq_false, true_or, if_true, if_false]

/-- Settles O20: by what each start command does where it can start. -/
theorem instanceStarts : Obligations.InstanceStarts := by
  intro s t c hfree hrun
  refine ⟨fun q l hq hh h0 h1 => State.graphStart_oldest hfree hrun hq hh h0 h1, fun k x hx hearly => State.periodicStart_early hx hearly,
    fun k x hx hclk hdue => ⟨fun hbusy hlate hon => State.periodicStart_starts hfree hrun hx hdue hbusy hlate hon,
      fun hbusy => State.periodicStart_overruns hclk hx hdue hbusy,
      fun n hlate hh hbusy hon => State.lateStart_starts hfree hrun hx hlate hh hbusy hon⟩,
    fun h hh => State.handlerStart_starts hfree hrun hh⟩

/-! Register writes. -/

/-- A write to a register of a tile that answers and is not in reset acts on the tile's woken block. -/
theorem State.tileWrite_heard {s : State} {t : Nat} (src : Src) (off : Nat) (f : State → State) (hmute : s.tileMute t = false)
    (hreset : s.tileInReset t = false) : s.tileWrite src t off f = f ((s.external 1).wakeBlock (physBlock t)) := by
  unfold State.tileWrite
  dsimp only
  rw [if_neg (by simp [hmute]), if_neg (by simp [hreset])]

/-- Two changes of a tile, one behind the other, and their frame. -/
theorem State.modTile_modTile_spec {s : State} (hs : keysFrom 0 s.tiles = true) (t : Nat) (g h : Tile → Tile) :
    let u := (s.modTile t g).modTile t h
    u.withTiles s.tiles = s ∧ (∀ k, k ≠ t → u.tile k = s.tile k) ∧ u.tile t = h (g (s.tile t)) := by
  refine ⟨rfl, fun k hk => ?_, ?_⟩
  · rw [State.tile_modTile_ne h hk, State.tile_modTile_ne g hk]
  · rw [State.tile_modTile_self (State.modTile_ordered hs t g), State.tile_modTile_self hs]

/-! STOP at a context. -/

@[simp] theorem State.tile_ctx (s : State) (t c : Nat) : (s.tile t).ctx c = s.ctx t c := rfl


theorem State.dropShadow_none {s : State} {t c : Nat} (h : (s.ctx t c).shadow = none) : s.dropShadow t c = s := by
  unfold State.dropShadow
  rw [h]

theorem State.stopCtx_idle {s : State} {t c : Nat} (h : (s.ctx t c).st = .idle) : s.stopCtx t c = s := if_pos h

section Stop
variable {s : State} {t c : Nat} {d : Bytes} (hst : (s.ctx t c).st ≠ .idle)
include hst

/-- A context that runs no descriptor yet ends before a first iteration. -/
theorem State.stopCtx_unissued (hsh : (s.ctx t c).shadow = none) (h : (s.ctx t c).desc = none ∨ (s.ctx t c).issued = false) :
    s.stopCtx t c = s.raiseExc t c ⟨0x29, true, [], 0⟩ false := by
  unfold State.stopCtx
  simp only [State.dropShadow_none hsh, State.tile_ctx, hst, if_false]
  split
  · rfl
  next d hd =>
    have hissued : (s.ctx t c).issued = false := h.resolve_left fun hn => nomatch hn.symm.trans hd
    exact if_pos (by simp [hissued])

/-- An iteration that has begun, or whose requests are on their way, goes on to its end. -/
theorem State.stopCtx_begun (hd : (s.ctx t c).desc = some d) (hi : (s.ctx t c).issued = true)
    (h : (s.ctx t c).part ≠ 0 ∨ (s.tile t).awaits c = true) : s.stopCtx t c = s.modCtx t c fun z => { z with stop := true } := by
  unfold State.stopCtx
  simp only [State.tile_ctx, hst, hd, hi, if_false, not_true_eq_false]
  exact if_pos (h.imp_right .inl)

/-- Between two iterations a context ends at the boundary. -/
theorem State.stopCtx_between (hsh : (s.ctx t c).shadow = none) (hd : (s.ctx t c).desc = some d) (hi : (s.ctx t c).issued = true)
    (hpart : (s.ctx t c).part = 0) (haw : (s.tile t).awaits c = false) (hcol : isCollective (dOp d) = false) (hiter : 0 < (s.ctx t c).iter) :
    s.stopCtx t c = s.raiseExc t c ⟨0x29, false, dIdx d (min (s.ctx t c).iter (dIters d - 1)), 0⟩ false := by
  unfold State.stopCtx
  simp [State.dropShadow_none hsh, hst, hd, hi, hpart, haw, hcol, Nat.ne_of_gt hiter]

end Stop

/-- Settles O21: a write that is heard changes the tile alone, and by where the context stands that STOP reaches. -/
theorem sequencerWrites : Obligations.SequencerWrites := by
  intro s src t id v hwf hmute hreset
  have htiles : ((s.external 1).wakeBlock (physBlock t)).tiles = s.tiles := (State.wakeBlock_tiles ..).trans (s.external_tiles 1)
  have htile (k : Nat) : ((s.external 1).wakeBlock (physBlock t)).tile k = s.tile k := congrArg (mapGet Tile.reset k) htiles
  have hs : keysFrom 0 ((s.external 1).wakeBlock (physBlock t)).tiles = true := htiles ▸ (State.ordered_of_wf hwf).2
  have heard (off : Nat) (f : State → State) :=
    congrArg (Host.Outcome.next (φ := Fault) (ρ := Refusal)) (State.tileWrite_heard src off f hmute hreset)
  refine ⟨heard _ _, ⟨_, heard _ _, ?add⟩, ⟨_, heard _ _, ?set⟩, heard _ _, fun c => ⟨State.stopCtx_idle, fun hst hsh =>
    ⟨State.stopCtx_unissued hst hsh, fun d hd hi => ⟨State.stopCtx_begun hst hd hi, State.stopCtx_between hst hsh hd hi⟩⟩⟩⟩
  case add =>
    obtain ⟨hrest, hothers, hself⟩ := State.modTile_modTile_spec hs t (fun x => { x with cntSel := id % 16 })
      fun x => x.withCounter (id % 16) (x.counter (id % 16) + BitVec.ofNat 32 v)
    exact ⟨hrest, fun k hk => (hothers k hk).trans (htile k), hself.trans (by rw [htile]; rfl)⟩
  case set =>
    obtain ⟨hrest, hothers, hself⟩ := State.modTile_modTile_spec hs t (fun x => { x with cntSel := id % 16 })
      (·.withCounter (id % 16) (BitVec.ofNat 32 v))
    exact ⟨hrest, fun k hk => (hothers k hk).trans (htile k), hself.trans (by rw [htile]; rfl)⟩

end Sys2Proof.Machine
end

section
/-! PROOFS. Descriptor fetches and descriptor issue (R115, R128-R130, R134, R154). -/

namespace Sys2Proof.Machine

/-! Fetches. -/

/-- The pointer of a descriptor is aligned to its 128 bytes. -/
theorem State.fetchBytes_unaligned {s : State} {t a space : Nat} (h : a % 128 ≠ 0) : s.fetchBytes t a space = (s, some []) := if_pos h

theorem State.fetchBytes_tile {s : State} {t a : Nat} (ha : a % 128 = 0) (hend : a + 128 ≤ 393216) (hmem : (s.tile t).memHurt a 128 = false) :
    s.fetchBytes t a 1 = (s, some (readBytes (s.tile t).mem a 128)) := by
  unfold State.fetchBytes
  dsimp only
  rw [if_neg (not_not.2 ha), if_pos rfl, if_pos ⟨hend, by simp [hmem]⟩]
  rfl

section Fetch
variable {s : State} {t c : Nat} (hclk : s.clocked t = true)
include hclk

theorem State.fetch_current : exec (.descriptorFetch t c 0 .none) s = .next (s.fetchCurrent t c) := if_neg (not_not.2 hclk)

theorem State.fetch_successor :
    exec (.descriptorFetch t c 1 .none) s = .next (s.fetchSucc t c (s.ctx t c).succ0 fun x u => { x with succ0 := u }) :=
  if_neg (not_not.2 hclk)

theorem State.fetch_taken :
    exec (.descriptorFetch t c 2 .none) s = .next (s.fetchSucc t c (s.ctx t c).succ1 fun x u => { x with succ1 := u }) :=
  if_neg (not_not.2 hclk)

end Fetch

theorem State.fetchCurrent_brings {s s1 : State} {t c : Nat} {b : Bytes} (hst : (s.ctx t c).st ≠ .idle) (hd : (s.ctx t c).desc = none)
    (hb : b ≠ []) (hf : s.fetchBytes t (s.ctx t c).addr (s.ctx t c).space = (s1, some b)) :
    s.fetchCurrent t c = s1.modCtx t c fun x => { x with desc := some b } := by
  unfold State.fetchCurrent
  dsimp only
  rw [if_neg (by simp [hst, hd]), hf]
  cases b with
  | nil => exact absurd rfl hb
  | cons => rfl

theorem State.fetchCurrent_fails {s s1 : State} {t c : Nat} (hst : (s.ctx t c).st ≠ .idle) (hd : (s.ctx t c).desc = none)
    (hf : s.fetchBytes t (s.ctx t c).addr (s.ctx t c).space = (s1, some [])) :
    s.fetchCurrent t c = s1.raiseExc t c ⟨0x07, true, [], 0⟩ false := by
  unfold State.fetchCurrent
  dsimp only
  rw [if_neg (by simp [hst, hd]), hf]

theorem State.fetchSucc_brings {s s1 : State} {t c : Nat} {v : Succ} {b : Bytes} (put : Ctx → Option Succ → Ctx) (hv : v.bytes = none)
    (hf : s.fetchBytes t v.addr v.space = (s1, some b)) :
    s.fetchSucc t c (some v) put = s1.modCtx t c fun x => put x (some { v with bytes := some b }) := by
  unfold State.fetchSucc
  dsimp only
  rw [if_neg (by simp [hv]), hf]

/-! The context that issues. -/

/-- Contexts that have nothing to issue are passed over. -/
theorem State.issueFrom_append {s : State} {t : Nat} {l' : List Nat} : ∀ {l : List Nat}, (∀ k ∈ l, s.ready t k = .no) →
    s.issueFrom t (l ++ l') = s.issueFrom t l'
  | [], _ => rfl
  | k :: l, h => by
    rw [List.cons_append, State.issueFrom, h k List.mem_cons_self]
    exact State.issueFrom_append fun j hj => h j (List.mem_cons_of_mem k hj)

theorem ctxIds_split : ∀ c < 4, ctxIds = List.range c ++ c :: ctxIds.drop (c + 1) := by decide

/-- The lowest context that has something to issue comes first (R129). -/
theorem State.descIssue_lowest {s : State} {t c : Nat} (hrun : s.mayRun t = true) (hc : c < 4) (hno : ∀ k, k < c → s.ready t k = .no) :
    s.descIssue t = s.issueFrom t (c :: ctxIds.drop (c + 1)) := by
  unfold State.descIssue
  rw [if_pos hrun, ctxIds_split c hc, State.issueFrom_append fun k hk => hno k (List.mem_range.1 hk), ← ctxIds_split c hc]

/-! What an issue does to its tile. -/

@[simp] theorem State.tile_traceEvent (s : State) (d source event owner k : Nat) (data : Bytes) :
    (s.traceEvent d source event owner data).tile k = s.tile k := congrArg (mapGet Tile.reset k) (State.traceEvent_tiles ..)

@[simp] theorem State.tile_traceTile (s : State) (t event k : Nat) (data : Bytes) : (s.traceTile t event data).tile k = s.tile k :=
  State.tile_traceEvent ..

/-- A tile with other event counts (R391). -/
def Tile.withCounts (y : Tile) (m : SMap Word) : Tile := { y with counts := m }

/-- Events that are counted at a tile change its event counts alone. -/
theorem State.tile_tileCount {s : State} (hs : keysFrom 0 s.tiles = true) (t ev n : Nat) :
    ∃ m, (s.tileCount t ev n).tile t = (s.tile t).withCounts m := by
  unfold State.tileCount
  split
  · exact ⟨_, rfl⟩
  split
  · exact ⟨_, rfl⟩
  refine (List.foldlRecOn (motive := fun u : State => keysFrom 0 u.tiles = true ∧ ∃ m, u.tile t = (s.tile t).withCounts m) (List.range 7) _
    ⟨hs, _, rfl⟩ fun u hu i _ => ?_).2
  obtain ⟨hord, m, hm⟩ := hu
  dsimp only
  split
  · exact ⟨State.modTile_ordered hord t _, _, (State.tile_modTile_self hord t _).trans (by rw [hm]; rfl)⟩
  · exact ⟨hord, m, hm⟩

/-- So a tile that is put there and counts is what was put there but for them, and the other tiles stay. -/
theorem State.tile_withTile_tileCount {s : State} (hs : keysFrom 0 s.tiles = true) (t : Nat) (y : Tile) (ev n : Nat) :
    (∃ m, ((s.withTile t y).tileCount t ev n).tile t = y.withCounts m) ∧
      ∀ k, k ≠ t → ((s.withTile t y).tileCount t ev n).tile k = s.tile k := by
  obtain ⟨m, hm⟩ := State.tile_tileCount (s := s.withTile t y) (keysFrom_mapPut _ _ _ (Nat.zero_le _) hs) t ev n
  exact ⟨⟨m, hm.trans (by rw [State.tile_withTile_self hs])⟩,
    fun k hk => ((State.tileCount_others _ t ev n).tiles k hk).trans (State.tile_withTile_ne y hk)⟩

/-- Lines that go BUSY change the lines of the cache alone. -/
theorem Tile.busyLines_rest (y : Tile) (ls : List Nat) : ∃ m, y.busyLines ls = { y with ocLines := m } := by
  refine List.foldlRecOn (motive := fun z : Tile => ∃ m, z = { y with ocLines := m }) ls _ ⟨_, rfl⟩ fun z hz i _ => ?_
  obtain ⟨m, rfl⟩ := hz
  exact ⟨_, rfl⟩

theorem Tile.line_busyLines : ∀ (ls : List Nat) (y : Tile) (i : Nat), (y.busyLines ls).line i = if i ∈ ls then ⟨.busy, none, []⟩ else y.line i
  | [], _, _ => rfl
  | j :: ls, y, i => by
    have hput : (y.withLine j ⟨.busy, none, []⟩).line i = if i = j then ⟨.busy, none, []⟩ else y.line i := by
      split
      next h => exact h ▸ mapGet_mapPut_listed i (by decide) y.ocLines
      next h => exact mapGet_mapPut_ne _ _ _ h _
    refine (Tile.line_busyLines ls (y.withLine j ⟨.busy, none, []⟩) i).trans ?_
    rw [hput]
    by_cases hi : i ∈ ls <;> simp [hi]

/-- A context that has issued `d`. -/
def State.issuedCtx (s : State) (t c : Nat) (d : Bytes) : Ctx :=
  { s.ctx t c with
    issued := true, iter := 0, allDone := false, mode := (s.tile t).numMode, part := 0, specRead := false, result := none, shadow := none,
    seen := [], seenAt := 0, fills := (s.tile t).toFill (s.ctx t c).args d,
    succ0 := succOf (dWord d 3), succ1 := if dOp d = 0x02 then succOf (dWord d 4) else none }

/-- A tile whose context has issued `d`, before the issue is counted. -/
def State.issuedTile (s : State) (t c : Nat) (d : Bytes) : Tile :=
  (((s.tile t).withCtx c (s.issuedCtx t c d)).enter (dEngine d) c).busyLines ((s.tile t).toFill (s.ctx t c).args d)

/-- An issue of any but a collective changes its own tile alone, and counts there. -/
theorem State.tile_issueDesc {s : State} (hs : keysFrom 0 s.tiles = true) (t c : Nat) {d : Bytes} (hcol : isCollective (dOp d) = false) :
    (∃ m, (s.issueDesc t c d).tile t = (s.issuedTile t c d).withCounts m) ∧ ∀ k, k ≠ t → (s.issueDesc t c d).tile k = s.tile k := by
  have hissue : s.issueDesc t c d =
      ((s.withTile t (s.issuedTile t c d)).tileCount t 0x02 1).traceTile t 0 (descTrace (s.ctx t c).addr (s.ctx t c).space c (dOp d)) :=
    if_neg (by simp [hcol])
  rw [hissue]
  simp only [State.tile_traceTile]
  exact State.tile_withTile_tileCount hs t _ 0x02 1

/-- Settles O17: by what a fetch answers, and by what the lowest context has to issue. -/
theorem fetchAndIssue : Obligations.FetchAndIssue := by
  refine ⟨fun s s1 t c => ⟨fun w u => rfl, fun hclk hst hd => ⟨fun b hb hf => ?brings, fun hf => ?fails⟩,
    fun hclk v b hv hf => ⟨fun h => ?succ, fun h => ?taken⟩, fun a => ⟨State.fetchBytes_unaligned, State.fetchBytes_tile⟩⟩,
    fun s t c d hwf hrun hc hno => ?issue⟩
  case brings => rw [State.fetch_current hclk, State.fetchCurrent_brings hst hd hb hf]
  case fails => rw [State.fetch_current hclk, State.fetchCurrent_fails hst hd hf]
  case succ => rw [State.fetch_successor hclk, h, State.fetchSucc_brings _ hv hf]
  case taken => rw [State.fetch_taken hclk, h, State.fetchSucc_brings _ hv hf]
  case issue =>
    have hlow : exec (.descriptorIssue t) s = .next (s.issueFrom t (c :: ctxIds.drop (c + 1))) :=
      congrArg Host.Outcome.next (State.descIssue_lowest hrun hc hno)
    unfold State.issueFrom at hlow
    refine ⟨fun hd hcol => ?tile, fun hd => by rw [hlow, hd], fun k hk => by rw [hlow, hk], fun hd => by rw [hlow, hd]⟩
    obtain ⟨⟨m, hself⟩, hothers⟩ := State.tile_issueDesc (State.ordered_of_wf hwf).2 t c hcol
    obtain ⟨o, hlines⟩ := Tile.busyLines_rest (((s.tile t).withCtx c (s.issuedCtx t c d)).enter (dEngine d) c)
      ((s.tile t).toFill (s.ctx t c).args d)
    refine ⟨s.issueDesc t c d, by rw [hlow, hd], ?_, fun i hi => ?_, ?_, ?_, ?_, hothers⟩
    · rw [hself, State.issuedTile, hlines]
      rfl
    · rw [hself]
      exact (Tile.line_busyLines ..).trans (if_pos hi)
    · rw [hself, State.issuedTile, hlines]
      rfl
    · rw [hself, State.issuedTile, hlines]
      rfl
    · rw [hself, State.issuedTile, hlines]
      rfl

end Sys2Proof.Machine
end

section
/-! PROOFS. Committed iterations, completed descriptors and summary slots (R125, R128, R130, R136, R139, R142, R144). -/

namespace Sys2Proof.Machine

/-! Commit of an iteration. -/

/-- A context whose iteration of `d` is committed. -/
def Ctx.advanced (x : Ctx) (d : Bytes) : Ctx :=
  { x with iter := x.iter + 1, part := 0, arrived := [], specRead := false, seen := [], seenAt := 0, allDone := x.iter + 1 == dIters d }

/-- A context goes on to its next iteration, and the tile counts it. -/
def State.advance (s : State) (t c : Nat) (d : Bytes) : State := (s.withCtx t c ((s.ctx t c).advanced d)).tileCount t 0x04 1

/-- The last iteration of `d` frees its engine, but for the mesh interface and for a SELECT. -/
abbrev State.freesEngine (s : State) (t c : Nat) (d : Bytes) : Prop := (s.ctx t c).iter + 1 = dIters d ∧ dEngine d ≠ .mesh ∧ dOp d ≠ 0x02

section Commit
variable {s : State} {t c : Nat} {d : Bytes} (hd : (s.ctx t c).desc = some d) (hcol : isCollective (dOp d) = false)
  (hstop : (s.ctx t c).stop = false)
include hd hcol hstop

theorem State.commitIteration_eq :
    let signalled := if dSigEach d then (s.advance t c d).signal t c d else s.advance t c d
    s.commitIteration t c = if s.freesEngine t c d then signalled.modTile t (·.leave (dEngine d) c) else signalled := by
  unfold State.commitIteration
  simp only [hd, hcol, hstop, beq_iff_eq, if_false, Bool.false_eq_true]
  exact if_congr Iff.rfl rfl rfl

end Commit

/-- A committed iteration changes its own tile alone: the context and the event counts. -/
theorem State.tile_advance {s : State} (hs : keysFrom 0 s.tiles = true) (t c : Nat) (d : Bytes) :
    (∃ m, (s.advance t c d).tile t = ((s.tile t).withCtx c ((s.ctx t c).advanced d)).withCounts m) ∧
      ∀ k, k ≠ t → (s.advance t c d).tile k = s.tile k :=
  State.tile_withTile_tileCount hs t _ 0x04 1

/-! Signals. -/

theorem State.endSignal_once {s : State} {t c : Nat} {d : Bytes} (h : dSigEach d = false) : s.endSignal t c d = s.signal t c d :=
  if_neg (by simp [h])

theorem State.signal_none {s : State} {t c : Nat} {d : Bytes} (h : dBits d 2 11 10 = 0) : s.signal t c d = s := by
  unfold State.signal
  simp [h]

/-- A local signal adds to its counter (R139). -/
theorem State.signal_local_counters {s : State} {t c : Nat} {d : Bytes} (hs : keysFrom 0 s.tiles = true) (h : dBits d 2 11 10 = 1) :
    ((s.signal t c d).tile t).counters =
      mapPut 0 (dBits d 2 9 6) ((s.tile t).counter (dBits d 2 9 6) + BitVec.ofNat 32 (dBits d 2 27 12)) (s.tile t).counters := by
  unfold State.signal
  dsimp only
  rw [if_pos h, State.tile_traceEvent]
  exact congrArg Tile.counters (State.tile_modTile_self hs t _)

/-! Completion. -/

/-- The trace and the signal of a completed descriptor. -/
def State.completed (s : State) (t c : Nat) (d : Bytes) : State :=
  (s.traceTile t 1 (descTrace (s.ctx t c).addr (s.ctx t c).space c (dOp d))).endSignal t c d

section Complete
variable {s : State} {t c : Nat} {d : Bytes} (hclk : s.clocked t = true) (hd : (s.ctx t c).desc = some d) (hsig : (s.tile t).maySignal d = true)
include hd

theorem State.descComplete_waits (hfin : (s.tile t).finished c d = false) : s.descComplete t c = s := by
  unfold State.descComplete
  simp [hd, hfin]

include hclk hsig

theorem State.descComplete_stops (hfin : (s.tile t).finished c d = true) (hstop : (s.ctx t c).stop = true) :
    s.descComplete t c = s.raiseExc t c ⟨0x29, false, dIdx d (dIters d - 1), 0⟩ false := by
  unfold State.descComplete
  simp [hd, hfin, hsig, hclk, hstop]

theorem State.descComplete_goesOn (hfin : (s.tile t).finished c d = true) (hstop : (s.ctx t c).stop = false) :
    s.descComplete t c = ((s.completed t c d).modTile t (·.freeEngines c)).follow t c (s.ctx t c).succ0 := by
  unfold State.descComplete
  simp [hd, hfin, hsig, hclk, hstop, State.completed]

/-! A SELECT. -/

/-- The traces and the signal of a completed SELECT. -/
def State.selected (s : State) (t c : Nat) (d : Bytes) (r : Bool) : State :=
  ((s.traceTile t 3 (natLe 5 (s.ctx t c).addr ++ natLe 1 (dBits d 4 44 42) ++ natLe 1 (b2n r))).traceTile t 1
    (descTrace (s.ctx t c).addr (s.ctx t c).space c 0x02)).endSignal t c d

section Resolve
variable (hop : dOp d = 0x02) (hi : (s.ctx t c).issued = true) (hall : (s.ctx t c).allDone = true)
include hop hi hall

theorem State.selectResolve_taken (hr : (s.ctx t c).result = some true) :
    s.selectResolve t c = ((((s.selected t c d true).dropShadow t c).modTile t (·.freeEngines c)).follow t c (s.ctx t c).succ1) := by
  unfold State.selectResolve
  simp [hd, hi, hall, hr, hop, hclk, hsig, State.selected]

theorem State.selectResolve_passed (hr : (s.ctx t c).result = some false) (hsh : (s.ctx t c).shadow = none) :
    s.selectResolve t c = ((s.selected t c d false).modTile t (·.freeEngines c)).follow t c (s.ctx t c).succ0 := by
  unfold State.selectResolve
  simp [hd, hi, hall, hr, hop, hclk, hsig, hsh, State.selected]

theorem State.selectResolve_confirms {h : Shadow} (hr : (s.ctx t c).result = some false) (hsh : (s.ctx t c).shadow = some h) :
    s.selectResolve t c = (s.selected t c d false).confirmShadow t c h := by
  unfold State.selectResolve
  simp [hd, hi, hall, hr, hop, hclk, hsig, hsh, State.selected]

end Resolve

end Complete

/-! The context after its descriptor, and summary slots. -/

/-- A fetched successor, or one to be fetched, becomes the current descriptor. -/
theorem State.follow_some {s : State} {t c : Nat} {v : Succ} (h : v.bytes ≠ some []) :
    s.follow t c (some v) = s.modCtx t c fun x => { x with
      addr := v.addr, space := v.space, desc := v.bytes, issued := false, iter := 0, allDone := false, succ0 := none, succ1 := none, result := none,
      shadow := none, part := 0, specRead := false, seen := [], seenAt := 0, fills := [] } := if_neg h

/-- A slot takes its values once its gathering has ended (R125). -/
theorem State.summaryWrite_waits {s : State} {t k : Nat} (h : (mapGet Summary.empty k (s.tile t).sums).ready = false) : s.summaryWrite t k = s :=
  if_neg (by simp [h])

theorem State.summaryWrite_takes {s : State} {t k : Nat} (h : (mapGet Summary.empty k (s.tile t).sums).ready = true) :
    s.summaryWrite t k = s.modTile t fun y => { y with
      sums := mapPut Summary.empty k ⟨sumVals (mapGet Summary.empty k (s.tile t).sums).gathered, true, [], false⟩ y.sums } := if_pos h

/-- Settles O19: by what a commit does to its tile, and by where the descriptor stands that is to complete. -/
theorem descriptorEnds : Obligations.DescriptorEnds := by
  refine ⟨fun s t c d hwf hd hcol heach hstop => ?quiet, fun s t c d hd => ?signals, fun s t c d hclk hd hsig => ?completes, fun s t k => ?sums⟩
  case quiet =>
    obtain ⟨⟨m, hself⟩, hothers⟩ := State.tile_advance (State.ordered_of_wf hwf).2 t c d
    have hord : keysFrom 0 (s.advance t c d).tiles = true :=
      (State.tileCount_since (State.withCtx_since (Since.refl hwf))).tilesOrd
    have heq := State.commitIteration_eq hd hcol hstop
    simp only [heach, Bool.false_eq_true, if_false] at heq
    rw [heq]
    by_cases hfree : s.freesEngine t c d
    · rw [if_pos hfree, State.tile_modTile_self hord, hself]
      exact ⟨rfl, rfl, (if_pos hfree).symm, fun k hk => (State.tile_modTile_ne _ hk).trans (hothers k hk)⟩
    · rw [if_neg hfree, hself]
      exact ⟨rfl, rfl, (if_neg hfree).symm, hothers⟩
  case signals =>
    refine ⟨fun hcol heach hstop => ?_, State.endSignal_once,
      fun hwf => State.signal_local_counters (State.ordered_of_wf hwf).2, State.signal_none⟩
    have heq := State.commitIteration_eq hd hcol hstop
    simp only [heach, if_true] at heq
    exact heq
  case completes =>
    refine ⟨fun hfin hstop => ?_, fun hfin hstop => ?_, fun hfin => ?_,
      fun hop hi hall => ⟨fun hr => ?_, fun hr hsh => ?_, fun h hr hsh => ?_⟩, rfl, fun v hv => State.follow_some hv⟩
    · exact congrArg Host.Outcome.next (State.descComplete_goesOn hclk hd hsig hfin hstop)
    · exact congrArg Host.Outcome.next (State.descComplete_stops hclk hd hsig hfin hstop)
    · exact congrArg Host.Outcome.next (State.descComplete_waits hd hfin)
    · rw [hr]
      exact congrArg Host.Outcome.next (State.selectResolve_taken hclk hd hsig hop hi hall hr)
    · rw [hr]
      exact congrArg Host.Outcome.next (State.selectResolve_passed hclk hd hsig hop hi hall hr hsh)
    · rw [hr]
      exact congrArg Host.Outcome.next (State.selectResolve_confirms hclk hd hsig hop hi hall hr hsh)
  case sums =>
    exact ⟨fun h => congrArg Host.Outcome.next (State.summaryWrite_waits h), fun h => congrArg Host.Outcome.next (State.summaryWrite_takes h)⟩

end Sys2Proof.Machine
end

section
/-! PROOFS. Exact sums: the slot that a value modulo 2^336 makes, the sum of a slot and a term, and the limit of terms (R156, R159, R160). -/

namespace Sys2Proof.Machine

/-! Values modulo a power of two. -/

theorem toTwos_cast (n : Nat) (x : Int) : (toTwos n x : Int) = x % 2 ^ n := by
  rw [toTwos, Int.toNat_of_nonneg (Int.emod_nonneg _ (by positivity)), Nat.cast_pow, Nat.cast_ofNat]

/-- The high bits of a code whose low bits are 0. -/
theorem toTwos_mul_div (n k : Nat) (q : Int) : toTwos (n + k) (2 ^ n * q) / 2 ^ n = toTwos k q := by
  have hpos : (0 : Int) < 2 ^ n := by positivity
  have hcode : ((toTwos (n + k) (2 ^ n * q) : Nat) : Int) = ((2 ^ n * toTwos k q : Nat) : Int) := by
    rw [toTwos_cast, pow_add, Int.mul_emod_mul_of_pos _ _ hpos, Nat.cast_mul, toTwos_cast, Nat.cast_pow, Nat.cast_ofNat]
  rw [Int.ofNat_inj.1 hcode, Nat.mul_div_cancel_left _ (by positivity)]

/-- A signed reading differs from its code by a multiple of the modulus. -/
theorem sgn_eq_add_mul (n v : Nat) : ∃ j : Int, sgn n v = v + j * 2 ^ n := by
  have hdiv : ((v % 2 ^ n : Nat) : Int) = v + -(v / 2 ^ n : Int) * 2 ^ n := by
    push_cast
    rw [Int.emod_def]
    ring
  unfold sgn
  split
  · exact ⟨_, hdiv⟩
  · refine ⟨-(v / 2 ^ n : Int) - 1, ?_⟩
    rw [hdiv]
    push_cast
    ring

/-- A number is its low bits, read as a signed number, and a multiple of the modulus. -/
theorem exists_eq_toInt_add_mul (n v : Nat) : ∃ q : Int, (v : Int) = (BitVec.ofNat n v).toInt + 2 ^ n * q := by
  have hmod : (BitVec.ofNat n v).toInt ≡ v [ZMOD 2 ^ n] := by
    rw [← Nat.cast_ofNat, ← Nat.cast_pow, Int.ModEq, BitVec.toInt_ofNat', Int.bmod_emod]
  obtain ⟨q, hq⟩ := hmod.dvd
  exact ⟨q, by rw [← hq, add_sub_cancel]⟩

theorem ofInt_add_mul (n : Nat) (x m : Int) : BitVec.ofInt n (x + m * 2 ^ n) = BitVec.ofInt n x := by
  refine BitVec.eq_of_toNat_eq ?_
  rw [BitVec.toNat_ofInt, BitVec.toNat_ofInt, Nat.cast_pow, Nat.cast_ofNat, Int.add_mul_emod_self_right]

theorem ofNat_toTwos (n : Nat) (x : Int) : BitVec.ofNat n (toTwos n x) = BitVec.ofInt n x := by
  refine BitVec.eq_of_toNat_eq ?_
  rw [BitVec.toNat_ofInt, BitVec.toNat_ofNat, Nat.mod_eq_of_lt, toTwos]
  have := Int.emod_lt_of_pos x (show (0 : Int) < 2 ^ n by positivity)
  rw [← toTwos_cast] at this
  exact_mod_cast this

/-- A sum of two signed numbers of `n` bits differs from its own low bits, read as signed, by one modulus at most. -/
theorem carry_bounds {n : Nat} {a b c : BitVec n} {w : Int} (h : c.toInt = a.toInt + b.toInt - w * 2 ^ n) : -1 ≤ w ∧ w ≤ 1 := by
  have hpos : (0 : Int) < 2 ^ n := by positivity
  have ha := And.intro (BitVec.le_two_mul_toInt (x := a)) (BitVec.two_mul_toInt_lt (x := a))
  have hb := And.intro (BitVec.le_two_mul_toInt (x := b)) (BitVec.two_mul_toInt_lt (x := b))
  have hc := And.intro (BitVec.le_two_mul_toInt (x := c)) (BitVec.two_mul_toInt_lt (x := c))
  constructor <;> by_contra hw <;> nlinarith

/-! Slots of a value. -/

/-- The slot fields of a value: A is its low bits, and E counts what is left in units of 2^320. -/
theorem splitV_spec (v : Nat) : ∃ q : Int, (v : Int) = (splitV v).1.toInt + 2 ^ 320 * q ∧ (splitV v).2 = BitVec.ofInt 16 q := by
  obtain ⟨q, hq⟩ := exists_eq_toInt_add_mul 320 v
  refine ⟨q, hq, ?_⟩
  have hrest : (v : Int) - (BitVec.ofNat 320 v).toInt = 2 ^ 320 * q := by rw [hq, add_sub_cancel_left]
  rw [splitV, hrest, toTwos_mul_div 320 16, ofNat_toTwos]

theorem Slot.v336_cast (x : Slot) : (x.v336 : Int) = (x.a.toInt + 2 ^ 320 * x.e.toNat) % 2 ^ 336 := by
  rw [Slot.v336, toTwos_cast, Nat.cast_mul, Nat.cast_pow, Nat.cast_ofNat, mul_comm]

/-- Only the low bits of what stands above `n` bits count modulo 2^(n + k). -/
theorem add_mul_emod_pow_add (n k : Nat) (a q : Int) : (a + 2 ^ n * (q % 2 ^ k)) % 2 ^ (n + k) = (a + 2 ^ n * q) % 2 ^ (n + k) := by
  have hdiff : a + 2 ^ n * q = a + 2 ^ n * (q % 2 ^ k) + 2 ^ (n + k) * (q / 2 ^ k) := by
    conv_lhs => rw [← Int.emod_add_mul_ediv q (2 ^ k)]
    ring
  rw [hdiff, Int.add_mul_emod_self_left]

/-- V of a slot that is made of a value. -/
theorem Slot.v336_of_splitV {x : Slot} {v : Nat} (ha : x.a = (splitV v).1) (he : x.e = (splitV v).2) : x.v336 = v % 2 ^ 336 := by
  obtain ⟨q, hv, hq⟩ := splitV_spec v
  have hcode : ((x.v336 : Nat) : Int) = ((v % 2 ^ 336 : Nat) : Int) := by
    rw [Slot.v336_cast, ha, he, hq, BitVec.toNat_ofInt, ← toTwos, toTwos_cast, add_mul_emod_pow_add 320 16, ← hv, Int.natCast_mod,
      Nat.cast_pow, Nat.cast_ofNat]
  exact Int.ofNat_inj.1 hcode

/-! The sum of a slot and a term. -/

/-- A slot and a term added, without the limit of terms. -/
def Slot.plus (x : Slot) (t : Term) : Slot :=
  { a := (splitV ((x.v336 + t.v) % 2 ^ 336)).1, e := (splitV ((x.v336 + t.v) % 2 ^ 336)).2, terms := x.terms + t.n, pinf := x.pinf || t.pinf,
    ninf := x.ninf || t.ninf, nan := x.nan || t.nan, poison := x.poison || t.poison, full := false }

/-- Within the limit, a term is added. -/
theorem Slot.add_within {x : Slot} {t : Term} (hf : x.full = false) (hn : x.terms + t.n ≤ 2 ^ 40) : x.add t = (x.plus t, 0) := by
  rw [Slot.add, if_neg (by simp [hf]), if_neg (Nat.not_lt.2 hn)]
  rfl

theorem Slot.v336_plus (x : Slot) (t : Term) : (x.plus t).v336 = (x.v336 + t.v) % 2 ^ 336 := by
  rw [Slot.v336_of_splitV (x := x.plus t) rfl rfl, Nat.mod_mod]

/-- A grows by the low bits of a term, with a carry, and E by its high bits and the carry. -/
theorem Slot.plus_carry (x : Slot) (t : Term) :
    ∃ w : Int, -1 ≤ w ∧ w ≤ 1 ∧ (x.plus t).a.toInt = x.a.toInt + (BitVec.ofNat 320 t.v).toInt - w * 2 ^ 320 ∧
      (x.plus t).e = BitVec.ofInt 16 (x.e.toNat + w + (sgn 336 t.v - (BitVec.ofNat 320 t.v).toInt) / 2 ^ 320) := by
  obtain ⟨q, hsum, hq⟩ := splitV_spec ((x.v336 + t.v) % 2 ^ 336)
  obtain ⟨h, hlo⟩ := exists_eq_toInt_add_mul 320 t.v
  obtain ⟨j, hsgn⟩ := sgn_eq_add_mul 336 t.v
  have hpow : (2 : Int) ^ 336 = 2 ^ 320 * 2 ^ 16 := pow_add 2 320 16
  have hhi : (sgn 336 t.v - (BitVec.ofNat 320 t.v).toInt) / 2 ^ 320 = h + j * 2 ^ 16 := by
    rw [hsgn, hlo, hpow, add_assoc, add_sub_cancel_left, mul_left_comm, ← mul_add, Int.mul_ediv_cancel_left _ (by positivity)]
  obtain ⟨k, hk⟩ : ∃ k : Int, (((x.v336 + t.v) % 2 ^ 336 : Nat) : Int) = x.a.toInt + 2 ^ 320 * x.e.toNat + t.v + 2 ^ 336 * k := by
    refine ⟨-((x.a.toInt + 2 ^ 320 * x.e.toNat + t.v) / 2 ^ 336), ?_⟩
    rw [Int.natCast_mod, Nat.cast_pow, Nat.cast_ofNat, Nat.cast_add, Slot.v336_cast, Int.emod_add_emod, Int.emod_def, mul_neg, sub_eq_add_neg]
  have ha : (x.plus t).a.toInt = x.a.toInt + (BitVec.ofNat 320 t.v).toInt - (q - x.e.toNat - h - 2 ^ 16 * k) * 2 ^ 320 := by
    have hfields : (splitV ((x.v336 + t.v) % 2 ^ 336)).1.toInt + 2 ^ 320 * q =
        x.a.toInt + 2 ^ 320 * x.e.toNat + ((BitVec.ofNat 320 t.v).toInt + 2 ^ 320 * h) + 2 ^ 320 * 2 ^ 16 * k := by
      rw [← hsum, hk, ← hlo, hpow]
    rw [Slot.plus]
    generalize (2 : Int) ^ 320 = m at hfields ⊢
    linear_combination hfields
  obtain ⟨hge, hle⟩ := carry_bounds ha
  refine ⟨_, hge, hle, ha, ?_⟩
  rw [hhi, Slot.plus, hq, ← ofInt_add_mul 16 q (-k + j)]
  exact congrArg (BitVec.ofInt 16) (by ring)

/-- Terms may change places. -/
theorem Slot.plus_right_comm (x : Slot) (t u : Term) : (x.plus t).plus u = (x.plus u).plus t := by
  have hsum : ((x.plus t).v336 + u.v) % 2 ^ 336 = ((x.plus u).v336 + t.v) % 2 ^ 336 := by
    rw [Slot.v336_plus, Slot.v336_plus, Nat.mod_add_mod, Nat.mod_add_mod, Nat.add_right_comm]
  rw [Slot.plus, hsum, Slot.plus.eq_def (x.plus u)]
  congr 1
  · exact Nat.add_right_comm ..
  all_goals exact Bool.or_right_comm ..

/-- Within the limit, terms are added one after another. -/
theorem Slot.foldl_add_within : ∀ {ts : List Term} {x : Slot}, x.full = false → x.terms + (ts.map (·.n)).sum ≤ 2 ^ 40 →
    ts.foldl (fun y t => (y.add t).1) x = ts.foldl Slot.plus x
  | [], _, _, _ => rfl
  | t :: ts, x, hf, hn => by
    rw [List.map_cons, List.sum_cons, ← Nat.add_assoc] at hn
    rw [List.foldl_cons, List.foldl_cons, Slot.add_within hf (Nat.le_of_add_right_le hn)]
    exact Slot.foldl_add_within rfl hn

/-- Settles O29: within the limit a slot takes a term by addition modulo 2^336, and terms may change places. -/
theorem exactSumOrderFree : Obligations.ExactSumOrderFree := by
  refine ⟨fun x t hf hn _ => ?_, fun x ts us hf hn hp => ?_⟩
  · rw [Slot.add_within hf hn]
    exact ⟨⟨rfl, rfl, rfl, rfl, rfl, rfl, rfl⟩, x.plus_carry t, x.v336_plus t⟩
  · have hn' : x.terms + (us.map (·.n)).sum ≤ 2 ^ 40 := (hp.map (·.n)).sum_eq ▸ hn
    rw [Slot.foldl_add_within hf hn, Slot.foldl_add_within hf hn']
    exact hp.foldl_eq' (fun t _ u _ y => y.plus_right_comm t u) x

/-! The limit of terms. -/

/-- Beyond the limit, a term is discarded (R159). -/
theorem Slot.add_beyond {x : Slot} {t : Term} (hf : x.full = false) (hn : 2 ^ 40 < x.terms + t.n) :
    x.add t = ({ x with poison := true, full := true }, aTermLimit) := by
  rw [Slot.add, if_neg (by simp [hf]), if_pos hn]

theorem Slot.add_full {x : Slot} (h : x.full = true) (t : Term) : x.add t = (x, 0) := if_pos h

/-- Settles O30: by what a slot does at its limit and past it. -/
theorem termLimit : Obligations.TermLimit := by
  intro x t u hf hn
  rw [Slot.add_beyond hf hn]
  exact ⟨rfl, Slot.add_full rfl u, rfl, rfl⟩

end Sys2Proof.Machine
end

section
/-! PROOFS. The accumulator opcodes, deferred terms and residue mismatches (R161, R162, R165-R167, R170, R171). -/

namespace Sys2Proof.Machine

/-! What the bodies answer. -/

/-- ACCSUM adds the terms that it reads, if its residue mismatches let the add go on, and reads the sums out where it is asked (R166, R170). -/
theorem accsumBody_ok {n : Nat} {e : Run} {s s1 : State} {ts : List (Term × Nat)} (hr : readTerms e s = .ok ts s1) :
    let old := (s1.tile e.t).slotsFrom (slotBase e.d) (opA e.d).cols
    let sum := addTerms (opA e.d).cols ts (if bit (dSubop e.d) 0 then old.map fun _ => Slot.zero else old)
    let put (w : State → State) (s : State) : State :=
      let r := s.residue e.t n
      if r.2 then w ((r.1.modTile e.t fun y => (y.putSlots (slotBase e.d) sum.1).accFlag sum.2).tileCount e.t 0x0F (ts.foldl (fun n x => n + x.1.n) 0))
      else r.1
    (bit (dSubop e.d) 1 = false → accsumBody n e s = .ok (put id) s1) ∧
      (bit (dSubop e.d) 1 = true → ∀ {r s2 w s3}, readOut (dImmBits e.d 9 6) (dImmBits e.d 11 10) sum.1 s1 = .ok r s2 →
        writeRowsOf e (opD e.d) (e.rowsOf (opD e.d) r.1.length 1) r.1 s2 = .ok w s3 →
        accsumBody n e s = .ok (put fun s => (w s).modTile e.t (·.accFlag r.2)) s3) := by
  intro old sum put
  unfold accsumBody
  dsimp only
  rw [bind_ok hr, get_bind]
  refine ⟨fun h => ?_, fun h r s2 w s3 hread hw => ?_⟩
  · rw [h]
    rfl
  · rw [h]
    exact (bind_ok hread).trans (bind_ok hw)

/-- ACCREAD reads slots out, and clears them where it is asked (R162, R166). -/
theorem accreadBody_ok {e : Run} {s s1 s2 : State} {r : Bytes × Nat} {w : State → State}
    (hr : readOut (dImmBits e.d 9 6) (dImmBits e.d 11 10) ((s.tile e.t).slotsFrom (slotBase e.d) (opD e.d).cols) s = .ok r s1)
    (hw : writeRowsOf e (opD e.d) (e.rowsOf (opD e.d) r.1.length 1) r.1 s1 = .ok w s2) :
    accreadBody e s = .ok (fun s => (w s).modTile e.t fun y =>
      (if bit (dSubop e.d) 0 then y.putSlots (slotBase e.d) ((List.range (opD e.d).cols).map fun _ => Slot.zero) else y).accFlag r.2) s2 := by
  unfold accreadBody
  rw [get_bind, bind_ok hr]
  exact bind_ok hw

/-- ACCSTORE stores slots as raw long words, and clears them where it is asked (R161). -/
theorem accstoreBody_ok {e : Run} {s s1 : State} {w : State → State}
    (hw : writeRowsOf e (opD e.d) (e.rowsOf (opD e.d) (64 * (opD e.d).cols) 1)
      (((s.tile e.t).slotsFrom (slotBase e.d) (opD e.d).cols).flatMap Slot.raw) s = .ok w s1) :
    accstoreBody e s = .ok (fun s => (w s).modTile e.t fun y =>
      if bit (dSubop e.d) 0 then y.putSlots (slotBase e.d) ((List.range (opD e.d).cols).map fun _ => Slot.zero) else y) s1 := by
  unfold accstoreBody
  rw [get_bind]
  exact bind_ok hw

/-- ACCLOAD puts well-formed raw long words into slots (R161). -/
theorem accloadBody_ok {e : Run} {s s1 : State} {a : Bytes}
    (hr : readRuns e (opA e.d).space (e.rowsOf (opA e.d) (64 * (opA e.d).cols) (opA e.d).rows) s = .ok a s1)
    (hok : ∀ b ∈ cutEvery 64 (opA e.d).count a, rawOk b = true) :
    accloadBody e s = .ok (fun s => s.modTile e.t (·.putSlots (slotBase e.d) ((cutEvery 64 (opA e.d).count a).map rawSlot))) s1 := by
  unfold accloadBody
  dsimp only
  rw [bind_ok hr]
  exact bind_ok (need_ok (List.all_eq_true.2 hok))

/-! Deferred terms (R167). -/

/-- The oldest deferred term of a slot is added, unless its residue mismatches end the add. -/
theorem State.deferredAdd_some {s : State} {t n k : Nat} {x : Nat × Slot} (h : (s.tile t).deferred.find? (fun x => x.1 == n) = some x) :
    let r := (s.modTile t fun y => { y with deferred := y.deferred.erase x }).residue t k
    s.deferredAdd t n k = if r.2 then r.1.addTerm t n x.2.term else r.1 := by
  unfold State.deferredAdd
  rw [h]

theorem State.deferredAdd_none {s : State} {t n k : Nat} (h : (s.tile t).deferred.find? (fun x => x.1 == n) = none) : s.deferredAdd t n k = s := by
  unfold State.deferredAdd
  rw [h]

/-! Residue mismatches (R170, R171). -/

/-- A residue mismatch flagged and counted. -/
def State.residueRetry (s : State) (t : Nat) : State :=
  (s.modTile t fun x => { x.accFlag aRetry with residueAt := some s.clk.kclk }).tileCount t 0x10 1

theorem State.residue_zero (s : State) (t : Nat) : s.residue t 0 = (s, true) := rfl

/-- A mismatch within 1 ms of the last retires the tile, and ends the add. -/
theorem State.residue_succ (s : State) (t n : Nat) :
    s.residue t (n + 1) = if (s.tile t).residueAt.any fun w => s.clk.kclk < w + 250000 then ((s.residueRetry t).retireTile t 0x03 0, false)
      else (s.residueRetry t).residue t n := rfl

theorem State.residue_first {s : State} {t : Nat} (h : (s.tile t).residueAt = none) (n : Nat) :
    s.residue t (n + 1) = (s.residueRetry t).residue t n := by
  rw [State.residue_succ, h]
  rfl

theorem State.residue_second {s : State} {t w : Nat} (h : (s.tile t).residueAt = some w) (hw : s.clk.kclk < w + 250000) (n : Nat) :
    s.residue t (n + 1) = ((s.residueRetry t).retireTile t 0x03 0, false) := by
  rw [State.residue_succ, h, Option.any_some, if_pos (decide_eq_true hw)]

/-- Settles O31: every command iterates the body of its opcode, by what that body answers, and by what a residue mismatch does. -/
theorem accumulatorOpcodes : Obligations.AccumulatorOpcodes := by
  intro s s1 s2 t c n d a w e base y
  refine ⟨fun hit => ⟨fun ts ho hr => ?accsum, fun r ho hr hw => ?accread, fun ho => ?accclr, fun ho hw => ?accstore, fun ho hr hok => ?accload⟩,
    fun x k hx => ?deferred, fun k hx => ?nothing, State.residue_zero s t, fun hx => ?first, fun v hx hv => ?second⟩
  case accsum =>
    obtain ⟨hplain, hread⟩ := accsumBody_ok (n := n) hr
    exact ⟨fun h => (exec_of_body (i := .accsum t c n) rfl hit ho (hplain h) :),
      fun r s3 h hro hw => (exec_of_body (i := .accsum t c n) rfl hit ho (hread h hro hw) :)⟩
  case accread => exact (exec_of_body (i := .accread t c) rfl hit ho (accreadBody_ok hr hw) :)
  case accclr => exact (exec_of_body (i := .accclr t c) (body := accclrBody) rfl hit ho rfl :)
  case accstore => exact (exec_of_body (i := .accstore t c) rfl hit ho (accstoreBody_ok hw) :)
  case accload => exact (exec_of_body (i := .accload t c) rfl hit ho (accloadBody_ok hr hok) :)
  case deferred =>
    have hadd := State.deferredAdd_some (k := k) hx
    exact ⟨fun h => congrArg Host.Outcome.next (hadd.trans (if_pos h)), fun h => congrArg Host.Outcome.next (hadd.trans (if_neg (by simp [h])))⟩
  case nothing => exact congrArg Host.Outcome.next (State.deferredAdd_none hx)
  case first => exact State.residue_first hx 0
  case second => exact State.residue_second hx hv n

end Sys2Proof.Machine
end

section
/-! PROOFS. Stream records: SSORT, SGATHER, SFILTER and SMINMAX (R175-R179). -/

namespace Sys2Proof.Machine

/-! Sorting keeps every record. -/

theorem insertRec_perm (key : Bytes → List Int) (x : Bytes) : ∀ l, (insertRec key x l).Perm (x :: l)
  | [] => .rfl
  | y :: l => by
    unfold insertRec
    split
    · exact .rfl
    · exact ((insertRec_perm key x l).cons y).trans (.swap x y l)

theorem foldl_insertRec_perm (key : Bytes → List Int) : ∀ l a : List Bytes, (l.foldl (fun a x => insertRec key x a) a).Perm (a ++ l)
  | [], a => by rw [List.append_nil]; exact .rfl
  | x :: l, a => (foldl_insertRec_perm key l _).trans (((insertRec_perm key x a).append_right l).trans List.perm_middle.symm)

theorem sortRecs_perm (key : Bytes → List Int) (l : List Bytes) : (sortRecs key l).Perm l := foldl_insertRec_perm key l []

/-! What the bodies answer. -/

section Bodies
variable {e : Run} {s s1 s2 : State} {l : List Bytes} {w : State → State} (hr : readRecords e s = .ok l s1)
include hr

theorem ssortBody_ok (hw : writeRecords e (sortRecs (sortKey (dKeyFmt e.d) (dOrder e.d)) l) s1 = .ok w s2) : ssortBody e s = .ok w s2 :=
  (bind_ok hr).trans hw

theorem sgatherBody_ok (hw : writeRecords e (sortRecs (gatherKey (dOrder e.d)) l) s1 = .ok w s2) : sgatherBody e s = .ok w s2 :=
  (bind_ok hr).trans hw

theorem sfilterBody_ok (hw : writeRecords e (sortRecs (gatherKey (dOrder e.d)) (l.filter fun r =>
    keyTest (dKeyFmt e.d) (dImmBits e.d 11 9) (dWord e.d 4 % 2 ^ keyBits (dKeyFmt e.d)) (recKey r))) s1 = .ok w s2) : sfilterBody e s = .ok w s2 :=
  (bind_ok hr).trans hw

theorem sminmaxBody_ok :
    let data := (bestRec (dKeyFmt e.d) (dImmBits e.d 11 9 == 1) l).getD [] ++ natLe 4 l.length ++ zeros 28
    writeRowsOf e (opD e.d) [(e.at (opD e.d), data.length)] data s1 = .ok w s2 → sminmaxBody e s = .ok w s2 :=
  fun hw => (bind_ok hr).trans hw

end Bodies

/-- Settles O32: every command iterates the body of its opcode, by what that body answers, and sorting inserts each record once. -/
theorem streamOpcodes : Obligations.StreamOpcodes :=
  ⟨fun _ _ _ t c _ _ _ hit hr =>
    ⟨fun ho hw => exec_of_body (i := .ssort t c) rfl hit ho (ssortBody_ok hr hw),
      fun ho hw => exec_of_body (i := .sgather t c) rfl hit ho (sgatherBody_ok hr hw),
      fun ho hw => exec_of_body (i := .sfilter t c) rfl hit ho (sfilterBody_ok hr hw),
      fun ho hw => exec_of_body (i := .sminmax t c) rfl hit ho (sminmaxBody_ok hr hw)⟩,
    sortRecs_perm⟩

end Sys2Proof.Machine
end

section
/-! PROOFS. Reads of operands leave a context where it is in its iteration (R117, R121, R320, R326). -/

namespace Sys2Proof.Machine

/-! What HBM reads leave of the tiles. -/

@[simp] theorem State.retirePch_tiles (s : State) (k p : Nat) : (s.retirePch k p).tiles = s.tiles :=
  State.raiseFault_tiles ..

@[simp] theorem State.beginRepair_tiles (s : State) (k blk : Nat) : (s.beginRepair k blk).tiles = s.tiles := by
  unfold State.beginRepair
  dsimp only
  split
  · rfl
  · exact State.retirePch_tiles ..

theorem State.countUncorr_tiles (s : State) (k blk source : Nat) : (s.countUncorr k blk source).tiles = s.tiles := rfl

@[simp] theorem State.hbmUncorr_tiles (s : State) (k blk source : Nat) : (s.hbmUncorr k blk source).tiles = s.tiles := by
  unfold State.hbmUncorr
  dsimp only
  split_ifs <;> simp [State.countUncorr_tiles]

/-- Operations that leave the tiles leave them over a list. -/
theorem forEach_tiles {α : Type} {f : α → State → State} (hf : ∀ a s, (f a s).tiles = s.tiles) : ∀ (l : List α) (s : State),
    (forEach l f s).tiles = s.tiles
  | [], _ => rfl
  | a :: l, s => (forEach_tiles hf l (f a s)).trans (hf a s)

theorem State.hbmRead_tiles (s : State) (k off n : Nat) (spec : Bool) (source : Nat) : (s.hbmRead k off n spec source).1.tiles = s.tiles :=
  (forEach_tiles (fun b s => s.hbmUncorr_tiles k b source) _ _).trans rfl

theorem State.readPieces_tiles (s : State) (ps : List (Nat × Nat × Nat)) (spec : Bool) (source : Nat) :
    (s.readPieces ps spec source).1.tiles = s.tiles := by
  unfold State.readPieces
  exact List.foldlRecOn (motive := fun r : State × Bytes × Bool => r.1.tiles = s.tiles) ps _ rfl fun r hr p _ => (State.hbmRead_tiles ..).trans hr

/-! What a read keeps of its context. -/

/-- A computation keeps a property of the state wherever it answers. -/
def ItKeeps {α : Type} (P : State → Prop) (m : It α) : Prop := ∀ s a s', P s → m s = .ok a s' → P s'

namespace ItKeeps
variable {α β : Type} {P : State → Prop}

theorem pure (a : α) : ItKeeps P (pure a : It α) := by
  intro s b s' hs h
  cases h
  exact hs

theorem throw (x : Halt) : ItKeeps P (throw x : It α) := by
  intro s b s' hs h
  cases h

theorem set {x : State} (hx : P x) : ItKeeps P (set x : It PUnit) := by
  intro s b s' hs h
  cases h
  exact hx

theorem modify {f : State → State} (hf : ∀ s, P s → P (f s)) : ItKeeps P (modify f : It PUnit) := by
  intro s b s' hs h
  cases h
  exact hf s hs

theorem bind {m : It α} {k : α → It β} (hm : ItKeeps P m) (hk : ∀ a, ItKeeps P (k a)) : ItKeeps P (m >>= k) := by
  intro s b s' hs h
  cases hr : m s with
  | ok a u => exact hk a u b s' (hm s a u hs hr) ((bind_ok hr).symm.trans h)
  | error x u => cases (bind_error hr).symm.trans h

/-- A computation that throws in the end does not answer. -/
theorem bind_throw (m : It α) (x : Halt) : ItKeeps P (m >>= fun _ => (MonadExcept.throw x : It β)) := by
  intro s b s' _ h
  cases hr : m s with
  | ok a u => cases (bind_ok hr).symm.trans h
  | error y u => cases (bind_error hr).symm.trans h

theorem get_bind {k : State → It β} (hk : ∀ s, P s → ItKeeps P (k s)) : ItKeeps P ((get : It State) >>= k) :=
  fun s b s' hs h => hk s hs s b s' hs h

theorem ite {c : Prop} [Decidable c] {m n : It α} (hm : ItKeeps P m) (hn : ItKeeps P n) : ItKeeps P (if c then m else n) := by
  split <;> assumption

/-- A check that may halt it goes before the rest of a computation. -/
theorem guard {c : Prop} [Decidable c] {x : Halt} {k : PUnit → It α} (hk : ∀ a, ItKeeps P (k a)) :
    ItKeeps P (if c then (MonadExcept.throw x : It PUnit) >>= k else k ⟨⟩) := ite (bind (throw x) hk) (hk _)

theorem need (c : Bool) (k : Nat) : ItKeeps P (need c k) := ite (.pure _) (.throw _)

end ItKeeps

/-- A context runs the descriptor `d`, with `n` parts done of its iteration `j`. -/
structure State.runsAt (s : State) (t c : Nat) (d : Bytes) (j n : Nat) : Prop where
  ord : keysFrom 0 s.tiles = true
  desc : (s.ctx t c).desc = some d
  iter : (s.ctx t c).iter = j
  part : (s.ctx t c).part = n

namespace State.runsAt
variable {s : State} {t c j n : Nat} {d : Bytes} (h : s.runsAt t c d j n)
include h

theorem of_ctx {u : State} (hord : keysFrom 0 u.tiles = true) (hu : u.ctx t c = s.ctx t c) : u.runsAt t c d j n :=
  ⟨hord, hu ▸ h.desc, hu ▸ h.iter, hu ▸ h.part⟩

theorem of_tiles {u : State} (hu : u.tiles = s.tiles) : u.runsAt t c d j n :=
  h.of_ctx (hu ▸ h.ord) (by rw [State.ctx, State.tile, hu, State.ctx, State.tile])

theorem withTile {y : Tile} (hy : y.ctxs = (s.tile t).ctxs) : (s.withTile t y).runsAt t c d j n := by
  refine h.of_ctx (keysFrom_mapPut _ _ _ (Nat.zero_le _) h.ord) ?_
  rw [State.ctx, State.tile_withTile_self h.ord, Tile.ctx, hy, State.ctx, Tile.ctx]

/-- A context that runs a descriptor is not idle, so a change of it stands in its tile's table. -/
theorem modCtx {f : Ctx → Ctx} (hd : ∀ x, (f x).desc = x.desc) (hj : ∀ x, (f x).iter = x.iter) (hp : ∀ x, (f x).part = x.part) :
    (s.modCtx t c f).runsAt t c d j n := by
  have hdesc : (f (s.ctx t c)).desc = some d := (hd _).trans h.desc
  have hctx : (s.modCtx t c f).ctx t c = f (s.ctx t c) := by
    have hbusy : f (s.ctx t c) ≠ Ctx.idle := by
      intro hidle
      rw [hidle] at hdesc
      cases hdesc
    rw [State.ctx, State.modCtx, State.withCtx, State.tile_modTile_self h.ord]
    exact mapGet_mapPut_listed c hbusy _
  exact ⟨keysFrom_mapPut _ _ _ (Nat.zero_le _) h.ord, by rw [hctx, hdesc], by rw [hctx, hj, h.iter], by rw [hctx, hp, h.part]⟩

theorem streamRun (l reg : Nat) : (s.streamRun t l reg).runsAt t c d j n := by
  unfold State.streamRun
  dsimp only
  split
  · exact h.of_tiles rfl
  · exact (h.withTile (y := { s.tile t with runNoted := true }) rfl).of_tiles (State.raiseFault_tiles ..)

/-- What an inject takes from a port leaves the contexts of the tile alone. -/
theorem portTake (l p : Nat) : (s.portTake t l p).1.runsAt t c d j n := by
  have hused : (s.modTile t (·.use p)).runsAt t c d j n := h.withTile rfl
  have hread (q : Prop) [Decidable q] (b b' : Bytes) :
      (if q then ((s.modTile t (·.use p)).useFreeN 64, b) else (s.modTile t (·.use p), b')).1.runsAt t c d j n := by
    split
    · exact hused.of_tiles rfl
    · exact hused
  unfold State.portTake
  dsimp only
  split
  · exact hread ..
  · exact hused
  · exact hread ..
  · split
    · exact h
    · exact h.withTile (by split <;> rfl)
  · split
    · exact h.streamRun ..
    · exact h.withTile rfl
  · exact h

omit h in
theorem takeMany (l p : Nat) : ∀ (k : Nat) {s : State}, s.runsAt t c d j n → (takeMany t l p k s).1.runsAt t c d j n
  | 0, _, h => h
  | k + 1, _, h => takeMany l p k (h.portTake l p)

end State.runsAt

section Reads
variable {e : Run} {d : Bytes} {j n : Nat}

theorem remember_keeps {act : It Bytes} (h : ItKeeps (·.runsAt e.home e.c d j n) act) : ItKeeps (·.runsAt e.home e.c d j n) (remember e act) := by
  unfold remember
  refine .get_bind fun s hs => ?_
  dsimp only
  split
  · exact .bind (.set (hs.modCtx (fun _ => rfl) (fun _ => rfl) fun _ => rfl)) fun _ => .pure _
  · exact .bind h fun _ => .bind (.modify fun _ hu => hu.modCtx (fun _ => rfl) (fun _ => rfl) fun _ => rfl) fun _ => .pure _

theorem keepRead_keeps {act : It Bytes} (h : ItKeeps (·.runsAt e.home e.c d j n) act) : ItKeeps (·.runsAt e.home e.c d j n) (keepRead e act) :=
  .ite (remember_keeps h) h

theorem readTileRuns_keeps (rs : List (Int × Nat)) : ItKeeps (·.runsAt e.home e.c d j n) (readTileRuns e rs) :=
  keepRead_keeps (.bind (.need _ _) fun _ => .get_bind fun _ _ => .bind (.need _ _) fun _ => .pure _)

theorem readCacheRuns_keeps (rs : List (Int × Nat)) : ItKeeps (·.runsAt e.home e.c d j n) (readCacheRuns e rs) := by
  refine keepRead_keeps (.bind (.need _ _) fun _ => .bind (.need _ _) fun _ => .get_bind fun s _ => .bind (.need _ _) fun _ => .guard fun _ => ?_)
  dsimp only
  split
  · exact .bind_throw _ _
  · exact .pure _

theorem hbmPieces_keeps (r : Int × Nat) : ItKeeps (·.runsAt e.home e.c d j n) (hbmPieces e r) := by
  refine .bind (.need _ _) fun _ => .get_bind fun s hs => ?_
  refine .ite (.bind (.set (hs.of_tiles rfl)) fun _ => .bind (.throw _) fun _ => ?_) ?_
  all_goals
    dsimp only
    split
    · exact .throw _
    · exact .ite (.throw _) (.pure _)

theorem readHbmRun_keeps (r : Int × Nat) : ItKeeps (·.runsAt e.home e.c d j n) (readHbmRun e r) :=
  keepRead_keeps (.bind (hbmPieces_keeps r) fun _ => .get_bind fun _ hs => .bind (.set (hs.of_tiles (State.readPieces_tiles ..))) fun _ =>
    .bind (.need _ _) fun _ => .pure _)

theorem readHbmRuns_keeps : ∀ rs : List (Int × Nat), ItKeeps (·.runsAt e.home e.c d j n) (readHbmRuns e rs)
  | [] => .pure _
  | r :: rs => .bind (readHbmRun_keeps r) fun _ => .bind (readHbmRuns_keeps rs) fun _ => .pure _

/-- A read of an addressed space leaves its context where it is in its iteration. -/
theorem readRuns_keeps (space : Nat) (rs : List (Int × Nat)) : ItKeeps (·.runsAt e.home e.c d j n) (readRuns e space rs) := by
  unfold readRuns
  split
  · exact readTileRuns_keeps rs
  · exact readCacheRuns_keeps rs
  · exact readHbmRuns_keeps rs
  · exact .bind (.need _ _) fun _ => .pure _
  · exact .throw _

theorem readScales_keeps (o : Opnd) : ItKeeps (·.runsAt e.home e.c d j n) (readScales e o) := by
  exact .ite (.pure _) (.ite (.bind (readRuns_keeps _ _) fun _ => .bind (readRuns_keeps _ _) fun _ => .pure _)
    (.bind (.pure _) fun _ => .bind (readRuns_keeps _ _) fun _ => .pure _))

variable (hhome : e.home = e.t)
include hhome

theorem readTile_keeps (o : Opnd) : ItKeeps (·.runsAt e.home e.c d j n) (readTile e o) := by
  refine remember_keeps (.get_bind fun s hs => ?_)
  dsimp only
  split
  · exact .ite (.throw _) (.bind_throw _ _)
  · refine .bind (.need _ _) fun _ => .bind (.set ?_) fun _ => .pure _
    rw [← hhome]
    exact hs.withTile rfl

theorem readTileN_keeps (o : Opnd) : ∀ k, ItKeeps (·.runsAt e.home e.c d j n) (readTileN e o k)
  | 0 => .pure _
  | k + 1 => .bind (readTile_keeps hhome o) fun _ => .bind (readTileN_keeps o k) fun _ => .pure _

theorem readPort_keeps (o : Opnd) : ItKeeps (·.runsAt e.home e.c d j n) (readPort e o) := by
  refine .get_bind fun s hs => .guard fun _ => ?_
  refine .ite (.guard fun _ => .bind (.set ?_) fun _ => .pure _) (.bind (.need _ _) fun _ => .guard fun _ => .bind (.set ?_) fun _ => .pure _)
  · rw [← hhome]
    exact hs.withTile rfl
  · rw [← hhome]
    exact .takeMany _ _ _ hs

/-- A read of an operand leaves its context where it is in its iteration. -/
theorem readOpnd_keeps (o : Opnd) : ItKeeps (·.runsAt e.home e.c d j n) (readOpnd e o) := by
  unfold readOpnd
  split
  · exact .bind (.need _ _) fun _ => readTileN_keeps hhome o _
  · exact readPort_keeps hhome o
  · exact readRuns_keeps _ _

theorem readScaled_keeps (o : Opnd) : ItKeeps (·.runsAt e.home e.c d j n) (readScaled e o) :=
  .bind (.bind (readOpnd_keeps hhome o) fun _ => .pure _) fun _ => .bind (readScales_keeps o) fun _ => .pure _

theorem raccData_keeps : ItKeeps (·.runsAt e.home e.c d j n) (raccData e) :=
  .ite (.bind (readScaled_keeps hhome _) fun _ => .pure _) (.bind (readRuns_keeps _ _) fun _ => .pure _)

end Reads

end Sys2Proof.Machine
end

section
/-! PROOFS. Remote opcodes: the requests of an iteration, and the wait for their responses (R150, R173, R174, R289-R291). -/

namespace Sys2Proof.Machine

/-! A request that is sent. -/

theorem State.meshPut_tiles (s : State) (k dst : Nat) (f : Frame) : (s.meshPut k dst f).tiles = s.tiles := by
  unfold State.meshPut State.wakeAt
  split
  · exact State.wakeBlock_tiles ..
  · rfl

/-- A tile that sends a frame and counts is what it was but for its event counts. -/
theorem State.tile_tileSend_tileCount {s : State} (hs : keysFrom 0 s.tiles = true) (t : Nat) (y : Tile) (l : Nat) (f : Frame) (ev n : Nat) :
    ∃ m, (((s.withTile t y).tileSend l f).tileCount t ev n).tile t = y.withCounts m := by
  have hsend : ((s.withTile t y).tileSend l f).tiles = (s.withTile t y).tiles := State.meshPut_tiles ..
  obtain ⟨m, hm⟩ := State.tile_tileCount (s := (s.withTile t y).tileSend l f) (hsend ▸ keysFrom_mapPut _ _ _ (Nat.zero_le _) hs) t ev n
  have htile : ((s.withTile t y).tileSend l f).tile t = y := by
    rw [State.tile, hsend]
    exact State.tile_withTile_self hs t y
  exact ⟨m, hm.trans (by rw [htile])⟩

/-- A tile awaits a request that it has sent, but for a signal. -/
theorem State.awaits_sendRequest {s : State} (hs : keysFrom 0 s.tiles = true) (t c iter : Nat) {use : ReqUse} (huse : use ≠ .signal)
    (qcls rcls op node addr arg0 arg1 len : Nat) (data : Bytes) :
    ((s.sendRequest t c iter use qcls rcls op node addr arg0 arg1 len data).tile t).awaits c = true := by
  obtain ⟨m, hm⟩ := State.tile_tileSend_tileCount hs t _ (s.logicalOf t) _ 0x13 1
  refine (congrArg (Tile.awaits · c) hm).trans ?_
  refine List.any_eq_true.2 ⟨_, List.mem_append_right _ (List.mem_singleton_self _), ?_⟩
  simp [huse]

/-- The state after one request of an iteration. -/
def State.sent (s : State) (e : Run) (q : Req) (data : Bytes) (qc rc node : Nat) : State :=
  let s1 := (s.sendRequest e.t e.c e.j q.use qc rc q.op node q.addr q.arg0 q.arg1 q.len data).modCtx e.t e.c fun x => { x with part := x.part + 1 }
  if q.use = .fp32Add then s1.tdcTile e.t 1 else s1

/-- A change of a tile that leaves its requests leaves those that it awaits. -/
theorem State.awaits_modTile {s : State} (hs : keysFrom 0 s.tiles = true) {t : Nat} {g : Tile → Tile} (hg : ∀ y, (g y).reqs = y.reqs) (c : Nat) :
    ((s.modTile t g).tile t).awaits c = (s.tile t).awaits c := by
  rw [State.tile_modTile_self hs, Tile.awaits, hg, Tile.awaits]

theorem State.awaits_modCtx {s : State} (hs : keysFrom 0 s.tiles = true) (t c : Nat) (f : Ctx → Ctx) (k : Nat) :
    ((s.modCtx t c f).tile t).awaits k = (s.tile t).awaits k :=
  State.awaits_modTile (g := (·.withCtx c (f (s.ctx t c)))) hs (fun _ => rfl) k

theorem State.awaits_tdcTile {s : State} (hs : keysFrom 0 s.tiles = true) (t n k : Nat) : ((s.tdcTile t n).tile t).awaits k = (s.tile t).awaits k :=
  State.awaits_modTile (g := fun x => { x with counts := mapPut 0 7 (satAdd (mapGet 0 7 x.counts) n) x.counts }) hs (fun _ => rfl) k

section Requests
variable {e : Run} {s s1 : State}

theorem State.sent_since {o : State} (h : Since o s) (q : Req) (data : Bytes) (qc rc node : Nat) : Since o (s.sent e q data qc rc node) := by
  unfold State.sent
  dsimp only
  split
  · exact State.tdcTile_since (State.modCtx_since (State.sendRequest_since h))
  · exact State.modCtx_since (State.sendRequest_since h)

theorem State.awaits_sent {q : Req} (hwf : s.wf = true) (huse : q.use ≠ .signal) (data : Bytes) (qc rc node : Nat) :
    ((s.sent e q data qc rc node).tile e.t).awaits e.c = true := by
  have hreq : Since s (s.sendRequest e.t e.c e.j q.use qc rc q.op node q.addr q.arg0 q.arg1 q.len data) := State.sendRequest_since (Since.refl hwf)
  have haw := (State.awaits_modCtx hreq.tilesOrd e.t e.c (fun x => { x with part := x.part + 1 }) e.c).trans
    (State.awaits_sendRequest (Since.refl hwf).tilesOrd e.t e.c e.j huse qc rc q.op node q.addr q.arg0 q.arg1 q.len data)
  unfold State.sent
  dsimp only
  split
  · exact (State.awaits_tdcTile (State.modCtx_since hreq).tilesOrd ..).trans haw
  · exact haw

/-- A request goes out where the tile may send one (R290). -/
theorem sendReq_ok (hmay : (s.tile e.t).mayRequest = true) (q : Req) (data : Bytes) (qc rc node : Nat) :
    sendReq e q data qc rc node s = .ok () (s.sent e q data qc rc node) := by
  unfold sendReq
  rw [get_bind, if_neg (by simp [hmay])]
  rfl

/-- Of a store, the data are read; other requests carry their arguments. -/
theorem reqData_none {q : Req} (h : q.op ≠ 2) : reqData e q s = .ok [] s := by
  unfold reqData
  rw [if_neg h]
  rfl

theorem sendReqs_one {q : Req} (h : q.op ≠ 2) (hmay : (s.tile e.t).mayRequest = true) (qc rc node : Nat) :
    sendReqs e qc rc node [q] s = .ok () (s.sent e q [] qc rc node) := by
  unfold sendReqs
  rw [get_bind, if_neg (by simp [hmay])]
  exact (bind_ok (reqData_none h)).trans ((bind_ok (sendReq_ok hmay ..)).trans rfl)

theorem awaitAll_holds (h : (s.tile e.t).awaits e.c = true) : awaitAll e s = .error .hold s := by
  unfold awaitAll
  rw [get_bind, if_pos h]
  rfl

theorem awaitAll_ok (h : (s.tile e.t).awaits e.c = false) : awaitAll e s = .ok () s := by
  unfold awaitAll
  rw [get_bind, if_neg (by simp [h])]
  rfl

theorem sentSoFar_ok {n : Nat} (h : (s.ctx e.t e.c).part = n) : sentSoFar e s = .ok n s := by
  rw [← h]
  rfl

/-- Requests that go out for the first time hold the iteration for their responses. -/
theorem runReqs_sends {node : Nat} {qs : List Req} (hp : (s.ctx e.t e.c).part = 0)
    (hs : sendReqs e (dImmBits e.d 2 0) (dImmBits e.d 5 3) node qs s = .ok () s1) (haw : (s1.tile e.t).awaits e.c = true) :
    runReqs e node qs s = .error .hold s1 :=
  (bind_ok (sentSoFar_ok hp)).trans ((bind_ok hs).trans (awaitAll_holds haw))

/-- With every request sent and answered, the iteration goes on. -/
theorem runReqs_answered {node : Nat} {qs : List Req} (hp : (s.ctx e.t e.c).part = qs.length) (haw : (s.tile e.t).awaits e.c = false) :
    runReqs e node qs s = .ok () s := by
  refine (bind_ok (sentSoFar_ok hp)).trans ?_
  rw [List.drop_length]
  exact (bind_ok (a := ()) rfl).trans (awaitAll_ok haw)

theorem runReqs_one {node : Nat} {q : Req} (hwf : s.wf = true) (hp : (s.ctx e.t e.c).part = 0) (hop : q.op ≠ 2) (huse : q.use ≠ .signal)
    (hmay : (s.tile e.t).mayRequest = true) :
    runReqs e node [q] s = .error .hold (s.sent e q [] (dImmBits e.d 2 0) (dImmBits e.d 5 3) node) :=
  runReqs_sends hp (sendReqs_one hop hmay ..) (State.awaits_sent hwf huse ..)

end Requests

/-- An action that changes the state goes on with it. -/
theorem modify_bind {β : Type} (f : State → State) (k : PUnit → It β) (s : State) : ((modify f : It PUnit) >>= k) s = k ⟨⟩ (f s) := rfl

/-! First halves: the requests go out, and the iteration holds. -/

/-- A computation that answers from a well-formed state leaves a well-formed one. -/
theorem ItSince.wf_of_ok {α : Type} {m : It α} {s s' : State} {a : α} (hm : ItSince s m fun _ => True) (hwf : s.wf = true) (h : m s = .ok a s') :
    s'.wf = true := by
  have hrun := hm.run s (Since.refl hwf)
  rw [h] at hrun
  exact hrun.1.wf

section Sends
variable {e : Run} {v : Bytes} {f : Nat} {s s1 : State} (hwf : s1.wf = true) (hp : (s.ctx e.t e.c).part = 0) (hmay : (s1.tile e.t).mayRequest = true)
include hwf hp hmay

/-- An atomic goes out with its operands (R291). -/
theorem atomicBody_sends {op n : Nat} (hop : op ≠ 2) (hp1 : (s1.ctx e.t e.c).part = 0) (hf : fabricAt e (opD e.d) 8 s = .ok f s)
    (hr : canReturn e s = .ok () s) (hv : readRuns e (opA e.d).space (e.rows (opA e.d)) s = .ok v s1) :
    atomicBody e op n s = .error .hold
      (s1.sent e ⟨.atomic, op, f, rdLe v 0 8, rdLe v 8 8, 0, (0, 0)⟩ [] (dImmBits e.d 2 0) (dImmBits e.d 5 3) (opD e.d).node) := by
  have hargs : atomicArgs e n s = .ok v s1 := (bind_ok (sentSoFar_ok hp)).trans hv
  unfold atomicBody
  rw [bind_ok hf, bind_ok hr, bind_ok hargs]
  exact bind_error (runReqs_one hwf hp1 hop nofun hmay)

/-- A floating-point add goes out with its operand (R174). -/
theorem rfpaddBody_sends (hp1 : (s1.ctx e.t e.c).part = 0) (hf : fabricAt e (opD e.d) 4 s = .ok f s)
    (hv : readRuns e (opA e.d).space (e.rows (opA e.d)) s = .ok v s1) :
    rfpaddBody e s = .error .hold
      (s1.sent e ⟨.fp32Add, 6, f, rdLe v 0 4, 0, 0, (0, 0)⟩ [] (dImmBits e.d 2 0) (dImmBits e.d 5 3) (opD e.d).node) := by
  unfold rfpaddBody
  rw [bind_ok hf, bind_ok (sentSoFar_ok hp)]
  exact (bind_ok hv).trans (bind_error (runReqs_one hwf hp1 (by simp) nofun hmay))

/-- An exact add goes out with its terms (R173). -/
theorem raccBody_sends {tf fl : Nat} (hf : fabricAt e (opD e.d) 1 s = .ok f s) (h0 : bits f 18 4 = 0) (hv : raccData e s = .ok (tf, v, fl) s1) :
    raccBody e s = .error .hold ((s1.sent e ⟨.exactAdd, 5, f, tf + ((opA e.d).cols - 1) <<< 2, 0, v.length, (0, 0)⟩ v
      (dImmBits e.d 2 0) (dImmBits e.d 5 3) (opD e.d).node).modTile e.t (·.accFlag fl)) := by
  unfold raccBody
  rw [bind_ok hf, bind_ok (need_ok (by simp [h0])), bind_ok (sentSoFar_ok hp)]
  refine (bind_ok hv).trans ((bind_ok (sendReq_ok hmay ..)).trans ((modify_bind ..).trans (bind_error (awaitAll_holds ?_))))
  refine (State.awaits_modTile (g := (·.accFlag fl)) ?_ (fun _ => rfl) _).trans (State.awaits_sent hwf ?_ ..)
  · exact (State.sent_since (Since.refl hwf) ..).tilesOrd
  · exact nofun

/-- A trigger goes out with its argument (R150). -/
theorem triggerBody_sends (ha : dBits e.d 5 39 0 % 32 = 0) (hin : dBits e.d 5 39 0 + 32 ≤ 393216)
    (hv : readTileRuns e [((dBits e.d 5 39 0 : Int), 32)] s = .ok v s1) :
    let w := dWord e.d 4
    triggerBody e s = .error .hold (s1.sent e ⟨.trigger, 8, fabricAddr (bits w 13 0) 3 (bits w 28 14 + (bits w 34 29) <<< 15), 0, 0, 32, (0, 0)⟩ v
      (lowClass (s1.classMask e.owner)) (highClass (s1.classMask e.owner)) (bits w 13 0)) := by
  unfold triggerBody
  dsimp only
  rw [bind_ok (need_ok (by simp [ha, hin, tileBytes])), bind_ok (sentSoFar_ok hp)]
  refine (bind_ok hv).trans ((bind_ok (sendReq_ok hmay ..)).trans (bind_error (awaitAll_holds (State.awaits_sent hwf ?_ ..))))
  exact nofun

end Sends

section Waits
variable {e : Run} {f : Nat} {s s1 : State} {qs : List Req} (hp : (s.ctx e.t e.c).part = 0) (haw : (s1.tile e.t).awaits e.c = true)
include hp haw

/-- A load goes out in parts of 1 KiB (R290). -/
theorem rloadBody_sends (hf : fabricAt e (opA e.d) 8 s = .ok f s) (hc : canWrite e (opD e.d).space (e.rows (opD e.d)) s = .ok () s)
    (hs : sendReqs e (dImmBits e.d 2 0) (dImmBits e.d 5 3) (opA e.d).node
      ((cutKib ((opA e.d).length / 1024 + 2) f 0 (opA e.d).length).map fun x => ⟨.load x.1, 1, f + x.1, 0, 0, x.2, (0, 0)⟩) s = .ok () s1) :
    rloadBody e s = .error .hold s1 :=
  (bind_ok hf).trans ((bind_ok hc).trans (bind_error (runReqs_sends hp hs haw)))

/-- A store goes out with its data, in parts of 1 KiB (R290). -/
theorem rstoreBody_sends (hf : fabricAt e (opD e.d) 8 s = .ok f s) (hc : canRead e (opA e.d).space (e.rows (opA e.d)) s = .ok () s)
    (hs : sendReqs e (dImmBits e.d 2 0) (dImmBits e.d 5 3) (opD e.d).node
      ((cutKib ((opD e.d).length / 1024 + 2) f 0 (opD e.d).length).map fun x => ⟨.store, 2, f + x.1, 0, 0, x.2, x⟩) s = .ok () s1) :
    rstoreBody e s = .error .hold s1 :=
  (bind_ok hf).trans ((bind_ok hc).trans (bind_error (runReqs_sends hp hs haw)))

end Waits

/-! Second halves: with every response in, the iteration ends. -/

section Answered
variable {e : Run} {f : Nat} {s s1 : State} {w : State → State} (haw : (s.tile e.t).awaits e.c = false)
include haw

/-- A load writes what came (R290). -/
theorem rloadBody_answered (hf : fabricAt e (opA e.d) 8 s = .ok f s) (hc : canWrite e (opD e.d).space (e.rows (opD e.d)) s = .ok () s)
    (hp : (s.ctx e.t e.c).part = (cutKib ((opA e.d).length / 1024 + 2) f 0 (opA e.d).length).length)
    (hw : writeOpnd e (opD e.d) ((s.ctx e.t e.c).arrived.foldl (fun b x => splice b x.1 x.2) (zeros (opA e.d).length)) s = .ok w s1) :
    rloadBody e s = .ok w s1 :=
  (bind_ok hf).trans ((bind_ok hc).trans ((bind_ok (runReqs_answered (hp.trans (List.length_map ..).symm) haw)).trans hw))

theorem rstoreBody_answered (hf : fabricAt e (opD e.d) 8 s = .ok f s) (hc : canRead e (opA e.d).space (e.rows (opA e.d)) s = .ok () s)
    (hp : (s.ctx e.t e.c).part = (cutKib ((opD e.d).length / 1024 + 2) f 0 (opD e.d).length).length) : rstoreBody e s = .ok id s :=
  (bind_ok hf).trans ((bind_ok hc).trans ((bind_ok (runReqs_answered (hp.trans (List.length_map ..).symm) haw)).trans rfl))

variable (hp : (s.ctx e.t e.c).part = 1)
include hp

/-- An atomic returns the old value as B takes it (R291). -/
theorem atomicBody_answered {op n : Nat} (hf : fabricAt e (opD e.d) 8 s = .ok f s) (hr : canReturn e s = .ok () s) :
    atomicBody e op n s = returnOld e ((s.ctx e.t e.c).arrived.foldl (fun b x => splice b x.1 x.2) (zeros 8)) s := by
  have hargs : atomicArgs e n s = .ok (zeros n) s := (bind_ok (sentSoFar_ok hp)).trans rfl
  unfold atomicBody
  rw [bind_ok hf, bind_ok hr, bind_ok hargs]
  exact bind_ok (runReqs_answered hp haw)

theorem atomicBody_dropped {op n : Nat} (hf : fabricAt e (opD e.d) 8 s = .ok f s) (hr : canReturn e s = .ok () s) (hb : (opB e.d).space = 0) :
    atomicBody e op n s = .ok id s :=
  (atomicBody_answered haw hp hf hr).trans (congrFun (if_pos hb) s)

theorem atomicBody_returned {op n : Nat} (hf : fabricAt e (opD e.d) 8 s = .ok f s) (hr : canReturn e s = .ok () s) (hb : (opB e.d).space ≠ 0)
    (hw : writeAt e (opB e.d).space (e.at (opB e.d)) ((s.ctx e.t e.c).arrived.foldl (fun b x => splice b x.1 x.2) (zeros 8)) s = .ok w s1) :
    atomicBody e op n s = .ok w s1 :=
  (atomicBody_answered haw hp hf hr).trans ((congrFun (if_neg hb) s).trans hw)

theorem rfpaddBody_answered (hf : fabricAt e (opD e.d) 4 s = .ok f s) : rfpaddBody e s = .ok id s := by
  unfold rfpaddBody
  rw [bind_ok hf, bind_ok (sentSoFar_ok hp)]
  exact (bind_ok (a := []) rfl).trans ((bind_ok (runReqs_answered hp haw)).trans rfl)

theorem raccBody_answered (hf : fabricAt e (opD e.d) 1 s = .ok f s) (h0 : bits f 18 4 = 0) : raccBody e s = .ok id s := by
  unfold raccBody
  rw [bind_ok hf, bind_ok (need_ok (by simp [h0])), bind_ok (sentSoFar_ok hp)]
  exact (bind_ok (awaitAll_ok haw)).trans rfl

theorem triggerBody_answered (ha : dBits e.d 5 39 0 % 32 = 0) (hin : dBits e.d 5 39 0 + 32 ≤ 393216) : triggerBody e s = .ok id s := by
  unfold triggerBody
  dsimp only
  rw [bind_ok (need_ok (by simp [ha, hin, tileBytes])), bind_ok (sentSoFar_ok hp)]
  exact (bind_ok (awaitAll_ok haw)).trans rfl

end Answered

/-- A command that iterates a body, where the body holds. -/
theorem exec_of_hold {i : Instr} {s s' : State} {t c op : Nat} {d : Bytes} {body : Run → It (State → State)}
    (hrow : exec i s = .next (s.iterate t c op body)) (hit : s.iterates t c d) (ho : dOp d = op)
    (hb : body (s.runNow t c d) s = .error .hold s') : exec i s = .next s' :=
  hrow.trans (congrArg Host.Outcome.next (iterate_hold hit ho hb))

/-- Settles O28: by what each body answers before its requests are sent, and once they are answered. -/
theorem remoteOpcodes : Obligations.RemoteOpcodes := by
  refine ⟨fun s s1 t c f d v hwf hit hp hmay hmay1 => ?sends, fun s s1 t c f d w hit haw => ?answered⟩
  case sends =>
    have hs : s.runsAt t c d (s.ctx t c).iter 0 := ⟨(Since.refl hwf).tilesOrd, (Ctx.runner_current_iff.1 hit.1).1, rfl, hp⟩
    have hread {space : Nat} {rs : List (Int × Nat)} (hv : readRuns (s.runNow t c d) space rs s = .ok v s1) :
        s1.wf = true ∧ s1.runsAt t c d (s.ctx t c).iter 0 := ⟨ItSince.wf_of_ok readRuns_it hwf hv, readRuns_keeps _ _ s v s1 hs hv⟩
    refine ⟨fun hf hr hv => ?atomics, fun ho hf hv => ?rfpadd, fun tf fl ho hf h0 hv => ?racc, fun ho ha hin hv => ?trigger,
      fun qs ho hf hc hqs hs haw => ?rload, fun qs ho hf hc hqs hs haw => ?rstore⟩
    case atomics =>
      obtain ⟨hwf1, hs1⟩ := hread hv
      dsimp only
      rw [hs1.iter]
      exact ⟨fun ho => (exec_of_hold (i := .rfadd t c) rfl hit ho (atomicBody_sends hwf1 hp hmay1 (by decide) hs1.part hf hr hv) :),
        fun ho => (exec_of_hold (i := .rcas t c) rfl hit ho (atomicBody_sends hwf1 hp hmay1 (by decide) hs1.part hf hr hv) :)⟩
    case rfpadd =>
      obtain ⟨hwf1, hs1⟩ := hread hv
      dsimp only
      rw [hs1.iter]
      exact (exec_of_hold (i := .rfpadd t c) rfl hit ho (rfpaddBody_sends hwf1 hp hmay1 hs1.part hf hv) :)
    case racc =>
      have hs1 : s1.runsAt t c d (s.ctx t c).iter 0 := raccData_keeps rfl s _ s1 hs hv
      dsimp only
      rw [hs1.iter]
      exact (exec_of_hold (i := .racc t c) rfl hit ho (raccBody_sends (ItSince.wf_of_ok raccData_it hwf hv) hp hmay1 hf h0 hv) :)
    case trigger =>
      exact (exec_of_hold (i := .trigger t c) rfl hit ho (triggerBody_sends (ItSince.wf_of_ok readTileRuns_it hwf hv) hp hmay1 ha hin hv) :)
    case rload =>
      subst hqs
      exact (exec_of_hold (i := .rload t c) rfl hit ho (rloadBody_sends hp haw hf hc hs) :)
    case rstore =>
      subst hqs
      exact (exec_of_hold (i := .rstore t c) rfl hit ho (rstoreBody_sends hp haw hf hc hs) :)
  case answered =>
    refine ⟨fun ho hf hc hp hw => ?rload, fun ho hf hc hp => ?rstore, fun hp hf hr => ?atomics,
      fun hp => ⟨fun ho hf => ?rfpadd, fun ho hf h0 => ?racc, fun ho ha hin => ?trigger⟩⟩
    case rload => exact (exec_of_body (i := .rload t c) rfl hit ho (rloadBody_answered haw hf hc hp hw) :)
    case rstore => exact (exec_of_body (i := .rstore t c) rfl hit ho (rstoreBody_answered haw hf hc hp) :)
    case atomics =>
      exact ⟨fun hb => ⟨fun ho => (exec_of_body (i := .rfadd t c) rfl hit ho (atomicBody_dropped haw hp hf hr hb) :),
          fun ho => (exec_of_body (i := .rcas t c) rfl hit ho (atomicBody_dropped haw hp hf hr hb) :)⟩,
        fun hb hw => ⟨fun ho => (exec_of_body (i := .rfadd t c) rfl hit ho (atomicBody_returned haw hp hf hr hb hw) :),
          fun ho => (exec_of_body (i := .rcas t c) rfl hit ho (atomicBody_returned haw hp hf hr hb hw) :)⟩⟩
    case rfpadd => exact (exec_of_body (i := .rfpadd t c) rfl hit ho (rfpaddBody_answered haw hp hf) :)
    case racc => exact (exec_of_body (i := .racc t c) rfl hit ho (raccBody_answered haw hp hf h0) :)
    case trigger => exact (exec_of_body (i := .trigger t c) rfl hit ho (triggerBody_answered haw hp ha hin) :)

end Sys2Proof.Machine
end

section
/-! PROOFS. Iterations of the collective opcodes: what a member reads, and what it sends (R194-R198). -/

namespace Sys2Proof.Machine

/-- The entry that a collective descriptor names. -/
abbrev Run.entry (e : Run) : Nat := dImmBits e.d 7 0

/-- The sequence number that a collective descriptor took at its issue (R192). -/
abbrev Run.joinedSeq (e : Run) (s : State) : Nat := (s.group e.entry).nextSeq e.l - 1

/-- What a collective descriptor has joined is `x`, and it is the member `m` there. -/
abbrev Run.isMember (e : Run) (s u : State) (x : Inst) (m : ColMember) : Prop :=
  (u.group e.entry).inst (e.joinedSeq s) = some x ∧ x.members.find? (·.tile == e.l) = some m

/-- The body of a collective opcode reads what leads from `s` to `s1`, and then makes `u` of it. -/
abbrev colMakes (e : Run) (s s1 u : State) : Prop := ∃ f, colBody e s = .ok f s1 ∧ f s1 = u

section Bodies
variable {e : Run} {s s1 s2 : State} {x : Inst} {m : ColMember} {b z : Bytes}
  (hw : (opD e.d).space = 0 ∨ canWrite e (opD e.d).space (colRows s e.t e.c e.d) s = .ok () s)
include hw

/-- ALLRED and REDSCAT contribute A's elements as raw long words, and the flags of their forming stay at the reducers (R194). -/
theorem colBody_sums {v : List (Num × Bool)} (ho : dOp e.d = 0x80 ∨ dOp e.d = 0x81) (hr : readScaled e (opA e.d) s = .ok v s1) :
    let ts := v.map fun y => termOf y.1
    let g := s.group e.entry
    let u := forEach (List.range (ceilDiv v.length 16)) (fun w s =>
      s.modTile (s.phys (g.redBase + w % max 1 g.redCount)) (·.accFlag (((ts.drop (16 * w)).take 16).foldl (fun f y => f ||| y.2) 0))) s1
    e.isMember s u x m → colMakes e s s1 (u.contribute e.entry x m 64 0 (ts.flatMap fun y => (Slot.zero.add y.1).1.raw)) := by
  rintro ts g u ⟨hx, hm⟩
  have hs : colSums (dOp e.d) = true := by rcases ho with h | h <;> rw [h] <;> rfl
  unfold colMakes colBody
  dsimp only
  rw [get_bind, check_ok hw.resolve_left, if_pos hs, bind_ok hr]
  refine ⟨_, rfl, ?_⟩
  dsimp only [u, g, ts] at hx
  rw [hx]
  dsimp only
  rw [hm]

/-- ALLGATH contributes A from its rank's place on, and BCAST from byte 0 (R194). -/
theorem colBody_copies (ho : dOp e.d = 0x82 ∨ dOp e.d = 0x83) (ha : (opA e.d).space ≠ 0) (hr : readOpnd e (opA e.d) s = .ok b s1)
    (h : e.isMember s s1 x m) {lo : Nat} (hlo : (if dOp e.d = 0x82 then (s.rankOf (s.group e.entry) e.l).getD 0 * b.length else 0) = lo) :
    colMakes e s s1 (s1.contribute e.entry x m 1 lo b) := by
  subst hlo
  have hs : ¬ colSums (dOp e.d) = true := by rcases ho with h | h <;> rw [h] <;> decide
  have hc : colCopies (dOp e.d) = true := by rcases ho with h | h <;> rw [h] <;> rfl
  unfold colMakes colBody
  dsimp only
  rw [get_bind, check_ok hw.resolve_left, if_neg hs, if_pos hc, if_neg ha, bind_ok hr]
  refine ⟨_, rfl, ?_⟩
  rw [h.1]
  dsimp only
  rw [h.2]

/-- PARENC and PARREB contribute A times its coefficient of each parity (R197, R198). -/
theorem colBody_parity (ho : dOp e.d = 0x89 ∨ dOp e.d = 0x8A) (ha : (opA e.d).space ≠ 0) (hr : readOpnd e (opA e.d) s = .ok b s1)
    (h : e.isMember s s1 x m) :
    colMakes e s s1 (s1.contribute e.entry x m 1 0
      ((parityRows e.d (s.group e.entry).members.length ((s.rankOf (s.group e.entry) e.l).getD 0)).flatMap fun y => gfScale y.2 b)) := by
  have hs : ¬ colSums (dOp e.d) = true := by rcases ho with h | h <;> rw [h] <;> decide
  have hc : ¬ colCopies (dOp e.d) = true := by rcases ho with h | h <;> rw [h] <;> decide
  have hm : ¬ colMerges (dOp e.d) = true := by rcases ho with h | h <;> rw [h] <;> decide
  have h4 : dOp e.d ≠ 0x84 := by omega
  have h5 : dOp e.d ≠ 0x85 := by omega
  have h6 : dOp e.d ≠ 0x86 := by omega
  unfold colMakes colBody
  dsimp only
  rw [get_bind, check_ok hw.resolve_left, if_neg hs, if_neg hc, if_neg h4, if_neg h5, if_neg h6, if_neg hm, if_neg ha, bind_ok hr]
  refine ⟨_, rfl, ?_⟩
  rw [h.1]
  dsimp only
  rw [h.2]

/-- A rank that brings no A has its part accepted at once. -/
theorem colBody_receives (ho : dOp e.d = 0x82 ∨ dOp e.d = 0x83 ∨ dOp e.d = 0x89 ∨ dOp e.d = 0x8A) (ha : (opA e.d).space = 0) :
    colMakes e s s (s.accept e.entry (e.joinedSeq s) e.l) := by
  have hs : ¬ colSums (dOp e.d) = true := by rcases ho with h | h | h | h <;> rw [h] <;> decide
  have hm : ¬ colMerges (dOp e.d) = true := by rcases ho with h | h | h | h <;> rw [h] <;> decide
  have h4 : dOp e.d ≠ 0x84 := by omega
  have h5 : dOp e.d ≠ 0x85 := by omega
  have h6 : dOp e.d ≠ 0x86 := by omega
  unfold colMakes colBody
  dsimp only
  rw [get_bind, check_ok hw.resolve_left, if_neg hs, if_neg h4, if_neg h5, if_neg h6, if_neg hm, if_pos ha, if_pos ha, ite_self]
  exact ⟨_, rfl, rfl⟩

/-- BARRIER announces its member, whose part is accepted at once (R196). -/
theorem colBody_barrier (ho : dOp e.d = 0x84) (h : e.isMember s s x m) :
    colMakes e s s ((s.announce e.entry (e.joinedSeq s) m 8 0).accept e.entry (e.joinedSeq s) e.l) := by
  unfold colMakes colBody
  dsimp only
  rw [get_bind, check_ok hw.resolve_left, ho]
  refine ⟨_, rfl, ?_⟩
  rw [h.1]
  dsimp only
  rw [h.2]

/-- ALLTOALL sends every endpoint its CHUNK of A (R194). -/
theorem colBody_alltoall (ho : dOp e.d = 0x85) (hr : readOpnd e (opA e.d) s = .ok b s1) (h : e.isMember s s1 x m) :
    let n := (s.group e.entry).members.length
    let k := chunkBits e.d n
    colMakes e s s1 ((forEach (List.range n) (fun j s => s.sendTo e.entry x m j (bitSlice b (j * k) k)) s1).accept e.entry (e.joinedSeq s) e.l) := by
  unfold colMakes colBody
  dsimp only
  rw [get_bind, check_ok hw.resolve_left, ho]
  refine ⟨_, bind_ok hr, ?_⟩
  rw [h.1]
  dsimp only
  rw [h.2]

/-- ALLTOALLV keeps A, and sends every endpoint the size that B gives it (R195). -/
theorem colBody_alltoallv (ho : dOp e.d = 0x86) (hr : readOpnd e (opA e.d) s = .ok b s1) :
    let g := s.group e.entry
    let n := g.members.length
    let rows := sizeRows (opB e.d) (e.at (opB e.d))
    let sizes := (List.range n).map fun j => rdLe z (4 * j) 4
    let u := s2.modInst e.entry (e.joinedSeq s) fun y => y.modMember e.l fun k => { k with data := b, sizes := sizes }
    readRuns e (opB e.d).space rows s1 = .ok z s2 → canWrite e (opB e.d).space rows s2 = .ok () s2 → (∀ k ∈ sizes, k % 64 = 0) →
    e.isMember s u x m → colMakes e s s2 ((forEach (List.range n) (fun j s =>
      s.colSend e.entry (s.colFrame e.entry x 7 s.node (nth g.members j ⟨0, 0, 0⟩).node (nth g.members j ⟨0, 0, 0⟩).tile 0 m.rank
        (nth sizes j 0) [])) u).sizesIn e.entry (e.joinedSeq s) m) := by
  intro g n rows sizes u hz hc hall h
  have hsizes : sizes.all (fun k => k % 64 == 0) = true := by simpa using hall
  unfold colMakes colBody
  dsimp only
  rw [get_bind, check_ok hw.resolve_left, ho]
  refine ⟨_, (bind_ok hr).trans ((bind_ok hz).trans ((bind_ok hc).trans (bind_ok (need_ok hsizes)))), ?_⟩
  rw [h.1]
  dsimp only
  rw [h.2]

/-- SORTMERGE and FILTCOMP keep A's records, and announce how many they bring (R196). -/
theorem colBody_merges (ho : dOp e.d = 0x87 ∨ dOp e.d = 0x88) :
    let rb := recordBytes (dColPlen e.d)
    let rows := (List.range (opA e.d).rows).map fun k => (e.at (opA e.d) + ((k * (if (opA e.d).stride = 0 then rb else (opA e.d).stride) : Nat) : Int), rb)
    let u := s1.modInst e.entry (e.joinedSeq s) fun y => y.modMember e.l fun k => { k with data := b }
    readRuns e (opA e.d).space rows s = .ok b s1 → (cutRecords (dColPlen e.d) b).all (recordOk (dColKey e.d)) = true → e.isMember s u x m →
    colMakes e s s1 (u.announce e.entry (e.joinedSeq s) m 7 (memberRecords e.d b).length) := by
  intro rb rows u hr hok h
  have hs : ¬ colSums (dOp e.d) = true := by rcases ho with h | h <;> rw [h] <;> decide
  have hc : ¬ colCopies (dOp e.d) = true := by rcases ho with h | h <;> rw [h] <;> decide
  have hm : colMerges (dOp e.d) = true := by rcases ho with h | h <;> rw [h] <;> rfl
  have h4 : dOp e.d ≠ 0x84 := by omega
  have h5 : dOp e.d ≠ 0x85 := by omega
  have h6 : dOp e.d ≠ 0x86 := by omega
  unfold colMakes colBody
  dsimp only
  rw [get_bind, check_ok hw.resolve_left, if_neg hs, if_neg hc, if_neg h4, if_neg h5, if_neg h6, if_pos hm, bind_ok hr, bind_ok (need_ok hok)]
  refine ⟨_, rfl, ?_⟩
  rw [h.1]
  dsimp only
  rw [h.2]

end Bodies

/-- A command that iterates a collective opcode commits what its body makes. -/
theorem exec_of_colMakes {i : Instr} {s s1 u : State} {t c op : Nat} {d : Bytes} (hrow : exec i s = .next (s.iterate t c op colBody))
    (hit : s.iterates t c d) (ho : dOp d = op) (h : colMakes (s.runNow t c d) s s1 u) : exec i s = .next (u.commitIteration t c) := by
  obtain ⟨f, hf, rfl⟩ := h
  exact exec_of_body hrow hit ho hf

/-- Settles O33: every command iterates the body of the collectives, by what that body makes for each kind of opcode. -/
theorem collectiveOpcodes : Obligations.CollectiveOpcodes := by
  intro s s1 s2 t c d b z x m hit e en g q n r member ends accepted parity all hw
  refine ⟨fun v hr => ?sums, fun ha hr h => ?sends, fun ha => ?receives, fun ho h => ?barrier, fun ho hr h => ?alltoall,
    fun ho hr hz hc hall h => ?alltoallv, fun hr hok h => ?merges⟩
  case sums =>
    intro ts u h sent
    exact ⟨fun ho => (exec_of_colMakes (i := .allred t c) rfl hit ho (colBody_sums (e := e) hw (.inl ho) hr h) :),
      fun ho => (exec_of_colMakes (i := .redscat t c) rfl hit ho (colBody_sums (e := e) hw (.inr ho) hr h) :)⟩
  case sends =>
    have hbcast (ho : dOp d = 0x83) : dOp d ≠ 0x82 := by rw [ho]; decide
    exact ⟨fun ho => (exec_of_colMakes (i := .allgath t c) rfl hit ho (colBody_copies (e := e) hw (.inl ho) ha hr h (if_pos ho)) :),
      fun ho => (exec_of_colMakes (i := .bcast t c) rfl hit ho (colBody_copies (e := e) hw (.inr ho) ha hr h (if_neg (hbcast ho))) :),
      fun ho => (exec_of_colMakes (i := .parenc t c) rfl hit ho (colBody_parity (e := e) hw (.inl ho) ha hr h) :),
      fun ho => (exec_of_colMakes (i := .parreb t c) rfl hit ho (colBody_parity (e := e) hw (.inr ho) ha hr h) :)⟩
  case receives =>
    exact ⟨fun ho => (exec_of_colMakes (i := .allgath t c) rfl hit ho (colBody_receives (e := e) hw (.inl ho) ha) :),
      fun ho => (exec_of_colMakes (i := .bcast t c) rfl hit ho (colBody_receives (e := e) hw (.inr (.inl ho)) ha) :),
      fun ho => (exec_of_colMakes (i := .parenc t c) rfl hit ho (colBody_receives (e := e) hw (.inr (.inr (.inl ho))) ha) :),
      fun ho => (exec_of_colMakes (i := .parreb t c) rfl hit ho (colBody_receives (e := e) hw (.inr (.inr (.inr ho))) ha) :)⟩
  case barrier => exact (exec_of_colMakes (i := .barrier t c) rfl hit ho (colBody_barrier (e := e) hw ho h) :)
  case alltoall => exact (exec_of_colMakes (i := .alltoall t c) rfl hit ho (colBody_alltoall (e := e) hw ho hr h) :)
  case alltoallv => exact (exec_of_colMakes (i := .alltoallv t c) rfl hit ho (colBody_alltoallv (e := e) hw ho hr hz hc hall h) :)
  case merges =>
    exact ⟨fun ho => (exec_of_colMakes (i := .sortmerge t c) rfl hit ho (colBody_merges (e := e) hw (.inl ho) hr hok h) :),
      fun ho => (exec_of_colMakes (i := .filtcomp t c) rfl hit ho (colBody_merges (e := e) hw (.inr ho) hr hok h) :)⟩

end Sys2Proof.Machine
end

section
/-! PROOFS. The groups' statement fails outside the form of a state: a register that the table lists several times does not take a field of
zero (R184). -/

namespace Sys2Proof.Machine

/-- Owner 1 with tile 0 as the one member and tile 1 as the reducer of entry 3, whose list is a word of zeros in HBM. The entry is asked to
commit with the epoch 2^16, which COL_GRP_STATE_3 shows as 0, and the table of registers lists COL_GRP_STATE_3 four times. -/
def State.listedOver : State :=
  { State.reset with
    regs := [(Reg.colGrpCfg 3, word (1 <<< 1 + 1 <<< 7)), (Reg.colGrpList 3, word (1 <<< 40)), (Reg.colGrpReduce 3, word (1 + 1 <<< 15 + 1 <<< 42)),
      (Reg.colGrpState 3, word (1 <<< 57)), (Reg.colGrpState 3, 7), (Reg.colGrpState 3, 7), (Reg.colGrpState 3, 7)],
    groups := [(3, { Group.empty with newEpoch := 2 ^ 16 })],
    tiles := [(0, { Tile.reset with idState := 1, idLogical := some 0 }), (1, { Tile.reset with idState := 1, idLogical := some 1 })],
    dies := [(0, { Die.reset with structured := true, active := zeros 128 ++ natLe 256 0x11 ++ natLe 8 0x12 })],
    commit := { State.reset.commit with parts := [(1, natLe 64 (1 <<< 8 + 1 <<< 16) ++ natLe 8 (1 <<< 8 + 1 <<< 36))] } }

/-- What the read of its list leaves. -/
abbrev State.listedOverRead : State × Option (List Nat) := State.listedOver.listRead 3 false (State.listedOver.staged 3 []).owner

/-- Its list is read, and passes every check of Table 8-3. -/
theorem State.listedOver_premises :
    State.listedOver.fld (Reg.colGrpState 3) 57 57 = 1 ∧ State.listedOverRead.2 = some [0] ∧
      State.listedOverRead.1.listError 3 State.listedOverRead.2 = 0 := by
  decide +kernel

/-- The EPOCH that entry 3 shows after a step. -/
def epochAfter : Out → Nat
  | .next t => t.groupEpoch 3
  | _ => 0

/-- Each field of zero takes an entry of the register out of the table, and the next entry, with 7 in EPOCH, takes its place. -/
theorem State.listedOver_epoch : epochAfter (exec (.listCommitDone 3 false) State.listedOver) = 7 := by decide +kernel

/-- The entry keeps the epoch that it was asked for. -/
theorem State.listedOver_asked :
    ((((State.listedOverRead.1.withFld (Reg.colGrpState 3) 57 57 0).withFld (Reg.colGrpState 3) 56 53
      (State.listedOverRead.1.listError 3 State.listedOverRead.2)).group 3).newEpoch % 65536) = 0 := by
  decide +kernel

/-- Refutes O34: of a state whose table lists COL_GRP_STATE_3 four times, a committed list does not put the epoch in force that it was asked for. -/
theorem not_groupsAndInstances : ¬ Obligations.GroupsAndInstances := by
  rintro ⟨hgroups, -⟩
  obtain ⟨hbusy, hread, hpass⟩ := State.listedOver_premises
  obtain ⟨-, -, hcommit⟩ := hgroups State.listedOver .host 3 0 (by decide)
  obtain ⟨-, hforce⟩ := hcommit false State.listedOverRead.1 State.listedOverRead.2 hbusy rfl
  obtain ⟨t, ht, -, hepoch, -⟩ := hforce [0] hread hpass
  have hrun := State.listedOver_epoch
  rw [ht] at hrun
  have hzero : t.groupEpoch 3 = 0 := hepoch.trans State.listedOver_asked
  exact absurd (hrun.symm.trans hzero) (by decide)

end Sys2Proof.Machine
end

section
/-! PROOFS. Group messages: what every message meets before its effect (R192, R199, R204), and what is left of its entry when it is heard. -/

namespace Sys2Proof.Machine

/-! Tables that need not be in order. -/

theorem mapPut_ne_nil {α : Type} [DecidableEq α] {d v : α} (k : Nat) (h : v ≠ d) : ∀ m : SMap α, mapPut d k v m ≠ []
  | [] => by simp [mapPut, h]
  | (a, x) :: m => by
    unfold mapPut
    rw [if_neg h, if_neg h]
    split_ifs <;> exact List.cons_ne_nil _ _

/-- A value that is not the default stands where it was put, in order or not. -/
theorem mapGet_mapPut_of_ne {α : Type} [DecidableEq α] {d v : α} (k : Nat) (h : v ≠ d) : ∀ m : SMap α, mapGet d k (mapPut d k v m) = v
  | [] => by simp [mapPut, mapGet, h]
  | (a, x) :: m => by
    unfold mapPut
    by_cases hlt : k < a
    · simp [hlt, h, mapGet]
    · by_cases heq : k = a
      · simp [heq, h, mapGet]
      · rw [if_neg hlt, if_neg heq, mapGet, if_neg (Ne.symm heq)]
        exact mapGet_mapPut_of_ne k h m

theorem State.group_modGroup_of_ne {s : State} {e : Nat} {g : Group → Group} (h : g (s.group e) ≠ Group.empty) :
    (s.modGroup e g).group e = g (s.group e) := mapGet_mapPut_of_ne e h _

/-! A message as it arrives and is heard. -/

/-- What the arrival of a message keeps: the groups, the node ID, and the states of the entries. -/
structure GroupsKept (o s : State) : Prop where
  groups : s.groups = o.groups
  node : s.node = o.node
  state : ∀ e < 256, s.reg (Reg.colGrpState e) = o.reg (Reg.colGrpState e)

namespace GroupsKept

theorem refl (s : State) : GroupsKept s s := ⟨rfl, rfl, fun _ _ => rfl⟩

theorem state_low {a : Nat} (ha : a ≤ 0x70000) : ∀ e < 256, Reg.colGrpState e ≠ a := fun e _ => by
  unfold Reg.colGrpState
  omega

theorem state_dieReg (d off : Nat) : ∀ e < 256, Reg.colGrpState e ≠ dieReg d off := fun e he => by
  unfold Reg.colGrpState dieReg dieBase
  split <;> omega

section
variable {o s : State}

/-- A register that shows no state of an entry is written. -/
theorem withReg {a w} (h : GroupsKept o s) (ha : ∀ e < 256, Reg.colGrpState e ≠ a) : GroupsKept o (s.withReg a w) :=
  ⟨h.groups, h.node, fun e he => (State.reg_withReg_ne w (ha e he)).trans (h.state e he)⟩

theorem withTraceUnit {d u} (h : GroupsKept o s) : GroupsKept o (s.withTraceUnit d u) := ⟨h.groups, h.node, h.state⟩

theorem ite {a b : State} {c : Prop} [Decidable c] (ha : GroupsKept o a) (hb : GroupsKept o b) : GroupsKept o (if c then a else b) := by
  split <;> assumption

theorem external {n} (h : GroupsKept o s) : GroupsKept o (s.external n) := ite (h.withReg (state_low (by decide))) h

theorem foreignActivity {owner} (h : GroupsKept o s) : GroupsKept o (s.foreignActivity owner) :=
  ite ((h.withReg (state_low (by decide))).withReg (state_low (by decide))) h

theorem traceEvent {d source event owner data} (h : GroupsKept o s) : GroupsKept o (s.traceEvent d source event owner data) :=
  ite h (ite (h.withReg (state_dieReg d _)).withTraceUnit h.withTraceUnit)

theorem group (h : GroupsKept o s) (e : Nat) : s.group e = o.group e := by rw [State.group, h.groups, State.group]

theorem groupEpoch (h : GroupsKept o s) {e : Nat} (he : e < 256) : s.groupEpoch e = o.groupEpoch e := by
  rw [State.groupEpoch, State.fld, h.state e he, ← State.fld, ← State.groupEpoch]

end

end GroupsKept

/-- A message as it arrives, counted when it comes from outside (R301). -/
abbrev State.arrival (s : State) (f : Frame) : State := if f.src = s.node then s else s.external 1

theorem State.arrival_kept (s : State) (f : Frame) : GroupsKept s (s.arrival f) := .ite (.refl s) (GroupsKept.refl s).external

theorem State.groupOn_external (s : State) (n e : Nat) : (s.external n).groupOn e = s.groupOn e := by
  have hne : Reg.colGrpCfg e ≠ Reg.detExtCnt := by
    unfold Reg.colGrpCfg Reg.detExtCnt
    omega
  unfold State.external
  split
  · rw [State.groupOn, State.fld, State.bumpBy, State.reg_withReg_ne _ hne, ← State.fld, ← State.groupOn]
  · rfl

theorem State.tagEntry_arrival (s : State) (f : Frame) (tag : Nat) : (s.arrival f).tagEntry tag = s.tagEntry tag := by
  have hon (e : Nat) : (s.arrival f).groupOn e = s.groupOn e := by
    unfold State.arrival
    split
    · rfl
    · exact s.groupOn_external 1 e
  rw [State.tagEntry, (s.arrival_kept f).groups, State.tagEntry]
  simp only [hon]

/-- A message that is heard, before its sender is noted (R301, R306, R388). -/
abbrev State.observed (s : State) (f : Frame) (owner : Nat) : State :=
  ((s.arrival f).foreignActivity owner).traceEvent (16 + f.flow % 4) 0xFFFF 12 owner (f.payload.take 16)

theorem State.observed_kept (s : State) (f : Frame) (owner : Nat) : GroupsKept s (s.observed f owner) :=
  (s.arrival_kept f).foreignActivity.traceEvent

theorem State.messageIn_eq (s : State) (f : Frame) (e : Nat) : s.messageIn f e = (s.observed f (s.group e).owner).hear e f := rfl

/-- Only the time of hearing is new of the entry. -/
theorem State.messageIn_group (s : State) (f : Frame) (e : Nat) :
    ∃ h, h ≠ [] ∧ (s.messageIn f e).group e = { s.group e with heard := h } := by
  have hne := mapPut_ne_nil f.src (Nat.succ_ne_zero (s.observed f (s.group e).owner).clk.kclk) (s.group e).heard
  refine ⟨_, hne, ?_⟩
  have hg := (s.observed_kept f (s.group e).owner).group e
  rw [State.messageIn_eq, State.hear, State.group_modGroup_of_ne, hg]
  rw [hg]
  exact fun h => hne (congrArg Group.heard h)

@[simp] theorem State.messageIn_node (s : State) (f : Frame) (e : Nat) : (s.messageIn f e).node = s.node := (s.observed_kept f _).node

theorem State.messageIn_groupEpoch (s : State) (f : Frame) {e : Nat} (he : e < 256) : (s.messageIn f e).groupEpoch e = s.groupEpoch e :=
  (s.observed_kept f _).groupEpoch he

section Entry
variable (s : State) (f : Frame) (e : Nat)

@[simp] theorem State.messageIn_inst (q : Nat) : ((s.messageIn f e).group e).inst q = (s.group e).inst q := by
  obtain ⟨h, -, hg⟩ := s.messageIn_group f e
  rw [hg]
  rfl

@[simp] theorem State.messageIn_insts : ((s.messageIn f e).group e).insts = (s.group e).insts := by
  obtain ⟨h, -, hg⟩ := s.messageIn_group f e
  rw [hg]

@[simp] theorem State.messageIn_members : ((s.messageIn f e).group e).members = (s.group e).members := by
  obtain ⟨h, -, hg⟩ := s.messageIn_group f e
  rw [hg]

@[simp] theorem State.messageIn_ranksOn (n : Nat) : ((s.messageIn f e).group e).ranksOn n = (s.group e).ranksOn n := by
  rw [Group.ranksOn, s.messageIn_members, Group.ranksOn]

@[simp] theorem State.messageIn_children (n : Nat) : ((s.messageIn f e).group e).children n = (s.group e).children n := by
  obtain ⟨h, -, hg⟩ := s.messageIn_group f e
  rw [hg]
  rfl

@[simp] theorem State.messageIn_sent : ((s.messageIn f e).group e).sent = (s.group e).sent := by
  obtain ⟨h, -, hg⟩ := s.messageIn_group f e
  rw [hg]

@[simp] theorem State.messageIn_ended : ((s.messageIn f e).group e).ended = (s.group e).ended := by
  obtain ⟨h, -, hg⟩ := s.messageIn_group f e
  rw [hg]

end Entry

/-! What every message meets (R192, R199, R204). -/

section Receive
variable {s : State} {f : Frame} {kind e : Nat} {make : Bool} {run : State → Nat → Nat → State}

theorem State.colReceive_badHeader (h : colHeaderOk kind f = false) : s.colReceive f kind make run = (s.arrival f).bump Reg.colUnknownGroupCnt := by
  unfold State.colReceive
  dsimp only
  rw [if_pos (by rw [h]; decide)]

theorem State.colReceive_unknown (h : colHeaderOk kind f = true) (ht : s.tagEntry (cmTag f.payload) = none) :
    s.colReceive f kind make run = if isMulticast f then s.arrival f else (s.arrival f).bump Reg.colUnknownGroupCnt := by
  unfold State.colReceive
  dsimp only
  rw [if_neg (by rw [h]; decide), ← State.arrival, s.tagEntry_arrival f, ht]

/-- How far the epoch of an entry is ahead of that of a message, modulo 2^16 (R204). -/
abbrev State.epochLead (s : State) (f : Frame) (e : Nat) : Nat := (s.groupEpoch e + 65536 - cmEpoch f.payload) % 65536

theorem State.epochLead_eq_zero (h : s.groupEpoch e = cmEpoch f.payload) : s.epochLead f e = 0 := by
  rw [State.epochLead, h]
  omega

section Addressed
variable (ha : s.addressed f kind e) (he : e < 256)
include ha he

theorem State.colReceive_older (h0 : s.epochLead f e ≠ 0) (h : s.epochLead f e < 32768) :
    s.colReceive f kind make run = (s.messageIn f e).bump (Reg.colGrpStaleCnt e) := by
  unfold State.colReceive
  dsimp only
  rw [if_neg (by rw [ha.1]; decide), ← State.arrival, s.tagEntry_arrival f, ha.2]
  dsimp only
  rw [(s.arrival_kept f).group e, ← s.messageIn_eq f e, s.messageIn_groupEpoch f he, if_pos ⟨h0, h⟩]

theorem State.colReceive_newer (h : 32768 ≤ s.epochLead f e) : s.colReceive f kind make run = (s.messageIn f e).refuseEpoch e f := by
  unfold State.colReceive
  dsimp only
  rw [if_neg (by rw [ha.1]; decide), ← State.arrival, s.tagEntry_arrival f, ha.2]
  dsimp only
  rw [(s.arrival_kept f).group e, ← s.messageIn_eq f e, s.messageIn_groupEpoch f he, if_neg fun hd => Nat.not_lt.2 h hd.2,
    if_pos (Nat.ne_of_gt (Nat.lt_of_lt_of_le (by decide) h))]

/-- A message of the entry's epoch meets the parameters of what it is for, or what is known of it where it is not there (R192, R202, R204). -/
theorem State.colReceive_current (h0 : s.epochLead f e = 0) :
    let p := f.payload
    let q := cmSeq p
    let u := s.messageIn f e
    let r := s.colReceive f kind make run
    (∀ x, (s.group e).inst q = some x →
      r = if make = true ∧ (x.opcode ≠ cmOp p ∨ x.param ≠ cmParam p) then u.abortInst e q 0x53 none else run u e q) ∧
    ((s.group e).inst q = none →
      (kind = 5 → r = run u e q) ∧
      (kind ≠ 5 → (kind = 4 → cmStatus p = 0) → ((s.group e).ended.find? (·.1 == q)).isSome = true → r = u.bump (Reg.colGrpStaleCnt e)) ∧
      (kind = 6 → (s.group e).ended.find? (·.1 == q) = none → r = run u e q)) := by
  unfold State.colReceive
  dsimp only
  rw [if_neg (by rw [ha.1]; decide), ← State.arrival, s.tagEntry_arrival f, ha.2]
  dsimp only
  rw [(s.arrival_kept f).group e, ← s.messageIn_eq f e, s.messageIn_groupEpoch f he, if_neg (fun h => h.1 h0), if_neg (not_not_intro h0)]
  refine ⟨fun x hx => by rw [hx], fun hx => ⟨fun hk => ?_, fun hk hst hend => ?_, fun hk hend => ?_⟩⟩
  · rw [hx]
    exact if_pos (.inl hk)
  · rw [hx]
    exact (if_neg (by rintro (h | ⟨h, h1⟩) <;> simp_all)).trans (if_pos hend)
  · rw [hx]
    exact (if_neg (by omega)).trans ((if_neg (by simp [hend])).trans (if_pos hk))

end Addressed

/-- A message that meets what it is for has its effect there. -/
theorem State.colReceive_meets {x : Inst} (h : s.meets f kind e x) (he : e < 256) :
    s.colReceive f kind make run = run (s.messageIn f e) e (cmSeq f.payload) := by
  obtain ⟨ha, hep, hx, hop, hpar⟩ := h
  refine ((State.colReceive_current ha he (State.epochLead_eq_zero hep)).1 x hx).trans (if_neg ?_)
  simp [hop, hpar]

end Receive

end Sys2Proof.Machine
end

section
/-! PROOFS. The effects of group messages (R187, R189, R193-R196, R202, R204). -/

namespace Sys2Proof.Machine

/-! What refuses a message. -/

/-- The kinds of message that begin what they are for where it is not there yet (R192). -/
abbrev begins (kind : Nat) : Bool := decide (kind ∈ [1, 2, 3, 7, 8])

/-- The command of every group message receives its kind. -/
theorem exec_groupMessage {row : Frame → Instr} {kind : Nat}
    (h : (row, kind) ∈ [(Instr.contribution, 1), (.partialMsg, 2), (.result, 3), (.credit, 4), (.abortMessage, 5), (.heartbeatMessage, 6),
      (.sizeCountMessage, 7), (.barrierMessage, 8)]) (s : State) (f : Frame) :
    ∃ run, exec (row f) s = .next (s.colReceive f kind (begins kind) run) := by
  simp only [List.mem_cons, Prod.mk.injEq, List.not_mem_nil, or_false] at h
  rcases h with ⟨rfl, rfl⟩ | ⟨rfl, rfl⟩ | ⟨rfl, rfl⟩ | ⟨rfl, rfl⟩ | ⟨rfl, rfl⟩ | ⟨rfl, rfl⟩ | ⟨rfl, rfl⟩ | ⟨rfl, rfl⟩ <;> exact ⟨_, rfl⟩

/-! Contributions and partials (R187, R193, R194). -/

section Meets
variable {s : State} {f : Frame} {e : Nat} {x : Inst}

/-- What a message brings to a stage, as an input of a kind, with these bytes of it. -/
abbrev msgInput (f : Frame) (kind : Nat) (b : Bytes) : ColIn :=
  ⟨kind, cmSrc f.payload, cmOffset f.payload, cmCount f.payload, b⟩

/-- A copying stage counts an input without its bytes, returns its credit, and passes it on. -/
abbrev State.passesOn (s : State) (f : Frame) (e kind : Nat) : State :=
  ((s.stageTake e (cmSeq f.payload) (msgInput f kind [])).grantNow e (cmSeq f.payload) (msgInput f kind (f.payload.drop 32))).copyOn e (cmSeq f.payload)
    (cmOffset f.payload) (cmCount f.payload) (f.payload.drop 32)

section Contribution
variable (h : s.meets f 1 e x) (he : e < 256)
include h he

theorem State.contribution_copies (ho : colCopies (cmOp f.payload) = true) : s.contribution f = (s.messageIn f e).passesOn f e 1 := by
  have hd : ¬ colDirect (cmOp f.payload) = true := by
    simp [colCopies, colDirect] at ho ⊢
    omega
  unfold State.contribution
  rw [State.colReceive_meets h he]
  dsimp only
  rw [s.messageIn_inst, h.2.2.1]
  dsimp only
  rw [if_neg hd, if_pos ho]

theorem State.contribution_merges (ho : colMerges (cmOp f.payload) = true) :
    s.contribution f = (s.messageIn f e).stageTake e (cmSeq f.payload) (msgInput f 1 (stampRecords x.recordLen f.origin (f.payload.drop 32))) := by
  have hd : ¬ colDirect (cmOp f.payload) = true := by
    simp [colMerges, colDirect] at ho ⊢
    omega
  have hc : ¬ colCopies (cmOp f.payload) = true := by
    simp [colMerges, colCopies] at ho ⊢
    omega
  unfold State.contribution
  rw [State.colReceive_meets h he]
  dsimp only
  rw [s.messageIn_inst, h.2.2.1]
  dsimp only
  rw [if_neg hd, if_neg hc, if_pos ho]

theorem State.contribution_taken (hd : colDirect (cmOp f.payload) = false) (hc : colCopies (cmOp f.payload) = false)
    (hm : colMerges (cmOp f.payload) = false) :
    s.contribution f = (s.messageIn f e).stageTake e (cmSeq f.payload) (msgInput f 1 (f.payload.drop 32)) := by
  unfold State.contribution
  rw [State.colReceive_meets h he]
  dsimp only
  rw [s.messageIn_inst, h.2.2.1]
  simp only [hd, hc, hm, Bool.false_eq_true, if_false]

/-- Direct data are noted, and go to the member of their endpoint, or wait for it (R192, R194, R195). -/
theorem State.contribution_direct (ho : colDirect (cmOp f.payload) = true) :
    let q := cmSeq f.payload
    let l := f.flow % 2 ^ 15
    let v := (s.messageIn f e).modInst e q fun y => { y with inputs := y.inputs ++ [⟨11, cmSrc f.payload, l, (f.payload.drop 32).length, []⟩] }
    (∀ m, x.members.find? (·.tile == l) = some m → s.contribution f = v.deliverDirect e q m (msgInput f 1 (f.payload.drop 32))) ∧
      (x.members.find? (·.tile == l) = none → s.contribution f =
        v.modInst e q fun y => { y with inputs := y.inputs ++ [⟨9, cmSrc f.payload, cmOffset f.payload, l, f.payload.drop 32⟩] }) := by
  unfold State.contribution
  rw [State.colReceive_meets h he]
  dsimp only
  rw [s.messageIn_inst, h.2.2.1]
  dsimp only
  rw [if_pos ho]
  exact ⟨fun m hm => by rw [hm], fun hm => by rw [hm]⟩

end Contribution

section Partial
variable (h : s.meets f 2 e x) (he : e < 256)
include h he

theorem State.partialIn_copies (ho : colCopies (cmOp f.payload) = true) :
    s.partialIn f = ((s.messageIn f e).passesOn f e 2).endIfQuiet e (cmSeq f.payload) := by
  unfold State.partialIn
  rw [State.colReceive_meets h he]
  exact if_pos ho

theorem State.partialIn_taken (ho : colCopies (cmOp f.payload) = false) :
    s.partialIn f = (s.messageIn f e).stageTake e (cmSeq f.payload) (msgInput f 2 (f.payload.drop 32)) := by
  unfold State.partialIn
  rw [State.colReceive_meets h he]
  exact if_neg (by simp [ho])

end Partial

/-! Results (R189, R194). -/

/-- A result as a package has relayed it: its flags kept where members are, and the message passed down where it is for every member. -/
abbrev State.relays (s : State) (f : Frame) (e : Nat) (x : Inst) : State :=
  let p := f.payload
  let u := s.messageIn f e
  let v := if ((s.group e).ranksOn s.node).isEmpty then u else u.resFlags e (cmStatus p)
  let v := if forAll x (p.drop 32) then v.sendDown e (cmSeq p) 3 (cmStatus p) (cmOffset p) (cmCount p) (p.drop 32) else v
  v.modInst e (cmSeq p) fun y => { y with relayed := y.relayed + max 1 (cmCount p) }

/-- Where the bytes of a result go, by the opcode. -/
theorem State.resultIn_meets (h : s.meets f 3 e x) (he : e < 256) :
    let p := f.payload
    let q := cmSeq p
    let op := cmOp p
    let data := p.drop 32
    let w := s.relays f e x
    ∃ t, s.resultIn f = t.endIfQuiet e q ∧
      (data = [] ∨ (op = 0x80 ∧ x.members = []) ∨ (op = 0x81 ∧ x.members.find? (·.tile == f.flow % 2 ^ 15) = none) → t = w) ∧
      (∀ m, data ≠ [] → op = 0x80 → x.members.head? = some m → t = w.deliverAll e q (cmOffset p * colDestBytes m.desc) data) ∧
      (∀ m, data ≠ [] → op = 0x81 → x.members.find? (·.tile == f.flow % 2 ^ 15) = some m → t = w.deliver e q m.tile
        ((cmOffset p - m.rank * ((opA m.desc).count / max 1 (s.group e).members.length)) * colDestBytes m.desc) data) ∧
      (data ≠ [] → colParity op = true ∨ (colMerges op = true ∧ x.toAll = false) → t = w.deliverOne e q (f.flow % 2 ^ 15) (cmOffset p) data) ∧
      (data ≠ [] → op ∈ [0x82, 0x83, 0x84, 0x85, 0x86] ∨ (colMerges op = true ∧ x.toAll = true) → t = w.deliverAll e q (cmOffset p) data) := by
  intro p q op data w
  obtain ⟨-, -, hx, hop, -⟩ := id h
  have hv : ((if ((s.group e).ranksOn s.node).isEmpty then s.messageIn f e else (s.messageIn f e).resFlags e (cmStatus p)).group e) =
      (s.messageIn f e).group e := by split <;> rfl
  unfold State.resultIn
  rw [State.colReceive_meets h he]
  dsimp only
  rw [s.messageIn_ranksOn, s.messageIn_node, hv, s.messageIn_inst, hx]
  dsimp only
  rw [s.messageIn_members, hop]
  have hbytes (hd : data ≠ []) : ¬ data.isEmpty = true := fun h => hd (List.isEmpty_iff.1 h)
  have hother (hd : data ≠ []) (h80 : op ≠ 0x80) (h81 : op ≠ 0x81) {a b c c' : State} : (if data.isEmpty then a else if op = 0x80 then b else
      if op = 0x81 then c else c') = c' := by rw [if_neg (hbytes hd), if_neg h80, if_neg h81]
  refine ⟨_, rfl, fun hnone => ?nothing, fun m hd h80 hm => ?sum, fun m hd h81 hm => ?chunk, fun hd hone => ?one, fun hd hall => ?all⟩
  case nothing =>
    by_cases hd : data = []
    · exact if_pos (List.isEmpty_iff.2 hd)
    · rcases hnone.resolve_left hd with ⟨h80, hm⟩ | ⟨h81, hm⟩
      · rw [if_neg (hbytes hd), if_pos h80, hm]
      · have h80 : op ≠ 0x80 := by omega
        rw [if_neg (hbytes hd), if_neg h80, if_pos h81, hm]
  case sum =>
    rw [if_neg (hbytes hd), if_pos h80]
    cases hx : x.members with
    | nil => simp [hx] at hm
    | cons k ks =>
      rw [hx, List.head?_cons, Option.some.injEq] at hm
      rw [hm]
  case chunk =>
    have h80 : op ≠ 0x80 := by omega
    rw [if_neg (hbytes hd), if_neg h80, if_pos h81, hm]
  case one =>
    have hop' : op ≠ 0x80 ∧ op ≠ 0x81 := by
      simp [colParity, colMerges] at hone
      omega
    rw [hother hd hop'.1 hop'.2]
    exact if_pos (by simpa using hone)
  case all =>
    have hop' : op ≠ 0x80 ∧ op ≠ 0x81 := by
      simp [colMerges] at hall
      omega
    rw [hother hd hop'.1 hop'.2]
    refine if_neg (show ¬ (colParity op = true ∨ (colMerges op = true ∧ ¬ x.toAll = true)) from ?_)
    rcases hall with hop | ⟨hm, ht⟩
    · simp [colParity, colMerges] at hop ⊢
      omega
    · simp [colParity, colMerges, ht] at hm ⊢
      omega

/-! Credit, aborts and heartbeats (R187, R201, R202, R204). -/

section Credit
variable (h : s.meets f 4 e x) (he : e < 256)
include h he

theorem State.creditIn_grant (hst : cmStatus f.payload = 0) :
    let p := f.payload
    let q := cmSeq p
    let key := if cmOffset p < 2 ^ 14 then 2 * cmOffset p + 1 else 2 * cmSrc p
    s.creditIn f = ((((s.messageIn f e).modInst e q fun x => { x with
      unacked := mapPut 0 key (mapGet 0 key x.unacked - cmCount p) x.unacked }).colDrainAll e).endIfDone e q).endIfQuiet e q := by
  unfold State.creditIn
  rw [State.colReceive_meets h he]
  exact if_pos hst

/-- A refusal marks the oldest message that it can mean (R204). -/
theorem State.creditIn_refusal (hst : cmStatus f.payload = 1) :
    (∀ m, (s.group e).sent.find? (fun m => refusedBy f m.2) = some m → s.creditIn f = (s.messageIn f e).modGroup e fun g => { g with
      sent := g.sent.erase m,
      refused := g.refused ++ [(m.1, if isMulticast m.2 then { m.2 with dest := f.src, flow := g.redBase } else m.2)] }) ∧
    ((s.group e).sent.find? (fun m => refusedBy f m.2) = none → s.creditIn f = s.messageIn f e) := by
  unfold State.creditIn
  rw [State.colReceive_meets h he]
  dsimp only
  rw [if_neg (by rw [hst]; decide), s.messageIn_sent]
  exact ⟨fun m hm => by rw [hm], fun hm => by rw [hm]⟩

end Credit

theorem State.abortIn_meets (h : s.meets f 5 e x) (he : e < 256) :
    s.abortIn f = (s.messageIn f e).abortInst e (cmSeq f.payload) (cmStatus f.payload) none := by
  unfold State.abortIn
  rw [State.colReceive_meets h he]
  dsimp only
  rw [s.messageIn_inst, h.2.2.1]

/-- An abort of what has completed here is recorded and passed on (R202). -/
theorem State.abortIn_completed (ha : s.addressed f 5 e) (he : e < 256) (hep : s.groupEpoch e = cmEpoch f.payload)
    (hx : (s.group e).inst (cmSeq f.payload) = none) (hend : (s.group e).ended.find? (·.1 == cmSeq f.payload) = some (cmSeq f.payload, 0)) :
    let q := cmSeq f.payload
    s.abortIn f = (((s.messageIn f e).recordAbort e q (cmStatus f.payload) none).relayAbort e q f).modGroup e fun g =>
      { g with ended := (q, cmStatus f.payload) :: g.ended } := by
  unfold State.abortIn
  rw [((State.colReceive_current ha he (State.epochLead_eq_zero hep)).2 hx).1 rfl]
  dsimp only
  rw [s.messageIn_inst, hx]
  dsimp only
  rw [s.messageIn_ended, hend]
  rfl

theorem State.heartbeatIn_heard (ha : s.addressed f 6 e) (he : e < 256) (hep : s.groupEpoch e = cmEpoch f.payload)
    (hx : ((s.group e).inst (cmSeq f.payload)).isSome = true ∨ (s.group e).ended.find? (·.1 == cmSeq f.payload) = none) :
    s.heartbeatIn f = s.messageIn f e := by
  obtain ⟨hsome, hnone⟩ := State.colReceive_current (make := false) (run := fun s _ _ => s) ha he (State.epochLead_eq_zero hep)
  unfold State.heartbeatIn
  cases hinst : (s.group e).inst (cmSeq f.payload) with
  | some x => exact (hsome x hinst).trans (if_neg (by simp))
  | none => exact (hnone hinst).2.2 rfl (hx.resolve_left (by simp [hinst]))

/-! Sizes, counts and arrivals (R195, R196). -/

/-- A message comes from a member of this package or from below in the tree. -/
abbrev State.fromBelow (s : State) (f : Frame) (e : Nat) : Prop := f.src = s.node ∨ ((s.group e).children s.node).contains f.src = true

section Sizes
variable (h : s.meets f 7 e x) (he : e < 256)
include h he

theorem State.sizeIn_arrives (ho : cmOp f.payload ≠ 0x86) (hb : s.fromBelow f e) :
    s.sizeIn f = ((s.messageIn f e).modInst e (cmSeq f.payload) fun x => { x with
      inputs := x.inputs ++ [msgInput f 7 (f.payload.drop 32)] }).arrive e (cmSeq f.payload) 7 := by
  unfold State.sizeIn
  rw [State.colReceive_meets h he]
  dsimp only
  rw [if_neg ho, s.messageIn_children, s.messageIn_node]
  exact if_pos hb

theorem State.sizeIn_ends (ho : cmOp f.payload ≠ 0x86) (hb : ¬ s.fromBelow f e) :
    s.sizeIn f = ((s.messageIn f e).phaseEnd e (cmSeq f.payload) 7 (cmCount f.payload) (rdLe f.payload 32 8)).endIfQuiet e (cmSeq f.payload) := by
  unfold State.sizeIn
  rw [State.colReceive_meets h he]
  dsimp only
  rw [if_neg ho, s.messageIn_children, s.messageIn_node]
  exact if_neg hb

/-- A size of ALLTOALLV is for the member of the endpoint that it names (R195). -/
theorem State.sizeIn_size {r : Nat} {y : Inst} {m : ColMember} (ho : cmOp f.payload = 0x86)
    (hr : ((s.group e).ranksOn s.node).find? (fun r => (nth (s.group e).members r ⟨0, 0, 0⟩).tile == f.flow % 2 ^ 15) = some r) :
    let q := cmSeq f.payload
    let v := (s.messageIn f e).modInst e q fun x => { x with inputs := x.inputs ++ [⟨7, cmOffset f.payload, r, cmCount f.payload, []⟩] }
    (v.group e).inst q = some y → y.members.find? (·.rank == r) = some m → s.sizeIn f = v.sizesIn e q m := by
  intro q v hy hm
  unfold State.sizeIn
  rw [State.colReceive_meets h he]
  dsimp only
  rw [if_pos ho, s.messageIn_ranksOn, s.messageIn_node, s.messageIn_members, hr]
  dsimp only
  rw [hy]
  dsimp only
  rw [hm]

end Sizes

section Arrivals
variable (h : s.meets f 8 e x) (he : e < 256)
include h he

theorem State.barrierIn_arrives (hb : s.fromBelow f e) :
    s.barrierIn f = ((s.messageIn f e).modInst e (cmSeq f.payload) fun x => { x with inputs := x.inputs ++ [msgInput f 8 []] }).arrive e
      (cmSeq f.payload) 8 := by
  unfold State.barrierIn
  rw [State.colReceive_meets h he]
  dsimp only
  rw [s.messageIn_children, s.messageIn_node]
  exact if_pos hb

theorem State.barrierIn_ends (hb : ¬ s.fromBelow f e) :
    s.barrierIn f = ((s.messageIn f e).phaseEnd e (cmSeq f.payload) 8 (cmCount f.payload) 0).endIfQuiet e (cmSeq f.payload) := by
  unfold State.barrierIn
  rw [State.colReceive_meets h he]
  dsimp only
  rw [s.messageIn_children, s.messageIn_node]
  exact if_neg hb

end Arrivals

end Meets

/-- Settles O35: by what every message meets, and by the effect of each kind on what it is for. -/
theorem groupMessages : Obligations.GroupMessages := by
  refine ⟨fun s f row kind hrow => ?meets, ?effects⟩
  case meets =>
    obtain ⟨run, hrun⟩ := exec_groupMessage hrow s f
    rw [hrun]
    refine ⟨fun hh => ?_, fun hh ht => ?_, fun e ha he => ⟨fun h0 h => ?_, fun h => ?_, fun x hk h0 hx hpar => ?_, fun h0 hx b hend h5 h4 => ?_⟩⟩
    · exact congrArg Host.Outcome.next (State.colReceive_badHeader hh)
    · exact congrArg Host.Outcome.next (State.colReceive_unknown hh ht)
    · exact congrArg Host.Outcome.next (State.colReceive_older ha he h0 h)
    · exact congrArg Host.Outcome.next (State.colReceive_newer ha he h)
    · exact congrArg Host.Outcome.next (((State.colReceive_current ha he h0).1 x hx).trans (if_pos ⟨decide_eq_true hk, hpar⟩))
    · exact congrArg Host.Outcome.next (((State.colReceive_current ha he h0).2 hx).2.1 h5 h4 (by rw [hend]; rfl))
  case effects =>
    intro s f e x p q u g op data input passed fromBelow he
    refine ⟨fun h => ?contribution, fun h => ?part, fun h => ?result, fun h => ?credit, fun h => ?abort, fun ha hep hx hend => ?completed,
      fun ha hep hx => ?heartbeat, fun h => ?size, fun h => ?barrier⟩
    case contribution =>
      refine ⟨fun hd hc hm => congrArg Host.Outcome.next (State.contribution_taken h he hd hc hm),
        fun ho => congrArg Host.Outcome.next (State.contribution_merges h he ho),
        fun ho => congrArg Host.Outcome.next (State.contribution_copies h he ho), fun ho => ?_⟩
      obtain ⟨hone, hnone⟩ := State.contribution_direct h he ho
      exact ⟨fun m hm => congrArg Host.Outcome.next (hone m hm), fun hm => congrArg Host.Outcome.next (hnone hm)⟩
    case part =>
      exact ⟨fun ho => congrArg Host.Outcome.next (State.partialIn_copies h he ho),
        fun ho => congrArg Host.Outcome.next (State.partialIn_taken h he ho)⟩
    case result =>
      obtain ⟨t, ht, hnothing, hsum, hchunk, hone, hall⟩ := State.resultIn_meets h he
      have hexec {w : State} (hw : t = w) : exec (.result f) s = .next (w.endIfQuiet e q) := congrArg Host.Outcome.next (hw ▸ ht)
      exact ⟨fun hd => hexec (hnothing hd), fun hd ho => hexec (hall hd (.inl ho)), fun m hd ho hm => hexec (hsum m hd ho hm),
        fun m hd ho hm => hexec (hchunk m hd ho hm), fun hd ho => hexec (hone hd ho), fun hd hm ha => hexec (hall hd (.inr ⟨hm, ha⟩))⟩
    case credit =>
      exact ⟨fun hst => congrArg Host.Outcome.next (State.creditIn_grant h he hst),
        fun m hst hm => congrArg Host.Outcome.next ((State.creditIn_refusal h he hst).1 m hm),
        fun hst hm => congrArg Host.Outcome.next ((State.creditIn_refusal h he hst).2 hm)⟩
    case abort => exact congrArg Host.Outcome.next (State.abortIn_meets h he)
    case completed => exact congrArg Host.Outcome.next (State.abortIn_completed ha he hep hx hend)
    case heartbeat => exact ⟨congrArg Host.Outcome.next (State.heartbeatIn_heard ha he hep hx), fun _ => s.messageIn_insts f e⟩
    case size =>
      exact ⟨fun ho hb => congrArg Host.Outcome.next (State.sizeIn_arrives h he ho hb),
        fun ho hb => congrArg Host.Outcome.next (State.sizeIn_ends h he ho hb),
        fun r y m ho hr hy hm => congrArg Host.Outcome.next (State.sizeIn_size h he ho hr hy hm)⟩
    case barrier =>
      exact ⟨fun hb => congrArg Host.Outcome.next (State.barrierIn_arrives h he hb),
        fun hb => congrArg Host.Outcome.next (State.barrierIn_ends h he hb)⟩

end Sys2Proof.Machine
end

section
/-! PROOFS. Collectives that end at a package, and the commands of a group's list (R182, R184, R185, R200-R202, R204). -/

namespace Sys2Proof.Machine

/-! What a package has in hand of an entry. -/

/-- The entry `e` has the sequence numbers `l` in hand, in a table in order. -/
structure State.inHand (s : State) (e : Nat) (l : List Nat) : Prop where
  ord : keysFrom 0 s.groups = true
  seqs : (s.group e).insts.map (·.seq) = l

theorem Group.inst_eq_none_iff {g : Group} {q : Nat} : g.inst q = none ↔ q ∉ g.insts.map (·.seq) := by
  simp [Group.inst, List.find?_eq_none]

theorem State.group_withGroup_self {s : State} (h : keysFrom 0 s.groups = true) (e : Nat) (g : Group) : (s.withGroup e g).group e = g :=
  mapGet_mapPut_self _ _ _ h

theorem State.group_modGroup_self {s : State} (h : keysFrom 0 s.groups = true) (e : Nat) (g : Group → Group) :
    (s.modGroup e g).group e = g (s.group e) := State.group_withGroup_self h e _

namespace State.inHand

variable {s : State} {e : Nat} {l : List Nat}

theorem of_groups {u : State} (h : s.inHand e l) (hu : u.groups = s.groups) : u.inHand e l :=
  ⟨hu ▸ h.ord, by rw [State.group, hu]; exact h.seqs⟩

theorem modGroup (h : s.inHand e l) {g : Group → Group} (hg : (g (s.group e)).insts.map (·.seq) = (s.group e).insts.map (·.seq)) :
    (s.modGroup e g).inHand e l :=
  ⟨keysFrom_mapPut _ _ _ (Nat.zero_le _) h.ord, by rw [State.group_modGroup_self h.ord, hg]; exact h.seqs⟩

theorem modInst (h : s.inHand e l) {q : Nat} {g : Inst → Inst} (hg : ∀ x, (g x).seq = x.seq) : (s.modInst e q g).inHand e l := by
  refine h.modGroup ?_
  rw [List.map_map]
  refine List.map_congr_left fun x _ => ?_
  simp only [Function.comp_apply]
  split <;> simp [hg]

theorem each {α : Type} {f : α → State → State} (hf : ∀ a s, State.inHand s e l → (f a s).inHand e l) :
    ∀ (as : List α) {s : State}, s.inHand e l → (forEach as f s).inHand e l
  | [], _, h => h
  | a :: as, _, h => each hf as (hf a _ h)

end State.inHand

theorem State.traceEvent_groups (s : State) (d source event owner : Nat) (data : Bytes) : (s.traceEvent d source event owner data).groups = s.groups :=
  (GroupsKept.refl s).traceEvent.groups

theorem State.wakeBlock_groups (s : State) (b : Nat) : (s.wakeBlock b).groups = s.groups := by
  unfold State.wakeBlock
  split
  · exact State.traceEvent_groups ..
  · rfl

theorem State.meshPut_groups (s : State) (k dst : Nat) (f : Frame) : (s.meshPut k dst f).groups = s.groups := by
  unfold State.meshPut State.wakeAt
  split
  · exact State.wakeBlock_groups ..
  · rfl

namespace State.inHand

variable {s : State} {e : Nat} {l : List Nat}

theorem colSend (h : s.inHand e l) (f : Frame) : (s.colSend e f).inHand e l := by
  unfold State.colSend State.colSendTill
  exact State.inHand.modGroup (h.of_groups (State.meshPut_groups ..)) rfl

theorem colDrain {q key : Nat} : ∀ (n : Nat) {s : State}, s.inHand e l → (s.colDrain e q key n).inHand e l
  | 0, _, h => h
  | n + 1, s, h => by
    unfold State.colDrain
    split
    · exact h
    · split
      · exact h
      · dsimp only
        split
        · exact h
        · exact colDrain n (colSend (modInst h fun _ => by rfl) _)

theorem colDrainAll (h : s.inHand e l) : (s.colDrainAll e).inHand e l := by
  unfold State.colDrainAll
  refine each (fun x s hs => ?_) _ h
  exact each (fun k t ht => colDrain x.outbox.length ht) _ hs

end State.inHand

/-- What ends at a package is no longer in hand there. -/
theorem State.endInst_inst {s : State} (h : keysFrom 0 s.groups = true) (e q cause : Nat) : ((s.endInst e q cause).group e).inst q = none := by
  have hleft : (s.endInst e q cause).inHand e (((s.group e).insts.filter (·.seq != q)).map (·.seq)) := by
    refine State.inHand.colDrainAll ⟨keysFrom_mapPut _ _ _ (Nat.zero_le _) h, ?_⟩
    exact congrArg (fun g : Group => g.insts.map (·.seq))
      (State.group_modGroup_self h e fun g => { g with insts := g.insts.filter (·.seq != q), ended := (q, cause) :: g.ended })
  rw [Group.inst_eq_none_iff, hleft.seqs]
  simp

/-- An abort ends what it is for (R202). -/
theorem State.abortInst_inst {s : State} (hwf : s.wf = true) (e q cause : Nat) (rank : Option Nat) :
    ((s.abortInst e q cause rank).group e).inst q = none := by
  unfold State.abortInst
  split
  · assumption
  · refine State.endInst_inst (Since.groupsOrd (o := s) ?_) e q cause
    have h := Since.refl hwf
    simp (maxDischargeDepth := 99) +contextual [h]

/-! Commands of a list (R182, R184, R185). -/

section Control
variable {s : State} {src : Src} {e : Nat}

theorem State.colGrpCtrl_commits (k : Nat) (h : s.fld (Reg.colGrpState e) 57 57 = 0) :
    s.colGrpCtrl src e (1 + (k % 2 ^ 16) <<< 2) = (s.withFld (Reg.colGrpState e) 57 57 1).modGroup e fun g => { g with newEpoch := k % 65536 } := by
  have hcmd : bits (1 + (k % 2 ^ 16) <<< 2) 1 0 = 1 := by
    rw [bits, Nat.shiftRight_zero, Nat.shiftLeft_eq]
    omega
  have hlist : bit (1 + (k % 2 ^ 16) <<< 2) 0 = true := by
    rw [bit, Nat.shiftRight_zero, Nat.shiftLeft_eq, beq_iff_eq]
    omega
  have hepoch : bits (1 + (k % 2 ^ 16) <<< 2) 17 2 = k % 65536 := by
    rw [bits, Nat.shiftRight_eq_div_pow, Nat.shiftLeft_eq]
    omega
  unfold State.colGrpCtrl
  dsimp only
  rw [if_neg (by rw [hcmd]; decide), if_neg (by rw [h]; decide), if_pos hlist, hepoch]

theorem State.colGrpCtrl_invalidates (h : s.fld (Reg.colGrpState e) 57 57 = 0) :
    s.colGrpCtrl src e 2 =
      if s.groupOn e then ((s.abortAll e 0x56).withFld (Reg.colGrpCfg e) 0 0 0).modGroup e fun g => { g with anyEpoch := true }
      else s.modGroup e fun g => { g with anyEpoch := true } := by
  unfold State.colGrpCtrl
  dsimp only
  rw [if_neg (by decide), if_neg (by rw [h]; decide)]
  exact if_neg (by decide)

/-- COL_GRP_CFG of every entry is 0 at reset. -/
theorem regReset_colGrpCfg : ∀ e < 256, regReset (Reg.colGrpCfg e) = 0 := by decide +kernel

end Control

end Sys2Proof.Machine
end

section
/-! PROOFS. The commands of a group's list complete, and those of what is in hand (R182, R184, R185, R193, R200, R201, R204). -/

namespace Sys2Proof.Machine

/-! COMMIT_LIST, INVALIDATE and LIST_COMMIT_DONE. -/

theorem State.external_fld_state (s : State) (n : Nat) {e : Nat} (he : e < 256) (hi lo : Nat) :
    (s.external n).fld (Reg.colGrpState e) hi lo = s.fld (Reg.colGrpState e) hi lo := by
  rw [State.fld, (GroupsKept.refl s).external.state e he, State.fld]

section Commands
variable {s : State} {e : Nat} (src : Src) (hwf : s.wf = true) (he : e < 256) (h : s.fld (Reg.colGrpState e) 57 57 = 0)
include hwf he h

theorem exec_commitList_effect (k : Nat) : ∃ u, exec (.commitList src e k) s = .next u ∧ u.fld (Reg.colGrpState e) 57 57 = 1 ∧
    (u.group e).newEpoch = k % 65536 ∧ u.tiles = s.tiles := by
  have hsince : Since s (s.external 1) := State.external_since (Since.refl hwf)
  have hbusy := (s.external_fld_state 1 he 57 57).trans h
  refine ⟨_, congrArg Host.Outcome.next (State.colGrpCtrl_commits k hbusy), ?_, ?_, s.external_tiles 1⟩
  · exact State.fld_withFld_self hsince.regsOrd _ 57 57 1 (by decide) (by decide)
  · exact congrArg Group.newEpoch (State.group_modGroup_self (s := (s.external 1).withFld (Reg.colGrpState e) 57 57 1) hsince.groupsOrd e _)

theorem exec_invalidate_off (hoff : s.groupOn e = false) :
    ∃ u, exec (.invalidate src e) s = .next u ∧ (u.group e).anyEpoch = true ∧ u.tiles = s.tiles := by
  have hsince : Since s (s.external 1) := State.external_since (Since.refl hwf)
  have hbusy := (s.external_fld_state 1 he 57 57).trans h
  have hctrl := State.colGrpCtrl_invalidates (src := src) hbusy
  rw [s.groupOn_external 1 e, hoff, if_neg Bool.false_ne_true] at hctrl
  refine ⟨_, congrArg Host.Outcome.next hctrl, ?_, s.external_tiles 1⟩
  exact congrArg Group.anyEpoch (State.group_modGroup_self hsince.groupsOrd e _)

theorem exec_invalidate_on (hon : s.groupOn e = true) (hx : (s.group e).insts = []) :
    ∃ u, exec (.invalidate src e) s = .next u ∧ u.groupOn e = false ∧ (u.group e).anyEpoch = true := by
  have hsince : Since s (s.external 1) := State.external_since (Since.refl hwf)
  have hbusy := (s.external_fld_state 1 he 57 57).trans h
  have hctrl := State.colGrpCtrl_invalidates (src := src) hbusy
  have habort : (s.external 1).abortAll e 0x56 = s.external 1 := by
    rw [State.abortAll, (GroupsKept.refl s).external.group e, hx]
    rfl
  rw [s.groupOn_external 1 e, if_pos hon, habort] at hctrl
  refine ⟨_, congrArg Host.Outcome.next hctrl, ?_, ?_⟩
  · have hcfg := State.fld_withFld_self hsince.regsOrd (Reg.colGrpCfg e) 0 0 0 (by decide) (by decide)
    exact beq_eq_false_iff_ne.2 (by rw [State.modGroup_fld, hcfg]; decide)
  · exact congrArg Group.anyEpoch (State.group_modGroup_self (s := (s.external 1).withFld (Reg.colGrpCfg e) 0 0 0) hsince.groupsOrd e _)

end Commands

/-- An entry that is made valid is so, in a table in order or not. -/
theorem State.groupOn_withFld (s : State) {e : Nat} (he : e < 256) : (s.withFld (Reg.colGrpCfg e) 0 0 1).groupOn e = true := by
  have hbit : wBits (wPut (s.reg (Reg.colGrpCfg e)) 0 0 1) 0 0 = 1 := wBits_wPut_self _ 0 0 1 (by decide) (by decide)
  have hne : wPut (s.reg (Reg.colGrpCfg e)) 0 0 1 ≠ regReset (Reg.colGrpCfg e) := fun h => by
    rw [h, regReset_colGrpCfg e he] at hbit
    exact absurd hbit (by decide)
  have hreg : (s.withFld (Reg.colGrpCfg e) 0 0 1).reg (Reg.colGrpCfg e) = wPut (s.reg (Reg.colGrpCfg e)) 0 0 1 := mapGet_mapPut_of_ne _ hne _
  rw [State.groupOn, State.fld, hreg, hbit]
  rfl

/-- A list that passes every check puts its entry in force (R184). -/
theorem exec_listCommitDone_on {s s1 : State} {e : Nat} {bad : Bool} {words : Option (List Nat)} (he : e < 256)
    (h : s.fld (Reg.colGrpState e) 57 57 = 1) (hr : s.listRead e bad (s.staged e []).owner = (s1, words)) (hok : s1.listError e words = 0) :
    ∃ u, exec (.listCommitDone e bad) s = .next u ∧ u.groupOn e = true := by
  have hexec : exec (.listCommitDone e bad) s = execListCommitDone e bad s := rfl
  unfold execListCommitDone at hexec
  rw [if_neg (by rw [h]; decide)] at hexec
  dsimp only at hexec
  rw [hr] at hexec
  exact ⟨_, hexec.trans (if_neg (not_not_intro hok)), State.groupOn_withFld _ he⟩

/-! Windows, completion and loss (R187, R193, R200, R201, R204). -/

section Inst
variable {s : State} {e q : Nat} {x : Inst} (hx : (s.group e).inst q = some x)
include hx

/-- A window of a sum closes once every input of it is in (R187). -/
theorem State.windowClose_sum {w n : Nat} (hon : s.groupOn e = true) (hsum : colSums x.opcode = true) (hopen : x.closed.contains w = false)
    (hw : x.window (s.group e) w ≠ []) (hknown : ((s.group e).ranksOn s.node).isEmpty = true ∨ x.members ≠ [])
    (hall : ∀ i ∈ x.window (s.group e) w, ∀ k ∈ s.sources (s.group e) x, (x.part (s.group e) k.1 k.2 i).isSome = true) :
    s.windowClose e q w n = s.closeSum e x w (x.window (s.group e) w) n := by
  have hm : ¬ colMerges x.opcode = true := by
    simp [colSums, colMerges] at hsum ⊢
    omega
  have hfull : ((x.window (s.group e) w).all fun i => (s.sources (s.group e) x).all fun k => (x.part (s.group e) k.1 k.2 i).isSome) = true := by
    simpa using hall
  have hkn : (((s.group e).ranksOn s.node).isEmpty || !x.members.isEmpty) = true := by simpa using hknown
  have hdone : ¬ (¬ (colSums x.opcode = true ∨ colParity x.opcode = true) ∨ x.closed.contains w = true) := by
    rw [hsum, hopen]
    simp
  unfold State.windowClose
  rw [hx]
  dsimp only
  rw [if_neg (by simp [hon]), if_neg hm, if_neg hdone, if_neg (by simp [hw, hfull, hkn]), if_pos hsum]

/-- A member that expects no more bytes of D, and that has none to write, is done (R193). -/
theorem exec_instanceComplete_due {t : Nat} {m : ColMember} (hm : x.members.find? (fun m => s.phys m.tile == t) = some m) (hd : m.done = false)
    (ha : m.accepted = true) (hn : m.need = some 0) (hg : m.got = []) (ho : x.opcode ≠ 0x84) (hdesc : (s.ctx t m.ctx).desc = some m.desc) :
    exec (.instanceComplete e q t) s = .next (((((s.modInst e q fun y => y.modMember m.tile fun k => { k with done := true }).modCtx t m.ctx
      fun c => { c with allDone := true }).tileCount t 0x04 1)).endIfDone e q) := by
  have hexec : exec (.instanceComplete e q t) s = execInstanceComplete e q t s := rfl
  unfold execInstanceComplete at hexec
  rw [hx] at hexec
  dsimp only at hexec
  rw [hm] at hexec
  dsimp only at hexec
  rw [if_neg (by simp [hd, ha, hn, ho]), hg] at hexec
  exact hexec.trans (congrArg (fun s => Host.Outcome.next (State.endIfDone s e q)) (if_pos hdesc))

end Inst

/-- The loss of a tree neighbour ends what is in hand of an entry (R201). -/
theorem exec_memberLost_near {s : State} {e q node : Nat} {x : Inst} (hwf : s.wf = true) (hx : (s.group e).inst q = some x)
    (hon : s.groupOn e = true) (hone : (s.group e).insts = [x])
    (hnear : (s.node ≠ (s.group e).rootNode ∧ treeNext (s.group e).rootNode s.node = node) ∨ ((s.group e).children s.node).contains node = true) :
    ∃ u, exec (.memberLost e node) s = .next u ∧ (u.group e).inst q = none := by
  have hseq : x.seq = q := by simpa using List.find?_some hx
  have hexec : exec (.memberLost e node) s = execMemberLost e node s := rfl
  unfold execMemberLost at hexec
  dsimp only at hexec
  rw [if_pos (by simpa [hon] using hnear), hone] at hexec
  refine ⟨_, hexec, ?_⟩
  rw [← hseq]
  exact State.abortInst_inst (State.modGroup_since (Since.refl hwf)).wf e x.seq 0x52 _

/-- Refused messages are sent again until the sender's watchdog expires (R204). -/
theorem exec_epochAheadRepeat (s : State) (e : Nat) : exec (.epochAheadRepeat e) s =
    .next (forEach ((s.group e).refused.filter fun x => decide (s.clk.kclk < x.1)) (fun x s => s.colSendTill e x.1 x.2)
      (s.modGroup e fun g => { g with refused := [] })) := rfl

end Sys2Proof.Machine
end

section
/-! PROOFS. The porter's requests complete (R381, R382, R384, R386). -/

namespace Sys2Proof.Machine

/-! Messages: what a request holds is read from it, and its answer repeats its header (R381). -/

theorem leNat_natLe : ∀ n v : Nat, leNat (natLe n v) = v % 256 ^ n
  | 0, v => by simp [natLe, leNat, Nat.mod_one]
  | n + 1, v => by
    rw [natLe, leNat, leNat_natLe n, BitVec.toNat_ofNat]
    show v % 256 + 256 * (v / 256 % 256 ^ n) = v % 256 ^ (n + 1)
    rw [Nat.pow_succ', Nat.mod_mul]

theorem leNat_natLe_of_lt {n v : Nat} (h : v < 256 ^ n) : leNat (natLe n v) = v := (leNat_natLe n v).trans (Nat.mod_eq_of_lt h)

theorem length_natLe : ∀ n v : Nat, (natLe n v).length = n
  | 0, _ => rfl
  | n + 1, v => by rw [natLe, List.length_cons, length_natLe n]

section Message
variable {seq op len count addr : Nat} (payload : Bytes)

theorem porterReq_porterMsg (hs : seq < 65536) (ho : op < 256) (hl : len < 65536) (hc : count < 65536) (ha : addr < 2 ^ 64) :
    porterReq (porterMsg seq op len count addr payload) = ⟨seq, op, len, count, addr, payload⟩ := by
  show PorterReq.mk (leNat (natLe 2 seq)) (leNat (natLe 1 op)) (leNat (natLe 2 len)) (leNat (natLe 2 count)) (leNat (natLe 8 addr)) payload = _
  rw [leNat_natLe_of_lt hs, leNat_natLe_of_lt ho, leNat_natLe_of_lt hl, leNat_natLe_of_lt hc, leNat_natLe_of_lt ha]

theorem porterAnswer_porterMsg (seq op len count addr status : Nat) (answer : Bytes) :
    porterAnswer (porterMsg seq op len count addr payload) status answer =
      natLe 2 seq ++ natLe 1 op ++ natLe 1 status ++ natLe 2 len ++ natLe 2 count ++ natLe 8 addr ++ answer := by
  have hlen : 16 ≤ (porterMsg seq op len count addr payload).length := by
    simp [porterMsg, length_natLe]
    omega
  unfold porterAnswer padTo
  rw [List.length_drop, Nat.sub_eq_zero_of_le (show 3 ≤ _ by omega), Nat.sub_eq_zero_of_le (show 12 ≤ _ by omega)]
  rfl

end Message

/-! Serving. -/

/-- The last output answers the request `seq` of a sender, with STATUS zero and this payload. -/
abbrev State.answers (u : State) (who : Sender) (seq : Nat) (payload : Bytes) : Prop :=
  ∃ a, u.out.getLast? = some (.porterReply who a) ∧ a.take 2 = natLe 2 seq ∧ slice a 3 1 = [0] ∧ a.drop 16 = payload

section Serve
variable {s : State} {who : Sender} {seq : Nat} (hon : 3 ≤ s.seqPhase) (hq : s.porter.queue = [])
include hon hq

/-- A request that need not wait is served at once where none waits. -/
theorem State.porterRequest_served {m : Bytes} (hw : s.porterWaits m = false) : s.porterRequest who m = s.porterServe who m := by
  have hdrain : s.porterDrain = s := by
    rw [State.porterDrain, hq]
    rfl
  have harrive : s.porterArrives who m = s.withPorter { s.porter with queue := [(who, m)] } := by
    rw [State.porterArrives, hq, if_pos (by decide)]
    rfl
  have hback : (s.withPorter { s.porter with queue := [(who, m)] }).withPorter { s.porter with queue := [] } = s := by
    rw [← hq]
    rfl
  rw [State.porterRequest, if_pos (show s.porterOn = true from decide_eq_true hon), hdrain, harrive]
  exact (if_neg fun h => Bool.false_ne_true (hw.symm.trans h)).trans (congrArg (State.porterServe · who m) hback)

variable (hseq : seq < 65536) (hkept : s.keptAnswer who seq = none)
include hseq hkept

/-- A new request that succeeds leaves what it does, its kept response, and the response. -/
theorem State.porterRequest_answers {op len count addr : Nat} {payload answer : Bytes} {t : State}
    (hrun : s.porterRun who ⟨seq, op, len, count, addr, payload⟩ = (t, 0, answer)) (ho : op < 256) (hl : len < 65536) (hc : count < 65536)
    (ha : addr < 2 ^ 64) (hw : op = 7 → s.hbmHeld (devStack addr) (devOff addr) (32 * count) = false) :
    ∃ l a, s.porterRequest who (porterMsg seq op len count addr payload) =
        (t.withPorter { t.porter with senders := l }).emit (.porterReply who a) ∧
      ((t.withPorter { t.porter with senders := l }).emit (.porterReply who a)).answers who seq answer := by
  have hreq := porterReq_porterMsg payload hseq ho hl hc ha
  have hwait : s.porterWaits (porterMsg seq op len count addr payload) = false := by
    rw [State.porterWaits, hreq]
    by_cases h7 : op = 7
    · simp [hw h7]
    · simp [h7]
  rw [State.porterRequest_served hon hq hwait, State.porterServe, hreq, hkept, hrun]
  refine ⟨_, _, rfl, _, List.getLast?_concat, ?_⟩
  rw [porterAnswer_porterMsg]
  exact ⟨rfl, rfl, rfl⟩

end Serve

end Sys2Proof.Machine
end

section
/-! PROOFS. Each of the porter's requests gives its payload and its effect (R381, R384, R386). -/

namespace Sys2Proof.Machine

/-! The words of a REG_WRITE. -/

theorem length_words : ∀ l : List Nat, (l.flatMap (natLe 8)).length = 8 * l.length
  | [] => rfl
  | v :: l => by rw [List.flatMap_cons, List.length_append, length_natLe, length_words l, List.length_cons, Nat.mul_succ, Nat.add_comm]

theorem slice_words : ∀ (l : List Nat) (i : Nat), i < l.length → slice (l.flatMap (natLe 8)) (8 * i) 8 = natLe 8 (l.getD i 0)
  | v :: l, 0, _ => List.take_left' (length_natLe 8 v)
  | v :: l, i + 1, h => by
    have hskip : 8 * (i + 1) = (natLe 8 v).length + 8 * i := by
      rw [length_natLe]
      omega
    rw [slice, List.flatMap_cons, hskip, List.drop_length_add_append]
    exact slice_words l i (Nat.lt_of_succ_lt_succ h)

theorem rdLe_words {l : List Nat} {i : Nat} (h : i < l.length) : rdLe (l.flatMap (natLe 8)) (8 * i) 8 = l.getD i 0 % 2 ^ 64 := by
  rw [rdLe, slice_words l i h, leNat_natLe]
  rfl

/-- REG_WRITE writes each word of its payload to the register at its place. -/
theorem State.porterWrite_words (s : State) (addr : Nat) (l : List Nat) : s.porterWrite addr l.length (l.flatMap (natLe 8)) =
    forEach (List.range l.length) (fun i s => s.regWrite .porter (addr + 8 * i) 8 (l.getD i 0 % 2 ^ 64)) s :=
  List.foldl_ext _ _ _ fun s i hi => congrArg (s.regWrite .porter (addr + 8 * i) 8) (rdLe_words (List.mem_range.1 hi))

/-! What each request answers. -/

section Run
variable (s : State) {who : Sender} {seq : Nat}

theorem State.porterRun_read {addr count : Nat} (h1 : 1 ≤ count) (h2 : count ≤ 32) :
    s.porterRun who ⟨seq, 1, 0, count, addr, []⟩ = ((s.porterRead addr count).1, 0, (s.porterRead addr count).2) := by
  have hsize : (⟨seq, 1, 0, count, addr, []⟩ : PorterReq).sized = true := by simp [PorterReq.sized, h1, h2]
  exact if_pos hsize

theorem State.porterRun_write {addr : Nat} {l : List Nat} (h1 : 1 ≤ l.length) (h2 : l.length ≤ 32) :
    s.porterRun who ⟨seq, 2, 8 * l.length, l.length, addr, l.flatMap (natLe 8)⟩ =
      (forEach (List.range l.length) (fun i s => s.regWrite .porter (addr + 8 * i) 8 (l.getD i 0 % 2 ^ 64)) s, 0, []) := by
  have hsize : (⟨seq, 2, 8 * l.length, l.length, addr, l.flatMap (natLe 8)⟩ : PorterReq).sized = true := by
    rw [PorterReq.sized, length_words]
    simp [h1, h2]
  rw [← State.porterWrite_words]
  exact if_pos hsize

section View
variable {addr : Nat} {x : Unit6} (hx : s.parseUnit addr = some x) (h2 : 2 ≤ x.level) (h5 : x.level ≤ 5)
include hx h2 h5

theorem State.viewUnit_parsed : s.viewUnit addr = some x := by rw [State.viewUnit, hx]; exact if_pos ⟨h2, h5⟩

theorem State.porterRun_viewRead : s.porterRun who ⟨seq, 3, 0, 0, addr, []⟩ = (s, 0, s.viewRecord x) := by
  show s.porterView addr (fun _ => some s) s.viewRecord = _
  rw [State.porterView, s.viewUnit_parsed hx h2 h5]

theorem State.porterRun_viewSet {r : Bool} {t : State} (ht : s.viewPut x r = some t) :
    s.porterRun who ⟨seq, 4, 8, 0, addr, natLe 8 (b2n r)⟩ = (t, 0, []) := by
  have hbit : bit (rdLe (natLe 8 (b2n r)) 0 8) 0 = r := by cases r <;> decide
  show s.porterView addr (fun u => s.viewPut u (bit (rdLe (natLe 8 (b2n r)) 0 8) 0)) (fun _ => []) = _
  rw [hbit, State.porterView, s.viewUnit_parsed hx h2 h5]
  dsimp only
  rw [ht]

end View

/-- VIEW_SET writes the entry of a unit that has one, or for which there is room (R386). -/
theorem State.viewPut_room {x : Unit6} (r : Bool) (h : (∃ y ∈ s.porter.views, y.unit = viewKey x) ∨ s.porter.views.length < 256) :
    ∃ t, s.viewPut x r = some t ∧ (⟨viewKey x, r, s.ownerEpoch (s.unitOwner x)⟩ : View) ∈ t.porter.views := by
  by_cases hany : (s.porter.views.any fun y => y.unit == viewKey x) = true
  · obtain ⟨y, hy, hk⟩ := List.any_eq_true.1 hany
    exact ⟨_, if_pos hany, List.mem_map.2 ⟨y, hy, if_pos hk⟩⟩
  · have hroom : s.porter.views.length < 256 := h.resolve_left fun ⟨y, hy, hk⟩ => hany (List.any_eq_true.2 ⟨y, hy, beq_iff_eq.2 hk⟩)
    exact ⟨_, (if_neg hany).trans (if_neg (by omega)), List.mem_append_right _ (List.mem_singleton_self _)⟩

section Key
variable {k : Nat} {x : KeySlot} (hk : k < 2) (hc : s.committing = false) (hx : s.porter.keys[k]? = some x)
include hk hc hx

theorem State.porterRun_keyProgram {hash : Bytes} (hl : hash.length = 48) (hp : x.programmed = false) :
    s.porterRun .i3c ⟨seq, 5, hash.length, 0, k, hash⟩ = (s.withKey k { x with hash := hash, programmed := true }, 0, []) := by
  have hslot : nth s.porter.keys k ⟨[], false, false⟩ = x := by rw [nth, hx]; rfl
  have hstatus : s.keyStatus .i3c k true = 0 := by simp [State.keyStatus, hslot, hk, hc, hp]
  have hsize : (⟨seq, 5, hash.length, 0, k, hash⟩ : PorterReq).sized = true := by simp [PorterReq.sized, hl]
  refine (if_pos hsize).trans ?_
  show s.porterKey .i3c k (some hash) = _
  rw [State.porterKey, Option.isSome_some, hstatus, if_pos rfl, State.keyBlow, hslot]

theorem State.porterRun_keyRevoke (hp : x.programmed = true) (hr : x.revoked = false) :
    s.porterRun .i3c ⟨seq, 6, 0, 0, k, []⟩ = (s.withKey k { x with revoked := true }, 0, []) := by
  have hslot : nth s.porter.keys k ⟨[], false, false⟩ = x := by rw [nth, hx]; rfl
  have hstatus : s.keyStatus .i3c k false = 0 := by simp [State.keyStatus, hslot, hk, hc, hp, hr]
  show s.porterKey .i3c k none = _
  rw [State.porterKey, Option.isSome_none, hstatus, if_pos rfl, State.keyBlow, hslot]

omit hk hc in
theorem State.withKey_keys (y : KeySlot) : (s.withKey k y).porter.keys[k]? = some y := by
  obtain ⟨hlt, -⟩ := List.getElem?_eq_some_iff.1 hx
  exact List.getElem?_set_self hlt

end Key

theorem State.porterRun_trace {addr count : Nat} (h1 : 1 ≤ count) (h8 : count ≤ 8) (ha : addr % 32 = 0)
    (hin : s.inTrace addr (32 * count) = true) {t : State} {b : Bytes} {f : Bool}
    (hr : s.hbmRead (devStack addr) (devOff addr) (32 * count) false 0 = (t, b, f)) :
    s.porterRun who ⟨seq, 7, 0, count, addr, []⟩ = (t, 0, b) := by
  have hsize : (⟨seq, 7, 0, count, addr, []⟩ : PorterReq).sized = true := by simp [PorterReq.sized, h1, h8]
  refine (if_pos hsize).trans ?_
  show s.porterTrace addr (32 * count) = _
  rw [State.porterTrace, if_pos ⟨ha, hin⟩, hr]

end Run

/-! The requests. -/

section Requests
variable {s : State} {who : Sender} {seq addr : Nat} (hon : 3 ≤ s.seqPhase) (hq : s.porter.queue = []) (hseq : seq < 65536) (ha : addr < 2 ^ 64)
  (hkept : s.keptAnswer who seq = none)
include hon hq hseq ha hkept

theorem exec_regRead_served {count : Nat} (h1 : 1 ≤ count) (h2 : count ≤ 32) :
    ∃ u, exec (.regRead who seq addr count) s = .next u ∧ u.answers who seq (s.porterRead addr count).2 := by
  obtain ⟨l, a, hu, hans⟩ := State.porterRequest_answers hon hq hseq hkept (s.porterRun_read h1 h2)
    (by decide) (by decide) (by omega) ha (fun h => absurd h (by decide))
  exact ⟨_, congrArg Host.Outcome.next hu, hans⟩

theorem exec_regWrite_served {l : List Nat} (h1 : 1 ≤ l.length) (h2 : l.length ≤ 32) :
    ∃ u, exec (.regWrite who seq addr l) s = .next u ∧ u.answers who seq [] ∧ u.withPorter s.porter =
      ((forEach (List.range l.length) (fun i s => s.regWrite .porter (addr + 8 * i) 8 (l.getD i 0 % 2 ^ 64)) s).withPorter s.porter).withOut
        u.out := by
  obtain ⟨k, a, hu, hans⟩ := State.porterRequest_answers hon hq hseq hkept (s.porterRun_write h1 h2)
    (by decide) (by omega) (by omega) ha (fun h => absurd h (by decide))
  exact ⟨_, congrArg Host.Outcome.next hu, hans, rfl⟩

section View
variable {x : Unit6} (hx : s.parseUnit addr = some x) (h2 : 2 ≤ x.level) (h5 : x.level ≤ 5)
include hx h2 h5

theorem exec_viewRead_served :
    ∃ u, exec (.viewRead who seq addr) s = .next u ∧ u.answers who seq (s.viewRecord x) ∧ u.tiles = s.tiles := by
  obtain ⟨l, a, hu, hans⟩ := State.porterRequest_answers hon hq hseq hkept (s.porterRun_viewRead hx h2 h5)
    (by decide) (by decide) (by decide) ha (fun h => absurd h (by decide))
  exact ⟨_, congrArg Host.Outcome.next hu, hans, rfl⟩

theorem exec_viewSet_served (r : Bool) (h : (∃ y ∈ s.porter.views, y.unit = viewKey x) ∨ s.porter.views.length < 256) :
    ∃ u, exec (.viewSet who seq addr r) s = .next u ∧ u.answers who seq [] ∧
      (⟨viewKey x, r, s.ownerEpoch (s.unitOwner x)⟩ : View) ∈ u.porter.views := by
  obtain ⟨t, ht, hmem⟩ := s.viewPut_room r h
  obtain ⟨l, a, hu, hans⟩ := State.porterRequest_answers hon hq hseq hkept (s.porterRun_viewSet hx h2 h5 ht)
    (by decide) (by decide) (by decide) ha (fun h => absurd h (by decide))
  exact ⟨_, congrArg Host.Outcome.next hu, hans, hmem⟩

end View

section Key
variable {k : KeySlot} (hw : who = .i3c) (hs : addr < 2) (hc : s.committing = false) (hk : s.porter.keys[addr]? = some k)
include hw hs hc hk

theorem exec_keyProgram_served {hash : Bytes} (hl : hash.length = 48) (hp : k.programmed = false) :
    ∃ u, exec (.keyProgram who seq addr hash) s = .next u ∧ u.answers who seq [] ∧
      u.porter.keys[addr]? = some { k with hash := hash, programmed := true } := by
  subst hw
  obtain ⟨l, a, hu, hans⟩ := State.porterRequest_answers hon hq hseq hkept (s.porterRun_keyProgram hs hc hk hl hp)
    (by decide) (by omega) (by decide) ha (fun h => absurd h (by decide))
  exact ⟨_, congrArg Host.Outcome.next hu, hans, s.withKey_keys hk _⟩

theorem exec_keyRevoke_served (hp : k.programmed = true) (hr : k.revoked = false) :
    ∃ u, exec (.keyRevoke who seq addr) s = .next u ∧ u.answers who seq [] ∧ u.porter.keys[addr]? = some { k with revoked := true } := by
  subst hw
  obtain ⟨l, a, hu, hans⟩ := State.porterRequest_answers hon hq hseq hkept (s.porterRun_keyRevoke hs hc hk hp hr)
    (by decide) (by decide) (by decide) ha (fun h => absurd h (by decide))
  exact ⟨_, congrArg Host.Outcome.next hu, hans, s.withKey_keys hk _⟩

end Key

theorem exec_traceRead_served {count : Nat} {t : State} {b : Bytes} {f : Bool} (h1 : 1 ≤ count) (h8 : count ≤ 8) (hal : addr % 32 = 0)
    (hin : s.inTrace addr (32 * count) = true) (hfree : s.hbmHeld (devStack addr) (devOff addr) (32 * count) = false)
    (hr : s.hbmRead (devStack addr) (devOff addr) (32 * count) false 0 = (t, b, f)) :
    ∃ u, exec (.traceRead who seq addr count) s = .next u ∧ u.answers who seq b := by
  obtain ⟨l, a, hu, hans⟩ := State.porterRequest_answers hon hq hseq hkept (s.porterRun_trace h1 h8 hal hin hr)
    (by decide) (by decide) (by omega) ha (fun _ => hfree)
  exact ⟨_, congrArg Host.Outcome.next hu, hans⟩

end Requests

end Sys2Proof.Machine
end

section
/-! PROOFS. The commands of groups, the group messages and the porter's requests complete (R182, R184, R185, R187, R193, R200-R202, R204). -/

namespace Sys2Proof.Machine

/-! Refused messages (R204). -/

theorem exec_epochAheadRepeat_expired {s : State} {e : Nat} (hwf : s.wf = true) (h : ∀ y ∈ (s.group e).refused, y.1 ≤ s.clk.kclk) :
    ∃ u, exec (.epochAheadRepeat e) s = .next u ∧ (u.group e).refused = [] ∧ u.out = s.out ∧ u.tiles = s.tiles := by
  have hnone : (s.group e).refused.filter (fun x => decide (s.clk.kclk < x.1)) = [] :=
    List.filter_eq_nil_iff.2 fun y hy => by simpa using h y hy
  have hexec := exec_epochAheadRepeat s e
  rw [hnone] at hexec
  have hempty := State.group_modGroup_self (Since.refl hwf).groupsOrd e fun g => { g with refused := [] }
  exact ⟨_, hexec, congrArg Group.refused hempty, rfl, rfl⟩

theorem exec_epochAheadRepeat_one {s : State} {e k : Nat} {f : Frame} (h : (s.group e).refused = [(k, f)]) (hk : s.clk.kclk < k) :
    exec (.epochAheadRepeat e) s = .next ((s.modGroup e fun g => { g with refused := [] }).colSendTill e k f) := by
  have hkept : [(k, f)].filter (fun x => decide (s.clk.kclk < x.1)) = [(k, f)] := List.filter_eq_self.2 fun y hy => by simp_all
  rw [exec_epochAheadRepeat, h, hkept]
  rfl

/-! Messages that meet what they are for. -/

theorem State.messageIn_wf {s : State} (hwf : s.wf = true) (f : Frame) (e : Nat) : (s.messageIn f e).wf = true := by
  have harrives : Since s (s.arrival f) := by
    unfold State.arrival
    split
    · exact Since.refl hwf
    · exact State.external_since (Since.refl hwf)
  rw [State.messageIn_eq]
  exact (State.hear_since (State.traceEvent_since (State.foreignActivity_since harrives))).wf

section Message
variable {s : State} {f : Frame} {e : Nat} {x : Inst} (he : e < 256)
include he

/-- A sum takes a contribution as it is. -/
theorem State.contribution_sum (h : s.meets f 1 e x) (hsum : colSums (cmOp f.payload) = true) :
    s.contribution f = (s.messageIn f e).stageTake e (cmSeq f.payload) (msgInput f 1 (f.payload.drop 32)) := by
  refine State.contribution_taken h he ?_ ?_ ?_ <;> simp [colSums, colDirect, colCopies, colMerges] at hsum ⊢ <;> omega

/-- A chunk of REDUCE_SCATTER goes to the member that it names. -/
theorem State.resultIn_chunk {m : ColMember} (h : s.meets f 3 e x) (hop : cmOp f.payload = 0x81) (hd : f.payload.drop 32 ≠ [])
    (hr : (s.group e).ranksOn s.node ≠ []) (hm : x.members.find? (fun m => m.tile == f.flow % 2 ^ 15) = some m) :
    let p := f.payload
    let q := cmSeq p
    s.resultIn f = (((((s.messageIn f e).resFlags e (cmStatus p)).modInst e q fun y => { y with relayed := y.relayed + max 1 (cmCount p) }).deliver e q
      m.tile ((cmOffset p - m.rank * ((opA m.desc).count / max 1 (s.group e).members.length)) * colDestBytes m.desc) (p.drop 32)).endIfQuiet e q) := by
  intro p q
  obtain ⟨t, ht, -, -, hchunk, -⟩ := State.resultIn_meets h he
  have hone : forAll x (f.payload.drop 32) = false := by
    simp [forAll, colCopies, colMerges, hd, h.2.2.2.1, hop]
  have hrelays : s.relays f e x =
      ((s.messageIn f e).resFlags e (cmStatus p)).modInst e q fun y => { y with relayed := y.relayed + max 1 (cmCount p) } := by
    have hranks : ¬ ((s.group e).ranksOn s.node).isEmpty = true := fun h => hr (List.isEmpty_iff.1 h)
    unfold State.relays
    dsimp only
    rw [if_neg hranks, if_neg (by rw [hone]; decide)]
  rw [ht, hchunk m hd hop hm, hrelays]

end Message

/-- Settles O60: by the effect of each command of a group, of each message that meets what it is for, and of each of the porter's requests. -/
theorem groupAndPorterCompletions : Obligations.GroupAndPorterCompletions := by
  refine ⟨fun s src e k hwf he h => ?list, fun s s1 e bad ws he h hr hok => exec_listCommitDone_on he h hr hok, fun s e q x hwf hx => ?loss,
    fun s e hwf => ⟨exec_epochAheadRepeat_expired hwf, fun k f => exec_epochAheadRepeat_one⟩, fun s => rfl, ?messages, ?porter⟩
  case list =>
    exact ⟨exec_commitList_effect src hwf he h k, exec_invalidate_off src hwf he h, exec_invalidate_on src hwf he h⟩
  case loss =>
    refine ⟨⟨_, rfl, State.abortInst_inst hwf e q 0x51 _⟩, fun node hon hone hnear => exec_memberLost_near hwf hx hon hone hnear,
      fun w hon hsum hopen hw hknown hall => ?_, fun t m hm hd ha hn hg ho hdesc => exec_instanceComplete_due hx hm hd ha hn hg ho hdesc⟩
    exact congrArg (fun s => Host.Outcome.next (State.endIfQuiet s e q)) (State.windowClose_sum hx hon hsum hopen hw hknown hall)
  case messages =>
    intro s f e x hwf he p q u fromBelow input
    refine ⟨fun h ho => ?_, fun h ho => ?_, fun m h ho hd hr hm => ?_, fun h hst => ?_, fun h => ?_, fun h => ?_, fun h ho hb => ?_, fun h hb => ?_⟩
    · exact congrArg Host.Outcome.next (State.contribution_sum he h ho)
    · exact congrArg Host.Outcome.next (State.partialIn_taken h he ho)
    · exact congrArg Host.Outcome.next (State.resultIn_chunk he h ho hd hr hm)
    · exact congrArg Host.Outcome.next (State.creditIn_grant h he hst)
    · exact ⟨_, congrArg Host.Outcome.next (State.abortIn_meets h he), State.abortInst_inst (State.messageIn_wf hwf f e) e q _ none⟩
    · obtain ⟨ha, hep, hinst, -⟩ := h
      have hheard := State.heartbeatIn_heard ha he hep (.inl (hinst ▸ rfl))
      exact ⟨_, congrArg Host.Outcome.next hheard, s.messageIn_insts f e⟩
    · exact congrArg Host.Outcome.next (State.sizeIn_ends h he ho hb)
    · exact congrArg Host.Outcome.next (State.barrierIn_ends h he hb)
  case porter =>
    intro s who seq addr count hon hq hseq ha hkept served
    refine ⟨fun h1 h2 => ?_, fun l h1 h2 => ?_, fun x hx h2 h5 => ⟨?_, fun r hroom => ?_⟩, fun h k hl hw hs hc hk => ⟨fun hp => ?_, fun hp hr => ?_⟩,
      fun t b f h1 h8 hal hin hfree hr => ?_⟩
    · exact exec_regRead_served hon hq hseq ha hkept h1 h2
    · exact exec_regWrite_served hon hq hseq ha hkept h1 h2
    · exact exec_viewRead_served hon hq hseq ha hkept hx h2 h5
    · exact exec_viewSet_served hon hq hseq ha hkept hx h2 h5 r hroom
    · exact exec_keyProgram_served hon hq hseq ha hkept hw hs hc hk hl hp
    · exact exec_keyRevoke_served hon hq hseq ha hkept hw hs hc hk hp hr
    · exact exec_traceRead_served hon hq hseq ha hkept h1 h8 hal hin hfree hr

end Sys2Proof.Machine
end

section
/-! PROOFS. The ports' statements on TIME sets and on lanes fail outside the form of a state: a register that the table lists twice does not
take a value that is its reset value (R230, R270). -/

namespace Sys2Proof.Machine

/-! TIME sets. -/

/-- Port 0, enabled by the default set and in fabric mode, with a neighbour in step. `State.wf` does not hold: the table of registers lists
FTM_NBR_STATUS of the port twice. -/
def State.neighbourTwice : State :=
  { State.reset with regs := [(pdReg 0 Reg.lnkDieMode, 1), (portReg 0 Reg.ftmNbrStatus, 1), (portReg 0 Reg.ftmNbrStatus, 1)] }

/-- IN_STEP of the port's neighbour after a step. -/
def inStepAfter : Out → Nat
  | .next t => t.fld (portReg 0 Reg.ftmNbrStatus) 0 0
  | _ => 0

/-- The field of zero takes the first entry of the register out of the table, and the second takes its place. -/
theorem State.neighbourTwice_stays : inStepAfter (exec (.timeSetTimeout 0) State.neighbourTwice) = 1 := by decide +kernel

/-- Refutes O36: where the table lists FTM_NBR_STATUS of a port twice, four periods without a TIME set leave its neighbour in step. -/
theorem not_linkTraffic : ¬ Obligations.LinkTraffic := by
  rintro ⟨-, hsets⟩
  obtain ⟨-, htimeout, -⟩ := hsets State.neighbourTwice 0 [] (by decide)
  obtain ⟨t, ht, hout, -⟩ := htimeout (by decide +kernel) (by decide +kernel)
  have hrun := State.neighbourTwice_stays
  rw [ht] at hrun
  exact absurd (hrun.symm.trans hout) (by decide)

/-! Lanes. -/

/-- Die P0 with every port off. `State.wf` does not hold: the table of registers lists LNK_LANE_BER of lane 0 twice. -/
def State.laneTwice : State :=
  { State.reset with
    regs := [(pdReg 0 (Reg.lnkLaneBer 0), 5), (pdReg 0 (Reg.lnkLaneBer 0), 5)]
    dies := [(16, { Die.reset with active := zeros 1 })] }

/-- The corrected bits that lane 0 of die P0 shows after a step. -/
def laneBerAfter : Out → Word
  | .next t => t.reg (pdReg 0 (Reg.lnkLaneBer 0))
  | _ => 0

/-- The count of zero takes the first entry of the register out of the table, and the second takes its place. -/
theorem State.laneTwice_stays : laneBerAfter (exec (.berWindow 0 [] 0) State.laneTwice) = 5 := by decide +kernel

/-- Refutes O37: where the table lists LNK_LANE_BER of a lane twice, a window without a corrected bit does not show zero. -/
theorem not_portStates : ¬ Obligations.PortStates := by
  rintro ⟨hports, -⟩
  obtain ⟨-, -, -, -, -, -, -, hwindow, -⟩ := hports State.laneTwice 0 (by decide)
  have hoff : ∀ e < 32, State.laneTwice.portOn (32 * 0 + e) = false := by decide +kernel
  obtain ⟨t, ht, hlanes⟩ := hwindow 0 [] 0 (by decide) hoff
  obtain ⟨hber, -⟩ := hlanes 0 (by decide)
  have hrun := State.laneTwice_stays
  rw [ht] at hrun
  exact absurd (hrun.symm.trans hber) (by decide)

end Sys2Proof.Machine
end

section
/-! PROOFS. Frames that arrive at a port or leave a local-delivery queue (R211, R232 to R234, R239, R274). -/

namespace Sys2Proof.Machine

/-! Arrival at a fabric port. -/

section Fabric
variable {s : State} {p : Nat} {f : Frame} {ok : Bool}

theorem State.frameArrival_down (h : s.portUp p = false) : s.frameArrival p f ok = s := if_pos (by simp [h])

/-- The stream that a frame arrives on: its reassembly at the port. -/
def State.stream (s : State) (p : Nat) (f : Frame) : Asm := mapGet Asm.idle (2 * f.cls + f.vc) (s.port p).asm

variable (hup : s.portUp p = true) (hf : s.fabricPort p = true)
include hup hf

theorem State.frameArrival_reassembled (h : f ∈ (s.port p).rxDone) : s.frameArrival p f ok =
    (s.modPort p fun t => { t with rxDone := t.rxDone.erase f }).ingress p f (some (2 * f.cls + f.vc)) true := by
  rw [State.frameArrival, if_neg (by simp [hup]), if_pos hf]
  dsimp only
  rw [if_pos (List.contains_iff_mem.2 h)]
  rfl

/-- A frame that the port has not taken cell by cell is charged whole. -/
theorem State.frameArrival_charged (h : f ∉ (s.port p).rxDone) (ha : (s.stream p f).head ≠ some f) : s.frameArrival p f ok =
    (s.chargeCells p (2 * f.cls + f.vc) (cellsOf f.payload.length)).ingress p f (some (2 * f.cls + f.vc)) true := by
  rw [State.frameArrival, if_neg (by simp [hup]), if_pos hf]
  dsimp only
  rw [if_neg (mt List.contains_iff_mem.1 h)]
  exact if_neg ha

/-- A frame whose cells are still coming starts to be cut through, unless it has started. -/
theorem State.frameArrival_open (h : f ∉ (s.port p).rxDone) (ha : (s.stream p f).head = some f) : s.frameArrival p f ok =
    if (s.stream p f).fwd.isNone then s.cutStart p (2 * f.cls + f.vc) f else s := by
  rw [State.frameArrival, if_neg (by simp [hup]), if_pos hf]
  dsimp only
  rw [if_neg (mt List.contains_iff_mem.1 h)]
  exact if_pos ha

theorem State.frameArrival_forwarded (h : f ∉ (s.port p).rxDone) (ha : (s.stream p f).head = some f) (hfwd : (s.stream p f).fwd.isSome = true) :
    s.frameArrival p f ok = s :=
  (State.frameArrival_open hup hf h ha).trans (if_neg (mt Option.isNone_iff_eq_none.1 (Option.isSome_iff_ne_none.1 hfwd)))

theorem State.frameArrival_first (h : f ∉ (s.port p).rxDone) (ha : (s.stream p f).head = some f) (hfwd : (s.stream p f).fwd = none) :
    s.frameArrival p f ok = s.cutStart p (2 * f.cls + f.vc) f :=
  (State.frameArrival_open hup hf h ha).trans (if_pos (Option.isNone_iff_eq_none.2 hfwd))

end Fabric

section Cut
variable {s : State} {p v : Nat} {f : Frame}

/-- The judgement of a frame at its first cell, which the policer takes for the longest that it may be (log entry 90). -/
def State.firstJudged (s : State) (p : Nat) (f : Frame) : State × Option Nat :=
  s.ingressClass p (min (s.maxFrame p) 2048) (min (s.maxFrame p) 2048) f

theorem State.cutStart_policed (h : (s.firstJudged p f).2 = none) : s.cutStart p v f = s := by
  rw [State.firstJudged] at h
  simp only [State.cutStart, h]

/-- A frame that leaves by another than a fabric port waits for its last cell. -/
theorem State.cutStart_waits {c : Nat} (h : (s.firstJudged p f).2 = some c) (hc : s.cutsTo p c f = false) : s.cutStart p v f = s := by
  rw [State.firstJudged] at h
  simp [State.cutStart, h, hc]

theorem State.cutStart_cuts {c : Nat} (h : (s.firstJudged p f).2 = some c) (hc : s.cutsTo p c f = true) : s.cutStart p v f =
    ((s.firstJudged p f).1.withAsm p v ⟨some f, false, some (min (s.maxFrame p) 2048)⟩).classify p c f (some v) true true := by
  rw [State.firstJudged] at h
  simp only [State.cutStart, h, if_pos hc]
  rfl

end Cut

/-! Arrival at an Ethernet port. -/

section Ethernet
variable {s : State} {p : Nat} {f : Frame} {ok : Bool} (hup : s.portUp p = true) (hf : s.fabricPort p = false)
include hup hf

theorem State.frameArrival_badLength (h : s.wireLen p f < 64 ∨ s.maxFrame p < s.wireLen p f) :
    s.frameArrival p f ok = s.bump (portReg p Reg.lnkRxDropCnt) := by
  rw [State.frameArrival, if_neg (by simp [hup]), if_neg (by simp [hf])]
  exact if_pos h

variable (hlen : ¬ (s.wireLen p f < 64 ∨ s.maxFrame p < s.wireLen p f))
include hlen

theorem State.frameArrival_ptp (h : isPtp f.payload = true) : s.frameArrival p f ok =
    if ok then (s.frameReceived p (s.wireLen p f) { f with origin := s.now }).emit (.ptp p f.payload s.now)
    else s.bump (portReg p Reg.lnkRxDropCnt) := by
  rw [State.frameArrival, if_neg (by simp [hup]), if_neg (by simp [hf])]
  dsimp only
  rw [if_neg hlen, if_pos h]

/-- A frame for a station goes on with its FCS good, or with its transmission begun. -/
theorem State.frameArrival_station {g : Frame} (h : isPtp f.payload = false) (hg : s.etherFrame p f = some g) : s.frameArrival p f ok =
    if ok = true ∨ s.beginsNow p g = true then s.ingress p g none ok else s.bump (portReg p Reg.lnkRxDropCnt) := by
  rw [State.frameArrival, if_neg (by simp [hup]), if_neg (by simp [hf])]
  dsimp only
  rw [if_neg hlen, if_neg (by simp [h]), hg]

theorem State.frameArrival_unknown (h : isPtp f.payload = false) (hg : s.etherFrame p f = none) : s.frameArrival p f ok =
    if ok then (s.frameReceived p (s.wireLen p f) { f with origin := s.now }).dropCounted p (pdReg (p / 32) Reg.rteStationMissCnt) f none
    else s.bump (portReg p Reg.lnkRxDropCnt) := by
  rw [State.frameArrival, if_neg (by simp [hup]), if_neg (by simp [hf])]
  dsimp only
  rw [if_neg hlen, if_neg (by simp [h]), hg]

end Ethernet

/-! The pipeline. -/

section Pipeline
variable {s : State} {p : Nat} {f : Frame} {ok : Bool}

/-- A whole frame after its counts, its check units and its judgement. -/
def State.arrivalJudged (s : State) (p : Nat) (f : Frame) : State × Option Nat :=
  ((s.frameReceived p (s.wireLen p f) f).chkFrame p 0 f).ingressClass p (s.policeLen p (s.wireLen p f) f) (s.wireLen p f) f

theorem State.ingress_policed (credit : Option Nat) (h : (s.arrivalJudged p f).2 = none) :
    s.ingress p f credit ok = (s.arrivalJudged p f).1.dropCounted p (portReg p Reg.schPolDropCnt) f credit := by
  rw [State.arrivalJudged] at h
  simp only [State.ingress, h]
  rfl

theorem State.ingress_classified {c : Nat} (credit : Option Nat) (h : (s.arrivalJudged p f).2 = some c) :
    s.ingress p f credit ok = (s.arrivalJudged p f).1.classify p c f credit ok false := by
  rw [State.arrivalJudged] at h
  simp only [State.ingress, h]
  rfl

end Pipeline

/-! What a dropped frame leaves of the local-delivery queues. -/

section LocalQueues
variable {s : State}

theorem ite_localQ {a b : State} {c : Prop} [Decidable c] (ha : a.localQ = s.localQ) (hb : b.localQ = s.localQ) :
    (if c then a else b).localQ = s.localQ := by
  split <;> assumption

theorem State.forEach_localQ {α : Type} {g : α → State → State} (hg : ∀ a s, (g a s).localQ = s.localQ) :
    ∀ (l : List α) (s : State), (forEach l g s).localQ = s.localQ
  | [], _ => rfl
  | a :: l, s => (State.forEach_localQ hg l (g a s)).trans (hg a s)

theorem State.traceEvent_localQ (d source event owner : Nat) (data : Bytes) : (s.traceEvent d source event owner data).localQ = s.localQ :=
  ite_localQ rfl (ite_localQ rfl rfl)

theorem State.portCount_localQ (e ev : Nat) (cls : Option Nat) (n : Nat) : (s.portCount e ev cls n).localQ = s.localQ := by
  unfold State.portCount
  refine State.forEach_localQ (fun k u => ?_) _ _
  exact ite_localQ rfl rfl

theorem State.pkPtr_localQ (n ptr : Nat) (op : PtrOp) : (s.pkPtr n ptr op).localQ = s.localQ := by
  unfold State.pkPtr
  split
  · rfl
  · dsimp only
    split
    · exact ite_localQ (s := s) rfl rfl
    · exact ite_localQ rfl rfl

theorem State.sendFlow_localQ (p mask : Nat) (on : Bool) : (s.sendFlow p mask on).localQ = s.localQ := ite_localQ rfl (ite_localQ rfl rfl)

theorem State.flowCheck_localQ (p c : Nat) : (s.flowCheck p c).localQ = s.localQ :=
  ite_localQ rfl (ite_localQ (State.sendFlow_localQ ..) (ite_localQ (State.sendFlow_localQ ..) rfl))

theorem State.release_localQ (die : Nat) (q : QFrame) : (s.release die q).localQ = s.localQ := by
  have hfree : (s.freeBufs die q.bufs).localQ = s.localQ := State.forEach_localQ (fun ib u => State.pkPtr_localQ ..) _ _
  unfold State.release
  refine (State.flowCheck_localQ ..).trans ?_
  cases q.credit <;> exact ite_localQ hfree hfree

theorem State.dropOld_localQ (e die : Nat) (q : QFrame) : (s.dropOld e die q).localQ = s.localQ :=
  (State.release_localQ die q).trans ((State.portCount_localQ ..).trans (State.traceEvent_localQ ..))

end LocalQueues

/-! Local delivery. -/

section Delivery
variable {s : State} {p c : Nat} {q : QFrame}

/-- A frame that leaves a local-delivery queue: to the packet mesh, with its echo where it is marked, and its buffers given up. -/
def State.delivers (s : State) (p : Nat) (q : QFrame) : State :=
  let k := portEntryStop p
  let w := if isEcho q.f then s.emit (.meshDeliver k q.f) else (s.meshPut k (localStop k q.f) q.f).disagree q.f
  (if q.f.ce then w.echo (p / 32) q.f else w).release (p / 32) q

theorem State.ageLocal_young (rest : List QFrame) (h : s.aged (p / 32) q = false) : s.ageLocal p c (q :: rest) = s := if_neg (by simp [h])

theorem State.ageLocal_old (rest : List QFrame) (h : s.aged (p / 32) q = true) :
    s.ageLocal p c (q :: rest) = ((s.withLocalOf (localKey p c) rest).dropOld p (p / 32) q).ageLocal p c rest := if_pos h

/-- What is left of a queue once its aged heads are gone decides what is delivered. -/
theorem State.localDelivery_empty (h : (s.ageLocal p c (s.localOf (localKey p c))).localOf (localKey p c) = []) :
    s.localDelivery p c = s.ageLocal p c (s.localOf (localKey p c)) := by
  simp only [State.localDelivery, h]

theorem State.localDelivery_young {rest : List QFrame} (h : s.localOf (localKey p c) = q :: rest) (ha : s.aged (p / 32) q = false) :
    s.localDelivery p c = (((s.withLocalOf (localKey p c) rest).delivers p q).ageLocal p c
      (((s.withLocalOf (localKey p c) rest).delivers p q).localOf (localKey p c))) := by
  simp only [State.localDelivery, h, State.ageLocal_young rest ha]
  rfl

/-- The one frame of a queue, aged, is dropped, and nothing is delivered. -/
theorem State.localDelivery_old (hs : keysFrom 0 s.localQ = true) (h : s.localOf (localKey p c) = [q]) (ha : s.aged (p / 32) q = true) :
    s.localDelivery p c = (s.withLocalOf (localKey p c) []).dropOld p (p / 32) q := by
  have hage : s.ageLocal p c (s.localOf (localKey p c)) = (s.withLocalOf (localKey p c) []).dropOld p (p / 32) q := by
    rw [h, State.ageLocal_old [] ha]
    rfl
  have hempty : ((s.withLocalOf (localKey p c) []).dropOld p (p / 32) q).localOf (localKey p c) = [] := by
    rw [State.localOf, State.dropOld_localQ]
    exact mapGet_mapPut_self _ _ _ hs
  rw [← hage] at hempty ⊢
  exact State.localDelivery_empty hempty

end Delivery

/-- Settles O38: by where an arriving frame stands at its port, by its judgement, and by the head of a local-delivery queue. -/
theorem frameArrivals : Obligations.FrameArrivals := by
  intro s p f ok v len short dropped ether
  refine ⟨fun hdown => congrArg _ (State.frameArrival_down hdown), fun hup hf => ?fabric,
    fun ⟨hup, hf⟩ hshort => congrArg _ (State.frameArrival_badLength hup hf hshort),
    fun ⟨hup, hf⟩ hlen hptp => ⟨congrArg _ (State.frameArrival_ptp (ok := true) hup hf hlen hptp),
      congrArg _ (State.frameArrival_ptp (ok := false) hup hf hlen hptp)⟩,
    fun ⟨hup, hf⟩ hlen hptp => ⟨fun g hg => ⟨fun hgo => ?_, fun hno => ?_⟩, fun hg => ⟨?_, ?_⟩⟩,
    fun credit => ⟨State.ingress_policed credit, fun c => State.ingress_classified credit⟩,
    fun c q rest h ha => congrArg _ (State.localDelivery_young h ha), fun c h => ?_, fun c q hwf h ha => ?_⟩
  case fabric =>
    refine ⟨fun hdone => congrArg _ (State.frameArrival_reassembled hup hf hdone), fun hdone ha => congrArg _ (State.frameArrival_charged hup hf hdone ha),
      fun hdone ha => ⟨fun hfwd => congrArg _ (State.frameArrival_forwarded hup hf hdone ha hfwd), fun hfwd hr => ?_, fun c hfwd hr hc => ?_,
        fun c hfwd hr hc => ?_⟩⟩
    all_goals refine congrArg Host.Outcome.next ((State.frameArrival_first hup hf hdone ha hfwd).trans ?_)
    · exact State.cutStart_policed hr
    · exact State.cutStart_waits hr hc
    · exact State.cutStart_cuts hr hc
  · exact congrArg _ ((State.frameArrival_station hup hf hlen hptp hg).trans (if_pos hgo))
  · exact congrArg _ ((State.frameArrival_station hup hf hlen hptp hg).trans (if_neg (by simp [hno])))
  · exact congrArg _ (State.frameArrival_unknown (ok := true) hup hf hlen hptp hg)
  · exact congrArg _ (State.frameArrival_unknown (ok := false) hup hf hlen hptp hg)
  · have hage : s.ageLocal p c (s.localOf (localKey p c)) = s := by rw [h]; rfl
    exact congrArg _ ((State.localDelivery_empty (by rw [hage]; exact h)).trans hage)
  · exact congrArg _ (State.localDelivery_old (Since.refl hwf).localQOrd h ha)

end Sys2Proof.Machine
end

section
/-! PROOFS. Cell slots: what takes a slot of a port, and what the fourth cell of a group sends (R222, R225, R255, R256, R286). -/

namespace Sys2Proof.Machine

/-- A fold that at each element takes it or keeps its choice ends with one of the elements. -/
theorem mem_of_foldl_choice {α : Type} {f : Option α → α → Option α} (hf : ∀ b a, f b a = some a ∨ f b a = b) :
    ∀ {l : List α} {b : Option α} {c : α}, l.foldl f b = some c → c ∈ l ∨ b = some c
  | [], _, _, h => .inr h
  | a :: l, b, c, h => by
    rcases mem_of_foldl_choice hf (l := l) h with hc | hc
    · exact .inl (List.mem_cons_of_mem _ hc)
    · rcases hf b a with hfa | hfa
      · exact .inl (by simp [Option.some.inj (hfa.symm.trans hc)])
      · exact .inr (hfa.symm.trans hc)

/-! What takes a slot. -/

section Slot
variable {s : State} {e : Nat}

theorem State.cellSlot_down (h : s.portUp e = false) : s.cellSlot e = s := if_pos (by simp [h])

/-- A waiting hold cell takes the slot of a fabric port whose replay buffer has room. -/
theorem State.cellSlot_hold {h : Nat × Nat} {r : List (Nat × Nat)} (hup : s.portUp e = true) (hh : ((s.countClosed e).port e).holdOut = h :: r)
    (hf : (s.countClosed e).fabricPort e = true) (hroom : (s.countClosed e).replayRoom e = true) :
    s.cellSlot e = ((s.countClosed e).modPort e fun t => { t with holdOut := r }).sendCell e (holdCellBytes h.1 h.2) none true := by
  simp [State.cellSlot, hup, hh, hf, hroom]

/-- No hold cell takes the slot: the port settles, and chooses. -/
theorem State.cellSlot_free (hup : s.portUp e = true) (h : ((s.countClosed e).port e).holdOut = [] ∨ (s.countClosed e).fabricPort e = false ∨
    (s.countClosed e).replayRoom e = false) : s.cellSlot e = (s.slotReady e).slotChoice e := by
  rw [State.cellSlot, if_neg (by simp [hup])]
  dsimp only
  split
  · next hold rest hh =>
    have hno : ¬ ((s.countClosed e).fabricPort e && (s.countClosed e).replayRoom e) = true := by
      rcases h with h | h | h
      · exact absurd (hh.symm.trans h) nofun
      · simp [h]
      · simp [h]
    rw [if_neg hno, State.slotReady]
  · rfl

/-- The choice of a slot that no express frame in transmission takes. -/
def State.slotBelowExpress (s : State) (e : Nat) : State :=
  if s.canStart e 7 then
    (if (List.range 7).any (fun c => (s.txOpen e c).isSome) && !s.fabricPort e then s.portCount e 0x0A none 1 else s).startFrame e 7
  else
    match s.openChoice e with
    | some c =>
      match s.txOpen e c with
      | some t => if s.fabricPort e then s.nextCell e c t else s.finishFrame e c t
      | none => s
    | none =>
      match (if s.openWaits e then none else s.wfqChoice e) with
      | some c => s.startFrame e c
      | none => if s.fabricPort e then (s.countStall e).sendCell e idleCell none false else s.countStall e

/-- An express frame in transmission that may go on comes first. -/
theorem State.slotChoice_express {t : TxOpen} (ho : s.txOpen e 7 = some t) (hc : s.canContinue e 7 t = true) :
    s.slotChoice e = s.nextCell e 7 t := by
  simp [State.slotChoice, ho, hc]

theorem State.slotChoice_below (h : ¬ ∃ t, s.txOpen e 7 = some t ∧ s.canContinue e 7 t = true) : s.slotChoice e = s.slotBelowExpress e := by
  cases ho : s.txOpen e 7 with
  | none =>
    simp only [State.slotChoice, ho]
    rfl
  | some t =>
    have hc : s.canContinue e 7 t = false := by
      by_contra hc
      exact h ⟨t, ho, by simpa using hc⟩
    simp only [State.slotChoice, ho, hc]
    rfl

/-- An express frame that starts past an open frame of an Ethernet port preempts it, and is counted. -/
theorem State.slotBelowExpress_preempts (hs : s.canStart e 7 = true) (ho : ∃ c, c < 7 ∧ (s.txOpen e c).isSome = true) (hf : s.fabricPort e = false) :
    s.slotBelowExpress e = (s.portCount e 0x0A none 1).startFrame e 7 := by
  have hany : ((List.range 7).any (fun c => (s.txOpen e c).isSome) && !s.fabricPort e) = true := by simpa [hf] using ho
  rw [State.slotBelowExpress, if_pos hs, if_pos hany]

theorem State.slotBelowExpress_starts (hs : s.canStart e 7 = true)
    (h : ¬ ((∃ c, c < 7 ∧ (s.txOpen e c).isSome = true) ∧ s.fabricPort e = false)) : s.slotBelowExpress e = s.startFrame e 7 := by
  have hany : ¬ ((List.range 7).any (fun c => (s.txOpen e c).isSome) && !s.fabricPort e) = true := by simpa using h
  rw [State.slotBelowExpress, if_pos hs, if_neg hany]

theorem State.slotBelowExpress_goesOn {c : Nat} {t : TxOpen} (hs : s.canStart e 7 = false) (hc : s.openChoice e = some c)
    (ht : s.txOpen e c = some t) : s.slotBelowExpress e = if s.fabricPort e then s.nextCell e c t else s.finishFrame e c t := by
  simp [State.slotBelowExpress, hs, hc, ht]

theorem State.slotBelowExpress_fair {c : Nat} (hs : s.canStart e 7 = false) (ho : s.openChoice e = none) (hw : s.openWaits e = false)
    (hc : s.wfqChoice e = some c) : s.slotBelowExpress e = s.startFrame e c := by
  simp [State.slotBelowExpress, hs, ho, hw, hc]

theorem State.slotBelowExpress_stalls (hs : s.canStart e 7 = false) (ho : s.openChoice e = none)
    (h : s.openWaits e = true ∨ s.wfqChoice e = none) :
    s.slotBelowExpress e = if s.fabricPort e then (s.countStall e).sendCell e idleCell none false else s.countStall e := by
  have hnone : (if s.openWaits e then none else s.wfqChoice e) = none := by
    rcases h with h | h <;> simp [h]
  simp [State.slotBelowExpress, hs, ho, hnone]

/-! Which class is chosen. -/

theorem State.wfqChoice_mem {c : Nat} (h : s.wfqChoice e = some c) : c < 7 ∧ s.canStart e c = true := by
  have hmem := mem_of_foldl_choice (l := (List.range 7).filter (s.canStart e)) (fun b a => ?_) h
  · simpa using hmem
  · cases b with
    | none => exact .inl rfl
    | some b => exact ite_eq_or_eq ..

theorem State.openChoice_mem {c : Nat} (h : s.openChoice e = some c) : c < 7 ∧ ∃ t, s.txOpen e c = some t ∧ s.canContinue e c t = true := by
  have hmem := mem_of_foldl_choice (fun b a => ?_) h
  · obtain ⟨hlt, hopen⟩ := List.mem_filter.1 (hmem.resolve_right nofun)
    refine ⟨List.mem_range.1 hlt, ?_⟩
    cases ht : s.txOpen e c with
    | none => simp [ht] at hopen
    | some t => exact ⟨t, rfl, by simpa [ht] using hopen⟩
  · cases b with
    | none => exact .inl rfl
    | some b => exact ite_eq_or_eq ..

/-- A class that may start is not held. -/
theorem State.isHeld_of_canStart {c : Nat} (h : s.canStart e c = true) : s.isHeld e c = false := by
  by_contra hheld
  have hblock (q : QFrame) : s.startBlock e c q = some .hold := if_pos (by simpa using hheld)
  cases hn : s.nextFrame e c <;> simp [State.canStart, hn, hblock] at h

end Slot

/-! Cells and groups. -/

/-- A port is what was put there. -/
theorem State.port_withPort_self {s : State} (hs : keysFrom 0 s.ports = true) (e : Nat) (x : Port) : (s.withPort e x).port e = x :=
  mapGet_mapPut_self _ _ _ hs

section Group
variable {s : State} {e : Nat}

/-- A cell that does not fill its group waits in the port. -/
theorem State.sendCell_waits (h : (s.port e).filling.length < 3) (cell : Bytes) (m : Option (Nat × Nat)) (b : Bool) :
    s.sendCell e cell m b = s.withPort e { s.port e with filling := (s.port e).filling ++ [(cell, m)] } := by
  have hlen : ((s.port e).filling ++ [(cell, m)]).length < 4 := by simpa using Nat.succ_lt_succ h
  rw [State.sendCell, if_pos hlen]

/-- The fourth cell closes its group, which leaves the port. -/
theorem State.sendCell_fourth (h : 3 ≤ (s.port e).filling.length) (cell : Bytes) (m : Option (Nat × Nat)) (b : Bool) :
    ∃ g q, s.sendCell e cell m b = s.putGroup e (g, q) ∧ q.filling = [] ∧ q.timeOwed = (s.port e).timeOwed ∧ q.sinceOs = (s.port e).sinceOs := by
  have hlen : ¬ ((s.port e).filling ++ [(cell, m)]).length < 4 := by simpa using h
  rw [State.sendCell, if_neg hlen]
  refine ⟨_, _, rfl, ?_, ?_, ?_⟩ <;> split_ifs <;> rfl

/-- A port and its outputs when a group has left, before the place that a TIME set may take. -/
def State.groupLeft (s : State) (e : Nat) (g : Bytes) (q : Port) : State :=
  (s.withPort e { q with sinceOs := min 15 (q.sinceOs + 1) }).emit (.group e g)

theorem State.putGroup_eq (g : Bytes) (q : Port) : s.putGroup e (g, q) = (s.groupLeft e g q).timeSlot e := rfl

theorem State.groupLeft_port (hs : keysFrom 0 s.ports = true) (g : Bytes) (q : Port) :
    (s.groupLeft e g q).port e = { q with sinceOs := min 15 (q.sinceOs + 1) } := State.port_withPort_self hs e _

theorem State.groupLeft_portUp (g : Bytes) (q : Port) : (s.groupLeft e g q).portUp e = s.portUp e := rfl

/-- A TIME set that is not asked for, or whose place has not come, does not leave. -/
theorem State.timeSlot_waits (h : (s.port e).timeOwed = false ∨ (s.portUp e = true ∧ (s.port e).sinceOs < 15)) : s.timeSlot e = s := by
  refine if_neg ?_
  rcases h with h | ⟨hup, h⟩
  · simp [h]
  · simp [hup, h]

/-- A TIME set that is asked for leaves at its place between groups. -/
theorem State.timeSlot_leaves (ho : (s.port e).timeOwed = true) (hf : (s.port e).filling = []) (hn : 15 ≤ (s.port e).sinceOs) :
    s.timeSlot e = (s.modPort e fun p => { p with timeOwed := false }).putSet e (s.timeSet e) := if_pos (by simp [ho, hf, hn])

theorem State.timeSlot_voq : (s.timeSlot e).voq = s.voq := by
  unfold State.timeSlot
  dsimp only
  split <;> rfl

/-- A group leaves alone where no TIME set is due. -/
theorem State.putGroup_alone (hs : keysFrom 0 s.ports = true) (g : Bytes) {q : Port}
    (h : q.timeOwed = false ∨ (s.portUp e = true ∧ q.sinceOs < 14)) : (s.putGroup e (g, q)).out = s.out ++ [.group e g] := by
  have hwait : (s.groupLeft e g q).timeSlot e = s.groupLeft e g q := by
    refine State.timeSlot_waits ?_
    rw [State.groupLeft_port hs, State.groupLeft_portUp]
    exact h.imp id fun ⟨hup, hn⟩ => ⟨hup, by show min 15 _ < 15; omega⟩
  rw [State.putGroup_eq, hwait]
  rfl

/-- The fifteenth group since the last ordered set has a TIME set that waits behind it. -/
theorem State.putGroup_set (hs : keysFrom 0 s.ports = true) (g : Bytes) {q : Port} (ho : q.timeOwed = true) (hf : q.filling = [])
    (hn : 14 ≤ q.sinceOs) : ∃ x, (s.putGroup e (g, q)).out = s.out ++ [.group e g, .orderedSet e x] := by
  have hport := State.groupLeft_port (e := e) hs g q
  have hset := State.timeSlot_leaves (s := s.groupLeft e g q) (e := e) (by rw [hport]; exact ho) (by rw [hport]; exact hf)
    (by rw [hport]; show 15 ≤ min 15 _; omega)
  refine ⟨(s.groupLeft e g q).timeSet e, ?_⟩
  rw [State.putGroup_eq, hset]
  exact List.append_assoc ..

end Group

/-- Settles O39: by what takes a slot in the order of R255, by what the two folds choose from, and by what a group leaves in its port. -/
theorem cellSlots : Obligations.CellSlots := by
  intro s e z u fab free on7
  refine ⟨fun hdown => congrArg _ (State.cellSlot_down hdown), fun hup => ⟨fun h r hh hf hroom => congrArg _ (State.cellSlot_hold hup hh hf hroom),
    fun t hfree ⟨ho, hc⟩ => ?express, fun hfree hno => ?below⟩, fun c hc => ?fair, fun c => State.openChoice_mem,
    fun cell m b h => State.sendCell_waits h cell m b, fun cell m b hwf h => ?fourth⟩
  case express => exact congrArg _ ((State.cellSlot_free hup hfree).trans (State.slotChoice_express ho hc))
  case below =>
    have hslot : exec (.cellSlot e) s = .next (u.slotBelowExpress e) :=
      congrArg _ ((State.cellSlot_free hup hfree).trans (State.slotChoice_below hno))
    rw [hslot]
    refine ⟨fun hs => ⟨fun ⟨ho, hf⟩ => ?_, fun h => ?_⟩, fun hs => ⟨fun c t hc ht => ?_, fun c ho hw hc => ?_, fun ho h => ?_⟩⟩
    · rw [State.slotBelowExpress_preempts hs ho hf]
    · rw [State.slotBelowExpress_starts hs h]
    · rw [State.slotBelowExpress_goesOn hs hc ht]
    · rw [State.slotBelowExpress_fair hs ho hw hc]
    · rw [State.slotBelowExpress_stalls hs ho h]
  case fair =>
    obtain ⟨hlt, hstart⟩ := State.wfqChoice_mem hc
    exact ⟨hlt, hstart, State.isHeld_of_canStart hstart⟩
  case fourth =>
    have hs := (Since.refl hwf).portsOrd
    obtain ⟨g, q, hsend, hfill, howed, hsince⟩ := State.sendCell_fourth h cell m b
    rw [hsend, ← howed, ← hsince]
    exact ⟨g, State.timeSlot_voq, fun ho => State.putGroup_alone hs g (.inl ho), fun hup _ hn => State.putGroup_alone hs g (.inr ⟨hup, hn⟩),
      fun _ ho hn => State.putGroup_set hs g ho hfill hn⟩

end Sys2Proof.Machine
end

section
/-! PROOFS. Trace units, PTP messages and boundary scan (R215, R389, R390, R393). -/

namespace Sys2Proof.Machine

/-! Interrupt sources. -/

section Irq
variable {s : State}

theorem State.msix_regs (v : Nat) : (s.msix v).regs = s.regs := by
  unfold State.msix
  split_ifs <;> rfl

theorem State.msix_trace (v : Nat) : (s.msix v).trace = s.trace := by
  unfold State.msix
  split_ifs <;> rfl

theorem State.raiseIbi_trace (g : Nat) : (s.raiseIbi g).trace = s.trace := by
  unfold State.raiseIbi
  dsimp only
  split_ifs <;> rfl

theorem State.raiseIbi_reg {a : Nat} (ha : a ≠ Reg.porIbiPending) (g : Nat) : (s.raiseIbi g).reg a = s.reg a := by
  unfold State.raiseIbi
  dsimp only
  split_ifs
  · rfl
  · exact State.reg_withReg_ne _ ha
  · exact State.reg_withReg_ne _ ha

/-- A source that is raised sets its bit, and beside that sends a message and at most an in-band interrupt. -/
theorem State.raiseIrq_shape (src : Nat) : ∃ u : State, u.regs = (s.withFld (Reg.porIrqMap src) 12 12 1).regs ∧ u.trace = s.trace ∧
    (s.raiseIrq src = u ∨ ∃ g, s.raiseIrq src = u.raiseIbi g) := by
  refine ⟨if s.fld (Reg.porIrqMap src) 11 11 = 1 then (s.withFld (Reg.porIrqMap src) 12 12 1).msix (s.fld (Reg.porIrqMap src) 10 0)
    else s.withFld (Reg.porIrqMap src) 12 12 1, ?_, ?_, ?_⟩
  · split
    · exact State.msix_regs _
    · rfl
  · split
    · exact State.msix_trace _
    · rfl
  · unfold State.raiseIrq
    cases irqGroup src with
    | none => exact .inl rfl
    | some g => exact .inr ⟨g, rfl⟩

theorem State.raiseIrq_traceUnit (src d : Nat) : (s.raiseIrq src).traceUnit d = s.traceUnit d := by
  obtain ⟨u, -, htrace, h | ⟨g, h⟩⟩ := s.raiseIrq_shape src
  · rw [h, State.traceUnit, htrace, State.traceUnit]
  · rw [h, State.traceUnit, State.raiseIbi_trace, htrace, State.traceUnit]

/-- Outside POR_IBI_PENDING a raised source shows in its own register alone. -/
theorem State.raiseIrq_fld {a : Nat} (ha : a ≠ Reg.porIbiPending) (src hi lo : Nat) :
    (s.raiseIrq src).fld a hi lo = (s.withFld (Reg.porIrqMap src) 12 12 1).fld a hi lo := by
  obtain ⟨u, hregs, -, h | ⟨g, h⟩⟩ := s.raiseIrq_shape src
  · rw [h, State.fld, State.reg, hregs]
    rfl
  · rw [h, State.fld, State.raiseIbi_reg ha, State.reg, hregs]
    rfl

theorem State.raiseIrq_fld_ne {a : Nat} (ha : a ≠ Reg.porIbiPending) {src : Nat} (hsrc : a ≠ Reg.porIrqMap src) (hi lo : Nat) :
    (s.raiseIrq src).fld a hi lo = s.fld a hi lo :=
  (State.raiseIrq_fld ha src hi lo).trans (State.fld_withFld_other _ _ _ _ _ hsrc)

/-- Source 4, the trace units', is set in its register. -/
theorem State.raiseIrq_told (hs : keysFrom 0 s.regs = true) : (s.raiseIrq 4).fld (Reg.porIrqMap 4) 12 12 = 1 :=
  (State.raiseIrq_fld (by decide) 4 12 12).trans (State.fld_withFld_self hs _ _ _ _ (by decide) (by decide))

end Irq

/-! Storing a record. -/

section Store
variable {s : State} {d : Nat}

/-- A trace unit is what was put there. -/
theorem State.traceUnit_withTraceUnit_self (hs : keysFrom 0 s.trace = true) (d : Nat) (x : Trace) : (s.withTraceUnit d x).traceUnit d = x :=
  mapGet_mapPut_self _ _ _ hs

/-- Another trace unit is as before. -/
theorem State.traceUnit_withTraceUnit_ne {k : Nat} (x : Trace) (h : d ≠ k) : (s.withTraceUnit k x).traceUnit d = s.traceUnit d :=
  mapGet_mapPut_ne _ _ _ h _

/-- A unit that is not asked to freeze, or has records to store yet, does not end a freeze. -/
theorem State.freezeEnds_stays (h : (s.traceUnit d).freezing = false ∨ ((s.traceUnit d).buffered ≠ [] ∧ (s.traceUnit d).full = false)) :
    s.freezeEnds d = s := by
  refine if_neg ?_
  rcases h with h | ⟨hb, hf⟩
  · simp [h]
  · simp [hb, hf]

theorem State.freezeEnds_ends (hf : (s.traceUnit d).freezing = true) (h : (s.traceUnit d).buffered = [] ∨ (s.traceUnit d).full = true) :
    s.freezeEnds d = ((s.withTraceUnit d { s.traceUnit d with freezing := false }).withFld Reg.peeFrozen d d 1).raiseIrq 4 :=
  if_pos ⟨hf, h.imp List.isEmpty_iff.2 id⟩

theorem State.traceStore_nothing (hb : (s.traceUnit d).buffered = []) (hf : (s.traceUnit d).freezing = false) : s.traceStore d = s := by
  simp only [State.traceStore, hb]
  exact State.freezeEnds_stays (.inl hf)

variable {r : Bytes} {l : List Bytes} {w : Window} (hd : d < 20) (hb : (s.traceUnit d).buffered = r :: l)
  (hw : peeRegion (s.peeEntry d) = some w)

/-- Offset in its stack at which a unit stores its next record. -/
def State.storeOffset (s : State) (d : Nat) (w : Window) : Nat := w.base * unitBytes + 32 * s.fld (dieReg d Reg.peeDieWrptr) 31 0

/-- The region with the oldest record stored, before the write position moves on. -/
def State.recordStored (s : State) (d : Nat) (w : Window) (r : Bytes) (l : List Bytes) : State :=
  (s.hbmWrite (nth w.stacks 0 0) (s.storeOffset d w) r).1.withTraceUnit d { s.traceUnit d with buffered := l }

include hb hw in
theorem State.traceStore_held (hheld : s.hbmHeld (nth w.stacks 0 0) (s.storeOffset d w) 32 = true) : s.traceStore d = s := by
  rw [State.storeOffset] at hheld
  simp [State.traceStore, hb, hw, hheld]

include hd hb hw in
/-- A unit that is not full stores its oldest record, and moves its write position on. -/
theorem State.traceStore_stores (hfull : (s.traceUnit d).full = false)
    (hheld : s.hbmHeld (nth w.stacks 0 0) (s.storeOffset d w) 32 = false) :
    s.traceStore d =
      let a := dieReg d Reg.peeDieWrptr
      let i := s.fld a 31 0
      let v := s.recordStored d w r l
      if i + 1 < regionRecords w then (v.withFld a 31 0 (i + 1)).freezeEnds d
      else if bit (rdLe (s.peeEntry d) 0 2) 5 then
        (((v.withFld a 31 0 (i + 1)).modTraceUnit d fun x => { x with full := true }).raiseIrq 4).freezeEnds d
      else ((v.withFld a 31 0 0).bump (dieReg d Reg.peeWrapCnt)).freezeEnds d := by
  have hgo : ¬ ((s.traceUnit d).full = true ∨ 20 ≤ d ∨ s.hbmHeld (nth w.stacks 0 0) (s.storeOffset d w) 32 = true) := by
    simp [hfull, hheld, hd]
  simp only [State.traceStore, hb, hw]
  exact if_neg hgo

theorem State.recordStored_since {o : State} (h : Since o s) (w : Window) (r : Bytes) (hl : l.length ≤ 256) :
    Since o (s.recordStored d w r l) :=
  State.withTraceUnit_since (State.hbmWrite_since h) hl

theorem State.recordStored_traceUnit (hwf : s.wf = true) (d : Nat) (w : Window) (r : Bytes) (l : List Bytes) :
    (s.recordStored d w r l).traceUnit d = { s.traceUnit d with buffered := l } :=
  State.traceUnit_withTraceUnit_self (State.hbmWrite_since (Since.refl hwf)).traceOrd _ _

include hd hb hw in
/-- A stopping unit at the end of its region is full, shows its position, and raises source 4. -/
theorem State.traceStore_stops (hwf : s.wf = true) (hfull : (s.traceUnit d).full = false) (hfreeze : (s.traceUnit d).freezing = false)
    (hheld : s.hbmHeld (nth w.stacks 0 0) (s.storeOffset d w) 32 = false)
    (hend : regionRecords w ≤ s.fld (dieReg d Reg.peeDieWrptr) 31 0 + 1) (hstop : bit (rdLe (s.peeEntry d) 0 2) 5 = true) :
    (s.traceStore d).traceUnit d = { s.traceUnit d with buffered := l, full := true } ∧
      (s.traceStore d).fld (dieReg d Reg.peeDieWrptr) 31 0 = (s.fld (dieReg d Reg.peeDieWrptr) 31 0 + 1) % 2 ^ 32 ∧
      (s.traceStore d).fld (Reg.porIrqMap 4) 12 12 = 1 := by
  have hlen : l.length ≤ 256 := by
    have h := (Since.refl hwf).bufTrace d
    rw [hb] at h
    exact (Nat.le_succ _).trans h
  have hsince := State.recordStored_since (d := d) (l := l) (Since.refl hwf) w r hlen
  have hunit := State.recordStored_traceUnit hwf d w r l
  set v := s.recordStored d w r l
  set a := dieReg d Reg.peeDieWrptr with ha
  set u := (v.withFld a 31 0 (s.fld a 31 0 + 1)).modTraceUnit d fun x => { x with full := true }
  have husince : Since s u := State.modTraceUnit_since (State.withFld_since hsince) fun x hx => hx
  have huunit : u.traceUnit d = { s.traceUnit d with buffered := l, full := true } := by
    refine (State.traceUnit_withTraceUnit_self (s := v.withFld a 31 0 _) hsince.traceOrd d _).trans ?_
    show { v.traceUnit d with full := true } = _
    rw [hunit]
  have hstore : s.traceStore d = u.raiseIrq 4 := by
    rw [State.traceStore_stores hd hb hw hfull hheld]
    refine (if_neg (Nat.not_lt.2 hend)).trans ((if_pos hstop).trans (State.freezeEnds_stays (.inl ?_)))
    rw [State.raiseIrq_traceUnit, huunit]
    exact hfreeze
  have hpos : a ≠ Reg.porIbiPending ∧ a ≠ Reg.porIrqMap 4 := by
    have hval : a = dieBase d + 0xc008 := ha
    constructor
    · show a ≠ 0x40
      omega
    · show a ≠ 0x1020
      omega
  rw [hstore]
  refine ⟨(State.raiseIrq_traceUnit 4 d).trans huunit, ?_, State.raiseIrq_told husince.regsOrd⟩
  rw [State.raiseIrq_fld_ne hpos.1 hpos.2]
  exact State.fld_withFld_self hsince.regsOrd a 31 0 _ (by decide) (by decide)

end Store

/-! Freezing. -/

section Freeze
variable {s o : State} {d k : Nat}

/-- A unit is asked to freeze. -/
def State.freezeUnit (s : State) (d : Nat) : State := (s.modTraceUnit d fun u => { u with freezing := true }).freezeEnds d

theorem State.freezeUnit_since (h : Since o s) (k : Nat) : Since o (s.freezeUnit k) :=
  State.freezeEnds_since (State.modTraceUnit_since h fun _ hx => hx)

/-- A unit with records to store waits for them. -/
theorem State.freezeUnit_waits (hs : keysFrom 0 s.trace = true) (hb : (s.traceUnit k).buffered ≠ []) (hf : (s.traceUnit k).full = false) :
    s.freezeUnit k = s.withTraceUnit k { s.traceUnit k with freezing := true } := by
  refine State.freezeEnds_stays (.inr ?_)
  rw [State.modTraceUnit, State.traceUnit_withTraceUnit_self hs]
  exact ⟨hb, hf⟩

/-- A unit with nothing to store is frozen. -/
theorem State.freezeUnit_ends (hs : keysFrom 0 s.trace = true) (h : (s.traceUnit k).buffered = [] ∨ (s.traceUnit k).full = true) :
    s.freezeUnit k = (((s.withTraceUnit k { s.traceUnit k with freezing := true }).withTraceUnit k
      { s.traceUnit k with freezing := false }).withFld Reg.peeFrozen k k 1).raiseIrq 4 := by
  have hunit : (s.modTraceUnit k fun u => { u with freezing := true }).traceUnit k = { s.traceUnit k with freezing := true } :=
    State.traceUnit_withTraceUnit_self hs _ _
  have hends := State.freezeEnds_ends (s := s.modTraceUnit k fun u => { u with freezing := true }) (d := k) (by rw [hunit]) (by rw [hunit]; exact h)
  rw [hunit] at hends
  exact hends

/-- What the freezes of other units leave of unit `d`, its bit of PEE_FROZEN, and source 4 once it is raised. -/
structure FreezeKept (d : Nat) (o s : State) : Prop where
  since : Since o s
  unit : s.traceUnit d = o.traceUnit d
  frozen : s.fld Reg.peeFrozen d d = o.fld Reg.peeFrozen d d
  told : o.fld (Reg.porIrqMap 4) 12 12 = 1 → s.fld (Reg.porIrqMap 4) 12 12 = 1

theorem FreezeKept.refl (h : s.wf = true) (d : Nat) : FreezeKept d s s := ⟨.refl h, rfl, rfl, id⟩

theorem FreezeKept.freezeUnit (h : FreezeKept d o s) (hk : k < 20) (hne : d ≠ k) : FreezeKept d o (s.freezeUnit k) := by
  have hsince := State.freezeUnit_since h.since k
  by_cases hend : (s.traceUnit k).buffered = [] ∨ (s.traceUnit k).full = true
  · rw [State.freezeUnit_ends h.since.traceOrd hend] at hsince ⊢
    refine ⟨hsince, ?_, ?_, fun _ => State.raiseIrq_told (State.withFld_ordered h.since.regsOrd)⟩
    · rw [State.raiseIrq_traceUnit]
      exact ((State.traceUnit_withTraceUnit_ne _ hne).trans (State.traceUnit_withTraceUnit_ne _ hne)).trans h.unit
    · rw [State.raiseIrq_fld_ne (by decide) (by decide),
        State.fld_withFld_ne (s := (s.withTraceUnit k _).withTraceUnit k _) h.since.regsOrd _ k k 1 d d (by omega) (by omega) (by omega)]
      exact h.frozen
  · obtain ⟨hb, hf⟩ := not_or.1 hend
    rw [State.freezeUnit_waits h.since.traceOrd hb (by simpa using hf)] at hsince ⊢
    exact ⟨hsince, (State.traceUnit_withTraceUnit_ne _ hne).trans h.unit, h.frozen, h.told⟩

theorem FreezeKept.each : ∀ {l : List Nat} {s : State}, (∀ k ∈ l, k < 20 ∧ d ≠ k) → FreezeKept d o s →
    FreezeKept d o (forEach l (fun k s => s.freezeUnit k) s)
  | [], _, _, h => h
  | k :: l, s, hl, h =>
    have hk := hl k List.mem_cons_self
    FreezeKept.each (l := l) (s := s.freezeUnit k) (fun j hj => hl j (List.mem_cons_of_mem _ hj)) (h.freezeUnit hk.1 hk.2)

/-- Units that a write of PEE_FREEZE names and that are not frozen. -/
def State.toFreeze (s : State) (m : Nat) : List Nat := (maskBits m 20).filter fun d => !bit (s.reg Reg.peeFrozen).toNat d

theorem State.freeze_eq (s : State) (m : Nat) : s.freeze m = forEach (s.toFreeze m) (fun k s => s.freezeUnit k) s := rfl

theorem State.toFreeze_nodup (s : State) (m : Nat) : (s.toFreeze m).Nodup := (List.nodup_range.filter _).filter _

theorem State.mem_toFreeze {m : Nat} : d ∈ s.toFreeze m ↔ d < 20 ∧ bit m d = true ∧ bit (s.reg Reg.peeFrozen).toNat d = false := by
  simp only [State.toFreeze, maskBits, List.mem_filter, List.mem_range, Bool.not_eq_true', and_assoc]

/-- Unit `d` is asked to freeze among others, which leave it as it was and as it becomes. -/
theorem State.freeze_unit {m : Nat} (hwf : s.wf = true) (hd : d ∈ s.toFreeze m) :
    ∃ v, FreezeKept d s v ∧ FreezeKept d (v.freezeUnit d) (s.freeze m) := by
  obtain ⟨l₁, l₂, hl⟩ := List.append_of_mem hd
  have hnd := List.nodup_middle.1 (hl ▸ s.toFreeze_nodup m)
  have hother : ∀ k ∈ l₁ ++ l₂, k < 20 ∧ d ≠ k := fun k hk => by
    have hmem : k ∈ s.toFreeze m := by
      rw [hl]
      rcases List.mem_append.1 hk with hk | hk <;> simp [hk]
    exact ⟨(State.mem_toFreeze.1 hmem).1, fun h => (List.nodup_cons.1 hnd).1 (h ▸ hk)⟩
  have hbefore := FreezeKept.each (fun k hk => hother k (List.mem_append_left _ hk)) (FreezeKept.refl hwf d)
  have happend : s.freeze m = forEach l₂ (fun k s => s.freezeUnit k) ((forEach l₁ (fun k s => s.freezeUnit k) s).freezeUnit d) := by
    rw [State.freeze_eq, hl]
    exact List.foldl_append
  refine ⟨_, hbefore, ?_⟩
  rw [happend]
  exact FreezeKept.each (fun k hk => hother k (List.mem_append_right _ hk)) (.refl (State.freezeUnit_since hbefore.since d).wf d)

/-- A unit with nothing to store, or full, is frozen by the write. -/
theorem State.freeze_ends {m : Nat} (hwf : s.wf = true) (hd : d ∈ s.toFreeze m)
    (h : (s.traceUnit d).buffered = [] ∨ (s.traceUnit d).full = true) :
    (s.freeze m).fld Reg.peeFrozen d d = 1 ∧ ((s.freeze m).traceUnit d).freezing = false ∧ (s.freeze m).fld (Reg.porIrqMap 4) 12 12 = 1 := by
  obtain ⟨v, hv, ht⟩ := State.freeze_unit hwf hd
  have hlt := (State.mem_toFreeze.1 hd).1
  have hends := State.freezeUnit_ends hv.since.traceOrd (by rw [hv.unit]; exact h)
  have htold : (v.freezeUnit d).fld (Reg.porIrqMap 4) 12 12 = 1 := by
    rw [hends]
    exact State.raiseIrq_told (State.withFld_ordered hv.since.regsOrd)
  refine ⟨?_, ?_, ht.told htold⟩
  · rw [ht.frozen, hends, State.raiseIrq_fld_ne (by decide) (by decide),
      State.fld_withFld_self (s := (v.withTraceUnit d _).withTraceUnit d _) hv.since.regsOrd _ d d 1 (by omega) (by omega), Nat.add_sub_cancel_left]
    rfl
  · rw [ht.unit, hends, State.raiseIrq_traceUnit]
    exact congrArg Trace.freezing (State.traceUnit_withTraceUnit_self (s := v.withTraceUnit d _)
      (keysFrom_mapPut _ _ _ (Nat.zero_le _) hv.since.traceOrd) d _)

/-- A unit with records to store is not frozen yet. -/
theorem State.freeze_waits {m : Nat} (hwf : s.wf = true) (hd : d ∈ s.toFreeze m) (hb : (s.traceUnit d).buffered ≠ [])
    (hf : (s.traceUnit d).full = false) :
    (s.freeze m).traceUnit d = { s.traceUnit d with freezing := true } ∧ (s.freeze m).fld Reg.peeFrozen d d = s.fld Reg.peeFrozen d d := by
  obtain ⟨v, hv, ht⟩ := State.freeze_unit hwf hd
  have hwaits := State.freezeUnit_waits hv.since.traceOrd (by rw [hv.unit]; exact hb) (by rw [hv.unit]; exact hf)
  refine ⟨?_, ?_⟩
  · rw [ht.unit, hwaits, State.traceUnit_withTraceUnit_self hv.since.traceOrd, hv.unit]
  · rw [ht.frozen, hwaits]
    exact hv.frozen

theorem State.fld_of_bit {a i : Nat} (h : bit (s.reg a).toNat i = false) : s.fld a i i = 0 := by
  simp only [bit, beq_eq_false_iff_ne] at h
  simp only [State.fld, wBits, bits, Nat.add_sub_cancel_left]
  omega

end Freeze

/-! PTP messages. -/

/-- A message that UDP does not carry has no checksum to form anew. -/
theorem oneStepPtp_plain {b : Bytes} {t asked o : Nat} (ho : ptpOffset b = (o, false)) (h0 : rdLe b o 1 % 16 ≠ 0) :
    oneStepPtp b t asked = if rdLe b o 1 % 16 = 3 then correctPtp b o ((t : Int) - asked) else b := by
  simp only [oneStepPtp, ho, Bool.false_and, Bool.false_eq_true, if_false]
  split
  · next h => exact absurd h h0
  · next h => rw [if_pos h]
  · next h => rw [if_neg h]

/-- Settles O58: by what a store and a freeze do to a trace unit and its registers, by the type of a PTP message, and by the instruction that
is loaded. -/
theorem traceAndScan : Obligations.TraceAndScan := by
  intro s d hwf hd u a i alive scanned
  refine ⟨fun hb hf => congrArg _ (State.traceStore_nothing hb hf), fun r l w hb hw => ?store, fun src m hm hz => ?freeze, fun src => rfl,
    fun p b => ⟨fun hlive => ⟨?_, fun asked => ?_⟩, fun hlive m => ?_⟩, fun b t asked o ho => ⟨fun h3 => ?_, fun h0 h3 => ?_⟩,
    rfl, rfl, rfl, rfl, rfl, rfl, rfl, rfl, rfl⟩
  case store =>
    intro k off v
    have hunit : v.traceUnit d = { s.traceUnit d with buffered := l } := State.recordStored_traceUnit hwf d w r l
    have hstays {x : State} (hf : u.freezing = false) (hx : x.trace = v.trace) : x.freezeEnds d = x := by
      refine State.freezeEnds_stays (.inl ?_)
      rw [State.traceUnit, hx, ← State.traceUnit, hunit]
      exact hf
    refine ⟨fun _ hheld => congrArg _ (State.traceStore_held hb hw hheld), fun ⟨hfull, hf⟩ hfree hroom => congrArg Host.Outcome.next ?_,
      fun ⟨hfull, hf⟩ hfree hend hwrap => congrArg Host.Outcome.next ?_,
      fun ⟨hfull, hf⟩ hfree hend hstop => ⟨_, rfl, State.traceStore_stops hd hb hw hwf hfull hf hfree hend hstop⟩⟩
    all_goals
      refine (State.traceStore_stores hd hb hw hfull hfree).trans ?_
      dsimp only
    · rw [if_pos hroom]
      exact hstays hf rfl
    · rw [if_neg (Nat.not_lt.2 hend), if_neg (by simp [hwrap])]
      exact hstays hf rfl
  case freeze =>
    obtain ⟨hregs, hrest⟩ := s.external_frame 1
    have hunit : (s.external 1).traceUnit d = u := (congrArg (fun x : State => x.traceUnit d) hrest :)
    have hreg : (s.external 1).reg Reg.peeFrozen = s.reg Reg.peeFrozen := hregs _ (by decide)
    have hwf1 : (s.external 1).wf = true := (State.external_since (Since.refl hwf)).wf
    have hmem : d ∈ (s.external 1).toFreeze m := State.mem_toFreeze.2 ⟨hd, hm, by rw [hreg]; exact hz⟩
    refine ⟨_, rfl, fun h => State.freeze_ends hwf1 hmem (by rw [hunit]; exact h), fun hb hf => ?_⟩
    obtain ⟨hfreezing, hfrozen⟩ := State.freeze_waits hwf1 hmem (by rw [hunit]; exact hb) (by rw [hunit]; exact hf)
    exact ⟨by rw [hfreezing, hunit], hfrozen.trans (State.fld_of_bit (by rw [hreg]; exact hz))⟩
  · exact congrArg Host.Outcome.next (if_pos hlive)
  · exact congrArg Host.Outcome.next (if_pos hlive)
  · exact congrArg Host.Outcome.next (if_neg (by simp [hlive]))
  · rw [oneStepPtp_plain ho (by omega), if_pos h3, correctPtp]
  · rw [oneStepPtp_plain ho h0, if_neg h3]

end Sys2Proof.Machine
end

section
/-! PROOFS. Congestion, flow control sent, sampling and punnet buffers (R236, R240, R242, R243, R247-R251). -/

namespace Sys2Proof.Machine

/-! Limiters (R243). -/

section Limiters
variable {s : State} {n : Nat} {f : Frame}

/-- The limiter of a frame's source and class. -/
def limits (f : Frame) (x : Limiter) : Bool := x.dest == f.src && x.cls == f.cls

/-- A limiter after an echo: its rate cut, though not below the floor, where the echo is its own. -/
def State.afterEcho (s : State) (n : Nat) (f : Frame) (x : Limiter) : Limiter :=
  if limits f x then { x with rate := max (s.fld (pdReg n Reg.swiCcCtrl) 37 28 * 256) (s.cutRate n x.rate), lastEcho := s.clk.kclk } else x

theorem State.echoReceive_other (h : isEcho f = false) : s.echoReceive n f = s := if_pos (by simp [h])

section Echo
variable (he : isEcho f = true)
include he

theorem State.echoReceive_cuts (hl : (s.pdie n).limiters.any (limits f) = true) :
    s.echoReceive n f = s.modPdie n fun d => { d with limiters := (s.pdie n).limiters.map (s.afterEcho n f) } :=
  (if_neg (by simp [he])).trans (if_pos hl)

variable (hl : (s.pdie n).limiters.any (limits f) = false)
include hl

/-- An echo without a limiter meets the limit of the table, and then the routes. -/
theorem State.echoReceive_new : s.echoReceive n f =
    if 1024 ≤ (s.pdie n).limiters.length then s.bump (pdReg n Reg.swiCcTableFullCnt)
    else match s.limiterPort n f.src f.flow with
      | none => s
      | some e => s.modPdie n fun d => { d with
          limiters := (s.pdie n).limiters ++ [⟨f.src, f.cls, s.cutRate n (s.portRate e), e, s.clk.kclk, 0⟩] } :=
  (if_neg (by simp [he])).trans (if_neg (Bool.eq_false_iff.1 hl))

theorem State.echoReceive_full (h : 1024 ≤ (s.pdie n).limiters.length) : s.echoReceive n f = s.bump (pdReg n Reg.swiCcTableFullCnt) :=
  (State.echoReceive_new he hl).trans (if_pos h)

variable (h : (s.pdie n).limiters.length < 1024)
include h

theorem State.echoReceive_unrouted (hp : s.limiterPort n f.src f.flow = none) : s.echoReceive n f = s := by
  rw [State.echoReceive_new he hl, if_neg (Nat.not_le.2 h), hp]

theorem State.echoReceive_allocates {e : Nat} (hp : s.limiterPort n f.src f.flow = some e) : s.echoReceive n f =
    s.modPdie n fun d => { d with limiters := (s.pdie n).limiters ++ [⟨f.src, f.cls, s.cutRate n (s.portRate e), e, s.clk.kclk, 0⟩] } := by
  rw [State.echoReceive_new he hl, if_neg (Nat.not_le.2 h), hp]

end Echo

theorem State.pdie_modPdie (hs : keysFrom 0 s.pdies = true) (g : PDie → PDie) : (s.modPdie n g).pdie n = g (s.pdie n) :=
  mapGet_mapPut_self _ _ _ hs

/-- A limiter after a rise is below its port's rate, and was one before, raised where its echo is old enough. -/
theorem State.mem_rateIncrease (hs : keysFrom 0 s.pdies = true) {x : Limiter} (h : x ∈ ((s.rateIncrease n).pdie n).limiters) :
    x.rate < s.portRate x.egress ∧ ∃ y ∈ (s.pdie n).limiters, x.dest = y.dest ∧ x.cls = y.cls ∧ x.egress = y.egress ∧ x.freeAt = y.freeAt ∧
      (x = y ∨ (y.lastEcho + s.fld (pdReg n Reg.swiCcCtrl) 27 18 * 250 ≤ s.clk.kclk ∧
        x.rate = y.rate + s.fld (pdReg n Reg.swiCcCtrl) 17 8 * 256 ∧ x.lastEcho = s.clk.kclk)) := by
  rw [State.rateIncrease, State.pdie_modPdie hs] at h
  obtain ⟨hmem, hrate⟩ := List.mem_filter.1 h
  obtain ⟨y, hy, rfl⟩ := List.mem_map.1 hmem
  refine ⟨of_decide_eq_true hrate, y, hy, ?_⟩
  split
  · next hold => exact ⟨rfl, rfl, rfl, rfl, .inr ⟨hold, rfl, rfl⟩⟩
  · exact ⟨rfl, rfl, rfl, rfl, .inl rfl⟩

end Limiters

/-! Flow control repeated (R236). -/

section Refresh
variable {s : State} {p : Nat}

/-- The classes of a port for which flow control was sent and whose bytes are still above XON. -/
def State.pressed (s : State) (p : Nat) : Nat :=
  maskOf ((maskBits (s.port p).fcOut 7).filter fun c => decide ((s.xoff p).2 < s.heldBytes p c))

theorem State.flowRefresh_rests (h : s.pressed p = 0 ∨ s.portUp p = false ∨ s.flowOn p = false) : s.flowRefresh p = s :=
  if_pos (by simpa [State.pressed] using h)

theorem State.flowRefresh_repeats (hm : s.pressed p ≠ 0) (hup : s.portUp p = true) (hon : s.flowOn p = true) :
    s.flowRefresh p = s.sendFlow p (s.pressed p) true :=
  if_neg (by simpa [State.pressed, hup, hon] using hm)

/-- Whichever of the two commands is for the port's kind repeats flow control; the other leaves the state. -/
theorem State.refreshes (s : State) (p : Nat) :
    (s.pressed p = 0 ∨ s.portUp p = false ∨ s.flowOn p = false → exec (.pauseRefresh p) s = .next s ∧ exec (.holdRefresh p) s = .next s) ∧
    (s.pressed p ≠ 0 → s.portUp p = true → s.flowOn p = true → s.fabricPort p = true →
      exec (.holdRefresh p) s = .next (s.sendFlow p (s.pressed p) true) ∧ exec (.pauseRefresh p) s = .next s) ∧
    (s.pressed p ≠ 0 → s.portUp p = true → s.flowOn p = true → s.fabricPort p = false →
      exec (.pauseRefresh p) s = .next (s.sendFlow p (s.pressed p) true) ∧ exec (.holdRefresh p) s = .next s) := by
  have hpause : exec (.pauseRefresh p) s = .next (if s.fabricPort p then s else s.flowRefresh p) := rfl
  have hhold : exec (.holdRefresh p) s = .next (if s.fabricPort p then s.flowRefresh p else s) := rfl
  rw [hpause, hhold]
  refine ⟨fun h => ?_, fun hm hup hon hfab => ?_, fun hm hup hon hfab => ?_⟩
  · rw [State.flowRefresh_rests h, ite_self]
    exact ⟨rfl, rfl⟩
  all_goals
    rw [State.flowRefresh_repeats hm hup hon, hfab]
    exact ⟨rfl, rfl⟩

end Refresh

/-! The checks of R248, and what an operation does to a buffer. -/

section Checks
variable {p : Punnet} {sz o : Nat} {op : PtrOp}

theorem ptrCheck_misaligned (h : o % sz ≠ 0) : ptrCheck p sz o op false = some .align := if_pos h

variable (ho : o % sz = 0)
include ho

theorem ptrCheck_unallocated (hop : op ≠ .release) (hst : (p.buf (o / sz)).st ≠ .allocated) : ptrCheck p sz o op false = some .state := by
  simp [ptrCheck, ho, hop, hst]

theorem ptrCheck_unquarantined (hq : (p.buf (o / sz)).st ≠ .quarantined) (hd : (p.buf (o / sz)).st ≠ .quarDirty) :
    ptrCheck p sz o .release false = some .state := by
  simp [ptrCheck, ho, hq, hd]

theorem ptrCheck_ret (hst : (p.buf (o / sz)).st = .allocated) : ptrCheck p sz o .ret false = none := by
  simp [ptrCheck, ho, hst]

theorem ptrCheck_ref (hst : (p.buf (o / sz)).st = .allocated) (hcnt : (p.buf (o / sz)).cnt < 65535) : ptrCheck p sz o .ref false = none := by
  simp [ptrCheck, ho, hst, Nat.not_le.2 hcnt]

theorem ptrCheck_refOvf (hst : (p.buf (o / sz)).st = .allocated) (hcnt : 65535 ≤ (p.buf (o / sz)).cnt) :
    ptrCheck p sz o .ref false = some .refOvf := by
  simp [ptrCheck, ho, hst, hcnt]

theorem ptrCheck_release (hst : (p.buf (o / sz)).st = .quarantined ∨ (p.buf (o / sz)).st = .quarDirty) :
    ptrCheck p sz o .release false = none := by
  rcases hst with hst | hst <;> simp [ptrCheck, ho, hst]

end Checks

section Buffers
variable {p q : Punnet} {b : Nat}

theorem Punnet.drop_shared (h : 1 < (p.buf b).cnt) : p.drop b = (p.withBuf b { p.buf b with cnt := (p.buf b).cnt - 1 }, false) :=
  if_neg (Nat.not_le.2 h)

theorem Punnet.drop_last (h : (p.buf b).cnt ≤ 1) : p.drop b = (p.withBuf b ⟨.dirty, 0, none⟩, true) := if_pos h

/-- A buffer released from quarantine enters the dirty queue unless it is there already. -/
theorem Punnet.release_of_st {st : BufState} (h : (p.buf b).st = st) :
    p.release b = ({ p with free := p.free.erase b }.withBuf b ⟨.dirty, 0, none⟩, st == .quarantined) := by
  rw [Punnet.release, h]

theorem Punnet.withBuf_buf {x : Buf} (hx : x ≠ Buf.empty) : (p.withBuf b x).buf b = x := mapGet_mapPut_listed _ hx _

/-- What a punnet hands out comes from its free list, or is the next that was never taken. -/
theorem Punnet.take_cases (h : p.take = some (b, q)) :
    (∃ r, q = { p with free := r }.withBuf b ⟨.allocated, 1, none⟩ ∧ b ∈ p.free ∧ (p.buf b).st = .free) ∨
    (q = { p with free := [], fresh := p.fresh + 1 }.withBuf b ⟨.allocated, 1, none⟩ ∧ b = p.fresh ∧ p.fresh < p.count) := by
  unfold Punnet.take at h
  split at h
  · next c r hc =>
    obtain ⟨rfl, rfl⟩ : c = b ∧ _ = q := by simpa using h
    have hmem : c ∈ p.free := (List.dropWhile_sublist _).subset (hc ▸ List.mem_cons_self ..)
    have hhead := List.head?_dropWhile_not (fun b => (p.buf b).st != .free) p.free
    rw [hc] at hhead
    exact .inl ⟨r, rfl, hmem, by simpa using hhead⟩
  · split at h
    · next hlt =>
      obtain ⟨rfl, rfl⟩ : p.fresh = b ∧ _ = q := by simpa using h
      exact .inr ⟨rfl, rfl, hlt⟩
    · simp at h

/-- A buffer is handed out with one holder, and was free. -/
theorem Punnet.take_allocates (h : p.take = some (b, q)) : q.buf b = ⟨.allocated, 1, none⟩ ∧ q.count = p.count ∧
    ((b ∈ p.free ∧ (p.buf b).st = .free) ∨ (b = p.fresh ∧ p.fresh < p.count)) := by
  rcases Punnet.take_cases h with ⟨r, rfl, hfree⟩ | ⟨rfl, hfresh⟩
  · exact ⟨Punnet.withBuf_buf (by decide), rfl, .inl hfree⟩
  · exact ⟨Punnet.withBuf_buf (by decide), rfl, .inr hfresh⟩

end Buffers

/-! Pointers to packet buffers (R248, R249). -/

section Packet
variable {s : State} {n ptr i o : Nat} {op : PtrOp} {q : Punnet}

theorem State.pkPtr_lost (h : s.pkFind n ptr = none) : s.pkPtr n ptr op = s.pkFault n ptr .range := by
  simp only [State.pkPtr, h]

variable (hf : s.pkFind n ptr = some (i, o))
include hf

theorem State.pkPtr_fails {c : PtrCause} (hc : ptrCheck (s.pool n i) (pkSize i) o op false = some c) : s.pkPtr n ptr op =
    (if quarantines op c then s.withPool n i ((s.pool n i).quarantine (o / pkSize i)) else s).pkFault n ptr c := by
  simp only [State.pkPtr, hf, hc]

variable (hc : ptrCheck (s.pool n i) (pkSize i) o op false = none)
include hc

theorem State.pkPtr_keeps (hq : ptrApply (s.pool n i) (o / pkSize i) op = (q, false)) : s.pkPtr n ptr op = s.withPool n i q := by
  simp [State.pkPtr, hf, hc, hq]

theorem State.pkPtr_dirties (hq : ptrApply (s.pool n i) (o / pkSize i) op = (q, true)) :
    s.pkPtr n ptr op = (s.withPool n i q).pkDirty n i (o / pkSize i) := by
  simp [State.pkPtr, hf, hc, hq]

end Packet

/-! Pointers to memory buffers, by owner 0 (R248, R251). -/

section Memory
variable {s : State} {k a i o : Nat} {op : PtrOp} {q : Punnet}

theorem State.hmPtr_lost (h : s.hmFind k a 0 = none) : s.hmPtr k a 0 op = s.hmFault k a 0 .range := by
  simp only [State.hmPtr, h]

variable (hf : s.hmFind k a 0 = some (i, o))
include hf

theorem State.hmPtr_fails {c : PtrCause} (hc : ptrCheck (s.hmPool k i) (hmSize i) o op false = some c) : s.hmPtr k a 0 op =
    (if quarantines op c ∧ o / hmSize i < (s.hmPool k i).count then
      s.hmPut k i ((s.hmPool k i).quarantine (o / hmSize i)) (o / hmSize i) else s).hmFault k a i c := by
  simp [State.hmPtr, hf, hc]

/-- A return or a reference that is misaligned, or of a buffer that nobody holds, quarantines the buffer. -/
theorem State.hmPtr_unheld (hop : op ≠ .release) (h : o % hmSize i ≠ 0 ∨ ((s.hmPool k i).buf (o / hmSize i)).st ≠ .allocated) :
    s.hmPtr k a 0 op =
      (if o / hmSize i < (s.hmPool k i).count then s.hmPut k i ((s.hmPool k i).quarantine (o / hmSize i)) (o / hmSize i)
        else s).hmFault k a i (if o % hmSize i ≠ 0 then .align else .state) := by
  by_cases ho : o % hmSize i = 0
  · rw [State.hmPtr_fails hf (ptrCheck_unallocated ho hop (h.resolve_left (not_not.2 ho)))]
    simp [quarantines, hop, ho]
  · rw [State.hmPtr_fails hf (ptrCheck_misaligned ho)]
    simp [quarantines, hop, ho]

/-- A release that is misaligned, or of a buffer that is in no quarantine, changes no buffer. -/
theorem State.hmPtr_unquarantined (h : o % hmSize i ≠ 0 ∨ (((s.hmPool k i).buf (o / hmSize i)).st ≠ .quarantined ∧
      ((s.hmPool k i).buf (o / hmSize i)).st ≠ .quarDirty)) :
    s.hmPtr k a 0 .release = s.hmFault k a i (if o % hmSize i ≠ 0 then .align else .state) := by
  by_cases ho : o % hmSize i = 0
  · obtain ⟨hq, hd⟩ := h.resolve_left (not_not.2 ho)
    rw [State.hmPtr_fails hf (ptrCheck_unquarantined ho hq hd)]
    simp [quarantines, ho]
  · rw [State.hmPtr_fails hf (ptrCheck_misaligned ho)]
    simp [quarantines, ho]

theorem State.hmPtr_refOvf (ho : o % hmSize i = 0) (hst : ((s.hmPool k i).buf (o / hmSize i)).st = .allocated)
    (hcnt : 65535 ≤ ((s.hmPool k i).buf (o / hmSize i)).cnt) : s.hmPtr k a 0 .ref = s.hmFault k a i .refOvf := by
  rw [State.hmPtr_fails hf (ptrCheck_refOvf ho hst hcnt)]
  simp [quarantines]

variable (hc : ptrCheck (s.hmPool k i) (hmSize i) o op false = none)
include hc

theorem State.hmPtr_keeps (hq : ptrApply (s.hmPool k i) (o / hmSize i) op = (q, false)) :
    s.hmPtr k a 0 op = s.hmPut k i q (o / hmSize i) := by
  simp [State.hmPtr, hf, hc, hq]

theorem State.hmPtr_dirties (hq : ptrApply (s.hmPool k i) (o / hmSize i) op = (q, true)) :
    s.hmPtr k a 0 op = (s.hmPut k i q (o / hmSize i)).hmDirty k i (o / hmSize i) := by
  simp [State.hmPtr, hf, hc, hq]

end Memory

/-! Allocation of a memory buffer (R251). -/

section Allocation
variable {s : State} {k sz i : Nat}

/-- What punnet `i` answers to an allocation of a buffer of at least `sz`. -/
def State.hmOffer (s : State) (k sz i : Nat) : Option (Nat × State) :=
  let p := s.hmPool k i
  if i < sz ∨ ¬ p.en then none
  else
    match p.take, s.hmStart p with
    | some (b, q), some st => some (st + b * hmSize i + i, (s.hmPut k i q b).hmLink k i b 0)
    | _, _ => none

theorem State.hmAlloc_eq : s.hmAlloc k sz = match (List.range 4).findSome? (s.hmOffer k sz) with
    | some r => r
    | none => (0, s.bump (memReg k Reg.punHmEmptyCnt)) := rfl

/-- A punnet that is too small, disabled or empty offers nothing. -/
theorem State.hmOffer_none (h : sz ≤ i → (s.hmPool k i).en = false ∨ (s.hmPool k i).take = none) : s.hmOffer k sz i = none := by
  unfold State.hmOffer
  by_cases hi : i < sz
  · exact if_pos (.inl hi)
  · rcases h (Nat.le_of_not_lt hi) with hen | htake
    · exact if_pos (.inr (by simp [hen]))
    · simp [htake]

theorem State.hmOffer_some {b st : Nat} {q : Punnet} (hi : sz ≤ i) (hen : (s.hmPool k i).en = true) (ht : (s.hmPool k i).take = some (b, q))
    (hst : s.hmStart (s.hmPool k i) = some st) :
    s.hmOffer k sz i = some (st + b * hmSize i + i, (s.hmPut k i q b).hmLink k i b 0) := by
  simp [State.hmOffer, Nat.not_lt.2 hi, hen, ht, hst]

/-- The first number that has an answer gives it. -/
theorem findSome?_range_first {α : Type} {f : Nat → Option α} {n j : Nat} {x : α} (hj : j < n) (hx : f j = some x)
    (hfirst : ∀ m, m < j → f m = none) : (List.range n).findSome? f = some x := by
  obtain ⟨m, rfl⟩ := Nat.exists_eq_add_of_lt hj
  have hbelow : (List.range j).findSome? f = none := List.findSome?_eq_none_iff.2 fun i hi => hfirst i (List.mem_range.1 hi)
  rw [Nat.add_assoc, List.range_add, List.findSome?_append, hbelow, List.range_succ_eq_map]
  simp [hx]

theorem State.hmAlloc_empty (h : ∀ j, sz ≤ j → j < 4 → (s.hmPool k j).en = false ∨ (s.hmPool k j).take = none) :
    s.hmAlloc k sz = (0, s.bump (memReg k Reg.punHmEmptyCnt)) := by
  have hnone : (List.range 4).findSome? (s.hmOffer k sz) = none :=
    List.findSome?_eq_none_iff.2 fun j hj => State.hmOffer_none fun hle => h j hle (List.mem_range.1 hj)
  rw [State.hmAlloc_eq, hnone]

theorem State.hmAlloc_first {j : Nat} {x : Nat × State} (hj : j < 4) (hx : s.hmOffer k sz j = some x)
    (h : ∀ m, sz ≤ m → m < j → (s.hmPool k m).en = false ∨ (s.hmPool k m).take = none) : s.hmAlloc k sz = x := by
  rw [State.hmAlloc_eq, findSome?_range_first hj hx fun m hm => State.hmOffer_none fun hle => h m hle hm]

end Allocation

/-! Configuration of a memory punnet (R250). -/

section Configuration
variable {s : State} {src : Src} {k i v : Nat}

/-- A word whose bit 0 is set, as the one that enables a punnet, is as it was with that bit set. -/
theorem or_one_of_odd (h : v % 2 = 1) : v ||| 1 = v := by
  obtain ⟨w, rfl⟩ : ∃ w, v = 2 ^ 1 * w + 1 := ⟨v / 2, by omega⟩
  rw [Nat.two_pow_add_eq_or_of_lt (by decide), Nat.or_assoc, Nat.or_self]

section Enabled
variable (on : bit (s.reg (memReg k (Reg.punHmCfg i))).toNat 0 = true)
include on

theorem State.hmConfigWrite_busy (h : bits v 54 1 ≠ bits (s.reg (memReg k (Reg.punHmCfg i))).toNat 54 1) :
    s.hmConfigWrite src k i v = s.badAccess src true (memReg k (Reg.punHmCfg i)) .busy := by
  simp [State.hmConfigWrite, State.hmConfig, on, h, State.refuse]

variable (h : bits v 54 1 = bits (s.reg (memReg k (Reg.punHmCfg i))).toNat 54 1)
include h

theorem State.hmConfigWrite_again (hv : bit v 0 = true) : s.hmConfigWrite src k i v = s := by
  simp [State.hmConfigWrite, State.hmConfig, on, h, hv]

theorem State.hmConfigWrite_disables (hv : bit v 0 = false) : s.hmConfigWrite src k i v =
    (s.withFld (memReg k (Reg.punHmCfg i)) 0 0 0).withHmPool k i { s.hmPool k i with en := false } := by
  simp [State.hmConfigWrite, State.hmConfig, on, h, hv]

end Enabled

section Disabled
variable (off : bit (s.reg (memReg k (Reg.punHmCfg i))).toNat 0 = false)
include off

/-- The configuration of a disabled punnet is stored, its enable bit clear. -/
def State.hmConfigured (s : State) (k i v : Nat) : State := s.withReg (memReg k (Reg.punHmCfg i)) (BitVec.ofNat 64 (bits v 54 1 <<< 1))

theorem State.hmConfigWrite_configures (hv : bit v 0 = false) : s.hmConfigWrite src k i v = s.hmConfigured k i v := by
  simp [State.hmConfigWrite, State.hmConfig, off, hv, State.hmConfigured]

variable (hv : bit v 0 = true)
include hv

theorem State.hmConfigWrite_bad (h : (s.hmConfigured k i v).hmEnableOk k i v = false) : s.hmConfigWrite src k i v =
    (s.hmConfigured k i v).badAccess src true (memReg k (Reg.punHmCfg i)) .badValue := by
  rw [State.hmConfigured] at h
  simp [State.hmConfigWrite, State.hmConfig, off, hv, h, State.refuse, State.hmConfigured]

theorem State.hmConfigWrite_enables (h : (s.hmConfigured k i v).hmEnableOk k i v = true) : s.hmConfigWrite src k i v =
    ((s.hmConfigured k i v).hmEnable k i v).withFld (memReg k (Reg.punHmCfg i)) 0 0 1 := by
  rw [State.hmConfigured] at h
  simp [State.hmConfigWrite, State.hmConfig, off, hv, h, State.hmConfigured]

end Disabled

end Configuration

/-! Zeroing (R249). -/

section Zeroing
variable {s : State} {n k i b : Nat} {r : List (Nat × Nat)}

theorem State.pkZeroed_none (h : (s.pdie n).dirty = []) : s.pkZeroed n = s := by
  simp only [State.pkZeroed, h]

theorem State.pkZeroed_head (h : (s.pdie n).dirty = (i, b) :: r) :
    s.pkZeroed n = (s.modPdie n fun d => { d with dirty := r }).withPool n i ((s.pool n i).zeroed b) := by
  simp only [State.pkZeroed, h]

theorem State.hmZeroed_none (h : (s.ctrl k).dirty = []) : s.hmZeroed k = s := by
  simp only [State.hmZeroed, h]

/-- A memory punnet whose buffer has been zeroed, before the buffer's link is written. -/
def State.hmCleaned (s : State) (k i b : Nat) (r : List (Nat × Nat)) : State :=
  ((s.zeroHbm k (s.hmOffset (s.hmPool k i) + b * hmSize i) (hmSize i)).modCtrl k fun c => { c with dirty := r }).hmPut k i
    ((s.hmPool k i).zeroed b) b

/-- A memory buffer is zeroed in its region, and linked where it becomes free. -/
theorem State.hmZeroed_head (h : (s.ctrl k).dirty = (i, b) :: r) : s.hmZeroed k =
    if ((s.hmPool k i).buf b).st = .dirty then
      (s.hmCleaned k i b r).hmLink k i b (Config.freeLink ((s.hmPool k i).free.headD (s.hmPool k i).fresh)).toNat
    else s.hmCleaned k i b r := by
  simp only [State.hmZeroed, h]
  rfl

theorem execDirtyZeroed_hm : execDirtyZeroed (k + 4) s = .next (s.hmZeroed k) := by
  rw [execDirtyZeroed, if_neg (by omega), Nat.add_sub_cancel]

end Zeroing

/-- Settles O40: by where an echo finds its limiter, by what R248 finds of a pointer, and by what each operation does to a buffer and its punnet. -/
theorem congestionAndPunnets : Obligations.CongestionAndPunnets := by
  refine ⟨?congestion, ?packet, ?memory, ?alloc, ?config, ?zeroPk, ?zeroHm, fun p q b h => Punnet.take_allocates h⟩
  case congestion =>
    intro s n f l mine md floor cut
    exact ⟨fun he => congrArg _ (State.echoReceive_other he),
      fun he hl => congrArg _ (State.echoReceive_cuts he hl), fun he hl hfull => congrArg _ (State.echoReceive_full he hl hfull),
      fun e he hl hroom hp => congrArg _ (State.echoReceive_allocates he hl hroom hp),
      fun he hl hroom hp => congrArg _ (State.echoReceive_unrouted he hl hroom hp),
      ⟨_, rfl, fun hwf _ x hx => State.mem_rateIncrease (Since.refl hwf).pdiesOrd hx⟩, s.refreshes,
      fun src p v => ⟨fun h => congrArg Host.Outcome.next (if_pos h), fun h => congrArg Host.Outcome.next (if_neg h)⟩⟩
  case packet =>
    intro s src n ptr i o hptr u p b x fault dirty
    have hret : exec (.punPkReturn src n ptr) s = .next (u.pkPtr n ptr .ret) :=
      congrArg (fun x => Host.Outcome.next (u.pkPtr n x .ret)) (Nat.mod_eq_of_lt hptr)
    have hrel : exec (.punPkQuarRelease src n ptr) s = .next (u.pkPtr n ptr .release) :=
      congrArg (fun x => Host.Outcome.next (u.pkPtr n x .release)) (Nat.mod_eq_of_lt hptr)
    have hfault (t : State) (c : PtrCause) : t.pkFault n ptr c = fault t c := by rw [State.pkFault, Nat.mod_eq_of_lt hptr]
    rw [hret, hrel]
    simp only [← hfault]
    refine ⟨fun h => ⟨congrArg _ (State.pkPtr_lost h), congrArg _ (State.pkPtr_lost h)⟩, fun h =>
      ⟨fun ho => ⟨congrArg _ (State.pkPtr_fails h (ptrCheck_misaligned ho)), congrArg _ (State.pkPtr_fails h (ptrCheck_misaligned ho))⟩,
        fun ho hst hcnt => congrArg _ (State.pkPtr_keeps h (ptrCheck_ret ho hst) (Punnet.drop_shared hcnt)),
        fun ho hst hcnt => congrArg _ (State.pkPtr_dirties h (ptrCheck_ret ho hst) (Punnet.drop_last hcnt)),
        fun ho hst => congrArg _ (State.pkPtr_fails h (ptrCheck_unallocated ho (by decide) hst)),
        fun ho hq hd => congrArg _ (State.pkPtr_fails h (ptrCheck_unquarantined ho hq hd)),
        fun ho hst => congrArg _ (State.pkPtr_dirties h (ptrCheck_release ho (.inl hst)) (Punnet.release_of_st hst)),
        fun ho hst => congrArg _ (State.pkPtr_keeps h (ptrCheck_release ho (.inr hst)) (Punnet.release_of_st hst))⟩⟩
  case memory =>
    intro s src k a i o ha u p b x dirty wrong put
    have hptr (op : PtrOp) : Host.Outcome.next (u.hmPtr k (a % 2 ^ 48) 0 op) = (.next (u.hmPtr k a 0 op) : Out) := by rw [Nat.mod_eq_of_lt ha]
    have hfree : exec (.punHmFree src k a) s = .next (u.hmPtr k a 0 .ret) := hptr .ret
    have href : exec (.punHmRef src k a) s = .next (u.hmPtr k a 0 .ref) := hptr .ref
    have hrel : exec (.punHmQuarRelease src k a) s = .next (u.hmPtr k a 0 .release) := hptr .release
    rw [hfree, href, hrel]
    refine ⟨fun h => ⟨congrArg _ (State.hmPtr_lost h), congrArg _ (State.hmPtr_lost h), congrArg _ (State.hmPtr_lost h)⟩, fun h =>
      ⟨fun hbad => ⟨congrArg _ (State.hmPtr_unheld h (by decide) hbad), congrArg _ (State.hmPtr_unheld h (by decide) hbad)⟩,
        fun ho hst hcnt => congrArg _ (State.hmPtr_keeps h (ptrCheck_ref ho hst hcnt) rfl),
        fun ho hst hcnt => congrArg _ (State.hmPtr_refOvf h ho hst hcnt),
        fun ho hst hcnt => congrArg _ (State.hmPtr_keeps h (ptrCheck_ret ho hst) (Punnet.drop_shared hcnt)),
        fun ho hst hcnt => congrArg _ (State.hmPtr_dirties h (ptrCheck_ret ho hst) (Punnet.drop_last hcnt)),
        fun hbad => congrArg _ (State.hmPtr_unquarantined h hbad),
        fun ho hst => congrArg _ (State.hmPtr_dirties h (ptrCheck_release ho (.inl hst)) (Punnet.release_of_st hst)),
        fun ho hst => congrArg _ (State.hmPtr_keeps h (ptrCheck_release ho (.inr hst)) (Punnet.release_of_st hst))⟩⟩
  case alloc =>
    intro s src k i answer
    have hread : exec (.punHmAlloc src k i) s = .next (answer (s.hmAlloc k i).2 (s.hmAlloc k i).1) := rfl
    rw [hread]
    refine ⟨fun h => ?_, fun j b q st hle hj hen ht hst hfirst => ?_⟩
    · rw [State.hmAlloc_empty h]
    · rw [State.hmAlloc_first hj (State.hmOffer_some hle hen ht hst) hfirst]
      rfl
  case config =>
    intro s src k i v a u on same w
    have hon (h : v % 2 = 1) : exec (.punnetEnable src k i v) s = .next (u.hmConfigWrite src k i v) :=
      congrArg (fun x => Host.Outcome.next (u.hmConfigWrite src k i x)) (or_one_of_odd h)
    have hoff (h : v % 2 = 0) : exec (.punnetDisable src k i v) s = .next (u.hmConfigWrite src k i v) :=
      congrArg (fun x => Host.Outcome.next (u.hmConfigWrite src k i x)) (by rw [h, Nat.sub_zero])
    have hset (h : v % 2 = 1) : bit v 0 = true := by simp [bit, h]
    have hclear (h : v % 2 = 0) : bit v 0 = false := by simp [bit, h]
    exact ⟨fun h hs hv => (hon hv).trans (congrArg _ (State.hmConfigWrite_busy h hs)),
      fun h hs hv => (hoff hv).trans (congrArg _ (State.hmConfigWrite_busy h hs)),
      fun h hs hv => (hon hv).trans (congrArg _ (State.hmConfigWrite_again h hs (hset hv))),
      fun h hs hv => (hoff hv).trans (congrArg _ (State.hmConfigWrite_disables h hs (hclear hv))),
      fun h hv => (hoff hv).trans (congrArg _ (State.hmConfigWrite_configures h (hclear hv))),
      fun h hv hok => (hon hv).trans (congrArg _ (State.hmConfigWrite_bad h (hset hv) hok)),
      fun h hv hok => (hon hv).trans (congrArg _ (State.hmConfigWrite_enables h (hset hv) hok))⟩
  case zeroPk =>
    intro s n i b r hn
    have hunit : exec (.dirtyZeroed n) s = .next (s.pkZeroed n) := congrArg Host.Outcome.next (if_pos hn)
    rw [hunit]
    exact ⟨fun h => congrArg _ (State.pkZeroed_none h), fun h => congrArg _ (State.pkZeroed_head h)⟩
  case zeroHm =>
    intro s k i b r
    have hunit : exec (.dirtyZeroed (k + 4)) s = .next (s.hmZeroed k) := execDirtyZeroed_hm
    rw [hunit]
    exact ⟨fun h => congrArg _ (State.hmZeroed_none h), fun h =>
      ⟨fun hst => congrArg _ ((State.hmZeroed_head h).trans (if_pos hst)), fun hst => congrArg _ ((State.hmZeroed_head h).trans (if_neg hst))⟩⟩

end Sys2Proof.Machine
end

section
/-! PROOFS. What every step keeps: the form of a state, its fuses and its outputs (R50, R342, R381, R382, R384, R386, R389). -/

namespace Sys2Proof.Machine

/-! Commands. -/

/-- The commands of the test access port (R393). -/
abbrev scanCommands : List Instr :=
  [.bypass, .idcode, .samplePreload, .extest, .clamp, .highz, .extestPulse, .extestTrain, .testLogicReset]

/-- A command of the test access port changes the instruction that the port holds, and nothing else. -/
theorem exec_scan {c : Instr} {s t : State} (hc : c ∈ scanCommands) (e : exec c s = .next t) : ∃ x, t = s.withTap x := by
  simp only [scanCommands, List.mem_cons, List.not_mem_nil, or_false] at hc
  rcases hc with rfl | rfl | rfl | rfl | rfl | rfl | rfl | rfl | rfl <;> exact ⟨_, (Host.Outcome.next.inj e).symm⟩

/-- Every other command keeps what `Since` says. -/
theorem exec_since {o s t : State} (h : Since o s) : ∀ c : Instr, c ∉ scanCommands → exec c s = .next t → Since o t
  | .plainRegisterWrite _ _ _ _, _, e => execPlainRegisterWrite_since h e
  | .rcRegisterRead _ _ _, _, e => execRcRegisterRead_since h e
  | .latticeSlot _, _, e => execLatticeSlot_since h e
  | .meshFlitForward _ _, _, e => execMeshFlitForward_since h e
  | .start src, _, e => execStart_since (a0 := src) h e
  | .abort src, _, e => execAbort_since (a0 := src) h e
  | .transferDone _ _, _, e => execTransferDone_since h e
  | .prepareComplete, _, e => execPrepareComplete_since h e
  | .latchLead, _, e => execLatchLead_since h e
  | .latch, _, e => execLatch_since h e
  | .tileStateCopyEnd, _, e => execTileStateCopyEnd_since h e
  | .scrubPass _ _, _, e => execScrubPass_since h e
  | .descriptorFetch _ _ _ _, _, e => execDescriptorFetch_since h e
  | .descriptorIssue _, _, e => execDescriptorIssue_since h e
  | .loopIteration _ _ _, _, e => execLoopIteration_since h e
  | .descriptorComplete _ _, _, e => execDescriptorComplete_since h e
  | .summarySlotWrite _ _, _, e => execSummarySlotWrite_since h e
  | .selectResolve _ _, _, e => execSelectResolve_since h e
  | .graphStart _, _, e => execGraphStart_since h e
  | .periodicStart _ _, _, e => execPeriodicStart_since h e
  | .lateStart _ _, _, e => execLateStart_since h e
  | .handlerStart _, _, e => execHandlerStart_since h e
  | .stop _ _, _, e => execStop_since h e
  | .dscCntSelect _ _ _ _, _, e => execDscCntSelect_since h e
  | .dscCntAdd _ _ _ _, _, e => execDscCntAdd_since h e
  | .dscCntSet _ _ _ _, _, e => execDscCntSet_since h e
  | .nop _ _, _, e => execNop_since h e
  | .select _ _, _, e => execSelect_since h e
  | .setmode _ _, _, e => execSetmode_since h e
  | .cmpset _ _, _, e => execCmpset_since h e
  | .cntset _ _, _, e => execCntset_since h e
  | .periodic _ _, _, e => execPeriodic_since h e
  | .trigger _ _, _, e => execTrigger_since h e
  | .mma _ _, _, e => execMma_since h e
  | .gangResume _, _, e => execGangResume_since h e
  | .prune _ _, _, e => execPrune_since h e
  | .add _ _, _, e => execAdd_since h e
  | .sub _ _, _, e => execSub_since h e
  | .mul _ _, _, e => execMul_since h e
  | .fma _ _, _, e => execFma_since h e
  | .min _ _, _, e => execMin_since h e
  | .max _ _, _, e => execMax_since h e
  | .abs _ _, _, e => execAbs_since h e
  | .neg _ _, _, e => execNeg_since h e
  | .cmpeq _ _, _, e => execCmpeq_since h e
  | .cmpne _ _, _, e => execCmpne_since h e
  | .cmplt _ _, _, e => execCmplt_since h e
  | .cmple _ _, _, e => execCmple_since h e
  | .selectVector _ _, _, e => execSelectVector_since h e
  | .exp2 _ _, _, e => execExp2_since h e
  | .log2 _ _, _, e => execLog2_since h e
  | .rcp _ _, _, e => execRcp_since h e
  | .rsqrt _ _, _, e => execRsqrt_since h e
  | .cvt _ _, _, e => execCvt_since h e
  | .and _ _, _, e => execAnd_since h e
  | .or _ _, _, e => execOr_since h e
  | .xor _ _, _, e => execXor_since h e
  | .not _ _, _, e => execNot_since h e
  | .shl _ _, _, e => execShl_since h e
  | .shr _ _, _, e => execShr_since h e
  | .popcnt _ _, _, e => execPopcnt_since h e
  | .gfmul _ _, _, e => execGfmul_since h e
  | .gfmulc _ _, _, e => execGfmulc_since h e
  | .gfmac _ _, _, e => execGfmac_since h e
  | .gfinv _ _, _, e => execGfinv_since h e
  | .topk _ _, _, e => execTopk_since h e
  | .stsum _ _, _, e => execStsum_since h e
  | .copy _ _, _, e => execCopy_since h e
  | .fill _ _, _, e => execFill_since h e
  | .ocload _ _, _, e => execOcload_since h e
  | .ocevict _ _, _, e => execOcevict_since h e
  | .rload _ _, _, e => execRload_since h e
  | .rstore _ _, _, e => execRstore_since h e
  | .rfadd _ _, _, e => execRfadd_since h e
  | .rcas _ _, _, e => execRcas_since h e
  | .racc _ _, _, e => execRacc_since h e
  | .rfpadd _ _, _, e => execRfpadd_since h e
  | .accsum _ _ _, _, e => execAccsum_since h e
  | .accread _ _, _, e => execAccread_since h e
  | .accclr _ _, _, e => execAccclr_since h e
  | .accstore _ _, _, e => execAccstore_since h e
  | .accload _ _, _, e => execAccload_since h e
  | .ssort _ _, _, e => execSsort_since h e
  | .sgather _ _, _, e => execSgather_since h e
  | .sfilter _ _, _, e => execSfilter_since h e
  | .sminmax _ _, _, e => execSminmax_since h e
  | .deferredExactAdd _ _, _, e => execDeferredExactAdd_since h e
  | .allred _ _, _, e => execAllred_since h e
  | .redscat _ _, _, e => execRedscat_since h e
  | .allgath _ _, _, e => execAllgath_since h e
  | .bcast _ _, _, e => execBcast_since h e
  | .barrier _ _, _, e => execBarrier_since h e
  | .alltoall _ _, _, e => execAlltoall_since h e
  | .alltoallv _ _, _, e => execAlltoallv_since h e
  | .sortmerge _ _, _, e => execSortmerge_since h e
  | .filtcomp _ _, _, e => execFiltcomp_since h e
  | .parenc _ _, _, e => execParenc_since h e
  | .parreb _ _, _, e => execParreb_since h e
  | .commitList _ _ _, _, e => execCommitList_since h e
  | .listCommitDone _ _, _, e => execListCommitDone_since h e
  | .invalidate _ _, _, e => execInvalidate_since h e
  | .contribution _, _, e => execContribution_since h e
  | .partialMsg _, _, e => execPartialMsg_since h e
  | .result _, _, e => execResult_since h e
  | .credit _, _, e => execCredit_since h e
  | .abortMessage _, _, e => execAbortMessage_since h e
  | .heartbeatMessage _, _, e => execHeartbeatMessage_since h e
  | .sizeCountMessage _, _, e => execSizeCountMessage_since h e
  | .barrierMessage _, _, e => execBarrierMessage_since h e
  | .windowClose _ _ _, _, e => execWindowClose_since h e
  | .instanceComplete _ _ _, _, e => execInstanceComplete_since h e
  | .memberLate _ _, _, e => execMemberLate_since h e
  | .heartbeat, _, e => execHeartbeat_since h e
  | .memberLost _ _, _, e => execMemberLost_since h e
  | .epochAheadRepeat _, _, e => execEpochAheadRepeat_since h e
  | .groupReceive _ _, _, e => execGroupReceive_since h e
  | .timeSetReceive _ _, _, e => execTimeSetReceive_since h e
  | .creditInit _ _, _, e => execCreditInit_since h e
  | .linkState _ _, _, e => execLinkState_since h e
  | .timeSetSend _, _, e => execTimeSetSend_since h e
  | .timeSetTimeout _, _, e => execTimeSetTimeout_since h e
  | .replayTimeout _, _, e => execReplayTimeout_since h e
  | .holdExpiry _ _, _, e => execHoldExpiry_since h e
  | .pauseFrame _ _, _, e => execPauseFrame_since h e
  | .pfcFrame _ _ _, _, e => execPfcFrame_since h e
  | .pauseExpiry _ _, _, e => execPauseExpiry_since h e
  | .linkTrainingDone _ _ _, _, e => execLinkTrainingDone_since h e
  | .trainingTimeout _, _, e => execTrainingTimeout_since h e
  | .retrain _ _, _, e => execRetrain_since h e
  | .berWindow _ _ _, _, e => execBerWindow_since h e
  | .frameArrival _ _ _, _, e => execFrameArrival_since h e
  | .cellSlot _, _, e => execCellSlot_since h e
  | .localDelivery _ _, _, e => execLocalDelivery_since h e
  | .echoReceive _ _, _, e => execEchoReceive_since h e
  | .rateIncrease _, _, e => execRateIncrease_since h e
  | .pauseRefresh _, _, e => execPauseRefresh_since h e
  | .holdRefresh _, _, e => execHoldRefresh_since h e
  | .sampleCtrlWrite _ _ _, _, e => execSampleCtrlWrite_since h e
  | .dirtyZeroed _, _, e => execDirtyZeroed_since h e
  | .punPkReturn src _ _, _, e => execPunPkReturn_since (a0 := src) h e
  | .punPkQuarRelease src _ _, _, e => execPunPkQuarRelease_since (a0 := src) h e
  | .punHmAlloc _ _ _, _, e => execPunHmAlloc_since h e
  | .punHmFree src _ _, _, e => execPunHmFree_since (a0 := src) h e
  | .punHmRef src _ _, _, e => execPunHmRef_since (a0 := src) h e
  | .punHmQuarRelease src _ _, _, e => execPunHmQuarRelease_since (a0 := src) h e
  | .punnetEnable _ _ _ _, _, e => execPunnetEnable_since h e
  | .punnetDisable _ _ _ _, _, e => execPunnetDisable_since h e
  | .shutterArm _ _, _, e => execShutterArm_since h e
  | .shutterCancel src _, _, e => execShutterCancel_since (a0 := src) h e
  | .shutterTakeover _, _, e => execShutterTakeover_since h e
  | .shutterEntry _, _, e => execShutterEntry_since h e
  | .bucketConfigWrite _ _ _ _ _, _, e => execBucketConfigWrite_since h e
  | .ftmStep _ _, _, e => execFtmStep_since h e
  | .obsSample _, _, e => execObsSample_since h e
  | .schObsClear src _, _, e => execSchObsClear_since (a0 := src) h e
  | .routeArm src _, _, e => execRouteArm_since (a0 := src) h e
  | .routeCancel src _, _, e => execRouteCancel_since (a0 := src) h e
  | .routeLatch _, _, e => execRouteLatch_since h e
  | .rteDrain src _ _, _, e => execRteDrain_since (a0 := src) h e
  | .requestLoad _ _, _, e => execRequestLoad_since h e
  | .requestStore _ _, _, e => execRequestStore_since h e
  | .requestFetchAdd _ _, _, e => execRequestFetchAdd_since h e
  | .requestCompareSwap _ _, _, e => execRequestCompareSwap_since h e
  | .requestExactAdd _ _ _, _, e => execRequestExactAdd_since h e
  | .requestFp32Add _ _, _, e => execRequestFp32Add_since h e
  | .requestSignal _, _, e => execRequestSignal_since h e
  | .requestTrigger _, _, e => execRequestTrigger_since h e
  | .responseReceive _, _, e => execResponseReceive_since h e
  | .requestRetry _ _, _, e => execRequestRetry_since h e
  | .detEnter _, _, e => execDetEnter_since h e
  | .detActive, _, e => execDetActive_since h e
  | .detExit _, _, e => execDetExit_since h e
  | .barrierArm _, _, e => execBarrierArm_since h e
  | .barrierCancel src, _, e => execBarrierCancel_since (a0 := src) h e
  | .barrierRelease, _, e => execBarrierRelease_since h e
  | .policyWrite _ _ _, _, e => execPolicyWrite_since h e
  | .policyOverride _ _, _, e => execPolicyOverride_since h e
  | .hbmTrained _ _, _, e => execHbmTrained_since h e
  | .hbmAccess _ _ _ _, _, e => execHbmAccess_since h e
  | .hbmRowRepaired _, _, e => execHbmRowRepaired_since h e
  | .patrolRead _ _, _, e => execPatrolRead_since h e
  | .refresh _ _, _, e => execRefresh_since h e
  | .chkArm _ _ _, _, e => execChkArm_since h e
  | .chkClose _ _ _, _, e => execChkClose_since h e
  | .chkBlockEnd _ _, _, e => execChkBlockEnd_since h e
  | .tileReset _ _, _, e => execTileReset_since h e
  | .blockReset _ _, _, e => execBlockReset_since h e
  | .sectorReset _ _, _, e => execSectorReset_since h e
  | .dieReset _ _, _, e => execDieReset_since h e
  | .partitionReset _ _, _, e => execPartitionReset_since h e
  | .resetComplete _, _, e => execResetComplete_since h e
  | .pop _, _, e => execPop_since h e
  | .blockFenced _, _, e => execBlockFenced_since h e
  | .sectorGated _, _, e => execSectorGated_since h e
  | .dieFenced _, _, e => execDieFenced_since h e
  | .spareLost _ _, _, e => execSpareLost_since h e
  | .packageReset _, _, e => execPackageReset_since h e
  | .pkgResetDeassert _ _, _, e => execPkgResetDeassert_since h e
  | .keepLock, _, e => execKeepLock_since h e
  | .refLost, _, e => execRefLost_since h e
  | .refclkReturn, _, e => execRefclkReturn_since h e
  | .porterRunning, _, e => execPorterRunning_since h e
  | .regulatorEnable, _, e => execRegulatorEnable_since h e
  | .pwrGood, _, e => execPwrGood_since h e
  | .pciePerstDeassert, _, e => execPciePerstDeassert_since h e
  | .boot _, _, e => execBoot_since h e
  | .bootTimeout, _, e => execBootTimeout_since h e
  | .imageServeRequest _, _, e => execImageServeRequest_since h e
  | .vinLow, _, e => execVinLow_since h e
  | .regFault, _, e => execRegFault_since h e
  | .vauxLow, _, e => execVauxLow_since h e
  | .blockSleep _, _, e => execBlockSleep_since h e
  | .blockDeepSleep _, _, e => execBlockDeepSleep_since h e
  | .blockWake _, _, e => execBlockWake_since h e
  | .wakeComplete _, _, e => execWakeComplete_since h e
  | .vfStepUp _ _, _, e => execVfStepUp_since h e
  | .vfStepDown, _, e => execVfStepDown_since h e
  | .powerSample _ _, _, e => execPowerSample_since h e
  | .keepRequest _, _, e => execKeepRequest_since h e
  | .runRequest _, _, e => execRunRequest_since h e
  | .thermalSample _ _, _, e => execThermalSample_since h e
  | .tempMaxClear src _ _, _, e => execTempMaxClear_since (a0 := src) h e
  | .functionLevelReset, _, e => execFunctionLevelReset_since h e
  | .sqTail _ _, _, e => execSqTail_since h e
  | .startQueueEntry _ _ _, _, e => execStartQueueEntry_since h e
  | .trigBusyReoffer _, _, e => execTrigBusyReoffer_since h e
  | .hrqHead _ _, _, e => execHrqHead_since h e
  | .queueEnable _ _ _, _, e => execQueueEnable_since h e
  | .msixUnmask _, _, e => execMsixUnmask_since h e
  | .bar2Access _ _ _ _ _, _, e => execBar2Access_since h e
  | .porterMessage _ _, _, e => execPorterMessage_since h e
  | .regRead _ _ _ _, _, e => execRegRead_since h e
  | .regWrite _ _ _ _, _, e => execRegWrite_since h e
  | .viewRead _ _ _, _, e => execViewRead_since h e
  | .viewSet _ _ _ _, _, e => execViewSet_since h e
  | .keyProgram _ _ _ _, _, e => execKeyProgram_since h e
  | .keyRevoke _ _ _, _, e => execKeyRevoke_since h e
  | .traceRead _ _ _ _, _, e => execTraceRead_since h e
  | .neighbourDiscovery _, _, e => execNeighbourDiscovery_since h e
  | .peeFreeze src _, _, e => execPeeFreeze_since (a0 := src) h e
  | .vauxRestored _ _, _, e => execVauxRestored_since h e
  | .traceStore _, _, e => execTraceStore_since h e
  | .imageServeRefusal _, _, e => execImageServeRefusal_since h e
  | .ptpEventMessageSend _ _, _, e => execPtpEventMessageSend_since h e
  | .bypass, hc, _ | .idcode, hc, _ | .samplePreload, hc, _ | .extest, hc, _ | .clamp, hc, _ | .highz, hc, _ | .extestPulse, hc, _
  | .extestTrain, hc, _ | .testLogicReset, hc, _ => absurd (by simp) hc

/-- What a step keeps besides the queue of commands and the test access port. -/
structure Grown (o t : State) : Prop where
  wf : t.wf = true
  keys : keysKept o.porter.keys t.porter.keys = true
  out : o.out <+: t.out

theorem Since.grown {o t : State} (h : Since o t) : Grown o t := ⟨h.wf, h.keys, h.out⟩

theorem Grown.withPending {o t : State} (h : Grown o t) (l : List Instr) : Grown o (t.withPending l) := ⟨h.wf, h.keys, h.out⟩

theorem exec_grown {o s t : State} (h : Since o s) {c : Instr} (e : exec c s = .next t) : Grown o t := by
  by_cases hc : c ∈ scanCommands
  · obtain ⟨x, rfl⟩ := exec_scan hc e
    exact ⟨h.wf, h.keys, h.out⟩
  · exact (exec_since h c hc e).grown

/-! Steps. -/

theorem step_of_pending {s : State} {c : Instr} {rest : List Instr} (h : s.pending = c :: rest) : step s = exec c (s.withPending rest) := by
  unfold step
  rw [h]

theorem step_of_idle {s : State} (h : s.pending = []) : step s = .next (tick s) := by
  unfold step
  rw [h]

theorem tick_grown {s : State} (h : s.wf = true) : Grown s (tick s) := by
  unfold tick
  split
  · exact (Since.refl h).grown
  · exact (State.period_since (Since.refl h)).grown.withPending _

/-- A step keeps the form, the fuses and the outputs: a command by its own law, a period by that of the time that passes. -/
theorem step_grown {s t : State} (h : s.wf = true) (e : step s = .next t) : Grown s t := by
  cases hp : s.pending with
  | nil =>
    rw [step_of_idle hp] at e
    exact Host.Outcome.next.inj e ▸ tick_grown h
  | cons c rest =>
    rw [step_of_pending hp] at e
    have hwf : (s.withPending rest).wf = true := h
    obtain ⟨hform, hkeys, hout⟩ := exec_grown (Since.refl hwf) e
    exact ⟨hform, hkeys, hout⟩

/-- Settles O2: by what every command and every period keeps. -/
theorem stepKeepsForm : Obligations.StepKeepsForm := fun _ _ h e => (step_grown h e).wf

/-- Settles O3: by what every command and every period keeps. -/
theorem stepKeepsFusesAndOutputs : Obligations.StepKeepsFusesAndOutputs := fun _ _ h e =>
  have ⟨_, hkeys, more, hout⟩ := step_grown h e
  ⟨hkeys, more, hout.symm⟩

/-! The queue. -/

/-- Settles O4: by the definition of a step. -/
theorem stepRunsFront : Obligations.StepRunsFront := fun _ _ _ => step_of_pending rfl

/-- Settles O1: by evaluation of the state at reset and of the rows of the register map. -/
theorem stateAtReset : Obligations.StateAtReset := by
  unfold Obligations.StateAtReset
  refine ⟨⟨rfl, rfl, rfl, rfl⟩, ?_⟩
  decide +kernel

end Sys2Proof.Machine
end

section
/-! PROOFS. The statements on shutters, on the barrier and on sleeping blocks fail outside the form of a state: a register that the table lists
twice does not take a value that is its reset value (R262, R305, R353). -/

namespace Sys2Proof.Machine

/-! Shutter lists. -/

/-- Port 0 armed with an empty list. `State.wf` does not hold: the table of registers lists SHU_STATUS of the port twice. -/
def State.shutterTwice : State :=
  { State.reset with regs := [(portReg 0 Reg.shuStatus, 2), (portReg 0 Reg.shuStatus, 2)] }

/-- ARMED of port 0 after a step. -/
def armedAfter : Out → Nat
  | .next t => t.fld (portReg 0 Reg.shuStatus) 1 1
  | _ => 0

/-- An empty list leaves SHU_STATUS at its reset value: the first entry leaves the table, and the second takes its place. -/
theorem State.shutterTwice_stays : armedAfter (exec (.shutterTakeover 0) State.shutterTwice) = 1 := by decide +kernel

/-- Refutes O41: where the table lists SHU_STATUS of a port twice, the takeover of an empty list leaves the port armed. -/
theorem not_shuttersAndBuckets : ¬ Obligations.ShuttersAndBuckets := by
  rintro ⟨⟨hlists, -⟩, -⟩
  obtain ⟨-, -, -, -, htakeover, -⟩ := hlists State.shutterTwice .host 0 (by decide)
  obtain ⟨t, ht, hdisarmed, -⟩ := htakeover (by decide +kernel) (by decide +kernel)
  have hrun := State.shutterTwice_stays
  rw [ht] at hrun
  exact absurd (hrun.symm.trans hdisarmed) (by decide)

/-! The start barrier. -/

/-- An armed barrier with a phase reset, in active deterministic mode. `State.wf` does not hold: the table of registers lists DET_RUN_FCLK
twice. -/
def State.runTwice : State :=
  { State.reset with
    regs := [(Reg.detStatus, 1), (Reg.detBarrierCfg, word (1 <<< 26)), (Reg.detBarrierStatus, 1), (Reg.detRunFclk, 9), (Reg.detRunFclk, 9)] }

/-- DET_RUN_FCLK after a step. -/
def runFclkAfter : Out → Word
  | .next t => t.reg Reg.detRunFclk
  | _ => 0

/-- The count of zero takes the first entry of the register out of the table, and the second takes its place. -/
theorem State.runTwice_stays : runFclkAfter (exec .barrierRelease State.runTwice) = 9 := by decide +kernel

/-- Refutes O45: where the table lists DET_RUN_FCLK twice, a release with a phase reset does not show a count of zero. -/
theorem not_determinismAndBarrier : ¬ Obligations.DeterminismAndBarrier := by
  intro h
  obtain ⟨-, -, -, -, -, -, -, -, -, -, hrelease, -⟩ := h State.runTwice .host
  obtain ⟨t, ht, -, -, hzero, -⟩ := hrelease (by decide +kernel) (by decide +kernel)
  have hrun := State.runTwice_stays
  rw [ht, runFclkAfter, hzero (by decide +kernel) (by decide +kernel)] at hrun
  exact absurd hrun (by decide)

/-! Sleeping blocks. -/

/-- A block that sleeps. `State.wf` does not hold: the table of registers lists CLK_BLOCK of block 0 twice. -/
def State.sleeperTwice : State :=
  { State.reset with regs := [(clkBlockA 0, word (1 <<< 11)), (clkBlockA 0, word (1 <<< 11))] }

/-- The clock state of block 0 after a step. -/
def blockStateAfter : Out → Nat
  | .next t => t.blockState 0
  | _ => 0

/-- A word of zeros takes the first entry of the register out of the table, and the second takes its place. -/
theorem State.sleeperTwice_stays : blockStateAfter (exec (.blockDeepSleep 0) State.sleeperTwice) = 1 := by decide +kernel

/-- Refutes O46: where the table lists CLK_BLOCK of a sleeping block twice, the block does not come to deep sleep. -/
theorem not_adaptiveAndPower : ¬ Obligations.AdaptiveAndPower := by
  rintro ⟨-, hblocks⟩
  obtain ⟨-, -, -, hdeep, -⟩ := hblocks State.sleeperTwice 0 (by decide)
  obtain ⟨t, ht, hstate, -⟩ := hdeep (by decide +kernel)
  have hrun := State.sleeperTwice_stays
  rw [ht, blockStateAfter, hstate] at hrun
  exact absurd hrun (by decide)

end Sys2Proof.Machine
end

section
/-! PROOFS. Requests at their target: what every request meets before it acts (R292, R294, R295). -/

namespace Sys2Proof.Machine

section Arrival
variable {s : State} {f : Frame} {op : Nat}

/-- A request as it is seen before its checks: recorded by the trace, and counted when it comes from outside. -/
def State.requestSeen (s : State) (f : Frame) : State :=
  let v := s.traceEvent (16 + homeDie f) 0xFFFF 11 (rqOwner f.payload) (f.payload.take 16)
  if f.src = s.node then v else v.external 1

/-- What a request does once it is seen: refused, answered from its stream, or run. -/
def State.requestJudged (s : State) (f : Frame) (op : Nat) (run : State → Bytes → Option (State × Answer)) : State :=
  let n := homeDie f
  let p := f.payload
  let v := s.requestSeen f
  if ¬ requestOk f op ∨ ¬ alignOk p op then (v.countReject n 4 f).answer f (.of 4)
  else
    match s.streamCheck n f.src (rqTile p) (rqId p) with
    | .busy => (v.bump (pdReg n Reg.rmaBusyCnt)).answer f (.of 7)
    | .stale => ((v.bump (pdReg n Reg.rmaStaleCnt)).touchStream n f.src (rqTile p)).answer f (.of 6)
    | .dup st a => ((v.bump (pdReg n Reg.rmaDupCnt)).touchStream n f.src (rqTile p)).answer f
        (if op = 1 ∧ 8 < rqLen p ∧ st = 0 then Answer.of 1 else ⟨st, a, []⟩)
    | .fresh x =>
      match run (s.requested f) p with
      | none => s
      | some (t, a) => t.served f x a

variable {run : State → Bytes → Option (State × Answer)}

theorem State.request_elsewhere (h : f.kind ≠ 1 ∨ (rqOp f.payload ≠ op ∧ 1 ≤ rqOp f.payload ∧ rqOp f.payload ≤ 8)) :
    s.request f op run = s := by
  unfold State.request
  exact if_pos (h.imp_right fun ⟨hne, hlo, hhi⟩ => ⟨hne, by simp [rqOpValid, hlo, hhi]⟩)

theorem State.request_judged (hk : f.kind = 1) (h : rqOp f.payload = op ∨ rqOp f.payload = 0 ∨ 8 < rqOp f.payload) :
    s.request f op run = s.requestJudged f op run := by
  unfold State.request
  refine if_neg ?_
  rintro (hn | ⟨hne, hv⟩)
  · exact hn hk
  · simp only [rqOpValid, Bool.and_eq_true, decide_eq_true_eq] at hv
    omega

theorem State.requestJudged_malformed (h : requestOk f op = false ∨ alignOk f.payload op = false) :
    s.requestJudged f op run = ((s.requestSeen f).bump (pdReg (homeDie f) Reg.rmaRejectCnt)).answer f ⟨4, 0, []⟩ := by
  unfold State.requestJudged
  exact if_pos (by simpa using h)

/-- A request that names another operation is not in order. -/
theorem requestOk_of_ne (h : rqOp f.payload ≠ op) : requestOk f op = false := by
  simp [requestOk, h]

section InOrder
variable (hok : requestOk f op = true) (hal : alignOk f.payload op = true)
include hok hal

theorem State.requestJudged_busy (h : s.streamCheck (homeDie f) f.src (rqTile f.payload) (rqId f.payload) = .busy) :
    s.requestJudged f op run = ((s.requestSeen f).bump (pdReg (homeDie f) Reg.rmaBusyCnt)).answer f ⟨7, 0, []⟩ := by
  unfold State.requestJudged
  rw [if_neg (by simp [hok, hal]), h]
  rfl

theorem State.requestJudged_stale (h : s.streamCheck (homeDie f) f.src (rqTile f.payload) (rqId f.payload) = .stale) :
    s.requestJudged f op run =
      (((s.requestSeen f).bump (pdReg (homeDie f) Reg.rmaStaleCnt)).touchStream (homeDie f) f.src (rqTile f.payload)).answer f ⟨6, 0, []⟩ := by
  unfold State.requestJudged
  rw [if_neg (by simp [hok, hal]), h]
  rfl

theorem State.requestJudged_dup {st a : Nat} (h : s.streamCheck (homeDie f) f.src (rqTile f.payload) (rqId f.payload) = .dup st a) :
    s.requestJudged f op run =
      (((s.requestSeen f).bump (pdReg (homeDie f) Reg.rmaDupCnt)).touchStream (homeDie f) f.src (rqTile f.payload)).answer f
        (if op = 1 ∧ 8 < rqLen f.payload ∧ st = 0 then ⟨1, 0, []⟩ else ⟨st, a, []⟩) := by
  unfold State.requestJudged
  rw [if_neg (by simp [hok, hal]), h]
  rfl

theorem State.requestJudged_fresh {x : Stream} (h : s.streamCheck (homeDie f) f.src (rqTile f.payload) (rqId f.payload) = .fresh x) :
    s.requestJudged f op run = match run (s.requested f) f.payload with | none => s | some (t, a) => t.served f x a := by
  unfold State.requestJudged
  rw [if_neg (by simp [hok, hal]), h]

end InOrder

/-! A request that acts. -/

/-- A run is asked for the request's own payload alone. -/
theorem State.request_congr {run' : State → Bytes → Option (State × Answer)} (h : ∀ v, run v f.payload = run' v f.payload) :
    s.request f op run = s.request f op run' := by
  unfold State.request
  simp only [h]

section Acts
variable {x : Stream} (h : s.asks f op x)
include h

theorem State.request_held (hr : run (s.requested f) f.payload = none) : s.request f op run = s := by
  obtain ⟨hk, hop, hok, hal, hc⟩ := h
  rw [State.request_judged hk (.inl hop), State.requestJudged_fresh hok hal hc, hr]

theorem State.request_served {t : State} {a : Answer} (hr : run (s.requested f) f.payload = some (t, a)) :
    s.request f op run = t.served f x a := by
  obtain ⟨hk, hop, hok, hal, hc⟩ := h
  rw [State.request_judged hk (.inl hop), State.requestJudged_fresh hok hal hc, hr]

end Acts
end Arrival

/-! The rows of Table 12-5. -/

/-- A command that is the arrival of a request of an operation. -/
def RequestRow (row : Instr) (f : Frame) (op : Nat) : Prop :=
  ∃ run : State → Bytes → Option (State × Answer), ∀ s, exec row s = .next (s.request f op run)

theorem requestRow_of_mem {row : Instr} {f : Frame} {u : Upset} {m op : Nat} {b : Bool}
    (h : (row, op) ∈ [(Instr.requestLoad f u, 1), (.requestStore f u, 2), (.requestFetchAdd f u, 3), (.requestCompareSwap f u, 4),
      (.requestExactAdd f m b, 5), (.requestFp32Add f u, 6), (.requestSignal f, 7), (.requestTrigger f, 8)]) :
    RequestRow row f op ∧ 1 ≤ op ∧ op ≤ 8 := by
  simp only [List.mem_cons, List.not_mem_nil, or_false, Prod.mk.injEq] at h
  rcases h with ⟨rfl, rfl⟩ | ⟨rfl, rfl⟩ | ⟨rfl, rfl⟩ | ⟨rfl, rfl⟩ | ⟨rfl, rfl⟩ | ⟨rfl, rfl⟩ | ⟨rfl, rfl⟩ | ⟨rfl, rfl⟩ <;>
    exact ⟨⟨_, fun _ => rfl⟩, by decide, by decide⟩

/-! Streams. -/

theorem State.requestSeen_frame (s : State) (f : Frame) : (s.requestSeen f).pdies = s.pdies ∧ (s.requestSeen f).clk = s.clk := by
  have hseen (v : State) : (if f.src = s.node then v else v.external 1).pdies = v.pdies ∧
      (if f.src = s.node then v else v.external 1).clk = v.clk := by
    unfold State.external
    split_ifs <;> exact ⟨rfl, rfl⟩
  have htrace : (s.traceEvent (16 + homeDie f) 0xFFFF 11 (rqOwner f.payload) (f.payload.take 16)).pdies = s.pdies ∧
      (s.traceEvent (16 + homeDie f) 0xFFFF 11 (rqOwner f.payload) (f.payload.take 16)).clk = s.clk := by
    unfold State.traceEvent
    dsimp only
    split_ifs <;> exact ⟨rfl, rfl⟩
  exact ⟨(hseen _).1.trans htrace.1, (hseen _).2.trans htrace.2⟩

/-- The entry of a request's stream is renewed. -/
theorem State.touchStream_streams {s : State} (hs : keysFrom 0 s.pdies = true) (n node tile : Nat) :
    ((s.touchStream n node tile).pdie n).streams =
      (s.pdie n).streams.map fun y => if y.node = node ∧ y.tile = tile then { y with lastAt := s.clk.kclk } else y := by
  rw [State.touchStream, State.pdie_modPdie hs]
  simp only [Stream.is, Bool.and_eq_true, beq_iff_eq]

end Sys2Proof.Machine
end

section
/-! PROOFS. Requests at their target: what each operation does where it acts (R52, R140, R150, R173, R174, R287, R288, R291, R327). -/

namespace Sys2Proof.Machine

theorem unlessHeld_free {s : State} {tg : Target} (h : s.targetHeld tg = false) (r : State × Answer) : unlessHeld s tg r = some r := by
  simp [unlessHeld, h]

theorem unlessHeld_held {s : State} {tg : Target} (h : s.targetHeld tg = true) (r : State × Answer) : unlessHeld s tg r = none := by
  simp [unlessHeld, h]

/-! Accesses to a word or a range. -/

section Access
variable {s : State} {f : Frame} {u : Upset} {x : Stream}

/-- A request that runs on a target, once the upset of its step has happened. -/
def State.access (s : State) (f : Frame) (u : Upset) (op n : Nat) (act : State → Target → State × Answer) : State :=
  s.request f op fun s p =>
    let v := s.upset (s.upsetTile p) u
    unlessHeld v (v.target (rqAddr p) n (rqOwner p)) (act v (v.target (rqAddr p) n (rqOwner p)))

/-- A request's state when it comes to its target. -/
abbrev State.atTarget (s : State) (f : Frame) (u : Upset) : State := (s.requested f).upset ((s.requested f).upsetTile f.payload) u

variable {op n : Nat} {act : State → Target → State × Answer} (h : s.asks f op x)
include h

theorem State.access_held (hh : (s.atTarget f u).targetHeld ((s.atTarget f u).target (rqAddr f.payload) n (rqOwner f.payload)) = true) :
    s.access f u op n act = s := State.request_held h (unlessHeld_held hh _)

theorem State.access_acts {tg : Target} (ht : (s.atTarget f u).target (rqAddr f.payload) n (rqOwner f.payload) = tg)
    (hh : (s.atTarget f u).targetHeld tg = false) {w : State} {a : Answer} (ha : act (s.atTarget f u) tg = (w, a)) :
    s.access f u op n act = w.served f x a := by
  subst ht
  exact State.request_served h ((unlessHeld_free hh _).trans (congrArg some ha))

end Access

/-- The answer of a load: a value up to 8 bytes, data beyond. -/
abbrev loadAnswer (len : Nat) (b : Bytes) : Answer := if len ≤ 8 then ⟨0, leNat b, []⟩ else ⟨0, 0, b⟩

/-! Atomics. -/

section Atomic
variable {v : State} {o n : Nat} {g : Nat → Nat} {t a : Nat}

theorem State.execAtomic_tile_hurt (hm : (v.tile t).memHurt a n = true) : v.execAtomic (.tile t a) o n g = (v, ⟨8, 0, []⟩) := if_pos hm

theorem State.execAtomic_tile (hm : (v.tile t).memHurt a n = false) : v.execAtomic (.tile t a) o n g =
    (v.modTile t (·.writeMem a (natLe n (g (leNat ((v.tile t).readMem a n))))), ⟨0, leNat ((v.tile t).readMem a n), []⟩) :=
  if_neg (by simp [hm])

variable {q : List (Nat × Nat × Nat)} {w : State} {b : Bytes}

theorem State.execAtomic_hbm_hurt (hr : v.readPieces q false 0 = (w, b, true)) : v.execAtomic (.hbm q a) o n g = (w, ⟨8, 0, []⟩) := by
  simp [State.execAtomic, hr, Answer.of]

theorem State.execAtomic_hbm (hr : v.readPieces q false 0 = (w, b, false)) :
    v.execAtomic (.hbm q a) o n g = ((w.ownerWrite o a q (natLe n (g (leNat b)))).1, ⟨0, leNat b, []⟩) := by
  simp [State.execAtomic, hr]

end Atomic

/-! Loads and stores. -/

section LoadStore
variable {v w : State} {n t a : Nat} {q : List (Nat × Nat × Nat)} {b : Bytes}

theorem State.execLoad_tile_hurt (hm : (v.tile t).memHurt a n = true) : v.execLoad (.tile t a) n = (v, ⟨8, 0, []⟩) := if_pos hm

theorem State.execLoad_tile (hm : (v.tile t).memHurt a n = false) : v.execLoad (.tile t a) n = (v, loadAnswer n ((v.tile t).readMem a n)) :=
  if_neg (by simp [hm])

theorem State.execLoad_hbm (hr : v.readPieces q false 0 = (w, b, false)) : v.execLoad (.hbm q a) n = (w, loadAnswer n b) := by
  simp [State.execLoad, hr]

theorem State.execLoad_hbm_hurt (hr : v.readPieces q false 0 = (w, b, true)) : v.execLoad (.hbm q a) n = (w, ⟨8, 0, []⟩) := by
  simp [State.execLoad, hr, Answer.of]

theorem State.execStore_hbm {o : Nat} {d : Bytes} {bad : Bool} (hr : v.ownerWrite o a q d = (w, bad)) :
    v.execStore (.hbm q a) o d = (w, ⟨if bad then 8 else 0, 0, []⟩) := by
  simp [State.execStore, hr, Answer.of]

end LoadStore

/-! Signals, triggers and exact adds. -/

section Signal
variable {s : State} {p : Bytes}

/-- The fields of a signal are formed (R288, R292). -/
abbrev signalFormed (p : Bytes) : Prop :=
  bits (rqAddr p) 49 48 = 1 ∧ bits (rqAddr p % 2 ^ 48) 18 0 = 0 ∧ bits (rqArg0 p) 15 4 = 0 ∧ bits (rqArg0 p) 63 32 = 0

theorem State.execSignal_malformed (h : ¬ signalFormed p) : s.execSignal p = (s, ⟨4, 0, []⟩) := by
  unfold State.execSignal
  refine if_pos ?_
  by_contra hc
  simp only [not_or, ne_eq, not_not] at hc
  exact h hc

variable (h : signalFormed p)
include h

theorem State.execSignal_formed : s.execSignal p =
    if bits (rqAddr p % 2 ^ 48) 47 34 ≠ 0 then (s, .of 3)
    else if s.goneFrom (bits (rqAddr p % 2 ^ 48) 33 19) (rqOwner p) then (s, .of 5)
    else
      if ¬ s.active (s.phys (bits (rqAddr p % 2 ^ 48) 33 19)) ∨ s.tileRole (bits (rqAddr p % 2 ^ 48) 33 19) = 0 ∨
          s.tileRole (bits (rqAddr p % 2 ^ 48) 33 19) = 6 ∨ s.tileOwner (bits (rqAddr p % 2 ^ 48) 33 19) ≠ rqOwner p then
        (s.tileCount (s.phys (bits (rqAddr p % 2 ^ 48) 33 19)) 0x0E 1, ⟨0, 1, []⟩)
      else (s.addCounter (s.phys (bits (rqAddr p % 2 ^ 48) 33 19)) (rqArg0 p % 16) (bits (rqArg0 p) 31 16), ⟨0, 0, []⟩) := by
  obtain ⟨h1, h2, h3, h4⟩ := h
  unfold State.execSignal
  refine if_neg ?_
  rintro (hn | hn | hn | hn)
  exacts [hn h1, hn h2, hn h3, hn h4]

end Signal

section Exact
variable {s : State} {p : Bytes} {m : Nat} {busy : Bool}

theorem State.execExact_gone (hc : s.exactCheck p ≠ 1) (hg : s.goneFrom (bits (rqAddr p % 2 ^ 48) 33 19) (rqOwner p) = true) :
    s.execExact p m busy = (s, ⟨5, 0, []⟩) := if_pos ⟨hc, hg⟩

theorem State.execExact_refused (hc : s.exactCheck p ≠ 0)
    (hg : s.exactCheck p = 1 ∨ s.goneFrom (bits (rqAddr p % 2 ^ 48) 33 19) (rqOwner p) = false) :
    s.execExact p m busy = (s.tileCount (s.phys (bits (rqAddr p % 2 ^ 48) 33 19)) 0x12 1, ⟨0, s.exactCheck p, []⟩) := by
  unfold State.execExact
  dsimp only
  rw [if_neg, if_pos hc]
  rintro ⟨hne, hgone⟩
  rcases hg with h | h
  · exact hne h
  · exact Bool.false_ne_true (h.symm.trans hgone)

variable (hc : s.exactCheck p = 0) (hg : s.goneFrom (bits (rqAddr p % 2 ^ 48) 33 19) (rqOwner p) = false)
include hc hg

theorem State.execExact_residue {v : State} (hr : s.residue (s.phys (bits (rqAddr p % 2 ^ 48) 33 19)) m = (v, false)) :
    s.execExact p m busy = (v.tileCount (s.phys (bits (rqAddr p % 2 ^ 48) 33 19)) 0x12 1, ⟨0, 2, []⟩) := by
  unfold State.execExact
  dsimp only
  rw [if_neg fun hgone => Bool.false_ne_true (hg.symm.trans hgone.2), if_neg (not_not.2 hc), hr]
  rfl

/-- One term is added, or deferred where a local add holds the slots. -/
theorem State.execExact_one {y : Term × Nat} (hn : bits (rqArg0 p) 5 2 + 1 = 1)
    (ht : exactTerms (rqArg0 p % 4) (p.drop 32) (bits (rqArg0 p) 5 2 + 1) = some [y]) :
    let t := s.phys (bits (rqAddr p % 2 ^ 48) 33 19)
    let v := s.modTile t (·.accFlag y.2)
    s.execExact p 0 busy = (if busy then v.modTile t fun z => { z with deferred := z.deferred ++ [(rqAddr p % 2 ^ 48 % 16, y.1.slot)] }
      else v.addTerm t (rqAddr p % 2 ^ 48 % 16) y.1, ⟨0, 0, []⟩) := by
  unfold State.execExact
  dsimp only
  rw [if_neg fun hgone => Bool.false_ne_true (hg.symm.trans hgone.2), if_neg (not_not.2 hc), State.residue_zero, ht, hn]
  rfl

end Exact

theorem State.execTrigger_gone {s : State} {p : Bytes} (hb : triggerBad p = false) (hg : s.goneFrom (bits (rqAddr p % 2 ^ 48) 14 0) (rqOwner p) = true) :
    s.execTrigger p = (s, ⟨5, 0, []⟩) := if_pos (by rw [hb, hg]; rfl)

theorem State.execTrigger_offers {s t : State} {p : Bytes} {c : Nat}
    (h : triggerBad p = true ∨ s.goneFrom (bits (rqAddr p % 2 ^ 48) 14 0) (rqOwner p) = false)
    (ht : s.offerTrigger (bits (rqAddr p % 2 ^ 48) 14 0) (bits (rqAddr p % 2 ^ 48) 20 15) (rqOwner p) (triggerBad p) (p.drop 32) = (t, c)) :
    s.execTrigger p = (t, ⟨0, c, []⟩) := by
  unfold State.execTrigger
  dsimp only
  rw [if_neg (by rcases h with h | h <;> rw [h] <;> simp), ht]

/-- Settles O43: by what every request meets, and by what each operation does at its target. -/
theorem requestsAtTiles : Obligations.RequestsAtTiles := by
  refine ⟨fun s f u m b row op hrow => ?arrival, fun s f u x => ?acts⟩
  case arrival =>
    intro p n v check seen
    obtain ⟨⟨run, hrun⟩, hlo, hhi⟩ := requestRow_of_mem hrow
    have judged {t : State} (hk : f.kind = 1) (hop : rqOp p = op ∨ rqOp p = 0 ∨ 8 < rqOp p) (h : s.requestJudged f op run = t) :
        exec row s = .next t := by rw [hrun, State.request_judged hk hop, h]
    refine ⟨fun h => ?_, fun hk h => ?_, fun hk hop => ⟨fun h => ?_, fun hok hal => ⟨fun h => ?_, fun h => ?_, fun st a h hn => ?_,
      fun st a h h1 h8 h0 => ?_⟩, fun hwf hn => ?_⟩⟩
    · rw [hrun, State.request_elsewhere h]
    · exact judged hk (.inr h) (State.requestJudged_malformed (.inl (requestOk_of_ne (show rqOp p ≠ op by omega))))
    · exact judged hk (.inl hop) (State.requestJudged_malformed h)
    · exact judged hk (.inl hop) (State.requestJudged_busy hok hal h)
    · exact judged hk (.inl hop) (State.requestJudged_stale hok hal h)
    · exact judged hk (.inl hop) ((State.requestJudged_dup hok hal h).trans (by rw [if_neg hn]; rfl))
    · exact judged hk (.inl hop) ((State.requestJudged_dup hok hal h).trans (by rw [if_pos ⟨h1, h8, h0⟩]; rfl))
    · obtain ⟨hp, hc⟩ := s.requestSeen_frame f
      have hs : keysFrom 0 (s.requestSeen f).pdies = true := hp ▸ (Since.refl hwf).pdiesOrd
      have hd : (s.requestSeen f).pdie n = s.pdie n := by rw [State.pdie, hp, State.pdie]
      have htouch := State.touchStream_streams hs n f.src (rqTile p)
      rw [hd, hc] at htouch
      exact htouch
  case acts =>
    intro p o v tg len cas rows loaded
    have next {t t' : State} (h : t = t') : (Host.Outcome.next t : Out) = .next t' := congrArg _ h
    refine ⟨fun h => ?load, fun h => ?store, fun row op n g hrow h => ?atomic, ?signal, ?trigger, ?exact⟩
    case load =>
      have acts {g : Target} (ht : tg len = g) (hh : v.targetHeld g = false) {w : State} {a : Answer} (ha : v.execLoad g len = (w, a)) :
          exec (.requestLoad f u) s = .next (w.served f x a) :=
        next (State.access_acts (act := fun v g => v.execLoad g (rqLen f.payload)) h ht hh ha)
      exact ⟨fun hh => next (State.access_held (act := fun v g => v.execLoad g (rqLen f.payload)) h hh), fun st ht => acts ht rfl rfl,
        fun t a ht hm => acts ht rfl (State.execLoad_tile_hurt hm), fun t a ht hm => acts ht rfl (State.execLoad_tile hm),
        fun q a w b ht hh hr => acts ht hh (State.execLoad_hbm hr), fun q a w b ht hh hr => acts ht hh (State.execLoad_hbm_hurt hr),
        fun r ht => acts ht rfl rfl⟩
    case store =>
      have acts {g : Target} (ht : tg len = g) (hh : v.targetHeld g = false) {w : State} {a : Answer}
          (ha : v.execStore g o (p.drop 32) = (w, a)) : exec (.requestStore f u) s = .next (w.served f x a) :=
        next (State.access_acts (act := fun v g => v.execStore g (rqOwner f.payload) (f.payload.drop 32)) h ht hh ha)
      exact ⟨fun hh => next (State.access_held (act := fun v g => v.execStore g (rqOwner f.payload) (f.payload.drop 32)) h hh),
        fun st ht => acts ht rfl rfl, fun t a ht => acts ht rfl rfl, fun q a w ht hh hr => acts ht hh (State.execStore_hbm hr),
        fun q a w ht hh hr => acts ht hh (State.execStore_hbm hr), fun r ht => acts ht rfl rfl⟩
    case atomic =>
      have hexec : exec row s = .next (s.access f u op n fun v g' => v.execAtomic g' (rqOwner f.payload) n g) := by
        simp only [rows, List.mem_cons, List.not_mem_nil, or_false, Prod.mk.injEq] at hrow
        rcases hrow with ⟨rfl, rfl, rfl, rfl⟩ | ⟨rfl, rfl, rfl, rfl⟩ | ⟨rfl, rfl, rfl, rfl⟩
        · exact next (State.request_congr fun _ => rfl)
        · exact next (State.request_congr fun _ => rfl)
        · exact next (State.request_congr fun _ => rfl)
      have acts {g' : Target} (ht : tg n = g') (hh : v.targetHeld g' = false) {w : State} {a : Answer} (ha : v.execAtomic g' o n g = (w, a)) :
          exec row s = .next (w.served f x a) := hexec.trans (next (State.access_acts h ht hh ha))
      exact ⟨fun hh => hexec.trans (next (State.access_held h hh)), fun st ht => acts ht rfl rfl, fun r ht => acts ht rfl rfl,
        fun t a ht hm => acts ht rfl (State.execAtomic_tile_hurt hm), fun t a ht hm => acts ht rfl (State.execAtomic_tile hm),
        fun q a w b ht hh hr => acts ht hh (State.execAtomic_hbm_hurt hr), fun q a w b ht hh hr => acts ht hh (State.execAtomic_hbm hr)⟩
    case signal =>
      intro w off t formed gone good there h
      have acts {w' : State} {a : Answer} (ha : w.execSignal p = (w', a)) : exec (.requestSignal f) s = .next (w'.served f x a) :=
        next (State.request_served (run := fun s p => some (s.execSignal p)) h (congrArg some ha))
      refine ⟨fun hf => acts (State.execSignal_malformed hf), fun hf hr => acts ?_, fun hf hr hg => acts ?_, fun ⟨hf, hr, hg⟩ ⟨ha, h0, h6, ho⟩ => acts ?_,
        fun ⟨hf, hr, hg⟩ hn => acts ?_⟩ <;> rw [State.execSignal_formed hf]
      · exact if_pos hr
      · rw [if_neg (not_not.2 hr)]
        exact if_pos hg
      · rw [if_neg (not_not.2 hr), if_neg (Bool.eq_false_iff.1 hg), if_neg]
        rintro (hn | hn | hn | hn)
        exacts [hn ha, h0 hn, h6 hn, hn ho]
      · rw [if_neg (not_not.2 hr), if_neg (Bool.eq_false_iff.1 hg), if_pos]
        by_contra hc
        simp only [not_or, not_not] at hc
        exact hn hc
    case trigger =>
      intro w off bad gone h
      have acts {w' : State} {a : Answer} (ha : w.execTrigger p = (w', a)) : exec (.requestTrigger f) s = .next (w'.served f x a) :=
        next (State.request_served (run := fun s p => some (s.execTrigger p)) h (congrArg some ha))
      exact ⟨fun hb hg => acts (State.execTrigger_gone hb hg), fun t c hb ht => acts (State.execTrigger_offers hb ht)⟩
    case exact =>
      intro w off t n h gone
      have acts {m : Nat} {busy : Bool} {w' : State} {a : Answer} (ha : w.execExact p m busy = (w', a)) :
          exec (.requestExactAdd f m busy) s = .next (w'.served f x a) :=
        next (State.request_served (run := fun s p => some (s.execExact p m busy)) h (congrArg some ha))
      exact ⟨fun m busy hc hg => acts (State.execExact_gone hc hg), fun m busy hc hg => acts (State.execExact_refused hc hg),
        fun m busy v hc hg hr => acts (State.execExact_residue hc hg hr),
        fun y hc hg hn ht => ⟨acts (State.execExact_one hc hg hn ht), acts (State.execExact_one hc hg hn ht)⟩⟩

end Sys2Proof.Machine
end

section
/-! PROOFS. Responses and repeated requests at the requester (R292, R293, R295 to R297). -/

namespace Sys2Proof.Machine

/-! Responses. -/

section Response
variable {s : State} {f : Frame} {r : OutReq}

/-- A response as it arrives: counted when it comes from outside. -/
abbrev State.responseSeen (s : State) (f : Frame) : State := if f.src = s.node then s else s.external 1

/-- The request that a response names, if its tile has sent it. -/
abbrev State.sentRequest (s : State) (f : Frame) : Option OutReq :=
  (s.tile (s.phys (rqTile f.payload))).reqs.find? fun q => q.id == rqId f.payload && q.attempts != 0

theorem exec_responseReceive_elsewhere (h : ¬ (f.kind = 2 ∧ f.dest = s.node)) : exec (.responseReceive f) s = .next s :=
  if_pos (not_and_or.1 h)

variable (hm : f.kind = 2 ∧ f.dest = s.node)
include hm

theorem exec_responseReceive_mine : exec (.responseReceive f) s =
    if ¬ responseOk f.payload then .next ((s.responseSeen f).bump (pdReg (rqTile f.payload % 4) Reg.rmaRejectCnt))
    else
      match s.sentRequest f with
      | none => .next (s.responseSeen f)
      | some r => .next (if answers f.payload r then
          ((s.responseSeen f).respond (s.phys (rqTile f.payload)) r f.payload).reissue (s.phys (rqTile f.payload))
        else (s.responseSeen f).bump (pdReg (rqTile f.payload % 4) Reg.rmaRejectCnt)) :=
  if_neg (by simp [hm])

theorem exec_responseReceive_bad (hok : responseOk f.payload = false) :
    exec (.responseReceive f) s = .next ((s.responseSeen f).bump (pdReg (rqTile f.payload % 4) Reg.rmaRejectCnt)) := by
  rw [exec_responseReceive_mine hm, if_pos (by simp [hok])]

variable (hok : responseOk f.payload = true)
include hok

theorem exec_responseReceive_unasked (hf : s.sentRequest f = none) : exec (.responseReceive f) s = .next (s.responseSeen f) := by
  rw [exec_responseReceive_mine hm, if_neg (not_not.2 hok), hf]

theorem exec_responseReceive_mismatch (hf : s.sentRequest f = some r) (ha : answers f.payload r = false) :
    exec (.responseReceive f) s = .next ((s.responseSeen f).bump (pdReg (rqTile f.payload % 4) Reg.rmaRejectCnt)) := by
  rw [exec_responseReceive_mine hm, if_neg (not_not.2 hok), hf]
  simp [ha]

theorem exec_responseReceive_awaited (hf : s.sentRequest f = some r) (ha : answers f.payload r = true) :
    exec (.responseReceive f) s =
      .next (((s.responseSeen f).respond (s.phys (rqTile f.payload)) r f.payload).reissue (s.phys (rqTile f.payload))) := by
  rw [exec_responseReceive_mine hm, if_neg (not_not.2 hok), hf]
  simp [ha]

end Response

/-! What an awaited response does. -/

section Respond
variable {u : State} {t : Nat} {r : OutReq} {p : Bytes}

theorem State.respond_busy (hs : rsStatus p = 7) (ha : r.attempts < 4) : u.respond t r p = u := if_pos ⟨hs, ha⟩

theorem State.respond_signal (hb : rsStatus p = 7 → 4 ≤ r.attempts) (hu : r.use = .signal) : u.respond t r p =
    if rsStatus p ≠ 0 ∨ rsValue p = 1 then (u.modTile t (·.dropReq r.id)).tileCount t 0x16 1 else u.modTile t (·.dropReq r.id) := by
  unfold State.respond
  dsimp only
  rw [if_neg fun hc => absurd (hb hc.1) (Nat.not_le.2 hc.2), if_pos hu]

theorem State.respond_reload (hs : rsStatus p = 1) (hu : r.use ≠ .signal) : u.respond t r p = u.modTile t (·.again r.id) := by
  unfold State.respond
  dsimp only
  rw [if_neg fun hc => absurd (hs.symm.trans hc.1) (by decide), if_neg hu, if_pos hs]

variable (hb : rsStatus p = 7 → 4 ≤ r.attempts) (hu : r.use ≠ .signal) (h1 : rsStatus p ≠ 1)
include hb hu h1

theorem State.respond_raises {k : Nat × Nat} (hk : responseCause r.use (rsStatus p) (rsValue p) = some k) :
    u.respond t r p = (u.modTile t (·.dropReq r.id)).raiseReq t r k := by
  unfold State.respond
  dsimp only
  rw [if_neg fun hc => absurd (hb hc.1) (Nat.not_le.2 hc.2), if_neg hu, if_neg h1, hk]

theorem State.respond_brings (hk : responseCause r.use (rsStatus p) (rsValue p) = none) :
    u.respond t r p = (u.modTile t (·.dropReq r.id)).bring t r p := by
  unfold State.respond
  dsimp only
  rw [if_neg fun hc => absurd (hb hc.1) (Nat.not_le.2 hc.2), if_neg hu, if_neg h1, hk]

end Respond

theorem State.raiseReq_some {s : State} {t : Nat} {r : OutReq} {k : Nat × Nat} {d : Bytes} (h : (s.ctx t r.ctx).desc = some d) :
    s.raiseReq t r k = s.raiseExc t r.ctx ⟨k.1, false, dIdx d r.iter, k.2⟩ false := by
  rw [State.raiseReq, h]

/-! Data of a good response. -/

section Bring
variable {s : State} {t : Nat} {r : OutReq} {p : Bytes}

theorem State.bring_load {o : Nat} (h : r.use = .load o) : s.bring t r p =
    s.modCtx t r.ctx fun y => { y with arrived := y.arrived ++ [(o, if rqLen r.frame.payload ≤ 8 then natLe 8 (rsValue p) else p.drop 16)] } := by
  rw [State.bring, h]

theorem State.bring_atomic (h : r.use = .atomic) : s.bring t r p =
    s.modCtx t r.ctx fun y => { y with arrived := y.arrived ++ [(0, natLe 8 (rsValue p))] } := by
  rw [State.bring, h]

theorem State.bring_nothing (h : r.use ∈ [.store, .exactAdd, .fp32Add, .trigger]) : s.bring t r p = s := by
  simp only [List.mem_cons, List.not_mem_nil, or_false] at h
  rw [State.bring]
  rcases h with h | h | h | h <;> rw [h]

end Bring

/-! Requests that wait to be sent anew. -/

section Reissue
variable {s : State} {t : Nat} {r : OutReq}

theorem State.reissue_none (h : ∀ q ∈ (s.tile t).reqs, q.attempts ≠ 0) : s.reissue t = s := by
  have hl : (s.tile t).reqs.filter (·.attempts == 0) = [] := List.filter_eq_nil_iff.2 fun q hq => by simp [h q hq]
  rw [State.reissue, hl]
  rfl

theorem State.reissue_one (h : (s.tile t).reqs.filter (·.attempts == 0) = [r]) :
    s.reissue t = if (s.tile t).mayRequest then (s.modTile t (·.dropReq r.id)).reload t r else s := by
  rw [State.reissue, h]
  rfl

end Reissue

/-! Repeated requests. -/

section Retry
variable {s : State} {t id : Nat} {r : OutReq}

theorem exec_requestRetry_none (h : (s.tile t).reqs.find? (·.id == id) = none) : exec (.requestRetry t id) s = .next s := by
  show execRequestRetry t id s = _
  rw [execRequestRetry, h]

variable (h : (s.tile t).reqs.find? (·.id == id) = some r)
include h

theorem exec_requestRetry_some : exec (.requestRetry t id) s =
    if r.attempts = 0 then .next (s.reissue t)
    else if r.attempts < 4 then .next (((s.modTile t fun x => { x with
      reqs := x.reqs.map fun q => if q.id = id then { q with attempts := q.attempts + 1, sentAt := s.clk.kclk } else q }).tileSend (s.logicalOf t)
        (retryFrame r.frame s.now)).tileCount t 0x14 1)
    else .next ((if r.use = .signal then (s.modTile t (·.dropReq id)).tileCount t 0x16 1
      else (s.modTile t (·.dropReq id)).raiseReq t r (0x35, 0)).reissue t) := by
  show execRequestRetry t id s = _
  rw [execRequestRetry, h]

theorem exec_requestRetry_last (ha : 4 ≤ r.attempts) : exec (.requestRetry t id) s =
    .next ((if r.use = .signal then (s.modTile t (·.dropReq id)).tileCount t 0x16 1
      else (s.modTile t (·.dropReq id)).raiseReq t r (0x35, 0)).reissue t) := by
  rw [exec_requestRetry_some h, if_neg (by omega), if_neg (by omega)]

end Retry

/-- Every status of Table 12-7 past DUP_RELOAD raises its cause, with the status as DETAIL. -/
theorem responseCause_status {st : Nat} (h1 : 1 < st) (h10 : st < 10) {use : ReqUse} (hu : use ∈ [ReqUse.store, .atomic, .fp32Add, .load 0]) :
    ∃ k, responseCause use st 0 = some k ∧ 0x30 ≤ k.1 ∧ k.1 ≤ 0x37 ∧ k.2 = st := by
  have hcause : responseCause use st 0 = some (statusCause st, st) := by
    simp only [List.mem_cons, List.not_mem_nil, or_false] at hu
    rcases hu with rfl | rfl | rfl | rfl <;> exact if_neg (Nat.not_le.2 h1)
  have hcode : 0x30 ≤ statusCause st ∧ statusCause st ≤ 0x37 := by
    interval_cases st <;> decide
  exact ⟨_, hcause, hcode.1, hcode.2, rfl⟩

/-- Settles O44: by what a response is for, and by how often a request has been sent. -/
theorem responsesAndRetries : Obligations.ResponsesAndRetries := by
  intro s f r p t u reject st w mine sent awaited
  refine ⟨exec_responseReceive_elsewhere, fun hm hok => exec_responseReceive_bad hm hok,
    fun hm hok hf => exec_responseReceive_unasked hm hok hf, fun hm hok hf ha => exec_responseReceive_mismatch hm hok hf ha, ?awaited,
    fun t h => State.reissue_none h, fun t h => ⟨fun hr => ?_, fun hr => ?_⟩, fun t id h => exec_requestRetry_none h, fun t id h => ?retry,
    fun st h1 h10 use hu => responseCause_status h1 h10 hu⟩
  case awaited =>
    rintro ⟨hm, hok, hf, ha⟩
    have reissues {v : State} (hv : u.respond t r p = v) : exec (.responseReceive f) s = .next (v.reissue t) :=
      hv ▸ exec_responseReceive_awaited hm hok hf ha
    refine ⟨fun hs hn => reissues (State.respond_busy hs hn), fun hu hs hv => reissues ?_, fun hu hc => reissues ?_,
      fun hu hs => reissues (State.respond_reload hs hu), fun hu h1 hb => ⟨fun k d hk hd => reissues ?_, fun o hk ho => reissues ?_,
      fun hk ho => reissues ?_, fun hk ho => reissues ?_⟩⟩
    · have hs' : rsStatus p = 0 := hs
      rw [State.respond_signal (by omega) hu, if_neg (by simp [hs', hv])]
    · rcases hc with ⟨hs, hb⟩ | ⟨hs, hv⟩
      · rw [State.respond_signal hb hu, if_pos (.inl hs)]
      · have hs' : rsStatus p = 0 := hs
        rw [State.respond_signal (by omega) hu, if_pos (.inr hv)]
    · rw [State.respond_raises hb hu h1 hk, State.raiseReq_some hd]
    · rw [State.respond_brings hb hu h1 hk, State.bring_load ho]
    · rw [State.respond_brings hb hu h1 hk, State.bring_atomic ho]
    · rw [State.respond_brings hb hu h1 hk, State.bring_nothing ho]
  case retry =>
    refine ⟨fun h0 => ?_, fun h0 h4 => ?_, fun h4 hu => ?_, fun d h4 hu hd => ?_⟩
    · rw [exec_requestRetry_some h, if_pos h0]
    · rw [exec_requestRetry_some h, if_neg (by omega), if_pos h4]
    · rw [exec_requestRetry_last h h4, if_pos hu]
    · rw [exec_requestRetry_last h h4, if_neg hu, State.raiseReq_some hd]
  · rw [State.reissue_one h, if_neg (by simp [hr])]
  · rw [State.reissue_one h, if_pos hr]
    rfl

end Sys2Proof.Machine
end

section
/-! PROOFS. Check-value units: a write of CHK_CTRL and the end of a window block (O48). -/

namespace Sys2Proof.Machine

open Sys2Proof

/-! Writing CHK_CTRL. -/

section
variable {s : State} {src : Src} {n v : Nat}

theorem bit_or (v w i : Nat) : bit (v ||| w) i = (bit v i || bit w i) := by
  have key : ∀ x, bit x i = x.testBit i := fun x => by
    rw [bit, Nat.testBit_eq_decide_div_mod_eq, Nat.shiftRight_eq_div_pow]
    rfl
  simp only [key, Nat.testBit_or]

/-- ARM is written with CLOSE at 0 exactly when the value itself has CLOSE at 0; and the same with the two exchanged. -/
theorem bit_or_two : bit (v ||| 2) 1 = true ∧ bit (v ||| 2) 2 = bit v 2 := by
  rw [bit_or, bit_or]
  exact ⟨Bool.or_true _, Bool.or_false _⟩

theorem bit_or_four : bit (v ||| 4) 2 = true ∧ bit (v ||| 4) 1 = bit v 1 := by
  rw [bit_or, bit_or]
  exact ⟨Bool.or_true _, Bool.or_false _⟩

theorem chkCtrlWrite_busy (h : bit (s.reg (chkCtrlA n)).toNat 0 = true ∧ bits (s.reg (chkCtrlA n)).toNat 31 3 ≠ bits v 31 3) :
    s.chkCtrlWrite src n v = s.badAccess src true (chkCtrlA n) .busy := if_pos h

theorem chkCtrlWrite_badValue (h : ¬ (bit (s.reg (chkCtrlA n)).toNat 0 = true ∧ bits (s.reg (chkCtrlA n)).toNat 31 3 ≠ bits v 31 3))
    (hv : chkCtrlOk n v = false) : s.chkCtrlWrite src n v = s.badAccess src true (chkCtrlA n) .badValue :=
  (if_neg h).trans (if_pos (by simp [hv]))

theorem chkCtrlWrite_ok (h : ¬ (bit (s.reg (chkCtrlA n)).toNat 0 = true ∧ bits (s.reg (chkCtrlA n)).toNat 31 3 ≠ bits v 31 3))
    (hv : chkCtrlOk n v = true) :
    s.chkCtrlWrite src n v =
      (let t := if bit v 1 then (s.store (chkCtrlA n) v).chkArm n else s.store (chkCtrlA n) v
       if bit v 2 then t.chkClose n else t) :=
  (if_neg h).trans (if_neg (by simp [hv]))

theorem exec_chkArm (h : n < 256) : exec (.chkArm src n v) s = .next ((s.external 1).chkCtrlWrite src n (v ||| 2)) :=
  congrArg Host.Outcome.next (if_pos (decide_eq_true h))

theorem exec_chkClose (h : n < 256) : exec (.chkClose src n v) s = .next ((s.external 1).chkCtrlWrite src n (v ||| 4)) :=
  congrArg Host.Outcome.next (if_pos (decide_eq_true h))

/-! The end of a block. -/

theorem exec_chkBlockEnd_flow {x : Upset} (h : n < 64) :
    exec (.chkBlockEnd n x) s = .next (if s.chkActive n then s.chkFlowEnd n else s) := by
  have hu : chkUnit n = true := decide_eq_true (by omega)
  refine congrArg Host.Outcome.next ?_
  rw [if_neg (by simp [hu]), if_pos h]

theorem exec_chkBlockEnd_window {x : Upset} (h : n < 256) (h' : 64 ≤ n) : exec (.chkBlockEnd n x) s = .next (s.chkWindowEnd n x) := by
  have hu : chkUnit n = true := decide_eq_true h
  refine congrArg Host.Outcome.next ?_
  rw [if_neg (by simp [hu]), if_neg (by omega)]

theorem chkWindowEnd_idle {x : Upset} (h : s.chkActive n = false ∨ s.chkLen n = 0 ∨ (s.chk n).written < s.chkLen n) :
    s.chkWindowEnd n x = s := if_pos (by simpa using h)

/-- A full block of an active window unit, whose memory takes no upset. -/
theorem chkWindowEnd_full (ha : s.chkActive n = true) (h0 : s.chkLen n ≠ 0) (hw : s.chkLen n ≤ (s.chk n).written) :
    s.chkWindowEnd n .none =
      (let w := (s.reg (chkWinA n)).toNat
       let z := s.modChk n fun c => { c with written := c.written - s.chkLen n }
       match z.ownerPieces (bits w 45 40) (bits w 39 0) (s.chkLen n) with
       | none => z.bump (chkReg n Reg.chkBlockCntP Reg.chkBlockCnt)
       | some ps =>
         let r := z.readPieces ps false 3
         if r.2.2 then (r.1.withFld (chkStatusA n) 6 6 1).bump (chkReg n Reg.chkBlockCntP Reg.chkBlockCnt)
         else (r.1.chkWindowAlive n r.2.1).chkCompare n r.2.1) :=
  if_neg (by simp [ha, h0]; omega)

end

/-- Settles O48, by the branches of a write of CHK_CTRL and of the end of a window block. -/
theorem checkUnits : Obligations.CheckUnits := by
  intro s src n v hn
  refine ⟨fun h => ?_, fun h => ?_, fun h hv => ?_, fun h hv => ?_, fun h hv h2 => ?_, fun h hv h1 => ?_,
    fun x h => exec_chkBlockEnd_flow h, fun x h hi => ?_, fun h ha h0 hw => ⟨fun hp => ?_, fun ps t b hp hr => ?_, fun ps t b hp hr => ?_⟩⟩
  · rw [exec_chkArm hn, chkCtrlWrite_busy h]
  · rw [exec_chkClose hn, chkCtrlWrite_busy h]
  · rw [exec_chkArm hn, chkCtrlWrite_badValue h hv]
  · rw [exec_chkClose hn, chkCtrlWrite_badValue h hv]
  · rw [exec_chkArm hn, chkCtrlWrite_ok h hv]
    obtain ⟨hb1, hb2⟩ := bit_or_two (v := v)
    simp only [hb1, hb2, h2, if_true]
    rfl
  · rw [exec_chkClose hn, chkCtrlWrite_ok h hv]
    obtain ⟨hb2, hb1⟩ := bit_or_four (v := v)
    simp only [hb1, hb2, h1, if_true]
    rfl
  · rw [exec_chkBlockEnd_window hn h, chkWindowEnd_idle hi]
  · rw [exec_chkBlockEnd_window hn h, chkWindowEnd_full ha h0 hw]
    exact congrArg Host.Outcome.next (by simp only [State.chkLen, hp])
  · rw [exec_chkBlockEnd_window hn h, chkWindowEnd_full ha h0 hw]
    exact congrArg Host.Outcome.next (by simp only [State.chkLen, hp, hr]; rfl)
  · rw [exec_chkBlockEnd_window hn h, chkWindowEnd_full ha h0 hw]
    exact congrArg Host.Outcome.next (by simp only [State.chkLen, hp, hr]; rfl)

end Sys2Proof.Machine
end

section
/-! PROOFS. What raising an interrupt, an event or a fault record leaves alone: all but the messages sent, the pending vectors, the fault queue, the
trace units and the registers that count and show such notices (R341, R342, R378, R379, R389). -/

namespace Sys2Proof.Machine

/-- Registers that notices are counted and shown in: POR_IBI_PENDING, POR_IRQ_MAP_i, and the record counts of the package and of the dies. -/
def noticeReg (a : Nat) : Prop :=
  a < 0x1000000 ∧ (a = 0x40 ∨ 0x1000 ≤ a ∧ a < 0x3000 ∨ a = 0x60040 ∨ a = 0x60060 ∨ a = 0x60068) ∨
    0x1000000 ≤ a ∧ (a % 0x100000 = 0xA000 ∨ a % 0x100000 = 0xA008 ∨ a % 0x100000 = 0xC018)

/-- A state without its notices and its registers. -/
def State.silent (s : State) : State :=
  { s with out := [], regs := [], msixPending := [], faults := { s.faults with queue := [] }, trace := [] }

theorem dieReg_mod {d off : Nat} (h : off < 0x100000) : 0x1000000 ≤ dieReg d off ∧ dieReg d off % 0x100000 = off := by
  unfold dieReg dieBase
  split <;> omega

theorem noticeReg_die {d off : Nat} (h : off = 0xA000 ∨ off = 0xA008 ∨ off = 0xC018) : noticeReg (dieReg d off) := by
  obtain ⟨hle, hmod⟩ := dieReg_mod (d := d) (off := off) (by omega)
  exact .inr ⟨hle, by omega⟩

theorem not_noticeReg_die {d off : Nat} (hlt : off < 0x100000) (h : off ≠ 0xA000 ∧ off ≠ 0xA008 ∧ off ≠ 0xC018) : ¬ noticeReg (dieReg d off) := by
  obtain ⟨hle, hmod⟩ := dieReg_mod (d := d) hlt
  rintro (⟨hlow, -⟩ | ⟨-, hoff⟩) <;> omega

theorem noticeReg_irqMap {i : Nat} (h : i < 1024) : noticeReg (Reg.porIrqMap i) := by
  refine .inl ?_
  unfold Reg.porIrqMap
  omega

theorem noticeReg_faultCounter (u : Unit6) (permanent : Bool) : noticeReg (faultCounter u permanent) := by
  unfold faultCounter
  cases permanent
  · split
    · exact .inl (by decide)
    · exact noticeReg_die (.inl rfl)
  · split
    · exact .inl (by decide)
    · exact noticeReg_die (.inr (.inl rfl))

/-- `s` is `o` with some notices more. -/
structure Noted (o s : State) : Prop where
  silent : s.silent = o.silent
  reg : ∀ a, ¬ noticeReg a → s.reg a = o.reg a
  ordered : keysFrom 0 o.regs = true → keysFrom 0 s.regs = true

namespace Noted

section
variable {o s : State}

theorem refl (s : State) : Noted s s := ⟨rfl, fun _ _ => rfl, id⟩

theorem trans {u : State} (h : Noted o s) (h' : Noted s u) : Noted o u :=
  ⟨h'.silent.trans h.silent, fun a ha => (h'.reg a ha).trans (h.reg a ha), fun ho => h'.ordered (h.ordered ho)⟩

theorem ite {a b : State} {c : Prop} [Decidable c] (ha : Noted o a) (hb : Noted o b) : Noted o (if c then a else b) := by
  split <;> assumption

/-! What stays. -/

theorem pending (h : Noted o s) : s.pending = o.pending := (congrArg State.pending h.silent :)
theorem clk (h : Noted o s) : s.clk = o.clk := (congrArg State.clk h.silent :)
theorem pins (h : Noted o s) : s.pins = o.pins := (congrArg State.pins h.silent :)
theorem tiles (h : Noted o s) : s.tiles = o.tiles := (congrArg State.tiles h.silent :)
theorem dies (h : Noted o s) : s.dies = o.dies := (congrArg State.dies h.silent :)
theorem commit (h : Noted o s) : s.commit = o.commit := (congrArg State.commit h.silent :)
theorem blocks (h : Noted o s) : s.blocks = o.blocks := (congrArg State.blocks h.silent :)
theorem mesh (h : Noted o s) : s.mesh = o.mesh := (congrArg State.mesh h.silent :)
theorem ctrls (h : Noted o s) : s.ctrls = o.ctrls := (congrArg State.ctrls h.silent :)
theorem ports (h : Noted o s) : s.ports = o.ports := (congrArg State.ports h.silent :)
theorem groups (h : Noted o s) : s.groups = o.groups := (congrArg State.groups h.silent :)
theorem bar4 (h : Noted o s) : s.bar4 = o.bar4 := (congrArg State.bar4 h.silent :)
theorem sqHeld (h : Noted o s) : s.sqHeld = o.sqHeld := (congrArg State.sqHeld h.silent :)
theorem unmasked (h : Noted o s) : s.unmasked = o.unmasked := (congrArg State.unmasked h.silent :)
theorem resets (h : Noted o s) : s.faults.resets = o.faults.resets := congrArg (fun s => s.faults.resets) h.silent

theorem fld {a hi lo : Nat} (h : Noted o s) (ha : ¬ noticeReg a) : s.fld a hi lo = o.fld a hi lo := by
  rw [State.fld, h.reg a ha, State.fld]

/-! Notices. -/

/-- A register that shows notices is written. -/
theorem withReg {a w} (h : Noted o s) (ha : noticeReg a) : Noted o (s.withReg a w) :=
  h.trans ⟨rfl, fun _ hb => State.reg_withReg_ne w fun he => hb (he ▸ ha), State.withReg_ordered⟩

theorem emit {x} (h : Noted o s) : Noted o (s.emit x) := h.trans ⟨rfl, fun _ _ => rfl, id⟩
theorem withMsixPending {x} (h : Noted o s) : Noted o (s.withMsixPending x) := h.trans ⟨rfl, fun _ _ => rfl, id⟩
theorem withTraceUnit {k x} (h : Noted o s) : Noted o (s.withTraceUnit k x) := h.trans ⟨rfl, fun _ _ => rfl, id⟩
theorem withQueue {q} (h : Noted o s) : Noted o (s.withFaults { s.faults with queue := q }) := h.trans ⟨rfl, fun _ _ => rfl, id⟩

theorem msix {v} (h : Noted o s) : Noted o (s.msix v) := ite h.emit (ite h h.withMsixPending)

theorem raiseIbi {g} (h : Noted o s) : Noted o (s.raiseIbi g) := by
  have hp := h.withReg (a := Reg.porIbiPending) (w := BitVec.ofNat 64 ((s.reg Reg.porIbiPending).toNat ||| 1 <<< (g - 1))) (.inl (by decide))
  exact ite h (ite hp.emit hp)

theorem raiseIrq {src} (h : Noted o s) (hsrc : src < 1024) : Noted o (s.raiseIrq src) := by
  have hm := h.withReg (w := wPut (s.reg (Reg.porIrqMap src)) 12 12 1) (noticeReg_irqMap hsrc)
  have hirq : Noted o (if s.fld (Reg.porIrqMap src) 11 11 = 1 then (s.withFld (Reg.porIrqMap src) 12 12 1).msix (s.fld (Reg.porIrqMap src) 10 0)
      else s.withFld (Reg.porIrqMap src) 12 12 1) := ite hm.msix hm
  unfold State.raiseIrq
  dsimp only
  split
  · exact hirq.raiseIbi
  · exact hirq

theorem traceEvent {d source event owner data} (h : Noted o s) : Noted o (s.traceEvent d source event owner data) :=
  ite h (ite (h.withReg (noticeReg_die (.inr (.inr rfl)))).withTraceUnit h.withTraceUnit)

theorem queueFault {r} (h : Noted o s) : Noted o (s.queueFault r) := by
  have irq {u : State} (hu : Noted o u) : Noted o (if u.fld Reg.fltIrqCfg 1 0 ≤ r.severity then u.raiseIrq 0 else u) :=
    ite (hu.raiseIrq (by decide)) hu
  have hlost := h.withReg (a := Reg.fltRecLostCnt) (w := satAdd (s.reg Reg.fltRecLostCnt) 1) (.inl (by decide))
  unfold State.queueFault
  dsimp only
  split
  · exact irq h.withQueue
  · split
    · split
      · exact irq hlost.withQueue
      · exact hlost
    · exact hlost

theorem raiseFault {u cause severity permanent spare detail} (h : Noted o s) : Noted o (s.raiseFault u cause severity permanent spare detail) :=
  have hc := (h.withReg (w := satAdd (s.reg (faultCounter u permanent)) 1) (noticeReg_faultCounter u permanent)).queueFault
    (r := ⟨s.reportAddr u, s.now, cause, severity, permanent, spare, s.ownerEpoch (s.unitOwner u), detail⟩)
  ite hc hc.traceEvent

end

end Noted

/-! Events of PWR_EVENT (R367). -/

/-- A bit of PWR_EVENT that is set stays; another is set, and its interrupt raised. -/
theorem State.powerEvent_noted (s : State) (i : Nat) :
    s.fld Reg.pwrEvent i i = 1 ∧ s.powerEvent i = s ∨ Noted (s.withFld Reg.pwrEvent i i 1) (s.powerEvent i) := by
  unfold State.powerEvent
  split
  · exact .inl ⟨‹_›, rfl⟩
  · exact .inr ((Noted.refl _).raiseIrq (by decide))

theorem not_noticeReg_pwrEvent : ¬ noticeReg Reg.pwrEvent := by
  rintro (⟨-, h⟩ | ⟨h, -⟩)
  · revert h
    decide
  · exact absurd h (by decide)

theorem State.powerEvent_silent (s : State) (i : Nat) : (s.powerEvent i).silent = s.silent := by
  rcases s.powerEvent_noted i with ⟨-, h⟩ | h
  · rw [h]
  · exact h.silent

theorem State.powerEvent_reg (s : State) (i : Nat) {a : Nat} (ha : ¬ noticeReg a) (hne : a ≠ Reg.pwrEvent) : (s.powerEvent i).reg a = s.reg a := by
  rcases s.powerEvent_noted i with ⟨-, h⟩ | h
  · rw [h]
  · exact (h.reg a ha).trans (State.reg_withReg_ne _ hne)

theorem State.powerEvent_set {s : State} (hs : keysFrom 0 s.regs = true) {i : Nat} (hi : i < 64) : (s.powerEvent i).fld Reg.pwrEvent i i = 1 := by
  rcases s.powerEvent_noted i with ⟨hset, h⟩ | h
  · rw [h, hset]
  · rw [h.fld not_noticeReg_pwrEvent, State.fld_withFld_self hs _ _ _ _ (Nat.le_succ i) hi]
    rw [Nat.add_sub_cancel_left]
    rfl

theorem State.powerEvent_ordered {s : State} (hs : keysFrom 0 s.regs = true) (i : Nat) : keysFrom 0 (s.powerEvent i).regs = true := by
  rcases s.powerEvent_noted i with ⟨-, h⟩ | h
  · rwa [h]
  · exact h.ordered (State.withFld_ordered hs)

theorem State.powerEvent_tiles (s : State) (i : Nat) : (s.powerEvent i).tiles = s.tiles := (congrArg State.tiles (s.powerEvent_silent i) :)
theorem State.powerEvent_clk (s : State) (i : Nat) : (s.powerEvent i).clk = s.clk := (congrArg State.clk (s.powerEvent_silent i) :)
theorem State.powerEvent_pins (s : State) (i : Nat) : (s.powerEvent i).pins = s.pins := (congrArg State.pins (s.powerEvent_silent i) :)
theorem State.powerEvent_dies (s : State) (i : Nat) : (s.powerEvent i).dies = s.dies := (congrArg State.dies (s.powerEvent_silent i) :)

end Sys2Proof.Machine
end

section
/-! PROOFS. What the adaptive loops leave alone: all but the bounds and overrides that the pins remember, DET_STATUS, DET_OVERRIDE_CNT, the
block clocks and notices (R313, R314, R356). -/

namespace Sys2Proof.Machine

/-! Registers that are written in a table of any order. -/

/-- A register reads a value other than its reset value. -/
theorem State.reg_withReg_of_ne {s : State} {a : Nat} {w : Word} (h : w ≠ regReset a) : (s.withReg a w).reg a = w := mapGet_mapPut_of_ne a h _

/-- A field reads a value other than that of its register at reset. -/
theorem State.fld_withFld_of_ne {s : State} {a hi lo v : Nat} (h : lo ≤ hi + 1) (hh : hi < 64) (hv : v % 2 ^ (hi + 1 - lo) ≠ wBits (regReset a) hi lo) :
    (s.withFld a hi lo v).fld a hi lo = v % 2 ^ (hi + 1 - lo) := by
  have hput := wBits_wPut_self (s.reg a) hi lo v h hh
  rw [State.fld, State.withFld, State.reg_withReg_of_ne fun he => hv (by rw [← hput, he]), hput]

/-- A field keeps a value other than that of its register at reset. -/
theorem State.fld_withFld_apart {s : State} {a hi lo v hi' lo' : Nat} (h : lo ≤ hi + 1) (hh : hi < 64) (hd : hi < lo' ∨ hi' < lo)
    (hv : s.fld a hi' lo' ≠ wBits (regReset a) hi' lo') : (s.withFld a hi lo v).fld a hi' lo' = s.fld a hi' lo' := by
  have hput := wBits_wPut_ne (s.reg a) hi lo v hi' lo' h hh hd
  rw [State.fld, State.withFld, State.reg_withReg_of_ne fun he => hv (by rw [State.fld, ← hput, he]), hput, State.fld]

/-! The relation. -/

/-- Registers that the adaptive loops write beside a loop's own. -/
def adaptReg (a : Nat) : Prop :=
  noticeReg a ∨ a = Reg.detStatus ∨ a = Reg.detOverrideCnt ∨ 0x1000000 ≤ a ∧ 0x2000 ≤ a % 0x100000 ∧ a % 0x100000 < 0x2100

theorem adaptReg_clkBlockA (b : Nat) : adaptReg (clkBlockA b) := by
  obtain ⟨hle, hmod⟩ := dieReg_mod (d := b / 32) (off := Reg.clkBlock (b % 32)) (by unfold Reg.clkBlock; omega)
  refine .inr (.inr (.inr ⟨hle, ?_⟩))
  rw [clkBlockA, hmod]
  unfold Reg.clkBlock
  omega

theorem not_adaptReg_die {d off : Nat} (hlt : off < 0x100000) (h : off ≠ 0xA000 ∧ off ≠ 0xA008 ∧ off ≠ 0xC018) (hc : off < 0x2000 ∨ 0x2100 ≤ off) :
    ¬ adaptReg (dieReg d off) := by
  obtain ⟨hle, hmod⟩ := dieReg_mod (d := d) hlt
  rintro (hn | he | he | ⟨-, hoff⟩)
  · exact not_noticeReg_die hlt h hn
  · exact absurd (he ▸ hle) (by decide)
  · exact absurd (he ▸ hle) (by decide)
  · omega

theorem not_adaptReg_package {a : Nat} (h : a < 0x1000000) (hn : ¬ noticeReg a) (hs : a ≠ Reg.detStatus) (ho : a ≠ Reg.detOverrideCnt) :
    ¬ adaptReg a := by
  rintro (h' | h' | h' | ⟨hle, -⟩)
  · exact hn h'
  · exact hs h'
  · exact ho h'
  · omega

/-- A state without its notices, its registers and what the adaptive loops remember. -/
def State.settled (s : State) : State := { s.silent with pins := { s.pins with overridden := [], pinned := [] } }

/-- `s` is `o` after some actions of the adaptive loops. -/
structure Adapted (o s : State) : Prop where
  settled : s.settled = o.settled
  reg : ∀ a, ¬ adaptReg a → s.reg a = o.reg a
  ordered : keysFrom 0 o.regs = true → keysFrom 0 s.regs = true

theorem Noted.adapted {o s : State} (h : Noted o s) : Adapted o s where
  settled := by rw [State.settled, h.silent, h.pins, State.settled]
  reg a ha := h.reg a fun hn => ha (.inl hn)
  ordered := h.ordered

namespace Adapted

section
variable {o s : State}

theorem refl (s : State) : Adapted s s := ⟨rfl, fun _ _ => rfl, id⟩

theorem trans {u : State} (h : Adapted o s) (h' : Adapted s u) : Adapted o u :=
  ⟨h'.settled.trans h.settled, fun a ha => (h'.reg a ha).trans (h.reg a ha), fun ho => h'.ordered (h.ordered ho)⟩

theorem ite {a b : State} {c : Prop} [Decidable c] (ha : Adapted o a) (hb : Adapted o b) : Adapted o (if c then a else b) := by
  split <;> assumption

theorem each {α : Type} {f : α → State → State} (hf : ∀ a s, Adapted o s → Adapted o (f a s)) :
    ∀ {l : List α} {s : State}, Adapted o s → Adapted o (forEach l f s)
  | [], _, h => h
  | a :: l, s, h => each hf (l := l) (hf a s h)

theorem tiles (h : Adapted o s) : s.tiles = o.tiles := (congrArg State.tiles h.settled :)
theorem dies (h : Adapted o s) : s.dies = o.dies := (congrArg State.dies h.settled :)
theorem ctrls (h : Adapted o s) : s.ctrls = o.ctrls := (congrArg State.ctrls h.settled :)
theorem ports (h : Adapted o s) : s.ports = o.ports := (congrArg State.ports h.settled :)
theorem clk (h : Adapted o s) : s.clk = o.clk := (congrArg State.clk h.settled :)
theorem commit (h : Adapted o s) : s.commit = o.commit := (congrArg State.commit h.settled :)
theorem hot (h : Adapted o s) : s.pins.hot = o.pins.hot := (congrArg (fun s => s.pins.hot) h.settled :)
theorem thermTrip (h : Adapted o s) : s.pins.thermTrip = o.pins.thermTrip := (congrArg (fun s => s.pins.thermTrip) h.settled :)

theorem fld {a hi lo : Nat} (h : Adapted o s) (ha : ¬ adaptReg a) : s.fld a hi lo = o.fld a hi lo := by
  rw [State.fld, h.reg a ha, State.fld]

/-- A register of the loops is written. -/
theorem withReg {a w} (h : Adapted o s) (ha : adaptReg a) : Adapted o (s.withReg a w) :=
  h.trans ⟨rfl, fun _ hb => State.reg_withReg_ne w fun he => hb (he ▸ ha), State.withReg_ordered⟩

theorem withFld {a hi lo v} (h : Adapted o s) (ha : adaptReg a) : Adapted o (s.withFld a hi lo v) := h.withReg ha

theorem bump {a} (h : Adapted o s) (ha : adaptReg a) : Adapted o (s.bump a) := h.withReg ha

theorem withOverridden {x} (h : Adapted o s) : Adapted o (s.withPins { s.pins with overridden := x }) := h.trans ⟨rfl, fun _ _ => rfl, id⟩

theorem overrideEnds {l k} (h : Adapted o s) : Adapted o (s.overrideEnds l k) := h.withOverridden

theorem pin {l k b} (h : Adapted o s) : Adapted o (s.pin l k b) := h.trans ⟨rfl, fun _ _ => rfl, id⟩

theorem override {l k u} (h : Adapted o s) : Adapted o (s.override l k u) := by
  have hcounted := ((h.withOverridden (x := s.pins.overridden ++ [(l, k)])).withFld (a := Reg.detStatus) (hi := 5) (lo := 5) (v := 1)
    (.inr (.inl rfl))).bump (a := Reg.detOverrideCnt) (.inr (.inr (.inl rfl)))
  have hraised := hcounted.trans ((Noted.refl _).raiseFault (u := u) (cause := 0x20) (severity := 0) (permanent := false) (spare := 15) (detail := 0)).adapted
  exact ite h (ite (hraised.withFld (.inr (.inl rfl))) hraised)

end

end Adapted

end Sys2Proof.Machine
end

section
/-! PROOFS. HBM controllers: training, accesses, row repairs and patrol (O47). -/

namespace Sys2Proof.Machine

open Sys2Proof

/-! Training. -/

theorem State.trained_iff {s : State} {k : Nat} (hk : k < 12) : s.trained k = true ↔ s.fld (memReg k Reg.memStatus) 0 0 = 1 := by
  rw [State.trained, decide_eq_true hk, Bool.true_and, bit, beq_iff_eq]
  rfl

theorem not_adaptReg_memStatus (k : Nat) : ¬ adaptReg (memReg k Reg.memStatus) := not_adaptReg_die (by decide) (by decide) (by decide)

theorem not_adaptReg_strDieInfo (k : Nat) : ¬ adaptReg (memReg k Reg.strDieInfo) := not_adaptReg_die (by decide) (by decide) (by decide)

theorem memStatus_ne_strDieInfo (k : Nat) : memReg k Reg.strDieInfo ≠ memReg k Reg.memStatus := by
  unfold memReg dieReg
  exact fun h => absurd (Nat.add_left_cancel h) (by decide)

theorem memStatus_trained_reset : ∀ k < 12, wBits (regReset (memReg k Reg.memStatus)) 0 0 = 0 := by decide +kernel

theorem strDieInfo_present_reset : ∀ k < 12, wBits (regReset (memReg k Reg.strDieInfo)) 18 18 = 0 := by decide +kernel

/-- The refresh rate is a field of MEM_STATUS. -/
theorem State.refreshAt_adapted (s : State) (k temp : Nat) :
    ∃ v, Adapted (s.withFld (memReg k Reg.memStatus) 13 11 v) (s.refreshAt k temp) := by
  unfold State.refreshAt
  dsimp only
  split
  · exact ⟨_, (Adapted.refl _).pin.overrideEnds⟩
  · exact ⟨_, .ite (Adapted.refl _).pin.override (Adapted.refl _).pin.overrideEnds⟩

section
variable {s : State} {k : Nat}

theorem hbmTrained_idle (h : s.pins.pwrGood = false ∨ s.trained k = true) (p : Bool) : s.hbmTrained k p = s :=
  if_pos (by rcases h with h | h <;> simp [h])

theorem hbmTrained_live (hk : k < 12) (hg : s.pins.pwrGood = true) (ht : s.trained k = false) (p : Bool) :
    s.hbmTrained k p = if p then (((((s.withFld (memReg k Reg.memStatus) 0 0 1).withFld (memReg k Reg.memStatus) 10 1 fullUnits).withPresent k).modCtrl k
      fun c => { c with failed := false })).refreshAt k (s.fld (memReg k Reg.memStatus) 21 14) else s.modCtrl k fun c => { c with failed := true } :=
  if_neg (by simp [hg, ht]; omega)

/-- A stack that trains is trained and present at its die. -/
theorem hbmTrained_passed (hk : k < 12) (hg : s.pins.pwrGood = true) (ht : s.trained k = false) :
    (s.hbmTrained k true).trained k = true ∧ (s.hbmTrained k true).fld (memReg k Reg.strDieInfo) 18 18 = 1 ∧ (s.hbmTrained k true).tiles = s.tiles := by
  have h0 := memStatus_trained_reset k hk
  have hset : (s.withFld (memReg k Reg.memStatus) 0 0 1).fld (memReg k Reg.memStatus) 0 0 = 1 :=
    State.fld_withFld_of_ne (by decide) (by decide) (by rw [h0]; decide)
  have hunits : ((s.withFld (memReg k Reg.memStatus) 0 0 1).withFld (memReg k Reg.memStatus) 10 1 fullUnits).fld (memReg k Reg.memStatus) 0 0 = 1 :=
    (State.fld_withFld_apart (by decide) (by decide) (by decide) (by rw [hset, h0]; decide)).trans hset
  have hstatus : (((s.withFld (memReg k Reg.memStatus) 0 0 1).withFld (memReg k Reg.memStatus) 10 1 fullUnits).withPresent k).fld
      (memReg k Reg.memStatus) 0 0 = 1 := (State.fld_withFld_other _ _ _ _ _ (memStatus_ne_strDieInfo k).symm).trans hunits
  have hpresent : (((s.withFld (memReg k Reg.memStatus) 0 0 1).withFld (memReg k Reg.memStatus) 10 1 fullUnits).withPresent k).fld
      (memReg k Reg.strDieInfo) 18 18 = 1 := State.fld_withFld_of_ne (by decide) (by decide) (by rw [strDieInfo_present_reset k hk]; decide)
  rw [hbmTrained_live hk hg ht, if_pos rfl]
  obtain ⟨v, hv⟩ := State.refreshAt_adapted ((((s.withFld (memReg k Reg.memStatus) 0 0 1).withFld (memReg k Reg.memStatus) 10 1 fullUnits).withPresent k).modCtrl k
    fun c => { c with failed := false }) k (s.fld (memReg k Reg.memStatus) 21 14)
  refine ⟨?_, ?_, hv.tiles⟩
  · rw [State.trained_iff hk, hv.fld (not_adaptReg_memStatus k), State.fld_withFld_apart (by decide) (by decide) (by decide) (by rw [State.modCtrl_fld, hstatus, h0]; decide),
      State.modCtrl_fld, hstatus]
  · rw [hv.fld (not_adaptReg_strDieInfo k), State.fld_withFld_other _ _ _ _ _ (memStatus_ne_strDieInfo k), State.modCtrl_fld, hpresent]

/-! Accesses. -/

theorem hbmAccess_not_idle {off : Nat} {op : HbmOp} {u : Upset}
    (h : ¬ (s.trained k = true ∧ off + opLength op ≤ s.capBytes k ∧ s.hbmHeld k off (opLength op) = false)) : s.hbmAccess k off op u = s :=
  if_pos (by
    by_contra hno
    simp only [not_or, Bool.not_eq_true, Bool.not_eq_false, not_lt] at hno
    exact h hno)

theorem hbmAccess_idle {off : Nat} {op : HbmOp} (u : Upset) :
    s.trained k = true ∧ off + opLength op ≤ s.capBytes k ∧ s.hbmHeld k off (opLength op) = false → s.hbmAccess k off op u =
      (let s0 := s.hbmUpset k u
       match op with
       | .read n spec => let r := s0.hbmRead k off n spec (if spec then 2 else 0); r.1.emit (.hbmReply k r.2.1 r.2.2)
       | .write d => (s0.hbmWrite k off d).1
       | .fetchAdd v => let r := s0.hbmAtomic k off (fun x => (x + v) % 2 ^ 64); r.1.emit (.hbmReply k r.2.1 r.2.2)
       | .cas a b => let r := s0.hbmAtomic k off (fun x => if x = a then b % 2 ^ 64 else x); r.1.emit (.hbmReply k r.2.1 r.2.2)) := by
  rintro ⟨ht, hc, hh⟩
  have hno : ¬ (¬ s.trained k = true ∨ s.capBytes k < off + opLength op ∨ s.hbmHeld k off (opLength op) = true) := by
    rw [ht, hh]
    simpa using hc
  exact if_neg hno

theorem hbmAtomic_good {off : Nat} {f : Nat → Nat} {s1 : State} {b : Bytes} (h : s.hbmRead k off 8 false 0 = (s1, b, false)) :
    s.hbmAtomic k off f = ((s1.hbmWrite k off (natLe 8 (f (leNat b)))).1, b, false) := by
  rw [State.hbmAtomic, h]
  rfl

theorem hbmAtomic_bad {off : Nat} {f : Nat → Nat} {s1 : State} {b : Bytes} (h : s.hbmRead k off 8 false 0 = (s1, b, true)) :
    s.hbmAtomic k off f = (s1, b, true) := by
  rw [State.hbmAtomic, h]
  rfl

/-! A stack without bad blocks and retired pseudo-channels. -/

theorem blockBad_intact (hb : (s.ctrl k).bad = []) (hd : (s.ctrl k).pchDead = []) (b : Nat) : s.blockBad k b = false := by
  rw [State.blockBad, hb, hd]
  rfl

theorem hbmRead_intact {off n src : Nat} (hb : (s.ctrl k).bad = []) (hd : (s.ctrl k).pchDead = []) :
    (s.hbmRead k off n false src).2 = (readBytes (s.ctrl k).mem off n, false) := by
  have hnone : (blocksOf off n).filter ((s.bumpBy (memReg k Reg.memRdCnt) (blocksOf off n).length).blockBad k) = [] :=
    List.filter_eq_nil_iff.2 fun b _ => by rw [blockBad_intact (s := s.bumpBy _ _) hb hd]; decide
  exact congrArg (fun l : List Nat => (readBytes (s.ctrl k).mem off n, !l.isEmpty)) hnone

/-- A write of one block's part puts its bytes in the stack. -/
theorem writeBlock_intact {off b : Nat} {d : Bytes} (ho : keysFrom 0 s.ctrls = true) (hb : (s.ctrl k).bad = []) (hd : (s.ctrl k).pchDead = []) :
    (s.writeBlock k off d b).1.ctrl k = { s.ctrl k with mem := writeBytes (s.ctrl k).mem (blockPart off d b).1 (blockPart off d b).2 } ∧
      keysFrom 0 (s.writeBlock k off d b).1.ctrls = true := by
  have hput : s.writeBlock k off d b =
      ((s.bump (memReg k Reg.memWrCnt)).withCtrl k { s.ctrl k with mem := writeBytes (s.ctrl k).mem (blockPart off d b).1 (blockPart off d b).2 }, false) :=
    (if_neg (by rw [hd]; exact Bool.false_ne_true)).trans (if_neg (by rw [hb]; exact Bool.false_ne_true))
  rw [hput]
  exact ⟨mapGet_mapPut_self _ _ _ ho, keysFrom_mapPut _ _ _ (Nat.zero_le _) ho⟩

end

/-- The part of data at `off` that lies in block `b`, for a block that it reaches. -/
theorem blockPart_eq {off : Nat} {d : Bytes} {b : Nat} (hlo : off < b * 64 + 64) (hhi : b * 64 < off + d.length) :
    (blockPart off d b).1 = max off (b * 64) ∧ (blockPart off d b).2.length = min (off + d.length) (b * 64 + 64) - max off (b * 64) ∧
      ∀ i, i < (blockPart off d b).2.length → (blockPart off d b).2.getD i 0 = nth d (max off (b * 64) - off + i) 0 := by
  have hlen : (blockPart off d b).2.length = min (off + d.length) (b * 64 + 64) - max off (b * 64) := by
    simp only [blockPart, slice, List.length_take, List.length_drop]
    omega
  refine ⟨rfl, hlen, fun i hi => ?_⟩
  rw [hlen] at hi
  simp only [blockPart, slice, nth, List.getD_eq_getElem?_getD, List.getElem?_take, List.getElem?_drop]
  rw [if_pos hi]

/-- Memory `m'` is `m` with the bytes of `d` from `off` that lie below `stop`. -/
def WrittenBelow (m m' : SMap Byte) (off : Nat) (d : Bytes) (stop : Nat) : Prop :=
  ∀ a, mapGet 0 a m' = if off ≤ a ∧ a < off + d.length ∧ a < stop then nth d (a - off) 0 else mapGet 0 a m

/-- One more block of the data is written. -/
theorem WrittenBelow.next {m m' : SMap Byte} {off b : Nat} {d : Bytes} (h : WrittenBelow m m' off d (b * 64)) (hm : Memory.wf m' = true)
    (hlo : off < b * 64 + 64) (hhi : b * 64 < off + d.length) :
    WrittenBelow m (writeBytes m' (blockPart off d b).1 (blockPart off d b).2) off d (b * 64 + 64) := by
  obtain ⟨hat, hlen, hval⟩ := blockPart_eq hlo hhi
  intro a
  by_cases hin : max off (b * 64) ≤ a ∧ a < min (off + d.length) (b * 64 + 64)
  · obtain ⟨i, rfl⟩ := Nat.exists_eq_add_of_le hin.1
    have hi : i < (blockPart off d b).2.length := by omega
    rw [hat, mapGet_writeBytes_in _ _ _ i 0 hm hi, hval i hi, if_pos (by omega)]
    congr 1
    omega
  · rw [mapGet_writeBytes_out _ _ _ _ (by omega), h a]
    refine if_congr ?_ rfl rfl
    omega

section
variable {s : State} {k off : Nat} {d : Bytes}

/-- `u` is `s` with the first `n` blocks of a write done at an intact stack. -/
structure BlocksWritten (s : State) (k off : Nat) (d : Bytes) (n : Nat) (u : State) : Prop where
  ordered : keysFrom 0 u.ctrls = true
  canonical : Memory.wf (u.ctrl k).mem = true
  good : (u.ctrl k).bad = []
  live : (u.ctrl k).pchDead = []
  written : WrittenBelow (s.ctrl k).mem (u.ctrl k).mem off d ((off / 64 + n) * 64)

theorem BlocksWritten.next {n : Nat} {u : State} (h : BlocksWritten s k off d n u) (hn : (off / 64 + n) * 64 < off + d.length) :
    BlocksWritten s k off d (n + 1) (u.writeBlock k off d (off / 64 + n)).1 := by
  obtain ⟨hctrl, hord⟩ := writeBlock_intact (b := off / 64 + n) (off := off) (d := d) h.ordered h.good h.live
  have hnext := h.written.next h.canonical (by omega) hn
  rw [show (off / 64 + n) * 64 + 64 = (off / 64 + (n + 1)) * 64 by omega] at hnext
  exact ⟨hord, by rw [hctrl]; exact Memory.wf_writeBytes _ _ h.canonical, by rw [hctrl]; exact h.good, by rw [hctrl]; exact h.live, by rw [hctrl]; exact hnext⟩

/-- The blocks that data reaches are written one after another. -/
theorem BlocksWritten.fold (h : BlocksWritten s k off d 0 s) : ∀ n, (∀ i < n, (off / 64 + i) * 64 < off + d.length) →
    BlocksWritten s k off d n
      (((List.range n).map (off / 64 + ·)).foldl (fun (r : State × Bool) b => let x := r.1.writeBlock k off d b; (x.1, r.2 || x.2)) (s, false)).1
  | 0, _ => h
  | n + 1, hn => by
    rw [List.range_succ, List.map_append, List.foldl_append]
    exact (h.fold n fun i hi => hn i (Nat.lt_succ_of_lt hi)).next (hn n (Nat.lt_succ_self n))

/-- A write puts its bytes in the stack and leaves the others alone. -/
theorem hbmWrite_intact (hw : s.wf = true) (hb : (s.ctrl k).bad = []) (hd : (s.ctrl k).pchDead = []) (h0 : 0 < d.length) (a : Nat) :
    readBytes ((s.hbmWrite k off d).1.ctrl k).mem a 1 =
      if off ≤ a ∧ a < off + d.length then [nth d (a - off) 0] else readBytes (s.ctrl k).mem a 1 := by
  have hs := Since.refl hw
  have hstart : BlocksWritten s k off d 0 s := ⟨hs.ctrlsOrd, hs.memCtrl k, hb, hd, fun a => (if_neg (by omega)).symm⟩
  have hmem := (hstart.fold ((off + d.length - 1) / 64 - off / 64 + 1) fun i hi => by omega).written
  have hlist : blocksOf off d.length = (List.range ((off + d.length - 1) / 64 - off / 64 + 1)).map (off / 64 + ·) := if_neg (by omega)
  rw [readBytes_one, readBytes_one, State.hbmWrite, hlist, hmem a]
  by_cases hin : off ≤ a ∧ a < off + d.length
  · rw [if_pos hin, if_pos (by omega)]
  · rw [if_neg hin, if_neg (by omega)]

/-! Patrol. -/

theorem patrolRead_off {u : Upset} (h : s.trained k = false ∨ (s.ctrl k).selfRefresh = true ∨ s.fld (memReg k Reg.memPatrol) 15 0 = 0 ∨
    s.hbmHeld k (64 * (s.ctrl k).patrolAt) 64 = true) : s.patrolRead k u = s :=
  if_pos (by simpa using h)

/-- Patrol of a good block goes on to the next, or begins anew behind the last. -/
theorem patrolRead_good (h : ¬ (s.trained k = false ∨ (s.ctrl k).selfRefresh = true ∨ s.fld (memReg k Reg.memPatrol) 15 0 = 0 ∨
      s.hbmHeld k (64 * (s.ctrl k).patrolAt) 64 = true)) (hg : s.blockBad k (s.ctrl k).patrolAt = false) :
    s.patrolRead k .none = if s.capBytes k ≤ 64 * ((s.ctrl k).patrolAt + 1) then (s.modCtrl k fun c => { c with patrolAt := 0 }).bump (memReg k Reg.memPatrolPassCnt)
      else s.modCtrl k fun c => { c with patrolAt := (s.ctrl k).patrolAt + 1 } := by
  refine (if_neg (by simpa using h)).trans ?_
  have hsame : (if (s.hbmUpset k .none).blockBad k (s.ctrl k).patrolAt = true then (s.hbmUpset k .none).hbmUncorr k (s.ctrl k).patrolAt 1
      else s.hbmUpset k .none) = s := if_neg (by rw [show s.hbmUpset k .none = s from rfl, hg]; exact Bool.false_ne_true)
  rw [hsame]
  split <;> rfl

end

/-- Settles O47, by the branches of each operation of a controller; a write by its blocks in turn. -/
theorem hbmControllers : Obligations.HbmControllers := by
  intro s k hk
  refine ⟨fun h p => congrArg Host.Outcome.next (hbmTrained_idle h p),
    fun hg ht => ⟨congrArg Host.Outcome.next (hbmTrained_live hk hg ht false), _, rfl, hbmTrained_passed hk hg ht⟩,
    fun off op u h => congrArg Host.Outcome.next (hbmAccess_not_idle h), fun off n sp u h => congrArg Host.Outcome.next (hbmAccess_idle (op := .read n sp) u h),
    fun off d u h => congrArg Host.Outcome.next (hbmAccess_idle (op := .write d) u h), fun off v u s1 b h hr => congrArg Host.Outcome.next ?_,
    fun off x y u s1 b h hr => congrArg Host.Outcome.next ?_, fun off v x y u s1 b h hr => ⟨congrArg Host.Outcome.next ?_, congrArg Host.Outcome.next ?_⟩,
    fun off n src hb hd => hbmRead_intact hb hd, fun off d hw hb hd h0 a => hbmWrite_intact hw hb hd h0 a, fun h => ?_, fun p h => ?_,
    fun h u => congrArg Host.Outcome.next (patrolRead_off h), fun h hg => ⟨fun hm => ?_, fun hl => ?_⟩⟩
  · exact (hbmAccess_idle (op := .fetchAdd v) u h).trans (by dsimp only; rw [hbmAtomic_good hr])
  · exact (hbmAccess_idle (op := .cas x y) u h).trans (by dsimp only; rw [hbmAtomic_good hr])
  · exact (hbmAccess_idle (op := .fetchAdd v) u h).trans (by dsimp only; rw [hbmAtomic_bad hr])
  · exact (hbmAccess_idle (op := .cas x y) u h).trans (by dsimp only; rw [hbmAtomic_bad hr])
  · exact congrArg Host.Outcome.next ((if_pos hk).trans (by rw [State.hbmRowRepaired, h]))
  · exact congrArg Host.Outcome.next ((if_pos hk).trans (by rw [State.hbmRowRepaired, h]))
  · exact congrArg Host.Outcome.next ((patrolRead_good h hg).trans (if_neg (by omega)))
  · exact congrArg Host.Outcome.next ((patrolRead_good h hg).trans (if_pos hl))

end Sys2Proof.Machine
end

section
/-! PROOFS. Route tables: arming, the latch, and drain bits (O42). -/

namespace Sys2Proof.Machine

open Sys2Proof

/-! Lookups in tables that are cut, moved and joined. -/

section
variable {α : Type} (d : α)

theorem mapGet_append (k : Nat) (m : SMap α) : ∀ l : SMap α, mapGet d k (l ++ m) = mapGet (mapGet d k m) k l
  | [] => rfl
  | (j, x) :: l => by
    simp only [List.cons_append, mapGet, mapGet_append k m l]

theorem mapGet_of_all_ne {k : Nat} : ∀ {m : SMap α}, (∀ p ∈ m, p.1 ≠ k) → mapGet d k m = d
  | [], _ => rfl
  | (j, x) :: m, h => by
    rw [mapGet, if_neg (h (j, x) (List.mem_cons_self ..)), mapGet_of_all_ne fun p hp => h p (List.mem_cons_of_mem _ hp)]

/-- Entries that are picked by their keys are found. -/
theorem mapGet_filter_key {k : Nat} {f : Nat → Bool} (hf : f k = true) : ∀ m : SMap α, mapGet d k (m.filter fun p => f p.1) = mapGet d k m
  | [] => rfl
  | (j, x) :: m => by
    by_cases hj : j = k
    · rw [List.filter_cons_of_pos (by rw [hj, hf]), mapGet, mapGet, if_pos hj, if_pos hj]
    · rw [mapGet, if_neg hj, ← mapGet_filter_key hf m, List.filter_cons]
      split
      · rw [mapGet, if_neg hj]
      · rfl

/-- Entries that move are found at their new keys. -/
theorem mapGet_shift (k n : Nat) : ∀ m : SMap α, mapGet d (k + n) (m.map fun p => (p.1 + n, p.2)) = mapGet d k m
  | [] => rfl
  | (j, x) :: m => by
    rw [List.map_cons, mapGet, mapGet, mapGet_shift k n m]
    exact if_congr (Nat.add_right_cancel_iff) rfl rfl

end

/-! Registers of the tables at reset. -/

/-- Offsets from its first that a row can cover. -/
def RegRow.span (r : RegRow) : Nat := r.strides.foldr (fun x n => x.1 * x.2 + n) 0

theorem strideHit_le : ∀ {l : List (Nat × Nat)} {d : Nat}, strideHit l d = true → d ≤ l.foldr (fun x n => x.1 * x.2 + n) 0
  | [], d, h => by
    rw [strideHit, beq_iff_eq] at h
    exact Nat.le_of_eq h
  | (st, n) :: l, d, h => by
    simp only [strideHit, Bool.and_eq_true, decide_eq_true_eq] at h
    obtain ⟨hlt, hrest⟩ := h
    have hmul := Nat.mul_le_mul_left st (Nat.le_of_lt hlt)
    have hdiv := Nat.div_add_mod d st
    have htail := strideHit_le hrest
    calc d = st * (d / st) + d % st := hdiv.symm
      _ ≤ st * n + l.foldr (fun x n => x.1 * x.2 + n) 0 := Nat.add_le_add hmul htail

/-- Rows of a port die that reach the tables hold zero at reset. -/
theorem tableRows_reset : ∀ rows ∈ [anyDieRows, portDieRows, portDieZeroRows], ∀ r ∈ rows, 0x200000 ≤ r.off + r.span → r.off < 0x300000 → rowReset r = 0 := by
  decide +kernel

theorem portDieRow_reset {n off : Nat} (h : 0x200000 ≤ off) (h' : off < 0x300000) : ∀ r, portDieRow n off = some r → rowReset r = 0 := by
  intro r hr
  have reached {rows : List RegRow} (ht : rows ∈ [anyDieRows, portDieRows, portDieZeroRows]) (hf : findRow rows off = some r) : rowReset r = 0 := by
    obtain ⟨hmem, hle, hhit⟩ := findRow_some hf
    have hspan : off - r.off ≤ r.span := strideHit_le hhit
    exact tableRows_reset rows ht r hmem (by omega) (by omega)
  rcases portDieRow_some hr with hf | hf | hf
  · exact reached (by simp) hf
  · exact reached (by simp) hf
  · exact reached (by simp) hf

theorem pdReg_eq (n off : Nat) : pdReg n off = 0x2000000 + n * 0x400000 + off := by
  rw [pdReg, dieBase, if_neg (by omega), Nat.add_sub_cancel_left]

theorem regReset_table {n off : Nat} (hn : n < 4) (h : 0x200000 ≤ off) (hoff : off < 0x300000) : regReset (pdReg n off) = 0 := by
  have hrow : regRow (pdReg n off) = portDieRow n off := by
    rw [pdReg_eq, regRow, if_neg (by omega), if_neg (by omega), if_neg (by omega), if_pos (by omega),
      show (0x2000000 + n * 0x400000 + off - 0x2000000) / 0x400000 = n by omega, show (0x2000000 + n * 0x400000 + off - 0x2000000) % 0x400000 = off by omega]
  rw [regReset, hrow]
  cases hr : portDieRow n off with
  | none => rfl
  | some r => exact portDieRow_reset h hoff r hr

/-! The pending tables become active. -/

section
variable {s : State} {n : Nat}

/-- An active entry is the pending one. -/
theorem tablesTake_active (hn : n < 4) {x : Nat} (hx : x < 0x80000) : (s.tablesTake n).reg (pdReg n (0x280000 + x)) = s.reg (pdReg n (0x200000 + x)) := by
  have hnew := regReset_table hn (off := 0x280000 + x) (by omega) (by omega)
  have hold := regReset_table hn (off := 0x200000 + x) (by omega) (by omega)
  rw [State.reg, State.reg, hnew, hold]
  show mapGet 0 _ (_ ++ _ ++ _) = _
  rw [mapGet_append, mapGet_append, mapGet_of_all_ne _ (m := s.regs.filter fun p => decide (p.1 < pdReg n 0x280000)),
    mapGet_of_all_ne _ (m := s.regs.filter fun p => decide (pdReg n 0x300000 ≤ p.1)), show pdReg n (0x280000 + x) = pdReg n (0x200000 + x) + 0x80000 by
      rw [pdReg_eq, pdReg_eq]; omega, mapGet_shift]
  · refine mapGet_filter_key 0 (f := fun k => decide (pdReg n 0x200000 ≤ k) && decide (k < pdReg n 0x280000)) ?_ s.regs
    simp only [Bool.and_eq_true, decide_eq_true_eq, pdReg_eq]
    omega
  · intro p hp
    have hle := (List.mem_filter.1 hp).2
    simp only [decide_eq_true_eq, pdReg_eq] at hle
    rw [pdReg_eq]
    omega
  · intro p hp
    have hlt := (List.mem_filter.1 hp).2
    simp only [decide_eq_true_eq, pdReg_eq] at hlt
    rw [pdReg_eq]
    omega

/-- Registers below the active tables stay. -/
theorem tablesTake_below {a : Nat} (ha : a < pdReg n 0x280000) : (s.tablesTake n).reg a = s.reg a := by
  show mapGet _ a (_ ++ _ ++ _) = _
  rw [List.append_assoc]
  refine mapGet_filter_append _ ha (fun p hp => ?_) s.regs
  rw [pdReg_eq] at ha
  simp only [List.mem_append, List.mem_map, List.mem_filter, Bool.and_eq_true, decide_eq_true_eq, pdReg_eq] at hp
  rcases hp with ⟨q, ⟨-, hq, -⟩, rfl⟩ | ⟨-, hp⟩
  · dsimp only
    omega
  · omega

/-! Commands and the latch. -/

theorem routeArm_good (h : s.pendTablesOk n = true) (ht : (s.reg (pdReg n Reg.rteLatchTime)).toNat ≤ s.now + 160000000000) :
    s.routeArm n = if (s.reg (pdReg n Reg.rteLatchTime)).toNat < s.now then (s.withFld (pdReg n Reg.rteStatus) 0 0 1).withFld (pdReg n Reg.rteStatus) 1 1 1
      else s.withFld (pdReg n Reg.rteStatus) 0 0 1 := if_pos (by rw [h, decide_eq_true ht]; rfl)

theorem routeArm_bad (h : s.pendTablesOk n = false ∨ s.now + 160000000000 < (s.reg (pdReg n Reg.rteLatchTime)).toNat) :
    s.routeArm n = s.withFld (pdReg n Reg.rteStatus) 4 4 1 := by
  refine if_neg ?_
  rcases h with h | h
  · rw [h]
    exact Bool.false_ne_true
  · rw [decide_eq_false (Nat.not_le.2 h), Bool.and_false]
    exact Bool.false_ne_true

/-- A class of a port of the die still drains. -/
theorem undrained_iff : ((diePorts n).any fun e => (List.range 8).any fun c => s.draining e c && !s.drained e c) = false ↔
    ∀ e c, e / 32 = n → c < 8 → s.draining e c = true → s.drained e c = true := by
  simp only [diePorts, List.any_eq_false, List.mem_map, List.mem_range]
  constructor
  · intro h e c he hc hdr
    have hports := h e ⟨e % 32, Nat.mod_lt _ (by decide), by omega⟩
    simp only [Bool.not_eq_true, List.any_eq_false, List.mem_range, Bool.and_eq_true, Bool.not_eq_true', not_and, Bool.not_eq_false] at hports
    exact hports c hc hdr
  · rintro h e ⟨i, hi, rfl⟩
    simp only [Bool.not_eq_true, List.any_eq_false, List.mem_range, Bool.and_eq_true, Bool.not_eq_true', not_and, Bool.not_eq_false]
    exact fun c hc hdr => h _ c (by omega) hc hdr

theorem routeLatch_armed (h : s.fld (pdReg n Reg.rteStatus) 0 0 = 1) :
    s.routeLatch n = (if ((diePorts n).any fun e => (List.range 8).any fun c => s.draining e c && !s.drained e c) = true then
      ((s.tablesTake n).withFld (pdReg n Reg.rteStatus) 0 0 0).withFld (pdReg n Reg.rteStatus) 3 3 1
      else (s.tablesTake n).withFld (pdReg n Reg.rteStatus) 0 0 0).drainsEnd n := if_neg (by rw [h]; decide)

end

/-- Settles O42, by the branches of the commands and the latch, and by lookups in the tables that the latch cuts and moves. -/
theorem routeLatches : Obligations.RouteLatches := by
  intro s src n hn
  refine ⟨fun hok ht hnow => congrArg Host.Outcome.next ((routeArm_good hok ht).trans (if_neg (by omega))),
    fun hok ht => congrArg Host.Outcome.next ((routeArm_good hok (by omega)).trans (if_pos ht)), fun h => congrArg Host.Outcome.next (routeArm_bad h), rfl,
    fun h => congrArg Host.Outcome.next (if_pos h), fun h => ⟨fun hd => congrArg Host.Outcome.next ?_, fun hd => congrArg Host.Outcome.next ?_⟩,
    fun _ => ⟨fun i hi => ?_, fun i hi => ⟨?_, ?_⟩, fun a ha => tablesTake_below ha⟩, fun p v hp => rfl, fun f => rfl⟩
  · rw [routeLatch_armed h, undrained_iff.2 hd, if_neg Bool.false_ne_true]
  · rw [routeLatch_armed h, if_pos (Bool.eq_true_of_not_eq_false fun hall => hd (undrained_iff.1 hall))]
  · exact tablesTake_active hn (x := 8 * i) (by omega)
  · have hreg := tablesTake_active (s := s) hn (x := 0x20000 + 16 * i) (by omega)
    rw [← Nat.add_assoc, ← Nat.add_assoc] at hreg
    exact hreg
  · have hreg := tablesTake_active (s := s) hn (x := 0x20008 + 16 * i) (by omega)
    rw [← Nat.add_assoc, ← Nat.add_assoc] at hreg
    exact hreg

end Sys2Proof.Machine
end

section
/-! PROOFS. What work on the queues and links of the port dies leaves alone: all but the ports, the queued frames, the packet buffers, the servo,
notices and counters (R219, R226, R229, R249). -/

namespace Sys2Proof.Machine

/-! Registers. -/

/-- Registers that work on queues and links does not write: those of the package and the tile dies that show no notices, and of a port die LNK_DIE_MODE
and the states of its ports and lanes. -/
def linkKeptReg (a : Nat) : Prop :=
  a < 0x2000000 ∧ ¬ noticeReg a ∨ 0x2000000 ≤ a ∧ (a % 0x400000 = 0x1000 ∨ 0x10000 ≤ a % 0x400000 ∧ a % 0x400000 < 0x12000 ∧ a % 0x100 = 0 ∨
    0x30000 ≤ a % 0x400000 ∧ a % 0x400000 < 0x31200 ∧ a % 0x20 = 0)

theorem pdReg_mod {n off : Nat} (h : off < 0x400000) : 0x2000000 ≤ pdReg n off ∧ pdReg n off % 0x400000 = off := by
  rw [pdReg, dieBase, if_neg (by omega)]
  omega

theorem not_linkKeptReg_pd {n off : Nat} (hlt : off < 0x400000) (h : off ≠ 0x1000) (hp : off < 0x10000 ∨ 0x12000 ≤ off ∨ off % 0x100 ≠ 0)
    (hl : off < 0x30000 ∨ 0x31200 ≤ off ∨ off % 0x20 ≠ 0) : ¬ linkKeptReg (pdReg n off) := by
  obtain ⟨hle, hmod⟩ := pdReg_mod (n := n) hlt
  rintro (⟨hlow, -⟩ | ⟨-, hoff⟩) <;> omega

theorem not_linkKeptReg_notice {a : Nat} (h : noticeReg a) : ¬ linkKeptReg a := by
  rintro (⟨-, hn⟩ | ⟨hle, hoff⟩)
  · exact hn h
  · rcases h with ⟨hlow, -⟩ | ⟨-, hn⟩ <;> omega

theorem linkKeptReg_lane {n l : Nat} (h : l < 144) : linkKeptReg (pdReg n (Reg.lnkLaneStatus l)) := by
  obtain ⟨hle, hmod⟩ := pdReg_mod (n := n) (off := Reg.lnkLaneStatus l) (by unfold Reg.lnkLaneStatus; omega)
  unfold Reg.lnkLaneStatus at *
  exact .inr ⟨hle, .inr (.inr (by omega))⟩

theorem linkKeptReg_portStatus (e : Nat) : linkKeptReg (portReg e Reg.lnkPortStatus) := by
  obtain ⟨hle, hmod⟩ := pdReg_mod (n := e / 32) (off := Reg.lnkPortStatus (e % 32)) (by unfold Reg.lnkPortStatus; omega)
  unfold portReg
  unfold Reg.lnkPortStatus at *
  exact .inr ⟨hle, .inr (.inl (by omega))⟩

theorem linkKeptReg_package {a : Nat} (h : a < 0x1000000) (hn : ¬ noticeReg a) : linkKeptReg a := .inl ⟨by omega, hn⟩

/-- Port counters that work on queues counts in. -/
theorem not_linkKeptReg_rxDrop (e : Nat) : ¬ linkKeptReg (portReg e Reg.lnkRxDropCnt) := by
  refine not_linkKeptReg_pd ?_ ?_ ?_ ?_ <;> (unfold Reg.lnkRxDropCnt; omega)

theorem not_linkKeptReg_swiDrop (e : Nat) : ¬ linkKeptReg (portReg e Reg.swiDropCnt) := by
  refine not_linkKeptReg_pd ?_ ?_ ?_ ?_ <;> (unfold Reg.swiDropCnt; omega)

theorem not_linkKeptReg_retireDrop (n : Nat) : ¬ linkKeptReg (pdReg n Reg.rteRetireDropCnt) := not_linkKeptReg_pd (by decide) (by decide) (by decide) (by decide)

/-! The relation. -/

/-- A state without its notices, its registers and what the port dies hold. -/
def State.unlinked (s : State) : State := { s.silent with ports := [], voq := [], localQ := [], injQ := [], pdies := [], servo := (0, []) }

/-- `s` is `o` after work on the queues and links of port dies. -/
structure LinkWork (o s : State) : Prop where
  unlinked : s.unlinked = o.unlinked
  reg : ∀ a, linkKeptReg a → s.reg a = o.reg a
  ordered : keysFrom 0 o.regs = true → keysFrom 0 s.regs = true

theorem Noted.linkWork {o s : State} (h : Noted o s) : LinkWork o s where
  unlinked := by rw [State.unlinked, h.silent, State.unlinked]
  reg a ha := h.reg a fun hn => not_linkKeptReg_notice hn ha
  ordered := h.ordered

namespace LinkWork

section
variable {o s : State}

theorem refl (s : State) : LinkWork s s := ⟨rfl, fun _ _ => rfl, id⟩

theorem trans {u : State} (h : LinkWork o s) (h' : LinkWork s u) : LinkWork o u :=
  ⟨h'.unlinked.trans h.unlinked, fun a ha => (h'.reg a ha).trans (h.reg a ha), fun ho => h'.ordered (h.ordered ho)⟩

theorem ite {a b : State} {c : Prop} [Decidable c] (ha : LinkWork o a) (hb : LinkWork o b) : LinkWork o (if c then a else b) := by
  split <;> assumption

theorem each {α : Type} {f : α → State → State} (hf : ∀ a s, LinkWork o s → LinkWork o (f a s)) :
    ∀ {l : List α} {s : State}, LinkWork o s → LinkWork o (forEach l f s)
  | [], _, h => h
  | a :: l, s, h => each hf (l := l) (hf a s h)

theorem fold {α : Type} {f : State → α → State} (hf : ∀ s a, LinkWork o s → LinkWork o (f s a)) :
    ∀ {l : List α} {s : State}, LinkWork o s → LinkWork o (l.foldl f s)
  | [], _, h => h
  | a :: l, s, h => fold hf (l := l) (hf s a h)

theorem tiles (h : LinkWork o s) : s.tiles = o.tiles := (congrArg State.tiles h.unlinked :)
theorem dies (h : LinkWork o s) : s.dies = o.dies := (congrArg State.dies h.unlinked :)
theorem pins (h : LinkWork o s) : s.pins = o.pins := (congrArg State.pins h.unlinked :)
theorem ctrls (h : LinkWork o s) : s.ctrls = o.ctrls := (congrArg State.ctrls h.unlinked :)
theorem blocks (h : LinkWork o s) : s.blocks = o.blocks := (congrArg State.blocks h.unlinked :)
theorem mesh (h : LinkWork o s) : s.mesh = o.mesh := (congrArg State.mesh h.unlinked :)
theorem commit (h : LinkWork o s) : s.commit = o.commit := (congrArg State.commit h.unlinked :)

theorem fld {a hi lo : Nat} (h : LinkWork o s) (ha : linkKeptReg a) : s.fld a hi lo = o.fld a hi lo := by
  rw [State.fld, h.reg a ha, State.fld]

theorem linkState (h : LinkWork o s) (e : Nat) : s.linkState e = o.linkState e := h.fld (linkKeptReg_portStatus e)

/-! Setters and registers. -/

theorem withReg {a w} (h : LinkWork o s) (ha : ¬ linkKeptReg a) : LinkWork o (s.withReg a w) :=
  h.trans ⟨rfl, fun _ hb => State.reg_withReg_ne w fun he => ha (he ▸ hb), State.withReg_ordered⟩

theorem withFld {a hi lo v} (h : LinkWork o s) (ha : ¬ linkKeptReg a) : LinkWork o (s.withFld a hi lo v) := h.withReg ha
theorem bumpBy {a n} (h : LinkWork o s) (ha : ¬ linkKeptReg a) : LinkWork o (s.bumpBy a n) := h.withReg ha
theorem bump {a} (h : LinkWork o s) (ha : ¬ linkKeptReg a) : LinkWork o (s.bump a) := h.withReg ha

theorem same {u : State} (h : LinkWork o s) (hu : u.unlinked = s.unlinked) (hr : u.regs = s.regs) : LinkWork o u :=
  h.trans ⟨hu, fun a _ => by rw [State.reg, hr, State.reg], fun ho => hr ▸ ho⟩

theorem emit {x} (h : LinkWork o s) : LinkWork o (s.emit x) := h.same rfl rfl
theorem withServo {x} (h : LinkWork o s) : LinkWork o (s.withServo x) := h.same rfl rfl
theorem withPort {e x} (h : LinkWork o s) : LinkWork o (s.withPort e x) := h.same rfl rfl
theorem modPort {e g} (h : LinkWork o s) : LinkWork o (s.modPort e g) := h.same rfl rfl
theorem withPdie {n x} (h : LinkWork o s) : LinkWork o (s.withPdie n x) := h.same rfl rfl
theorem modPdie {n g} (h : LinkWork o s) : LinkWork o (s.modPdie n g) := h.same rfl rfl
theorem withVoq {x} (h : LinkWork o s) : LinkWork o (s.withVoq x) := h.same rfl rfl
theorem withInjQ {x} (h : LinkWork o s) : LinkWork o (s.withInjQ x) := h.same rfl rfl
theorem withLocalQ {x} (h : LinkWork o s) : LinkWork o (s.withLocalQ x) := h.same rfl rfl
theorem withVoqOf {k x} (h : LinkWork o s) : LinkWork o (s.withVoqOf k x) := h.same rfl rfl
theorem withInjOf {k x} (h : LinkWork o s) : LinkWork o (s.withInjOf k x) := h.same rfl rfl
theorem modVoqOf {k g} (h : LinkWork o s) : LinkWork o (s.modVoqOf k g) := h.same rfl rfl

theorem raiseFault {u cause severity permanent spare detail} (h : LinkWork o s) : LinkWork o (s.raiseFault u cause severity permanent spare detail) :=
  h.trans (Noted.refl s).raiseFault.linkWork

/-! Frames in the switch. -/

theorem pkFault {n ptr c} (h : LinkWork o s) : LinkWork o (s.pkFault n ptr c) :=
  (h.bump (not_linkKeptReg_pd (by decide) (by decide) (by decide) (by decide))).withReg (not_linkKeptReg_pd (by decide) (by decide) (by decide) (by decide))

theorem pkPtr {n ptr op} (h : LinkWork o s) : LinkWork o (s.pkPtr n ptr op) := by
  unfold State.pkPtr
  split
  · exact h.pkFault
  · dsimp only
    split
    · exact (ite h.modPdie h).pkFault
    · exact ite h.modPdie.modPdie h.modPdie

theorem freeBufs {n l} (h : LinkWork o s) : LinkWork o (s.freeBufs n l) := h.each fun _ _ hu => hu.pkPtr

theorem sendFlow {p mask on} (h : LinkWork o s) : LinkWork o (s.sendFlow p mask on) := ite h.modPort (ite h.emit h.emit)

theorem flowCheck {p c} (h : LinkWork o s) : LinkWork o (s.flowCheck p c) := ite h (ite h.modPort.sendFlow (ite h.modPort.sendFlow h))

theorem release {die q} (h : LinkWork o s) : LinkWork o (s.release die q) := by
  unfold State.release
  cases q.credit with
  | some v => exact flowCheck (ite h.freeBufs.modPort.modPort h.freeBufs.modPort)
  | none => exact flowCheck (ite h.freeBufs.modPort h.freeBufs)

theorem retag {e c} (h : LinkWork o s) : LinkWork o (s.retag e c) := by
  unfold State.retag
  dsimp only
  split
  · exact h
  · split
    · exact h.modPort
    · exact h

theorem wfqIdle {e} (h : LinkWork o s) : LinkWork o (s.wfqIdle e) := ite h.modPort h

theorem headGone {e c i} (h : LinkWork o s) : LinkWork o (s.headGone e c i) := by
  unfold State.headGone
  dsimp only
  split
  · exact (ite h.modPort h).retag.wfqIdle
  · exact h.retag.wfqIdle

theorem withRoundQueue {e c i q} (h : LinkWork o s) : LinkWork o (s.withRoundQueue e c i q) := ite h.withVoqOf h.withInjOf

theorem correct {e c policer d} (h : LinkWork o s) : LinkWork o (s.correct e c policer d) := ite h.modPort h

theorem cutDrop {p v} (h : LinkWork o s) : LinkWork o (s.cutDrop p v) := by
  unfold State.cutDrop
  split
  · exact h
  · dsimp only
    split
    · exact h.modPort.release.wfqIdle
    · exact ite h.modVoqOf.release.headGone h.modVoqOf.release.wfqIdle
    · exact h.modPdie.release

theorem emptyStored {n} (h : LinkWork o s) : LinkWork o (s.emptyStored n) :=
  (((h.withVoq.withInjQ.withLocalQ.modPdie.each fun _ _ hu => hu.modPort).each fun _ _ hu => hu.modPort).each fun _ _ hu =>
    (hu.each fun _ _ hv => hv.retag).wfqIdle).each fun _ _ hu => hu.release

theorem dropStored {n} (h : LinkWork o s) : LinkWork o (s.dropStored n) := h.emptyStored.bumpBy (not_linkKeptReg_retireDrop n)

/-! Ports. -/

theorem unlock {e} (h : LinkWork o s) : LinkWork o (s.unlock e) :=
  ite (h.withFld (not_linkKeptReg_pd (by decide) (by decide) (by decide) (by decide))).withServo h

theorem advertise {e} (h : LinkWork o s) : LinkWork o (s.advertise e) := ite h h.emit

theorem dropQueued {e} (h : LinkWork o s) : LinkWork o (s.dropQueued e) := by
  unfold State.dropQueued
  refine wfqIdle (each (fun _ _ hu => hu.release) (bumpBy (modPort ?_) (not_linkKeptReg_retireDrop _)))
  refine fold (fun u c hu => fold (fun v i hv => ?_) hu) h
  split
  · exact hv
  · exact (hv.withRoundQueue.bumpBy (not_linkKeptReg_retireDrop _)).each fun _ _ hw => hw.release

theorem dropAsm {e v skip} (h : LinkWork o s) : LinkWork o (s.dropAsm e v skip) := by
  unfold State.dropAsm
  dsimp only
  split
  · exact h.modPort
  · split
    · exact (h.modPort.bump (not_linkKeptReg_rxDrop e)).modPort
    · exact (h.modPort.bump (not_linkKeptReg_rxDrop e)).correct.cutDrop.modPort.modPort

theorem dropStreams {e} (h : LinkWork o s) : LinkWork o (s.dropStreams e) := h.each fun _ _ hu => ite hu.dropAsm hu

/-- The state of a port changes: beside it no register that is kept. -/
theorem withLinkState {e v} : LinkWork (s.withFld (portReg e Reg.lnkPortStatus) 2 0 v) (s.withLinkState e v) := ite (.refl _) (refl _).unlock

theorem retirePort {e} : LinkWork (s.withFld (portReg e Reg.lnkPortStatus) 2 0 5) (s.retirePort e) :=
  (withLinkState.bumpBy (not_linkKeptReg_rxDrop e)).modPort.raiseFault.dropStreams.dropQueued

end

end LinkWork

end Sys2Proof.Machine
end

section
/-! PROOFS. The phases of start-up (O52): events of the phases, and default ports that begin to train. -/

namespace Sys2Proof.Machine

open Sys2Proof

/-! A port that begins to train. -/

/-- `s` is `o` after work on port `e`, which may write its status. -/
structure PortWork (e : Nat) (o s : State) : Prop where
  unlinked : s.unlinked = o.unlinked
  reg : ∀ a, linkKeptReg a → a ≠ portReg e Reg.lnkPortStatus → s.reg a = o.reg a
  ordered : keysFrom 0 o.regs = true → keysFrom 0 s.regs = true

theorem LinkWork.portWork {e : Nat} {o s : State} (h : LinkWork o s) : PortWork e o s := ⟨h.unlinked, fun a ha _ => h.reg a ha, h.ordered⟩

namespace PortWork

section
variable {e : Nat} {o s u : State}

theorem trans (h : PortWork e o s) (h' : PortWork e s u) : PortWork e o u :=
  ⟨h'.unlinked.trans h.unlinked, fun a ha hne => (h'.reg a ha hne).trans (h.reg a ha hne), fun ho => h'.ordered (h.ordered ho)⟩

theorem withStatus {w} (h : PortWork e o s) : PortWork e o (s.withReg (portReg e Reg.lnkPortStatus) w) :=
  h.trans ⟨rfl, fun _ _ hne => State.reg_withReg_ne w hne, State.withReg_ordered⟩

theorem withFld {hi lo v} (h : PortWork e o s) : PortWork e o (s.withFld (portReg e Reg.lnkPortStatus) hi lo v) := h.withStatus

theorem link (h : PortWork e o s) (h' : LinkWork s u) : PortWork e o u := h.trans h'.portWork

end

end PortWork

theorem portStatus_ne_lane (e n l : Nat) (h : l < 144) : pdReg n (Reg.lnkLaneStatus l) ≠ portReg e Reg.lnkPortStatus := by
  rw [portReg, pdReg_eq, pdReg_eq]
  unfold Reg.lnkLaneStatus Reg.lnkPortStatus
  omega

theorem portStatus_ne {e x : Nat} (h : x ≠ e) : portReg x Reg.lnkPortStatus ≠ portReg e Reg.lnkPortStatus := by
  rw [portReg, portReg, pdReg_eq, pdReg_eq]
  unfold Reg.lnkPortStatus
  omega

theorem State.firstLane_lt (s : State) (e : Nat) {i : Nat} (h : i < 2 ^ bits (s.portRec e) 2 1) : s.firstLane e + i < 144 := by
  have hw : bits (s.portRec e) 2 1 < 4 := Nat.mod_lt _ (by decide)
  have hf : s.firstLane e < 128 := Nat.mod_lt _ (by decide)
  have hp : 2 ^ bits (s.portRec e) 2 1 ≤ 2 ^ 3 := Nat.pow_le_pow_right (by decide) (by omega)
  omega

theorem State.portRec_of_dies {o s : State} (h : s.dies = o.dies) (e : Nat) : s.portRec e = o.portRec e := by
  rw [State.portRec, State.die, h, State.portRec, State.die]

theorem State.portOn_of_dies {o s : State} (h : s.dies = o.dies) (e : Nat) : s.portOn e = o.portOn e := by
  rw [State.portOn, State.portRec_of_dies h, State.portOn]

/-- The good lanes are those of the die's record whose lane registers say so. -/
theorem State.goodLanes_congr {o s : State} {e : Nat} (hd : s.dies = o.dies)
    (hl : ∀ l < 144, s.fld (pdReg (e / 32) (Reg.lnkLaneStatus l)) 0 0 = o.fld (pdReg (e / 32) (Reg.lnkLaneStatus l)) 0 0) : s.goodLanes e = o.goodLanes e := by
  have hrec := State.portRec_of_dies hd e
  unfold State.goodLanes
  rw [hrec]
  refine congrArg maskOf (List.filter_congr fun i hi => ?_)
  have hlt := o.firstLane_lt e (List.mem_range.1 hi)
  rw [State.laneRetired, State.laneRetired, State.firstLane, hrec, ← State.firstLane, hl _ hlt]

section
variable {s : State} {e : Nat}

theorem trainPort_work : PortWork e s (s.trainPort e) := by
  have hset : PortWork e s ((s.withReg (portReg e Reg.lnkPortStatus) 1).unlock e) := (PortWork.withStatus (LinkWork.refl s).portWork).link (LinkWork.refl _).unlock
  unfold State.trainPort
  dsimp only
  split
  · exact hset.link (LinkWork.refl _).advertise
  · split
    · exact hset.withFld.withFld.link (LinkWork.refl _).advertise
    · exact (hset.withFld (hi := 2) (lo := 0) (v := 5)).link LinkWork.retirePort

/-- A port whose lanes are all good trains. -/
theorem trainPort_state (ho : keysFrom 0 s.regs = true) (hgood : s.goodLanes e = 2 ^ 2 ^ bits (s.portRec e) 2 1 - 1) : (s.trainPort e).linkState e = 1 := by
  have hset : PortWork e s ((s.withReg (portReg e Reg.lnkPortStatus) 1).unlock e) := (PortWork.withStatus (LinkWork.refl s).portWork).link (LinkWork.refl _).unlock
  have hdies : ((s.withReg (portReg e Reg.lnkPortStatus) 1).unlock e).dies = s.dies := (congrArg State.dies hset.unlinked :)
  have hsame : ((s.withReg (portReg e Reg.lnkPortStatus) 1).unlock e).goodLanes e = s.goodLanes e :=
    State.goodLanes_congr hdies fun l hl => by rw [State.fld, hset.reg _ (linkKeptReg_lane hl) (portStatus_ne_lane e _ l hl), State.fld]
  have htrain : s.trainPort e = ((s.withReg (portReg e Reg.lnkPortStatus) 1).unlock e).advertise e := if_pos (hsame.trans hgood)
  have hwork : LinkWork (s.withReg (portReg e Reg.lnkPortStatus) 1) (((s.withReg (portReg e Reg.lnkPortStatus) 1).unlock e).advertise e) :=
    (LinkWork.refl _).unlock.advertise
  rw [htrain, hwork.linkState, State.linkState, State.fld, State.reg_withReg_self ho]
  rfl

end

/-! Default ports. -/

/-- A port of a die begins to train, or is shown disabled. -/
def State.startPort (n e : Nat) (s : State) : State :=
  if s.portOn e then
    let s1 := forEach (List.range (2 ^ bits (s.portRec e) 2 1)) (fun i s =>
      s.withReg (pdReg n (Reg.lnkLaneStatus (s.firstLane e + i)))
        (BitVec.ofNat 64 ((s.reg (pdReg n (Reg.lnkLaneStatus (s.firstLane e + i)))).toNat % 2 + 2 + (e % 32) <<< 2))) s
    if s.linkState e = 5 then s1 else (s1.withPort e Port.reset).trainPort e
  else ((s.withPort e Port.reset).withReg (portReg e Reg.lnkPortStatus) 0).unlock e

theorem State.startPorts_eq (s : State) (n : Nat) : s.startPorts n = forEach ((List.range 32).map (32 * n + ·)) (State.startPort n)
    (forEach (List.range 128) (fun l s =>
      s.withReg (pdReg n (Reg.lnkLaneStatus l)) (BitVec.ofNat 64 ((s.reg (pdReg n (Reg.lnkLaneStatus l))).toNat % 2))) s) := rfl

/-- `s` is `o` after lanes are named to ports: what the lanes' registers say of retirement, and all else, stays. -/
structure LanesNamed (o s : State) : Prop where
  unlinked : s.unlinked = o.unlinked
  reg : ∀ a, (∀ n l, l < 144 → a ≠ pdReg n (Reg.lnkLaneStatus l)) → s.reg a = o.reg a
  lane : ∀ a, s.fld a 0 0 = o.fld a 0 0
  ordered : keysFrom 0 o.regs = true → keysFrom 0 s.regs = true

namespace LanesNamed

variable {o s : State}

theorem refl (s : State) : LanesNamed s s := ⟨rfl, fun _ _ => rfl, fun _ => rfl, id⟩

/-- A lane's register is written and keeps its lowest bit. -/
theorem name (h : LanesNamed o s) (ho : keysFrom 0 o.regs = true) {n l : Nat} (hl : l < 144) (x : Nat) (hx : x % 2 = 0) :
    LanesNamed o (s.withReg (pdReg n (Reg.lnkLaneStatus l)) (BitVec.ofNat 64 ((s.reg (pdReg n (Reg.lnkLaneStatus l))).toNat % 2 + x))) := by
  refine ⟨h.unlinked, fun a ha => (State.reg_withReg_ne _ (ha n l hl)).trans (h.reg a ha), fun a => ?_, fun _ => State.withReg_ordered (h.ordered ho)⟩
  by_cases he : a = pdReg n (Reg.lnkLaneStatus l)
  · rw [← h.lane a, State.fld, he, State.reg_withReg_self (h.ordered ho), State.fld, wBits, wBits, bits, bits, BitVec.toNat_ofNat]
    simp only [Nat.shiftRight_zero]
    omega
  · rw [State.fld, State.reg_withReg_ne _ he, ← State.fld, h.lane a]

theorem each {f : Nat → State → State} : ∀ {l : List Nat} {s : State}, (∀ i ∈ l, ∀ s, LanesNamed o s → LanesNamed o (f i s)) →
    LanesNamed o s → LanesNamed o (forEach l f s)
  | [], _, _, h => h
  | a :: l, s, hf, h => each (l := l) (fun i hi => hf i (List.mem_cons_of_mem a hi)) (hf a (List.mem_cons_self ..) s h)

theorem dies (h : LanesNamed o s) : s.dies = o.dies := (congrArg State.dies h.unlinked :)

end LanesNamed

/-- What becomes of port `e` of `o`. -/
structure Begun (o s : State) (e : Nat) : Prop where
  off : o.portOn e = false → s.linkState e = 0
  retired : o.portOn e = true → o.linkState e = 5 → s.linkState e = 5
  trains : o.portOn e = true → o.linkState e ≠ 5 → o.goodLanes e = 2 ^ 2 ^ bits (o.portRec e) 2 1 - 1 → s.linkState e = 1

/-- `s` is `o` with the ports below `m` begun. -/
structure PortsBegun (o : State) (m : Nat) (s : State) : Prop where
  unlinked : s.unlinked = o.unlinked
  package : ∀ a, a < 0x1000000 → ¬ noticeReg a → s.reg a = o.reg a
  lane : ∀ n l, l < 144 → s.fld (pdReg n (Reg.lnkLaneStatus l)) 0 0 = o.fld (pdReg n (Reg.lnkLaneStatus l)) 0 0
  ahead : ∀ e, m ≤ e → s.linkState e = o.linkState e
  begun : ∀ e, e < m → Begun o s e
  ordered : keysFrom 0 s.regs = true

theorem portStatus_high (e : Nat) : 0x1000000 ≤ portReg e Reg.lnkPortStatus := by
  rw [portReg, pdReg_eq]
  omega

theorem lane_high (n l : Nat) : 0x1000000 ≤ pdReg n (Reg.lnkLaneStatus l) := by
  rw [pdReg_eq]
  omega

namespace PortsBegun

variable {o s u : State} {m e : Nat}

theorem dies (h : PortsBegun o m s) : s.dies = o.dies := (congrArg State.dies h.unlinked :)
theorem tiles (h : PortsBegun o m s) : s.tiles = o.tiles := (congrArg State.tiles h.unlinked :)
theorem pins (h : PortsBegun o m s) : s.pins = o.pins := (congrArg State.pins h.unlinked :)

/-- Lanes are named between ports. -/
theorem named (h : PortsBegun o m s) (h' : LanesNamed s u) : PortsBegun o m u := by
  have hstate (e : Nat) : u.linkState e = s.linkState e := by
    rw [State.linkState, State.fld, h'.reg _ fun n l hl => (portStatus_ne_lane e n l hl).symm, ← State.fld, ← State.linkState]
  refine ⟨h'.unlinked.trans h.unlinked, fun a ha hn => (h'.reg a fun n l _ => ?_).trans (h.package a ha hn),
    fun n l hl => (h'.lane _).trans (h.lane n l hl), fun e he => (hstate e).trans (h.ahead e he), fun e he => ?_, h'.ordered h.ordered⟩
  · have hlane := lane_high n l
    omega
  · obtain ⟨hoff, hret, htr⟩ := h.begun e he
    exact ⟨fun h0 => (hstate e).trans (hoff h0), fun h0 h1 => (hstate e).trans (hret h0 h1), fun h0 h1 h2 => (hstate e).trans (htr h0 h1 h2)⟩

/-- The next port begins. -/
theorem next (h : PortsBegun o m s) (h' : PortWork m s u) (hb : Begun o u m) : PortsBegun o (m + 1) u := by
  have hstate (e : Nat) (he : e ≠ m) : u.linkState e = s.linkState e := by
    rw [State.linkState, State.fld, h'.reg _ (linkKeptReg_portStatus e) (portStatus_ne he), ← State.fld, ← State.linkState]
  refine ⟨h'.unlinked.trans h.unlinked, fun a ha hn => (h'.reg a (linkKeptReg_package ha hn) ?_).trans (h.package a ha hn),
    fun n l hl => ?_, fun e he => (hstate e (by omega)).trans (h.ahead e (by omega)), fun e he => ?_, h'.ordered h.ordered⟩
  · have hport := portStatus_high m
    omega
  · rw [State.fld, h'.reg _ (linkKeptReg_lane hl) (portStatus_ne_lane m n l hl), ← State.fld, h.lane n l hl]
  · by_cases heq : e = m
    · exact heq ▸ hb
    · obtain ⟨hoff, hret, htr⟩ := h.begun e (by omega)
      exact ⟨fun h0 => (hstate e heq).trans (hoff h0), fun h0 h1 => (hstate e heq).trans (hret h0 h1),
        fun h0 h1 h2 => (hstate e heq).trans (htr h0 h1 h2)⟩

/-- A port of die `n` begins. -/
theorem startPort (h : PortsBegun o m s) (n : Nat) (hn : m / 32 = n) : PortsBegun o (m + 1) (s.startPort n m) := by
  have hon := State.portOn_of_dies h.dies m
  have hahead := h.ahead m (Nat.le_refl m)
  unfold State.startPort
  by_cases hport : s.portOn m = true
  · have hlanes : LanesNamed s (forEach (List.range (2 ^ bits (s.portRec m) 2 1)) (fun i s => s.withReg (pdReg n (Reg.lnkLaneStatus (s.firstLane m + i)))
        (BitVec.ofNat 64 ((s.reg (pdReg n (Reg.lnkLaneStatus (s.firstLane m + i)))).toNat % 2 + 2 + (m % 32) <<< 2))) s) := by
      refine LanesNamed.each (fun i hi u hu => ?_) (.refl s)
      have hlt : u.firstLane m + i < 144 := by
        rw [State.firstLane, State.portRec_of_dies hu.dies]
        exact s.firstLane_lt m (List.mem_range.1 hi)
      rw [Nat.add_assoc]
      exact hu.name h.ordered hlt _ (by rw [Nat.shiftLeft_eq]; omega)
    have hnamed := h.named hlanes
    rw [if_pos hport]
    dsimp only
    split
    · rename_i h5
      refine hnamed.next (LinkWork.refl _).portWork ⟨fun h0 => ?_, fun _ _ => (hnamed.ahead m (Nat.le_refl m)).trans (hahead.symm.trans h5),
        fun _ hne => absurd (hahead.symm.trans h5) hne⟩
      exact absurd (hon.symm.trans hport |>.symm.trans h0) (by decide)
    · rename_i h5
      have hreset := (LinkWork.refl (forEach (List.range (2 ^ bits (s.portRec m) 2 1)) (fun i s => s.withReg (pdReg n (Reg.lnkLaneStatus (s.firstLane m + i)))
        (BitVec.ofNat 64 ((s.reg (pdReg n (Reg.lnkLaneStatus (s.firstLane m + i)))).toNat % 2 + 2 + (m % 32) <<< 2))) s)).withPort (e := m) (x := Port.reset)
      refine hnamed.next (hreset.portWork.trans trainPort_work) ⟨fun h0 => ?_, fun _ h5' => absurd (hahead.trans h5') h5, fun _ _ hgood => ?_⟩
      · exact absurd (hon.symm.trans hport |>.symm.trans h0) (by decide)
      · have hd := hreset.dies.trans hnamed.dies
        refine trainPort_state (hreset.ordered hnamed.ordered) ?_
        rw [State.portRec_of_dies hd, ← hgood]
        exact State.goodLanes_congr hd fun l hl => hnamed.lane _ l hl
  · rw [if_neg hport]
    have hoff : PortWork m s (((s.withPort m Port.reset).withReg (portReg m Reg.lnkPortStatus) 0).unlock m) :=
      ((LinkWork.refl s).withPort.portWork.withStatus).link (LinkWork.refl _).unlock
    refine h.next hoff ⟨fun _ => ?_, fun h0 => absurd (hon.trans h0) hport, fun h0 => absurd (hon.trans h0) hport⟩
    rw [LinkWork.linkState (LinkWork.refl _).unlock, State.linkState, State.fld, State.reg_withReg_self (s := s.withPort m Port.reset) h.ordered]
    rfl

/-- The ports of a die begin in turn. -/
theorem ports (n : Nat) : ∀ k, k ≤ 32 → PortsBegun o (32 * n) s → PortsBegun o (32 * n + k) (forEach ((List.range k).map (32 * n + ·)) (State.startPort n) s)
  | 0, _, h => h
  | k + 1, hk, h => by
    rw [List.range_succ, List.map_append, forEach, List.foldl_append]
    exact (ports n k (by omega) h).startPort n (by omega)

theorem startPorts (n : Nat) (h : PortsBegun o (32 * n) s) : PortsBegun o (32 * (n + 1)) (s.startPorts n) := by
  rw [State.startPorts_eq]
  refine ports n 32 (Nat.le_refl _) (h.named (LanesNamed.each (fun l hl u hu => ?_) (.refl s)))
  exact hu.name (x := 0) h.ordered (by have := List.mem_range.1 hl; omega) rfl

theorem allPorts : ∀ k, PortsBegun o 0 s → PortsBegun o (32 * k) (forEach (List.range k) (fun n s => s.startPorts n) s)
  | 0, h => h
  | k + 1, h => by
    have hlast : forEach (List.range (k + 1)) (fun n s => s.startPorts n) s = (forEach (List.range k) (fun n s => s.startPorts n) s).startPorts k := by
      rw [forEach, List.range_succ, List.foldl_append, List.foldl_cons, List.foldl_nil, forEach]
    rw [hlast]
    exact (allPorts k h).startPorts k

end PortsBegun

/-! Events of the phases. -/

theorem State.seqPhase_set {s : State} (hs : keysFrom 0 s.regs = true) {v : Nat} (hv : v < 16) : (s.withFld Reg.pwrSeqStatus 3 0 v).seqPhase = v :=
  (State.fld_withFld_self hs _ _ _ _ (by decide) (by decide)).trans (Nat.mod_eq_of_lt hv)

section
variable {s : State} (hs : keysFrom 0 s.regs = true)
include hs

/-- The keep clock locks in phase KEEP_UP. -/
theorem keepLock_locks (h : s.seqPhase = 1) : ∃ t, exec .keepLock s = .next t ∧ t.seqPhase = 2 ∧ t.fld Reg.clkStatus 1 0 = 3 ∧
    t.clk = { s.clk with ftm := 0, frac := 0, kclk := 0 } ∧ (∀ a, a ≠ Reg.clkStatus → a ≠ Reg.pwrSeqStatus → t.reg a = s.reg a) ∧
    (t.withRegs s.regs).withClk s.clk = s := by
  have hset : ((s.withFld Reg.clkStatus 1 0 3).withClk { s.clk with ftm := 0, frac := 0, kclk := 0 }).fld Reg.clkStatus 1 0 = 3 :=
    (State.withClk_fld (s := s.withFld Reg.clkStatus 1 0 3)).trans (State.fld_withFld_self hs _ _ _ _ (by decide) (by decide))
  refine ⟨_, congrArg Host.Outcome.next (if_pos h), State.seqPhase_set (State.withFld_ordered hs) (by decide), ?_, rfl, fun a ha ha' => ?_, rfl⟩
  · rw [State.fld_withFld_other _ _ _ _ _ (by decide), hset]
  · exact (State.reg_withReg_ne _ ha').trans (State.reg_withReg_ne _ ha)

/-- The reference is lost once the keep clock has locked: holdover, and its event. -/
theorem refLost_locked (h : s.fld Reg.clkStatus 0 0 = 1) : ∃ t, exec .refLost s = .next t ∧ t.fld Reg.clkStatus 2 1 = 2 ∧ t.fld Reg.pwrEvent 1 1 = 1 ∧
    t.tiles = s.tiles ∧ t.clk = s.clk := by
  refine ⟨_, congrArg Host.Outcome.next (if_pos (decide_eq_true h)), ?_, State.powerEvent_set (State.withFld_ordered hs) (by decide),
    State.powerEvent_tiles _ _, State.powerEvent_clk _ _⟩
  rw [State.fld, State.powerEvent_reg _ _ (by unfold noticeReg; decide) (by decide), ← State.fld]
  exact State.fld_withFld_self hs _ _ _ _ (by decide) (by decide)

end

/-- The state in which the supplies have become good and no port has begun. -/
def State.supplied (s : State) : State :=
  ((s.withPins { s.pins with pwrGood := true, goodAt := s.clk.kclk }).withFld Reg.pwrSeqStatus 3 0 4).withFld Reg.pwrState 2 0 2

section
variable {s : State}

theorem State.supplied_fld {a : Nat} (ha : 0x1000000 ≤ a) (hi lo : Nat) : s.supplied.fld a hi lo = s.fld a hi lo := by
  have hne {b : Nat} (hb : b < 0x1000000) : a ≠ b := by omega
  rw [State.supplied, State.fld_withFld_other _ _ _ _ _ (hne (by decide)), State.fld_withFld_other _ _ _ _ _ (hne (by decide)), State.withPins_fld]

theorem State.supplied_linkState (e : Nat) : s.supplied.linkState e = s.linkState e := State.supplied_fld (portStatus_high e) 2 0

theorem State.supplied_goodLanes (e : Nat) : s.supplied.goodLanes e = s.goodLanes e :=
  State.goodLanes_congr rfl fun l _ => State.supplied_fld (lane_high _ l) 0 0

variable (hs : keysFrom 0 s.regs = true)
include hs

theorem State.supplied_ordered : keysFrom 0 s.supplied.regs = true := State.withFld_ordered (State.withFld_ordered (State.withPins_regs (s := s) ▸ hs))

theorem State.supplied_seqPhase : s.supplied.fld Reg.pwrSeqStatus 3 0 = 4 := by
  rw [State.supplied, State.fld_withFld_other _ _ _ _ _ (by decide), State.fld_withFld_self (by rw [State.withPins_regs, hs]) _ _ _ _ (by decide) (by decide)]
  rfl

theorem State.supplied_pwrState : s.supplied.fld Reg.pwrState 2 0 = 2 :=
  State.fld_withFld_self (State.withFld_ordered (State.withPins_regs (s := s) ▸ hs)) _ _ _ _ (by decide) (by decide)

/-- PWR_GOOD in phase POWER: RUN, and the default ports begin. -/
theorem powerGood_runs (h : s.seqPhase = 3) (hr : s.pins.regulators = true) : ∃ t, exec .pwrGood s = .next t ∧ t.seqPhase = 4 ∧ t.fld Reg.pwrState 2 0 = 2 ∧
    t.pins = { s.pins with pwrGood := true, goodAt := s.clk.kclk } ∧ t.tiles = s.tiles ∧ t.dies = s.dies ∧ ∀ e, e < 128 → Begun s t e := by
  have hstart : PortsBegun s.supplied 0 s.supplied :=
    ⟨rfl, fun _ _ _ => rfl, fun _ _ _ => rfl, fun _ _ => rfl, fun e he => absurd he (Nat.not_lt_zero e), State.supplied_ordered hs⟩
  have hbegun := PortsBegun.allPorts 4 hstart
  have hfld {a hi lo : Nat} (ha : a < 0x1000000) (hn : ¬ noticeReg a) :
      (forEach (List.range 4) (fun n s => s.startPorts n) s.supplied).fld a hi lo = s.supplied.fld a hi lo := by
    rw [State.fld, hbegun.package a ha hn, State.fld]
  refine ⟨_, congrArg Host.Outcome.next (if_pos ⟨h, hr⟩), (hfld (by decide) (by unfold noticeReg; decide)).trans (State.supplied_seqPhase hs),
    (hfld (by decide) (by unfold noticeReg; decide)).trans (State.supplied_pwrState hs),
    hbegun.pins, hbegun.tiles, hbegun.dies, fun e he => ?_⟩
  obtain ⟨hoff, hret, htr⟩ := hbegun.begun e he
  have hdies : s.supplied.dies = s.dies := rfl
  rw [State.portOn_of_dies hdies] at hoff hret htr
  rw [State.supplied_linkState] at hret htr
  rw [State.portRec_of_dies hdies, State.supplied_goodLanes] at htr
  exact ⟨hoff, hret, htr⟩

end

/-- Settles O52, by each event in its phase and outside it. -/
theorem startUpPhases : Obligations.StartUpPhases := by
  intro s hwf
  have hs := (State.ordered_of_wf hwf).1
  refine ⟨fun h => congrArg Host.Outcome.next (if_neg h), keepLock_locks hs, fun h => congrArg Host.Outcome.next (if_neg ?_), refLost_locked hs,
    ⟨_, rfl, State.fld_withFld_self hs _ _ _ _ (by decide) (by decide), fun a ha => State.reg_withReg_ne _ ha, rfl⟩,
    fun h => congrArg Host.Outcome.next (if_neg h), fun h => ⟨_, congrArg Host.Outcome.next (if_pos h), State.seqPhase_set hs (by decide),
      fun a ha => State.reg_withReg_ne _ ha, rfl⟩, fun h => congrArg Host.Outcome.next (if_neg ?_), fun h ht => congrArg Host.Outcome.next (if_pos ⟨h, Bool.eq_false_iff.1 ht⟩),
    fun h => congrArg Host.Outcome.next (if_neg ?_), fun h hr => ?_, rfl⟩
  · simp [State.keepLocked, h]
  · rintro ⟨h3, htrip⟩
    rcases h with h | h
    · exact h h3
    · exact htrip h
  · rintro ⟨h3, hreg⟩
    rcases h with h | h
    · exact h h3
    · exact Bool.false_ne_true (h.symm.trans hreg)
  · obtain ⟨t, ht, hphase, hstate, hpins, htiles, hdies, hports⟩ := powerGood_runs hs h hr
    exact ⟨t, ht, hphase, hstate, hpins, htiles, hdies, fun e he => ⟨(hports e he).off, (hports e he).retired, (hports e he).trains⟩⟩

end Sys2Proof.Machine
end

section
/-! PROOFS. The package's reset land and its auxiliary supply (O51). -/

namespace Sys2Proof.Machine

open Sys2Proof

/-! Straps. -/

/-- Fields below a cut are those of the whole number. -/
theorem bits_mod_pow {v hi lo n : Nat} (h : hi < n) : bits (v % 2 ^ n) hi lo = bits v hi lo := by
  refine Nat.eq_of_testBit_eq fun i => ?_
  rw [bits, bits, Nat.testBit_mod_two_pow, Nat.testBit_mod_two_pow, Nat.testBit_shiftRight, Nat.testBit_shiftRight, Nat.testBit_mod_two_pow]
  by_cases hi' : i < hi + 1 - lo
  · rw [decide_eq_true (p := lo + i < n) (by omega), Bool.true_and]
  · rw [decide_eq_false hi', Bool.false_and, Bool.false_and]

theorem bit_eq_bits (v i : Nat) : bit v i = (bits v i i == 1) := by
  rw [bit, bits, Nat.add_sub_cancel_left, Nat.pow_one]

theorem bit_mod_pow {v i n : Nat} (h : i < n) : bit (v % 2 ^ n) i = bit v i := by rw [bit_eq_bits, bit_eq_bits, bits_mod_pow h]

theorem bits_lt (v hi lo : Nat) : bits v hi lo < 2 ^ (hi + 1 - lo) := Nat.mod_lt _ (Nat.two_pow_pos _)

/-- Straps whose lands are all stable. -/
theorem strapsRead_stable (s : State) (l : Nat) : s.strapsRead l 0 = l % 2 ^ 26 := by
  rw [State.strapsRead, Nat.zero_mod, Nat.sub_zero, Nat.and_zero, Nat.or_zero, Nat.and_two_pow_sub_one_eq_mod, Nat.mod_mod]

/-! The device leaves reset. -/

/-- The defaults that straps `w` set, before phase KEEP_UP is shown. -/
def State.strapped (s : State) (w : Nat) : State :=
  let ref := bits w 23 22
  let s2 := (s.withPins { s.pins with pkgReset := false, straps := w }).withReg Reg.porStraps (BitVec.ofNat 64 w)
  let s3 := (s2.withFld Reg.strImageSrc 1 0 (bootKind (bits w 15 14))).withFld Reg.clkStatus 5 3 ((if ref < 2 then ref else 0) + b2n (2 ≤ ref) <<< 2)
  forEach (List.range 4) (fun n s => s.withFld (pdReg n Reg.lnkDieMode) 0 0 (bits w (16 + n) (16 + n))) s3

/-- The four port dies take their modes in turn. -/
theorem dieModes_eq (w : Nat) (s : State) : forEach (List.range 4) (fun n s => s.withFld (pdReg n Reg.lnkDieMode) 0 0 (bits w (16 + n) (16 + n))) s =
    (((s.withFld (pdReg 0 Reg.lnkDieMode) 0 0 (bits w (16 + 0) (16 + 0))).withFld (pdReg 1 Reg.lnkDieMode) 0 0 (bits w (16 + 1) (16 + 1))).withFld
      (pdReg 2 Reg.lnkDieMode) 0 0 (bits w (16 + 2) (16 + 2))).withFld (pdReg 3 Reg.lnkDieMode) 0 0 (bits w (16 + 3) (16 + 3)) := rfl

theorem leaveReset_stable (s : State) (l : Nat) :
    s.leaveReset l 0 = (if bit (l % 2 ^ 26) 21 then ((s.strapped (l % 2 ^ 26)).withFld Reg.detCtrl 0 0 1).withFld Reg.detStatus 1 1 1
      else s.strapped (l % 2 ^ 26)).withFld Reg.pwrSeqStatus 3 0 1 := by
  rw [State.leaveReset, strapsRead_stable]
  rfl

section
variable {s : State} {w : Nat} (hs : keysFrom 0 s.regs = true)
include hs

theorem strapped_ordered : keysFrom 0 (s.strapped w).regs = true :=
  State.withFld_ordered (State.withFld_ordered (State.withFld_ordered (State.withFld_ordered (State.withFld_ordered (State.withFld_ordered
    (State.withReg_ordered (State.withPins_regs (s := s) ▸ hs)))))))

/-- What straps set by default. -/
theorem strapped_defaults : (s.strapped w).reg Reg.porStraps = BitVec.ofNat 64 w ∧ (s.strapped w).fld Reg.strImageSrc 1 0 = bootKind (bits w 15 14) % 4 ∧
    ∀ n, n < 4 → (s.strapped w).fld (pdReg n Reg.lnkDieMode) 0 0 = bits w (16 + n) (16 + n) := by
  have hset : keysFrom 0 ((s.withPins { s.pins with pkgReset := false, straps := w }).withReg Reg.porStraps (BitVec.ofNat 64 w)).regs = true :=
    State.withReg_ordered (State.withPins_regs (s := s) ▸ hs)
  have hlow (v : Nat) (i : Nat) : bits v i i % 2 ^ (0 + 1 - 0) = bits v i i := Nat.mod_eq_of_lt (by simpa using bits_lt v i i)
  have hsrc := State.withFld_ordered (a := Reg.strImageSrc) (hi := 1) (lo := 0) (v := bootKind (bits w 15 14)) hset
  have hclk := State.withFld_ordered (a := Reg.clkStatus) (hi := 5) (lo := 3)
    (v := (if bits w 23 22 < 2 then bits w 23 22 else 0) + b2n (2 ≤ bits w 23 22) <<< 2) hsrc
  have h0 := State.withFld_ordered (a := pdReg 0 Reg.lnkDieMode) (hi := 0) (lo := 0) (v := bits w (16 + 0) (16 + 0)) hclk
  have h1 := State.withFld_ordered (a := pdReg 1 Reg.lnkDieMode) (hi := 0) (lo := 0) (v := bits w (16 + 1) (16 + 1)) h0
  have h2 := State.withFld_ordered (a := pdReg 2 Reg.lnkDieMode) (hi := 0) (lo := 0) (v := bits w (16 + 2) (16 + 2)) h1
  rw [State.strapped, dieModes_eq]
  refine ⟨?_, ?_, fun n hn => ?_⟩
  · simp (disch := decide) only [State.withFld, State.reg_withReg_ne]
    exact State.reg_withReg_self (State.withPins_regs (s := s) ▸ hs) _ _
  · simp (disch := decide) only [State.fld_withFld_other]
    exact State.fld_withFld_self hset _ _ _ _ (by decide) (by decide)
  · have hn' : n = 0 ∨ n = 1 ∨ n = 2 ∨ n = 3 := by omega
    rcases hn' with rfl | rfl | rfl | rfl <;> simp (disch := decide) only [State.fld_withFld_other]
    · exact (State.fld_withFld_self hclk _ _ _ _ (by decide) (by decide)).trans (hlow _ _)
    · exact (State.fld_withFld_self h0 _ _ _ _ (by decide) (by decide)).trans (hlow _ _)
    · exact (State.fld_withFld_self h1 _ _ _ _ (by decide) (by decide)).trans (hlow _ _)
    · exact (State.fld_withFld_self h2 _ _ _ _ (by decide) (by decide)).trans (hlow _ _)

end

theorem bootKind_lt (b : Nat) : bootKind b < 4 := by
  unfold bootKind nth
  rcases b with _ | _ | _ | _ | b
  · decide
  · decide
  · decide
  · decide
  · rw [List.getElem?_eq_none (by simp)]
    decide

/-- What a device that leaves reset with stable straps shows. -/
structure Released (s : State) (l : Nat) (t : State) : Prop where
  pkgReset : t.pins.pkgReset = false
  resetN : t.pins.resetN = s.pins.resetN
  vauxOk : t.pins.vauxOk = s.pins.vauxOk
  straps : t.pins.straps = l % 2 ^ 26
  porStraps : t.reg Reg.porStraps = BitVec.ofNat 64 (l % 2 ^ 26)
  seqPhase : t.seqPhase = 1
  imageSrc : t.fld Reg.strImageSrc 1 0 = nth [2, 0, 3, 0] (bits l 15 14) 0
  dieMode : ∀ n, n < 4 → t.fld (pdReg n Reg.lnkDieMode) 0 0 = bits l (16 + n) (16 + n)
  det : bit l 21 = true → t.fld Reg.detCtrl 0 0 = 1 ∧ t.fld Reg.detStatus 1 1 = 1
  tiles : t.tiles = s.tiles
  dies : t.dies = s.dies
  out : t.out = s.out

/-- Straps set registers and their pins alone. -/
theorem strapped_kept (s : State) (w : Nat) : (s.strapped w).pins = { s.pins with pkgReset := false, straps := w } ∧ (s.strapped w).tiles = s.tiles ∧
    (s.strapped w).dies = s.dies ∧ (s.strapped w).out = s.out := by
  rw [State.strapped, dieModes_eq]
  simp

/-- STRAP_DET adds the deterministic mode to what straps set. -/
def State.strappedDet (s : State) (w : Nat) : State :=
  if bit w 21 then ((s.strapped w).withFld Reg.detCtrl 0 0 1).withFld Reg.detStatus 1 1 1 else s.strapped w

theorem strappedDet_kept (s : State) (w : Nat) : (s.strappedDet w).pins = { s.pins with pkgReset := false, straps := w } ∧
    (s.strappedDet w).tiles = s.tiles ∧ (s.strappedDet w).dies = s.dies ∧ (s.strappedDet w).out = s.out := by
  unfold State.strappedDet
  split
  · exact strapped_kept s w
  · exact strapped_kept s w

section
variable {s : State} (hs : keysFrom 0 s.regs = true) (w : Nat)
include hs

theorem strappedDet_ordered : keysFrom 0 (s.strappedDet w).regs = true := by
  unfold State.strappedDet
  split
  · exact State.withFld_ordered (State.withFld_ordered (strapped_ordered hs))
  · exact strapped_ordered hs

theorem strappedDet_set (h : bit w 21 = true) : (s.strappedDet w).fld Reg.detCtrl 0 0 = 1 ∧ (s.strappedDet w).fld Reg.detStatus 1 1 = 1 := by
  have hord := strapped_ordered (w := w) hs
  rw [State.strappedDet, if_pos h]
  refine ⟨?_, State.fld_withFld_self (State.withFld_ordered hord) _ _ _ _ (by decide) (by decide)⟩
  rw [State.fld_withFld_other _ _ _ _ _ (by decide), State.fld_withFld_self hord _ _ _ _ (by decide) (by decide)]
  rfl

end

/-- Registers other than those of the mode are as the straps set them. -/
theorem strappedDet_reg (s : State) (w : Nat) {a : Nat} (h : a ≠ Reg.detCtrl) (h' : a ≠ Reg.detStatus) : (s.strappedDet w).reg a = (s.strapped w).reg a := by
  unfold State.strappedDet
  split
  · exact (State.reg_withReg_ne _ h').trans (State.reg_withReg_ne _ h)
  · rfl

theorem leaveReset_released {s : State} (hs : keysFrom 0 s.regs = true) (l : Nat) : Released s l (s.leaveReset l 0) := by
  obtain ⟨hreg, hsrc, hmode⟩ := strapped_defaults (w := l % 2 ^ 26) hs
  obtain ⟨hpins, htiles, hdies, hout⟩ := strappedDet_kept s (l % 2 ^ 26)
  have hord := strappedDet_ordered hs (l % 2 ^ 26)
  have hdet := strappedDet_set hs (l % 2 ^ 26)
  have heq : s.leaveReset l 0 = (s.strappedDet (l % 2 ^ 26)).withFld Reg.pwrSeqStatus 3 0 1 := leaveReset_stable s l
  have hshown {a : Nat} (hi lo : Nat) (h : a ≠ Reg.pwrSeqStatus) : (s.leaveReset l 0).fld a hi lo = (s.strappedDet (l % 2 ^ 26)).fld a hi lo := by
    rw [heq, State.fld_withFld_other _ _ _ _ _ h]
  have hset {a : Nat} (h : a ≠ Reg.pwrSeqStatus) (h1 : a ≠ Reg.detCtrl) (h2 : a ≠ Reg.detStatus) :
      (s.leaveReset l 0).reg a = (s.strapped (l % 2 ^ 26)).reg a := by
    rw [heq, State.withFld, State.reg_withReg_ne _ h, strappedDet_reg s _ h1 h2]
  have hpins' : (s.leaveReset l 0).pins = (s.strappedDet (l % 2 ^ 26)).pins := by rw [heq, State.withFld_pins]
  rw [hpins] at hpins'
  refine ⟨(congrArg Pins.pkgReset hpins' :), (congrArg Pins.resetN hpins' :), (congrArg Pins.vauxOk hpins' :), (congrArg Pins.straps hpins' :), ?_, ?_, ?_, fun n hn => ?_,
    fun h => ?_, ?_, ?_, ?_⟩
  · rw [hset (by decide) (by decide) (by decide), hreg]
  · rw [heq, State.seqPhase_set hord (by decide)]
  · rw [State.fld, hset (by decide) (by decide) (by decide), ← State.fld, hsrc, bits_mod_pow (by decide), Nat.mod_eq_of_lt (bootKind_lt _), bootKind]
  · have hne {a : Nat} (ha : a < 0x1000000) : pdReg n Reg.lnkDieMode ≠ a := by
      rw [pdReg_eq]
      omega
    rw [State.fld, hset (hne (by decide)) (hne (by decide)) (hne (by decide)), ← State.fld, hmode n hn, bits_mod_pow (by omega)]
  · obtain ⟨hctrl, hstat⟩ := hdet ((bit_mod_pow (by decide)).trans h)
    exact ⟨(hshown _ _ (by decide)).trans hctrl, (hshown _ _ (by decide)).trans hstat⟩
  · rw [heq, State.withFld_tiles, htiles]
  · rw [heq, State.withFld_dies, hdies]
  · rw [heq, State.withFld_out, hout]

/-! The land and the supply. -/

section
variable {s : State}

theorem resetPulse_short {n : Nat} (h : n < 1000) : s.resetPulse n = s := by
  have hno : ¬ (1000 ≤ n ∧ n < 10000) := by omega
  rw [State.resetPulse, if_pos h, if_neg hno]
  rfl

theorem resetPulse_long {n : Nat} (h : 10000 ≤ n) : s.resetPulse n = (s.withPins { s.pins with resetN := false }).packageReset := by
  have hno : ¬ (1000 ≤ n ∧ n < 10000) := by omega
  have hlong : ¬ n < 1000 := by omega
  rw [State.resetPulse, if_neg hlong, if_pos h, if_neg hno]
  rfl

theorem resetPulse_between {n : Nat} (h : 1000 ≤ n) (h' : n < 10000) :
    s.resetPulse n = s.useFree ∨ s.resetPulse n = (s.useFree.withPins { s.useFree.pins with resetN := false }).packageReset := by
  have hlong : ¬ n < 1000 := by omega
  have hfree : ¬ 10000 ≤ n := by omega
  have hyes : 1000 ≤ n ∧ n < 10000 := ⟨h, h'⟩
  have heq : s.resetPulse n =
      if bit s.freeNow.toNat 0 then (s.useFree.withPins { s.useFree.pins with resetN := false }).packageReset else s.useFree := by
    rw [State.resetPulse, if_neg hlong, if_neg hfree, if_pos hyes]
  rw [heq]
  split
  · exact .inr rfl
  · exact .inl rfl

theorem resetHigh_waits {l m : Nat} (h : s.pins.pkgReset = false ∨ s.pins.vauxOk = false) : s.resetHigh l m = s.withPins { s.pins with resetN := true } :=
  if_neg fun hboth => by
    rcases h with h | h
    · exact Bool.false_ne_true (h.symm.trans hboth.1)
    · exact Bool.false_ne_true (h.symm.trans hboth.2)

theorem vauxBack_waits {l m : Nat} (h : s.pins.vauxOk = true ∨ s.pins.resetN = false ∨ s.pins.pkgReset = false) :
    s.vauxBack l m = s.withPins { s.pins with vauxOk := true } :=
  if_neg fun ⟨hv, hr, hp⟩ => by
    rcases h with h | h | h
    · exact hv h
    · exact Bool.false_ne_true (h.symm.trans hr)
    · exact Bool.false_ne_true (h.symm.trans hp)

end

/-- Settles O51: a reset is a new state but for what it keeps, and a release the defaults that the straps set. -/
theorem packageResets : Obligations.PackageResets := by
  intro s
  refine ⟨fun n h => congrArg Host.Outcome.next (resetPulse_short h), fun n h => ⟨_, congrArg Host.Outcome.next (resetPulse_long h), ?_, rfl, rfl⟩,
    fun n h h' => ?_, ⟨_, rfl, ?_, rfl, rfl⟩, fun l m h => congrArg Host.Outcome.next (resetHigh_waits h),
    fun l m h => congrArg Host.Outcome.next (vauxBack_waits h), fun l hwf hr hv => ?_, fun l hwf hv hr hp => ?_⟩
  · exact ⟨rfl, rfl, rfl, rfl, rfl, rfl, rfl, rfl, rfl, rfl, rfl, rfl, rfl, rfl, rfl, rfl, rfl, rfl⟩
  · rcases resetPulse_between (s := s) h h' with he | he
    · exact .inl (congrArg Host.Outcome.next he)
    · exact .inr ⟨_, congrArg Host.Outcome.next he, ⟨rfl, rfl, rfl, rfl, rfl, rfl, rfl, rfl, rfl, rfl, rfl, rfl, rfl, rfl, rfl, rfl, rfl, rfl⟩, rfl⟩
  · exact ⟨rfl, rfl, rfl, rfl, rfl, rfl, rfl, rfl, rfl, rfl, rfl, rfl, rfl, rfl, rfl, rfl, rfl, rfl⟩
  · have hrel := leaveReset_released (s := s.withPins { s.pins with resetN := true }) (State.ordered_of_wf hwf).1 l
    exact ⟨_, congrArg Host.Outcome.next (if_pos ⟨hr, hv⟩), hrel.pkgReset, hrel.resetN, hrel.straps, hrel.porStraps, hrel.seqPhase, hrel.imageSrc,
      hrel.dieMode, hrel.det, hrel.tiles, hrel.dies, hrel.out⟩
  · have hrel := leaveReset_released (s := s.withPins { s.pins with vauxOk := true }) (State.ordered_of_wf hwf).1 l
    exact ⟨_, congrArg Host.Outcome.next (if_pos ⟨Bool.eq_false_iff.1 hv, hr, hp⟩), hrel.pkgReset, hrel.vauxOk, hrel.seqPhase, hrel.straps, hrel.tiles, hrel.dies⟩

end Sys2Proof.Machine
end

section
/-! PROOFS. The boot action of STRAP_BOOT and the serving of images (O53). -/

namespace Sys2Proof.Machine

open Sys2Proof

/-! An automatic commit that fails. -/

section
variable {s : State}

/-- Phase STRUCTURE gives way to phase ERROR. -/
def State.seqFailed (s : State) : State := if s.seqPhase = 5 then s.withFld Reg.pwrSeqStatus 3 0 8 else s

theorem seqFailed_ordered (hs : keysFrom 0 s.regs = true) : keysFrom 0 s.seqFailed.regs = true := by
  unfold State.seqFailed
  split
  · exact State.withFld_ordered hs
  · exact hs

theorem bootFails_auto (ha : s.pins.autoBoot = true) (code : Nat) :
    s.bootFails code = ((s.seqFailed.powerEvent 4).withFld Reg.pwrSeqStatus 11 4 code).withPins { s.pins with autoBoot := false, bootPort := none, bootRefused := [] } :=
  if_pos ha

/-- The boot's code and its end, and its event. -/
theorem bootFails_shows (hs : keysFrom 0 s.regs = true) (ha : s.pins.autoBoot = true) {code : Nat} (hc : code < 256) :
    (s.bootFails code).fld Reg.pwrSeqStatus 11 4 = code ∧ (s.bootFails code).fld Reg.pwrEvent 4 4 = 1 ∧ (s.bootFails code).pins.autoBoot = false ∧
      (s.seqPhase = 5 → (s.bootFails code).seqPhase = 8) := by
  have hseq := seqFailed_ordered hs
  have hev := State.powerEvent_ordered hseq 4
  rw [bootFails_auto ha]
  refine ⟨?_, ?_, rfl, fun h5 => ?_⟩
  · rw [State.withPins_fld, State.fld_withFld_self hev _ _ _ _ (by decide) (by decide)]
    exact Nat.mod_eq_of_lt hc
  · rw [State.withPins_fld, State.fld_withFld_other _ _ _ _ _ (by decide)]
    exact State.powerEvent_set hseq (by decide)
  · rw [State.seqPhase, State.withPins_fld, State.fld_withFld_ne hev _ _ _ _ _ _ (by decide) (by decide) (by decide), State.fld,
      State.powerEvent_reg _ _ (by unfold noticeReg; decide) (by decide), ← State.fld, State.seqFailed, if_pos h5]
    exact State.fld_withFld_self hs _ _ _ _ (by decide) (by decide)

theorem dropStaged_pins (s : State) : s.dropStaged.pins = s.pins := by
  obtain ⟨m, hm⟩ := s.dropStaged_eq
  rw [hm]
  rfl

/-- A commit of the boot that fails ends the boot. -/
theorem commitFails_boot (hs : keysFrom 0 s.regs = true) (ha : s.pins.autoBoot = true) {code : Nat} (hc : code < 256) (w : Nat × Nat) :
    (s.commitFails code w).fld Reg.pwrSeqStatus 11 4 = code ∧ (s.commitFails code w).pins.autoBoot = false := by
  have hord : keysFrom 0 ((((s.dropStaged.withPhase 7).withFld Reg.strCommitStatus 10 3 code).withReg Reg.strCommitErrDetail
      (BitVec.ofNat 64 (w.1 % 64 + (w.2 % 2 ^ 32) <<< 6)))).regs = true :=
    State.withReg_ordered (State.withFld_ordered (State.withFld_ordered (State.dropStaged_ordered hs)))
  have hirq := (Noted.refl ((((s.dropStaged.withPhase 7).withFld Reg.strCommitStatus 10 3 code).withReg Reg.strCommitErrDetail
      (BitVec.ofNat 64 (w.1 % 64 + (w.2 % 2 ^ 32) <<< 6))))).raiseIrq (src := 2) (by decide)
  have hauto := congrArg Pins.autoBoot hirq.pins
  simp only [State.withReg_pins, State.withFld_pins, State.withPhase, dropStaged_pins, ha] at hauto
  obtain ⟨hcode, -, hoff, -⟩ := bootFails_shows (hirq.ordered hord) hauto hc
  exact ⟨hcode, hoff⟩

/-- A boot that ends without a commit. -/
theorem bootEnds_shows (hs : keysFrom 0 s.regs = true) (ha : s.pins.autoBoot = true) {code : Nat} (hc : code < 256) :
    (s.bootEnds code).seqPhase = 8 ∧ (s.bootEnds code).fld Reg.pwrSeqStatus 11 4 = code ∧ (s.bootEnds code).fld Reg.pwrEvent 4 4 = 1 ∧
      (s.bootEnds code).pins.autoBoot = false ∧ (s.bootEnds code).tiles = s.tiles := by
  obtain ⟨hcode, hev, hoff, hend⟩ := bootFails_shows (s := s.withFld Reg.pwrSeqStatus 3 0 5) (State.withFld_ordered hs) ha hc
  exact ⟨hend (State.seqPhase_set hs (by decide)), hcode, hev, hoff, State.bootFails_tiles _ _⟩

/-! The boot action. -/

/-- The end of TRAIN with nothing structured yet. -/
theorem boot_fresh {h : Bytes} (hp : s.seqPhase = 4) (ht : s.trainOver = true) (hc : s.committing = false) (hd : (s.die 0).structured = false) :
    s.boot h = s.bootAction h :=
  (if_pos ⟨hp, ht⟩).trans ((if_neg (by rw [hc]; exact Bool.false_ne_true)).trans (if_neg (by rw [hd]; exact Bool.false_ne_true)))

theorem boot_waits {h : Bytes} (hp : s.seqPhase ≠ 4 ∨ s.trainOver = false) (ha : s.pins.autoBoot = false) : s.boot h = s := by
  have hend : ¬ (s.seqPhase = 4 ∧ s.trainOver = true) := by
    rintro ⟨h4, ht⟩
    rcases hp with hp | hp
    · exact hp h4
    · exact Bool.false_ne_true (hp.symm.trans ht)
  exact (if_neg hend).trans (if_neg fun hb => Bool.false_ne_true (ha.symm.trans hb.1))

/-- A neighbour that was asked serves its image. -/
theorem boot_served {h : Bytes} {e : Nat} (hp : s.seqPhase ≠ 4) (ha : s.pins.autoBoot = true) (hc : s.committing = false) (hh : h ≠ [])
    (he : s.pins.bootPort = some e) : s.boot h = s.bootServed e h := by
  refine (if_neg fun hb => hp hb.1).trans ((if_pos ⟨ha, by rw [hc]; exact Bool.false_ne_true, by simpa using hh⟩).trans ?_)
  rw [he]

/-- Where the straps name no source, the device holds, with an event where they ask for it. -/
theorem bootAction_holds {h : Bytes} (hb : bits s.pins.straps 15 14 = 3 ∨ bits s.pins.straps 15 14 = 1 ∧ bits s.pins.straps 25 24 ≠ 3) :
    s.bootAction h = s.withFld Reg.pwrSeqStatus 3 0 7 := by
  rcases hb with hb | ⟨hb, hk⟩
  · rw [State.bootAction, hb]
    rfl
  · rw [State.bootAction, hb]
    exact if_neg hk

theorem bootAction_event {h : Bytes} (hb : bits s.pins.straps 15 14 = 1) (hk : bits s.pins.straps 25 24 = 3) :
    s.bootAction h = (s.withFld Reg.pwrSeqStatus 3 0 7).powerEvent 4 := by
  rw [State.bootAction, hb]
  exact if_pos hk

/-- The boot from HBM, before its commit starts. -/
def State.bootReady (s : State) (h : Bytes) : State :=
  ((((s.withPins { s.pins with autoBoot := true, bootPort := none, bootRefused := [] }).withFld Reg.pwrSeqStatus 3 0 5).withReg Reg.strImageAddr 0).withReg
    Reg.strImageLen (BitVec.ofNat 64 (imgLen h))).withReg Reg.strLatchTime 0

theorem bootAction_hbm {h : Bytes} (hb : bits s.pins.straps 15 14 = 0) : s.bootAction h = (s.bootReady h).commitStarts := by
  rw [State.bootAction, hb]
  rfl

theorem seqStarted_kept (s : State) : s.seqStarted.pins = s.pins ∧ s.seqStarted.dies = s.dies := by
  unfold State.seqStarted
  split
  · exact ⟨rfl, rfl⟩
  · exact ⟨rfl, rfl⟩

theorem started_pins (s : State) : s.started.pins = s.pins := by
  simp only [State.started, State.withCommit_pins, State.withReg_pins, State.withFld_pins, State.withPhase, (seqStarted_kept s).1]

theorem started_dies (s : State) : s.started.dies = s.dies := by
  simp only [State.started, State.withCommit_dies, State.withReg_dies, State.withFld_dies, State.withPhase, (seqStarted_kept s).2]

theorem withPins_ordered {p : Pins} (hs : keysFrom 0 s.regs = true) : keysFrom 0 (s.withPins p).regs = true := hs

/-- A boot from HBM with a legal length: the commit begins. -/
theorem bootReady_starts {h : Bytes} (hs : keysFrom 0 s.regs = true) (hok : imgLenOk (imgLen h) = true) (hlt : imgLen h < 2 ^ 64) :
    ∃ t, (s.bootReady h).commitStarts = t ∧ t.phase = 1 ∧ t.seqPhase = 5 ∧ t.pins.autoBoot = true ∧ t.reg Reg.strImageAddr = 0 ∧
      t.reg Reg.strImageLen = BitVec.ofNat 64 (imgLen h) ∧ t.reg Reg.strLatchTime = 0 ∧ t.tiles = s.tiles ∧ t.dies = s.dies := by
  have h1 : keysFrom 0 ((s.withPins { s.pins with autoBoot := true, bootPort := none, bootRefused := [] }).withFld Reg.pwrSeqStatus 3 0 5).regs = true :=
    State.withFld_ordered (withPins_ordered hs)
  have h2 := State.withReg_ordered (a := Reg.strImageAddr) (w := 0) h1
  have h3 := State.withReg_ordered (a := Reg.strImageLen) (w := BitVec.ofNat 64 (imgLen h)) h2
  have hord : keysFrom 0 (s.bootReady h).regs = true := State.withReg_ordered h3
  have hlatch : (s.bootReady h).reg Reg.strLatchTime = 0 := State.reg_withReg_self h3 _ _
  have hlen : (s.bootReady h).reg Reg.strImageLen = BitVec.ofNat 64 (imgLen h) :=
    (State.reg_withReg_ne _ (by decide)).trans (State.reg_withReg_self h2 _ _)
  have haddr : (s.bootReady h).reg Reg.strImageAddr = 0 :=
    (State.reg_withReg_ne _ (by decide)).trans ((State.reg_withReg_ne _ (by decide)).trans (State.reg_withReg_self h1 _ _))
  have hseq : (s.bootReady h).seqPhase = 5 := by
    rw [State.seqPhase, State.fld, State.bootReady, State.reg_withReg_ne _ (by decide), State.reg_withReg_ne _ (by decide), State.reg_withReg_ne _ (by decide)]
    exact State.fld_withFld_self (withPins_ordered hs) _ _ _ _ (by decide) (by decide)
  have hsame : (s.bootReady h).seqStarted = s.bootReady h := if_neg (by rw [hseq]; decide)
  have hstart : (s.bootReady h).commitStarts = (s.bootReady h).started := by
    rw [State.commitStarts_eq, hlen, BitVec.toNat_ofNat, Nat.mod_eq_of_lt hlt, if_pos hok]
  obtain ⟨hphase, -, -⟩ := State.started_status hord
  have hreg {a : Nat} (ha : a ≠ Reg.strCommitStatus) (ha' : a ≠ Reg.strCommitErrDetail) : (s.bootReady h).started.reg a = (s.bootReady h).reg a := by
    rw [State.reg_started ha ha', hsame]
  refine ⟨_, hstart, hphase, ?_, ?_, (hreg (by decide) (by decide)).trans haddr, (hreg (by decide) (by decide)).trans hlen,
    (hreg (by decide) (by decide)).trans hlatch, State.started_tiles _, ?_⟩
  · rw [State.seqPhase_started hord, hseq]
    rfl
  · rw [started_pins, State.bootReady]
    simp only [State.withReg_pins, State.withFld_pins, State.withPins_pins]
  · rw [started_dies, State.bootReady]
    simp only [State.withReg_dies, State.withFld_dies, State.withPins_dies]

/-! Refusals and requests. -/

theorem bootRefusal_other {e : Nat} (h : s.pins.autoBoot = false ∨ s.committing = true ∨ s.pins.bootPort ≠ some e) : s.bootRefusal e = s :=
  if_pos (by
    rcases h with h | h | h
    · exact .inl (Bool.eq_false_iff.1 h)
    · exact .inr (.inl h)
    · exact .inr (.inr h))

theorem bootRefusal_asked {e : Nat} (ha : s.pins.autoBoot = true) (hc : s.committing = false) (he : s.pins.bootPort = some e) :
    s.bootRefusal e = if s.fld Reg.strImageSrc 9 9 = 0 then s.bootEnds 1
      else (s.withPins { s.pins with bootPort := none, bootRefused := s.pins.bootRefused ++ [e] }).bootScan :=
  if_neg (by rw [ha, hc, he]; simp)

theorem imageServe_permitted {e : Nat} (h : bit (s.reg Reg.porImageServe).toNat (e / 32) = true) :
    s.imageServe e = match s.retainedImage 0 with
      | (s1, some b) => s1.emit (.imageServe e (some b))
      | (s1, none) => (s1.retainedImage 6).1.emit (.imageServe e (s1.retainedImage 6).2) :=
  if_neg (by rw [h]; simp)

theorem committing_of_phase (h : s.phase = 1) : s.committing = true := by
  rw [State.committing, h]
  rfl

end

/-- Settles O53, by the branches of the boot action, and what a boot that fails shows. -/
theorem bootActions : Obligations.BootActions := by
  intro s h hwf
  have hs := (State.ordered_of_wf hwf).1
  refine ⟨fun _ ht ha => congrArg Host.Outcome.next (boot_waits (.inr ht) ha),
    fun hp ht hc => congrArg Host.Outcome.next ((if_pos ⟨hp, ht⟩).trans (if_pos hc)),
    fun hp ht hc hd => congrArg Host.Outcome.next ((if_pos ⟨hp, ht⟩).trans ((if_neg (Bool.eq_false_iff.1 hc)).trans (if_pos hd))),
    fun ⟨hp, ht, hc, hd⟩ hb hok hlt => ?_, fun ⟨hp, ht, hc, hd⟩ hb => congrArg Host.Outcome.next ((boot_fresh hp ht hc hd).trans (bootAction_holds hb)),
    fun ⟨hp, ht, hc, hd⟩ hb hk => ?_, fun hp ha => congrArg Host.Outcome.next (boot_waits (.inl hp) ha),
    fun e hp ha hc hh he => congrArg Host.Outcome.next (boot_served hp ha hc hh he), fun hb => congrArg Host.Outcome.next (if_pos ?_),
    fun ha hb hp => ?_, fun ha hb hc => ?_, fun e he => congrArg Host.Outcome.next (bootRefusal_other he), fun e ha hc he h0 => ?_,
    fun e ha hc he h1 => congrArg Host.Outcome.next ((bootRefusal_asked ha hc he).trans (if_neg (by rw [h1]; decide))),
    fun e hb => congrArg Host.Outcome.next (if_pos (Bool.eq_false_iff.1 hb)), fun e s1 b hb hr => congrArg Host.Outcome.next ?_,
    fun e s1 s2 o hb hr hr' => congrArg Host.Outcome.next ?_⟩
  · obtain ⟨t, ht', hrest⟩ := bootReady_starts hs hok hlt
    exact ⟨t, congrArg Host.Outcome.next (((boot_fresh hp ht hc hd).trans (bootAction_hbm hb)).trans ht'), hrest⟩
  · have hold : keysFrom 0 (s.withFld Reg.pwrSeqStatus 3 0 7).regs = true := State.withFld_ordered hs
    refine ⟨_, congrArg Host.Outcome.next ((boot_fresh hp ht hc hd).trans (bootAction_event hb hk)), ?_, State.powerEvent_set hold (by decide),
      State.powerEvent_tiles _ _⟩
    rw [State.seqPhase, State.fld, State.powerEvent_reg _ _ (by unfold noticeReg; decide) (by decide), ← State.fld]
    exact State.seqPhase_set hs (by decide)
  · rcases hb with hb | hb
    · exact .inl (Bool.eq_false_iff.1 hb)
    · exact .inr hb
  · obtain ⟨hcode, hoff⟩ := commitFails_boot hs ha (code := 1) (by decide) (0, 0)
    have hno : ¬ (¬ s.pins.autoBoot = true ∨ bits s.pins.straps 15 14 ≠ 2) := by simp [ha, hb]
    exact ⟨_, congrArg Host.Outcome.next ((if_neg hno).trans (if_pos hp)), State.phase_commitFails hs _ _, State.code_commitFails hs (by decide) _, hcode, hoff⟩
  · have hno : ¬ (¬ s.pins.autoBoot = true ∨ bits s.pins.straps 15 14 ≠ 2) := by simp [ha, hb]
    have hp : s.phase ≠ 1 := fun hp => Bool.false_ne_true (hc.symm.trans (committing_of_phase hp))
    exact ⟨_, congrArg Host.Outcome.next ((if_neg hno).trans ((if_neg hp).trans (if_neg (Bool.eq_false_iff.1 hc)))), bootEnds_shows hs ha (by decide)⟩
  · obtain ⟨hseq, hcode, -, hoff, -⟩ := bootEnds_shows hs ha (code := 1) (by decide)
    exact ⟨_, congrArg Host.Outcome.next ((bootRefusal_asked ha hc he).trans (if_pos h0)), hseq, hcode, hoff⟩
  · rw [imageServe_permitted hb, hr]
  · rw [imageServe_permitted hb, hr]
    dsimp only
    rw [hr']

end Sys2Proof.Machine
end

section
/-! PROOFS. Queues of the host: their registers, doorbells, MSI-X vectors and the function-level reset (O55). -/

namespace Sys2Proof.Machine

open Sys2Proof

/-! An external command and the registers of BAR4. -/

section
variable {s : State} {rx : Bool} {q v : Nat}

theorem external_bar4 (s : State) (n : Nat) : (s.external n).bar4 = s.bar4 := (congrArg State.bar4 (s.external_frame n).2 :)

theorem external_sqHeld (s : State) (n : Nat) : (s.external n).sqHeld = s.sqHeld := (congrArg State.sqHeld (s.external_frame n).2 :)

theorem external_unmasked (s : State) (n : Nat) : (s.external n).unmasked = s.unmasked := (congrArg State.unmasked (s.external_frame n).2 :)

theorem external_msixPending (s : State) (n : Nat) : (s.external n).msixPending = s.msixPending := (congrArg State.msixPending (s.external_frame n).2 :)

theorem external_b4 (s : State) (n a : Nat) : (s.external n).b4 a = s.b4 a := by rw [State.b4, external_bar4, State.b4]

theorem external_queueOn (s : State) (n : Nat) (rx : Bool) (q : Nat) : (s.external n).queueOn rx q = s.queueOn rx q := by
  rw [State.queueOn, external_b4, State.queueOn]

/-! Fields of a queue's configuration. -/

theorem bit_of_fld (w : Word) (i : Nat) : bit w.toNat i = (wBits w i i == 1) := bit_eq_bits _ _

/-- A bit that is cleared reads 0. -/
theorem bit_wPut_zero (w : Word) {e : Nat} (h : e < 64) : bit (wPut w e e 0).toNat e = false := by
  rw [bit_of_fld, wBits_wPut_self w e e 0 (Nat.le_succ e) h, Nat.zero_mod]
  rfl

theorem enBit_lt (rx : Bool) : 0 < enBit rx ∧ enBit rx < 64 := by cases rx <;> decide

/-- A field below bit `e`, with a bit at `e`. -/
theorem bits_field_bit {v e : Nat} (he : 0 < e) (he' : e < 63) (b : Bool) :
    bits (BitVec.ofNat 64 (bits v (e - 1) 0 + b2n b <<< e)).toNat (e - 1) 0 = bits v (e - 1) 0 ∧
      bit (BitVec.ofNat 64 (bits v (e - 1) 0 + b2n b <<< e)).toNat e = b := by
  have hlow : bits v (e - 1) 0 < 2 ^ e := by
    have h := bits_lt v (e - 1) 0
    rwa [show e - 1 + 1 - 0 = e by omega] at h
  have hpow : 2 ^ e * 2 ≤ 2 ^ 64 := by
    rw [← Nat.pow_succ]
    exact Nat.pow_le_pow_right (by decide) (by omega)
  have hb : b2n b < 2 := by cases b <;> decide
  have hmul : b2n b * 2 ^ e ≤ 1 * 2 ^ e := Nat.mul_le_mul_right _ (Nat.le_of_lt_succ hb)
  have hval : (BitVec.ofNat 64 (bits v (e - 1) 0 + b2n b <<< e)).toNat = bits v (e - 1) 0 + b2n b * 2 ^ e := by
    rw [BitVec.toNat_ofNat, Nat.shiftLeft_eq, Nat.mod_eq_of_lt]
    omega
  rw [hval]
  constructor
  · rw [bits, Nat.shiftRight_zero, show e - 1 + 1 - 0 = e by omega, Nat.add_mul_mod_self_right, Nat.mod_eq_of_lt hlow]
  · rw [bit, Nat.shiftRight_eq_div_pow, Nat.add_mul_div_right _ _ (Nat.two_pow_pos e), Nat.div_eq_of_lt hlow, Nat.zero_add, Nat.mod_eq_of_lt hb]
    cases b <;> rfl

/-! Writes of a queue's configuration. -/

theorem queueWrite_on_other (h : s.queueOn rx q = true)
    (hv : bits v (enBit rx - 1) 0 ≠ bits (s.b4 (queueCfg rx q)).toNat (enBit rx - 1) 0) : s.queueWrite rx q v = s.queueErrs rx q :=
  (if_pos h).trans (if_pos hv)

theorem queueWrite_on_same (h : s.queueOn rx q = true)
    (hv : bits v (enBit rx - 1) 0 = bits (s.b4 (queueCfg rx q)).toNat (enBit rx - 1) 0) :
    s.queueWrite rx q v = if bit v (enBit rx) then s
      else (s.withB4Fld (queueCfg rx q) (enBit rx) (enBit rx) 0).withSqHeld (if rx then s.sqHeld else s.sqHeld.filter fun x => x.1 != q) :=
  (if_pos h).trans (if_neg (not_not.2 hv))

theorem queueWrite_off (h : s.queueOn rx q = false) :
    s.queueWrite rx q v = s.withB4 (queueCfg rx q)
      (BitVec.ofNat 64 (bits v (enBit rx - 1) 0 + b2n (bit v (enBit rx) && s.queueOk rx q v) <<< enBit rx)) :=
  if_neg (Bool.eq_false_iff.1 h)

theorem exec_queueEnable : exec (.queueEnable rx q v) s = .next ((s.external 1).queueWrite rx q v) := rfl

/-- A queue that is switched off. -/
theorem queueEnable_stops (hs : keysFrom 0 s.bar4 = true) (h : s.queueOn rx q = true)
    (hv : bits v (enBit rx - 1) 0 = bits (s.b4 (queueCfg rx q)).toNat (enBit rx - 1) 0) (hen : bit v (enBit rx) = false) :
    ∃ t, exec (.queueEnable rx q v) s = .next t ∧ t.queueOn rx q = false ∧ (∀ a, a ≠ queueCfg rx q → t.b4 a = s.b4 a) ∧
      (rx = false → t.sqHeld = s.sqHeld.filter fun x => x.1 != q) ∧ (rx = true → t.sqHeld = s.sqHeld) := by
  have hb := external_bar4 s 1
  have hord : keysFrom 0 (s.external 1).bar4 = true := hb ▸ hs
  have hw := queueWrite_on_same (s := s.external 1) ((external_queueOn ..).trans h) (v := v) (by rw [external_b4]; exact hv)
  rw [if_neg (Bool.eq_false_iff.1 hen)] at hw
  refine ⟨_, exec_queueEnable.trans (congrArg Host.Outcome.next hw), ?_, fun a ha => ?_, fun h0 => ?_, fun h1 => ?_⟩
  · have hself := State.b4_withB4_self hord (queueCfg rx q) (wPut ((s.external 1).b4 (queueCfg rx q)) (enBit rx) (enBit rx) 0)
    exact (congrArg (fun w : Word => bit w.toNat (enBit rx)) hself).trans (bit_wPut_zero _ (enBit_lt rx).2)
  · exact (State.b4_withB4_ne (s := s.external 1) _ ha).trans (external_b4 ..)
  · subst h0
    rw [State.withSqHeld_sqHeld, external_sqHeld, if_neg Bool.false_ne_true]
  · subst h1
    rw [State.withSqHeld_sqHeld, external_sqHeld, if_pos rfl]

/-- A queue that was off takes its configuration, and EN where that is good. -/
theorem queueEnable_configures (hs : keysFrom 0 s.bar4 = true) (h : s.queueOn rx q = false) :
    ∃ t, exec (.queueEnable rx q v) s = .next t ∧ bits (t.b4 (queueCfg rx q)).toNat (enBit rx - 1) 0 = bits v (enBit rx - 1) 0 ∧
      (t.queueOn rx q = true ↔ bit v (enBit rx) = true ∧ 4 ≤ bits v 3 0 ∧ bits v 3 0 ≤ 12 ∧ (s.b4 (queueBase rx q)).toNat % 4096 = 0 ∧
        (rx = true ∨ bits v 9 4 ≠ 0)) ∧
      (∀ a, a ≠ queueCfg rx q → t.b4 a = s.b4 a) ∧ t.withBar4 s.bar4 = s.external 1 := by
  have hb := external_bar4 s 1
  have hord : keysFrom 0 (s.external 1).bar4 = true := hb ▸ hs
  have hw := queueWrite_off (v := v) ((external_queueOn s 1 rx q).trans h)
  obtain ⟨hfield, hbit⟩ := bits_field_bit (v := v) (enBit_lt rx).1 (by cases rx <;> decide) (bit v (enBit rx) && (s.external 1).queueOk rx q v)
  have hself := State.b4_withB4_self hord (queueCfg rx q)
    (BitVec.ofNat 64 (bits v (enBit rx - 1) 0 + b2n (bit v (enBit rx) && (s.external 1).queueOk rx q v) <<< enBit rx))
  refine ⟨_, exec_queueEnable.trans (congrArg Host.Outcome.next hw), by rw [hself, hfield], ?_, fun a ha => ?_, ?_⟩
  · rw [State.queueOn, hself, hbit, State.queueOk, external_b4]
    simp only [Bool.and_eq_true, Bool.or_eq_true, decide_eq_true_eq, beq_iff_eq, bne_iff_ne]
    tauto
  · exact (State.b4_withB4_ne _ ha).trans (external_b4 ..)
  · show (s.external 1).withBar4 s.bar4 = s.external 1
    rw [← hb]
    rfl

/-! Doorbells and vectors. -/

theorem doorbell_beyond (h : s.ringSize rx q ≤ v % 4096) : s.doorbell rx q v = s.queueErrs rx q := if_pos h

theorem doorbell_within (h : v % 4096 < s.ringSize rx q) :
    s.doorbell rx q v = s.withB4 (if rx then Reg.hrqHead q else Reg.sqTail q) (BitVec.ofNat 64 (v % 4096)) := if_neg (Nat.not_le.2 h)

theorem external_ringSize (s : State) (n : Nat) (rx : Bool) (q : Nat) : (s.external n).ringSize rx q = s.ringSize rx q := by
  rw [State.ringSize, external_b4, State.ringSize]

theorem unmask_again {k : Nat} (h : s.unmasked.contains k = true) : s.unmask k = s := if_pos h

theorem unmask_first {k : Nat} (h : s.unmasked.contains k = false) :
    s.unmask k = if s.msixPending.contains k then
      ((s.withUnmasked (s.unmasked ++ [k])).withMsixPending (s.msixPending.filter (· != k))).emit (.msix k)
      else s.withUnmasked (s.unmasked ++ [k]) := if_neg (Bool.eq_false_iff.1 h)

end

/-! Every queue is switched off. -/

/-- A start queue is off with its head and tail at 0. -/
def State.sqCleared (s : State) (q : Nat) : State := ((s.withB4Fld (Reg.sqCfg q) 10 10 0).withB4 (Reg.sqHead q) 0).withB4 (Reg.sqTail q) 0

/-- A receive queue is off with its head and tail at 0. -/
def State.hrqCleared (s : State) (q : Nat) : State := ((s.withB4Fld (Reg.hrqCfg q) 4 4 0).withB4 (Reg.hrqHead q) 0).withB4 (Reg.hrqTail q) 0

theorem State.queuesOff_eq (s : State) : s.queuesOff =
    forEach (List.range 64) (fun q s => s.hrqCleared q) ((forEach (List.range 256) (fun q s => s.sqCleared q) s).withSqHeld []) := rfl

/-- Start queue `q` of `s` is off. -/
structure SqOff (s : State) (q : Nat) : Prop where
  on : s.queueOn false q = false
  head : s.b4 (Reg.sqHead q) = 0
  tail : s.b4 (Reg.sqTail q) = 0

/-- Receive queue `q` of `s` is off. -/
structure HrqOff (s : State) (q : Nat) : Prop where
  on : s.queueOn true q = false
  head : s.b4 (Reg.hrqHead q) = 0
  tail : s.b4 (Reg.hrqTail q) = 0

section
variable {s t : State} {q x : Nat}

/-- Three registers that are written, of which each reads back. -/
theorem b4_three (hs : keysFrom 0 s.bar4 = true) {a b c : Nat} (hab : a ≠ b) (hac : a ≠ c) (hbc : b ≠ c) (u v w : Word) :
    (((s.withB4 a u).withB4 b v).withB4 c w).b4 a = u ∧ (((s.withB4 a u).withB4 b v).withB4 c w).b4 b = v ∧
      (((s.withB4 a u).withB4 b v).withB4 c w).b4 c = w ∧ keysFrom 0 (((s.withB4 a u).withB4 b v).withB4 c w).bar4 = true := by
  have h1 : keysFrom 0 (s.withB4 a u).bar4 = true := keysFrom_mapPut _ _ _ (Nat.zero_le _) hs
  have h2 : keysFrom 0 ((s.withB4 a u).withB4 b v).bar4 = true := keysFrom_mapPut _ _ _ (Nat.zero_le _) h1
  refine ⟨?_, ?_, State.b4_withB4_self h2 _ _, keysFrom_mapPut _ _ _ (Nat.zero_le _) h2⟩
  · rw [State.b4_withB4_ne _ hac, State.b4_withB4_ne _ hab, State.b4_withB4_self hs]
  · rw [State.b4_withB4_ne _ hbc, State.b4_withB4_self h1]

theorem sqRegs_ne (q : Nat) : Reg.sqCfg q ≠ Reg.sqHead q ∧ Reg.sqCfg q ≠ Reg.sqTail q ∧ Reg.sqHead q ≠ Reg.sqTail q := by
  unfold Reg.sqCfg Reg.sqHead Reg.sqTail
  omega

theorem hrqRegs_ne (q : Nat) : Reg.hrqCfg q ≠ Reg.hrqHead q ∧ Reg.hrqCfg q ≠ Reg.hrqTail q ∧ Reg.hrqHead q ≠ Reg.hrqTail q := by
  unfold Reg.hrqCfg Reg.hrqHead Reg.hrqTail
  omega

theorem sqCleared_off (hs : keysFrom 0 s.bar4 = true) (q : Nat) : SqOff (s.sqCleared q) q ∧ keysFrom 0 (s.sqCleared q).bar4 = true := by
  obtain ⟨h1, h2, h3⟩ := sqRegs_ne q
  obtain ⟨hcfg, hhead, htail, hord⟩ := b4_three hs h1 h2 h3 (wPut (s.b4 (Reg.sqCfg q)) 10 10 0) 0 0
  exact ⟨⟨(congrArg (fun w : Word => bit w.toNat 10) hcfg).trans (bit_wPut_zero _ (by decide)), hhead, htail⟩, hord⟩

theorem hrqCleared_off (hs : keysFrom 0 s.bar4 = true) (q : Nat) : HrqOff (s.hrqCleared q) q ∧ keysFrom 0 (s.hrqCleared q).bar4 = true := by
  obtain ⟨h1, h2, h3⟩ := hrqRegs_ne q
  obtain ⟨hcfg, hhead, htail, hord⟩ := b4_three hs h1 h2 h3 (wPut (s.b4 (Reg.hrqCfg q)) 4 4 0) 0 0
  exact ⟨⟨(congrArg (fun w : Word => bit w.toNat 4) hcfg).trans (bit_wPut_zero _ (by decide)), hhead, htail⟩, hord⟩

/-- Registers of BAR4 beside those of the queue. -/
theorem b4_sqCleared {a : Nat} (h1 : a ≠ Reg.sqCfg q) (h2 : a ≠ Reg.sqHead q) (h3 : a ≠ Reg.sqTail q) : (s.sqCleared q).b4 a = s.b4 a :=
  (State.b4_withB4_ne _ h3).trans ((State.b4_withB4_ne _ h2).trans (State.b4_withB4_ne _ h1))

theorem b4_hrqCleared {a : Nat} (h1 : a ≠ Reg.hrqCfg q) (h2 : a ≠ Reg.hrqHead q) (h3 : a ≠ Reg.hrqTail q) : (s.hrqCleared q).b4 a = s.b4 a :=
  (State.b4_withB4_ne _ h3).trans ((State.b4_withB4_ne _ h2).trans (State.b4_withB4_ne _ h1))

theorem SqOff.congr (h : SqOff s x) (hc : t.b4 (Reg.sqCfg x) = s.b4 (Reg.sqCfg x)) (hh : t.b4 (Reg.sqHead x) = s.b4 (Reg.sqHead x))
    (ht : t.b4 (Reg.sqTail x) = s.b4 (Reg.sqTail x)) : SqOff t x :=
  ⟨(congrArg (fun w : Word => bit w.toNat 10) hc).trans h.on, hh.trans h.head, ht.trans h.tail⟩

theorem HrqOff.congr (h : HrqOff s x) (hc : t.b4 (Reg.hrqCfg x) = s.b4 (Reg.hrqCfg x)) (hh : t.b4 (Reg.hrqHead x) = s.b4 (Reg.hrqHead x))
    (ht : t.b4 (Reg.hrqTail x) = s.b4 (Reg.hrqTail x)) : HrqOff t x :=
  ⟨(congrArg (fun w : Word => bit w.toNat 4) hc).trans h.on, hh.trans h.head, ht.trans h.tail⟩

theorem SqOff.sqCleared (h : SqOff s x) (hq : q ≠ x) : SqOff (s.sqCleared q) x := by
  refine h.congr (b4_sqCleared ?_ ?_ ?_) (b4_sqCleared ?_ ?_ ?_) (b4_sqCleared ?_ ?_ ?_) <;> (simp only [Reg.sqCfg, Reg.sqHead, Reg.sqTail]; omega)

theorem HrqOff.hrqCleared (h : HrqOff s x) (hq : q ≠ x) : HrqOff (s.hrqCleared q) x := by
  refine h.congr (b4_hrqCleared ?_ ?_ ?_) (b4_hrqCleared ?_ ?_ ?_) (b4_hrqCleared ?_ ?_ ?_) <;> (simp only [Reg.hrqCfg, Reg.hrqHead, Reg.hrqTail]; omega)

/-- The start queues lie below the receive queues. -/
theorem SqOff.hrqCleared (h : SqOff s x) (hx : x < 256) : SqOff (s.hrqCleared q) x := by
  refine h.congr (b4_hrqCleared ?_ ?_ ?_) (b4_hrqCleared ?_ ?_ ?_) (b4_hrqCleared ?_ ?_ ?_) <;>
    (simp only [Reg.hrqCfg, Reg.hrqHead, Reg.hrqTail, Reg.sqCfg, Reg.sqHead, Reg.sqTail]; omega)

end

/-- The first `n` start queues are off. -/
theorem sqCleared_each {s : State} (hs : keysFrom 0 s.bar4 = true) : ∀ n,
    (∀ x < n, SqOff (forEach (List.range n) (fun q s => s.sqCleared q) s) x) ∧ keysFrom 0 (forEach (List.range n) (fun q s => s.sqCleared q) s).bar4 = true
  | 0 => ⟨fun x hx => absurd hx (Nat.not_lt_zero x), hs⟩
  | n + 1 => by
    obtain ⟨hoff, hord⟩ := sqCleared_each hs n
    have hlast : forEach (List.range (n + 1)) (fun q s => s.sqCleared q) s = (forEach (List.range n) (fun q s => s.sqCleared q) s).sqCleared n := by
      rw [forEach, List.range_succ, List.foldl_append, List.foldl_cons, List.foldl_nil, forEach]
    obtain ⟨hnew, hord'⟩ := sqCleared_off hord n
    rw [hlast]
    refine ⟨fun x hx => ?_, hord'⟩
    by_cases he : x = n
    · exact he ▸ hnew
    · exact (hoff x (by omega)).sqCleared (Ne.symm he)

/-- The first `n` receive queues are off, and start queues that were off stay so. -/
theorem hrqCleared_each {s : State} (hs : keysFrom 0 s.bar4 = true) : ∀ n,
    (∀ x < n, HrqOff (forEach (List.range n) (fun q s => s.hrqCleared q) s) x) ∧
      (∀ x < 256, SqOff s x → SqOff (forEach (List.range n) (fun q s => s.hrqCleared q) s) x) ∧
      keysFrom 0 (forEach (List.range n) (fun q s => s.hrqCleared q) s).bar4 = true
  | 0 => ⟨fun x hx => absurd hx (Nat.not_lt_zero x), fun _ _ h => h, hs⟩
  | n + 1 => by
    obtain ⟨hoff, hsq, hord⟩ := hrqCleared_each hs n
    have hlast : forEach (List.range (n + 1)) (fun q s => s.hrqCleared q) s = (forEach (List.range n) (fun q s => s.hrqCleared q) s).hrqCleared n := by
      rw [forEach, List.range_succ, List.foldl_append, List.foldl_cons, List.foldl_nil, forEach]
    obtain ⟨hnew, hord'⟩ := hrqCleared_off hord n
    rw [hlast]
    refine ⟨fun x hx => ?_, fun x hx h => (hsq x hx h).hrqCleared hx, hord'⟩
    by_cases he : x = n
    · exact he ▸ hnew
    · exact (hoff x (by omega)).hrqCleared (Ne.symm he)

/-- Clearing queues changes BAR4 alone. -/
theorem forEach_bar4 {f : Nat → State → State} (hf : ∀ q s, ∃ b, f q s = s.withBar4 b) : ∀ (l : List Nat) (s : State), ∃ b, forEach l f s = s.withBar4 b
  | [], s => ⟨s.bar4, rfl⟩
  | q :: l, s => by
    obtain ⟨b, hb⟩ := hf q s
    obtain ⟨c, hc⟩ := forEach_bar4 hf l (f q s)
    refine ⟨c, hc.trans ?_⟩
    rw [hb]
    rfl

theorem queuesOff_rest (s : State) : ∃ b, s.queuesOff = (s.withBar4 b).withSqHeld [] := by
  obtain ⟨b, hb⟩ := forEach_bar4 (f := fun q s => s.sqCleared q) (fun _ _ => ⟨_, rfl⟩) (List.range 256) s
  obtain ⟨c, hc⟩ := forEach_bar4 (f := fun q s => s.hrqCleared q) (fun _ _ => ⟨_, rfl⟩) (List.range 64)
    ((forEach (List.range 256) (fun q s => s.sqCleared q) s).withSqHeld [])
  rw [State.queuesOff_eq, hc, hb]
  exact ⟨c, rfl⟩

/-- Every queue is off. -/
structure QueuesOff (t : State) : Prop where
  start : ∀ n, n < 256 → t.queueOn false n = false ∧ t.b4 (Reg.sqHead n) = 0 ∧ t.b4 (Reg.sqTail n) = 0
  receive : ∀ n, n < 64 → t.queueOn true n = false ∧ t.b4 (Reg.hrqHead n) = 0 ∧ t.b4 (Reg.hrqTail n) = 0

theorem QueuesOff.congr {s t : State} (h : QueuesOff s) (hb : t.bar4 = s.bar4) : QueuesOff t := by
  have hb4 (a : Nat) : t.b4 a = s.b4 a := by rw [State.b4, hb, State.b4]
  have hon (rx : Bool) (n : Nat) : t.queueOn rx n = s.queueOn rx n := by rw [State.queueOn, hb4, State.queueOn]
  refine ⟨fun n hn => ?_, fun n hn => ?_⟩
  · rw [hon, hb4, hb4]
    exact h.start n hn
  · rw [hon, hb4, hb4]
    exact h.receive n hn

theorem queuesOff_off {s : State} (hs : keysFrom 0 s.bar4 = true) : QueuesOff s.queuesOff := by
  obtain ⟨hstart, hord⟩ := sqCleared_each hs 256
  obtain ⟨hrec, hkept, -⟩ := hrqCleared_each (s := (forEach (List.range 256) (fun q s => s.sqCleared q) s).withSqHeld [])
    (by rw [State.withSqHeld_bar4]; exact hord) 64
  rw [State.queuesOff_eq]
  refine ⟨fun n hn => ?_, fun n hn => ?_⟩
  · obtain ⟨hon, hhead, htail⟩ := hkept n hn ((hstart n hn).congr State.withSqHeld_b4 State.withSqHeld_b4 State.withSqHeld_b4)
    exact ⟨hon, hhead, htail⟩
  · obtain ⟨hon, hhead, htail⟩ := hrec n hn
    exact ⟨hon, hhead, htail⟩

/-! The function-level reset. -/

/-- A reset of the function, before a transfer that it ends is judged. -/
def State.functionReset (s : State) : State :=
  forEach (List.range 1024) (fun i s => s.withReg (Reg.porIrqMap i) 0) (((s.queuesOff.withUnmasked []).withMsixPending []).withReg Reg.porBar2Base 0)

theorem State.hostReset_eq (s : State) : s.hostReset =
    if s.functionReset.phase = 1 ∧ s.functionReset.fld Reg.strImageSrc 1 0 = 0 then s.functionReset.commitFails 1 (0, 0) else s.functionReset := rfl

/-- Registers of a range are written with 0. -/
theorem irqMaps_zero {s : State} (hs : keysFrom 0 s.regs = true) : ∀ n,
    let t := forEach (List.range n) (fun i s => s.withReg (Reg.porIrqMap i) 0) s
    (∀ i < n, t.reg (Reg.porIrqMap i) = 0) ∧ (∀ a, (∀ i < n, a ≠ Reg.porIrqMap i) → t.reg a = s.reg a) ∧ keysFrom 0 t.regs = true ∧ t.withRegs s.regs = s
  | 0 => ⟨fun i hi => absurd hi (Nat.not_lt_zero i), fun _ _ => rfl, hs, rfl⟩
  | n + 1 => by
    obtain ⟨hzero, hkept, hord, hrest⟩ := irqMaps_zero hs n
    have hlast : forEach (List.range (n + 1)) (fun i s => s.withReg (Reg.porIrqMap i) 0) s =
        (forEach (List.range n) (fun i s => s.withReg (Reg.porIrqMap i) 0) s).withReg (Reg.porIrqMap n) 0 := by
      rw [forEach, List.range_succ, List.foldl_append, List.foldl_cons, List.foldl_nil, forEach]
    dsimp only
    rw [hlast]
    refine ⟨fun i hi => ?_, fun a ha => (State.reg_withReg_ne _ (ha n (Nat.lt_succ_self n))).trans (hkept a fun i hi => ha i (Nat.lt_succ_of_lt hi)),
      State.withReg_ordered hord, hrest⟩
    by_cases he : i = n
    · rw [he, State.reg_withReg_self hord]
    · exact (State.reg_withReg_ne _ (by unfold Reg.porIrqMap; omega)).trans (hzero i (by omega))

/-- What a reset of the function leaves. -/
structure FunctionReset (s t : State) : Prop where
  queues : QueuesOff t
  sqHeld : t.sqHeld = []
  unmasked : t.unmasked = []
  msixPending : t.msixPending = []
  base : t.reg Reg.porBar2Base = 0
  maps : ∀ i, i < 1024 → t.reg (Reg.porIrqMap i) = 0
  tiles : t.tiles = s.tiles
  regs : ∀ a, 0x3000 ≤ a → t.reg a = s.reg a
  ordered : keysFrom 0 t.regs = true

theorem functionReset_resets {s : State} (hs : keysFrom 0 s.regs = true) (hb : keysFrom 0 s.bar4 = true) : FunctionReset s s.functionReset := by
  obtain ⟨b, hq⟩ := queuesOff_rest s
  have hregs : s.queuesOff.regs = s.regs := by rw [hq]; rfl
  have hq0 : keysFrom 0 ((s.queuesOff.withUnmasked []).withMsixPending []).regs = true := by
    rw [State.withMsixPending_regs, State.withUnmasked_regs, hregs]
    exact hs
  have hord : keysFrom 0 (((s.queuesOff.withUnmasked []).withMsixPending []).withReg Reg.porBar2Base 0).regs = true :=
    State.withReg_ordered hq0
  have hmaps := irqMaps_zero hord 1024
  dsimp only at hmaps
  rw [← State.functionReset] at hmaps
  obtain ⟨hzero, hkept, hord', hrest⟩ := hmaps
  generalize s.functionReset = t at hzero hkept hord' hrest
  have hlow (a : Nat) (ha : 0x3000 ≤ a) : ∀ i < 1024, a ≠ Reg.porIrqMap i := fun i hi => by
    unfold Reg.porIrqMap
    omega
  have hbar := congrArg State.bar4 hrest
  have hheld := congrArg State.sqHeld hrest
  have hmask := congrArg State.unmasked hrest
  have hpend := congrArg State.msixPending hrest
  have htiles := congrArg State.tiles hrest
  simp only [State.withRegs_bar4, State.withReg_bar4, State.withMsixPending_bar4, State.withUnmasked_bar4] at hbar
  simp only [State.withRegs_sqHeld, State.withReg_sqHeld, State.withMsixPending_sqHeld, State.withUnmasked_sqHeld, hq, State.withSqHeld_sqHeld] at hheld
  simp only [State.withRegs_unmasked, State.withReg_unmasked, State.withMsixPending_unmasked, State.withUnmasked_unmasked] at hmask
  simp only [State.withRegs_msixPending, State.withReg_msixPending, State.withMsixPending_msixPending] at hpend
  simp only [State.withRegs_tiles, State.withReg_tiles, State.withMsixPending_tiles, State.withUnmasked_tiles, hq, State.withSqHeld_tiles,
    State.withBar4_tiles] at htiles
  refine ⟨(queuesOff_off hb).congr hbar, hheld, hmask, hpend, ?_, hzero, htiles, fun a ha => (hkept a (hlow a ha)).trans ?_, hord'⟩
  · refine (hkept _ fun i hi => ?_).trans (State.reg_withReg_self hq0 _ _)
    unfold Reg.porBar2Base Reg.porIrqMap
    omega
  · have hne : a ≠ Reg.porBar2Base := by
      unfold Reg.porBar2Base
      omega
    refine (State.reg_withReg_ne _ hne).trans ?_
    rw [State.reg, State.withMsixPending_regs, State.withUnmasked_regs, hregs, State.reg]

/-- What a commit that fails leaves of the host's side. -/
theorem bootFails_host (s : State) (code : Nat) : (s.bootFails code).bar4 = s.bar4 ∧ (s.bootFails code).sqHeld = s.sqHeld ∧
    (s.bootFails code).unmasked = s.unmasked ∧ (s.bootFails code).reg Reg.porBar2Base = s.reg Reg.porBar2Base := by
  have hseq : s.seqFailed.bar4 = s.bar4 ∧ s.seqFailed.sqHeld = s.sqHeld ∧ s.seqFailed.unmasked = s.unmasked ∧
      s.seqFailed.reg Reg.porBar2Base = s.reg Reg.porBar2Base := by
    unfold State.seqFailed
    split
    · exact ⟨rfl, rfl, rfl, State.reg_withReg_ne _ (by decide)⟩
    · exact ⟨rfl, rfl, rfl, rfl⟩
  obtain ⟨hb, hh, hu, hr⟩ := hseq
  by_cases ha : s.pins.autoBoot = true
  · have hev := State.powerEvent_silent s.seqFailed 4
    have hreg := State.powerEvent_reg s.seqFailed 4 (a := Reg.porBar2Base) (by unfold noticeReg; decide) (by decide)
    rw [bootFails_auto ha]
    exact ⟨(congrArg State.bar4 hev :).trans hb, (congrArg State.sqHeld hev :).trans hh, (congrArg State.unmasked hev :).trans hu,
      (State.reg_withReg_ne _ (by decide)).trans (hreg.trans hr)⟩
  · rw [show s.bootFails code = s.seqFailed from if_neg ha]
    exact ⟨hb, hh, hu, hr⟩

theorem commitFails_host (s : State) (code : Nat) (w : Nat × Nat) : (s.commitFails code w).bar4 = s.bar4 ∧ (s.commitFails code w).sqHeld = s.sqHeld ∧
    (s.commitFails code w).unmasked = s.unmasked ∧ (s.commitFails code w).reg Reg.porBar2Base = s.reg Reg.porBar2Base := by
  obtain ⟨m, hm⟩ := s.dropStaged_eq
  have hirq := (Noted.refl ((((s.dropStaged.withPhase 7).withFld Reg.strCommitStatus 10 3 code).withReg Reg.strCommitErrDetail
      (BitVec.ofNat 64 (w.1 % 64 + (w.2 % 2 ^ 32) <<< 6))))).raiseIrq (src := 2) (by decide)
  obtain ⟨hb, hh, hu, hr⟩ := bootFails_host (((((s.dropStaged.withPhase 7).withFld Reg.strCommitStatus 10 3 code).withReg Reg.strCommitErrDetail
      (BitVec.ofNat 64 (w.1 % 64 + (w.2 % 2 ^ 32) <<< 6)))).raiseIrq 2) code
  have hreg := hirq.reg Reg.porBar2Base (by unfold noticeReg; decide)
  rw [State.commitFails, hb, hh, hu, hr, hreg, hirq.bar4, hirq.sqHeld, hirq.unmasked, hm]
  exact ⟨rfl, rfl, rfl, (State.reg_withReg_ne _ (by decide)).trans ((State.reg_withReg_ne _ (by decide)).trans (State.reg_withReg_ne _ (by decide)))⟩

/-- Settles O55, by the branches of each write, and by what a reset of the function clears. -/
theorem hostQueues : Obligations.HostQueues := by
  intro s rx q v hwf
  have hb := (Since.refl hwf).bar4Ord
  have hs := (State.ordered_of_wf hwf).1
  have hcount (a : Nat) : (s.external 1).bumpB4 a = (s.external 1).withB4 a (satAdd (s.b4 a) 1) := by rw [State.bumpB4, external_b4]
  have hring (rx : Bool) : (s.external 1).ringSize rx q = 2 ^ bits (s.b4 (queueCfg rx q)).toNat 3 0 := external_ringSize s 1 rx q
  refine ⟨fun h hv => ?_, fun h hv hen => ?_, queueEnable_stops hb, queueEnable_configures hb,
    fun h => ?_, fun h => congrArg Host.Outcome.next (doorbell_within (rx := false) ((hring false).symm ▸ h)), fun h => ?_,
    fun h => congrArg Host.Outcome.next (doorbell_within (rx := true) ((hring true).symm ▸ h)), ?_, fun h => ?_, fun h hp => ?_, fun h hp => ?_⟩
  · rw [exec_queueEnable, queueWrite_on_other ((external_queueOn ..).trans h) (by rw [external_b4]; exact hv), State.queueErrs, hcount]
  · rw [exec_queueEnable, queueWrite_on_same ((external_queueOn ..).trans h) (by rw [external_b4]; exact hv), if_pos hen]
  · exact congrArg Host.Outcome.next ((doorbell_beyond (rx := false) ((hring false).symm ▸ h)).trans (hcount _))
  · exact congrArg Host.Outcome.next ((doorbell_beyond (rx := true) ((hring true).symm ▸ h)).trans (hcount _))
  · have hr := functionReset_resets hs hb
    have hphase : s.functionReset.phase = s.phase := by rw [State.phase, State.fld, hr.regs _ (by decide), ← State.fld, ← State.phase]
    have hsrc : s.functionReset.fld Reg.strImageSrc 1 0 = s.fld Reg.strImageSrc 1 0 := by rw [State.fld, hr.regs _ (by decide), State.fld]
    have hexec : exec .functionLevelReset s = .next s.hostReset := rfl
    rw [State.hostReset_eq, hphase, hsrc] at hexec
    by_cases hc : s.phase = 1 ∧ s.fld Reg.strImageSrc 1 0 = 0
    · rw [if_pos hc] at hexec
      obtain ⟨hb4, hheld, hmask, hbase⟩ := commitFails_host s.functionReset 1 (0, 0)
      have hoff := hr.queues.congr hb4
      refine ⟨_, hexec, hoff.start, hoff.receive, hheld.trans hr.sqHeld, hmask.trans hr.unmasked, hbase.trans hr.base,
        fun _ _ => ⟨State.phase_commitFails hr.ordered _ _, State.code_commitFails hr.ordered (by decide) _⟩, fun hno => ?_⟩
      rcases hno with hno | hno
      · exact absurd hc.1 hno
      · exact absurd hc.2 hno
    · rw [if_neg hc] at hexec
      exact ⟨_, hexec, hr.queues.start, hr.queues.receive, hr.sqHeld, hr.unmasked, hr.base, fun h1 h2 => absurd ⟨h1, h2⟩ hc,
        fun _ => ⟨hr.maps, hr.msixPending, hr.tiles, hphase⟩⟩
  · exact congrArg Host.Outcome.next (unmask_again (by rw [external_unmasked]; exact h))
  · have hu := unmask_first (s := s.external 1) (k := v % 2048) (by rw [external_unmasked]; exact h)
    rw [external_unmasked, external_msixPending, hp, if_neg Bool.false_ne_true] at hu
    exact congrArg Host.Outcome.next hu
  · have hu := unmask_first (s := s.external 1) (k := v % 2048) (by rw [external_unmasked]; exact h)
    rw [external_unmasked, external_msixPending, hp, if_pos rfl] at hu
    exact congrArg Host.Outcome.next hu

end Sys2Proof.Machine
end

section
/-! PROOFS. Entries of start queues and accesses through BAR2 (O56). -/

namespace Sys2Proof.Machine

open Sys2Proof

/-! Entries of start queues. -/

section
variable {s : State} {q : Nat} {b : Bytes}

/-- An entry has its length. -/
theorem padTo_of_length {n : Nat} (h : b.length = n) : padTo n b = b := by
  subst h
  rw [padTo, List.take_length, Nat.sub_self]
  exact List.append_nil b

theorem natLe_one (n : Nat) : natLe 1 n = [BitVec.ofNat 8 n] := rfl

theorem entryDue_iff : s.entryDue q = true ↔ s.queueOn false q = true ∧ s.b4 (Reg.sqHead q) ≠ s.b4 (Reg.sqTail q) := by
  rw [State.entryDue, Bool.and_eq_true, bne_iff_ne]

theorem startEntry_waits {f : Bool} (h : s.entryDue q = false ∨ s.sqHeld.any (fun x => x.1 == q) = true) : s.startEntry q b f = s :=
  if_pos (by
    rcases h with h | h
    · exact .inl (Bool.eq_false_iff.1 h)
    · exact .inr h)

theorem startEntry_due {f : Bool} (hd : s.entryDue q = true) (hi : s.sqHeld.any (fun x => x.1 == q) = false) :
    s.startEntry q b f = if f then ((s.withB4Fld (Reg.sqCfg q) 10 10 0).bumpB4 (Reg.sqErrCnt q)).raiseIrq (512 + q) else s.serveEntry q (padTo 64 b) :=
  if_neg (by
    rintro (h | h)
    · exact h hd
    · exact Bool.false_ne_true (hi.symm.trans h))

theorem entryBad_of (h : bit (rdLe b 0 2) 15 = true ∨ bits (rdLe b 2 1) 7 6 ≠ 0 ∨ ∃ x ∈ slice b 4 28, x ≠ 0) : entryBad b = true := by
  simp only [entryBad, Bool.or_eq_true, bne_iff_ne, List.any_eq_true]
  tauto

theorem deliverEntry_bad (h : entryBad b = true) : s.deliverEntry q b = (s, 0x10) := if_pos h

theorem deliverEntry_isolated (h : entryBad b = false) (hi : (s.stop (tileBlock (bits (rdLe b 0 2) 14 0))).isolated = true) :
    s.deliverEntry q b = (s, 6) := (if_neg (Bool.eq_false_iff.1 h)).trans (if_pos (.inl hi))

theorem serveEntry_done {u : State} {c : Nat} (h : s.deliverEntry q b = (u, c)) (hc : c ≠ 5) : s.serveEntry q b = u.entryDone q c := by
  rw [State.serveEntry, h]
  exact if_neg hc

/-- An entry that is answered TRIG_BUSY waits. -/
theorem serveEntry_busy {u : State} (h : s.deliverEntry q b = (u, 5)) (hb : b.length = 64) :
    (s.serveEntry q b).withSqHeld u.sqHeld = u ∧ mapGet [] q (s.serveEntry q b).sqHeld = b := by
  have hserve : s.serveEntry q b = u.withSqHeld (mapPut [] q b u.sqHeld) := by
    rw [State.serveEntry, h, if_pos rfl, padTo_of_length hb]
  rw [hserve]
  refine ⟨rfl, mapGet_mapPut_of_ne q (fun he => ?_) _⟩
  rw [he] at hb
  exact absurd hb (by decide)

theorem reoffer_none (h : (s.sqHeld.find? fun x => x.1 == q) = none) : s.reoffer q = s := by rw [State.reoffer, h]

theorem reoffer_some {x : Nat × Bytes} (h : (s.sqHeld.find? fun x => x.1 == q) = some x) :
    s.reoffer q = if s.entryDue q then s.serveEntry q x.2 else s := by rw [State.reoffer, h]

end

/-! BAR2. -/

/-- A range within one block of 64 B has one part. -/
theorem rangeParts_one {a n : Nat} (h0 : 0 < n) (h : a % 64 + n ≤ 64) : rangeParts a n = [(a, n)] := by
  have hblocks : blocksOf a n = [a / 64] := by
    rw [blocksOf, if_neg (by omega), show (a + n - 1) / 64 - a / 64 + 1 = 1 by omega]
    rfl
  have hlow : max a (64 * (a / 64)) = a := by omega
  have hlen : min (a + n) (64 * (a / 64) + 64) - a = n := by omega
  simp only [rangeParts, hblocks, List.map_cons, List.map_nil, hlow, hlen]

theorem shifted_mod (w off : Nat) : (w <<< 30 + off) % 64 = off % 64 := by
  rw [Nat.shiftLeft_eq]
  omega

theorem stackDie_lt (k : Nat) : stackDie k < 16 := by
  unfold stackDie nth
  by_cases h : k < 12
  · interval_cases k <;> decide
  · rw [List.getElem?_eq_none (by simp; omega)]
    decide

theorem memReg_eq (k off : Nat) : memReg k off = 0x1000000 + stackDie k * 0x100000 + off := by
  rw [memReg, dieReg, dieBase_tile (stackDie_lt k)]

section
variable {o s : State}

/-- A capacity is shown in MEM_STATUS. -/
theorem devServed_congr {a : Nat} (h : ∀ k, s.reg (memReg k Reg.memStatus) = o.reg (memReg k Reg.memStatus)) : s.devServed a = o.devServed a := by
  have hfld : s.fld (memReg (devStack a) Reg.memStatus) 10 1 = o.fld (memReg (devStack a) Reg.memStatus) 10 1 :=
    congrArg (fun v : BitVec 64 => bits v.toNat 10 1) (h (devStack a))
  have hunits : s.capUnits (devStack a) = o.capUnits (devStack a) := congrArg (if devStack a < 12 then · else 0) hfld
  have hbytes : s.capBytes (devStack a) = o.capBytes (devStack a) := congrArg (· * unitBytes) hunits
  exact congrArg (fun n => decide (a < 12 * 2 ^ 36) && decide (devOff a < n)) hbytes

theorem devServed_external (s : State) (n a : Nat) : (s.external n).devServed a = s.devServed a :=
  devServed_congr fun k => (s.external_frame n).1 _ (by rw [memReg_eq]; unfold Reg.detExtCnt; omega)

theorem devServed_hbmUpset (s : State) (j : Nat) (u : Upset) (a : Nat) : (s.hbmUpset j u).devServed a = s.devServed a := by
  have hdie (k : Nat) : memReg k Reg.memStatus ≠ dieReg (stackDie j) Reg.fltDieEccCorrCnt := by
    have hk := stackDie_lt k
    rw [memReg_eq, dieReg, dieBase_tile (stackDie_lt j)]
    unfold Reg.memStatus Reg.fltDieEccCorrCnt
    omega
  have hmem (k : Nat) : memReg k Reg.memStatus ≠ memReg j Reg.memEccCorrCnt := by
    have hk := stackDie_lt k
    have hj := stackDie_lt j
    rw [memReg_eq, memReg_eq]
    unfold Reg.memStatus Reg.memEccCorrCnt
    omega
  have hbreak (blk : Nat) : (s.hbmBreak j blk).devServed a = s.devServed a := by
    unfold State.hbmBreak
    split
    · rfl
    · exact devServed_congr fun _ => rfl
  unfold State.hbmUpset
  split
  · exact devServed_congr fun k => (State.reg_withReg_ne _ (hdie k)).trans (State.reg_withReg_ne _ (hmem k))
  · split
    · exact hbreak _
    · rfl
  · rfl

theorem devServed_badHbm (s : State) (w : Bool) (x a : Nat) : (s.badHbm w x).devServed a = s.devServed a := by
  have hne {r : Nat} (hr : r < 0x1000000) (k : Nat) : memReg k Reg.memStatus ≠ r := by
    rw [memReg_eq]
    omega
  exact devServed_congr fun k => (State.reg_withReg_ne _ (hne (by decide) k)).trans
    ((State.reg_withReg_ne _ (hne (by decide) k)).trans (State.reg_withReg_ne _ (hne (by decide) k)))

end

section
variable {s : State} {off n : Nat} {w : Upset}

/-- The device address of an access. -/
abbrev State.bar2Addr (s : State) (off : Nat) : Nat := s.fld Reg.porBar2Base 39 30 <<< 30 + off

theorem bar2_held {wr : Bool} {len : Nat} {d : Bytes} (hp : rangeParts (s.bar2Addr off) (if wr then d.length else len) = [(s.bar2Addr off, n)])
    (hs : s.devServed (s.bar2Addr off) = true) (hh : s.hbmHeld (devStack (s.bar2Addr off)) (devOff (s.bar2Addr off)) n = true) :
    s.bar2 off wr len d w = s := by
  refine if_pos ?_
  rw [hp, List.any_cons, hs, hh]
  rfl

theorem bar2_read_served {t : State} {d : Bytes} {f : Bool} (hp : rangeParts (s.bar2Addr off) n = [(s.bar2Addr off, n)])
    (hs : s.devServed (s.bar2Addr off) = true) (hh : s.hbmHeld (devStack (s.bar2Addr off)) (devOff (s.bar2Addr off)) n = false)
    (hr : ((s.external 1).hbmUpset (devStack (s.bar2Addr off)) w).hbmRead (devStack (s.bar2Addr off)) (devOff (s.bar2Addr off)) n false 0 = (t, d, f)) :
    s.bar2 off false n [] w = t.emit (.bar2Reply d f) := by
  have hserved : ((s.external 1).hbmUpset (devStack (s.bar2Addr off)) w).devServed (s.bar2Addr off) = true := by
    rw [devServed_hbmUpset, devServed_external, hs]
  unfold State.bar2
  simp [hp, hs, hh, hserved, hr]

theorem bar2_write_served {d : Bytes} (hp : rangeParts (s.bar2Addr off) d.length = [(s.bar2Addr off, d.length)])
    (hs : s.devServed (s.bar2Addr off) = true) (hh : s.hbmHeld (devStack (s.bar2Addr off)) (devOff (s.bar2Addr off)) d.length = false) :
    s.bar2 off true 0 d w =
      (((s.external 1).hbmUpset (devStack (s.bar2Addr off)) w).hbmWrite (devStack (s.bar2Addr off)) (devOff (s.bar2Addr off)) d).1 := by
  have hserved : ((s.external 1).hbmUpset (devStack (s.bar2Addr off)) w).devServed (s.bar2Addr off) = true := by
    rw [devServed_hbmUpset, devServed_external, hs]
  have hall : slice d 0 d.length = d := List.take_length
  unfold State.bar2
  simp [hp, hs, hh, hserved, hall]

theorem bar2_read_unserved (hp : rangeParts (s.bar2Addr off) n = [(s.bar2Addr off, n)]) (hs : s.devServed (s.bar2Addr off) = false) :
    s.bar2 off false n [] w = ((s.external 1).badHbm false (s.bar2Addr off)).emit (.bar2Reply (List.replicate n 0) false) := by
  have hserved : ((s.external 1).badHbm false (s.bar2Addr off)).devServed (s.bar2Addr off) = false := by
    rw [devServed_badHbm, devServed_external, hs]
  unfold State.bar2
  simp [hp, hs, hserved, zeros]

theorem bar2_write_unserved {d : Bytes} (hp : rangeParts (s.bar2Addr off) d.length = [(s.bar2Addr off, d.length)])
    (hs : s.devServed (s.bar2Addr off) = false) : s.bar2 off true 0 d w = (s.external 1).badHbm true (s.bar2Addr off) := by
  have hserved : ((s.external 1).badHbm true (s.bar2Addr off)).devServed (s.bar2Addr off) = false := by
    rw [devServed_badHbm, devServed_external, hs]
  unfold State.bar2
  simp [hp, hs, hserved]

end

/-- Settles O56, by the branches of serving an entry and by the one part of an access within a block. -/
theorem hostAccesses : Obligations.HostAccesses := by
  intro s q b _ hb
  have hpad := padTo_of_length hb
  refine ⟨fun f h => congrArg Host.Outcome.next (startEntry_waits ?_), fun hd hi => congrArg Host.Outcome.next ?_, fun hd hi h => congrArg Host.Outcome.next ?_,
    fun hd hi h hiso => congrArg Host.Outcome.next ?_, fun u c hd hi h hc => congrArg Host.Outcome.next ?_, fun u hd hi h =>
      ⟨s.serveEntry q b, congrArg Host.Outcome.next ?_, serveEntry_busy h hb⟩,
    fun h => congrArg Host.Outcome.next ?_, fun x u c hx hd h hc => congrArg Host.Outcome.next ?_,
    fun x u hx hd h hlen => ⟨s.serveEntry q x.2, congrArg Host.Outcome.next ?_, serveEntry_busy h hlen⟩, fun off n w h0 hn => ?_⟩
  · rcases h with h | h
    · exact .inl (Bool.eq_false_iff.2 fun hdue => h (entryDue_iff.1 hdue))
    · exact .inr (Bool.eq_true_of_not_eq_false h)
  · rw [startEntry_due (entryDue_iff.2 hd) hi, if_pos rfl]
  · rw [startEntry_due (entryDue_iff.2 hd) hi, if_neg Bool.false_ne_true, hpad, serveEntry_done (deliverEntry_bad (entryBad_of h)) (by decide)]
    rfl
  · rw [startEntry_due (entryDue_iff.2 hd) hi, if_neg Bool.false_ne_true, hpad, serveEntry_done (deliverEntry_isolated h hiso) (by decide)]
    rfl
  · rw [startEntry_due (entryDue_iff.2 hd) hi, if_neg Bool.false_ne_true, hpad, serveEntry_done h hc]
    rfl
  · rw [startEntry_due (entryDue_iff.2 hd) hi, if_neg Bool.false_ne_true, hpad]
  · rcases h with h | h
    · exact reoffer_none h
    · cases hx : s.sqHeld.find? fun x => x.1 == q with
      | none => exact reoffer_none hx
      | some x => rw [reoffer_some hx, if_neg fun hdue => h (entryDue_iff.1 hdue)]
  · rw [reoffer_some hx, if_pos (entryDue_iff.2 hd), serveEntry_done h hc]
    rfl
  · rw [reoffer_some hx, if_pos (entryDue_iff.2 hd)]
  · have hp : rangeParts (s.bar2Addr off) n = [(s.bar2Addr off, n)] := rangeParts_one h0 (by rw [State.bar2Addr, shifted_mod]; exact hn)
    refine ⟨fun hs hh => congrArg Host.Outcome.next (bar2_held hp hs hh), fun hs hh t d f hr => congrArg Host.Outcome.next (bar2_read_served hp hs hh hr),
      fun d hd hs hh => congrArg Host.Outcome.next ?_, fun hs => congrArg Host.Outcome.next (bar2_read_unserved hp hs),
      fun d hd hs => congrArg Host.Outcome.next ?_⟩
    · subst hd
      exact bar2_write_served hp hs hh
    · subst hd
      exact bar2_write_unserved hp hs

end Sys2Proof.Machine
end

section
/-! PROOFS. What the porter answers, status by status, and which messages it takes (R340, R365, R380-R382, R384, R386). -/

namespace Sys2Proof.Machine

/-! The answer to a request (R381). -/

/-- A request's header with STATUS, and what is answered. -/
def answerTo (m : Bytes) (status : Nat) (payload : Bytes) : Bytes :=
  m.take 3 ++ [BitVec.ofNat 8 status] ++ (m.drop 4).take 12 ++ payload

/-- A state whose porter keeps and sends an answer. -/
def State.answering (s : State) (who : Sender) (seq : Nat) (a : Bytes) : State :=
  (s.withPorter { s.porter with senders := keepSender s.porter.senders who seq a }).emit (.porterReply who a)

/-- A state whose porter sends a kept answer again. -/
def State.repeating (s : State) (who : Sender) (a : Bytes) : State := (s.bump Reg.porMsgDupCnt).emit (.porterReply who a)

theorem padTo_of_le {n : Nat} {m : Bytes} (h : n ≤ m.length) : padTo n m = m.take n := by
  rw [padTo, Nat.sub_eq_zero_of_le h]
  exact List.append_nil _

theorem length_porterMsg (seq op len count addr : Nat) (p : Bytes) : 16 ≤ (porterMsg seq op len count addr p).length := by
  simp [porterMsg, length_natLe]
  omega

theorem porterAnswer_eq {m : Bytes} (h : 16 ≤ m.length) (status : Nat) (p : Bytes) : porterAnswer m status p = answerTo m status p := by
  have hrest : 12 ≤ (m.drop 4).length := by
    rw [List.length_drop]
    omega
  have hbyte : natLe 1 status = [BitVec.ofNat 8 status] := by
    refine congrArg (fun b : BitVec 8 => [b]) (BitVec.eq_of_toNat_eq ?_)
    simp
  rw [porterAnswer, padTo_of_le (by omega), padTo_of_le hrest, hbyte, answerTo]

section Request
variable {s : State} {who : Sender} {seq op len count addr : Nat} {p : Bytes} (hon : 3 ≤ s.seqPhase) (hq : s.porter.queue = [])
include hon hq

/-- A new request is answered with what it does. -/
theorem State.porterRequest_new {t : State} {st : Nat} {b : Bytes} (hseq : seq < 65536) (ho : op < 256) (hl : len < 65536) (hc : count < 65536)
    (ha : addr < 2 ^ 64) (hkept : s.keptAnswer who seq = none) (hw : op = 7 → s.hbmHeld (devStack addr) (devOff addr) (32 * count) = false)
    (hrun : s.porterRun who ⟨seq, op, len, count, addr, p⟩ = (t, st, b)) :
    s.porterRequest who (porterMsg seq op len count addr p) = t.answering who seq (answerTo (porterMsg seq op len count addr p) st b) := by
  have hreq := porterReq_porterMsg p hseq ho hl hc ha
  have hwait : s.porterWaits (porterMsg seq op len count addr p) = false := by
    rw [State.porterWaits, hreq]
    by_cases h7 : op = 7
    · simp [hw h7]
    · simp [h7]
  rw [State.porterRequest_served hon hq hwait, State.porterServe, hreq, hkept, hrun, ← porterAnswer_eq (length_porterMsg ..)]
  rfl

/-- One whose SEQ its sender has just used is answered with what was kept, whatever else it holds. -/
theorem State.porterRequest_kept {a : Bytes} (hseq : seq < 65536) (hkept : s.keptAnswer who seq = some a)
    (hw : s.porterWaits (porterMsg seq op len count addr p) = false) : s.porterRequest who (porterMsg seq op len count addr p) = s.repeating who a := by
  have hread : (porterReq (porterMsg seq op len count addr p)).seq = seq := leNat_natLe_of_lt (n := 2) hseq
  rw [State.porterRequest_served hon hq hw, State.porterServe, hread, hkept]
  rfl

/-- A TRACE_READ of bytes under repair waits (R340). -/
theorem State.porterRequest_waits {m : Bytes} (hw : s.porterWaits m = true) :
    s.porterRequest who m = s.withPorter { s.porter with queue := [(who, m)] } := by
  have hdrain : s.porterDrain = s := by
    rw [State.porterDrain, hq]
    rfl
  have harrive : s.porterArrives who m = s.withPorter { s.porter with queue := [(who, m)] } := by
    rw [State.porterArrives, hq, if_pos (by decide)]
    rfl
  rw [State.porterRequest, if_pos (show s.porterOn = true from decide_eq_true hon), hdrain, harrive]
  exact if_pos hw

end Request

theorem State.porterWaits_other (s : State) {seq op len count addr : Nat} (p : Bytes) (ho : op < 7) :
    s.porterWaits (porterMsg seq op len count addr p) = false := by
  have hread : (porterReq (porterMsg seq op len count addr p)).op = op := leNat_natLe_of_lt (n := 1) (by omega)
  rw [State.porterWaits, hread, beq_eq_false_iff_ne.2 (by omega)]
  rfl

theorem State.porterWaits_trace (s : State) {seq count addr : Nat} (hs : seq < 65536) (hc : count < 65536) (ha : addr < 2 ^ 64) :
    s.porterWaits (porterMsg seq 7 0 count addr []) = s.hbmHeld (devStack addr) (devOff addr) (32 * count) := by
  rw [State.porterWaits, porterReq_porterMsg [] hs (by decide) (by decide) hc ha]
  rfl

/-! What each request answers. -/

section Run
variable (s : State) {who : Sender} {seq : Nat}

theorem State.porterRun_read_size {addr count : Nat} (h : count = 0 ∨ 32 < count) : s.porterRun who ⟨seq, 1, 0, count, addr, []⟩ = (s, 2, []) := by
  have hsize : ¬ (⟨seq, 1, 0, count, addr, []⟩ : PorterReq).sized = true := by
    simp [PorterReq.sized]
    omega
  exact if_neg hsize

theorem State.porterRun_trace_size {addr count : Nat} (h : count = 0 ∨ 8 < count) : s.porterRun who ⟨seq, 7, 0, count, addr, []⟩ = (s, 2, []) := by
  have hsize : ¬ (⟨seq, 7, 0, count, addr, []⟩ : PorterReq).sized = true := by
    simp [PorterReq.sized]
    omega
  exact if_neg hsize

theorem State.porterRun_trace_place {addr count : Nat} (h1 : 1 ≤ count) (h8 : count ≤ 8) (h : addr % 32 ≠ 0 ∨ s.inTrace addr (32 * count) = false) :
    s.porterRun who ⟨seq, 7, 0, count, addr, []⟩ = (s, 6, []) := by
  have hsize : (⟨seq, 7, 0, count, addr, []⟩ : PorterReq).sized = true := by simp [PorterReq.sized, h1, h8]
  refine (if_pos hsize).trans ?_
  show s.porterTrace addr (32 * count) = _
  refine if_neg fun ⟨hal, hin⟩ => ?_
  rcases h with h | h
  · exact h hal
  · exact Bool.false_ne_true (h.symm.trans hin)

section View
variable {addr : Nat}

theorem State.porterRun_viewRead_unparsed (hx : s.parseUnit addr = none) :
    s.porterRun who ⟨seq, 3, 0, 0, addr, []⟩ = (s.bump Reg.porBadUnitCnt, 3, []) := by
  show s.porterView addr (fun _ => some s) s.viewRecord = _
  rw [State.porterView, State.viewUnit, hx]
  rfl

theorem State.porterRun_viewRead_level {x : Unit6} (hx : s.parseUnit addr = some x) (h : x.level < 2 ∨ 5 < x.level) :
    s.porterRun who ⟨seq, 3, 0, 0, addr, []⟩ = (s, 3, []) := by
  have hnone : s.viewUnit addr = none := by
    rw [State.viewUnit, hx]
    exact if_neg (by omega)
  show s.porterView addr (fun _ => some s) s.viewRecord = _
  rw [State.porterView, hnone, hx]
  rfl

theorem State.porterRun_viewSet_full {x : Unit6} {r : Bool} (hx : s.parseUnit addr = some x) (h2 : 2 ≤ x.level) (h5 : x.level ≤ 5)
    (hput : s.viewPut x r = none) : s.porterRun who ⟨seq, 4, 8, 0, addr, natLe 8 (b2n r)⟩ = (s, 5, []) := by
  have hbit : bit (rdLe (natLe 8 (b2n r)) 0 8) 0 = r := by cases r <;> decide
  show s.porterView addr (fun u => s.viewPut u (bit (rdLe (natLe 8 (b2n r)) 0 8) 0)) (fun _ => []) = _
  rw [hbit, State.porterView, s.viewUnit_parsed hx h2 h5]
  dsimp only
  rw [hput]

/-- What VIEW_SET writes of a unit. -/
abbrev State.viewEntry (s : State) (x : Unit6) (r : Bool) : View := ⟨viewKey x, r, s.ownerEpoch (s.unitOwner x)⟩

theorem State.viewPut_held {x : Unit6} {r : Bool} (h : ∃ y ∈ s.porter.views, y.unit = viewKey x) : s.viewPut x r =
    some (s.withPorter { s.porter with views := s.porter.views.map fun y => if y.unit = viewKey x then s.viewEntry x r else y }) := by
  obtain ⟨y, hy, hk⟩ := h
  have hany : (s.porter.views.any fun y => y.unit == viewKey x) = true := List.any_eq_true.2 ⟨y, hy, beq_iff_eq.2 hk⟩
  have hmap : (s.porter.views.map fun y => if (y.unit == viewKey x) = true then s.viewEntry x r else y) =
      s.porter.views.map fun y => if y.unit = viewKey x then s.viewEntry x r else y :=
    List.map_congr_left fun y _ => by simp only [beq_iff_eq]
  exact (if_pos hany).trans (congrArg (fun l => some (s.withPorter { s.porter with views := l })) hmap)

section
variable {x : Unit6} {r : Bool} (h : ∀ y ∈ s.porter.views, y.unit ≠ viewKey x)
include h

theorem State.viewPut_none_held : ¬ (s.porter.views.any fun y => y.unit == viewKey x) = true := fun hany => by
  obtain ⟨y, hy, hk⟩ := List.any_eq_true.1 hany
  exact h y hy (beq_iff_eq.1 hk)

theorem State.viewPut_new (hn : s.porter.views.length < 256) :
    s.viewPut x r = some (s.withPorter { s.porter with views := s.porter.views ++ [s.viewEntry x r] }) :=
  (if_neg (s.viewPut_none_held h)).trans (if_neg (by omega))

theorem State.viewPut_full (hn : 256 ≤ s.porter.views.length) : s.viewPut x r = none := (if_neg (s.viewPut_none_held h)).trans (if_pos hn)

end

end View

section Key
variable {k st : Nat}

/-- A key command that is refused changes nothing (R384). -/
theorem State.porterRun_keyProgram_refused {hash : Bytes} (hl : hash.length = 48) (hst : s.keyStatus who k true = st) (hne : st ≠ 0) :
    s.porterRun who ⟨seq, 5, 48, 0, k, hash⟩ = (s, st, []) := by
  have hsize : (⟨seq, 5, 48, 0, k, hash⟩ : PorterReq).sized = true := by simp [PorterReq.sized, hl]
  refine (if_pos hsize).trans ?_
  show s.porterKey who k (some hash) = _
  rw [State.porterKey, Option.isSome_some, hst, if_neg hne]

theorem State.porterRun_keyRevoke_refused (hst : s.keyStatus who k false = st) (hne : st ≠ 0) :
    s.porterRun who ⟨seq, 6, 0, 0, k, []⟩ = (s, st, []) := by
  show s.porterKey who k none = _
  rw [State.porterKey, Option.isSome_none, hst, if_neg hne]

theorem State.porterRun_keyProgram_blown {hash : Bytes} (hl : hash.length = 48) (hst : s.keyStatus who k true = 0) :
    s.porterRun who ⟨seq, 5, 48, 0, k, hash⟩ =
      (s.withKey k { nth s.porter.keys k ⟨[], false, false⟩ with hash := hash, programmed := true }, 0, []) := by
  have hsize : (⟨seq, 5, 48, 0, k, hash⟩ : PorterReq).sized = true := by simp [PorterReq.sized, hl]
  refine (if_pos hsize).trans ?_
  show s.porterKey who k (some hash) = _
  rw [State.porterKey, Option.isSome_some, hst, if_pos rfl, State.keyBlow]

theorem State.porterRun_keyRevoke_blown (hst : s.keyStatus who k false = 0) :
    s.porterRun who ⟨seq, 6, 0, 0, k, []⟩ = (s.withKey k { nth s.porter.keys k ⟨[], false, false⟩ with revoked := true }, 0, []) := by
  show s.porterKey who k none = _
  rw [State.porterKey, Option.isSome_none, hst, if_pos rfl, State.keyBlow]

theorem State.keyStatus_sender {b : Bool} (hw : who ≠ .i3c) : s.keyStatus who k b = 4 := if_pos hw

theorem State.keyStatus_slot {b : Bool} (hk : 2 ≤ k) : s.keyStatus .i3c k b = 6 := by simp [State.keyStatus, hk]

theorem State.keyStatus_committing {b : Bool} (hk : k < 2) (hc : s.committing = true) : s.keyStatus .i3c k b = 5 := by
  simp [State.keyStatus, hk, hc]

theorem State.keyStatus_program (hk : k < 2) (hc : s.committing = false) :
    s.keyStatus .i3c k true = if (nth s.porter.keys k ⟨[], false, false⟩).programmed then 4 else 0 := by
  simp [State.keyStatus, hk, hc]

theorem State.keyStatus_revoke (hk : k < 2) (hc : s.committing = false) : s.keyStatus .i3c k false =
    if ¬ (nth s.porter.keys k ⟨[], false, false⟩).programmed ∨ (nth s.porter.keys k ⟨[], false, false⟩).revoked then 4 else 0 := by
  simp [State.keyStatus, hk, hc]

end Key

end Run

/-! The requests. -/

section Requests
variable {s : State} {who : Sender} {seq addr : Nat} (hon : 3 ≤ s.seqPhase) (hq : s.porter.queue = []) (hseq : seq < 65536) (ha : addr < 2 ^ 64)
include hon hq hseq

theorem exec_kept {a : Bytes} (h : s.keptAnswer who seq = some a) (count : Nat) :
    exec (.regRead who seq addr count) s = .next (s.repeating who a) ∧ exec (.viewRead who seq addr) s = .next (s.repeating who a) ∧
      exec (.keyRevoke who seq addr) s = .next (s.repeating who a) ∧ (∀ r, exec (.viewSet who seq addr r) s = .next (s.repeating who a)) ∧
      (∀ hash, exec (.keyProgram who seq addr hash) s = .next (s.repeating who a)) ∧
      ∀ l, exec (.regWrite who seq addr l) s = .next (s.repeating who a) := by
  have again (op len n : Nat) (p : Bytes) (ho : op < 7) :
      (Host.Outcome.next (s.porterRequest who (porterMsg seq op len n addr p)) : Out) = .next (s.repeating who a) :=
    congrArg Host.Outcome.next (State.porterRequest_kept hon hq hseq h (s.porterWaits_other p ho))
  exact ⟨again 1 _ _ _ (by decide), again 3 _ _ _ (by decide), again 6 _ _ _ (by decide), fun _ => again 4 _ _ _ (by decide),
    fun _ => again 5 _ _ _ (by decide), fun _ => again 2 _ _ _ (by decide)⟩

include ha

theorem exec_traceRead_kept {a : Bytes} {count : Nat} (hc : count < 65536) (h : s.keptAnswer who seq = some a)
    (hfree : s.hbmHeld (devStack addr) (devOff addr) (32 * count) = false) : exec (.traceRead who seq addr count) s = .next (s.repeating who a) :=
  congrArg Host.Outcome.next (State.porterRequest_kept hon hq hseq h ((s.porterWaits_trace hseq hc ha).trans hfree))

theorem exec_traceRead_waits {count : Nat} (hc : count < 65536) (hheld : s.hbmHeld (devStack addr) (devOff addr) (32 * count) = true) :
    exec (.traceRead who seq addr count) s = .next (s.withPorter { s.porter with queue := [(who, porterMsg seq 7 0 count addr [])] }) :=
  congrArg Host.Outcome.next (State.porterRequest_waits hon hq ((s.porterWaits_trace hseq hc ha).trans hheld))

variable (hkept : s.keptAnswer who seq = none)
include hkept

/-- A new request of any kind but TRACE_READ. -/
theorem State.porterRequest_do {op len count st : Nat} {p b : Bytes} {t : State} (ho : op < 7) (hl : len < 65536) (hc : count < 65536)
    (hrun : s.porterRun who ⟨seq, op, len, count, addr, p⟩ = (t, st, b)) :
    (Host.Outcome.next (s.porterRequest who (porterMsg seq op len count addr p)) : Out) =
      .next (t.answering who seq (answerTo (porterMsg seq op len count addr p) st b)) :=
  congrArg Host.Outcome.next (State.porterRequest_new hon hq hseq (by omega) hl hc ha hkept (fun h => absurd h (by omega)) hrun)

theorem State.porterRequest_trace {count st : Nat} {b : Bytes} {t : State} (hc : count < 65536)
    (hfree : s.hbmHeld (devStack addr) (devOff addr) (32 * count) = false)
    (hrun : s.porterRun who ⟨seq, 7, 0, count, addr, []⟩ = (t, st, b)) :
    exec (.traceRead who seq addr count) s = .next (t.answering who seq (answerTo (porterMsg seq 7 0 count addr []) st b)) :=
  congrArg Host.Outcome.next (State.porterRequest_new hon hq hseq (by decide) (by decide) hc ha hkept (fun _ => hfree) hrun)

/-- Each key command has the status that its sender, its slot and the state of the slot give (R384). -/
theorem exec_keys {hash : Bytes} (hl : hash.length = 48) :
    let k := nth s.porter.keys addr ⟨[], false, false⟩
    let programs (t : State) (st : Nat) : Prop :=
      exec (.keyProgram who seq addr hash) s = .next (t.answering who seq (answerTo (porterMsg seq 5 48 0 addr hash) st []))
    let revokes (t : State) (st : Nat) : Prop :=
      exec (.keyRevoke who seq addr) s = .next (t.answering who seq (answerTo (porterMsg seq 6 0 0 addr []) st []))
    (who ≠ .i3c → programs s 4 ∧ revokes s 4) ∧ (who = .i3c → 2 ≤ addr → programs s 6 ∧ revokes s 6) ∧
      (who = .i3c → addr < 2 → s.committing = true → programs s 5 ∧ revokes s 5) ∧
      (who = .i3c → addr < 2 → s.committing = false → k.programmed = true → programs s 4) ∧
      (who = .i3c → addr < 2 → s.committing = false → k.programmed = false → programs (s.withKey addr { k with hash := hash, programmed := true }) 0) ∧
      (who = .i3c → addr < 2 → s.committing = false → k.programmed = false ∨ k.revoked = true → revokes s 4) ∧
      (who = .i3c → addr < 2 → s.committing = false → k.programmed = true → k.revoked = false →
        revokes (s.withKey addr { k with revoked := true }) 0) := by
  intro k programs revokes
  have program {st : Nat} {t : State} (hrun : s.porterRun who ⟨seq, 5, 48, 0, addr, hash⟩ = (t, st, [])) : programs t st := by
    have h := State.porterRequest_do hon hq hseq ha hkept (by decide) (by decide) (by decide) hrun
    show Host.Outcome.next (s.porterRequest who (porterMsg seq 5 hash.length 0 addr hash)) = _
    rwa [hl]
  have revoke {st : Nat} {t : State} (hrun : s.porterRun who ⟨seq, 6, 0, 0, addr, []⟩ = (t, st, [])) : revokes t st :=
    State.porterRequest_do hon hq hseq ha hkept (by decide) (by decide) (by decide) hrun
  have both {st : Nat} (hne : st ≠ 0) (hst : ∀ b, s.keyStatus who addr b = st) : programs s st ∧ revokes s st :=
    ⟨program (s.porterRun_keyProgram_refused hl (hst true) hne), revoke (s.porterRun_keyRevoke_refused (hst false) hne)⟩
  refine ⟨fun hw => both (by decide) fun _ => s.keyStatus_sender hw, fun hw hk => both (by decide) fun _ => ?_,
    fun hw hk hc => both (by decide) fun _ => ?_, fun hw hk hc hp => program (s.porterRun_keyProgram_refused hl ?_ (by decide)),
    fun hw hk hc hp => program (s.porterRun_keyProgram_blown hl ?_), fun hw hk hc h => revoke (s.porterRun_keyRevoke_refused ?_ (by decide)),
    fun hw hk hc hp hr => revoke (s.porterRun_keyRevoke_blown ?_)⟩
  · exact hw ▸ s.keyStatus_slot hk
  · exact hw ▸ s.keyStatus_committing hk hc
  · exact hw ▸ (s.keyStatus_program hk hc).trans (if_pos hp)
  · exact hw ▸ (s.keyStatus_program hk hc).trans (if_neg fun h => Bool.false_ne_true (hp.symm.trans h))
  · exact hw ▸ (s.keyStatus_revoke hk hc).trans (if_pos (h.imp_left fun hp hp' => Bool.false_ne_true (hp.symm.trans hp')))
  · refine hw ▸ (s.keyStatus_revoke hk hc).trans (if_neg ?_)
    rintro (h | h)
    · exact h hp
    · exact Bool.false_ne_true (hr.symm.trans h)

end Requests

/-! Messages that wait, and neighbour discovery (R365, R380, R382). -/

theorem exec_porter_off {s : State} (who : Sender) (m : Bytes) (h : s.seqPhase < 3) : exec (.porterMessage who m) s = .next s ∧
    (∀ q a n, exec (.regRead who q a n) s = .next s) ∧ ∀ a, exec (.neighbourDiscovery a) s = .next s := by
  have hoff : ¬ s.porterOn = true := fun h' => absurd (of_decide_eq_true h') (by omega)
  exact ⟨congrArg Host.Outcome.next (if_neg hoff), fun _ _ _ => congrArg Host.Outcome.next (if_neg hoff),
    fun _ => congrArg Host.Outcome.next (if_neg fun h' => hoff h'.1)⟩

theorem exec_porterMessage_on {s : State} (who : Sender) (m : Bytes) (h : 3 ≤ s.seqPhase) :
    exec (.porterMessage who m) s = .next (s.porterArrives who m) :=
  congrArg Host.Outcome.next (if_pos (show s.porterOn = true from decide_eq_true h))

/-- Settles O57: a request is read back from its message, a repeated one is answered with what was kept, and any other by its command's rule. -/
theorem porter : Obligations.Porter := by
  refine ⟨fun s who seq addr count hon hq hseq ha hcount => ?_, fun s who m => ⟨exec_porter_off who m, ?_⟩⟩
  · intro answered msg new
    refine ⟨fun a h => exec_kept hon hq hseq h count, fun hnew h1 h2 t b hr => ?_, fun hnew h => ?_, fun hnew l h1 h2 => ?_, fun hnew hx => ?_,
      fun x hnew hx h => ?_, fun x hnew hx h2 h5 => ?_, fun x r hnew hx h2 h5 => ?_, fun hash hnew hl => ?_,
      exec_traceRead_waits hon hq hseq ha hcount, fun a hfree h => exec_traceRead_kept hon hq hseq ha hcount h hfree, fun hnew hfree => ?_⟩
    · have hrun := s.porterRun_read (who := who) (seq := seq) (addr := addr) h1 h2
      rw [hr] at hrun
      exact State.porterRequest_do hon hq hseq ha hnew (by decide) (by decide) hcount hrun
    · exact State.porterRequest_do hon hq hseq ha hnew (by decide) (by decide) hcount (s.porterRun_read_size h)
    · exact State.porterRequest_do hon hq hseq ha hnew (by decide) (by omega) (by omega) (s.porterRun_write h1 h2)
    · exact State.porterRequest_do hon hq hseq ha hnew (by decide) (by decide) (by decide) (s.porterRun_viewRead_unparsed hx)
    · exact State.porterRequest_do hon hq hseq ha hnew (by decide) (by decide) (by decide) (s.porterRun_viewRead_level hx h)
    · exact State.porterRequest_do hon hq hseq ha hnew (by decide) (by decide) (by decide) (s.porterRun_viewRead hx h2 h5)
    · have set {st : Nat} {t : State} (hrun : s.porterRun who ⟨seq, 4, 8, 0, addr, natLe 8 (b2n r)⟩ = (t, st, [])) :=
        State.porterRequest_do hon hq hseq ha hnew (by decide) (by decide) (by decide) hrun
      exact ⟨fun h => set (s.porterRun_viewSet hx h2 h5 (s.viewPut_held h)),
        fun h hn => set (s.porterRun_viewSet hx h2 h5 (s.viewPut_new h hn)), fun h hn => set (s.porterRun_viewSet_full hx h2 h5 (s.viewPut_full h hn))⟩
    · exact exec_keys hon hq hseq ha hnew hl
    · have read {st : Nat} {t : State} {b : Bytes} (hrun : s.porterRun who ⟨seq, 7, 0, count, addr, []⟩ = (t, st, b)) :=
        State.porterRequest_trace hon hq hseq ha hnew hcount hfree hrun
      exact ⟨fun h => read (s.porterRun_trace_size h), fun h1 h8 h => read (s.porterRun_trace_place h1 h8 h),
        fun t b f h1 h8 hal hin hr => read (s.porterRun_trace h1 h8 hal hin hr)⟩
  · refine ⟨fun h hn => ?_, fun h hn hw => ?_, fun h hn hw => ?_, fun h => congrArg Host.Outcome.next (if_pos ⟨decide_eq_true h, rfl⟩),
      fun a hne => congrArg Host.Outcome.next (if_neg fun h => hne h.2)⟩
    · exact (exec_porterMessage_on who m h).trans (congrArg Host.Outcome.next (if_pos hn))
    · exact (exec_porterMessage_on who m h).trans (congrArg Host.Outcome.next ((if_neg (by omega)).trans (if_pos hw)))
    · exact (exec_porterMessage_on who m h).trans (congrArg Host.Outcome.next ((if_neg (by omega)).trans (if_neg hw)))

end Sys2Proof.Machine
end

section
/-! PROOFS. Loops over units, and what a reset of a die or a failed commit leaves alone (R49, R345, R346, Table 15-5). -/

namespace Sys2Proof.Machine

/-! Loops. -/

section
variable {α σ : Type} {f : α → σ → σ} {A B : σ → Prop}

theorem forEach_keep : ∀ {l : List α}, (∀ a ∈ l, ∀ s, A s → A (f a s)) → ∀ {s}, A s → A (forEach l f s)
  | [], _, _, h => h
  | a :: _, hA, s, h => forEach_keep (fun b hb => hA b (List.mem_cons_of_mem _ hb)) (hA a (List.mem_cons_self ..) s h)

/-- What a loop does at one of its places, where its other places do neither undo it nor touch what it rests on. -/
theorem forEach_at {k : α} (hk : ∀ s, A s → B (f k s)) : ∀ {l : List α}, (∀ a ∈ l, ∀ s, a ≠ k → A s → A (f a s)) →
    (∀ a ∈ l, ∀ s, a ≠ k → B s → B (f a s)) → l.Nodup → k ∈ l → ∀ {s}, A s → B (forEach l f s)
  | a :: l, hA, hB, hl, hmem, s, h => by
    obtain ⟨hnot, hl⟩ := List.nodup_cons.1 hl
    by_cases ha : a = k
    · subst ha
      exact forEach_keep (fun b hb s => hB b (List.mem_cons_of_mem _ hb) s fun he => hnot (he ▸ hb)) (hk s h)
    · exact forEach_at hk (fun b hb => hA b (List.mem_cons_of_mem _ hb)) (fun b hb => hB b (List.mem_cons_of_mem _ hb)) hl
        ((List.mem_cons.1 hmem).resolve_left fun he => ha he.symm) (hA a (List.mem_cons_self ..) s ha h)

end

theorem nodup_shift (a n : Nat) : ((List.range n).map (a + ·)).Nodup := List.nodup_range.map fun _ _ h => Nat.add_left_cancel h

theorem mem_shift {a n k : Nat} (h : a ≤ k) (h' : k < a + n) : k ∈ (List.range n).map (a + ·) :=
  List.mem_map.2 ⟨k - a, List.mem_range.2 (by omega), by omega⟩

/-! A reset of a die. -/

theorem dieBase_high (d : Nat) : 0x1000000 ≤ dieBase d := by
  unfold dieBase
  split <;> omega

theorem dieReg_high (d off : Nat) : 0x1000000 ≤ dieReg d off := (dieBase_high d).trans (Nat.le_add_right _ _)

/-- `s` is `o` after work on what a die holds: the package's registers, the lands, the dies' records, the mesh and the resets are as they were. -/
structure DieWork (o s : State) : Prop where
  pins : s.pins = o.pins
  dies : s.dies = o.dies
  mesh : s.mesh = o.mesh
  resets : s.faults.resets = o.faults.resets
  reg : ∀ a, a < 0x1000000 → ¬ noticeReg a → s.reg a = o.reg a

theorem LinkWork.dieWork {o s : State} (h : LinkWork o s) : DieWork o s where
  pins := h.pins
  dies := h.dies
  mesh := h.mesh
  resets := congrArg (fun s => s.faults.resets) h.unlinked
  reg a ha hn := h.reg a (linkKeptReg_package ha hn)

namespace DieWork

section
variable {o s u : State}

theorem refl (s : State) : DieWork s s := ⟨rfl, rfl, rfl, rfl, fun _ _ _ => rfl⟩

theorem trans (h : DieWork o s) (h' : DieWork s u) : DieWork o u :=
  ⟨h'.pins.trans h.pins, h'.dies.trans h.dies, h'.mesh.trans h.mesh, h'.resets.trans h.resets,
    fun a ha hn => (h'.reg a ha hn).trans (h.reg a ha hn)⟩

theorem each {α : Type} {f : α → State → State} (hf : ∀ a s, DieWork s (f a s)) (l : List α) (s : State) : DieWork s (forEach l f s) :=
  forEach_keep (A := DieWork s) (fun a _ t h => h.trans (hf a t)) (refl s)

theorem modTile {k g} : DieWork s (s.modTile k g) := ⟨rfl, rfl, rfl, rfl, fun _ _ _ => rfl⟩
theorem modCtrl {k g} : DieWork s (s.modCtrl k g) := ⟨rfl, rfl, rfl, rfl, fun _ _ _ => rfl⟩
theorem modBlock {k g} : DieWork s (s.modBlock k g) := ⟨rfl, rfl, rfl, rfl, fun _ _ _ => rfl⟩
theorem withChk {k x} : DieWork s (s.withChk k x) := ⟨rfl, rfl, rfl, rfl, fun _ _ _ => rfl⟩
theorem withTraceUnit {k x} : DieWork s (s.withTraceUnit k x) := ⟨rfl, rfl, rfl, rfl, fun _ _ _ => rfl⟩

theorem withReg {a w} (ha : 0x1000000 ≤ a) : DieWork s (s.withReg a w) :=
  ⟨rfl, rfl, rfl, rfl, fun _ hb _ => State.reg_withReg_ne w fun he => absurd (he ▸ ha) (by omega)⟩

theorem resetRegs {d : Nat} : DieWork s (s.resetRegs d) := by
  refine ⟨rfl, rfl, rfl, rfl, fun a ha _ => ?_⟩
  have hd := dieBase_high d
  refine mapGet_filter_key (d := regReset a) (k := a)
    (f := fun k => !(decide (dieBase d ≤ k) && decide (k < dieBase d + dieSpan d)) || keptReg d (k - dieBase d)) ?_ s.regs
  rw [decide_eq_false (by omega : ¬ dieBase d ≤ a)]
  rfl

theorem clearTileDie {d : Nat} : DieWork s (s.clearTileDie d) := by
  unfold State.clearTileDie
  generalize List.range 2304 = l
  have htiles : DieWork s (forEach l (fun q s => s.modTile (2304 * d + q) Tile.dieReset) s) := each (fun _ _ => modTile) _ _
  dsimp only
  refine DieWork.trans ?_ (each (fun _ _ => modBlock) _ _)
  split
  · exact htiles.trans (modCtrl.trans (each (fun _ _ => withChk) _ _))
  · exact htiles

theorem clearPortDie {n : Nat} : DieWork s (s.clearPortDie n) := by
  unfold State.clearPortDie
  dsimp only
  refine DieWork.trans (((LinkWork.refl s).dropStored.withPdie).dieWork.trans (each (fun _ _ => withChk) _ _)) (each (fun e t => ?_) _ _)
  have hport : DieWork t (t.withPort e Port.reset) := ((LinkWork.refl t).withPort).dieWork
  split
  · exact hport
  · exact hport.trans (withReg (portStatus_high e))

end

end DieWork

/-- A die's record after a reset of the die, and whether a commit in progress missed it. -/
def Die.cleared (d : Nat) (missed : Bool) (x : Die) : Die :=
  { x with active := if d < 16 then [] else x.active.take 0x240, check := [], staged := none, structured := false, fenced := true, missed := missed }

/-- A die whose registers and record are as after its reset. -/
def State.dieForgets (s : State) (d : Nat) : State := (s.resetRegs d).modDie d (Die.cleared d (s.committing && s.commit.dies.contains d))

theorem State.clearDie_eq (s : State) (d : Nat) : s.clearDie d =
    (if d < 16 then (s.dieForgets d).clearTileDie d else (s.dieForgets d).clearPortDie (d - 16)).withTraceUnit d ⟨[], false, false, false⟩ := by
  unfold State.clearDie State.dieForgets
  rfl

theorem State.clearDie_work (s : State) (d : Nat) :
    DieWork (s.modDie d (Die.cleared d (s.committing && s.commit.dies.contains d))) (s.clearDie d) := by
  have hregs : DieWork (s.modDie d (Die.cleared d (s.committing && s.commit.dies.contains d)))
      (s.dieForgets d) := ⟨rfl, rfl, rfl, rfl, fun a ha hn => (DieWork.resetRegs (s := s) (d := d)).reg a ha hn⟩
  rw [State.clearDie_eq]
  refine DieWork.trans (DieWork.trans hregs ?_) DieWork.withTraceUnit
  split
  · exact DieWork.clearTileDie
  · exact DieWork.clearPortDie

/-! A commit that fails. -/

/-- Registers that a failing commit writes. -/
def failReg (a : Nat) : Prop := noticeReg a ∨ a = Reg.strCommitStatus ∨ a = Reg.strCommitErrDetail ∨ a = Reg.pwrSeqStatus ∨ a = Reg.pwrEvent

/-- A state without its notices, its registers, the dies' records, the commit and what the boot remembers. -/
def State.bare (s : State) : State :=
  { s.silent with dies := [], commit := State.reset.commit, pins := { s.pins with autoBoot := false, bootPort := none, bootRefused := [] } }

/-- `s` is `o` after the failure of a commit. -/
structure Failed (o s : State) : Prop where
  bare : s.bare = o.bare
  reg : ∀ a, ¬ failReg a → s.reg a = o.reg a

theorem Noted.failed {o s : State} (h : Noted o s) : Failed o s where
  bare := by rw [State.bare, h.silent, h.pins, State.bare]
  reg a ha := h.reg a fun hn => ha (.inl hn)

namespace Failed

section
variable {o s u : State}

theorem refl (s : State) : Failed s s := ⟨rfl, fun _ _ => rfl⟩

theorem trans (h : Failed o s) (h' : Failed s u) : Failed o u := ⟨h'.bare.trans h.bare, fun a ha => (h'.reg a ha).trans (h.reg a ha)⟩

theorem ite {a b : State} {c : Prop} [Decidable c] (ha : Failed o a) (hb : Failed o b) : Failed o (if c then a else b) := by split <;> assumption

theorem withReg {a w} (h : Failed o s) (ha : failReg a) : Failed o (s.withReg a w) :=
  h.trans ⟨rfl, fun _ hb => State.reg_withReg_ne w fun he => hb (he ▸ ha)⟩

theorem withFld {a hi lo v} (h : Failed o s) (ha : failReg a) : Failed o (s.withFld a hi lo v) := h.withReg ha

theorem status {hi lo v} (h : Failed o s) : Failed o (s.withFld Reg.strCommitStatus hi lo v) := h.withFld (.inr (.inl rfl))

theorem seqStatus {hi lo v} (h : Failed o s) : Failed o (s.withFld Reg.pwrSeqStatus hi lo v) := h.withFld (.inr (.inr (.inr (.inl rfl))))

theorem powerEvent {i} (h : Failed o s) : Failed o (s.powerEvent i) := by
  unfold State.powerEvent
  exact ite h ((h.withFld (.inr (.inr (.inr (.inr rfl))))).trans ((Noted.refl _).raiseIrq (by decide)).failed)

theorem dropStaged (h : Failed o s) : Failed o s.dropStaged := by
  refine h.trans ⟨?_, fun a _ => ?_⟩
  · obtain ⟨m, hm⟩ := State.forEach_modDie_rest (fun x => { x with staged := none, missed := false }) (List.range 20) s
    unfold State.dropStaged
    rw [hm]
    rfl
  · rw [State.reg, State.dropStaged_regs, State.reg]

theorem bootEnds (h : Failed s u) : Failed s (u.withPins { s.pins with autoBoot := false, bootPort := none, bootRefused := [] }) := by
  refine ⟨?_, h.reg⟩
  show { u.bare with pins := s.bare.pins } = s.bare
  rw [h.bare]

theorem bootFails {code} (h : Failed o s) : Failed o (s.bootFails code) := by
  have hseq : Failed s (if s.seqPhase = 5 then s.withFld Reg.pwrSeqStatus 3 0 8 else s) := ite (refl s).seqStatus (refl s)
  exact h.trans (ite hseq.powerEvent.seqStatus.bootEnds hseq)

theorem commitAbort {code} (h : Failed o s) : Failed o (s.commitAbort code) := by
  have hnoted : Failed o s.noted := ite h h.status
  rw [State.commitAbort_eq]
  exact ((((hnoted.dropStaged.status.status).withReg (.inr (.inr (.inl rfl)))).trans ((Noted.refl _).raiseIrq (by decide)).failed)).bootFails

theorem resets (h : Failed o s) : s.faults.resets = o.faults.resets := congrArg (fun s => s.faults.resets) h.bare
theorem tiles (h : Failed o s) : s.tiles = o.tiles := (congrArg State.tiles h.bare :)
theorem thermTrip (h : Failed o s) : s.pins.thermTrip = o.pins.thermTrip := (congrArg (fun s => s.pins.thermTrip) h.bare :)

end

end Failed

end Sys2Proof.Machine
end

section
/-! PROOFS. Loss of power (R360, R415). -/

namespace Sys2Proof.Machine

/-! Events of a failing commit. -/

section
variable {s : State}

theorem State.powerEvent_fld_ne (hs : keysFrom 0 s.regs = true) {i j : Nat} (hi : i < 64) (h : j ≠ i) :
    (s.powerEvent i).fld Reg.pwrEvent j j = s.fld Reg.pwrEvent j j := by
  rcases s.powerEvent_noted i with ⟨-, he⟩ | hn
  · rw [he]
  · rw [hn.fld not_noticeReg_pwrEvent, State.fld_withFld_ne hs _ _ _ _ _ _ (Nat.le_succ i) hi (by omega)]

theorem bootFails_event (hs : keysFrom 0 s.regs = true) (code : Nat) {j : Nat} (h : j ≠ 4) :
    (s.bootFails code).fld Reg.pwrEvent j j = s.fld Reg.pwrEvent j j := by
  have hseq : s.seqFailed.fld Reg.pwrEvent j j = s.fld Reg.pwrEvent j j := by
    unfold State.seqFailed
    split
    · exact State.fld_withFld_other _ _ _ _ _ (by decide)
    · rfl
  by_cases ha : s.pins.autoBoot = true
  · rw [bootFails_auto ha, State.withPins_fld, State.fld_withFld_other _ _ _ _ _ (by decide), State.powerEvent_fld_ne (seqFailed_ordered hs) (by decide) h, hseq]
  · exact (congrArg (fun t : State => t.fld Reg.pwrEvent j j) (if_neg ha)).trans hseq

/-- An abort sets no other event than that of the boot. -/
theorem State.commitAbort_event (hs : keysFrom 0 s.regs = true) (code : Nat) {j : Nat} (h : j ≠ 4) :
    (s.commitAbort code).fld Reg.pwrEvent j j = s.fld Reg.pwrEvent j j := by
  have hnoted : s.noted.fld Reg.pwrEvent j j = s.fld Reg.pwrEvent j j := by
    unfold State.noted
    split
    · rfl
    · exact State.fld_withFld_other _ _ _ _ _ (by decide)
  have hdrop := State.dropStaged_ordered (State.noted_ordered hs)
  have hphase : keysFrom 0 (s.noted.dropStaged.withPhase 7).regs = true := State.withFld_ordered hdrop
  have hraise (t : State) : Noted t (t.raiseIrq 2) := (Noted.refl t).raiseIrq (by decide)
  rw [State.commitAbort_eq, State.commitFails, bootFails_event ((hraise _).ordered (State.withReg_ordered (State.withFld_ordered hphase))) _ h,
    (hraise _).fld not_noticeReg_pwrEvent, State.fld, State.reg_withReg_ne _ (by decide), ← State.fld, State.fld_withFld_other _ _ _ _ _ (by decide),
    State.withPhase, State.fld_withFld_other _ _ _ _ _ (by decide), State.dropStaged_fld, hnoted]

end

/-! What a loss of power leaves. -/

/-- `s` is `o` beside what lies outside the lands and the package's registers. -/
structure PackageKept (o s : State) : Prop where
  pins : s.pins = o.pins
  reg : ∀ a, a < 0x1000000 → ¬ noticeReg a → s.reg a = o.reg a

namespace PackageKept

section
variable {o s u : State}

theorem refl (s : State) : PackageKept s s := ⟨rfl, fun _ _ _ => rfl⟩

theorem trans (h : PackageKept o s) (h' : PackageKept s u) : PackageKept o u :=
  ⟨h'.pins.trans h.pins, fun a ha hn => (h'.reg a ha hn).trans (h.reg a ha hn)⟩

theorem each {α : Type} {f : α → State → State} (hf : ∀ a s, PackageKept s (f a s)) (l : List α) (s : State) : PackageKept s (forEach l f s) :=
  forEach_keep (A := PackageKept s) (fun a _ t h => h.trans (hf a t)) (refl s)

theorem withReg {a w} (ha : 0x1000000 ≤ a) : PackageKept s (s.withReg a w) := ⟨rfl, (DieWork.withReg ha).reg⟩

theorem clearDie {d} : PackageKept s (s.clearDie d) := ⟨(s.clearDie_work d).pins, (s.clearDie_work d).reg⟩

theorem fld {a hi lo : Nat} (h : PackageKept o s) (ha : a < 0x1000000) (hn : ¬ noticeReg a) : s.fld a hi lo = o.fld a hi lo := by
  rw [State.fld, h.reg a ha hn, State.fld]

end

end PackageKept

section
variable {o s : State}

/-- The supplies stop: STANDBY, and start-up waits in phase POWER. -/
def State.supplyOff (s : State) : State :=
  ((s.withPins { s.pins with pwrGood := false, regulators := false }).withFld Reg.pwrState 2 0 0).withFld Reg.pwrSeqStatus 3 0 3

/-- A stack loses its contents and its training. -/
def State.stackOff (k : Nat) (s : State) : State := (s.modCtrl k Ctrl.powerLost).withFld (memReg k Reg.memStatus) 13 0 0

/-- A port that is not retired loses its state. -/
def State.portOff (e : Nat) (s : State) : State := if s.linkState e = 5 then s else s.withReg (portReg e Reg.lnkPortStatus) 0

/-- The state whose supplies stop: a commit in PREPARE has ended. -/
def State.unprepared (s : State) : State := if s.preparing then s.commitAbort 0x22 else s

theorem State.powerLost_eq (s : State) : s.powerLost =
    forEach (List.range 128) State.portOff (forEach (List.range 12) State.stackOff (forEach (List.range 20) (fun d s => s.clearDie d) s.unprepared.supplyOff).meshLost) := by
  unfold State.powerLost State.unprepared
  rfl

theorem stackOff_kept (k : Nat) (s : State) : PackageKept s (s.stackOff k) :=
  PackageKept.trans (s := s.modCtrl k Ctrl.powerLost) ⟨rfl, fun _ _ _ => rfl⟩ (PackageKept.withReg (dieReg_high _ _))

theorem portOff_kept (e : Nat) (s : State) : PackageKept s (s.portOff e) := by
  unfold State.portOff
  split
  · exact .refl s
  · exact .withReg (portStatus_high e)

theorem meshLost_kept (s : State) : PackageKept s s.meshLost := ⟨rfl, fun _ _ _ => rfl⟩

theorem powerLost_kept (s : State) : PackageKept s.unprepared.supplyOff s.powerLost := by
  rw [State.powerLost_eq]
  have hdies : PackageKept s.unprepared.supplyOff (forEach (List.range 20) (fun d s => s.clearDie d) s.unprepared.supplyOff).meshLost :=
    (PackageKept.each (fun _ _ => .clearDie) _ _).trans (meshLost_kept _)
  exact (hdies.trans (.each stackOff_kept _ _)).trans (.each portOff_kept _ _)

/-! Dies and stacks. -/

/-- The lowest bit of a field that is zero. -/
theorem wBits_low {w : Word} {hi : Nat} (h : wBits w hi 0 = 0) : wBits w 0 0 = 0 := by
  rw [wBits, bits, Nat.shiftRight_zero] at h ⊢
  have hpow : 2 ^ (hi + 1 - 0) = 2 * 2 ^ hi := Nat.pow_succ'
  exact Nat.mod_eq_zero_of_dvd ((Dvd.intro _ hpow.symm).trans (Nat.dvd_of_mod_eq_zero h))

theorem Since.stackOff {k : Nat} (h : Since o s) : Since o (s.stackOff k) :=
  State.withFld_since (State.modCtrl_since h fun _ _ => rfl)

theorem stackDie_inj : ∀ j < 12, ∀ k < 12, stackDie j = stackDie k → j = k := by decide

theorem memStatus_ne {j k : Nat} (hj : j < 12) (hk : k < 12) (h : j ≠ k) : memReg k Reg.memStatus ≠ memReg j Reg.memStatus := by
  have hd : stackDie j ≠ stackDie k := fun he => h (stackDie_inj j hj k hk he)
  rw [memReg_eq, memReg_eq]
  omega

/-- A die is as its reset leaves it. -/
def State.dieDown (s : State) (d : Nat) : Prop := (s.die d).structured = false ∧ (s.die d).fenced = true

/-- A stack is as a loss of power leaves it. -/
def State.stackDown (s : State) (k : Nat) : Prop := s.trained k = false ∧ (s.ctrl k).mem = []

theorem clearDie_die (hs : keysFrom 0 s.dies = true) (d : Nat) :
    (s.clearDie d).die d = Die.cleared d (s.committing && s.commit.dies.contains d) (s.die d) := by
  rw [State.die, (s.clearDie_work d).dies]
  exact State.die_modDie_self hs d _

theorem clearDie_die_ne {d k : Nat} (h : k ≠ d) : (s.clearDie d).die k = s.die k := by
  rw [State.die, (s.clearDie_work d).dies]
  exact State.die_modDie_ne _ h

theorem stackOff_down (h : Since o s) {k : Nat} (hk : k < 12) : (s.stackOff k).stackDown k := by
  refine ⟨Bool.eq_false_iff.2 fun ht => ?_, ?_⟩
  · have hset : (s.stackOff k).fld (memReg k Reg.memStatus) 13 0 = 0 := State.fld_withFld_self h.regsOrd _ _ _ _ (by decide) (by decide)
    exact absurd ((State.trained_iff hk).1 ht) (by rw [State.fld, wBits_low hset]; decide)
  · exact congrArg Ctrl.mem (mapGet_mapPut_self Ctrl.reset k (s.ctrl k).powerLost h.ctrlsOrd)

theorem stackDown_keep {t : State} {k : Nat} (hr : t.reg (memReg k Reg.memStatus) = s.reg (memReg k Reg.memStatus)) (hc : t.ctrl k = s.ctrl k)
    (h : s.stackDown k) : t.stackDown k := by
  rw [State.stackDown, State.trained, hr, hc]
  exact h

theorem stackOff_keeps {j k : Nat} (hj : j < 12) (hk : k < 12) (h : j ≠ k) (hdown : s.stackDown k) : (s.stackOff j).stackDown k :=
  stackDown_keep (State.reg_withReg_ne (s := s.modCtrl j Ctrl.powerLost) _ (memStatus_ne hj hk h))
    (s := s) (mapGet_mapPut_ne Ctrl.reset Ctrl.reset (s.ctrl j).powerLost h.symm s.ctrls) hdown

theorem stackOff_dies (k : Nat) (s : State) : (s.stackOff k).dies = s.dies := rfl

theorem meshLost_dies (s : State) : s.meshLost.dies = s.dies := rfl

theorem dieDown_keep {t : State} {d : Nat} (hd : t.dies = s.dies) (h : s.dieDown d) : t.dieDown d := by
  rw [State.dieDown, State.die, hd]
  exact h

theorem portOff_rest (e : Nat) (s : State) : (s.portOff e).dies = s.dies ∧ (s.portOff e).ctrls = s.ctrls ∧
    ∀ a, a ≠ portReg e Reg.lnkPortStatus → (s.portOff e).reg a = s.reg a := by
  unfold State.portOff
  split
  · exact ⟨rfl, rfl, fun _ _ => rfl⟩
  · exact ⟨rfl, rfl, fun a ha => State.reg_withReg_ne _ ha⟩

theorem memStatus_ne_portStatus (k e : Nat) : memReg k Reg.memStatus ≠ portReg e Reg.lnkPortStatus := by
  have hk := stackDie_lt k
  rw [portReg, pdReg_eq, memReg_eq]
  unfold Reg.memStatus Reg.lnkPortStatus
  omega

theorem unprepared_since (h : s.wf = true) : Since s s.unprepared.supplyOff := by
  have habort : Since s s.unprepared := ite_since (State.commitAbort_since (Since.refl h)) (Since.refl h)
  exact State.withFld_since (State.withFld_since (State.withPins_since habort))

theorem clearDies_since (h : s.wf = true) : Since s (forEach (List.range 20) (fun d s => s.clearDie d) s.unprepared.supplyOff).meshLost :=
  State.meshLost_since (forEach_since (fun _ _ => State.clearDie_since) _ (unprepared_since h))

theorem powerLost_dies (h : s.wf = true) {d : Nat} (hd : d < 20) : s.powerLost.dieDown d := by
  have hreset : Since s (forEach (List.range 20) (fun d s => s.clearDie d) s.unprepared.supplyOff) ∧
      (forEach (List.range 20) (fun d s => s.clearDie d) s.unprepared.supplyOff).dieDown d :=
    forEach_at (A := Since s) (B := fun t => Since s t ∧ t.dieDown d)
      (fun t ht => ⟨State.clearDie_since ht, by rw [State.dieDown, clearDie_die ht.diesOrd]; exact ⟨rfl, rfl⟩⟩)
      (fun _ _ _ _ => State.clearDie_since)
      (fun k _ t hk ⟨ht, hdown⟩ => ⟨State.clearDie_since ht, by rw [State.dieDown, clearDie_die_ne hk.symm]; exact hdown⟩)
      List.nodup_range (List.mem_range.2 hd) (unprepared_since h)
  rw [State.powerLost_eq]
  generalize forEach (List.range 20) (fun d s => s.clearDie d) s.unprepared.supplyOff = u at hreset
  refine forEach_keep (A := fun t : State => t.dieDown d) (fun e _ t => dieDown_keep (portOff_rest e t).1) ?_
  exact forEach_keep (A := fun t : State => t.dieDown d) (fun k _ t => dieDown_keep (stackOff_dies k t)) (dieDown_keep (meshLost_dies u) hreset.2)

theorem powerLost_stacks (h : s.wf = true) {k : Nat} (hk : k < 12) : s.powerLost.stackDown k := by
  rw [State.powerLost_eq]
  generalize hu : (forEach (List.range 20) (fun d s => s.clearDie d) s.unprepared.supplyOff).meshLost = u
  have hs : Since s u := hu ▸ clearDies_since h
  have hoff : Since s (forEach (List.range 12) State.stackOff u) ∧ (forEach (List.range 12) State.stackOff u).stackDown k :=
    forEach_at (A := Since s) (B := fun t => Since s t ∧ t.stackDown k) (fun t ht => ⟨ht.stackOff, stackOff_down ht hk⟩) (fun _ _ _ _ => Since.stackOff)
      (fun j hj t hne ⟨ht, hdown⟩ => ⟨ht.stackOff, stackOff_keeps (List.mem_range.1 hj) hk hne hdown⟩)
      List.nodup_range (List.mem_range.2 hk) hs
  refine forEach_keep (A := fun t : State => t.stackDown k) (fun e _ t => ?_) hoff.2
  obtain ⟨-, hctrls, hregs⟩ := portOff_rest e t
  exact stackDown_keep (hregs _ (memStatus_ne_portStatus k e)) (by rw [State.ctrl, hctrls, State.ctrl])

/-- The state that a loss of power leads to (R360). -/
structure PowerCut (t : State) : Prop where
  good : t.pins.pwrGood = false
  regulators : t.pins.regulators = false
  standby : t.fld Reg.pwrState 2 0 = 0
  phase : t.seqPhase = 3
  dies : ∀ d, d < 20 → t.dieDown d
  memories : ∀ k, k < 12 → t.stackDown k

theorem powerLost_cut (h : s.wf = true) : PowerCut s.powerLost := by
  have hk := powerLost_kept s
  have hord : keysFrom 0 s.unprepared.regs = true := (ite_since (State.commitAbort_since (Since.refl h)) (Since.refl h)).regsOrd
  have hpins : s.unprepared.supplyOff.pins = { s.unprepared.pins with pwrGood := false, regulators := false } := rfl
  refine ⟨by rw [hk.pins, hpins], by rw [hk.pins, hpins], ?_, ?_, fun _ => powerLost_dies h, fun _ => powerLost_stacks h⟩
  · rw [hk.fld (by decide) (by unfold noticeReg; decide), State.supplyOff, State.fld_withFld_other _ _ _ _ _ (by decide)]
    exact State.fld_withFld_self hord _ _ _ _ (by decide) (by decide)
  · rw [State.seqPhase, hk.fld (by decide) (by unfold noticeReg; decide)]
    exact State.fld_withFld_self (State.withFld_ordered hord) _ _ _ _ (by decide) (by decide)

/-- Events other than that of the boot stay, and so does the trip. -/
theorem powerLost_event (hs : keysFrom 0 s.regs = true) {j : Nat} (h : j ≠ 4) : s.powerLost.fld Reg.pwrEvent j j = s.fld Reg.pwrEvent j j := by
  rw [(powerLost_kept s).fld (by decide) not_noticeReg_pwrEvent, State.supplyOff, State.fld_withFld_other _ _ _ _ _ (by decide),
    State.fld_withFld_other _ _ _ _ _ (by decide), State.withPins_fld]
  unfold State.unprepared
  split
  · exact State.commitAbort_event hs _ h
  · rfl

theorem powerLost_trip (s : State) : s.powerLost.pins.thermTrip = s.pins.thermTrip := by
  have hpins : s.unprepared.supplyOff.pins = { s.unprepared.pins with pwrGood := false, regulators := false } := rfl
  rw [(powerLost_kept s).pins, hpins]
  exact (Failed.ite (c := s.preparing) (Failed.refl s).commitAbort (Failed.refl s)).thermTrip

end

end Sys2Proof.Machine
end

section
/-! PROOFS. KEEP and RUN (R359). -/

namespace Sys2Proof.Machine

section
variable {o s : State}

/-! Ports. -/

/-- A port goes down with the power of its die. -/
def State.portSinks (e : Nat) (s : State) : State :=
  if s.linkState e = 5 then s else (s.modPort e Port.down).withFld (portReg e Reg.lnkPortStatus) 2 0 0

/-- A port die whose queued frames are discarded. -/
def State.drainedDie (s : State) (n : Nat) : State :=
  forEach (s.storedFrames n) (fun q s => if q.ingress < 128 then s.bump (portReg q.ingress Reg.swiDropCnt) else s) (s.emptyStored n)

theorem drainedDie_work (s : State) (n : Nat) : LinkWork s (s.drainedDie n) :=
  (LinkWork.refl s).emptyStored.each fun _ _ h => .ite (h.bump (not_linkKeptReg_swiDrop _)) h

theorem State.portsDown_eq (s : State) (n : Nat) : s.portsDown n = forEach (diePorts n) State.portSinks (s.drainedDie n) := by
  unfold State.portsDown State.drainedDie
  rfl

theorem portSinks_work (e : Nat) (s : State) : PortWork e s (s.portSinks e) := by
  unfold State.portSinks
  split
  · exact (LinkWork.refl s).portWork
  · exact ((LinkWork.refl s).modPort.portWork).withFld

theorem PortWork.linkState_ne {e x : Nat} (h : PortWork e o s) (hx : x ≠ e) : s.linkState x = o.linkState x := by
  rw [State.linkState, State.fld, h.reg _ (linkKeptReg_portStatus x) (portStatus_ne hx), ← State.fld, State.linkState]

theorem PortWork.tiles {e : Nat} (h : PortWork e o s) : s.tiles = o.tiles := (congrArg State.tiles h.unlinked :)
theorem PortWork.dies {e : Nat} (h : PortWork e o s) : s.dies = o.dies := (congrArg State.dies h.unlinked :)
theorem PortWork.ctrls {e : Nat} (h : PortWork e o s) : s.ctrls = o.ctrls := (congrArg State.ctrls h.unlinked :)

theorem State.linkState_of_regs (h : s.regs = o.regs) (e : Nat) : s.linkState e = o.linkState e := by
  rw [State.linkState, State.fld, State.reg, h]
  rfl

theorem portSinks_down (hs : keysFrom 0 s.regs = true) {e : Nat} (h : s.linkState e ≠ 5) : (s.portSinks e).linkState e = 0 := by
  rw [State.portSinks, if_neg h]
  exact State.fld_withFld_self hs _ _ _ _ (by decide) (by decide)

theorem portsDown_linkState_ne {n e : Nat} (h : e / 32 ≠ n) (s : State) : (s.portsDown n).linkState e = s.linkState e := by
  rw [State.portsDown_eq]
  refine forEach_keep (A := fun t : State => t.linkState e = s.linkState e) (fun x hx t ht => ?_) ((drainedDie_work s n).linkState e)
  obtain ⟨i, hi, rfl⟩ := List.mem_map.1 hx
  have hi := List.mem_range.1 hi
  exact ((portSinks_work _ t).linkState_ne (by omega)).trans ht

theorem portsDown_ordered (hs : keysFrom 0 s.regs = true) (n : Nat) : keysFrom 0 (s.portsDown n).regs = true := by
  rw [State.portsDown_eq]
  exact forEach_keep (A := fun t : State => keysFrom 0 t.regs = true) (fun e _ t => (portSinks_work e t).ordered) ((drainedDie_work s n).ordered hs)

theorem portsDown_down (hs : keysFrom 0 s.regs = true) {e : Nat} (h : s.linkState e ≠ 5) : (s.portsDown (e / 32)).linkState e = 0 := by
  have hwork := drainedDie_work s (e / 32)
  rw [State.portsDown_eq]
  refine forEach_at (A := fun t : State => keysFrom 0 t.regs = true ∧ t.linkState e ≠ 5) (B := fun t : State => t.linkState e = 0) (k := e)
    (fun t ht => portSinks_down ht.1 ht.2) (fun x _ t hne ht => ⟨(portSinks_work x t).ordered ht.1, ?_⟩)
    (fun x _ t hne ht => ((portSinks_work x t).linkState_ne hne.symm).trans ht) (nodup_shift _ _) (mem_shift (by omega) (by omega))
    ⟨hwork.ordered hs, by rw [hwork.linkState]; exact h⟩
  rw [(portSinks_work x t).linkState_ne hne.symm]
  exact ht.2

theorem portsDown_tiles (s : State) (n : Nat) : (s.portsDown n).tiles = s.tiles := by
  rw [State.portsDown_eq]
  exact forEach_keep (A := fun t : State => t.tiles = s.tiles) (fun e _ t ht => (portSinks_work e t).tiles.trans ht)
    (drainedDie_work s n).tiles

/-- Every port die without power. -/
def State.allPortsDown (s : State) : State := forEach (List.range 4) (fun n s => s.portsDown n) s

theorem allPortsDown_down (hs : keysFrom 0 s.regs = true) {e : Nat} (he : e < 128) (h : s.linkState e ≠ 5) : s.allPortsDown.linkState e = 0 := by
  unfold State.allPortsDown
  refine forEach_at (A := fun t : State => keysFrom 0 t.regs = true ∧ t.linkState e ≠ 5) (B := fun t : State => t.linkState e = 0) (k := e / 32)
    (fun t ht => ?_) (fun n _ t hne ht => ⟨portsDown_ordered ht.1 n, ?_⟩) (fun n _ t hne ht => ?_) List.nodup_range (List.mem_range.2 (by omega)) ⟨hs, h⟩
  · exact portsDown_down ht.1 ht.2
  · rw [portsDown_linkState_ne hne.symm]
    exact ht.2
  · rw [portsDown_linkState_ne hne.symm]
    exact ht

theorem allPortsDown_ordered (hs : keysFrom 0 s.regs = true) : keysFrom 0 s.allPortsDown.regs = true :=
  forEach_keep (A := fun t : State => keysFrom 0 t.regs = true) (fun n _ _ ht => portsDown_ordered ht n) hs

theorem allPortsDown_tiles (s : State) : s.allPortsDown.tiles = s.tiles := by
  unfold State.allPortsDown
  exact forEach_keep (A := fun t : State => t.tiles = s.tiles) (fun n _ t ht => (portsDown_tiles t n).trans ht) rfl

/-! Stacks and blocks. -/

/-- A block goes to retention. -/
def State.blockSleeps (b : Nat) (s : State) : State := if s.blockState b = 0 then s else (s.withFreq b 0).setBlockState b 0

theorem State.setBlockState_noted (s : State) (b v : Nat) : Noted (s.withFld (clkBlockA b) 12 11 v) (s.setBlockState b v) := (Noted.refl _).traceEvent

theorem blockSleeps_adapted (b : Nat) (s : State) : Adapted s (s.blockSleeps b) := by
  have hfreq : Adapted s (s.withFreq b 0) := (Adapted.refl s).withFld (adaptReg_clkBlockA b)
  exact .ite (.refl s) ((hfreq.withFld (adaptReg_clkBlockA b)).trans ((s.withFreq b 0).setBlockState_noted b 0).adapted)

theorem not_noticeReg_clkBlockA (b : Nat) : ¬ noticeReg (clkBlockA b) := by
  refine not_noticeReg_die ?_ ?_ <;> (unfold Reg.clkBlock; omega)

theorem blockSleeps_sleeps (hs : keysFrom 0 s.regs = true) (b : Nat) : (s.blockSleeps b).blockState b = 0 := by
  unfold State.blockSleeps
  split
  · assumption
  · rw [State.blockState, ((s.withFreq b 0).setBlockState_noted b 0).fld (not_noticeReg_clkBlockA b)]
    exact State.fld_withFld_self (State.withFld_ordered hs) _ _ _ _ (by decide) (by decide)

theorem blockSleeps_blockState_ne {b x : Nat} (hb : b < 512) (hx : x < 512) (h : x ≠ b) (s : State) : (s.blockSleeps b).blockState x = s.blockState x := by
  have hne : clkBlockA x ≠ clkBlockA b := by
    rw [clkBlockA_eq hx, clkBlockA_eq hb]
    omega
  unfold State.blockSleeps
  split
  · rfl
  · rw [State.blockState, ((s.withFreq b 0).setBlockState_noted b 0).fld (not_noticeReg_clkBlockA x), State.fld_withFld_other _ _ _ _ _ hne,
      State.withFreq, State.fld_withFld_other _ _ _ _ _ hne, State.blockState]

/-- Every block at retention. -/
def State.allBlocksSleep (s : State) : State := forEach (List.range 512) State.blockSleeps s

theorem allBlocksSleep_adapted (s : State) : Adapted s s.allBlocksSleep := (Adapted.refl s).each fun b _ h => h.trans (blockSleeps_adapted b _)

theorem allBlocksSleep_sleep (hs : keysFrom 0 s.regs = true) {b : Nat} (hb : b < 512) : s.allBlocksSleep.blockState b = 0 :=
  forEach_at (A := fun t : State => keysFrom 0 t.regs = true) (B := fun t : State => t.blockState b = 0) (k := b) (fun _ ht => blockSleeps_sleeps ht b)
    (fun _ _ t _ ht => (blockSleeps_adapted _ t).ordered ht)
    (fun _ hx t hne ht => (blockSleeps_blockState_ne (List.mem_range.1 hx) hb hne.symm t).trans ht) List.nodup_range (List.mem_range.2 hb) hs

/-- A stack enters self-refresh. -/
def State.stackSleeps (k : Nat) (s : State) : State := s.modCtrl k fun c => { c with selfRefresh := true }

/-- A stack leaves self-refresh, unless its die is in reset. -/
def State.stackWakes (k : Nat) (s : State) : State :=
  if (s.die (stackDie k)).inReset then s else s.modCtrl k fun c => { c with selfRefresh := false }

theorem stackWakes_rest (k : Nat) (s : State) : (s.stackWakes k).regs = s.regs ∧ (s.stackWakes k).dies = s.dies ∧ (s.stackWakes k).tiles = s.tiles := by
  unfold State.stackWakes
  split <;> exact ⟨rfl, rfl, rfl⟩

theorem stackWakes_ctrl_ne {j k : Nat} (h : k ≠ j) (s : State) : (s.stackWakes j).ctrl k = s.ctrl k := by
  unfold State.stackWakes
  split
  · rfl
  · exact mapGet_mapPut_ne Ctrl.reset Ctrl.reset _ h s.ctrls

theorem stackWakes_ordered (hs : keysFrom 0 s.ctrls = true) (k : Nat) : keysFrom 0 (s.stackWakes k).ctrls = true := by
  unfold State.stackWakes
  split
  · exact hs
  · exact keysFrom_mapPut _ _ _ (Nat.zero_le _) hs

theorem stackSleeps_rest (k : Nat) (s : State) : (s.stackSleeps k).regs = s.regs ∧ (s.stackSleeps k).tiles = s.tiles := ⟨rfl, rfl⟩

theorem stackSleeps_ctrl_ne {j k : Nat} (h : k ≠ j) (s : State) : (s.stackSleeps j).ctrl k = s.ctrl k :=
  mapGet_mapPut_ne Ctrl.reset Ctrl.reset _ h s.ctrls

theorem stackSleeps_ctrl (hs : keysFrom 0 s.ctrls = true) (k : Nat) : (s.stackSleeps k).ctrl k = { s.ctrl k with selfRefresh := true } :=
  mapGet_mapPut_self Ctrl.reset k _ hs

theorem stackSleeps_ordered (hs : keysFrom 0 s.ctrls = true) (k : Nat) : keysFrom 0 (s.stackSleeps k).ctrls = true :=
  keysFrom_mapPut _ _ _ (Nat.zero_le _) hs

theorem stackSleeps_each (hs : keysFrom 0 s.ctrls = true) {k : Nat} (hk : k < 12) :
    ((forEach (List.range 12) State.stackSleeps s).ctrl k).selfRefresh = true := by
  refine forEach_at (A := fun t : State => keysFrom 0 t.ctrls = true) (B := fun t : State => (t.ctrl k).selfRefresh = true) (k := k)
    (fun t ht => ?_) (fun j _ t _ ht => stackSleeps_ordered ht j) (fun j _ t hne ht => ?_) List.nodup_range (List.mem_range.2 hk) hs
  · rw [stackSleeps_ctrl ht]
  · rwa [stackSleeps_ctrl_ne hne.symm]

theorem stackSleeps_all_rest (s : State) : (forEach (List.range 12) State.stackSleeps s).regs = s.regs ∧
    (forEach (List.range 12) State.stackSleeps s).tiles = s.tiles := by
  refine forEach_keep (A := fun t : State => t.regs = s.regs ∧ t.tiles = s.tiles) (fun k _ t ht => ?_) ⟨rfl, rfl⟩
  obtain ⟨hr, ht'⟩ := stackSleeps_rest k t
  rwa [hr, ht']

theorem stackWakes_each (hs : keysFrom 0 s.ctrls = true) {k : Nat} (hk : k < 12) (hr : (s.die (stackDie k)).inReset = false) :
    ((forEach (List.range 12) State.stackWakes s).ctrl k).selfRefresh = false := by
  refine forEach_at (A := fun t : State => keysFrom 0 t.ctrls = true ∧ t.dies = s.dies) (B := fun t : State => (t.ctrl k).selfRefresh = false) (k := k)
    (fun t ht => ?_) (fun j _ t _ ht => ⟨stackWakes_ordered ht.1 j, (stackWakes_rest j t).2.1.trans ht.2⟩)
    (fun j _ t hne ht => by rw [stackWakes_ctrl_ne hne.symm]; exact ht) List.nodup_range (List.mem_range.2 hk) ⟨hs, rfl⟩
  have hdie : ¬ (t.die (stackDie k)).inReset = true := by
    rw [State.die, ht.2, ← State.die, hr]
    decide
  rw [State.stackWakes, if_neg hdie]
  exact congrArg Ctrl.selfRefresh (mapGet_mapPut_self Ctrl.reset k _ ht.1)

theorem stackWakes_all_rest (s : State) : (forEach (List.range 12) State.stackWakes s).regs = s.regs ∧
    (forEach (List.range 12) State.stackWakes s).dies = s.dies ∧ (forEach (List.range 12) State.stackWakes s).tiles = s.tiles := by
  refine forEach_keep (A := fun t : State => t.regs = s.regs ∧ t.dies = s.dies ∧ t.tiles = s.tiles) (fun k _ t ht => ?_) ⟨rfl, rfl, rfl⟩
  obtain ⟨hr, hd, ht'⟩ := stackWakes_rest k t
  rwa [hr, hd, ht']

/-! The requests. -/

theorem State.enterKeep_eq (s : State) : s.enterKeep =
    (forEach (List.range 12) State.stackSleeps s.allPortsDown).allBlocksSleep.withFld Reg.pwrState 2 0 1 := rfl

/-- The state that KEEP leads to. -/
structure KeepState (o t : State) : Prop where
  state : t.fld Reg.pwrState 2 0 = 1
  refresh : ∀ k, k < 12 → (t.ctrl k).selfRefresh = true
  blocks : ∀ b, b < 512 → t.blockState b = 0
  links : ∀ e, e < 128 → o.linkState e ≠ 5 → t.linkState e = 0
  tiles : t.tiles = o.tiles

theorem clkBlockA_high (b : Nat) : 0x1000000 ≤ clkBlockA b := dieReg_high _ _

theorem pwrState_low : Reg.pwrState < 0x1000000 := by decide

theorem not_adaptReg_portStatus (e : Nat) : ¬ adaptReg (portReg e Reg.lnkPortStatus) := by
  refine not_adaptReg_die ?_ ?_ ?_ <;> (unfold Reg.lnkPortStatus; omega)

theorem enterKeep_keeps (hs : keysFrom 0 s.regs = true) (hc : keysFrom 0 s.allPortsDown.ctrls = true) : KeepState s s.enterKeep := by
  have hports := allPortsDown_ordered hs
  obtain ⟨hregs, htiles⟩ := stackSleeps_all_rest s.allPortsDown
  have hrefresh {k : Nat} (hk : k < 12) := stackSleeps_each hc hk
  rw [State.enterKeep_eq]
  generalize forEach (List.range 12) State.stackSleeps s.allPortsDown = u at hregs htiles hrefresh
  have hord : keysFrom 0 u.regs = true := by
    rw [hregs]
    exact hports
  have hsleep := allBlocksSleep_adapted u
  refine ⟨State.fld_withFld_self (hsleep.ordered hord) _ _ _ _ (by decide) (by decide), fun k hk => ?_, fun b hb => ?_, fun e he h => ?_, ?_⟩
  · rw [State.ctrl, State.withFld_ctrls, hsleep.ctrls]
    exact hrefresh hk
  · rw [State.blockState, State.fld_withFld_other _ _ _ _ _ (Nat.ne_of_gt (pwrState_low.trans_le (clkBlockA_high b)))]
    exact allBlocksSleep_sleep hord hb
  · rw [State.linkState, State.fld_withFld_other _ _ _ _ _ (Nat.ne_of_gt (pwrState_low.trans_le (portStatus_high e))),
      hsleep.fld (not_adaptReg_portStatus e), ← State.linkState, State.linkState_of_regs hregs]
    exact allPortsDown_down hs he h
  · rw [State.withFld_tiles, hsleep.tiles, htiles]
    exact allPortsDown_tiles s

/-- An enabled port that is not retired trains. -/
def State.portTrains (e : Nat) (s : State) : State :=
  if s.portOn e && s.linkState e != 5 then (s.withLinkState e 1).advertise e else s

theorem portTrains_work (e : Nat) (s : State) : PortWork e s (s.portTrains e) := by
  unfold State.portTrains
  split
  · exact ((LinkWork.refl s).portWork.withFld.link LinkWork.withLinkState).link (LinkWork.refl _).advertise
  · exact (LinkWork.refl s).portWork

theorem portTrains_trains (hs : keysFrom 0 s.regs = true) {e : Nat} (hon : s.portOn e = true) (h : s.linkState e ≠ 5) :
    (s.portTrains e).linkState e = 1 := by
  rw [State.portTrains, if_pos (by simp [hon, h]), (LinkWork.refl _).advertise.linkState, LinkWork.withLinkState.linkState]
  exact State.fld_withFld_self hs _ _ _ _ (by decide) (by decide)

/-- The state that RUN leads to. -/
structure RunState (o t : State) : Prop where
  state : t.fld Reg.pwrState 2 0 = 2
  refresh : ∀ k, k < 12 → (o.die (stackDie k)).inReset = false → (t.ctrl k).selfRefresh = false
  links : ∀ e, e < 128 → o.portOn e = true → o.linkState e ≠ 5 → t.linkState e = 1
  tiles : t.tiles = o.tiles

theorem State.enterRun_eq (s : State) : s.enterRun =
    forEach (List.range 128) State.portTrains ((forEach (List.range 12) State.stackWakes s).withFld Reg.pwrState 2 0 2) := rfl

theorem enterRun_runs (hs : keysFrom 0 s.regs = true) (hc : keysFrom 0 s.ctrls = true) : RunState s s.enterRun := by
  obtain ⟨hregs, hdies, htiles⟩ := stackWakes_all_rest s
  have hwake {k : Nat} (hk : k < 12) (hr : (s.die (stackDie k)).inReset = false) := stackWakes_each hc hk hr
  rw [State.enterRun_eq]
  generalize forEach (List.range 12) State.stackWakes s = u at hregs hdies htiles hwake
  have hord : keysFrom 0 u.regs = true := hregs ▸ hs
  have hnotice : ¬ noticeReg Reg.pwrState := by
    unfold noticeReg
    decide
  have hlink (e : Nat) : (u.withFld Reg.pwrState 2 0 2).linkState e = s.linkState e := by
    rw [State.linkState, State.fld_withFld_other _ _ _ _ _ (Nat.ne_of_gt (pwrState_low.trans_le (portStatus_high e))), ← State.linkState,
      State.linkState_of_regs hregs]
  refine ⟨?_, fun k hk hr => ?_, fun e he hon h => ?_, ?_⟩
  · refine forEach_keep (A := fun t : State => t.fld Reg.pwrState 2 0 = 2) (fun e _ t ht => ?_)
      (State.fld_withFld_self hord _ _ _ _ (by decide) (by decide))
    rw [State.fld, (portTrains_work e t).reg _ (linkKeptReg_package pwrState_low hnotice) (Nat.ne_of_lt (pwrState_low.trans_le (portStatus_high e)))]
    exact ht
  · refine forEach_keep (A := fun t : State => (t.ctrl k).selfRefresh = false) (fun e _ t ht => ?_) (hwake hk hr)
    rw [State.ctrl, (portTrains_work e t).ctrls]
    exact ht
  · refine forEach_at (A := fun t : State => keysFrom 0 t.regs = true ∧ t.dies = s.dies ∧ t.linkState e ≠ 5) (B := fun t : State => t.linkState e = 1) (k := e)
      (fun t ht => portTrains_trains ht.1 ((State.portOn_of_dies ht.2.1 e).trans hon) ht.2.2) (fun x _ t hne ht => ?_) (fun x _ t hne ht => ?_)
      List.nodup_range (List.mem_range.2 he) ⟨State.withFld_ordered hord, hdies, by rw [hlink]; exact h⟩
    · obtain ⟨ho, hd, hl⟩ := ht
      exact ⟨(portTrains_work x t).ordered ho, (portTrains_work x t).dies.trans hd, by rw [(portTrains_work x t).linkState_ne hne.symm]; exact hl⟩
    · exact ((portTrains_work x t).linkState_ne hne.symm).trans ht
  · exact forEach_keep (A := fun t : State => t.tiles = s.tiles) (fun e _ t ht => (portTrains_work e t).tiles.trans ht) htiles

end

end Sys2Proof.Machine
end

section
/-! PROOFS. Thermal samples and the trip (R366, R369). -/

namespace Sys2Proof.Machine

/-! The registers of sensors. -/

theorem pdReg_dieReg (n off : Nat) : pdReg n off = dieReg (16 + n) off := rfl

theorem sensorReg_eq (k : Nat) : sensorReg k =
    if k < 64 then 0x1000000 + k / 4 * 0x100000 + (0x2200 + 8 * (k % 4)) else 0x2000000 + (k - 64) / 4 * 0x400000 + (0x3000 + 8 * ((k - 64) % 4)) := by
  unfold sensorReg
  split
  · exact sectorReg_eq ‹_›
  · rw [pdReg_eq, Reg.pwrPortSensor]

theorem sensorReg_ne {j k : Nat} (hj : j < 80) (hk : k < 80) (h : j ≠ k) : sensorReg j ≠ sensorReg k := by
  rw [sensorReg_eq j, sensorReg_eq k]
  split <;> split <;> omega

theorem sensorReg_high (k : Nat) : 0x1000000 ≤ sensorReg k := by
  unfold sensorReg
  split <;> exact dieReg_high _ _

theorem not_adaptReg_sensorReg (k : Nat) : ¬ adaptReg (sensorReg k) := by
  unfold sensorReg
  split
  · refine not_adaptReg_die ?_ ?_ ?_ <;> (unfold Reg.pwrSector; omega)
  · rw [pdReg_dieReg]
    refine not_adaptReg_die ?_ ?_ ?_ <;> (unfold Reg.pwrPortSensor; omega)

theorem sectorReg_sensorReg {k : Nat} (h : k < 64) : sectorReg k = sensorReg k := (if_pos h).symm

theorem sensorReg_ne_memStatus (j k : Nat) : sensorReg j ≠ memReg k Reg.memStatus := by
  have hk := stackDie_lt k
  rw [sensorReg_eq j, memReg_eq]
  unfold Reg.memStatus
  split <;> omega

/-! The words of a sensor's register. -/

/-- A sensor's register after a reading. -/
def sensedWord (w : Word) (t : Nat) : Word := wPut (wPut w 7 0 (min 255 t)) 15 8 (max (wBits w 15 8) (min 255 t))

theorem sensedWord_temp (w : Word) (t : Nat) : wBits (sensedWord w t) 7 0 = min 255 t := by
  rw [sensedWord, wBits_wPut_ne _ _ _ _ _ _ (by decide) (by decide) (by decide), wBits_wPut_self _ _ _ _ (by decide) (by decide)]
  exact Nat.mod_eq_of_lt (by omega)

theorem sensedWord_max (w : Word) (t : Nat) : wBits (sensedWord w t) 15 8 = max (wBits w 15 8) (min 255 t) := by
  have hlt : wBits w 15 8 < 2 ^ 8 := bits_lt _ 15 8
  rw [sensedWord, wBits_wPut_self _ _ _ _ (by decide) (by decide)]
  exact Nat.mod_eq_of_lt (by omega)

theorem sensedWord_throttle (w : Word) (t : Nat) : wBits (sensedWord w t) 17 17 = wBits w 17 17 := by
  rw [sensedWord, wBits_wPut_ne _ _ _ _ _ _ (by decide) (by decide) (by decide), wBits_wPut_ne _ _ _ _ _ _ (by decide) (by decide) (by decide)]

/-- A sector throttles at the limit, and until it is 3 °C below. -/
def throttles (lim t : Nat) (w : Word) : Bool := decide (lim ≤ t) || (wBits w 17 17 == 1 && decide (lim < t + 3))

theorem throttles_iff {lim t : Nat} {w : Word} : throttles lim t w = true ↔ lim ≤ t ∨ wBits w 17 17 = 1 ∧ lim < t + 3 := by simp [throttles]

/-- A sector's register once it throttles or no longer does. -/
def throttledWord (lim t : Nat) (w : Word) : Word := wPut w 17 17 (b2n (throttles lim t w))

theorem throttledWord_bits (lim t : Nat) (w : Word) {hi lo : Nat} (h : hi < 17) : wBits (throttledWord lim t w) hi lo = wBits w hi lo :=
  wBits_wPut_ne _ _ _ _ _ _ (by decide) (by decide) (.inr h)

theorem throttledWord_throttle (lim t : Nat) (w : Word) : wBits (throttledWord lim t w) 17 17 = 1 ↔ lim ≤ t ∨ wBits w 17 17 = 1 ∧ lim < t + 3 := by
  rw [throttledWord, wBits_wPut_self _ _ _ _ (by decide) (by decide), ← throttles_iff]
  cases throttles lim t w <;> decide

section
variable {o s : State} {l m : List Nat}

/-! Readings. -/

theorem senseOne_reg_ne {a k t : Nat} (h : a ≠ sensorReg k) : (s.senseOne k t).reg a = s.reg a :=
  (State.reg_withReg_ne _ h).trans (State.reg_withReg_ne _ h)

theorem senseOne_ordered (hs : keysFrom 0 s.regs = true) (k t : Nat) : keysFrom 0 (s.senseOne k t).regs = true :=
  State.withFld_ordered (State.withFld_ordered hs)

theorem senseOne_reg (hs : keysFrom 0 s.regs = true) (k t : Nat) : (s.senseOne k t).reg (sensorReg k) = sensedWord (s.reg (sensorReg k)) t := by
  have htemp : (s.withFld (sensorReg k) 7 0 (min 255 t)).reg (sensorReg k) = wPut (s.reg (sensorReg k)) 7 0 (min 255 t) := State.reg_withReg_self hs _ _
  have hmax : (s.senseOne k t).reg (sensorReg k) =
      wPut ((s.withFld (sensorReg k) 7 0 (min 255 t)).reg (sensorReg k)) 15 8 (max (s.fld (sensorReg k) 15 8) (min 255 t)) :=
    State.reg_withReg_self (State.withFld_ordered hs) _ _
  rw [hmax, htemp]
  rfl

/-- Every sensor is read. -/
def State.sensed (s : State) (l : List Nat) : State := forEach (List.range 80) (fun k s => s.senseOne k (nth l k 0)) s

theorem sensed_ordered (hs : keysFrom 0 s.regs = true) : keysFrom 0 (s.sensed l).regs = true := by
  unfold State.sensed
  exact forEach_keep (A := fun t : State => keysFrom 0 t.regs = true) (fun k _ _ ht => senseOne_ordered ht k _) hs

theorem sensed_reg_ne {a : Nat} (h : ∀ k < 80, a ≠ sensorReg k) : (s.sensed l).reg a = s.reg a := by
  unfold State.sensed
  exact forEach_keep (A := fun t : State => t.reg a = s.reg a) (fun k hk _ ht => (senseOne_reg_ne (h k (List.mem_range.1 hk))).trans ht) rfl

theorem sensed_pins : (s.sensed l).pins = s.pins := by
  unfold State.sensed
  refine forEach_keep (A := fun t : State => t.pins = s.pins) (fun k _ t ht => ?_) rfl
  rwa [State.senseOne, State.withFld_pins, State.withFld_pins]

theorem sensed_reg (hs : keysFrom 0 s.regs = true) {k : Nat} (hk : k < 80) :
    (s.sensed l).reg (sensorReg k) = sensedWord (s.reg (sensorReg k)) (nth l k 0) := by
  unfold State.sensed
  refine forEach_at (A := fun t : State => keysFrom 0 t.regs = true ∧ t.reg (sensorReg k) = s.reg (sensorReg k))
    (B := fun t : State => t.reg (sensorReg k) = sensedWord (s.reg (sensorReg k)) (nth l k 0)) (k := k) (fun t ht => ?_) (fun j hj t hne ht => ?_)
    (fun j hj t hne ht => ?_) List.nodup_range (List.mem_range.2 hk) ⟨hs, rfl⟩
  · rw [senseOne_reg ht.1, ht.2]
  · exact ⟨senseOne_ordered ht.1 j _, (senseOne_reg_ne (sensorReg_ne hk (List.mem_range.1 hj) hne.symm)).trans ht.2⟩
  · exact (senseOne_reg_ne (sensorReg_ne hk (List.mem_range.1 hj) hne.symm)).trans ht

/-- Every stack's temperature is shown. -/
def State.stacksSensed (s : State) (m : List Nat) : State :=
  forEach (List.range 12) (fun k s => s.withFld (memReg k Reg.memStatus) 21 14 (min 255 (nth m k 0))) s

theorem stacksSensed_ordered (hs : keysFrom 0 s.regs = true) : keysFrom 0 (s.stacksSensed m).regs = true := by
  unfold State.stacksSensed
  exact forEach_keep (A := fun t : State => keysFrom 0 t.regs = true) (fun _ _ _ ht => State.withFld_ordered ht) hs

theorem stacksSensed_reg_ne {a : Nat} (h : ∀ k, a ≠ memReg k Reg.memStatus) : (s.stacksSensed m).reg a = s.reg a := by
  unfold State.stacksSensed
  exact forEach_keep (A := fun t : State => t.reg a = s.reg a) (fun k _ _ ht => (State.reg_withReg_ne _ (h k)).trans ht) rfl

theorem stacksSensed_pins : (s.stacksSensed m).pins = s.pins := by
  unfold State.stacksSensed
  refine forEach_keep (A := fun t : State => t.pins = s.pins) (fun k _ t ht => ?_) rfl
  rwa [State.withFld_pins]

theorem stacksSensed_fld (hs : keysFrom 0 s.regs = true) {k : Nat} (hk : k < 12) :
    (s.stacksSensed m).fld (memReg k Reg.memStatus) 21 14 = min 255 (nth m k 0) := by
  unfold State.stacksSensed
  refine forEach_at (A := fun t : State => keysFrom 0 t.regs = true) (B := fun t : State => t.fld (memReg k Reg.memStatus) 21 14 = min 255 (nth m k 0))
    (k := k) (fun t ht => ?_) (fun j _ t _ ht => State.withFld_ordered ht) (fun j hj t hne ht => ?_) List.nodup_range (List.mem_range.2 hk) hs
  · rw [State.fld_withFld_self ht _ _ _ _ (by decide) (by decide)]
    exact Nat.mod_eq_of_lt (by omega)
  · rw [State.fld_withFld_other _ _ _ _ _ (memStatus_ne (List.mem_range.1 hj) hk hne)]
    exact ht

/-! Throttling. -/

theorem lowerOne_adapted (b : Nat) (s : State) : Adapted s (s.lowerOne b) := by
  unfold State.lowerOne
  have hfreq : Adapted s ((s.withFreq b (s.freq b - 25)).pin 0 b false) := ((Adapted.refl s).withFld (adaptReg_clkBlockA b)).pin
  exact .ite (.refl s) (.ite hfreq.override hfreq)

theorem lowerBlocks_adapted (l : List Nat) (s : State) : Adapted s (s.lowerBlocks l) :=
  (Adapted.refl s).each fun b _ h => h.trans (lowerOne_adapted b _)

theorem throttleOf_adapted (k t : Nat) (s : State) :
    Adapted (s.withReg (sectorReg k) (throttledWord (s.fld Reg.pwrTherm 15 8) t (s.reg (sectorReg k)))) (s.throttleOf k t) := by
  unfold State.throttleOf
  exact .ite (lowerBlocks_adapted _ _) (.refl _)

theorem throttleOf_reg_ne {a k t : Nat} (ha : ¬ adaptReg a) (h : a ≠ sectorReg k) : (s.throttleOf k t).reg a = s.reg a :=
  ((throttleOf_adapted k t s).reg a ha).trans (State.reg_withReg_ne _ h)

theorem throttleOf_reg (hs : keysFrom 0 s.regs = true) {k t : Nat} (hk : k < 64) : (s.throttleOf k t).reg (sensorReg k) =
    throttledWord (s.fld Reg.pwrTherm 15 8) t (s.reg (sensorReg k)) := by
  rw [(throttleOf_adapted k t s).reg _ (not_adaptReg_sensorReg k), sectorReg_sensorReg hk]
  exact State.reg_withReg_self hs _ _

theorem throttleOf_ordered (hs : keysFrom 0 s.regs = true) (k t : Nat) : keysFrom 0 (s.throttleOf k t).regs = true :=
  (throttleOf_adapted k t s).ordered (State.withReg_ordered hs)

/-- Every sector throttles as its sensor asks. -/
def State.throttled (s : State) (l : List Nat) : State := forEach (List.range 64) (fun k s => s.throttleOf k (nth l k 0)) s

theorem throttled_reg_ne {a : Nat} (ha : ¬ adaptReg a) (h : ∀ k < 64, a ≠ sensorReg k) : (s.throttled l).reg a = s.reg a := by
  unfold State.throttled
  refine forEach_keep (A := fun t : State => t.reg a = s.reg a) (fun k hk _ ht => (throttleOf_reg_ne ha ?_).trans ht) rfl
  have hk := List.mem_range.1 hk
  rw [sectorReg_sensorReg hk]
  exact h k hk

theorem throttled_trip : (s.throttled l).pins.thermTrip = s.pins.thermTrip := by
  unfold State.throttled
  exact forEach_keep (A := fun t : State => t.pins.thermTrip = s.pins.thermTrip) (fun k _ t ht => (throttleOf_adapted k _ t).thermTrip.trans ht) rfl

theorem not_adaptReg_pwrTherm : ¬ adaptReg Reg.pwrTherm := not_adaptReg_package (by decide) (by unfold noticeReg; decide) (by decide) (by decide)

theorem throttled_reg (hs : keysFrom 0 s.regs = true) {k : Nat} (hk : k < 64) : (s.throttled l).reg (sensorReg k) =
    throttledWord (s.fld Reg.pwrTherm 15 8) (nth l k 0) (s.reg (sensorReg k)) := by
  have hlim (j : Nat) : Reg.pwrTherm ≠ sectorReg j := Nat.ne_of_lt (Nat.lt_of_lt_of_le (by decide) (dieReg_high _ _))
  have hother {j : Nat} (hj : j < 64) (hne : k ≠ j) : sensorReg k ≠ sectorReg j := by
    rw [sectorReg_sensorReg hj]
    exact sensorReg_ne (by omega) (by omega) hne
  unfold State.throttled
  refine forEach_at (A := fun t : State => keysFrom 0 t.regs = true ∧ t.reg (sensorReg k) = s.reg (sensorReg k) ∧ t.reg Reg.pwrTherm = s.reg Reg.pwrTherm)
    (B := fun t : State => t.reg (sensorReg k) = throttledWord (s.fld Reg.pwrTherm 15 8) (nth l k 0) (s.reg (sensorReg k))) (k := k) (fun t ht => ?_)
    (fun j hj t hne ht => ?_) (fun j hj t hne ht => ?_) List.nodup_range (List.mem_range.2 hk) ⟨hs, rfl, rfl⟩
  · obtain ⟨ho, hr, hl⟩ := ht
    rw [throttleOf_reg ho hk, State.fld, hl, hr, State.fld]
  · obtain ⟨ho, hr, hl⟩ := ht
    exact ⟨throttleOf_ordered ho j _, (throttleOf_reg_ne (not_adaptReg_sensorReg k) (hother (List.mem_range.1 hj) hne.symm)).trans hr,
      (throttleOf_reg_ne not_adaptReg_pwrTherm (hlim j)).trans hl⟩
  · exact (throttleOf_reg_ne (not_adaptReg_sensorReg k) (hother (List.mem_range.1 hj) hne.symm)).trans ht

/-! A sample. -/

/-- The readings and the hottest of them. -/
def State.readings (s : State) (l m : List Nat) : State :=
  ((((s.sensed l).stacksSensed m).withFld Reg.pwrTempMax 7 0 (min 255 (hottest (l.take 80)).1)).withFld Reg.pwrTempMax 14 8 (hottest (l.take 80)).2)

/-- Whether a sample alerts. -/
def State.alerts (s : State) (l m : List Nat) : Bool :=
  decide (s.fld Reg.pwrTherm 7 0 ≤ (hottest (l.take 80)).1) || (m.take 12).any fun t => decide (100 < t)

/-- Sensors at 115 °C or more. -/
def hotSensors (l : List Nat) : List Nat := (List.range 80).filter fun k => decide (115 ≤ nth l k 0)

/-- A sample before its sectors throttle. -/
def State.alerted (s : State) (l m : List Nat) : State := if s.alerts l m then (s.readings l m).powerEvent 0 else s.readings l m

/-- A sample, before it is judged. -/
def State.measured (s : State) (l m : List Nat) : State :=
  ((s.alerted l m).throttled l).withPins { ((s.alerted l m).throttled l).pins with hot := hotSensors l }

theorem thermal_eq (h : s.pins.pwrGood = true) (l m : List Nat) : s.thermal l m =
    if (hotSensors l).any s.pins.hot.contains then (s.measured l m).trip else s.measured l m := by
  unfold State.thermal
  exact if_neg fun hn => hn h

theorem readings_ordered (hs : keysFrom 0 s.regs = true) : keysFrom 0 (s.readings l m).regs = true :=
  State.withFld_ordered (State.withFld_ordered (stacksSensed_ordered (sensed_ordered hs)))

theorem readings_reg_ne {a : Nat} (h : a ≠ Reg.pwrTempMax) : (s.readings l m).reg a = ((s.sensed l).stacksSensed m).reg a :=
  (State.reg_withReg_ne _ h).trans (State.reg_withReg_ne _ h)

theorem alerted_reg {a : Nat} (hn : ¬ noticeReg a) (h : a ≠ Reg.pwrEvent) : (s.alerted l m).reg a = (s.readings l m).reg a := by
  unfold State.alerted
  split
  · exact State.powerEvent_reg _ _ hn h
  · rfl

theorem alerted_ordered (hs : keysFrom 0 s.regs = true) : keysFrom 0 (s.alerted l m).regs = true := by
  unfold State.alerted
  split
  · exact State.powerEvent_ordered (readings_ordered hs) 0
  · exact readings_ordered hs

theorem alerted_pins : (s.alerted l m).pins = s.pins := by
  have hread : (s.readings l m).pins = s.pins := by
    rw [State.readings, State.withFld_pins, State.withFld_pins, stacksSensed_pins, sensed_pins]
  unfold State.alerted
  split
  · rw [State.powerEvent_pins, hread]
  · exact hread

theorem sensorReg_readings (hs : keysFrom 0 s.regs = true) {k : Nat} (hk : k < 80) :
    (s.alerted l m).reg (sensorReg k) = sensedWord (s.reg (sensorReg k)) (nth l k 0) := by
  have hlow {a : Nat} (ha : a < 0x1000000) : sensorReg k ≠ a := Nat.ne_of_gt (ha.trans_le (sensorReg_high k))
  rw [alerted_reg (fun hn => not_adaptReg_sensorReg k (.inl hn)) (hlow (by decide)), readings_reg_ne (hlow (by decide)),
    stacksSensed_reg_ne fun j => sensorReg_ne_memStatus k j]
  exact sensed_reg hs hk

/-- What a sample shows (R366, R369). -/
structure Measured (o t : State) (l m : List Nat) : Prop where
  trip : t.pins.thermTrip = o.pins.thermTrip
  hot : t.pins.hot = hotSensors l
  sensors : ∀ k, k < 80 → t.fld (sensorReg k) 7 0 = min 255 (nth l k 0) ∧ t.fld (sensorReg k) 15 8 = max (o.fld (sensorReg k) 15 8) (min 255 (nth l k 0))
  memories : ∀ k, k < 12 → t.fld (memReg k Reg.memStatus) 21 14 = min 255 (nth m k 0)
  throttles : ∀ k, k < 64 → (t.fld (sectorReg k) 17 17 = 1 ↔ o.fld Reg.pwrTherm 15 8 ≤ nth l k 0 ∨
    o.fld (sectorReg k) 17 17 = 1 ∧ o.fld Reg.pwrTherm 15 8 < nth l k 0 + 3)
  alert : o.alerts l m = true → t.fld Reg.pwrEvent 0 0 = 1

theorem measured_fld (s : State) (a hi lo : Nat) : (s.measured l m).fld a hi lo = wBits (((s.alerted l m).throttled l).reg a) hi lo := rfl

theorem measured_measures (hs : keysFrom 0 s.regs = true) : Measured s (s.measured l m) l m := by
  have hord := alerted_ordered (l := l) (m := m) hs
  have hpackage {a : Nat} (ha : a < 0x1000000) : ∀ k < 64, a ≠ sensorReg k := fun k _ => Nat.ne_of_lt (ha.trans_le (sensorReg_high k))
  have hlimit : (s.alerted l m).fld Reg.pwrTherm 15 8 = s.fld Reg.pwrTherm 15 8 := by
    rw [State.fld, alerted_reg (by unfold noticeReg; decide) (by decide), readings_reg_ne (by decide),
      stacksSensed_reg_ne fun k => Nat.ne_of_lt (Nat.lt_of_lt_of_le (by decide) (dieReg_high _ _)),
      sensed_reg_ne fun k _ => Nat.ne_of_lt (Nat.lt_of_lt_of_le (by decide) (sensorReg_high k)), State.fld]
  have hsector {k : Nat} (hk : k < 64) : ((s.alerted l m).throttled l).reg (sensorReg k) =
      throttledWord (s.fld Reg.pwrTherm 15 8) (nth l k 0) (sensedWord (s.reg (sensorReg k)) (nth l k 0)) := by
    rw [throttled_reg hord hk, sensorReg_readings hs (by omega), hlimit]
  refine ⟨?_, rfl, fun k hk => ?_, fun k hk => ?_, fun k hk => ?_, fun halert => ?_⟩
  · exact throttled_trip.trans (congrArg Pins.thermTrip alerted_pins)
  · rw [measured_fld, measured_fld]
    by_cases h64 : k < 64
    · rw [hsector h64, throttledWord_bits _ _ _ (by decide), throttledWord_bits _ _ _ (by decide)]
      exact ⟨sensedWord_temp _ _, sensedWord_max _ _⟩
    · rw [throttled_reg_ne (not_adaptReg_sensorReg k) fun j hj => sensorReg_ne hk (by omega) (by omega), sensorReg_readings hs hk]
      exact ⟨sensedWord_temp _ _, sensedWord_max _ _⟩
  · have hhigh : 0x1000000 ≤ memReg k Reg.memStatus := dieReg_high _ _
    rw [measured_fld, throttled_reg_ne (not_adaptReg_memStatus k) fun j _ => (sensorReg_ne_memStatus j k).symm,
      alerted_reg (fun hn => not_adaptReg_memStatus k (.inl hn)) (Nat.ne_of_gt (Nat.lt_of_lt_of_le (by decide) hhigh)),
      readings_reg_ne (Nat.ne_of_gt (Nat.lt_of_lt_of_le (by decide) hhigh))]
    exact stacksSensed_fld (sensed_ordered hs) hk
  · rw [sectorReg_sensorReg hk, measured_fld, hsector hk, throttledWord_throttle, sensedWord_throttle]
    rfl
  · have hevent : ¬ adaptReg Reg.pwrEvent := not_adaptReg_package (by decide) not_noticeReg_pwrEvent (by decide) (by decide)
    rw [measured_fld, throttled_reg_ne hevent (hpackage (by decide)), State.alerted, if_pos halert]
    exact State.powerEvent_set (readings_ordered hs) (by decide)

theorem measured_since (h : s.wf = true) : (s.measured l m).wf = true := by
  have hsensed : Since s (s.sensed l) := forEach_since (fun _ _ hu => State.senseOne_since hu) _ (Since.refl h)
  have hstacks : Since s ((s.sensed l).stacksSensed m) := forEach_since (fun _ _ hu => State.withFld_since hu) _ hsensed
  have hread : Since s (s.readings l m) := State.withFld_since (State.withFld_since hstacks)
  have halert : Since s (s.alerted l m) := ite_since (State.powerEvent_since hread) hread
  exact (State.withPins_since (forEach_since (fun _ _ hu => State.throttleOf_since hu) _ halert)).wf

/-! The trip. -/

/-- A package that trips is cut off, until a package reset (R366). -/
theorem trip_cut (h : s.wf = true) : PowerCut s.trip ∧ s.trip.pins.thermTrip = true := by
  have hpins : Since s (s.withPins { s.pins with thermTrip := true }) := State.withPins_since (Since.refl h)
  refine ⟨powerLost_cut (State.powerEvent_since hpins).wf, ?_⟩
  rw [State.trip, powerLost_trip, State.powerEvent_pins]
  rfl

/-! Requests. -/

theorem exec_vinLow_off (h : s.pins.regulators = false) : exec .vinLow s = .next s ∧ exec .regFault s = .next s :=
  ⟨congrArg Host.Outcome.next (if_neg (by rw [h]; decide)), congrArg Host.Outcome.next (if_neg (by rw [h]; decide))⟩

/-- A supply that fails cuts the power, with its event (R360). -/
theorem powerEvent_lost (h : s.wf = true) {i : Nat} (hi : i < 4) :
    PowerCut (s.powerEvent i).powerLost ∧ (s.powerEvent i).powerLost.fld Reg.pwrEvent i i = 1 := by
  have hev : Since s (s.powerEvent i) := State.powerEvent_since (Since.refl h)
  exact ⟨powerLost_cut hev.wf, (powerLost_event hev.regsOrd (by omega)).trans (State.powerEvent_set (Since.refl h).regsOrd (by omega))⟩

section
variable {src : Src}

theorem powerRequest_standby {req : Nat} (hr : req = 1 ∨ req = 2) (h : s.fld Reg.pwrState 2 0 = 0) :
    s.powerRequest src req = s.badAccess src true Reg.pwrState .busy := by
  unfold State.powerRequest
  dsimp only
  rw [if_neg (by omega), if_pos h, State.refuse]

theorem powerRequest_same {req : Nat} (hr : req = 1 ∨ req = 2) (h : s.fld Reg.pwrState 2 0 = req) : s.powerRequest src req = s := by
  unfold State.powerRequest
  dsimp only
  rw [if_neg (by omega), if_neg (by omega), if_pos h]

theorem powerRequest_run (h : s.fld Reg.pwrState 2 0 = 1) : s.powerRequest src 2 = s.enterRun := by
  unfold State.powerRequest
  dsimp only
  rw [if_neg (by omega), if_neg (by omega), if_neg (by omega), if_pos rfl]

theorem powerRequest_keep (h : s.fld Reg.pwrState 2 0 = 2) :
    s.powerRequest src 1 = if s.keepBusy then s.badAccess src true Reg.pwrState .busy else s.enterKeep := by
  unfold State.powerRequest
  dsimp only
  rw [if_neg (by omega), if_neg (by omega), if_neg (by omega), if_neg (by omega), State.refuse]

end

theorem external_linkState (s : State) (n e : Nat) : (s.external n).linkState e = s.linkState e := by
  rw [State.linkState, State.fld, (s.external_frame n).1 _ (Nat.ne_of_gt (Nat.lt_of_lt_of_le (by decide) (portStatus_high e))), ← State.fld, State.linkState]

theorem external_dies (s : State) (n : Nat) : (s.external n).dies = s.dies := (congrArg State.dies (s.external_frame n).2 :)

end

/-- Settles O54: a loss of power by what each die and stack keeps through the rest of it, KEEP and RUN port by port and stack by stack, a sample register by
register. -/
theorem powerAndTemperature : Obligations.PowerAndTemperature := by
  intro s src hwf u st cut
  have hu : Since s u := State.external_since (Since.refl hwf)
  have hcut {t : State} (h : PowerCut t) : cut t := ⟨h.good, h.regulators, h.standby, h.phase, h.dies, h.memories⟩
  refine ⟨exec_vinLow_off, fun h => ?_, fun h => ?_, fun h => congrArg Host.Outcome.next (powerRequest_same (.inl rfl) h),
    fun h => congrArg Host.Outcome.next (powerRequest_same (.inr rfl) h), fun h hb => congrArg Host.Outcome.next ((powerRequest_keep h).trans (if_pos hb)),
    fun h hb => ?_, fun h => ?_, fun l m h => congrArg Host.Outcome.next (if_pos (by rw [h]; decide)), fun l m h hcool => ?_,
    fun l m k h hk hlt hhot => ?_, fun d i => rfl⟩
  · obtain ⟨hlow, hlowEvent⟩ := powerEvent_lost hwf (i := 2) (by decide)
    obtain ⟨hfault, hfaultEvent⟩ := powerEvent_lost hwf (i := 3) (by decide)
    exact ⟨⟨_, congrArg Host.Outcome.next (if_pos h), hcut hlow, hlowEvent⟩, _, congrArg Host.Outcome.next (if_pos h), hcut hfault, hfaultEvent⟩
  · exact ⟨congrArg Host.Outcome.next (powerRequest_standby (.inl rfl) h), congrArg Host.Outcome.next (powerRequest_standby (.inr rfl) h)⟩
  · have hports : Since s u.allPortsDown := forEach_since (fun _ _ => State.portsDown_since) _ hu
    have hk := enterKeep_keeps hu.regsOrd hports.ctrlsOrd
    exact ⟨_, congrArg Host.Outcome.next ((powerRequest_keep h).trans (if_neg (by rw [hb]; decide))), hk.state, hk.refresh, hk.blocks,
      fun e he hl => hk.links e he (by rw [external_linkState]; exact hl), hk.tiles.trans (s.external_tiles 1)⟩
  · have hr := enterRun_runs hu.regsOrd hu.ctrlsOrd
    have hdies : u.dies = s.dies := external_dies s 1
    exact ⟨_, congrArg Host.Outcome.next (powerRequest_run h), hr.state, fun k hk hd => hr.refresh k hk (by rw [State.die, hdies]; exact hd),
      fun e he hon hl => hr.links e he ((State.portOn_of_dies hdies e).trans hon) (by rw [external_linkState]; exact hl), hr.tiles.trans (s.external_tiles 1)⟩
  · have hnone : ¬ (hotSensors l).any s.pins.hot.contains = true := fun hany => by
      obtain ⟨k, hk, hin⟩ := List.any_eq_true.1 hany
      have hge : 115 ≤ nth l k 0 := of_decide_eq_true (List.mem_filter.1 hk).2
      have hlt := hcool k (List.contains_iff_mem.1 hin)
      omega
    have hm := measured_measures (l := l) (m := m) (Since.refl hwf).regsOrd
    exact ⟨_, congrArg Host.Outcome.next ((thermal_eq h l m).trans (if_neg hnone)), hm.trip, hm.sensors, hm.memories, hm.hot, hm.throttles,
      fun hle => hm.alert (by rw [State.alerts, decide_eq_true hle, Bool.true_or])⟩
  · have hany : (hotSensors l).any s.pins.hot.contains = true :=
      List.any_eq_true.2 ⟨k, List.mem_filter.2 ⟨List.mem_range.2 hlt, decide_eq_true hhot⟩, List.contains_iff_mem.2 hk⟩
    obtain ⟨htrip, hland⟩ := trip_cut (measured_since (l := l) (m := m) hwf)
    exact ⟨_, congrArg Host.Outcome.next ((thermal_eq h l m).trans (if_pos hany)), hcut htrip, hland⟩

end Sys2Proof.Machine
end

section
/-! PROOFS. What stopping the gangs and waking the blocks of a scope leaves alone (R105, R345, R355). -/

namespace Sys2Proof.Machine

/-- What stays of a tile whose context ends: its memory, its place and its loss. -/
structure SameTile (x y : Tile) : Prop where
  mem : y.mem = x.mem
  idState : y.idState = x.idState
  lost : y.lost = x.lost

namespace SameTile

section
variable {x y z : Tile}

theorem refl (x : Tile) : SameTile x x := ⟨rfl, rfl, rfl⟩

theorem trans (h : SameTile x y) (h' : SameTile y z) : SameTile x z :=
  ⟨h'.mem.trans h.mem, h'.idState.trans h.idState, h'.lost.trans h.lost⟩

theorem ite {c : Prop} [Decidable c] (hy : SameTile x y) (hz : SameTile x z) : SameTile x (if c then y else z) := by split <;> assumption

theorem dropSummary (c : Ctx) : SameTile x (x.dropSummary c) := by
  unfold Tile.dropSummary
  split
  · exact refl x
  · exact ite ⟨rfl, rfl, rfl⟩ (refl x)

theorem dropBusy (ls : List Nat) : SameTile x (x.dropBusy ls) := by
  unfold Tile.dropBusy
  refine forEach_keep (A := SameTile x) (fun i _ t h => h.trans ?_) (refl x)
  split
  · exact ⟨rfl, rfl, rfl⟩
  · exact refl t

theorem freeEngines (c : Nat) : SameTile x (x.freeEngines c) := ⟨rfl, rfl, rfl⟩

theorem endCtx (c : Nat) : SameTile x (x.endCtx c) := by
  have hfree : SameTile x ((x.freeEngines c).dropBusy (x.ctx c).fills) := (freeEngines c).trans (dropBusy _)
  exact ⟨hfree.mem, hfree.idState, hfree.lost⟩

end

end SameTile

/-- A state without its notices, its registers and its tiles. -/
def State.untiled (s : State) : State := { s.silent with tiles := [] }

/-- `s` is `o` after gangs have stopped and blocks have begun to wake. -/
structure ResetWork (o s : State) : Prop where
  untiled : s.untiled = o.untiled
  reg : ∀ a, a < 0x1000000 → ¬ noticeReg a → s.reg a = o.reg a
  ordered : keysFrom 0 o.tiles = true → keysFrom 0 s.tiles = true
  tile : keysFrom 0 o.tiles = true → ∀ k, SameTile (o.tile k) (s.tile k)

theorem Noted.resetWork {o s : State} (h : Noted o s) : ResetWork o s where
  untiled := by rw [State.untiled, h.silent, State.untiled]
  reg a _ hn := h.reg a hn
  ordered ho := h.tiles ▸ ho
  tile _ k := by
    rw [show s.tile k = o.tile k from congrArg (mapGet Tile.reset k) h.tiles]
    exact .refl _

namespace ResetWork

section
variable {o s u : State}

theorem refl (s : State) : ResetWork s s := (Noted.refl s).resetWork

theorem trans (h : ResetWork o s) (h' : ResetWork s u) : ResetWork o u where
  untiled := h'.untiled.trans h.untiled
  reg a ha hn := (h'.reg a ha hn).trans (h.reg a ha hn)
  ordered ho := h'.ordered (h.ordered ho)
  tile ho k := (h.tile ho k).trans (h'.tile (h.ordered ho) k)

theorem ite {a b : State} {c : Prop} [Decidable c] (ha : ResetWork o a) (hb : ResetWork o b) : ResetWork o (if c then a else b) := by
  split <;> assumption

theorem each {α : Type} {f : α → State → State} (hf : ∀ a s, ResetWork s (f a s)) (l : List α) (s : State) : ResetWork s (forEach l f s) :=
  forEach_keep (A := ResetWork s) (fun a _ t h => h.trans (hf a t)) (refl s)

theorem resets (h : ResetWork o s) : s.faults.resets = o.faults.resets := congrArg (fun s => s.faults.resets) h.untiled
theorem mesh (h : ResetWork o s) : s.mesh = o.mesh := (congrArg State.mesh h.untiled :)
theorem dies (h : ResetWork o s) : s.dies = o.dies := (congrArg State.dies h.untiled :)
theorem ports (h : ResetWork o s) : s.ports = o.ports := (congrArg State.ports h.untiled :)
theorem ctrls (h : ResetWork o s) : s.ctrls = o.ctrls := (congrArg State.ctrls h.untiled :)
theorem groups (h : ResetWork o s) : s.groups = o.groups := (congrArg State.groups h.untiled :)
theorem commit (h : ResetWork o s) : s.commit = o.commit := (congrArg State.commit h.untiled :)

theorem fld {a hi lo : Nat} (h : ResetWork o s) (ha : a < 0x1000000) (hn : ¬ noticeReg a) : s.fld a hi lo = o.fld a hi lo := by
  rw [State.fld, h.reg a ha hn, State.fld]

theorem modTile {t : Nat} {g : Tile → Tile} (hg : ∀ x, SameTile x (g x)) : ResetWork s (s.modTile t g) where
  untiled := rfl
  reg _ _ _ := rfl
  ordered ho := keysFrom_mapPut _ _ _ (Nat.zero_le _) ho
  tile ho k := by
    by_cases h : k = t
    · subst h
      rw [State.tile_modTile_self ho]
      exact hg _
    · rw [State.tile_modTile_ne g h]
      exact .refl _

theorem withReg {a w} (ha : 0x1000000 ≤ a) : ResetWork s (s.withReg a w) :=
  ⟨rfl, (PackageKept.withReg ha).reg, id, fun _ _ => .refl _⟩

/-! Gangs. -/

theorem tileCount {t ev n : Nat} : ResetWork s (s.tileCount t ev n) := by
  unfold State.tileCount
  split
  · exact refl s
  · refine ite (refl s) (each (fun i u => ?_) _ _)
    split
    · exact modTile fun _ => ⟨rfl, rfl, rfl⟩
    · exact refl u

theorem traceEvent {d source event owner data} : ResetWork s (s.traceEvent d source event owner data) := (Noted.refl s).traceEvent.resetWork

theorem raiseFault {u cause severity permanent spare detail} : ResetWork s (s.raiseFault u cause severity permanent spare detail) :=
  (Noted.refl s).raiseFault.resetWork

theorem recordExc {t c addr space e shadow} : ResetWork s (s.recordExc t c addr space e shadow) := by
  have hput {x : Tile} (hx : SameTile (s.tile t) x) : ResetWork s (s.withTile t x) :=
    ⟨rfl, fun _ _ _ => rfl, fun ho => keysFrom_mapPut _ _ _ (Nat.zero_le _) ho, fun ho k => by
      by_cases h : k = t
      · subst h
        rw [State.tile_withTile_self ho]
        exact hx
      · rw [State.tile_withTile_ne _ h]
        exact .refl _⟩
  unfold State.recordExc
  dsimp only
  refine ((ResetWork.trans (hput ?_) tileCount).trans traceEvent).trans raiseFault
  split <;> split <;> exact ⟨rfl, rfl, rfl⟩

theorem raiseExc {t c e shadow} : ResetWork s (s.raiseExc t c e shadow) := by
  unfold State.raiseExc State.endCtx
  exact ((modTile fun _ => .dropSummary _).trans recordExc).trans (modTile fun _ => .endCtx _)

theorem dropHeld {l g c d} : ResetWork s (s.dropHeld l g c d) := by
  unfold State.dropHeld
  refine each (fun j u => ?_) _ _
  exact modTile fun _ => ⟨rfl, rfl, rfl⟩

theorem gangLost {l} : ResetWork s (s.gangLost l) := by
  unfold State.gangLost
  split
  · exact refl s
  · dsimp only
    split
    · exact refl s
    · split
      · exact refl s
      · split
        · exact refl s
        · exact ite (refl s) (ite (dropHeld.trans raiseExc) (ite raiseExc (refl s)))

theorem stopGangs {l} : ResetWork s (s.stopGangs l) := each (fun _ _ => ite gangLost (refl _)) _ _

/-! Blocks. -/

theorem wakeBlock {b} : ResetWork s (s.wakeBlock b) := by
  have hset : ResetWork s (s.setBlockState b 2) := (withReg (clkBlockA_high b)).trans (s.setBlockState_noted b 2).resetWork
  exact ite (hset.trans (withReg (dieReg_high _ _))) (refl s)

end

end ResetWork

/-! A reset as it begins (R345). -/

/-- Tiles that a scope covers, whose gangs stop. -/
def State.coveredTiles (s : State) : Scope → List Nat
  | .die d => diePhys d
  | x => s.scopeTiles x

/-- A scope whose gangs have stopped and whose blocks wake. -/
def State.aroused (s : State) (x : Scope) : State := forEach (s.scopeBlocks x) (fun b s => s.wakeBlock b) (s.stopGangs (s.coveredTiles x))

/-- A state whose list of resets takes one more. -/
def State.noteReset (s : State) (x : Scope) : State := s.withFaults { s.faults with resets := s.faults.resets ++ [x] }

theorem State.noteReset_resets (s : State) (x : Scope) : (s.noteReset x).faults.resets = s.faults.resets ++ [x] := rfl

theorem State.noteReset_group (s : State) (x : Scope) (e : Nat) : (s.noteReset x).group e = s.group e := rfl

/-- A scope that is cleared and listed. -/
def State.listed (s : State) (x : Scope) : State := ((s.aroused x).clearScope x).noteReset x

section
variable {s : State} {x : Scope}

theorem State.beginReset_absorbed (h : s.faults.resets.any (s.inside x) = true) : s.beginReset x = s := if_pos h

theorem State.beginReset_eq (h : s.faults.resets.any (s.inside x) = false) :
    s.beginReset x = forEach (scopeStops x) (fun k s => s.closeStop k) (s.unprepared.listed x) := by
  have hout : ¬ s.faults.resets.any (s.inside x) = true := by
    rw [h]
    decide
  unfold State.beginReset State.listed State.noteReset State.aroused State.coveredTiles State.unprepared
  rw [if_neg hout]
  cases x <;> dsimp only

theorem State.unprepared_idle (h : s.preparing = false) : s.unprepared = s := if_neg (by rw [h]; decide)

theorem State.aroused_work (s : State) (x : Scope) : ResetWork s (s.aroused x) :=
  ResetWork.stopGangs.trans (.each (fun _ _ => .wakeBlock) _ _)

theorem State.aroused_lone (h : s.lone (s.coveredTiles x)) : (s.aroused x).tiles = s.tiles := by
  rw [State.aroused, State.stopGangs_lone h]
  exact State.forEach_wakeBlock_tiles _ _

theorem Since.aroused {o : State} (h : Since o s) (x : Scope) : Since o (s.aroused x) :=
  forEach_since (fun _ _ => State.wakeBlock_since) _ (State.stopGangs_since h)

end

end Sys2Proof.Machine
end

section
/-! PROOFS. Resets of tiles, blocks and dies (R345, R346, Table 15-5). -/

namespace Sys2Proof.Machine

/-! Tiles that are cleared. -/

/-- `y` is the tile `x` after a reset below that of its die. -/
structure CleanTile (x y : Tile) : Prop where
  ctxs : y.ctxs = []
  engines : y.engines = []
  exc0 : y.exc0 = 0
  slots : y.slots = []
  numMode : y.numMode = 8
  same : SameTile x y

theorem CleanTile.of_same {x y z : Tile} (hx : SameTile x y) (h : CleanTile y z) : CleanTile x z := { h with same := hx.trans h.same }

theorem cleaned_clean (x : Tile) : CleanTile x x.cleaned := ⟨rfl, rfl, rfl, rfl, rfl, rfl, rfl, rfl⟩

section
variable {o s : State}

/-- Tiles that a reset below a die clears. -/
def State.cleanTiles (s : State) (l : List Nat) : State := forEach l (fun t s => s.modTile t Tile.cleaned) s

theorem cleanTiles_in (hs : keysFrom 0 s.tiles = true) {l : List Nat} {k : Nat} (hk : k ∈ l) : CleanTile (s.tile k) ((s.cleanTiles l).tile k) := by
  suffices h : ∀ {l : List Nat} {u : State}, keysFrom 0 u.tiles = true → SameTile (s.tile k) (u.tile k) → k ∈ l ∨ CleanTile (s.tile k) (u.tile k) →
      CleanTile (s.tile k) ((u.cleanTiles l).tile k) from h hs (.refl _) (.inl hk)
  intro l
  induction l with
  | nil => exact fun _ _ h => h.resolve_left List.not_mem_nil
  | cons a l ih =>
    intro u hu hsame h
    have hord : keysFrom 0 (u.modTile a Tile.cleaned).tiles = true := keysFrom_mapPut _ _ _ (Nat.zero_le _) hu
    refine ih (u := u.modTile a Tile.cleaned) hord ?_ ?_
    · exact hsame.trans ((ResetWork.modTile fun x => (cleaned_clean x).same).tile hu k)
    · by_cases ha : k = a
      · subst ha
        rw [State.tile_modTile_self hu]
        exact .inr ((cleaned_clean _).of_same hsame)
      · rw [State.tile_modTile_ne _ ha]
        exact h.imp_left fun h => (List.mem_cons.1 h).resolve_left ha

theorem cleanTiles_out {l : List Nat} {k : Nat} (hk : k ∉ l) : (s.cleanTiles l).tile k = s.tile k := by
  unfold State.cleanTiles
  refine forEach_keep (A := fun u : State => u.tile k = s.tile k) (fun a ha u hu => ?_) rfl
  have hne : k ≠ a := fun he => hk (he ▸ ha)
  rwa [State.tile_modTile_ne _ hne]

theorem cleanTiles_work (s : State) (l : List Nat) : ResetWork s (s.cleanTiles l) := .each (fun _ _ => .modTile fun x => (cleaned_clean x).same) _ _

/-! A reset of a tile or of a block. -/

theorem State.clearScope_tile (s : State) (q : Nat) : s.clearScope (.tile q) = s.cleanTiles [q] := rfl

theorem State.clearScope_block (s : State) (b : Nat) : s.clearScope (.block b) = s.cleanTiles (blockPhys b) := rfl

/-- What a scope's tiles and the rest of the state are once it is listed. -/
structure Listed (s t : State) (x : Scope) (l : List Nat) : Prop where
  resets : t.faults.resets = s.faults.resets ++ [x]
  clean : ∀ k ∈ l, CleanTile (s.tile k) (t.tile k)
  others : s.lone l → ∀ k, k ∉ l → t.tile k = s.tile k
  mesh : t.mesh = s.mesh
  dies : t.dies = s.dies
  ports : t.ports = s.ports
  ctrls : t.ctrls = s.ctrls

theorem listed_clean (hs : keysFrom 0 s.tiles = true) {x : Scope} {l : List Nat} (hl : s.coveredTiles x = l)
    (hc : (s.aroused x).clearScope x = (s.aroused x).cleanTiles l) : Listed s (s.listed x) x l := by
  have ha := s.aroused_work x
  have hw := ha.trans (cleanTiles_work (s.aroused x) l)
  have hord := ha.ordered hs
  have htile (k : Nat) : (s.listed x).tile k = ((s.aroused x).cleanTiles l).tile k := by
    rw [State.listed, hc]
    rfl
  refine ⟨?_, fun k hk => ?_, fun hlone k hk => ?_, ?_, ?_, ?_, ?_⟩
  · rw [State.listed, hc, ← hw.resets]
    rfl
  · rw [htile]
    exact (cleanTiles_in hord hk).of_same (ha.tile hs k)
  · rw [htile, cleanTiles_out hk, State.tile, State.aroused_lone (hl ▸ hlone), State.tile]
  · rw [State.listed, hc, ← hw.mesh]
    rfl
  · rw [State.listed, hc, ← hw.dies]
    rfl
  · rw [State.listed, hc, ← hw.ports]
    rfl
  · rw [State.listed, hc, ← hw.ctrls]
    rfl

theorem listed_tile (hs : keysFrom 0 s.tiles = true) (q : Nat) : Listed s (s.listed (.tile q)) (.tile q) [q] :=
  listed_clean hs rfl (State.clearScope_tile _ _)

theorem listed_block (hs : keysFrom 0 s.tiles = true) (b : Nat) : Listed s (s.listed (.block b)) (.block b) (blockPhys b) :=
  listed_clean hs rfl (State.clearScope_block _ _)

theorem Since.listed {x : Scope} (h : Since o s) : Since o (s.listed x) :=
  have hclear := State.clearScope_since (a1 := x) (h.aroused x)
  State.withFaults_since hclear hclear.faultsLe

theorem closeStops_kept (h : Since o s) (l : List Nat) : FenceKept True s (forEach l (fun k s => s.closeStop k) s) :=
  .each (fun _ _ _ hu => hu.closeStop) (.refl h.regsOrd h.meshOrd)

/-! A reset of a tile die. -/

/-- The tiles of a die after its reset. -/
def State.resetTiles (d : Nat) (l : List Nat) (s : State) : State := forEach l (fun q s => s.modTile (2304 * d + q) Tile.dieReset) s

theorem resetTiles_in {d i : Nat} {l : List Nat} (hl : l.Nodup) (hi : i ∈ l) (hs : keysFrom 0 s.tiles = true) :
    (s.resetTiles d l).tile (2304 * d + i) = (s.tile (2304 * d + i)).dieReset := by
  unfold State.resetTiles
  refine forEach_at (A := fun u : State => keysFrom 0 u.tiles = true ∧ u.tile (2304 * d + i) = s.tile (2304 * d + i))
    (B := fun u : State => u.tile (2304 * d + i) = (s.tile (2304 * d + i)).dieReset) (k := i) (fun u hu => ?_) (fun j _ u hne hu => ?_)
    (fun j _ u hne hu => ?_) hl hi ⟨hs, rfl⟩
  · rw [State.tile_modTile_self hu.1, hu.2]
  · exact ⟨keysFrom_mapPut _ _ _ (Nat.zero_le _) hu.1, (State.tile_modTile_ne _ (by omega)).trans hu.2⟩
  · exact (State.tile_modTile_ne _ (by omega)).trans hu

theorem resetTiles_out {d q : Nat} {l : List Nat} (hl : ∀ i ∈ l, q ≠ 2304 * d + i) : (s.resetTiles d l).tile q = s.tile q := by
  unfold State.resetTiles
  refine forEach_keep (A := fun u : State => u.tile q = s.tile q) (fun i hi u hu => ?_) rfl
  exact (State.tile_modTile_ne _ (hl i hi)).trans hu

/-- What else a reset clears of a tile die: check-value units, the controller, and the idle times of blocks. -/
def State.clearUnits (d : Nat) (s : State) : State :=
  forEach ((List.range 32).map (32 * d + ·)) (fun b s => s.modBlock b fun x => { x with idle := 0, asleep := 0 })
    (match dieStack d with
    | some k => forEach ((List.range 16).map fun i => 64 + 16 * k + i) (fun u s => s.withChk u ⟨[], 0, 0, none⟩) (s.modCtrl k Ctrl.dieReset)
    | none => s)

theorem clearUnits_tiles (d : Nat) (s : State) : (s.clearUnits d).tiles = s.tiles := by
  unfold State.clearUnits
  rw [forEach_tiles (f := fun b (s : State) => s.modBlock b fun x => { x with idle := 0, asleep := 0 }) fun _ _ => rfl]
  split
  · rw [forEach_tiles (f := fun u (s : State) => s.withChk u ⟨[], 0, 0, none⟩) fun _ _ => rfl, State.modCtrl_tiles]
  · rfl

theorem clearTileDie_eq (s : State) (d : Nat) : s.clearTileDie d = (s.resetTiles d (List.range 2304)).clearUnits d := by
  unfold State.clearTileDie State.clearUnits State.resetTiles
  cases dieStack d <;> dsimp only

theorem clearDie_tiles {d : Nat} (hd : d < 16) (s : State) : (s.clearDie d).tiles = ((s.dieForgets d).resetTiles d (List.range 2304)).tiles := by
  rw [State.clearDie_eq, if_pos hd, State.withTraceUnit_tiles, clearTileDie_eq, clearUnits_tiles]

theorem clearDie_tile_eq {d : Nat} (hd : d < 16) (s : State) (q : Nat) :
    (s.clearDie d).tile q = ((s.dieForgets d).resetTiles d (List.range 2304)).tile q := congrArg (mapGet Tile.reset q) (clearDie_tiles hd s)

theorem dieForgets_tile (s : State) (d q : Nat) : (s.dieForgets d).tile q = s.tile q := rfl

theorem clearDie_tile {d : Nat} (hd : d < 16) (hs : keysFrom 0 s.tiles = true) {i : Nat} (hi : i < 2304) :
    (s.clearDie d).tile (2304 * d + i) = (s.tile (2304 * d + i)).dieReset := by
  rw [clearDie_tile_eq hd, resetTiles_in (s := s.dieForgets d) List.nodup_range (List.mem_range.2 hi) hs, dieForgets_tile]

theorem clearDie_tile_other {d q : Nat} (hd : d < 16) (hq : q / 2304 ≠ d) : (s.clearDie d).tile q = s.tile q := by
  have hout : ∀ i ∈ List.range 2304, q ≠ 2304 * d + i := fun i hi => by
    have hi := List.mem_range.1 hi
    omega
  rw [clearDie_tile_eq hd, resetTiles_out hout, dieForgets_tile]

theorem State.clearScope_die (s : State) (d : Nat) : s.clearScope (.die d) = (s.clearDie d).modDie d fun y => { y with inReset := true } := rfl

/-- What a tile die and the rest of the state are once its reset is listed. -/
structure DieListed (s t : State) (d : Nat) : Prop where
  resets : t.faults.resets = s.faults.resets ++ [.die d]
  structured : (t.die d).structured = false
  fenced : (t.die d).fenced = true
  inReset : (t.die d).inReset = true
  active : (t.die d).active = []
  staged : (t.die d).staged = none
  tiles : ∀ i, i < 2304 → (t.tile (2304 * d + i)).mem = [] ∧ (t.tile (2304 * d + i)).lost = (s.tile (2304 * d + i)).lost
  others : s.lone (diePhys d) → ∀ q, q / 2304 ≠ d → t.tile q = s.tile q

/-- A die in reset, and its reset in the list. -/
def State.dieListed (s : State) (d : Nat) : State := (s.modDie d fun y => { y with inReset := true }).noteReset (.die d)

theorem listed_die_eq (s : State) (d : Nat) : s.listed (.die d) = ((s.aroused (.die d)).clearDie d).dieListed d := by
  unfold State.listed
  rw [State.clearScope_die]
  rfl

theorem dieListed_die (hs : keysFrom 0 s.dies = true) (d : Nat) : (s.dieListed d).die d = { s.die d with inReset := true } :=
  State.die_modDie_self (s := s) hs d fun y => { y with inReset := true }

theorem dieListed_tile (s : State) (d q : Nat) : (s.dieListed d).tile q = s.tile q := rfl

theorem dieListed_resets (s : State) (d : Nat) : (s.dieListed d).faults.resets = s.faults.resets ++ [.die d] := rfl

theorem listed_die (h : s.wf = true) {d : Nat} (hd : d < 16) : DieListed s (s.listed (.die d)) d := by
  have hs := Since.refl h
  have ha := s.aroused_work (.die d)
  have harouse := hs.aroused (.die d)
  obtain ⟨m, hdie⟩ : ∃ m, (s.listed (.die d)).die d = { Die.cleared d m ((s.aroused (.die d)).die d) with inReset := true } := by
    rw [listed_die_eq, dieListed_die (State.clearDie_since harouse).diesOrd, clearDie_die harouse.diesOrd]
    exact ⟨_, rfl⟩
  refine ⟨?_, by rw [hdie]; rfl, by rw [hdie]; rfl, by rw [hdie], ?_, by rw [hdie]; rfl, fun i hi => ?_, fun hlone q hq => ?_⟩
  · rw [listed_die_eq, dieListed_resets, ((s.aroused (.die d)).clearDie_work d).resets]
    exact congrArg (· ++ [Scope.die d]) ha.resets
  · rw [hdie]
    exact if_pos hd
  · rw [listed_die_eq, dieListed_tile, clearDie_tile hd harouse.tilesOrd hi]
    exact ⟨rfl, (ha.tile hs.tilesOrd _).lost⟩
  · rw [listed_die_eq, dieListed_tile, clearDie_tile_other hd hq, State.tile, State.aroused_lone hlone, State.tile]

end

end Sys2Proof.Machine
end

section
/-! PROOFS. A partition reset aborts the groups of its owner (R202, R345). -/

namespace Sys2Proof.Machine

/-! What the entries do not depend on. -/

/-- `s` is `o` beside the entries of groups, their validity and the resets. -/
structure GroupFree (o s : State) : Prop where
  groups : s.groups = o.groups
  valid : ∀ k < 256, s.reg (Reg.colGrpCfg k) = o.reg (Reg.colGrpCfg k)
  resets : s.faults.resets = o.faults.resets

theorem colGrpCfg_range {k : Nat} (hk : k < 256) : 0x70000 ≤ Reg.colGrpCfg k ∧ Reg.colGrpCfg k < 0x74000 := by
  unfold Reg.colGrpCfg
  omega

theorem not_noticeReg_colGrpCfg {k : Nat} (hk : k < 256) : ¬ noticeReg (Reg.colGrpCfg k) := by
  have h := colGrpCfg_range hk
  unfold noticeReg
  omega

theorem ResetWork.groupFree {o s : State} (h : ResetWork o s) : GroupFree o s where
  groups := h.groups
  valid k hk := h.reg _ (by have := colGrpCfg_range hk; omega) (not_noticeReg_colGrpCfg hk)
  resets := h.resets

theorem Noted.groupFree {o s : State} (h : Noted o s) : GroupFree o s := h.resetWork.groupFree

namespace GroupFree

section
variable {o s u : State}

theorem refl (s : State) : GroupFree s s := ⟨rfl, fun _ _ => rfl, rfl⟩

theorem trans (h : GroupFree o s) (h' : GroupFree s u) : GroupFree o u :=
  ⟨h'.groups.trans h.groups, fun k hk => (h'.valid k hk).trans (h.valid k hk), h'.resets.trans h.resets⟩

theorem ite {a b : State} {c : Prop} [Decidable c] (ha : GroupFree o a) (hb : GroupFree o b) : GroupFree o (if c then a else b) := by
  split <;> assumption

theorem each {α : Type} {f : α → State → State} (hf : ∀ a s, GroupFree s (f a s)) (l : List α) (s : State) : GroupFree s (forEach l f s) :=
  forEach_keep (A := GroupFree s) (fun a _ t h => h.trans (hf a t)) (refl s)

theorem foldFst {α β : Type} {f : State × β → α → State × β} (hf : ∀ r a, GroupFree r.1 (f r a).1) :
    ∀ (l : List α) (r : State × β), GroupFree r.1 (l.foldl f r).1
  | [], r => refl r.1
  | a :: l, r => (hf r a).trans (foldFst hf l (f r a))

theorem withReg {a w} (ha : ∀ k < 256, Reg.colGrpCfg k ≠ a) : GroupFree s (s.withReg a w) :=
  ⟨rfl, fun k hk => State.reg_withReg_ne w (ha k hk), rfl⟩

theorem withHigh {a w} (ha : 0x1000000 ≤ a) : GroupFree s (s.withReg a w) := (ResetWork.withReg ha).groupFree

theorem modCtrl {k g} : GroupFree s (s.modCtrl k g) := ⟨rfl, fun _ _ => rfl, rfl⟩
theorem withCtrl {k x} : GroupFree s (s.withCtrl k x) := ⟨rfl, fun _ _ => rfl, rfl⟩
theorem modChk {k g} : GroupFree s (s.modChk k g) := ⟨rfl, fun _ _ => rfl, rfl⟩
theorem modTile {k g} : GroupFree s (s.modTile k g) := ⟨rfl, fun _ _ => rfl, rfl⟩
theorem modStop {k g} : GroupFree s (s.modStop k g) := ⟨rfl, fun _ _ => rfl, rfl⟩
theorem useFreeN {n} : GroupFree s (s.useFreeN n) := ⟨rfl, fun _ _ => rfl, rfl⟩

/-! Writes to HBM. -/

theorem retirePch {k p} : GroupFree s (s.retirePch k p) := modCtrl.trans (Noted.refl _).raiseFault.groupFree

theorem beginRepair {k blk} : GroupFree s (s.beginRepair k blk) := ite (withCtrl.trans useFreeN) retirePch

theorem hbmUncorr {k blk source} : GroupFree s (s.hbmUncorr k blk source) := by
  have hcount : GroupFree s (s.countUncorr k blk source) := (withHigh (dieReg_high _ _)).trans (withHigh (dieReg_high _ _))
  have hfault := hcount.trans (Noted.refl (s.countUncorr k blk source)).raiseFault.groupFree (u := (s.countUncorr k blk source).raiseFault
    (Unit6.ofDie (stackDie k)) (if source = 1 then 0x19 else 0x18) (if source = 1 then 2 else 1) false 15 (eccLast k blk source))
  exact ite hfault (ite (hfault.trans beginRepair) (ite ((hfault.trans withCtrl).trans retirePch) (hfault.trans withCtrl)))

theorem writeBlock {k off data b} : GroupFree s (s.writeBlock k off data b).1 := by
  have hcount : GroupFree s (s.bump (memReg k Reg.memWrCnt)) := withHigh (dieReg_high _ _)
  unfold State.writeBlock
  dsimp only
  split
  · exact hcount.trans (withHigh (dieReg_high _ _))
  · split
    · split
      · exact hcount.trans withCtrl
      · exact hcount.trans hbmUncorr
    · exact hcount.trans withCtrl

theorem hbmWrite {k off data} : GroupFree s (s.hbmWrite k off data).1 := by
  unfold State.hbmWrite
  refine foldFst (fun r b => ?_) _ (s, false)
  exact writeBlock

theorem writePieces {ps data} : GroupFree s (s.writePieces ps data).1 := by
  unfold State.writePieces
  refine foldFst (β := Bytes × Bool) (fun r p => ?_) ps (s, (data, false))
  exact hbmWrite

theorem chkWrite {p a n} : GroupFree s (s.chkWrite p a n) := by
  unfold State.chkWrite
  refine each (fun u t => ?_) _ _
  dsimp only
  split
  · exact modChk
  · exact refl t

theorem writeRun {e space r data} : GroupFree s (writeRun e space r data s) := by
  unfold Machine.writeRun
  split
  · exact modTile
  · exact modTile
  · split
    · exact writePieces.trans chkWrite
    · exact refl s
  · exact refl s

/-! Members and messages. -/

theorem writeGot {m l} : GroupFree s (s.writeGot m l) := by
  unfold State.writeGot
  exact each (fun _ _ => each (fun _ _ => writeRun) _ _) _ _

theorem abortMember {cause m} : GroupFree s (s.abortMember cause m) := by
  unfold State.abortMember
  dsimp only
  split
  · exact refl s
  · split
    · exact ite ((writeGot.trans useFreeN).trans ResetWork.raiseExc.groupFree) (writeGot.trans useFreeN)
    · exact writeGot.trans useFreeN

theorem meshPut {k dst f} : GroupFree s (s.meshPut k dst f) := modStop.trans (ite ResetWork.wakeBlock.groupFree (refl _))

theorem sendFrame {k home f} : GroupFree s (s.sendFrame k home f) := meshPut

end

end GroupFree

/-! Work on one entry. -/

/-- Work on the entry `e` that leaves it the instances `l`: other entries, owners, the validity of entries and the resets stay. -/
structure EntryWork (e : Nat) (o : State) (l : List Nat) (s : State) : Prop where
  ordered : keysFrom 0 s.groups = true
  others : ∀ k, k ≠ e → s.group k = o.group k
  owner : (s.group e).owner = (o.group e).owner
  seqs : (s.group e).insts.map (·.seq) = l
  valid : ∀ k < 256, s.reg (Reg.colGrpCfg k) = o.reg (Reg.colGrpCfg k)
  resets : s.faults.resets = o.faults.resets

namespace EntryWork

section
variable {e q : Nat} {o s u : State} {l : List Nat}

theorem refl (hs : keysFrom 0 s.groups = true) : EntryWork e s ((s.group e).insts.map (·.seq)) s := ⟨hs, fun _ _ => rfl, rfl, rfl, fun _ _ => rfl, rfl⟩

theorem free (h : EntryWork e o l s) (h' : GroupFree s u) : EntryWork e o l u := by
  have hg (k : Nat) : u.group k = s.group k := congrArg (mapGet Group.empty k) h'.groups
  exact ⟨h'.groups ▸ h.ordered, fun k hk => (hg k).trans (h.others k hk), by rw [hg]; exact h.owner, by rw [hg]; exact h.seqs,
    fun k hk => (h'.valid k hk).trans (h.valid k hk), h'.resets.trans h.resets⟩

theorem each {α : Type} {f : α → State → State} (hf : ∀ a s, EntryWork e o l s → EntryWork e o l (f a s)) {as : List α} (h : EntryWork e o l s) :
    EntryWork e o l (forEach as f s) := forEach_keep (A := EntryWork e o l) (fun a _ => hf a) h

theorem modGroup {g : Group → Group} {l' : List Nat} (h : EntryWork e o l s) (ho : (g (s.group e)).owner = (s.group e).owner)
    (hl : (g (s.group e)).insts.map (·.seq) = l') : EntryWork e o l' (s.modGroup e g) := by
  have hself := State.group_modGroup_self h.ordered e g
  exact ⟨keysFrom_mapPut _ _ _ (Nat.zero_le _) h.ordered, fun k hk => (mapGet_mapPut_ne _ _ _ hk _).trans (h.others k hk),
    by rw [hself, ho]; exact h.owner, by rw [hself]; exact hl, h.valid, h.resets⟩

theorem modInst {g : Inst → Inst} (h : EntryWork e o l s) (hg : ∀ x, (g x).seq = x.seq) : EntryWork e o l (s.modInst e q g) := by
  refine h.modGroup (g := fun g' => { g' with insts := g'.insts.map fun y => if y.seq = q then g y else y }) rfl ?_
  rw [← h.seqs, List.map_map]
  refine List.map_congr_left fun x _ => ?_
  simp only [Function.comp_apply]
  split <;> simp [hg]

theorem colSend {f : Frame} (h : EntryWork e o l s) : EntryWork e o l (s.colSend e f) := by
  have hsent := h.free (GroupFree.sendFrame (k := s.groupStop e) (home := (s.group e).redBase) (f := f))
  unfold State.colSend State.colSendTill
  refine hsent.modGroup rfl ?_
  exact hsent.seqs

theorem colDrain {key : Nat} : ∀ {n : Nat} {s : State}, EntryWork e o l s → EntryWork e o l (s.colDrain e q key n)
  | 0, _, h => h
  | n + 1, s, h => by
    unfold State.colDrain
    split
    · exact h
    · split
      · exact h
      · dsimp only
        split
        · exact h
        · exact colDrain (colSend (modInst h fun _ => by rfl))

theorem colDrainAll (h : EntryWork e o l s) : EntryWork e o l (s.colDrainAll e) := each (fun _ _ hu => each (fun _ _ hv => hv.colDrain) hu) h

theorem sendDown {kind status offset count data} (h : EntryWork e o l s) : EntryWork e o l (s.sendDown e q kind status offset count data) := by
  unfold State.sendDown
  split
  · exact h
  · exact each (fun _ _ hu => hu.colSend) h

theorem withEntryReg {a : Nat} {w : Word} (h : EntryWork e o l s) (ha : a % 0x40 ≠ 0) : EntryWork e o l (s.withReg a w) :=
  h.free (.withReg fun k _ he => ha (he ▸ by unfold Reg.colGrpCfg; omega))

theorem endInst {cause : Nat} (h : EntryWork e o l s) : EntryWork e o (l.filter (· != q)) (s.endInst e q cause) := by
  have hleft := h.modGroup (l' := l.filter (· != q))
    (g := fun g => { g with insts := g.insts.filter (·.seq != q), ended := (q, cause) :: g.ended }) rfl (by rw [← h.seqs, List.filter_map]; rfl)
  refine colDrainAll (withEntryReg hleft ?_)
  unfold Reg.colGrpState
  omega

/-- An abort leaves the other instances of its entry. -/
theorem abortInst {cause : Nat} {rank : Option Nat} (h : EntryWork e o l s) : EntryWork e o (l.filter (· != q)) (s.abortInst e q cause rank) := by
  unfold State.abortInst
  split
  · rename_i hnone
    have hq : q ∉ l := by
      rw [← h.seqs]
      exact Group.inst_eq_none_iff.1 hnone
    have hall : l.filter (· != q) = l := List.filter_eq_self.2 fun x hx => bne_iff_ne.2 fun he => hq (he ▸ hx)
    rwa [hall]
  · dsimp only
    refine endInst (withEntryReg (withEntryReg (each (fun m u hu => hu.free .abortMember) ?_) ?_) ?_)
    · split
      · exact h.sendDown
      · exact each (fun _ _ hu => hu.colSend) h
    · unfold Reg.colGrpAbort
      omega
    · unfold Reg.colGrpAbortCnt
      omega

/-- An abort of every instance leaves none. -/
theorem abortInsts {cause : Nat} : ∀ {qs l : List Nat} {s : State}, (∀ q ∈ l, q ∈ qs) → EntryWork e o l s →
    EntryWork e o [] (forEach qs (fun q s => s.abortInst e q cause none) s)
  | [], l, _, hl, h => by
    have hnil : l = [] := List.eq_nil_iff_forall_not_mem.2 fun q hq => List.not_mem_nil (hl q hq)
    subst hnil
    exact h
  | a :: qs, l, s, hl, h => by
    refine abortInsts (qs := qs) (l := l.filter (· != a)) (fun q hq => ?_) h.abortInst
    obtain ⟨hq, hne⟩ := List.mem_filter.1 hq
    exact (List.mem_cons.1 (hl q hq)).resolve_left (bne_iff_ne.1 hne)

theorem abortAll {cause : Nat} (hs : keysFrom 0 s.groups = true) : EntryWork e s [] (s.abortAll e cause) :=
  abortInsts (fun _ hq => hq) (refl hs)

end

end EntryWork

/-! The partition. -/

section
variable {s : State} {o : Nat}

/-- A group of an owner aborts. -/
def State.abortOwned (o e : Nat) (s : State) : State := if s.groupOn e && (s.group e).owner == o then s.abortAll e 0x56 else s

/-- The validity and the owner of an entry. -/
def State.ownedBy (s : State) (o e : Nat) : Prop := s.groupOn e = true ∧ (s.group e).owner = o

theorem EntryWork.groupOn {e k : Nat} {o s : State} {l : List Nat} (h : EntryWork e o l s) (hk : k < 256) : s.groupOn k = o.groupOn k := by
  rw [State.groupOn, State.fld, h.valid k hk, State.groupOn, State.fld]

theorem abortOwned_ordered (hs : keysFrom 0 s.groups = true) (e : Nat) : keysFrom 0 (s.abortOwned o e).groups = true := by
  unfold State.abortOwned
  split
  · exact (EntryWork.abortAll hs).ordered
  · exact hs

theorem abortOwned_resets (hs : keysFrom 0 s.groups = true) (e : Nat) : (s.abortOwned o e).faults.resets = s.faults.resets := by
  unfold State.abortOwned
  split
  · exact (EntryWork.abortAll hs).resets
  · rfl

theorem abortOwned_other (hs : keysFrom 0 s.groups = true) {e k : Nat} (hk : k < 256) (hne : k ≠ e) :
    (s.abortOwned o e).group k = s.group k ∧ (s.abortOwned o e).groupOn k = s.groupOn k := by
  unfold State.abortOwned
  split
  · exact ⟨(EntryWork.abortAll hs).others k hne, (EntryWork.abortAll hs).groupOn hk⟩
  · exact ⟨rfl, rfl⟩

theorem abortOwned_aborts (hs : keysFrom 0 s.groups = true) {e : Nat} (h : s.ownedBy o e) : ((s.abortOwned o e).group e).insts = [] := by
  have hin : (s.groupOn e && (s.group e).owner == o) = true := by simp [h.1, h.2]
  rw [State.abortOwned, if_pos hin]
  exact List.map_eq_nil_iff.1 (EntryWork.abortAll hs).seqs

/-- Every group of an owner aborts. -/
def State.abortPartition (s : State) (o : Nat) : State := forEach (List.range 256) (State.abortOwned o) s

theorem abortPartition_resets (hs : keysFrom 0 s.groups = true) : (s.abortPartition o).faults.resets = s.faults.resets := by
  unfold State.abortPartition
  have hboth := forEach_keep (A := fun u : State => keysFrom 0 u.groups = true ∧ u.faults.resets = s.faults.resets) (l := List.range 256)
    (f := State.abortOwned o) (fun e _ u hu => ⟨abortOwned_ordered hu.1 e, (abortOwned_resets hu.1 e).trans hu.2⟩) ⟨hs, rfl⟩
  exact hboth.2

theorem abortPartition_aborts (hs : keysFrom 0 s.groups = true) {e : Nat} (he : e < 256) (h : s.ownedBy o e) :
    ((s.abortPartition o).group e).insts = [] := by
  unfold State.abortPartition
  have hboth := forEach_at (A := fun u : State => keysFrom 0 u.groups = true ∧ u.ownedBy o e)
    (B := fun u : State => keysFrom 0 u.groups = true ∧ (u.group e).insts = []) (l := List.range 256) (f := State.abortOwned o) (k := e)
    (fun u hu => ⟨abortOwned_ordered hu.1 e, abortOwned_aborts hu.1 hu.2⟩) (fun k _ u hne hu => ?_) (fun k _ u hne hu => ?_)
    List.nodup_range (List.mem_range.2 he) ⟨hs, h⟩
  · exact hboth.2
  · obtain ⟨hord, hon, howner⟩ := hu
    obtain ⟨hgroup, hvalid⟩ := abortOwned_other (o := o) hord he hne.symm
    exact ⟨abortOwned_ordered hord k, hvalid.trans hon, by rw [hgroup]; exact howner⟩
  · obtain ⟨hord, hnone⟩ := hu
    exact ⟨abortOwned_ordered hord k, by rw [(abortOwned_other (o := o) hord he hne.symm).1]; exact hnone⟩

theorem State.clearScope_partition (s : State) (o : Nat) : s.clearScope (.partition o) = (s.cleanTiles (s.activeTiles o)).abortPartition o := rfl

/-- A partition's reset is listed, and its groups have aborted. -/
theorem listed_partition (h : s.wf = true) (o : Nat) : (s.listed (.partition o)).faults.resets = s.faults.resets ++ [.partition o] ∧
    ∀ e, e < 256 → s.ownedBy o e → ((s.listed (.partition o)).group e).insts = [] := by
  have hwork := (s.aroused_work (.partition o)).trans (cleanTiles_work (s.aroused (.partition o)) ((s.aroused (.partition o)).activeTiles o))
  have hfree := hwork.groupFree
  rw [State.listed, State.clearScope_partition]
  generalize (s.aroused (.partition o)).cleanTiles ((s.aroused (.partition o)).activeTiles o) = u at hwork hfree
  have hord : keysFrom 0 u.groups = true := hfree.groups ▸ (Since.refl h).groupsOrd
  refine ⟨?_, fun e he ⟨hon, howner⟩ => ?_⟩
  · rw [State.noteReset_resets, abortPartition_resets hord, hfree.resets]
  · rw [State.noteReset_group]
    refine abortPartition_aborts hord he ⟨?_, ?_⟩
    · rw [State.groupOn, State.fld, hfree.valid e he, ← State.fld, ← State.groupOn]
      exact hon
    · rw [State.group, hfree.groups]
      exact howner

end

end Sys2Proof.Machine
end

section
/-! PROOFS. O49: the resets of tiles, blocks, dies and partitions begin and end (R345, R346). -/

namespace Sys2Proof.Machine

section
variable {s : State} {src : Sys2Proof.Src} {w : Nat} {x : Unit6} {y : Sys2Proof.Scope}

/-! Requests. -/

theorem exec_resets {t : State} (h : (s.external 1).resetWrite src w = t) :
    exec (.tileReset src w) s = .next t ∧ exec (.blockReset src w) s = .next t ∧ exec (.sectorReset src w) s = .next t ∧
      exec (.dieReset src w) s = .next t := by
  subst h
  exact ⟨rfl, rfl, rfl, rfl⟩

theorem exec_partitionReset (s : State) (src : Sys2Proof.Src) (o : Nat) :
    exec (.partitionReset src o) s = .next ((s.external 1).partitionReset src (o % 64)) := rfl

theorem exec_resetComplete (s : State) (y : Sys2Proof.Scope) : exec (.resetComplete y) s = .next (s.endReset y) := rfl

theorem resetWrite_unnamed (h : s.parseUnit w = none) :
    s.resetWrite src w = (s.bump Reg.porBadUnitCnt).badAccess src true Reg.fltResetReq .badValue := by
  rw [State.resetWrite, h]
  rfl

theorem resetWrite_refused (h : s.parseUnit w = some x) (hx : s.unitScope x = none) :
    s.resetWrite src w = s.badAccess src true Reg.fltResetReq .badValue := by
  rw [State.resetWrite, h]
  dsimp only
  rw [hx]
  rfl

theorem resetWrite_begins (h : s.parseUnit w = some x) (hx : s.unitScope x = some y) : s.resetWrite src w = s.beginReset y := by
  rw [State.resetWrite, h]
  dsimp only
  rw [hx]

theorem unitScope_none (h : x.level < 2 ∨ 5 < x.level) : s.unitScope x = none := by
  unfold State.unitScope
  split
  · omega
  · omega
  · omega
  · omega
  · rfl

theorem unitScope_tile (h : x.level = 2) : s.unitScope x = some (.tile (s.phys x.logical)) := by
  rw [State.unitScope, h]
  rfl

theorem unitScope_block (h : x.level = 3) : s.unitScope x = some (.block x.blockOf) := by
  rw [State.unitScope, h]
  rfl

theorem unitScope_die (h : x.level = 5) : s.unitScope x = some (.die x.die) := by
  rw [State.unitScope, h]
  rfl

end

/-! What a counted access leaves for a reset. -/

section
variable {s : State}

theorem external_tile (s : State) (n q : Nat) : (s.external n).tile q = s.tile q := congrArg (mapGet Tile.reset q) (s.external_tiles n)

theorem external_faults (s : State) (n : Nat) : (s.external n).faults = s.faults := (congrArg State.faults (s.external_frame n).2 :)
theorem external_mesh (s : State) (n : Nat) : (s.external n).mesh = s.mesh := (congrArg State.mesh (s.external_frame n).2 :)
theorem external_ports (s : State) (n : Nat) : (s.external n).ports = s.ports := (congrArg State.ports (s.external_frame n).2 :)
theorem external_ctrls (s : State) (n : Nat) : (s.external n).ctrls = s.ctrls := (congrArg State.ctrls (s.external_frame n).2 :)
theorem external_groups (s : State) (n : Nat) : (s.external n).groups = s.groups := (congrArg State.groups (s.external_frame n).2 :)

theorem external_preparing (s : State) (n : Nat) : (s.external n).preparing = s.preparing := by
  rw [State.preparing, (s.external_kept n).phase, State.preparing]

theorem external_ownedBy {n o e : Nat} (he : e < 256) (h : s.ownedBy o e) : (s.external n).ownedBy o e := by
  obtain ⟨hon, howner⟩ := h
  refine ⟨?_, by rw [State.group, external_groups]; exact howner⟩
  have hne : Reg.colGrpCfg e ≠ Reg.detExtCnt := by
    have := (colGrpCfg_range he).1
    unfold Reg.detExtCnt
    omega
  rw [State.groupOn, State.fld, (s.external_frame n).1 _ hne]
  exact hon

end

/-! A reset that begins. -/

section
variable {s : State}

theorem beginReset_tile (h : s.preparing = false) {q : Nat} (hout : s.faults.resets.any (s.inside (.tile q)) = false) :
    s.beginReset (.tile q) = s.listed (.tile q) := by
  rw [State.beginReset_eq hout, State.unprepared_idle h]
  rfl

/-- A reset of a block is listed, and its stop is isolated. -/
theorem beginReset_block (hwf : s.wf = true) (h : s.preparing = false) {b : Nat} (hout : s.faults.resets.any (s.inside (.block b)) = false) :
    (s.beginReset (.block b)).faults.resets = s.faults.resets ++ [.block b] ∧ ((s.beginReset (.block b)).stop b).isolated = true ∧
      (∀ q ∈ blockPhys b, CleanTile (s.tile q) ((s.beginReset (.block b)).tile q)) ∧
      (s.lone (blockPhys b) → ∀ q, q ∉ blockPhys b → (s.beginReset (.block b)).tile q = s.tile q) := by
  have hs := Since.refl hwf
  have hlisted := listed_block hs.tilesOrd b
  have hafter := hs.listed (x := .block b)
  rw [State.beginReset_eq hout, State.unprepared_idle h]
  generalize s.listed (.block b) = v at hlisted hafter
  have hclosed := closeStops_kept hafter (scopeStops (.block b))
  have hiso := State.isolated_closeStops (l := scopeStops (.block b)) hafter.regsOrd hafter.meshOrd b (List.mem_singleton.2 rfl)
  generalize forEach (scopeStops (.block b)) (fun k s => s.closeStop k) v = z at hclosed hiso
  have htile (q : Nat) : z.tile q = v.tile q := congrArg (mapGet Tile.reset q) (hclosed.tiles trivial)
  refine ⟨by rw [hclosed.faults trivial, hlisted.resets], hiso, fun q hq => ?_, fun hlone q hq => ?_⟩
  · rw [htile]
    exact hlisted.clean q hq
  · rw [htile]
    exact hlisted.others hlone q hq

/-- A reset of a tile die is listed, and its stops are isolated. -/
theorem beginReset_die (hwf : s.wf = true) (h : s.preparing = false) {d : Nat} (hd : d < 16)
    (hout : s.faults.resets.any (s.inside (.die d)) = false) :
    DieListed s (s.beginReset (.die d)) d ∧ ∀ k ∈ dieStops d, ((s.beginReset (.die d)).stop k).isolated = true := by
  have hs := Since.refl hwf
  have hlisted := listed_die hwf hd
  have hafter := hs.listed (x := .die d)
  rw [State.beginReset_eq hout, State.unprepared_idle h]
  generalize s.listed (.die d) = v at hlisted hafter
  have hclosed := closeStops_kept hafter (scopeStops (.die d))
  have hiso := State.isolated_closeStops (l := scopeStops (.die d)) hafter.regsOrd hafter.meshOrd
  generalize forEach (scopeStops (.die d)) (fun k s => s.closeStop k) v = z at hclosed hiso
  have htile (q : Nat) : z.tile q = v.tile q := congrArg (mapGet Tile.reset q) (hclosed.tiles trivial)
  have hdie : z.die d = v.die d := hclosed.die d
  refine ⟨⟨?_, ?_, ?_, ?_, ?_, ?_, fun i hi => ?_, fun hlone q hq => ?_⟩, hiso⟩
  · rw [hclosed.faults trivial, hlisted.resets]
  · rw [hdie, hlisted.structured]
  · rw [hdie, hlisted.fenced]
  · rw [hdie, hlisted.inReset]
  · rw [hdie, hlisted.active]
  · rw [hdie, hlisted.staged]
  · rw [htile]
    exact hlisted.tiles i hi
  · rw [htile]
    exact hlisted.others hlone q hq

theorem not_noticeReg_status : ¬ noticeReg Reg.strCommitStatus := by
  unfold noticeReg Reg.strCommitStatus
  omega

theorem noteReset_reg (s : State) (x : Scope) (a : Nat) : (s.noteReset x).reg a = s.reg a := rfl

/-- A reset of a tile leaves the status of the commit. -/
theorem listed_tile_status (s : State) (q hi lo : Nat) : (s.listed (.tile q)).fld Reg.strCommitStatus hi lo = s.fld Reg.strCommitStatus hi lo := by
  have hwork := (s.aroused_work (.tile q)).trans (cleanTiles_work (s.aroused (.tile q)) [q])
  rw [State.listed, State.clearScope_tile, State.fld, noteReset_reg, ← State.fld]
  exact hwork.fld (by decide) not_noticeReg_status

/-- A reset of a tile in PREPARE fails the commit (R345, R346). -/
theorem beginReset_tile_preparing (hwf : s.wf = true) (h : s.preparing = true) {q : Nat} (hout : s.faults.resets.any (s.inside (.tile q)) = false) :
    (s.beginReset (.tile q)).phase = 7 ∧ (s.beginReset (.tile q)).fld Reg.strCommitStatus 10 3 = 0x22 := by
  have hs := Since.refl hwf
  obtain ⟨hphase, hcode, -⟩ := State.commitAbort_effect hs.regsOrd hs.diesOrd (code := 0x22) (by decide)
  have hbegin : s.beginReset (.tile q) = (s.commitAbort 0x22).listed (.tile q) := by
    rw [State.beginReset_eq hout, State.unprepared, if_pos h]
    rfl
  rw [hbegin, State.phase, listed_tile_status, listed_tile_status]
  exact ⟨hphase, hcode⟩

/-- A reset of a partition is listed, and its groups have aborted. -/
theorem beginReset_partition (hwf : s.wf = true) (h : s.preparing = false) {o : Nat}
    (hout : s.faults.resets.any (s.inside (.partition o)) = false) :
    (s.beginReset (.partition o)).faults.resets = s.faults.resets ++ [.partition o] ∧
      ∀ e, e < 256 → s.ownedBy o e → ((s.beginReset (.partition o)).group e).insts = [] := by
  have hbegin : s.beginReset (.partition o) = s.listed (.partition o) := by
    rw [State.beginReset_eq hout, State.unprepared_idle h]
    rfl
  rw [hbegin]
  exact listed_partition hwf o

end

/-! A reset that ends. -/

section
variable {s : State}

theorem openStop_closed (s : State) (j k : Nat) : (s.openStop j).stopClosed k = s.stopClosed k := by
  unfold State.openStop
  split <;> rfl

theorem openStop_meshOrd (h : keysFrom 0 s.mesh = true) (j : Nat) : keysFrom 0 (s.openStop j).mesh = true := by
  unfold State.openStop
  split
  · exact h
  · exact keysFrom_mapPut _ _ _ (Nat.zero_le _) h

theorem openStop_opens (h : keysFrom 0 s.mesh = true) {k : Nat} (hk : s.stopClosed k = false) : ((s.openStop k).stop k).isolated = false := by
  have hopen : ¬ s.stopClosed k = true := by
    rw [hk]
    decide
  rw [State.openStop, if_neg hopen]
  exact congrArg Stop.isolated (mapGet_mapPut_self _ _ _ h)

theorem openStop_keeps (h : keysFrom 0 s.mesh = true) {j k : Nat} (hk : (s.stop k).isolated = false) : ((s.openStop j).stop k).isolated = false := by
  unfold State.openStop
  split
  · exact hk
  · by_cases he : k = j
    · subst he
      exact congrArg Stop.isolated (mapGet_mapPut_self _ _ _ h)
    · exact (congrArg Stop.isolated (mapGet_mapPut_ne _ _ _ he _)).trans hk

/-- Stops that open one after another. -/
def State.openStops (s : State) (l : List Nat) : State := forEach l (fun k s => s.openStop k) s

theorem openStops_closed (s : State) (l : List Nat) (k : Nat) : (s.openStops l).stopClosed k = s.stopClosed k := by
  unfold State.openStops
  refine forEach_keep (A := fun u : State => u.stopClosed k = s.stopClosed k) (fun j _ u hu => ?_) rfl
  exact (openStop_closed u j k).trans hu

theorem openStops_open {k : Nat} : ∀ {l : List Nat} {s : State}, keysFrom 0 s.mesh = true → s.stopClosed k = false →
    k ∈ l ∨ (s.stop k).isolated = false → ((s.openStops l).stop k).isolated = false
  | [], _, _, _, h => h.resolve_left List.not_mem_nil
  | j :: l, s, hs, hk, h => by
    refine openStops_open (l := l) (s := s.openStop j) (openStop_meshOrd hs j) ((openStop_closed s j k).trans hk) ?_
    by_cases he : k = j
    · subst he
      exact .inr (openStop_opens hs hk)
    · exact h.imp (fun h => (List.mem_cons.1 h).resolve_left he) (openStop_keeps hs)

/-- `s` has the tiles, the registers, the resets and the dies of `o`. -/
structure StopsOnly (o s : State) : Prop where
  tiles : s.tiles = o.tiles
  regs : s.regs = o.regs
  resets : s.faults.resets = o.faults.resets
  dies : s.dies = o.dies

theorem StopsOnly.refl (s : State) : StopsOnly s s := ⟨rfl, rfl, rfl, rfl⟩

theorem StopsOnly.trans {o s u : State} (h : StopsOnly o s) (h' : StopsOnly s u) : StopsOnly o u :=
  ⟨h'.tiles.trans h.tiles, h'.regs.trans h.regs, h'.resets.trans h.resets, h'.dies.trans h.dies⟩

theorem openStop_stopsOnly (s : State) (j : Nat) : StopsOnly s (s.openStop j) := by
  unfold State.openStop
  split
  · exact .refl s
  · exact ⟨rfl, rfl, rfl, rfl⟩

theorem openStops_stopsOnly (s : State) (l : List Nat) : StopsOnly s (s.openStops l) := by
  unfold State.openStops
  exact forEach_keep (A := StopsOnly s) (fun j _ u hu => hu.trans (openStop_stopsOnly u j)) (.refl s)

/-- A state whose list of resets drops one. -/
def State.dropReset (s : State) (x : Scope) : State := s.withFaults { s.faults with resets := s.faults.resets.erase x }

/-- A die leaves reset. -/
def State.dieLeaves (s : State) (d : Nat) : State :=
  let s1 := s.modDie d fun y => { y with inReset := false }
  match dieStack d with
  | some k => s1.modCtrl k fun c => { c with selfRefresh := s1.fld Reg.pwrState 2 0 == 1 }
  | none => s1

/-- A scope leaves reset, its stops aside. -/
def State.scopeLeaves (s : State) : Scope → State
  | .die d => s.dieLeaves d
  | _ => s

theorem endReset_none {x : Scope} (h : s.faults.resets.contains x = false) : s.endReset x = s := if_pos (by rw [h]; decide)

theorem endReset_eq {x : Scope} (h : s.faults.resets.contains x = true) :
    s.endReset x = ((s.dropReset x).scopeLeaves x).openStops (scopeStops x) := by
  unfold State.endReset State.dropReset State.scopeLeaves State.dieLeaves State.openStops
  refine (if_neg (by rw [h]; decide)).trans ?_
  cases x with
  | die d => cases dieStack d <;> rfl
  | _ => rfl

/-- `s` has the tiles, the registers, the resets and the mesh of `o`. -/
structure DieOnly (o s : State) : Prop where
  tiles : s.tiles = o.tiles
  regs : s.regs = o.regs
  resets : s.faults.resets = o.faults.resets
  mesh : s.mesh = o.mesh

theorem dieLeaves_dieOnly (s : State) (d : Nat) : DieOnly s (s.dieLeaves d) := by
  unfold State.dieLeaves
  cases dieStack d <;> exact ⟨rfl, rfl, rfl, rfl⟩

theorem dieLeaves_dies (s : State) (d : Nat) : (s.dieLeaves d).dies = (s.modDie d fun y => { y with inReset := false }).dies := by
  unfold State.dieLeaves
  cases dieStack d <;> rfl

theorem dieLeaves_die (hs : keysFrom 0 s.dies = true) (d : Nat) : ((s.dieLeaves d).die d).inReset = false := by
  rw [State.die, dieLeaves_dies, ← State.die, State.die_modDie_self hs]

theorem dieLeaves_other {d k : Nat} (h : k ≠ d) : (s.dieLeaves d).die k = s.die k := by
  rw [State.die, dieLeaves_dies, ← State.die, State.die_modDie_ne _ h]

theorem scopeLeaves_dieOnly (s : State) (x : Scope) : DieOnly s (s.scopeLeaves x) := by
  cases x with
  | die d => exact dieLeaves_dieOnly s d
  | _ => exact ⟨rfl, rfl, rfl, rfl⟩

theorem scopeLeaves_other {x : Scope} {d : Nat} (h : x ≠ .die d) : (s.scopeLeaves x).die d = s.die d := by
  cases x with
  | die k => exact dieLeaves_other fun he => h (he ▸ rfl)
  | _ => rfl

theorem dropReset_resets (s : State) (x : Scope) : (s.dropReset x).faults.resets = s.faults.resets.erase x := rfl
theorem dropReset_tiles (s : State) (x : Scope) : (s.dropReset x).tiles = s.tiles := rfl
theorem dropReset_regs (s : State) (x : Scope) : (s.dropReset x).regs = s.regs := rfl
theorem dropReset_dies (s : State) (x : Scope) : (s.dropReset x).dies = s.dies := rfl
theorem dropReset_mesh (s : State) (x : Scope) : (s.dropReset x).mesh = s.mesh := rfl

/-- What the end of a reset does. -/
theorem endReset_effect (hwf : s.wf = true) {x : Scope} (h : s.faults.resets.contains x = true) {t : State} (ht : s.endReset x = t) :
    t.faults.resets = s.faults.resets.erase x ∧ t.tiles = s.tiles ∧ t.regs = s.regs ∧ (∀ d, x = .die d → (t.die d).inReset = false) ∧
      (∀ d, x ≠ .die d → t.die d = s.die d) ∧ ∀ k ∈ scopeStops x, t.stopClosed k = false → (t.stop k).isolated = false := by
  rw [endReset_eq h] at ht
  subst ht
  have hs := Since.refl hwf
  have hleaves := scopeLeaves_dieOnly (s.dropReset x) x
  have hopened := openStops_stopsOnly ((s.dropReset x).scopeLeaves x) (scopeStops x)
  have hdie (d : Nat) : (((s.dropReset x).scopeLeaves x).openStops (scopeStops x)).die d = ((s.dropReset x).scopeLeaves x).die d := by
    rw [State.die, hopened.dies, State.die]
  have hmesh : keysFrom 0 ((s.dropReset x).scopeLeaves x).mesh = true := by
    rw [hleaves.mesh, dropReset_mesh]
    exact hs.meshOrd
  refine ⟨?_, ?_, ?_, fun d hx => ?_, fun d hx => ?_, fun k hk hclosed => ?_⟩
  · rw [hopened.resets, hleaves.resets, dropReset_resets]
  · rw [hopened.tiles, hleaves.tiles, dropReset_tiles]
  · rw [hopened.regs, hleaves.regs, dropReset_regs]
  · subst hx
    rw [hdie]
    exact dieLeaves_die (dropReset_dies s (.die d) ▸ hs.diesOrd) d
  · rw [hdie, scopeLeaves_other hx, State.die, dropReset_dies, State.die]
  · rw [openStops_closed] at hclosed
    exact openStops_open hmesh hclosed (.inl hk)

end

/-- Settles O49: what a request names, what each kind of scope has after its reset began, and what the end of a reset changes. -/
theorem scopeResets : Obligations.ScopeResets := by
  unfold Obligations.ScopeResets
  intro s src hwf u out all lone
  have hu : u.wf = true := (State.external_since (Since.refl hwf)).wf
  have hord : keysFrom 0 u.tiles = true := (Since.refl hu).tilesOrd
  have hresets : u.faults.resets = s.faults.resets := congrArg Faults.resets (external_faults s 1)
  have htile : ∀ q, u.tile q = s.tile q := external_tile s 1
  have hidle : s.preparing = false → u.preparing = false := (external_preparing s 1).trans
  refine ⟨fun w h => exec_resets (resetWrite_unnamed h), fun w x h hx => exec_resets (resetWrite_refused h (unitScope_none hx)),
    fun w x y h hx hin => exec_resets ((resetWrite_begins h hx).trans (State.beginReset_absorbed hin)), fun w x h hx hp hout => ?_,
    fun w x h hx hp hout => ?_, fun w x h hx hd hp hout => ?_, fun w x h hx hp hout => ?_, fun o h => ?_, fun o h hp hout => ?_,
    fun x h => ?_, fun x h => ?_⟩
  · have hl := listed_tile hord (u.phys x.logical)
    have hclean := hl.clean _ (List.mem_singleton.2 rfl)
    refine ⟨_, exec_resets ((resetWrite_begins h (unitScope_tile hx)).trans (beginReset_tile (hidle hp) hout)), hresets ▸ hl.resets, hclean.ctxs,
      hclean.engines, hclean.exc0, hclean.slots, hclean.numMode, hclean.same.mem.trans (congrArg Tile.mem (htile _)),
      hclean.same.idState.trans (congrArg Tile.idState (htile _)), hl.mesh.trans (external_mesh s 1), hl.dies.trans (external_dies s 1),
      hl.ports.trans (external_ports s 1), hl.ctrls.trans (external_ctrls s 1), fun hlone k hk => ?_⟩
    exact (hl.others hlone k (mt List.mem_singleton.1 hk)).trans (htile k)
  · obtain ⟨hlist, hiso, hclean, hothers⟩ := beginReset_block hu (hidle hp) hout
    refine ⟨_, exec_resets (resetWrite_begins h (unitScope_block hx)), hresets ▸ hlist, hiso, fun q hq => ?_, fun hlone q hq => ?_⟩
    · exact ⟨(hclean q hq).ctxs, (hclean q hq).same.mem.trans (congrArg Tile.mem (htile q))⟩
    · exact (hothers hlone q hq).trans (htile q)
  · obtain ⟨hl, hiso⟩ := beginReset_die hu (hidle hp) hd hout
    refine ⟨_, exec_resets (resetWrite_begins h (unitScope_die hx)), hresets ▸ hl.resets, hl.structured, hl.fenced, hl.inReset, hl.active,
      hl.staged, fun i hi => ?_, hiso, fun hlone q hq => ?_⟩
    · exact ⟨(hl.tiles i hi).1, (hl.tiles i hi).2.trans (congrArg Tile.lost (htile _))⟩
    · exact (hl.others hlone q hq).trans (htile q)
  · have hpu : u.preparing = true := (external_preparing s 1).trans hp
    obtain ⟨hphase, hcode⟩ := beginReset_tile_preparing hu hpu hout
    exact ⟨_, exec_resets (resetWrite_begins h (unitScope_tile hx)), hphase, hcode⟩
  · have hnot : ¬ (u.commit.parts.any fun p => p.1 == o % 64) = true := by
      rw [h]
      decide
    exact (exec_partitionReset s src o).trans (congrArg Host.Outcome.next (if_neg hnot))
  · obtain ⟨hlist, habort⟩ := beginReset_partition hu (hidle hp) hout
    refine ⟨_, (exec_partitionReset s src o).trans (congrArg Host.Outcome.next (if_pos h)), hresets ▸ hlist, fun e he hon howner => ?_⟩
    exact habort e he (external_ownedBy he ⟨hon, howner⟩)
  · rw [exec_resetComplete, endReset_none h]
  · obtain ⟨herase, htiles, hregs, hdie, hothers, hstops⟩ := endReset_effect hwf h rfl
    exact ⟨_, exec_resetComplete s x, herase, htiles, hregs, fun d _ hx => hdie d hx, hothers, hstops⟩

end Sys2Proof.Machine
end

section
/-! PROOFS. What no operation changes: the commands that wait, the instruction of the scan port, and the count of KCLK periods. -/

namespace Sys2Proof.Machine

/-- The commands that wait, the instruction of the scan port, and the KCLK periods that have passed. -/
def State.steady (s : State) : List Instr × Tap × Nat := (s.pending, s.tap, s.clk.kclk)

/-! Choices and loops. -/

section
variable {α β : Type}

@[simp] theorem State.steady_ite {c : Prop} [Decidable c] {a b : State} : (if c then a else b).steady = if c then a.steady else b.steady := apply_ite ..

@[simp] theorem State.steady_fst_ite {c : Prop} [Decidable c] {a b : State × β} :
    (if c then a else b).1.steady = if c then a.1.steady else b.1.steady := apply_ite (fun r : State × β => r.1.steady) ..

@[simp] theorem forEach_steady {f : α → State → State} (h : ∀ a s, (f a s).steady = s.steady) :
    ∀ {l : List α} {s : State}, (forEach l f s).steady = s.steady
  | [], _ => rfl
  | a :: l, s => (forEach_steady h (l := l)).trans (h a s)

@[simp] theorem foldl_steady {f : State → α → State} (h : ∀ s a, (f s a).steady = s.steady) :
    ∀ {l : List α} {s : State}, (l.foldl f s).steady = s.steady
  | [], _ => rfl
  | a :: l, s => (foldl_steady h (l := l)).trans (h s a)

@[simp] theorem foldl_fst_steady {f : State × β → α → State × β} (h : ∀ r a, (f r a).1.steady = r.1.steady) :
    ∀ {l : List α} {r : State × β}, (l.foldl f r).1.steady = r.1.steady
  | [], _ => rfl
  | a :: l, r => (foldl_fst_steady h (l := l)).trans (h r a)

end

/-! Computations of an iteration. -/

/-- A computation that begins in a state `s` with `s.steady = o` ends in such a state, whether it answers or halts; its answer satisfies `Q`. -/
structure ItStill {α : Type} (o : List Instr × Tap × Nat) (m : It α) (Q : α → Prop) : Prop where
  run : ∀ s, s.steady = o → match m s with
    | .ok a s' => s'.steady = o ∧ Q a
    | .error _ s' => s'.steady = o

/-- An answer of which nothing is said. -/
def Free {α : Type} (_ : α) : Prop := True

/-- A change of the state that leaves it steady. -/
def Calm (f : State → State) : Prop := ∀ s, (f s).steady = s.steady

namespace ItStill

section
variable {α β : Type} {o : List Instr × Tap × Nat} {m n : It α} {k : α → It β} {P Q : α → Prop} {R : β → Prop} {c : Prop} [Decidable c]

theorem after (hm : ItStill o m P) (hk : ∀ a, P a → ItStill o (k a) R) : ItStill o (m >>= k) R := by
  refine ⟨fun s hs => ?_⟩
  have h := hm.run s hs
  change match (EStateM.bind m k) s with | .ok a s' => s'.steady = o ∧ R a | .error _ s' => s'.steady = o
  unfold EStateM.bind
  cases hr : m s with
  | ok a s' =>
    rw [hr] at h
    exact (hk a h.2).run s' h.1
  | error e s' =>
    rw [hr] at h
    exact h

theorem bind (hm : ItStill o m Free) (hk : ∀ a, ItStill o (k a) R) : ItStill o (m >>= k) R := hm.after fun a _ => hk a

/-- A computation that answers a change of the state goes on with it. -/
theorem bindCalm {m : It (State → State)} {k : (State → State) → It β} (hm : ItStill o m Calm) (hk : ∀ f, Calm f → ItStill o (k f) R) :
    ItStill o (m >>= k) R := hm.after hk

theorem get {k : State → It β} (hk : ∀ s, s.steady = o → ItStill o (k s) R) : ItStill o (MonadState.get >>= k) R :=
  after ⟨fun _ hs => ⟨hs, hs⟩⟩ hk

theorem pure {a : α} (h : Q a) : ItStill o (Pure.pure a : It α) Q := ⟨fun _ hs => ⟨hs, h⟩⟩
theorem done {a : α} : ItStill o (Pure.pure a : It α) Free := pure trivial
theorem calm {f : State → State} (h : ∀ s, (f s).steady = s.steady) : ItStill o (Pure.pure f : It (State → State)) Calm := pure h
theorem throw {e : Halt} : ItStill o (MonadExcept.throw e : It α) Q := ⟨fun _ hs => hs⟩
theorem set {s : State} (h : s.steady = o) : ItStill o (MonadStateOf.set s : It PUnit) Free := ⟨fun _ _ => ⟨h, trivial⟩⟩
theorem modify {f : State → State} (h : ∀ s, (f s).steady = s.steady) : ItStill o (modifyThe State f : It PUnit) Free :=
  ⟨fun s hs => ⟨(h s).trans hs, trivial⟩⟩

theorem ite (hm : ItStill o m Q) (hn : ItStill o n Q) : ItStill o (if c then m else n) Q := by split <;> assumption

/-- A computation goes on after a step that it takes on a condition. -/
theorem when {m : It Unit} {k : Unit → It β} (hm : ItStill o m Free) (hk : ∀ a, ItStill o (k a) R) :
    ItStill o (if c then m >>= k else k ()) R := ite (hm.bind hk) (hk ())

/-- A computation goes on with what it reads on a condition, and else with a value at hand. -/
theorem orElse {a : α} (hm : ItStill o m Free) (hk : ∀ a, ItStill o (k a) R) : ItStill o (if c then m >>= k else k a) R := ite (hm.bind hk) (hk a)

theorem halt {e : Halt} : ItStill o ((MonadExcept.throw e : It α) >>= k) R := after (P := fun _ => False) throw fun _ h => h.elim

/-- A computation goes on unless it halts. -/
theorem orHalt {e : Halt} {k : Unit → It β} (hk : ItStill o (k ()) R) : ItStill o (if c then (MonadExcept.throw e : It Unit) >>= k else k ()) R :=
  ite halt hk

theorem discard (hm : ItStill o m Free) : ItStill o (Functor.discard m) Free := bind (k := fun _ => Pure.pure PUnit.unit) hm fun _ => done

theorem mapM {f : α → It β} (hf : ∀ a, ItStill o (f a) Free) : ∀ {l : List α}, ItStill o (l.mapM f) Free
  | [] => done
  | a :: l => by
    rw [List.mapM_cons]
    exact (hf a).bind fun _ => (mapM hf).bind fun _ => done

end

end ItStill

/-! Pairs. -/

theorem State.steady_of_fst {β : Type} {r : State × β} {t : State} {b : β} (h : r = (t, b)) : t.steady = r.1.steady := by rw [h]

section
variable {o : List Instr × Tap × Nat} {s : State}

/-! Time. -/

@[simp] theorem State.withClk_steady {x} (h : x.kclk = s.clk.kclk) : (s.withClk x).steady = s.steady := by simp [State.steady, State.withClk, h]

/-! Operations of `Machine/Ops.lean`. -/

@[simp] theorem State.withOut_steady {a} : (s.withOut a).steady = s.steady := by rfl
@[simp] theorem State.withPins_steady {a} : (s.withPins a).steady = s.steady := by rfl
@[simp] theorem State.withRegs_steady {a} : (s.withRegs a).steady = s.steady := by rfl
@[simp] theorem State.withBar4_steady {a} : (s.withBar4 a).steady = s.steady := by rfl
@[simp] theorem State.withUnmasked_steady {a} : (s.withUnmasked a).steady = s.steady := by rfl
@[simp] theorem State.withMsixPending_steady {a} : (s.withMsixPending a).steady = s.steady := by rfl
@[simp] theorem State.withTiles_steady {a} : (s.withTiles a).steady = s.steady := by rfl
@[simp] theorem State.withDies_steady {a} : (s.withDies a).steady = s.steady := by rfl
@[simp] theorem State.withCommit_steady {a} : (s.withCommit a).steady = s.steady := by rfl
@[simp] theorem State.withBlocks_steady {a} : (s.withBlocks a).steady = s.steady := by rfl
@[simp] theorem State.withMesh_steady {a} : (s.withMesh a).steady = s.steady := by rfl
@[simp] theorem State.withCtrls_steady {a} : (s.withCtrls a).steady = s.steady := by rfl
@[simp] theorem State.withPdies_steady {a} : (s.withPdies a).steady = s.steady := by rfl
@[simp] theorem State.withPorts_steady {a} : (s.withPorts a).steady = s.steady := by rfl
@[simp] theorem State.withVoq_steady {a} : (s.withVoq a).steady = s.steady := by rfl
@[simp] theorem State.withLocalQ_steady {a} : (s.withLocalQ a).steady = s.steady := by rfl
@[simp] theorem State.withInjQ_steady {a} : (s.withInjQ a).steady = s.steady := by rfl
@[simp] theorem State.withGroups_steady {a} : (s.withGroups a).steady = s.steady := by rfl
@[simp] theorem State.withFaults_steady {a} : (s.withFaults a).steady = s.steady := by rfl
@[simp] theorem State.withPorter_steady {a} : (s.withPorter a).steady = s.steady := by rfl
@[simp] theorem State.withSqHeld_steady {a} : (s.withSqHeld a).steady = s.steady := by rfl
@[simp] theorem State.withTrace_steady {a} : (s.withTrace a).steady = s.steady := by rfl
@[simp] theorem State.withChks_steady {a} : (s.withChks a).steady = s.steady := by rfl
@[simp] theorem State.withServo_steady {a} : (s.withServo a).steady = s.steady := by rfl
@[simp] theorem State.withTile_steady {a b} : (s.withTile a b).steady = s.steady := by rfl
@[simp] theorem State.modTile_steady {a b} : (s.modTile a b).steady = s.steady := by rfl
@[simp] theorem State.withDie_steady {a b} : (s.withDie a b).steady = s.steady := by rfl
@[simp] theorem State.modDie_steady {a b} : (s.modDie a b).steady = s.steady := by simp [State.modDie]
@[simp] theorem State.withBlock_steady {a b} : (s.withBlock a b).steady = s.steady := by simp [State.withBlock]
@[simp] theorem State.modBlock_steady {a b} : (s.modBlock a b).steady = s.steady := by simp [State.modBlock]
@[simp] theorem State.withStop_steady {a b} : (s.withStop a b).steady = s.steady := by simp [State.withStop]
@[simp] theorem State.modStop_steady {a b} : (s.modStop a b).steady = s.steady := by simp [State.modStop]
@[simp] theorem State.withCtrl_steady {a b} : (s.withCtrl a b).steady = s.steady := by simp [State.withCtrl]
@[simp] theorem State.modCtrl_steady {a b} : (s.modCtrl a b).steady = s.steady := by simp [State.modCtrl]
@[simp] theorem State.withPdie_steady {a b} : (s.withPdie a b).steady = s.steady := by simp [State.withPdie]
@[simp] theorem State.modPdie_steady {a b} : (s.modPdie a b).steady = s.steady := by simp [State.modPdie]
@[simp] theorem State.withPort_steady {a b} : (s.withPort a b).steady = s.steady := by simp [State.withPort]
@[simp] theorem State.modPort_steady {a b} : (s.modPort a b).steady = s.steady := by simp [State.modPort]
@[simp] theorem State.withGroup_steady {a b} : (s.withGroup a b).steady = s.steady := by simp [State.withGroup]
@[simp] theorem State.modGroup_steady {a b} : (s.modGroup a b).steady = s.steady := by simp [State.modGroup]
@[simp] theorem State.withTraceUnit_steady {a b} : (s.withTraceUnit a b).steady = s.steady := by simp [State.withTraceUnit]
@[simp] theorem State.modTraceUnit_steady {a b} : (s.modTraceUnit a b).steady = s.steady := by simp [State.modTraceUnit]
@[simp] theorem State.withChk_steady {a b} : (s.withChk a b).steady = s.steady := by simp [State.withChk]
@[simp] theorem State.modChk_steady {a b} : (s.modChk a b).steady = s.steady := by simp [State.modChk]
@[simp] theorem State.withVoqOf_steady {a b} : (s.withVoqOf a b).steady = s.steady := by simp [State.withVoqOf]
@[simp] theorem State.modVoqOf_steady {a b} : (s.modVoqOf a b).steady = s.steady := by simp [State.modVoqOf]
@[simp] theorem State.withLocalOf_steady {a b} : (s.withLocalOf a b).steady = s.steady := by simp [State.withLocalOf]
@[simp] theorem State.modLocalOf_steady {a b} : (s.modLocalOf a b).steady = s.steady := by simp [State.modLocalOf]
@[simp] theorem State.withInjOf_steady {a b} : (s.withInjOf a b).steady = s.steady := by simp [State.withInjOf]
@[simp] theorem State.emit_steady {a} : (s.emit a).steady = s.steady := by simp [State.emit]
@[simp] theorem State.useFree_steady : s.useFree.steady = s.steady := by simp [State.useFree]
@[simp] theorem State.useFreeN_steady {a} : (s.useFreeN a).steady = s.steady := by simp [State.useFreeN]
@[simp] theorem State.withReg_steady {a b} : (s.withReg a b).steady = s.steady := by simp [State.withReg]
@[simp] theorem State.withFld_steady {a b c d} : (s.withFld a b c d).steady = s.steady := by simp [State.withFld]
@[simp] theorem State.bumpBy_steady {a b} : (s.bumpBy a b).steady = s.steady := by simp [State.bumpBy]
@[simp] theorem State.bump_steady {a} : (s.bump a).steady = s.steady := by simp [State.bump]
@[simp] theorem State.withB4_steady {a b} : (s.withB4 a b).steady = s.steady := by simp [State.withB4]
@[simp] theorem State.badAccess_steady {a b c d} : (s.badAccess a b c d).steady = s.steady := by simp [State.badAccess]
@[simp] theorem State.badFabric_steady {a b} : (s.badFabric a b).steady = s.steady := by simp [State.badFabric]
@[simp] theorem State.badHbm_steady {a b} : (s.badHbm a b).steady = s.steady := by simp [State.badHbm]
@[simp] theorem State.msix_steady {a} : (s.msix a).steady = s.steady := by simp [State.msix]
@[simp] theorem State.raiseIbi_steady {a} : (s.raiseIbi a).steady = s.steady := by simp [State.raiseIbi]

@[simp] theorem State.raiseIrq_steady {a} : (s.raiseIrq a).steady = s.steady := by
  unfold State.raiseIrq
  split <;> simp

@[simp] theorem State.modLtile_steady {a b} : (s.modLtile a b).steady = s.steady := by simp [State.modLtile]
@[simp] theorem State.traceEvent_steady {a b c d e} : (s.traceEvent a b c d e).steady = s.steady := by simp [State.traceEvent]
@[simp] theorem State.setBlockState_steady {a b} : (s.setBlockState a b).steady = s.steady := by simp [State.setBlockState]
@[simp] theorem State.wakeBlock_steady {a} : (s.wakeBlock a).steady = s.steady := by simp [State.wakeBlock]

@[simp] theorem State.queueFault_steady {a} : (s.queueFault a).steady = s.steady := by
  unfold State.queueFault
  dsimp only
  (repeat' split) <;> simp

@[simp] theorem State.raiseFault_steady {a b c d e f} : (s.raiseFault a b c d e f).steady = s.steady := by simp [State.raiseFault]
@[simp] theorem State.eccCorrected_steady {a} : (s.eccCorrected a).steady = s.steady := by simp [State.eccCorrected]

@[simp] theorem State.tileCount_steady {t ev n} : (s.tileCount t ev n).steady = s.steady := by
  unfold State.tileCount
  split
  · rfl
  · simp

@[simp] theorem State.tdcTile_steady {a b} : (s.tdcTile a b).steady = s.steady := by simp [State.tdcTile]
@[simp] theorem State.tdcPort_steady {a b} : (s.tdcPort a b).steady = s.steady := by simp [State.tdcPort]
@[simp] theorem State.portCount_steady {a b c d} : (s.portCount a b c d).steady = s.steady := by simp [State.portCount]

/-! Operations of `Machine/Fields.lean`. -/

@[simp] theorem State.store_steady {a b} : (s.store a b).steady = s.steady := by
  unfold State.store
  split <;> simp

@[simp] theorem State.refuse_steady {a b c} : (s.refuse a b c).steady = s.steady := by simp [State.refuse]
@[simp] theorem State.powerEvent_steady {a} : (s.powerEvent a).steady = s.steady := by simp [State.powerEvent]
@[simp] theorem State.barrierEvent_steady {a} : (s.barrierEvent a).steady = s.steady := by simp [State.barrierEvent]
@[simp] theorem State.barrierDropped_steady : s.barrierDropped.steady = s.steady := by simp [State.barrierDropped]

/-! Operations of `Machine/Hbm.lean`. -/

@[simp] theorem State.retirePch_steady {a b} : (s.retirePch a b).steady = s.steady := by simp [State.retirePch]
@[simp] theorem State.beginRepair_steady {a b} : (s.beginRepair a b).steady = s.steady := by simp [State.beginRepair]
@[simp] theorem State.countUncorr_steady {a b c} : (s.countUncorr a b c).steady = s.steady := by simp [State.countUncorr]
@[simp] theorem State.hbmUncorr_steady {a b c} : (s.hbmUncorr a b c).steady = s.steady := by simp [State.hbmUncorr]
@[simp] theorem State.hbmBreak_steady {a b} : (s.hbmBreak a b).steady = s.steady := by simp [State.hbmBreak]
@[simp] theorem State.hbmRead_steady {a b c d e} : (s.hbmRead a b c d e).1.steady = s.steady := by simp [State.hbmRead]
@[simp] theorem State.writeBlock_steady {a b c d} : (s.writeBlock a b c d).1.steady = s.steady := by simp [State.writeBlock]
@[simp] theorem State.hbmWrite_steady {a b c} : (s.hbmWrite a b c).1.steady = s.steady := by simp [State.hbmWrite]
@[simp] theorem State.chkWrite_steady {a b c} : (s.chkWrite a b c).steady = s.steady := by simp [State.chkWrite]
@[simp] theorem State.readPieces_steady {a b c} : (s.readPieces a b c).1.steady = s.steady := by simp [State.readPieces]
@[simp] theorem State.writePieces_steady {a b} : (s.writePieces a b).1.steady = s.steady := by simp [State.writePieces]
@[simp] theorem State.ownerWrite_steady {a b c d} : (s.ownerWrite a b c d).1.steady = s.steady := by simp [State.ownerWrite]

/-! Operations of `Machine/Punnet.lean`. -/

@[simp] theorem State.withPool_steady {a b c} : (s.withPool a b c).steady = s.steady := by simp [State.withPool]
@[simp] theorem State.withHmPool_steady {a b c} : (s.withHmPool a b c).steady = s.steady := by simp [State.withHmPool]
@[simp] theorem State.pkFault_steady {a b c} : (s.pkFault a b c).steady = s.steady := by simp [State.pkFault]
@[simp] theorem State.pkDirty_steady {a b c} : (s.pkDirty a b c).steady = s.steady := by simp [State.pkDirty]

@[simp] theorem State.pkPtr_steady {a b c} : (s.pkPtr a b c).steady = s.steady := by
  unfold State.pkPtr
  dsimp only
  (repeat' split) <;> simp

@[simp] theorem State.linkChain_steady {s : State} {n} : ∀ {l}, (s.linkChain n l).steady = s.steady
  | (_, _) :: (_, _) :: _ => (State.linkChain_steady (s := s.withPool ..)).trans State.withPool_steady
  | [_] => rfl
  | [] => rfl

theorem State.takeChain_steady {n} : ∀ {k l} {s : State} {r}, s.takeChain n k l = some r → r.2.steady = s.steady
  | 0, _, _, _, h => by
    cases h
    rfl
  | k + 1, l, s, r, h => by
    unfold State.takeChain at h
    split at h
    · cases h
    · exact (takeChain_steady h).trans State.withPool_steady

@[simp] theorem State.pkEmpty_steady {a} : (s.pkEmpty a).steady = s.steady := by simp [State.pkEmpty]

@[simp] theorem State.transitAlloc_steady {a b c} : (s.transitAlloc a b c).1.steady = s.steady := by
  unfold State.transitAlloc
  dsimp only
  split
  · rfl
  · split
    · simp
    · next h => simp [State.takeChain_steady h]

@[simp] theorem State.fitAlloc_steady {n len} : ∀ {l} {s : State}, (s.fitAlloc n len l).1.steady = s.steady
  | [], _ => State.transitAlloc_steady
  | _ :: _, s => by
    unfold State.fitAlloc
    split
    · simp
    · exact fitAlloc_steady.trans State.pkEmpty_steady

@[simp] theorem State.localAlloc_steady {a b c} : (s.localAlloc a b c).1.steady = s.steady := by simp [State.localAlloc]
@[simp] theorem State.freeBufs_steady {a b} : (s.freeBufs a b).steady = s.steady := by simp [State.freeBufs]
@[simp] theorem State.hmShow_steady {a b c} : (s.hmShow a b c).steady = s.steady := by simp [State.hmShow]
@[simp] theorem State.hmPut_steady {a b c d} : (s.hmPut a b c d).steady = s.steady := by simp [State.hmPut]
@[simp] theorem State.hmLink_steady {a b c d} : (s.hmLink a b c d).steady = s.steady := by simp [State.hmLink]
@[simp] theorem State.hmFault_steady {a b c d} : (s.hmFault a b c d).steady = s.steady := by simp [State.hmFault]
@[simp] theorem State.hmDirty_steady {a b c} : (s.hmDirty a b c).steady = s.steady := by simp [State.hmDirty]

@[simp] theorem State.hmPtr_steady {a b c d} : (s.hmPtr a b c d).steady = s.steady := by
  unfold State.hmPtr
  dsimp only
  (repeat' split) <;> simp

@[simp] theorem State.hmAlloc_steady {k i} : (s.hmAlloc k i).2.steady = s.steady := by
  unfold State.hmAlloc
  dsimp only
  split
  · next h =>
    obtain ⟨j, -, hj⟩ := List.exists_of_findSome?_eq_some h
    split at hj
    · cases hj
    · split at hj
      · cases hj
        simp
      · cases hj
  · simp

@[simp] theorem State.hmEnable_steady {a b c} : (s.hmEnable a b c).steady = s.steady := by simp [State.hmEnable]

/-! Operations of `Machine/Net.lean`. -/

@[simp] theorem State.wakeAt_steady {a b} : (s.wakeAt a b).steady = s.steady := by simp [State.wakeAt]
@[simp] theorem State.meshPut_steady {a b c} : (s.meshPut a b c).steady = s.steady := by simp [State.meshPut]
@[simp] theorem State.sendFrame_steady {a b c} : (s.sendFrame a b c).steady = s.steady := by simp [State.sendFrame]
@[simp] theorem State.tileSend_steady {a b} : (s.tileSend a b).steady = s.steady := by simp [State.tileSend]
@[simp] theorem State.colUnreached_steady {a} : (s.colUnreached a).steady = s.steady := by simp [State.colUnreached]
@[simp] theorem State.answerNoRoute_steady {a b} : (s.answerNoRoute a b).steady = s.steady := by simp [State.answerNoRoute]
@[simp] theorem State.discardAt_steady {a b} : (s.discardAt a b).steady = s.steady := by simp [State.discardAt]
@[simp] theorem State.meshPass_steady {a b c} : (s.meshPass a b c).steady = s.steady := by simp [State.meshPass]

/-! Operations of `Machine/Switch.lean`. -/

@[simp] theorem State.mapFrames_steady {a b} : (s.mapFrames a b).steady = s.steady := by simp [State.mapFrames]
@[simp] theorem State.withRoundQueue_steady {a b c d} : (s.withRoundQueue a b c d).steady = s.steady := by simp [State.withRoundQueue]
@[simp] theorem State.external_steady {a} : (s.external a).steady = s.steady := by simp [State.external]
@[simp] theorem State.tracePort_steady {a b c} : (s.tracePort a b c).steady = s.steady := by simp [State.tracePort]
@[simp] theorem State.dropAt_steady {a b c} : (s.dropAt a b c).steady = s.steady := by simp [State.dropAt]
@[simp] theorem State.sendFlow_steady {a b c} : (s.sendFlow a b c).steady = s.steady := by simp [State.sendFlow]
@[simp] theorem State.flowCheck_steady {a b} : (s.flowCheck a b).steady = s.steady := by simp [State.flowCheck]
@[simp] theorem State.returnCells_steady {a b c} : (s.returnCells a b c).steady = s.steady := by simp [State.returnCells]
@[simp] theorem State.withAsm_steady {a b c} : (s.withAsm a b c).steady = s.steady := by simp [State.withAsm]

@[simp] theorem State.release_steady {a b} : (s.release a b).steady = s.steady := by
  unfold State.release
  split <;> simp

@[simp] theorem State.chkFlag_steady {a b} : (s.chkFlag a b).steady = s.steady := by simp [State.chkFlag]

@[simp] theorem State.chkAlive_steady {a b} : (s.chkAlive a b).1.steady = s.steady := by
  unfold State.chkAlive
  split <;> simp

@[simp] theorem State.chkCompare_steady {a b} : (s.chkCompare a b).steady = s.steady := by simp [State.chkCompare]
@[simp] theorem State.chkFlowEnd_steady {a} : (s.chkFlowEnd a).steady = s.steady := by simp [State.chkFlowEnd]
@[simp] theorem State.chkTake_steady {a b} : (s.chkTake a b).steady = s.steady := by simp [State.chkTake]
@[simp] theorem State.chkFrame_steady {a b c} : (s.chkFrame a b c).steady = s.steady := by simp [State.chkFrame]
@[simp] theorem State.hrqPut_steady {a b} : (s.hrqPut a b).steady = s.steady := by simp [State.hrqPut]

@[simp] theorem State.sample_steady {e dir f n} : (s.sample e dir f n).steady = s.steady := by
  unfold State.sample
  dsimp only
  split
  · rfl
  · split
    · simp
    · split
      · next h => simp [State.steady_of_fst h]
      · next h => (repeat' split) <;> simp [State.steady_of_fst h]

@[simp] theorem State.withTag_steady {a b c} : (s.withTag a b c).steady = s.steady := by simp [State.withTag]

@[simp] theorem State.retag_steady {a b} : (s.retag a b).steady = s.steady := by
  unfold State.retag
  dsimp only
  (repeat' split) <;> simp

@[simp] theorem State.wfqIdle_steady {a} : (s.wfqIdle a).steady = s.steady := by simp [State.wfqIdle]

@[simp] theorem State.headGone_steady {a b c} : (s.headGone a b c).steady = s.steady := by
  unfold State.headGone
  split <;> simp

@[simp] theorem State.dropOld_steady {a b c} : (s.dropOld a b c).steady = s.steady := by simp [State.dropOld]

@[simp] theorem State.ageOut_steady {e c i} : ∀ {l} {s : State}, (s.ageOut e c i l).steady = s.steady
  | [], _ => rfl
  | _ :: _, s => by
    unfold State.ageOut
    split
    · exact ageOut_steady.trans (by simp)
    · rfl

@[simp] theorem State.headTest_steady {a b c} : (s.headTest a b c).steady = s.steady := by simp [State.headTest]

@[simp] theorem State.ageLocal_steady {p c} : ∀ {l} {s : State}, (s.ageLocal p c l).steady = s.steady
  | [], _ => rfl
  | _ :: _, s => by
    unfold State.ageLocal
    split
    · exact ageLocal_steady.trans (by simp)
    · rfl

@[simp] theorem State.enqueue_steady {a b} : (s.enqueue a b).steady = s.steady := by simp [State.enqueue]
@[simp] theorem State.enqueueLocal_steady {a} : (s.enqueueLocal a).steady = s.steady := by simp [State.enqueueLocal]
@[simp] theorem State.shareBufs_steady {a b} : (s.shareBufs a b).steady = s.steady := by simp [State.shareBufs]
@[simp] theorem State.park_steady {a b} : (s.park a b).steady = s.steady := by simp [State.park]
@[simp] theorem State.toPort_steady {a b} : (s.toPort a b).steady = s.steady := by simp [State.toPort]
@[simp] theorem State.admits_steady {a b c d} : (s.admits a b c d).1.steady = s.steady := by simp [State.admits]
@[simp] theorem State.limitTake_steady {a b} : (s.limitTake a b).steady = s.steady := by simp [State.limitTake]
@[simp] theorem State.countDyn_steady {a b} : (s.countDyn a b).steady = s.steady := by simp [State.countDyn]

@[simp] theorem State.inject_steady {n k f} : (s.inject n k f).1.steady = s.steady := by
  unfold State.inject
  dsimp only
  split
  · simp
  · simp
  · simp
  · simp
  all_goals
    split
    · simp
    · split
      · rfl
      · split
        · next h => simp [State.steady_of_fst h]
        · next h => simp [State.steady_of_fst h]

@[simp] theorem State.echo_steady {a b} : (s.echo a b).steady = s.steady := by simp [State.echo]

/-! Operations of `Machine/Sched.lean`. -/

@[simp] theorem State.withTokens_steady {a b c} : (s.withTokens a b c).steady = s.steady := by simp [State.withTokens]
@[simp] theorem State.shaperTake_steady {a b c} : (s.shaperTake a b c).steady = s.steady := by simp [State.shaperTake]
@[simp] theorem State.police_steady {a b c d} : (s.police a b c d).1.steady = s.steady := by simp [State.police]
@[simp] theorem State.correct_steady {a b c d} : (s.correct a b c d).steady = s.steady := by simp [State.correct]

@[simp] theorem State.settle_steady {e} : ∀ {k} {s : State}, (s.settle e k).steady = s.steady
  | 0, _ => rfl
  | k + 1, s => by
    unfold State.settle
    split
    · rfl
    · split
      · split
        · exact settle_steady.trans State.headTest_steady
        · rfl
      · rfl

@[simp] theorem State.putSet_steady {a b} : (s.putSet a b).steady = s.steady := by simp [State.putSet]
@[simp] theorem State.timeSlot_steady {a} : (s.timeSlot a).steady = s.steady := by simp [State.timeSlot]
@[simp] theorem State.putGroup_steady {a b} : (s.putGroup a b).steady = s.steady := by simp [State.putGroup]
@[simp] theorem State.sendCell_steady {a b c d} : (s.sendCell a b c d).steady = s.steady := by simp [State.sendCell]
@[simp] theorem State.frameSent_steady {a b c} : (s.frameSent a b c).steady = s.steady := by simp [State.frameSent]
@[simp] theorem State.oversize_steady {a b} : (s.oversize a b).steady = s.steady := by simp [State.oversize]
@[simp] theorem State.expressChecks_steady {a b} : (s.expressChecks a b).steady = s.steady := by simp [State.expressChecks]
@[simp] theorem State.expressLeft_steady {a b c} : (s.expressLeft a b c).steady = s.steady := by simp [State.expressLeft]
@[simp] theorem State.withTx_steady {a b c} : (s.withTx a b c).steady = s.steady := by simp [State.withTx]
@[simp] theorem State.nextCell_steady {a b c} : (s.nextCell a b c).steady = s.steady := by simp [State.nextCell]
@[simp] theorem State.sendWhole_steady {a b c} : (s.sendWhole a b c).steady = s.steady := by simp [State.sendWhole]

theorem State.grant_steady {e c r} (h : s.grant e c = some r) : r.2.steady = s.steady := by
  unfold State.grant at h
  split at h
  · cases h
  · cases h
    simp

@[simp] theorem State.startFrame_steady {e c} : (s.startFrame e c).steady = s.steady := by
  unfold State.startFrame
  split
  · rfl
  · next h =>
    have hgrant := State.grant_steady h
    simpa using hgrant

@[simp] theorem State.finishFrame_steady {a b c} : (s.finishFrame a b c).steady = s.steady := by simp [State.finishFrame]
@[simp] theorem State.countStall_steady {a} : (s.countStall a).steady = s.steady := by simp [State.countStall]

@[simp] theorem State.gateWait_steady {a} : (s.gateWait a).steady = s.steady := by
  unfold State.gateWait
  dsimp only
  (repeat' split) <;> simp

@[simp] theorem State.countClosed_steady {a} : (s.countClosed a).steady = s.steady := by simp [State.countClosed]

@[simp] theorem State.slotChoice_steady {a} : (s.slotChoice a).steady = s.steady := by
  unfold State.slotChoice
  (repeat' split) <;> simp

@[simp] theorem State.cellSlot_steady {a} : (s.cellSlot a).steady = s.steady := by
  unfold State.cellSlot
  dsimp only
  (repeat' split) <;> simp

/-! Operations of `Machine/Ingress.lean`. -/

@[simp] theorem State.chargeCells_steady {a b c} : (s.chargeCells a b c).steady = s.steady := by simp [State.chargeCells]
@[simp] theorem State.disagreeTile_steady {a} : (s.disagreeTile a).steady = s.steady := by simp [State.disagreeTile]

@[simp] theorem State.disagree_steady {a} : (s.disagree a).steady = s.steady := by
  unfold State.disagree
  split <;> simp

@[simp] theorem State.dropArrival_steady {a b c} : (s.dropArrival a b c).steady = s.steady := by
  unfold State.dropArrival
  split <;> simp

@[simp] theorem State.dropCounted_steady {a b c d} : (s.dropCounted a b c d).steady = s.steady := by simp [State.dropCounted]
@[simp] theorem State.dropAdmission_steady {a b c d e} : (s.dropAdmission a b c d e).steady = s.steady := by simp [State.dropAdmission]

@[simp] theorem State.queueArrival_steady {p c f b k g r} : (s.queueArrival p c f b k g r).steady = s.steady := by
  unfold State.queueArrival
  dsimp only
  split
  · next h => simp [State.steady_of_fst h]
  · next h => cases r <;> simp [State.steady_of_fst h]

@[simp] theorem State.classify_steady {a b c d e f} : (s.classify a b c d e f).steady = s.steady := by
  unfold State.classify
  dsimp only
  split <;> simp

@[simp] theorem State.ingressClass_steady {a b c d} : (s.ingressClass a b c d).1.steady = s.steady := by simp [State.ingressClass]
@[simp] theorem State.frameReceived_steady {a b c} : (s.frameReceived a b c).steady = s.steady := by simp [State.frameReceived]

@[simp] theorem State.ingress_steady {a b c d} : (s.ingress a b c d).steady = s.steady := by
  unfold State.ingress
  dsimp only
  split <;> simp

@[simp] theorem State.cutStart_steady {a b c} : (s.cutStart a b c).steady = s.steady := by
  unfold State.cutStart
  dsimp only
  split <;> simp

@[simp] theorem State.cutDrop_steady {a b} : (s.cutDrop a b).steady = s.steady := by
  unfold State.cutDrop
  (repeat' split) <;> simp

@[simp] theorem State.growCut_steady {p v f d} : (s.growCut p v f d).steady = s.steady := by
  unfold State.growCut
  split
  · next h => simp [State.steady_of_fst h]
  · next h => simp [State.steady_of_fst h]

@[simp] theorem State.cutTags_steady {a b c} : (s.cutTags a b c).steady = s.steady := by
  unfold State.cutTags
  (repeat' split) <;> simp

@[simp] theorem State.endCut_steady {a b c d} : (s.endCut a b c d).steady = s.steady := by simp [State.endCut]

@[simp] theorem State.frameArrival_steady {a b c} : (s.frameArrival a b c).steady = s.steady := by
  unfold State.frameArrival
  (repeat' split) <;> simp

@[simp] theorem State.localDelivery_steady {a b} : (s.localDelivery a b).steady = s.steady := by
  unfold State.localDelivery
  dsimp only
  split <;> simp

@[simp] theorem State.meshArrive_steady {a b} : (s.meshArrive a b).1.steady = s.steady := by
  unfold State.meshArrive
  split <;> simp

@[simp] theorem State.meshMiss_steady {a b} : (s.meshMiss a b).steady = s.steady := by
  unfold State.meshMiss
  split <;> simp

@[simp] theorem State.meshForward_steady {a b} : (s.meshForward a b).steady = s.steady := by
  unfold State.meshForward
  split <;> simp

/-! Operations of `Machine/Link.lean`. -/

@[simp] theorem State.unlock_steady {a} : (s.unlock a).steady = s.steady := by simp [State.unlock]
@[simp] theorem State.withLinkState_steady {a b} : (s.withLinkState a b).steady = s.steady := by simp [State.withLinkState]
@[simp] theorem State.advertise_steady {a} : (s.advertise a).steady = s.steady := by simp [State.advertise]
@[simp] theorem State.portFault_steady {a b c d} : (s.portFault a b c d).steady = s.steady := by simp [State.portFault]
@[simp] theorem State.holdClass_steady {a b c} : (s.holdClass a b c).steady = s.steady := by simp [State.holdClass]
@[simp] theorem State.holdCell_steady {a b c} : (s.holdCell a b c).steady = s.steady := by simp [State.holdCell]
@[simp] theorem State.pauseFrame_steady {a b} : (s.pauseFrame a b).steady = s.steady := by simp [State.pauseFrame]
@[simp] theorem State.pfcFrame_steady {a b c} : (s.pfcFrame a b c).steady = s.steady := by simp [State.pfcFrame]

@[simp] theorem State.dropQueued_steady {e} : (s.dropQueued e).steady = s.steady := by
  unfold State.dropQueued
  simp only [State.wfqIdle_steady, forEach_steady, State.release_steady, State.bumpBy_steady, State.modPort_steady, implies_true]
  refine foldl_steady fun s c => foldl_steady fun s i => ?_
  split <;> simp

@[simp] theorem State.dropAsm_steady {a b c} : (s.dropAsm a b c).steady = s.steady := by
  unfold State.dropAsm
  dsimp only
  (repeat' split) <;> simp

@[simp] theorem State.dropStreams_steady {a} : (s.dropStreams a).steady = s.steady := by simp [State.dropStreams]
@[simp] theorem State.retirePort_steady {a} : (s.retirePort a).steady = s.steady := by simp [State.retirePort]
@[simp] theorem State.retrain_steady {a b} : (s.retrain a b).steady = s.steady := by simp [State.retrain]
@[simp] theorem State.replay_steady {a} : (s.replay a).steady = s.steady := by simp [State.replay]
@[simp] theorem State.takeTrailer_steady {a b} : (s.takeTrailer a b).steady = s.steady := by simp [State.takeTrailer]

@[simp] theorem State.asmDone_steady {a b c d} : (s.asmDone a b c d).steady = s.steady := by
  unfold State.asmDone
  split <;> simp

@[simp] theorem State.wasteCell_steady {a b} : (s.wasteCell a b).steady = s.steady := by simp [State.wasteCell]
@[simp] theorem State.asmCell_steady {a b c d e f} : (s.asmCell a b c d e f).steady = s.steady := by simp [State.asmCell]
@[simp] theorem State.badCell_steady {a b c} : (s.badCell a b c).steady = s.steady := by simp [State.badCell]

@[simp] theorem State.dataCell_steady {a b} : (s.dataCell a b).steady = s.steady := by
  unfold State.dataCell
  dsimp only
  (repeat' split) <;> simp

@[simp] theorem State.takeCell_steady {a b} : (s.takeCell a b).steady = s.steady := by simp [State.takeCell]
@[simp] theorem State.badBlock_steady {a} : (s.badBlock a).steady = s.steady := by simp [State.badBlock]
@[simp] theorem State.goodSet_steady {a} : (s.goodSet a).steady = s.steady := by simp [State.goodSet]
@[simp] theorem State.badSet_steady {a b} : (s.badSet a b).steady = s.steady := by simp [State.badSet]
@[simp] theorem State.alignGroup_steady {a b} : (s.alignGroup a b).steady = s.steady := by simp [State.alignGroup]
@[simp] theorem State.groupReceive_steady {a b} : (s.groupReceive a b).steady = s.steady := by simp [State.groupReceive]
@[simp] theorem State.creditInit_steady {a b} : (s.creditInit a b).steady = s.steady := by simp [State.creditInit]

@[simp] theorem State.narrow_steady {a b} : (s.narrow a b).steady = s.steady := by
  unfold State.narrow
  split <;> simp

@[simp] theorem State.linkStateReceive_steady {a b} : (s.linkStateReceive a b).steady = s.steady := by simp [State.linkStateReceive]

@[simp] theorem State.laneLost_steady {a} : (s.laneLost a).steady = s.steady := by
  unfold State.laneLost
  split <;> simp

@[simp] theorem State.berWindow_steady {a b c} : (s.berWindow a b c).steady = s.steady := by simp [State.berWindow]
@[simp] theorem State.markLate_steady {a} : (s.markLate a).steady = s.steady := by simp [State.markLate]
@[simp] theorem State.shutterNow_steady {a} : (s.shutterNow a).steady = s.steady := by simp [State.shutterNow]
@[simp] theorem State.stepTime_steady {a} : (s.stepTime a).steady = s.steady := by simp [State.stepTime]
@[simp] theorem State.servoTake_steady {a b} : (s.servoTake a b).steady = s.steady := by simp [State.servoTake]
@[simp] theorem State.outOfStep_steady {a} : (s.outOfStep a).steady = s.steady := by simp [State.outOfStep]
@[simp] theorem State.judge_steady {a b c} : (s.judge a b c).steady = s.steady := by simp [State.judge]
@[simp] theorem State.timeSetReceive_steady {a b} : (s.timeSetReceive a b).steady = s.steady := by simp [State.timeSetReceive]
@[simp] theorem State.timeSetSend_steady {a} : (s.timeSetSend a).steady = s.steady := by simp [State.timeSetSend]
@[simp] theorem State.trainingDone_steady {a b c} : (s.trainingDone a b c).steady = s.steady := by simp [State.trainingDone]
@[simp] theorem State.trainingTimeout_steady {a} : (s.trainingTimeout a).steady = s.steady := by simp [State.trainingTimeout]

@[simp] theorem State.trainPort_steady {a} : (s.trainPort a).steady = s.steady := by
  unfold State.trainPort
  dsimp only
  (repeat' split) <;> simp

@[simp] theorem State.startPorts_steady {a} : (s.startPorts a).steady = s.steady := by simp [State.startPorts]

/-! Operations of `Machine/Acc.lean`. -/

@[simp] theorem State.addTerm_steady {a b c} : (s.addTerm a b c).steady = s.steady := by simp [State.addTerm]
@[simp] theorem State.poisonSlot_steady {a b} : (s.poisonSlot a b).steady = s.steady := by simp [State.poisonSlot]

/-! Operations of `Machine/Tiles.lean`. -/

@[simp] theorem State.withCtx_steady {a b c} : (s.withCtx a b c).steady = s.steady := by simp [State.withCtx]
@[simp] theorem State.modCtx_steady {a b c} : (s.modCtx a b c).steady = s.steady := by simp [State.modCtx]
@[simp] theorem State.addCounter_steady {a b c} : (s.addCounter a b c).steady = s.steady := by simp [State.addCounter]
@[simp] theorem State.endCtx_steady {a b} : (s.endCtx a b).steady = s.steady := by simp [State.endCtx]
@[simp] theorem State.recordExc_steady {a b c d e f} : (s.recordExc a b c d e f).steady = s.steady := by simp [State.recordExc]
@[simp] theorem State.raiseExc_steady {a b c d} : (s.raiseExc a b c d).steady = s.steady := by simp [State.raiseExc]
@[simp] theorem State.dropHeld_steady {a b c d} : (s.dropHeld a b c d).steady = s.steady := by simp [State.dropHeld]

@[simp] theorem State.gangLost_steady {a} : (s.gangLost a).steady = s.steady := by
  unfold State.gangLost
  dsimp only
  (repeat' split) <;> simp

@[simp] theorem State.stopGangs_steady {a} : (s.stopGangs a).steady = s.steady := by simp [State.stopGangs]
@[simp] theorem State.endAll_steady {a} : (s.endAll a).steady = s.steady := by simp [State.endAll]
@[simp] theorem State.foreignActivity_steady {a} : (s.foreignActivity a).steady = s.steady := by simp [State.foreignActivity]
@[simp] theorem State.offerTrigger_steady {a b c d e} : (s.offerTrigger a b c d e).1.steady = s.steady := by simp [State.offerTrigger]
@[simp] theorem State.sendRequest_steady {a b c d e f g h i j k l m} : (s.sendRequest a b c d e f g h i j k l m).steady = s.steady := by simp [State.sendRequest]
@[simp] theorem State.signal_steady {a b c} : (s.signal a b c).steady = s.steady := by simp [State.signal]

/-! Operations of `Machine/Cache.lean`. -/

@[simp] theorem State.streamRun_steady {a b c} : (s.streamRun a b c).steady = s.steady := by simp [State.streamRun]

@[simp] theorem State.portTake_steady {a b c} : (s.portTake a b c).1.steady = s.steady := by
  unfold State.portTake
  dsimp only
  (repeat' split) <;> simp

@[simp] theorem State.portGive_steady {a b c d} : (s.portGive a b c d).steady = s.steady := by
  unfold State.portGive
  dsimp only
  split <;> simp

/-! Operations of `Machine/Operands.lean`. -/

theorem fail_still {α : Type} {c : Nat} {Q : α → Prop} : ItStill o (fail c : It α) Q := .throw
theorem need_still {c : Bool} {a : Nat} : ItStill o (need c a) Free := .ite .done .throw

theorem remember_still {e} {m : It Bytes} (hm : ItStill o m Free) : ItStill o (remember e m) Free := by
  unfold remember
  refine .get fun s hs => ?_
  dsimp only
  split
  · exact (ItStill.set (by simp [hs])).bind fun _ => .done
  · exact hm.bind fun _ => (ItStill.modify fun _ => by simp).bind fun _ => .done

theorem keepRead_still {e} {m : It Bytes} (hm : ItStill o m Free) : ItStill o (keepRead e m) Free := .ite (remember_still hm) hm
theorem holdOn_still {α : Type} {e : Run} {Q : α → Prop} : ItStill o (holdOn e : It α) Q := (ItStill.modify fun _ => by simp).bind fun _ => .throw

theorem readTileRuns_still {e rs} : ItStill o (readTileRuns e rs) Free :=
  keepRead_still (need_still.bind fun _ => .get fun _ _ => need_still.bind fun _ => .done)

theorem readCacheRuns_still {e rs} : ItStill o (readCacheRuns e rs) Free := by
  refine keepRead_still (need_still.bind fun _ => need_still.bind fun _ => .get fun s hs => need_still.bind fun _ => .orHalt ?_)
  split
  · exact (ItStill.set (by simp [hs])).bind fun _ => fail_still
  · exact .done

theorem hbmPieces_still {e r} : ItStill o (hbmPieces e r) Free := by
  refine need_still.bind fun _ => .get fun s hs => .ite ((ItStill.set (by simp [hs])).bind fun _ => .halt) ?_
  split
  · exact fail_still
  · exact .ite .throw .done

theorem readHbmRun_still {e r} : ItStill o (readHbmRun e r) Free :=
  keepRead_still (hbmPieces_still.bind fun _ => .get fun s hs => (ItStill.set (by simp [hs])).bind fun _ => need_still.bind fun _ => .done)

theorem readHbmRuns_still {e} : ∀ {l}, ItStill o (readHbmRuns e l) Free
  | [] => .done
  | _ :: _ => readHbmRun_still.bind fun _ => readHbmRuns_still.bind fun _ => .done

theorem readArgRuns_still {e rs} : ItStill o (readArgRuns e rs) Free := need_still.bind fun _ => .done

theorem readRuns_still {e n rs} : ItStill o (readRuns e n rs) Free := by
  unfold readRuns
  split
  · exact readTileRuns_still
  · exact readCacheRuns_still
  · exact readHbmRuns_still
  · exact readArgRuns_still
  · exact fail_still

theorem readTile_still {e x} : ItStill o (readTile e x) Free := by
  refine remember_still (.get fun s hs => ?_)
  dsimp only
  split
  · exact .ite .throw holdOn_still
  · exact need_still.bind fun _ => (ItStill.set (by simp [hs])).bind fun _ => .done

theorem readTileN_still {e x} : ∀ {n}, ItStill o (readTileN e x n) Free
  | 0 => .done
  | _ + 1 => readTile_still.bind fun _ => readTileN_still.bind fun _ => .done

theorem readTiles_still {e x} : ItStill o (readTiles e x) Free := need_still.bind fun _ => readTileN_still

@[simp] theorem takeMany_steady {t l p} : ∀ {n} {s : State}, (takeMany t l p n s).1.steady = s.steady
  | 0, _ => rfl
  | n + 1, _ => (takeMany_steady (n := n)).trans State.portTake_steady

theorem readPort_still {e x} : ItStill o (readPort e x) Free :=
  .get fun s hs => .orHalt (.ite (.orHalt ((ItStill.set (by simp [hs])).bind fun _ => .done))
    (need_still.bind fun _ => .orHalt ((ItStill.set (by simp [hs])).bind fun _ => .done)))

theorem readOpnd_still {e x} : ItStill o (readOpnd e x) Free := by
  unfold readOpnd
  split
  · exact readTiles_still
  · exact readPort_still
  · exact readRuns_still

theorem readScales_still {e x} : ItStill o (readScales e x) Free :=
  .ite .done (.orElse readRuns_still fun _ => readRuns_still.bind fun _ => .done)

theorem readVals_still {e x} : ItStill o (readVals e x) Free := readOpnd_still.bind fun _ => .done
theorem readScaled_still {e x} : ItStill o (readScaled e x) Free := readVals_still.bind fun _ => readScales_still.bind fun _ => .done

theorem checkHbmRuns_still {e} : ∀ {l}, ItStill o (checkHbmRuns e l) Free
  | [] => .done
  | _ :: _ => hbmPieces_still.discard.bind fun _ => checkHbmRuns_still

theorem canWrite_still {e n rs} : ItStill o (canWrite e n rs) Free := by
  unfold canWrite
  split
  · exact need_still.bind fun _ => .get fun _ _ => need_still
  · exact need_still.bind fun _ => need_still.bind fun _ => .get fun _ _ => .ite .throw .done
  · exact checkHbmRuns_still
  · exact fail_still

@[simp] theorem writeRun_steady {a b c d} : (writeRun a b c d s).steady = s.steady := by
  unfold writeRun
  (repeat' split) <;> simp

@[simp] theorem writeRuns_steady {e n} : ∀ {l d} {s : State}, (writeRuns e n l d s).steady = s.steady
  | [], _, _ => rfl
  | _ :: l, _, _ => (writeRuns_steady (l := l)).trans writeRun_steady

@[simp] theorem giveMany_steady {t l p} : ∀ {n d} {s : State}, (giveMany t l p n d s).steady = s.steady
  | 0, _, _ => rfl
  | n + 1, _, _ => (giveMany_steady (n := n)).trans State.portGive_steady

theorem writePort_still {e x d} : ItStill o (writePort e x d) Calm :=
  .get fun _ _ => .ite (.orHalt (.calm fun _ => by simp)) (need_still.bind fun _ => .calm fun _ => by simp)

theorem writeRows_still {e n rs d} : ItStill o (writeRows e n rs d) Calm := canWrite_still.bind fun _ => .calm fun _ => by simp

theorem writeOpnd_still {e x d} : ItStill o (writeOpnd e x d) Calm := by
  unfold writeOpnd
  split
  · exact writePort_still
  · exact writeRows_still

theorem writeAt_still {e n a d} : ItStill o (writeAt e n a d) Calm := canWrite_still.bind fun _ => .calm fun _ => by simp

/-! Operations of `Machine/Collect.lean`. -/

@[simp] theorem State.modInst_steady {a b c} : (s.modInst a b c).steady = s.steady := by simp [State.modInst]
@[simp] theorem State.colSendTill_steady {a b c} : (s.colSendTill a b c).steady = s.steady := by simp [State.colSendTill]
@[simp] theorem State.colSend_steady {a b} : (s.colSend a b).steady = s.steady := by simp [State.colSend]

@[simp] theorem State.colOffer_steady {a b c d} : (s.colOffer a b c d).steady = s.steady := by
  unfold State.colOffer
  split <;> simp

@[simp] theorem State.colDrain_steady {e q k} : ∀ {n} {s : State}, (s.colDrain e q k n).steady = s.steady
  | 0, _ => rfl
  | n + 1, s => by
    unfold State.colDrain
    split
    · rfl
    · split
      · rfl
      · dsimp only
        split
        · rfl
        · exact colDrain_steady.trans (by simp)

@[simp] theorem State.colDrainAll_steady {a} : (s.colDrainAll a).steady = s.steady := by simp [State.colDrainAll]
@[simp] theorem State.offerUp_steady {a b c d e} : (s.offerUp a b c d e).steady = s.steady := by simp [State.offerUp]
@[simp] theorem State.colGrant_steady {a b c d} : (s.colGrant a b c d).steady = s.steady := by simp [State.colGrant]

@[simp] theorem State.sendDown_steady {a b c d e f g} : (s.sendDown a b c d e f g).steady = s.steady := by
  unfold State.sendDown
  split <;> simp

@[simp] theorem State.showInflight_steady {a} : (s.showInflight a).steady = s.steady := by simp [State.showInflight]
@[simp] theorem State.endInst_steady {a b c} : (s.endInst a b c).steady = s.steady := by simp [State.endInst]
@[simp] theorem State.writeGot_steady {a b} : (s.writeGot a b).steady = s.steady := by simp [State.writeGot]

@[simp] theorem State.abortMember_steady {a b} : (s.abortMember a b).steady = s.steady := by
  unfold State.abortMember
  dsimp only
  (repeat' split) <;> simp

@[simp] theorem State.recordAbort_steady {a b c d} : (s.recordAbort a b c d).steady = s.steady := by simp [State.recordAbort]

@[simp] theorem State.abortInst_steady {a b c d} : (s.abortInst a b c d).steady = s.steady := by
  unfold State.abortInst
  split <;> simp

@[simp] theorem State.abortAll_steady {a b} : (s.abortAll a b).steady = s.steady := by simp [State.abortAll]
@[simp] theorem State.reducerLost_steady {a} : (s.reducerLost a).steady = s.steady := by simp [State.reducerLost]

/-! Operations of `Machine/Retire.lean`. -/

@[simp] theorem State.retireTile_steady {a b c} : (s.retireTile a b c).steady = s.steady := by simp [State.retireTile]
@[simp] theorem State.sliceFault_steady {a b c} : (s.sliceFault a b c).steady = s.steady := by simp [State.sliceFault]

@[simp] theorem State.residue_steady {t} : ∀ {n} {s : State}, (s.residue t n).1.steady = s.steady
  | 0, _ => rfl
  | n + 1, s => by
    unfold State.residue
    dsimp only
    split
    · simp
    · exact residue_steady.trans (by simp)

@[simp] theorem State.upset_steady {a b} : (s.upset a b).steady = s.steady := by
  unfold State.upset
  split <;> simp

/-! Operations of `Machine/Stage.lean`. -/

@[simp] theorem State.deliver_steady {a b c d e} : (s.deliver a b c d e).steady = s.steady := by simp [State.deliver]

@[simp] theorem State.deliverOne_steady {a b c d e} : (s.deliverOne a b c d e).steady = s.steady := by
  unfold State.deliverOne
  split <;> simp

@[simp] theorem State.deliverAll_steady {a b c d} : (s.deliverAll a b c d).steady = s.steady := by
  unfold State.deliverAll
  split <;> simp

@[simp] theorem State.deliverDirect_steady {a b c d} : (s.deliverDirect a b c d).steady = s.steady := by
  unfold State.deliverDirect
  split <;> simp

@[simp] theorem State.deliverWaiting_steady {e q m} : (s.deliverWaiting e q m).steady = s.steady := by
  unfold State.deliverWaiting
  split
  · rfl
  · refine forEach_steady fun i s => ?_
    (repeat' split) <;> simp

@[simp] theorem State.resFlags_steady {a b} : (s.resFlags a b).steady = s.steady := by simp [State.resFlags]

@[simp] theorem State.colJoin_steady {a b c d} : (s.colJoin a b c d).steady = s.steady := by
  unfold State.colJoin
  dsimp only
  (repeat' split) <;> simp

@[simp] theorem State.contribute_steady {a b c d e f} : (s.contribute a b c d e f).steady = s.steady := by simp [State.contribute]
@[simp] theorem State.sendTo_steady {a b c d e} : (s.sendTo a b c d e).steady = s.steady := by simp [State.sendTo]
@[simp] theorem State.accept_steady {a b c} : (s.accept a b c).steady = s.steady := by simp [State.accept]

@[simp] theorem State.dataPhase_steady {a b c} : (s.dataPhase a b c).steady = s.steady := by
  unfold State.dataPhase
  split <;> simp

@[simp] theorem State.phaseEnd_steady {a b c d e} : (s.phaseEnd a b c d e).steady = s.steady := by
  unfold State.phaseEnd
  dsimp only
  (repeat' split) <;> simp

@[simp] theorem State.arrive_steady {a b c} : (s.arrive a b c).steady = s.steady := by
  unfold State.arrive
  split <;> simp

@[simp] theorem State.announce_steady {a b c d e} : (s.announce a b c d e).steady = s.steady := by
  unfold State.announce
  split <;> simp

@[simp] theorem State.resultTo_steady {a b c d e f g h} : (s.resultTo a b c d e f g h).steady = s.steady := by simp [State.resultTo]
@[simp] theorem State.sumResult_steady {a b c d e f} : (s.sumResult a b c d e f).steady = s.steady := by simp [State.sumResult]

@[simp] theorem State.grantWindow_steady {e x g l} : (s.grantWindow e x g l).steady = s.steady := by
  unfold State.grantWindow
  refine forEach_steady fun k s => ?_
  split <;> simp

@[simp] theorem State.closeSum_steady {a b c d e} : (s.closeSum a b c d e).steady = s.steady := by
  unfold State.closeSum
  split <;> simp

@[simp] theorem State.closeParity_steady {a b c d} : (s.closeParity a b c d).steady = s.steady := by
  unfold State.closeParity
  dsimp only
  (repeat' split) <;> simp

@[simp] theorem State.closeMerge_steady {a b} : (s.closeMerge a b).steady = s.steady := by
  unfold State.closeMerge
  (repeat' split) <;> simp

@[simp] theorem State.windowClose_steady {a b c d} : (s.windowClose a b c d).steady = s.steady := by
  unfold State.windowClose
  split <;> simp

/-! Operations of `Machine/Collectives.lean`. -/

@[simp] theorem State.colGrpCtrl_steady {a b c} : (s.colGrpCtrl a b c).steady = s.steady := by simp [State.colGrpCtrl]

@[simp] theorem State.listRead_steady {a b c} : (s.listRead a b c).1.steady = s.steady := by
  unfold State.listRead
  dsimp only
  split <;> simp

@[simp] theorem State.refuseEpoch_steady {a b} : (s.refuseEpoch a b).steady = s.steady := by simp [State.refuseEpoch]
@[simp] theorem State.hear_steady {a b} : (s.hear a b).steady = s.steady := by simp [State.hear]

theorem State.colReceive_steady {f kind make} {run : State → Nat → Nat → State} (hrun : ∀ s e q, (run s e q).steady = s.steady) :
    (s.colReceive f kind make run).steady = s.steady := by
  have hext : (if f.src = s.node then s else s.external 1).steady = s.steady := by simp
  unfold State.colReceive
  generalize (if f.src = s.node then s else s.external 1) = u at hext
  dsimp only
  split
  · simp [hext]
  · split
    · simp [hext]
    · split
      · simp [hext]
      · split
        · simp [hext]
        · split
          · simp [hext, hrun]
          · simp [hext, hrun]

@[simp] theorem State.stageTake_steady {a b c} : (s.stageTake a b c).steady = s.steady := by
  unfold State.stageTake
  dsimp only
  (repeat' split) <;> simp

@[simp] theorem State.copyOn_steady {a b c d e} : (s.copyOn a b c d e).steady = s.steady := by
  unfold State.copyOn
  split <;> simp

@[simp] theorem State.grantNow_steady {a b c} : (s.grantNow a b c).steady = s.steady := by
  unfold State.grantNow
  split <;> simp

@[simp] theorem State.endIfQuiet_steady {a b} : (s.endIfQuiet a b).steady = s.steady := by
  unfold State.endIfQuiet
  split <;> simp

@[simp] theorem State.endIfDone_steady {a b} : (s.endIfDone a b).steady = s.steady := by
  unfold State.endIfDone
  split <;> simp

@[simp] theorem State.contribution_steady {f} : (s.contribution f).steady = s.steady := by
  refine State.colReceive_steady fun s e q => ?_
  dsimp only
  split
  · rfl
  · split
    · split <;> simp
    · simp

@[simp] theorem State.partialIn_steady {f} : (s.partialIn f).steady = s.steady := State.colReceive_steady fun _ _ _ => by simp

@[simp] theorem State.resultIn_steady {f} : (s.resultIn f).steady = s.steady := by
  refine State.colReceive_steady fun s e q => ?_
  dsimp only
  split
  · simp
  · rw [State.endIfQuiet_steady]
    (repeat' split) <;> simp

@[simp] theorem State.creditIn_steady {f} : (s.creditIn f).steady = s.steady := by
  refine State.colReceive_steady fun s e q => ?_
  dsimp only
  split
  · simp
  · split <;> simp

@[simp] theorem State.relayAbort_steady {a b c} : (s.relayAbort a b c).steady = s.steady := by simp [State.relayAbort]

@[simp] theorem State.abortIn_steady {f} : (s.abortIn f).steady = s.steady := by
  refine State.colReceive_steady fun s e q => ?_
  dsimp only
  split
  · simp
  · split <;> simp

@[simp] theorem State.heartbeatIn_steady {f} : (s.heartbeatIn f).steady = s.steady := State.colReceive_steady fun _ _ _ => rfl

@[simp] theorem State.sizesIn_steady {a b c} : (s.sizesIn a b c).steady = s.steady := by
  unfold State.sizesIn
  split <;> simp

@[simp] theorem State.sizeIn_steady {f} : (s.sizeIn f).steady = s.steady := by
  refine State.colReceive_steady fun s e q => ?_
  dsimp only
  split
  · split
    · rfl
    · split
      · simp
      · split <;> simp
  · simp

@[simp] theorem State.barrierIn_steady {f} : (s.barrierIn f).steady = s.steady := State.colReceive_steady fun _ _ _ => by simp

@[simp] theorem State.heartbeatOf_steady {a} : (s.heartbeatOf a).steady = s.steady := by
  unfold State.heartbeatOf
  split <;> simp

theorem colBody_still {e} : ItStill o (colBody e) Calm := by
  refine .get fun s hs => .when canWrite_still fun _ => .ite (readScaled_still.bind fun _ => .calm fun u => ?_)
    (.ite (.ite (.calm fun _ => State.accept_steady) (readOpnd_still.bind fun _ => .calm fun u => ?_))
      (.ite (.calm fun u => ?_)
        (.ite (readOpnd_still.bind fun _ => .calm fun u => ?_)
          (.ite (readOpnd_still.bind fun _ => readRuns_still.bind fun _ => canWrite_still.bind fun _ => need_still.bind fun _ => .calm fun u => ?_)
            (.ite (readRuns_still.bind fun _ => need_still.bind fun _ => .calm fun u => ?_)
              (.ite (.calm fun _ => State.accept_steady) (readOpnd_still.bind fun _ => .calm fun u => ?_)))))))
  all_goals
    dsimp only
    (repeat' split) <;> simp

/-! Operations of `Machine/Blocks.lean`. -/

@[simp] theorem State.tileWrite_steady {a b c} {f : State → State} (hf : ∀ s, (f s).steady = s.steady) : (s.tileWrite a b c f).steady = s.steady := by
  unfold State.tileWrite
  dsimp only
  (repeat' split) <;> simp [hf]

@[simp] theorem State.closeStop_steady {a} : (s.closeStop a).steady = s.steady := by
  unfold State.closeStop
  dsimp only
  split <;> simp

@[simp] theorem State.openStop_steady {a} : (s.openStop a).steady = s.steady := by simp [State.openStop]
@[simp] theorem State.closeDie_steady {a} : (s.closeDie a).steady = s.steady := by simp [State.closeDie]
@[simp] theorem State.openDie_steady {a} : (s.openDie a).steady = s.steady := by simp [State.openDie]

/-! Operations of `Machine/Iterate.lean`. -/

@[simp] theorem State.traceTile_steady {a b c} : (s.traceTile a b c).steady = s.steady := by simp [State.traceTile]
@[simp] theorem State.issueDesc_steady {a b c} : (s.issueDesc a b c).steady = s.steady := by simp [State.issueDesc]
@[simp] theorem State.issueShadow_steady {a b c} : (s.issueShadow a b c).steady = s.steady := by simp [State.issueShadow]

@[simp] theorem State.issueFrom_steady {t} : ∀ {l} {s : State}, (s.issueFrom t l).steady = s.steady
  | [], _ => rfl
  | c :: l, s => by
    unfold State.issueFrom
    split
    · exact issueFrom_steady
    · simp
    · simp
    · simp

@[simp] theorem State.descIssue_steady {a} : (s.descIssue a).steady = s.steady := by simp [State.descIssue]
@[simp] theorem State.unread_steady {a b} : (s.unread a b).steady = s.steady := by simp [State.unread]
@[simp] theorem State.unseen_steady {a b} : (s.unseen a b).steady = s.steady := by simp [State.unseen]

@[simp] theorem State.commitIteration_steady {a b} : (s.commitIteration a b).steady = s.steady := by
  unfold State.commitIteration
  dsimp only
  split <;> simp

@[simp] theorem State.shadowRead_steady {a b c d} : (s.shadowRead a b c d).steady = s.steady := by simp [State.shadowRead]
@[simp] theorem State.shadowExc_steady {a b c e} : (s.shadowExc a b c e).steady = s.steady := by simp [State.shadowExc]
@[simp] theorem State.unflagged_steady {a} : (s.unflagged a).steady = s.steady := by simp [State.unflagged]

theorem State.runBody_steady {t c d sh body} (hbody : ∀ e, ItStill s.steady (body e) Calm) : (s.runBody t c d sh body).steady = s.steady := by
  have hrun := (hbody (s.runOf t c d sh)).run (if sh then s.unflagged t else s) (by split <;> simp)
  unfold State.runBody
  dsimp only
  split
  · next h =>
    rw [h] at hrun
    obtain ⟨hs, hf⟩ := hrun
    split <;> simp [hs, hf _]
  · rfl
  · next h =>
    rw [h] at hrun
    exact hrun
  · next h =>
    rw [h] at hrun
    split <;> simpa using hrun

theorem State.iterate_steady {t c op body} (hbody : ∀ e, ItStill s.steady (body e) Calm) : (s.iterate t c op body).steady = s.steady := by
  unfold State.iterate
  split
  · rfl
  · split
    · exact State.runBody_steady hbody
    · rfl

theorem noEffect_still : ItStill o noEffect Calm := .calm fun _ => rfl

@[simp] theorem State.follow_steady {a b c} : (s.follow a b c).steady = s.steady := by
  unfold State.follow
  split <;> simp

@[simp] theorem State.endSignal_steady {a b c} : (s.endSignal a b c).steady = s.steady := by simp [State.endSignal]

@[simp] theorem State.descComplete_steady {a b} : (s.descComplete a b).steady = s.steady := by
  unfold State.descComplete
  dsimp only
  (repeat' split) <;> simp

@[simp] theorem State.dropShadow_steady {a b} : (s.dropShadow a b).steady = s.steady := by
  unfold State.dropShadow
  split <;> simp

@[simp] theorem State.confirmShadow_steady {a b c} : (s.confirmShadow a b c).steady = s.steady := by
  unfold State.confirmShadow
  split <;> simp

@[simp] theorem State.selectResolve_steady {a b} : (s.selectResolve a b).steady = s.steady := by
  unfold State.selectResolve
  dsimp only
  (repeat' split) <;> simp

/-! Operations of `Machine/Vector.lean`. -/

theorem vecSpaces_still {e} : ItStill o (vecSpaces e) Free := .get fun _ _ => need_still
@[simp] theorem gatherSum_steady {a b} : (gatherSum a b s).steady = s.steady := by simp [gatherSum]
theorem trapNan_still {e t n} : ItStill o (trapNan e t n) Free := .ite ((ItStill.modify fun _ => by simp).bind fun _ => fail_still) .done

theorem emit_still {e enc l} : ItStill o (emit e enc l) Calm :=
  trapNan_still.bind fun _ => writeOpnd_still.bindCalm fun _ hw => .calm fun _ => by simp [hw _]

theorem readCodes_still {e x} : ItStill o (readCodes e x) Free := readOpnd_still.bind fun _ => .done

@[simp] theorem unaryBody_still {enc f e} : ItStill o (unaryBody enc f e) Calm :=
  vecSpaces_still.bind fun _ => readCodes_still.bind fun _ => emit_still.bindCalm fun _ hw => .calm fun _ => by simp [hw _]

@[simp] theorem binaryBody_still {f e} : ItStill o (binaryBody f e) Calm :=
  vecSpaces_still.bind fun _ => readCodes_still.bind fun _ => readCodes_still.bind fun _ => emit_still.bindCalm fun _ hw =>
    .calm fun _ => by simp [hw _]

@[simp] theorem fmaBody_still {e} : ItStill o (fmaBody e) Calm :=
  vecSpaces_still.bind fun _ => readCodes_still.bind fun _ => readCodes_still.bind fun _ => readCodes_still.bind fun _ =>
    emit_still.bindCalm fun _ hw => .calm fun _ => by simp [hw _]

@[simp] theorem functionBody_still {f e} : ItStill o (functionBody f e) Calm := unaryBody_still

@[simp] theorem compareBody_still {f e} : ItStill o (compareBody f e) Calm :=
  vecSpaces_still.bind fun _ => readCodes_still.bind fun _ => readCodes_still.bind fun _ => writeOpnd_still

@[simp] theorem selectBody_still {e} : ItStill o (selectBody e) Calm :=
  vecSpaces_still.bind fun _ => readCodes_still.bind fun _ => readCodes_still.bind fun _ => readOpnd_still.bind fun _ => emit_still

theorem destCoarse_still {e x} : ItStill o (destCoarse e x) Free := .ite (readRuns_still.bind fun _ => .done) .done

@[simp] theorem cvtBody_still {e} : ItStill o (cvtBody e) Calm :=
  vecSpaces_still.bind fun _ => readCodes_still.bind fun _ => readScales_still.bind fun _ =>
    .ite (emit_still.bindCalm fun _ hw => .calm fun _ => by simp [hw _])
      (destCoarse_still.bind fun _ => trapNan_still.bind fun _ => writeOpnd_still.bindCalm fun _ hw => writeRows_still.bindCalm fun _ hf =>
        .calm fun _ => by simp [hf _, hw _])

theorem rawUnary_still {f e} : ItStill o (rawUnary f e) Calm := vecSpaces_still.bind fun _ => readOpnd_still.bind fun _ => writeOpnd_still

theorem rawBinary_still {f e} : ItStill o (rawBinary f e) Calm :=
  vecSpaces_still.bind fun _ => readOpnd_still.bind fun _ => readOpnd_still.bind fun _ => writeOpnd_still

@[simp] theorem gfmacBody_still {e} : ItStill o (gfmacBody e) Calm :=
  vecSpaces_still.bind fun _ => readOpnd_still.bind fun _ => readOpnd_still.bind fun _ => writeOpnd_still

@[simp] theorem gfinvBody_still {e} : ItStill o (gfinvBody e) Calm :=
  vecSpaces_still.bind fun _ => readOpnd_still.bind fun _ => writeOpnd_still.bindCalm fun _ hw => .calm fun _ => by simp [hw _]

@[simp] theorem topkBody_still {e} : ItStill o (topkBody e) Calm :=
  vecSpaces_still.bind fun _ => readCodes_still.bind fun _ => emit_still.bindCalm fun _ hw => writeOpnd_still.bindCalm fun _ hx =>
    .calm fun _ => by simp [hx _, hw _]

@[simp] theorem State.summaryWrite_steady {a b} : (s.summaryWrite a b).steady = s.steady := by simp [State.summaryWrite]
@[simp] theorem stsumBody_still {e} : ItStill o (stsumBody e) Calm := vecSpaces_still.bind fun _ => .get fun _ _ => .orHalt writeAt_still

@[simp] theorem vectorBody_still {op e} : ItStill o (vectorBody op e) Calm := by
  unfold vectorBody
  split <;> simp only [binaryBody_still, fmaBody_still, unaryBody_still, compareBody_still, selectBody_still, functionBody_still, cvtBody_still,
    rawBinary_still, rawUnary_still, gfmacBody_still, gfinvBody_still, topkBody_still, stsumBody_still]

/-! Operations of `Machine/Moves.lean`. -/

@[simp] theorem copyBody_still {e} : ItStill o (copyBody e) Calm :=
  .ite (readOpnd_still.bind fun _ => writeOpnd_still) (readCodes_still.bind fun _ => emit_still)

@[simp] theorem fillBody_still {e} : ItStill o (fillBody e) Calm := writeOpnd_still

theorem namedLines_still {e} : ItStill o (namedLines e) Free :=
  need_still.bind fun _ => need_still.bind fun _ => need_still.bind fun _ => need_still.bind fun _ => .done

theorem beginLines_still {e ls f} : ItStill o (beginLines e ls f) Calm :=
  .ite (.calm fun _ => rfl) ((ItStill.modify fun _ => by simp).bind fun _ => .throw)

@[simp] theorem ocloadBody_still {e} : ItStill o (ocloadBody e) Calm :=
  need_still.bind fun _ => namedLines_still.bind fun _ => .get fun _ _ =>
    .ite (need_still.bind fun _ => readTileRuns_still.discard.bind fun _ => beginLines_still)
      (readTileRuns_still.bind fun _ => .calm fun _ => by simp)

@[simp] theorem ocevictBody_still {e} : ItStill o (ocevictBody e) Calm := by
  refine namedLines_still.bind fun _ => .get fun _ _ => .ite (need_still.bind fun _ => .ite (.calm fun _ => by simp)
    (need_still.bind fun _ => canWrite_still.bind fun _ => ?_)) (.calm fun _ => by simp)
  split
  · exact (ItStill.modify fun _ => by simp).bind fun _ => fail_still
  · exact beginLines_still

/-! Operations of `Machine/Gang.lean`. -/

theorem readFine_still {e x l} : ItStill o (readFine e x l) Free := .ite (readTileRuns_still.bind fun _ => .done) .done
theorem readDense_still {e x g} : ItStill o (readDense e x g) Free := readTileRuns_still.bind fun _ => readFine_still.bind fun _ => .done

theorem readBlock_still {e n a} : ItStill o (readBlock e n a) Free :=
  readTileRuns_still.bind fun _ => need_still.bind fun _ => readTileRuns_still.bind fun _ => .done

theorem readBlocks_still {e el} : ∀ {n a}, ItStill o (readBlocks e el n a) Free
  | 0, _ => .done
  | _ + 1, _ => readBlock_still.bind fun _ => readBlocks_still.bind fun _ => .done

theorem readDoubly_still {e x g} : ItStill o (readDoubly e x g) Free := readBlocks_still.bind fun _ => readFine_still.bind fun _ => .done

theorem readStrip_still {e el} : ∀ {n a}, ItStill o (readStrip e el n a) Free
  | 0, _ => .done
  | _ + 1, _ => readTileRuns_still.bind fun _ => readTileRuns_still.bind fun _ => readStrip_still.bind fun _ => .done

theorem readStrips_still {e x b} : ∀ {n}, ItStill o (readStrips e x b n) Free
  | 0 => .done
  | _ + 1 => readStrips_still.bind fun _ => readStrip_still.bind fun _ => .done

theorem readUnstructured_still {e x} : ItStill o (readUnstructured e x) Free :=
  readTileRuns_still.bind fun _ => readStrips_still.bind fun _ => readFine_still.bind fun _ => .done

theorem readWeights_still {n i x} : ItStill o (readWeights n i x) Free := by
  unfold readWeights
  dsimp only
  split
  · exact readDense_still
  · exact readDoubly_still
  · exact readUnstructured_still

theorem readAllWeights_still {n} : ∀ {i l}, ItStill o (readAllWeights n i l) Free
  | _, [] => .done
  | _, _ :: _ => (ItStill.mapM fun _ => readWeights_still).bind fun _ => readAllWeights_still.bind fun _ => .done

theorem readChannel_still {x} : ItStill o (readChannel x) Free := .ite (readTileRuns_still.bind fun _ => .done) .done

theorem readMoving_still {n x} : ItStill o (readMoving n x) Free :=
  .ite .done (.ite (readTileRuns_still.bind fun _ => readFine_still.bind fun _ => .orElse readTileRuns_still fun _ => .done)
    (.get fun _ _ => need_still.bind fun _ => .orHalt .done))

theorem readHeld_still {x} : ItStill o (readHeld x) Free := .ite .done readTileRuns_still
@[simp] theorem storeHeld_steady {a b c} : (storeHeld a b c s).steady = s.steady := by simp [storeHeld]
@[simp] theorem deliverUnit_steady {a b c d} : (deliverUnit a b c d s).steady = s.steady := by simp [deliverUnit]
@[simp] theorem State.holdGang_steady {a b c} : (s.holdGang a b c).steady = s.steady := by simp [State.holdGang]

theorem deliverFrom_still {x e l g} : ∀ {n i}, ItStill o (deliverFrom x e l g n i) Free
  | 0, _ => .done
  | _ + 1, _ => .get fun _ _ => .ite ((ItStill.modify fun _ => by simp).bind fun _ => holdOn_still)
      ((ItStill.modify fun _ => by simp).bind fun _ => deliverFrom_still)

@[simp] theorem takeStreams_steady {x e} : (takeStreams x e s).steady = s.steady := by
  unfold takeStreams
  dsimp only
  split
  · refine forEach_steady (fun _ _ => by simp) |>.trans (forEach_steady fun r s => ?_)
    split <;> simp
  · refine forEach_steady fun r s => ?_
    split <;> simp

theorem mmaRead_still {e rows} : ItStill o (mmaRead e rows) Free :=
  readAllWeights_still.bind fun _ => (ItStill.mapM fun _ => readMoving_still).bind fun _ => .orElse readTileRuns_still fun _ =>
    (ItStill.mapM fun _ => readChannel_still).bind fun _ => (ItStill.mapM fun _ => readHeld_still).bind fun _ => .done

@[simp] theorem resetHeldPorts_steady {rows} : (resetHeldPorts rows s).steady = s.steady := by
  unfold resetHeldPorts
  refine forEach_steady fun r s => ?_
  split <;> simp

theorem trapOutputs_still {e l} : ItStill o (trapOutputs e l) Free :=
  .ite ((ItStill.modify fun _ => forEach_steady fun _ _ => State.modTile_steady).bind fun _ => fail_still) .done

@[simp] theorem mmaBody_still {e} : ItStill o (mmaBody e) Calm :=
  .get fun _ _ => need_still.bind fun _ => .orHalt (.ite (readAllWeights_still.discard.bind fun _ => .calm fun _ => rfl)
    (mmaRead_still.bind fun _ => .orHalt (.when (ItStill.mapM fun _ => canWrite_still).discard fun _ => .when trapOutputs_still fun _ =>
      .when (.modify fun _ => by simp) fun _ => deliverFrom_still.bind fun _ => .calm fun _ => by simp)))

@[simp] theorem State.gangResume_steady {a} : (s.gangResume a).steady = s.steady := by simp [State.gangResume]

theorem readStream_still {e x n} : ItStill o (readStream e x n) Free :=
  .get fun s hs => .ite (.orHalt ((ItStill.set (by simp [hs])).bind fun _ => .done)) readPort_still

theorem readDenseOperand_still {e a} : ItStill o (readDenseOperand e a) Free :=
  .ite (readStream_still.bind fun _ => .done) (readRuns_still.bind fun _ => .orElse readRuns_still fun _ => .ite .done (readRuns_still.bind fun _ => .done))

@[simp] theorem pruneBody_still {e} : ItStill o (pruneBody e) Calm :=
  .get fun _ _ => need_still.bind fun _ => readDenseOperand_still.bind fun _ => writeAt_still.bindCalm fun _ hw => .ite (.calm hw)
    (.ite (writeAt_still.bindCalm fun _ hc => writeRows_still.bindCalm fun _ hf => .calm fun _ => by simp [hf _, hc _, hw _])
      (writeRows_still.bindCalm fun _ hf => .calm fun _ => by simp [hf _, hw _]))

/-! Operations of `Machine/AccUnit.lean`. -/

theorem writeRowsOf_still {e x rs d} : ItStill o (writeRowsOf e x rs d) Calm := canWrite_still.bind fun _ => .calm fun _ => by simp

theorem readTerms_still {e} : ItStill o (readTerms e) Free :=
  .ite (readScaled_still.bind fun _ => .done) (readRuns_still.bind fun _ => need_still.bind fun _ => .done)

theorem readOut_still {n i l} : ItStill o (readOut n i l) Free := need_still.bind fun _ => .done

@[simp] theorem accsumBody_still {n e} : ItStill o (accsumBody n e) Calm :=
  readTerms_still.bind fun _ => .get fun _ _ => .ite
    (readOut_still.bind fun _ => writeRowsOf_still.bindCalm fun _ hw => .calm fun _ => by simp [hw _]) (.calm fun _ => by simp)

@[simp] theorem accreadBody_still {e} : ItStill o (accreadBody e) Calm :=
  .get fun _ _ => readOut_still.bind fun _ => writeRowsOf_still.bindCalm fun _ hw => .calm fun _ => by simp [hw _]

@[simp] theorem accclrBody_still {e} : ItStill o (accclrBody e) Calm := .calm fun _ => by simp

@[simp] theorem accstoreBody_still {e} : ItStill o (accstoreBody e) Calm :=
  .get fun _ _ => writeRowsOf_still.bindCalm fun _ hw => .calm fun _ => by simp [hw _]

@[simp] theorem accloadBody_still {e} : ItStill o (accloadBody e) Calm := readRuns_still.bind fun _ => need_still.bind fun _ => .calm fun _ => by simp
theorem readRecords_still {e} : ItStill o (readRecords e) Free := readRuns_still.bind fun _ => need_still.bind fun _ => .done
theorem writeRecords_still {e l} : ItStill o (writeRecords e l) Calm := writeRowsOf_still.bindCalm fun _ hw => .calm fun _ => by simp [hw _]
@[simp] theorem ssortBody_still {e} : ItStill o (ssortBody e) Calm := readRecords_still.bind fun _ => writeRecords_still
@[simp] theorem sgatherBody_still {e} : ItStill o (sgatherBody e) Calm := readRecords_still.bind fun _ => writeRecords_still
@[simp] theorem sfilterBody_still {e} : ItStill o (sfilterBody e) Calm := readRecords_still.bind fun _ => writeRecords_still
@[simp] theorem sminmaxBody_still {e} : ItStill o (sminmaxBody e) Calm := readRecords_still.bind fun _ => writeRowsOf_still

@[simp] theorem State.deferredAdd_steady {a b c} : (s.deferredAdd a b c).steady = s.steady := by
  unfold State.deferredAdd
  split <;> simp

/-! Operations of `Machine/Links.lean`. -/

@[simp] theorem State.bootScan_steady : s.bootScan.steady = s.steady := by
  unfold State.bootScan
  (repeat' split) <;> simp

@[simp] theorem State.timeSetTimeout_steady {a} : (s.timeSetTimeout a).steady = s.steady := by simp [State.timeSetTimeout]
@[simp] theorem State.holdEnds_steady {a b} : (s.holdEnds a b).steady = s.steady := by simp [State.holdEnds]
@[simp] theorem State.retrainBy_steady {a b} : (s.retrainBy a b).steady = s.steady := by simp [State.retrainBy]

/-! Operations of `Machine/Requests.lean`. -/

@[simp] theorem State.hmConfig_steady {a b c} : (s.hmConfig a b c).1.steady = s.steady := by simp [State.hmConfig]

@[simp] theorem State.fabRead_steady {r} : (s.fabRead r).1.steady = s.steady := by
  unfold State.fabRead
  split
  · rfl
  · split
    · simp
    · rfl
    · rfl
    · rfl
    · rfl
    · (repeat' split) <;> simp

@[simp] theorem State.fabWrite_steady {a b c} : (s.fabWrite a b c).steady = s.steady := by
  unfold State.fabWrite
  dsimp only
  (repeat' split) <;> simp

@[simp] theorem State.execLoad_steady {a b} : (s.execLoad a b).1.steady = s.steady := by
  unfold State.execLoad
  (repeat' split) <;> simp

@[simp] theorem State.execStore_steady {a b c} : (s.execStore a b c).1.steady = s.steady := by
  unfold State.execStore
  split <;> simp

@[simp] theorem State.execAtomic_steady {a b c d} : (s.execAtomic a b c d).1.steady = s.steady := by
  unfold State.execAtomic
  split <;> simp

@[simp] theorem State.execExact_steady {a b c} : (s.execExact a b c).1.steady = s.steady := by simp [State.execExact]
@[simp] theorem State.execSignal_steady {a} : (s.execSignal a).1.steady = s.steady := by simp [State.execSignal]
@[simp] theorem State.execTrigger_steady {a} : (s.execTrigger a).1.steady = s.steady := by simp [State.execTrigger]
@[simp] theorem State.putStream_steady {a b} : (s.putStream a b).steady = s.steady := by simp [State.putStream]
@[simp] theorem State.touchStream_steady {a b c} : (s.touchStream a b c).steady = s.steady := by simp [State.touchStream]
@[simp] theorem State.answer_steady {a b} : (s.answer a b).steady = s.steady := by simp [State.answer]
@[simp] theorem State.countReject_steady {a b c} : (s.countReject a b c).steady = s.steady := by simp [State.countReject]

@[simp] theorem State.wakeTarget_steady {a} : (s.wakeTarget a).steady = s.steady := by
  unfold State.wakeTarget
  split <;> simp

/-- A run of a request that leaves the state steady where it answers. -/
def CalmRun (run : State → Bytes → Option (State × Answer)) : Prop := ∀ s p r, run s p = some r → r.1.steady = s.steady

theorem calmRun_some {g : State → Bytes → State × Answer} (h : ∀ s p, (g s p).1.steady = s.steady) : CalmRun fun s p => some (g s p) :=
  fun s p _ hr => by
    cases hr
    exact h s p

theorem unlessHeld_steady {tg r x} (h : unlessHeld s tg r = some x) : x.1.steady = r.1.steady := by
  unfold unlessHeld at h
  split at h
  · cases h
  · cases h
    rfl

theorem State.request_steady {f op run} (hrun : CalmRun run) : (s.request f op run).steady = s.steady := by
  unfold State.request
  dsimp only
  split
  · rfl
  · split
    · (repeat' split) <;> simp
    · split
      · (repeat' split) <;> simp
      · (repeat' split) <;> simp
      · (repeat' split) <;> simp
      · split
        · rfl
        · next h =>
          have hr := hrun _ _ _ h
          dsimp only at hr
          simp [hr]

@[simp] theorem State.requestLoad_steady {f u} : (s.requestLoad f u).steady = s.steady :=
  State.request_steady fun _ _ _ h => (unlessHeld_steady h).trans (by simp)

@[simp] theorem State.requestStore_steady {f u} : (s.requestStore f u).steady = s.steady :=
  State.request_steady fun _ _ _ h => (unlessHeld_steady h).trans (by simp)

@[simp] theorem State.requestFetchAdd_steady {f u} : (s.requestFetchAdd f u).steady = s.steady :=
  State.request_steady fun _ _ _ h => (unlessHeld_steady h).trans (by simp)

@[simp] theorem State.requestCas_steady {f u} : (s.requestCas f u).steady = s.steady :=
  State.request_steady fun _ _ _ h => (unlessHeld_steady h).trans (by simp)

@[simp] theorem State.requestFp32_steady {f u} : (s.requestFp32 f u).steady = s.steady :=
  State.request_steady fun _ _ _ h => (unlessHeld_steady h).trans (by simp)

@[simp] theorem State.requestExact_steady {f n b} : (s.requestExact f n b).steady = s.steady :=
  State.request_steady (calmRun_some fun _ _ => State.execExact_steady)

@[simp] theorem State.requestSignal_steady {f} : (s.requestSignal f).steady = s.steady :=
  State.request_steady (calmRun_some fun _ _ => State.execSignal_steady)

@[simp] theorem State.requestTrigger_steady {f} : (s.requestTrigger f).steady = s.steady :=
  State.request_steady (calmRun_some fun _ _ => State.execTrigger_steady)

/-! Operations of `Machine/Switching.lean`. -/

@[simp] theorem State.echoReceive_steady {a b} : (s.echoReceive a b).steady = s.steady := by
  unfold State.echoReceive
  (repeat' split) <;> simp

@[simp] theorem State.rateIncrease_steady {a} : (s.rateIncrease a).steady = s.steady := by simp [State.rateIncrease]
@[simp] theorem State.flowRefresh_steady {a} : (s.flowRefresh a).steady = s.steady := by simp [State.flowRefresh]
@[simp] theorem State.sampleCtrlWrite_steady {a b c} : (s.sampleCtrlWrite a b c).steady = s.steady := by simp [State.sampleCtrlWrite]
@[simp] theorem State.zeroHbm_steady {a b c} : (s.zeroHbm a b c).steady = s.steady := by simp [State.zeroHbm]

@[simp] theorem State.hmZeroed_steady {a} : (s.hmZeroed a).steady = s.steady := by
  unfold State.hmZeroed
  split <;> simp

@[simp] theorem State.pkZeroed_steady {a} : (s.pkZeroed a).steady = s.steady := by
  unfold State.pkZeroed
  split <;> simp

@[simp] theorem State.hmAllocRead_steady {a b c} : (s.hmAllocRead a b c).steady = s.steady := by simp [State.hmAllocRead]

@[simp] theorem State.hmConfigWrite_steady {a b c d} : (s.hmConfigWrite a b c d).steady = s.steady := by
  unfold State.hmConfigWrite
  dsimp only
  split <;> simp

/-! Operations of `Machine/Remote.lean`. -/

theorem canRead_still {e n rs} : ItStill o (canRead e n rs) Free := by
  unfold canRead
  split
  · exact need_still
  · exact checkHbmRuns_still
  · exact need_still

theorem fabricAt_still {e x n} : ItStill o (fabricAt e x n) Free := need_still.bind fun _ => need_still.bind fun _ => .done
theorem reqData_still {e q} : ItStill o (reqData e q) Free := .ite readRuns_still .done
theorem sendReq_still {e q d a b n} : ItStill o (sendReq e q d a b n) Free := .get fun s hs => .orHalt (.set (by simp [hs]))

theorem sendReqs_still {e a b n} : ∀ {l}, ItStill o (sendReqs e a b n l) Free
  | [] => .done
  | _ :: _ => .get fun _ _ => .orHalt (reqData_still.bind fun _ => sendReq_still.bind fun _ => sendReqs_still)

theorem awaitAll_still {e} : ItStill o (awaitAll e) Free := .get fun _ _ => .ite .throw .done
theorem sentSoFar_still {e} : ItStill o (sentSoFar e) Free := .get fun _ _ => .done
theorem arrivedData_still {e n} : ItStill o (arrivedData e n) Free := .get fun _ _ => .done
theorem runReqs_still {e n l} : ItStill o (runReqs e n l) Free := sentSoFar_still.bind fun _ => sendReqs_still.bind fun _ => awaitAll_still

@[simp] theorem rloadBody_still {e} : ItStill o (rloadBody e) Calm :=
  fabricAt_still.bind fun _ => canWrite_still.bind fun _ => runReqs_still.bind fun _ => arrivedData_still.bind fun _ => writeOpnd_still

@[simp] theorem rstoreBody_still {e} : ItStill o (rstoreBody e) Calm :=
  fabricAt_still.bind fun _ => canRead_still.bind fun _ => runReqs_still.bind fun _ => .calm fun _ => rfl

theorem atomicArgs_still {e n} : ItStill o (atomicArgs e n) Free := sentSoFar_still.bind fun _ => .ite readRuns_still .done
theorem canReturn_still {e} : ItStill o (canReturn e) Free := .ite .done canWrite_still
theorem returnOld_still {e b} : ItStill o (returnOld e b) Calm := .ite (.calm fun _ => rfl) writeAt_still

@[simp] theorem atomicBody_still {e op n} : ItStill o (atomicBody e op n) Calm :=
  fabricAt_still.bind fun _ => canReturn_still.bind fun _ => atomicArgs_still.bind fun _ => runReqs_still.bind fun _ => arrivedData_still.bind fun _ =>
    returnOld_still

@[simp] theorem rfaddBody_still {e} : ItStill o (rfaddBody e) Calm := atomicBody_still
@[simp] theorem rcasBody_still {e} : ItStill o (rcasBody e) Calm := atomicBody_still
theorem raccData_still {e} : ItStill o (raccData e) Free := .ite (readScaled_still.bind fun _ => .done) (readRuns_still.bind fun _ => .done)

@[simp] theorem raccBody_still {e} : ItStill o (raccBody e) Calm :=
  fabricAt_still.bind fun _ => need_still.bind fun _ => sentSoFar_still.bind fun _ =>
    .ite (raccData_still.bind fun _ => sendReq_still.bind fun _ => (ItStill.modify fun _ => by simp).bind fun _ => awaitAll_still.bind fun _ =>
      .calm fun _ => rfl) (awaitAll_still.bind fun _ => .calm fun _ => rfl)

@[simp] theorem rfpaddBody_still {e} : ItStill o (rfpaddBody e) Calm :=
  fabricAt_still.bind fun _ => sentSoFar_still.bind fun _ => .orElse readRuns_still fun _ => runReqs_still.bind fun _ => .calm fun _ => rfl

@[simp] theorem triggerBody_still {e} : ItStill o (triggerBody e) Calm :=
  need_still.bind fun _ => sentSoFar_still.bind fun _ => .ite (readTileRuns_still.bind fun _ => .get fun _ _ => sendReq_still.bind fun _ =>
    awaitAll_still.bind fun _ => .calm fun _ => rfl) (awaitAll_still.bind fun _ => .calm fun _ => rfl)

@[simp] theorem State.raiseReq_steady {a b c} : (s.raiseReq a b c).steady = s.steady := by
  unfold State.raiseReq
  split <;> simp

@[simp] theorem State.reload_steady {a b} : (s.reload a b).steady = s.steady := by simp [State.reload]

@[simp] theorem State.bring_steady {a b c} : (s.bring a b c).steady = s.steady := by
  unfold State.bring
  split <;> simp

@[simp] theorem State.reissue_steady {a} : (s.reissue a).steady = s.steady := by simp [State.reissue]

@[simp] theorem State.respond_steady {a b c} : (s.respond a b c).steady = s.steady := by
  unfold State.respond
  dsimp only
  (repeat' split) <;> simp

/-! Operations of `Machine/Control.lean`. -/

@[simp] theorem nopBody_still {e} : ItStill o (nopBody e) Calm := noEffect_still

@[simp] theorem selectorBody_still {e} : ItStill o (selectorBody e) Calm := by
  refine .get fun _ _ => ?_
  dsimp only
  split
  · exact fail_still
  · exact .orHalt (.calm fun _ => by simp)

@[simp] theorem setmodeBody_still {e} : ItStill o (setmodeBody e) Calm := .calm fun _ => by simp
@[simp] theorem cmpsetBody_still {e} : ItStill o (cmpsetBody e) Calm := .calm fun _ => by simp
@[simp] theorem cntsetBody_still {e} : ItStill o (cntsetBody e) Calm := .calm fun _ => by simp
@[simp] theorem periodicBody_still {e} : ItStill o (periodicBody e) Calm := .calm fun _ => by simp

theorem bodyOf_still {op n e} : ItStill o (bodyOf op n e) Calm := by
  unfold bodyOf
  split
  case h_29 =>
    rw [ite_apply]
    exact .ite colBody_still vectorBody_still
  all_goals simp

@[simp] theorem State.loopIteration_steady {t c u} : (s.loopIteration t c u).steady = s.steady := by
  unfold State.loopIteration
  dsimp only
  split
  · simp
  · split
    · exact (State.runBody_steady fun _ => bodyOf_still).trans State.upset_steady
    · simp

/-! Operations of `Machine/Sequencer.lean`. -/

@[simp] theorem State.fetchBytes_steady {a b c} : (s.fetchBytes a b c).1.steady = s.steady := by
  unfold State.fetchBytes
  (repeat' split) <;> simp

@[simp] theorem State.fetchCurrent_steady {a b} : (s.fetchCurrent a b).steady = s.steady := by
  unfold State.fetchCurrent
  dsimp only
  (repeat' split) <;> simp

@[simp] theorem State.fetchSucc_steady {a b c d} : (s.fetchSucc a b c d).steady = s.steady := by
  unfold State.fetchSucc
  dsimp only
  (repeat' split) <;> simp

@[simp] theorem State.startIn_steady {a b c d e f g} : (s.startIn a b c d e f g).steady = s.steady := by simp [State.startIn]

@[simp] theorem State.stopCtx_steady {a b} : (s.stopCtx a b).steady = s.steady := by
  unfold State.stopCtx
  dsimp only
  (repeat' split) <;> simp

@[simp] theorem State.stopTile_steady {a} : (s.stopTile a).steady = s.steady := by simp [State.stopTile]

@[simp] theorem State.cntAccess_steady {a b c d} : (s.cntAccess a b c d).steady = s.steady := by
  unfold State.cntAccess
  split <;> simp

/-! Operations of `Machine/Lattice.lean`. -/

@[simp] theorem State.latIn_steady {a b c} : (s.latIn a b c).1.steady = s.steady := by
  unfold State.latIn
  (repeat' split) <;> simp

@[simp] theorem State.edgeFenced_steady {a b c} : (s.edgeFenced a b c).steady = s.steady := by simp [State.edgeFenced]
@[simp] theorem State.latOut_steady {a b c d} : (s.latOut a b c d).1.steady = s.steady := by simp [State.latOut]
@[simp] theorem State.latInject_steady {a b c d} : (s.latInject a b c d).1.steady = s.steady := by simp [State.latInject]

@[simp] theorem State.latSend_steady {l h i c} : (s.latSend l h i c).1.steady = s.steady := by
  unfold State.latSend
  refine foldl_fst_steady fun r side => ?_
  dsimp only
  split <;> simp

@[simp] theorem State.latConsume_steady {a b c d} : (s.latConsume a b c d).steady = s.steady := by simp [State.latConsume]
@[simp] theorem State.latTile_steady {a} : (s.latTile a).1.steady = s.steady := by simp [State.latTile]
@[simp] theorem State.latticeSlot_steady {a} : (s.latticeSlot a).steady = s.steady := by simp [State.latticeSlot]

/-! Operations of `Machine/Routing.lean`. -/

@[simp] theorem State.tablesTake_steady {a} : (s.tablesTake a).steady = s.steady := by simp [State.tablesTake]

@[simp] theorem State.reclassify_steady {a b} : (s.reclassify a b).steady = s.steady := by
  unfold State.reclassify
  dsimp only
  split <;> simp

@[simp] theorem State.unpark_steady {a b} : (s.unpark a b).1.steady = s.steady := by simp [State.unpark]
@[simp] theorem State.unparkAll_steady {a b} : (s.unparkAll a b).steady = s.steady := by simp [State.unparkAll]
@[simp] theorem State.drainWrite_steady {a b} : (s.drainWrite a b).steady = s.steady := by simp [State.drainWrite]
@[simp] theorem State.routeArm_steady {a} : (s.routeArm a).steady = s.steady := by simp [State.routeArm]
@[simp] theorem State.routeCancel_steady {a} : (s.routeCancel a).steady = s.steady := by simp [State.routeCancel]
@[simp] theorem State.drainsEnd_steady {a} : (s.drainsEnd a).steady = s.steady := by simp [State.drainsEnd]
@[simp] theorem State.routeLatch_steady {a} : (s.routeLatch a).steady = s.steady := by simp [State.routeLatch]

/-! Operations of `Machine/Schedule.lean`. -/

@[simp] theorem State.armList_steady {a b} : (s.armList a b).steady = s.steady := by simp [State.armList]
@[simp] theorem State.shutterArm_steady {a b} : (s.shutterArm a b).steady = s.steady := by simp [State.shutterArm]
@[simp] theorem State.shutterCancel_steady {a} : (s.shutterCancel a).steady = s.steady := by simp [State.shutterCancel]
@[simp] theorem State.shutterTakeover_steady {a} : (s.shutterTakeover a).steady = s.steady := by simp [State.shutterTakeover]
@[simp] theorem State.bucketWrite_steady {a b c d e} : (s.bucketWrite a b c d e).steady = s.steady := by simp [State.bucketWrite]
@[simp] theorem State.ftmStep_steady {a b} : (s.ftmStep a b).steady = s.steady := by simp [State.ftmStep]
@[simp] theorem State.obsOne_steady {a b} : (s.obsOne a b).steady = s.steady := by simp [State.obsOne]
@[simp] theorem State.obsSample_steady {a} : (s.obsSample a).steady = s.steady := by simp [State.obsSample]
@[simp] theorem State.obsClear_steady {a} : (s.obsClear a).steady = s.steady := by simp [State.obsClear]

/-! Operations of `Machine/Carve.lean`. -/

@[simp] theorem State.emptyStored_steady {a} : (s.emptyStored a).steady = s.steady := by simp [State.emptyStored]
@[simp] theorem State.dropStored_steady {a} : (s.dropStored a).steady = s.steady := by simp [State.dropStored]

@[simp] theorem State.carve_steady {n l} : (s.carve n l).steady = s.steady := by
  unfold State.carve
  dsimp only
  refine (forEach_steady fun i s => forEach_steady fun x s => forEach_steady fun b s => ?_).trans (by simp)
  split <;> simp

@[simp] theorem State.forgetCredit_steady {a} : (s.forgetCredit a).steady = s.steady := by simp [State.forgetCredit]

@[simp] theorem State.layLanes_steady {n l} : (s.layLanes n l).steady = s.steady := by
  unfold State.layLanes
  dsimp only
  refine forEach_steady fun l s => ?_
  split <;> simp

@[simp] theorem State.restartPort_steady {a} : (s.restartPort a).steady = s.steady := by simp [State.restartPort]
@[simp] theorem State.imageList_steady {a b} : (s.imageList a b).steady = s.steady := by simp [State.imageList]
@[simp] theorem State.imageTables_steady {a b} : (s.imageTables a b).steady = s.steady := by simp [State.imageTables]
@[simp] theorem State.clearPortCounts_steady {a b c} : (s.clearPortCounts a b c).steady = s.steady := by simp [State.clearPortCounts]
@[simp] theorem State.latchPortDie_steady {a b c d} : (s.latchPortDie a b c d).steady = s.steady := by simp [State.latchPortDie]

/-! Operations of `Machine/Commit.lean`. -/

@[simp] theorem State.withPhase_steady {a} : (s.withPhase a).steady = s.steady := by simp [State.withPhase]
@[simp] theorem State.dropStaged_steady : s.dropStaged.steady = s.steady := by simp [State.dropStaged]
@[simp] theorem State.bootFails_steady {a} : (s.bootFails a).steady = s.steady := by simp [State.bootFails]
@[simp] theorem State.commitFails_steady {a b} : (s.commitFails a b).steady = s.steady := by simp [State.commitFails]
@[simp] theorem State.commitAbort_steady {a} : (s.commitAbort a).steady = s.steady := by simp [State.commitAbort]
@[simp] theorem State.commitStarts_steady : s.commitStarts.steady = s.steady := by simp [State.commitStarts]
@[simp] theorem State.abortWrite_steady : s.abortWrite.steady = s.steady := by simp [State.abortWrite]
@[simp] theorem State.commitCtrl_steady {a} : (s.commitCtrl a).steady = s.steady := by simp [State.commitCtrl]
@[simp] theorem State.writeSlots_steady {a} : (s.writeSlots a).steady = s.steady := by simp [State.writeSlots]
@[simp] theorem State.readImage_steady : s.readImage.1.steady = s.steady := by simp [State.readImage]
@[simp] theorem State.takeImage_steady {a b} : (s.takeImage a b).1.steady = s.steady := by simp [State.takeImage]
@[simp] theorem State.zeroPlan_steady {a} : (s.zeroPlan a).steady = s.steady := by simp [State.zeroPlan]
@[simp] theorem State.showHeader_steady {a} : (s.showHeader a).steady = s.steady := by simp [State.showHeader]
@[simp] theorem State.stagePlan_steady {a b} : (s.stagePlan a b).steady = s.steady := by simp [State.stagePlan]

@[simp] theorem State.transferred_steady {b} : (s.transferred b).steady = s.steady := by
  have hwritten : (s.writeSlots b).steady = s.steady := by simp
  unfold State.transferred
  generalize s.writeSlots b = u at hwritten
  dsimp only
  split <;> simp [hwritten]

@[simp] theorem State.transferDone_steady {a b} : (s.transferDone a b).steady = s.steady := by
  unfold State.transferDone
  split
  · rfl
  · split
    · simp
    · split
      · rfl
      · split
        · next h => simp [State.steady_of_fst h]
        · next h => simp [State.steady_of_fst h]

@[simp] theorem State.prepareDone_steady : s.prepareDone.steady = s.steady := by simp [State.prepareDone]
@[simp] theorem State.latchLead_steady : s.latchLead.steady = s.steady := by simp [State.latchLead]
@[simp] theorem State.abandon_steady {a} : (s.abandon a).steady = s.steady := by simp [State.abandon]
@[simp] theorem State.moveSegment_steady {a b c d} : (s.moveSegment a b c d).steady = s.steady := by simp [State.moveSegment]
@[simp] theorem State.nameTile_steady {a b} : (s.nameTile a b).steady = s.steady := by simp [State.nameTile]
@[simp] theorem State.segMaps_steady {a} : (s.segMaps a).steady = s.steady := by simp [State.segMaps]
@[simp] theorem State.clearChanged_steady {a b c} : (s.clearChanged a b c).steady = s.steady := by simp [State.clearChanged]
@[simp] theorem State.latchTileDie_steady {a b} : (s.latchTileDie a b).steady = s.steady := by simp [State.latchTileDie]
@[simp] theorem State.latchDie_steady {a b} : (s.latchDie a b).steady = s.steady := by simp [State.latchDie]
@[simp] theorem State.missLatch_steady {a b} : (s.missLatch a b).steady = s.steady := by simp [State.missLatch]

@[simp] theorem State.abandonDie_steady {a} : (s.abandonDie a).steady = s.steady := by
  unfold State.abandonDie
  split <;> simp

@[simp] theorem State.stepEpochs_steady : s.stepEpochs.steady = s.steady := by simp [State.stepEpochs]
@[simp] theorem State.invalidate_steady {a} : (s.invalidate a).steady = s.steady := by simp [State.invalidate]
@[simp] theorem State.dissolve_steady {a} : (s.dissolve a).steady = s.steady := by simp [State.dissolve]
@[simp] theorem State.chkWithdraw_steady : s.chkWithdraw.steady = s.steady := by simp [State.chkWithdraw]
@[simp] theorem State.punnetsEnd_steady : s.punnetsEnd.steady = s.steady := by simp [State.punnetsEnd]
@[simp] theorem State.thaw_steady {a} : (s.thaw a).steady = s.steady := by simp [State.thaw]
@[simp] theorem State.dropViews_steady : s.dropViews.steady = s.steady := by simp [State.dropViews]
@[simp] theorem State.commitDone_steady : s.commitDone.steady = s.steady := by simp [State.commitDone]
@[simp] theorem State.latch_steady : s.latch.steady = s.steady := by simp [State.latch]

@[simp] theorem State.copyEnds_steady : s.copyEnds.steady = s.steady := by
  unfold State.copyEnds
  split <;> simp

/-! Operations of `Machine/Scrub.lean`. -/

@[simp] theorem State.retained_steady {a b c} : (s.retained a b c).1.steady = s.steady := by
  unfold State.retained
  dsimp only
  (repeat' split) <;> simp

@[simp] theorem State.withSection_steady {a b c} : (s.withSection a b c).steady = s.steady := by
  unfold State.withSection
  split <;> simp

@[simp] theorem State.reloadSec_steady {d c} : (s.reloadSec d c).1.steady = s.steady := by
  unfold State.reloadSec
  split
  · next h => simp [State.steady_of_fst h]
  · next h =>
    split
    · next h' => simp [State.steady_of_fst h', State.steady_of_fst h]
    · next h' => simp [State.steady_of_fst h', State.steady_of_fst h]

@[simp] theorem State.scrubWord_steady {a b} : (s.scrubWord a b).steady = s.steady := by simp [State.scrubWord]
@[simp] theorem State.scrubPass_steady {a b} : (s.scrubPass a b).steady = s.steady := by simp [State.scrubPass]

/-! Operations of `Machine/Adaptive.lean`. -/

@[simp] theorem State.override_steady {a b c} : (s.override a b c).steady = s.steady := by simp [State.override]
@[simp] theorem State.overrideEnds_steady {a b} : (s.overrideEnds a b).steady = s.steady := by simp [State.overrideEnds]
@[simp] theorem State.pin_steady {a b c} : (s.pin a b c).steady = s.steady := by simp [State.pin]
@[simp] theorem State.withFreq_steady {a b} : (s.withFreq a b).steady = s.steady := by simp [State.withFreq]
@[simp] theorem State.lowerOne_steady {a} : (s.lowerOne a).steady = s.steady := by simp [State.lowerOne]
@[simp] theorem State.lowerBlocks_steady {a} : (s.lowerBlocks a).steady = s.steady := by simp [State.lowerBlocks]
@[simp] theorem State.raiseOne_steady {a} : (s.raiseOne a).steady = s.steady := by simp [State.raiseOne]
@[simp] theorem State.raiseBlock_steady {a b} : (s.raiseBlock a b).steady = s.steady := by simp [State.raiseBlock]
@[simp] theorem State.refreshAt_steady {a b} : (s.refreshAt a b).steady = s.steady := by simp [State.refreshAt]
@[simp] theorem State.policyWrite_steady {a b c} : (s.policyWrite a b c).steady = s.steady := by simp [State.policyWrite]

@[simp] theorem State.policyOverride_steady {a b} : (s.policyOverride a b).steady = s.steady := by
  unfold State.policyOverride
  split <;> simp

@[simp] theorem State.blockSleep_steady {a} : (s.blockSleep a).steady = s.steady := by simp [State.blockSleep]
@[simp] theorem State.wakeComplete_steady {a} : (s.wakeComplete a).steady = s.steady := by simp [State.wakeComplete]
@[simp] theorem State.powerSample_steady {a b} : (s.powerSample a b).steady = s.steady := by simp [State.powerSample]

/-! Operations of `Machine/Determinism.lean`. -/

@[simp] theorem State.detWrite_steady {a b} : (s.detWrite a b).steady = s.steady := by simp [State.detWrite]
@[simp] theorem State.detActive_steady : s.detActive.steady = s.steady := by simp [State.detActive]
@[simp] theorem State.barrierArm_steady {a} : (s.barrierArm a).steady = s.steady := by simp [State.barrierArm]
@[simp] theorem State.barrierCancel_steady : s.barrierCancel.steady = s.steady := by simp [State.barrierCancel]
@[simp] theorem State.phaseReset_steady : s.phaseReset.steady = s.steady := by simp [State.phaseReset]
@[simp] theorem State.countForeign_steady {a} : (s.countForeign a).steady = s.steady := by simp [State.countForeign]
@[simp] theorem State.released_steady : s.released.steady = s.steady := by simp [State.released]
@[simp] theorem State.barrierRelease_steady : s.barrierRelease.steady = s.steady := by simp [State.barrierRelease]

/-! Operations of `Machine/Memory.lean`. -/

@[simp] theorem State.withPresent_steady {a} : (s.withPresent a).steady = s.steady := by simp [State.withPresent]
@[simp] theorem State.hbmTrained_steady {a b} : (s.hbmTrained a b).steady = s.steady := by simp [State.hbmTrained]
@[simp] theorem State.hbmCorrected_steady {a} : (s.hbmCorrected a).steady = s.steady := by simp [State.hbmCorrected]

@[simp] theorem State.hbmUpset_steady {a b} : (s.hbmUpset a b).steady = s.steady := by
  unfold State.hbmUpset
  split <;> simp

@[simp] theorem State.hbmAtomic_steady {a b c} : (s.hbmAtomic a b c).1.steady = s.steady := by simp [State.hbmAtomic]

@[simp] theorem State.hbmAccess_steady {a b c d} : (s.hbmAccess a b c d).steady = s.steady := by
  unfold State.hbmAccess
  (repeat' split) <;> simp

@[simp] theorem State.hbmRowRepaired_steady {a} : (s.hbmRowRepaired a).steady = s.steady := by
  unfold State.hbmRowRepaired
  split <;> simp

@[simp] theorem State.patrolRead_steady {a b} : (s.patrolRead a b).steady = s.steady := by simp [State.patrolRead]
@[simp] theorem State.chkArm_steady {a} : (s.chkArm a).steady = s.steady := by simp [State.chkArm]
@[simp] theorem State.chkClose_steady {a} : (s.chkClose a).steady = s.steady := by simp [State.chkClose]
@[simp] theorem State.chkCtrlWrite_steady {a b c} : (s.chkCtrlWrite a b c).steady = s.steady := by simp [State.chkCtrlWrite]
@[simp] theorem State.chkWindowAlive_steady {a b} : (s.chkWindowAlive a b).steady = s.steady := by simp [State.chkWindowAlive]

@[simp] theorem State.chkWindowEnd_steady {a b} : (s.chkWindowEnd a b).steady = s.steady := by
  unfold State.chkWindowEnd
  dsimp only
  (repeat' split) <;> simp

/-! Operations of `Machine/Resets.lean`. -/

@[simp] theorem State.resetRegs_steady {a} : (s.resetRegs a).steady = s.steady := by simp [State.resetRegs]

@[simp] theorem State.clearTileDie_steady {a} : (s.clearTileDie a).steady = s.steady := by
  unfold State.clearTileDie
  split <;> simp

@[simp] theorem State.clearPortDie_steady {a} : (s.clearPortDie a).steady = s.steady := by simp [State.clearPortDie]
@[simp] theorem State.clearDie_steady {a} : (s.clearDie a).steady = s.steady := by simp [State.clearDie]

@[simp] theorem State.clearScope_steady {a} : (s.clearScope a).steady = s.steady := by
  unfold State.clearScope
  split <;> simp

@[simp] theorem State.beginReset_steady {a} : (s.beginReset a).steady = s.steady := by simp [State.beginReset]

@[simp] theorem State.resetWrite_steady {a b} : (s.resetWrite a b).steady = s.steady := by
  unfold State.resetWrite
  (repeat' split) <;> simp

@[simp] theorem State.partitionReset_steady {a b} : (s.partitionReset a b).steady = s.steady := by simp [State.partitionReset]

@[simp] theorem State.endReset_steady {a} : (s.endReset a).steady = s.steady := by
  unfold State.endReset
  (repeat' split) <;> simp

@[simp] theorem State.pop_steady {a} : (s.pop a).steady = s.steady := by
  unfold State.pop
  split <;> simp

@[simp] theorem State.fenceBlock_steady {a} : (s.fenceBlock a).steady = s.steady := by simp [State.fenceBlock]
@[simp] theorem State.gateSector_steady {a} : (s.gateSector a).steady = s.steady := by simp [State.gateSector]
@[simp] theorem State.cutDie_steady {a} : (s.cutDie a).steady = s.steady := by simp [State.cutDie]
@[simp] theorem State.spareLost_steady {a b} : (s.spareLost a b).steady = s.steady := by simp [State.spareLost]

/-! Operations of `Machine/Startup.lean`. -/

@[simp] theorem State.leaveReset_steady {a b} : (s.leaveReset a b).steady = s.steady := by simp [State.leaveReset]
@[simp] theorem State.resetHigh_steady {a b} : (s.resetHigh a b).steady = s.steady := by simp [State.resetHigh]
@[simp] theorem State.vauxBack_steady {a b} : (s.vauxBack a b).steady = s.steady := by simp [State.vauxBack]
@[simp] theorem State.powerGood_steady : s.powerGood.steady = s.steady := by simp [State.powerGood]
@[simp] theorem State.bootEnds_steady {a} : (s.bootEnds a).steady = s.steady := by simp [State.bootEnds]
@[simp] theorem State.bootCommit_steady {a} : (s.bootCommit a).steady = s.steady := by simp [State.bootCommit]
@[simp] theorem State.bootServed_steady {a b} : (s.bootServed a b).steady = s.steady := by simp [State.bootServed]

@[simp] theorem State.bootAction_steady {a} : (s.bootAction a).steady = s.steady := by
  unfold State.bootAction
  dsimp only
  split <;> simp

@[simp] theorem State.boot_steady {a} : (s.boot a).steady = s.steady := by
  unfold State.boot
  (repeat' split) <;> simp

@[simp] theorem State.bootRefusal_steady {a} : (s.bootRefusal a).steady = s.steady := by simp [State.bootRefusal]
@[simp] theorem State.retainedImage_steady {a} : (s.retainedImage a).1.steady = s.steady := by simp [State.retainedImage]

@[simp] theorem State.imageServe_steady {e} : (s.imageServe e).steady = s.steady := by
  unfold State.imageServe
  split
  · simp
  · split
    · next h => simp [State.steady_of_fst h]
    · next h => simp [State.steady_of_fst h]

/-! Operations of `Machine/Power.lean`. -/

@[simp] theorem State.meshLost_steady : s.meshLost.steady = s.steady := by simp [State.meshLost]
@[simp] theorem State.powerLost_steady : s.powerLost.steady = s.steady := by simp [State.powerLost]
@[simp] theorem State.portsDown_steady {a} : (s.portsDown a).steady = s.steady := by simp [State.portsDown]
@[simp] theorem State.enterKeep_steady : s.enterKeep.steady = s.steady := by simp [State.enterKeep]
@[simp] theorem State.enterRun_steady : s.enterRun.steady = s.steady := by simp [State.enterRun]
@[simp] theorem State.powerRequest_steady {a b} : (s.powerRequest a b).steady = s.steady := by simp [State.powerRequest]
@[simp] theorem State.senseOne_steady {a b} : (s.senseOne a b).steady = s.steady := by simp [State.senseOne]
@[simp] theorem State.throttleOf_steady {a b} : (s.throttleOf a b).steady = s.steady := by simp [State.throttleOf]
@[simp] theorem State.trip_steady : s.trip.steady = s.steady := by simp [State.trip]
@[simp] theorem State.thermal_steady {a b} : (s.thermal a b).steady = s.steady := by simp [State.thermal]
@[simp] theorem State.tempMaxClear_steady {a} : (s.tempMaxClear a).steady = s.steady := by simp [State.tempMaxClear]

/-! Operations of `Machine/Peephole.lean`. -/

@[simp] theorem State.freezeEnds_steady {a} : (s.freezeEnds a).steady = s.steady := by simp [State.freezeEnds]

@[simp] theorem State.traceStore_steady {a} : (s.traceStore a).steady = s.steady := by
  unfold State.traceStore
  dsimp only
  split <;> simp

@[simp] theorem State.freeze_steady {a} : (s.freeze a).steady = s.steady := by simp [State.freeze]

/-! Operations of `Machine/Host.lean`. -/

@[simp] theorem State.bumpB4_steady {a} : (s.bumpB4 a).steady = s.steady := by simp [State.bumpB4]
@[simp] theorem State.withB4Fld_steady {a b c d} : (s.withB4Fld a b c d).steady = s.steady := by simp [State.withB4Fld]
@[simp] theorem State.queueErrs_steady {a b} : (s.queueErrs a b).steady = s.steady := by simp [State.queueErrs]
@[simp] theorem State.queueWrite_steady {a b c} : (s.queueWrite a b c).steady = s.steady := by simp [State.queueWrite]
@[simp] theorem State.doorbell_steady {a b c} : (s.doorbell a b c).steady = s.steady := by simp [State.doorbell]
@[simp] theorem State.entryDone_steady {a b} : (s.entryDone a b).steady = s.steady := by simp [State.entryDone]
@[simp] theorem State.deliverEntry_steady {a b} : (s.deliverEntry a b).1.steady = s.steady := by simp [State.deliverEntry]
@[simp] theorem State.serveEntry_steady {a b} : (s.serveEntry a b).steady = s.steady := by simp [State.serveEntry]
@[simp] theorem State.startEntry_steady {a b c} : (s.startEntry a b c).steady = s.steady := by simp [State.startEntry]

@[simp] theorem State.reoffer_steady {a} : (s.reoffer a).steady = s.steady := by
  unfold State.reoffer
  split <;> simp

@[simp] theorem State.unmask_steady {a} : (s.unmask a).steady = s.steady := by simp [State.unmask]

@[simp] theorem State.bar4Write_steady {a b} : (s.bar4Write a b).steady = s.steady := by
  unfold State.bar4Write
  (repeat' split) <;> simp

@[simp] theorem State.bar2_steady {off wr len d u} : (s.bar2 off wr len d u).steady = s.steady := by
  unfold State.bar2
  dsimp only
  generalize List.find? _ _ = bad
  cases wr <;> cases bad <;> simp

@[simp] theorem State.queuesOff_steady : s.queuesOff.steady = s.steady := by simp [State.queuesOff]
@[simp] theorem State.hostReset_steady : s.hostReset.steady = s.steady := by simp [State.hostReset]

/-! Operations of `Machine/Access.lean`. -/

@[simp] theorem State.readClear_steady {a b c} : (s.readClear a b c).steady = s.steady := by
  unfold State.readClear
  split <;> simp

@[simp] theorem State.allocRead_steady {a b} : (s.allocRead a b).1.steady = s.steady := State.hmAlloc_steady
@[simp] theorem State.readRow_steady {a b c d e f} : (s.readRow a b c d e f).1.steady = s.steady := by simp [State.readRow]

@[simp] theorem State.regRead_steady {a b c} : (s.regRead a b c).1.steady = s.steady := by
  unfold State.regRead
  split <;> simp

@[simp] theorem State.bar4Read_steady {a b} : (s.bar4Read a b).1.steady = s.steady := by
  unfold State.bar4Read
  dsimp only
  split <;> simp

@[simp] theorem State.storeIf_steady {a b c d} : (s.storeIf a b c d).steady = s.steady := by simp [State.storeIf]
@[simp] theorem State.imageWrite_steady {a b} : (s.imageWrite a b).steady = s.steady := by simp [State.imageWrite]
@[simp] theorem State.barrierCtrl_steady {a b} : (s.barrierCtrl a b).steady = s.steady := by simp [State.barrierCtrl]
@[simp] theorem State.writePackage_steady {a b c} : (s.writePackage a b c).steady = s.steady := by simp [State.writePackage]

@[simp] theorem State.chkWrites_steady {a b c d e} : (s.chkWrites a b c d e).steady = s.steady := by
  unfold State.chkWrites
  split <;> simp

@[simp] theorem State.writeTileDie_steady {a b c d e} : (s.writeTileDie a b c d e).steady = s.steady := by simp [State.writeTileDie]
@[simp] theorem State.ftmCtrlWrite_steady {a b c} : (s.ftmCtrlWrite a b c).steady = s.steady := by simp [State.ftmCtrlWrite]
@[simp] theorem State.portFcWrite_steady {a b c d} : (s.portFcWrite a b c d).steady = s.steady := by simp [State.portFcWrite]
@[simp] theorem State.shutterCtrl_steady {a b c} : (s.shutterCtrl a b c).steady = s.steady := by simp [State.shutterCtrl]
@[simp] theorem State.writeShutter_steady {a b c d e} : (s.writeShutter a b c d e).steady = s.steady := by simp [State.writeShutter]
@[simp] theorem State.writeSched_steady {a b c d e} : (s.writeSched a b c d e).steady = s.steady := by simp [State.writeSched]
@[simp] theorem State.routeCtrl_steady {a b} : (s.routeCtrl a b).steady = s.steady := by simp [State.routeCtrl]
@[simp] theorem State.writePortLow_steady {a b c d e} : (s.writePortLow a b c d e).steady = s.steady := by simp [State.writePortLow]
@[simp] theorem State.writePortDie_steady {a b c d e} : (s.writePortDie a b c d e).steady = s.steady := by simp [State.writePortDie]

@[simp] theorem State.writeTile_steady {a b c d e} : (s.writeTile a b c d e).steady = s.steady := by
  unfold State.writeTile
  (repeat' split) <;> simp

@[simp] theorem State.regEffect_steady {a b c d e} : (s.regEffect a b c d e).steady = s.steady := by
  unfold State.regEffect
  (repeat' split) <;> simp

@[simp] theorem State.regWrite_steady {a b c d} : (s.regWrite a b c d).steady = s.steady := by
  unfold State.regWrite
  dsimp only
  (repeat' split) <;> simp

@[simp] theorem State.bar4Access_steady {a b c} : (s.bar4Access a b c).steady = s.steady := by
  unfold State.bar4Access
  dsimp only
  split <;> simp

/-! Operations of `Machine/Porter.lean`. -/

@[simp] theorem State.porterRead_steady {a b} : (s.porterRead a b).1.steady = s.steady := by simp [State.porterRead]
@[simp] theorem State.porterWrite_steady {a b c} : (s.porterWrite a b c).steady = s.steady := by simp [State.porterWrite]

theorem State.viewPut_steady {u b t} (h : s.viewPut u b = some t) : t.steady = s.steady := by
  unfold State.viewPut at h
  dsimp only at h
  split at h
  · cases h
    simp
  · split at h
    · cases h
    · cases h
      simp

@[simp] theorem State.withKey_steady {a b} : (s.withKey a b).steady = s.steady := by simp [State.withKey]

@[simp] theorem State.keyBlow_steady {a b} : (s.keyBlow a b).steady = s.steady := by
  unfold State.keyBlow
  split <;> simp

theorem State.porterView_steady {w f g} (hf : ∀ u t, f u = some t → t.steady = s.steady) : (s.porterView w f g).1.steady = s.steady := by
  unfold State.porterView
  split
  · split
    · next h => exact hf _ _ h
    · rfl
  · simp

@[simp] theorem State.porterKey_steady {a b c} : (s.porterKey a b c).1.steady = s.steady := by simp [State.porterKey]
@[simp] theorem State.porterTrace_steady {a b} : (s.porterTrace a b).1.steady = s.steady := by simp [State.porterTrace]

@[simp] theorem State.porterDo_steady {a r} : (s.porterDo a r).1.steady = s.steady := by
  unfold State.porterDo
  split
  · simp
  · simp
  · exact State.porterView_steady fun _ _ h => by cases h; rfl
  · exact State.porterView_steady fun _ _ h => State.viewPut_steady h
  · simp
  · simp
  · simp

@[simp] theorem State.porterRun_steady {a b} : (s.porterRun a b).1.steady = s.steady := by simp [State.porterRun]

@[simp] theorem State.porterServe_steady {a b} : (s.porterServe a b).steady = s.steady := by
  unfold State.porterServe
  dsimp only
  split <;> simp

@[simp] theorem State.porterTurn_steady : s.porterTurn.steady = s.steady := by
  unfold State.porterTurn
  split <;> simp

@[simp] theorem State.porterDrain_steady : s.porterDrain.steady = s.steady := by simp [State.porterDrain]
@[simp] theorem State.porterArrives_steady {a b} : (s.porterArrives a b).steady = s.steady := by simp [State.porterArrives]
@[simp] theorem State.porterRequest_steady {a b} : (s.porterRequest a b).steady = s.steady := by simp [State.porterRequest]

/-! Operations of `Machine/Tick.lean`. -/

@[simp] theorem State.refill_steady {a b c} : (s.refill a b c).steady = s.steady := by simp [State.refill]
@[simp] theorem State.refillAll_steady : s.refillAll.steady = s.steady := by simp [State.refillAll]
@[simp] theorem State.runCounts_steady : s.runCounts.steady = s.steady := by simp [State.runCounts]
@[simp] theorem State.pinnedCounts_steady : s.pinnedCounts.steady = s.steady := by simp [State.pinnedCounts]
@[simp] theorem State.capCounts_steady : s.capCounts.steady = s.steady := by simp [State.capCounts]
@[simp] theorem State.blockCounts_steady {a} : (s.blockCounts a).steady = s.steady := by simp [State.blockCounts]
@[simp] theorem State.counts_steady : s.counts.steady = s.steady := by simp [State.counts]

end

end Sys2Proof.Machine
end

section
/-! PROOFS. Every command answers a next state, leaves the queue of commands as it was and, but for those of the test access port, the
instruction that the port holds; a period of KCLK counts one (O5, O6, O7). -/

namespace Sys2Proof.Machine

/-! Commands that do not answer by one state. -/

section
variable {s : State}

/-- The answer is a state as steady as `s`. -/
def Answers (s : State) (r : Out) : Prop := ∃ t, r = .next t ∧ t.steady = s.steady

@[simp] theorem answers_next {t : State} : Answers s (.next t) ↔ t.steady = s.steady := ⟨fun ⟨_, h, ht⟩ => by cases h; exact ht, fun h => ⟨t, rfl, h⟩⟩

theorem execRcRegisterRead_answers {src addr width} : Answers s (execRcRegisterRead src addr width s) := by
  unfold execRcRegisterRead
  dsimp only
  (repeat' split) <;> simp

theorem execDescriptorFetch_answers {t c which upset} : Answers s (execDescriptorFetch t c which upset s) := by
  unfold execDescriptorFetch
  dsimp only
  (repeat' split) <;> simp

theorem execGraphStart_answers {t} : Answers s (execGraphStart t s) := by
  unfold execGraphStart
  dsimp only
  (repeat' split) <;> simp

theorem execPeriodicStart_answers {t timer} : Answers s (execPeriodicStart t timer s) := by
  unfold execPeriodicStart
  dsimp only
  (repeat' split) <;> simp

theorem execLateStart_answers {t timer} : Answers s (execLateStart t timer s) := by
  unfold execLateStart
  dsimp only
  (repeat' split) <;> simp

theorem execHandlerStart_answers {t} : Answers s (execHandlerStart t s) := by
  unfold execHandlerStart
  dsimp only
  (repeat' split) <;> simp

theorem execListCommitDone_answers {e readBad} : Answers s (execListCommitDone e readBad s) := by
  unfold execListCommitDone
  dsimp only
  (repeat' split) <;> simp

theorem execInstanceComplete_answers {e seq t} : Answers s (execInstanceComplete e seq t s) := by
  unfold execInstanceComplete
  dsimp only
  (repeat' split) <;> simp

theorem execMemberLost_answers {e node} : Answers s (execMemberLost e node s) := by
  unfold execMemberLost
  dsimp only
  (repeat' split) <;> simp

theorem execResponseReceive_answers {f} : Answers s (execResponseReceive f s) := by
  unfold execResponseReceive
  dsimp only
  (repeat' split) <;> simp

theorem execRequestRetry_answers {t reqId} : Answers s (execRequestRetry t reqId s) := by
  unfold execRequestRetry
  dsimp only
  (repeat' split) <;> simp

theorem execPtpEventMessageSend_answers {p msg} : Answers s (execPtpEventMessageSend p msg s) := by
  unfold execPtpEventMessageSend
  dsimp only
  (repeat' split) <;> simp

end

/-! Every command. -/

/-- The commands of the test access port (R393). -/
def tapCommands : List Instr := [.bypass, .idcode, .samplePreload, .extest, .clamp, .highz, .extestPulse, .extestTrain, .testLogicReset]

/-- The answer is a state with the queue and the scan instruction of `s`. -/
def Waits (s : State) (r : Out) : Prop := ∃ t, r = .next t ∧ t.pending = s.pending ∧ t.tap = s.tap

theorem Answers.waits {s : State} {r : Out} (h : Answers s r) : Waits s r := by
  obtain ⟨t, ht, hs⟩ := h
  exact ⟨t, ht, congrArg Prod.fst hs, congrArg (·.2.1) hs⟩

/-- A command that answers a state as steady as `s`. -/
theorem waits_next {s t : State} (h : t.steady = s.steady) : Waits s (.next t) := (answers_next.2 h).waits

/-- A command that runs an iteration. -/
theorem waits_iterate {s : State} {t c op : Nat} {body : Run → It (State → State)} (h : ∀ e, ItStill s.steady (body e) Calm) :
    Waits s (.next (s.iterate t c op body)) := waits_next (State.iterate_steady h)

theorem execKeepLock_waits {s : State} : Waits s (execKeepLock s) := by
  refine ⟨_, rfl, ?_, ?_⟩ <;> split <;> rfl

theorem execPackageReset_waits {s : State} {ns : Nat} : Waits s (execPackageReset ns s) := by
  have hFree : (if 1000 ≤ ns ∧ ns < 10000 then s.useFree else s).steady = s.steady := by simp
  unfold execPackageReset State.resetPulse
  dsimp only
  generalize (if 1000 ≤ ns ∧ ns < 10000 then s.useFree else s) = u at hFree ⊢
  generalize (if ns < 1000 then false else if 10000 ≤ ns then true else bit s.freeNow.toNat 0) = hit
  cases hit
  · exact waits_next hFree
  · exact ⟨_, rfl, congrArg Prod.fst hFree, congrArg (·.2.1) hFree⟩

theorem exec_waits {c : Instr} {s : State} (h : c ∉ tapCommands) : Waits s (exec c s) := by
  cases c
  case bypass | idcode | samplePreload | extest | clamp | highz | extestPulse | extestTrain | testLogicReset => simp [tapCommands] at h
  case keepLock => exact execKeepLock_waits
  case packageReset => exact execPackageReset_waits
  case vauxLow => exact ⟨_, rfl, rfl, rfl⟩
  case rcRegisterRead => exact execRcRegisterRead_answers.waits
  case descriptorFetch => exact execDescriptorFetch_answers.waits
  case graphStart => exact execGraphStart_answers.waits
  case periodicStart => exact execPeriodicStart_answers.waits
  case lateStart => exact execLateStart_answers.waits
  case handlerStart => exact execHandlerStart_answers.waits
  case listCommitDone => exact execListCommitDone_answers.waits
  case instanceComplete => exact execInstanceComplete_answers.waits
  case memberLost => exact execMemberLost_answers.waits
  case responseReceive => exact execResponseReceive_answers.waits
  case requestRetry => exact execRequestRetry_answers.waits
  case ptpEventMessageSend => exact execPtpEventMessageSend_answers.waits
  case nop => exact waits_iterate fun _ => nopBody_still
  case select => exact waits_iterate fun _ => selectorBody_still
  case setmode => exact waits_iterate fun _ => setmodeBody_still
  case cmpset => exact waits_iterate fun _ => cmpsetBody_still
  case cntset => exact waits_iterate fun _ => cntsetBody_still
  case periodic => exact waits_iterate fun _ => periodicBody_still
  case trigger => exact waits_iterate fun _ => triggerBody_still
  case mma => exact waits_iterate fun _ => mmaBody_still
  case prune => exact waits_iterate fun _ => pruneBody_still
  case add | sub | mul | fma | min | max | abs | neg | cmpeq | cmpne | cmplt | cmple | selectVector | exp2 | log2 | rcp | rsqrt | cvt | and | or | xor | not |
    shl | shr | popcnt | gfmul | gfmulc | gfmac | gfinv | topk | stsum => exact waits_iterate fun _ => vectorBody_still
  case copy => exact waits_iterate fun _ => copyBody_still
  case fill => exact waits_iterate fun _ => fillBody_still
  case ocload => exact waits_iterate fun _ => ocloadBody_still
  case ocevict => exact waits_iterate fun _ => ocevictBody_still
  case rload => exact waits_iterate fun _ => rloadBody_still
  case rstore => exact waits_iterate fun _ => rstoreBody_still
  case rfadd => exact waits_iterate fun _ => rfaddBody_still
  case rcas => exact waits_iterate fun _ => rcasBody_still
  case racc => exact waits_iterate fun _ => raccBody_still
  case rfpadd => exact waits_iterate fun _ => rfpaddBody_still
  case accsum => exact waits_iterate fun _ => accsumBody_still
  case accread => exact waits_iterate fun _ => accreadBody_still
  case accclr => exact waits_iterate fun _ => accclrBody_still
  case accstore => exact waits_iterate fun _ => accstoreBody_still
  case accload => exact waits_iterate fun _ => accloadBody_still
  case ssort => exact waits_iterate fun _ => ssortBody_still
  case sgather => exact waits_iterate fun _ => sgatherBody_still
  case sfilter => exact waits_iterate fun _ => sfilterBody_still
  case sminmax => exact waits_iterate fun _ => sminmaxBody_still
  case allred | redscat | allgath | bcast | barrier | alltoall | alltoallv | sortmerge | filtcomp | parenc |
    parreb => exact waits_iterate fun _ => colBody_still
  all_goals exact waits_next (by simp)

/-- Settles O6: commands of the test access port change their instruction alone, and of the others `exec_waits` says it. -/
theorem commandsCompleteAndKeepQueue : Obligations.CommandsCompleteAndKeepQueue := by
  intro c s
  by_cases h : c ∈ tapCommands
  · simp only [tapCommands, List.mem_cons, List.not_mem_nil, or_false] at h
    obtain rfl | rfl | rfl | rfl | rfl | rfl | rfl | rfl | rfl := h <;> exact ⟨_, rfl, rfl⟩
  · obtain ⟨t, ht, hp, -⟩ := exec_waits h
    exact ⟨t, ht, hp⟩

/-- Settles O7, by `exec_waits`: no command but the nine touches the port. -/
theorem scanStateFrame : Obligations.ScanStateFrame := by
  intro c s t h ht
  obtain ⟨u, hu, -, hTap⟩ := exec_waits h
  cases ht.symm.trans hu
  exact hTap

/-! A period of KCLK. -/

theorem State.timePasses_kclk {s : State} : s.timePasses.clk.kclk = s.clk.kclk + 1 := rfl

theorem State.kclk_of_steady {s t : State} (h : t.steady = s.steady) : t.clk.kclk = s.clk.kclk := congrArg (·.2.2) h

theorem State.period_kclk {s : State} : s.period.clk.kclk = s.clk.kclk + 1 := by
  refine (State.kclk_of_steady (s := s.timePasses) ?_).trans State.timePasses_kclk
  unfold State.period
  dsimp only
  split <;> split <;> simp

theorem tick_of_unlocked {s : State} (h : s.keepLocked = false) : tick s = s := by simp [tick, h]

theorem tick_kclk {s : State} (h : s.keepLocked = true) : (tick s).clk.kclk = s.clk.kclk + 1 := by
  rw [tick, if_neg (by simp [h]), State.withPending_clk, State.period_kclk]

/-- Settles O5: of a period only `State.timePasses` moves the count. -/
theorem idleStep : Obligations.IdleStep := by
  intro s h
  refine ⟨fun hk => ?_, fun hk => ⟨_, step_of_idle h, tick_kclk hk⟩⟩
  rw [step_of_idle h, tick_of_unlocked hk]

end Sys2Proof.Machine
end
